-- ==== Sys2Proof/Word.lean ====
section
/-! DEFINITION. The word types of the block and the types in which its register map is written. -/

namespace Sys2Proof

/-- A register value: 32 bits (R6). -/
abbrev Word := BitVec 32

/-- An octet of a frame, a packet or a record. -/
abbrev Octet := BitVec 8

/-- An EUI-64. -/
abbrev Eui := BitVec 64

namespace Machine

/-- The access codes of R6. -/
inductive Acc where
  | rw | ro | wo | wl | rt | rc | pw | sc
  deriving DecidableEq, Repr

/-- One field of a register: its lowest bit, width, access code, reset value and commit group (R50; 0 where the
field is not SC). -/
structure FieldD where
  lo : Nat
  w : Nat
  acc : Acc
  rst : Nat
  grp : Nat
  deriving DecidableEq, Repr

/-- One register, or one family of registers at regular strides: BAR0 address of the first, (stride, count) per
index, domain code of R56, counter half (0 none, 1 low, 2 high), fields. -/
structure RegD where
  base : Nat
  dims : List (Nat × Nat)
  dom : Nat
  cnt : Nat
  fields : List FieldD
  deriving DecidableEq, Repr

/-- A field of one register, named by the register's BAR0 address. -/
structure Field where
  reg : Nat
  lo : Nat
  w : Nat
  deriving DecidableEq, Repr

end Machine
end Sys2Proof
end

