-- ==== Sys2Proof/Machine/Tab.lean ====
section
/-! DEFINITION. Sparse tables: lists of (key, value) pairs with keys strictly rising. The one data structure in which
the model keeps what the spec numbers (registers, slots, entries, neighbours, queues). -/

namespace Sys2Proof.Machine

/-- A sparse table keyed by number. -/
abbrev Tab (α : Type) := List (Nat × α)

/-- The value at key `k`, if the table lists one. -/
def Tab.find {α : Type} : Tab α → Nat → Option α
  | [], _ => none
  | (a, x) :: t, k => if a = k then some x else Tab.find t k

/-- The table with key `k` mapped to `x`. -/
def Tab.put {α : Type} : Tab α → Nat → α → Tab α
  | [], k, x => [(k, x)]
  | (a, y) :: t, k, x =>
    if k < a then (k, x) :: (a, y) :: t
    else if k = a then (k, x) :: t
    else (a, y) :: Tab.put t k x

/-- The table without key `k`. -/
def Tab.del {α : Type} : Tab α → Nat → Tab α
  | [], _ => []
  | (a, y) :: t, k => if a = k then Tab.del t k else (a, y) :: Tab.del t k

/-- The table with the value at `k` changed by `f`, where there is one. -/
def Tab.upd {α : Type} (t : Tab α) (k : Nat) (f : α → α) : Tab α :=
  match t.find k with
  | none => t
  | some x => t.put k (f x)

/-- The value at `k`, or `d` where none is listed. -/
def Tab.getD' {α : Type} (t : Tab α) (k : Nat) (d : α) : α := (t.find k).getD d

/-- Writing a table whose unlisted keys read as `d`: writing `d` unlists the key. -/
def Tab.putD {α : Type} [DecidableEq α] (t : Tab α) (d : α) (k : Nat) (x : α) : Tab α :=
  if x = d then t.del k else t.put k x

/-- Keys strictly rising, all of them above `lo`. -/
def Tab.sortedFrom {α : Type} : Option Nat → Tab α → Bool
  | _, [] => true
  | lo, (a, _) :: t => (match lo with | none => true | some b => decide (b < a)) && Tab.sortedFrom (some a) t

/-- The canonical form: keys strictly rising. -/
def Tab.sorted {α : Type} (t : Tab α) : Bool := Tab.sortedFrom none t

/-- How many entries the table lists. -/
def Tab.count {α : Type} (t : Tab α) : Nat := t.length

/-- The entries that satisfy `p`. -/
def Tab.only {α : Type} (t : Tab α) (p : Nat → α → Bool) : Tab α := t.filter (fun e => p e.1 e.2)

/-- Every value changed by `f`. -/
def Tab.mapv {α β : Type} (t : Tab α) (f : Nat → α → β) : Tab β := t.map (fun e => (e.1, f e.1 e.2))

/-- Put `x` into a sorted list, before the first element that it does not come after. -/
def insertBy {α : Type} (le : α → α → Bool) (x : α) : List α → List α
  | [] => [x]
  | y :: l => if le x y then x :: y :: l else y :: insertBy le x l

/-- The list in the order `le`; elements of one rank keep their places. -/
def sortBy {α : Type} (le : α → α → Bool) (l : List α) : List α := l.foldr (insertBy le) []

/-- The values in key order. -/
def Tab.vals {α : Type} (t : Tab α) : List α := t.map (fun e => e.2)

/-- The keys in order. -/
def Tab.keys {α : Type} (t : Tab α) : List Nat := t.map (fun e => e.1)

/-- The least number below `n` that the table does not list, searching from `k` with fuel. -/
def Tab.freeFrom {α : Type} (t : Tab α) : Nat → Nat → Option Nat
  | 0, _ => none
  | f + 1, k => if (t.find k).isNone then some k else Tab.freeFrom t f (k + 1)

/-- The list with element `i` replaced. -/
def listSet {α : Type} : List α → Nat → α → List α
  | [], _, _ => []
  | _ :: t, 0, x => x :: t
  | a :: t, i + 1, x => a :: listSet t i x

/-- Bit `i` of `n`. -/
def bit (n i : Nat) : Bool := n / 2 ^ i % 2 == 1

/-- `n` with bit `i` set to `b`. -/
def setBit (n i : Nat) (b : Bool) : Nat :=
  if bit n i then (if b then n else n - 2 ^ i) else (if b then n + 2 ^ i else n)

/-- The `w`-bit two's complement reading of `n`. -/
def signed (w n : Nat) : Int := if 2 * n < 2 ^ w then (n : Int) else (n : Int) - 2 ^ w

/-- The `w`-bit two's complement code of `z`. -/
def unsigned (w : Nat) (z : Int) : Nat := (z % (2 ^ w : Int)).toNat

/-- Little-endian number of a list of octets (first octet least significant). -/
def leNat : List Octet → Nat
  | [] => 0
  | b :: t => b.toNat + 256 * leNat t

/-- `k` octets of `n`, least significant first. -/
def leOctets : Nat → Nat → List Octet
  | 0, _ => []
  | k + 1, n => BitVec.ofNat 8 n :: leOctets k (n / 256)

/-- Big-endian number of a list of octets (first octet most significant). -/
def beNat (l : List Octet) : Nat := leNat l.reverse

/-- `k` octets of `n`, most significant first. -/
def beOctets (k n : Nat) : List Octet := (leOctets k n).reverse

/-- The slice of `n` octets from offset `o`. -/
def slice {α : Type} (l : List α) (o n : Nat) : List α := (l.drop o).take n

/-- Octet number of a boolean. -/
def b2n (b : Bool) : Nat := if b then 1 else 0

end Sys2Proof.Machine
end

