-- ==== Sys2Proof/Syntax.lean ====
section
/-! DEFINITION. The commands of the block: one constructor per row of spec/opcode_table.json, with the values that the
environment brings with the command (the table gives its rows no operand fields, so the operands are the model's own,
log entry 1). The types of those operands stand before the one inductive `Instr`. -/

namespace Sys2Proof

namespace Machine

/-- Who makes a register access (R56). -/
inductive Initiator where
  | pcie | smbus | prc | sup | cfg
  deriving DecidableEq, Repr

/-- The maker of a register access: its initiator and, for PRC, whether the issuing processor runs in a secure
context (R329, R331). -/
structure Req where
  init : Initiator
  prcSecure : Bool
  deriving DecidableEq, Repr

/-- The moment of an event: grid time in GT units (R69) and free time in µs (R94). The mains and the reference clock
are outside the block, so a command that needs the time carries it. -/
structure Time where
  gt : Nat
  ft : Nat
  deriving DecidableEq, Repr

/-- What PWR measured of a dip that a supply reset ends (R420): the code of its length, and that of the lowest level of the rail that fell
first. -/
structure DipMeas where
  durb : Nat
  vminb : Nat
  deriving DecidableEq, Repr


/-- What ends a trial by UPD_ROLLBACK (R357): ROLLBACK written, with its tag, or a failure condition of R355. -/
inductive Rollback where
  | written (rq : Req) (tag : Nat)
  | failure
  deriving DecidableEq, Repr

/-- The uncorrectable errors of R422's class 5 that have no row of their own, and any other fault that a unit reports (class,
unit, DETAIL, source): an engine of SIC with its job, a lane or a transmission in CDC's buffers, a neighbour record, cells or
counters of MSQ, SLV's working state, an account of BGT, a packet of QMG that a consumer reads, HIF's buffer with its port and
the packet it held, an I3 instance. -/
inductive UnitFault where
  | sic (job : Nat)
  | cdcRx (lane : Nat)
  | cdcTx (id chips : Nat)
  | msqRecord (r : Nat)
  | msqCells (cells : List Nat)
  | msqCounters
  | slv
  | bgt (key : Nat)
  | cell (start : Nat)
  | hif (port : Nat) (pkt : Option Nat)
  | i3 (p : Nat)
  | dram (fixed : Bool) (reader ch region addr : Nat)
  | other (cls unit detail src : Nat)
  deriving DecidableEq, Repr
/-- Who transmits or listens: MSQ for native frames, LGC for I3 frames (R112), BGT for budget assessments (R110). -/
inductive TxUser where
  | msq | lgc | bgt
  deriving DecidableEq, Repr

/-- Who reads the sample history (R108). -/
inductive HistReader where
  | sic | dmx | msq
  deriving DecidableEq, Repr

/-- What a receiver measures of a frame: RSSI of the lower and upper port (signed dBm × 4), combined Es/N0 (signed dB
× 4) and carrier offset (signed, 0.01 ppm), as the quality record carries them (R153). -/
structure Meas where
  rssi0 : Int
  rssi1 : Int
  snr : Int
  fofs : Int
  deriving DecidableEq, Repr

/-- What a lane measured of its symbols since its last report, beside the rise of R145 (R145, R147, R153): least ratio of despread energy
to received power in 1/64, the Es/N0 estimates of the lower and upper port, a pair for each 8 symbols, the length of an I3 PHY header,
where the lane read it, and on a diversity pair the correlations of each symbol with the 16 values, by port. -/
structure SymMeas where
  ratio : Nat
  ws : List (Nat × Nat)
  len : Option Nat
  pair : List (List Int × List Int)
  deriving DecidableEq, Repr

/-- The decoded fields of a native PHY header (R124): payload octets, parity level, depth code, spreading switch. -/
structure Hdr where
  len : Nat
  par : Nat
  dep : Nat
  sw : Nat
  deriving DecidableEq, Repr

/-- A preamble that a hidden search found inside a job's window (R162): L_H code, interval in GT, measurements. -/
structure HiddenDet where
  lh : Nat
  start : Nat
  fin : Nat
  meas : Meas
  deriving DecidableEq, Repr

/-- What a decoding pass of SIC gave (R162): the two received header words, the received coded octets, the port count of the last SFD
chip's sample (R154) and the measurements re-estimated from the residual. -/
structure PassDecode where
  w0 : Nat
  w1 : Nat
  coded : List Octet
  sfd : Nat
  meas : Meas
  deriving DecidableEq, Repr

/-- A cell (R222): slot offset, slotframe, DIR (0 receive, 1 transmit, 2 shared), EXP, BEACON, channel offset, template,
neighbour record, DED. -/
structure Cell where
  slot : Nat
  sf : Nat
  dir : Nat
  exp : Bool
  beacon : Bool
  chofs : Nat
  tpl : Nat
  record : Nat
  ded : Bool
  deriving DecidableEq, Repr

/-- What the mains estimator measures of a cycle (R67, R68): distance of the phase from the prediction in 0.01°, THD in 0.1 %, frequency
in mHz, rate of change of frequency in mHz/s, amplitude in 1/16 of full scale and in percent of the qualified one, and whether a
disturbance was longer than 1 ms in a half cycle; how long ago the last accepted edge was, in ns, and how long a condition of the last row
of R67 has held without a break, in µs. -/
structure Sense where
  jump : Nat
  thd : Nat
  freq : Nat
  rocof : Nat
  amp : Nat
  ampPct : Nat
  long : Bool
  since : Nat
  held : Nat
  deriving DecidableEq, Repr

/-- A detection of a directed search (R197): global slice, chip timing, GT and measurements. -/
structure SearchDet where
  slice : Nat
  timing : Nat
  gt : Nat
  meas : Meas
  deriving DecidableEq, Repr

/-- What a transmission is to BGT (R210, R216): an ACK, a beacon or any other frame. -/
inductive TxKind where
  | ack | beacon | data
  deriving DecidableEq, Repr

/-- A shortfall record (R243). -/
structure Short where
  node : Nat
  prio : Nat
  up : Bool
  dn : Bool
  unplaced : Bool
  want : Nat
  got : Nat
  deriving DecidableEq, Repr

/-- A demand record (R224). -/
structure DemRec where
  node : Nat
  auto : Bool
  prio : Nat
  pin : Bool
  home : Nat
  uph : Nat
  dnh : Nat
  upoct : Nat
  dnoct : Nat
  uplat : Nat
  dnlat : Nat
  deriving DecidableEq, Repr

/-- A link as planned (R228, R230): SWITCH, PARITY and DEPTH of its neighbour record, GUARD and SUPTO, the node's demand. -/
structure LinkPlan where
  sw : Nat := 0
  par : Nat := 1
  dep : Nat := 0
  guard : Nat := 0
  supto : Nat := 0
  dem : Option DemRec := none
  deriving DecidableEq, Repr

/-- A cell of the cascade's schedule (R241): the cell, its link's plan, the endpoint of the PJ-8100 that holds it (R225), its node. -/
structure PlanCell where
  cell : Cell
  plan : LinkPlan := {}
  chip : Nat
  node : Option Nat := none
  deriving DecidableEq, Repr

/-- Where SLV puts a node (R228 to R230): its cells, SWITCH, PARITY and DEPTH, and the activation EC. -/
structure Placement where
  node : Nat
  record : Nat
  cells : List Cell
  sw : Nat
  par : Nat
  dep : Nat
  ec : Nat
  deriving DecidableEq, Repr

/-- The two moments of a command of a unit's queue: its register write, and the end of its run at `t`. -/
inductive CmdStep where
  | write (rq : Req)
  | run (t : Time)
  deriving DecidableEq, Repr

/-- The two moments of a SOLVE (R232): its register write, and its start at `t`, with the border placements that an anchor's engine found for
round 1 (R241). -/
inductive SolveStep where
  | write (rq : Req)
  | run (t : Time) (border : List Placement)
  deriving DecidableEq, Repr

/-- The end of the pulse of generator `n` at `t` (R92). -/
structure PulseEnd where
  t : Time
  n : Nat
  deriving DecidableEq, Repr

/-- The link latencies that a port measures at lock, in ns (R100). -/
structure LinkLat where
  lat : Nat
  txlat : Nat
  deriving DecidableEq, Repr

/-- What takes a port out of UP (R99): CRC-12 and disparity errors within 1 ms, and whether a lane lost lock. -/
structure LinkErrs where
  errs : Nat
  lost : Bool
  deriving DecidableEq, Repr

/-- The modes of an assessment (R110): energy, carrier or both. -/
structure CcaMode where
  energy : Bool
  carrier : Bool
  deriving DecidableEq, Repr

/-- What an uncorrectable error of QMG's accounting struck (R262): a counter by its number in the register map, the descriptor of a free cell
or of a packet's chain, or a queue record. -/
inductive AuditHit where
  | counter (i : Nat)
  | freeCell (cell : Nat)
  | chain (cell : Nat)
  | queue (q : Nat)
  deriving DecidableEq, Repr

/-- Who holds a packet or produces into a queue (R251, R510): no one, an initiator of R56 (the PRC processors count as
one), or a hardware consumer or producer, by unit index and port. -/
inductive Holder where
  | none
  | init (i : Initiator)
  | hw (unit port : Nat)
  deriving DecidableEq, Repr

/-- A memory error that an operation of FWD meets (R280, R281): a hot cache line, a bootstrap entry, a filter vector in
one or both copies, a bucket read as uncorrectable (again when read again). -/
inductive FwdErr where
  | hot (set line : Nat)
  | boot (i : Nat)
  | filter (v : Nat) (both : Bool)
  | bucket (pfx : Bool) (b : Nat) (again : Bool)
  deriving DecidableEq, Repr

/-- A step of a table command (R287): its write at the host port, its write at PRC's private port with argument and
data, its completion at either, a stretch of `n` buckets of the visit of FLUSH (R294), or a command of the reserved OP `op` at PRC's
private port (R288). -/
inductive FwdStep where
  | write (rq : Req)
  | priv (secure : Bool) (arg : Word) (data : List Octet)
  | run (t : Time) (priv : Bool) (errs : List FwdErr)
  | visit (t : Time) (n : Nat) (errs : List FwdErr)
  | privOther (op : Nat) (secure : Bool) (arg : Word) (data : List Octet)
  deriving DecidableEq, Repr

/-- A learning message that arrives (R295, R297), with the memory errors that its handling meets (R280, R281). -/
structure LxRx where
  msg : List Octet
  errs : List FwdErr := []
  deriving DecidableEq, Repr

/-- A learning hint (R275, R361). -/
inductive Hint where
  | direct
  | relayed (q : Nat)
  deriving DecidableEq, Repr

/-- A key slot (R306): key (octet 0 least significant), USE, ALG, ORIGIN, BIND, ANY, whether it is ACTIVE, the end of its
reserved block of frame counter values, and what ATTEST says of it (R320): KUM counter and GT of installation. -/
structure KeySlot where
  key : Nat
  use : Nat
  alg : Nat
  origin : Nat
  bind : Nat
  any : Bool
  active : Bool
  ctrres : Nat
  kumctr : Nat
  instGt : Nat
  deriving DecidableEq, Repr

/-- A sealed record (R309). -/
structure Sealed where
  kumhw : Nat
  sealgen : Nat
  epoch : Nat
  jseq : Nat
  deriving DecidableEq, Repr

/-- A slot's entry in the key store: its wrapped form of 64 octets (R307, R309), and beside it the KUMCTR and INSTGT of R320 (log entry
46). -/
structure StoreEntry where
  wrapped : List (BitVec 8)
  kumctr : Nat
  instGt : Nat
  deriving DecidableEq, Repr

/-- The key store in flash (R507): whether every octet reads 0xFF, the two seal pages (a sealed record under the seal key, R309; log
entry 144), the live slot entries, the active journal area and the entries written into it. -/
structure KeyStore where
  erased : Bool
  page0 : List (BitVec 8)
  page1 : List (BitVec 8)
  entries : List (Nat × StoreEntry)
  area : Nat
  fill : Nat
  deriving DecidableEq, Repr

/-- Who asks KVT for a key (R305): MSQ for a node's link key or a beacon key, HIF for a port, CSC for a port, CRY for a
job of PRC firmware. -/
inductive KeyUser where
  | link (node : Nat)
  | beacon
  | macsec (port : Nat)
  | cascade (port : Nat)
  | general
  deriving DecidableEq, Repr

/-- The modes of CRY's bulk AES (R322). -/
inductive AesMode where
  | ecb | cbc | ctr | gcm | cmac | kw
  deriving DecidableEq, Repr

/-- An AES job (R322): mode, direction, a key that the user brings (16 or 32 octets; unused where a slot is named), IV or first counter
block, additional data, data. -/
structure AesJob where
  mode : AesMode
  enc : Bool
  key : List (BitVec 8)
  iv : List (BitVec 8)
  aad : List (BitVec 8)
  data : List (BitVec 8)
  deriving DecidableEq, Repr

/-- A job of the public-key engine (R322): public keys as SEC 1 octets, a signature as r then s. -/
inductive PkJob where
  | verify (pub msg sig : List (BitVec 8))
  | sign (d : Nat) (msg : List (BitVec 8))
  | ecdh (d : Nat) (pub : List (BitVec 8))
  | pair (d : Nat) (pub : List (BitVec 8))
  deriving DecidableEq, Repr

/-- A job of the hash engine (R322); `hmac` with a key that the user brings, unused where a slot is named. -/
inductive HashJob where
  | sha256 (msg : List (BitVec 8))
  | sha384 (msg : List (BitVec 8))
  | hmac256 (key msg : List (BitVec 8))
  | hmac384 (key msg : List (BitVec 8))
  deriving DecidableEq, Repr

/-- The CRY jobs (R322): AES, public key, hash, or so many octets of the DRBG. -/
inductive CryKind where
  | aes (j : AesJob)
  | pk (j : PkJob)
  | hash (j : HashJob)
  | drbg (n : Nat)
  deriving DecidableEq, Repr

/-- A data access that firmware makes to DRAM or to PD_SEC's SRAM (R330, R336): region code, address, whether it writes. -/
structure DataAcc where
  region : Nat
  addr : Nat
  wr : Bool
  deriving DecidableEq, Repr

/-- How a PRC processor runs (R331): which one, in its secure context or not, and the data accesses that it issues in it. -/
structure PrcCtx where
  proc : Nat
  secure : Bool
  accs : List DataAcc
  deriving DecidableEq, Repr

/-- A LINK command that the firmware makes of a DAO or a neighbour report (R226, R362): its NODE, its TAG and the octets of the record. -/
structure LinkCmd where
  node : Nat
  tag : Nat
  data : List Octet
  deriving DecidableEq, Repr

/-- A DIO as the firmware sends it (R362): the octets before its base object, the fields that no register gives (RANK, the grounded flag,
preference, DTSN, the redundancy constant, the two rank steps and the route lifetime), and the options after its configuration. -/
structure Dio where
  head : List Octet
  rank : Nat
  grounded : Bool
  prf : Nat
  dtsn : Nat
  redun : Nat
  maxInc : Nat
  minInc : Nat
  life : Nat
  unit : Nat
  rest : List Octet
  deriving DecidableEq, Repr

/-- What a PRC processor makes of a packet (R360 to R362): the decompressed packet (none where it cannot be), the compressed
frame of a downlink packet, the source route taken from the parent sets with the frame, the node and parents of a DAO (none
for another RPL message) and the link records it takes from the message, or nothing but its delivery to the firmware. -/
inductive PrcWork where
  | uplink (packet : Option (List Octet))
  | downlink (frame : List Octet)
  | relayed (route : List Nat) (frame : List Octet)
  | rpl (dao : Option (Nat × List Nat)) (links : List LinkCmd)
  | consume
  deriving DecidableEq, Repr

/-- The header of an arriving cascade frame (R365), which frame type and length come with, the octets of its trailer (R366), and whether
the frame buffer found an uncorrectable error in it (R385). -/
structure CscHdr where
  dst : Nat
  src : Nat
  lseq : Nat
  ackseq : Nat
  rerouted : Bool
  trailer : List Octet
  bad : Bool
  deriving DecidableEq, Repr

/-- A HELLO frame (R364 to R367): cascade identity, device ID, the peer's fabric address and port, its random value and the nonce of its
GMAC, LSEQ and ACKSEQ, the trailer and whether the frame buffer found an error, and the link's round trip in ns. -/
structure CscHello where
  cascid : Nat
  dev : Nat
  addr : Nat
  port : Nat
  rand : Nat
  nonce : Nat
  lseq : Nat
  ackseq : Nat
  trailer : List Octet
  bad : Bool
  rtt : Nat
  deriving DecidableEq, Repr

/-- What a CREDIT frame grants (R368, R369): the cumulative counts of cells and of control frame buffers. -/
structure CscGrant where
  cells : Nat
  ctl : Nat
  deriving DecidableEq, Repr

/-- An LSA (R371): sequence number, the originating device's ID, its UP ports with peer address and peer port. -/
structure CscLsa where
  seq : Nat
  dev : Nat
  links : List (Nat × Nat × Nat)
  deriving DecidableEq, Repr

/-- A STATUS frame (R376): configured and acting role, epoch, reachable configured IDs, service level, keel flag, running
generation (none while unknown), UPD's state, GTB state and VALID. -/
structure CscStat where
  role : Nat
  act : Nat
  epoch : Nat
  reach : Nat
  level : Nat
  keel : Bool
  gen : Option Nat
  upd : Nat
  gtb : Nat
  valid : Bool
  deriving DecidableEq, Repr

/-- What a chip tells its anchor of a node (R227, R377): the plan of its neighbour record, where it has one, and whether an ACTIVE LINK slot
is bound to the node. -/
structure ChipNode where
  node : Nat
  plan : Option LinkPlan
  linked : Bool
  deriving DecidableEq, Repr

/-- What a SCHED frame carries (R241, R383): a member's JOIN of a border node with the link's plan and the anchor's answer, border placements
of round 1 (with the last of them round 2 begins), a member's interior placements of round 2, merged placements of round 3, cells of a chip
for the master copy and its mirror (whether they are the chip's first, and whether the mirror is complete with them), cells restored from
the master copy, or what a chip knows of its nodes (whether they are its first, and how many neighbour records it holds). -/
inductive CscSched where
  | ask (node : Nat) (plan : LinkPlan)
  | answer (node : Nat) (place : Option Placement)
  | border (places : List Placement) (last : Bool)
  | interior (places : List (Placement × LinkPlan))
  | activate (places : List Placement)
  | mirror (chip : Nat) (first : Bool) (cells : List PlanCell) (complete : Bool)
  | restore (cells : List Cell)
  | nodes (chip : Nat) (first : Bool) (records : Nat) (l : List ChipNode)
  deriving DecidableEq, Repr

/-- A SCHED frame as a chip takes it in: its body, and what the chip's own engine finds where the frame asks for placements (R241). -/
structure SchedIn where
  body : CscSched
  found : List Placement
  deriving DecidableEq, Repr

/-- What an ADDR frame carries (R370): a request with a device ID, or an assignment. -/
inductive CscAddr where
  | request (dev : Nat)
  | assign (dev addr : Nat)
  deriving DecidableEq, Repr

/-- The body of a cascade frame (R365, R376): DATA by packet, OSEQ and cells, an ACK, the grants of a CREDIT, what a HELLO carries, or
another control frame; a TIME frame carries the GT at which it left and at which the peer's last one came, and the anchor's VALID (R378). -/
inductive CscBody where
  | data (pkt oseq cells : Nat)
  | ack
  | credit (cells ctl : Nat)
  | hello (cascid dev addr port rand nonce : Nat)
  | lsa (org : Nat) (l : CscLsa)
  | status (x : CscStat)
  | time (left came : Nat) (valid : Bool)
  | learn (msgs : List (List Octet))
  | sched (x : CscSched)
  | home (node chip : Nat)
  | addr (x : CscAddr)
  | echo (reply : Bool) (tag : Nat)
  deriving DecidableEq, Repr

/-- What a patrol scrubber read found (R402). -/
inductive ScrubRes where
  | clean | corrected | uncorrectable
  deriving DecidableEq, Repr

/-- The instructions of the TAP (R465). -/
inductive TapInstr where
  | bypass | idcode | sample | extest | clamp | highz | extestPulse | extestTrain | debug
  deriving DecidableEq, Repr

/-- What a phase of a self-test gives (R462, R464): the LBIST signature; in phase 4 the arrays that MBIST found bad, in phases 1 and 5 the
banks whose CRC fails. -/
structure PhaseRes where
  sig : Nat
  bad : List Nat
  deriving DecidableEq, Repr

/-- A write of the host to the MSI-X structures of R64, which lie outside BAR0: an entry's mask bit, or the function's enable bit. -/
inductive MsixWrite where
  | unmask (v : Nat)
  | mask (v : Nat)
  | enable (b : Bool)
  deriving DecidableEq, Repr

/-- A descriptor in flight when the PCIe link went down (R470): transmit or receive ring, ring number, FLAGS bit 0. -/
structure DescFlight where
  tx : Bool
  ring : Nat
  irq : Bool
  deriving DecidableEq, Repr

/-- What a received Ethernet frame carries (R475): an event message with its sequenceId and its timestamp in ns, an IPv6 packet,
a 1588 message without a timestamp, 802.3x PAUSE for so many quanta, anything else. -/
inductive EthKind where
  | event (seq ns : Nat)
  | general
  | ipv6
  | pause (quanta : Nat)
  | other
  deriving DecidableEq, Repr

/-- 802.3x PAUSE, which no MACsec protects. -/
def EthKind.isPause : EthKind → Bool
  | .pause _ => true
  | _ => false

/-- A received Ethernet frame that passed its FCS and its MACsec integrity check (R475): destination MAC (first octet on the wire
in bits [7:0]), VID of its tag, AN and PN of its protection, content, packet octets. -/
structure EthFrame where
  dst : Nat
  vid : Option Nat
  sec : Option (Nat × Nat)
  kind : EthKind
  data : List Octet
  deriving DecidableEq, Repr

end Machine

open Machine

/-- The commands. Each docstring is the row of the table and its rule. -/
inductive Instr where
  /-- DEVICE_START (R388). When a reset condition ends, PD_AON comes up and PWR powers PD_SYS, PD_SEC, PD_HIF, PD_CSC and
  PD_MEM; the boot ROM runs, CFG starts its flash reads, KVT starts its self-tests and the core PLL starts. -/
  | deviceStart (t : Time)
  /-- POWER_ON_RESET (R386). VDD_AON falls below its power-on threshold, and every domain is held in reset until it rises
  again. -/
  | powerOnReset
  /-- PIN_RESET (R386). SYSRST_N is held low for at least 1 µs; DRAM is put in self-refresh (R387), and every domain
  except PD_AON is held in reset. -/
  | pinReset
  /-- CORE_SUPPLY_RESET (R386). VDD_CORE falls below 0.66 V, and every domain except PD_AON is held in reset. -/
  | coreSupplyReset (m : DipMeas)
  /-- IO_SUPPLY_RESET (R386). VDD_IO falls below 1.60 V, and every domain except PD_AON is held in reset. -/
  | ioSupplyReset (m : DipMeas)
  /-- SOFTWARE_RESET (R386). A write of CHIP_RESET with KEY 0xC3A5 puts DRAM in self-refresh and resets every domain
  except PD_AON. -/
  | softwareReset (rq : Req) (key : Nat)
  /-- PLL_LOCK (R392). The core PLL locks, and the units clocked by CORE_CLK are released from reset. -/
  | pllLock
  /-- PLL_LOCK_TIMEOUT (R392). The core PLL has not locked 2 ms after PD_SYS is ready; NOREF is set, source 11 fires, and
  the device stays at SL0. -/
  | pllLockTimeout
  /-- PERST_RISE (R389). PERST_N rises; PCIe link training starts, and configuration requests get retry status until the
  lock or AWAIT. -/
  | perstRise
  /-- CFG_CHECK_COPY (R33). CFG checks one image copy through the ordered steps and records the first failure in
  CFG_CnERR. -/
  | cfgCheckCopy (t : Time)
  /-- CFG_SEALGEN_RESUME (R509). Step 8 of the image check resumes once KVT has authenticated the seal pages, and compares
  the generation with the sealed generation. -/
  | cfgSealgenResume (t : Time)
  /-- CFG_APPLY (R34). Pass 3 applies the PWR records, the other register records, the commit of the SC fields, the lock,
  and the data records marked Before SL1. -/
  | cfgApply (t : Time)
  /-- CFG_DRAM_RECORDS (R34). Once MEM reports training complete, CFG rereads the payload and applies the records marked
  After DRAM training (read 5), then reaches DONE. -/
  | cfgDramRecords (t : Time)
  /-- CFG_OTHER_COPY_CHECK (R37). After a successful load, CFG checks the other copy at low priority, sets COPYn_OK, or
  raises CFG_COPYBAD. -/
  | cfgOtherCopyCheck
  /-- CFG_RELOAD (R36). CFG_CMD.RELOAD written in AWAIT starts a new load; in any other state it has no effect. -/
  | cfgReload (t : Time) (rq : Req)
  /-- CFG_CHECK (R33). CFG_CMD.CHECK checks the named copy through step 13 without applying it, once any UPD write to that
  copy has ended. -/
  | cfgCheck (rq : Req) (copy : Nat)
  /-- FIRMWARE_BANK_READ (R358). The boot ROM checks the committed firmware bank and decrypts it into the instruction
  banks, or falls back to the other VALID bank, or sets NOFW. -/
  | firmwareBankRead (t : Time)
  /-- CLKSEL_REQ (R391). A write of PWR_CLKSEL.REQ asks PWR to move PRC, SUP, CFG and CRY from FIRC to CORE_CLK. -/
  | clkselReq (rq : Req)
  /-- CLOCK_SWITCH (R391). Once the PLL is locked and neither CFG nor CRY is mid-operation, PWR switches the four units to
  CORE_CLK and sets CLKSW. -/
  | clockSwitch
  /-- MEM_TRAINING_COMPLETE (R394). MEM finishes training and region initialisation, reports training complete, and MSQ
  reloads its DRAM copy where DRAM was kept. -/
  | memTrainingComplete (t : Time)
  /-- MEM_TRAINING_FAIL (R397). A training attempt fails and is retried; after the third failure on a channel, DRAMFAIL is
  set and CFG reaches DONE without read 5. -/
  | memTrainingFail (t : Time) (ch0 ch1 : Bool)
  /-- RETRAIN (R397). CHIP_STARTCMD.RETRAIN written with DRAMFAIL = 1 starts three fresh training attempts. -/
  | retrain (rq : Req)
  /-- QMG_DRAM_POOL_ADD (R245). QMG adds the DRAM cells to the pool when MEM reports training complete, and sets DRAMPOOL. -/
  | qmgDramPoolAdd
  /-- ENTER_SL1 (R398). Once pass 3 is complete, firmware runs and KVT has left LOADING, the device enters SL1 and source
  8 fires. -/
  | enterSl1 (t : Time)
  /-- ENTER_SL2 (R399). At the first slot boundary at which every condition holds, the device steps to SL2, source 9
  fires, and MSQ drops its SL1 values. -/
  | enterSl2 (t : Time)
  /-- FWD_BOOTMODE_EXIT (R279). Once training is complete and read 5 is applied, FWD clears BOOTMODE and switches to the
  lookup order of R270. -/
  | fwdBootmodeExit
  /-- REG_WRITE (R43). A write to a register that has no row of its own, with its access-code, width, world and domain
  checks and any fault record. -/
  | regWrite (rq : Req) (addr : Nat) (data : List Octet)
  /-- SET_ALIAS_WRITE (R44). A write through the set alias ORs the written ones into the RW fields and SC shadows as one
  indivisible read-modify-write. -/
  | setAliasWrite (rq : Req) (addr : Nat) (v : Word)
  /-- CLEAR_ALIAS_WRITE (R44). A write through the clear alias clears the written ones in the RW fields and SC shadows as
  one indivisible read-modify-write. -/
  | clearAliasWrite (rq : Req) (addr : Nat) (v : Word)
  /-- TOGGLE_ALIAS_WRITE (R44). A write through the toggle alias inverts the written ones in the RW fields and SC shadows
  as one indivisible read-modify-write. -/
  | toggleAliasWrite (rq : Req) (addr : Nat) (v : Word)
  /-- RC_READ (R48). A full-width read of an RC record register at its primary address returns its contents and clears
  them in the same cycle. -/
  | rcRead (rq : Req) (addr n : Nat)
  /-- PW_LAND (R49). A posted write lands in its slow domain and the unit's BUSY bit clears. -/
  | pwLand (unit : Nat)
  /-- REG_ACCESS_TIMEOUT (R54). A powered unit does not answer an access within 4 µs; the access completes as TIMEOUT and
  a class 6 fault arises. -/
  | regAccessTimeout (rq : Req) (addr : Nat) (write : Bool) (byteen gt : Nat)
  /-- COMMIT_GO (R50). A write of UNIT_COMMIT with GO copies the named groups' shadows into staged sets and sets PENDING. -/
  | commitGo (rq : Req) (unit groups : Nat)
  /-- COMMIT_ABORT (R50). A write of UNIT_COMMIT with ABORT discards the staged sets of the named groups. -/
  | commitAbort (rq : Req) (unit groups : Nat) (go : Bool)
  /-- COMMIT_ACTIVATE (R50). At the unit's safe boundary, a staged set is checked and made active, or rejected with
  LASTREJ and the commit-reject event. -/
  | commitActivate (unit groups : Nat)
  /-- SNAPSHOT (R58). CHIP_SNAP.GO copies every counter into the holding view in one cycle, latches GT, and increments
  CHIP_SNAPSEQ. -/
  | snapshot (rq : Req) (gt : Nat)
  /-- EVT_REARM (R64). A write of EVT_REARM sends the MSI-X message of each named vector that is still active. -/
  | evtRearm (rq : Req) (vectors : Nat)
  /-- MSIX_UNMASK (R64). Unmasking an MSI-X entry sends the message held in its pending bit. -/
  | msixUnmask (w : MsixWrite)
  /-- ONE_SECOND_WINDOW (R136). A 1 s window aligned to GCN multiples of the nominal frequency ends, and the per-window
  counts of CDC, MSQ, BGT, QMG, PRC and MEM restart. -/
  | oneSecondWindow (t : Time)
  /-- SLOT_BOUNDARY (R70). GT reaches a slot boundary: GSN advances, MSQ starts the slot's cells and activates staged
  patches, and slot-boundary commits apply. -/
  | slotBoundary (t : Time)
  /-- MAINS_ZC_EDGE (R65). An edge on MAINS_ZC is timed, discarded as a glitch if too early, and corrected by the sense
  delay. -/
  | mainsZcEdge (t : Time) (m : Sense)
  /-- SENSE_DISAGREE (R65). With SRC = 2, the analog and digital inputs have disagreed by more than 200 µs for 10
  consecutive cycles, and source 39 fires. -/
  | senseDisagree
  /-- INPUT_QUALIFIED (R68). After 50 consecutive good cycles, the mains input is qualified and GTB moves to LOCK, SLEW or
  STEPWAIT under R79. -/
  | inputQualified (t : Time) (phase anchor peer freq thd amp : Nat)
  /-- INPUT_LOST (R68). A loss condition has held for 20 ms, and GTB moves to HOLD or FOLLOW, ending any slew or
  cancelling any step. -/
  | inputLost (t : Time) (refcnt : Nat) (m : Sense)
  /-- PHASE_JUMP_CONFIRMED (R67). A phase jump below 10° that has persisted for 5 cycles is accepted as a new phase and
  reached by slew where needed. -/
  | phaseJumpConfirmed (t : Time) (below2 : Bool) (e : Int)
  /-- SLEW_DONE (R80). The slew has brought |e| within 50 ns, and GTB enters LOCK. -/
  | slewDone (t : Time)
  /-- STEP_APPLY (R81). GSN reaches the step GSN; GT and GSN jump by ΔS slots in one cycle, and the remainder is removed
  by slew. -/
  | stepApply (t : Time)
  /-- HOLDOVER_SAVE (R83). Once per second in every valid state, GTB saves the holdover record in PD_AON. -/
  | holdoverSave (t : Time) (refcnt freq : Nat)
  /-- PTP_SECOND_ROLLOVER (R85). HIF's PTP clock rolls over a whole second, and with SRC = 1 GTB captures GT, S_B and the
  rate and fires source 42. -/
  | ptpSecondRollover (t : Time) (sec : Nat)
  /-- PPS_EDGE (R85). An active edge on PPS_IN, with SRC = 2, captures GT and assigns the next second number. -/
  | ppsEdge (t : Time)
  /-- UTC_LOAD (R85). A write of GTB_UTCCFG.LOAD makes the next 1PPS capture take its second number from GTB_UTCLOAD. -/
  | utcLoad (rq : Req) (v : Word)
  /-- UTC_STALE (R86). No capture has occurred for 2 s, so GTB sets STALE and fires source 41. -/
  | utcStale
  /-- CMP_ARM (R90). A write that writes ARM as 1 latches the target, arms compare n and clears LATE and STEPPED; a target
  already reached fires in the next cycle with LATE. -/
  | cmpArm (t : Time) (rq : Req) (n view : Nat) (v : Word)
  /-- CMP_DISARM (R90). A write that writes ARM as 0 disarms compare n without firing it. -/
  | cmpDisarm (rq : Req) (n view : Nat) (v : Word)
  /-- CMP_FIRE (R90). GT or GSN reaches an armed compare's target; FIRED is set, ARM cleared and source 44 fired. -/
  | cmpFire (t : Time) (n : Nat)
  /-- PULSE_ARM (R93). Writing ARM as 1 in GTB_PLSn latches the start value and arms pulse generator n. -/
  | pulseArm (t : Time) (rq : Req) (n view : Nat) (v : Word)
  /-- PULSE_EDGE (R92). GT reaches a pulse generator's next edge, and it drives its leading edge on the assigned ball. -/
  | pulseEdge (t : Time) (n : Nat)
  /-- PULSE_WIDTH_END (R92). A pulse's WIDTH × 10 ns ends, and its trailing edge is driven. -/
  | pulseWidthEnd (e : PulseEnd)
  /-- LEGSTAMP_READ (R94). A full-width read of GTB_LEGSTAMP returns the oldest legacy stamp and removes it from the
  queue. -/
  | legstampRead (rq : Req)
  /-- DCLK_CHECK_WINDOW (R98). A 1 ms device-clock check window ends; a clock within 10 ppm moves the link on, and one out
  of tolerance sends it to CLKCHK with source 56. -/
  | dclkCheckWindow (t : Time) (n counted expected : Nat)
  /-- SYSREF_EDGE (R98). A SYSREF edge aligns the multiblock clock in WAITSYS, and at other times is only checked against
  the boundary. -/
  | sysrefEdge (n : Nat) (aligned : Bool)
  /-- LINK_LOCK (R99). Every lane of a port achieves lock within 10 ms; buffers are released, latency measured, and the
  link goes UP. -/
  | linkLock (t : Time) (n : Nat) (lat : LinkLat) (period : Nat)
  /-- LINK_LOCK_TIMEOUT (R99). Ten ms pass in LOCKING without lock, and the link returns to WAITSYS. -/
  | linkLockTimeout (n : Nat)
  /-- LINK_DOWN (R99). A lane loses lock, or 16 CRC-12 or disparity errors arrive within 1 ms; slices stop, the history is
  marked, streams abort and the link goes to WAITSYS. -/
  | linkDown (t : Time) (n : Nat) (e : LinkErrs)
  /-- PROXY_CMD (R101). A write of RFP_PXCMD posts one SPI transaction to a converter, or sets ERR if the port is off. -/
  | proxyCmd (rq : Req) (v : Word)
  /-- PROXY_COMPLETE (R102). The proxy SPI transaction ends; BUSY clears, and on a read the data land in RFP_PXRD with
  source 62. -/
  | proxyComplete (data : Nat)
  /-- HISTORY_MARKER (R107). After every 4,096th sample, RFP records a marker with the port count, its GT and a valid bit. -/
  | historyMarker (t : Time) (n missed : Nat) (valid : Bool)
  /-- HISTORY_READ (R108). SIC, DMX or MSQ requests a range of history samples by port, start GT and count. -/
  | historyRead (reader : HistReader) (tag port start count : Nat)
  /-- HISTORY_READ_DONE (R108). A history read ends OK, OVERWRITTEN, GAP or FUTURE, after waiting for a range that ends
  within 4 ms to be written. -/
  | historyReadDone (t : Time) (id : Nat)
  /-- NOISE_FLOOR_UPDATE (R109). Every 1 ms, idle slices update their noise floor and RFP's staged commit groups apply. -/
  | noiseFloorUpdate (n : Nat) (powers : List (Nat × List Nat)) (clipped : Bool)
  /-- CCA_REQUEST (R110). MSQ or BGT requests a CCA on a slice with a window, threshold and mode. -/
  | ccaRequest (t : Time) (id : Nat) (user : TxUser) (n slice win : Nat) (thr : Int) (mode : CcaMode)
  /-- CCA_RESULT (R111). A CCA window ends, and RFP answers CLEAR or BUSY with its reason within 2 µs. -/
  | ccaResult (t : Time) (id n : Nat) (powers : List Nat)
  /-- TX_RESERVE (R113). MSQ or LGC reserves a transmit stream by port, slice, start GT and duration; RFP accepts or
  refuses it with a reason. -/
  | txReserve (t : Time) (user : TxUser) (n slice start dur : Nat)
  /-- STREAM_CANCEL (R114). MSQ or LGC cancels a reservation before release, without cost. -/
  | streamCancel (t : Time) (id : Nat)
  /-- STREAM_RELEASE (R114). At start GT − TXLAT, RFP releases the stream's first chip and blanks the overlapping slices,
  or CDC counts a late encode. -/
  | streamRelease (t : Time) (id : Nat)
  /-- STREAM_ABORT (R114). A chip is due while the stream buffer is empty; RFP ramps the stream down, reports the chips
  sent and fires source 60. -/
  | streamAbort (t : Time) (id chips : Nat)
  /-- STREAM_END (R114). A stream's last chip leaves the converter output; blanking ends and the frame's air time is
  settled. -/
  | streamEnd (t : Time) (id sfd : Nat)
  /-- CDC_HEADER_DECODE (R128). CDC decodes a native PHY header from a lane and returns OK, GOLAYFAIL, HCHKFAIL or HDRINV. -/
  | cdcHeaderDecode (t : Time) (l w0 w1 : Nat) (rise : Int) (m : SymMeas)
  /-- CDC_PAYLOAD_DECODE (R134). CDC decodes a frame's Reed-Solomon codewords and ends the payload OK or RSFAIL. -/
  | cdcPayloadDecode (t : Time) (l : Nat) (coded : List Octet) (rise : Int) (m : SymMeas)
  /-- CDC_ENCODE (R135). CDC takes an encode request in start-GT order and fills the stream buffer with header, RS code,
  interleaving and spreading. -/
  | cdcEncode
  /-- CDC_ENCODE_CANCEL (R136). A cancel from MSQ during encoding stops the encode without counting it late. -/
  | cdcEncodeCancel (id : Nat)
  /-- PREAMBLE_DETECT (R138). A native hunter detects a preamble and claims a lane, or the detection is queued as a retro
  entry or dropped. -/
  | preambleDetect (t : Time) (h lh timing : Nat) (excess : Int) (meas : Meas) (pref : Nat)
  /-- I3_SHR_DETECT (R139). A hunter on a PHY = 1 slice detects an 802.15.4 synchronisation header and claims a lane. -/
  | i3ShrDetect (t : Time) (h timing : Nat) (excess : Int) (meas : Meas) (pref : Nat)
  /-- SFD_FOUND (R142). A lane finds the SFD, requests its timestamp from GTB, and starts reading the header. -/
  | sfdFound (l stamp : Nat) (meas : Meas)
  /-- SFD_TIMEOUT (R142). Eight symbol periods pass without an SFD, and the lane ends with NOSFD. -/
  | sfdTimeout (t : Time) (l : Nat)
  /-- LAST_PAYLOAD_SYMBOL (R142). A lane passes its last payload symbol to CDC and awaits the payload outcome. -/
  | lastPayloadSymbol (l : Nat)
  /-- I3_FRAME_END (R142). A lane finishes an I3 PSDU and checks its FCS, ending OK or FCSFAIL. -/
  | i3FrameEnd (t : Time) (l len : Nat) (psdu : List Octet) (rise : Int) (m : SymMeas)
  /-- LANE_FADE (R144). Es/N0 stays below FADETHR for FADESYM symbols, and the lane ends with FADE. -/
  | laneFade (t : Time) (l n : Nat) (esn0 rise : Int) (m : SymMeas)
  /-- LANE_BUFFER_ERROR (R146). A lane's buffers return an uncorrectable error, and the lane ends LANEERR with source 73. -/
  | laneBufferError (t : Time) (l : Nat)
  /-- RETRO_ENTRY_TAKEN (R148). A freed lane takes the oldest retro entry and starts a history read, or the entry expires
  if its samples are over 60 ms old. -/
  | retroEntryTaken (t : Time) (pref : Nat)
  /-- RETRO_CATCHUP (R148). A retro lane reaches the newest written sample and runs on as a live lane. -/
  | retroCatchup (l : Nat)
  /-- MIRROR_POP (R155). DMX_QPOP.POP removes the oldest quality record from the mirror FIFO. -/
  | mirrorPop (rq : Req)
  /-- STAT_WINDOW_END (R157). A STATPER window ends; DMX sends SLV a statistics record per monitored slice, and SLV marks
  recommended masks. -/
  | statWindowEnd (t : Time)
  /-- REF_ENTRY_EXPIRE (R159). A reference store entry reaches 64 ms and is evicted. -/
  | refEntryExpire (t : Time)
  /-- SIC_JOB_START (R160). An engine takes the job whose window ends earliest, forms its member set, and ends it early
  with TOOLONG, TOOMANY or EXPIRED where they apply. -/
  | sicJobStart (t : Time)
  /-- SIC_JOB_RESUME (R160). A job waiting for a lane that still holds an overlapping frame resumes when that lane ends. -/
  | sicJobResume (t : Time) (id : Nat)
  /-- SIC_PASS_COMPLETE (R162). An engine finishes a subtraction or decoding pass, and SIC starts the next pass or ends
  the job. -/
  | sicPassComplete (id : Nat) (dec : Option PassDecode) (hidden : List HiddenDet)
  /-- SIC_RQPOP (R171). SIC_RQPOP.POP removes the oldest job record from the result FIFO. -/
  | sicRqpop (rq : Req)
  /-- MSQ_FRAME_RECEIVE (R186). MSQ matches, verifies, decrypts and filters a native OK frame, updates timing, asks QMG
  for a buffer and decides its ACK. -/
  | msqFrameReceive (gt ft : Nat)
  /-- NODE_ACK_TIMEOUT (R200). No ACK arrives for a downlink frame; it stays at the head of its queue for a retry, or is
  dropped RETRY at MAXRETRY. -/
  | nodeAckTimeout (t : Time) (record : Nat)
  /-- NBCMD_READ (R184). MSQ_NBCMD with OP READ copies a neighbour record into MSQ_NBDATA. -/
  | nbcmdRead (rq : Req) (slot : Nat)
  /-- NBCMD_WRITE (R184). MSQ_NBCMD with OP WRITE creates a neighbour or replaces its S fields atomically. -/
  | nbcmdWrite (rq : Req) (slot : Nat)
  /-- NBCMD_FREE (R184). MSQ_NBCMD with OP FREE clears a record and its node map entry and flushes its downlink queue. -/
  | nbcmdFree (rq : Req) (slot : Nat)
  /-- SUPERVISION_TIMEOUT (R185). No verified frame arrives for SUPTO, so the neighbour becomes LOST and its downlink
  frames are dropped LINKLOSS. -/
  | supervisionTimeout (t : Time) (record : Nat)
  /-- MSQ_TX_SELECT (R199). Five hundred µs before a transmission, MSQ selects the frame or beacon, reserves a stream, has
  BGT charge it, commits, runs CCM* and has CDC encode it. -/
  | msqTxSelect (t : Time) (cell : Cell) (ec record : Nat)
  /-- EXP_CELL_END (R197). An EXP cell ends; its outcome goes to SLV, and a directed search is queued if no verified frame
  arrived. -/
  | expCellEnd (t : Time) (cell : Cell) (ec : Nat)
  /-- SEARCH_START (R197). A queued directed search starts when one of the eight search slots is free. -/
  | searchStart
  /-- SEARCH_SEGMENT (R197). A search correlates an 8 ms history segment and hands any detection to DMX as a retro entry. -/
  | searchSegment (t : Time) (id : Nat) (dets : List SearchDet)
  /-- BGT_CHARGE (R210). BGT checks and charges a transmission against every budget it touches, grants or refuses it with
  a reason, and arranges LBT. -/
  | bgtCharge (t : Time) (id : Nat) (kind : TxKind) (chips : Nat)
  /-- BUCKET_ADVANCE (R209). Free time enters a new bucket of WIN / 64, and the 66th bucket leaves the count. -/
  | bucketAdvance (t : Time)
  /-- CCA_BACKOFF_EXPIRE (R218). A class C frame's random backoff ends in a shared cell, and another CCA attempt is made
  if the frame still fits. -/
  | ccaBackoffExpire (t : Time) (id : Nat)
  /-- SLV_SOLVE (R233). A SOLVE runs on the full engine from a snapshot, or is held or merged behind a running one. -/
  | slvSolve (st : SolveStep) (node tag : Nat)
  /-- SOLVE_COMPLETE (R233). A full solve ends; SLV applies the JOIN and LEAVE log and activates the result, or ends
  NOGAIN. -/
  | solveComplete (t : Time) (places again far : List Placement)
  /-- SLV_JOIN (R232). JOIN places a node's cells without moving others and stages the patch, or ends NOFIT. -/
  | slvJoin (st : CmdStep) (node tag dur : Nat) (found : List Placement)
  /-- SLV_LEAVE (R232). LEAVE removes a node's cells at the next slot boundary. -/
  | slvLeave (st : CmdStep) (node tag dur : Nat)
  /-- SLV_DEMAND (R232). DEMAND writes the demand record from SLV_DATA. -/
  | slvDemand (st : CmdStep) (node tag dur : Nat)
  /-- SLV_LINK (R232). LINK writes a link record from SLV_DATA, failing BADARG for an SRC 0 record. -/
  | slvLink (st : CmdStep) (node tag dur : Nat)
  /-- SLV_READDEM (R232). READDEM copies a node's demand record to SLV_RDATA. -/
  | slvReaddem (st : CmdStep) (node tag dur : Nat)
  /-- SLV_READLINK (R232). READLINK copies the keyed link record to SLV_RDATA. -/
  | slvReadlink (st : CmdStep) (node tag dur : Nat)
  /-- SLV_ABORT (R232). ABORT ends a running SOLVE with ABORTED. -/
  | slvAbort (st : CmdStep) (node tag dur : Nat)
  /-- SOLVE_PERIOD_TIMER (R233). PERIOD minutes pass, and SLV queues a SOLVE itself. -/
  | solvePeriodTimer (t : Time)
  /-- SLV_OBSERVATION (R226). SLV folds a link observation from an OK record into its SRC 0 link record. -/
  | slvObservation
  /-- LINK_RECORD_AGE (R226). A non-static link record is not updated for LINKAGE hours, and loses VALID. -/
  | linkRecordAge (t : Time) (key : Nat)
  /-- CELLS_CONFIRM_TIMEOUT (R238). A CELLS frame sent with AR = 0 counts as dropped at the end of the first full period
  of its longest slotframe without a frame from the node. -/
  | cellsConfirmTimeout (t : Time) (node setid : Nat)
  /-- SLV_RQPOP (R242). SLV_RQPOP.POP removes the oldest result record. -/
  | slvRqpop (rq : Req)
  /-- SLV_SHQPOP (R243). SLV_SHQPOP.POP removes the oldest shortfall record. -/
  | slvShqpop (rq : Req)
  /-- QMG_ADMIT (R247). QMG grants or refuses an n-cell packet of an ingress source against the shares and free cells. -/
  | qmgAdmit (k n : Nat) (data : List Octet) (unit port : Nat)
  /-- QUEUE_PUSH (R251). A producer pushes a cell onto a queue under the port ownership, LIMIT and watermark rules. -/
  | queuePush (q : Nat) (h : Holder) (cell : Nat) (pop : Option Holder)
  /-- QUEUE_POP (R253). A consumer pops a cell from a queue, or finds it empty and sets UNDERRUN. -/
  | queuePop (q : Nat) (h : Holder)
  /-- QCMD_READ (R256). QMG_QCMD READ copies a queue record to QMG_QDATA. -/
  | qcmdRead (rq : Req) (q : Nat)
  /-- QCMD_WRITE (R256). QMG_QCMD WRITE sets a queue's own limits, sets OVR and clears UNDERRUN and OVF. -/
  | qcmdWrite (rq : Req) (q : Nat)
  /-- QCMD_FLUSH (R256). QMG_QCMD FLUSH ends every packet in the queue with reason FLUSH. -/
  | qcmdFlush (rq : Req) (q : Nat)
  /-- QCMD_DROPREST (R256). QMG_QCMD DROPREST ends the packet in progress with reason CMD and discards its later cells. -/
  | qcmdDroprest (rq : Req) (q : Nat)
  /-- QCMD_CLASS (R256). QMG_QCMD CLASS clears OVR so the class values apply again. -/
  | qcmdClass (rq : Req) (q : Nat)
  /-- SWQ_PUSH (R257). A write to QMG_SWQnIN pushes one cell onto software queue n. -/
  | swqPush (rq : Req) (n cell : Nat) (pop : Option Initiator)
  /-- SWQ_POP (R257). QMG_SWQnCMD.POP pops one cell into QMG_SWQnOUT. -/
  | swqPop (rq : Req) (n : Nat)
  /-- AGE_CHECK_TICK (R258). Once per second, QMG checks the age of a packet at the head of its queue and ends it AGE if
  it has waited longer than AGE. -/
  | ageCheckTick (t : Time) (q : Nat)
  /-- PKT_DELIVER (R259). PKTCMD DELIVER ends a held packet as delivered. -/
  | pktDeliver (rq : Req) (priv : Bool) (cell : Nat)
  /-- PKT_DROP (R259). PKTCMD DROP ends a held packet with the reason given. -/
  | pktDrop (rq : Req) (priv : Bool) (cell reason : Nat)
  /-- PKT_FORWARD (R259). PKTCMD FORWARD pushes a held packet's cells onto the named queue. -/
  | pktForward (rq : Req) (priv : Bool) (cell q : Nat)
  /-- PKT_ALLOC (R259). PKTCMD ALLOC admits a new packet of CELLS cells and returns its START. -/
  | pktAlloc (rq : Req) (priv : Bool) (n : Nat) (data : List Octet)
  /-- QMG_ACCOUNTING_ERROR (R262). An uncorrectable error strikes QMG's descriptors, queue records or counters; AUDITBRK
  is set and the lost cells are counted. -/
  | qmgAccountingError (what : AuditHit)
  /-- QMG_RECORD_SCAN_DONE (R262). The descriptor scan after a struck queue record completes, and the cells it finds are
  counted lost. -/
  | qmgRecordScanDone (q : Nat)
  /-- FWD_LOOKUP (R270). FWD resolves a packet's destination, charges its policer, chooses one egress and queues a
  learning event where it applies. -/
  | fwdLookup (t : Time) (pkt dst src dscp : Nat) (errs : List FwdErr)
  /-- LEARN_EVENT_APPLY (R276). The bucket engine applies a learning event from the queue after its precedence check, and
  sends a learning message where one is due. -/
  | learnEventApply (t : Time) (errs : List FwdErr)
  /-- SWEEP_VISIT (R277). The sweep visits an address table bucket, clearing HIT, marking PEND or freeing entries, and
  sending REFRESH or WITHDRAW. -/
  | sweepVisit (t : Time) (bucket : Nat) (errs : List FwdErr)
  /-- FILTER_SCRUB_VISIT (R271). Every 1 µs the filter scrub visits one vector and clears bits with no prefix behind them. -/
  | filterScrubVisit (v : Nat) (both : Option Bool)
  /-- FILTER_REBUILD_COMPLETE (R282). A prefix store scan rebuilds every bad filter vector and writes a KIND 3 error
  record with REBUILT. -/
  | filterRebuildComplete
  /-- POLICER_REFILL (R285). Every 1 ms of REFCLK, each enabled policer gains RATE tokens up to its burst. -/
  | policerRefill
  /-- FWD_PERPOP (R283). FWD_PERPOP.POP removes the oldest error record. -/
  | fwdPerpop (rq : Req)
  /-- FWD_CMD_READ (R288). A READ table command copies an entry to FWD_CMDRES. -/
  | fwdCmdRead (st : FwdStep) (tbl tag : Nat)
  /-- FWD_CMD_WRITE (R293). A WRITE table command inserts or replaces a static entry, or writes a bootstrap entry. -/
  | fwdCmdWrite (st : FwdStep) (tbl tag : Nat)
  /-- FWD_CMD_DELETE (R288). A DELETE table command frees an entry and sends a WITHDRAW for a learned AIR or LOCAL entry. -/
  | fwdCmdDelete (st : FwdStep) (tbl tag : Nat)
  /-- FWD_CMD_LOOKUP (R288). A LOOKUP table command resolves a key under steps 2 to 5 without side effects. -/
  | fwdCmdLookup (st : FwdStep) (tbl tag : Nat)
  /-- FWD_CMD_UNPIN (R288). An UNPIN table command clears PIN and MOVES and releases the damping record. -/
  | fwdCmdUnpin (st : FwdStep) (tbl tag : Nat)
  /-- FWD_CMD_WALK (R292). A WALK table command returns the next valid entry from the cursor, or ends CONT or END. -/
  | fwdCmdWalk (st : FwdStep) (tbl tag : Nat)
  /-- FWD_CMD_FLUSH (R294). A FLUSH table command starts a background visit that frees learned entries with the given
  egress. -/
  | fwdCmdFlush (st : FwdStep) (tbl tag : Nat)
  /-- FLUSH_VISIT_COMPLETE (R294). The FLUSH visit of the address table completes; FLUSHBUSY clears and source 162 fires. -/
  | flushVisitComplete (t : Time) (errs : List FwdErr)
  /-- LX_MESSAGE_RECEIVE (R297). FWD handles a received learning message as a learning event or a withdrawal, checking its
  origin and sequence. -/
  | lxMessageReceive (t : Time) (msg : LxRx)
  /-- PIN_RELEASE_SCAN (R300). Every 10 ms, FWD scans the damping table and releases pins whose end GT has passed. -/
  | pinReleaseScan (t : Time)
  /-- KVT_KUM (R316). A KUM command checks a held KUM packet and applies its records at its journal commit, or rejects it. -/
  | kvtKum (rq : Req) (priv : Bool) (tag : Nat) (arg : Word)
  /-- KVT_GENERATE (R318). GENERATE fills an EMPTY slot with a DRBG key of USE 5 and journals it. -/
  | kvtGenerate (rq : Req) (priv : Bool) (slot tag : Nat) (arg : Word)
  /-- KVT_ERASE (R317). ERASE empties an ACTIVE slot and keeps its counter base. -/
  | kvtErase (rq : Req) (priv : Bool) (slot tag : Nat)
  /-- KVT_ATTEST (R320). ATTEST writes a signed key or device statement to KVT_RES. -/
  | kvtAttest (rq : Req) (priv : Bool) (slot tag : Nat) (arg : Word)
  /-- KVT_INFO (R318). INFO copies a slot's record metadata, never the key, to KVT_RES. -/
  | kvtInfo (rq : Req) (priv : Bool) (slot tag : Nat)
  /-- KVT_ZEROISE (R319). ZEROISE empties every slot, keeps KUMHW, SEALGEN and counter bases, and burns an epoch fuse. -/
  | kvtZeroise (rq : Req) (priv : Bool) (tag : Nat)
  /-- JOURNAL_COMMIT (R309). A key store journal entry commits whole with its new sealed record, after any hold for a
  supply dip. -/
  | journalCommit
  /-- EPOCH_FUSE_BURN (R310). After a checkpoint commit, KVT burns one epoch fuse and updates EPOCHLOW or EPOCHOUT. -/
  | epochFuseBurn
  /-- KEY_REQUEST (R305). MSQ, HIF, CSC or CRY asks for a slot's key; KVT serves it from the cache or the wrapped store,
  or returns no key. -/
  | keyRequest (u : KeyUser) (slot : Nat) (found : Option (List Octet))
  /-- COUNTER_BLOCK_ADVANCE (R311). MSQ asks for a new block of frame counter values, and KVT advances CTRRES in a batched
  journal commit. -/
  | counterBlockAdvance (slot : Nat)
  /-- KVT_SELFTEST_DONE (R312). The known-answer tests finish; KVT derives its keys and authenticates the seal pages, or
  enters ERROR. -/
  | kvtSelftestDone (kat itk idk : Bool)
  /-- KVT_KEYSTORE_LOAD (R312). Once CFG has read the key store, KVT loads the slots into the cache or enters ROLLBACK. -/
  | kvtKeystoreLoad (found : Option KeyStore)
  /-- KVT_WRAPPED_STORE_WRITE (R312). Once MEM reports training complete, KVT writes the wrapped store and clears
  CACHEONLY. -/
  | kvtWrappedStoreWrite
  /-- KVT_KEYSTATE_ERROR (R312). An uncorrectable error in the key cache or derived keys makes KVT derive its keys again
  and reload its slots. -/
  | kvtKeystateError
  /-- CRY_RESEED (R323). CRY_RESEED.GO reseeds the DRBG from the entropy source. -/
  | cryReseed (rq : Req)
  /-- CRY_RNG_READ (R322). A full-width read of CRY_RNG returns 32 new DRBG bits, or zero while DRBGOK is 0. -/
  | cryRngRead (rq : Req)
  /-- DRBG_HEALTH_FAIL (R323). An entropy health test fails; the DRBG stops, DRBGOK clears and source 176 fires. -/
  | drbgHealthFail
  /-- CRY_JOB (R322). A user asks CRY for an AES, public-key, hash or DRBG job. -/
  | cryJob (kind : CryKind) (slot : Option Nat) (err : Bool)
  /-- DEBUG_HALT (R339). A debugger halts a PRC or SUP processor as CHIP_WMAP1.DBG allows, and source 5 fires. -/
  | debugHalt (t : Time) (sup : Bool) (p : Nat)
  /-- DEBUG_SCAN_START (R340). Before an internal scan that includes PD_SEC, KVT clears its keys, cache, masks and sense
  latches. -/
  | debugScanStart
  /-- DEBUG_SCAN_END (R340). An internal scan that included PD_SEC ends, and PD_SEC starts again from START. -/
  | debugScanEnd
  /-- UPD_LOAD (R348). LOAD copies a held packet into staging at UPD_OFS and ends the packet as delivered. -/
  | updLoad (rq : Req) (tag : Nat)
  /-- UPD_VERIFY (R349). VERIFY checks the staged package in order and ends VERIFIED or back in LOADING. -/
  | updVerify (st : CmdStep) (tag : Nat)
  /-- UPD_WRITE (R350). WRITE programs the package into the uncommitted bank and loads the idle instruction banks. -/
  | updWrite (rq : Req) (tag : Nat)
  /-- UPD_WRITE_DONE (R350). The bank write, readback and image load complete and UPD is STAGED, or a flash failure
  returns it to VERIFIED. -/
  | updWriteDone (left : Option (List Octet))
  /-- UPD_ACTIVATE (R352). ACTIVATE checks its conditions, marks the bank TRIAL and sends the quiesce request. -/
  | updActivate (rq : Req) (tag : Nat)
  /-- QUIESCE_COMPLETE (R353). Every processor reaches a safe point; the banks switch and the processors resume the new
  set in TRIAL. -/
  | quiesceComplete (t : Time) (ns : Nat)
  /-- QUIESCE_TIMEOUT (R354). A processor is not at a safe point by Q + 20 µs, so every processor resumes the old set and
  ACTIVATE ends TIMEOUT. -/
  | quiesceTimeout (ns : Nat)
  /-- TRIAL_WINDOW_END (R355). The 60 s trial window ends, and UPD commits if every health bit is set or rolls back with
  HEALTH. -/
  | trialWindowEnd (t : Time)
  /-- UPD_ROLLBACK (R357). ROLLBACK written, or a failure condition in TRIAL, switches back to the previous set and marks
  the trial bank FAILED. -/
  | updRollback (by_ : Rollback) (ns : Nat)
  /-- UPD_ABORT (R351). ABORT discards staging and returns UPD to IDLE. -/
  | updAbort (rq : Req) (tag : Nat)
  /-- UPD_COMMIT_DONE (R356). The commit's directory write, SVN fuse burns and image copy writes complete. -/
  | updCommitDone (bad1 bad0 : Bool)
  /-- PRC_PACKET (R360). A PRC processor takes a packet from a PRC queue and does the work that the queue's WORK names. -/
  | prcPacket (t : Time) (q : Nat) (ctx : PrcCtx) (work : PrcWork)
  /-- TRICKLE_TIMER (R362). The RPL trickle timer expires, and the firmware sends a DIO. -/
  | trickleTimer (t : Time) (dio : Dio)
  /-- RPL_REPAIR (R362). PRC_RPLCMD.REPAIR increments the DODAG version and starts a global repair. -/
  | rplRepair (rq : Req)
  /-- CSC_BLOCK_LOCK (R364). A cascade port achieves block lock in TRAINING and starts the HELLO exchange. -/
  | cscBlockLock (n : Nat)
  /-- CSC_LOCK_LOSS (R364). A cascade port has lost block lock for 1 µs and leaves UP, rerouting its traffic. -/
  | cscLockLoss (t : Time) (n : Nat)
  /-- CSC_RETX_TIMEOUT (R367). Two µs pass without progress, and the sender resends from the oldest unacknowledged frame;
  the fourth in a row takes the port down. -/
  | cscRetxTimeout (t : Time) (n : Nat)
  /-- CSC_FOREIGN_TIMEOUT (R364). A FOREIGN port hears no HELLO for 10 ms and returns to TRAINING. -/
  | cscForeignTimeout (t : Time) (n : Nat)
  /-- CSC_HELLO (R366). A HELLO frame arrives; an equal CASCID brings the port UP with fresh session keys, and another
  CASCID makes it FOREIGN. -/
  | cscHello (t : Time) (n : Nat) (h : CscHello)
  /-- CSC_DATA (R367). A DATA frame arrives, is accepted in LSEQ order, checked for duplicates, admitted under source 5
  and queued or forwarded. -/
  | cscData (t : Time) (n : Nat) (h : CscHdr) (cls oseq : Nat) (data : List Octet)
  /-- CSC_ACK (R367). An ACK frame advances ACKSEQ and ends acknowledged DATA frames as transmitted. -/
  | cscAck (t : Time) (n : Nat) (h : CscHdr)
  /-- CSC_CREDIT (R369). A CREDIT frame updates the cumulative count of cells that the peer has granted. -/
  | cscCredit (t : Time) (n : Nat) (h : CscHdr) (g : CscGrant)
  /-- CSC_LSA (R371). An LSA arrives and is flooded, and routes are recomputed within 20 µs. -/
  | cscLsa (t : Time) (n : Nat) (h : CscHdr) (org : Nat) (l : CscLsa)
  /-- CSC_STATUS (R376). A STATUS frame updates presence, roles, epochs, update states and mode. -/
  | cscStatus (t : Time) (n : Nat) (h : CscHdr) (x : CscStat)
  /-- CSC_TIME (R378). A TIME frame gives timestamps for time following, and the anchor's VALID flag. -/
  | cscTime (t : Time) (n : Nat) (h : CscHdr) (t1 t2 t3 t4 : Nat) (valid : Bool) (refcnt : Nat)
  /-- CSC_LEARN (R376). A LEARN frame carries up to 30 learning messages to FWD. -/
  | cscLearn (t : Time) (n : Nat) (h : CscHdr) (msgs : List LxRx)
  /-- CSC_SCHED (R241). A SCHED frame carries solve rounds, mirroring or cell restores to SLV. -/
  | cscSched (t : Time) (n : Nat) (h : CscHdr) (x : SchedIn)
  /-- CSC_HOME (R377). A HOME frame carries home assignments to PRC firmware. -/
  | cscHome (t : Time) (n : Nat) (h : CscHdr) (node chip : Nat)
  /-- CSC_ADDR (R370). An ADDR frame requests or assigns a temporary fabric address. -/
  | cscAddr (t : Time) (n : Nat) (h : CscHdr) (x : CscAddr)
  /-- CSC_ECHO_FRAME (R384). An ECHO frame addressed to this chip is returned, or a returned one completes an ECHO
  command. -/
  | cscEchoFrame (t : Time) (n : Nat) (h : CscHdr) (reply : Bool) (tag rtt : Nat)
  /-- LSA_PERIODIC (R371). Every 100 ms, the chip floods its LSA. -/
  | lsaPeriodic (t : Time)
  /-- STATUS_PERIODIC (R376). Every 1 ms, the chip sends STATUS to every reachable address. -/
  | statusPeriodic (t : Time)
  /-- TIME_PERIODIC (R378). Every 1 ms, each end of each UP port sends a TIME frame. -/
  | timePeriodic (t : Time)
  /-- PRESENCE_TIMEOUT (R376). No STATUS has arrived from a chip for 5 ms, so the chip becomes absent and roles may
  change. -/
  | presenceTimeout (t : Time) (chip : Nat)
  /-- QUORUM_LOSS_TIMEOUT (R380). The acting anchor has lacked quorum for 5 ms, so it gives up its role. -/
  | quorumLossTimeout (t : Time)
  /-- START_LISTEN_END (R380). A starting chip has heard STATUS for 5 ms and may now claim an acting role. -/
  | startListenEnd (t : Time)
  /-- TEMP_ADDR_LAPSE (R370). A temporary address lapses after 5 ms out of reach. -/
  | tempAddrLapse (addr : Nat)
  /-- REROUTE_HOLD_EXPIRE (R372). A held rerouted frame still has no port 1 ms later and ends NOROUTE. -/
  | rerouteHoldExpire (t : Time) (pkt : Nat)
  /-- CSC_HANDBACK (R381). CSC_CMD HANDBACK makes the configured anchor acting anchor with epoch + 1, or ends NOTREADY. -/
  | cscHandback (rq : Req) (addr tag : Nat)
  /-- CSC_ECHO (R384). CSC_CMD ECHO sends an ECHO frame to an address. -/
  | cscEcho (rq : Req) (addr tag : Nat)
  /-- ECHO_TIMEOUT (R384). No ECHO reply arrives within 1 ms, and the command ends TIMEOUT. -/
  | echoTimeout
  /-- CSC_FLOOD_LSA (R371). CSC_CMD with OP 3 floods an LSA at once. -/
  | cscFloodLsa (rq : Req) (addr tag : Nat)
  /-- SCRUB_READ (R402). The patrol scrubber reads its next burst, writing back a corrected one and capturing an
  uncorrectable one. -/
  | scrubRead (t : Time) (res : ScrubRes) (ch region addr : Nat) (last : Bool)
  /-- HISTORY_WINDOW_END (R404). A 1 ms history-traffic window ends, and a window over the reservation is counted. -/
  | historyWindowEnd (octets : Nat)
  /-- PWR_DOMREQ_WRITE (R406). A write of PWR_DOMREQ requests domain states, refusing any that R406 forbids, and starts or
  latches the sequences. -/
  | pwrDomreqWrite (t : Time) (rq : Req) (hi : Bool) (v : Word)
  /-- DOMAIN_DRAIN_DONE (R408). A domain's unit finishes draining, and PWR gates clocks, stores CRCs or saves the register
  file, and switches the domain down. -/
  | domainDrainDone (d : Nat)
  /-- DOMAIN_ENTRY_COMPLETE (R408). A domain reaches RET or OFF, source 12 fires, and any latched request is acted on. -/
  | domainEntryComplete (t : Time) (d : Nat)
  /-- DOMAIN_EXIT_COMPLETE (R409). A domain comes back ON after its bank checks or restore, and is reported ready. -/
  | domainExitComplete (t : Time) (d : Nat) (bad : List Nat)
  /-- MODE_DEEPRET (R411). PWR_MODECMD with MODE 1 and the key takes the device into DEEPRET. -/
  | modeDeepret (t : Time) (rq : Req) (key : Nat)
  /-- MODE_AONONLY (R411). PWR_MODECMD with MODE 2 and the key takes the device into AONONLY. -/
  | modeAononly (t : Time) (rq : Req) (key : Nat)
  /-- MODE_ENTRY_COMPLETE (R411). A device mode entry completes, and any latched wake is replayed as an immediate exit. -/
  | modeEntryComplete (t : Time) (refcnt : Nat)
  /-- WAKE_GPIO (R412). An enabled GPIO edge ends a device mode. -/
  | wakeGpio (ball : Nat) (falling : Bool)
  /-- WAKE_SMBUS (R412). An SMBus transaction to the device ends a device mode. -/
  | wakeSmbus
  /-- WAKE_ALARM (R412). PWR_ALARM expires in AON_CLK periods and ends a device mode. -/
  | wakeAlarm
  /-- DEEPRET_EXIT_COMPLETE (R413). Exit from DEEPRET completes; SL1 resumes and source 20 fires. -/
  | deepretExitComplete (t : Time) (bad : List (Nat × Nat))
  /-- AONONLY_RAILS_READY (R414). VDD_CORE and VDD_IO are back above their levels, and the exit from AONONLY begins as a
  start. -/
  | aononlyRailsReady (t : Time)
  /-- XTAL_FAIL (R414). The AON crystal stops; AON_CLK switches to REFCLK and XTALFAIL is set. -/
  | xtalFail (refclk : Bool)
  /-- CORE_DIP_START (R418). VDD_CORE falls below its warning level; DIPCORE is set and held operations wait. -/
  | coreDipStart
  /-- IO_DIP_START (R418). VDD_IO falls below its warning level; DIPIO is set and held operations wait. -/
  | ioDipStart
  /-- DIP_END (R418). Both rails have been at or above release for 100 µs; the dip ends, PWR_DIPREC captures it and held
  operations start. -/
  | dipEnd (durb vminb : Nat)
  /-- DIP_LONG (R418). A dip has lasted longer than 1 ms, and source 18 fires. -/
  | dipLong
  /-- SUP_DIVERGENCE (R425). The lockstep comparison detects a SUP divergence, and the Fallback Sequencer restarts SUP or
  enters keel service. -/
  | supDivergence (t : Time)
  /-- SUP_WATCHDOG_EXPIRY (R425). The SUP watchdog expires, with the same outcome as a divergence. -/
  | supWatchdogExpiry (t : Time)
  /-- SUP_WDOG_KICK (R425). A write of SUP_WDOG with 0x5A5A restarts the watchdog, and any other value expires it at once. -/
  | supWdogKick (t : Time) (rq : Req) (v : Word)
  /-- SUP_RESUME (R427). SUP firmware signals resumption after a restart; held notices are replayed and the sequencer
  returns to NORMAL. -/
  | supResume (t : Time)
  /-- PRC_WATCHDOG_EXPIRY (R428). A PRC processor's watchdog expires; the processor is restarted, or held in reset after
  three restarts in 10 s. -/
  | prcWatchdogExpiry (t : Time) (p : Nat) (memErr : Bool) (held : List Nat)
  /-- PRC_RESTART_DONE (R428). A PRC processor resumes at its restart point and serves its queues again. -/
  | prcRestartDone (p : Nat)
  /-- FS_REPLICA_MISMATCH (R422). A Fallback Sequencer replica mismatches the vote and is resynchronised from the other
  two. -/
  | fsReplicaMismatch
  /-- SUP_NOTICE (R426). A unit reports a fault notice to SUP, which the sequencer holds while SUP is restarting or
  halted. -/
  | supNotice (t : Time) (f : UnitFault)
  /-- SUP_LOGPOP (R431). SUP_LOGPOP.POP removes the oldest fault log entry. -/
  | supLogpop (rq : Req)
  /-- REFCLK_LOSS (R424). REFCLK is lost in service; FAIL_N cause CLOCK is asserted and GT continues only on a crystal
  AON_CLK. -/
  | refclkLoss (t : Time) (refcnt : Nat)
  /-- LSPI_ERROR (R437). A legacy SPI transaction ends mid-octet and is discarded. -/
  | lspiError (p : Nat)
  /-- LSPI_WRITE (R438). A legacy SPI write to an emulated register that has no row of its own. -/
  | lspiWrite (t : Time) (p addr : Nat) (data : List Octet)
  /-- I3_RUN_START (R441). Writing RUN = 1 sets the first slot boundary at FT + 10,000 and restarts ASN. -/
  | i3RunStart (t : Time) (p : Nat) (inten autoack : Bool)
  /-- I3_RUN_STOP (R441). Writing RUN = 0 stops the instance's slot boundaries. -/
  | i3RunStop (t : Time) (p : Nat) (inten autoack : Bool)
  /-- I3_SOFT_RESET (R450). A write of SRST = 1 stops the instance, flushes its entries, clears its links and reloads its
  I3INIT values. -/
  | i3SoftReset (t : Time) (p : Nat)
  /-- INTSTAT_READ (R438). A legacy SPI read of INTSTAT clears the bits it returned as 1. -/
  | intstatRead (t : Time) (p : Nat)
  /-- RXFIFO_READ (R445). A legacy SPI read of RXFIFO returns the oldest entry, and the rise of CS removes it and ends its
  packet as delivered. -/
  | rxfifoRead (t : Time) (p n : Nat)
  /-- TXFIFO_WRITE (R446). A legacy SPI write to TXFIFO carries one entry, which is checked at the CS rise and pushed to
  the instance's queue. -/
  | txfifoWrite (t : Time) (p : Nat) (entry : List Octet)
  /-- LINK_WRITE (R443). LINKCMD 1 writes LINKDATA to the link at LINKIDX. -/
  | linkWrite (t : Time) (p : Nat)
  /-- LINK_READ (R443). LINKCMD 2 reads the link at LINKIDX back into LINKDATA. -/
  | linkRead (t : Time) (p : Nat)
  /-- LINK_CLEAR (R443). LINKCMD 3 clears the link at LINKIDX. -/
  | linkClear (t : Time) (p : Nat)
  /-- LINK_CLEAR_ALL (R443). LINKCMD 4 clears every link of the instance. -/
  | linkClearAll (t : Time) (p : Nat)
  /-- I3_SLOT_BOUNDARY (R441). Ten thousand µs of FT after the last boundary, ASN increments and SLOT is set. -/
  | i3SlotBoundary (t : Time) (p : Nat)
  /-- I3_FRAME_RECEIVE (R444). LGC matches an OK I3 frame to an instance and link, admits it, and sends an immediate ACK
  where due. -/
  | i3FrameReceive (t : Time) (first : Nat)
  /-- I3_RXDONE (R444). At frame end + 544 µs, RXDONE is set for an accepted frame. -/
  | i3Rxdone (t : Time) (p : Nat)
  /-- I3_TX_SELECT (R447). Five hundred µs before a link's first chip, LGC reserves a stream for a queued frame and has
  BGT charge it. -/
  | i3TxSelect (t : Time) (p : Nat)
  /-- I3_ACK_TIMEOUT (R447). No ACK arrives in the window; the attempt counts, and at MAXRETRY the frame is dropped with
  TXFAIL. -/
  | i3AckTimeout (t : Time) (p : Nat)
  /-- TST_START (R460). A write of TST_CMD starts a self-test of one domain, or ends NOTSUP, INUSE, COMBO or BADARG. -/
  | tstStart (t : Time) (rq : Req) (v : Word)
  /-- TST_PHASE_DONE (R462). A test phase completes and the next begins, ending PASS or FAIL after RESTORE. -/
  | tstPhaseDone (t : Time) (res : PhaseRes)
  /-- TAP_INSTRUCTION_LOAD (R465). An instruction is loaded into the TAP, acting as BYPASS where it is not accepted and
  holding SL1 entry for EXTEST-type instructions. -/
  | tapInstructionLoad (ins : TapInstr)
  /-- TAP_RESET (R466). A TAP reset clears the instruction and releases a held start. -/
  | tapReset
  /-- PCIE_LINK_CHANGE (R470). The PCIe link goes up or down; DMA stops or resumes and descriptors in flight complete
  LINKDOWN. -/
  | pcieLinkChange (t : Time) (up : Bool) (width speed : Nat) (flight : List DescFlight)
  /-- RXRING_TAIL_WRITE (R471). The host writes a receive ring TAIL and hands over descriptors tagged with its world. -/
  | rxringTailWrite (rq : Req) (r : Nat) (v : Word)
  /-- TXRING_TAIL_WRITE (R471). The host writes a transmit ring TAIL and hands over descriptors tagged with its world. -/
  | txringTailWrite (rq : Req) (r : Nat) (v : Word)
  /-- DMA_DESCRIPTOR_DONE (R473). A DMA descriptor completes with a status, is written back, and advances HEAD. -/
  | dmaDescriptorDone (t : Time) (tx : Bool) (r len queue flags : Nat) (data : List Octet)
  /-- ETH_FRAME_RECEIVE (R475). A backhaul frame that passes its FCS and MACsec checks is classified and admitted,
  timestamped or discarded. -/
  | ethFrameReceive (t : Time) (n : Nat) (f : EthFrame)
  /-- ETH_TX_DONE (R476). A packet's last octet leaves the MAC, it ends as transmitted, and the next queued packet starts. -/
  | ethTxDone (t : Time) (n : Nat)
  /-- ETH_LINK_CHANGE (R477). An Ethernet port gains or loses block lock or reports a fault. -/
  | ethLinkChange (t : Time) (n : Nat) (lock fault up : Bool)
  /-- PROTECTION_SWITCH (R477). Port 0 has been down for 5 µs, so port 1 serves both ports' queues. -/
  | protectionSwitch (t : Time)
  /-- PROTECTION_RESTORE (R477). Port 0 has been up for WTR seconds, so traffic returns to it. -/
  | protectionRestore (t : Time)
  /-- NEXTHOP_APPLY (R476). A write of HIF_NHk_B applies the staged next-hop entry. -/
  | nexthopApply (rq : Req) (k : Nat) (v : Word)
  /-- PTP_STEP (R478). A write of HIF_PTPSTEP moves the PTP clock and invalidates the UTC mapping. -/
  | ptpStep (t : Time) (rq : Req) (v : Word)
  /-- HIF_TSPOP (R478). HIF_TSPOP.POP removes the oldest PTP timestamp. -/
  | hifTspop (rq : Req) (v : Word)
  /-- XSPI_READ (R481). HIF_XCMD READ reads a flash page into HIF_XDATA, or ends REFUSED. -/
  | xspiRead (rq : Req)
  /-- XSPI_ERASE (R481). HIF_XCMD ERASE erases a 64 KiB sector, or ends REFUSED. -/
  | xspiErase (rq : Req)
  /-- XSPI_PROGRAM (R481). HIF_XCMD PROGRAM programs a page from HIF_XDATA, or ends REFUSED. -/
  | xspiProgram (rq : Req)
  /-- XSPI_COMPLETE (R481). A host flash command completes, and source 223 fires. -/
  | xspiComplete (ok : Bool)
  /-- SMB_SETADDR (R482). SMBus SETADDR sets the BAR0 address for later accesses. -/
  | smbSetaddr (pec : Option Bool) (addr : Nat)
  /-- SMB_WRITE32 (R482). SMBus WRITE32 writes a word at the set address and advances it. -/
  | smbWrite32 (pec : Option Bool) (v : Word)
  /-- SMB_READ32 (R482). SMBus READ32 reads a word and a status octet at the set address and advances it. -/
  | smbRead32 (pec : Option Bool)
  /-- GPIO_EDGE (R483). An enabled GPIO edge fires source 224. -/
  | gpioEdge (b : Nat) (level : Bool)
  /-- TEMP_SAMPLE (R500). Every 1 ms, the on-die sensor updates CHIP_TEMP and its maximum. -/
  | tempSample (temp : Int)
  /-- REFCLK_RETURN (R424). REFCLK returns after a loss in service; the CLOCK cause of FAIL_N ends and GTB continues from
  the holdover record in HOLD, then slews or steps under R79. -/
  | refclkReturn (t : Time) (refcnt : Nat)
  /-- DEBUG_HALT_END (R426). A debugger releases a halted SUP or PRC processor; the SUP watchdog resumes and the fault
  notices held during the halt are replayed. -/
  | debugHaltEnd (t : Time) (sup : Bool) (p : Nat)
  /-- MAINS_THD_HIGH (R67). The THD of the analog mains input rises above 8%; lock is kept, GTB_QUAL.DIST is set and
  source 37 fires. -/
  | mainsThdHigh (thd : Nat)
  deriving DecidableEq, Repr

end Sys2Proof
end

