-- ==== Sys2Proof/Config.lean ====
section
/-! DEFINITION. What the device fixes and what the spec leaves open: fused values, and the opaque functions that stand
for values nothing constrains. -/

namespace Sys2Proof.Config

/-- Free values: the value of the k-th draw is constrained by nothing (log entry 2). -/
opaque freeNat : Nat → Nat

/-- The fused device ID, 16 octets (R26). -/
opaque deviceId : List Octet

/-- The fused owner anchor, 48 octets, all zero where not fused (R23). -/
opaque ownerAnchor : List Octet

/-- Where each bit of a root share lies in the antifuse array of this device (R302). -/
opaque sharePlace : Equiv.Perm (Fin 256)

/-- The body octets of a CREDIT, HELLO or other control frame of the cascade, whose layout the spec does not give (R365, log entry 145). -/
opaque cscOctets : Machine.CscBody → List Octet

/-- The Euwaus firmware key, whose SHA-384 the boot ROM holds (R345). -/
opaque euwausKey : List Octet

end Sys2Proof.Config
end

