-- ==== Sys2Proof/Machine/RegMap.lean ====
section
/-! DEFINITION. The register map: the address of every register and the place of every field, as the register
maps of the chapters give them (02 to 26 of spec/), and the descriptor table that R43 to R50 read: per register its
address pattern, its domain (code of R56), whether it holds a counter half (1 low, 2 high, R57), and per field its
bits, access code (R6), reset value and commit group (R50). `Reg.X` is a BAR0 address (R40), `F.X_Y` the field Y of
register X, `Ctr.X` the address of the counter X_LO (X_HI lies 4 above, R57). Generated from the chapters' tables. -/

namespace Sys2Proof.Machine

def Reg.CHIP_BLKID : Nat := 0xFFFC
def Reg.EVT_BLKID : Nat := 0x10FFFC
def Reg.GTB_COMMIT : Nat := 0x20FFF0
def Reg.GTB_CMTSTAT : Nat := 0x20FFF4
def Reg.GTB_BLKID : Nat := 0x20FFFC
def Reg.RFP_COMMIT : Nat := 0x30FFF0
def Reg.RFP_CMTSTAT : Nat := 0x30FFF4
def Reg.RFP_BLKID : Nat := 0x30FFFC
def Reg.DMX_COMMIT : Nat := 0x40FFF0
def Reg.DMX_CMTSTAT : Nat := 0x40FFF4
def Reg.DMX_BLKID : Nat := 0x40FFFC
def Reg.SIC_BLKID : Nat := 0x50FFFC
def Reg.CDC_BLKID : Nat := 0x60FFFC
def Reg.MSQ_COMMIT : Nat := 0x70FFF0
def Reg.MSQ_CMTSTAT : Nat := 0x70FFF4
def Reg.MSQ_BLKID : Nat := 0x70FFFC
def Reg.BGT_BLKID : Nat := 0x80FFFC
def Reg.SLV_COMMIT : Nat := 0x90FFF0
def Reg.SLV_CMTSTAT : Nat := 0x90FFF4
def Reg.SLV_BLKID : Nat := 0x90FFFC
def Reg.QMG_COMMIT : Nat := 0xA0FFF0
def Reg.QMG_CMTSTAT : Nat := 0xA0FFF4
def Reg.QMG_BLKID : Nat := 0xA0FFFC
def Reg.FWD_BLKID : Nat := 0xB0FFFC
def Reg.KVT_BLKID : Nat := 0xC0FFFC
def Reg.CRY_BLKID : Nat := 0xD0FFFC
def Reg.UPD_BLKID : Nat := 0xE0FFFC
def Reg.CSC_BLKID : Nat := 0xF0FFFC
def Reg.PWR_BLKID : Nat := 0x100FFFC
def Reg.SUP_BLKID : Nat := 0x110FFFC
def Reg.MEM_BLKID : Nat := 0x120FFFC
def Reg.HIF_BLKID : Nat := 0x130FFFC
def Reg.TST_BLKID : Nat := 0x140FFFC
def Reg.CFG_BLKID : Nat := 0x150FFFC
def Reg.LGC_BLKID : Nat := 0x160FFFC
def Reg.PRC_BLKID : Nat := 0x170FFFC
def Reg.CFG_C0ERR : Nat := 0x1500004
def Reg.CFG_C1ERR : Nat := 0x1500008
def Ctr.CFG_SKIP : Nat := 0x1500018
def Reg.CFG_HASHk (j : Nat) : Nat := 0x1500030 + 0x4 * j
def Reg.CHIP_SNAPGT_LO : Nat := 0x108
def Reg.CHIP_SNAPGT_HI : Nat := 0x10C
def Ctr.EVT_ACCCNT : Nat := 0x100008
def Reg.EVT_PENDn (j : Nat) : Nat := 0x100100 + 0x4 * j
def Reg.EVT_ROUTEn (j : Nat) : Nat := 0x100200 + 0x4 * j
def Reg.GTB_STEP : Nat := 0x200020
def Reg.GTB_STEPGSN : Nat := 0x200024
def Reg.GTB_UTCGT_LO : Nat := 0x200038
def Reg.GTB_UTCGT_HI : Nat := 0x20003C
def Reg.GTB_UTCSEC_LO : Nat := 0x200040
def Reg.GTB_UTCSEC_HI : Nat := 0x200044
def Reg.GTB_UTCRATE : Nat := 0x200048
def Reg.GTB_UTCLOAD_LO : Nat := 0x200050
def Reg.GTB_UTCLOAD_HI : Nat := 0x200054
def Ctr.GTB_TSMIS : Nat := 0x200070
def Ctr.GTB_RESREJ : Nat := 0x200078
def Ctr.GTB_HOLDCNT : Nat := 0x200080
def Reg.GTB_PLSn (j : Nat) : Nat := 0x200100 + 0x10 * j
def Reg.GTB_PLSnST_LO (j : Nat) : Nat := 0x200104 + 0x10 * j
def Reg.GTB_PLSnST_HI (j : Nat) : Nat := 0x200108 + 0x10 * j
def Reg.GTB_PLSnPER (j : Nat) : Nat := 0x20010C + 0x10 * j
def Reg.GTB_CMPn (j : Nat) : Nat := 0x200200 + 0x10 * j
def Reg.GTB_CMPnT_LO (j : Nat) : Nat := 0x200204 + 0x10 * j
def Reg.GTB_CMPnT_HI (j : Nat) : Nat := 0x200208 + 0x10 * j
def Reg.RFPn_LINK (n : Nat) : Nat := 0x302000 + 0x2000 * n
def Reg.RFPn_RXFS (n : Nat) : Nat := 0x302004 + 0x2000 * n
def Reg.RFPn_TXFS (n : Nat) : Nat := 0x302008 + 0x2000 * n
def Reg.RFPn_RXCTR (n : Nat) : Nat := 0x30200C + 0x2000 * n
def Reg.RFPn_TXPROFj (n k : Nat) : Nat := 0x302010 + 0x2000 * n + 0x4 * k
def Reg.RFPn_TIMING (n : Nat) : Nat := 0x302020 + 0x2000 * n
def Reg.RFPn_SPI (n : Nat) : Nat := 0x302024 + 0x2000 * n
def Reg.RFPn_TX (n : Nat) : Nat := 0x302028 + 0x2000 * n
def Reg.RFPn_GAIN (n : Nat) : Nat := 0x30202C + 0x2000 * n
def Reg.RFPn_LSTAT (n : Nat) : Nat := 0x302030 + 0x2000 * n
def Reg.RFPn_LAT (n : Nat) : Nat := 0x302034 + 0x2000 * n
def Reg.RFPn_HISTLEN (n : Nat) : Nat := 0x302038 + 0x2000 * n
def Reg.RFPn_HISTBASE_LO (n : Nat) : Nat := 0x30203C + 0x2000 * n
def Reg.RFPn_HISTBASE_HI (n : Nat) : Nat := 0x302040 + 0x2000 * n
def Ctr.RFPn_LINKDN (n : Nat) : Nat := 0x302050 + 0x2000 * n
def Ctr.RFPn_CRCERR (n : Nat) : Nat := 0x302058 + 0x2000 * n
def Ctr.RFPn_OVWR (n : Nat) : Nat := 0x302060 + 0x2000 * n
def Ctr.RFPn_TXABORT (n : Nat) : Nat := 0x302068 + 0x2000 * n
def Ctr.RFPn_PROFREF (n : Nat) : Nat := 0x302070 + 0x2000 * n
def Reg.RFPn_SLk (n k : Nat) : Nat := 0x303000 + 0x2000 * n + 0x8 * k
def Reg.RFPn_SLkNF (n k : Nat) : Nat := 0x303004 + 0x2000 * n + 0x8 * k
def Ctr.CDC_HDROK : Nat := 0x600100
def Ctr.CDC_HDRCOR : Nat := 0x600108
def Ctr.CDC_HDRGOL : Nat := 0x600110
def Ctr.CDC_HDRCHK : Nat := 0x600118
def Ctr.CDC_HDRINV : Nat := 0x600120
def Ctr.CDC_CWOK : Nat := 0x600128
def Ctr.CDC_CWSYM : Nat := 0x600130
def Ctr.CDC_CWFAIL : Nat := 0x600138
def Ctr.CDC_TXFRM : Nat := 0x600140
def Ctr.CDC_TXLATE : Nat := 0x600148
def Reg.DMX_QRECw (j : Nat) : Nat := 0x400020 + 0x4 * j
def Ctr.DMX_DET : Nat := 0x400100
def Ctr.DMX_NOLANE : Nat := 0x400108
def Ctr.DMX_BORROW : Nat := 0x400110
def Ctr.DMX_RETRO : Nat := 0x400118
def Ctr.DMX_RETROOVF : Nat := 0x400120
def Ctr.DMX_OUTOK : Nat := 0x400128
def Ctr.DMX_NOSFD : Nat := 0x400130
def Ctr.DMX_HDRFAIL : Nat := 0x400138
def Ctr.DMX_RSFAIL : Nat := 0x400140
def Ctr.DMX_FCSFAIL : Nat := 0x400148
def Ctr.DMX_FADE : Nat := 0x400150
def Ctr.DMX_LINKLOSS : Nat := 0x400158
def Ctr.DMX_BLANKED : Nat := 0x400160
def Ctr.DMX_HISTGAP : Nat := 0x400168
def Ctr.DMX_EXPIRED : Nat := 0x400170
def Ctr.DMX_SICREQ : Nat := 0x400178
def Ctr.DMX_QOVF : Nat := 0x400180
def Reg.DMX_GgSTAT (n : Nat) : Nat := 0x404000 + 0x1000 * n
def Reg.DMX_GgTHR (n : Nat) : Nat := 0x404004 + 0x1000 * n
def Reg.DMX_GgHk (n k : Nat) : Nat := 0x404100 + 0x1000 * n + 0x4 * k
def Reg.DMX_GgLk (n k : Nat) : Nat := 0x404200 + 0x1000 * n + 0x4 * k
def Reg.SIC_RQRECw (j : Nat) : Nat := 0x500020 + 0x4 * j
def Ctr.SIC_REQ : Nat := 0x500100
def Ctr.SIC_QFULL : Nat := 0x500108
def Ctr.SIC_MERGED : Nat := 0x500110
def Ctr.SIC_JOBS : Nat := 0x500118
def Ctr.SIC_RESOLVED : Nat := 0x500120
def Ctr.SIC_PARTIAL : Nat := 0x500128
def Ctr.SIC_FAILED : Nat := 0x500130
def Ctr.SIC_TOOMANY : Nat := 0x500138
def Ctr.SIC_TOOLONG : Nat := 0x500140
def Ctr.SIC_EXPIRED : Nat := 0x500148
def Ctr.SIC_HISTERR : Nat := 0x500150
def Ctr.SIC_ABORTED : Nat := 0x500158
def Ctr.SIC_FRMOK : Nat := 0x500160
def Ctr.SIC_HIDDEN : Nat := 0x500168
def Ctr.SIC_THREE : Nat := 0x500170
def Ctr.SIC_REFMISS : Nat := 0x500178
def Ctr.SIC_RQOVF : Nat := 0x500180
def Reg.MSQ_EUI_LO : Nat := 0x700008
def Reg.MSQ_EUI_HI : Nat := 0x70000C
def Reg.MSQ_BCN : Nat := 0x70001C
def Reg.MSQ_BCNPEER : Nat := 0x700020
def Reg.MSQ_NBDATAw (j : Nat) : Nat := 0x700040 + 0x4 * j
def Ctr.MSQ_RXACC : Nat := 0x700100
def Ctr.MSQ_BADFRM : Nat := 0x700108
def Ctr.MSQ_FOREIGN : Nat := 0x700110
def Ctr.MSQ_NOTHOME : Nat := 0x700118
def Ctr.MSQ_NOTACT : Nat := 0x700120
def Ctr.MSQ_STALE : Nat := 0x700128
def Ctr.MSQ_NOKEY : Nat := 0x700130
def Ctr.MSQ_MICFAIL : Nat := 0x700138
def Ctr.MSQ_DUPS : Nat := 0x700140
def Ctr.MSQ_DUPC : Nat := 0x700148
def Ctr.MSQ_NACK : Nat := 0x700150
def Ctr.MSQ_ACKS : Nat := 0x700158
def Ctr.MSQ_ACKC : Nat := 0x700160
def Ctr.MSQ_ACKLATE : Nat := 0x700168
def Ctr.MSQ_ACKFAIL : Nat := 0x700170
def Ctr.MSQ_OUTWIN : Nat := 0x700178
def Ctr.MSQ_SRCH : Nat := 0x700180
def Ctr.MSQ_SRCHFOUND : Nat := 0x700188
def Ctr.MSQ_SRCHDROP : Nat := 0x700190
def Ctr.MSQ_LOST : Nat := 0x700198
def Ctr.MSQ_TXATT : Nat := 0x7001A0
def Ctr.MSQ_TXACKED : Nat := 0x7001A8
def Ctr.MSQ_TXDROP : Nat := 0x7001B0
def Ctr.MSQ_TXLOST : Nat := 0x7001B8
def Ctr.MSQ_BCNTX : Nat := 0x7001C0
def Ctr.MSQ_BCNRX : Nat := 0x7001C8
def Ctr.MSQ_CEVICT : Nat := 0x7001D0
def Reg.MSQ_TPLt_A (j : Nat) : Nat := 0x701000 + 0x8 * j
def Reg.MSQ_TPLt_B (j : Nat) : Nat := 0x701004 + 0x8 * j
def Reg.MSQ_HOPcLEN (j : Nat) : Nat := 0x702000 + 0x100 * j
def Reg.MSQ_HOPcEj (j k : Nat) : Nat := 0x702010 + 0x100 * j + 0x4 * k
def Reg.MSQ_CHMcj (j k : Nat) : Nat := 0x7020A0 + 0x100 * j + 0x4 * k
def Reg.BGT_SBkF0 (j : Nat) : Nat := 0x801000 + 0x20 * j
def Reg.BGT_SBkF1 (j : Nat) : Nat := 0x801004 + 0x20 * j
def Reg.BGT_SBkPOL (j : Nat) : Nat := 0x801008 + 0x20 * j
def Reg.BGT_SBkALLOW (j : Nat) : Nat := 0x80100C + 0x20 * j
def Reg.BGT_SBkACKRES (j : Nat) : Nat := 0x801010 + 0x20 * j
def Reg.BGT_SBkTX (j : Nat) : Nat := 0x801014 + 0x20 * j
def Reg.BGT_SBkLBT (j : Nat) : Nat := 0x801018 + 0x20 * j
def Reg.BGT_SBkUSED (j : Nat) : Nat := 0x80101C + 0x20 * j
def Ctr.BGT_GRANT : Nat := 0x800100
def Ctr.BGT_RBUDGET : Nat := 0x800108
def Ctr.BGT_ROFF : Nat := 0x800110
def Ctr.BGT_RPERTX : Nat := 0x800118
def Ctr.BGT_RRESV : Nat := 0x800120
def Ctr.BGT_CCACLR : Nat := 0x800128
def Ctr.BGT_CCABUSY : Nat := 0x800130
def Ctr.BGT_SETTLE : Nat := 0x800138
def Ctr.BGT_FILL : Nat := 0x800140
def Ctr.BGT_SBkAIR (j : Nat) : Nat := 0x801400 + 0x8 * j
def Reg.SLV_SFk (j : Nat) : Nat := 0x900020 + 0x4 * j
def Reg.SLV_FIXj (j : Nat) : Nat := 0x900040 + 0x4 * j
def Reg.SLV_DATAw (j : Nat) : Nat := 0x900110 + 0x4 * j
def Reg.SLV_RDATAw (j : Nat) : Nat := 0x900130 + 0x4 * j
def Reg.SLV_RQSTAT : Nat := 0x900200
def Reg.SLV_SHQSTAT : Nat := 0x900220
def Reg.SLV_RQPOP : Nat := 0x900204
def Reg.SLV_SHQPOP : Nat := 0x900224
def Reg.SLV_RQRECw (j : Nat) : Nat := 0x900210 + 0x4 * j
def Reg.SLV_SHQRECw (j : Nat) : Nat := 0x900230 + 0x4 * j
def Reg.SLV_MRECcj (j k : Nat) : Nat := 0x900300 + 0x10 * j + 0x4 * k
def Ctr.SLV_SOLVES : Nat := 0x900400
def Ctr.SLV_NOGAIN : Nat := 0x900408
def Ctr.SLV_JOINS : Nat := 0x900410
def Ctr.SLV_NOFIT : Nat := 0x900418
def Ctr.SLV_LEAVES : Nat := 0x900420
def Ctr.SLV_PATCHES : Nat := 0x900428
def Ctr.SLV_CELLSTX : Nat := 0x900430
def Ctr.SLV_UNCONF : Nat := 0x900438
def Ctr.SLV_LINKEVICT : Nat := 0x900440
def Ctr.SLV_CMDREF : Nat := 0x900448
def Ctr.SLV_RQOVF : Nat := 0x900450
def Ctr.SLV_SHQOVF : Nat := 0x900458
def Reg.QMG_TOTAL : Nat := 0xA00008
def Reg.QMG_FREE : Nat := 0xA0000C
def Reg.QMG_HELD_LO : Nat := 0xA00018
def Reg.QMG_HELD_HI : Nat := 0xA0001C
def Reg.QMG_ADMk (j : Nat) : Nat := 0xA00020 + 0x4 * j
def Reg.QMG_USEDk (j : Nat) : Nat := 0xA00040 + 0x4 * j
def Reg.QMG_CLSc_A (n : Nat) : Nat := 0xA00080 + 0x8 * n
def Reg.QMG_CLSc_B (j : Nat) : Nat := 0xA00084 + 0x8 * j
def Reg.QMG_QDATAw (j : Nat) : Nat := 0xA00110 + 0x4 * j
def Reg.QMG_SWQnIN (j : Nat) : Nat := 0xA00200 + 0x10 * j
def Reg.QMG_SWQnCMD (j : Nat) : Nat := 0xA00204 + 0x10 * j
def Reg.QMG_SWQnOUT (j : Nat) : Nat := 0xA00208 + 0x10 * j
def Reg.QMG_SWQnSTAT (j : Nat) : Nat := 0xA0020C + 0x10 * j
def Ctr.QMG_IN0 : Nat := 0xA00400
def Ctr.QMG_IN1 : Nat := 0xA00408
def Ctr.QMG_IN2 : Nat := 0xA00410
def Ctr.QMG_IN3 : Nat := 0xA00418
def Ctr.QMG_IN4 : Nat := 0xA00420
def Ctr.QMG_IN5 : Nat := 0xA00428
def Ctr.QMG_IN6 : Nat := 0xA00430
def Ctr.QMG_IN7 : Nat := 0xA00438
def Ctr.QMG_DELIV : Nat := 0xA00440
def Ctr.QMG_TX : Nat := 0xA00448
def Ctr.QMG_DROP0 : Nat := 0xA00450
def Ctr.QMG_DROP1 : Nat := 0xA00458
def Ctr.QMG_DROP2 : Nat := 0xA00460
def Ctr.QMG_DROP3 : Nat := 0xA00468
def Ctr.QMG_DROP4 : Nat := 0xA00470
def Ctr.QMG_DROP5 : Nat := 0xA00478
def Ctr.QMG_DROP6 : Nat := 0xA00480
def Ctr.QMG_DROP7 : Nat := 0xA00488
def Ctr.QMG_DROP8 : Nat := 0xA00490
def Ctr.QMG_DROP9 : Nat := 0xA00498
def Ctr.QMG_DROP10 : Nat := 0xA004A0
def Ctr.QMG_DROP11 : Nat := 0xA004A8
def Ctr.QMG_DROP12 : Nat := 0xA004B0
def Ctr.QMG_DROP13 : Nat := 0xA004B8
def Ctr.QMG_DROP14 : Nat := 0xA004C0
def Ctr.QMG_DROP15 : Nat := 0xA004C8
def Ctr.QMG_REFUSE0 : Nat := 0xA004D0
def Ctr.QMG_REFUSE1 : Nat := 0xA004D8
def Ctr.QMG_REFUSE2 : Nat := 0xA004E0
def Ctr.QMG_REFUSE3 : Nat := 0xA004E8
def Ctr.QMG_REFUSE4 : Nat := 0xA004F0
def Ctr.QMG_REFUSE5 : Nat := 0xA004F8
def Ctr.QMG_REFUSE6 : Nat := 0xA00500
def Ctr.QMG_REFUSE7 : Nat := 0xA00508
def Ctr.QMG_OVF : Nat := 0xA00510
def Ctr.QMG_UNDERRUN : Nat := 0xA00518
def Ctr.QMG_LOSTCELLS : Nat := 0xA00520
def Ctr.QMG_ILV : Nat := 0xA00528
def Reg.FWD_HSEED0 : Nat := 0xB00008
def Reg.FWD_HSEED1 : Nat := 0xB0000C
def Reg.FWD_NHOST : Nat := 0xB00108
def Reg.FWD_NPFX : Nat := 0xB0010C
def Reg.FWD_NBOOT : Nat := 0xB00110
def Reg.FWD_PERECw (j : Nat) : Nat := 0xB00128 + 0x4 * j
def Reg.FWD_POLk_A (n : Nat) : Nat := 0xB00200 + 0x8 * n
def Reg.FWD_POLk_B (n : Nat) : Nat := 0xB00204 + 0x8 * n
def Reg.FWD_CMDDATAw (j : Nat) : Nat := 0xB00020 + 0x4 * j
def Reg.FWD_CMDRESw (j : Nat) : Nat := 0xB00040 + 0x4 * j
def Ctr.FWD_CMDS : Nat := 0xB00080
def Ctr.FWD_CMDFAIL : Nat := 0xB00088
def Ctr.FWD_LEARNSTALE : Nat := 0xB00090
def Ctr.FWD_PINDROP : Nat := 0xB00098
def Ctr.FWD_PINS : Nat := 0xB000A0
def Ctr.FWD_LXTX : Nat := 0xB000A8
def Ctr.FWD_LXTXDROP : Nat := 0xB000B0
def Ctr.FWD_LXRX : Nat := 0xB000B8
def Ctr.FWD_LXGAP : Nat := 0xB000C0
def Ctr.FWD_LXBAD : Nat := 0xB000C8
def Ctr.FWD_WITHDRAW : Nat := 0xB000D0
def Ctr.FWD_FLAPOVF : Nat := 0xB000D8
def Ctr.FWD_CMDIGN : Nat := 0xB000E0
def Ctr.FWD_LOOKUP : Nat := 0xB00400
def Ctr.FWD_HOTHIT : Nat := 0xB00408
def Ctr.FWD_HOSTHIT : Nat := 0xB00410
def Ctr.FWD_PFXHIT : Nat := 0xB00418
def Ctr.FWD_BOOTHIT : Nat := 0xB00420
def Ctr.FWD_MISS : Nat := 0xB00428
def Ctr.FWD_MCAST : Nat := 0xB00430
def Ctr.FWD_STALEAIR : Nat := 0xB00438
def Ctr.FWD_LEARNEV : Nat := 0xB00440
def Ctr.FWD_LEARNNEW : Nat := 0xB00448
def Ctr.FWD_REFRESH : Nat := 0xB00450
def Ctr.FWD_MOVES : Nat := 0xB00458
def Ctr.FWD_LEARNDROP : Nat := 0xB00460
def Ctr.FWD_LEARNFULL : Nat := 0xB00468
def Ctr.FWD_STATCONF : Nat := 0xB00470
def Ctr.FWD_AGEMARK : Nat := 0xB00478
def Ctr.FWD_AGECANCEL : Nat := 0xB00480
def Ctr.FWD_AGEEXP : Nat := 0xB00488
def Ctr.FWD_PARCACHE : Nat := 0xB00490
def Ctr.FWD_PARDRAM : Nat := 0xB00498
def Ctr.FWD_PARFLT : Nat := 0xB004A0
def Ctr.FWD_PARBOOT : Nat := 0xB004A8
def Ctr.FWD_LOSTENT : Nat := 0xB004B0
def Ctr.FWD_POLDROP0 : Nat := 0xB004B8
def Ctr.FWD_POLDROP1 : Nat := 0xB004C0
def Ctr.FWD_POLDROP2 : Nat := 0xB004C8
def Ctr.FWD_POLDROP3 : Nat := 0xB004D0
def Ctr.FWD_POLDROP4 : Nat := 0xB004D8
def Ctr.FWD_POLDROP5 : Nat := 0xB004E0
def Ctr.FWD_POLDROP6 : Nat := 0xB004E8
def Ctr.FWD_POLDROP7 : Nat := 0xB004F0
def Ctr.FWD_STATICFAIL : Nat := 0xB004F8
def Ctr.FWD_PEROVF : Nat := 0xB00500
def Reg.KVT_KUMSIGNERk (j : Nat) : Nat := 0xC00010 + 0x4 * j
def Reg.KVT_ANCHORk (j : Nat) : Nat := 0xC00040 + 0x4 * j
def Reg.KVT_DEVIDk (j : Nat) : Nat := 0xC00070 + 0x4 * j
def Reg.KVT_KUMHW0 : Nat := 0xC00080
def Reg.KVT_KUMHW1 : Nat := 0xC00084
def Reg.KVT_SEALGEN : Nat := 0xC00088
def Reg.KVT_EPOCH : Nat := 0xC0008C
def Reg.KVT_NSLOT : Nat := 0xC00090
def Reg.KVT_ITKPUBk (j : Nat) : Nat := 0xC000A0 + 0x4 * j
def Reg.KVT_IDPUBk (j : Nat) : Nat := 0xC00500 + 0x4 * j
def Reg.KVT_NONCEk (j : Nat) : Nat := 0xC00110 + 0x4 * j
def Reg.KVT_RESk (j : Nat) : Nat := 0xC00200 + 0x4 * j
def Ctr.KVT_KUMOK : Nat := 0xC00400
def Ctr.KVT_KUMREJ : Nat := 0xC00408
def Ctr.KVT_LOOKUP : Nat := 0xC00410
def Ctr.KVT_MISS : Nat := 0xC00418
def Ctr.KVT_NOKEY : Nat := 0xC00420
def Ctr.KVT_CTRBLK : Nat := 0xC00428
def Ctr.KVT_JOURNAL : Nat := 0xC00430
def Ctr.KVT_ATTEST : Nat := 0xC00438
def Ctr.KVT_RELOAD : Nat := 0xC00440
def Ctr.CRY_AESJOB : Nat := 0xD00100
def Ctr.CRY_PKJOB : Nat := 0xD00108
def Ctr.CRY_HASHJOB : Nat := 0xD00110
def Ctr.CRY_DRBGREQ : Nat := 0xD00118
def Ctr.CRY_RESEEDS : Nat := 0xD00120
def Ctr.CRY_HEALTH : Nat := 0xD00128
def Reg.CHIP_XWADDR_LO : Nat := 0x214
def Reg.CHIP_XWADDR_HI : Nat := 0x218
def Ctr.CHIP_XWCNT : Nat := 0x220
def Reg.UPD_ARG : Nat := 0xE00008
def Reg.UPD_OFS : Nat := 0xE0000C
def Reg.UPD_RUNGEN : Nat := 0xE00018
def Reg.UPD_STGGEN : Nat := 0xE0001C
def Reg.UPD_OTHGEN : Nat := 0xE00020
def Reg.UPD_PEERGENk (j : Nat) : Nat := 0xE00040 + 0x4 * j
def Ctr.UPD_LOADS : Nat := 0xE00100
def Ctr.UPD_VERIFYOK : Nat := 0xE00108
def Ctr.UPD_VERIFYFAIL : Nat := 0xE00110
def Ctr.UPD_ACTIVATES : Nat := 0xE00118
def Ctr.UPD_COMMITS : Nat := 0xE00120
def Ctr.UPD_ROLLBACKS : Nat := 0xE00128
def Ctr.UPD_FLASHERR : Nat := 0xE00130
def Reg.PRC_QCFGq (n : Nat) : Nat := 0x1700010 + 0x4 * n
def Reg.PRC_CTXc_w (j k : Nat) : Nat := 0x1700100 + 0x20 * j + 0x4 * k
def Reg.PRC_CTXcLEN (j : Nat) : Nat := 0x1700110 + 0x20 * j
def Reg.PRC_RPLIDk (j : Nat) : Nat := 0x1700300 + 0x4 * j
def Reg.PRC_RPLCFG : Nat := 0x1700310
def Reg.PRC_RPLVER : Nat := 0x1700314
def Reg.PRC_RPLCMD : Nat := 0x1700318
def Ctr.PRC_DECOMP : Nat := 0x1700400
def Ctr.PRC_DECFAIL : Nat := 0x1700408
def Ctr.PRC_COMP : Nat := 0x1700410
def Ctr.PRC_SRCRT : Nat := 0x1700418
def Ctr.PRC_HINTD : Nat := 0x1700420
def Ctr.PRC_HINTR : Nat := 0x1700428
def Ctr.PRC_DAO : Nat := 0x1700430
def Ctr.PRC_DIO : Nat := 0x1700438
def Ctr.PRC_HOPLIM : Nat := 0x1700440
def Ctr.PRC_DAOFULL : Nat := 0x1700448
def Reg.CSC_EPOCH : Nat := 0xF00008
def Reg.CSC_REACH : Nat := 0xF0000C
def Reg.CSC_RTa (j : Nat) : Nat := 0xF00100 + 0x4 * j
def Reg.CSC_PnCFG (j : Nat) : Nat := 0xF01000 + 0x100 * j
def Reg.CSC_PnSTAT (j : Nat) : Nat := 0xF01004 + 0x100 * j
def Reg.CSC_PnCRED (j : Nat) : Nat := 0xF01008 + 0x100 * j
def Reg.CSC_PnCREDOUT (j : Nat) : Nat := 0xF0100C + 0x100 * j
def Reg.CSC_PnCREDAV (j : Nat) : Nat := 0xF01010 + 0x100 * j
def Ctr.CSC_PnTXFRM (j : Nat) : Nat := 0xF01040 + 0x100 * j
def Ctr.CSC_PnRXFRM (j : Nat) : Nat := 0xF01048 + 0x100 * j
def Ctr.CSC_PnRETX (j : Nat) : Nat := 0xF01050 + 0x100 * j
def Ctr.CSC_PnAUTHFAIL (j : Nat) : Nat := 0xF01058 + 0x100 * j
def Ctr.CSC_PnDOWN (j : Nat) : Nat := 0xF01060 + 0x100 * j
def Ctr.CSC_TXPKT : Nat := 0xF00400
def Ctr.CSC_RXPKT : Nat := 0xF00408
def Ctr.CSC_TRANSIT : Nat := 0xF00410
def Ctr.CSC_REROUTE : Nat := 0xF00418
def Ctr.CSC_NOROUTE : Nat := 0xF00420
def Ctr.CSC_DUP : Nat := 0xF00428
def Ctr.CSC_STALE : Nat := 0xF00430
def Ctr.CSC_TAKEOVER : Nat := 0xF00438
def Reg.CHIP_TSL1 : Nat := 0x310
def Reg.CHIP_TSL2 : Nat := 0x314
def Reg.MEM_ECCADDR_LO : Nat := 0x1200014
def Reg.MEM_ECCADDR_HI : Nat := 0x1200018
def Reg.MEM_RGk_BASE_LO (j : Nat) : Nat := 0x1200100 + 0x10 * j
def Reg.MEM_RGk_BASE_HI (j : Nat) : Nat := 0x1200104 + 0x10 * j
def Reg.MEM_RGk_SIZE (j : Nat) : Nat := 0x1200108 + 0x10 * j
def Ctr.MEM_CE : Nat := 0x1200200
def Ctr.MEM_UE : Nat := 0x1200208
def Ctr.MEM_SCRUBPASS : Nat := 0x1200210
def Ctr.MEM_TRAIN : Nat := 0x1200218
def Ctr.MEM_HISTOVR : Nat := 0x1200220
def Reg.PWR_DOMSTAT0 : Nat := 0x1000004
def Reg.PWR_DOMSTAT1 : Nat := 0x1000008
def Reg.PWR_DOMREQ0 : Nat := 0x1000010
def Reg.PWR_DOMREQ1 : Nat := 0x1000014
def Ctr.PWR_DIPCNT : Nat := 0x1000100
def Ctr.PWR_HOLDCNT : Nat := 0x1000108
def Ctr.PWR_RETFAILCNT : Nat := 0x1000110
def Ctr.PWR_ENTRIES : Nat := 0x1000118
def Ctr.PWR_REPLAYS : Nat := 0x1000120
def Reg.SUP_LOGRECw (j : Nat) : Nat := 0x1100030 + 0x4 * j
def Ctr.SUP_FLTCNT : Nat := 0x1100100
def Ctr.SUP_RESTARTS : Nat := 0x1100108
def Ctr.SUP_PRCRESTARTS : Nat := 0x1100110
def Ctr.SUP_FSREPL : Nat := 0x1100118
def Ctr.SUP_NOTDROP : Nat := 0x1100120
def Ctr.SUP_LOGOVF : Nat := 0x1100128
def Ctr.SUP_ACCCNT : Nat := 0x1100130
def Reg.LGC_PpSTAT (j : Nat) : Nat := 0x1600100 + 0x10 * j
def Reg.LGC_PpASN (j : Nat) : Nat := 0x1600104 + 0x10 * j
def Reg.LGC_PpBND (j : Nat) : Nat := 0x1600108 + 0x10 * j
def Reg.LGC_PpEMUa (j k : Nat) : Nat := 0x1601000 + 0x200 * j + 0x4 * k
def Ctr.LGC_RXOK (j : Nat) : Nat := 0x1600400 + 0x80 * j
def Ctr.LGC_NOMATCH (j : Nat) : Nat := 0x1600408 + 0x80 * j
def Ctr.LGC_CONFLICT (j : Nat) : Nat := 0x1600410 + 0x80 * j
def Ctr.LGC_OUTLINK (j : Nat) : Nat := 0x1600418 + 0x80 * j
def Ctr.LGC_RXFULL (j : Nat) : Nat := 0x1600420 + 0x80 * j
def Ctr.LGC_ACKS (j : Nat) : Nat := 0x1600428 + 0x80 * j
def Ctr.LGC_ACKFAIL (j : Nat) : Nat := 0x1600430 + 0x80 * j
def Ctr.LGC_TXOK (j : Nat) : Nat := 0x1600438 + 0x80 * j
def Ctr.LGC_TXFAIL (j : Nat) : Nat := 0x1600440 + 0x80 * j
def Ctr.LGC_DEFER (j : Nat) : Nat := 0x1600448 + 0x80 * j
def Ctr.LGC_SPIERR (j : Nat) : Nat := 0x1600450 + 0x80 * j
def Reg.TST_SIG : Nat := 0x140000C
def Reg.TST_EXP : Nat := 0x1400010
def Reg.TST_IDCODE : Nat := 0x1400014
def Ctr.TST_RUNS : Nat := 0x1400100
def Ctr.TST_PASS : Nat := 0x1400108
def Ctr.TST_FAIL : Nat := 0x1400110
def Ctr.TST_REFUSED : Nat := 0x1400118
def Ctr.TST_BSIGN : Nat := 0x1400120
def Reg.HIF_PCIID : Nat := 0x1300010
def Reg.HIF_PCICLS : Nat := 0x1300014
def Reg.HIF_PnCFG (j : Nat) : Nat := 0x1300100 + 0x40 * j
def Reg.HIF_PnMAC_LO (j : Nat) : Nat := 0x1300104 + 0x40 * j
def Reg.HIF_PnMAC_HI (j : Nat) : Nat := 0x1300108 + 0x40 * j
def Reg.HIF_PnVID (j : Nat) : Nat := 0x130010C + 0x40 * j
def Reg.HIF_PnTXAN (j : Nat) : Nat := 0x1300110 + 0x40 * j
def Reg.HIF_PnLSTAT (j : Nat) : Nat := 0x1300114 + 0x40 * j
def Reg.HIF_PnSAa (j k : Nat) : Nat := 0x1300120 + 0x40 * j + 0x4 * k
def Reg.HIF_NHk_A (j : Nat) : Nat := 0x1304000 + 0x8 * j
def Reg.HIF_NHk_B (j : Nat) : Nat := 0x1304004 + 0x8 * j
def Reg.HIF_PTPSEC_LO : Nat := 0x1300200
def Reg.HIF_PTPSEC_HI : Nat := 0x1300204
def Reg.HIF_PTPNS : Nat := 0x1300208
def Reg.HIF_PTPADJ : Nat := 0x130020C
def Reg.HIF_PTPSTEP : Nat := 0x1300210
def Reg.HIF_TSFIFO : Nat := 0x1300214
def Reg.HIF_TSPOP : Nat := 0x1300218
def Reg.HIF_RXRINGr_BASE_LO (j : Nat) : Nat := 0x1301000 + 0x20 * j
def Reg.HIF_RXRINGr_BASE_HI (j : Nat) : Nat := 0x1301004 + 0x20 * j
def Reg.HIF_RXRINGr_LEN (j : Nat) : Nat := 0x1301008 + 0x20 * j
def Reg.HIF_RXRINGr_HEAD (j : Nat) : Nat := 0x130100C + 0x20 * j
def Reg.HIF_RXRINGr_TAIL (j : Nat) : Nat := 0x1301010 + 0x20 * j
def Reg.HIF_TXRINGr_BASE_LO (j : Nat) : Nat := 0x1301400 + 0x20 * j
def Reg.HIF_TXRINGr_BASE_HI (j : Nat) : Nat := 0x1301404 + 0x20 * j
def Reg.HIF_TXRINGr_LEN (j : Nat) : Nat := 0x1301408 + 0x20 * j
def Reg.HIF_TXRINGr_HEAD (j : Nat) : Nat := 0x130140C + 0x20 * j
def Reg.HIF_TXRINGr_TAIL (j : Nat) : Nat := 0x1301410 + 0x20 * j
def Reg.HIF_XCMD : Nat := 0x1300300
def Reg.HIF_XADDR : Nat := 0x1300304
def Reg.HIF_XSTAT : Nat := 0x1300308
def Reg.HIF_XDATAw (j : Nat) : Nat := 0x1300400 + 0x4 * j
def Reg.HIF_SMBCFG : Nat := 0x1300310
def Reg.HIF_GPIOOE : Nat := 0x1300320
def Reg.HIF_GPIOOUT : Nat := 0x1300324
def Reg.HIF_GPIOIN : Nat := 0x1300328
def Reg.HIF_GPIOIEN : Nat := 0x130032C
def Reg.HIF_PLSMAP0 : Nat := 0x1300330
def Reg.HIF_PLSMAP1 : Nat := 0x1300334
def Ctr.HIF_P0RX : Nat := 0x1300800
def Ctr.HIF_P1RX : Nat := 0x1300808
def Ctr.HIF_P0TX : Nat := 0x1300810
def Ctr.HIF_P1TX : Nat := 0x1300818
def Ctr.HIF_P0DROP : Nat := 0x1300820
def Ctr.HIF_P1DROP : Nat := 0x1300828
def Ctr.HIF_P0MSDROP : Nat := 0x1300830
def Ctr.HIF_P1MSDROP : Nat := 0x1300838
def Ctr.HIF_DMARX : Nat := 0x1300840
def Ctr.HIF_DMATX : Nat := 0x1300848
def Reg.CHIP_TEMP : Nat := 0x400
def Reg.CFG_STATUS : Nat := 0x1500000
def Reg.CFG_GEN : Nat := 0x150000C
def Reg.CFG_SEALGEN : Nat := 0x1500010
def Reg.CFG_CMD : Nat := 0x1500014
def Reg.CFG_LOADTIME : Nat := 0x1500020
def Reg.CHIP_SNAP : Nat := 0x100
def Reg.CHIP_SNAPSEQ : Nat := 0x104
def Reg.CHIP_SNAPMASK : Nat := 0x110
def Reg.EVT_ACCFLT : Nat := 0x100000
def Reg.EVT_ACCINFO : Nat := 0x100004
def Reg.EVT_PINMAP : Nat := 0x100300
def Reg.EVT_VSTAT : Nat := 0x100304
def Reg.EVT_REARM : Nat := 0x100308
def Reg.EVT_PINEN : Nat := 0x10030C
def Reg.GTB_STATUS : Nat := 0x200000
def Reg.GTB_GSN : Nat := 0x200004
def Reg.GTB_CFG : Nat := 0x200008
def Reg.GTB_SENSEDLY : Nat := 0x20000C
def Reg.GTB_PHRES : Nat := 0x200010
def Reg.GTB_SLEW : Nat := 0x200014
def Reg.GTB_QUAL : Nat := 0x200018
def Reg.GTB_PHERR : Nat := 0x20001C
def Reg.GTB_HOLDREC : Nat := 0x200028
def Reg.GTB_UTCCFG : Nat := 0x200030
def Reg.GTB_UTCSTAT : Nat := 0x200034
def Reg.GTB_FT : Nat := 0x200060
def Reg.GTB_LEGSTAMP : Nat := 0x200064
def Reg.RFP_STATUS : Nat := 0x300000
def Reg.RFP_PAIR : Nat := 0x300004
def Reg.RFP_PXCMD : Nat := 0x300010
def Reg.RFP_PXRD : Nat := 0x300014
def Reg.CDC_STATUS : Nat := 0x600000
def Reg.CDC_THR : Nat := 0x600004
def Reg.DMX_STATUS : Nat := 0x400000
def Reg.DMX_CFG : Nat := 0x400004
def Reg.DMX_THR : Nat := 0x400008
def Reg.DMX_QCFG : Nat := 0x40000C
def Reg.DMX_QSTAT : Nat := 0x400010
def Reg.DMX_QPOP : Nat := 0x400014
def Reg.SIC_STATUS : Nat := 0x500000
def Reg.SIC_CFG : Nat := 0x500004
def Reg.SIC_RCFG : Nat := 0x500008
def Reg.SIC_RQSTAT : Nat := 0x500010
def Reg.SIC_RQPOP : Nat := 0x500014
def Reg.MSQ_STATUS : Nat := 0x700000
def Reg.MSQ_CFG : Nat := 0x700004
def Reg.MSQ_GUARD : Nat := 0x700010
def Reg.MSQ_TXCFG : Nat := 0x700014
def Reg.MSQ_THR : Nat := 0x700018
def Reg.MSQ_SFSTAT : Nat := 0x700024
def Reg.MSQ_NBCMD : Nat := 0x700030
def Reg.MSQ_NBSTAT : Nat := 0x700034
def Reg.BGT_STATUS : Nat := 0x800000
def Reg.BGT_CFG : Nat := 0x800004
def Reg.BGT_THR : Nat := 0x800008
def Reg.SLV_STATUS : Nat := 0x900000
def Reg.SLV_CFG : Nat := 0x900004
def Reg.SLV_POL0 : Nat := 0x900008
def Reg.SLV_POL1 : Nat := 0x90000C
def Reg.SLV_POL2 : Nat := 0x900010
def Reg.SLV_CMD : Nat := 0x900100
def Reg.SLV_CMDSTAT : Nat := 0x900104
def Reg.QMG_STATUS : Nat := 0xA00000
def Reg.QMG_THR : Nat := 0xA00010
def Reg.QMG_POOLWM : Nat := 0xA00014
def Reg.QMG_QCMD : Nat := 0xA00100
def Reg.QMG_QSTAT : Nat := 0xA00104
def Reg.QMG_PKTCMD : Nat := 0xA00140
def Reg.QMG_PKTARG : Nat := 0xA00144
def Reg.QMG_PKTRES : Nat := 0xA00148
def Reg.FWD_STATUS : Nat := 0xB00000
def Reg.FWD_CFG : Nat := 0xB00004
def Reg.FWD_AGE : Nat := 0xB00100
def Reg.FWD_PFXGEN : Nat := 0xB00104
def Reg.FWD_PERSTAT : Nat := 0xB00120
def Reg.FWD_PERPOP : Nat := 0xB00124
def Reg.FWD_CMDSTAT : Nat := 0xB00010
def Reg.FWD_CMD : Nat := 0xB00014
def Reg.FWD_CMDARG : Nat := 0xB00018
def Reg.FWD_LXCFG : Nat := 0xB00060
def Reg.FWD_LXSTAT : Nat := 0xB00064
def Reg.FWD_FLAPSTAT : Nat := 0xB00068
def Reg.KVT_STATUS : Nat := 0xC00000
def Reg.KVT_CFG : Nat := 0xC00004
def Reg.KVT_CMD : Nat := 0xC00100
def Reg.KVT_ARG : Nat := 0xC00104
def Reg.KVT_CMDSTAT : Nat := 0xC00108
def Reg.KVT_SECEVT : Nat := 0xC00300
def Reg.CRY_STATUS : Nat := 0xD00000
def Reg.CRY_RNG : Nat := 0xD00004
def Reg.CRY_RESEED : Nat := 0xD00008
def Reg.CHIP_WMAP0 : Nat := 0x200
def Reg.CHIP_WMAP1 : Nat := 0x204
def Reg.CHIP_WMAP2 : Nat := 0x208
def Reg.CHIP_XWFLT : Nat := 0x210
def Reg.UPD_STATUS : Nat := 0xE00000
def Reg.UPD_CMD : Nat := 0xE00004
def Reg.UPD_CMDSTAT : Nat := 0xE00010
def Reg.UPD_HEALTH : Nat := 0xE00014
def Reg.UPD_SVN : Nat := 0xE00024
def Reg.UPD_PAUSE : Nat := 0xE00028
def Reg.UPD_PEERSTAT : Nat := 0xE00030
def Reg.PRC_STATUS : Nat := 0x1700000
def Reg.PRC_THR : Nat := 0x1700008
def Reg.CSC_STATUS : Nat := 0xF00000
def Reg.CSC_CFG : Nat := 0xF00004
def Reg.CSC_CMD : Nat := 0xF00010
def Reg.CSC_CMDSTAT : Nat := 0xF00014
def Reg.CHIP_START : Nat := 0x300
def Reg.CHIP_RSTCAUSE : Nat := 0x304
def Reg.CHIP_RESET : Nat := 0x308
def Reg.CHIP_STARTCMD : Nat := 0x30C
def Reg.MEM_STATUS : Nat := 0x1200000
def Reg.MEM_CFG : Nat := 0x1200004
def Reg.MEM_SCRUB : Nat := 0x1200008
def Reg.MEM_ECCREC : Nat := 0x1200010
def Reg.PWR_STATUS : Nat := 0x1000000
def Reg.PWR_MODECMD : Nat := 0x1000020
def Reg.PWR_WAKECFG : Nat := 0x1000024
def Reg.PWR_ALARM : Nat := 0x1000028
def Reg.PWR_WAKEREC : Nat := 0x100002C
def Reg.PWR_RETFAIL : Nat := 0x1000030
def Reg.PWR_DIPREC : Nat := 0x1000034
def Reg.PWR_CLKSEL : Nat := 0x1000038
def Reg.SUP_STATUS : Nat := 0x1100000
def Reg.SUP_CFG : Nat := 0x1100004
def Reg.SUP_WDOG : Nat := 0x1100008
def Reg.SUP_FLTREC : Nat := 0x1100010
def Reg.SUP_ACCREC : Nat := 0x1100014
def Reg.SUP_FAILCAUSE : Nat := 0x1100018
def Reg.SUP_AUDIT : Nat := 0x110001C
def Reg.SUP_LOGSTAT : Nat := 0x1100020
def Reg.SUP_LOGPOP : Nat := 0x1100024
def Reg.LGC_STATUS : Nat := 0x1600000
def Reg.LGC_CFG : Nat := 0x1600004
def Reg.TST_STATUS : Nat := 0x1400000
def Reg.TST_CMD : Nat := 0x1400004
def Reg.TST_RESULT : Nat := 0x1400008
def Reg.HIF_STATUS : Nat := 0x1300000
def Reg.HIF_CFG : Nat := 0x1300004

def F.CHIP_BLKID_INDEX : Field := ⟨Reg.CHIP_BLKID, 0, 8⟩
def F.CHIP_BLKID_MAPVER : Field := ⟨Reg.CHIP_BLKID, 8, 8⟩
def F.EVT_BLKID_INDEX : Field := ⟨Reg.EVT_BLKID, 0, 8⟩
def F.EVT_BLKID_MAPVER : Field := ⟨Reg.EVT_BLKID, 8, 8⟩
def F.GTB_COMMIT_GROUPS : Field := ⟨Reg.GTB_COMMIT, 0, 8⟩
def F.GTB_COMMIT_GO : Field := ⟨Reg.GTB_COMMIT, 8, 1⟩
def F.GTB_COMMIT_ABORT : Field := ⟨Reg.GTB_COMMIT, 9, 1⟩
def F.GTB_CMTSTAT_PENDING : Field := ⟨Reg.GTB_CMTSTAT, 0, 8⟩
def F.GTB_CMTSTAT_LASTREJ : Field := ⟨Reg.GTB_CMTSTAT, 8, 8⟩
def F.GTB_CMTSTAT_APPLIED : Field := ⟨Reg.GTB_CMTSTAT, 16, 16⟩
def F.GTB_BLKID_INDEX : Field := ⟨Reg.GTB_BLKID, 0, 8⟩
def F.GTB_BLKID_MAPVER : Field := ⟨Reg.GTB_BLKID, 8, 8⟩
def F.RFP_COMMIT_GROUPS : Field := ⟨Reg.RFP_COMMIT, 0, 8⟩
def F.RFP_COMMIT_GO : Field := ⟨Reg.RFP_COMMIT, 8, 1⟩
def F.RFP_COMMIT_ABORT : Field := ⟨Reg.RFP_COMMIT, 9, 1⟩
def F.RFP_CMTSTAT_PENDING : Field := ⟨Reg.RFP_CMTSTAT, 0, 8⟩
def F.RFP_CMTSTAT_LASTREJ : Field := ⟨Reg.RFP_CMTSTAT, 8, 8⟩
def F.RFP_CMTSTAT_APPLIED : Field := ⟨Reg.RFP_CMTSTAT, 16, 16⟩
def F.RFP_BLKID_INDEX : Field := ⟨Reg.RFP_BLKID, 0, 8⟩
def F.RFP_BLKID_MAPVER : Field := ⟨Reg.RFP_BLKID, 8, 8⟩
def F.DMX_COMMIT_GROUPS : Field := ⟨Reg.DMX_COMMIT, 0, 8⟩
def F.DMX_COMMIT_GO : Field := ⟨Reg.DMX_COMMIT, 8, 1⟩
def F.DMX_COMMIT_ABORT : Field := ⟨Reg.DMX_COMMIT, 9, 1⟩
def F.DMX_CMTSTAT_PENDING : Field := ⟨Reg.DMX_CMTSTAT, 0, 8⟩
def F.DMX_CMTSTAT_LASTREJ : Field := ⟨Reg.DMX_CMTSTAT, 8, 8⟩
def F.DMX_CMTSTAT_APPLIED : Field := ⟨Reg.DMX_CMTSTAT, 16, 16⟩
def F.DMX_BLKID_INDEX : Field := ⟨Reg.DMX_BLKID, 0, 8⟩
def F.DMX_BLKID_MAPVER : Field := ⟨Reg.DMX_BLKID, 8, 8⟩
def F.SIC_BLKID_INDEX : Field := ⟨Reg.SIC_BLKID, 0, 8⟩
def F.SIC_BLKID_MAPVER : Field := ⟨Reg.SIC_BLKID, 8, 8⟩
def F.CDC_BLKID_INDEX : Field := ⟨Reg.CDC_BLKID, 0, 8⟩
def F.CDC_BLKID_MAPVER : Field := ⟨Reg.CDC_BLKID, 8, 8⟩
def F.MSQ_COMMIT_GROUPS : Field := ⟨Reg.MSQ_COMMIT, 0, 8⟩
def F.MSQ_COMMIT_GO : Field := ⟨Reg.MSQ_COMMIT, 8, 1⟩
def F.MSQ_COMMIT_ABORT : Field := ⟨Reg.MSQ_COMMIT, 9, 1⟩
def F.MSQ_CMTSTAT_PENDING : Field := ⟨Reg.MSQ_CMTSTAT, 0, 8⟩
def F.MSQ_CMTSTAT_LASTREJ : Field := ⟨Reg.MSQ_CMTSTAT, 8, 8⟩
def F.MSQ_CMTSTAT_APPLIED : Field := ⟨Reg.MSQ_CMTSTAT, 16, 16⟩
def F.MSQ_BLKID_INDEX : Field := ⟨Reg.MSQ_BLKID, 0, 8⟩
def F.MSQ_BLKID_MAPVER : Field := ⟨Reg.MSQ_BLKID, 8, 8⟩
def F.BGT_BLKID_INDEX : Field := ⟨Reg.BGT_BLKID, 0, 8⟩
def F.BGT_BLKID_MAPVER : Field := ⟨Reg.BGT_BLKID, 8, 8⟩
def F.SLV_COMMIT_GROUPS : Field := ⟨Reg.SLV_COMMIT, 0, 8⟩
def F.SLV_COMMIT_GO : Field := ⟨Reg.SLV_COMMIT, 8, 1⟩
def F.SLV_COMMIT_ABORT : Field := ⟨Reg.SLV_COMMIT, 9, 1⟩
def F.SLV_CMTSTAT_PENDING : Field := ⟨Reg.SLV_CMTSTAT, 0, 8⟩
def F.SLV_CMTSTAT_LASTREJ : Field := ⟨Reg.SLV_CMTSTAT, 8, 8⟩
def F.SLV_CMTSTAT_APPLIED : Field := ⟨Reg.SLV_CMTSTAT, 16, 16⟩
def F.SLV_BLKID_INDEX : Field := ⟨Reg.SLV_BLKID, 0, 8⟩
def F.SLV_BLKID_MAPVER : Field := ⟨Reg.SLV_BLKID, 8, 8⟩
def F.QMG_COMMIT_GROUPS : Field := ⟨Reg.QMG_COMMIT, 0, 8⟩
def F.QMG_COMMIT_GO : Field := ⟨Reg.QMG_COMMIT, 8, 1⟩
def F.QMG_COMMIT_ABORT : Field := ⟨Reg.QMG_COMMIT, 9, 1⟩
def F.QMG_CMTSTAT_PENDING : Field := ⟨Reg.QMG_CMTSTAT, 0, 8⟩
def F.QMG_CMTSTAT_LASTREJ : Field := ⟨Reg.QMG_CMTSTAT, 8, 8⟩
def F.QMG_CMTSTAT_APPLIED : Field := ⟨Reg.QMG_CMTSTAT, 16, 16⟩
def F.QMG_BLKID_INDEX : Field := ⟨Reg.QMG_BLKID, 0, 8⟩
def F.QMG_BLKID_MAPVER : Field := ⟨Reg.QMG_BLKID, 8, 8⟩
def F.FWD_BLKID_INDEX : Field := ⟨Reg.FWD_BLKID, 0, 8⟩
def F.FWD_BLKID_MAPVER : Field := ⟨Reg.FWD_BLKID, 8, 8⟩
def F.KVT_BLKID_INDEX : Field := ⟨Reg.KVT_BLKID, 0, 8⟩
def F.KVT_BLKID_MAPVER : Field := ⟨Reg.KVT_BLKID, 8, 8⟩
def F.CRY_BLKID_INDEX : Field := ⟨Reg.CRY_BLKID, 0, 8⟩
def F.CRY_BLKID_MAPVER : Field := ⟨Reg.CRY_BLKID, 8, 8⟩
def F.UPD_BLKID_INDEX : Field := ⟨Reg.UPD_BLKID, 0, 8⟩
def F.UPD_BLKID_MAPVER : Field := ⟨Reg.UPD_BLKID, 8, 8⟩
def F.CSC_BLKID_INDEX : Field := ⟨Reg.CSC_BLKID, 0, 8⟩
def F.CSC_BLKID_MAPVER : Field := ⟨Reg.CSC_BLKID, 8, 8⟩
def F.PWR_BLKID_INDEX : Field := ⟨Reg.PWR_BLKID, 0, 8⟩
def F.PWR_BLKID_MAPVER : Field := ⟨Reg.PWR_BLKID, 8, 8⟩
def F.SUP_BLKID_INDEX : Field := ⟨Reg.SUP_BLKID, 0, 8⟩
def F.SUP_BLKID_MAPVER : Field := ⟨Reg.SUP_BLKID, 8, 8⟩
def F.MEM_BLKID_INDEX : Field := ⟨Reg.MEM_BLKID, 0, 8⟩
def F.MEM_BLKID_MAPVER : Field := ⟨Reg.MEM_BLKID, 8, 8⟩
def F.HIF_BLKID_INDEX : Field := ⟨Reg.HIF_BLKID, 0, 8⟩
def F.HIF_BLKID_MAPVER : Field := ⟨Reg.HIF_BLKID, 8, 8⟩
def F.TST_BLKID_INDEX : Field := ⟨Reg.TST_BLKID, 0, 8⟩
def F.TST_BLKID_MAPVER : Field := ⟨Reg.TST_BLKID, 8, 8⟩
def F.CFG_BLKID_INDEX : Field := ⟨Reg.CFG_BLKID, 0, 8⟩
def F.CFG_BLKID_MAPVER : Field := ⟨Reg.CFG_BLKID, 8, 8⟩
def F.LGC_BLKID_INDEX : Field := ⟨Reg.LGC_BLKID, 0, 8⟩
def F.LGC_BLKID_MAPVER : Field := ⟨Reg.LGC_BLKID, 8, 8⟩
def F.PRC_BLKID_INDEX : Field := ⟨Reg.PRC_BLKID, 0, 8⟩
def F.PRC_BLKID_MAPVER : Field := ⟨Reg.PRC_BLKID, 8, 8⟩
def F.CFG_C0ERR_CODE : Field := ⟨Reg.CFG_C0ERR, 0, 8⟩
def F.CFG_C0ERR_DETAIL : Field := ⟨Reg.CFG_C0ERR, 8, 24⟩
def F.CFG_C1ERR_CODE : Field := ⟨Reg.CFG_C1ERR, 0, 8⟩
def F.CFG_C1ERR_DETAIL : Field := ⟨Reg.CFG_C1ERR, 8, 24⟩
def F.CFG_HASHk_DIGEST (j : Nat) : Field := ⟨(Reg.CFG_HASHk j), 0, 32⟩
def F.CHIP_SNAPGT_LO_GT_LO : Field := ⟨Reg.CHIP_SNAPGT_LO, 0, 32⟩
def F.CHIP_SNAPGT_HI_GT_HI : Field := ⟨Reg.CHIP_SNAPGT_HI, 0, 32⟩
def F.EVT_PENDn_PEND (j : Nat) : Field := ⟨(Reg.EVT_PENDn j), 0, 32⟩
def F.EVT_ROUTEn_VEC0 (j : Nat) : Field := ⟨(Reg.EVT_ROUTEn j), 0, 4⟩
def F.EVT_ROUTEn_EN0 (j : Nat) : Field := ⟨(Reg.EVT_ROUTEn j), 7, 1⟩
def F.EVT_ROUTEn_VEC1 (j : Nat) : Field := ⟨(Reg.EVT_ROUTEn j), 8, 4⟩
def F.EVT_ROUTEn_EN1 (j : Nat) : Field := ⟨(Reg.EVT_ROUTEn j), 15, 1⟩
def F.EVT_ROUTEn_VEC2 (j : Nat) : Field := ⟨(Reg.EVT_ROUTEn j), 16, 4⟩
def F.EVT_ROUTEn_EN2 (j : Nat) : Field := ⟨(Reg.EVT_ROUTEn j), 23, 1⟩
def F.EVT_ROUTEn_VEC3 (j : Nat) : Field := ⟨(Reg.EVT_ROUTEn j), 24, 4⟩
def F.EVT_ROUTEn_EN3 (j : Nat) : Field := ⟨(Reg.EVT_ROUTEn j), 31, 1⟩
def F.GTB_STEP_SLOTS : Field := ⟨Reg.GTB_STEP, 0, 32⟩
def F.GTB_STEPGSN_GSN : Field := ⟨Reg.GTB_STEPGSN, 0, 32⟩
def F.GTB_UTCGT_LO_GT_LO : Field := ⟨Reg.GTB_UTCGT_LO, 0, 32⟩
def F.GTB_UTCGT_HI_GT_HI : Field := ⟨Reg.GTB_UTCGT_HI, 0, 32⟩
def F.GTB_UTCSEC_LO_SEC_LO : Field := ⟨Reg.GTB_UTCSEC_LO, 0, 32⟩
def F.GTB_UTCSEC_HI_SEC_HI : Field := ⟨Reg.GTB_UTCSEC_HI, 0, 16⟩
def F.GTB_UTCRATE_RATE : Field := ⟨Reg.GTB_UTCRATE, 0, 32⟩
def F.GTB_UTCLOAD_LO_LOAD_LO : Field := ⟨Reg.GTB_UTCLOAD_LO, 0, 32⟩
def F.GTB_UTCLOAD_HI_LOAD_HI : Field := ⟨Reg.GTB_UTCLOAD_HI, 0, 16⟩
def F.GTB_PLSn_ARM (j : Nat) : Field := ⟨(Reg.GTB_PLSn j), 0, 1⟩
def F.GTB_PLSn_POL (j : Nat) : Field := ⟨(Reg.GTB_PLSn j), 1, 1⟩
def F.GTB_PLSn_WIDTH (j : Nat) : Field := ⟨(Reg.GTB_PLSn j), 2, 24⟩
def F.GTB_PLSn_SKIP (j : Nat) : Field := ⟨(Reg.GTB_PLSn j), 26, 6⟩
def F.GTB_PLSnST_LO_ST_LO (j : Nat) : Field := ⟨(Reg.GTB_PLSnST_LO j), 0, 32⟩
def F.GTB_PLSnST_HI_ST_HI (j : Nat) : Field := ⟨(Reg.GTB_PLSnST_HI j), 0, 32⟩
def F.GTB_PLSnPER_PER (j : Nat) : Field := ⟨(Reg.GTB_PLSnPER j), 0, 32⟩
def F.GTB_CMPn_ARM (j : Nat) : Field := ⟨(Reg.GTB_CMPn j), 0, 1⟩
def F.GTB_CMPn_MODE (j : Nat) : Field := ⟨(Reg.GTB_CMPn j), 1, 1⟩
def F.GTB_CMPn_FIRED (j : Nat) : Field := ⟨(Reg.GTB_CMPn j), 2, 1⟩
def F.GTB_CMPn_LATE (j : Nat) : Field := ⟨(Reg.GTB_CMPn j), 3, 1⟩
def F.GTB_CMPn_STEPPED (j : Nat) : Field := ⟨(Reg.GTB_CMPn j), 4, 1⟩
def F.GTB_CMPnT_LO_T_LO (j : Nat) : Field := ⟨(Reg.GTB_CMPnT_LO j), 0, 32⟩
def F.GTB_CMPnT_HI_T_HI (j : Nat) : Field := ⟨(Reg.GTB_CMPnT_HI j), 0, 32⟩
def F.RFPn_LINK_EN (n : Nat) : Field := ⟨(Reg.RFPn_LINK n), 0, 1⟩
def F.RFPn_LINK_STD (n : Nat) : Field := ⟨(Reg.RFPn_LINK n), 1, 1⟩
def F.RFPn_LINK_LANES (n : Nat) : Field := ⟨(Reg.RFPn_LINK n), 2, 1⟩
def F.RFPn_LINK_TXLANES (n : Nat) : Field := ⟨(Reg.RFPn_LINK n), 3, 1⟩
def F.RFPn_LINK_SCR (n : Nat) : Field := ⟨(Reg.RFPn_LINK n), 4, 1⟩
def F.RFPn_LINK_SWAP (n : Nat) : Field := ⟨(Reg.RFPn_LINK n), 5, 1⟩
def F.RFPn_LINK_POLINV (n : Nat) : Field := ⟨(Reg.RFPn_LINK n), 6, 2⟩
def F.RFPn_LINK_TXEN (n : Nat) : Field := ⟨(Reg.RFPn_LINK n), 8, 1⟩
def F.RFPn_LINK_BAND (n : Nat) : Field := ⟨(Reg.RFPn_LINK n), 9, 2⟩
def F.RFPn_RXFS_FS (n : Nat) : Field := ⟨(Reg.RFPn_RXFS n), 0, 17⟩
def F.RFPn_TXFS_FS (n : Nat) : Field := ⟨(Reg.RFPn_TXFS n), 0, 17⟩
def F.RFPn_RXCTR_KHZ (n : Nat) : Field := ⟨(Reg.RFPn_RXCTR n), 0, 32⟩
def F.RFPn_TXPROFj_KHZ (n k : Nat) : Field := ⟨(Reg.RFPn_TXPROFj n k), 0, 32⟩
def F.RFPn_TIMING_CONVLAT (n : Nat) : Field := ⟨(Reg.RFPn_TIMING n), 0, 12⟩
def F.RFPn_TIMING_TXCONVLAT (n : Nat) : Field := ⟨(Reg.RFPn_TIMING n), 12, 12⟩
def F.RFPn_TIMING_SETTLE (n : Nat) : Field := ⟨(Reg.RFPn_TIMING n), 24, 6⟩
def F.RFPn_SPI_DIV (n : Nat) : Field := ⟨(Reg.RFPn_SPI n), 0, 8⟩
def F.RFPn_TX_TXAMP (n : Nat) : Field := ⟨(Reg.RFPn_TX n), 0, 15⟩
def F.RFPn_TX_MAXTX (n : Nat) : Field := ⟨(Reg.RFPn_TX n), 15, 5⟩
def F.RFPn_GAIN_GAINOFS (n : Nat) : Field := ⟨(Reg.RFPn_GAIN n), 0, 12⟩
def F.RFPn_LSTAT_STATE (n : Nat) : Field := ⟨(Reg.RFPn_LSTAT n), 0, 3⟩
def F.RFPn_LSTAT_LOCK (n : Nat) : Field := ⟨(Reg.RFPn_LSTAT n), 3, 2⟩
def F.RFPn_LSTAT_CLKOK (n : Nat) : Field := ⟨(Reg.RFPn_LSTAT n), 5, 1⟩
def F.RFPn_LAT_RXLAT (n : Nat) : Field := ⟨(Reg.RFPn_LAT n), 0, 16⟩
def F.RFPn_LAT_TXLAT (n : Nat) : Field := ⟨(Reg.RFPn_LAT n), 16, 16⟩
def F.RFPn_HISTLEN_N (n : Nat) : Field := ⟨(Reg.RFPn_HISTLEN n), 0, 23⟩
def F.RFPn_HISTBASE_LO_BASE_LO (n : Nat) : Field := ⟨(Reg.RFPn_HISTBASE_LO n), 0, 32⟩
def F.RFPn_HISTBASE_HI_BASE_HI (n : Nat) : Field := ⟨(Reg.RFPn_HISTBASE_HI n), 0, 32⟩
def F.RFPn_SLk_OFS (n k : Nat) : Field := ⟨(Reg.RFPn_SLk n k), 0, 18⟩
def F.RFPn_SLk_CLASS (n k : Nat) : Field := ⟨(Reg.RFPn_SLk n k), 18, 2⟩
def F.RFPn_SLk_EN (n k : Nat) : Field := ⟨(Reg.RFPn_SLk n k), 20, 1⟩
def F.RFPn_SLk_PHY (n k : Nat) : Field := ⟨(Reg.RFPn_SLk n k), 21, 1⟩
def F.RFPn_SLkNF_NF (n k : Nat) : Field := ⟨(Reg.RFPn_SLkNF n k), 0, 11⟩
def F.RFPn_SLkNF_VALID (n k : Nat) : Field := ⟨(Reg.RFPn_SLkNF n k), 11, 1⟩
def F.RFPn_SLkNF_BLANK (n k : Nat) : Field := ⟨(Reg.RFPn_SLkNF n k), 12, 1⟩
def F.DMX_QRECw_DATA (j : Nat) : Field := ⟨(Reg.DMX_QRECw j), 0, 32⟩
def F.DMX_GgSTAT_FREE (n : Nat) : Field := ⟨(Reg.DMX_GgSTAT n), 0, 6⟩
def F.DMX_GgSTAT_DRAIN (n : Nat) : Field := ⟨(Reg.DMX_GgSTAT n), 6, 1⟩
def F.DMX_GgTHR_THR (n : Nat) : Field := ⟨(Reg.DMX_GgTHR n), 0, 7⟩
def F.DMX_GgHk_SLICE (n k : Nat) : Field := ⟨(Reg.DMX_GgHk n k), 0, 9⟩
def F.DMX_GgHk_EN (n k : Nat) : Field := ⟨(Reg.DMX_GgHk n k), 9, 1⟩
def F.DMX_GgHk_LHMASK (n k : Nat) : Field := ⟨(Reg.DMX_GgHk n k), 10, 6⟩
def F.DMX_GgLk_STATE (n k : Nat) : Field := ⟨(Reg.DMX_GgLk n k), 0, 3⟩
def F.DMX_GgLk_RETRO (n k : Nat) : Field := ⟨(Reg.DMX_GgLk n k), 3, 1⟩
def F.DMX_GgLk_CATCHUP (n k : Nat) : Field := ⟨(Reg.DMX_GgLk n k), 4, 1⟩
def F.DMX_GgLk_SLICE (n k : Nat) : Field := ⟨(Reg.DMX_GgLk n k), 5, 9⟩
def F.SIC_RQRECw_DATA (j : Nat) : Field := ⟨(Reg.SIC_RQRECw j), 0, 32⟩
def F.MSQ_EUI_LO_EUI_LO : Field := ⟨Reg.MSQ_EUI_LO, 0, 32⟩
def F.MSQ_EUI_HI_EUI_HI : Field := ⟨Reg.MSQ_EUI_HI, 0, 32⟩
def F.MSQ_BCN_KEYSLOT : Field := ⟨Reg.MSQ_BCN, 0, 20⟩
def F.MSQ_BCN_EN : Field := ⟨Reg.MSQ_BCN, 20, 1⟩
def F.MSQ_BCN_SEQPER : Field := ⟨Reg.MSQ_BCN, 21, 4⟩
def F.MSQ_BCNPEER_PEERKEY : Field := ⟨Reg.MSQ_BCNPEER, 0, 20⟩
def F.MSQ_BCNPEER_PEEREN : Field := ⟨Reg.MSQ_BCNPEER, 20, 1⟩
def F.MSQ_NBDATAw_DATA (j : Nat) : Field := ⟨(Reg.MSQ_NBDATAw j), 0, 32⟩
def F.MSQ_TPLt_A_TXOFS (j : Nat) : Field := ⟨(Reg.MSQ_TPLt_A j), 0, 14⟩
def F.MSQ_TPLt_A_MAXDUR (j : Nat) : Field := ⟨(Reg.MSQ_TPLt_A j), 14, 13⟩
def F.MSQ_TPLt_A_SPAN (j : Nat) : Field := ⟨(Reg.MSQ_TPLt_A j), 27, 2⟩
def F.MSQ_TPLt_A_CLS (j : Nat) : Field := ⟨(Reg.MSQ_TPLt_A j), 29, 1⟩
def F.MSQ_TPLt_A_CHCLASS (j : Nat) : Field := ⟨(Reg.MSQ_TPLt_A j), 30, 2⟩
def F.MSQ_TPLt_B_LH (j : Nat) : Field := ⟨(Reg.MSQ_TPLt_B j), 0, 3⟩
def F.MSQ_TPLt_B_SL1LH (j : Nat) : Field := ⟨(Reg.MSQ_TPLt_B j), 3, 3⟩
def F.MSQ_TPLt_B_SL1SPAN (j : Nat) : Field := ⟨(Reg.MSQ_TPLt_B j), 6, 2⟩
def F.MSQ_TPLt_B_EN (j : Nat) : Field := ⟨(Reg.MSQ_TPLt_B j), 8, 1⟩
def F.MSQ_TPLt_B_SL1MAXDUR (j : Nat) : Field := ⟨(Reg.MSQ_TPLt_B j), 9, 13⟩
def F.MSQ_HOPcLEN_LEN (j : Nat) : Field := ⟨(Reg.MSQ_HOPcLEN j), 0, 8⟩
def F.MSQ_HOPcLEN_VER (j : Nat) : Field := ⟨(Reg.MSQ_HOPcLEN j), 8, 8⟩
def F.MSQ_HOPcEj_CH (j k : Nat) : Field := ⟨(Reg.MSQ_HOPcEj j k), 0, 32⟩
def F.MSQ_CHMcj_MASK (j k : Nat) : Field := ⟨(Reg.MSQ_CHMcj j k), 0, 32⟩
def F.BGT_SBkF0_KHZ (j : Nat) : Field := ⟨(Reg.BGT_SBkF0 j), 0, 32⟩
def F.BGT_SBkF1_KHZ (j : Nat) : Field := ⟨(Reg.BGT_SBkF1 j), 0, 32⟩
def F.BGT_SBkPOL_MODE (j : Nat) : Field := ⟨(Reg.BGT_SBkPOL j), 0, 2⟩
def F.BGT_SBkPOL_REGIME (j : Nat) : Field := ⟨(Reg.BGT_SBkPOL j), 2, 2⟩
def F.BGT_SBkPOL_RESV (j : Nat) : Field := ⟨(Reg.BGT_SBkPOL j), 4, 1⟩
def F.BGT_SBkPOL_ACKEX (j : Nat) : Field := ⟨(Reg.BGT_SBkPOL j), 5, 1⟩
def F.BGT_SBkPOL_WIN (j : Nat) : Field := ⟨(Reg.BGT_SBkPOL j), 6, 12⟩
def F.BGT_SBkPOL_MINCH (j : Nat) : Field := ⟨(Reg.BGT_SBkPOL j), 18, 8⟩
def F.BGT_SBkALLOW_ALLOW (j : Nat) : Field := ⟨(Reg.BGT_SBkALLOW j), 0, 32⟩
def F.BGT_SBkACKRES_ACKRES (j : Nat) : Field := ⟨(Reg.BGT_SBkACKRES j), 0, 32⟩
def F.BGT_SBkTX_TXMAX (j : Nat) : Field := ⟨(Reg.BGT_SBkTX j), 0, 16⟩
def F.BGT_SBkTX_OFFMIN (j : Nat) : Field := ⟨(Reg.BGT_SBkTX j), 16, 16⟩
def F.BGT_SBkLBT_LISTEN (j : Nat) : Field := ⟨(Reg.BGT_SBkLBT j), 0, 10⟩
def F.BGT_SBkLBT_THRESH (j : Nat) : Field := ⟨(Reg.BGT_SBkLBT j), 10, 10⟩
def F.BGT_SBkLBT_BACKOFF (j : Nat) : Field := ⟨(Reg.BGT_SBkLBT j), 20, 8⟩
def F.BGT_SBkLBT_TRIES (j : Nat) : Field := ⟨(Reg.BGT_SBkLBT j), 28, 2⟩
def F.BGT_SBkUSED_USED (j : Nat) : Field := ⟨(Reg.BGT_SBkUSED j), 0, 32⟩
def F.SLV_SFk_LEN (j : Nat) : Field := ⟨(Reg.SLV_SFk j), 0, 17⟩
def F.SLV_FIXj_SLOTOFS (j : Nat) : Field := ⟨(Reg.SLV_FIXj j), 0, 16⟩
def F.SLV_FIXj_SF (j : Nat) : Field := ⟨(Reg.SLV_FIXj j), 16, 3⟩
def F.SLV_FIXj_CHOFS (j : Nat) : Field := ⟨(Reg.SLV_FIXj j), 19, 6⟩
def F.SLV_FIXj_TPL (j : Nat) : Field := ⟨(Reg.SLV_FIXj j), 25, 4⟩
def F.SLV_FIXj_KIND (j : Nat) : Field := ⟨(Reg.SLV_FIXj j), 29, 2⟩
def F.SLV_DATAw_DATA (j : Nat) : Field := ⟨(Reg.SLV_DATAw j), 0, 32⟩
def F.SLV_RDATAw_RDATA (j : Nat) : Field := ⟨(Reg.SLV_RDATAw j), 0, 32⟩
def F.SLV_RQSTAT_DEPTH : Field := ⟨Reg.SLV_RQSTAT, 0, 11⟩
def F.SLV_RQSTAT_EMPTY : Field := ⟨Reg.SLV_RQSTAT, 11, 1⟩
def F.SLV_SHQSTAT_DEPTH : Field := ⟨Reg.SLV_SHQSTAT, 0, 11⟩
def F.SLV_SHQSTAT_EMPTY : Field := ⟨Reg.SLV_SHQSTAT, 11, 1⟩
def F.SLV_RQPOP_POP : Field := ⟨Reg.SLV_RQPOP, 0, 1⟩
def F.SLV_SHQPOP_POP : Field := ⟨Reg.SLV_SHQPOP, 0, 1⟩
def F.SLV_RQRECw_DATA (j : Nat) : Field := ⟨(Reg.SLV_RQRECw j), 0, 32⟩
def F.SLV_SHQRECw_DATA (j : Nat) : Field := ⟨(Reg.SLV_SHQRECw j), 0, 32⟩
def F.SLV_MRECcj_MASK (j k : Nat) : Field := ⟨(Reg.SLV_MRECcj j k), 0, 32⟩
def F.QMG_TOTAL_CELLS : Field := ⟨Reg.QMG_TOTAL, 0, 26⟩
def F.QMG_FREE_CELLS : Field := ⟨Reg.QMG_FREE, 0, 26⟩
def F.QMG_HELD_LO_HELD_LO : Field := ⟨Reg.QMG_HELD_LO, 0, 32⟩
def F.QMG_HELD_HI_HELD_HI : Field := ⟨Reg.QMG_HELD_HI, 0, 16⟩
def F.QMG_ADMk_MIN (j : Nat) : Field := ⟨(Reg.QMG_ADMk j), 0, 11⟩
def F.QMG_ADMk_MAX (j : Nat) : Field := ⟨(Reg.QMG_ADMk j), 16, 11⟩
def F.QMG_USEDk_CELLS (j : Nat) : Field := ⟨(Reg.QMG_USEDk j), 0, 26⟩
def F.QMG_CLSc_A_LIMIT (n : Nat) : Field := ⟨(Reg.QMG_CLSc_A n), 0, 26⟩
def F.QMG_CLSc_A_FCMAP (n : Nat) : Field := ⟨(Reg.QMG_CLSc_A n), 26, 4⟩
def F.QMG_CLSc_B_HI (j : Nat) : Field := ⟨(Reg.QMG_CLSc_B j), 0, 8⟩
def F.QMG_CLSc_B_LO (j : Nat) : Field := ⟨(Reg.QMG_CLSc_B j), 8, 8⟩
def F.QMG_CLSc_B_AGE (j : Nat) : Field := ⟨(Reg.QMG_CLSc_B j), 16, 16⟩
def F.QMG_QDATAw_DATA (j : Nat) : Field := ⟨(Reg.QMG_QDATAw j), 0, 32⟩
def F.QMG_SWQnIN_CELL (j : Nat) : Field := ⟨(Reg.QMG_SWQnIN j), 0, 26⟩
def F.QMG_SWQnCMD_POP (j : Nat) : Field := ⟨(Reg.QMG_SWQnCMD j), 0, 1⟩
def F.QMG_SWQnOUT_CELL (j : Nat) : Field := ⟨(Reg.QMG_SWQnOUT j), 0, 26⟩
def F.QMG_SWQnOUT_START (j : Nat) : Field := ⟨(Reg.QMG_SWQnOUT j), 26, 1⟩
def F.QMG_SWQnOUT_END (j : Nat) : Field := ⟨(Reg.QMG_SWQnOUT j), 27, 1⟩
def F.QMG_SWQnSTAT_DEPTH (j : Nat) : Field := ⟨(Reg.QMG_SWQnSTAT j), 0, 13⟩
def F.QMG_SWQnSTAT_UNDERRUN (j : Nat) : Field := ⟨(Reg.QMG_SWQnSTAT j), 13, 1⟩
def F.QMG_SWQnSTAT_OVF (j : Nat) : Field := ⟨(Reg.QMG_SWQnSTAT j), 14, 1⟩
def F.QMG_SWQnSTAT_PKTS (j : Nat) : Field := ⟨(Reg.QMG_SWQnSTAT j), 15, 13⟩
def F.QMG_SWQnSTAT_ILV (j : Nat) : Field := ⟨(Reg.QMG_SWQnSTAT j), 28, 1⟩
def F.FWD_HSEED0_SEED : Field := ⟨Reg.FWD_HSEED0, 0, 32⟩
def F.FWD_HSEED1_SEED : Field := ⟨Reg.FWD_HSEED1, 0, 32⟩
def F.FWD_NHOST_COUNT : Field := ⟨Reg.FWD_NHOST, 0, 26⟩
def F.FWD_NPFX_COUNT : Field := ⟨Reg.FWD_NPFX, 0, 21⟩
def F.FWD_NBOOT_COUNT : Field := ⟨Reg.FWD_NBOOT, 0, 15⟩
def F.FWD_PERECw_DATA (j : Nat) : Field := ⟨(Reg.FWD_PERECw j), 0, 32⟩
def F.FWD_POLk_A_RATE (n : Nat) : Field := ⟨(Reg.FWD_POLk_A n), 0, 20⟩
def F.FWD_POLk_B_BURST (n : Nat) : Field := ⟨(Reg.FWD_POLk_B n), 0, 16⟩
def F.FWD_POLk_B_EN (n : Nat) : Field := ⟨(Reg.FWD_POLk_B n), 16, 1⟩
def F.FWD_CMDDATAw_DATA (j : Nat) : Field := ⟨(Reg.FWD_CMDDATAw j), 0, 32⟩
def F.FWD_CMDRESw_DATA (j : Nat) : Field := ⟨(Reg.FWD_CMDRESw j), 0, 32⟩
def F.KVT_KUMSIGNERk_HASH (j : Nat) : Field := ⟨(Reg.KVT_KUMSIGNERk j), 0, 32⟩
def F.KVT_ANCHORk_ANCHOR (j : Nat) : Field := ⟨(Reg.KVT_ANCHORk j), 0, 32⟩
def F.KVT_DEVIDk_ID (j : Nat) : Field := ⟨(Reg.KVT_DEVIDk j), 0, 32⟩
def F.KVT_KUMHW0_HW : Field := ⟨Reg.KVT_KUMHW0, 0, 32⟩
def F.KVT_KUMHW1_HW : Field := ⟨Reg.KVT_KUMHW1, 0, 32⟩
def F.KVT_SEALGEN_GEN : Field := ⟨Reg.KVT_SEALGEN, 0, 32⟩
def F.KVT_EPOCH_BURNED : Field := ⟨Reg.KVT_EPOCH, 0, 13⟩
def F.KVT_NSLOT_ACTIVE : Field := ⟨Reg.KVT_NSLOT, 0, 21⟩
def F.KVT_ITKPUBk_XY (j : Nat) : Field := ⟨(Reg.KVT_ITKPUBk j), 0, 32⟩
def F.KVT_IDPUBk_XY (j : Nat) : Field := ⟨(Reg.KVT_IDPUBk j), 0, 32⟩
def F.KVT_NONCEk_NONCE (j : Nat) : Field := ⟨(Reg.KVT_NONCEk j), 0, 32⟩
def F.KVT_RESk_DATA (j : Nat) : Field := ⟨(Reg.KVT_RESk j), 0, 32⟩
def F.CHIP_XWADDR_LO_ADDR_LO : Field := ⟨Reg.CHIP_XWADDR_LO, 0, 32⟩
def F.CHIP_XWADDR_HI_ADDR_HI : Field := ⟨Reg.CHIP_XWADDR_HI, 0, 32⟩
def F.UPD_ARG_CELL : Field := ⟨Reg.UPD_ARG, 0, 26⟩
def F.UPD_OFS_OFS : Field := ⟨Reg.UPD_OFS, 0, 24⟩
def F.UPD_RUNGEN_GEN : Field := ⟨Reg.UPD_RUNGEN, 0, 32⟩
def F.UPD_STGGEN_GEN : Field := ⟨Reg.UPD_STGGEN, 0, 32⟩
def F.UPD_OTHGEN_GEN : Field := ⟨Reg.UPD_OTHGEN, 0, 32⟩
def F.UPD_PEERGENk_GEN (j : Nat) : Field := ⟨(Reg.UPD_PEERGENk j), 0, 32⟩
def F.PRC_QCFGq_PROC (n : Nat) : Field := ⟨(Reg.PRC_QCFGq n), 0, 2⟩
def F.PRC_QCFGq_SHARE (n : Nat) : Field := ⟨(Reg.PRC_QCFGq n), 2, 1⟩
def F.PRC_QCFGq_WORK (n : Nat) : Field := ⟨(Reg.PRC_QCFGq n), 3, 4⟩
def F.PRC_CTXc_w_PFX (j k : Nat) : Field := ⟨(Reg.PRC_CTXc_w j k), 0, 32⟩
def F.PRC_CTXcLEN_LEN (j : Nat) : Field := ⟨(Reg.PRC_CTXcLEN j), 0, 8⟩
def F.PRC_CTXcLEN_VALID (j : Nat) : Field := ⟨(Reg.PRC_CTXcLEN j), 8, 1⟩
def F.PRC_CTXcLEN_COMPRESS (j : Nat) : Field := ⟨(Reg.PRC_CTXcLEN j), 9, 1⟩
def F.PRC_RPLIDk_ID (j : Nat) : Field := ⟨(Reg.PRC_RPLIDk j), 0, 32⟩
def F.PRC_RPLCFG_INSTANCE : Field := ⟨Reg.PRC_RPLCFG, 0, 8⟩
def F.PRC_RPLCFG_OCP : Field := ⟨Reg.PRC_RPLCFG, 8, 2⟩
def F.PRC_RPLCFG_IMIN : Field := ⟨Reg.PRC_RPLCFG, 10, 5⟩
def F.PRC_RPLCFG_DOUBL : Field := ⟨Reg.PRC_RPLCFG, 15, 4⟩
def F.PRC_RPLVER_VERSION : Field := ⟨Reg.PRC_RPLVER, 0, 8⟩
def F.PRC_RPLCMD_REPAIR : Field := ⟨Reg.PRC_RPLCMD, 0, 1⟩
def F.CSC_EPOCH_EPOCH : Field := ⟨Reg.CSC_EPOCH, 0, 32⟩
def F.CSC_REACH_REACH : Field := ⟨Reg.CSC_REACH, 0, 32⟩
def F.CSC_RTa_PRI (j : Nat) : Field := ⟨(Reg.CSC_RTa j), 0, 2⟩
def F.CSC_RTa_PRIV (j : Nat) : Field := ⟨(Reg.CSC_RTa j), 2, 1⟩
def F.CSC_RTa_BAK (j : Nat) : Field := ⟨(Reg.CSC_RTa j), 3, 2⟩
def F.CSC_RTa_BAKV (j : Nat) : Field := ⟨(Reg.CSC_RTa j), 5, 1⟩
def F.CSC_RTa_HOPS (j : Nat) : Field := ⟨(Reg.CSC_RTa j), 6, 4⟩
def F.CSC_PnCFG_EN (j : Nat) : Field := ⟨(Reg.CSC_PnCFG j), 0, 1⟩
def F.CSC_PnCFG_SEC (j : Nat) : Field := ⟨(Reg.CSC_PnCFG j), 1, 1⟩
def F.CSC_PnCFG_KEYSLOT (j : Nat) : Field := ⟨(Reg.CSC_PnCFG j), 2, 20⟩
def F.CSC_PnCFG_LOOP (j : Nat) : Field := ⟨(Reg.CSC_PnCFG j), 22, 1⟩
def F.CSC_PnSTAT_STATE (j : Nat) : Field := ⟨(Reg.CSC_PnSTAT j), 0, 3⟩
def F.CSC_PnSTAT_PEER (j : Nat) : Field := ⟨(Reg.CSC_PnSTAT j), 3, 5⟩
def F.CSC_PnSTAT_PEERPORT (j : Nat) : Field := ⟨(Reg.CSC_PnSTAT j), 8, 2⟩
def F.CSC_PnSTAT_RTT (j : Nat) : Field := ⟨(Reg.CSC_PnSTAT j), 10, 16⟩
def F.CSC_PnCRED_MAX (j : Nat) : Field := ⟨(Reg.CSC_PnCRED j), 0, 26⟩
def F.CSC_PnCREDOUT_OUT (j : Nat) : Field := ⟨(Reg.CSC_PnCREDOUT j), 0, 26⟩
def F.CSC_PnCREDAV_AVAIL (j : Nat) : Field := ⟨(Reg.CSC_PnCREDAV j), 0, 26⟩
def F.CHIP_TSL1_US : Field := ⟨Reg.CHIP_TSL1, 0, 32⟩
def F.CHIP_TSL2_US : Field := ⟨Reg.CHIP_TSL2, 0, 32⟩
def F.MEM_ECCADDR_LO_ADDR_LO : Field := ⟨Reg.MEM_ECCADDR_LO, 0, 32⟩
def F.MEM_ECCADDR_HI_ADDR_HI : Field := ⟨Reg.MEM_ECCADDR_HI, 0, 32⟩
def F.MEM_RGk_BASE_LO_BASE (j : Nat) : Field := ⟨(Reg.MEM_RGk_BASE_LO j), 0, 32⟩
def F.MEM_RGk_BASE_HI_BASE (j : Nat) : Field := ⟨(Reg.MEM_RGk_BASE_HI j), 0, 32⟩
def F.MEM_RGk_SIZE_MIB (j : Nat) : Field := ⟨(Reg.MEM_RGk_SIZE j), 0, 16⟩
def F.PWR_DOMSTAT0_STATE : Field := ⟨Reg.PWR_DOMSTAT0, 0, 32⟩
def F.PWR_DOMSTAT1_STATE : Field := ⟨Reg.PWR_DOMSTAT1, 0, 10⟩
def F.PWR_DOMREQ0_REQ : Field := ⟨Reg.PWR_DOMREQ0, 0, 32⟩
def F.PWR_DOMREQ1_REQ : Field := ⟨Reg.PWR_DOMREQ1, 0, 10⟩
def F.SUP_LOGRECw_DATA (j : Nat) : Field := ⟨(Reg.SUP_LOGRECw j), 0, 32⟩
def F.LGC_PpSTAT_RXHELD (j : Nat) : Field := ⟨(Reg.LGC_PpSTAT j), 0, 5⟩
def F.LGC_PpSTAT_TXQ (j : Nat) : Field := ⟨(Reg.LGC_PpSTAT j), 5, 5⟩
def F.LGC_PpASN_ASN (j : Nat) : Field := ⟨(Reg.LGC_PpASN j), 0, 32⟩
def F.LGC_PpBND_FT (j : Nat) : Field := ⟨(Reg.LGC_PpBND j), 0, 32⟩
def F.LGC_PpEMUa_VAL (j k : Nat) : Field := ⟨(Reg.LGC_PpEMUa j k), 0, 8⟩
def F.TST_SIG_SIG : Field := ⟨Reg.TST_SIG, 0, 32⟩
def F.TST_EXP_EXP : Field := ⟨Reg.TST_EXP, 0, 32⟩
def F.TST_IDCODE_ID : Field := ⟨Reg.TST_IDCODE, 0, 32⟩
def F.HIF_PCIID_DEVID : Field := ⟨Reg.HIF_PCIID, 0, 16⟩
def F.HIF_PCIID_SUBSYS : Field := ⟨Reg.HIF_PCIID, 16, 16⟩
def F.HIF_PCICLS_CLASS : Field := ⟨Reg.HIF_PCICLS, 0, 24⟩
def F.HIF_PnCFG_MODE (j : Nat) : Field := ⟨(Reg.HIF_PnCFG j), 0, 2⟩
def F.HIF_PnCFG_RSFEC (j : Nat) : Field := ⟨(Reg.HIF_PnCFG j), 2, 1⟩
def F.HIF_PnCFG_VTAG (j : Nat) : Field := ⟨(Reg.HIF_PnCFG j), 3, 1⟩
def F.HIF_PnCFG_MCAST (j : Nat) : Field := ⟨(Reg.HIF_PnCFG j), 4, 1⟩
def F.HIF_PnCFG_MSREQ (j : Nat) : Field := ⟨(Reg.HIF_PnCFG j), 5, 1⟩
def F.HIF_PnCFG_GCM256 (j : Nat) : Field := ⟨(Reg.HIF_PnCFG j), 6, 1⟩
def F.HIF_PnCFG_RPWIN (j : Nat) : Field := ⟨(Reg.HIF_PnCFG j), 7, 16⟩
def F.HIF_PnMAC_LO_MAC_LO (j : Nat) : Field := ⟨(Reg.HIF_PnMAC_LO j), 0, 32⟩
def F.HIF_PnMAC_HI_MAC_HI (j : Nat) : Field := ⟨(Reg.HIF_PnMAC_HI j), 0, 16⟩
def F.HIF_PnVID_VID (j : Nat) : Field := ⟨(Reg.HIF_PnVID j), 0, 12⟩
def F.HIF_PnTXAN_TXAN (j : Nat) : Field := ⟨(Reg.HIF_PnTXAN j), 0, 2⟩
def F.HIF_PnLSTAT_LOCK (j : Nat) : Field := ⟨(Reg.HIF_PnLSTAT j), 0, 1⟩
def F.HIF_PnSAa_KEYSLOT (j k : Nat) : Field := ⟨(Reg.HIF_PnSAa j k), 0, 20⟩
def F.HIF_PnSAa_EN (j k : Nat) : Field := ⟨(Reg.HIF_PnSAa j k), 20, 1⟩
def F.HIF_NHk_A_MAC_LO (j : Nat) : Field := ⟨(Reg.HIF_NHk_A j), 0, 32⟩
def F.HIF_NHk_B_MAC_HI (j : Nat) : Field := ⟨(Reg.HIF_NHk_B j), 0, 16⟩
def F.HIF_NHk_B_VID (j : Nat) : Field := ⟨(Reg.HIF_NHk_B j), 16, 12⟩
def F.HIF_NHk_B_TAG (j : Nat) : Field := ⟨(Reg.HIF_NHk_B j), 28, 1⟩
def F.HIF_NHk_B_VALID (j : Nat) : Field := ⟨(Reg.HIF_NHk_B j), 29, 1⟩
def F.HIF_PTPSEC_LO_SEC_LO : Field := ⟨Reg.HIF_PTPSEC_LO, 0, 32⟩
def F.HIF_PTPSEC_HI_SEC_HI : Field := ⟨Reg.HIF_PTPSEC_HI, 0, 16⟩
def F.HIF_PTPNS_NS : Field := ⟨Reg.HIF_PTPNS, 0, 30⟩
def F.HIF_PTPADJ_ADJ : Field := ⟨Reg.HIF_PTPADJ, 0, 32⟩
def F.HIF_PTPSTEP_STEP : Field := ⟨Reg.HIF_PTPSTEP, 0, 32⟩
def F.HIF_TSFIFO_ENTRY : Field := ⟨Reg.HIF_TSFIFO, 0, 32⟩
def F.HIF_TSPOP_POP : Field := ⟨Reg.HIF_TSPOP, 0, 1⟩
def F.HIF_RXRINGr_BASE_LO_BASE (j : Nat) : Field := ⟨(Reg.HIF_RXRINGr_BASE_LO j), 0, 32⟩
def F.HIF_RXRINGr_BASE_HI_BASE (j : Nat) : Field := ⟨(Reg.HIF_RXRINGr_BASE_HI j), 0, 32⟩
def F.HIF_RXRINGr_LEN_LOG2 (j : Nat) : Field := ⟨(Reg.HIF_RXRINGr_LEN j), 0, 5⟩
def F.HIF_RXRINGr_HEAD_HEAD (j : Nat) : Field := ⟨(Reg.HIF_RXRINGr_HEAD j), 0, 16⟩
def F.HIF_RXRINGr_TAIL_TAIL (j : Nat) : Field := ⟨(Reg.HIF_RXRINGr_TAIL j), 0, 16⟩
def F.HIF_TXRINGr_BASE_LO_BASE (j : Nat) : Field := ⟨(Reg.HIF_TXRINGr_BASE_LO j), 0, 32⟩
def F.HIF_TXRINGr_BASE_HI_BASE (j : Nat) : Field := ⟨(Reg.HIF_TXRINGr_BASE_HI j), 0, 32⟩
def F.HIF_TXRINGr_LEN_LOG2 (j : Nat) : Field := ⟨(Reg.HIF_TXRINGr_LEN j), 0, 5⟩
def F.HIF_TXRINGr_HEAD_HEAD (j : Nat) : Field := ⟨(Reg.HIF_TXRINGr_HEAD j), 0, 16⟩
def F.HIF_TXRINGr_TAIL_TAIL (j : Nat) : Field := ⟨(Reg.HIF_TXRINGr_TAIL j), 0, 16⟩
def F.HIF_XCMD_OP : Field := ⟨Reg.HIF_XCMD, 0, 2⟩
def F.HIF_XADDR_ADDR : Field := ⟨Reg.HIF_XADDR, 0, 32⟩
def F.HIF_XSTAT_BUSY : Field := ⟨Reg.HIF_XSTAT, 0, 1⟩
def F.HIF_XSTAT_OUTCOME : Field := ⟨Reg.HIF_XSTAT, 1, 2⟩
def F.HIF_XDATAw_DATA (j : Nat) : Field := ⟨(Reg.HIF_XDATAw j), 0, 32⟩
def F.HIF_SMBCFG_PECREQ : Field := ⟨Reg.HIF_SMBCFG, 0, 1⟩
def F.HIF_GPIOOE_OE : Field := ⟨Reg.HIF_GPIOOE, 0, 32⟩
def F.HIF_GPIOOUT_OUT : Field := ⟨Reg.HIF_GPIOOUT, 0, 32⟩
def F.HIF_GPIOIN_IN : Field := ⟨Reg.HIF_GPIOIN, 0, 32⟩
def F.HIF_GPIOIEN_IEN : Field := ⟨Reg.HIF_GPIOIEN, 0, 32⟩
def F.HIF_PLSMAP0_BALL0 : Field := ⟨Reg.HIF_PLSMAP0, 0, 5⟩
def F.HIF_PLSMAP0_EN0 : Field := ⟨Reg.HIF_PLSMAP0, 5, 1⟩
def F.HIF_PLSMAP0_BALL1 : Field := ⟨Reg.HIF_PLSMAP0, 8, 5⟩
def F.HIF_PLSMAP0_EN1 : Field := ⟨Reg.HIF_PLSMAP0, 13, 1⟩
def F.HIF_PLSMAP0_BALL2 : Field := ⟨Reg.HIF_PLSMAP0, 16, 5⟩
def F.HIF_PLSMAP0_EN2 : Field := ⟨Reg.HIF_PLSMAP0, 21, 1⟩
def F.HIF_PLSMAP0_BALL3 : Field := ⟨Reg.HIF_PLSMAP0, 24, 5⟩
def F.HIF_PLSMAP0_EN3 : Field := ⟨Reg.HIF_PLSMAP0, 29, 1⟩
def F.HIF_PLSMAP1_BALL0 : Field := ⟨Reg.HIF_PLSMAP1, 0, 5⟩
def F.HIF_PLSMAP1_EN0 : Field := ⟨Reg.HIF_PLSMAP1, 5, 1⟩
def F.HIF_PLSMAP1_BALL1 : Field := ⟨Reg.HIF_PLSMAP1, 8, 5⟩
def F.HIF_PLSMAP1_EN1 : Field := ⟨Reg.HIF_PLSMAP1, 13, 1⟩
def F.HIF_PLSMAP1_BALL2 : Field := ⟨Reg.HIF_PLSMAP1, 16, 5⟩
def F.HIF_PLSMAP1_EN2 : Field := ⟨Reg.HIF_PLSMAP1, 21, 1⟩
def F.HIF_PLSMAP1_BALL3 : Field := ⟨Reg.HIF_PLSMAP1, 24, 5⟩
def F.HIF_PLSMAP1_EN3 : Field := ⟨Reg.HIF_PLSMAP1, 29, 1⟩
def F.CHIP_TEMP_TEMP : Field := ⟨Reg.CHIP_TEMP, 0, 8⟩
def F.CHIP_TEMP_MAX : Field := ⟨Reg.CHIP_TEMP, 8, 8⟩
def F.CHIP_TEMP_VALID : Field := ⟨Reg.CHIP_TEMP, 16, 1⟩
def F.CFG_STATUS_STATE : Field := ⟨Reg.CFG_STATUS, 0, 3⟩
def F.CFG_STATUS_LOADED_COPY : Field := ⟨Reg.CFG_STATUS, 3, 1⟩
def F.CFG_STATUS_COPY0_OK : Field := ⟨Reg.CFG_STATUS, 4, 1⟩
def F.CFG_STATUS_COPY1_OK : Field := ⟨Reg.CFG_STATUS, 5, 1⟩
def F.CFG_STATUS_BUSY : Field := ⟨Reg.CFG_STATUS, 6, 1⟩
def F.CFG_GEN_GEN : Field := ⟨Reg.CFG_GEN, 0, 32⟩
def F.CFG_SEALGEN_SEALGEN : Field := ⟨Reg.CFG_SEALGEN, 0, 32⟩
def F.CFG_CMD_RELOAD : Field := ⟨Reg.CFG_CMD, 0, 1⟩
def F.CFG_CMD_CHECK : Field := ⟨Reg.CFG_CMD, 1, 1⟩
def F.CFG_CMD_CHECK_COPY : Field := ⟨Reg.CFG_CMD, 2, 1⟩
def F.CFG_LOADTIME_US : Field := ⟨Reg.CFG_LOADTIME, 0, 32⟩
def F.CHIP_SNAP_GO : Field := ⟨Reg.CHIP_SNAP, 0, 1⟩
def F.CHIP_SNAPSEQ_SEQ : Field := ⟨Reg.CHIP_SNAPSEQ, 0, 32⟩
def F.CHIP_SNAPMASK_NOTCAP : Field := ⟨Reg.CHIP_SNAPMASK, 0, 21⟩
def F.EVT_ACCFLT_VALID : Field := ⟨Reg.EVT_ACCFLT, 0, 1⟩
def F.EVT_ACCFLT_OVF : Field := ⟨Reg.EVT_ACCFLT, 1, 1⟩
def F.EVT_ACCFLT_CAUSE : Field := ⟨Reg.EVT_ACCFLT, 2, 3⟩
def F.EVT_ACCFLT_WRITE : Field := ⟨Reg.EVT_ACCFLT, 5, 1⟩
def F.EVT_ACCFLT_UNIT : Field := ⟨Reg.EVT_ACCFLT, 6, 5⟩
def F.EVT_ACCFLT_OFFSET : Field := ⟨Reg.EVT_ACCFLT, 12, 18⟩
def F.EVT_ACCFLT_SEQ : Field := ⟨Reg.EVT_ACCFLT, 30, 2⟩
def F.EVT_ACCINFO_SEQ : Field := ⟨Reg.EVT_ACCINFO, 0, 2⟩
def F.EVT_ACCINFO_INIT : Field := ⟨Reg.EVT_ACCINFO, 2, 3⟩
def F.EVT_ACCINFO_DOMAIN : Field := ⟨Reg.EVT_ACCINFO, 5, 5⟩
def F.EVT_ACCINFO_BYTEEN : Field := ⟨Reg.EVT_ACCINFO, 10, 4⟩
def F.EVT_PINMAP_PIN : Field := ⟨Reg.EVT_PINMAP, 0, 32⟩
def F.EVT_VSTAT_ACTIVE : Field := ⟨Reg.EVT_VSTAT, 0, 16⟩
def F.EVT_REARM_REARM : Field := ⟨Reg.EVT_REARM, 0, 16⟩
def F.EVT_PINEN_EN : Field := ⟨Reg.EVT_PINEN, 0, 16⟩
def F.GTB_STATUS_STATE : Field := ⟨Reg.GTB_STATUS, 0, 3⟩
def F.GTB_STATUS_VALID : Field := ⟨Reg.GTB_STATUS, 3, 1⟩
def F.GTB_STATUS_QUALIFYING : Field := ⟨Reg.GTB_STATUS, 4, 1⟩
def F.GTB_STATUS_AUTH : Field := ⟨Reg.GTB_STATUS, 5, 1⟩
def F.GTB_GSN_GSN : Field := ⟨Reg.GTB_GSN, 0, 32⟩
def F.GTB_CFG_SRC : Field := ⟨Reg.GTB_CFG, 0, 2⟩
def F.GTB_CFG_NOMF : Field := ⟨Reg.GTB_CFG, 2, 1⟩
def F.GTB_CFG_SPC : Field := ⟨Reg.GTB_CFG, 3, 3⟩
def F.GTB_CFG_LINE : Field := ⟨Reg.GTB_CFG, 6, 2⟩
def F.GTB_CFG_VG : Field := ⟨Reg.GTB_CFG, 8, 4⟩
def F.GTB_CFG_ZCPOL : Field := ⟨Reg.GTB_CFG, 12, 1⟩
def F.GTB_CFG_RANK : Field := ⟨Reg.GTB_CFG, 13, 8⟩
def F.GTB_SENSEDLY_NS : Field := ⟨Reg.GTB_SENSEDLY, 0, 20⟩
def F.GTB_PHRES_RES : Field := ⟨Reg.GTB_PHRES, 0, 24⟩
def F.GTB_PHRES_LEARN : Field := ⟨Reg.GTB_PHRES, 24, 1⟩
def F.GTB_SLEW_PPM : Field := ⟨Reg.GTB_SLEW, 0, 6⟩
def F.GTB_QUAL_FREQ : Field := ⟨Reg.GTB_QUAL, 0, 17⟩
def F.GTB_QUAL_THD : Field := ⟨Reg.GTB_QUAL, 17, 10⟩
def F.GTB_QUAL_DIST : Field := ⟨Reg.GTB_QUAL, 27, 1⟩
def F.GTB_QUAL_AMP : Field := ⟨Reg.GTB_QUAL, 28, 4⟩
def F.GTB_PHERR_E : Field := ⟨Reg.GTB_PHERR, 0, 32⟩
def F.GTB_HOLDREC_RECVALID : Field := ⟨Reg.GTB_HOLDREC, 0, 1⟩
def F.GTB_HOLDREC_HOLDS : Field := ⟨Reg.GTB_HOLDREC, 1, 31⟩
def F.GTB_UTCCFG_SRC : Field := ⟨Reg.GTB_UTCCFG, 0, 2⟩
def F.GTB_UTCCFG_PPSPOL : Field := ⟨Reg.GTB_UTCCFG, 2, 1⟩
def F.GTB_UTCCFG_LOAD : Field := ⟨Reg.GTB_UTCCFG, 3, 1⟩
def F.GTB_UTCCFG_UTCOFS : Field := ⟨Reg.GTB_UTCCFG, 4, 8⟩
def F.GTB_UTCSTAT_VALID : Field := ⟨Reg.GTB_UTCSTAT, 0, 1⟩
def F.GTB_UTCSTAT_STALE : Field := ⟨Reg.GTB_UTCSTAT, 1, 1⟩
def F.GTB_UTCSTAT_SEQ : Field := ⟨Reg.GTB_UTCSTAT, 2, 8⟩
def F.GTB_FT_US : Field := ⟨Reg.GTB_FT, 0, 32⟩
def F.GTB_LEGSTAMP_VALID : Field := ⟨Reg.GTB_LEGSTAMP, 0, 1⟩
def F.GTB_LEGSTAMP_OVF : Field := ⟨Reg.GTB_LEGSTAMP, 1, 1⟩
def F.GTB_LEGSTAMP_PORT : Field := ⟨Reg.GTB_LEGSTAMP, 2, 2⟩
def F.GTB_LEGSTAMP_FT : Field := ⟨Reg.GTB_LEGSTAMP, 4, 28⟩
def F.RFP_STATUS_BUSY : Field := ⟨Reg.RFP_STATUS, 0, 1⟩
def F.RFP_STATUS_LINKUP : Field := ⟨Reg.RFP_STATUS, 8, 4⟩
def F.RFP_STATUS_TXACT : Field := ⟨Reg.RFP_STATUS, 12, 4⟩
def F.RFP_PAIR_PAIR01 : Field := ⟨Reg.RFP_PAIR, 0, 1⟩
def F.RFP_PAIR_PAIR23 : Field := ⟨Reg.RFP_PAIR, 1, 1⟩
def F.RFP_PXCMD_ADDR : Field := ⟨Reg.RFP_PXCMD, 0, 16⟩
def F.RFP_PXCMD_DATA : Field := ⟨Reg.RFP_PXCMD, 16, 8⟩
def F.RFP_PXCMD_RD : Field := ⟨Reg.RFP_PXCMD, 24, 1⟩
def F.RFP_PXCMD_PORT : Field := ⟨Reg.RFP_PXCMD, 25, 2⟩
def F.RFP_PXRD_DATA : Field := ⟨Reg.RFP_PXRD, 0, 8⟩
def F.RFP_PXRD_VALID : Field := ⟨Reg.RFP_PXRD, 8, 1⟩
def F.RFP_PXRD_ERR : Field := ⟨Reg.RFP_PXRD, 9, 1⟩
def F.CDC_STATUS_TXBUSY : Field := ⟨Reg.CDC_STATUS, 0, 1⟩
def F.CDC_STATUS_RXBUSY : Field := ⟨Reg.CDC_STATUS, 1, 1⟩
def F.CDC_THR_HDRTHR : Field := ⟨Reg.CDC_THR, 0, 16⟩
def F.CDC_THR_RSTHR : Field := ⟨Reg.CDC_THR, 16, 16⟩
def F.DMX_STATUS_FREELANES : Field := ⟨Reg.DMX_STATUS, 0, 9⟩
def F.DMX_STATUS_RETROQ : Field := ⟨Reg.DMX_STATUS, 9, 7⟩
def F.DMX_STATUS_GRPON : Field := ⟨Reg.DMX_STATUS, 16, 8⟩
def F.DMX_STATUS_HISTOK : Field := ⟨Reg.DMX_STATUS, 24, 1⟩
def F.DMX_CFG_BORROW : Field := ⟨Reg.DMX_CFG, 0, 8⟩
def F.DMX_CFG_RETRO : Field := ⟨Reg.DMX_CFG, 8, 1⟩
def F.DMX_CFG_STATPER : Field := ⟨Reg.DMX_CFG, 9, 6⟩
def F.DMX_THR_OVLRISE : Field := ⟨Reg.DMX_THR, 0, 6⟩
def F.DMX_THR_OVLRATIO : Field := ⟨Reg.DMX_THR, 6, 6⟩
def F.DMX_THR_FADESYM : Field := ⟨Reg.DMX_THR, 12, 8⟩
def F.DMX_THR_FADETHR : Field := ⟨Reg.DMX_THR, 20, 6⟩
def F.DMX_THR_FATHR : Field := ⟨Reg.DMX_THR, 26, 6⟩
def F.DMX_QCFG_MIRROR : Field := ⟨Reg.DMX_QCFG, 0, 2⟩
def F.DMX_QSTAT_DEPTH : Field := ⟨Reg.DMX_QSTAT, 0, 10⟩
def F.DMX_QSTAT_EMPTY : Field := ⟨Reg.DMX_QSTAT, 10, 1⟩
def F.DMX_QPOP_POP : Field := ⟨Reg.DMX_QPOP, 0, 1⟩
def F.SIC_STATUS_ENGBUSY : Field := ⟨Reg.SIC_STATUS, 0, 4⟩
def F.SIC_STATUS_QDEPTH : Field := ⟨Reg.SIC_STATUS, 4, 7⟩
def F.SIC_STATUS_ACCEPT : Field := ⟨Reg.SIC_STATUS, 11, 1⟩
def F.SIC_STATUS_RDHOLD : Field := ⟨Reg.SIC_STATUS, 12, 1⟩
def F.SIC_CFG_MAXWIN : Field := ⟨Reg.SIC_CFG, 0, 6⟩
def F.SIC_CFG_THREE : Field := ⟨Reg.SIC_CFG, 6, 1⟩
def F.SIC_CFG_HIDDEN : Field := ⟨Reg.SIC_CFG, 7, 1⟩
def F.SIC_RCFG_RECORD : Field := ⟨Reg.SIC_RCFG, 0, 1⟩
def F.SIC_RQSTAT_DEPTH : Field := ⟨Reg.SIC_RQSTAT, 0, 9⟩
def F.SIC_RQSTAT_EMPTY : Field := ⟨Reg.SIC_RQSTAT, 9, 1⟩
def F.SIC_RQPOP_POP : Field := ⟨Reg.SIC_RQPOP, 0, 1⟩
def F.MSQ_STATUS_NBACT : Field := ⟨Reg.MSQ_STATUS, 0, 17⟩
def F.MSQ_STATUS_GTOK : Field := ⟨Reg.MSQ_STATUS, 17, 1⟩
def F.MSQ_STATUS_ANN : Field := ⟨Reg.MSQ_STATUS, 18, 1⟩
def F.MSQ_STATUS_SEARCHOK : Field := ⟨Reg.MSQ_STATUS, 19, 1⟩
def F.MSQ_CFG_PANTAG : Field := ⟨Reg.MSQ_CFG, 0, 6⟩
def F.MSQ_CFG_SEARCH : Field := ⟨Reg.MSQ_CFG, 6, 1⟩
def F.MSQ_GUARD_GDEF : Field := ⟨Reg.MSQ_GUARD, 0, 10⟩
def F.MSQ_GUARD_GMIN : Field := ⟨Reg.MSQ_GUARD, 10, 10⟩
def F.MSQ_GUARD_JIT : Field := ⟨Reg.MSQ_GUARD, 20, 8⟩
def F.MSQ_TXCFG_MAXRETRY : Field := ⟨Reg.MSQ_TXCFG, 0, 4⟩
def F.MSQ_THR_MICTHR : Field := ⟨Reg.MSQ_THR, 0, 16⟩
def F.MSQ_THR_STALETHR : Field := ⟨Reg.MSQ_THR, 16, 16⟩
def F.MSQ_SFSTAT_LONGEST : Field := ⟨Reg.MSQ_SFSTAT, 0, 17⟩
def F.MSQ_NBCMD_SLOT : Field := ⟨Reg.MSQ_NBCMD, 0, 16⟩
def F.MSQ_NBCMD_OP : Field := ⟨Reg.MSQ_NBCMD, 16, 2⟩
def F.MSQ_NBSTAT_BUSY : Field := ⟨Reg.MSQ_NBSTAT, 0, 1⟩
def F.MSQ_NBSTAT_ERR : Field := ⟨Reg.MSQ_NBSTAT, 1, 2⟩
def F.BGT_STATUS_EXH : Field := ⟨Reg.BGT_STATUS, 0, 16⟩
def F.BGT_STATUS_COLD : Field := ⟨Reg.BGT_STATUS, 16, 1⟩
def F.BGT_CFG_COLDFILL : Field := ⟨Reg.BGT_CFG, 0, 1⟩
def F.BGT_THR_USETHR : Field := ⟨Reg.BGT_THR, 0, 7⟩
def F.BGT_THR_CCATHR : Field := ⟨Reg.BGT_THR, 7, 16⟩
def F.SLV_STATUS_FULLBUSY : Field := ⟨Reg.SLV_STATUS, 0, 1⟩
def F.SLV_STATUS_INCBUSY : Field := ⟨Reg.SLV_STATUS, 1, 1⟩
def F.SLV_STATUS_CMDQ : Field := ⟨Reg.SLV_STATUS, 2, 5⟩
def F.SLV_STATUS_MASTER : Field := ⟨Reg.SLV_STATUS, 7, 1⟩
def F.SLV_STATUS_HELD : Field := ⟨Reg.SLV_STATUS, 8, 1⟩
def F.SLV_CFG_EN : Field := ⟨Reg.SLV_CFG, 0, 1⟩
def F.SLV_CFG_PERIOD : Field := ⟨Reg.SLV_CFG, 1, 8⟩
def F.SLV_CFG_AUTOSOLVE : Field := ⟨Reg.SLV_CFG, 9, 1⟩
def F.SLV_POL0_SNRREQ : Field := ⟨Reg.SLV_POL0, 0, 8⟩
def F.SLV_POL0_SNRMARG : Field := ⟨Reg.SLV_POL0, 8, 8⟩
def F.SLV_POL0_PDRMIN : Field := ⟨Reg.SLV_POL0, 16, 8⟩
def F.SLV_POL0_WARM : Field := ⟨Reg.SLV_POL0, 24, 8⟩
def F.SLV_POL1_REUSEDB : Field := ⟨Reg.SLV_POL1, 0, 8⟩
def F.SLV_POL1_SICDB : Field := ⟨Reg.SLV_POL1, 8, 8⟩
def F.SLV_POL1_SICMAX : Field := ⟨Reg.SLV_POL1, 16, 4⟩
def F.SLV_POL1_BUDPCT : Field := ⟨Reg.SLV_POL1, 20, 7⟩
def F.SLV_POL2_CHURN : Field := ⟨Reg.SLV_POL2, 0, 7⟩
def F.SLV_POL2_MAXRXSLOT : Field := ⟨Reg.SLV_POL2, 7, 8⟩
def F.SLV_POL2_ANNTRY : Field := ⟨Reg.SLV_POL2, 15, 4⟩
def F.SLV_POL2_LINKAGE : Field := ⟨Reg.SLV_POL2, 19, 8⟩
def F.SLV_CMD_OP : Field := ⟨Reg.SLV_CMD, 0, 4⟩
def F.SLV_CMD_NODE : Field := ⟨Reg.SLV_CMD, 4, 18⟩
def F.SLV_CMD_TAG : Field := ⟨Reg.SLV_CMD, 22, 8⟩
def F.SLV_CMDSTAT_QFULL : Field := ⟨Reg.SLV_CMDSTAT, 0, 1⟩
def F.QMG_STATUS_DRAMPOOL : Field := ⟨Reg.QMG_STATUS, 0, 1⟩
def F.QMG_STATUS_AUDITBRK : Field := ⟨Reg.QMG_STATUS, 1, 1⟩
def F.QMG_STATUS_FCTL : Field := ⟨Reg.QMG_STATUS, 2, 4⟩
def F.QMG_THR_REFTHR : Field := ⟨Reg.QMG_THR, 0, 16⟩
def F.QMG_THR_DROPTHR : Field := ⟨Reg.QMG_THR, 16, 16⟩
def F.QMG_POOLWM_LOW : Field := ⟨Reg.QMG_POOLWM, 0, 11⟩
def F.QMG_POOLWM_HIGH : Field := ⟨Reg.QMG_POOLWM, 16, 11⟩
def F.QMG_POOLWM_PIN : Field := ⟨Reg.QMG_POOLWM, 28, 2⟩
def F.QMG_POOLWM_EN : Field := ⟨Reg.QMG_POOLWM, 30, 1⟩
def F.QMG_QCMD_Q : Field := ⟨Reg.QMG_QCMD, 0, 17⟩
def F.QMG_QCMD_OP : Field := ⟨Reg.QMG_QCMD, 17, 3⟩
def F.QMG_QSTAT_BUSY : Field := ⟨Reg.QMG_QSTAT, 0, 1⟩
def F.QMG_QSTAT_ERR : Field := ⟨Reg.QMG_QSTAT, 1, 2⟩
def F.QMG_PKTCMD_CELL : Field := ⟨Reg.QMG_PKTCMD, 0, 26⟩
def F.QMG_PKTCMD_OP : Field := ⟨Reg.QMG_PKTCMD, 26, 2⟩
def F.QMG_PKTCMD_REASON : Field := ⟨Reg.QMG_PKTCMD, 28, 4⟩
def F.QMG_PKTARG_Q : Field := ⟨Reg.QMG_PKTARG, 0, 17⟩
def F.QMG_PKTARG_CELLS : Field := ⟨Reg.QMG_PKTARG, 17, 6⟩
def F.QMG_PKTRES_CELL : Field := ⟨Reg.QMG_PKTRES, 0, 26⟩
def F.QMG_PKTRES_BUSY : Field := ⟨Reg.QMG_PKTRES, 26, 1⟩
def F.QMG_PKTRES_ERR : Field := ⟨Reg.QMG_PKTRES, 27, 2⟩
def F.FWD_STATUS_BOOTMODE : Field := ⟨Reg.FWD_STATUS, 0, 1⟩
def F.FWD_STATUS_KEEL : Field := ⟨Reg.FWD_STATUS, 1, 1⟩
def F.FWD_STATUS_REBUILD : Field := ⟨Reg.FWD_STATUS, 2, 1⟩
def F.FWD_STATUS_SWEEPING : Field := ⟨Reg.FWD_STATUS, 3, 1⟩
def F.FWD_STATUS_LEARNQ : Field := ⟨Reg.FWD_STATUS, 4, 13⟩
def F.FWD_STATUS_SEEDZERO : Field := ⟨Reg.FWD_STATUS, 17, 1⟩
def F.FWD_CFG_LEARN : Field := ⟨Reg.FWD_CFG, 0, 1⟩
def F.FWD_CFG_MISSACT : Field := ⟨Reg.FWD_CFG, 1, 1⟩
def F.FWD_CFG_MISSQ : Field := ⟨Reg.FWD_CFG, 2, 4⟩
def F.FWD_CFG_MCQ : Field := ⟨Reg.FWD_CFG, 6, 4⟩
def F.FWD_AGE_SWEEP : Field := ⟨Reg.FWD_AGE, 0, 12⟩
def F.FWD_AGE_EN : Field := ⟨Reg.FWD_AGE, 12, 1⟩
def F.FWD_PFXGEN_GEN : Field := ⟨Reg.FWD_PFXGEN, 0, 32⟩
def F.FWD_PERSTAT_DEPTH : Field := ⟨Reg.FWD_PERSTAT, 0, 5⟩
def F.FWD_PERSTAT_EMPTY : Field := ⟨Reg.FWD_PERSTAT, 5, 1⟩
def F.FWD_PERPOP_POP : Field := ⟨Reg.FWD_PERPOP, 0, 1⟩
def F.FWD_CMDSTAT_BUSY : Field := ⟨Reg.FWD_CMDSTAT, 0, 1⟩
def F.FWD_CMDSTAT_OUTCOME : Field := ⟨Reg.FWD_CMDSTAT, 1, 4⟩
def F.FWD_CMDSTAT_TAG : Field := ⟨Reg.FWD_CMDSTAT, 5, 8⟩
def F.FWD_CMDSTAT_STEP : Field := ⟨Reg.FWD_CMDSTAT, 13, 3⟩
def F.FWD_CMD_OP : Field := ⟨Reg.FWD_CMD, 0, 4⟩
def F.FWD_CMD_TBL : Field := ⟨Reg.FWD_CMD, 4, 2⟩
def F.FWD_CMD_TAG : Field := ⟨Reg.FWD_CMD, 6, 8⟩
def F.FWD_CMDARG_INDEX : Field := ⟨Reg.FWD_CMDARG, 0, 22⟩
def F.FWD_CMDARG_SLOT : Field := ⟨Reg.FWD_CMDARG, 22, 3⟩
def F.FWD_LXCFG_TXEN : Field := ⟨Reg.FWD_LXCFG, 0, 1⟩
def F.FWD_LXCFG_RXEN : Field := ⟨Reg.FWD_LXCFG, 1, 1⟩
def F.FWD_LXSTAT_TXQ : Field := ⟨Reg.FWD_LXSTAT, 0, 11⟩
def F.FWD_LXSTAT_FLUSHBUSY : Field := ⟨Reg.FWD_LXSTAT, 11, 1⟩
def F.FWD_FLAPSTAT_PINNED : Field := ⟨Reg.FWD_FLAPSTAT, 0, 11⟩
def F.FWD_FLAPSTAT_USED : Field := ⟨Reg.FWD_FLAPSTAT, 11, 11⟩
def F.KVT_STATUS_STATE : Field := ⟨Reg.KVT_STATUS, 0, 3⟩
def F.KVT_STATUS_APPROVED : Field := ⟨Reg.KVT_STATUS, 3, 1⟩
def F.KVT_STATUS_CACHEONLY : Field := ⟨Reg.KVT_STATUS, 4, 1⟩
def F.KVT_STATUS_EPOCHLOW : Field := ⟨Reg.KVT_STATUS, 5, 1⟩
def F.KVT_STATUS_EPOCHOUT : Field := ⟨Reg.KVT_STATUS, 6, 1⟩
def F.KVT_CFG_APPROVED : Field := ⟨Reg.KVT_CFG, 0, 1⟩
def F.KVT_CFG_CTRBLK : Field := ⟨Reg.KVT_CFG, 1, 3⟩
def F.KVT_CMD_OP : Field := ⟨Reg.KVT_CMD, 0, 4⟩
def F.KVT_CMD_SLOT : Field := ⟨Reg.KVT_CMD, 4, 20⟩
def F.KVT_CMD_TAG : Field := ⟨Reg.KVT_CMD, 24, 8⟩
def F.KVT_ARG_CELL : Field := ⟨Reg.KVT_ARG, 0, 26⟩
def F.KVT_ARG_USE : Field := ⟨Reg.KVT_ARG, 26, 3⟩
def F.KVT_ARG_ALG : Field := ⟨Reg.KVT_ARG, 29, 1⟩
def F.KVT_ARG_KIND : Field := ⟨Reg.KVT_ARG, 30, 1⟩
def F.KVT_CMDSTAT_BUSY : Field := ⟨Reg.KVT_CMDSTAT, 0, 1⟩
def F.KVT_CMDSTAT_OUTCOME : Field := ⟨Reg.KVT_CMDSTAT, 1, 4⟩
def F.KVT_CMDSTAT_TAG : Field := ⟨Reg.KVT_CMDSTAT, 5, 8⟩
def F.KVT_CMDSTAT_DETAIL : Field := ⟨Reg.KVT_CMDSTAT, 13, 7⟩
def F.KVT_SECEVT_VALID : Field := ⟨Reg.KVT_SECEVT, 0, 1⟩
def F.KVT_SECEVT_OVF : Field := ⟨Reg.KVT_SECEVT, 1, 1⟩
def F.KVT_SECEVT_CAUSE : Field := ⟨Reg.KVT_SECEVT, 2, 5⟩
def F.KVT_SECEVT_DETAIL : Field := ⟨Reg.KVT_SECEVT, 8, 24⟩
def F.CRY_STATUS_DRBGOK : Field := ⟨Reg.CRY_STATUS, 0, 1⟩
def F.CRY_STATUS_SELFTESTOK : Field := ⟨Reg.CRY_STATUS, 1, 1⟩
def F.CRY_STATUS_ONFIRC : Field := ⟨Reg.CRY_STATUS, 2, 1⟩
def F.CRY_RNG_BITS : Field := ⟨Reg.CRY_RNG, 0, 32⟩
def F.CRY_RESEED_GO : Field := ⟨Reg.CRY_RESEED, 0, 1⟩
def F.CHIP_WMAP0_SEC : Field := ⟨Reg.CHIP_WMAP0, 0, 24⟩
def F.CHIP_WMAP1_PCIESEC : Field := ⟨Reg.CHIP_WMAP1, 0, 1⟩
def F.CHIP_WMAP1_SMBSEC : Field := ⟨Reg.CHIP_WMAP1, 1, 1⟩
def F.CHIP_WMAP1_RGHIST : Field := ⟨Reg.CHIP_WMAP1, 2, 1⟩
def F.CHIP_WMAP1_RGFWD : Field := ⟨Reg.CHIP_WMAP1, 3, 1⟩
def F.CHIP_WMAP1_RGMSQ : Field := ⟨Reg.CHIP_WMAP1, 4, 1⟩
def F.CHIP_WMAP1_RGSLV : Field := ⟨Reg.CHIP_WMAP1, 5, 1⟩
def F.CHIP_WMAP1_RGPOOL : Field := ⟨Reg.CHIP_WMAP1, 6, 1⟩
def F.CHIP_WMAP1_DBG : Field := ⟨Reg.CHIP_WMAP1, 7, 2⟩
def F.CHIP_WMAP1_LOCKED : Field := ⟨Reg.CHIP_WMAP1, 31, 1⟩
def F.CHIP_WMAP2_EVTPUB : Field := ⟨Reg.CHIP_WMAP2, 0, 24⟩
def F.CHIP_XWFLT_VALID : Field := ⟨Reg.CHIP_XWFLT, 0, 1⟩
def F.CHIP_XWFLT_WRITE : Field := ⟨Reg.CHIP_XWFLT, 1, 1⟩
def F.CHIP_XWFLT_REGION : Field := ⟨Reg.CHIP_XWFLT, 2, 3⟩
def F.CHIP_XWFLT_UNIT : Field := ⟨Reg.CHIP_XWFLT, 5, 5⟩
def F.CHIP_XWFLT_INIT : Field := ⟨Reg.CHIP_XWFLT, 10, 3⟩
def F.UPD_STATUS_STATE : Field := ⟨Reg.UPD_STATUS, 0, 4⟩
def F.UPD_STATUS_COMBANK : Field := ⟨Reg.UPD_STATUS, 4, 1⟩
def F.UPD_STATUS_KEEL : Field := ⟨Reg.UPD_STATUS, 5, 1⟩
def F.UPD_STATUS_TRIALS : Field := ⟨Reg.UPD_STATUS, 6, 6⟩
def F.UPD_STATUS_LASTRB : Field := ⟨Reg.UPD_STATUS, 12, 3⟩
def F.UPD_CMD_OP : Field := ⟨Reg.UPD_CMD, 0, 4⟩
def F.UPD_CMD_TAG : Field := ⟨Reg.UPD_CMD, 4, 8⟩
def F.UPD_CMDSTAT_BUSY : Field := ⟨Reg.UPD_CMDSTAT, 0, 1⟩
def F.UPD_CMDSTAT_OUTCOME : Field := ⟨Reg.UPD_CMDSTAT, 1, 5⟩
def F.UPD_CMDSTAT_TAG : Field := ⟨Reg.UPD_CMDSTAT, 6, 8⟩
def F.UPD_CMDSTAT_DETAIL : Field := ⟨Reg.UPD_CMDSTAT, 14, 18⟩
def F.UPD_HEALTH_PRC : Field := ⟨Reg.UPD_HEALTH, 0, 4⟩
def F.UPD_HEALTH_SUP : Field := ⟨Reg.UPD_HEALTH, 4, 1⟩
def F.UPD_SVN_BURNED : Field := ⟨Reg.UPD_SVN, 0, 9⟩
def F.UPD_PAUSE_NS : Field := ⟨Reg.UPD_PAUSE, 0, 16⟩
def F.UPD_PEERSTAT_ST : Field := ⟨Reg.UPD_PEERSTAT, 0, 32⟩
def F.PRC_STATUS_RUN : Field := ⟨Reg.PRC_STATUS, 0, 4⟩
def F.PRC_STATUS_SECCTX : Field := ⟨Reg.PRC_STATUS, 4, 4⟩
def F.PRC_STATUS_HELD : Field := ⟨Reg.PRC_STATUS, 8, 4⟩
def F.PRC_THR_DECTHR : Field := ⟨Reg.PRC_THR, 0, 16⟩
def F.CSC_STATUS_MODE : Field := ⟨Reg.CSC_STATUS, 0, 1⟩
def F.CSC_STATUS_ACTROLE : Field := ⟨Reg.CSC_STATUS, 1, 2⟩
def F.CSC_STATUS_ADDR : Field := ⟨Reg.CSC_STATUS, 3, 5⟩
def F.CSC_STATUS_ANCHOR : Field := ⟨Reg.CSC_STATUS, 8, 5⟩
def F.CSC_STATUS_QUORUM : Field := ⟨Reg.CSC_STATUS, 13, 1⟩
def F.CSC_STATUS_ISOLATED : Field := ⟨Reg.CSC_STATUS, 14, 1⟩
def F.CSC_STATUS_MIRROR : Field := ⟨Reg.CSC_STATUS, 15, 1⟩
def F.CSC_CFG_CHIPID : Field := ⟨Reg.CSC_CFG, 0, 4⟩
def F.CSC_CFG_ROLE : Field := ⟨Reg.CSC_CFG, 4, 2⟩
def F.CSC_CFG_NCHIP : Field := ⟨Reg.CSC_CFG, 6, 5⟩
def F.CSC_CFG_CASCID : Field := ⟨Reg.CSC_CFG, 11, 16⟩
def F.CSC_CMD_OP : Field := ⟨Reg.CSC_CMD, 0, 2⟩
def F.CSC_CMD_ADDR : Field := ⟨Reg.CSC_CMD, 2, 5⟩
def F.CSC_CMD_TAG : Field := ⟨Reg.CSC_CMD, 7, 8⟩
def F.CSC_CMDSTAT_BUSY : Field := ⟨Reg.CSC_CMDSTAT, 0, 1⟩
def F.CSC_CMDSTAT_OUTCOME : Field := ⟨Reg.CSC_CMDSTAT, 1, 3⟩
def F.CSC_CMDSTAT_TAG : Field := ⟨Reg.CSC_CMDSTAT, 4, 8⟩
def F.CSC_CMDSTAT_RTT : Field := ⟨Reg.CSC_CMDSTAT, 12, 20⟩
def F.CHIP_START_LEVEL : Field := ⟨Reg.CHIP_START, 0, 2⟩
def F.CHIP_START_KEEL : Field := ⟨Reg.CHIP_START, 2, 1⟩
def F.CHIP_START_AONKEPT : Field := ⟨Reg.CHIP_START, 3, 1⟩
def F.CHIP_START_DRAMKEPT : Field := ⟨Reg.CHIP_START, 4, 1⟩
def F.CHIP_START_CLKSW : Field := ⟨Reg.CHIP_START, 5, 1⟩
def F.CHIP_START_NOREF : Field := ⟨Reg.CHIP_START, 6, 1⟩
def F.CHIP_START_NOFW : Field := ⟨Reg.CHIP_START, 7, 1⟩
def F.CHIP_START_DRAMOK : Field := ⟨Reg.CHIP_START, 8, 1⟩
def F.CHIP_START_DRAMFAIL : Field := ⟨Reg.CHIP_START, 9, 1⟩
def F.CHIP_RSTCAUSE_POR : Field := ⟨Reg.CHIP_RSTCAUSE, 0, 1⟩
def F.CHIP_RSTCAUSE_PIN : Field := ⟨Reg.CHIP_RSTCAUSE, 1, 1⟩
def F.CHIP_RSTCAUSE_VCORE : Field := ⟨Reg.CHIP_RSTCAUSE, 2, 1⟩
def F.CHIP_RSTCAUSE_VIO : Field := ⟨Reg.CHIP_RSTCAUSE, 3, 1⟩
def F.CHIP_RSTCAUSE_SOFT : Field := ⟨Reg.CHIP_RSTCAUSE, 4, 1⟩
def F.CHIP_RSTCAUSE_COUNT : Field := ⟨Reg.CHIP_RSTCAUSE, 8, 16⟩
def F.CHIP_RESET_KEY : Field := ⟨Reg.CHIP_RESET, 0, 16⟩
def F.CHIP_STARTCMD_RETRAIN : Field := ⟨Reg.CHIP_STARTCMD, 0, 1⟩
def F.MEM_STATUS_TRAINED : Field := ⟨Reg.MEM_STATUS, 0, 1⟩
def F.MEM_STATUS_INIT : Field := ⟨Reg.MEM_STATUS, 1, 1⟩
def F.MEM_STATUS_FAIL : Field := ⟨Reg.MEM_STATUS, 2, 2⟩
def F.MEM_STATUS_ATTEMPT : Field := ⟨Reg.MEM_STATUS, 4, 2⟩
def F.MEM_STATUS_SELFREF : Field := ⟨Reg.MEM_STATUS, 6, 1⟩
def F.MEM_STATUS_FROMSAVED : Field := ⟨Reg.MEM_STATUS, 7, 1⟩
def F.MEM_CFG_SIZE : Field := ⟨Reg.MEM_CFG, 0, 3⟩
def F.MEM_CFG_RATE : Field := ⟨Reg.MEM_CFG, 3, 2⟩
def F.MEM_SCRUB_HOURS : Field := ⟨Reg.MEM_SCRUB, 0, 8⟩
def F.MEM_SCRUB_CETHR : Field := ⟨Reg.MEM_SCRUB, 8, 16⟩
def F.MEM_ECCREC_VALID : Field := ⟨Reg.MEM_ECCREC, 0, 1⟩
def F.MEM_ECCREC_OVF : Field := ⟨Reg.MEM_ECCREC, 1, 1⟩
def F.MEM_ECCREC_CH : Field := ⟨Reg.MEM_ECCREC, 2, 1⟩
def F.MEM_ECCREC_REGION : Field := ⟨Reg.MEM_ECCREC, 3, 4⟩
def F.MEM_ECCREC_UNIT : Field := ⟨Reg.MEM_ECCREC, 7, 5⟩
def F.MEM_ECCREC_SCRUB : Field := ⟨Reg.MEM_ECCREC, 12, 1⟩
def F.PWR_STATUS_BUSY : Field := ⟨Reg.PWR_STATUS, 0, 1⟩
def F.PWR_STATUS_DIPCORE : Field := ⟨Reg.PWR_STATUS, 1, 1⟩
def F.PWR_STATUS_DIPIO : Field := ⟨Reg.PWR_STATUS, 2, 1⟩
def F.PWR_STATUS_HOLD : Field := ⟨Reg.PWR_STATUS, 3, 1⟩
def F.PWR_STATUS_AONXTAL : Field := ⟨Reg.PWR_STATUS, 4, 1⟩
def F.PWR_STATUS_XTALFAIL : Field := ⟨Reg.PWR_STATUS, 5, 1⟩
def F.PWR_MODECMD_MODE : Field := ⟨Reg.PWR_MODECMD, 0, 2⟩
def F.PWR_MODECMD_KEY : Field := ⟨Reg.PWR_MODECMD, 16, 16⟩
def F.PWR_WAKECFG_GPIO : Field := ⟨Reg.PWR_WAKECFG, 0, 5⟩
def F.PWR_WAKECFG_GPIOEN : Field := ⟨Reg.PWR_WAKECFG, 5, 1⟩
def F.PWR_WAKECFG_GPIOPOL : Field := ⟨Reg.PWR_WAKECFG, 6, 1⟩
def F.PWR_WAKECFG_SMBEN : Field := ⟨Reg.PWR_WAKECFG, 7, 1⟩
def F.PWR_WAKECFG_ALARMEN : Field := ⟨Reg.PWR_WAKECFG, 8, 1⟩
def F.PWR_ALARM_TICKS : Field := ⟨Reg.PWR_ALARM, 0, 32⟩
def F.PWR_WAKEREC_SRC : Field := ⟨Reg.PWR_WAKEREC, 0, 2⟩
def F.PWR_WAKEREC_REPLAY : Field := ⟨Reg.PWR_WAKEREC, 2, 1⟩
def F.PWR_WAKEREC_FROMAON : Field := ⟨Reg.PWR_WAKEREC, 3, 1⟩
def F.PWR_RETFAIL_DOMAIN : Field := ⟨Reg.PWR_RETFAIL, 0, 5⟩
def F.PWR_RETFAIL_BANK : Field := ⟨Reg.PWR_RETFAIL, 5, 5⟩
def F.PWR_RETFAIL_VALID : Field := ⟨Reg.PWR_RETFAIL, 10, 1⟩
def F.PWR_DIPREC_VALID : Field := ⟨Reg.PWR_DIPREC, 0, 1⟩
def F.PWR_DIPREC_OVF : Field := ⟨Reg.PWR_DIPREC, 1, 1⟩
def F.PWR_DIPREC_RAIL : Field := ⟨Reg.PWR_DIPREC, 2, 1⟩
def F.PWR_DIPREC_DURB : Field := ⟨Reg.PWR_DIPREC, 3, 3⟩
def F.PWR_DIPREC_VMINB : Field := ⟨Reg.PWR_DIPREC, 6, 2⟩
def F.PWR_DIPREC_HELD : Field := ⟨Reg.PWR_DIPREC, 8, 1⟩
def F.PWR_DIPREC_RST : Field := ⟨Reg.PWR_DIPREC, 9, 1⟩
def F.PWR_CLKSEL_REQ : Field := ⟨Reg.PWR_CLKSEL, 0, 1⟩
def F.PWR_CLKSEL_SEL : Field := ⟨Reg.PWR_CLKSEL, 1, 1⟩
def F.PWR_CLKSEL_AONSRC : Field := ⟨Reg.PWR_CLKSEL, 2, 1⟩
def F.SUP_STATUS_RUN : Field := ⟨Reg.SUP_STATUS, 0, 1⟩
def F.SUP_STATUS_FSSTATE : Field := ⟨Reg.SUP_STATUS, 1, 2⟩
def F.SUP_STATUS_KEEL : Field := ⟨Reg.SUP_STATUS, 3, 1⟩
def F.SUP_STATUS_PRCHELD : Field := ⟨Reg.SUP_STATUS, 4, 4⟩
def F.SUP_STATUS_NOTQ : Field := ⟨Reg.SUP_STATUS, 8, 6⟩
def F.SUP_CFG_WDPER : Field := ⟨Reg.SUP_CFG, 0, 10⟩
def F.SUP_CFG_PRCWDPER : Field := ⟨Reg.SUP_CFG, 10, 10⟩
def F.SUP_CFG_FAILMASK : Field := ⟨Reg.SUP_CFG, 20, 7⟩
def F.SUP_WDOG_KICK : Field := ⟨Reg.SUP_WDOG, 0, 16⟩
def F.SUP_FLTREC_VALID : Field := ⟨Reg.SUP_FLTREC, 0, 1⟩
def F.SUP_FLTREC_OVF : Field := ⟨Reg.SUP_FLTREC, 1, 1⟩
def F.SUP_FLTREC_CLASS : Field := ⟨Reg.SUP_FLTREC, 2, 5⟩
def F.SUP_FLTREC_UNIT : Field := ⟨Reg.SUP_FLTREC, 7, 5⟩
def F.SUP_FLTREC_DETAIL : Field := ⟨Reg.SUP_FLTREC, 12, 20⟩
def F.SUP_ACCREC_VALID : Field := ⟨Reg.SUP_ACCREC, 0, 1⟩
def F.SUP_ACCREC_OVF : Field := ⟨Reg.SUP_ACCREC, 1, 1⟩
def F.SUP_ACCREC_REC : Field := ⟨Reg.SUP_ACCREC, 2, 30⟩
def F.SUP_FAILCAUSE_CAUSE : Field := ⟨Reg.SUP_FAILCAUSE, 0, 7⟩
def F.SUP_FAILCAUSE_PIN : Field := ⟨Reg.SUP_FAILCAUSE, 7, 1⟩
def F.SUP_AUDIT_QMG : Field := ⟨Reg.SUP_AUDIT, 0, 1⟩
def F.SUP_AUDIT_BGT : Field := ⟨Reg.SUP_AUDIT, 1, 1⟩
def F.SUP_AUDIT_MSQ : Field := ⟨Reg.SUP_AUDIT, 2, 1⟩
def F.SUP_LOGSTAT_DEPTH : Field := ⟨Reg.SUP_LOGSTAT, 0, 7⟩
def F.SUP_LOGSTAT_EMPTY : Field := ⟨Reg.SUP_LOGSTAT, 7, 1⟩
def F.SUP_LOGPOP_POP : Field := ⟨Reg.SUP_LOGPOP, 0, 1⟩
def F.LGC_STATUS_RUN : Field := ⟨Reg.LGC_STATUS, 0, 4⟩
def F.LGC_STATUS_LINT : Field := ⟨Reg.LGC_STATUS, 4, 4⟩
def F.LGC_CFG_EN : Field := ⟨Reg.LGC_CFG, 0, 4⟩
def F.LGC_CFG_RFPORT : Field := ⟨Reg.LGC_CFG, 4, 2⟩
def F.LGC_CFG_ROUTE : Field := ⟨Reg.LGC_CFG, 6, 4⟩
def F.LGC_CFG_PRCQ : Field := ⟨Reg.LGC_CFG, 10, 4⟩
def F.TST_STATUS_BUSY : Field := ⟨Reg.TST_STATUS, 0, 1⟩
def F.TST_STATUS_DOMAIN : Field := ⟨Reg.TST_STATUS, 1, 5⟩
def F.TST_STATUS_PHASE : Field := ⟨Reg.TST_STATUS, 6, 3⟩
def F.TST_CMD_DOMAIN : Field := ⟨Reg.TST_CMD, 0, 5⟩
def F.TST_CMD_LBIST : Field := ⟨Reg.TST_CMD, 5, 1⟩
def F.TST_CMD_MBIST : Field := ⟨Reg.TST_CMD, 6, 1⟩
def F.TST_CMD_FORCE : Field := ⟨Reg.TST_CMD, 7, 1⟩
def F.TST_CMD_TAG : Field := ⟨Reg.TST_CMD, 8, 8⟩
def F.TST_RESULT_OUTCOME : Field := ⟨Reg.TST_RESULT, 0, 4⟩
def F.TST_RESULT_TAG : Field := ⟨Reg.TST_RESULT, 4, 8⟩
def F.TST_RESULT_LFAIL : Field := ⟨Reg.TST_RESULT, 12, 1⟩
def F.TST_RESULT_MFAIL : Field := ⟨Reg.TST_RESULT, 13, 1⟩
def F.TST_RESULT_BADARRAY : Field := ⟨Reg.TST_RESULT, 14, 10⟩
def F.TST_RESULT_NBAD : Field := ⟨Reg.TST_RESULT, 24, 8⟩
def F.HIF_STATUS_PCIEUP : Field := ⟨Reg.HIF_STATUS, 0, 1⟩
def F.HIF_STATUS_PCIEW : Field := ⟨Reg.HIF_STATUS, 1, 3⟩
def F.HIF_STATUS_PCIESPD : Field := ⟨Reg.HIF_STATUS, 4, 2⟩
def F.HIF_STATUS_ETHUP : Field := ⟨Reg.HIF_STATUS, 6, 2⟩
def F.HIF_STATUS_PROTACT : Field := ⟨Reg.HIF_STATUS, 8, 1⟩
def F.HIF_STATUS_TSDEPTH : Field := ⟨Reg.HIF_STATUS, 9, 7⟩
def F.HIF_CFG_PROT : Field := ⟨Reg.HIF_CFG, 0, 1⟩
def F.HIF_CFG_WTR : Field := ⟨Reg.HIF_CFG, 1, 8⟩
def F.HIF_CFG_PTPQ : Field := ⟨Reg.HIF_CFG, 9, 4⟩
def F.HIF_CFG_OTHERQ : Field := ⟨Reg.HIF_CFG, 13, 4⟩
def F.HIF_CFG_OTHEREN : Field := ⟨Reg.HIF_CFG, 17, 1⟩

def RegMap.chip0 : List RegD := [
  ⟨0xFFFC, [], 1, 0, [⟨0, 8, .ro, 0, 0⟩, ⟨8, 8, .ro, 1, 0⟩]⟩,
  ⟨0x108, [], 1, 0, [⟨0, 32, .ro, 0, 0⟩]⟩,
  ⟨0x10C, [], 1, 0, [⟨0, 32, .ro, 0, 0⟩]⟩,
  ⟨0x214, [], 1, 0, [⟨0, 32, .ro, 0, 0⟩]⟩,
  ⟨0x218, [], 1, 0, [⟨0, 32, .ro, 0, 0⟩]⟩,
  ⟨0x220, [], 1, 1, [⟨0, 32, .ro, 0, 0⟩]⟩,
  ⟨0x224, [], 1, 2, [⟨0, 16, .ro, 0, 0⟩]⟩,
  ⟨0x310, [], 1, 0, [⟨0, 32, .ro, 0, 0⟩]⟩,
  ⟨0x314, [], 1, 0, [⟨0, 32, .ro, 0, 0⟩]⟩,
  ⟨0x400, [], 1, 0, [⟨0, 8, .rt, 0, 0⟩, ⟨8, 8, .ro, 0, 0⟩, ⟨16, 1, .rt, 0, 0⟩]⟩,
  ⟨0x100, [], 1, 0, [⟨0, 1, .wo, 0, 0⟩]⟩,
  ⟨0x104, [], 1, 0, [⟨0, 32, .ro, 0, 0⟩]⟩,
  ⟨0x110, [], 1, 0, [⟨0, 21, .ro, 0, 0⟩]⟩,
  ⟨0x200, [], 1, 0, [⟨0, 24, .wl, 0x23000, 0⟩]⟩,
  ⟨0x204, [], 1, 0, [⟨0, 1, .wl, 0, 0⟩, ⟨1, 1, .wl, 0, 0⟩, ⟨2, 1, .wl, 0, 0⟩, ⟨3, 1, .wl, 0, 0⟩, ⟨4, 1, .wl, 0, 0⟩, ⟨5, 1, .wl, 0, 0⟩, ⟨6, 1, .wl, 0, 0⟩, ⟨7, 2, .wl, 0, 0⟩, ⟨31, 1, .ro, 0, 0⟩]⟩,
  ⟨0x208, [], 1, 0, [⟨0, 24, .wl, 0, 0⟩]⟩,
  ⟨0x210, [], 1, 0, [⟨0, 1, .rw, 0, 0⟩, ⟨1, 1, .ro, 0, 0⟩, ⟨2, 3, .ro, 0, 0⟩, ⟨5, 5, .ro, 0, 0⟩, ⟨10, 3, .ro, 0, 0⟩]⟩,
  ⟨0x300, [], 1, 0, [⟨0, 2, .rt, 0, 0⟩, ⟨2, 1, .rt, 0, 0⟩, ⟨3, 1, .ro, 0, 0⟩, ⟨4, 1, .ro, 0, 0⟩, ⟨5, 1, .rt, 0, 0⟩, ⟨6, 1, .rt, 0, 0⟩, ⟨7, 1, .rt, 0, 0⟩, ⟨8, 1, .rt, 0, 0⟩, ⟨9, 1, .rt, 0, 0⟩]⟩,
  ⟨0x304, [], 1, 0, [⟨0, 1, .ro, 0, 0⟩, ⟨1, 1, .ro, 0, 0⟩, ⟨2, 1, .ro, 0, 0⟩, ⟨3, 1, .ro, 0, 0⟩, ⟨4, 1, .ro, 0, 0⟩, ⟨8, 16, .ro, 0, 0⟩]⟩,
  ⟨0x308, [], 1, 0, [⟨0, 16, .wo, 0, 0⟩]⟩,
  ⟨0x30C, [], 1, 0, [⟨0, 1, .wo, 0, 0⟩]⟩]

/-- The registers of CHIP (unit index 0 of R40). -/
def RegMap.chip : List RegD := RegMap.chip0

def RegMap.evt0 : List RegD := [
  ⟨0x10FFFC, [], 1, 0, [⟨0, 8, .ro, 1, 0⟩, ⟨8, 8, .ro, 1, 0⟩]⟩,
  ⟨0x100008, [], 1, 1, [⟨0, 32, .ro, 0, 0⟩]⟩,
  ⟨0x10000C, [], 1, 2, [⟨0, 16, .ro, 0, 0⟩]⟩,
  ⟨0x100100, [(4, 8)], 1, 0, [⟨0, 32, .rw, 0, 0⟩]⟩,
  ⟨0x100200, [(4, 64)], 1, 0, [⟨0, 4, .rw, 0, 0⟩, ⟨7, 1, .rw, 0, 0⟩, ⟨8, 4, .rw, 0, 0⟩, ⟨15, 1, .rw, 0, 0⟩, ⟨16, 4, .rw, 0, 0⟩, ⟨23, 1, .rw, 0, 0⟩, ⟨24, 4, .rw, 0, 0⟩, ⟨31, 1, .rw, 0, 0⟩]⟩,
  ⟨0x100000, [], 1, 0, [⟨0, 1, .rc, 0, 0⟩, ⟨1, 1, .rc, 0, 0⟩, ⟨2, 3, .rc, 0, 0⟩, ⟨5, 1, .rc, 0, 0⟩, ⟨6, 5, .rc, 0, 0⟩, ⟨12, 18, .rc, 0, 0⟩, ⟨30, 2, .rc, 0, 0⟩]⟩,
  ⟨0x100004, [], 1, 0, [⟨0, 2, .ro, 0, 0⟩, ⟨2, 3, .ro, 0, 0⟩, ⟨5, 5, .ro, 0, 0⟩, ⟨10, 4, .ro, 0, 0⟩]⟩,
  ⟨0x100300, [], 1, 0, [⟨0, 32, .rw, 0, 0⟩]⟩,
  ⟨0x100304, [], 1, 0, [⟨0, 16, .rt, 0, 0⟩]⟩,
  ⟨0x100308, [], 1, 0, [⟨0, 16, .wo, 0, 0⟩]⟩,
  ⟨0x10030C, [], 1, 0, [⟨0, 16, .rw, 0, 0⟩]⟩]

/-- The registers of EVT (unit index 1 of R40). -/
def RegMap.evt : List RegD := RegMap.evt0

def RegMap.gtb0 : List RegD := [
  ⟨0x20FFF0, [], 1, 0, [⟨0, 8, .wo, 0, 0⟩, ⟨8, 1, .wo, 0, 0⟩, ⟨9, 1, .wo, 0, 0⟩]⟩,
  ⟨0x20FFF4, [], 1, 0, [⟨0, 8, .rt, 0, 0⟩, ⟨8, 8, .ro, 0, 0⟩, ⟨16, 16, .ro, 0, 0⟩]⟩,
  ⟨0x20FFFC, [], 1, 0, [⟨0, 8, .ro, 2, 0⟩, ⟨8, 8, .ro, 1, 0⟩]⟩,
  ⟨0x200020, [], 1, 0, [⟨0, 32, .rt, 0, 0⟩]⟩,
  ⟨0x200024, [], 1, 0, [⟨0, 32, .rt, 0, 0⟩]⟩,
  ⟨0x200038, [], 1, 0, [⟨0, 32, .ro, 0, 0⟩]⟩,
  ⟨0x20003C, [], 1, 0, [⟨0, 32, .ro, 0, 0⟩]⟩,
  ⟨0x200040, [], 1, 0, [⟨0, 32, .ro, 0, 0⟩]⟩,
  ⟨0x200044, [], 1, 0, [⟨0, 16, .ro, 0, 0⟩]⟩,
  ⟨0x200048, [], 1, 0, [⟨0, 32, .ro, 0, 0⟩]⟩,
  ⟨0x200050, [], 1, 0, [⟨0, 32, .rw, 0, 0⟩]⟩,
  ⟨0x200054, [], 1, 0, [⟨0, 16, .rw, 0, 0⟩]⟩,
  ⟨0x200070, [], 1, 1, [⟨0, 32, .ro, 0, 0⟩]⟩,
  ⟨0x200074, [], 1, 2, [⟨0, 16, .ro, 0, 0⟩]⟩,
  ⟨0x200078, [], 1, 1, [⟨0, 32, .ro, 0, 0⟩]⟩,
  ⟨0x20007C, [], 1, 2, [⟨0, 16, .ro, 0, 0⟩]⟩,
  ⟨0x200080, [], 1, 1, [⟨0, 32, .ro, 0, 0⟩]⟩,
  ⟨0x200084, [], 1, 2, [⟨0, 16, .ro, 0, 0⟩]⟩,
  ⟨0x200100, [(16, 8)], 1, 0, [⟨0, 1, .rw, 0, 0⟩, ⟨1, 1, .rw, 0, 0⟩, ⟨2, 24, .rw, 0, 0⟩, ⟨26, 6, .ro, 0, 0⟩]⟩,
  ⟨0x200104, [(16, 8)], 1, 0, [⟨0, 32, .rw, 0, 0⟩]⟩,
  ⟨0x200108, [(16, 8)], 1, 0, [⟨0, 32, .rw, 0, 0⟩]⟩,
  ⟨0x20010C, [(16, 8)], 1, 0, [⟨0, 32, .rw, 0, 0⟩]⟩,
  ⟨0x200200, [(16, 8)], 1, 0, [⟨0, 1, .rw, 0, 0⟩, ⟨1, 1, .rw, 0, 0⟩, ⟨2, 1, .rw, 0, 0⟩, ⟨3, 1, .ro, 0, 0⟩, ⟨4, 1, .ro, 0, 0⟩]⟩,
  ⟨0x200204, [(16, 8)], 1, 0, [⟨0, 32, .rw, 0, 0⟩]⟩,
  ⟨0x200208, [(16, 8)], 1, 0, [⟨0, 32, .rw, 0, 0⟩]⟩,
  ⟨0x200000, [], 1, 0, [⟨0, 3, .rt, 0, 0⟩, ⟨3, 1, .rt, 0, 0⟩, ⟨4, 1, .rt, 0, 0⟩, ⟨5, 1, .rt, 0, 0⟩]⟩,
  ⟨0x200004, [], 1, 0, [⟨0, 32, .ro, 0, 0⟩]⟩,
  ⟨0x200008, [], 1, 0, [⟨0, 2, .wl, 0, 0⟩, ⟨2, 1, .wl, 0, 0⟩, ⟨3, 3, .wl, 2, 0⟩, ⟨6, 2, .wl, 1, 0⟩, ⟨8, 4, .wl, 0, 0⟩, ⟨12, 1, .wl, 0, 0⟩, ⟨13, 8, .wl, 0xFF, 0⟩]⟩,
  ⟨0x20000C, [], 1, 0, [⟨0, 20, .wl, 0, 0⟩]⟩,
  ⟨0x200010, [], 1, 0, [⟨0, 24, .sc, 0, 0⟩, ⟨24, 1, .rw, 0, 0⟩]⟩,
  ⟨0x200014, [], 1, 0, [⟨0, 6, .rw, 0x32, 0⟩]⟩,
  ⟨0x200018, [], 1, 0, [⟨0, 17, .rt, 0, 0⟩, ⟨17, 10, .rt, 0, 0⟩, ⟨27, 1, .rt, 0, 0⟩, ⟨28, 4, .rt, 0, 0⟩]⟩,
  ⟨0x20001C, [], 1, 0, [⟨0, 32, .rt, 0, 0⟩]⟩,
  ⟨0x200028, [], 0, 0, [⟨0, 1, .ro, 0, 0⟩, ⟨1, 31, .ro, 0, 0⟩]⟩,
  ⟨0x200030, [], 1, 0, [⟨0, 2, .rw, 0, 0⟩, ⟨2, 1, .rw, 0, 0⟩, ⟨3, 1, .wo, 0, 0⟩, ⟨4, 8, .rw, 0x25, 0⟩]⟩,
  ⟨0x200034, [], 1, 0, [⟨0, 1, .rt, 0, 0⟩, ⟨1, 1, .rt, 0, 0⟩, ⟨2, 8, .ro, 0, 0⟩]⟩,
  ⟨0x200060, [], 1, 0, [⟨0, 32, .ro, 0, 0⟩]⟩,
  ⟨0x200064, [], 1, 0, [⟨0, 1, .rc, 0, 0⟩, ⟨1, 1, .rc, 0, 0⟩, ⟨2, 2, .rc, 0, 0⟩, ⟨4, 28, .rc, 0, 0⟩]⟩]

/-- The registers of GTB (unit index 2 of R40). -/
def RegMap.gtb : List RegD := RegMap.gtb0

def RegMap.rfp0 : List RegD := [
  ⟨0x30FFF0, [], 1, 0, [⟨0, 8, .wo, 0, 0⟩, ⟨8, 1, .wo, 0, 0⟩, ⟨9, 1, .wo, 0, 0⟩]⟩,
  ⟨0x30FFF4, [], 1, 0, [⟨0, 8, .rt, 0, 0⟩, ⟨8, 8, .ro, 0, 0⟩, ⟨16, 16, .ro, 0, 0⟩]⟩,
  ⟨0x30FFFC, [], 1, 0, [⟨0, 8, .ro, 3, 0⟩, ⟨8, 8, .ro, 1, 0⟩]⟩,
  ⟨0x302000, [], 10, 0, [⟨0, 1, .wl, 0, 0⟩, ⟨1, 1, .wl, 0, 0⟩, ⟨2, 1, .wl, 0, 0⟩, ⟨3, 1, .wl, 0, 0⟩, ⟨4, 1, .wl, 0, 0⟩, ⟨5, 1, .wl, 0, 0⟩, ⟨6, 2, .wl, 0, 0⟩, ⟨8, 1, .wl, 0, 0⟩, ⟨9, 2, .wl, 0, 0⟩]⟩,
  ⟨0x304000, [], 11, 0, [⟨0, 1, .wl, 0, 0⟩, ⟨1, 1, .wl, 0, 0⟩, ⟨2, 1, .wl, 0, 0⟩, ⟨3, 1, .wl, 0, 0⟩, ⟨4, 1, .wl, 0, 0⟩, ⟨5, 1, .wl, 0, 0⟩, ⟨6, 2, .wl, 0, 0⟩, ⟨8, 1, .wl, 0, 0⟩, ⟨9, 2, .wl, 0, 0⟩]⟩,
  ⟨0x306000, [], 12, 0, [⟨0, 1, .wl, 0, 0⟩, ⟨1, 1, .wl, 0, 0⟩, ⟨2, 1, .wl, 0, 0⟩, ⟨3, 1, .wl, 0, 0⟩, ⟨4, 1, .wl, 0, 0⟩, ⟨5, 1, .wl, 0, 0⟩, ⟨6, 2, .wl, 0, 0⟩, ⟨8, 1, .wl, 0, 0⟩, ⟨9, 2, .wl, 0, 0⟩]⟩,
  ⟨0x308000, [], 13, 0, [⟨0, 1, .wl, 0, 0⟩, ⟨1, 1, .wl, 0, 0⟩, ⟨2, 1, .wl, 0, 0⟩, ⟨3, 1, .wl, 0, 0⟩, ⟨4, 1, .wl, 0, 0⟩, ⟨5, 1, .wl, 0, 0⟩, ⟨6, 2, .wl, 0, 0⟩, ⟨8, 1, .wl, 0, 0⟩, ⟨9, 2, .wl, 0, 0⟩]⟩,
  ⟨0x302004, [], 10, 0, [⟨0, 17, .wl, 0, 0⟩]⟩,
  ⟨0x302008, [], 10, 0, [⟨0, 17, .wl, 0, 0⟩]⟩,
  ⟨0x304004, [], 11, 0, [⟨0, 17, .wl, 0, 0⟩]⟩,
  ⟨0x304008, [], 11, 0, [⟨0, 17, .wl, 0, 0⟩]⟩,
  ⟨0x306004, [], 12, 0, [⟨0, 17, .wl, 0, 0⟩]⟩,
  ⟨0x306008, [], 12, 0, [⟨0, 17, .wl, 0, 0⟩]⟩,
  ⟨0x308004, [], 13, 0, [⟨0, 17, .wl, 0, 0⟩]⟩,
  ⟨0x308008, [], 13, 0, [⟨0, 17, .wl, 0, 0⟩]⟩,
  ⟨0x30200C, [], 10, 0, [⟨0, 32, .wl, 0, 0⟩]⟩,
  ⟨0x302010, [(4, 4)], 10, 0, [⟨0, 32, .wl, 0, 0⟩]⟩,
  ⟨0x30400C, [], 11, 0, [⟨0, 32, .wl, 0, 0⟩]⟩,
  ⟨0x304010, [(4, 4)], 11, 0, [⟨0, 32, .wl, 0, 0⟩]⟩,
  ⟨0x30600C, [], 12, 0, [⟨0, 32, .wl, 0, 0⟩]⟩,
  ⟨0x306010, [(4, 4)], 12, 0, [⟨0, 32, .wl, 0, 0⟩]⟩,
  ⟨0x30800C, [], 13, 0, [⟨0, 32, .wl, 0, 0⟩]⟩,
  ⟨0x308010, [(4, 4)], 13, 0, [⟨0, 32, .wl, 0, 0⟩]⟩,
  ⟨0x302020, [], 10, 0, [⟨0, 12, .wl, 0, 0⟩, ⟨12, 12, .wl, 0, 0⟩, ⟨24, 6, .wl, 2, 0⟩]⟩,
  ⟨0x304020, [], 11, 0, [⟨0, 12, .wl, 0, 0⟩, ⟨12, 12, .wl, 0, 0⟩, ⟨24, 6, .wl, 2, 0⟩]⟩,
  ⟨0x306020, [], 12, 0, [⟨0, 12, .wl, 0, 0⟩, ⟨12, 12, .wl, 0, 0⟩, ⟨24, 6, .wl, 2, 0⟩]⟩,
  ⟨0x308020, [], 13, 0, [⟨0, 12, .wl, 0, 0⟩, ⟨12, 12, .wl, 0, 0⟩, ⟨24, 6, .wl, 2, 0⟩]⟩,
  ⟨0x302024, [], 10, 0, [⟨0, 8, .wl, 0x17, 0⟩]⟩,
  ⟨0x304024, [], 11, 0, [⟨0, 8, .wl, 0x17, 0⟩]⟩,
  ⟨0x306024, [], 12, 0, [⟨0, 8, .wl, 0x17, 0⟩]⟩,
  ⟨0x308024, [], 13, 0, [⟨0, 8, .wl, 0x17, 0⟩]⟩,
  ⟨0x302028, [], 10, 0, [⟨0, 15, .sc, 0, 0⟩, ⟨15, 5, .wl, 1, 0⟩]⟩,
  ⟨0x304028, [], 11, 0, [⟨0, 15, .sc, 0, 1⟩, ⟨15, 5, .wl, 1, 0⟩]⟩,
  ⟨0x306028, [], 12, 0, [⟨0, 15, .sc, 0, 2⟩, ⟨15, 5, .wl, 1, 0⟩]⟩,
  ⟨0x308028, [], 13, 0, [⟨0, 15, .sc, 0, 3⟩, ⟨15, 5, .wl, 1, 0⟩]⟩,
  ⟨0x30202C, [], 10, 0, [⟨0, 12, .sc, 0, 0⟩]⟩,
  ⟨0x30402C, [], 11, 0, [⟨0, 12, .sc, 0, 1⟩]⟩,
  ⟨0x30602C, [], 12, 0, [⟨0, 12, .sc, 0, 2⟩]⟩,
  ⟨0x30802C, [], 13, 0, [⟨0, 12, .sc, 0, 3⟩]⟩,
  ⟨0x302030, [], 10, 0, [⟨0, 3, .rt, 0, 0⟩, ⟨3, 2, .rt, 0, 0⟩, ⟨5, 1, .rt, 0, 0⟩]⟩]

def RegMap.rfp1 : List RegD := [
  ⟨0x304030, [], 11, 0, [⟨0, 3, .rt, 0, 0⟩, ⟨3, 2, .rt, 0, 0⟩, ⟨5, 1, .rt, 0, 0⟩]⟩,
  ⟨0x306030, [], 12, 0, [⟨0, 3, .rt, 0, 0⟩, ⟨3, 2, .rt, 0, 0⟩, ⟨5, 1, .rt, 0, 0⟩]⟩,
  ⟨0x308030, [], 13, 0, [⟨0, 3, .rt, 0, 0⟩, ⟨3, 2, .rt, 0, 0⟩, ⟨5, 1, .rt, 0, 0⟩]⟩,
  ⟨0x302034, [], 10, 0, [⟨0, 16, .ro, 0, 0⟩, ⟨16, 16, .ro, 0, 0⟩]⟩,
  ⟨0x304034, [], 11, 0, [⟨0, 16, .ro, 0, 0⟩, ⟨16, 16, .ro, 0, 0⟩]⟩,
  ⟨0x306034, [], 12, 0, [⟨0, 16, .ro, 0, 0⟩, ⟨16, 16, .ro, 0, 0⟩]⟩,
  ⟨0x308034, [], 13, 0, [⟨0, 16, .ro, 0, 0⟩, ⟨16, 16, .ro, 0, 0⟩]⟩,
  ⟨0x302038, [], 10, 0, [⟨0, 23, .ro, 0, 0⟩]⟩,
  ⟨0x30203C, [], 10, 0, [⟨0, 32, .ro, 0, 0⟩]⟩,
  ⟨0x302040, [], 10, 0, [⟨0, 32, .ro, 0, 0⟩]⟩,
  ⟨0x304038, [], 11, 0, [⟨0, 23, .ro, 0, 0⟩]⟩,
  ⟨0x30403C, [], 11, 0, [⟨0, 32, .ro, 0, 0⟩]⟩,
  ⟨0x304040, [], 11, 0, [⟨0, 32, .ro, 0, 0⟩]⟩,
  ⟨0x306038, [], 12, 0, [⟨0, 23, .ro, 0, 0⟩]⟩,
  ⟨0x30603C, [], 12, 0, [⟨0, 32, .ro, 0, 0⟩]⟩,
  ⟨0x306040, [], 12, 0, [⟨0, 32, .ro, 0, 0⟩]⟩,
  ⟨0x308038, [], 13, 0, [⟨0, 23, .ro, 0, 0⟩]⟩,
  ⟨0x30803C, [], 13, 0, [⟨0, 32, .ro, 0, 0⟩]⟩,
  ⟨0x308040, [], 13, 0, [⟨0, 32, .ro, 0, 0⟩]⟩,
  ⟨0x302050, [], 10, 1, [⟨0, 32, .ro, 0, 0⟩]⟩,
  ⟨0x302054, [], 10, 2, [⟨0, 16, .ro, 0, 0⟩]⟩,
  ⟨0x302058, [], 10, 1, [⟨0, 32, .ro, 0, 0⟩]⟩,
  ⟨0x30205C, [], 10, 2, [⟨0, 16, .ro, 0, 0⟩]⟩,
  ⟨0x302060, [], 10, 1, [⟨0, 32, .ro, 0, 0⟩]⟩,
  ⟨0x302064, [], 10, 2, [⟨0, 16, .ro, 0, 0⟩]⟩,
  ⟨0x302068, [], 10, 1, [⟨0, 32, .ro, 0, 0⟩]⟩,
  ⟨0x30206C, [], 10, 2, [⟨0, 16, .ro, 0, 0⟩]⟩,
  ⟨0x302070, [], 10, 1, [⟨0, 32, .ro, 0, 0⟩]⟩,
  ⟨0x302074, [], 10, 2, [⟨0, 16, .ro, 0, 0⟩]⟩,
  ⟨0x304050, [], 11, 1, [⟨0, 32, .ro, 0, 0⟩]⟩,
  ⟨0x304054, [], 11, 2, [⟨0, 16, .ro, 0, 0⟩]⟩,
  ⟨0x304058, [], 11, 1, [⟨0, 32, .ro, 0, 0⟩]⟩,
  ⟨0x30405C, [], 11, 2, [⟨0, 16, .ro, 0, 0⟩]⟩,
  ⟨0x304060, [], 11, 1, [⟨0, 32, .ro, 0, 0⟩]⟩,
  ⟨0x304064, [], 11, 2, [⟨0, 16, .ro, 0, 0⟩]⟩,
  ⟨0x304068, [], 11, 1, [⟨0, 32, .ro, 0, 0⟩]⟩,
  ⟨0x30406C, [], 11, 2, [⟨0, 16, .ro, 0, 0⟩]⟩,
  ⟨0x304070, [], 11, 1, [⟨0, 32, .ro, 0, 0⟩]⟩,
  ⟨0x304074, [], 11, 2, [⟨0, 16, .ro, 0, 0⟩]⟩,
  ⟨0x306050, [], 12, 1, [⟨0, 32, .ro, 0, 0⟩]⟩]

def RegMap.rfp2 : List RegD := [
  ⟨0x306054, [], 12, 2, [⟨0, 16, .ro, 0, 0⟩]⟩,
  ⟨0x306058, [], 12, 1, [⟨0, 32, .ro, 0, 0⟩]⟩,
  ⟨0x30605C, [], 12, 2, [⟨0, 16, .ro, 0, 0⟩]⟩,
  ⟨0x306060, [], 12, 1, [⟨0, 32, .ro, 0, 0⟩]⟩,
  ⟨0x306064, [], 12, 2, [⟨0, 16, .ro, 0, 0⟩]⟩,
  ⟨0x306068, [], 12, 1, [⟨0, 32, .ro, 0, 0⟩]⟩,
  ⟨0x30606C, [], 12, 2, [⟨0, 16, .ro, 0, 0⟩]⟩,
  ⟨0x306070, [], 12, 1, [⟨0, 32, .ro, 0, 0⟩]⟩,
  ⟨0x306074, [], 12, 2, [⟨0, 16, .ro, 0, 0⟩]⟩,
  ⟨0x308050, [], 13, 1, [⟨0, 32, .ro, 0, 0⟩]⟩,
  ⟨0x308054, [], 13, 2, [⟨0, 16, .ro, 0, 0⟩]⟩,
  ⟨0x308058, [], 13, 1, [⟨0, 32, .ro, 0, 0⟩]⟩,
  ⟨0x30805C, [], 13, 2, [⟨0, 16, .ro, 0, 0⟩]⟩,
  ⟨0x308060, [], 13, 1, [⟨0, 32, .ro, 0, 0⟩]⟩,
  ⟨0x308064, [], 13, 2, [⟨0, 16, .ro, 0, 0⟩]⟩,
  ⟨0x308068, [], 13, 1, [⟨0, 32, .ro, 0, 0⟩]⟩,
  ⟨0x30806C, [], 13, 2, [⟨0, 16, .ro, 0, 0⟩]⟩,
  ⟨0x308070, [], 13, 1, [⟨0, 32, .ro, 0, 0⟩]⟩,
  ⟨0x308074, [], 13, 2, [⟨0, 16, .ro, 0, 0⟩]⟩,
  ⟨0x303000, [(8, 128)], 10, 0, [⟨0, 18, .wl, 0, 0⟩, ⟨18, 2, .wl, 0, 0⟩, ⟨20, 1, .wl, 0, 0⟩, ⟨21, 1, .wl, 0, 0⟩]⟩,
  ⟨0x303004, [(8, 128)], 10, 0, [⟨0, 11, .rt, 0, 0⟩, ⟨11, 1, .rt, 0, 0⟩, ⟨12, 1, .rt, 0, 0⟩]⟩,
  ⟨0x305000, [(8, 128)], 11, 0, [⟨0, 18, .wl, 0, 0⟩, ⟨18, 2, .wl, 0, 0⟩, ⟨20, 1, .wl, 0, 0⟩, ⟨21, 1, .wl, 0, 0⟩]⟩,
  ⟨0x305004, [(8, 128)], 11, 0, [⟨0, 11, .rt, 0, 0⟩, ⟨11, 1, .rt, 0, 0⟩, ⟨12, 1, .rt, 0, 0⟩]⟩,
  ⟨0x307000, [(8, 128)], 12, 0, [⟨0, 18, .wl, 0, 0⟩, ⟨18, 2, .wl, 0, 0⟩, ⟨20, 1, .wl, 0, 0⟩, ⟨21, 1, .wl, 0, 0⟩]⟩,
  ⟨0x307004, [(8, 128)], 12, 0, [⟨0, 11, .rt, 0, 0⟩, ⟨11, 1, .rt, 0, 0⟩, ⟨12, 1, .rt, 0, 0⟩]⟩,
  ⟨0x309000, [(8, 128)], 13, 0, [⟨0, 18, .wl, 0, 0⟩, ⟨18, 2, .wl, 0, 0⟩, ⟨20, 1, .wl, 0, 0⟩, ⟨21, 1, .wl, 0, 0⟩]⟩,
  ⟨0x309004, [(8, 128)], 13, 0, [⟨0, 11, .rt, 0, 0⟩, ⟨11, 1, .rt, 0, 0⟩, ⟨12, 1, .rt, 0, 0⟩]⟩,
  ⟨0x300000, [], 1, 0, [⟨0, 1, .rt, 0, 0⟩, ⟨8, 4, .rt, 0, 0⟩, ⟨12, 4, .rt, 0, 0⟩]⟩,
  ⟨0x300004, [], 1, 0, [⟨0, 1, .wl, 0, 0⟩, ⟨1, 1, .wl, 0, 0⟩]⟩,
  ⟨0x300010, [], 1, 0, [⟨0, 16, .pw, 0, 0⟩, ⟨16, 8, .pw, 0, 0⟩, ⟨24, 1, .pw, 0, 0⟩, ⟨25, 2, .pw, 0, 0⟩]⟩,
  ⟨0x300014, [], 1, 0, [⟨0, 8, .ro, 0, 0⟩, ⟨8, 1, .ro, 0, 0⟩, ⟨9, 1, .ro, 0, 0⟩]⟩]

/-- The registers of RFP (unit index 3 of R40). -/
def RegMap.rfp : List RegD := RegMap.rfp0 ++ RegMap.rfp1 ++ RegMap.rfp2

def RegMap.dmx0 : List RegD := [
  ⟨0x40FFF0, [], 1, 0, [⟨0, 8, .wo, 0, 0⟩, ⟨8, 1, .wo, 0, 0⟩, ⟨9, 1, .wo, 0, 0⟩]⟩,
  ⟨0x40FFF4, [], 1, 0, [⟨0, 8, .rt, 0, 0⟩, ⟨8, 8, .ro, 0, 0⟩, ⟨16, 16, .ro, 0, 0⟩]⟩,
  ⟨0x40FFFC, [], 1, 0, [⟨0, 8, .ro, 4, 0⟩, ⟨8, 8, .ro, 1, 0⟩]⟩,
  ⟨0x400020, [(4, 8)], 1, 0, [⟨0, 32, .ro, 0, 0⟩]⟩,
  ⟨0x400100, [], 1, 1, [⟨0, 32, .ro, 0, 0⟩]⟩,
  ⟨0x400104, [], 1, 2, [⟨0, 16, .ro, 0, 0⟩]⟩,
  ⟨0x400108, [], 1, 1, [⟨0, 32, .ro, 0, 0⟩]⟩,
  ⟨0x40010C, [], 1, 2, [⟨0, 16, .ro, 0, 0⟩]⟩,
  ⟨0x400110, [], 1, 1, [⟨0, 32, .ro, 0, 0⟩]⟩,
  ⟨0x400114, [], 1, 2, [⟨0, 16, .ro, 0, 0⟩]⟩,
  ⟨0x400118, [], 1, 1, [⟨0, 32, .ro, 0, 0⟩]⟩,
  ⟨0x40011C, [], 1, 2, [⟨0, 16, .ro, 0, 0⟩]⟩,
  ⟨0x400120, [], 1, 1, [⟨0, 32, .ro, 0, 0⟩]⟩,
  ⟨0x400124, [], 1, 2, [⟨0, 16, .ro, 0, 0⟩]⟩,
  ⟨0x400128, [], 1, 1, [⟨0, 32, .ro, 0, 0⟩]⟩,
  ⟨0x40012C, [], 1, 2, [⟨0, 16, .ro, 0, 0⟩]⟩,
  ⟨0x400130, [], 1, 1, [⟨0, 32, .ro, 0, 0⟩]⟩,
  ⟨0x400134, [], 1, 2, [⟨0, 16, .ro, 0, 0⟩]⟩,
  ⟨0x400138, [], 1, 1, [⟨0, 32, .ro, 0, 0⟩]⟩,
  ⟨0x40013C, [], 1, 2, [⟨0, 16, .ro, 0, 0⟩]⟩,
  ⟨0x400140, [], 1, 1, [⟨0, 32, .ro, 0, 0⟩]⟩,
  ⟨0x400144, [], 1, 2, [⟨0, 16, .ro, 0, 0⟩]⟩,
  ⟨0x400148, [], 1, 1, [⟨0, 32, .ro, 0, 0⟩]⟩,
  ⟨0x40014C, [], 1, 2, [⟨0, 16, .ro, 0, 0⟩]⟩,
  ⟨0x400150, [], 1, 1, [⟨0, 32, .ro, 0, 0⟩]⟩,
  ⟨0x400154, [], 1, 2, [⟨0, 16, .ro, 0, 0⟩]⟩,
  ⟨0x400158, [], 1, 1, [⟨0, 32, .ro, 0, 0⟩]⟩,
  ⟨0x40015C, [], 1, 2, [⟨0, 16, .ro, 0, 0⟩]⟩,
  ⟨0x400160, [], 1, 1, [⟨0, 32, .ro, 0, 0⟩]⟩,
  ⟨0x400164, [], 1, 2, [⟨0, 16, .ro, 0, 0⟩]⟩,
  ⟨0x400168, [], 1, 1, [⟨0, 32, .ro, 0, 0⟩]⟩,
  ⟨0x40016C, [], 1, 2, [⟨0, 16, .ro, 0, 0⟩]⟩,
  ⟨0x400170, [], 1, 1, [⟨0, 32, .ro, 0, 0⟩]⟩,
  ⟨0x400174, [], 1, 2, [⟨0, 16, .ro, 0, 0⟩]⟩,
  ⟨0x400178, [], 1, 1, [⟨0, 32, .ro, 0, 0⟩]⟩,
  ⟨0x40017C, [], 1, 2, [⟨0, 16, .ro, 0, 0⟩]⟩,
  ⟨0x400180, [], 1, 1, [⟨0, 32, .ro, 0, 0⟩]⟩,
  ⟨0x400184, [], 1, 2, [⟨0, 16, .ro, 0, 0⟩]⟩,
  ⟨0x404000, [], 2, 0, [⟨0, 6, .rt, 0, 0⟩, ⟨6, 1, .rt, 0, 0⟩]⟩,
  ⟨0x405000, [], 3, 0, [⟨0, 6, .rt, 0, 0⟩, ⟨6, 1, .rt, 0, 0⟩]⟩]

def RegMap.dmx1 : List RegD := [
  ⟨0x406000, [], 4, 0, [⟨0, 6, .rt, 0, 0⟩, ⟨6, 1, .rt, 0, 0⟩]⟩,
  ⟨0x407000, [], 5, 0, [⟨0, 6, .rt, 0, 0⟩, ⟨6, 1, .rt, 0, 0⟩]⟩,
  ⟨0x408000, [], 6, 0, [⟨0, 6, .rt, 0, 0⟩, ⟨6, 1, .rt, 0, 0⟩]⟩,
  ⟨0x409000, [], 7, 0, [⟨0, 6, .rt, 0, 0⟩, ⟨6, 1, .rt, 0, 0⟩]⟩,
  ⟨0x40A000, [], 8, 0, [⟨0, 6, .rt, 0, 0⟩, ⟨6, 1, .rt, 0, 0⟩]⟩,
  ⟨0x40B000, [], 9, 0, [⟨0, 6, .rt, 0, 0⟩, ⟨6, 1, .rt, 0, 0⟩]⟩,
  ⟨0x404004, [], 2, 0, [⟨0, 7, .sc, 0x18, 0⟩]⟩,
  ⟨0x405004, [], 3, 0, [⟨0, 7, .sc, 0x18, 1⟩]⟩,
  ⟨0x406004, [], 4, 0, [⟨0, 7, .sc, 0x18, 2⟩]⟩,
  ⟨0x407004, [], 5, 0, [⟨0, 7, .sc, 0x18, 3⟩]⟩,
  ⟨0x408004, [], 6, 0, [⟨0, 7, .sc, 0x18, 4⟩]⟩,
  ⟨0x409004, [], 7, 0, [⟨0, 7, .sc, 0x18, 5⟩]⟩,
  ⟨0x40A004, [], 8, 0, [⟨0, 7, .sc, 0x18, 6⟩]⟩,
  ⟨0x40B004, [], 9, 0, [⟨0, 7, .sc, 0x18, 7⟩]⟩,
  ⟨0x404100, [(4, 64)], 2, 0, [⟨0, 9, .wl, 0, 0⟩, ⟨9, 1, .wl, 0, 0⟩, ⟨10, 6, .wl, 0, 0⟩]⟩,
  ⟨0x405100, [(4, 64)], 3, 0, [⟨0, 9, .wl, 0, 0⟩, ⟨9, 1, .wl, 0, 0⟩, ⟨10, 6, .wl, 0, 0⟩]⟩,
  ⟨0x406100, [(4, 64)], 4, 0, [⟨0, 9, .wl, 0, 0⟩, ⟨9, 1, .wl, 0, 0⟩, ⟨10, 6, .wl, 0, 0⟩]⟩,
  ⟨0x407100, [(4, 64)], 5, 0, [⟨0, 9, .wl, 0, 0⟩, ⟨9, 1, .wl, 0, 0⟩, ⟨10, 6, .wl, 0, 0⟩]⟩,
  ⟨0x408100, [(4, 64)], 6, 0, [⟨0, 9, .wl, 0, 0⟩, ⟨9, 1, .wl, 0, 0⟩, ⟨10, 6, .wl, 0, 0⟩]⟩,
  ⟨0x409100, [(4, 64)], 7, 0, [⟨0, 9, .wl, 0, 0⟩, ⟨9, 1, .wl, 0, 0⟩, ⟨10, 6, .wl, 0, 0⟩]⟩,
  ⟨0x40A100, [(4, 64)], 8, 0, [⟨0, 9, .wl, 0, 0⟩, ⟨9, 1, .wl, 0, 0⟩, ⟨10, 6, .wl, 0, 0⟩]⟩,
  ⟨0x40B100, [(4, 64)], 9, 0, [⟨0, 9, .wl, 0, 0⟩, ⟨9, 1, .wl, 0, 0⟩, ⟨10, 6, .wl, 0, 0⟩]⟩,
  ⟨0x404200, [(4, 32)], 2, 0, [⟨0, 3, .rt, 0, 0⟩, ⟨3, 1, .rt, 0, 0⟩, ⟨4, 1, .rt, 0, 0⟩, ⟨5, 9, .rt, 0, 0⟩]⟩,
  ⟨0x405200, [(4, 32)], 3, 0, [⟨0, 3, .rt, 0, 0⟩, ⟨3, 1, .rt, 0, 0⟩, ⟨4, 1, .rt, 0, 0⟩, ⟨5, 9, .rt, 0, 0⟩]⟩,
  ⟨0x406200, [(4, 32)], 4, 0, [⟨0, 3, .rt, 0, 0⟩, ⟨3, 1, .rt, 0, 0⟩, ⟨4, 1, .rt, 0, 0⟩, ⟨5, 9, .rt, 0, 0⟩]⟩,
  ⟨0x407200, [(4, 32)], 5, 0, [⟨0, 3, .rt, 0, 0⟩, ⟨3, 1, .rt, 0, 0⟩, ⟨4, 1, .rt, 0, 0⟩, ⟨5, 9, .rt, 0, 0⟩]⟩,
  ⟨0x408200, [(4, 32)], 6, 0, [⟨0, 3, .rt, 0, 0⟩, ⟨3, 1, .rt, 0, 0⟩, ⟨4, 1, .rt, 0, 0⟩, ⟨5, 9, .rt, 0, 0⟩]⟩,
  ⟨0x409200, [(4, 32)], 7, 0, [⟨0, 3, .rt, 0, 0⟩, ⟨3, 1, .rt, 0, 0⟩, ⟨4, 1, .rt, 0, 0⟩, ⟨5, 9, .rt, 0, 0⟩]⟩,
  ⟨0x40A200, [(4, 32)], 8, 0, [⟨0, 3, .rt, 0, 0⟩, ⟨3, 1, .rt, 0, 0⟩, ⟨4, 1, .rt, 0, 0⟩, ⟨5, 9, .rt, 0, 0⟩]⟩,
  ⟨0x40B200, [(4, 32)], 9, 0, [⟨0, 3, .rt, 0, 0⟩, ⟨3, 1, .rt, 0, 0⟩, ⟨4, 1, .rt, 0, 0⟩, ⟨5, 9, .rt, 0, 0⟩]⟩,
  ⟨0x400000, [], 1, 0, [⟨0, 9, .rt, 0, 0⟩, ⟨9, 7, .rt, 0, 0⟩, ⟨16, 8, .rt, 0, 0⟩, ⟨24, 1, .rt, 0, 0⟩]⟩,
  ⟨0x400004, [], 1, 0, [⟨0, 8, .wl, 0xFF, 0⟩, ⟨8, 1, .wl, 1, 0⟩, ⟨9, 6, .wl, 0xA, 0⟩]⟩,
  ⟨0x400008, [], 1, 0, [⟨0, 6, .rw, 0xC, 0⟩, ⟨6, 6, .rw, 0x28, 0⟩, ⟨12, 8, .rw, 0x10, 0⟩, ⟨20, 6, .rw, 8, 0⟩, ⟨26, 6, .rw, 0x14, 0⟩]⟩,
  ⟨0x40000C, [], 1, 0, [⟨0, 2, .rw, 0, 0⟩]⟩,
  ⟨0x400010, [], 1, 0, [⟨0, 10, .rt, 0, 0⟩, ⟨10, 1, .rt, 1, 0⟩]⟩,
  ⟨0x400014, [], 1, 0, [⟨0, 1, .wo, 0, 0⟩]⟩]

/-- The registers of DMX (unit index 4 of R40). -/
def RegMap.dmx : List RegD := RegMap.dmx0 ++ RegMap.dmx1

def RegMap.sic0 : List RegD := [
  ⟨0x50FFFC, [], 14, 0, [⟨0, 8, .ro, 5, 0⟩, ⟨8, 8, .ro, 1, 0⟩]⟩,
  ⟨0x500020, [(4, 4)], 14, 0, [⟨0, 32, .ro, 0, 0⟩]⟩,
  ⟨0x500100, [], 14, 1, [⟨0, 32, .ro, 0, 0⟩]⟩,
  ⟨0x500104, [], 14, 2, [⟨0, 16, .ro, 0, 0⟩]⟩,
  ⟨0x500108, [], 14, 1, [⟨0, 32, .ro, 0, 0⟩]⟩,
  ⟨0x50010C, [], 14, 2, [⟨0, 16, .ro, 0, 0⟩]⟩,
  ⟨0x500110, [], 14, 1, [⟨0, 32, .ro, 0, 0⟩]⟩,
  ⟨0x500114, [], 14, 2, [⟨0, 16, .ro, 0, 0⟩]⟩,
  ⟨0x500118, [], 14, 1, [⟨0, 32, .ro, 0, 0⟩]⟩,
  ⟨0x50011C, [], 14, 2, [⟨0, 16, .ro, 0, 0⟩]⟩,
  ⟨0x500120, [], 14, 1, [⟨0, 32, .ro, 0, 0⟩]⟩,
  ⟨0x500124, [], 14, 2, [⟨0, 16, .ro, 0, 0⟩]⟩,
  ⟨0x500128, [], 14, 1, [⟨0, 32, .ro, 0, 0⟩]⟩,
  ⟨0x50012C, [], 14, 2, [⟨0, 16, .ro, 0, 0⟩]⟩,
  ⟨0x500130, [], 14, 1, [⟨0, 32, .ro, 0, 0⟩]⟩,
  ⟨0x500134, [], 14, 2, [⟨0, 16, .ro, 0, 0⟩]⟩,
  ⟨0x500138, [], 14, 1, [⟨0, 32, .ro, 0, 0⟩]⟩,
  ⟨0x50013C, [], 14, 2, [⟨0, 16, .ro, 0, 0⟩]⟩,
  ⟨0x500140, [], 14, 1, [⟨0, 32, .ro, 0, 0⟩]⟩,
  ⟨0x500144, [], 14, 2, [⟨0, 16, .ro, 0, 0⟩]⟩,
  ⟨0x500148, [], 14, 1, [⟨0, 32, .ro, 0, 0⟩]⟩,
  ⟨0x50014C, [], 14, 2, [⟨0, 16, .ro, 0, 0⟩]⟩,
  ⟨0x500150, [], 14, 1, [⟨0, 32, .ro, 0, 0⟩]⟩,
  ⟨0x500154, [], 14, 2, [⟨0, 16, .ro, 0, 0⟩]⟩,
  ⟨0x500158, [], 14, 1, [⟨0, 32, .ro, 0, 0⟩]⟩,
  ⟨0x50015C, [], 14, 2, [⟨0, 16, .ro, 0, 0⟩]⟩,
  ⟨0x500160, [], 14, 1, [⟨0, 32, .ro, 0, 0⟩]⟩,
  ⟨0x500164, [], 14, 2, [⟨0, 16, .ro, 0, 0⟩]⟩,
  ⟨0x500168, [], 14, 1, [⟨0, 32, .ro, 0, 0⟩]⟩,
  ⟨0x50016C, [], 14, 2, [⟨0, 16, .ro, 0, 0⟩]⟩,
  ⟨0x500170, [], 14, 1, [⟨0, 32, .ro, 0, 0⟩]⟩,
  ⟨0x500174, [], 14, 2, [⟨0, 16, .ro, 0, 0⟩]⟩,
  ⟨0x500178, [], 14, 1, [⟨0, 32, .ro, 0, 0⟩]⟩,
  ⟨0x50017C, [], 14, 2, [⟨0, 16, .ro, 0, 0⟩]⟩,
  ⟨0x500180, [], 14, 1, [⟨0, 32, .ro, 0, 0⟩]⟩,
  ⟨0x500184, [], 14, 2, [⟨0, 16, .ro, 0, 0⟩]⟩,
  ⟨0x500000, [], 14, 0, [⟨0, 4, .rt, 0, 0⟩, ⟨4, 7, .rt, 0, 0⟩, ⟨11, 1, .rt, 0, 0⟩, ⟨12, 1, .rt, 0, 0⟩]⟩,
  ⟨0x500004, [], 14, 0, [⟨0, 6, .rw, 0x10, 0⟩, ⟨6, 1, .rw, 1, 0⟩, ⟨7, 1, .rw, 1, 0⟩]⟩,
  ⟨0x500008, [], 14, 0, [⟨0, 1, .rw, 0, 0⟩]⟩,
  ⟨0x500010, [], 14, 0, [⟨0, 9, .rt, 0, 0⟩, ⟨9, 1, .rt, 1, 0⟩]⟩]

def RegMap.sic1 : List RegD := [
  ⟨0x500014, [], 14, 0, [⟨0, 1, .wo, 0, 0⟩]⟩]

/-- The registers of SIC (unit index 5 of R40). -/
def RegMap.sic : List RegD := RegMap.sic0 ++ RegMap.sic1

def RegMap.cdc0 : List RegD := [
  ⟨0x60FFFC, [], 1, 0, [⟨0, 8, .ro, 6, 0⟩, ⟨8, 8, .ro, 1, 0⟩]⟩,
  ⟨0x600100, [], 1, 1, [⟨0, 32, .ro, 0, 0⟩]⟩,
  ⟨0x600104, [], 1, 2, [⟨0, 16, .ro, 0, 0⟩]⟩,
  ⟨0x600108, [], 1, 1, [⟨0, 32, .ro, 0, 0⟩]⟩,
  ⟨0x60010C, [], 1, 2, [⟨0, 16, .ro, 0, 0⟩]⟩,
  ⟨0x600110, [], 1, 1, [⟨0, 32, .ro, 0, 0⟩]⟩,
  ⟨0x600114, [], 1, 2, [⟨0, 16, .ro, 0, 0⟩]⟩,
  ⟨0x600118, [], 1, 1, [⟨0, 32, .ro, 0, 0⟩]⟩,
  ⟨0x60011C, [], 1, 2, [⟨0, 16, .ro, 0, 0⟩]⟩,
  ⟨0x600120, [], 1, 1, [⟨0, 32, .ro, 0, 0⟩]⟩,
  ⟨0x600124, [], 1, 2, [⟨0, 16, .ro, 0, 0⟩]⟩,
  ⟨0x600128, [], 1, 1, [⟨0, 32, .ro, 0, 0⟩]⟩,
  ⟨0x60012C, [], 1, 2, [⟨0, 16, .ro, 0, 0⟩]⟩,
  ⟨0x600130, [], 1, 1, [⟨0, 32, .ro, 0, 0⟩]⟩,
  ⟨0x600134, [], 1, 2, [⟨0, 16, .ro, 0, 0⟩]⟩,
  ⟨0x600138, [], 1, 1, [⟨0, 32, .ro, 0, 0⟩]⟩,
  ⟨0x60013C, [], 1, 2, [⟨0, 16, .ro, 0, 0⟩]⟩,
  ⟨0x600140, [], 1, 1, [⟨0, 32, .ro, 0, 0⟩]⟩,
  ⟨0x600144, [], 1, 2, [⟨0, 16, .ro, 0, 0⟩]⟩,
  ⟨0x600148, [], 1, 1, [⟨0, 32, .ro, 0, 0⟩]⟩,
  ⟨0x60014C, [], 1, 2, [⟨0, 16, .ro, 0, 0⟩]⟩,
  ⟨0x600000, [], 1, 0, [⟨0, 1, .rt, 0, 0⟩, ⟨1, 1, .rt, 0, 0⟩]⟩,
  ⟨0x600004, [], 1, 0, [⟨0, 16, .rw, 0x3E8, 0⟩, ⟨16, 16, .rw, 0x3E8, 0⟩]⟩]

/-- The registers of CDC (unit index 6 of R40). -/
def RegMap.cdc : List RegD := RegMap.cdc0

def RegMap.msq0 : List RegD := [
  ⟨0x70FFF0, [], 1, 0, [⟨0, 8, .wo, 0, 0⟩, ⟨8, 1, .wo, 0, 0⟩, ⟨9, 1, .wo, 0, 0⟩]⟩,
  ⟨0x70FFF4, [], 1, 0, [⟨0, 8, .rt, 0, 0⟩, ⟨8, 8, .ro, 0, 0⟩, ⟨16, 16, .ro, 0, 0⟩]⟩,
  ⟨0x70FFFC, [], 1, 0, [⟨0, 8, .ro, 7, 0⟩, ⟨8, 8, .ro, 1, 0⟩]⟩,
  ⟨0x700008, [], 1, 0, [⟨0, 32, .wl, 0, 0⟩]⟩,
  ⟨0x70000C, [], 1, 0, [⟨0, 32, .wl, 0, 0⟩]⟩,
  ⟨0x70001C, [], 1, 0, [⟨0, 20, .sc, 0, 3⟩, ⟨20, 1, .sc, 0, 3⟩, ⟨21, 4, .sc, 8, 3⟩]⟩,
  ⟨0x700020, [], 1, 0, [⟨0, 20, .sc, 0, 3⟩, ⟨20, 1, .sc, 0, 3⟩]⟩,
  ⟨0x700040, [(4, 16)], 1, 0, [⟨0, 32, .rw, 0, 0⟩]⟩,
  ⟨0x700100, [], 1, 1, [⟨0, 32, .ro, 0, 0⟩]⟩,
  ⟨0x700104, [], 1, 2, [⟨0, 16, .ro, 0, 0⟩]⟩,
  ⟨0x700108, [], 1, 1, [⟨0, 32, .ro, 0, 0⟩]⟩,
  ⟨0x70010C, [], 1, 2, [⟨0, 16, .ro, 0, 0⟩]⟩,
  ⟨0x700110, [], 1, 1, [⟨0, 32, .ro, 0, 0⟩]⟩,
  ⟨0x700114, [], 1, 2, [⟨0, 16, .ro, 0, 0⟩]⟩,
  ⟨0x700118, [], 1, 1, [⟨0, 32, .ro, 0, 0⟩]⟩,
  ⟨0x70011C, [], 1, 2, [⟨0, 16, .ro, 0, 0⟩]⟩,
  ⟨0x700120, [], 1, 1, [⟨0, 32, .ro, 0, 0⟩]⟩,
  ⟨0x700124, [], 1, 2, [⟨0, 16, .ro, 0, 0⟩]⟩,
  ⟨0x700128, [], 1, 1, [⟨0, 32, .ro, 0, 0⟩]⟩,
  ⟨0x70012C, [], 1, 2, [⟨0, 16, .ro, 0, 0⟩]⟩,
  ⟨0x700130, [], 1, 1, [⟨0, 32, .ro, 0, 0⟩]⟩,
  ⟨0x700134, [], 1, 2, [⟨0, 16, .ro, 0, 0⟩]⟩,
  ⟨0x700138, [], 1, 1, [⟨0, 32, .ro, 0, 0⟩]⟩,
  ⟨0x70013C, [], 1, 2, [⟨0, 16, .ro, 0, 0⟩]⟩,
  ⟨0x700140, [], 1, 1, [⟨0, 32, .ro, 0, 0⟩]⟩,
  ⟨0x700144, [], 1, 2, [⟨0, 16, .ro, 0, 0⟩]⟩,
  ⟨0x700148, [], 1, 1, [⟨0, 32, .ro, 0, 0⟩]⟩,
  ⟨0x70014C, [], 1, 2, [⟨0, 16, .ro, 0, 0⟩]⟩,
  ⟨0x700150, [], 1, 1, [⟨0, 32, .ro, 0, 0⟩]⟩,
  ⟨0x700154, [], 1, 2, [⟨0, 16, .ro, 0, 0⟩]⟩,
  ⟨0x700158, [], 1, 1, [⟨0, 32, .ro, 0, 0⟩]⟩,
  ⟨0x70015C, [], 1, 2, [⟨0, 16, .ro, 0, 0⟩]⟩,
  ⟨0x700160, [], 1, 1, [⟨0, 32, .ro, 0, 0⟩]⟩,
  ⟨0x700164, [], 1, 2, [⟨0, 16, .ro, 0, 0⟩]⟩,
  ⟨0x700168, [], 1, 1, [⟨0, 32, .ro, 0, 0⟩]⟩,
  ⟨0x70016C, [], 1, 2, [⟨0, 16, .ro, 0, 0⟩]⟩,
  ⟨0x700170, [], 1, 1, [⟨0, 32, .ro, 0, 0⟩]⟩,
  ⟨0x700174, [], 1, 2, [⟨0, 16, .ro, 0, 0⟩]⟩,
  ⟨0x700178, [], 1, 1, [⟨0, 32, .ro, 0, 0⟩]⟩,
  ⟨0x70017C, [], 1, 2, [⟨0, 16, .ro, 0, 0⟩]⟩]

def RegMap.msq1 : List RegD := [
  ⟨0x700180, [], 1, 1, [⟨0, 32, .ro, 0, 0⟩]⟩,
  ⟨0x700184, [], 1, 2, [⟨0, 16, .ro, 0, 0⟩]⟩,
  ⟨0x700188, [], 1, 1, [⟨0, 32, .ro, 0, 0⟩]⟩,
  ⟨0x70018C, [], 1, 2, [⟨0, 16, .ro, 0, 0⟩]⟩,
  ⟨0x700190, [], 1, 1, [⟨0, 32, .ro, 0, 0⟩]⟩,
  ⟨0x700194, [], 1, 2, [⟨0, 16, .ro, 0, 0⟩]⟩,
  ⟨0x700198, [], 1, 1, [⟨0, 32, .ro, 0, 0⟩]⟩,
  ⟨0x70019C, [], 1, 2, [⟨0, 16, .ro, 0, 0⟩]⟩,
  ⟨0x7001A0, [], 1, 1, [⟨0, 32, .ro, 0, 0⟩]⟩,
  ⟨0x7001A4, [], 1, 2, [⟨0, 16, .ro, 0, 0⟩]⟩,
  ⟨0x7001A8, [], 1, 1, [⟨0, 32, .ro, 0, 0⟩]⟩,
  ⟨0x7001AC, [], 1, 2, [⟨0, 16, .ro, 0, 0⟩]⟩,
  ⟨0x7001B0, [], 1, 1, [⟨0, 32, .ro, 0, 0⟩]⟩,
  ⟨0x7001B4, [], 1, 2, [⟨0, 16, .ro, 0, 0⟩]⟩,
  ⟨0x7001B8, [], 1, 1, [⟨0, 32, .ro, 0, 0⟩]⟩,
  ⟨0x7001BC, [], 1, 2, [⟨0, 16, .ro, 0, 0⟩]⟩,
  ⟨0x7001C0, [], 1, 1, [⟨0, 32, .ro, 0, 0⟩]⟩,
  ⟨0x7001C4, [], 1, 2, [⟨0, 16, .ro, 0, 0⟩]⟩,
  ⟨0x7001C8, [], 1, 1, [⟨0, 32, .ro, 0, 0⟩]⟩,
  ⟨0x7001CC, [], 1, 2, [⟨0, 16, .ro, 0, 0⟩]⟩,
  ⟨0x7001D0, [], 1, 1, [⟨0, 32, .ro, 0, 0⟩]⟩,
  ⟨0x7001D4, [], 1, 2, [⟨0, 16, .ro, 0, 0⟩]⟩,
  ⟨0x701000, [(8, 16)], 1, 0, [⟨0, 14, .sc, 0x4B0, 1⟩, ⟨14, 13, .sc, 0x10D, 1⟩, ⟨27, 2, .sc, 0, 1⟩, ⟨29, 1, .sc, 0, 1⟩, ⟨30, 2, .sc, 2, 1⟩]⟩,
  ⟨0x701004, [(8, 16)], 1, 0, [⟨0, 3, .sc, 1, 1⟩, ⟨3, 3, .sc, 4, 1⟩, ⟨6, 2, .sc, 3, 1⟩, ⟨8, 1, .sc, 0, 1⟩, ⟨9, 13, .sc, 0x264, 1⟩]⟩,
  ⟨0x702000, [(256, 4)], 1, 0, [⟨0, 8, .wl, 0, 0⟩, ⟨8, 8, .ro, 0, 0⟩]⟩,
  ⟨0x702010, [(256, 4), (4, 32)], 1, 0, [⟨0, 32, .wl, 0, 0⟩]⟩,
  ⟨0x7020A0, [(256, 4), (4, 4)], 1, 0, [⟨0, 32, .sc, 0xFFFFFFFF, 2⟩]⟩,
  ⟨0x700000, [], 1, 0, [⟨0, 17, .rt, 0, 0⟩, ⟨17, 1, .rt, 0, 0⟩, ⟨18, 1, .rt, 0, 0⟩, ⟨19, 1, .rt, 0, 0⟩]⟩,
  ⟨0x700004, [], 1, 0, [⟨0, 6, .wl, 0, 0⟩, ⟨6, 1, .wl, 1, 0⟩]⟩,
  ⟨0x700010, [], 1, 0, [⟨0, 10, .sc, 0x113, 0⟩, ⟨10, 10, .sc, 0x19, 0⟩, ⟨20, 8, .sc, 0x14, 0⟩]⟩,
  ⟨0x700014, [], 1, 0, [⟨0, 4, .rw, 4, 0⟩]⟩,
  ⟨0x700018, [], 1, 0, [⟨0, 16, .rw, 0x64, 0⟩, ⟨16, 16, .rw, 0x64, 0⟩]⟩,
  ⟨0x700024, [], 1, 0, [⟨0, 17, .rt, 0, 0⟩]⟩,
  ⟨0x700030, [], 1, 0, [⟨0, 16, .wo, 0, 0⟩, ⟨16, 2, .wo, 0, 0⟩]⟩,
  ⟨0x700034, [], 1, 0, [⟨0, 1, .rt, 0, 0⟩, ⟨1, 2, .ro, 0, 0⟩]⟩]

/-- The registers of MSQ (unit index 7 of R40). -/
def RegMap.msq : List RegD := RegMap.msq0 ++ RegMap.msq1

def RegMap.bgt0 : List RegD := [
  ⟨0x80FFFC, [], 1, 0, [⟨0, 8, .ro, 8, 0⟩, ⟨8, 8, .ro, 1, 0⟩]⟩,
  ⟨0x801000, [(32, 16)], 1, 0, [⟨0, 32, .wl, 0, 0⟩]⟩,
  ⟨0x801004, [(32, 16)], 1, 0, [⟨0, 32, .wl, 0, 0⟩]⟩,
  ⟨0x801008, [(32, 16)], 1, 0, [⟨0, 2, .wl, 0, 0⟩, ⟨2, 2, .wl, 0, 0⟩, ⟨4, 1, .wl, 0, 0⟩, ⟨5, 1, .wl, 0, 0⟩, ⟨6, 12, .wl, 0, 0⟩, ⟨18, 8, .wl, 0, 0⟩]⟩,
  ⟨0x80100C, [(32, 16)], 1, 0, [⟨0, 32, .wl, 0, 0⟩]⟩,
  ⟨0x801010, [(32, 16)], 1, 0, [⟨0, 32, .wl, 0, 0⟩]⟩,
  ⟨0x801014, [(32, 16)], 1, 0, [⟨0, 16, .wl, 0, 0⟩, ⟨16, 16, .wl, 0, 0⟩]⟩,
  ⟨0x801018, [(32, 16)], 1, 0, [⟨0, 10, .wl, 0, 0⟩, ⟨10, 10, .wl, 0, 0⟩, ⟨20, 8, .wl, 0, 0⟩, ⟨28, 2, .wl, 1, 0⟩]⟩,
  ⟨0x80101C, [(32, 16)], 1, 3, [⟨0, 32, .rt, 0, 0⟩]⟩,
  ⟨0x800100, [], 1, 1, [⟨0, 32, .ro, 0, 0⟩]⟩,
  ⟨0x800104, [], 1, 2, [⟨0, 16, .ro, 0, 0⟩]⟩,
  ⟨0x800108, [], 1, 1, [⟨0, 32, .ro, 0, 0⟩]⟩,
  ⟨0x80010C, [], 1, 2, [⟨0, 16, .ro, 0, 0⟩]⟩,
  ⟨0x800110, [], 1, 1, [⟨0, 32, .ro, 0, 0⟩]⟩,
  ⟨0x800114, [], 1, 2, [⟨0, 16, .ro, 0, 0⟩]⟩,
  ⟨0x800118, [], 1, 1, [⟨0, 32, .ro, 0, 0⟩]⟩,
  ⟨0x80011C, [], 1, 2, [⟨0, 16, .ro, 0, 0⟩]⟩,
  ⟨0x800120, [], 1, 1, [⟨0, 32, .ro, 0, 0⟩]⟩,
  ⟨0x800124, [], 1, 2, [⟨0, 16, .ro, 0, 0⟩]⟩,
  ⟨0x800128, [], 1, 1, [⟨0, 32, .ro, 0, 0⟩]⟩,
  ⟨0x80012C, [], 1, 2, [⟨0, 16, .ro, 0, 0⟩]⟩,
  ⟨0x800130, [], 1, 1, [⟨0, 32, .ro, 0, 0⟩]⟩,
  ⟨0x800134, [], 1, 2, [⟨0, 16, .ro, 0, 0⟩]⟩,
  ⟨0x800138, [], 1, 1, [⟨0, 32, .ro, 0, 0⟩]⟩,
  ⟨0x80013C, [], 1, 2, [⟨0, 16, .ro, 0, 0⟩]⟩,
  ⟨0x800140, [], 1, 1, [⟨0, 32, .ro, 0, 0⟩]⟩,
  ⟨0x800144, [], 1, 2, [⟨0, 16, .ro, 0, 0⟩]⟩,
  ⟨0x801400, [(8, 16)], 1, 1, [⟨0, 32, .ro, 0, 0⟩]⟩,
  ⟨0x801404, [(8, 16)], 1, 2, [⟨0, 16, .ro, 0, 0⟩]⟩,
  ⟨0x800000, [], 1, 0, [⟨0, 16, .rt, 0, 0⟩, ⟨16, 1, .ro, 0, 0⟩]⟩,
  ⟨0x800004, [], 1, 0, [⟨0, 1, .wl, 1, 0⟩]⟩,
  ⟨0x800008, [], 1, 0, [⟨0, 7, .rw, 0x5A, 0⟩, ⟨7, 16, .rw, 0x3E8, 0⟩]⟩]

/-- The registers of BGT (unit index 8 of R40). -/
def RegMap.bgt : List RegD := RegMap.bgt0

def RegMap.slv0 : List RegD := [
  ⟨0x90FFF0, [], 15, 0, [⟨0, 8, .wo, 0, 0⟩, ⟨8, 1, .wo, 0, 0⟩, ⟨9, 1, .wo, 0, 0⟩]⟩,
  ⟨0x90FFF4, [], 15, 0, [⟨0, 8, .rt, 0, 0⟩, ⟨8, 8, .ro, 0, 0⟩, ⟨16, 16, .ro, 0, 0⟩]⟩,
  ⟨0x90FFFC, [], 15, 0, [⟨0, 8, .ro, 9, 0⟩, ⟨8, 8, .ro, 1, 0⟩]⟩,
  ⟨0x900020, [(4, 8)], 15, 0, [⟨0, 17, .wl, 0, 0⟩]⟩,
  ⟨0x900040, [(4, 16)], 15, 0, [⟨0, 16, .wl, 0, 0⟩, ⟨16, 3, .wl, 0, 0⟩, ⟨19, 6, .wl, 0, 0⟩, ⟨25, 4, .wl, 0, 0⟩, ⟨29, 2, .wl, 0, 0⟩]⟩,
  ⟨0x900110, [(4, 8)], 15, 0, [⟨0, 32, .rw, 0, 0⟩]⟩,
  ⟨0x900130, [(4, 8)], 15, 0, [⟨0, 32, .ro, 0, 0⟩]⟩,
  ⟨0x900200, [], 15, 0, [⟨0, 11, .rt, 0, 0⟩, ⟨11, 1, .rt, 1, 0⟩]⟩,
  ⟨0x900220, [], 15, 0, [⟨0, 11, .rt, 0, 0⟩, ⟨11, 1, .rt, 1, 0⟩]⟩,
  ⟨0x900204, [], 15, 0, [⟨0, 1, .wo, 0, 0⟩]⟩,
  ⟨0x900224, [], 15, 0, [⟨0, 1, .wo, 0, 0⟩]⟩,
  ⟨0x900210, [(4, 4)], 15, 0, [⟨0, 32, .ro, 0, 0⟩]⟩,
  ⟨0x900230, [(4, 2)], 15, 0, [⟨0, 32, .ro, 0, 0⟩]⟩,
  ⟨0x900300, [(16, 4), (4, 4)], 15, 0, [⟨0, 32, .ro, 0xFFFFFFFF, 0⟩]⟩,
  ⟨0x900400, [], 15, 1, [⟨0, 32, .ro, 0, 0⟩]⟩,
  ⟨0x900404, [], 15, 2, [⟨0, 16, .ro, 0, 0⟩]⟩,
  ⟨0x900408, [], 15, 1, [⟨0, 32, .ro, 0, 0⟩]⟩,
  ⟨0x90040C, [], 15, 2, [⟨0, 16, .ro, 0, 0⟩]⟩,
  ⟨0x900410, [], 15, 1, [⟨0, 32, .ro, 0, 0⟩]⟩,
  ⟨0x900414, [], 15, 2, [⟨0, 16, .ro, 0, 0⟩]⟩,
  ⟨0x900418, [], 15, 1, [⟨0, 32, .ro, 0, 0⟩]⟩,
  ⟨0x90041C, [], 15, 2, [⟨0, 16, .ro, 0, 0⟩]⟩,
  ⟨0x900420, [], 15, 1, [⟨0, 32, .ro, 0, 0⟩]⟩,
  ⟨0x900424, [], 15, 2, [⟨0, 16, .ro, 0, 0⟩]⟩,
  ⟨0x900428, [], 15, 1, [⟨0, 32, .ro, 0, 0⟩]⟩,
  ⟨0x90042C, [], 15, 2, [⟨0, 16, .ro, 0, 0⟩]⟩,
  ⟨0x900430, [], 15, 1, [⟨0, 32, .ro, 0, 0⟩]⟩,
  ⟨0x900434, [], 15, 2, [⟨0, 16, .ro, 0, 0⟩]⟩,
  ⟨0x900438, [], 15, 1, [⟨0, 32, .ro, 0, 0⟩]⟩,
  ⟨0x90043C, [], 15, 2, [⟨0, 16, .ro, 0, 0⟩]⟩,
  ⟨0x900440, [], 15, 1, [⟨0, 32, .ro, 0, 0⟩]⟩,
  ⟨0x900444, [], 15, 2, [⟨0, 16, .ro, 0, 0⟩]⟩,
  ⟨0x900448, [], 15, 1, [⟨0, 32, .ro, 0, 0⟩]⟩,
  ⟨0x90044C, [], 15, 2, [⟨0, 16, .ro, 0, 0⟩]⟩,
  ⟨0x900450, [], 15, 1, [⟨0, 32, .ro, 0, 0⟩]⟩,
  ⟨0x900454, [], 15, 2, [⟨0, 16, .ro, 0, 0⟩]⟩,
  ⟨0x900458, [], 15, 1, [⟨0, 32, .ro, 0, 0⟩]⟩,
  ⟨0x90045C, [], 15, 2, [⟨0, 16, .ro, 0, 0⟩]⟩,
  ⟨0x900000, [], 15, 0, [⟨0, 1, .rt, 0, 0⟩, ⟨1, 1, .rt, 0, 0⟩, ⟨2, 5, .rt, 0, 0⟩, ⟨7, 1, .rt, 0, 0⟩, ⟨8, 1, .rt, 0, 0⟩]⟩,
  ⟨0x900004, [], 15, 0, [⟨0, 1, .wl, 0, 0⟩, ⟨1, 8, .wl, 0, 0⟩, ⟨9, 1, .wl, 0, 0⟩]⟩]

def RegMap.slv1 : List RegD := [
  ⟨0x900008, [], 15, 0, [⟨0, 8, .sc, 0x1C, 0⟩, ⟨8, 8, .sc, 0xC, 0⟩, ⟨16, 8, .sc, 0xC0, 0⟩, ⟨24, 8, .sc, 0x64, 0⟩]⟩,
  ⟨0x90000C, [], 15, 0, [⟨0, 8, .sc, 0x28, 0⟩, ⟨8, 8, .sc, 0xC, 0⟩, ⟨16, 4, .sc, 4, 0⟩, ⟨20, 7, .sc, 0x50, 0⟩]⟩,
  ⟨0x900010, [], 15, 0, [⟨0, 7, .sc, 0xA, 0⟩, ⟨7, 8, .sc, 0x80, 0⟩, ⟨15, 4, .sc, 3, 0⟩, ⟨19, 8, .sc, 0x48, 0⟩]⟩,
  ⟨0x900100, [], 15, 0, [⟨0, 4, .wo, 0, 0⟩, ⟨4, 18, .wo, 0, 0⟩, ⟨22, 8, .wo, 0, 0⟩]⟩,
  ⟨0x900104, [], 15, 0, [⟨0, 1, .rt, 0, 0⟩]⟩]

/-- The registers of SLV (unit index 9 of R40). -/
def RegMap.slv : List RegD := RegMap.slv0 ++ RegMap.slv1

def RegMap.qmg0 : List RegD := [
  ⟨0xA0FFF0, [], 1, 0, [⟨0, 8, .wo, 0, 0⟩, ⟨8, 1, .wo, 0, 0⟩, ⟨9, 1, .wo, 0, 0⟩]⟩,
  ⟨0xA0FFF4, [], 1, 0, [⟨0, 8, .rt, 0, 0⟩, ⟨8, 8, .ro, 0, 0⟩, ⟨16, 16, .ro, 0, 0⟩]⟩,
  ⟨0xA0FFFC, [], 1, 0, [⟨0, 8, .ro, 0xA, 0⟩, ⟨8, 8, .ro, 1, 0⟩]⟩,
  ⟨0xA00008, [], 1, 0, [⟨0, 26, .ro, 0x2000, 0⟩]⟩,
  ⟨0xA0000C, [], 1, 0, [⟨0, 26, .rt, 0x2000, 0⟩]⟩,
  ⟨0xA00018, [], 1, 0, [⟨0, 32, .rt, 0, 0⟩]⟩,
  ⟨0xA0001C, [], 1, 0, [⟨0, 16, .rt, 0, 0⟩]⟩,
  ⟨0xA00020, [(4, 8)], 1, 0, [⟨0, 11, .sc, 0, 0⟩, ⟨16, 11, .sc, 0x400, 0⟩]⟩,
  ⟨0xA00040, [(4, 8)], 1, 0, [⟨0, 26, .rt, 0, 0⟩]⟩,
  ⟨0xA00080, [], 1, 0, [⟨0, 26, .rw, 0x40, 0⟩, ⟨26, 4, .rw, 0, 0⟩]⟩,
  ⟨0xA00088, [], 1, 0, [⟨0, 26, .rw, 0x100000, 0⟩, ⟨26, 4, .rw, 0, 0⟩]⟩,
  ⟨0xA00090, [], 1, 0, [⟨0, 26, .rw, 0x40000, 0⟩, ⟨26, 4, .rw, 0, 0⟩]⟩,
  ⟨0xA00098, [], 1, 0, [⟨0, 26, .rw, 0x10000, 0⟩, ⟨26, 4, .rw, 0, 0⟩]⟩,
  ⟨0xA000A0, [], 1, 0, [⟨0, 26, .rw, 0x10000, 0⟩, ⟨26, 4, .rw, 0, 0⟩]⟩,
  ⟨0xA000A8, [], 1, 0, [⟨0, 26, .rw, 0x400, 0⟩, ⟨26, 4, .rw, 0, 0⟩]⟩,
  ⟨0xA000B0, [], 1, 0, [⟨0, 26, .rw, 0x1000, 0⟩, ⟨26, 4, .rw, 0, 0⟩]⟩,
  ⟨0xA00084, [(8, 7)], 1, 0, [⟨0, 8, .rw, 0, 0⟩, ⟨8, 8, .rw, 0, 0⟩, ⟨16, 16, .rw, 0, 0⟩]⟩,
  ⟨0xA00110, [(4, 8)], 1, 0, [⟨0, 32, .rw, 0, 0⟩]⟩,
  ⟨0xA00200, [(16, 8)], 1, 0, [⟨0, 26, .wo, 0, 0⟩]⟩,
  ⟨0xA00204, [(16, 8)], 1, 0, [⟨0, 1, .wo, 0, 0⟩]⟩,
  ⟨0xA00208, [(16, 8)], 1, 0, [⟨0, 26, .ro, 0, 0⟩, ⟨26, 1, .ro, 0, 0⟩, ⟨27, 1, .ro, 0, 0⟩]⟩,
  ⟨0xA0020C, [(16, 8)], 1, 0, [⟨0, 13, .rt, 0, 0⟩, ⟨13, 1, .rw, 0, 0⟩, ⟨14, 1, .rw, 0, 0⟩, ⟨15, 13, .rt, 0, 0⟩, ⟨28, 1, .rw, 0, 0⟩]⟩,
  ⟨0xA00400, [], 1, 1, [⟨0, 32, .ro, 0, 0⟩]⟩,
  ⟨0xA00404, [], 1, 2, [⟨0, 16, .ro, 0, 0⟩]⟩,
  ⟨0xA00408, [], 1, 1, [⟨0, 32, .ro, 0, 0⟩]⟩,
  ⟨0xA0040C, [], 1, 2, [⟨0, 16, .ro, 0, 0⟩]⟩,
  ⟨0xA00410, [], 1, 1, [⟨0, 32, .ro, 0, 0⟩]⟩,
  ⟨0xA00414, [], 1, 2, [⟨0, 16, .ro, 0, 0⟩]⟩,
  ⟨0xA00418, [], 1, 1, [⟨0, 32, .ro, 0, 0⟩]⟩,
  ⟨0xA0041C, [], 1, 2, [⟨0, 16, .ro, 0, 0⟩]⟩,
  ⟨0xA00420, [], 1, 1, [⟨0, 32, .ro, 0, 0⟩]⟩,
  ⟨0xA00424, [], 1, 2, [⟨0, 16, .ro, 0, 0⟩]⟩,
  ⟨0xA00428, [], 1, 1, [⟨0, 32, .ro, 0, 0⟩]⟩,
  ⟨0xA0042C, [], 1, 2, [⟨0, 16, .ro, 0, 0⟩]⟩,
  ⟨0xA00430, [], 1, 1, [⟨0, 32, .ro, 0, 0⟩]⟩,
  ⟨0xA00434, [], 1, 2, [⟨0, 16, .ro, 0, 0⟩]⟩,
  ⟨0xA00438, [], 1, 1, [⟨0, 32, .ro, 0, 0⟩]⟩,
  ⟨0xA0043C, [], 1, 2, [⟨0, 16, .ro, 0, 0⟩]⟩,
  ⟨0xA00440, [], 1, 1, [⟨0, 32, .ro, 0, 0⟩]⟩,
  ⟨0xA00444, [], 1, 2, [⟨0, 16, .ro, 0, 0⟩]⟩]

def RegMap.qmg1 : List RegD := [
  ⟨0xA00448, [], 1, 1, [⟨0, 32, .ro, 0, 0⟩]⟩,
  ⟨0xA0044C, [], 1, 2, [⟨0, 16, .ro, 0, 0⟩]⟩,
  ⟨0xA00450, [], 1, 1, [⟨0, 32, .ro, 0, 0⟩]⟩,
  ⟨0xA00454, [], 1, 2, [⟨0, 16, .ro, 0, 0⟩]⟩,
  ⟨0xA00458, [], 1, 1, [⟨0, 32, .ro, 0, 0⟩]⟩,
  ⟨0xA0045C, [], 1, 2, [⟨0, 16, .ro, 0, 0⟩]⟩,
  ⟨0xA00460, [], 1, 1, [⟨0, 32, .ro, 0, 0⟩]⟩,
  ⟨0xA00464, [], 1, 2, [⟨0, 16, .ro, 0, 0⟩]⟩,
  ⟨0xA00468, [], 1, 1, [⟨0, 32, .ro, 0, 0⟩]⟩,
  ⟨0xA0046C, [], 1, 2, [⟨0, 16, .ro, 0, 0⟩]⟩,
  ⟨0xA00470, [], 1, 1, [⟨0, 32, .ro, 0, 0⟩]⟩,
  ⟨0xA00474, [], 1, 2, [⟨0, 16, .ro, 0, 0⟩]⟩,
  ⟨0xA00478, [], 1, 1, [⟨0, 32, .ro, 0, 0⟩]⟩,
  ⟨0xA0047C, [], 1, 2, [⟨0, 16, .ro, 0, 0⟩]⟩,
  ⟨0xA00480, [], 1, 1, [⟨0, 32, .ro, 0, 0⟩]⟩,
  ⟨0xA00484, [], 1, 2, [⟨0, 16, .ro, 0, 0⟩]⟩,
  ⟨0xA00488, [], 1, 1, [⟨0, 32, .ro, 0, 0⟩]⟩,
  ⟨0xA0048C, [], 1, 2, [⟨0, 16, .ro, 0, 0⟩]⟩,
  ⟨0xA00490, [], 1, 1, [⟨0, 32, .ro, 0, 0⟩]⟩,
  ⟨0xA00494, [], 1, 2, [⟨0, 16, .ro, 0, 0⟩]⟩,
  ⟨0xA00498, [], 1, 1, [⟨0, 32, .ro, 0, 0⟩]⟩,
  ⟨0xA0049C, [], 1, 2, [⟨0, 16, .ro, 0, 0⟩]⟩,
  ⟨0xA004A0, [], 1, 1, [⟨0, 32, .ro, 0, 0⟩]⟩,
  ⟨0xA004A4, [], 1, 2, [⟨0, 16, .ro, 0, 0⟩]⟩,
  ⟨0xA004A8, [], 1, 1, [⟨0, 32, .ro, 0, 0⟩]⟩,
  ⟨0xA004AC, [], 1, 2, [⟨0, 16, .ro, 0, 0⟩]⟩,
  ⟨0xA004B0, [], 1, 1, [⟨0, 32, .ro, 0, 0⟩]⟩,
  ⟨0xA004B4, [], 1, 2, [⟨0, 16, .ro, 0, 0⟩]⟩,
  ⟨0xA004B8, [], 1, 1, [⟨0, 32, .ro, 0, 0⟩]⟩,
  ⟨0xA004BC, [], 1, 2, [⟨0, 16, .ro, 0, 0⟩]⟩,
  ⟨0xA004C0, [], 1, 1, [⟨0, 32, .ro, 0, 0⟩]⟩,
  ⟨0xA004C4, [], 1, 2, [⟨0, 16, .ro, 0, 0⟩]⟩,
  ⟨0xA004C8, [], 1, 1, [⟨0, 32, .ro, 0, 0⟩]⟩,
  ⟨0xA004CC, [], 1, 2, [⟨0, 16, .ro, 0, 0⟩]⟩,
  ⟨0xA004D0, [], 1, 1, [⟨0, 32, .ro, 0, 0⟩]⟩,
  ⟨0xA004D4, [], 1, 2, [⟨0, 16, .ro, 0, 0⟩]⟩,
  ⟨0xA004D8, [], 1, 1, [⟨0, 32, .ro, 0, 0⟩]⟩,
  ⟨0xA004DC, [], 1, 2, [⟨0, 16, .ro, 0, 0⟩]⟩,
  ⟨0xA004E0, [], 1, 1, [⟨0, 32, .ro, 0, 0⟩]⟩,
  ⟨0xA004E4, [], 1, 2, [⟨0, 16, .ro, 0, 0⟩]⟩]

def RegMap.qmg2 : List RegD := [
  ⟨0xA004E8, [], 1, 1, [⟨0, 32, .ro, 0, 0⟩]⟩,
  ⟨0xA004EC, [], 1, 2, [⟨0, 16, .ro, 0, 0⟩]⟩,
  ⟨0xA004F0, [], 1, 1, [⟨0, 32, .ro, 0, 0⟩]⟩,
  ⟨0xA004F4, [], 1, 2, [⟨0, 16, .ro, 0, 0⟩]⟩,
  ⟨0xA004F8, [], 1, 1, [⟨0, 32, .ro, 0, 0⟩]⟩,
  ⟨0xA004FC, [], 1, 2, [⟨0, 16, .ro, 0, 0⟩]⟩,
  ⟨0xA00500, [], 1, 1, [⟨0, 32, .ro, 0, 0⟩]⟩,
  ⟨0xA00504, [], 1, 2, [⟨0, 16, .ro, 0, 0⟩]⟩,
  ⟨0xA00508, [], 1, 1, [⟨0, 32, .ro, 0, 0⟩]⟩,
  ⟨0xA0050C, [], 1, 2, [⟨0, 16, .ro, 0, 0⟩]⟩,
  ⟨0xA00510, [], 1, 1, [⟨0, 32, .ro, 0, 0⟩]⟩,
  ⟨0xA00514, [], 1, 2, [⟨0, 16, .ro, 0, 0⟩]⟩,
  ⟨0xA00518, [], 1, 1, [⟨0, 32, .ro, 0, 0⟩]⟩,
  ⟨0xA0051C, [], 1, 2, [⟨0, 16, .ro, 0, 0⟩]⟩,
  ⟨0xA00520, [], 1, 1, [⟨0, 32, .ro, 0, 0⟩]⟩,
  ⟨0xA00524, [], 1, 2, [⟨0, 16, .ro, 0, 0⟩]⟩,
  ⟨0xA00528, [], 1, 1, [⟨0, 32, .ro, 0, 0⟩]⟩,
  ⟨0xA0052C, [], 1, 2, [⟨0, 16, .ro, 0, 0⟩]⟩,
  ⟨0xA00000, [], 1, 0, [⟨0, 1, .rt, 0, 0⟩, ⟨1, 1, .ro, 0, 0⟩, ⟨2, 4, .rt, 0, 0⟩]⟩,
  ⟨0xA00010, [], 1, 0, [⟨0, 16, .rw, 0x3E8, 0⟩, ⟨16, 16, .rw, 0x3E8, 0⟩]⟩,
  ⟨0xA00014, [], 1, 0, [⟨0, 11, .rw, 0x40, 0⟩, ⟨16, 11, .rw, 0x80, 0⟩, ⟨28, 2, .rw, 0, 0⟩, ⟨30, 1, .rw, 0, 0⟩]⟩,
  ⟨0xA00100, [], 1, 0, [⟨0, 17, .wo, 0, 0⟩, ⟨17, 3, .wo, 0, 0⟩]⟩,
  ⟨0xA00104, [], 1, 0, [⟨0, 1, .rt, 0, 0⟩, ⟨1, 2, .ro, 0, 0⟩]⟩,
  ⟨0xA00140, [], 1, 0, [⟨0, 26, .wo, 0, 0⟩, ⟨26, 2, .wo, 0, 0⟩, ⟨28, 4, .wo, 0, 0⟩]⟩,
  ⟨0xA00144, [], 1, 0, [⟨0, 17, .rw, 0, 0⟩, ⟨17, 6, .rw, 1, 0⟩]⟩,
  ⟨0xA00148, [], 1, 0, [⟨0, 26, .ro, 0, 0⟩, ⟨26, 1, .rt, 0, 0⟩, ⟨27, 2, .ro, 0, 0⟩]⟩]

/-- The registers of QMG (unit index 10 of R40). -/
def RegMap.qmg : List RegD := RegMap.qmg0 ++ RegMap.qmg1 ++ RegMap.qmg2

def RegMap.fwd0 : List RegD := [
  ⟨0xB0FFFC, [], 1, 0, [⟨0, 8, .ro, 0xB, 0⟩, ⟨8, 8, .ro, 1, 0⟩]⟩,
  ⟨0xB00008, [], 1, 0, [⟨0, 32, .wl, 0, 0⟩]⟩,
  ⟨0xB0000C, [], 1, 0, [⟨0, 32, .wl, 0, 0⟩]⟩,
  ⟨0xB00108, [], 1, 0, [⟨0, 26, .rt, 0, 0⟩]⟩,
  ⟨0xB0010C, [], 1, 0, [⟨0, 21, .rt, 0, 0⟩]⟩,
  ⟨0xB00110, [], 1, 0, [⟨0, 15, .ro, 0, 0⟩]⟩,
  ⟨0xB00128, [(4, 2)], 1, 0, [⟨0, 32, .ro, 0, 0⟩]⟩,
  ⟨0xB00200, [], 1, 0, [⟨0, 20, .rw, 0, 0⟩]⟩,
  ⟨0xB00204, [], 1, 0, [⟨0, 16, .rw, 0, 0⟩, ⟨16, 1, .rw, 0, 0⟩]⟩,
  ⟨0xB00208, [], 1, 0, [⟨0, 20, .rw, 0, 0⟩]⟩,
  ⟨0xB0020C, [], 1, 0, [⟨0, 16, .rw, 0, 0⟩, ⟨16, 1, .rw, 0, 0⟩]⟩,
  ⟨0xB00210, [], 1, 0, [⟨0, 20, .rw, 0, 0⟩]⟩,
  ⟨0xB00214, [], 1, 0, [⟨0, 16, .rw, 0, 0⟩, ⟨16, 1, .rw, 0, 0⟩]⟩,
  ⟨0xB00218, [], 1, 0, [⟨0, 20, .rw, 0x2710, 0⟩]⟩,
  ⟨0xB0021C, [], 1, 0, [⟨0, 16, .rw, 0x3E8, 0⟩, ⟨16, 1, .rw, 1, 0⟩]⟩,
  ⟨0xB00220, [], 1, 0, [⟨0, 20, .rw, 0, 0⟩]⟩,
  ⟨0xB00224, [], 1, 0, [⟨0, 16, .rw, 0, 0⟩, ⟨16, 1, .rw, 0, 0⟩]⟩,
  ⟨0xB00228, [], 1, 0, [⟨0, 20, .rw, 0, 0⟩]⟩,
  ⟨0xB0022C, [], 1, 0, [⟨0, 16, .rw, 0, 0⟩, ⟨16, 1, .rw, 0, 0⟩]⟩,
  ⟨0xB00230, [], 1, 0, [⟨0, 20, .rw, 0, 0⟩]⟩,
  ⟨0xB00234, [], 1, 0, [⟨0, 16, .rw, 0, 0⟩, ⟨16, 1, .rw, 0, 0⟩]⟩,
  ⟨0xB00238, [], 1, 0, [⟨0, 20, .rw, 0, 0⟩]⟩,
  ⟨0xB0023C, [], 1, 0, [⟨0, 16, .rw, 0, 0⟩, ⟨16, 1, .rw, 0, 0⟩]⟩,
  ⟨0xB00020, [(4, 8)], 1, 0, [⟨0, 32, .rw, 0, 0⟩]⟩,
  ⟨0xB00040, [(4, 8)], 1, 0, [⟨0, 32, .ro, 0, 0⟩]⟩,
  ⟨0xB00080, [], 1, 1, [⟨0, 32, .ro, 0, 0⟩]⟩,
  ⟨0xB00084, [], 1, 2, [⟨0, 16, .ro, 0, 0⟩]⟩,
  ⟨0xB00088, [], 1, 1, [⟨0, 32, .ro, 0, 0⟩]⟩,
  ⟨0xB0008C, [], 1, 2, [⟨0, 16, .ro, 0, 0⟩]⟩,
  ⟨0xB00090, [], 1, 1, [⟨0, 32, .ro, 0, 0⟩]⟩,
  ⟨0xB00094, [], 1, 2, [⟨0, 16, .ro, 0, 0⟩]⟩,
  ⟨0xB00098, [], 1, 1, [⟨0, 32, .ro, 0, 0⟩]⟩,
  ⟨0xB0009C, [], 1, 2, [⟨0, 16, .ro, 0, 0⟩]⟩,
  ⟨0xB000A0, [], 1, 1, [⟨0, 32, .ro, 0, 0⟩]⟩,
  ⟨0xB000A4, [], 1, 2, [⟨0, 16, .ro, 0, 0⟩]⟩,
  ⟨0xB000A8, [], 1, 1, [⟨0, 32, .ro, 0, 0⟩]⟩,
  ⟨0xB000AC, [], 1, 2, [⟨0, 16, .ro, 0, 0⟩]⟩,
  ⟨0xB000B0, [], 1, 1, [⟨0, 32, .ro, 0, 0⟩]⟩,
  ⟨0xB000B4, [], 1, 2, [⟨0, 16, .ro, 0, 0⟩]⟩,
  ⟨0xB000B8, [], 1, 1, [⟨0, 32, .ro, 0, 0⟩]⟩]

def RegMap.fwd1 : List RegD := [
  ⟨0xB000BC, [], 1, 2, [⟨0, 16, .ro, 0, 0⟩]⟩,
  ⟨0xB000C0, [], 1, 1, [⟨0, 32, .ro, 0, 0⟩]⟩,
  ⟨0xB000C4, [], 1, 2, [⟨0, 16, .ro, 0, 0⟩]⟩,
  ⟨0xB000C8, [], 1, 1, [⟨0, 32, .ro, 0, 0⟩]⟩,
  ⟨0xB000CC, [], 1, 2, [⟨0, 16, .ro, 0, 0⟩]⟩,
  ⟨0xB000D0, [], 1, 1, [⟨0, 32, .ro, 0, 0⟩]⟩,
  ⟨0xB000D4, [], 1, 2, [⟨0, 16, .ro, 0, 0⟩]⟩,
  ⟨0xB000D8, [], 1, 1, [⟨0, 32, .ro, 0, 0⟩]⟩,
  ⟨0xB000DC, [], 1, 2, [⟨0, 16, .ro, 0, 0⟩]⟩,
  ⟨0xB000E0, [], 1, 1, [⟨0, 32, .ro, 0, 0⟩]⟩,
  ⟨0xB000E4, [], 1, 2, [⟨0, 16, .ro, 0, 0⟩]⟩,
  ⟨0xB00400, [], 1, 1, [⟨0, 32, .ro, 0, 0⟩]⟩,
  ⟨0xB00404, [], 1, 2, [⟨0, 16, .ro, 0, 0⟩]⟩,
  ⟨0xB00408, [], 1, 1, [⟨0, 32, .ro, 0, 0⟩]⟩,
  ⟨0xB0040C, [], 1, 2, [⟨0, 16, .ro, 0, 0⟩]⟩,
  ⟨0xB00410, [], 1, 1, [⟨0, 32, .ro, 0, 0⟩]⟩,
  ⟨0xB00414, [], 1, 2, [⟨0, 16, .ro, 0, 0⟩]⟩,
  ⟨0xB00418, [], 1, 1, [⟨0, 32, .ro, 0, 0⟩]⟩,
  ⟨0xB0041C, [], 1, 2, [⟨0, 16, .ro, 0, 0⟩]⟩,
  ⟨0xB00420, [], 1, 1, [⟨0, 32, .ro, 0, 0⟩]⟩,
  ⟨0xB00424, [], 1, 2, [⟨0, 16, .ro, 0, 0⟩]⟩,
  ⟨0xB00428, [], 1, 1, [⟨0, 32, .ro, 0, 0⟩]⟩,
  ⟨0xB0042C, [], 1, 2, [⟨0, 16, .ro, 0, 0⟩]⟩,
  ⟨0xB00430, [], 1, 1, [⟨0, 32, .ro, 0, 0⟩]⟩,
  ⟨0xB00434, [], 1, 2, [⟨0, 16, .ro, 0, 0⟩]⟩,
  ⟨0xB00438, [], 1, 1, [⟨0, 32, .ro, 0, 0⟩]⟩,
  ⟨0xB0043C, [], 1, 2, [⟨0, 16, .ro, 0, 0⟩]⟩,
  ⟨0xB00440, [], 1, 1, [⟨0, 32, .ro, 0, 0⟩]⟩,
  ⟨0xB00444, [], 1, 2, [⟨0, 16, .ro, 0, 0⟩]⟩,
  ⟨0xB00448, [], 1, 1, [⟨0, 32, .ro, 0, 0⟩]⟩,
  ⟨0xB0044C, [], 1, 2, [⟨0, 16, .ro, 0, 0⟩]⟩,
  ⟨0xB00450, [], 1, 1, [⟨0, 32, .ro, 0, 0⟩]⟩,
  ⟨0xB00454, [], 1, 2, [⟨0, 16, .ro, 0, 0⟩]⟩,
  ⟨0xB00458, [], 1, 1, [⟨0, 32, .ro, 0, 0⟩]⟩,
  ⟨0xB0045C, [], 1, 2, [⟨0, 16, .ro, 0, 0⟩]⟩,
  ⟨0xB00460, [], 1, 1, [⟨0, 32, .ro, 0, 0⟩]⟩,
  ⟨0xB00464, [], 1, 2, [⟨0, 16, .ro, 0, 0⟩]⟩,
  ⟨0xB00468, [], 1, 1, [⟨0, 32, .ro, 0, 0⟩]⟩,
  ⟨0xB0046C, [], 1, 2, [⟨0, 16, .ro, 0, 0⟩]⟩,
  ⟨0xB00470, [], 1, 1, [⟨0, 32, .ro, 0, 0⟩]⟩]

def RegMap.fwd2 : List RegD := [
  ⟨0xB00474, [], 1, 2, [⟨0, 16, .ro, 0, 0⟩]⟩,
  ⟨0xB00478, [], 1, 1, [⟨0, 32, .ro, 0, 0⟩]⟩,
  ⟨0xB0047C, [], 1, 2, [⟨0, 16, .ro, 0, 0⟩]⟩,
  ⟨0xB00480, [], 1, 1, [⟨0, 32, .ro, 0, 0⟩]⟩,
  ⟨0xB00484, [], 1, 2, [⟨0, 16, .ro, 0, 0⟩]⟩,
  ⟨0xB00488, [], 1, 1, [⟨0, 32, .ro, 0, 0⟩]⟩,
  ⟨0xB0048C, [], 1, 2, [⟨0, 16, .ro, 0, 0⟩]⟩,
  ⟨0xB00490, [], 1, 1, [⟨0, 32, .ro, 0, 0⟩]⟩,
  ⟨0xB00494, [], 1, 2, [⟨0, 16, .ro, 0, 0⟩]⟩,
  ⟨0xB00498, [], 1, 1, [⟨0, 32, .ro, 0, 0⟩]⟩,
  ⟨0xB0049C, [], 1, 2, [⟨0, 16, .ro, 0, 0⟩]⟩,
  ⟨0xB004A0, [], 1, 1, [⟨0, 32, .ro, 0, 0⟩]⟩,
  ⟨0xB004A4, [], 1, 2, [⟨0, 16, .ro, 0, 0⟩]⟩,
  ⟨0xB004A8, [], 1, 1, [⟨0, 32, .ro, 0, 0⟩]⟩,
  ⟨0xB004AC, [], 1, 2, [⟨0, 16, .ro, 0, 0⟩]⟩,
  ⟨0xB004B0, [], 1, 1, [⟨0, 32, .ro, 0, 0⟩]⟩,
  ⟨0xB004B4, [], 1, 2, [⟨0, 16, .ro, 0, 0⟩]⟩,
  ⟨0xB004B8, [], 1, 1, [⟨0, 32, .ro, 0, 0⟩]⟩,
  ⟨0xB004BC, [], 1, 2, [⟨0, 16, .ro, 0, 0⟩]⟩,
  ⟨0xB004C0, [], 1, 1, [⟨0, 32, .ro, 0, 0⟩]⟩,
  ⟨0xB004C4, [], 1, 2, [⟨0, 16, .ro, 0, 0⟩]⟩,
  ⟨0xB004C8, [], 1, 1, [⟨0, 32, .ro, 0, 0⟩]⟩,
  ⟨0xB004CC, [], 1, 2, [⟨0, 16, .ro, 0, 0⟩]⟩,
  ⟨0xB004D0, [], 1, 1, [⟨0, 32, .ro, 0, 0⟩]⟩,
  ⟨0xB004D4, [], 1, 2, [⟨0, 16, .ro, 0, 0⟩]⟩,
  ⟨0xB004D8, [], 1, 1, [⟨0, 32, .ro, 0, 0⟩]⟩,
  ⟨0xB004DC, [], 1, 2, [⟨0, 16, .ro, 0, 0⟩]⟩,
  ⟨0xB004E0, [], 1, 1, [⟨0, 32, .ro, 0, 0⟩]⟩,
  ⟨0xB004E4, [], 1, 2, [⟨0, 16, .ro, 0, 0⟩]⟩,
  ⟨0xB004E8, [], 1, 1, [⟨0, 32, .ro, 0, 0⟩]⟩,
  ⟨0xB004EC, [], 1, 2, [⟨0, 16, .ro, 0, 0⟩]⟩,
  ⟨0xB004F0, [], 1, 1, [⟨0, 32, .ro, 0, 0⟩]⟩,
  ⟨0xB004F4, [], 1, 2, [⟨0, 16, .ro, 0, 0⟩]⟩,
  ⟨0xB004F8, [], 1, 1, [⟨0, 32, .ro, 0, 0⟩]⟩,
  ⟨0xB004FC, [], 1, 2, [⟨0, 16, .ro, 0, 0⟩]⟩,
  ⟨0xB00500, [], 1, 1, [⟨0, 32, .ro, 0, 0⟩]⟩,
  ⟨0xB00504, [], 1, 2, [⟨0, 16, .ro, 0, 0⟩]⟩,
  ⟨0xB00000, [], 1, 0, [⟨0, 1, .rt, 1, 0⟩, ⟨1, 1, .rt, 0, 0⟩, ⟨2, 1, .rt, 0, 0⟩, ⟨3, 1, .rt, 0, 0⟩, ⟨4, 13, .rt, 0, 0⟩, ⟨17, 1, .ro, 0, 0⟩]⟩,
  ⟨0xB00004, [], 1, 0, [⟨0, 1, .rw, 1, 0⟩, ⟨1, 1, .rw, 0, 0⟩, ⟨2, 4, .rw, 0, 0⟩, ⟨6, 4, .rw, 0, 0⟩]⟩,
  ⟨0xB00100, [], 1, 0, [⟨0, 12, .rw, 0x12C, 0⟩, ⟨12, 1, .rw, 1, 0⟩]⟩]

def RegMap.fwd3 : List RegD := [
  ⟨0xB00104, [], 1, 0, [⟨0, 32, .ro, 0, 0⟩]⟩,
  ⟨0xB00120, [], 1, 0, [⟨0, 5, .rt, 0, 0⟩, ⟨5, 1, .rt, 1, 0⟩]⟩,
  ⟨0xB00124, [], 1, 0, [⟨0, 1, .wo, 0, 0⟩]⟩,
  ⟨0xB00010, [], 1, 0, [⟨0, 1, .rt, 0, 0⟩, ⟨1, 4, .ro, 0, 0⟩, ⟨5, 8, .ro, 0, 0⟩, ⟨13, 3, .ro, 0, 0⟩]⟩,
  ⟨0xB00014, [], 1, 0, [⟨0, 4, .wo, 0, 0⟩, ⟨4, 2, .wo, 0, 0⟩, ⟨6, 8, .wo, 0, 0⟩]⟩,
  ⟨0xB00018, [], 1, 0, [⟨0, 22, .rw, 0, 0⟩, ⟨22, 3, .rw, 0, 0⟩]⟩,
  ⟨0xB00060, [], 1, 0, [⟨0, 1, .rw, 1, 0⟩, ⟨1, 1, .rw, 1, 0⟩]⟩,
  ⟨0xB00064, [], 1, 0, [⟨0, 11, .rt, 0, 0⟩, ⟨11, 1, .rt, 0, 0⟩]⟩,
  ⟨0xB00068, [], 1, 0, [⟨0, 11, .rt, 0, 0⟩, ⟨11, 11, .rt, 0, 0⟩]⟩]

/-- The registers of FWD (unit index 11 of R40). -/
def RegMap.fwd : List RegD := RegMap.fwd0 ++ RegMap.fwd1 ++ RegMap.fwd2 ++ RegMap.fwd3

def RegMap.kvt0 : List RegD := [
  ⟨0xC0FFFC, [], 16, 0, [⟨0, 8, .ro, 0xC, 0⟩, ⟨8, 8, .ro, 1, 0⟩]⟩,
  ⟨0xC00010, [(4, 12)], 16, 0, [⟨0, 32, .wl, 0, 0⟩]⟩,
  ⟨0xC00040, [(4, 12)], 16, 0, [⟨0, 32, .ro, 0, 0⟩]⟩,
  ⟨0xC00070, [(4, 4)], 16, 0, [⟨0, 32, .ro, 0, 0⟩]⟩,
  ⟨0xC00080, [], 16, 0, [⟨0, 32, .ro, 0, 0⟩]⟩,
  ⟨0xC00084, [], 16, 0, [⟨0, 32, .ro, 0, 0⟩]⟩,
  ⟨0xC00088, [], 16, 0, [⟨0, 32, .ro, 0, 0⟩]⟩,
  ⟨0xC0008C, [], 16, 0, [⟨0, 13, .ro, 0, 0⟩]⟩,
  ⟨0xC00090, [], 16, 0, [⟨0, 21, .rt, 0, 0⟩]⟩,
  ⟨0xC000A0, [(4, 24)], 16, 0, [⟨0, 32, .ro, 0, 0⟩]⟩,
  ⟨0xC00500, [(4, 24)], 16, 0, [⟨0, 32, .ro, 0, 0⟩]⟩,
  ⟨0xC00110, [(4, 4)], 16, 0, [⟨0, 32, .rw, 0, 0⟩]⟩,
  ⟨0xC00200, [(4, 56)], 16, 0, [⟨0, 32, .ro, 0, 0⟩]⟩,
  ⟨0xC00400, [], 16, 1, [⟨0, 32, .ro, 0, 0⟩]⟩,
  ⟨0xC00404, [], 16, 2, [⟨0, 16, .ro, 0, 0⟩]⟩,
  ⟨0xC00408, [], 16, 1, [⟨0, 32, .ro, 0, 0⟩]⟩,
  ⟨0xC0040C, [], 16, 2, [⟨0, 16, .ro, 0, 0⟩]⟩,
  ⟨0xC00410, [], 16, 1, [⟨0, 32, .ro, 0, 0⟩]⟩,
  ⟨0xC00414, [], 16, 2, [⟨0, 16, .ro, 0, 0⟩]⟩,
  ⟨0xC00418, [], 16, 1, [⟨0, 32, .ro, 0, 0⟩]⟩,
  ⟨0xC0041C, [], 16, 2, [⟨0, 16, .ro, 0, 0⟩]⟩,
  ⟨0xC00420, [], 16, 1, [⟨0, 32, .ro, 0, 0⟩]⟩,
  ⟨0xC00424, [], 16, 2, [⟨0, 16, .ro, 0, 0⟩]⟩,
  ⟨0xC00428, [], 16, 1, [⟨0, 32, .ro, 0, 0⟩]⟩,
  ⟨0xC0042C, [], 16, 2, [⟨0, 16, .ro, 0, 0⟩]⟩,
  ⟨0xC00430, [], 16, 1, [⟨0, 32, .ro, 0, 0⟩]⟩,
  ⟨0xC00434, [], 16, 2, [⟨0, 16, .ro, 0, 0⟩]⟩,
  ⟨0xC00438, [], 16, 1, [⟨0, 32, .ro, 0, 0⟩]⟩,
  ⟨0xC0043C, [], 16, 2, [⟨0, 16, .ro, 0, 0⟩]⟩,
  ⟨0xC00440, [], 16, 1, [⟨0, 32, .ro, 0, 0⟩]⟩,
  ⟨0xC00444, [], 16, 2, [⟨0, 16, .ro, 0, 0⟩]⟩,
  ⟨0xC00000, [], 16, 0, [⟨0, 3, .rt, 0, 0⟩, ⟨3, 1, .rt, 0, 0⟩, ⟨4, 1, .rt, 1, 0⟩, ⟨5, 1, .rt, 0, 0⟩, ⟨6, 1, .rt, 0, 0⟩]⟩,
  ⟨0xC00004, [], 16, 0, [⟨0, 1, .wl, 0, 0⟩, ⟨1, 3, .wl, 4, 0⟩]⟩,
  ⟨0xC00100, [], 16, 0, [⟨0, 4, .wo, 0, 0⟩, ⟨4, 20, .wo, 0, 0⟩, ⟨24, 8, .wo, 0, 0⟩]⟩,
  ⟨0xC00104, [], 16, 0, [⟨0, 26, .rw, 0, 0⟩, ⟨26, 3, .rw, 0, 0⟩, ⟨29, 1, .rw, 0, 0⟩, ⟨30, 1, .rw, 0, 0⟩]⟩,
  ⟨0xC00108, [], 16, 0, [⟨0, 1, .rt, 0, 0⟩, ⟨1, 4, .ro, 0, 0⟩, ⟨5, 8, .ro, 0, 0⟩, ⟨13, 7, .ro, 0, 0⟩]⟩,
  ⟨0xC00300, [], 16, 0, [⟨0, 1, .rc, 0, 0⟩, ⟨1, 1, .rc, 0, 0⟩, ⟨2, 5, .rc, 0, 0⟩, ⟨8, 24, .rc, 0, 0⟩]⟩]

/-- The registers of KVT (unit index 12 of R40). -/
def RegMap.kvt : List RegD := RegMap.kvt0

def RegMap.cry0 : List RegD := [
  ⟨0xD0FFFC, [], 16, 0, [⟨0, 8, .ro, 0xD, 0⟩, ⟨8, 8, .ro, 1, 0⟩]⟩,
  ⟨0xD00100, [], 16, 1, [⟨0, 32, .ro, 0, 0⟩]⟩,
  ⟨0xD00104, [], 16, 2, [⟨0, 16, .ro, 0, 0⟩]⟩,
  ⟨0xD00108, [], 16, 1, [⟨0, 32, .ro, 0, 0⟩]⟩,
  ⟨0xD0010C, [], 16, 2, [⟨0, 16, .ro, 0, 0⟩]⟩,
  ⟨0xD00110, [], 16, 1, [⟨0, 32, .ro, 0, 0⟩]⟩,
  ⟨0xD00114, [], 16, 2, [⟨0, 16, .ro, 0, 0⟩]⟩,
  ⟨0xD00118, [], 16, 1, [⟨0, 32, .ro, 0, 0⟩]⟩,
  ⟨0xD0011C, [], 16, 2, [⟨0, 16, .ro, 0, 0⟩]⟩,
  ⟨0xD00120, [], 16, 1, [⟨0, 32, .ro, 0, 0⟩]⟩,
  ⟨0xD00124, [], 16, 2, [⟨0, 16, .ro, 0, 0⟩]⟩,
  ⟨0xD00128, [], 16, 1, [⟨0, 32, .ro, 0, 0⟩]⟩,
  ⟨0xD0012C, [], 16, 2, [⟨0, 16, .ro, 0, 0⟩]⟩,
  ⟨0xD00000, [], 16, 0, [⟨0, 1, .rt, 0, 0⟩, ⟨1, 1, .rt, 0, 0⟩, ⟨2, 1, .rt, 1, 0⟩]⟩,
  ⟨0xD00004, [], 16, 0, [⟨0, 32, .ro, 0, 0⟩]⟩,
  ⟨0xD00008, [], 16, 0, [⟨0, 1, .wo, 0, 0⟩]⟩]

/-- The registers of CRY (unit index 13 of R40). -/
def RegMap.cry : List RegD := RegMap.cry0

def RegMap.upd0 : List RegD := [
  ⟨0xE0FFFC, [], 1, 0, [⟨0, 8, .ro, 0xE, 0⟩, ⟨8, 8, .ro, 1, 0⟩]⟩,
  ⟨0xE00008, [], 1, 0, [⟨0, 26, .rw, 0, 0⟩]⟩,
  ⟨0xE0000C, [], 1, 0, [⟨0, 24, .rw, 0, 0⟩]⟩,
  ⟨0xE00018, [], 1, 0, [⟨0, 32, .ro, 0, 0⟩]⟩,
  ⟨0xE0001C, [], 1, 0, [⟨0, 32, .ro, 0, 0⟩]⟩,
  ⟨0xE00020, [], 1, 0, [⟨0, 32, .ro, 0, 0⟩]⟩,
  ⟨0xE00040, [(4, 16)], 1, 0, [⟨0, 32, .rt, 0, 0⟩]⟩,
  ⟨0xE00100, [], 1, 1, [⟨0, 32, .ro, 0, 0⟩]⟩,
  ⟨0xE00104, [], 1, 2, [⟨0, 16, .ro, 0, 0⟩]⟩,
  ⟨0xE00108, [], 1, 1, [⟨0, 32, .ro, 0, 0⟩]⟩,
  ⟨0xE0010C, [], 1, 2, [⟨0, 16, .ro, 0, 0⟩]⟩,
  ⟨0xE00110, [], 1, 1, [⟨0, 32, .ro, 0, 0⟩]⟩,
  ⟨0xE00114, [], 1, 2, [⟨0, 16, .ro, 0, 0⟩]⟩,
  ⟨0xE00118, [], 1, 1, [⟨0, 32, .ro, 0, 0⟩]⟩,
  ⟨0xE0011C, [], 1, 2, [⟨0, 16, .ro, 0, 0⟩]⟩,
  ⟨0xE00120, [], 1, 1, [⟨0, 32, .ro, 0, 0⟩]⟩,
  ⟨0xE00124, [], 1, 2, [⟨0, 16, .ro, 0, 0⟩]⟩,
  ⟨0xE00128, [], 1, 1, [⟨0, 32, .ro, 0, 0⟩]⟩,
  ⟨0xE0012C, [], 1, 2, [⟨0, 16, .ro, 0, 0⟩]⟩,
  ⟨0xE00130, [], 1, 1, [⟨0, 32, .ro, 0, 0⟩]⟩,
  ⟨0xE00134, [], 1, 2, [⟨0, 16, .ro, 0, 0⟩]⟩,
  ⟨0xE00000, [], 1, 0, [⟨0, 4, .rt, 0, 0⟩, ⟨4, 1, .ro, 0, 0⟩, ⟨5, 1, .rt, 0, 0⟩, ⟨6, 6, .rt, 0, 0⟩, ⟨12, 3, .ro, 0, 0⟩]⟩,
  ⟨0xE00004, [], 1, 0, [⟨0, 4, .wo, 0, 0⟩, ⟨4, 8, .wo, 0, 0⟩]⟩,
  ⟨0xE00010, [], 1, 0, [⟨0, 1, .rt, 0, 0⟩, ⟨1, 5, .ro, 0, 0⟩, ⟨6, 8, .ro, 0, 0⟩, ⟨14, 18, .ro, 0, 0⟩]⟩,
  ⟨0xE00014, [], 1, 0, [⟨0, 4, .rw, 0, 0⟩, ⟨4, 1, .rw, 0, 0⟩]⟩,
  ⟨0xE00024, [], 1, 0, [⟨0, 9, .ro, 0, 0⟩]⟩,
  ⟨0xE00028, [], 1, 0, [⟨0, 16, .ro, 0, 0⟩]⟩,
  ⟨0xE00030, [], 1, 0, [⟨0, 32, .rt, 0, 0⟩]⟩]

/-- The registers of UPD (unit index 14 of R40). -/
def RegMap.upd : List RegD := RegMap.upd0

def RegMap.csc0 : List RegD := [
  ⟨0xF0FFFC, [], 19, 0, [⟨0, 8, .ro, 0xF, 0⟩, ⟨8, 8, .ro, 1, 0⟩]⟩,
  ⟨0xF00008, [], 19, 0, [⟨0, 32, .rt, 0, 0⟩]⟩,
  ⟨0xF0000C, [], 19, 0, [⟨0, 32, .rt, 0, 0⟩]⟩,
  ⟨0xF00100, [(4, 32)], 19, 0, [⟨0, 2, .rt, 0, 0⟩, ⟨2, 1, .rt, 0, 0⟩, ⟨3, 2, .rt, 0, 0⟩, ⟨5, 1, .rt, 0, 0⟩, ⟨6, 4, .rt, 0, 0⟩]⟩,
  ⟨0xF01000, [(256, 4)], 19, 0, [⟨0, 1, .wl, 1, 0⟩, ⟨1, 1, .wl, 0, 0⟩, ⟨2, 20, .wl, 0, 0⟩, ⟨22, 1, .rw, 0, 0⟩]⟩,
  ⟨0xF01004, [(256, 4)], 19, 0, [⟨0, 3, .rt, 0, 0⟩, ⟨3, 5, .rt, 0x1F, 0⟩, ⟨8, 2, .rt, 0, 0⟩, ⟨10, 16, .rt, 0, 0⟩]⟩,
  ⟨0xF01008, [(256, 4)], 19, 0, [⟨0, 26, .rw, 0x100, 0⟩]⟩,
  ⟨0xF0100C, [(256, 4)], 19, 3, [⟨0, 26, .rt, 0, 0⟩]⟩,
  ⟨0xF01010, [(256, 4)], 19, 0, [⟨0, 26, .rt, 0, 0⟩]⟩,
  ⟨0xF01040, [(256, 4)], 19, 1, [⟨0, 32, .ro, 0, 0⟩]⟩,
  ⟨0xF01044, [(256, 4)], 19, 2, [⟨0, 16, .ro, 0, 0⟩]⟩,
  ⟨0xF01048, [(256, 4)], 19, 1, [⟨0, 32, .ro, 0, 0⟩]⟩,
  ⟨0xF0104C, [(256, 4)], 19, 2, [⟨0, 16, .ro, 0, 0⟩]⟩,
  ⟨0xF01050, [(256, 4)], 19, 1, [⟨0, 32, .ro, 0, 0⟩]⟩,
  ⟨0xF01054, [(256, 4)], 19, 2, [⟨0, 16, .ro, 0, 0⟩]⟩,
  ⟨0xF01058, [(256, 4)], 19, 1, [⟨0, 32, .ro, 0, 0⟩]⟩,
  ⟨0xF0105C, [(256, 4)], 19, 2, [⟨0, 16, .ro, 0, 0⟩]⟩,
  ⟨0xF01060, [(256, 4)], 19, 1, [⟨0, 32, .ro, 0, 0⟩]⟩,
  ⟨0xF01064, [(256, 4)], 19, 2, [⟨0, 16, .ro, 0, 0⟩]⟩,
  ⟨0xF00400, [], 19, 1, [⟨0, 32, .ro, 0, 0⟩]⟩,
  ⟨0xF00404, [], 19, 2, [⟨0, 16, .ro, 0, 0⟩]⟩,
  ⟨0xF00408, [], 19, 1, [⟨0, 32, .ro, 0, 0⟩]⟩,
  ⟨0xF0040C, [], 19, 2, [⟨0, 16, .ro, 0, 0⟩]⟩,
  ⟨0xF00410, [], 19, 1, [⟨0, 32, .ro, 0, 0⟩]⟩,
  ⟨0xF00414, [], 19, 2, [⟨0, 16, .ro, 0, 0⟩]⟩,
  ⟨0xF00418, [], 19, 1, [⟨0, 32, .ro, 0, 0⟩]⟩,
  ⟨0xF0041C, [], 19, 2, [⟨0, 16, .ro, 0, 0⟩]⟩,
  ⟨0xF00420, [], 19, 1, [⟨0, 32, .ro, 0, 0⟩]⟩,
  ⟨0xF00424, [], 19, 2, [⟨0, 16, .ro, 0, 0⟩]⟩,
  ⟨0xF00428, [], 19, 1, [⟨0, 32, .ro, 0, 0⟩]⟩,
  ⟨0xF0042C, [], 19, 2, [⟨0, 16, .ro, 0, 0⟩]⟩,
  ⟨0xF00430, [], 19, 1, [⟨0, 32, .ro, 0, 0⟩]⟩,
  ⟨0xF00434, [], 19, 2, [⟨0, 16, .ro, 0, 0⟩]⟩,
  ⟨0xF00438, [], 19, 1, [⟨0, 32, .ro, 0, 0⟩]⟩,
  ⟨0xF0043C, [], 19, 2, [⟨0, 16, .ro, 0, 0⟩]⟩,
  ⟨0xF00000, [], 19, 0, [⟨0, 1, .rt, 0, 0⟩, ⟨1, 2, .rt, 0, 0⟩, ⟨3, 5, .rt, 0x1F, 0⟩, ⟨8, 5, .rt, 0x1F, 0⟩, ⟨13, 1, .rt, 0, 0⟩, ⟨14, 1, .rt, 0, 0⟩, ⟨15, 1, .rt, 0, 0⟩]⟩,
  ⟨0xF00004, [], 19, 0, [⟨0, 4, .wl, 0, 0⟩, ⟨4, 2, .wl, 0, 0⟩, ⟨6, 5, .wl, 1, 0⟩, ⟨11, 16, .wl, 0, 0⟩]⟩,
  ⟨0xF00010, [], 19, 0, [⟨0, 2, .wo, 0, 0⟩, ⟨2, 5, .wo, 0, 0⟩, ⟨7, 8, .wo, 0, 0⟩]⟩,
  ⟨0xF00014, [], 19, 0, [⟨0, 1, .rt, 0, 0⟩, ⟨1, 3, .ro, 0, 0⟩, ⟨4, 8, .ro, 0, 0⟩, ⟨12, 20, .ro, 0, 0⟩]⟩]

/-- The registers of CSC (unit index 15 of R40). -/
def RegMap.csc : List RegD := RegMap.csc0

def RegMap.pwr0 : List RegD := [
  ⟨0x100FFFC, [], 0, 0, [⟨0, 8, .ro, 0x10, 0⟩, ⟨8, 8, .ro, 1, 0⟩]⟩,
  ⟨0x1000004, [], 0, 0, [⟨0, 32, .rt, 0, 0⟩]⟩,
  ⟨0x1000008, [], 0, 0, [⟨0, 10, .rt, 0, 0⟩]⟩,
  ⟨0x1000010, [], 0, 0, [⟨0, 32, .rw, 5, 0⟩]⟩,
  ⟨0x1000014, [], 0, 0, [⟨0, 10, .rw, 0x55, 0⟩]⟩,
  ⟨0x1000100, [], 0, 1, [⟨0, 32, .ro, 0, 0⟩]⟩,
  ⟨0x1000104, [], 0, 2, [⟨0, 16, .ro, 0, 0⟩]⟩,
  ⟨0x1000108, [], 0, 1, [⟨0, 32, .ro, 0, 0⟩]⟩,
  ⟨0x100010C, [], 0, 2, [⟨0, 16, .ro, 0, 0⟩]⟩,
  ⟨0x1000110, [], 0, 1, [⟨0, 32, .ro, 0, 0⟩]⟩,
  ⟨0x1000114, [], 0, 2, [⟨0, 16, .ro, 0, 0⟩]⟩,
  ⟨0x1000118, [], 0, 1, [⟨0, 32, .ro, 0, 0⟩]⟩,
  ⟨0x100011C, [], 0, 2, [⟨0, 16, .ro, 0, 0⟩]⟩,
  ⟨0x1000120, [], 0, 1, [⟨0, 32, .ro, 0, 0⟩]⟩,
  ⟨0x1000124, [], 0, 2, [⟨0, 16, .ro, 0, 0⟩]⟩,
  ⟨0x1000000, [], 0, 0, [⟨0, 1, .rt, 0, 0⟩, ⟨1, 1, .rt, 0, 0⟩, ⟨2, 1, .rt, 0, 0⟩, ⟨3, 1, .rt, 0, 0⟩, ⟨4, 1, .rt, 0, 0⟩, ⟨5, 1, .rt, 0, 0⟩]⟩,
  ⟨0x1000020, [], 0, 0, [⟨0, 2, .wo, 0, 0⟩, ⟨16, 16, .wo, 0, 0⟩]⟩,
  ⟨0x1000024, [], 0, 0, [⟨0, 5, .rw, 0, 0⟩, ⟨5, 1, .rw, 0, 0⟩, ⟨6, 1, .rw, 0, 0⟩, ⟨7, 1, .rw, 1, 0⟩, ⟨8, 1, .rw, 0, 0⟩]⟩,
  ⟨0x1000028, [], 0, 0, [⟨0, 32, .rw, 0, 0⟩]⟩,
  ⟨0x100002C, [], 0, 0, [⟨0, 2, .ro, 0, 0⟩, ⟨2, 1, .ro, 0, 0⟩, ⟨3, 1, .ro, 0, 0⟩]⟩,
  ⟨0x1000030, [], 0, 0, [⟨0, 5, .ro, 0, 0⟩, ⟨5, 5, .ro, 0, 0⟩, ⟨10, 1, .ro, 0, 0⟩]⟩,
  ⟨0x1000034, [], 0, 0, [⟨0, 1, .rc, 0, 0⟩, ⟨1, 1, .rc, 0, 0⟩, ⟨2, 1, .rc, 0, 0⟩, ⟨3, 3, .rc, 0, 0⟩, ⟨6, 2, .rc, 0, 0⟩, ⟨8, 1, .rc, 0, 0⟩, ⟨9, 1, .rc, 0, 0⟩]⟩,
  ⟨0x1000038, [], 0, 0, [⟨0, 1, .wo, 0, 0⟩, ⟨1, 1, .rt, 0, 0⟩, ⟨2, 1, .wl, 1, 0⟩]⟩]

/-- The registers of PWR (unit index 16 of R40). -/
def RegMap.pwr : List RegD := RegMap.pwr0

def RegMap.sup0 : List RegD := [
  ⟨0x110FFFC, [], 1, 0, [⟨0, 8, .ro, 0x11, 0⟩, ⟨8, 8, .ro, 1, 0⟩]⟩,
  ⟨0x1100030, [(4, 4)], 0, 0, [⟨0, 32, .ro, 0, 0⟩]⟩,
  ⟨0x1100100, [], 1, 1, [⟨0, 32, .ro, 0, 0⟩]⟩,
  ⟨0x1100104, [], 1, 2, [⟨0, 16, .ro, 0, 0⟩]⟩,
  ⟨0x1100108, [], 1, 1, [⟨0, 32, .ro, 0, 0⟩]⟩,
  ⟨0x110010C, [], 1, 2, [⟨0, 16, .ro, 0, 0⟩]⟩,
  ⟨0x1100110, [], 1, 1, [⟨0, 32, .ro, 0, 0⟩]⟩,
  ⟨0x1100114, [], 1, 2, [⟨0, 16, .ro, 0, 0⟩]⟩,
  ⟨0x1100118, [], 1, 1, [⟨0, 32, .ro, 0, 0⟩]⟩,
  ⟨0x110011C, [], 1, 2, [⟨0, 16, .ro, 0, 0⟩]⟩,
  ⟨0x1100120, [], 1, 1, [⟨0, 32, .ro, 0, 0⟩]⟩,
  ⟨0x1100124, [], 1, 2, [⟨0, 16, .ro, 0, 0⟩]⟩,
  ⟨0x1100128, [], 1, 1, [⟨0, 32, .ro, 0, 0⟩]⟩,
  ⟨0x110012C, [], 1, 2, [⟨0, 16, .ro, 0, 0⟩]⟩,
  ⟨0x1100130, [], 1, 1, [⟨0, 32, .ro, 0, 0⟩]⟩,
  ⟨0x1100134, [], 1, 2, [⟨0, 16, .ro, 0, 0⟩]⟩,
  ⟨0x1100000, [], 0, 0, [⟨0, 1, .rt, 0, 0⟩, ⟨1, 2, .rt, 0, 0⟩, ⟨3, 1, .rt, 0, 0⟩, ⟨4, 4, .rt, 0, 0⟩, ⟨8, 6, .rt, 0, 0⟩]⟩,
  ⟨0x1100004, [], 1, 0, [⟨0, 10, .wl, 0x10, 0⟩, ⟨10, 10, .wl, 0x64, 0⟩, ⟨20, 7, .wl, 0x37, 0⟩]⟩,
  ⟨0x1100008, [], 1, 0, [⟨0, 16, .wo, 0, 0⟩]⟩,
  ⟨0x1100010, [], 1, 0, [⟨0, 1, .rc, 0, 0⟩, ⟨1, 1, .rc, 0, 0⟩, ⟨2, 5, .rc, 0, 0⟩, ⟨7, 5, .rc, 0, 0⟩, ⟨12, 20, .rc, 0, 0⟩]⟩,
  ⟨0x1100014, [], 1, 0, [⟨0, 1, .rw, 0, 0⟩, ⟨1, 1, .ro, 0, 0⟩, ⟨2, 30, .ro, 0, 0⟩]⟩,
  ⟨0x1100018, [], 1, 0, [⟨0, 7, .rt, 0, 0⟩, ⟨7, 1, .rt, 0, 0⟩]⟩,
  ⟨0x110001C, [], 1, 0, [⟨0, 1, .ro, 0, 0⟩, ⟨1, 1, .ro, 0, 0⟩, ⟨2, 1, .ro, 0, 0⟩]⟩,
  ⟨0x1100020, [], 0, 0, [⟨0, 7, .rt, 0, 0⟩, ⟨7, 1, .rt, 1, 0⟩]⟩,
  ⟨0x1100024, [], 0, 0, [⟨0, 1, .wo, 0, 0⟩]⟩]

/-- The registers of SUP (unit index 17 of R40). -/
def RegMap.sup : List RegD := RegMap.sup0

def RegMap.mem0 : List RegD := [
  ⟨0x120FFFC, [], 17, 0, [⟨0, 8, .ro, 0x12, 0⟩, ⟨8, 8, .ro, 1, 0⟩]⟩,
  ⟨0x1200014, [], 17, 0, [⟨0, 32, .ro, 0, 0⟩]⟩,
  ⟨0x1200018, [], 17, 0, [⟨0, 32, .ro, 0, 0⟩]⟩,
  ⟨0x1200100, [(16, 11)], 17, 0, [⟨0, 32, .ro, 0, 0⟩]⟩,
  ⟨0x1200104, [(16, 11)], 17, 0, [⟨0, 32, .ro, 0, 0⟩]⟩,
  ⟨0x1200108, [(16, 11)], 17, 0, [⟨0, 16, .ro, 0, 0⟩]⟩,
  ⟨0x1200200, [], 17, 1, [⟨0, 32, .ro, 0, 0⟩]⟩,
  ⟨0x1200204, [], 17, 2, [⟨0, 16, .ro, 0, 0⟩]⟩,
  ⟨0x1200208, [], 17, 1, [⟨0, 32, .ro, 0, 0⟩]⟩,
  ⟨0x120020C, [], 17, 2, [⟨0, 16, .ro, 0, 0⟩]⟩,
  ⟨0x1200210, [], 17, 1, [⟨0, 32, .ro, 0, 0⟩]⟩,
  ⟨0x1200214, [], 17, 2, [⟨0, 16, .ro, 0, 0⟩]⟩,
  ⟨0x1200218, [], 17, 1, [⟨0, 32, .ro, 0, 0⟩]⟩,
  ⟨0x120021C, [], 17, 2, [⟨0, 16, .ro, 0, 0⟩]⟩,
  ⟨0x1200220, [], 17, 1, [⟨0, 32, .ro, 0, 0⟩]⟩,
  ⟨0x1200224, [], 17, 2, [⟨0, 16, .ro, 0, 0⟩]⟩,
  ⟨0x1200000, [], 17, 0, [⟨0, 1, .rt, 0, 0⟩, ⟨1, 1, .rt, 0, 0⟩, ⟨2, 2, .rt, 0, 0⟩, ⟨4, 2, .rt, 0, 0⟩, ⟨6, 1, .rt, 0, 0⟩, ⟨7, 1, .ro, 0, 0⟩]⟩,
  ⟨0x1200004, [], 17, 0, [⟨0, 3, .wl, 2, 0⟩, ⟨3, 2, .wl, 3, 0⟩]⟩,
  ⟨0x1200008, [], 17, 0, [⟨0, 8, .rw, 0x18, 0⟩, ⟨8, 16, .rw, 0x10, 0⟩]⟩,
  ⟨0x1200010, [], 17, 0, [⟨0, 1, .rw, 0, 0⟩, ⟨1, 1, .ro, 0, 0⟩, ⟨2, 1, .ro, 0, 0⟩, ⟨3, 4, .ro, 0, 0⟩, ⟨7, 5, .ro, 0, 0⟩, ⟨12, 1, .ro, 0, 0⟩]⟩]

/-- The registers of MEM (unit index 18 of R40). -/
def RegMap.mem : List RegD := RegMap.mem0

def RegMap.hif0 : List RegD := [
  ⟨0x130FFFC, [], 18, 0, [⟨0, 8, .ro, 0x13, 0⟩, ⟨8, 8, .ro, 1, 0⟩]⟩,
  ⟨0x1300010, [], 18, 0, [⟨0, 16, .wl, 0x8100, 0⟩, ⟨16, 16, .wl, 0, 0⟩]⟩,
  ⟨0x1300014, [], 18, 0, [⟨0, 24, .wl, 0x28000, 0⟩]⟩,
  ⟨0x1300100, [(64, 2)], 18, 0, [⟨0, 2, .wl, 0, 0⟩, ⟨2, 1, .wl, 0, 0⟩, ⟨3, 1, .wl, 0, 0⟩, ⟨4, 1, .rw, 1, 0⟩, ⟨5, 1, .wl, 0, 0⟩, ⟨6, 1, .wl, 0, 0⟩, ⟨7, 16, .rw, 0, 0⟩]⟩,
  ⟨0x1300104, [(64, 2)], 18, 0, [⟨0, 32, .wl, 0, 0⟩]⟩,
  ⟨0x1300108, [(64, 2)], 18, 0, [⟨0, 16, .wl, 0, 0⟩]⟩,
  ⟨0x130010C, [(64, 2)], 18, 0, [⟨0, 12, .wl, 0, 0⟩]⟩,
  ⟨0x1300110, [(64, 2)], 18, 0, [⟨0, 2, .rw, 0, 0⟩]⟩,
  ⟨0x1300114, [(64, 2)], 18, 0, [⟨0, 1, .rt, 0, 0⟩]⟩,
  ⟨0x1300120, [(64, 2), (4, 4)], 18, 0, [⟨0, 20, .rw, 0, 0⟩, ⟨20, 1, .rw, 0, 0⟩]⟩,
  ⟨0x1304000, [(8, 1024)], 18, 0, [⟨0, 32, .rw, 0, 0⟩]⟩,
  ⟨0x1304004, [(8, 1024)], 18, 0, [⟨0, 16, .rw, 0, 0⟩, ⟨16, 12, .rw, 0, 0⟩, ⟨28, 1, .rw, 0, 0⟩, ⟨29, 1, .rw, 0, 0⟩]⟩,
  ⟨0x1300200, [], 18, 0, [⟨0, 32, .ro, 0, 0⟩]⟩,
  ⟨0x1300204, [], 18, 0, [⟨0, 16, .ro, 0, 0⟩]⟩,
  ⟨0x1300208, [], 18, 0, [⟨0, 30, .ro, 0, 0⟩]⟩,
  ⟨0x130020C, [], 18, 0, [⟨0, 32, .rw, 0, 0⟩]⟩,
  ⟨0x1300210, [], 18, 0, [⟨0, 32, .wo, 0, 0⟩]⟩,
  ⟨0x1300214, [], 18, 0, [⟨0, 32, .ro, 0, 0⟩]⟩,
  ⟨0x1300218, [], 18, 0, [⟨0, 1, .wo, 0, 0⟩]⟩,
  ⟨0x1301000, [(32, 16)], 18, 0, [⟨0, 32, .rw, 0, 0⟩]⟩,
  ⟨0x1301004, [(32, 16)], 18, 0, [⟨0, 32, .rw, 0, 0⟩]⟩,
  ⟨0x1301008, [(32, 16)], 18, 0, [⟨0, 5, .rw, 4, 0⟩]⟩,
  ⟨0x130100C, [(32, 16)], 18, 0, [⟨0, 16, .rt, 0, 0⟩]⟩,
  ⟨0x1301010, [(32, 16)], 18, 0, [⟨0, 16, .rw, 0, 0⟩]⟩,
  ⟨0x1301400, [(32, 16)], 18, 0, [⟨0, 32, .rw, 0, 0⟩]⟩,
  ⟨0x1301404, [(32, 16)], 18, 0, [⟨0, 32, .rw, 0, 0⟩]⟩,
  ⟨0x1301408, [(32, 16)], 18, 0, [⟨0, 5, .rw, 4, 0⟩]⟩,
  ⟨0x130140C, [(32, 16)], 18, 0, [⟨0, 16, .rt, 0, 0⟩]⟩,
  ⟨0x1301410, [(32, 16)], 18, 0, [⟨0, 16, .rw, 0, 0⟩]⟩,
  ⟨0x1300300, [], 18, 0, [⟨0, 2, .wo, 0, 0⟩]⟩,
  ⟨0x1300304, [], 18, 0, [⟨0, 32, .rw, 0, 0⟩]⟩,
  ⟨0x1300308, [], 18, 0, [⟨0, 1, .rt, 0, 0⟩, ⟨1, 2, .ro, 0, 0⟩]⟩,
  ⟨0x1300400, [(4, 64)], 18, 0, [⟨0, 32, .rw, 0, 0⟩]⟩,
  ⟨0x1300310, [], 0, 0, [⟨0, 1, .rw, 1, 0⟩]⟩,
  ⟨0x1300320, [], 18, 0, [⟨0, 32, .rw, 0, 0⟩]⟩,
  ⟨0x1300324, [], 18, 0, [⟨0, 32, .rw, 0, 0⟩]⟩,
  ⟨0x1300328, [], 18, 0, [⟨0, 32, .rt, 0, 0⟩]⟩,
  ⟨0x130032C, [], 18, 0, [⟨0, 32, .rw, 0, 0⟩]⟩,
  ⟨0x1300330, [], 18, 0, [⟨0, 5, .rw, 0, 0⟩, ⟨5, 1, .rw, 0, 0⟩, ⟨8, 5, .rw, 0, 0⟩, ⟨13, 1, .rw, 0, 0⟩, ⟨16, 5, .rw, 0, 0⟩, ⟨21, 1, .rw, 0, 0⟩, ⟨24, 5, .rw, 0, 0⟩, ⟨29, 1, .rw, 0, 0⟩]⟩,
  ⟨0x1300334, [], 18, 0, [⟨0, 5, .rw, 0, 0⟩, ⟨5, 1, .rw, 0, 0⟩, ⟨8, 5, .rw, 0, 0⟩, ⟨13, 1, .rw, 0, 0⟩, ⟨16, 5, .rw, 0, 0⟩, ⟨21, 1, .rw, 0, 0⟩, ⟨24, 5, .rw, 0, 0⟩, ⟨29, 1, .rw, 0, 0⟩]⟩]

def RegMap.hif1 : List RegD := [
  ⟨0x1300800, [], 18, 1, [⟨0, 32, .ro, 0, 0⟩]⟩,
  ⟨0x1300804, [], 18, 2, [⟨0, 16, .ro, 0, 0⟩]⟩,
  ⟨0x1300808, [], 18, 1, [⟨0, 32, .ro, 0, 0⟩]⟩,
  ⟨0x130080C, [], 18, 2, [⟨0, 16, .ro, 0, 0⟩]⟩,
  ⟨0x1300810, [], 18, 1, [⟨0, 32, .ro, 0, 0⟩]⟩,
  ⟨0x1300814, [], 18, 2, [⟨0, 16, .ro, 0, 0⟩]⟩,
  ⟨0x1300818, [], 18, 1, [⟨0, 32, .ro, 0, 0⟩]⟩,
  ⟨0x130081C, [], 18, 2, [⟨0, 16, .ro, 0, 0⟩]⟩,
  ⟨0x1300820, [], 18, 1, [⟨0, 32, .ro, 0, 0⟩]⟩,
  ⟨0x1300824, [], 18, 2, [⟨0, 16, .ro, 0, 0⟩]⟩,
  ⟨0x1300828, [], 18, 1, [⟨0, 32, .ro, 0, 0⟩]⟩,
  ⟨0x130082C, [], 18, 2, [⟨0, 16, .ro, 0, 0⟩]⟩,
  ⟨0x1300830, [], 18, 1, [⟨0, 32, .ro, 0, 0⟩]⟩,
  ⟨0x1300834, [], 18, 2, [⟨0, 16, .ro, 0, 0⟩]⟩,
  ⟨0x1300838, [], 18, 1, [⟨0, 32, .ro, 0, 0⟩]⟩,
  ⟨0x130083C, [], 18, 2, [⟨0, 16, .ro, 0, 0⟩]⟩,
  ⟨0x1300840, [], 18, 1, [⟨0, 32, .ro, 0, 0⟩]⟩,
  ⟨0x1300844, [], 18, 2, [⟨0, 16, .ro, 0, 0⟩]⟩,
  ⟨0x1300848, [], 18, 1, [⟨0, 32, .ro, 0, 0⟩]⟩,
  ⟨0x130084C, [], 18, 2, [⟨0, 16, .ro, 0, 0⟩]⟩,
  ⟨0x1300000, [], 18, 0, [⟨0, 1, .rt, 0, 0⟩, ⟨1, 3, .rt, 0, 0⟩, ⟨4, 2, .rt, 0, 0⟩, ⟨6, 2, .rt, 0, 0⟩, ⟨8, 1, .rt, 0, 0⟩, ⟨9, 7, .rt, 0, 0⟩]⟩,
  ⟨0x1300004, [], 18, 0, [⟨0, 1, .wl, 0, 0⟩, ⟨1, 8, .rw, 0xA, 0⟩, ⟨9, 4, .rw, 0, 0⟩, ⟨13, 4, .rw, 0, 0⟩, ⟨17, 1, .rw, 0, 0⟩]⟩]

/-- The registers of HIF (unit index 19 of R40). -/
def RegMap.hif : List RegD := RegMap.hif0 ++ RegMap.hif1

def RegMap.tst0 : List RegD := [
  ⟨0x140FFFC, [], 1, 0, [⟨0, 8, .ro, 0x14, 0⟩, ⟨8, 8, .ro, 1, 0⟩]⟩,
  ⟨0x140000C, [], 1, 0, [⟨0, 32, .ro, 0, 0⟩]⟩,
  ⟨0x1400010, [], 1, 0, [⟨0, 32, .ro, 0, 0⟩]⟩,
  ⟨0x1400014, [], 1, 0, [⟨0, 32, .ro, 0x8100E35, 0⟩]⟩,
  ⟨0x1400100, [], 1, 1, [⟨0, 32, .ro, 0, 0⟩]⟩,
  ⟨0x1400104, [], 1, 2, [⟨0, 16, .ro, 0, 0⟩]⟩,
  ⟨0x1400108, [], 1, 1, [⟨0, 32, .ro, 0, 0⟩]⟩,
  ⟨0x140010C, [], 1, 2, [⟨0, 16, .ro, 0, 0⟩]⟩,
  ⟨0x1400110, [], 1, 1, [⟨0, 32, .ro, 0, 0⟩]⟩,
  ⟨0x1400114, [], 1, 2, [⟨0, 16, .ro, 0, 0⟩]⟩,
  ⟨0x1400118, [], 1, 1, [⟨0, 32, .ro, 0, 0⟩]⟩,
  ⟨0x140011C, [], 1, 2, [⟨0, 16, .ro, 0, 0⟩]⟩,
  ⟨0x1400120, [], 1, 1, [⟨0, 32, .ro, 0, 0⟩]⟩,
  ⟨0x1400124, [], 1, 2, [⟨0, 16, .ro, 0, 0⟩]⟩,
  ⟨0x1400000, [], 1, 0, [⟨0, 1, .rt, 0, 0⟩, ⟨1, 5, .rt, 0, 0⟩, ⟨6, 3, .rt, 0, 0⟩]⟩,
  ⟨0x1400004, [], 1, 0, [⟨0, 5, .wo, 0, 0⟩, ⟨5, 1, .wo, 0, 0⟩, ⟨6, 1, .wo, 0, 0⟩, ⟨7, 1, .wo, 0, 0⟩, ⟨8, 8, .wo, 0, 0⟩]⟩,
  ⟨0x1400008, [], 1, 0, [⟨0, 4, .ro, 0, 0⟩, ⟨4, 8, .ro, 0, 0⟩, ⟨12, 1, .ro, 0, 0⟩, ⟨13, 1, .ro, 0, 0⟩, ⟨14, 10, .ro, 0, 0⟩, ⟨24, 8, .ro, 0, 0⟩]⟩]

/-- The registers of TST (unit index 20 of R40). -/
def RegMap.tst : List RegD := RegMap.tst0

def RegMap.cfg0 : List RegD := [
  ⟨0x150FFFC, [], 1, 0, [⟨0, 8, .ro, 0x15, 0⟩, ⟨8, 8, .ro, 1, 0⟩]⟩,
  ⟨0x1500004, [], 1, 0, [⟨0, 8, .ro, 0, 0⟩, ⟨8, 24, .ro, 0, 0⟩]⟩,
  ⟨0x1500008, [], 1, 0, [⟨0, 8, .ro, 0, 0⟩, ⟨8, 24, .ro, 0, 0⟩]⟩,
  ⟨0x1500018, [], 1, 1, [⟨0, 32, .ro, 0, 0⟩]⟩,
  ⟨0x150001C, [], 1, 2, [⟨0, 16, .ro, 0, 0⟩]⟩,
  ⟨0x1500030, [(4, 12)], 1, 0, [⟨0, 32, .ro, 0, 0⟩]⟩,
  ⟨0x1500000, [], 1, 0, [⟨0, 3, .ro, 0, 0⟩, ⟨3, 1, .ro, 0, 0⟩, ⟨4, 1, .ro, 0, 0⟩, ⟨5, 1, .ro, 0, 0⟩, ⟨6, 1, .rt, 0, 0⟩]⟩,
  ⟨0x150000C, [], 1, 0, [⟨0, 32, .ro, 0, 0⟩]⟩,
  ⟨0x1500010, [], 1, 0, [⟨0, 32, .ro, 0, 0⟩]⟩,
  ⟨0x1500014, [], 1, 0, [⟨0, 1, .wo, 0, 0⟩, ⟨1, 1, .wo, 0, 0⟩, ⟨2, 1, .wo, 0, 0⟩]⟩,
  ⟨0x1500020, [], 1, 0, [⟨0, 32, .ro, 0, 0⟩]⟩]

/-- The registers of CFG (unit index 21 of R40). -/
def RegMap.cfg : List RegD := RegMap.cfg0

def RegMap.lgc0 : List RegD := [
  ⟨0x160FFFC, [], 20, 0, [⟨0, 8, .ro, 0x16, 0⟩, ⟨8, 8, .ro, 1, 0⟩]⟩,
  ⟨0x1600100, [(16, 4)], 20, 0, [⟨0, 5, .rt, 0, 0⟩, ⟨5, 5, .rt, 0, 0⟩]⟩,
  ⟨0x1600104, [(16, 4)], 20, 0, [⟨0, 32, .rt, 0, 0⟩]⟩,
  ⟨0x1600108, [(16, 4)], 20, 0, [⟨0, 32, .rt, 0, 0⟩]⟩,
  ⟨0x1601000, [(512, 4), (4, 128)], 20, 0, [⟨0, 8, .ro, 0, 0⟩]⟩,
  ⟨0x1600400, [(128, 4)], 20, 1, [⟨0, 32, .ro, 0, 0⟩]⟩,
  ⟨0x1600404, [(128, 4)], 20, 2, [⟨0, 16, .ro, 0, 0⟩]⟩,
  ⟨0x1600408, [(128, 4)], 20, 1, [⟨0, 32, .ro, 0, 0⟩]⟩,
  ⟨0x160040C, [(128, 4)], 20, 2, [⟨0, 16, .ro, 0, 0⟩]⟩,
  ⟨0x1600410, [(128, 4)], 20, 1, [⟨0, 32, .ro, 0, 0⟩]⟩,
  ⟨0x1600414, [(128, 4)], 20, 2, [⟨0, 16, .ro, 0, 0⟩]⟩,
  ⟨0x1600418, [(128, 4)], 20, 1, [⟨0, 32, .ro, 0, 0⟩]⟩,
  ⟨0x160041C, [(128, 4)], 20, 2, [⟨0, 16, .ro, 0, 0⟩]⟩,
  ⟨0x1600420, [(128, 4)], 20, 1, [⟨0, 32, .ro, 0, 0⟩]⟩,
  ⟨0x1600424, [(128, 4)], 20, 2, [⟨0, 16, .ro, 0, 0⟩]⟩,
  ⟨0x1600428, [(128, 4)], 20, 1, [⟨0, 32, .ro, 0, 0⟩]⟩,
  ⟨0x160042C, [(128, 4)], 20, 2, [⟨0, 16, .ro, 0, 0⟩]⟩,
  ⟨0x1600430, [(128, 4)], 20, 1, [⟨0, 32, .ro, 0, 0⟩]⟩,
  ⟨0x1600434, [(128, 4)], 20, 2, [⟨0, 16, .ro, 0, 0⟩]⟩,
  ⟨0x1600438, [(128, 4)], 20, 1, [⟨0, 32, .ro, 0, 0⟩]⟩,
  ⟨0x160043C, [(128, 4)], 20, 2, [⟨0, 16, .ro, 0, 0⟩]⟩,
  ⟨0x1600440, [(128, 4)], 20, 1, [⟨0, 32, .ro, 0, 0⟩]⟩,
  ⟨0x1600444, [(128, 4)], 20, 2, [⟨0, 16, .ro, 0, 0⟩]⟩,
  ⟨0x1600448, [(128, 4)], 20, 1, [⟨0, 32, .ro, 0, 0⟩]⟩,
  ⟨0x160044C, [(128, 4)], 20, 2, [⟨0, 16, .ro, 0, 0⟩]⟩,
  ⟨0x1600450, [(128, 4)], 20, 1, [⟨0, 32, .ro, 0, 0⟩]⟩,
  ⟨0x1600454, [(128, 4)], 20, 2, [⟨0, 16, .ro, 0, 0⟩]⟩,
  ⟨0x1600000, [], 20, 0, [⟨0, 4, .rt, 0, 0⟩, ⟨4, 4, .rt, 0, 0⟩]⟩,
  ⟨0x1600004, [], 20, 0, [⟨0, 4, .wl, 0, 0⟩, ⟨4, 2, .wl, 0, 0⟩, ⟨6, 4, .wl, 0, 0⟩, ⟨10, 4, .wl, 0, 0⟩]⟩]

/-- The registers of LGC (unit index 22 of R40). -/
def RegMap.lgc : List RegD := RegMap.lgc0

def RegMap.prc0 : List RegD := [
  ⟨0x170FFFC, [], 1, 0, [⟨0, 8, .ro, 0x17, 0⟩, ⟨8, 8, .ro, 1, 0⟩]⟩,
  ⟨0x1700010, [], 1, 0, [⟨0, 2, .rw, 0, 0⟩, ⟨2, 1, .rw, 1, 0⟩, ⟨3, 4, .wl, 0, 0⟩]⟩,
  ⟨0x1700014, [], 1, 0, [⟨0, 2, .rw, 1, 0⟩, ⟨2, 1, .rw, 1, 0⟩, ⟨3, 4, .wl, 1, 0⟩]⟩,
  ⟨0x1700018, [], 1, 0, [⟨0, 2, .rw, 2, 0⟩, ⟨2, 1, .rw, 1, 0⟩, ⟨3, 4, .wl, 2, 0⟩]⟩,
  ⟨0x170001C, [], 1, 0, [⟨0, 2, .rw, 3, 0⟩, ⟨2, 1, .rw, 1, 0⟩, ⟨3, 4, .wl, 3, 0⟩]⟩,
  ⟨0x1700020, [], 1, 0, [⟨0, 2, .rw, 0, 0⟩, ⟨2, 1, .rw, 1, 0⟩, ⟨3, 4, .wl, 4, 0⟩]⟩,
  ⟨0x1700024, [], 1, 0, [⟨0, 2, .rw, 1, 0⟩, ⟨2, 1, .rw, 1, 0⟩, ⟨3, 4, .wl, 5, 0⟩]⟩,
  ⟨0x1700028, [], 1, 0, [⟨0, 2, .rw, 2, 0⟩, ⟨2, 1, .rw, 1, 0⟩, ⟨3, 4, .wl, 6, 0⟩]⟩,
  ⟨0x170002C, [], 1, 0, [⟨0, 2, .rw, 3, 0⟩, ⟨2, 1, .rw, 1, 0⟩, ⟨3, 4, .wl, 7, 0⟩]⟩,
  ⟨0x1700030, [], 1, 0, [⟨0, 2, .rw, 0, 0⟩, ⟨2, 1, .rw, 1, 0⟩, ⟨3, 4, .wl, 8, 0⟩]⟩,
  ⟨0x1700034, [], 1, 0, [⟨0, 2, .rw, 1, 0⟩, ⟨2, 1, .rw, 1, 0⟩, ⟨3, 4, .wl, 0xF, 0⟩]⟩,
  ⟨0x1700038, [], 1, 0, [⟨0, 2, .rw, 2, 0⟩, ⟨2, 1, .rw, 1, 0⟩, ⟨3, 4, .wl, 0xF, 0⟩]⟩,
  ⟨0x170003C, [], 1, 0, [⟨0, 2, .rw, 3, 0⟩, ⟨2, 1, .rw, 1, 0⟩, ⟨3, 4, .wl, 0xF, 0⟩]⟩,
  ⟨0x1700040, [], 1, 0, [⟨0, 2, .rw, 0, 0⟩, ⟨2, 1, .rw, 1, 0⟩, ⟨3, 4, .wl, 0xF, 0⟩]⟩,
  ⟨0x1700044, [], 1, 0, [⟨0, 2, .rw, 1, 0⟩, ⟨2, 1, .rw, 1, 0⟩, ⟨3, 4, .wl, 0xF, 0⟩]⟩,
  ⟨0x1700048, [], 1, 0, [⟨0, 2, .rw, 2, 0⟩, ⟨2, 1, .rw, 1, 0⟩, ⟨3, 4, .wl, 0xF, 0⟩]⟩,
  ⟨0x170004C, [], 1, 0, [⟨0, 2, .rw, 3, 0⟩, ⟨2, 1, .rw, 1, 0⟩, ⟨3, 4, .wl, 0xF, 0⟩]⟩,
  ⟨0x1700100, [(32, 16), (4, 4)], 1, 0, [⟨0, 32, .wl, 0, 0⟩]⟩,
  ⟨0x1700110, [(32, 16)], 1, 0, [⟨0, 8, .wl, 0, 0⟩, ⟨8, 1, .wl, 0, 0⟩, ⟨9, 1, .wl, 0, 0⟩]⟩,
  ⟨0x1700300, [(4, 4)], 1, 0, [⟨0, 32, .wl, 0, 0⟩]⟩,
  ⟨0x1700310, [], 1, 0, [⟨0, 8, .wl, 0, 0⟩, ⟨8, 2, .wl, 0, 0⟩, ⟨10, 5, .wl, 0xC, 0⟩, ⟨15, 4, .wl, 8, 0⟩]⟩,
  ⟨0x1700314, [], 1, 0, [⟨0, 8, .rt, 0, 0⟩]⟩,
  ⟨0x1700318, [], 1, 0, [⟨0, 1, .wo, 0, 0⟩]⟩,
  ⟨0x1700400, [], 1, 1, [⟨0, 32, .ro, 0, 0⟩]⟩,
  ⟨0x1700404, [], 1, 2, [⟨0, 16, .ro, 0, 0⟩]⟩,
  ⟨0x1700408, [], 1, 1, [⟨0, 32, .ro, 0, 0⟩]⟩,
  ⟨0x170040C, [], 1, 2, [⟨0, 16, .ro, 0, 0⟩]⟩,
  ⟨0x1700410, [], 1, 1, [⟨0, 32, .ro, 0, 0⟩]⟩,
  ⟨0x1700414, [], 1, 2, [⟨0, 16, .ro, 0, 0⟩]⟩,
  ⟨0x1700418, [], 1, 1, [⟨0, 32, .ro, 0, 0⟩]⟩,
  ⟨0x170041C, [], 1, 2, [⟨0, 16, .ro, 0, 0⟩]⟩,
  ⟨0x1700420, [], 1, 1, [⟨0, 32, .ro, 0, 0⟩]⟩,
  ⟨0x1700424, [], 1, 2, [⟨0, 16, .ro, 0, 0⟩]⟩,
  ⟨0x1700428, [], 1, 1, [⟨0, 32, .ro, 0, 0⟩]⟩,
  ⟨0x170042C, [], 1, 2, [⟨0, 16, .ro, 0, 0⟩]⟩,
  ⟨0x1700430, [], 1, 1, [⟨0, 32, .ro, 0, 0⟩]⟩,
  ⟨0x1700434, [], 1, 2, [⟨0, 16, .ro, 0, 0⟩]⟩,
  ⟨0x1700438, [], 1, 1, [⟨0, 32, .ro, 0, 0⟩]⟩,
  ⟨0x170043C, [], 1, 2, [⟨0, 16, .ro, 0, 0⟩]⟩,
  ⟨0x1700440, [], 1, 1, [⟨0, 32, .ro, 0, 0⟩]⟩]

def RegMap.prc1 : List RegD := [
  ⟨0x1700444, [], 1, 2, [⟨0, 16, .ro, 0, 0⟩]⟩,
  ⟨0x1700448, [], 1, 1, [⟨0, 32, .ro, 0, 0⟩]⟩,
  ⟨0x170044C, [], 1, 2, [⟨0, 16, .ro, 0, 0⟩]⟩,
  ⟨0x1700000, [], 1, 0, [⟨0, 4, .rt, 0, 0⟩, ⟨4, 4, .rt, 0, 0⟩, ⟨8, 4, .rt, 0, 0⟩]⟩,
  ⟨0x1700008, [], 1, 0, [⟨0, 16, .rw, 0x64, 0⟩]⟩]

/-- The registers of PRC (unit index 23 of R40). -/
def RegMap.prc : List RegD := RegMap.prc0 ++ RegMap.prc1

/-- The register maps by unit index (R40). -/
def RegMap.units : List (List RegD) :=
  [RegMap.chip, RegMap.evt, RegMap.gtb, RegMap.rfp, RegMap.dmx, RegMap.sic, RegMap.cdc, RegMap.msq, RegMap.bgt, RegMap.slv, RegMap.qmg, RegMap.fwd, RegMap.kvt, RegMap.cry, RegMap.upd, RegMap.csc, RegMap.pwr, RegMap.sup, RegMap.mem, RegMap.hif, RegMap.tst, RegMap.cfg, RegMap.lgc, RegMap.prc]

end Sys2Proof.Machine
end

