-- ==== Sys2Proof/Machine/State.lean ====
section
/-! DEFINITION. The state of the block: every register, FIFO, buffer, counter, mode and pin the spec gives it, as plain
data, the queue of waiting commands, the fault and refusal names, and the state right after a power-on reset. -/

namespace Sys2Proof.Machine

/-- Why the block stops. The spec stops the block nowhere: every fault of chapter 21 is recorded and the block goes
on, so no meaning raises this. The one constructor names the ill-formed command. -/
inductive Fault where
  /-- Raised by no meaning of this model: kept for a command outside the table's operand ranges. Safe. -/
  | illFormed
  deriving DecidableEq, Repr

/-- Why a command has no meaning. -/
inductive Refusal where
  /-- Raised by Dispatch for a command whose row has no meaning in the model, named by its mnemonic. Safe. -/
  | notModelled (mnemonic : String)
  deriving DecidableEq, Repr

/-- What a register access gave back to its initiator: the octets of a read, and whether the access completed
without a fault record (R51 to R55). -/
structure Resp where
  data : List Octet := []
  ok : Bool := true
  deriving DecidableEq, Repr

/-- The event hub outside its registers: the firmware pending set (R61), the MSI-X capability (R64), the messages
sent, capture numbers (R55, R432), and which routes a non-secure initiator set (R337). -/
structure Evt where
  fwPend : BitVec 256 := 0
  msixEnabled : Bool := false
  msixMask : BitVec 16 := 0xFFFF
  msixPend : BitVec 16 := 0
  sent : List Nat := []
  captures : Nat := 0
  supCaptures : Nat := 0
  nsRoute : BitVec 256 := 0
  resp : Resp := {}
  deriving DecidableEq, Repr

/-- A staged set of one commit group (R50): the unit, the group, the staged words of the registers that carry the
group's fields, and the slot number at which it was staged. -/
structure Staged where
  unit : Nat
  grp : Nat
  vals : Tab Word
  gsn : Nat
  deriving DecidableEq, Repr

/-- The settled states of a power domain (R405). -/
inductive DomMode where
  | off | on | ret
  deriving DecidableEq, Repr

/-- Where a domain stands in a sequence of R408 to R410 and R506, or under a self-test (R462), with the state it returns to. -/
inductive DomSeq where
  | idle
  | draining (dest : DomMode)
  | entering (dest : DomMode)
  | exiting (next : Option DomMode)
  | testing (back : DomMode)
  deriving DecidableEq, Repr

/-- One power domain: settled state, sequence, the latched request of R410, and whether an entry of the passage of
R506 is under way. -/
structure Dom where
  mode : DomMode := .off
  seq : DomSeq := .idle
  latched : Option DomMode := none
  passage : Bool := false
  deriving DecidableEq, Repr

/-- The device low-power modes (R411). -/
inductive LpMode where
  | deepret | aononly
  deriving DecidableEq, Repr

/-- Where the device stands in a low-power mode (R411 to R414). -/
inductive ModeState where
  | service
  | entering (m : LpMode)
  | inMode (m : LpMode)
  | exiting (m : LpMode)
  deriving DecidableEq, Repr

/-- The wake events of R412. -/
inductive Wake where
  | gpio | smbus | alarm
  deriving DecidableEq, Repr

/-- A supply dip in progress (R418, R420): which rails, which began it, whether an operation was held, and whether it
has lasted more than 1 ms (source 18 fired). -/
structure Dip where
  core : Bool
  io : Bool
  firstIo : Bool
  held : Bool
  long : Bool
  deriving DecidableEq, Repr

/-- Operations that a dip holds (R418), in the order of their requests. -/
inductive HeldOp where
  | journal | counterBlock | epochFuse | svnFuse | directory | bankWrite | imageCopy
  deriving DecidableEq, Repr

/-- What resets the device (R386). -/
inductive ResetCause where
  | powerOn | pin | core | io | soft
  deriving DecidableEq, Repr

/-- PWR outside its registers (chapter 20) and the reset condition (R386): domains by code of R56 (their register files stay in
the register table while they are OFF, as in PWR's save area), mode, latched wake, a mode command that waits for a flash write or
fuse burn, dip, held operations, the cause of the last reset and the resets since power-on (kept in PD_AON), what was kept through
it, whether the condition still lasts, whether the core PLL is locked, whether the switch of R391 has been asked for, whether
the step to SL2 has begun (R399). -/
structure Pwr where
  doms : List Dom := List.replicate 21 {}
  mode : ModeState := .service
  wake : Option Wake := none
  modeWait : Option LpMode := none
  dip : Option Dip := none
  held : List HeldOp := []
  inReset : Bool := true
  cause : ResetCause := .powerOn
  resets : Nat := 0
  aonKept : Bool := false
  dramKept : Bool := false
  pll : Bool := false
  clkReq : Bool := false
  sl2 : Bool := false
  deriving DecidableEq, Repr

/-- A fault notice (R426): class of R422, unit, DETAIL for SUP_FLTREC, reporting source, and what the log entry of
R431 keeps from the moment of detection. -/
structure Notice where
  cls : Nat
  unit : Nat
  detail : Nat
  src : Nat
  gt : Nat
  level : Nat
  keel : Bool
  action : Nat
  deriving DecidableEq, Repr

/-- One entry of the fault log (R431). -/
structure LogEntry where
  gt : Nat
  cls : Nat
  ovf : Bool
  unit : Nat
  src : Nat
  action : Nat
  level : Nat
  keel : Bool
  seq : Nat
  deriving DecidableEq, Repr

/-- The states of the Fallback Sequencer (R425). -/
inductive FsState where
  | normal | restart | keel
  deriving DecidableEq, Repr

/-- SUP and the Fallback Sequencer outside the registers (chapter 21). The log, its sequence number, the held notices
and the sequencer state lie in PD_AON. Restart moments are free time in µs. `wdFt` is when the SUP watchdog was last restarted,
`prcHalt` the PRC processors that a debugger has halted, `haltWait` those whose halt a secure context defers (R339). -/
structure Sup where
  fs : FsState := .normal
  restartAt : Option Nat := none
  halted : Bool := false
  notices : List Notice := []
  notOvf : Bool := false
  log : List LogEntry := []
  logSeq : Nat := 0
  prcRestarts : List (Nat × Nat) := []
  refclkLost : Bool := false
  failPin : Bool := false
  tsMisWindow : Nat := 0
  wdFt : Nat := 0
  prcHalt : List Nat := []
  haltWait : List Nat := []
  deriving DecidableEq, Repr

/-- CFG outside its registers (chapters 02 and 19): copies still to be checked, the copy that waits at step 8 of R33, the
payload, signed part's digest, number and generation of the copy that passed, µs at which the load began, whether pass 3 has
written the PWR records, whether read 5 has been applied, the copy of a CHECK under way, whether the check of the other copy waits for KVT. -/
structure Cfg where
  order : List Nat := []
  waits : Option Nat := none
  payload : List Octet := []
  digest : List Octet := []
  copy : Nat := 0
  gen : Nat := 0
  startFt : Nat := 0
  pwrDone : Bool := false
  dram : Bool := false
  check : Option Nat := none
  otherWait : Bool := false
  deriving DecidableEq, Repr

/-- The holdover record in PD_AON (R83). Frequencies in mHz. -/
structure HoldRec where
  gt : Nat
  refcnt : Nat
  freq : Nat
  line : Nat
  vg : Nat
  res : Nat
  state : Nat
  deriving DecidableEq, Repr

/-- One pulse generator outside its registers (R92, R93): start and period of the series in force, the next edge, a pulse in progress
and its end in GT. -/
structure Pulse where
  start : Nat := 0
  per : Nat := 0
  next : Option Nat := none
  busy : Bool := false
  fin : Nat := 0
  deriving DecidableEq, Repr

/-- GTB outside its registers (chapter 04): last grid time and free time seen, phase error, holdover record (PD_AON), qualification, the
last accepted zero crossing, residual samples, when a peer of lower rank was last heard, whether this chip is a member whose anchor is
VALID, the offset to the anchor that FOLLOW steers by (R378), UTC captures in a row, an armed UTC load, the next 1PPS second, latched
compare targets, pulse generators, legacy stamps (port, FT[27:0]), a discarded stamp, consecutive good cycles (R68), one-second means of
the mains frequency, newest last, up to 120 (R76, R187, R194), the sum and the number of the frequencies of the running second, when the
slew began or was last rebased, slot G of a step (R81), and the number of the running one-second window (R136). -/
structure Gtb where
  gt : Nat := 0
  ft : Nat := 0
  e : Int := 0
  holdRec : Option HoldRec := none
  freq : Nat := 0
  qualified : Bool := false
  lastZc : Option Nat := none
  resids : List Int := []
  peerAt : Option Nat := none
  anchorValid : Bool := false
  steer : Int := 0
  utcRun : Nat := 0
  utcLoad : Bool := false
  utcNext : Nat := 0
  cmpT : List Nat := List.replicate 8 0
  pulses : List Pulse := List.replicate 8 {}
  stamps : List (Nat × Nat) := []
  stampOvf : Bool := false
  good : Nat := 0
  freqs : List Nat := []
  qsum : Nat := 0
  qn : Nat := 0
  slewFt : Nat := 0
  stepG : Nat := 0
  second : Nat := 0
  deriving DecidableEq, Repr

/-- A marker of the sample history (R107). -/
structure Marker where
  count : Nat
  gt : Nat
  valid : Bool
  deriving DecidableEq, Repr

/-- What a clear-channel assessment answers (R111): CLEAR, or BUSY with its reason. -/
inductive CcaAnswer where
  | clear | noMeas | own | energy | carrier
  deriving DecidableEq, Repr

/-- A clear-channel assessment in progress (R110, R111): the transmission it serves, slice of the port, window in
16 µs units, threshold in 0.25 dBm, modes, and what was seen so far: `noMeas` a request that RFP cannot measure, `down` a link
that is not UP before the window or was not in it. `dbfs` is the threshold in 0.25 dBFS, `opn` and `fin` the window in GT. -/
structure Cca where
  id : Nat
  user : TxUser
  slice : Nat
  win : Nat
  thr : Int
  dbfs : Int
  energy : Bool
  carrier : Bool
  noMeas : Bool
  own : Bool
  hit : Bool
  down : Bool := false
  opn : Nat := 0
  fin : Nat := 0
  deriving DecidableEq, Repr

/-- A reserved or active transmit stream (R112 to R115). Times are grid time; `rel` is when the first chip was released, `amp` the
amplitude the frame started with. -/
structure Stream where
  id : Nat
  user : TxUser
  slice : Nat
  start : Nat
  dur : Nat
  prof : Nat
  active : Bool
  rel : Nat := 0
  amp : Nat := 0
  deriving DecidableEq, Repr

/-- An outstanding history read (R108); `tag` is the job, lane or search it serves, `addr` where its first sample lies (R106). -/
structure HistRead where
  id : Nat
  reader : HistReader
  tag : Nat
  port : Nat
  start : Nat
  count : Nat
  addr : Nat := 0
  deriving DecidableEq, Repr

/-- The outcomes of a history read (R108). -/
inductive HistOutcome where
  | ok | overwritten | gap | future
  deriving DecidableEq, Repr

/-- A write posted to RFP_PXCMD that has not landed (R49, R101, R102): its word, and whether a transaction goes out for it. -/
structure Proxy where
  port : Nat
  rd : Bool
  addr : Nat
  data : Nat
  word : Word
  sent : Bool
  deriving DecidableEq, Repr

/-- One RF port outside its registers: the first measured link latency since power-on, the device clock out of
tolerance, port count of the newest written sample, markers (newest last), whether the current block misses samples,
running assessments, streams, the profile pins, and per slice the lowest powers of the idle milliseconds (newest
last); slices not idle in the running millisecond. -/
structure RfpPort where
  lat0 : Option Nat := none
  clkBad : Bool := false
  count : Nat := 0
  markers : List Marker := []
  gap : Bool := false
  ccas : List Cca := []
  streams : List Stream := []
  prof : Nat := 0
  nf : Tab (List Nat) := []
  msBusy : List Nat := []
  deriving DecidableEq, Repr

/-- RFP outside its registers (chapter 05). `conv` lists the transactions that CFG has sent to converters during the load (port, read,
address, data; R28, R34), `convWait` the steps of RFP_CONVINIT records whose port's domain is not on yet. `lastCca` is the last assessment
answered, `lastAbort` the last stream ended with its chips sent, `i3wave` the signs on I and Q of the I3 frames in the stream buffers
(R118). -/
structure Rfp where
  ports : List RfpPort := List.replicate 4 {}
  proxy : Option Proxy := none
  reads : List HistRead := []
  nextRead : Nat := 0
  nextTx : Nat := 0
  lastRead : Option (Nat × HistOutcome) := none
  lastRefusal : Nat := 0
  conv : List (Nat × Bool × Nat × Nat) := []
  convWait : List (Word × Bool) := []
  lastCca : Option (Nat × CcaAnswer) := none
  lastAbort : Option (Nat × Nat) := none
  i3wave : Tab (List Int × List Int) := []
  deriving DecidableEq, Repr

/-- A quality record (R153), field by field; `lh` and `lp` are the codes of L_H and L_P. -/
structure QRec where
  sfdGt : Nat
  slice : Nat
  phy : Bool
  retro : Bool
  div : Bool
  divLost : Bool
  lh : Nat
  lp : Nat
  outcome : Nat
  sicReq : Bool
  ovl : Nat
  meas : Meas
  hdr : Nat
  corr : Nat
  lane : Nat
  retroDly : Nat
  node : Option Nat
  deriving DecidableEq, Repr

/-- A frame on its way from a lane or from SIC to MSQ, or through MSQ to LGC (R143, R165): its record, its payload
octets, the GT of its end, its header, and the search of MSQ that found it, if one did (R197). -/
structure RxFrame where
  search : Option Nat
  qrec : QRec
  hdr : Hdr
  payload : List Octet
  fin : Nat
  deriving DecidableEq, Repr

/-- A lane that holds a frame (R142): state 1 SFDSRCH, 2 HEADER, 3 PAYLOAD; hunter, slice, PHY, L_H code, chip timing,
detection time (GT and µs), measurements, header, retro and catch-up flags, claim delay, overlap flags, lost port,
thresholds at the claim, whether the last payload symbol has gone to CDC, and whether the weights have been updated and each port's
has once reached 1/64 of the other's (R147). -/
structure Lane where
  state : Nat
  hunter : Nat
  slice : Nat
  phy : Bool
  lh : Nat
  timing : Nat
  detGt : Nat
  detFt : Nat
  sfdGt : Nat
  meas : Meas
  hdr : Option Hdr
  hdrWord : Nat
  retro : Bool
  catchup : Bool
  delay : Nat
  ovl : Nat
  div : Bool
  lostLow : Bool
  lostHigh : Bool
  thr : Word
  search : Option Nat
  waiting : Bool
  weighed : Bool := false
  seen0 : Bool := false
  seen1 : Bool := false
  deriving DecidableEq, Repr

/-- A detection that waits for a lane (R148); `second` says that a lane held a frame on its slice (R140). -/
structure Retro where
  hunter : Nat
  slice : Nat
  phy : Bool
  lh : Nat
  timing : Nat
  detGt : Nat
  detFt : Nat
  meas : Meas
  search : Option Nat
  second : Bool := false
  deriving DecidableEq, Repr

/-- What DMX counts of one slice in a statistics window (R157): µs in which a lane held a frame, and since when one
does now. -/
structure SliceStat where
  busy : Nat := 0
  since : Option Nat := none
  dets : Nat := 0
  oks : Nat := 0
  ovls : Nat := 0
  deriving DecidableEq, Repr

/-- A slice statistics record (R157). -/
structure StatRec where
  slice : Nat
  nf : Nat
  gcn : Nat
  busy : Nat
  dets : Nat
  oks : Nat
  ovls : Nat
  deriving DecidableEq, Repr

/-- DMX outside its registers (chapter 07): busy lanes by number, retro queue, mirror FIFO, NOSFD counts per hunter in
the running second, statistics of the running window, its start and its number (R157). -/
structure Dmx where
  lanes : Tab Lane := []
  retro : List Retro := []
  mirror : List QRec := []
  noSfd : Tab Nat := []
  stats : Tab SliceStat := []
  winFt : Nat := 0
  win : Nat := 0
  deriving DecidableEq, Repr

/-- An encode request of CDC (R135), in start-GT order: the transmission it fills, its start, L_H code, header and
payload octets. -/
structure EncReq where
  id : Nat
  start : Nat
  lh : Nat
  hdr : Hdr
  payload : List Octet
  deriving DecidableEq, Repr

/-- CDC outside its registers (chapter 06): encode requests, the chips encoded for each transmission as the pulse signs of its I
and Q rails, transmissions whose encode was cancelled, and the header failures and failed codewords of the running second. -/
structure Cdc where
  queue : List EncReq := []
  chips : Tab (List Int × List Int) := []
  cancelled : List Nat := []
  hdrFails : Nat := 0
  rsFails : Nat := 0
  deriving DecidableEq, Repr

/-- An entry of the reference store (R159). Intervals in GT, `ft` the time of entry in µs. -/
structure RefEntry where
  id : Nat
  slice : Nat
  lh : Nat
  start : Nat
  fin : Nat
  hdr : Hdr
  payload : List Octet
  power : Int
  size : Nat
  ft : Nat
  deriving DecidableEq, Repr

/-- A member of a SIC job (R160): known through a reference entry, or unknown with the record of its request. -/
structure Member where
  ref : Option Nat
  qrec : Option QRec
  known : Bool
  knownAtStart : Bool
  lh : Nat
  start : Nat
  fin : Nat
  power : Int
  hidden : Bool
  subtracted : Bool
  tried : Bool
  decoded : Bool
  deriving DecidableEq, Repr

/-- Where a job stands: queued, waiting for a lane (R160 step 4), or running on an engine. -/
inductive JobPhase where
  | queued | waiting | running
  deriving DecidableEq, Repr

/-- A SIC job (R158 to R166); `cfg` is SIC_CFG, `takenGt` the moment and `startFt` the µs at which an engine took it.
`div` is a diversity job, `both` whether it still reads both ports, and `port` the port read where it does not (R163). -/
structure SicJob where
  id : Nat
  slice : Nat
  div : Bool
  both : Bool
  port : Nat
  phase : JobPhase
  members : List Member
  start : Nat
  fin : Nat
  firstFt : Nat
  startFt : Nat
  takenGt : Nat
  cfg : Word
  passes : Nat
  hiddenFound : Bool
  lane0 : Nat
  deriving DecidableEq, Repr

/-- A job record (R170). -/
structure JobRec where
  wstart : Nat
  wlen : Nat
  outcome : Nat
  members : Nat
  passes : Nat
  div : Bool
  decoded : Nat
  known : Nat
  hidden : Bool
  slice : Nat
  qdelay : Nat
  deriving DecidableEq, Repr

/-- SIC outside its registers (chapter 08): jobs, reference store (oldest first), result FIFO, and the µs and octets of the history
reads begun in the last millisecond. -/
structure Sic where
  jobs : List SicJob := []
  nextJob : Nat := 0
  refs : List RefEntry := []
  nextRef : Nat := 0
  fifo : List JobRec := []
  reads : List (Nat × Nat) := []
  deriving DecidableEq, Repr

/-- A neighbour record (R183). `heard` is set by the first verified frame (R187). -/
structure Nbr where
  eui : Nat
  node : Nat
  st : Nat
  key : Nat
  sw : Nat
  par : Nat
  dep : Nat
  rxHigh : Nat
  rxWin : Nat
  supto : Nat
  lastGt : Nat
  drift : Int
  unc : Nat
  theta : Int
  guard : Nat
  wide : Nat
  retries : Nat
  heard : Bool
  deriving DecidableEq, Repr

/-- A patch (R223): cells removed and added, the SWITCH, PARITY and DEPTH that records take with it (R230), and the sets
(node, SETID) whose CELLS frames are queued once it is active. -/
structure Patch where
  del : List Cell
  add : List Cell
  links : List (Nat × Nat × Nat × Nat)
  send : List (Nat × Nat) := []
  deriving DecidableEq, Repr

/-- A source of the class C filter (R191): an EUI-64 or a short address, and its last SEQ values with their GT. -/
structure CSrc where
  long : Bool
  addr : Nat
  seqs : List (Nat × Nat)
  deriving DecidableEq, Repr

/-- What a transmission of MSQ carries (R189, R192, R199, R201): an ACK, a beacon, a downlink frame of a record, a CELLS
frame with AR = 0 in a shared cell (R236), or a class C frame from the queue of a FREE record. -/
inductive TxWhat where
  | enhAck (record : Nat)
  | immAck
  | beacon
  | down (record pkt : Nat)
  | cells (record pkt : Nat)
  | raw (record pkt : Nat)
  deriving DecidableEq, Repr

/-- A transmission of MSQ under way: what it is, its cell's last slot boundary (end of the cell in GT), L_H code, header,
MAC frame, whether it asks for an ACK, its FCNT, the CCA attempts made, and the inserted GT. -/
structure MsqTx where
  what : TxWhat
  port : Nat
  slice : Nat
  start : Nat
  cellEnd : Nat
  lh : Nat
  hdr : Hdr
  frame : List Octet
  ar : Bool
  fcnt : Nat
  tries : Nat
  inserted : Option Nat
  deriving DecidableEq, Repr

/-- A frame that waits for the node's ACK (R199): record, whether it is class C, packet, GT of the frame's end. -/
structure Await where
  record : Nat
  raw : Bool
  pkt : Nat
  fin : Nat
  deriving DecidableEq, Repr

/-- The frame at the head of a record's queue when it was first sent (R175): its packet, arrival, octets, FCNT and SEQ, and the octets
of the frame, which a retry sends again. -/
structure HeadTx where
  pkt : Nat
  arr : Nat
  data : List Octet
  fcnt : Nat
  seq : Nat
  frame : List Octet := []
  deriving DecidableEq, Repr

/-- A directed search (R197): record, cell, its expected first chip E in GT, whether it has started, segments still to read,
and the ports whose read of the segment ended OK. -/
structure Search where
  id : Nat
  record : Nat
  cell : Cell
  e : Nat
  started : Bool
  left : Nat
  ok : List Nat
  deriving DecidableEq, Repr

/-- MSQ outside its registers (chapter 09): neighbour records (the node map follows from them), class C filter (least
recently heard first), cell store, fixed cells and slotframe lengths copied at the lock, staged patches, transmissions by
stream, frames that wait for an ACK, the frame at the head of a record's queue as first sent, attempts made for class C
frames by queue, class C frames in backoff with its end (µs of free time), the join cell, verified
frames (record, first chip) of the last moments, searches, outgoing counters by key slot, beacon SEQ and count, EC at
which each class's mask became active, whether a step announcement has begun, MICFAIL and STALE of the running second, key slots whose
exhaustion fired source 104, and searches that have yielded a frame (the last 256). -/
structure Msq where
  nbrs : Tab Nbr := []
  classC : List CSrc := []
  cells : List Cell := []
  fixed : List Cell := []
  sfs : List Nat := [0, 0, 0, 0, 0, 0, 0, 0]
  patches : List Patch := []
  tx : Tab MsqTx := []
  awaits : List Await := []
  headTx : Tab HeadTx := []
  rawTries : Tab Nat := []
  backoffs : Tab (Nat × MsqTx) := []
  join : Option Cell := none
  verified : List (Nat × Nat) := []
  searches : List Search := []
  nextSearch : Nat := 0
  out : Tab Nat := []
  bcnSeq : Nat := 0
  bcnCount : Nat := 0
  maskEc : List Nat := [0, 0, 0, 0]
  annStep : Bool := false
  micFails : Nat := 0
  stales : Nat := 0
  exhausted : List Nat := []
  found : List Nat := []
  deriving DecidableEq, Repr

/-- What a unit tells PRC firmware (R185, R186, R200, R377). -/
inductive Told where
  | notAct (node : Nat)
  | lost (node : Nat)
  | home (node chip : Nat)
  deriving DecidableEq, Repr

/-- An account of a budget (R205, R209): its buckets (bucket number of free time, ns charged) and the transmissions that
set its last end (id, start and end in ns of free time, oldest first). -/
structure Account where
  buckets : Tab Nat := []
  ends : List (Nat × Nat × Nat) := []
  deriving DecidableEq, Repr

/-- A granted charge that is not settled (R210, R213): kind, duration in ns, start in ns of free time, chip rate, and
the accounts charged with their buckets. -/
structure Grant where
  kind : TxKind
  dur : Nat
  start : Nat
  rate : Nat
  accts : List (Nat × Nat)
  deriving DecidableEq, Repr

/-- BGT outside its registers (chapter 10): accounts by key (budget × 2^24 + channel centre in kHz, 0 in MODE 1 and 3),
open grants by transmission, ns of settled air time below one µs per budget, CCA BUSY results of the running second,
free time in µs at which BGT started with its accounts filled, if it did. -/
structure Bgt where
  accts : Tab Account := []
  grants : Tab Grant := []
  airNs : Tab Nat := []
  ccaBusy : Nat := 0
  cold : Option Nat := none
  deriving DecidableEq, Repr

/-- A link record (R225); `hist` holds the outcomes of up to 64 EXP cells, newest last (R226). -/
structure LinkRec where
  txep : Nat
  rxep : Nat
  src : Nat
  cls : Nat
  lhobs : Nat
  valid : Bool
  snr : Int
  snrsd : Nat
  rssi : Int
  pdr : Nat
  ncell : Nat
  nobs : Nat
  lastgcn : Nat
  hist : List Bool
  deriving DecidableEq, Repr

/-- A set of cells of a node (R236, R238): number, activation EC, cells, whether it is confirmed, times its CELLS frame was
sent, its packet while one is queued, whether that asks for an ACK, and whether the last sending came to nothing. -/
structure CellSet where
  setid : Nat
  ec : Nat
  cells : List Cell
  confirmed : Bool
  tries : Nat
  pkt : Option Nat
  ar : Bool
  gone : Bool := false
  deriving DecidableEq, Repr

/-- The sets of a node, oldest first, its record and the last SETID used. -/
structure NodeSets where
  record : Nat
  setid : Nat
  sets : List CellSet
  deriving DecidableEq, Repr

/-- A command of SLV's queue (R232): OP, node, tag, SLV_DATA0 to SLV_DATA7 as copied, its maker, the world
tag with which it started (R333), whether SLV queued it. -/
structure SlvCmd where
  op : Nat
  node : Nat
  tag : Nat
  data : List Octet
  rq : Req
  sec : Bool
  own : Bool
  deriving DecidableEq, Repr

/-- A change that ran during a full solve (R234): a node that left, or one that joined. -/
structure SlvLog where
  joined : Bool
  node : Nat
  deriving DecidableEq, Repr

/-- What a solve works from (R227, R233): demand and link records, policies and templates as the register file held them, neighbour
records. -/
structure SlvInputs where
  dem : Tab DemRec
  links : Tab LinkRec
  regs : Tab Word
  active : Tab Word
  nbrs : Tab Nbr
  deriving DecidableEq, Repr

/-- A running SOLVE: its command, those that merged into it while it was held, its start in µs, its snapshot (R233), the log of R234,
and on an anchor the placements of other chips' nodes, by chip ID (R241). -/
structure SolveRun where
  cmd : SlvCmd
  also : List SlvCmd := []
  startFt : Nat
  inp : SlvInputs
  log : List SlvLog := []
  far : List (Nat × Placement × LinkPlan) := []
  deriving DecidableEq, Repr

/-- A result record (R242). -/
structure SlvRes where
  op : Nat
  outcome : Nat
  tag : Nat
  node : Nat
  count : Nat
  dur : Nat
  short : Nat
  deriving DecidableEq, Repr

/-- An observation for SLV (R156, R226): node, receiving chip's class and L_H code, SNR, RSSI, GCN. -/
structure Obs where
  node : Nat
  cls : Nat
  lh : Nat
  snr : Int
  rssi : Int
  gcn : Nat
  deriving DecidableEq, Repr

/-- SLV outside its registers (chapter 11): demand and link records, the sets of each node, the command queue, the running SOLVE, the held
one and those merged into it, result and shortfall FIFOs, observations to fold, the last slice statistics, nodes that MSQ told LOST
(R185), changes of nodes that wait for a confirmation (R238), the border cells that this chip holds fixed (R241), the master copy's or
mirror's cells of the other chips by chip ID (R241), what other chips told of their nodes by chip ID, with the neighbour records they hold
(R227, R377), what this chip told last, a JOIN that waits for the anchor with its start in µs, SCHED frames to send by address. -/
structure Slv where
  dem : Tab DemRec := []
  links : Tab LinkRec := []
  nodes : Tab NodeSets := []
  cmds : List SlvCmd := []
  solve : Option SolveRun := none
  held : List SlvCmd := []
  results : List SlvRes := []
  shorts : List Short := []
  obs : List Obs := []
  stats : List StatRec := []
  lost : List Nat := []
  waiting : List Placement := []
  border : List Placement := []
  master : Tab (List PlanCell) := []
  known : Tab (Nat × List ChipNode) := []
  told : Nat × List ChipNode := (0, [])
  asked : Option (SlvCmd × Nat) := none
  out : List (Nat × CscSched) := []
  deriving DecidableEq, Repr

/-- An entry of FWD's tables (R265). `key` is the address or prefix as a 128-bit number, `updgt` is UPDGT. -/
structure FwdEntry where
  key : Nat
  len : Nat
  updgt : Nat
  stat : Bool
  learned : Bool
  hit : Bool
  pend : Bool
  pin : Bool
  etype : Nat
  dscppri : Bool
  pri : Nat
  moves : Nat
  dest : Nat
  deriving DecidableEq, Repr

/-- A hot cache line (R269). A ROUTE line holds the result and FWD_PFXGEN; a HOST line stands for the address table entry of
its key, with which the bucket engine keeps it coherent. -/
structure HotLine where
  key : Nat
  route : Bool
  gen : Nat
  res : FwdEntry
  deriving DecidableEq, Repr

/-- Filter bits with no prefix behind them any more (R271): length, first vector, vectors that the scrub has cleared. -/
structure StaleBit where
  len : Nat
  base : Nat
  done : List Nat
  deriving DecidableEq, Repr

/-- A learning event (R275, R297). -/
structure LearnEv where
  addr : Nat
  etype : Nat
  dest : Nat
  gt : Nat
  own : Bool
  deriving DecidableEq, Repr

/-- A learning message that waits for CSC (R295). -/
structure LxMsg where
  addr : Nat
  gt : Nat
  op : Nat
  seq : Nat
  deriving DecidableEq, Repr

/-- A record of the damping table (R299): address, window start, count, pin end. -/
structure Damp where
  addr : Nat
  start : Nat
  count : Nat
  pin : Option Nat
  deriving DecidableEq, Repr

/-- An error record (R283). -/
structure FwdErrRec where
  index : Nat
  kind : Nat
  lostStatic : Bool
  rebuilt : Bool
  lost : Nat
  deriving DecidableEq, Repr

/-- A table command as it runs at one of FWD's two ports (R287); `sec` is the world tag with which it started (R333). -/
structure FwdCmd where
  op : Nat
  tbl : Nat
  tag : Nat
  arg : Word
  data : List Octet
  rq : Req
  sec : Bool
  deriving DecidableEq, Repr

/-- What the private port answers: outcome, tag, STEP, entry, and the cursor after WALK. -/
structure FwdAnswer where
  outcome : Nat
  tag : Nat
  step : Nat
  res : List Octet
  arg : Word
  deriving DecidableEq, Repr

/-- FWD outside its registers (chapters 13 and 14): address table (bucket × 8 + slot), prefix store (bucket × 4 + slot), stale
filter bits, vectors bad in both copies (all of them after a failure of bank 4), hot cache (lines by set, least recently used first), bootstrap table and its entries
in error, learning queue, learning messages to send and the next SEQ, last SEQ by origin, damping table, tokens of the
policers that are not full and the policers that dropped in the running second, error FIFO, a running FLUSH visit (ETYPE,
DEST, next bucket), the command at each port, the private port's last answer, and whether FWD_CMDARG stands past the last slot of the
address table (`walkPast`). -/
structure Fwd where
  addr : Tab FwdEntry := []
  pfx : Tab FwdEntry := []
  stale : List StaleBit := []
  bad : List Nat := []
  allBad : Bool := false
  hot : Tab (List HotLine) := []
  boot : Tab FwdEntry := []
  badBoot : List Nat := []
  learnQ : List LearnEv := []
  lxOut : List LxMsg := []
  lxSeq : Nat := 0
  lxLast : Tab Nat := []
  damp : List Damp := []
  tokens : Tab Nat := []
  policed : List Nat := []
  errs : List FwdErrRec := []
  flush : Option (Nat × Nat × Nat) := none
  cmd : Option FwdCmd := none
  priv : Option FwdCmd := none
  privRes : Option FwdAnswer := none
  walkPast : Bool := false
  deriving DecidableEq, Repr

/-- What a unit hands on with a packet. `kind`: 0 class S, 1 class C, 2 I3, 3 backhaul, 5 cascade, 6 host, 7 originated, 8 a class C frame
to send as it is, 9 a CELLS element (R236). The others: neighbour record, node or EUI-64 it came from or goes to, backhaul or cascade
port, the class and source chip of a cascade packet, a learning hint, the SFDGT of its frame, its next-hop index, origin and OSEQ of a
cascade packet, and marks that PRC and FWD set. -/
structure PktInfo where
  kind : Nat := 0
  record : Option Nat := none
  node : Option Nat := none
  eui : Option Nat := none
  port : Nat := 0
  cls : Nat := 0
  chip : Nat := 0
  hint : Option Hint := none
  gt : Nat := 0
  hop : Nat := 0
  org : Option (Nat × Nat) := none
  secured : Bool := false
  flag : Bool := false
  deriving DecidableEq, Repr

/-- A packet of QMG (R246): its chain of cells, octets, GSN at acceptance, ingress source, holder, the queue that takes or
holds its cells, how many of them have been pushed and popped there, and what its unit handed on. -/
structure Pkt where
  cells : List Nat
  data : List Octet
  arr : Nat
  src : Nat
  holder : Holder
  queue : Option Nat
  pushed : Nat
  info : PktInfo
  deriving DecidableEq, Repr

/-- A queue record (R250) and the state of its push port (R251) and of a DROPREST (R256): cells queued, the producer and
START of the packet being pushed, START of the last packet whose START was popped and END not, producer and END cell of
a packet being discarded, and hardware packets that wait for the port. -/
structure Queue where
  limit : Nat := 0
  hiwm : Nat := 0
  lowm : Nat := 0
  fcmap : Nat := 0
  age : Nat := 0
  ovr : Bool := false
  wmHigh : Bool := false
  underrun : Bool := false
  ovf : Bool := false
  cells : List Nat := []
  out : Nat := 0
  owner : Option (Holder × Nat) := none
  inprog : Option Nat := none
  discard : Option (Holder × Nat) := none
  waits : List (Holder × Nat) := []
  deriving DecidableEq, Repr

/-- QMG outside its registers (chapter 12): packets by START cell, queues by number, cells made unreachable and packets
that R262 lost, the state of the pool watermark and of the pins, refusals and drops of the running second, packets that
wait for a forwarding lookup, and the two banks of cell descriptors of each consumer: the one it drains, the one that fills (R255). -/
structure Qmg where
  pkts : Tab Pkt := []
  queues : Tab Queue := []
  lost : List Nat := []
  ghosts : Nat := 0
  struck : List (Nat × List Nat) := []
  poolLow : Bool := false
  fctl : Nat := 0
  refusals : Nat := 0
  drops : Nat := 0
  intake : List Nat := []
  banks : Tab (List Nat × List Nat) := []
  deriving DecidableEq, Repr

/-- A KVT command as it runs (R318): OP, SLOT, TAG, the argument word, its maker, and whether it came by PRC's private
port. -/
structure KvtCmd where
  op : Nat
  slot : Nat
  tag : Nat
  arg : Word
  rq : Req
  priv : Bool
  deriving DecidableEq, Repr

/-- What a journal entry carries (R309 to R311): a KUM (its counter and CHECKPOINT), a GENERATE or ERASE, a ZEROISE, a
batch of counter blocks, or a new SEALGEN alone. -/
inductive JKind where
  | kum (counter : Nat) (checkpoint : Bool)
  | slot
  | zeroise
  | blocks (slots : List Nat)
  | sealgen
  deriving DecidableEq, Repr

/-- A journal entry that has not committed: its kind, the slot changes (none: the slot keeps only its base), the command
that made it, and whether its flash writes have begun (R418, R419). -/
structure Journal where
  kind : JKind
  puts : List (Nat × KeySlot)
  cmd : Option KvtCmd
  started : Bool
  deriving DecidableEq, Repr

/-- KVT and CRY outside their registers (chapter 15): slots, cached slot numbers (least recently used first), the entries of the wrapped
store in DRAM that are not what KVT wrote there, the key store, copies in PD_AON of KUMHW and SEALGEN, values in force, epoch fuses burned
and waiting to be burned (and whether the next burn ends a ZEROISE or has begun), journal entries, the running command and those that
wait, the DRBG requests since the last reseed, the octets of flash, whether an internal scan has cleared PD_SEC, the root's two shares as
the antifuse array holds them (none until the first power-on; no initiator, scan or register reads them, R302), whether KVT holds the
keys derived from the root, whether the DRBG failed its health test since PD_SEC started (R323), and the result of the last CRY job. -/
structure Kvt where
  slots : Tab KeySlot := []
  cache : List Nat := []
  wrapped : Tab (List Octet) := []
  store : KeyStore := { erased := true, page0 := [], page1 := [], entries := [], area := 0, fill := 0 }
  aonHw : Option Nat := none
  aonGen : Option Nat := none
  jseq : Nat := 0
  fuses : Nat := 0
  burns : Nat := 0
  burnZero : Bool := false
  burnStarted : Bool := false
  newGen : Option Nat := none
  journal : List Journal := []
  cmd : Option KvtCmd := none
  waiting : List KvtCmd := []
  drbgReqs : Nat := 0
  flash : Nat := 67108864
  scan : Bool := false
  antifuse : Option (Nat × Nat) := none
  derived : Bool := false
  sick : Bool := false
  answer : Option (List Octet) := none
  deriving DecidableEq, Repr

/-- A firmware set (R342, R345): bank, generation, SVN, HLV and HLVMIN. -/
structure FwSet where
  bank : Nat
  gen : Nat
  svn : Nat
  hlv : Nat
  hlvmin : Nat
  deriving DecidableEq, Repr

/-- What UPD still does when the dip that holds it ends (R418), in the states of R351. -/
inductive UpdWait where
  | empty | valid | trial | back | failed (cause : Nat) | commit | svn
  deriving DecidableEq, Repr

/-- UPD outside its registers (chapter 17): the staging area (pages of 256 octets, unlisted zero), OP and TAG of a running
command, the sets in the active and the idle banks, SVN fuses burned, the set and package length that VERIFY
passed and whether it holds a configuration image, an operation held by a dip, the service level at activation, µs at which
the trial began, cause of a rollback under way. -/
structure Upd where
  staging : Tab (List Octet) := []
  cmd : Option (Nat × Nat) := none
  run : Option FwSet := none
  idle : Option FwSet := none
  fuses : Nat := 0
  ready : Option FwSet := none
  length : Nat := 0
  waits : Option UpdWait := none
  level : Nat := 0
  trialFt : Nat := 0
  cause : Nat := 0
  deriving DecidableEq, Repr

/-- PRC firmware's state that chapter 17 names: RPL parent sets by node (R362), doublings of the trickle interval and the FT at which it
began, and decompression failures of the running second. -/
structure Prc where
  parents : Tab (List Nat) := []
  trickle : Nat := 0
  trickleFt : Nat := 0
  decFails : Nat := 0
  deriving DecidableEq, Repr

/-- A frame of the cascade (R365): LSEQ, destination and origin, CLASS, REROUTED, body and its octets, and the octets last put on the line
for it. -/
structure CscFrame where
  lseq : Nat := 0
  dst : Nat
  src : Nat
  cls : Nat := 0
  rer : Bool := false
  body : CscBody
  pay : List Octet := []
  octets : List Octet := []
  deriving DecidableEq, Repr

/-- A cascade port outside its registers (R364 to R369): block lock, this end's random value where the DRBG gave one, when the last HELLO
came (µs), the peer's device ID, the session keys of a protected port for what it sends and receives, and frames sent and received under
them; next LSEQ to send and to expect, unacknowledged frames (oldest first), retransmission timeouts in a row; control frames that wait,
those sent and the peer's grant of them, those that came, and the cells granted, arrived, sent, and the peer's grant (all modulo 2^32);
what the last ACKSEQ and CREDIT told the peer; the HELLO frame and the last ACK or CREDIT put on the line; and the GT at which the peer's
last TIME frame came (R378). -/
structure CscPort where
  lock : Bool := false
  rand : Option Nat := none
  helloFt : Nat := 0
  peerDev : Nat := 0
  keys : List Octet × List Octet := ([], [])
  txCount : Nat := 0
  rxCount : Nat := 0
  txSeq : Nat := 0
  rxSeq : Nat := 0
  unacked : List CscFrame := []
  retx : Nat := 0
  ctlQ : List CscFrame := []
  ctlSent : Nat := 0
  ctlGrant : Nat := 0
  ctlCame : Nat := 0
  granted : Nat := 0
  arrived : Nat := 0
  sent : Nat := 0
  peerGrant : Nat := 0
  ackTold : Nat := 0
  credTold : Nat × Nat := (0, 0)
  hello : List Octet := []
  tells : List Octet := []
  timeCame : Nat := 0
  deriving DecidableEq, Repr

/-- CSC outside its registers (chapter 18): ports, own LSA sequence number, LSAs by originating address, STATUS of present chips with the
µs of the last one, OSEQ counter and accepted OSEQ values by origin, packets and control frames that are held with the µs at which they end
(R372), since when quorum is lost, whether the chip still listens after a start, temporary addresses (address, device ID) and since when one
is out of reach (R370), device IDs whose requests were passed on, the homes assigned (R377), cells that came back before SLV could take them
(R455), the ECHO command in flight, and whether an authentication failure has been seen in the running second. -/
structure Csc where
  ports : List CscPort := List.replicate 4 {}
  lsaSeq : Nat := 0
  lsas : Tab CscLsa := []
  peers : Tab (Nat × CscStat) := []
  oseq : Nat := 0
  seen : Tab (List Nat) := []
  held : List (Nat × Nat) := []
  heldCtl : List (CscFrame × Nat) := []
  noQuorum : Option Nat := none
  listening : Bool := true
  temps : Tab Nat := []
  gone : Tab Nat := []
  asks : List Nat := []
  homes : Tab Nat := []
  later : List Cell := []
  echo : Option (Nat × Nat) := none
  authSeen : Bool := false
  deriving DecidableEq, Repr

/-- MEM outside its registers (chapter 19): corrected errors in the running second, training values kept in PD_AON, failed
attempts of each channel, MSQ's copy that the DRAM keeps through a reset (R395), and a RETRAIN that waits for UPD (R397). -/
structure Mem where
  ceWin : Nat := 0
  saved : Bool := false
  fails : Nat × Nat := (0, 0)
  copy : Option (Tab Nbr × List Cell) := none
  retrain : Bool := false
  deriving DecidableEq, Repr

/-- A link record of an I3 instance (R443); `typ` has bit 0 receive, bit 1 transmit, bit 2 shared. -/
structure I3Link where
  slot : Nat
  chofs : Nat
  typ : Nat
  node : Nat
  deriving DecidableEq, Repr

/-- A transmission of an I3 instance (R444, R447): its packet (none: an ACK), its PSDU with the FCS, end of the frame in FT,
whether it waits for an ACK, its DSN. -/
structure I3Tx where
  pkt : Option Nat
  psdu : List Octet
  fin : Nat
  wait : Bool
  dsn : Nat
  deriving DecidableEq, Repr

/-- An I3 instance (chapter 22): its emulated file (addresses not listed read as reset), INTSTAT, ASN, IRQTIME, FT of the last, the
first since RUN = 1 and the next slot boundary (none while RUN = 0), links by index, receive entries (packets, oldest first), FT at which RXDONE is
due for accepted frames, transmissions by stream, the frame that waits for an ACK, attempts at the frame in front, whether
LINT_N is low, and the steps of its LGC_I3INIT records. -/
structure I3 where
  emu : Tab Nat := []
  intstat : Nat := 0
  asn : Nat := 0
  irqtime : Nat := 0
  bnd : Nat := 0
  first : Nat := 0
  next : Option Nat := none
  links : Tab I3Link := []
  rx : List Nat := []
  due : List Nat := []
  tx : Tab I3Tx := []
  await : Option I3Tx := none
  tries : Nat := 0
  low : Bool := false
  init : List (Nat × Nat) := []
  deriving DecidableEq, Repr

/-- LGC outside its registers: instances, and whether an unmatched frame was seen in the running second. -/
structure Lgc where
  inst : List I3 := List.replicate 4 {}
  noMatch : Bool := false
  deriving DecidableEq, Repr

/-- A running self-test (R462): domain, phases named, TAG, the state the domain returns to, what LBIST and MBIST found. -/
structure TestRun where
  dom : Nat
  lbist : Bool
  mbist : Bool
  tag : Nat
  back : DomMode
  lfail : Bool := false
  bad : List Nat := []
  deriving DecidableEq, Repr

/-- TST outside its registers (chapter 24): the running test, and the instruction in the TAP. -/
structure Tst where
  run : Option TestRun := none
  tap : TapInstr := .bypass
  deriving DecidableEq, Repr

/-- What HIF wrote back into a descriptor (R472): transmit or receive ring, its number, its index, LEN, SRCHW, STATUS. -/
structure WriteBack where
  tx : Bool
  ring : Nat
  index : Nat
  len : Nat
  src : Nat
  status : Nat
  deriving DecidableEq, Repr

/-- A frame as a port sends it (R476, R478, R479): destination and source MAC (first octet on the wire in bits [7:0]), VID and PCP of
its tag, AN and PN of its protection, and the octets of the packet. -/
structure EthOut where
  dst : Nat
  src : Nat
  tag : Option (Nat × Nat)
  sec : Option (Nat × Nat)
  data : List Octet
  deriving DecidableEq, Repr

/-- Who posted a descriptor (R330, R336): the initiator of the write of TAIL, and its world. -/
structure DmaTag where
  init : Initiator
  sec : Bool
  deriving DecidableEq, Repr

/-- HIF outside its registers (chapter 25): the tags of the descriptors handed over, by ring (transmit rings from 16 on),
descriptors in flight when the PCIe link went down, the last write-back, the packet in each port's MAC, next hops as applied,
the frame that port sends, FT up to which a PAUSE stops it, whether an invalid next hop dropped a packet in the running second, FT since port 0 is bad or good, PTP time (ns) at FT (µs),
PTP timestamps, next packet number per port and AN in each direction, the xSPI command that runs (OP, address), the SMBus
address, whether PERST_N is high, and whether CFG has reached the lock of R30 or AWAIT since the start (R389). -/
structure Hif where
  tags : Tab (List DmaTag) := []
  flight : List DescFlight := []
  wb : Option WriteBack := none
  cur : Tab Nat := []
  wire : Tab EthOut := []
  pauseTo : Tab Nat := []
  nh : Tab (Word × Word) := []
  nhDrop : Bool := false
  bad : Option Nat := some 0
  good : Option Nat := none
  ptp : Nat := 0
  ptpFt : Nat := 0
  ts : List Word := []
  pn : Tab Nat := []
  rxPn : Tab Nat := []
  xcmd : Option (Nat × Nat) := none
  smbAddr : Nat := 0
  perst : Bool := false
  cfgSeen : Bool := false
  deriving DecidableEq, Repr

/-- The state of the block. `regs` is the register file: the words of all registers by BAR0 address, an address not
listed holding its reset value (R6, R40); for SC fields it holds the shadows. `active` holds the active words of
registers with SC fields, likewise sparse, and `staged` the staged sets (R50). `holding` is the holding view of R58:
captured counters by the address of their _LO. `free` numbers the free values drawn. The other fields are the units. -/
structure State where
  pending : List Instr := []
  regs : Tab Word := []
  active : Tab Word := []
  staged : List Staged := []
  holding : Tab Nat := []
  free : Nat := 0
  evt : Evt := {}
  pwr : Pwr := {}
  sup : Sup := {}
  gtb : Gtb := {}
  rfp : Rfp := {}
  dmx : Dmx := {}
  cdc : Cdc := {}
  sic : Sic := {}
  qmg : Qmg := {}
  bgt : Bgt := {}
  kvt : Kvt := {}
  msq : Msq := {}
  slv : Slv := {}
  fwd : Fwd := {}
  csc : Csc := {}
  lgc : Lgc := {}
  hif : Hif := {}
  mem : Mem := {}
  prc : Prc := {}
  flash : Tab (List Octet) := []
  cfg : Cfg := {}
  upd : Upd := {}
  tst : Tst := {}
  told : List Told := []
  inbox : List RxFrame := []
  i3inbox : List RxFrame := []
  deriving DecidableEq, Repr

/-- The block right after a power-on reset, before DEVICE_START (R386, R388): every register at its reset value (the
register file lists nothing), every domain off, nothing in flight, no command waiting. -/
def State.reset : State := {}

end Sys2Proof.Machine
end

