-- ==== Sys2Proof/Machine/Ops.lean ====
section
/-! DEFINITION. The operations every unit shares: the register file and its fields, events and MSI-X messages,
counters, power and world of a register, fault records and notices. -/

namespace Sys2Proof.Machine

/-! ### Addresses (R40, R41) -/

/-- The unit index of a BAR0 address (R40). -/
def unitOf (a : Nat) : Nat := a / 0x100000

/-- The view of a BAR0 address (R41): 0 primary, 1 set, 2 clear, 3 toggle, 4 holding, above: unimplemented. -/
def viewOf (a : Nat) : Nat := a / 0x10000 % 16

/-- The primary address of the register that a BAR0 address names in any view. -/
def primOf (a : Nat) : Nat := a - a % 0x100000 + a % 0x10000 / 4 * 4

/-- Does the register row `d` lie at primary address `a`? -/
def RegD.hits (d : RegD) (a : Nat) : Bool :=
  match d.dims with
  | [] => a == d.base
  | [(s, n)] => Nat.ble d.base a && ((a - d.base) % s == 0 && Nat.blt ((a - d.base) / s) n)
  | (s1, n1) :: (s2, n2) :: _ =>
    Nat.ble d.base a && (Nat.blt ((a - d.base) / s1) n1 &&
      ((a - d.base) % s1 % s2 == 0 && Nat.blt ((a - d.base) % s1 / s2) n2))

/-- The descriptor of the register at a primary address; none where the location is reserved (R42). -/
def regDesc (a : Nat) : Option RegD := (RegMap.units.getD (unitOf a) []).find? (fun d => d.hits a)

/-- The reset value of the register at a primary address. -/
def resetOf (a : Nat) : Word :=
  match regDesc a with
  | none => 0
  | some d => BitVec.ofNat 32 (d.fields.foldl (fun n f => n + f.rst * 2 ^ f.lo) 0)

/-! ### The register file -/

/-- The word of the register at address `a`. -/
def State.reg (s : State) (a : Nat) : Word := (s.regs.find a).getD (resetOf a)

/-- Put word `v` into the register at address `a`; the file stays free of reset values. -/
def State.setReg (s : State) (a : Nat) (v : Word) : State := { s with regs := s.regs.putD (resetOf a) a v }

/-- The value of a field in a word. -/
def Field.ext (f : Field) (v : Word) : Nat := (v.extractLsb' f.lo f.w).toNat

/-- A word of ones over bits [lo+w-1:lo]. -/
def bitMask (lo w : Nat) : Word := (BitVec.allOnes w).setWidth 32 <<< lo

/-- The word `v` with the field set to `n` modulo its width. -/
def Field.ins (f : Field) (v : Word) (n : Nat) : Word :=
  (v &&& ~~~(bitMask f.lo f.w)) ||| ((BitVec.ofNat f.w n).setWidth 32 <<< f.lo)

/-- Read a field. -/
def State.fld (s : State) (f : Field) : Nat := f.ext (s.reg f.reg)

/-- Is a one-bit field 1? -/
def State.on (s : State) (f : Field) : Bool := s.fld f == 1

/-- Write a field. -/
def State.setFld (s : State) (f : Field) (n : Nat) : State := s.setReg f.reg (f.ins (s.reg f.reg) n)

/-- Write a one-bit field. -/
def State.setFlag (s : State) (f : Field) (b : Bool) : State := s.setFld f (b2n b)

/-- The active word of a register with SC fields (R50). -/
def State.act (s : State) (a : Nat) : Word := (s.active.find a).getD (resetOf a)

/-- The active value of an SC field (R50). -/
def State.actFld (s : State) (f : Field) : Nat := f.ext (s.act f.reg)

/-- Write a run of words to consecutive registers, 4 octets apart. -/
def State.setRegs (s : State) (a : Nat) : List Word → State
  | [] => s
  | v :: t => (s.setReg a v).setRegs (a + 4) t

/-- The words of `n` consecutive registers from `a`. -/
def State.regRun (s : State) (a n : Nat) : List Word := (List.range n).map (fun k => s.reg (a + 4 * k))

/-- The octets of `n` consecutive registers from `a`, lowest-numbered octet in bits [7:0]. -/
def State.octRun (s : State) (a n : Nat) : List Octet :=
  (s.regRun a n).flatMap (fun v => leOctets 4 v.toNat)

/-- Octets packed into words, lowest-numbered octet in bits [7:0]; fuel is the number of words. -/
def packWords : Nat → List Octet → List Word
  | 0, _ => []
  | n + 1, l => BitVec.ofNat 32 (leNat (l.take 4)) :: packWords n (l.drop 4)

/-! ### Counters (R57) -/

/-- The value of the 48-bit counter whose _LO lies at `c`. -/
def State.ctr (s : State) (c : Nat) : Nat := (s.reg c).toNat + 2 ^ 32 * ((s.reg (c + 4)).toNat % 2 ^ 16)

/-- Set the 48-bit counter whose _LO lies at `c`. -/
def State.setCtr (s : State) (c n : Nat) : State :=
  (s.setReg c (BitVec.ofNat 32 n)).setReg (c + 4) (BitVec.ofNat 32 (n / 2 ^ 32 % 2 ^ 16))

/-- Add `n` to the counter whose _LO lies at `c`, modulo 2^48 (R57). -/
def State.bump (s : State) (c : Nat) (n : Nat := 1) : State := s.setCtr c ((s.ctr c + n) % 2 ^ 48)

/-! ### Grid time (R69 to R71) -/

/-- The units of a cycle (R69). -/
def cycleUnits : Nat := 16777216

/-- GCN of a grid time. -/
def gcn (gt : Nat) : Nat := gt / cycleUnits % 2 ^ 40

/-- GFR of a grid time. -/
def gfr (gt : Nat) : Nat := gt % cycleUnits

/-- The slot index within a cycle (R70). -/
def slotIdx (spc gt : Nat) : Nat := gfr gt * spc / cycleUnits

/-- The grid slot number (R70). -/
def gsnOf (spc gt : Nat) : Nat := (gcn gt * spc + slotIdx spc gt) % 2 ^ 32

/-- The GFR at which slot `k` of a cycle begins (R70). -/
def slotStart (spc k : Nat) : Nat := (k * cycleUnits + spc - 1) / spc

/-- The signed 32-bit difference of two slot numbers (R71). -/
def gsnDiff (a b : Nat) : Int := signed 32 ((a + 2 ^ 32 - b % 2 ^ 32) % 2 ^ 32)

/-- The signed 64-bit difference of two grid times (R71). -/
def gtDiff (a b : Nat) : Int := signed 64 ((a + 2 ^ 64 - b % 2 ^ 64) % 2 ^ 64)

/-- A grid time `d` units later. -/
def gtAdd (a d : Nat) : Nat := (a + d) % 2 ^ 64

/-- A grid time `d` units earlier. -/
def gtSub (a d : Nat) : Nat := (a + 2 ^ 64 - d % 2 ^ 64) % 2 ^ 64

/-- A grid time moved by a signed number of units (R70). -/
def gtAddI (a : Nat) (d : Int) : Nat := (((a : Int) + d) % (2 ^ 64 : Int)).toNat

/-- The earlier of two grid times. -/
def gtMin (a b : Nat) : Nat := if gtDiff a b ≤ 0 then a else b

/-- The later of two grid times. -/
def gtMax (a b : Nat) : Nat := if gtDiff a b ≤ 0 then b else a

/-- Grid time units as ns at mains frequency `f` mHz. -/
def gtToNs (d f : Nat) : Nat := d * 10 ^ 12 / (f * 2 ^ 24)

/-- SPC as it acts: 1 to 6. The spec gives no behaviour for other values and does not reject them; 0 acts as 1 and 7 as it stands (DESIGN
CHOICE, log entry 134). -/
def State.spc (s : State) : Nat := if s.fld F.GTB_CFG_SPC = 0 then 1 else s.fld F.GTB_CFG_SPC

/-- The current slot number (R70). -/
def State.gsn (s : State) : Nat := gsnOf s.spc s.gtb.gt

/-! ### Power and world of a register -/

/-- The state of domain `d` (code of R56). -/
def State.dom (s : State) (d : Nat) : Dom := s.pwr.doms.getD d {}

/-- Change domain `d`. -/
def State.setDom (s : State) (d : Nat) (x : Dom) : State :=
  { s with pwr := { s.pwr with doms := listSet s.pwr.doms d x } }

/-- The domains whose units leave reset before the core PLL has locked (R388): PD_SYS, in part (`fircUnit`), PD_SEC, PD_HIF, PD_CSC. -/
def bootClocked (d : Nat) : Bool := d == 1 || (d == 16 || (d == 18 || d == 19))

/-- CORE_CLK runs: the core PLL has locked (R388), and REFCLK is there (R424). -/
def State.coreClk (s : State) : Bool := s.pwr.pll && !s.sup.refclkLost

/-- Is domain `d` on and ready (R53), its units out of reset (R388)? PD_AON always is. -/
def State.domReady (s : State) (d : Nat) : Bool :=
  d == 0 || ((s.dom d).mode == .on && (s.dom d).seq == .idle && !(s.dom d).passage && (s.coreClk || bootClocked d))

/-- A unit of CORE_CLK in domain `d` runs: its domain is on, and CORE_CLK runs (R388, R424). -/
def State.live (s : State) (d : Nat) : Bool := s.coreClk && s.domReady d

/-- An event of a unit of CORE_CLK in domain `d`: none happens while the unit does not run. -/
def State.whenLive (s : State) (d : Nat) (act : State) : State := if s.live d then act else s

/-- Does unit `u` run on FIRC or AON_CLK until the core PLL locks (R388, R391)? CHIP, EVT, KVT, CRY, UPD, CSC, PWR, SUP, HIF, CFG, PRC; the
others are held in reset, unclocked (log entry 111). -/
def fircUnit (u : Nat) : Bool := [0, 1, 12, 13, 14, 15, 16, 17, 19, 21, 23].contains u

/-- The domain of unit `u` (R56); of RFP and DMX, that of the registers outside their ports and groups. -/
def unitDom (u : Nat) : Nat :=
  [1, 1, 1, 1, 1, 14, 1, 1, 1, 15, 1, 1, 16, 16, 1, 19, 0, 1, 17, 18, 1, 1, 20, 1].getD u 1

/-- The domain of the location at a primary address: its register's, or for a reserved location that of its unit, or
of the port or group whose range it lies in (R40, log entry 4). -/
def domOf (a : Nat) : Nat :=
  match regDesc a with
  | some d => d.dom
  | none =>
    let u := unitOf a
    let o := a % 0x10000
    if u = 3 ∧ 0x2000 ≤ o ∧ o < 0xA000 then 10 + (o - 0x2000) / 0x2000
    else if u = 4 ∧ 0x4000 ≤ o ∧ o < 0xC000 then 2 + (o - 0x4000) / 0x1000
    else unitDom u

/-- Is the world map of the image in force (R332)? -/
def State.mapLocked (s : State) : Bool := s.on F.CHIP_WMAP1_LOCKED

/-- A register of the world map as it is in force (R332): reset value until the lock. -/
def State.wmap (s : State) (a : Nat) : Word := if s.mapLocked then s.reg a else resetOf a

/-- Is unit `u` secure (R326)? KVT, CRY and SUP always are. -/
def State.unitSecure (s : State) (u : Nat) : Bool :=
  u == 12 || u == 13 || u == 17 || bit (s.wmap Reg.CHIP_WMAP0).toNat u

/-- The world tag of a register access (R329): true is secure. -/
def State.secureReq (s : State) (rq : Req) : Bool :=
  match rq.init with
  | .pcie => F.CHIP_WMAP1_PCIESEC.ext (s.wmap Reg.CHIP_WMAP1) == 1
  | .smbus => F.CHIP_WMAP1_SMBSEC.ext (s.wmap Reg.CHIP_WMAP1) == 1
  | .prc => rq.prcSecure
  | .sup => true
  | .cfg => true

/-- The initiator codes of R56. -/
def initCode : Initiator → Nat
  | .pcie => 0
  | .smbus => 1
  | .prc => 2
  | .sup => 3
  | .cfg => 4

/-- The index of address `p` in a family of `n` registers; none where it is none of them. -/
def famIdx (r : Nat → Nat) (n p : Nat) : Option Nat :=
  let b := r 0
  let st := r 1 - b
  if Nat.ble b p && (((p - b) % st == 0) && Nat.blt ((p - b) / st) n) then some ((p - b) / st) else none

/-- Registers beside the counters that a snapshot captures (R261, R434). -/
def captured (p : Nat) : Bool :=
  p == Reg.QMG_HELD_LO || p == Reg.QMG_HELD_HI || p == Reg.QMG_FREE || p == Reg.QMG_TOTAL ||
  (famIdx Reg.QMG_USEDk 8 p).isSome || (famIdx Reg.CSC_PnCREDOUT 4 p).isSome || (famIdx Reg.BGT_SBkUSED 16 p).isSome

/-- A location that R42 names: outside every unit, in an unimplemented view, reserved, or a holding location that
holds no captured value. -/
def reservedLoc (a : Nat) : Bool :=
  Nat.ble 24 (unitOf a) || Nat.ble 5 (viewOf a) ||
    (match regDesc (primOf a) with
     | none => true
     | some d => viewOf a == 4 && (d.cnt == 0 && !captured (primOf a)))

/-- Is the location secure-only for this access (R326, R327, R335, R432)? `opWrite` is the word that a write carries, through whatever
view and at whatever width. The reserved locations of KVT, CRY and SUP are. -/
def State.secureOnly (s : State) (a : Nat) (opWrite : Option Word) : Bool :=
  let p := primOf a
  let u := unitOf a
  if (u == 12 || (u == 13 || u == 17)) && reservedLoc a then true
  else if u = 12 then
    p == Reg.KVT_CFG || (p == Reg.KVT_CMD && (match opWrite with
      | some v => let op := F.KVT_CMD_OP.ext v; op == 2 || op == 3 || op == 6
      | none => false))
  else if u = 13 then p == Reg.CRY_RNG || p == Reg.CRY_RESEED
  else if u = 17 then
    p == Reg.SUP_WDOG || p == Reg.SUP_ACCREC || p == Ctr.SUP_ACCCNT || p == Ctr.SUP_ACCCNT + 4
  else s.unitSecure u

/-! ### Events (R60 to R64, R337) -/

/-- The unit index that owns event source `k` (R60). -/
def srcUnit (k : Nat) : Nat :=
  if k < 4 then 1 else if k < 8 then 0 else if k < 12 then 21 else if k < 24 then 16 else if k < 32 then 17
  else if k < 48 then 2 else if k < 64 then 3 else if k < 80 then 4 else if k < 88 then 5 else if k < 92 then 6
  else if k < 112 then 7 else if k < 120 then 8 else if k < 132 then 9 else if k < 148 then 10
  else if k < 164 then 11 else if k < 176 then 12 else if k < 180 then 13 else if k < 188 then 14
  else if k < 204 then 15 else if k < 212 then 18 else if k < 228 then 19 else if k < 240 then 22
  else if k < 248 then 23 else if k < 252 then 20 else 1

/-- Is source `k` visible to non-secure initiators (R337)? -/
def State.srcPublic (s : State) (k : Nat) : Bool :=
  !s.unitSecure (srcUnit k) || bit (s.wmap Reg.CHIP_WMAP2).toNat (srcUnit k)

/-- The route octet of source `k`: vector in bits [3:0], enable in bit 7. -/
def State.route (s : State) (k : Nat) : Nat := (s.reg (Reg.EVT_ROUTEn (k / 4))).toNat / 2 ^ (8 * (k % 4)) % 256

/-- Is source `k` pending in EVT_PEND? -/
def State.isPend (s : State) (k : Nat) : Bool := bit (s.reg (Reg.EVT_PENDn (k / 32))).toNat (k % 32)

/-- May source `k` drive its vector (R62, R337)? A hidden source drives none that a non-secure initiator routed. -/
def State.srcDrives (s : State) (k : Nat) : Bool :=
  Nat.ble 128 (s.route k) && (s.srcPublic k || !s.evt.nsRoute.getLsbD k)

/-- Is vector `v` active (R62)? -/
def State.vecActive (s : State) (v : Nat) : Bool :=
  (List.range 8).any (fun n =>
    let w := (s.reg (Reg.EVT_PENDn n)).toNat
    w != 0 && (List.range 32).any (fun k =>
      bit w k && (s.route (32 * n + k) % 16 == v && s.srcDrives (32 * n + k))))

/-- Send the message of MSI-X entry `v`, or hold it in the pending bit array while the entry is masked (R64). -/
def State.sendMsi (s : State) (v : Nat) : State :=
  if !s.evt.msixEnabled then s
  else if s.evt.msixMask.getLsbD v then
    { s with evt := { s.evt with msixPend := s.evt.msixPend ||| (1#16 <<< v) } }
  else { s with evt := { s.evt with sent := s.evt.sent ++ [v] } }

/-- Source `k` fires (R61): its pending bits are set, and its vector sends its message when it becomes active. -/
def State.fire (s : State) (k : Nat) : State :=
  if (s.dom 1).mode != .on then s else
  let v := s.route k % 16
  let was := s.vecActive v
  let a := Reg.EVT_PENDn (k / 32)
  let s1 := s.setReg a (s.reg a ||| (1#32 <<< (k % 32)))
  let s2 := { s1 with evt := { s1.evt with fwPend := s1.evt.fwPend ||| (1#256 <<< k) } }
  if s.srcDrives k && !was then s2.sendMsi v else s2

/-- Fire source `k` when `b` holds. -/
def State.fireIf (s : State) (b : Bool) (k : Nat) : State := if b then s.fire k else s

/-- Send the message of every vector that is active in `s` and was not in `old` (R64). -/
def State.newVectors (s old : State) : State :=
  (List.range 16).foldl (fun t v => if s.vecActive v && !old.vecActive v then t.sendMsi v else t) s

/-- IRQ_N[p] is driven low (R63). -/
def State.irqLow (s : State) (p : Nat) : Bool :=
  (List.range 16).any (fun v =>
    bit (s.reg Reg.EVT_PINEN).toNat v && ((s.reg Reg.EVT_PINMAP).toNat / 4 ^ v % 4 == p && s.vecActive v))

/-! ### Fault records (R55, R338, R432) -/

/-- The access fault causes of R56. -/
inductive AccCause where
  | locked | narrow | unaligned | nodomain | readonly | busy | world | timeout
  deriving DecidableEq, Repr

/-- Codes of R56. -/
def AccCause.code : AccCause → Nat
  | .locked => 0
  | .narrow => 1
  | .unaligned => 2
  | .nodomain => 3
  | .readonly => 4
  | .busy => 5
  | .world => 6
  | .timeout => 7

/-- The word of EVT_ACCFLT for a capture (R55). -/
def accWord (c : AccCause) (wr : Bool) (a seq : Nat) : Word :=
  BitVec.ofNat 32 (1 + 4 * c.code + 32 * b2n wr + 64 * (unitOf a % 32) + 4096 * (a % 0x100000 / 4)
    + 2 ^ 30 * (seq % 4))

/-- Record a faulted access (R55), in EVT, or in SUP's own record where R338 says so; both lie in PD_SYS. -/
def State.recordFault (s : State) (rq : Req) (c : AccCause) (wr : Bool) (a byteen : Nat) : State :=
  if (s.dom 1).mode != .on then s
  else if s.secureReq rq && s.unitSecure (unitOf a) && !s.unitSecure 1 then
    let s1 := s.bump Ctr.SUP_ACCCNT
    if s.on F.SUP_ACCREC_VALID then s1.setFlag F.SUP_ACCREC_OVF true
    else
      let s2 := s1.setReg Reg.SUP_ACCREC (accWord c wr a s.evt.supCaptures)
      { s2 with evt := { s2.evt with supCaptures := s2.evt.supCaptures + 1 } }
  else
    let s1 := s.bump Ctr.EVT_ACCCNT
    if s.on F.EVT_ACCFLT_VALID then
      if s.on F.EVT_ACCFLT_OVF then s1 else (s1.setFlag F.EVT_ACCFLT_OVF true).fire 1
    else
      let n := s.evt.captures
      let s2 := s1.setReg Reg.EVT_ACCFLT (accWord c wr a n)
      let s3 := s2.setReg Reg.EVT_ACCINFO
        (BitVec.ofNat 32 (n % 4 + 4 * initCode rq.init + 32 * domOf (primOf a) + 1024 * (byteen % 16)))
      ({ s3 with evt := { s3.evt with captures := n + 1 } }).fire 0

/-- Answer an access: its data and whether it completed without a fault. -/
def State.respond (s : State) (data : List Octet) (ok : Bool) : State :=
  { s with evt := { s.evt with resp := { data := data, ok := ok } } }

/-! ### Faults, notices and the log (R422, R426, R431, R433) -/

/-- The service level (R5): 0, 1 or 2. -/
def State.level (s : State) : Nat := s.fld F.CHIP_START_LEVEL

/-- Keel service (R429). -/
def State.keel (s : State) : Bool := s.on F.CHIP_START_KEEL

/-- The causes of FAIL_N that hold (R433), bit c for cause c, whether masked or not. -/
def State.failCauses (s : State) : Nat :=
  b2n s.keel
  + 2 * b2n (s.on F.CHIP_START_NOREF || s.on F.CHIP_START_NOFW || s.on F.CHIP_START_DRAMFAIL
      || s.fld F.CFG_STATUS_STATE == 6)
  + 4 * b2n s.sup.refclkLost
  + 8 * b2n (s.fld F.SUP_STATUS_PRCHELD != 0)
  + 16 * b2n (s.fld F.KVT_STATUS_STATE == 4 || s.fld F.KVT_STATUS_STATE == 5)
  + 32 * b2n ((s.reg Reg.SUP_AUDIT) != 0)
  + 64 * b2n (s.on F.CSC_STATUS_ISOLATED)

/-- FAIL_N is to be driven low (R433): some cause holds that is not masked, and the device is not in AONONLY. -/
def State.failLow (s : State) : Bool :=
  (s.pwr.mode != .inMode .aononly) &&
    (List.range 7).any (fun c => bit s.failCauses c && (c < 3 || bit (s.fld F.SUP_CFG_FAILMASK) c))

/-- Bring the FAIL_N pin up to date; source 31 fires when it falls (R433). -/
def State.drive (s : State) : State :=
  let low := s.failLow
  let s1 := { s with sup := { s.sup with failPin := low } }
  s1.fireIf (low && !s.sup.failPin) 31

/-- An uncorrectable error breaks the audit (R435): its bit of SUP_AUDIT is set, source 30. -/
def State.strike (s : State) (f : Field) : State := (if s.on f then s else (s.setFlag f true).fire 30).drive

/-- SUP_FLTREC and SUP_FLTCNT take a fault (R431). -/
def State.countFault (s : State) (n : Notice) : State :=
  let s1 := s.bump Ctr.SUP_FLTCNT
  if s.on F.SUP_FLTREC_VALID then s1.setFlag F.SUP_FLTREC_OVF true
  else s1.setReg Reg.SUP_FLTREC (BitVec.ofNat 32 (1 + 4 * n.cls + 128 * n.unit + 4096 * n.detail))

/-- The log entry of a notice (R431). -/
def State.logEntry (s : State) (n : Notice) : LogEntry :=
  { gt := n.gt, cls := n.cls, ovf := s.sup.notOvf, unit := n.unit, src := n.src, action := n.action, level := n.level,
    keel := n.keel, seq := s.sup.logSeq % 65536 }

/-- Put an entry into the fault log (R431): source 28 when it was empty, 29 and a count when it is full. -/
def State.logPush (s : State) (e : LogEntry) : State :=
  if s.sup.log.length < 64 then
    State.fireIf { s with sup := { s.sup with log := s.sup.log ++ [e], logSeq := s.sup.logSeq + 1, notOvf := false } }
      s.sup.log.isEmpty 28
  else (s.bump Ctr.SUP_LOGOVF).fire 29

/-- Record a fault of classes 1 to 11 (R431): SUP_FLTREC, SUP_FLTCNT, one log entry, source 24. -/
def State.recordNotice (s : State) (n : Notice) : State := ((s.countFault n).logPush (s.logEntry n)).fire 24

/-- The notice of a fault detected now. -/
def State.mkNotice (s : State) (cls unit detail src action : Nat) (gt : Nat) : Notice :=
  { cls := cls, unit := unit, detail := detail, src := src, action := action, gt := gt, level := s.level,
    keel := s.keel }

/-- A unit reports a fault (R426): recorded at once, or held, up to 32, while SUP restarts or is halted. -/
def State.report (s : State) (n : Notice) : State :=
  if s.sup.fs == .restart || s.sup.halted then
    if s.sup.notices.length < 32 then { s with sup := { s.sup with notices := s.sup.notices ++ [n] } }
    else { s.bump Ctr.SUP_NOTDROP with sup := { s.sup with notOvf := true } }
  else s.recordNotice n

/-! ### Data crossbar worlds (R328, R336) and held operations (R418) -/

/-- Is a DRAM region secure (R328)? Codes 0 to 4 follow CHIP_WMAP1, the others always are. -/
def State.regionSecure (s : State) (code : Nat) : Bool :=
  Nat.ble 5 code || bit (s.wmap Reg.CHIP_WMAP1).toNat (2 + code)

/-- A transaction with a world tag faults on the region (R336). -/
def State.tagFaults (s : State) (secure : Bool) (code : Nat) : Bool := !secure && s.regionSecure code

/-- A transaction tagged with this initiator's world faults on the region (R336). -/
def State.regionFaults (s : State) (rq : Req) (code : Nat) : Bool := s.tagFaults (s.secureReq rq) code

/-- Record a data crossbar world fault (R336): counted, and captured where no record is held, with source 4. -/
def State.xwFault (s : State) (rq : Req) (code unit addr : Nat) (wr : Bool) : State :=
  let s1 := s.bump Ctr.CHIP_XWCNT
  if s.on F.CHIP_XWFLT_VALID then s1
  else
    let s2 := (((s1.setFlag F.CHIP_XWFLT_VALID true).setFlag F.CHIP_XWFLT_WRITE wr).setFld F.CHIP_XWFLT_REGION code).setFld
      F.CHIP_XWFLT_UNIT unit
    let s3 := (s2.setFld F.CHIP_XWFLT_INIT (initCode rq.init)).setReg Reg.CHIP_XWADDR_LO (BitVec.ofNat 32 addr)
    (s3.setReg Reg.CHIP_XWADDR_HI (BitVec.ofNat 32 (addr / 2 ^ 32))).fire 4

/-- The DRAM base of region `k` (R403). -/
def State.regionBase (s : State) (k : Nat) : Nat :=
  (s.reg (Reg.MEM_RGk_BASE_LO k)).toNat + 2 ^ 32 * (s.reg (Reg.MEM_RGk_BASE_HI k)).toNat

/-- The address CHIP_XWADDR gives for a buffer cell (R336). -/
def cellAddr (cell base : Nat) : Nat := if cell < 8192 then 256 * cell else base + 272 * (cell - 8192)

/-- A supply dip is in progress. -/
def State.dipNow (s : State) : Bool := s.pwr.dip.isSome

/-- An operation waits for the end of the dip (R418): queued in the order of its request and counted. -/
def State.holdOp (s : State) (o : HeldOp) : State :=
  let s1 := s.bump Ctr.PWR_HOLDCNT
  { s1 with pwr := { s1.pwr with held := s1.pwr.held ++ [o], dip := s1.pwr.dip.map (fun d => { d with held := true }) } }

/-- A free value: the next number that nothing constrains. -/
def State.fresh (s : State) : Nat := Config.freeNat s.free

/-- Move on to the next free value. -/
def State.nextFree (s : State) : State := { s with free := s.free + 1 }

end Sys2Proof.Machine
end

