-- ==== Sys2Proof/Machine/Flags.lean ====
section
/-! DEFINITION. What a read returns: fields whose value is computed from state held elsewhere, write-only fields as
zero, and the gates of R337 and R338. -/

namespace Sys2Proof.Machine

/-- The write-only bits of a register. -/
def woMask (d : RegD) : Word :=
  d.fields.foldl (fun m f => if f.acc == .wo then m ||| bitMask f.lo f.w else m) 0

/-- The bits of EVT_PENDn whose sources a non-secure initiator does not see (R337). -/
def State.hiddenPend (s : State) (n : Nat) : Word :=
  (List.range 32).foldl (fun m k => if s.srcPublic (32 * n + k) then m else m ||| (1#32 <<< k)) 0

/-- The octets of EVT_ROUTEn whose sources a non-secure initiator does not see (R337). -/
def State.hiddenRoute (s : State) (n : Nat) : Word :=
  (List.range 4).foldl (fun m k => if s.srcPublic (4 * n + k) then m else m ||| (0xFF#32 <<< (8 * k))) 0

/-- The bits of the register at `p` that this initiator neither reads nor writes (R337, R338). -/
def State.hidden (s : State) (rq : Req) (p : Nat) : Word :=
  if s.secureReq rq then 0
  else if Reg.EVT_PENDn 0 ≤ p ∧ p ≤ Reg.EVT_PENDn 7 then s.hiddenPend ((p - Reg.EVT_PENDn 0) / 4)
  else if Reg.EVT_ROUTEn 0 ≤ p ∧ p ≤ Reg.EVT_ROUTEn 63 then s.hiddenRoute ((p - Reg.EVT_ROUTEn 0) / 4)
  else if p = Reg.CHIP_SNAPMASK then 1#32 <<< 16
  else 0

end Sys2Proof.Machine
end

