-- ==== Sys2Proof/Machine/Access.lean ====
section
/-! DEFINITION. Register writes (R43 to R50): at the primary address and through the aliases, commit groups, and the commands of
the register model that are not tied to one unit. -/

namespace Sys2Proof.Machine

/-! ### One full-width write -/

/-- Has the register a writable field (R46)? -/
def RegD.writable (d : RegD) : Bool :=
  d.fields.any (fun f => f.acc == .rw || f.acc == .wo || f.acc == .wl || f.acc == .pw || f.acc == .sc)

/-- Has the register a field with access code `c`? -/
def RegD.has (d : RegD) (c : Acc) : Bool := d.fields.any (fun f => f.acc == c)

/-- The bits of a register whose fields have one of the codes of `cs`. -/
def RegD.mask (d : RegD) (cs : List Acc) : Word :=
  d.fields.foldl (fun m f => if cs.contains f.acc then m ||| bitMask f.lo f.w else m) 0

/-- Bits that read 1 and ignore writes: CHIP_WMAP0 bits 12, 13 and 17, SUP_CFG.FAILMASK bits 0 to 2. -/
def fixedOnes (p : Nat) : Word :=
  if p = Reg.CHIP_WMAP0 then 0x23000 else if p = Reg.SUP_CFG then 0x700000 else 0

/-- CFG is in pass 3 of a load, before the lock of R30. -/
def State.inPass3 (s : State) : Bool := s.fld F.CFG_STATUS_STATE == 3 && !s.mapLocked

/-- May this initiator set WL fields now (R47)? -/
def State.canWL (s : State) (rq : Req) : Bool := rq.init == .cfg && s.inPass3

/-- Put `v` into the bits `m` of register `p`, where the initiator reaches them (R43, R337). For the event hub this
also fires software sources that become pending, keeps who set a route, and drives vectors (R61 to R64). -/
def State.store (s : State) (rq : Req) (p : Nat) (m v : Word) : State :=
  let h := s.hidden rq p
  let old := s.reg p
  let new := ((old &&& ~~~(m &&& ~~~h)) ||| (v &&& (m &&& ~~~h))) ||| fixedOnes p
  let s1 := s.setReg p new
  if Reg.EVT_PENDn 0 ≤ p ∧ p ≤ Reg.EVT_PENDn 7 then
    let sw := if p = Reg.EVT_PENDn 7 then new &&& ~~~old &&& 0xF0000000 else 0
    let s2 := { s1 with evt := { s1.evt with fwPend := s1.evt.fwPend ||| (sw.setWidth 256 <<< 224) } }
    s2.newVectors s
  else if Reg.EVT_ROUTEn 0 ≤ p ∧ p ≤ Reg.EVT_ROUTEn 63 then
    let n := (p - Reg.EVT_ROUTEn 0) / 4
    let ns := !s.secureReq rq
    let r := (List.range 4).foldl (fun (b : BitVec 256) k =>
      if ns && !s.srcPublic (4 * n + k) then b
      else if ns then b ||| (1#256 <<< (4 * n + k)) else b &&& ~~~(1#256 <<< (4 * n + k))) s1.evt.nsRoute
    ({ s1 with evt := { s1.evt with nsRoute := r } }).newVectors s
  else s1

/-- What bars a full-width aligned access at the primary address or an alias (R52): WORLD, then NODOMAIN, where the domain is not on or
the unit is not clocked yet (R53); PD_AON is never off or unclocked. -/
def State.barred (s : State) (rq : Req) (a : Nat) (opWrite : Option Word) : Option AccCause :=
  if !s.secureReq rq && s.secureOnly a opWrite then some .world
  else if !s.domReady (domOf (primOf a)) || !(s.coreClk || (fircUnit (unitOf a) || domOf (primOf a) == 0)) then some .nodomain
  else none

/-- The effect of a full-width primary write that nothing bars (R43, R46, R47, R49): RW and SC bits take the value,
WL bits too where R47 lets them, and LOCKED is recorded where a WL field would have changed and may not. -/
def State.applyWrite (s : State) (rq : Req) (p : Nat) (v : Word) : State :=
  match regDesc p with
  | none => s
  | some d =>
    if !d.writable then s.recordFault rq .readonly true p 15
    else if d.has .pw && s.on F.RFP_STATUS_BUSY then s.recordFault rq .busy true p 15
    else
      let ok := s.canWL rq
      let s1 := s.store rq p (d.mask [.rw, .sc] ||| (if ok then d.mask [.wl] &&& ~~~(fixedOnes p) else 0)) v
      if !ok && ((v ^^^ s.reg p) &&& d.mask [.wl]) != 0 then s1.recordFault rq .locked true p 15 else s1

/-- A full-width write of `v` at primary address `p` that starts an action: checked as every write (R52), stored, then
acted on. A barred write is recorded and does nothing. -/
def State.gated (s : State) (rq : Req) (p : Nat) (v : Word) (act : State → State) : State :=
  match s.barred rq p (some v) with
  | some c => (s.recordFault rq c true p 15).respond [] false
  | none => act ((s.applyWrite rq p v).respond [] true)

/-- The word that a write through a view asks for (R44): 0 the primary address, 1 set, 2 clear, 3 toggle. -/
def viewWord (view : Nat) (old v : Word) : Word :=
  if view = 0 then v else if view = 1 then old ||| v else if view = 2 then old &&& ~~~v else old ^^^ v

/-- A write through an alias (R44): OR, AND-NOT or XOR on the RW fields and the shadows of the SC fields. -/
def State.applyAlias (s : State) (rq : Req) (a : Nat) (v : Word) : State :=
  let p := primOf a
  match regDesc p with
  | none => s
  | some d =>
    if !d.writable then s.recordFault rq .readonly true a 15
    else
      s.store rq p (d.mask [.rw, .sc]) (viewWord (viewOf a) (s.reg p) v)

/-- A write at the primary address or through an alias, by its view. -/
def State.viewWrite (s : State) (rq : Req) (p view : Nat) (v : Word) : State :=
  if view = 0 then s.applyWrite rq p v else s.applyAlias rq (p + 0x10000 * view) v

/-! ### Commit groups (R50) -/

/-- The addresses of the registers of one row. -/
def RegD.addrs (d : RegD) : List Nat :=
  match d.dims with
  | [] => [d.base]
  | [(s, n)] => (List.range n).map (fun i => d.base + s * i)
  | (s1, n1) :: (s2, n2) :: _ =>
    (List.range n1).flatMap (fun i => (List.range n2).map (fun j => d.base + s1 * i + s2 * j))

/-- The bits of a register that belong to SC fields of group `g`. -/
def RegD.scMask (d : RegD) (g : Nat) : Word :=
  d.fields.foldl (fun m f => if f.acc == .sc && f.grp == g then m ||| bitMask f.lo f.w else m) 0

/-- The registers of commit group `g` of unit `u`, with the bits that belong to it. -/
def groupRegs (u g : Nat) : List (Nat × Word) :=
  ((RegMap.units.getD u []).filter (fun d => d.fields.any (fun f => f.acc == .sc && f.grp == g))).flatMap
    (fun d => d.addrs.map (fun a => (a, d.scMask g)))

/-- The address of UNIT_COMMIT of unit `u`; UNIT_CMTSTAT lies 4 above. -/
def commitReg (u : Nat) : Nat := u * 0x100000 + 0xFFF0

/-- PENDING of UNIT_CMTSTAT. -/
def pendingFld (u : Nat) : Field := ⟨commitReg u + 4, 0, 8⟩

/-- LASTREJ of UNIT_CMTSTAT. -/
def lastRejFld (u : Nat) : Field := ⟨commitReg u + 4, 8, 8⟩

/-- APPLIED of UNIT_CMTSTAT. -/
def appliedFld (u : Nat) : Field := ⟨commitReg u + 4, 16, 16⟩

/-- Stage the shadows of group `g` of unit `u` (R50), in place of any set staged before. -/
def State.stage (s : State) (u g : Nat) : State :=
  let rs := groupRegs u g
  if rs.isEmpty then s
  else
    let st : Staged := { unit := u, grp := g, vals := rs.map (fun r => (r.1, s.reg r.1 &&& r.2)),
                         gsn := s.gsn }
    let s1 := { s with staged := (s.staged.filter (fun (x : Staged) => !(x.unit == u && x.grp == g))) ++ [st] }
    s1.setFld (pendingFld u) (setBit (s1.fld (pendingFld u)) g true)

/-- Discard the staged set of group `g` of unit `u`. -/
def State.unstage (s : State) (u g : Nat) : State :=
  let s1 := { s with staged := s.staged.filter (fun (x : Staged) => !(x.unit == u && x.grp == g)) }
  s1.setFld (pendingFld u) (setBit (s1.fld (pendingFld u)) g false)

/-- Make the staged set `st` the active set of its group. -/
def State.activate (s : State) (st : Staged) : State :=
  let m := fun a => ((groupRegs st.unit st.grp).find? (fun r => r.1 == a)).elim (0 : Word) (fun r => r.2)
  let s1 := st.vals.foldl (fun t r =>
    { t with active := t.active.putD (resetOf r.1) r.1 ((t.act r.1 &&& ~~~(m r.1)) ||| r.2) }) s
  let s2 := s1.unstage st.unit st.grp
  let s3 := s2.setFld (lastRejFld st.unit) (setBit (s2.fld (lastRejFld st.unit)) st.grp false)
  s3.setFld (appliedFld st.unit) (s3.fld (appliedFld st.unit) + 1)

/-- The groups named by a GROUPS octet. -/
def groupsOf (n : Nat) : List Nat := (List.range 8).filter (fun g => bit n g)

/-! ### The commands -/

/-- REG_ACCESS_TIMEOUT (R54): the access completes as for a domain that is off, is recorded with cause TIMEOUT, and
is a class 6 fault (R422). -/
def execRegAccessTimeout (rq : Req) (addr : Nat) (write : Bool) (byteen gt : Nat) (s : State) :
    Host.Outcome State Fault Refusal :=
  let s1 := s.recordFault rq .timeout write addr byteen
  .next ((s1.report (s1.mkNotice 6 (unitOf addr % 32) 0xFFFF 0xFFFF 0 gt)).respond (leOctets 4 0) false)

/-- A commit write that starts groups (R50): their shadows are staged; the announcement of a mask change begins with it, source 102
(R182, R203). -/
def State.stageGroups (s : State) (unit groups : Nat) : State :=
  ((groupsOf groups).foldl (fun u g => u.stage unit g) s).fireIf
    (unit == 7 && (bit groups 2 && !s.staged.any (fun (x : Staged) => x.unit == 7 && x.grp == 2))) 102

/-- COMMIT_GO (R50): the shadows of the named groups become staged sets. -/
def execCommitGo (rq : Req) (unit groups : Nat) (s : State) : Host.Outcome State Fault Refusal :=
  .next (s.gated rq (commitReg unit) (BitVec.ofNat 32 (groups % 256 + 256)) (fun t => t.stageGroups unit groups))

/-- COMMIT_ABORT (R50): the staged sets of the named groups are discarded; GO in the same write is ignored. -/
def execCommitAbort (rq : Req) (unit groups : Nat) (go : Bool) (s : State) : Host.Outcome State Fault Refusal :=
  .next (s.gated rq (commitReg unit) (BitVec.ofNat 32 (groups % 256 + 256 * b2n go + 512)) (fun t =>
    (groupsOf groups).foldl (fun u g => u.unstage unit g) t))

/-- EVT_REARM (R64): the message of each named vector that is active. -/
def execEvtRearm (rq : Req) (vectors : Nat) (s : State) : Host.Outcome State Fault Refusal :=
  .next (s.gated rq Reg.EVT_REARM (BitVec.ofNat 32 (vectors % 65536)) (fun t =>
    (List.range 16).foldl (fun u v => if bit vectors v && u.vecActive v then u.sendMsi v else u) t))

/-- The messages held in the pending bits of entries that may send now (R64). -/
def State.msiFlush (s : State) : State :=
  (List.range 16).foldl (fun u v =>
    if u.evt.msixEnabled && (u.evt.msixPend.getLsbD v && !u.evt.msixMask.getLsbD v) then
      ({ u with evt := { u.evt with msixPend := u.evt.msixPend &&& ~~~(1#16 <<< v) } }).sendMsi v
    else u) s

/-- MSIX_UNMASK (R64): the host writes the MSI-X table or its enable bit (log entry 10). An entry that is unmasked sends the message held
in its pending bit. -/
def execMsixUnmask (w : MsixWrite) (s : State) : Host.Outcome State Fault Refusal :=
  .next (match w with
    | .unmask v => State.msiFlush { s with evt := { s.evt with msixMask := s.evt.msixMask &&& ~~~(1#16 <<< v) } }
    | .mask v => { s with evt := { s.evt with msixMask := s.evt.msixMask ||| (1#16 <<< v) } }
    | .enable b => State.msiFlush { s with evt := { s.evt with msixEnabled := b } })

end Sys2Proof.Machine
end

