-- ==== Sys2Proof/Machine/Aes.lean ====
section
/-! DEFINITION. AES (FIPS 197) and the modes that the spec names: ECB, CBC, CTR (SP 800-38A), CMAC (SP 800-38B), GCM (SP 800-38D), key
wrap (SP 800-38F) and the CCM* of IEEE 802.15.4 with its MIC of 4 octets (R22, R174, R307, R309, R314, R322). -/

namespace Sys2Proof.Machine

/-! ### The field of FIPS 197 and the S-boxes -/

/-- Multiplication by x. -/
def xtime (b : Octet) : Octet := if b.msb then (b <<< 1) ^^^ 0x1B else b <<< 1

/-- The product of two field elements, over the bits of the second. -/
def aesMul : Nat → Octet → Octet → Octet
  | 0, _, _ => 0
  | k + 1, a, b => (if b.getLsbD 0 then a else 0) ^^^ aesMul k (xtime a) (b >>> 1)

/-- `a` to the power `n`. -/
def aesPow (a : Octet) : Nat → Octet
  | 0 => 1
  | n + 1 => aesMul 8 (aesPow a n) a

/-- SubBytes of one octet: the inverse, which is the power 254, then the affine map. -/
def subOctet (b : Octet) : Octet :=
  let v := aesPow b 254
  v ^^^ (v.rotateLeft 1 ^^^ (v.rotateLeft 2 ^^^ (v.rotateLeft 3 ^^^ (v.rotateLeft 4 ^^^ 0x63))))

/-- The S-box. -/
def sbox : Array Octet := ((List.range 256).map (fun n => subOctet (BitVec.ofNat 8 n))).toArray

/-- The inverse S-box. -/
def sboxInv : Array Octet := ((List.range 256).map (fun n => BitVec.ofNat 8 (sbox.toList.idxOf (BitVec.ofNat 8 n)))).toArray

/-- An octet through a box. -/
def through (t : Array Octet) (b : Octet) : Octet := t.getD b.toNat 0

/-! ### The cipher; a block is 16 octets, column after column -/

/-- Octet-wise exclusive-or; as long as the shorter list. -/
def xorL (a b : List Octet) : List Octet := List.zipWith (· ^^^ ·) a b

/-- The words of the expanded key, latest first, from those so far; fuel is the number of words to come. -/
def keyWords (nk : Nat) : Nat → List (List Octet) → Octet → List (List Octet)
  | 0, ws, _ => ws
  | k + 1, ws, rcon =>
    let i := ws.length
    let last := ws.headD []
    let old := ws.getD (nk - 1) []
    if i % nk = 0 then
      keyWords nk k (xorL old (xorL ((last.rotateLeft 1).map (through sbox)) [rcon, 0, 0, 0]) :: ws) (xtime rcon)
    else if 6 < nk ∧ i % nk = 4 then keyWords nk k (xorL old (last.map (through sbox)) :: ws) rcon
    else keyWords nk k (xorL old last :: ws) rcon

/-- Octets in runs of `n`; fuel is the number of runs. -/
def chunks (n : Nat) : Nat → List Octet → List (List Octet)
  | 0, _ => []
  | k + 1, l => l.take n :: chunks n k (l.drop n)

/-- The round keys of a key of 16 or 32 octets. -/
def roundKeys (key : List Octet) : List (List Octet) :=
  let nk := key.length / 4
  let ws := (keyWords nk (4 * (nk + 7) - nk) (chunks 4 nk key).reverse 1).reverse
  chunks 16 (nk + 7) ws.flatten

/-- ShiftRows: octet `r + 4 c` comes from column `c + r`, or `c - r` for the inverse. -/
def shiftRows (inv : Bool) (b : List Octet) : List Octet :=
  (List.range 16).map (fun i => b.getD (i % 4 + 4 * ((i / 4 + (if inv then 16 - i % 4 else i % 4)) % 4)) 0)

/-- MixColumns with the circulant coefficients `m`. -/
def mixColumns (m : List Octet) (b : List Octet) : List Octet :=
  (List.range 16).map (fun i => (List.range 4).foldl (fun a j =>
    a ^^^ aesMul 8 (b.getD (i / 4 * 4 + j) 0) (m.getD ((j + 4 - i % 4) % 4) 0)) 0)

/-- The rounds after the first key addition; the last one mixes no columns. -/
def encRounds : List (List Octet) → List Octet → List Octet
  | [], b => b
  | [k], b => xorL k (shiftRows false (b.map (through sbox)))
  | k :: ks, b => encRounds ks (xorL k (mixColumns [2, 3, 1, 1] (shiftRows false (b.map (through sbox)))))

/-- One block under round keys. -/
def encBlock (rk : List (List Octet)) (b : List Octet) : List Octet := encRounds rk.tail (xorL (rk.headD []) b)

/-- The inverse rounds, on round keys latest first. -/
def decRounds : List (List Octet) → List Octet → List Octet
  | [], b => b
  | [k], b => xorL k ((shiftRows true b).map (through sboxInv))
  | k :: ks, b => decRounds ks (mixColumns [14, 11, 13, 9] (xorL k ((shiftRows true b).map (through sboxInv))))

/-- One block deciphered under round keys. -/
def decBlock (rk : List (List Octet)) (b : List Octet) : List Octet :=
  decRounds rk.reverse.tail (xorL (rk.reverse.headD []) b)

/-- AES of one block under a key. -/
def aes (key b : List Octet) : List Octet := encBlock (roundKeys key) b

/-- The number of blocks that hold `n` octets. -/
def blocksOf (n : Nat) : Nat := (n + 15) / 16

/-- Octets filled up with zeros to whole blocks. -/
def padZero (l : List Octet) : List Octet := l ++ List.replicate ((16 - l.length % 16) % 16) 0

/-! ### Modes -/

/-- ECB over whole blocks. -/
def ecb (enc : Bool) (key l : List Octet) : List Octet :=
  let rk := roundKeys key
  (chunks 16 (blocksOf l.length) l).flatMap (fun b => if enc then encBlock rk b else decBlock rk b)

/-- CBC encryption over whole blocks. -/
def cbcEnc (rk : List (List Octet)) : List Octet → List (List Octet) → List Octet
  | _, [] => []
  | iv, b :: t =>
    let c := encBlock rk (xorL iv b)
    c ++ cbcEnc rk c t

/-- CBC decryption over whole blocks. -/
def cbcDec (rk : List (List Octet)) : List Octet → List (List Octet) → List Octet
  | _, [] => []
  | iv, b :: t => xorL iv (decBlock rk b) ++ cbcDec rk b t

/-- CBC in either direction. -/
def cbc (enc : Bool) (key iv l : List Octet) : List Octet :=
  let bs := chunks 16 (blocksOf l.length) l
  if enc then cbcEnc (roundKeys key) iv bs else cbcDec (roundKeys key) iv bs

/-- The key stream of counter blocks: `pre` and a counter of `n` octets from `c` on, for `k` blocks. -/
def keyStream (rk : List (List Octet)) (pre : List Octet) (n c k : Nat) : List Octet :=
  (List.range k).flatMap (fun i => encBlock rk (pre ++ beOctets n (c + i)))

/-- CTR over any octets, from a counter block of 16 octets. -/
def ctr (key ctr0 l : List Octet) : List Octet :=
  xorL l (keyStream (roundKeys key) [] 16 (beNat ctr0) (blocksOf l.length))

/-- The CBC-MAC chain over whole blocks. -/
def cbcMac (rk : List (List Octet)) (x : List Octet) (bs : List (List Octet)) : List Octet :=
  bs.foldl (fun a b => encBlock rk (xorL a b)) x

/-- Sixteen zero octets. -/
def zero16 : List Octet := List.replicate 16 0

/-- Doubling in the field of SP 800-38B. -/
def dbl128 (b : List Octet) : List Octet :=
  let n := 2 * beNat b
  beOctets 16 (if n < 2 ^ 128 then n else (n - 2 ^ 128) ^^^ 0x87)

/-- CMAC, 16 octets. -/
def cmac (key l : List Octet) : List Octet :=
  let rk := roundKeys key
  let k1 := dbl128 (encBlock rk zero16)
  let n := max 1 (blocksOf l.length)
  let whole := l.length = 16 * n
  let last := l.drop (16 * (n - 1))
  let m := if whole then xorL k1 last else xorL (dbl128 k1) (padZero (last ++ [0x80]))
  cbcMac rk zero16 (chunks 16 (n - 1) l ++ [m])

/-! ### GCM -/

/-- The product of GHASH: over the bits of `x` from the most significant one, `v` being multiplied by the field's x at each. -/
def ghMul (x : Nat) : Nat → Nat → Nat → Nat
  | 0, _, z => z
  | k + 1, v, z => ghMul x k (if v % 2 = 1 then (v / 2) ^^^ (0xE1 * 2 ^ 120) else v / 2) (if bit x k then z ^^^ v else z)

/-- GHASH over whole blocks. -/
def ghash (h : Nat) (l : List Octet) : Nat :=
  (chunks 16 (blocksOf l.length) l).foldl (fun y b => ghMul (y ^^^ beNat b) 128 h 0) 0

/-- The tag of a ciphertext under a 96-bit IV. -/
def gcmTag (rk : List (List Octet)) (iv aad ct : List Octet) : List Octet :=
  let s := ghash (beNat (encBlock rk zero16)) (padZero aad ++ padZero ct ++ beOctets 8 (8 * aad.length) ++ beOctets 8 (8 * ct.length))
  xorL (beOctets 16 s) (encBlock rk (iv ++ beOctets 4 1))

/-- GCM's counter mode. -/
def gcmCrypt (rk : List (List Octet)) (iv l : List Octet) : List Octet := xorL l (keyStream rk iv 4 2 (blocksOf l.length))

/-- GCM: the ciphertext and its tag. -/
def gcmSeal (key iv aad pt : List Octet) : List Octet × List Octet :=
  let rk := roundKeys key
  let ct := gcmCrypt rk iv pt
  (ct, gcmTag rk iv aad ct)

/-- GCM: the plaintext, where the tag is right. -/
def gcmOpen (key iv aad ct tag : List Octet) : Option (List Octet) :=
  let rk := roundKeys key
  if gcmTag rk iv aad ct = tag then some (gcmCrypt rk iv ct) else none

/-! ### Key wrap (KW) -/

/-- The steps of one pass over the registers: register `a`, those still to come, the step number. -/
def wrapPass (rk : List (List Octet)) : List Octet → List (List Octet) → Nat → List Octet × List (List Octet)
  | a, [], _ => (a, [])
  | a, r :: rs, t =>
    let b := encBlock rk (a ++ r)
    let x := wrapPass rk (xorL (b.take 8) (beOctets 8 t)) rs (t + 1)
    (x.1, b.drop 8 :: x.2)

/-- The inverse of a pass: registers latest first, the step number of the first of them. -/
def unwrapPass (rk : List (List Octet)) : List Octet → List (List Octet) → Nat → List Octet × List (List Octet)
  | a, [], _ => (a, [])
  | a, r :: rs, t =>
    let b := decBlock rk (xorL a (beOctets 8 t) ++ r)
    let x := unwrapPass rk (b.take 8) rs (t - 1)
    (x.1, b.drop 8 :: x.2)

/-- The initial value of KW. -/
def wrapIv : List Octet := List.replicate 8 0xA6

/-- AES key wrap: 8 octets longer than what it wraps. -/
def keyWrap (kek plain : List Octet) : List Octet :=
  let rk := roundKeys kek
  let n := plain.length / 8
  let x := (List.range 6).foldl (fun p j => wrapPass rk p.1 p.2 (n * j + 1)) (wrapIv, chunks 8 n plain)
  x.1 ++ x.2.flatten

/-- AES key unwrap: what was wrapped, where the integrity check passes. -/
def keyUnwrap (kek wrapped : List Octet) : Option (List Octet) :=
  let rk := roundKeys kek
  let n := wrapped.length / 8 - 1
  let x := (List.range 6).foldl (fun p j => unwrapPass rk p.1 p.2 (n * (6 - j))) (wrapped.take 8, (chunks 8 n (wrapped.drop 8)).reverse)
  if x.1 = wrapIv then some x.2.reverse.flatten else none

/-! ### CCM* with a nonce of 13 octets and a MIC of 4 (R174) -/

/-- The MIC: the CBC-MAC of the first block, the authenticated data after its length, and the plaintext, under the first counter block. -/
def ccmMic (rk : List (List Octet)) (nonce aad pt : List Octet) : List Octet :=
  let flags : Octet := if aad = [] then 0x09 else 0x49
  let b0 := flags :: (nonce ++ beOctets 2 pt.length)
  let a := if aad = [] then [] else padZero (beOctets 2 aad.length ++ aad)
  let m := a ++ padZero pt
  let t := cbcMac rk zero16 (b0 :: chunks 16 (blocksOf m.length) m)
  (xorL t (encBlock rk (1 :: (nonce ++ beOctets 2 0)))).take 4

/-- CCM's counter mode. -/
def ccmCrypt (rk : List (List Octet)) (nonce l : List Octet) : List Octet :=
  xorL l (keyStream rk (1 :: nonce) 2 1 (blocksOf l.length))

/-- The octets of a slot's key as an AES key: 16 for ALG 0, 32 for ALG 1 (R306). -/
def aesKey (key alg : Nat) : List Octet := leOctets (if alg = 0 then 16 else 32) key

/-- CCM* of a frame to send: level 5 encrypts the payload, level 1 authenticates it; then the MIC. -/
def ccmSeal (key alg level : Nat) (nonce aad pt : List Octet) : List Octet :=
  let rk := roundKeys (aesKey key alg)
  if level = 5 then ccmCrypt rk nonce pt ++ ccmMic rk nonce aad pt else pt ++ ccmMic rk nonce (aad ++ pt) []

/-- CCM* of a received frame: the payload, where its MIC verifies; `ct` ends with the MIC. -/
def ccmOpen (key alg level : Nat) (nonce aad ct : List Octet) : Option (List Octet) :=
  let rk := roundKeys (aesKey key alg)
  let c := ct.take (ct.length - 4)
  let pt := if level = 5 then ccmCrypt rk nonce c else c
  let mic := if level = 5 then ccmMic rk nonce aad pt else ccmMic rk nonce (aad ++ c) []
  if mic = ct.drop (ct.length - 4) then some pt else none

end Sys2Proof.Machine
end

