-- ==== Sys2Proof/Machine/Hash.lean ====
section
/-! DEFINITION. SHA-2, HMAC and the key derivations over them (FIPS 180-4, FIPS 198-1, SP 800-108, SP 800-56C), as R22, R303, R314
and R322 name them. -/

namespace Sys2Proof.Machine

/-! ### Constants of FIPS 180-4: fractional parts of roots of the first primes -/

/-- `n` is prime, by trial division. -/
def isPrime (n : Nat) : Bool := Nat.ble 2 n && ((List.range n).drop 2).all (fun d => n % d != 0)

/-- The first `k` primes. -/
def primes (k : Nat) : List Nat := ((List.range 410).filter isPrime).take k

/-- The largest root `r` with `r ^ e ≤ n`, bit by bit from bit `k - 1` down. -/
def rootFloor (e n : Nat) : Nat → Nat → Nat
  | 0, r => r
  | k + 1, r => rootFloor e n k (if (r + 2 ^ k) ^ e ≤ n then r + 2 ^ k else r)

/-- The first `w` bits of the fractional part of the `e`-th root of `p`. -/
def rootBits (e w p : Nat) : BitVec w := BitVec.ofNat w (rootFloor e (p * 2 ^ (e * w)) (w + 9) 0)

/-- Round constants: cube roots. -/
def sha256K : List (BitVec 32) := (primes 64).map (rootBits 3 32)

/-- Round constants: cube roots. -/
def sha512K : List (BitVec 64) := (primes 80).map (rootBits 3 64)

/-- Initial value of SHA-256: square roots of the first eight primes. -/
def sha256Init : List (BitVec 32) := (primes 8).map (rootBits 2 32)

/-- Initial value of SHA-384: square roots of the ninth to sixteenth primes. -/
def sha384Init : List (BitVec 64) := ((primes 16).drop 8).map (rootBits 2 64)

/-! ### The compression function -/

/-- What the variants of SHA-2 differ in: the rotations of the functions Σ0, Σ1, σ0, σ1 (the last one of the σ is a shift) and the round
constants. -/
structure ShaSpec (w : Nat) where
  big0 : Nat × Nat × Nat
  big1 : Nat × Nat × Nat
  small0 : Nat × Nat × Nat
  small1 : Nat × Nat × Nat
  ks : List (BitVec w)

/-- SHA-256. -/
def sha256Spec : ShaSpec 32 := ⟨(2, 13, 22), (6, 11, 25), (7, 18, 3), (17, 19, 10), sha256K⟩

/-- SHA-512 and its truncation SHA-384. -/
def sha512Spec : ShaSpec 64 := ⟨(28, 34, 39), (14, 18, 41), (1, 8, 7), (19, 61, 6), sha512K⟩

/-- Σ0 and Σ1. -/
def shaBig {w : Nat} (r : Nat × Nat × Nat) (x : BitVec w) : BitVec w :=
  x.rotateRight r.1 ^^^ (x.rotateRight r.2.1 ^^^ x.rotateRight r.2.2)

/-- σ0 and σ1. -/
def shaSmall {w : Nat} (r : Nat × Nat × Nat) (x : BitVec w) : BitVec w :=
  x.rotateRight r.1 ^^^ (x.rotateRight r.2.1 ^^^ x >>> r.2.2)

/-- One round on the working variables a to h under a round constant and a schedule word. -/
def shaRound {w : Nat} (c : ShaSpec w) (v : List (BitVec w)) (k x : BitVec w) : List (BitVec w) :=
  match v with
  | [a, b, cc, d, e, f, g, h] =>
    let t1 := h + shaBig c.big1 e + ((e &&& f) ^^^ (~~~e &&& g)) + k + x
    let t2 := shaBig c.big0 a + ((a &&& b) ^^^ (a &&& cc) ^^^ (b &&& cc))
    [t1 + t2, a, b, cc, d + t1, e, f, g]
  | l => l

/-- The next sixteen schedule words from sixteen in a row: the first leaves, a new one comes. -/
def shaWindow {w : Nat} (c : ShaSpec w) (l : List (BitVec w)) : List (BitVec w) :=
  l.tail ++ [shaSmall c.small1 (l.getD 14 0) + l.getD 9 0 + shaSmall c.small0 (l.getD 1 0) + l.getD 0 0]

/-- One block, as sixteen words, into the chaining value. -/
def shaBlock {w : Nat} (c : ShaSpec w) (hash block : List (BitVec w)) : List (BitVec w) :=
  let r := c.ks.foldl (fun (p : List (BitVec w) × List (BitVec w)) k =>
    (shaRound c p.1 k (p.2.headD 0), shaWindow c p.2)) (hash, block)
  List.zipWith (· + ·) hash r.1

/-- Octets as words of `n` octets, most significant first; fuel is the number of words. -/
def wordsOf (w n : Nat) : Nat → List Octet → List (BitVec w)
  | 0, _ => []
  | k + 1, l => BitVec.ofNat w (beNat (l.take n)) :: wordsOf w n k (l.drop n)

/-- All blocks of a padded message; fuel is their number. -/
def shaBlocks {w : Nat} (c : ShaSpec w) (n : Nat) : Nat → List (BitVec w) → List Octet → List (BitVec w)
  | 0, h, _ => h
  | k + 1, h, l => shaBlocks c n k (shaBlock c h (wordsOf w n 16 l)) (l.drop (16 * n))

/-- Padding to blocks of `16 * n` octets: a one bit, zeros, the length in bits in two words. -/
def shaPad (n : Nat) (l : List Octet) : List Octet :=
  let b := 16 * n
  l ++ [0x80] ++ List.replicate ((2 * b - 1 - 2 * n - l.length % b) % b) 0 ++ beOctets (2 * n) (8 * l.length)

/-- SHA-2 over words of `n` octets. -/
def shaHash {w : Nat} (c : ShaSpec w) (n : Nat) (init : List (BitVec w)) (l : List Octet) : List Octet :=
  let m := shaPad n l
  (shaBlocks c n (m.length / (16 * n)) init m).flatMap (fun x => beOctets n x.toNat)

/-- SHA-256: 32 octets. -/
def sha256 (l : List Octet) : List Octet := shaHash sha256Spec 4 sha256Init l

/-- SHA-384: 48 octets. -/
def sha384 (l : List Octet) : List Octet := (shaHash sha512Spec 8 sha384Init l).take 48

/-! ### HMAC and key derivation -/

/-- Octets combined one by one with an octet. -/
def xorAll (c : Octet) (l : List Octet) : List Octet := l.map (fun b => b ^^^ c)

/-- HMAC (FIPS 198-1) over a hash of blocks of `b` octets. -/
def hmac (hash : List Octet → List Octet) (b : Nat) (key msg : List Octet) : List Octet :=
  let k0 := if b < key.length then hash key else key
  let k := k0 ++ List.replicate (b - k0.length) 0
  hash (xorAll 0x5C k ++ hash (xorAll 0x36 k ++ msg))

/-- HMAC-SHA-256. -/
def hmac256 (key msg : List Octet) : List Octet := hmac sha256 64 key msg

/-- HMAC-SHA-384. -/
def hmac384 (key msg : List Octet) : List Octet := hmac sha384 128 key msg

/-- The KDF in counter mode of SP 800-108 (R303): `len` bits under a label and a context. -/
def kdfCounter (key label context : List Octet) (len : Nat) : List Octet :=
  ((List.range ((len + 383) / 384)).flatMap (fun i =>
    hmac384 key (beOctets 4 (i + 1) ++ label ++ [0] ++ context ++ beOctets 4 len))).take (len / 8)

/-- The one-step KDF of SP 800-56C with SHA-384, first 256 bits (R22, R314). -/
def kdfOneStep (z info : List Octet) : List Octet := (sha384 ([0, 0, 0, 1] ++ z ++ info)).take 32

end Sys2Proof.Machine
end

