-- ==== Sys2Proof/Machine/P384.lean ====
section
/-! DEFINITION. The curve P-384, ECDH and ECDSA over it (SP 800-186, SP 800-56A, FIPS 186-5), and X.509 certificates as far as R23 uses
them: the key a certificate carries and whether a key issued it. -/

namespace Sys2Proof.Machine

/-! ### The field and the curve -/

/-- The field's prime. -/
def p384Prime : Nat := 2 ^ 384 - 2 ^ 128 - 2 ^ 96 + 2 ^ 32 - 1

/-- The order of P-384. -/
def p384Order : Nat :=
  0xFFFFFFFFFFFFFFFFFFFFFFFFFFFFFFFFFFFFFFFFFFFFFFFFC7634D81F4372DDF581A0DB248B0A77AECEC196ACCC52973

/-- The coefficient b. -/
def p384B : Nat :=
  0xB3312FA7E23EE7E4988E056BE3F82D19181D9C6EFE8141120314088F5013875AC656398D8A2ED19D2A85C8EDD3EC2AEF

/-- The base point. -/
def p384Base : Nat × Nat :=
  (0xAA87CA22BE8B05378EB1C71EF320AD746E1D3B628BA79B9859F741E082542A385502F25DBF55296C3A545E3872760AB7,
   0x3617DE4A96262C6F5D9E98BF9292DC29F8F41DBD289A147CE9DA3113B5F0B8C00A60B1CE1D7E819D7A431D7C90EA0E5F)

/-- `b` to the power `e` modulo `m`, over the low `k` bits of `e`. -/
def powMod (m : Nat) : Nat → Nat → Nat → Nat
  | 0, _, _ => 1
  | k + 1, b, e => (if e % 2 = 1 then b else 1) * powMod m k (b * b % m) (e / 2) % m

/-- The inverse modulo a prime below 2^384. -/
def invMod (m a : Nat) : Nat := powMod m 384 (a % m) (m - 2)

/-- Subtraction modulo `m` of reduced numbers. -/
def subMod (m a b : Nat) : Nat := (a + m - b) % m

/-- A point lies on the curve. -/
def onCurve (q : Nat × Nat) : Bool :=
  q.1 < p384Prime && (q.2 < p384Prime &&
    q.2 * q.2 % p384Prime == (q.1 * q.1 % p384Prime * q.1 + 3 * (p384Prime - q.1) + p384B) % p384Prime)

/-- The sum of two points; none is the point at infinity. -/
def addPoint (p q : Option (Nat × Nat)) : Option (Nat × Nat) :=
  match p, q with
  | none, q => q
  | p, none => p
  | some (x1, y1), some (x2, y2) =>
    let m := p384Prime
    if x1 = x2 ∧ (y1 + y2) % m = 0 then none
    else
      let l := if x1 = x2 then (3 * (x1 * x1) + m - 3) * invMod m (2 * y1) % m else subMod m y2 y1 * invMod m (subMod m x2 x1) % m
      let x3 := (l * l + 2 * m - x1 - x2) % m
      some (x3, subMod m (l * subMod m x1 x3 % m) y1)

/-- `e` times a point, over the low `k` bits of `e`. -/
def mulPoint : Nat → Nat → Option (Nat × Nat) → Option (Nat × Nat)
  | 0, _, _ => none
  | k + 1, e, p => addPoint (if e % 2 = 1 then p else none) (mulPoint k (e / 2) (addPoint p p))

/-- The points with x-coordinate `x`: the two square roots (the prime is 3 modulo 4). -/
def pointsAt (x : Nat) : List (Nat × Nat) :=
  let y := powMod p384Prime 384 ((x * x % p384Prime * x + 3 * (p384Prime - x) + p384B) % p384Prime) ((p384Prime + 1) / 4)
  [(x, y), (x, subMod p384Prime 0 y)].filter onCurve

/-! ### Keys as octets (SEC 1) -/

/-- An uncompressed point: 97 octets. -/
def pointOctets (q : Nat × Nat) : List Octet := 4 :: (beOctets 48 q.1 ++ beOctets 48 q.2)

/-- The point of an uncompressed (97 octets) or compressed (49 octets) key, where it lies on the curve. -/
def pointOf (l : List Octet) : Option (Nat × Nat) :=
  match l with
  | [] => none
  | t :: r =>
    let x := beNat (r.take 48)
    if t = 4 ∧ r.length = 96 then (if onCurve (x, beNat (r.drop 48)) then some (x, beNat (r.drop 48)) else none)
    else if (t = 2 ∨ t = 3) ∧ r.length = 48 then (pointsAt x).find? (fun q => q.2 % 2 == t.toNat % 2)
    else none

/-- The uncompressed public key of a private key. -/
def p384Public (d : Nat) : List Octet := ((mulPoint 384 d (some p384Base)).map pointOctets).getD []

/-- ECDH: the x-coordinate that a private key and a public key give; none where that is no point. -/
def ecdh (d : Nat) (pub : List Octet) : Option (List Octet) :=
  (pointOf pub).bind (fun q => (mulPoint 384 d (some q)).map (fun z => beOctets 48 z.1))

/-- A key pair fits together. -/
def keyPairOk (d : Nat) (pub : List Octet) : Bool := Nat.blt 0 d && (Nat.blt d p384Order && p384Public d == pub)

/-! ### ECDSA -/

/-- r and s lie in their range. -/
def sigRange (r s : Nat) : Bool := Nat.ble 1 r && (Nat.blt r p384Order && (Nat.ble 1 s && Nat.blt s p384Order))

/-- Is (r, s) a signature over a digest under an uncompressed public key? -/
def ecdsaVerify (pub digest : List Octet) (r s : Nat) : Bool :=
  match pointOf pub with
  | none => false
  | some q =>
    let w := invMod p384Order s
    sigRange r s &&
      (match addPoint (mulPoint 384 (beNat digest * w % p384Order) (some p384Base)) (mulPoint 384 (r * w % p384Order) (some q)) with
      | none => false
      | some z => z.1 % p384Order == r)

/-- The signature of private key `d` over a digest with the per-message secret number that `k` gives: r and s. -/
def ecdsaSign (d k : Nat) (digest : List Octet) : Nat × Nat :=
  let n := k % (p384Order - 1) + 1
  let r := ((mulPoint 384 n (some p384Base)).map (fun z => z.1 % p384Order)).getD 0
  (r, (beNat digest + r * d) % p384Order * invMod p384Order n % p384Order)

/-- The public keys under which (r, s) is a signature over a digest. -/
def ecdsaKeys (digest : List Octet) (r s : Nat) : List (List Octet) :=
  if sigRange r s then
    let w := invMod p384Order r
    let e := mulPoint 384 (subMod p384Order 0 (beNat digest % p384Order) * w % p384Order) (some p384Base)
    ((pointsAt r ++ (if r + p384Order < p384Prime then pointsAt (r + p384Order) else [])).filterMap (fun z =>
      addPoint (mulPoint 384 (s * w % p384Order) (some z)) e)).map pointOctets
  else []

/-- ECDSA P-384 with SHA-384 over a message; the signature is r then s, each 48 octets, most significant first (R23). -/
def ecdsaP384 (pub msg sig : List Octet) : Bool :=
  ecdsaVerify pub (sha384 msg) (beNat (slice sig 0 48)) (beNat (slice sig 48 48))

/-- A signature as it is stored (R23, R320). -/
def sigOctets (s : Nat × Nat) : List Octet := beOctets 48 s.1 ++ beOctets 48 s.2

/-! ### X.509 (DER) -/

/-- The DER value at the front: its tag, its contents, all its octets, and what follows. -/
structure Der where
  tag : Octet
  body : List Octet
  all : List Octet
  rest : List Octet
  deriving DecidableEq, Repr

/-- Read one DER value; lengths of up to four octets. -/
def derTake (l : List Octet) : Option Der :=
  match l with
  | t :: n :: r =>
    let k := if n.toNat < 128 then 0 else n.toNat - 128
    let len := if n.toNat < 128 then n.toNat else beNat (r.take k)
    if 4 < k ∨ n = 0x80 ∨ r.length < k + len then none
    else some { tag := t, body := slice r k len, all := l.take (2 + k + len), rest := r.drop (k + len) }
  | _ => none

/-- The DER values of a run of octets in order; fuel bounds their number. -/
def derAll : Nat → List Octet → Option (List Der)
  | 0, l => if l = [] then some [] else none
  | k + 1, l =>
    if l = [] then some []
    else match derTake l with
      | none => none
      | some d => (derAll k d.rest).map (fun t => d :: t)

/-- What R23 uses of a certificate: the signed part, its signature, issuer, subject and SubjectPublicKeyInfo, as DER. -/
structure Cert where
  tbs : List Octet
  sig : Nat × Nat
  issuer : List Octet
  subject : List Octet
  spki : List Octet
  deriving DecidableEq, Repr

/-- ecdsa-with-SHA384 as an AlgorithmIdentifier. -/
def ecdsaSha384 : List Octet := [0x30, 0x0A, 0x06, 0x08, 0x2A, 0x86, 0x48, 0xCE, 0x3D, 0x04, 0x03, 0x03]

/-- The number in a DER INTEGER that is not negative. -/
def derNat (d : Der) : Option Nat :=
  if d.tag = 2 ∧ d.body ≠ [] ∧ (d.body.headD 0).msb = false then some (beNat d.body) else none

/-- An ECDSA signature in a BIT STRING: a SEQUENCE of r and s. -/
def derSig (d : Der) : Option (Nat × Nat) :=
  match d.body with
  | 0 :: s =>
    match derTake s with
    | none => none
    | some q =>
      match derAll 2 q.body with
      | some [r, t] =>
        if d.tag = 3 ∧ q.tag = 0x30 ∧ q.rest = [] then (derNat r).bind (fun a => (derNat t).map (fun b => (a, b))) else none
      | _ => none
  | _ => none

/-- The fields of a signed part after its optional version: serial number, algorithm, issuer, validity, subject, key, the rest. -/
def derTbs (l : List Octet) : Option (List Der) :=
  (derAll 11 l).map (fun fs => match fs with
    | f :: t => if f.tag = 0xA0 then t else f :: t
    | [] => [])

/-- Read a certificate signed with ECDSA and SHA-384. -/
def certOf (l : List Octet) : Option Cert :=
  match derTake l with
  | none => none
  | some c =>
    match derAll 3 c.body with
    | some [tbs, alg, sig] =>
      match derSig sig, derTbs tbs.body with
      | some s, some (serial :: a2 :: issuer :: validity :: subject :: spki :: _) =>
        if c.tag = 0x30 ∧ c.rest = [] ∧ tbs.tag = 0x30 ∧ alg.all = ecdsaSha384 ∧ a2.all = ecdsaSha384 ∧ serial.tag = 2 ∧
            issuer.tag = 0x30 ∧ validity.tag = 0x30 ∧ subject.tag = 0x30 ∧ spki.tag = 0x30 then
          some { tbs := tbs.all, sig := s, issuer := issuer.all, subject := subject.all, spki := spki.all }
        else none
      | _, _ => none
    | _ => none

/-- The DER prefix that turns a 97-octet point into a SubjectPublicKeyInfo (R315). -/
def spkiPrefix : List Octet :=
  [0x30, 0x76, 0x30, 0x10, 0x06, 0x07, 0x2A, 0x86, 0x48, 0xCE, 0x3D, 0x02, 0x01, 0x06, 0x05, 0x2B, 0x81, 0x04, 0x00,
   0x22, 0x03, 0x62, 0x00]

/-- The P-384 key in a SubjectPublicKeyInfo, 97 octets. -/
def spkiKey (l : List Octet) : List Octet := if l.take 23 = spkiPrefix ∧ l.length = 120 then l.drop 23 else []

/-- A certificate is issued by the subject of another: its name is the issuer, and its key signed (R23). -/
def Cert.issuedBy (c by' : Cert) : Bool :=
  c.issuer == by'.subject && ecdsaVerify (spkiKey by'.spki) (sha384 c.tbs) c.sig.1 c.sig.2

/-- A certificate is issued by the owner anchor: a key under which its signature is right has a SubjectPublicKeyInfo whose SHA-384 is
the fused anchor (R23). -/
def Cert.issuedByAnchor (c : Cert) (anchor : List Octet) : Bool :=
  (ecdsaKeys (sha384 c.tbs) c.sig.1 c.sig.2).any (fun k => sha384 (spkiPrefix ++ k) == anchor)

/-- The signing key that a leaf certificate carries, uncompressed. -/
def leafKey (cert : List Octet) : List Octet := ((certOf cert).map (fun c => spkiKey c.spki)).getD []

/-- The index of the first certificate, leaf first, that the next one did not issue, or the anchor the last (R23). -/
def certCheck (anchor : List Octet) : Nat → List (List Octet) → Option Nat
  | _, [] => none
  | i, [c] => if (certOf c).any (fun x => x.issuedByAnchor anchor) then none else some i
  | i, c :: n :: t =>
    if (certOf c).any (fun x => (certOf n).any (fun y => x.issuedBy y)) then certCheck anchor (i + 1) (n :: t) else some i

end Sys2Proof.Machine
end

