-- ==== Sys2Proof/Machine/Crypt.lean ====
section
/-! DEFINITION. The keys that follow from the root secret (R302, R303), and how the spec puts the algorithms together (R22, R314). -/

namespace Sys2Proof.Machine

/-- A private key from derived octets (R303). -/
def ecPrivate (c : List Octet) : Nat := beNat c % (p384Order - 1) + 1

/-- The bits of a share as the antifuse array holds them (R302). -/
def shareStore (n : Nat) : Nat :=
  (List.finRange 256).foldl (fun a i => a + b2n (bit n i.val) * 2 ^ (Config.sharePlace i).val) 0

/-- A share read back from the array. -/
def shareSense (m : Nat) : Nat :=
  (List.finRange 256).foldl (fun a i => a + b2n (bit m (Config.sharePlace i).val) * 2 ^ i.val) 0

/-- The root secret from the two shares that antifuse holds (R302). -/
def rootOf (fuses : Nat × Nat) : Nat := (shareSense fuses.1).xor (shareSense fuses.2)

/-- A key of R303: root, label, device ID, length in bits. -/
def derivedKey (root : Nat) (label dev : List Octet) (len : Nat) : List Octet := kdfCounter (beOctets 32 root) label dev len

/-- The storage key, label PJ-SKEK. -/
def storageKey (root : Nat) (dev : List Octet) : List Octet := derivedKey root [0x50, 0x4A, 0x2D, 0x53, 0x4B, 0x45, 0x4B] dev 256

/-- The seal key, label PJ-SEAL. -/
def sealKey (root : Nat) (dev : List Octet) : List Octet := derivedKey root [0x50, 0x4A, 0x2D, 0x53, 0x45, 0x41, 0x4C] dev 256

/-- The image transport key, label PJ-ITK. -/
def transportKey (root : Nat) (dev : List Octet) : Nat := ecPrivate (derivedKey root [0x50, 0x4A, 0x2D, 0x49, 0x54, 0x4B] dev 448)

/-- The identity key, label PJ-IDK. -/
def identityKey (root : Nat) (dev : List Octet) : Nat := ecPrivate (derivedKey root [0x50, 0x4A, 0x2D, 0x49, 0x44, 0x4B] dev 448)

/-- The point of a private key's public half as the registers present it: x then y, each 48 octets (log entry 131). -/
def p384Point (d : Nat) : List Octet := (p384Public d).drop 1

/-- ECDH with the device's transport key, then the one-step KDF (R22, R314): the key for one message. -/
def messageKey (itk : Nat) (eph info : List Octet) : Option (List Octet) := (ecdh itk eph).map (fun z => kdfOneStep z info)

end Sys2Proof.Machine
end

