-- ==== Sys2Proof/Machine/Phy.lean ====
section
/-! DEFINITION. The native PHY bit by bit (chapter 06): chip sequences, header code, payload code, symbols, durations;
the checksum of IEEE 802.15.4 and CRC-32C. Pure functions. -/

namespace Sys2Proof.Machine

/-! ### Chip sequences (R121 to R123) -/

/-- The exponents T of R121 for L = 2^n. -/
def tapSet (n : Nat) : List Nat := [[1], [2], [1], [1], [2, 3, 4], [4]].getD (n - 4) []

/-- One more chip of the base sequence, kept newest first (R121). -/
def nextChip (n : Nat) (l : List Nat) : Nat :=
  (tapSet n).foldl (fun x j => x ^^^ l.getD (n - 1 - j) 0) (l.getD (n - 1) 0)

/-- `k` more chips, newest first. -/
def growChips (n : Nat) : Nat → List Nat → List Nat
  | 0, l => l
  | k + 1, l => growChips n k (nextChip n l :: l)

/-- The base sequence a_0 … a_{L−1} for L = 2^n (R121). -/
def baseSeq (n : Nat) : List Nat := (growChips n (2 ^ n - 1 - n) (List.replicate n 1)).reverse ++ [0]

/-- Sequence c_s for L = 2^n (R122). -/
def chipSeq (n v : Nat) : List Nat :=
  let a := baseSeq n
  let len := 2 ^ n
  (List.range len).map (fun i =>
    let c := a.getD ((i + len - (v % 8) * (len / 8)) % len) 0
    if v < 8 then c else c ^^^ (i % 2))

/-! ### PHY header (R124 to R128, R505) -/

/-- The interleave depth of a DEPTH code (R125). -/
def depthOf (dep : Nat) : Nat := 2 ^ dep

/-- The DEPTH code a transmitter uses for `len` octets where a link asks for `dep` (R125): D never exceeds LENGTH. DESIGN CHOICE: the
largest one that does not, up to the one asked for (log entry 140). -/
def fitDepth (len dep : Nat) : Nat := (((List.range (dep + 1)).filter (fun d => Nat.ble (depthOf d) len)).getLast?).getD 0

/-- The parity octets of a PARITY code (R125). -/
def parityOf (par : Nat) : Nat := [0, 4, 8, 16].getD par 0

/-- The 4-bit CRC over H[19:0] (R126), bit 0 first; fuel is the bits left. -/
def hchkGo (h : Nat) : Nat → Nat → Nat → Nat
  | 0, _, c => c
  | f + 1, i, c =>
    let fb := (c / 8 % 2) ^^^ (h / 2 ^ i % 2)
    let c1 := c * 2 % 16
    hchkGo h f (i + 1) (if fb = 1 then c1 ^^^ 3 else c1)

/-- HCHK (R126). -/
def hchk (h : Nat) : Nat := hchkGo h 20 0 15

/-- The header word H[19:0] of the fields (R124). -/
def hdrLow (x : Hdr) : Nat := x.len % 2048 + 2 ^ 11 * (x.par % 4) + 2 ^ 13 * (x.dep % 8) + 2 ^ 16 * (x.sw % 4)

/-- The header word H (R124). -/
def hdrWord (x : Hdr) : Nat := hdrLow x + 2 ^ 20 * hchk (hdrLow x)

/-- The fields of a header word (R124). -/
def hdrOf (h : Nat) : Hdr :=
  { len := h % 2048, par := h / 2 ^ 11 % 4, dep := h / 2 ^ 13 % 8, sw := h / 2 ^ 16 % 4 }

/-- Number of ones among the low `n` bits. -/
def popc : Nat → Nat → Nat
  | 0, _ => 0
  | n + 1, x => x % 2 + popc n (x / 2)

/-- Golay remainder (R127): bits 22 down to 11; fuel counts down. -/
def golayRem : Nat → Nat → Nat
  | 0, r => r
  | f + 1, r => golayRem f (if r / 2 ^ (11 + f) % 2 = 1 then r ^^^ (0xC75 * 2 ^ f) else r)

/-- The Golay codeword of 12 information bits (R127). -/
def golay24 (m : Nat) : Nat :=
  let c := (m * 2 ^ 11) ||| golayRem 12 (m * 2 ^ 11)
  c ||| (popc 24 c % 2 * 2 ^ 23)

/-- The bounded-distance decoder (R505): the information word whose codeword lies within three bits of `w`, and the
number of bits corrected. -/
def golayDecode (w : Nat) : Option (Nat × Nat) :=
  (List.range 4096).findSome? (fun m =>
    let d := popc 24 (golay24 m ^^^ w)
    if d ≤ 3 then some (m, d) else none)

/-- Outcomes of the header check (R128). -/
inductive HdrCheck where
  | ok (h : Hdr) (word corrected : Nat)
  | golayFail
  | hchkFail
  | inv
  deriving DecidableEq, Repr

/-- The receiver's check of the two header words at L_H = 2^(lh+4) (R128), in its order. -/
def hdrCheck (lh w0 w1 : Nat) : HdrCheck :=
  match golayDecode w0, golayDecode w1 with
  | some (m0, c0), some (m1, c1) =>
    let h := m0 + 2 ^ 12 * m1
    if hchk (h % 2 ^ 20) ≠ h / 2 ^ 20 then .hchkFail
    else
      let x := hdrOf h
      if 1 ≤ x.len ∧ x.dep ≤ 4 ∧ h / 2 ^ 18 % 4 = 0 ∧ x.sw ≤ lh ∧ depthOf x.dep ≤ x.len then .ok x h (c0 + c1)
      else .inv
  | _, _ => .golayFail

/-! ### Payload code (R130 to R134) -/

/-- Multiplication in GF(2^8) with 0x11D; fuel is the bits of the second factor. -/
def gfMulGo : Nat → Nat → Nat → Nat → Nat
  | 0, _, _, acc => acc
  | f + 1, a, b, acc =>
    gfMulGo f (if a / 128 % 2 = 1 then (a * 2) ^^^ 0x11D else a * 2) (b / 2) (if b % 2 = 1 then acc ^^^ a else acc)

/-- The product in GF(2^8) (R130). -/
def gfMul (a b : Nat) : Nat := gfMulGo 8 a b 0

/-- The power of a field element. -/
def gfPow (a : Nat) : Nat → Nat
  | 0 => 1
  | n + 1 => gfMul a (gfPow a n)

/-- The inverse of a field element: its 254th power. -/
def gfInv (a : Nat) : Nat :=
  let a2 := gfMul a a
  let a4 := gfMul a2 a2
  let a8 := gfMul a4 a4
  let a16 := gfMul a8 a8
  let a32 := gfMul a16 a16
  let a64 := gfMul a32 a32
  let a128 := gfMul a64 a64
  gfMul a128 (gfMul a64 (gfMul a32 (gfMul a16 (gfMul a8 (gfMul a4 a2)))))

/-- α^i. -/
def gfAlpha (i : Nat) : Nat := gfPow 2 i

/-- Product of a polynomial (highest degree first) with x + r. -/
def polyMulRoot (p : List Nat) (r : Nat) : List Nat :=
  List.zipWith (fun a b => a ^^^ b) (p ++ [0]) (0 :: p.map (fun a => gfMul a r))

/-- The generator polynomial for P parity octets, highest degree first, leading 1 included (R130). -/
def rsGen : Nat → List Nat
  | 0 => [1]
  | p + 1 => polyMulRoot (rsGen p) (gfAlpha p)

/-- One step of the parity register (R130). -/
def rsStep (g : List Nat) (par : List Nat) (m : Nat) : List Nat :=
  let fb := m ^^^ par.getD 0 0
  List.zipWith (fun a b => a ^^^ gfMul fb b) (par.drop 1 ++ [0]) g

/-- The parity octets of one codeword (R130). -/
def rsParity (p : Nat) (msg : List Nat) : List Nat :=
  let g := (rsGen p).drop 1
  msg.foldl (rsStep g) (List.replicate p 0)

/-- Evaluate a polynomial given highest degree first. -/
def polyEval (p : List Nat) (x : Nat) : Nat := p.foldl (fun acc c => gfMul acc x ^^^ c) 0

/-- The syndromes of a received word. -/
def syndromes (p : Nat) (r : List Nat) : List Nat := (List.range p).map (fun i => polyEval r (gfAlpha i))

/-- One Berlekamp–Massey step on (Λ, B, L, m, b), polynomials lowest degree first. -/
def bmStep (syn : List Nat) (st : List Nat × List Nat × Nat × Nat × Nat) (n : Nat) :
    List Nat × List Nat × Nat × Nat × Nat :=
  let (lam, bpoly, l, m, b) := st
  let d := (List.range (l + 1)).foldl (fun acc i => acc ^^^ gfMul (lam.getD i 0) (syn.getD (n - i) 0)) 0
  if d = 0 then (lam, bpoly, l, m + 1, b)
  else
    let c := gfMul d (gfInv b)
    let sh := List.replicate m 0 ++ bpoly.map (fun x => gfMul c x)
    let len := max lam.length sh.length
    let lam' := (List.range len).map (fun i => lam.getD i 0 ^^^ sh.getD i 0)
    if 2 * l ≤ n then (lam', lam, n + 1 - l, 1, d) else (lam', bpoly, l, m + 1, b)

/-- Correct up to P/2 octet errors of a received codeword (R134): the corrected word and the number of octets
corrected, or nothing where no codeword lies that near. -/
def rsDecode (p : Nat) (r : List Nat) : Option (List Nat × Nat) :=
  let syn := syndromes p r
  if syn.all (fun x => x == 0) then some (r, 0)
  else
    let (lam, _, l, _, _) := (List.range p).foldl (bmStep syn) ([1], [1], 0, 1, 1)
    let n := r.length
    let roots := (List.range n).filter (fun j => polyEval lam.reverse (gfInv (gfAlpha j)) == 0)
    if p / 2 < l ∨ roots.length ≠ l then none
    else
      let omega := (List.range p).map (fun i =>
        (List.range (i + 1)).foldl (fun acc j => acc ^^^ gfMul (lam.getD j 0) (syn.getD (i - j) 0)) 0)
      let fixed := roots.foldl (fun w j =>
        let xi := gfInv (gfAlpha j)
        let den := (List.range lam.length).foldl (fun acc i =>
          if i % 2 = 1 then acc ^^^ gfMul (lam.getD i 0) (gfPow xi (i - 1)) else acc) 0
        let e := gfMul (gfAlpha j) (gfMul (polyEval omega.reverse xi) (gfInv den))
        listSet w (n - 1 - j) (w.getD (n - 1 - j) 0 ^^^ e)) r
      if (syndromes p fixed).all (fun x => x == 0) then some (fixed, l) else none

/-- The number of codewords K (R131). -/
def codewords (x : Hdr) : Nat :=
  let d := depthOf x.dep
  let cap := d * (255 - parityOf x.par)
  d * ((x.len + cap - 1) / cap)

/-- The information octets of codeword `i` (R131). -/
def infoLen (x : Hdr) (i : Nat) : Nat :=
  let k := codewords x
  x.len / k + (if i < x.len % k then 1 else 0)

/-- The payload cut into the information parts of the codewords (R131). -/
def splitInfo (x : Hdr) : Nat → Nat → List Nat → List (List Nat)
  | 0, _, _ => []
  | f + 1, i, l => l.take (infoLen x i) :: splitInfo x f (i + 1) (l.drop (infoLen x i))

/-- The places (codeword, column) of the coded octets in the order sent (R132). -/
def sendOrder (x : Hdr) : List (Nat × Nat) :=
  let d := depthOf x.dep
  let n := fun i => infoLen x i + parityOf x.par
  (List.range (codewords x / d)).flatMap (fun b =>
    (List.range (n (b * d))).flatMap (fun col =>
      ((List.range d).filter (fun row => Nat.blt col (n (b * d + row)))).map (fun row => (b * d + row, col))))

/-- The coded octets of a payload in the order sent (R130 to R132). -/
def encodePayload (x : Hdr) (payload : List Octet) : List Octet :=
  let cws := (splitInfo x (codewords x) 0 (payload.map (fun b => b.toNat))).map
    (fun m => m ++ rsParity (parityOf x.par) m)
  (sendOrder x).map (fun e => BitVec.ofNat 8 ((cws.getD e.1 []).getD e.2 0))

/-- The received octets of codeword `i`, from coded octets in the order sent. -/
def gather (x : Hdr) (coded : List Octet) (i : Nat) : List Nat :=
  (((sendOrder x).zip coded).filter (fun e => e.1.1 == i)).map (fun e => e.2.toNat)

/-- What a payload decode gives (R134): the payload where every codeword decodes, the octets corrected, the codewords
that decoded and those that failed. -/
structure PayloadOut where
  payload : Option (List Octet)
  corr : Nat
  good : Nat
  bad : Nat
  deriving DecidableEq, Repr

/-- Decode the coded octets of a frame (R134). -/
def decodePayload (x : Hdr) (coded : List Octet) : PayloadOut :=
  let p := parityOf x.par
  let outs := (List.range (codewords x)).map (fun i => (i, rsDecode p (gather x coded i)))
  let good := outs.filterMap (fun o => o.2.map (fun r => (o.1, r)))
  let corr := good.foldl (fun a o => a + o.2.2) 0
  if good.length = outs.length then
    { payload := some ((good.flatMap (fun o => o.2.1.take (infoLen x o.1))).map (BitVec.ofNat 8)),
      corr := corr, good := if p = 0 then 0 else good.length, bad := 0 }
  else { payload := none, corr := corr, good := good.length, bad := outs.length - good.length }

/-! ### Symbols and durations (R117, R133) -/

/-- The symbols of a Golay codeword (R127): 4 bits each, lowest first. -/
def wordSymbols (c : Nat) : List Nat := (List.range 6).map (fun j => c / 16 ^ j % 16)

/-- The octets of symbols, low half first (R133). -/
def symbolOctets : List Nat → List Octet
  | a :: b :: t => BitVec.ofNat 8 (a % 16 + 16 * (b % 16)) :: symbolOctets t
  | _ => []

/-- The symbols of a native frame as (value, log2 of L) (R117, R123, R127, R133). -/
def frameSymbols (lh : Nat) (x : Hdr) (payload : List Octet) : List (Nat × Nat) :=
  let n := lh + 4
  let h := hdrWord x
  let head := List.replicate 8 0 ++ [0xB, 0x6] ++ wordSymbols (golay24 (h % 4096)) ++ wordSymbols (golay24 (h / 4096))
  head.map (fun v => (v, n)) ++ (encodePayload x payload).flatMap (fun b =>
    [(b.toNat % 16, n - x.sw), (b.toNat / 16, n - x.sw)])

/-- The chips of a native frame in the order sent (R117, R123). -/
def frameChips (lh : Nat) (x : Hdr) (payload : List Octet) : List Nat :=
  (frameSymbols lh x payload).flatMap (fun e => chipSeq e.2 e.1)

/-- Chips as the signs of the pulses on I (even chip index) and Q (odd): 1 is sent as +1 and 0 as −1 (R118), for native and I3 frames alike. The pulse of chip j is the
half sine that starts at j × Tc and lasts 2 Tc. -/
def rails : List Nat → List Int × List Int
  | [] => ([], [])
  | [i] => ([2 * (i : Int) - 1], [])
  | i :: q :: t => ((2 * (i : Int) - 1) :: (rails t).1, (2 * (q : Int) - 1) :: (rails t).2)

/-- The 32 chips of symbol 0 of IEEE 802.15.4-2020 at 2450 MHz, first chip first (PRESUMED from that standard, log entry 151). -/
def i3Base : List Nat :=
  [1, 1, 0, 1, 1, 0, 0, 1, 1, 1, 0, 0, 0, 0, 1, 1, 0, 1, 0, 1, 0, 0, 1, 0, 0, 0, 1, 0, 1, 1, 1, 0]

/-- The chips of symbol `v` of 802.15.4: symbols 1 to 7 turn those of symbol 0 by 4 chips each, 8 to 15 invert the odd-indexed chips. -/
def i3Symbol (v : Nat) : List Nat :=
  (List.range 32).map (fun i =>
    let c := i3Base.getD ((i + 32 - 4 * (v % 8)) % 32) 0
    if v % 16 < 8 then c else c ^^^ (i % 2))

/-- The chips of an I3 frame: 4 octets of preamble, the SFD 0xA7, the length, and the PSDU, each octet low symbol first. -/
def i3Chips (psdu : List Octet) : List Nat :=
  (List.replicate 4 0 ++ 0xA7 :: BitVec.ofNat 8 psdu.length :: psdu).flatMap (fun (b : Octet) =>
    i3Symbol (b.toNat % 16) ++ i3Symbol (b.toNat / 16))

/-- The chips of a native frame (R117). -/
def frameChipCount (lh : Nat) (x : Hdr) : Nat :=
  22 * 2 ^ (lh + 4) + 2 * (x.len + codewords x * parityOf x.par) * 2 ^ (lh + 4 - x.sw)

/-- The duration of a frame in ns at `rc` kchip/s (R117). -/
def frameNs (lh : Nat) (x : Hdr) (rc : Nat) : Nat := frameChipCount lh x * 1000000 / rc

/-! ### Checksums -/

/-- One bit of a reflected CRC of width at most 32 with reflected polynomial `poly`. -/
def crcBits (poly : Nat) : Nat → Nat → Nat
  | 0, c => c
  | f + 1, c => crcBits poly f (if c % 2 = 1 then (c / 2) ^^^ poly else c / 2)

/-- A reflected CRC over octets. -/
def crcOctets (poly : Nat) (init : Nat) (l : List Octet) : Nat :=
  l.foldl (fun c b => crcBits poly 8 (c ^^^ b.toNat)) init

/-- CRC-32C (R24). -/
def crc32c (l : List Octet) : Nat := crcOctets 0x82F63B78 0xFFFFFFFF l ^^^ 0xFFFFFFFF

/-- The FCS of IEEE 802.15.4: CRC-16 with x^16 + x^12 + x^5 + 1, initial value 0, least significant bit first. -/
def fcs16 (l : List Octet) : Nat := crcOctets 0x8408 0 l

end Sys2Proof.Machine
end

