-- ==== Sys2Proof/Machine/Grid.lean ====
section
/-! DEFINITION. GTB (chapter 04): grid time, time states, steps, holdover, UTC mapping, compares, pulses, stamps. -/

namespace Sys2Proof.Machine

/-! ### Grid time arithmetic (R71, R73, R81) -/

/-- The grid time `d` slots after the slot boundary at or before `gt` (R81). -/
def jumpSlots (spc gt : Nat) (d : Int) : Nat :=
  let a := (gcn gt * spc + slotIdx spc gt : Int) + d
  let within := gfr gt - slotStart spc (slotIdx spc gt)
  let a' := (a % (2 ^ 40 * spc : Int)).toNat
  (a' / spc * cycleUnits + slotStart spc (a' % spc) + within) % 2 ^ 64

/-- The L1 phase of a measured phase (R73): line term, vector-group term and learned residual. The spec gives VG up to 11 and no behaviour
beyond; 12 to 15 act by the same product (DESIGN CHOICE, log entry 134). -/
def State.l1Phase (s : State) (phase : Nat) : Nat :=
  let line := if s.fld F.GTB_CFG_LINE = 2 then 5592405 else if s.fld F.GTB_CFG_LINE = 3 then 11184811 else 0
  (((phase + line + s.fld F.GTB_CFG_VG * 1398101 : Nat) : Int)
    + signed 24 (s.actFld F.GTB_PHRES_RES)) % (cycleUnits : Int) |>.toNat

/-- An error taken modulo one cycle into (−2^23, +2^23] (R78). -/
def wrapCycle (z : Int) : Int :=
  let r := z % (cycleUnits : Int)
  if r ≤ 8388608 then r else r - cycleUnits

/-- Is |e| at most 50 ns at mains frequency `f` mHz? -/
def within50ns (e : Int) (f : Nat) : Bool := decide (e.natAbs * 10 ^ 12 ≤ 50 * 2 ^ 24 * f)

/-- The nominal mains frequency in mHz. -/
def State.nomFreq (s : State) : Nat := if s.on F.GTB_CFG_NOMF then 60000 else 50000

/-- The frequency that converts an error to time: the measured one, or the nominal one before any is measured. -/
def State.mainsFreq (s : State) : Nat := if s.gtb.freq = 0 then s.nomFreq else s.gtb.freq

/-- µs as grid time units at mains frequency `f` mHz. -/
def usToGt (us f : Nat) : Nat := us * f * 2 ^ 24 / 10 ^ 9

/-- What GTB writes for an insertion (R88): FMT 0 is GT[63:0], FMT 1 is GT[47:0], least significant octet first. -/
def insertGt (fmt gt : Nat) : List Octet := if fmt = 0 then leOctets 8 gt else leOctets 6 (gt % 2 ^ 48)

/-- ns as grid time units at mains frequency `f` mHz. -/
def nsToGt (ns f : Nat) : Nat := ns * f * 2 ^ 24 / 10 ^ 12

/-- The slew limit in ppm as it acts (GTB_SLEW): values outside 1 to 50 act as 50. -/
def State.slewPpm (s : State) : Nat :=
  let p := s.fld F.GTB_SLEW_PPM
  if 1 ≤ p ∧ p ≤ 50 then p else 50

/-- Length of MSQ's longest active slotframe, in slots (R81). -/
def State.longestSf (s : State) : Nat := s.msq.sfs.foldl max 0

/-- PTP time in ns (R478): the value at its last change and what ran since, at the adjusted rate. -/
def State.ptpNow (s : State) : Nat :=
  let d : Int := ((s.gtb.ft : Int) - (s.hif.ptpFt : Int)) * 1000
  (((s.hif.ptp : Int) + d + d * signed 32 (s.reg Reg.HIF_PTPADJ).toNat / (65536 * 10 ^ 9)) % (2 ^ 48 * 10 ^ 9 : Int)).toNat

/-! ### Operations on GTB -/

/-- The moment of the event: GT and free time as the environment brings them. -/
def State.at (s : State) (t : Time) : State :=
  { s with gtb := { s.gtb with gt := t.gt % 2 ^ 64, ft := t.ft } }

/-- GTB's state code (R76). -/
def State.gtbState (s : State) : Nat := s.fld F.GTB_STATUS_STATE

/-- GT is valid (R76). -/
def State.gtValid (s : State) : Bool := s.on F.GTB_STATUS_VALID

/-- GT for a record that reads zero while GT is not valid. -/
def State.gtIfValid (s : State) : Nat := if s.gtValid then s.gtb.gt else 0

/-- A unit reports a class of fault now, with its GT (R426, R431). -/
def State.reportNow (s : State) (cls unit detail src : Nat) : State :=
  s.report (s.mkNotice cls unit detail src 0 s.gtIfValid)

/-- A peer of lower rank has been heard within 60 s (R78). -/
def State.peerHeard (s : State) : Bool :=
  match s.gtb.peerAt with
  | some at' => decide (s.gtb.ft - at' ≤ 60000000)
  | none => false

/-- A time authority is available (R78): the anchor over CSC, or a peer of lower rank. -/
def State.authority (s : State) : Bool := s.gtb.anchorValid || s.peerHeard

/-- The whole cycles of the reference (R78), in the order of the authorities; `anchor` and `peer` are those of each one's GT. -/
def State.refCycles (s : State) (anchor peer : Nat) : Option Nat :=
  if s.gtb.anchorValid then some anchor else if s.peerHeard then some peer else none

/-- A phase error as GTB_PHERR shows it: saturated at ±(2^31 − 1). -/
def clampErr (e : Int) : Int := if e > 2147483647 then 2147483647 else if e < -2147483647 then -2147483647 else e

/-- Set GTB_PHERR from the phase error, saturated. -/
def State.setErr (s : State) (e : Int) : State :=
  ({ s with gtb := { s.gtb with e := e } }).setFld F.GTB_PHERR_E (unsigned 32 (clampErr e))

/-- Enter a time state of R76; every state but FREE makes GT valid. -/
def State.enterGtb (s : State) (code : Nat) : State :=
  (s.setFld F.GTB_STATUS_STATE code).setFlag F.GTB_STATUS_VALID (code != 0)

/-- Save the holdover record (R83). -/
def State.saveHold (s : State) (refcnt freq : Nat) : State :=
  let r : HoldRec :=
    { gt := s.gtb.gt, refcnt := refcnt, freq := freq, line := s.fld F.GTB_CFG_LINE, vg := s.fld F.GTB_CFG_VG,
      res := s.actFld F.GTB_PHRES_RES, state := s.gtbState }
  ({ s with gtb := { s.gtb with holdRec := some r } }).setFlag F.GTB_HOLDREC_RECVALID true

/-- The holdover record is valid no more (R83): AON_CLK has stopped. -/
def State.dropHold (s : State) : State := ({ s with gtb := { s.gtb with holdRec := none } }).setFlag F.GTB_HOLDREC_RECVALID false

/-- Enter HOLD (R79): the frequency is frozen, the record saved, the entry counted, source 33. -/
def State.enterHold (s : State) (refcnt : Nat) : State :=
  ((((s.enterGtb 2).saveHold refcnt s.gtb.freq).setFld F.GTB_HOLDREC_HOLDS 0).bump Ctr.GTB_HOLDCNT).fire 33

/-- A slew toward error `e` runs from now on (R80). -/
def State.slewTo (s : State) (e : Int) : State :=
  let u := s.setErr e
  { u with gtb := { u.gtb with slewFt := s.gtb.ft } }

/-- Enter SLEW toward error `e` (R80), source 34. -/
def State.enterSlew (s : State) (e : Int) : State := ((s.enterGtb 3).slewTo e).fire 34

/-- What is left of the error of a slew (R80): GT has moved toward the reference by at most PPM since it began. -/
def State.slewLeft (s : State) : Int :=
  let moved := usToGt (s.gtb.ft - s.gtb.slewFt) s.mainsFreq * s.slewPpm / 10 ^ 6
  let m : Nat := s.gtb.e.natAbs - moved
  if s.gtb.e < 0 then -(m : Int) else m

/-- A span at the rate at which GT advances now, slew included (R88). -/
def State.rateNsToGt (s : State) (ns : Nat) : Nat :=
  let d := nsToGt ns s.mainsFreq
  if s.gtbState = 3 then
    let x := d * s.slewPpm / 10 ^ 6
    if s.gtb.e < 0 then d - x else d + x
  else d

/-- Enter LOCK, source 32. -/
def State.enterLock (s : State) : State := ((s.enterGtb 1).setErr 0).fire 32

/-- LOCK where |e| is at most 50 ns, SLEW otherwise. -/
def State.slewOrLock (s : State) (e : Int) : State :=
  if within50ns e s.mainsFreq then s.enterLock else s.enterSlew e

/-- `e` rounded to whole slots (R81), half a slot away from zero. -/
def roundSlots (spc : Nat) (e : Int) : Int :=
  let m := (2 * e.natAbs * spc + cycleUnits) / (2 * cycleUnits)
  if e < 0 then -(m : Int) else m

/-- STEP_SCHEDULE (R81): ΔS whole slots, at the boundary 16 of MSQ's longest active slotframes after the next one, G. -/
def State.stepSchedule (s : State) (e : Int) : State :=
  let g := (gsnOf s.spc s.gtb.gt + 1) % 2 ^ 32
  let s1 := (s.enterGtb 4).setErr e
  let s2 := { s1 with gtb := { s1.gtb with stepG := g } }
  let s3 := s2.setFld F.GTB_STEP_SLOTS (unsigned 32 (roundSlots s.spc e))
  (s3.setFld F.GTB_STEPGSN_GSN ((g + 16 * s.longestSf) % 2 ^ 32)).fire 35

/-- A step is announced (R81): from boundary G until it is applied or cancelled. -/
def State.stepAnnounced (s : State) : Bool := s.gtbState == 4 && decide (0 ≤ gsnDiff s.gsn s.gtb.stepG)

/-- A GT to come, as it will read when it comes (R82): the new GT where it lies at or after the boundary of a pending step. -/
def State.acrossStep (s : State) (g : Nat) : Nat :=
  if s.gtbState = 4 ∧ 0 ≤ gsnDiff (gsnOf s.spc g) (s.fld F.GTB_STEPGSN_GSN) then jumpSlots s.spc g (signed 32 (s.fld F.GTB_STEP_SLOTS))
  else g

/-- Clear a pending step. -/
def State.clearStep (s : State) : State := (s.setFld F.GTB_STEP_SLOTS 0).setFld F.GTB_STEPGSN_GSN 0

/-- Input lost (R79): LOCK, SLEW and STEPWAIT go to FOLLOW for a member whose anchor is VALID, otherwise to HOLD. -/
def State.loseInput (s : State) (refcnt : Nat) : State :=
  let st := s.gtbState
  let s0 := { s with gtb := { s.gtb with qualified := false } }
  if st = 1 then
    if s.gtb.anchorValid then s0.enterGtb 5 else s0.enterHold refcnt
  else if st = 3 ∨ st = 4 then
    let s1 := if st = 4 then s0.clearStep else s0
    if s.gtb.anchorValid then (s1.enterGtb 5).fire 33 else s1.enterHold refcnt
  else s0

/-- The time authority changed (R79): a member adopts the GT of its VALID anchor from FREE, follows it from HOLD with SRC = 3, and in
FOLLOW steers to the offset `off` (R378), which GT has taken up when the environment next brings it; it leaves FOLLOW for HOLD when the
anchor is no longer VALID. `gt` is the anchor's grid time. -/
def State.setAnchor (s : State) (valid : Bool) (gt : Nat) (off : Int) (refcnt : Nat) : State :=
  let s0 := ({ s with gtb := { s.gtb with anchorValid := valid, steer := if valid then off else 0 } })
  let s1 := s0.setFlag F.GTB_STATUS_AUTH s0.authority
  if valid then
    if s.gtbState = 0 then ({ s1 with gtb := { s1.gtb with gt := gt } }).enterGtb 5
    else if s.gtbState = 2 ∧ s.fld F.GTB_CFG_SRC = 3 then s1.enterGtb 5
    else s1
  else if s.gtbState = 5 then s1.enterHold refcnt
  else s1

/-- The median of a list of differences: the lower of the two middle ones for an even number. -/
def median (l : List Int) : Int := (sortBy (fun a b => decide (a ≤ b)) l).getD ((l.length - 1) / 2) 0

/-- RESIDUAL_LEARN (R75): a beacon's received SFD time and inserted time from a peer of rank `rank`. The difference is
taken as inserted minus received (log entry 11). -/
def State.learnResidual (s : State) (sfd inserted rank : Nat) : State :=
  if !s.on F.GTB_PHRES_LEARN then s
  else if s.fld F.GTB_CFG_RANK ≤ rank then s.bump Ctr.GTB_RESREJ
  else
    let l := (s.gtb.resids ++ [gtDiff inserted sfd])
    let l' := l.drop (l.length - 64)
    let s1 := { s with gtb := { s.gtb with resids := l' } }
    let m := median l'
    let res := signed 24 (s.actFld F.GTB_PHRES_RES)
    if l'.length < 64 then s1
    else if 699051 < m.natAbs then s1.bump Ctr.GTB_RESREJ
    else if (m - res).natAbs * 10 ^ 12 ≤ 100 * 2 ^ 24 * s.mainsFreq then s1
    else (s1.setFld F.GTB_PHRES_RES (unsigned 24 m)).stage 2 0

/-- One UTC capture (R85, R86). -/
def State.utcCapture (s : State) (sec : Nat) : State :=
  let prev := (s.reg Reg.GTB_UTCGT_LO).toNat + 2 ^ 32 * (s.reg Reg.GTB_UTCGT_HI).toNat
  let run := s.gtb.utcRun + 1
  let gt := s.gtb.gt
  let s1 := (s.setReg Reg.GTB_UTCGT_LO (BitVec.ofNat 32 gt)).setReg Reg.GTB_UTCGT_HI (BitVec.ofNat 32 (gt / 2 ^ 32))
  let s2 := (s1.setFld F.GTB_UTCSEC_LO_SEC_LO sec).setFld F.GTB_UTCSEC_HI_SEC_HI (sec / 2 ^ 32)
  let s3 := if 2 ≤ run then (s2.setFld F.GTB_UTCRATE_RATE (gtDiff gt prev).toNat).setFlag F.GTB_UTCSTAT_VALID true
    else s2
  let s4 := s3.setFlag F.GTB_UTCSTAT_STALE false
  let s5 := s4.setFld F.GTB_UTCSTAT_SEQ (s4.fld F.GTB_UTCSTAT_SEQ + 1)
  ({ s5 with gtb := { s5.gtb with utcRun := run } }).fire 42

/-- The UTC mapping starts afresh: VALID returns after two captures (R86, R415, R478). -/
def State.utcInvalidate (s : State) : State :=
  ({ s with gtb := { s.gtb with utcRun := 0 } }).setFlag F.GTB_UTCSTAT_VALID false

/-- GT to nanoseconds of the PTP timescale (R86). -/
def gtToPtpNs (g gtB sB rate : Nat) : Nat :=
  let d := gtDiff g gtB
  let q := d / (rate : Int)
  let r := d % (rate : Int)
  ((((sB : Int) + q) % (2 ^ 64 : Int)).toNat * 1000000000 + r.toNat * 1000000000 / rate) % 2 ^ 64

/-- Nanoseconds of the PTP timescale to GT (R86). -/
def ptpNsToGt (t gtB sB rate : Nat) : Nat :=
  let d := gtDiff t (sB * 1000000000 % 2 ^ 64)
  let q := d / 1000000000
  let r := d % 1000000000
  ((((gtB : Int) + q * rate) % (2 ^ 64 : Int)).toNat + r.toNat * rate / 1000000000) % 2 ^ 64

/-- Has compare `n` reached its target (R90)? -/
def State.cmpReached (s : State) (n : Nat) : Bool :=
  let tgt := s.gtb.cmpT.getD n 0
  if s.on (F.GTB_CMPn_MODE n) then decide (0 ≤ gsnDiff (gsnOf s.spc s.gtb.gt) (tgt % 2 ^ 32))
  else decide (0 ≤ gtDiff s.gtb.gt tgt)

/-- Compare `n` fires (R90). -/
def State.cmpFire (s : State) (n : Nat) : State :=
  ((s.setFlag (F.GTB_CMPn_FIRED n) true).setFlag (F.GTB_CMPn_ARM n) false).fire 44

/-- Latch the target of compare `n` and arm it; a target already reached fires at once with LATE (R90, R91). -/
def State.cmpArm (s : State) (n : Nat) : State :=
  let tgt := (s.reg (Reg.GTB_CMPnT_LO n)).toNat + 2 ^ 32 * (s.reg (Reg.GTB_CMPnT_HI n)).toNat
  let s1 := { s with gtb := { s.gtb with cmpT := listSet s.gtb.cmpT n tgt } }
  let s2 := ((s1.setFlag (F.GTB_CMPn_ARM n) true).setFlag (F.GTB_CMPn_LATE n) false).setFlag (F.GTB_CMPn_STEPPED n) false
  if s2.cmpReached n then (s2.setFlag (F.GTB_CMPn_LATE n) true).cmpFire n else s2

/-- Does a write of `v` through `view` write ARM as 1 (some true), as 0 (some false), or not at all (R90)? -/
def writesArm (view : Nat) (v : Word) (armed : Bool) : Option Bool :=
  if view = 0 then some (v.getLsbD 0)
  else if !v.getLsbD 0 then none
  else if view = 1 then some true
  else if view = 2 then some false
  else some (!armed)

/-- A write of GTB_CMPn through any view (R90): the other RW fields as any write, ARM as R90 says. A write of ARM as 0
leaves FIRED unchanged. -/
def State.cmpWrite (s : State) (rq : Req) (n view : Nat) (v : Word) : State :=
  let a := Reg.GTB_CMPn n
  match s.barred rq a (some v) with
  | some c => (s.recordFault rq c true (a + 0x10000 * view) 15).respond [] false
  | none =>
    let armed := s.on (F.GTB_CMPn_ARM n)
    let w := writesArm view v armed
    let fired := s.on (F.GTB_CMPn_FIRED n)
    let s1 := (s.viewWrite rq a view v).respond [] true
    match w with
    | some true => s1.cmpArm n
    | some false => (s1.setFlag (F.GTB_CMPn_ARM n) false).setFlag (F.GTB_CMPn_FIRED n) fired
    | none => s1.setFlag (F.GTB_CMPn_ARM n) armed

/-- The first edge of a series from `start` with period `per` at or after `now` (R92, R93). -/
def firstEdge (start per now : Nat) : Option Nat :=
  let d := gtDiff now start
  if d ≤ 0 then some start
  else if per = 0 then none
  else some ((start + (d.toNat + per - 1) / per * per) % 2 ^ 64)

/-- Change pulse generator `n`. -/
def State.setPulse (s : State) (n : Nat) (p : Pulse) : State :=
  { s with gtb := { s.gtb with pulses := listSet s.gtb.pulses n p } }

/-- Latch the start value of generator `n` and arm it (R93). -/
def State.pulseArm (s : State) (n : Nat) : State :=
  let st := (s.reg (Reg.GTB_PLSnST_LO n)).toNat + 2 ^ 32 * (s.reg (Reg.GTB_PLSnST_HI n)).toNat
  let per := s.fld (F.GTB_PLSnPER_PER n)
  let p := s.gtb.pulses.getD n {}
  (s.setPulse n { p with start := st, per := per, next := firstEdge st per s.gtb.gt }).setFlag (F.GTB_PLSn_ARM n) true

/-- After a step from `oldGt`, generator `n` goes on with the first edge of its series at or after the new GT; the edges that a forward
step omits, the one of a single pulse too, count in SKIP; a pulse in progress keeps its width (R93). -/
def State.pulseStep (s : State) (oldGt : Nat) (n : Nat) : State :=
  let p := s.gtb.pulses.getD n {}
  let jump := gtDiff s.gtb.gt oldGt
  let p1 := { p with fin := ((p.fin + jump) % (2 ^ 64 : Int)).toNat }
  if !s.on (F.GTB_PLSn_ARM n) then s.setPulse n p1
  else
    let nx' := firstEdge p.start p.per s.gtb.gt
    let skipped := match p.next, nx' with
      | some nx, some m => if 0 < jump ∧ p.per ≠ 0 then (gtDiff m nx).toNat / p.per else 0
      | some _, none => 1
      | none, _ => 0
    (s.setPulse n { p1 with next := nx' }).setFld (F.GTB_PLSn_SKIP n) (s.fld (F.GTB_PLSn_SKIP n) + skipped)

/-- LEGSTAMP_PUSH (R94). -/
def State.legPush (s : State) (port ft : Nat) : State :=
  if 4 ≤ s.gtb.stamps.length then ({ s with gtb := { s.gtb with stampOvf := true } }).fire 45
  else ({ s with gtb := { s.gtb with stamps := s.gtb.stamps ++ [(port, ft % 2 ^ 28)] } }).fireIf s.gtb.stamps.isEmpty 46

/-- The word that GTB_LEGSTAMP presents (R94). -/
def State.legWord (s : State) : Word :=
  match s.gtb.stamps with
  | [] => 0
  | (p, f) :: _ => BitVec.ofNat 32 (1 + 2 * b2n s.gtb.stampOvf + 4 * (p % 4) + 16 * f)

/-! ### The commands -/

/-- Frequency or rate of change of frequency out of range (R67). -/
def State.badFreq (s : State) (m : Sense) : Bool :=
  decide (s.nomFreq < ((m.freq : Int) - s.nomFreq).natAbs * 20) || Nat.blt 2000 m.rocof

/-- The input is lost where what the estimator measures holds for 20 ms (R67, last row); the THD limit does not apply to the digital
source. -/
def State.badSense (s : State) (m : Sense) : Bool :=
  Nat.blt 1000 m.jump || ((s.fld F.GTB_CFG_SRC != 1 && Nat.blt 200 m.thd) || (s.badFreq m || Nat.blt m.ampPct 30))

/-- GTB_QUAL shows what the estimator measures; THD above 8 % of the analog input sets DIST, source 37 as it begins (R67). -/
def State.setQual (s : State) (freq thd amp : Nat) : State :=
  let s1 := (s.setFld F.GTB_QUAL_FREQ freq).setFld F.GTB_QUAL_AMP amp
  if s.fld F.GTB_CFG_SRC = 1 then s1
  else ((s1.setFld F.GTB_QUAL_THD thd).setFlag F.GTB_QUAL_DIST (Nat.blt 80 thd)).fireIf (Nat.blt 80 thd && !s.on F.GTB_QUAL_DIST) 37

/-- A mains cycle ends (R68): another good cycle, or counting starts again. -/
def State.countCycle (s : State) (m : Sense) : State :=
  let s1 := { s with gtb := { s.gtb with good := if s.badSense m || m.long then 0 else s.gtb.good + 1 } }
  s1.setFlag F.GTB_STATUS_QUALIFYING (!s.gtb.qualified)

/-- MAINS_ZC_EDGE (R65, R66, R68): on the digital input an edge within 25 % of a nominal cycle after the last accepted one is a glitch. The
crossing is kept with the sense delay taken off, and `m`, what the estimator measures of the cycle that ends, is shown and counted.
With the analog source the row is its crossing (log entry 135). -/
def execMainsZcEdge (t : Time) (m : Sense) (s : State) : Host.Outcome State Fault Refusal :=
  let s1 := s.at t
  let src := s.fld F.GTB_CFG_SRC
  let glitch := src != 0 && (s.gtb.lastZc.isSome && decide (m.since * 4 * s.nomFreq < 10 ^ 12))
  .next (s.whenLive 1 (if src ≠ 3 ∧ glitch = false then
    let s2 := { s1 with gtb := { s1.gtb with lastZc := some (gtSub t.gt (nsToGt (s.fld F.GTB_SENSEDLY_NS) s.nomFreq)) } }
    let s3 := { s2 with gtb := { s2.gtb with qsum := s2.gtb.qsum + m.freq, qn := s2.gtb.qn + 1 } }
    (s3.setQual m.freq m.thd m.amp).countCycle m
  else s1))

/-- SENSE_DISAGREE (R65): source 39 with SRC = 2; GTB keeps using the analog input. -/
def execSenseDisagree (s : State) : Host.Outcome State Fault Refusal :=
  .next (s.whenLive 1 (s.fireIf (s.fld F.GTB_CFG_SRC == 2) 39))

/-- INPUT_QUALIFIED (R66, R68, R69, R78, R79): after 50 good cycles. `phase` is the measured phase of the sensed line, from which the
sense delay is taken off, `anchor` and `peer` the whole cycles of the authorities' GT, `freq`, `thd` and `amp` the quality. -/
def execInputQualified (t : Time) (phase anchor peer freq thd amp : Nat) (s : State) : Host.Outcome State Fault Refusal :=
  let st := s.gtbState
  if s.live 1 = false ∨ s.fld F.GTB_CFG_SRC = 3 ∨ s.gtb.good < 50 ∨ !(st = 0 ∨ st = 2 ∨ st = 5) then .next (s.at t)
  else
    let s0 := s.at t
    let s1 := { s0 with gtb := { s0.gtb with freq := freq, qualified := true } }
    let s2 := (s1.setQual freq thd amp).setFlag F.GTB_STATUS_QUALIFYING false
    let ph := s.l1Phase (phase + nsToGt (s.fld F.GTB_SENSEDLY_NS) freq)
    let cycles := s0.refCycles anchor peer
    if st = 0 then
      .next (({ s2 with gtb := { s2.gtb with gt := (cycles.getD (gcn t.gt) * cycleUnits + ph) % 2 ^ 64 } }).enterLock)
    else
      let e := match cycles with
        | some n => gtDiff (n * cycleUnits + ph) t.gt
        | none => wrapCycle ((ph : Int) - gfr t.gt)
      .next (if within50ns e freq then s2.enterLock
        else if e.natAbs * s.spc ≤ cycleUnits then s2.enterSlew e
        else s2.stepSchedule e)

/-- INPUT_LOST (R67, R68, R79): a condition of the last row of R67 holds in `m`: a bad cycle, and from
20 ms on the input is lost; source 47 for frequency or RoCoF. -/
def execInputLost (t : Time) (refcnt : Nat) (m : Sense) (s : State) : Host.Outcome State Fault Refusal :=
  let s0 := s.at t
  .next (s.whenLive 1 (if s.fld F.GTB_CFG_SRC = 3 ∨ s.badSense m = false then s0
  else
    let s1 := { s0 with gtb := { s0.gtb with good := 0 } }
    if m.held < 20000 then s1
    else ((s1.fireIf (s.badFreq m) 47).loseInput refcnt).setFlag F.GTB_STATUS_QUALIFYING true))

/-- PHASE_JUMP_CONFIRMED (R67, R79): the new phase error `e` is reached by slew; before a step it is held until then. -/
def execPhaseJumpConfirmed (t : Time) (below2 : Bool) (e : Int) (s : State) : Host.Outcome State Fault Refusal :=
  let s1 := (s.at t).fireIf (!below2) 38
  .next (s.whenLive 1 (if s.gtbState = 1 then
      (if below2 && within50ns e s.mainsFreq then s1 else s1.enterSlew e)
    else if s.gtbState = 3 then s1.slewTo e
    else if s.gtbState = 4 then s1.setErr e
    else s1))

/-- SLEW_DONE (R79, R80): SLEW ends in LOCK once GT has moved as far as the slew limit lets it; before that the slew goes on. -/
def execSlewDone (t : Time) (s : State) : Host.Outcome State Fault Refusal :=
  let s0 := s.at t
  .next (s.whenLive 1 (if s.gtbState = 3 then
      (if within50ns s0.slewLeft s.mainsFreq then s0.enterLock else s0.slewTo s0.slewLeft)
    else s0))

/-- MSQ's transmissions, waiting frames and searches in a grid time moved by `m` (R82). -/
def Msq.restep (x : Msq) (m : Nat → Nat) : Msq :=
  { x with tx := x.tx.mapv (fun _ y => { y with start := m y.start, cellEnd := m y.cellEnd }),
           backoffs := x.backoffs.mapv (fun _ y => (y.1, { y.2 with start := m y.2.start, cellEnd := m y.2.cellEnd })),
           awaits := x.awaits.map (fun a => { a with fin := m a.fin }), verified := x.verified.map (fun v => (v.1, m v.2)),
           searches := x.searches.map (fun y => { y with e := m y.e }) }

/-- A job of SIC and its members in a grid time moved by `m` (R82). -/
def SicJob.restep (m : Nat → Nat) (j : SicJob) : SicJob :=
  let l := j.members.map (fun x => { x with start := m x.start, fin := m x.fin })
  { j with start := m j.start, fin := m j.fin, takenGt := m j.takenGt, members := l }

/-- Lanes, retro entries and SIC's members, jobs and references in a grid time moved by `m` (R82). -/
def State.restepFrames (s : State) (m : Nat → Nat) : State :=
  { s with
    dmx := { s.dmx with lanes := s.dmx.lanes.mapv (fun _ x => { x with detGt := m x.detGt, sfdGt := m x.sfdGt }),
                        retro := s.dmx.retro.map (fun r => { r with detGt := m r.detGt }) }
    sic := { s.sic with refs := s.sic.refs.map (fun r => { r with start := m r.start, fin := m r.fin }),
                        jobs := s.sic.jobs.map (SicJob.restep m) }
    inbox := s.inbox.map (fun f => { f with fin := m f.fin, qrec := { f.qrec with sfdGt := m f.qrec.sfdGt } }) }

/-- What is scheduled or in progress in GT is expressed in the new GT from a step of `d` units on (R82): streams, also those on the air,
assessments, history markers, MSQ's and CDC's copies of their starts, backoffs, searches, frames that wait for an ACK or are being
received. The moments stay, so that a frame on the air keeps its timing; its record is written with the new GT (log entry 150). -/
def State.restep (s : State) (d : Int) : State :=
  let m := fun (g : Nat) => ((g + d) % (2 ^ 64 : Int)).toNat
  let port := fun (p : RfpPort) =>
    { p with streams := p.streams.map (fun x => { x with start := m x.start, rel := m x.rel }),
             ccas := p.ccas.map (fun c => { c with opn := m c.opn, fin := m c.fin }),
             markers := p.markers.map (fun x => { x with gt := m x.gt }) }
  { (s.restepFrames m) with
    rfp := { s.rfp with ports := s.rfp.ports.map port }
    msq := s.msq.restep m
    cdc := { s.cdc with queue := s.cdc.queue.map (fun r => { r with start := m r.start }) } }

/-- STEP_APPLY (R79, R81, R91, R93): at the step's slot boundary GT and GSN jump by ΔS slots; armed compares that a
forward step passes fire with STEPPED, and pulse series go on from the new GT. -/
def execStepApply (t : Time) (s : State) : Host.Outcome State Fault Refusal :=
  let s0 := s.at t
  if s.live 1 = true ∧ s.gtbState = 4 ∧ 0 ≤ gsnDiff (gsnOf s.spc t.gt) (s.fld F.GTB_STEPGSN_GSN) then
    let d := signed 32 (s.fld F.GTB_STEP_SLOTS)
    let gt' := jumpSlots s.spc s0.gtb.gt d
    let e' := s.gtb.e - gtDiff gt' s0.gtb.gt
    let s1 := ({ s0 with gtb := { s0.gtb with gt := gt' } }).restep (gtDiff gt' s0.gtb.gt)
    let s2 := s1.clearStep
    let s3 := (List.range 8).foldl (fun u n =>
      if u.on (F.GTB_CMPn_ARM n) && (decide (0 < d) && u.cmpReached n) then
        (u.setFlag (F.GTB_CMPn_STEPPED n) true).cmpFire n
      else u) s2
    let s4 := (List.range 8).foldl (fun u n => u.pulseStep s0.gtb.gt n) s3
    .next ((s4.fire 36).slewOrLock e')
  else .next s0

/-- The mean of the last `n` one-second means of the frequency, or the frequency in use where there is none yet (R76, R187, R194). -/
def State.meanFreq (s : State) (n : Nat) : Nat :=
  let l := s.gtb.freqs.drop (s.gtb.freqs.length - n)
  if l.isEmpty then s.mainsFreq else l.foldl (· + ·) 0 / l.length

/-- The mean frequency of the second that ends: that of the cycles measured in it (GTB_QUAL.FREQ), or `freq` at which GT advanced where
none was. -/
def State.secondFreq (s : State) (freq : Nat) : Nat := if s.gtb.qn = 0 then freq else s.gtb.qsum / s.gtb.qn

/-- HOLDOVER_SAVE (R83): once per second in every valid state; in HOLD the seconds count. The averages of R76, R187 and R194 take up the
mean frequency of the second. DESIGN CHOICE: in HOLD none is taken up, so that where the input has been back for less than 10 s the
average of R76 takes in the last seconds before the outage too; the spec does not say which seconds it takes then (log entry 150). -/
def execHoldoverSave (t : Time) (refcnt freq : Nat) (s : State) : Host.Outcome State Fault Refusal :=
  let s0 := s.at t
  .next (s.whenLive 1 (if s.gtValid then
    let hold := s.gtbState == 2
    let l := s.gtb.freqs ++ [s.secondFreq freq]
    let u := { s0 with gtb := { s0.gtb with freqs := l.drop (l.length - 120), qsum := 0, qn := 0 } }
    let f := if hold then s.gtb.freq else u.meanFreq 10
    let s1 := (if hold then { s0 with gtb := { s0.gtb with qsum := 0, qn := 0 } } else { u with gtb := { u.gtb with freq := f } }).saveHold
      refcnt f
    if hold then s1.setFld F.GTB_HOLDREC_HOLDS (s1.fld F.GTB_HOLDREC_HOLDS + 1) else s1
  else s0))

/-- PTP_SECOND_ROLLOVER (R85): with SRC = 1, a capture with the second `sec` that HIF's clock reaches. State keeps that clock to 1 µs, so
`sec` is the second nearest to it; at any other the clock does not roll over (log entry 135). -/
def execPtpSecondRollover (t : Time) (sec : Nat) (s : State) : Host.Outcome State Fault Refusal :=
  let s0 := s.at t
  .next (s.whenLive 1 (if s.fld F.GTB_UTCCFG_SRC = 1 ∧ sec = (s0.ptpNow + 500000000) / 1000000000 then s0.utcCapture sec else s0))

/-- PPS_EDGE (R85): with SRC = 2, a capture with the next second, or with GTB_UTCLOAD where a load is armed. -/
def execPpsEdge (t : Time) (s : State) : Host.Outcome State Fault Refusal :=
  let s0 := s.at t
  .next (s.whenLive 1 (if s.fld F.GTB_UTCCFG_SRC = 2 then
    let sec := if s.gtb.utcLoad then s.fld F.GTB_UTCLOAD_LO_LOAD_LO + 2 ^ 32 * s.fld F.GTB_UTCLOAD_HI_LOAD_HI
      else s.gtb.utcNext
    ({ s0 with gtb := { s0.gtb with utcLoad := false, utcNext := sec + 1 } }).utcCapture sec
  else s0))

/-- UTC_LOAD (R85): a write of GTB_UTCCFG with LOAD. -/
def execUtcLoad (rq : Req) (v : Word) (s : State) : Host.Outcome State Fault Refusal :=
  .next (s.gated rq Reg.GTB_UTCCFG v (fun t =>
    if F.GTB_UTCCFG_LOAD.ext v = 1 then { t with gtb := { t.gtb with utcLoad := true } } else t))

/-- UTC_STALE (R86): no capture for 2 s; the last values stay. -/
def execUtcStale (s : State) : Host.Outcome State Fault Refusal :=
  .next (s.whenLive 1 (if s.on F.GTB_UTCSTAT_STALE then s
    else (({ s with gtb := { s.gtb with utcRun := 0 } }).setFlag F.GTB_UTCSTAT_STALE true).fire 41))

/-- CMP_ARM (R90): a write of GTB_CMPn through `view` that writes ARM as 1. -/
def execCmpArm (t : Time) (rq : Req) (n view : Nat) (v : Word) (s : State) : Host.Outcome State Fault Refusal :=
  .next ((s.at t).cmpWrite rq n view v)

/-- CMP_DISARM (R90): a write of GTB_CMPn through `view` that writes ARM as 0. -/
def execCmpDisarm (rq : Req) (n view : Nat) (v : Word) (s : State) : Host.Outcome State Fault Refusal :=
  .next (s.cmpWrite rq n view v)

/-- CMP_FIRE (R90): an armed compare reaches its target. -/
def execCmpFire (t : Time) (n : Nat) (s : State) : Host.Outcome State Fault Refusal :=
  let s0 := s.at t
  .next (s.whenLive 1 (if s.on (F.GTB_CMPn_ARM n) && s0.cmpReached n then s0.cmpFire n else s0))

/-- PULSE_ARM (R93): a write of GTB_PLSn through `view` that writes ARM as 1 latches the start value. -/
def execPulseArm (t : Time) (rq : Req) (n view : Nat) (v : Word) (s : State) : Host.Outcome State Fault Refusal :=
  let a := Reg.GTB_PLSn n
  let s0 := s.at t
  let armed := s.on (F.GTB_PLSn_ARM n)
  .next (match s0.barred rq a (some v) with
    | some c => (s0.recordFault rq c true (a + 0x10000 * view) 15).respond [] false
    | none =>
      let s1 := (s0.viewWrite rq a view v).respond [] true
      if writesArm view v armed = some true then s1.pulseArm n else s1)

/-- PULSE_EDGE (R92, R93): the generator drives its leading edge; a single pulse is then disarmed. A period written since the last edge
takes effect: the series goes on from this edge. -/
def execPulseEdge (t : Time) (n : Nat) (s : State) : Host.Outcome State Fault Refusal :=
  let s0 := s.at t
  let p := s.gtb.pulses.getD n {}
  .next (s.whenLive 1 (match p.next with
    | none => s0
    | some nx =>
      if s.on (F.GTB_PLSn_ARM n) && decide (0 ≤ gtDiff t.gt nx) then
        let per := s.fld (F.GTB_PLSnPER_PER n)
        let p1 := { p with busy := true, fin := gtAdd nx (nsToGt (10 * s.fld (F.GTB_PLSn_WIDTH n)) s.mainsFreq) }
        if per = 0 then (s0.setPulse n { p1 with per := 0, next := none }).setFlag (F.GTB_PLSn_ARM n) false
        else s0.setPulse n { p1 with start := if per = p.per then p.start else nx, per := per, next := some (gtAdd nx per) }
      else s0))

/-- PULSE_WIDTH_END (R92): WIDTH × 10 ns after its leading edge the pulse ends. -/
def execPulseWidthEnd (e : PulseEnd) (s : State) : Host.Outcome State Fault Refusal :=
  let s0 := s.at e.t
  let p := s.gtb.pulses.getD e.n {}
  .next (s.whenLive 1 (if p.busy && decide (0 ≤ gtDiff e.t.gt p.fin) then s0.setPulse e.n { p with busy := false } else s0))

/-- LEGSTAMP_READ (R48, R94): a full-width read returns the oldest stamp and removes it. -/
def execLegstampRead (rq : Req) (s : State) : Host.Outcome State Fault Refusal :=
  .next (match s.barred rq Reg.GTB_LEGSTAMP none with
    | some c => (s.recordFault rq c false Reg.GTB_LEGSTAMP 15).respond (leOctets 4 0) false
    | none =>
      let s1 := s.respond (leOctets 4 s.legWord.toNat) true
      match s.gtb.stamps with
      | [] => s1
      | _ :: r => { s1 with gtb := { s1.gtb with stamps := r, stampOvf := false } })

/-- MAINS_THD_HIGH (R67): the estimator's THD, in units of 0.1 %. Above 8 % of the analog input lock is kept, DIST is set and source 37
fires as the episode begins; at or below it the episode ends. The digital source has no THD. -/
def execMainsThdHigh (thd : Nat) (s : State) : Host.Outcome State Fault Refusal :=
  .next (s.whenLive 1 (if s.fld F.GTB_CFG_SRC = 3 then s else s.setQual (s.fld F.GTB_QUAL_FREQ) thd (s.fld F.GTB_QUAL_AMP)))

end Sys2Proof.Machine
end

