-- ==== Sys2Proof/Machine/Rfp.lean ====
section
/-! DEFINITION. RFP (chapter 05): links, converter proxy, sample history, noise floor, assessments, streams. -/

namespace Sys2Proof.Machine

/-- Port `n` outside its registers. -/
def State.port (s : State) (n : Nat) : RfpPort := s.rfp.ports.getD n {}

/-- Change port `n`. -/
def State.setPort (s : State) (n : Nat) (p : RfpPort) : State :=
  { s with rfp := { s.rfp with ports := listSet s.rfp.ports n p } }

/-- The link state of port `n` (R99): 0 OFF, 1 CLKCHK, 2 WAITSYS, 3 LOCKING, 4 UP. -/
def State.link (s : State) (n : Nat) : Nat := s.fld (F.RFPn_LSTAT_STATE n)

/-- The slice is enabled (R104). -/
def State.sliceOn (s : State) (n k : Nat) : Bool := s.on (F.RFPn_SLk_EN n k)

/-- The class of a slice (R103). -/
def State.sliceClass (s : State) (n k : Nat) : Nat := s.fld (F.RFPn_SLk_CLASS n k)

/-- Chip rate of a class in kchip/s (R103). -/
def chipRate (c : Nat) : Nat := [125, 250, 1000, 2000].getD c 125

/-- Channel spacing of a class in kHz (R103). -/
def spacing (c : Nat) : Nat := [200, 400, 1200, 5000].getD c 200

/-- Channelizer latency of a class in ns (R103). -/
def chanLatency (c : Nat) : Nat := [44000, 22000, 7500, 1900].getD c 44000

/-- The centre of slice `k` of port `n` in kHz (R104). -/
def State.sliceCentre (s : State) (n k : Nat) : Int :=
  (s.fld (F.RFPn_RXCTR_KHZ n) : Int) + signed 18 (s.fld (F.RFPn_SLk_OFS n k))

/-- The diversity partner of port `n`, where its pair is set (R105). -/
def State.partner (s : State) (n : Nat) : Option Nat :=
  if n < 2 then (if s.on F.RFP_PAIR_PAIR01 then some (1 - n) else none)
  else (if s.on F.RFP_PAIR_PAIR23 then some (5 - n) else none)

/-- Port count of the sample at converter-input time `g` (R107): `gm`, `nm` the latest marker, `gp` the time of the
one before. -/
def gtToCount (g gm gp nm : Nat) : Nat :=
  let span := (gtDiff gm gp).toNat
  let num := gtDiff g gm * 4096
  let q : Int := if 0 ≤ num then (num + span / 2) / span else -((-num + span / 2) / span)
  (((nm : Int) + q) % (2 ^ 64 : Int)).toNat

/-- The converter-input time of port count `c`: the inverse of R107's conversion (R154). -/
def countToGt (c gm gp nm : Nat) : Nat :=
  let span := gtDiff gm gp
  let num := (((c : Int) - nm) * span)
  gtAddI gm (if 0 ≤ num then (num + 2048) / 4096 else -((-num + 2048) / 4096))

/-- The grid time of port count `c` on port `n`, by the latest marker at or before it and the one before that (R154). DESIGN CHOICE
with fewer than two such markers, as in `State.countAt` (log entry 136). -/
def State.gtOfCount (s : State) (n c : Nat) : Nat :=
  let ms := (s.port n).markers
  match (ms.filter (fun m => Nat.ble m.count c)).reverse with
  | m :: p :: _ => countToGt c m.gt p.gt m.count
  | _ => match ms with
    | p :: m :: _ => countToGt c m.gt p.gt m.count
    | _ => s.gtb.gt

/-- The port count of a grid time on port `n`, by the latest marker at or before it and the one before that (R107). DESIGN CHOICE: the
spec gives no rule for fewer than two such markers; the first two markers convert then, or the port's newest count is taken (log
entry 136). -/
def State.countAt (s : State) (n g : Nat) : Nat :=
  let ms := (s.port n).markers
  let past := ms.filter (fun m => decide (gtDiff m.gt g ≤ 0))
  match past.reverse with
  | m :: p :: _ => gtToCount g m.gt p.gt m.count
  | _ => match ms with
    | p :: m :: _ => gtToCount g m.gt p.gt m.count
    | _ => (s.port n).count

/-- Ring length of the history of port `n` in samples (R106). -/
def State.ringLen (s : State) (n : Nat) : Nat := s.fld (F.RFPn_HISTLEN_N n)

/-- Where the history of port `n` holds the sample with port count `c` (R106). -/
def State.histAddr (s : State) (n c : Nat) : Nat :=
  s.fld (F.RFPn_HISTBASE_LO_BASE_LO n) + 2 ^ 32 * s.fld (F.RFPn_HISTBASE_HI_BASE_HI n) + 4 * (c % s.ringLen n)

/-- The receive latency of a slice in ns (R100): RXLAT and the channelizer latency of its class. -/
def State.rxLatency (s : State) (n k : Nat) : Nat := s.fld (F.RFPn_LAT_RXLAT n) + chanLatency (s.sliceClass n k)

/-- The port count of the newest sample written (R106 to R108): that which left the link by now, fewer than 4,096 past the last marker;
while the link is not UP none is received. -/
def State.newest (s : State) (n : Nat) : Nat :=
  let c := (s.port n).count
  if s.link n = 4 then
    max c (min (c + 4095) (s.countAt n (gtSub s.gtb.gt (nsToGt (s.fld (F.RFPn_LAT_RXLAT n)) s.mainsFreq))))
  else c

/-- The outcome of a history read as things stand (R108); none while a range that ends within 4 ms waits. The marker of count m stands for
the 4,096 samples up to m, the marker's own among them (R107); a sample is overwritten once the one a ring length on is written. -/
def State.histOutcome (s : State) (r : HistRead) : Option HistOutcome :=
  let new := s.newest r.port
  let last := r.start + r.count - 1
  if new + 4 * s.fld (F.RFPn_RXFS_FS r.port) < last then some .future
  else if new < last then none
  else if r.start + s.ringLen r.port ≤ new then some .overwritten
  else if (s.port r.port).markers.any (fun m => !m.valid && (Nat.ble r.start m.count && Nat.blt m.count (last + 4096))) then
    some .gap
  else some .ok

/-- A history read ends (R108). -/
def State.histEnd (s : State) (r : HistRead) (o : HistOutcome) : State :=
  let s1 := { s with rfp := { s.rfp with reads := s.rfp.reads.filter (fun x => x.id != r.id),
                                         lastRead := some (r.id, o) } }
  match o with
  | .overwritten => (s1.bump (Ctr.RFPn_OVWR r.port)).fire 59
  | .gap => s1.fire 59
  | .ok => s1
  | .future => s1

/-- A read is made again as it was: SIC waits where one ended FUTURE (R163). -/
def State.histAgain (s : State) (r : HistRead) : State :=
  { s with rfp := { s.rfp with reads := s.rfp.reads ++ [{ r with id := s.rfp.nextRead }], nextRead := s.rfp.nextRead + 1 } }

/-- Request a history read (R108). A range that ends more than 4 ms ahead ends FUTURE at once, after which SIC waits (R163). -/
def State.histRequest (s : State) (reader : HistReader) (tag port start count : Nat) : State :=
  let id := s.rfp.nextRead
  let c := s.countAt port start
  let r : HistRead :=
    { id := id, reader := reader, tag := tag, port := port, start := c, count := count, addr := s.histAddr port c }
  let s1 := { s with rfp := { s.rfp with reads := s.rfp.reads ++ [r], nextRead := id + 1 } }
  match s1.histOutcome r with
  | some .future => if reader = .sic then (s1.histEnd r .future).histAgain r else s1.histEnd r .future
  | _ => s1

/-- The history reads that serve `tag` of a reader end without an outcome. -/
def State.histDrop (s : State) (reader : HistReader) (tag : Nat) : State :=
  { s with rfp := { s.rfp with reads := s.rfp.reads.filter (fun (x : HistRead) => !(x.reader == reader && x.tag == tag)) } }

/-- A slice power as −4 × dBFS, from linear power with 2^32 as full scale: the least code at which the power reaches
the floor, searched with fuel (log entry 12). -/
def nfCode (p : Nat) : Nat → Nat → Nat
  | 0, n => n
  | f + 1, n => if 2 ^ 1280 ≤ p ^ 40 * 10 ^ n then n else nfCode p f (n + 1)

/-- The noise floor of slice `k` after the idle milliseconds `l` (R109). -/
def meanFloor (l : List Nat) : Nat := nfCode (l.foldl (· + ·) 0 / 16) 2047 0

/-- Two intervals of grid time overlap. -/
def overlaps (a la b lb : Nat) : Bool :=
  decide (gtDiff b a < (la : Int)) && decide (gtDiff a b < (lb : Int))

/-- Transmit profile `j` of port `n` contains the channel of slice `k` (R113). -/
def State.profileHolds (s : State) (n k j : Nat) : Bool :=
  let c := s.fld (F.RFPn_TXPROFj_KHZ n j)
  let sp := spacing (s.sliceClass n k)
  c != 0 && decide (((s.sliceCentre n k - (c : Int)).natAbs * 2 + sp) * 1000
    ≤ 2 * 407 * s.fld (F.RFPn_TXFS_FS n))

/-- Reasons to refuse a reservation (R113), in their order. -/
inductive ResRefusal where
  | link | noSlice | profile | late | noStream
  deriving DecidableEq, Repr

/-- The reason codes as the model numbers them, from 1. -/
def ResRefusal.code : ResRefusal → Nat
  | .link => 1
  | .noSlice => 2
  | .profile => 3
  | .late => 4
  | .noStream => 5

/-- The reservations of port `n` that overlap an interval. -/
def State.overlapping (s : State) (n start dur : Nat) : List Stream :=
  (s.port n).streams.filter (fun x => overlaps start dur x.start x.dur)

/-- The streams of port `n` reserved at grid time `g`. -/
def State.streamsAt (s : State) (n g : Nat) : Nat :=
  ((s.port n).streams.filter (fun x => decide (0 ≤ gtDiff g x.start) && decide (gtDiff g x.start < (x.dur : Int)))).length

/-- All MAXTX streams are reserved for part of the interval (R113): at its start, or where a reservation begins within it. -/
def State.streamsFull (s : State) (n start dur : Nat) : Bool :=
  (start :: ((s.overlapping n start dur).map (fun x => x.start)).filter (fun g => decide (0 ≤ gtDiff g start))).any
    (fun g => Nat.ble (s.fld (F.RFPn_TX_MAXTX n)) (s.streamsAt n g))

/-- The profile for a reservation (R113): one that contains the channel and agrees with every overlapping one. DESIGN CHOICE: where
several do, the lowest-numbered (log entry 136). -/
def State.pickProfile (s : State) (n k start dur : Nat) : Option Nat :=
  (List.range 4).find? (fun j => s.profileHolds n k j && (s.overlapping n start dur).all (fun x => x.prof == j))

/-- The reason to refuse a reservation, or the profile it takes (R113). DESIGN CHOICE: a profile change is needed where the profile
differs from the one driven now; the spec does not say against which it is held (log entry 136). DESIGN CHOICE: RFPn_LINK.TXEN refuses
nothing, since R113 lists no such reason and R99 has the transmit link follow the receive link (log entry 151). -/
def State.reserveCheck (s : State) (n k start dur : Nat) : ResRefusal ⊕ Nat :=
  if s.link n ≠ 4 then .inl .link
  else if !s.sliceOn n k then .inl .noSlice
  else match s.pickProfile n k start dur with
    | none => .inl .profile
    | some j =>
      let f := s.mainsFreq
      let settle := if j = (s.port n).prof then 0 else s.fld (F.RFPn_TIMING_SETTLE n)
      let lead := nsToGt (s.fld (F.RFPn_LAT_TXLAT n)) f + usToGt (settle + 2) f
      if gtDiff start s.gtb.gt < (lead : Int) then .inl .late
      else if s.streamsFull n start dur then .inl .noStream
      else .inr j

/-- Reserve a transmit stream (R112, R113): its number, or nothing where it is refused and counted. At SL0 nothing goes on the air
(R5): MSQ and LGC reserve nothing. -/
def State.reserve (s : State) (user : TxUser) (n k start dur : Nat) : Option Nat × State :=
  if s.level = 0 then (none, s)
  else match s.reserveCheck n k start dur with
  | .inl r => (none, { s.bump (Ctr.RFPn_PROFREF n) with rfp := { (s.bump (Ctr.RFPn_PROFREF n)).rfp with lastRefusal := r.code } })
  | .inr j =>
    let p := s.port n
    let id := s.rfp.nextTx
    let st : Stream := { id := id, user := user, slice := k, start := start, dur := dur, prof := j, active := false }
    let s1 := s.setPort n { p with streams := p.streams ++ [st] }
    (some id, { s1 with rfp := { s1.rfp with nextTx := id + 1 } })

/-- The port and stream of transmission `id`. -/
def State.findStream (s : State) (id : Nat) : Option (Nat × Stream) :=
  (List.range 4).findSome? (fun n => ((s.port n).streams.find? (fun x => x.id == id)).map (fun x => (n, x)))

/-- An active stream of the port or of its partner, of those that `f` selects, overlaps slice `k` of port `n` (R116). -/
def State.blankedBy (s : State) (f : Stream → Bool) (n k : Nat) : Bool :=
  let hit := fun m => (s.port m).streams.any (fun x => x.active && (f x &&
    (let sp := spacing (s.sliceClass m x.slice)
     decide ((s.sliceCentre n k - s.sliceCentre m x.slice).natAbs * 2 < 3 * sp + spacing (s.sliceClass n k)))))
  hit n || (match s.partner n with
    | some m => hit m
    | none => false)

/-- Is slice `k` of port `n` blanked (R116)? -/
def State.blanked (s : State) (n k : Nat) : Bool := s.blankedBy (fun _ => true) n k

/-- Slices `ks` of port `n` are not idle in the running millisecond (R109). -/
def State.notIdle (s : State) (n : Nat) (ks : List Nat) : State :=
  let p := s.port n
  s.setPort n { p with msBusy := p.msBusy ++ ks.filter (fun k => !p.msBusy.contains k) }

/-- The blanked slices of every port are not idle in the running millisecond (R109, R116). -/
def State.noteBlanked (s : State) : State :=
  (List.range 4).foldl (fun t n => t.notIdle n ((List.range 128).filter (fun k => t.sliceOn n k && t.blanked n k))) s

/-- The port of transmission `id` drops the stream. -/
def State.dropStream (s : State) (n id : Nat) : State :=
  let p := s.port n
  let s1 := s.setPort n { p with streams := p.streams.filter (fun x => x.id != id) }
  { s1 with rfp := { s1.rfp with i3wave := s1.rfp.i3wave.del id } }

/-- Mark as OWN the assessments whose slice a stream blanks during their window (R111): one released by its end and still active
at or after its beginning. -/
def State.markOwn (s : State) : State :=
  (List.range 4).foldl (fun t n =>
    let p := t.port n
    if p.ccas.isEmpty then t
    else t.setPort n { p with ccas := p.ccas.map (fun c =>
      if decide (0 ≤ gtDiff t.gtb.gt c.opn) && t.blankedBy (fun x => decide (gtDiff x.rel c.fin ≤ 0)) n c.slice then
        { c with own := true } else c) }) s

/-- The chips of stream `x` of port `n` that have left by now (R114): those of the time since its release. -/
def State.chipsSent (s : State) (n : Nat) (x : Stream) : Nat :=
  gtToNs (min x.dur (gtDiff s.gtb.gt x.rel).toNat) s.mainsFreq * chipRate (s.sliceClass n x.slice) / 1000000

/-- The port's links start (R99): EN = 1 and the domain on take a link from OFF to CLKCHK. -/
def State.linkStart (s : State) (n : Nat) : State :=
  if s.link n = 0 ∧ s.on (F.RFPn_LINK_EN n) = true ∧ s.domReady (10 + n) = true then
    s.setFld (F.RFPn_LSTAT_STATE n) 1
  else s

/-! ### The commands -/

/-- SYSREF_EDGE (R98, R99): in WAITSYS the edge aligns the multiblock clock; later edges are only checked. -/
def execSysrefEdge (n : Nat) (aligned : Bool) (s : State) : Host.Outcome State Fault Refusal :=
  .next (if s.link n = 2 then s.setFld (F.RFPn_LSTAT_STATE n) 3
    else if s.link n = 3 ∨ s.link n = 4 then s.fireIf (!aligned) 57
    else s)

/-- An assessment whose window has not opened when its port comes UP can still be measured whole (R111). -/
def Cca.linkUp (now : Nat) (c : Cca) : Cca := if gtDiff now c.opn ≤ 0 then { c with down := false } else c

/-- LINK_LOCK (R99, R100): every lane has lock within 10 ms; `m` are the measured link latencies, `period` the device
clock period in ps. -/
def execLinkLock (t : Time) (n : Nat) (m : LinkLat) (period : Nat) (s : State) : Host.Outcome State Fault Refusal :=
  let s := s.at t
  .next (if s.link n = 3 then
    let p := s.port n
    let moved := match p.lat0 with
      | none => false
      | some l => decide (period < ((m.lat : Int) - l).natAbs * 1000)
    let lanes := if s.on (F.RFPn_LINK_LANES n) then 3 else 1
    let s1 := ((s.setFld (F.RFPn_LSTAT_STATE n) 4).setFld (F.RFPn_LSTAT_LOCK n) lanes).setFlag (F.RFPn_LSTAT_CLKOK n) true
    let s2 := s1.setFld (F.RFPn_LAT_RXLAT n) (s.fld (F.RFPn_TIMING_CONVLAT n) + m.lat)
    let s3 := s2.setFld (F.RFPn_LAT_TXLAT n) (s.fld (F.RFPn_TIMING_TXCONVLAT n) + m.txlat)
    let s4 := s3.setPort n { p with lat0 := some (p.lat0.getD m.lat), ccas := p.ccas.map (Cca.linkUp t.gt) }
    (s4.fire (52 + n)).fireIf moved 58
  else s)

/-- LINK_LOCK_TIMEOUT (R99): 10 ms in LOCKING without lock. -/
def execLinkLockTimeout (n : Nat) (s : State) : Host.Outcome State Fault Refusal :=
  .next (if s.link n = 3 then (s.setFld (F.RFPn_LSTAT_STATE n) 2).bump (Ctr.RFPn_LINKDN n) else s)

/-- The bits of RFP_PXCMD that hold PW fields. -/
def pxMask : Word := 0x07FFFFFF

/-- A value is posted to RFP_PXCMD (R49, R101, R102): BUSY is set, RFP_PXRD.VALID is cleared, and a transaction goes out, or where the
port's domain is not on or its link is OFF none does and ERR is set. -/
def State.proxyPost (s : State) (v : Word) : State :=
  let n := F.RFP_PXCMD_PORT.ext v
  let sent := s.domReady (10 + n) && s.link n != 0
  let px : Proxy := { port := n, rd := F.RFP_PXCMD_RD.ext v == 1, addr := F.RFP_PXCMD_ADDR.ext v, data := F.RFP_PXCMD_DATA.ext v,
                      word := v, sent := sent }
  ((({ s with rfp := { s.rfp with proxy := some px } }).setFlag F.RFP_STATUS_BUSY true).setFlag F.RFP_PXRD_VALID false).setFlag
    F.RFP_PXRD_ERR (!sent)

/-- The posted value lands (R43, R49): RFP_PXCMD reads it, its reserved bits as zero, and BUSY clears. -/
def State.proxyLand (s : State) (px : Proxy) : State :=
  (({ s with rfp := { s.rfp with proxy := none } }).setReg Reg.RFP_PXCMD (px.word &&& pxMask)).setFlag F.RFP_STATUS_BUSY false

/-- The transaction ends (R101): what a read gives is in RFP_PXRD, source 62. -/
def State.proxyEnd (s : State) (px : Proxy) (data : Nat) : State :=
  let s1 := s.proxyLand px
  if px.rd then ((s1.setFld F.RFP_PXRD_DATA data).setFlag F.RFP_PXRD_VALID true).fire 62 else s1

/-- PROXY_CMD (R49, R101, R102): a write of RFP_PXCMD; while BUSY it is dropped and recorded. -/
def execProxyCmd (rq : Req) (v : Word) (s : State) : Host.Outcome State Fault Refusal :=
  .next (if s.on F.RFP_STATUS_BUSY then s.gated rq Reg.RFP_PXCMD v id
  else s.gated rq Reg.RFP_PXCMD v (fun t => t.proxyPost v))

/-- A transaction of CFG through the proxy, which polls BUSY until it ends (R28, R34, R102); what a read gives is a free value. -/
def State.proxyNow (s : State) (v : Word) : State :=
  let s1 := s.proxyPost v
  match s1.rfp.proxy with
  | none => s1
  | some px =>
    if px.sent then
      let s2 := { s1 with rfp := { s1.rfp with conv := s1.rfp.conv ++ [(px.port, px.rd, px.addr, px.data)] } }
      if px.rd then (s2.proxyEnd px (s.fresh % 256)).nextFree else s2.proxyEnd px 0
    else s1.proxyLand px

/-- CFG's words for the proxy go out in order (R28, R34): while a posted value has not landed they wait (CFG polls BUSY, R49, R102), and a
step of an RFP_CONVINIT record until its port's domain is on (log entry 132). -/
def State.convDrain (s : State) : State :=
  if s.on F.RFP_STATUS_BUSY then s
  else
    let goes := fun (e : Word × Bool) => !e.2 || s.domReady (10 + F.RFP_PXCMD_PORT.ext e.1)
    (s.rfp.convWait.filter goes).foldl (fun (u : State) e => u.proxyNow e.1)
      { s with rfp := { s.rfp with convWait := s.rfp.convWait.filter (fun e => !goes e) } }

/-- A word of CFG's for RFP_PXCMD; `step` marks those that wait for their port's domain. -/
def State.proxyQueue (s : State) (v : Word) (step : Bool) : State :=
  State.convDrain { s with rfp := { s.rfp with convWait := s.rfp.convWait ++ [(v, step)] } }

/-- A step of an RFP_CONVINIT record (R28): a write through the proxy, once the port's domain is on. -/
def State.convStep (s : State) (port addr data : Nat) : State :=
  s.proxyQueue (BitVec.ofNat 32 (addr % 65536 + 65536 * (data % 256) + 2 ^ 25 * (port % 4))) true

/-- PROXY_COMPLETE (R102): the transaction sent ends; `data` is what the converter drove. -/
def execProxyComplete (data : Nat) (s : State) : Host.Outcome State Fault Refusal :=
  .next (match s.rfp.proxy with
    | none => s
    | some px => if px.sent then (s.proxyEnd px data).convDrain else s)

/-- HISTORY_MARKER (R106, R107): the port count has advanced by 4,096 samples, `missed` of which were not received (all of them
through an outage); `valid` says that no uncorrectable DRAM error lost one. The marker has the moment at which the sample crossed the
converter input, which is RXLAT before it left the link (R100). Markers of samples that the ring no longer holds go. -/
def execHistoryMarker (t : Time) (n missed : Nat) (valid : Bool) (s : State) : Host.Outcome State Fault Refusal :=
  let s0 := s.at t
  let p := s.port n
  let c := p.count + 4096
  let up := s.link n == 4
  let g := gtSub t.gt (nsToGt (s.fld (F.RFPn_LAT_RXLAT n)) s.mainsFreq)
  let m : Marker := { count := c, gt := g, valid := valid && (up && !p.gap && missed == 0) }
  let keep := (p.markers ++ [m]).filter (fun x => decide (c ≤ x.count + s.ringLen n + 8192))
  .next (s.whenLive (10 + n) (s0.setPort n { p with count := c, markers := keep, gap := !up }))

/-- HISTORY_READ (R108): a range of samples by port, start GT and count. -/
def execHistoryRead (reader : HistReader) (tag port start count : Nat) (s : State) :
    Host.Outcome State Fault Refusal :=
  .next (s.histRequest reader tag port start count)

/-- TX_RESERVE (R112, R113): `start` is the GT of the first chip at the converter output, `dur` GT units. -/
def execTxReserve (t : Time) (user : TxUser) (n slice start dur : Nat) (s : State) :
    Host.Outcome State Fault Refusal :=
  .next ((s.at t).reserve user n slice start dur).2

end Sys2Proof.Machine
end

