-- ==== Sys2Proof/Machine/Cdc.lean ====
section
/-! DEFINITION. CDC in service (chapter 06): header and payload decodes with their counts and thresholds, and encodes. -/

namespace Sys2Proof.Machine

/-- A header fails and is counted; source 88 fires when the window's failures reach CDC_THR.HDRTHR (R136). DESIGN CHOICE: the comparison
is made where a failure is counted, here and in `State.cdcPayload`; a threshold lowered in the window to or below the count fires nothing
(log entry 151). -/
def State.hdrFail (s : State) (c : Nat) : State :=
  let n := s.cdc.hdrFails + 1
  let s1 := { s.bump c with cdc := { s.cdc with hdrFails := n } }
  s1.fireIf (n == s.fld F.CDC_THR_HDRTHR) 88

/-- Decode a native header (R128): its outcome code of R143 (0 OK), the header and its word, and the counts. -/
def State.cdcHeader (s : State) (lh w0 w1 : Nat) : (Nat × Option (Hdr × Nat)) × State :=
  match hdrCheck lh w0 w1 with
  | .ok h w c =>
    let s1 := s.bump Ctr.CDC_HDROK
    ((0, some (h, w)), if c = 0 then s1 else s1.bump Ctr.CDC_HDRCOR)
  | .golayFail => ((2, none), s.hdrFail Ctr.CDC_HDRGOL)
  | .hchkFail => ((3, none), s.hdrFail Ctr.CDC_HDRCHK)
  | .inv => ((4, none), s.hdrFail Ctr.CDC_HDRINV)

/-- Decode a payload (R134) with its counts; source 89 fires when the window's failed codewords reach CDC_THR.RSTHR. -/
def State.cdcPayload (s : State) (h : Hdr) (coded : List Octet) : PayloadOut × State :=
  let o := decodePayload h coded
  let s1 := ((s.bump Ctr.CDC_CWOK o.good).bump Ctr.CDC_CWSYM o.corr).bump Ctr.CDC_CWFAIL o.bad
  let n := s.cdc.rsFails + o.bad
  let thr := s.fld F.CDC_THR_RSTHR
  let s2 := { s1 with cdc := { s1.cdc with rsFails := n } }
  (o, s2.fireIf (thr != 0 && (decide (s.cdc.rsFails < thr) && decide (thr ≤ n))) 89)

/-- The requests with `r` in start-GT order, after those of the same start (R135). -/
def insertEnc (r : EncReq) : List EncReq → List EncReq
  | [] => [r]
  | x :: t => if gtDiff r.start x.start < 0 then r :: x :: t else x :: insertEnc r t

/-- Request an encode (R135). -/
def State.cdcRequest (s : State) (r : EncReq) : State :=
  { s with cdc := { s.cdc with queue := insertEnc r s.cdc.queue } }

/-- Transmission `id` needs no chips any more: its request and its chips go (R136). -/
def State.cdcDrop (s : State) (id : Nat) : State :=
  { s with cdc := { s.cdc with queue := s.cdc.queue.filter (fun (x : EncReq) => x.id != id), chips := s.cdc.chips.del id,
                               cancelled := s.cdc.cancelled.filter (fun x => x != id) } }

/-- CDC_ENCODE (R117 to R135): the request of the earliest start is encoded and its chips fill the stream buffer. -/
def execCdcEncode (s : State) : Host.Outcome State Fault Refusal :=
  .next (match s.cdc.queue with
    | [] => s
    | r :: rest =>
      ({ s with cdc := { s.cdc with queue := rest,
                                    chips := s.cdc.chips.put r.id (rails (frameChips r.lh r.hdr r.payload)) } }).bump
        Ctr.CDC_TXFRM)

/-- CDC_ENCODE_CANCEL (R136): a frame still to be encoded is dropped, and its release will not count it late. -/
def execCdcEncodeCancel (id : Nat) (s : State) : Host.Outcome State Fault Refusal :=
  .next (if s.cdc.queue.any (fun (x : EncReq) => x.id == id) then
    { s with cdc := { s.cdc with queue := s.cdc.queue.filter (fun (x : EncReq) => x.id != id), cancelled := s.cdc.cancelled ++ [id] } }
  else s)

end Sys2Proof.Machine
end

