-- ==== Sys2Proof/Machine/Sic.lean ====
section
/-! DEFINITION. SIC (chapter 08): requests, jobs, the reference store, passes, outcomes, job records. -/

namespace Sys2Proof.Machine

/-- SIC accepts requests: PD_SIC is on and no entry has begun (R145, R169). -/
def State.sicOn (s : State) : Bool := s.domReady 14

/-- PD_SIC is on: also while it drains, until step 2 of R408 ends its work (R159). -/
def State.sicPowered (s : State) : Bool :=
  (s.dom 14).mode == .on && (match (s.dom 14).seq with
    | .idle => true
    | .draining _ => true
    | _ => false)

/-- Chip rate of a global slice in kchip/s. -/
def State.gRate (s : State) (g : Nat) : Nat := chipRate (s.sliceClass (g / 128) (g % 128))

/-- The symbol period of L_H code `lh` on a global slice, in GT units. -/
def State.symGt (s : State) (g lh n : Nat) : Nat := nsToGt (n * 2 ^ (lh + 4) * 1000000 / s.gRate g) s.mainsFreq

/-- The first preamble chip of a frame by its SFD timestamp (R158). -/
def State.frameStart (s : State) (g lh sfd : Nat) : Nat := gtSub sfd (s.symGt g lh 10)

/-- The last chip of a frame by its first (R117, R158). -/
def State.frameFin (s : State) (g lh start : Nat) (h : Hdr) : Nat :=
  gtAdd start (nsToGt (frameNs lh h (s.gRate g)) s.mainsFreq)

/-- Two intervals [a, b] and [c, d] of grid time overlap. -/
def meets (a b c d : Nat) : Bool := decide (gtDiff a d ≤ 0) && decide (gtDiff c b ≤ 0)

/-- The first preamble chip of a job's earliest member (R160 step 3). -/
def winStart (ms : List Member) : Nat :=
  match ms with
  | [] => 0
  | m :: t => t.foldl (fun a x => gtMin a x.start) m.start

/-- The last chip of a job's latest member (R160 step 3). -/
def winFin (ms : List Member) : Nat :=
  match ms with
  | [] => 0
  | m :: t => t.foldl (fun a x => gtMax a x.fin) m.fin

/-- Power used to order members (R160 step 5): combined SNR on a diversity pair, else RSSI0. -/
def memberPower (div : Bool) (m : Meas) : Int := if div then m.snr else m.rssi0

/-- Members by power, strongest first. -/
def byPower (ms : List Member) : List Member := sortBy (fun a b => decide (b.power ≤ a.power)) ms

/-- Is the frame (L_H code, start) this member (log entry 20)? Same L_H and starts within one symbol period. -/
def Member.isFrame (m : Member) (lh start sym : Nat) : Bool :=
  m.lh == lh && decide ((gtDiff m.start start).natAbs < sym)

/-- The member a request makes. -/
def requestMember (q : QRec) (start fin : Nat) : Member :=
  { ref := none, qrec := some q, known := false, knownAtStart := false, lh := q.lh, start := start, fin := fin,
    power := memberPower q.div q.meas, hidden := false, subtracted := false, tried := false, decoded := false }

/-- A job whose set is `ms`: its window is that of R160 step 3. -/
def SicJob.withSet (j : SicJob) (ms : List Member) : SicJob := { j with members := ms, start := winStart ms, fin := winFin ms }

/-- Replace job `j.id`. -/
def State.putJob (s : State) (j : SicJob) : State :=
  { s with sic := { s.sic with jobs := s.sic.jobs.map (fun x => if x.id = j.id then j else x) } }

/-- The interval of a failed frame (R158): `fin` is when its lane ended, used where the header did not decode. -/
def State.requestSpan (s : State) (q : QRec) (hdr : Option Hdr) (fin : Nat) : Nat × Nat :=
  let a := s.frameStart q.slice q.lh q.sfdGt
  (a, match hdr with
    | some h => s.frameFin q.slice q.lh a h
    | none => fin)

/-- A lane's request (R145, R158): absorbed by a started job, joined to a queued one, queued, or refused. DESIGN CHOICE: until an engine
takes a job its start is its first request, so that one that ends ABORTED in the queue has QDELAY 0 (R170; log entry 152). -/
def State.sicRequest (s : State) (q : QRec) (hdr : Option Hdr) (fin ft : Nat) : State :=
  let s0 := s.bump Ctr.SIC_REQ
  let sp := s.requestSpan q hdr fin
  let m := requestMember q sp.1 sp.2
  let sym := s.symGt q.slice q.lh 1
  let started := s.sic.jobs.find? (fun j => j.phase != .queued && (j.slice == q.slice &&
    ((j.phase == .waiting && meets (winStart j.members) (winFin j.members) sp.1 sp.2) ||
      j.members.any (fun x => x.isFrame q.lh sp.1 sym))))
  match started with
  | some j =>
    let s1 := s0.bump Ctr.SIC_MERGED
    if j.phase == .waiting && !j.members.any (fun x => x.isFrame q.lh sp.1 sym) then
      s1.putJob (j.withSet (j.members ++ [m]))
    else s1
  | none =>
    match s.sic.jobs.find? (fun j => j.phase == .queued && (j.slice == q.slice &&
        meets (winStart j.members) (winFin j.members) sp.1 sp.2)) with
    | some j => (s0.bump Ctr.SIC_MERGED).putJob (j.withSet (j.members ++ [m]))
    | none =>
      if (s.sic.jobs.filter (fun (j : SicJob) => j.phase == .queued)).length < 64 then
        let j : SicJob :=
          { id := s.sic.nextJob, slice := q.slice, div := q.div, both := q.div, port := q.slice / 128, phase := .queued,
            members := [m], start := sp.1, fin := sp.2, firstFt := ft, startFt := ft, takenGt := 0, cfg := 0,
            passes := 0, hiddenFound := false, lane0 := q.lane }
        { s0 with sic := { s0.sic with jobs := s0.sic.jobs ++ [j], nextJob := j.id + 1 } }
      else (s0.bump Ctr.SIC_QFULL).fire 80

/-- A frame that ended neither OK nor offered becomes an unknown member of a job that waited for its lane (R160). DESIGN CHOICE: 'not
reported separately' is read of its request (no SIC_REQ, no SIC_MERGED); where SIC decodes it, R165 holds for it as for each member that
is decoded, and it goes to MSQ with its lane's record fields (log entry 152). -/
def State.sicLaneEnded (s : State) (q : QRec) (hdr : Option Hdr) (fin : Nat) : State :=
  let sp := s.requestSpan q hdr fin
  s.sic.jobs.foldl (fun t j =>
    if j.phase == .waiting && (j.slice == q.slice && meets (winStart j.members) (winFin j.members) sp.1 sp.2) then
      t.putJob (j.withSet (j.members ++ [requestMember q sp.1 sp.2]))
    else t) s

/-! ### The reference store (R159) -/

/-- Octets an entry takes of the 2 MiB: its header word and its coded octets (log entry 21). -/
def refSize (h : Hdr) : Nat := 3 + h.len + codewords h * parityOf h.par

/-- Evict the oldest entries until `room` octets are free; fuel is the number of entries. -/
def evictRefs (room : Nat) : Nat → List RefEntry → List RefEntry
  | 0, l => l
  | f + 1, l =>
    if l.foldl (fun n e => n + e.size) 0 + room ≤ 2097152 then l else evictRefs room f (l.drop 1)

/-- A native frame that ended OK enters the store while PD_SIC is on. -/
def State.refStore (s : State) (fr : RxFrame) (ft : Nat) : State :=
  if !s.sicPowered then s else
  let q := fr.qrec
  let a := s.frameStart q.slice q.lh q.sfdGt
  let e : RefEntry :=
    { id := s.sic.nextRef, slice := q.slice, lh := q.lh, start := a, fin := s.frameFin q.slice q.lh a fr.hdr, hdr := fr.hdr,
      payload := fr.payload, power := memberPower q.div q.meas, size := refSize fr.hdr, ft := ft }
  { s with sic := { s.sic with refs := evictRefs e.size s.sic.refs.length s.sic.refs ++ [e],
                               nextRef := e.id + 1 } }

/-- A known member from a reference entry. -/
def refMember (e : RefEntry) : Member :=
  { ref := some e.id, qrec := none, known := true, knownAtStart := true, lh := e.lh, start := e.start, fin := e.fin,
    power := e.power, hidden := false, subtracted := false, tried := false, decoded := false }

/-- Step 2 of R160: reference entries that overlap a member join, until none is added; fuel is the store's length. -/
def closeMembers (refs : List RefEntry) : Nat → List Member → List Member
  | 0, ms => ms
  | f + 1, ms =>
    match refs.find? (fun e => !ms.any (fun m => m.ref == some e.id)
        && ms.any (fun m => meets m.start m.fin e.start e.fin)) with
    | none => ms
    | some e => closeMembers refs f (ms ++ [refMember e])

/-! ### Ends -/

/-- The outcomes of R164 by code. -/
inductive SicOutcome where
  | resolved | partly | failed | tooMany | tooLong | expired | histErr | aborted
  deriving DecidableEq, Repr

/-- The codes of R164. -/
def SicOutcome.code : SicOutcome → Nat
  | .resolved => 0
  | .partly => 1
  | .failed => 2
  | .tooMany => 3
  | .tooLong => 4
  | .expired => 5
  | .histErr => 6
  | .aborted => 7

/-- The event source of an outcome, if one (chapter 08, Events). -/
def SicOutcome.src : SicOutcome → Option Nat
  | .failed => some 81
  | .tooMany => some 82
  | .tooLong => some 83
  | .expired => some 83
  | .histErr => some 84
  | .resolved => none
  | .partly => none
  | .aborted => none

/-- Bit m for each member, in power order, that satisfies `p`. -/
def memberBits (p : Member → Bool) : List Member → Nat
  | [] => 0
  | m :: t => b2n (p m) + 2 * memberBits p t

/-- A job record enters the result FIFO (R171). -/
def State.pushJobRec (s : State) (r : JobRec) : State :=
  if !s.on F.SIC_RCFG_RECORD then s
  else if 256 ≤ s.sic.fifo.length then (s.bump Ctr.SIC_RQOVF).fire 87
  else ({ s with sic := { s.sic with fifo := s.sic.fifo ++ [r] } }).fireIf s.sic.fifo.isEmpty 86

/-- A job ends (R164, R170): counted, reported, recorded and gone. -/
def State.endJob (s : State) (j : SicJob) (o : SicOutcome) : State :=
  let ms := byPower j.members
  let big := decide (3 < ms.length)
  let r : JobRec :=
    { wstart := j.start, wlen := min 65535 (gtToNs (gtDiff j.fin j.start).toNat s.mainsFreq / 1000), outcome := o.code,
      members := if big then 0 else ms.length, passes := j.passes, div := j.both,
      decoded := if big then 0 else memberBits (fun m => m.decoded) ms,
      known := if big then 0 else memberBits (fun m => m.knownAtStart) ms,
      hidden := j.hiddenFound, slice := j.slice, qdelay := min 65535 (j.startFt - j.firstFt) }
  let s1 := { s with sic := { s.sic with jobs := s.sic.jobs.filter (fun (x : SicJob) => x.id != j.id) } }
  let s2 := (s1.histDrop .sic j.id).bump (Ctr.SIC_RESOLVED + 8 * o.code)
  let s3 := match o.src with
    | some k => s2.fire k
    | none => s2
  s3.pushJobRec r

/-- How a job that ran its passes ended (R164): its unknown members are those not known at formation and those whose entry was evicted
since (R160). -/
def SicJob.result (j : SicJob) : SicOutcome :=
  let u := j.members.filter (fun m => !m.knownAtStart || m.ref.isNone)
  if u.all (fun m => m.decoded) then .resolved else if u.any (fun m => m.decoded) then .partly else .failed

/-- The member of the next pass (R162): known members first, then the strongest unknown one not tried yet. -/
def SicJob.nextMember (j : SicJob) : Option Member :=
  match j.members.find? (fun m => m.known && !m.subtracted) with
  | some m => some m
  | none => if j.members.all (fun m => m.known) then none else j.members.find? (fun m => !m.known && !m.tried)

/-! ### Start -/

/-- SIC_CFG.MAXWIN in ms as it acts. -/
def maxWinMs (cfg : Word) : Nat :=
  let n := F.SIC_CFG_MAXWIN.ext cfg
  if n = 0 then 16 else min n 60

/-- The most members a set may have (R161). -/
def maxMembers (cfg : Word) : Nat := if F.SIC_CFG_THREE.ext cfg = 1 then 3 else 2

/-- A lane holds a frame on the slice that overlaps the window (R160 step 4): it starts by its end, and ends, as far as its header
tells, at or after its start. -/
def State.laneOverlaps (s : State) (slice start fin : Nat) : Bool :=
  s.dmx.lanes.any (fun e => e.2.slice == slice && (!e.2.phy &&
    (decide (gtDiff (gtSub e.2.detGt (s.symGt slice e.2.lh 4)) fin ≤ 0) && (match e.2.hdr with
      | some h => decide (0 ≤ gtDiff (s.frameFin slice e.2.lh (s.frameStart slice e.2.lh e.2.sfdGt) h) start)
      | none => true))))

/-- Octets a job reads of the history (R166). -/
def State.jobVolume (s : State) (j : SicJob) : Nat :=
  gtToNs (gtDiff j.fin j.start).toNat s.mainsFreq * s.fld (F.RFPn_RXFS_FS (j.slice / 128)) * 4 / 1000000 * (if j.both then 2 else 1)

/-- The octets whose reading began in the millisecond that ends at `ft` (R166). -/
def State.readVolume (s : State) (ft : Nat) : Nat :=
  (s.sic.reads.filter (fun e => Nat.blt ft (e.1 + 1000))).foldl (fun n e => n + e.2) 0

/-- Starting the job would exceed 5.8 GB/s averaged over 1 ms (R166). -/
def State.readsFull (s : State) (j : SicJob) (ft : Nat) : Bool :=
  s.readVolume ft != 0 && Nat.blt 5800000 (s.readVolume ft + s.jobVolume j)

/-- The engines request the window of each port they read (R162). -/
def State.jobReads (s : State) (j : SicJob) : State :=
  let n := j.slice / 128
  let cnt := fun p => gtToNs (gtDiff j.fin j.start).toNat s.mainsFreq * s.fld (F.RFPn_RXFS_FS p) / 1000000
  let s1 := s.histRequest .sic j.id n j.start (cnt n)
  match (if j.both then s.partner n else none) with
  | some m => s1.histRequest .sic j.id m j.start (cnt m)
  | none => s1

/-- Steps 1 to 3 and 5 of R160: the job's member set and window, and how many members lost their reference entry. -/
def State.formSet (s : State) (j : SicJob) : SicJob × Nat :=
  let refs := s.sic.refs.filter (fun (e : RefEntry) => e.slice == j.slice)
  let gone := fun (m : Member) => match m.ref with
    | some r => !refs.any (fun e => e.id == r)
    | none => false
  let ms0 := j.members.map (fun m => if gone m then { m with ref := none, known := false, knownAtStart := false } else m)
  (j.withSet (byPower (closeMembers refs refs.length ms0)), (j.members.filter gone).length)

/-- Why a job ends without a pass, if it does (R161). -/
def State.verdict (s : State) (j : SicJob) : Option SicOutcome :=
  if maxWinMs j.cfg * 1000000 < gtToNs (gtDiff j.fin j.start).toNat s.mainsFreq then some .tooLong
  else if maxMembers j.cfg < j.members.length then some .tooMany
  else if 60000000 < gtToNs (gtDiff j.takenGt j.start).toNat s.mainsFreq ∧ 0 < gtDiff j.takenGt j.start then some .expired
  else none

/-- The volume that a job reads counts for 1 ms (R166). -/
def State.logReads (s : State) (ft vol : Nat) : State :=
  { s with sic := { s.sic with reads := s.sic.reads.filter (fun x => Nat.blt ft (x.1 + 1000)) ++ [(ft, vol)] } }

/-- A job that an engine has taken waits for a lane or for the read limit, ends early, or begins its passes (R160, R161, R166). DESIGN
CHOICE: SIC_THREE counts a job whose set has three members when it is formed; a hidden member that makes it three later counts only in
SIC_HIDDEN (log entry 152). -/
def State.formJob (s : State) (j : SicJob) (t : Time) : State :=
  let e := s.formSet j
  let j1 := e.1
  let s1 := s.bump Ctr.SIC_REFMISS e.2
  if s.laneOverlaps j.slice j1.start j1.fin then s1.putJob { j1 with phase := .waiting }
  else
    let run := { j1 with phase := .running }
    let s2 := s1.putJob run
    let s3 := if j1.members.length = 3 then s2.bump Ctr.SIC_THREE else s2
    match s.verdict j1 with
    | some o => s3.endJob j1 o
    | none =>
      if s.readsFull j1 t.ft then s1.putJob { j1 with phase := .waiting }
      else
        (s3.logReads t.ft (s.jobVolume j1)).jobReads run

/-- The queued job whose window ends earliest (R166). -/
def earliestJob (l : List SicJob) : Option SicJob :=
  l.foldl (fun (b : Option SicJob) (j : SicJob) => if j.phase != .queued then b else match b with
    | none => some j
    | some x => if gtDiff j.fin x.fin < 0 then some j else b) none

/-- The window end of a job has been written to the history of each port it reads (R166). -/
def State.windowWritten (s : State) (j : SicJob) : Bool :=
  let n := j.slice / 128
  let ok := fun p => Nat.ble (s.countAt p j.fin) (s.newest p)
  ok n && (match (if j.both then s.partner n else none) with
    | some m => ok m
    | none => true)

/-- Engines running a job: a job that waits for a lane keeps its engine (log entry 22). -/
def State.engBusy (s : State) : Nat := (s.sic.jobs.filter (fun (j : SicJob) => j.phase != .queued)).length

/-- The read limit alone keeps job `j` from its passes (R166). -/
def State.readHeld (s : State) (j : SicJob) : Bool :=
  let j1 := (s.formSet j).1
  !s.laneOverlaps j.slice j1.start j1.fin && ((s.verdict j1).isNone && s.readsFull j1 s.gtb.ft)

/-- A queued job as an engine that takes it now would have it. -/
def State.taken (s : State) (j : SicJob) : SicJob := { j with startFt := s.gtb.ft, takenGt := s.gtb.gt, cfg := s.reg Reg.SIC_CFG }

/-- An engine could take a job now (R166). -/
def State.engFree (s : State) : Bool := s.sicPowered && Nat.blt s.engBusy 12

/-- A job is held by the read limit (R166), which SIC_STATUS.RDHOLD shows: the next in the queue, or one whose lanes have ended. -/
def State.rdHold (s : State) : Bool :=
  (s.engFree && (match earliestJob s.sic.jobs with
    | some j => s.windowWritten j && s.readHeld (s.taken j)
    | none => false)) || s.sic.jobs.any (fun j => j.phase == .waiting && s.readHeld j)

/-- SIC_JOB_START (R160, R161, R166): an engine takes the queued job whose window ends earliest, once it is written; a job whose reads
would exceed the limit stays queued. -/
def execSicJobStart (t : Time) (s : State) : Host.Outcome State Fault Refusal :=
  let s0 := s.at t
  .next (if !s0.engFree then s0
  else match earliestJob s.sic.jobs with
    | none => s0
    | some j => if !s0.windowWritten j || s0.readHeld (s0.taken j) then s0 else (s0.bump Ctr.SIC_JOBS).formJob (s0.taken j) t)

/-- SIC_JOB_RESUME (R160 step 4): the lanes that job `id` waited for have ended. -/
def execSicJobResume (t : Time) (id : Nat) (s : State) : Host.Outcome State Fault Refusal :=
  let s0 := s.at t
  .next (match s.sic.jobs.find? (fun j => j.id == id && j.phase == .waiting) with
    | some j => s0.formJob j t
    | none => s0)

/-! ### Passes -/

/-- A hidden detection that matches no member becomes one, within R161 (R162). -/
def addHidden (cfg : Word) (div : Bool) (sym : Nat → Nat) (j : SicJob) (d : HiddenDet) : SicJob :=
  if decide (gtDiff d.start j.start < 0) || decide (gtDiff d.start j.fin > 0) || decide (maxMembers cfg ≤ j.members.length)
      || j.members.any (fun m => m.isFrame d.lh d.start (sym d.lh)) then j
  else
    let m : Member :=
      { ref := none, qrec := none, known := false, knownAtStart := false, lh := d.lh, start := d.start, fin := d.fin,
        power := memberPower div d.meas, hidden := true, subtracted := false, tried := false, decoded := false }
    { j with members := byPower (j.members ++ [m]), hiddenFound := true }

/-- The LHMASK of the hunter on a global slice. -/
def State.hunterMask (s : State) (g : Nat) : Nat :=
  (List.range 8).foldl (fun m gr => (List.range 64).foldl (fun m k =>
    let w := s.reg (Reg.DMX_GgHk gr k)
    if (F.DMX_GgHk_EN gr k).ext w = 1 ∧ (F.DMX_GgHk_SLICE gr k).ext w = g then (F.DMX_GgHk_LHMASK gr k).ext w else m) m) 0

/-- A measurement is absent (0x8000). -/
def absent (z : Int) : Bool := z == -32768

/-- The measurements of a frame that SIC decodes (R147, R153): a port that the job does not read is absent. -/
def SicJob.meas (j : SicJob) (m : Meas) : Meas :=
  { m with rssi0 := if j.div && (!j.both && j.port != j.slice / 128) then -32768 else m.rssi0,
           rssi1 := if j.div && (j.both || j.port != j.slice / 128) then m.rssi1 else -32768 }

/-- The record of a frame that SIC decodes (R165), with its SFD timestamp; DIVLOST where a port is absent (R153). DESIGN CHOICE: a member
that has no request record because its reference entry was evicted has the lane of the job's first request, RETRO 0 and RETRODLY 0, as a
hidden one has (log entry 152). -/
def sicRecord (j : SicJob) (m : Member) (p : PassDecode) (sfd : Nat) (h : Hdr) (word corr : Nat) : QRec :=
  { sfdGt := sfd, slice := j.slice, phy := false,
    retro := (m.qrec.map (fun q => q.retro)).getD false, div := j.div,
    divLost := j.div && (absent (j.meas p.meas).rssi0 || absent (j.meas p.meas).rssi1),
    lh := m.lh, lp := m.lh - h.sw, outcome := 0, sicReq := true, ovl := (m.qrec.map (fun q => q.ovl)).getD 0,
    meas := j.meas p.meas, hdr := word % 65536, corr := min 65535 corr,
    lane := (m.qrec.map (fun q => q.lane)).getD j.lane0,
    retroDly := (m.qrec.map (fun q => q.retroDly)).getD 0, node := none }

/-- Try to decode a member from the residual (R162): the frame to pass on, where every check holds. -/
def State.sicDecode (s : State) (j : SicJob) (m : Member) (p : Option PassDecode) : Option RxFrame × State :=
  match p with
  | none => (none, s)
  | some d =>
    match s.cdcHeader m.lh d.w0 d.w1 with
    | ((_, some (h, w)), s1) =>
      match s1.cdcPayload h d.coded with
      | (o, s2) =>
        match o.payload with
        | some pl =>
          let sfd := s.gtOfCount (if j.both then j.slice / 128 else j.port) d.sfd
          let a := s.frameStart j.slice m.lh sfd
          (some { search := none, qrec := sicRecord j m d sfd h w o.corr, hdr := h, payload := pl,
                  fin := s.frameFin j.slice m.lh a h }, s2)
        | none => (none, s2)
    | ((_, none), s1) => (none, s1)

/-- Replace the first member that satisfies `p`. -/
def updMember (p : Member → Bool) (f : Member → Member) : List Member → List Member
  | [] => []
  | m :: t => if p m then f m :: t else m :: updMember p f t

/-- A job goes on to its next pass, or ends (R162). -/
def State.advanceJob (s : State) (j : SicJob) : State :=
  match j.nextMember with
  | some _ => s.putJob j
  | none => s.endJob j j.result

/-- A history read of job `id` has not ended. -/
def State.jobReading (s : State) (id : Nat) : Bool := s.rfp.reads.any (fun (r : HistRead) => r.reader == .sic && r.tag == id)

/-- SIC_PASS_COMPLETE (R162): the running job `id`, whose reads have ended OK, finishes the pass of its next member. `dec` is what the
demodulation of the residual gave, `hidden` what the hidden search of the first pass found. -/
def execSicPassComplete (id : Nat) (dec : Option PassDecode) (hidden : List HiddenDet) (s : State) :
    Host.Outcome State Fault Refusal :=
  .next (match s.sic.jobs.find? (fun j => j.id == id && j.phase == .running) with
    | none => s
    | some j =>
      if s.jobReading id then s
      else match j.nextMember with
      | none => s.endJob j j.result
      | some m =>
        let isM := fun (x : Member) => x == m
        let gone := match m.ref with
          | some r => m.known && !s.sic.refs.any (fun e => e.id == r)
          | none => false
        let mask := s.hunterMask j.slice
        let search := j.passes == 0 && F.SIC_CFG_HIDDEN.ext j.cfg == 1
        let found := if search then hidden.filter (fun d => bit mask d.lh) else []
        let withHidden := fun (k : SicJob) => found.foldl (addHidden k.cfg k.div (fun lh => s.symGt k.slice lh 1)) k
        if gone then
          (s.bump Ctr.SIC_REFMISS).putJob
            { j with members := updMember isM (fun x => { x with ref := none, known := false }) j.members }
        else if m.known then
          let j1 := withHidden { j with passes := j.passes + 1,
                                        members := updMember isM (fun x => { x with subtracted := true }) j.members }
          (s.bump Ctr.SIC_HIDDEN (j1.members.length - j.members.length)).advanceJob j1
        else
          match s.sicDecode j m dec with
          | (some fr, s1) =>
            let j1 := withHidden { j with passes := j.passes + 1, members := updMember isM (fun x =>
              { x with known := true, subtracted := true, tried := true, decoded := true }) j.members }
            let s2 := { s1 with inbox := s1.inbox ++ [fr] }
            ((s2.bump Ctr.SIC_FRMOK).bump Ctr.SIC_HIDDEN (j1.members.length - j.members.length)).advanceJob j1
          | (none, s1) =>
            let j1 := withHidden { j with passes := j.passes + 1,
                                          members := updMember isM (fun x => { x with tried := true }) j.members }
            (s1.bump Ctr.SIC_HIDDEN (j1.members.length - j.members.length)).advanceJob j1)

/-- A history read of a job ended (R163): GAP or OVERWRITTEN ends the job HISTERR, but on a diversity job a gap on one
port leaves the other; one that ended FUTURE is made again. -/
def State.sicReadDone (s : State) (r : HistRead) (o : HistOutcome) : State :=
  match s.sic.jobs.find? (fun j => j.id == r.tag && j.phase == .running) with
  | none => s
  | some j =>
    if o == .ok then s
    else if o == .future then s.histAgain r
    else if o == .gap && j.both then
      s.putJob { j with both := false, port := if r.port = j.slice / 128 then (s.partner r.port).getD r.port else j.slice / 128 }
    else s.endJob j .histErr

/-- PD_SIC's entry begins (R169): queued jobs end ABORTED; running jobs complete. -/
def State.sicDrain (s : State) : State :=
  ((s.sic.jobs.filter (fun (j : SicJob) => j.phase == .queued)) : List SicJob).foldl (fun (t : State) (j : SicJob) => t.endJob j .aborted) s

/-- An uncorrectable error in an engine's buffers (R169). -/
def State.sicBufferError (s : State) (id : Nat) : State :=
  (match s.sic.jobs.find? (fun (j : SicJob) => j.id == id) with
   | some j => s.endJob j .aborted
   | none => s).fire 85 |>.reportNow 5 5 85 85

/-- REF_ENTRY_EXPIRE (R159): entries of 64 ms and more leave the store. -/
def execRefEntryExpire (t : Time) (s : State) : Host.Outcome State Fault Refusal :=
  let s0 := s.at t
  .next { s0 with sic := { s0.sic with refs := s0.sic.refs.filter (fun (e : RefEntry) => decide (t.ft < e.ft + 64000)) } }

/-- SIC_RQPOP (R171): the oldest job record goes; ignored when the FIFO is empty. -/
def execSicRqpop (rq : Req) (s : State) : Host.Outcome State Fault Refusal :=
  .next (s.gated rq Reg.SIC_RQPOP 1 (fun t => { t with sic := { t.sic with fifo := t.sic.fifo.drop 1 } }))

end Sys2Proof.Machine
end

