-- ==== Sys2Proof/Machine/Dmx.lean ====
section
/-! DEFINITION. DMX (chapter 07): hunters, lanes, outcomes, quality records, the retro queue and the mirror FIFO. -/

namespace Sys2Proof.Machine

/-- The register of hunter `h` (0 to 511). -/
def hunterReg (h : Nat) : Nat := Reg.DMX_GgHk (h / 64) (h % 64)

/-- Hunter `h` is enabled. -/
def State.hunterOn (s : State) (h : Nat) : Bool := s.on (F.DMX_GgHk_EN (h / 64) (h % 64))

/-- The global slice of hunter `h`. -/
def State.hunterSlice (s : State) (h : Nat) : Nat := s.fld (F.DMX_GgHk_SLICE (h / 64) (h % 64))

/-- Group `g` is powered and accepts claims (R151). -/
def State.groupOn (s : State) (g : Nat) : Bool := s.domReady (2 + g)

/-- Group `g` serves: at SL1 group 0 only, even once the step to SL2 has powered others (R5). -/
def State.groupServes (s : State) (g : Nat) : Bool := s.groupOn g && (g == 0 || s.level != 1)

/-- The free lanes of group `g`. -/
def State.freeLanes (s : State) (g : Nat) : List Nat :=
  if s.groupServes g then ((List.range 32).map (fun k => 32 * g + k)).filter (fun l => (s.dmx.lanes.find l).isNone) else []

/-- The free lanes of the powered groups (R150). -/
def State.freeCount (s : State) : Nat := (List.range 8).foldl (fun n g => n + (s.freeLanes g).length) 0

/-- The lane a claim of group `g` takes (R141) and whether it is borrowed; `taken` are the lanes of claims of the same cycle that come
first. The rule names the group, `pref` which of its free lanes (log entry 23). `any` drops the BORROW condition: for retro entries of a
group that drains (R151). -/
def State.pickLane (s : State) (taken : List Nat) (g pref : Nat) (any : Bool) : Option (Nat × Bool) :=
  let open_ := fun (h : Nat) => (s.freeLanes h).filter (fun l => !taken.contains l)
  let pick := fun (l : List Nat) => l[pref % l.length]?
  match pick (open_ g) with
  | some l => some (l, false)
  | none =>
    match (List.range 8).find? (fun h => h != g && (!(open_ h).isEmpty && (any || bit (s.fld F.DMX_CFG_BORROW) h))) with
    | some h => (pick (open_ h)).map (fun l => (l, true))
    | none => none

/-- Change the statistics of a slice. -/
def State.slStat (s : State) (g : Nat) (f : SliceStat → SliceStat) : State :=
  { s with dmx := { s.dmx with stats := s.dmx.stats.put g (f (s.dmx.stats.getD' g {})) } }

/-- The mirror filter selects a record (R155). -/
def State.mirrorWants (s : State) (q : QRec) : Bool :=
  match s.fld F.DMX_QCFG_MIRROR with
  | 1 => true
  | 2 => q.outcome != 0
  | 3 => q.retro
  | _ => false

/-- Copy a record into the mirror FIFO, where the filter selects it (R155). -/
def State.mirror (s : State) (q : QRec) : State :=
  if !s.mirrorWants q then s
  else if 512 ≤ s.dmx.mirror.length then (s.bump Ctr.DMX_QOVF).fire 70
  else ({ s with dmx := { s.dmx with mirror := s.dmx.mirror ++ [q] } }).fireIf s.dmx.mirror.isEmpty 69

/-- Lane `l` takes a frame; source 64 fires when no lane is left (R150). -/
def State.holdLane (s : State) (l : Nat) (x : Lane) (borrowed : Bool) : State :=
  let s1 := { s with dmx := { s.dmx with lanes := s.dmx.lanes.put l x } }
  let s2 := s1.slStat x.slice (fun z => if z.since.isSome then z else { z with since := some s.gtb.ft })
  let s3 := if borrowed then s2.bump Ctr.DMX_BORROW else s2
  s3.fireIf (s3.freeCount == 0) 64

/-- A slice and its partner's are not idle in the running millisecond (R109). -/
def State.notIdlePair (s : State) (slice : Nat) : State :=
  let s0 := s.notIdle (slice / 128) [slice % 128]
  match s.partner (slice / 128) with
  | some m => s0.notIdle m [slice % 128]
  | none => s0

/-- Lane `l` becomes IDLE. -/
def State.freeLane (s : State) (l slice : Nat) : State :=
  let s0 := s.notIdlePair slice
  let s1 := { s0 with dmx := { s0.dmx with lanes := s0.dmx.lanes.del l } }
  if s1.dmx.lanes.any (fun e => e.2.slice == slice) then s1
  else s1.slStat slice (fun z => match z.since with
    | some a => { z with busy := z.busy + (s.gtb.ft - a), since := none }
    | none => z)

/-- The counter of an outcome (chapter 07, counters); none for LANEERR. -/
def outcomeCtr (o : Nat) : Option Nat :=
  [some Ctr.DMX_OUTOK, some Ctr.DMX_NOSFD, some Ctr.DMX_HDRFAIL, some Ctr.DMX_HDRFAIL, some Ctr.DMX_HDRFAIL,
   some Ctr.DMX_RSFAIL, some Ctr.DMX_FCSFAIL, some Ctr.DMX_FADE, some Ctr.DMX_LINKLOSS, some Ctr.DMX_BLANKED,
   some Ctr.DMX_HISTGAP, some Ctr.DMX_EXPIRED].getD o none

/-- The event source of an outcome (chapter 07, Events). DESIGN CHOICE: source 66, 'a retro entry expired', fires for every outcome
EXPIRED, also that of a taken entry whose read ended OVERWRITTEN (R149; log entry 138). -/
def outcomeSrc (o : Nat) : Option Nat :=
  if o = 8 then some 67 else if o = 9 then some 68 else if o = 11 then some 66 else if o = 12 then some 73 else none

/-- An outcome is counted and fires its source. -/
def State.countOutcome (s : State) (o : Nat) : State :=
  let s1 := match outcomeCtr o with
    | some c => s.bump c
    | none => s
  match outcomeSrc o with
  | some k => s1.fire k
  | none => s1

/-- The measurements of a frame as its record gives them (R147): on a pair, a port whose weight stayed below 1/64 of the other's for the
whole frame is absent; off a pair there is no upper port. -/
def Lane.portMeas (x : Lane) : Meas :=
  { x.meas with rssi0 := if x.div && (x.weighed && !x.seen0) then -32768 else x.meas.rssi0,
                rssi1 := if x.div && (!x.weighed || x.seen1) then x.meas.rssi1 else -32768 }

/-- The quality record of a frame that a lane ends (R153). SFDGT is the detection GT where no SFD was found. DESIGN CHOICE: where the
header did not decode, LP equals LH, since no switch was read (log entry 138). -/
def laneRecord (l : Nat) (x : Lane) (o corr : Nat) (sic : Bool) : QRec :=
  { sfdGt := if x.state = 1 ∨ o = 1 ∨ o = 11 then x.detGt else x.sfdGt, slice := x.slice, phy := x.phy, retro := x.retro,
    div := x.div, divLost := x.div && (x.lostLow || x.lostHigh || absent x.portMeas.rssi0 || absent x.portMeas.rssi1),
    lh := if x.phy then 0 else x.lh,
    lp := if x.phy then 0 else x.lh - (x.hdr.map (fun h => h.sw)).getD 0, outcome := o, sicReq := sic, ovl := x.ovl,
    meas := x.portMeas, hdr := x.hdrWord % 65536,
    corr := min 65535 corr, lane := l, retroDly := min 65535 x.delay, node := none }

/-- A frame of lane `l` is offered to SIC (R145). -/
def State.offers (s : State) (x : Lane) (o : Nat) : Bool :=
  !x.phy && ((o == 2 || o == 3 || o == 5 || o == 7) && (x.ovl != 0 && s.sicOn))

/-- Lane `l` ends its frame with outcome `o` (R142, R143): counted, passed on or offered, recorded, and the lane freed; what it still
reads of the history is given up. `payload` is the decoded payload or PSDU of outcome OK. -/
def State.laneEnd (s : State) (t : Time) (l : Nat) (x : Lane) (o corr : Nat) (payload : List Octet) : State :=
  let offer := s.offers x o
  let q := laneRecord l x o corr offer
  let s1 := (s.histDrop .dmx l).freeLane l x.slice
  let s2 := s1.slStat x.slice (fun z => { z with oks := z.oks + b2n (o == 0), ovls := z.ovls + b2n (x.ovl != 0) })
  let s3 := s2.countOutcome o
  let h := x.hdr.getD { len := payload.length, par := 0, dep := 0, sw := 0 }
  if o = 0 then
    let fr : RxFrame :=
      { search := x.search, qrec := q, hdr := h, payload := payload,
        fin := if x.phy then t.gt else s.frameFin x.slice x.lh (s.frameStart x.slice x.lh x.sfdGt) h }
    if x.phy then { s3.mirror q with i3inbox := s3.i3inbox ++ [fr] }
    else
      let s4 := { s3 with inbox := s3.inbox ++ [fr] }
      if s.hunterOn x.hunter then s4.refStore fr t.ft else s4
  else
    let s4 := s3.mirror q
    if offer then (s4.bump Ctr.DMX_SICREQ).sicRequest q x.hdr t.gt t.ft
    else if x.phy then s4 else s4.sicLaneEnded q x.hdr t.gt

/-- Change the lane `l`. -/
def State.setLane (s : State) (l : Nat) (x : Lane) : State :=
  { s with dmx := { s.dmx with lanes := s.dmx.lanes.put l x } }

/-- A lane takes in what it measured (R145, R147, R153): `ws` are the Es/N0 estimates of the lower and the upper port, one pair for each 8
symbols, which are the ports' weights from then on; RISE after the SFD (the greatest rise of the mean power of 4 symbols over the
preamble, in 0.25 dB) and RATIO with the thresholds at the claim, whether each
port's weight reached 1/64 of the other's, and the length of an I3 frame. -/
def Lane.overlap (x : Lane) (rise : Int) (m : SymMeas) : Lane :=
  let r := x.state != 1 && decide ((F.DMX_THR_OVLRISE.ext x.thr : Int) < rise)
  let q := Nat.blt m.ratio (F.DMX_THR_OVLRATIO.ext x.thr)
  { x with ovl := x.ovl % 2 + 2 * b2n (r || bit x.ovl 1) + 4 * b2n (q || bit x.ovl 2),
           weighed := x.weighed || !m.ws.isEmpty,
           seen0 := x.seen0 || m.ws.any (fun w => Nat.ble w.2 (64 * w.1)),
           seen1 := x.seen1 || m.ws.any (fun w => Nat.ble w.1 (64 * w.2)),
           hdrWord := match m.len with
             | some n => if x.phy && Nat.ble 5 (n % 128) then n % 128 else x.hdrWord
             | none => x.hdrWord }

/-- The value that a lane on a pair decides for a symbol (R147): that of the greatest sum of the two ports' correlations `c`, weighted by
`w`. DESIGN CHOICE: the lowest of equal ones (log entry 151). -/
def pairSymbol (w : Nat × Nat) (c : List Int × List Int) : Nat :=
  let sums := List.zipWith (fun a b => (w.1 : Int) * a + (w.2 : Int) * b) c.1 c.2
  let top := sums.foldl max (sums.headD 0)
  sums.findIdx (fun x => x == top)

/-- The symbols that a lane on a pair decides, under weights that change every 8 symbols (R147). -/
def SymMeas.symbols (m : SymMeas) : List Nat :=
  m.pair.zipIdx.map (fun e => pairSymbol (m.ws.getD (e.2 / 8) (m.ws.getLastD (1, 1))) e.1)

/-- The two header words that a lane hands to CDC (R142): as demodulated, on a pair from the weighted sums (R147). -/
def Lane.words (x : Lane) (m : SymMeas) (w0 w1 : Nat) : Nat × Nat :=
  let word := fun (l : List Nat) => l.foldr (fun v a => v % 16 + 16 * a) 0
  if x.div && !m.pair.isEmpty then (word (m.symbols.take 6), word ((m.symbols.drop 6).take 6)) else (w0, w1)

/-- The octets of a payload or PSDU as a lane hands them on: as demodulated, on a pair from the weighted sums (R147). -/
def Lane.octets (x : Lane) (m : SymMeas) (l : List Octet) : List Octet :=
  if x.div && !m.pair.isEmpty then symbolOctets m.symbols else l

/-- What a lane had measured since its last report when something else ended its frame: free values, since no command brings them (log
entry 137). -/
def State.unreported (s : State) (x : Lane) : SymMeas :=
  { ratio := s.fresh / 2 ^ 9 % 65, ws := [(s.fresh / 2 ^ 16 % 256, s.fresh / 2 ^ 24 % 256)],
    len := if x.state = 2 then some (s.fresh / 2 ^ 32 % 128) else none, pair := [] }

/-- Something other than its own symbols ends the frame of lane `l` with outcome `o` (R145, R146, R149). -/
def State.laneCut (s : State) (t : Time) (l : Nat) (x : Lane) (o : Nat) : State :=
  (s.laneEnd t l (x.overlap (s.fresh % 512 : Nat) (s.unreported x)) o 0 []).nextFree

/-! ### Detections -/

/-- A held frame whose preamble the detection may repeat (R140): chip timings, in 1/16 chips, within 2 chips modulo the
symbol period of the detection. -/
def sameTiming (a b lh : Nat) : Bool :=
  let m := 16 * 2 ^ (lh + 4)
  let d := (a % m + m - b % m) % m
  Nat.ble d 32 || Nat.ble (m - 32) d

/-- A detection on slice `g`: its slice and its partner's are not idle in this millisecond (R109), and the assessments of either whose
window is open have met a carrier (R111). -/
def State.markCarrier (s : State) (g : Nat) : State :=
  let hit := fun (u : State) (n : Nat) =>
    let t := u.notIdle n [g % 128]
    let p := t.port n
    if p.ccas.isEmpty then t
    else t.setPort n { p with ccas := p.ccas.map (fun (c : Cca) =>
      if c.slice == g % 128 && (decide (0 ≤ gtDiff t.gtb.gt c.opn) && decide (gtDiff t.gtb.gt c.fin ≤ 0)) then { c with hit := true }
      else c) }
  let s1 := hit s (g / 128)
  match s.partner (g / 128) with
  | some m => hit s1 m
  | none => s1

/-- The hunter `h` can detect now: enabled, its group accepting, its slice enabled, its port or the partner's UP, and
the slice not blanked (R116, R137, R151). -/
def State.hunting (s : State) (h : Nat) : Bool :=
  let g := s.hunterSlice h
  let n := g / 128
  s.level != 0 && s.hunterOn h && (s.groupServes (h / 64) && (s.sliceOn n (g % 128) && (!s.blanked n (g % 128) &&
    (s.link n == 4 || (match s.partner n with
      | some m => s.link m == 4
      | none => false)))))

/-- A lane record for a detection. -/
def State.newLane (s : State) (h : Nat) (r : Retro) (retro : Bool) (delay : Nat) : Lane :=
  { state := 1, hunter := h, slice := r.slice, phy := r.phy, lh := r.lh, timing := r.timing, detGt := r.detGt,
    detFt := r.detFt, sfdGt := 0, meas := r.meas, hdr := none, hdrWord := 0, retro := retro, catchup := retro,
    delay := delay, ovl := 0, div := (s.partner (r.slice / 128)).isSome, lostLow := s.link (r.slice / 128) != 4,
    lostHigh := match s.partner (r.slice / 128) with
      | some m => s.link m != 4
      | none => false,
    thr := s.reg Reg.DMX_THR, search := r.search, waiting := false }

/-- The held frames of a slice and a new one on it overlap: SECOND (R140). -/
def State.markSecond (s : State) (g : Nat) : State :=
  { s with dmx := { s.dmx with lanes := s.dmx.lanes.mapv (fun _ x =>
      if x.slice = g then { x with ovl := x.ovl / 2 * 2 + 1 } else x) } }

/-- A lane holds a frame on the slice whose own preamble this detection may be (R140). -/
def State.ownPreamble (s : State) (g timing lh : Nat) : Bool :=
  s.dmx.lanes.any (fun e => e.2.slice == g && sameTiming timing e.2.timing lh)

/-- Hunter `h` reports a native detection of L_H code `lh` (R138, R152). -/
def State.hearsNative (s : State) (h lh : Nat) (excess : Int) (meas : Meas) : Bool :=
  let g := s.hunterSlice h
  s.hunting h && (!s.on (F.RFPn_SLk_PHY (g / 128) (g % 128)) &&
    (bit (s.fld (F.DMX_GgHk_LHMASK (h / 64) (h % 64))) lh &&
      (decide ((s.actFld (F.DMX_GgTHR_THR (h / 64)) : Int) < excess) &&
        (decide (meas.fofs.natAbs ≤ 2500) && (s.level != 1 || Nat.ble 4 lh)))))

/-- Hunter `h` reports a detection of 802.15.4 (R139). -/
def State.hearsI3 (s : State) (h : Nat) (excess : Int) (meas : Meas) : Bool :=
  let g := s.hunterSlice h
  let khz := (s.sliceCentre (g / 128) (g % 128)).natAbs
  s.hunting h && (s.on (F.RFPn_SLk_PHY (g / 128) (g % 128)) &&
    (decide ((s.actFld (F.DMX_GgTHR_THR (h / 64)) : Int) < excess) && decide (meas.fofs.natAbs * khz ≤ 100 * 10 ^ 8)))

/-- The hunter whose live detection of the cycle `now` a waiting command brings, where it is accepted (R140). -/
def State.claimant (s : State) (now : Time) : Instr → Option Nat
  | .preambleDetect t h lh timing excess meas _ =>
    if t = now ∧ s.hearsNative h lh excess meas = true ∧ s.ownPreamble (s.hunterSlice h) timing lh = false then some h else none
  | .i3ShrDetect t h timing excess meas _ =>
    if t = now ∧ s.hearsI3 h excess meas = true ∧ s.ownPreamble (s.hunterSlice h) timing 1 = false then some h else none
  | _ => none

/-- The lanes that live detections of the same cycle, still waiting as commands, take first (R141): all of them before a retro entry,
those of lower global slices before a live detection on slice `below`. -/
def State.rivalLanes (s : State) (now : Time) (below : Option Nat) : List Nat :=
  let hs := (s.pending.filterMap (s.claimant now)).filter (fun h => match below with
    | some g => Nat.blt (s.hunterSlice h) g
    | none => true)
  (sortBy (fun a b => Nat.ble (s.hunterSlice a) (s.hunterSlice b)) hs).foldl (fun taken h =>
    match s.pickLane taken (h / 64) 0 false with
    | some (l, _) => taken ++ [l]
    | none => taken) []

/-- An accepted detection claims a lane, or is queued, or dropped (R140, R141, R148 to R150). DESIGN CHOICE: SECOND is a flag of frames
that a lane holds or that a queued entry will bring; a detection that is dropped sets it on none, since R140 speaks of a detection that
claims a lane (log entry 151). -/
def State.detect (s : State) (h : Nat) (r : Retro) (pref : Nat) : State :=
  let s1 := (s.bump Ctr.DMX_DET).slStat r.slice (fun z => { z with dets := z.dets + 1 })
  match s.pickLane (s.rivalLanes { gt := r.detGt, ft := r.detFt } (some r.slice)) (h / 64) pref false with
  | some (l, b) =>
    let held := s1.dmx.lanes.any (fun e => e.2.slice == r.slice)
    let x := s1.newLane h r false 0
    if held then (s1.markSecond r.slice).holdLane l { x with ovl := 1 } b else s1.holdLane l x b
  | none =>
    let s2 := s1.bump Ctr.DMX_NOLANE
    if s.on F.DMX_CFG_RETRO && s.on F.MEM_STATUS_TRAINED then
      if s.dmx.retro.length < 64 then
        let held := s2.dmx.lanes.any (fun e => e.2.slice == r.slice)
        let s3 := if held then s2.markSecond r.slice else s2
        { s3 with dmx := { s3.dmx with retro := s3.dmx.retro ++ [{ r with second := held }] } }
      else (s2.bump Ctr.DMX_RETROOVF).fire 65
    else s2

/-- PREAMBLE_DETECT (R138, R140, R141): hunter `h` sees four c_0 symbols of L_H code `lh` whose energy lies `excess`
quarter dB above the noise floor. -/
def execPreambleDetect (t : Time) (h lh timing : Nat) (excess : Int) (meas : Meas) (pref : Nat) (s : State) :
    Host.Outcome State Fault Refusal :=
  let s0 := s.at t
  let g := s.hunterSlice h
  .next (if !s.hearsNative h lh excess meas then s0
  else
    let s1 := s0.markCarrier g
    if s.ownPreamble g timing lh then s1
    else s1.detect h { hunter := h, slice := g, phy := false, lh := lh, timing := timing, detGt := t.gt, detFt := t.ft,
                       meas := meas, search := none } pref)

/-- I3_SHR_DETECT (R139): a hunter on a slice with PHY = 1 sees four preamble symbols of 802.15.4. -/
def execI3ShrDetect (t : Time) (h timing : Nat) (excess : Int) (meas : Meas) (pref : Nat) (s : State) :
    Host.Outcome State Fault Refusal :=
  let s0 := s.at t
  let g := s.hunterSlice h
  .next (if !s.hearsI3 h excess meas then s0
  else
    let s1 := s0.markCarrier g
    if s.ownPreamble g timing 1 then s1
    else s1.detect h { hunter := h, slice := g, phy := true, lh := 1, timing := timing, detGt := t.gt, detFt := t.ft,
                       meas := meas, search := none } pref)

/-! ### Lanes -/

/-- Lane `l`, where it is in state `st`. -/
def State.laneIn (s : State) (l st : Nat) : Option Lane :=
  match s.dmx.lanes.find l with
  | some x => if x.state = st then some x else none
  | none => none

/-- The SFD timestamp of a lane (R87, R100, R154): live, the moment `stamp` at which the channelizer gave the last SFD chip, less the
receive latency of the slice on the port it hears; in catch-up, the time of the sample with port count `stamp`. -/
def State.sfdTime (s : State) (x : Lane) (stamp : Nat) : Nat :=
  let p := x.slice / 128
  let q := if s.link p = 4 then p else (s.partner p).getD p
  if x.catchup then s.gtOfCount p stamp else gtSub stamp (nsToGt (s.rxLatency q (x.slice % 128)) s.mainsFreq)

/-- SFD_FOUND (R142): the lane goes on to the header with its SFD timestamp and what it measured over the preamble. -/
def execSfdFound (l stamp : Nat) (meas : Meas) (s : State) : Host.Outcome State Fault Refusal :=
  .next (match s.laneIn l 1 with
    | some x => s.setLane l { x with state := 2, sfdGt := s.sfdTime x stamp, meas := meas }
    | none => s)

/-- SFD_TIMEOUT (R142): the lane ends NOSFD; source 72 fires when the hunter's count in the second reaches FATHR. -/
def execSfdTimeout (t : Time) (l : Nat) (s : State) : Host.Outcome State Fault Refusal :=
  let s0 := s.at t
  .next (match s.laneIn l 1 with
    | some x =>
      let n := s.dmx.noSfd.getD' x.hunter 0 + 1
      let s1 := { s0 with dmx := { s0.dmx with noSfd := s0.dmx.noSfd.put x.hunter n } }
      (s1.fireIf (n == 4 * s.fld F.DMX_THR_FATHR) 72).laneCut t l x 1
    | none => s0)

/-- CDC_HEADER_DECODE (R128, R142, R147): the two header words of a native frame in HEADER. -/
def execCdcHeaderDecode (t : Time) (l w0 w1 : Nat) (rise : Int) (m : SymMeas) (s : State) :
    Host.Outcome State Fault Refusal :=
  let s0 := s.at t
  .next (match s.laneIn l 2 with
    | some x0 =>
      if x0.phy then s0
      else
        let x := x0.overlap rise m
        match s0.cdcHeader x.lh (x0.words m w0 w1).1 (x0.words m w0 w1).2 with
        | ((_, some (h, w)), s1) => s1.setLane l { x with state := 3, hdr := some h, hdrWord := w }
        | ((o, none), s1) => s1.laneEnd t l x o 0 []
    | none => s0)

/-- LAST_PAYLOAD_SYMBOL (R142): the lane waits for the payload outcome. -/
def execLastPayloadSymbol (l : Nat) (s : State) : Host.Outcome State Fault Refusal :=
  .next (match s.laneIn l 3 with
    | some x => s.setLane l { x with waiting := true }
    | none => s)

/-- CDC_PAYLOAD_DECODE (R134, R142, R147): the coded octets, in the order sent, of a lane that passed its last symbol. -/
def execCdcPayloadDecode (t : Time) (l : Nat) (coded : List Octet) (rise : Int) (m : SymMeas) (s : State) :
    Host.Outcome State Fault Refusal :=
  let s0 := s.at t
  .next (match s.laneIn l 3 with
    | some x0 =>
      match x0.waiting, x0.hdr with
      | true, some h =>
        let x := x0.overlap rise m
        match s0.cdcPayload h (x0.octets m coded) with
        | (o, s1) =>
          match o.payload with
          | some pl => s1.laneEnd t l x 0 o.corr pl
          | none => s1.laneEnd t l x 5 o.corr []
      | _, _ => s0
    | none => s0)

/-- I3_FRAME_END (R142, R147): the PSDU of an I3 frame and its length field; 0 to 4 is HDRINV, an FCS mismatch FCSFAIL. -/
def execI3FrameEnd (t : Time) (l len : Nat) (psdu : List Octet) (rise : Int) (m : SymMeas) (s : State) :
    Host.Outcome State Fault Refusal :=
  let s0 := s.at t
  .next (match s.laneIn l 2 with
    | some x0 =>
      if !x0.phy then s0
      else
        let x := { x0.overlap rise m with hdrWord := len % 128 }
        if len % 128 ≤ 4 then s0.laneEnd t l { x with hdrWord := 0 } 4 0 []
        else
          let d := x0.octets m psdu
          if fcs16 (d.take (d.length - 2)) = leNat (d.drop (d.length - 2)) then s0.laneEnd t l x 0 0 d
          else s0.laneEnd t l x 6 0 []
    | none => s0)

/-- LANE_FADE (R144): for `n` symbols in a row the despread Es/N0 stayed at or below `esn0` quarter dB. -/
def execLaneFade (t : Time) (l n : Nat) (esn0 rise : Int) (m : SymMeas) (s : State) :
    Host.Outcome State Fault Refusal :=
  let s0 := s.at t
  .next (match s.dmx.lanes.find l with
    | some x =>
      let need := let k := F.DMX_THR_FADESYM.ext x.thr
        if k = 0 then 16 else k
      if 2 ≤ x.state ∧ need ≤ n ∧ esn0 < (F.DMX_THR_FADETHR.ext x.thr : Int) then
        s0.laneEnd t l (x.overlap rise m) 7 0 []
      else s0
    | none => s0)

/-- LANE_BUFFER_ERROR (R146): the lane ends LANEERR, and a class 5 fault is reported (R422). -/
def execLaneBufferError (t : Time) (l : Nat) (s : State) : Host.Outcome State Fault Refusal :=
  let s0 := s.at t
  .next (match s.dmx.lanes.find l with
    | some x => (s0.laneCut t l x 12).reportNow 5 4 73 73
    | none => s0)

/-- Every lane on a slice that a transmission blanks now ends BLANKED (R116, R146). -/
def State.blankLanes (s : State) (t : Time) : State :=
  s.dmx.lanes.foldl (fun u e =>
    if u.blanked (e.2.slice / 128) (e.2.slice % 128) then u.laneCut t e.1 e.2 9 else u) s

/-- Port `n` has left UP (R146): its lanes end LINKLOSS, or on a pair whose other port is UP go on with DIVLOST. -/
def State.lanesLost (s : State) (t : Time) (n : Nat) : State :=
  s.dmx.lanes.foldl (fun u e =>
    let p := e.2.slice / 128
    let m := if e.2.div then u.partner p else none
    if p != n && m != some n then u
    else
      let other := if p = n then m else some p
      if other.any (fun o => u.link o == 4) then
        u.setLane e.1 (if p = n then { e.2 with lostLow := true } else { e.2 with lostHigh := true })
      else u.laneCut t e.1 e.2 8) s

/-! ### Retro entries -/

/-- The quality record of an entry that expired (R149, R153). DESIGN CHOICE: no lane held the frame, so LANE is the lane that became
free, RETRO is 1, LP equals LH, and the measurements are the detection's (log entry 138). -/
def expiredRecord (r : Retro) (l delay : Nat) (div : Bool) : QRec :=
  { sfdGt := r.detGt, slice := r.slice, phy := r.phy, retro := true, div := div, divLost := false,
    lh := if r.phy then 0 else r.lh, lp := if r.phy then 0 else r.lh, outcome := 11, sicReq := false, ovl := b2n r.second,
    meas := { r.meas with rssi1 := if div then r.meas.rssi1 else -32768 }, hdr := 0, corr := 0, lane := l, retroDly := min 65535 delay, node := none }

/-- The lane that a retro entry takes in the cycle `now`, and whether it is borrowed (R141, R151): live detections come first. -/
def State.retroLane (s : State) (now : Time) (pref : Nat) (r : Retro) : Option (Nat × Bool) :=
  s.pickLane (s.rivalLanes now none) (r.hunter / 64) pref (!s.groupOn (r.hunter / 64))

/-- The oldest retro entry that a free lane can take (R141): one whose lanes are all held does not keep back those behind it. -/
def State.nextRetro (s : State) (now : Time) (pref : Nat) : Option (Retro × Nat × Bool) :=
  s.dmx.retro.findSome? (fun r => (s.retroLane now pref r).map (fun e => (r, e)))

/-- RETRO_ENTRY_TAKEN (R148, R149): a free lane takes the oldest entry that it serves and reads the history from the detection less 4
symbol periods, or the entry expires. -/
def execRetroEntryTaken (t : Time) (pref : Nat) (s : State) : Host.Outcome State Fault Refusal :=
  let s0 := s.at t
  .next (match s.nextRetro t pref with
    | none => s0
    | some (r, l, b) =>
      let start := gtSub r.detGt (s.symGt r.slice r.lh 4)
      let s1 := { s0 with dmx := { s0.dmx with retro := s.dmx.retro.erase r } }
      let delay := t.ft - r.detFt
      if 60000000 < gtToNs (gtDiff t.gt start).toNat s.mainsFreq ∧ 0 < gtDiff t.gt start then
        let s2 := s1.slStat r.slice (fun z => { z with ovls := z.ovls + b2n r.second })
        (s2.countOutcome 11).mirror (expiredRecord r l delay (s.partner (r.slice / 128)).isSome)
      else
        let x := { s1.newLane r.hunter r true delay with ovl := b2n r.second }
        let n := r.slice / 128
        let read := fun (u : State) (p : Nat) => u.histRequest .dmx l p start (s0.newest p + 1 - s.countAt p start)
        let s2 := read ((s1.holdLane l x b).bump Ctr.DMX_RETRO) n
        match s.partner n with
        | some m => read s2 m
        | none => s2)

/-- RETRO_CATCHUP (R148): the lane reached the newest written sample and runs on live. -/
def execRetroCatchup (l : Nat) (s : State) : Host.Outcome State Fault Refusal :=
  .next (match s.dmx.lanes.find l with
    | some x => if x.catchup then (s.histDrop .dmx l).setLane l { x with catchup := false } else s
    | none => s)

/-- A history read of a lane ended (R143, R149). On a pair the lane reads both ports: it goes on with the one that is left, and DIVLOST
(log entry 137). -/
def State.laneReadDone (s : State) (t : Time) (r : HistRead) (o : HistOutcome) : State :=
  match s.dmx.lanes.find r.tag with
  | some x =>
    let low := r.port == x.slice / 128
    let gone := fun (k : Nat) =>
      if x.div && !(if low then x.lostHigh else x.lostLow) then
        s.setLane r.tag (if low then { x with lostLow := true } else { x with lostHigh := true })
      else s.laneCut t r.tag x k
    if !x.catchup then s
    else match o with
      | .gap => gone 10
      | .overwritten => gone 11
      | .ok => s
      | .future => s
  | none => s

/-- MIRROR_POP (R155): the oldest record goes; ignored when the FIFO is empty. -/
def execMirrorPop (rq : Req) (s : State) : Host.Outcome State Fault Refusal :=
  .next (s.gated rq Reg.DMX_QPOP 1 (fun t => { t with dmx := { t.dmx with mirror := t.dmx.mirror.drop 1 } }))

/-- The octets of a quality record (R153). -/
def QRec.octets (q : QRec) : List Octet :=
  leOctets 8 q.sfdGt
  ++ leOctets 2 (q.slice % 512 + 512 * b2n q.phy + 1024 * b2n q.retro + 2048 * b2n q.div + 4096 * b2n q.divLost)
  ++ leOctets 1 (q.lh % 8 + 8 * (q.lp % 8))
  ++ leOctets 1 (q.outcome % 16 + 16 * b2n q.sicReq + 32 * (q.ovl % 8))
  ++ leOctets 2 (unsigned 16 q.meas.rssi0) ++ leOctets 2 (unsigned 16 q.meas.rssi1)
  ++ leOctets 2 (unsigned 16 q.meas.snr) ++ leOctets 2 (unsigned 16 q.meas.fofs)
  ++ leOctets 2 q.hdr ++ leOctets 2 q.corr ++ leOctets 1 q.lane ++ leOctets 1 0 ++ leOctets 2 q.retroDly
  ++ leOctets 4 (match q.node with
      | some n => n % 2 ^ 18 + 2 ^ 18
      | none => 0)

/-- The octets of a slice statistics record (R157). -/
def StatRec.octets (r : StatRec) : List Octet :=
  leOctets 2 (r.slice % 512) ++ leOctets 2 r.nf ++ leOctets 4 r.gcn ++ leOctets 2 r.busy ++ leOctets 2 r.dets ++ leOctets 2 r.oks
  ++ leOctets 2 r.ovls

/-- The octets of a job record (R170). -/
def JobRec.octets (r : JobRec) : List Octet :=
  leOctets 8 r.wstart ++ leOctets 2 r.wlen
  ++ leOctets 1 (r.outcome % 8 + 8 * (r.members % 4) + 32 * (r.passes % 4) + 128 * b2n r.div)
  ++ leOctets 1 (r.decoded % 8 + 8 * (r.known % 8) + 64 * b2n r.hidden)
  ++ leOctets 2 (r.slice % 512) ++ leOctets 2 r.qdelay

end Sys2Proof.Machine
end

