-- ==== Sys2Proof/Machine/Commit.lean ====
section
/-! DEFINITION. The safe boundary of a commit group (R50): the consistency rules of each unit and what follows when a set
becomes active. -/

namespace Sys2Proof.Machine

/-- The active word that register `a` would have under the staged set. -/
def State.newAct (s : State) (st : Staged) (a : Nat) : Word :=
  match st.vals.find a with
  | none => s.act a
  | some v =>
    let m := ((groupRegs st.unit st.grp).find? (fun r => r.1 == a)).elim (0 : Word) (fun r => r.2)
    (s.act a &&& ~~~m) ||| v

/-- A field under the staged set. -/
def State.newFld (s : State) (st : Staged) (f : Field) : Nat := f.ext (s.newAct st f.reg)

/-- Grid slots in which a template's frame and ACK must end (R178), for L_H code `lh`, MAXDUR units, slots and `g4` the
guard G in 4 µs units: everything in ns, both sides times 105 × f_nom × SPC. -/
def tplFits (cls rc txofs lh maxdur slots g4 fnom spc : Nat) : Bool :=
  let l := 2 ^ (lh + 4)
  let gap := if cls = 0 then 1000000 else 12 * l * 1000000 / rc
  let coded := if cls = 0 then 25 else 6
  let ack := (22 * l + 2 * coded * l) * 1000000 / rc
  let total := txofs * 1000 + g4 * 2000 + maxdur * 16000 + gap + ack + 150000
  Nat.ble (total * 105 * fnom * spc) (slots * 10 ^ 11)

/-- Every enabled template passes both checks of R178 under the staged set. -/
def State.templatesOk (s : State) (st : Staged) : Bool :=
  let gdef := s.newFld st F.MSQ_GUARD_GDEF
  let fnom := s.nomFreq / 1000
  (List.range 16).all (fun t =>
    let a := s.newAct st (Reg.MSQ_TPLt_A t)
    let b := s.newAct st (Reg.MSQ_TPLt_B t)
    (F.MSQ_TPLt_B_EN t).ext b == 0 ||
      (let cls := (F.MSQ_TPLt_A_CLS t).ext a
       let rc := chipRate ((F.MSQ_TPLt_A_CHCLASS t).ext a)
       let ofs := (F.MSQ_TPLt_A_TXOFS t).ext a
       let lh := (F.MSQ_TPLt_B_LH t).ext b
       let sl := (F.MSQ_TPLt_B_SL1LH t).ext b
       Nat.ble lh 5 && (Nat.ble sl 5 &&
         (tplFits cls rc ofs lh ((F.MSQ_TPLt_A_MAXDUR t).ext a) ((F.MSQ_TPLt_A_SPAN t).ext a + 1) gdef fnom s.spc &&
          tplFits cls rc ofs sl ((F.MSQ_TPLt_B_SL1MAXDUR t).ext b) ((F.MSQ_TPLt_B_SL1SPAN t).ext b + 1) (4 * gdef) fnom
            s.spc)))) 

/-- HOPLEN of class `c`. -/
def State.hopLen (s : State) (c : Nat) : Nat := min 128 (s.fld (F.MSQ_HOPcLEN_LEN c))

/-- Channel number at position `i` of the hopping list of class `c`. -/
def State.hopSeq (s : State) (c i : Nat) : Nat := (s.reg (Reg.MSQ_HOPcEj c (i / 4))).toNat / 256 ^ (i % 4) % 256

/-- The usable positions of class `c` under a mask given by its words. -/
def State.usable (s : State) (c : Nat) (mask : Nat → Word) : List Nat :=
  (List.range (s.hopLen c)).filter (fun i => bit (mask (i / 32)).toNat (i % 32))

/-- Centre in kHz of native channel `ch` of class `c` in a port's band (R119; band codes of RFPn_LINK.BAND). -/
def chanKhz (band c ch : Nat) : Nat :=
  let lo := [863000, 902000, 920000, 2400000].getD band 0
  if c = 3 then (if band = 1 then 904500 else 2405000) + 5000 * ch
  else lo + [100, 200, 600].getD c 0 + [200, 400, 1200].getD c 0 * ch

/-- The native channels of class `c` in a band (R119). -/
def chanCount (band c : Nat) : Nat :=
  ([[35, 17, 5, 0], [130, 65, 21, 5], [40, 20, 6, 0], [0, 0, 69, 16]].getD band []).getD c 0

/-- Channel `ch` of class `c` exists in a band and has its centre at `f` kHz (R119). -/
def chanAt (band c ch : Nat) (f : Int) : Bool := Nat.blt ch (chanCount band c) && f == (chanKhz band c ch : Int)

/-- Port `p` has an enabled native slice of class `c`. -/
def State.portHasClass (s : State) (p c : Nat) : Bool :=
  (List.range 128).any (fun k => s.sliceOn p k && (s.sliceClass p k == c && !s.on (F.RFPn_SLk_PHY p k)))

/-- A channel centred at `f` kHz with spacing `sp` overlaps the range of budget `k` (R205, R206). -/
def State.inBudget (s : State) (k f sp : Nat) : Bool :=
  decide (2 * f < 2 * s.fld (F.BGT_SBkF1_KHZ k) + sp) && decide (2 * s.fld (F.BGT_SBkF0_KHZ k) < 2 * f + sp)

/-- The `n` usable positions of class `c` satisfy every MODE 2 budget that a channel of its list is in (R208). -/
def State.minChOk (s : State) (c n : Nat) : Bool :=
  (List.range 16).all (fun k =>
    s.fld (F.BGT_SBkPOL_MODE k) != 2 || (Nat.ble (s.fld (F.BGT_SBkPOL_MINCH k)) n ||
      !(List.range 4).any (fun p => s.portHasClass p c && (List.range (s.hopLen c)).any (fun i =>
        Nat.blt (s.hopSeq c i) (chanCount (s.fld (F.RFPn_LINK_BAND p)) c) && s.inBudget k (chanKhz (s.fld (F.RFPn_LINK_BAND p)) c (s.hopSeq c i)) (spacing c)))))

/-- A staged set meets its unit's consistency rules (R50, R74, R115, R178, R182, R208; chapters 7, 11 and 12). -/
def State.commitOk (s : State) (st : Staged) : Bool :=
  let u := st.unit
  let g := st.grp
  if u = 2 then decide ((signed 24 (s.newFld st F.GTB_PHRES_RES)).natAbs ≤ 699051)
  else if u = 3 then Nat.ble (s.newFld st (F.RFPn_TX_TXAMP g) * s.fld (F.RFPn_TX_MAXTX g)) 32767
  else if u = 4 then Nat.ble 8 (s.newFld st (F.DMX_GgTHR_THR g)) && Nat.ble (s.newFld st (F.DMX_GgTHR_THR g)) 80
  else if u = 7 ∧ g = 0 then
    let d := s.newFld st F.MSQ_GUARD_GDEF
    let m := s.newFld st F.MSQ_GUARD_GMIN
    Nat.ble 25 m && (Nat.ble m d && (Nat.ble d 1000 && s.templatesOk st))
  else if u = 7 ∧ g = 1 then s.templatesOk st
  else if u = 7 ∧ g = 2 then
    (List.range 4).all (fun c => s.hopLen c == 0 ||
      (let n := (s.usable c (fun j => s.newAct st (Reg.MSQ_CHMcj c j))).length
       Nat.ble 1 n && s.minChOk c n))
  else if u = 9 then
    let p := s.newFld st F.SLV_POL1_BUDPCT
    let c := s.newFld st F.SLV_POL2_CHURN
    Nat.ble 1 p && (Nat.ble p 100 && (Nat.ble 1 c && (Nat.ble c 100 &&
      (s.newFld st F.SLV_POL2_MAXRXSLOT != 0 && s.newFld st F.SLV_POL2_ANNTRY != 0))))
  else if u = 10 then
    let mn := fun k => s.newFld st (F.QMG_ADMk_MIN k)
    Nat.ble ((List.range 8).foldl (fun a k => a + mn k) 0) 1024 &&
      (List.range 8).all (fun k => Nat.ble (mn k) (s.newFld st (F.QMG_ADMk_MAX k)))
  else true

/-- The commit-reject event of a unit. -/
def rejectSrc (u : Nat) : Nat :=
  if u = 2 then 40 else if u = 3 then 61 else if u = 4 then 74 else if u = 7 then 92 else if u = 9 then 129 else 145

/-- A new GAINOFS of port `n` holds for the assessments whose window has not opened (R110, R115). -/
def State.regain (s : State) (n : Nat) : State :=
  let p := s.port n
  if p.ccas.isEmpty then s
  else s.setPort n { p with ccas := p.ccas.map (fun c =>
    if gtDiff s.gtb.gt c.opn < 0 then { c with dbfs := c.thr - signed 12 (s.actFld (F.RFPn_GAIN_GAINOFS n)) } else c) }

/-- What follows when a set became active: a new residual is reached by slew (R74), after a pending step; a new gain holds for windows
that open later (R115); a new mask counts a version (R182). -/
def State.afterCommit (s old : State) (st : Staged) : State :=
  if st.unit = 2 then
    let d := signed 24 (s.actFld F.GTB_PHRES_RES) - signed 24 (old.actFld F.GTB_PHRES_RES)
    if d = 0 then s
    else if s.gtbState = 1 then
      if within50ns (s.gtb.e + d) s.mainsFreq then s.setErr (s.gtb.e + d) else s.enterSlew (s.gtb.e + d)
    else if s.gtbState = 3 then s.slewTo (s.slewLeft + d)
    else if s.gtbState = 4 then s.setErr (s.gtb.e + d)
    else s
  else if st.unit = 3 then s.regain st.grp
  else if st.unit = 7 ∧ st.grp = 2 then
    (List.range 4).foldl (fun t c =>
      if (List.range 4).any (fun j => t.act (Reg.MSQ_CHMcj c j) != old.act (Reg.MSQ_CHMcj c j)) then
        let t1 := t.setFld (F.MSQ_HOPcLEN_VER c) (t.fld (F.MSQ_HOPcLEN_VER c) + 1)
        { t1 with msq := { t1.msq with maskEc := listSet t1.msq.maskEc c (gcn t1.gtb.gt * t1.spc + slotIdx t1.spc t1.gtb.gt) } }
      else t) s
  else s

/-- The safe boundary of group `g` of unit `u`: its staged set is checked and made active, or discarded. -/
def State.commitAt (s : State) (u g : Nat) : State :=
  match s.staged.find? (fun (x : Staged) => x.unit == u && x.grp == g) with
  | none => s
  | some st =>
    if s.commitOk st then (s.activate st).afterCommit s st
    else
      let s1 := s.unstage u g
      (s1.setFld (lastRejFld u) (setBit (s1.fld (lastRejFld u)) g true)).fire (rejectSrc u)

end Sys2Proof.Machine
end

