-- ==== Sys2Proof/Machine/Qmg.lean ====
section
/-! DEFINITION. QMG (chapter 12): the pool, admission, queues, watermarks, queue and packet commands, ends, the audit. -/

namespace Sys2Proof.Machine

/-! ### Pool -/

/-- Total cells T (R245). -/
def State.totalCells (s : State) : Nat := s.fld F.QMG_TOTAL_CELLS

/-- Cells held by packets of source `k`: U_k (R247). -/
def State.usedCells (s : State) (k : Nat) : Nat :=
  s.qmg.pkts.foldl (fun n e => if e.2.src = k then n + e.2.cells.length else n) 0

/-- Free cells F. -/
def State.freeCells (s : State) : Nat :=
  s.totalCells - s.qmg.pkts.foldl (fun n e => n + e.2.cells.length) 0 - s.qmg.lost.length

/-- Packets accepted and not ended (R261). -/
def State.pktsHeld (s : State) : Nat := s.qmg.pkts.length + s.qmg.ghosts

/-- Cells that an allocation may not take. -/
def State.takenCells (s : State) : List Nat := s.qmg.pkts.flatMap (fun e => e.2.cells) ++ s.qmg.lost

/-- The first cell at or after `p`, in a circle of `t` cells, that `used` does not list; fuel is the length of `used`. -/
def freeCellFrom (used : List Nat) (t p : Nat) : Nat → Nat
  | 0 => p % t
  | f + 1 => if used.contains (p % t) then freeCellFrom used t (p + 1) f else p % t

/-- Take `n` free cells. Which ones the spec leaves open: each comes from a free value (log entry 2). -/
def takeCells (t : Nat) : Nat → List Nat → Nat → List Nat
  | 0, _, _ => []
  | n + 1, used, k =>
    let c := freeCellFrom used t (Config.freeNat k) used.length
    c :: takeCells t n (c :: used) (k + 1)

/-- The cells that `len` octets take (R246). -/
def cellsFor (len : Nat) : Nat := max 1 ((len + 255) / 256)

/-! ### Watermarks and pins (R254) -/

/-- Queue `q`. -/
def State.queue (s : State) (q : Nat) : Queue := s.qmg.queues.getD' q {}

/-- Change queue `q`. -/
def State.setQueue (s : State) (q : Nat) (x : Queue) : State :=
  { s with qmg := { s.qmg with queues := s.qmg.queues.putD {} q x } }

/-- The class of a queue (R249). -/
def queueClass (q : Nat) : Nat :=
  if q < 65536 then 0 else if q < 65552 then 1 else if q < 65584 then 2 else if q < 65600 then 3
  else if q < 65616 then 4 else if q < 65620 then 5 else 6

/-- The limits that apply to a queue (R250): LIMIT, HIWM, LOWM, FCMAP, AGE. -/
def State.queueLimits (s : State) (q : Nat) : Nat × Nat × Nat × Nat × Nat :=
  let x := s.queue q
  if x.ovr then (x.limit, x.hiwm, x.lowm, x.fcmap, x.age)
  else
    let c := queueClass q
    let l := s.fld (F.QMG_CLSc_A_LIMIT c)
    (l, l * s.fld (F.QMG_CLSc_B_HI c) / 256, l * s.fld (F.QMG_CLSc_B_LO c) / 256, s.fld (F.QMG_CLSc_A_FCMAP c),
     s.fld (F.QMG_CLSc_B_AGE c))

/-- Is FCTL_N[p] to be driven low (R254)? -/
def State.pinLow (s : State) (p : Nat) : Bool :=
  s.qmg.queues.any (fun e => e.2.wmHigh && bit (s.queueLimits e.1).2.2.2.1 p)
    || (s.on F.QMG_POOLWM_EN && (s.qmg.poolLow && s.fld F.QMG_POOLWM_PIN == p))

/-- Evaluate the pool watermark and the pins; source 132 at assertion, 135 when a pin falls. -/
def State.qmgSettle (s : State) : State :=
  let f := s.freeCells * 1024
  let low := if !s.on F.QMG_POOLWM_EN then false
    else if f ≤ s.fld F.QMG_POOLWM_LOW * s.totalCells then true
    else if s.fld F.QMG_POOLWM_HIGH * s.totalCells ≤ f then false else s.qmg.poolLow
  let s1 := ({ s with qmg := { s.qmg with poolLow := low } }).fireIf (low && !s.qmg.poolLow) 132
  let pins := (List.range 4).foldl (fun n p => if s1.pinLow p then n + 2 ^ p else n) 0
  ({ s1 with qmg := { s1.qmg with fctl := pins } }).fireIf
    ((List.range 4).any (fun p => bit pins p && !bit s.qmg.fctl p)) 135

/-- The consumer of a queue (R249), where it has banks: 0 MSQ, then HIF's ports, CSC's ports, PRC, HIF DMA, LGC's ports. -/
def consumerOf (q : Nat) : Option Nat :=
  match queueClass q with
  | 0 => some 0
  | 1 => some (1 + (q - 65536) / 8)
  | 2 => some (3 + (q - 65552) / 8)
  | 3 => some 7
  | 4 => some 8
  | 5 => some (9 + (q - 65616))
  | _ => none

/-- The queues that the consumer of `q` serves, as it serves them next: HIF and CSC highest class first, the others the one at hand. -/
def servedNext (q : Nat) : List Nat :=
  if queueClass q = 1 ∨ queueClass q = 2 then (List.range 8).map (fun c => q / 8 * 8 + 7 - c) else [q]

/-- The banks of the consumer of queue `q` after its cells have changed (R255): what was popped or ended leaves them, they swap where the
draining one is empty, and the other takes cells from the head of the queue served next, 16 at most. -/
def State.bankTurn (s : State) (q : Nat) : State :=
  match consumerOf q with
  | none => s
  | some k =>
    let next := (servedNext q).flatMap (fun j => (s.queue j).cells)
    let b := s.qmg.banks.getD' k ([], [])
    let d := b.1.filter (fun c => next.contains c)
    let f := b.2.filter (fun c => next.contains c)
    let b' := if d.isEmpty then (f, []) else (d, f)
    let more := next.filter (fun c => !(b'.1 ++ b'.2).contains c)
    let new := if b'.1.isEmpty then (more.take 16, (more.drop 16).take 16) else (b'.1, b'.2 ++ more.take (16 - b'.2.length))
    { s with qmg := { s.qmg with banks := s.qmg.banks.putD ([], []) k new } }

/-- Evaluate the watermark of queue `q` on its depth; source 134 when WMHIGH goes to 1. Its consumer's banks follow. -/
def State.wmEval (s : State) (q : Nat) : State :=
  let x := s.queue q
  let l := s.queueLimits q
  let d := x.cells.length
  let high := if l.2.1 = 0 then false else if l.2.1 ≤ d then true else if d ≤ l.2.2.1 then false else x.wmHigh
  (((s.setQueue q { x with wmHigh := high }).fireIf (high && !x.wmHigh) 134).bankTurn q).qmgSettle

/-! ### Ends (R260) -/

/-- How a packet ends. -/
inductive PktEnd where
  | deliv | tx | drop (r : Nat)
  deriving DecidableEq, Repr

/-- A packet's cells leave the queue that holds them. Where its END has not been pushed, the rest is discarded. -/
def State.unqueue (s : State) (start : Nat) (p : Pkt) : State :=
  match p.queue with
  | none => s
  | some q =>
    let x := s.queue q
    let short := p.pushed < p.cells.length && x.owner.isSome
    let y : Queue :=
      { x with cells := x.cells.filter (fun c => !p.cells.contains c),
               inprog := if x.inprog = some start then none else x.inprog,
               discard := if short then (x.owner.map (fun o => (o.1, p.cells.getLastD start))) else x.discard }
    (s.setQueue q y).wmEval q

/-- A packet ends (R260): counted, out of its queue, its cells free. Source 144 for ERROR, 142 at the drop threshold. -/
def State.endPkt (s : State) (start : Nat) (e : PktEnd) : State :=
  match s.qmg.pkts.find start with
  | none => s
  | some p =>
    let s1 := s.unqueue start p
    let s2 := { s1 with qmg := { s1.qmg with pkts := s1.qmg.pkts.del start } }
    let s3 := match e with
      | .deliv => s2.bump Ctr.QMG_DELIV
      | .tx => s2.bump Ctr.QMG_TX
      | .drop r =>
        let n := s2.qmg.drops + 1
        let s' := { s2.bump (Ctr.QMG_DROP0 + 8 * r) with qmg := { s2.qmg with drops := n } }
        (s'.fireIf (n == s.fld F.QMG_THR_DROPTHR) 142).fireIf (r == 9) 144
    s3.qmgSettle

/-! ### Admission (R247, R248) -/

/-- The shares let a packet of `n` cells of source `k` in (R247). -/
def State.admits (s : State) (k n : Nat) : Bool :=
  let t := s.totalCells
  let f := s.freeCells
  let m := fun j => s.actFld (F.QMG_ADMk_MIN j) * t / 1024
  let x := s.actFld (F.QMG_ADMk_MAX k) * t / 1024
  let u := s.usedCells k
  let need := (List.range 8).foldl (fun a j => if j = k then a else a + (m j - s.usedCells j)) 0
  Nat.ble n f && (Nat.ble (u + n) (m k) || (Nat.ble (u + n) x && Nat.ble (need + n) f))

/-- A request for `n` cells for `data` is an admission request (R246, R247): 1 to 36 cells, which hold the octets. -/
def askable (n : Nat) (data : List Octet) : Bool := Nat.ble 1 n && (Nat.ble n 36 && Nat.ble data.length (256 * n))

/-- Admit a packet of `n` cells (R246 to R248): its START where it is granted; refused, it is counted. A staged share set takes effect before
the decision. What is no admission request is neither granted nor refused. -/
def State.acceptPkt (s0 : State) (k n : Nat) (data : List Octet) (h : Holder) (info : PktInfo) : Option Nat × State :=
  let s := s0.commitAt 10 0
  if !askable n data then (none, s0)
  else if s.admits k n then
    let cells := takeCells s.totalCells n s.takenCells s.free
    let start := cells.headD 0
    let p : Pkt := { cells := cells, data := data, arr := s.gsn, src := k, holder := h, queue := none, pushed := 0,
                     info := info }
    let s1 := { s with qmg := { s.qmg with pkts := s.qmg.pkts.put start p }, free := s.free + n }
    (some start, (s1.bump (Ctr.QMG_IN0 + 8 * k)).qmgSettle)
  else
    let n' := s.qmg.refusals + 1
    let s1 := { s.bump (Ctr.QMG_REFUSE0 + 8 * k) with qmg := { s.qmg with refusals := n' } }
    (none, s1.fireIf (n' == s.fld F.QMG_THR_REFTHR) 133)

/-- Change packet `start`. -/
def State.updPkt (s : State) (start : Nat) (f : Pkt → Pkt) : State :=
  { s with qmg := { s.qmg with pkts := s.qmg.pkts.upd start f } }

/-- The 16 octets of the descriptor of cell number `i` of a packet's chain (R246). -/
def Pkt.descOctets (p : Pkt) (i : Nat) : List Octet :=
  let last := i + 1 == p.cells.length
  let used := if last then p.data.length - 256 * i else 256
  leOctets 4 (if last then 0x3FFFFFF else p.cells.getD (i + 1) 0x3FFFFFF)
  ++ leOctets 2 ((used + 255) % 256 + 256 * b2n (i == 0) + 512 * b2n last)
  ++ leOctets 2 (if i = 0 then p.data.length else 0) ++ leOctets 4 (if i = 0 then p.arr else 0)
  ++ leOctets 1 (if i = 0 then p.src else 0) ++ [0, 0, 0]

/-- The packet a cell belongs to. -/
def State.pktOf (s : State) (cell : Nat) : Option (Nat × Pkt) := s.qmg.pkts.find? (fun e => e.2.cells.contains cell)

/-- An initiator holds the packet whose START is `cell` (R510): from ALLOC or its pop of START until it ends the packet, and from its push of
START until that of END. -/
def State.holds (s : State) (rq : Req) (cell : Nat) : Bool :=
  (s.qmg.pkts.find cell).any (fun p => p.holder == .init rq.init ||
    p.queue.any (fun q => (s.queue q).owner == some (.init rq.init, cell)))

/-- The cells of packet `start` leave the queue that holds them. -/
def State.outOfQueue (s : State) (start : Nat) : State :=
  match s.qmg.pkts.find start with
  | some p => s.unqueue start p
  | none => s

/-! ### Flags that software queues mirror (R257) -/

/-- Set a flag of queue `q`: in the record, or for a software queue in its STAT register. -/
def State.flagUnderrun (s : State) (q : Nat) : State :=
  if 65620 ≤ q then s.setFlag (F.QMG_SWQnSTAT_UNDERRUN (q - 65620)) true
  else s.setQueue q { s.queue q with underrun := true }

/-- Set OVF of queue `q`. -/
def State.flagOvf (s : State) (q : Nat) : State :=
  if 65620 ≤ q then s.setFlag (F.QMG_SWQnSTAT_OVF (q - 65620)) true else s.setQueue q { s.queue q with ovf := true }

/-! ### Age (R258) -/

/-- End the packets at the head of queue `q` whose age exceeds AGE; fuel is the number of queued cells. -/
def State.ageHead (s : State) (q : Nat) : Nat → State
  | 0 => s
  | f + 1 =>
    match (s.queue q).cells with
    | [] => s
    | c :: _ =>
      match s.qmg.pkts.find c with
      | none => s
      | some p =>
        let age := (s.queueLimits q).2.2.2.2
        if age ≠ 0 ∧ gsnDiff s.gsn p.arr > (age * (s.nomFreq / 1000) * s.spc : Nat) then
          ((s.endPkt c (.drop 4)).fire 138).ageHead q f
        else s

/-- The age check of the head that a change of the queue exposed. -/
def State.ageNow (s : State) (q : Nat) : State := s.ageHead q ((s.queue q).cells.length + 1)

/-! ### Push and pop (R251 to R253) -/

/-- How a push ended: done, refused at LIMIT, refused because another producer holds the port, discarded (R256). -/
inductive PushRes where
  | done | limit | held | discarded
  deriving DecidableEq, Repr

/-- A push refused at LIMIT: OVF, QMG_OVF, source 137. -/
def State.refusePush (s : State) (q : Nat) : State := ((s.flagOvf q).bump Ctr.QMG_OVF).fire 137

/-- A whole packet goes onto queue `q` from a producer that finds the port free (R251). -/
def State.placePkt (s : State) (q start : Nat) : Bool × State :=
  match s.qmg.pkts.find start with
  | none => (false, s)
  | some p =>
    let x := s.queue q
    if (s.queueLimits q).1 < x.cells.length + p.cells.length then (false, s.refusePush q)
    else
      let s1 := s.setQueue q { x with cells := x.cells ++ p.cells }
      let s2 := s1.updPkt start (fun y => { y with queue := some q, pushed := y.cells.length, holder := .none })
      let s3 := (s2.wmEval q).fireIf (x.cells.isEmpty && Nat.ble 65620 q) 141
      (true, if x.cells.isEmpty then s3.ageNow q else s3)

/-- Hardware producers that waited for the port of queue `q` push in turn; one refused at LIMIT ends QFULL. -/
def State.serveWaits (s : State) (q : Nat) : Nat → State
  | 0 => s
  | f + 1 =>
    let x := s.queue q
    match x.owner, x.waits with
    | none, (_, st) :: rest =>
      let r := (s.setQueue q { x with waits := rest }).placePkt q st
      ((if r.1 then r.2 else r.2.endPkt st (.drop 0))).serveWaits q f
    | _, _ => s

/-- A hardware producer pushes a whole packet (R251): it waits while another producer holds the port, and ends the packet
QFULL where LIMIT refuses it. -/
def State.pushPkt (s : State) (q : Nat) (h : Holder) (start : Nat) : State :=
  let x := s.queue q
  if x.owner.isSome then s.setQueue q { x with waits := x.waits ++ [(h, start)] }
  else
    let r := s.placePkt q start
    if r.1 then r.2 else r.2.endPkt start (.drop 0)

/-- Put one cell at the tail of queue `q`; `was` is whether the queue counts as empty before the push. -/
def State.placeCell (s : State) (q cell : Nat) (was : Bool) : State :=
  let x := s.queue q
  let s1 := (s.setQueue q { x with cells := x.cells ++ [cell] }).wmEval q
  let s2 := s1.fireIf (was && Nat.ble 65620 q) 141
  if x.cells.isEmpty then s2.ageNow q else s2

/-- A producer pushes one cell (R251). A START of a packet that it holds takes the port until its END, with which its hold ends, but not that
of whoever has popped START (R510); a cell that is neither such a START nor the next one of the packet that holds the port is queued
alone (log entry 31). -/
def State.pushCell (s : State) (q : Nat) (h : Holder) (cell : Nat) (was : Bool) : PushRes × State :=
  let x := s.queue q
  match x.discard with
  | some (p, e) =>
    if p = h then
      (.discarded, if cell = e then (s.setQueue q { x with discard := none, owner := none }).serveWaits q x.waits.length
        else s)
    else (.held, s.bump Ctr.QMG_ILV)
  | none =>
    let mine := match x.owner with
      | none => true
      | some o => o.1 == h
    if !mine then (.held, s.bump Ctr.QMG_ILV)
    else
      let next := match x.owner with
        | some o => (s.qmg.pkts.find o.2).elim false (fun p => p.cells[p.pushed]? == some cell)
        | none => false
      if next then
        match x.owner with
        | some o =>
          let fin := (s.qmg.pkts.find o.2).elim true (fun p => p.pushed + 1 == p.cells.length)
          let s1 := (s.placeCell q cell was).updPkt o.2 (fun y =>
            { y with pushed := y.pushed + 1, holder := if fin ∧ x.inprog ≠ some o.2 then .none else y.holder })
          (.done, if fin then (s1.setQueue q { s1.queue q with owner := none }).serveWaits q x.waits.length else s1)
        | none => (.done, s)
      else
        match s.qmg.pkts.find cell with
        | some p =>
          if p.holder = h ∧ p.queue = none then
            if (s.queueLimits q).1 < x.cells.length + p.cells.length then (.limit, s.refusePush q)
            else
              let one := p.cells.length == 1
              let s1 := s.updPkt cell (fun y => { y with queue := some q, pushed := 1, holder := if one then .none else h })
              let s2 := if one then s1 else s1.setQueue q { x with owner := some (h, cell) }
              (.done, s2.placeCell q cell was)
          else if (s.queueLimits q).1 < x.cells.length + 1 then (.limit, s.refusePush q)
          else (.done, s.placeCell q cell was)
        | none =>
          if (s.queueLimits q).1 < x.cells.length + 1 then (.limit, s.refusePush q)
          else (.done, s.placeCell q cell was)

/-- Pop one cell of queue `q` for consumer `h` (R253): OUT keeps its value on an empty queue, and UNDERRUN is set. The
watermark is left to the caller. -/
def State.popCore (s : State) (q : Nat) (h : Holder) : State :=
  let x := s.queue q
  match x.cells with
  | [] => ((s.flagUnderrun q).bump Ctr.QMG_UNDERRUN).fire 136
  | c :: rest =>
    let pk := s.pktOf c
    let first := pk.elim false (fun e => e.1 == c)
    let last := pk.elim false (fun e => e.2.cells.getLastD 0 == c)
    let inprog := match pk with
      | some e => if last then none else some e.1
      | none => x.inprog
    let s1 := s.setQueue q { x with cells := rest, out := c, inprog := inprog }
    let s2 := match pk with
      | some e => s1.updPkt e.1 (fun p =>
          { p with holder := if first then h else p.holder, queue := if last then none else p.queue })
      | none => s1
    if 65620 ≤ q then
      ((s2.setFld (F.QMG_SWQnOUT_CELL (q - 65620)) c).setFlag (F.QMG_SWQnOUT_START (q - 65620)) first).setFlag
        (F.QMG_SWQnOUT_END (q - 65620)) last
    else s2

/-- Pop one cell, then evaluate watermark and age of the new head. -/
def State.popCell (s : State) (q : Nat) (h : Holder) : State := ((s.popCore q h).wmEval q).ageNow q

/-- A push with a pop of the same cycle before it, where there is one (R252). -/
def State.cyclePush (s : State) (q : Nat) (h : Holder) (cell : Nat) (pop : Option Holder) : PushRes × State :=
  match pop with
  | none => s.pushCell q h cell (s.queue q).cells.isEmpty
  | some c =>
    let r := (s.popCore q c).pushCell q h cell (s.queue q).cells.isEmpty
    (r.1, (r.2.wmEval q).ageNow q)

/-- A hardware consumer takes the whole packet at the head of queue `q`, where its END is queued (R253, R255). -/
def State.takePkt (s : State) (q : Nat) (h : Holder) : Option Nat × State :=
  match (s.queue q).cells with
  | [] => (none, s)
  | c :: _ =>
    match s.qmg.pkts.find c with
    | none => (none, s)
    | some p =>
      if p.pushed < p.cells.length then (none, s)
      else
        let x := s.queue q
        let s1 := s.setQueue q { x with cells := x.cells.drop p.cells.length, out := p.cells.getLastD c, inprog := none }
        let s2 := s1.updPkt c (fun y => { y with queue := none, holder := h })
        (some c, (s2.wmEval q).ageNow q)

/-- The packet at the head of queue `q` that a hardware consumer may take. -/
def State.headPkt (s : State) (q : Nat) : Option (Nat × Pkt) :=
  match (s.queue q).cells with
  | [] => none
  | c :: _ => match s.qmg.pkts.find c with
    | some p => if p.pushed < p.cells.length then none else some (c, p)
    | none => none

/-- End every packet of queue `q` with reason `r` and empty it (R256). -/
def State.flushQueue (s : State) (q r : Nat) : State :=
  let ps := s.qmg.pkts.keys.filter (fun st => (s.qmg.pkts.find st).elim false (fun p => p.queue == some q))
  let s1 := ps.foldl (fun t st => t.endPkt st (.drop r)) s
  (s1.setQueue q { s1.queue q with cells := [] }).wmEval q

/-! ### Commands of the queue record (R250, R256) -/

/-- The octets of a queue record (R250). -/
def State.queueOctets (s : State) (q : Nat) : List Octet :=
  let x := s.queue q
  let l := s.queueLimits q
  let un := if 65620 ≤ q then s.on (F.QMG_SWQnSTAT_UNDERRUN (q - 65620)) else x.underrun
  let ov := if 65620 ≤ q then s.on (F.QMG_SWQnSTAT_OVF (q - 65620)) else x.ovf
  let ends := (x.cells.filter (fun c => (s.pktOf c).elim false (fun e => e.2.cells.getLastD 0 == c))).length
  leOctets 4 l.1 ++ leOctets 4 l.2.1 ++ leOctets 4 l.2.2.1
  ++ leOctets 1 (l.2.2.2.1 % 16 + 16 * b2n x.wmHigh + 32 * b2n x.ovr) ++ leOctets 2 l.2.2.2.2
  ++ leOctets 1 (b2n un + 2 * b2n ov + 4 * b2n x.discard.isSome)
  ++ leOctets 4 x.cells.length ++ leOctets 4 ends ++ leOctets 4 (x.cells.headD 0x3FFFFFF) ++ leOctets 4 x.out

/-- A queue command completes with ERR `e`; source 140. -/
def State.qcmdDone (s : State) (e : Nat) : State := (s.setFld F.QMG_QSTAT_ERR e).fire 140

/-- The word of a queue command. -/
def qcmdWord (q op : Nat) : Word := BitVec.ofNat 32 (q % 2 ^ 17 + 2 ^ 17 * op)

/-- A queue command on a queue that exists (R256). -/
def State.qcmd (s : State) (rq : Req) (q op : Nat) (act : State → State) : State :=
  s.gated rq Reg.QMG_QCMD (qcmdWord q op) (fun t => if 65627 < q % 2 ^ 17 then t.qcmdDone 3 else act t)

/-- QCMD_READ (R256). -/
def execQcmdRead (rq : Req) (q : Nat) (s : State) : Host.Outcome State Fault Refusal :=
  .next (s.qcmd rq q 0 (fun t => (t.setRegs (Reg.QMG_QDATAw 0) (packWords 8 (t.queueOctets q))).qcmdDone 0))

/-- QCMD_WRITE (R250, R256): LIMIT, HIWM, LOWM, FCMAP and AGE from QMG_QDATA. -/
def execQcmdWrite (rq : Req) (q : Nat) (s : State) : Host.Outcome State Fault Refusal :=
  .next (s.qcmd rq q 1 (fun t =>
    let d := t.octRun (Reg.QMG_QDATAw 0) 8
    let lim := leNat (slice d 0 4) % 2 ^ 26
    let hi := leNat (slice d 4 4) % 2 ^ 26
    let lo := leNat (slice d 8 4) % 2 ^ 26
    if hi ≠ 0 ∧ hi ≤ lo then t.qcmdDone 3
    else
      let x := t.queue q
      let t1 := t.setQueue q { x with limit := lim, hiwm := hi, lowm := lo, fcmap := leNat (slice d 12 1) % 16,
                                      age := leNat (slice d 13 2), ovr := true, underrun := false, ovf := false }
      let t2 := if 65620 ≤ q then
          (t1.setFlag (F.QMG_SWQnSTAT_UNDERRUN (q - 65620)) false).setFlag (F.QMG_SWQnSTAT_OVF (q - 65620)) false
        else t1
      (t2.wmEval q).qcmdDone 0))

/-- QCMD_FLUSH (R256). -/
def execQcmdFlush (rq : Req) (q : Nat) (s : State) : Host.Outcome State Fault Refusal :=
  .next (s.qcmd rq q 2 (fun t => (t.flushQueue q 6).qcmdDone 0))

/-- QCMD_DROPREST (R256): the packet in progress, or else the one at the head, ends CMD. -/
def execQcmdDroprest (rq : Req) (q : Nat) (s : State) : Host.Outcome State Fault Refusal :=
  .next (s.qcmd rq q 3 (fun t =>
    let x := t.queue q
    let target := match x.inprog with
      | some st => some st
      | none => (x.cells.head?).bind (fun c => (t.pktOf c).map (fun e => e.1))
    match target with
    | none => t.qcmdDone 2
    | some st => ((t.endPkt st (.drop 5)).ageNow q).qcmdDone 0))

/-- QCMD_CLASS (R256): the class values apply again. -/
def execQcmdClass (rq : Req) (q : Nat) (s : State) : Host.Outcome State Fault Refusal :=
  .next (s.qcmd rq q 4 (fun t => ((t.setQueue q { t.queue q with ovr := false }).qmgSettle).qcmdDone 0))

/-! ### Pushes and pops -/

/-- QMG_ADMIT (R247, R261): `n` cells of source `k` for a hardware unit; a frame from the air counts in MSQ_RXACC too. -/
def execQmgAdmit (k n : Nat) (data : List Octet) (unit port : Nat) (s : State) : Host.Outcome State Fault Refusal :=
  .next (match s.acceptPkt k n data (.hw unit port) {} with
    | (some _, t) => if k < 2 then t.bump Ctr.MSQ_RXACC else t
    | (none, t) => t)

/-- A producer's push, with what a refusal does: software sets ILV, a hardware producer waits or ends the packet QFULL. -/
def State.pushBy (s : State) (q : Nat) (h : Holder) (cell : Nat) (pop : Option Holder) : State :=
  match h with
  | .hw _ _ =>
    if (s.queue q).owner.any (fun o => o.1 != h) then
      let t := match pop with
        | some c => s.popCell q c
        | none => s
      let x := t.queue q
      if (t.qmg.pkts.find cell).isSome then t.setQueue q { x with waits := x.waits ++ [(h, cell)] } else t
    else
      match s.cyclePush q h cell pop with
      | (.limit, t) => t.endPkt cell (.drop 0)
      | (_, t) => t
  | _ =>
    match s.cyclePush q h cell pop with
    | (.held, t) => if 65620 ≤ q then t.setFlag (F.QMG_SWQnSTAT_ILV (q - 65620)) true else t
    | (_, t) => t

/-- QUEUE_PUSH (R251, R252): producer `h` pushes a cell, `pop` a consumer's pop of the same cycle. -/
def execQueuePush (q : Nat) (h : Holder) (cell : Nat) (pop : Option Holder) (s : State) :
    Host.Outcome State Fault Refusal :=
  .next (s.pushBy q h cell pop)

/-- QUEUE_POP (R253). -/
def execQueuePop (q : Nat) (h : Holder) (s : State) : Host.Outcome State Fault Refusal := .next (s.popCell q h)

/-- SWQ_PUSH (R257): a write to QMG_SWQnIN, with a pop of the same cycle where there is one (R252). -/
def execSwqPush (rq : Req) (n cell : Nat) (pop : Option Initiator) (s : State) : Host.Outcome State Fault Refusal :=
  .next (s.gated rq (Reg.QMG_SWQnIN n) (BitVec.ofNat 32 (cell % 2 ^ 26)) (fun t =>
    t.pushBy (65620 + n) (.init rq.init) (cell % 2 ^ 26) (pop.map Holder.init)))

/-- SWQ_POP (R257): one cell into QMG_SWQnOUT. -/
def execSwqPop (rq : Req) (n : Nat) (s : State) : Host.Outcome State Fault Refusal :=
  .next (s.gated rq (Reg.QMG_SWQnCMD n) 1 (fun t => t.popCell (65620 + n) (.init rq.init)))

/-- AGE_CHECK_TICK (R258): once per second the head of queue `q` is checked. -/
def execAgeCheckTick (t : Time) (q : Nat) (s : State) : Host.Outcome State Fault Refusal := .next ((s.at t).ageNow q)

/-! ### Packet commands (R259, R510) -/

/-- A packet command ends with ERR `e`: in QMG_PKTRES, or on PRC's private port in the answer alone. -/
def State.pktDone (s : State) (priv : Bool) (e cell : Nat) : State :=
  let w : Nat := cell % 2 ^ 26 + 2 ^ 27 * e
  if priv then s.respond (leOctets 4 w) true else s.setReg Reg.QMG_PKTRES (BitVec.ofNat 32 w)

/-- Run a packet command: a write to QMG_PKTCMD, or the same on PRC's private port. -/
def State.pktCmd (s : State) (rq : Req) (priv : Bool) (cell op reason : Nat) (act : State → State) : State :=
  if priv then act s
  else s.gated rq Reg.QMG_PKTCMD (BitVec.ofNat 32 (cell % 2 ^ 26 + 2 ^ 26 * op + 2 ^ 28 * reason)) act

/-- A packet that ends outside the head of its queue: the head that this exposes is checked for age (R258). -/
def State.endAged (s : State) (start : Nat) (e : PktEnd) : State :=
  match (s.qmg.pkts.find start).bind (fun p => p.queue) with
  | some q => (s.endPkt start e).ageNow q
  | none => s.endPkt start e

/-- PKT_DELIVER (R259). -/
def execPktDeliver (rq : Req) (priv : Bool) (cell : Nat) (s : State) : Host.Outcome State Fault Refusal :=
  .next (s.pktCmd rq priv cell 0 0 (fun t =>
    if t.holds rq cell then (t.endAged cell .deliv).pktDone priv 0 0 else t.pktDone priv 1 0))

/-- PKT_DROP (R259). -/
def execPktDrop (rq : Req) (priv : Bool) (cell reason : Nat) (s : State) : Host.Outcome State Fault Refusal :=
  .next (s.pktCmd rq priv cell 1 (reason % 16) (fun t =>
    if t.holds rq cell then (t.endAged cell (.drop (reason % 16))).pktDone priv 0 0 else t.pktDone priv 1 0))

/-- PKT_FORWARD (R251, R259): the held packet goes onto the queue in QMG_PKTARG, or on PRC's private port onto `q`; refused, it stays with
the initiator. -/
def execPktForward (rq : Req) (priv : Bool) (cell q : Nat) (s : State) : Host.Outcome State Fault Refusal :=
  .next (s.pktCmd rq priv cell 2 0 (fun t =>
    let dest := if priv then q else t.fld F.QMG_PKTARG_Q
    if !t.holds rq cell then t.pktDone priv 1 0
    else if 65627 < dest then t.pktDone priv 3 0
    else
      let x := t.queue dest
      let n := (t.qmg.pkts.find cell).elim 0 (fun p => p.cells.length)
      if x.owner.any (fun o => o.1 != .init rq.init) then (t.bump Ctr.QMG_ILV).pktDone priv 2 0
      else if (t.queueLimits dest).1 < x.cells.length + n then (t.refusePush dest).pktDone priv 2 0
      else (((t.outOfQueue cell).placePkt dest cell).2).pktDone priv 0 0))

/-- PKT_ALLOC (R247, R259): QMG_PKTARG.CELLS cells for the initiator, or on PRC's private port `n`; `data` is what it then writes into them
(log entry 32). -/
def execPktAlloc (rq : Req) (priv : Bool) (n : Nat) (data : List Octet) (s : State) :
    Host.Outcome State Fault Refusal :=
  .next (s.pktCmd rq priv 0 3 0 (fun t =>
    let k := if priv then n else t.fld F.QMG_PKTARG_CELLS
    if k < 1 ∨ 36 < k then t.pktDone priv 3 0
    else
      match t.acceptPkt (if rq.init = .prc then 7 else 6) k (data.take (256 * k)) (.init rq.init) {} with
      | (some st, u) => u.pktDone priv 0 st
      | (none, u) => u.pktDone priv 2 0))

/-! ### Errors (R262, R263) -/

/-- An accounting error breaks the audit until PD_SYS is reset (R262, R435). -/
def State.auditBreak (s : State) : State :=
  ((s.setFlag F.QMG_STATUS_AUDITBRK true).fire 143).strike F.SUP_AUDIT_QMG

/-- Cells become unreachable (R262). -/
def State.loseCells (s : State) (cs : List Nat) : State :=
  ({ s with qmg := { s.qmg with lost := s.qmg.lost ++ cs } }).bump Ctr.QMG_LOSTCELLS cs.length

/-- What a unit noted of a packet goes, since the packet has ended in its hands (R260): HIF's and CSC's, FWD's intake, LGC's received entries. -/
def State.forgetPkt (s : State) (start : Nat) : State :=
  { s with hif := { s.hif with cur := s.hif.cur.filter (fun e => e.2 != start) },
           qmg := { s.qmg with intake := s.qmg.intake.filter (fun c => c != start) },
           csc := { s.csc with held := s.csc.held.filter (fun x => x.1 != start) },
           lgc := { s.lgc with inst := s.lgc.inst.map (fun (x : I3) => { x with rx := x.rx.filter (fun c => c != start) }) } }

/-- QMG_ACCOUNTING_ERROR (R262): a counter, whose value is lost, the descriptor of a free cell, a descriptor of a packet's chain, or a queue
record. -/
def execQmgAccountingError (what : AuditHit) (s : State) : Host.Outcome State Fault Refusal :=
  let s0 := (s.auditBreak).reportNow 5 10 143 143
  .next (match what with
    | .counter i => if i < 38 then (s0.setCtr (Ctr.QMG_IN0 + 8 * i) (s0.fresh % 2 ^ 48)).nextFree else s0
    | .freeCell c => if s.takenCells.contains c || Nat.ble s.totalCells c then s0 else (s0.loseCells [c]).qmgSettle
    | .chain c =>
      match s.pktOf c with
      | none => s0
      | some (st, p) =>
        let gone := p.cells.dropWhile (fun x => x != c)
        let s1 := (s0.endPkt st (.drop 9)).forgetPkt st
        (s1.loseCells gone).qmgSettle
    | .queue q =>
      let x := s.queue q
      let s1 := { s0 with qmg := { s0.qmg with struck := s0.qmg.struck ++ [(q, x.cells)] } }
      let ps := s.qmg.pkts.keys.filter (fun st => (s.qmg.pkts.find st).elim false (fun p => p.queue == some q))
      let s2 := ps.foldl (fun t st => t.updPkt st (fun p => { p with queue := none, holder := .none })) s1
      (s2.setQueue q { x with cells := [], inprog := none, owner := none, discard := none }).wmEval q)

/-- QMG_RECORD_SCAN_DONE (R262): the cells that were queued on the struck queue `q` are counted lost. -/
def execQmgRecordScanDone (q : Nat) (s : State) : Host.Outcome State Fault Refusal :=
  .next (match s.qmg.struck.find? (fun e => e.1 == q) with
    | none => s
    | some (_, cs) =>
      let cut := s.qmg.pkts.mapv (fun _ p => { p with cells := p.cells.filter (fun c => !cs.contains c) })
      let gone := (cut.filter (fun e => e.2.cells.isEmpty)).length
      let s1 := { s with qmg := { s.qmg with pkts := cut.filter (fun e => !e.2.cells.isEmpty), ghosts := s.qmg.ghosts + gone,
                                             struck := s.qmg.struck.filter (fun e => e.1 != q) } }
      (s1.loseCells cs).qmgSettle)

/-- An uncorrectable error in a packet's data is met by a consumer (R263): the packet ends ERROR. -/
def State.pktDataError (s : State) (start : Nat) : State := ((s.endPkt start (.drop 9)).forgetPkt start).reportNow 5 10 144 144

end Sys2Proof.Machine
end

