-- ==== Sys2Proof/Machine/Kvt.lean ====
section
/-! DEFINITION. KVT and CRY (chapter 15): key requests, the key store and its journal, key update messages, commands,
attestation, random numbers, jobs of the crypto engines. -/

namespace Sys2Proof.Machine

/-- The state of KVT (R312): 0 START, 1 SELFTEST, 2 LOADING, 3 READY, 4 ROLLBACK, 5 ERROR. -/
def State.kvtState (s : State) : Nat := s.fld F.KVT_STATUS_STATE

/-- KVT goes to a state of R312; FAIL_N follows (R433). -/
def State.kvtTo (s : State) (n : Nat) : State := (s.setFld F.KVT_STATUS_STATE n).drive

/-- An EMPTY slot with a reservation base. -/
def emptySlot (base : Nat) : KeySlot :=
  { key := 0, use := 0, alg := 0, origin := 0, bind := 0, any := false, active := false, ctrres := base, kumctr := 0,
    instGt := 0 }

/-- Slot `n`: EMPTY with base 0 where nothing is listed. -/
def State.slot (s : State) (n : Nat) : KeySlot := s.kvt.slots.getD' n (emptySlot 0)

/-- ACTIVE slots. -/
def State.activeSlots (s : State) : Nat := (s.kvt.slots.filter (fun e => e.2.active)).length

/-- The first security event is captured (KVT_SECEVT), source 174; a later one sets OVF. -/
def State.secEvt (s : State) (cause detail : Nat) : State :=
  if s.on F.KVT_SECEVT_VALID then s.setFlag F.KVT_SECEVT_OVF true
  else (s.setReg Reg.KVT_SECEVT (BitVec.ofNat 32 (1 + 4 * cause + 256 * (detail % 2 ^ 24)))).fire 174

/-! ### Key requests (R305, R307, R308) -/

/-- The USE a requester needs and whether the binding admits it. -/
def KeyUser.admits (u : KeyUser) (k : KeySlot) : Bool :=
  match u with
  | .link n => k.use == 1 && (!k.any && k.bind == n)
  | .beacon => k.use == 2
  | .macsec p => k.use == 3 && (k.any || k.bind % 2 == p)
  | .cascade p => k.use == 4 && (k.any || k.bind % 4 == p)
  | .general => k.use == 5

/-- Slot `n` enters the cache: most recently used; of 65,536 slots the least recently used one of USE 1 or 5 leaves, and where none may
leave, the new one does not enter. -/
def State.cachePut (s : State) (n : Nat) : State :=
  let l := s.kvt.cache.filter (fun x => x != n)
  if l.length < 65536 then { s with kvt := { s.kvt with cache := l ++ [n] } }
  else match l.find? (fun x => (s.slot x).use == 1 || (s.slot x).use == 5) with
    | some v => { s with kvt := { s.kvt with cache := l.filter (fun x => x != v) ++ [n] } }
    | none => s

/-- Octets 32 to 47 of a slot's record (R306). -/
def KeySlot.info (k : KeySlot) (n : Nat) : List Octet :=
  leOctets 1 k.use ++ leOctets 1 (k.alg + 2 * k.origin) ++ leOctets 3 (k.bind + 2 ^ 23 * b2n k.any)
  ++ leOctets 1 (b2n k.active) ++ leOctets 2 0 ++ leOctets 4 k.ctrres ++ leOctets 4 n

/-- The 48-octet plaintext record of slot `n` (R306). -/
def KeySlot.record (k : KeySlot) (n : Nat) : List Octet := leOctets 32 k.key ++ k.info n

/-- The slot that a plaintext record describes, over what KVT keeps of it outside the record (log entry 46). -/
def slotOfRecord (l : List Octet) (k : KeySlot) : KeySlot :=
  let b := leNat (slice l 34 3)
  { k with key := leNat (slice l 0 32), use := leNat (slice l 32 1) % 8, alg := leNat (slice l 33 1) % 2,
           origin := leNat (slice l 33 1) / 2 % 4, bind := b % 2 ^ 18, any := bit b 23, active := bit (leNat (slice l 37 1)) 0,
           ctrres := leNat (slice l 40 4) }

/-- The octets of the device ID. -/
def State.deviceId (s : State) : List Octet := s.octRun (Reg.KVT_DEVIDk 0) 4

/-- The root secret, as the antifuse shares give it (R302); 0 before it is burned. -/
def State.root (s : State) : Nat := s.kvt.antifuse.elim 0 rootOf

/-- The wrapped form of a record of slot `n`, 64 octets (R307). -/
def State.wrapSlot (s : State) (n : Nat) (k : KeySlot) : List Octet :=
  keyWrap (storageKey s.root s.deviceId) (k.record n) ++ leOctets 4 n ++ leOctets 4 0

/-- The wrapped form of slot `n` (R307). -/
def State.wrappedForm (s : State) (n : Nat) : List Octet := s.wrapSlot n (s.slot n)

/-- Unwrap an entry of slot `n` (R307) over what KVT keeps of the slot outside the record: none where the integrity check fails or the
SLOT inside is another. -/
def State.unwrapOver (s : State) (n : Nat) (k : KeySlot) (l : List Octet) : Option KeySlot :=
  match keyUnwrap (storageKey s.root s.deviceId) (l.take 56) with
  | some r => if leNat (slice r 44 4) = n then some (slotOfRecord r k) else none
  | none => none

/-- Unwrap the entry of slot `n` in DRAM. -/
def State.unwrapEntry (s : State) (n : Nat) (l : List Octet) : Option KeySlot := s.unwrapOver n (s.slot n) l

/-- Read slot `n` from the wrapped store (R307): an entry that is rejected leaves the slot EMPTY, cause STOREAUTH. -/
def State.readWrapped (s : State) (n : Nat) : KeySlot × State :=
  match s.kvt.wrapped.find n with
  | none => (s.slot n, s)
  | some l =>
    let k := s.unwrapEntry n l
    let x := k.getD (emptySlot (s.slot n).ctrres)
    let s1 := { s with kvt := { s.kvt with slots := s.kvt.slots.put n x, wrapped := s.kvt.wrapped.del n } }
    (x, if k.isSome then s1 else s1.secEvt 11 n)

/-- A request that gets no key. -/
def State.noKey (s : State) : Option KeySlot × State := (none, s.bump Ctr.KVT_NOKEY)

/-- KVT serves slot `n` to a requester, or returns no key (R305, R307, R308). -/
def State.keyRequest (s0 : State) (u : KeyUser) (n : Nat) : Option KeySlot × State :=
  let s := s0.bump Ctr.KVT_LOOKUP
  let k := s.slot n
  if !s.domReady 16 || s.kvtState != 3 then s.noKey
  else if s.kvt.cache.contains n then
    if k.active && u.admits k then (some k, s.cachePut n) else s.noKey
  else
    let s1 := s.bump Ctr.KVT_MISS
    if s1.on F.KVT_STATUS_CACHEONLY then s1.noKey
    else
      let r := s1.readWrapped n
      let s2 := if r.1.active then r.2.cachePut n else r.2
      if r.1.active && u.admits r.1 then (some r.1, s2) else s2.noKey

/-! ### The key store (R309, R507) -/

/-- The journal area's length A on a flash of `mib` MiB is fixed by the layout; the store holds at most this many slot
entries. `size` is the key store's length in octets. -/
def storeCapacity (size : Nat) : Nat := ((size - 8192) / 2 / 65536 * 65536 - 65536) / 64

/-- The key store's length in octets: from 0x0302_0000 to the end of the flash that XSPI names. -/
def State.storeSize (s : State) : Nat := s.kvt.flash - 0x03020000

/-- A slot has an entry in the key store (R309). -/
def KeySlot.hasEntry (k : KeySlot) : Bool := k.active || k.ctrres != 0

/-- The slots after pending changes. -/
def applyPuts (t : Tab KeySlot) (ps : List (Nat × KeySlot)) : Tab KeySlot := ps.foldl (fun a p => a.put p.1 p.2) t

/-- The store has room for the slots as they would be, entries that wait for their commit included. -/
def State.storeRoom (s : State) (ps : List (Nat × KeySlot)) : Bool :=
  let t := applyPuts (s.kvt.journal.foldl (fun a j => applyPuts a j.puts) s.kvt.slots) ps
  Nat.ble (t.filter (fun e => e.2.hasEntry)).length (storeCapacity s.storeSize)

/-- The journal entry at the front begins its writes, unless a command of the host has the flash (R481) or a dip holds it (R418, R419). -/
def State.journalStart (s : State) : State :=
  match s.kvt.journal with
  | [] => s
  | j :: t =>
    if j.started || s.hif.xcmd.isSome then s
    else if s.dipNow then (if s.pwr.held.contains .journal then s else s.holdOp .journal)
    else { s with kvt := { s.kvt with journal := { j with started := true } :: t } }

/-- Queue a journal entry. -/
def State.journalAdd (s : State) (j : Journal) : State :=
  ({ s with kvt := { s.kvt with journal := s.kvt.journal ++ [j] } }).journalStart

/-- Epoch fuses begin to burn, unless a dip holds them. -/
def State.burnStart (s : State) : State :=
  if s.kvt.burns = 0 ∨ s.kvt.burnStarted = true then s
  else if s.dipNow then (if s.pwr.held.contains .epochFuse then s else s.holdOp .epochFuse)
  else { s with kvt := { s.kvt with burnStarted := true } }

/-- The octets of a sealed record (R309; log entry 144). -/
def Sealed.octets (r : Sealed) : List Octet := leOctets 8 r.kumhw ++ leOctets 4 r.sealgen ++ leOctets 4 r.epoch ++ leOctets 8 r.jseq

/-- The record that octets hold. -/
def sealedOf (l : List Octet) : Sealed :=
  { kumhw := leNat (slice l 0 8), sealgen := leNat (slice l 8 4), epoch := leNat (slice l 12 4), jseq := leNat (slice l 16 8) }

/-- A seal page (R309): the record under the seal key with AES-256-GCM; its IV is JSEQ (log entry 144). -/
def State.sealPage (s : State) (r : Sealed) : List Octet :=
  let iv := leOctets 12 r.jseq
  let c := gcmSeal (sealKey s.root s.deviceId) iv [] r.octets
  iv ++ c.1 ++ c.2

/-- The sealed record of a seal page that authenticates. -/
def State.openPage (s : State) (l : List Octet) : Option Sealed :=
  if l.length = 52 then (gcmOpen (sealKey s.root s.deviceId) (l.take 12) [] (slice l 12 24) (l.drop 36)).map sealedOf else none

/-- The valid sealed record of the highest JSEQ (R310). -/
def State.newestSeal (s : State) (k : KeyStore) : Option Sealed :=
  match s.openPage k.page0, s.openPage k.page1 with
  | none, b => b
  | a, none => a
  | some a, some b => if b.jseq ≤ a.jseq then some a else some b

/-- Slots as entries of the key store (R309): those that have one. -/
def State.storeEntry (s : State) (p : Nat × KeySlot) : StoreEntry :=
  { wrapped := s.wrapSlot p.1 p.2, kumctr := p.2.kumctr, instGt := p.2.instGt }

/-- The slots that the key store's entries hold (R307); an entry that is rejected is EMPTY. -/
def State.storeSlots (s : State) (k : KeyStore) : Tab KeySlot :=
  k.entries.filterMap (fun e => (s.unwrapOver e.1 { emptySlot 0 with kumctr := e.2.kumctr, instGt := e.2.instGt } e.2.wrapped).map
    (fun x => (e.1, x)))

/-- The slots whose entries in the key store are rejected. -/
def State.storeBad (s : State) (k : KeyStore) : List Nat :=
  (k.entries.filter (fun e => (s.unwrapOver e.1 (emptySlot 0) e.2.wrapped).isNone)).map (fun e => e.1)

/-- A journal entry's writes (R309, R507): its slot entries go to the active area, which compacts into the other one when full; the sealed
record, with JSEQ one higher, into the page of the lower valid JSEQ or an invalid one. `whole` writes every slot's entry anew. -/
def State.storeCommit (s : State) (r : Sealed) (slots : Tab KeySlot) (puts : Tab KeySlot) (whole : Bool) : KeyStore :=
  let k := s.kvt.store
  let live := if whole then (slots.filter (fun e => e.2.hasEntry)).map (fun e => (e.1, s.storeEntry e))
    else puts.foldl (fun (t : Tab StoreEntry) p => if p.2.hasEntry then t.put p.1 (s.storeEntry p) else t.del p.1) k.entries
  let first := match s.openPage k.page0, s.openPage k.page1 with
    | none, _ => true
    | some _, none => false
    | some a, some b => Nat.ble a.jseq b.jseq
  let full := Nat.blt (storeCapacity s.storeSize) (k.fill + puts.length)
  let p := s.sealPage r
  { erased := false, page0 := if first then p else k.page0, page1 := if first then k.page1 else p,
    entries := live, area := if full then 1 - k.area else k.area, fill := if full then live.length else k.fill + puts.length }

/-- KUMHW. -/
def State.kumhw (s : State) : Nat := (s.reg Reg.KVT_KUMHW0).toNat + 2 ^ 32 * (s.reg Reg.KVT_KUMHW1).toNat

/-- Set KUMHW and its copy in PD_AON. -/
def State.setKumhw (s : State) (n : Nat) : State :=
  let s1 := (s.setReg Reg.KVT_KUMHW0 (BitVec.ofNat 32 n)).setReg Reg.KVT_KUMHW1 (BitVec.ofNat 32 (n / 2 ^ 32))
  { s1 with kvt := { s1.kvt with aonHw := some n } }

/-- Set SEALGEN and its copy in PD_AON (R35, R310). -/
def State.setSealgen (s : State) (n : Nat) : State :=
  let s1 := s.setReg Reg.KVT_SEALGEN (BitVec.ofNat 32 n)
  { s1 with kvt := { s1.kvt with aonGen := some n } }

/-- The block of R311. -/
def State.ctrBlock (s : State) : Nat := 2 ^ (12 + min 6 (s.fld F.KVT_CFG_CTRBLK))

/-- BURNED, EPOCHLOW and EPOCHOUT follow the fuses (R310); source 168 fires where one of the bits becomes set. -/
def State.epochShow (s : State) : State :=
  let n := s.kvt.fuses
  let low := Nat.ble (4096 - 64) n
  let out := Nat.ble 4096 n
  let s1 := s.setFld F.KVT_EPOCH_BURNED n
  ((s1.setFlag F.KVT_STATUS_EPOCHLOW low).setFlag F.KVT_STATUS_EPOCHOUT out).fireIf
    ((low && !s.on F.KVT_STATUS_EPOCHLOW) || (out && !s.on F.KVT_STATUS_EPOCHOUT)) 168

/-- One more fuse is burned (R310): source 167, and what KVT shows of the fuses. -/
def State.burnOne (s : State) : State :=
  State.epochShow (State.fire { s with kvt := { s.kvt with fuses := s.kvt.fuses + 1 } } 167)

/-- A self-test or a consistency test failed (R312, R325): ERROR, cause SELFTEST, source 171. -/
def State.selfFail (s : State) : State := ((s.kvtTo 5).secEvt 7 0).fire 171

/-! ### Commands (R318) -/

/-- A KVT command ends: OUTCOME, TAG, DETAIL, source 166; results other than ATTEST's and INFO's read zero. -/
def State.kvtEnd (s : State) (c : KvtCmd) (outcome detail : Nat) (res : List Octet) : State :=
  let s1 := s.setRegs (Reg.KVT_RESk 0) (packWords 56 res)
  let s2 := ((s1.setFlag F.KVT_CMDSTAT_BUSY false).setFld F.KVT_CMDSTAT_OUTCOME outcome).setFld F.KVT_CMDSTAT_TAG c.tag
  ({ (s2.setFld F.KVT_CMDSTAT_DETAIL detail) with kvt := { (s2.setFld F.KVT_CMDSTAT_DETAIL detail).kvt with cmd := none } }).fire
    166

/-- The running command waits for its journal entry. -/
def State.kvtBusy (s : State) (c : KvtCmd) : State :=
  ({ s with kvt := { s.kvt with cmd := some c } }).setFlag F.KVT_CMDSTAT_BUSY true

/-- The outcomes of R318 by name. -/
inductive KvtOutcome where
  | ok | badFmt | wrongDev | badSigner | badSig | replay | badTag | badRec | noStore | notReady | badArg | world
  deriving DecidableEq, Repr

/-- The codes of R318. -/
def KvtOutcome.code : KvtOutcome → Nat
  | .ok => 0
  | .badFmt => 1
  | .wrongDev => 2
  | .badSigner => 3
  | .badSig => 4
  | .replay => 5
  | .badTag => 6
  | .badRec => 7
  | .noStore => 8
  | .notReady => 9
  | .badArg => 10
  | .world => 11

/-- The SECEVT cause of a KUM outcome (R316), if it has one. -/
def KvtOutcome.cause : KvtOutcome → Option Nat
  | .wrongDev => some 1
  | .badSigner => some 2
  | .badSig => some 3
  | .replay => some 4
  | .badTag => some 5
  | _ => none

/-- The fused owner anchor. -/
def State.ownerAnchor (s : State) : List Octet := s.octRun (Reg.KVT_ANCHORk 0) 12

/-- The root is generated at the first power-on of the device (R302): a share drawn at random, and the root combined with it, each
with its bits at the device's own positions. -/
def State.rootBurn (s : State) : State :=
  if s.kvt.antifuse.isSome then s
  else
    let share := s.fresh % 2 ^ 256
    let s1 := s.nextFree
    let root := s1.fresh % 2 ^ 256
    State.nextFree { s1 with kvt := { s1.kvt with antifuse := some (shareStore share, shareStore (share.xor root)) } }

/-- The private key of the image transport key, while KVT holds its derived keys (R303). -/
def State.itk (s : State) : Option Nat := if s.kvt.derived then some (transportKey s.root s.deviceId) else none

/-- All octets zero. -/
def allZero (l : List Octet) : Bool := l.all (fun b => b == 0)

/-- A signer is the owner anchor. -/
def State.isOwner (s : State) (pub : List Octet) : Bool :=
  !allZero s.ownerAnchor && sha384 (spkiPrefix ++ pub) == s.ownerAnchor

/-- A signer is authorised (R315): KVT_KUMSIGNER where it is not all zero, or the owner anchor. -/
def State.signerOk (s : State) (pub : List Octet) : Bool :=
  let l := s.octRun (Reg.KVT_KUMSIGNERk 0) 12
  s.isOwner pub || (!allZero l && sha384 (spkiPrefix ++ pub) == l)

/-- A plaintext record of a KUM (R314). -/
structure KumRec where
  slot : Nat
  op : Nat
  use : Nat
  alg : Nat
  bind : Nat
  any : Bool
  key : Nat
  deriving DecidableEq, Repr

/-- Read a plaintext record; none where a zero octet or bit is not zero (R314). -/
def kumRecOf (l : List Octet) : Option KumRec :=
  let sl := leNat (slice l 0 3)
  let op := leNat (slice l 3 1)
  let use := leNat (slice l 4 1)
  let alg := leNat (slice l 5 1)
  let b := leNat (slice l 6 3)
  if sl < 2 ^ 20 ∧ op < 3 ∧ use < 8 ∧ alg < 2 ∧ b / 2 ^ 18 % 32 = 0 ∧ allZero (slice l 9 7) = true then
    some { slot := sl, op := op, use := use, alg := alg, bind := b % 2 ^ 18, any := bit b 23, key := leNat (slice l 16 32) }
  else none

/-- The fields of a record agree with R305 and R306. -/
def KumRec.fieldsOk (r : KumRec) : Bool :=
  Nat.ble 1 r.use && (Nat.ble r.use 5 && ((r.alg == 1 || r.key < 2 ^ 128) &&
    (if r.use = 2 ∨ r.use = 5 then r.any
     else if r.use = 3 then !r.any && r.bind < 2
     else if r.use = 4 then !r.any && (r.bind < 4 && r.alg == 1)
     else !r.any)))

/-- A record may act on its slot (R316 step 8). -/
def KumRec.slotOk (r : KumRec) (k : KeySlot) : Bool :=
  let same := k.use == r.use && (k.bind == r.bind && k.any == r.any)
  if r.op = 0 then !k.active
  else if r.op = 1 then k.active && same
  else k.active && (same && (k.alg == r.alg && r.key == 0))

/-- The slot after a record (R317); its CTRRES is that of the slot when the entry commits (State.journalPuts). -/
def KumRec.result (r : KumRec) (k : KeySlot) (counter gt : Nat) : KeySlot :=
  if r.op = 0 then
    { key := r.key, use := r.use, alg := r.alg, origin := 1, bind := r.bind, any := r.any, active := true,
      ctrres := k.ctrres, kumctr := counter, instGt := gt }
  else if r.op = 1 then { k with key := r.key, alg := r.alg, origin := 1, kumctr := counter }
  else emptySlot k.ctrres

/-- Check every record in order (R316 step 8): the index of the first bad one, or the slots they make. -/
def State.kumRecords (s : State) (counter : Nat) : Nat → List (List Octet) → List (Nat × KeySlot) →
    Nat ⊕ List (Nat × KeySlot)
  | _, [], acc => .inr acc
  | i, l :: t, acc =>
    match kumRecOf l with
    | none => .inl i
    | some r =>
      if r.fieldsOk && (r.slotOk (s.slot r.slot) && !acc.any (fun e => e.1 == r.slot)) then
        s.kumRecords counter (i + 1) t (acc ++ [(r.slot, r.result (s.slot r.slot) counter s.gtIfValid)])
      else .inl i

/-- The plaintext of a KUM's records (R314): key from ECDH and the one-step KDF with FixedInfo PJKUM, device ID and counter; additional
data octets 0 to 87. -/
def State.kumOpen (s : State) (d : List Octet) : Option (List Octet) :=
  match s.itk.bind (fun k => messageKey k (slice d 36 49) ([0x50, 0x4A, 0x4B, 0x55, 0x4D] ++ s.deviceId ++ slice d 24 8)) with
  | none => none
  | some key => gcmOpen key (slice d 88 12) (d.take 88) (slice d 216 (48 * leNat (slice d 6 2))) (slice d 100 16)

/-- The outcome of the checks of R316 steps 1 to 9, the failing record, and what a KUM that passes applies: its counter,
CHECKPOINT and slots. -/
def State.kumCheck (s : State) (d : List Octet) : KvtOutcome × Nat × Option (Nat × Bool × List (Nat × KeySlot)) :=
  let st := s.kvtState
  let n := leNat (slice d 6 2)
  let ctr := leNat (slice d 24 8)
  let flags := leNat (slice d 32 4)
  let pub := slice d 116 97
  let bad := fun (o : KvtOutcome) => (o, 0, none)
  if st ≠ 3 ∧ st ≠ 4 then bad .notReady
  else if slice d 0 4 ≠ [0x50, 0x4B, 0x55, 0x4D] ∨ leNat (slice d 4 2) ≠ 1 ∨ n < 1 ∨ 128 < n ∨ d.length ≠ 312 + 48 * n
      ∨ 4 ≤ flags ∨ allZero (slice d 85 3) = false ∨ allZero (slice d 213 3) = false then bad .badFmt
  else if slice d 8 16 ≠ s.deviceId then bad .wrongDev
  else if allZero s.ownerAnchor ∨ (if st = 4 then !(s.isOwner pub && bit flags 1) else !s.signerOk pub) = true then
    bad .badSigner
  else if !ecdsaP384 pub (d.take (216 + 48 * n)) (d.drop (216 + 48 * n)) then bad .badSig
  else if st = 3 ∧ ctr ≤ s.kumhw then bad .replay
  else
    match s.kumOpen d with
    | none => bad .badTag
    | some pt =>
      match s.kumRecords ctr 0 (chunks 48 n pt) [] with
      | .inl i => (.badRec, i, none)
      | .inr puts => if s.storeRoom puts then (.ok, 0, some (ctr, bit flags 0, puts)) else bad .noStore

/-- Octets 0 to 127 of an attestation statement (R320). -/
def State.statement (s : State) (kind slot : Nat) : List Octet :=
  let k := s.slot slot
  let key := kind == 0
  [0x50, 0x4A, 0x41, 0x54] ++ leOctets 2 1 ++ leOctets 2 kind ++ s.deviceId ++ s.octRun (Reg.KVT_NONCEk 0) 4
  ++ leOctets 8 s.gtIfValid ++ leOctets 4 (s.reg Reg.CFG_GEN).toNat ++ leOctets 4 (s.reg Reg.KVT_SEALGEN).toNat
  ++ leOctets 8 s.kumhw ++ leOctets 4 s.kvt.fuses
  ++ leOctets 1 (b2n (s.on F.KVT_CFG_APPROVED) + 2 * b2n (s.kvtState == 4)) ++ leOctets 3 0
  ++ leOctets 3 (if key then slot else 0) ++ leOctets 1 (if key then k.use else 0)
  ++ leOctets 1 (if key then k.alg + 2 * k.origin + 8 else 0)
  ++ leOctets 3 (if key then k.bind + 2 ^ 23 * b2n k.any else 0)
  ++ leOctets 8 (if key then k.kumctr else 0) ++ leOctets 8 (if key then k.instGt else 0)
  ++ leOctets 4 (s.reg Reg.UPD_RUNGEN).toNat ++ leOctets 28 0

/-- The identity key's signature over octets 0 to 127 of a statement (R320); its per-message number is drawn from the
DRBG (log entry 144), a free value. -/
def State.identitySign (s : State) (body : List Octet) : List Octet :=
  sigOctets (ecdsaSign (identityKey s.root s.deviceId) s.fresh (sha384 body))

/-- The DRBG serves one request (R323): counted; after 2^20 requests it reseeds. -/
def State.drbgDraw (s : State) : State :=
  let n := s.kvt.drbgReqs + 1
  let s1 := (s.bump Ctr.CRY_DRBGREQ).nextFree
  if n = 2 ^ 20 then { s1.bump Ctr.CRY_RESEEDS with kvt := { s1.kvt with drbgReqs := 0 } }
  else { s1 with kvt := { s1.kvt with drbgReqs := n } }

/-- The consistency check of a created key (R325): its record, read back, is the slot (log entry 144). -/
def KeySlot.consistent (k : KeySlot) (n : Nat) : Bool := slotOfRecord (k.record n) k == k

/-- The packet a KUM command names, where its initiator holds it (R316, R510). -/
def State.heldPkt (s : State) (rq : Req) (cell : Nat) : Option Pkt :=
  if s.holds rq cell then s.qmg.pkts.find cell else none

/-- Run a KVT command (R316 to R321); the state of KVT is judged before the command's arguments, but for the packet of a KUM, as R316
says (log entry 144). A command that needs a journal entry stays running until it commits. -/
def State.kvtRun (s : State) (c : KvtCmd) : State :=
  let st := s.kvtState
  let k := s.slot c.slot
  if c.op = 1 then
    let cell := c.arg.toNat % 2 ^ 26
    match s.heldPkt c.rq cell with
    | none => s.kvtEnd c KvtOutcome.badArg.code 0 []
    | some p =>
      if s.regionFaults c.rq 4 then
        (((s.xwFault c.rq 4 12 (cellAddr cell (s.regionBase 10)) false).endAged cell .deliv).bump Ctr.KVT_KUMREJ).fire 165
          |>.kvtEnd c KvtOutcome.world.code 0 []
      else
        let s1 := s.endAged cell .deliv
        match s.kumCheck p.data with
        | (.ok, _, some (ctr, cp, puts)) =>
          (s1.kvtBusy c).journalAdd { kind := .kum ctr cp, puts := puts, cmd := some c, started := false }
        | (o, i, _) =>
          let s2 := match o.cause with
            | some x => s1.secEvt x (leNat (slice p.data 24 3))
            | none => s1
          ((s2.bump Ctr.KVT_KUMREJ).fire 165).kvtEnd c o.code i []
  else if c.op = 2 then
    let use := F.KVT_ARG_USE.ext c.arg
    let alg := F.KVT_ARG_ALG.ext c.arg
    if st ≠ 3 ∨ s.on F.CRY_STATUS_DRBGOK = false then s.kvtEnd c KvtOutcome.notReady.code 0 []
    else if use ≠ 5 ∨ k.active = true then s.kvtEnd c KvtOutcome.badArg.code 0 []
    else
      let key := s.fresh % 2 ^ (if alg = 1 then 256 else 128)
      let n : KeySlot :=
        { key := key, use := 5, alg := alg, origin := 0, bind := 0, any := true, active := true, ctrres := k.ctrres,
          kumctr := 0, instGt := s.gtIfValid }
      if !s.storeRoom [(c.slot, n)] then s.kvtEnd c KvtOutcome.noStore.code 0 []
      else if !n.consistent c.slot then s.drbgDraw.selfFail.kvtEnd c KvtOutcome.notReady.code 0 []
      else (s.drbgDraw.kvtBusy c).journalAdd { kind := .slot, puts := [(c.slot, n)], cmd := some c, started := false }
  else if c.op = 3 then
    if st ≠ 3 then s.kvtEnd c KvtOutcome.notReady.code 0 []
    else if !k.active then s.kvtEnd c KvtOutcome.badArg.code 0 []
    else (s.kvtBusy c).journalAdd
      { kind := .slot, puts := [(c.slot, emptySlot k.ctrres)], cmd := some c, started := false }
  else if c.op = 4 then
    let kind := F.KVT_ARG_KIND.ext c.arg
    if (st ≠ 3 ∧ st ≠ 4) ∨ s.on F.CRY_STATUS_DRBGOK = false then s.kvtEnd c KvtOutcome.notReady.code 0 []
    else if kind = 0 ∧ k.active = false then s.kvtEnd c KvtOutcome.badArg.code 0 []
    else
      let body := s.statement kind c.slot
      (s.drbgDraw.bump Ctr.KVT_ATTEST).kvtEnd c 0 0 (body ++ s.identitySign body)
  else if c.op = 5 then
    if st ≠ 3 ∧ st ≠ 4 then s.kvtEnd c KvtOutcome.notReady.code 0 [] else s.kvtEnd c 0 0 (k.info c.slot)
  else if c.op = 6 then
    if st = 5 then
      let wiped := s.kvt.store.entries.map (fun e => (e.1, { wrapped := List.replicate 64 0, kumctr := 0, instGt := 0 }))
      ({ (s.kvtBusy c) with kvt := { (s.kvtBusy c).kvt with slots := [], cache := [], wrapped := [], derived := false, burns := s.kvt.burns + 1,
                                                            burnZero := true,
                                                            store := { s.kvt.store with entries := wiped } } }).burnStart
    else if st ≠ 3 ∧ st ≠ 4 ∧ s.on F.KVT_CFG_APPROVED = false then s.kvtEnd c KvtOutcome.notReady.code 0 []
    else (s.kvtBusy c).journalAdd { kind := .zeroise, puts := [], cmd := some c, started := false }
  else s.kvtEnd c KvtOutcome.badArg.code 0 []

/-- The commands that waited on PRC's private port run in turn; fuel is their number. -/
def State.kvtNext (s : State) : Nat → State
  | 0 => s
  | f + 1 =>
    if s.on F.KVT_CMDSTAT_BUSY then s
    else match s.kvt.waiting with
      | [] => s
      | c :: t => (({ s with kvt := { s.kvt with waiting := t } }).kvtRun c).kvtNext f

/-- A KVT command arrives: a write of KVT_CMD, ignored while BUSY, or one on PRC's private port, which waits and takes
accesses of the secure context only (R318, R331). -/
def State.kvtCmd (s : State) (rq : Req) (priv : Bool) (op slot tag : Nat) (arg : Word) : State :=
  let w : Word := BitVec.ofNat 32 (op + 16 * (slot % 2 ^ 20) + 2 ^ 24 * (tag % 256))
  if priv then
    if !rq.prcSecure then s.recordFault rq .world true Reg.KVT_CMD 15
    else
      let c : KvtCmd := { op := op, slot := slot % 2 ^ 20, tag := tag % 256, arg := arg, rq := rq, priv := true }
      if s.on F.KVT_CMDSTAT_BUSY then { s with kvt := { s.kvt with waiting := s.kvt.waiting ++ [c] } } else s.kvtRun c
  else s.gated rq Reg.KVT_CMD w (fun t =>
    if t.on F.KVT_CMDSTAT_BUSY then t
    else t.kvtRun { op := op, slot := slot % 2 ^ 20, tag := tag % 256, arg := t.reg Reg.KVT_ARG, rq := rq, priv := false })

/-- KVT_KUM (R316): `arg` is the argument word of a private-port command; otherwise KVT_ARG holds it. -/
def execKvtKum (rq : Req) (priv : Bool) (tag : Nat) (arg : Word) (s : State) : Host.Outcome State Fault Refusal :=
  .next (s.kvtCmd rq priv 1 0 tag arg)

/-- KVT_GENERATE (R318). -/
def execKvtGenerate (rq : Req) (priv : Bool) (slot tag : Nat) (arg : Word) (s : State) :
    Host.Outcome State Fault Refusal := .next (s.kvtCmd rq priv 2 slot tag arg)

/-- KVT_ERASE (R317, R318). -/
def execKvtErase (rq : Req) (priv : Bool) (slot tag : Nat) (s : State) : Host.Outcome State Fault Refusal :=
  .next (s.kvtCmd rq priv 3 slot tag 0)

/-- KVT_ATTEST (R320, R321). -/
def execKvtAttest (rq : Req) (priv : Bool) (slot tag : Nat) (arg : Word) (s : State) :
    Host.Outcome State Fault Refusal := .next (s.kvtCmd rq priv 4 slot tag arg)

/-- KVT_INFO (R318). -/
def execKvtInfo (rq : Req) (priv : Bool) (slot tag : Nat) (s : State) : Host.Outcome State Fault Refusal :=
  .next (s.kvtCmd rq priv 5 slot tag 0)

/-- KVT_ZEROISE (R319). -/
def execKvtZeroise (rq : Req) (priv : Bool) (tag : Nat) (s : State) : Host.Outcome State Fault Refusal :=
  .next (s.kvtCmd rq priv 6 0 tag 0)

/-! ### Commits and burns -/

/-- A ZEROISE is complete (R312, R319). In approved mode it may run in any state (R324); one that runs before LOADING is over does not
end it. -/
def State.zeroiseDone (s : State) : State :=
  let s1 := (if s.kvtState = 3 ∨ s.kvtState = 4 then s.kvtTo 3 else s).secEvt 10 0
  let s2 := { (s1.fire 175) with kvt := { (s1.fire 175).kvt with burnZero := false } }
  match s2.kvt.cmd with
  | some c => (s2.kvtEnd c 0 0 []).kvtNext s2.kvt.waiting.length
  | none => s2

/-- The reservation bases that slots have, with no key (R317, R319). -/
def keyBases (t : Tab KeySlot) : Tab KeySlot := (t.mapv (fun _ k => emptySlot k.ctrres)).filter (fun e => e.2.ctrres != 0)

/-- The counter blocks a batch advances (R311). -/
def State.advanced (s : State) (l : List Nat) : List (Nat × KeySlot) :=
  l.map (fun n => (n, { s.slot n with ctrres := min 0xFFFFFFFF ((s.slot n).ctrres + s.ctrBlock) }))

/-- The sealed generation (R509): the greater of that of the seal pages and of the copy in PD_AON. KVT in ERROR has authenticated no
page. -/
def State.sealedGen (s : State) : Nat :=
  max (if s.kvtState = 5 then 0 else (s.newestSeal s.kvt.store).elim 0 (fun r => r.sealgen)) (s.kvt.aonGen.getD 0)

/-- The slots that an entry writes: the reservation of each is the one it has now, advanced where the entry advances it (R311, R317). -/
def State.journalPuts (s : State) (base : Tab KeySlot) (j : Journal) : Tab KeySlot :=
  match j.kind with
  | .blocks l => s.advanced l
  | _ => j.puts.map (fun p => (p.1, { p.2 with ctrres := (base.getD' p.1 (emptySlot 0)).ctrres }))

/-- The outgoing counters after an entry: a slot that becomes ACTIVE starts at its reservation base; one whose block advances before its
first use since a start keeps the value at which it resumes (R311). -/
def State.outAfter (s : State) (base puts : Tab KeySlot) (j : Journal) : Tab Nat :=
  match j.kind with
  | .blocks l => l.foldl (fun t n => if (t.find n).isSome then t else t.put n (s.slot n).ctrres) s.msq.out
  | _ => (puts.filter (fun (p : Nat × KeySlot) => p.2.active && !(base.getD' p.1 (emptySlot 0)).active)).foldl
      (fun t p => t.del p.1) s.msq.out

/-- A journal entry commits (R309 to R311, R316, R317): its slots and sealed record take effect at once. The outgoing counter of a
slot that becomes ACTIVE starts at its reservation base. -/
def State.journalApply (s : State) (j : Journal) : State :=
  let rb := s.kvtState == 4
  let base : Tab KeySlot := if j.kind = .zeroise then keyBases (if s.kvtState < 3 then s.storeSlots s.kvt.store else s.kvt.slots)
    else s.kvt.slots
  let puts := s.journalPuts base j
  let slots := applyPuts base puts
  let last := s.newestSeal s.kvt.store
  let hw := match j.kind with
    | .kum c _ => c
    | _ => if s.kvtState < 3 then max s.kumhw (max ((s.kvt.aonHw).getD 0) (last.elim 0 (fun r => r.kumhw))) else s.kumhw
  let cp := match j.kind with
    | .kum _ b => b
    | .zeroise => true
    | _ => false
  let up := s.kvt.newGen.isSome
  let e := if (cp || up) && Nat.blt (s.kvt.fuses + s.kvt.burns) 4096 then 1 else 0
  let r : Sealed := { kumhw := hw, sealgen := max (s.reg Reg.KVT_SEALGEN).toNat (if s.kvtState < 3 then s.sealedGen else 0),
                      epoch := s.kvt.fuses + s.kvt.burns + e, jseq := max s.kvt.jseq (last.elim 0 (fun x => x.jseq)) + 1 }
  let z := j.kind == .zeroise
  let s1 := { s with kvt := { s.kvt with
    slots := slots, cache := (if z then [] else s.kvt.cache).filter (fun n => (slots.getD' n (emptySlot 0)).active),
    wrapped := s.kvt.wrapped.filter (fun e => !(z || puts.any (fun p => p.1 == e.1))), jseq := r.jseq, newGen := none,
    store := s.storeCommit r slots puts (z || rb), burns := s.kvt.burns + e,
    burnZero := s.kvt.burnZero || (z && e == 1) } }
  let s2 := (({ s1 with msq := { s1.msq with out := s.outAfter base puts j } }).setKumhw hw).bump Ctr.KVT_JOURNAL
  let s3 := puts.foldl (fun t p => if p.2.active && j.kind != .sealgen then t.cachePut p.1 else t) s2
  let s4 := match j.kind with
    | .blocks l => s3.bump Ctr.KVT_CTRBLK l.length
    | .kum _ _ => ((if rb then s3.kvtTo 3 else s3).bump Ctr.KVT_KUMOK).fire 164
    | .zeroise => if e = 0 then s3.zeroiseDone else s3
    | .slot => s3
    | .sealgen => s3
  let s5 := match j.cmd with
    | some c => if z then s4 else (s4.kvtEnd c 0 0 []).kvtNext s4.kvt.waiting.length
    | none => s4
  s5.burnStart

/-- A journal entry fails to commit and has no effect (R309): its command ends NOSTORE (R316 step 10); a new sealed generation is journalled
again, a counter block when MSQ asks again (log entry 144). -/
def State.journalFail (s : State) (j : Journal) : State :=
  let s1 := match j.kind with
    | .kum _ _ => (s.bump Ctr.KVT_KUMREJ).fire 165
    | .sealgen => { s with kvt := { s.kvt with journal := s.kvt.journal ++ [{ j with started := false }] } }
    | _ => s
  match j.cmd with
  | some c => (s1.kvtEnd c KvtOutcome.noStore.code 0 []).kvtNext s1.kvt.waiting.length
  | none => s1

/-- A flash write of the entry at the front fails, so that it does not commit; the next begins. -/
def State.journalWriteFails (s : State) : State :=
  match s.kvt.journal with
  | [] => s
  | j :: t => if j.started then (State.journalFail { s with kvt := { s.kvt with journal := t } } j).journalStart else s

/-- EPOCH_FUSE_BURN (R310): one of the fuses due is burned. -/
def execEpochFuseBurn (s : State) : Host.Outcome State Fault Refusal :=
  .next (if s.kvt.burns = 0 then s
    else if !s.kvt.burnStarted then s.burnStart
    else
      let s1 := { s with kvt := { s.kvt with burns := s.kvt.burns - 1, burnStarted := false } }
      let s2 := if s1.kvt.fuses < 4096 then s1.burnOne else s1
      let s3 := if s2.kvt.burns = 0 ∧ s.kvt.burnZero = true then s2.zeroiseDone else s2
      s3.burnStart)

/-- A loaded generation greater than the value already sealed is the new sealed one (R35, R310): in force at once, journalled once READY;
in ROLLBACK and ERROR only PD_AON keeps it. -/
def State.kvtNewGen (s : State) (n : Nat) : State :=
  if n ≤ s.sealedGen then s
  else
    let s1 := s.setSealgen n
    let s2 := { s1 with kvt := { s1.kvt with newGen := some n } }
    if s.kvtState = 3 then s2.journalAdd { kind := .sealgen, puts := [], cmd := none, started := false } else s2

/-! ### Counter blocks (R311) -/

/-- MSQ asks for the next block of slot `n`: it joins a batch of up to 512 that has not begun. -/
def State.blockRequest (s : State) (n : Nat) : State :=
  if !(s.slot n).active || s.kvt.journal.any (fun (j : Journal) => match j.kind with
      | .blocks l => l.contains n
      | _ => false) then s
  else
    let open' := s.kvt.journal.any (fun (j : Journal) => match j.kind with
      | .blocks l => !j.started && Nat.blt l.length 512
      | _ => false)
    if open' then
      { s with kvt := { s.kvt with journal := s.kvt.journal.map (fun (j : Journal) => match j.kind with
          | .blocks l => if !j.started && Nat.blt l.length 512 then { j with kind := .blocks (l ++ [n]) } else j
          | _ => j) } }
    else s.journalAdd { kind := .blocks [n], puts := [], cmd := none, started := false }

/-- COUNTER_BLOCK_ADVANCE (R311). -/
def execCounterBlockAdvance (slot : Nat) (s : State) : Host.Outcome State Fault Refusal := .next (s.blockRequest slot)

/-- KEY_REQUEST (R305, R308): `found` is the slot's entry in DRAM where it is not the wrapped form that KVT wrote (R307). -/
def execKeyRequest (u : KeyUser) (slot : Nat) (found : Option (List Octet)) (s : State) : Host.Outcome State Fault Refusal :=
  let s0 := match found with
    | some l => if l = s.wrappedForm slot then s else { s with kvt := { s.kvt with wrapped := s.kvt.wrapped.put slot l } }
    | none => s
  .next (s0.keyRequest u slot).2

/-! ### Start (R312, R325) -/

/-- The slots that go to the cache at load (R312): USE 2 to 4 first, then by number. -/
def loadOrder (t : List (Nat × KeySlot)) : List Nat :=
  let act := t.filter (fun e => e.2.active)
  let key := act.filter (fun e => 2 ≤ e.2.use ∧ e.2.use ≤ 4)
  let other := act.filter (fun e => !(2 ≤ e.2.use ∧ e.2.use ≤ 4))
  ((key ++ other).map (fun e => e.1)).take 65536

/-- KVT derives its keys from the root (R303) and presents the public halves of the two key pairs. -/
def State.deriveKeys (s : State) : State :=
  let s1 := { s with kvt := { s.kvt with derived := true } }
  (s1.setRegs (Reg.KVT_ITKPUBk 0) (packWords 24 (p384Point (transportKey s.root s.deviceId)))).setRegs (Reg.KVT_IDPUBk 0)
    (packWords 24 (p384Point (identityKey s.root s.deviceId)))

/-- The pairwise consistency test of a key pair (R325): a signature made with it verifies, and its halves fit. -/
def pairwiseOk (d : Nat) : Bool :=
  let pub := p384Public d
  let e := sha384 pub
  let sig := ecdsaSign d (beNat e) e
  keyPairOk d pub && ecdsaVerify pub e sig.1 sig.2

/-- Both derived key pairs pass. -/
def State.pairwise (s : State) : Bool := pairwiseOk (transportKey s.root s.deviceId) && pairwiseOk (identityKey s.root s.deviceId)

/-- An uncorrectable error in the cache or in derived keys (R312): the keys are derived again and tested (R325), the slots that the state
holds are reloaded. -/
def State.keyState (s : State) : State :=
  if s.kvtState = 5 then s
  else if s.kvt.derived && !s.pairwise then (s.deriveKeys.secEvt 9 0).selfFail
  else
    let s1 := if s.kvt.derived then s.deriveKeys else s
    let s2 := if s1.kvtState = 3 then { s1 with kvt := { s1.kvt with cache := (loadOrder s1.kvt.slots).reverse } } else s1
    ((s2.secEvt 9 0).fire 172).reportNow 5 12 172 172

/-- SELFTEST ends when CFG begins to read the key store (R312): the image has locked the map and the firmware bank is read (R390). -/
def State.kvtRead4 (s : State) : State :=
  if s.kvtState = 1 ∧ s.mapLocked = true ∧ (s.upd.run.isSome || s.on F.CHIP_START_NOFW) = true then s.kvtTo 2 else s

/-- KVT_SELFTEST_DONE (R303, R312, R325): the known-answer tests and the pairwise consistency tests of the image transport key and the
identity key (`kat`, `itk`, `idk`) passed, or KVT enters ERROR, in which the derived keys still open an image (R35 speaks of a load that
succeeds there; log entry 131). A DRBG that failed its health test since the start stays stopped (R323). -/
def execKvtSelftestDone (kat itk idk : Bool) (s : State) : Host.Outcome State Fault Refusal :=
  .next (if s.kvtState = 0 ∧ s.domReady 16 = true ∧ s.kvt.scan = false then
    if kat && (itk && idk) then
      (((s.deriveKeys.kvtTo 1).setFlag F.CRY_STATUS_SELFTESTOK true).setFlag F.CRY_STATUS_DRBGOK (!s.kvt.sick)).kvtRead4
    else State.selfFail { s with kvt := { s.kvt with derived := true } }
  else s)

/-- Slots whose entries were rejected: counted in KVT_NOKEY and recorded with cause STOREAUTH (R307). -/
def State.rejected (s : State) (l : List Nat) : State := l.foldl (fun t n => (t.bump Ctr.KVT_NOKEY).secEvt 11 n) s

/-- The key store loads under the sealed record `r` (R310, R312): fuses it expects are burned, its slots and counters taken, READY. -/
def State.storeLoad (s : State) (k : KeyStore) (r : Sealed) : State :=
  let hw := max r.kumhw (s.kvt.aonHw.getD 0)
  let gen := max (max r.sealgen (s.kvt.aonGen.getD 0)) (s.reg Reg.KVT_SEALGEN).toNat
  let slots := s.storeSlots k
  let s1 := (List.range (min (r.epoch - s.kvt.fuses) (4096 - s.kvt.fuses))).foldl (fun t _ => t.burnOne) s
  let s2 := State.rejected { s1 with kvt := { s1.kvt with slots := slots, cache := (loadOrder slots).reverse, jseq := r.jseq,
                                                          wrapped := [] },
                                     msq := { s1.msq with out := [] } } (s.storeBad k)
  let s3 := (((s2.setKumhw hw).setSealgen gen).kvtTo 3).fire 170
  if s.kvt.newGen.isSome then s3.journalAdd { kind := .sealgen, puts := [], cmd := none, started := false } else s3

/-- The key store is not loaded (R312): no slot but the reservation bases and the greater counters stay (log entry 46), ROLLBACK. -/
def State.storeRolled (s : State) (k : KeyStore) (hw gen cause : Nat) : State :=
  let s1 := { s with kvt := { s.kvt with slots := keyBases (s.storeSlots k), cache := [], wrapped := [] }, msq := { s.msq with out := [] } }
  let s2 := (s1.setKumhw (max hw (s.kvt.aonHw.getD 0))).setSealgen (max gen (max (s.kvt.aonGen.getD 0) (s.reg Reg.KVT_SEALGEN).toNat))
  ((s2.kvtTo 4).secEvt cause 0).fire 169

/-- KVT_KEYSTORE_LOAD (R310, R312), after reads 2 and 3 of R390. `found` is what the flash holds where it is not what KVT wrote
last. -/
def execKvtKeystoreLoad (found : Option KeyStore) (s : State) : Host.Outcome State Fault Refusal :=
  .next (if s.kvtState != 2 then s
  else
    let k := found.getD s.kvt.store
    let s0 := { s with kvt := { s.kvt with store := k } }
    if k.erased then s0.storeLoad k { kumhw := 0, sealgen := 0, epoch := s.kvt.fuses, jseq := 0 }
    else match s0.newestSeal k with
      | none => s0.storeRolled k 0 0 11
      | some r => if r.epoch < s.kvt.fuses then s0.storeRolled k r.kumhw r.sealgen 6 else s0.storeLoad k r)

/-- KVT_WRAPPED_STORE_WRITE (R312): once DRAM is trained and LOADING has ended, CACHEONLY clears. -/
def execKvtWrappedStoreWrite (s : State) : Host.Outcome State Fault Refusal :=
  .next (if s.on F.MEM_STATUS_TRAINED && Nat.ble 3 s.kvtState then s.setFlag F.KVT_STATUS_CACHEONLY false else s)

/-- KVT_KEYSTATE_ERROR (R312): the keys are derived again and the slots that the state holds reloaded; the state stays. -/
def execKvtKeystateError (s : State) : Host.Outcome State Fault Refusal := .next s.keyState

/-! ### CRY -/

/-- CRY_RESEED (R323): GO reseeds the DRBG. -/
def execCryReseed (rq : Req) (s : State) : Host.Outcome State Fault Refusal :=
  .next (s.gated rq Reg.CRY_RESEED 1 (fun t =>
    if t.on F.CRY_STATUS_DRBGOK then { t.bump Ctr.CRY_RESEEDS with kvt := { t.kvt with drbgReqs := 0 } } else t))

/-- CRY_RNG_READ (R322, R323): 32 new bits, or zero while DRBGOK is 0. -/
def execCryRngRead (rq : Req) (s : State) : Host.Outcome State Fault Refusal :=
  .next (match s.barred rq Reg.CRY_RNG none with
    | some c => (s.recordFault rq c false Reg.CRY_RNG 15).respond (leOctets 4 0) false
    | none =>
      if s.on F.CRY_STATUS_DRBGOK then s.drbgDraw.respond (leOctets 4 (s.fresh % 2 ^ 32)) true
      else s.respond (leOctets 4 0) true)

/-- DRBG_HEALTH_FAIL (R323): the DRBG stops until PD_SEC starts again. -/
def execDrbgHealthFail (s : State) : Host.Outcome State Fault Refusal :=
  .next (((State.bump (({ s with kvt := { s.kvt with sick := true } }).setFlag F.CRY_STATUS_DRBGOK false) Ctr.CRY_HEALTH).secEvt 8 0).fire
    176)

/-- An AES job under its key (R322): none where the job's octets do not fit the mode, or the tag or integrity check fails. -/
def AesJob.run (j : AesJob) (key : List Octet) : Option (List Octet) :=
  let n := j.data.length
  let whole := n % 16 == 0
  if key.length ≠ 16 ∧ key.length ≠ 32 then none
  else match j.mode with
    | .ecb => if whole then some (ecb j.enc key j.data) else none
    | .cbc => if whole && j.iv.length == 16 then some (cbc j.enc key j.iv j.data) else none
    | .ctr => if j.iv.length = 16 then some (ctr key j.iv j.data) else none
    | .gcm =>
      if j.iv.length ≠ 12 then none
      else if j.enc then
        let c := gcmSeal key j.iv j.aad j.data
        some (c.1 ++ c.2)
      else if n < 16 then none
      else gcmOpen key j.iv j.aad (j.data.take (n - 16)) (j.data.drop (n - 16))
    | .cmac => some (cmac key j.data)
    | .kw =>
      if n % 8 ≠ 0 ∨ n < 16 then none
      else if j.enc then some (keyWrap key j.data) else keyUnwrap key j.data

/-- A public-key job (R322), with a per-message number for a signature: a verification answers one octet, 1 where it passes. -/
def PkJob.run (j : PkJob) (k : Nat) : Option (List Octet) :=
  match j with
  | .verify pub msg sig => some [BitVec.ofNat 8 (b2n (ecdsaP384 pub msg sig))]
  | .sign d msg => some (sigOctets (ecdsaSign d k (sha384 msg)))
  | .ecdh d pub => Sys2Proof.Machine.ecdh d pub
  | .pair d pub => some [BitVec.ofNat 8 (b2n (keyPairOk d pub))]

/-- The key that a CRY job uses: a GENERAL slot's (R305), or the one its user brings, which approved mode refuses (R324). -/
def State.jobKey (s : State) (slot : Option Nat) (given : List Octet) : Option (List Octet) × State :=
  match slot with
  | some n =>
    let r := s.keyRequest .general n
    (r.1.map (fun k => aesKey k.key k.alg), r.2)
  | none => (if s.on F.KVT_CFG_APPROVED then none else some given, s)

/-- A job runs: it is counted, and its result goes to its user; a buffer error fails it (source 177). -/
def State.jobDone (s : State) (c : Nat) (err : Bool) (r : Option (List Octet)) : State :=
  let s1 := s.bump c
  let s2 := { s1 with kvt := { s1.kvt with answer := if err then none else r } }
  if err then (s2.fire 177).reportNow 5 13 177 177 else s2

/-- A job that is refused gives no result. -/
def State.jobRefused (s : State) : State := { s with kvt := { s.kvt with answer := none } }

/-- An AES job: approved mode refuses ECB (R324). -/
def State.aesJob (s : State) (j : AesJob) (slot : Option Nat) (err : Bool) : State :=
  if s.on F.KVT_CFG_APPROVED && j.mode == .ecb then s.jobRefused
  else match s.jobKey slot j.key with
    | (none, t) => t.jobRefused
    | (some key, t) => t.jobDone Ctr.CRY_AESJOB err (j.run key)

/-- A public-key job: a signature draws from the DRBG (R323); approved mode takes no private key in the clear (R324). -/
def State.pkJob (s : State) (j : PkJob) (err : Bool) : State :=
  let ap := s.on F.KVT_CFG_APPROVED
  match j with
  | .verify _ _ _ => s.jobDone Ctr.CRY_PKJOB err (j.run 0)
  | .sign _ _ =>
    if ap || !s.on F.CRY_STATUS_DRBGOK then s.jobRefused else s.drbgDraw.jobDone Ctr.CRY_PKJOB err (j.run s.fresh)
  | .ecdh _ _ => if ap then s.jobRefused else s.jobDone Ctr.CRY_PKJOB err (j.run 0)
  | .pair _ _ => if ap then s.jobRefused else s.jobDone Ctr.CRY_PKJOB err (j.run 0)

/-- A hash job; an HMAC needs a key. -/
def State.hashJob (s : State) (j : HashJob) (slot : Option Nat) (err : Bool) : State :=
  let mac := fun (f : List Octet → List Octet → List Octet) (given msg : List Octet) =>
    match s.jobKey slot given with
    | (none, t) => t.jobRefused
    | (some key, t) => t.jobDone Ctr.CRY_HASHJOB err (some (f key msg))
  match j with
  | .sha256 msg => s.jobDone Ctr.CRY_HASHJOB err (some (sha256 msg))
  | .sha384 msg => s.jobDone Ctr.CRY_HASHJOB err (some (sha384 msg))
  | .hmac256 key msg => mac hmac256 key msg
  | .hmac384 key msg => mac hmac384 key msg

/-- CRY_JOB (R322, R323, R324, R305): a job of one of the engines, with a GENERAL key where `slot` names one; `err` is an uncorrectable
buffer error, which fails the job. -/
def execCryJob (kind : CryKind) (slot : Option Nat) (err : Bool) (s : State) : Host.Outcome State Fault Refusal :=
  .next (if !s.domReady 16 then s
  else match kind with
    | .aes j => s.aesJob j slot err
    | .pk j => s.pkJob j err
    | .hash j => s.hashJob j slot err
    | .drbg n =>
      if s.on F.CRY_STATUS_DRBGOK then
        let s1 := s.drbgDraw
        let s2 := { s1 with kvt := { s1.kvt with answer := if err then none else some (leOctets n s.fresh) } }
        if err then (s2.fire 177).reportNow 5 13 177 177 else s2
      else s.jobRefused)

end Sys2Proof.Machine
end

