-- ==== Sys2Proof/Machine/Bgt.lean ====
section
/-! DEFINITION. BGT (chapter 10): accounts, charges and refusals, settlements, the placing of listen-before-talk. Air time
is counted in ns of free time (log entry 41). -/

namespace Sys2Proof.Machine

/-- MODE of budget `k` (R205): 0 off, 1 sub-band, 2 channel, 3 metered. -/
def State.budMode (s : State) (k : Nat) : Nat := s.fld (F.BGT_SBkPOL_MODE k)

/-- The budgets that a channel of centre `f` kHz and spacing `sp` is charged to (R206). -/
def State.budgetsOf (s : State) (f sp : Nat) : List Nat :=
  (List.range 16).filter (fun k => s.budMode k != 0 && s.inBudget k f sp)

/-- The part of [lo, hi], in half kHz, that the first of the budgets covers is cut away until nothing is left or no
budget covers the rest's lower end; fuel is the number of budgets. -/
def covered (rs : List (Nat × Nat)) (lo hi : Nat) : Nat → Bool
  | 0 => decide (hi ≤ lo)
  | f + 1 =>
    if hi ≤ lo then true
    else match rs.find? (fun r => Nat.ble r.1 lo && Nat.blt lo r.2) with
      | some r => covered rs r.2 hi f
      | none => false

/-- R206 refuses the channel: a reserved range is touched, or some part lies outside every enabled budget. -/
def State.resv (s : State) (f sp : Nat) : Bool :=
  let ks := s.budgetsOf f sp
  let rs := ks.map (fun k => (2 * s.fld (F.BGT_SBkF0_KHZ k), 2 * s.fld (F.BGT_SBkF1_KHZ k)))
  ks.any (fun k => s.on (F.BGT_SBkPOL_RESV k)) || !covered rs (2 * f - sp) (2 * f + sp) rs.length

/-- The key of the account of budget `k` for a channel (R205). -/
def State.acctKey (s : State) (k f : Nat) : Nat := k * 2 ^ 24 + (if s.budMode k = 2 then f else 0)

/-- The length of a bucket of budget `k` in ns: WIN / 64 (R209). -/
def State.bucketNs (s : State) (k : Nat) : Nat := s.fld (F.BGT_SBkPOL_WIN k) * 15625000

/-- The bucket of a moment of free time in ns. Number 64 begins at free time 0, so the 64 before it have numbers too (R214). -/
def State.bucketOf (s : State) (k ns : Nat) : Nat := 64 + (if s.bucketNs k = 0 then 0 else ns / s.bucketNs k)

/-- The 64 buckets before `b`, each with ALLOW / 64 (R214). -/
def State.fillBuckets (s : State) (k b : Nat) : Tab Nat :=
  (List.range 64).map (fun i => (b + i - 64, s.fld (F.BGT_SBkALLOW_ALLOW k) * 1000 / 64))

/-- The account `key` of budget `k`: where it has never been touched, filled if BGT started cold (R214). -/
def State.account (s : State) (k key : Nat) : Account :=
  match s.bgt.accts.find key with
  | some a => a
  | none =>
    match s.bgt.cold with
    | some ft => if s.budMode k = 1 ∨ s.budMode k = 2 then { buckets := s.fillBuckets k (s.bucketOf k (ft * 1000)) } else {}
    | none => {}

/-- USED of an account for a charge in bucket `b`: that bucket and the 64 before it (R209). -/
def Account.used (a : Account) (b : Nat) : Nat :=
  a.buckets.foldl (fun n e => if Nat.ble e.1 b && Nat.ble b (e.1 + 64) then n + e.2 else n) 0

/-- The present USED of budget `k` in µs: in MODE 2 the largest of its accounts (R209, BGT_SBkUSED). -/
def State.budUsed (s : State) (k : Nat) : Nat :=
  let b := s.bucketOf k (s.gtb.ft * 1000)
  let touched := (s.bgt.accts.filter (fun e => e.1 / 2 ^ 24 == k)).map (fun e => e.2.used b)
  let base := if s.bgt.cold.isSome then [(s.account k (k * 2 ^ 24 + 2 ^ 24 - 1)).used b] else []
  (touched ++ base).foldl max 0 / 1000

/-- Put account `key`. -/
def State.putAcct (s : State) (key : Nat) (a : Account) : State :=
  { s with bgt := { s.bgt with accts := s.bgt.accts.put key a } }

/-- Reasons of R216. -/
inductive BgtReason where
  | budget | offtime | txmax | resv
  deriving DecidableEq, Repr

/-- The counter of a reason. -/
def BgtReason.ctr : BgtReason → Nat
  | .budget => Ctr.BGT_RBUDGET
  | .offtime => Ctr.BGT_ROFF
  | .txmax => Ctr.BGT_RPERTX
  | .resv => Ctr.BGT_RRESV

/-- The budgets whose token limit a transmission would break (R210). -/
def State.overBudget (s : State) (ks : List Nat) (f start dur : Nat) (kind : TxKind) : List Nat :=
  ks.filter (fun k => (s.budMode k == 1 || s.budMode k == 2) &&
    (let a := s.account k (s.acctKey k f)
     let lim := (s.fld (F.BGT_SBkALLOW_ALLOW k) - (if kind = .data then s.fld (F.BGT_SBkACKRES_ACKRES k) else 0)) * 1000
     Nat.blt lim (a.used (s.bucketOf k start) + dur)))

/-- The budgets whose OFFMIN a transmission would break (R210). -/
def State.tooSoon (s : State) (ks : List Nat) (f start : Nat) : List Nat :=
  ks.filter (fun k =>
    let off := s.fld (F.BGT_SBkTX_OFFMIN k) * 1000000
    off != 0 && (match (s.account k (s.acctKey k f)).ends.getLast? with
      | some e => Nat.blt start (e.2.2 + off)
      | none => false))

/-- The reason to refuse a transmission, in the order of R210, or none. -/
def State.bgtRefusal (s : State) (f sp start dur : Nat) (kind : TxKind) : Option BgtReason :=
  let ks := s.budgetsOf f sp
  if s.resv f sp then some .resv
  else if ks.any (fun k => s.fld (F.BGT_SBkTX_TXMAX k) != 0 && Nat.blt (s.fld (F.BGT_SBkTX_TXMAX k) * 1000000) dur) then
    some .txmax
  else if !(s.tooSoon ks f start).isEmpty then some .offtime
  else if !(s.overBudget ks f start dur kind).isEmpty then some .budget
  else none

/-- EXH of budget `k`. -/
def State.exh (s : State) (k : Nat) : Bool := bit (s.fld F.BGT_STATUS_EXH) k

/-- Set EXH bits; source 113 when one goes from 0 to 1 (R216). -/
def State.setExh (s : State) (ks : List Nat) (b : Bool) : State :=
  let new := ks.foldl (fun n k => setBit n k b) (s.fld F.BGT_STATUS_EXH)
  (s.setFld F.BGT_STATUS_EXH new).fireIf (b && ks.any (fun k => !s.exh k)) 113

/-- Check and charge transmission `id` (R210 to R212): on a channel of centre `f` and spacing `sp`, `start` and `dur` in
ns, `rate` in kchip/s. The answer is the refusal, or none where the charge is granted. -/
def State.charge (s : State) (id f sp start dur rate : Nat) (kind : TxKind) : Option BgtReason × State :=
  match s.bgtRefusal f sp start dur kind with
  | some r =>
    let s1 := s.bump r.ctr
    let s2 := if r = .budget ∧ kind = .data then s1.setExh (s.overBudget (s.budgetsOf f sp) f start dur kind) true else s1
    (some r, s2.fireIf (r == .txmax || r == .resv) 114)
  | none =>
    let ks := s.budgetsOf f sp
    let s1 := ks.foldl (fun t k =>
      let key := t.acctKey k f
      let a := t.account k key
      let b := t.bucketOf k start
      let was := a.used b
      let a' := { a with buckets := a.buckets.put b (a.buckets.getD' b 0 + dur), ends := a.ends ++ [(id, start, start + dur)] }
      let thr := t.fld F.BGT_THR_USETHR
      let lim := t.fld (F.BGT_SBkALLOW_ALLOW k) * 1000 * thr
      let hit := thr != 0 && ((t.budMode k == 1 || t.budMode k == 2) && (Nat.blt (was * 100) lim && Nat.ble lim (a'.used b * 100)))
      (t.putAcct key a').fireIf hit 112) s
    let g : Grant := { kind := kind, dur := dur, start := start, rate := rate,
                       accts := ks.map (fun k => (s.acctKey k f, s.bucketOf k start)) }
    let s2 := { s1.bump Ctr.BGT_GRANT with bgt := { s1.bgt with grants := s1.bgt.grants.put id g } }
    (none, if kind = .data then s2.setExh ks false else s2)

/-- Add settled air time to BGT_SBkAIR, which counts whole µs (R213). -/
def State.addAir (s : State) (k ns : Nat) : State :=
  let n := s.bgt.airNs.getD' k 0 + ns
  { s.bump (Ctr.BGT_SBkAIR k) (n / 1000) with bgt := { s.bgt with airNs := s.bgt.airNs.put k (n % 1000) } }

/-- Settle transmission `id` (R213): `chips` is none where it was cancelled before release, some n where n chips were
sent before an abort; `full` that it was sent in full. Refunds go back to the bucket charged while it is counted. -/
def State.settle (s : State) (id : Nat) (chips : Option Nat) (full : Bool) : State :=
  match s.bgt.grants.find id with
  | none => s
  | some g =>
    let spent := if full then g.dur else match chips with
      | none => 0
      | some n => min g.dur ((n + 1) * 1000000 / g.rate)
    let refund := g.dur - spent
    let s1 := g.accts.foldl (fun t e =>
      let k := e.1 / 2 ^ 24
      let a := t.account k e.1
      let counted := Nat.ble (t.bucketOf k (t.gtb.ft * 1000)) (e.2 + 64)
      let bs := if counted && refund != 0 then a.buckets.put e.2 (a.buckets.getD' e.2 0 - refund) else a.buckets
      let es := if !full && chips.isNone then a.ends.filter (fun x => x.1 != id)
        else a.ends.map (fun x => if x.1 = id then (x.1, x.2.1, x.2.1 + spent) else x)
      (t.putAcct e.1 { a with buckets := bs, ends := es }).addAir k spent) s
    let s2 := { s1 with bgt := { s1.bgt with grants := s1.bgt.grants.del id } }
    if refund = 0 then s2 else s2.bump Ctr.BGT_SETTLE

/-- Which budgets make a transmission listen (R217, R219): for an ACK those with ACKEX = 0. -/
def State.listenBudgets (s : State) (f sp : Nat) (kind : TxKind) : List Nat :=
  (s.budgetsOf f sp).filter (fun k => s.fld (F.BGT_SBkLBT_LISTEN k) != 0 && (kind != .ack || !s.on (F.BGT_SBkPOL_ACKEX k)))

/-- The window in 16 µs units and the threshold in 0.25 dBm of the assessment a transmission needs, if any (R217, R219). -/
def State.lbt (s : State) (f sp : Nat) (kind : TxKind) : Option (Nat × Int) :=
  match s.listenBudgets f sp kind with
  | [] => none
  | k :: t =>
    let th := fun j => signed 10 (s.fld (F.BGT_SBkLBT_THRESH j))
    some ((k :: t).foldl (fun n j => max n (s.fld (F.BGT_SBkLBT_LISTEN j))) 0, t.foldl (fun m j => max m (th j)) (th k))

/-- The window of an assessment of `w` units of 16 µs before a first chip at `start` on port `p` (R217): it ends 4 µs before the
release. -/
def State.ccaWindow (s : State) (p start w : Nat) : Nat × Nat :=
  let lat := s.fld (F.RFPn_LAT_TXLAT p) + 4000
  (gtSub start (nsToGt (lat + w * 16000) s.mainsFreq), gtSub start (nsToGt lat s.mainsFreq))

/-- Request a clear-channel assessment whose window is `wd` (R110, R111). DESIGN CHOICE: every request of the port that has not been
answered counts toward the 32 that it runs at once, also one whose window has not opened and one that is not measured (log entry 151). A 33rd of the port, and a window that would have opened
already, measure nothing; a link not UP does not unless it comes UP before the window. -/
def State.ccaStart (s : State) (id : Nat) (user : TxUser) (n slice win : Nat) (thr : Int) (energy carrier : Bool) (wd : Nat × Nat) :
    State :=
  let p := s.port n
  let c : Cca :=
    { id := id, user := user, slice := slice, win := win, thr := thr,
      dbfs := thr - signed 12 (s.actFld (F.RFPn_GAIN_GAINOFS n)),
      energy := energy, carrier := carrier, noMeas := decide (32 ≤ p.ccas.length) || decide (gtDiff wd.1 s.gtb.gt < 0),
      own := false, hit := false, down := s.link n != 4, opn := wd.1, fin := wd.2 }
  s.setPort n { p with ccas := p.ccas ++ [c] }

/-- Free time in ns of a grid time, at the present rate. -/
def State.ftOf (s : State) (gt : Nat) : Nat :=
  let d := gtDiff gt s.gtb.gt
  if 0 ≤ d then s.gtb.ft * 1000 + gtToNs d.toNat s.mainsFreq else s.gtb.ft * 1000 - gtToNs (-d).toNat s.mainsFreq

/-- One chip period in ns, rounded up. -/
def chipNs (rate : Nat) : Nat := (1000000 + rate - 1) / rate

/-- The duration charged: the air time and one chip period for the ramp-down (R212). -/
def chargeNs (chips rate : Nat) : Nat := ((chips + 1) * 1000000 + rate - 1) / rate

/-- Charge a reserved stream and place its listen-before-talk (R210, R217). `chips` is the frame's length in chips. -/
def State.bgtRequest (s : State) (id : Nat) (kind : TxKind) (chips : Nat) : Option BgtReason × State :=
  match s.findStream id with
  | none => (some .resv, s)
  | some (n, st) =>
    let f := (s.sliceCentre n st.slice).toNat
    let sp := spacing (s.sliceClass n st.slice)
    let rate := chipRate (s.sliceClass n st.slice)
    match s.charge id f sp (s.ftOf st.start) (chargeNs chips rate) rate kind with
    | (some r, t) => (some r, t)
    | (none, t) =>
      (none, match t.lbt f sp kind with
        | some (w, th) => t.ccaStart id .bgt n st.slice w th true true (t.ccaWindow n st.start w)
        | none => t)

/-- CCA_REQUEST (R110, R111): slice `slice` of port `n` for `win` units of 16 µs from now, at threshold `thr` (0.25 dBm). -/
def execCcaRequest (t : Time) (id : Nat) (user : TxUser) (n slice win : Nat) (thr : Int) (mode : CcaMode) (s : State) :
    Host.Outcome State Fault Refusal :=
  let s0 := s.at t
  .next (s0.ccaStart id user n slice win thr mode.energy mode.carrier (t.gt, gtAdd t.gt (nsToGt (win * 16000) s0.mainsFreq)))

/-- BGT_CHARGE (R210): the charge of a reserved stream, by its number. -/
def execBgtCharge (t : Time) (id : Nat) (kind : TxKind) (chips : Nat) (s : State) : Host.Outcome State Fault Refusal :=
  .next ((s.at t).bgtRequest id kind chips).2

/-- BUCKET_ADVANCE (R209): buckets that left the count are dropped. -/
def execBucketAdvance (t : Time) (s : State) : Host.Outcome State Fault Refusal :=
  let s0 := s.at t
  .next { s0 with bgt := { s0.bgt with accts := s0.bgt.accts.mapv (fun key a =>
    { a with buckets := a.buckets.only (fun b _ => Nat.ble (s0.bucketOf (key / 2 ^ 24) (t.ft * 1000)) (b + 64)) }) } }

/-- The accounts a budget fills at a cold start (R214): one for MODE 1, one per channel centre for MODE 2. -/
def State.fillCount (s : State) (k : Nat) : Nat :=
  if s.budMode k = 1 then 1
  else if s.budMode k = 2 then
    let chans := (List.range 4).flatMap (fun b => (List.range 4).flatMap (fun c =>
      ((List.range (chanCount b c)).map
        (fun ch => (chanKhz b c ch, spacing c)))))
    ((chans.filter (fun x => s.inBudget k x.1 x.2)).map (fun x => x.1)).eraseDups.length
  else 0

/-- PD_SYS has started with its budgets in force (R214): accounts filled, source 116, or empty. -/
def State.bgtStart (s : State) : State :=
  if s.on F.BGT_CFG_COLDFILL then
    let n := (List.range 16).foldl (fun a k => a + s.fillCount k) 0
    let s1 := { s with bgt := { s.bgt with cold := some s.gtb.ft, accts := [] } }
    ((s1.setFlag F.BGT_STATUS_COLD true).bump Ctr.BGT_FILL n).fire 116
  else { s with bgt := { s.bgt with cold := none, accts := [] } }

/-- An uncorrectable error in an account fills that account (R215). -/
def State.acctError (s : State) (key : Nat) : State :=
  let k := key / 2 ^ 24
  let a := s.account k key
  let s1 := s.putAcct key { a with buckets := s.fillBuckets k (s.bucketOf k (s.gtb.ft * 1000)) }
  (((s1.bump Ctr.BGT_FILL).fire 117).strike F.SUP_AUDIT_BGT).reportNow 5 8 117 117

end Sys2Proof.Machine
end

