-- ==== Sys2Proof/Machine/Sched.lean ====
section
/-! DEFINITION. What MSQ and SLV share: event counter and cells, hopping, CELLS frames and the confirmation of sets
(chapters 09 and 11). -/

namespace Sys2Proof.Machine

/-! ### Event counter and hopping (R180, R181) -/

/-- The event counter of a grid time (R180). -/
def ecOf (spc gt : Nat) : Nat := gcn gt * spc + slotIdx spc gt

/-- The event counter now. -/
def State.ec (s : State) : Nat := ecOf s.spc s.gtb.gt

/-- The grid time at which the slot of event counter `e` begins. -/
def slotGt (spc e : Nat) : Nat := (e / spc * cycleUnits + slotStart spc (e % spc)) % 2 ^ 64

/-- The first usable position at or after `i`, in a circle of `n`; fuel is `n` (R181). -/
def hopFrom (usable : List Nat) (n i : Nat) : Nat → Nat
  | 0 => i
  | f + 1 => if usable.contains i then i else hopFrom usable n ((i + 1) % n) f

/-- The channel of a cell in class `c` (R181); none where the class is disabled. -/
def State.cellChannel (s : State) (c ec chofs : Nat) : Option Nat :=
  let n := s.hopLen c
  if n = 0 then none
  else some (s.hopSeq c (hopFrom (s.usable c (fun j => s.act (Reg.MSQ_CHMcj c j))) n ((ec + chofs) % n) n))

/-- The length of slotframe `k`, as MSQ holds it; 0 where it is disabled. -/
def State.sfLen (s : State) (k : Nat) : Nat := s.msq.sfs.getD k 0

/-- Every cell MSQ acts on: fixed cells and the store. -/
def State.allCells (s : State) : List Cell := s.msq.fixed ++ s.msq.cells

/-- The cell occurs in the slot of event counter `e` (R176, R180). -/
def State.cellAt (s : State) (c : Cell) (e : Nat) : Bool :=
  let f := s.sfLen c.sf
  f != 0 && e % f == c.slot

/-- Event counter of the first occurrence of a cell after `e`; none where its slotframe is disabled. -/
def State.nextEc (s : State) (c : Cell) (e : Nat) : Option Nat :=
  let f := s.sfLen c.sf
  if f = 0 then none
  else
    let d := (c.slot + f - e % f) % f
    some (e + (if d = 0 then f else d))

/-! ### Templates (R177, R179) -/

/-- Template `t` is enabled. -/
def State.tplOn (s : State) (t : Nat) : Bool := s.actFld (F.MSQ_TPLt_B_EN t) == 1

/-- L_H code of template `t` at the present service level (R179). -/
def State.tplLh (s : State) (t : Nat) : Nat :=
  if s.level = 1 then s.actFld (F.MSQ_TPLt_B_SL1LH t) else s.actFld (F.MSQ_TPLt_B_LH t)

/-- MAXDUR in 16 µs units at the present service level. -/
def State.tplMaxDur (s : State) (t : Nat) : Nat :=
  if s.level = 1 then s.actFld (F.MSQ_TPLt_B_SL1MAXDUR t) else s.actFld (F.MSQ_TPLt_A_MAXDUR t)

/-- SPAN in slots at the present service level. -/
def State.tplSpan (s : State) (t : Nat) : Nat :=
  (if s.level = 1 then s.actFld (F.MSQ_TPLt_B_SL1SPAN t) else s.actFld (F.MSQ_TPLt_A_SPAN t)) + 1

/-- Channel class of template `t`. -/
def State.tplClass (s : State) (t : Nat) : Nat := s.actFld (F.MSQ_TPLt_A_CHCLASS t)

/-- The template carries frames now: enabled, and at SL1 with SL1LH of 256 or 512 (R179). -/
def State.tplCarries (s : State) (t : Nat) : Bool := s.tplOn t && (s.level != 1 || Nat.ble 4 (s.tplLh t))

/-- E of a cell's occurrence: its slot boundary plus TXOFS, at the rate at which GT advances now (R177, R196). -/
def State.cellE (s : State) (c : Cell) (e : Nat) : Nat :=
  gtAdd (slotGt s.spc e) (s.rateNsToGt (s.actFld (F.MSQ_TPLt_A_TXOFS c.tpl) * 1000))

/-- The end of a cell's occurrence: SPAN slots after its boundary. -/
def State.cellFin (s : State) (c : Cell) (e : Nat) : Nat := slotGt s.spc (e + s.tplSpan c.tpl)

/-! ### CELLS frames (R236 to R238) -/

/-- Octets 0 to 4 of a cell (R222). -/
def Cell.octets5 (c : Cell) : List Octet :=
  leOctets 2 c.slot ++ leOctets 1 (c.sf % 8 + 8 * (c.dir % 4) + 32 * b2n c.exp + 64 * b2n c.beacon)
  ++ leOctets 1 (c.chofs % 64) ++ leOctets 1 (c.tpl % 16)

/-- The 8 octets of a cell (R222). -/
def Cell.octets (c : Cell) : List Octet := c.octets5 ++ leOctets 2 c.record ++ leOctets 1 (b2n c.ded)

/-- The CELLS element of a set (R236), ID and LEN included. -/
def State.cellsElement (s : State) (x : CellSet) : List Octet :=
  let sfs := (x.cells.map (fun c => c.sf)).eraseDups
  let body := leOctets 1 x.setid ++ leOctets 6 x.ec ++ leOctets 1 sfs.length
    ++ sfs.flatMap (fun k => leOctets 1 k ++ leOctets 2 (s.sfLen k % 65536))
    ++ leOctets 1 x.cells.length ++ x.cells.flatMap Cell.octets5
  leOctets 1 0x10 ++ leOctets 1 body.length ++ body

/-- Change the sets of node `n`. -/
def State.putSets (s : State) (n : Nat) (x : NodeSets) : State :=
  { s with slv := { s.slv with nodes := s.slv.nodes.put n x } }

/-- Queue the CELLS frame of a node's set `id` (R236): admitted as originated, pushed onto the node's queue. -/
def State.sendCells (s : State) (node id : Nat) : State :=
  match s.slv.nodes.find node with
  | none => s
  | some ns =>
    match ns.sets.find? (fun x => x.setid == id) with
    | none => s
    | some x =>
      let ar := ns.sets.any (fun y => y.confirmed && !y.cells.isEmpty)
      let d := s.cellsElement x
      let upd := fun (t : State) (p : Option Nat) => t.putSets node { ns with sets := ns.sets.map (fun y =>
        if y.setid = id then { y with tries := y.tries + 1, pkt := p, ar := ar } else y) }
      match s.acceptPkt 7 (cellsFor d.length) d (.hw 9 0) { kind := 9, record := some ns.record, node := some node, flag := ar } with
      | (some st, t) => ((upd t (some st)).pushPkt ns.record (.hw 9 0) st).bump Ctr.SLV_CELLSTX
      | (none, t) => upd t none

/-! ### Patches (R223) -/

/-- Lists of up to 64; fuel is the length. -/
def in64 (l : List Cell) : Nat → List (List Cell)
  | 0 => []
  | f + 1 => if l.isEmpty then [] else l.take 64 :: in64 (l.drop 64) f

/-- A change as patches of up to 64 cells (R223): one where it fits, which takes effect in full at one boundary. -/
def patchParts (p : Patch) : List Patch :=
  if p.del.length + p.add.length ≤ 64 then [p]
  else (in64 p.del p.del.length).map (fun l => { del := l, add := [], links := [] })
    ++ (in64 p.add p.add.length).map (fun l => { del := [], add := l, links := p.links, send := p.send })

/-- Stage a change (R223); each of its patches counts in SLV_PATCHES. -/
def State.stagePatch (s : State) (p : Patch) : State :=
  let s1 := s.bump Ctr.SLV_PATCHES (patchParts p).length
  { s1 with msq := { s1.msq with patches := s1.msq.patches ++ patchParts p } }

/-- The cells of the store under a patch. -/
def Patch.cells (p : Patch) (l : List Cell) : List Cell := l.filter (fun c => !p.del.contains c) ++ p.add

/-- The cells of the store once every staged patch is active. -/
def State.cellsAhead (s : State) : List Cell := s.msq.patches.foldl (fun l p => p.cells l) s.msq.cells

/-- The sets of a node. -/
def State.nodeSets (s : State) (node : Nat) : NodeSets := (s.slv.nodes.find node).getD { record := 0, setid := 0, sets := [] }

/-- Unconfirmed sets of a node (R238). -/
def State.unconfirmed (s : State) (node : Nat) : Nat := ((s.nodeSets node).sets.filter (fun x => !x.confirmed)).length

/-- The cells of the store once every staged patch is active and every waiting change is made (R222, R238). -/
def State.cellsDue (s : State) : List Cell :=
  (s.slv.waiting.flatMap (fun p => p.cells)).foldl (fun l c => if l.contains c then l else l ++ [c]) s.cellsAhead

/-- Cells that a placement adds to the store. -/
def State.newCells (s : State) (p : Placement) : Nat := (p.cells.filter (fun c => !s.cellsDue.contains c)).length

/-- The store has room for a placement (R222): 131,072 cells. -/
def State.cellRoom (s : State) (p : Placement) : Bool := Nat.ble (s.cellsDue.length + s.newCells p) 131072

/-- A new set of a node: the patch that adds the cells the store does not hold yet, and the CELLS frame that follows it (R230, R236). -/
def State.newSet (s : State) (p : Placement) : State :=
  let ns := s.nodeSets p.node
  let id := (ns.setid + 1) % 256
  let x : CellSet := { setid := id, ec := max p.ec (s.ec + 1), cells := p.cells, confirmed := false, tries := 0, pkt := none,
                       ar := false }
  (s.putSets p.node { record := p.record, setid := id, sets := ns.sets ++ [x] }).stagePatch
    { del := [], add := p.cells.filter (fun c => !s.cellsAhead.contains c),
      links := if p.cells.isEmpty then [] else [(p.record, p.sw, p.par, p.dep)], send := [(p.node, id)] }

/-- A node's cells change (R238): at once, or once one of its two unconfirmed sets is confirmed. -/
def State.changeSet (s : State) (p : Placement) : State :=
  if s.unconfirmed p.node < 2 then s.newSet p
  else { s with slv := { s.slv with waiting := s.slv.waiting.filter (fun q => q.node != p.node) ++ [p] } }

/-- The change of a node that waits for a confirmation goes on. -/
def State.wakeSet (s : State) (node : Nat) : State :=
  match s.slv.waiting.find? (fun p => p.node == node) with
  | some p =>
    if s.unconfirmed node < 2 then
      ({ s with slv := { s.slv with waiting := s.slv.waiting.filter (fun q => q.node != node) } }).newSet p
    else s
  | none => s

/-- A change of a node where the store has room for it (R222). -/
def State.changeFit (s : State) (p : Placement) : State := if s.cellRoom p then s.changeSet p else s

/-- The cells that a node has now: those of its newest set. -/
def State.cellsNow (s : State) (node : Nat) : List Cell := ((s.nodeSets node).sets.getLast?.map (fun x => x.cells)).getD []

/-- A node is left with shared cells only (R237, R239): its next set is empty, and its cells go once that is confirmed (R238). -/
def State.dropNode (s : State) (node : Nat) : State :=
  let s1 := { s with slv := { s.slv with waiting := s.slv.waiting.filter (fun q => q.node != node) } }
  if (s.cellsNow node).isEmpty then s1
  else s1.changeSet { node := node, record := (s.nodeSets node).record, cells := [], sw := 0, par := 0, dep := 0, ec := 0 }

/-- Every cell of a node goes at once (R232): the patch, and the CELLS frame with NC = 0 that no confirmation is awaited for (R236, R237). -/
def State.clearNode (s : State) (node : Nat) : State :=
  let ns := s.nodeSets node
  let gone := (ns.sets.flatMap (fun x => x.cells)).eraseDups
  let id := (ns.setid + 1) % 256
  let none' : CellSet := { setid := id, ec := s.ec + 1, cells := [], confirmed := true, tries := 0, pkt := none, ar := false }
  let s1 := { s with slv := { s.slv with waiting := s.slv.waiting.filter (fun q => q.node != node) } }
  if gone.isEmpty then s1.putSets node { ns with sets := [] }
  else (s1.putSets node { ns with setid := id, sets := [none'] }).stagePatch { del := gone, add := [], links := [], send := [(node, id)] }

/-! ### Confirmation (R238) -/

/-- Earlier sets go once a later one is confirmed and its EC has passed (R238): a patch takes their cells away. -/
def State.pruneSets (s : State) (now : Nat) : State :=
  s.slv.nodes.foldl (fun t e =>
    let done := (e.2.sets.filter (fun x => x.confirmed && Nat.ble x.ec now)).getLast?
    match done with
    | none => t
    | some d =>
      let later := e.2.sets.dropWhile (fun x => x.setid != d.setid)
      let old := e.2.sets.takeWhile (fun x => x.setid != d.setid)
      if old.isEmpty then t
      else
        let keep := later.flatMap (fun x => x.cells)
        let gone := ((old.flatMap (fun x => x.cells)).filter (fun c => !keep.contains c)).eraseDups
        let t1 := t.putSets e.1 { e.2 with sets := later }
        if gone.isEmpty then t1 else t1.stagePatch { del := gone, add := [], links := [] }) s

/-- A set is confirmed (R238): its CELLS frame is done with, and a change that waits goes on. -/
def State.confirmSet (s : State) (node id : Nat) : State :=
  match s.slv.nodes.find node with
  | none => s
  | some ns =>
    ((s.putSets node { ns with sets := ns.sets.map (fun y =>
      if y.setid = id then { y with confirmed := true, pkt := none } else y) }).pruneSets s.ec).wakeSet node

/-- The node and set whose CELLS frame is packet `p`, while it is held. -/
def State.setOfPkt (s : State) (p : Nat) : Option (Nat × Nat) :=
  match s.qmg.pkts.find p with
  | none => none
  | some x =>
    if x.info.kind = 9 then
      s.slv.nodes.findSome? (fun e =>
        if x.info.node = some e.1 then (e.2.sets.reverse.find? (fun y => y.pkt == some p)).map (fun y => (e.1, y.setid)) else none)
    else none

/-- A CELLS frame sent with AR = 1 was acknowledged (R238). -/
def State.cellsAcked (s : State) (p : Nat) : State :=
  match s.setOfPkt p with
  | some (n, id) => s.confirmSet n id
  | none => s

/-- The set `id` of a node is to be sent again, up to ANNTRY times, or stays unconfirmed with source 126 (R238). -/
def State.cellsAgain (s : State) (node id : Nat) : State :=
  match s.slv.nodes.find node with
  | none => s
  | some ns =>
    match ns.sets.find? (fun x => x.setid == id) with
    | none => s
    | some x =>
      if x.confirmed || x.gone then s
      else if x.tries < s.actFld F.SLV_POL2_ANNTRY then s.sendCells node id
      else ((s.putSets node { ns with sets := ns.sets.map (fun y => if y.setid = id then { y with gone := true } else y) }).bump
        Ctr.SLV_UNCONF).fire 126

/-- The CELLS frame of a node's set, as found before it ended, was dropped (R200, R238). -/
def State.cellsDropped (s : State) (x : Option (Nat × Nat)) : State :=
  match x with
  | some (n, id) => s.cellsAgain n id
  | none => s

/-- A verified frame of a node arrived in the occurrence `e` of a receive cell (R238). -/
def State.slvVerified (s : State) (node : Nat) (c : Cell) (e : Nat) : State :=
  match s.slv.nodes.find node with
  | none => s
  | some ns =>
    match ns.sets.find? (fun x => !x.confirmed && (Nat.ble x.ec e && x.cells.contains c)) with
    | some x => s.confirmSet node x.setid
    | none => s

/-- An OK record whose NODEV is set goes to SLV (R156). -/
def State.observe (s : State) (q : QRec) (node : Nat) : State :=
  let o : Obs := { node := node, cls := s.sliceClass (q.slice / 128) (q.slice % 128), lh := q.lh, snr := q.meas.snr,
                   rssi := q.meas.rssi0, gcn := gcn q.sfdGt }
  if s.domReady 15 then { s with slv := { s.slv with obs := s.slv.obs ++ [o] } } else s

end Sys2Proof.Machine
end

