-- ==== Sys2Proof/Machine/Links.lean ====
section
/-! DEFINITION. The link store of SLV (R225, R226). -/

namespace Sys2Proof.Machine

/-- The key of a link record: TXEP, RXEP, CLASS (R225). -/
def linkKey (tx rx c : Nat) : Nat := (tx * 2 ^ 24 + rx) * 4 + c % 4

/-- This device as an endpoint (R225). -/
def State.ownEp (s : State) : Nat := 2 ^ 23 + s.fld F.CSC_CFG_CHIPID

/-- Put link record `k`. -/
def State.setLink (s : State) (k : Nat) (r : LinkRec) : State :=
  { s with slv := { s.slv with links := s.slv.links.put k r } }

/-- How long before `now`, in cycles modulo 2^32, a link record was updated (R226). -/
def LinkRec.age (r : LinkRec) (now : Nat) : Nat := (now % 2 ^ 32 + 2 ^ 32 - r.lastgcn) % 2 ^ 32

/-- The non-static record that was updated longest before `now`: the one a new record evicts (R226). -/
def oldestLink (now : Nat) (t : Tab LinkRec) : Option Nat :=
  (t.foldl (fun (best : Option (Nat × Nat)) e =>
    if e.2.src = 2 then best
    else match best with
      | none => some (e.1, e.2.age now)
      | some b => if b.2 < e.2.age now then some (e.1, e.2.age now) else best) none).map (fun b => b.1)

/-- Put a record that may be new: a full store evicts one, counted, source 127 (R226). -/
def State.addLink (s : State) (k : Nat) (r : LinkRec) : State :=
  if (s.slv.links.find k).isSome || Nat.blt s.slv.links.length 1048576 then s.setLink k r
  else match oldestLink (gcn s.gtb.gt) s.slv.links with
    | none => s
    | some v =>
      (({ s with slv := { s.slv with links := s.slv.links.del v } }.bump Ctr.SLV_LINKEVICT).fire 127).setLink k r

/-- A number saturated to 16 unsigned bits. -/
def sat16 (n : Nat) : Nat := min 65535 n

/-- The record of a first observation. The spec gives no PDR before an EXP cell: a free value. -/
def State.newLink (s : State) (o : Obs) : LinkRec :=
  { txep := o.node, rxep := s.ownEp, src := 0, cls := o.cls, lhobs := o.lh, valid := true, snr := o.snr, snrsd := 0,
    rssi := o.rssi, pdr := s.fresh % 65536, ncell := 0, nobs := 1, lastgcn := o.gcn % 2 ^ 32, hist := [] }

/-- A record after an observation (R226): 3 dB per doubling of L; divisions truncate. -/
def LinkRec.observe (r : LinkRec) (o : Obs) : LinkRec :=
  let x := o.snr + 12 * ((r.lhobs : Int) - o.lh)
  let d := x - r.snr
  { r with snr := r.snr + d.tdiv 8, snrsd := ((r.snrsd : Int) + (5 * (d.natAbs : Int) - 4 * r.snrsd).tdiv 32).toNat,
           rssi := r.rssi + (o.rssi - r.rssi).tdiv 8, nobs := sat16 (r.nobs + 1), lastgcn := o.gcn % 2 ^ 32, valid := true }

/-- Fold an observation (R226): only SRC 0 records change. -/
def State.foldObs (s : State) (o : Obs) : State :=
  let k := linkKey o.node s.ownEp o.cls
  match s.slv.links.find k with
  | some r => if r.src = 0 then s.setLink k (r.observe o) else s
  | none => (s.addLink k (s.newLink o)).nextFree

/-- The outcome of an EXP cell (R226): PDR over the last 64 EXP cells of the link. -/
def State.expOutcome (s : State) (node cls : Nat) (ok : Bool) : State :=
  let k := linkKey node s.ownEp cls
  match s.slv.links.find k with
  | some r =>
    if r.src = 0 ∧ s.domReady 15 = true then
      let h := r.hist ++ [ok]
      let h' := h.drop (h.length - 64)
      let n := (h'.filter id).length
      s.setLink k { r with hist := h', pdr := min 65535 (n * 65536 / h'.length), ncell := sat16 (r.ncell + 1),
                           lastgcn := gcn s.gtb.gt % 2 ^ 32 }
    else s
  | none => s

/-- SLV_OBSERVATION (R156, R226): the oldest observation is folded. -/
def execSlvObservation (s : State) : Host.Outcome State Fault Refusal :=
  .next (match s.slv.obs with
    | [] => s
    | o :: rest =>
      let s1 := { s with slv := { s.slv with obs := rest } }
      if s.domReady 15 then s1.foldObs o else s1)

/-- LINK_RECORD_AGE (R226): the record of this key, neither static nor updated for LINKAGE hours, loses VALID. -/
def execLinkRecordAge (t : Time) (key : Nat) (s : State) : Host.Outcome State Fault Refusal :=
  let s0 := s.at t
  .next (match s.slv.links.find key with
    | some r =>
      if r.src ≠ 2 ∧ s.actFld F.SLV_POL2_LINKAGE * 3600 * (s.nomFreq / 1000) ≤ r.age (gcn t.gt) then
        s0.setLink key { r with valid := false }
      else s0
    | none => s0)

end Sys2Proof.Machine
end

