-- ==== Sys2Proof/Machine/Nbr.lean ====
section
/-! DEFINITION. MSQ's neighbour records (chapter 09): their commands, supervision, timing estimates and guards. -/

namespace Sys2Proof.Machine

/-- The record numbered `r`; none where it is FREE. -/
def State.nbr (s : State) (r : Nat) : Option Nbr := s.msq.nbrs.find r

/-- Put record `r`. -/
def State.setNbr (s : State) (r : Nat) (n : Nbr) : State := { s with msq := { s.msq with nbrs := s.msq.nbrs.put r n } }

/-- The node map (R183): the record of a scheduled-node index. -/
def State.nodeRec (s : State) (node : Nat) : Option (Nat × Nbr) := s.msq.nbrs.find? (fun e => e.2.node == node)

/-- Records ACTIVE or RESYNC. -/
def State.nbAct (s : State) : Nat := (s.msq.nbrs.filter (fun e => e.2.st == 1 || e.2.st == 2)).length

/-- A number within the range of a signed field of `w` bits. -/
def satInt (w : Nat) (z : Int) : Int :=
  let m : Int := 2 ^ (w - 1)
  if z ≥ m then m - 1 else if z < -m then -m else z

/-- The 64 octets of a record (R183); zero for a FREE one. -/
def Nbr.octets (n : Nbr) : List Octet :=
  leOctets 8 n.eui ++ leOctets 3 n.node ++ leOctets 1 n.st ++ leOctets 3 n.key
  ++ leOctets 1 (n.sw % 4 + 4 * (n.par % 4) + 16 * (n.dep % 8)) ++ leOctets 4 n.rxHigh ++ leOctets 8 n.rxWin
  ++ leOctets 4 n.supto ++ leOctets 8 n.lastGt ++ leOctets 3 (unsigned 24 n.drift) ++ leOctets 1 n.unc
  ++ leOctets 3 (unsigned 24 n.theta) ++ leOctets 1 n.guard ++ leOctets 2 n.wide ++ leOctets 1 n.retries
  ++ List.replicate 13 0

/-! ### Neighbour commands (R184) -/

/-- The S fields of a record as MSQ_NBDATA holds them, in a record that is otherwise as a new one (R184); none where they
break the ranges of R183. -/
def State.nbData (s : State) : Option Nbr :=
  let d := s.octRun (Reg.MSQ_NBDATAw 0) 16
  let b := (d.getD 15 0).toNat
  let node := leNat (slice d 8 3)
  let key := leNat (slice d 12 3)
  let supto := leNat (slice d 28 4)
  if node < 2 ^ 18 ∧ key < 2 ^ 20 ∧ b < 128 ∧ b / 16 ≤ 4 ∧ 1 ≤ supto ∧ supto ≤ 86400 then
    some { eui := leNat (slice d 0 8), node := node, st := 1, key := key, sw := b % 4, par := b / 4 % 4, dep := b / 16,
           rxHigh := 0, rxWin := 0, supto := supto, lastGt := s.gtb.gt, drift := 0, unc := 0, theta := 0,
           guard := (4 * s.actFld F.MSQ_GUARD_GDEF + 15) / 16, wide := 0, retries := 0, heard := false }
  else none

/-- A neighbour command completes with ERR `e`; source 105. -/
def State.nbDone (s : State) (e : Nat) : State := (s.setFld F.MSQ_NBSTAT_ERR e).fire 105

/-- The word of a neighbour command. -/
def nbWord (slot op : Nat) : Word := BitVec.ofNat 32 (slot % 65536 + 65536 * op)

/-- NBCMD_READ (R184): the record in MSQ_NBDATA. -/
def execNbcmdRead (rq : Req) (slot : Nat) (s : State) : Host.Outcome State Fault Refusal :=
  .next (s.gated rq Reg.MSQ_NBCMD (nbWord slot 0) (fun t =>
    (t.setRegs (Reg.MSQ_NBDATAw 0) (packWords 16 (match t.nbr (slot % 65536) with
      | some n => n.octets
      | none => List.replicate 64 0))).nbDone 0))

/-- NBCMD_WRITE (R184, R185): a FREE record becomes a neighbour, any other takes the S fields. -/
def execNbcmdWrite (rq : Req) (slot : Nat) (s : State) : Host.Outcome State Fault Refusal :=
  .next (s.gated rq Reg.MSQ_NBCMD (nbWord slot 1) (fun t =>
    let r := slot % 65536
    match t.nbData with
    | none => t.nbDone 3
    | some n =>
      if (t.nodeRec n.node).any (fun e => e.1 != r) then t.nbDone 1
      else
        (t.setNbr r (match t.nbr r with
          | none => n
          | some o =>
            let lost := o.st == 3
            { o with eui := n.eui, node := n.node, key := n.key, sw := n.sw, par := n.par, dep := n.dep, supto := n.supto,
                     st := if lost then 1 else o.st, lastGt := if lost then n.lastGt else o.lastGt })).nbDone 0))

/-- What MSQ keeps for the head of a record's queue goes (R175, R200). -/
def State.forgetHead (s : State) (r : Nat) : State :=
  { s with msq := { s.msq with awaits := s.msq.awaits.filter (fun (a : Await) => a.record != r),
                               headTx := s.msq.headTx.del r, rawTries := s.msq.rawTries.del r } }

/-- NBCMD_FREE (R184, R256): the record and its node map entry are cleared and its downlink queue is flushed. -/
def execNbcmdFree (rq : Req) (slot : Nat) (s : State) : Host.Outcome State Fault Refusal :=
  .next (s.gated rq Reg.MSQ_NBCMD (nbWord slot 2) (fun t =>
    let r := slot % 65536
    let t1 := { t with msq := { t.msq with nbrs := t.msq.nbrs.del r } }
    ((t1.forgetHead r).flushQueue r 6).nbDone 0))

/-- Tell PRC firmware something. -/
def State.tell (s : State) (x : Told) : State := { s with told := s.told ++ [x] }

/-- The packets queued on queue `q`. -/
def State.queuedPkts (s : State) (q : Nat) : Nat := (s.qmg.pkts.filter (fun e => e.2.queue == some q)).length

/-- The supervision time of a record has passed (R185): SUPTO × f_nom cycles of GT after LASTGT. -/
def State.supOver (s : State) (n : Nbr) : Bool :=
  decide ((n.supto * (s.nomFreq / 1000) * cycleUnits : Nat) ≤ gtDiff s.gtb.gt n.lastGt)

/-- SLV and PRC are informed that a node is LOST (R185). -/
def State.nodeLost (s : State) (node : Nat) : State :=
  ({ s with slv := { s.slv with lost := s.slv.lost ++ [node] } }).tell (.lost node)

/-- SUPERVISION_TIMEOUT (R185): the record is LOST, its downlink frames are dropped LINKLOSS, SLV and PRC are told, source
93. -/
def execSupervisionTimeout (t : Time) (record : Nat) (s : State) : Host.Outcome State Fault Refusal :=
  let s0 := s.at t
  .next (match s0.nbr record with
    | none => s0
    | some n =>
      if (n.st = 1 ∨ n.st = 2) ∧ s0.supOver n = true then
        let k := s0.queuedPkts record
        let s1 := (s0.setNbr record { n with st := 3, retries := 0 }).forgetHead record
        ((((s1.flushQueue record 2).bump Ctr.MSQ_TXLOST k).bump Ctr.MSQ_LOST).nodeLost n.node).fire 93
      else s0)

/-! ### Timing (R187, R194, R196) -/

/-- An occurrence of a receive cell: cell, its event counter, E, and the distance of a first chip from E in GT. -/
structure RxMatch where
  cell : Cell
  ec : Nat
  e : Nat
  dist : Nat
  deriving DecidableEq, Repr

/-- The occurrences of record `r`'s receive cells whose E lies within 32 ms of `first` (R196); cells whose template carries no frames
now have none (R179). -/
def State.rxMatches (s : State) (r first : Nat) : List RxMatch :=
  let mid := ecOf s.spc first
  let span := usToGt 32000 s.mainsFreq
  ((s.allCells.filter (fun c => c.dir == 0 && (c.record == r && s.tplCarries c.tpl))).flatMap (fun c =>
    ((List.range 41).filterMap (fun i =>
      let e := mid + i
      if e < 20 then none
      else if s.cellAt c (e - 20) then
        let x := s.cellE c (e - 20)
        let d := (gtDiff first x).natAbs
        if d ≤ span then some { cell := c, ec := e - 20, e := x, dist := d } else none
      else none))))

/-- The receive cell whose E lies nearest to the first chip (R196). -/
def State.rxMatch (s : State) (r first : Nat) : Option RxMatch :=
  (s.rxMatches r first).foldl (fun best m => match best with
    | none => some m
    | some b => if m.dist < b.dist then some m else best) none

/-- E_sfd of an occurrence (R187): slot boundary, TXOFS and 10 symbol periods of the template's L_H, at the rate at which GT
advances now. -/
def State.eSfd (s : State) (m : RxMatch) : Nat :=
  let rc := chipRate (s.tplClass m.cell.tpl)
  gtAdd (slotGt s.spc m.ec)
    (s.rateNsToGt (s.actFld (F.MSQ_TPLt_A_TXOFS m.cell.tpl) * 1000 + 10 * 2 ^ (s.tplLh m.cell.tpl + 4) * 1000000 / rc))

/-- How far the grid runs from its nominal frequency, in 0.01 ppm (R187). -/
def gridPpm (freq fnom : Nat) : Int := (((freq : Int) - 1000 * fnom) * 100000).tdiv fnom

/-- The timing update of a verified frame (R187): `theta` is none where no cell matches. DESIGN CHOICE: a frame with no receive cell within
32 ms has no E_sfd, so that the record keeps its THETA, from which WIDE is computed where R185 asks for it (log entry 153). -/
def Nbr.timing (n : Nbr) (freq fnom : Nat) (fofs : Int) (theta : Option Int) (sfd : Nat) : Nbr :=
  let m := fofs - gridPpm freq fnom
  let dev := m - n.drift
  let r := if n.heard then n.drift + dev.tdiv 4 else m
  let u : Int := if n.heard then (n.unc : Int) + ((dev.natAbs : Int) - n.unc).tdiv 8 else 0
  { n with drift := satInt 24 r, unc := min 255 u.toNat, theta := (theta.map (satInt 24)).getD n.theta, lastGt := sfd,
           heard := true }

/-- Δ of R194 in ns: to the record's next EXP cell, at most SUPTO. -/
def State.toNextExp (s : State) (r : Nat) (n : Nbr) : Nat :=
  let lim := n.supto * 10 ^ 9
  let ds := (s.allCells.filter (fun c => c.dir == 0 && (c.exp && c.record == r))).filterMap (fun c =>
    (s.nextEc c s.ec).map (fun e => gtToNs (gtDiff (s.cellE c e) s.gtb.gt).toNat s.mainsFreq))
  ds.foldl min lim

/-- The grid wander W in 0.01 ppm (R194): how far the mean mains frequency of the last 60 s lies from that of the 60 s before, as a part
of the nominal one. DESIGN CHOICE: 0 until 120 s have been seen (log entry 140). -/
def State.wander (s : State) : Nat :=
  let l := s.gtb.freqs
  let sum := fun (x : List Nat) => x.foldl (· + ·) 0
  if l.length < 120 then 0
  else (((sum (l.drop 60) : Nat) : Int) - (sum (l.take 60) : Nat)).natAbs * 10 ^ 8 / (60 * s.nomFreq)

/-- G of R194 in ns before clamping. -/
def State.guardRaw (s : State) (r : Nat) (n : Nbr) : Nat :=
  2 * (s.actFld F.MSQ_GUARD_JIT * 1000 + (n.unc + s.wander) * s.toNextExp r n / 10 ^ 8)

/-- G in ns, clamped to [GMIN, GDEF], and whether SYNC is set (R194). -/
def State.guardOf (s : State) (r : Nat) (n : Nbr) : Nat × Bool :=
  let raw := s.guardRaw r n
  let lo := s.actFld F.MSQ_GUARD_GMIN * 4000
  let hi := s.actFld F.MSQ_GUARD_GDEF * 4000
  (min hi (max lo raw), Nat.blt hi raw)

/-- WIDE in 16 µs units (R185): of 8 × G and 2 × |θ| + G the smaller. -/
def State.wideOf (s : State) (g : Nat) (theta : Int) : Nat :=
  (min (8 * g) (2 * gtToNs theta.natAbs s.mainsFreq + g) + 15999) / 16000

/-- Half the receive window of a record in GT (R179, R195, R196): 8 × GUARD µs, in RESYNC 8 × WIDE µs, times 4 at SL1. -/
def State.halfWindow (s : State) (n : Nbr) : Nat :=
  usToGt (8 * (if n.st = 2 then n.wide else n.guard) * (if s.level = 1 then 4 else 1)) s.mainsFreq

/-- A first chip matched to a cell is inside its window (R195, R196). -/
def State.inWindow (s : State) (n : Nbr) : Option RxMatch → Bool
  | none => false
  | some m => Nat.ble m.dist (s.halfWindow n)

/-- FCNT is marked in the record (R183). -/
def Nbr.marked (n : Nbr) (f : Nat) : Bool := Nat.ble f n.rxHigh && (Nat.blt (n.rxHigh - f) 64 && bit n.rxWin (n.rxHigh - f))

/-- Mark an accepted FCNT (R188). -/
def Nbr.mark (n : Nbr) (f : Nat) : Nbr :=
  if n.rxHigh < f then
    { n with rxHigh := f, rxWin := (if f - n.rxHigh < 64 then n.rxWin * 2 ^ (f - n.rxHigh) else 0) % 2 ^ 64 / 2 * 2 + 1 }
  else { n with rxWin := setBit n.rxWin (n.rxHigh - f) true }

end Sys2Proof.Machine
end

