-- ==== Sys2Proof/Machine/Mac.lean ====
section
/-! DEFINITION. Native MAC frames (R172 to R175) and how MSQ launches a transmission: header forms, CCM*, outgoing
counters, stream, charge and encode (R14, R199). -/

namespace Sys2Proof.Machine

/-- A MAC header as received (R172, R173): fields, and the octets of the header. -/
structure MacHdr where
  typ : Nat
  sec : Bool
  dir : Bool
  ar : Bool
  ie : Bool
  long : Bool
  seq : Nat
  addr : Nat
  eui : Nat
  fcnt : Nat
  len : Nat
  deriving DecidableEq, Repr

/-- The least length of a form (R173): 2, 5 or 10 octets, a secured frame with its MIC 13 or 18. -/
def minLen (typ : Nat) (sec long : Bool) : Nat :=
  if typ = 4 then 2 else if sec then (if long then 18 else 13) else (if long then 10 else 5)

/-- Step 1 of R186: the header, or none for BADFRM. A beacon is long and secured; an Enhanced ACK is 21 secured octets. -/
def macHdr (l : List Octet) : Option MacHdr :=
  match l with
  | [] => none
  | fc :: rest =>
    let n := fc.toNat
    let typ := n % 8
    let sec := bit n 3
    let long := bit n 7
    if 5 ≤ typ ∨ l.length < minLen typ sec long then none
    else if typ = 2 ∧ (sec && long) = false then none
    else if typ ≠ 2 ∧ (sec && long) = true then none
    else if typ = 1 ∧ (sec = false ∨ l.length ≠ 21) then none
    else
      let a := if long then 10 else 5
      some { typ := typ, sec := sec, dir := bit n 4, ar := bit n 5, ie := bit n 6, long := long,
             seq := (rest.headD 0).toNat, addr := if long || typ == 4 then 0 else leNat (slice l 2 3),
             eui := if long then leNat (slice l 2 8) else 0, fcnt := if sec then leNat (slice l a 4) else 0,
             len := if typ = 4 then 2 else if sec then a + 4 else a }

/-- The octets of the information elements at the front of `l`, terminator included (R173); fuel is the length. -/
def ieLen : Nat → List Octet → Nat
  | 0, _ => 0
  | f + 1, l =>
    match l with
    | i :: n :: t => if i = 0 ∧ n = 0 then 2 else 2 + n.toNat + ieLen f (t.drop n.toNat)
    | _ => l.length

/-- The nonce of R174: source EUI-64, frame counter, security level, most significant octet first. -/
def nonceOf (eui fcnt level : Nat) : List Octet := beOctets 8 eui ++ beOctets 4 fcnt ++ leOctets 1 level

/-- The parts of a secured frame: authenticated data, and the encrypted payload with the MIC (R174). -/
def secParts (h : MacHdr) (l : List Octet) : List Octet × List Octet :=
  let n := l.length - 4
  let body := slice l h.len (n - h.len)
  let k := if h.typ = 2 then body.length else if h.ie then min body.length (ieLen body.length body) else 0
  (l.take (h.len + k), l.drop (h.len + k))

/-- Verify and decrypt a frame under a key (R174). -/
def openFrame (k : KeySlot) (eui : Nat) (h : MacHdr) (l : List Octet) : Option (List Octet) :=
  let level := if h.typ = 2 then 1 else 5
  let p := secParts h l
  ccmOpen k.key k.alg level (nonceOf eui h.fcnt level) p.1 p.2

/-- The whole frame: authenticated data, then the encrypted payload and MIC (R174). -/
def sealFrame (k : KeySlot) (level eui fcnt : Nat) (aad pt : List Octet) : List Octet :=
  aad ++ ccmSeal k.key k.alg level (nonceOf eui fcnt level) aad pt

/-- MSQ_EUI. -/
def State.ownEui (s : State) : Nat := (s.reg Reg.MSQ_EUI_LO).toNat + 2 ^ 32 * (s.reg Reg.MSQ_EUI_HI).toNat

/-- The short secured header of a frame that the device sends to a node (R173). -/
def State.downHdr (s : State) (typ : Nat) (ar ie : Bool) (seq node fcnt : Nat) : List Octet :=
  leOctets 1 (typ + 0x18 + 32 * b2n ar + 64 * b2n ie) ++ leOctets 1 seq
  ++ leOctets 3 (node % 2 ^ 18 + 2 ^ 18 * s.fld F.MSQ_CFG_PANTAG) ++ leOctets 4 fcnt

/-! ### Outgoing counters (R175, R311) -/

/-- The outgoing counter of key slot `n`: after a start it resumes at CTRRES. -/
def State.outCtr (s : State) (n : Nat) : Nat := s.msq.out.getD' n (s.slot n).ctrres

/-- A counter reached its last value: source 104, once for the key (R175). -/
def State.exhaust (s : State) (n : Nat) : State :=
  if s.msq.exhausted.contains n then s
  else ({ s with msq := { s.msq with exhausted := s.msq.exhausted ++ [n] } }).fire 104

/-- A counter value could be taken now; if not, a block is asked for (source 173), or the counter is exhausted. -/
def State.fcntReady (s : State) (n : Nat) : Bool × State :=
  let c := s.outCtr n
  if 0xFFFFFFFF ≤ c then (false, s.exhaust n)
  else if (s.slot n).ctrres ≤ c then
    (false, (State.blockRequest { s with msq := { s.msq with out := s.msq.out.put n c } } n).fire 173)
  else (true, s)

/-- Take the next counter value of key slot `n` (R175, R311): the next block is asked for once half of this one is used. -/
def State.takeFcnt (s : State) (n : Nat) : Option Nat × State :=
  match s.fcntReady n with
  | (false, t) => (none, t)
  | (true, t) =>
    let c := s.outCtr n
    let t1 := { t with msq := { t.msq with out := t.msq.out.put n (c + 1) } }
    let t2 := if (s.slot n).ctrres ≤ c + 1 + s.ctrBlock / 2 then t1.blockRequest n else t1
    (some c, if c + 1 = 0xFFFFFFFF then t2.exhaust n else t2)

/-! ### Launching a transmission -/

/-- A port and slice that carry native channel `ch` of class `c`: one whose link is UP comes first (R104, R105). -/
def State.txSlice (s : State) (c ch : Nat) : Option (Nat × Nat) :=
  let all := (List.range 4).filterMap (fun p =>
    ((List.range 128).find? (fun k => s.sliceOn p k && (s.sliceClass p k == c && (!s.on (F.RFPn_SLk_PHY p k) &&
      chanAt (s.fld (F.RFPn_LINK_BAND p)) c ch (s.sliceCentre p k))))).map (fun k => (p, k)))
  match all.find? (fun x => s.link x.1 == 4) with
  | some x => some x
  | none => all.head?

/-- The port and slice on which a frame received on slice `g` is acknowledged: its own port where that is UP, else the
slice of the same centre on the diversity partner. -/
def State.ackSlice (s : State) (g : Nat) : Nat × Nat :=
  let p := g / 128
  let k := g % 128
  if s.link p = 4 then (p, k)
  else match s.partner p with
    | none => (p, k)
    | some m =>
      match (List.range 128).find? (fun j => s.sliceOn m j && (s.sliceCentre m j == s.sliceCentre p k &&
          s.sliceClass m j == s.sliceClass p k)) with
      | some j => (m, j)
      | none => (p, k)

/-- Why a transmission did not start. -/
inductive Launch where
  | sent (id : Nat)
  | noStream
  | refused (r : BgtReason)
  deriving DecidableEq, Repr

/-- The air time of a frame in GT units at chip rate `rc`. -/
def State.airGt (s : State) (lh : Nat) (h : Hdr) (rc : Nat) : Nat := nsToGt (frameNs lh h rc) s.mainsFreq

/-- A frame can be sent in a cell that allows `maxdur` units of 16 µs (R124, R177): LENGTH is 1 to 2,047 and it lasts no longer. -/
def fitsCell (lh : Nat) (h : Hdr) (rc maxdur : Nat) : Bool :=
  Nat.ble 1 h.len && (Nat.ble h.len 2047 && Nat.ble (frameNs lh h rc) (maxdur * 16000))

/-- Reserve a stream and have BGT charge it (R14, R112, R210). A refused charge cancels the reservation. -/
def State.launch (s : State) (p k start lh : Nat) (h : Hdr) (kind : TxKind) : Launch × State :=
  match s.reserve .msq p k start (s.airGt lh h (chipRate (s.sliceClass p k))) with
  | (none, t) => (.noStream, t)
  | (some id, t) =>
    match t.bgtRequest id kind (frameChipCount lh h) with
    | (some r, u) => (.refused r, u.dropStream p id)
    | (none, u) => (.sent id, u)

/-- MSQ has committed: the frame goes to CDC and the transmission is kept (R135, R199). -/
def State.commitTx (s : State) (id : Nat) (x : MsqTx) : State :=
  ({ s with msq := { s.msq with tx := s.msq.tx.put id x } }).cdcRequest
    { id := id, start := x.start, lh := x.lh, hdr := x.hdr, payload := x.frame }

end Sys2Proof.Machine
end

