-- ==== Sys2Proof/Machine/MsqRx.lean ====
section
/-! DEFINITION. MSQ receiving (chapter 09): the checks of a native frame, delivery, ACKs, the class C filter, beacons of
other border routers, ACKs from nodes. -/

namespace Sys2Proof.Machine

/-! ### Delivery -/

/-- The lowest-numbered PRC queue of work kind `w` (R360). -/
def State.prcQueue (s : State) (w : Nat) : Option Nat := (List.range 16).find? (fun q => s.fld (F.PRC_QCFGq_WORK q) == w)

/-- A packet goes onto the PRC queue of work kind `w`; where no queue carries that work it ends FILTER. -/
def State.toPrc (s : State) (w unit start : Nat) : State :=
  match s.prcQueue w with
  | some q => s.pushPkt (65584 + q) (.hw unit 0) start
  | none => s.endPkt start (.drop 7)

/-- Ask QMG for a buffer for an accepted air frame and pass it to PRC (R188, R191, R360): granted or not. -/
def State.airIn (s : State) (k : Nat) (data : List Octet) (info : PktInfo) : Bool × State :=
  match s.acceptPkt k (cellsFor data.length) data (.hw 7 0) info with
  | (some st, t) => (true, (t.bump Ctr.MSQ_RXACC).toPrc 0 7 st)
  | (none, t) => (false, t)

/-! ### ACKs of the device -/

/-- An ACK was not sent for a reason other than the cutoff (R189): counted, source 99. -/
def State.ackFail (s : State) : State := (s.bump Ctr.MSQ_ACKFAIL).fire 99

/-- The ACK cutoff (R168, R190) for a first chip at `start` on slice `k` of port `p`: 50 µs before it, SETTLE earlier
where the profile changes, and earlier by what TXLAT exceeds 20 µs. -/
def State.cutoff (s : State) (p k start dur : Nat) : Nat :=
  let settle := match s.pickProfile p k start dur with
    | some j => if j = (s.port p).prof then 0 else s.fld (F.RFPn_TIMING_SETTLE p)
    | none => 0
  let late := s.fld (F.RFPn_LAT_TXLAT p) - 20000
  gtSub start (nsToGt ((50 + settle) * 1000 + late) s.mainsFreq)

/-- The CCA window an ACK needs opens before the acknowledged frame ends or has to open before now (R219). -/
def State.ackCcaLate (s : State) (p k start fin : Nat) : Bool :=
  match s.lbt (s.sliceCentre p k).toNat (spacing (s.sliceClass p k)) .ack with
  | none => false
  | some (w, _) =>
    let opens := (s.ccaWindow p start w).1
    decide (gtDiff opens fin < 0) || decide (gtDiff opens s.gtb.gt < 0)

/-- A change of a step or a mask is announced (R203): a step's boundary G has come, or group 2 is staged. -/
def State.announcing (s : State) : Bool :=
  s.stepAnnounced || s.staged.any (fun (x : Staged) => x.unit == 7 && x.grp == 2)

/-- The 8-octet body of an Enhanced ACK (R193). `guard` in 16 µs units. -/
def ackBody (theta : Int) (n : Nbr) (guard : Nat) (pend nack sync ann : Bool) : List Octet :=
  let t : Int := if theta > 8388607 then 8388607 else if theta < -8388607 then -8388607 else theta
  leOctets 3 (unsigned 24 t) ++ leOctets 3 (unsigned 24 n.drift) ++ leOctets 1 guard
  ++ leOctets 1 (n.sw % 4 + 4 * b2n pend + 8 * b2n nack + 16 * b2n sync + 32 * b2n ann)

/-- The PHY header of an ACK of `len` octets: P = 4, D = 1 (R192). -/
def ackHdr (len sw : Nat) : Hdr := { len := len, par := 1, dep := 0, sw := sw }

/-- Launch an ACK on the frame's slice; `what` and its octets are given. Refused, it counts in MSQ_ACKFAIL. -/
def State.launchAck (s : State) (g start fin lh : Nat) (h : Hdr) (what : TxWhat) (fcnt : Nat) (frame : List Octet) : State :=
  let (p, k) := s.ackSlice g
  if s.ackCcaLate p k start fin then s.ackFail
  else
    match s.launch p k start lh h .ack with
    | (.sent id, t) =>
      t.commitTx id { what := what, port := p, slice := k, start := start, cellEnd := 0, lh := lh, hdr := h, frame := frame,
                      ar := false, fcnt := fcnt, tries := 0, inserted := none }
    | (_, t) => t.ackFail

/-- The Enhanced ACK of a verified frame (R189, R190, R193). `inside` is row 1 of R189; `theta` is SFDGT − E_sfd. -/
def State.enhAck (s : State) (r : Nat) (n : Nbr) (key : KeySlot) (f : RxFrame) (h : MacHdr) (inside nack : Bool) (theta : Int) : State :=
  if !h.ar then s
  else if !inside then s.bump Ctr.MSQ_OUTWIN
  else
    let lh := f.qrec.lh
    let hd := ackHdr 21 (min n.sw lh)
    let start := gtAdd f.fin (usToGt 1000 s.mainsFreq)
    let (p, k) := s.ackSlice f.qrec.slice
    if 0 < gtDiff s.gtb.gt (s.cutoff p k start (s.airGt lh hd (chipRate (s.sliceClass p k)))) then
      (s.bump Ctr.MSQ_ACKLATE).fire 98
    else if !s.gtValid then s.ackFail
    else
      match s.takeFcnt n.key with
      | (none, t) => t.ackFail
      | (some c, t) =>
        let gs := t.guardOf r n
        let gu := (gs.1 + 15999) / 16000
        let t1 := t.setNbr r { n with guard := gu }
        let body := ackBody theta n gu (!(s.queue r).cells.isEmpty) nack gs.2 s.announcing
        let frame := sealFrame key 5 t1.ownEui c (t1.downHdr 1 false false h.seq n.node c) body
        t1.launchAck f.qrec.slice start f.fin lh hd (.enhAck r) c frame

/-- The immediate ACK of a class C frame (R192). -/
def State.immAck (s : State) (f : RxFrame) (h : MacHdr) : State :=
  if !h.ar then s
  else
    let lh := f.qrec.lh
    let hd := ackHdr 2 f.hdr.sw
    let rc := chipRate (s.sliceClass (f.qrec.slice / 128) (f.qrec.slice % 128))
    let start := gtAdd f.fin (nsToGt (12 * 2 ^ (lh + 4 - f.hdr.sw) * 1000000 / rc) s.mainsFreq)
    let (p, k) := s.ackSlice f.qrec.slice
    if 0 < gtDiff s.gtb.gt (s.cutoff p k start (s.airGt lh hd rc)) then s.bump Ctr.MSQ_ACKLATE
    else s.launchAck f.qrec.slice start f.fin lh hd .immAck 0 (leOctets 1 4 ++ leOctets 1 h.seq)

/-! ### The class C filter (R191) -/

/-- A source of the filter matches a frame. -/
def CSrc.is (x : CSrc) (h : MacHdr) : Bool := x.long == h.long && x.addr == (if h.long then h.eui else h.addr)

/-- The frame repeats a SEQ its source sent within the last 2 s. -/
def State.cDup (s : State) (h : MacHdr) : Bool :=
  s.msq.classC.any (fun (x : CSrc) => x.is h &&
    x.seqs.any (fun e => e.1 == h.seq && decide (gtDiff s.gtb.gt e.2 ≤ (usToGt 2000000 s.mainsFreq : Nat))))

/-- The source becomes the most recently heard one, with a new SEQ where `new`; a full filter evicts the least recent. -/
def State.cHeard (s : State) (h : MacHdr) (new : Bool) : State :=
  let old := s.msq.classC.find? (fun (x : CSrc) => x.is h)
  let rest := s.msq.classC.filter (fun (x : CSrc) => !x.is h)
  let base : CSrc := old.getD { long := h.long, addr := if h.long then h.eui else h.addr, seqs := [] }
  let seqs := if new then base.seqs ++ [(h.seq, s.gtb.gt)] else base.seqs
  let x : CSrc := { base with seqs := seqs.drop (seqs.length - 4) }
  if rest.length < 16384 then { s with msq := { s.msq with classC := rest ++ [x] } }
  else
    let young := match rest.head? with
      | some v => v.seqs.any (fun e => decide (gtDiff s.gtb.gt e.2 < (usToGt 2000000 s.mainsFreq : Nat)))
      | none => false
    let s1 := { s with msq := { s.msq with classC := rest.drop 1 ++ [x] } }
    if young then (s1.bump Ctr.MSQ_CEVICT).fire 106 else s1

/-- A class C frame (R191, R192). `node` is the node its short address names. DESIGN CHOICE: a frame that QMG refuses is neither a
duplicate nor excepted by R191 or R192: its SEQ enters the filter and it is acknowledged, so that a repeat within 2 s counts as a duplicate
(log entry 153). -/
def State.classCIn (s : State) (f : RxFrame) (h : MacHdr) (node : Option Nat) : State :=
  if s.cDup h then ((s.cHeard h false).bump Ctr.MSQ_DUPC).immAck f h
  else
    let s1 := s.cHeard h true
    ((s1.airIn 1 f.payload { kind := 1, node := node, eui := if h.long then some h.eui else none }).2).immAck f h

/-! ### ACKs from nodes (R199, R200) -/

/-- End the packet of queue `r` that a transmission carried, if it is still queued there, and check the new head's age. -/
def State.endHead (s : State) (r pkt : Nat) (e : PktEnd) : State :=
  if (s.qmg.pkts.find pkt).any (fun p => p.queue == some r) then (s.endPkt pkt e).ageNow r else s

/-- A downlink frame ended as transmitted. -/
def State.downDone (s : State) (r pkt : Nat) (acked : Bool) : State :=
  let s1 := (s.cellsAcked pkt).forgetHead r
  let s2 := match s1.nbr r with
    | some n => s1.setNbr r { n with retries := 0 }
    | none => s1
  let s3 := if acked then s2.bump Ctr.MSQ_TXACKED else s2
  s3.endHead r pkt .tx

/-- An attempt of a frame failed (R200, R216): RETRIES counts; above MAXRETRY the frame is dropped RETRY, source 100. -/
def State.attemptFailed (s : State) (r pkt : Nat) : State :=
  let s0 := { s with msq := { s.msq with awaits := s.msq.awaits.filter (fun (a : Await) => a.record != r) } }
  let n := match s.nbr r with
    | some x => x.retries + 1
    | none => s.msq.rawTries.getD' r 0 + 1
  if s.fld F.MSQ_TXCFG_MAXRETRY < n then
    let s1 := s0.forgetHead r
    let s2 := match s1.nbr r with
      | some x => s1.setNbr r { x with retries := 0 }
      | none => s1
    let s3 := ((s2.endHead r pkt (.drop 3)).bump Ctr.MSQ_TXDROP).fire 100
    s3.cellsDropped (s.setOfPkt pkt)
  else match s0.nbr r with
    | some x => s0.setNbr r { x with retries := n }
    | none => { s0 with msq := { s0.msq with rawTries := s0.msq.rawTries.put r n } }

/-- The frame of record `r` that waits for an Enhanced ACK whose first chip lies at `first` (R199). -/
def State.awaited (s : State) (r first : Nat) : Option Await :=
  s.msq.awaits.find? (fun (a : Await) => !a.raw && (a.record == r &&
    decide ((gtDiff first (gtAdd a.fin (usToGt 1000 s.mainsFreq))).natAbs ≤ usToGt 50 s.mainsFreq)))

/-! ### Beacons of other border routers (R204) -/

/-- One key of `KVT` tried on a beacon (R204): whether it verifies, and the state with the key asked for. -/
def State.tryBeacon (s : State) (h : MacHdr) (l : List Octet) (n : Nat) : Bool × State :=
  match s.keyRequest .beacon n with
  | (some k, u) => ((openFrame k h.eui h l).isSome, u)
  | (none, u) => (false, u)

/-- The key that verifies a beacon, tried in turn: the beacon key, then the peer's while PEEREN = 1. -/
def State.openBeacon (s : State) (h : MacHdr) (l : List Octet) : Bool × State :=
  match s.tryBeacon h l (s.actFld F.MSQ_BCN_KEYSLOT) with
  | (true, t) => (true, t)
  | (false, t) =>
    if s.actFld F.MSQ_BCNPEER_PEEREN = 1 then t.tryBeacon h l (s.actFld F.MSQ_BCNPEER_PEERKEY) else (false, t)

/-- A verification failed (R186 step 7, R204): counted, and source 96 when the second's count reaches MICTHR. -/
def State.micFail (s : State) : State :=
  let n := s.msq.micFails + 1
  let s1 := { s.bump Ctr.MSQ_MICFAIL with msq := { s.msq with micFails := n } }
  s1.fireIf (s.fld F.MSQ_THR_MICTHR != 0 && n == s.fld F.MSQ_THR_MICTHR) 96

/-- A beacon (R75, R78, R204): counted, verified, and passed to GTB with its inserted GT and RANK. -/
def State.beaconIn (s : State) (f : RxFrame) (h : MacHdr) : State :=
  let s0 := s.bump Ctr.MSQ_BCNRX
  match s0.openBeacon h f.payload with
  | (false, t) => t.micFail
  | (true, t) =>
    let rank := (f.payload.getD 23 0).toNat
    let t1 := t.learnResidual f.qrec.sfdGt (leNat (slice f.payload 14 8)) rank
    if rank < t.fld F.GTB_CFG_RANK then
      let t2 := { t1 with gtb := { t1.gtb with peerAt := some t1.gtb.ft } }
      t2.setFlag F.GTB_STATUS_AUTH t2.authority
    else t1

/-! ### Class S frames -/

/-- A verified frame is noted for R197 and R238; entries older than 4 s go. -/
def State.noteVerified (s : State) (r first : Nat) : State :=
  let keep := s.msq.verified.filter (fun (e : Nat × Nat) => decide (gtDiff first e.2 < (usToGt 4000000 s.mainsFreq : Nat)))
  { s with msq := { s.msq with verified := keep ++ [(r, first)] } }

/-- The record's state after a verified frame (R185), and whether it entered RESYNC: from ACTIVE by a frame outside its window or found
by a search; from RESYNC it goes back with one within WIDE / 2. -/
def Nbr.after (n : Nbr) (inside searched : Bool) (wide : Nat) : Nbr × Bool :=
  if !inside || (searched && n.st == 1) then ({ n with st := 2, wide := wide }, n.st == 1)
  else ({ n with st := 1 }, false)

/-- The search that found a frame has yielded one that passes step 8: it counts once (R197). -/
def State.searchHit (s : State) (f : RxFrame) : State :=
  match f.search with
  | none => s
  | some i =>
    if s.msq.found.contains i then s
    else
      let l := s.msq.found ++ [i]
      { s.bump Ctr.MSQ_SRCHFOUND with msq := { s.msq with found := l.drop (l.length - 256) } }

/-- A verified data or command frame (R186 steps 8 and 9, R185, R187 to R189). -/
def State.verifiedIn (s : State) (r : Nat) (n0 : Nbr) (key : KeySlot) (f : RxFrame) (h : MacHdr) (pt : List Octet) : State :=
  let first := gtSub f.qrec.sfdGt (s.symGt f.qrec.slice f.qrec.lh 10)
  let m := s.rxMatch r first
  let theta := m.map (fun x => gtDiff f.qrec.sfdGt (s.eSfd x))
  let inside := s.inWindow n0 m
  let n1 := n0.timing (s.meanFreq 1) (s.nomFreq / 1000) f.qrec.meas.fofs theta f.qrec.sfdGt
  let dup := n0.marked h.fcnt
  let searched := f.search.isSome
  let wide := s.wideOf (s.guardOf r n1).1 n1.theta
  let st := n1.after inside searched wide
  let s1 := ((s.setNbr r st.1).noteVerified r first).searchHit f
  let s2 := (s1.fireIf st.2 94).fireIf (searched && !dup) 95
  let s3 := match m with
    | some x => if inside then s2.slvVerified n0.node x.cell x.ec else s2
    | none => s2
  let tcorr := theta.getD 0
  if dup then (s3.bump Ctr.MSQ_DUPS).enhAck r st.1 key f h inside false tcorr
  else
    match s3.airIn 0 ((secParts h f.payload).1.drop h.len ++ pt)
        { kind := 0, record := some r, node := some n0.node, eui := some n0.eui, secured := true, gt := f.qrec.sfdGt } with
    | (true, t) =>
      let n2 := st.1.mark h.fcnt
      (t.setNbr r n2).enhAck r n2 key f h inside false tcorr
    | (false, t) => (t.bump Ctr.MSQ_NACK).enhAck r st.1 key f h inside true tcorr

/-- A verified Enhanced ACK of a node (R185, R199, R200): a verified frame, whose rate and LASTGT are updated, and the frame it
acknowledges ends. -/
def State.nodeAck (s : State) (r : Nat) (n0 : Nbr) (a : Await) (f : RxFrame) (pt : List Octet) : State :=
  let first := gtSub f.qrec.sfdGt (s.symGt f.qrec.slice f.qrec.lh 10)
  let n1 := n0.timing (s.meanFreq 1) (s.nomFreq / 1000) f.qrec.meas.fofs none f.qrec.sfdGt
  let s1 := (s.setNbr r n1).noteVerified r first
  if bit (pt.getD 7 0).toNat 3 then s1.attemptFailed r a.pkt else s1.downDone r a.pkt true

/-- A class S frame from step 3 of R186 on. -/
def State.classSIn (s : State) (f : RxFrame) (h : MacHdr) : State :=
  match s.nodeRec (h.addr % 2 ^ 18) with
  | none => s.bump Ctr.MSQ_NOTHOME
  | some (r, n) =>
    if n.st ≠ 1 ∧ n.st ≠ 2 then (s.bump Ctr.MSQ_NOTACT).tell (.notAct n.node)
    else
      let first := gtSub f.qrec.sfdGt (s.symGt f.qrec.slice f.qrec.lh 10)
      let aw := s.awaited r first
      if h.typ = 1 ∧ aw = none then s
      else if h.fcnt + 63 < n.rxHigh then
        let k := s.msq.stales + 1
        let s1 := { s.bump Ctr.MSQ_STALE with msq := { s.msq with stales := k } }
        s1.fireIf (s.fld F.MSQ_THR_STALETHR != 0 && k == s.fld F.MSQ_THR_STALETHR) 97
      else
        match s.keyRequest (.link n.node) n.key with
        | (none, t) => t.bump Ctr.MSQ_NOKEY
        | (some key, t) =>
          match openFrame key n.eui h f.payload with
          | none => t.micFail
          | some pt =>
            match h.typ, aw with
            | 1, some a => t.nodeAck r n a f pt
            | _, _ => t.verifiedIn r n key f h pt

/-- A native OK frame (R186). -/
def State.nativeIn (s : State) (f : RxFrame) : State :=
  match macHdr f.payload with
  | none => (s.bump Ctr.MSQ_BADFRM).mirror f.qrec
  | some h =>
    if h.typ = 2 then (s.beaconIn f h).mirror f.qrec
    else if h.typ = 4 then
      let s1 := match s.msq.awaits.find? (fun (a : Await) => a.raw &&
          ((s.qmg.pkts.find a.pkt).any (fun p => (p.data.getD 1 0).toNat == h.seq))) with
        | some a => s.downDone a.record a.pkt true
        | none => s
      s1.mirror f.qrec
    else if h.long then (s.classCIn f h none).mirror f.qrec
    else if h.addr / 2 ^ 18 ≠ s.fld F.MSQ_CFG_PANTAG then (s.bump Ctr.MSQ_FOREIGN).mirror f.qrec
    else
      let node := h.addr % 2 ^ 18
      let q := { f.qrec with node := some node }
      let s1 := (s.observe q node).mirror q
      if h.sec then s1.classSIn { f with qrec := q } h else s1.classCIn { f with qrec := q } h (some node)

/-- MSQ_FRAME_RECEIVE (R186): the frame at the head of MSQ's input at the moment of its decision, in grid time and free time. -/
def execMsqFrameReceive (gt ft : Nat) (s : State) : Host.Outcome State Fault Refusal :=
  let s0 := s.at ⟨gt, ft⟩
  .next (match s.inbox with
    | [] => s0
    | f :: rest => ({ s0 with inbox := rest }).nativeIn f)

/-- The moment by which the ACK of a frame would have begun: an Enhanced ACK 1,050 µs after the frame's end (R199). The spec gives none
for a class C frame: any time after its end (log entry 140). -/
def State.ackDue (s : State) (a : Await) : Nat := if a.raw then a.fin else gtAdd a.fin (usToGt 1050 s.mainsFreq)

/-- NODE_ACK_TIMEOUT (R199, R200): the ACK of the frame of record `record` did not come within 50 µs of its moment. -/
def execNodeAckTimeout (t : Time) (record : Nat) (s : State) : Host.Outcome State Fault Refusal :=
  let s0 := s.at t
  .next (match s0.msq.awaits.find? (fun (a : Await) => a.record == record) with
    | some a => if 0 < gtDiff t.gt (s0.ackDue a) then s0.attemptFailed record a.pkt else s0
    | none => s0)

end Sys2Proof.Machine
end

