-- ==== Sys2Proof/Machine/MsqTx.lean ====
section
/-! DEFINITION. MSQ transmitting (chapter 09): beacons, downlink frames, shared cells, what becomes of a transmission, EXP
cells and directed searches. -/

namespace Sys2Proof.Machine

/-! ### Beacons (R201, R202) -/

/-- The staged set of the channel masks, if there is one. -/
def State.maskStaged (s : State) : Option Staged := s.staged.find? (fun (x : Staged) => x.unit == 7 && x.grp == 2)

/-- The EC at which a staged mask becomes active (R182): the first slot at or after EC_c + 16 × F. -/
def State.maskEc (s : State) (st : Staged) : Nat :=
  ((s.ec : Int) - gsnDiff s.gsn st.gsn).toNat + 16 * s.longestSf

/-- The CHMAP element of class `c` (R202). -/
def State.chmap (s : State) (c : Nat) : List Octet :=
  let n := s.hopLen c
  let st := s.maskStaged
  let word := fun j => match st with
    | some x => s.newAct x (Reg.MSQ_CHMcj c j)
    | none => s.act (Reg.MSQ_CHMcj c j)
  let changes := (List.range 4).any (fun j => word j != s.act (Reg.MSQ_CHMcj c j))
  let ver := s.fld (F.MSQ_HOPcLEN_VER c) + b2n changes
  let ec := match st with
    | some x => s.maskEc x
    | none => s.msq.maskEc.getD c 0
  let body := leOctets 1 c ++ leOctets 1 ver ++ leOctets 1 n ++ leOctets 6 ec
    ++ ((List.range 4).flatMap (fun j => leOctets 4 (word j).toNat)).take ((n + 7) / 8)
  leOctets 1 1 ++ leOctets 1 body.length ++ body

/-- The HOPSEQ element of class `c` (R202). -/
def State.hopElement (s : State) (c : Nat) : List Octet :=
  let n := s.hopLen c
  leOctets 1 2 ++ leOctets 1 (n + 1) ++ leOctets 1 c ++ (List.range n).flatMap (fun i => leOctets 1 (s.hopSeq c i))

/-- The elements of the next beacon, with the terminator (R173, R202). -/
def State.beaconIes (s : State) : List Octet :=
  let cs := (List.range 4).filter (fun c => s.hopLen c != 0)
  let per := max 1 (s.actFld F.MSQ_BCN_SEQPER)
  cs.flatMap s.chmap
  ++ (if s.msq.bcnCount % per = 0 then cs.flatMap s.hopElement else [])
  ++ (if s.stepAnnounced then
        leOctets 1 3 ++ leOctets 1 8 ++ leOctets 4 (unsigned 32 (signed 32 (s.fld F.GTB_STEP_SLOTS)))
          ++ leOctets 4 (s.fld F.GTB_STEPGSN_GSN)
      else [])
  ++ (match s.msq.join with
      | some c => leOctets 1 4 ++ leOctets 1 6 ++ leOctets 2 (s.sfLen c.sf % 65536) ++ leOctets 2 c.slot
          ++ leOctets 1 c.chofs ++ leOctets 1 c.tpl
      | none => [])
  ++ [0, 0]

/-- A beacon before its MIC (R201), with counter `c` and the GT of its SFD. -/
def State.beaconAad (s : State) (c sfd : Nat) : List Octet :=
  [0xDA] ++ leOctets 1 s.msq.bcnSeq ++ leOctets 8 s.ownEui ++ leOctets 4 c ++ insertGt 0 sfd
  ++ leOctets 1 (s.spc % 8 + 8 * s.fld F.GTB_CFG_NOMF + 16 * (s.gtbState % 8)) ++ leOctets 1 (s.fld F.GTB_CFG_RANK)
  ++ leOctets 1 (s.fld F.MSQ_CFG_PANTAG) ++ s.beaconIes

/-- Send the beacon of a BEACON cell, or suppress it with source 103 (R201, R216): also one longer than the cell allows (R177). -/
def State.sendBeacon (s : State) (c : Cell) (e p k : Nat) : State :=
  let n := s.actFld F.MSQ_BCN_KEYSLOT
  let lh := s.tplLh c.tpl
  let h : Hdr := { len := (s.beaconAad 0 0).length + 4, par := 1, dep := 0, sw := 0 }
  let start := s.cellE c e
  if s.actFld F.MSQ_BCN_EN ≠ 1 ∨ s.gtValid = false ∨ fitsCell lh h (chipRate (s.sliceClass p k)) (s.tplMaxDur c.tpl) = false then
    s.fire 103
  else match s.keyRequest .beacon n with
    | (none, t) => t.fire 103
    | (some key, t) =>
      match t.fcntReady n with
      | (false, u) => u.fire 103
      | (true, u) =>
        match u.launch p k start lh h .beacon with
        | (.sent id, v) =>
          match v.takeFcnt n with
          | (none, w) => w.fire 103
          | (some f, w) =>
            let rc := chipRate (s.sliceClass p k)
            let sfd := s.acrossStep (gtAdd start (s.rateNsToGt (10 * 2 ^ (lh + 4) * 1000000 / rc)))
            let frame := sealFrame key 1 s.ownEui f (s.beaconAad f sfd) []
            let w1 := w.commitTx id
              { what := .beacon, port := p, slice := k, start := start, cellEnd := s.cellFin c e, lh := lh, hdr := h,
                frame := frame, ar := false, fcnt := f, tries := 0, inserted := some sfd }
            { w1 with msq := { w1.msq with bcnSeq := (s.msq.bcnSeq + 1) % 256, bcnCount := s.msq.bcnCount + 1 } }
        | (_, v) => v.fire 103

/-! ### Downlink frames (R175, R199, R200, R236) -/

/-- The octets of a packet's frame to a node (R172 to R174): a CELLS packet is a command frame with its element, any other a
data frame. -/
def State.downFrame (s : State) (n : Nbr) (key : KeySlot) (p : Pkt) (ar : Bool) (fcnt seq : Nat) : List Octet :=
  if p.info.kind = 9 then
    sealFrame key 5 s.ownEui fcnt (s.downHdr 3 ar true seq n.node fcnt ++ p.data ++ [0, 0]) []
  else sealFrame key 5 s.ownEui fcnt (s.downHdr 0 ar false seq n.node fcnt) p.data

/-- The length of that frame. -/
def downLen (p : Pkt) : Nat := if p.info.kind = 9 then 15 + p.data.length else 13 + p.data.length

/-- The frame at the head of queue `r` as it was first sent, where the head is still that packet. -/
def State.sentBefore (s : State) (r pkt : Nat) (p : Pkt) : Option HeadTx :=
  match s.msq.headTx.find r with
  | some x => if x.pkt = pkt ∧ x.arr = p.arr ∧ x.data = p.data then some x else none
  | none => none

/-- A refusal of BGT that waiting cannot cure counts as an attempt (R216). -/
def BgtReason.attempt : BgtReason → Bool
  | .txmax => true
  | .resv => true
  | .budget => false
  | .offtime => false

/-- The frame of a head packet (R175, R199): as it was first sent, or made now under the record's key with the next counter value; none
where no key or counter is served. The state has asked for them. -/
def State.headFrame (s : State) (r : Nat) (n : Nbr) (pkt : Nat) (x : Pkt) (ar : Bool) : Option HeadTx × State :=
  match s.sentBefore r pkt x with
  | some y => (some y, s)
  | none => match s.keyRequest (.link n.node) n.key with
    | (none, t) => (none, t)
    | (some key, t) => match t.fcntReady n.key with
      | (false, u) => (none, u)
      | (true, u) =>
        let f := u.outCtr n.key
        let q := u.fresh % 256
        (some { pkt := pkt, arr := x.arr, data := x.data, fcnt := f, seq := q, frame := u.downFrame n key x ar f q }, u.nextFree)

/-- Transmission `id` carries frame `y` of the head packet (R175, R199): sent the first time, it takes its counter value. -/
def State.headSent (s : State) (id r : Nat) (n : Nbr) (old : Bool) (y : HeadTx) (tx : MsqTx) : State :=
  if old then s.commitTx id tx
  else
    let w := (s.takeFcnt n.key).2
    let w1 := { w with msq := { w.msq with headTx := w.msq.headTx.put r y } }
    (w1.setNbr r { n with retries := 0 }).commitTx id tx

/-- Send packet `pkt` at the head of queue `r` to neighbour `n` in an occurrence of a cell (R199): `ar` asks for an ACK. It
stays queued where it does not fit the template, where no key or counter value is served, or where it is refused. -/
def State.sendDown (s : State) (c : Cell) (e p k r : Nat) (n : Nbr) (pkt : Nat) (x : Pkt) (ar : Bool) (what : TxWhat) : State :=
  let lh := s.tplLh c.tpl
  let h : Hdr := { len := downLen x, par := n.par, dep := fitDepth (downLen x) n.dep, sw := min n.sw lh }
  let start := s.cellE c e
  if fitsCell lh h (chipRate (s.sliceClass p k)) (s.tplMaxDur c.tpl) = false then s
  else match s.headFrame r n pkt x ar with
    | (none, t) => t
    | (some y, t) =>
      match t.launch p k start lh h .data with
      | (.noStream, v) => v
      | (.refused q, v) => if q.attempt then v.attemptFailed r pkt else v
      | (.sent id, v) =>
        v.headSent id r n (s.sentBefore r pkt x).isSome y
          { what := what, port := p, slice := k, start := start, cellEnd := s.cellFin c e, lh := lh, hdr := h,
            frame := y.frame, ar := ar, fcnt := y.fcnt, tries := 0, inserted := none }

/-- Send a class C frame from the queue of a FREE record, as its packet holds it, in a shared cell (R200). -/
def State.sendRaw (s : State) (lh p k start cellEnd maxdur r pkt : Nat) (x : Pkt) (tries : Nat) : State :=
  let h : Hdr := { len := x.data.length, par := 1, dep := 0, sw := 0 }
  let rc := chipRate (s.sliceClass p k)
  if fitsCell lh h rc maxdur = false then s
  else match s.launch p k start lh h .data with
    | (.noStream, v) => v
    | (.refused q, v) => if q.attempt then v.attemptFailed r pkt else v
    | (.sent id, v) =>
      v.commitTx id { what := .raw r pkt, port := p, slice := k, start := start, cellEnd := cellEnd, lh := lh, hdr := h,
                      frame := x.data, ar := bit (x.data.headD 0).toNat 5, fcnt := 0, tries := tries, inserted := none }

/-- A transmission of MSQ for record `r` is under way or waits for its ACK. -/
def State.busyWith (s : State) (r : Nat) : Bool :=
  s.msq.awaits.any (fun (a : Await) => a.record == r) || (s.msq.tx.any (fun e => match e.2.what with
    | .down q _ => q == r
    | .cells q _ => q == r
    | .raw q _ => q == r
    | _ => false) || s.msq.backoffs.any (fun e => match e.2.2.what with
    | .raw q _ => q == r
    | _ => false))

/-- MSQ_TX_SELECT (R176, R199 to R201): 500 µs before the first chip of the occurrence `ec` of a transmit or shared cell.
In a shared cell `record` names the queue whose head is sent. -/
def execMsqTxSelect (t : Time) (cell : Cell) (ec record : Nat) (s : State) : Host.Outcome State Fault Refusal :=
  let s0 := s.at t
  let r := if cell.dir = 1 then cell.record else record
  .next (if s0.level != 0 && (s0.allCells.contains cell && (s0.cellAt cell ec && cell.dir != 0)) then
    if s0.tplOn cell.tpl = false ∨ (cell.dir = 1 ∧ cell.beacon = false ∧ s0.nbr r = none) then s0.fire 107
    else if s0.tplCarries cell.tpl = false then s0.fireIf cell.beacon 103
    else match s0.cellChannel (s0.tplClass cell.tpl) ec cell.chofs with
      | none => s0.fireIf cell.beacon 103
      | some ch =>
        match s0.txSlice (s0.tplClass cell.tpl) ch with
        | none => s0.fireIf cell.beacon 103
        | some (p, k) =>
          if cell.beacon then s0.sendBeacon cell ec p k
          else if s0.gtValid = false ∨ s0.busyWith r = true then s0
          else match s0.headPkt r, s0.nbr r with
            | none, _ => s0
            | some (pkt, x), some n =>
              if n.st ≠ 1 then s0
              else if cell.dir = 1 then
                if x.info.kind = 9 ∧ x.info.flag = false then s0
                else s0.sendDown cell ec p k r n pkt x true (.down r pkt)
              else if x.info.kind = 9 ∧ x.info.flag = false then s0.sendDown cell ec p k r n pkt x false (.cells r pkt)
              else s0
            | some (pkt, x), none =>
              if cell.dir = 2 then
                s0.sendRaw (s0.tplLh cell.tpl) p k (s0.cellE cell ec) (s0.cellFin cell ec) (s0.tplMaxDur cell.tpl) r pkt x 1
              else s0
  else s0)

/-! ### What becomes of a transmission -/

/-- MSQ forgets transmission `id`. -/
def State.forgetTx (s : State) (id : Nat) : State := { s with msq := { s.msq with tx := s.msq.tx.del id } }

/-- A frame with AR = 0 left in full: it ends as transmitted. -/
def State.sentDone (s : State) (r pkt : Nat) : State := (s.forgetHead r).endHead r pkt .tx

/-- The last chip of transmission `id` left (R189, R199 to R201). -/
def State.txSent (s : State) (id : Nat) : State :=
  match s.msq.tx.find id with
  | none => s
  | some x =>
    let s1 := s.forgetTx id
    let fin := gtAdd x.start (s.airGt x.lh x.hdr (chipRate (s.sliceClass x.port x.slice)))
    let wait := fun (t : State) (r : Nat) (raw : Bool) (pkt : Nat) =>
      { t with msq := { t.msq with awaits := t.msq.awaits ++ [{ record := r, raw := raw, pkt := pkt, fin := fin }] } }
    match x.what with
    | .enhAck _ => s1.bump Ctr.MSQ_ACKS
    | .immAck => s1.bump Ctr.MSQ_ACKC
    | .beacon => s1.bump Ctr.MSQ_BCNTX
    | .down r pkt => let s2 := s1.bump Ctr.MSQ_TXATT
                     if x.ar then wait s2 r false pkt else s2.sentDone r pkt
    | .cells r pkt => (s1.bump Ctr.MSQ_TXATT).sentDone r pkt
    | .raw r pkt => let s2 := s1.bump Ctr.MSQ_TXATT
                    if x.ar then wait s2 r true pkt else s2.sentDone r pkt

/-- Transmission `id` was aborted (R200): an ACK counts as not sent, any other frame is no attempt. -/
def State.txAborted (s : State) (id : Nat) : State :=
  match s.msq.tx.find id with
  | none => s
  | some x =>
    let s1 := s.forgetTx id
    match x.what with
    | .enhAck _ => s1.ackFail
    | .immAck => s1.ackFail
    | _ => s1

/-- TRIES and BACKOFF of a frame (R218): the largest among the budgets that make it listen. -/
def State.csma (s : State) (p k : Nat) : Nat × Nat :=
  let ks := s.listenBudgets (s.sliceCentre p k).toNat (spacing (s.sliceClass p k)) .data
  (max 1 (ks.foldl (fun n j => max n (s.fld (F.BGT_SBkLBT_TRIES j))) 0),
   ks.foldl (fun n j => max n (s.fld (F.BGT_SBkLBT_BACKOFF j))) 0)

/-- Transmission `id` met CCA BUSY (R216, R218, R219): an ACK is not sent, a beacon is suppressed, a class C frame backs off
by a draw of CRY's DRBG while it has attempts left and the DRBG answers (R323), anything else waits for its next cell. -/
def State.txBusy (s : State) (id : Nat) : State :=
  match s.msq.tx.find id with
  | none => s
  | some x =>
    let s1 := s.forgetTx id
    match x.what with
    | .enhAck _ => s1.ackFail
    | .immAck => s1.ackFail
    | .beacon => s1.fire 103
    | .raw _ _ =>
      let tb := s.csma x.port x.slice
      if x.tries < tb.1 && s1.on F.CRY_STATUS_DRBGOK then
        let due := s1.gtb.ft + s1.fresh % (tb.2 * 64 + 1)
        let s2 := s1.drbgDraw.nextFree
        { s2 with msq := { s2.msq with backoffs := s2.msq.backoffs.put id (due, x) } }
      else s1
    | _ => s1

/-- CCA_BACKOFF_EXPIRE (R218): another attempt is made if the frame still ends within its cell. -/
def execCcaBackoffExpire (t : Time) (id : Nat) (s : State) : Host.Outcome State Fault Refusal :=
  let s0 := s.at t
  .next (match s0.msq.backoffs.find id with
    | none => s0
    | some (due, x) =>
      if t.ft < due then s0
      else
        let s1 := { s0 with msq := { s0.msq with backoffs := s0.msq.backoffs.del id } }
        let win := match s1.lbt (s1.sliceCentre x.port x.slice).toNat (spacing (s1.sliceClass x.port x.slice)) .data with
          | some (w, _) => w * 16000
          | none => 0
        let start := gtAdd s1.gtb.gt (nsToGt (win + s1.fld (F.RFPn_LAT_TXLAT x.port) + 4000) s1.mainsFreq)
        let fin := gtAdd start (s1.airGt x.lh x.hdr (chipRate (s1.sliceClass x.port x.slice)))
        match x.what with
        | .raw r pkt =>
          match s1.headPkt r with
          | some (c, y) =>
            if c = pkt ∧ gtDiff fin x.cellEnd ≤ 0 then
              s1.sendRaw x.lh x.port x.slice start x.cellEnd (2 ^ 13) r pkt y (x.tries + 1)
            else s1
          | none => s1
        | _ => s1)

/-! ### EXP cells and directed searches (R197) -/

/-- History searches are available (R179, R197): MEM has reported training complete. -/
def State.searchOk (s : State) : Bool := s.on F.MSQ_CFG_SEARCH && s.on F.MEM_STATUS_TRAINED

/-- EXP_CELL_END (R179, R197, R226): the occurrence `ec` of an EXP cell whose template carries frames has ended; SLV gets its outcome,
and without a verified frame that started within 32 ms of E a directed search is queued. -/
def execExpCellEnd (t : Time) (cell : Cell) (ec : Nat) (s : State) : Host.Outcome State Fault Refusal :=
  let s0 := s.at t
  .next (if s0.allCells.contains cell && (s0.cellAt cell ec && (cell.exp && (cell.dir == 0 &&
      (s0.tplCarries cell.tpl && decide (0 ≤ gtDiff t.gt (s0.cellFin cell ec)))))) then
    match s0.nbr cell.record with
    | none => s0
    | some n =>
      let e := s0.cellE cell ec
      let span := usToGt 32000 s0.mainsFreq
      let heard := s0.msq.verified.any (fun (v : Nat × Nat) => v.1 == cell.record && Nat.ble (gtDiff v.2 e).natAbs span)
      let s1 := s0.expOutcome n.node (s0.tplClass cell.tpl) heard
      if heard || !s0.searchOk then s1
      else if (s1.msq.searches.filter (fun (x : Search) => !x.started)).length < 256 then
        { s1 with msq := { s1.msq with
            searches := s1.msq.searches ++ [{ id := s1.msq.nextSearch, record := cell.record, cell := cell, e := e,
                                              started := false, left := 8, ok := [] }],
            nextSearch := s1.msq.nextSearch + 1 } }
      else (s1.bump Ctr.MSQ_SRCHDROP).fire 110
  else s0)

/-- The slots that a search covers (R197): event counters whose boundary plus TXOFS lies within 32 ms of E. -/
def State.searchSlots (s : State) (x : Search) : List Nat :=
  let mid := ecOf s.spc x.e
  (List.range 41).filterMap (fun i =>
    if mid + i < 20 then none
    else if (gtDiff (s.cellE x.cell (mid + i - 20)) x.e).natAbs ≤ usToGt 32000 s.mainsFreq then some (mid + i - 20) else none)

/-- The channel of the search's class at event counter `e` (R181). -/
def State.searchChan (s : State) (x : Search) (e : Nat) : Option Nat := s.cellChannel (s.tplClass x.cell.tpl) e x.cell.chofs

/-- Global slice `g` is a native slice that carries channel `ch` of class `c`. -/
def State.sliceIs (s : State) (g c ch : Nat) : Bool :=
  let p := g / 128
  let k := g % 128
  s.sliceOn p k && (s.sliceClass p k == c && (!s.on (F.RFPn_SLk_PHY p k) && chanAt (s.fld (F.RFPn_LINK_BAND p)) c ch (s.sliceCentre p k)))

/-- The ports that hear a channel the search looks on. -/
def State.searchPorts (s : State) (x : Search) : List Nat :=
  let chans := ((s.searchSlots x).filterMap (s.searchChan x)).eraseDups
  (List.range 4).filter (fun p => chans.any (fun ch => (List.range 128).any (fun k => s.sliceIs (128 * p + k) (s.tplClass x.cell.tpl) ch)))

/-- The history reads of the next segment of a search: 8 ms from E − 32 ms on, of every port that hears its channels. -/
def State.searchRead (s : State) (x : Search) : State :=
  (s.searchPorts x).foldl (fun u p =>
    u.histRequest .msq x.id p (gtAdd (gtSub x.e (usToGt 32000 s.mainsFreq)) (usToGt (8000 * (8 - x.left)) s.mainsFreq))
      (8 * s.fld (F.RFPn_RXFS_FS p))) s

/-- SEARCH_START (R197): the oldest queued search starts while fewer than eight run. -/
def execSearchStart (s : State) : Host.Outcome State Fault Refusal :=
  .next (if 8 ≤ (s.msq.searches.filter (fun (x : Search) => x.started)).length then s
  else match s.msq.searches.find? (fun (x : Search) => !x.started) with
    | none => s
    | some x =>
      let y := { x with started := true }
      let s1 := { s with msq := { s.msq with
        searches := s.msq.searches.map (fun (z : Search) => if z.id = x.id then y else z) } }
      (s1.bump Ctr.MSQ_SRCH).searchRead y)

/-- A read of a search's segment ended. -/
def State.searchReadDone (s : State) (r : HistRead) (o : HistOutcome) : State :=
  { s with msq := { s.msq with searches := s.msq.searches.map (fun (z : Search) =>
      if z.id = r.tag ∧ o = .ok then { z with ok := z.ok ++ [r.port] } else z) } }

/-- A carrier offset within 2 ppm of that predicted from the record's DRIFT (R187, R197): the node's rate against GT and the grid's
against its nominal frequency. -/
def State.nearDrift (s : State) (r : Nat) (fofs : Int) : Bool :=
  match s.nbr r with
  | some n => Nat.ble (fofs - (n.drift + gridPpm (s.meanFreq 1) (s.nomFreq / 1000))).natAbs 200
  | none => false

/-- A search looks for a detection (R181, R197): its first chip lies in a slot that the search covers, on the channel of that slot, at the
predicted carrier offset, and its port's samples could be used (R108). -/
def State.searchLooks (s : State) (x : Search) (d : SearchDet) : Bool :=
  let first := gtSub d.gt (s.symGt d.slice (s.tplLh x.cell.tpl) 4)
  (x.ok.contains (d.slice / 128) && s.nearDrift x.record d.meas.fofs) && (s.searchSlots x).any (fun e =>
    decide (0 ≤ gtDiff first (slotGt s.spc e)) && (decide (gtDiff first (slotGt s.spc (e + 1)) < 0) &&
      (s.searchChan x e).any (fun ch => s.sliceIs d.slice (s.tplClass x.cell.tpl) ch)))

/-- A detection of a search goes to DMX as a retro entry (R148, R197). -/
def State.searchDetect (s : State) (x : Search) (d : SearchDet) : State :=
  let h := ((List.range 512).find? (fun h => s.hunterOn h && s.hunterSlice h == d.slice)).getD 0
  if s.searchLooks x d = false then s
  else if s.dmx.retro.length < 64 then
    { s with dmx := { s.dmx with retro := s.dmx.retro ++
      [{ hunter := h, slice := d.slice, phy := false, lh := s.tplLh x.cell.tpl, timing := d.timing, detGt := d.gt,
         detFt := s.gtb.ft, meas := d.meas, search := some x.id }] } }
  else (s.bump Ctr.DMX_RETROOVF).fire 65

/-- SEARCH_SEGMENT (R197): search `id`, whose reads have ended, has correlated its segment; `dets` are its detections. The next segment
is read, or the search ends. -/
def execSearchSegment (t : Time) (id : Nat) (dets : List SearchDet) (s : State) : Host.Outcome State Fault Refusal :=
  let s0 := s.at t
  .next (match s0.msq.searches.find? (fun (x : Search) => x.id == id && x.started) with
    | none => s0
    | some x =>
      let s1 := dets.foldl (fun u d => u.searchDetect x d) s0
      if s0.rfp.reads.any (fun (r : HistRead) => r.reader == .msq && r.tag == id) then s0
      else if x.left ≤ 1 then
        { s1 with msq := { s1.msq with searches := s1.msq.searches.filter (fun (z : Search) => z.id != id) } }
      else
        let y := { x with left := x.left - 1, ok := [] }
        ({ s1 with msq := { s1.msq with
          searches := s1.msq.searches.map (fun (z : Search) => if z.id = id then y else z) } }).searchRead y)

end Sys2Proof.Machine
end

