-- ==== Sys2Proof/Machine/Lgc.lean ====
section
/-! DEFINITION. LGC, the I3 personality (chapter 22): legacy SPI ports, emulated files, slots, links, receiving and
transmitting under free time, soft reset. -/

namespace Sys2Proof.Machine

/-- Instance `p`. -/
def State.i3 (s : State) (p : Nat) : I3 := s.lgc.inst.getD p {}

/-- Change instance `p`. -/
def State.setI3 (s : State) (p : Nat) (x : I3) : State := { s with lgc := { s.lgc with inst := listSet s.lgc.inst p x } }

/-- Instance `p` works: PD_LGC on and enabled by LGC_CFG.EN (R436). -/
def State.lgcOn (s : State) (p : Nat) : Bool := Nat.blt p 4 && (s.domReady 20 && bit (s.fld F.LGC_CFG_EN) p)

/-- ROUTE bit of instance `p` (R448). -/
def State.i3Routes (s : State) (p : Nat) : Bool := bit (s.fld F.LGC_CFG_ROUTE) p

/-! ### The emulated file (R438) -/

/-- Reset octet of emulated address `a` (R438). -/
def emuReset (a : Nat) : Nat :=
  match a with
  | 0x00 => 0x13 | 0x01 => 0x04 | 0x02 => 0x08 | 0x05 => 0xFF | 0x06 => 0xFF | 0x07 => 0xFE | 0x08 => 0xFF | 0x11 => 0xFF
  | 0x12 => 0xFF | 0x14 => 0xB5 | 0x16 => 3 | 0x17 => 110 | 0x2D => 100 | _ => 0

/-- The octet an instance keeps at address `a`. -/
def I3.oct (x : I3) (a : Nat) : Nat := x.emu.getD' a (emuReset a)

/-- The two octets from `a`, low octet first. -/
def I3.word (x : I3) (a : Nat) : Nat := x.oct a + 256 * x.oct (a + 1)

/-- Keep octet `v` at address `a`. -/
def I3.keep (x : I3) (a v : Nat) : I3 := { x with emu := x.emu.putD (emuReset a) a (v % 256) }

/-- CTRL bits: 0 RUN, 2 INTEN, 3 AUTOACK (R438). -/
def I3.ctrl (x : I3) (i : Nat) : Bool := bit (x.oct 0x02) i

/-- EUI of the instance. -/
def I3.eui (x : I3) : Nat := (List.range 8).foldl (fun n i => n + x.oct (0x09 + i) * 256 ^ i) 0

/-- Entries of the transmit queue of instance `p`. -/
def State.i3Queued (s : State) (p : Nat) : Nat :=
  (s.qmg.pkts.filter (fun e => e.2.queue == some (65616 + p))).length

/-- RXCOUNT of instance `p`: 0 while it routes to PRC (R448). -/
def State.rxCount (s : State) (p : Nat) : Nat := if s.i3Routes p then 0 else (s.i3 p).rx.length

/-- What emulated address `a` of instance `p` reads, without the side effects of a read (R438, LGC_PpEMUa). -/
def State.emuRead (s : State) (p a : Nat) : Nat :=
  let x := s.i3 p
  if a = 0x03 then x.intstat
  else if 0x18 ≤ a ∧ a ≤ 0x1B then x.asn / 256 ^ (a - 0x18) % 256
  else if 0x1C ≤ a ∧ a ≤ 0x1F then x.irqtime / 256 ^ (a - 0x1C) % 256
  else if a = 0x20 ∨ a = 0x21 ∨ a = 0x2C then 0
  else if a = 0x22 then s.rxCount p
  else if a = 0x23 then 16 - s.i3Queued p
  else if 0x2F ≤ a then 0
  else x.oct a

/-! ### The interrupt line (R439) -/

/-- Bring LINT_N[p] up to date: a fall latches FT[27:0] into IRQTIME, pushes the stamp and fires source 228 + p. -/
def State.i3Line (s : State) (p : Nat) : State :=
  let x := s.i3 p
  let low := x.ctrl 2 && (List.range 8).any (fun i => bit x.intstat i && bit (x.oct 0x04) i)
  if low && !x.low then
    ((s.setI3 p { x with low := true, irqtime := s.gtb.ft % 2 ^ 28 }).legPush p s.gtb.ft).fire (228 + p)
  else s.setI3 p { x with low := low }

/-- Set bit `i` of INTSTAT: 0 RXDONE, 1 TXDONE, 2 TXFAIL, 3 SLOT, 4 RXOVF, 5 TXERR (R438). -/
def State.i3Int (s : State) (p i : Nat) : State :=
  (s.setI3 p { s.i3 p with intstat := setBit (s.i3 p).intstat i true }).i3Line p

/-! ### Links (R443) -/

/-- The link record in LINKDATA. -/
def I3.linkData (x : I3) : I3Link :=
  { slot := x.word 0x26, chofs := x.oct 0x28, typ := x.oct 0x29, node := x.word 0x2A }

/-- The ranges of a link record. -/
def I3Link.ok (l : I3Link) (sflen : Nat) : Bool := Nat.blt l.slot sflen && (Nat.ble l.chofs 15 && Nat.blt l.typ 8)

/-- Keep octets from address `a` on. -/
def I3.keepAll (x : I3) (a : Nat) : List Nat → I3
  | [] => x
  | v :: t => (x.keep a v).keepAll (a + 1) t

/-- A write of LINKCMD (R438, R443). -/
def State.linkCmd (s : State) (p op : Nat) : State :=
  let x := s.i3 p
  let idx := x.word 0x24
  if op = 4 then s.setI3 p { x with links := [] }
  else if op = 0 ∨ 4 < op then s
  else if 2047 < idx then s.i3Int p 5
  else if op = 1 then
    if x.linkData.ok (x.word 0x2D) then s.setI3 p { x with links := x.links.put idx x.linkData } else s.i3Int p 5
  else if op = 2 then
    let l := x.links.getD' idx { slot := 0, chofs := 0, typ := 0, node := 0 }
    s.setI3 p (x.keepAll 0x26 [l.slot, l.slot / 256, l.chofs, l.typ, l.node, l.node / 256])
  else s.setI3 p { x with links := x.links.del idx }

/-! ### Soft reset (R450) -/

/-- Stop what instance `p` transmits: a stream whose first chip has not left is cancelled and refunded, an active one ends at
its last chip unattended. -/
def State.i3Stop (s : State) (p : Nat) : State :=
  let s1 := (s.i3 p).tx.foldl (fun t e =>
    match t.findStream e.1 with
    | some (n, x) =>
      if x.active then t
      else
        let t1 := (t.settle e.1 none false).dropStream n e.1
        t1.setPort n { t1.port n with ccas := (t1.port n).ccas.filter (fun (c : Cca) => c.id != e.1) }
    | none => t) s
  s1.setI3 p { s1.i3 p with tx := [], await := none, tries := 0 }

/-- RUN stops, transmissions end or are refunded, entries and queued frames end FLUSH, the link table is cleared and LINT_N
released; the emulated file goes to its reset values (R450). -/
def State.i3Off (s : State) (p : Nat) : State :=
  let s1 := (s.i3 p).rx.foldl (fun t st => t.endPkt st (.drop 6)) (s.i3Stop p)
  (s1.flushQueue (65616 + p) 6).setI3 p { init := (s.i3 p).init }

/-- A write of CTRL outside a soft reset (R438, R441): RUN = 1 sets the first boundary and ASN 0, RUN = 0 stops them. -/
def State.ctrlWrite (s : State) (p v : Nat) : State :=
  let x := (s.i3 p).keep 0x02 (setBit (v % 16) 1 false)
  let b := s.gtb.ft + 10000
  let y := if bit v 0 then { x with next := some b, first := b, asn := 0 } else { x with next := none }
  (s.setI3 p y).i3Line p

/-- A write of an octet to an emulated register that needs no soft reset; reserved and read-only ones are ignored (R437). -/
def State.emuPlain (s : State) (p a v : Nat) : State :=
  if a = 0x02 then s.ctrlWrite p v
  else if a = 0x2C then s.linkCmd p v
  else if a = 0x04 then (s.setI3 p ((s.i3 p).keep a (v % 64))).i3Line p
  else if a ≤ 0x03 ∨ (0x18 ≤ a ∧ a ≤ 0x23) ∨ 0x2F ≤ a then s
  else s.setI3 p ((s.i3 p).keep a v)

/-- The steps of the LGC_I3INIT records, written in order; 0x7F is padding (R440). -/
def State.i3Init (s : State) (p : Nat) : State :=
  (s.i3 p).init.foldl (fun t e => if e.1 = 0x7F then t else t.emuPlain p e.1 (e.2 % 256)) s

/-- A soft reset of instance `p` (R450): source 237. -/
def State.i3Reset (s : State) (p : Nat) : State := ((s.i3Off p).i3Init p).fire 237

/-- An uncorrectable error in the state of instance `p` acts as a soft reset; source 239 (R450). -/
def State.i3Error (s : State) (p : Nat) : State := ((s.i3Reset p).fire 239).reportNow 5 22 239 239

/-- A write of an octet through the SPI port (R438): SRST = 1 is a soft reset. -/
def State.emuWrite (s : State) (p a v : Nat) : State := if a = 0x02 ∧ bit v 1 = true then s.i3Reset p else s.emuPlain p a v

/-! ### The SPI port (R437, R445, R446) -/

/-- A transmit entry at the rise of chip select (R446): checked, admitted under source 2 and queued, or TXERR. -/
def State.txEntry (s : State) (p : Nat) (entry : List Octet) : State :=
  let len := (entry.headD 0).toNat
  if len < 5 ∨ 127 < len ∨ entry.length ≠ len ∨ 16 ≤ s.i3Queued p then s.i3Int p 5
  else match s.acceptPkt 2 1 entry (.hw 22 p) { kind := 2, port := p } with
    | (none, t) => t.i3Int p 5
    | (some st, t) => t.pushPkt (65616 + p) (.hw 22 p) st

/-- The data octets of a write transaction from address `a`: the address increments, except at the FIFOs (R437). -/
def State.spiWrite (s : State) (p a : Nat) : List Octet → State
  | [] => s
  | v :: t =>
    if a = 0x21 then s.txEntry p (v :: t)
    else if a = 0x20 then s
    else (s.emuWrite p a v.toNat).spiWrite p ((a + 1) % 128) t

/-- A transaction of legacy port `p` (R437): MISO carries INTSTAT as it stands while the command octet is clocked, then `data`. A port whose
domain is not ready, or whose instance is not enabled, leaves MISO undriven and ignores SPI. -/
def State.lspi (s : State) (p : Nat) (data : List Octet) (act : State → State) : State :=
  if s.lgcOn p then (act s).respond (leOctets 1 (s.i3 p).intstat ++ data) true else s

/-- LSPI_ERROR (R437): a transaction ended in the middle of an octet; discarded, counted, source 236. -/
def execLspiError (p : Nat) (s : State) : Host.Outcome State Fault Refusal :=
  .next (if s.lgcOn p then (s.bump (Ctr.LGC_SPIERR p)).fire 236 else s)

/-- LSPI_WRITE (R437, R438). -/
def execLspiWrite (t : Time) (p addr : Nat) (data : List Octet) (s : State) : Host.Outcome State Fault Refusal :=
  let s0 := s.at t
  .next (s0.lspi p [] (fun u => u.spiWrite p (addr % 128) data))

/-- I3_RUN_START (R441): a write of CTRL with RUN = 1, SRST = 0 and these INTEN and AUTOACK. -/
def execI3RunStart (t : Time) (p : Nat) (inten autoack : Bool) (s : State) : Host.Outcome State Fault Refusal :=
  let s0 := s.at t
  .next (s0.lspi p [] (fun u => u.emuWrite p 0x02 (1 + 4 * b2n inten + 8 * b2n autoack)))

/-- I3_RUN_STOP (R441): a write of CTRL with RUN = 0. -/
def execI3RunStop (t : Time) (p : Nat) (inten autoack : Bool) (s : State) : Host.Outcome State Fault Refusal :=
  let s0 := s.at t
  .next (s0.lspi p [] (fun u => u.emuWrite p 0x02 (4 * b2n inten + 8 * b2n autoack)))

/-- I3_SOFT_RESET (R450): a write of CTRL with SRST = 1. -/
def execI3SoftReset (t : Time) (p : Nat) (s : State) : Host.Outcome State Fault Refusal :=
  let s0 := s.at t
  .next (s0.lspi p [] (fun u => u.emuWrite p 0x02 2))

/-- INTSTAT_READ (R438): the octet is returned and the bits it returned as 1 are cleared. -/
def execIntstatRead (t : Time) (p : Nat) (s : State) : Host.Outcome State Fault Refusal :=
  let s0 := s.at t
  .next (s0.lspi p (leOctets 1 (s0.i3 p).intstat) (fun u => (u.setI3 p { u.i3 p with intstat := 0 }).i3Line p))

/-- RXFIFO_READ (R445): `n` octets of the oldest entry, 0x00 once it is exhausted; if any was read the entry is removed and
its packet ends as delivered. -/
def execRxfifoRead (t : Time) (p n : Nat) (s : State) : Host.Outcome State Fault Refusal :=
  let s0 := s.at t
  .next (match (s0.i3 p).rx with
    | [] => s0.lspi p (List.replicate n 0) id
    | st :: rest =>
      let data := ((s0.qmg.pkts.find st).map (fun x => x.data)).getD []
      s0.lspi p (data.take n ++ List.replicate (n - data.length) 0) (fun u =>
        if n = 0 then u else (u.setI3 p { u.i3 p with rx := rest }).endPkt st .deliv))

/-- TXFIFO_WRITE (R446). -/
def execTxfifoWrite (t : Time) (p : Nat) (entry : List Octet) (s : State) : Host.Outcome State Fault Refusal :=
  let s0 := s.at t
  .next (s0.lspi p [] (fun u => u.txEntry p entry))

/-- LINK_WRITE (R443): LINKCMD 1. -/
def execLinkWrite (t : Time) (p : Nat) (s : State) : Host.Outcome State Fault Refusal :=
  let s0 := s.at t
  .next (s0.lspi p [] (fun u => u.emuWrite p 0x2C 1))

/-- LINK_READ (R443): LINKCMD 2. -/
def execLinkRead (t : Time) (p : Nat) (s : State) : Host.Outcome State Fault Refusal :=
  let s0 := s.at t
  .next (s0.lspi p [] (fun u => u.emuWrite p 0x2C 2))

/-- LINK_CLEAR (R443): LINKCMD 3. -/
def execLinkClear (t : Time) (p : Nat) (s : State) : Host.Outcome State Fault Refusal :=
  let s0 := s.at t
  .next (s0.lspi p [] (fun u => u.emuWrite p 0x2C 3))

/-- LINK_CLEAR_ALL (R443): LINKCMD 4. -/
def execLinkClearAll (t : Time) (p : Nat) (s : State) : Host.Outcome State Fault Refusal :=
  let s0 := s.at t
  .next (s0.lspi p [] (fun u => u.emuWrite p 0x2C 4))

/-! ### Slots and channels (R441, R442) -/

/-- The first unmasked index from `i` on, in a circle of sixteen; fuel counts the tries. -/
def unmasked (mask i : Nat) : Nat → Nat
  | 0 => i % 16
  | f + 1 => if bit mask (i % 16) then i % 16 else unmasked mask (i + 1) f

/-- The channel of a link in slot `asn` (R442); none while CHMASK is zero. -/
def I3.channel (x : I3) (asn chofs : Nat) : Option Nat :=
  let m := x.word 0x11
  if m = 0 then none else some (11 + unmasked m ((7 * asn + chofs + x.oct 0x13) % 2 ^ 64 % 16) 16)

/-- The links of slot `asn`, lowest index first (R441, R443). -/
def I3.slotLinks (x : I3) (asn : Nat) : List I3Link :=
  (x.links.filter (fun e => e.2.slot == asn % x.word 0x2D)).map (fun e => e.2)

/-- I3_SLOT_BOUNDARY (R441): ASN increments and SLOT is set. With CHMASK zero the links of the slot count in LGC_DEFER
(R442). -/
def execI3SlotBoundary (t : Time) (p : Nat) (s : State) : Host.Outcome State Fault Refusal :=
  let s0 := s.at t
  .next (match s0.lgcOn p, (s0.i3 p).next with
    | true, some b =>
      if t.ft < b then s0
      else
        let x := s0.i3 p
        let asn := (x.asn + 1) % 2 ^ 32
        let y := { x with asn := asn, bnd := b, next := some (b + 10000) }
        let s1 := s0.setI3 p y
        let s2 := if x.word 0x11 = 0 then s1.bump (Ctr.LGC_DEFER p) (y.slotLinks asn).length else s1
        s2.i3Int p 3
    | _, _ => s0)

/-- The grid time at which free time reads `ft`, at the present rate. -/
def State.gtAtFt (s : State) (ft : Nat) : Nat :=
  if s.gtb.ft ≤ ft then gtAdd s.gtb.gt (usToGt (ft - s.gtb.ft) s.mainsFreq)
  else gtSub s.gtb.gt (usToGt (s.gtb.ft - ft) s.mainsFreq)

/-- The slice of LGC's port that carries channel `ch` (R436). -/
def State.i3Slice (s : State) (ch : Nat) : Option Nat :=
  let p := s.fld F.LGC_CFG_RFPORT
  (List.range 128).find? (fun k => s.sliceOn p k && (s.on (F.RFPn_SLk_PHY p k) &&
    s.sliceCentre p k == ((2405000 + 5000 * (ch - 11) : Nat) : Int)))

/-- The channel number of a slice. -/
def State.i3ChannelOf (s : State) (g : Nat) : Int := (s.sliceCentre (g / 128) (g % 128) - 2405000) / 5000 + 11

/-! ### Frames -/

/-- What LGC reads of an IEEE 802.15.4 MAC header (PRESUMED from that standard): type, AR, DSN, destination PAN and address
with its mode (0 none, 2 short, 3 long), and a short source. -/
structure I3Hdr where
  typ : Nat
  ar : Bool
  dsn : Nat
  pan : Nat
  mode : Nat
  dst : Nat
  src : Option Nat
  deriving DecidableEq, Repr

/-- The header of an MPDU. -/
def i3Hdr (l : List Octet) : I3Hdr :=
  let fc := leNat (l.take 2)
  let mode := fc / 1024 % 4
  let dl := if mode = 2 then 2 else if mode = 3 then 8 else 0
  let o := 3 + (if mode = 0 then 0 else 2 + dl)
  let smode := fc / 16384 % 4
  let o' := o + (if bit fc 6 && mode != 0 then 0 else 2)
  { typ := fc % 8, ar := bit fc 5, dsn := leNat (slice l 2 1), pan := leNat (slice l 3 2), mode := mode,
    dst := leNat (slice l 5 dl), src := if smode = 2 then some (leNat (slice l o' 2)) else none }

/-- Step 1 of R444 for one instance. -/
def I3.wants (x : I3) (h : I3Hdr) : Bool :=
  h.pan == x.word 0x05 &&
    ((h.mode == 2 && (h.dst == x.word 0x07 || h.dst == 0xFFFF)) || (h.mode == 3 && h.dst == x.eui))

/-- A slot of the instance runs: RUN is 1 and the first boundary since it was written has fallen (R441). -/
def I3.running (x : I3) : Bool := x.next.isSome && Nat.ble x.first x.bnd

/-- Air time in µs of a PSDU of `n` octets (R443). -/
def i3Us (n : Nat) : Nat := (6 + n) * 32

/-- Step 3 of R444: the first chip lies in the guard of a slot in which the instance has a fitting link. -/
def I3.inLink (x : I3) (first : Nat) (ch : Int) (h : I3Hdr) : Bool :=
  let d : Int := (first : Int) - (x.bnd : Int)
  let k := d / 10000
  let off := d - 10000 * k
  let asn := ((x.asn : Int) + k).toNat
  x.running && (decide ((x.first : Int) ≤ (x.bnd : Int) + 10000 * k) && Nat.ble (off - 2120).natAbs (x.oct 0x17 * 5) &&
    (x.slotLinks asn).any (fun l => (bit l.typ 0 || bit l.typ 2) &&
      ((x.channel asn l.chofs).any (fun c => (c : Int) == ch) && (l.node == 0xFFFF || h.src == some l.node))))

/-- The receive entry of a frame (R445). -/
def i3Entry (f : RxFrame) (ch : Int) : List Octet :=
  let n := f.payload.length
  let lqi : Int := if f.qrec.meas.snr + 80 < 0 then 0 else if 255 < f.qrec.meas.snr + 80 then 255 else f.qrec.meas.snr + 80
  leOctets 1 n ++ f.payload.take (n - 2) ++ leOctets 1 (unsigned 8 (f.qrec.meas.rssi0 / 4)) ++ leOctets 1 lqi.toNat
    ++ leOctets 1 ch.toNat

/-- A PSDU: an MPDU and its FCS. -/
def withFcs (l : List Octet) : List Octet := l ++ leOctets 2 (fcs16 l)

/-- Reserve and charge an I3 frame on slice `k` of LGC's port with its first chip at `start` (R112, R212). -/
def State.i3Launch (s : State) (k start len : Nat) (kind : TxKind) : Launch × State :=
  let p := s.fld F.LGC_CFG_RFPORT
  match s.reserve .lgc p k start (usToGt (i3Us len) s.mainsFreq) with
  | (none, t) => (.noStream, t)
  | (some id, t) =>
    match t.bgtRequest id kind ((6 + len) * 64) with
    | (some r, u) => (.refused r, u.dropStream p id)
    | (none, u) => (.sent id, u)

/-- LGC fills the stream buffer of transmission `id` with the chips of a frame (R118). -/
def State.i3Fill (s : State) (id : Nat) (psdu : List Octet) : State :=
  { s with rfp := { s.rfp with i3wave := s.rfp.i3wave.put id (rails (i3Chips psdu)) } }

/-- An ACK was not sent (R444). -/
def State.i3AckFail (s : State) (p : Nat) : State := (s.bump (Ctr.LGC_ACKFAIL p)).fire 235

/-- The immediate ACK of a frame that ended at `fin` (R444). -/
def State.i3Ack (s : State) (p ch dsn fin : Nat) : State :=
  match s.i3Slice ch with
  | none => s.i3AckFail p
  | some k =>
    let start := s.gtAtFt (fin + 192)
    let pt := s.fld F.LGC_CFG_RFPORT
    if 0 < gtDiff s.gtb.gt (s.cutoff pt k start (usToGt (i3Us 5) s.mainsFreq)) ∨
        s.ackCcaLate pt k start (s.gtAtFt fin) = true then s.i3AckFail p
    else match s.i3Launch k start 5 .ack with
      | (.sent id, t) =>
        let psdu := withFcs (leOctets 2 2 ++ leOctets 1 dsn)
        let y : I3Tx := { pkt := none, psdu := psdu, fin := fin + 544, wait := false, dsn := dsn }
        (t.i3Fill id psdu).setI3 p { t.i3 p with tx := (t.i3 p).tx.put id y }
      | (_, t) => t.i3AckFail p

/-- The frame in front of the queue of instance `p` ends as transmitted; TXDONE (R447). -/
def State.i3TxDone (s : State) (p pkt : Nat) : State :=
  let s1 := s.setI3 p { s.i3 p with await := none, tries := 0 }
  ((s1.endHead (65616 + p) pkt .tx).bump (Ctr.LGC_TXOK p)).i3Int p 1

/-- An attempt failed (R447): above MAXRETRY the frame is dropped RETRY, TXFAIL is set, source 234 fires. -/
def State.i3Attempt (s : State) (p pkt : Nat) : State :=
  let n := (s.i3 p).tries + 1
  if (s.i3 p).oct 0x16 < n then
    let s1 := s.setI3 p { s.i3 p with await := none, tries := 0 }
    (((s1.endHead (65616 + p) pkt (.drop 3)).bump (Ctr.LGC_TXFAIL p)).i3Int p 2).fire 234
  else s.setI3 p { s.i3 p with await := none, tries := n }

/-- The instance whose frame an ACK acknowledges: the same DSN, its first chip in the window of R447. -/
def State.i3Acked (s : State) (h : I3Hdr) (first : Nat) : Option (Nat × Nat) :=
  (List.range 4).findSome? (fun p => match (s.i3 p).await with
    | some a => if h.typ = 2 ∧ h.dsn = a.dsn ∧ a.fin + 176 ≤ first ∧ first ≤ a.fin + 240 then a.pkt.map (fun c => (p, c)) else none
    | none => none)

/-- An accepted frame (R444 step 5, R448): a receive entry, or a packet for PRC. -/
def State.i3Accept (s : State) (p st : Nat) : State :=
  if s.i3Routes p then s.pushPkt (65584 + s.fld F.LGC_CFG_PRCQ) (.hw 22 p) st
  else s.setI3 p { s.i3 p with rx := (s.i3 p).rx ++ [st] }

/-- Steps 2 to 5 of R444 for instance `p`, then the immediate ACK; `many` says that more than one matched. -/
def State.i3Match (s : State) (p : Nat) (many : Bool) (f : RxFrame) (h : I3Hdr) (first : Nat) : State :=
  let ch := s.i3ChannelOf f.qrec.slice
  let s1 := if many then (s.bump (Ctr.LGC_CONFLICT p)).fire 238 else s
  let x := s1.i3 p
  let fin := first + i3Us f.payload.length
  if x.inLink first ch h = false then s1.bump (Ctr.LGC_OUTLINK p)
  else
    let full := fun (t : State) => ((t.bump (Ctr.LGC_RXFULL p)).i3Int p 4).fire 233
    if 16 ≤ s1.rxCount p then full s1
    else match s1.acceptPkt 2 1 (i3Entry f ch) (.hw 22 p) { kind := 2, port := p, gt := f.qrec.sfdGt } with
      | (none, t) => full t
      | (some st, t) =>
        let t1 := (t.bump (Ctr.LGC_RXOK p)).i3Accept p st
        let t2 := t1.setI3 p { t1.i3 p with due := (t1.i3 p).due ++ [fin + 544] }
        if h.ar && (!(h.mode == 2 && h.dst == 0xFFFF) && x.ctrl 3) then t2.i3Ack p ch.toNat h.dsn fin else t2

/-- I3_FRAME_RECEIVE (R444): the frame at the head of LGC's input; `first` is the free time of its first chip. -/
def execI3FrameReceive (t : Time) (first : Nat) (s : State) : Host.Outcome State Fault Refusal :=
  let s0 := s.at t
  .next (match s0.i3inbox with
    | [] => s0
    | f :: rest =>
      let s1 := { s0 with i3inbox := rest }
      let h := i3Hdr f.payload
      match s1.i3Acked h first with
      | some (p, c) => if s1.lgcOn p then s1.i3TxDone p c else s1
      | none =>
        match (List.range 4).filter (fun p => s1.lgcOn p && (s1.i3 p).wants h) with
        | [] =>
          if s1.domReady 20 then
            let s2 := s1.bump (Ctr.LGC_NOMATCH 0)
            ({ s2 with lgc := { s2.lgc with noMatch := true } }).fireIf (!s1.lgc.noMatch) 232
          else s1
        | p :: more => s1.i3Match p (!more.isEmpty) f h first)

/-- I3_RXDONE (R444): RXDONE is set at frame end + 544 µs, whether or not an ACK was sent. -/
def execI3Rxdone (t : Time) (p : Nat) (s : State) : Host.Outcome State Fault Refusal :=
  let s0 := s.at t
  .next (match s0.lgcOn p, (s0.i3 p).due with
    | true, d :: rest => if t.ft < d then s0 else (s0.setI3 p { s0.i3 p with due := rest }).i3Int p 0
    | _, _ => s0)

/-! ### Transmitting (R447) -/

/-- The link that serves a frame to short address `dst` in slot `asn`: a transmit link to that node where the table has one,
else a shared link; with whether it is shared. -/
def I3.txLink (x : I3) (asn : Nat) (dst : Option Nat) : Option (I3Link × Bool) :=
  let direct := fun (l : I3Link) => bit l.typ 1 && (dst != some 0xFFFF && dst == some l.node)
  if x.links.any (fun e => direct e.2) then ((x.slotLinks asn).find? direct).map (fun l => (l, false))
  else ((x.slotLinks asn).find? (fun l => bit l.typ 2)).map (fun l => (l, true))

/-- A frame was deferred to its next link (R447). -/
def State.i3Defer (s : State) (p : Nat) : State := s.bump (Ctr.LGC_DEFER p)

/-- Send entry `data` of packet `pkt` in the running slot over `link`. -/
def State.i3Send (s : State) (p pkt : Nat) (data : List Octet) (link : I3Link) (shared : Bool) : State :=
  let x := s.i3 p
  match (x.channel x.asn link.chofs).bind (fun c => s.i3Slice c) with
  | none => if x.word 0x11 = 0 then s else s.i3Defer p
  | some k =>
    let len := data.length
    match s.i3Launch k (s.gtAtFt (x.bnd + 2120)) len .data with
    | (.noStream, t) => t.i3Defer p
    | (.refused r, t) => if r.attempt then (t.i3Defer p).i3Attempt p pkt else t.i3Defer p
    | (.sent id, t) =>
      let mpdu := data.drop 2
      let y : I3Tx := { pkt := some pkt, psdu := withFcs mpdu, fin := x.bnd + 2120 + i3Us len,
                        wait := bit (data.getD 1 0).toNat 0, dsn := (mpdu.getD 2 0).toNat }
      let t1 := (t.i3Fill id y.psdu).setI3 p { t.i3 p with tx := (t.i3 p).tx.put id y }
      if shared then
        let pt := t1.fld F.LGC_CFG_RFPORT
        t1.ccaStart id .lgc pt k 8 (4 * signed 8 (x.oct 0x14)) true false (t1.ccaWindow pt (s.gtAtFt (x.bnd + 2120)) 8)
      else t1

/-- I3_TX_SELECT (R447): 500 µs before the first chip of the running slot, the frame in front of the queue. -/
def execI3TxSelect (t : Time) (p : Nat) (s : State) : Host.Outcome State Fault Refusal :=
  let s0 := s.at t
  let x := s0.i3 p
  .next (if s0.level == 0 || !(s0.lgcOn p) || (!x.running || (x.await.isSome || (x.tx.any (fun e => e.2.pkt.isSome) ||
      (Nat.blt t.ft (x.bnd + 1620) || Nat.ble (x.bnd + 2120) t.ft)))) then s0
    else match s0.headPkt (65616 + p) with
      | none => s0
      | some (pkt, q) =>
        let h := i3Hdr (q.data.drop 2)
        match x.txLink x.asn (if h.mode = 2 then some h.dst else none) with
        | none => s0
        | some (l, shared) => s0.i3Send p pkt q.data l shared)

/-- The instance that sends transmission `id`. -/
def State.i3Owner (s : State) (id : Nat) : Option (Nat × I3Tx) :=
  (List.range 4).findSome? (fun p => ((s.i3 p).tx.find id).map (fun x => (p, x)))

/-- Instance `p` forgets transmission `id`. -/
def State.i3Forget (s : State) (p id : Nat) : State := s.setI3 p { s.i3 p with tx := (s.i3 p).tx.del id }

/-- The last chip of transmission `id` left: an ACK is counted, a frame waits for its ACK or ends (R447). -/
def State.i3Sent (s : State) (id : Nat) : State :=
  match s.i3Owner id with
  | none => s
  | some (p, x) =>
    let s1 := s.i3Forget p id
    match x.pkt with
    | none => s1.bump (Ctr.LGC_ACKS p)
    | some c => if x.wait then s1.setI3 p { s1.i3 p with await := some x } else s1.i3TxDone p c

/-- Transmission `id` was aborted: an ACK was not sent, a frame waits for its next link. -/
def State.i3Aborted (s : State) (id : Nat) : State :=
  match s.i3Owner id with
  | none => s
  | some (p, x) => if x.pkt.isNone then (s.i3Forget p id).i3AckFail p else s.i3Forget p id

/-- Transmission `id` met CCA BUSY (R447). -/
def State.i3Busy (s : State) (id : Nat) : State :=
  match s.i3Owner id with
  | none => s
  | some (p, x) => if x.pkt.isNone then (s.i3Forget p id).i3AckFail p else (s.i3Forget p id).i3Defer p

/-- I3_ACK_TIMEOUT (R447): no ACK came within frame end + 240 µs; the attempt counts. -/
def execI3AckTimeout (t : Time) (p : Nat) (s : State) : Host.Outcome State Fault Refusal :=
  let s0 := s.at t
  .next (match s0.lgcOn p, (s0.i3 p).await with
    | true, some a => if t.ft ≤ a.fin + 240 then s0 else match a.pkt with
      | some c => s0.i3Attempt p c
      | none => s0
    | _, _ => s0)

end Sys2Proof.Machine
end

