-- ==== Sys2Proof/Machine/Hif.lean ====
section
/-! DEFINITION. HIF (chapter 25): PCIe link, host DMA rings, Ethernet ports with protection, next hops, MACsec numbers, the PTP
clock, GPIO. The flash commands are in Xspi, the SMBus target in Bus. -/

namespace Sys2Proof.Machine

/-! ### Host DMA (R470 to R473) -/

/-- The register of a ring: _HEAD. -/
def headFld (tx : Bool) (r : Nat) : Field := if tx then F.HIF_TXRINGr_HEAD_HEAD r else F.HIF_RXRINGr_HEAD_HEAD r

/-- The register of a ring: _TAIL. -/
def tailFld (tx : Bool) (r : Nat) : Field := if tx then F.HIF_TXRINGr_TAIL_TAIL r else F.HIF_RXRINGr_TAIL_TAIL r

/-- Length of a ring in descriptors (R471). -/
def State.ringSize (s : State) (tx : Bool) (r : Nat) : Nat :=
  2 ^ (if tx then s.fld (F.HIF_TXRINGr_LEN_LOG2 r) else s.fld (F.HIF_RXRINGr_LEN_LOG2 r))

/-- The key of a ring in the table of tags. -/
def ringKey (tx : Bool) (r : Nat) : Nat := r + 16 * b2n tx

/-- A write of TAIL through a view (R44, R471): HEAD and TAIL count modulo 2^16. Past HEAD by more than the ring length it is ignored and
recorded as BUSY; else the descriptors up to it carry the world of this write. -/
def State.tailWrite (s : State) (rq : Req) (tx : Bool) (r view : Nat) (v : Word) : State :=
  let f := tailFld tx r
  match s.barred rq f.reg (if view = 0 then some v else none) with
  | some c => (s.recordFault rq c true (f.reg + 0x10000 * view) 15).respond [] false
  | none =>
    let n := (f.ext (viewWord view (s.reg f.reg) v) + 65536 - s.fld (headFld tx r)) % 65536
    if s.ringSize tx r < n then (s.recordFault rq .busy true (f.reg + 0x10000 * view) 15).respond [] false
    else
      let old := s.hif.tags.getD' (ringKey tx r) []
      let new := old.take n ++ List.replicate (n - old.length) { init := rq.init, sec := s.secureReq rq }
      (({ s with hif := { s.hif with tags := s.hif.tags.put (ringKey tx r) new } }).viewWrite rq f.reg view v).respond [] true

/-- RXRING_TAIL_WRITE (R471). -/
def execRxringTailWrite (rq : Req) (r : Nat) (v : Word) (s : State) : Host.Outcome State Fault Refusal :=
  .next (if r < 16 then s.tailWrite rq false r 0 v else s)

/-- TXRING_TAIL_WRITE (R471). -/
def execTxringTailWrite (rq : Req) (r : Nat) (v : Word) (s : State) : Host.Outcome State Fault Refusal :=
  .next (if r < 16 then s.tailWrite rq true r 0 v else s)

/-- The descriptor in front of a ring completes (R472, R473): written back, HEAD advances, sources 218 to 220. -/
def State.descDone (s : State) (tx : Bool) (r len src status : Nat) (irq : Bool) : State :=
  let h := headFld tx r
  let k := ringKey tx r
  let wb : WriteBack := { tx := tx, ring := r, index := s.fld h % s.ringSize tx r, len := len, src := src, status := status }
  let tags := s.hif.tags.put k ((s.hif.tags.getD' k []).drop 1)
  let s1 := { s with hif := { s.hif with wb := some wb, tags := tags } }
  ((s1.setFld h (s.fld h + 1)).fireIf irq (218 + b2n tx)).fireIf (status != 0) 220

/-- The initiator as which HIF moves the data of a descriptor: its tag is the world of the TAIL write (R330). -/
def State.dmaFaults (s : State) (tag : DmaTag) : Bool := s.tagFaults tag.sec 4

/-- The cell access of a descriptor faulted (R336): INIT names the initiator that posted it. -/
def State.dmaFault (s : State) (tag : DmaTag) (cell : Nat) (wr : Bool) : State :=
  s.xwFault { init := tag.init, prcSecure := false } 4 19 (cellAddr cell (s.regionBase 10)) wr

/-- A receive descriptor completes with the packet in front of its queue (R473). -/
def State.dmaRx (s : State) (r : Nat) (tag : DmaTag) (len : Nat) (irq : Bool) : State :=
  match s.takePkt (65600 + r) (.hw 19 r) with
  | (none, t) => t
  | (some st, t) =>
    match t.qmg.pkts.find st with
    | none => t
    | some p =>
      let n := p.data.length
      if t.dmaFaults tag then ((t.dmaFault tag st false).endPkt st (.drop 9)).descDone false r n p.src 3 irq
      else if len < n then (t.endPkt st (.drop 7)).descDone false r n p.src 2 irq
      else ((t.endPkt st .deliv).bump Ctr.HIF_DMARX).descDone false r n p.src 0 irq

/-- LIMIT lets queue `q` take `n` more cells (R251). -/
def State.forwardRoom (s : State) (q n : Nat) : Bool :=
  Nat.blt q 65628 && Nat.ble ((s.queue q).cells.length + n) (s.queueLimits q).1

/-- A transmit descriptor completes with the packet `data` of host memory (R251, R473). HIF is a hardware producer: where another holds the
queue's port its packet waits for it. -/
def State.dmaTx (s : State) (r : Nat) (tag : DmaTag) (len queue : Nat) (data : List Octet) (irq : Bool) : State :=
  let n := cellsFor len
  if len = 0 ∨ 9216 < len then s.descDone true r len 0 2 irq
  else if s.forwardRoom queue n = false then
    (if queue < 65628 then s.refusePush queue else s).descDone true r len 0 1 irq
  else match s.acceptPkt 6 n (data.take len) (.hw 19 r) { kind := 6 } with
    | (none, t) => t.descDone true r len 0 1 irq
    | (some st, t) =>
      if t.dmaFaults tag then ((t.dmaFault tag st true).endPkt st (.drop 9)).descDone true r len 0 3 irq
      else ((t.pushPkt queue (.hw 19 r) st).bump Ctr.HIF_DMATX).descDone true r len 0 0 irq

/-- DMA_DESCRIPTOR_DONE (R471 to R473): the descriptor in front of a ring, as host memory holds it (LEN, QUEUE, FLAGS; `data` the
buffer of a transmit descriptor). While the PCIe link is down HIF issues no DMA (R470). -/
def execDmaDescriptorDone (t : Time) (tx : Bool) (r len queue flags : Nat) (data : List Octet) (s : State) :
    Host.Outcome State Fault Refusal :=
  let s0 := s.at t
  .next (if r < 16 ∧ s0.domReady 18 = true ∧ s0.on F.HIF_STATUS_PCIEUP = true then
    match s0.hif.tags.getD' (ringKey tx r) [] with
    | [] => s0
    | tag :: _ => if tx then s0.dmaTx r tag len queue data (bit flags 0) else s0.dmaRx r tag len (bit flags 0)
  else s0)

/-- PCIE_LINK_CHANGE (R389, R470): source 221; the link trains once PERST_N has risen. `flight` names the descriptors in flight when the link goes down; they complete
LINKDOWN when it returns, and their packets stay queued. -/
def execPcieLinkChange (t : Time) (up : Bool) (width speed : Nat) (flight : List DescFlight) (s : State) :
    Host.Outcome State Fault Refusal :=
  let s0 := s.at t
  .next (if s0.domReady 18 = false ∨ s0.on F.HIF_STATUS_PCIEUP = up ∨ (up && !s0.hif.perst) = true then s0
    else
      let s1 := s0.setFlag F.HIF_STATUS_PCIEUP up
      if up then
        let s2 := (s1.setFld F.HIF_STATUS_PCIEW width).setFld F.HIF_STATUS_PCIESPD speed
        let s3 := s2.hif.flight.foldl (fun u (d : DescFlight) =>
          if (u.hif.tags.getD' (ringKey d.tx d.ring) []).isEmpty then u else u.descDone d.tx d.ring 0 0 4 d.irq) s2
        ({ s3 with hif := { s3.hif with flight := [] } }).fire 221
      else
        let s2 := (s1.setFld F.HIF_STATUS_PCIEW 0).setFld F.HIF_STATUS_PCIESPD 0
        ({ s2 with hif := { s2.hif with flight := flight } }).fire 221)

/-! ### Ethernet (R474 to R477, R479) -/

/-- Port `n` is up. -/
def State.ethUp (s : State) (n : Nat) : Bool := bit (s.fld F.HIF_STATUS_ETHUP) n

/-- Put packet `st` onto PRC queue `q`. -/
def State.ethToPrc (s : State) (n q : Nat) (data : List Octet) : State :=
  match s.acceptPkt (3 + n) (cellsFor data.length) data (.hw 19 n) { kind := 3, port := n } with
  | (some st, t) => t.pushPkt (65584 + q) (.hw 19 n) st
  | (none, t) => t

/-- Push a PTP timestamp (R478): sources 216 and 217. -/
def State.tsPush (s : State) (seq ns : Nat) : State :=
  if 64 ≤ s.hif.ts.length then s.fire 217
  else ({ s with hif := { s.hif with ts := s.hif.ts ++ [BitVec.ofNat 32 (seq % 65536 + 65536 * (ns % 65536))] } }).fireIf
    s.hif.ts.isEmpty 216

/-- The replay check of a protected frame (R479): its SA is in use and its PN is no older than the window. -/
def State.replayOk (s : State) (n an pn : Nat) : Bool :=
  s.on (F.HIF_PnSAa_EN n an) && Nat.ble (s.hif.rxPn.getD' (4 * n + an) 1) (pn + s.fld (F.HIF_PnCFG_RPWIN n))

/-- Classify a frame that may enter (R475). -/
def State.ethClassify (s : State) (n : Nat) (f : EthFrame) : State :=
  let s1 := s.bump (Ctr.HIF_P0RX + 8 * n)
  let drop := s1.bump (Ctr.HIF_P0DROP + 8 * n)
  let mac := s.fld (F.HIF_PnMAC_LO_MAC_LO n) + 2 ^ 32 * s.fld (F.HIF_PnMAC_HI_MAC_HI n)
  let multi := f.dst % 2 == 1
  let other := if s.on F.HIF_CFG_OTHEREN then s1.ethToPrc n (s.fld F.HIF_CFG_OTHERQ) f.data else drop
  if f.dst ≠ mac ∧ f.dst ≠ 2 ^ 48 - 1 ∧ (multi && s.on (F.HIF_PnCFG_MCAST n)) = false then drop
  else if (match f.vid with
      | some v => v != s.fld (F.HIF_PnVID_VID n)
      | none => s.on (F.HIF_PnCFG_VTAG n)) = true then drop
  else match f.kind with
    | .event q ns => (s1.tsPush q ns).ethToPrc n (s.fld F.HIF_CFG_PTPQ) f.data
    | .general => s1.ethToPrc n (s.fld F.HIF_CFG_PTPQ) f.data
    | .ipv6 =>
      if 9216 < f.data.length then other
      else match s1.acceptPkt (3 + n) (cellsFor f.data.length) f.data (.hw 19 n) { kind := 3, port := n } with
        | (some st, t) => { t with qmg := { t.qmg with intake := t.qmg.intake ++ [st] } }
        | (none, t) => t
    | .pause _ => s1
    | .other => other

/-- Mbit/s of port `n` (R474). -/
def State.ethRate (s : State) (n : Nat) : Nat :=
  match s.fld (F.HIF_PnCFG_MODE n) with
  | 1 => 25000
  | 2 => 10000
  | _ => 1000

/-- A PAUSE for `q` quanta of 512 bit times stops what port `n` starts; none lets it go on (R474, PRESUMED from IEEE 802.3). -/
def State.pausePort (s : State) (n q : Nat) : State :=
  { s with hif := { s.hif with pauseTo := s.hif.pauseTo.put n (s.gtb.ft + (512 * (q % 65536) + s.ethRate n - 1) / s.ethRate n) } }

/-- A PAUSE holds port `n`. -/
def State.ethPaused (s : State) (n : Nat) : Bool := Nat.blt s.gtb.ft (s.hif.pauseTo.getD' n 0)

/-- ETH_FRAME_RECEIVE (R475, R479): a PAUSE ends in the port; a protected frame needs its SA's key, and passes the replay check. -/
def execEthFrameReceive (t : Time) (n : Nat) (f : EthFrame) (s : State) : Host.Outcome State Fault Refusal :=
  let s0 := s.at t
  .next (if 2 ≤ n ∨ s0.level = 0 ∨ s0.domReady 18 = false ∨ s0.ethUp n = false then s0
    else match f.sec with
      | none =>
        match f.kind with
        | .pause q => s0.pausePort n q
        | _ => if s0.on (F.HIF_PnCFG_MSREQ n) then s0.bump (Ctr.HIF_P0MSDROP + 8 * n) else s0.ethClassify n f
      | some (an, pn) =>
        if s0.replayOk n (an % 4) pn then
          match s0.keyRequest (.macsec n) (s0.fld (F.HIF_PnSAa_KEYSLOT n (an % 4))) with
          | (none, u) => u
          | (some _, u) =>
            let k := 4 * n + an % 4
            let next := max (u.hif.rxPn.getD' k 1) (pn + 1)
            ({ u with hif := { u.hif with rxPn := u.hif.rxPn.put k next } }).ethClassify n f
        else s0)

/-- The packet number of the next frame of port `n` under its transmit AN (R479). -/
def State.txPn (s : State) (n : Nat) : Nat := s.hif.pn.getD' (4 * n + s.fld (F.HIF_PnTXAN_TXAN n)) 1

/-- Protect a frame that port `n` starts (R479): none where the port may not send. Source 215 at 0xC000_0000. -/
def State.protect (s : State) (n : Nat) : Option State :=
  let an := s.fld (F.HIF_PnTXAN_TXAN n)
  if s.on (F.HIF_PnSAa_EN n an) then
    if 0xFFFFFFFF ≤ s.txPn n then none
    else match s.keyRequest (.macsec n) (s.fld (F.HIF_PnSAa_KEYSLOT n an)) with
      | (none, _) => none
      | (some _, t) =>
        let pn := s.txPn n
        some (({ t with hif := { t.hif with pn := t.hif.pn.put (4 * n + an) (pn + 1) } }).fireIf (pn + 1 == 0xC0000000) 215)
  else if s.on (F.HIF_PnCFG_MSREQ n) then none
  else some s

/-- The queues that port `n` serves, highest priority first (R255); while protection acts port 1 serves both, its own queue
first, and port 0 none (R477). -/
def State.ethQueues (s : State) (n : Nat) : List Nat :=
  let act := s.on F.HIF_STATUS_PROTACT
  (List.range 8).reverse.flatMap (fun p =>
    if act then (if n = 1 then [65544 + p, 65536 + p] else []) else [65536 + 8 * n + p])

/-- The next hop of a packet as applied (R476). -/
def State.nextHop (s : State) (k : Nat) : Word × Word := s.hif.nh.getD' k (0, 0)

/-- The ones' complement sum of octets taken as 16-bit words, without the carries folded in. -/
def wordSum : List Octet → Nat
  | [] => 0
  | [a] => 256 * a.toNat
  | a :: b :: t => 256 * a.toNat + b.toNat + wordSum t

/-- The checksum of a UDP datagram `u` over IPv6 between the addresses `ad`, its own checksum octets counted as zero; a
sum of 0 is sent as 0xFFFF. -/
def udpSum (ad u : List Octet) : Nat :=
  let n := wordSum ad + u.length + 17 + wordSum (u.take 6 ++ [0, 0] ++ u.drop 8)
  65535 - n % 65535

/-- A UDP/IPv6 packet to port 319 that carries a Sync or a Delay_Req (R478; packet layouts PRESUMED from IEEE 1588 and its
standards). -/
def isEvent (l : List Octet) : Bool :=
  beNat (slice l 0 1) / 16 == 6 && (beNat (slice l 6 1) == 17 && (beNat (slice l 42 2) == 319 &&
    (Nat.ble 92 l.length && Nat.ble (beNat (slice l 48 1) % 16) 1)))

/-- An event message as it leaves at PTP time `ns` (R478): originTimestamp inserted, `res` (2^−16 ns) added to correctionField, UDP
checksum corrected. -/
def stampEvent (l : List Octet) (ns res : Nat) : List Octet :=
  let corr := beOctets 8 ((beNat (slice l 56 8) + res) % 2 ^ 64)
  let origin := beOctets 6 (ns / 10 ^ 9) ++ beOctets 4 (ns % 10 ^ 9)
  let u := l.take 56 ++ corr ++ slice l 64 18 ++ origin ++ l.drop 92
  u.take 46 ++ beOctets 2 (udpSum (slice u 8 32) (u.drop 40)) ++ u.drop 48

/-- The frame that port `n` makes of packet `p` of queue `q` (R476, R478, R479). -/
def State.ethFrame (s : State) (n q : Nat) (p : Pkt) : EthOut :=
  let h := s.nextHop p.info.hop
  let an := s.fld (F.HIF_PnTXAN_TXAN n)
  { dst := h.1.toNat + 2 ^ 32 * (F.HIF_NHk_B_MAC_HI 0).ext h.2,
    src := s.fld (F.HIF_PnMAC_LO_MAC_LO n) + 2 ^ 32 * s.fld (F.HIF_PnMAC_HI_MAC_HI n),
    tag := if (F.HIF_NHk_B_TAG 0).ext h.2 = 1 then some ((F.HIF_NHk_B_VID 0).ext h.2, q % 8) else none,
    sec := if s.on (F.HIF_PnSAa_EN n an) then some (an, s.txPn n) else none,
    data := if isEvent p.data then stampEvent p.data s.ptpNow s.fresh else p.data }

/-- Start the next packet of port `n` (R255, R476): packets whose next hop is not VALID end NOROUTE when they reach the head;
fuel counts them. The residence of an event message is a free value: the spec does not say from when it counts. -/
def State.ethStart (s : State) (n : Nat) : Nat → State
  | 0 => s
  | f + 1 =>
    if s.level = 0 ∨ s.ethUp n = false ∨ s.ethPaused n = true ∨ s.fld (F.HIF_PnCFG_MODE n) = 0 ∨ (s.hif.cur.find n).isSome = true then s
    else match (s.ethQueues n).find? (fun q => (s.headPkt q).isSome) with
      | none => s
      | some q =>
        match s.headPkt q with
        | none => s
        | some (st, p) =>
          if (F.HIF_NHk_B_VALID 0).ext (s.nextHop p.info.hop).2 = 1 then
            match s.protect n with
            | none => s
            | some t =>
              match t.takePkt q (.hw 19 n) with
              | (some c, u) =>
                let v := { u with hif := { u.hif with cur := u.hif.cur.put n c, wire := u.hif.wire.put n (s.ethFrame n q p) } }
                if isEvent p.data then v.nextFree else v
              | (none, u) => u
          else
            let s1 := (s.endPkt st (.drop 1)).ageNow q
            (({ s1 with hif := { s1.hif with nhDrop := true } }).fireIf (!s.hif.nhDrop) 225).ethStart n f

/-- ETH_TX_DONE (R260, R476): the last octet of the packet in port `n`'s MAC leaves, and the next queued packet starts; on an idle
port a queued packet starts. -/
def execEthTxDone (t : Time) (n : Nat) (s : State) : Host.Outcome State Fault Refusal :=
  let s0 := s.at t
  .next (if 2 ≤ n ∨ s0.domReady 18 = false then s0
    else
      let s1 := match s0.hif.cur.find n with
        | some st =>
          let s2 := { s0 with hif := { s0.hif with cur := s0.hif.cur.del n, wire := s0.hif.wire.del n } }
          (s2.endPkt st .tx).bump (Ctr.HIF_P0TX + 8 * n)
        | none => s0
      s1.ethStart n (s1.qmg.pkts.length + 1))

/-- ETH_LINK_CHANGE (R477): block lock, local fault and link state of port `n`; source 212 or 213 where the link changed. -/
def execEthLinkChange (t : Time) (n : Nat) (lock fault up : Bool) (s : State) : Host.Outcome State Fault Refusal :=
  let s0 := s.at t
  .next (if 2 ≤ n ∨ s0.domReady 18 = false then s0
    else
      let was := s0.ethUp n
      let s1 := (s0.setFlag (F.HIF_PnLSTAT_LOCK n) lock).setFld F.HIF_STATUS_ETHUP (setBit (s0.fld F.HIF_STATUS_ETHUP) n up)
      let ok := lock && !fault
      let h := s1.hif
      let s2 := if n = 0 then
          { s1 with hif := { h with bad := if ok then none else some (h.bad.getD t.ft),
                                    good := if ok && up then some (h.good.getD t.ft) else none } }
        else s1
      let s3 := s2.fireIf (was != up) (212 + n)
      if was && !up then s3.reportNow 10 19 (212 + n) (212 + n) else s3)

/-- PROTECTION_SWITCH (R477): port 0 bad for 5 µs; source 214. -/
def execProtectionSwitch (t : Time) (s : State) : Host.Outcome State Fault Refusal :=
  let s0 := s.at t
  .next (match s0.hif.bad with
    | some b =>
      if s0.domReady 18 && (s0.on F.HIF_CFG_PROT && (!s0.on F.HIF_STATUS_PROTACT && Nat.ble (b + 5) t.ft)) then
        (s0.setFlag F.HIF_STATUS_PROTACT true).fire 214
      else s0
    | none => s0)

/-- PROTECTION_RESTORE (R477): port 0 up for WTR seconds without a break; source 214. -/
def execProtectionRestore (t : Time) (s : State) : Host.Outcome State Fault Refusal :=
  let s0 := s.at t
  .next (match s0.hif.good with
    | some g =>
      if s0.domReady 18 && (s0.on F.HIF_STATUS_PROTACT && Nat.ble (g + 1000000 * s0.fld F.HIF_CFG_WTR) t.ft) then
        (s0.setFlag F.HIF_STATUS_PROTACT false).fire 214
      else s0
    | none => s0)

/-- A write of HIF_NHk_B through a view applies it with the staged HIF_NHk_A (R44, R476). -/
def State.nhWrite (s : State) (rq : Req) (k view : Nat) (v : Word) : State :=
  let p := Reg.HIF_NHk_B k
  match s.barred rq p (if view = 0 then some v else none) with
  | some c => (s.recordFault rq c true (p + 0x10000 * view) 15).respond [] false
  | none =>
    let t := (s.viewWrite rq p view v).respond [] true
    { t with hif := { t.hif with nh := t.hif.nh.put k (t.reg (Reg.HIF_NHk_A k), t.reg p) } }

/-- NEXTHOP_APPLY (R476): a write of HIF_NHk_B applies it with the staged HIF_NHk_A. -/
def execNexthopApply (rq : Req) (k : Nat) (v : Word) (s : State) : Host.Outcome State Fault Refusal :=
  .next (if k < 1024 then s.nhWrite rq k 0 v else s)

/-! ### The PTP clock (R478) -/

/-- Take the running time as the new base: before the rate changes. -/
def State.ptpRebase (s : State) : State := { s with hif := { s.hif with ptp := s.ptpNow, ptpFt := s.gtb.ft } }

/-- PTP_STEP (R478): the clock moves by the signed step, and the UTC mapping starts afresh. -/
def execPtpStep (t : Time) (rq : Req) (v : Word) (s : State) : Host.Outcome State Fault Refusal :=
  let s0 := s.at t
  .next (s0.gated rq Reg.HIF_PTPSTEP v (fun u =>
    let u1 := u.ptpRebase
    let p := (((u1.hif.ptp : Int) + signed 32 v.toNat) % (2 ^ 48 * 10 ^ 9 : Int)).toNat
    ({ u1 with hif := { u1.hif with ptp := p } }).utcInvalidate))

/-- HIF_TSPOP (R155, R478): a write of 1 removes the oldest timestamp. -/
def execHifTspop (rq : Req) (v : Word) (s : State) : Host.Outcome State Fault Refusal :=
  .next (s.gated rq Reg.HIF_TSPOP v (fun t =>
    if v.getLsbD 0 then { t with hif := { t.hif with ts := t.hif.ts.drop 1 } } else t))

/-! ### GPIO (R483) -/

/-- The level HIF drives onto ball `b`, if any: the lowest-numbered pulse generator that names it, else HIF_GPIOOUT. -/
def State.ballOut (s : State) (b : Nat) : Option Bool :=
  let gen := (List.range 8).find? (fun n =>
    let w := (s.reg (Reg.HIF_PLSMAP0 + 4 * (n / 4))).toNat / 2 ^ (8 * (n % 4))
    bit w 5 && w % 32 == b)
  match gen with
  | some n => some ((s.gtb.pulses.getD n {}).busy != s.on (F.GTB_PLSn_POL n))
  | none => if bit (s.reg Reg.HIF_GPIOOE).toNat b then some (bit (s.reg Reg.HIF_GPIOOUT).toNat b) else none

/-- GPIO_EDGE (R483): ball `b` goes to `level`; an enabled edge fires source 224. -/
def execGpioEdge (b : Nat) (level : Bool) (s : State) : Host.Outcome State Fault Refusal :=
  .next (if 32 ≤ b ∨ s.domReady 18 = false ∨ bit (s.reg Reg.HIF_GPIOIN).toNat b = level then s
    else (s.setReg Reg.HIF_GPIOIN (BitVec.ofNat 32 (setBit (s.reg Reg.HIF_GPIOIN).toNat b level))).fireIf
      (bit (s.reg Reg.HIF_GPIOIEN).toNat b) 224)

end Sys2Proof.Machine
end

