-- ==== Sys2Proof/Machine/Streams.lean ====
section
/-! DEFINITION. Ends of what RFP runs for other units (chapter 05): links, transmit streams, assessments, history reads; the
transmit timestamp check (R89); history traffic and patrol scrubbing of MEM (R402, R404). -/

namespace Sys2Proof.Machine

/-! ### Streams (R114, R116, R136, R213) -/

/-- The owner of transmission `id` is told that it was cancelled or aborted. -/
def State.ownerAborted (s : State) (id : Nat) (u : TxUser) : State :=
  match u with
  | .lgc => s.i3Aborted id
  | _ => s.txAborted id

/-- The owner of transmission `id` is told of CCA BUSY. -/
def State.ownerBusy (s : State) (id : Nat) (u : TxUser) : State :=
  match u with
  | .lgc => s.i3Busy id
  | _ => s.txBusy id

/-- RFP and CDC drop transmission `id` of port `n`, with the assessments that serve it; what it blanked was not idle and is OWN to
the windows it met. -/
def State.endStream (s : State) (n id : Nat) : State :=
  let s0 := if (s.port n).streams.any (fun (x : Stream) => x.id == id && x.active) then s.markOwn.noteBlanked else s
  let s1 := (s0.dropStream n id).cdcDrop id
  s1.setPort n { s1.port n with ccas := (s1.port n).ccas.filter (fun (c : Cca) => c.id != id) }

/-- Stream `x` of port `n` ends before its first chip (none) or after `chips` chips (R114, R213): the chips sent are reported to BGT
and its owner, it is counted in RFPn_TXABORT, source 60. -/
def State.abortStream (s : State) (n : Nat) (x : Stream) (chips : Option Nat) : State :=
  let s0 := (s.settle x.id chips false).endStream n x.id
  let s1 := { s0 with rfp := { s0.rfp with lastAbort := some (x.id, chips.getD 0) } }.bump (Ctr.RFPn_TXABORT n)
  (s1.fire 60).ownerAborted x.id x.user

/-- STREAM_CANCEL (R114, R213): a reservation is cancelled before its release, without cost. -/
def execStreamCancel (t : Time) (id : Nat) (s : State) : Host.Outcome State Fault Refusal :=
  let s0 := s.at t
  .next (match s0.findStream id with
    | some (n, x) => if x.active then s0 else ((s0.settle id none false).endStream n id).ownerAborted id x.user
    | none => s0)

/-- STREAM_RELEASE (R114, R116, R136): at the start GT less TXLAT the first chip is released, and the overlapping slices are
blanked; where CDC has not produced the chips of a native frame, it counts a late encode and the stream ends, without that count where the
encode was cancelled. DESIGN CHOICE: the RFPn_PROF pins take the frame's profile at the release; R113 says only that they change between
transmissions, SETTLE before the next (log entry 151). The frame takes the active TXAMP (R115). An assessment that has not answered holds the release (R217). -/
def execStreamRelease (t : Time) (id : Nat) (s : State) : Host.Outcome State Fault Refusal :=
  let s0 := s.at t
  .next (match s0.findStream id with
    | none => s0
    | some (n, x) =>
      if x.active || ((s0.port n).ccas.any (fun (c : Cca) => c.id == id)
          || decide (gtDiff t.gt (gtSub x.start (nsToGt (s0.fld (F.RFPn_LAT_TXLAT n)) s0.mainsFreq)) < 0)) then s0
      else if s0.cdc.cancelled.contains id then ((s0.settle id none false).endStream n id).ownerAborted id x.user
      else if x.user == .msq && (s0.cdc.chips.find id).isNone then
        ((s0.bump Ctr.CDC_TXLATE).fire 90).abortStream n x none
      else
        let p := s0.port n
        let s1 := s0.setPort n { p with prof := x.prof, streams := p.streams.map (fun (y : Stream) =>
          if y.id = id then { y with active := true, rel := t.gt, amp := s0.actFld (F.RFPn_TX_TXAMP n) } else y) }
        (s1.blankLanes t).markOwn)

/-- STREAM_ABORT (R114): a chip was due while the stream buffer was empty, after `chips` chips. -/
def execStreamAbort (t : Time) (id chips : Nat) (s : State) : Host.Outcome State Fault Refusal :=
  let s0 := s.at t
  .next (match s0.findStream id with
    | some (n, x) => if x.active then s0.abortStream n x (some chips) else s0
    | none => s0)

/-- A transmit timestamp missed the inserted value by more than 40 ns (R89): counted, source 43, a class 7 fault; three in one
second are a class 5 fault of CDC as well (R422). -/
def State.tsMismatch (s : State) : State :=
  let s1 := ((s.bump Ctr.GTB_TSMIS).fire 43).reportNow 7 2 43 43
  let n := s1.sup.tsMisWindow + 1
  let s2 := { s1 with sup := { s1.sup with tsMisWindow := n } }
  if n = 3 then s2.reportNow 5 6 43 43 else s2

/-- STREAM_END (R114, R213, R89): the last chip left the converter output; `sfd` is the transmit SFD timestamp. -/
def execStreamEnd (t : Time) (id sfd : Nat) (s : State) : Host.Outcome State Fault Refusal :=
  let s0 := s.at t
  .next (match s0.findStream id with
    | none => s0
    | some (n, x) =>
      if x.active then
        let s1 := (s0.settle id none true).endStream n id
        let ins := (s1.msq.tx.find id).bind (fun (m : MsqTx) => m.inserted)
        let s2 := match ins with
          | some g => if 40 * 2 ^ 24 * s1.mainsFreq < (gtDiff sfd g).natAbs * 10 ^ 12 then s1.tsMismatch else s1
          | none => s1
        match x.user with
        | .lgc => s2.i3Sent id
        | _ => s2.txSent id
      else s0)

/-! ### Assessments (R111, R216, R217) -/

/-- An assessment found the channel busy: of a reserved transmission, the charge is refunded and the stream cancelled. -/
def State.ccaBusyFor (s : State) (c : Cca) : State :=
  let s1 := if c.user = .bgt then
      let n := s.bgt.ccaBusy + 1
      let s' := s.bump Ctr.BGT_CCABUSY
      ({ s' with bgt := { s'.bgt with ccaBusy := n } }).fireIf (n == s.fld F.BGT_THR_CCATHR) 115
    else s
  if c.user = .msq then s1
  else match s1.findStream c.id with
    | some (n, x) => ((s1.settle c.id none false).endStream n c.id).ownerBusy c.id x.user
    | none => s1

/-- A sub-window of linear power `p` (full scale 2^32) reached a threshold in 0.25 dBFS (R110): p / 2^32 is at least 10^(dbfs / 40). -/
def reached (p : Nat) (dbfs : Int) : Bool :=
  if 0 ≤ dbfs then Nat.ble (2 ^ 1280 * 10 ^ dbfs.toNat) (p ^ 40) else Nat.ble (2 ^ 1280) (p ^ 40 * 10 ^ (-dbfs).toNat)

/-- The answer of an assessment, whose sub-windows had the mean powers `powers` (R111): CLEAR, or the first reason that applies. -/
def Cca.answer (c : Cca) (powers : List Nat) : CcaAnswer :=
  if c.noMeas || (c.down || Nat.blt powers.length c.win) then .noMeas
  else if c.own then .own
  else if c.energy && powers.any (fun p => reached p c.dbfs) then .energy
  else if c.carrier && c.hit then .carrier
  else .clear

/-- CCA_RESULT (R110, R111): the window of the assessment for `id` on port `n` has ended; `powers` are the mean powers of its 16 µs
sub-windows. The answer goes to its requester. -/
def execCcaResult (t : Time) (id n : Nat) (powers : List Nat) (s : State) : Host.Outcome State Fault Refusal :=
  let s0 := (s.at t).markOwn
  .next (match (s0.port n).ccas.find? (fun (c : Cca) => c.id == id) with
    | none => s0
    | some c =>
      if gtDiff t.gt c.fin < 0 then s0
      else
        let a := c.answer powers
        let s1 := s0.setPort n { s0.port n with ccas := (s0.port n).ccas.erase c }
        let s2 := { s1 with rfp := { s1.rfp with lastCca := some (id, a) } }
        if a ≠ .clear then s2.ccaBusyFor c
        else if c.user = .bgt then s2.bump Ctr.BGT_CCACLR
        else s2)

/-! ### Links (R98, R99, R146) -/

/-- A port that leaves UP before the end of a window leaves part of it unmeasured, unless it comes UP again before it opens (R111). -/
def Cca.linkDown (now : Nat) (c : Cca) : Cca := if gtDiff now c.fin ≤ 0 then { c with down := true } else c

/-- Port `n` leaves UP for state `dest` (R99): its streams are aborted, its lanes end or go on with one port, the history is marked, the
exit counted, source 48 + n, a class 8 fault. -/
def State.linkExit (s : State) (t : Time) (n dest : Nat) : State :=
  let s1 := (s.setFld (F.RFPn_LSTAT_STATE n) dest).setFld (F.RFPn_LSTAT_LOCK n) 0
  let p := s1.port n
  let s2 := s1.setPort n { p with gap := true, ccas := p.ccas.map (Cca.linkDown s.gtb.gt) }
  let s3 := p.streams.foldl (fun (u : State) (x : Stream) =>
    u.abortStream n x (if x.active then some (u.chipsSent n x) else none)) s2
  (((s3.lanesLost t n).bump (Ctr.RFPn_LINKDN n)).fire (48 + n)).reportNow 8 3 (48 + n) (48 + n)

/-- Port `n` goes to link state `dest` for whatever reason. -/
def State.linkTo (s : State) (t : Time) (n dest : Nat) : State :=
  if s.link n = 4 then s.linkExit t n dest else s.setFld (F.RFPn_LSTAT_STATE n) dest

/-- LINK_DOWN (R99): CRC-12 or disparity errors that came within 1 ms are counted; 16 of them, or a lane that lost lock, take the
port out of UP. -/
def execLinkDown (t : Time) (n : Nat) (e : LinkErrs) (s : State) : Host.Outcome State Fault Refusal :=
  let s0 := s.at t
  .next (if n < 4 ∧ s0.link n = 4 then
    let s1 := if e.errs = 0 then s0 else s0.bump (Ctr.RFPn_CRCERR n) e.errs
    if e.lost = true ∨ 16 ≤ e.errs then s1.linkExit t n 2 else s1
  else s0)

/-- A device clock of which a window of REFCLK holds `counted` cycles is within 10 ppm of the rate that gives `expected` (R98). -/
def within10ppm (counted expected : Nat) : Bool := Nat.ble (100000 * ((counted : Int) - expected).natAbs) expected

/-- DCLK_CHECK_WINDOW (R98, R99): a window of the device clock check, in which `counted` cycles came and the port's configuration implies
`expected`, ends within 10 ppm, or sends the link to CLKCHK. -/
def execDclkCheckWindow (t : Time) (n counted expected : Nat) (s : State) : Host.Outcome State Fault Refusal :=
  let s0 := s.at t
  let ok := within10ppm counted expected
  .next (if 4 ≤ n ∨ s0.link n = 0 then s0
    else
      let s1 := (s0.setPort n { s0.port n with clkBad := !ok }).setFlag (F.RFPn_LSTAT_CLKOK n) ok
      if ok then (if s0.link n = 1 then s1.setFld (F.RFPn_LSTAT_STATE n) 2 else s1)
      else (s1.linkTo t n 1).fireIf (!(s0.port n).clkBad) 56)

/-! ### History reads (R108) -/

/-- HISTORY_READ_DONE (R108): the read ends with the outcome as things stand, which goes to its reader. -/
def execHistoryReadDone (t : Time) (id : Nat) (s : State) : Host.Outcome State Fault Refusal :=
  let s0 := s.at t
  .next (match s0.rfp.reads.find? (fun (r : HistRead) => r.id == id) with
    | none => s0
    | some r =>
      match s0.histOutcome r with
      | none => s0
      | some o =>
        let s1 := s0.histEnd r o
        match r.reader with
        | .sic => s1.sicReadDone r o
        | .dmx => s1.laneReadDone t r o
        | .msq => s1.searchReadDone r o)

/-! ### MEM (R401, R402, R404) -/

/-- HISTORY_WINDOW_END (R404): a 1 ms window over the 8 GB/s of R9 is counted; source 209. -/
def execHistoryWindowEnd (octets : Nat) (s : State) : Host.Outcome State Fault Refusal :=
  .next (s.whenLive 17 (if Nat.blt 8000000 octets then (s.bump Ctr.MEM_HISTOVR).fire 209 else s))

/-- A corrected error (R401): counted; source 206 when the second's count reaches CETHR. -/
def State.memCorrected (s : State) : State :=
  let n := s.mem.ceWin + 1
  let s1 := s.bump Ctr.MEM_CE
  ({ s1 with mem := { s1.mem with ceWin := n } }).fireIf (n == s.fld F.MEM_SCRUB_CETHR) 206

/-- An uncorrectable error (R401): counted, captured while the record is free, source 207, a class 5 fault. -/
def State.memUncorrectable (s : State) (unit ch region addr : Nat) (scrub : Bool) : State :=
  let s1 := s.bump Ctr.MEM_UE
  let s2 := if s1.on F.MEM_ECCREC_VALID then s1.setFlag F.MEM_ECCREC_OVF true
    else
      let r := s1.setReg Reg.MEM_ECCREC (BitVec.ofNat 32
        (1 + 4 * (ch % 2) + 8 * (region % 16) + 128 * (unit % 32) + 4096 * b2n scrub))
      (r.setReg Reg.MEM_ECCADDR_LO (BitVec.ofNat 32 addr)).setReg Reg.MEM_ECCADDR_HI (BitVec.ofNat 32 (addr / 2 ^ 32))
  (s2.fire 207).reportNow 5 18 207 207

/-- SCRUB_READ (R402): the patrol scrubber reads its next burst; `last` ends the pass. The sample history is not scrubbed. -/
def execScrubRead (t : Time) (res : ScrubRes) (ch region addr : Nat) (last : Bool) (s : State) :
    Host.Outcome State Fault Refusal :=
  let s0 := s.at t
  .next (if s0.domReady 17 && (s0.on F.MEM_STATUS_TRAINED && s0.fld F.MEM_SCRUB_HOURS != 0) then
    let s1 := if region < 4 then s0 else match res with
      | .clean => s0
      | .corrected => s0.memCorrected
      | .uncorrectable => s0.memUncorrectable 0x12 ch region addr true
    if last then (s1.bump Ctr.MEM_SCRUBPASS).fire 208 else s1
  else s0)

end Sys2Proof.Machine
end

