-- ==== Sys2Proof/Machine/CscLink.lean ====
section
/-! DEFINITION. CSC's links (chapter 18): sending on a port, acknowledgements, credits and grants. -/

namespace Sys2Proof.Machine

/-- A chip is in an activation pause or a trial (R352). -/
def CscStat.inTrial (x : CscStat) : Bool := x.upd == 6 || x.upd == 7

/-- Cascade port `n` outside its registers. -/
def State.cport (s : State) (n : Nat) : CscPort := s.csc.ports.getD n {}

/-- Change cascade port `n`. -/
def State.setCport (s : State) (n : Nat) (p : CscPort) : State :=
  { s with csc := { s.csc with ports := listSet s.csc.ports n p } }

/-- Port `n` is UP (R364). -/
def State.portUp (s : State) (n : Nat) : Bool := s.fld (F.CSC_PnSTAT_STATE n) == 2

/-- The QMG queue of class `c` of cascade port `n` (R249). -/
def cscQueue (n c : Nat) : Nat := 65552 + 8 * n + c

/-- Cells that the peer's grant allows port `n` to send (R369). -/
def State.credAvail (s : State) (n : Nat) : Nat := ((s.cport n).peerGrant + 2 ^ 32 - (s.cport n).sent % 2 ^ 32) % 2 ^ 32

/-- Cells granted on port `n` and not yet arrived. -/
def State.credOut (s : State) (n : Nat) : Nat := ((s.cport n).granted + 2 ^ 32 - (s.cport n).arrived % 2 ^ 32) % 2 ^ 32

/-- Grant what R369 allows on port `n`: U_5 + O stays within m_5, the port's own within MAX. -/
def State.grantPort (s : State) (n : Nat) : State :=
  if !s.portUp n then s
  else
    let m5 := s.actFld (F.QMG_ADMk_MIN 5) * s.totalCells / 1024
    let o := (List.range 4).foldl (fun a k => if s.portUp k then a + s.credOut k else a) 0
    let inc := min (s.fld (F.CSC_PnCRED_MAX n) - s.credOut n) (m5 - (s.usedCells 5 + o))
    let p := s.cport n
    s.setCport n { p with granted := (p.granted + inc) % 2 ^ 32 }

/-- Grant on every port, in port order. -/
def State.cscGrant (s : State) : State := (List.range 4).foldl (fun t n => t.grantPort n) s

/-! ### Frames (R365, R366) -/

/-- TYPE of a frame (R365). -/
def CscBody.typ : CscBody → Nat
  | .data _ _ _ => 0
  | .ack => 1
  | .credit _ _ => 2
  | .hello _ _ _ _ _ _ => 3
  | .lsa _ _ => 4
  | .status _ => 5
  | .time _ _ _ => 6
  | .learn _ => 7
  | .sched _ => 8
  | .home _ _ => 9
  | .addr _ => 10
  | .echo _ _ => 11

/-- OSEQ of a frame (R365): zero but for DATA. -/
def CscBody.oseq : CscBody → Nat
  | .data _ q _ => q
  | _ => 0

/-- The 16-octet header of a frame (R365): TYPE, REROUTED, CLASS, DST, SRC, LEN, LSEQ, ACKSEQ, OSEQ. -/
def cscHeader (typ : Nat) (rerouted : Bool) (cls dst src len lseq ackseq oseq : Nat) : List Octet :=
  leOctets 1 (typ % 16 + 16 * b2n rerouted + 32 * (cls % 8)) ++ leOctets 1 (dst % 32) ++ leOctets 1 (src % 32) ++ leOctets 1 0
  ++ leOctets 2 len ++ leOctets 2 lseq ++ leOctets 2 ackseq ++ leOctets 6 oseq

/-- The session key of one direction of a port (R366): 0 for what the chip of the lower device ID sends. -/
def sessionKey (k : KeySlot) (ra rb dir : Nat) : List Octet :=
  kdfCounter (leOctets 32 k.key) [0x50, 0x4A, 0x2D, 0x43, 0x53, 0x43] (leOctets 16 ra ++ leOctets 16 rb ++ leOctets 1 dir) 256

/-- The nonce of the `n`-th frame under a session key (R366): 32 zero bits, then the count (log entry 145). -/
def cscNonce (n : Nat) : List Octet := leOctets 4 0 ++ beOctets 8 n

/-- The octets of a frame on the line (R366): on a protected port its body encrypted and a GCM tag, else a CRC-32C. -/
def cscLine (sec : Bool) (key nonce head body : List Octet) : List Octet :=
  if sec then
    let x := gcmSeal key nonce head body
    head ++ x.1 ++ x.2
  else head ++ body ++ leOctets 4 (crc32c (head ++ body))

/-- The trailer of a frame (R366). -/
def cscTrailer (sec : Bool) (key nonce head body : List Octet) : List Octet :=
  if sec then (gcmSeal key nonce head body).2 else leOctets 4 (crc32c (head ++ body))

/-- The body octets of a frame: those of the packet of a DATA frame. -/
def State.bodyOctets (s : State) (b : CscBody) : List Octet :=
  match b with
  | .data st _ _ => (s.qmg.pkts.find st).elim [] (fun p => p.data)
  | .ack => []
  | b => Config.cscOctets b

/-- The octets that port `n` puts on the line for a frame now; its ACKSEQ is the next LSEQ that the port expects (R367). -/
def State.frameOctets (s : State) (n : Nat) (f : CscFrame) : List Octet :=
  let p := s.cport n
  cscLine (s.on (F.CSC_PnCFG_SEC n)) p.keys.1 (cscNonce p.txCount)
    (cscHeader f.body.typ f.rer f.cls f.dst f.src f.pay.length f.lseq p.rxSeq f.body.oseq) f.pay

/-- A frame has been put on the line of port `n`: it counts under the session key, and has told ACKSEQ. -/
def State.lineSent (s : State) (n : Nat) : State :=
  s.setCport n { s.cport n with txCount := (s.cport n).txCount + 1, ackTold := (s.cport n).rxSeq }

/-- Put a frame on port `n` with the next LSEQ (R367); kept until it is acknowledged. -/
def State.putFrame (s : State) (n : Nat) (f : CscFrame) : State :=
  let g := { f with lseq := (s.cport n).txSeq, pay := s.bodyOctets f.body }
  let s1 := s.lineSent n
  let p := s1.cport n
  (s1.setCport n { p with txSeq := (p.txSeq + 1) % 65536, unacked := p.unacked ++ [{ g with octets := s.frameOctets n g }] }).bump
    (Ctr.CSC_PnTXFRM n)

/-- Put an ACK or CREDIT frame on port `n`: without an LSEQ, to the link peer, not kept (R367, R369). -/
def State.putTell (s : State) (n : Nat) (b : CscBody) : State :=
  let l := s.frameOctets n { dst := 31, src := s.fld F.CSC_STATUS_ADDR, body := b, pay := s.bodyOctets b }
  let s1 := s.lineSent n
  (s1.setCport n { s1.cport n with tells := l }).bump (Ctr.CSC_PnTXFRM n)

/-- The unacknowledged frames of port `n` are put on the line again, oldest first (R367), and counted. -/
def State.resend (s : State) (n : Nat) : State :=
  let again := (s.cport n).unacked.foldl (fun (a : List CscFrame × State) f =>
    (a.1 ++ [{ f with octets := a.2.frameOctets n f }], a.2.lineSent n)) ([], s)
  (again.2.setCport n { again.2.cport n with unacked := again.1 }).bump (Ctr.CSC_PnRETX n) again.1.length

/-- Room for another unacknowledged frame. -/
def State.cscRoom (s : State) (n : Nat) : Bool := Nat.blt (s.cport n).unacked.length 4096

/-- The control frames that the peer's grant still allows port `n` to send (R368). -/
def State.ctlAvail (s : State) (n : Nat) : Nat := ((s.cport n).ctlGrant + 2 ^ 32 - (s.cport n).ctlSent % 2 ^ 32) % 2 ^ 32

/-- Send the control frames that wait on port `n`, while the peer has buffers for them (R368). -/
def State.ctlPump (s : State) (n : Nat) : Nat → State
  | 0 => s
  | k + 1 =>
    let p := s.cport n
    match p.ctlQ with
    | [] => s
    | f :: rest =>
      if 0 < s.ctlAvail n ∧ s.cscRoom n = true then
        ((s.setCport n { p with ctlQ := rest, ctlSent := (p.ctlSent + 1) % 2 ^ 32 }).putFrame n f).ctlPump n k
      else s

/-- Queue a control frame on port `n`: not while isolated, only when the port is UP, and under address 31 no frame but ADDR (R370). -/
def State.ctlFrame (s : State) (n : Nat) (f : CscFrame) : State :=
  if !s.portUp n || (s.on F.CSC_STATUS_ISOLATED || (f.src == 31 && f.body.typ != 10)) then s
  else
    let p := s.cport n
    (s.setCport n { p with ctlQ := p.ctlQ ++ [f] }).ctlPump n (p.ctlQ.length + 1)

/-- Send a control frame of this chip on port `n`. -/
def State.ctlSend (s : State) (n dst src : Nat) (body : CscBody) : State := s.ctlFrame n { dst := dst, src := src, body := body }

/-- Does address `d` have a route? -/
def State.routed (s : State) (d : Nat) : Bool := s.on (F.CSC_RTa_PRIV d)

/-- DATA may go to address `d` (R370): there is a route, and neither it nor this chip's is a temporary address. -/
def State.dataRouted (s : State) (d : Nat) : Bool := s.routed d && (Nat.blt d 16 && Nat.blt (s.fld F.CSC_STATUS_ADDR) 16)

/-- A packet for the cascade ends without a route (R372). -/
def State.cscNoRoute (s : State) (start : Nat) : State := (s.endAged start (.drop 1)).bump Ctr.CSC_NOROUTE

/-- Send the packets of one class of port `n` while credit lasts (R255, R367, R369, R372); fuel is the cells queued. Answers
whether a packet waits for credit. -/
def State.classPump (s : State) (n c : Nat) : Nat → Bool × State
  | 0 => (false, s)
  | k + 1 =>
    match (s.queue (cscQueue n c)).cells with
    | [] => (false, s)
    | st :: _ =>
      match s.qmg.pkts.find st with
      | none => (false, s)
      | some p =>
        if p.pushed < p.cells.length then (true, s)
        else if !s.dataRouted p.info.chip then (s.cscNoRoute st).classPump n c k
        else if s.credAvail n < p.cells.length ∨ s.cscRoom n = false then (true, s)
        else
          match s.takePkt (cscQueue n c) (.hw 15 n) with
          | (none, t) => (true, t)
          | (some a, t) =>
            let own := s.fld F.CSC_CFG_CHIPID
            let (src, oseq) := p.info.org.getD (own, t.csc.oseq)
            let t1 := if p.info.org.isSome then t else { t with csc := { t.csc with oseq := (t.csc.oseq + 1) % 2 ^ 48 } }
            let t2 := t1.updPkt a (fun x => { x with info := { x.info with org := some (src, oseq) } })
            let q := t2.cport n
            let t3 := t2.setCport n { q with sent := (q.sent + p.cells.length) % 2 ^ 32 }
            ((t3.putFrame n { dst := p.info.chip, src := src, cls := p.info.cls, rer := p.info.flag,
                              body := .data a oseq p.cells.length }).bump Ctr.CSC_TXPKT).classPump n c k

/-- Send what port `n` can send: control frames, then the data classes by strict priority (R255, R368). -/
def State.portPump (s : State) (n : Nat) : State :=
  if !s.portUp n || s.on F.CSC_STATUS_ISOLATED then s
  else
    let s1 := s.ctlPump n (s.cport n).ctlQ.length
    ([7, 6, 5, 4, 3, 2, 1, 0].foldl (fun (r : Bool × State) c =>
      if r.1 then r else r.2.classPump n c (r.2.queue (cscQueue n c)).cells.length) (false, s1)).2

/-- Tell the peer of port `n` what it does not know yet (R367 to R369): grants in a CREDIT frame, 64 control frame buffers beyond those
used; ACKSEQ, where no other frame carried it, in an ACK frame. -/
def State.tellPort (s : State) (n : Nat) : State :=
  if !s.portUp n || s.on F.CSC_STATUS_ISOLATED then s
  else
    let p := s.cport n
    let now := (p.granted, (p.ctlCame + 64) % 2 ^ 32)
    let s1 := if p.credTold = now then s
      else ((s.setCport n { p with credTold := now }).putTell n (.credit now.1 now.2))
    if (s1.cport n).ackTold = (s1.cport n).rxSeq then s1 else s1.putTell n .ack

/-- Grants, sending and telling on every port. -/
def State.cscPump (s : State) : State :=
  if s.domReady 19 then
    let s1 := ((List.range 4).foldl (fun t n => t.portPump n) s).cscGrant
    (List.range 4).foldl (fun t n => t.tellPort n) s1
  else s

/-- The packet of a DATA frame that is not yet acknowledged, while QMG holds it: the one at its START with the frame's origin and OSEQ. -/
def State.sentPkt (s : State) (f : CscFrame) : Option Nat :=
  match f.body with
  | .data st oseq _ => if (s.qmg.pkts.find st).any (fun p => p.info.org == some (f.src, oseq)) then some st else none
  | _ => none

/-- ACKSEQ of a received frame (R367): frames before it are acknowledged, DATA frames end as transmitted. -/
def State.ackTo (s : State) (n ackseq : Nat) : State :=
  let p := s.cport n
  let m := (ackseq + 65536 - ((p.unacked.head?).elim ackseq (fun f => f.lseq))) % 65536
  if m = 0 ∨ p.unacked.length < m then s
  else
    let s1 := s.setCport n { p with unacked := p.unacked.drop m, retx := 0 }
    (p.unacked.take m).foldl (fun (t : State) (f : CscFrame) => match t.sentPkt f with
      | some st => t.endPkt st .tx
      | none => t) s1

end Sys2Proof.Machine
end

