-- ==== Sys2Proof/Machine/Fwd.lean ====
section
/-! DEFINITION. FWD (chapter 13): hashing and placement, memory errors, damping, lookup, learning, aging, the filter and
the policers. Learning messages of chapter 14 are handled here too; its table commands stand in FwdCmd. -/

namespace Sys2Proof.Machine

/-! ### Entries, hashing, placement (R265 to R268) -/

/-- The 32 octets of an entry (R265). -/
def FwdEntry.octets (e : FwdEntry) : List Octet :=
  beOctets 16 e.key ++ leOctets 8 e.updgt ++ leOctets 1 e.len
  ++ leOctets 1 (1 + 2 * b2n e.stat + 4 * b2n e.learned + 8 * b2n e.hit + 16 * b2n e.pend + 32 * b2n e.pin)
  ++ leOctets 1 (e.etype % 4 + 4 * b2n e.dscppri + 8 * (e.pri % 8)) ++ leOctets 1 (e.moves % 8) ++ leOctets 4 e.dest

/-- DEST uses no bit beyond those of its ETYPE (R265). -/
def destOk (etype dest : Nat) : Bool :=
  decide (dest < if etype = 0 then 2048 else if etype = 2 then 262144 else 16)

/-- A static record or WRITE entry (R266, R293); none where it breaks R266. -/
def staticEntry (l : List Octet) : Option FwdEntry :=
  let key := beNat (slice l 0 16)
  let len := leNat (slice l 24 1)
  let fl := leNat (slice l 25 1)
  let b := leNat (slice l 26 1)
  let dest := leNat (slice l 28 4)
  if leNat (slice l 16 8) = 0 ∧ len ≤ 128 ∧ fl = 3 ∧ b < 64 ∧ leNat (slice l 27 1) = 0 ∧ key % 2 ^ (128 - len) = 0
      ∧ destOk (b % 4) dest = true then
    some { key := key, len := len, updgt := 0, stat := true, learned := false, hit := false, pend := false, pin := false,
           etype := b % 4, dscppri := bit b 2, pri := b / 8, moves := 0, dest := dest }
  else none

/-- fwd_hash of R267. -/
def fwdHash (seed : Nat) (key : List Octet) : Nat := crc32c (leOctets 4 seed ++ key)

/-- A key masked to its first `len` bits. -/
def maskKey (key len : Nat) : Nat := key / 2 ^ (128 - len) * 2 ^ (128 - len)

/-- The hash key of a table (R267). -/
def hashKey (pfx : Bool) (key len : Nat) : List Octet :=
  if pfx then beOctets 16 (maskKey key len) ++ leOctets 1 len else beOctets 16 key

/-- Buckets of a table. -/
def bucketsOf (pfx : Bool) : Nat := if pfx then 524288 else 4194304

/-- Slots of a bucket. -/
def slotsOf (pfx : Bool) : Nat := if pfx then 4 else 8

/-- The two candidate buckets of a key (R268). -/
def State.buckets (s : State) (pfx : Bool) (key len : Nat) : Nat × Nat :=
  let k := hashKey pfx key len
  let b1 := fwdHash (s.fld F.FWD_HSEED0_SEED) k % bucketsOf pfx
  let b2 := fwdHash (s.fld F.FWD_HSEED1_SEED) k % bucketsOf pfx
  (b1, if b2 = b1 then b1 ^^^ 1 else b2)

/-- The hot cache set of a key. -/
def State.hotSet (s : State) (key : Nat) : Nat := fwdHash (s.fld F.FWD_HSEED0_SEED) (beOctets 16 key) / 65536

/-- A table by its flag. -/
def State.fwdTab (s : State) (pfx : Bool) : Tab FwdEntry := if pfx then s.fwd.pfx else s.fwd.addr

/-- Replace a table. -/
def State.setFwdTab (s : State) (pfx : Bool) (t : Tab FwdEntry) : State :=
  { s with fwd := if pfx then { s.fwd with pfx := t } else { s.fwd with addr := t } }

/-- The entries of bucket `b`. -/
def State.inBucket (s : State) (pfx : Bool) (b : Nat) : List (Nat × FwdEntry) :=
  (List.range (slotsOf pfx)).filterMap (fun k =>
    ((s.fwdTab pfx).find (b * slotsOf pfx + k)).map (fun e => (b * slotsOf pfx + k, e)))

/-- The slot that holds a key. -/
def State.slotFor (s : State) (pfx : Bool) (key len : Nat) : Option (Nat × FwdEntry) :=
  let b := s.buckets pfx key len
  (s.inBucket pfx b.1 ++ s.inBucket pfx b.2).find? (fun x => x.2.key == key && x.2.len == len)

/-- The slot an insertion takes (R268): the lowest-numbered free one of the bucket with fewer entries, b1 when level. -/
def State.freeSlot (s : State) (pfx : Bool) (key len : Nat) : Option Nat :=
  let b := s.buckets pfx key len
  let b := if (s.inBucket pfx b.2).length < (s.inBucket pfx b.1).length then b.2 else b.1
  ((List.range (slotsOf pfx)).map (fun k => b * slotsOf pfx + k)).find? (fun i => ((s.fwdTab pfx).find i).isNone)

/-! ### Hot cache (R269) -/

/-- Invalidate the lines that hold a key. -/
def State.hotKill (s : State) (key : Nat) : State :=
  let k := s.hotSet key
  let h := s.fwd.hot.putD [] k ((s.fwd.hot.getD' k []).filter (fun (x : HotLine) => x.key != key))
  { s with fwd := { s.fwd with hot := h } }

/-- A line counts: a HOST line always (its entry exists), a ROUTE line while its generation is current. -/
def State.lineValid (s : State) (x : HotLine) : Bool := !x.route || x.gen == s.fld F.FWD_PFXGEN_GEN

/-- Fill a line as the most recently used of its set; the least recently used goes where four are valid. -/
def State.hotFill (s : State) (x : HotLine) : State :=
  let k := s.hotSet x.key
  let l := (s.fwd.hot.getD' k []).filter (fun (y : HotLine) => s.lineValid y && !(y.key == x.key && y.route == x.route))
  { s with fwd := { s.fwd with hot := s.fwd.hot.put k (l.drop (l.length - 3) ++ [x]) } }

/-! ### Error records (R280 to R283) -/

/-- Put a record into the error FIFO. -/
def State.fwdErr (s : State) (r : FwdErrRec) : State :=
  if s.fwd.errs.length < 16 then
    ({ s with fwd := { s.fwd with errs := s.fwd.errs ++ [r] } }).fireIf s.fwd.errs.isEmpty 156
  else (s.bump Ctr.FWD_PEROVF).fire 157

/-- The octets of an error record (R283). -/
def FwdErrRec.octets (r : FwdErrRec) : List Octet :=
  leOctets 4 (r.index % 2 ^ 22) ++ leOctets 1 (r.kind % 8 + 8 * b2n r.lostStatic + 16 * b2n r.rebuilt)
  ++ leOctets 1 r.lost ++ [0, 0]

/-! ### Learning messages out (R295, R296) -/

/-- Queue a learning message (R296); a solo chip has no other member to send one to. -/
def State.lxSend (s : State) (op addr gt : Nat) : State :=
  if !s.on F.FWD_LXCFG_TXEN || s.keel || s.on F.FWD_STATUS_BOOTMODE || s.fld F.CSC_CFG_ROLE == 0 then s
  else
    let m : LxMsg := { addr := addr, gt := gt, op := op, seq := s.fwd.lxSeq % 2 ^ 32 }
    if s.fwd.lxOut.length < 1024 then
      { s with fwd := { s.fwd with lxOut := s.fwd.lxOut ++ [m], lxSeq := s.fwd.lxSeq + 1 } }
    else (s.bump Ctr.FWD_LXTXDROP).fire 159

/-- An entry is the device's own learned one, which messages name: AIR or LOCAL. -/
def FwdEntry.ours (e : FwdEntry) : Bool := e.learned && (e.etype == 2 || e.etype == 3)

/-! ### Changes to buckets (R274) -/

/-- Release the damping record of an address. -/
def State.dampFree (s : State) (addr : Nat) : State :=
  { s with fwd := { s.fwd with damp := s.fwd.damp.filter (fun (x : Damp) => x.addr != addr) } }

/-- PFXGEN counts a change of the prefix store (R269). -/
def State.pfxChange (s : State) : State := s.setFld F.FWD_PFXGEN_GEN (s.fld F.FWD_PFXGEN_GEN + 1)

/-- The first filter vector of a prefix, and how many it covers (R271). -/
def vectorsOf (key len : Nat) : Nat × Nat := (key / 2 ^ 112, if len ≤ 16 then 2 ^ (16 - len) else 1)

/-- Take the entry out of slot `i` (R269, R271, R300): its lines and its damping record go; `tell` sends a WITHDRAW where R296 asks
for one. A prefix leaves its filter bits behind. -/
def State.takeEntry (s : State) (pfx : Bool) (i : Nat) (tell : Bool) : State :=
  match (s.fwdTab pfx).find i with
  | none => s
  | some e =>
    let s1 := s.setFwdTab pfx ((s.fwdTab pfx).del i)
    if pfx then
      let st : StaleBit := { len := e.len, base := (vectorsOf e.key e.len).1, done := [] }
      { s1 with fwd := { s1.fwd with stale := s1.fwd.stale ++ [st] } }
    else
      let s2 := (s1.hotKill e.key).dampFree e.key
      if tell && e.ours then s2.lxSend 2 e.key e.updgt else s2

/-- Free the entry in slot `i`: a prefix that goes is a change to its store (R269). -/
def State.freeEntry (s : State) (pfx : Bool) (i : Nat) (tell : Bool) : State :=
  let t := s.takeEntry pfx i tell
  if pfx && ((s.fwdTab pfx).find i).isSome then t.pfxChange else t

/-- Change the entry in slot `i`. -/
def State.updEntry (s : State) (pfx : Bool) (i : Nat) (f : FwdEntry → FwdEntry) : State :=
  s.setFwdTab pfx ((s.fwdTab pfx).upd i f)

/-- Put a new entry into slot `i`. -/
def State.putEntry (s : State) (pfx : Bool) (i : Nat) (e : FwdEntry) : State :=
  let s1 := s.setFwdTab pfx ((s.fwdTab pfx).put i e)
  if pfx then s1.pfxChange else s1.hotKill e.key

/-- A static entry takes the place of the one with its key in slot `i` (R269, R290, R291): that one's lines and damping record go. -/
def State.replaceEntry (s : State) (pfx : Bool) (i : Nat) (e : FwdEntry) : State :=
  let s1 := s.putEntry pfx i e
  if pfx then s1 else s1.dampFree e.key

/-- Invalidate the ROUTE lines of a key: a HOST line follows its entry (R274). -/
def State.routeKill (s : State) (key : Nat) : State :=
  let k := s.hotSet key
  let h := s.fwd.hot.putD [] k ((s.fwd.hot.getD' k []).filter (fun (x : HotLine) => !(x.key == key && x.route)))
  { s with fwd := { s.fwd with hot := h } }

/-! ### The filter (R271, R272) -/

/-- Does the prefix cover vector `v`? -/
def covers (key len v : Nat) : Bool :=
  let r := vectorsOf key len
  Nat.ble r.1 v && Nat.blt v (r.1 + r.2)

/-- Lengths set in vector `v` by prefixes. -/
def State.liveLens (s : State) (v : Nat) : List Nat :=
  (s.fwd.pfx.filterMap (fun e => if covers e.2.key e.2.len v then some e.2.len else none)).eraseDups

/-- Lengths set in vector `v`, stale ones included. -/
def State.setLens (s : State) (v : Nat) : List Nat :=
  (s.liveLens v ++ s.fwd.stale.filterMap (fun (x : StaleBit) =>
    if covers (x.base * 2 ^ 112) x.len v && !x.done.contains v then some x.len else none)).eraseDups

/-- The scrub visits vector `v` (R271). -/
def State.scrub (s : State) (v : Nat) : State :=
  let l := s.fwd.stale.map (fun (x : StaleBit) =>
    if covers (x.base * 2 ^ 112) x.len v && !x.done.contains v then { x with done := x.done ++ [v] } else x)
  let l := l.filter (fun (x : StaleBit) => Nat.blt x.done.length (vectorsOf (x.base * 2 ^ 112) x.len).2)
  { s with fwd := { s.fwd with stale := l } }

/-- Vector `v` waits for its rebuild (R282, R415). -/
def State.vecBad (s : State) (v : Nat) : Bool := s.fwd.allBad || s.fwd.bad.contains v

/-- Read filter vector `v`: whether it can be used (R280, R282). -/
def State.readFilter (s : State) (both : Option Bool) (v : Nat) : Bool × State :=
  if s.vecBad v then (false, s)
  else match both with
    | none => (true, s)
    | some b =>
      let s1 := (s.bump Ctr.FWD_PARFLT).fwdErr { index := v, kind := 3, lostStatic := false, rebuilt := false, lost := 0 }
      if b then
        (false, (({ s1 with fwd := { s1.fwd with bad := s1.fwd.bad ++ [v] } }).setFlag F.FWD_STATUS_REBUILD true).fire 153)
      else (true, s1)

/-- The filter has room for a prefix (R272): vectors that would exceed 32 lengths are scrubbed first. The reads of its vectors may meet
errors (R280). -/
def State.filterRoom (s0 : State) (errs : List FwdErr) (key len : Nat) : Bool × State :=
  let r := vectorsOf key len
  let s := errs.foldl (fun (t : State) (e : FwdErr) => match e with
    | .filter v b => if covers key len v then (t.readFilter (some b) v).2 else t
    | _ => t) s0
  let crowded := fun (t : State) v => !(t.setLens v).contains len && Nat.ble 32 (t.setLens v).length
  let vs := ((List.range r.2).map (fun k => r.1 + k)).filter (crowded s)
  let s1 := vs.foldl (fun t v => t.scrub v) s
  (!vs.any (crowded s1), s1)

/-- Insert an entry whose key is absent: 0 done, 2 both buckets full, 3 too many lengths (R268, R272). -/
def State.insertEntry (s : State) (errs : List FwdErr) (pfx : Bool) (e : FwdEntry) : Nat × State :=
  match s.freeSlot pfx e.key e.len with
  | none => (2, s)
  | some i =>
    if pfx then
      match s.filterRoom errs e.key e.len with
      | (true, t) => if 1048576 ≤ t.fwd.pfx.length then (2, t) else (0, t.putEntry true i e)
      | (false, t) => (3, t)
    else (0, s.putEntry false i e)

/-- A static record of the image is placed (R266): counted and recorded where it cannot be; `n` is its number. -/
def State.placeStatic (s : State) (n : Nat) (e : FwdEntry) : State :=
  let p := e.len != 128
  let e1 := { e with updgt := s.gtb.gt }
  let r := match s.slotFor p e.key e.len with
    | some x => (0, s.replaceEntry p x.1 e1)
    | none => s.insertEntry [] p e1
  if r.1 = 0 then r.2
  else (r.2.bump Ctr.FWD_STATICFAIL).fwdErr { index := n, kind := 5, lostStatic := false, rebuilt := false, lost := 0 }

/-! ### Reads that meet errors (R280, R281) -/

/-- Zero a bucket that stays uncorrectable: FWD_PFXGEN counts a prefix bucket once. -/
def State.zeroBucket (s : State) (pfx : Bool) (b : Nat) : State :=
  let l := s.inBucket pfx b
  let s1 := l.foldl (fun t (x : Nat × FwdEntry) => t.takeEntry pfx x.1 true) s
  let s2 := if pfx then s1.pfxChange else s1
  (s2.bump Ctr.FWD_LOSTENT l.length).fwdErr
    { index := b, kind := if pfx then 2 else 1, lostStatic := l.any (fun (x : Nat × FwdEntry) => x.2.stat || pfx),
      rebuilt := false, lost := l.length }

/-- Read bucket `b`: whether it could be read, and the state after the error handling of R281. -/
def State.readBucket (s : State) (errs : List FwdErr) (pfx : Bool) (b : Nat) : Bool × State :=
  let hit := fun a => errs.any (fun (e : FwdErr) => e == .bucket pfx b a)
  if hit true then (false, ((s.bump Ctr.FWD_PARDRAM).fire 152).zeroBucket pfx b)
  else if hit false then (false, (s.bump Ctr.FWD_PARDRAM).fire 152)
  else (true, s)

/-- Read both buckets of a key, for a change that is applied to them as repaired. -/
def State.readBuckets (s : State) (errs : List FwdErr) (pfx : Bool) (key len : Nat) : State :=
  let b := s.buckets pfx key len
  ((s.readBucket errs pfx b.1).2.readBucket errs pfx b.2).2

/-- Search a table for a key through reads that may fail. -/
def State.findEntry (s : State) (errs : List FwdErr) (pfx : Bool) (key len : Nat) : Option (Nat × FwdEntry) × State :=
  let b := s.buckets pfx key len
  let r1 := s.readBucket errs pfx b.1
  let r2 := r1.2.readBucket errs pfx b.2
  let l := (if r1.1 then s.inBucket pfx b.1 else []) ++ (if r2.1 then s.inBucket pfx b.2 else [])
  (l.find? (fun x => x.2.key == key && x.2.len == len), r2.2)

/-- Read the hot cache set of a key: lines in error are invalidated and reported; false where there was one (R280). -/
def State.readHot (s : State) (errs : List FwdErr) (key : Nat) : Bool × State :=
  let k := s.hotSet key
  let bad := (errs.filterMap (fun (e : FwdErr) => match e with
    | .hot set line => if set = k ∧ line < 4 then some line else none
    | _ => none)).eraseDups
  if bad.isEmpty then (true, s)
  else
    let l := s.fwd.hot.getD' k []
    let l' := ((List.range l.length).filter (fun i => !bad.contains i)).filterMap (fun i => l[i]?)
    let s1 := { s with fwd := { s.fwd with hot := s.fwd.hot.putD [] k l' } }
    (false, bad.foldl (fun t _ => ((t.bump Ctr.FWD_PARCACHE).fire 151).fwdErr
      { index := k, kind := 0, lostStatic := false, rebuilt := false, lost := 0 }) s1)

/-- The error that an operation meets in filter vector `v`. -/
def filterErr (errs : List FwdErr) (v : Nat) : Option Bool :=
  errs.findSome? (fun (e : FwdErr) => match e with
    | .filter w b => if w = v then some b else none
    | _ => none)

/-! ### Damping (R299, R300) -/

/-- 10 × f_nom cycles in GT units. -/
def State.dampWindow (s : State) : Nat := 10 * (s.nomFreq / 1000) * cycleUnits

/-- Clear PIN and MOVES of the learned entry for an address. -/
def State.unpinEntry (s : State) (addr : Nat) : State :=
  match s.slotFor false addr 128 with
  | some (i, e) => if e.learned then s.updEntry false i (fun x => { x with pin := false, moves := 0 }) else s
  | none => s

/-- The scan of the damping table: pins whose end GT has reached are released. -/
def State.dampScan (s : State) : State :=
  (s.fwd.damp.filter (fun (x : Damp) => x.pin.any (fun p => decide (0 ≤ gtDiff s.gtb.gt p)))).foldl
    (fun t (x : Damp) => (t.unpinEntry x.addr).dampFree x.addr) s

/-- A move of the entry in slot `i` at arrival GT `gt` is recorded (R299). -/
def State.dampMove (s : State) (i addr gt : Nat) : State :=
  let fresh : Damp := { addr := addr, start := gt, count := 1, pin := none }
  let put := fun (t : State) (d : Damp) =>
    let t1 := { t with fwd := { t.fwd with damp := t.fwd.damp.map (fun (x : Damp) => if x.addr = addr then d else x) } }
    let t2 := t1.updEntry false i (fun x => { x with moves := min 7 d.count, pin := x.pin || d.pin.isSome })
    if d.count = 5 ∧ d.pin.isSome = true then (t2.bump Ctr.FWD_PINS).fire 158 else t2
  let ended := fun (x : Damp) => decide (gtDiff gt x.start > s.dampWindow) && x.pin.isNone
  match s.fwd.damp.find? (fun (x : Damp) => x.addr == addr) with
  | some d =>
    if gtDiff gt d.start > s.dampWindow then put s fresh
    else put s { d with count := d.count + 1,
                        pin := if d.count + 1 = 5 then some (gtAdd gt (6 * s.dampWindow)) else d.pin }
  | none =>
    if s.fwd.damp.length < 1024 then put { s with fwd := { s.fwd with damp := s.fwd.damp ++ [fresh] } } fresh
    else match s.fwd.damp.find? ended with
      | some o => put { s with fwd := { s.fwd with damp := (s.fwd.damp.filter (fun (x : Damp) => x.addr != o.addr)) ++ [fresh] } }
                    fresh
      | none => (s.bump Ctr.FWD_FLAPOVF).fire 163

/-- PIN_RELEASE_SCAN (R300): every 10 ms. -/
def execPinReleaseScan (t : Time) (s : State) : Host.Outcome State Fault Refusal := .next (s.at t).dampScan

/-! ### Learning (R275, R276, R298) -/

/-- A learning event joins the queue, or is dropped (R275, R279). -/
def State.learnIn (s : State) (e : LearnEv) : State :=
  if s.on F.FWD_STATUS_BOOTMODE || s.keel then s.bump Ctr.FWD_LEARNDROP
  else if s.fwd.learnQ.length < 4096 then
    { s.bump Ctr.FWD_LEARNEV with fwd := { s.fwd with learnQ := s.fwd.learnQ ++ [e] } }
  else (s.bump Ctr.FWD_LEARNDROP).fire 148

/-- Origin of an egress (R298). -/
def State.origin (s : State) (etype dest : Nat) : Nat := if etype = 1 then dest % 16 else s.fld F.CSC_CFG_CHIPID

/-- How R298 ranks an event against the entry for its address. -/
inductive Rank where
  | apply | refresh | stale
  deriving DecidableEq, Repr

/-- The comparison of R298. -/
def State.rank (s : State) (v : LearnEv) (e : FwdEntry) : Rank :=
  let o1 := s.origin v.etype v.dest
  let o2 := s.origin e.etype e.dest
  let c1 := v.etype * 2 ^ 18 + v.dest
  let c2 := e.etype * 2 ^ 18 + e.dest
  if 0 < gtDiff v.gt e.updgt then .apply
  else if v.gt ≠ e.updgt then .stale
  else if o1 < o2 then .apply
  else if o1 ≠ o2 then .stale
  else if c1 = c2 then .refresh
  else if c1 < c2 then .apply else .stale

/-- An entry learned from this chip's own traffic is told to the other chips (R295). -/
def State.tellNew (s : State) (v : LearnEv) : State := if v.own then s.lxSend 0 v.addr v.gt else s

/-- A learning event for an address without an entry (R276, R278). -/
def State.learnNew (s : State) (v : LearnEv) : State :=
  let e : FwdEntry :=
    { key := v.addr, len := 128, updgt := v.gt, stat := false, learned := true, hit := true, pend := false, pin := false,
      etype := v.etype, dscppri := false, pri := 0, moves := 0, dest := v.dest }
  match s.insertEntry [] false e with
  | (0, t) => (t.bump Ctr.FWD_LEARNNEW).tellNew v
  | (_, t) => (t.bump Ctr.FWD_LEARNFULL).fire 149

/-- A learning event that moves the entry `i` to another place (R274, R276, R300). -/
def State.learnMove (s : State) (i : Nat) (v : LearnEv) : State :=
  let s1 := (s.routeKill v.addr).updEntry false i (fun x => { x with etype := v.etype, dest := v.dest, hit := true, pend := false, updgt := v.gt })
  ((s1.bump Ctr.FWD_MOVES).dampMove i v.addr v.gt).tellNew v

/-- A learning event for an address whose entry `e` stands at `i` (R276, R298 to R300). -/
def State.learnAt (s : State) (i : Nat) (e : FwdEntry) (v : LearnEv) : State :=
  if e.stat then (s.bump Ctr.FWD_STATCONF).fire 150
  else
    match s.rank v e with
    | .stale => s.bump Ctr.FWD_LEARNSTALE
    | _ =>
      if e.etype == v.etype && e.dest == v.dest then
        (s.updEntry false i (fun x => { x with hit := true, pend := false, updgt := v.gt })).bump Ctr.FWD_REFRESH
      else if e.pin then s.bump Ctr.FWD_PINDROP
      else s.learnMove i v

/-- Apply a learning event (R276, R298 to R300). -/
def State.learn (s0 : State) (errs : List FwdErr) (v : LearnEv) : State :=
  let s := (s0.readHot errs v.addr).2.readBuckets errs false v.addr 128
  match s.slotFor false v.addr 128 with
  | none => s.learnNew v
  | some (i, e) => s.learnAt i e v

/-- LEARN_EVENT_APPLY (R276, R279): the oldest event leaves the queue. -/
def execLearnEventApply (t : Time) (errs : List FwdErr) (s : State) : Host.Outcome State Fault Refusal :=
  let s0 := s.at t
  .next (match s0.fwd.learnQ with
    | [] => s0
    | v :: rest =>
      let s1 := { s0 with fwd := { s0.fwd with learnQ := rest } }
      if s1.keel || s1.on F.FWD_STATUS_BOOTMODE then s1.bump Ctr.FWD_LEARNDROP else s1.learn errs v)

/-- The 32 octets of a learning message of this chip (R295). -/
def State.lxOctets (s : State) (m : LxMsg) : List Octet :=
  beOctets 16 m.addr ++ leOctets 8 m.gt ++ leOctets 1 m.op ++ leOctets 1 (s.fld F.CSC_CFG_CHIPID) ++ [0, 0] ++ leOctets 4 m.seq

/-- The octet fields of a learning message (R295): address, GT, OP, ORIGIN, SEQ. -/
def lxFields (l : List Octet) : Nat × Nat × Nat × Nat × Nat :=
  (beNat (slice l 0 16), leNat (slice l 16 8), leNat (slice l 24 1) % 4, leNat (slice l 25 1) % 16, leNat (slice l 28 4))

/-- A received learning message (R297); a WITHDRAW that frees an entry passes the bucket engine, whose reads may meet errors. -/
def State.lxIn (s0 : State) (m : LxRx) : State :=
  if !s0.on F.FWD_LXCFG_RXEN then s0
  else
    let s := s0.bump Ctr.FWD_LXRX
    let (addr, gt, op, org, seq) := lxFields m.msg
    if s.keel || s.on F.FWD_STATUS_BOOTMODE then s.bump Ctr.FWD_LEARNDROP
    else if org = s.fld F.CSC_CFG_CHIPID ∨ op = 3 then s.bump Ctr.FWD_LXBAD
    else
      let gap := (s.fwd.lxLast.find org).any (fun n => (n + 1) % 2 ^ 32 != seq)
      let s1 := { s with fwd := { s.fwd with lxLast := s.fwd.lxLast.put org seq } }
      let s2 := if gap then (s1.bump Ctr.FWD_LXGAP).fire 160 else s1
      if op ≠ 2 then s2.learnIn { addr := addr, etype := 1, dest := org, gt := gt, own := false }
      else
        let s3 := (s2.readHot m.errs addr).2.readBuckets m.errs false addr 128
        match s3.slotFor false addr 128 with
        | some (i, e) =>
          if e.learned ∧ e.etype = 1 ∧ e.dest = org ∧ gtDiff e.updgt gt ≤ 0 then
            (s3.freeEntry false i false).bump Ctr.FWD_WITHDRAW
          else s3
        | none => s3

/-- LX_MESSAGE_RECEIVE (R297). -/
def execLxMessageReceive (t : Time) (msg : LxRx) (s : State) : Host.Outcome State Fault Refusal :=
  .next (s.whenLive 1 ((s.at t).lxIn msg))

/-! ### Aging and the filter scrub (R271, R277, R282) -/

/-- The sweep treats the entry in slot `i` (R277, R296). -/
def State.sweepEntry (s : State) (x : Nat × FwdEntry) : State :=
  let e := x.2
  if !e.learned || e.stat then s
  else if e.hit then
    (if e.ours then s.lxSend 1 e.key e.updgt else s).updEntry false x.1 (fun y => { y with hit := false, pend := false })
  else if !e.pend then (s.updEntry false x.1 (fun y => { y with pend := true })).bump Ctr.FWD_AGEMARK
  else (s.freeEntry false x.1 true).bump Ctr.FWD_AGEEXP

/-- Do `f` on entries of the address table whose hot cache sets are read first: an error in a set is met once (R280). -/
def State.eachHot (f : State → Nat × FwdEntry → State) : List FwdErr → List (Nat × FwdEntry) → State → State
  | _, [], s => s
  | errs, x :: l, s =>
    let k := s.hotSet x.2.key
    State.eachHot f (errs.filter (fun (e : FwdErr) => match e with
      | .hot set _ => set != k
      | _ => true)) l (f (s.readHot errs x.2.key).2 x)

/-- The sweep runs (R277, R279). -/
def State.sweeping (s : State) : Bool := s.on F.FWD_AGE_EN && !s.on F.FWD_STATUS_BOOTMODE && !s.keel

/-- SWEEP_VISIT (R277): a bucket whose read fails is handled as R281 says and treated as empty in this visit. -/
def execSweepVisit (t : Time) (bucket : Nat) (errs : List FwdErr) (s : State) : Host.Outcome State Fault Refusal :=
  let s0 := s.at t
  .next (if !s0.sweeping then s0
    else match s0.readBucket errs false bucket with
      | (true, u) => State.eachHot State.sweepEntry errs (u.inBucket false bucket) u
      | (false, u) => u)

/-- FILTER_SCRUB_VISIT (R271): the visit of vector `v`; `both` is an error its read meets. -/
def execFilterScrubVisit (v : Nat) (both : Option Bool) (s : State) : Host.Outcome State Fault Refusal :=
  .next (match s.readFilter both v with
    | (true, t) => t.scrub v
    | (false, t) => t)

/-- FILTER_REBUILD_COMPLETE (R282): every bad vector is rebuilt from the store, without stale bits. The one record's INDEX names the vector
found bad first, 0 after a failure of retention bank 4 (DESIGN CHOICE: the spec names none of several; log entry 155). -/
def execFilterRebuildComplete (s : State) : Host.Outcome State Fault Refusal :=
  .next (if s.fwd.allBad || !s.fwd.bad.isEmpty then
      (({ s with fwd := { s.fwd with bad := [], allBad := false, stale := [] } }).setFlag F.FWD_STATUS_REBUILD false).fwdErr
        { index := if s.fwd.allBad then 0 else s.fwd.bad.headD 0, kind := 3, lostStatic := false, rebuilt := true, lost := 0 }
    else s)

/-! ### Policers (R285) -/

/-- The most tokens policer `k` holds. -/
def State.polFull (s : State) (k : Nat) : Nat := s.fld (F.FWD_POLk_B_BURST k) * 1000

/-- The tokens of policer `k`: full unless listed; never more than the burst. -/
def State.polTokens (s : State) (k : Nat) : Nat := min (s.fwd.tokens.getD' k (s.polFull k)) (s.polFull k)

/-- POLICER_REFILL (R285): RATE tokens for each enabled policer, up to the burst. -/
def execPolicerRefill (s : State) : Host.Outcome State Fault Refusal :=
  .next ((List.range 8).foldl (fun t k =>
    let n := t.polTokens k + t.fld (F.FWD_POLk_A_RATE k)
    if !t.on (F.FWD_POLk_B_EN k) then t
    else { t with fwd := { t.fwd with tokens := if t.polFull k ≤ n then t.fwd.tokens.del k else t.fwd.tokens.put k n } }) s)

/-- Charge policer `k` for packet `start`: passed, or ended POLICE. -/
def State.police (s : State) (k start : Nat) : Bool × State :=
  if !s.on (F.FWD_POLk_B_EN k) then (true, s)
  else
    let n := s.polTokens k
    if 1000 ≤ n then (true, { s with fwd := { s.fwd with tokens := s.fwd.tokens.put k (n - 1000) } })
    else
      let s1 := (s.endPkt start (.drop 8)).bump (Ctr.FWD_POLDROP0 + 8 * k)
      let first := !s1.fwd.policed.contains k
      (false, ({ s1 with fwd := { s1.fwd with policed := if first then s1.fwd.policed ++ [k] else s1.fwd.policed } }).fireIf
        first 155)

/-! ### Lookup (R270 to R273, R278, R279, R284) -/

/-- An AIR result whose node has no neighbour record here (R273). -/
def State.staleAir (s : State) (e : FwdEntry) : Bool := e.etype == 2 && (s.nodeRec e.dest).isNone

/-- The best bootstrap entries for `d`, best first: greatest LEN, then lowest index; bad ones do not match. -/
def State.bootMatches (s : State) (d : Nat) : List FwdEntry :=
  let l := (s.fwd.boot.filter (fun x => !s.fwd.badBoot.contains x.1 && maskKey d x.2.len == x.2.key)).map (fun x => x.2)
  (List.range 129).reverse.flatMap (fun n => l.filter (fun (e : FwdEntry) => e.len == n))

/-- Bootstrap entries whose read fails (R280). -/
def State.bootErrs (s : State) (errs : List FwdErr) : State :=
  errs.foldl (fun (t : State) (x : FwdErr) => match x with
    | .boot i =>
      if Nat.blt i 16384 && !t.fwd.badBoot.contains i then
        ((({ t with fwd := { t.fwd with badBoot := t.fwd.badBoot ++ [i] } }).bump Ctr.FWD_PARBOOT).fire 154).fwdErr
          { index := i, kind := 4, lostStatic := false, rebuilt := false, lost := 0 }
      else t
    | _ => t) s

/-- The probes of a batch, all issued together (R272): the first hit of lengths in descending order. -/
def State.probe (s : State) (errs : List FwdErr) (d : Nat) : List Nat → Option FwdEntry × State
  | [] => (none, s)
  | l :: ls =>
    let x := s.findEntry errs true (maskKey d l) l
    let y := x.2.probe errs d ls
    (match x.1 with
      | some e => some e.2
      | none => y.1, y.2)

/-- The longest prefix that matches (R272): the first batch of up to 8 lengths that holds any hit decides; fuel is the number of
lengths. -/
def State.longest (s : State) (errs : List FwdErr) (d : Nat) (ls : List Nat) : Nat → Option FwdEntry × State
  | 0 => (none, s)
  | f + 1 =>
    if ls.isEmpty then (none, s)
    else
      let r := s.probe errs d (ls.take 8)
      if r.1.isSome then r else r.2.longest errs d (ls.drop 8) f

/-- The lengths that step 5 of R270 probes for `d`, longest first. -/
def State.probeLens (s : State) (d : Nat) : List Nat :=
  (List.range 129).reverse.filter (fun l => (s.setLens (d / 2 ^ 112)).contains l)

/-- Step 5 of R270: the prefix store. -/
def State.pfxMatch (s : State) (errs : List FwdErr) (d : Nat) : Option FwdEntry × State :=
  let v := d / 2 ^ 112
  match s.readFilter (filterErr errs v) v with
  | (false, t) => (none, t)
  | (true, t) => t.longest errs d (t.probeLens d) 17

/-- What the cache holds for a key: its HOST line's entry first (slot given), else a current ROUTE line. -/
def State.hotFind (s : State) (d : Nat) : Option (Option Nat × FwdEntry) :=
  let l := (s.fwd.hot.getD' (s.hotSet d) []).filter (fun (x : HotLine) => x.key == d && s.lineValid x)
  if l.any (fun (x : HotLine) => !x.route) then (s.slotFor false d 128).map (fun x => (some x.1, x.2))
  else (l.find? (fun (x : HotLine) => x.route)).map (fun x => (none, x.res))

/-- A hit on the address table entry in slot `i` (R277, R278). -/
def State.touch (s : State) (i : Nat) (e : FwdEntry) : State :=
  (s.updEntry false i (fun x => { x with hit := true, pend := false })).bump Ctr.FWD_AGECANCEL (b2n e.pend)

/-- Step 5 for a lookup that fills the cache; a stale AIR result of a prefix gives no result. -/
def State.routeLookup (s : State) (errs : List FwdErr) (d : Nat) : Option FwdEntry × State :=
  match s.pfxMatch errs d with
  | (some e, t) =>
    if t.staleAir e then (none, t.bump Ctr.FWD_STALEAIR)
    else
      (some e, (t.hotFill { key := d, route := true, gen := s.fld F.FWD_PFXGEN_GEN, res := e }).bump Ctr.FWD_PFXHIT)
  | (none, t) => (none, t)

/-- Steps 2 to 5 of R270 for a packet: the entry that decides, and the state after. -/
def State.lookup (s : State) (errs : List FwdErr) (d : Nat) : Option FwdEntry × State :=
  if s.on F.FWD_STATUS_BOOTMODE then
    let s1 := s.bootErrs errs
    let l := s1.bootMatches d
    let bad := (l.takeWhile (fun e => s1.staleAir e)).length
    match l.drop bad with
    | e :: _ => (some e, (s1.bump Ctr.FWD_STALEAIR bad).bump Ctr.FWD_BOOTHIT)
    | [] => (none, s1.bump Ctr.FWD_STALEAIR bad)
  else
    let h := s.readHot errs d
    match (if h.1 then h.2.hotFind d else none) with
    | some (i, e) =>
      let s1 := match i with
        | some k => h.2.touch k e
        | none => h.2
      if s1.staleAir e then (s1.bump Ctr.FWD_STALEAIR).routeLookup errs d
      else (some e, (s1.hotFill { key := d, route := i.isNone, gen := s1.fld F.FWD_PFXGEN_GEN, res := e }).bump Ctr.FWD_HOTHIT)
    | none =>
      match h.2.findEntry errs false d 128 with
      | (some (i, e), t) =>
        let s1 := t.touch i e
        if s1.staleAir e then (s1.bump Ctr.FWD_STALEAIR).routeLookup errs d
        else (some e, (s1.hotFill { key := d, route := false, gen := 0, res := e }).bump Ctr.FWD_HOSTHIT)
      | (none, t) => t.routeLookup errs d

/-- The policer of a packet from source `k` (R285). `et` is the ETYPE of its result; multicast and no result apart. -/
def policerOf (k : Nat) (mc : Bool) (et : Option Nat) : Option Nat :=
  if k = 3 ∨ k = 4 then
    if mc then some 4 else match et with
      | none => some 3
      | some 2 => some 0
      | some 3 => some 1
      | _ => some 2
  else if k = 5 then (if mc || et == some 2 || et == some 3 then some 5 else none)
  else if k < 3 then some 6 else some 7

/-- Put a resolved packet onto its egress queue (R273); an AIR result passes PRC's compression first (R360). -/
def State.egress (s : State) (start : Nat) (e : FwdEntry) (dscp : Nat) : State :=
  let p := if e.dscppri then dscp / 8 % 8 else e.pri
  if e.etype = 0 then
    (s.updPkt start (fun x => { x with info := { x.info with hop := e.dest / 2 % 1024 } })).pushPkt
      (65536 + 8 * (e.dest % 2) + p) (.hw 11 0) start
  else if e.etype = 1 then
    ((s.updPkt start (fun x => { x with info := { x.info with chip := e.dest % 16, cls := p } })).pushPkt
      (cscQueue (s.fld (F.CSC_RTa_PRI (e.dest % 16))) p) (.hw 11 0) start).cscPump
  else if e.etype = 2 then
    (s.updPkt start (fun x => { x with info := { x.info with node := some e.dest } })).toPrc 1 11 start
  else s.pushPkt (65584 + e.dest % 16) (.hw 11 0) start

/-- The result sends the packet nowhere (R273): BACKHAUL for a packet from the backhaul, PEER without a route. -/
def State.noRoute (s : State) (src : Nat) (e : FwdEntry) : Bool :=
  (e.etype == 0 && (src == 3 || src == 4))
  || (e.etype == 1 && (e.dest % 16 == s.fld F.CSC_CFG_CHIPID || !s.on (F.CSC_RTa_PRIV (e.dest % 16))))

/-- The policer of a packet's source takes its policeSrc where it has one (R284): whether the packet may go on. -/
def State.policeSrc (s : State) (start : Nat) (p : Pkt) (mc : Bool) (et : Option Nat) : Bool × State :=
  match policerOf p.src mc et with
  | some k => s.police k start
  | none => (true, s)

/-- Resolve, police and enqueue packet `start` (R270, R273, R284, R285). -/
def State.forward (s0 : State) (errs : List FwdErr) (start : Nat) (p : Pkt) (dst dscp : Nat) : State :=
  let s := s0.bump Ctr.FWD_LOOKUP
  if dst / 2 ^ 120 = 255 then
    match (s.bump Ctr.FWD_MCAST).policeSrc start p true none with
    | (true, t) => t.pushPkt (65584 + s.fld F.FWD_CFG_MCQ) (.hw 11 0) start
    | (false, t) => t
  else
    match s.lookup errs dst with
    | (some e, t) =>
      if t.noRoute p.src e then t.endPkt start (.drop 1)
      else match t.policeSrc start p false (some e.etype) with
        | (true, u) => u.egress start e dscp
        | (false, u) => u
    | (none, t) =>
      match (t.bump Ctr.FWD_MISS).policeSrc start p false none with
      | (false, u) => u
      | (true, u) =>
        if u.on F.FWD_CFG_MISSACT then u.pushPkt (65584 + u.fld F.FWD_CFG_MISSQ) (.hw 11 0) start
        else u.endPkt start (.drop 1)

/-- The learning event of a packet, where R275 asks for one. -/
def State.learnFrom (s : State) (p : Pkt) (src : Nat) : State :=
  if p.src ≠ 0 then s
  else match p.info.hint with
    | none => s
    | some h =>
      if !s.on F.FWD_CFG_LEARN then s
      else match h, p.info.node with
        | .direct, some n => s.learnIn { addr := src, etype := 2, dest := n, gt := p.info.gt, own := true }
        | .direct, none => s
        | .relayed q, _ => s.learnIn { addr := src, etype := 3, dest := q % 16, gt := p.info.gt, own := true }

/-- FWD_LOOKUP (R270 to R275): a packet that waits for its lookup, with the addresses and DSCP of its IPv6 header. -/
def execFwdLookup (t : Time) (pkt dst src dscp : Nat) (errs : List FwdErr) (s : State) :
    Host.Outcome State Fault Refusal :=
  let s0 := s.at t
  .next (match s0.qmg.pkts.find pkt, s0.qmg.intake.contains pkt with
    | some p, true =>
      let s1 := { s0 with qmg := { s0.qmg with intake := s0.qmg.intake.filter (fun c => c != pkt) } }
      (s1.forward errs pkt p dst dscp).learnFrom p src
    | _, _ => s0)

/-- FWD_PERPOP (R283): the oldest error record goes. -/
def execFwdPerpop (rq : Req) (s : State) : Host.Outcome State Fault Refusal :=
  .next (s.gated rq Reg.FWD_PERPOP 1 (fun t => { t with fwd := { t.fwd with errs := t.fwd.errs.drop 1 } }))

end Sys2Proof.Machine
end

