-- ==== Sys2Proof/Machine/SlvModel.lean ====
section
/-! DEFINITION. The constraint model of SLV (R227 to R231): what a placement has to satisfy, and which of two schedules is better. -/

namespace Sys2Proof.Machine

/-! ### Exact fractions (R229, R231) -/

/-- A fraction in lowest terms; its denominator is positive. -/
abbrev Frac := Int × Nat

/-- The fraction n / d; a denominator of 0 counts as 1. -/
def frac (n : Int) (d : Nat) : Frac :=
  let g := max 1 (Nat.gcd n.natAbs d)
  (n / (g : Int), max 1 (d / g))

/-- Sum. -/
def fracAdd (a b : Frac) : Frac := frac (a.1 * b.2 + b.1 * a.2) (a.2 * b.2)

/-- Difference. -/
def fracSub (a b : Frac) : Frac := frac (a.1 * b.2 - b.1 * a.2) (a.2 * b.2)

/-- Product. -/
def fracMul (a b : Frac) : Frac := frac (a.1 * b.1) (a.2 * b.2)

/-- a ≤ b. -/
def fracLe (a b : Frac) : Bool := decide (a.1 * b.2 ≤ b.1 * a.2)

/-- Sum of a list. -/
def fracSum (l : List Frac) : Frac := l.foldl fracAdd (0, 1)

/-! ### The inputs of a solve (R227, R233) -/

/-- The demand record of a node. -/
def State.demand (s : State) (node : Nat) : Option DemRec := s.slv.dem.find node

/-- What a solve that starts now works from. -/
def State.inputs (s : State) : SlvInputs :=
  { dem := s.slv.dem, links := s.slv.links, regs := s.regs, active := s.active, nbrs := s.msq.nbrs }

/-- The state as a solve with inputs `i` sees it. -/
def State.withInputs (s : State) (i : SlvInputs) : State :=
  { s with regs := i.regs, active := i.active, slv := { s.slv with dem := i.dem, links := i.links },
           msq := { s.msq with nbrs := i.nbrs } }

/-! ### Links as planned (R230) -/

/-- The least depth code whose block of codewords at parity level 1 holds a frame (R131, R230): D = 1 up to 251 octets. -/
def leastDepth (oct : Nat) : Nat := ((List.range 5).find? (fun d => Nat.ble oct (251 * depthOf d))).getD 4

/-- The plan of a node's record: what it holds, unless a staged patch brings it SWITCH, PARITY and DEPTH (R223). -/
def State.recPlan (s : State) (record : Nat) : LinkPlan :=
  let n := s.nbr record
  let next := (s.msq.patches.flatMap (fun p => p.links)).reverse.find? (fun x => x.1 == record)
  let now := (n.map (fun x => (x.sw, x.par, x.dep))).getD (0, 1, 0)
  let l := (next.map (fun x => x.2)).getD now
  { sw := l.1, par := l.2.1, dep := l.2.2, guard := (n.map (fun x => x.guard)).getD 0, supto := (n.map (fun x => x.supto)).getD 0,
    dem := n.bind (fun x => s.demand x.node) }

/-- The plan of a placement on this chip. -/
def State.planOf (s : State) (p : Placement) : LinkPlan :=
  { s.recPlan p.record with sw := p.sw, par := p.par, dep := p.dep, dem := s.demand p.node }

/-- The node of a record. -/
def State.recNode (s : State) (record : Nat) : Option Nat := (s.nbr record).map (fun n => n.node)

/-- A cell of this chip with a plan; a shared or beacon cell serves no one link. -/
def State.ownCell (s : State) (c : Cell) (plan : LinkPlan) (node : Option Nat) : PlanCell :=
  if c.dir = 2 ∨ c.beacon = true then { cell := c, chip := s.ownEp } else { cell := c, plan := plan, chip := s.ownEp, node := node }

/-- The cells of a placement on this chip. -/
def State.cellsOf (s : State) (p : Placement) : List PlanCell := p.cells.map (fun c => s.ownCell c (s.planOf p) (some p.node))

/-- The cells that this chip holds once every staged patch is active, and those of changes that wait (R238). -/
def State.ownPlanned (s : State) : List PlanCell :=
  (s.msq.fixed ++ s.cellsAhead).map (fun c => s.ownCell c (s.recPlan c.record) (s.recNode c.record))
  ++ (s.slv.waiting ++ s.slv.border).flatMap (fun p => s.cellsOf p)

/-- Every cell that a placement has to stand beside: this chip's, and on an anchor or its standby those of the other chips (R241). -/
def State.planned (s : State) : List PlanCell := s.ownPlanned ++ s.slv.master.flatMap (fun e => e.2)

/-! ### Intervals (R228) -/

/-- An interval of a cell, in µs from its slot boundary: does its PJ-8100 transmit in it? -/
structure Span where
  tx : Bool
  lo : Int
  hi : Int
  deriving DecidableEq, Repr

/-- Channel class and chip rate of a cell's template. -/
def State.cellRate (s : State) (c : Cell) : Nat := chipRate (s.tplClass c.tpl)

/-- The L_H code of a cell's template for normal service. -/
def State.cellLh (s : State) (c : Cell) : Nat := s.actFld (F.MSQ_TPLt_B_LH c.tpl)

/-- Who sends and who receives a cell's frame; in a shared cell no one node. -/
def PlanCell.ends (x : PlanCell) : Nat × Nat :=
  let n := x.node.getD x.chip
  if x.cell.dir = 0 then (n, x.chip) else (x.chip, n)

/-- The link record from `tx` to `rx` in class `c` that solves use: one that is VALID (R225). -/
def State.goodLink (s : State) (tx rx c : Nat) : Option LinkRec :=
  match s.slv.links.find (linkKey tx rx c) with
  | some r => if r.valid then some r else none
  | none => none

/-- SNR at a receiver of a transmitter in 0.25 dB at L_H code `lh`, if a VALID record says so. -/
def State.snrAt (s : State) (tx rx c lh : Nat) : Option Int :=
  (s.goodLink tx rx c).map (fun r => r.snr + 12 * ((lh : Int) - r.lhobs))

/-- R230: SWITCH for the smallest L_P ≥ 16 whose margin a link meets, at the code `lh` of L_H; none where no L_P meets it. -/
def State.switchFor (s : State) (tx rx c lh : Nat) : Option Nat :=
  match s.goodLink tx rx c with
  | none => none
  | some r =>
    let snr := r.snr + 12 * ((lh : Int) - r.lhobs)
    ((List.range (min lh 3 + 1)).filter (fun (k : Nat) => decide (snr - 2 * r.snrsd - 12 * (k : Int) ≥
      (s.actFld F.SLV_POL0_SNRREQ + s.actFld F.SLV_POL0_SNRMARG : Nat)))).getLast?

/-- SWITCH of a cell's frame: the uplink's planned one, or what the record has for frames to the node. -/
def State.cellSwitch (s : State) (x : PlanCell) : Nat :=
  if x.cell.dir = 0 then (s.switchFor x.ends.1 x.ends.2 (s.tplClass x.cell.tpl) (s.cellLh x.cell)).getD 0 else x.plan.sw

/-- The header of a frame of `oct` octets in a cell (R230): parity level 1 and the least depth on the uplink. -/
def State.cellHdr (s : State) (x : PlanCell) (oct : Nat) : Hdr :=
  if x.cell.dir = 0 then { len := oct, par := 1, dep := fitDepth oct (leastDepth oct), sw := s.cellSwitch x }
  else { len := oct, par := x.plan.par, dep := fitDepth oct x.plan.dep, sw := s.cellSwitch x }

/-- Air time in µs, rounded up, of a frame of `oct` octets in a cell. -/
def State.frameUs (s : State) (x : PlanCell) (oct : Nat) : Nat :=
  (frameNs (s.cellLh x.cell) (s.cellHdr x oct) (s.cellRate x.cell) + 999) / 1000

/-- D in µs of a cell's frame (R228); MAXDUR where no demand record says how long its frames are. -/
def State.cellDur (s : State) (x : PlanCell) : Nat :=
  match (if x.node.isSome then x.plan.dem else none) with
  | some d => s.frameUs x (if x.cell.dir = 0 then d.upoct else d.dnoct)
  | none => s.actFld (F.MSQ_TPLt_A_MAXDUR x.cell.tpl) * 16

/-- A cell of class C (R177). -/
def State.cellC (s : State) (x : PlanCell) : Bool := s.actFld (F.MSQ_TPLt_A_CLS x.cell.tpl) == 1

/-- ACKDUR in µs at the link's planned L_P (R228). -/
def State.cellAck (s : State) (x : PlanCell) : Nat :=
  (frameNs (s.cellLh x.cell) (ackHdr (if s.cellC x then 2 else 21) (s.cellSwitch x)) (s.cellRate x.cell) + 999) / 1000

/-- GAP in µs at the link's planned L_P (R228). -/
def State.cellGap (s : State) (x : PlanCell) : Nat :=
  if s.cellC x then 12 * 2 ^ (s.cellLh x.cell + 4 - s.cellSwitch x) * 1000 / s.cellRate x.cell else 1000

/-- The intervals of a cell (R228). A beacon is sent only; a shared cell may serve both ways. -/
def State.cellSpans (s : State) (x : PlanCell) : List Span :=
  let ofs : Int := s.actFld (F.MSQ_TPLt_A_TXOFS x.cell.tpl)
  let g : Int := 8 * x.plan.guard
  let d : Int := s.cellDur x
  if x.cell.beacon then [{ tx := true, lo := ofs, hi := ofs + d }]
  else if x.cell.dir = 2 then [{ tx := true, lo := ofs, hi := ofs + d }, { tx := false, lo := ofs, hi := ofs + d }]
  else
    let up := x.cell.dir == 0
    let gap : Int := s.cellGap x
    let ack : Int := s.cellAck x
    [{ tx := !up, lo := ofs - g, hi := ofs + d + g },
     { tx := up, lo := ofs + d + gap - g, hi := ofs + d + gap + ack + g }]

/-- Slots per second at the nominal frequency. -/
def State.slotRate (s : State) : Nat := s.nomFreq / 1000 * s.spc

/-- Length of a slot in µs at the nominal frequency. -/
def State.slotUs (s : State) : Int := 1000000 / (s.slotRate : Int)

/-- The distances in slots, below 4 either way, at which occurrences of two cells can start (R180): their positions agree
modulo the gcd of the slotframes. -/
def State.meets (s : State) (a b : Cell) : List Int :=
  let g := Nat.gcd (s.sfLen a.sf) (s.sfLen b.sf)
  if g = 0 then []
  else ([-3, -2, -1, 0, 1, 2, 3] : List Int).filter (fun d => decide (((a.slot : Int) + d - b.slot) % (g : Int) = 0))

/-- Two intervals overlap, the second `d` slots later. -/
def State.spansMeet (s : State) (x y : Span) (d : Int) : Bool :=
  let o := d * s.slotUs
  decide (x.lo < y.hi + o) && decide (y.lo + o < x.hi)

/-- The slots after which the pattern of some cells repeats. -/
def State.hyper (s : State) (l : List PlanCell) : Nat := l.foldl (fun n x => Nat.lcm n (max 1 (s.sfLen x.cell.sf))) 1

/-- The positions at which a cell occurs in `n` slots. -/
def State.occurs (s : State) (c : Cell) (n : Nat) : List Nat :=
  let f := s.sfLen c.sf
  if f = 0 then [] else (List.range (n / f)).map (fun k => c.slot + k * f)

/-! ### The constraints (R228) -/

/-- The endpoints linked to `e` by VALID records. -/
def State.linked (s : State) (e : Nat) : List Nat :=
  s.slv.links.filterMap (fun x => if x.2.valid = false then none
    else if x.2.txep = e then some x.2.rxep else if x.2.rxep = e then some x.2.txep else none)

/-- Two endpoints lie within two hops in the link graph (R228). -/
def State.twoHops (s : State) (a b : Nat) : Bool :=
  (s.linked a).contains b || (s.linked a).any (fun m => (s.linked m).contains b)

/-- A transmission in a cell and who is to hear it: who sends, who receives, its interval, and whether it is an ACK. -/
structure Flow where
  tx : Nat
  rx : Nat
  span : Span
  ack : Bool
  deriving DecidableEq, Repr

/-- The transmissions of a cell: a frame and its ACK; a beacon to each node linked to its PJ-8100, a shared cell to and from each. -/
def State.flows (s : State) (x : PlanCell) : List Flow :=
  match s.cellSpans x with
  | [] => []
  | f :: rest =>
    let near := (s.linked x.chip).filter (fun e => !bit e 23)
    if x.cell.beacon then near.map (fun n => { tx := x.chip, rx := n, span := f, ack := false })
    else if x.cell.dir = 2 then near.flatMap (fun n =>
      [{ tx := x.chip, rx := n, span := f, ack := false }, { tx := n, rx := x.chip, span := f, ack := false }])
    else { tx := x.ends.1, rx := x.ends.2, span := f, ack := false } ::
      rest.map (fun y => { tx := x.ends.2, rx := x.ends.1, span := y, ack := true })

/-- The wanted level at the receiver of a flow in 0.25 dB: its link's record, else that of the way back (log entry 154). -/
def State.wanted (s : State) (f : Flow) (cls lh : Nat) : Int :=
  ((s.snrAt f.tx f.rx cls lh).orElse (fun _ => s.snrAt f.rx f.tx cls lh)).getD 0

/-- The receiver of `f` hears the transmitter of `g` weak enough, or is a PJ-8100 that hears it strong enough for SIC to take it away
(R228). The second answer says that this depends on SIC. ACKs count where they overlap the other interval (log entry 154). -/
def State.flowOk (s : State) (cls lh : Nat) (f g : Flow) : Bool × Bool :=
  if g.tx = f.rx ∨ ((f.ack || g.ack) && !s.spansMeet f.span g.span 0) = true then (true, false)
  else
    let wanted := s.wanted f cls lh
    let foreign := match s.snrAt g.tx f.rx cls lh with
      | some z => some z
      | none => if s.twoHops g.tx f.rx then some wanted else none
    match foreign with
    | none => (true, false)
    | some z =>
      if z + s.actFld F.SLV_POL1_REUSEDB ≤ wanted then (true, false)
      else if bit f.rx 23 = true ∧ wanted + s.actFld F.SLV_POL1_SICDB ≤ z ∧ s.domReady 14 = true then (true, true)
      else (false, false)

/-- Every receiver of cell `a` bears every transmitter of cell `b` (R228). The second answer says that the pair depends on SIC. -/
def State.reuseOk (s : State) (a b : PlanCell) : Bool × Bool :=
  let rs := (s.flows a).flatMap (fun f => (s.flows b).map (fun g => s.flowOk (s.tplClass a.cell.tpl) (s.cellLh a.cell) f g))
  (rs.all (fun r => r.1), rs.any (fun r => r.2))

/-- Two cells use one channel in a slot (R228): same class, same CHOFS modulo HOPLEN. -/
def State.sameChannel (s : State) (a b : Cell) : Bool :=
  let n := s.hopLen (s.tplClass a.tpl)
  s.tplClass a.tpl == s.tplClass b.tpl && (n != 0 && a.chofs % n == b.chofs % n)

/-- A pair that depends on SIC (R228). -/
def State.sicPair (s : State) (a b : PlanCell) : Bool :=
  s.sameChannel a.cell b.cell && ((s.reuseOk a b).2 || (s.reuseOk b a).2)

/-- Two cells of a schedule are compatible (R228: half duplex of nodes, own blanking, channel reuse). -/
def State.pairOk (s : State) (a b : PlanCell) : Bool :=
  (s.meets a.cell b.cell).all (fun d =>
    (s.cellSpans a).all (fun x => (s.cellSpans b).all (fun y =>
      !s.spansMeet x y d || ((x.tx == y.tx || a.chip != b.chip) && (a.node.isNone || a.node != b.node)))) &&
    (d != 0 || !s.sameChannel a.cell b.cell || ((s.reuseOk a b).1 && (s.reuseOk b a).1)))

/-- The number of pairs of a list for which `r` holds. -/
def pairCount (r : PlanCell → PlanCell → Bool) : List PlanCell → Nat
  | [] => 0
  | x :: l => (l.filter (fun y => r x y)).length + pairCount r l

/-- In every slot of cell `a`, the receive cells of its PJ-8100 number at most MAXRXSLOT, and the pairs that depend on SIC at most
SICMAX (R228). -/
def State.slotOk (s : State) (a : PlanCell) (l : List PlanCell) : Bool :=
  let near := l.filter (fun b => b.chip == a.chip && (s.meets a.cell b.cell).contains 0)
  (s.occurs a.cell (s.hyper near)).all (fun e =>
    let here := near.filter (fun b => s.cellAt b.cell e)
    Nat.ble (here.filter (fun b => b.cell.dir == 0)).length (s.actFld F.SLV_POL2_MAXRXSLOT) &&
      Nat.ble (pairCount s.sicPair here) (s.actFld F.SLV_POL1_SICMAX))

/-- The port that carries a class: the lowest that has it (R104). -/
def State.classPort (s : State) (c : Nat) : Option Nat := (List.range 4).find? (fun p => s.portHasClass p c)

/-- The transmission intervals about slot `e` (the `n`-th of a pattern of `n`), in µs from its boundary, of the cells of a port. -/
def State.txAround (s : State) (p : Option Nat) (l : List PlanCell) (n e : Nat) : List Span :=
  l.flatMap (fun b => ([-3, -2, -1, 0, 1, 2, 3] : List Int).flatMap (fun d =>
    if s.classPort (s.tplClass b.cell.tpl) = p ∧ s.cellAt b.cell (((e + n : Nat) : Int) + d).toNat = true then
      ((s.cellSpans b).filter (fun y => y.tx)).map (fun y => { y with lo := y.lo + d * s.slotUs, hi := y.hi + d * s.slotUs })
    else []))

/-- At no instant of cell `a`'s transmissions do more transmission intervals of its port overlap than MAXTX (R228). -/
def State.streamsOk (s : State) (a : PlanCell) (l : List PlanCell) : Bool :=
  match s.classPort (s.tplClass a.cell.tpl) with
  | none => true
  | some p =>
    let near := l.filter (fun b => b.chip == a.chip && !(s.meets a.cell b.cell).isEmpty)
    let n := 4 * s.hyper near
    (s.occurs a.cell n).all (fun e =>
      let ys := s.txAround (some p) near n e
      ys.all (fun z => Nat.ble (ys.filter (fun y => decide (y.lo ≤ z.lo) && decide (z.lo < y.hi))).length (s.fld (F.RFPn_TX_MAXTX p)) ||
        !((s.cellSpans a).any (fun x => x.tx && (decide (x.lo ≤ z.lo) && decide (z.lo < x.hi))))))

/-- A cell fits its template (R228). -/
def State.templateOk (s : State) (x : PlanCell) : Bool :=
  let k := s.tplClass x.cell.tpl
  s.tplOn x.cell.tpl && (Nat.ble (s.cellDur x) (s.actFld (F.MSQ_TPLt_A_MAXDUR x.cell.tpl) * 16) &&
    (s.hopLen k != 0 && !(s.usable k (fun j => s.act (Reg.MSQ_CHMcj k j))).isEmpty))

/-- The link record of a cell is VALID with PDR ≥ PDRMIN (R228). -/
def State.linkOk (s : State) (x : PlanCell) : Bool :=
  match s.goodLink x.ends.1 x.ends.2 (s.tplClass x.cell.tpl) with
  | some r => Nat.ble (s.actFld F.SLV_POL0_PDRMIN * 256) r.pdr
  | none => false

/-- From each occurrence of a cell of `l`, the next of any is at most `bound` / 4 seconds away. -/
def State.gapsOk (s : State) (l : List Cell) (bound : Nat) : Bool :=
  let n := l.foldl (fun m c => Nat.lcm m (max 1 (s.sfLen c.sf))) 1
  let gap := fun e (b : Cell) => (b.slot + s.sfLen b.sf - (e + 1) % s.sfLen b.sf) % s.sfLen b.sf + 1
  !l.isEmpty && l.all (fun c => (s.occurs c n).all (fun e =>
    l.any (fun b => s.sfLen b.sf != 0 && Nat.ble (4 * gap e b) (bound * s.slotRate))))

/-- The supervision constraint of a node (R228): its consecutive EXP cells lie at most min(UPLAT, SUPTO / 4) apart. -/
def State.supervised (s : State) (plan : LinkPlan) (cells : List Cell) : Bool :=
  let up := (plan.dem.map (fun d => d.uplat)).getD 0
  s.gapsOk (cells.filter (fun c => c.exp && c.dir == 0)) (if up = 0 then plan.supto else min (4 * up) plan.supto)

/-! ### Budgets (R228, R229) -/

/-- Occurrences of a cell per second. -/
def State.perSec (s : State) (c : Cell) : Frac := if s.sfLen c.sf = 0 then (0, 1) else frac s.slotRate (s.sfLen c.sf)

/-- The centres in kHz of each usable position of a class, on the ports that carry it. -/
def State.positions (s : State) (c : Nat) : List (List Nat) :=
  (s.usable c (fun j => s.act (Reg.MSQ_CHMcj c j))).map (fun i => ((List.range 4).filterMap (fun p =>
    let b := s.fld (F.RFPn_LINK_BAND p)
    if s.portHasClass p c && Nat.blt (s.hopSeq c i) (chanCount b c) then some (chanKhz b c (s.hopSeq c i)) else none)).eraseDups)

/-- The share of a class's air time that an account of budget `k` bears (R229): of its usable positions, those whose channel overlaps
the budget, and in MODE 2 is the account's own. -/
def State.share (s : State) (c k : Nat) (own : Option Nat) : Frac :=
  let ps := s.positions c
  frac (ps.filter (fun fs => fs.any (fun f => s.inBudget k f (spacing c) && own.all (fun g => g == f)))).length ps.length

/-- The air time of a cell, in ns per second: of its frame and of its ACK, on its class (R229). -/
def State.airOf (s : State) (x : PlanCell) : Frac × Frac :=
  let per := fun (us : Nat) => fracMul (frac (1000 * us) 1) (s.perSec x.cell)
  (per (s.cellDur x), if x.cell.dir = 2 ∨ x.cell.beacon = true then (0, 1) else per (s.cellAck x))

/-- Frames and ACKs of one transmitter stay within BUDPCT percent of what R210 allows, in every budget window. `items` are class, air
time per second, and whether it is an ACK's. -/
def State.airOk (s : State) (items : List (Nat × Frac × Bool)) : Bool :=
  (List.range 16).all (fun k =>
    let m := s.budMode k
    let classes := (items.map (fun x => x.1)).eraseDups
    let own : List (Option Nat) := if m = 2 then
        ((classes.flatMap (fun c => (s.positions c).flatMap (fun fs => fs.filter (fun f => s.inBudget k f (spacing c)))))).eraseDups.map some
      else if m = 1 then [none] else []
    own.all (fun f =>
      let load := fun (l : List (Nat × Frac × Bool)) => fracMul (frac (100 * s.fld (F.BGT_SBkPOL_WIN k)) 1)
        (fracSum (l.map (fun x => fracMul x.2.1 (s.share x.1 k f))))
      let most := fun (us : Nat) => frac (s.actFld F.SLV_POL1_BUDPCT * us * 1000) 1
      let allow := s.fld (F.BGT_SBkALLOW_ALLOW k)
      fracLe (load (items.filter (fun x => !x.2.2))) (most (allow - s.fld (F.BGT_SBkACKRES_ACKRES k))) &&
        fracLe (load items) (most allow)))

/-- What the PJ-8100 sends in a cell: the frame of a downlink, shared or beacon cell, the ACK of an uplink cell. -/
def State.chipAir (s : State) (x : PlanCell) : Nat × Frac × Bool :=
  (s.tplClass x.cell.tpl, if x.cell.dir = 0 then ((s.airOf x).2, true) else ((s.airOf x).1, false))

/-- What the node sends in a cell of its own. -/
def State.nodeAir (s : State) (x : PlanCell) : Nat × Frac × Bool :=
  (s.tplClass x.cell.tpl, if x.cell.dir = 0 then ((s.airOf x).1, false) else ((s.airOf x).2, true))

/-- The budgets of a PJ-8100 and, separately, of a node (R228). -/
def State.budgetsFit (s : State) (chip : Nat) (node : Option Nat) (l : List PlanCell) : Bool :=
  s.airOk ((l.filter (fun x => x.chip == chip)).map s.chipAir) &&
    (node.isNone || s.airOk ((l.filter (fun x => x.node == node)).map s.nodeAir))

/-! ### Placements -/

/-- Cells of a node satisfy R228 beside the cells `others`. -/
def State.cellsOk (s : State) (mine others : List PlanCell) : Bool :=
  let all := others ++ mine.filter (fun x => !others.contains x)
  mine.all (fun x =>
    s.templateOk x && (s.linkOk x && (all.all (fun b => b == x || s.pairOk x b) && (s.slotOk x all && (s.streamsOk x all &&
      s.budgetsFit x.chip x.node all)))))

/-- R230: SWITCH is the record's link's, PARITY level 1, and DEPTH the least for its largest downlink frame; where the node has downlink
cells the link to it counts, else the link from it. -/
def State.paramsOk (s : State) (p : Placement) (mine : List PlanCell) (dem : Option DemRec) : Bool :=
  let dn := mine.filter (fun x => x.cell.dir == 1)
  (if dn.isEmpty then mine else dn).all (fun x =>
    s.switchFor x.ends.1 x.ends.2 (s.tplClass x.cell.tpl) (s.cellLh x.cell) == some p.sw) &&
  (mine.all (fun x => (s.switchFor x.ends.1 x.ends.2 (s.tplClass x.cell.tpl) (s.cellLh x.cell)).isSome) &&
    dem.all (fun d => p.par == 1 && p.dep == leastDepth d.dnoct))

/-- The cells of a placement are dedicated cells of its record within their slotframes, 16 at most, and none downlink where DNLAT is 0
(R222, R224, R228). -/
def State.shapeOk (s : State) (p : Placement) (dem : Option DemRec) : Bool :=
  (!p.cells.isEmpty && Nat.ble p.cells.length 16) && p.cells.all (fun c => c.record == p.record && (c.dir == 0 || (c.dir == 1 &&
    dem.all (fun d => d.dnlat != 0))) && (!c.beacon && Nat.blt c.slot (s.sfLen c.sf)))

/-- A placement with plan `plan` on the PJ-8100 of endpoint `chip` satisfies R228 to R230 beside the cells `others`. -/
def State.placeOn (s : State) (chip : Nat) (plan : LinkPlan) (p : Placement) (others : List PlanCell) : Bool :=
  let mine := p.cells.map (fun c => ({ cell := c, plan := { plan with sw := p.sw, par := p.par, dep := p.dep }, chip := chip,
                                       node := some p.node } : PlanCell))
  s.shapeOk p plan.dem && (s.paramsOk p mine plan.dem && (s.supervised plan p.cells && s.cellsOk mine others))

/-- A placement of a node of this chip satisfies R228 to R230 beside the cells `others`. -/
def State.placeOk (s : State) (p : Placement) (others : List PlanCell) : Bool := s.placeOn s.ownEp (s.planOf p) p others

/-! ### Demand and cost (R231, R239) -/

/-- The PDR of a node's uplink in 1/65,536 (R231): its record's, PDRMIN while that has fewer than 8 cells; at least 1. -/
def State.linkPdr (s : State) (chip node : Nat) (cells : List Cell) : Nat :=
  let cls := match cells.head? with
    | some c => [s.tplClass c.tpl]
    | none => [0, 1, 2, 3]
  let low := s.actFld F.SLV_POL0_PDRMIN * 256
  max 1 ((cls.findSome? (fun c => s.goodLink node chip c)).elim low (fun r => if r.ncell < 8 then low else r.pdr))

/-- Occurrences per hour of a node's cells of a direction. -/
def State.gotPerHour (s : State) (cells : List Cell) (dir : Nat) : Frac :=
  fracMul (3600, 1) (fracSum ((cells.filter (fun c => c.dir == dir)).map s.perSec))

/-- Occurrences per hour that a demand in 1/16 per hour needs at a PDR (R239): d / p. -/
def wantPerHour (d pdr : Nat) : Frac := frac (d * 65536) (16 * pdr)

/-- The uplink demand of a node is met. -/
def State.upMet (s : State) (chip : Nat) (d : DemRec) (cells : List Cell) : Bool :=
  fracLe (wantPerHour d.uph (s.linkPdr chip d.node cells)) (s.gotPerHour cells 0)

/-- The downlink demand of a node is met: enough cells, none further apart than DNLAT; with DNLAT = 0 it has none (R224). -/
def State.dnMet (s : State) (chip : Nat) (d : DemRec) (cells : List Cell) : Bool :=
  d.dnlat == 0 || (fracLe (wantPerHour d.dnh (s.linkPdr chip d.node cells)) (s.gotPerHour cells 1) &&
    s.gapsOk (cells.filter (fun c => c.dir == 1)) (4 * d.dnlat))

/-- The mean over a node's cells of a direction of what `f` gives in µs, each weighted by how often it occurs. -/
def State.cellMean (s : State) (l : List PlanCell) (dir : Nat) (f : PlanCell → Nat) : Frac :=
  let on := l.filter (fun x => x.cell.dir == dir)
  let all := fracSum (on.map (fun x => s.perSec x.cell))
  let sum := fracSum (on.map (fun x => fracMul (s.perSec x.cell) (frac (f x) 1)))
  if all.1 = 0 then (0, 1) else frac (sum.1 * all.2) (sum.2 * all.1.toNat)

/-- The radio-on cost of one node in µs per hour (R231), and the reports it delivers per hour. -/
def State.cost (s : State) (chip : Nat) (plan : LinkPlan) (d : DemRec) (cells : List Cell) : Frac × Frac :=
  let l := cells.map (fun c => ({ cell := c, plan := plan, chip := chip, node := some d.node } : PlanCell))
  let pdr := s.linkPdr chip d.node cells
  let warm := frac (4 * s.actFld F.SLV_POL0_WARM) 1
  let a := fracAdd (s.cellMean l 0 s.cellAck) (100, 1)
  let upRate := wantPerHour d.uph pdr
  let nUp := s.gotPerHour cells 0
  let data := fracMul upRate (fracAdd (fracAdd warm (s.cellMean l 0 (fun x => s.frameUs x d.upoct))) a)
  let keep := fracMul (fracSub nUp upRate) (fracAdd (fracAdd warm (s.cellMean l 0 (fun x => s.frameUs x 13))) a)
  let open' := fracMul (s.gotPerHour cells 1) (fracAdd warm (frac (16 * plan.guard) 1))
  let down := fracMul (wantPerHour d.dnh pdr) (fracAdd (s.cellMean l 1 (fun x => s.frameUs x d.dnoct)) (s.cellMean l 1 s.cellAck))
  let done := fracMul nUp (frac pdr 65536)
  let asked := frac d.uph 16
  (fracAdd (fracAdd data keep) (fracAdd open' (if l.any (fun x => x.cell.dir == 1) then down else (0, 1))),
    if fracLe done asked then done else asked)

/-- A node of a schedule: the endpoint of its PJ-8100, its demand, its link's plan, and the cells it has. -/
structure SchedNode where
  chip : Nat
  dem : DemRec
  plan : LinkPlan
  cells : List Cell
  deriving DecidableEq, Repr

/-- The nodes of a schedule. -/
abbrev Sched := List SchedNode

/-- What R231 compares: nodes supervised and nodes whose demand is met, by priority, radio-on time, and reports delivered. -/
structure Score where
  sup : List Nat
  met : List Nat
  cost : Frac
  reports : Frac
  deriving DecidableEq, Repr

/-- The score of a schedule (R231). -/
def State.score (s : State) (l : Sched) : Score :=
  let byPrio := fun (f : SchedNode → Bool) => (List.range 8).map (fun k => (l.filter (fun x => x.dem.prio == k && f x)).length)
  let costs := l.filterMap (fun x => if x.cells.isEmpty then none else some (s.cost x.chip x.plan x.dem x.cells))
  { sup := byPrio (fun x => s.supervised x.plan x.cells),
    met := byPrio (fun x => s.upMet x.chip x.dem x.cells && s.dnMet x.chip x.dem x.cells),
    cost := fracSum (costs.map (fun x => x.1)), reports := fracSum (costs.map (fun x => x.2)) }

/-- The first difference of two lists of counts: is the first list's greater? None where they agree. -/
def firstMore : List Nat → List Nat → Option Bool
  | a :: l, b :: m => if a = b then firstMore l m else some (Nat.blt b a)
  | _, _ => none

/-- R231: the first difference that decides. The radio-on times are compared per delivered report. -/
def Score.beats (a b : Score) : Bool :=
  match firstMore a.sup b.sup with
  | some r => r
  | none => match firstMore a.met b.met with
    | some r => r
    | none => !fracLe (fracMul b.cost a.reports) (fracMul a.cost b.reports)

end Sys2Proof.Machine
end

