-- ==== Sys2Proof/Machine/Slv.lean ====
section
/-! DEFINITION. SLV (chapter 11): the command queue, its commands, full solves, results, statistics. Which placements the
engines find is the environment's operand; the model checks them against R228 to R230, compares schedules by R231 and computes every
shortfall itself (log entry 51). -/

namespace Sys2Proof.Machine

/-! ### Results (R242, R243) -/

/-- A command ends with a result record; source 120 when the FIFO was empty, 121 where it is full. -/
def State.slvResult (s : State) (r : SlvRes) : State :=
  if s.slv.results.length < 64 then
    ({ s with slv := { s.slv with results := s.slv.results ++ [r] } }).fireIf s.slv.results.isEmpty 120
  else (s.bump Ctr.SLV_RQOVF).fire 121

/-- A shortfall record; source 122 when the FIFO was empty. -/
def State.slvShort (s : State) (x : Short) : State :=
  if s.slv.shorts.length < 1024 then
    ({ s with slv := { s.slv with shorts := s.slv.shorts ++ [x] } }).fireIf s.slv.shorts.isEmpty 122
  else s.bump Ctr.SLV_SHQOVF

/-- Occurrences per hour in units of 1/16, within 16 bits; a part counts as one where `up`. -/
def sixteenths (f : Frac) (up : Bool) : Nat := sat16 ((16 * f.1.toNat + (if up then f.2 - 1 else 0)) / f.2)

/-- The shortfall of a node of a schedule (R239, R243): where both directions are short, WANT and GOT are the uplink's. -/
def State.shortOf (s : State) (x : SchedNode) : Option Short :=
  let up := !s.upMet x.chip x.dem x.cells || (!x.cells.isEmpty && !s.supervised x.plan x.cells)
  let dn := !s.dnMet x.chip x.dem x.cells
  if up || (dn || x.cells.isEmpty) then
    some { node := x.dem.node, prio := x.dem.prio, up := up, dn := dn, unplaced := x.cells.isEmpty,
           want := sixteenths (wantPerHour (if up then x.dem.uph else x.dem.dnh) (s.linkPdr x.chip x.dem.node x.cells)) true,
           got := sixteenths (s.gotPerHour x.cells (if up then 0 else 1)) false }
  else none

/-- The octets of a result record (R242). -/
def SlvRes.octets (r : SlvRes) : List Octet :=
  leOctets 1 (r.op % 16 + 16 * (r.outcome % 16)) ++ leOctets 1 r.tag ++ leOctets 3 r.node ++ [0]
  ++ leOctets 2 (sat16 r.count) ++ leOctets 4 r.dur ++ leOctets 2 (sat16 r.short) ++ [0, 0]

/-- The octets of a shortfall record (R243). -/
def Short.octets (x : Short) : List Octet :=
  leOctets 3 x.node ++ leOctets 1 (x.prio % 8 + 8 * b2n x.up + 16 * b2n x.dn + 32 * b2n x.unplaced)
  ++ leOctets 2 x.want ++ leOctets 2 x.got

/-- A command ends with an outcome of R242. -/
def State.slvEnd (s : State) (c : SlvCmd) (outcome count dur : Nat) (short : Nat := 0) : State :=
  s.slvResult { op := c.op, outcome := outcome, tag := c.tag, node := c.node, count := count, dur := dur, short := short }

/-- Several commands end alike, each with its record. -/
def State.slvEndAll (s : State) (cs : List SlvCmd) (outcome count dur : Nat) (short : Nat := 0) : State :=
  cs.foldl (fun u c => u.slvEnd c outcome count dur short) s

/-! ### The queue (R232) -/

/-- The octets of SLV_DATA0 to SLV_DATA7. -/
def State.slvData (s : State) : List Octet := s.octRun (Reg.SLV_DATAw 0) 8

/-- A command joins the queue, or is refused at a full one: counted, source 131. -/
def State.slvQueue (s : State) (c : SlvCmd) : State :=
  if s.slv.cmds.length < 16 then { s with slv := { s.slv with cmds := s.slv.cmds ++ [c] } }
  else (s.bump Ctr.SLV_CMDREF).fire 131

/-- A write of SLV_CMD. -/
def State.slvWrite (s : State) (rq : Req) (op node tag : Nat) : State :=
  s.gated rq Reg.SLV_CMD (BitVec.ofNat 32 (op % 16 + 16 * (node % 2 ^ 18) + 2 ^ 22 * (tag % 256))) (fun t =>
    t.slvQueue { op := op % 16, node := node % 2 ^ 18, tag := tag % 256, data := t.slvData, rq := rq, sec := t.secureReq rq, own := false })

/-- SLV queues a SOLVE itself (R233, R239). -/
def State.slvOwnSolve (s : State) : State :=
  if s.slv.cmds.length < 16 then
    { s with slv := { s.slv with cmds := s.slv.cmds ++
      [{ op := 1, node := 0, tag := 0, data := [], rq := { init := .sup, prcSecure := true }, sec := true, own := true }] } }
  else s

/-- The outcome that ends any command before it runs: BADARG while EN = 0, KEEL in keel service. -/
def State.slvBar (s : State) : Option Nat :=
  if !s.on F.SLV_CFG_EN then some 7 else if s.keel then some 5 else none

/-- Commands of a reserved OP at the front end BADARG; fuel is the queue's length. -/
def State.slvSkip (s : State) : Nat → State
  | 0 => s
  | f + 1 =>
    match s.slv.cmds with
    | [] => s
    | c :: rest =>
      if c.op = 0 ∨ 8 < c.op then (({ s with slv := { s.slv with cmds := rest } }).slvEnd c 7 0 0).slvSkip f else s

/-- Run the command at the front of the queue where its OP is `op`, SLV is on at SL2 (R5, R407), and its engine is free: a JOIN that waits
for the anchor holds the incremental one. Group 0's staged set takes effect at the start of the operation, and a bar ends it. -/
def State.slvRun (s : State) (op dur : Nat) (act : State → SlvCmd → State) : State :=
  if !s.domReady 15 || (s.level != 2 || (op != 1 && s.slv.asked.isSome)) then s
  else
    let s0 := s.slvSkip s.slv.cmds.length
    match s0.slv.cmds with
    | [] => s0
    | c :: rest =>
      if c.op ≠ op then s0
      else
        let s1 := ({ s0 with slv := { s0.slv with cmds := rest } }).commitAt 9 0
        match s1.slvBar with
        | some o => s1.slvEnd c o 0 dur
        | none => act s1 c

/-- A command of the incremental engine. -/
def State.slvCmd (s : State) (st : CmdStep) (op node tag dur : Nat) (act : State → SlvCmd → State) : State :=
  match st with
  | .write rq => s.slvWrite rq op node tag
  | .run t => (s.at t).slvRun op dur act

/-! ### Records -/

/-- A demand record from its octets (R224); none where a zero bit is set or a range is broken. -/
def demRecOf (l : List Octet) : Option DemRec :=
  let w := leNat (slice l 0 3)
  let b := leNat (slice l 3 1)
  let up := leNat (slice l 8 2)
  let dn := leNat (slice l 10 2)
  if w / 2 ^ 18 % 32 = 0 ∧ 13 ≤ up ∧ up ≤ 2047 ∧ 13 ≤ dn ∧ dn ≤ 2047 then
    some { node := w % 2 ^ 18, auto := bit w 23, prio := b % 8, pin := bit b 3, home := b / 16, uph := leNat (slice l 4 2),
           dnh := leNat (slice l 6 2), upoct := up, dnoct := dn, uplat := leNat (slice l 12 2),
           dnlat := leNat (slice l 14 2) }
  else none

/-- The 16 octets of a demand record (R224). -/
def DemRec.octets (d : DemRec) : List Octet :=
  leOctets 3 (d.node % 2 ^ 18 + 2 ^ 23 * b2n d.auto) ++ leOctets 1 (d.prio % 8 + 8 * b2n d.pin + 16 * d.home)
  ++ leOctets 2 d.uph ++ leOctets 2 d.dnh ++ leOctets 2 d.upoct ++ leOctets 2 d.dnoct ++ leOctets 2 d.uplat
  ++ leOctets 2 d.dnlat

/-- An endpoint is well formed (R225). -/
def epOk (e : Nat) : Bool := if bit e 23 then Nat.blt (e % 2 ^ 23) 16 else Nat.blt e (2 ^ 18)

/-- A link record from its octets (R225); none where a zero bit is set, an endpoint is malformed or SRC is 3. -/
def linkRecOf (l : List Octet) : Option LinkRec :=
  let tx := leNat (slice l 0 3)
  let rx := leNat (slice l 3 3)
  let b := leNat (slice l 6 1)
  let v := leNat (slice l 7 1)
  if epOk tx && (epOk rx && (Nat.blt b 128 && (b % 4 != 3 && (Nat.blt v 2 && leNat (slice l 24 8) == 0)))) then
    some { txep := tx, rxep := rx, src := b % 4, cls := b / 4 % 4, lhobs := b / 16, valid := v == 1,
           snr := signed 16 (leNat (slice l 8 2)), snrsd := leNat (slice l 10 2), rssi := signed 16 (leNat (slice l 12 2)),
           pdr := leNat (slice l 14 2), ncell := leNat (slice l 16 2), nobs := leNat (slice l 18 2),
           lastgcn := leNat (slice l 20 4), hist := [] }
  else none

/-- The 32 octets of a link record (R225). -/
def LinkRec.octets (r : LinkRec) : List Octet :=
  leOctets 3 r.txep ++ leOctets 3 r.rxep ++ leOctets 1 (r.src + 4 * r.cls + 16 * r.lhobs) ++ leOctets 1 (b2n r.valid)
  ++ leOctets 2 (unsigned 16 r.snr) ++ leOctets 2 r.snrsd ++ leOctets 2 (unsigned 16 r.rssi) ++ leOctets 2 r.pdr
  ++ leOctets 2 r.ncell ++ leOctets 2 r.nobs ++ leOctets 4 r.lastgcn ++ List.replicate 8 0

/-- Put a demand record. -/
def State.setDemand (s : State) (d : DemRec) : State := { s with slv := { s.slv with dem := s.slv.dem.put d.node d } }

/-- A command that reads or writes SLV's working space faults by its maker's world (R336): WORLD, nothing changed. The
address within the region is not stated: a free value. -/
def State.slvWorld (s : State) (c : SlvCmd) (wr : Bool) (dur : Nat) (act : State → State) : State :=
  if s.tagFaults c.sec 3 then ((s.xwFault c.rq 3 9 (s.regionBase 3 + s.fresh % 2 ^ 28) wr).nextFree).slvEnd c 9 0 dur
  else act s

/-- SLV_DEMAND (R224, R232): the demand record in SLV_DATA0 to SLV_DATA3. -/
def execSlvDemand (st : CmdStep) (node tag dur : Nat) (s : State) : Host.Outcome State Fault Refusal :=
  .next (s.slvCmd st 4 node tag dur (fun t c => t.slvWorld c true dur (fun u =>
    match demRecOf c.data with
    | some d => (u.setDemand d).slvEnd c 0 0 dur
    | none => u.slvEnd c 7 0 dur)))

/-- SLV_LINK (R225, R226, R232): a link record; one that is, or names, SRC 0 ends BADARG. -/
def execSlvLink (st : CmdStep) (node tag dur : Nat) (s : State) : Host.Outcome State Fault Refusal :=
  .next (s.slvCmd st 5 node tag dur (fun t c => t.slvWorld c true dur (fun u =>
    match linkRecOf c.data with
    | some r =>
      let k := linkKey r.txep r.rxep r.cls
      if r.src = 0 ∨ (u.slv.links.find k).any (fun x => x.src == 0) = true then u.slvEnd c 7 0 dur
      else (u.addLink k r).slvEnd c 0 0 dur
    | none => u.slvEnd c 7 0 dur)))

/-- Put octets into SLV_RDATA. -/
def State.slvRdata (s : State) (l : List Octet) : State := s.setRegs (Reg.SLV_RDATAw 0) (packWords 8 (l ++ List.replicate 32 0))

/-- SLV_READDEM (R232): a node without a record ends BADARG (log entry 52). -/
def execSlvReaddem (st : CmdStep) (node tag dur : Nat) (s : State) : Host.Outcome State Fault Refusal :=
  .next (s.slvCmd st 6 node tag dur (fun t c => t.slvWorld c false dur (fun u =>
    match u.slv.dem.find c.node with
    | some d => (u.slvRdata d.octets).slvEnd c 0 0 dur
    | none => u.slvEnd c 7 0 dur)))

/-- SLV_READLINK (R232): the record keyed as in SLV_DATA0 and SLV_DATA1. -/
def execSlvReadlink (st : CmdStep) (node tag dur : Nat) (s : State) : Host.Outcome State Fault Refusal :=
  .next (s.slvCmd st 7 node tag dur (fun t c => t.slvWorld c false dur (fun u =>
    let k := linkKey (leNat (slice c.data 0 3)) (leNat (slice c.data 3 3)) (leNat (slice c.data 6 1) / 4)
    match u.slv.links.find k with
    | some r => (u.slvRdata r.octets).slvEnd c 0 0 dur
    | none => u.slvEnd c 7 0 dur)))

/-! ### Anchor, members and homes (R241, R376, R377, R455) -/

/-- This device is the anchor of a cascade: its SLV holds the master copy (R241). -/
def State.isAnchor (s : State) : Bool := s.fld F.CSC_CFG_ROLE != 0 && s.on F.SLV_STATUS_MASTER

/-- The anchor places border nodes and merges solves, not this device (R241). -/
def State.isMember (s : State) : Bool := s.fld F.CSC_CFG_ROLE != 0 && !s.on F.SLV_STATUS_MASTER

/-- Another chip's SLV works (R455): its STATUS tells of SL2 outside keel service. -/
def State.chipServes (s : State) (chip : Nat) : Bool := (s.csc.peers.find chip).any (fun e => e.2.level == 2 && !e.2.keel)

/-- This device cannot reach an acting anchor whose SLV works (R241, R376, R455): it is no solo chip, and in FABRIC mode or a member of an
anchor below SL2 or in keel service. -/
def State.noAnchor (s : State) : Bool :=
  s.fld F.CSC_CFG_ROLE != 0 && (!s.on F.CSC_STATUS_MODE || (s.isMember && !s.chipServes (s.fld F.CSC_STATUS_ANCHOR)))

/-- An ACTIVE LINK slot of this chip is bound to a node (R377). -/
def State.linkKeyed (s : State) (node : Nat) : Bool := s.kvt.slots.any (fun e => e.2.active && KeyUser.admits (.link node) e.2)

/-- A chip may be a node's home (R377): it is present, has fewer than 65,536 neighbour records and an ACTIVE LINK slot bound to the node. Of
another chip, what it told last counts (log entry 145). -/
def State.mayHome (s : State) (node chip : Nat) : Bool :=
  if chip = s.fld F.CSC_CFG_CHIPID then Nat.blt s.msq.nbrs.length 65536 && s.linkKeyed node
  else (s.csc.peers.find chip).isSome &&
    (s.slv.known.find chip).any (fun x => Nat.blt x.1 65536 && x.2.any (fun y => y.node == node && y.linked))

/-- The home of a node (R224, R377): HOME of its demand record, with AUTO the chip that may be its home and whose VALID link record from
it has the highest SNR, or its home so far; a member follows what the acting anchor assigned, and a solo chip is the home of all. -/
def State.homeOf (s : State) (node : Nat) : Nat :=
  let own := s.fld F.CSC_CFG_CHIPID
  let now := (s.csc.homes.find node).getD own
  match s.slv.dem.find node with
  | none => now
  | some d =>
    if s.fld F.CSC_CFG_ROLE = 0 then own
    else if !d.auto then d.home
    else if s.isMember then now
    else ((s.slv.links.foldl (fun (b : Option (Nat × Int)) e =>
      if e.2.txep = node ∧ e.2.valid = true ∧ bit e.2.rxep 23 = true ∧ s.mayHome node (e.2.rxep % 16) = true then
        match b with
        | none => some (e.2.rxep % 16, e.2.snr)
        | some y => if y.2 < e.2.snr then some (e.2.rxep % 16, e.2.snr) else b
      else b) none).map (fun b => b.1)).getD now

/-- A node is at home on this chip. -/
def State.homedHere (s : State) (node : Nat) : Bool := s.homeOf node == s.fld F.CSC_CFG_CHIPID

/-- A border node (R241): a link record at any level joins it to an endpoint homed on another chip than itself. -/
def State.borderNode (s : State) (node : Nat) : Bool :=
  let home := s.homeOf node
  s.slv.links.any (fun e =>
    let o := if e.2.txep = node then some e.2.rxep else if e.2.rxep = node then some e.2.txep else none
    match o with
    | none => false
    | some x => if bit x 23 then x % 16 != home else (s.slv.dem.find x).isSome && s.homeOf x != home)

/-- A node of this chip has placed cells. -/
def State.placed (s : State) (node : Nat) : Bool := (s.nodeSets node).sets.any (fun x => !x.cells.isEmpty)

/-- A full solve never moves a node's cells (R224). -/
def State.pinned (s : State) (node : Nat) : Bool := (s.demand node).any (fun d => d.pin)

/-! ### What chips tell each other (R227, R241, R376) -/

/-- A list in pieces of `k`, one of them where it is empty; fuel is its length. -/
def pieces {α : Type} (k : Nat) (l : List α) : Nat → List (List α)
  | 0 => [l]
  | f + 1 => if l.length ≤ k then [l] else l.take k :: pieces k (l.drop k) f

/-- SCHED frames for a chip; each body stays within 1,008 octets (R376, log entry 142). -/
def State.schedTo (s : State) (chip : Nat) (l : List CscSched) : State :=
  { s with slv := { s.slv with out := s.slv.out ++ l.map (fun x => (chip, x)) } }

/-- SCHED frames for every present chip. -/
def State.schedAll (s : State) (f : Nat → List CscSched) : State := s.csc.peers.foldl (fun u e => u.schedTo e.1 (f e.1)) s

/-- A chip's cells for the master copy or its mirror, which is complete with the last of them where `complete`. -/
def mirrorFrames (chip : Nat) (cells : List PlanCell) (complete : Bool) : List CscSched :=
  let ps := pieces 24 cells cells.length
  ps.zipIdx.map (fun x => .mirror chip (x.2 == 0) x.1 (complete && x.2 + 1 == ps.length))

/-- Placements of round 1 for a chip, and of round 3. -/
def borderFrames (l : List Placement) : List CscSched :=
  let ps := pieces 6 l l.length
  ps.zipIdx.map (fun x => .border x.1 (x.2 + 1 == ps.length))

/-- Placements of round 3 for a chip. -/
def activateFrames (l : List Placement) : List CscSched := (pieces 6 l l.length).map .activate

/-- What this chip knows of its nodes: those that have a neighbour record, and those with an ACTIVE LINK slot alone. -/
def State.ownNodes (s : State) : List ChipNode :=
  s.msq.nbrs.map (fun e => { node := e.2.node, plan := some { s.recPlan e.1 with dem := none }, linked := s.linkKeyed e.2.node })
  ++ (s.kvt.slots.filter (fun e => e.2.active && (KeyUser.admits (.link e.2.bind) e.2 && (s.nodeRec e.2.bind).isNone))).map (fun e =>
    { node := e.2.bind, plan := none, linked := true })

/-- Who keeps a copy of this chip's cells (R241): the acting anchor, or from the anchor the acting standby. -/
def State.copyTo (s : State) : Option Nat :=
  if s.fld F.CSC_CFG_ROLE = 0 ∨ s.on F.CSC_STATUS_MODE = false then none
  else if s.on F.SLV_STATUS_MASTER then (s.csc.peers.find? (fun e => e.2.2.act == 2)).map (fun e => e.1)
  else some (s.fld F.CSC_STATUS_ANCHOR)

/-- What a chip knows of its nodes, in frames. -/
def nodeFrames (chip records : Nat) (l : List ChipNode) : List CscSched :=
  (pieces 48 l l.length).zipIdx.map (fun x => .nodes chip (x.2 == 0) records x.1)

/-- This chip tells its anchor, or the anchor its standby, of its nodes where that has changed (R227, R377). -/
def State.tellNodes (s : State) : State :=
  let now := (s.msq.nbrs.length, s.ownNodes)
  match s.copyTo with
  | some a => if s.slv.told = now then s else ({ s with slv := { s.slv with told := now } }).schedTo a
      (nodeFrames (s.fld F.CSC_CFG_CHIPID) now.1 now.2)
  | none => s

/-- This chip's cells go to the copy that is kept of them (R241). -/
def State.copyCells (s : State) : State :=
  match s.copyTo with
  | none => s
  | some a => s.schedTo a (mirrorFrames (s.fld F.CSC_CFG_CHIPID) s.ownPlanned true)

/-- The plan of another chip's node (R227): what its home told of its record, and its demand; none where it told of none. -/
def State.farPlan (s : State) (node : Nat) : Option LinkPlan :=
  ((s.slv.known.find (s.homeOf node)).bind (fun x => (x.2.find? (fun y => y.node == node)).bind (fun y => y.plan))).map (fun p =>
    { p with dem := s.demand node })

/-- The cells of another chip's node in the master copy. -/
def State.farCells (s : State) (chip node : Nat) : List Cell :=
  ((s.slv.master.getD' chip []).filter (fun x => x.node == some node)).map (fun x => x.cell)

/-! ### Schedules (R231, R233) -/

/-- A node of this chip as it stands: its demand, its record's plan, the cells of its newest set. -/
def State.nodeNow (s : State) (d : DemRec) (record : Nat) : SchedNode :=
  { chip := s.ownEp, dem := d, plan := { s.recPlan record with dem := some d }, cells := s.cellsNow d.node }

/-- The schedule of this chip's nodes (those homed here that have a demand and a neighbour record), where `places` change some. -/
def State.schedule (s : State) (places : List Placement) : Sched :=
  s.slv.dem.filterMap (fun e => ((s.nodeRec e.1).filter (fun _ => s.homedHere e.1)).map (fun x =>
    match places.find? (fun p => p.node == e.1) with
    | some p => { chip := s.ownEp, dem := e.2, plan := s.planOf p, cells := p.cells }
    | none => s.nodeNow e.2 x.1))

/-- A placement on the PJ-8100 of chip `chip` with the node's plan. -/
abbrev FarPlace := Nat × Placement × LinkPlan

/-- The plan of a link under a placement. -/
def LinkPlan.under (l : LinkPlan) (p : Placement) : LinkPlan := { l with sw := p.sw, par := p.par, dep := p.dep }

/-- The cells of a placement on another chip. -/
def farPlanCells (x : FarPlace) : List PlanCell :=
  x.2.1.cells.map (fun c => { cell := c, plan := x.2.2.under x.2.1, chip := 2 ^ 23 + x.1, node := some x.2.1.node })

/-- The schedule of the other chips' nodes as the anchor knows it (R241), where `far` changes some. -/
def State.farSchedule (s : State) (far : List FarPlace) : Sched :=
  if !s.isAnchor then []
  else s.slv.dem.filterMap (fun e =>
    let h := s.homeOf e.1
    if s.homedHere e.1 then none
    else match far.find? (fun x => x.2.1.node == e.1) with
      | some x => some { chip := 2 ^ 23 + x.1, dem := e.2, plan := x.2.2.under x.2.1, cells := x.2.1.cells }
      | none => (s.farPlan e.1).map (fun plan => { chip := 2 ^ 23 + h, dem := e.2, plan := plan, cells := s.farCells h e.1 }))

/-- The active schedule breaks no constraint of R228: of this chip, and on an anchor of the cascade. -/
def State.activeOk (s : State) : Bool :=
  (s.schedule [] ++ s.farSchedule []).all (fun x => x.cells.isEmpty || (s.supervised x.plan x.cells &&
    s.cellsOk (x.cells.map (fun c => { cell := c, plan := x.plan, chip := x.chip, node := some x.dem.node })) s.planned))

/-- The changes of a list in order of what each gains alone, most first (R233). -/
def State.byGain (s : State) (places : List Placement) : List Placement :=
  places.foldr (fun p l =>
    let ahead := fun (q : Placement) => (s.score (s.schedule [q])).beats (s.score (s.schedule [p]))
    l.takeWhile ahead ++ p :: l.dropWhile ahead) []

/-- The best of some placements under R231: the first that none after it beats. -/
def bestOf (score : Placement → Score) (l : List Placement) : Option Placement :=
  l.foldl (fun b p => match b with
    | none => some p
    | some q => if (score p).beats (score q) then some p else some q) none

/-! ### Placing (R232, R236, R239) -/

/-- A change during a full solve is logged (R234). -/
def State.slvLog (s : State) (joined : Bool) (node : Nat) : State :=
  match s.slv.solve with
  | none => s
  | some r => { s with slv := { s.slv with solve := some { r with log := r.log ++ [{ joined := joined, node := node }] } } }

/-- Shortfall records of a list of nodes; the answer counts those written (R242). -/
def State.slvShorts (s : State) (l : List Short) : Nat × State :=
  let s1 := l.foldl (fun u x => u.slvShort x) s
  (s1.slv.shorts.length - s.slv.shorts.length, s1)

/-- The shortfall of a node of this chip with `cells`, where it has a demand. -/
def State.shortNow (s : State) (node : Nat) (plan : LinkPlan) (cells : List Cell) : List Short :=
  ((s.demand node).bind (fun d => s.shortOf { chip := s.ownEp, dem := d, plan := { plan with dem := some d }, cells := cells })).toList

/-- A JOIN that found no placement (R239): NOFIT, source 124, the node left with shared cells and its shortfall, and a SOLVE while
AUTOSOLVE = 1. -/
def State.noFit (s : State) (c : SlvCmd) (dur : Nat) : State :=
  let x := (s.dropNode c.node).slvShorts (s.shortNow c.node {} [])
  let s1 := ((x.2.bump Ctr.SLV_NOFIT).slvEnd c 2 0 dur x.1).fire 124
  if s.on F.SLV_CFG_AUTOSOLVE then s1.slvOwnSolve else s1

/-- A JOIN takes a placement (R222, R232, R239): CELLFULL past 131,072 cells, else the patch, the log, a shortfall where it gives less
than the demand. -/
def State.joinTake (s : State) (c : SlvCmd) (p : Placement) (dur : Nat) : State :=
  if !s.cellRoom p then s.slvEnd c 8 0 dur
  else
    let x := s.slvShorts (s.shortNow c.node (s.planOf p) p.cells)
    (((x.2.changeSet p).slvLog true c.node).bump Ctr.SLV_JOINS).slvEnd c 0 p.cells.length dur x.1

/-- The plan of a node of this chip: its record's. -/
def State.nodePlan (s : State) (node : Nat) : LinkPlan :=
  match s.nodeRec node with
  | some e => s.recPlan e.1
  | none => {}

/-- The placement names the node's own record. -/
def State.ofRecord (s : State) (p : Placement) : Bool := (s.nodeRec p.node).any (fun e => e.1 == p.record)

/-- The placement of a node that a JOIN takes of what the engine found (R228, R231): the best that meets R228. -/
def State.joinPick (s : State) (node : Nat) (found : List Placement) : Option Placement :=
  bestOf (fun p => s.score (s.schedule [p])) (found.filter (fun p => p.node == node && (s.ofRecord p && s.placeOk p s.planned)))

/-- SLV_JOIN (R232, R238, R239, R241): `found` is what the engine found. It waits while the node has two unconfirmed sets. A member asks
the anchor for a border node's cells. -/
def execSlvJoin (st : CmdStep) (node tag dur : Nat) (found : List Placement) (s : State) :
    Host.Outcome State Fault Refusal :=
  .next (match st with
    | .write rq => s.slvWrite rq 2 node tag
    | .run t =>
      let s0 := s.at t
      if (s0.slv.cmds.find? (fun c => c.op != 0 && Nat.ble c.op 8)).any (fun c => c.op == 2 && Nat.ble 2 (s0.unconfirmed c.node)) then s0
      else s0.slvRun 2 dur (fun u c =>
        if u.noAnchor && u.borderNode c.node then u.slvEnd c 4 0 dur
        else if u.isMember && u.borderNode c.node then
          ({ u with slv := { u.slv with asked := some (c, u.gtb.ft) } }).schedTo (u.fld F.CSC_STATUS_ANCHOR)
            [.ask c.node { u.nodePlan c.node with dem := u.demand c.node }]
        else match u.joinPick c.node found with
          | some p => u.joinTake c p dur
          | none => u.noFit c dur))

/-- The JOIN that waits for the anchor ends with its answer (R241): placed, NOFIT, or NOANCHOR where the anchor is gone. -/
def State.joinAnswer (s : State) (outcome : Nat) (place : Option Placement) : State :=
  match s.slv.asked with
  | none => s
  | some (c, ft) =>
    let s1 := { s with slv := { s.slv with asked := none } }
    let dur := s.gtb.ft - ft
    if outcome ≠ 0 then s1.slvEnd c outcome 0 dur
    else match place, s1.nodeRec c.node with
      | some p, some (r, _) =>
        s1.joinTake c { p with node := c.node, record := r, cells := p.cells.map (fun x => { x with record := r }) } dur
      | _, _ => s1.noFit c dur

/-- SLV_LEAVE (R232): the node's cells go at the next slot boundary. -/
def execSlvLeave (st : CmdStep) (node tag dur : Nat) (s : State) : Host.Outcome State Fault Refusal :=
  .next (s.slvCmd st 3 node tag dur (fun t c =>
    (((t.clearNode c.node).slvLog false c.node).bump Ctr.SLV_LEAVES).slvEnd c 0 0 dur))

/-! ### Full solves (R233, R234) -/

/-- A SOLVE, and those merged into it, start on the full engine from a snapshot (R233), or end NOANCHOR or as any command is barred; the
anchor sends the border placements of round 1, `border`, to every other chip (R241). -/
def State.solveStart (s : State) (c : SlvCmd) (also : List SlvCmd) (border : List Placement) : State :=
  let s1 := s.commitAt 9 0
  match s1.slvBar with
  | some o => s1.slvEndAll (c :: also) o 0 0
  | none =>
    if s1.noAnchor then s1.slvEndAll (c :: also) 4 0 0
    else
      let far : List FarPlace := if !s1.isAnchor then [] else border.filterMap (fun p =>
        if s1.borderNode p.node && (!s1.homedHere p.node && !s1.pinned p.node) then
          (s1.farPlan p.node).map (fun plan => (s1.homeOf p.node, p, plan))
        else none)
      let s2 := { s1 with slv := { s1.slv with solve := some { cmd := c, also := also, startFt := s1.gtb.ft, inp := s1.inputs, far := far } } }
      if s2.isAnchor then s2.schedAll (fun k => borderFrames ((far.filter (fun x => x.1 == k)).map (fun x => x.2.1))) else s2

/-- The running SOLVE is over: an anchor sends every chip its placements of `far`, of which there may be none (R241), and waits with a held
SOLVE for its border placements; elsewhere the held one starts with those merged into it. -/
def State.solveOver (s : State) (far : List FarPlace) : State :=
  let s1 := { s with slv := { s.slv with solve := none } }
  if s.isAnchor then s1.schedAll (fun k => activateFrames ((far.filter (fun x => x.1 == k)).map (fun x => x.2.1)))
  else match s.slv.held with
    | c :: rest => ({ s1 with slv := { s1.slv with held := [] } }).solveStart c rest []
    | [] => s1

/-- A running SOLVE ends ABORTED (R232, R244, R380). -/
def State.solveAbort (s : State) : State :=
  match s.slv.solve with
  | none => s
  | some r => (s.slvEndAll (r.cmd :: r.also) 6 0 (s.gtb.ft - r.startFt)).solveOver []

/-- SLV_SOLVE (R232, R233, R241): a held SOLVE starts where none runs; else one of the queue starts, is held behind a running one, or
merges into the held one. -/
def execSlvSolve (st : SolveStep) (node tag : Nat) (s : State) : Host.Outcome State Fault Refusal :=
  .next (match st with
    | .write rq => s.slvWrite rq 1 node tag
    | .run t border =>
      let s0 := s.at t
      match s0.slv.solve, s0.slv.held with
      | none, c :: rest =>
        if s0.domReady 15 && s0.level == 2 then ({ s0 with slv := { s0.slv with held := [] } }).solveStart c rest border else s0
      | _, _ => s0.slvRun 1 0 (fun u c =>
        if u.slv.solve.isNone then u.solveStart c [] border
        else { u with slv := { u.slv with held := u.slv.held ++ [c] } }))

/-- SLV_ABORT (R232). -/
def execSlvAbort (st : CmdStep) (node tag dur : Nat) (s : State) : Host.Outcome State Fault Refusal :=
  .next (s.slvCmd st 8 node tag dur (fun t c => (t.solveAbort).slvEnd c 0 0 dur))

/-- SOLVE_PERIOD_TIMER (R233): SLV queues a SOLVE itself. -/
def execSolvePeriodTimer (t : Time) (s : State) : Host.Outcome State Fault Refusal :=
  let s0 := s.at t
  .next (if s.fld F.SLV_CFG_PERIOD ≠ 0 ∧ s.domReady 15 = true then s0.slvOwnSolve else s0)

/-- The nodes of a log whose last entry says that they joined, or left, in the order of those entries (R234). -/
def logged (l : List SlvLog) (joined : Bool) : List Nat :=
  (((l.reverse.map (fun x => x.node)).eraseDups).filter (fun n =>
    (l.reverse.find? (fun x => x.node == n)).any (fun x => x.joined == joined))).reverse

/-- The placed nodes of this chip of which a solve may move CHURN percent (R233). -/
def State.churnQuota (s : State) : Nat :=
  s.actFld F.SLV_POL2_CHURN * (s.slv.nodes.filter (fun e => e.2.sets.any (fun x => !x.cells.isEmpty))).length / 100

/-- A change that a solve may make to a node of this chip (R224, R233): one that moves it, neither pinned nor homed elsewhere. -/
def State.mayMove (s : State) (p : Placement) : Bool :=
  !s.pinned p.node && (s.homedHere p.node && p.cells != s.cellsNow p.node)

/-- The changes that a result makes (R228, R233): one after the other, each checked beside `others` and those taken before it, no more
than `quota` of them of placed nodes, within the cell store. -/
def State.placeAll (s : State) (quota : Nat) (others : List PlanCell) (places : List Placement) : List Placement :=
  places.foldl (fun (acc : List Placement) p =>
    let beside := others ++ acc.flatMap (fun q => s.cellsOf q)
    let moved := (acc.filter (fun q => s.placed q.node)).length
    let cells := s.cellsDue.length + (acc.map (fun q => s.newCells q)).sum + s.newCells p
    if (!s.placed p.node || Nat.blt moved quota) && (s.placeOk p beside && (s.ofRecord p && Nat.ble cells 131072)) then acc ++ [p]
    else acc) []

/-- The nodes of another chip that have cells in the master copy. -/
def State.farPlaced (s : State) (chip : Nat) : List Nat := ((s.slv.master.getD' chip []).filterMap (fun x => x.node)).eraseDups

/-- A placement of another chip's node that a result may make (R222, R224, R233, R455) after those of `acc`: it moves a node that is not
pinned, CHURN percent of the chip's placed nodes at most, within the chip's cell store; the interior nodes of a chip whose SLV does not work
keep their cells. -/
def State.farMay (s : State) (acc : List FarPlace) (x : FarPlace) : Bool :=
  let mine := acc.filter (fun y => y.1 == x.1)
  let was := s.farPlaced x.1
  !s.pinned x.2.1.node && (x.2.1.cells != s.farCells x.1 x.2.1.node && (!mine.any (fun y => y.2.1.node == x.2.1.node) &&
    ((s.chipServes x.1 || s.borderNode x.2.1.node) &&
      ((!was.contains x.2.1.node || Nat.blt (mine.filter (fun y => was.contains y.2.1.node)).length (s.actFld F.SLV_POL2_CHURN * was.length / 100)) &&
        Nat.ble (((s.slv.master.getD' x.1 []).filter (fun y => y.node.isSome)).length + (mine.map (fun y => y.2.1.cells.length)).sum
          + x.2.1.cells.length) 131072))))

/-- The placements of other chips' nodes that an anchor activates (R241): as the chips found them, or repaired where the result has a
placement of the node. -/
def State.farPlaces (s : State) (far : List FarPlace) (fix : List Placement) (others : List PlanCell) : List FarPlace :=
  far.foldl (fun (acc : List FarPlace) x =>
    let ok := fun (p : Placement) => s.farMay acc (x.1, p, x.2.2) &&
      s.placeOn (2 ^ 23 + x.1) x.2.2 p (others ++ acc.flatMap farPlanCells)
    let pick := if ok x.2.1 then some x.2.1 else (fix.find? (fun p => p.node == x.2.1.node)).filter ok
    match pick with
    | some p => acc ++ [(x.1, p, x.2.2)]
    | none => acc) []

/-- What becomes of a node that joined during the solve (R234): its cells as they are, a new placement, or none. -/
inductive Rejoin where
  | keep
  | again (p : Placement)
  | lost
  deriving DecidableEq, Repr

/-- A node that joined keeps its cells if they meet R228 against the result, and is placed again otherwise, where the engine has a
placement that does. -/
def State.rejoin (s : State) (node : Nat) (found : List Placement) (others : List PlanCell) : Rejoin :=
  let cells := (s.cellsNow node).map (fun c => s.ownCell c (s.recPlan c.record) (some node))
  if s.cellsOk cells others then .keep
  else match found.find? (fun p => p.node == node && (s.placeOk p others && (s.ofRecord p && s.cellRoom p))) with
    | some p => .again p
    | none => .lost

/-- The nodes that joined during the solve, one after the other, beside the result `others` (R234). -/
def State.rejoinAll (s : State) (joined : List Nat) (found : List Placement) (others : List PlanCell) : List (Nat × Rejoin) :=
  (joined.foldl (fun (acc : List (Nat × Rejoin) × List PlanCell) n =>
    let r := s.rejoin n found acc.2
    let cells := match r with
      | .keep => (s.cellsNow n).map (fun c => s.ownCell c (s.recPlan c.record) (some n))
      | .again p => s.cellsOf p
      | .lost => []
    (acc.1 ++ [(n, r)], acc.2 ++ cells)) ([], others)).1

/-- What a solve activates (R233, R234, R239): new sets, nodes that lose their cells, shortfalls, and the placements sent to other chips. -/
structure SolveResult where
  sets : List Placement
  clear : List Nat
  shorts : List Short
  far : List FarPlace
  deriving DecidableEq, Repr

/-- The cells of a schedule that nodes of this chip hold. -/
def State.heldBy (s : State) (nodes : List Nat) (x : PlanCell) : Bool :=
  x.chip == s.ownEp && nodes.any (fun n => (s.nodeSets n).sets.any (fun y => y.cells.contains x.cell))

/-- The result of a solve from `places`, with `again` for the nodes that joined meanwhile and `far` for other chips' nodes: judged against
the state `v` that the solve sees, but for the nodes that joined, which the state `s` is asked about (R234); none where it is not better
under R231 and the active schedule breaks no constraint of R228. -/
def State.solveResult (v s : State) (r : SolveRun) (places again far : List Placement) : Option SolveResult :=
  let left := logged r.log false
  let joined := logged r.log true
  let free := fun (p : Placement) => v.mayMove p && (!left.contains p.node && (!joined.contains p.node &&
    !(v.isMember && v.borderNode p.node)))
  let others := v.planned.filter (fun x => !v.heldBy joined x)
  let sets := v.placeAll v.churnQuota others (v.byGain (places.filter free))
  let beside := others ++ sets.flatMap (fun q => v.cellsOf q)
  let away := v.farPlaces r.far (far.filter (fun p => !v.homedHere p.node)) beside
  if !(v.score (v.schedule sets ++ v.farSchedule away)).beats (v.score (v.schedule [] ++ v.farSchedule [])) && v.activeOk then none
  else
    let back := s.rejoinAll joined again (beside ++ away.flatMap farPlanCells)
    let put := back.filterMap (fun x => match x.2 with
      | .again p => some p
      | _ => none)
    let lost := (back.filter (fun x => x.2 == .lost)).map (fun x => x.1)
    let here := (v.schedule sets).filter (fun x => !left.contains x.dem.node && !joined.contains x.dem.node)
    let bad := (here.filter (fun x => !x.cells.isEmpty && (!v.supervised x.plan x.cells && !x.dem.pin))).map (fun x => x.dem.node)
    let here' := here.map (fun x => if bad.contains x.dem.node then { x with cells := [] } else x)
    let joins := back.flatMap (fun x => match x.2 with
      | .keep => s.shortNow x.1 (s.nodePlan x.1) (s.cellsNow x.1)
      | .again p => s.shortNow x.1 (s.planOf p) p.cells
      | .lost => s.shortNow x.1 {} [])
    some { sets := sets ++ put, clear := lost ++ bad, shorts := (here' ++ v.farSchedule away).filterMap v.shortOf ++ joins, far := away }

/-- SOLVE_COMPLETE (R233, R234, R239, R241): `places`, `again` and `far` are what the full engine found; the model judges it by R228 to
R231, applies the JOIN and LEAVE log, stages the sets, and writes the shortfalls; or the solve ends NOGAIN. -/
def execSolveComplete (t : Time) (places again far : List Placement) (s : State) : Host.Outcome State Fault Refusal :=
  let s0 := s.at t
  .next (match s0.slv.solve with
    | none => s0
    | some r =>
      let dur := t.ft - r.startFt
      let cs := r.cmd :: r.also
      match s0.slvBar with
      | some o => (s0.slvEndAll cs o 0 dur).solveOver []
      | none =>
        match (s0.withInputs r.inp).solveResult s0 r places again far with
        | none => (((s0.bump Ctr.SLV_NOGAIN).slvEndAll cs 3 0 dur).fire 125).solveOver []
        | some x =>
          let s1 := x.clear.foldl (fun u n => u.dropNode n) (x.sets.foldl (fun u p => u.changeSet p) s0)
          let (n, s2) := s1.slvShorts x.shorts
          let part := !x.shorts.isEmpty
          let s3 := (s2.bump Ctr.SLV_SOLVES).slvEndAll cs (b2n part) (x.sets.length + x.clear.length + x.far.length) dur n
          (s3.fireIf part 123).solveOver x.far)

/-- CELLS_CONFIRM_TIMEOUT (R238): a CELLS frame sent with AR = 0 counts as dropped at the end of the first full period of the
set's longest slotframe after its EC (periods begin where EC is a multiple of the length). -/
def execCellsConfirmTimeout (t : Time) (node setid : Nat) (s : State) : Host.Outcome State Fault Refusal :=
  let s0 := s.at t
  .next (match (s0.nodeSets node).sets.find? (fun x => x.setid == setid) with
    | some x =>
      let f := x.cells.foldl (fun n c => max n (s0.sfLen c.sf)) 0
      if (!x.ar || x.pkt.isNone) && (!x.confirmed && Nat.ble ((x.ec + f - 1) / max 1 f * f + f) s0.ec) then s0.cellsAgain node setid else s0
    | none => s0)

/-- SLV_RQPOP (R242). -/
def execSlvRqpop (rq : Req) (s : State) : Host.Outcome State Fault Refusal :=
  .next (s.gated rq Reg.SLV_RQPOP 1 (fun t => { t with slv := { t.slv with results := t.slv.results.drop 1 } }))

/-- SLV_SHQPOP (R243). -/
def execSlvShqpop (rq : Req) (s : State) : Host.Outcome State Fault Refusal :=
  .next (s.gated rq Reg.SLV_SHQPOP 1 (fun t => { t with slv := { t.slv with shorts := t.slv.shorts.drop 1 } }))

/-- The running commands end ABORTED (R244): the SOLVE with those merged into it, and a JOIN that waits for the anchor. -/
def State.slvAbortRun (s : State) : State := s.solveAbort.joinAnswer 6 none

/-- PD_SLV begins to leave ON (R244): the commands that have left the queue end ABORTED, the held SOLVE with them. -/
def State.slvAbortAll (s : State) : State :=
  (({ s with slv := { s.slv with held := [] } }).slvAbortRun).slvEndAll s.slv.held 6 0 0

/-! ### Statistics (R157, R240) -/

/-- The slices with an enabled hunter (R157). -/
def State.statSlices (s : State) : List Nat :=
  (((List.range 512).filter (fun h => s.hunterOn h)).map s.hunterSlice).eraseDups

/-- The statistics record of a slice at `ft` (R157). -/
def State.statRec (s : State) (g : Nat) : StatRec :=
  let z := s.dmx.stats.getD' g {}
  let busy := z.busy + (match z.since with
    | some a => s.gtb.ft - a
    | none => 0)
  let win := max 1 (s.gtb.ft - s.dmx.winFt)
  { slice := g, nf := s.fld (F.RFPn_SLkNF_NF (g / 128) (g % 128)), gcn := gcn s.gtb.gt % 2 ^ 32,
    busy := min 65535 (busy * 65536 / win), dets := sat16 z.dets, oks := sat16 z.oks, ovls := sat16 z.ovls }

/-- A slice's record makes its channel unusable (R240): BUSY above 20 % and fewer than half of its detections OK. -/
def StatRec.bad (r : StatRec) : Bool := Nat.blt 13107 r.busy && Nat.blt (2 * r.oks) r.dets

/-- The word `j` of the recommended mask of class `c` (R240). -/
def State.recMask (s : State) (c j : Nat) : Word :=
  (List.range 32).foldl (fun (m : Word) k =>
    let i := 32 * j + k
    let ok := if s.hopLen c ≤ i then true
      else
        let rs := s.slv.stats.filter (fun r => s.sliceClass (r.slice / 128) (r.slice % 128) == c &&
          chanAt (s.fld (F.RFPn_LINK_BAND (r.slice / 128))) c (s.hopSeq c i) (s.sliceCentre (r.slice / 128) (r.slice % 128)))
        rs.isEmpty || rs.any (fun r => !r.bad)
    if ok then m ||| (1#32 <<< k) else m) 0

/-- The one-second window of R136 that runs now: whole multiples of the nominal frequency in GCN. -/
def State.secondNow (s : State) : Nat := gcn s.gtb.gt / (s.nomFreq / 1000)

/-- The statistics window of R157 that runs now: STATPER seconds, aligned to multiples of STATPER × the nominal frequency in GCN. -/
def State.statWindow (s : State) : Nat := gcn s.gtb.gt / (s.fld F.DMX_CFG_STATPER * (s.nomFreq / 1000))

/-- STAT_WINDOW_END (R157, R240): where GCN has passed the end of a window, one record for each monitored slice goes to SLV, source 71;
SLV recomputes the recommended masks, source 128 where they change. -/
def execStatWindowEnd (t : Time) (s : State) : Host.Outcome State Fault Refusal :=
  let s0 := s.at t
  let recs := s0.statSlices.map s0.statRec
  let s1 := { s0 with dmx := { s0.dmx with winFt := t.ft, win := s0.statWindow, stats := s0.dmx.stats.mapv (fun _ z =>
    { since := z.since.map (fun _ => t.ft) }) } }
  let s2 := s1.fire 71
  .next (s.whenLive 1 (if s0.statWindow = s0.dmx.win then s0
  else if s2.domReady 15 then
    let s3 := { s2 with slv := { s2.slv with stats := recs } }
    let cs := (List.range 4).filter (fun c => s3.hopLen c != 0)
    let s4 := cs.foldl (fun u c => (List.range 4).foldl (fun w j => w.setReg (Reg.SLV_MRECcj c j) (s3.recMask c j)) u) s3
    s4.fireIf (cs.any (fun c => (List.range 4).any (fun j => s4.reg (Reg.SLV_MRECcj c j) != s3.reg (Reg.SLV_MRECcj c j)))) 128
  else s2))

end Sys2Proof.Machine
end

