-- ==== Sys2Proof/Machine/Prc.lean ====
section
/-! DEFINITION. PRC (chapter 17): the work of a processor on the packets of its queues, learning hints, the RPL root. What
the firmware computes (RFC 6282 and RFC 6554 header work) comes with the command. -/

namespace Sys2Proof.Machine

/-- An activation pause runs (R353): in PAUSE from the quiesce request, once the bank's TRIAL record is written. -/
def State.pausing (s : State) : Bool := s.fld F.UPD_STATUS_STATE == 6 && s.upd.waits.isNone

/-- Does processor `p` run firmware, outside an activation pause (R353) and a debug halt (R339)? -/
def State.prcRuns (s : State) (p : Nat) : Bool :=
  bit (s.fld F.PRC_STATUS_RUN) p && (!s.pausing && !s.sup.prcHalt.contains p)

/-- May processor `p` serve PRC queue `q` (R360, R428)? -/
def State.prcServes (s : State) (p q : Nat) : Bool :=
  let own := s.fld (F.PRC_QCFGq_PROC q)
  s.prcRuns p && (own == p || s.on (F.PRC_QCFGq_SHARE q)
    || (bit (s.fld F.PRC_STATUS_HELD) own && (List.range 4).find? (fun i => s.prcRuns i) == some p))

/-- The address a context and an interface identifier form (RFC 6282): the prefix's bits, then the identifier's. -/
def ctxAddr (pfx len iid : Nat) : Nat := maskKey pfx (min len 128) + iid % 2 ^ (128 - min len 128)

/-- The interface identifier of an EUI-64: its U/L bit inverted. -/
def iidOf (eui : Nat) : Nat := eui ^^^ 2 ^ 57

/-- The hint is DIRECT (R361): the source is formed from a valid context and the sender's EUI-64. -/
def State.hintDirect (s : State) (src eui : Nat) : Bool :=
  (List.range 16).any (fun c => s.on (F.PRC_CTXcLEN_VALID c) &&
    src == ctxAddr (beNat (s.octRun (Reg.PRC_CTXc_w c 0) 4)) (s.fld (F.PRC_CTXcLEN_LEN c)) (iidOf eui))

/-- Set the learning hint of a packet from a class S frame (R361). -/
def State.setHint (s : State) (start : Nat) (p : Pkt) (src : Nat) : State :=
  let put := fun (t : State) (h : Hint) => t.updPkt start (fun x => { x with info := { x.info with hint := some h } })
  match p.src, p.info.eui with
  | 0, some eui =>
    if src / 2 ^ 118 = 0x3FA then s
    else if s.hintDirect src eui then (put s .direct).bump Ctr.PRC_HINTD
    else match s.prcQueue 2 with
      | some q => (put s (.relayed q)).bump Ctr.PRC_HINTR
      | none => s
  | _, _ => s

/-- A packet could not be decompressed (R360): FILTER; source 242 at the threshold. -/
def State.decFail (s : State) (start : Nat) : State :=
  let n := s.prc.decFails + 1
  let s1 := { s.bump Ctr.PRC_DECFAIL with prc := { s.prc with decFails := n } }
  (s1.endPkt start (.drop 7)).fireIf (n == s.fld F.PRC_THR_DECTHR) 242

/-- A packet whose hop limit is spent (R260). -/
def State.hopLimit (s : State) (start : Nat) : State := ((s.bump Ctr.PRC_HOPLIM).endPkt start (.drop 10)).fire 246

/-- The hop limit of an IPv6 packet. -/
def hops (l : List Octet) : Nat := leNat (slice l 7 1)

/-- The packet with its hop limit one lower. -/
def lessHop (l : List Octet) : List Octet := listSet l 7 (BitVec.ofNat 8 (hops l - 1))

/-- Put new octets into a packet (R260): in its chain where they fit, else as a new packet of source 7 while the old one ends
as delivered. Answers the packet that goes on, if any. -/
def State.remake (s : State) (start : Nat) (p : Pkt) (data : List Octet) : Option Nat × State :=
  if cellsFor data.length ≤ p.cells.length then (some start, s.updPkt start (fun x => { x with data := data }))
  else if 9216 < data.length then (none, s.endPkt start (.drop 7))
  else (s.endPkt start .deliv).acceptPkt 7 (cellsFor data.length) data (.init .prc) p.info

/-- Compress and push onto the neighbour queue of `node` (R360); without a record it ends NOROUTE. -/
def State.toNode (s : State) (start : Nat) (p : Pkt) (node : Nat) (frame : List Octet) : State :=
  match s.nodeRec node with
  | none => s.endPkt start (.drop 1)
  | some (r, _) =>
    match s.remake start p frame with
    | (some st, t) => (t.bump Ctr.PRC_COMP).pushPkt r (.hw 23 0) st
    | (none, t) => t

/-- A route follows the parent sets (R362): from a neighbour of this device, each next node has the one before as parent. -/
def State.routeOk (s : State) : List Nat → Bool
  | [] => false
  | [n] => (s.nodeRec n).isSome
  | a :: b :: l => (s.nodeRec a).isSome && hopsOk s (a :: b :: l)
where
  hopsOk (s : State) : List Nat → Bool
    | a :: b :: l => (s.prc.parents.getD' b []).contains a && hopsOk s (b :: l)
    | _ => true

/-- A DAO stores a parent set of up to three parents, or is refused at capacity (R362). -/
def State.daoIn (s : State) (node : Nat) (parents : List Nat) : State :=
  let s1 := s.bump Ctr.PRC_DAO
  if (s.prc.parents.find node).isSome || Nat.blt s.prc.parents.length 262144 then
    { s1 with prc := { s1.prc with parents := s1.prc.parents.put node (parents.take 3) } }
  else (s1.bump Ctr.PRC_DAOFULL).fire 243

/-- The firmware passes a link record to SLV with the LINK command (R226, R362). -/
def State.prcLink (s : State) (rq : Req) (l : LinkCmd) : State :=
  let t := if s.barred rq Reg.SLV_CMD none = none then s.setRegs (Reg.SLV_DATAw 0) (packWords 8 l.data) else s
  t.slvWrite rq 5 l.node l.tag

/-- The work on packet `st` of a queue of kind `w` (R360), by a processor whose accesses carry `rq`. -/
def State.prcWork (s : State) (rq : Req) (w st : Nat) (p : Pkt) (work : PrcWork) : State :=
  if 9 ≤ w then s.endPkt st (.drop 7)
  else match w, work with
    | 0, .uplink none => s.decFail st
    | 0, .uplink (some l) =>
      let s1 := s.bump Ctr.PRC_DECOMP
      if hops l ≤ 1 then s1.hopLimit st
      else
        let s2 := (s1.updPkt st (fun x => { x with data := lessHop l })).setHint st p (beNat (slice l 8 16))
        { s2 with qmg := { s2.qmg with intake := s2.qmg.intake ++ [st] } }
    | 1, .downlink frame =>
      if p.src ≠ 0 ∧ p.src ≠ 1 ∧ hops p.data ≤ 1 then s.hopLimit st
      else match p.info.node with
        | some n => s.toNode st p n frame
        | none => s.endPkt st .deliv
    | 2, .relayed route frame =>
      if p.src ≠ 0 ∧ p.src ≠ 1 ∧ hops p.data ≤ 1 then s.hopLimit st
      else if s.routeOk route then (s.bump Ctr.PRC_SRCRT).toNode st p (route.headD 0) frame
      else s.endPkt st (.drop 7)
    | 4, .rpl dao links =>
      (links.foldl (fun (u : State) l => u.prcLink rq l) (dao.elim s (fun d => s.daoIn d.1 d.2))).endPkt st .deliv
    | _, _ => s.endPkt st .deliv

/-- A debugger halts processor `p` (R339): source 5. -/
def State.haltPrc (s : State) (p : Nat) : State :=
  ({ s with sup := { s.sup with prcHalt := p :: s.sup.prcHalt.filter (fun x => x != p),
                                haltWait := s.sup.haltWait.filter (fun x => x != p) } }).fire 5

/-- A processor runs in a context (R331): its data accesses meet the regions' worlds (R336), and a halt that its secure context
deferred takes place where it leaves it (R339). -/
def State.prcEnter (s : State) (c : PrcCtx) : State :=
  let p := c.proc
  let s1 := s.setFld F.PRC_STATUS_SECCTX (setBit (s.fld F.PRC_STATUS_SECCTX) p c.secure)
  let s2 := if !c.secure && s1.sup.haltWait.contains p then s1.haltPrc p else s1
  if s2.sup.prcHalt.contains p then s2
  else c.accs.foldl (fun u a =>
    if u.tagFaults c.secure a.region then u.xwFault { init := .prc, prcSecure := c.secure } a.region 23 a.addr a.wr else u) s2

/-- PRC_PACKET (R360): a processor that serves the queue takes the packet at its head and does the queue's work. -/
def execPrcPacket (t : Time) (q : Nat) (ctx : PrcCtx) (work : PrcWork) (s : State) : Host.Outcome State Fault Refusal :=
  let s1 := s.at t
  let s0 := if s1.prcRuns ctx.proc then s1.prcEnter ctx else s1
  .next (if !(Nat.blt q 16 && s0.prcServes ctx.proc q) then s0
    else match s0.takePkt (65584 + q) (.init .prc) with
      | (none, u) => u
      | (some st, u) =>
        match u.qmg.pkts.find st with
        | none => u
        | some p => u.prcWork { init := .prc, prcSecure := ctx.secure } (u.fld (F.PRC_QCFGq_WORK q)) st p work)

/-- Trickle starts anew, at Imin. -/
def State.trickleStart (s : State) : State := { s with prc := { s.prc with trickle := 0, trickleFt := s.gtb.ft } }

/-- The trickle interval in µs: 2^IMIN ms, doubled `trickle` times (R362). -/
def State.trickleLen (s : State) : Nat := 1000 * 2 ^ (s.fld F.PRC_RPLCFG_IMIN + s.prc.trickle)

/-- The octets of a DIO (R362): its base object with the instance, the version, mode of operation 1 and the DODAGID, then the DODAG
configuration with the doublings, Imin and objective function (PRESUMED: the layouts of RFC 6550, 6.3.1 and 6.7.6; log entry 155). -/
def State.dioOctets (s : State) (d : Dio) : List Octet :=
  d.head ++ leOctets 1 (s.fld F.PRC_RPLCFG_INSTANCE) ++ leOctets 1 (s.fld F.PRC_RPLVER_VERSION) ++ beOctets 2 d.rank
  ++ leOctets 1 (128 * b2n d.grounded + 8 + d.prf % 8) ++ leOctets 1 d.dtsn ++ [0, 0] ++ s.octRun (Reg.PRC_RPLIDk 0) 4
  ++ [4, 14, 0] ++ leOctets 1 (s.fld F.PRC_RPLCFG_DOUBL) ++ leOctets 1 (s.fld F.PRC_RPLCFG_IMIN) ++ leOctets 1 d.redun
  ++ beOctets 2 d.maxInc ++ beOctets 2 d.minInc ++ beOctets 2 (s.fld F.PRC_RPLCFG_OCP) ++ [0] ++ leOctets 1 d.life
  ++ beOctets 2 d.unit ++ d.rest

/-- TRICKLE_TIMER (R362): in the second half of the interval the firmware sends a DIO, a packet of its own; the next interval is twice as
long, after at most DOUBL doublings (PRESUMED: where the timer of RFC 6206 fires; log entry 155). -/
def execTrickleTimer (t : Time) (dio : Dio) (s : State) : Host.Outcome State Fault Refusal :=
  let s0 := s.at t
  let l := s0.trickleLen
  .next (if s0.fld F.PRC_STATUS_RUN = 0 ∨ s0.gtb.ft < s0.prc.trickleFt + l / 2 then s0
    else
      let n := min (s0.prc.trickle + 1) (s0.fld F.PRC_RPLCFG_DOUBL)
      let d := s0.dioOctets dio
      (({ s0 with prc := { s0.prc with trickle := n, trickleFt := max s0.gtb.ft (s0.prc.trickleFt + l) } }).acceptPkt 7
        (cellsFor d.length) d (.init .prc) { kind := 7 }).2.bump Ctr.PRC_DIO)

/-- RPL_REPAIR (R362): the DODAG version rises, trickle starts again at Imin, source 244 fires. -/
def execRplRepair (rq : Req) (s : State) : Host.Outcome State Fault Refusal :=
  .next (s.gated rq Reg.PRC_RPLCMD 1 (fun t =>
    (t.trickleStart.setFld F.PRC_RPLVER_VERSION (t.fld F.PRC_RPLVER_VERSION + 1)).fire 244))

end Sys2Proof.Machine
end

