-- ==== Sys2Proof/Machine/Csc.lean ====
section
/-! DEFINITION. CSC (chapter 18): the port state machine, routes, rerouting, arriving frames, presence, roles, commands. -/

namespace Sys2Proof.Machine

/-! ### Routes (R370, R371) -/

/-- The chip's fabric address (R370). -/
def State.fabric (s : State) : Nat := s.fld F.CSC_STATUS_ADDR

/-- The device ID as a number. -/
def State.devNum (s : State) : Nat := leNat s.deviceId

/-- The UP ports of this chip with peer address and peer port. -/
def State.upLinks (s : State) : List (Nat × Nat × Nat) :=
  (List.range 4).filterMap (fun n =>
    if s.portUp n then some (n, s.fld (F.CSC_PnSTAT_PEER n), s.fld (F.CSC_PnSTAT_PEERPORT n)) else none)

/-- The addresses that address `a` lists as peers. -/
def State.peersOf (s : State) (a : Nat) : List Nat :=
  if a = s.fabric then s.upLinks.map (fun x => x.2.1)
  else ((s.csc.lsas.find a).elim [] (fun l => l.links)).map (fun x => x.2.1)

/-- Distance that stands for no path. -/
def noPath : Nat := 99

/-- Distances of addresses 0 to 31 to `d`, by rounds of relaxation. -/
def State.distances (s : State) (d : Nat) : Nat → List Nat
  | 0 => (List.range 32).map (fun a => if a = d then 0 else noPath)
  | k + 1 =>
    let l := s.distances d k
    (List.range 32).map (fun a => (s.peersOf a).foldl (fun m b => min m (l.getD b noPath + 1)) (l.getD a noPath))

/-- The word of CSC_RTd (R371): primary port on a shortest path, backup port whose peer does not lead back here. -/
def State.routeWord (s : State) (d : Nat) : Nat :=
  let l := s.distances d 32
  let me := s.distances s.fabric 32
  let up := s.upLinks
  let own := up.foldl (fun m x => min m (l.getD x.2.1 noPath + 1)) noPath
  if d = s.fabric ∨ 31 ≤ d ∨ noPath ≤ own then 0
  else match up.find? (fun x => l.getD x.2.1 noPath + 1 == own) with
    | none => 0
    | some p =>
      match up.find? (fun x => x.1 != p.1 && (Nat.blt (l.getD x.2.1 noPath) noPath && Nat.blt (l.getD x.2.1 noPath) (me.getD x.2.1 noPath + own))) with
      | some b => p.1 + 4 + 8 * b.1 + 32 + 64 * min own 15
      | none => p.1 + 4 + 64 * min own 15

/-- The port of a destination's primary route, where it is UP. -/
def State.primary (s : State) (d : Nat) : Option Nat :=
  if s.routed d && s.portUp (s.fld (F.CSC_RTa_PRI d)) then some (s.fld (F.CSC_RTa_PRI d)) else none

/-! ### Presence, quorum and roles (R376 to R380) -/

/-- The present chips whose acting role is anchor, with their epochs. -/
def State.anchors (s : State) : List (Nat × Nat) :=
  s.csc.peers.filterMap (fun e => if e.2.2.act = 1 then some (e.1, e.2.2.epoch) else none)

/-- The acting anchor that prevails: highest epoch, then lowest ID (R380). -/
def State.bestAnchor (s : State) : Option (Nat × Nat) :=
  s.anchors.foldl (fun (b : Option (Nat × Nat)) x => match b with
    | none => some x
    | some y => if y.2 < x.2 then some x else b) none

/-- The configured IDs `reach` are a quorum (R379): more than half of NCHIP, or half of it with the configured standby anchor. -/
def State.quorumOf (s : State) (reach : Nat) : Bool :=
  let ids := (List.range 16).filter (fun i => bit reach i)
  let standby := ids.any (fun i => if i = s.fld F.CSC_CFG_CHIPID then s.fld F.CSC_CFG_ROLE == 2
    else (s.csc.peers.find i).any (fun e => e.2.role == 2))
  decide (s.fld F.CSC_CFG_NCHIP < 2 * ids.length) || (2 * ids.length == s.fld F.CSC_CFG_NCHIP && standby)

/-- The configured IDs that this chip reaches, its own included once the lock has given it one (R370, R379). -/
def State.reachIds (s : State) : Nat :=
  let r := (s.reg Reg.CSC_REACH).toNat % 65536
  if s.mapLocked && !bit r (s.fld F.CSC_CFG_CHIPID) then r + 2 ^ s.fld F.CSC_CFG_CHIPID else r

/-- This chip has quorum (R379), as CSC_STATUS.QUORUM shows. -/
def State.quorum (s : State) : Bool := s.mapLocked && s.quorumOf s.reachIds

/-- This chip's acting role changes (R380). -/
def State.setRole (s : State) (r : Nat) : State :=
  if s.fld F.CSC_STATUS_ACTROLE = r then s
  else ((s.setFld F.CSC_STATUS_ACTROLE r).bump Ctr.CSC_TAKEOVER).fire 197

/-- The acting anchor assigns a node's home (R377): a HOME frame to every present chip, and its own firmware is told. -/
def State.sendHome (s : State) (node : Nat) : State :=
  let h := s.homeOf node
  let s1 := s.csc.peers.foldl (fun (u : State) p => match u.primary p.1 with
    | some n => u.ctlSend n p.1 u.fabric (.home node h)
    | none => u) s
  ({ s1 with csc := { s1.csc with homes := s1.csc.homes.put node h } }).tell (.home node h)

/-- This chip is acting anchor in CASCADE mode (R376). -/
def State.leads (s : State) : Bool := s.fld F.CSC_STATUS_ACTROLE == 1 && s.on F.CSC_STATUS_MODE

/-- The assignments that have changed since they were sent (R377). -/
def State.homesOut (s : State) : State :=
  if s.leads then
    s.slv.dem.foldl (fun (u : State) (e : Nat × DemRec) => if u.csc.homes.find e.1 = some (u.homeOf e.1) then u else u.sendHome e.1) s
  else s

/-- Every assignment, for a chip that appears (R377). -/
def State.homesTo (s : State) (chip : Nat) : State :=
  if s.leads then
    s.slv.dem.foldl (fun (u : State) (e : Nat × DemRec) => match u.primary chip with
      | some n => u.ctlSend n chip u.fabric (.home e.1 (u.homeOf e.1))
      | none => u) s
  else s

/-- This chip becomes acting anchor with the next epoch (R380): it holds the master copy and assigns the homes (R377); a standby that takes
over queues a SOLVE then. -/
def State.becomeAnchor (s : State) (solve : Bool) : State :=
  let s1 := (s.setFld F.CSC_EPOCH_EPOCH (s.fld F.CSC_EPOCH_EPOCH + 1)).setRole 1
  let s2 := s1.setFlag F.SLV_STATUS_MASTER true
  let s3 := s2.slv.dem.foldl (fun (t : State) (e : Nat × DemRec) => t.sendHome e.1) s2
  if solve && s3.domReady 15 then s3.slvOwnSolve else s3

/-- The role rules of R380, after presence, epochs or quorum have changed. -/
def State.roleRules (s : State) : State :=
  let act := s.fld F.CSC_STATUS_ACTROLE
  let role := s.fld F.CSC_CFG_ROLE
  let epoch := s.fld F.CSC_EPOCH_EPOCH
  match s.bestAnchor with
  | some (a, e) =>
    if act = 1 then
      if epoch < e ∨ (epoch = e ∧ a < s.fabric) then
        let s1 := (s.solveAbort).setFlag F.SLV_STATUS_MASTER false
        (s1.setRole (if s1.on F.CSC_STATUS_MIRROR then 2 else 3)).setFld F.CSC_EPOCH_EPOCH e
      else s
    else (s.setFld F.CSC_EPOCH_EPOCH (max e epoch)).setRole (if role = 1 ∨ role = 2 then 2 else 3)
  | none =>
    if s.quorum && !s.csc.listening && ((act == 2) || (act != 1 && role == 1)) then s.becomeAnchor (act == 2) else s

/-- The anchor gives a chip its cells from the master copy (R383), in frames of up to 1,008 octets (R376). -/
def State.restoreTo (s : State) (chip : Nat) : State :=
  let cells := ((s.slv.master.getD' chip []).filter (fun x => x.node.isSome)).map (fun x => x.cell)
  if s.leads && !cells.isEmpty then s.schedTo chip ((pieces 126 cells cells.length).map .restore) else s

/-- The anchor gives a new standby the whole of its master copy (R241). -/
def State.mirrorTo (s : State) (chip : Nat) : State :=
  if s.on F.SLV_STATUS_MASTER then
    (s.slv.master.foldl (fun (u : State) e => u.schedTo chip (mirrorFrames e.1 e.2 false))
      (s.slv.known.foldl (fun (u : State) e => u.schedTo chip (nodeFrames e.1 e.2.1 e.2.2)) s)).schedTo chip
      (mirrorFrames (s.fld F.CSC_CFG_CHIPID) s.ownPlanned true)
  else s

/-- CASCADE mode begins (R241, R383): this anchor gives every present chip its cells, and the standby its copy; a member that holds cells
sends them to the master copy. -/
def State.modeBegins (s : State) : State :=
  if s.leads then s.csc.peers.foldl (fun (u : State) e => (if e.2.2.act = 2 then u.mirrorTo e.1 else u).restoreTo e.1) s
  else if s.domReady 15 && !s.msq.cells.isEmpty then s.copyCells else s

/-- Roles, mode and time authority after a change (R376, R379, R380): source 198 when CASCADE mode ends. -/
def State.cscRoles (s : State) : State :=
  if s.fld F.CSC_CFG_ROLE = 0 ∨ s.mapLocked = false then s
  else
    let s1 := s.roleRules
    let best := s1.bestAnchor
    let own := s1.fld F.CSC_STATUS_ACTROLE == 1
    let mode := (own && s1.quorum) || (!own && best.any (fun x => (s1.csc.peers.find x.1).any (fun y => s1.quorumOf y.2.reach)))
    let was := s1.on F.CSC_STATUS_MODE
    let anchor := if own then s1.fabric else best.elim 31 (fun x => x.1)
    let s1' := if anchor = s1.fld F.CSC_STATUS_ANCHOR then s1 else { s1 with slv := { s1.slv with told := (0, []) } }
    let s2 := (s1'.setFlag F.CSC_STATUS_MODE mode).setFld F.CSC_STATUS_ANCHOR anchor
    let lost := if own && !s1.quorum then some (s1.csc.noQuorum.getD s1.gtb.ft) else none
    let s3 := ({ s2 with csc := { s2.csc with noQuorum := lost } }).fireIf (was && !mode) 198
    let s4 := if s3.noAnchor then s3.joinAnswer 4 none else s3
    let s5 := if mode && !was then s4.modeBegins else s4
    let valid := mode && (!own && best.any (fun x => (s5.csc.peers.find x.1).any (fun y => y.2.valid)))
    if valid then s5 else if s5.gtb.anchorValid then (s5.setAnchor false 0 0 (s5.fresh % 2 ^ 64)).nextFree else s5

/-- UPD's record of another chip (R352): presence and generation. -/
def State.updPeer (s : State) (k : Nat) (x : Option CscStat) : State :=
  if 16 ≤ k then s
  else
    let st := match x with
      | none => 0
      | some y => if y.inTrial then 3 else if y.gen.isSome then 2 else 1
    let w := s.fld F.UPD_PEERSTAT_ST
    let w1 := w - w / 4 ^ k % 4 * 4 ^ k + st * 4 ^ k
    (s.setFld F.UPD_PEERSTAT_ST w1).setReg (Reg.UPD_PEERGENk k) (BitVec.ofNat 32 (x.elim 0 (fun y => y.gen.getD 0)))

/-- No other chip is present any more (R352, R376). -/
def State.dropPeers (s : State) : State :=
  let s1 := s.csc.peers.foldl (fun (u : State) e => u.updPeer e.1 none) s
  { s1 with csc := { s1.csc with peers := [] } }

/-! ### Rerouting (R372) -/

/-- Put a packet on the queue of its class at port `n`. -/
def State.toPort (s : State) (n start : Nat) : State :=
  match s.qmg.pkts.find start with
  | none => s
  | some p => s.pushPkt (cscQueue n p.info.cls) (.hw 15 n) start

/-- A packet waits without a port for 1 ms. -/
def State.holdPkt (s : State) (start : Nat) : State :=
  { s with csc := { s.csc with held := s.csc.held ++ [(start, s.gtb.ft + 1000)] } }

/-- A control frame waits without a port for 1 ms. -/
def State.holdCtl (s : State) (f : CscFrame) : State :=
  { s with csc := { s.csc with heldCtl := s.csc.heldCtl ++ [(f, s.gtb.ft + 1000)] } }

/-- The backup port of address `d`, where it is UP and not `n`. -/
def State.backup (s : State) (n d : Nat) : Option Nat :=
  let b := s.fld (F.CSC_RTa_BAK d)
  if s.on (F.CSC_RTa_BAKV d) && (b != n && s.portUp b) then some b else none

/-- A packet of a port that left UP: to the backup port with REROUTED set; one rerouted before is held; none of these: false. -/
def State.reroute (s : State) (n start : Nat) : Bool × State :=
  match s.qmg.pkts.find start with
  | none => (true, s)
  | some p =>
    if p.info.flag then (true, s.holdPkt start)
    else match s.backup n p.info.chip with
      | some b => (true, ((s.updPkt start (fun x => { x with info := { x.info with flag := true } })).bump Ctr.CSC_REROUTE).toPort b start)
      | none => (false, s)

/-- A control frame of a port that left UP, as `reroute` does for packets; what goes to the link peer alone ends with the link. -/
def State.rerouteCtl (s : State) (n : Nat) (f : CscFrame) : Bool × State :=
  if f.dst = 31 then (true, s)
  else if f.rer then (true, s.holdCtl f)
  else match s.backup n f.dst with
    | some b => (true, (s.ctlFrame b { f with rer := true }).bump Ctr.CSC_REROUTE)
    | none => (false, s)

/-- A packet left without a backup, once routes are recomputed: its new primary port, or NOROUTE. -/
def State.replace (s : State) (start : Nat) : State :=
  match s.qmg.pkts.find start with
  | none => s
  | some p =>
    match s.primary p.info.chip with
    | some n => s.toPort n start
    | none => if s.routed p.info.chip then s.holdPkt start else s.cscNoRoute start

/-- A control frame left without a backup, once routes are recomputed: its new primary port, or its end. -/
def State.replaceCtl (s : State) (f : CscFrame) : State :=
  match s.primary f.dst with
  | some n => s.ctlFrame n f
  | none => if s.routed f.dst then s.holdCtl f else s

/-- Take every whole packet off the queues of port `n`, highest class first. -/
def State.stripPort (s : State) (n : Nat) : List Nat × State :=
  [7, 6, 5, 4, 3, 2, 1, 0].foldl (fun (r : List Nat × State) c =>
    (List.range (r.2.queue (cscQueue n c)).cells.length).foldl (fun (a : List Nat × State) _ =>
      match a.2.takePkt (cscQueue n c) (.hw 15 n) with
      | (some st, t) => (a.1 ++ [st], t)
      | (none, t) => (a.1, t)) r) ([], s)

/-- A temporary address is out of reach since now (R370): another's without a route, this chip's own with no port UP. -/
def State.tempsGone (s : State) (reach : Nat) : State :=
  let own := if 16 ≤ s.fabric ∧ s.fabric ≠ 31 ∧ s.upLinks.isEmpty = true then [s.fabric] else []
  let out := (s.csc.temps.map (fun e => e.1)).filter (fun a => a != s.fabric && !bit reach a) ++ own
  { s with csc := { s.csc with gone := out.foldl (fun (g : Tab Nat) a => g.put a ((s.csc.gone.find a).getD s.gtb.ft)) [] } }

/-- Recompute routes and reachability (R371): source 196 when a route changed; what is held and has an UP port again goes; quorum and roles
follow (R379, R380). -/
def State.cscRoutes (s : State) : State :=
  let ws := (List.range 32).map (fun d => s.routeWord d)
  let changed := (List.range 32).any (fun d => s.reg (Reg.CSC_RTa d) != BitVec.ofNat 32 (ws.getD d 0))
  let s1 := (List.range 32).foldl (fun (t : State) d => t.setReg (Reg.CSC_RTa d) (BitVec.ofNat 32 (ws.getD d 0))) s
  let reach := (List.range 32).foldl (fun m d => if d = s.fabric ∨ bit (ws.getD d 0) 2 = true then m + 2 ^ d else m) 0
  let s2 := ((s1.setReg Reg.CSC_REACH (BitVec.ofNat 32 reach)).fireIf changed 196).tempsGone reach
  let go := s2.csc.held.filter (fun x => (s2.qmg.pkts.find x.1).any (fun p => (s2.primary p.info.chip).isSome))
  let goCtl := s2.csc.heldCtl.filter (fun x => (s2.primary x.1.dst).isSome)
  let s3 := { s2 with csc := { s2.csc with held := s2.csc.held.filter (fun x => !go.contains x),
                                           heldCtl := s2.csc.heldCtl.filter (fun x => !goCtl.contains x) } }
  (goCtl.foldl (fun (t : State) x => t.replaceCtl x.1) (go.foldl (fun (t : State) x => t.replace x.1) s3)).cscRoles

/-- Flood an LSA on every UP port but `but` (R371). -/
def State.floodLsa (s : State) (org : Nat) (l : CscLsa) (but : Nat) : State :=
  s.upLinks.foldl (fun (t : State) x => if x.1 = but then t else t.ctlSend x.1 31 org (.lsa org l)) s

/-- Flood this chip's LSA. -/
def State.ownLsa (s : State) : State :=
  let l : CscLsa := { seq := s.csc.lsaSeq % 2 ^ 32, dev := s.devNum, links := s.upLinks }
  ({ s with csc := { s.csc with lsaSeq := s.csc.lsaSeq + 1 } }).floodLsa s.fabric l 4

/-- The fabric address of a device becomes known (R370): PEER of the ports that lead to it, and with it this chip's LSA. -/
def State.peerAddr (s : State) (dev a : Nat) : State :=
  let ps := (List.range 4).filter (fun n => s.portUp n && ((s.cport n).peerDev == dev && s.fld (F.CSC_PnSTAT_PEER n) != a))
  if ps.isEmpty then s else (ps.foldl (fun (t : State) n => t.setFld (F.CSC_PnSTAT_PEER n) a) s).ownLsa

/-! ### Port states (R364) -/

/-- Port `n` in TRAINING with block lock sends its HELLO (R364, R366, R367): with a fresh value of the DRBG, which gives none while DRBGOK
is 0 (R323), and on a protected port under GMAC with the slot key and a nonce of the DRBG, without which none is sent. -/
def State.sendHello (s : State) (n : Nat) : State :=
  let body := fun (rand nonce : Nat) => CscBody.hello (s.fld F.CSC_CFG_CASCID) s.devNum s.fabric n rand nonce
  let head := fun (b : List Octet) => cscHeader 3 false 0 31 s.fabric b.length (s.cport n).txSeq (s.cport n).rxSeq 0
  let ok := s.on F.CRY_STATUS_DRBGOK
  let rand := s.fresh % 2 ^ 128
  let s1 := if ok then s.drbgDraw else s.nextFree
  if s.on (F.CSC_PnCFG_SEC n) then
    match s1.keyRequest (.cascade n) (s1.fld (F.CSC_PnCFG_KEYSLOT n)), ok with
    | (some k, u), true =>
      let nonce := u.fresh % 2 ^ 96
      let b := Config.cscOctets (body rand nonce)
      let u1 := u.drbgDraw
      let l := head b ++ b
      u1.setCport n { u1.cport n with rand := some rand, hello := l ++ (gcmSeal (leOctets 32 k.key) (leOctets 12 nonce) l []).2 }
    | (_, u), _ => u.setCport n { u.cport n with rand := none, hello := [] }
  else
    let b := Config.cscOctets (body rand 0)
    s1.setCport n { s1.cport n with rand := if ok then some rand else none, hello := cscLine false [] [] (head b) b }

/-- Port `n` is in TRAINING again (R364): with block lock it sends its HELLO. -/
def State.portTrain (s : State) (n : Nat) : State :=
  let s1 := s.setFld (F.CSC_PnSTAT_STATE n) 1
  if (s1.cport n).lock then s1.sendHello n else s1

/-- The packets `pkts` of port `n` go to their backup ports; the answer lists those without one. -/
def State.reroutePkts (s : State) (n : Nat) (pkts : List Nat) : List Nat × State :=
  pkts.foldl (fun (a : List Nat × State) st =>
    let x := a.2.reroute n st
    (if x.1 then a.1 else a.1 ++ [st], x.2)) ([], s)

/-- The control frames `fs` of port `n` go to their backup ports; the answer lists those without one. -/
def State.rerouteCtls (s : State) (n : Nat) (fs : List CscFrame) : List CscFrame × State :=
  fs.foldl (fun (a : List CscFrame × State) f =>
    let x := a.2.rerouteCtl n f
    (if x.1 then a.1 else a.1 ++ [f], x.2)) ([], s)

/-- Port `n` leaves UP for `dest` (R364, R369, R372): reported, its traffic rerouted, routes recomputed. -/
def State.portDown (s : State) (n dest : Nat) : State :=
  let p := s.cport n
  let s1 := s.setCport n { lock := p.lock && dest != 0, helloFt := p.helloFt }
  let s2 := ((s1.setFld (F.CSC_PnSTAT_STATE n) dest).setFld (F.CSC_PnSTAT_PEER n) 31).setFld (F.CSC_PnSTAT_PEERPORT n) 0
  let s3 := (s2.fire (192 + n)).reportNow 9 15 (192 + n) (192 + n)
  let r := s3.stripPort n
  let pkts := p.unacked.filterMap s.sentPkt ++ r.1
  let x := r.2.reroutePkts n pkts
  let y := x.2.rerouteCtls n (p.unacked.filter (fun f => f.body.typ != 0) ++ p.ctlQ)
  let s6 := y.2.ownLsa.cscRoutes
  let s7 := (y.1.foldl (fun (t : State) f => t.replaceCtl f) (x.1.foldl (fun (t : State) st => t.replace st) s6)).cscPump
  if dest = 1 then s7.portTrain n else s7

/-- Port `n` loses its link while UP (R364): counted in CSC_PnDOWN, then as above. -/
def State.portFail (s : State) (n : Nat) : State := (s.bump (Ctr.CSC_PnDOWN n)).portDown n 1

/-- Port `n` goes to state `dest` from any state (R364). -/
def State.portTo (s : State) (n dest : Nat) : State :=
  if s.portUp n then s.portDown n dest else if dest = 1 then s.portTrain n else s.setFld (F.CSC_PnSTAT_STATE n) dest

/-- Where EN and LOOP put port `n` (R364): DISABLED, or TRAINING from DISABLED; a solo chip enables none once the lock has made it one
(R375). -/
def State.portEnable (s : State) (n : Nat) : State :=
  if !s.on (F.CSC_PnCFG_EN n) || (s.on (F.CSC_PnCFG_LOOP n) || (s.mapLocked && s.fld F.CSC_CFG_ROLE == 0)) then s.portTo n 0
  else if s.fld (F.CSC_PnSTAT_STATE n) = 0 then
    (s.setFld (F.CSC_PnSTAT_STATE n) 1).setCport n { (s.cport n) with lock := false }
  else s

/-- PD_CSC starts (R383): every enabled port trains; the chip listens before it claims a role (R380). -/
def State.cscStart (s : State) : State :=
  let s0 := s.dropPeers
  let s1 := { s0 with csc := {} }
  (List.range 4).foldl (fun (t : State) n => t.portEnable n) s1

/-- The lock of R30 (R364, R370, R375): sessions end, every port trains again, the address is CHIPID; a solo chip enables none. -/
def State.cscLock (s : State) : State :=
  let s1 := (List.range 4).foldl (fun (t : State) n => if t.fld (F.CSC_PnSTAT_STATE n) = 0 then t else t.portTo n 1) s
  let s2 := (s1.setFld F.CSC_STATUS_ADDR (s1.fld F.CSC_CFG_CHIPID)).dropPeers
  let s3 := { s2 with csc := { s2.csc with lsas := [], temps := [], gone := [], asks := [], listening := true } }
  ((List.range 4).foldl (fun (t : State) n => t.portEnable n) s3).cscRoutes

/-- CSC_BLOCK_LOCK (R364): a port in TRAINING achieves block lock and sends its HELLO. -/
def execCscBlockLock (n : Nat) (s : State) : Host.Outcome State Fault Refusal :=
  .next (if s.domReady 19 && s.fld (F.CSC_PnSTAT_STATE n) == 1 && Nat.blt n 4 then
      (s.setCport n { (s.cport n) with lock := true }).sendHello n
    else s)

/-- CSC_LOCK_LOSS (R364): 1 µs without block lock. -/
def execCscLockLoss (t : Time) (n : Nat) (s : State) : Host.Outcome State Fault Refusal :=
  let s0 := s.at t
  .next (if !s0.domReady 19 || Nat.ble 4 n then s0
    else
      let s1 := s0.setCport n { (s0.cport n) with lock := false }
      if s1.portUp n then s1.portFail n else s1)

/-- CSC_RETX_TIMEOUT (R367): 2 µs without progress; the unacknowledged frames go again, and the fourth time in a row takes
the port down. -/
def execCscRetxTimeout (t : Time) (n : Nat) (s : State) : Host.Outcome State Fault Refusal :=
  let s0 := s.at t
  let p := s0.cport n
  .next (if !s0.domReady 19 || !s0.portUp n || p.unacked.isEmpty then s0
    else if 3 ≤ p.retx then s0.portFail n
    else (s0.setCport n { p with retx := p.retx + 1 }).resend n)

/-- CSC_FOREIGN_TIMEOUT (R364): 10 ms without HELLO. -/
def execCscForeignTimeout (t : Time) (n : Nat) (s : State) : Host.Outcome State Fault Refusal :=
  let s0 := s.at t
  .next (if s0.fld (F.CSC_PnSTAT_STATE n) = 3 ∧ (s0.cport n).helloFt + 10000 ≤ s0.gtb.ft then s0.portTrain n else s0)

/-- A frame fails its tag or CRC (R366): counted; source 200 for the first in a 1 s window. -/
def State.authFail (s : State) (n : Nat) : State :=
  ({ s.bump (Ctr.CSC_PnAUTHFAIL n) with csc := { s.csc with authSeen := true } }).fireIf (!s.csc.authSeen) 200

/-- The frame buffer found an error in a frame (R385): it is discarded, source 203. -/
def State.badFrame (s : State) : State := (s.fire 203).reportNow 5 15 203 203

/-- Ask for a temporary address (R370): before the lock, under address 31. -/
def State.askAddr (s : State) (n : Nat) : State :=
  if s.fabric = 31 ∧ s.mapLocked = false then s.ctlSend n 31 31 (.addr (.request s.devNum)) else s

/-- Port `n` reaches UP (R364, R367, R369, R370), with the session keys of a protected port: credits, counts and LSEQ start anew. -/
def State.portReady (s : State) (n : Nat) (h : CscHello) (keys : List Octet × List Octet) : State :=
  let s1 := s.setFld (F.CSC_PnSTAT_STATE n) 2
  let s2 := ((s1.setFld (F.CSC_PnSTAT_PEER n) h.addr).setFld (F.CSC_PnSTAT_PEERPORT n) h.port).setFld (F.CSC_PnSTAT_RTT n)
    (min h.rtt 65535)
  let s3 := s2.setCport n { lock := true, rand := (s2.cport n).rand, helloFt := s2.gtb.ft, peerDev := h.dev, keys := keys,
                            hello := (s2.cport n).hello }
  (((s3.fire (188 + n)).ownLsa.askAddr n).cscRoutes).cscPump

/-- The session keys of port `n` with the chip of a HELLO (R366): for what it sends, and for what it receives. -/
def State.sessionKeys (s : State) (rand : Nat) (h : CscHello) (k : KeySlot) : List Octet × List Octet :=
  if s.devNum < h.dev then (sessionKey k rand h.rand 0, sessionKey k rand h.rand 1)
  else (sessionKey k h.rand rand 1, sessionKey k h.rand rand 0)

/-- The trailer of a HELLO verifies (R366): the GMAC under the slot key `key`, or without one the CRC-32C. -/
def CscHello.verifies (h : CscHello) (key : Option KeySlot) : Bool :=
  let b := Config.cscOctets (.hello h.cascid h.dev h.addr h.port h.rand h.nonce)
  let l := cscHeader 3 false 0 31 h.addr b.length h.lseq h.ackseq 0 ++ b
  h.trailer == match key with
    | some k => (gcmSeal (leOctets 32 k.key) (leOctets 12 h.nonce) l []).2
    | none => leOctets 4 (crc32c l)

/-- A HELLO that verifies (R364): an equal CASCID brings a port in TRAINING with block lock UP with fresh keys, another makes it FOREIGN. -/
def State.helloIn (s : State) (n : Nat) (h : CscHello) (key : Option KeySlot) : State :=
  let s1 := s.setCport n { (s.cport n) with helloFt := s.gtb.ft }
  if s.fld (F.CSC_PnSTAT_STATE n) = 3 ∨ (s1.cport n).lock = false then s1
  else if h.cascid ≠ s1.fld F.CSC_CFG_CASCID then (s1.setFld (F.CSC_PnSTAT_STATE n) 3).fire 199
  else match key, (s1.cport n).rand with
    | none, _ => s1.portReady n h ([], [])
    | some k, some r => s1.portReady n h (s1.sessionKeys r h k)
    | some _, none => s1

/-- CSC_HELLO (R364, R366, R385): on a port in TRAINING or FOREIGN, checked as any frame; a protected port without its key stays in
TRAINING. -/
def execCscHello (t : Time) (n : Nat) (h : CscHello) (s : State) : Host.Outcome State Fault Refusal :=
  let s0 := s.at t
  let st := s0.fld (F.CSC_PnSTAT_STATE n)
  .next (if !s0.domReady 19 || Nat.ble 4 n || !(st == 1 || st == 3) then s0
    else if h.bad then s0.badFrame
    else if s0.on (F.CSC_PnCFG_SEC n) then
      match s0.keyRequest (.cascade n) (s0.fld (F.CSC_PnCFG_KEYSLOT n)) with
      | (some k, u) => if h.verifies (some k) then u.helloIn n h (some k) else u.authFail n
      | (none, u) => u
    else if h.verifies none then s0.helloIn n h none
    else s0.authFail n)

/-! ### Arriving frames (R365 to R368) -/

/-- The tag or CRC of an arriving frame is that of its octets (R366). -/
def State.frameOk (s : State) (n : Nat) (h : CscHdr) (typ cls oseq : Nat) (body : List Octet) : Bool :=
  let p := s.cport n
  h.trailer == cscTrailer (s.on (F.CSC_PnCFG_SEC n)) p.keys.2 (cscNonce p.rxCount)
    (cscHeader typ h.rerouted cls h.dst h.src body.length h.lseq h.ackseq oseq) body

/-- A frame arrives on port `n` at `t` (R366, R367, R385): one that the buffer spoiled or whose trailer is wrong is discarded; else the
frames it acknowledges end, and `k` goes on. -/
def State.cscArrive (s : State) (t : Time) (n : Nat) (h : CscHdr) (typ cls oseq : Nat) (body : List Octet) (k : State → State) : State :=
  let s0 := s.at t
  if !s0.domReady 19 || !s0.portUp n then s0
  else
    let s1 := s0.setCport n { s0.cport n with rxCount := (s0.cport n).rxCount + 1 }
    if h.bad then s1.badFrame
    else if !s0.frameOk n h typ cls oseq body then s1.authFail n
    else (k (s1.ackTo n h.ackseq)).cscPump

/-- A frame with an LSEQ (R367): accepted in order, then given to `k`. A control frame takes one of the port's buffers (R368). -/
def State.cscIn (s : State) (t : Time) (n : Nat) (h : CscHdr) (typ cls oseq : Nat) (body : List Octet) (k : State → State) : State :=
  s.cscArrive t n h typ cls oseq body (fun u =>
    let p := u.cport n
    if h.lseq ≠ p.rxSeq then u
    else k ((u.setCport n { p with rxSeq := (p.rxSeq + 1) % 65536,
                                   ctlCame := if typ = 0 then p.ctlCame else (p.ctlCame + 1) % 2 ^ 32 }).bump (Ctr.CSC_PnRXFRM n)))

/-- A control frame for another chip goes on along the primary route (R365, R371, R372); one rerouted before is held. -/
def State.ctlOn (s : State) (h : CscHdr) (body : CscBody) : State :=
  let f : CscFrame := { dst := h.dst, src := h.src, rer := h.rerouted, body := body }
  match s.primary h.dst with
  | some m => s.ctlFrame m f
  | none => if h.rerouted || s.routed h.dst then s.holdCtl f else s

/-- A control frame: for this chip given to `k`, for another sent on. -/
def State.cscCtl (s : State) (t : Time) (n : Nat) (h : CscHdr) (body : CscBody) (k : State → State) : State :=
  s.cscIn t n h body.typ 0 0 (Config.cscOctets body) (fun u => if h.dst = 31 ∨ h.dst = u.fabric then k u else u.ctlOn h body)

/-- Insert a value into the window of the 4,096 highest (R374). -/
def keepHighest (l : List Nat) (x : Nat) : List Nat :=
  let m := sortBy (fun a b => decide (a ≤ b)) (x :: l)
  m.drop (m.length - 4096)

/-- A DATA frame is accepted (R369, R370, R373, R374): duplicates, stale copies and what names a temporary address go; others enter QMG
under source 5. -/
def State.cscData (s : State) (n : Nat) (h : CscHdr) (cls oseq : Nat) (data : List Octet) : State :=
  let c := cellsFor data.length
  let p := s.cport n
  let s1 := s.setCport n { p with arrived := (p.arrived + c) % 2 ^ 32 }
  let w := s1.csc.seen.getD' h.src []
  if w.contains oseq then s1.bump Ctr.CSC_DUP
  else if 4096 ≤ w.length ∧ oseq < w.headD 0 then s1.bump Ctr.CSC_STALE
  else
    let s2 := { s1 with csc := { s1.csc with seen := s1.csc.seen.put h.src (keepHighest w oseq) } }
    let info : PktInfo := { kind := 5, port := n, cls := cls % 8, chip := h.dst, flag := h.rerouted, org := some (h.src, oseq) }
    if (16 ≤ h.dst ∧ h.dst ≠ 31) ∨ 16 ≤ s2.fabric then s2
    else match s2.acceptPkt 5 c data (.hw 15 n) info with
    | (none, t) => t
    | (some st, t) =>
      let t1 := t.bump Ctr.CSC_RXPKT
      if h.dst = t1.fabric ∨ h.dst = 31 then
        ({ t1 with qmg := { t1.qmg with intake := t1.qmg.intake ++ [st] } }).updPkt st (fun x =>
          { x with info := { x.info with org := none, flag := false } })
      else
        let t2 := t1.bump Ctr.CSC_TRANSIT
        match t2.primary h.dst with
        | some m => t2.toPort m st
        | none => if h.rerouted || t2.routed h.dst then t2.holdPkt st else t2.cscNoRoute st

/-- CSC_DATA (R367, R373, R374). -/
def execCscData (t : Time) (n : Nat) (h : CscHdr) (cls oseq : Nat) (data : List Octet) (s : State) :
    Host.Outcome State Fault Refusal :=
  .next (s.cscIn t n h 0 cls oseq data (fun u => u.cscData n h cls oseq data))

/-- CSC_ACK (R367). -/
def execCscAck (t : Time) (n : Nat) (h : CscHdr) (s : State) : Host.Outcome State Fault Refusal :=
  .next (s.cscArrive t n h 1 0 0 [] (fun u => u.bump (Ctr.CSC_PnRXFRM n)))

/-- CSC_CREDIT (R368, R369): the cumulative cells and control frames that the peer has granted. -/
def execCscCredit (t : Time) (n : Nat) (h : CscHdr) (g : CscGrant) (s : State) : Host.Outcome State Fault Refusal :=
  .next (s.cscArrive t n h 2 0 0 (Config.cscOctets (.credit g.cells g.ctl)) (fun u =>
    (u.setCport n { (u.cport n) with peerGrant := g.cells % 2 ^ 32, ctlGrant := g.ctl % 2 ^ 32 }).bump (Ctr.CSC_PnRXFRM n)))

/-- CSC_LSA (R370, R371): a newer LSA is kept and flooded on; the address of a device that it shows, and the end of a temporary one, become
known; a device of lower ID with our configured ID isolates us. -/
def execCscLsa (t : Time) (n : Nat) (h : CscHdr) (org : Nat) (l : CscLsa) (s : State) : Host.Outcome State Fault Refusal :=
  .next (s.cscCtl t n h (.lsa org l) (fun u =>
    if org = u.fabric then
      if l.dev < u.devNum ∧ u.mapLocked = true ∧ u.on F.CSC_STATUS_ISOLATED = false then
        ((u.setFlag F.CSC_STATUS_ISOLATED true).fire 199).drive
      else u
    else
      let newer := match u.csc.lsas.find org with
        | none => true
        | some o => decide (signed 32 ((l.seq + 2 ^ 32 - o.seq % 2 ^ 32) % 2 ^ 32) > 0)
      if newer then
        let old := if org < 16 then (u.csc.temps.filter (fun e => e.2 == l.dev)).map (fun e => e.1) else []
        let csc := { u.csc with lsas := (u.csc.lsas.put org l).filter (fun e => !old.contains e.1),
                                temps := u.csc.temps.filter (fun e => !old.contains e.1) }
        ((({ u with csc := csc }).floodLsa org l n).peerAddr l.dev org).cscRoutes
      else u))

/-! ### STATUS, and what goes out with it (R376, R383) -/

/-- CSC_STATUS (R376): the sender is present; source 202 when it was not; the highest epoch heard is adopted (R380). -/
def execCscStatus (t : Time) (n : Nat) (h : CscHdr) (x : CscStat) (s : State) : Host.Outcome State Fault Refusal :=
  .next (s.cscCtl t n h (.status x) (fun u =>
    let new := (u.csc.peers.find h.src).isNone
    let standby := x.act == 2 && (u.csc.peers.find h.src).all (fun y => y.2.act != 2)
    let u1 := { u with csc := { u.csc with peers := u.csc.peers.put h.src (u.gtb.ft, x) } }
    let u2 := if u1.fld F.CSC_STATUS_ACTROLE = 1 then u1 else u1.setFld F.CSC_EPOCH_EPOCH (max x.epoch (u1.fld F.CSC_EPOCH_EPOCH))
    let u3 := ((u2.updPeer h.src (some x)).fireIf new 202).cscRoles
    let u4 := if new then (u3.homesTo h.src).restoreTo h.src else u3
    if standby then u4.mirrorTo h.src else u4))

/-- PRESENCE_TIMEOUT (R376): no STATUS from a chip for 5 ms. -/
def execPresenceTimeout (t : Time) (chip : Nat) (s : State) : Host.Outcome State Fault Refusal :=
  let s0 := s.at t
  .next (match s0.csc.peers.find chip with
    | none => s0
    | some (last, _) =>
      if s0.gtb.ft < last + 5000 then s0
      else
        let s1 := { s0 with csc := { s0.csc with peers := s0.csc.peers.del chip } }
        ((s1.updPeer chip none).fire 202).cscRoles)

/-- QUORUM_LOSS_TIMEOUT (R380): the acting anchor has lacked quorum for 5 ms; the SOLVE ends ABORTED, the master copy stays. -/
def execQuorumLossTimeout (t : Time) (s : State) : Host.Outcome State Fault Refusal :=
  let s0 := s.at t
  .next (match s0.csc.noQuorum with
    | none => s0
    | some since =>
      if s0.fld F.CSC_STATUS_ACTROLE ≠ 1 ∨ s0.gtb.ft < since + 5000 ∨ s0.quorum = true then s0
      else (({ s0.solveAbort.setRole 0 with csc := { (s0.solveAbort.setRole 0).csc with noQuorum := none } })).cscRoles)

/-- START_LISTEN_END (R380): 5 ms of listening after a start are over. -/
def execStartListenEnd (t : Time) (s : State) : Host.Outcome State Fault Refusal :=
  let s0 := s.at t
  .next (if s0.domReady 19 then ({ s0 with csc := { s0.csc with listening := false } }).cscRoles else s0)

/-- The STATUS frame of this chip (R376). -/
def State.ownStat (s : State) : CscStat :=
  { role := s.fld F.CSC_CFG_ROLE, act := s.fld F.CSC_STATUS_ACTROLE, epoch := s.fld F.CSC_EPOCH_EPOCH,
    reach := s.reachIds, level := s.level, keel := s.keel,
    gen := if s.fld F.UPD_RUNGEN_GEN = 0 then none else some (s.fld F.UPD_RUNGEN_GEN),
    upd := s.fld F.UPD_STATUS_STATE, gtb := s.gtbState, valid := s.gtValid }

/-- Send the learning messages that wait, up to 30 in a LEARN frame, to every other present member (R296, R376). -/
def State.learnOut (s : State) : Nat → State
  | 0 => s
  | k + 1 =>
    if s.fwd.lxOut.isEmpty || s.csc.peers.isEmpty then s
    else
      let ms := s.fwd.lxOut.take 30
      let body : CscBody := .learn (ms.map s.lxOctets)
      let s1 := ({ s with fwd := { s.fwd with lxOut := s.fwd.lxOut.drop 30 } }).bump Ctr.FWD_LXTX ms.length
      (s1.csc.peers.foldl (fun (t : State) e => match t.primary e.1 with
        | some n => t.ctlSend n e.1 t.fabric body
        | none => t) s1).learnOut k

/-- Send SLV's SCHED frames (R376): in CASCADE mode alone; those to a present chip without a route wait. -/
def State.schedOut (s : State) : State :=
  let s1 := { s with slv := { s.slv with out := [] } }
  if !s.on F.CSC_STATUS_MODE then s1
  else s.slv.out.foldl (fun (u : State) x => match u.primary x.1 with
    | some n => u.ctlSend n x.1 u.fabric (.sched x.2)
    | none => if (u.csc.peers.find x.1).isSome then { u with slv := { u.slv with out := u.slv.out ++ [x] } } else u) s1

/-- SLV of this chip takes part in the cascade (R376, R455): CASCADE mode, PD_SLV on, SL2, no keel service. -/
def State.slvJoins (s : State) : Bool := s.on F.CSC_STATUS_MODE && (s.domReady 15 && (s.level == 2 && !s.keel))

/-- Cells that this chip gets back from the master copy (R383): patches, within the cell store. -/
def State.restoreCells (s : State) (cells : List Cell) : State :=
  let new := (cells.filter (fun c => !s.cellsDue.contains c)).take (131072 - s.cellsDue.length)
  if new.isEmpty then s else s.stagePatch { del := [], add := new, links := [] }

/-- Cells that came back before SLV could take them (R455). -/
def State.restoreLater (s : State) : State :=
  if s.slvJoins && !s.csc.later.isEmpty then ({ s with csc := { s.csc with later := [] } }).restoreCells s.csc.later else s

/-- STATUS_PERIODIC (R376): every 1 ms to every reachable address; learning messages, SCHED and HOME frames and credit
go out too. -/
def execStatusPeriodic (t : Time) (s : State) : Host.Outcome State Fault Refusal :=
  let s0 := s.at t
  .next (if !s0.domReady 19 then s0
    else
      let x := s0.ownStat
      let s1 := (List.range 31).foldl (fun (u : State) d => match u.primary d with
        | some n => u.ctlSend n d u.fabric (.status x)
        | none => u) s0.restoreLater
      let s2 := if s1.domReady 15 then s1.tellNodes else s1
      (((s2.learnOut 35).schedOut).homesOut).cscPump)

/-- LSA_PERIODIC (R371). -/
def execLsaPeriodic (t : Time) (s : State) : Host.Outcome State Fault Refusal :=
  let s0 := s.at t
  .next (if s0.domReady 19 then s0.ownLsa else s0)

/-! ### Time (R378) -/

/-- The anchor's VALID as this chip knows it: its own where it is the acting anchor. -/
def State.anchorIsValid (s : State) : Bool := if s.fld F.CSC_STATUS_ACTROLE = 1 then s.gtValid else s.gtb.anchorValid

/-- TIME_PERIODIC (R378): a TIME frame on each UP port, with the GT at which it leaves, that at which the peer's last one came, and the
anchor's VALID. -/
def execTimePeriodic (t : Time) (s : State) : Host.Outcome State Fault Refusal :=
  let s0 := s.at t
  .next (if s0.domReady 19 then s0.upLinks.foldl (fun (u : State) x =>
      u.ctlSend x.1 31 u.fabric (.time u.gtb.gt (u.cport x.1).timeCame u.anchorIsValid)) s0
    else s0)

/-- The port to the time parent: the primary route to the acting anchor (R378). -/
def State.timeParent (s : State) : Option Nat :=
  if s.on F.CSC_STATUS_MODE && s.fld F.CSC_STATUS_ACTROLE != 1 then s.primary (s.fld F.CSC_STATUS_ANCHOR) else none

/-- CSC_TIME (R378): t1 and t4 come in the frame, t2 and t3 are this port's captures; GTB follows the parent by
((t2 − t1) − (t4 − t3)) / 2, and the anchor's VALID goes to R78 and R79. -/
def execCscTime (t : Time) (n : Nat) (h : CscHdr) (t1 t2 t3 t4 : Nat) (valid : Bool) (refcnt : Nat) (s : State) :
    Host.Outcome State Fault Refusal :=
  .next (s.cscCtl t n h (.time t1 t4 valid) (fun u0 =>
    let u := u0.setCport n { u0.cport n with timeCame := t2 }
    if u.timeParent = some n then
      let off : Int := (gtDiff t2 t1 - gtDiff t4 t3) / 2
      u.setAnchor valid (unsigned 64 ((u.gtb.gt : Int) - off)) off refcnt
    else u))

/-- CSC_LEARN (R376): up to 30 learning messages for FWD. -/
def execCscLearn (t : Time) (n : Nat) (h : CscHdr) (msgs : List LxRx) (s : State) :
    Host.Outcome State Fault Refusal :=
  .next (s.cscCtl t n h (.learn ((msgs.take 30).map LxRx.msg)) (fun u => u.whenLive 1 ((msgs.take 30).foldl (fun (v : State) m => v.lxIn m) u)))

/-! ### SCHED and HOME (R241, R377, R383, R455) -/

/-- A placement of a node of this chip as it stands in another chip's frame: under this chip's record. -/
def State.ownPlace (s : State) (p : Placement) : Option Placement :=
  (s.nodeRec p.node).map (fun e => { p with record := e.1, cells := p.cells.map (fun c => { c with record := e.1 }) })

/-- The anchor answers a member's JOIN of a border node (R231, R241) with the best of what its engine found, `found`, that meets R228, and
notes the cells in its master copy. -/
def State.answerJoin (s : State) (src node : Nat) (plan : LinkPlan) (found : List Placement) : State :=
  let pick := bestOf (fun p => s.score (s.schedule [] ++ s.farSchedule [(src, p, plan)])) (found.filter (fun p =>
    p.node == node && s.placeOn (2 ^ 23 + src) plan p s.planned))
  { s with slv := { s.slv with master := s.slv.master.put src (s.slv.master.getD' src [] ++ pick.elim [] (fun p => farPlanCells (src, p, plan))),
                               out := s.slv.out ++ [(src, .answer node pick)] } }

/-- With the border placements of round 1 held fixed this chip places its interior nodes (R233, R241): what its engine found, `found`, goes
to the anchor where it meets R228, moves no pinned node, and with the border placements no more than CHURN percent of the placed nodes. -/
def State.placeInterior (s : State) (src : Nat) (found : List Placement) : State :=
  let moved := (s.slv.border.filter (fun p => s.placed p.node)).length
  let mine := s.placeAll (s.churnQuota - moved) s.planned (s.byGain (found.filter (fun p => s.mayMove p && !s.borderNode p.node)))
  let l := mine.map (fun p => (p, s.planOf p))
  s.schedTo src ((pieces 6 l l.length).map .interior)

/-- Cells of a chip for the master copy, or from the anchor for the standby's mirror (R241, R380); the anchor hands them on. -/
def State.mirrorIn (s : State) (chip : Nat) (first : Bool) (cells : List PlanCell) (done : Bool) : State :=
  let all := (if first then [] else s.slv.master.getD' chip []) ++ cells
  let s1 := { s with slv := { s.slv with master := s.slv.master.put chip all } }
  if s.on F.SLV_STATUS_MASTER then
    match s.copyTo with
    | some a => s1.schedTo a [.mirror chip first cells done]
    | none => s1
  else if s.fld F.CSC_STATUS_ACTROLE = 2 then s1.setFlag F.CSC_STATUS_MIRROR done
  else s

/-- What a chip tells of its nodes (R227, R377), for an anchor or its standby; the anchor hands it on. -/
def State.nodesIn (s : State) (chip : Nat) (first : Bool) (records : Nat) (l : List ChipNode) : State :=
  let old := if first then [] else (s.slv.known.getD' chip (0, [])).2
  let s1 := { s with slv := { s.slv with known := s.slv.known.put chip (records, old ++ l) } }
  if s.on F.SLV_STATUS_MASTER then
    match s.copyTo with
    | some a => s1.schedTo a [.nodes chip first records l]
    | none => s1
  else if s.fld F.CSC_STATUS_ACTROLE = 2 then s1
  else s

/-- What SLV makes of a SCHED frame (R241, R383), in CASCADE mode with PD_SLV on, at SL2 and outside keel service. -/
def State.schedIn (s : State) (src : Nat) (x : SchedIn) : State :=
  match x.body with
  | .ask node plan => if s.on F.SLV_STATUS_MASTER then s.answerJoin src node plan x.found else s
  | .answer node place => if s.slv.asked.any (fun a => a.1.node == node) then s.joinAnswer 0 place else s
  | .border ps last =>
    let s1 := { s with slv := { s.slv with border := s.slv.border ++ ps.filterMap s.ownPlace } }
    if last then s1.placeInterior src x.found else s1
  | .interior ps =>
    match s.slv.solve with
    | some r => { s with slv := { s.slv with solve := some { r with far := r.far ++ ps.map (fun p => (src, p.1, p.2)) } } }
    | none => s
  | .activate ps => (ps.filterMap s.ownPlace).foldl (fun (v : State) p => v.changeFit p) { s with slv := { s.slv with border := [] } }
  | .mirror chip first cells done => s.mirrorIn chip first cells done
  | .restore cells => s.restoreCells cells
  | .nodes chip first records l => s.nodesIn chip first records l

/-- CSC_SCHED (R241, R383, R455): restored cells that come before SLV can take them wait, but in keel service no cell is added. -/
def execCscSched (t : Time) (n : Nat) (h : CscHdr) (x : SchedIn) (s : State) :
    Host.Outcome State Fault Refusal :=
  .next (s.cscCtl t n h (.sched x.body) (fun u =>
    if u.slvJoins then u.schedIn h.src x
    else match x.body with
      | .restore cells => if u.keel then u else { u with csc := { u.csc with later := u.csc.later ++ cells } }
      | _ => u))

/-- CSC_HOME (R377): home assignments for PRC firmware. -/
def execCscHome (t : Time) (n : Nat) (h : CscHdr) (node chip : Nat) (s : State) : Host.Outcome State Fault Refusal :=
  .next (s.cscCtl t n h (.home node chip) (fun u =>
    if u.on F.CSC_STATUS_MODE then ({ u with csc := { u.csc with homes := u.csc.homes.put node chip } }).tell (.home node chip) else u))

/-! ### Temporary addresses (R370) -/

/-- The device IDs that this chip knows to be without a configured address: those that asked, and its own. -/
def State.askers (s : State) (dev : Nat) : List Nat :=
  sortBy (fun a b => decide (a ≤ b)) ((s.devNum :: dev :: s.csc.temps.map (fun e => e.2)).eraseDups)

/-- The chip that assigns temporary addresses (R370): the reachable configured chip of lowest ID, or without one the chip of
lowest device ID. -/
def State.assigner (s : State) (dev : Nat) : Bool :=
  let reach := (s.reg Reg.CSC_REACH).toNat
  match (List.range 16).find? (fun i => bit reach i) with
  | some i => s.mapLocked && i == s.fabric
  | none => Nat.ble s.devNum dev && (s.csc.asks.all (fun d => Nat.ble s.devNum d) &&
      (s.csc.lsas.all (fun e => Nat.ble s.devNum e.2.dev) && s.upLinks.all (fun x => Nat.ble s.devNum (s.cport x.1).peerDev)))

/-- Pass an ADDR frame on to the other link peers (R370). -/
def State.addrOn (s : State) (n : Nat) (x : CscAddr) : State :=
  s.upLinks.foldl (fun (t : State) l => if l.1 = n then t else t.ctlSend l.1 31 t.fabric (.addr x)) s

/-- Assign address `a` to a device: noted, and told to every link peer. -/
def State.assignAddr (s : State) (dev a : Nat) : State :=
  (State.addrOn { s with csc := { s.csc with temps := Tab.put (s.csc.temps.filter (fun e => e.2 != dev)) a dev } } 4 (.assign dev a)).peerAddr dev a

/-- The configured chip of lowest ID answers a request: the address the device has, or the lowest free one from 16 to 30. -/
def State.assignFree (s : State) (dev : Nat) : State :=
  match (s.csc.temps.find? (fun e => e.2 == dev)).map (fun e => e.1) with
  | some a => s.assignAddr dev a
  | none => match (List.range 15).find? (fun k => (s.csc.temps.find (16 + k)).isNone && !bit (s.reg Reg.CSC_REACH).toNat (16 + k)) with
    | some k => s.assignAddr dev (16 + k)
    | none => s

/-- Without a configured chip the chip of lowest device ID assigns 16 to itself and the next addresses in device ID order, to 30. -/
def State.assignRanks (s : State) (dev : Nat) : State :=
  let s1 := (s.setFld F.CSC_STATUS_ADDR 16)
  let ranks := ((s.askers dev).take 15).zipIdx.filter (fun x => s.csc.temps.find (16 + x.2) != some x.1)
  let s2 := { s1 with csc := { s1.csc with temps := s1.csc.temps.filter (fun e => !ranks.any (fun x => x.1 == e.2)) } }
  (ranks.foldl (fun (t : State) x => t.assignAddr x.1 (16 + x.2)) s2).ownLsa

/-- CSC_ADDR (R370): a request is answered by the chip that assigns; an assignment to this device gives it its temporary address before the
lock; what concerns another chip is passed on once (log entry 145). -/
def execCscAddr (t : Time) (n : Nat) (h : CscHdr) (x : CscAddr) (s : State) : Host.Outcome State Fault Refusal :=
  .next (s.cscCtl t n h (.addr x) (fun u => match x with
    | .request dev =>
      if dev = u.devNum then u
      else if u.assigner dev then (if u.mapLocked then u.assignFree dev else u.assignRanks dev).cscRoutes
      else if u.csc.asks.contains dev then u
      else State.addrOn { u with csc := { u.csc with asks := u.csc.asks ++ [dev] } } n (.request dev)
    | .assign dev a =>
      if dev = u.devNum then
        if u.mapLocked then u else (u.setFld F.CSC_STATUS_ADDR a).ownLsa.cscRoutes
      else if u.csc.temps.find a = some dev then u
      else ((State.addrOn { u with csc := { u.csc with temps := Tab.put (u.csc.temps.filter (fun e => e.2 != dev)) a dev,
                                                       asks := u.csc.asks.filter (fun d => d != dev) } } n
        (.assign dev a)).peerAddr dev a).cscRoutes))

/-- TEMP_ADDR_LAPSE (R370): 5 ms out of reach. -/
def execTempAddrLapse (addr : Nat) (s : State) : Host.Outcome State Fault Refusal :=
  .next (match s.csc.gone.find addr with
    | none => s
    | some since =>
      if s.gtb.ft < since + 5000 then s
      else
        let s1 := { s with csc := { s.csc with temps := s.csc.temps.del addr, gone := s.csc.gone.del addr, lsas := s.csc.lsas.del addr } }
        if s1.fabric = addr ∧ s1.mapLocked = false then (s1.setFld F.CSC_STATUS_ADDR 31).cscRoutes else s1)

/-- REROUTE_HOLD_EXPIRE (R372): a held packet that still has no port ends NOROUTE; control frames held as long end with it. -/
def execRerouteHoldExpire (t : Time) (pkt : Nat) (s : State) : Host.Outcome State Fault Refusal :=
  let s1 := s.at t
  let s0 := { s1 with csc := { s1.csc with heldCtl := s1.csc.heldCtl.filter (fun x => Nat.blt s1.gtb.ft x.2) } }
  .next (if s0.csc.held.any (fun x => x.1 == pkt && Nat.ble x.2 s0.gtb.ft) then
      let s1 := { s0 with csc := { s0.csc with held := s0.csc.held.filter (fun x => x.1 != pkt) } }
      match (s1.qmg.pkts.find pkt).bind (fun p => s1.primary p.info.chip) with
      | some n => (s1.toPort n pkt).cscPump
      | none => s1.cscNoRoute pkt
    else s0)

/-! ### Commands (R381, R384) -/

/-- A CSC command ends; source 201. -/
def State.cscDone (s : State) (tag outcome rtt : Nat) : State :=
  ((((s.setFlag F.CSC_CMDSTAT_BUSY false).setFld F.CSC_CMDSTAT_OUTCOME outcome).setFld F.CSC_CMDSTAT_TAG tag).setFld
    F.CSC_CMDSTAT_RTT (min rtt 1048575)).fire 201

/-- A write of CSC_CMD; ignored while BUSY. -/
def State.cscCmd (s : State) (rq : Req) (op addr tag : Nat) (act : State → State) : State :=
  s.gated rq Reg.CSC_CMD (BitVec.ofNat 32 (op % 4 + 4 * (addr % 32) + 128 * (tag % 256))) (fun t =>
    if t.on F.CSC_CMDSTAT_BUSY then t else act t)

/-- CSC_STATUS.MIRROR: a complete mirror, which a standby has none of at SL1, in keel service or with PD_SLV not ON (R455). -/
def State.mirrorOk (s : State) : Bool := s.on F.CSC_STATUS_MIRROR && (s.level == 2 && (!s.keel && s.domReady 15))

/-- CSC_HANDBACK (R381): the configured anchor, acting standby with a complete mirror and quorum, becomes acting anchor. -/
def execCscHandback (rq : Req) (addr tag : Nat) (s : State) : Host.Outcome State Fault Refusal :=
  .next (s.cscCmd rq 1 addr tag (fun t =>
    if t.fld F.CSC_CFG_ROLE = 1 ∧ t.fld F.CSC_STATUS_ACTROLE = 2 ∧ t.mirrorOk = true ∧ t.quorum = true then
      ((t.becomeAnchor false).cscRoles).cscDone (tag % 256) 0 0
    else t.cscDone (tag % 256) 1 0))

/-- CSC_ECHO (R384): an ECHO frame to an address, or through a looped port to this chip. -/
def execCscEcho (rq : Req) (addr tag : Nat) (s : State) : Host.Outcome State Fault Refusal :=
  .next (s.cscCmd rq 2 addr tag (fun t =>
    let a := addr % 32
    let loop := a == t.fabric && (List.range 4).any (fun n => t.on (F.CSC_PnCFG_LOOP n))
    match t.primary a, loop with
    | none, false => t.cscDone (tag % 256) 2 0
    | some n, _ =>
      (({ t with csc := { t.csc with echo := some (a, tag % 256) } }).setFlag F.CSC_CMDSTAT_BUSY true).ctlSend n a t.fabric
        (.echo false (tag % 256))
    | none, true => ({ t with csc := { t.csc with echo := some (a, tag % 256) } }).setFlag F.CSC_CMDSTAT_BUSY true))

/-- An ECHO reply completes the command. -/
def State.echoReply (s : State) (tag rtt : Nat) : State :=
  match s.csc.echo with
  | some (_, g) => if g = tag then ({ s with csc := { s.csc with echo := none } }).cscDone g 0 rtt else s
  | none => s

/-- CSC_ECHO_FRAME (R384): a request is returned, a reply completes the command; a looped port brings it back itself. -/
def execCscEchoFrame (t : Time) (n : Nat) (h : CscHdr) (reply : Bool) (tag rtt : Nat) (s : State) :
    Host.Outcome State Fault Refusal :=
  .next (if s.on (F.CSC_PnCFG_LOOP n) && s.domReady 19 then (s.at t).echoReply tag rtt
    else s.cscCtl t n h (.echo reply tag) (fun u =>
      if reply then u.echoReply tag rtt
      else match u.primary h.src with
        | some m => u.ctlSend m h.src u.fabric (.echo true tag)
        | none => u.ctlSend n 31 u.fabric (.echo true tag)))

/-- ECHO_TIMEOUT (R384): no reply within 1 ms. -/
def execEchoTimeout (s : State) : Host.Outcome State Fault Refusal :=
  .next (match s.csc.echo with
    | some (_, g) => ({ s with csc := { s.csc with echo := none } }).cscDone g 3 0
    | none => s)

/-- CSC_FLOOD_LSA (R371). -/
def execCscFloodLsa (rq : Req) (addr tag : Nat) (s : State) : Host.Outcome State Fault Refusal :=
  .next (s.cscCmd rq 3 addr tag (fun t => t.ownLsa.cscDone (tag % 256) 0 0))

end Sys2Proof.Machine
end

