-- ==== Sys2Proof/Machine/Flash.lean ====
section
/-! DEFINITION. The xSPI flash (R19, R341) and the sections that images and packages share: header, block check table,
certificates, signature (R20 to R24, R343, R344), and the checks of R33 and R349 that they share. -/

namespace Sys2Proof.Machine

/-! ### Octets in pages of 256 -/

/-- `n` octets from offset `off`; pages that are not listed hold `fill`. -/
def pagesRead (t : Tab (List Octet)) (fill : Octet) (off n : Nat) : List Octet :=
  let p0 := off / 256
  let cnt := (off % 256 + n + 255) / 256
  slice ((List.range cnt).flatMap (fun i => t.getD' (p0 + i) (List.replicate 256 fill))) (off % 256) n

/-- Put the pages of `l` from page `p` on. -/
def pagesPut (t : Tab (List Octet)) (fill : Octet) (p : Nat) : Nat → List Octet → Tab (List Octet)
  | 0, _ => t
  | k + 1, l => pagesPut (t.putD (List.replicate 256 fill) p (l.take 256)) fill (p + 1) k (l.drop 256)

/-- The octets with `data` written at offset `off`. -/
def pagesWrite (t : Tab (List Octet)) (fill : Octet) (off : Nat) (data : List Octet) : Tab (List Octet) :=
  let cnt := (off % 256 + data.length + 255) / 256
  let all := pagesRead t fill (off / 256 * 256) (256 * cnt)
  pagesPut t fill (off / 256) cnt (all.take (off % 256) ++ data ++ all.drop (off % 256 + data.length))

/-- `n` octets of flash from `off`; flash that nothing has written is erased. -/
def State.flashRead (s : State) (off n : Nat) : List Octet := pagesRead s.flash 0xFF off n

/-- Erase what lies at `off` and program `data` there. -/
def State.flashWrite (s : State) (off : Nat) (data : List Octet) : State :=
  { s with flash := pagesWrite s.flash 0xFF off data }

/-! ### The header (R21, R343) -/

/-- The header's fields (R21); `word40` holds octets 40 to 43, `aad` octets 0 to 147 (R22). -/
structure ImgHdr where
  gen : Nat
  dev : List Octet
  len : Nat
  c : Nat
  p : Nat
  word40 : Nat
  eph : List Octet
  iv : List Octet
  wrapped : List Octet
  tag : List Octet
  aad : List Octet
  deriving DecidableEq, Repr

/-- Blocks of a payload of `p` octets (R20). -/
def imgBlocks (p : Nat) : Nat := (p + 4095) / 4096

/-- Octets of its block check table (R20). -/
def imgTable (p : Nat) : Nat := 16 * ((imgBlocks p + 3) / 4)

/-- The header, where magic, format, header length and check are right and its lengths are consistent with R20. R33 names no check of the
generation, and one of 0 is not rejected (DESIGN CHOICE, log entry 133). -/
def imgHdr (magic : List Octet) (cap : Nat) (h : List Octet) : Option ImgHdr :=
  let x : ImgHdr := { gen := leNat (slice h 8 4), dev := slice h 12 16, len := leNat (slice h 28 4),
                      c := leNat (slice h 32 4), p := leNat (slice h 36 4), word40 := leNat (slice h 40 4),
                      eph := slice h 44 49, iv := slice h 96 12, wrapped := slice h 108 40, tag := slice h 148 16, aad := h.take 148 }
  if slice h 0 4 = magic ∧ leNat (slice h 4 2) = 1 ∧ leNat (slice h 6 2) = 256 ∧
      crc32c (h.take 252) = leNat (slice h 252 4) ∧ x.c % 16 = 0 ∧ x.c ≤ 8192 ∧ x.p % 16 = 0 ∧
      x.len = 256 + x.c + imgTable x.p + x.p + 96 ∧ x.len ≤ cap then some x else none

/-- The header of a configuration image (R21). -/
def cfgHdr (h : List Octet) : Option ImgHdr := imgHdr [0x50, 0x4A, 0x43, 0x49] 8388608 h

/-- The header of an update package (R343). -/
def updHdr (h : List Octet) : Option ImgHdr := imgHdr [0x50, 0x4A, 0x55, 0x50] 16777216 h

/-! ### Blocks, certificates, signature -/

/-- The payload of an image, still encrypted. -/
def ImgHdr.ct (h : ImgHdr) (img : List Octet) : List Octet := slice img (256 + h.c + imgTable h.p) h.p

/-- The payload of an image or package (R22, R344): the content key is unwrapped under a key from ECDH with the image transport key and
the one-step KDF, FixedInfo being the label, the device ID and the generation (4 octets as in the header, log entry 131); none where the
unwrap or the GCM tag fails. -/
def State.imgOpen (s : State) (label : List Octet) (h : ImgHdr) (img : List Octet) : Option (List Octet) :=
  match s.itk.bind (fun k => messageKey k h.eph (label ++ h.dev ++ leOctets 4 h.gen)) with
  | none => none
  | some kek => (keyUnwrap kek h.wrapped).bind (fun key => gcmOpen key h.iv h.aad (h.ct img) h.tag)

/-- The first block whose CRC does not match its entry in the table (R24). -/
def ImgHdr.badBlock (h : ImgHdr) (img : List Octet) : Option Nat :=
  (List.range (imgBlocks h.p)).find? (fun i =>
    crc32c (slice (h.ct img) (4096 * i) 4096) != leNat (slice img (256 + h.c + 4 * i) 4))

/-- The certificates of a section: each after its length, then zeros; at most four. The flag says that the section is well
formed. -/
def certList : Nat → List Octet → List (List Octet) × Bool
  | 0, l => ([], allZero l)
  | k + 1, l =>
    let n := leNat (l.take 4)
    if l.length < 4 ∨ n = 0 then ([], allZero l)
    else if l.length < 4 + n then ([], false)
    else
      let r := certList k (l.drop (4 + n))
      (slice l 4 n :: r.1, r.2)

/-- The checks before the certificates, with their codes (R33 steps 3 to 5, R349 steps 2 to 4): device ID, anchor, blocks. -/
def State.blockChecks (s : State) (h : ImgHdr) (img : List Octet) : Option (Nat × Nat) :=
  if h.dev ≠ s.deviceId then some (2, 0)
  else if allZero s.ownerAnchor = true then some (3, 0)
  else (h.badBlock img).map (fun i => (5, i))

/-- Certificates and signature (R23; R33 steps 6 and 7). A section that is malformed or holds no certificate fails as BADCERT with the
number of certificates read before the defect (log entry 131). -/
def State.signChecks (s : State) (h : ImgHdr) (img : List Octet) : Option (Nat × Nat) :=
  let cs := certList 4 (slice img 256 h.c)
  if cs.2 = false ∨ cs.1 = [] then some (4, cs.1.length)
  else match certCheck s.ownerAnchor 0 cs.1 with
    | some i => some (4, i)
    | none =>
      let n := 256 + h.c + imgTable h.p + h.p
      if ecdsaP384 (leafKey (cs.1.headD [])) (img.take n) (slice img n 96) then none else some (6, 0)

/-- The checks that an image and a package share (R33 steps 3 to 7, R349 steps 2 to 6). -/
def State.ownerChecks (s : State) (h : ImgHdr) (img : List Octet) : Option (Nat × Nat) :=
  match s.blockChecks h img with
  | some e => some e
  | none => s.signChecks h img

/-- Erase `n` octets of flash from `off`, both multiples of 256: they read 0xFF. -/
def State.flashErase (s : State) (off n : Nat) : State :=
  { s with flash := s.flash.only (fun q _ => Nat.blt q (off / 256) || Nat.ble ((off + n) / 256) q) }

/-! ### The directory (R342) -/

/-- A directory record. -/
structure DirRec where
  dseq : Nat
  com : Nat
  bst0 : Nat
  bst1 : Nat
  lastrb : Nat
  gen0 : Nat
  gen1 : Nat
  svn0 : Nat
  svn1 : Nat
  deriving DecidableEq, Repr

/-- The magic of a directory record. -/
def dirMagic : List Octet := [0x50, 0x4A, 0x46, 0x44]

/-- A record as the flash holds it. -/
def DirRec.octets (d : DirRec) : List Octet :=
  let body := dirMagic ++ leOctets 8 d.dseq ++ leOctets 1 d.com ++ leOctets 1 (d.bst0 + 4 * d.bst1) ++ leOctets 1 d.lastrb
    ++ leOctets 1 0 ++ leOctets 4 d.gen0 ++ leOctets 4 d.gen1 ++ leOctets 2 d.svn0 ++ leOctets 2 d.svn1 ++ leOctets 32 0
  body ++ leOctets 4 (crc32c body)

/-- The record that 64 octets hold, where magic and check are right. -/
def dirRecOf (l : List Octet) : Option DirRec :=
  let n := fun o k => leNat (slice l o k)
  if slice l 0 4 = dirMagic ∧ crc32c (l.take 60) = n 60 4 then
    some { dseq := n 4 8, com := n 12 1 % 2, bst0 := n 13 1 % 4, bst1 := n 13 1 / 4 % 4, lastrb := n 14 1 % 8, gen0 := n 16 4,
           gen1 := n 20 4, svn0 := n 24 2, svn1 := n 26 2 }
  else none

/-- Flash offset of directory copy `k`. -/
def dirOffset (k : Nat) : Nat := 0x01010000 + 0x8000 * k

/-- Directory copy `k`, where it is valid. -/
def State.dirCopy (s : State) (k : Nat) : Option DirRec := dirRecOf (s.flashRead (dirOffset k) 64)

/-- The current record: the valid copy with the higher DSEQ. -/
def State.dirNow (s : State) : Option DirRec :=
  match s.dirCopy 0, s.dirCopy 1 with
  | none, b => b
  | a, none => a
  | some a, some b => if a.dseq < b.dseq then some b else some a

/-- The record in force, or where no copy is valid one of empty banks. -/
def State.dir (s : State) : DirRec :=
  s.dirNow.getD { dseq := 0, com := 0, bst0 := 0, bst1 := 0, lastrb := 0, gen0 := 0, gen1 := 0, svn0 := 0, svn1 := 0 }

/-- State, GEN and SVN of bank `b`. -/
def DirRec.bank (d : DirRec) (b : Nat) : Nat × Nat × Nat := if b = 0 then (d.bst0, d.gen0, d.svn0) else (d.bst1, d.gen1, d.svn1)

/-- The record with those of bank `b` set. -/
def DirRec.setBank (d : DirRec) (b st gen svn : Nat) : DirRec :=
  if b = 0 then { d with bst0 := st, gen0 := gen, svn0 := svn } else { d with bst1 := st, gen1 := gen, svn1 := svn }

/-- The firmware area generation (R342): GEN of the committed bank, 0 where no copy is valid. -/
def State.fwAreaGen (s : State) : Nat := (s.dir.bank s.dir.com).2.1

/-- UPD_STATUS and UPD_OTHGEN follow the current record. -/
def State.dirShow (s : State) : State :=
  let d := s.dir
  let other := d.bank (1 - d.com)
  ((s.setFld F.UPD_STATUS_COMBANK d.com).setFld F.UPD_STATUS_LASTRB d.lastrb).setReg Reg.UPD_OTHGEN
    (BitVec.ofNat 32 (if other.1 = 0 then 0 else other.2.1))

/-- Write a new record (R342): into an invalid copy, or the one of lower DSEQ, with DSEQ one higher. -/
def State.dirWrite (s : State) (d : DirRec) : State :=
  let k := match s.dirCopy 0, s.dirCopy 1 with
    | none, _ => 0
    | some _, none => 1
    | some a, some b => if a.dseq < b.dseq then 0 else 1
  (s.flashWrite (dirOffset k) { d with dseq := s.dir.dseq + 1 }.octets).dirShow

end Sys2Proof.Machine
end

