-- ==== Sys2Proof/Machine/Image.lean ====
section
/-! DEFINITION. The configuration image (chapter 02): its records (R25 to R28), the rules that make it rejected with BADVAL,
and the checks of R33. -/

namespace Sys2Proof.Machine

/-! ### Records (R25) -/

/-- A record: its offset in the payload, its type and its value. -/
structure ImgRec where
  off : Nat
  typ : Nat
  val : List Octet
  deriving DecidableEq, Repr

/-- The records of a payload that begins at offset `o`; the offset of what breaks the structure, or the records and the
offset of END. The offset that BADREC reports is the model's choice: the first octet of the record that breaks the structure, of END
where the tail is not zero, the payload's length where END is missing (DESIGN CHOICE, log entry 133). -/
def imgRecords : Nat → Nat → List Octet → Nat ⊕ (List ImgRec × Nat)
  | 0, o, _ => .inl o
  | k + 1, o, l =>
    let typ := leNat (l.take 2)
    let n := leNat (slice l 2 2)
    if l.length < 4 ∨ n % 4 ≠ 0 ∨ l.length < 4 + n then .inl o
    else if typ = 0 then
      if n = 0 ∧ allZero (l.drop 4) = true then .inr ([], o) else .inl o
    else match imgRecords k (o + 4 + n) (l.drop (4 + n)) with
      | .inl e => .inl e
      | .inr (rs, e) => .inr ({ off := o, typ := typ, val := slice l 4 n } :: rs, e)

/-- The record types that CFG knows (R26, R28). -/
def knownTyp (t : Nat) : Bool :=
  (Nat.ble 0x8000 t && Nat.ble t 0x8017) || (Nat.ble 0x8101 t && Nat.ble t 0x8105) || t == 1

/-- The 8-octet pairs of a register record: payload offset, BAR0 address and value; and whether the offset is below 0x10000. -/
def ImgRec.pairs (r : ImgRec) : List (Nat × Nat × Word) :=
  (List.range (r.val.length / 8)).map (fun i =>
    (r.off + 4 + 8 * i, (r.typ - 0x8000) * 0x100000 + leNat (slice r.val (8 * i) 4),
      BitVec.ofNat 32 (leNat (slice r.val (8 * i + 4) 4))))

/-- The register records of an image. -/
def regRecs (rs : List ImgRec) : List ImgRec := rs.filter (fun r => Nat.ble 0x8000 r.typ && Nat.ble r.typ 0x8017)

/-- All pairs in image order. -/
def imgPairs (rs : List ImgRec) : List (Nat × Nat × Word) := (regRecs rs).flatMap (fun r => r.pairs)

/-- A pair by itself is valid (R27): an implemented register with a writable field, and no bit set outside such fields. -/
def imgPairOk (u : Nat) (p : Nat × Nat × Word) : Bool :=
  p.2.1 % 4 == 0 && (p.2.1 / 0x10000 == u * 16 &&
    (match regDesc p.2.1 with
     | none => false
     | some d =>
       let m := d.mask [.rw, .wl, .sc, .pw]
       m != 0 && (p.2.2 &&& ~~~m) == 0))

/-- Does a pair name a WL register? -/
def pairWl (p : Nat × Nat × Word) : Bool :=
  match regDesc p.2.1 with
  | none => false
  | some d => d.has .wl

/-- The first pair of a record that is not valid, given the addresses of WL registers that earlier pairs named; and those
addresses with the record's own. -/
def badPair (u : Nat) : List Nat → List (Nat × Nat × Word) → Option Nat × List Nat
  | seen, [] => (none, seen)
  | seen, p :: t =>
    if !imgPairOk u p || seen.contains p.2.1 then (some p.1, seen)
    else badPair u (if pairWl p then p.2.1 :: seen else seen) t

/-- The emulated addresses that a LGC_I3INIT step may name (R440): those that SPI may write, FIFOs apart; 0x7F pads. -/
def i3InitAddr (a : Nat) : Bool :=
  a == 0x02 || (Nat.ble 0x04 a && Nat.ble a 0x17) || (Nat.ble 0x24 a && Nat.ble a 0x2E) || a == 0x7F

/-- The entries of a record of FWD entries. -/
def ImgRec.entries (r : ImgRec) : List (List Octet) := chunks 32 (r.val.length / 32) r.val

/-- The value of a data record is valid (R28, R266, R440). -/
def ImgRec.dataOk (r : ImgRec) : Bool :=
  if r.typ = 0x8101 ∨ r.typ = 0x8102 then
    r.val.length % 32 == 0 && r.entries.all (fun e => (staticEntry e).isSome)
  else if r.typ = 0x8103 then Nat.ble 4 r.val.length && (Nat.ble (leNat (r.val.take 1)) 3 && allZero (slice r.val 1 3))
  else if r.typ = 0x8104 then
    r.val.length % 16 == 0 && (chunks 16 (r.val.length / 16) r.val).all (fun e => (demRecOf e).isSome)
  else if r.typ = 0x8105 then
    Nat.ble 4 r.val.length && (Nat.ble (leNat (r.val.take 1)) 3 && (allZero (slice r.val 1 3) &&
      (List.range ((r.val.length - 4) / 2)).all (fun i => i3InitAddr (leNat (slice r.val (4 + 2 * i) 1)))))
  else true

/-- The payload offset of the first invalid pair or value (R27, R28): the pair's own octets, or for a record whose value is not valid as
a whole the record's first octet (DESIGN CHOICE, log entry 133). -/
def badRecord : List Nat → List ImgRec → Option Nat
  | _, [] => none
  | seen, r :: t =>
    if 0x8000 ≤ r.typ ∧ r.typ ≤ 0x8017 then
      if r.val.length % 8 ≠ 0 then some r.off
      else match badPair (r.typ - 0x8000) seen r.pairs with
        | (some o, _) => some o
        | (none, seen') => badRecord seen' t
    else if r.dataOk then badRecord seen t else some r.off

/-! ### Rules over several registers -/

/-- The register file that the pairs of an image leave, SC fields active (R34). -/
def State.withPairs (s : State) (ps : List (Nat × Nat × Word)) : State :=
  let x := ps.foldl (fun (t : State) p => t.setReg p.2.1 (p.2.2 ||| fixedOnes p.2.1)) { s with regs := [], active := [] }
  { x with active := x.regs }

/-- A lane rate in kb/s lies within R95 (R96): standard 0 JESD204C, 1 JESD204B; `two` lanes; sample rate in kS/s. -/
def laneRateOk (std : Nat) (two : Bool) (fs : Nat) : Bool :=
  let l := if two then 2 else 1
  if std = 0 then Nat.ble (250000 * l) (33 * fs) && Nat.ble (33 * fs) (16220000 * l)
  else Nat.ble (250000 * l) (40 * fs) && Nat.ble (40 * fs) (12500000 * l)

/-- The edges of a band in kHz (RFPn_LINK.BAND). -/
def bandEdges (b : Nat) : Nat × Nat := [(863000, 870000), (902000, 928000), (920000, 928000), (2400000, 2483500)].getD b (0, 0)

/-- The enabled slices of a port. -/
def State.slicesOn (s : State) (n : Nat) : List Nat := (List.range 128).filter (fun k => s.sliceOn n k)

/-- A class is allowed in a band (R103). -/
def classInBand (c b : Nat) : Bool := if c < 2 then b != 3 else c == 2 || (b == 1 || b == 3)

/-- A slice lies within its port's band and within ±0.407 Fs of its centre (R104), its class is allowed in the band, and PHY = 1 is
set on class 3 alone (R103). -/
def State.sliceFits (s : State) (n k : Nat) : Bool :=
  let e := bandEdges (s.fld (F.RFPn_LINK_BAND n))
  let sp := spacing (s.sliceClass n k)
  let ofs := signed 18 (s.fld (F.RFPn_SLk_OFS n k))
  let c := s.sliceCentre n k
  classInBand (s.sliceClass n k) (s.fld (F.RFPn_LINK_BAND n)) && (!s.on (F.RFPn_SLk_PHY n k) || s.sliceClass n k == 3) &&
  decide (2 * (e.1 : Int) + sp ≤ 2 * c) && (decide (2 * c + sp ≤ 2 * (e.2 : Int)) &&
    Nat.ble ((2 * ofs.natAbs + sp) * 1000) (814 * s.fld (F.RFPn_RXFS_FS n)))

/-- The rules of chapter 05 that ports break: registers named. -/
def State.rfpRules (s : State) : List Nat :=
  let pair := fun (f : Field) (a b : Nat) =>
    if !s.on f || (s.reg (Reg.RFPn_RXFS a) == s.reg (Reg.RFPn_RXFS b) && (s.reg (Reg.RFPn_RXCTR a) == s.reg (Reg.RFPn_RXCTR b) &&
      (s.fld (F.RFPn_LINK_BAND a) == s.fld (F.RFPn_LINK_BAND b) &&
        (List.range 128).all (fun k => s.reg (Reg.RFPn_SLk a k) == s.reg (Reg.RFPn_SLk b k))))) then [] else [Reg.RFP_PAIR]
  (List.range 4).flatMap (fun n =>
    let std := s.fld (F.RFPn_LINK_STD n)
    let rx := s.fld (F.RFPn_RXFS_FS n)
    let tx := s.fld (F.RFPn_TXFS_FS n)
    (if !s.on (F.RFPn_LINK_EN n) || (Nat.ble 1920 rx && Nat.ble rx 122880 && laneRateOk std (s.on (F.RFPn_LINK_LANES n)) rx) then []
      else [Reg.RFPn_RXFS n]) ++
    (if !(s.on (F.RFPn_LINK_EN n) && s.on (F.RFPn_LINK_TXEN n)) ||
        (Nat.ble 1920 tx && Nat.ble tx 61440 && laneRateOk std (s.on (F.RFPn_LINK_TXLANES n)) tx) then [] else [Reg.RFPn_TXFS n]) ++
    (if Nat.ble 1 (s.fld (F.RFPn_TX_MAXTX n)) && Nat.ble (s.fld (F.RFPn_TX_MAXTX n)) 16 then [] else [Reg.RFPn_TX n]) ++
    ((s.slicesOn n).filter (fun k => !s.sliceFits n k)).map (fun k => Reg.RFPn_SLk n k)) ++
  pair F.RFP_PAIR_PAIR01 0 1 ++ pair F.RFP_PAIR_PAIR23 2 3

/-- The upper port of a diversity pair. -/
def State.upperPort (s : State) (n : Nat) : Bool :=
  (n == 1 && s.on F.RFP_PAIR_PAIR01) || (n == 3 && s.on F.RFP_PAIR_PAIR23)

/-- The bits set in an `n`-bit mask. -/
def onesIn (n m : Nat) : Nat := ((List.range n).filter (fun i => bit m i)).length

/-- The enabled hunters that break R137, given the slices of those before them. -/
def State.hunterRules (s : State) : List Nat → List Nat → List Nat
  | _, [] => []
  | seen, h :: t =>
    let g := s.hunterSlice h
    let m := s.fld (F.DMX_GgHk_LHMASK (h / 64) (h % 64))
    let ok := s.sliceOn (g / 128) (g % 128) && (!seen.contains g && (!s.upperPort (g / 128) &&
      (if s.on (F.RFPn_SLk_PHY (g / 128) (g % 128)) then m == 0 else Nat.ble 1 (onesIn 6 m) && Nat.ble (onesIn 6 m) 2)))
    (if ok then [] else [hunterReg h]) ++ s.hunterRules (g :: seen) t

/-- Budget `k` satisfies R207. -/
def State.budgetOk (s : State) (k : Nat) : Bool :=
  let f0 := s.fld (F.BGT_SBkF0_KHZ k)
  let f1 := s.fld (F.BGT_SBkF1_KHZ k)
  let win := s.fld (F.BGT_SBkPOL_WIN k)
  let allow := s.fld (F.BGT_SBkALLOW_ALLOW k)
  let lis := 16 * s.fld (F.BGT_SBkLBT_LISTEN k)
  let txm := s.fld (F.BGT_SBkTX_TXMAX k)
  let within := fun lo hi => Nat.ble lo f0 && Nat.ble f1 hi
  s.budMode k == 0 ||
    (Nat.ble 1 win && (Nat.ble win 3600 && (Nat.ble lis 10000 && (Nat.ble (s.fld (F.BGT_SBkACKRES_ACKRES k)) allow &&
      (Nat.blt f0 f1 &&
        (match s.fld (F.BGT_SBkPOL_REGIME k) with
         | 0 => within 863000 870000 && (win == 3600 && (Nat.ble allow (win * 100000) && ((lis == 0 || Nat.ble 160 lis) &&
             Nat.ble txm 4000)))
         | 1 => within 902000 928000 && (s.budMode k == 3 || (s.budMode k == 2 && (Nat.ble allow 400000 &&
             ((win == 20 && Nat.ble 50 (s.fld (F.BGT_SBkPOL_MINCH k))) ||
              (win == 10 && Nat.ble 25 (s.fld (F.BGT_SBkPOL_MINCH k)))))))
         | 2 => within 920000 928000 && (Nat.ble 128 lis && (Nat.ble 1 txm && (Nat.ble txm 4000 && (win == 3600 &&
             Nat.ble allow 360000000))))
         | _ => within 2400000 2483500))))))

/-- The classes whose usable positions break R208. -/
def State.maskRules (s : State) : List Nat :=
  (List.range 4).flatMap (fun c =>
    if s.hopLen c = 0 then []
    else if s.minChOk c (s.usable c (fun j => s.reg (Reg.MSQ_CHMcj c j))).length then [] else [Reg.MSQ_CHMcj c 0])

/-- A port covers IEEE 802.15.4 channels 11 to 26, and has an enabled hunter on a slice with PHY = 1 (R436). -/
def State.i3Covered (s : State) (n : Nat) : Bool :=
  let phy := (s.slicesOn n).filter (fun k => s.on (F.RFPn_SLk_PHY n k) && s.sliceClass n k == 3)
  (List.range 512).any (fun h => s.hunterOn h && (s.hunterSlice h / 128 == n && phy.contains (s.hunterSlice h % 128))) &&
    (List.range 16).all (fun i => phy.any (fun k => s.sliceCentre n k == (2405000 + 5000 * i : Int)))

/-- The registers named by rules that the whole image breaks, in the order of the manual's chapters. -/
def State.imageRules (s : State) : List Nat :=
  let need := fun (b : Bool) (a : Nat) => if b then [] else [a]
  let role := s.fld F.CSC_CFG_ROLE
  let nchip := s.fld F.CSC_CFG_NCHIP
  need (s.fld F.GTB_CFG_LINE != 0) Reg.GTB_CFG ++ s.rfpRules ++
  s.hunterRules [] ((List.range 512).filter (fun h => s.hunterOn h)) ++
  need (Nat.ble 1 (s.fld F.DMX_CFG_STATPER) && Nat.ble (s.fld F.DMX_CFG_STATPER) 60) Reg.DMX_CFG ++
  ((List.range 16).filter (fun k => !s.budgetOk k)).map (fun k => Reg.BGT_SBkPOL k) ++ s.maskRules ++
  need ((List.range 16).any (fun j => s.fld (F.SLV_FIXj_KIND j) == 3)) (Reg.SLV_FIXj 0) ++
  need (!(s.reg Reg.FWD_HSEED0 == s.reg Reg.FWD_HSEED1 && s.reg Reg.FWD_HSEED0 != 0)) Reg.FWD_HSEED1 ++
  need (s.fld F.CHIP_WMAP1_DBG != 3 && !(s.fld F.CHIP_WMAP1_DBG == 2 && s.on F.KVT_CFG_APPROVED)) Reg.CHIP_WMAP1 ++
  need (!s.on F.KVT_CFG_APPROVED || bit (s.fld F.CHIP_WMAP0_SEC) 20) Reg.CHIP_WMAP0 ++
  need (Nat.ble (s.fld F.PRC_RPLCFG_OCP) 1) Reg.PRC_RPLCFG ++
  need (Nat.ble 1 nchip && (Nat.ble nchip 16 && ((role == 0) == (nchip == 1)))) Reg.CSC_CFG ++
  need (Nat.ble 1 (s.fld F.MEM_CFG_SIZE) && Nat.ble (s.fld F.MEM_CFG_SIZE) 4) Reg.MEM_CFG ++
  need (Nat.ble 4 (s.fld F.SUP_CFG_WDPER) && (Nat.ble (s.fld F.SUP_CFG_WDPER) 1000 &&
    (Nat.ble 10 (s.fld F.SUP_CFG_PRCWDPER) && Nat.ble (s.fld F.SUP_CFG_PRCWDPER) 1000))) Reg.SUP_CFG ++
  need (s.fld F.LGC_CFG_EN == 0 || s.i3Covered (s.fld F.LGC_CFG_RFPORT)) Reg.LGC_CFG ++
  need (!s.on F.HIF_CFG_PROT || s.fld (F.HIF_PnCFG_MODE 0) == s.fld (F.HIF_PnCFG_MODE 1)) Reg.HIF_CFG

/-- The payload offset of the last pair that names a register; that of END where none does. -/
def pairOffset (ps : List (Nat × Nat × Word)) (fin a : Nat) : Nat :=
  ((ps.reverse.find? (fun p => p.2.1 == a)).map (fun p => p.1)).getD fin

/-- The offset that step 12 of R33 reports, if the image is not valid: invalid pairs and values first, then the bootstrap
entries beyond 16,384, then rules over several registers. -/
def State.badVal (s : State) (rs : List ImgRec) (fin : Nat) : Option Nat :=
  match badRecord [] rs with
  | some o => some o
  | none =>
    let boots := rs.filter (fun r => r.typ == 0x8101)
    if 16384 < boots.foldl (fun n r => n + r.val.length / 32) 0 then some ((boots.getLastD { off := fin, typ := 0, val := [] }).off)
    else match (s.withPairs (imgPairs rs)).imageRules with
      | [] => none
      | a :: _ => some (pairOffset (imgPairs rs) fin a)

/-! ### Steps 13 and 14 -/

/-- The sizes of the DRAM regions in MiB (R10), by the codes of R403; the buffer pool takes what remains (none: too little
is left). -/
def State.dramPlan (s : State) : Option (List Nat) :=
  let hist := (List.range 4).map (fun n =>
    if s.on (F.RFPn_LINK_EN n) then (s.fld (F.RFPn_RXFS_FS n) * 256 + 2 ^ 20 - 1) / 2 ^ 20 else 0)
  let fixed := hist ++ [1024, 64, 64, 64, 256, 64]
  let used := fixed.foldl (· + ·) 0
  let usable := s.fld F.MEM_CFG_SIZE * 3584
  if usable < used + 1024 then none else some (fixed ++ [usable - used])

/-- What PWR_DOMREQ asks of domain `d`: 0 OFF, 1 ON, 2 RET. -/
def State.domReq (s : State) (d : Nat) : Nat :=
  if d < 16 then s.fld F.PWR_DOMREQ0_REQ / 4 ^ d % 4 else s.fld F.PWR_DOMREQ1_REQ / 4 ^ (d - 16) % 4

/-- Domains that are always on in service (R405). -/
def alwaysOn (d : Nat) : Bool := d == 0 || d == 1 || d == 16 || d == 17 || d == 18

/-- The PWR settings power domain `d` (R405). -/
def State.powers (s : State) (d : Nat) : Bool := alwaysOn d || s.domReq d == 1

/-- The unit of the first register record that the PWR settings do not power (R33 step 14): its unit's own domain, and that of each
register it names. A unit whose registers lie in several domains (RFP, DMX) is judged pair by pair, by the domain of the pair's own
register (DESIGN CHOICE, log entry 133). -/
def State.unpowered (s : State) (rs : List ImgRec) : Option Nat :=
  ((regRecs rs).find? (fun r => !s.powers (unitDom (r.typ - 0x8000)) || r.pairs.any (fun p => !s.powers (domOf p.2.1)))).map
    (fun r => r.typ - 0x8000)

/-! ### The checks of R33 -/

/-- Steps 1 to 5 on a whole image: the first failure, or its header. -/
def State.imgBlocks1 (s : State) (img : List Octet) : (Nat × Nat) ⊕ ImgHdr :=
  if (img.take 256).all (fun b => b == 0xFF) then .inl (0x0E, 0)
  else match cfgHdr (img.take 256) with
    | none => .inl (1, 0)
    | some h => match s.blockChecks h img with
      | some e => .inl e
      | none => .inr h

/-- Steps 1 to 7: the first failure, or the header. -/
def State.imgPass1 (s : State) (img : List Octet) : (Nat × Nat) ⊕ ImgHdr :=
  match s.imgBlocks1 img with
  | .inl e => .inl e
  | .inr h => match s.signChecks h img with
    | some e => .inl e
    | none => .inr h

/-- Steps 8 to 12: the first failure, or the records and the payload. -/
def State.imgPass2 (s : State) (img : List Octet) (h : ImgHdr) : (Nat × Nat) ⊕ (List ImgRec × List Octet) :=
  if h.gen < s.sealedGen then .inl (7, s.sealedGen % 2 ^ 24)
  else match s.imgOpen [0x50, 0x4A, 0x43, 0x46, 0x47] h img with
    | none => .inl (8, 0)
    | some pt => match imgRecords (pt.length / 4 + 1) 0 pt with
      | .inl o => .inl (9, o / 4)
      | .inr (rs, fin) =>
        match rs.find? (fun r => bit r.typ 15 && !knownTyp r.typ) with
        | some r => .inl (0xA, r.off / 4)
        | none => match s.badVal rs fin with
          | some o => .inl (0xB, o / 4)
          | none => .inr (rs, pt)

/-- Step 13. -/
def State.imgStep13 (s : State) (h : ImgHdr) : Option (Nat × Nat) := if s.fwAreaGen < h.word40 then some (0xC, 0) else none

/-- Step 14. -/
def State.imgStep14 (s : State) (rs : List ImgRec) : Option (Nat × Nat) :=
  let x := s.withPairs (imgPairs rs)
  match x.dramPlan with
  | none => some (0xD, 0)
  | some _ => (x.unpowered rs).map (fun u => (0xD, u))

/-- Flash offset of image copy `k` (R19). -/
def copyOffset (k : Nat) : Nat := 0x10000 + 0x800000 * k

/-- The image in copy `k`, as long as its header says. -/
def State.imgCopy (s : State) (k : Nat) : List Octet :=
  let h := s.flashRead (copyOffset k) 256
  match cfgHdr h with
  | none => h
  | some x => s.flashRead (copyOffset k) x.len

/-- Every step through 13, as a CHECK, UPD and the other copy's check make it (R37, R349, R356): the first failure. -/
def State.imgCheck (s : State) (img : List Octet) : Option (Nat × Nat) :=
  match s.imgPass1 img with
  | .inl e => some e
  | .inr h => match s.imgPass2 img h with
    | .inl e => some e
    | .inr _ => s.imgStep13 h

/-- CFG_CnERR of copy `k`. -/
def copyErr (k : Nat) : Nat := if k = 0 then Reg.CFG_C0ERR else Reg.CFG_C1ERR

/-- COPYn_OK of a copy. -/
def State.copyOk (s : State) (k : Nat) (b : Bool) : State :=
  s.setFlag (if k = 0 then F.CFG_STATUS_COPY0_OK else F.CFG_STATUS_COPY1_OK) b

/-- Step 8 of a check cannot be taken yet (R509): KVT has not run its self-tests, and nothing before it fails the copy. -/
def State.sealWait (s : State) (k : Nat) : Bool := s.kvtState == 0 && (s.imgBlocks1 (s.imgCopy k)).isRight

/-- A CHECK of copy `k` runs (R33, R38): its result goes to CFG_CnERR and COPYn_OK. It waits at step 8 for KVT (R509). -/
def State.runCheck (s : State) (k : Nat) : State :=
  if s.sealWait k then ({ s with cfg := { s.cfg with check := some k } }).setFlag F.CFG_STATUS_BUSY true
  else
    let u := ({ s with cfg := { s.cfg with check := none } }).setFlag F.CFG_STATUS_BUSY false
    match u.imgCheck (u.imgCopy k) with
    | some e => (u.setReg (copyErr k) (BitVec.ofNat 32 (e.1 + 256 * e.2))).copyOk k false
    | none => (u.setReg (copyErr k) 0).copyOk k true

/-- The copy that was not loaded is checked through step 13 (R37); source 10 where it fails. It waits at step 8 for KVT (R509). -/
def State.otherCheck (s : State) : State :=
  let k := 1 - s.cfg.copy
  if s.sealWait k then { s with cfg := { s.cfg with otherWait := true } }
  else
    let u := { s with cfg := { s.cfg with otherWait := false } }
    match u.imgCheck (u.imgCopy k) with
    | some e => ((u.setReg (copyErr k) (BitVec.ofNat 32 (e.1 + 256 * e.2))).copyOk k false).fire 10
    | none => (u.setReg (copyErr k) 0).copyOk k true

end Sys2Proof.Machine
end

