-- ==== Sys2Proof/Machine/Upd.lean ====
section
/-! DEFINITION. Firmware update (chapter 17): packages, UPD's commands, activation, trial, commit and rollback (R341 to
R359). -/

namespace Sys2Proof.Machine

/-! ### Packages (R345) -/

/-- A directory entry of a package. -/
structure PkgEntry where
  kind : Nat
  hlv : Nat
  hlvmin : Nat
  off : Nat
  len : Nat
  ok : Bool
  deriving DecidableEq, Repr

/-- Entry `i` of a payload of `size` octets with `n` images: `ok` says that it is valid by itself. -/
def pkgEntry (pt : List Octet) (n i : Nat) : PkgEntry :=
  let e := slice pt (32 * i) 32
  let f := fun o k => leNat (slice e o k)
  let kind := f 0 1
  let hlv := f 2 2
  let hlvmin := f 4 2
  let off := f 8 4
  let len := f 12 4
  { kind := kind, hlv := hlv, hlvmin := hlvmin, off := off, len := len,
    ok := Nat.ble 1 kind && (Nat.ble kind 3 && (allZero (slice e 1 1) && (allZero (slice e 6 2) && (allZero (slice e 16 16) &&
      ((kind != 3 || (hlv == 0 && hlvmin == 0)) && (off % 16 == 0 && (Nat.ble (32 * n) off &&
        (Nat.ble (off + len) pt.length &&
          ((kind != 1 || Nat.ble len 4194304) && (kind != 2 || Nat.ble len 1048576)))))))))) }

/-- An entry agrees with those before it: no second image of its kind, no overlap, equal HLV of KIND 1 and 2. -/
def PkgEntry.fits (e : PkgEntry) (l : List PkgEntry) : Bool :=
  l.all (fun x => x.kind != e.kind && ((Nat.ble (x.off + x.len) e.off || Nat.ble (e.off + e.len) x.off) &&
    (x.kind == 3 || (e.kind == 3 || x.hlv == e.hlv))))

/-- The first entry that breaks R345, among those that follow `seen`. -/
def badEntry (seen : List PkgEntry) (i : Nat) : List PkgEntry → Option Nat
  | [] => none
  | e :: t => if e.ok && e.fits seen then badEntry (e :: seen) (i + 1) t else some i

/-- The image of a kind in a package. -/
def pkgImage (pt : List Octet) (l : List PkgEntry) (kind : Nat) : Option (List Octet) :=
  (l.find? (fun e => e.kind == kind)).map (fun e => slice pt e.off e.len)

/-- A firmware image carries Euwaus's signature over its other octets (R345). -/
def euwausOk (l : List Octet) : Bool :=
  let n := l.length - 96
  Nat.ble 96 l.length && ecdsaP384 Config.euwausKey (l.take n) (l.drop n)

/-- Steps 1 to 10 of R349 on a package: OUTCOME and DETAIL of the first failure, or its header, entries and payload. -/
def State.pkgCheck (s : State) (img : List Octet) : (Nat × Nat) ⊕ (ImgHdr × List PkgEntry × List Octet) :=
  match updHdr (img.take 256) with
  | none => .inl (1, 0)
  | some h =>
    let svn := h.word40 % 65536
    let n := h.word40 / 65536
    if n ≠ 2 ∧ n ≠ 3 then .inl (1, 0)
    else match s.ownerChecks h img with
      | some e => .inl e
      | none =>
        if 256 < svn ∨ svn < s.upd.fuses then .inl (7, s.upd.fuses)
        else match s.imgOpen [0x50, 0x4A, 0x55, 0x50, 0x44] h img with
          | none => .inl (8, 0)
          | some pt =>
            let l := (List.range n).map (fun i => pkgEntry pt n i)
            match badEntry [] 0 l with
            | some i => .inl (9, i)
            | none =>
              if (pkgImage pt l 1).isNone ∨ (pkgImage pt l 2).isNone then .inl (9, n - 1)
              else match (List.range n).find? (fun i =>
                  let e := pkgEntry pt n i
                  e.kind != 3 && !euwausOk (slice pt e.off e.len)) with
                | some i => .inl (10, i)
                | none => .inr (h, l, pt)

/-- The firmware set of a package that passed: its two firmware images carry one HLV, and it reads no level below the HLVMIN of either. -/
def pkgSet (bank : Nat) (h : ImgHdr) (l : List PkgEntry) : FwSet :=
  let fw := l.filter (fun x => x.kind != 3)
  { bank := bank, gen := h.gen, svn := h.word40 % 65536, hlv := fw.foldl (fun a x => max a x.hlv) 0,
    hlvmin := fw.foldl (fun a x => max a x.hlvmin) 0 }

/-- Staged and running set work with each other (R347). -/
def compatible (staged run : FwSet) : Bool := Nat.ble staged.hlvmin run.hlv && Nat.ble run.hlvmin staged.hlv

/-- The whole of R349 on a package for bank `bank`: the first failure, or the set. -/
def State.pkgVerify (s : State) (img : List Octet) (bank : Nat) : (Nat × Nat) ⊕ FwSet :=
  match s.pkgCheck img with
  | .inl e => .inl e
  | .inr (h, l, pt) =>
    let f := pkgSet bank h l
    match s.upd.run.filter (fun r => !compatible f r) with
    | some r => .inl (11, r.hlv)
    | none => match pkgImage pt l 3 with
      | none => .inr f
      | some c => match s.imgPass1 c with
        | .inl e => .inl (12, e.1)
        | .inr ch => match s.imgPass2 c ch with
          | .inl e => .inl (12, e.1)
          | .inr _ => if h.gen < ch.word40 then .inl (12, 0xC) else .inr f

/-! ### Commands -/

/-- UPD_STATUS.STATE (R351). -/
def State.updState (s : State) : Nat := s.fld F.UPD_STATUS_STATE

/-- Move to a state of R351. -/
def State.updTo (s : State) (n : Nat) : State := s.setFld F.UPD_STATUS_STATE n

/-- The running command ends: OUTCOME, DETAIL, TAG, source 180. -/
def State.updEnd (s : State) (outcome detail : Nat) : State :=
  match s.upd.cmd with
  | none => s
  | some (_, tag) =>
    let s1 := ((s.setFld F.UPD_CMDSTAT_OUTCOME outcome).setFld F.UPD_CMDSTAT_DETAIL detail).setFld F.UPD_CMDSTAT_TAG tag
    ({ s1.setFlag F.UPD_CMDSTAT_BUSY false with upd := { s1.upd with cmd := none } }).fire 180

/-- What bars a command before its own checks (R351, R352, R359, R393, R456): the state, then keel service. -/
def State.updBar (s : State) (op : Nat) : Option Nat :=
  let st := s.updState
  let okState :=
    if op = 1 then st == 0 || st == 1 || st == 3 || st == 5
    else if op = 2 then st == 1
    else if op = 3 then st == 3
    else if op = 4 then st == 5 && (!s.on F.CHIP_START_NOFW && (s.level != 0 && !s.on F.TST_STATUS_BUSY))
    else if op = 5 then st == 7
    else Nat.ble 1 st && Nat.ble st 5
  if op = 0 ∨ 6 < op then some 14
  else if !okState then some 13
  else if op ≤ 4 ∧ s.keel = true then some 19
  else none

/-- LOAD ends the packet it names as delivered, whatever its outcome (R348). -/
def State.loadEnds (s : State) (rq : Req) : State :=
  if (s.heldPkt rq (s.fld F.UPD_ARG_CELL)).isSome then s.endAged (s.fld F.UPD_ARG_CELL) .deliv else s

/-- A write of UPD_CMD: ignored while BUSY, or while SVN fuses of a start wait to be burned (R356). -/
def State.updCmd (s : State) (rq : Req) (op tag : Nat) (act : State → State) : State :=
  s.gated rq Reg.UPD_CMD (BitVec.ofNat 32 (op % 16 + 16 * (tag % 256))) (fun u =>
    if u.on F.UPD_CMDSTAT_BUSY || u.upd.waits == some .svn then u
    else
      let v := ({ u with upd := { u.upd with cmd := some (op, tag % 256) } }).setFlag F.UPD_CMDSTAT_BUSY true
      match v.updBar op with
      | some o => (if op = 1 then v.loadEnds rq else v).updEnd o 0
      | none => act v)

/-- LOADING: nothing staged is verified any more. -/
def State.updLoading (s : State) : State :=
  let s1 := (s.updTo 1).setReg Reg.UPD_STGGEN 0
  { s1 with upd := { s1.upd with ready := none } }

/-- UPD_LOAD (R336, R348). -/
def execUpdLoad (rq : Req) (tag : Nat) (s : State) : Host.Outcome State Fault Refusal :=
  .next (s.updCmd rq 1 tag (fun u =>
    let cell := u.fld F.UPD_ARG_CELL
    let ofs := u.fld F.UPD_OFS_OFS
    match u.heldPkt rq cell with
    | none => u.updEnd 15 0
    | some p =>
      if u.regionFaults rq 4 then
        ((u.xwFault rq 4 14 (cellAddr cell (u.regionBase 10)) false).endAged cell .deliv).updEnd 20 0
      else
        let u1 := u.endAged cell .deliv
        if ofs % 4096 ≠ 0 ∨ 16777216 < ofs + p.data.length then u1.updEnd 14 0
        else
          let u2 := u1.updLoading.bump Ctr.UPD_LOADS
          ({ u2 with upd := { u2.upd with staging := pagesWrite u2.upd.staging 0 ofs p.data } }).updEnd 0 0))

/-- The staged package, as long as its header says. -/
def State.stagedPkg (s : State) : List Octet :=
  let h := pagesRead s.upd.staging 0 0 256
  match updHdr h with
  | none => h
  | some x => pagesRead s.upd.staging 0 0 x.len

/-- The checks of R349 end: VERIFIED, or back in LOADING with source 181. -/
def State.verifyEnd (u : State) : State :=
  let img := u.stagedPkg
  match u.pkgVerify img (1 - u.dir.com) with
  | .inl e => (((u.updTo 1).bump Ctr.UPD_VERIFYFAIL).fire 181).updEnd e.1 e.2
  | .inr f =>
    let u1 := ((u.updTo 3).setReg Reg.UPD_STGGEN (BitVec.ofNat 32 f.gen)).bump Ctr.UPD_VERIFYOK
    ({ u1 with upd := { u1.upd with ready := some f, length := img.length } }).updEnd 0 0

/-- UPD_VERIFY (R349, R351): the write begins VERIFYING, the run ends it. -/
def execUpdVerify (st : CmdStep) (tag : Nat) (s : State) : Host.Outcome State Fault Refusal :=
  .next (match st with
    | .write rq => s.updCmd rq 2 tag (fun u => u.updTo 2)
    | .run t =>
      let u := s.at t
      if u.updState = 2 then u.verifyEnd else u)

/-- CFG has released the flash (R38). -/
def State.flashFree (s : State) : Bool := s.fld F.CFG_STATUS_STATE == 5 || s.fld F.CFG_STATUS_STATE == 6

/-- UPD still owes `w`: a dip that holds it queues the operation (R418). -/
def State.updWait (s : State) (w : UpdWait) (o : HeldOp) : State :=
  let s1 := { s with upd := { s.upd with waits := some w } }
  if s1.dipNow then (if s1.pwr.held.contains o then s1 else s1.holdOp o) else s1

/-- A journal entry of KVT is being written, to which UPD's flash writes yield (R309, R359). -/
def State.kvtWriting (s : State) : Bool := s.kvt.journal.any (fun (j : Journal) => j.started)

/-- Nothing keeps UPD from its flash writes: no dip, CFG has released the flash, KVT writes none of it, and the host has no command (R481). -/
def State.updFree (s : State) : Bool := !s.dipNow && (s.flashFree && (!s.kvtWriting && s.hif.xcmd.isNone))

/-- A failed flash write, bank check or copy check: counted, source 186. -/
def State.flashErr (s : State) : State := (s.bump Ctr.UPD_FLASHERR).fire 186

/-- The bank being loaded or tried: the one that is not committed. -/
def State.otherBank (s : State) : Nat := 1 - s.dir.com

/-- Write a record that gives the other bank state `st`. -/
def State.markBank (s : State) (st gen svn : Nat) : State := s.dirWrite (s.dir.setBank s.otherBank st gen svn)

/-- The running set as UPD_RUNGEN shows it. -/
def State.showRun (s : State) : State := s.setReg Reg.UPD_RUNGEN (BitVec.ofNat 32 (s.upd.run.elim 0 (fun f => f.gen)))

/-- The active and the idle banks change places (R353, R357). -/
def State.swapSets (s : State) : State :=
  State.showRun { s with upd := { s.upd with run := s.upd.idle, idle := s.upd.run } }

/-- Burn SVN fuses up to `n` (R346). -/
def State.burnSvn (s : State) (n : Nat) : State :=
  { s with upd := { s.upd with fuses := max s.upd.fuses (min 256 n) } }

/-- Steps 4 and 5 of R350 after the read-back: the idle banks hold the images, the bank is VALID. -/
def State.writeEnd (s : State) : State :=
  match s.upd.ready with
  | none => s
  | some f => (((s.markBank 1 f.gen f.svn)).updTo 5).updEnd 0 0

/-- A rollback ends (R357): the trial bank is FAILED, source 184, IDLE. -/
def State.rollbackEnd (s : State) (cause : Nat) : State :=
  let b := s.dir.bank s.otherBank
  let s1 := s.dirWrite { s.dir.setBank s.otherBank 3 b.2.1 b.2.2 with lastrb := cause }
  let s2 := ((s1.updTo 0).bump Ctr.UPD_ROLLBACKS).setReg Reg.UPD_STGGEN 0
  ({ s2 with upd := { s2.upd with ready := none, staging := [] } }).fire 184

/-- Carry out what waits, once nothing holds it: a fuse burn needs no flash. -/
def State.updResume (s : State) : State :=
  match s.upd.waits with
  | none => s
  | some w =>
    if (if w == .svn then s.dipNow else !s.updFree) then s
    else
      let u := { s with upd := { s.upd with waits := none } }
      match w with
      | .empty => u.markBank 0 0 0
      | .valid => u.writeEnd
      | .trial => let b := u.dir.bank u.otherBank; u.markBank 2 b.2.1 b.2.2
      | .back => let b := u.dir.bank u.otherBank; u.markBank 1 b.2.1 b.2.2
      | .failed c => u.rollbackEnd c
      | .commit => u
      | .svn => u.burnSvn (u.dir.bank u.dir.com).2.2

/-- The committed bank's SVN asks for more fuses than are burned (R356): they are burned before UPD accepts a command. -/
def State.svnDue (s : State) : State :=
  if s.upd.fuses < (s.dir.bank s.dir.com).2.2 then (s.updWait .svn .svnFuse).updResume else s

/-- UPD_WRITE (R350): step 1 writes the bank EMPTY. -/
def execUpdWrite (rq : Req) (tag : Nat) (s : State) : Host.Outcome State Fault Refusal :=
  .next (s.updCmd rq 3 tag (fun u => ((u.updTo 4).updWait .empty .directory).updResume))

/-- Flash offset of bank `b` (R341). -/
def bankOffset (b : Nat) : Nat := 0x01020000 + 0x1000000 * b

/-- Step 2 of R350: the bank is erased and takes the octets. -/
def State.bankWrite (s : State) (b : Nat) (l : List Octet) : State :=
  (s.flashErase (bankOffset b) 0x1000000).flashWrite (bankOffset b) l

/-- UPD_WRITE_DONE (R350): steps 2 to 5, or FLASH, with `left` what the failure leaves in the erased bank. -/
def execUpdWriteDone (left : Option (List Octet)) (s : State) : Host.Outcome State Fault Refusal :=
  .next (if s.updState ≠ 4 ∨ s.upd.waits.isSome = true ∨ s.updFree = false then s
  else match left with
    | some l => ((s.bankWrite s.otherBank l).flashErr.updTo 3).updEnd 18 0
    | none =>
      let s1 := s.bankWrite s.otherBank (pagesRead s.upd.staging 0 0 s.upd.length)
      let s2 := { s1 with upd := { s1.upd with idle := s1.upd.ready } }
      (s2.updWait .valid .directory).updResume)

/-- The conditions of R352 that only a cascade has. -/
def State.cascadeOk (s : State) (gen : Nat) : Bool :=
  let me := s.fld F.CSC_CFG_CHIPID
  let ps := s.csc.peers.filter (fun e => e.1 != me && Nat.blt e.1 16)
  let gens := ps.filterMap (fun e => e.2.2.gen)
  s.fld F.CSC_CFG_ROLE == 0 ||
    (!ps.any (fun e => e.2.2.inTrial) && (ps.all (fun e => e.2.2.gen.isSome) &&
      ((gen :: gens).all (fun a => (gen :: gens).all (fun b => Nat.ble a (b + 1))) &&
        (s.fld F.CSC_STATUS_ACTROLE != 1 || ps.all (fun e => e.2.2.act != 2 || Nat.ble gen (e.2.2.gen.getD 0))))))

/-- UPD_ACTIVATE (R351, R352): PAUSE with the bank TRIAL, or CASCADE with source 187. -/
def execUpdActivate (rq : Req) (tag : Nat) (s : State) : Host.Outcome State Fault Refusal :=
  .next (s.updCmd rq 4 tag (fun u =>
    match u.upd.ready with
    | none => u.updEnd 13 0
    | some f =>
      if !u.cascadeOk f.gen then (u.fire 187).updEnd 16 0
      else
        let u1 := ((u.updTo 6).setReg Reg.UPD_HEALTH 0)
        let u2 := { u1 with upd := { u1.upd with level := u1.level } }
        (u2.updWait .trial .directory).updResume))

/-- SUP's watchdog is suspended in a pause (R353): its period goes on after `ns` nanoseconds of it. -/
def State.wdPause (s : State) (ns : Nat) : State := { s with sup := { s.sup with wdFt := s.sup.wdFt + ns / 1000 } }

/-- A failure condition of R355 in TRIAL begins the rollback; in PAUSE a failure of SUP does so too (R354), and keel service (R359). -/
def State.trialFail (s : State) (cause : Nat) : State :=
  if s.updState = 7 ∨ (s.updState = 6 ∧ (cause = 2 ∨ cause = 7)) then
    let s1 := s.updTo 9
    { s1 with upd := { s1.upd with cause := cause } }
  else s

/-- The service level is below that of the activation (R355). -/
def State.levelFell (s : State) : State := if s.level < s.upd.level then s.trialFail 4 else s

/-- QUIESCE_COMPLETE (R353): the banks switch, TRIAL begins; `ns` is the length of the pause. -/
def execQuiesceComplete (t : Time) (ns : Nat) (s : State) : Host.Outcome State Fault Refusal :=
  .next (
    let u := s.at t
    if u.updState ≠ 6 ∨ u.upd.waits.isSome = true then u
    else
      let u1 := ((u.swapSets.updTo 7).setFld F.UPD_PAUSE_NS ns).bump Ctr.UPD_ACTIVATES
      (((({ u1 with upd := { u1.upd with trialFt := u1.gtb.ft } }).wdPause ns).fire 182).updEnd 0 0).levelFell)

/-- QUIESCE_TIMEOUT (R354): the old set resumes, the bank is VALID again, source 185. -/
def execQuiesceTimeout (ns : Nat) (s : State) : Host.Outcome State Fault Refusal :=
  .next (if s.updState ≠ 6 ∨ s.upd.waits.isSome = true then s
  else
    let u := (((s.updTo 5).setFld F.UPD_PAUSE_NS ns).wdPause ns).fire 185
    ((u.updWait .back .directory).updResume).updEnd 17 0)

/-- Keel service ends a VERIFY or a WRITE that runs (R359): the package is in LOADING again as after a step that fails, or stays VERIFIED as
after a flash failure. -/
def State.updKeel (s : State) : State :=
  if s.updState = 2 then (s.updTo 1).updEnd 19 0
  else if s.updState = 4 then (State.updTo { s with upd := { s.upd with waits := none } } 3).updEnd 19 0 else s

/-- TRIAL_WINDOW_END (R355): 60 s after the trial began, ±1 ms. -/
def execTrialWindowEnd (t : Time) (s : State) : Host.Outcome State Fault Refusal :=
  .next (
    let u := s.at t
    if u.updState ≠ 7 ∨ u.gtb.ft < u.upd.trialFt + 59999000 then u
    else if u.reg Reg.UPD_HEALTH = 0x1F then u.updTo 8
    else u.trialFail 1)

/-- Switch back to the previous set where the new one runs (R357). -/
def State.switchBack (s : State) (cause ns : Nat) : State :=
  let s1 := if s.upd.run.any (fun f => f.bank == s.otherBank) then s.swapSets else s
  let s2 := ((s1.updTo 9).setFld F.UPD_PAUSE_NS ns).wdPause ns
  ((s2.updWait (.failed cause) .directory).updResume)

/-- UPD_ROLLBACK (R357): written in TRIAL, or after a failure condition, where a running ACTIVATE ends, KEEL in keel service (R359);
`ns` is the length of the pause. -/
def execUpdRollback (by_ : Rollback) (ns : Nat) (s : State) : Host.Outcome State Fault Refusal :=
  .next (match by_ with
  | .written rq tag => s.updCmd rq 5 tag (fun u => (u.switchBack 5 ns).updEnd 0 0)
  | .failure =>
    if s.updState ≠ 9 ∨ s.upd.waits.any (fun w => w != .trial) = true then s
    else (s.switchBack s.upd.cause ns).updEnd (if s.keel then 19 else 17) 0)

/-- UPD_ABORT (R351): staging is discarded. -/
def execUpdAbort (rq : Req) (tag : Nat) (s : State) : Host.Outcome State Fault Refusal :=
  .next (s.updCmd rq 6 tag (fun u =>
    let u1 := (u.updTo 0).setReg Reg.UPD_STGGEN 0
    ({ u1 with upd := { u1.upd with ready := none, staging := [] } }).updEnd 0 0))

/-- Write a configuration image into copy `k` and check it; a copy that fails is written once more (R356). -/
def State.copyWrite (s : State) (k : Nat) (img : List Octet) (bad : Bool) : State :=
  let s1 := s.flashWrite (copyOffset k) img
  if bad || (s1.imgCheck img).isSome then s1.flashErr else s1

/-- UPD_COMMIT_DONE (R356): directory, SVN fuses, then the configuration image into copy 1 and copy 0. `bad1` and `bad0` say
that the flash fails the first check of a copy. -/
def execUpdCommitDone (bad1 bad0 : Bool) (s : State) : Host.Outcome State Fault Refusal :=
  .next (if s.updState ≠ 8 then s
  else if !s.updFree then (if s.dipNow && s.upd.waits.isNone then s.updWait .commit .directory else s)
  else
    let b := s.otherBank
    let x := s.dir.bank b
    let old := s.dir.bank s.dir.com
    let d := (s.dir.setBank b 1 x.2.1 x.2.2).setBank s.dir.com 1 old.2.1 old.2.2
    let s1 := ((s.dirWrite { d with com := b })).burnSvn x.2.2
    let img := match s1.pkgCheck (s1.flashRead (bankOffset b) s1.upd.length) with
      | .inr (_, l, pt) => pkgImage pt l 3
      | .inl _ => none
    let s2 := match img with
      | none => s1
      | some c => (s1.copyWrite 1 c bad1).copyWrite 0 c bad0
    let s3 := ((s2.updTo 0).bump Ctr.UPD_COMMITS).setReg Reg.UPD_STGGEN 0
    let s4 := ({ s3 with upd := { s3.upd with ready := none, staging := [], waits := none } }).fire 183
    s4.cfg.check.elim s4 (fun k => s4.runCheck k))

/-- The service level changes; a fall below the level at activation fails a trial (R355). -/
def State.toLevel (s : State) (n : Nat) : State :=
  (s.setFld F.CHIP_START_LEVEL n).levelFell

end Sys2Proof.Machine
end

