-- ==== Sys2Proof/Machine/Sup.lean ====
section
/-! DEFINITION. The supervisor and the Fallback Sequencer (chapter 21), unit memory errors (R422, class 5), loss of REFCLK
(R424), debug halts and internal scans (R339, R340). -/

namespace Sys2Proof.Machine

/-! ### SUP failures and keel service (R425, R427, R430) -/

/-- SUP_STATUS follows the Fallback Sequencer and the notice queue. -/
def State.showFs (s : State) : State :=
  ((s.setFld F.SUP_STATUS_FSSTATE (match s.sup.fs with
    | .normal => 0
    | .restart => 1
    | .keel => 2)).setFlag F.SUP_STATUS_KEEL s.keel).setFld F.SUP_STATUS_NOTQ s.sup.notices.length

/-- A running SOLVE ends KEEL, and with it the held one and a JOIN that waits for the anchor (R429). -/
def State.solveKeel (s : State) : State :=
  let s1 := s.slv.solve.elim s (fun r => s.slvEndAll (r.cmd :: r.also) 5 0 (s.gtb.ft - r.startFt))
  let s2 := (s1.slvEndAll s.slv.held 5 0 0).joinAnswer 5 none
  { s2 with slv := { s2.slv with solve := none, held := [] } }

/-- Keel service is entered (R430): SUP is held in reset, FAIL_N falls, a trial rolls back, SLV's runs end. -/
def State.enterKeel (s : State) : State :=
  let s1 := (({ s with sup := { s.sup with fs := .keel, restartAt := none } }).setFlag F.SUP_STATUS_RUN false).setFlag
    F.CHIP_START_KEEL true
  let s2 := (s1.setFlag F.UPD_STATUS_KEEL true).showFs.fire 26
  ((s2.drive.trialFail 7).updKeel).solveKeel

/-- The notices held are replayed in the order of their detection (R426). -/
def State.replay (s : State) : State :=
  (s.sup.notices.foldl (fun (t : State) (n : Notice) => t.recordNotice n)
    { s with sup := { s.sup with notices := [] } }).showFs

/-- SUPDIV (class 1) or SUPWD (class 2) is detected (R425). In keel service it is only recorded. The notices held when keel service begins
are recorded then, in the order of detection, since no SUP is left to take them. -/
def State.supFail (s : State) (cls : Nat) : State :=
  let again := s.sup.fs == .restart || (match s.sup.restartAt with
    | some a => Nat.blt s.gtb.ft (a + 10000000)
    | none => false)
  if s.sup.fs = .keel then s.recordNotice (s.mkNotice cls 17 2 0xFFFF 0 s.gtIfValid)
  else if again then
    let s1 := s.replay
    ((s1.recordNotice (s1.mkNotice cls 17 2 0xFFFF 4 s.gtIfValid)).trialFail 2).enterKeel
  else
    let s1 := s.recordNotice (s.mkNotice cls 17 1 0xFFFF 1 s.gtIfValid)
    let s2 := { s1 with sup := { s1.sup with fs := .restart, restartAt := some s1.gtb.ft } }
    (((s2.setFlag F.SUP_STATUS_RUN false).showFs.bump Ctr.SUP_RESTARTS).fire 25).trialFail 2

/-- SUP_DIVERGENCE (R422, R425). -/
def execSupDivergence (t : Time) (s : State) : Host.Outcome State Fault Refusal :=
  let s0 := s.at t
  .next (if s0.on F.SUP_STATUS_RUN || s0.sup.fs != .normal then s0.supFail 1 else s0)

/-- SUP_WATCHDOG_EXPIRY (R425): WDPER µs after the watchdog was last restarted; suspended in a pause (R353) and while SUP is
halted. -/
def execSupWatchdogExpiry (t : Time) (s : State) : Host.Outcome State Fault Refusal :=
  let s0 := s.at t
  let runs := (s0.on F.SUP_STATUS_RUN || s0.sup.fs == .restart) && (!s0.sup.halted && !s0.pausing)
  .next (if runs && Nat.ble (s0.sup.wdFt + s0.fld F.SUP_CFG_WDPER) s0.gtb.ft then s0.supFail 2 else s0)

/-- The watchdog starts its period again. -/
def State.wdRestart (s : State) : State := { s with sup := { s.sup with wdFt := s.gtb.ft } }

/-- SUP_WDOG_KICK (R425): 0x5A5A restarts the watchdog, any other value expires it. -/
def execSupWdogKick (t : Time) (rq : Req) (v : Word) (s : State) : Host.Outcome State Fault Refusal :=
  .next ((s.at t).gated rq Reg.SUP_WDOG v (fun u =>
    if F.SUP_WDOG_KICK.ext v = 0x5A5A then u.wdRestart
    else if u.on F.SUP_STATUS_RUN || u.sup.fs != .normal then u.supFail 2
    else u))

/-- SUP_RESUME (R425, R427). -/
def execSupResume (t : Time) (s : State) : Host.Outcome State Fault Refusal :=
  let s0 := s.at t
  .next (if s0.sup.fs = .restart then
    ((({ s0 with sup := { s0.sup with fs := .normal } }).setFlag F.SUP_STATUS_RUN true).wdRestart).replay
  else s0)

/-! ### PRC processors (R428) -/

/-- PRC_WATCHDOG_EXPIRY (R428): processor `p` is restarted, or held in reset after three restarts in 10 s. `memErr` is an
uncorrectable error of its local memory (source 245); `held` names the packets it had popped and not ended. -/
def execPrcWatchdogExpiry (t : Time) (p : Nat) (memErr : Bool) (held : List Nat) (s : State) :
    Host.Outcome State Fault Refusal :=
  let s0 := s.at t
  .next (if !(Nat.blt p 4 && bit (s0.fld F.PRC_STATUS_RUN) p) then s0
  else
    let lost := held.filter (fun c => (s0.qmg.pkts.find c).any (fun (x : Pkt) => x.holder == Holder.init .prc))
    let s1 := lost.foldl (fun (u : State) c => u.endPkt c (.drop 9)) s0
    let recent := s1.sup.prcRestarts.filter (fun (x : Nat × Nat) => x.1 == p && Nat.blt s1.gtb.ft (x.2 + 10000000))
    let hold := Nat.ble 3 recent.length
    let n := if memErr then s1.mkNotice 5 23 245 245 (if hold then 3 else 2) s1.gtIfValid
      else s1.mkNotice 3 23 p 0xFFFF (if hold then 3 else 2) s1.gtIfValid
    let s2 := (s1.fireIf memErr 245).report n
    let s3 := s2.setFld F.PRC_STATUS_RUN (setBit (s2.fld F.PRC_STATUS_RUN) p false)
    let s4 := if hold then
        (((s3.setFld F.PRC_STATUS_HELD (setBit (s3.fld F.PRC_STATUS_HELD) p true)).setFld F.SUP_STATUS_PRCHELD
          (setBit (s3.fld F.SUP_STATUS_PRCHELD) p true)).fire 27).drive
      else
        ({ s3 with sup := { s3.sup with prcRestarts := s3.sup.prcRestarts ++ [(p, s3.gtb.ft)] } }.bump
          Ctr.SUP_PRCRESTARTS).fire 240
    if memErr then s4 else s4.trialFail 3)

/-- PRC_RESTART_DONE (R428): the processor is at its restart point. -/
def execPrcRestartDone (p : Nat) (s : State) : Host.Outcome State Fault Refusal :=
  .next (if p < 4 ∧ s.upd.run.isSome = true ∧ bit (s.fld F.PRC_STATUS_HELD) p = false ∧ s.fld F.PRC_STATUS_RUN / 2 ^ p % 2 = 0
      ∧ s.sup.prcRestarts.any (fun (x : Nat × Nat) => x.1 == p) = true
    then s.setFld F.PRC_STATUS_RUN (setBit (s.fld F.PRC_STATUS_RUN) p true) else s)

/-- FS_REPLICA_MISMATCH (R422): the replica is resynchronised from the other two. -/
def execFsReplicaMismatch (s : State) : Host.Outcome State Fault Refusal :=
  .next ((s.bump Ctr.SUP_FSREPL).reportNow 4 17 0xFFFF 0xFFFF)

/-! ### Unit memory errors and notices (R422, R426) -/

/-- MSQ removes cells by their place in the store; SLV restores them by patch (R396). -/
def dropAt (l : List Cell) (is : List Nat) : List Cell :=
  ((List.range l.length).filter (fun i => !is.contains i)).filterMap (fun i => l[i]?)

/-- The local containment of an error (R422, R396 and the units' chapters). A demand read of DRAM is corrected or not (R401): its
reader is told by a fault of its own. -/
def State.contain (s : State) (f : UnitFault) : State :=
  match f with
  | .sic job => s.sicBufferError job
  | .cdcRx l =>
    match s.dmx.lanes.find l with
    | some x => ((s.laneCut { gt := s.gtb.gt, ft := s.gtb.ft } l x 5).fire 91).reportNow 5 6 91 91
    | none => s
  | .cdcTx id chips =>
    match s.findStream id with
    | some (n, x) => ((s.abortStream n x (if x.active then some chips else none)).fire 91).reportNow 5 6 91 91
    | none => s
  | .msqRecord r =>
    let s1 := match s.nbr r with
      | some n =>
        if s.on F.MEM_STATUS_TRAINED then s
        else
          let k := s.queuedPkts r
          let s2 := (s.setNbr r { n with st := 3, retries := 0 }).forgetHead r
          (((s2.flushQueue r 2).bump Ctr.MSQ_TXLOST k).bump Ctr.MSQ_LOST).tell (.lost n.node)
      | none => s
    (s1.fire 109).reportNow 5 7 109 109
  | .msqCells is =>
    let s1 := if s.on F.MEM_STATUS_TRAINED then s else { s with msq := { s.msq with cells := dropAt s.msq.cells is } }
    (s1.fire 109).reportNow 5 7 109 109
  | .msqCounters => ((s.fire 109).strike F.SUP_AUDIT_MSQ).reportNow 5 7 109 109
  | .slv => (s.slvAbortRun.fire 130).reportNow 5 9 130 130
  | .bgt key => s.acctError key
  | .cell start => if (s.qmg.pkts.find start).isSome then s.pktDataError start else s
  | .hif n pkt =>
    let s1 := match pkt with
      | some c =>
        if (s.qmg.pkts.find c).any (fun (x : Pkt) => x.holder == Holder.hw 19 n) then
          { (s.endPkt c (.drop 9)) with hif := { s.hif with cur := s.hif.cur.del n, wire := s.hif.wire.del n } }
        else s
      | none => if n < 2 then s.bump (Ctr.HIF_P0DROP + 8 * n) else s
    (s1.fire 227).reportNow 5 19 227 227
  | .i3 p => if p < 4 then s.i3Error p else s
  | .dram fixed reader ch region addr =>
    if !s.domReady 17 then s else if fixed then s.memCorrected else s.memUncorrectable reader ch region addr false
  | .other cls unit detail src => if 1 ≤ cls ∧ cls ≤ 11 then s.reportNow cls (unit % 32) (detail % 2 ^ 20) src else s

/-- SUP_NOTICE (R422, R426): a unit contains a fault and reports it; the notice is held while SUP restarts or is halted. -/
def execSupNotice (t : Time) (f : UnitFault) (s : State) : Host.Outcome State Fault Refusal :=
  .next (((s.at t).contain f).showFs)

/-- SUP_LOGPOP (R431): the oldest log entry is removed. -/
def execSupLogpop (rq : Req) (s : State) : Host.Outcome State Fault Refusal :=
  .next (s.gated rq Reg.SUP_LOGPOP 1 (fun u => { u with sup := { u.sup with log := u.sup.log.drop 1 } }))

/-! ### REFCLK (R424) -/

/-- REFCLK_LOSS (R424): cause CLOCK; on a crystal AON_CLK, GT goes on in HOLD. -/
def execRefclkLoss (t : Time) (refcnt : Nat) (s : State) : Host.Outcome State Fault Refusal :=
  let s0 := s.at t
  .next (if (s0.dom 1).mode != .on then
    (if s0.pwr.mode == .inMode .aononly && (s0.on F.PWR_CLKSEL_AONSRC || s0.on F.PWR_STATUS_XTALFAIL) then s0.dropHold else s0)
  else if s0.sup.refclkLost then s0
  else
    let s1 := ({ s0 with sup := { s0.sup with refclkLost := true } }).drive
    if s1.on F.PWR_CLKSEL_AONSRC then s1
    else if s1.gtValid && s1.gtbState != 2 then (if s1.gtbState = 4 then s1.clearStep else s1).enterHold refcnt
    else s1)

/-- REFCLK_RETURN (R424): CLOCK ends; where GT had stopped, GTB goes on from the holdover record in HOLD (R84). `t` holds the
grid time that the holdover counter gives. -/
def execRefclkReturn (t : Time) (refcnt : Nat) (s : State) : Host.Outcome State Fault Refusal :=
  .next (if !s.sup.refclkLost then s
  else
    let s1 := (({ s with sup := { s.sup with refclkLost := false } }).at t).drive
    if s1.on F.PWR_CLKSEL_AONSRC && s1.gtb.holdRec.isSome then s1.enterHold refcnt else s1)

/-! ### Debug (R339, R340) -/

/-- DEBUG_HALT (R339): as CHIP_WMAP1.DBG allows; a secure context defers the halt. -/
def execDebugHalt (t : Time) (sup : Bool) (p : Nat) (s : State) : Host.Outcome State Fault Refusal :=
  let s0 := s.at t
  let dbg := F.CHIP_WMAP1_DBG.ext (s0.wmap Reg.CHIP_WMAP1)
  .next (if sup then
      if dbg = 2 ∧ s0.on F.SUP_STATUS_RUN = true then ({ s0 with sup := { s0.sup with halted := true } }).fire 5 else s0
    else if p < 4 ∧ bit (s0.fld F.PRC_STATUS_RUN) p = true ∧ (dbg = 1 ∨ dbg = 2) then
      if dbg = 1 ∧ bit (s0.fld F.PRC_STATUS_SECCTX) p = true then
        { s0 with sup := { s0.sup with haltWait := p :: s0.sup.haltWait.filter (fun x => x != p) } }
      else s0.haltPrc p
    else s0)

/-- DEBUG_HALT_END (R339, R426): SUP's watchdog resumes and the notices held are replayed. -/
def execDebugHaltEnd (t : Time) (sup : Bool) (p : Nat) (s : State) : Host.Outcome State Fault Refusal :=
  let s0 := s.at t
  .next (if sup then
      if s0.sup.halted then
        let s1 := ({ s0 with sup := { s0.sup with halted := false } }).wdRestart
        if s1.sup.fs = .restart then s1 else s1.replay
      else s0
    else { s0 with sup := { s0.sup with prcHalt := s0.sup.prcHalt.filter (fun x => x != p),
                                        haltWait := s0.sup.haltWait.filter (fun x => x != p) } })

/-- PD_SEC starts (R312, R325): START, in which the tests run; nothing of a key or a command is left from before. The fused identity is
sensed again, and so are the epoch fuses (R310); at the first power-on the root is burned (R302). -/
def State.secStart (s : State) : State :=
  let s1 := (s.kvtTo 0).setFlag F.KVT_STATUS_CACHEONLY true
  let s2 := (s1.setFlag F.CRY_STATUS_SELFTESTOK false).setFlag F.CRY_STATUS_DRBGOK false
  let s3 := (s2.setRegs (Reg.KVT_DEVIDk 0) (packWords 4 Config.deviceId)).setRegs (Reg.KVT_ANCHORk 0)
    (packWords 12 Config.ownerAnchor)
  let s4 := ((s3.setRegs (Reg.KVT_ITKPUBk 0) (List.replicate 24 0)).setRegs (Reg.KVT_IDPUBk 0) (List.replicate 24 0)).setFlag
    F.KVT_CMDSTAT_BUSY false
  (State.rootBurn { s4 with kvt := { s4.kvt with slots := [], cache := [], wrapped := [], cmd := none, waiting := [], journal := [], burns := 0,
                                                 burnZero := false, burnStarted := false, drbgReqs := 0, scan := false, derived := false,
                                                 sick := false, answer := none } }).epochShow.updResume

/-- DEBUG_SCAN_START (R340): derived keys, cache, masks and the sense latches (the device ID and the owner anchor) are cleared before the
first shift. DBG = 2 allows it, and in approved mode none takes place (R324). -/
def execDebugScanStart (s : State) : Host.Outcome State Fault Refusal :=
  .next (if F.CHIP_WMAP1_DBG.ext (s.wmap Reg.CHIP_WMAP1) = 2 ∧ s.on F.KVT_CFG_APPROVED = false ∧ s.domReady 16 = true then
    let s1 := s.kvtTo 0
    let s2 := (s1.setRegs (Reg.KVT_DEVIDk 0) (List.replicate 4 0)).setRegs (Reg.KVT_ANCHORk 0) (List.replicate 12 0)
    { s2 with kvt := { s2.kvt with cache := [], slots := [], wrapped := [], scan := true, derived := false, answer := none } }
  else s)

/-- DEBUG_SCAN_END (R340): PD_SEC starts again. -/
def execDebugScanEnd (s : State) : Host.Outcome State Fault Refusal := .next (if s.kvt.scan then s.secStart else s)

end Sys2Proof.Machine
end

