-- ==== Sys2Proof/Machine/Power.lean ====
section
/-! DEFINITION. Power domains and supply dips (chapter 20), and what a reset leaves (R386, R387). -/

namespace Sys2Proof.Machine

/-! ### What a reset leaves (R386, R387) -/

/-- The registers of PD_AON keep their values, but for PWR_DOMREQ (R405), and for what the Fallback Sequencer and SUP show of a
PD_SYS that is gone (chapter 21). -/
def State.aonRegs (s : State) : Tab Word :=
  s.regs.only (fun a _ => domOf a == 0 && (a != Reg.PWR_DOMREQ0 && (a != Reg.PWR_DOMREQ1 && a != Reg.SUP_STATUS)))

/-- The DRAM serves its consumers' copies: it is trained, or held in self-refresh. -/
def State.dramHolds (s : State) : Bool := s.on F.MEM_STATUS_TRAINED || s.on F.MEM_STATUS_SELFREF

/-- MSQ's copy of its records and cells in DRAM (R395). -/
def State.msqCopy (s : State) : Option (Tab Nbr × List Cell) :=
  if s.on F.MEM_STATUS_TRAINED then some (s.msq.nbrs, s.msq.cells) else s.mem.copy

/-- Every domain but PD_AON, or with it where `aon` is false, loses what it holds. Flash, fuses, the queue of commands and what
has already left by PCIe are not part of them. `keep` says that DRAM and training values are kept (R387). -/
def State.loseDomains (s : State) (aon keep : Bool) : State :=
  let r : State := { pending := s.pending, free := s.free, flash := s.flash }
  let k := { r with
    evt := { r.evt with sent := s.evt.sent },
    kvt := { r.kvt with store := s.kvt.store, fuses := s.kvt.fuses, flash := s.kvt.flash, antifuse := s.kvt.antifuse },
    upd := { r.upd with fuses := s.upd.fuses },
    sup := { r.sup with refclkLost := s.sup.refclkLost } }
  if !aon then k
  else
    { k with
      regs := s.aonRegs,
      gtb := { k.gtb with gt := s.gtb.gt, holdRec := s.gtb.holdRec },
      kvt := { k.kvt with aonHw := s.kvt.aonHw, aonGen := s.kvt.aonGen },
      sup := { k.sup with log := s.sup.log, logSeq := s.sup.logSeq, notices := s.sup.notices, notOvf := s.sup.notOvf,
                          failPin := s.sup.failPin },
      hif := { k.hif with smbAddr := s.hif.smbAddr, perst := s.hif.perst },
      mem := { k.mem with saved := keep && (s.mem.saved || s.on F.MEM_STATUS_TRAINED), copy := if keep then s.msqCopy else none },
      pwr := { k.pwr with dip := s.pwr.dip, resets := s.pwr.resets,
                          cause := s.pwr.cause, aonKept := true, dramKept := keep } }

/-- PWR_STATUS follows the dip and the held operations. -/
def State.showDip (s : State) : State :=
  let c := s.pwr.dip.any (fun (d : Dip) => d.core)
  let i := s.pwr.dip.any (fun (d : Dip) => d.io)
  ((s.setFlag F.PWR_STATUS_DIPCORE c).setFlag F.PWR_STATUS_DIPIO i).setFlag F.PWR_STATUS_HOLD (!s.pwr.held.isEmpty)

/-- The reset condition of a source begins (R386); any start in progress ends (R400). Before a pin or software reset the DRAM enters
self-refresh, source 210 (R387). -/
def State.resetBy (s0 : State) (c : ResetCause) : State :=
  let s := s0.fireIf ((c == .pin || c == .soft) && !s0.on F.MEM_STATUS_SELFREF) 210
  let x := s.loseDomains (c != .powerOn) (c == .pin || c == .soft)
  let n := if c = .powerOn then 0 else min 65535 (s.pwr.resets + 1)
  let y := { x with pwr := { x.pwr with inReset := true, cause := c, resets := n } }
  State.showDip { y with sup := { y.sup with failPin := y.failLow } }

/-- An exit becomes a start with PD_AON and DRAM kept (R409, R415): no reset source is recorded. -/
def State.becomeStart (s : State) : State :=
  let x := (s.fireIf (!s.on F.MEM_STATUS_SELFREF) 210).loseDomains true true
  State.showDip { x with pwr := { x.pwr with inReset := true } }

/-! ### Dips (R418, R420) -/

/-- PWR_DIPREC takes the dip that ends, or counts it as further. -/
def State.captureDip (s : State) (d : Dip) (durb vminb : Nat) (rst : Bool) : State :=
  if s.on F.PWR_DIPREC_VALID then s.setFlag F.PWR_DIPREC_OVF true
  else s.setReg Reg.PWR_DIPREC (BitVec.ofNat 32
    (1 + 4 * b2n d.firstIo + 8 * (durb % 8) + 64 * (vminb % 4) + 256 * b2n d.held + 512 * b2n rst))

/-- A rail falls below its warning level; in AONONLY the comparators are masked (R414). -/
def State.dipStart (s : State) (io : Bool) : State :=
  if s.pwr.mode = .inMode .aononly ∨ s.pwr.mode = .exiting .aononly then s
  else
    let s1 := match s.pwr.dip with
      | none =>
        let d : Dip := { core := !io, io := io, firstIo := io, held := false, long := false }
        let u := s.bump Ctr.PWR_DIPCNT
        { u with pwr := { u.pwr with dip := some d } }
      | some d =>
        let e : Dip := { d with core := d.core || !io, io := d.io || io }
        { s with pwr := { s.pwr with dip := some e } }
    (s1.showDip).fire (if io then 16 else 15)

/-- CORE_DIP_START (R418). -/
def execCoreDipStart (s : State) : Host.Outcome State Fault Refusal := .next (s.dipStart false)

/-- IO_DIP_START (R418). -/
def execIoDipStart (s : State) : Host.Outcome State Fault Refusal := .next (s.dipStart true)

/-- The dip is over and what it held starts, in the order of the requests (R418). -/
def State.releaseHeld (s : State) : State :=
  s.pwr.held.foldl (fun (u : State) (o : HeldOp) =>
    match o with
    | .journal => u.journalStart
    | .counterBlock => u.journalStart
    | .epochFuse => u.burnStart
    | .svnFuse => u.updResume
    | .directory => u.updResume
    | .bankWrite => u.updResume
    | .imageCopy => u.updResume) { s with pwr := { s.pwr with held := [] } }

/-- DIP_END (R418, R420): both rails have been at release for 100 µs; `durb` and `vminb` are what PWR measured. -/
def execDipEnd (durb vminb : Nat) (s : State) : Host.Outcome State Fault Refusal :=
  .next (match s.pwr.dip with
    | none => s
    | some d =>
      let s1 := s.captureDip d durb vminb false
      let s2 := { s1 with pwr := { s1.pwr with dip := none } }
      (s2.releaseHeld.showDip).fire 17)

/-- DIP_LONG (R418): source 18. -/
def execDipLong (s : State) : Host.Outcome State Fault Refusal :=
  .next (match s.pwr.dip with
    | none => s
    | some d =>
      if d.long then s
      else
        let e : Dip := { d with long := true }
        ({ s with pwr := { s.pwr with dip := some e } }).fire 18)

/-! ### Resets -/

/-- POWER_ON_RESET (R386): PD_AON is lost with the rest. -/
def execPowerOnReset (s : State) : Host.Outcome State Fault Refusal := .next (s.resetBy .powerOn)

/-- PIN_RESET (R386, R387). -/
def execPinReset (s : State) : Host.Outcome State Fault Refusal := .next (s.resetBy .pin)

/-- A supply reset ends the dip that led to it (R420). A rail that fell first and causes the reset has reached its reset level, the last of
the codes; of another first rail the lowest level is the one measured. -/
def State.supplyReset (s : State) (c : ResetCause) (m : DipMeas) : State :=
  if s.pwr.mode = .inMode .aononly ∨ s.pwr.mode = .exiting .aononly then s
  else
    let x := s.resetBy c
    match s.pwr.dip with
    | none => x
    | some d =>
      let y := x.captureDip d m.durb (if d.firstIo == (c == .io) then 3 else m.vminb) true
      ({ y with pwr := { y.pwr with dip := none } }).showDip

/-- CORE_SUPPLY_RESET (R386). -/
def execCoreSupplyReset (m : DipMeas) (s : State) : Host.Outcome State Fault Refusal := .next (s.supplyReset .core m)

/-- IO_SUPPLY_RESET (R386). -/
def execIoSupplyReset (m : DipMeas) (s : State) : Host.Outcome State Fault Refusal := .next (s.supplyReset .io m)

/-- SOFTWARE_RESET (R386): any key but 0xC3A5 is ignored. -/
def execSoftwareReset (rq : Req) (key : Nat) (s : State) : Host.Outcome State Fault Refusal :=
  .next (s.gated rq Reg.CHIP_RESET (BitVec.ofNat 32 (key % 65536)) (fun u =>
    if key % 65536 = 0xC3A5 then (u.resetBy .soft).respond [] true else u))

/-! ### Domain sequences (R408 to R410, R506) -/

/-- The state a sequence is heading for. -/
def Dom.heading (d : Dom) : DomMode :=
  match d.seq with
  | .idle => d.mode
  | .draining m => m
  | .entering m => m
  | .exiting none => .on
  | .exiting (some m) => m
  | .testing m => m

/-- The lanes that group `g` had free were the last of the powered groups (R150). -/
def State.lastLanes (s : State) (g : Nat) : Bool :=
  s.freeCount == 0 && (List.range 32).any (fun k => (s.dmx.lanes.find (32 * g + k)).isNone)

/-- The unit of domain `d` begins to drain on its way to `m` (step 1 of R408): DMX (R151), SIC (R169), SLV (R244), RFP (R99),
CSC (R372), LGC where it goes OFF (R450; its slots go on after DEEPRET, R454). -/
def State.drainUnit (s : State) (t : Time) (d : Nat) (m : DomMode) : State :=
  if 2 ≤ d ∧ d ≤ 9 then (s.setFlag (F.DMX_GgSTAT_DRAIN (d - 2)) true).fireIf (s.lastLanes (d - 2)) 64
  else if 10 ≤ d ∧ d ≤ 13 then s.linkTo t (d - 10) 0
  else if d = 14 then s.sicDrain
  else if d = 15 then s.slvAbortAll
  else if d = 19 then (List.range 4).foldl (fun (u : State) n => u.portTo n 0) s
  else if d = 20 ∧ m = .off then (List.range 4).foldl (fun (u : State) p => u.i3Off p) s
  else s

/-- The unit of domain `d` has drained: DMX's lanes are IDLE, SIC's jobs have ended. -/
def State.drained (s : State) (d : Nat) : Bool :=
  if 2 ≤ d ∧ d ≤ 9 then s.dmx.lanes.all (fun (e : Nat × Lane) => e.1 / 32 != d - 2)
  else if d = 14 then s.sic.jobs.isEmpty
  else true

/-- Begin the sequence that takes domain `d` from its settled state to `m`. -/
def State.startDom (s : State) (t : Time) (d : Nat) (m : DomMode) : State :=
  let x := s.dom d
  if x.mode = m then s
  else if x.mode = .on then (s.setDom d { x with seq := .draining m, latched := none }).drainUnit t d m
  else if m = .on then s.setDom d { x with seq := .exiting none, latched := none }
  else s.setDom d { x with seq := .exiting (some m), latched := none, passage := true }

/-- A request for domain `d` (R410): latched in the middle of a sequence; one for the state it is heading for cancels the latch. -/
def State.requestDom (s : State) (t : Time) (d : Nat) (m : DomMode) : State :=
  let x := s.dom d
  if x.seq = .idle then s.startDom t d m
  else s.setDom d { x with latched := if x.heading = m then none else some m }

/-- Act on the latched request of a domain whose sequence has ended (R410): the exit that begins, that of a passage included, is a replay. -/
def State.unlatch (s : State) (t : Time) (d : Nat) : State :=
  match (s.dom d).latched with
  | none => s
  | some m =>
    let s1 := if (s.dom d).mode != .on && (s.dom d).mode != m then s.bump Ctr.PWR_REPLAYS else s
    s1.startDom t d m

/-- DOMAIN_DRAIN_DONE (R408): steps 2 to 4 follow. -/
def execDomainDrainDone (d : Nat) (s : State) : Host.Outcome State Fault Refusal :=
  .next (match (s.dom d).seq with
    | .draining m => if s.drained d then s.setDom d { s.dom d with seq := .entering m } else s
    | _ => s)

/-- The counters of a domain that is switched off return to zero (R57). -/
def State.zeroCounters (s : State) (d : Nat) : State :=
  { s with regs := s.regs.only (fun a _ => !(match regDesc a with
      | some r => r.dom == d && r.cnt != 0
      | none => false)) }

/-- What the unit of domain `d` holds outside its registers is lost, all of it where `all`, else what no bank keeps (R169, R409). -/
def State.unitClear (s : State) (d : Nat) (all : Bool) : State :=
  let s1 := if 2 ≤ d ∧ d ≤ 9 then s.setFlag (F.DMX_GgSTAT_DRAIN (d - 2)) false else s
  if d = 14 then { s1 with sic := { s1.sic with refs := [] } }
  else if !all then s1
  else if 10 ≤ d ∧ d ≤ 13 then s1.setPort (d - 10) { lat0 := (s1.port (d - 10)).lat0, count := (s1.port (d - 10)).count }
  else if d = 19 then { s1.dropPeers with csc := {} }
  else if d = 20 then { s1 with lgc := { s1.lgc with inst := s1.lgc.inst.map (fun (x : I3) => { init := x.init }) } }
  else s1

/-- What the unit of domain `d` loses when it is off, its counters too (R57), or keeps in no bank: the rest of its register file stays. -/
def State.unitOff (s : State) (d : Nat) (m : DomMode) : State :=
  (if m = .off then s.zeroCounters d else s).unitClear d (m == .off)

/-- The unit of domain `d` initialises (step 3 of R409). -/
def State.unitOn (s : State) (d : Nat) : State :=
  if 10 ≤ d ∧ d ≤ 13 then (s.linkStart (d - 10)).convDrain
  else if d = 19 then s.cscStart
  else if d = 20 then (List.range 4).foldl (fun (u : State) p => u.i3Init p) s
  else s

/-- DOMAIN_ENTRY_COMPLETE (R408, R410, R506): the domain is in RET or OFF; counted, source 12, a latched request is acted on. -/
def execDomainEntryComplete (t : Time) (d : Nat) (s : State) : Host.Outcome State Fault Refusal :=
  let s0 := s.at t
  .next (match (s0.dom d).seq with
    | .entering m =>
      let s1 := s0.setDom d { s0.dom d with mode := m, seq := .idle, passage := false }
      (((s1.unitOff d m).bump Ctr.PWR_ENTRIES).fire 12).unlatch t d
    | _ => s0)

/-! ### Retention banks (R415, R416) -/

/-- A bank belongs to a domain (R415). -/
def bankOf (d b : Nat) : Bool :=
  b == 0 || (d == 1 && Nat.ble 1 b && Nat.ble b 7) || (d == 16 && (Nat.ble 8 b && Nat.ble b 24)) || (d == 15 && b == 25) ||
    ((Nat.ble 2 d && Nat.ble d 9) && b == 26)

/-- The recovery of a bank by its consumer (R415). MSQ and SLV get back what DRAM holds of them, and nothing where DRAM was never
trained; the image copy gives FWD's bootstrap table and the wrapped store KVT's keys as they are. -/
def State.recoverBank (s : State) (b : Nat) : State :=
  if b = 2 then (if s.dramHolds then s else { s with msq := { s.msq with nbrs := [], cells := [] } })
  else if b = 25 then (if s.dramHolds then s else { s with slv := { s.slv with dem := [], links := [], master := [], known := [], told := (0, []) } })
  else if b = 3 then { s with fwd := { s.fwd with hot := [] } }
  else if b = 4 then ({ s with fwd := { s.fwd with stale := [], bad := [], allBad := true } }).setFlag F.FWD_STATUS_REBUILD true
  else if b = 6 then
    let n := (List.range 16).foldl (fun a k => a + s.fillCount k) 0
    let s1 := { s with bgt := { s.bgt with cold := some s.gtb.ft, accts := [] } }
    ((s1.setFlag F.BGT_STATUS_COLD true).bump Ctr.BGT_FILL n).fire 116
  else if b = 7 then s.utcInvalidate
  else if 8 ≤ b ∧ b ≤ 23 then s.bump Ctr.KVT_RELOAD
  else if b = 24 then s.keyState
  else s

/-- A bank fails its check (R416): recorded, counted, source 14, a class 11 fault. -/
def State.bankFail (s : State) (d b : Nat) : State :=
  let s1 := ((s.setFld F.PWR_RETFAIL_DOMAIN d).setFld F.PWR_RETFAIL_BANK b).setFlag F.PWR_RETFAIL_VALID true
  ((s1.bump Ctr.PWR_RETFAILCNT).fire 14).reportNow 11 16 14 14

/-- DOMAIN_EXIT_COMPLETE (R409, R416, R506): the banks of a retained domain and the register file of one that was off are
checked, `bad` failing; bank 0 makes the exit a start. A passage goes on to its entry, any other exit fires source 12. -/
def execDomainExitComplete (t : Time) (d : Nat) (bad : List Nat) (s : State) : Host.Outcome State Fault Refusal :=
  let s0 := s.at t
  .next (match (s0.dom d).seq with
    | .exiting next =>
      let hit := bad.filter (fun b => bankOf d b && ((s0.dom d).mode == .ret || b == 0))
      let s1 := hit.foldl (fun (u : State) b => (u.bankFail d b).recoverBank b) s0
      if hit.contains 0 then s1.becomeStart
      else
        match next with
        | some m => s1.setDom d { s1.dom d with mode := .on, seq := .entering m, passage := true }
        | none =>
          let s2 := s1.setDom d { s1.dom d with mode := .on, seq := .idle, passage := false }
          ((s2.unitOn d).fire 12).unlatch t d
    | _ => s0)

/-! ### PWR_DOMREQ (R405 to R407) -/

/-- The state a request code asks for. -/
def domCode (c : Nat) : Option DomMode := if c = 0 then some .off else if c = 1 then some .on else if c = 2 then some .ret else none

/-- The states of domain `d` in service (R405). -/
def domAllows (d : Nat) (m : DomMode) : Bool :=
  if Nat.ble 2 d && Nat.ble d 9 then true
  else if Nat.ble 10 d && Nat.ble d 13 then m != .ret
  else if d = 14 then true
  else if d = 15 then m != .off
  else if d = 19 ∨ d = 20 then m != .ret
  else m == .on

/-- A DMX group has an enabled hunter on a slice of a port whose domain is ON (R406). -/
def State.groupUsed (s : State) (g : Nat) : Bool :=
  (List.range 64).any (fun k => s.hunterOn (64 * g + k) &&
    (let sl := s.hunterSlice (64 * g + k); s.sliceOn (sl / 128) (sl % 128) && s.domReady (10 + sl / 128)))

/-- PWR refuses a request (R406). -/
def State.domRefused (s : State) (d : Nat) (c : Nat) : Bool :=
  match domCode c with
  | none => true
  | some m => !domAllows d m || ((Nat.ble 2 d && (Nat.ble d 9 && (m != .on && s.groupUsed (d - 2)))) ||
      (d == 19 && (m == .off && s.fld F.CSC_CFG_ROLE != 0)))

/-- The domains that PWR holds at SL1 (R407). -/
def sl1Held (d : Nat) : Bool := (Nat.ble 3 d && Nat.ble d 9) || (d == 14 || d == 15)

/-- PWR holds the domain whatever PWR_DOMREQ asks for: at SL1, before the step to SL2 begins (R407). -/
def State.sl1Holds (s : State) (d : Nat) : Bool := s.level == 1 && (!s.pwr.sl2 && sl1Held d)

/-- A request that stands is acted on, in service. -/
def State.applyReq (s : State) (t : Time) (d : Nat) : State :=
  if s.pwr.mode != .service || s.sl1Holds d then s
  else match domCode (s.domReq d) with
    | none => s
    | some m => s.requestDom t d m

/-- Write the request field of domain `d`. -/
def State.setDomReq (s : State) (d c : Nat) : State :=
  if d < 16 then s.setFld F.PWR_DOMREQ0_REQ (s.fld F.PWR_DOMREQ0_REQ - s.domReq d * 4 ^ d + c * 4 ^ d)
  else s.setFld F.PWR_DOMREQ1_REQ (s.fld F.PWR_DOMREQ1_REQ - s.domReq d * 4 ^ (d - 16) + c * 4 ^ (d - 16))

/-- A new value of a request register, field by field in domain order: fields of domains that are always on keep 1, a refused
request leaves its field and fires source 19. -/
def State.domReqWrite (s : State) (t : Time) (hi : Bool) (v : Word) : State :=
  (List.range (if hi then 5 else 16)).foldl (fun (u : State) i =>
    let d := if hi then 16 + i else i
    let c := v.toNat / 4 ^ i % 4
    if alwaysOn d || c == u.domReq d then u
    else if u.domRefused d c then u.fire 19
    else (u.setDomReq d c).applyReq t d) s

/-- PWR_DOMREQ_WRITE (R406). -/
def execPwrDomreqWrite (t : Time) (rq : Req) (hi : Bool) (v : Word) (s : State) : Host.Outcome State Fault Refusal :=
  let s0 := s.at t
  let a := if hi then Reg.PWR_DOMREQ1 else Reg.PWR_DOMREQ0
  .next (match s0.barred rq a (some v) with
    | some c => (s0.recordFault rq c true a 15).respond [] false
    | none => (s0.respond [] true).domReqWrite t hi v)

end Sys2Proof.Machine
end

