-- ==== Sys2Proof/Machine/Boot.lean ====
section
/-! DEFINITION. Start-up (chapter 19) and the configuration load (R32 to R38, R509): DEVICE_START, the checks and passes of CFG,
the boot ROM, DRAM training and the service levels. -/

namespace Sys2Proof.Machine

/-! ### The start of the device (R386, R388 to R392) -/

/-- The copies in the order in which CFG tries them (R32): higher generation first, copy 0 first on a tie. A copy whose header is not
valid has no generation; the model's choice is to order it as generation 0 (log entry 133). -/
def State.copyOrder (s : State) : List Nat :=
  let g := fun k => (cfgHdr (s.flashRead (copyOffset k) 256)).elim 0 (fun (h : ImgHdr) => h.gen)
  if g 0 < g 1 then [1, 0] else [0, 1]

/-- CFG enters AWAIT (R36), source 11, and releases the flash, for which a write of UPD may wait (R38). -/
def State.cfgAwait (s0 : State) : State :=
  let s := { s0 with hif := { s0.hif with cfgSeen := true } }
  (((s.setFld F.CFG_STATUS_STATE 6).setFlag F.CFG_STATUS_BUSY false).fire 11).drive.updResume

/-- CFG starts a load (R32, R36): CFG_STATUS.STATE PASS1. A flash smaller than 64 MiB is rejected (R19, R480). -/
def State.cfgStart (s : State) : State :=
  let s1 := ((s.setReg Reg.CFG_C0ERR 0).setReg Reg.CFG_C1ERR 0).setReg Reg.CFG_STATUS 0
  let s2 := { s1 with cfg := { order := s.copyOrder, startFt := s.gtb.ft } }
  if s.kvt.flash < 67108864 then s2.cfgAwait
  else (s2.setFld F.CFG_STATUS_STATE 1).setFlag F.CFG_STATUS_BUSY true

/-- GTB starts from the holdover record in HOLD, or in FREE (R84). -/
def State.gtbStart (s : State) : State :=
  match s.gtb.holdRec with
  | none => s.enterGtb 0
  | some r =>
    let s1 := (s.enterGtb 2).setFlag F.GTB_HOLDREC_RECVALID true
    { s1 with gtb := { s1.gtb with freq := r.freq } }

/-- The domains of step 2 of R388. -/
def bootDomains : List Nat := [1, 16, 17, 18, 19]

/-- The start of R388 begins: `t` brings free time from zero and, where a holdover record is kept, the GT that its counter gives. -/
def State.deviceStart (s : State) (t : Time) : State :=
  let on : Dom := { mode := .on }
  let s1 := bootDomains.foldl (fun (u : State) d => u.setDom d on) (s.at t)
  let s2 := { s1 with pwr := { s1.pwr with inReset := false } }
  let s3 := (s2.setFlag F.CHIP_START_AONKEPT s2.pwr.aonKept).setFlag F.CHIP_START_DRAMKEPT s2.pwr.dramKept
  let b := match s3.pwr.cause with
    | .powerOn => 1
    | .pin => 2
    | .core => 4
    | .io => 8
    | .soft => 16
  let s4 := s3.setReg Reg.CHIP_RSTCAUSE (BitVec.ofNat 32 (b + 256 * s3.pwr.resets))
  let s5 := (s4.setFlag F.MEM_STATUS_SELFREF s4.pwr.dramKept).setFlag F.CRY_STATUS_ONFIRC true
  ((s5.secStart.cscStart.gtbStart).dirShow.svnDue.showFs.cfgStart).drive

/-- DEVICE_START (R388): the reset condition ends. -/
def execDeviceStart (t : Time) (s : State) : Host.Outcome State Fault Refusal :=
  .next (if s.pwr.inReset then s.deviceStart t else s)

/-- PLL_LOCK (R388, R392): the units clocked by CORE_CLK leave reset. -/
def execPllLock (s : State) : Host.Outcome State Fault Refusal :=
  .next (if s.pwr.inReset || s.pwr.pll then s
    else (({ s with pwr := { s.pwr with pll := true } }).setFlag F.CHIP_START_NOREF false).drive)

/-- PLL_LOCK_TIMEOUT (R392): NOREF, source 11; the lock is retried. -/
def execPllLockTimeout (s : State) : Host.Outcome State Fault Refusal :=
  .next (if s.pwr.inReset || (s.pwr.pll || s.on F.CHIP_START_NOREF) then s
    else ((s.setFlag F.CHIP_START_NOREF true).fire 11).drive)

/-- PERST_RISE (R389): PCIe may train from here on; configuration requests get retry status until the lock of R30 or AWAIT. -/
def execPerstRise (s : State) : Host.Outcome State Fault Refusal := .next { s with hif := { s.hif with perst := true } }

/-- What HIF answers a configuration request with (R389): retry status, until the lock or AWAIT is reached. No row of the table is such a
request (log entry 111). -/
def State.crs (s : State) : Bool := !(s.mapLocked || s.hif.cfgSeen)

/-! ### The checks of CFG (R32, R33, R509) -/

/-- Copy `k` fails (R33): code and DETAIL are recorded; with no copy left CFG enters AWAIT (R36), source 11. -/
def State.copyFails (s : State) (k : Nat) (e : Nat × Nat) : State :=
  let s1 := s.setReg (copyErr k) (BitVec.ofNat 32 (e.1 + 256 * e.2))
  let rest := s1.cfg.order.drop 1
  let s2 := { s1 with cfg := { s1.cfg with order := rest, waits := none } }
  if rest.isEmpty then
    s2.cfgAwait
  else s2.setFld F.CFG_STATUS_STATE 1

/-- Steps 8 to 14 of R33 on copy `k`: the copy fails, or CFG goes to pass 3 with its payload. -/
def State.copyPass2 (s : State) (k : Nat) (h : ImgHdr) (img : List Octet) : State :=
  match s.imgPass2 img h with
  | .inl e => s.copyFails k e
  | .inr (rs, pt) =>
    match s.imgStep13 h with
    | some e => s.copyFails k e
    | none => match s.imgStep14 rs with
      | some e => s.copyFails k e
      | none =>
        let n := (rs.filter (fun (r : ImgRec) => !knownTyp r.typ)).length
        let u := (s.bump Ctr.CFG_SKIP n).copyOk k true
        State.setFld { u with cfg := { u.cfg with order := [], waits := none, payload := pt, copy := k, gen := h.gen,
                                                  digest := sha384 (img.take (h.len - 96)) } }
          F.CFG_STATUS_STATE 3

/-- CFG_CHECK_COPY (R33): steps 1 to 5 on the next copy, then the rest once KVT's self-tests are over (R325) and it has authenticated
the seal pages (R509). KVT in ERROR authenticates none. -/
def execCfgCheckCopy (t : Time) (s : State) : Host.Outcome State Fault Refusal :=
  let s0 := s.at t
  .next (if s0.fld F.CFG_STATUS_STATE ≠ 1 ∨ s0.cfg.waits.isSome = true then s0
  else match s0.cfg.order with
    | [] => s0
    | k :: _ =>
      let img := s0.imgCopy k
      if s0.kvtState = 0 then
        match s0.imgBlocks1 img with
        | .inl e => s0.copyFails k e
        | .inr _ => { s0 with cfg := { s0.cfg with waits := some k } }
      else match s0.imgPass1 img with
        | .inl e => s0.copyFails k e
        | .inr h => (s0.setFld F.CFG_STATUS_STATE 2).copyPass2 k h img)

/-- A CHECK and the check of the other copy go on once KVT has authenticated the seal pages (R509). -/
def State.checksResume (s : State) : State :=
  let s1 := match s.cfg.check with
    | some k => if s.updState = 8 then s else s.runCheck k
    | none => s
  if s1.cfg.otherWait then s1.otherCheck else s1

/-- CFG_SEALGEN_RESUME (R509): what waits at step 8, a load or a check, goes on. -/
def execCfgSealgenResume (t : Time) (s : State) : Host.Outcome State Fault Refusal :=
  let s0 := s.at t
  .next (if s0.kvtState = 0 then s0
  else match s0.cfg.waits with
    | none => s0.checksResume
    | some k =>
      let img := s0.imgCopy k
      match s0.imgPass1 img with
      | .inl e => s0.copyFails k e
      | .inr h => (s0.setFld F.CFG_STATUS_STATE 2).copyPass2 k h img)

/-! ### Pass 3 (R34) -/

/-- CFG as an initiator (R56). -/
def cfgReq : Req := { init := .cfg, prcSecure := true }

/-- The commit groups of all units. -/
def allGroups : List (Nat × Nat) :=
  (List.range 24).flatMap (fun u => ((List.range 8).filter (fun g => !(groupRegs u g).isEmpty)).map (fun g => (u, g)))

/-- Step 3 of R34: every SC field becomes active as one group; a set that breaks its unit's rules in the joint state is discarded
as a commit is (R50). No staged set of a commit write is applied and no announced mask changes, so neither APPLIED nor the mask
versions of R182 count. -/
def State.commitAll (s : State) : State :=
  let s1 := allGroups.foldl (fun (u : State) g => u.stage g.1 g.2) s
  let all := s1.staged
  let joint := all.foldl (fun (u : State) (x : Staged) => u.activate x) s1
  let bad := all.filter (fun (x : Staged) => !joint.commitOk x)
  let good := all.filter (fun (x : Staged) => joint.commitOk x)
  let s2 := good.foldl (fun (u : State) (x : Staged) =>
    (u.activate x).setFld (appliedFld x.unit) (s.fld (appliedFld x.unit))) s1
  bad.foldl (fun (u : State) (x : Staged) =>
    let v := u.unstage x.unit x.grp
    (v.setFld (lastRejFld x.unit) (setBit (v.fld (lastRejFld x.unit)) x.grp true)).fire (rejectSrc x.unit)) s2

/-- A hash seed that the image leaves at zero comes from the DRBG, or stays zero with SEEDZERO while DRBGOK is 0 (R268). -/
def State.seedOne (s : State) (r : Nat) : State :=
  if s.reg r != 0 then s
  else if s.on F.CRY_STATUS_DRBGOK then (s.setReg r (BitVec.ofNat 32 s.fresh)).drbgDraw
  else s.setFlag F.FWD_STATUS_SEEDZERO true

/-- The hash seeds at the lock (R268). -/
def State.seedFwd (s : State) : State := (s.seedOne Reg.FWD_HSEED0).seedOne Reg.FWD_HSEED1

/-- The cell of SLV_FIXj (R221): KIND 1 is a beacon, KIND 2 and 3 are shared. -/
def State.fixedCell (s : State) (j : Nat) : Cell :=
  let kind := s.fld (F.SLV_FIXj_KIND j)
  { slot := s.fld (F.SLV_FIXj_SLOTOFS j), sf := s.fld (F.SLV_FIXj_SF j), dir := if kind = 1 then 1 else 2, exp := false,
    beacon := kind == 1, chofs := s.fld (F.SLV_FIXj_CHOFS j), tpl := s.fld (F.SLV_FIXj_TPL j), record := 0, ded := false }

/-- MSQ's own copies of slotframe lengths, fixed cells and the join cell (R220, R221). -/
def State.fixedCells (s : State) : State :=
  let js := (List.range 16).filter (fun j => s.fld (F.SLV_FIXj_KIND j) != 0)
  let join := (js.find? (fun j => s.fld (F.SLV_FIXj_KIND j) == 3)).map s.fixedCell
  { s with msq := { s.msq with sfs := (List.range 8).map (fun k => s.fld (F.SLV_SFk_LEN k)), fixed := js.map s.fixedCell, join := join } }

/-- The regions of the DRAM plan are placed (R10, R403). Their bases are free values. The history rings follow (R105). -/
def State.placeRegions (s : State) : State :=
  match s.dramPlan with
  | none => s
  | some l =>
    let s1 := (List.range 11).foldl (fun (u : State) k =>
      let n := l.getD k 0
      if n = 0 then u
      else
        let b := u.fresh
        ((((u.setReg (Reg.MEM_RGk_BASE_LO k) (BitVec.ofNat 32 b)).setReg (Reg.MEM_RGk_BASE_HI k) (BitVec.ofNat 32 (b / 2 ^ 32))).setFld
          (F.MEM_RGk_SIZE_MIB k) n).nextFree)) s
    (List.range 4).foldl (fun (u : State) n =>
      ((u.setReg (Reg.RFPn_HISTBASE_LO n) (u.reg (Reg.MEM_RGk_BASE_LO n))).setReg (Reg.RFPn_HISTBASE_HI n)
        (u.reg (Reg.MEM_RGk_BASE_HI n))).setFld (F.RFPn_HISTLEN_N n) (l.getD n 0 * 262144)) s1

/-- The lock of R30 and what takes effect with it (R35, R84, R214, R332, R383). -/
def State.lockImage (s : State) : State :=
  let s1 := (s.setFlag F.CHIP_WMAP1_LOCKED true).fire 6
  let s2 := (s1.seedFwd.fixedCells.placeRegions.cscLock).bgtStart
  let c := s2.cfg
  let s3 := ((s2.setFlag F.CFG_STATUS_LOADED_COPY (c.copy == 1)).setReg Reg.CFG_GEN (BitVec.ofNat 32 c.gen)).setReg
    Reg.CFG_LOADTIME (BitVec.ofNat 32 (s2.gtb.ft - c.startFt))
  let s4 := s3.setRegs (Reg.CFG_HASHk 0) (packWords 12 c.digest)
  (s4.kvtNewGen c.gen).setReg Reg.CFG_SEALGEN (BitVec.ofNat 32 (max c.gen s4.sealedGen))

/-- The records of the loaded payload. -/
def State.loadedRecs (s : State) : List ImgRec :=
  match imgRecords (s.cfg.payload.length / 4 + 1) 0 s.cfg.payload with
  | .inl _ => []
  | .inr (rs, _) => rs

/-- A data record marked "Before SL1" (R28). -/
def State.applyEarly (s : State) (r : ImgRec) : State :=
  if r.typ = 0x8101 then
    r.entries.foldl (fun (u : State) e => match staticEntry e with
      | some x =>
        let y := { x with updgt := u.gtb.gt }
        { u with fwd := { u.fwd with boot := u.fwd.boot.put u.fwd.boot.length y } }
      | none => u) s
  else if r.typ = 0x8103 then
    (chunks 4 ((r.val.length - 4) / 4) (r.val.drop 4)).foldl (fun (u : State) e =>
      u.convStep (leNat (r.val.take 1)) (leNat (slice e 0 2)) (leNat (slice e 2 1))) s
  else if r.typ = 0x8105 then
    let p := leNat (r.val.take 1)
    let l := (chunks 2 ((r.val.length - 4) / 2) (r.val.drop 4)).map (fun e => (leNat (e.take 1), leNat (slice e 1 1)))
    let s1 := s.setI3 p { s.i3 p with init := (s.i3 p).init ++ l }
    if s1.domReady 20 then
      l.foldl (fun (u : State) e => if e.1 = 0x7F then u else u.emuPlain p e.1 (e.2 % 256)) s1
    else s1
  else s

/-- MEM begins to train both channels (R394); DRAM that was held leaves self-refresh (source 210). -/
def State.trainStart (s : State) : State :=
  let held := s.on F.MEM_STATUS_SELFREF
  let s1 := ((s.setFlag F.MEM_STATUS_SELFREF false).setFlag F.MEM_STATUS_FROMSAVED (held && s.mem.saved)).fireIf held 210
  let s2 := { s1 with mem := { s1.mem with fails := (0, 0), retrain := false } }
  (s2.setFld F.MEM_STATUS_ATTEMPT 1).bump Ctr.MEM_TRAIN

/-! ### After DRAM training (R34, R37, R397) -/

/-- Reads 3 and 4 of R390 are over: firmware runs or no bank can, and KVT has finished LOADING. -/
def State.readsDone (s : State) : Bool := (s.upd.run.isSome || s.on F.CHIP_START_NOFW) && Nat.ble 3 s.kvtState

/-- CFG reaches DONE and releases the flash (R38). -/
def State.cfgDone (s : State) : State := ((s.setFld F.CFG_STATUS_STATE 5).setFlag F.CFG_STATUS_BUSY false).updResume

/-- A data record marked "After DRAM training" (R28). -/
def State.applyLate (s : State) (r : ImgRec) (n : Nat) : State :=
  if r.typ = 0x8102 then
    ((List.range r.entries.length).zip r.entries).foldl (fun (u : State) e => match staticEntry e.2 with
      | some x => u.placeStatic (n + e.1) x
      | none => u) s
  else if r.typ = 0x8104 then
    (chunks 16 (r.val.length / 16) r.val).foldl (fun (u : State) e => match demRecOf e with
      | some d => u.setDemand d
      | none => u) s
  else s

/-- CFG_DRAM_RECORDS (R34, R390, R397): read 5, and DONE; after a failed training DONE without it. -/
def execCfgDramRecords (t : Time) (s : State) : Host.Outcome State Fault Refusal :=
  let s0 := s.at t
  .next (if s0.fld F.CFG_STATUS_STATE ≠ 4 ∨ s0.readsDone = false then s0
  else if s0.on F.MEM_STATUS_TRAINED then
    let r := s0.loadedRecs.foldl (fun (a : Nat × State) (r : ImgRec) =>
      (if r.typ = 0x8102 then a.1 + r.entries.length else a.1, a.2.applyLate r a.1)) (0, s0)
    ({ r.2 with cfg := { r.2.cfg with dram := true } }).cfgDone
  else if s0.on F.CHIP_START_DRAMFAIL then s0.cfgDone
  else s0)

/-- CFG_OTHER_COPY_CHECK (R37): the copy that was not loaded, through step 13. -/
def execCfgOtherCopyCheck (s : State) : Host.Outcome State Fault Refusal :=
  .next (if s.fld F.CFG_STATUS_STATE ≠ 5 then s else s.otherCheck)

/-- CFG_RELOAD (R36, R38): in AWAIT a new load starts; in any other state nothing happens. -/
def execCfgReload (t : Time) (rq : Req) (s : State) : Host.Outcome State Fault Refusal :=
  .next ((s.at t).gated rq Reg.CFG_CMD 1 (fun u => if u.fld F.CFG_STATUS_STATE = 6 then u.cfgStart.drive else u))

/-- CFG_CHECK (R33, R38): ignored while BUSY; the CHECK of a copy that UPD is writing waits until the write has ended. -/
def execCfgCheck (rq : Req) (copy : Nat) (s : State) : Host.Outcome State Fault Refusal :=
  .next (s.gated rq Reg.CFG_CMD (BitVec.ofNat 32 (2 + 4 * (copy % 2))) (fun u =>
    if u.on F.CFG_STATUS_BUSY then u
    else if u.updState = 8 then ({ u with cfg := { u.cfg with check := some (copy % 2) } }).setFlag F.CFG_STATUS_BUSY true
    else u.runCheck (copy % 2)))

/-! ### The boot ROM (R358, R390, R393) -/

/-- The package in bank `b`. -/
def State.bankPkg (s : State) (b : Nat) : List Octet :=
  let o := bankOffset b
  let h := s.flashRead o 256
  match updHdr h with
  | none => h
  | some x => s.flashRead o x.len

/-- The set in bank `b`, if the boot ROM can run it: steps 1 to 10 of R349, and no SVN below the fuses. -/
def State.bankRuns (s : State) (b : Nat) : Option FwSet :=
  match s.pkgCheck (s.bankPkg b) with
  | .inl _ => none
  | .inr (h, l, _) => some (pkgSet b h l)

/-- Firmware runs on PRC and SUP; notices held from before are replayed (R426). -/
def State.runFirmware (s : State) (f : FwSet) : State :=
  let s1 := ({ s with upd := { s.upd with run := some f } }).showRun
  (((s1.setFld F.PRC_STATUS_RUN 15).setFlag F.SUP_STATUS_RUN true).wdRestart.trickleStart).replay

/-- FIRMWARE_BANK_READ (R358): a bank in TRIAL becomes FAILED with LASTRB = 6; the committed bank runs, or the other VALID one
(source 186), whose SVN then counts (R356), or none (NOFW, source 11). -/
def execFirmwareBankRead (t : Time) (s : State) : Host.Outcome State Fault Refusal :=
  let s0 := s.at t
  .next (if !s0.mapLocked || (s0.upd.run.isSome || (s0.on F.CHIP_START_NOFW || s0.fld F.CFG_STATUS_STATE != 4)) then s0
  else
    let o := 1 - s0.dir.com
    let x := s0.dir.bank o
    let s1 := if x.1 = 2 then (s0.dirWrite { s0.dir.setBank o 3 x.2.1 x.2.2 with lastrb := 6 }).dirShow else s0.dirShow
    match (if s1.dirNow.isSome then s1.bankRuns s1.dir.com else none) with
    | some f => (s1.runFirmware f).kvtRead4
    | none =>
      match (if (s1.dir.bank o).1 = 1 then s1.bankRuns o else none) with
      | some f => ((((s1.dirWrite { s1.dir with com := o }).dirShow).flashErr).runFirmware f).svnDue.kvtRead4
      | none => (((s1.setFlag F.CHIP_START_NOFW true).fire 11).drive).kvtRead4)

/-- A write of PWR_CLKSEL with REQ (R391). -/
def State.clkselReq (s : State) (rq : Req) (v : Word) : State :=
  s.gated rq Reg.PWR_CLKSEL v (fun u =>
    if u.on F.PWR_CLKSEL_SEL then u else { u with pwr := { u.pwr with clkReq := true } })

/-- CLKSEL_REQ (R391): REQ is written with AONSRC as it stands. -/
def execClkselReq (rq : Req) (s : State) : Host.Outcome State Fault Refusal :=
  .next (s.clkselReq rq (F.PWR_CLKSEL_REQ.ins (s.reg Reg.PWR_CLKSEL) 1))

/-- CLOCK_SWITCH (R391): the four units move to CORE_CLK together. -/
def execClockSwitch (s : State) : Host.Outcome State Fault Refusal :=
  .next (if s.pwr.clkReq && s.pwr.pll then
      ((({ s with pwr := { s.pwr with clkReq := false } }).setFlag F.PWR_CLKSEL_SEL true).setFlag F.CHIP_START_CLKSW true).setFlag
        F.CRY_STATUS_ONFIRC false
    else s)

/-! ### DRAM (R394 to R397, R245, R279) -/

/-- UPD holds a flash write, for which a RETRAIN waits (R397). -/
def State.updWriting (s : State) : Bool := s.updState == 4 || s.updState == 8

/-- A RETRAIN that waited begins. -/
def State.retrainNow (s : State) : State :=
  if s.mem.retrain && !s.updWriting then
    ((s.setFlag F.CHIP_START_DRAMFAIL false).setFld F.MEM_STATUS_FAIL 0).trainStart.drive
  else s

/-- MEM_TRAINING_COMPLETE (R394, R395, R397): source 204; after a start with DRAM kept MSQ reloads records and cells; CFG takes
the flash again for a read 5 that a failure had passed over. -/
def execMemTrainingComplete (t : Time) (s : State) : Host.Outcome State Fault Refusal :=
  let s0 := (s.at t).retrainNow
  .next (if s0.fld F.MEM_STATUS_ATTEMPT = 0 then s0
  else
    let s1 := ((s0.setFlag F.MEM_STATUS_TRAINED true).setFld F.MEM_STATUS_ATTEMPT 0).setFlag F.CHIP_START_DRAMOK true
    let s2 := match s1.mem.copy with
      | some c => { s1 with msq := { s1.msq with nbrs := c.1, cells := c.2 } }
      | none => s1
    let s3 := ({ s2 with mem := { s2.mem with saved := true, copy := none, fails := (0, 0) } }).fire 204
    if s3.fld F.CFG_STATUS_STATE = 5 ∧ s3.cfg.dram = false then
      (s3.setFld F.CFG_STATUS_STATE 4).setFlag F.CFG_STATUS_BUSY true
    else s3)

/-- MEM_TRAINING_FAIL (R397): the channels named fail the attempt; after three of one channel DRAMFAIL, sources 205 and 11. -/
def execMemTrainingFail (t : Time) (ch0 ch1 : Bool) (s : State) : Host.Outcome State Fault Refusal :=
  let s0 := (s.at t).retrainNow
  .next (if s0.fld F.MEM_STATUS_ATTEMPT == 0 || !(ch0 || ch1) then s0
  else
    let f := (s0.mem.fails.1 + b2n ch0, s0.mem.fails.2 + b2n ch1)
    let s1 := { s0 with mem := { s0.mem with fails := f } }
    if Nat.blt f.1 3 && Nat.blt f.2 3 then
      (s1.setFld F.MEM_STATUS_ATTEMPT (s1.fld F.MEM_STATUS_ATTEMPT + 1)).bump Ctr.MEM_TRAIN
    else
      let s2 := (s1.setFld F.MEM_STATUS_ATTEMPT 0).setFld F.MEM_STATUS_FAIL (b2n (Nat.ble 3 f.1) + 2 * b2n (Nat.ble 3 f.2))
      let s3 := (((s2.setFlag F.CHIP_START_DRAMFAIL true).fire 205).fire 11).drive
      if s3.fld F.CFG_STATUS_STATE == 4 && s3.readsDone then s3.cfgDone else s3)

/-- RETRAIN (R397): ignored unless DRAMFAIL is 1. -/
def execRetrain (rq : Req) (s : State) : Host.Outcome State Fault Refusal :=
  .next (s.gated rq Reg.CHIP_STARTCMD 1 (fun u =>
    if u.on F.CHIP_START_DRAMFAIL then State.retrainNow { u with mem := { u.mem with retrain := true } } else u))

/-- QMG_DRAM_POOL_ADD (R245): the DRAM cells, 272 octets each, join the pool; source 139. -/
def execQmgDramPoolAdd (s : State) : Host.Outcome State Fault Refusal :=
  .next (if !s.on F.MEM_STATUS_TRAINED || s.on F.QMG_STATUS_DRAMPOOL then s
  else
    let n := 8192 + s.fld (F.MEM_RGk_SIZE_MIB 10) * 1048576 / 272
    ((s.setFlag F.QMG_STATUS_DRAMPOOL true).setReg Reg.QMG_TOTAL (BitVec.ofNat 32 n)).qmgSettle.fire 139)

/-- FWD_BOOTMODE_EXIT (R279). -/
def execFwdBootmodeExit (s : State) : Host.Outcome State Fault Refusal :=
  .next (if s.on F.MEM_STATUS_TRAINED && s.cfg.dram then s.setFlag F.FWD_STATUS_BOOTMODE false else s)

/-! ### Service levels (R398, R399, R466) -/

/-- An instruction that holds the entry to SL1 is in the TAP (R466). -/
def TapInstr.holds (i : TapInstr) : Bool :=
  i == .extest || (i == .clamp || (i == .highz || (i == .extestPulse || i == .extestTrain)))

/-- The conditions of SL1 (R398, R466). -/
def State.sl1Ready (s : State) : Bool :=
  s.mapLocked && (s.upd.run.isSome && (s.on F.SUP_STATUS_RUN && (Nat.ble 3 s.kvtState && (s.pwr.pll &&
    (s.pwr.mode == .service && !s.tst.tap.holds)))))

/-- ENTER_SL1 (R398, R407): source 8; PD_DMX1 to PD_DMX7 and PD_SIC go off and PD_SLV to RET. -/
def execEnterSl1 (t : Time) (s : State) : Host.Outcome State Fault Refusal :=
  let s0 := s.at t
  .next (if s0.level ≠ 0 ∨ s0.sl1Ready = false then s0
  else
    let s1 := (s0.toLevel 1).fire 8
    let s2 := if s1.reg Reg.CHIP_TSL1 = 0 then s1.setReg Reg.CHIP_TSL1 (BitVec.ofNat 32 s1.gtb.ft) else s1
    let s3 := [3, 4, 5, 6, 7, 8, 9, 14].foldl (fun (u : State) d => u.requestDom t d .off) s2
    if (s3.dom 15).mode = .off ∧ (s3.dom 15).seq = .idle then s3 else s3.requestDom t 15 .ret)

/-- The domains whose state the step to SL2 settles (R399, R407). -/
def sl2Domains : List Nat := [2, 3, 4, 5, 6, 7, 8, 9, 14, 15]

/-- Each of them is in the state that PWR_DOMREQ asks for. -/
def State.sl2Settled (s : State) : Bool :=
  sl2Domains.all (fun d => (s.dom d).seq == .idle && domCode (s.domReq d) == some (s.dom d).mode)

/-- The first three conditions of R399. -/
def State.sl2Ready (s : State) : Bool :=
  s.on F.MEM_STATUS_TRAINED && (s.on F.QMG_STATUS_DRAMPOOL && (!s.on F.KVT_STATUS_CACHEONLY && (s.cfg.dram &&
    !s.on F.FWD_STATUS_BOOTMODE)))

/-- ENTER_SL2 (R399): PWR applies PWR_DOMREQ, and at the first slot boundary at which every domain is settled the level is 2,
source 9. -/
def execEnterSl2 (t : Time) (s : State) : Host.Outcome State Fault Refusal :=
  let s0 := s.at t
  .next (if s0.level ≠ 1 ∨ s0.sl2Ready = false then s0
  else
    let s1 := if s0.pwr.sl2 then s0
      else
        let u := { s0 with pwr := { s0.pwr with sl2 := true } }
        sl2Domains.foldl (fun (v : State) d => v.applyReq t d) u
    if s1.sl2Settled then
      let s2 := (s1.toLevel 2).fire 9
      if s2.reg Reg.CHIP_TSL2 = 0 then s2.setReg Reg.CHIP_TSL2 (BitVec.ofNat 32 s2.gtb.ft) else s2
    else s1)

end Sys2Proof.Machine
end

