-- ==== Sys2Proof/Machine/FwdCmd.lean ====
section
/-! DEFINITION. FWD's table commands (chapter 14): the two ports, and READ, WRITE, DELETE, LOOKUP, UNPIN, WALK, FLUSH. -/

namespace Sys2Proof.Machine

/-! ### The ports (R287 to R289) -/

/-- What a command comes to: outcome (R289), STEP, entry returned, new cursor, state after. -/
structure FwdEnd where
  outcome : Nat
  step : Nat := 0
  entry : Option FwdEntry := none
  arg : Option Word := none
  st : State

/-- A command ends at its port: counted, reported, source 161 at the host port. -/
def State.fwdDone (priv : Bool) (c : FwdCmd) (r : FwdEnd) : State :=
  let s1 := r.st.bump Ctr.FWD_CMDS
  let s2 := if r.outcome = 0 ∨ r.outcome = 6 ∨ r.outcome = 7 then s1 else s1.bump Ctr.FWD_CMDFAIL
  let res := match r.entry with
    | some e => e.octets
    | none => List.replicate 32 0
  if priv then
    let a : FwdAnswer := { outcome := r.outcome, tag := c.tag, step := r.step, res := res, arg := r.arg.getD c.arg }
    { s2 with fwd := { s2.fwd with priv := none, privRes := some a } }
  else
    let s3 := { s2 with fwd := { s2.fwd with cmd := none } }
    let s4 := ((s3.setFld F.FWD_CMDSTAT_OUTCOME r.outcome).setFld F.FWD_CMDSTAT_TAG c.tag).setFld F.FWD_CMDSTAT_STEP r.step
    let s5 := s4.setRegs (Reg.FWD_CMDRESw 0) (packWords 8 res)
    (match r.arg with
      | some v => ({ s5 with fwd := { s5.fwd with walkPast := v.getLsbD 25 } }).setReg Reg.FWD_CMDARG (v &&& 0x1FFFFFF)
      | none => s5).fire 161

/-- The word of FWD_CMD. -/
def fwdWord (op tbl tag : Nat) : Word := BitVec.ofNat 32 (op % 16 + 16 * (tbl % 4) + 64 * (tag % 256))

/-- A write at the host port: started, or ignored while BUSY (R287). -/
def State.fwdWrite (s : State) (rq : Req) (op tbl tag : Nat) : State :=
  s.gated rq Reg.FWD_CMD (fwdWord op tbl tag) (fun t =>
    if t.fwd.cmd.isSome then t.bump Ctr.FWD_CMDIGN
    else
      let c : FwdCmd := { op := op % 16, tbl := tbl % 4, tag := tag % 256, arg := t.reg Reg.FWD_CMDARG ||| (if t.fwd.walkPast then 0x2000000 else 0),
                          data := t.octRun (Reg.FWD_CMDDATAw 0) 8, rq := rq, sec := t.secureReq rq }
      { t with fwd := { t.fwd with cmd := some c } })

/-- A command at PRC's private port, which accepts both contexts (R331). -/
def State.fwdPriv (s : State) (secure : Bool) (arg : Word) (data : List Octet) (op tbl tag : Nat) : State :=
  if !s.domReady 1 then s
  else if s.fwd.priv.isSome then s.bump Ctr.FWD_CMDIGN
  else
    let c : FwdCmd := { op := op % 16, tbl := tbl % 4, tag := tag % 256, arg := arg, data := data,
                        rq := { init := .prc, prcSecure := secure }, sec := secure }
    { s with fwd := { s.fwd with priv := some c } }

/-- A reserved OP at the private port ends BADARG (R287, R288). -/
def State.fwdPrivOther (s : State) (op : Nat) (secure : Bool) (arg : Word) (data : List Octet) (tbl tag : Nat) : State :=
  let s1 := s.fwdPriv secure arg data op tbl tag
  match s.fwd.priv, s1.fwd.priv with
  | none, some c => if Nat.ble 7 c.op then State.fwdDone true c { outcome := 4, st := s1 } else s1
  | _, _ => s1

/-- A reserved OP ends BADARG (R288). -/
def State.fwdReserved (s : State) (rq : Req) (op tbl tag : Nat) : State :=
  let s1 := s.fwdWrite rq op tbl tag
  match s.fwd.cmd, s1.fwd.cmd with
  | none, some c => State.fwdDone false c { outcome := 4, st := s1 }
  | _, _ => s1

/-- INDEX of the argument. -/
def FwdCmd.index (c : FwdCmd) : Nat := F.FWD_CMDARG_INDEX.ext c.arg

/-- What ends a command of a table before it starts: BADARG, then NOTREADY. `tbls` are the tables its OP allows; LOOKUP, which
takes no table, is given all four codes. -/
def State.fwdBar (s : State) (c : FwdCmd) (tbls : List Nat) : Option Nat :=
  if tbls.contains 3 then none
  else if !tbls.contains c.tbl || (c.tbl == 2 && Nat.ble 16384 c.index) then some 4
  else if c.tbl < 2 ∧ s.on F.FWD_STATUS_BOOTMODE = true then some 5
  else none

/-- Run the command of OP `op` that waits at a port. -/
def State.fwdRun (s : State) (t : Time) (priv : Bool) (op : Nat) (tbls : List Nat) (act : State → FwdCmd → FwdEnd) : State :=
  match (if priv then s.fwd.priv else s.fwd.cmd) with
  | none => s
  | some c =>
    if c.op ≠ op then s
    else
      let s0 := s.at t
      State.fwdDone priv c (match s0.fwdBar c tbls with
        | some o => { outcome := o, st := s0 }
        | none => act s0 c)

/-- A step of a command other than FLUSH's visit. -/
def State.fwdStep (s : State) (st : FwdStep) (op tbl tag : Nat) (tbls : List Nat)
    (act : List FwdErr → State → FwdCmd → FwdEnd) : State :=
  match st with
  | .write rq => s.fwdWrite rq op tbl tag
  | .priv sec arg data => s.fwdPriv sec arg data op tbl tag
  | .run t p errs => s.fwdRun t p op tbls (act errs)
  | .visit _ _ _ => s
  | .privOther o sec arg data => s.fwdPrivOther o sec arg data tbl tag

/-- Table 0 or 1 as a flag. -/
def FwdCmd.pfx (c : FwdCmd) : Bool := c.tbl == 1

/-- KEY of the command's data. -/
def FwdCmd.key (c : FwdCmd) : Nat := beNat (slice c.data 0 16)

/-- LEN of the command's data: 128 for the address table. -/
def FwdCmd.len (c : FwdCmd) : Nat := if c.tbl = 0 then 128 else leNat (slice c.data 24 1)

/-- The first bucket transaction of a command faults on a secure region (R336): outcome WORLD, nothing changed. -/
def State.fwdWorld (s : State) (c : FwdCmd) (pfx : Bool) (b : Nat) (k : State → FwdEnd) : FwdEnd :=
  if s.tagFaults c.sec 1 then
    { outcome := 9, st := s.xwFault c.rq 1 11 (s.regionBase (if pfx then 5 else 4) + b * 32 * slotsOf pfx) false }
  else k s

/-- The bootstrap entry INDEX, where it can be read. -/
def State.bootEntry (s : State) (c : FwdCmd) : Option FwdEntry :=
  if s.fwd.badBoot.contains c.index then none else s.fwd.boot.find c.index

/-- Errors of the bootstrap entry a command reads. -/
def bootOnly (errs : List FwdErr) (i : Nat) : List FwdErr := errs.filter (fun (e : FwdErr) => e == .boot i)

/-- The outcome of a search. -/
def found (e : Option FwdEntry) (s : State) : FwdEnd := { outcome := if e.isSome then 0 else 1, entry := e, st := s }

/-! ### The commands (R288, R290 to R294) -/

/-- READ: an entry, without HIT or refresh. -/
def State.cmdRead (errs : List FwdErr) (s : State) (c : FwdCmd) : FwdEnd :=
  if c.tbl = 2 then
    let s1 := s.bootErrs (bootOnly errs c.index)
    found (s1.bootEntry c) s1
  else s.fwdWorld c c.pfx (s.buckets c.pfx c.key c.len).1 (fun t =>
    let u := t.readBuckets errs c.pfx c.key c.len
    found ((u.slotFor c.pfx c.key c.len).map (fun x => x.2)) u)

/-- FWD_CMD_READ (R288). -/
def execFwdCmdRead (st : FwdStep) (tbl tag : Nat) (s : State) : Host.Outcome State Fault Refusal :=
  .next (s.fwdStep st 0 tbl tag [0, 1, 2] State.cmdRead)

/-- WRITE: insert or replace a static entry (R291, R293). -/
def State.cmdWrite (errs : List FwdErr) (s : State) (c : FwdCmd) : FwdEnd :=
  match staticEntry c.data with
  | none => { outcome := 4, st := s }
  | some e0 =>
    let e := { e0 with updgt := s.gtb.gt }
    if c.tbl = 2 then
      let bad := s.fwd.badBoot.filter (fun i => i != c.index)
      { outcome := 0, st := { s with fwd := { s.fwd with boot := s.fwd.boot.put c.index e, badBoot := bad } } }
    else if (e.len == 128) == c.pfx then { outcome := 4, st := s }
    else s.fwdWorld c c.pfx (s.buckets c.pfx e.key e.len).1 (fun t =>
      let u := (t.readHot errs e.key).2.readBuckets errs c.pfx e.key e.len
      match u.slotFor c.pfx e.key e.len with
      | some (i, _) =>
        { outcome := 0, st := u.replaceEntry c.pfx i e }
      | none =>
        let r := u.insertEntry errs c.pfx e
        { outcome := r.1, st := r.2 })

/-- FWD_CMD_WRITE (R293). -/
def execFwdCmdWrite (st : FwdStep) (tbl tag : Nat) (s : State) : Host.Outcome State Fault Refusal :=
  .next (s.fwdStep st 1 tbl tag [0, 1, 2] State.cmdWrite)

/-- DELETE: free an entry; a learned AIR or LOCAL one sends a WITHDRAW (R291, R296). -/
def State.cmdDelete (errs : List FwdErr) (s : State) (c : FwdCmd) : FwdEnd :=
  if c.tbl = 2 then
    let bad := s.fwd.badBoot.filter (fun i => i != c.index)
    { outcome := 0, st := { s with fwd := { s.fwd with boot := s.fwd.boot.del c.index, badBoot := bad } } }
  else s.fwdWorld c c.pfx (s.buckets c.pfx c.key c.len).1 (fun t =>
    let u := (t.readHot errs c.key).2.readBuckets errs c.pfx c.key c.len
    match u.slotFor c.pfx c.key c.len with
    | some (i, _) => { outcome := 0, st := u.freeEntry c.pfx i true }
    | none => { outcome := 1, st := u })

/-- FWD_CMD_DELETE (R288). -/
def execFwdCmdDelete (st : FwdStep) (tbl tag : Nat) (s : State) : Host.Outcome State Fault Refusal :=
  .next (s.fwdStep st 2 tbl tag [0, 1, 2] State.cmdDelete)

/-- Step 5 of R270 for LOOKUP: with no length to probe no bucket is read, so nothing can fault (R336). -/
def State.cmdPrefix (errs : List FwdErr) (s : State) (c : FwdCmd) : FwdEnd :=
  let d := c.key
  match s.readFilter (filterErr errs (d / 2 ^ 112)) (d / 2 ^ 112) with
  | (false, t) => { outcome := 1, st := t }
  | (true, t) =>
    match t.probeLens d with
    | [] => { outcome := 1, st := t }
    | l :: ls => t.fwdWorld c true (t.buckets true (maskKey d l) l).1 (fun u =>
        match u.longest errs d (l :: ls) 17 with
        | (some e, v) => if v.staleAir e then { outcome := 1, st := v } else { outcome := 0, step := 3, entry := some e, st := v }
        | (none, v) => { outcome := 1, st := v })

/-- LOOKUP: steps 2 to 5 of R270 without filling, HIT or refresh. -/
def State.cmdLookup (errs : List FwdErr) (s : State) (c : FwdCmd) : FwdEnd :=
  let d := c.key
  if s.on F.FWD_STATUS_BOOTMODE then
    let s1 := s.bootErrs errs
    match (s1.bootMatches d).find? (fun e => !s1.staleAir e) with
    | some e => { outcome := 0, step := 4, entry := some e, st := s1 }
    | none => { outcome := 1, st := s1 }
  else
    let h := s.readHot errs d
    let hit := if h.1 then h.2.hotFind d else none
    match hit with
    | some (_, e) =>
      if h.2.staleAir e then State.cmdPrefix errs h.2 c
      else { outcome := 0, step := 1, entry := some e, st := h.2 }
    | none => h.2.fwdWorld c false (h.2.buckets false d 128).1 (fun t =>
        match t.findEntry errs false d 128 with
        | (some (_, e), u) =>
          if u.staleAir e then State.cmdPrefix errs u c else { outcome := 0, step := 2, entry := some e, st := u }
        | (none, u) => State.cmdPrefix errs u c)

/-- FWD_CMD_LOOKUP (R288): TBL is not used. -/
def execFwdCmdLookup (st : FwdStep) (tbl tag : Nat) (s : State) : Host.Outcome State Fault Refusal :=
  .next (match st with
    | .write rq => s.fwdWrite rq 3 tbl tag
    | .priv sec arg data => s.fwdPriv sec arg data 3 tbl tag
    | .run t p errs => s.fwdRun t p 3 [0, 1, 2, 3] (fun u c => State.cmdLookup errs u { c with tbl := 3 })
    | .visit _ _ _ => s
    | .privOther o sec arg data => s.fwdPrivOther o sec arg data tbl tag)

/-- UNPIN: PIN, MOVES and the damping record of a learned entry go (R300). -/
def State.cmdUnpin (errs : List FwdErr) (s : State) (c : FwdCmd) : FwdEnd :=
  s.fwdWorld c false (s.buckets false c.key 128).1 (fun t =>
    let u := t.readBuckets errs false c.key 128
    match u.slotFor false c.key 128 with
    | some (_, e) =>
      if e.learned then { outcome := 0, st := (u.unpinEntry c.key).dampFree c.key } else { outcome := 1, st := u }
    | none => { outcome := 1, st := u })

/-- FWD_CMD_UNPIN (R288, R300). -/
def execFwdCmdUnpin (st : FwdStep) (tbl tag : Nat) (s : State) : Host.Outcome State Fault Refusal :=
  .next (s.fwdStep st 4 tbl tag [0] State.cmdUnpin)

/-- The cursor for a slot number of a table: INDEX, SLOT, and in bit 25, which FWD_CMDARG has not, the place past the last slot of the
address table. -/
def cursorWord (pfx : Bool) (i : Nat) : Word :=
  BitVec.ofNat 32 (i / slotsOf pfx % 2 ^ 22 + 2 ^ 22 * (i % slotsOf pfx) + 2 ^ 25 * (i / slotsOf pfx / 2 ^ 22 % 2))

/-- The bucket of the cursor of a WALK. -/
def FwdCmd.walkFrom (c : FwdCmd) : Nat :=
  c.index + (if c.arg.getLsbD 25 && (c.index == 0 && F.FWD_CMDARG_SLOT.ext c.arg == 0) then bucketsOf false else 0)

/-- WALK: the next valid entry at or after the cursor, within 4,096 buckets (R292). A cursor past the last slot ends END without a read.
The position after the address table's last slot does not fit FWD_CMDARG: it reads 0 and FWD remembers the end until FWD_CMDARG is
written (DESIGN CHOICE: the spec gives no form for it; log entry 155). -/
def State.cmdWalk (errs : List FwdErr) (s : State) (c : FwdCmd) : FwdEnd :=
  let n := slotsOf c.pfx
  let pos := c.walkFrom * n + min n (F.FWD_CMDARG_SLOT.ext c.arg)
  let b := pos / n
  if bucketsOf c.pfx ≤ b then { outcome := 6, st := s }
  else s.fwdWorld c c.pfx b (fun t =>
    let u := errs.foldl (fun (v : State) (e : FwdErr) => match e with
      | .bucket p k _ => if p = c.pfx ∧ b ≤ k ∧ k < b + 4096 then (v.readBucket errs p k).2 else v
      | _ => v) t
    let next : FwdEnd :=
      if bucketsOf c.pfx ≤ b + 4096 then { outcome := 6, st := u }
      else { outcome := 7, arg := some (cursorWord c.pfx ((b + 4096) * n)), st := u }
    match (u.fwdTab c.pfx).find? (fun x => Nat.ble pos x.1) with
    | some (i, e) =>
      if i / n < b + 4096 then { outcome := 0, entry := some e, arg := some (cursorWord c.pfx (i + 1)), st := u } else next
    | none => next)

/-- FWD_CMD_WALK (R292). -/
def execFwdCmdWalk (st : FwdStep) (tbl tag : Nat) (s : State) : Host.Outcome State Fault Refusal :=
  .next (s.fwdStep st 5 tbl tag [0, 1] State.cmdWalk)

/-- FLUSH starts its visit (R294). -/
def State.cmdFlush (_errs : List FwdErr) (s : State) (c : FwdCmd) : FwdEnd :=
  if s.fwd.flush.isSome then { outcome := 8, st := s }
  else s.fwdWorld c false 0 (fun t =>
    let f := (leNat (slice c.data 26 1) % 4, leNat (slice c.data 28 4), 0)
    { outcome := 0, st := { t with fwd := { t.fwd with flush := some f } } })

/-- The visit of the next `n` buckets. -/
def State.flushVisit (s : State) (n : Nat) (errs : List FwdErr) : State :=
  match s.fwd.flush with
  | none => s
  | some (et, dest, b) =>
    let e := min (b + n) 4194304
    let s1 := errs.foldl (fun (v : State) (x : FwdErr) => match x with
      | .bucket false k _ => if b ≤ k ∧ k < e then (v.readBucket errs false k).2 else v
      | _ => v) s
    let gone := s1.fwd.addr.filter (fun x =>
      Nat.ble b (x.1 / 8) && (Nat.blt (x.1 / 8) e && (x.2.learned && (x.2.etype == et && x.2.dest == dest))))
    let s2 := State.eachHot (fun (v : State) x => v.freeEntry false x.1 true) errs gone s1
    { s2 with fwd := { s2.fwd with flush := some (et, dest, e) } }

/-- FLUSH_VISIT_COMPLETE (R294): the buckets that remain are visited, FLUSHBUSY clears, source 162 fires. -/
def execFlushVisitComplete (t : Time) (errs : List FwdErr) (s : State) : Host.Outcome State Fault Refusal :=
  let s1 := (s.at t).flushVisit 4194304 errs
  .next (if s.fwd.flush.isSome then ({ s1 with fwd := { s1.fwd with flush := none } }).fire 162 else s1)

/-- FWD_CMD_FLUSH (R294): the command, and the background visit it starts. -/
def execFwdCmdFlush (st : FwdStep) (tbl tag : Nat) (s : State) : Host.Outcome State Fault Refusal :=
  .next (match st with
    | .visit t n errs => (s.at t).flushVisit n errs
    | _ => s.fwdStep st 6 tbl tag [0] State.cmdFlush)

end Sys2Proof.Machine
end

