-- ==== Sys2Proof/Machine/Tst.lean ====
section
/-! DEFINITION. Self-test, boundary scan and the temperature sensor (R457, R460 to R466, R500). -/

namespace Sys2Proof.Machine

/-! ### Self-test (R457, R460 to R464) -/

/-- The domains that can be tested in the field (R460). -/
def testable (d : Nat) : Bool := (Nat.ble 2 d && Nat.ble d 16) || (d == 19 || d == 20)

/-- The expected signature of a domain (R464). -/
def expectedSig (d : Nat) : Nat :=
  if d ≤ 9 then 0x5C1E92A7 else if d ≤ 13 then 0x0B73D4E1 else if d = 14 then 0x9A206F3C else if d = 15 then 0x37E81B05
  else if d = 16 then 0xC4D97A62 else if d = 19 then 0x6F15E8D0 else 0x2A8C4B19

/-- The combinations of R457 in which a test is refused. -/
def State.testBarred (s : State) (d : Nat) : Bool :=
  (Nat.ble 6 s.updState && Nat.ble s.updState 9) || (s.pwr.mode != .service ||
    ((d == 16 && s.on F.KVT_CFG_APPROVED) || (d == 2 && s.level == 1)))

/-- A test needs FORCE (R460). -/
def State.testInUse (s : State) (d : Nat) : Bool :=
  if 2 ≤ d ∧ d ≤ 9 then
    (List.range 64).any (fun k => s.hunterOn (64 * (d - 2) + k) &&
      (let sl := s.hunterSlice (64 * (d - 2) + k); s.sliceOn (sl / 128) (sl % 128) && s.link (sl / 128) == 4))
  else if 10 ≤ d ∧ d ≤ 13 then s.link (d - 10) == 4
  else if d = 19 then (List.range 4).any (fun n => s.portUp n)
  else if d = 20 then (List.range 4).any (fun p => (s.i3 p).next.isSome)
  else false

/-- The outcome that refuses a command, if one does: NOTSUP, BADARG, COMBO, INUSE. -/
def State.testRefusal (s : State) (v : Word) : Option Nat :=
  let d := F.TST_CMD_DOMAIN.ext v
  if !testable d then some 4
  else if F.TST_CMD_LBIST.ext v = 0 ∧ F.TST_CMD_MBIST.ext v = 0 then some 6
  else if s.testBarred d then some 2
  else if F.TST_CMD_FORCE.ext v = 0 ∧ s.testInUse d = true then some 3
  else none

/-- TST_RESULT. -/
def State.testResult (s : State) (outcome tag : Nat) (lfail : Bool) (bad : List Nat) : State :=
  s.setReg Reg.TST_RESULT (BitVec.ofNat 32 (outcome + 16 * tag + 4096 * b2n lfail + 8192 * b2n (!bad.isEmpty) +
    16384 * (bad.headD 0 % 1024) + 16777216 * min 255 bad.length))

/-- A test begins (R462, R463): the domain leaves service, or is powered with its register file; PD_SEC clears its keys (R340). -/
def State.testStart (s : State) (t : Time) (v : Word) : State :=
  let d := F.TST_CMD_DOMAIN.ext v
  let x := s.dom d
  let r : TestRun := { dom := d, lbist := F.TST_CMD_LBIST.ext v == 1, mbist := F.TST_CMD_MBIST.ext v == 1, tag := F.TST_CMD_TAG.ext v,
                       back := x.heading }
  let s1 := if x.mode = .on ∧ x.seq = .idle then s.drainUnit t d .off else s
  let s2 := s1.setDom d { s1.dom d with seq := .testing x.heading, passage := false }
  let s3 := if d = 16 then
      let u := s2.kvtTo 0
      { u with kvt := { u.kvt with cache := [], slots := [], wrapped := [], derived := false, answer := none } }
    else s2
  let s4 := (({ s3 with tst := { s3.tst with run := some r } }).bump Ctr.TST_RUNS).setReg Reg.TST_EXP (BitVec.ofNat 32 (expectedSig d))
  s4.setReg Reg.TST_STATUS (BitVec.ofNat 32 (1 + 2 * d + 64))

/-- TST_START (R457, R460): ignored while BUSY; a refused command is counted, source 250. -/
def execTstStart (t : Time) (rq : Req) (v : Word) (s : State) : Host.Outcome State Fault Refusal :=
  .next ((s.at t).gated rq Reg.TST_CMD v (fun u =>
    if u.on F.TST_STATUS_BUSY then u
    else match u.testRefusal v with
      | some o => ((u.testResult o (F.TST_CMD_TAG.ext v) false []).bump Ctr.TST_REFUSED).fire 250
      | none => u.testStart t v))

/-- The domain goes back to the state it had (phase 5 of R462): banks recovered, contents lost where no bank keeps them, PD_SEC
restarts KVT from START; a request that came meanwhile is acted on (R463). -/
def State.testReturn (s : State) (t : Time) (r : TestRun) : State :=
  let s1 := (List.range 27).foldl (fun (u : State) b => if bankOf r.dom b && (b != 0 && b != 24) then u.recoverBank b else u) s
  let s2 := s1.unitClear r.dom true
  let s3 := s2.setDom r.dom { s2.dom r.dom with mode := r.back, seq := .idle }
  let s4 := if r.dom = 16 then s3.secStart else if r.back = .on then s3.unitOn r.dom else s3.bump Ctr.PWR_ENTRIES
  (s4.fire 12).unlatch t r.dom

/-- TST_STATUS is idle again. -/
def State.testIdle (s : State) : State := ({ s with tst := { s.tst with run := none } }).setReg Reg.TST_STATUS 0

/-- The banks that fail their check in phase 1 (R416, R462): those of a retained domain, and the register file of one that was off. -/
def State.testBanks (s : State) (d : Nat) (bad : List Nat) : List Nat :=
  bad.filter (fun b => bankOf d b && ((s.dom d).mode == .ret || ((s.dom d).mode == .off && b == 0)))

/-- TST_PHASE_DONE (R462, R464): the phase ends and the next named one begins; after RESTORE the test is PASS or FAIL, sources 248
and 249. Phase 1 of a DMX group or of PD_SIC waits for the drain; a bank that fails there is handled as at any exit (R416), and bank 0, the
register file, makes the exit a start, there and in phase 5. -/
def execTstPhaseDone (t : Time) (res : PhaseRes) (s : State) : Host.Outcome State Fault Refusal :=
  let s0 := s.at t
  .next (match s0.tst.run with
    | none => s0
    | some r =>
      let goTo := fun (u : State) (n : Nat) => u.setFld F.TST_STATUS_PHASE n
      let keep := fun (u : State) (x : TestRun) => { u with tst := { u.tst with run := some x } }
      let p := s0.fld F.TST_STATUS_PHASE
      if p = 1 then
        let hit := s0.testBanks r.dom res.bad
        let s1 := hit.foldl (fun (u : State) b => (u.bankFail r.dom b).recoverBank b) s0
        if s0.drained r.dom = false then s0 else if hit.contains 0 then s1.becomeStart else goTo s1 2
      else if p = 2 then goTo s0 (if r.lbist then 3 else 4)
      else if p = 3 then
        let sig := res.sig % 2 ^ 32
        let s1 := s0.setReg Reg.TST_SIG (BitVec.ofNat 32 sig)
        goTo (keep s1 { r with lfail := sig != expectedSig r.dom }) (if r.mbist then 4 else 5)
      else if p = 4 then goTo (keep s0 { r with bad := res.bad }) 5
      else if res.bad.contains 0 then s0.becomeStart
      else
        let fail := r.lfail || !r.bad.isEmpty
        let s1 := ((s0.testReturn t r).testIdle).testResult (b2n fail) r.tag r.lfail r.bad
        ((s1.bump (if fail then Ctr.TST_FAIL else Ctr.TST_PASS)).fire 248).fireIf fail 249)

/-- Entry to a device mode ends a running test (R457, R463): ABORTED, source 250. -/
def State.testAbort (s : State) : State :=
  match s.tst.run with
  | none => s
  | some r =>
    let s1 := (s.unitClear r.dom true).setDom r.dom { s.dom r.dom with mode := r.back, seq := .idle, latched := none }
    let s2 := if r.dom = 16 then s1.secStart else if r.back = .on then s1.unitOn r.dom else s1
    ((s2.testIdle).testResult 5 r.tag false []).fire 250

/-! ### Boundary scan (R465, R466) -/

/-- TAP_INSTRUCTION_LOAD (R465, R466, R339): scan instructions at SL0 only; at any other level they act as BYPASS, are counted,
source 250. -/
def execTapInstructionLoad (i : TapInstr) (s : State) : Host.Outcome State Fault Refusal :=
  .next (if i.holds then
      if s.level = 0 then ({ s with tst := { s.tst with tap := i } }).fire 251
      else (({ s with tst := { s.tst with tap := .bypass } }).bump Ctr.TST_BSIGN).fire 250
    else
      let j := if i = .debug ∧ F.CHIP_WMAP1_DBG.ext (s.wmap Reg.CHIP_WMAP1) = 0 then .bypass else i
      { s with tst := { s.tst with tap := j } })

/-- TAP_RESET (R466). -/
def execTapReset (s : State) : Host.Outcome State Fault Refusal := .next { s with tst := { s.tst with tap := .bypass } }

/-! ### Temperature (R500) -/

/-- TEMP_SAMPLE (R500): the measurement, and the highest since PD_SYS started. -/
def execTempSample (temp : Int) (s : State) : Host.Outcome State Fault Refusal :=
  .next (if !s.domReady 1 then s
  else
    let first := !s.on F.CHIP_TEMP_VALID
    let top := first || decide (signed 8 (s.fld F.CHIP_TEMP_MAX) < temp)
    let s1 := (s.setFld F.CHIP_TEMP_TEMP (unsigned 8 temp)).setFlag F.CHIP_TEMP_VALID true
    if top then s1.setFld F.CHIP_TEMP_MAX (unsigned 8 temp) else s1)

end Sys2Proof.Machine
end

