-- ==== Sys2Proof/Machine/Window.lean ====
section
/-! DEFINITION. Safe boundaries, slot boundaries and one-second windows: COMMIT_ACTIVATE, SLOT_BOUNDARY and
ONE_SECOND_WINDOW (R50, R70, R136, R203, R223). -/

namespace Sys2Proof.Machine

/-- A lane holds a frame on slice `k` of port `n`, or of its partner (R109). -/
def State.laneOn (s : State) (n k : Nat) : Bool :=
  s.dmx.lanes.any (fun e => e.2.slice == 128 * n + k || (match s.partner n with
    | some m => e.2.slice == 128 * m + k
    | none => false))

/-- NOISE_FLOOR_UPDATE (R109): `powers` gives, per slice of port `n`, the sixteen sub-window powers of the last millisecond (linear, full
scale 2^32); `clipped` that more than 0.1 % of the samples reached full scale. A slice is idle where no hunter detected on it, no lane
held it and nothing blanked it throughout. It is RFP's safe boundary: the port's commit group applies first (R115). -/
def execNoiseFloorUpdate (n : Nat) (powers : List (Nat × List Nat)) (clipped : Bool) (s : State) :
    Host.Outcome State Fault Refusal :=
  let s0 := s.commitAt 3 n
  let p := s0.port n
  let busy := fun k => p.msBusy.contains k || (s0.blanked n k || s0.laneOn n k)
  let s1 := powers.foldl (fun u e =>
    if u.sliceOn n e.1 && (!busy e.1 && !e.2.isEmpty) then
      let q := u.port n
      let l := (q.nf.getD' e.1 [] ++ [e.2.foldl min (e.2.getD 0 0)])
      let l' := l.drop (l.length - 16)
      let u1 := u.setPort n { q with nf := q.nf.put e.1 l' }
      if l'.length = 16 then
        (u1.setFld (F.RFPn_SLkNF_NF n e.1) (meanFloor l')).setFlag (F.RFPn_SLkNF_VALID n e.1) true
      else u1
    else u) s0
  let q := s1.port n
  .next (s.whenLive (10 + n) ((s1.setPort n { q with msBusy := [] }).fireIf clipped 63))

/-- The staged channel masks have reached their boundary (R182). -/
def State.maskDue (s : State) : Bool :=
  match s.staged.find? (fun (x : Staged) => x.unit == 7 && x.grp == 2) with
  | some st => decide ((16 * s.longestSf : Int) ≤ gsnDiff s.gsn st.gsn)
  | none => false

/-- The safe boundary of group `g` of unit `u` can be now (R50): that of MSQ's channel masks has its own rule (R182). -/
def State.boundaryNow (s : State) (u g : Nat) : Bool := !(u == 7 && g == 2) || s.maskDue

/-- COMMIT_ACTIVATE (R50, R182): the unit's safe boundary for the named groups. -/
def execCommitActivate (unit groups : Nat) (s : State) : Host.Outcome State Fault Refusal :=
  .next (((groupsOf groups).filter (fun g => s.boundaryNow unit g)).foldl (fun t g => t.commitAt unit g) s)

/-- The counts of CDC and DMX for the running second restart. -/
def State.windowRx (s : State) : State :=
  { s with cdc := { s.cdc with hdrFails := 0, rsFails := 0 }, dmx := { s.dmx with noSfd := [] } }

/-- The counts of BGT, QMG and MSQ for the running second restart. -/
def State.windowMac (s : State) : State :=
  { s with bgt := { s.bgt with ccaBusy := 0 }, qmg := { s.qmg with refusals := 0, drops := 0 },
           msq := { s.msq with micFails := 0, stales := 0 } }

/-- The counts of FWD, PRC, CSC, LGC, HIF, MEM and SUP for the running second restart. -/
def State.windowNet (s : State) : State :=
  { s with fwd := { s.fwd with policed := [] }, prc := { s.prc with decFails := 0 }, csc := { s.csc with authSeen := false },
           lgc := { s.lgc with noMatch := false }, hif := { s.hif with nhDrop := false }, mem := { s.mem with ceWin := 0 },
           sup := { s.sup with tsMisWindow := 0 } }

/-- ONE_SECOND_WINDOW (R136): the counts per window restart where GCN has passed a multiple of the nominal frequency. -/
def execOneSecondWindow (t : Time) (s : State) : Host.Outcome State Fault Refusal :=
  let s0 := s.at t
  let w := s0.secondNow
  .next (s.whenLive 1 (if w = s0.gtb.second then s0
    else { s0 with gtb := { s0.gtb with second := w } }.windowRx.windowMac.windowNet))

/-- The commits whose safe boundary is the next slot boundary (R74, R178, R182; chapter 7). -/
def State.slotCommits (s : State) : State :=
  let s1 := (List.range 8).foldl (fun t g => t.commitAt 4 g) (s.commitAt 2 0)
  let s2 := ((s1.commitAt 7 0).commitAt 7 1).commitAt 7 3
  if s2.maskDue then s2.commitAt 7 2 else s2

/-- The announcement of a step begins or has ended (R203): source 101. -/
def State.announce (s : State) : State :=
  let step := s.stepAnnounced
  let s1 := s.fireIf (step && !s.msq.annStep) 101
  { s1 with msq := { s1.msq with annStep := step } }

/-- SWITCH, PARITY and DEPTH of a link, written by the atomic path (R184, R230). -/
def State.putLink (s : State) (x : Nat × Nat × Nat × Nat) : State :=
  match s.nbr x.1 with
  | some n => s.setNbr x.1 { n with sw := x.2.1, par := x.2.2.1, dep := x.2.2.2 }
  | none => s

/-- A patch becomes active in full (R223, R230), and the CELLS frames of its sets are queued (R236). -/
def State.applyPatch (s : State) (p : Patch) : State :=
  let s1 := p.links.foldl (fun t x => t.putLink x) { s with msq := { s.msq with cells := p.cells s.msq.cells } }
  p.send.foldl (fun t x => t.sendCells x.1 x.2) s1

/-- Up to 16 staged patches, in the order in which they were staged; source 108 where one becomes active (R223). -/
def State.applyPatches (s : State) : State :=
  let now := s.msq.patches.take 16
  let s1 := { s with msq := { s.msq with patches := s.msq.patches.drop 16 } }
  let s2 := now.foldl (fun t p => t.applyPatch p) s1
  if now.isEmpty then s2 else s2.copyCells.fire 108

end Sys2Proof.Machine
end

