-- ==== Sys2Proof/Machine/Modes.lean ====
section
/-! DEFINITION. Device low-power modes and the always-on clock (R411 to R414), and the slot boundary at which an entry begins. -/

namespace Sys2Proof.Machine

/-- A flash write or a fuse burn is in progress, for which a mode command waits (R411). -/
def State.flashBusy (s : State) : Bool :=
  s.updState == 4 || (s.upd.waits.isSome || (s.kvtWriting || (s.kvt.burnStarted ||
    s.hif.xcmd.any (fun (x : Nat × Nat) => x.1 != 0))))

/-- Cancel every reservation that has not been released (R213, R411). -/
def State.cancelReserved (s : State) : State :=
  (List.range 4).foldl (fun (u : State) n =>
    ((u.port n).streams.filter (fun (x : Stream) => !x.active)).foldl (fun (v : State) (x : Stream) =>
      ((v.settle x.id none false).endStream n x.id).ownerAborted x.id x.user) u) s

/-- The state of a domain in mode `m`: DEEPRET retains what is on, AONONLY keeps nothing. -/
def modeState (m : LpMode) (x : Dom) : Dom :=
  let goal : DomMode := if m = .deepret then (if x.heading = .off then .off else .ret) else .off
  { mode := goal }

/-- Step 4 of R411 begins: every domain that is on, but PD_SYS, PD_SEC and PD_MEM, which come last, drains as R408 says. -/
def State.modeDrain (s : State) (t : Time) (m : LpMode) : State :=
  (List.range 20).foldl (fun (u : State) i =>
    let d := i + 1
    if alwaysOn d || (u.dom d).seq != .idle then u else u.startDom t d (modeState m (u.dom d)).mode) s

/-- Entry to mode `m` begins (R411): service ends, reservations are refunded, links go OFF, a self-test ends, the DRAM goes to
self-refresh, units drain. -/
def State.modeEnter (s : State) (t : Time) (m : LpMode) : State :=
  let s1 := (s.setFld F.CHIP_START_LEVEL 0).cancelReserved
  let s2 := (List.range 4).foldl (fun (u : State) n => u.linkTo t n 0) s1
  let s3 := ((s2.testAbort).setFlag F.HIF_STATUS_PCIEUP false).setFld F.HIF_STATUS_ETHUP 0
  let s4 := if s3.on F.MEM_STATUS_TRAINED then (s3.setFlag F.MEM_STATUS_SELFREF true).fire 210 else s3
  ({ s4 with pwr := { s4.pwr with mode := .entering m, modeWait := none, sl2 := false },
             mem := { s4.mem with saved := s4.mem.saved || s4.on F.MEM_STATUS_TRAINED } }).modeDrain t m

/-- The mode command that waits and may enter: no flash write or fuse burn is in progress (R411). -/
def State.modeDue (s : State) : Option LpMode := if s.pwr.mode = .service ∧ s.flashBusy = false then s.pwr.modeWait else none

/-- A cell that names a FREE record or a disabled template (source 107). -/
def State.badCell (s : State) (c : Cell) : Bool :=
  !s.tplOn c.tpl || (c.ded && c.dir != 2 && ((s.nbr c.record).elim true (fun n => n.st == 0)))

/-- SLOT_BOUNDARY (R70, R223, R411): a mode command that waits enters; else slot-boundary commits, announcements, patches, confirmed
sets, and cells to be skipped. -/
def execSlotBoundary (t : Time) (s : State) : Host.Outcome State Fault Refusal :=
  let s0 := s.at t
  .next (s.whenLive 1 (match s0.modeDue with
    | some m => s0.modeEnter t m
    | none =>
      let s1 := (s0.slotCommits.announce).applyPatches
      let s2 := s1.pruneSets s1.ec
      s2.fireIf (s2.level != 0 && s2.allCells.any (fun c => s2.cellAt c s2.ec && s2.badCell c)) 107))

/-- A write of PWR_MODECMD with the key (R411): refused in PAUSE, TRIAL and COMMITTING, source 19; it waits for a flash write or
fuse burn, and then for the slot boundary at which MSQ ends its service. -/
def State.modeCmd (s : State) (rq : Req) (key : Nat) (m : LpMode) : State :=
  let w := BitVec.ofNat 32 ((if m = .deepret then 1 else 2) + 65536 * (key % 65536))
  s.gated rq Reg.PWR_MODECMD w (fun u =>
    if key % 65536 ≠ 0x9E37 ∨ u.pwr.mode ≠ .service then u
    else if 6 ≤ u.updState ∧ u.updState ≤ 8 then u.fire 19
    else { u with pwr := { u.pwr with modeWait := some m } })

/-- MODE_DEEPRET (R411). -/
def execModeDeepret (t : Time) (rq : Req) (key : Nat) (s : State) : Host.Outcome State Fault Refusal :=
  .next ((s.at t).modeCmd rq key .deepret)

/-- MODE_AONONLY (R411). -/
def execModeAononly (t : Time) (rq : Req) (key : Nat) (s : State) : Host.Outcome State Fault Refusal :=
  .next ((s.at t).modeCmd rq key .aononly)

/-- PWR_WAKEREC takes a wake (R412). -/
def State.wakeRec (s : State) (w : Wake) (replay : Bool) : State :=
  let n := match w with
    | .gpio => 1
    | .smbus => 2
    | .alarm => 3
  (s.setFld F.PWR_WAKEREC_SRC n).setFlag F.PWR_WAKEREC_REPLAY replay

/-- The exit from mode `m` begins. -/
def State.modeExit (s : State) (m : LpMode) : State :=
  ({ s with pwr := { s.pwr with mode := .exiting m, wake := none } }).setFlag F.PWR_WAKEREC_FROMAON (m == LpMode.aononly)

/-- A wake event that PWR_WAKECFG enables (R412): latched during an entry (source 13), ends a mode, recorded during an exit. -/
def State.wakeBy (s : State) (w : Wake) : State :=
  match s.pwr.mode with
  | .service => if s.modeDue.isSome then ({ s with pwr := { s.pwr with wake := some w } }).fire 13 else s
  | .entering _ => ({ s with pwr := { s.pwr with wake := some w } }).fire 13
  | .inMode m => (s.wakeRec w false).modeExit m
  | .exiting _ => s.setFld F.PWR_WAKEREC_SRC (match w with
    | .gpio => 1
    | .smbus => 2
    | .alarm => 3)

/-- Step 4 of R411 takes the domains in this order: PD_SYS, PD_SEC and PD_MEM last. -/
def modeOrder : List Nat := [2, 3, 4, 5, 6, 7, 8, 9, 10, 11, 12, 13, 14, 15, 18, 19, 20, 1, 16, 17]

/-- Every domain but PD_AON has gone through R408: what its unit keeps in no bank is lost, the entry counts, and source 12 fires, but at
the end of that of PD_SYS, in which the Event Hub lies. -/
def State.modeDomains (s : State) (m : LpMode) : State :=
  modeOrder.foldl (fun (u : State) d =>
    let x := modeState m (u.dom d)
    if (u.dom d).mode = x.mode then u.setDom d x
    else (((u.setDom d x).unitOff d x.mode).bump Ctr.PWR_ENTRIES).fireIf (d != 1) 12) s

/-- MODE_ENTRY_COMPLETE (R411, R412): once every unit has drained, every domain is down, GTB goes on from the holdover counter, FAIL_N is
released in AONONLY (R433), and a latched wake is replayed. -/
def execModeEntryComplete (t : Time) (refcnt : Nat) (s : State) : Host.Outcome State Fault Refusal :=
  let s0 := s.at t
  .next (match s0.pwr.mode with
    | .entering m =>
      if !(List.range 20).all (fun i => s0.drained (i + 1)) then s0
      else
      let s2 := if s0.gtValid && s0.gtbState != 2 then (if s0.gtbState = 4 then s0.clearStep else s0).enterHold refcnt
        else if s0.gtValid then s0.saveHold refcnt s0.gtb.freq else s0
      let s3 := s2.modeDomains m
      let s4 := { s3 with pwr := { s3.pwr with mode := .inMode m } }
      let s5 := { s4 with sup := { s4.sup with failPin := s4.failLow } }
      match s5.pwr.wake with
      | some w => (s5.wakeRec w true).modeExit m
      | none => s5
    | _ => s0)

/-- The alarm counts (R412): from the end of an entry on. -/
def ModeState.counts : ModeState → Bool
  | .inMode _ => true
  | .exiting _ => true
  | .service => false
  | .entering _ => false

/-- WAKE_GPIO (R412, R493): only GPIO 0 to 7 can be the wake ball. -/
def execWakeGpio (ball : Nat) (falling : Bool) (s : State) : Host.Outcome State Fault Refusal :=
  .next (if s.on F.PWR_WAKECFG_GPIOEN && (s.fld F.PWR_WAKECFG_GPIO == ball && (Nat.blt ball 8 &&
      s.on F.PWR_WAKECFG_GPIOPOL == falling)) then s.wakeBy .gpio else s)

/-- WAKE_SMBUS (R412). -/
def execWakeSmbus (s : State) : Host.Outcome State Fault Refusal :=
  .next (if s.on F.PWR_WAKECFG_SMBEN then s.wakeBy .smbus else s)

/-- WAKE_ALARM (R412): PWR_ALARM, which counts from the moment an entry completes, has expired. -/
def execWakeAlarm (s : State) : Host.Outcome State Fault Refusal :=
  .next (if s.on F.PWR_WAKECFG_ALARMEN && s.pwr.mode.counts then s.wakeBy .alarm else s)

/-- The state in which domain `d` leaves DEEPRET: as PWR_DOMREQ asks (R413), but for the domains that PWR holds at SL1 where the step to
SL2 does not follow (R407). -/
def State.wakeMode (s : State) (d : Nat) : DomMode :=
  if alwaysOn d then .on
  else if !s.pwr.sl2 && sl1Held d then (if d = 15 then (if (s.dom d).mode = .off then .off else .ret) else .off)
  else (domCode (s.domReq d)).getD (s.dom d).mode

/-- Bring the retained domains back (R413): PD_SYS, PD_SEC, PD_MEM and PD_HIF, then the others as PWR_DOMREQ asks, each with source 12
(R409). I3 instances go on where they were (R454). -/
def State.wakeDomains (s : State) : State :=
  (List.range 20).foldl (fun (u : State) i =>
    let d := i + 1
    let m := u.wakeMode d
    if (u.dom d).mode = .ret ∧ m = .on then
      (let v := u.setDom d { mode := .on }
       (if d = 20 then v else v.unitOn d).fire 12)
    else if (u.dom d).mode = m ∨ (u.dom d).mode = .on then u
    else u.startDom { gt := u.gtb.gt, ft := u.gtb.ft } d m) s

/-- DEEPRET_EXIT_COMPLETE (R413, R415, R416): `bad` names the banks (domain, bank) that fail; bank 0, or bank 1 of PD_SYS, makes
the exit a start. Otherwise SL1 resumes where its conditions hold, GT goes on in HOLD, source 20. -/
def execDeepretExitComplete (t : Time) (bad : List (Nat × Nat)) (s : State) : Host.Outcome State Fault Refusal :=
  let s0 := s.at t
  .next (if s0.pwr.mode ≠ .exiting .deepret then s0
  else
    let hit := bad.filter (fun x => bankOf x.1 x.2 && (s0.dom x.1).mode == .ret)
    let on : Dom := { mode := .on }
    let s1 := (s0.setDom 1 on).setDom 17 on
    let s2 := hit.foldl (fun (u : State) x => (u.bankFail x.1 x.2).recoverBank x.2) s1
    if hit.any (fun x => x.2 == 0 || x.2 == 1) then s2.becomeStart
    else
      let s3 := ({ s2 with pwr := { s2.pwr with mode := .service, sl2 := s2.sl2Ready } }).wakeDomains
      let s4 := if s3.on F.MEM_STATUS_SELFREF then (s3.setFlag F.MEM_STATUS_SELFREF false).fire 210 else s3
      let s5 := if s4.sl1Ready then s4.setFld F.CHIP_START_LEVEL 1 else s4
      (s5.fire 20).drive)

/-- AONONLY_RAILS_READY (R414, R415): the exit from AONONLY is a start with PD_AON and DRAM kept. -/
def execAononlyRailsReady (t : Time) (s : State) : Host.Outcome State Fault Refusal :=
  .next (if s.pwr.mode = .exiting .aononly then s.becomeStart.deviceStart t else s)

/-- XTAL_FAIL (R414): where the crystal is selected, AON_CLK moves to REFCLK if that runs, XTALFAIL, source 21; where it does not
run either, GT stops being valid in AONONLY (R83). -/
def execXtalFail (refclk : Bool) (s : State) : Host.Outcome State Fault Refusal :=
  .next (if s.on F.PWR_CLKSEL_AONSRC || s.on F.PWR_STATUS_XTALFAIL then s
  else
    let s1 := (s.setFlag F.PWR_STATUS_XTALFAIL true).fire 21
    if !refclk && s.pwr.mode == .inMode .aononly then
      s1.dropHold
    else s1)

end Sys2Proof.Machine
end

