-- ==== Sys2Proof/Machine/Xspi.lean ====
section
/-! DEFINITION. Host access to the flash (R481), and the end of KVT's writes to it (R309). -/

namespace Sys2Proof.Machine

/-- A host command for the flash is refused (R481, R38): `op` is 0 READ, 1 ERASE, 2 PROGRAM. -/
def State.xspiRefused (s : State) (op addr : Nat) : Bool :=
  s.fld F.CFG_STATUS_STATE != 6 || (s.updState == 4 || (s.updState == 8 || (s.upd.waits.isSome ||
    (s.kvtWriting ||
      ((op != 0 && Nat.ble 0x01010000 addr) || (op == 0 && Nat.ble 0x03020000 addr))))))

/-- A write of HIF_XCMD with the address in HIF_XADDR: ignored while a command runs. -/
def State.xspiCmd (s : State) (rq : Req) (op : Nat) : State :=
  s.gated rq Reg.HIF_XCMD (BitVec.ofNat 32 op) (fun u =>
    if u.on F.HIF_XSTAT_BUSY then u
    else
      let a := u.fld F.HIF_XADDR_ADDR
      if u.xspiRefused op a then (u.setFld F.HIF_XSTAT_OUTCOME 1).fire 223
      else ({ u with hif := { u.hif with xcmd := some (op, a) } }).setFlag F.HIF_XSTAT_BUSY true)

/-- XSPI_READ (R481). -/
def execXspiRead (rq : Req) (s : State) : Host.Outcome State Fault Refusal := .next (s.xspiCmd rq 0)

/-- XSPI_ERASE (R481). -/
def execXspiErase (rq : Req) (s : State) : Host.Outcome State Fault Refusal := .next (s.xspiCmd rq 1)

/-- XSPI_PROGRAM (R481). -/
def execXspiProgram (rq : Req) (s : State) : Host.Outcome State Fault Refusal := .next (s.xspiCmd rq 2)

/-- The effect of a command on flash or HIF_XDATA: programming clears bits, an erased sector reads 0xFF. -/
def State.xspiEffect (s : State) (op addr : Nat) : State :=
  let p := addr / 256
  if op = 0 then s.setRegs (Reg.HIF_XDATAw 0) (packWords 64 (s.flashRead (256 * p) 256))
  else if op = 1 then s.flashErase (addr / 65536 * 65536) 65536
  else
    let old := s.flashRead (256 * p) 256
    let new := s.octRun (Reg.HIF_XDATAw 0) 64
    s.flashWrite (256 * p) ((old.zip new).map (fun x => x.1 &&& x.2))

/-- JOURNAL_COMMIT (R309): the entry at the front, whose writes have begun, commits whole; the next begins, and after the last of them a
flash write of UPD that had yielded. -/
def execJournalCommit (s : State) : Host.Outcome State Fault Refusal :=
  .next (match s.kvt.journal with
    | [] => s
    | j :: t =>
      if j.started then ((State.journalApply { s with kvt := { s.kvt with journal := t } } j).journalStart).updResume
      else s.journalStart)

/-- XSPI_COMPLETE (R481): the host's command ends OK or FLASH, source 223, and a write of KVT or UPD that waited for it begins. With none, a failure is that of KVT's journal write (log entry
144). -/
def execXspiComplete (ok : Bool) (s : State) : Host.Outcome State Fault Refusal :=
  .next (match s.hif.xcmd with
    | none => if ok then s else s.journalWriteFails.updResume
    | some (op, a) =>
      let s1 := ({ s with hif := { s.hif with xcmd := none } }).setFlag F.HIF_XSTAT_BUSY false
      ((((if ok then s1.xspiEffect op a else s1).setFld F.HIF_XSTAT_OUTCOME (if ok then 0 else 2)).fire 223).journalStart).updResume)

end Sys2Proof.Machine
end

