-- ==== Sys2Proof/Machine/View.lean ====
section
/-! DEFINITION. What a read finds (R43, R44, R58): fields that show state held elsewhere in the model, unit by unit, laid over
the register file. -/

namespace Sys2Proof.Machine

/-- The word with field `f` showing `n`. -/
def show1 (v : Word) (f : Field) (n : Nat) : Word := f.ins v n

/-- The word with field `f` showing a flag. -/
def showB (v : Word) (f : Field) (b : Bool) : Word := f.ins v (b2n b)

/-- Word `i` of a record shown by a FIFO: zero where the FIFO is empty. -/
def recWord (r : Option (List Octet)) (i : Nat) : Word :=
  match r with
  | some l => BitVec.ofNat 32 (leNat (slice l (4 * i) 4))
  | none => 0

/-- Bits `k` of 0 to n − 1 for which `b k` holds. -/
def bitsOf (n : Nat) (b : Nat → Bool) : Nat := (List.range n).foldl (fun m k => if b k then m + 2 ^ k else m) 0

/-- EVT. -/
def State.viewEvt (s : State) (p : Nat) (v : Word) : Word :=
  if p = Reg.EVT_VSTAT then show1 v F.EVT_VSTAT_ACTIVE (bitsOf 16 s.vecActive) else v

/-- GTB: live slot number, free time, legacy stamps (R70, R94), and in SLEW what is left of the phase error (R80). -/
def State.viewGtb (s : State) (p : Nat) (v : Word) : Word :=
  if p = Reg.GTB_STATUS then showB v F.GTB_STATUS_AUTH s.authority
  else if p = Reg.GTB_GSN then BitVec.ofNat 32 s.gsn
  else if p = Reg.GTB_FT then BitVec.ofNat 32 s.gtb.ft
  else if p = Reg.GTB_LEGSTAMP then s.legWord
  else if p = Reg.GTB_PHERR ∧ s.gtbState = 3 then show1 v F.GTB_PHERR_E (unsigned 32 (clampErr s.slewLeft))
  else v

/-- RFP. -/
def State.viewRfp (s : State) (p : Nat) (v : Word) : Word :=
  if p = Reg.RFP_STATUS then
    show1 (show1 v F.RFP_STATUS_LINKUP (bitsOf 4 (fun n => s.link n == 4))) F.RFP_STATUS_TXACT
      (bitsOf 4 (fun n => (s.port n).streams.any (fun x => x.active)))
  else
    match (List.range 4).findSome? (fun n => (famIdx (Reg.RFPn_SLkNF n) 128 p).map (fun k => (n, k))) with
    | some (n, k) => showB v (F.RFPn_SLkNF_BLANK n k) (s.blanked n k)
    | none => v

/-- DMX group registers. -/
def State.viewDmxGroup (s : State) (p : Nat) (v : Word) : Word :=
  match famIdx Reg.DMX_GgSTAT 8 p with
  | some g => show1 v (F.DMX_GgSTAT_FREE g) (s.freeLanes g).length
  | none =>
    match (List.range 8).findSome? (fun g => (famIdx (Reg.DMX_GgLk g) 32 p).map (fun k => (g, k))) with
    | none => v
    | some (g, k) =>
      match s.dmx.lanes.find (32 * g + k) with
      | none => 0
      | some x =>
        show1 (showB (showB (show1 v (F.DMX_GgLk_STATE g k) x.state) (F.DMX_GgLk_RETRO g k) x.retro)
          (F.DMX_GgLk_CATCHUP g k) x.catchup) (F.DMX_GgLk_SLICE g k) x.slice

/-- DMX. -/
def State.viewDmx (s : State) (p : Nat) (v : Word) : Word :=
  if p = Reg.DMX_STATUS then
    let w := show1 (show1 v F.DMX_STATUS_FREELANES s.freeCount) F.DMX_STATUS_RETROQ s.dmx.retro.length
    showB (show1 w F.DMX_STATUS_GRPON (bitsOf 8 s.groupOn)) F.DMX_STATUS_HISTOK
      (s.on F.DMX_CFG_RETRO && s.on F.MEM_STATUS_TRAINED)
  else if p = Reg.DMX_QSTAT then
    showB (show1 v F.DMX_QSTAT_DEPTH s.dmx.mirror.length) F.DMX_QSTAT_EMPTY s.dmx.mirror.isEmpty
  else match famIdx Reg.DMX_QRECw 8 p with
    | some w => recWord (s.dmx.mirror.head?.map QRec.octets) w
    | none => s.viewDmxGroup p v

/-- SIC. -/
def State.viewSic (s : State) (p : Nat) (v : Word) : Word :=
  if p = Reg.SIC_STATUS then
    let q := (s.sic.jobs.filter (fun (j : SicJob) => j.phase == .queued)).length
    let w := show1 (show1 v F.SIC_STATUS_ENGBUSY s.engBusy) F.SIC_STATUS_QDEPTH q
    showB (showB w F.SIC_STATUS_ACCEPT s.sicOn) F.SIC_STATUS_RDHOLD s.rdHold
  else if p = Reg.SIC_RQSTAT then
    showB (show1 v F.SIC_RQSTAT_DEPTH s.sic.fifo.length) F.SIC_RQSTAT_EMPTY s.sic.fifo.isEmpty
  else match famIdx Reg.SIC_RQRECw 4 p with
    | some w => recWord (s.sic.fifo.head?.map JobRec.octets) w
    | none => v

/-- CDC: decoding takes no time in the model, so RXBUSY reads 0. -/
def State.viewCdc (s : State) (p : Nat) (v : Word) : Word :=
  if p = Reg.CDC_STATUS then showB v F.CDC_STATUS_TXBUSY (!s.cdc.queue.isEmpty) else v

/-- MSQ. -/
def State.viewMsq (s : State) (p : Nat) (v : Word) : Word :=
  if p = Reg.MSQ_STATUS then
    showB (showB (showB (show1 v F.MSQ_STATUS_NBACT s.nbAct) F.MSQ_STATUS_GTOK s.gtValid) F.MSQ_STATUS_ANN s.announcing)
      F.MSQ_STATUS_SEARCHOK s.searchOk
  else if p = Reg.MSQ_SFSTAT then show1 v F.MSQ_SFSTAT_LONGEST s.longestSf
  else v

/-- BGT: the largest use of budget `k`'s accounts (R205). -/
def State.viewBgt (s : State) (p : Nat) (v : Word) : Word :=
  match famIdx Reg.BGT_SBkUSED 16 p with
  | some k => BitVec.ofNat 32 (s.budUsed k)
  | none => v

/-- SLV's FIFOs. -/
def State.viewSlvFifo (s : State) (p : Nat) (v : Word) : Word :=
  if p = Reg.SLV_RQSTAT then
    showB (show1 v F.SLV_RQSTAT_DEPTH s.slv.results.length) F.SLV_RQSTAT_EMPTY s.slv.results.isEmpty
  else if p = Reg.SLV_SHQSTAT then
    showB (show1 v F.SLV_SHQSTAT_DEPTH s.slv.shorts.length) F.SLV_SHQSTAT_EMPTY s.slv.shorts.isEmpty
  else match famIdx Reg.SLV_RQRECw 4 p with
    | some w => recWord (s.slv.results.head?.map SlvRes.octets) w
    | none => match famIdx Reg.SLV_SHQRECw 2 p with
      | some w => recWord (s.slv.shorts.head?.map Short.octets) w
      | none => v

/-- SLV: the command at the front of the queue runs, unless it is a SOLVE. -/
def State.viewSlv (s : State) (p : Nat) (v : Word) : Word :=
  if p = Reg.SLV_STATUS then
    let inc := s.slv.asked.isSome || s.slv.cmds.head?.any (fun (c : SlvCmd) => c.op != 1)
    let w := showB (showB v F.SLV_STATUS_FULLBUSY s.slv.solve.isSome) F.SLV_STATUS_INCBUSY inc
    showB (show1 w F.SLV_STATUS_CMDQ s.slv.cmds.length) F.SLV_STATUS_HELD (!s.slv.held.isEmpty)
  else if p = Reg.SLV_CMDSTAT then showB v F.SLV_CMDSTAT_QFULL (Nat.ble 16 s.slv.cmds.length)
  else s.viewSlvFifo p v

/-- QMG: cells, packets held, software queues (R246, R257, R261). -/
def State.viewQmg (s : State) (p : Nat) (v : Word) : Word :=
  if p = Reg.QMG_STATUS then show1 v F.QMG_STATUS_FCTL s.qmg.fctl
  else if p = Reg.QMG_FREE then show1 v F.QMG_FREE_CELLS s.freeCells
  else if p = Reg.QMG_HELD_LO then BitVec.ofNat 32 s.pktsHeld
  else if p = Reg.QMG_HELD_HI then show1 v F.QMG_HELD_HI_HELD_HI (s.pktsHeld / 2 ^ 32)
  else match famIdx Reg.QMG_USEDk 8 p with
    | some k => show1 v (F.QMG_USEDk_CELLS k) (s.usedCells k)
    | none => match famIdx Reg.QMG_SWQnSTAT 8 p with
      | some n =>
        let c := (s.queue (65620 + n)).cells
        let ends := (c.filter (fun x => (s.pktOf x).any (fun e => e.2.cells.getLast? == some x))).length
        show1 (show1 v (F.QMG_SWQnSTAT_DEPTH n) c.length) (F.QMG_SWQnSTAT_PKTS n) ends
      | none => v

/-- FWD. -/
def State.viewFwd (s : State) (p : Nat) (v : Word) : Word :=
  if p = Reg.FWD_STATUS then
    show1 (showB (showB v F.FWD_STATUS_KEEL s.keel) F.FWD_STATUS_SWEEPING s.sweeping) F.FWD_STATUS_LEARNQ
      s.fwd.learnQ.length
  else if p = Reg.FWD_NHOST then show1 v F.FWD_NHOST_COUNT s.fwd.addr.length
  else if p = Reg.FWD_NPFX then show1 v F.FWD_NPFX_COUNT s.fwd.pfx.length
  else if p = Reg.FWD_NBOOT then show1 v F.FWD_NBOOT_COUNT s.fwd.boot.length
  else if p = Reg.FWD_PERSTAT then
    showB (show1 v F.FWD_PERSTAT_DEPTH s.fwd.errs.length) F.FWD_PERSTAT_EMPTY s.fwd.errs.isEmpty
  else if p = Reg.FWD_CMDSTAT then showB v F.FWD_CMDSTAT_BUSY s.fwd.cmd.isSome
  else if p = Reg.FWD_LXSTAT then
    showB (show1 v F.FWD_LXSTAT_TXQ s.fwd.lxOut.length) F.FWD_LXSTAT_FLUSHBUSY s.fwd.flush.isSome
  else if p = Reg.FWD_FLAPSTAT then
    show1 (show1 v F.FWD_FLAPSTAT_PINNED (s.fwd.damp.filter (fun (d : Damp) => d.pin.isSome)).length) F.FWD_FLAPSTAT_USED
      (s.fwd.damp.filter (fun (d : Damp) => d.pin.isSome || decide (gtDiff s.gtb.gt d.start ≤ s.dampWindow))).length
  else match famIdx Reg.FWD_PERECw 2 p with
    | some w => recWord (s.fwd.errs.head?.map FwdErrRec.octets) w
    | none => v

/-- KVT (R324). -/
def State.viewKvt (s : State) (p : Nat) (v : Word) : Word :=
  if p = Reg.KVT_NSLOT then BitVec.ofNat 32 s.activeSlots
  else if p = Reg.KVT_STATUS then showB v F.KVT_STATUS_APPROVED (s.on F.KVT_CFG_APPROVED)
  else v

/-- UPD: the seconds left of a trial, the SVN fuses (R346), and its own generation among those of the members. -/
def State.viewUpd (s : State) (p : Nat) (v : Word) : Word :=
  if p = Reg.UPD_STATUS then
    show1 v F.UPD_STATUS_TRIALS (if s.updState = 7 then 60 - (s.gtb.ft - s.upd.trialFt) / 1000000 else 0)
  else if p = Reg.UPD_SVN then show1 v F.UPD_SVN_BURNED s.upd.fuses
  else match famIdx Reg.UPD_PEERGENk 16 p with
    | some k => if k = s.fld F.CSC_CFG_CHIPID then s.reg Reg.UPD_RUNGEN else v
    | none => v

/-- CSC: quorum (R379), the mirror while its conditions hold (R455), cells granted and not yet arrived, and the peer's grant not yet used (R369). -/
def State.viewCsc (s : State) (p : Nat) (v : Word) : Word :=
  if p = Reg.CSC_STATUS then showB (showB v F.CSC_STATUS_MIRROR s.mirrorOk) F.CSC_STATUS_QUORUM s.quorum
  else match famIdx Reg.CSC_PnCREDOUT 4 p with
  | some n => show1 v (F.CSC_PnCREDOUT_OUT n) (s.credOut n)
  | none => match famIdx Reg.CSC_PnCREDAV 4 p with
    | some n => show1 v (F.CSC_PnCREDAV_AVAIL n) (s.credAvail n)
    | none => v

/-- The code of a domain in PWR_DOMSTAT; PD_AON is on. -/
def State.domStat (s : State) (d : Nat) : Nat :=
  let x := s.dom d
  if d = 0 then 1
  else if x.seq != .idle || x.passage then 3
  else match x.mode with
    | .off => 0
    | .on => 1
    | .ret => 2

/-- PWR. -/
def State.viewPwr (s : State) (p : Nat) (v : Word) : Word :=
  let st := fun (a n : Nat) => (List.range n).foldl (fun m d => m + s.domStat (a + d) * 4 ^ d) 0
  if p = Reg.PWR_DOMSTAT0 then BitVec.ofNat 32 (st 0 16)
  else if p = Reg.PWR_DOMSTAT1 then BitVec.ofNat 32 (st 16 5)
  else if p = Reg.PWR_STATUS then
    showB (showB v F.PWR_STATUS_BUSY (s.pwr.doms.any (fun (d : Dom) => d.seq != .idle) ||
      !(s.pwr.mode == .service || (s.pwr.mode == .inMode .deepret || s.pwr.mode == .inMode .aononly)))) F.PWR_STATUS_AONXTAL
      (!s.on F.PWR_CLKSEL_AONSRC && !s.on F.PWR_STATUS_XTALFAIL)
  else v

/-- The octets of a log entry (R431). -/
def LogEntry.octets (e : LogEntry) : List Octet :=
  leOctets 8 e.gt ++ leOctets 1 (e.cls % 32 + 32 * b2n e.ovf) ++ leOctets 1 (e.unit % 32) ++ leOctets 2 e.src
  ++ leOctets 1 (e.action % 8) ++ leOctets 1 (e.level % 4 + 4 * b2n e.keel) ++ leOctets 2 e.seq

/-- SUP: FAIL_N and the fault log (R431, R433). -/
def State.viewSup (s : State) (p : Nat) (v : Word) : Word :=
  if p = Reg.SUP_FAILCAUSE then showB (show1 v F.SUP_FAILCAUSE_CAUSE s.failCauses) F.SUP_FAILCAUSE_PIN s.sup.failPin
  else if p = Reg.SUP_LOGSTAT then
    showB (show1 v F.SUP_LOGSTAT_DEPTH s.sup.log.length) F.SUP_LOGSTAT_EMPTY s.sup.log.isEmpty
  else match famIdx Reg.SUP_LOGRECw 4 p with
    | some w => recWord (s.sup.log.head?.map LogEntry.octets) w
    | none => v

/-- HIF: timestamps and the PTP clock (R478). -/
def State.viewHif (s : State) (p : Nat) (v : Word) : Word :=
  if p = Reg.HIF_STATUS then show1 v F.HIF_STATUS_TSDEPTH s.hif.ts.length
  else if p = Reg.HIF_TSFIFO then s.hif.ts.headD 0
  else if p = Reg.HIF_PTPSEC_LO then BitVec.ofNat 32 (s.ptpNow / 10 ^ 9)
  else if p = Reg.HIF_PTPSEC_HI then show1 v F.HIF_PTPSEC_HI_SEC_HI (s.ptpNow / 10 ^ 9 / 2 ^ 32)
  else if p = Reg.HIF_PTPNS then show1 v F.HIF_PTPNS_NS (s.ptpNow % 10 ^ 9)
  else v

/-- LGC: instances and their emulated files (R438). -/
def State.viewLgc (s : State) (p : Nat) (v : Word) : Word :=
  if p = Reg.LGC_STATUS then
    show1 (show1 v F.LGC_STATUS_RUN (bitsOf 4 (fun n => (s.i3 n).ctrl 0))) F.LGC_STATUS_LINT
      (bitsOf 4 (fun n => (s.i3 n).low))
  else match famIdx Reg.LGC_PpSTAT 4 p with
    | some n => show1 (show1 v (F.LGC_PpSTAT_RXHELD n) (s.i3 n).rx.length) (F.LGC_PpSTAT_TXQ n) (s.i3Queued n)
    | none => match famIdx Reg.LGC_PpASN 4 p with
      | some n => BitVec.ofNat 32 (s.i3 n).asn
      | none => match famIdx Reg.LGC_PpBND 4 p with
        | some n => BitVec.ofNat 32 (s.i3 n).bnd
        | none =>
          match (List.range 4).findSome? (fun n => (famIdx (Reg.LGC_PpEMUa n) 128 p).map (fun a => (n, a))) with
          | some (n, a) => BitVec.ofNat 32 (s.emuRead n a % 256)
          | none => v

/-- The word that a read of the register at primary address `p` finds, before what hides or is write-only. -/
def State.view (s : State) (p : Nat) : Word :=
  let v := s.reg p
  match unitOf p with
  | 1 => s.viewEvt p v
  | 2 => s.viewGtb p v
  | 3 => s.viewRfp p v
  | 4 => s.viewDmx p v
  | 5 => s.viewSic p v
  | 6 => s.viewCdc p v
  | 7 => s.viewMsq p v
  | 8 => s.viewBgt p v
  | 9 => s.viewSlv p v
  | 10 => s.viewQmg p v
  | 11 => s.viewFwd p v
  | 12 => s.viewKvt p v
  | 14 => s.viewUpd p v
  | 15 => s.viewCsc p v
  | 16 => s.viewPwr p v
  | 17 => s.viewSup p v
  | 19 => s.viewHif p v
  | 22 => s.viewLgc p v
  | _ => v

end Sys2Proof.Machine
end

