-- ==== Sys2Proof/Machine/Bus.lean ====
section
/-! DEFINITION. Register accesses as an initiator makes them (R40 to R58, R482): reads, writes of any width through every view
with all that they start, snapshots and the SMBus commands. -/

namespace Sys2Proof.Machine

/-! ### Locations -/

/-- The registers of `captured`. -/
def capturedRegs : List Nat :=
  [Reg.QMG_HELD_LO, Reg.QMG_HELD_HI, Reg.QMG_FREE, Reg.QMG_TOTAL] ++ (List.range 8).map Reg.QMG_USEDk
  ++ (List.range 4).map Reg.CSC_PnCREDOUT ++ (List.range 16).map Reg.BGT_SBkUSED

/-- The cause that a full-width access of address `a` is recorded with, if any (R52): `w` is the word of a write. -/
def State.accCause (s : State) (rq : Req) (a : Nat) (w : Option Word) : Option AccCause :=
  if a % 4 ≠ 0 then some .unaligned
  else if Nat.ble 24 (unitOf a) then none
  else match s.barred rq a w with
    | some c => some c
    | none =>
      match w, regDesc (primOf a) with
      | none, _ => none
      | some _, none => none
      | some v, some d =>
        if reservedLoc a then none
        else if viewOf a = 4 || !d.writable then some .readonly
        else if viewOf a ≠ 0 then none
        else if !s.canWL rq && ((v ^^^ s.reg a) &&& d.mask [.wl]) != 0 then some .locked
        else if d.has .pw && s.on F.RFP_STATUS_BUSY then some .busy
        else none

/-! ### Full-width writes and what they start -/

/-- A full-width aligned write at any BAR0 address, as far as the register file goes (R41 to R47). -/
def State.writeWord (s : State) (rq : Req) (a : Nat) (v : Word) : State :=
  if Nat.ble 24 (unitOf a) then s
  else match s.barred rq a (some v) with
    | some c => s.recordFault rq c true a 15
    | none =>
      if reservedLoc a then s
      else if viewOf a = 4 then s.recordFault rq .readonly true a 15
      else if viewOf a = 0 then s.applyWrite rq a v
      else s.applyAlias rq a v

/-- The state that an outcome answers; the outcome of a command of this model is always a next state. -/
def State.after (s : State) : Host.Outcome State Fault Refusal → State
  | .next t => t
  | _ => s

/-- The moment of the last command that carried one. -/
def State.now (s : State) : Time := { gt := s.gtb.gt, ft := s.gtb.ft }

/-- Every processor that runs has reported healthy, and SUP (R355, source 241). -/
def State.healthy (s : State) : Bool :=
  s.on F.UPD_HEALTH_SUP && (List.range 4).all (fun p => !bit (s.fld F.PRC_STATUS_RUN) p || bit (s.fld F.UPD_HEALTH_PRC) p)

/-- Evaluate the watermark of every queue (a class limit or the pool watermark was written). -/
def State.wmAll (s : State) : State := (s.qmg.queues.keys.foldl (fun (t : State) q => t.wmEval q) s).qmgSettle

/-- What follows a write of a plain register in QMG, FWD, UPD and CSC: `old` is the state before it. A policer is full when EN goes to 1,
and keeps its tokens, up to the new burst, while EN stays 1 (R285). -/
def State.afterNet (s old : State) (p : Nat) : State :=
  if (famIdx Reg.QMG_CLSc_A 7 p).isSome || ((famIdx Reg.QMG_CLSc_B 7 p).isSome || p == Reg.QMG_POOLWM) then s.wmAll
  else if p = Reg.UPD_HEALTH then s.fireIf (s.healthy && !old.healthy) 241
  else match famIdx Reg.FWD_POLk_B 8 p with
    | some k =>
      let n := if old.on (F.FWD_POLk_B_EN k) then old.polTokens k else s.polFull k
      { s with fwd := { s.fwd with tokens := if s.polFull k ≤ n then s.fwd.tokens.del k else s.fwd.tokens.put k n } }
    | none => match famIdx Reg.CSC_PnCFG 4 p with
      | some n => if s.domReady 19 && (s.on (F.CSC_PnCFG_LOOP n) != old.on (F.CSC_PnCFG_LOOP n)) then s.portEnable n else s
      | none => s

/-- What follows a write of a plain register elsewhere: a record's OVF goes with its VALID (R402, R432); the PTP clock goes on from where
it stands (R478), and so does a slew whose limit changes (R80); a MACsec key starts its packet numbers afresh. -/
def State.afterWrite (s old : State) (p : Nat) : State :=
  if p = Reg.SUP_CFG ∨ p = Reg.SUP_AUDIT then s.drive
  else if p = Reg.SUP_ACCREC then (if s.on F.SUP_ACCREC_VALID then s else s.setFlag F.SUP_ACCREC_OVF false)
  else if p = Reg.MEM_ECCREC then (if s.on F.MEM_ECCREC_VALID then s else s.setFlag F.MEM_ECCREC_OVF false)
  else if p = Reg.GTB_SLEW then (if s.gtbState = 3 then s.slewTo old.slewLeft else s)
  else if p = Reg.HIF_PTPADJ then { s with hif := { s.hif with ptp := old.ptpNow, ptpFt := old.gtb.ft } }
  else match (List.range 2).findSome? (fun n => (famIdx (Reg.HIF_PnSAa n) 4 p).map (fun a => 4 * n + a)) with
    | some k => { s with hif := { s.hif with pn := s.hif.pn.del k, rxPn := s.hif.rxPn.del k } }
    | none => s.afterNet old p

/-- A write of a register that starts nothing. -/
def State.plainWrite (s : State) (rq : Req) (a : Nat) (v : Word) : State :=
  let t := s.writeWord rq a v
  if t.reg (primOf a) = s.reg (primOf a) then t else t.afterWrite s (primOf a)

/-- A write of UNIT_COMMIT (R50). -/
def State.commitWrite (s : State) (rq : Req) (u : Nat) (v : Word) : State :=
  let n := v.toNat % 256
  if v.getLsbD 9 then s.after (execCommitAbort rq u n (v.getLsbD 8) s)
  else if v.getLsbD 8 then s.after (execCommitGo rq u n s)
  else s.plainWrite rq (commitReg u) v

/-- A write of GTB_PLSn through a view: writing ARM as 1 starts the generator (R93), as 0 stops it. -/
def State.pulseWrite (s : State) (rq : Req) (n view : Nat) (v : Word) : State :=
  match writesArm view v (s.on (F.GTB_PLSn_ARM n)) with
  | some true => s.after (execPulseArm s.now rq n view v s)
  | some false =>
    let t := s.plainWrite rq (Reg.GTB_PLSn n + 0x10000 * view) v
    if t.on (F.GTB_PLSn_ARM n) then t else t.setPulse n { (t.gtb.pulses.getD n {}) with next := none }
  | none => s.plainWrite rq (Reg.GTB_PLSn n + 0x10000 * view) v

/-- Writes of GTB's registers at the primary address. -/
def State.writeGtb (s : State) (rq : Req) (p : Nat) (v : Word) : State :=
  if p = Reg.GTB_UTCCFG ∧ F.GTB_UTCCFG_LOAD.ext v = 1 then s.after (execUtcLoad rq v s)
  else match famIdx Reg.GTB_CMPn 8 p with
    | some n => s.cmpWrite rq n 0 v
    | none => match famIdx Reg.GTB_PLSn 8 p with
      | some n => s.pulseWrite rq n 0 v
      | none => s.plainWrite rq p v

/-- Writes of CHIP's registers: snapshot, reset, retraining; `snap` takes the snapshot. -/
def State.writeChip (s : State) (rq : Req) (p : Nat) (v : Word) (snap : State → State) : State :=
  if p = Reg.CHIP_SNAP ∧ v.getLsbD 0 = true then snap s
  else if p = Reg.CHIP_RESET then s.after (execSoftwareReset rq (v.toNat % 65536) s)
  else if p = Reg.CHIP_STARTCMD ∧ v.getLsbD 0 = true then s.after (execRetrain rq s)
  else s.plainWrite rq p v

/-- Writes of PWR's registers at the primary address. -/
def State.writePwr (s : State) (rq : Req) (p : Nat) (v : Word) : State :=
  if p = Reg.PWR_DOMREQ0 then s.after (execPwrDomreqWrite s.now rq false v s)
  else if p = Reg.PWR_DOMREQ1 then s.after (execPwrDomreqWrite s.now rq true v s)
  else if p = Reg.PWR_MODECMD ∧ F.PWR_MODECMD_MODE.ext v = 1 then
    s.modeCmd rq (F.PWR_MODECMD_KEY.ext v) .deepret
  else if p = Reg.PWR_MODECMD ∧ F.PWR_MODECMD_MODE.ext v = 2 then
    s.modeCmd rq (F.PWR_MODECMD_KEY.ext v) .aononly
  else if p = Reg.PWR_CLKSEL ∧ F.PWR_CLKSEL_REQ.ext v = 1 then s.clkselReq rq v
  else s.plainWrite rq p v

/-- A write of MSQ_NBCMD (R184). -/
def State.nbWrite (s : State) (rq : Req) (v : Word) : State :=
  let r := F.MSQ_NBCMD_SLOT.ext v
  match F.MSQ_NBCMD_OP.ext v with
  | 0 => s.after (execNbcmdRead rq r s)
  | 1 => s.after (execNbcmdWrite rq r s)
  | 2 => s.after (execNbcmdFree rq r s)
  | _ => s.gated rq Reg.MSQ_NBCMD v (fun t => t.nbDone 3)

/-- A write of QMG_QCMD (R256). -/
def State.qcmdWrite (s : State) (rq : Req) (v : Word) : State :=
  let q := F.QMG_QCMD_Q.ext v
  match F.QMG_QCMD_OP.ext v with
  | 0 => s.after (execQcmdRead rq q s)
  | 1 => s.after (execQcmdWrite rq q s)
  | 2 => s.after (execQcmdFlush rq q s)
  | 3 => s.after (execQcmdDroprest rq q s)
  | 4 => s.after (execQcmdClass rq q s)
  | op => s.qcmd rq q op (fun t => t.qcmdDone 3)

/-- A write of QMG_PKTCMD (R259). What an ALLOC's initiator then writes into the cells is a free value here. -/
def State.pktWrite (s : State) (rq : Req) (v : Word) : State :=
  let c := F.QMG_PKTCMD_CELL.ext v
  match F.QMG_PKTCMD_OP.ext v with
  | 0 => s.after (execPktDeliver rq false c s)
  | 1 => s.after (execPktDrop rq false c (F.QMG_PKTCMD_REASON.ext v) s)
  | 2 => s.after (execPktForward rq false c (s.fld F.QMG_PKTARG_Q) s)
  | _ =>
    let n := s.fld F.QMG_PKTARG_CELLS
    s.after (execPktAlloc rq false n (leOctets (256 * n) s.fresh) s.nextFree)

/-- Writes of QMG's registers at the primary address. -/
def State.writeQmg (s : State) (rq : Req) (p : Nat) (v : Word) : State :=
  if p = Reg.QMG_QCMD then s.qcmdWrite rq v
  else if p = Reg.QMG_PKTCMD then s.pktWrite rq v
  else match famIdx Reg.QMG_SWQnIN 8 p with
    | some n => s.after (execSwqPush rq n (F.QMG_SWQnIN_CELL n |>.ext v) none s)
    | none => match famIdx Reg.QMG_SWQnCMD 8 p with
      | some n => if v.getLsbD 0 then s.after (execSwqPop rq n s) else s.plainWrite rq p v
      | none => s.plainWrite rq p v

/-- A write of FWD_CMD (R287, R288). -/
def State.fwdCmdWrite (s : State) (rq : Req) (v : Word) : State :=
  let op := F.FWD_CMD_OP.ext v
  let tbl := F.FWD_CMD_TBL.ext v
  let tag := F.FWD_CMD_TAG.ext v
  if op ≤ 6 then s.fwdWrite rq op tbl tag else s.fwdReserved rq op tbl tag

/-- A write of UPD_CMD (R348): an OP that is no command ends BADARG. -/
def State.updWrite (s : State) (rq : Req) (v : Word) : State :=
  let tag := F.UPD_CMD_TAG.ext v
  match F.UPD_CMD_OP.ext v with
  | 1 => s.after (execUpdLoad rq tag s)
  | 2 => s.after (execUpdVerify (.write rq) tag s)
  | 3 => s.after (execUpdWrite rq tag s)
  | 4 => s.after (execUpdActivate rq tag s)
  | 5 => s.after (execUpdRollback (.written rq tag) 0 s)
  | 6 => s.after (execUpdAbort rq tag s)
  | op => s.updCmd rq op tag id

/-- A write of CSC_CMD (R381, R384): OP 0 ends BADARG. -/
def State.cscCmdWrite (s : State) (rq : Req) (v : Word) : State :=
  let a := F.CSC_CMD_ADDR.ext v
  let tag := F.CSC_CMD_TAG.ext v
  match F.CSC_CMD_OP.ext v with
  | 1 => s.after (execCscHandback rq a tag s)
  | 2 => s.after (execCscEcho rq a tag s)
  | 3 => s.after (execCscFloodLsa rq a tag s)
  | op => s.cscCmd rq op a tag (fun t => t.cscDone tag 4 0)

/-- Writes of CFG's registers (R33, R36). -/
def State.writeCfg (s : State) (rq : Req) (p : Nat) (v : Word) : State :=
  if p = Reg.CFG_CMD ∧ F.CFG_CMD_RELOAD.ext v = 1 then s.after (execCfgReload s.now rq s)
  else if p = Reg.CFG_CMD ∧ F.CFG_CMD_CHECK.ext v = 1 then s.after (execCfgCheck rq (F.CFG_CMD_CHECK_COPY.ext v) s)
  else s.plainWrite rq p v

/-- A write of HIF_XCMD (R481). -/
def State.xspiWrite (s : State) (rq : Req) (v : Word) : State :=
  match F.HIF_XCMD_OP.ext v with
  | 0 => s.after (execXspiRead rq s)
  | 1 => s.after (execXspiErase rq s)
  | 2 => s.after (execXspiProgram rq s)
  | _ => s.plainWrite rq Reg.HIF_XCMD v

/-- Writes of HIF's registers at the primary address. -/
def State.writeHif (s : State) (rq : Req) (p : Nat) (v : Word) : State :=
  if p = Reg.HIF_XCMD then s.xspiWrite rq v
  else if p = Reg.HIF_PTPSTEP then s.after (execPtpStep s.now rq v s)
  else if p = Reg.HIF_TSPOP then s.after (execHifTspop rq v s)
  else match famIdx Reg.HIF_RXRINGr_TAIL 16 p with
    | some r => s.after (execRxringTailWrite rq r v s)
    | none => match famIdx Reg.HIF_TXRINGr_TAIL 16 p with
      | some r => s.after (execTxringTailWrite rq r v s)
      | none => match famIdx Reg.HIF_NHk_B 1024 p with
        | some k => s.after (execNexthopApply rq k v s)
        | none => s.plainWrite rq p v

/-- FIFO pops and other one-bit commands: what a write of 1 at `p` does, where `p` is one of them. -/
def State.oneBit (s : State) (rq : Req) (p : Nat) : Option State :=
  if p = Reg.DMX_QPOP then some (s.after (execMirrorPop rq s))
  else if p = Reg.SIC_RQPOP then some (s.after (execSicRqpop rq s))
  else if p = Reg.SLV_RQPOP then some (s.after (execSlvRqpop rq s))
  else if p = Reg.SLV_SHQPOP then some (s.after (execSlvShqpop rq s))
  else if p = Reg.FWD_PERPOP then some (s.after (execFwdPerpop rq s))
  else if p = Reg.SUP_LOGPOP then some (s.after (execSupLogpop rq s))
  else if p = Reg.CRY_RESEED then some (s.after (execCryReseed rq s))
  else if p = Reg.PRC_RPLCMD then some (s.after (execRplRepair rq s))
  else none

/-- A full-width write at the primary address of a register, with whatever it starts. -/
def State.primWrite (s : State) (rq : Req) (p : Nat) (v : Word) (snap : State → State) : State :=
  if p % 0x10000 = 0xFFF0 ∧ (regDesc p).isSome = true then s.commitWrite rq (unitOf p) v
  else match (if v.getLsbD 0 then s.oneBit rq p else none) with
    | some t => t
    | none =>
      match unitOf p with
      | 0 => s.writeChip rq p v snap
      | 1 => if p = Reg.EVT_REARM then s.after (execEvtRearm rq (v.toNat % 65536) s) else s.plainWrite rq p v
      | 2 => s.writeGtb rq p v
      | 3 => if p = Reg.RFP_PXCMD then s.after (execProxyCmd rq v s) else s.plainWrite rq p v
      | 7 => if p = Reg.MSQ_NBCMD then s.nbWrite rq v else s.plainWrite rq p v
      | 9 => if p = Reg.SLV_CMD then s.slvWrite rq (F.SLV_CMD_OP.ext v) (F.SLV_CMD_NODE.ext v) (F.SLV_CMD_TAG.ext v)
             else s.plainWrite rq p v
      | 10 => s.writeQmg rq p v
      | 11 => if p = Reg.FWD_CMD then s.fwdCmdWrite rq v else s.plainWrite rq p v
      | 12 => if p = Reg.KVT_CMD then s.kvtCmd rq false (F.KVT_CMD_OP.ext v) (F.KVT_CMD_SLOT.ext v) (F.KVT_CMD_TAG.ext v) 0
              else s.plainWrite rq p v
      | 14 => if p = Reg.UPD_CMD then s.updWrite rq v else s.plainWrite rq p v
      | 15 => if p = Reg.CSC_CMD then s.cscCmdWrite rq v else s.plainWrite rq p v
      | 16 => s.writePwr rq p v
      | 17 => if p = Reg.SUP_WDOG then s.after (execSupWdogKick s.now rq v s) else s.plainWrite rq p v
      | 19 => s.writeHif rq p v
      | 20 => if p = Reg.TST_CMD then s.after (execTstStart s.now rq v s) else s.plainWrite rq p v
      | 21 => s.writeCfg rq p v
      | _ => s.plainWrite rq p v

/-- A write through an alias (R44), with what it starts: GTB_CMPn, GTB_PLSn, PWR_DOMREQ, ring tails and HIF_NHk_B act on it. -/
def State.aliasWrite (s : State) (rq : Req) (a : Nat) (v : Word) : State :=
  let p := primOf a
  let view := viewOf a
  match famIdx Reg.GTB_CMPn 8 p, famIdx Reg.GTB_PLSn 8 p with
  | some n, _ => s.cmpWrite rq n view v
  | none, some n => s.pulseWrite rq n view v
  | none, none =>
    if p = Reg.PWR_DOMREQ0 ∨ p = Reg.PWR_DOMREQ1 then
      match s.barred rq a (some v) with
      | some c => s.recordFault rq c true a 15
      | none => s.after (execPwrDomreqWrite s.now rq (p == Reg.PWR_DOMREQ1) (viewWord view (s.reg p) v) s)
    else match famIdx Reg.HIF_RXRINGr_TAIL 16 p, famIdx Reg.HIF_TXRINGr_TAIL 16 p, famIdx Reg.HIF_NHk_B 1024 p with
      | some r, _, _ => s.tailWrite rq false r view v
      | none, some r, _ => s.tailWrite rq true r view v
      | none, none, some k => s.nhWrite rq k view v
      | none, none, none => s.plainWrite rq a v

/-! ### Snapshots (R58) -/

/-- The counters that a snapshot captures from the register file: those listed, of domains that are on (R58). -/
def State.captureCtrs (s : State) : Tab Nat :=
  (s.regs.only (fun a _ => match regDesc a with
    | some d => (d.cnt == 1 || d.cnt == 2) && s.domReady d.dom
    | none => false)).foldl (fun t e => match regDesc e.1 with
      | some d => if d.cnt = 2 then t.put (e.1 - 4) (s.ctr (e.1 - 4)) else t.put e.1 (s.ctr e.1)
      | none => t) []

/-- Everything a snapshot captures: counters, and the registers of R261 and R434 whose domain is on. -/
def State.capture (s : State) : Tab Nat :=
  (capturedRegs.filter (fun p => s.domReady (domOf p))).foldl (fun (t : Tab Nat) p => t.putD 0 p (s.view p).toNat)
    s.captureCtrs

/-- What CHIP_SNAP.GO does (R58): every counter goes to the holding view, GT is latched, the domains not on are named. -/
def State.snap (t : State) (gt : Nat) : State :=
  let t1 := { t with holding := t.capture }
  let t2 := t1.setReg Reg.CHIP_SNAPGT_LO (BitVec.ofNat 32 gt)
  let t3 := t2.setReg Reg.CHIP_SNAPGT_HI (BitVec.ofNat 32 (gt / 2 ^ 32))
  let t4 := t3.setReg Reg.CHIP_SNAPSEQ (t3.reg Reg.CHIP_SNAPSEQ + 1)
  t4.setFld F.CHIP_SNAPMASK_NOTCAP (bitsOf 21 (fun d => !t.domReady d))

/-- SNAPSHOT (R58). -/
def execSnapshot (rq : Req) (gt : Nat) (s : State) : Host.Outcome State Fault Refusal :=
  .next (s.gated rq Reg.CHIP_SNAP 1 (fun t => t.snap gt))

/-! ### Accesses of any width -/

/-- A full-width aligned write at any BAR0 address, with whatever it starts; one of FWD_CMDARG sets the cursor anew (R292). -/
def State.busWrite (s0 : State) (rq : Req) (a : Nat) (v : Word) : State :=
  let s := if primOf a = Reg.FWD_CMDARG ∧ viewOf a ≤ 3 ∧ s0.barred rq a (some v) = none
    then { s0 with fwd := { s0.fwd with walkPast := false } } else s0
  if Nat.ble 24 (unitOf a) then s
  else if viewOf a = 0 then s.primWrite rq a v (fun t => t.after (execSnapshot rq t.gtb.gt t))
  else if viewOf a ≤ 3 then s.aliasWrite rq a v
  else s.writeWord rq a v

/-- The words of a split access in ascending order (R51). -/
def State.busWrites (s : State) (rq : Req) (a : Nat) : List Word → State
  | [] => s
  | v :: t => (s.busWrite rq a v).busWrites rq (a + 4) t

/-- The octets of the first word that an access of `n` octets at `a` addresses, as BYTEEN has them (R55). -/
def byteEn (a n : Nat) : Nat :=
  (List.range 4).foldl (fun m k => if Nat.ble (a % 4) k && Nat.blt k (a % 4 + n) then m + 2 ^ k else m) 0

/-- A write of any width and alignment (R51, R52). -/
def State.writeAny (s : State) (rq : Req) (a : Nat) (data : List Octet) : State :=
  let n := data.length
  if n = 0 then s
  else if a % 4 = 0 ∧ n % 4 = 0 then s.busWrites rq a (packWords (n / 4) data)
  else if a % 4 + n ≤ 4 then
    if Nat.ble 24 (unitOf a) then s
    else match s.barred rq a (some (BitVec.ofNat 32 (256 ^ (a % 4) * leNat data))) with
      | some c => s.recordFault rq c true a (byteEn a n)
      | none => if reservedLoc (a - a % 4) then s else s.recordFault rq .narrow true a (byteEn a n)
  else s.recordFault rq .unaligned true a (byteEn a n)

/-- The value a full-width read returns (R43, R44, R58), where nothing bars it. -/
def State.readVal (s : State) (rq : Req) (a : Nat) : Word :=
  let p := primOf a
  if reservedLoc a then 0
  else match regDesc p with
    | none => 0
    | some d =>
      if viewOf a = 4 then
        (if d.cnt = 2 then BitVec.ofNat 32 (s.holding.getD' (p - 4) 0 / 2 ^ 32) else BitVec.ofNat 32 (s.holding.getD' p 0))
      else (s.view p &&& ~~~(woMask d)) &&& ~~~(s.hidden rq p)

/-- A full-width aligned read at any BAR0 address: the word and the state after it. A read of an RC register at its primary address
clears its RC fields (R48); GTB_LEGSTAMP presents the next stamp (R94), and CRY_RNG draws new bits (R322). -/
def State.readWord (s : State) (rq : Req) (a : Nat) : Word × State :=
  if Nat.ble 24 (unitOf a) then (0, s)
  else match s.barred rq a none with
    | some c => (0, s.recordFault rq c false a 15)
    | none =>
      let v := s.readVal rq a
      if a = Reg.GTB_LEGSTAMP then (v, s.after (execLegstampRead rq s))
      else if a = Reg.CRY_RNG ∧ s.on F.CRY_STATUS_DRBGOK = true then (BitVec.ofNat 32 s.fresh, s.after (execCryRngRead rq s))
      else match regDesc (primOf a) with
        | some d => if viewOf a = 0 ∧ d.has .rc = true then (v, s.setReg a (s.reg a &&& ~~~(d.mask [.rc]))) else (v, s)
        | none => (v, s)

/-! ### The commands -/

/-- REG_WRITE (R43, R51, R52): a write of any width at any BAR0 address. -/
def execRegWrite (rq : Req) (addr : Nat) (data : List Octet) (s : State) : Host.Outcome State Fault Refusal :=
  let t := s.writeAny rq addr data
  .next (t.respond [] (t.evt.captures == s.evt.captures && t.ctr Ctr.EVT_ACCCNT == s.ctr Ctr.EVT_ACCCNT
    && t.ctr Ctr.SUP_ACCCNT == s.ctr Ctr.SUP_ACCCNT))

/-- SET_ALIAS_WRITE (R44): `addr` is the primary address. -/
def execSetAliasWrite (rq : Req) (addr : Nat) (v : Word) (s : State) : Host.Outcome State Fault Refusal :=
  .next (s.busWrite rq (primOf addr + 0x10000) v)

/-- CLEAR_ALIAS_WRITE (R44): `addr` is the primary address. -/
def execClearAliasWrite (rq : Req) (addr : Nat) (v : Word) (s : State) : Host.Outcome State Fault Refusal :=
  .next (s.busWrite rq (primOf addr + 0x20000) v)

/-- TOGGLE_ALIAS_WRITE (R44): `addr` is the primary address. -/
def execToggleAliasWrite (rq : Req) (addr : Nat) (v : Word) (s : State) : Host.Outcome State Fault Refusal :=
  .next (s.busWrite rq (primOf addr + 0x30000) v)

/-- The octets of `n` words from `a` in ascending order, whether none of the accesses was recorded, and the state after them (R51). -/
def State.readWords (rq : Req) : Nat → Nat → State → (List Octet × Bool) × State
  | 0, _, s => (([], true), s)
  | n + 1, a, s =>
    let r := s.readWord rq a
    let t := State.readWords rq n (a + 4) r.2
    ((leOctets 4 r.1.toNat ++ t.1.1, (s.accCause rq a none).isNone && t.1.2), t.2)

/-- A read of `n` octets at `a` (R48, R51, R52): full-width words, octets inside one word without side effect, or UNALIGNED. -/
def State.readAny (s : State) (rq : Req) (a n : Nat) : (List Octet × Bool) × State :=
  if n = 0 then (([], true), s)
  else if a % 4 = 0 ∧ n % 4 = 0 then State.readWords rq (n / 4) a s
  else if a % 4 + n ≤ 4 then
    let w := a - a % 4
    if Nat.ble 24 (unitOf a) then ((List.replicate n 0, true), s)
    else match s.barred rq a none with
      | some c => ((List.replicate n 0, false), s.recordFault rq c false a (byteEn a n))
      | none => ((slice (leOctets 4 (s.readVal rq w).toNat) (a % 4) n, true), s)
  else (([], false), s.recordFault rq .unaligned false a (byteEn a n))

/-- RC_READ (R48, R51): a read of `n` octets; a full-width read of an RC register returns the record and clears it. Reads of other
registers and of other widths come by this row too: the table has no row of their own (log entry 1). -/
def execRcRead (rq : Req) (addr n : Nat) (s : State) : Host.Outcome State Fault Refusal :=
  let r := s.readAny rq addr n
  .next (r.2.respond r.1.1 r.1.2)

/-- PW_LAND (R49): the posted value has landed in the slow domain; the unit's BUSY clears. RFP holds the only PW fields, and a
transaction that goes out keeps BUSY set until it ends (R102). -/
def execPwLand (unit : Nat) (s : State) : Host.Outcome State Fault Refusal :=
  .next (match s.rfp.proxy with
    | none => if unit = 3 then (s.setFlag F.RFP_STATUS_BUSY false).convDrain else s
    | some px => if unit = 3 ∧ px.sent = false then (s.proxyLand px).convDrain else s)

/-! ### SMBus (R482) -/

/-- The SMBus target as an initiator. -/
def smbReq : Req := { init := .smbus, prcSecure := false }

/-- A transaction goes on: its packet error check is right, or it has none and none is required. -/
def State.smbOk (s : State) (pec : Option Bool) : Bool :=
  match pec with
  | some b => b
  | none => !s.on F.HIF_SMBCFG_PECREQ

/-- The set address moves on. -/
def State.smbNext (s : State) : State := { s with hif := { s.hif with smbAddr := (s.hif.smbAddr + 4) % 2 ^ 32 } }

/-- The status octet: 0, or 1 + CAUSE. -/
def smbStatus : Option AccCause → Octet
  | none => 0
  | some c => BitVec.ofNat 8 (1 + c.code)

/-- SMB_SETADDR (R482). -/
def execSmbSetaddr (pec : Option Bool) (addr : Nat) (s : State) : Host.Outcome State Fault Refusal :=
  .next (if s.smbOk pec then
      ({ s with hif := { s.hif with smbAddr := addr % 2 ^ 32 } }).respond [] true
    else (s.fire 226).respond [] false)

/-- SMB_WRITE32 (R482): a full-width write at the set address, which then advances by 4. -/
def execSmbWrite32 (pec : Option Bool) (v : Word) (s : State) : Host.Outcome State Fault Refusal :=
  .next (if s.smbOk pec then
      let a := s.hif.smbAddr
      let c := s.accCause smbReq a (some v)
      (s.writeAny smbReq a (leOctets 4 v.toNat)).smbNext.respond [smbStatus c] c.isNone
    else (s.fire 226).respond [] false)

/-- SMB_READ32 (R482): the word at the set address and the status octet; the address advances by 4. -/
def execSmbRead32 (pec : Option Bool) (s : State) : Host.Outcome State Fault Refusal :=
  .next (if s.smbOk pec then
      let a := s.hif.smbAddr
      let c := s.accCause smbReq a none
      let r := if a % 4 = 0 then s.readWord smbReq a else (0, s.recordFault smbReq .unaligned false a (byteEn a 4))
      r.2.smbNext.respond (leOctets 4 r.1.toNat ++ [smbStatus c]) c.isNone
    else (s.fire 226).respond [] false)

end Sys2Proof.Machine
end

