-- ==== Sys2Proof/Machine/Apply.lean ====
section
/-! DEFINITION. Pass 3 of a configuration load (R34): register pairs are written as any initiator writes them, with all that a
write starts; EN = 1 takes a link out of OFF (R99). -/

namespace Sys2Proof.Machine

/-- A register pair of the image (R26, R27, R34, R43): a raw register write by CFG. -/
def State.applyPair (s : State) (t : Time) (p : Nat × Nat × Word) : State :=
  if p.2.1 = Reg.PWR_DOMREQ0 then s.domReqWrite t false p.2.2
  else if p.2.1 = Reg.PWR_DOMREQ1 then s.domReqWrite t true p.2.2
  else if p.2.1 = Reg.RFP_PXCMD then s.proxyQueue p.2.2 false
  else
    let u := s.primWrite cfgReq p.2.1 p.2.2 (fun x => x)
    let w := { u with evt := { u.evt with resp := s.evt.resp } }
    match famIdx Reg.RFPn_LINK 4 p.2.1 with
    | some n => w.linkStart n
    | none => w

/-- The load gives STATPER and the nominal frequency, so that the running windows are numbered from it (R136, R157). -/
def State.startWindows (s : State) : State :=
  { s with dmx := { s.dmx with win := s.statWindow, winFt := s.gtb.ft }, gtb := { s.gtb with second := s.secondNow } }

/-- CFG_APPLY (R34): the PWR records first, which power the domains and start the training of DRAM; then, once every domain they
ask for is on and CORE_CLK runs, the other records, the commit, the lock, and the data records marked "Before SL1". -/
def execCfgApply (t : Time) (s : State) : Host.Outcome State Fault Refusal :=
  let s0 := s.at t
  .next (if s0.fld F.CFG_STATUS_STATE ≠ 3 then s0
  else
    let rs := s0.loadedRecs
    let ps := imgPairs rs
    if !s0.cfg.pwrDone then
      let s1 := (ps.filter (fun p => unitOf p.2.1 == 16)).foldl (fun (u : State) p => u.applyPair t p) s0
      ({ s1 with cfg := { s1.cfg with pwrDone := true } }).trainStart
    else if !s0.pwr.pll || (List.range 21).any (fun d => s0.domReq d == 1 && !s0.domReady d) then s0
    else
      let s1 := (ps.filter (fun p => unitOf p.2.1 != 16)).foldl (fun (u : State) p => u.applyPair t p) s0
      let s2 := (s1.commitAll.lockImage.startWindows).setFld F.CFG_STATUS_STATE 4
      (rs.foldl (fun (u : State) (r : ImgRec) => u.applyEarly r) s2).qmgSettle.drive)

end Sys2Proof.Machine
end

