-- ==== Sys2Proof/Machine/Dispatch.lean ====
section
/-! DEFINITION. One arm per command: the effect of each on everything but the queue. -/

namespace Sys2Proof.Machine

/-- The effect of a command on the state, its queue aside. -/
def exec (i : Instr) (s : State) : Host.Outcome State Fault Refusal :=
  match i with
  | .deviceStart t => Sys2Proof.Machine.execDeviceStart t s
  | .powerOnReset => Sys2Proof.Machine.execPowerOnReset s
  | .pinReset => Sys2Proof.Machine.execPinReset s
  | .coreSupplyReset m => Sys2Proof.Machine.execCoreSupplyReset m s
  | .ioSupplyReset m => Sys2Proof.Machine.execIoSupplyReset m s
  | .softwareReset rq key => Sys2Proof.Machine.execSoftwareReset rq key s
  | .pllLock => Sys2Proof.Machine.execPllLock s
  | .pllLockTimeout => Sys2Proof.Machine.execPllLockTimeout s
  | .perstRise => Sys2Proof.Machine.execPerstRise s
  | .cfgCheckCopy t => Sys2Proof.Machine.execCfgCheckCopy t s
  | .cfgSealgenResume t => Sys2Proof.Machine.execCfgSealgenResume t s
  | .cfgApply t => Sys2Proof.Machine.execCfgApply t s
  | .cfgDramRecords t => Sys2Proof.Machine.execCfgDramRecords t s
  | .cfgOtherCopyCheck => Sys2Proof.Machine.execCfgOtherCopyCheck s
  | .cfgReload t rq => Sys2Proof.Machine.execCfgReload t rq s
  | .cfgCheck rq copy => Sys2Proof.Machine.execCfgCheck rq copy s
  | .firmwareBankRead t => Sys2Proof.Machine.execFirmwareBankRead t s
  | .clkselReq rq => Sys2Proof.Machine.execClkselReq rq s
  | .clockSwitch => Sys2Proof.Machine.execClockSwitch s
  | .memTrainingComplete t => Sys2Proof.Machine.execMemTrainingComplete t s
  | .memTrainingFail t ch0 ch1 => Sys2Proof.Machine.execMemTrainingFail t ch0 ch1 s
  | .retrain rq => Sys2Proof.Machine.execRetrain rq s
  | .qmgDramPoolAdd => Sys2Proof.Machine.execQmgDramPoolAdd s
  | .enterSl1 t => Sys2Proof.Machine.execEnterSl1 t s
  | .enterSl2 t => Sys2Proof.Machine.execEnterSl2 t s
  | .fwdBootmodeExit => Sys2Proof.Machine.execFwdBootmodeExit s
  | .regWrite rq addr data => Sys2Proof.Machine.execRegWrite rq addr data s
  | .setAliasWrite rq addr v => Sys2Proof.Machine.execSetAliasWrite rq addr v s
  | .clearAliasWrite rq addr v => Sys2Proof.Machine.execClearAliasWrite rq addr v s
  | .toggleAliasWrite rq addr v => Sys2Proof.Machine.execToggleAliasWrite rq addr v s
  | .rcRead rq addr n => Sys2Proof.Machine.execRcRead rq addr n s
  | .pwLand unit => Sys2Proof.Machine.execPwLand unit s
  | .regAccessTimeout rq addr write byteen gt => Sys2Proof.Machine.execRegAccessTimeout rq addr write byteen gt s
  | .commitGo rq unit groups => Sys2Proof.Machine.execCommitGo rq unit groups s
  | .commitAbort rq unit groups go => Sys2Proof.Machine.execCommitAbort rq unit groups go s
  | .commitActivate unit groups => Sys2Proof.Machine.execCommitActivate unit groups s
  | .snapshot rq gt => Sys2Proof.Machine.execSnapshot rq gt s
  | .evtRearm rq vectors => Sys2Proof.Machine.execEvtRearm rq vectors s
  | .msixUnmask w => Sys2Proof.Machine.execMsixUnmask w s
  | .oneSecondWindow t => Sys2Proof.Machine.execOneSecondWindow t s
  | .slotBoundary t => Sys2Proof.Machine.execSlotBoundary t s
  | .mainsZcEdge t m => Sys2Proof.Machine.execMainsZcEdge t m s
  | .senseDisagree => Sys2Proof.Machine.execSenseDisagree s
  | .inputQualified t phase anchor peer freq thd amp => Sys2Proof.Machine.execInputQualified t phase anchor peer freq thd amp s
  | .inputLost t refcnt m => Sys2Proof.Machine.execInputLost t refcnt m s
  | .phaseJumpConfirmed t below2 e => Sys2Proof.Machine.execPhaseJumpConfirmed t below2 e s
  | .slewDone t => Sys2Proof.Machine.execSlewDone t s
  | .stepApply t => Sys2Proof.Machine.execStepApply t s
  | .holdoverSave t refcnt freq => Sys2Proof.Machine.execHoldoverSave t refcnt freq s
  | .ptpSecondRollover t sec => Sys2Proof.Machine.execPtpSecondRollover t sec s
  | .ppsEdge t => Sys2Proof.Machine.execPpsEdge t s
  | .utcLoad rq v => Sys2Proof.Machine.execUtcLoad rq v s
  | .utcStale => Sys2Proof.Machine.execUtcStale s
  | .cmpArm t rq n view v => Sys2Proof.Machine.execCmpArm t rq n view v s
  | .cmpDisarm rq n view v => Sys2Proof.Machine.execCmpDisarm rq n view v s
  | .cmpFire t n => Sys2Proof.Machine.execCmpFire t n s
  | .pulseArm t rq n view v => Sys2Proof.Machine.execPulseArm t rq n view v s
  | .pulseEdge t n => Sys2Proof.Machine.execPulseEdge t n s
  | .pulseWidthEnd e => Sys2Proof.Machine.execPulseWidthEnd e s
  | .legstampRead rq => Sys2Proof.Machine.execLegstampRead rq s
  | .dclkCheckWindow t n counted expected => Sys2Proof.Machine.execDclkCheckWindow t n counted expected s
  | .sysrefEdge n aligned => Sys2Proof.Machine.execSysrefEdge n aligned s
  | .linkLock t n lat period => Sys2Proof.Machine.execLinkLock t n lat period s
  | .linkLockTimeout n => Sys2Proof.Machine.execLinkLockTimeout n s
  | .linkDown t n e => Sys2Proof.Machine.execLinkDown t n e s
  | .proxyCmd rq v => Sys2Proof.Machine.execProxyCmd rq v s
  | .proxyComplete data => Sys2Proof.Machine.execProxyComplete data s
  | .historyMarker t n missed valid => Sys2Proof.Machine.execHistoryMarker t n missed valid s
  | .historyRead reader tag port start count => Sys2Proof.Machine.execHistoryRead reader tag port start count s
  | .historyReadDone t id => Sys2Proof.Machine.execHistoryReadDone t id s
  | .noiseFloorUpdate n powers clipped => Sys2Proof.Machine.execNoiseFloorUpdate n powers clipped s
  | .ccaRequest t id user n slice win thr mode => Sys2Proof.Machine.execCcaRequest t id user n slice win thr mode s
  | .ccaResult t id n powers => Sys2Proof.Machine.execCcaResult t id n powers s
  | .txReserve t user n slice start dur => Sys2Proof.Machine.execTxReserve t user n slice start dur s
  | .streamCancel t id => Sys2Proof.Machine.execStreamCancel t id s
  | .streamRelease t id => Sys2Proof.Machine.execStreamRelease t id s
  | .streamAbort t id chips => Sys2Proof.Machine.execStreamAbort t id chips s
  | .streamEnd t id sfd => Sys2Proof.Machine.execStreamEnd t id sfd s
  | .cdcHeaderDecode t l w0 w1 rise m => Sys2Proof.Machine.execCdcHeaderDecode t l w0 w1 rise m s
  | .cdcPayloadDecode t l coded rise m => Sys2Proof.Machine.execCdcPayloadDecode t l coded rise m s
  | .cdcEncode => Sys2Proof.Machine.execCdcEncode s
  | .cdcEncodeCancel id => Sys2Proof.Machine.execCdcEncodeCancel id s
  | .preambleDetect t h lh timing excess meas pref => Sys2Proof.Machine.execPreambleDetect t h lh timing excess meas pref s
  | .i3ShrDetect t h timing excess meas pref => Sys2Proof.Machine.execI3ShrDetect t h timing excess meas pref s
  | .sfdFound l stamp meas => Sys2Proof.Machine.execSfdFound l stamp meas s
  | .sfdTimeout t l => Sys2Proof.Machine.execSfdTimeout t l s
  | .lastPayloadSymbol l => Sys2Proof.Machine.execLastPayloadSymbol l s
  | .i3FrameEnd t l len psdu rise m => Sys2Proof.Machine.execI3FrameEnd t l len psdu rise m s
  | .laneFade t l n esn0 rise m => Sys2Proof.Machine.execLaneFade t l n esn0 rise m s
  | .laneBufferError t l => Sys2Proof.Machine.execLaneBufferError t l s
  | .retroEntryTaken t pref => Sys2Proof.Machine.execRetroEntryTaken t pref s
  | .retroCatchup l => Sys2Proof.Machine.execRetroCatchup l s
  | .mirrorPop rq => Sys2Proof.Machine.execMirrorPop rq s
  | .statWindowEnd t => Sys2Proof.Machine.execStatWindowEnd t s
  | .refEntryExpire t => Sys2Proof.Machine.execRefEntryExpire t s
  | .sicJobStart t => Sys2Proof.Machine.execSicJobStart t s
  | .sicJobResume t id => Sys2Proof.Machine.execSicJobResume t id s
  | .sicPassComplete id dec hidden => Sys2Proof.Machine.execSicPassComplete id dec hidden s
  | .sicRqpop rq => Sys2Proof.Machine.execSicRqpop rq s
  | .msqFrameReceive gt ft => Sys2Proof.Machine.execMsqFrameReceive gt ft s
  | .nodeAckTimeout t record => Sys2Proof.Machine.execNodeAckTimeout t record s
  | .nbcmdRead rq slot => Sys2Proof.Machine.execNbcmdRead rq slot s
  | .nbcmdWrite rq slot => Sys2Proof.Machine.execNbcmdWrite rq slot s
  | .nbcmdFree rq slot => Sys2Proof.Machine.execNbcmdFree rq slot s
  | .supervisionTimeout t record => Sys2Proof.Machine.execSupervisionTimeout t record s
  | .msqTxSelect t cell ec record => Sys2Proof.Machine.execMsqTxSelect t cell ec record s
  | .expCellEnd t cell ec => Sys2Proof.Machine.execExpCellEnd t cell ec s
  | .searchStart => Sys2Proof.Machine.execSearchStart s
  | .searchSegment t id dets => Sys2Proof.Machine.execSearchSegment t id dets s
  | .bgtCharge t id kind chips => Sys2Proof.Machine.execBgtCharge t id kind chips s
  | .bucketAdvance t => Sys2Proof.Machine.execBucketAdvance t s
  | .ccaBackoffExpire t id => Sys2Proof.Machine.execCcaBackoffExpire t id s
  | .slvSolve st node tag => Sys2Proof.Machine.execSlvSolve st node tag s
  | .solveComplete t places again far => Sys2Proof.Machine.execSolveComplete t places again far s
  | .slvJoin st node tag dur found => Sys2Proof.Machine.execSlvJoin st node tag dur found s
  | .slvLeave st node tag dur => Sys2Proof.Machine.execSlvLeave st node tag dur s
  | .slvDemand st node tag dur => Sys2Proof.Machine.execSlvDemand st node tag dur s
  | .slvLink st node tag dur => Sys2Proof.Machine.execSlvLink st node tag dur s
  | .slvReaddem st node tag dur => Sys2Proof.Machine.execSlvReaddem st node tag dur s
  | .slvReadlink st node tag dur => Sys2Proof.Machine.execSlvReadlink st node tag dur s
  | .slvAbort st node tag dur => Sys2Proof.Machine.execSlvAbort st node tag dur s
  | .solvePeriodTimer t => Sys2Proof.Machine.execSolvePeriodTimer t s
  | .slvObservation => Sys2Proof.Machine.execSlvObservation s
  | .linkRecordAge t key => Sys2Proof.Machine.execLinkRecordAge t key s
  | .cellsConfirmTimeout t node setid => Sys2Proof.Machine.execCellsConfirmTimeout t node setid s
  | .slvRqpop rq => Sys2Proof.Machine.execSlvRqpop rq s
  | .slvShqpop rq => Sys2Proof.Machine.execSlvShqpop rq s
  | .qmgAdmit k n data unit port => Sys2Proof.Machine.execQmgAdmit k n data unit port s
  | .queuePush q h cell pop => Sys2Proof.Machine.execQueuePush q h cell pop s
  | .queuePop q h => Sys2Proof.Machine.execQueuePop q h s
  | .qcmdRead rq q => Sys2Proof.Machine.execQcmdRead rq q s
  | .qcmdWrite rq q => Sys2Proof.Machine.execQcmdWrite rq q s
  | .qcmdFlush rq q => Sys2Proof.Machine.execQcmdFlush rq q s
  | .qcmdDroprest rq q => Sys2Proof.Machine.execQcmdDroprest rq q s
  | .qcmdClass rq q => Sys2Proof.Machine.execQcmdClass rq q s
  | .swqPush rq n cell pop => Sys2Proof.Machine.execSwqPush rq n cell pop s
  | .swqPop rq n => Sys2Proof.Machine.execSwqPop rq n s
  | .ageCheckTick t q => Sys2Proof.Machine.execAgeCheckTick t q s
  | .pktDeliver rq priv cell => Sys2Proof.Machine.execPktDeliver rq priv cell s
  | .pktDrop rq priv cell reason => Sys2Proof.Machine.execPktDrop rq priv cell reason s
  | .pktForward rq priv cell q => Sys2Proof.Machine.execPktForward rq priv cell q s
  | .pktAlloc rq priv n data => Sys2Proof.Machine.execPktAlloc rq priv n data s
  | .qmgAccountingError what => Sys2Proof.Machine.execQmgAccountingError what s
  | .qmgRecordScanDone q => Sys2Proof.Machine.execQmgRecordScanDone q s
  | .fwdLookup t pkt dst src dscp errs => Sys2Proof.Machine.execFwdLookup t pkt dst src dscp errs s
  | .learnEventApply t errs => Sys2Proof.Machine.execLearnEventApply t errs s
  | .sweepVisit t bucket errs => Sys2Proof.Machine.execSweepVisit t bucket errs s
  | .filterScrubVisit v both => Sys2Proof.Machine.execFilterScrubVisit v both s
  | .filterRebuildComplete => Sys2Proof.Machine.execFilterRebuildComplete s
  | .policerRefill => Sys2Proof.Machine.execPolicerRefill s
  | .fwdPerpop rq => Sys2Proof.Machine.execFwdPerpop rq s
  | .fwdCmdRead st tbl tag => Sys2Proof.Machine.execFwdCmdRead st tbl tag s
  | .fwdCmdWrite st tbl tag => Sys2Proof.Machine.execFwdCmdWrite st tbl tag s
  | .fwdCmdDelete st tbl tag => Sys2Proof.Machine.execFwdCmdDelete st tbl tag s
  | .fwdCmdLookup st tbl tag => Sys2Proof.Machine.execFwdCmdLookup st tbl tag s
  | .fwdCmdUnpin st tbl tag => Sys2Proof.Machine.execFwdCmdUnpin st tbl tag s
  | .fwdCmdWalk st tbl tag => Sys2Proof.Machine.execFwdCmdWalk st tbl tag s
  | .fwdCmdFlush st tbl tag => Sys2Proof.Machine.execFwdCmdFlush st tbl tag s
  | .flushVisitComplete t errs => Sys2Proof.Machine.execFlushVisitComplete t errs s
  | .lxMessageReceive t msg => Sys2Proof.Machine.execLxMessageReceive t msg s
  | .pinReleaseScan t => Sys2Proof.Machine.execPinReleaseScan t s
  | .kvtKum rq priv tag arg => Sys2Proof.Machine.execKvtKum rq priv tag arg s
  | .kvtGenerate rq priv slot tag arg => Sys2Proof.Machine.execKvtGenerate rq priv slot tag arg s
  | .kvtErase rq priv slot tag => Sys2Proof.Machine.execKvtErase rq priv slot tag s
  | .kvtAttest rq priv slot tag arg => Sys2Proof.Machine.execKvtAttest rq priv slot tag arg s
  | .kvtInfo rq priv slot tag => Sys2Proof.Machine.execKvtInfo rq priv slot tag s
  | .kvtZeroise rq priv tag => Sys2Proof.Machine.execKvtZeroise rq priv tag s
  | .journalCommit => Sys2Proof.Machine.execJournalCommit s
  | .epochFuseBurn => Sys2Proof.Machine.execEpochFuseBurn s
  | .keyRequest u slot found => Sys2Proof.Machine.execKeyRequest u slot found s
  | .counterBlockAdvance slot => Sys2Proof.Machine.execCounterBlockAdvance slot s
  | .kvtSelftestDone kat itk idk => Sys2Proof.Machine.execKvtSelftestDone kat itk idk s
  | .kvtKeystoreLoad found => Sys2Proof.Machine.execKvtKeystoreLoad found s
  | .kvtWrappedStoreWrite => Sys2Proof.Machine.execKvtWrappedStoreWrite s
  | .kvtKeystateError => Sys2Proof.Machine.execKvtKeystateError s
  | .cryReseed rq => Sys2Proof.Machine.execCryReseed rq s
  | .cryRngRead rq => Sys2Proof.Machine.execCryRngRead rq s
  | .drbgHealthFail => Sys2Proof.Machine.execDrbgHealthFail s
  | .cryJob kind slot err => Sys2Proof.Machine.execCryJob kind slot err s
  | .debugHalt t sup p => Sys2Proof.Machine.execDebugHalt t sup p s
  | .debugScanStart => Sys2Proof.Machine.execDebugScanStart s
  | .debugScanEnd => Sys2Proof.Machine.execDebugScanEnd s
  | .updLoad rq tag => Sys2Proof.Machine.execUpdLoad rq tag s
  | .updVerify st tag => Sys2Proof.Machine.execUpdVerify st tag s
  | .updWrite rq tag => Sys2Proof.Machine.execUpdWrite rq tag s
  | .updWriteDone left => Sys2Proof.Machine.execUpdWriteDone left s
  | .updActivate rq tag => Sys2Proof.Machine.execUpdActivate rq tag s
  | .quiesceComplete t ns => Sys2Proof.Machine.execQuiesceComplete t ns s
  | .quiesceTimeout ns => Sys2Proof.Machine.execQuiesceTimeout ns s
  | .trialWindowEnd t => Sys2Proof.Machine.execTrialWindowEnd t s
  | .updRollback by_ ns => Sys2Proof.Machine.execUpdRollback by_ ns s
  | .updAbort rq tag => Sys2Proof.Machine.execUpdAbort rq tag s
  | .updCommitDone bad1 bad0 => Sys2Proof.Machine.execUpdCommitDone bad1 bad0 s
  | .prcPacket t q ctx work => Sys2Proof.Machine.execPrcPacket t q ctx work s
  | .trickleTimer t dio => Sys2Proof.Machine.execTrickleTimer t dio s
  | .rplRepair rq => Sys2Proof.Machine.execRplRepair rq s
  | .cscBlockLock n => Sys2Proof.Machine.execCscBlockLock n s
  | .cscLockLoss t n => Sys2Proof.Machine.execCscLockLoss t n s
  | .cscRetxTimeout t n => Sys2Proof.Machine.execCscRetxTimeout t n s
  | .cscForeignTimeout t n => Sys2Proof.Machine.execCscForeignTimeout t n s
  | .cscHello t n h => Sys2Proof.Machine.execCscHello t n h s
  | .cscData t n h cls oseq data => Sys2Proof.Machine.execCscData t n h cls oseq data s
  | .cscAck t n h => Sys2Proof.Machine.execCscAck t n h s
  | .cscCredit t n h g => Sys2Proof.Machine.execCscCredit t n h g s
  | .cscLsa t n h org l => Sys2Proof.Machine.execCscLsa t n h org l s
  | .cscStatus t n h x => Sys2Proof.Machine.execCscStatus t n h x s
  | .cscTime t n h t1 t2 t3 t4 valid refcnt => Sys2Proof.Machine.execCscTime t n h t1 t2 t3 t4 valid refcnt s
  | .cscLearn t n h msgs => Sys2Proof.Machine.execCscLearn t n h msgs s
  | .cscSched t n h x => Sys2Proof.Machine.execCscSched t n h x s
  | .cscHome t n h node chip => Sys2Proof.Machine.execCscHome t n h node chip s
  | .cscAddr t n h x => Sys2Proof.Machine.execCscAddr t n h x s
  | .cscEchoFrame t n h reply tag rtt => Sys2Proof.Machine.execCscEchoFrame t n h reply tag rtt s
  | .lsaPeriodic t => Sys2Proof.Machine.execLsaPeriodic t s
  | .statusPeriodic t => Sys2Proof.Machine.execStatusPeriodic t s
  | .timePeriodic t => Sys2Proof.Machine.execTimePeriodic t s
  | .presenceTimeout t chip => Sys2Proof.Machine.execPresenceTimeout t chip s
  | .quorumLossTimeout t => Sys2Proof.Machine.execQuorumLossTimeout t s
  | .startListenEnd t => Sys2Proof.Machine.execStartListenEnd t s
  | .tempAddrLapse addr => Sys2Proof.Machine.execTempAddrLapse addr s
  | .rerouteHoldExpire t pkt => Sys2Proof.Machine.execRerouteHoldExpire t pkt s
  | .cscHandback rq addr tag => Sys2Proof.Machine.execCscHandback rq addr tag s
  | .cscEcho rq addr tag => Sys2Proof.Machine.execCscEcho rq addr tag s
  | .echoTimeout => Sys2Proof.Machine.execEchoTimeout s
  | .cscFloodLsa rq addr tag => Sys2Proof.Machine.execCscFloodLsa rq addr tag s
  | .scrubRead t res ch region addr last => Sys2Proof.Machine.execScrubRead t res ch region addr last s
  | .historyWindowEnd octets => Sys2Proof.Machine.execHistoryWindowEnd octets s
  | .pwrDomreqWrite t rq hi v => Sys2Proof.Machine.execPwrDomreqWrite t rq hi v s
  | .domainDrainDone d => Sys2Proof.Machine.execDomainDrainDone d s
  | .domainEntryComplete t d => Sys2Proof.Machine.execDomainEntryComplete t d s
  | .domainExitComplete t d bad => Sys2Proof.Machine.execDomainExitComplete t d bad s
  | .modeDeepret t rq key => Sys2Proof.Machine.execModeDeepret t rq key s
  | .modeAononly t rq key => Sys2Proof.Machine.execModeAononly t rq key s
  | .modeEntryComplete t refcnt => Sys2Proof.Machine.execModeEntryComplete t refcnt s
  | .wakeGpio ball falling => Sys2Proof.Machine.execWakeGpio ball falling s
  | .wakeSmbus => Sys2Proof.Machine.execWakeSmbus s
  | .wakeAlarm => Sys2Proof.Machine.execWakeAlarm s
  | .deepretExitComplete t bad => Sys2Proof.Machine.execDeepretExitComplete t bad s
  | .aononlyRailsReady t => Sys2Proof.Machine.execAononlyRailsReady t s
  | .xtalFail refclk => Sys2Proof.Machine.execXtalFail refclk s
  | .coreDipStart => Sys2Proof.Machine.execCoreDipStart s
  | .ioDipStart => Sys2Proof.Machine.execIoDipStart s
  | .dipEnd durb vminb => Sys2Proof.Machine.execDipEnd durb vminb s
  | .dipLong => Sys2Proof.Machine.execDipLong s
  | .supDivergence t => Sys2Proof.Machine.execSupDivergence t s
  | .supWatchdogExpiry t => Sys2Proof.Machine.execSupWatchdogExpiry t s
  | .supWdogKick t rq v => Sys2Proof.Machine.execSupWdogKick t rq v s
  | .supResume t => Sys2Proof.Machine.execSupResume t s
  | .prcWatchdogExpiry t p memErr held => Sys2Proof.Machine.execPrcWatchdogExpiry t p memErr held s
  | .prcRestartDone p => Sys2Proof.Machine.execPrcRestartDone p s
  | .fsReplicaMismatch => Sys2Proof.Machine.execFsReplicaMismatch s
  | .supNotice t f => Sys2Proof.Machine.execSupNotice t f s
  | .supLogpop rq => Sys2Proof.Machine.execSupLogpop rq s
  | .refclkLoss t refcnt => Sys2Proof.Machine.execRefclkLoss t refcnt s
  | .lspiError p => Sys2Proof.Machine.execLspiError p s
  | .lspiWrite t p addr data => Sys2Proof.Machine.execLspiWrite t p addr data s
  | .i3RunStart t p inten autoack => Sys2Proof.Machine.execI3RunStart t p inten autoack s
  | .i3RunStop t p inten autoack => Sys2Proof.Machine.execI3RunStop t p inten autoack s
  | .i3SoftReset t p => Sys2Proof.Machine.execI3SoftReset t p s
  | .intstatRead t p => Sys2Proof.Machine.execIntstatRead t p s
  | .rxfifoRead t p n => Sys2Proof.Machine.execRxfifoRead t p n s
  | .txfifoWrite t p entry => Sys2Proof.Machine.execTxfifoWrite t p entry s
  | .linkWrite t p => Sys2Proof.Machine.execLinkWrite t p s
  | .linkRead t p => Sys2Proof.Machine.execLinkRead t p s
  | .linkClear t p => Sys2Proof.Machine.execLinkClear t p s
  | .linkClearAll t p => Sys2Proof.Machine.execLinkClearAll t p s
  | .i3SlotBoundary t p => Sys2Proof.Machine.execI3SlotBoundary t p s
  | .i3FrameReceive t first => Sys2Proof.Machine.execI3FrameReceive t first s
  | .i3Rxdone t p => Sys2Proof.Machine.execI3Rxdone t p s
  | .i3TxSelect t p => Sys2Proof.Machine.execI3TxSelect t p s
  | .i3AckTimeout t p => Sys2Proof.Machine.execI3AckTimeout t p s
  | .tstStart t rq v => Sys2Proof.Machine.execTstStart t rq v s
  | .tstPhaseDone t res => Sys2Proof.Machine.execTstPhaseDone t res s
  | .tapInstructionLoad ins => Sys2Proof.Machine.execTapInstructionLoad ins s
  | .tapReset => Sys2Proof.Machine.execTapReset s
  | .pcieLinkChange t up width speed flight => Sys2Proof.Machine.execPcieLinkChange t up width speed flight s
  | .rxringTailWrite rq r v => Sys2Proof.Machine.execRxringTailWrite rq r v s
  | .txringTailWrite rq r v => Sys2Proof.Machine.execTxringTailWrite rq r v s
  | .dmaDescriptorDone t tx r len queue flags data => Sys2Proof.Machine.execDmaDescriptorDone t tx r len queue flags data s
  | .ethFrameReceive t n f => Sys2Proof.Machine.execEthFrameReceive t n f s
  | .ethTxDone t n => Sys2Proof.Machine.execEthTxDone t n s
  | .ethLinkChange t n lock fault up => Sys2Proof.Machine.execEthLinkChange t n lock fault up s
  | .protectionSwitch t => Sys2Proof.Machine.execProtectionSwitch t s
  | .protectionRestore t => Sys2Proof.Machine.execProtectionRestore t s
  | .nexthopApply rq k v => Sys2Proof.Machine.execNexthopApply rq k v s
  | .ptpStep t rq v => Sys2Proof.Machine.execPtpStep t rq v s
  | .hifTspop rq v => Sys2Proof.Machine.execHifTspop rq v s
  | .xspiRead rq => Sys2Proof.Machine.execXspiRead rq s
  | .xspiErase rq => Sys2Proof.Machine.execXspiErase rq s
  | .xspiProgram rq => Sys2Proof.Machine.execXspiProgram rq s
  | .xspiComplete ok => Sys2Proof.Machine.execXspiComplete ok s
  | .smbSetaddr pec addr => Sys2Proof.Machine.execSmbSetaddr pec addr s
  | .smbWrite32 pec v => Sys2Proof.Machine.execSmbWrite32 pec v s
  | .smbRead32 pec => Sys2Proof.Machine.execSmbRead32 pec s
  | .gpioEdge b level => Sys2Proof.Machine.execGpioEdge b level s
  | .tempSample temp => Sys2Proof.Machine.execTempSample temp s
  | .refclkReturn t refcnt => Sys2Proof.Machine.execRefclkReturn t refcnt s
  | .debugHaltEnd t sup p => Sys2Proof.Machine.execDebugHaltEnd t sup p s
  | .mainsThdHigh thd => Sys2Proof.Machine.execMainsThdHigh thd s

end Sys2Proof.Machine
end

