-- ==== Sys2Proof/Safety.lean ====
section
/-! DEFINITION. What the claims call a well-kept state: every sparse table of the state is in its one canonical form; and the words in
which the statements say that a unit's command is taken and how it has ended. -/

namespace Sys2Proof.Machine

/-- A table whose unlisted keys read as `d k` is canonical: keys strictly rising, no entry equal to what an unlisted key reads as. -/
def Tab.canon {α : Type} [DecidableEq α] (d : Nat → α) (t : Tab α) : Bool :=
  t.sorted && t.all (fun e => decide (e.2 ≠ d e.1))

/-- An erased page of the flash. -/
def erasedPage : List Octet := List.replicate 256 0xFF

/-- The register file, the active sets of R50, the holding view of R58 and the flash are canonical: equal contents are equal data. -/
def State.wf (s : State) : Bool :=
  Tab.canon resetOf s.regs && (Tab.canon resetOf s.active && (Tab.sorted s.holding && Tab.canon (fun _ => erasedPage) s.flash))

/-- Is `a` one of EVT_PENDn, which every source that fires writes (R61)? -/
def isPendReg (a : Nat) : Bool := Nat.ble (Reg.EVT_PENDn 0) a && Nat.ble a (Reg.EVT_PENDn 7)

/-- The register file is unchanged but for the registers at `l`. -/
def State.regsBut (s t : State) (l : List Nat) : Prop := ∀ a, a ∉ l → t.reg a = s.reg a

/-- The register file is unchanged but for the registers at `l` and the pending bits that firing sources set (R61). -/
def State.regsEvt (s t : State) (l : List Nat) : Prop := ∀ a, a ∉ l → isPendReg a = false → t.reg a = s.reg a

/-- The two halves of the counter whose _LO lies at `c` (R57). -/
def halves (c : Nat) : List Nat := [c, c + 4]

/-- PD_SYS is on: EVT takes events and fault records. -/
abbrev State.sysOn (s : State) : Prop := (s.dom 1).mode = .on

/-- The outcome is a next state: neither a fault nor a refusal. -/
def Answers (o : Host.Outcome State Fault Refusal) : Prop := ∃ t, o = .next t

/-- The assessment `c` of port `n` for `id` has ended with answer `a` (R111). -/
def State.answered (s : State) (n id : Nat) (c : Cca) (a : CcaAnswer) : State :=
  let v := s.setPort n { s.port n with ccas := (s.port n).ccas.erase c }
  { v with rfp := { v.rfp with lastCca := some (id, a) } }

/-! ### Commands of command registers -/

/-- The state after a write of `v` at `p` that nothing bars, completed (R43, R52): what the command then acts on. -/
def State.took (s : State) (rq : Req) (p : Nat) (v : Word) : State := (s.applyWrite rq p v).respond [] true

/-- The word of UPD_CMD for a command and its tag (R348). -/
def updWord (op tag : Nat) : Word := BitVec.ofNat 32 (op % 16 + 16 * (tag % 256))

/-- The state in which a UPD command that was taken runs: BUSY, its OP and TAG kept. -/
def State.updTaken (s : State) (rq : Req) (op tag : Nat) : State :=
  let u := s.took rq Reg.UPD_CMD (updWord op tag)
  ({ u with upd := { u.upd with cmd := some (op, tag % 256) } }).setFlag F.UPD_CMDSTAT_BUSY true

/-- UPD takes the command: nothing bars the write, no command runs, and its state allows the command (R351). -/
abbrev State.updTakes (s : State) (rq : Req) (op tag : Nat) : Prop :=
  s.barred rq Reg.UPD_CMD (some (updWord op tag)) = none ∧ s.on F.UPD_CMDSTAT_BUSY = false ∧ s.upd.waits ≠ some .svn ∧
    (s.updTaken rq op tag).updBar op = none

/-- A UPD command has ended in `u`: OUTCOME and DETAIL shown with its tag, source 180. -/
abbrev State.updEnded (u : State) (tag outcome detail : Nat) : Prop :=
  u.on F.UPD_CMDSTAT_BUSY = false ∧ u.fld F.UPD_CMDSTAT_OUTCOME = outcome ∧ u.fld F.UPD_CMDSTAT_TAG = tag % 256 ∧
    u.fld F.UPD_CMDSTAT_DETAIL = detail ∧ u.upd.cmd = none ∧ (u.sysOn → u.isPend 180 = true)

/-- What a reset that keeps PD_AON leaves of `s` in `u` (R386, R387): the registers of PD_AON but those at `l` keep their values,
every other register is at its reset value, and of the rest only what PD_AON, the fuses and the flash hold is kept; PWR is `p`. -/
def State.resetLeft (s u : State) (l : List Nat) (p : Pwr) : Prop :=
  (∀ a, domOf a ≠ 0 ∨ a ∈ [Reg.PWR_DOMREQ0, Reg.PWR_DOMREQ1, Reg.SUP_STATUS] → a ∉ l → u.reg a = resetOf a) ∧
  (∀ a, domOf a = 0 → a ∉ Reg.PWR_DOMREQ0 :: Reg.PWR_DOMREQ1 :: Reg.SUP_STATUS :: l → u.reg a = s.reg a) ∧
  u.pwr = p ∧
  u = { State.reset with
    pending := s.pending, regs := u.regs, free := s.free, flash := s.flash, evt := { sent := s.evt.sent }, pwr := p,
    gtb := { gt := s.gtb.gt, holdRec := s.gtb.holdRec },
    kvt := { store := s.kvt.store, fuses := s.kvt.fuses, flash := s.kvt.flash, antifuse := s.kvt.antifuse, aonHw := s.kvt.aonHw, aonGen := s.kvt.aonGen },
    upd := { fuses := s.upd.fuses },
    sup := { refclkLost := s.sup.refclkLost, log := s.sup.log, logSeq := s.sup.logSeq, notices := s.sup.notices,
             notOvf := s.sup.notOvf, failPin := u.sup.failPin },
    hif := { smbAddr := s.hif.smbAddr, perst := s.hif.perst },
    mem := u.mem }

/-- PWR after the reset condition of cause `c` began (R386, R405): every domain off, the dip and the count of resets go on. -/
def State.resetPwr (s : State) (c : ResetCause) (dram : Bool) : Pwr :=
  { inReset := true, dip := s.pwr.dip, resets := min 65535 (s.pwr.resets + 1), cause := c, aonKept := true, dramKept := dram }

/-- The directory as the boot ROM leaves it before it reads a bank (R358): a bank in TRIAL has become FAILED with LASTRB = 6. -/
abbrev State.bootDir (s : State) : State :=
  if (s.dir.bank (1 - s.dir.com)).1 = 2 then
    (s.dirWrite { s.dir.setBank (1 - s.dir.com) 3 (s.dir.bank (1 - s.dir.com)).2.1 (s.dir.bank (1 - s.dir.com)).2.2 with lastrb := 6 }).dirShow
  else s.dirShow

/-- The word of PWR_MODECMD for a mode and its key (R411). -/
def modeWord (m : LpMode) (key : Nat) : Word := BitVec.ofNat 32 ((if m = .deepret then 1 else 2) + 65536 * (key % 65536))

/-- PWR_MODECMD is written with mode `m` and its key, in service, and PWR takes it (R411): no update runs its pause, trial or commit. -/
abbrev State.modeTakes (s : State) (t : Time) (rq : Req) (key : Nat) (m : LpMode) : Prop :=
  (s.at t).barred rq Reg.PWR_MODECMD (some (modeWord m key)) = none ∧ key % 65536 = 0x9E37 ∧ s.pwr.mode = .service ∧
    (s.updState < 6 ∨ 8 < s.updState)

/-- What an enabled wake event of kind `w`, code `n` in PWR_WAKEREC, leaves of `s` in `u` (R412): it ends a mode, is latched while an
entry runs or is due, source 13, is recorded in an exit, and does nothing in service. -/
abbrev State.wokenBy (s u : State) (w : Wake) (n : Nat) : Prop :=
  (∀ m ∈ [LpMode.deepret, LpMode.aononly], s.pwr.mode = .inMode m → u.pwr = { s.pwr with mode := .exiting m, wake := none } ∧
    u.fld F.PWR_WAKEREC_SRC = n ∧ u.on F.PWR_WAKEREC_REPLAY = false ∧ u.on F.PWR_WAKEREC_FROMAON = (m == LpMode.aononly) ∧
    s.regsBut u [Reg.PWR_WAKEREC] ∧ u = { s with regs := u.regs, pwr := u.pwr }) ∧
  (s.pwr.mode = .entering .deepret ∨ s.pwr.mode = .entering .aononly ∨ s.modeDue.isSome = true → u.pwr = { s.pwr with wake := some w } ∧
    (s.sysOn → u.isPend 13 = true) ∧ s.regsEvt u [] ∧ u = { s with regs := u.regs, evt := u.evt, pwr := u.pwr }) ∧
  (s.pwr.mode = .exiting .deepret ∨ s.pwr.mode = .exiting .aononly → u.fld F.PWR_WAKEREC_SRC = n ∧ s.regsBut u [Reg.PWR_WAKEREC] ∧
    u = { s with regs := u.regs }) ∧
  (s.pwr.mode = .service → s.modeDue = none → u = s)

/-- The charge of the reserved stream `x` of port `n` (R210 to R212): its channel, its start, and its duration with the ramp-down. -/
def State.chargeOf (s : State) (n : Nat) (x : Stream) (id : Nat) (kind : TxKind) (chips : Nat) : Option BgtReason × State :=
  let rate := chipRate (s.sliceClass n x.slice)
  s.charge id (s.sliceCentre n x.slice).toNat (spacing (s.sliceClass n x.slice)) (s.ftOf x.start) (chargeNs chips rate) rate kind

/-- The start GT of a class C frame whose backoff ended (R218, R219): the assessment's window, TXLAT and 4 µs from now. -/
def State.backoffStart (s : State) (x : MsqTx) : Nat :=
  gtAdd s.gtb.gt (nsToGt ((s.lbt (s.sliceCentre x.port x.slice).toNat (spacing (s.sliceClass x.port x.slice)) .data).elim 0
    (fun w => w.1 * 16000) + s.fld (F.RFPn_LAT_TXLAT x.port) + 4000) s.mainsFreq)

/-- The word of SLV_CMD (R232). -/
def slvWord (op node tag : Nat) : Word := BitVec.ofNat 32 (op % 16 + 16 * (node % 2 ^ 18) + 2 ^ 22 * (tag % 256))

/-- The state `s` at `t` once SLV has ended the commands of a reserved OP at the front of its queue (R232). -/
abbrev State.slvFront (s : State) (t : Time) : State := (s.at t).slvSkip s.slv.cmds.length

/-- SLV takes the command `c` from the front of its queue at `t`, `v` being what it then acts on (R232): PD_SLV is ON at SL2, the command
`op` is the queue's next, no JOIN waits for the anchor where it is the incremental engine's, and group 0's staged set takes effect. -/
abbrev State.slvTakes (s : State) (t : Time) (op : Nat) (c : SlvCmd) (v : State) : Prop :=
  s.domReady 15 = true ∧ s.level = 2 ∧ (op = 1 ∨ s.slv.asked = none) ∧ (s.slvFront t).slv.cmds.head? = some c ∧ c.op = op ∧
    v = State.commitAt { s.slvFront t with slv := { (s.slvFront t).slv with cmds := (s.slvFront t).slv.cmds.tail } } 9 0

/-- The result record that ends `c` (R242). -/
def SlvCmd.result (c : SlvCmd) (outcome count dur : Nat) : SlvRes :=
  { op := c.op, outcome := outcome, tag := c.tag, node := c.node, count := count, dur := dur, short := 0 }

/-- The record `r` joins the result FIFO of `v` in `u`, source 120 where it is the first; a full FIFO loses it, counted, source 121
(R242). -/
abbrev State.slvResulted (v u : State) (r : SlvRes) : Prop :=
  (v.slv.results.length < 64 → u.slv.results = v.slv.results ++ [r] ∧ u.ctr Ctr.SLV_RQOVF = v.ctr Ctr.SLV_RQOVF ∧
    (v.sysOn → v.slv.results = [] → u.isPend 120 = true)) ∧
  (64 ≤ v.slv.results.length → u.slv.results = v.slv.results ∧ u.ctr Ctr.SLV_RQOVF = (v.ctr Ctr.SLV_RQOVF + 1) % 2 ^ 48 ∧
    (v.sysOn → u.isPend 121 = true))

/-- What a solve's result changes in the schedule (R234, R238): new sets, then the nodes that lose their cells. -/
def State.solveStaged (v : State) (x : SolveResult) : State :=
  x.clear.foldl (fun u n => u.dropNode n) (x.sets.foldl (fun u p => u.changeSet p) v)

/-- The word of QMG_PKTCMD (R259). -/
def pktWord (cell op reason : Nat) : Word := BitVec.ofNat 32 (cell % 2 ^ 26 + 2 ^ 26 * op + 2 ^ 28 * reason)

/-- A packet command reaches QMG (R259): on PRC's private port as things stand, or by a write of QMG_PKTCMD that nothing bars; `t` is
the state it acts on. -/
abbrev State.pktTook (s : State) (rq : Req) (priv : Bool) (w : Word) (t : State) : Prop :=
  (priv = true ∧ t = s) ∨ (priv = false ∧ s.barred rq Reg.QMG_PKTCMD (some w) = none ∧ t = s.took rq Reg.QMG_PKTCMD w)

/-- What a packet command answers: ERR and cell in the private port's answer, or in QMG_PKTRES (R259). -/
abbrev State.pktAns (u : State) (priv : Bool) (e cell : Nat) : Prop :=
  (priv = true → u.evt.resp = { data := leOctets 4 (cell % 2 ^ 26 + 2 ^ 27 * e), ok := true }) ∧
  (priv = false → u.reg Reg.QMG_PKTRES = BitVec.ofNat 32 (cell % 2 ^ 26 + 2 ^ 27 * e))

/-- No packet with START `c` is too old for queue `q` (R258). -/
def State.young (s : State) (q c : Nat) : Bool :=
  (s.qmg.pkts.find c).all (fun p => (s.queueLimits q).2.2.2.2 == 0 ||
    decide (gsnDiff s.gsn p.arr ≤ ((s.queueLimits q).2.2.2.2 * (s.nomFreq / 1000) * s.spc : Nat)))

/-- Cell `c` at the tail of queue `q` brings no packet to its head that is too old (R258). -/
abbrev State.noAge (s : State) (q c : Nat) : Prop := (s.queue q).cells ≠ [] ∨ s.young q c = true

/-- The table command `c` of OP `op` waits at a port of FWD and nothing bars it (R287, R288); `v` is the state it runs on. -/
abbrev State.fwdAt (s : State) (t : Time) (priv : Bool) (op : Nat) (tbls : List Nat) (c : FwdCmd) (v : State) : Prop :=
  (if priv then s.fwd.priv else s.fwd.cmd) = some c ∧ c.op = op ∧ v = s.at t ∧ v.fwdBar c tbls = none

/-- The visit of FLUSH over the buckets `b` up to `e` takes the entry away: it is learned, with the ETYPE and DEST named (R294). -/
def flushes (et dest b e : Nat) (x : Nat × FwdEntry) : Bool :=
  Nat.ble b (x.1 / 8) && (Nat.blt (x.1 / 8) e && (x.2.learned && (x.2.etype == et && x.2.dest == dest)))

/-- The buckets from `b` up to `e` of a table are read, with what R281 does where a read fails. -/
def State.readWindow (s : State) (errs : List FwdErr) (pfx : Bool) (b e : Nat) : State :=
  errs.foldl (fun (v : State) (x : FwdErr) => match x with
    | .bucket p k _ => if p = pfx ∧ b ≤ k ∧ k < e then (v.readBucket errs p k).2 else v
    | _ => v) s

/-- The slot at which a WALK goes on, counted through its table (R292). -/
def FwdCmd.walkPos (c : FwdCmd) : Nat := c.walkFrom * slotsOf c.pfx + min (slotsOf c.pfx) (F.FWD_CMDARG_SLOT.ext c.arg)

/-- FWD is to apply the event `v` at the front of its queue, `w` being the state once the lines and buckets of its address are read (R276, R280,
R281). -/
abbrev State.learns (s : State) (t : Time) (errs : List FwdErr) (v : LearnEv) (w : State) : Prop :=
  s.fwd.learnQ.head? = some v ∧ s.keel = false ∧ s.on F.FWD_STATUS_BOOTMODE = false ∧
    w = (({ s.at t with fwd := { s.fwd with learnQ := s.fwd.learnQ.tail } } : State).readHot errs v.addr).2.readBuckets errs false v.addr 128

/-- No learning message goes out (R296): TXEN is 0, or the chip is a solo chip. -/
abbrev State.mute (s : State) : Prop := s.on F.FWD_LXCFG_TXEN = false ∨ s.fld F.CSC_CFG_ROLE = 0

/-- The word of KVT_CMD (R318). -/
def kvtWord (op slot tag : Nat) : Word := BitVec.ofNat 32 (op + 16 * (slot % 2 ^ 20) + 2 ^ 24 * (tag % 256))

/-- The KVT command `c` is accepted while none runs (R318, R331), and runs on `v`: a write of KVT_CMD that nothing bars, with the argument
in KVT_ARG, or one on PRC's private port by the secure context, with the argument `arg`. -/
abbrev State.kvtTook (s : State) (rq : Req) (priv : Bool) (op slot tag : Nat) (arg : Word) (c : KvtCmd) (v : State) : Prop :=
  c = { op := op, slot := slot % 2 ^ 20, tag := tag % 256, arg := c.arg, rq := rq, priv := priv } ∧
    v.on F.KVT_CMDSTAT_BUSY = false ∧
    ((priv = true ∧ rq.prcSecure = true ∧ c.arg = arg ∧ v = s) ∨
     (priv = false ∧ s.barred rq Reg.KVT_CMD (some (kvtWord op slot tag)) = none ∧ v = s.took rq Reg.KVT_CMD (kvtWord op slot tag) ∧
       c.arg = v.reg Reg.KVT_ARG))

/-- The registers in which a KVT command ends (R318). -/
def kvtAns : List Nat := Reg.KVT_CMDSTAT :: (List.range 56).map Reg.KVT_RESk

/-- The KVT command `c` has ended in `u` with OUTCOME, DETAIL and the octets of its result (R318). -/
abbrev State.kvtEnded (u : State) (c : KvtCmd) (o : KvtOutcome) (detail : Nat) (res : List Octet) : Prop :=
  u.on F.KVT_CMDSTAT_BUSY = false ∧ u.fld F.KVT_CMDSTAT_OUTCOME = o.code ∧ u.fld F.KVT_CMDSTAT_TAG = c.tag ∧
    u.fld F.KVT_CMDSTAT_DETAIL = detail ∧ u.regRun (Reg.KVT_RESk 0) 56 = packWords 56 res ∧ u.kvt.cmd = none ∧
    (u.sysOn → u.isPend 166 = true)

/-- The key store `k` was not loaded into `s` (R312): ROLLBACK, source 169, the cause captured; of the slots only their reservation bases
stay, and the greater counters (log entry 46). -/
abbrev State.storeRefused (s u : State) (k : KeyStore) (hw gen cause : Nat) : Prop :=
  u.kvtState = 4 ∧ u.reg Reg.KVT_SECEVT = BitVec.ofNat 32 (1 + 4 * cause) ∧ (s.sysOn → u.isPend 169 = true ∧ u.isPend 174 = true) ∧
  u.kumhw = max hw (s.kvt.aonHw.getD 0) % 2 ^ 64 ∧
  u.reg Reg.KVT_SEALGEN = BitVec.ofNat 32 (max gen (max (s.kvt.aonGen.getD 0) (s.reg Reg.KVT_SEALGEN).toNat)) ∧
  u.kvt.slots = keyBases (s.storeSlots k) ∧ u.kvt.cache = [] ∧
  s.regsEvt u [Reg.KVT_STATUS, Reg.KVT_SECEVT, Reg.KVT_KUMHW0, Reg.KVT_KUMHW1, Reg.KVT_SEALGEN] ∧
  u = { s with
    regs := u.regs, evt := u.evt, msq := { s.msq with out := [] }, sup := { s.sup with failPin := u.sup.failPin },
    kvt := { s.kvt with
      store := k, slots := u.kvt.slots, cache := [], wrapped := [], aonHw := u.kvt.aonHw, aonGen := u.kvt.aonGen } }

/-- The message has the form of a KUM (R314, R316 step 2): its mark, version, record count and length, FLAGS, and its zero octets. -/
abbrev kumForm (d : List Octet) : Prop :=
  slice d 0 4 = [0x50, 0x4B, 0x55, 0x4D] ∧ leNat (slice d 4 2) = 1 ∧ 1 ≤ leNat (slice d 6 2) ∧ leNat (slice d 6 2) ≤ 128 ∧
    d.length = 312 + 48 * leNat (slice d 6 2) ∧ leNat (slice d 32 4) < 4 ∧ allZero (slice d 85 3) = true ∧ allZero (slice d 213 3) = true

/-- The signer of a KUM is authorised (R315, R316 step 4): the owner anchor is fused, and in ROLLBACK the signer is the owner, with RESEAL set. -/
abbrev State.kumSigner (s : State) (d : List Octet) : Prop :=
  allZero s.ownerAnchor = false ∧
    (s.kvtState = 4 → s.isOwner (slice d 116 97) = true ∧ bit (leNat (slice d 32 4)) 1 = true) ∧
    (s.kvtState ≠ 4 → s.signerOk (slice d 116 97) = true)

/-- A KUM's signature verifies (R316 step 5). -/
def kumSigned (d : List Octet) : Bool :=
  ecdsaP384 (slice d 116 97) (d.take (216 + 48 * leNat (slice d 6 2))) (d.drop (216 + 48 * leNat (slice d 6 2)))

/-- A journal entry advances slot `n`'s counter block (R311). -/
def Journal.asksBlock (j : Journal) (n : Nat) : Bool :=
  match j.kind with
  | .blocks l => l.contains n
  | _ => false

/-- A batch of counter blocks that another may join: not begun, below 512 (R311). -/
def Journal.openBatch (j : Journal) : Bool :=
  match j.kind with
  | .blocks l => !j.started && Nat.blt l.length 512
  | _ => false

/-- Port `n` after a frame with header `h` came in and was not discarded (R366, R367): it counts under the session key, and the frames that
it acknowledges have ended. -/
def State.cscCame (s : State) (n : Nat) (h : CscHdr) : State :=
  (s.setCport n { s.cport n with rxCount := (s.cport n).rxCount + 1 }).ackTo n h.ackseq

/-- CSC hears a frame of TYPE `typ`, CLASS `cls` and OSEQ `oseq` with these header and body on port `n` (R365, R366): PD_CSC is ON, the port UP,
the frame buffer has not spoiled it, and its trailer is right. -/
abbrev State.cscHears (s : State) (n : Nat) (h : CscHdr) (typ cls oseq : Nat) (body : List Octet) : Prop :=
  s.domReady 19 = true ∧ s.portUp n = true ∧ h.bad = false ∧ s.frameOk n h typ cls oseq body = true

/-- CSC takes a frame that it hears: its LSEQ is the one that the port expects next (R367); `v` is what it acts on: the frame counted, a control
frame's buffer used (R368). -/
abbrev State.cscTook (s : State) (t : Time) (n : Nat) (h : CscHdr) (typ cls oseq : Nat) (body : List Octet) (v : State) : Prop :=
  (s.at t).cscHears n h typ cls oseq body ∧ h.lseq = (((s.at t).cscCame n h).cport n).rxSeq ∧
    v = (((s.at t).cscCame n h).setCport n { ((s.at t).cscCame n h).cport n with
      rxSeq := ((((s.at t).cscCame n h).cport n).rxSeq + 1) % 65536,
      ctlCame := if typ = 0 then (((s.at t).cscCame n h).cport n).ctlCame
        else ((((s.at t).cscCame n h).cport n).ctlCame + 1) % 2 ^ 32 }).bump (Ctr.CSC_PnRXFRM n)

/-- CSC takes a control frame with body `b` that is for this chip (R365). -/
abbrev State.cscMine (s : State) (t : Time) (n : Nat) (h : CscHdr) (b : CscBody) (v : State) : Prop :=
  s.cscTook t n h b.typ 0 0 (Config.cscOctets b) v ∧ (h.dst = 31 ∨ h.dst = v.fabric)

/-- A SCHED frame `x` for this chip is acted on (R376, R455): in CASCADE mode, with PD_SLV on, at SL2, outside keel service. -/
abbrev State.schedTook (s : State) (t : Time) (n : Nat) (h : CscHdr) (x : CscSched) (v : State) : Prop :=
  s.cscMine t n h (.sched x) v ∧ v.slvJoins = true

/-- A SCHED frame carries restored cells (R383). -/
def CscSched.isRestore : CscSched → Bool
  | .restore _ => true
  | _ => false

/-- A control frame for one chip or the link peer that comes in (R365): moment, port, header and body. -/
def cscCtlOf : Instr → Option (Time × Nat × CscHdr × CscBody)
  | .cscLsa t n h org l => some (t, n, h, .lsa org l)
  | .cscStatus t n h x => some (t, n, h, .status x)
  | .cscTime t n h t1 _ _ t4 b _ => some (t, n, h, .time t1 t4 b)
  | .cscLearn t n h ms => some (t, n, h, .learn ((ms.take 30).map LxRx.msg))
  | .cscSched t n h x => some (t, n, h, .sched x.body)
  | .cscHome t n h node chip => some (t, n, h, .home node chip)
  | .cscAddr t n h x => some (t, n, h, .addr x)
  | .cscEchoFrame t n h b tag _ => some (t, n, h, .echo b tag)
  | _ => none

/-- A frame that comes in on a port that is UP (R365): moment, port, header, TYPE, CLASS, OSEQ and body octets. -/
def cscFrameOf (i : Instr) : Option (Time × Nat × CscHdr × Nat × Nat × Nat × List Octet) :=
  match i with
  | .cscData t n h cls oseq data => some (t, n, h, 0, cls, oseq, data)
  | .cscAck t n h => some (t, n, h, 1, 0, 0, [])
  | .cscCredit t n h g => some (t, n, h, 2, 0, 0, Config.cscOctets (.credit g.cells g.ctl))
  | _ => (cscCtlOf i).map (fun x => (x.1, x.2.1, x.2.2.1, x.2.2.2.typ, 0, 0, Config.cscOctets x.2.2.2))

/-- An LSA of address `org` is newer than the one known (R371). -/
def State.lsaNewer (s : State) (org : Nat) (l : CscLsa) : Bool :=
  (s.csc.lsas.find org).all (fun o => decide (signed 32 ((l.seq + 2 ^ 32 - o.seq % 2 ^ 32) % 2 ^ 32) > 0))

/-- Port `n` lets a frame of its link enter (R475): for its MAC address, broadcast, or multicast where MCAST allows it; tagged with its VID, or
untagged where VTAG asks for no tag. -/
abbrev State.ethTakes (s : State) (n : Nat) (f : EthFrame) : Prop :=
  (f.dst = s.fld (F.HIF_PnMAC_LO_MAC_LO n) + 2 ^ 32 * s.fld (F.HIF_PnMAC_HI_MAC_HI n) ∨ f.dst = 2 ^ 48 - 1 ∨
    f.dst % 2 = 1 ∧ s.on (F.HIF_PnCFG_MCAST n) = true) ∧
  (f.vid = some (s.fld (F.HIF_PnVID_VID n)) ∨ f.vid = none ∧ s.on (F.HIF_PnCFG_VTAG n) = false)

/-- The word of CSC_CMD (R384). -/
def cscWord (op addr tag : Nat) : Word := BitVec.ofNat 32 (op % 4 + 4 * (addr % 32) + 128 * (tag % 256))

/-- The CSC command is taken: nothing bars the write and no command runs; it acts on `v` (R384). -/
abbrev State.cscCmdTook (s : State) (rq : Req) (op addr tag : Nat) (v : State) : Prop :=
  s.barred rq Reg.CSC_CMD (some (cscWord op addr tag)) = none ∧ v = s.took rq Reg.CSC_CMD (cscWord op addr tag) ∧
    v.on F.CSC_CMDSTAT_BUSY = false

/-- A CSC command has ended in `u` (R384). -/
abbrev State.cscEnded (u : State) (tag outcome rtt : Nat) : Prop :=
  u.on F.CSC_CMDSTAT_BUSY = false ∧ u.fld F.CSC_CMDSTAT_OUTCOME = outcome ∧ u.fld F.CSC_CMDSTAT_TAG = tag % 256 ∧
    u.fld F.CSC_CMDSTAT_RTT = min rtt 1048575 ∧ (u.sysOn → u.isPend 201 = true)

end Sys2Proof.Machine
end

