-- ==== Sys2Proof/Certificates/Slice0/Obligations.lean ====
section
/-! DEFINITION. The statements for the provers: what commands do, by family, with their frames; the step; and what every step keeps. -/

open Sys2Proof Sys2Proof.Machine

/-! ### The step, reset, and what every command keeps -/

/-- Each step takes the command at the front of the queue and is `exec` of it on the state with the queue's rest; with an empty
queue the block idles (the model's choice, log entry 3). -/
def Obligations.StepRunsFront : Prop :=
  (∀ (c : Instr) (s : State), step { s with pending := c :: s.pending } = exec c s) ∧
  ∀ s : State, s.pending = [] → step s = .next s

/-- After reset the tables are canonical, no command waits, every domain is off, and every register reads as its reset value. -/
def Obligations.ResetWellKept : Prop :=
  State.reset.wf = true ∧ State.reset.pending = [] ∧ (∀ a, State.reset.reg a = resetOf a) ∧
    ∀ d < 21, (State.reset.dom d).mode = .off

/-- Every step answers a next state and keeps the canonical form of the sparse tables, from every state that has it: the spec
stops the block nowhere. -/
def Obligations.StepKeepsForm : Prop := ∀ s : State, s.wf = true → ∃ t, step s = .next t ∧ t.wf = true

/-- No command takes a command from the queue, adds one, or changes their order: only the step does. -/
def Obligations.ExecKeepsQueue : Prop :=
  ∀ (c : Instr) (s : State), s.wf = true → ∃ t, exec c s = .next t ∧ t.pending = s.pending

/-- Burned fuses stay burned: over every step from a well-kept state neither the epoch fuses (R310) nor the SVN fuses (R353) fall. -/
def Obligations.FusesNeverUnburned : Prop :=
  ∀ s t : State, s.wf = true → step s = .next t → s.kvt.fuses ≤ t.kvt.fuses ∧ s.upd.fuses ≤ t.upd.fuses

/-! ### The register model and the event hub (chapter 03) -/

/-- A full-width aligned write at the primary address, by an initiator that nothing bars (R43, R46, R47), stated for the registers of
CDC and BGT, whose writes start nothing: the RW and SC bits take the value, every other bit and every other register stay, and the
access completes without a record. The initiator is not CFG, and the value carries the current value of WL bits, if any.
Completes: regWrite. -/
def Obligations.RegWriteReplaces : Prop :=
  ∀ (s : State) (rq : Req) (p : Nat) (v : Word) (d : RegD), (unitOf p = 6 ∨ unitOf p = 8) → viewOf p = 0 → p % 4 = 0 →
    p % 0x10000 ≠ 0xFFF0 → regDesc p = some d → d.writable = true → d.has .pw = false → rq.init ≠ .cfg →
    (v ^^^ s.reg p) &&& d.mask [.wl] = 0 → s.barred rq p (some v) = none →
    ∃ u, exec (.regWrite rq p (leOctets 4 v.toNat)) s = .next u ∧
      u.reg p = (s.reg p &&& ~~~(d.mask [.rw, .sc])) ||| (v &&& d.mask [.rw, .sc]) ∧
      u.evt.resp = { data := [], ok := true } ∧ s.regsBut u [p] ∧ u = { s with regs := u.regs, evt := u.evt }

/-- Writes through the aliases (R44), for the registers of CDC and BGT: OR, AND-NOT and XOR on the RW fields and the shadows of the
SC fields, as one read-modify-write; fields with another code and other registers stay.
Completes: setAliasWrite, clearAliasWrite, toggleAliasWrite. -/
def Obligations.AliasWrites : Prop :=
  (∀ (s : State) (rq : Req) (p : Nat) (v : Word) (d : RegD), unitOf p = 6 ∨ unitOf p = 8 → viewOf p = 0 → p % 4 = 0 →
    regDesc p = some d → d.writable = true → s.barred rq (p + 0x10000) none = none →
    ∃ u, exec (.setAliasWrite rq p v) s = .next u ∧ u.reg p = s.reg p ||| (v &&& d.mask [.rw, .sc]) ∧
      s.regsBut u [p] ∧ u = { s with regs := u.regs }) ∧
  (∀ (s : State) (rq : Req) (p : Nat) (v : Word) (d : RegD), unitOf p = 6 ∨ unitOf p = 8 → viewOf p = 0 → p % 4 = 0 →
    regDesc p = some d → d.writable = true → s.barred rq (p + 0x20000) none = none →
    ∃ u, exec (.clearAliasWrite rq p v) s = .next u ∧ u.reg p = s.reg p &&& ~~~(v &&& d.mask [.rw, .sc]) ∧
      s.regsBut u [p] ∧ u = { s with regs := u.regs }) ∧
  (∀ (s : State) (rq : Req) (p : Nat) (v : Word) (d : RegD), unitOf p = 6 ∨ unitOf p = 8 → viewOf p = 0 → p % 4 = 0 →
    regDesc p = some d → d.writable = true → s.barred rq (p + 0x30000) none = none →
    ∃ u, exec (.toggleAliasWrite rq p v) s = .next u ∧ u.reg p = s.reg p ^^^ (v &&& d.mask [.rw, .sc]) ∧
      s.regsBut u [p] ∧ u = { s with regs := u.regs })

/-- Reading a record clears it (R48), a posted write lands (R49), an unanswered access completes as TIMEOUT (R54, R55). RC_READ of
EVT_ACCFLT that nothing bars answers the record as it stood and clears VALID, OVF and CAUSE, other registers stay. PW_LAND of RFP with
no transaction in flight and no word of CFG waiting clears BUSY. REG_ACCESS_TIMEOUT, by an initiator whose world may reach the unit,
with no record held, answers zero with a fault, counts in EVT_ACCCNT and SUP_FLTCNT and captures the access with cause TIMEOUT.
Completes: rcRead, pwLand, regAccessTimeout. -/
def Obligations.RecordsReadAndTimeout : Prop :=
  (∀ (s : State) (rq : Req), s.barred rq Reg.EVT_ACCFLT none = none →
    ∃ u, exec (.rcRead rq Reg.EVT_ACCFLT 4) s = .next u ∧
      u.evt.resp = { data := leOctets 4 (s.reg Reg.EVT_ACCFLT).toNat, ok := true } ∧
      u.on F.EVT_ACCFLT_VALID = false ∧ u.on F.EVT_ACCFLT_OVF = false ∧ u.fld F.EVT_ACCFLT_CAUSE = 0 ∧
      s.regsBut u [Reg.EVT_ACCFLT] ∧ u = { s with regs := u.regs, evt := u.evt }) ∧
  (∀ s : State, s.rfp.proxy = none → s.rfp.convWait = [] →
    ∃ u, exec (.pwLand 3) s = .next u ∧ u.on F.RFP_STATUS_BUSY = false ∧ s.regsBut u [Reg.RFP_STATUS] ∧
      u = { s with regs := u.regs }) ∧
  (∀ (s : State) (rq : Req) (a be gt : Nat) (wr : Bool), s.sysOn → (s.secureReq rq && s.unitSecure (unitOf a)) = false →
    s.on F.EVT_ACCFLT_VALID = false → s.sup.fs ≠ .restart → s.sup.halted = false →
    ∃ u, exec (.regAccessTimeout rq a wr be gt) s = .next u ∧
      u.evt.resp = { data := [0, 0, 0, 0], ok := false } ∧
      u.ctr Ctr.EVT_ACCCNT = (s.ctr Ctr.EVT_ACCCNT + 1) % 2 ^ 48 ∧
      u.reg Reg.EVT_ACCFLT = accWord .timeout wr a s.evt.captures ∧ u.evt.captures = s.evt.captures + 1 ∧
      u.ctr Ctr.SUP_FLTCNT = (s.ctr Ctr.SUP_FLTCNT + 1) % 2 ^ 48 ∧
      u = { s with regs := u.regs, evt := u.evt, sup := u.sup })

/-- Commit groups (R50, R182, R203). COMMIT_GO and COMMIT_ABORT that nothing bars write UNIT_COMMIT and stage or discard each named group;
the staging of MSQ's channel masks where none were staged fires source 102. COMMIT_ACTIVATE takes each named group to its safe boundary,
MSQ's channel masks only where they are due. Staging a group that has registers makes their present values its staged set and sets its
PENDING bit; discarding removes the set and clears the bit; at the boundary a group without a staged set changes nothing, one whose set
passes its check becomes active, one whose set fails it is discarded with the unit's rejection source, and no active value changes.
Completes: commitGo, commitAbort, commitActivate. -/
def Obligations.CommitGroups : Prop :=
  (∀ (s : State) (rq : Req) (u g : Nat), s.barred rq (commitReg u) (some (BitVec.ofNat 32 (g % 256 + 256))) = none →
    exec (.commitGo rq u g) s = .next
      (((s.applyWrite rq (commitReg u) (BitVec.ofNat 32 (g % 256 + 256))).respond [] true).stageGroups u g)) ∧
  (∀ (s : State) (rq : Req) (u g : Nat) (go : Bool),
    s.barred rq (commitReg u) (some (BitVec.ofNat 32 (g % 256 + 256 * b2n go + 512))) = none →
    exec (.commitAbort rq u g go) s = .next ((groupsOf g).foldl (fun t k => t.unstage u k)
      ((s.applyWrite rq (commitReg u) (BitVec.ofNat 32 (g % 256 + 256 * b2n go + 512))).respond [] true))) ∧
  (∀ (s : State) (u g : Nat), exec (.commitActivate u g) s =
    .next (((groupsOf g).filter (fun k => s.boundaryNow u k)).foldl (fun t k => t.commitAt u k) s)) ∧
  (∀ (s : State) (u g : Nat), u = 7 → bit g 2 = true → (∀ x ∈ s.staged, ¬(x.unit = 7 ∧ x.grp = 2)) →
    s.stageGroups u g = ((groupsOf g).foldl (fun t k => t.stage u k) s).fire 102) ∧
  (∀ (s : State) (u g : Nat), u ≠ 7 ∨ bit g 2 = false ∨ (∃ x ∈ s.staged, x.unit = 7 ∧ x.grp = 2) →
    s.stageGroups u g = (groupsOf g).foldl (fun t k => t.stage u k) s) ∧
  (∀ (s : State) (u g : Nat), s.boundaryNow u g = false ↔ u = 7 ∧ g = 2 ∧ s.maskDue = false) ∧
  (∀ (s : State) (u g : Nat), groupRegs u g ≠ [] →
    (s.stage u g).staged = s.staged.filter (fun x => !(x.unit == u && x.grp == g)) ++
      [{ unit := u, grp := g, vals := (groupRegs u g).map (fun r => (r.1, s.reg r.1 &&& r.2)), gsn := s.gsn }] ∧
    (s.stage u g).fld (pendingFld u) = setBit (s.fld (pendingFld u)) g true % 256) ∧
  (∀ (s : State) (u g : Nat), (s.unstage u g).staged = s.staged.filter (fun x => !(x.unit == u && x.grp == g)) ∧
    (s.unstage u g).fld (pendingFld u) = setBit (s.fld (pendingFld u)) g false % 256) ∧
  (∀ (s : State) (u g : Nat), s.staged.find? (fun x => x.unit == u && x.grp == g) = none → s.commitAt u g = s) ∧
  (∀ (s : State) (u g : Nat) (st : Staged), s.staged.find? (fun x => x.unit == u && x.grp == g) = some st →
    s.commitOk st = true → s.commitAt u g = (s.activate st).afterCommit s st) ∧
  (∀ (s : State) (u g : Nat) (st : Staged), s.staged.find? (fun x => x.unit == u && x.grp == g) = some st → s.commitOk st = false →
    ∃ v : State, v = (s.unstage u g).setFld (lastRejFld u) (setBit ((s.unstage u g).fld (lastRejFld u)) g true) ∧
      s.commitAt u g = v.fire (rejectSrc u) ∧ v.active = s.active ∧
      v.staged = s.staged.filter (fun x => !(x.unit == u && x.grp == g)))

/-- The snapshot (R58), the re-arm of vectors and the MSI-X table (R64). SNAPSHOT that nothing bars: the holding view is what `capture`
captures, GT is latched, CHIP_SNAPSEQ counts, CHIP_SNAPMASK.NOTCAP has the bit of each domain that is not on and ready, nothing else
changes. EVT_REARM that nothing bars: with MSI-X enabled each named vector that is active and not masked is sent, in ascending order, and
each named active masked one is held in its pending bit; with MSI-X disabled nothing is sent. MSIX_UNMASK: `unmask` clears and `mask` sets
the entry's mask bit, `enable` writes the enable bit; after an `unmask` and an `enable` every held message of an entry that is not masked
is sent, in ascending order, where MSI-X is enabled, and its pending bit clears.
Completes: snapshot, evtRearm, msixUnmask. -/
def Obligations.SnapshotAndMessages : Prop :=
  (∀ (s : State) (rq : Req) (gt : Nat), s.barred rq Reg.CHIP_SNAP (some 1) = none →
    ∃ u, exec (.snapshot rq gt) s = .next u ∧
      u.holding = ((s.applyWrite rq Reg.CHIP_SNAP 1).respond [] true).capture ∧
      u.reg Reg.CHIP_SNAPGT_LO = BitVec.ofNat 32 gt ∧ u.reg Reg.CHIP_SNAPGT_HI = BitVec.ofNat 32 (gt / 2 ^ 32) ∧
      u.reg Reg.CHIP_SNAPSEQ = (s.applyWrite rq Reg.CHIP_SNAP 1).reg Reg.CHIP_SNAPSEQ + 1 ∧
      (∀ d, d < 21 → (u.fld F.CHIP_SNAPMASK_NOTCAP).testBit d = !s.domReady d) ∧
      u = { s with regs := u.regs, evt := u.evt, holding := u.holding }) ∧
  (∀ (s : State) (rq : Req) (v : Nat), s.barred rq Reg.EVT_REARM (some (BitVec.ofNat 32 (v % 65536))) = none →
    ∃ t, t = (s.applyWrite rq Reg.EVT_REARM (BitVec.ofNat 32 (v % 65536))).respond [] true ∧ ∃ u, exec (.evtRearm rq v) s = .next u ∧
      u.evt.sent = t.evt.sent ++ (if t.evt.msixEnabled then
        (List.range 16).filter (fun k => bit v k && (t.vecActive k && !t.evt.msixMask.getLsbD k)) else []) ∧
      (∀ k, k < 16 → u.evt.msixPend.getLsbD k =
        (t.evt.msixPend.getLsbD k || (t.evt.msixEnabled && (bit v k && (t.vecActive k && t.evt.msixMask.getLsbD k))))) ∧
      u = { t with evt := { t.evt with sent := u.evt.sent, msixPend := u.evt.msixPend } }) ∧
  (∀ (s : State) (v : Nat), exec (.msixUnmask (.unmask v)) s =
    .next (State.msiFlush { s with evt := { s.evt with msixMask := s.evt.msixMask &&& ~~~(1#16 <<< v) } })) ∧
  (∀ (s : State) (v : Nat), v < 16 →
    ∃ u, exec (.msixUnmask (.mask v)) s = .next u ∧ u.evt.msixMask.getLsbD v = true ∧
      (∀ k, k ≠ v → u.evt.msixMask.getLsbD k = s.evt.msixMask.getLsbD k) ∧
      u = { s with evt := { s.evt with msixMask := u.evt.msixMask } }) ∧
  (∀ (s : State) (b : Bool), exec (.msixUnmask (.enable b)) s =
    .next (State.msiFlush { s with evt := { s.evt with msixEnabled := b } })) ∧
  (∀ (s : State), s.msiFlush.evt.sent = s.evt.sent ++ (if s.evt.msixEnabled then
      (List.range 16).filter (fun k => s.evt.msixPend.getLsbD k && !s.evt.msixMask.getLsbD k) else []) ∧
    (∀ k, k < 16 → s.msiFlush.evt.msixPend.getLsbD k =
      (s.evt.msixPend.getLsbD k && !(s.evt.msixEnabled && !s.evt.msixMask.getLsbD k))) ∧
    s.msiFlush = { s with evt := { s.evt with sent := s.msiFlush.evt.sent, msixPend := s.msiFlush.evt.msixPend } })

/-- The SMBus commands (R482): SETADDR sets the address; WRITE32 and READ32 are a full-width access at it, answer a status octet, and
move the address on by 4. A bad packet error check ends the command with source 226 and nothing else.
Completes: smbSetaddr, smbWrite32, smbRead32. -/
def Obligations.SmbusCommands : Prop :=
  (∀ (s : State) (pec : Option Bool) (a : Nat), s.smbOk pec = true →
    ∃ u, exec (.smbSetaddr pec a) s = .next u ∧ u.hif.smbAddr = a % 2 ^ 32 ∧ u.evt.resp.ok = true ∧
      u = { s with evt := u.evt, hif := { s.hif with smbAddr := a % 2 ^ 32 } }) ∧
  (∀ (s : State) (pec : Option Bool) (v : Word), s.smbOk pec = true →
    ∃ u, exec (.smbWrite32 pec v) s = .next u ∧
      u.hif.smbAddr = ((s.writeAny smbReq s.hif.smbAddr (leOctets 4 v.toNat)).hif.smbAddr + 4) % 2 ^ 32 ∧
      u.evt.resp = { data := [smbStatus (s.accCause smbReq s.hif.smbAddr (some v))],
                     ok := (s.accCause smbReq s.hif.smbAddr (some v)).isNone } ∧
      u.regs = (s.writeAny smbReq s.hif.smbAddr (leOctets 4 v.toNat)).regs) ∧
  (∀ (s : State) (pec : Option Bool), s.smbOk pec = true → s.hif.smbAddr % 4 = 0 →
    ∃ u, exec (.smbRead32 pec) s = .next u ∧
      u.evt.resp = { data := leOctets 4 (s.readWord smbReq s.hif.smbAddr).1.toNat ++
                       [smbStatus (s.accCause smbReq s.hif.smbAddr none)],
                     ok := (s.accCause smbReq s.hif.smbAddr none).isNone } ∧
      u.regs = (s.readWord smbReq s.hif.smbAddr).2.regs) ∧
  (∀ (s : State) (a : Nat) (v : Word), s.sysOn →
    (∃ u, exec (.smbSetaddr (some false) a) s = .next u ∧ u.isPend 226 = true ∧ u = { s with regs := u.regs, evt := u.evt }) ∧
    (∃ u, exec (.smbWrite32 (some false) v) s = .next u ∧ u.isPend 226 = true ∧ u = { s with regs := u.regs, evt := u.evt }) ∧
    (∃ u, exec (.smbRead32 (some false)) s = .next u ∧ u.isPend 226 = true ∧ u = { s with regs := u.regs, evt := u.evt }))

/-! ### GTB (chapter 04) -/

/-- The time states of GTB (R76 to R80), of a GTB whose clock and domain run, with a source selected. INPUT_QUALIFIED with 50 good cycles in
FREE enters LOCK: GT is the whole cycles of the reference, or its own where there is none, with the measured phase corrected by the
sense delay, PHERR 0, source 32. In HOLD with a reference and an error of more than half a slot it enters STEPWAIT: SLOTS is the error
rounded to slots, STEPGSN the boundary 16 longest slotframes after the next, source 35. INPUT_LOST with a condition that held 20 ms, in
LOCK without a VALID anchor, enters HOLD, counted, with the holdover record saved. PHASE_JUMP_CONFIRMED of two cycles or more (below2 =
false) in LOCK enters SLEW with the error it brings, source 34. SLEW_DONE in SLEW: with more than 50 ns left the slew goes on with what
is left, else LOCK, source 32.
The model's own choices in it: log entries 26, 28.
Completes: inputQualified, inputLost, phaseJumpConfirmed, slewDone. -/
def Obligations.GtbTimeStates : Prop :=
  (∀ (s : State) (t : Time) (phase anchor peer freq thd amp : Nat), s.live 1 = true →
    s.fld F.GTB_CFG_SRC ≠ 3 → s.gtbState = 0 → 50 ≤ s.gtb.good →
    ∃ u, exec (.inputQualified t phase anchor peer freq thd amp) s = .next u ∧
      u.gtbState = 1 ∧ u.gtValid = true ∧
      u.gtb.gt = (((s.at t).refCycles anchor peer).getD (gcn t.gt) * cycleUnits +
        s.l1Phase (phase + nsToGt (s.fld F.GTB_SENSEDLY_NS) freq)) % 2 ^ 64 ∧
      u.gtb.freq = freq ∧ u.gtb.qualified = true ∧ u.on F.GTB_STATUS_QUALIFYING = false ∧
      u.fld F.GTB_PHERR_E = 0 ∧ (s.sysOn → u.isPend 32 = true) ∧
      u = { s with regs := u.regs, evt := u.evt, gtb := u.gtb } ∧
      s.regsEvt u [Reg.GTB_STATUS, Reg.GTB_QUAL, Reg.GTB_PHERR]) ∧
  (∀ (s : State) (t : Time) (anchor peer freq thd amp n : Nat) (phase : Nat), s.live 1 = true →
    s.fld F.GTB_CFG_SRC ≠ 3 → s.gtbState = 2 → 50 ≤ s.gtb.good → (s.at t).refCycles anchor peer = some n →
    cycleUnits < (gtDiff (n * cycleUnits + s.l1Phase (phase + nsToGt (s.fld F.GTB_SENSEDLY_NS) freq)) t.gt).natAbs * s.spc →
    within50ns (gtDiff (n * cycleUnits + s.l1Phase (phase + nsToGt (s.fld F.GTB_SENSEDLY_NS) freq)) t.gt) freq = false →
    ∃ u, exec (.inputQualified t phase anchor peer freq thd amp) s = .next u ∧ u.gtbState = 4 ∧
      u.fld F.GTB_STEP_SLOTS = unsigned 32 (roundSlots s.spc
        (gtDiff (n * cycleUnits + s.l1Phase (phase + nsToGt (s.fld F.GTB_SENSEDLY_NS) freq)) t.gt)) ∧
      u.fld F.GTB_STEPGSN_GSN = (gsnOf s.spc (s.at t).gtb.gt + 1 + 16 * s.longestSf) % 2 ^ 32 ∧ (s.sysOn → u.isPend 35 = true) ∧
      u = { s with regs := u.regs, evt := u.evt, gtb := u.gtb }) ∧
  (∀ (s : State) (t : Time) (refcnt : Nat) (m : Sense), s.live 1 = true → s.fld F.GTB_CFG_SRC ≠ 3 → s.badSense m = true → 20000 ≤ m.held →
    s.gtbState = 1 → s.gtb.anchorValid = false →
    ∃ u, exec (.inputLost t refcnt m) s = .next u ∧
      u.gtbState = 2 ∧ u.gtValid = true ∧ u.gtb.good = 0 ∧ u.gtb.qualified = false ∧
      u.on F.GTB_STATUS_QUALIFYING = true ∧ u.ctr Ctr.GTB_HOLDCNT = (s.ctr Ctr.GTB_HOLDCNT + 1) % 2 ^ 48 ∧
      (∃ r, u.gtb.holdRec = some r ∧ r.gt = t.gt % 2 ^ 64 ∧ r.refcnt = refcnt ∧ r.freq = s.gtb.freq ∧ r.state = 2) ∧
      u.on F.GTB_HOLDREC_RECVALID = true ∧ u = { s with regs := u.regs, evt := u.evt, gtb := u.gtb } ∧
      s.regsEvt u ([Reg.GTB_STATUS, Reg.GTB_HOLDREC] ++ halves Ctr.GTB_HOLDCNT)) ∧
  (∀ (s : State) (t : Time) (e : Int), s.live 1 = true → s.gtbState = 1 →
    ∃ u, exec (.phaseJumpConfirmed t false e) s = .next u ∧
      u.gtbState = 3 ∧ u.gtb.e = e ∧ u.gtb.slewFt = t.ft ∧ (s.sysOn → u.isPend 34 = true) ∧
      u = { s with regs := u.regs, evt := u.evt, gtb := u.gtb } ∧ s.regsEvt u [Reg.GTB_STATUS, Reg.GTB_PHERR]) ∧
  (∀ (s : State) (t : Time), s.live 1 = true → s.gtbState = 3 → within50ns (s.at t).slewLeft s.mainsFreq = false →
    ∃ u, exec (.slewDone t) s = .next u ∧ u.gtbState = 3 ∧ u.gtb.e = (s.at t).slewLeft ∧ u.gtb.slewFt = t.ft ∧
      u = { s with regs := u.regs, gtb := u.gtb } ∧ s.regsBut u [Reg.GTB_PHERR]) ∧
  (∀ (s : State) (t : Time), s.live 1 = true → s.gtbState = 3 → within50ns (s.at t).slewLeft s.mainsFreq = true →
    ∃ u, exec (.slewDone t) s = .next u ∧
      u.gtbState = 1 ∧ u.gtb.e = 0 ∧ (s.sysOn → u.isPend 32 = true) ∧
      u = { s with regs := u.regs, evt := u.evt, gtb := u.gtb } ∧ s.regsEvt u [Reg.GTB_STATUS, Reg.GTB_PHERR])

/-- The sensed mains, the holdover record and the UTC mapping (R65 to R67, R83, R85, R86), of a GTB whose clock and domain run.
MAINS_ZC_EDGE: the first crossing is kept with the sense delay taken off, its measurement shown in FREQ and summed, and counted as a
good cycle unless it is bad or long; with SRC 1 or 2 one closer than a quarter cycle after the last changes nothing but the time.
SENSE_DISAGREE with SRC 2 fires source 39. MAINS_THD_HIGH with SRC 0 or 2: at most 8 % clears DIST, above it DIST is set, with source 37
where it was clear. HOLDOVER_SAVE with GT valid saves the record: in HOLD with the frequency in use, HOLDS counting, else with the mean
of the last ten seconds, which becomes the frequency in use. PTP_SECOND_ROLLOVER with SRC 1 and PPS_EDGE with SRC 2 and a load armed
capture GT and the second, clear STALE and fire source 42. UTC_LOAD that nothing bars arms the load. UTC_STALE sets STALE, source 41.
While their domain is not ON or CORE_CLK is stopped, the events of GTB, of MSQ's slots and windows, of DMX's statistics, of a port's
history and noise floors, of the history budget and of the learning exchange do nothing but that INPUT_QUALIFIED and STEP_APPLY take the
time.
The model's own choices in it: log entries 10, 26, 135.
Completes: mainsZcEdge, senseDisagree, mainsThdHigh, holdoverSave, ptpSecondRollover, ppsEdge, utcLoad, utcStale. -/
def Obligations.GtbMainsAndUtc : Prop :=
  (∀ (s : State) (t : Time) (m : Sense) (refcnt n k d : Nat) (b : Bool) (e : Int) (p : PulseEnd) (x : LxRx) (l : List (Nat × List Nat)) (i : Instr),
    (d, i) ∈ [(1, Instr.mainsZcEdge t m), (1, .senseDisagree), (1, .inputLost t refcnt m), (1, .phaseJumpConfirmed t b e), (1, .slewDone t),
      (1, .holdoverSave t refcnt k), (1, .ptpSecondRollover t k), (1, .ppsEdge t), (1, .utcStale), (1, .cmpFire t n), (1, .pulseEdge t n),
      (1, .pulseWidthEnd p), (1, .mainsThdHigh k), (1, .oneSecondWindow t), (1, .slotBoundary t), (1, .statWindowEnd t),
      (1, .lxMessageReceive t x), (10 + n, .historyMarker t n k b), (10 + n, .noiseFloorUpdate n l b), (17, .historyWindowEnd k)] →
    s.live d = false → exec i s = .next s) ∧
  (∀ (s : State) (t : Time) (phase anchor peer freq thd amp : Nat), s.live 1 = false →
    exec (.inputQualified t phase anchor peer freq thd amp) s = .next (s.at t) ∧ exec (.stepApply t) s = .next (s.at t)) ∧
  (∀ (s : State) (t : Time) (m : Sense), s.live 1 = true → s.fld F.GTB_CFG_SRC ≠ 3 → s.gtb.lastZc = none →
    ∃ u, exec (.mainsZcEdge t m) s = .next u ∧
      u.gtb.lastZc = some (gtSub t.gt (nsToGt (s.fld F.GTB_SENSEDLY_NS) s.nomFreq)) ∧
      u.gtb.good = (if s.badSense m = true ∨ m.long = true then 0 else s.gtb.good + 1) ∧
      u.fld F.GTB_QUAL_FREQ = m.freq % 2 ^ F.GTB_QUAL_FREQ.w ∧ u.gtb.qsum = s.gtb.qsum + m.freq ∧ u.gtb.qn = s.gtb.qn + 1 ∧
      u.on F.GTB_STATUS_QUALIFYING = !s.gtb.qualified ∧ u = { s with regs := u.regs, evt := u.evt, gtb := u.gtb } ∧
      s.regsEvt u [Reg.GTB_QUAL, Reg.GTB_STATUS]) ∧
  (∀ (s : State) (t : Time) (m : Sense), s.live 1 = true → s.fld F.GTB_CFG_SRC = 1 ∨ s.fld F.GTB_CFG_SRC = 2 →
    s.gtb.lastZc.isSome = true →
    m.since * 4 * s.nomFreq < 10 ^ 12 → exec (.mainsZcEdge t m) s = .next (s.at t)) ∧
  (∀ s : State, s.live 1 = true → s.fld F.GTB_CFG_SRC = 2 → s.sysOn →
    ∃ u, exec .senseDisagree s = .next u ∧ u.isPend 39 = true ∧ u = { s with regs := u.regs, evt := u.evt } ∧ s.regsEvt u []) ∧
  (∀ (s : State) (thd : Nat), s.live 1 = true → s.fld F.GTB_CFG_SRC = 0 ∨ s.fld F.GTB_CFG_SRC = 2 → thd ≤ 80 →
    ∃ u, exec (.mainsThdHigh thd) s = .next u ∧ u.on F.GTB_QUAL_DIST = false ∧ u.fld F.GTB_QUAL_THD = thd ∧
      u = { s with regs := u.regs } ∧ s.regsBut u [Reg.GTB_QUAL]) ∧
  (∀ (s : State) (thd : Nat), s.live 1 = true → s.fld F.GTB_CFG_SRC = 0 ∨ s.fld F.GTB_CFG_SRC = 2 → 80 < thd → s.on F.GTB_QUAL_DIST = false →
    ∃ u, exec (.mainsThdHigh thd) s = .next u ∧ u.on F.GTB_QUAL_DIST = true ∧ u.fld F.GTB_QUAL_THD = thd % 1024 ∧
      (s.sysOn → u.isPend 37 = true) ∧ u = { s with regs := u.regs, evt := u.evt } ∧ s.regsEvt u [Reg.GTB_QUAL]) ∧
  (∀ (s : State) (t : Time) (refcnt freq : Nat), s.live 1 = true → s.gtValid = true →
    ∃ u, exec (.holdoverSave t refcnt freq) s = .next u ∧
      (∃ r, u.gtb.holdRec = some r ∧ r.gt = t.gt % 2 ^ 64 ∧ r.refcnt = refcnt ∧
        r.freq = (if s.gtbState = 2 then s.gtb.freq else
          (((s.gtb.freqs ++ [s.secondFreq freq]).drop (s.gtb.freqs.length + 1 - 10)).foldl (· + ·) 0) / min 10 (s.gtb.freqs.length + 1)) ∧
        r.state = s.gtbState) ∧
      (s.gtbState ≠ 2 → u.gtb.freqs = (s.gtb.freqs ++ [s.secondFreq freq]).drop (s.gtb.freqs.length + 1 - 120)) ∧
      u.gtb.qsum = 0 ∧ u.gtb.qn = 0 ∧ (s.gtbState ≠ 2 → ∀ r, u.gtb.holdRec = some r → u.gtb.freq = r.freq) ∧
      (s.gtbState = 2 → u.fld F.GTB_HOLDREC_HOLDS = (s.fld F.GTB_HOLDREC_HOLDS + 1) % 2 ^ F.GTB_HOLDREC_HOLDS.w) ∧
      u = { s with regs := u.regs, gtb := u.gtb } ∧ s.regsBut u [Reg.GTB_HOLDREC]) ∧
  (∀ (s : State) (t : Time) (sec : Nat), s.live 1 = true → s.fld F.GTB_UTCCFG_SRC = 1 → sec = ((s.at t).ptpNow + 500000000) / 1000000000 →
    ∃ u, exec (.ptpSecondRollover t sec) s = .next u ∧
      u.reg Reg.GTB_UTCGT_LO = BitVec.ofNat 32 (t.gt % 2 ^ 64) ∧
      u.fld F.GTB_UTCSEC_LO_SEC_LO = sec % 2 ^ 32 ∧
      u.on F.GTB_UTCSTAT_STALE = false ∧ u.gtb.utcRun = s.gtb.utcRun + 1 ∧
      (1 ≤ s.gtb.utcRun → u.on F.GTB_UTCSTAT_VALID = true) ∧ (s.sysOn → u.isPend 42 = true) ∧
      u = { s with regs := u.regs, evt := u.evt, gtb := u.gtb } ∧
      s.regsEvt u [Reg.GTB_UTCGT_LO, Reg.GTB_UTCGT_HI, Reg.GTB_UTCSEC_LO, Reg.GTB_UTCSEC_HI, Reg.GTB_UTCRATE, Reg.GTB_UTCSTAT]) ∧
  (∀ (s : State) (t : Time), s.live 1 = true → s.fld F.GTB_UTCCFG_SRC = 2 → s.gtb.utcLoad = true →
    ∃ u, exec (.ppsEdge t) s = .next u ∧
      u.fld F.GTB_UTCSEC_LO_SEC_LO = (s.fld F.GTB_UTCLOAD_LO_LOAD_LO + 2 ^ 32 * s.fld F.GTB_UTCLOAD_HI_LOAD_HI) % 2 ^ 32 ∧
      u.gtb.utcLoad = false ∧ u.gtb.utcNext = s.fld F.GTB_UTCLOAD_LO_LOAD_LO + 2 ^ 32 * s.fld F.GTB_UTCLOAD_HI_LOAD_HI + 1 ∧
      u.on F.GTB_UTCSTAT_STALE = false ∧ (s.sysOn → u.isPend 42 = true) ∧
      u = { s with regs := u.regs, evt := u.evt, gtb := u.gtb } ∧
      s.regsEvt u [Reg.GTB_UTCGT_LO, Reg.GTB_UTCGT_HI, Reg.GTB_UTCSEC_LO, Reg.GTB_UTCSEC_HI, Reg.GTB_UTCRATE, Reg.GTB_UTCSTAT]) ∧
  (∀ (s : State) (rq : Req) (v : Word), s.barred rq Reg.GTB_UTCCFG (some v) = none → F.GTB_UTCCFG_LOAD.ext v = 1 →
    ∃ u, exec (.utcLoad rq v) s = .next u ∧ u.gtb.utcLoad = true ∧ u.evt.resp = { data := [], ok := true } ∧
      u = { s with regs := u.regs, evt := u.evt, gtb := { s.gtb with utcLoad := true } }) ∧
  (∀ s : State, s.live 1 = true → s.on F.GTB_UTCSTAT_STALE = false →
    ∃ u, exec .utcStale s = .next u ∧ u.on F.GTB_UTCSTAT_STALE = true ∧ (s.sysOn → u.isPend 41 = true) ∧
      u = { s with regs := u.regs, evt := u.evt, gtb := { s.gtb with utcRun := 0 } } ∧ s.regsEvt u [Reg.GTB_UTCSTAT])

/-- Compares, pulse generators and legacy stamps (R90 to R94). CMP_ARM and PULSE_ARM are writes through view 0 to 3 (primary address, set,
clear, toggle) that write ARM as 1, CMP_DISARM one that writes it as 0, none of them barred; a clause says which views write what. CMP_ARM: the write, then the target is latched and STEPPED clears; a target not yet reached leaves ARM 1, LATE 0 and
FIRED as it was, one already reached leaves ARM 0, LATE 1, FIRED 1 and source 44. CMP_DISARM clears ARM and leaves FIRED. CMP_FIRE of an
armed compare that has reached its target: FIRED 1, ARM 0, source 44. PULSE_ARM: the write, then start and period are latched with the
first edge not yet past, ARM 1. PULSE_EDGE of an armed generator whose next edge is due: the pulse begins; with PER 0 ARM clears, else
the next edge is one period on. PULSE_WIDTH_END when the width is over ends the pulse. LEGSTAMP_READ that nothing bars, with a stamp
waiting, answers the word of the oldest and removes it. The events need a GTB whose clock and domain run.
The model's own choices in it: log entries 24, 25, 135.
Completes: cmpArm, cmpDisarm, cmpFire, pulseArm, pulseEdge, pulseWidthEnd, legstampRead. -/
def Obligations.GtbComparesAndPulses : Prop :=
  (∀ (s : State) (t : Time) (rq : Req) (n view : Nat) (v : Word), n < 8 → view < 4 →
    (s.at t).barred rq (Reg.GTB_CMPn n) (some v) = none → writesArm view v (s.on (F.GTB_CMPn_ARM n)) = some true →
    exec (.cmpArm t rq n view v) s = .next ((((s.at t).viewWrite rq (Reg.GTB_CMPn n) view v).respond [] true).cmpArm n)) ∧
  (∀ (s : State) (n : Nat), n < 8 →
    (s.cmpArm n).gtb = { s.gtb with
      cmpT := listSet s.gtb.cmpT n ((s.reg (Reg.GTB_CMPnT_LO n)).toNat + 2 ^ 32 * (s.reg (Reg.GTB_CMPnT_HI n)).toNat) } ∧
    (s.cmpArm n).on (F.GTB_CMPn_STEPPED n) = false ∧ s.regsEvt (s.cmpArm n) [Reg.GTB_CMPn n] ∧
    (State.cmpReached { s with gtb := (s.cmpArm n).gtb } n = false →
      (s.cmpArm n).on (F.GTB_CMPn_ARM n) = true ∧ (s.cmpArm n).on (F.GTB_CMPn_LATE n) = false ∧
        (s.cmpArm n).on (F.GTB_CMPn_FIRED n) = s.on (F.GTB_CMPn_FIRED n)) ∧
    (State.cmpReached { s with gtb := (s.cmpArm n).gtb } n = true →
      (s.cmpArm n).on (F.GTB_CMPn_ARM n) = false ∧ (s.cmpArm n).on (F.GTB_CMPn_LATE n) = true ∧
        (s.cmpArm n).on (F.GTB_CMPn_FIRED n) = true ∧ (s.sysOn → (s.cmpArm n).isPend 44 = true))) ∧
  (∀ (s : State) (rq : Req) (n view : Nat) (v : Word), n < 8 → view < 4 → s.barred rq (Reg.GTB_CMPn n) (some v) = none →
    writesArm view v (s.on (F.GTB_CMPn_ARM n)) = some false →
    ∃ u, exec (.cmpDisarm rq n view v) s = .next u ∧ u.on (F.GTB_CMPn_ARM n) = false ∧
      u.on (F.GTB_CMPn_FIRED n) = s.on (F.GTB_CMPn_FIRED n) ∧ u.evt.resp = { data := [], ok := true } ∧
      s.regsBut u [Reg.GTB_CMPn n] ∧ u = { s with regs := u.regs, evt := u.evt }) ∧
  (∀ (s : State) (t : Time) (n : Nat), s.live 1 = true → n < 8 → s.on (F.GTB_CMPn_ARM n) = true → (s.at t).cmpReached n = true →
    ∃ u, exec (.cmpFire t n) s = .next u ∧ u.on (F.GTB_CMPn_FIRED n) = true ∧ u.on (F.GTB_CMPn_ARM n) = false ∧
      (s.sysOn → u.isPend 44 = true) ∧ u = { s with regs := u.regs, evt := u.evt, gtb := (s.at t).gtb } ∧
      s.regsEvt u [Reg.GTB_CMPn n]) ∧
  (∀ (s : State) (t : Time) (rq : Req) (n view : Nat) (v : Word), n < 8 → view < 4 →
    (s.at t).barred rq (Reg.GTB_PLSn n) (some v) = none → writesArm view v (s.on (F.GTB_PLSn_ARM n)) = some true →
    exec (.pulseArm t rq n view v) s = .next ((((s.at t).viewWrite rq (Reg.GTB_PLSn n) view v).respond [] true).pulseArm n)) ∧
  (∀ (s : State) (n : Nat), n < 8 → ∃ st, st = (s.reg (Reg.GTB_PLSnST_LO n)).toNat + 2 ^ 32 * (s.reg (Reg.GTB_PLSnST_HI n)).toNat ∧
    (s.pulseArm n).gtb = { s.gtb with pulses := listSet s.gtb.pulses n { (s.gtb.pulses.getD n {}) with
      start := st, per := s.fld (F.GTB_PLSnPER_PER n), next := firstEdge st (s.fld (F.GTB_PLSnPER_PER n)) s.gtb.gt } } ∧
    (s.pulseArm n).on (F.GTB_PLSn_ARM n) = true ∧ s.regsBut (s.pulseArm n) [Reg.GTB_PLSn n] ∧
    s.pulseArm n = { s with regs := (s.pulseArm n).regs, gtb := (s.pulseArm n).gtb }) ∧
  (∀ (v : Word) (armed : Bool), writesArm 0 v armed = some (v.getLsbD 0) ∧
    writesArm 1 v armed = (if v.getLsbD 0 = true then some true else none) ∧
    writesArm 2 v armed = (if v.getLsbD 0 = true then some false else none) ∧
    writesArm 3 v armed = (if v.getLsbD 0 = true then some (!armed) else none)) ∧
  (∀ (s : State) (t : Time) (n nx : Nat), s.live 1 = true → n < 8 → (s.gtb.pulses.getD n {}).next = some nx → s.on (F.GTB_PLSn_ARM n) = true →
    0 ≤ gtDiff t.gt nx →
    ∃ u, exec (.pulseEdge t n) s = .next u ∧
      u.gtb.pulses = listSet s.gtb.pulses n
        { start := if s.fld (F.GTB_PLSnPER_PER n) = 0 ∨ s.fld (F.GTB_PLSnPER_PER n) = (s.gtb.pulses.getD n {}).per then
            (s.gtb.pulses.getD n {}).start else nx,
          per := s.fld (F.GTB_PLSnPER_PER n), busy := true,
          fin := gtAdd nx (nsToGt (10 * s.fld (F.GTB_PLSn_WIDTH n)) s.mainsFreq),
          next := if s.fld (F.GTB_PLSnPER_PER n) = 0 then none else some (gtAdd nx (s.fld (F.GTB_PLSnPER_PER n))) } ∧
      u.on (F.GTB_PLSn_ARM n) = (s.fld (F.GTB_PLSnPER_PER n) != 0) ∧
      u = { s with regs := u.regs, gtb := u.gtb } ∧ s.regsBut u [Reg.GTB_PLSn n]) ∧
  (∀ (s : State) (t : Time) (n : Nat), s.live 1 = true → (s.gtb.pulses.getD n {}).busy = true → 0 ≤ gtDiff t.gt (s.gtb.pulses.getD n {}).fin →
    ∃ u, exec (.pulseWidthEnd ⟨t, n⟩) s = .next u ∧
    u = { s with gtb := { (s.at t).gtb with pulses := listSet s.gtb.pulses n { (s.gtb.pulses.getD n {}) with busy := false } } }) ∧
  (∀ (s : State) (rq : Req) (p : Nat × Nat) (rest : List (Nat × Nat)), s.barred rq Reg.GTB_LEGSTAMP none = none →
    s.gtb.stamps = p :: rest →
    ∃ u, exec (.legstampRead rq) s = .next u ∧
      u.evt.resp = { data := leOctets 4 s.legWord.toNat, ok := true } ∧
      u = { s with evt := u.evt, gtb := { s.gtb with stamps := rest, stampOvf := false } })

/-- A step of the grid (R79, R81): STEP_APPLY in STEPWAIT at or after the step's slot, of a GTB whose clock and domain run. GT jumps by the
scheduled whole slots, the schedule is cleared, source 36 fires, and GTB is in LOCK or SLEW; outside registers, events and GTB the state
is what `restep` makes of it, which moves times of RFP, MSQ, CDC, DMX, SIC and the received frames that wait, and nothing else (R82;
how, is read by inference, log entries 135, 150).
Completes: stepApply. -/
def Obligations.GtbStepApplies : Prop :=
  ∀ (s : State) (t : Time), s.live 1 = true → s.gtbState = 4 → 0 ≤ gsnDiff (gsnOf s.spc t.gt) (s.fld F.GTB_STEPGSN_GSN) →
    ∃ u, exec (.stepApply t) s = .next u ∧
      u.gtb.gt = jumpSlots s.spc (t.gt % 2 ^ 64) (signed 32 (s.fld F.GTB_STEP_SLOTS)) ∧
      (u.gtbState = 1 ∨ u.gtbState = 3) ∧ u.fld F.GTB_STEP_SLOTS = 0 ∧ u.fld F.GTB_STEPGSN_GSN = 0 ∧ (s.sysOn → u.isPend 36 = true) ∧
      ∃ r, r = s.restep (gtDiff u.gtb.gt (t.gt % 2 ^ 64)) ∧
        u = { r with regs := u.regs, evt := u.evt, gtb := u.gtb } ∧
        s = { r with rfp := s.rfp, msq := s.msq, cdc := s.cdc, dmx := s.dmx, sic := s.sic, inbox := s.inbox }

/-! ### RFP: links, proxy, history, assessments, streams (chapter 05) -/

/-- The link states of R99. SYSREF_EDGE in WAITSYS enters LOCKING, a misaligned edge in UP fires source 57. LINK_LOCK in LOCKING enters UP
with LOCK and CLKOK set, RXLAT and TXLAT the sums of R100, and source 52 + n. LINK_LOCK_TIMEOUT in LOCKING goes to WAITSYS and counts
RFPn_LINKDN. DCLK_CHECK_WINDOW in CLKCHK: within 10 ppm it enters WAITSYS with CLKOK set, otherwise it stays with CLKOK clear; what
within 10 ppm means. Nothing but the registers named, events, and the state of GTB's clock and of the ports changes.
Completes: sysrefEdge, linkLock, linkLockTimeout, dclkCheckWindow. -/
def Obligations.RfpLinkStates : Prop :=
  (∀ (s : State) (n : Nat) (al : Bool), n < 4 → s.link n = 2 →
    ∃ u, exec (.sysrefEdge n al) s = .next u ∧ u.link n = 3 ∧ s.regsBut u [Reg.RFPn_LSTAT n] ∧ u = { s with regs := u.regs }) ∧
  (∀ (s : State) (n : Nat), n < 4 → s.link n = 4 → s.sysOn →
    ∃ u, exec (.sysrefEdge n false) s = .next u ∧ u.isPend 57 = true ∧ s.regsEvt u [] ∧
      u = { s with regs := u.regs, evt := u.evt }) ∧
  (∀ (s : State) (t : Time) (n period : Nat) (m : LinkLat), n < 4 → s.link n = 3 →
    ∃ u, exec (.linkLock t n m period) s = .next u ∧
      u.link n = 4 ∧ u.on (F.RFPn_LSTAT_CLKOK n) = true ∧
      u.fld (F.RFPn_LSTAT_LOCK n) = (if s.on (F.RFPn_LINK_LANES n) then 3 else 1) ∧
      u.fld (F.RFPn_LAT_RXLAT n) = (s.fld (F.RFPn_TIMING_CONVLAT n) + m.lat) % 2 ^ 16 ∧
      u.fld (F.RFPn_LAT_TXLAT n) = (s.fld (F.RFPn_TIMING_TXCONVLAT n) + m.txlat) % 2 ^ 16 ∧
      (s.sysOn → u.isPend (52 + n) = true) ∧
      s.regsEvt u [Reg.RFPn_LSTAT n, Reg.RFPn_LAT n] ∧ u = { s with regs := u.regs, evt := u.evt, gtb := (s.at t).gtb, rfp := u.rfp }) ∧
  (∀ (s : State) (n : Nat), n < 4 → s.link n = 3 →
    ∃ u, exec (.linkLockTimeout n) s = .next u ∧ u.link n = 2 ∧
      u.ctr (Ctr.RFPn_LINKDN n) = (s.ctr (Ctr.RFPn_LINKDN n) + 1) % 2 ^ 48 ∧
      s.regsBut u (Reg.RFPn_LSTAT n :: halves (Ctr.RFPn_LINKDN n)) ∧ u = { s with regs := u.regs }) ∧
  (∀ (s : State) (t : Time) (n c e : Nat), n < 4 → s.link n = 1 → within10ppm c e = true →
    ∃ u, exec (.dclkCheckWindow t n c e) s = .next u ∧ u.link n = 2 ∧ u.on (F.RFPn_LSTAT_CLKOK n) = true ∧
      s.regsBut u [Reg.RFPn_LSTAT n] ∧ u = { s with regs := u.regs, gtb := u.gtb, rfp := u.rfp }) ∧
  (∀ (s : State) (t : Time) (n c e : Nat), n < 4 → s.link n = 1 → within10ppm c e = false →
    ∃ u, exec (.dclkCheckWindow t n c e) s = .next u ∧ u.link n = 1 ∧ u.on (F.RFPn_LSTAT_CLKOK n) = false ∧
      s.regsEvt u [Reg.RFPn_LSTAT n] ∧ u = { s with regs := u.regs, evt := u.evt, gtb := u.gtb, rfp := u.rfp }) ∧
  (∀ (c e : Nat), within10ppm c e = true ↔ 100000 * c ≤ 100001 * e ∧ 99999 * e ≤ 100000 * c)

/-- A link leaves UP (R99, R146). LINK_DOWN in UP with a lost lane or at least 16 errors counts the errors and is `linkExit` to WAITSYS; 1
to 15 errors are counted and the link stays UP. A clock window outside 10 ppm in UP clears CLKOK and is `linkExit` to CLKCHK, with
source 56 where the last window was good. `linkExit` of a port without streams, while no lane holds a frame: the state is the new one,
LOCK is 0, RFPn_LINKDN has counted, the history has a gap, an assessment whose window has not ended will measure nothing, source 48 + n
is pending.
The model's own choices in it: log entries 92.
Completes: linkDown, dclkCheckWindow. -/
def Obligations.RfpLinkExit : Prop :=
  (∀ (s : State) (t : Time) (n : Nat) (e : LinkErrs), n < 4 → s.link n = 4 → e.lost = true ∨ 16 ≤ e.errs →
    exec (.linkDown t n e) s = .next ((if e.errs = 0 then s.at t else (s.at t).bump (Ctr.RFPn_CRCERR n) e.errs).linkExit t n 2)) ∧
  (∀ (s : State) (t : Time) (n errs : Nat), n < 4 → s.link n = 4 → 0 < errs → errs < 16 →
    ∃ u, exec (.linkDown t n ⟨errs, false⟩) s = .next u ∧ u.link n = 4 ∧
      u.ctr (Ctr.RFPn_CRCERR n) = (s.ctr (Ctr.RFPn_CRCERR n) + errs) % 2 ^ 48 ∧ s.regsBut u (halves (Ctr.RFPn_CRCERR n)) ∧
      u = { s with regs := u.regs, gtb := u.gtb }) ∧
  (∀ (s : State) (t : Time) (n c e : Nat), n < 4 → s.link n = 4 → within10ppm c e = false →
    exec (.dclkCheckWindow t n c e) s = .next (State.fireIf
      ((((s.at t).setPort n { s.port n with clkBad := true }).setFlag (F.RFPn_LSTAT_CLKOK n) false).linkExit t n 1)
      (!(s.port n).clkBad) 56)) ∧
  (∀ (s : State) (t : Time) (n dest : Nat), n < 4 → dest < 8 → n < s.rfp.ports.length →
    (s.port n).streams = [] → s.dmx.lanes = [] → s.sysOn → s.sup.fs ≠ .restart → s.sup.halted = false →
    (s.linkExit t n dest).link n = dest ∧ (s.linkExit t n dest).fld (F.RFPn_LSTAT_LOCK n) = 0 ∧
    (s.linkExit t n dest).ctr (Ctr.RFPn_LINKDN n) = (s.ctr (Ctr.RFPn_LINKDN n) + 1) % 2 ^ 48 ∧
    ((s.linkExit t n dest).port n).gap = true ∧
    ((s.linkExit t n dest).port n).ccas = (s.port n).ccas.map (fun c =>
      if gtDiff s.gtb.gt c.fin ≤ 0 then { c with down := true } else c) ∧
    (s.linkExit t n dest).isPend (48 + n) = true)

/-- The converter proxy (R49, R101, R102). PROXY_CMD that nothing bars while BUSY is 0: with the port's domain on and its link not OFF the
transaction of the value's fields is in flight, BUSY is set, VALID and ERR clear and RFP_PXCMD reads as before; with the link OFF it is
not sent and ERR is set. While BUSY is 1 PROXY_CMD changes nothing of RFP and leaves RFP_PXCMD. PW_LAND of a transaction that was not
sent lands the value: RFP_PXCMD reads it without its reserved bits, BUSY clears. PROXY_COMPLETE of one that was sent lands the value,
and of a read gives the data, VALID and source 62. Words of CFG that wait then follow (`convDrain`); with none waiting, or with BUSY
set, that does nothing.
The model's own choices in it: log entries 112, 132.
Completes: proxyCmd, pwLand, proxyComplete. -/
def Obligations.RfpProxy : Prop :=
  (∀ (s : State) (rq : Req) (v : Word), s.on F.RFP_STATUS_BUSY = false → s.barred rq Reg.RFP_PXCMD (some v) = none →
    s.domReady (10 + F.RFP_PXCMD_PORT.ext v) = true → s.link (F.RFP_PXCMD_PORT.ext v) ≠ 0 →
    ∃ u, exec (.proxyCmd rq v) s = .next u ∧
      u.rfp.proxy = some
        { port := F.RFP_PXCMD_PORT.ext v, rd := F.RFP_PXCMD_RD.ext v == 1, addr := F.RFP_PXCMD_ADDR.ext v,
          data := F.RFP_PXCMD_DATA.ext v, word := v, sent := true } ∧
      u.on F.RFP_STATUS_BUSY = true ∧ u.reg Reg.RFP_PXCMD = s.reg Reg.RFP_PXCMD ∧ u.on F.RFP_PXRD_VALID = false ∧
      u.on F.RFP_PXRD_ERR = false ∧ u.evt.resp.ok = true) ∧
  (∀ (s : State) (rq : Req) (v : Word), s.on F.RFP_STATUS_BUSY = false → s.barred rq Reg.RFP_PXCMD (some v) = none →
    s.link (F.RFP_PXCMD_PORT.ext v) = 0 →
    ∃ u, exec (.proxyCmd rq v) s = .next u ∧
      u.rfp.proxy = some
        { port := F.RFP_PXCMD_PORT.ext v, rd := F.RFP_PXCMD_RD.ext v == 1, addr := F.RFP_PXCMD_ADDR.ext v,
          data := F.RFP_PXCMD_DATA.ext v, word := v, sent := false } ∧
      u.on F.RFP_STATUS_BUSY = true ∧ u.on F.RFP_PXRD_VALID = false ∧ u.on F.RFP_PXRD_ERR = true) ∧
  (∀ (s : State) (rq : Req) (v : Word), s.on F.RFP_STATUS_BUSY = true → s.barred rq Reg.RFP_PXCMD (some v) = none →
    exec (.proxyCmd rq v) s = .next ((s.applyWrite rq Reg.RFP_PXCMD v).respond [] true) ∧
    (s.applyWrite rq Reg.RFP_PXCMD v).rfp = s.rfp ∧ (s.applyWrite rq Reg.RFP_PXCMD v).reg Reg.RFP_PXCMD = s.reg Reg.RFP_PXCMD) ∧
  (∀ (s : State) (px : Proxy), s.rfp.proxy = some px → px.sent = false →
    exec (.pwLand 3) s = .next (s.proxyLand px).convDrain) ∧
  (∀ (s : State) (px : Proxy) (d : Nat), s.rfp.proxy = some px → px.sent = true →
    exec (.proxyComplete d) s = .next (s.proxyEnd px d).convDrain) ∧
  (∀ (s : State) (px : Proxy), ∃ u, u = s.proxyLand px ∧ u.rfp = { s.rfp with proxy := none } ∧ u.on F.RFP_STATUS_BUSY = false ∧
    u.reg Reg.RFP_PXCMD = px.word &&& 0x07FFFFFF ∧ s.regsBut u [Reg.RFP_STATUS, Reg.RFP_PXCMD] ∧
    u = { s with regs := u.regs, rfp := u.rfp }) ∧
  (∀ (s : State) (px : Proxy) (d : Nat), px.rd = true →
    ∃ u, u = s.proxyEnd px d ∧ u.rfp = { s.rfp with proxy := none } ∧ u.on F.RFP_STATUS_BUSY = false ∧
      u.fld F.RFP_PXRD_DATA = d % 2 ^ 8 ∧ u.on F.RFP_PXRD_VALID = true ∧ (s.sysOn → u.isPend 62 = true) ∧
      u.reg Reg.RFP_PXCMD = px.word &&& 0x07FFFFFF ∧ s.regsEvt u [Reg.RFP_STATUS, Reg.RFP_PXRD, Reg.RFP_PXCMD] ∧
      u = { s with regs := u.regs, evt := u.evt, rfp := u.rfp }) ∧
  (∀ (s : State) (px : Proxy) (d : Nat), px.rd = false → s.proxyEnd px d = s.proxyLand px) ∧
  (∀ (s : State), s.rfp.convWait = [] → s.convDrain = s) ∧
  (∀ (s : State), s.on F.RFP_STATUS_BUSY = true → s.convDrain = s)

/-- The sample history (R106 to R108, R404). HISTORY_MARKER of a port whose clock and domain run moves the port count on by 4,096 and keeps
the markers that the ring still holds; the newest has the moment less RXLAT, and VALID where the samples came whole with the link UP and
no gap before. HISTORY_READ numbers a read by port counts; one that ends more than 4 ms ahead ends FUTURE at once and, for SIC, is made
again. The outcomes: FUTURE, none yet, OVERWRITTEN, GAP, each by when the range ends and what the markers say. The end of a read takes
it off the list, tells its outcome, and counts and fires source 59 where OVERWRITTEN, fires it where GAP. HISTORY_READ_DONE of a read
that has an outcome ends it and hands it to its reader. HISTORY_WINDOW_END over 8,000,000 octets, with the clock and MEM's domain on,
counts and fires source 209.
The model's own choices in it: log entries 29, 136.
Completes: historyMarker, historyRead, historyReadDone, historyWindowEnd. -/
def Obligations.RfpHistory : Prop :=
  (∀ (s : State) (t : Time) (n missed : Nat) (valid : Bool), s.live (10 + n) = true → n < s.rfp.ports.length →
    ∃ u, exec (.historyMarker t n missed valid) s = .next u ∧ (u.port n).count = (s.port n).count + 4096 ∧
      (u.port n).gap = (s.link n != 4) ∧
      (u.port n).markers.getLast? = some
        { count := (s.port n).count + 4096, gt := gtSub t.gt (nsToGt (s.fld (F.RFPn_LAT_RXLAT n)) s.mainsFreq),
          valid := valid && (s.link n == 4 && !(s.port n).gap && missed == 0) } ∧
      (∀ m ∈ (u.port n).markers, (u.port n).count ≤ m.count + s.ringLen n + 8192) ∧
      (∀ m ∈ (s.port n).markers, (u.port n).count ≤ m.count + s.ringLen n + 8192 → m ∈ (u.port n).markers) ∧
      u = { s with gtb := u.gtb, rfp := u.rfp }) ∧
  (∀ (s : State) (rd : HistReader) (tag p start count : Nat) (r : HistRead),
    r = { id := s.rfp.nextRead, reader := rd, tag := tag, port := p, start := s.countAt p start, count := count,
          addr := s.histAddr p (s.countAt p start) } → s.histOutcome r ≠ some .future →
    exec (.historyRead rd tag p start count) s =
      .next { s with rfp := { s.rfp with reads := s.rfp.reads ++ [r], nextRead := s.rfp.nextRead + 1 } }) ∧
  (∀ (s : State) (tag p start count : Nat) (r : HistRead),
    r = { id := s.rfp.nextRead, reader := .sic, tag := tag, port := p, start := s.countAt p start, count := count,
          addr := s.histAddr p (s.countAt p start) } → s.histOutcome r = some .future →
    ∃ u, exec (.historyRead .sic tag p start count) s = .next u ∧ u.rfp.lastRead = some (r.id, .future) ∧
      u.rfp.nextRead = s.rfp.nextRead + 2 ∧
      u.rfp.reads = s.rfp.reads.filter (fun x => x.id != r.id) ++ [{ r with id := s.rfp.nextRead + 1 }] ∧ u = { s with rfp := u.rfp }) ∧
  (∀ (s : State) (rd : HistReader) (tag p start count : Nat) (r : HistRead), rd ≠ .sic →
    r = { id := s.rfp.nextRead, reader := rd, tag := tag, port := p, start := s.countAt p start, count := count,
          addr := s.histAddr p (s.countAt p start) } → s.histOutcome r = some .future →
    ∃ u, exec (.historyRead rd tag p start count) s = .next u ∧ u.rfp.lastRead = some (r.id, .future) ∧
      u.rfp.nextRead = s.rfp.nextRead + 1 ∧
      u.rfp.reads = s.rfp.reads.filter (fun x => x.id != r.id) ∧ u = { s with rfp := u.rfp }) ∧
  (∀ (s : State) (r : HistRead) (new last : Nat), new = s.newest r.port → last = r.start + r.count - 1 →
    (s.histOutcome r = some .future ↔ new + 4 * s.fld (F.RFPn_RXFS_FS r.port) < last) ∧
    (s.histOutcome r = none ↔ new < last ∧ last ≤ new + 4 * s.fld (F.RFPn_RXFS_FS r.port)) ∧
    (s.histOutcome r = some .overwritten ↔ last ≤ new ∧ r.start + s.ringLen r.port ≤ new) ∧
    (s.histOutcome r = some .gap ↔ last ≤ new ∧ new < r.start + s.ringLen r.port ∧
      ∃ m ∈ (s.port r.port).markers, m.valid = false ∧ r.start ≤ m.count ∧ m.count < last + 4096)) ∧
  (∀ (s : State) (r : HistRead), s.sysOn →
    (s.histEnd r .overwritten).ctr (Ctr.RFPn_OVWR r.port) = (s.ctr (Ctr.RFPn_OVWR r.port) + 1) % 2 ^ 48 ∧
    (s.histEnd r .overwritten).isPend 59 = true ∧ (s.histEnd r .gap).isPend 59 = true ∧
    (s.histEnd r .overwritten).rfp.lastRead = some (r.id, .overwritten) ∧
    (∀ o, ∀ x ∈ (s.histEnd r o).rfp.reads, x.id ≠ r.id)) ∧
  (∀ (s : State) (t : Time) (id : Nat) (r : HistRead) (o : HistOutcome), s.rfp.reads.find? (fun x => x.id == id) = some r →
    (s.at t).histOutcome r = some o → r.reader = .sic →
    exec (.historyReadDone t id) s = .next (((s.at t).histEnd r o).sicReadDone r o)) ∧
  (∀ (s : State) (t : Time) (id : Nat) (r : HistRead) (o : HistOutcome), s.rfp.reads.find? (fun x => x.id == id) = some r →
    (s.at t).histOutcome r = some o → r.reader = .dmx →
    exec (.historyReadDone t id) s = .next (((s.at t).histEnd r o).laneReadDone t r o)) ∧
  (∀ (s : State) (t : Time) (id : Nat) (r : HistRead) (o : HistOutcome), s.rfp.reads.find? (fun x => x.id == id) = some r →
    (s.at t).histOutcome r = some o → r.reader = .msq →
    exec (.historyReadDone t id) s = .next (((s.at t).histEnd r o).searchReadDone r o)) ∧
  (∀ (s : State) (oct : Nat), s.sysOn → s.live 17 = true → 8000000 < oct →
    ∃ u, exec (.historyWindowEnd oct) s = .next u ∧ u.ctr Ctr.MEM_HISTOVR = (s.ctr Ctr.MEM_HISTOVR + 1) % 2 ^ 48 ∧
      u.isPend 209 = true ∧ s.regsEvt u (halves Ctr.MEM_HISTOVR) ∧ u = { s with regs := u.regs, evt := u.evt })

/-- The noise floor and the clear-channel assessment (R109 to R111, R217). NOISE_FLOOR_UPDATE of a port whose clock and domain run, with
nothing staged for the port: the sixteenth idle millisecond of an enabled slice sets NF to the code of the mean of the sixteen minima
and VALID, and idleness starts again; clipping fires source 63. CCA_REQUEST queues the assessment with its threshold in dBFS and its
window from now; with 32 queued already, or the link not UP, it will measure nothing. CCA_RESULT after the window: a CLEAR answer for
BGT takes the assessment off and counts BGT_CCACLR; any other answer is handed to `ccaBusyFor`, the shared end of a busy channel. The
answer is CLEAR exactly where the whole window was measured, nothing of its own was on the air, and no energy and no carrier that the
request asks about was there.
The model's own choices in it: log entries 12, 136.
Completes: noiseFloorUpdate, ccaRequest, ccaResult. -/
def Obligations.RfpAssessments : Prop :=
  (∀ (s : State) (n k : Nat) (l : List Nat) (a : Nat) (w : List Nat), s.live (10 + n) = true → n < 4 → k < 128 →
    n < s.rfp.ports.length → s.staged.find? (fun x => x.unit == 3 && x.grp == n) = none →
    s.sliceOn n k = true → (s.port n).msBusy.contains k = false → s.blanked n k = false → s.laneOn n k = false →
    (s.port n).nf.find k = some l → l.length = 16 →
    ∃ u, exec (.noiseFloorUpdate n [(k, a :: w)] false) s = .next u ∧
      u.fld (F.RFPn_SLkNF_NF n k) = meanFloor (l.drop 1 ++ [w.foldl min a]) % 2 ^ 11 ∧
      u.on (F.RFPn_SLkNF_VALID n k) = true ∧ (u.port n).msBusy = [] ∧
      s.regsBut u [Reg.RFPn_SLkNF n k] ∧ u = { s with regs := u.regs, rfp := u.rfp }) ∧
  (∀ (s : State) (n : Nat), s.live (10 + n) = true → s.sysOn → s.staged.find? (fun x => x.unit == 3 && x.grp == n) = none →
    ∃ u, exec (.noiseFloorUpdate n [] true) s = .next u ∧ u.isPend 63 = true ∧
      u = { s with regs := u.regs, evt := u.evt, rfp := u.rfp }) ∧
  (∀ (s : State) (t : Time) (id : Nat) (us : TxUser) (n k win : Nat) (thr : Int) (e c : Bool), n < s.rfp.ports.length →
    ∃ u, exec (.ccaRequest t id us n k win thr ⟨e, c⟩) s = .next u ∧
      (u.port n).ccas = (s.port n).ccas ++ [
        { id := id, user := us, slice := k, win := win, thr := thr,
          dbfs := thr - signed 12 (s.actFld (F.RFPn_GAIN_GAINOFS n)), energy := e, carrier := c,
          noMeas := decide (32 ≤ (s.port n).ccas.length), own := false, hit := false, down := s.link n != 4, opn := t.gt,
          fin := gtAdd t.gt (nsToGt (win * 16000) s.mainsFreq) }] ∧
      (∀ m, m ≠ n → u.port m = s.port m) ∧ u = { s with gtb := (s.at t).gtb, rfp := u.rfp }) ∧
  (∀ (s : State) (t : Time) (id n : Nat) (c : Cca) (powers : List Nat),
    ((s.at t).markOwn.port n).ccas.find? (fun (c : Cca) => c.id == id) = some c →
    n < s.rfp.ports.length → 0 ≤ gtDiff t.gt c.fin → c.answer powers = .clear → c.user = .bgt →
    ∃ u, exec (.ccaResult t id n powers) s = .next u ∧ (u.port n).ccas = ((s.at t).markOwn.port n).ccas.erase c ∧
      u.rfp.lastCca = some (id, .clear) ∧
      u.ctr Ctr.BGT_CCACLR = (s.ctr Ctr.BGT_CCACLR + 1) % 2 ^ 48 ∧ s.regsBut u (halves Ctr.BGT_CCACLR) ∧
      u = { s with regs := u.regs, gtb := u.gtb, rfp := u.rfp }) ∧
  (∀ (s : State) (t : Time) (id n : Nat) (c : Cca) (powers : List Nat),
    ((s.at t).markOwn.port n).ccas.find? (fun (c : Cca) => c.id == id) = some c →
    0 ≤ gtDiff t.gt c.fin → c.answer powers ≠ .clear →
    exec (.ccaResult t id n powers) s = .next (((s.at t).markOwn.answered n id c (c.answer powers)).ccaBusyFor c)) ∧
  (∀ (c : Cca) (powers : List Nat), c.answer powers = .clear ↔
    c.noMeas = false ∧ c.down = false ∧ c.win ≤ powers.length ∧ c.own = false ∧
      (c.energy = true → ∀ x ∈ powers, reached x c.dbfs = false) ∧ (c.carrier = true → c.hit = false))

/-- Reserving a transmit stream (R112, R113). TX_RESERVE at SL0 changes nothing but the time. At another level, where the checks pass with
profile j, the stream is appended with its number and j; where they refuse, nothing is reserved, RFPn_PROFREF counts and the reason is
kept. The checks refuse a link not UP (link), then a slice not enabled (noSlice); where they pass, the link is UP, the slice enabled, j
holds the channel and is the profile of every overlapping stream, and MAXTX is reached neither at the start nor where an overlapping
stream begins within the interval.
The model's own choices in it: log entries 136.
Completes: txReserve. -/
def Obligations.RfpReserve : Prop :=
  (∀ (s : State) (t : Time) (us : TxUser) (n k st dur : Nat), s.level = 0 → exec (.txReserve t us n k st dur) s = .next (s.at t)) ∧
  (∀ (s : State) (t : Time) (us : TxUser) (n k st dur j : Nat), n < s.rfp.ports.length → s.level ≠ 0 →
    (s.at t).reserveCheck n k st dur = .inr j →
    ∃ u, exec (.txReserve t us n k st dur) s = .next u ∧
      (u.port n).streams = (s.port n).streams ++ [{ id := s.rfp.nextTx, user := us, slice := k, start := st, dur := dur, prof := j, active := false }] ∧
      u.rfp.nextTx = s.rfp.nextTx + 1 ∧ (∀ m, m ≠ n → u.port m = s.port m) ∧ u = { s with gtb := u.gtb, rfp := u.rfp }) ∧
  (∀ (s : State) (t : Time) (us : TxUser) (n k st dur : Nat) (r : ResRefusal), s.level ≠ 0 → (s.at t).reserveCheck n k st dur = .inl r →
    ∃ u, exec (.txReserve t us n k st dur) s = .next u ∧ u.rfp = { s.rfp with lastRefusal := r.code } ∧
      u.ctr (Ctr.RFPn_PROFREF n) = (s.ctr (Ctr.RFPn_PROFREF n) + 1) % 2 ^ 48 ∧
      s.regsBut u (halves (Ctr.RFPn_PROFREF n)) ∧ u = { s with regs := u.regs, gtb := u.gtb, rfp := u.rfp }) ∧
  (∀ (s : State) (n k st dur : Nat), s.link n ≠ 4 → s.reserveCheck n k st dur = .inl .link) ∧
  (∀ (s : State) (n k st dur : Nat), s.link n = 4 → s.sliceOn n k = false → s.reserveCheck n k st dur = .inl .noSlice) ∧
  (∀ (s : State) (n k st dur j : Nat), s.reserveCheck n k st dur = .inr j →
    s.link n = 4 ∧ s.sliceOn n k = true ∧ s.profileHolds n k j = true ∧
    (∀ x ∈ s.overlapping n st dur, x.prof = j) ∧ s.streamsAt n st < s.fld (F.RFPn_TX_MAXTX n) ∧
    (∀ x ∈ s.overlapping n st dur, 0 ≤ gtDiff x.start st → s.streamsAt n x.start < s.fld (F.RFPn_TX_MAXTX n)))

/-- The life of a stream (R89, R114, R116, R136, R213). STREAM_CANCEL of a stream not active settles it without chips, ends it at the port
and tells the owner. STREAM_ABORT of an active one is `abortStream` with the chips sent: settled, ended, counted in RFPn_TXABORT, source
60, the owner told. STREAM_END of an active one settles it in full, ends it and tells the owner; where a grid time was inserted and the
timestamp misses it by more than 40 ns, `tsMismatch` acts first. STREAM_RELEASE at or after its time, with no assessment waiting: a
cancelled encode settles without chips, ends and tells the owner; a native frame without chips counts CDC_TXLATE, fires source 90 and is
aborted; otherwise the stream is active from now on with its profile and the active TXAMP, the slices it blanks and the assessments it
meets are marked (`blankLanes`, `markOwn`). An ended stream has left its port, with its assessments, chips and encode.
The model's own choices in it: log entries 92, 136.
Completes: streamCancel, streamAbort, streamEnd, streamRelease. -/
def Obligations.RfpStreams : Prop :=
  (∀ (s : State) (t : Time) (id n : Nat) (x : Stream), s.findStream id = some (n, x) → x.active = false →
    exec (.streamCancel t id) s = .next ((((s.at t).settle id none false).endStream n id).ownerAborted id x.user)) ∧
  (∀ (s : State) (t : Time) (id n chips : Nat) (x : Stream), s.findStream id = some (n, x) → x.active = true →
    exec (.streamAbort t id chips) s = .next ((s.at t).abortStream n x (some chips))) ∧
  (∀ (s : State) (t : Time) (id n sfd : Nat) (x : Stream), s.findStream id = some (n, x) → x.active = true → s.msq.tx.find id = none →
    x.user = .lgc →
    exec (.streamEnd t id sfd) s = .next ((((s.at t).settle id none true).endStream n id).i3Sent id)) ∧
  (∀ (s : State) (t : Time) (id n sfd : Nat) (x : Stream), s.findStream id = some (n, x) → x.active = true → s.msq.tx.find id = none →
    x.user ≠ .lgc →
    exec (.streamEnd t id sfd) s = .next ((((s.at t).settle id none true).endStream n id).txSent id)) ∧
  (∀ (s e : State) (t : Time) (id n sfd g : Nat) (x : Stream) (m : MsqTx), s.findStream id = some (n, x) → x.active = true →
    x.user ≠ .lgc → e = ((s.at t).settle id none true).endStream n id → e.msq.tx.find id = some m → m.inserted = some g →
    exec (.streamEnd t id sfd) s = .next ((if 40 * 2 ^ 24 * e.mainsFreq < (gtDiff sfd g).natAbs * 10 ^ 12 then e.tsMismatch else e).txSent id)) ∧
  (∀ (s e : State) (t : Time) (id n sfd : Nat) (x : Stream) (m : MsqTx), s.findStream id = some (n, x) → x.active = true →
    x.user ≠ .lgc → e = ((s.at t).settle id none true).endStream n id → e.msq.tx.find id = some m → m.inserted = none →
    exec (.streamEnd t id sfd) s = .next (e.txSent id)) ∧
  (∀ (s : State) (t : Time) (id n : Nat) (x : Stream), s.findStream id = some (n, x) → x.active = false →
    (s.port n).ccas.any (fun (c : Cca) => c.id == id) = false →
    0 ≤ gtDiff t.gt (gtSub x.start (nsToGt (s.fld (F.RFPn_LAT_TXLAT n)) s.mainsFreq)) → s.cdc.cancelled.contains id = true →
    exec (.streamRelease t id) s = .next ((((s.at t).settle id none false).endStream n id).ownerAborted id x.user)) ∧
  (∀ (s : State) (t : Time) (id n : Nat) (x : Stream), s.findStream id = some (n, x) → x.active = false →
    (s.port n).ccas.any (fun (c : Cca) => c.id == id) = false →
    0 ≤ gtDiff t.gt (gtSub x.start (nsToGt (s.fld (F.RFPn_LAT_TXLAT n)) s.mainsFreq)) → x.user = .msq → s.cdc.chips.find id = none →
    s.cdc.cancelled.contains id = false →
    exec (.streamRelease t id) s = .next ((((s.at t).bump Ctr.CDC_TXLATE).fire 90).abortStream n x none)) ∧
  (∀ (s : State) (t : Time) (id n : Nat) (x : Stream), s.findStream id = some (n, x) → x.active = false →
    (s.port n).ccas.any (fun (c : Cca) => c.id == id) = false →
    0 ≤ gtDiff t.gt (gtSub x.start (nsToGt (s.fld (F.RFPn_LAT_TXLAT n)) s.mainsFreq)) →
    s.cdc.cancelled.contains id = false → x.user ≠ .msq ∨ (s.cdc.chips.find id).isSome = true →
    exec (.streamRelease t id) s = .next ((((s.at t).setPort n
      { s.port n with
        prof := x.prof,
        streams := (s.port n).streams.map (fun (y : Stream) => if y.id = id then
          { y with active := true, rel := t.gt, amp := s.actFld (F.RFPn_TX_TXAMP n) } else y) }).blankLanes t).markOwn)) ∧
  (∀ (s : State) (n id : Nat), n < s.rfp.ports.length →
    (∀ x ∈ ((s.endStream n id).port n).streams, x.id ≠ id) ∧ (∀ c ∈ ((s.endStream n id).port n).ccas, c.id ≠ id) ∧
    (s.endStream n id).cdc.chips = s.cdc.chips.del id ∧ (∀ r ∈ (s.endStream n id).cdc.queue, r.id ≠ id) ∧
    (s.endStream n id) = { s with rfp := (s.endStream n id).rfp, cdc := (s.endStream n id).cdc }) ∧
  (∀ (s : State) (n : Nat) (x : Stream) (chips : Option Nat),
    s.abortStream n x chips = (State.fire (State.bump { (s.settle x.id chips false).endStream n x.id with
      rfp := { ((s.settle x.id chips false).endStream n x.id).rfp with lastAbort := some (x.id, chips.getD 0) } }
      (Ctr.RFPn_TXABORT n)) 60).ownerAborted x.id x.user)

/-! ### UPD (chapter 17) -/

/-- LOAD, VERIFY and ABORT (R348, R349, R351), written by an initiator that nothing bars while no command runs (`updTakes`; `updTaken` is
the state with the command taken). LOAD that the state allows, of a packet the initiator holds, at an offset of whole 4 KiB with room,
copies the packet into staging, ends it as delivered, leads to LOADING and ends 0; of a packet that it does not hold it ends 15. VERIFY
begins VERIFYING; its run ends in VERIFIED with the staged set and outcome 0, or in LOADING with the outcome and detail of the first
failure and source 181. ABORT discards staging: IDLE, outcome 0. A command that the state or keel service bars ends with that code and
changes nothing else, but that LOAD ends the packet it holds as delivered all the same.
The model's own choices in it: log entries 99, 100.
Completes: updLoad, updVerify, updAbort. -/
def Obligations.UpdLoadVerify : Prop :=
  (∀ (s : State) (rq : Req) (tag : Nat) (t : State) (p : Pkt), s.updTakes rq 1 tag → t = s.updTaken rq 1 tag →
    t.heldPkt rq (t.fld F.UPD_ARG_CELL) = some p → t.regionFaults rq 4 = false → t.fld F.UPD_OFS_OFS % 4096 = 0 →
    t.fld F.UPD_OFS_OFS + p.data.length ≤ 16777216 →
    ∃ u, exec (.updLoad rq tag) s = .next u ∧ u.updState = 1 ∧ u.reg Reg.UPD_STGGEN = 0 ∧
      u.upd = { t.upd with staging := pagesWrite s.upd.staging 0 (t.fld F.UPD_OFS_OFS) p.data, ready := none, cmd := none } ∧
      u.qmg.pkts = t.qmg.pkts.del (t.fld F.UPD_ARG_CELL) ∧ u.ctr Ctr.QMG_DELIV = (t.ctr Ctr.QMG_DELIV + 1) % 2 ^ 48 ∧
      u.ctr Ctr.UPD_LOADS = (t.ctr Ctr.UPD_LOADS + 1) % 2 ^ 48 ∧ u.updEnded tag 0 0 ∧
      u = { t with regs := u.regs, evt := u.evt, qmg := u.qmg, upd := u.upd }) ∧
  (∀ (s : State) (rq : Req) (tag : Nat) (t : State), s.updTakes rq 1 tag → t = s.updTaken rq 1 tag →
    t.heldPkt rq (t.fld F.UPD_ARG_CELL) = none →
    ∃ u, exec (.updLoad rq tag) s = .next u ∧ u.updEnded tag 15 0 ∧ t.regsEvt u [Reg.UPD_CMDSTAT] ∧
      u = { t with regs := u.regs, evt := u.evt, upd := { t.upd with cmd := none } }) ∧
  (∀ (s : State) (rq : Req) (tag : Nat) (t : State), s.updTakes rq 2 tag → t = s.updTaken rq 2 tag →
    ∃ u, exec (.updVerify (.write rq) tag) s = .next u ∧ u.updState = 2 ∧ u.on F.UPD_CMDSTAT_BUSY = true ∧ u.upd = t.upd ∧
      t.regsBut u [Reg.UPD_STATUS] ∧ u = { t with regs := u.regs }) ∧
  (∀ (s : State) (t : Time) (tg tag : Nat), s.updState = 2 → s.upd.cmd = some (2, tag % 256) →
    ∃ u, exec (.updVerify (.run t) tg) s = .next u ∧
      (∀ f, (s.at t).pkgVerify (s.at t).stagedPkg (1 - (s.at t).dir.com) = .inr f →
        u.updState = 3 ∧ u.reg Reg.UPD_STGGEN = BitVec.ofNat 32 f.gen ∧
        u.upd = { s.upd with ready := some f, length := (s.at t).stagedPkg.length, cmd := none } ∧
        u.ctr Ctr.UPD_VERIFYOK = (s.ctr Ctr.UPD_VERIFYOK + 1) % 2 ^ 48 ∧ u.updEnded tag 0 0) ∧
      (∀ e, (s.at t).pkgVerify (s.at t).stagedPkg (1 - (s.at t).dir.com) = .inl e →
        u.updState = 1 ∧ (s.sysOn → u.isPend 181 = true) ∧
        u.fld F.UPD_CMDSTAT_OUTCOME = e.1 % 2 ^ 5 ∧ u.fld F.UPD_CMDSTAT_DETAIL = e.2 % 2 ^ 18 ∧
        u.ctr Ctr.UPD_VERIFYFAIL = (s.ctr Ctr.UPD_VERIFYFAIL + 1) % 2 ^ 48 ∧ u.upd = { s.upd with cmd := none }) ∧
      s.regsEvt u ([Reg.UPD_CMDSTAT, Reg.UPD_STATUS, Reg.UPD_STGGEN] ++ halves Ctr.UPD_VERIFYOK ++ halves Ctr.UPD_VERIFYFAIL) ∧
      u = { s.at t with regs := u.regs, evt := u.evt, upd := u.upd }) ∧
  (∀ (s : State) (rq : Req) (tag : Nat) (t : State), s.updTakes rq 6 tag → t = s.updTaken rq 6 tag →
    ∃ u, exec (.updAbort rq tag) s = .next u ∧ u.updState = 0 ∧ u.reg Reg.UPD_STGGEN = 0 ∧
      u.upd = { t.upd with ready := none, staging := [], cmd := none } ∧ u.updEnded tag 0 0 ∧
      t.regsEvt u [Reg.UPD_CMDSTAT, Reg.UPD_STATUS, Reg.UPD_STGGEN] ∧
      u = { t with regs := u.regs, evt := u.evt, upd := u.upd }) ∧
  (∀ (s : State) (rq : Req) (tag op o : Nat) (c : Instr), (op, c) ∈ [(1, Instr.updLoad rq tag), (2, .updVerify (.write rq) tag),
      (3, .updWrite rq tag), (4, .updActivate rq tag), (5, .updRollback (.written rq tag) 0), (6, .updAbort rq tag)] →
    s.barred rq Reg.UPD_CMD (some (updWord op tag)) = none → s.on F.UPD_CMDSTAT_BUSY = false → s.upd.waits ≠ some .svn →
    (s.updTaken rq op tag).updBar op = some o →
    (op = 1 → (s.updTaken rq op tag).heldPkt rq ((s.updTaken rq op tag).fld F.UPD_ARG_CELL) = none) →
    ∃ u, exec c s = .next u ∧ u.updEnded tag o 0 ∧ (s.updTaken rq op tag).regsEvt u [Reg.UPD_CMDSTAT] ∧
      u = { s.updTaken rq op tag with regs := u.regs, evt := u.evt, upd := { s.upd with cmd := none } }) ∧
  (∀ (s : State) (rq : Req) (tag o : Nat) (t : State) (p : Pkt), s.barred rq Reg.UPD_CMD (some (updWord 1 tag)) = none →
    s.on F.UPD_CMDSTAT_BUSY = false → s.upd.waits ≠ some .svn → t = s.updTaken rq 1 tag → t.updBar 1 = some o →
    t.heldPkt rq (t.fld F.UPD_ARG_CELL) = some p →
    ∃ u, exec (.updLoad rq tag) s = .next u ∧ u.updEnded tag o 0 ∧ u.qmg.pkts = t.qmg.pkts.del (t.fld F.UPD_ARG_CELL) ∧
      u.ctr Ctr.QMG_DELIV = (t.ctr Ctr.QMG_DELIV + 1) % 2 ^ 48 ∧
      u = { t with regs := u.regs, evt := u.evt, qmg := u.qmg, upd := { s.upd with cmd := none } })

/-- WRITE, ACTIVATE and the pause (R350 to R354). WRITE that is allowed, with the flash free, writes the other bank EMPTY and goes to
WRITING; in a dip the operation is held and counted instead. WRITE_DONE in WRITING with the flash free: the other bank is erased and
takes the package, the idle banks hold the staged set, the bank is VALID, STAGED, outcome 0; or, after a failure, the bank holds what it
left, VERIFIED, outcome 18, counted, source 186. ACTIVATE that is allowed, of a set with which the cascade's conditions hold, with the
flash free, writes the bank TRIAL and pauses with HEALTH 0; where they do not hold it ends 16 with source 187. QUIESCE_COMPLETE in the
pause, the level not fallen: the sets are exchanged, TRIAL, PAUSE.NS, counted, source 182, outcome 0. QUIESCE_TIMEOUT in the pause with
the flash free: the bank is VALID again, STAGED, source 185, outcome 17. Either moves the period of SUP's watchdog by the pause.
The model's own choices in it: log entries 100, 101.
Completes: updWrite, updWriteDone, updActivate, quiesceComplete, quiesceTimeout. -/
def Obligations.UpdWriteActivate : Prop :=
  (∀ (s : State) (rq : Req) (tag : Nat) (t : State), s.updTakes rq 3 tag → t = s.updTaken rq 3 tag → t.updFree = true →
    ∃ u, exec (.updWrite rq tag) s = .next u ∧ u.updState = 4 ∧ u.flash = (t.markBank 0 0 0).flash ∧
      u.on F.UPD_CMDSTAT_BUSY = true ∧ u.upd = { t.upd with waits := none } ∧
      t.regsBut u [Reg.UPD_STATUS, Reg.UPD_OTHGEN] ∧ u = { t with regs := u.regs, upd := u.upd, flash := u.flash }) ∧
  (∀ (s : State) (rq : Req) (tag : Nat) (t : State), s.updTakes rq 3 tag → t = s.updTaken rq 3 tag → t.dipNow = true →
    t.pwr.held.contains .directory = false →
    ∃ u, exec (.updWrite rq tag) s = .next u ∧ u.updState = 4 ∧ u.upd = { t.upd with waits := some .empty } ∧
      u.pwr.held = t.pwr.held ++ [.directory] ∧ u.ctr Ctr.PWR_HOLDCNT = (t.ctr Ctr.PWR_HOLDCNT + 1) % 2 ^ 48 ∧
      t.regsBut u (Reg.UPD_STATUS :: halves Ctr.PWR_HOLDCNT) ∧ u = { t with regs := u.regs, upd := u.upd, pwr := u.pwr }) ∧
  (∀ (s : State) (tag : Nat) (f : FwSet), s.updState = 4 → s.upd.waits = none → s.updFree = true → s.upd.ready = some f →
    s.upd.cmd = some (3, tag % 256) →
    ∃ u, exec (.updWriteDone none) s = .next u ∧ u.updState = 5 ∧ u.upd = { s.upd with idle := some f, waits := none, cmd := none } ∧
      u.flash = ((s.bankWrite s.otherBank (pagesRead s.upd.staging 0 0 s.upd.length)).markBank 1 f.gen f.svn).flash ∧
      u.updEnded tag 0 0 ∧ s.regsEvt u [Reg.UPD_CMDSTAT, Reg.UPD_STATUS, Reg.UPD_OTHGEN] ∧
      u = { s with regs := u.regs, evt := u.evt, upd := u.upd, flash := u.flash }) ∧
  (∀ (s : State) (tag : Nat) (l : List Octet), s.updState = 4 → s.upd.waits = none → s.updFree = true →
    s.upd.cmd = some (3, tag % 256) →
    ∃ u, exec (.updWriteDone (some l)) s = .next u ∧ u.updState = 3 ∧ u.updEnded tag 18 0 ∧ (s.sysOn → u.isPend 186 = true) ∧
      u.ctr Ctr.UPD_FLASHERR = (s.ctr Ctr.UPD_FLASHERR + 1) % 2 ^ 48 ∧
      s.regsEvt u ([Reg.UPD_CMDSTAT, Reg.UPD_STATUS] ++ halves Ctr.UPD_FLASHERR) ∧
      u = { s with regs := u.regs, evt := u.evt, upd := { s.upd with cmd := none }, flash := (s.bankWrite s.otherBank l).flash }) ∧
  (∀ (s : State) (b : Nat) (l : List Octet), s.bankWrite b l =
    (s.flashErase (0x01020000 + 0x1000000 * b) 0x1000000).flashWrite (0x01020000 + 0x1000000 * b) l) ∧
  (∀ (s : State) (rq : Req) (tag : Nat) (t : State) (f : FwSet), s.updTakes rq 4 tag → t = s.updTaken rq 4 tag →
    t.upd.ready = some f → t.updFree = true → t.cascadeOk f.gen = true →
    ∃ u, exec (.updActivate rq tag) s = .next u ∧ u.updState = 6 ∧ u.reg Reg.UPD_HEALTH = 0 ∧
      u.upd = { t.upd with level := t.level, waits := none } ∧ u.on F.UPD_CMDSTAT_BUSY = true ∧
      u.flash = (t.markBank 2 (t.dir.bank t.otherBank).2.1 (t.dir.bank t.otherBank).2.2).flash ∧
      t.regsBut u [Reg.UPD_STATUS, Reg.UPD_OTHGEN, Reg.UPD_HEALTH] ∧
      u = { t with regs := u.regs, upd := u.upd, flash := u.flash }) ∧
  (∀ (s : State) (rq : Req) (tag : Nat) (t : State) (f : FwSet), s.updTakes rq 4 tag → t = s.updTaken rq 4 tag →
    t.upd.ready = some f → t.cascadeOk f.gen = false →
    ∃ u, exec (.updActivate rq tag) s = .next u ∧ u.updState = t.updState ∧ u.updEnded tag 16 0 ∧
      (t.sysOn → u.isPend 187 = true) ∧ t.regsEvt u [Reg.UPD_CMDSTAT] ∧
      u = { t with regs := u.regs, evt := u.evt, upd := { t.upd with cmd := none } }) ∧
  (∀ (s : State) (t : Time) (ns tag : Nat), s.updState = 6 → s.upd.waits = none → s.upd.level ≤ s.level →
    s.upd.cmd = some (4, tag % 256) →
    ∃ u, exec (.quiesceComplete t ns) s = .next u ∧ u.updState = 7 ∧
      u.upd = { s.upd with run := s.upd.idle, idle := s.upd.run, trialFt := t.ft, cmd := none } ∧
      u.fld F.UPD_PAUSE_NS = ns % 2 ^ F.UPD_PAUSE_NS.w ∧ u.reg Reg.UPD_RUNGEN = BitVec.ofNat 32 (s.upd.idle.elim 0 (fun f => f.gen)) ∧
      u.ctr Ctr.UPD_ACTIVATES = (s.ctr Ctr.UPD_ACTIVATES + 1) % 2 ^ 48 ∧ (s.sysOn → u.isPend 182 = true) ∧ u.updEnded tag 0 0 ∧
      s.regsEvt u ([Reg.UPD_CMDSTAT, Reg.UPD_STATUS, Reg.UPD_PAUSE, Reg.UPD_RUNGEN] ++ halves Ctr.UPD_ACTIVATES) ∧
      u = { s with regs := u.regs, evt := u.evt, gtb := (s.at t).gtb, upd := u.upd,
                   sup := { s.sup with wdFt := s.sup.wdFt + ns / 1000 } }) ∧
  (∀ (s : State) (ns tag : Nat), s.updState = 6 → s.upd.waits = none → s.updFree = true → s.upd.cmd = some (4, tag % 256) →
    ∃ u, exec (.quiesceTimeout ns) s = .next u ∧ u.updState = 5 ∧ u.upd = { s.upd with waits := none, cmd := none } ∧
      u.flash = (s.markBank 1 (s.dir.bank s.otherBank).2.1 (s.dir.bank s.otherBank).2.2).flash ∧
      (s.sysOn → u.isPend 185 = true) ∧ u.updEnded tag 17 0 ∧
      s.regsEvt u [Reg.UPD_CMDSTAT, Reg.UPD_STATUS, Reg.UPD_PAUSE, Reg.UPD_OTHGEN] ∧
      u = { s with regs := u.regs, evt := u.evt, upd := u.upd, flash := u.flash,
                   sup := { s.sup with wdFt := s.sup.wdFt + ns / 1000 } })

/-- The end of a trial (R355 to R357). TRIAL_WINDOW_END in TRIAL 60 s (less 1 ms) after its beginning: COMMITTING with every health bit set,
otherwise ROLLBACK with cause 1. ROLLBACK written in TRIAL that is allowed, and after a failure in state ROLLBACK without a command,
with the flash free and the new set running: the sets are exchanged back, the bank is FAILED with LASTRB 5 or the cause, staging is
empty, IDLE, counted, source 184. COMMIT_DONE in COMMITTING with the flash free and no check of CFG waiting: IDLE, staging empty, the
SVN fuses burned up to the bank's SVN, counted, source 183.
The model's own choices in it: log entries 101.
Completes: trialWindowEnd, updRollback, updCommitDone. -/
def Obligations.UpdTrial : Prop :=
  (∀ (s : State) (t : Time), s.updState = 7 → s.upd.trialFt + 59999000 ≤ t.ft → s.reg Reg.UPD_HEALTH = 0x1F →
    ∃ u, exec (.trialWindowEnd t) s = .next u ∧ u.updState = 8 ∧ s.regsBut u [Reg.UPD_STATUS] ∧
      u = { s with regs := u.regs, gtb := (s.at t).gtb }) ∧
  (∀ (s : State) (t : Time), s.updState = 7 → s.upd.trialFt + 59999000 ≤ t.ft → s.reg Reg.UPD_HEALTH ≠ 0x1F →
    ∃ u, exec (.trialWindowEnd t) s = .next u ∧ u.updState = 9 ∧ s.regsBut u [Reg.UPD_STATUS] ∧
      u = { s with regs := u.regs, gtb := (s.at t).gtb, upd := { s.upd with cause := 1 } }) ∧
  (∀ (s : State) (rq : Req) (tag ns : Nat) (t : State), s.updTakes rq 5 tag → t = s.updTaken rq 5 tag → t.updFree = true →
    t.upd.run.any (fun f => f.bank == t.otherBank) = true →
    ∃ u, exec (.updRollback (.written rq tag) ns) s = .next u ∧ u.updState = 0 ∧ u.reg Reg.UPD_STGGEN = 0 ∧
      u.upd = { t.upd with run := t.upd.idle, idle := t.upd.run, ready := none, staging := [], waits := none, cmd := none } ∧
      u.flash = (t.dirWrite { t.dir.setBank t.otherBank 3 (t.dir.bank t.otherBank).2.1 (t.dir.bank t.otherBank).2.2 with lastrb := 5 }).flash ∧
      u.ctr Ctr.UPD_ROLLBACKS = (t.ctr Ctr.UPD_ROLLBACKS + 1) % 2 ^ 48 ∧ (t.sysOn → u.isPend 184 = true) ∧ u.updEnded tag 0 0 ∧
      t.regsEvt u ([Reg.UPD_CMDSTAT, Reg.UPD_STATUS, Reg.UPD_STGGEN, Reg.UPD_OTHGEN, Reg.UPD_PAUSE, Reg.UPD_RUNGEN] ++
        halves Ctr.UPD_ROLLBACKS) ∧
      u = { t with regs := u.regs, evt := u.evt, upd := u.upd, flash := u.flash, sup := { t.sup with wdFt := t.sup.wdFt + ns / 1000 } }) ∧
  (∀ (s : State) (ns : Nat), s.updState = 9 → s.upd.waits = none → s.updFree = true → s.upd.cmd = none →
    s.upd.run.any (fun f => f.bank == s.otherBank) = true →
    ∃ u, exec (.updRollback .failure ns) s = .next u ∧ u.updState = 0 ∧
      u.upd = { s.upd with run := s.upd.idle, idle := s.upd.run, ready := none, staging := [] } ∧
      u.flash = (s.dirWrite { s.dir.setBank s.otherBank 3 (s.dir.bank s.otherBank).2.1 (s.dir.bank s.otherBank).2.2 with
        lastrb := s.upd.cause }).flash ∧
      u.ctr Ctr.UPD_ROLLBACKS = (s.ctr Ctr.UPD_ROLLBACKS + 1) % 2 ^ 48 ∧ (s.sysOn → u.isPend 184 = true) ∧
      u = { s with regs := u.regs, evt := u.evt, upd := u.upd, flash := u.flash, sup := { s.sup with wdFt := s.sup.wdFt + ns / 1000 } }) ∧
  (∀ (s : State) (bad1 bad0 : Bool), s.updState = 8 → s.updFree = true → s.cfg.check = none →
    ∃ u, exec (.updCommitDone bad1 bad0) s = .next u ∧ u.updState = 0 ∧ u.reg Reg.UPD_STGGEN = 0 ∧
      u.upd = { s.upd with
        ready := none, staging := [], waits := none,
        fuses := max s.upd.fuses (min 256 (s.dir.bank s.otherBank).2.2) } ∧
      u.ctr Ctr.UPD_COMMITS = (s.ctr Ctr.UPD_COMMITS + 1) % 2 ^ 48 ∧ (s.sysOn → u.isPend 183 = true) ∧
      u = { s with regs := u.regs, evt := u.evt, upd := u.upd, flash := u.flash })

/-! ### Resets, domains, dips and modes (chapter 20) -/

/-- The five resets (R386, R387, R420). POWER_ON_RESET leaves the state of reset but for the queue, flash, fuses, the wrapped key store, the
messages already sent, a lost REFCLK and the model's free counter. PIN_RESET and a SOFTWARE_RESET that nothing bars, with its key
0xC3A5, leave every register of PD_AON but PWR_DOMREQ, SUP_STATUS and PWR_STATUS and lose the other domains; source 210 first, where the
DRAM is not in self-refresh yet; the DRAM, its saved values and MSQ's copy are kept. With another key SOFTWARE_RESET changes no
register. A supply reset, outside AONONLY, keeps PD_AON alone; in a dip it ends the dip and writes PWR_DIPREC with the reset bit and
level 3 where the rail that fell first is the one that resets, or sets OVF on a valid record. In AONONLY and in its exit it changes
nothing.
The model's own choices in it: log entries 106, 107, 108.
Completes: powerOnReset, pinReset, softwareReset, coreSupplyReset, ioSupplyReset. -/
def Obligations.Resets : Prop :=
  (∀ s : State, ∃ u, exec .powerOnReset s = .next u ∧ (∀ a, u.reg a = resetOf a) ∧
    u = { State.reset with
      pending := s.pending, regs := u.regs, free := s.free, flash := s.flash, evt := { sent := s.evt.sent },
      kvt := { store := s.kvt.store, fuses := s.kvt.fuses, flash := s.kvt.flash, antifuse := s.kvt.antifuse }, upd := { fuses := s.upd.fuses },
      sup := { refclkLost := s.sup.refclkLost, failPin := u.sup.failPin } }) ∧
  (∀ s : State, ∃ u, exec .pinReset s = .next u ∧
    (s.fireIf (!s.on F.MEM_STATUS_SELFREF) 210).resetLeft u [Reg.PWR_STATUS] (s.resetPwr .pin true) ∧
    u.mem = { saved := s.mem.saved || s.on F.MEM_STATUS_TRAINED, copy := s.msqCopy }) ∧
  (∀ (s : State) (rq : Req) (key : Nat), s.barred rq Reg.CHIP_RESET (some (BitVec.ofNat 32 (key % 65536))) = none →
    key % 65536 = 0xC3A5 →
    ∃ u, exec (.softwareReset rq key) s = .next u ∧
      (s.fireIf (!s.on F.MEM_STATUS_SELFREF) 210).resetLeft u [Reg.PWR_STATUS] (s.resetPwr .soft true) ∧
      u.mem = { saved := s.mem.saved || s.on F.MEM_STATUS_TRAINED, copy := s.msqCopy }) ∧
  (∀ (s : State) (rq : Req) (key : Nat), s.barred rq Reg.CHIP_RESET (some (BitVec.ofNat 32 (key % 65536))) = none →
    key % 65536 ≠ 0xC3A5 →
    ∃ u, exec (.softwareReset rq key) s = .next u ∧ s.regsBut u [] ∧
      u = { s with regs := u.regs, evt := { s.evt with resp := { data := [], ok := true } } }) ∧
  (∀ (s : State) (m : DipMeas), s.pwr.mode ≠ .inMode .aononly → s.pwr.mode ≠ .exiting .aononly → s.pwr.dip = none →
    (∃ u, exec (.coreSupplyReset m) s = .next u ∧ s.resetLeft u [Reg.PWR_STATUS] (s.resetPwr .core false) ∧ u.mem = {}) ∧
    (∃ u, exec (.ioSupplyReset m) s = .next u ∧ s.resetLeft u [Reg.PWR_STATUS] (s.resetPwr .io false) ∧ u.mem = {})) ∧
  (∀ (s : State) (m : DipMeas) (d : Dip), s.pwr.mode ≠ .inMode .aononly → s.pwr.mode ≠ .exiting .aononly → s.pwr.dip = some d →
    (∃ u, exec (.coreSupplyReset m) s = .next u ∧
      s.resetLeft u [Reg.PWR_STATUS, Reg.PWR_DIPREC] { s.resetPwr .core false with dip := none } ∧ u.mem = {} ∧
      (s.on F.PWR_DIPREC_VALID = true → u.reg Reg.PWR_DIPREC = F.PWR_DIPREC_OVF.ins (s.reg Reg.PWR_DIPREC) 1) ∧
      (s.on F.PWR_DIPREC_VALID = false → u.reg Reg.PWR_DIPREC = BitVec.ofNat 32 (1 + 4 * b2n d.firstIo + 8 * (m.durb % 8) +
        64 * (if d.firstIo then m.vminb % 4 else 3) + 256 * b2n d.held + 512))) ∧
    (∃ u, exec (.ioSupplyReset m) s = .next u ∧
      s.resetLeft u [Reg.PWR_STATUS, Reg.PWR_DIPREC] { s.resetPwr .io false with dip := none } ∧ u.mem = {} ∧
      (s.on F.PWR_DIPREC_VALID = true → u.reg Reg.PWR_DIPREC = F.PWR_DIPREC_OVF.ins (s.reg Reg.PWR_DIPREC) 1) ∧
      (s.on F.PWR_DIPREC_VALID = false → u.reg Reg.PWR_DIPREC = BitVec.ofNat 32 (1 + 4 * b2n d.firstIo + 8 * (m.durb % 8) +
        64 * (if d.firstIo then 3 else m.vminb % 4) + 256 * b2n d.held + 512)))) ∧
  (∀ (s : State) (m : DipMeas), s.pwr.mode = .inMode .aononly ∨ s.pwr.mode = .exiting .aononly →
    exec (.coreSupplyReset m) s = .next s ∧ exec (.ioSupplyReset m) s = .next s)

/-- Domain sequences (R406, R408 to R410, R416, R506). DOMAIN_DRAIN_DONE takes a draining domain that has drained to its entry, and leaves
one that has not as it is. DOMAIN_ENTRY_COMPLETE of a domain with nothing latched leaves it in the state it was heading for, idle, every
other domain as it was, PWR_ENTRIES counted and source 12 pending; where it is OFF its counters are zero, and SIC's references, CSC's
state and the registers are as the clauses say. A latched ON in an entry to RET starts the exit at once and counts PWR_REPLAYS. An exit
with a state to go on to begins that entry, any other ends ON with source 12; a bank of a retained domain that fails is recorded and
recovered first, and bank 0 makes the exit a start.
The model's own choices in it: log entries 109, 110.
Completes: domainDrainDone, domainEntryComplete, domainExitComplete. -/
def Obligations.DomainSequences : Prop :=
  (∀ (s : State) (d : Nat) (m : DomMode), (s.dom d).seq = .draining m → s.drained d = true →
    exec (.domainDrainDone d) s = .next (s.setDom d { s.dom d with seq := .entering m })) ∧
  (∀ (s : State) (d : Nat), s.drained d = false → exec (.domainDrainDone d) s = .next s) ∧
  (∀ (s : State) (t : Time) (d : Nat) (m : DomMode), (s.dom d).seq = .entering m → (s.dom d).latched = none →
    ∃ u, exec (.domainEntryComplete t d) s = .next u ∧ u.dom d = { mode := m, seq := .idle, latched := none, passage := false } ∧
      (∀ e, e ≠ d → u.dom e = s.dom e) ∧ (d ≠ 1 → s.sysOn → u.isPend 12 = true) ∧
      (d ≠ 0 → u.ctr Ctr.PWR_ENTRIES = (s.ctr Ctr.PWR_ENTRIES + 1) % 2 ^ 48) ∧
      (m = .off → ∀ a r, regDesc a = some r → r.dom = d → r.cnt ≠ 0 → d ≠ 0 → u.reg a = resetOf a) ∧
      (d = 14 → u.sic.refs = []) ∧ (d = 19 → m = .off → u.csc = {}) ∧
      u = { s with regs := u.regs, evt := u.evt, pwr := u.pwr, gtb := (s.at t).gtb, rfp := u.rfp, sic := u.sic, csc := u.csc, lgc := u.lgc }) ∧
  (∀ (s : State) (t : Time) (d : Nat), (s.dom d).seq = .entering .ret → (s.dom d).latched = some .on →
    ∃ u, exec (.domainEntryComplete t d) s = .next u ∧
      u.dom d = { mode := .ret, seq := .exiting none, latched := none, passage := false } ∧
      u.ctr Ctr.PWR_REPLAYS = (s.ctr Ctr.PWR_REPLAYS + 1) % 2 ^ 48) ∧
  (∀ (s : State) (t : Time) (d : Nat) (m : DomMode) (bad : List Nat), (s.dom d).seq = .exiting (some m) →
    (∀ b ∈ bad, bankOf d b = false ∨ ((s.dom d).mode ≠ .ret ∧ b ≠ 0)) →
    exec (.domainExitComplete t d bad) s =
      .next ((s.at t).setDom d { s.dom d with mode := .on, seq := .entering m, passage := true })) ∧
  (∀ (s : State) (t : Time) (d : Nat) (bad : List Nat), (s.dom d).seq = .exiting none → (s.dom d).latched = none →
    (∀ b ∈ bad, bankOf d b = false ∨ ((s.dom d).mode ≠ .ret ∧ b ≠ 0)) →
    ∃ u, exec (.domainExitComplete t d bad) s = .next u ∧
      u.dom d = { mode := .on, seq := .idle, latched := none, passage := false } ∧ (s.sysOn → u.isPend 12 = true) ∧
      u = (((s.at t).setDom d { mode := .on, seq := .idle, latched := none, passage := false }).unitOn d).fire 12) ∧
  (∀ (s : State) (t : Time) (d b : Nat) (m : DomMode), (s.dom d).seq = .exiting (some m) → (s.dom d).mode = .ret →
    bankOf d b = true → b ≠ 0 → exec (.domainExitComplete t d [b]) s = .next ((((s.at t).bankFail d b).recoverBank b).setDom d
      { s.dom d with mode := .on, seq := .entering m, passage := true })) ∧
  (∀ (s : State) (t : Time) (d : Nat) (m : Option DomMode), (s.dom d).seq = .exiting m →
    exec (.domainExitComplete t d [0]) s = .next ((s.at t).bankFail d 0).becomeStart) ∧
  (∀ (s : State) (d b : Nat), d < 32 → b < 32 → s.sysOn →
    (s.bankFail d b).fld F.PWR_RETFAIL_DOMAIN = d ∧ (s.bankFail d b).fld F.PWR_RETFAIL_BANK = b ∧
    (s.bankFail d b).on F.PWR_RETFAIL_VALID = true ∧ (s.bankFail d b).isPend 14 = true ∧
    (s.bankFail d b).ctr Ctr.PWR_RETFAILCNT = (s.ctr Ctr.PWR_RETFAILCNT + 1) % 2 ^ 48)

/-- PWR_DOMREQ (R405 to R407, R410). PWR_DOMREQ_WRITE that nothing bars is answered and judges the fields of its register; a write that
changes no field that may change alters nothing, and one that changes the field of PD_LGC alone is refused with source 19 or sets the
request and applies it. A request that stands, in service and with SL1 not holding the domain, is latched in the middle of a sequence,
or cancels the latch where it is the state headed for; for an idle domain it does nothing, begins the drain, the exit, or the passage.
Outside service, or where SL1 holds the domain, nothing happens.
Completes: pwrDomreqWrite. -/
def Obligations.DomainRequests : Prop :=
  (∀ (s : State) (t : Time) (rq : Req) (hi : Bool) (v : Word),
    (s.at t).barred rq (if hi then Reg.PWR_DOMREQ1 else Reg.PWR_DOMREQ0) (some v) = none →
    exec (.pwrDomreqWrite t rq hi v) s = .next (((s.at t).respond [] true).domReqWrite t hi v)) ∧
  (∀ (s : State) (t : Time) (v : Word), (∀ i < 5, alwaysOn (16 + i) = true ∨ v.toNat / 4 ^ i % 4 = s.domReq (16 + i)) →
    s.domReqWrite t true v = s) ∧
  (∀ (s : State) (t : Time) (v : Word), (∀ i < 4, alwaysOn (16 + i) = true ∨ v.toNat / 4 ^ i % 4 = s.domReq (16 + i)) →
    v.toNat / 256 % 4 ≠ s.domReq 20 →
    s.domReqWrite t true v = if s.domRefused 20 (v.toNat / 256 % 4) then s.fire 19
      else (s.setDomReq 20 (v.toNat / 256 % 4)).applyReq t 20) ∧
  (∀ (s : State) (t : Time) (d : Nat) (m : DomMode), d < s.pwr.doms.length → s.pwr.mode = .service → s.sl1Holds d = false →
    domCode (s.domReq d) = some m →
    s.applyReq t d =
      if (s.dom d).seq ≠ .idle then s.setDom d { s.dom d with latched := if (s.dom d).heading = m then none else some m }
      else if (s.dom d).mode = m then s
      else if (s.dom d).mode = .on then (s.setDom d { s.dom d with seq := .draining m, latched := none }).drainUnit t d m
      else if m = .on then s.setDom d { s.dom d with seq := .exiting none, latched := none }
      else s.setDom d { s.dom d with seq := .exiting (some m), latched := none, passage := true }) ∧
  (∀ (s : State) (t : Time) (d : Nat), s.pwr.mode ≠ .service ∨ s.sl1Holds d = true → s.applyReq t d = s)

/-- Supply dips (R418, R420), outside AONONLY. CORE_DIP_START and IO_DIP_START with no dip running begin one, with the first rail,
PWR_STATUS, PWR_DIPCNT and source 15 or 16; in a dip they add their rail and fire their source. DIP_END with nothing held ends the dip,
clears PWR_STATUS's bits, writes PWR_DIPREC or sets its OVF, and fires source 17; with operations held it then starts them. DIP_LONG
fires source 18 once in a dip.
The model's own choices in it: log entries 30, 107.
Low-power modes (R411 to R414). MODE_DEEPRET and MODE_AONONLY that nothing bars, with their key, in service and with no update in PAUSE,
TRIAL or COMMITTING, set the mode that waits; with another key or outside service the write does nothing more, and in those three states
it fires source 19. The SLOT_BOUNDARY at which a mode is due begins its entry, if PD_SYS is live. MODE_ENTRY_COMPLETE in an entry with
every unit drained brings every domain to its state of the mode, saves the holdover record and leaves GTB in HOLD where GT is valid, and
goes on to the exit where a wake is latched, with REPLAY; it changes no register but counters, pending bits, drain flags, UPD's peer
registers, PWR_WAKEREC and four of GTB. WAKE_GPIO on the ball, edge and enable of PWR_WAKECFG, WAKE_SMBUS and WAKE_ALARM with their
enables end a mode, are latched in an entry (the alarm counts from its end on), are recorded in an exit, and do nothing in service;
another GPIO or a wake not enabled does nothing. DEEPRET_EXIT_COMPLETE makes a start where bank 0, or bank 1, of a retained domain
fails, and otherwise returns to service with source 20. AONONLY_RAILS_READY starts the device at the exit from AONONLY and does nothing
elsewhere. XTAL_FAIL on the selected crystal sets XTALFAIL, with source 21 in a powered PD_SYS, and drops the holdover record in AONONLY
where REFCLK does not run either; it does nothing where the crystal is not selected or has already failed.
The model's own choices in it: log entries 117, 147.
Completes: coreDipStart, ioDipStart, dipEnd, dipLong, modeDeepret, modeAononly, slotBoundary, modeEntryComplete, wakeGpio, wakeSmbus,
wakeAlarm, deepretExitComplete, aononlyRailsReady, xtalFail. -/
def Obligations.DipsAndLowPower : Prop :=
  (∀ s : State, s.pwr.mode ≠ .inMode .aononly → s.pwr.mode ≠ .exiting .aononly → s.pwr.dip = none →
    (∃ u, exec .coreDipStart s = .next u ∧
      u.pwr = { s.pwr with dip := some { core := true, io := false, firstIo := false, held := false, long := false } } ∧
      u.on F.PWR_STATUS_DIPCORE = true ∧ u.on F.PWR_STATUS_DIPIO = false ∧ u.ctr Ctr.PWR_DIPCNT = (s.ctr Ctr.PWR_DIPCNT + 1) % 2 ^ 48 ∧
      (s.sysOn → u.isPend 15 = true) ∧ s.regsEvt u (Reg.PWR_STATUS :: halves Ctr.PWR_DIPCNT) ∧
      u = { s with regs := u.regs, evt := u.evt, pwr := u.pwr }) ∧
    (∃ u, exec .ioDipStart s = .next u ∧
      u.pwr = { s.pwr with dip := some { core := false, io := true, firstIo := true, held := false, long := false } } ∧
      u.on F.PWR_STATUS_DIPCORE = false ∧ u.on F.PWR_STATUS_DIPIO = true ∧ u.ctr Ctr.PWR_DIPCNT = (s.ctr Ctr.PWR_DIPCNT + 1) % 2 ^ 48 ∧
      (s.sysOn → u.isPend 16 = true) ∧ s.regsEvt u (Reg.PWR_STATUS :: halves Ctr.PWR_DIPCNT) ∧
      u = { s with regs := u.regs, evt := u.evt, pwr := u.pwr })) ∧
  (∀ (s : State) (d : Dip), s.pwr.mode ≠ .inMode .aononly → s.pwr.mode ≠ .exiting .aononly → s.pwr.dip = some d →
    (∃ u, exec .coreDipStart s = .next u ∧ u.pwr = { s.pwr with dip := some { d with core := true } } ∧
      u.on F.PWR_STATUS_DIPCORE = true ∧ (s.sysOn → u.isPend 15 = true) ∧ s.regsEvt u [Reg.PWR_STATUS] ∧
      u = { s with regs := u.regs, evt := u.evt, pwr := u.pwr }) ∧
    (∃ u, exec .ioDipStart s = .next u ∧ u.pwr = { s.pwr with dip := some { d with io := true } } ∧
      u.on F.PWR_STATUS_DIPIO = true ∧ (s.sysOn → u.isPend 16 = true) ∧ s.regsEvt u [Reg.PWR_STATUS] ∧
      u = { s with regs := u.regs, evt := u.evt, pwr := u.pwr })) ∧
  (∀ (s : State) (d : Dip) (durb vminb : Nat), s.pwr.dip = some d → s.pwr.held = [] →
    ∃ u, exec (.dipEnd durb vminb) s = .next u ∧ u.pwr = { s.pwr with dip := none } ∧
      u.on F.PWR_STATUS_DIPCORE = false ∧ u.on F.PWR_STATUS_DIPIO = false ∧ u.on F.PWR_STATUS_HOLD = false ∧
      (s.on F.PWR_DIPREC_VALID = false → u.reg Reg.PWR_DIPREC = BitVec.ofNat 32
        (1 + 4 * b2n d.firstIo + 8 * (durb % 8) + 64 * (vminb % 4) + 256 * b2n d.held)) ∧
      (s.on F.PWR_DIPREC_VALID = true → u.reg Reg.PWR_DIPREC = F.PWR_DIPREC_OVF.ins (s.reg Reg.PWR_DIPREC) 1) ∧
      (s.sysOn → u.isPend 17 = true) ∧ s.regsEvt u [Reg.PWR_STATUS, Reg.PWR_DIPREC] ∧
      u = { s with regs := u.regs, evt := u.evt, pwr := u.pwr }) ∧
  (∀ (s : State) (d : Dip) (durb vminb : Nat), s.pwr.dip = some d → 
    exec (.dipEnd durb vminb) s = .next ((State.releaseHeld
      { s.captureDip d durb vminb false with pwr := { s.pwr with dip := none } }).showDip.fire 17)) ∧
  (∀ (s : State) (d : Dip), s.pwr.dip = some d → d.long = false →
    ∃ u, exec .dipLong s = .next u ∧ u.pwr = { s.pwr with dip := some { d with long := true } } ∧
      (s.sysOn → u.isPend 18 = true) ∧ s.regsEvt u [] ∧ u = { s with regs := u.regs, evt := u.evt, pwr := u.pwr }) ∧
  (∀ (s : State) (d : Dip), s.pwr.dip = some d → d.long = true → exec .dipLong s = .next s) ∧
  (∀ (s : State) (t : Time) (rq : Req) (key : Nat), s.modeTakes t rq key .deepret →
    ∃ u, exec (.modeDeepret t rq key) s = .next u ∧ u.pwr = { s.pwr with modeWait := some .deepret } ∧ s.regsBut u [] ∧
      u.evt.resp = { data := [], ok := true } ∧ u = { s with regs := u.regs, evt := u.evt, gtb := (s.at t).gtb, pwr := u.pwr }) ∧
  (∀ (s : State) (t : Time) (rq : Req) (key : Nat), s.modeTakes t rq key .aononly →
    ∃ u, exec (.modeAononly t rq key) s = .next u ∧ u.pwr = { s.pwr with modeWait := some .aononly } ∧ s.regsBut u [] ∧
      u.evt.resp = { data := [], ok := true } ∧ u = { s with regs := u.regs, evt := u.evt, gtb := (s.at t).gtb, pwr := u.pwr }) ∧
  (∀ (s : State) (t : Time) (rq : Req) (key : Nat),
    (s.at t).barred rq Reg.PWR_MODECMD (some (modeWord .deepret key)) = none ∧
      (s.at t).barred rq Reg.PWR_MODECMD (some (modeWord .aononly key)) = none →
    (key % 65536 ≠ 0x9E37 ∨ s.pwr.mode ≠ .service →
      exec (.modeDeepret t rq key) s = .next ((s.at t).took rq Reg.PWR_MODECMD (modeWord .deepret key)) ∧
      exec (.modeAononly t rq key) s = .next ((s.at t).took rq Reg.PWR_MODECMD (modeWord .aononly key))) ∧
    (key % 65536 = 0x9E37 → s.pwr.mode = .service → 6 ≤ s.updState → s.updState ≤ 8 →
      exec (.modeDeepret t rq key) s = .next (((s.at t).took rq Reg.PWR_MODECMD (modeWord .deepret key)).fire 19) ∧
      exec (.modeAononly t rq key) s = .next (((s.at t).took rq Reg.PWR_MODECMD (modeWord .aononly key)).fire 19))) ∧
  (∀ (s : State) (t : Time) (m : LpMode), s.modeDue = some m → s.live 1 = true →
    exec (.slotBoundary t) s = .next ((s.at t).modeEnter t m)) ∧
  (∀ (s : State) (t : Time) (m : LpMode), (s.modeEnter t m).pwr.mode = .entering m ∧ (s.modeEnter t m).pwr.modeWait = none ∧
    (s.modeEnter t m).on F.HIF_STATUS_PCIEUP = false ∧ (s.modeEnter t m).fld F.HIF_STATUS_ETHUP = 0) ∧
  (∀ (s : State) (t : Time) (refcnt : Nat) (m : LpMode), s.pwr.mode = .entering m → (∀ d < 21, s.drained d = true) →
    ∃ u, exec (.modeEntryComplete t refcnt) s = .next u ∧
      u.pwr.mode = (if s.pwr.wake = none then .inMode m else .exiting m) ∧
      (s.pwr.wake = none → u.sup.failPin = u.failLow) ∧
      (s.pwr.wake ≠ none → u.on F.PWR_WAKEREC_REPLAY = true ∧ u.on F.PWR_WAKEREC_FROMAON = (m == LpMode.aononly)) ∧
      (s.gtValid = true → u.gtbState = 2 ∧ ∃ r, u.gtb.holdRec = some r ∧ r.gt = t.gt % 2 ^ 64 ∧ r.refcnt = refcnt ∧ r.freq = s.gtb.freq) ∧
      (s.gtValid = false → u.gtb = (s.at t).gtb) ∧
      (∀ d, 1 ≤ d → d ≤ 20 → d < s.pwr.doms.length → u.dom d = modeState m (s.dom d)) ∧
      (∀ a, (∀ r, regDesc a = some r → r.cnt = 0) → (∀ g < 8, a ≠ (F.DMX_GgSTAT_DRAIN g).reg) →
        isPendReg a = false → a ≠ Reg.UPD_PEERSTAT → (∀ k < 16, a ≠ Reg.UPD_PEERGENk k) →
        a ∉ [Reg.PWR_WAKEREC, Reg.GTB_STATUS, Reg.GTB_HOLDREC, Reg.GTB_STEP, Reg.GTB_STEPGSN] → u.reg a = s.reg a) ∧
      u = { s with regs := u.regs, evt := u.evt, pwr := u.pwr, gtb := u.gtb, sup := { s.sup with failPin := u.sup.failPin },
                   rfp := u.rfp, sic := u.sic, csc := u.csc, lgc := u.lgc }) ∧
  (∀ (s : State) (t : Time) (refcnt : Nat), s.pwr.mode ≠ .entering .deepret → s.pwr.mode ≠ .entering .aononly →
    exec (.modeEntryComplete t refcnt) s = .next (s.at t)) ∧
  (∀ (s : State) (ball : Nat) (falling : Bool), s.on F.PWR_WAKECFG_GPIOEN = true → s.fld F.PWR_WAKECFG_GPIO = ball → ball < 8 →
    s.on F.PWR_WAKECFG_GPIOPOL = falling → ∃ u, exec (.wakeGpio ball falling) s = .next u ∧ s.wokenBy u .gpio 1) ∧
  (∀ s : State, s.on F.PWR_WAKECFG_SMBEN = true → ∃ u, exec .wakeSmbus s = .next u ∧ s.wokenBy u .smbus 2) ∧
  (∀ s : State, s.on F.PWR_WAKECFG_ALARMEN = true → s.pwr.mode ≠ .entering .deepret → s.pwr.mode ≠ .entering .aononly → s.modeDue = none →
    ∃ u, exec .wakeAlarm s = .next u ∧ s.wokenBy u .alarm 3) ∧
  (∀ s : State, s.on F.PWR_WAKECFG_ALARMEN = false ∨ s.pwr.mode = .service ∨ s.pwr.mode = .entering .deepret ∨
    s.pwr.mode = .entering .aononly → exec .wakeAlarm s = .next s) ∧
  (∀ (s : State) (ball : Nat) (falling : Bool), s.on F.PWR_WAKECFG_GPIOEN = false ∨ s.fld F.PWR_WAKECFG_GPIO ≠ ball ∨ 8 ≤ ball ∨
    s.on F.PWR_WAKECFG_GPIOPOL ≠ falling → exec (.wakeGpio ball falling) s = .next s) ∧
  (∀ s : State, s.on F.PWR_WAKECFG_SMBEN = false → exec .wakeSmbus s = .next s) ∧
  (∀ (s : State) (t : Time) (bad : List (Nat × Nat)), s.pwr.mode = .exiting .deepret →
    (∃ x ∈ bad, bankOf x.1 x.2 = true ∧ (s.dom x.1).mode = .ret ∧ (x.2 = 0 ∨ x.2 = 1)) →
    ∃ u, exec (.deepretExitComplete t bad) s = .next u ∧ u.pwr.inReset = true) ∧
  (∀ (s : State) (t : Time) (bad : List (Nat × Nat)), s.pwr.mode = .exiting .deepret → s.pwr.doms.length = 21 →
    (∀ x ∈ bad, bankOf x.1 x.2 = false ∨ (s.dom x.1).mode ≠ .ret ∨ (x.2 ≠ 0 ∧ x.2 ≠ 1)) →
    ∃ u, exec (.deepretExitComplete t bad) s = .next u ∧ u.pwr.mode = .service ∧ u.isPend 20 = true ∧
      (u.dom 1).mode = .on ∧ (u.dom 17).mode = .on ∧ u.on F.MEM_STATUS_SELFREF = false) ∧
  (∀ (s : State) (t : Time), s.pwr.mode = .exiting .aononly → exec (.aononlyRailsReady t) s = .next (s.becomeStart.deviceStart t)) ∧
  (∀ (s : State) (t : Time), s.pwr.mode ≠ .exiting .aononly → exec (.aononlyRailsReady t) s = .next s) ∧
  (∀ (s : State) (refclk : Bool), s.on F.PWR_CLKSEL_AONSRC = false → s.on F.PWR_STATUS_XTALFAIL = false →
    refclk = true ∨ s.pwr.mode ≠ .inMode .aononly →
    ∃ u, exec (.xtalFail refclk) s = .next u ∧ u.on F.PWR_STATUS_XTALFAIL = true ∧ (s.sysOn → u.isPend 21 = true) ∧
      s.regsEvt u [Reg.PWR_STATUS] ∧ u = { s with regs := u.regs, evt := u.evt }) ∧
  (∀ s : State, s.on F.PWR_CLKSEL_AONSRC = false → s.on F.PWR_STATUS_XTALFAIL = false → s.pwr.mode = .inMode .aononly →
    ∃ u, exec (.xtalFail false) s = .next u ∧ u.on F.PWR_STATUS_XTALFAIL = true ∧ u.gtb = { s.gtb with holdRec := none } ∧
      u.on F.GTB_HOLDREC_RECVALID = false ∧ s.regsEvt u [Reg.PWR_STATUS, Reg.GTB_HOLDREC] ∧
      u = { s with regs := u.regs, evt := u.evt, gtb := u.gtb }) ∧
  (∀ (s : State) (refclk : Bool), s.on F.PWR_CLKSEL_AONSRC = true ∨ s.on F.PWR_STATUS_XTALFAIL = true →
    exec (.xtalFail refclk) s = .next s)

/-! ### Start-up and configuration (chapters 02 and 19) -/

/-- The start of the device (R386, R388 to R392). DEVICE_START in a reset condition powers the five domains of step 2, records the cause and
what is kept, brings KVT to START with the root's shares burned where none are (R302), GTB to HOLD or FREE by its holdover record, and
CFG to its load, or to AWAIT with a flash under 64 MiB; outside a reset it does nothing. PLL_LOCK outside a reset, before the lock, sets
the lock and clears NOREF; PLL_LOCK_TIMEOUT there sets NOREF with source 11, once; after the lock or in a reset neither does anything.
PERST_RISE notes that PCIe may train. CLKSEL_REQ that nothing bars asks for the switch unless it is made; CLOCK_SWITCH makes it where it
is asked for and the PLL has locked, and else does nothing.
The model's own choices in it: log entries 9, 110, 112, 131.
Completes: deviceStart, pllLock, pllLockTimeout, perstRise, clkselReq, clockSwitch. -/
def Obligations.DeviceStarts : Prop :=
  (∀ (s : State) (t : Time), s.pwr.inReset = true → s.pwr.doms.length = 21 →
    ∃ u, exec (.deviceStart t) s = .next u ∧
      u.pwr = { s.pwr with inReset := false, doms := u.pwr.doms } ∧ (∀ d ∈ bootDomains, u.dom d = { mode := .on }) ∧
      u.reg Reg.CHIP_RSTCAUSE = BitVec.ofNat 32 ((match s.pwr.cause with
        | .powerOn => 1
        | .pin => 2
        | .core => 4
        | .io => 8
        | .soft => 16) + 256 * s.pwr.resets) ∧
      u.on F.CHIP_START_AONKEPT = s.pwr.aonKept ∧ u.on F.CHIP_START_DRAMKEPT = s.pwr.dramKept ∧
      u.on F.MEM_STATUS_SELFREF = s.pwr.dramKept ∧ u.on F.CRY_STATUS_ONFIRC = true ∧ u.kvtState = 0 ∧
      u.gtbState = (if s.gtb.holdRec.isSome then 2 else 0) ∧ u.gtValid = s.gtb.holdRec.isSome ∧
      u.fld F.CFG_STATUS_STATE = (if s.kvt.flash < 67108864 then 6 else 1) ∧
      u = { s with
        regs := u.regs, free := u.free, evt := u.evt, pwr := u.pwr, sup := u.sup, gtb := u.gtb, qmg := u.qmg, kvt := u.kvt,
        csc := u.csc, cfg := u.cfg, upd := u.upd, hif := u.hif, flash := u.flash }) ∧
  (∀ (s : State) (t : Time), s.pwr.inReset = true → ∃ u, exec (.deviceStart t) s = .next u ∧ u.kvt.antifuse.isSome = true ∧
    (s.kvt.antifuse.isSome = true → u.kvt.antifuse = s.kvt.antifuse)) ∧
  (∀ (s : State) (t : Time), s.pwr.inReset = false → exec (.deviceStart t) s = .next s) ∧
  (∀ s : State, s.pwr.inReset = false → s.pwr.pll = false →
    ∃ u, exec .pllLock s = .next u ∧ u.pwr = { s.pwr with pll := true } ∧ u.on F.CHIP_START_NOREF = false ∧
      s.regsEvt u [Reg.CHIP_START] ∧ u = { s with regs := u.regs, evt := u.evt, pwr := u.pwr, sup := u.sup }) ∧
  (∀ s : State, s.pwr.inReset = true ∨ s.pwr.pll = true → exec .pllLock s = .next s ∧ exec .pllLockTimeout s = .next s) ∧
  (∀ s : State, s.on F.CHIP_START_NOREF = true → exec .pllLockTimeout s = .next s) ∧
  (∀ s : State, s.pwr.inReset = false → s.pwr.pll = false → s.on F.CHIP_START_NOREF = false →
    ∃ u, exec .pllLockTimeout s = .next u ∧ u.on F.CHIP_START_NOREF = true ∧ (s.sysOn → u.isPend 11 = true) ∧
      u.sup = { s.sup with failPin := u.failLow } ∧ s.regsEvt u [Reg.CHIP_START] ∧
      u = { s with regs := u.regs, evt := u.evt, sup := u.sup }) ∧
  (∀ s : State, ∃ u, exec .perstRise s = .next u ∧ u = { s with hif := { s.hif with perst := true } }) ∧
  (∀ (s : State) (rq : Req), s.barred rq Reg.PWR_CLKSEL (some (F.PWR_CLKSEL_REQ.ins (s.reg Reg.PWR_CLKSEL) 1)) = none →
    s.on F.PWR_CLKSEL_SEL = false →
    ∃ u, exec (.clkselReq rq) s = .next u ∧ u.pwr = { s.pwr with clkReq := true } ∧ u.on F.PWR_CLKSEL_SEL = false ∧
      u.evt.resp.ok = true ∧ s.regsBut u [Reg.PWR_CLKSEL] ∧ u = { s with regs := u.regs, evt := u.evt, pwr := u.pwr }) ∧
  (∀ (s : State) (rq : Req), s.barred rq Reg.PWR_CLKSEL (some (F.PWR_CLKSEL_REQ.ins (s.reg Reg.PWR_CLKSEL) 1)) = none →
    s.on F.PWR_CLKSEL_SEL = true →
    exec (.clkselReq rq) s = .next (s.took rq Reg.PWR_CLKSEL (F.PWR_CLKSEL_REQ.ins (s.reg Reg.PWR_CLKSEL) 1))) ∧
  (∀ s : State, s.pwr.clkReq = false ∨ s.pwr.pll = false → exec .clockSwitch s = .next s) ∧
  (∀ s : State, s.pwr.clkReq = true → s.pwr.pll = true →
    ∃ u, exec .clockSwitch s = .next u ∧ u.pwr = { s.pwr with clkReq := false } ∧ u.on F.PWR_CLKSEL_SEL = true ∧
      u.on F.CHIP_START_CLKSW = true ∧ u.on F.CRY_STATUS_ONFIRC = false ∧
      s.regsBut u [Reg.PWR_CLKSEL, Reg.CHIP_START, Reg.CRY_STATUS] ∧ u = { s with regs := u.regs, pwr := u.pwr })

/-- The checks of a configuration load (R32, R33, R36, R509). CFG_CHECK_COPY in PASS1 checks the next copy: while KVT is in START it waits
before step 6 for the seal pages, after that it fails the copy or goes on to pass 2; in any other state it does nothing.
CFG_SEALGEN_RESUME does nothing in START, and after it resumes the load that waits, or the checks that wait. Pass 2 fails the copy by
the first failing step, or reaches pass 3. A copy that fails is recorded; the last one brings AWAIT with source 11, where UPD has
nothing to write, the one before it PASS1 with the other. CFG_RELOAD that nothing bars starts a load in AWAIT and does nothing else in
any other state. CFG_CHECK that nothing bars does nothing while BUSY, waits while UPD commits or KVT must still authenticate the seal
pages, and else checks the copy. CFG_OTHER_COPY_CHECK in DONE waits for KVT or records the other copy's result, with source 10 where it
fails; in any other state it does nothing.
The model's own choices in it: log entries 96, 97, 133.
Completes: cfgCheckCopy, cfgSealgenResume, cfgReload, cfgCheck, cfgOtherCopyCheck. -/
def Obligations.ConfigCheck : Prop :=
  (∀ (s : State) (t : Time) (k : Nat) (l : List Nat), s.fld F.CFG_STATUS_STATE = 1 → s.cfg.waits = none → s.cfg.order = k :: l →
    s.kvtState = 0 →
    ∃ u, exec (.cfgCheckCopy t) s = .next u ∧
      (∀ e, (s.at t).imgBlocks1 ((s.at t).imgCopy k) = .inl e → u = (s.at t).copyFails k e) ∧
      (∀ h, (s.at t).imgBlocks1 ((s.at t).imgCopy k) = .inr h → u = { s.at t with cfg := { s.cfg with waits := some k } })) ∧
  (∀ (s : State) (t : Time) (k : Nat) (l : List Nat), s.fld F.CFG_STATUS_STATE = 1 → s.cfg.waits = none → s.cfg.order = k :: l →
    s.kvtState ≠ 0 →
    ∃ u, exec (.cfgCheckCopy t) s = .next u ∧
      (∀ e, (s.at t).imgPass1 ((s.at t).imgCopy k) = .inl e → u = (s.at t).copyFails k e) ∧
      (∀ h, (s.at t).imgPass1 ((s.at t).imgCopy k) = .inr h →
        u = ((s.at t).setFld F.CFG_STATUS_STATE 2).copyPass2 k h ((s.at t).imgCopy k))) ∧
  (∀ (s : State) (t : Time), s.fld F.CFG_STATUS_STATE ≠ 1 ∨ s.cfg.waits.isSome = true ∨ s.cfg.order = [] →
    exec (.cfgCheckCopy t) s = .next (s.at t)) ∧
  (∀ (s : State) (t : Time) (k : Nat), s.cfg.waits = some k → s.kvtState ≠ 0 →
    ∃ u, exec (.cfgSealgenResume t) s = .next u ∧
      (∀ e, (s.at t).imgPass1 ((s.at t).imgCopy k) = .inl e → u = (s.at t).copyFails k e) ∧
      (∀ h, (s.at t).imgPass1 ((s.at t).imgCopy k) = .inr h →
        u = ((s.at t).setFld F.CFG_STATUS_STATE 2).copyPass2 k h ((s.at t).imgCopy k))) ∧
  (∀ (s : State) (t : Time), s.kvtState = 0 → exec (.cfgSealgenResume t) s = .next (s.at t)) ∧
  (∀ (s : State) (t : Time), s.kvtState ≠ 0 → s.cfg.waits = none →
    exec (.cfgSealgenResume t) s = .next (s.at t).checksResume) ∧
  (∀ (s : State) (k : Nat) (h : ImgHdr) (img : List Octet),
    (∀ e, s.imgPass2 img h = .inl e → s.copyPass2 k h img = s.copyFails k e) ∧
    (∀ r e, s.imgPass2 img h = .inr r → s.imgStep13 h = some e → s.copyPass2 k h img = s.copyFails k e) ∧
    (∀ r e, s.imgPass2 img h = .inr r → s.imgStep13 h = none → s.imgStep14 r.1 = some e → s.copyPass2 k h img = s.copyFails k e) ∧
    (∀ r, s.imgPass2 img h = .inr r → s.imgStep13 h = none → s.imgStep14 r.1 = none →
      (s.copyPass2 k h img).fld F.CFG_STATUS_STATE = 3 ∧ (s.copyPass2 k h img).cfg.payload = r.2 ∧
      (s.copyPass2 k h img).cfg.copy = k ∧ (s.copyPass2 k h img).cfg.gen = h.gen ∧ (s.copyPass2 k h img).cfg.order = [])) ∧
  (∀ (s : State) (k n : Nat) (e : Nat × Nat), s.cfg.order = [n] → s.upd.waits = none →
    (s.copyFails k e).fld F.CFG_STATUS_STATE = 6 ∧ (s.copyFails k e).on F.CFG_STATUS_BUSY = false ∧
    (s.sysOn → (s.copyFails k e).isPend 11 = true) ∧ (s.copyFails k e).reg (copyErr k) = BitVec.ofNat 32 (e.1 + 256 * e.2) ∧
    (s.copyFails k e).cfg = { s.cfg with order := [], waits := none }) ∧
  (∀ (s : State) (k m n : Nat) (e : Nat × Nat), s.cfg.order = [m, n] →
    (s.copyFails k e).fld F.CFG_STATUS_STATE = 1 ∧ (s.copyFails k e).cfg = { s.cfg with order := [n], waits := none } ∧
    (s.copyFails k e).reg (copyErr k) = BitVec.ofNat 32 (e.1 + 256 * e.2) ∧ s.regsBut (s.copyFails k e) [copyErr k, Reg.CFG_STATUS]) ∧
  (∀ (s : State) (rq : Req) (t : Time), (s.at t).barred rq Reg.CFG_CMD (some 1) = none → s.fld F.CFG_STATUS_STATE = 6 →
    exec (.cfgReload t rq) s = .next ((s.at t).took rq Reg.CFG_CMD 1).cfgStart.drive) ∧
  (∀ (s : State) (rq : Req) (t : Time), (s.at t).barred rq Reg.CFG_CMD (some 1) = none → s.fld F.CFG_STATUS_STATE ≠ 6 →
    exec (.cfgReload t rq) s = .next ((s.at t).took rq Reg.CFG_CMD 1)) ∧
  (∀ s : State, 67108864 ≤ s.kvt.flash → s.cfgStart.fld F.CFG_STATUS_STATE = 1 ∧ s.cfgStart.on F.CFG_STATUS_BUSY = true ∧
    s.cfgStart.reg Reg.CFG_C0ERR = 0 ∧ s.cfgStart.reg Reg.CFG_C1ERR = 0 ∧ s.cfgStart.cfg.waits = none ∧
    (s.cfgStart.cfg.order = [0, 1] ∨ s.cfgStart.cfg.order = [1, 0])) ∧
  (∀ (s : State) (rq : Req) (copy : Nat), s.barred rq Reg.CFG_CMD (some (BitVec.ofNat 32 (2 + 4 * (copy % 2)))) = none →
    s.on F.CFG_STATUS_BUSY = true →
    exec (.cfgCheck rq copy) s = .next (s.took rq Reg.CFG_CMD (BitVec.ofNat 32 (2 + 4 * (copy % 2))))) ∧
  (∀ (s : State) (rq : Req) (copy : Nat), s.barred rq Reg.CFG_CMD (some (BitVec.ofNat 32 (2 + 4 * (copy % 2)))) = none →
    s.on F.CFG_STATUS_BUSY = false → s.updState = 8 →
    ∃ u, exec (.cfgCheck rq copy) s = .next u ∧ u.cfg = { s.cfg with check := some (copy % 2) } ∧ u.on F.CFG_STATUS_BUSY = true ∧
      s.regsBut u [Reg.CFG_STATUS] ∧ u = { s with regs := u.regs, evt := u.evt, cfg := u.cfg }) ∧
  (∀ (s : State) (rq : Req) (copy : Nat), s.barred rq Reg.CFG_CMD (some (BitVec.ofNat 32 (2 + 4 * (copy % 2)))) = none →
    s.on F.CFG_STATUS_BUSY = false → s.updState ≠ 8 → s.sealWait (copy % 2) = true →
    ∃ u, exec (.cfgCheck rq copy) s = .next u ∧ u.cfg = { s.cfg with check := some (copy % 2) } ∧ u.on F.CFG_STATUS_BUSY = true ∧
      s.regsBut u [Reg.CFG_STATUS] ∧ u = { s with regs := u.regs, evt := u.evt, cfg := u.cfg }) ∧
  (∀ (s : State) (rq : Req) (copy : Nat), s.barred rq Reg.CFG_CMD (some (BitVec.ofNat 32 (2 + 4 * (copy % 2)))) = none →
    s.on F.CFG_STATUS_BUSY = false → s.updState ≠ 8 → s.sealWait (copy % 2) = false →
    ∃ u, exec (.cfgCheck rq copy) s = .next u ∧ u.cfg = { s.cfg with check := none } ∧ u.on F.CFG_STATUS_BUSY = false ∧
      u = (s.took rq Reg.CFG_CMD (BitVec.ofNat 32 (2 + 4 * (copy % 2)))).runCheck (copy % 2) ∧
      s.regsBut u [Reg.CFG_STATUS, copyErr (copy % 2)] ∧ u = { s with regs := u.regs, evt := u.evt, cfg := u.cfg }) ∧
  (∀ s : State, s.fld F.CFG_STATUS_STATE ≠ 5 → exec .cfgOtherCopyCheck s = .next s) ∧
  (∀ s : State, s.fld F.CFG_STATUS_STATE = 5 → s.sealWait (1 - s.cfg.copy) = true →
    exec .cfgOtherCopyCheck s = .next { s with cfg := { s.cfg with otherWait := true } }) ∧
  (∀ s : State, s.fld F.CFG_STATUS_STATE = 5 → s.sealWait (1 - s.cfg.copy) = false →
    ∃ u, exec .cfgOtherCopyCheck s = .next u ∧ u.cfg = { s.cfg with otherWait := false } ∧
      (∀ e, s.imgCheck (s.imgCopy (1 - s.cfg.copy)) = some e →
        u.reg (copyErr (1 - s.cfg.copy)) = BitVec.ofNat 32 (e.1 + 256 * e.2) ∧ (s.sysOn → u.isPend 10 = true) ∧
        u.on (if s.cfg.copy = 0 then F.CFG_STATUS_COPY1_OK else F.CFG_STATUS_COPY0_OK) = false) ∧
      (s.imgCheck (s.imgCopy (1 - s.cfg.copy)) = none → u.reg (copyErr (1 - s.cfg.copy)) = 0 ∧
        u.on (if s.cfg.copy = 0 then F.CFG_STATUS_COPY1_OK else F.CFG_STATUS_COPY0_OK) = true) ∧
      s.regsEvt u [Reg.CFG_STATUS, copyErr (1 - s.cfg.copy)] ∧ u = { s with regs := u.regs, evt := u.evt, cfg := u.cfg })

/-- Pass 3 and the boot ROM (R34, R358, R390). CFG_APPLY in APPLY first applies the PWR records and starts DRAM training; then, with the PLL
locked and every requested domain ready, the others, the commit, the lock and the records "Before SL1"; until then, and in any other
state, it changes only the time. CFG_DRAM_RECORDS after reads 3 and 4, with DRAM trained, applies the records "After DRAM training" and
reaches DONE, with a failed training DONE alone, and else changes only the time. FIRMWARE_BANK_READ after the lock and before any
firmware runs starts the committed bank where the directory is valid and the bank can run, else a VALID other bank, with the directory
switched and source 186, else sets NOFW with source 11; at any other time it changes only the time. A set that starts runs on PRC and
SUP and shows its generation.
The model's own choices in it: log entries 98, 112, 132.
Completes: cfgApply, cfgDramRecords, firmwareBankRead. -/
def Obligations.ConfigApply : Prop :=
  (∀ (s : State) (t : Time), s.fld F.CFG_STATUS_STATE = 3 → s.cfg.pwrDone = false →
    ∃ u, exec (.cfgApply t) s = .next u ∧ u = State.trainStart
      { ((imgPairs s.loadedRecs).filter (fun p => unitOf p.2.1 == 16)).foldl (fun (v : State) p => v.applyPair t p) (s.at t) with
        cfg := { (((imgPairs s.loadedRecs).filter (fun p => unitOf p.2.1 == 16)).foldl (fun (v : State) p => v.applyPair t p)
          (s.at t)).cfg with pwrDone := true } } ∧
      u.fld F.MEM_STATUS_ATTEMPT = 1 ∧ u.on F.MEM_STATUS_SELFREF = false) ∧
  (∀ (s : State) (t : Time), s.fld F.CFG_STATUS_STATE = 3 → s.cfg.pwrDone = true → s.pwr.pll = true →
    (List.range 21).any (fun d => s.domReq d == 1 && !s.domReady d) = false →
    ∃ u, exec (.cfgApply t) s = .next u ∧ u = (s.loadedRecs.foldl (fun (v : State) (r : ImgRec) => v.applyEarly r)
        ((((imgPairs s.loadedRecs).filter (fun p => unitOf p.2.1 != 16)).foldl (fun (v : State) p => v.applyPair t p)
          (s.at t)).commitAll.lockImage.startWindows.setFld F.CFG_STATUS_STATE 4)).qmgSettle.drive) ∧
  (∀ (s : State) (t : Time), s.fld F.CFG_STATUS_STATE = 3 → s.cfg.pwrDone = true → s.pwr.pll = true →
    (List.range 21).any (fun d => s.domReq d == 1 && !s.domReady d) = false → s.cfg.payload = [] →
    ∃ u, exec (.cfgApply t) s = .next u ∧ u = ((s.at t).commitAll.lockImage.startWindows.setFld F.CFG_STATUS_STATE 4).qmgSettle.drive ∧
      u.mapLocked = true ∧ u.fld F.CFG_STATUS_STATE = 4 ∧ u.reg Reg.CFG_GEN = BitVec.ofNat 32 s.cfg.gen) ∧
  (∀ (s : State) (t : Time), s.fld F.CFG_STATUS_STATE = 3 → s.cfg.pwrDone = true →
    s.pwr.pll = false ∨ (List.range 21).any (fun d => s.domReq d == 1 && !s.domReady d) = true →
    exec (.cfgApply t) s = .next (s.at t)) ∧
  (∀ (s : State) (t : Time), s.fld F.CFG_STATUS_STATE ≠ 3 → exec (.cfgApply t) s = .next (s.at t)) ∧
  (∀ (s : State) (t : Time), s.fld F.CFG_STATUS_STATE ≠ 4 ∨ s.readsDone = false ∨
    (s.on F.MEM_STATUS_TRAINED = false ∧ s.on F.CHIP_START_DRAMFAIL = false) → exec (.cfgDramRecords t) s = .next (s.at t)) ∧
  (∀ (s : State) (t : Time), s.mapLocked = false ∨ s.upd.run.isSome = true ∨ s.on F.CHIP_START_NOFW = true ∨
    s.fld F.CFG_STATUS_STATE ≠ 4 → exec (.firmwareBankRead t) s = .next (s.at t)) ∧
  (∀ (s : State) (t : Time), s.fld F.CFG_STATUS_STATE = 4 → s.readsDone = true → s.on F.MEM_STATUS_TRAINED = true →
    s.cfg.payload = [] → s.upd.waits = none →
    ∃ u, exec (.cfgDramRecords t) s = .next u ∧ u.fld F.CFG_STATUS_STATE = 5 ∧ u.on F.CFG_STATUS_BUSY = false ∧
      u.cfg = { s.cfg with dram := true } ∧ s.regsBut u [Reg.CFG_STATUS] ∧
      u = { s with regs := u.regs, gtb := (s.at t).gtb, cfg := u.cfg }) ∧
  (∀ (s : State) (t : Time), s.fld F.CFG_STATUS_STATE = 4 → s.readsDone = true → s.on F.MEM_STATUS_TRAINED = true →
    ∃ u, exec (.cfgDramRecords t) s = .next u ∧ u = (State.cfgDone (
      let r := s.loadedRecs.foldl (fun (a : Nat × State) (r : ImgRec) =>
        (if r.typ = 0x8102 then a.1 + r.entries.length else a.1, a.2.applyLate r a.1)) (0, s.at t)
      { r.2 with cfg := { r.2.cfg with dram := true } }))) ∧
  (∀ (s : State) (t : Time), s.fld F.CFG_STATUS_STATE = 4 → s.readsDone = true → s.on F.MEM_STATUS_TRAINED = false →
    s.on F.CHIP_START_DRAMFAIL = true → s.upd.waits = none →
    ∃ u, exec (.cfgDramRecords t) s = .next u ∧ u.fld F.CFG_STATUS_STATE = 5 ∧ u.on F.CFG_STATUS_BUSY = false ∧
      s.regsBut u [Reg.CFG_STATUS] ∧ u = { s with regs := u.regs, gtb := (s.at t).gtb }) ∧
  (∀ (s : State) (t : Time), s.mapLocked = true → s.upd.run = none → s.on F.CHIP_START_NOFW = false →
    s.fld F.CFG_STATUS_STATE = 4 → s.dirNow = none → (s.dir.bank (1 - s.dir.com)).1 ≠ 1 → (s.dir.bank (1 - s.dir.com)).1 ≠ 2 →
    s.kvtState ≠ 1 →
    ∃ u, exec (.firmwareBankRead t) s = .next u ∧ u.on F.CHIP_START_NOFW = true ∧ (s.sysOn → u.isPend 11 = true) ∧
      s.regsEvt u [Reg.CHIP_START, Reg.UPD_STATUS, Reg.UPD_OTHGEN] ∧
      u = { s with regs := u.regs, evt := u.evt, sup := u.sup, gtb := (s.at t).gtb }) ∧
  (∀ (s : State) (t : Time), s.mapLocked = true → s.upd.run = none → s.on F.CHIP_START_NOFW = false → s.fld F.CFG_STATUS_STATE = 4 →
    ∃ u, exec (.firmwareBankRead t) s = .next u ∧
      (∀ f, (s.at t).bootDir.bankRuns (s.at t).bootDir.dir.com = some f → (s.at t).bootDir.dirNow.isSome = true →
        u = ((s.at t).bootDir.runFirmware f).kvtRead4) ∧
      (∀ f, (s.at t).bootDir.bankRuns (1 - s.dir.com) = some f → ((s.at t).bootDir.dir.bank (1 - s.dir.com)).1 = 1 →
        ((s.at t).bootDir.dirNow = none ∨ (s.at t).bootDir.bankRuns (s.at t).bootDir.dir.com = none) →
        u = ((((((s.at t).bootDir.dirWrite { (s.at t).bootDir.dir with com := 1 - s.dir.com }).dirShow).flashErr).runFirmware
          f).svnDue).kvtRead4) ∧
      (((s.at t).bootDir.dirNow = none ∨ (s.at t).bootDir.bankRuns (s.at t).bootDir.dir.com = none) →
        (((s.at t).bootDir.dir.bank (1 - s.dir.com)).1 ≠ 1 ∨ (s.at t).bootDir.bankRuns (1 - s.dir.com) = none) →
        u = ((((s.at t).bootDir.setFlag F.CHIP_START_NOFW true).fire 11).drive).kvtRead4)) ∧
  (∀ (s : State) (f : FwSet), s.upd.waits = none → (s.dir.bank s.dir.com).2.2 ≤ s.upd.fuses → s.sup.notices = [] →
    (s.runFirmware f).upd = { s.upd with run := some f } ∧ (s.runFirmware f).fld F.PRC_STATUS_RUN = 15 ∧
    (s.runFirmware f).on F.SUP_STATUS_RUN = true ∧ (s.runFirmware f).reg Reg.UPD_RUNGEN = BitVec.ofNat 32 f.gen)

/-- DRAM and service levels (R245, R279, R394 to R402). MEM_TRAINING_COMPLETE in a training gives TRAINED, DRAMOK and source 204, MSQ its
copy, and CFG its read 5 where that was passed over. MEM_TRAINING_FAIL of a channel counts and trains again, and the third of a channel
ends it with DRAMFAIL, FAIL, sources 205 and 11, and CFG's read 5; a RETRAIN that waited and may begin begins first; without a training,
or with no channel named, nothing happens. RETRAIN that nothing bars does nothing unless DRAMFAIL is set, and else trains, or waits for
UPD's write. QMG_DRAM_POOL_ADD after training adds the pool once, source 139. ENTER_SL1 and ENTER_SL2 with their conditions enter the
level, sources 8 and 9; ENTER_SL2 applies PWR_DOMREQ first and waits for the domains to settle; without their conditions nothing
happens. FWD_BOOTMODE_EXIT clears BOOTMODE after read 5 alone. SCRUB_READ with PD_MEM ready, DRAM trained and HOURS set counts a pass
where it is the last read, with source 208; a corrected error outside the sample history counts and fires source 206 at CETHR, an
uncorrectable one is captured, or sets OVF, source 207; else it changes only the time.
The model's own choices in it: log entries 93, 95, 113, 114, 115.
Completes: memTrainingComplete, memTrainingFail, retrain, qmgDramPoolAdd, enterSl1, enterSl2, fwdBootmodeExit, scrubRead. -/
def Obligations.DramAndLevels : Prop :=
  (∀ (s : State) (t : Time), s.mem.retrain = false ∨ s.updWriting = true → s.fld F.MEM_STATUS_ATTEMPT ≠ 0 →
    s.fld F.CFG_STATUS_STATE ≠ 5 ∨ s.cfg.dram = true →
    ∃ u, exec (.memTrainingComplete t) s = .next u ∧ u.on F.MEM_STATUS_TRAINED = true ∧ u.fld F.MEM_STATUS_ATTEMPT = 0 ∧
      u.on F.CHIP_START_DRAMOK = true ∧ (s.sysOn → u.isPend 204 = true) ∧
      u.msq = (match s.mem.copy with
        | some c => { s.msq with nbrs := c.1, cells := c.2 }
        | none => s.msq) ∧
      u.mem = { s.mem with saved := true, copy := none, fails := (0, 0) } ∧ s.regsEvt u [Reg.MEM_STATUS, Reg.CHIP_START] ∧
      u = { s with regs := u.regs, evt := u.evt, gtb := (s.at t).gtb, msq := u.msq, mem := u.mem }) ∧
  (∀ (s : State) (t : Time) (ch0 ch1 : Bool), s.mem.retrain = true → s.updWriting = false →
    exec (.memTrainingComplete t) s = exec (.memTrainingComplete t) (s.at t).retrainNow ∧
    exec (.memTrainingFail t ch0 ch1) s = exec (.memTrainingFail t ch0 ch1) (s.at t).retrainNow ∧
    (s.at t).retrainNow.mem.retrain = false ∧ (s.at t).retrainNow.fld F.MEM_STATUS_ATTEMPT = 1) ∧
  (∀ (s : State) (t : Time) (ch0 ch1 : Bool), s.mem.retrain = false ∨ s.updWriting = true → s.fld F.MEM_STATUS_ATTEMPT = 0 →
    exec (.memTrainingComplete t) s = .next (s.at t) ∧ exec (.memTrainingFail t ch0 ch1) s = .next (s.at t)) ∧
  (∀ (s : State) (t : Time), s.mem.retrain = false ∨ s.updWriting = true → exec (.memTrainingFail t false false) s = .next (s.at t)) ∧
  (∀ (s : State) (t : Time), s.mem.retrain = false ∨ s.updWriting = true → s.fld F.MEM_STATUS_ATTEMPT ≠ 0 → s.fld F.CFG_STATUS_STATE = 5 →
    s.cfg.dram = false →
    ∃ u, exec (.memTrainingComplete t) s = .next u ∧ u.on F.MEM_STATUS_TRAINED = true ∧ u.fld F.CFG_STATUS_STATE = 4 ∧
      u.on F.CFG_STATUS_BUSY = true ∧ s.regsEvt u [Reg.MEM_STATUS, Reg.CHIP_START, Reg.CFG_STATUS]) ∧
  (∀ (s : State) (t : Time) (ch0 ch1 : Bool), s.mem.retrain = false ∨ s.updWriting = true → s.fld F.MEM_STATUS_ATTEMPT ≠ 0 → ch0 = true ∨ ch1 = true →
    s.mem.fails.1 + b2n ch0 < 3 → s.mem.fails.2 + b2n ch1 < 3 →
    ∃ u, exec (.memTrainingFail t ch0 ch1) s = .next u ∧
      u.mem = { s.mem with fails := (s.mem.fails.1 + b2n ch0, s.mem.fails.2 + b2n ch1) } ∧
      u.fld F.MEM_STATUS_ATTEMPT = (s.fld F.MEM_STATUS_ATTEMPT + 1) % 2 ^ F.MEM_STATUS_ATTEMPT.w ∧
      u.ctr Ctr.MEM_TRAIN = (s.ctr Ctr.MEM_TRAIN + 1) % 2 ^ 48 ∧ s.regsBut u (Reg.MEM_STATUS :: halves Ctr.MEM_TRAIN) ∧
      u = { s with regs := u.regs, gtb := (s.at t).gtb, mem := u.mem }) ∧
  (∀ (s : State) (t : Time) (ch0 ch1 : Bool), s.mem.retrain = false ∨ s.updWriting = true → s.fld F.MEM_STATUS_ATTEMPT ≠ 0 → ch0 = true ∨ ch1 = true →
    3 ≤ s.mem.fails.1 + b2n ch0 ∨ 3 ≤ s.mem.fails.2 + b2n ch1 →
    s.fld F.CFG_STATUS_STATE ≠ 4 ∨ s.readsDone = false →
    ∃ u, exec (.memTrainingFail t ch0 ch1) s = .next u ∧ u.fld F.MEM_STATUS_ATTEMPT = 0 ∧
      u.fld F.MEM_STATUS_FAIL = b2n (Nat.ble 3 (s.mem.fails.1 + b2n ch0)) + 2 * b2n (Nat.ble 3 (s.mem.fails.2 + b2n ch1)) ∧
      u.on F.CHIP_START_DRAMFAIL = true ∧ (s.sysOn → u.isPend 205 = true ∧ u.isPend 11 = true) ∧
      s.regsEvt u [Reg.MEM_STATUS, Reg.CHIP_START] ∧
      u = { s with regs := u.regs, evt := u.evt, gtb := (s.at t).gtb, mem := u.mem, sup := u.sup }) ∧
  (∀ (s : State) (t : Time) (ch0 ch1 : Bool), s.mem.retrain = false ∨ s.updWriting = true → s.fld F.MEM_STATUS_ATTEMPT ≠ 0 →
    ch0 = true ∨ ch1 = true → 3 ≤ s.mem.fails.1 + b2n ch0 ∨ 3 ≤ s.mem.fails.2 + b2n ch1 →
    s.fld F.CFG_STATUS_STATE = 4 → s.readsDone = true → s.upd.waits = none →
    ∃ u, exec (.memTrainingFail t ch0 ch1) s = .next u ∧ u.fld F.MEM_STATUS_ATTEMPT = 0 ∧ u.on F.CHIP_START_DRAMFAIL = true ∧
      (s.sysOn → u.isPend 205 = true ∧ u.isPend 11 = true) ∧ u.fld F.CFG_STATUS_STATE = 5 ∧ u.on F.CFG_STATUS_BUSY = false ∧
      s.regsEvt u [Reg.MEM_STATUS, Reg.CHIP_START, Reg.CFG_STATUS]) ∧
  (∀ (s : State) (rq : Req), s.barred rq Reg.CHIP_STARTCMD (some 1) = none → s.on F.CHIP_START_DRAMFAIL = false →
    exec (.retrain rq) s = .next (s.took rq Reg.CHIP_STARTCMD 1)) ∧
  (∀ (s : State) (rq : Req), s.barred rq Reg.CHIP_STARTCMD (some 1) = none → s.on F.CHIP_START_DRAMFAIL = true →
    s.updWriting = false →
    ∃ u, exec (.retrain rq) s = .next u ∧ u.on F.CHIP_START_DRAMFAIL = false ∧ u.fld F.MEM_STATUS_FAIL = 0 ∧
      u.fld F.MEM_STATUS_ATTEMPT = 1 ∧ u.ctr Ctr.MEM_TRAIN = (s.ctr Ctr.MEM_TRAIN + 1) % 2 ^ 48 ∧
      u.mem = { s.mem with fails := (0, 0), retrain := false }) ∧
  (∀ (s : State) (rq : Req), s.barred rq Reg.CHIP_STARTCMD (some 1) = none → s.on F.CHIP_START_DRAMFAIL = true →
    s.updWriting = true →
    ∃ u, exec (.retrain rq) s = .next u ∧ u.mem = { s.mem with retrain := true } ∧ s.regsBut u [] ∧
      u = { s with regs := u.regs, evt := u.evt, mem := u.mem }) ∧
  (∀ s : State, s.on F.MEM_STATUS_TRAINED = true → s.on F.QMG_STATUS_DRAMPOOL = false →
    ∃ u, exec .qmgDramPoolAdd s = .next u ∧ u.on F.QMG_STATUS_DRAMPOOL = true ∧
      u.reg Reg.QMG_TOTAL = BitVec.ofNat 32 (8192 + s.fld (F.MEM_RGk_SIZE_MIB 10) * 1048576 / 272) ∧ (s.sysOn → u.isPend 139 = true) ∧
      s.regsEvt u [Reg.QMG_STATUS, Reg.QMG_TOTAL] ∧ u = { s with regs := u.regs, evt := u.evt, qmg := u.qmg }) ∧
  (∀ s : State, s.on F.MEM_STATUS_TRAINED = false ∨ s.on F.QMG_STATUS_DRAMPOOL = true → exec .qmgDramPoolAdd s = .next s) ∧
  (∀ (s : State) (t : Time), s.level ≠ 0 ∨ s.sl1Ready = false → exec (.enterSl1 t) s = .next (s.at t)) ∧
  (∀ (s : State) (t : Time), s.level ≠ 1 ∨ s.sl2Ready = false → exec (.enterSl2 t) s = .next (s.at t)) ∧
  (∀ (s : State) (t : Time), s.level = 1 → s.sl2Ready = true → s.pwr.sl2 = false →
    exec (.enterSl2 t) s = exec (.enterSl2 t)
      (sl2Domains.foldl (fun (v : State) d => v.applyReq t d) { s.at t with pwr := { s.pwr with sl2 := true } })) ∧
  (∀ (s : State) (t : Time), s.level = 0 → s.sl1Ready = true → s.upd.level ≤ 1 → s.pwr.doms.length = 21 →
    ∃ u, exec (.enterSl1 t) s = .next u ∧ u.level = 1 ∧ (s.sysOn → u.isPend 8 = true) ∧
      u.reg Reg.CHIP_TSL1 = (if s.reg Reg.CHIP_TSL1 = 0 then BitVec.ofNat 32 t.ft else s.reg Reg.CHIP_TSL1) ∧
      ∀ d ∈ [3, 4, 5, 6, 7, 8, 9, 14], (u.dom d).heading = .off ∨ (u.dom d).latched = some .off) ∧
  (∀ (s : State) (t : Time), s.level = 1 → s.sl2Ready = true → s.upd.level ≤ 2 → s.pwr.sl2 = true → s.sl2Settled = true →
    ∃ u, exec (.enterSl2 t) s = .next u ∧ u.level = 2 ∧ (s.sysOn → u.isPend 9 = true) ∧
      u.reg Reg.CHIP_TSL2 = (if s.reg Reg.CHIP_TSL2 = 0 then BitVec.ofNat 32 t.ft else s.reg Reg.CHIP_TSL2) ∧
      s.regsEvt u [Reg.CHIP_START, Reg.CHIP_TSL2] ∧ u = { s with regs := u.regs, evt := u.evt, gtb := (s.at t).gtb }) ∧
  (∀ (s : State) (t : Time), s.level = 1 → s.sl2Ready = true → s.pwr.sl2 = true → s.sl2Settled = false →
    exec (.enterSl2 t) s = .next (s.at t)) ∧
  (∀ s : State, s.on F.MEM_STATUS_TRAINED = true → s.cfg.dram = true →
    ∃ u, exec .fwdBootmodeExit s = .next u ∧ u.on F.FWD_STATUS_BOOTMODE = false ∧ s.regsBut u [Reg.FWD_STATUS] ∧
      u = { s with regs := u.regs }) ∧
  (∀ s : State, s.on F.MEM_STATUS_TRAINED = false ∨ s.cfg.dram = false → exec .fwdBootmodeExit s = .next s) ∧
  (∀ (s : State) (t : Time) (res : ScrubRes) (ch region addr : Nat) (last : Bool),
    s.domReady 17 = false ∨ s.on F.MEM_STATUS_TRAINED = false ∨ s.fld F.MEM_SCRUB_HOURS = 0 →
    exec (.scrubRead t res ch region addr last) s = .next (s.at t)) ∧
  (∀ (s : State) (t : Time) (res : ScrubRes) (ch region addr : Nat), s.domReady 17 = true → s.on F.MEM_STATUS_TRAINED = true →
    s.fld F.MEM_SCRUB_HOURS ≠ 0 → res = .clean ∨ region < 4 →
    exec (.scrubRead t res ch region addr false) s = .next (s.at t)) ∧
  (∀ (s : State) (t : Time) (res : ScrubRes) (ch region addr : Nat), s.domReady 17 = true → s.on F.MEM_STATUS_TRAINED = true →
    s.fld F.MEM_SCRUB_HOURS ≠ 0 → res = .clean ∨ region < 4 →
    ∃ u, exec (.scrubRead t res ch region addr true) s = .next u ∧
      u.ctr Ctr.MEM_SCRUBPASS = (s.ctr Ctr.MEM_SCRUBPASS + 1) % 2 ^ 48 ∧ (s.sysOn → u.isPend 208 = true) ∧
      s.regsEvt u (halves Ctr.MEM_SCRUBPASS) ∧ u = { s with regs := u.regs, evt := u.evt, gtb := (s.at t).gtb }) ∧
  (∀ (s : State) (t : Time) (res : ScrubRes) (ch region addr : Nat), s.domReady 17 = true → s.on F.MEM_STATUS_TRAINED = true →
    s.fld F.MEM_SCRUB_HOURS ≠ 0 → res ≠ .clean → 4 ≤ region →
    exec (.scrubRead t res ch region addr true) s = .next (((match res with
      | .uncorrectable => (s.at t).memUncorrectable 0x12 ch region addr true
      | _ => (s.at t).memCorrected).bump Ctr.MEM_SCRUBPASS).fire 208)) ∧
  (∀ (s : State) (t : Time) (ch region addr : Nat), s.domReady 17 = true → s.on F.MEM_STATUS_TRAINED = true →
    s.fld F.MEM_SCRUB_HOURS ≠ 0 → 4 ≤ region →
    ∃ u, exec (.scrubRead t .corrected ch region addr false) s = .next u ∧ u.ctr Ctr.MEM_CE = (s.ctr Ctr.MEM_CE + 1) % 2 ^ 48 ∧
      u.mem = { s.mem with ceWin := s.mem.ceWin + 1 } ∧
      (s.sysOn → s.mem.ceWin + 1 = s.fld F.MEM_SCRUB_CETHR → u.isPend 206 = true) ∧ s.regsEvt u (halves Ctr.MEM_CE) ∧
      u = { s with regs := u.regs, evt := u.evt, gtb := (s.at t).gtb, mem := u.mem }) ∧
  (∀ (s : State) (t : Time) (ch region addr : Nat), s.domReady 17 = true → s.on F.MEM_STATUS_TRAINED = true →
    s.fld F.MEM_SCRUB_HOURS ≠ 0 → 4 ≤ region → s.on F.MEM_ECCREC_VALID = true →
    ∃ u, exec (.scrubRead t .uncorrectable ch region addr false) s = .next u ∧ u.ctr Ctr.MEM_UE = (s.ctr Ctr.MEM_UE + 1) % 2 ^ 48 ∧
      u.reg Reg.MEM_ECCREC = F.MEM_ECCREC_OVF.ins (s.reg Reg.MEM_ECCREC) 1 ∧ (s.sysOn → u.isPend 207 = true)) ∧
  (∀ (s : State) (t : Time) (ch region addr : Nat), s.domReady 17 = true → s.on F.MEM_STATUS_TRAINED = true →
    s.fld F.MEM_SCRUB_HOURS ≠ 0 → 4 ≤ region → s.on F.MEM_ECCREC_VALID = false →
    ∃ u, exec (.scrubRead t .uncorrectable ch region addr false) s = .next u ∧ u.ctr Ctr.MEM_UE = (s.ctr Ctr.MEM_UE + 1) % 2 ^ 48 ∧
      u.reg Reg.MEM_ECCREC = BitVec.ofNat 32 (1 + 4 * (ch % 2) + 8 * (region % 16) + 2304 + 4096) ∧
      u.reg Reg.MEM_ECCADDR_LO = BitVec.ofNat 32 addr ∧ (s.sysOn → u.isPend 207 = true) ∧
      u = { s with regs := u.regs, evt := u.evt, gtb := (s.at t).gtb, sup := u.sup })

/-! ### CDC, DMX and SIC (chapters 06 to 08) -/

/-- CDC (R128, R134 to R136). CDC_HEADER_DECODE of a native frame in HEADER whose header passes every check takes the lane to PAYLOAD with
the header, counted, and as corrected where a word was; one that fails is counted by its reason, against HDRTHR with source 88, and ends
the frame HDRGOLAY, HDRCHK or HDRINV. On a diversity pair words and octets are those of the weighted sums. CDC_PAYLOAD_DECODE of a lane that passed its last symbol counts its codewords, good and bad, and
ends the lane OK with the payload or RSFAIL. On any other lane either changes only the time. CDC_ENCODE encodes the request at the head
of the queue, counted; CDC_ENCODE_CANCEL drops a queued request and notes it; with nothing queued neither does anything.
The model's own choices in it: log entries 37, 151.
Completes: cdcHeaderDecode, cdcPayloadDecode, cdcEncode, cdcEncodeCancel. -/
def Obligations.CdcCodec : Prop :=
  (∀ (s : State) (t : Time) (l w0 w1 w c : Nat) (rise : Int) (m : SymMeas) (x : Lane) (h : Hdr), s.laneIn l 2 = some x →
    x.phy = false → hdrCheck x.lh (x.words m w0 w1).1 (x.words m w0 w1).2 = .ok h w c →
    ∃ u, exec (.cdcHeaderDecode t l w0 w1 rise m) s = .next u ∧
      u.dmx = { s.dmx with
        lanes := s.dmx.lanes.put l { x.overlap rise m with state := 3, hdr := some h, hdrWord := w } } ∧
      u.ctr Ctr.CDC_HDROK = (s.ctr Ctr.CDC_HDROK + 1) % 2 ^ 48 ∧
      (c ≠ 0 → u.ctr Ctr.CDC_HDRCOR = (s.ctr Ctr.CDC_HDRCOR + 1) % 2 ^ 48) ∧
      s.regsBut u (halves Ctr.CDC_HDROK ++ halves Ctr.CDC_HDRCOR) ∧
      u = { s with regs := u.regs, gtb := (s.at t).gtb, dmx := u.dmx }) ∧
  (∀ (s : State) (t : Time) (l w0 w1 : Nat) (rise : Int) (m : SymMeas) (x : Lane), s.laneIn l 2 = some x → x.phy = false →
    hdrCheck x.lh (x.words m w0 w1).1 (x.words m w0 w1).2 = .golayFail →
    exec (.cdcHeaderDecode t l w0 w1 rise m) s =
      .next (((s.at t).hdrFail Ctr.CDC_HDRGOL).laneEnd t l (x.overlap rise m) 2 0 [])) ∧
  (∀ (s : State) (t : Time) (l w0 w1 : Nat) (rise : Int) (m : SymMeas) (x : Lane), s.laneIn l 2 = some x → x.phy = false →
    hdrCheck x.lh (x.words m w0 w1).1 (x.words m w0 w1).2 = .hchkFail →
    exec (.cdcHeaderDecode t l w0 w1 rise m) s =
      .next (((s.at t).hdrFail Ctr.CDC_HDRCHK).laneEnd t l (x.overlap rise m) 3 0 [])) ∧
  (∀ (s : State) (t : Time) (l w0 w1 : Nat) (rise : Int) (m : SymMeas) (x : Lane), s.laneIn l 2 = some x → x.phy = false →
    hdrCheck x.lh (x.words m w0 w1).1 (x.words m w0 w1).2 = .inv →
    exec (.cdcHeaderDecode t l w0 w1 rise m) s =
      .next (((s.at t).hdrFail Ctr.CDC_HDRINV).laneEnd t l (x.overlap rise m) 4 0 [])) ∧
  (∀ (s : State) (c : Nat), c ∈ [Ctr.CDC_HDRGOL, Ctr.CDC_HDRCHK, Ctr.CDC_HDRINV] →
    (s.hdrFail c).ctr c = (s.ctr c + 1) % 2 ^ 48 ∧ (s.hdrFail c).cdc = { s.cdc with hdrFails := s.cdc.hdrFails + 1 } ∧
    (s.sysOn → s.cdc.hdrFails + 1 = s.fld F.CDC_THR_HDRTHR → (s.hdrFail c).isPend 88 = true) ∧
    s.regsEvt (s.hdrFail c) (halves c)) ∧
  (∀ (s : State) (t : Time) (l : Nat) (coded : List Octet) (rise : Int) (m : SymMeas) (x : Lane) (h : Hdr), s.laneIn l 3 = some x →
    x.waiting = true → x.hdr = some h →
    (decodePayload h (x.octets m coded)).payload = none →
    exec (.cdcPayloadDecode t l coded rise m) s =
      .next (((s.at t).cdcPayload h (x.octets m coded)).2.laneEnd t l (x.overlap rise m) 5
        (decodePayload h (x.octets m coded)).corr [])) ∧
  (∀ (s : State) (t : Time) (l : Nat) (coded pl : List Octet) (rise : Int) (m : SymMeas) (x : Lane) (h : Hdr), s.laneIn l 3 = some x →
    x.waiting = true → x.hdr = some h → (decodePayload h (x.octets m coded)).payload = some pl →
    exec (.cdcPayloadDecode t l coded rise m) s =
      .next (((s.at t).cdcPayload h (x.octets m coded)).2.laneEnd t l (x.overlap rise m) 0
        (decodePayload h (x.octets m coded)).corr pl)) ∧
  (∀ (s : State) (h : Hdr) (coded : List Octet),
    (s.cdcPayload h coded).2.ctr Ctr.CDC_CWOK = (s.ctr Ctr.CDC_CWOK + (decodePayload h coded).good) % 2 ^ 48 ∧
    (s.cdcPayload h coded).2.ctr Ctr.CDC_CWFAIL = (s.ctr Ctr.CDC_CWFAIL + (decodePayload h coded).bad) % 2 ^ 48 ∧
    (s.cdcPayload h coded).2.cdc = { s.cdc with rsFails := s.cdc.rsFails + (decodePayload h coded).bad } ∧
    (s.cdcPayload h coded).2 = { s with
      regs := (s.cdcPayload h coded).2.regs, evt := (s.cdcPayload h coded).2.evt, cdc := (s.cdcPayload h coded).2.cdc }) ∧
  (∀ (s : State) (t : Time) (l w0 w1 : Nat) (rise : Int) (m : SymMeas), s.laneIn l 2 = none →
    exec (.cdcHeaderDecode t l w0 w1 rise m) s = .next (s.at t)) ∧
  (∀ (s : State) (t : Time) (l w0 w1 : Nat) (rise : Int) (m : SymMeas) (x : Lane), s.laneIn l 2 = some x → x.phy = true →
    exec (.cdcHeaderDecode t l w0 w1 rise m) s = .next (s.at t)) ∧
  (∀ (s : State) (t : Time) (l : Nat) (coded : List Octet) (rise : Int) (m : SymMeas), s.laneIn l 3 = none →
    exec (.cdcPayloadDecode t l coded rise m) s = .next (s.at t)) ∧
  (∀ (s : State) (t : Time) (l : Nat) (coded : List Octet) (rise : Int) (m : SymMeas) (x : Lane), s.laneIn l 3 = some x →
    x.waiting = false ∨ x.hdr = none → exec (.cdcPayloadDecode t l coded rise m) s = .next (s.at t)) ∧
  (∀ s : State, s.cdc.queue = [] → exec .cdcEncode s = .next s) ∧
  (∀ (s : State) (r : EncReq) (l : List EncReq), s.cdc.queue = r :: l →
    ∃ u, exec .cdcEncode s = .next u ∧
      u.cdc = { s.cdc with queue := l, chips := s.cdc.chips.put r.id (rails (frameChips r.lh r.hdr r.payload)) } ∧
      u.ctr Ctr.CDC_TXFRM = (s.ctr Ctr.CDC_TXFRM + 1) % 2 ^ 48 ∧ s.regsBut u (halves Ctr.CDC_TXFRM) ∧
      u = { s with regs := u.regs, cdc := u.cdc }) ∧
  (∀ (s : State) (id : Nat), s.cdc.queue.any (fun (x : EncReq) => x.id == id) = true →
    ∃ u, exec (.cdcEncodeCancel id) s = .next u ∧
      u = { s with cdc := { s.cdc with
        queue := s.cdc.queue.filter (fun (x : EncReq) => x.id != id), cancelled := s.cdc.cancelled ++ [id] } }) ∧
  (∀ (s : State) (id : Nat), s.cdc.queue.any (fun (x : EncReq) => x.id == id) = false →
    exec (.cdcEncodeCancel id) s = .next s)

/-- Detections (R138 to R141, R148 to R151). PREAMBLE_DETECT and I3_SHR_DETECT that the hunter reports (it hunts, its PHY and LHMASK match,
the excess is above its threshold, the carrier offset is in range) mark the carrier; an own preamble of a held frame does no more, any
other is detected. Whatever a hunter does not report changes only the time. A detection that has a lane claims it, with SECOND on the
frames of its slice, and is counted, borrowed lanes too; without one it is counted in NOLANE and dropped, or queued for a retro decode,
or lost to a full queue with source 65. RETRO_ENTRY_TAKEN takes the oldest entry that a free lane can serve: it expires after 60 ms with
its record, or its lane runs in catch-up; with none it changes only the time. RETRO_CATCHUP lets a lane in catch-up run on live, and
does nothing to another.
The model's own choices in it: log entries 20, 23, 42, 138.
Completes: preambleDetect, i3ShrDetect, retroEntryTaken, retroCatchup. -/
def Obligations.DmxDetections : Prop :=
  (∀ (s : State) (t : Time) (h lh timing pref : Nat) (excess : Int) (meas : Meas), s.hunting h = true →
    s.on (F.RFPn_SLk_PHY (s.hunterSlice h / 128) (s.hunterSlice h % 128)) = false →
    bit (s.fld (F.DMX_GgHk_LHMASK (h / 64) (h % 64))) lh = true → (s.actFld (F.DMX_GgTHR_THR (h / 64)) : Int) < excess →
    meas.fofs.natAbs ≤ 2500 → s.level ≠ 1 ∨ 4 ≤ lh → s.ownPreamble (s.hunterSlice h) timing lh = false →
    exec (.preambleDetect t h lh timing excess meas pref) s = .next (((s.at t).markCarrier (s.hunterSlice h)).detect h
      { hunter := h, slice := s.hunterSlice h, phy := false, lh := lh, timing := timing, detGt := t.gt, detFt := t.ft,
        meas := meas, search := none } pref)) ∧
  (∀ (s : State) (t : Time) (h lh timing pref : Nat) (excess : Int) (meas : Meas), s.hearsNative h lh excess meas = false →
    exec (.preambleDetect t h lh timing excess meas pref) s = .next (s.at t)) ∧
  (∀ (s : State) (h lh : Nat) (excess : Int) (meas : Meas), s.hunting h = false ∨
      s.on (F.RFPn_SLk_PHY (s.hunterSlice h / 128) (s.hunterSlice h % 128)) = true ∨
      bit (s.fld (F.DMX_GgHk_LHMASK (h / 64) (h % 64))) lh = false ∨ excess ≤ (s.actFld (F.DMX_GgTHR_THR (h / 64)) : Int) ∨
      2500 < meas.fofs.natAbs ∨ (s.level = 1 ∧ lh < 4) → s.hearsNative h lh excess meas = false) ∧
  (∀ (s : State) (t : Time) (h lh timing pref : Nat) (excess : Int) (meas : Meas), s.hearsNative h lh excess meas = true →
    s.ownPreamble (s.hunterSlice h) timing lh = true →
    exec (.preambleDetect t h lh timing excess meas pref) s = .next ((s.at t).markCarrier (s.hunterSlice h))) ∧
  (∀ (s : State) (t : Time) (h timing pref : Nat) (excess : Int) (meas : Meas), s.hearsI3 h excess meas = false →
    exec (.i3ShrDetect t h timing excess meas pref) s = .next (s.at t)) ∧
  (∀ (s : State) (t : Time) (h timing pref : Nat) (excess : Int) (meas : Meas), s.hearsI3 h excess meas = true →
    s.ownPreamble (s.hunterSlice h) timing 1 = true →
    exec (.i3ShrDetect t h timing excess meas pref) s = .next ((s.at t).markCarrier (s.hunterSlice h))) ∧
  (∀ (s : State) (t : Time) (h timing pref : Nat) (excess : Int) (meas : Meas), s.hunting h = true →
    s.on (F.RFPn_SLk_PHY (s.hunterSlice h / 128) (s.hunterSlice h % 128)) = true →
    (s.actFld (F.DMX_GgTHR_THR (h / 64)) : Int) < excess →
    meas.fofs.natAbs * (s.sliceCentre (s.hunterSlice h / 128) (s.hunterSlice h % 128)).natAbs ≤ 100 * 10 ^ 8 →
    s.ownPreamble (s.hunterSlice h) timing 1 = false →
    exec (.i3ShrDetect t h timing excess meas pref) s = .next (((s.at t).markCarrier (s.hunterSlice h)).detect h
      { hunter := h, slice := s.hunterSlice h, phy := true, lh := 1, timing := timing, detGt := t.gt, detFt := t.ft,
        meas := meas, search := none } pref)) ∧
  (∀ (s : State) (h pref l : Nat) (b : Bool) (r : Retro),
    s.pickLane (s.rivalLanes { gt := r.detGt, ft := r.detFt } (some r.slice)) (h / 64) pref false = some (l, b) →
    (s.detect h r pref).dmx.lanes = Tab.put
      (if s.dmx.lanes.any (fun e => e.2.slice == r.slice) then
        s.dmx.lanes.mapv (fun _ x => if x.slice = r.slice then { x with ovl := x.ovl / 2 * 2 + 1 } else x) else s.dmx.lanes) l
      { s.newLane h r false 0 with ovl := b2n (s.dmx.lanes.any (fun e => e.2.slice == r.slice)) } ∧
    (s.detect h r pref).dmx.retro = s.dmx.retro ∧ (s.detect h r pref).ctr Ctr.DMX_DET = (s.ctr Ctr.DMX_DET + 1) % 2 ^ 48 ∧
    (s.detect h r pref).ctr Ctr.DMX_BORROW = (s.ctr Ctr.DMX_BORROW + b2n b) % 2 ^ 48 ∧
    s.regsEvt (s.detect h r pref) (halves Ctr.DMX_DET ++ halves Ctr.DMX_BORROW) ∧
    s.detect h r pref = { s with
      regs := (s.detect h r pref).regs, evt := (s.detect h r pref).evt, dmx := (s.detect h r pref).dmx }) ∧
  (∀ (s : State) (h pref : Nat) (r : Retro), s.pickLane (s.rivalLanes { gt := r.detGt, ft := r.detFt } (some r.slice)) (h / 64) pref false = none →
    s.on F.DMX_CFG_RETRO = false ∨ s.on F.MEM_STATUS_TRAINED = false →
    (s.detect h r pref).dmx.lanes = s.dmx.lanes ∧ (s.detect h r pref).dmx.retro = s.dmx.retro ∧
    (s.detect h r pref).ctr Ctr.DMX_DET = (s.ctr Ctr.DMX_DET + 1) % 2 ^ 48 ∧
    (s.detect h r pref).ctr Ctr.DMX_NOLANE = (s.ctr Ctr.DMX_NOLANE + 1) % 2 ^ 48) ∧
  (∀ (s : State) (h pref : Nat) (r : Retro), s.pickLane (s.rivalLanes { gt := r.detGt, ft := r.detFt } (some r.slice)) (h / 64) pref false = none →
    s.on F.DMX_CFG_RETRO = true → s.on F.MEM_STATUS_TRAINED = true → s.dmx.retro.length < 64 →
    (s.detect h r pref).dmx.retro = s.dmx.retro ++ [{ r with second := s.dmx.lanes.any (fun e => e.2.slice == r.slice) }] ∧
    (s.dmx.lanes.any (fun e => e.2.slice == r.slice) = false → (s.detect h r pref).dmx.lanes = s.dmx.lanes) ∧
    (s.dmx.lanes.any (fun e => e.2.slice == r.slice) = true → (s.detect h r pref).dmx.lanes = s.dmx.lanes.mapv (fun _ x =>
      if x.slice = r.slice then { x with ovl := x.ovl / 2 * 2 + 1 } else x)) ∧
    (s.detect h r pref).ctr Ctr.DMX_DET = (s.ctr Ctr.DMX_DET + 1) % 2 ^ 48 ∧
    (s.detect h r pref).ctr Ctr.DMX_NOLANE = (s.ctr Ctr.DMX_NOLANE + 1) % 2 ^ 48) ∧
  (∀ (s : State) (h pref : Nat) (r : Retro), s.pickLane (s.rivalLanes { gt := r.detGt, ft := r.detFt } (some r.slice)) (h / 64) pref false = none →
    s.on F.DMX_CFG_RETRO = true → s.on F.MEM_STATUS_TRAINED = true → 64 ≤ s.dmx.retro.length →
    (s.detect h r pref).dmx.lanes = s.dmx.lanes ∧ (s.detect h r pref).dmx.retro = s.dmx.retro ∧
    (s.detect h r pref).ctr Ctr.DMX_RETROOVF = (s.ctr Ctr.DMX_RETROOVF + 1) % 2 ^ 48 ∧
    (s.sysOn → (s.detect h r pref).isPend 65 = true)) ∧
  (∀ (s : State) (t : Time) (pref : Nat), s.nextRetro t pref = none → exec (.retroEntryTaken t pref) s = .next (s.at t)) ∧
  (∀ (s : State) (t : Time) (pref l : Nat) (b : Bool) (r : Retro), s.nextRetro t pref = some (r, l, b) →
    0 < gtDiff t.gt (gtSub r.detGt (s.symGt r.slice r.lh 4)) →
    60000000 < gtToNs (gtDiff t.gt (gtSub r.detGt (s.symGt r.slice r.lh 4))).toNat s.mainsFreq →
    exec (.retroEntryTaken t pref) s = .next ((State.countOutcome
      ((State.slStat { s.at t with dmx := { s.dmx with retro := s.dmx.retro.erase r } } r.slice
        (fun z => { z with ovls := z.ovls + b2n r.second }))) 11).mirror
      (expiredRecord r l (t.ft - r.detFt) (s.partner (r.slice / 128)).isSome))) ∧
  (∀ (s : State) (t : Time) (pref l : Nat) (b : Bool) (r : Retro), s.nextRetro t pref = some (r, l, b) →
    gtDiff t.gt (gtSub r.detGt (s.symGt r.slice r.lh 4)) ≤ 0 ∨
      gtToNs (gtDiff t.gt (gtSub r.detGt (s.symGt r.slice r.lh 4))).toNat s.mainsFreq ≤ 60000000 →
    ∃ u, exec (.retroEntryTaken t pref) s = .next u ∧ u.dmx.retro = s.dmx.retro.erase r ∧
      u.ctr Ctr.DMX_RETRO = (s.ctr Ctr.DMX_RETRO + 1) % 2 ^ 48 ∧
      (∃ x, u.dmx.lanes.find l = some x ∧ x.retro = true ∧ x.catchup = true ∧ x.state = 1 ∧ x.slice = r.slice ∧
        x.delay = t.ft - r.detFt) ∧
      u = { s with regs := u.regs, evt := u.evt, gtb := (s.at t).gtb, rfp := u.rfp, dmx := u.dmx }) ∧
  (∀ (s : State) (l : Nat), s.dmx.lanes.find l = none → exec (.retroCatchup l) s = .next s) ∧
  (∀ (s : State) (l : Nat) (x : Lane), s.dmx.lanes.find l = some x → x.catchup = false → exec (.retroCatchup l) s = .next s) ∧
  (∀ (s : State) (l : Nat) (x : Lane), s.dmx.lanes.find l = some x → x.catchup = true →
    ∃ u, exec (.retroCatchup l) s = .next u ∧ u.dmx = { s.dmx with lanes := s.dmx.lanes.put l { x with catchup := false } } ∧
      u = { s with rfp := u.rfp, dmx := u.dmx })

/-- Lanes (R142 to R146, R155). SFD_FOUND in the preamble gives the lane its SFD timestamp, of the history in catch-up, else the moment less
the receive latency, and takes it to the header; SFD_TIMEOUT there ends it NOSFD, with source 72 at FATHR. LAST_PAYLOAD_SYMBOL lets the
lane wait for its payload. I3_FRAME_END ends an I3 frame HDRINV for a length to 4, OK with its PSDU, or FCSFAIL. LANE_FADE past the
lane's FADESYM and FADETHR ends it FADE, LANE_BUFFER_ERROR LANEERR with a class 5 fault. On a lane that holds no frame, or in another
phase, each changes at most the time. The end of a frame frees its lane and leaves all but DMX, RFP, SIC, the inboxes and registers; OK
is counted and hands the payload on, as a native frame or an I3 one with its record in the mirror; NOSFD is counted. MIRROR_POP that
nothing bars drops the oldest record. What a cut frame had measured is a free value.
The model's own choices in it: log entries 38, 39, 137, 138.
Completes: sfdFound, sfdTimeout, lastPayloadSymbol, i3FrameEnd, laneFade, laneBufferError, mirrorPop. -/
def Obligations.DmxLanes : Prop :=
  (∀ (s : State) (l stamp : Nat) (meas : Meas) (x : Lane), s.laneIn l 1 = some x →
    ∃ u, exec (.sfdFound l stamp meas) s = .next u ∧
      u = { s with dmx := { s.dmx with lanes := s.dmx.lanes.put l { x with state := 2, sfdGt := s.sfdTime x stamp, meas := meas } } }) ∧
  (∀ (s : State) (x : Lane) (stamp : Nat),
    (x.catchup = true → s.sfdTime x stamp = s.gtOfCount (x.slice / 128) stamp) ∧
    (x.catchup = false → s.link (x.slice / 128) = 4 → s.sfdTime x stamp = gtSub stamp (nsToGt
      (s.fld (F.RFPn_LAT_RXLAT (x.slice / 128)) + chanLatency (s.sliceClass (x.slice / 128) (x.slice % 128))) s.mainsFreq))) ∧
  (∀ (s : State) (t : Time) (l : Nat) (x : Lane), s.laneIn l 1 = some x →
    exec (.sfdTimeout t l) s = .next ((State.fireIf { s.at t with
        dmx := { s.dmx with noSfd := s.dmx.noSfd.put x.hunter (s.dmx.noSfd.getD' x.hunter 0 + 1) } }
      (s.dmx.noSfd.getD' x.hunter 0 + 1 == 4 * s.fld F.DMX_THR_FATHR) 72).laneCut t l x 1)) ∧
  (∀ (s : State) (l : Nat) (x : Lane), s.laneIn l 3 = some x →
    ∃ u, exec (.lastPayloadSymbol l) s = .next u ∧
      u = { s with dmx := { s.dmx with lanes := s.dmx.lanes.put l { x with waiting := true } } }) ∧
  (∀ (s : State) (t : Time) (l len : Nat) (psdu : List Octet) (rise : Int) (m : SymMeas) (x : Lane), s.laneIn l 2 = some x →
    x.phy = true → len % 128 ≤ 4 →
    exec (.i3FrameEnd t l len psdu rise m) s = .next ((s.at t).laneEnd t l { x.overlap rise m with hdrWord := 0 } 4 0 [])) ∧
  (∀ (s : State) (t : Time) (l len : Nat) (psdu : List Octet) (rise : Int) (m : SymMeas) (x : Lane), s.laneIn l 2 = some x →
    x.phy = true → 4 < len % 128 →
    fcs16 ((x.octets m psdu).take ((x.octets m psdu).length - 2)) = leNat ((x.octets m psdu).drop ((x.octets m psdu).length - 2)) →
    exec (.i3FrameEnd t l len psdu rise m) s =
      .next ((s.at t).laneEnd t l { x.overlap rise m with hdrWord := len % 128 } 0 0 (x.octets m psdu))) ∧
  (∀ (s : State) (t : Time) (l len : Nat) (psdu : List Octet) (rise : Int) (m : SymMeas) (x : Lane), s.laneIn l 2 = some x →
    x.phy = true → 4 < len % 128 →
    fcs16 ((x.octets m psdu).take ((x.octets m psdu).length - 2)) ≠ leNat ((x.octets m psdu).drop ((x.octets m psdu).length - 2)) →
    exec (.i3FrameEnd t l len psdu rise m) s =
      .next ((s.at t).laneEnd t l { x.overlap rise m with hdrWord := len % 128 } 6 0 [])) ∧
  (∀ (s : State) (t : Time) (l n : Nat) (esn0 rise : Int) (m : SymMeas) (x : Lane), s.dmx.lanes.find l = some x → 2 ≤ x.state →
    (if F.DMX_THR_FADESYM.ext x.thr = 0 then 16 else F.DMX_THR_FADESYM.ext x.thr) ≤ n → esn0 < (F.DMX_THR_FADETHR.ext x.thr : Int) →
    exec (.laneFade t l n esn0 rise m) s = .next ((s.at t).laneEnd t l (x.overlap rise m) 7 0 [])) ∧
  (∀ (s : State) (t : Time) (l n : Nat) (esn0 rise : Int) (m : SymMeas) (x : Lane), s.dmx.lanes.find l = some x →
    x.state < 2 ∨ n < (if F.DMX_THR_FADESYM.ext x.thr = 0 then 16 else F.DMX_THR_FADESYM.ext x.thr) ∨
      (F.DMX_THR_FADETHR.ext x.thr : Int) ≤ esn0 → exec (.laneFade t l n esn0 rise m) s = .next (s.at t)) ∧
  (∀ (s : State) (t : Time) (l n stamp len : Nat) (psdu : List Octet) (esn0 rise : Int) (m : SymMeas) (meas : Meas),
    s.dmx.lanes.find l = none →
    exec (.sfdFound l stamp meas) s = .next s ∧ exec (.sfdTimeout t l) s = .next (s.at t) ∧ exec (.lastPayloadSymbol l) s = .next s ∧
    exec (.i3FrameEnd t l len psdu rise m) s = .next (s.at t) ∧ exec (.laneFade t l n esn0 rise m) s = .next (s.at t) ∧
    exec (.laneBufferError t l) s = .next (s.at t)) ∧
  (∀ (s : State) (t : Time) (l stamp : Nat) (meas : Meas) (x : Lane), s.dmx.lanes.find l = some x → x.state ≠ 1 →
    exec (.sfdFound l stamp meas) s = .next s ∧ exec (.sfdTimeout t l) s = .next (s.at t)) ∧
  (∀ (s : State) (l : Nat) (x : Lane), s.dmx.lanes.find l = some x → x.state ≠ 3 → exec (.lastPayloadSymbol l) s = .next s) ∧
  (∀ (s : State) (t : Time) (l len : Nat) (psdu : List Octet) (rise : Int) (m : SymMeas) (x : Lane), s.dmx.lanes.find l = some x →
    x.state ≠ 2 ∨ x.phy = false → exec (.i3FrameEnd t l len psdu rise m) s = .next (s.at t)) ∧
  (∀ (s : State) (t : Time) (l : Nat) (x : Lane), s.dmx.lanes.find l = some x →
    exec (.laneBufferError t l) s = .next (((s.at t).laneCut t l x 12).reportNow 5 4 73 73)) ∧
  (∀ (s : State) (t : Time) (l o corr : Nat) (x : Lane) (pl : List Octet),
    (s.laneEnd t l x o corr pl).dmx.lanes = s.dmx.lanes.del l ∧
    (s.laneEnd t l x o corr pl) = { s with
      regs := (s.laneEnd t l x o corr pl).regs, evt := (s.laneEnd t l x o corr pl).evt, dmx := (s.laneEnd t l x o corr pl).dmx,
      rfp := (s.laneEnd t l x o corr pl).rfp, sic := (s.laneEnd t l x o corr pl).sic, inbox := (s.laneEnd t l x o corr pl).inbox,
      i3inbox := (s.laneEnd t l x o corr pl).i3inbox }) ∧
  (∀ (s : State) (t : Time) (l corr : Nat) (x : Lane) (pl : List Octet), x.phy = false →
    (s.laneEnd t l x 0 corr pl).ctr Ctr.DMX_OUTOK = (s.ctr Ctr.DMX_OUTOK + 1) % 2 ^ 48 ∧
    (s.laneEnd t l x 0 corr pl).inbox.length = s.inbox.length + 1 ∧
    ((s.laneEnd t l x 0 corr pl).inbox.getLast?.map (fun f => f.payload)) = some pl ∧
    (s.laneEnd t l x 0 corr pl).i3inbox = s.i3inbox ∧ s.regsBut (s.laneEnd t l x 0 corr pl) (halves Ctr.DMX_OUTOK)) ∧
  (∀ (s : State) (t : Time) (l corr : Nat) (x : Lane) (pl : List Octet), x.phy = true → s.fld F.DMX_QCFG_MIRROR = 1 →
    s.dmx.mirror.length < 512 →
    (s.laneEnd t l x 0 corr pl).i3inbox.length = s.i3inbox.length + 1 ∧
    ((s.laneEnd t l x 0 corr pl).i3inbox.getLast?.map (fun f => f.payload)) = some pl ∧
    (s.laneEnd t l x 0 corr pl).inbox = s.inbox ∧
    (s.laneEnd t l x 0 corr pl).dmx.mirror = s.dmx.mirror ++ [laneRecord l x 0 corr false]) ∧
  (∀ (s : State) (t : Time) (l : Nat) (x : Lane), x.phy = true →
    (s.laneEnd t l x 1 0 []).ctr Ctr.DMX_NOSFD = (s.ctr Ctr.DMX_NOSFD + 1) % 2 ^ 48 ∧
    (s.laneEnd t l x 1 0 []).inbox = s.inbox ∧ (s.laneEnd t l x 1 0 []).sic = s.sic) ∧
  (∀ (s : State) (rq : Req), s.barred rq Reg.DMX_QPOP (some 1) = none →
    ∃ u, exec (.mirrorPop rq) s = .next u ∧ u.evt.resp = { data := [], ok := true } ∧ s.regsBut u [] ∧
      u = { s with regs := u.regs, evt := u.evt, dmx := { s.dmx with mirror := s.dmx.mirror.drop 1 } })

/-- SIC (R159 to R166, R171). REF_ENTRY_EXPIRE drops the references of 64 ms and more. SIC_JOB_START with an engine free takes the queued
job whose window ends earliest, once the window is written, counts it and forms its set; a job whose reads would exceed the limit stays,
RDHOLD shows it, and otherwise only the time changes. SIC_JOB_RESUME forms the set of a waiting job again. A formed job waits while a
lane overlaps its window or the reads are full, ends at once with its verdict, or runs, its reads requested. SIC_PASS_COMPLETE of a job
that is not running or still reads changes nothing; one with no member left ends with its result; a known member whose reference is gone
becomes unknown, another is subtracted; an unknown one that does not decode is tried, one that decodes passes its payload on, counted. A
job that ends is counted by its outcome, fires its source and goes. SIC_RQPOP that nothing bars drops the oldest job record.
The model's own choices in it: log entries 20, 21, 22, 40.
Completes: refEntryExpire, sicJobStart, sicJobResume, sicPassComplete, sicRqpop. -/
def Obligations.SicJobs : Prop :=
  (∀ (s : State) (t : Time), ∃ u, exec (.refEntryExpire t) s = .next u ∧
    u = { s.at t with sic := { s.sic with refs := s.sic.refs.filter (fun (e : RefEntry) => decide (t.ft < e.ft + 64000)) } }) ∧
  (∀ (s : State) (t : Time) (j : SicJob), s.engFree = true → earliestJob s.sic.jobs = some j → (s.at t).windowWritten j = true →
    (s.at t).readHeld ((s.at t).taken j) = false →
    exec (.sicJobStart t) s = .next (((s.at t).bump Ctr.SIC_JOBS).formJob ((s.at t).taken j) t)) ∧
  (∀ (s : State) (t : Time) (j : SicJob), s.engFree = true → earliestJob s.sic.jobs = some j → (s.at t).windowWritten j = true →
    (s.at t).readHeld ((s.at t).taken j) = true →
    exec (.sicJobStart t) s = .next (s.at t) ∧ (s.at t).rdHold = true) ∧
  (∀ (s : State) (t : Time), s.engFree = false ∨ earliestJob s.sic.jobs = none ∨
      (earliestJob s.sic.jobs).any (fun j => !(s.at t).windowWritten j) = true → exec (.sicJobStart t) s = .next (s.at t)) ∧
  (∀ (s : State) (t : Time) (id : Nat), s.sic.jobs.find? (fun (j : SicJob) => j.id == id && j.phase == .waiting) = none →
    exec (.sicJobResume t id) s = .next (s.at t)) ∧
  (∀ (s : State) (t : Time) (id : Nat) (j : SicJob),
    s.sic.jobs.find? (fun (j : SicJob) => j.id == id && j.phase == .waiting) = some j →
    exec (.sicJobResume t id) s = .next ((s.at t).formJob j t)) ∧
  (∀ (s : State) (t : Time) (j d : SicJob) (n : Nat), s.formSet j = (d, n) → s.laneOverlaps j.slice d.start d.fin = true →
    s.formJob j t = (s.bump Ctr.SIC_REFMISS n).putJob { d with phase := .waiting }) ∧
  (∀ (s : State) (t : Time) (j d : SicJob) (n : Nat) (o : SicOutcome), s.formSet j = (d, n) →
    s.laneOverlaps j.slice d.start d.fin = false → s.verdict d = some o → s.on F.SIC_RCFG_RECORD = false →
    (s.formJob j t).sic.jobs = s.sic.jobs.filter (fun (x : SicJob) => x.id != j.id) ∧
    (s.formJob j t).ctr (Ctr.SIC_RESOLVED + 8 * o.code) = (s.ctr (Ctr.SIC_RESOLVED + 8 * o.code) + 1) % 2 ^ 48) ∧
  (∀ (s : State) (t : Time) (j d : SicJob) (n : Nat), s.formSet j = (d, n) → s.laneOverlaps j.slice d.start d.fin = false →
    s.verdict d = none → s.readsFull d t.ft = false →
    (s.formJob j t).sic.jobs = s.sic.jobs.map (fun x => if x.id = j.id then { d with phase := .running } else x) ∧
    s.rfp.nextRead < (s.formJob j t).rfp.nextRead) ∧
  (∀ (s : State) (t : Time) (j d : SicJob) (n : Nat), s.formSet j = (d, n) → s.laneOverlaps j.slice d.start d.fin = false →
    s.verdict d = none → s.readsFull d t.ft = true →
    s.formJob j t = (s.bump Ctr.SIC_REFMISS n).putJob { d with phase := .waiting }) ∧
  (∀ (s : State) (id : Nat) (dec : Option PassDecode) (hidden : List HiddenDet),
    s.sic.jobs.find? (fun (j : SicJob) => j.id == id && j.phase == .running) = none →
    exec (.sicPassComplete id dec hidden) s = .next s) ∧
  (∀ (s : State) (id : Nat) (dec : Option PassDecode) (hidden : List HiddenDet) (j : SicJob),
    s.sic.jobs.find? (fun (j : SicJob) => j.id == id && j.phase == .running) = some j → s.jobReading id = true →
    exec (.sicPassComplete id dec hidden) s = .next s) ∧
  (∀ (s : State) (id : Nat) (dec : Option PassDecode) (hidden : List HiddenDet) (j : SicJob),
    s.sic.jobs.find? (fun (j : SicJob) => j.id == id && j.phase == .running) = some j → s.jobReading id = false →
    j.nextMember = none →
    exec (.sicPassComplete id dec hidden) s = .next (s.endJob j j.result)) ∧
  (∀ (s : State) (id : Nat) (dec : Option PassDecode) (hidden : List HiddenDet) (j k : SicJob) (m : Member),
    s.sic.jobs.find? (fun (j : SicJob) => j.id == id && j.phase == .running) = some j → s.jobReading id = false →
    j.nextMember = some m → m.known = false → (s.sicDecode j m dec).1 = none →
    k = (if j.passes = 0 ∧ F.SIC_CFG_HIDDEN.ext j.cfg = 1 then hidden.filter (fun d => bit (s.hunterMask j.slice) d.lh) else []).foldl
      (addHidden j.cfg j.div (fun lh => s.symGt j.slice lh 1)) { j with
        passes := j.passes + 1, members := updMember (fun (x : Member) => x == m) (fun x => { x with tried := true }) j.members } →
    exec (.sicPassComplete id dec hidden) s =
      .next (((s.sicDecode j m dec).2.bump Ctr.SIC_HIDDEN (k.members.length - j.members.length)).advanceJob k)) ∧
  (∀ (s : State) (id : Nat) (dec : Option PassDecode) (hidden : List HiddenDet) (j k : SicJob) (m : Member),
    s.sic.jobs.find? (fun (j : SicJob) => j.id == id && j.phase == .running) = some j → s.jobReading id = false →
    j.nextMember = some m → m.known = true → m.ref.all (fun r => s.sic.refs.any (fun (e : RefEntry) => e.id == r)) = true →
    k = (if j.passes = 0 ∧ F.SIC_CFG_HIDDEN.ext j.cfg = 1 then hidden.filter (fun d => bit (s.hunterMask j.slice) d.lh) else []).foldl
      (addHidden j.cfg j.div (fun lh => s.symGt j.slice lh 1)) { j with
        passes := j.passes + 1, members := updMember (fun (x : Member) => x == m) (fun x => { x with subtracted := true }) j.members } →
    exec (.sicPassComplete id dec hidden) s =
      .next ((s.bump Ctr.SIC_HIDDEN (k.members.length - j.members.length)).advanceJob k)) ∧
  (∀ (s : State) (id : Nat) (dec : Option PassDecode) (hidden : List HiddenDet) (j : SicJob) (m : Member) (r : Nat),
    s.sic.jobs.find? (fun (j : SicJob) => j.id == id && j.phase == .running) = some j → s.jobReading id = false →
    j.nextMember = some m → m.known = true →
    m.ref = some r → s.sic.refs.any (fun (e : RefEntry) => e.id == r) = false →
    exec (.sicPassComplete id dec hidden) s = .next ((s.bump Ctr.SIC_REFMISS).putJob { j with
        members := updMember (fun (x : Member) => x == m) (fun x => { x with ref := none, known := false }) j.members })) ∧
  (∀ (s : State) (id : Nat) (d : PassDecode) (hidden : List HiddenDet) (j : SicJob) (m : Member) (h : Hdr) (w c : Nat) (pl : List Octet),
    s.sic.jobs.find? (fun (j : SicJob) => j.id == id && j.phase == .running) = some j → s.jobReading id = false →
    j.nextMember = some m → m.known = false → hdrCheck m.lh d.w0 d.w1 = .ok h w c → (decodePayload h d.coded).payload = some pl →
    ∃ u, exec (.sicPassComplete id (some d) hidden) s = .next u ∧ u.inbox.length = s.inbox.length + 1 ∧
      (u.inbox.getLast?.map (fun f => f.payload)) = some pl ∧ u.ctr Ctr.SIC_FRMOK = (s.ctr Ctr.SIC_FRMOK + 1) % 2 ^ 48 ∧
      u.ctr Ctr.CDC_HDROK = (s.ctr Ctr.CDC_HDROK + 1) % 2 ^ 48) ∧
  (∀ (s : State) (j : SicJob) (o : SicOutcome), s.on F.SIC_RCFG_RECORD = false →
    (s.endJob j o).ctr (Ctr.SIC_RESOLVED + 8 * o.code) = (s.ctr (Ctr.SIC_RESOLVED + 8 * o.code) + 1) % 2 ^ 48 ∧
    (∀ k, o.src = some k → s.sysOn → (s.endJob j o).isPend k = true) ∧
    (s.endJob j o).sic = { s.sic with jobs := s.sic.jobs.filter (fun (x : SicJob) => x.id != j.id) } ∧
    s.regsEvt (s.endJob j o) (halves (Ctr.SIC_RESOLVED + 8 * o.code))) ∧
  (∀ (s : State) (rq : Req), s.barred rq Reg.SIC_RQPOP (some 1) = none →
    ∃ u, exec (.sicRqpop rq) s = .next u ∧ u.evt.resp = { data := [], ok := true } ∧ s.regsBut u [] ∧
      u = { s with regs := u.regs, evt := u.evt, sic := { s.sic with fifo := s.sic.fifo.drop 1 } })

/-! ### MSQ, BGT, link store, windows (chapters 09 to 11) -/

/-- Neighbour records (R184, R185). NBCMD_READ that nothing bars shows the record's 64 octets, zeros of a FREE one, in MSQ_NBDATA, with ERR
0 and source 105. NBCMD_WRITE that nothing bars, with valid data for a node that no other record holds, makes the neighbour of a FREE
record or changes the fields that firmware owns of another, a LOST one becoming CONFIRMED with the time of the data; data that is not
valid gives ERR 3, a node of another record ERR 1. NBCMD_FREE that nothing bars clears the record and its head with ERR 0 and source
105. SUPERVISION_TIMEOUT of a served record whose time is over makes it LOST, counted, its packets counted as lost, source 93; of any
other record it changes only the time.
The model's own choices in it: log entries 54.
Completes: nbcmdRead, nbcmdWrite, nbcmdFree, supervisionTimeout. -/
def Obligations.Neighbours : Prop :=
  (∀ (s : State) (rq : Req) (slot : Nat), s.barred rq Reg.MSQ_NBCMD (some (nbWord slot 0)) = none →
    ∃ u, exec (.nbcmdRead rq slot) s = .next u ∧
      u.regRun (Reg.MSQ_NBDATAw 0) 16 = packWords 16 ((s.nbr (slot % 65536)).elim (List.replicate 64 0) Nbr.octets) ∧
      u.fld F.MSQ_NBSTAT_ERR = 0 ∧ (s.sysOn → u.isPend 105 = true) ∧
      s.regsEvt u (Reg.MSQ_NBSTAT :: (List.range 16).map Reg.MSQ_NBDATAw) ∧ u = { s with regs := u.regs, evt := u.evt }) ∧
  (∀ (s : State) (rq : Req) (slot : Nat) (n : Nbr), s.barred rq Reg.MSQ_NBCMD (some (nbWord slot 1)) = none →
    s.nbData = some n → (s.nodeRec n.node).any (fun e => e.1 != slot % 65536) = false → s.nbr (slot % 65536) = none →
    ∃ u, exec (.nbcmdWrite rq slot) s = .next u ∧ u.fld F.MSQ_NBSTAT_ERR = 0 ∧ (s.sysOn → u.isPend 105 = true) ∧
      s.regsEvt u [Reg.MSQ_NBSTAT] ∧
      u = { s with regs := u.regs, evt := u.evt, msq := { s.msq with nbrs := s.msq.nbrs.put (slot % 65536) n } }) ∧
  (∀ (s : State) (rq : Req) (slot : Nat) (n o : Nbr), s.barred rq Reg.MSQ_NBCMD (some (nbWord slot 1)) = none →
    s.nbData = some n → (s.nodeRec n.node).any (fun e => e.1 != slot % 65536) = false → s.nbr (slot % 65536) = some o →
    ∃ u, exec (.nbcmdWrite rq slot) s = .next u ∧ u.fld F.MSQ_NBSTAT_ERR = 0 ∧ (s.sysOn → u.isPend 105 = true) ∧
      s.regsEvt u [Reg.MSQ_NBSTAT] ∧
      u = { s with regs := u.regs, evt := u.evt, msq := { s.msq with nbrs := s.msq.nbrs.put (slot % 65536) (
        { o with eui := n.eui, node := n.node, key := n.key, sw := n.sw, par := n.par, dep := n.dep, supto := n.supto,
                 st := if o.st = 3 then 1 else o.st, lastGt := if o.st = 3 then n.lastGt else o.lastGt }) } }) ∧
  (∀ (s : State) (rq : Req) (slot : Nat), s.barred rq Reg.MSQ_NBCMD (some (nbWord slot 1)) = none → s.nbData = none →
    ∃ u, exec (.nbcmdWrite rq slot) s = .next u ∧ u.fld F.MSQ_NBSTAT_ERR = 3 ∧ s.regsEvt u [Reg.MSQ_NBSTAT] ∧
      u = { s with regs := u.regs, evt := u.evt }) ∧
  (∀ (s : State) (rq : Req) (slot : Nat) (n : Nbr) (e : Nat × Nbr), s.barred rq Reg.MSQ_NBCMD (some (nbWord slot 1)) = none →
    s.nbData = some n → s.nodeRec n.node = some e → e.1 ≠ slot % 65536 →
    ∃ u, exec (.nbcmdWrite rq slot) s = .next u ∧ u.fld F.MSQ_NBSTAT_ERR = 1 ∧ s.regsEvt u [Reg.MSQ_NBSTAT] ∧
      u = { s with regs := u.regs, evt := u.evt }) ∧
  (∀ (s : State) (rq : Req) (slot : Nat), s.barred rq Reg.MSQ_NBCMD (some (nbWord slot 2)) = none →
    ∃ u, exec (.nbcmdFree rq slot) s = .next u ∧ u.msq.nbrs = s.msq.nbrs.del (slot % 65536) ∧
      u.msq = { (s.forgetHead (slot % 65536)).msq with nbrs := u.msq.nbrs } ∧ u.fld F.MSQ_NBSTAT_ERR = 0 ∧
      (s.sysOn → u.isPend 105 = true) ∧ u = { s with regs := u.regs, evt := u.evt, qmg := u.qmg, msq := u.msq }) ∧
  (∀ (s : State) (t : Time) (r : Nat) (n : Nbr), s.nbr r = some n → n.st = 1 ∨ n.st = 2 → (s.at t).supOver n = true →
    ∃ u, exec (.supervisionTimeout t r) s = .next u ∧ u.nbr r = some { n with st := 3, retries := 0 } ∧
      u.told = s.told ++ [.lost n.node] ∧ u.ctr Ctr.MSQ_LOST = (s.ctr Ctr.MSQ_LOST + 1) % 2 ^ 48 ∧
      u.ctr Ctr.MSQ_TXLOST = (s.ctr Ctr.MSQ_TXLOST + s.queuedPkts r) % 2 ^ 48 ∧ (s.sysOn → u.isPend 93 = true) ∧
      u = { s with
        regs := u.regs, evt := u.evt, gtb := (s.at t).gtb, qmg := u.qmg, msq := u.msq, told := u.told,
        slv := { s.slv with lost := s.slv.lost ++ [n.node] } }) ∧
  (∀ (s : State) (t : Time) (r : Nat), (s.nbr r).any (fun n => (n.st == 1 || n.st == 2) && (s.at t).supOver n) = false →
    exec (.supervisionTimeout t r) s = .next (s.at t))

/-- MSQ receiving (R186, R188, R199, R200, R204). MSQ_FRAME_RECEIVE takes the frame at the head of the input, and with none changes only the
time. A frame whose header is malformed is counted in BADFRM, one with a short address of another PAN in FOREIGN. A class S frame of no
record counts in NOTHOME, of a record that is not served in NOTACT with firmware told; an ACK that is not awaited changes nothing; a
frame below the window counts in STALE, with source 97 at STALETHR; any other is opened with its key, and counts in NOKEY, in MICFAIL
with source 96 at MICTHR, or is verified, an awaited ACK as such. The receive counter moves up to the frame's. NODE_ACK_TIMEOUT after
the ACK was due fails the attempt, and else changes only the time; a failed attempt is counted by the record, and the one past MAXRETRY
drops the packet, counted, source 100.
The model's own choices in it: log entries 56, 57, 58, 140.
Completes: msqFrameReceive, nodeAckTimeout. -/
def Obligations.MsqReceives : Prop :=
  (∀ (s : State) (t : Time) (f : RxFrame) (l : List RxFrame), s.inbox = f :: l →
    exec (.msqFrameReceive t.gt t.ft) s = .next (State.nativeIn { s.at t with inbox := l } f)) ∧
  (∀ (s : State) (t : Time), s.inbox = [] → exec (.msqFrameReceive t.gt t.ft) s = .next (s.at t)) ∧
  (∀ (s : State) (t : Time) (f : RxFrame) (l : List RxFrame), s.inbox = f :: l → macHdr f.payload = none →
    s.fld F.DMX_QCFG_MIRROR = 0 →
    ∃ u, exec (.msqFrameReceive t.gt t.ft) s = .next u ∧ u.ctr Ctr.MSQ_BADFRM = (s.ctr Ctr.MSQ_BADFRM + 1) % 2 ^ 48 ∧
      s.regsBut u (halves Ctr.MSQ_BADFRM) ∧ u = { s with regs := u.regs, gtb := (s.at t).gtb, inbox := l }) ∧
  (∀ (s : State) (t : Time) (f : RxFrame) (l : List RxFrame) (h : MacHdr), s.inbox = f :: l →
    macHdr f.payload = some h → h.typ ≠ 2 → h.typ ≠ 4 → h.long = false → h.addr / 2 ^ 18 ≠ s.fld F.MSQ_CFG_PANTAG →
    s.fld F.DMX_QCFG_MIRROR = 0 →
    ∃ u, exec (.msqFrameReceive t.gt t.ft) s = .next u ∧ u.ctr Ctr.MSQ_FOREIGN = (s.ctr Ctr.MSQ_FOREIGN + 1) % 2 ^ 48 ∧
      s.regsBut u (halves Ctr.MSQ_FOREIGN) ∧ u = { s with regs := u.regs, gtb := (s.at t).gtb, inbox := l }) ∧
  (∀ (s : State) (f : RxFrame) (h : MacHdr), s.nodeRec (h.addr % 2 ^ 18) = none →
    s.classSIn f h = s.bump Ctr.MSQ_NOTHOME) ∧
  (∀ (s : State) (f : RxFrame) (h : MacHdr) (r : Nat) (n : Nbr), s.nodeRec (h.addr % 2 ^ 18) = some (r, n) →
    n.st ≠ 1 → n.st ≠ 2 → s.classSIn f h = (s.bump Ctr.MSQ_NOTACT).tell (.notAct n.node)) ∧
  (∀ (s : State) (f : RxFrame) (h : MacHdr) (r : Nat) (n : Nbr), s.nodeRec (h.addr % 2 ^ 18) = some (r, n) →
    n.st = 1 ∨ n.st = 2 → h.typ = 1 → s.awaited r (gtSub f.qrec.sfdGt (s.symGt f.qrec.slice f.qrec.lh 10)) = none →
    s.classSIn f h = s) ∧
  (∀ (s : State) (f : RxFrame) (h : MacHdr) (r : Nat) (n : Nbr), s.nodeRec (h.addr % 2 ^ 18) = some (r, n) →
    n.st = 1 ∨ n.st = 2 →
    h.typ ≠ 1 ∨ (s.awaited r (gtSub f.qrec.sfdGt (s.symGt f.qrec.slice f.qrec.lh 10))).isSome = true → h.fcnt + 63 < n.rxHigh →
    (s.classSIn f h).ctr Ctr.MSQ_STALE = (s.ctr Ctr.MSQ_STALE + 1) % 2 ^ 48 ∧
    (s.classSIn f h).msq = { s.msq with stales := s.msq.stales + 1 } ∧
    (s.sysOn → s.fld F.MSQ_THR_STALETHR ≠ 0 → s.msq.stales + 1 = s.fld F.MSQ_THR_STALETHR →
      (s.classSIn f h).isPend 97 = true) ∧ s.regsEvt (s.classSIn f h) (halves Ctr.MSQ_STALE)) ∧
  (∀ (s : State) (f : RxFrame) (h : MacHdr) (r : Nat) (n : Nbr), s.nodeRec (h.addr % 2 ^ 18) = some (r, n) →
    n.st = 1 ∨ n.st = 2 → h.typ ≠ 1 → n.rxHigh ≤ h.fcnt + 63 →
    s.classSIn f h = match s.keyRequest (.link n.node) n.key with
      | (none, u) => u.bump Ctr.MSQ_NOKEY
      | (some key, u) => match openFrame key n.eui h f.payload with
        | none => u.micFail
        | some pt => u.verifiedIn r n key f h pt) ∧
  (∀ (s : State) (f : RxFrame) (h : MacHdr) (r : Nat) (n : Nbr) (a : Await), s.nodeRec (h.addr % 2 ^ 18) = some (r, n) →
    n.st = 1 ∨ n.st = 2 → h.typ = 1 → s.awaited r (gtSub f.qrec.sfdGt (s.symGt f.qrec.slice f.qrec.lh 10)) = some a →
    n.rxHigh ≤ h.fcnt + 63 →
    s.classSIn f h = match s.keyRequest (.link n.node) n.key with
      | (none, u) => u.bump Ctr.MSQ_NOKEY
      | (some key, u) => match openFrame key n.eui h f.payload with
        | none => u.micFail
        | some pt => u.nodeAck r n a f pt) ∧
  (∀ s : State, s.micFail.ctr Ctr.MSQ_MICFAIL = (s.ctr Ctr.MSQ_MICFAIL + 1) % 2 ^ 48 ∧
    s.micFail.msq = { s.msq with micFails := s.msq.micFails + 1 } ∧
    (s.sysOn → s.fld F.MSQ_THR_MICTHR ≠ 0 → s.msq.micFails + 1 = s.fld F.MSQ_THR_MICTHR → s.micFail.isPend 96 = true) ∧
    s.regsEvt s.micFail (halves Ctr.MSQ_MICFAIL)) ∧
  (∀ (n : Nbr) (f : Nat), n.rxHigh < f → (n.mark f).rxHigh = f ∧ (n.mark f).marked f = true) ∧
  (∀ (s : State) (t : Time) (r : Nat) (a : Await), s.msq.awaits.find? (fun (a : Await) => a.record == r) = some a →
    0 < gtDiff t.gt ((s.at t).ackDue a) → exec (.nodeAckTimeout t r) s = .next ((s.at t).attemptFailed r a.pkt)) ∧
  (∀ (s : State) (t : Time) (r : Nat) (a : Await), s.msq.awaits.find? (fun (a : Await) => a.record == r) = some a →
    gtDiff t.gt ((s.at t).ackDue a) ≤ 0 → exec (.nodeAckTimeout t r) s = .next (s.at t)) ∧
  (∀ (s : State) (t : Time) (r : Nat), s.msq.awaits.find? (fun (a : Await) => a.record == r) = none →
    exec (.nodeAckTimeout t r) s = .next (s.at t)) ∧
  (∀ (s : State) (r pkt : Nat) (n : Nbr), s.nbr r = some n → n.retries + 1 ≤ s.fld F.MSQ_TXCFG_MAXRETRY →
    s.attemptFailed r pkt = { s with msq := { s.msq with
      awaits := s.msq.awaits.filter (fun (a : Await) => a.record != r),
      nbrs := s.msq.nbrs.put r { n with retries := n.retries + 1 } } }) ∧
  (∀ (s : State) (r pkt : Nat) (n : Nbr), s.nbr r = some n → s.fld F.MSQ_TXCFG_MAXRETRY < n.retries + 1 →
    s.qmg.pkts.find pkt = none →
    (s.attemptFailed r pkt).nbr r = some { n with retries := 0 } ∧
    (s.attemptFailed r pkt).ctr Ctr.MSQ_TXDROP = (s.ctr Ctr.MSQ_TXDROP + 1) % 2 ^ 48 ∧
    (s.sysOn → (s.attemptFailed r pkt).isPend 100 = true))

/-- MSQ transmitting (R197, R199 to R201, R216, R218). MSQ_TX_SELECT at an occurrence of a transmit or shared cell in service: with its
template off, or no record, source 107; a template that carries nothing now, or no slice, fires source 103 for a beacon and else changes
only the time; a beacon cell sends the beacon, whose conditions missing fire source 103; a dedicated cell sends the head of its record's
queue, a shared one cells that wait, or a frame to a node with no record; without a valid GT, a served record, or a packet that may go,
only the time changes. A frame that is too long is not sent. EXP_CELL_END of an expected cell that is over records whether it was heard;
unheard, with the search enabled, it queues a search, or counts SRCHDROP with source 110; any other cell changes only the time.
SEARCH_START begins the oldest of the queued searches while fewer than 8 run. SEARCH_SEGMENT, once its reads are over, queues the
detections it looks for, or counts RETROOVF with source 65, and goes on or ends. CCA_BACKOFF_EXPIRE when due sends the frame again where
it is still the head and fits the cell, and else drops it; before that only the time changes.
The model's own choices in it: log entries 55, 59, 60, 63, 140.
Completes: msqTxSelect, expCellEnd, searchStart, searchSegment, ccaBackoffExpire. -/
def Obligations.MsqTransmits : Prop :=
  (∀ (s : State) (t : Time) (c : Cell) (ec r : Nat),
    s.level = 0 ∨ s.allCells.contains c = false ∨ s.cellAt c ec = false ∨ c.dir = 0 →
    exec (.msqTxSelect t c ec r) s = .next (s.at t)) ∧
  (∀ (s : State) (t : Time) (c : Cell) (ec r : Nat), s.level ≠ 0 → s.allCells.contains c = true → s.cellAt c ec = true →
    c.dir ≠ 0 → s.tplOn c.tpl = false ∨ c.dir = 1 ∧ c.beacon = false ∧ s.nbr c.record = none →
    ∃ u, exec (.msqTxSelect t c ec r) s = .next u ∧ (s.sysOn → u.isPend 107 = true) ∧ s.regsEvt u [] ∧
      u = { s.at t with regs := u.regs, evt := u.evt }) ∧
  (∀ (s : State) (t : Time) (c : Cell) (ec r : Nat), s.level ≠ 0 → s.allCells.contains c = true → s.cellAt c ec = true →
    c.dir ≠ 0 → c.dir ≠ 1 ∨ c.beacon = true ∨ s.nbr c.record ≠ none → s.tplOn c.tpl = true →
    s.tplCarries c.tpl = false ∨ (s.cellChannel (s.tplClass c.tpl) ec c.chofs).all
      (fun ch => (s.txSlice (s.tplClass c.tpl) ch).isNone) = true →
    exec (.msqTxSelect t c ec r) s = .next ((s.at t).fireIf c.beacon 103)) ∧
  (∀ (s : State) (t : Time) (c : Cell) (ec r ch p k : Nat), s.level ≠ 0 → s.allCells.contains c = true → s.cellAt c ec = true →
    c.dir ≠ 0 → c.beacon = true → s.tplOn c.tpl = true → s.tplCarries c.tpl = true → s.cellChannel (s.tplClass c.tpl) ec c.chofs = some ch →
    s.txSlice (s.tplClass c.tpl) ch = some (p, k) →
    exec (.msqTxSelect t c ec r) s = .next ((s.at t).sendBeacon c ec p k)) ∧
  (∀ (s : State) (t : Time) (c : Cell) (ec r : Nat), c.beacon = false → s.tplOn c.tpl = true → c.dir = 2 →
    s.gtValid = false ∨ s.busyWith r = true ∨ s.headPkt r = none ∨ (s.nbr r).any (fun n => n.st != 1) = true ∨
      ((s.nbr r).isSome = true ∧ (s.headPkt r).all (fun e => e.2.info.kind != 9 || e.2.info.flag) = true) →
    exec (.msqTxSelect t c ec r) s = .next (s.at t)) ∧
  (∀ (s : State) (t : Time) (c : Cell) (ec r : Nat) (n : Nbr), c.beacon = false → s.tplOn c.tpl = true → c.dir = 1 →
    s.nbr c.record = some n →
    s.gtValid = false ∨ s.busyWith c.record = true ∨ n.st ≠ 1 ∨
      (s.headPkt c.record).all (fun e => e.2.info.kind == 9 && !e.2.info.flag) = true →
    exec (.msqTxSelect t c ec r) s = .next (s.at t)) ∧
  (∀ (s : State) (c : Cell) (e p k : Nat), s.actFld F.MSQ_BCN_EN ≠ 1 ∨ s.gtValid = false →
    s.sendBeacon c e p k = s.fire 103) ∧
  (∀ (s : State) (t : Time) (c : Cell) (ec r ch p k pkt : Nat) (x : Pkt) (n : Nbr), s.level ≠ 0 → s.allCells.contains c = true →
    s.cellAt c ec = true → c.dir = 1 → c.beacon = false → s.tplOn c.tpl = true → s.tplCarries c.tpl = true →
    s.cellChannel (s.tplClass c.tpl) ec c.chofs = some ch → s.txSlice (s.tplClass c.tpl) ch = some (p, k) → s.gtValid = true →
    s.busyWith c.record = false → s.headPkt c.record = some (pkt, x) → s.nbr c.record = some n → n.st = 1 →
    x.info.kind ≠ 9 ∨ x.info.flag = true →
    exec (.msqTxSelect t c ec r) s =
      .next ((s.at t).sendDown c ec p k c.record n pkt x true (.down c.record pkt))) ∧
  (∀ (s : State) (t : Time) (c : Cell) (ec r ch p k pkt : Nat) (x : Pkt) (n : Nbr), s.level ≠ 0 → s.allCells.contains c = true →
    s.cellAt c ec = true → c.dir = 2 → c.beacon = false → s.tplOn c.tpl = true → s.tplCarries c.tpl = true →
    s.cellChannel (s.tplClass c.tpl) ec c.chofs = some ch → s.txSlice (s.tplClass c.tpl) ch = some (p, k) → s.gtValid = true →
    s.busyWith r = false → s.headPkt r = some (pkt, x) → s.nbr r = some n → n.st = 1 → x.info.kind = 9 → x.info.flag = false →
    exec (.msqTxSelect t c ec r) s = .next ((s.at t).sendDown c ec p k r n pkt x false (.cells r pkt))) ∧
  (∀ (s : State) (t : Time) (c : Cell) (ec r ch p k pkt : Nat) (x : Pkt), s.level ≠ 0 → s.allCells.contains c = true →
    s.cellAt c ec = true → c.dir = 2 → c.beacon = false → s.tplOn c.tpl = true → s.tplCarries c.tpl = true →
    s.cellChannel (s.tplClass c.tpl) ec c.chofs = some ch → s.txSlice (s.tplClass c.tpl) ch = some (p, k) → s.gtValid = true →
    s.busyWith r = false → s.headPkt r = some (pkt, x) → s.nbr r = none →
    exec (.msqTxSelect t c ec r) s = .next ((s.at t).sendRaw (s.tplLh c.tpl) p k ((s.at t).cellE c ec) ((s.at t).cellFin c ec)
      (s.tplMaxDur c.tpl) r pkt x 1)) ∧
  (∀ (s : State) (c : Cell) (e p k r pkt : Nat) (n : Nbr) (x : Pkt) (ar : Bool) (w : TxWhat),
    s.tplMaxDur c.tpl * 16000 < frameNs (s.tplLh c.tpl) 
      { len := downLen x, par := n.par, dep := fitDepth (downLen x) n.dep, sw := min n.sw (s.tplLh c.tpl) } (chipRate (s.sliceClass p k)) ∨ 2047 < downLen x →
    s.sendDown c e p k r n pkt x ar w = s) ∧
  (∀ (s : State) (lh p k start e maxdur r pkt tries : Nat) (x : Pkt), x.data = [] ∨ 2047 < x.data.length →
    s.sendRaw lh p k start e maxdur r pkt x tries = s) ∧
  (∀ (s : State) (t : Time) (c : Cell) (ec : Nat), s.allCells.contains c = false ∨ s.cellAt c ec = false ∨ c.exp = false ∨
      c.dir ≠ 0 ∨ s.tplCarries c.tpl = false ∨ gtDiff t.gt ((s.at t).cellFin c ec) < 0 ∨ s.nbr c.record = none →
    exec (.expCellEnd t c ec) s = .next (s.at t)) ∧
  (∀ (s : State) (t : Time) (c : Cell) (ec : Nat) (n : Nbr) (b : Bool), s.allCells.contains c = true → s.cellAt c ec = true → c.exp = true →
    c.dir = 0 → s.tplCarries c.tpl = true → 0 ≤ gtDiff t.gt ((s.at t).cellFin c ec) → s.nbr c.record = some n →
    b = s.msq.verified.any (fun (v : Nat × Nat) => v.1 == c.record &&
      Nat.ble (gtDiff v.2 ((s.at t).cellE c ec)).natAbs (usToGt 32000 (s.at t).mainsFreq)) → b = true ∨ s.searchOk = false →
    exec (.expCellEnd t c ec) s = .next ((s.at t).expOutcome n.node (s.tplClass c.tpl) b)) ∧
  (∀ (s : State) (t : Time) (c : Cell) (ec : Nat) (n : Nbr) (b : Bool), s.allCells.contains c = true → s.cellAt c ec = true → c.exp = true →
    c.dir = 0 → s.tplCarries c.tpl = true → 0 ≤ gtDiff t.gt ((s.at t).cellFin c ec) → s.nbr c.record = some n →
    b = s.msq.verified.any (fun (v : Nat × Nat) => v.1 == c.record &&
      Nat.ble (gtDiff v.2 ((s.at t).cellE c ec)).natAbs (usToGt 32000 (s.at t).mainsFreq)) → b = false → s.searchOk = true →
    (s.msq.searches.filter (fun (x : Search) => !x.started)).length < 256 →
    exec (.expCellEnd t c ec) s = .next { (s.at t).expOutcome n.node (s.tplClass c.tpl) false with msq := { s.msq with
      searches := s.msq.searches ++ [⟨s.msq.nextSearch, c.record, c, (s.at t).cellE c ec, false, 8, []⟩],
      nextSearch := s.msq.nextSearch + 1 } }) ∧
  (∀ (s : State) (t : Time) (c : Cell) (ec : Nat) (n : Nbr) (b : Bool), s.allCells.contains c = true → s.cellAt c ec = true → c.exp = true →
    c.dir = 0 → s.tplCarries c.tpl = true → 0 ≤ gtDiff t.gt ((s.at t).cellFin c ec) → s.nbr c.record = some n →
    b = s.msq.verified.any (fun (v : Nat × Nat) => v.1 == c.record &&
      Nat.ble (gtDiff v.2 ((s.at t).cellE c ec)).natAbs (usToGt 32000 (s.at t).mainsFreq)) → b = false → s.searchOk = true →
    256 ≤ (s.msq.searches.filter (fun (x : Search) => !x.started)).length →
    exec (.expCellEnd t c ec) s =
      .next ((((s.at t).expOutcome n.node (s.tplClass c.tpl) false).bump Ctr.MSQ_SRCHDROP).fire 110)) ∧
  (∀ s : State, 8 ≤ (s.msq.searches.filter (fun (x : Search) => x.started)).length ∨
    s.msq.searches.find? (fun (x : Search) => !x.started) = none → exec .searchStart s = .next s) ∧
  (∀ (s : State) (x : Search), (s.msq.searches.filter (fun (x : Search) => x.started)).length < 8 →
    s.msq.searches.find? (fun (x : Search) => !x.started) = some x →
    ∃ u, exec .searchStart s = .next u ∧ u.msq = { s.msq with
        searches := s.msq.searches.map (fun (z : Search) => if z.id = x.id then { x with started := true } else z) } ∧
      u.ctr Ctr.MSQ_SRCH = (s.ctr Ctr.MSQ_SRCH + 1) % 2 ^ 48 ∧ s.regsBut u (halves Ctr.MSQ_SRCH) ∧
      u = { s with regs := u.regs, rfp := u.rfp, msq := u.msq }) ∧
  (∀ (s : State) (t : Time) (id : Nat) (dets : List SearchDet) (x : Search),
    s.msq.searches.find? (fun (x : Search) => x.id == id && x.started) = some x → x.ok = [] → x.left ≤ 1 →
    s.rfp.reads.any (fun (r : HistRead) => r.reader == .msq && r.tag == id) = false →
    ∃ u, exec (.searchSegment t id dets) s = .next u ∧
      u = { s.at t with msq := { s.msq with searches := s.msq.searches.filter (fun (z : Search) => z.id != id) } }) ∧
  (∀ (s : State) (t : Time) (id : Nat) (dets : List SearchDet) (x : Search),
    s.msq.searches.find? (fun (x : Search) => x.id == id && x.started) = some x → x.left ≤ 1 →
    s.rfp.reads.any (fun (r : HistRead) => r.reader == .msq && r.tag == id) = false → s.dmx.retro.length + dets.length ≤ 64 →
    ∃ u, exec (.searchSegment t id dets) s = .next u ∧
      u.dmx.retro.length = s.dmx.retro.length + (dets.filter (fun d => (s.at t).searchLooks x d)).length ∧
      u.msq = { s.msq with searches := s.msq.searches.filter (fun (z : Search) => z.id != id) } ∧ s.regsBut u []) ∧
  (∀ (s : State) (t : Time) (id : Nat) (dets : List SearchDet),
    s.msq.searches.find? (fun (x : Search) => x.id == id && x.started) = none ∨
      s.rfp.reads.any (fun (r : HistRead) => r.reader == .msq && r.tag == id) = true →
    exec (.searchSegment t id dets) s = .next (s.at t)) ∧
  (∀ (s : State) (t : Time) (id : Nat) (d : SearchDet) (x : Search),
    s.msq.searches.find? (fun (x : Search) => x.id == id && x.started) = some x → x.left ≤ 1 →
    s.rfp.reads.any (fun (r : HistRead) => r.reader == .msq && r.tag == id) = false → 64 ≤ s.dmx.retro.length →
    (s.at t).searchLooks x d = true →
    ∃ u, exec (.searchSegment t id [d]) s = .next u ∧ u.dmx = s.dmx ∧
      u.ctr Ctr.DMX_RETROOVF = (s.ctr Ctr.DMX_RETROOVF + 1) % 2 ^ 48 ∧ (s.sysOn → u.isPend 65 = true) ∧
      s.regsEvt u (halves Ctr.DMX_RETROOVF)) ∧
  (∀ (s : State) (t : Time) (id : Nat) (x : Search),
    s.msq.searches.find? (fun (x : Search) => x.id == id && x.started) = some x → 1 < x.left →
    s.rfp.reads.any (fun (r : HistRead) => r.reader == .msq && r.tag == id) = false →
    ∃ u, exec (.searchSegment t id []) s = .next u ∧
      u.msq = { s.msq with searches := s.msq.searches.map (fun (z : Search) =>
        if z.id = id then { x with left := x.left - 1, ok := [] } else z) } ∧
      u = { s.at t with regs := u.regs, rfp := u.rfp, msq := u.msq }) ∧
  (∀ (s : State) (t : Time) (id : Nat), s.msq.backoffs.find id = none → exec (.ccaBackoffExpire t id) s = .next (s.at t)) ∧
  (∀ (s : State) (t : Time) (id due : Nat) (x : MsqTx), s.msq.backoffs.find id = some (due, x) → due ≤ t.ft →
    (match x.what with | .raw _ _ => true | _ => false) = false →
    exec (.ccaBackoffExpire t id) s = .next { s.at t with msq := { s.msq with backoffs := s.msq.backoffs.del id } }) ∧
  (∀ (s : State) (t : Time) (id due : Nat) (x : MsqTx), s.msq.backoffs.find id = some (due, x) → t.ft < due →
    exec (.ccaBackoffExpire t id) s = .next (s.at t)) ∧
  (∀ (s : State) (t : Time) (id due r pkt : Nat) (x : MsqTx), s.msq.backoffs.find id = some (due, x) → due ≤ t.ft →
    x.what = .raw r pkt → (s.headPkt r).all (fun e => e.1 != pkt || decide (0 <
      gtDiff (gtAdd ((s.at t).backoffStart x) ((s.at t).airGt x.lh x.hdr (chipRate (s.sliceClass x.port x.slice)))) x.cellEnd)) = true →
    ∃ u, exec (.ccaBackoffExpire t id) s = .next u ∧
      u = { s.at t with msq := { s.msq with backoffs := s.msq.backoffs.del id } }) ∧
  (∀ (s : State) (t : Time) (id due r pkt : Nat) (x : MsqTx) (y : Pkt), s.msq.backoffs.find id = some (due, x) → due ≤ t.ft →
    x.what = .raw r pkt → s.headPkt r = some (pkt, y) →
    gtDiff (gtAdd ((s.at t).backoffStart x) ((s.at t).airGt x.lh x.hdr (chipRate (s.sliceClass x.port x.slice)))) x.cellEnd ≤ 0 →
    exec (.ccaBackoffExpire t id) s = .next (State.sendRaw
      { s.at t with msq := { s.msq with backoffs := s.msq.backoffs.del id } } x.lh x.port x.slice ((s.at t).backoffStart x)
      x.cellEnd (2 ^ 13) r pkt y (x.tries + 1)))

/-- BGT (R209 to R216). BGT_CHARGE of no stream changes only the time; of a stream it is charged, and, granted where the band needs it,
followed by a channel assessment. A charge that a rule refuses is counted by its reason, source 114 for TXMAX and RESV, and charges
nothing; any other is granted, counted and kept for its settlement. BUCKET_ADVANCE drops the buckets that have left the 64 and keeps
every account.
The model's own choices in it: log entries 41, 44, 45.
Windows, slot boundaries and the link store (R136, R203, R223, R226), of a PD_SYS that is live; while it is not, ONE_SECOND_WINDOW and
SLOT_BOUNDARY do nothing. ONE_SECOND_WINDOW restarts the counts of a second once the second of GT has changed, and else changes only the
time. SLOT_BOUNDARY with no mode due commits what is staged, announces, applies patches, prunes the confirmed sets and fires source 107
for cells that are skipped; with nothing staged and no patch it only notes an announced step, source 101. A patch is applied whole, at
most 16 at a boundary, source 108. SLV_OBSERVATION takes the oldest observation and folds it into the node's link record, if firmware
does not own that, or into a new one; with PD_SLV not ready it is dropped, with none nothing happens. LINK_RECORD_AGE clears VALID of a
record not heard for LINKAGE, unless it is pinned, and else changes only the time.
The model's own choices in it: log entries 64, 124, 140.
Completes: bgtCharge, bucketAdvance, oneSecondWindow, slotBoundary, slvObservation, linkRecordAge. -/
def Obligations.BudgetsWindowsAndLinks : Prop :=
  (∀ (s : State) (t : Time) (id chips : Nat) (kind : TxKind), s.findStream id = none →
    exec (.bgtCharge t id kind chips) s = .next (s.at t)) ∧
  (∀ (s : State) (t : Time) (id chips n : Nat) (kind : TxKind) (x : Stream), s.findStream id = some (n, x) →
    ((s.at t).chargeOf n x id kind chips).1 ≠ none ∨
      s.lbt (s.sliceCentre n x.slice).toNat (spacing (s.sliceClass n x.slice)) kind = none →
    exec (.bgtCharge t id kind chips) s = .next ((s.at t).chargeOf n x id kind chips).2) ∧
  (∀ (s : State) (t : Time) (id chips n w : Nat) (th : Int) (kind : TxKind) (x : Stream), s.findStream id = some (n, x) →
    ((s.at t).chargeOf n x id kind chips).1 = none →
    s.lbt (s.sliceCentre n x.slice).toNat (spacing (s.sliceClass n x.slice)) kind = some (w, th) →
    exec (.bgtCharge t id kind chips) s = .next (((s.at t).chargeOf n x id kind chips).2.ccaStart id .bgt n x.slice w th true true
      (s.ccaWindow n x.start w))) ∧
  (∀ (s : State) (id f sp start dur rate : Nat) (kind : TxKind) (r : BgtReason), s.bgtRefusal f sp start dur kind = some r →
    (s.charge id f sp start dur rate kind).1 = some r ∧
    (s.charge id f sp start dur rate kind).2.ctr r.ctr = (s.ctr r.ctr + 1) % 2 ^ 48 ∧
    (s.sysOn → r = .txmax ∨ r = .resv → (s.charge id f sp start dur rate kind).2.isPend 114 = true) ∧
    s.regsEvt (s.charge id f sp start dur rate kind).2 (Reg.BGT_STATUS :: halves r.ctr) ∧
    (s.charge id f sp start dur rate kind).2 = { s with
      regs := (s.charge id f sp start dur rate kind).2.regs, evt := (s.charge id f sp start dur rate kind).2.evt }) ∧
  (∀ (s : State) (id f sp start dur rate : Nat) (kind : TxKind), s.bgtRefusal f sp start dur kind = none →
    (s.charge id f sp start dur rate kind).1 = none ∧
    (s.charge id f sp start dur rate kind).2.bgt.grants = s.bgt.grants.put id
      { kind := kind, dur := dur, start := start, rate := rate,
        accts := (s.budgetsOf f sp).map (fun k => (s.acctKey k f, s.bucketOf k start)) } ∧
    (s.charge id f sp start dur rate kind).2.ctr Ctr.BGT_GRANT = (s.ctr Ctr.BGT_GRANT + 1) % 2 ^ 48 ∧
    s.regsEvt (s.charge id f sp start dur rate kind).2 (Reg.BGT_STATUS :: halves Ctr.BGT_GRANT) ∧
    (s.charge id f sp start dur rate kind).2 = { s with
      regs := (s.charge id f sp start dur rate kind).2.regs, evt := (s.charge id f sp start dur rate kind).2.evt,
      bgt := (s.charge id f sp start dur rate kind).2.bgt }) ∧
  (∀ (s : State) (t : Time), ∃ u, exec (.bucketAdvance t) s = .next u ∧ u.bgt.accts.keys = s.bgt.accts.keys ∧
    (∀ e ∈ u.bgt.accts, ∀ b ∈ e.2.buckets, s.bucketOf (e.1 / 2 ^ 24) (t.ft * 1000) ≤ b.1 + 64) ∧
    u = { s.at t with bgt := { s.bgt with accts := u.bgt.accts } }) ∧
  (∀ (s : State) (t : Time), s.live 1 = false → exec (.oneSecondWindow t) s = .next s ∧ exec (.slotBoundary t) s = .next s) ∧
  (∀ (s : State) (t : Time), s.live 1 = true → gcn t.gt / (s.nomFreq / 1000) = s.gtb.second → exec (.oneSecondWindow t) s = .next (s.at t)) ∧
  (∀ (s : State) (t : Time), s.live 1 = true → gcn t.gt / (s.nomFreq / 1000) ≠ s.gtb.second → ∃ u, exec (.oneSecondWindow t) s = .next u ∧ u = { s.at t with
    gtb := { (s.at t).gtb with second := gcn t.gt / (s.nomFreq / 1000) }, cdc := { s.cdc with hdrFails := 0, rsFails := 0 }, dmx := { s.dmx with noSfd := [] }, bgt := { s.bgt with ccaBusy := 0 },
    qmg := { s.qmg with refusals := 0, drops := 0 }, msq := { s.msq with micFails := 0, stales := 0 },
    fwd := { s.fwd with policed := [] }, prc := { s.prc with decFails := 0 }, csc := { s.csc with authSeen := false },
    lgc := { s.lgc with noMatch := false }, hif := { s.hif with nhDrop := false }, mem := { s.mem with ceWin := 0 },
    sup := { s.sup with tsMisWindow := 0 } }) ∧
  (∀ (s : State) (t : Time), s.live 1 = true → s.staged = [] → s.msq.patches = [] → s.slv.nodes = [] → s.level = 0 → s.modeDue = none →
    ∃ u, exec (.slotBoundary t) s = .next u ∧ u.msq = { s.msq with annStep := (s.at t).stepAnnounced } ∧
      (s.sysOn → (s.at t).stepAnnounced = true → s.msq.annStep = false → u.isPend 101 = true) ∧ s.regsEvt u [] ∧
      u = { s.at t with regs := u.regs, evt := u.evt, msq := u.msq }) ∧
  (∀ (s : State) (t : Time), s.live 1 = true → s.modeDue = none → exec (.slotBoundary t) s = .next (
    let u := ((s.at t).slotCommits.announce).applyPatches
    let v := u.pruneSets u.ec
    v.fireIf (v.level != 0 && v.allCells.any (fun c => v.cellAt c v.ec && v.badCell c)) 107)) ∧
  (∀ (s : State) (p : Patch), s.msq.patches = [p] → p.links = [] → p.send = [] →
    s.applyPatches.msq = { s.msq with
      patches := [], cells := s.msq.cells.filter (fun c => !p.del.contains c) ++ p.add } ∧
    (s.sysOn → s.applyPatches.isPend 108 = true) ∧ s.regsEvt s.applyPatches [] ∧
    s.applyPatches = { s with
      regs := s.applyPatches.regs, evt := s.applyPatches.evt, msq := s.applyPatches.msq,
      slv := { s.slv with out := s.applyPatches.slv.out } }) ∧
  (∀ s : State, s.applyPatches.msq.patches = s.msq.patches.drop 16) ∧
  (∀ (s : State) (o : Obs) (l : List Obs) (r : LinkRec), s.slv.obs = o :: l → s.domReady 15 = true →
    s.slv.links.find (linkKey o.node s.ownEp o.cls) = some r → r.src = 0 →
    ∃ u, exec .slvObservation s = .next u ∧ u = { s with slv := { s.slv with
      obs := l, links := s.slv.links.put (linkKey o.node s.ownEp o.cls) (r.observe o) } }) ∧
  (∀ (s : State) (o : Obs) (l : List Obs) (r : LinkRec), s.slv.obs = o :: l → s.domReady 15 = true →
    s.slv.links.find (linkKey o.node s.ownEp o.cls) = some r → r.src ≠ 0 →
    ∃ u, exec .slvObservation s = .next u ∧ u = { s with slv := { s.slv with obs := l } }) ∧
  (∀ (s : State) (o : Obs) (l : List Obs), s.slv.obs = o :: l → s.domReady 15 = true →
    s.slv.links.find (linkKey o.node s.ownEp o.cls) = none → s.slv.links.length < 1048576 →
    ∃ u, exec .slvObservation s = .next u ∧ u = { s with free := s.free + 1, slv := { s.slv with
      obs := l, links := s.slv.links.put (linkKey o.node s.ownEp o.cls) (s.newLink o) } }) ∧
  (∀ (s : State) (t : Time) (key : Nat) (r : LinkRec), s.slv.links.find key = some r → r.src ≠ 2 →
    s.actFld F.SLV_POL2_LINKAGE * 3600 * (s.nomFreq / 1000) ≤ (gcn t.gt % 2 ^ 32 + 2 ^ 32 - r.lastgcn) % 2 ^ 32 →
    ∃ u, exec (.linkRecordAge t key) s = .next u ∧
      u = { s.at t with slv := { s.slv with links := s.slv.links.put key { r with valid := false } } }) ∧
  (∀ s : State, s.slv.obs = [] → exec .slvObservation s = .next s) ∧
  (∀ (s : State) (o : Obs) (l : List Obs), s.slv.obs = o :: l → s.domReady 15 = false →
    exec .slvObservation s = .next { s with slv := { s.slv with obs := l } }) ∧
  (∀ (s : State) (o : Obs) (l : List Obs), s.slv.obs = o :: l → s.domReady 15 = true →
    exec .slvObservation s = .next ({ s with slv := { s.slv with obs := l } }.foldObs o)) ∧
  (∀ (s : State) (t : Time) (key : Nat), (s.slv.links.find key).all (fun r => r.src == 2 || Nat.blt
      ((gcn t.gt % 2 ^ 32 + 2 ^ 32 - r.lastgcn) % 2 ^ 32) (s.actFld F.SLV_POL2_LINKAGE * 3600 * (s.nomFreq / 1000))) = true →
    exec (.linkRecordAge t key) s = .next (s.at t))

/-! ### SLV (chapter 11) -/

/-- SLV's queue and FIFOs (R232, R242, R243). A write of SLV_CMD that nothing bars puts the command with the data words into the queue; a
full queue refuses it, counted, source 131. LEAVE, DEMAND, LINK, READDEM, READLINK and ABORT run where PD_SLV is ON at SL2 and no JOIN
waits for the anchor; one whose OP is not the queue's next does nothing but end the reserved OPs in front, BADARG. With EN = 0 a command
ends BADARG, in keel service KEEL. A result record joins the FIFO, source 120 where it is the first, or is lost at a full one, counted,
source 121; a shortfall record, source 122 where it is the first, or is lost and counted. SLV_RQPOP and SLV_SHQPOP that nothing bars
take the oldest record away.
The model's own choices in it: log entries 51, 66, 143.
SLV's records (R224 to R226, R232, R336), of commands that SLV takes while nothing bars them. DEMAND stores the demand record of the
data words, malformed words end BADARG. LINK stores the link record of the data words; malformed words, a record of SRC 0 and one that
names a stored record of SRC 0 end BADARG. A stored link record is replaced, a new one joins the store; at 1,048,576 records the oldest
that firmware did not set gives way, counted, source 127. READDEM and READLINK put a record's octets into SLV_RDATA, or end BADARG where
there is none. Those four from a maker whose world may not touch SLV's region end WORLD, with a fault record, and change nothing else.
ABORT ends the running SOLVE and those merged into it ABORTED, and itself OK.
The model's own choices in it: log entries 52, 64.
Completes: slvRqpop, slvShqpop, slvDemand, slvLink, slvReaddem, slvReadlink, slvAbort. -/
def Obligations.SlvQueueAndRecords : Prop :=
  (∀ (s : State) (rq : Req) (op node tag dur : Nat) (place : List Placement) (i : Instr),
    (op, i) ∈ [(1, Instr.slvSolve (.write rq) node tag), (2, .slvJoin (.write rq) node tag dur place),
      (3, .slvLeave (.write rq) node tag dur), (4, .slvDemand (.write rq) node tag dur), (5, .slvLink (.write rq) node tag dur),
      (6, .slvReaddem (.write rq) node tag dur), (7, .slvReadlink (.write rq) node tag dur), (8, .slvAbort (.write rq) node tag dur)] →
    s.barred rq Reg.SLV_CMD (some (slvWord op node tag)) = none → s.slv.cmds.length < 16 →
    ∃ u, exec i s = .next u ∧ u.slv = { s.slv with cmds := s.slv.cmds ++
      [{ op := op, node := node % 2 ^ 18, tag := tag % 256, data := s.slvData, rq := rq, sec := s.secureReq rq, own := false }] } ∧
      s.regsBut u [] ∧ u = { s with regs := u.regs, evt := u.evt, slv := u.slv }) ∧
  (∀ (s : State) (rq : Req) (op node tag dur : Nat) (place : List Placement) (i : Instr),
    (op, i) ∈ [(1, Instr.slvSolve (.write rq) node tag), (2, .slvJoin (.write rq) node tag dur place),
      (3, .slvLeave (.write rq) node tag dur), (4, .slvDemand (.write rq) node tag dur), (5, .slvLink (.write rq) node tag dur),
      (6, .slvReaddem (.write rq) node tag dur), (7, .slvReadlink (.write rq) node tag dur), (8, .slvAbort (.write rq) node tag dur)] →
    s.barred rq Reg.SLV_CMD (some (slvWord op node tag)) = none → 16 ≤ s.slv.cmds.length →
    ∃ u, exec i s = .next u ∧ u.ctr Ctr.SLV_CMDREF = (s.ctr Ctr.SLV_CMDREF + 1) % 2 ^ 48 ∧ (s.sysOn → u.isPend 131 = true) ∧
      s.regsEvt u (halves Ctr.SLV_CMDREF) ∧ u = { s with regs := u.regs, evt := u.evt }) ∧
  (∀ (s : State) (t : Time) (op node tag dur o : Nat) (c : SlvCmd) (v : State) (i : Instr), s.slvTakes t op c v →
    (op, i) ∈ [(3, Instr.slvLeave (.run t) node tag dur), (4, .slvDemand (.run t) node tag dur), (5, .slvLink (.run t) node tag dur),
      (6, .slvReaddem (.run t) node tag dur), (7, .slvReadlink (.run t) node tag dur), (8, .slvAbort (.run t) node tag dur)] →
    v.on F.SLV_CFG_EN = false ∧ o = 7 ∨ v.on F.SLV_CFG_EN = true ∧ v.keel = true ∧ o = 5 →
    ∃ u, exec i s = .next u ∧ v.slvResulted u (c.result o 0 dur) ∧ v.regsEvt u (halves Ctr.SLV_RQOVF) ∧
      u = { v with regs := u.regs, evt := u.evt, slv := { v.slv with results := u.slv.results } }) ∧
  (∀ (s : State) (t : Time) (op node tag dur : Nat) (i : Instr),
    (op, i) ∈ [(3, Instr.slvLeave (.run t) node tag dur), (4, .slvDemand (.run t) node tag dur), (5, .slvLink (.run t) node tag dur),
      (6, .slvReaddem (.run t) node tag dur), (7, .slvReadlink (.run t) node tag dur), (8, .slvAbort (.run t) node tag dur)] →
    (s.domReady 15 = false ∨ s.level ≠ 2 ∨ s.slv.asked ≠ none → exec i s = .next (s.at t)) ∧
    (s.domReady 15 = true → s.level = 2 → s.slv.asked = none → (∀ c, (s.slvFront t).slv.cmds.head? = some c → c.op ≠ op) →
      exec i s = .next (s.slvFront t))) ∧
  (∀ (s : State) (c : SlvCmd) (rest : List SlvCmd), s.slv.cmds = c :: rest →
    s.slvSkip s.slv.cmds.length = if 1 ≤ c.op ∧ c.op ≤ 8 then s
      else (({ s with slv := { s.slv with cmds := rest } }).slvResult (c.result 7 0 0)).slvSkip rest.length) ∧
  (∀ (s : State) (r : SlvRes), s.slvResulted (s.slvResult r) r ∧ s.regsEvt (s.slvResult r) (halves Ctr.SLV_RQOVF) ∧
    s.slvResult r = { s with
      regs := (s.slvResult r).regs, evt := (s.slvResult r).evt, slv := { s.slv with results := (s.slvResult r).slv.results } }) ∧
  (∀ (s : State) (x : Short), s.slv.shorts.length < 1024 →
    (s.slvShort x).slv = { s.slv with shorts := s.slv.shorts ++ [x] } ∧
    (s.sysOn → s.slv.shorts = [] → (s.slvShort x).isPend 122 = true) ∧ s.regsEvt (s.slvShort x) []) ∧
  (∀ (s : State) (x : Short), 1024 ≤ s.slv.shorts.length →
    (s.slvShort x).slv = s.slv ∧ (s.slvShort x).ctr Ctr.SLV_SHQOVF = (s.ctr Ctr.SLV_SHQOVF + 1) % 2 ^ 48 ∧
    s.regsBut (s.slvShort x) (halves Ctr.SLV_SHQOVF)) ∧
  (∀ (s : State) (rq : Req), s.barred rq Reg.SLV_RQPOP (some 1) = none →
    ∃ u, exec (.slvRqpop rq) s = .next u ∧ u.slv = { s.slv with results := s.slv.results.tail } ∧ s.regsBut u [] ∧
      u = { s with regs := u.regs, evt := u.evt, slv := u.slv }) ∧
  (∀ (s : State) (rq : Req), s.barred rq Reg.SLV_SHQPOP (some 1) = none →
    ∃ u, exec (.slvShqpop rq) s = .next u ∧ u.slv = { s.slv with shorts := s.slv.shorts.tail } ∧ s.regsBut u [] ∧
      u = { s with regs := u.regs, evt := u.evt, slv := u.slv }) ∧
  (∀ (s : State) (t : Time) (node tag dur : Nat) (c : SlvCmd) (v : State) (d : DemRec), s.slvTakes t 4 c v → v.slvBar = none →
    v.tagFaults c.sec 3 = false → demRecOf c.data = some d →
    ∃ u, exec (.slvDemand (.run t) node tag dur) s = .next u ∧ v.slvResulted u (c.result 0 0 dur) ∧ v.regsEvt u (halves Ctr.SLV_RQOVF) ∧
      u = { v with regs := u.regs, evt := u.evt, slv := { v.slv with dem := v.slv.dem.put d.node d, results := u.slv.results } }) ∧
  (∀ (s : State) (t : Time) (node tag dur : Nat) (c : SlvCmd) (v : State), s.slvTakes t 4 c v → v.slvBar = none →
    v.tagFaults c.sec 3 = false → demRecOf c.data = none →
    ∃ u, exec (.slvDemand (.run t) node tag dur) s = .next u ∧ v.slvResulted u (c.result 7 0 dur) ∧ v.regsEvt u (halves Ctr.SLV_RQOVF) ∧
      u = { v with regs := u.regs, evt := u.evt, slv := { v.slv with results := u.slv.results } }) ∧
  (∀ (s : State) (t : Time) (node tag dur : Nat) (c : SlvCmd) (v : State) (r : LinkRec), s.slvTakes t 5 c v → v.slvBar = none →
    v.tagFaults c.sec 3 = false → linkRecOf c.data = some r → r.src ≠ 0 →
    (v.slv.links.find (linkKey r.txep r.rxep r.cls)).any (fun x => x.src == 0) = false →
    exec (.slvLink (.run t) node tag dur) s = .next ((v.addLink (linkKey r.txep r.rxep r.cls) r).slvEnd c 0 0 dur)) ∧
  (∀ (s : State) (t : Time) (node tag dur : Nat) (c : SlvCmd) (v : State), s.slvTakes t 5 c v → v.slvBar = none →
    v.tagFaults c.sec 3 = false →
    (linkRecOf c.data).elim true (fun r => r.src == 0 || (v.slv.links.find (linkKey r.txep r.rxep r.cls)).any (fun x => x.src == 0)) = true →
    ∃ u, exec (.slvLink (.run t) node tag dur) s = .next u ∧ v.slvResulted u (c.result 7 0 dur) ∧ v.regsEvt u (halves Ctr.SLV_RQOVF) ∧
      u = { v with regs := u.regs, evt := u.evt, slv := { v.slv with results := u.slv.results } }) ∧
  (∀ (s : State) (k : Nat) (r x : LinkRec), s.slv.links.find k = some x →
    (s.addLink k r).slv = { s.slv with links := s.slv.links.put k r } ∧ s.regsEvt (s.addLink k r) []) ∧
  (∀ (s : State) (k : Nat) (r : LinkRec), s.slv.links.find k = none →
    (s.slv.links.length < 1048576 → s.addLink k r = { s with slv := { s.slv with links := s.slv.links.put k r } }) ∧
    (∀ v, oldestLink (gcn s.gtb.gt) s.slv.links = some v → 1048576 ≤ s.slv.links.length →
      (s.addLink k r).slv = { s.slv with links := (s.slv.links.del v).put k r } ∧
      (s.addLink k r).ctr Ctr.SLV_LINKEVICT = (s.ctr Ctr.SLV_LINKEVICT + 1) % 2 ^ 48 ∧
      (s.sysOn → (s.addLink k r).isPend 127 = true) ∧ s.regsEvt (s.addLink k r) (halves Ctr.SLV_LINKEVICT)) ∧
    (oldestLink (gcn s.gtb.gt) s.slv.links = none → 1048576 ≤ s.slv.links.length → s.addLink k r = s)) ∧
  (∀ (s : State) (t : Time) (node tag dur : Nat) (c : SlvCmd) (v : State) (d : DemRec), s.slvTakes t 6 c v → v.slvBar = none →
    v.tagFaults c.sec 3 = false → v.slv.dem.find c.node = some d →
    ∃ u, exec (.slvReaddem (.run t) node tag dur) s = .next u ∧ v.slvResulted u (c.result 0 0 dur) ∧
      u.regRun (Reg.SLV_RDATAw 0) 8 = packWords 8 (d.octets ++ List.replicate 32 0) ∧
      v.regsEvt u ((List.range 8).map Reg.SLV_RDATAw ++ halves Ctr.SLV_RQOVF) ∧
      u = { v with regs := u.regs, evt := u.evt, slv := { v.slv with results := u.slv.results } }) ∧
  (∀ (s : State) (t : Time) (node tag dur : Nat) (c : SlvCmd) (v : State), s.slvTakes t 6 c v → v.slvBar = none →
    v.tagFaults c.sec 3 = false → v.slv.dem.find c.node = none →
    ∃ u, exec (.slvReaddem (.run t) node tag dur) s = .next u ∧ v.slvResulted u (c.result 7 0 dur) ∧ v.regsEvt u (halves Ctr.SLV_RQOVF) ∧
      u = { v with regs := u.regs, evt := u.evt, slv := { v.slv with results := u.slv.results } }) ∧
  (∀ (s : State) (t : Time) (node tag dur : Nat) (c : SlvCmd) (v : State) (r : LinkRec), s.slvTakes t 7 c v → v.slvBar = none →
    v.tagFaults c.sec 3 = false → v.slv.links.find (linkKey (leNat (slice c.data 0 3)) (leNat (slice c.data 3 3))
      (leNat (slice c.data 6 1) / 4)) = some r →
    ∃ u, exec (.slvReadlink (.run t) node tag dur) s = .next u ∧ v.slvResulted u (c.result 0 0 dur) ∧
      u.regRun (Reg.SLV_RDATAw 0) 8 = packWords 8 (r.octets ++ List.replicate 32 0) ∧
      v.regsEvt u ((List.range 8).map Reg.SLV_RDATAw ++ halves Ctr.SLV_RQOVF) ∧
      u = { v with regs := u.regs, evt := u.evt, slv := { v.slv with results := u.slv.results } }) ∧
  (∀ (s : State) (t : Time) (node tag dur : Nat) (c : SlvCmd) (v : State), s.slvTakes t 7 c v → v.slvBar = none →
    v.tagFaults c.sec 3 = false → v.slv.links.find (linkKey (leNat (slice c.data 0 3)) (leNat (slice c.data 3 3))
      (leNat (slice c.data 6 1) / 4)) = none →
    ∃ u, exec (.slvReadlink (.run t) node tag dur) s = .next u ∧ v.slvResulted u (c.result 7 0 dur) ∧ v.regsEvt u (halves Ctr.SLV_RQOVF) ∧
      u = { v with regs := u.regs, evt := u.evt, slv := { v.slv with results := u.slv.results } }) ∧
  (∀ (s : State) (t : Time) (op node tag dur : Nat) (c : SlvCmd) (v : State) (i : Instr) (wr : Bool), s.slvTakes t op c v →
    (op, wr, i) ∈ [(4, true, Instr.slvDemand (.run t) node tag dur), (5, true, .slvLink (.run t) node tag dur),
      (6, false, .slvReaddem (.run t) node tag dur), (7, false, .slvReadlink (.run t) node tag dur)] → v.slvBar = none →
    v.tagFaults c.sec 3 = true →
    exec i s = .next (((v.xwFault c.rq 3 9 (v.regionBase 3 + v.fresh % 2 ^ 28) wr).nextFree).slvEnd c 9 0 dur)) ∧
  (∀ (s : State) (t : Time) (node tag dur : Nat) (c : SlvCmd) (v : State), s.slvTakes t 8 c v → v.slvBar = none →
    exec (.slvAbort (.run t) node tag dur) s = .next (v.solveAbort.slvEnd c 0 0 dur)) ∧
  (∀ (s : State) (r : SolveRun), s.slv.solve = some r →
    ∃ u, u = s.slvEndAll (r.cmd :: r.also) 6 0 (s.gtb.ft - r.startFt) ∧ s.solveAbort = u.solveOver [] ∧
      (s.slv.results.length + r.also.length < 64 →
        u.slv.results = s.slv.results ++ (r.cmd :: r.also).map (fun c => c.result 6 0 (s.gtb.ft - r.startFt))) ∧
      (s.sysOn → s.slv.results = [] → u.isPend 120 = true) ∧ s.regsEvt u (halves Ctr.SLV_RQOVF) ∧
      u = { s with regs := u.regs, evt := u.evt, slv := { s.slv with results := u.slv.results } }) ∧
  (∀ s : State, s.slv.solve = none → s.solveAbort = s)

/-- SLV's schedule (R231 to R234, R237 to R241, R157). JOIN runs where PD_SLV is ON at SL2, no JOIN waits for the anchor and the node has
fewer than two unconfirmed sets: of what the engine found it takes the first placement that meets R228 and that none after it beats
under R231, as a new set with its patch, or as a change that waits where two sets are unconfirmed, with a shortfall record where it
gives less than the demand; past 131,072 cells it ends CELLFULL. With no such placement it ends NOFIT, source 124, the node's cells are
replaced by none, and with AUTOSOLVE a SOLVE is queued. A border node's JOIN ends NOANCHOR without an anchor, and on a member asks the
anchor. LEAVE takes a node's cells away at once and drops what waits. A SOLVE starts from a snapshot where none runs, is held behind a
running one, ends NOANCHOR without an anchor; the anchor sends the other chips their border placements. SOLVE_COMPLETE takes over the
result, with its shortfalls, or ends NOGAIN, source 125, which it does only while the active schedule meets R228; no node that left
meanwhile is placed; then the anchor sends the other chips their placements, elsewhere a held SOLVE starts. Schedules compare by
supervised nodes, then by radio-on time per report. The period timer queues a SOLVE. CELLS_CONFIRM_TIMEOUT sends a set's CELLS frame
again, or after the last sending counts the set once, source 126. STAT_WINDOW_END where a window has ended keeps one record for each
monitored slice, source 71, and recomputes the recommended masks, source 128 where one changes. EN = 0 ends a command BADARG, keel
service KEEL; otherwise these commands change nothing but the time and the reserved OPs in front of the queue.
The model's own choices in it: log entries 51, 66, 141, 142, 143.
Completes: slvJoin, slvLeave, slvSolve, solveComplete, solvePeriodTimer, cellsConfirmTimeout, statWindowEnd. -/
def Obligations.SlvSchedule : Prop :=
  (∀ (s : State) (t : Time) (node tag dur : Nat) (found : List Placement) (c : SlvCmd) (v : State), s.slvTakes t 2 c v →
    (s.at t).unconfirmed c.node < 2 → v.slvBar = none → (v.borderNode c.node = true → v.noAnchor = false ∧ v.isMember = false) →
    exec (.slvJoin (.run t) node tag dur found) s = .next
      ((v.joinPick c.node found).elim (v.noFit c dur) (fun p => v.joinTake c p dur))) ∧
  (∀ (v : State) (node : Nat) (found : List Placement) (q : Placement), v.joinPick node [] = none ∧
    v.joinPick node (found ++ [q]) =
      if q.node = node ∧ v.ofRecord q = true ∧ v.placeOk q v.planned = true ∧ (∀ p, v.joinPick node found = some p →
        (v.score (v.schedule [q])).beats (v.score (v.schedule [p])) = true) then some q else v.joinPick node found) ∧
  (∀ (v : State) (c : SlvCmd) (dur : Nat) (p : Placement) (w : State) (l : List Short), w = v.changeSet p →
    l = v.shortNow c.node (v.planOf p) p.cells → v.cellRoom p = true → v.slv.shorts.length + l.length ≤ 1024 →
    ∃ u, u = v.joinTake c p dur ∧ v.slvResulted u { c.result 0 p.cells.length dur with short := l.length } ∧
      u.slv.shorts = v.slv.shorts ++ l ∧ u.slv.solve = v.slv.solve.map (fun x => { x with log := x.log ++ [⟨true, c.node⟩] }) ∧
      u.ctr Ctr.SLV_JOINS = (v.ctr Ctr.SLV_JOINS + 1) % 2 ^ 48 ∧ w.regsEvt u (halves Ctr.SLV_JOINS ++ halves Ctr.SLV_RQOVF) ∧
      u = { w with
        regs := u.regs, evt := u.evt,
        slv := { w.slv with solve := u.slv.solve, results := u.slv.results, shorts := u.slv.shorts } }) ∧
  (∀ (v : State) (c : SlvCmd) (dur : Nat) (p : Placement), v.cellRoom p = false → v.joinTake c p dur = v.slvEnd c 8 0 dur) ∧
  (∀ (v : State) (p : Placement), v.unconfirmed p.node < 2 → p.cells.length ≤ 64 →
    (v.changeSet p).msq = { v.msq with patches := v.msq.patches ++ [{
      del := [], add := p.cells.filter (fun x => !v.cellsAhead.contains x),
      links := if p.cells = [] then [] else [(p.record, p.sw, p.par, p.dep)], send := [(p.node, ((v.nodeSets p.node).setid + 1) % 256)] }] } ∧
    (v.changeSet p).slv = { v.slv with nodes := v.slv.nodes.put p.node {
      record := p.record, setid := ((v.nodeSets p.node).setid + 1) % 256, sets := (v.nodeSets p.node).sets ++ [{
        setid := ((v.nodeSets p.node).setid + 1) % 256, ec := max p.ec (v.ec + 1), cells := p.cells, confirmed := false,
        tries := 0, pkt := none, ar := false }] } } ∧
    (v.changeSet p).ctr Ctr.SLV_PATCHES = (v.ctr Ctr.SLV_PATCHES + 1) % 2 ^ 48 ∧ v.regsBut (v.changeSet p) (halves Ctr.SLV_PATCHES) ∧
    v.changeSet p = { v with regs := (v.changeSet p).regs, msq := (v.changeSet p).msq, slv := (v.changeSet p).slv }) ∧
  (∀ (v : State) (p : Placement), 2 ≤ v.unconfirmed p.node → v.changeSet p =
    { v with slv := { v.slv with waiting := v.slv.waiting.filter (fun q => q.node != p.node) ++ [p] } }) ∧
  (∀ (v : State) (c : SlvCmd) (dur : Nat) (w : State) (l : List Short), w = v.dropNode c.node → l = v.shortNow c.node {} [] →
    v.slv.shorts.length + l.length ≤ 1024 →
    ∃ u, u = v.noFit c dur ∧ w.slvResulted u { c.result 2 0 dur with short := l.length } ∧ u.slv.shorts = w.slv.shorts ++ l ∧
      u.slv.cmds = w.slv.cmds ++ (if v.on F.SLV_CFG_AUTOSOLVE = true ∧ w.slv.cmds.length < 16 then
        [{ op := 1, node := 0, tag := 0, data := [], rq := ⟨.sup, true⟩, sec := true, own := true }] else []) ∧
      u.ctr Ctr.SLV_NOFIT = (v.ctr Ctr.SLV_NOFIT + 1) % 2 ^ 48 ∧ (v.sysOn → u.isPend 124 = true) ∧
      w.regsEvt u (halves Ctr.SLV_NOFIT ++ halves Ctr.SLV_RQOVF) ∧
      u = { w with
        regs := u.regs, evt := u.evt,
        slv := { w.slv with cmds := u.slv.cmds, results := u.slv.results, shorts := u.slv.shorts } }) ∧
  (∀ (v w : State) (node : Nat), w = { v with slv := { v.slv with waiting := v.slv.waiting.filter (fun q => q.node != node) } } →
    v.dropNode node = if v.cellsNow node = [] then w else w.changeSet
      { node := node, record := (v.nodeSets node).record, cells := [], sw := 0, par := 0, dep := 0, ec := 0 }) ∧
  (∀ (s : State) (t : Time) (node tag dur : Nat) (found : List Placement) (c : SlvCmd) (v : State), s.slvTakes t 2 c v →
    (s.at t).unconfirmed c.node < 2 → v.slvBar = none → v.borderNode c.node = true → v.noAnchor = true →
    ∃ u, exec (.slvJoin (.run t) node tag dur found) s = .next u ∧ v.slvResulted u (c.result 4 0 dur) ∧
      v.regsEvt u (halves Ctr.SLV_RQOVF) ∧
      u = { v with regs := u.regs, evt := u.evt, slv := { v.slv with results := u.slv.results } }) ∧
  (∀ (s : State) (t : Time) (node tag dur : Nat) (found : List Placement) (c : SlvCmd) (v : State), s.slvTakes t 2 c v →
    (s.at t).unconfirmed c.node < 2 → v.slvBar = none → v.borderNode c.node = true → v.noAnchor = false → v.isMember = true →
    exec (.slvJoin (.run t) node tag dur found) s = .next { v with slv := { v.slv with
      asked := some (c, v.gtb.ft), out := v.slv.out ++ [(v.fld F.CSC_STATUS_ANCHOR,
        .ask c.node { v.nodePlan c.node with dem := v.demand c.node })] } }) ∧
  (∀ (s : State) (t : Time) (node tag dur o : Nat) (found : List Placement) (c : SlvCmd) (v : State), s.slvTakes t 2 c v →
    (s.at t).unconfirmed c.node < 2 → v.on F.SLV_CFG_EN = false ∧ o = 7 ∨ v.on F.SLV_CFG_EN = true ∧ v.keel = true ∧ o = 5 →
    ∃ u, exec (.slvJoin (.run t) node tag dur found) s = .next u ∧ v.slvResulted u (c.result o 0 dur) ∧
      v.regsEvt u (halves Ctr.SLV_RQOVF) ∧
      u = { v with regs := u.regs, evt := u.evt, slv := { v.slv with results := u.slv.results } }) ∧
  (∀ (s : State) (t : Time) (node tag dur : Nat) (found : List Placement) (c : SlvCmd),
    s.slv.cmds.find? (fun c => c.op != 0 && Nat.ble c.op 8) = some c → c.op = 2 → 2 ≤ (s.at t).unconfirmed c.node →
    exec (.slvJoin (.run t) node tag dur found) s = .next (s.at t)) ∧
  (∀ (s : State) (t : Time) (node tag dur : Nat) (found : List Placement),
    s.domReady 15 = false ∨ s.level ≠ 2 ∨ s.slv.asked ≠ none → exec (.slvJoin (.run t) node tag dur found) s = .next (s.at t)) ∧
  (∀ (s : State) (t : Time) (node tag dur : Nat) (found : List Placement), s.domReady 15 = true → s.level = 2 → s.slv.asked = none →
    (∀ c, s.slv.cmds.find? (fun c => c.op != 0 && Nat.ble c.op 8) = some c → c.op ≠ 2) →
    exec (.slvJoin (.run t) node tag dur found) s = .next (s.slvFront t)) ∧
  (∀ (s : State) (t : Time) (node tag dur : Nat) (c : SlvCmd) (v : State) (g : List Cell), s.slvTakes t 3 c v → v.slvBar = none →
    g = ((v.nodeSets c.node).sets.flatMap (fun x => x.cells)).eraseDups → g ≠ [] → g.length ≤ 64 →
    ∃ u, exec (.slvLeave (.run t) node tag dur) s = .next u ∧ v.slvResulted u (c.result 0 0 dur) ∧
      u.msq = { v.msq with patches := v.msq.patches ++ [{
        del := g, add := [], links := [], send := [(c.node, ((v.nodeSets c.node).setid + 1) % 256)] }] } ∧
      u.slv.nodes = v.slv.nodes.put c.node { v.nodeSets c.node with
        setid := ((v.nodeSets c.node).setid + 1) % 256, sets := [{
          setid := ((v.nodeSets c.node).setid + 1) % 256, ec := v.ec + 1, cells := [], confirmed := true, tries := 0,
          pkt := none, ar := false }] } ∧
      u.slv.waiting = v.slv.waiting.filter (fun q => q.node != c.node) ∧
      u.slv.solve = v.slv.solve.map (fun x => { x with log := x.log ++ [⟨false, c.node⟩] }) ∧
      u.ctr Ctr.SLV_LEAVES = (v.ctr Ctr.SLV_LEAVES + 1) % 2 ^ 48 ∧ u.ctr Ctr.SLV_PATCHES = (v.ctr Ctr.SLV_PATCHES + 1) % 2 ^ 48 ∧
      v.regsEvt u (halves Ctr.SLV_LEAVES ++ halves Ctr.SLV_PATCHES ++ halves Ctr.SLV_RQOVF) ∧
      u = { v with
        regs := u.regs, evt := u.evt, msq := u.msq,
        slv := { v.slv with nodes := u.slv.nodes, waiting := u.slv.waiting, solve := u.slv.solve, results := u.slv.results } }) ∧
  (∀ (s : State) (t : Time) (node tag dur : Nat) (c : SlvCmd) (v : State), s.slvTakes t 3 c v → v.slvBar = none →
    (v.nodeSets c.node).sets.flatMap (fun x => x.cells) = [] →
    ∃ u, exec (.slvLeave (.run t) node tag dur) s = .next u ∧ v.slvResulted u (c.result 0 0 dur) ∧
      u.slv.nodes = v.slv.nodes.put c.node { v.nodeSets c.node with sets := [] } ∧
      u.slv.waiting = v.slv.waiting.filter (fun q => q.node != c.node) ∧
      u.slv.solve = v.slv.solve.map (fun x => { x with log := x.log ++ [⟨false, c.node⟩] }) ∧
      u.ctr Ctr.SLV_LEAVES = (v.ctr Ctr.SLV_LEAVES + 1) % 2 ^ 48 ∧ v.regsEvt u (halves Ctr.SLV_LEAVES ++ halves Ctr.SLV_RQOVF) ∧
      u = { v with
        regs := u.regs, evt := u.evt,
        slv := { v.slv with nodes := u.slv.nodes, waiting := u.slv.waiting, solve := u.slv.solve, results := u.slv.results } }) ∧
  (∀ (s : State) (t : Time) (node tag : Nat) (border : List Placement) (c : SlvCmd) (v : State), s.slvTakes t 1 c v →
    v.slvBar = none → s.slv.solve = none → s.slv.held = [] →
    exec (.slvSolve (.run t border) node tag) s = .next (v.solveStart c [] border)) ∧
  (∀ (s : State) (t : Time) (node tag : Nat) (border : List Placement) (c : SlvCmd) (v : State) (o : Nat), s.slvTakes t 1 c v →
    v.on F.SLV_CFG_EN = false ∧ o = 7 ∨ v.on F.SLV_CFG_EN = true ∧ v.keel = true ∧ o = 5 → s.slv.solve.isSome = true ∨ s.slv.held = [] →
    exec (.slvSolve (.run t border) node tag) s = .next (v.slvEnd c o 0 0)) ∧
  (∀ (s : State) (t : Time) (node tag : Nat) (border : List Placement) (c : SlvCmd) (v : State) (r : SolveRun), s.slvTakes t 1 c v →
    v.slvBar = none → s.slv.solve = some r →
    exec (.slvSolve (.run t border) node tag) s = .next { v with slv := { v.slv with held := v.slv.held ++ [c] } }) ∧
  (∀ (s : State) (t : Time) (node tag : Nat) (border : List Placement) (c : SlvCmd) (l : List SlvCmd), s.slv.solve = none →
    s.slv.held = c :: l → s.domReady 15 = true → s.level = 2 →
    exec (.slvSolve (.run t border) node tag) s = .next (State.solveStart { s.at t with slv := { s.slv with held := [] } } c l border)) ∧
  (∀ (s : State) (t : Time) (node tag : Nat) (border : List Placement), s.domReady 15 = false ∨ s.level ≠ 2 →
    exec (.slvSolve (.run t border) node tag) s = .next (s.at t)) ∧
  (∀ (s : State) (t : Time) (node tag : Nat) (border : List Placement), s.domReady 15 = true → s.level = 2 →
    s.slv.solve.isSome = true ∨ s.slv.held = [] → (∀ c, (s.slvFront t).slv.cmds.head? = some c → c.op ≠ 1) →
    exec (.slvSolve (.run t border) node tag) s = .next (s.slvFront t)) ∧
  (∀ (v : State) (c : SlvCmd) (l : List SlvCmd) (border : List Placement) (w : State), w = v.commitAt 9 0 → w.slvBar = none →
    w.noAnchor = true → v.solveStart c l border = w.slvEndAll (c :: l) 4 0 0) ∧
  (∀ (v : State) (c : SlvCmd) (l : List SlvCmd) (border : List Placement) (w : State), w = v.commitAt 9 0 → w.slvBar = none →
    w.noAnchor = false →
    ∃ u, u = v.solveStart c l border ∧ (∃ r, u.slv.solve = some r ∧
      r = { cmd := c, also := l, startFt := w.gtb.ft, inp := w.inputs, far := r.far } ∧
      (w.isAnchor = false → r.far = [] ∧ u.slv.out = w.slv.out) ∧
      (∀ x ∈ r.far, w.isAnchor = true ∧ x.2.1 ∈ border ∧ w.borderNode x.2.1.node = true ∧ w.homedHere x.2.1.node = false ∧
        w.pinned x.2.1.node = false ∧ x.1 = w.homeOf x.2.1.node ∧ w.farPlan x.2.1.node = some x.2.2) ∧
      (w.isAnchor = true → u.slv.out = w.slv.out ++ w.csc.peers.flatMap (fun e =>
        (borderFrames ((r.far.filter (fun x => x.1 == e.1)).map (fun x => x.2.1))).map (fun y => (e.1, y))))) ∧
      u = { w with slv := { w.slv with solve := u.slv.solve, out := u.slv.out } }) ∧
  (∀ (s : State) (t : Time) (places again far : List Placement), s.slv.solve = none →
    exec (.solveComplete t places again far) s = .next (s.at t)) ∧
  (∀ (s : State) (t : Time) (places again far : List Placement) (r : SolveRun) (o : Nat), s.slv.solve = some r →
    s.on F.SLV_CFG_EN = false ∧ o = 7 ∨ s.on F.SLV_CFG_EN = true ∧ s.keel = true ∧ o = 5 →
    exec (.solveComplete t places again far) s = .next
      (((s.at t).slvEndAll (r.cmd :: r.also) o 0 (t.ft - r.startFt)).solveOver [])) ∧
  (∀ (s : State) (t : Time) (places again far : List Placement) (r : SolveRun), s.slv.solve = some r → s.slvBar = none →
    ((s.at t).withInputs r.inp).solveResult (s.at t) r places again far = none →
    ∃ u, u = (((s.at t).bump Ctr.SLV_NOGAIN).slvEndAll (r.cmd :: r.also) 3 0 (t.ft - r.startFt)).fire 125 ∧
      exec (.solveComplete t places again far) s = .next (u.solveOver []) ∧
      (s.slv.results.length + r.also.length < 64 →
        u.slv.results = s.slv.results ++ (r.cmd :: r.also).map (fun c => c.result 3 0 (t.ft - r.startFt))) ∧
      u.ctr Ctr.SLV_NOGAIN = (s.ctr Ctr.SLV_NOGAIN + 1) % 2 ^ 48 ∧ (s.sysOn → u.isPend 125 = true) ∧
      s.regsEvt u (halves Ctr.SLV_NOGAIN ++ halves Ctr.SLV_RQOVF) ∧
      u = { s with regs := u.regs, evt := u.evt, gtb := (s.at t).gtb, slv := { s.slv with results := u.slv.results } }) ∧
  (∀ (s : State) (t : Time) (places again far : List Placement) (r : SolveRun) (x : SolveResult) (w : State),
    s.slv.solve = some r → s.slvBar = none → ((s.at t).withInputs r.inp).solveResult (s.at t) r places again far = some x →
    w = (s.at t).solveStaged x → s.slv.shorts.length + x.shorts.length ≤ 1024 →
    ∃ u, u = (((w.slvShorts x.shorts).2.bump Ctr.SLV_SOLVES).slvEndAll (r.cmd :: r.also) (b2n (!x.shorts.isEmpty))
        (x.sets.length + x.clear.length + x.far.length) (t.ft - r.startFt) x.shorts.length).fireIf (!x.shorts.isEmpty) 123 ∧
      exec (.solveComplete t places again far) s = .next (u.solveOver x.far) ∧ u.slv.shorts = s.slv.shorts ++ x.shorts ∧
      (s.slv.results.length + r.also.length < 64 →
        u.slv.results = s.slv.results ++ (r.cmd :: r.also).map (fun c => { c.result (b2n (!x.shorts.isEmpty))
          (x.sets.length + x.clear.length + x.far.length) (t.ft - r.startFt) with short := x.shorts.length })) ∧
      u.ctr Ctr.SLV_SOLVES = (s.ctr Ctr.SLV_SOLVES + 1) % 2 ^ 48 ∧ (s.sysOn → x.shorts ≠ [] → u.isPend 123 = true) ∧
      w.regsEvt u (halves Ctr.SLV_SOLVES ++ halves Ctr.SLV_RQOVF) ∧
      u = { w with regs := u.regs, evt := u.evt, slv := { w.slv with results := u.slv.results, shorts := u.slv.shorts } }) ∧
  (∀ (s : State) (far : List FarPlace), s.isAnchor = true →
    s.solveOver far = { s with slv := { s.slv with solve := none, out := s.slv.out ++ s.csc.peers.flatMap (fun e =>
      (activateFrames ((far.filter (fun x => x.1 == e.1)).map (fun x => x.2.1))).map (fun y => (e.1, y))) } }) ∧
  (∀ (s : State) (far : List FarPlace), s.isAnchor = false → s.slv.held = [] →
    s.solveOver far = { s with slv := { s.slv with solve := none } }) ∧
  (∀ (s : State) (far : List FarPlace) (c : SlvCmd) (l : List SlvCmd), s.isAnchor = false → s.slv.held = c :: l →
    s.solveOver far = State.solveStart { s with slv := { s.slv with solve := none, held := [] } } c l []) ∧
  (∀ (v s : State) (r : SolveRun) (places again far : List Placement), v.solveResult s r places again far = none → v.activeOk = true) ∧
  (∀ (v s : State) (r : SolveRun) (places again far : List Placement) (x : SolveResult) (p : Placement),
    v.solveResult s r places again far = some x → p ∈ x.sets → (logged r.log false).contains p.node = false) ∧
  (∀ (l : List SlvLog) (n : Nat) (j : Bool), (logged (l ++ [⟨j, n⟩]) j).contains n = true ∧ (logged (l ++ [⟨j, n⟩]) (!j)).contains n = false) ∧
  (∀ (a b : Score), a.sup = b.sup → a.met = b.met → a.beats b = !fracLe (fracMul b.cost a.reports) (fracMul a.cost b.reports)) ∧
  (∀ (a b : Score) (l : List Nat) (m n : Nat) (k k' : List Nat), a.sup = l ++ m :: k → b.sup = l ++ n :: k' → m ≠ n →
    a.beats b = Nat.blt n m) ∧
  (∀ (s : State) (t : Time), s.fld F.SLV_CFG_PERIOD ≠ 0 → s.domReady 15 = true → s.slv.cmds.length < 16 →
    exec (.solvePeriodTimer t) s = .next { s.at t with slv := { s.slv with
      cmds := s.slv.cmds ++ [{ op := 1, node := 0, tag := 0, data := [], rq := ⟨.sup, true⟩, sec := true, own := true }] } }) ∧
  (∀ (s : State) (t : Time), s.fld F.SLV_CFG_PERIOD = 0 ∨ s.domReady 15 = false ∨ 16 ≤ s.slv.cmds.length →
    exec (.solvePeriodTimer t) s = .next (s.at t)) ∧
  (∀ (s : State) (t : Time) (node setid f : Nat) (v : State) (x : CellSet), v = s.at t →
    (s.nodeSets node).sets.find? (fun y => y.setid == setid) = some x → f = x.cells.foldl (fun n c => max n (v.sfLen c.sf)) 0 →
    exec (.cellsConfirmTimeout t node setid) s = .next (if (x.ar = false ∨ x.pkt = none) ∧ x.confirmed = false ∧
      (x.ec + f - 1) / max 1 f * f + f ≤ v.ec then v.cellsAgain node setid else v)) ∧
  (∀ (s : State) (t : Time) (node setid : Nat), (s.nodeSets node).sets.find? (fun y => y.setid == setid) = none →
    exec (.cellsConfirmTimeout t node setid) s = .next (s.at t)) ∧
  (∀ (v : State) (node setid : Nat) (ns : NodeSets) (x : CellSet), v.slv.nodes.find node = some ns →
    ns.sets.find? (fun y => y.setid == setid) = some x → x.confirmed = false → x.gone = false →
    (x.tries < v.actFld F.SLV_POL2_ANNTRY → v.cellsAgain node setid = v.sendCells node setid) ∧
    (v.actFld F.SLV_POL2_ANNTRY ≤ x.tries →
      (v.cellsAgain node setid).slv = { v.slv with nodes := v.slv.nodes.put node { ns with
        sets := ns.sets.map (fun y => if y.setid = setid then { y with gone := true } else y) } } ∧
      (v.cellsAgain node setid).ctr Ctr.SLV_UNCONF = (v.ctr Ctr.SLV_UNCONF + 1) % 2 ^ 48 ∧
      (v.sysOn → (v.cellsAgain node setid).isPend 126 = true) ∧ v.regsEvt (v.cellsAgain node setid) (halves Ctr.SLV_UNCONF) ∧
      v.cellsAgain node setid = { v with
        regs := (v.cellsAgain node setid).regs, evt := (v.cellsAgain node setid).evt, slv := (v.cellsAgain node setid).slv })) ∧
  (∀ (v : State) (node setid : Nat) (ns : NodeSets) (x : CellSet), v.slv.nodes.find node = some ns →
    ns.sets.find? (fun y => y.setid == setid) = some x → x.confirmed = true ∨ x.gone = true → v.cellsAgain node setid = v) ∧
  (∀ (s : State) (t : Time) (v : State), v = s.at t → s.live 1 = true → s.domReady 15 = true → v.statWindow ≠ s.dmx.win →
    ∃ u, exec (.statWindowEnd t) s = .next u ∧ u.slv = { s.slv with stats := v.statSlices.map v.statRec } ∧
      u.dmx = { s.dmx with
        winFt := t.ft, win := v.statWindow, stats := s.dmx.stats.mapv (fun _ z => { since := z.since.map (fun _ => t.ft) }) } ∧
      (s.sysOn → u.isPend 71 = true) ∧
      (∀ c < 4, ∀ j < 4, s.hopLen c ≠ 0 → u.reg (Reg.SLV_MRECcj c j) = u.recMask c j) ∧
      (s.sysOn → (∃ c < 4, ∃ j < 4, s.hopLen c ≠ 0 ∧ u.recMask c j ≠ s.reg (Reg.SLV_MRECcj c j)) → u.isPend 128 = true) ∧
      s.regsEvt u ((List.range 16).map (fun k => Reg.SLV_MRECcj (k / 4) (k % 4))) ∧
      u = { v with regs := u.regs, evt := u.evt, dmx := u.dmx, slv := u.slv }) ∧
  (∀ (s : State) (t : Time), s.live 1 = true → s.domReady 15 = false → (s.at t).statWindow ≠ s.dmx.win →
    ∃ u, exec (.statWindowEnd t) s = .next u ∧ u.slv = s.slv ∧ (s.sysOn → u.isPend 71 = true) ∧ s.regsEvt u [] ∧
      u = { s.at t with regs := u.regs, evt := u.evt, dmx := u.dmx }) ∧
  (∀ (s : State) (t : Time), s.live 1 = true → (s.at t).statWindow = s.dmx.win → exec (.statWindowEnd t) s = .next (s.at t))

/-! ### QMG (chapter 12) -/

/-- Admission and packets (R246 to R248, R258 to R260, R510). QMG_ADMIT of 1 to 36 cells that hold the octets: a staged share set takes
effect, then a packet that the shares admit gets free cells, its GSN and its source and is counted, from the air in MSQ_RXACC too; one
that they refuse is counted by its source, source 133 at the threshold; any other request does nothing. PKT_ALLOC gives its initiator
the cells that QMG_PKTARG, or on the private port the command, asks for, of source 6 or 7, or ends ERR 2 where the shares refuse, ERR 3
outside 1 to 36. The holder delivers, drops or forwards a packet, anyone else gets ERR 1. An end frees the cells, takes them out of the
queue, and is counted, a drop by its reason, with source 142 at the threshold and 144 for an error; the head that it exposes is checked
for age. PKT_FORWARD puts the cells at the tail of the queue named, source 141 where a software queue was empty; one that is too old at
the head ends AGED, source 138; over LIMIT it ends ERR 2, as on a port that another producer holds, counted; a queue that does not exist
ERR 3.
The model's own choices in it: log entries 32, 53.
Completes: qmgAdmit, pktAlloc, pktDeliver, pktDrop, pktForward. -/
def Obligations.Packets : Prop :=
  (∀ (s : State) (k n unit port : Nat) (data : List Octet) (v : State), v = s.commitAt 10 0 → k < 8 → askable n data = true →
    v.admits k n = true →
    ∃ u, exec (.qmgAdmit k n data unit port) s = .next u ∧
      u.qmg.pkts = v.qmg.pkts.put ((takeCells v.totalCells n v.takenCells v.free).headD 0)
        { cells := takeCells v.totalCells n v.takenCells v.free, data := data, arr := v.gsn, src := k, holder := .hw unit port,
          queue := none, pushed := 0, info := {} } ∧
      u.free = v.free + n ∧ u.ctr (Ctr.QMG_IN0 + 8 * k) = (v.ctr (Ctr.QMG_IN0 + 8 * k) + 1) % 2 ^ 48 ∧
      (k < 2 → u.ctr Ctr.MSQ_RXACC = (v.ctr Ctr.MSQ_RXACC + 1) % 2 ^ 48) ∧
      v.regsEvt u (halves (Ctr.QMG_IN0 + 8 * k) ++ (if k < 2 then halves Ctr.MSQ_RXACC else [])) ∧
      u = { v with regs := u.regs, evt := u.evt, free := u.free, qmg := u.qmg }) ∧
  (∀ (s : State) (k n unit port : Nat) (data : List Octet) (v : State), v = s.commitAt 10 0 → k < 8 → askable n data = true →
    v.admits k n = false →
    ∃ u, exec (.qmgAdmit k n data unit port) s = .next u ∧ u.qmg = { v.qmg with refusals := v.qmg.refusals + 1 } ∧
      u.ctr (Ctr.QMG_REFUSE0 + 8 * k) = (v.ctr (Ctr.QMG_REFUSE0 + 8 * k) + 1) % 2 ^ 48 ∧
      (v.sysOn → v.qmg.refusals + 1 = v.fld F.QMG_THR_REFTHR → u.isPend 133 = true) ∧
      v.regsEvt u (halves (Ctr.QMG_REFUSE0 + 8 * k)) ∧ u = { v with regs := u.regs, evt := u.evt, qmg := u.qmg }) ∧
  (∀ (s : State) (k n unit port : Nat) (data : List Octet), n < 1 ∨ 36 < n ∨ 256 * n < data.length →
    exec (.qmgAdmit k n data unit port) s = .next s) ∧
  (∀ (t n k : Nat) (used : List Nat), used.length + n ≤ t →
    (takeCells t n used k).length = n ∧ (takeCells t n used k).Nodup ∧ ∀ c ∈ takeCells t n used k, c < t ∧ c ∉ used) ∧
  (∀ (s : State) (rq : Req) (priv : Bool) (n k : Nat) (data : List Octet) (t v : State), s.pktTook rq priv (pktWord 0 3 0) t →
    v = t.commitAt 10 0 → k = (if priv = true then n else t.fld F.QMG_PKTARG_CELLS) → 1 ≤ k → k ≤ 36 →
    v.admits (if rq.init = .prc then 7 else 6) k = true →
    ∃ u, exec (.pktAlloc rq priv n data) s = .next u ∧
      u.qmg.pkts = v.qmg.pkts.put ((takeCells v.totalCells k v.takenCells v.free).headD 0)
        { cells := takeCells v.totalCells k v.takenCells v.free, data := data.take (256 * k), arr := v.gsn,
          src := if rq.init = .prc then 7 else 6, holder := .init rq.init, queue := none, pushed := 0, info := {} } ∧
      u.pktAns priv 0 ((takeCells v.totalCells k v.takenCells v.free).headD 0) ∧ u.free = v.free + k ∧
      v.regsEvt u (Reg.QMG_PKTRES :: halves (Ctr.QMG_IN0 + 8 * (if rq.init = .prc then 7 else 6))) ∧
      u = { v with regs := u.regs, evt := u.evt, free := u.free, qmg := u.qmg }) ∧
  (∀ (s : State) (rq : Req) (priv : Bool) (n k : Nat) (data : List Octet) (t v : State), s.pktTook rq priv (pktWord 0 3 0) t →
    v = t.commitAt 10 0 → k = (if priv = true then n else t.fld F.QMG_PKTARG_CELLS) → 1 ≤ k → k ≤ 36 →
    v.admits (if rq.init = .prc then 7 else 6) k = false →
    ∃ u, exec (.pktAlloc rq priv n data) s = .next u ∧ u.pktAns priv 2 0 ∧ u.qmg = { v.qmg with refusals := v.qmg.refusals + 1 } ∧
      u.ctr (Ctr.QMG_REFUSE0 + 8 * (if rq.init = .prc then 7 else 6)) =
        (v.ctr (Ctr.QMG_REFUSE0 + 8 * (if rq.init = .prc then 7 else 6)) + 1) % 2 ^ 48 ∧
      (v.sysOn → v.qmg.refusals + 1 = v.fld F.QMG_THR_REFTHR → u.isPend 133 = true) ∧
      v.regsEvt u (Reg.QMG_PKTRES :: halves (Ctr.QMG_REFUSE0 + 8 * (if rq.init = .prc then 7 else 6))) ∧
      u = { v with regs := u.regs, evt := u.evt, qmg := u.qmg }) ∧
  (∀ (s : State) (rq : Req) (priv : Bool) (n k : Nat) (data : List Octet) (t : State), s.pktTook rq priv (pktWord 0 3 0) t →
    k = (if priv = true then n else t.fld F.QMG_PKTARG_CELLS) → k < 1 ∨ 36 < k →
    exec (.pktAlloc rq priv n data) s = .next (t.pktDone priv 3 0)) ∧
  (∀ (s : State) (rq : Req) (priv : Bool) (cell : Nat) (t : State) (p : Pkt), s.pktTook rq priv (pktWord cell 0 0) t →
    t.holds rq cell = true → t.qmg.pkts.find cell = some p →
    (p.queue = none → exec (.pktDeliver rq priv cell) s = .next ((t.endPkt cell .deliv).pktDone priv 0 0)) ∧
    (∀ q, p.queue = some q → exec (.pktDeliver rq priv cell) s = .next (((t.endPkt cell .deliv).ageNow q).pktDone priv 0 0))) ∧
  (∀ (s : State) (rq : Req) (priv : Bool) (cell reason : Nat) (t : State) (p : Pkt), s.pktTook rq priv (pktWord cell 1 (reason % 16)) t →
    t.holds rq cell = true → t.qmg.pkts.find cell = some p →
    (p.queue = none → exec (.pktDrop rq priv cell reason) s = .next ((t.endPkt cell (.drop (reason % 16))).pktDone priv 0 0)) ∧
    (∀ q, p.queue = some q →
      exec (.pktDrop rq priv cell reason) s = .next (((t.endPkt cell (.drop (reason % 16))).ageNow q).pktDone priv 0 0))) ∧
  (∀ (s : State) (start : Nat) (p : Pkt) (e : PktEnd), s.qmg.pkts.find start = some p →
    ∃ u, u = s.endPkt start e ∧ u.qmg.pkts = s.qmg.pkts.del start ∧
      (e = .deliv → u.ctr Ctr.QMG_DELIV = (s.ctr Ctr.QMG_DELIV + 1) % 2 ^ 48 ∧ s.regsEvt u (halves Ctr.QMG_DELIV)) ∧
      (e = .tx → u.ctr Ctr.QMG_TX = (s.ctr Ctr.QMG_TX + 1) % 2 ^ 48 ∧ s.regsEvt u (halves Ctr.QMG_TX)) ∧
      (∀ r < 16, e = .drop r → u.qmg.drops = s.qmg.drops + 1 ∧
        u.ctr (Ctr.QMG_DROP0 + 8 * r) = (s.ctr (Ctr.QMG_DROP0 + 8 * r) + 1) % 2 ^ 48 ∧
        (s.sysOn → s.qmg.drops + 1 = s.fld F.QMG_THR_DROPTHR → u.isPend 142 = true) ∧ (s.sysOn → r = 9 → u.isPend 144 = true) ∧
        s.regsEvt u (halves (Ctr.QMG_DROP0 + 8 * r))) ∧
      (∀ q, p.queue = some q → (u.queue q).cells = (s.queue q).cells.filter (fun c => !p.cells.contains c)) ∧
      u = { s with regs := u.regs, evt := u.evt, qmg := u.qmg }) ∧
  (∀ (s : State) (rq : Req) (priv : Bool) (cell reason q op why : Nat) (i : Instr) (t : State),
    (op, why, i) ∈ [(0, 0, Instr.pktDeliver rq priv cell), (1, reason % 16, .pktDrop rq priv cell reason),
      (2, 0, .pktForward rq priv cell q)] →
    s.pktTook rq priv (pktWord cell op why) t → t.holds rq cell = false → exec i s = .next (t.pktDone priv 1 0)) ∧
  (∀ (s : State) (rq : Req) (priv : Bool) (cell n q : Nat) (t : State) (p : Pkt), s.pktTook rq priv (pktWord cell 2 0) t →
    q = (if priv = true then n else t.fld F.QMG_PKTARG_Q) → t.qmg.pkts.find cell = some p → p.holder = .init rq.init → p.queue = none →
    q ≤ 65627 → (t.queue q).owner.any (fun o => o.1 != .init rq.init) = false →
    (t.queue q).cells.length + p.cells.length ≤ (t.queueLimits q).1 → t.noAge q cell → p.cells.head? = some cell →
    ∃ u, exec (.pktForward rq priv cell n) s = .next u ∧ u.pktAns priv 0 0 ∧ (u.queue q).cells = (t.queue q).cells ++ p.cells ∧
      u.qmg.pkts = t.qmg.pkts.put cell { p with queue := some q, pushed := p.cells.length, holder := .none } ∧
      (t.sysOn → 65620 ≤ q → (t.queue q).cells = [] → u.isPend 141 = true) ∧ t.regsEvt u [Reg.QMG_PKTRES] ∧
      u = { t with regs := u.regs, evt := u.evt, qmg := u.qmg }) ∧
  (∀ (s : State) (rq : Req) (priv : Bool) (cell n q : Nat) (t : State) (p : Pkt), s.pktTook rq priv (pktWord cell 2 0) t →
    q = (if priv = true then n else t.fld F.QMG_PKTARG_Q) → t.qmg.pkts.find cell = some p → p.holder = .init rq.init → p.queue = none →
    q ≤ 65627 → (t.queue q).owner.any (fun o => o.1 != .init rq.init) = false → p.cells.length ≤ (t.queueLimits q).1 →
    (t.queue q).cells = [] → t.young q cell = false → p.cells.head? = some cell →
    ∃ u, exec (.pktForward rq priv cell n) s = .next u ∧ u.pktAns priv 0 0 ∧ (u.queue q).cells = [] ∧
      u.qmg.pkts = t.qmg.pkts.del cell ∧ u.ctr (Ctr.QMG_DROP0 + 32) = (t.ctr (Ctr.QMG_DROP0 + 32) + 1) % 2 ^ 48 ∧
      (t.sysOn → u.isPend 138 = true) ∧ t.regsEvt u (Reg.QMG_PKTRES :: halves (Ctr.QMG_DROP0 + 32)) ∧
      u = { t with regs := u.regs, evt := u.evt, qmg := u.qmg }) ∧
  (∀ (s : State) (rq : Req) (priv : Bool) (cell n q : Nat) (t : State) (p : Pkt), s.pktTook rq priv (pktWord cell 2 0) t →
    q = (if priv = true then n else t.fld F.QMG_PKTARG_Q) → t.qmg.pkts.find cell = some p → t.holds rq cell = true →
    q ≤ 65627 → (t.queue q).owner.any (fun o => o.1 != .init rq.init) = false →
    (t.queue q).cells.length + p.cells.length ≤ (t.queueLimits q).1 →
    exec (.pktForward rq priv cell n) s = .next (((t.outOfQueue cell).placePkt q cell).2.pktDone priv 0 0)) ∧
  (∀ (s : State) (rq : Req) (priv : Bool) (cell n q : Nat) (t : State) (p : Pkt), s.pktTook rq priv (pktWord cell 2 0) t →
    q = (if priv = true then n else t.fld F.QMG_PKTARG_Q) → t.qmg.pkts.find cell = some p → t.holds rq cell = true → q ≤ 65627 →
    (t.queue q).owner.any (fun o => o.1 != .init rq.init) = false →
    (t.queueLimits q).1 < (t.queue q).cells.length + p.cells.length →
    exec (.pktForward rq priv cell n) s = .next ((t.refusePush q).pktDone priv 2 0)) ∧
  (∀ (s : State) (rq : Req) (priv : Bool) (cell n q : Nat) (t : State), s.pktTook rq priv (pktWord cell 2 0) t →
    q = (if priv = true then n else t.fld F.QMG_PKTARG_Q) →
    t.holds rq cell = true → q ≤ 65627 → (t.queue q).owner.any (fun o => o.1 != .init rq.init) = true →
    exec (.pktForward rq priv cell n) s = .next ((t.bump Ctr.QMG_ILV).pktDone priv 2 0)) ∧
  (∀ (s : State) (rq : Req) (priv : Bool) (cell n q : Nat) (t : State), s.pktTook rq priv (pktWord cell 2 0) t →
    q = (if priv = true then n else t.fld F.QMG_PKTARG_Q) →
    t.holds rq cell = true → 65627 < q → exec (.pktForward rq priv cell n) s = .next (t.pktDone priv 3 0))

/-- Pushes and pops (R251 to R253, R255, R257, R258, R510). The START of a packet that its producer holds takes a free port until END,
source 141 where a software queue was empty; one that is too old at the head ends AGED, source 138, and the rest of it is discarded. The
next cell goes behind; END frees the port and ends the hold of who has not popped START, and a hardware packet that waited follows. A
discarded packet's cells are taken and dropped up to its END. A stray cell is queued alone. While another producer holds the port a
hardware producer waits and a software producer is turned away, ILV set and counted. Over LIMIT a push is refused, OVF set, counted,
source 137, and a hardware producer's packet ends QFULL. A pop in the cycle of a push comes first. A pop gives the head, whose holder is
then who popped START, and the new head is checked for age; on an empty queue UNDERRUN is set and counted, source 136. The two banks of
a consumer with none fill with the next 32 cells of the queues it serves, 16 each, and never hold more. SWQ_PUSH and SWQ_POP that
nothing bars do the same on a software queue, shown in QMG_SWQnOUT.
The model's own choices in it: log entries 31.
Completes: queuePush, queuePop, swqPush, swqPop. -/
def Obligations.QueuePushPop : Prop :=
  (∀ (s : State) (q cell : Nat) (h : Holder) (p : Pkt), (s.queue q).owner = none → (s.queue q).discard = none →
    s.qmg.pkts.find cell = some p → p.holder = h → p.queue = none → s.noAge q cell →
    (s.queue q).cells.length + p.cells.length ≤ (s.queueLimits q).1 →
    ∃ u, exec (.queuePush q h cell none) s = .next u ∧ (u.queue q).cells = (s.queue q).cells ++ [cell] ∧
      (u.queue q).owner = (if p.cells.length = 1 then none else some (h, cell)) ∧
      u.qmg.pkts = s.qmg.pkts.put cell { p with queue := some q, pushed := 1, holder := if p.cells.length = 1 then .none else h } ∧
      (s.sysOn → 65620 ≤ q → (s.queue q).cells = [] → u.isPend 141 = true) ∧
      s.regsEvt u [] ∧ u = { s with regs := u.regs, evt := u.evt, qmg := u.qmg }) ∧
  (∀ (s : State) (q cell : Nat) (h : Holder) (p : Pkt), (s.queue q).owner = none → (s.queue q).discard = none →
    s.qmg.pkts.find cell = some p → p.holder = h → p.queue = none → p.cells.head? = some cell → (s.queue q).cells = [] →
    s.young q cell = false → p.cells.length ≤ (s.queueLimits q).1 →
    ∃ u, exec (.queuePush q h cell none) s = .next u ∧ (u.queue q).cells = [] ∧ u.qmg.pkts = s.qmg.pkts.del cell ∧
      (u.queue q).discard = (if p.cells.length = 1 then none else some (h, p.cells.getLastD cell)) ∧
      u.ctr (Ctr.QMG_DROP0 + 32) = (s.ctr (Ctr.QMG_DROP0 + 32) + 1) % 2 ^ 48 ∧ (s.sysOn → u.isPend 138 = true) ∧
      s.regsEvt u (halves (Ctr.QMG_DROP0 + 32)) ∧ u = { s with regs := u.regs, evt := u.evt, qmg := u.qmg }) ∧
  (∀ (s : State) (q cell st : Nat) (h : Holder) (p : Pkt), (s.queue q).owner = some (h, st) → (s.queue q).discard = none →
    s.qmg.pkts.find st = some p → p.cells[p.pushed]? = some cell → p.pushed + 1 ≠ p.cells.length → s.noAge q cell →
    ∃ u, exec (.queuePush q h cell none) s = .next u ∧ (u.queue q).cells = (s.queue q).cells ++ [cell] ∧
      (u.queue q).owner = some (h, st) ∧ u.qmg.pkts = s.qmg.pkts.put st { p with pushed := p.pushed + 1 } ∧
      s.regsEvt u [] ∧ u = { s with regs := u.regs, evt := u.evt, qmg := u.qmg }) ∧
  (∀ (s : State) (q cell st : Nat) (h : Holder) (p : Pkt), (s.queue q).owner = some (h, st) → (s.queue q).discard = none →
    s.qmg.pkts.find st = some p → p.cells[p.pushed]? = some cell → p.pushed + 1 = p.cells.length → (s.queue q).waits = [] →
    s.noAge q cell →
    ∃ u, exec (.queuePush q h cell none) s = .next u ∧ (u.queue q).cells = (s.queue q).cells ++ [cell] ∧
      (u.queue q).owner = none ∧ u.qmg.pkts = s.qmg.pkts.put st { p with
        pushed := p.pushed + 1, holder := if (s.queue q).inprog = some st then p.holder else .none } ∧
      s.regsEvt u [] ∧ u = { s with regs := u.regs, evt := u.evt, qmg := u.qmg }) ∧
  (∀ (s : State) (q cell st st' : Nat) (h h' : Holder) (p p' : Pkt), (s.queue q).owner = some (h, st) → (s.queue q).discard = none →
    s.qmg.pkts.find st = some p → p.cells[p.pushed]? = some cell → p.pushed + 1 = p.cells.length → (s.queue q).waits = [(h', st')] →
    s.noAge q cell → st' ≠ st → s.qmg.pkts.find st' = some p' →
    (s.queue q).cells.length + 1 + p'.cells.length ≤ (s.queueLimits q).1 →
    ∃ u, exec (.queuePush q h cell none) s = .next u ∧ (u.queue q).cells = (s.queue q).cells ++ cell :: p'.cells ∧
      (u.queue q).owner = none ∧ (u.queue q).waits = [] ∧
      u.qmg.pkts.find st' = some { p' with queue := some q, pushed := p'.cells.length, holder := .none } ∧
      s.regsEvt u [] ∧ u = { s with regs := u.regs, evt := u.evt, qmg := u.qmg }) ∧
  (∀ (s : State) (q cell d : Nat) (r : List Nat) (h c : Holder) (p : Pkt) (e : Nat × Pkt), (s.queue q).owner = none →
    (s.queue q).discard = none → s.qmg.pkts.find cell = some p → p.holder = h → p.queue = none → (s.queue q).cells = d :: r →
    s.pktOf d = some e → e.1 ≠ cell → q < 65620 → (s.queueLimits q).2.2.2.2 = 0 → r.length + p.cells.length ≤ (s.queueLimits q).1 →
    ∃ u, exec (.queuePush q h cell (some c)) s = .next u ∧ (u.queue q).cells = r ++ [cell] ∧ (u.queue q).out = d ∧
      (u.queue q).owner = (if p.cells.length = 1 then none else some (h, cell)) ∧
      s.regsEvt u [] ∧ u = { s with regs := u.regs, evt := u.evt, qmg := u.qmg }) ∧
  (∀ (s : State) (q cell e st : Nat) (h : Holder), (s.queue q).owner = some (h, st) → (s.queue q).discard = some (h, e) →
    (cell ≠ e → exec (.queuePush q h cell none) s = .next s) ∧
    (cell = e → (s.queue q).waits = [] →
      exec (.queuePush q h cell none) s = .next (s.setQueue q { s.queue q with discard := none, owner := none }))) ∧
  (∀ (s : State) (q cell : Nat) (h : Holder), (s.queue q).owner = none → (s.queue q).discard = none → s.qmg.pkts.find cell = none →
    (s.queue q).cells.length < (s.queueLimits q).1 →
    ∃ u, exec (.queuePush q h cell none) s = .next u ∧ (u.queue q).cells = (s.queue q).cells ++ [cell] ∧ u.qmg.pkts = s.qmg.pkts ∧
      s.regsEvt u [] ∧ u = { s with regs := u.regs, evt := u.evt, qmg := u.qmg }) ∧
  (∀ (s : State) (q cell unit port : Nat) (o : Holder × Nat) (p : Pkt), (s.queue q).owner = some o → o.1 ≠ .hw unit port →
    s.qmg.pkts.find cell = some p →
    exec (.queuePush q (.hw unit port) cell none) s = .next (s.setQueue q { s.queue q with
      waits := (s.queue q).waits ++ [(.hw unit port, cell)] })) ∧
  (∀ (s : State) (q cell unit port : Nat) (p : Pkt), q ≤ 65627 → (s.queue q).owner = none → (s.queue q).discard = none →
    s.qmg.pkts.find cell = some p → p.holder = .hw unit port → p.queue = none →
    (s.queueLimits q).1 < (s.queue q).cells.length + p.cells.length →
    ∃ u, exec (.queuePush q (.hw unit port) cell none) s = .next u ∧ u.qmg.pkts = s.qmg.pkts.del cell ∧
      (u.queue q).cells = (s.queue q).cells ∧ u.ctr Ctr.QMG_OVF = (s.ctr Ctr.QMG_OVF + 1) % 2 ^ 48 ∧
      u.ctr Ctr.QMG_DROP0 = (s.ctr Ctr.QMG_DROP0 + 1) % 2 ^ 48 ∧ (s.sysOn → u.isPend 137 = true) ∧
      u = { s with regs := u.regs, evt := u.evt, qmg := u.qmg }) ∧
  (∀ (s : State) (q cell : Nat) (i : Initiator) (p : Pkt), q ≤ 65627 → (s.queue q).owner = none → (s.queue q).discard = none →
    s.qmg.pkts.find cell = some p → p.holder = .init i → p.queue = none →
    (s.queueLimits q).1 < (s.queue q).cells.length + p.cells.length →
    ∃ u, exec (.queuePush q (.init i) cell none) s = .next u ∧ u.qmg.pkts = s.qmg.pkts ∧ (u.queue q).cells = (s.queue q).cells ∧
      u.ctr Ctr.QMG_OVF = (s.ctr Ctr.QMG_OVF + 1) % 2 ^ 48 ∧ (s.sysOn → u.isPend 137 = true) ∧
      (q < 65620 → (u.queue q).ovf = true) ∧ (65620 ≤ q → u.on (F.QMG_SWQnSTAT_OVF (q - 65620)) = true) ∧
      u = { s with regs := u.regs, evt := u.evt, qmg := u.qmg }) ∧
  (∀ (s : State) (q : Nat) (h : Holder), q ≤ 65627 → (s.queue q).cells = [] →
    ∃ u, exec (.queuePop q h) s = .next u ∧ (u.queue q).cells = [] ∧ u.qmg.pkts = s.qmg.pkts ∧
      u.ctr Ctr.QMG_UNDERRUN = (s.ctr Ctr.QMG_UNDERRUN + 1) % 2 ^ 48 ∧ (s.sysOn → u.isPend 136 = true) ∧
      (q < 65620 → (u.queue q).underrun = true) ∧ (65620 ≤ q → u.on (F.QMG_SWQnSTAT_UNDERRUN (q - 65620)) = true) ∧
      u = { s with regs := u.regs, evt := u.evt, qmg := u.qmg }) ∧
  (∀ (s : State) (q c : Nat) (h : Holder) (r : List Nat) (e : Nat × Pkt), q < 65620 → (s.queue q).cells = c :: r →
    s.pktOf c = some e → s.qmg.pkts.find e.1 = some e.2 → r.head?.all (s.young q) = true →
    ∃ u, exec (.queuePop q h) s = .next u ∧ (u.queue q).cells = r ∧ (u.queue q).out = c ∧
      u.qmg.pkts = s.qmg.pkts.put e.1 { e.2 with
        holder := if e.1 = c then h else e.2.holder, queue := if e.2.cells.getLastD 0 = c then none else e.2.queue } ∧
      s.regsEvt u [] ∧ u = { s with regs := u.regs, evt := u.evt, qmg := u.qmg }) ∧
  (∀ (s : State) (q c : Nat) (h : Holder) (r : List Nat), (s.queue q).cells = c :: r →
    ∃ u, u = (s.popCore q h).wmEval q ∧ exec (.queuePop q h) s = .next (u.ageNow q) ∧ (u.queue q).cells = r ∧ (u.queue q).out = c) ∧
  (∀ (s : State) (q k : Nat) (l : List Nat), consumerOf q = some k → s.qmg.banks.getD' k ([], []) = ([], []) →
    l = (servedNext q).flatMap (fun j => (s.queue j).cells) →
    (s.bankTurn q).qmg = { s.qmg with banks := s.qmg.banks.putD ([], []) k (l.take 16, (l.drop 16).take 16) } ∧
      s.bankTurn q = { s with qmg := (s.bankTurn q).qmg }) ∧
  (∀ (s : State) (q k : Nat), consumerOf q = some k → (s.qmg.banks.getD' k ([], [])).1.length ≤ 16 →
    (s.qmg.banks.getD' k ([], [])).2.length ≤ 16 →
    ((s.bankTurn q).qmg.banks.getD' k ([], [])).1.length ≤ 16 ∧ ((s.bankTurn q).qmg.banks.getD' k ([], [])).2.length ≤ 16) ∧
  (∀ (s : State) (rq : Req) (n cell : Nat) (pop : Option Initiator), n < 8 →
    s.barred rq (Reg.QMG_SWQnIN n) (some (BitVec.ofNat 32 (cell % 2 ^ 26))) = none →
    exec (.swqPush rq n cell pop) s = .next ((s.took rq (Reg.QMG_SWQnIN n) (BitVec.ofNat 32 (cell % 2 ^ 26))).pushBy (65620 + n)
      (.init rq.init) (cell % 2 ^ 26) (pop.map Holder.init))) ∧
  (∀ (s : State) (q cell : Nat) (i : Initiator) (o : Holder × Nat), q ≤ 65627 → (s.queue q).owner = some o → o.1 ≠ .init i →
    (s.queue q).discard = none →
    ∃ u, exec (.queuePush q (.init i) cell none) s = .next u ∧ (65620 ≤ q → u.on (F.QMG_SWQnSTAT_ILV (q - 65620)) = true) ∧
      u.ctr Ctr.QMG_ILV = (s.ctr Ctr.QMG_ILV + 1) % 2 ^ 48 ∧ u = { s with regs := u.regs, evt := u.evt }) ∧
  (∀ (s : State) (rq : Req) (n c : Nat) (r : List Nat) (e : Nat × Pkt), n < 8 → s.barred rq (Reg.QMG_SWQnCMD n) (some 1) = none →
    (s.queue (65620 + n)).cells = c :: r → s.pktOf c = some e → r.head?.all (s.young (65620 + n)) = true → c < 2 ^ 26 →
    ∃ u, exec (.swqPop rq n) s = .next u ∧ (u.queue (65620 + n)).cells = r ∧ u.fld (F.QMG_SWQnOUT_CELL n) = c ∧
      u.on (F.QMG_SWQnOUT_START n) = (e.1 == c) ∧ u.on (F.QMG_SWQnOUT_END n) = (e.2.cells.getLastD 0 == c) ∧
      s.regsEvt u [Reg.QMG_SWQnOUT n] ∧ u = { s with regs := u.regs, evt := u.evt, qmg := u.qmg }) ∧
  (∀ (s : State) (rq : Req) (n : Nat), n < 8 → s.barred rq (Reg.QMG_SWQnCMD n) (some 1) = none →
    exec (.swqPop rq n) s = .next ((s.took rq (Reg.QMG_SWQnCMD n) 1).popCell (65620 + n) (.init rq.init)))

/-- Queue commands that nothing bars, and age (R250, R254, R256, R258). READ shows a queue's record in QMG_QDATA; WRITE takes its limits
from there and clears its flags, or ends ERR 3 where HIWM is set and not above LOWM; FLUSH empties the queue; DROPREST ends the packet
in progress, else the one at the head, DROP by command, or ends ERR 2 where there is neither; CLASS returns to the limits of the class,
and the pins follow, source 135 where one falls. Each completes with source 140, and a queue that does not exist gives ERR 3.
AGE_CHECK_TICK ends a lone packet at the head that is older than AGE, source 138; a younger head, or an empty queue, stays.
QMG's accounting (R262, R435). An uncorrectable error breaks the audit, source 143, and is reported as a fault of class 5; a struck
counter holds an unknown value, which no rule states; a struck free cell is lost and counted; a struck chain ends its packet ERROR,
source 144, in whatever unit holds it, and loses the rest of its cells; a struck queue loses what it holds, and when its scan is done
those cells are lost, counted, and in no packet, the count of packets held standing. A counter, cell or chain that does not exist
changes nothing more.
The model's own choices in it: log entries 2.
Completes: qcmdRead, qcmdWrite, qcmdFlush, qcmdDroprest, qcmdClass, ageCheckTick, qmgAccountingError, qmgRecordScanDone. -/
def Obligations.QueueCommandsAndErrors : Prop :=
  (∀ (s : State) (rq : Req) (q : Nat), q ≤ 65627 → s.barred rq Reg.QMG_QCMD (some (qcmdWord q 0)) = none →
    ∃ u, exec (.qcmdRead rq q) s = .next u ∧ u.regRun (Reg.QMG_QDATAw 0) 8 = packWords 8 (s.queueOctets q) ∧
      u.fld F.QMG_QSTAT_ERR = 0 ∧ (s.sysOn → u.isPend 140 = true) ∧
      s.regsEvt u (Reg.QMG_QSTAT :: (List.range 8).map Reg.QMG_QDATAw) ∧ u = { s with regs := u.regs, evt := u.evt }) ∧
  (∀ (s : State) (rq : Req) (q hi lo lim : Nat) (d : List Octet), q ≤ 65627 → s.barred rq Reg.QMG_QCMD (some (qcmdWord q 1)) = none →
    d = s.octRun (Reg.QMG_QDATAw 0) 8 → lim = leNat (slice d 0 4) % 2 ^ 26 → hi = leNat (slice d 4 4) % 2 ^ 26 →
    lo = leNat (slice d 8 4) % 2 ^ 26 → hi = 0 ∨ lo < hi →
    ∃ u, exec (.qcmdWrite rq q) s = .next u ∧
      u.queueLimits q = (lim, hi, lo, leNat (slice d 12 1) % 16, leNat (slice d 13 2)) ∧ (u.queue q).ovr = true ∧
      (u.queue q).cells = (s.queue q).cells ∧ (u.queue q).underrun = false ∧ (u.queue q).ovf = false ∧
      (65620 ≤ q → u.on (F.QMG_SWQnSTAT_UNDERRUN (q - 65620)) = false ∧ u.on (F.QMG_SWQnSTAT_OVF (q - 65620)) = false) ∧
      u.fld F.QMG_QSTAT_ERR = 0 ∧ (s.sysOn → u.isPend 140 = true) ∧ (q < 65620 → s.regsEvt u [Reg.QMG_QSTAT]) ∧
      u = { s with regs := u.regs, evt := u.evt, qmg := u.qmg }) ∧
  (∀ (s : State) (rq : Req) (q : Nat) (d : List Octet), q ≤ 65627 → s.barred rq Reg.QMG_QCMD (some (qcmdWord q 1)) = none →
    d = s.octRun (Reg.QMG_QDATAw 0) 8 → leNat (slice d 4 4) % 2 ^ 26 ≠ 0 →
    leNat (slice d 4 4) % 2 ^ 26 ≤ leNat (slice d 8 4) % 2 ^ 26 →
    ∃ u, exec (.qcmdWrite rq q) s = .next u ∧ u.fld F.QMG_QSTAT_ERR = 3 ∧ (s.sysOn → u.isPend 140 = true) ∧
      s.regsEvt u [Reg.QMG_QSTAT] ∧ u = { s with regs := u.regs, evt := u.evt }) ∧
  (∀ (s : State) (rq : Req) (q : Nat), q ≤ 65627 → s.barred rq Reg.QMG_QCMD (some (qcmdWord q 2)) = none →
    ∃ u, exec (.qcmdFlush rq q) s = .next u ∧ (u.queue q).cells = [] ∧ (∀ k, (u.qmg.pkts.find k).all (fun p => p.queue != some q) = true) ∧
      u.fld F.QMG_QSTAT_ERR = 0 ∧ (s.sysOn → u.isPend 140 = true) ∧
      u = { s with regs := u.regs, evt := u.evt, qmg := u.qmg }) ∧
  (∀ (s : State) (rq : Req) (q st : Nat) (t : State), q ≤ 65627 → s.barred rq Reg.QMG_QCMD (some (qcmdWord q 3)) = none →
    t = s.took rq Reg.QMG_QCMD (qcmdWord q 3) → (s.queue q).inprog = some st →
    exec (.qcmdDroprest rq q) s = .next (((t.endPkt st (.drop 5)).ageNow q).qcmdDone 0)) ∧
  (∀ (s : State) (rq : Req) (q c : Nat) (r : List Nat) (e : Nat × Pkt) (t : State), q ≤ 65627 →
    s.barred rq Reg.QMG_QCMD (some (qcmdWord q 3)) = none → t = s.took rq Reg.QMG_QCMD (qcmdWord q 3) →
    (s.queue q).inprog = none → (s.queue q).cells = c :: r → s.pktOf c = some e →
    exec (.qcmdDroprest rq q) s = .next (((t.endPkt e.1 (.drop 5)).ageNow q).qcmdDone 0)) ∧
  (∀ (s : State) (rq : Req) (q : Nat), q ≤ 65627 → s.barred rq Reg.QMG_QCMD (some (qcmdWord q 3)) = none →
    (s.queue q).inprog = none → (s.queue q).cells.head?.bind (fun c => s.pktOf c) = none →
    ∃ u, exec (.qcmdDroprest rq q) s = .next u ∧ u.fld F.QMG_QSTAT_ERR = 2 ∧ (s.sysOn → u.isPend 140 = true) ∧
      s.regsEvt u [Reg.QMG_QSTAT] ∧ u = { s with regs := u.regs, evt := u.evt }) ∧
  (∀ (s : State) (rq : Req) (q : Nat), q ≤ 65627 → s.barred rq Reg.QMG_QCMD (some (qcmdWord q 4)) = none →
    ∃ u, exec (.qcmdClass rq q) s = .next u ∧
      u.qmg = { (s.setQueue q { s.queue q with ovr := false }).qmg with poolLow := u.qmg.poolLow, fctl := u.qmg.fctl } ∧
      (∀ p < 4, bit u.qmg.fctl p = u.pinLow p ∧ (s.sysOn → bit u.qmg.fctl p = true → bit s.qmg.fctl p = false → u.isPend 135 = true)) ∧
      u.fld F.QMG_QSTAT_ERR = 0 ∧ (s.sysOn → u.isPend 140 = true) ∧ s.regsEvt u [Reg.QMG_QSTAT] ∧
      u = { s with regs := u.regs, evt := u.evt, qmg := u.qmg }) ∧
  (∀ (s : State) (rq : Req) (q op : Nat) (i : Instr), (op, i) ∈ [(0, Instr.qcmdRead rq q), (1, .qcmdWrite rq q), (2, .qcmdFlush rq q),
      (3, .qcmdDroprest rq q), (4, .qcmdClass rq q)] → 65627 < q → q < 2 ^ 17 →
    s.barred rq Reg.QMG_QCMD (some (qcmdWord q op)) = none →
    ∃ u, exec i s = .next u ∧ u.fld F.QMG_QSTAT_ERR = 3 ∧ (s.sysOn → u.isPend 140 = true) ∧ s.regsEvt u [Reg.QMG_QSTAT] ∧
      u = { s with regs := u.regs, evt := u.evt }) ∧
  (∀ (s : State) (t : Time) (q c : Nat) (p : Pkt), (s.queue q).cells = c :: p.cells.tail → s.qmg.pkts.find c = some p →
    p.cells.head? = some c → p.queue = some q → p.pushed = p.cells.length → (s.queueLimits q).2.2.2.2 ≠ 0 →
    ((s.queueLimits q).2.2.2.2 * (s.nomFreq / 1000) * s.spc : Nat) < gsnDiff (s.at t).gsn p.arr →
    ∃ u, exec (.ageCheckTick t q) s = .next u ∧ u.qmg.pkts = s.qmg.pkts.del c ∧ (u.queue q).cells = [] ∧
      u.ctr (Ctr.QMG_DROP0 + 32) = (s.ctr (Ctr.QMG_DROP0 + 32) + 1) % 2 ^ 48 ∧ (s.sysOn → u.isPend 138 = true) ∧
      s.regsEvt u (halves (Ctr.QMG_DROP0 + 32)) ∧ u = { s.at t with regs := u.regs, evt := u.evt, qmg := u.qmg }) ∧
  (∀ (s : State) (t : Time) (q c : Nat) (r : List Nat) (p : Pkt), (s.queue q).cells = c :: r → s.qmg.pkts.find c = some p →
    (s.queueLimits q).2.2.2.2 = 0 ∨
      gsnDiff (s.at t).gsn p.arr ≤ ((s.queueLimits q).2.2.2.2 * (s.nomFreq / 1000) * s.spc : Nat) →
    exec (.ageCheckTick t q) s = .next (s.at t)) ∧
  (∀ (s : State) (t : Time) (q : Nat), (s.queue q).cells = [] → exec (.ageCheckTick t q) s = .next (s.at t)) ∧
  (∀ s : State, s.auditBreak.on F.QMG_STATUS_AUDITBRK = true ∧ (s.sysOn → s.auditBreak.isPend 143 = true) ∧
    s.auditBreak = { s with regs := s.auditBreak.regs, evt := s.auditBreak.evt, sup := s.auditBreak.sup }) ∧
  (∀ (s v : State) (k : Nat), v = s.auditBreak.reportNow 5 10 143 143 → k < 38 →
    ∃ u, exec (.qmgAccountingError (.counter k)) s = .next u ∧ u.ctr (Ctr.QMG_IN0 + 8 * k) = v.fresh % 2 ^ 48 ∧ u.free = v.free + 1 ∧
      v.regsBut u (halves (Ctr.QMG_IN0 + 8 * k)) ∧ u = { v with regs := u.regs, free := u.free }) ∧
  (∀ (s : State) (k : Nat), 38 ≤ k → exec (.qmgAccountingError (.counter k)) s = .next (s.auditBreak.reportNow 5 10 143 143)) ∧
  (∀ (s v : State) (c : Nat), v = s.auditBreak.reportNow 5 10 143 143 → s.takenCells.contains c = false → c < s.totalCells →
    ∃ u, exec (.qmgAccountingError (.freeCell c)) s = .next u ∧ u.qmg.lost = s.qmg.lost ++ [c] ∧ u.qmg.pkts = s.qmg.pkts ∧
      u.ctr Ctr.QMG_LOSTCELLS = (v.ctr Ctr.QMG_LOSTCELLS + 1) % 2 ^ 48 ∧ v.regsEvt u (halves Ctr.QMG_LOSTCELLS) ∧
      u = { v with regs := u.regs, evt := u.evt, qmg := u.qmg }) ∧
  (∀ (s : State) (c : Nat), s.takenCells.contains c = true ∨ s.totalCells ≤ c →
    exec (.qmgAccountingError (.freeCell c)) s = .next (s.auditBreak.reportNow 5 10 143 143)) ∧
  (∀ (s : State) (c : Nat), s.pktOf c = none →
    exec (.qmgAccountingError (.chain c)) s = .next (s.auditBreak.reportNow 5 10 143 143)) ∧
  (∀ (s v : State) (c st : Nat) (p : Pkt), v = s.auditBreak.reportNow 5 10 143 143 → s.pktOf c = some (st, p) →
    s.qmg.pkts.find st = some p →
    ∃ u, exec (.qmgAccountingError (.chain c)) s = .next u ∧ u.qmg.pkts = s.qmg.pkts.del st ∧
      u.qmg.lost = s.qmg.lost ++ p.cells.dropWhile (fun x => x != c) ∧
      u.ctr (Ctr.QMG_DROP0 + 72) = (v.ctr (Ctr.QMG_DROP0 + 72) + 1) % 2 ^ 48 ∧ (v.sysOn → u.isPend 144 = true) ∧
      u = { v.forgetPkt st with regs := u.regs, evt := u.evt, qmg := u.qmg }) ∧
  (∀ (s v : State) (q : Nat), v = s.auditBreak.reportNow 5 10 143 143 →
    ∃ u, exec (.qmgAccountingError (.queue q)) s = .next u ∧ (u.queue q).cells = [] ∧ (u.queue q).owner = none ∧
      u.qmg.struck = s.qmg.struck ++ [(q, (s.queue q).cells)] ∧ (∀ k, (u.qmg.pkts.find k).all (fun p => p.queue != some q) = true) ∧
      (∀ k, (u.qmg.pkts.find k).isSome = (s.qmg.pkts.find k).isSome) ∧ v.regsEvt u [] ∧ u = { v with regs := u.regs, evt := u.evt, qmg := u.qmg }) ∧
  (∀ (s : State) (q : Nat) (cs : List Nat), s.qmg.struck.find? (fun e => e.1 == q) = some (q, cs) →
    ∃ u, exec (.qmgRecordScanDone q) s = .next u ∧ u.qmg.lost = s.qmg.lost ++ cs ∧
      u.qmg.struck = s.qmg.struck.filter (fun e => e.1 != q) ∧ u.pktsHeld = s.pktsHeld ∧
      (∀ e ∈ u.qmg.pkts, ∀ c ∈ cs, c ∉ e.2.cells) ∧
      u.ctr Ctr.QMG_LOSTCELLS = (s.ctr Ctr.QMG_LOSTCELLS + cs.length) % 2 ^ 48 ∧ s.regsEvt u (halves Ctr.QMG_LOSTCELLS) ∧
      u = { s with regs := u.regs, evt := u.evt, qmg := u.qmg }) ∧
  (∀ (s : State) (q : Nat), s.qmg.struck.find? (fun e => e.1 == q) = none → exec (.qmgRecordScanDone q) s = .next s)

/-! ### FWD (chapters 13 and 14) -/

/-- Table commands (R269, R271, R272, R280, R287 to R294, R300, R336). At the host port a write that nothing bars starts a command, or is
counted as ignored while one waits; so at PRC's private port, where a reserved OP ends BADARG. A command ends at its port with outcome,
tag, step, the entry returned and the new argument, is counted, as failed but for OK, END and CONT, source 161 at the host port. A table
that its OP does not allow, or an INDEX past the bootstrap table, gives BADARG; a table other than that one in bootstrap mode NOTREADY;
a region of the other world WORLD, with nothing changed. READ returns an entry; WRITE replaces one or inserts a new one, FULL or TOOMANY
where it cannot, BADARG for data that breaks R266 or the wrong length; DELETE frees one, with its lines, damping record or filter bits;
LOOKUP resolves a key through the bootstrap table, the hot cache, the address table and the prefix store without changing them; UNPIN
clears a learned entry's PIN; WALK returns the next entry within 4,096 buckets, CONT or END; FLUSH starts a visit, BUSY where one runs,
which takes every learned entry with its egress, source 162 at the end. The reads of lines and buckets may meet errors, which are
handled before anything else. A step for which no command waits does nothing.
The model's own choices in it: log entries 72, 73.
Completes: fwdCmdRead, fwdCmdWrite, fwdCmdDelete, fwdCmdLookup, fwdCmdUnpin, fwdCmdWalk, fwdCmdFlush, flushVisitComplete. -/
def Obligations.FwdCommands : Prop :=
  (∀ (s : State) (rq : Req) (op tbl tag : Nat) (i : Instr), (op, i) ∈ [(0, Instr.fwdCmdRead (.write rq) tbl tag), (1, .fwdCmdWrite (.write rq) tbl tag),
      (2, .fwdCmdDelete (.write rq) tbl tag), (3, .fwdCmdLookup (.write rq) tbl tag), (4, .fwdCmdUnpin (.write rq) tbl tag),
      (5, .fwdCmdWalk (.write rq) tbl tag), (6, .fwdCmdFlush (.write rq) tbl tag)] →
    s.barred rq Reg.FWD_CMD (some (fwdWord op tbl tag)) = none → s.fwd.cmd = none →
    ∃ u, exec i s = .next u ∧ s.regsBut u [] ∧ u = { s with
      regs := u.regs, evt := u.evt,
      fwd := { s.fwd with cmd := some ⟨op, tbl % 4, tag % 256, s.reg Reg.FWD_CMDARG ||| (if s.fwd.walkPast = true then 0x2000000 else 0),
        s.octRun (Reg.FWD_CMDDATAw 0) 8, rq, s.secureReq rq⟩ } }) ∧
  (∀ (s : State) (rq : Req) (op tbl tag : Nat) (i : Instr) (c : FwdCmd), (op, i) ∈ [(0, Instr.fwdCmdRead (.write rq) tbl tag), (1, .fwdCmdWrite (.write rq) tbl tag),
      (2, .fwdCmdDelete (.write rq) tbl tag), (3, .fwdCmdLookup (.write rq) tbl tag), (4, .fwdCmdUnpin (.write rq) tbl tag),
      (5, .fwdCmdWalk (.write rq) tbl tag), (6, .fwdCmdFlush (.write rq) tbl tag)] →
    s.barred rq Reg.FWD_CMD (some (fwdWord op tbl tag)) = none → s.fwd.cmd = some c →
    ∃ u, exec i s = .next u ∧ u.ctr Ctr.FWD_CMDIGN = (s.ctr Ctr.FWD_CMDIGN + 1) % 2 ^ 48 ∧ s.regsBut u (halves Ctr.FWD_CMDIGN) ∧
      u = { s with regs := u.regs, evt := u.evt }) ∧
  (∀ (s : State) (sec : Bool) (arg : Word) (data : List Octet) (op tbl tag : Nat) (i : Instr),
    (op, i) ∈ [(0, Instr.fwdCmdRead (.priv sec arg data) tbl tag), (1, .fwdCmdWrite (.priv sec arg data) tbl tag),
      (2, .fwdCmdDelete (.priv sec arg data) tbl tag), (3, .fwdCmdLookup (.priv sec arg data) tbl tag), (4, .fwdCmdUnpin (.priv sec arg data) tbl tag),
      (5, .fwdCmdWalk (.priv sec arg data) tbl tag), (6, .fwdCmdFlush (.priv sec arg data) tbl tag)] → s.domReady 1 = true →
    (s.fwd.priv = none →
      exec i s = .next { s with fwd := { s.fwd with priv := some ⟨op, tbl % 4, tag % 256, arg, data, ⟨.prc, sec⟩, sec⟩ } }) ∧
    (s.fwd.priv ≠ none → exec i s = .next (s.bump Ctr.FWD_CMDIGN))) ∧
  (∀ (s : State) (o : Nat) (sec : Bool) (arg : Word) (data : List Octet) (tbl tag : Nat) (c : FwdCmd) (i : Instr),
    i ∈ [Instr.fwdCmdRead (.privOther o sec arg data) tbl tag, .fwdCmdWrite (.privOther o sec arg data) tbl tag, .fwdCmdDelete (.privOther o sec arg data) tbl tag,
      .fwdCmdLookup (.privOther o sec arg data) tbl tag, .fwdCmdUnpin (.privOther o sec arg data) tbl tag, .fwdCmdWalk (.privOther o sec arg data) tbl tag, .fwdCmdFlush (.privOther o sec arg data) tbl tag] →
    s.domReady 1 = true → c = ⟨o % 16, tbl % 4, tag % 256, arg, data, ⟨.prc, sec⟩, sec⟩ →
    (s.fwd.priv = none → 7 ≤ o % 16 → exec i s = .next (State.fwdDone true c
      { outcome := 4, st := { s with fwd := { s.fwd with priv := some c } } })) ∧
    (s.fwd.priv = none → o % 16 < 7 → exec i s = .next { s with fwd := { s.fwd with priv := some c } }) ∧
    (s.fwd.priv ≠ none → exec i s = .next (s.bump Ctr.FWD_CMDIGN))) ∧
  (∀ (s : State) (o : Nat) (sec : Bool) (arg : Word) (data : List Octet) (tbl tag : Nat) (i : Instr), i ∈
    [Instr.fwdCmdRead (.priv sec arg data) tbl tag, .fwdCmdWrite (.priv sec arg data) tbl tag, .fwdCmdDelete (.priv sec arg data) tbl tag,
      .fwdCmdLookup (.priv sec arg data) tbl tag, .fwdCmdUnpin (.priv sec arg data) tbl tag, .fwdCmdWalk (.priv sec arg data) tbl tag, .fwdCmdFlush (.priv sec arg data) tbl tag] ++
    [Instr.fwdCmdRead (.privOther o sec arg data) tbl tag, .fwdCmdWrite (.privOther o sec arg data) tbl tag, .fwdCmdDelete (.privOther o sec arg data) tbl tag,
      .fwdCmdLookup (.privOther o sec arg data) tbl tag, .fwdCmdUnpin (.privOther o sec arg data) tbl tag, .fwdCmdWalk (.privOther o sec arg data) tbl tag, .fwdCmdFlush (.privOther o sec arg data) tbl tag] →
    s.domReady 1 = false → exec i s = .next s) ∧
  (∀ (c : FwdCmd) (o step : Nat) (e : Option FwdEntry) (arg : Option Word) (v u : State),
    u = State.fwdDone false c { outcome := o, step := step, entry := e, arg := arg, st := v } → o < 16 → step < 8 → c.tag < 256 →
    u.fld F.FWD_CMDSTAT_OUTCOME = o ∧ u.fld F.FWD_CMDSTAT_TAG = c.tag ∧ u.fld F.FWD_CMDSTAT_STEP = step ∧
    u.regRun (Reg.FWD_CMDRESw 0) 8 = packWords 8 (e.elim (List.replicate 32 0) FwdEntry.octets) ∧
    u.reg Reg.FWD_CMDARG = arg.elim (v.reg Reg.FWD_CMDARG) (fun a => a &&& 0x1FFFFFF) ∧
    u.ctr Ctr.FWD_CMDS = (v.ctr Ctr.FWD_CMDS + 1) % 2 ^ 48 ∧
    (o ∈ [0, 6, 7] → u.ctr Ctr.FWD_CMDFAIL = v.ctr Ctr.FWD_CMDFAIL) ∧
    (o ∉ [0, 6, 7] → u.ctr Ctr.FWD_CMDFAIL = (v.ctr Ctr.FWD_CMDFAIL + 1) % 2 ^ 48) ∧
    (v.sysOn → u.isPend 161 = true) ∧ u = { v with
      regs := u.regs, evt := u.evt,
      fwd := { v.fwd with cmd := none, walkPast := arg.elim v.fwd.walkPast (fun a => a.getLsbD 25) } }) ∧
  (∀ (c : FwdCmd) (o step : Nat) (e : Option FwdEntry) (arg : Option Word) (v u : State),
    u = State.fwdDone true c { outcome := o, step := step, entry := e, arg := arg, st := v } →
    u.ctr Ctr.FWD_CMDS = (v.ctr Ctr.FWD_CMDS + 1) % 2 ^ 48 ∧ u = { v with
      regs := u.regs,
      fwd := { v.fwd with
        priv := none, privRes := some ⟨o, c.tag, step, e.elim (List.replicate 32 0) FwdEntry.octets, arg.getD c.arg⟩ } }) ∧
  (∀ (s : State) (t : Time) (priv : Bool) (errs : List FwdErr) (op tbl tag o : Nat) (tbls : List Nat) (i : Instr) (c : FwdCmd),
    (op, tbls, i) ∈ [(0, [0, 1, 2], Instr.fwdCmdRead (.run t priv errs) tbl tag), (1, [0, 1, 2], .fwdCmdWrite (.run t priv errs) tbl tag),
      (2, [0, 1, 2], .fwdCmdDelete (.run t priv errs) tbl tag), (4, [0], .fwdCmdUnpin (.run t priv errs) tbl tag),
      (5, [0, 1], .fwdCmdWalk (.run t priv errs) tbl tag), (6, [0], .fwdCmdFlush (.run t priv errs) tbl tag)] →
    (if priv then s.fwd.priv else s.fwd.cmd) = some c → c.op = op →
    (o = 4 ∧ (c.tbl ∉ tbls ∨ c.tbl = 2 ∧ 16384 ≤ c.index)) ∨ (o = 5 ∧ c.tbl ∈ tbls ∧ c.tbl < 2 ∧ s.on F.FWD_STATUS_BOOTMODE = true) →
    exec i s = .next (State.fwdDone priv c { outcome := o, st := s.at t })) ∧
  (∀ (s : State) (t : Time) (priv : Bool) (errs : List FwdErr) (op tbl tag : Nat) (i : Instr),
    (op, i) ∈ [(0, Instr.fwdCmdRead (.run t priv errs) tbl tag), (1, .fwdCmdWrite (.run t priv errs) tbl tag),
      (2, .fwdCmdDelete (.run t priv errs) tbl tag), (3, .fwdCmdLookup (.run t priv errs) tbl tag), (4, .fwdCmdUnpin (.run t priv errs) tbl tag),
      (5, .fwdCmdWalk (.run t priv errs) tbl tag), (6, .fwdCmdFlush (.run t priv errs) tbl tag)] →
    (if priv then s.fwd.priv else s.fwd.cmd).all (fun c => c.op != op) = true → exec i s = .next s) ∧
  (∀ (s : State) (t : Time) (n : Nat) (errs : List FwdErr) (tbl tag : Nat) (i : Instr), i ∈ [Instr.fwdCmdRead (.visit t n errs) tbl tag,
      .fwdCmdWrite (.visit t n errs) tbl tag, .fwdCmdDelete (.visit t n errs) tbl tag, .fwdCmdLookup (.visit t n errs) tbl tag,
      .fwdCmdUnpin (.visit t n errs) tbl tag, .fwdCmdWalk (.visit t n errs) tbl tag] → exec i s = .next s) ∧
  (∀ (s : State) (t : Time) (priv : Bool) (errs : List FwdErr) (op tbl tag b : Nat) (tbls : List Nat) (pfx : Bool) (i : Instr)
    (c : FwdCmd) (v : State), s.fwdAt t priv op tbls c v →
    (op, tbls, pfx, b, i) ∈ [(0, [0, 1, 2], c.pfx, (v.buckets c.pfx c.key c.len).1, Instr.fwdCmdRead (.run t priv errs) tbl tag),
      (2, [0, 1, 2], c.pfx, (v.buckets c.pfx c.key c.len).1, .fwdCmdDelete (.run t priv errs) tbl tag),
      (4, [0], false, (v.buckets false c.key 128).1, .fwdCmdUnpin (.run t priv errs) tbl tag)] → c.tbl ≠ 2 → s.tagFaults c.sec 1 = true →
    exec i s = .next (State.fwdDone priv c
      { outcome := 9, st := v.xwFault c.rq 1 11 (v.regionBase (if pfx then 5 else 4) + b * 32 * slotsOf pfx) false })) ∧
  (∀ (s : State) (t : Time) (priv : Bool) (errs : List FwdErr) (tbl tag : Nat) (c : FwdCmd) (v : State), s.fwdAt t priv 0 [0, 1, 2] c v →
    c.tbl = 2 →
    exec (.fwdCmdRead (.run t priv errs) tbl tag) s = .next (State.fwdDone priv c
      { outcome := if ((v.bootErrs (bootOnly errs c.index)).bootEntry c).isSome then 0 else 1,
        entry := (v.bootErrs (bootOnly errs c.index)).bootEntry c, st := v.bootErrs (bootOnly errs c.index) })) ∧
  (∀ (s : State) (t : Time) (priv : Bool) (errs : List FwdErr) (tbl tag : Nat) (c : FwdCmd) (v u : State),
    s.fwdAt t priv 0 [0, 1, 2] c v → c.tbl ≠ 2 → s.tagFaults c.sec 1 = false → u = v.readBuckets errs c.pfx c.key c.len →
    exec (.fwdCmdRead (.run t priv errs) tbl tag) s = .next (State.fwdDone priv c
      { outcome := if (u.slotFor c.pfx c.key c.len).isSome then 0 else 1,
        entry := (u.slotFor c.pfx c.key c.len).map (fun x => x.2), st := u })) ∧
  (∀ (s : State) (t : Time) (priv : Bool) (errs : List FwdErr) (tbl tag : Nat) (c : FwdCmd) (v : State),
    s.fwdAt t priv 1 [0, 1, 2] c v →
    staticEntry c.data = none ∨ (c.tbl ≠ 2 ∧ (staticEntry c.data).any (fun e => (e.len == 128) == c.pfx) = true) →
    exec (.fwdCmdWrite (.run t priv errs) tbl tag) s = .next (State.fwdDone priv c { outcome := 4, st := v })) ∧
  (∀ (s : State) (t : Time) (priv : Bool) (errs : List FwdErr) (tbl tag : Nat) (c : FwdCmd) (v : State) (e : FwdEntry),
    s.fwdAt t priv 1 [0, 1, 2] c v → staticEntry c.data = some e → c.tbl = 2 →
    exec (.fwdCmdWrite (.run t priv errs) tbl tag) s = .next (State.fwdDone priv c { outcome := 0, st := { v with
      fwd := { v.fwd with
        boot := v.fwd.boot.put c.index { e with updgt := v.gtb.gt },
        badBoot := v.fwd.badBoot.filter (fun i => i != c.index) } } })) ∧
  (∀ (s : State) (t : Time) (priv : Bool) (errs : List FwdErr) (tbl tag : Nat) (c : FwdCmd) (v : State) (e : FwdEntry),
    s.fwdAt t priv 1 [0, 1, 2] c v → staticEntry c.data = some e → c.tbl < 2 → (e.len == 128) = !c.pfx → s.tagFaults c.sec 1 = true →
    exec (.fwdCmdWrite (.run t priv errs) tbl tag) s = .next (State.fwdDone priv c { outcome := 9, st :=
      (v.xwFault c.rq 1 11 (v.regionBase (if c.pfx then 5 else 4) + (v.buckets c.pfx e.key e.len).1 * 32 * slotsOf c.pfx) false) })) ∧
  (∀ (s : State) (t : Time) (priv : Bool) (errs : List FwdErr) (tbl tag : Nat) (c : FwdCmd) (v w : State) (e : FwdEntry),
    s.fwdAt t priv 1 [0, 1, 2] c v → staticEntry c.data = some e → c.tbl < 2 → (e.len == 128) = !c.pfx → s.tagFaults c.sec 1 = false →
    w = (v.readHot errs e.key).2.readBuckets errs c.pfx e.key e.len →
    (∀ x, w.slotFor c.pfx e.key e.len = some x → exec (.fwdCmdWrite (.run t priv errs) tbl tag) s = .next (State.fwdDone priv c
      { outcome := 0, st := w.replaceEntry c.pfx x.1 { e with updgt := v.gtb.gt } })) ∧
    (w.slotFor c.pfx e.key e.len = none → exec (.fwdCmdWrite (.run t priv errs) tbl tag) s = .next (State.fwdDone priv c
      { outcome := (w.insertEntry errs c.pfx { e with updgt := v.gtb.gt }).1,
        st := (w.insertEntry errs c.pfx { e with updgt := v.gtb.gt }).2 }))) ∧
  (∀ (s : State) (k : Nat) (e : FwdEntry),
    s.replaceEntry false k e = (State.hotKill { s with fwd := { s.fwd with addr := s.fwd.addr.put k e } } e.key).dampFree e.key ∧
    (s.replaceEntry true k e).fwd = { s.fwd with pfx := s.fwd.pfx.put k e } ∧
    (s.replaceEntry true k e).fld F.FWD_PFXGEN_GEN = (s.fld F.FWD_PFXGEN_GEN + 1) % 2 ^ 32 ∧
    s.regsBut (s.replaceEntry true k e) [Reg.FWD_PFXGEN]) ∧
  (∀ (s : State) (errs : List FwdErr) (e : FwdEntry) (k : Nat), s.freeSlot false e.key e.len = some k →
    s.insertEntry errs false e = (0, State.hotKill { s with fwd := { s.fwd with addr := s.fwd.addr.put k e } } e.key)) ∧
  (∀ (s w : State) (errs : List FwdErr) (e : FwdEntry) (k : Nat), s.freeSlot true e.key e.len = some k →
    (s.filterRoom errs e.key e.len = (false, w) → s.insertEntry errs true e = (3, w)) ∧
    (s.filterRoom errs e.key e.len = (true, w) → 1048576 ≤ w.fwd.pfx.length → s.insertEntry errs true e = (2, w)) ∧
    (s.filterRoom errs e.key e.len = (true, w) → w.fwd.pfx.length < 1048576 → (s.insertEntry errs true e).1 = 0 ∧
      (s.insertEntry errs true e).2.fwd = { w.fwd with pfx := w.fwd.pfx.put k e } ∧
      (s.insertEntry errs true e).2.fld F.FWD_PFXGEN_GEN = (w.fld F.FWD_PFXGEN_GEN + 1) % 2 ^ 32 ∧
      w.regsBut (s.insertEntry errs true e).2 [Reg.FWD_PFXGEN])) ∧
  (∀ (s : State) (errs : List FwdErr) (pfx : Bool) (e : FwdEntry), s.freeSlot pfx e.key e.len = none → s.insertEntry errs pfx e = (2, s)) ∧
  (∀ (s : State) (t : Time) (priv : Bool) (errs : List FwdErr) (tbl tag : Nat) (c : FwdCmd) (v : State),
    s.fwdAt t priv 2 [0, 1, 2] c v → c.tbl = 2 →
    exec (.fwdCmdDelete (.run t priv errs) tbl tag) s = .next (State.fwdDone priv c { outcome := 0, st := { v with
      fwd := { v.fwd with boot := v.fwd.boot.del c.index, badBoot := v.fwd.badBoot.filter (fun i => i != c.index) } } })) ∧
  (∀ (s : State) (t : Time) (priv : Bool) (errs : List FwdErr) (tbl tag : Nat) (c : FwdCmd) (v w : State),
    s.fwdAt t priv 2 [0, 1, 2] c v → c.tbl ≠ 2 → s.tagFaults c.sec 1 = false →
    w = (v.readHot errs c.key).2.readBuckets errs c.pfx c.key c.len →
    (∀ x, w.slotFor c.pfx c.key c.len = some x →
      exec (.fwdCmdDelete (.run t priv errs) tbl tag) s = .next (State.fwdDone priv c { outcome := 0, st := w.freeEntry c.pfx x.1 true })) ∧
    (w.slotFor c.pfx c.key c.len = none →
      exec (.fwdCmdDelete (.run t priv errs) tbl tag) s = .next (State.fwdDone priv c { outcome := 1, st := w }))) ∧
  (∀ (s : State) (k : Nat) (e : FwdEntry) (u : State), s.fwd.addr.find k = some e → u = s.freeEntry false k true →
    u.fwd.addr = s.fwd.addr.del k ∧ u.fwd.damp = s.fwd.damp.filter (fun (x : Damp) => x.addr != e.key) ∧
    (e.ours = false ∨ s.mute → s.regsBut u [] ∧ u.fwd.lxOut = s.fwd.lxOut) ∧
    (e.ours = true → ¬ s.mute → s.keel = false → s.on F.FWD_STATUS_BOOTMODE = false → s.fwd.lxOut.length < 1024 →
      u.fwd.lxOut = s.fwd.lxOut ++ [⟨e.key, e.updgt, 2, s.fwd.lxSeq % 2 ^ 32⟩] ∧ s.regsBut u []) ∧
    u = { s with regs := u.regs, evt := u.evt, fwd := u.fwd }) ∧
  (∀ (s : State) (k : Nat) (e : FwdEntry) (u : State), s.fwd.pfx.find k = some e → u = s.freeEntry true k true →
    u.fwd = { s.fwd with
      pfx := s.fwd.pfx.del k, stale := s.fwd.stale ++ [{ len := e.len, base := (vectorsOf e.key e.len).1, done := [] }] } ∧
    u.fld F.FWD_PFXGEN_GEN = (s.fld F.FWD_PFXGEN_GEN + 1) % 2 ^ 32 ∧ s.regsBut u [Reg.FWD_PFXGEN]) ∧
  (∀ (s : State) (t : Time) (priv : Bool) (errs : List FwdErr) (tbl tag : Nat) (c : FwdCmd) (v w : State),
    s.fwdAt t priv 3 [0, 1, 2, 3] c v → v.on F.FWD_STATUS_BOOTMODE = true → w = v.bootErrs errs →
    exec (.fwdCmdLookup (.run t priv errs) tbl tag) s = .next (State.fwdDone priv c
      { outcome := if ((w.bootMatches c.key).find? (fun e => !w.staleAir e)).isSome then 0 else 1,
        step := if ((w.bootMatches c.key).find? (fun e => !w.staleAir e)).isSome then 4 else 0,
        entry := (w.bootMatches c.key).find? (fun e => !w.staleAir e), st := w })) ∧
  (∀ (s : State) (t : Time) (priv b : Bool) (errs : List FwdErr) (tbl tag : Nat) (c : FwdCmd) (v w : State) (k : Option Nat) (e : FwdEntry),
    s.fwdAt t priv 3 [0, 1, 2, 3] c v → v.on F.FWD_STATUS_BOOTMODE = false → v.readHot errs c.key = (b, w) →
    (if b then w.hotFind c.key else none) = some (k, e) →
    exec (.fwdCmdLookup (.run t priv errs) tbl tag) s = .next (State.fwdDone priv c
      (if w.staleAir e = true then State.cmdPrefix errs w { c with tbl := 3 } else { outcome := 0, step := 1, entry := some e, st := w }))) ∧
  (∀ (s : State) (t : Time) (priv b : Bool) (errs : List FwdErr) (tbl tag : Nat) (c : FwdCmd) (v w : State),
    s.fwdAt t priv 3 [0, 1, 2, 3] c v → v.on F.FWD_STATUS_BOOTMODE = false → v.readHot errs c.key = (b, w) →
    (if b then w.hotFind c.key else none) = none → w.tagFaults c.sec 1 = true →
    exec (.fwdCmdLookup (.run t priv errs) tbl tag) s = .next (State.fwdDone priv c { outcome := 9, st :=
      (w.xwFault c.rq 1 11 (w.regionBase 4 + (w.buckets false c.key 128).1 * 32 * 8) false) })) ∧
  (∀ (s : State) (t : Time) (priv b : Bool) (errs : List FwdErr) (tbl tag : Nat) (c : FwdCmd) (v w u : State) (x : Option (Nat × FwdEntry)),
    s.fwdAt t priv 3 [0, 1, 2, 3] c v → v.on F.FWD_STATUS_BOOTMODE = false → v.readHot errs c.key = (b, w) →
    (if b then w.hotFind c.key else none) = none → w.tagFaults c.sec 1 = false → w.findEntry errs false c.key 128 = (x, u) →
    (∀ y, x = some y → u.staleAir y.2 = false → exec (.fwdCmdLookup (.run t priv errs) tbl tag) s = .next (State.fwdDone priv c
      { outcome := 0, step := 2, entry := some y.2, st := u })) ∧
    (x.all (fun y => u.staleAir y.2) = true → exec (.fwdCmdLookup (.run t priv errs) tbl tag) s = .next (State.fwdDone priv c
      (State.cmdPrefix errs u { c with tbl := 3 })))) ∧
  (∀ (s w u : State) (errs : List FwdErr) (c : FwdCmd) (l : Nat) (ls : List Nat) (x : Option FwdEntry),
    s.readFilter (filterErr errs (c.key / 2 ^ 112)) (c.key / 2 ^ 112) = (true, w) → w.probeLens c.key = l :: ls →
    w.tagFaults c.sec 1 = false → w.longest errs c.key (l :: ls) 17 = (x, u) →
    (∀ e, x = some e → u.staleAir e = false → State.cmdPrefix errs s c = { outcome := 0, step := 3, entry := some e, st := u }) ∧
    (x.all u.staleAir = true → State.cmdPrefix errs s c = { outcome := 1, st := u })) ∧
  (∀ (s w : State) (errs : List FwdErr) (c : FwdCmd) (l : Nat) (ls : List Nat),
    s.readFilter (filterErr errs (c.key / 2 ^ 112)) (c.key / 2 ^ 112) = (true, w) → w.probeLens c.key = l :: ls →
    w.tagFaults c.sec 1 = true → State.cmdPrefix errs s c = { outcome := 9, st :=
      (w.xwFault c.rq 1 11 (w.regionBase 5 + (w.buckets true (maskKey c.key l) l).1 * 32 * 4) false) }) ∧
  (∀ (s w : State) (errs : List FwdErr) (c : FwdCmd) (b : Bool),
    s.readFilter (filterErr errs (c.key / 2 ^ 112)) (c.key / 2 ^ 112) = (b, w) → b = false ∨ w.probeLens c.key = [] →
    State.cmdPrefix errs s c = { outcome := 1, st := w }) ∧
  (∀ (s : State) (t : Time) (priv : Bool) (errs : List FwdErr) (tbl tag k : Nat) (c : FwdCmd) (v w : State) (e : FwdEntry),
    s.fwdAt t priv 4 [0] c v → s.tagFaults c.sec 1 = false → w = v.readBuckets errs false c.key 128 →
    w.slotFor false c.key 128 = some (k, e) → e.learned = true →
    exec (.fwdCmdUnpin (.run t priv errs) tbl tag) s = .next (State.fwdDone priv c { outcome := 0, st := { w with
      fwd := { w.fwd with
        addr := w.fwd.addr.upd k (fun x => { x with pin := false, moves := 0 }),
        damp := w.fwd.damp.filter (fun (x : Damp) => x.addr != c.key) } } })) ∧
  (∀ (s : State) (t : Time) (priv : Bool) (errs : List FwdErr) (tbl tag : Nat) (c : FwdCmd) (v w : State),
    s.fwdAt t priv 4 [0] c v → s.tagFaults c.sec 1 = false → w = v.readBuckets errs false c.key 128 →
    (w.slotFor false c.key 128).all (fun x => !x.2.learned) = true →
    exec (.fwdCmdUnpin (.run t priv errs) tbl tag) s = .next (State.fwdDone priv c { outcome := 1, st := w })) ∧
  (∀ (s : State) (t : Time) (priv : Bool) (errs : List FwdErr) (tbl tag : Nat) (c : FwdCmd) (v : State),
    s.fwdAt t priv 5 [0, 1] c v → bucketsOf c.pfx ≤ c.walkPos / slotsOf c.pfx →
    exec (.fwdCmdWalk (.run t priv errs) tbl tag) s = .next (State.fwdDone priv c { outcome := 6, st := v })) ∧
  (∀ (s : State) (t : Time) (priv : Bool) (errs : List FwdErr) (tbl tag b : Nat) (c : FwdCmd) (v : State),
    s.fwdAt t priv 5 [0, 1] c v → b = c.walkPos / slotsOf c.pfx → b < bucketsOf c.pfx → s.tagFaults c.sec 1 = true →
    exec (.fwdCmdWalk (.run t priv errs) tbl tag) s = .next (State.fwdDone priv c { outcome := 9, st :=
      (v.xwFault c.rq 1 11 (v.regionBase (if c.pfx then 5 else 4) + b * 32 * slotsOf c.pfx) false) })) ∧
  (∀ (s : State) (t : Time) (priv : Bool) (errs : List FwdErr) (tbl tag b : Nat) (c : FwdCmd) (v w : State) (x : Option (Nat × FwdEntry)),
    s.fwdAt t priv 5 [0, 1] c v → b = c.walkPos / slotsOf c.pfx → b < bucketsOf c.pfx → s.tagFaults c.sec 1 = false →
    w = v.readWindow errs c.pfx b (b + 4096) → x = (w.fwdTab c.pfx).find? (fun y => Nat.ble c.walkPos y.1) →
    (∀ y, x = some y → y.1 / slotsOf c.pfx < b + 4096 → exec (.fwdCmdWalk (.run t priv errs) tbl tag) s = .next (State.fwdDone priv c
      { outcome := 0, entry := some y.2, arg := some (cursorWord c.pfx (y.1 + 1)), st := w })) ∧
    (x.all (fun y => Nat.ble (b + 4096) (y.1 / slotsOf c.pfx)) = true → b + 4096 < bucketsOf c.pfx →
      exec (.fwdCmdWalk (.run t priv errs) tbl tag) s = .next (State.fwdDone priv c
        { outcome := 7, arg := some (cursorWord c.pfx ((b + 4096) * slotsOf c.pfx)), st := w })) ∧
    (x.all (fun y => Nat.ble (b + 4096) (y.1 / slotsOf c.pfx)) = true → bucketsOf c.pfx ≤ b + 4096 →
      exec (.fwdCmdWalk (.run t priv errs) tbl tag) s = .next (State.fwdDone priv c { outcome := 6, st := w }))) ∧
  (∀ (s : State) (t : Time) (priv : Bool) (errs : List FwdErr) (tbl tag : Nat) (c : FwdCmd) (v : State),
    s.fwdAt t priv 6 [0] c v → s.tagFaults c.sec 1 = false → s.fwd.flush = none →
    exec (.fwdCmdFlush (.run t priv errs) tbl tag) s = .next (State.fwdDone priv c { outcome := 0, st := { v with
      fwd := { v.fwd with flush := some (leNat (slice c.data 26 1) % 4, leNat (slice c.data 28 4), 0) } } })) ∧
  (∀ (s : State) (t : Time) (priv : Bool) (errs : List FwdErr) (tbl tag : Nat) (c : FwdCmd) (v : State),
    s.fwdAt t priv 6 [0] c v → s.tagFaults c.sec 1 = true → s.fwd.flush = none →
    exec (.fwdCmdFlush (.run t priv errs) tbl tag) s = .next (State.fwdDone priv c
      { outcome := 9, st := v.xwFault c.rq 1 11 (v.regionBase 4) false })) ∧
  (∀ (s : State) (t : Time) (priv : Bool) (errs : List FwdErr) (tbl tag : Nat) (c : FwdCmd) (v : State) (f : Nat × Nat × Nat),
    s.fwdAt t priv 6 [0] c v → s.fwd.flush = some f →
    exec (.fwdCmdFlush (.run t priv errs) tbl tag) s = .next (State.fwdDone priv c { outcome := 8, st := v })) ∧
  (∀ (s : State) (t : Time) (n tbl tag et dest b : Nat) (errs : List FwdErr), s.fwd.flush = some (et, dest, b) →
    ∃ u, exec (.fwdCmdFlush (.visit t n errs) tbl tag) s = .next u ∧ u.fwd.flush = some (et, dest, min (b + n) 4194304) ∧
      (∀ x ∈ u.fwd.addr, x ∈ s.fwd.addr ∧ flushes et dest b (min (b + n) 4194304) x = false) ∧
      (errs = [] → ∀ x ∈ s.fwd.addr, s.fwd.addr.all (fun y => y.1 != x.1 || !flushes et dest b (min (b + n) 4194304) y) = true →
        x ∈ u.fwd.addr) ∧
      u.fwd.pfx = s.fwd.pfx ∧ u = { s.at t with regs := u.regs, evt := u.evt, fwd := u.fwd }) ∧
  (∀ (s : State) (t : Time) (et dest b : Nat) (errs : List FwdErr), s.fwd.flush = some (et, dest, b) →
    ∃ u, exec (.flushVisitComplete t errs) s = .next u ∧ u.fwd.flush = none ∧ (s.sysOn → u.isPend 162 = true) ∧
      (∀ x ∈ u.fwd.addr, x ∈ s.fwd.addr ∧ flushes et dest b 4194304 x = false) ∧
      u = { s.at t with regs := u.regs, evt := u.evt, fwd := u.fwd }) ∧
  (∀ (s : State) (t : Time) (n tbl tag : Nat) (errs : List FwdErr), s.fwd.flush = none →
    exec (.fwdCmdFlush (.visit t n errs) tbl tag) s = .next (s.at t) ∧ exec (.flushVisitComplete t errs) s = .next (s.at t))

/-- Lookups, policers and the filter (R270 to R273, R277 to R285). A waiting packet goes to the queue of multicast without a lookup; by the
entry that decides it to its egress, or nowhere where that has no route; without one to the miss queue, or it ends; and in each case
only where its policer passes it. In bootstrap mode the first entry that is not stale decides; else the hot cache, the address table,
whose entry is marked HIT, and the prefix store, where the longest stored prefix decides; a stale AIR entry is counted and passed over.
A policer passes a packet for 1,000 tokens, or ends it POLICE, counted, source 155 for its first in a second; POLICER_REFILL adds RATE
up to the burst. A bucket whose read fails is counted, source 152, and where it stays bad it is zeroed, its entries counted lost and
recorded. A bad line is dropped, source 151; a bad bootstrap entry no longer matches, source 154; a vector bad in both copies waits for
its rebuild, source 153. The scrub clears a vector's stale bits; the rebuild clears all. Records go to the error FIFO, source 156 where
it was empty, 157 where it is full; FWD_PERPOP that nothing bars takes the oldest.
The model's own choices in it: log entries 70, 71, 75.
Completes: fwdLookup, policerRefill, filterScrubVisit, filterRebuildComplete, fwdPerpop. -/
def Obligations.FwdLookups : Prop :=
  (∀ (s : State) (t : Time) (pkt dst src dscp : Nat) (errs : List FwdErr) (p : Pkt), s.qmg.pkts.find pkt = some p →
    s.qmg.intake.contains pkt = true →
    exec (.fwdLookup t pkt dst src dscp errs) s = .next ((State.forward { s.at t with
      qmg := { s.qmg with intake := s.qmg.intake.filter (fun c => c != pkt) } } errs pkt p dst dscp).learnFrom p src)) ∧
  (∀ (s : State) (t : Time) (pkt dst src dscp : Nat) (errs : List FwdErr), s.qmg.pkts.find pkt = none ∨ s.qmg.intake.contains pkt = false →
    exec (.fwdLookup t pkt dst src dscp errs) s = .next (s.at t)) ∧
  (∀ (s v : State) (errs : List FwdErr) (pkt dst dscp : Nat) (p : Pkt), v = (s.bump Ctr.FWD_LOOKUP).bump Ctr.FWD_MCAST →
    dst / 2 ^ 120 = 255 → (v.policeSrc pkt p true none).1 = true →
    s.forward errs pkt p dst dscp = ((v.policeSrc pkt p true none).2).pushPkt
      (65584 + (v.policeSrc pkt p true none).2.fld F.FWD_CFG_MCQ) (.hw 11 0) pkt) ∧
  (∀ (s v : State) (errs : List FwdErr) (pkt dst dscp : Nat) (p : Pkt) (e : FwdEntry), dst / 2 ^ 120 ≠ 255 →
    (s.bump Ctr.FWD_LOOKUP).lookup errs dst = (some e, v) → v.noRoute p.src e = true →
    s.forward errs pkt p dst dscp = v.endPkt pkt (.drop 1)) ∧
  (∀ (s v u : State) (errs : List FwdErr) (pkt dst dscp : Nat) (p : Pkt) (e : FwdEntry), dst / 2 ^ 120 ≠ 255 →
    (s.bump Ctr.FWD_LOOKUP).lookup errs dst = (some e, v) → v.noRoute p.src e = false → v.policeSrc pkt p false (some e.etype) = (true, u) →
    s.forward errs pkt p dst dscp = u.egress pkt e dscp) ∧
  (∀ (s v u : State) (errs : List FwdErr) (pkt dst dscp : Nat) (p : Pkt), dst / 2 ^ 120 ≠ 255 →
    (s.bump Ctr.FWD_LOOKUP).lookup errs dst = (none, v) → (v.bump Ctr.FWD_MISS).policeSrc pkt p false none = (true, u) →
    u.on F.FWD_CFG_MISSACT = false → s.forward errs pkt p dst dscp = u.endPkt pkt (.drop 1)) ∧
  (∀ (s v u : State) (errs : List FwdErr) (pkt dst dscp : Nat) (p : Pkt), dst / 2 ^ 120 ≠ 255 →
    (s.bump Ctr.FWD_LOOKUP).lookup errs dst = (none, v) → (v.bump Ctr.FWD_MISS).policeSrc pkt p false none = (true, u) →
    u.on F.FWD_CFG_MISSACT = true →
    s.forward errs pkt p dst dscp = u.pushPkt (65584 + u.fld F.FWD_CFG_MISSQ) (.hw 11 0) pkt) ∧
  (∀ (s v u : State) (errs : List FwdErr) (pkt dst dscp : Nat) (p : Pkt) (e : FwdEntry),
    (dst / 2 ^ 120 = 255 → ((s.bump Ctr.FWD_LOOKUP).bump Ctr.FWD_MCAST).policeSrc pkt p true none = (false, u) →
      s.forward errs pkt p dst dscp = u) ∧
    (dst / 2 ^ 120 ≠ 255 → (s.bump Ctr.FWD_LOOKUP).lookup errs dst = (some e, v) → v.noRoute p.src e = false →
      v.policeSrc pkt p false (some e.etype) = (false, u) → s.forward errs pkt p dst dscp = u) ∧
    (dst / 2 ^ 120 ≠ 255 → (s.bump Ctr.FWD_LOOKUP).lookup errs dst = (none, v) →
      (v.bump Ctr.FWD_MISS).policeSrc pkt p false none = (false, u) → s.forward errs pkt p dst dscp = u)) ∧
  (∀ (s : State) (start dscp c : Nat) (e : FwdEntry), c = (if e.dscppri = true then dscp / 8 % 8 else e.pri) →
    (e.etype = 0 → s.egress start e dscp = (s.updPkt start (fun x => { x with info := { x.info with hop := e.dest / 2 % 1024 } })).pushPkt
      (65536 + 8 * (e.dest % 2) + c) (.hw 11 0) start) ∧
    (e.etype = 1 → s.egress start e dscp =
      ((s.updPkt start (fun x => { x with info := { x.info with chip := e.dest % 16, cls := c } })).pushPkt
        (cscQueue (s.fld (F.CSC_RTa_PRI (e.dest % 16))) c) (.hw 11 0) start).cscPump) ∧
    (e.etype = 2 → s.egress start e dscp =
      (s.updPkt start (fun x => { x with info := { x.info with node := some e.dest } })).toPrc 1 11 start) ∧
    (e.etype = 3 → s.egress start e dscp = s.pushPkt (65584 + e.dest % 16) (.hw 11 0) start)) ∧
  (∀ (s w : State) (d : Nat) (errs : List FwdErr) (e : FwdEntry) (l r : List FwdEntry), s.on F.FWD_STATUS_BOOTMODE = true →
    w = s.bootErrs errs → w.bootMatches d = l ++ e :: r → l.all w.staleAir = true → w.staleAir e = false →
    (s.lookup errs d).1 = some e ∧ (s.lookup errs d).2.ctr Ctr.FWD_BOOTHIT = (w.ctr Ctr.FWD_BOOTHIT + 1) % 2 ^ 48 ∧
    (s.lookup errs d).2.ctr Ctr.FWD_STALEAIR = (w.ctr Ctr.FWD_STALEAIR + l.length) % 2 ^ 48 ∧ (s.lookup errs d).2.fwd = w.fwd) ∧
  (∀ (s w : State) (d : Nat) (errs : List FwdErr), s.on F.FWD_STATUS_BOOTMODE = true → w = s.bootErrs errs →
    (w.bootMatches d).all w.staleAir = true → s.lookup errs d = (none, w.bump Ctr.FWD_STALEAIR (w.bootMatches d).length)) ∧
  (∀ (s : State) (i : Nat), i < 16384 → s.fwd.badBoot.contains i = false →
    (s.bootErrs [.boot i]).fwd.badBoot = s.fwd.badBoot ++ [i] ∧
    (s.bootErrs [.boot i]).ctr Ctr.FWD_PARBOOT = (s.ctr Ctr.FWD_PARBOOT + 1) % 2 ^ 48 ∧ (s.sysOn → (s.bootErrs [.boot i]).isPend 154 = true) ∧
    (s.fwd.errs.length < 16 → (s.bootErrs [.boot i]).fwd.errs = s.fwd.errs ++ [⟨i, 4, false, false, 0⟩])) ∧
  (∀ (s w : State) (d : Nat) (errs : List FwdErr) (b : Bool) (i : Option Nat) (e : FwdEntry), s.on F.FWD_STATUS_BOOTMODE = false →
    s.readHot errs d = (b, w) → (if b then w.hotFind d else none) = some (i, e) →
    (s.staleAir e = false → (s.lookup errs d).1 = some e ∧ (s.lookup errs d).2.ctr Ctr.FWD_HOTHIT = (w.ctr Ctr.FWD_HOTHIT + 1) % 2 ^ 48 ∧
      (s.lookup errs d).2.ctr Ctr.FWD_AGECANCEL = (w.ctr Ctr.FWD_AGECANCEL + b2n (i.isSome && e.pend)) % 2 ^ 48 ∧
      (s.lookup errs d).2.fwd.addr = i.elim w.fwd.addr (fun k => w.fwd.addr.upd k (fun x => { x with hit := true, pend := false }))) ∧
    (s.staleAir e = true → s.lookup errs d = ((i.elim w (fun k => w.touch k e)).bump Ctr.FWD_STALEAIR).routeLookup errs d)) ∧
  (∀ (s w v : State) (d : Nat) (errs : List FwdErr) (b : Bool) (x : Option (Nat × FwdEntry)), s.on F.FWD_STATUS_BOOTMODE = false →
    s.readHot errs d = (b, w) → (if b then w.hotFind d else none) = none → w.findEntry errs false d 128 = (x, v) →
    (∀ y, x = some y → s.staleAir y.2 = false →
      (s.lookup errs d).1 = some y.2 ∧ (s.lookup errs d).2.ctr Ctr.FWD_HOSTHIT = (v.ctr Ctr.FWD_HOSTHIT + 1) % 2 ^ 48 ∧
      (s.lookup errs d).2.ctr Ctr.FWD_AGECANCEL = (v.ctr Ctr.FWD_AGECANCEL + b2n y.2.pend) % 2 ^ 48 ∧
      (s.lookup errs d).2.fwd.addr = v.fwd.addr.upd y.1 (fun z => { z with hit := true, pend := false })) ∧
    (∀ y, x = some y → s.staleAir y.2 = true →
      s.lookup errs d = ((v.touch y.1 y.2).bump Ctr.FWD_STALEAIR).routeLookup errs d) ∧
    (x = none → s.lookup errs d = v.routeLookup errs d)) ∧
  (∀ (s v : State) (d : Nat) (errs : List FwdErr) (x : Option FwdEntry), s.pfxMatch errs d = (x, v) →
    (∀ e, x = some e → v.staleAir e = false →
      (s.routeLookup errs d).1 = some e ∧ (s.routeLookup errs d).2.ctr Ctr.FWD_PFXHIT = (v.ctr Ctr.FWD_PFXHIT + 1) % 2 ^ 48 ∧
      (s.routeLookup errs d).2.fwd.addr = v.fwd.addr) ∧
    (∀ e, x = some e → v.staleAir e = true → s.routeLookup errs d = (none, v.bump Ctr.FWD_STALEAIR)) ∧
    (x = none → s.routeLookup errs d = (none, v))) ∧
  (∀ (s v : State) (d : Nat) (x : Option FwdEntry), s.vecBad (d / 2 ^ 112) = false → s.pfxMatch [] d = (x, v) → v = s ∧
    (∀ e, x = some e → e.len ∈ s.probeLens d ∧ (s.slotFor true (maskKey d e.len) e.len).map (fun y => y.2) = some e ∧
      ∀ l ∈ s.probeLens d, e.len < l → s.slotFor true (maskKey d l) l = none) ∧
    (x = none → ∀ l ∈ s.probeLens d, s.slotFor true (maskKey d l) l = none)) ∧
  (∀ (s : State) (d : Nat) (errs : List FwdErr), s.vecBad (d / 2 ^ 112) = true → s.pfxMatch errs d = (none, s)) ∧
  (∀ (s : State) (errs : List FwdErr) (pfx : Bool) (b : Nat),
    (errs.contains (.bucket pfx b true) = false → errs.contains (.bucket pfx b false) = false → s.readBucket errs pfx b = (true, s)) ∧
    (errs.contains (.bucket pfx b true) = false → errs.contains (.bucket pfx b false) = true →
      s.readBucket errs pfx b = (false, (s.bump Ctr.FWD_PARDRAM).fire 152)) ∧
    (errs.contains (.bucket pfx b true) = true →
      s.readBucket errs pfx b = (false, ((s.bump Ctr.FWD_PARDRAM).fire 152).zeroBucket pfx b))) ∧
  (∀ (s u : State) (pfx : Bool) (b : Nat) (l : List (Nat × FwdEntry)), l = s.inBucket pfx b → u = s.zeroBucket pfx b →
    u.inBucket pfx b = [] ∧ u.ctr Ctr.FWD_LOSTENT = (s.ctr Ctr.FWD_LOSTENT + l.length) % 2 ^ 48 ∧
    (pfx = true → u.fld F.FWD_PFXGEN_GEN = (s.fld F.FWD_PFXGEN_GEN + 1) % 2 ^ 32) ∧
    (s.fwd.errs.length < 16 → u.fwd.errs = s.fwd.errs ++ [⟨b, if pfx then 2 else 1, l.any (fun x => x.2.stat || pfx), false, l.length⟩])) ∧
  (∀ (s : State) (r : FwdErrRec),
    (s.fwd.errs.length < 16 → (s.fwdErr r).fwd = { s.fwd with errs := s.fwd.errs ++ [r] } ∧ s.regsEvt (s.fwdErr r) [] ∧
      (s.sysOn → s.fwd.errs = [] → (s.fwdErr r).isPend 156 = true)) ∧
    (16 ≤ s.fwd.errs.length → (s.fwdErr r).fwd = s.fwd ∧ (s.fwdErr r).ctr Ctr.FWD_PEROVF = (s.ctr Ctr.FWD_PEROVF + 1) % 2 ^ 48 ∧
      (s.sysOn → (s.fwdErr r).isPend 157 = true))) ∧
  (∀ (s : State) (key line : Nat), line < 4 →
    (s.readHot [] key) = (true, s) ∧ (s.readHot [.hot (s.hotSet key) line] key).1 = false ∧
    (s.readHot [.hot (s.hotSet key) line] key).2.ctr Ctr.FWD_PARCACHE = (s.ctr Ctr.FWD_PARCACHE + 1) % 2 ^ 48 ∧
    (s.sysOn → (s.readHot [.hot (s.hotSet key) line] key).2.isPend 151 = true) ∧
    (s.readHot [.hot (s.hotSet key) line] key).2.fwd.hot.getD' (s.hotSet key) [] = (s.fwd.hot.getD' (s.hotSet key) []).eraseIdx line) ∧
  (∀ (s : State) (k pkt : Nat), s.on (F.FWD_POLk_B_EN k) = true → 1000 ≤ s.polTokens k →
    s.police k pkt = (true, { s with fwd := { s.fwd with tokens := s.fwd.tokens.put k (s.polTokens k - 1000) } })) ∧
  (∀ (s : State) (k pkt : Nat) (p : Pkt), k < 8 → s.on (F.FWD_POLk_B_EN k) = true → s.polTokens k < 1000 → s.qmg.pkts.find pkt = some p →
    (s.police k pkt).1 = false ∧ (s.police k pkt).2.qmg.pkts = s.qmg.pkts.del pkt ∧
    (s.police k pkt).2.ctr (Ctr.FWD_POLDROP0 + 8 * k) = (s.ctr (Ctr.FWD_POLDROP0 + 8 * k) + 1) % 2 ^ 48 ∧
    (s.police k pkt).2.fwd.tokens = s.fwd.tokens ∧
    (s.sysOn → s.fwd.policed.contains k = false → (s.police k pkt).2.isPend 155 = true)) ∧
  (∀ (s : State), ∃ u, exec .policerRefill s = .next u ∧
    (∀ k < 8, s.on (F.FWD_POLk_B_EN k) = true → u.polTokens k = min (s.polTokens k + s.fld (F.FWD_POLk_A_RATE k)) (s.polFull k)) ∧
    (∀ k < 8, s.on (F.FWD_POLk_B_EN k) = false → u.polTokens k = s.polTokens k) ∧
    u = { s with fwd := { s.fwd with tokens := u.fwd.tokens } }) ∧
  (∀ (s : State) (k pkt : Nat), s.on (F.FWD_POLk_B_EN k) = false → s.police k pkt = (true, s)) ∧
  (∀ (s : State) (v : Nat), s.vecBad v = false → exec (.filterScrubVisit v none) s = .next (s.scrub v)) ∧
  (∀ (s : State) (v : Nat) (b : Option Bool), s.vecBad v = true → exec (.filterScrubVisit v b) s = .next s) ∧
  (∀ (s : State) (v : Nat), s.vecBad v = false →
    ∃ u, exec (.filterScrubVisit v (some true)) s = .next u ∧ u.fwd.bad = s.fwd.bad ++ [v] ∧ u.on F.FWD_STATUS_REBUILD = true ∧
      u.ctr Ctr.FWD_PARFLT = (s.ctr Ctr.FWD_PARFLT + 1) % 2 ^ 48 ∧ (s.sysOn → u.isPend 153 = true) ∧
      (s.fwd.errs.length < 16 → u.fwd.errs = s.fwd.errs ++ [⟨v, 3, false, false, 0⟩]) ∧
      u = { s with regs := u.regs, evt := u.evt, fwd := { s.fwd with bad := u.fwd.bad, errs := u.fwd.errs } }) ∧
  (∀ (s : State) (v : Nat), s.vecBad v = false →
    exec (.filterScrubVisit v (some false)) s = .next (((s.bump Ctr.FWD_PARFLT).fwdErr ⟨v, 3, false, false, 0⟩).scrub v)) ∧
  (∀ (s : State) (v : Nat) (x : StaleBit), x ∈ (s.scrub v).fwd.stale →
    (covers (x.base * 2 ^ 112) x.len v = true → x.done.contains v = true) ∧ s.scrub v = { s with fwd := { s.fwd with stale := (s.scrub v).fwd.stale } }) ∧
  (∀ (s : State), s.fwd.allBad = true ∨ s.fwd.bad ≠ [] →
    ∃ u, exec .filterRebuildComplete s = .next u ∧ u.on F.FWD_STATUS_REBUILD = false ∧
      u.fwd = { s.fwd with bad := [], allBad := false, stale := [], errs := u.fwd.errs } ∧
      (s.fwd.errs.length < 16 → s.regsEvt u [Reg.FWD_STATUS] ∧
        u.fwd.errs = s.fwd.errs ++ [⟨if s.fwd.allBad then 0 else s.fwd.bad.headD 0, 3, false, true, 0⟩]) ∧
      u = { s with regs := u.regs, evt := u.evt, fwd := u.fwd }) ∧
  (∀ s : State, s.fwd.allBad = false → s.fwd.bad = [] → exec .filterRebuildComplete s = .next s) ∧
  (∀ (s : State) (rq : Req), s.barred rq Reg.FWD_PERPOP (some 1) = none →
    ∃ u, exec (.fwdPerpop rq) s = .next u ∧ s.regsBut u [] ∧
      u = { s with regs := u.regs, evt := u.evt, fwd := { s.fwd with errs := s.fwd.errs.tail } })

/-- Learning, aging and damping (R275 to R279, R295 to R300). The oldest event is applied to the address table: a new entry, told to the
other chips where the event is this chip's own, or counted where there is no room, source 149; a static entry is left, source 150; a
stale event and one against a pinned entry are counted; the same egress is a refresh, another a move, which the damping table records:
the fifth in a window pins the entry, source 158; a full table without an ended record is counted, source 163. In keel service and
bootstrap mode events are dropped, and counted. The sweep leaves static entries, clears HIT, marks an entry PEND and then takes it away.
A learning message of another chip becomes an event, source 160 at a gap of its numbers, or withdraws that chip's entry that is not
newer; one of this chip or of a reserved OP is counted bad; with RXEN = 0 it is passed over. Pins whose end has come are released.
The model's own choices in it: log entries 74, 75.
Completes: learnEventApply, sweepVisit, lxMessageReceive, pinReleaseScan. -/
def Obligations.FwdLearning : Prop :=
  (∀ (s : State) (t : Time) (errs : List FwdErr), s.fwd.learnQ = [] → exec (.learnEventApply t errs) s = .next (s.at t)) ∧
  (∀ (s : State) (t : Time) (errs : List FwdErr) (v : LearnEv) (l : List LearnEv), s.fwd.learnQ = v :: l →
    s.keel = true ∨ s.on F.FWD_STATUS_BOOTMODE = true →
    ∃ u, exec (.learnEventApply t errs) s = .next u ∧ u.ctr Ctr.FWD_LEARNDROP = (s.ctr Ctr.FWD_LEARNDROP + 1) % 2 ^ 48 ∧
      s.regsBut u (halves Ctr.FWD_LEARNDROP) ∧ u = { s.at t with regs := u.regs, fwd := { s.fwd with learnQ := l } }) ∧
  (∀ (s w : State) (t : Time) (errs : List FwdErr) (v : LearnEv) (k : Nat), s.learns t errs v w →
    w.slotFor false v.addr 128 = none → w.freeSlot false v.addr 128 = some k → w.fwd.lxOut.length < 1024 →
    ∃ u, exec (.learnEventApply t errs) s = .next u ∧ u.ctr Ctr.FWD_LEARNNEW = (w.ctr Ctr.FWD_LEARNNEW + 1) % 2 ^ 48 ∧
      u.fwd.addr = w.fwd.addr.put k ⟨v.addr, 128, v.gt, false, true, true, false, false, v.etype, false, 0, 0, v.dest⟩ ∧
      (v.own = false ∨ w.mute → u.fwd.lxOut = w.fwd.lxOut) ∧
      (v.own = true → ¬ w.mute → u.fwd.lxOut = w.fwd.lxOut ++ [⟨v.addr, v.gt, 0, w.fwd.lxSeq % 2 ^ 32⟩]) ∧
      w.regsBut u (halves Ctr.FWD_LEARNNEW) ∧
      u = { w with regs := u.regs, fwd := { w.fwd with
        addr := u.fwd.addr, hot := u.fwd.hot, lxOut := u.fwd.lxOut, lxSeq := u.fwd.lxSeq } }) ∧
  (∀ (s w : State) (t : Time) (errs : List FwdErr) (v : LearnEv), s.learns t errs v w →
    w.slotFor false v.addr 128 = none → w.freeSlot false v.addr 128 = none →
    ∃ u, exec (.learnEventApply t errs) s = .next u ∧ u.ctr Ctr.FWD_LEARNFULL = (w.ctr Ctr.FWD_LEARNFULL + 1) % 2 ^ 48 ∧
      (s.sysOn → u.isPend 149 = true) ∧ w.regsEvt u (halves Ctr.FWD_LEARNFULL) ∧ u = { w with regs := u.regs, evt := u.evt }) ∧
  (∀ (s w : State) (t : Time) (errs : List FwdErr) (v : LearnEv) (k : Nat) (e : FwdEntry), s.learns t errs v w →
    w.slotFor false v.addr 128 = some (k, e) → e.stat = true →
    ∃ u, exec (.learnEventApply t errs) s = .next u ∧ u.ctr Ctr.FWD_STATCONF = (w.ctr Ctr.FWD_STATCONF + 1) % 2 ^ 48 ∧
      (s.sysOn → u.isPend 150 = true) ∧ w.regsEvt u (halves Ctr.FWD_STATCONF) ∧ u = { w with regs := u.regs, evt := u.evt }) ∧
  (∀ (s w : State) (t : Time) (errs : List FwdErr) (v : LearnEv) (k : Nat) (e : FwdEntry), s.learns t errs v w →
    w.slotFor false v.addr 128 = some (k, e) → e.stat = false → w.rank v e = .stale →
    ∃ u, exec (.learnEventApply t errs) s = .next u ∧ u.ctr Ctr.FWD_LEARNSTALE = (w.ctr Ctr.FWD_LEARNSTALE + 1) % 2 ^ 48 ∧
      w.regsBut u (halves Ctr.FWD_LEARNSTALE) ∧ u = { w with regs := u.regs }) ∧
  (∀ (s w : State) (t : Time) (errs : List FwdErr) (v : LearnEv) (k : Nat) (e : FwdEntry), s.learns t errs v w →
    w.slotFor false v.addr 128 = some (k, e) → e.stat = false → w.rank v e ≠ .stale → e.etype = v.etype → e.dest = v.dest →
    ∃ u, exec (.learnEventApply t errs) s = .next u ∧ u.ctr Ctr.FWD_REFRESH = (w.ctr Ctr.FWD_REFRESH + 1) % 2 ^ 48 ∧
      w.regsBut u (halves Ctr.FWD_REFRESH) ∧ u = { w with
        regs := u.regs, fwd := { w.fwd with addr := w.fwd.addr.upd k (fun x => { x with hit := true, pend := false, updgt := v.gt }) } }) ∧
  (∀ (s w : State) (t : Time) (errs : List FwdErr) (v : LearnEv) (k : Nat) (e : FwdEntry), s.learns t errs v w →
    w.slotFor false v.addr 128 = some (k, e) → e.stat = false → w.rank v e ≠ .stale →
    e.etype ≠ v.etype ∨ e.dest ≠ v.dest → e.pin = true →
    ∃ u, exec (.learnEventApply t errs) s = .next u ∧ u.ctr Ctr.FWD_PINDROP = (w.ctr Ctr.FWD_PINDROP + 1) % 2 ^ 48 ∧
      w.regsBut u (halves Ctr.FWD_PINDROP) ∧ u = { w with regs := u.regs }) ∧
  (∀ (s w : State) (t : Time) (errs : List FwdErr) (v : LearnEv) (k : Nat) (e : FwdEntry), s.learns t errs v w →
    w.slotFor false v.addr 128 = some (k, e) → e.stat = false → w.rank v e ≠ .stale →
    e.etype ≠ v.etype ∨ e.dest ≠ v.dest → e.pin = false →
    exec (.learnEventApply t errs) s = .next (State.tellNew (State.dampMove (State.bump (State.updEntry (w.routeKill v.addr) false k
      (fun x => { x with etype := v.etype, dest := v.dest, hit := true, pend := false, updgt := v.gt })) Ctr.FWD_MOVES) k v.addr v.gt) v)) ∧
  (∀ (s : State) (k addr gt : Nat) (d : Damp), s.fwd.damp.find? (fun (x : Damp) => x.addr == addr) = some d →
    (gtDiff gt d.start > s.dampWindow → s.dampMove k addr gt = { s with fwd := { s.fwd with
      damp := s.fwd.damp.map (fun x => if x.addr = addr then ⟨addr, gt, 1, none⟩ else x),
      addr := s.fwd.addr.upd k (fun x => { x with moves := 1, pin := x.pin || false }) } }) ∧
    (gtDiff gt d.start ≤ s.dampWindow → d.count + 1 ≠ 5 → s.dampMove k addr gt = { s with fwd := { s.fwd with
      damp := s.fwd.damp.map (fun x => if x.addr = addr then { d with count := d.count + 1 } else x),
      addr := s.fwd.addr.upd k (fun x => { x with moves := min 7 (d.count + 1), pin := x.pin || d.pin.isSome }) } }) ∧
    (gtDiff gt d.start ≤ s.dampWindow → d.count + 1 = 5 →
      (s.dampMove k addr gt).fwd = { s.fwd with
        damp := s.fwd.damp.map (fun x => if x.addr = addr then { d with count := 5, pin := some (gtAdd gt (6 * s.dampWindow)) } else x),
        addr := s.fwd.addr.upd k (fun x => { x with moves := 5, pin := x.pin || true }) } ∧
      (s.dampMove k addr gt).ctr Ctr.FWD_PINS = (s.ctr Ctr.FWD_PINS + 1) % 2 ^ 48 ∧ (s.sysOn → (s.dampMove k addr gt).isPend 158 = true) ∧
      s.regsEvt (s.dampMove k addr gt) (halves Ctr.FWD_PINS))) ∧
  (∀ (s : State) (k addr gt : Nat), s.fwd.damp.find? (fun (x : Damp) => x.addr == addr) = none → s.fwd.damp.length < 1024 →
    (s.dampMove k addr gt).fwd.damp = s.fwd.damp ++ [⟨addr, gt, 1, none⟩] ∧
    (s.dampMove k addr gt).fwd.addr = s.fwd.addr.upd k (fun x => { x with moves := 1, pin := x.pin || false }) ∧
    s.dampMove k addr gt = { s with fwd := (s.dampMove k addr gt).fwd }) ∧
  (∀ (s : State) (k addr gt : Nat), s.fwd.damp.find? (fun (x : Damp) => x.addr == addr) = none → 1024 ≤ s.fwd.damp.length →
    (s.fwd.damp.all (fun x => x.pin.isSome || decide (gtDiff gt x.start ≤ s.dampWindow)) = true →
      (s.dampMove k addr gt).ctr Ctr.FWD_FLAPOVF = (s.ctr Ctr.FWD_FLAPOVF + 1) % 2 ^ 48 ∧ (s.sysOn → (s.dampMove k addr gt).isPend 163 = true) ∧
      s.regsEvt (s.dampMove k addr gt) (halves Ctr.FWD_FLAPOVF) ∧ (s.dampMove k addr gt).fwd = s.fwd) ∧
    (s.fwd.damp.any (fun x => x.pin.isNone && decide (s.dampWindow < gtDiff gt x.start)) = true →
      (s.dampMove k addr gt).fwd.damp.contains ⟨addr, gt, 1, none⟩ = true ∧ (s.dampMove k addr gt).fwd.damp.length ≤ s.fwd.damp.length ∧
      s.dampMove k addr gt = { s with fwd := (s.dampMove k addr gt).fwd })) ∧
  (∀ (s : State) (op addr gt : Nat), (s.mute ∨ s.keel = true ∨ s.on F.FWD_STATUS_BOOTMODE = true → s.lxSend op addr gt = s) ∧
    (¬ s.mute → s.keel = false → s.on F.FWD_STATUS_BOOTMODE = false → 1024 ≤ s.fwd.lxOut.length →
      (s.lxSend op addr gt).ctr Ctr.FWD_LXTXDROP = (s.ctr Ctr.FWD_LXTXDROP + 1) % 2 ^ 48 ∧ (s.sysOn → (s.lxSend op addr gt).isPend 159 = true) ∧
      (s.lxSend op addr gt).fwd = s.fwd) ∧
    (¬ s.mute → s.keel = false → s.on F.FWD_STATUS_BOOTMODE = false → s.fwd.lxOut.length < 1024 →
      s.lxSend op addr gt = { s with fwd := { s.fwd with
        lxOut := s.fwd.lxOut ++ [⟨addr, gt, op, s.fwd.lxSeq % 2 ^ 32⟩], lxSeq := s.fwd.lxSeq + 1 } })) ∧
  (∀ (s : State) (t : Time) (b : Nat) (errs : List FwdErr), s.sweeping = false → exec (.sweepVisit t b errs) s = .next (s.at t)) ∧
  (∀ (s u : State) (t : Time) (b : Nat) (errs : List FwdErr) (ok : Bool), s.sweeping = true →
    (s.at t).readBucket errs false b = (ok, u) → exec (.sweepVisit t b errs) s = .next
      (if ok then State.eachHot State.sweepEntry errs (u.inBucket false b) u else u)) ∧
  (∀ (s : State) (t : Time) (b : Nat), s.sweeping = true →
    exec (.sweepVisit t b []) s = .next ((s.inBucket false b).foldl (fun u x => u.sweepEntry x) (s.at t))) ∧
  (∀ (s : State) (k : Nat) (e : FwdEntry), s.fwd.addr.find k = some e → e.learned = false ∨ e.stat = true → s.sweepEntry (k, e) = s) ∧
  (∀ (s : State) (k : Nat) (e : FwdEntry), s.fwd.addr.find k = some e → e.learned = true → e.stat = false → e.hit = false → e.pend = false →
    (s.sweepEntry (k, e)).ctr Ctr.FWD_AGEMARK = (s.ctr Ctr.FWD_AGEMARK + 1) % 2 ^ 48 ∧
    (s.sweepEntry (k, e)).fwd = { s.fwd with addr := s.fwd.addr.put k { e with pend := true } } ∧
    s.regsBut (s.sweepEntry (k, e)) (halves Ctr.FWD_AGEMARK)) ∧
  (∀ (s : State) (k : Nat) (e : FwdEntry), s.fwd.addr.find k = some e → e.learned = true → e.stat = false → e.hit = false → e.pend = true →
    (s.sweepEntry (k, e)).ctr Ctr.FWD_AGEEXP = (s.ctr Ctr.FWD_AGEEXP + 1) % 2 ^ 48 ∧
    (s.sweepEntry (k, e)).fwd.addr = s.fwd.addr.del k) ∧
  (∀ (s : State) (k : Nat) (e : FwdEntry), s.fwd.addr.find k = some e → e.learned = true → e.stat = false → e.hit = true →
    (s.sweepEntry (k, e)).fwd.addr = s.fwd.addr.put k { e with hit := false, pend := false }) ∧
  (∀ (s : State) (t : Time) (m : LxRx), s.live 1 = true → s.on F.FWD_LXCFG_RXEN = false → exec (.lxMessageReceive t m) s = .next (s.at t)) ∧
  (∀ (s : State) (t : Time) (m : LxRx), s.live 1 = true → s.on F.FWD_LXCFG_RXEN = true → s.keel = true ∨ s.on F.FWD_STATUS_BOOTMODE = true →
    ∃ u, exec (.lxMessageReceive t m) s = .next u ∧ u.ctr Ctr.FWD_LXRX = (s.ctr Ctr.FWD_LXRX + 1) % 2 ^ 48 ∧
      u.ctr Ctr.FWD_LEARNDROP = (s.ctr Ctr.FWD_LEARNDROP + 1) % 2 ^ 48 ∧ s.regsBut u (halves Ctr.FWD_LXRX ++ halves Ctr.FWD_LEARNDROP) ∧
      u = { s.at t with regs := u.regs }) ∧
  (∀ (s : State) (t : Time) (m : LxRx), s.live 1 = true → s.on F.FWD_LXCFG_RXEN = true → s.keel = false →
    s.on F.FWD_STATUS_BOOTMODE = false → (lxFields m.msg).2.2.2.1 = s.fld F.CSC_CFG_CHIPID ∨ (lxFields m.msg).2.2.1 = 3 →
    ∃ u, exec (.lxMessageReceive t m) s = .next u ∧ u.ctr Ctr.FWD_LXRX = (s.ctr Ctr.FWD_LXRX + 1) % 2 ^ 48 ∧
      u.ctr Ctr.FWD_LXBAD = (s.ctr Ctr.FWD_LXBAD + 1) % 2 ^ 48 ∧ s.regsBut u (halves Ctr.FWD_LXRX ++ halves Ctr.FWD_LXBAD) ∧
      u = { s.at t with regs := u.regs }) ∧
  (∀ (s : State) (v : LearnEv), (s.keel = true ∨ s.on F.FWD_STATUS_BOOTMODE = true → s.learnIn v = s.bump Ctr.FWD_LEARNDROP) ∧
    (s.keel = false → s.on F.FWD_STATUS_BOOTMODE = false → s.fwd.learnQ.length < 4096 →
      (s.learnIn v).fwd = { s.fwd with learnQ := s.fwd.learnQ ++ [v] } ∧
      (s.learnIn v).ctr Ctr.FWD_LEARNEV = (s.ctr Ctr.FWD_LEARNEV + 1) % 2 ^ 48 ∧ s.regsBut (s.learnIn v) (halves Ctr.FWD_LEARNEV)) ∧
    (s.keel = false → s.on F.FWD_STATUS_BOOTMODE = false → 4096 ≤ s.fwd.learnQ.length →
      s.learnIn v = (s.bump Ctr.FWD_LEARNDROP).fire 148)) ∧
  (∀ (s : State) (t : Time) (m : LxRx) (addr gt op org seq : Nat), s.live 1 = true → lxFields m.msg = (addr, gt, op, org, seq) →
    s.on F.FWD_LXCFG_RXEN = true → s.keel = false → s.on F.FWD_STATUS_BOOTMODE = false → org ≠ s.fld F.CSC_CFG_CHIPID → op < 2 →
    s.fwd.learnQ.length < 4096 →
    ∃ u, exec (.lxMessageReceive t m) s = .next u ∧ u.ctr Ctr.FWD_LXRX = (s.ctr Ctr.FWD_LXRX + 1) % 2 ^ 48 ∧
      u.ctr Ctr.FWD_LEARNEV = (s.ctr Ctr.FWD_LEARNEV + 1) % 2 ^ 48 ∧
      ((s.fwd.lxLast.find org).any (fun n => (n + 1) % 2 ^ 32 != seq) = true →
        u.ctr Ctr.FWD_LXGAP = (s.ctr Ctr.FWD_LXGAP + 1) % 2 ^ 48 ∧ (s.sysOn → u.isPend 160 = true)) ∧
      ((s.fwd.lxLast.find org).any (fun n => (n + 1) % 2 ^ 32 != seq) = false → s.regsBut u (halves Ctr.FWD_LXRX ++ halves Ctr.FWD_LEARNEV)) ∧
      u = { s.at t with
        regs := u.regs, evt := u.evt,
        fwd := { s.fwd with lxLast := s.fwd.lxLast.put org seq, learnQ := s.fwd.learnQ ++ [⟨addr, 1, org, gt, false⟩] } }) ∧
  (∀ (s : State) (t : Time) (m : LxRx) (addr gt org seq : Nat) (w : State), s.live 1 = true → lxFields m.msg = (addr, gt, 2, org, seq) →
    s.on F.FWD_LXCFG_RXEN = true → s.keel = false → s.on F.FWD_STATUS_BOOTMODE = false → org ≠ s.fld F.CSC_CFG_CHIPID →
    (s.fwd.lxLast.find org).all (fun n => (n + 1) % 2 ^ 32 == seq) = true →
    w = (State.readHot { (s.at t).bump Ctr.FWD_LXRX with fwd := { s.fwd with lxLast := s.fwd.lxLast.put org seq } } m.errs addr).2.readBuckets
      m.errs false addr 128 →
    (∀ x, w.slotFor false addr 128 = some x → x.2.learned = true → x.2.etype = 1 → x.2.dest = org → gtDiff x.2.updgt gt ≤ 0 →
      exec (.lxMessageReceive t m) s = .next ((w.freeEntry false x.1 false).bump Ctr.FWD_WITHDRAW)) ∧
    ((w.slotFor false addr 128).all (fun x => !x.2.learned || (x.2.etype != 1 || (x.2.dest != org || decide (0 < gtDiff x.2.updgt gt)))) = true →
      exec (.lxMessageReceive t m) s = .next w)) ∧
  (∀ (s : State) (t : Time), s.fwd.damp.all (fun x => !(x.pin.any (fun p => decide (0 ≤ gtDiff (t.gt % 2 ^ 64) p)))) = true →
    exec (.pinReleaseScan t) s = .next (s.at t)) ∧
  (∀ (s : State) (t : Time), ∃ u, exec (.pinReleaseScan t) s = .next u ∧
    (∀ x ∈ u.fwd.damp, x ∈ s.fwd.damp ∧ x.pin.any (fun p => decide (0 ≤ gtDiff (t.gt % 2 ^ 64) p)) = false) ∧
    u = { s.at t with fwd := { s.fwd with damp := u.fwd.damp, addr := u.fwd.addr } }) ∧
  (∀ (s : State) (t : Time) (d : Damp) (p k : Nat) (e : FwdEntry), s.fwd.damp = [d] → d.pin = some p → 0 ≤ gtDiff (t.gt % 2 ^ 64) p →
    s.slotFor false d.addr 128 = some (k, e) → e.learned = true →
    exec (.pinReleaseScan t) s = .next { s.at t with fwd := { s.fwd with
      damp := [], addr := s.fwd.addr.upd k (fun x => { x with pin := false, moves := 0 }) } })

/-! ### KVT and CRY (chapter 15) -/

/-- The commands of KVT (R316 to R321, R325). ATTEST, where KVT is READY or in ROLLBACK, DRBGOK is set and a key slot it names is ACTIVE,
answers its statement and a signature; INFO answers a slot; GENERATE journals a key drawn from the DRBG, whose consistency is checked;
ERASE and ZEROISE journal theirs, ZEROISE in ERROR wipes and burns an epoch fuse; each ends NOTREADY or BADARG where the rules say so. A
KUM's packet is ended as delivered, its checks follow in the order of R316, each with its outcome, and a rejected one is counted with
source 165; a KUM of a packet not held is BADARG, one that may not read DRAM ends WORLD. While a command runs, one on PRC's private port
waits and a write is ignored; a barred write is recorded; the private port takes the secure context only.
The model's own choices in it: log entries 46, 131, 144.
Completes: kvtAttest, kvtInfo, kvtErase, kvtGenerate, kvtZeroise, kvtKum. -/
def Obligations.KvtCommands : Prop :=
  (∀ (s v w : State) (rq : Req) (priv : Bool) (slot tag : Nat) (arg : Word) (c : KvtCmd), s.kvtTook rq priv 4 slot tag arg c v →
    v.kvtState = 3 ∨ v.kvtState = 4 → v.on F.CRY_STATUS_DRBGOK = true →
    F.KVT_ARG_KIND.ext c.arg ≠ 0 ∨ (v.slot (slot % 2 ^ 20)).active = true → w = v.drbgDraw →
    ∃ u, exec (.kvtAttest rq priv slot tag arg) s = .next u ∧
      u.kvtEnded c .ok 0 (v.statement (F.KVT_ARG_KIND.ext c.arg) (slot % 2 ^ 20) ++
        v.identitySign (v.statement (F.KVT_ARG_KIND.ext c.arg) (slot % 2 ^ 20))) ∧
      u.ctr Ctr.KVT_ATTEST = (v.ctr Ctr.KVT_ATTEST + 1) % 2 ^ 48 ∧ w.regsEvt u (halves Ctr.KVT_ATTEST ++ kvtAns) ∧
      u = { w with regs := u.regs, evt := u.evt, kvt := { w.kvt with cmd := none } }) ∧
  (∀ (s v : State) (rq : Req) (priv : Bool) (slot tag : Nat) (c : KvtCmd), s.kvtTook rq priv 5 slot tag 0 c v →
    v.kvtState = 3 ∨ v.kvtState = 4 →
    ∃ u, exec (.kvtInfo rq priv slot tag) s = .next u ∧ u.kvtEnded c .ok 0 ((v.slot (slot % 2 ^ 20)).info (slot % 2 ^ 20)) ∧
      v.regsEvt u kvtAns ∧ u = { v with regs := u.regs, evt := u.evt, kvt := { v.kvt with cmd := none } }) ∧
  (∀ (s v : State) (rq : Req) (priv : Bool) (slot tag : Nat) (arg : Word) (c : KvtCmd) (op : Nat) (i : Instr),
    (op, i) ∈ [(2, Instr.kvtGenerate rq priv slot tag arg), (3, .kvtErase rq priv slot tag), (4, .kvtAttest rq priv slot tag arg),
      (5, .kvtInfo rq priv slot tag)] →
    s.kvtTook rq priv op slot tag (if op = 2 ∨ op = 4 then arg else 0) c v →
    (op = 2 ∨ op = 3 → v.kvtState ≠ 3 ∨ op = 2 ∧ v.on F.CRY_STATUS_DRBGOK = false) →
    (op = 4 ∨ op = 5 → v.kvtState ≠ 3 ∧ v.kvtState ≠ 4 ∨ op = 4 ∧ v.on F.CRY_STATUS_DRBGOK = false) →
    ∃ u, exec i s = .next u ∧ u.kvtEnded c .notReady 0 [] ∧ v.regsEvt u kvtAns ∧
      u = { v with regs := u.regs, evt := u.evt, kvt := { v.kvt with cmd := none } }) ∧
  (∀ (s v : State) (rq : Req) (priv : Bool) (slot tag : Nat) (arg : Word) (c : KvtCmd) (op : Nat) (i : Instr),
    (op, i) ∈ [(2, Instr.kvtGenerate rq priv slot tag arg), (3, .kvtErase rq priv slot tag), (4, .kvtAttest rq priv slot tag arg)] →
    s.kvtTook rq priv op slot tag (if op = 3 then 0 else arg) c v →
    v.kvtState = 3 ∨ op = 4 ∧ v.kvtState = 4 → op ≠ 3 → v.on F.CRY_STATUS_DRBGOK = true →
    (op = 2 → F.KVT_ARG_USE.ext c.arg ≠ 5 ∨ (v.slot (slot % 2 ^ 20)).active = true) →
    (op = 4 → F.KVT_ARG_KIND.ext c.arg = 0 ∧ (v.slot (slot % 2 ^ 20)).active = false) →
    ∃ u, exec i s = .next u ∧ u.kvtEnded c .badArg 0 [] ∧ v.regsEvt u kvtAns ∧
      u = { v with regs := u.regs, evt := u.evt, kvt := { v.kvt with cmd := none } }) ∧
  (∀ (s v : State) (rq : Req) (priv : Bool) (slot tag : Nat) (c : KvtCmd), s.kvtTook rq priv 3 slot tag 0 c v →
    v.kvtState = 3 → (v.slot (slot % 2 ^ 20)).active = false →
    ∃ u, exec (.kvtErase rq priv slot tag) s = .next u ∧ u.kvtEnded c .badArg 0 [] ∧ v.regsEvt u kvtAns ∧
      u = { v with regs := u.regs, evt := u.evt, kvt := { v.kvt with cmd := none } }) ∧
  (∀ (s v : State) (rq : Req) (priv : Bool) (slot tag : Nat) (arg : Word) (c : KvtCmd) (n : KeySlot),
    s.kvtTook rq priv 2 slot tag arg c v →
    F.KVT_ARG_USE.ext c.arg = 5 → (v.slot (slot % 2 ^ 20)).active = false → v.kvtState = 3 → v.on F.CRY_STATUS_DRBGOK = true →
    n = ⟨v.fresh % 2 ^ (if F.KVT_ARG_ALG.ext c.arg = 1 then 256 else 128), 5, F.KVT_ARG_ALG.ext c.arg, 0, 0, true, true,
      (v.slot (slot % 2 ^ 20)).ctrres, 0, v.gtIfValid⟩ →
    ∃ u, exec (.kvtGenerate rq priv slot tag arg) s = .next u ∧
      (v.storeRoom [(slot % 2 ^ 20, n)] = true → n.consistent (slot % 2 ^ 20) = true →
        u = (v.drbgDraw.kvtBusy c).journalAdd ⟨.slot, [(slot % 2 ^ 20, n)], some c, false⟩ ∧ u.on F.KVT_CMDSTAT_BUSY = true) ∧
      (v.storeRoom [(slot % 2 ^ 20, n)] = true → n.consistent (slot % 2 ^ 20) = false →
        u = v.drbgDraw.selfFail.kvtEnd c KvtOutcome.notReady.code 0 [] ∧ u.kvtState = 5) ∧
      (v.storeRoom [(slot % 2 ^ 20, n)] = false → u = v.kvtEnd c KvtOutcome.noStore.code 0 [])) ∧
  (∀ (s v : State) (rq : Req) (priv : Bool) (slot tag : Nat) (c : KvtCmd), s.kvtTook rq priv 3 slot tag 0 c v →
    (v.slot (slot % 2 ^ 20)).active = true → v.kvtState = 3 →
    ∃ u, exec (.kvtErase rq priv slot tag) s = .next u ∧ u.on F.KVT_CMDSTAT_BUSY = true ∧ v.regsBut u [Reg.KVT_CMDSTAT] ∧
      u = (v.kvtBusy c).journalAdd ⟨.slot, [(slot % 2 ^ 20, emptySlot (v.slot (slot % 2 ^ 20)).ctrres)], some c, false⟩) ∧
  (∀ (s v : State) (rq : Req) (priv : Bool) (tag : Nat) (c : KvtCmd), s.kvtTook rq priv 6 0 tag 0 c v → v.kvtState ≠ 5 →
    ∃ u, exec (.kvtZeroise rq priv tag) s = .next u ∧
      (v.kvtState = 3 ∨ v.kvtState = 4 ∨ v.on F.KVT_CFG_APPROVED = true →
        u = (v.kvtBusy c).journalAdd ⟨.zeroise, [], some c, false⟩ ∧ u.on F.KVT_CMDSTAT_BUSY = true) ∧
      (v.kvtState ≠ 3 → v.kvtState ≠ 4 → v.on F.KVT_CFG_APPROVED = false →
        u.kvtEnded c .notReady 0 [] ∧ v.regsEvt u kvtAns ∧ u = { v with regs := u.regs, evt := u.evt, kvt := { v.kvt with cmd := none } })) ∧
  (∀ (s v : State) (rq : Req) (priv : Bool) (tag : Nat) (c : KvtCmd), s.kvtTook rq priv 6 0 tag 0 c v → v.kvtState = 5 →
    ∃ u, exec (.kvtZeroise rq priv tag) s = .next u ∧ u.on F.KVT_CMDSTAT_BUSY = true ∧ v.regsBut u [Reg.KVT_CMDSTAT] ∧
      u = State.burnStart { v with regs := u.regs, kvt := { v.kvt with
        cmd := some c, slots := [], cache := [], wrapped := [], derived := false, burns := v.kvt.burns + 1, burnZero := true,
        store := { v.kvt.store with entries := v.kvt.store.entries.map (fun (e : Nat × StoreEntry) =>
          (e.1, { wrapped := List.replicate 64 0, kumctr := 0, instGt := 0 })) } } }) ∧
  (∀ (s v : State) (rq : Req) (priv : Bool) (tag : Nat) (arg : Word) (c : KvtCmd), s.kvtTook rq priv 1 0 tag arg c v →
    v.heldPkt rq (c.arg.toNat % 2 ^ 26) = none →
    ∃ u, exec (.kvtKum rq priv tag arg) s = .next u ∧ u.kvtEnded c .badArg 0 [] ∧ v.regsEvt u kvtAns ∧
      u = { v with regs := u.regs, evt := u.evt, kvt := { v.kvt with cmd := none } }) ∧
  (∀ (s v : State) (rq : Req) (priv : Bool) (tag : Nat) (arg : Word) (c : KvtCmd) (p : Pkt), s.kvtTook rq priv 1 0 tag arg c v →
    v.heldPkt rq (c.arg.toNat % 2 ^ 26) = some p → v.regionFaults rq 4 = true →
    ∃ u, exec (.kvtKum rq priv tag arg) s = .next u ∧ u.kvtEnded c .world 0 [] ∧
      u = ((((v.xwFault rq 4 12 (cellAddr (c.arg.toNat % 2 ^ 26) (v.regionBase 10)) false).endAged (c.arg.toNat % 2 ^ 26)
        .deliv).bump Ctr.KVT_KUMREJ).fire 165).kvtEnd c KvtOutcome.world.code 0 []) ∧
  (∀ (s v : State) (rq : Req) (priv : Bool) (tag : Nat) (arg : Word) (c : KvtCmd) (p : Pkt), s.kvtTook rq priv 1 0 tag arg c v →
    v.heldPkt rq (c.arg.toNat % 2 ^ 26) = some p → v.regionFaults rq 4 = false →
    ∃ u w, exec (.kvtKum rq priv tag arg) s = .next u ∧ w = v.endAged (c.arg.toNat % 2 ^ 26) .deliv ∧
      (∀ ctr cp puts, v.kumCheck p.data = (.ok, 0, some (ctr, cp, puts)) →
        u = (w.kvtBusy c).journalAdd ⟨.kum ctr cp, puts, some c, false⟩) ∧
      (∀ o i, v.kumCheck p.data = (o, i, none) →
        u = (((o.cause.elim w (fun x => w.secEvt x (leNat (slice p.data 24 3)))).bump Ctr.KVT_KUMREJ).fire 165).kvtEnd
          c o.code i [])) ∧
  (∀ (s : State) (d : List Octet), s.kvtState ≠ 3 → s.kvtState ≠ 4 → s.kumCheck d = (.notReady, 0, none)) ∧
  (∀ (s : State) (d : List Octet), s.kvtState = 3 ∨ s.kvtState = 4 → ¬ kumForm d → s.kumCheck d = (.badFmt, 0, none)) ∧
  (∀ (s : State) (d : List Octet), s.kvtState = 3 ∨ s.kvtState = 4 → kumForm d → slice d 8 16 ≠ s.deviceId →
    s.kumCheck d = (.wrongDev, 0, none)) ∧
  (∀ (s : State) (d : List Octet), s.kvtState = 3 ∨ s.kvtState = 4 → kumForm d → slice d 8 16 = s.deviceId →
    (¬ s.kumSigner d → s.kumCheck d = (.badSigner, 0, none)) ∧
    (s.kumSigner d → kumSigned d = false → s.kumCheck d = (.badSig, 0, none)) ∧
    (s.kumSigner d → kumSigned d = true → s.kvtState = 3 → leNat (slice d 24 8) ≤ s.kumhw → s.kumCheck d = (.replay, 0, none)) ∧
    (s.kumSigner d → kumSigned d = true → s.kvtState = 4 ∨ s.kumhw < leNat (slice d 24 8) → s.kumOpen d = none →
      s.kumCheck d = (.badTag, 0, none)) ∧
    (s.kumSigner d → kumSigned d = true → s.kvtState = 4 ∨ s.kumhw < leNat (slice d 24 8) → ∀ pt, s.kumOpen d = some pt →
      (∀ i, s.kumRecords (leNat (slice d 24 8)) 0 (chunks 48 (leNat (slice d 6 2)) pt) [] = .inl i →
        s.kumCheck d = (.badRec, i, none)) ∧
      (∀ puts, s.kumRecords (leNat (slice d 24 8)) 0 (chunks 48 (leNat (slice d 6 2)) pt) [] = .inr puts →
        s.kumCheck d = if s.storeRoom puts then (.ok, 0, some (leNat (slice d 24 8), bit (leNat (slice d 32 4)) 0, puts))
          else (.noStore, 0, none)))) ∧
  (∀ (s : State) (rq : Req) (slot tag op sl : Nat) (arg a : Word) (i : Instr), s.on F.KVT_CMDSTAT_BUSY = true → rq.prcSecure = true →
    (op, sl, a, i) ∈ [(1, 0, arg, Instr.kvtKum rq true tag arg), (2, slot, arg, .kvtGenerate rq true slot tag arg),
      (3, slot, 0, .kvtErase rq true slot tag), (4, slot, arg, .kvtAttest rq true slot tag arg), (5, slot, 0, .kvtInfo rq true slot tag),
      (6, 0, 0, .kvtZeroise rq true tag)] →
    exec i s = .next { s with kvt := { s.kvt with
      waiting := s.kvt.waiting ++ [⟨op, sl % 2 ^ 20, tag % 256, a, rq, true⟩] } }) ∧
  (∀ (s : State) (rq : Req) (slot tag op sl : Nat) (arg : Word) (i : Instr),
    (op, sl, i) ∈ [(1, 0, Instr.kvtKum rq false tag arg), (2, slot, .kvtGenerate rq false slot tag arg),
      (3, slot, .kvtErase rq false slot tag), (4, slot, .kvtAttest rq false slot tag arg), (5, slot, .kvtInfo rq false slot tag),
      (6, 0, .kvtZeroise rq false tag)] →
    ∃ u, exec i s = .next u ∧
      (s.barred rq Reg.KVT_CMD (some (kvtWord op sl tag)) = none →
        (s.took rq Reg.KVT_CMD (kvtWord op sl tag)).on F.KVT_CMDSTAT_BUSY = true → u = s.took rq Reg.KVT_CMD (kvtWord op sl tag)) ∧
      (∀ x, s.barred rq Reg.KVT_CMD (some (kvtWord op sl tag)) = some x →
        u = (s.recordFault rq x true Reg.KVT_CMD 15).respond [] false)) ∧
  (∀ (s : State) (rq : Req) (slot tag : Nat) (arg : Word) (i : Instr), rq.prcSecure = false →
    i ∈ [Instr.kvtKum rq true tag arg, .kvtGenerate rq true slot tag arg, .kvtErase rq true slot tag, .kvtAttest rq true slot tag arg,
      .kvtInfo rq true slot tag, .kvtZeroise rq true tag] →
    exec i s = .next (s.recordFault rq .world true Reg.KVT_CMD 15))

/-- The journal, the fuses, the keys and CRY (R305 to R312, R317, R319, R322 to R325): an entry begins unless the host has the flash or a
dip holds it, commits whole, or has no effect where its write fails; a fuse due is burned; the next counter block is asked for once, in
a batch; a key is served to the use and binding it was made for, everyone else gets none, and the cache makes room; an entry of DRAM
that does not unwrap leaves its slot EMPTY; the self-test, the load of the key store or its refusal, the wrapped store, an error in the
keys; random numbers, reseeds, the health failure and the jobs of the engines.
The model's own choices in it: log entries 46, 97, 131, 144.
Completes: journalCommit, xspiComplete, epochFuseBurn, counterBlockAdvance, keyRequest, kvtSelftestDone, kvtKeystoreLoad,
kvtWrappedStoreWrite, kvtKeystateError, cryReseed, cryRngRead, drbgHealthFail, cryJob. -/
def Obligations.KeysAndStore : Prop :=
  (∀ s : State, s.kvt.journal = [] → exec .journalCommit s = .next s) ∧
  (∀ (s : State) (j : Journal) (l : List Journal), s.kvt.journal = j :: l → j.started = false →
    exec .journalCommit s = .next s.journalStart) ∧
  (∀ (s : State) (j : Journal) (l : List Journal), s.kvt.journal = j :: l → j.started = true →
    exec .journalCommit s = .next ((State.journalApply { s with kvt := { s.kvt with journal := l } } j).journalStart).updResume) ∧
  (∀ (s : State) (ok : Bool) (j : Journal) (c : KvtCmd), ok = false → s.hif.xcmd = none → s.kvt.journal = [j] → j.started = true →
    j.kind = .slot → j.cmd = some c → s.kvt.waiting = [] → s.upd.waits = none →
    ∃ u, exec (.xspiComplete ok) s = .next u ∧ u.kvtEnded c .noStore 0 [] ∧ s.regsEvt u kvtAns ∧
      u = { s with regs := u.regs, evt := u.evt, kvt := { s.kvt with journal := [], cmd := none } }) ∧
  (∀ (s : State) (j : Journal), s.journalAdd j = State.journalStart { s with kvt := { s.kvt with journal := s.kvt.journal ++ [j] } }) ∧
  (∀ (s : State) (j : Journal) (l : List Journal), s.kvt.journal = j :: l →
    s.journalStart = if j.started = true ∨ s.hif.xcmd.isSome = true then s
      else if s.dipNow = true then (if s.pwr.held.contains .journal then s else s.holdOp .journal)
      else { s with kvt := { s.kvt with journal := { j with started := true } :: l } }) ∧
  (∀ (s u : State) (c : KvtCmd) (slot : Nat) (k n : KeySlot), s.kvt.newGen = none → s.kvt.burns = 0 → s.kvt.waiting = [] →
    s.kvtState = 3 → n = { k with ctrres := (s.slot slot).ctrres } → u = s.journalApply ⟨.slot, [(slot, k)], some c, true⟩ →
    u.kvt.slots = s.kvt.slots.put slot n ∧
    u.kvt.jseq = max s.kvt.jseq ((s.newestSeal s.kvt.store).elim 0 (fun r => r.jseq)) + 1 ∧
    u.kvt.store = s.storeCommit ⟨s.kumhw, (s.reg Reg.KVT_SEALGEN).toNat, s.kvt.fuses, u.kvt.jseq⟩ u.kvt.slots [(slot, n)] false ∧
    u.kvtEnded c .ok 0 [] ∧ u.ctr Ctr.KVT_JOURNAL = (s.ctr Ctr.KVT_JOURNAL + 1) % 2 ^ 48 ∧
    s.regsEvt u (kvtAns ++ halves Ctr.KVT_JOURNAL) ∧ u = { s with regs := u.regs, evt := u.evt, kvt := u.kvt, msq := u.msq }) ∧
  (∀ (s u : State) (n : Nat) (cp : Bool) (slot : Nat) (k : KeySlot), s.kvt.newGen = none → s.kvt.burns = 0 →
    s.kvtState = 3 ∨ s.kvtState = 4 →
    u = s.journalApply ⟨.kum n cp, [(slot, k)], none, true⟩ →
    u.kumhw = n % 2 ^ 64 ∧ u.kvt.aonHw = some n ∧ u.kvtState = 3 ∧
    u.kvt.slots = s.kvt.slots.put slot { k with ctrres := (s.slot slot).ctrres } ∧
    u.kvt.burns = (if cp = true ∧ s.kvt.fuses < 4096 then 1 else 0) ∧
    u.ctr Ctr.KVT_KUMOK = (s.ctr Ctr.KVT_KUMOK + 1) % 2 ^ 48 ∧ (s.sysOn → u.isPend 164 = true)) ∧
  (∀ s : State, s.kvt.burns = 0 → exec .epochFuseBurn s = .next s) ∧
  (∀ s : State, s.kvt.burns ≠ 0 → s.kvt.burnStarted = false → exec .epochFuseBurn s = .next s.burnStart) ∧
  (∀ s : State, s.kvt.burns ≠ 0 → s.kvt.burnStarted = false →
    s.burnStart = if s.dipNow = true then (if s.pwr.held.contains .epochFuse then s else s.holdOp .epochFuse)
      else { s with kvt := { s.kvt with burnStarted := true } }) ∧
  (∀ s : State, s.kvt.burns = 1 → s.kvt.burnStarted = true → s.kvt.burnZero = false → s.kvt.fuses < 4096 →
    ∃ u, exec .epochFuseBurn s = .next u ∧ u.fld F.KVT_EPOCH_BURNED = (s.kvt.fuses + 1) % 2 ^ F.KVT_EPOCH_BURNED.w ∧
      u.on F.KVT_STATUS_EPOCHLOW = Nat.ble 4032 (s.kvt.fuses + 1) ∧ u.on F.KVT_STATUS_EPOCHOUT = Nat.ble 4096 (s.kvt.fuses + 1) ∧
      (s.sysOn → u.isPend 167 = true) ∧ s.regsEvt u [Reg.KVT_EPOCH, Reg.KVT_STATUS] ∧
      u = { s with
            regs := u.regs, evt := u.evt,
            kvt := { s.kvt with fuses := s.kvt.fuses + 1, burns := 0, burnStarted := false } }) ∧
  (∀ s : State, s.kvt.burns ≠ 0 → s.kvt.burnStarted = true → s.kvt.burns ≠ 1 ∨ s.kvt.burnZero = true ∨ 4096 ≤ s.kvt.fuses →
    ∃ v, v = (if s.kvt.fuses < 4096 then State.burnOne { s with kvt := { s.kvt with burns := s.kvt.burns - 1, burnStarted := false } }
        else { s with kvt := { s.kvt with burns := s.kvt.burns - 1, burnStarted := false } }) ∧
      exec .epochFuseBurn s = .next (State.burnStart (if s.kvt.burns = 1 ∧ s.kvt.burnZero = true then v.zeroiseDone else v))) ∧
  (∀ (s : State) (n : Nat), (s.slot n).active = false ∨ (s.kvt.journal.any (fun (j : Journal) => j.asksBlock n)) = true →
    exec (.counterBlockAdvance n) s = .next s) ∧
  (∀ (s : State) (n : Nat), (s.slot n).active = true → (s.kvt.journal.any (fun (j : Journal) => j.openBatch)) = false →
    (s.kvt.journal.any (fun (j : Journal) => j.asksBlock n)) = false →
    exec (.counterBlockAdvance n) s = .next (s.journalAdd ⟨.blocks [n], [], none, false⟩)) ∧
  (∀ (s : State) (n : Nat) (l : List Nat), (s.slot n).active = true → s.kvt.journal = [⟨.blocks l, [], none, false⟩] → n ∉ l →
    l.length < 512 →
    exec (.counterBlockAdvance n) s = .next { s with kvt := { s.kvt with journal := [⟨.blocks (l ++ [n]), [], none, false⟩] } }) ∧
  (∀ (s : State) (u : KeyUser) (n : Nat), s.domReady 16 = true → s.kvtState = 3 → (s.slot n).active = true →
    u.admits (s.slot n) = true → s.kvt.cache.contains n = true →
    (s.keyRequest u n).1 = some (s.slot n) ∧
    ∃ t, exec (.keyRequest u n none) s = .next t ∧ t.ctr Ctr.KVT_LOOKUP = (s.ctr Ctr.KVT_LOOKUP + 1) % 2 ^ 48 ∧
      s.regsBut t (halves Ctr.KVT_LOOKUP) ∧ t = { s with regs := t.regs, kvt := (s.cachePut n).kvt }) ∧
  (∀ (s : State) (u : KeyUser) (n : Nat), s.domReady 16 = true → s.kvtState = 3 → (s.slot n).active = true →
    s.kvt.cache.contains n = false → s.on F.KVT_STATUS_CACHEONLY = false → s.kvt.wrapped.find n = none →
    (s.keyRequest u n).1 = (if u.admits (s.slot n) = true then some (s.slot n) else none) ∧
    ∃ t, exec (.keyRequest u n none) s = .next t ∧ t.ctr Ctr.KVT_MISS = (s.ctr Ctr.KVT_MISS + 1) % 2 ^ 48 ∧
      t.ctr Ctr.KVT_NOKEY = (s.ctr Ctr.KVT_NOKEY + (if u.admits (s.slot n) = true then 0 else 1)) % 2 ^ 48 ∧
      s.regsBut t (halves Ctr.KVT_LOOKUP ++ halves Ctr.KVT_MISS ++ halves Ctr.KVT_NOKEY) ∧
      t = { s with regs := t.regs, kvt := (s.cachePut n).kvt }) ∧
  (∀ (s : State) (n : Nat) (l : List Nat), l = s.kvt.cache.filter (fun x => x != n) →
    (l.length < 65536 → s.cachePut n = { s with kvt := { s.kvt with cache := l ++ [n] } }) ∧
    (65536 ≤ l.length → (∀ x ∈ l, (s.slot x).use ≠ 1 ∧ (s.slot x).use ≠ 5) → s.cachePut n = s) ∧
    (65536 ≤ l.length → ∀ x, l.find? (fun y => (s.slot y).use == 1 || (s.slot y).use == 5) = some x →
      s.cachePut n = { s with kvt := { s.kvt with cache := l.filter (fun y => y != x) ++ [n] } })) ∧
  (∀ (s : State) (u : KeyUser) (n : Nat), s.domReady 16 = true → s.kvtState = 3 → s.kvt.cache.contains n = false →
    s.on F.KVT_STATUS_CACHEONLY = true ∨ s.kvt.wrapped.find n = none ∧ (s.slot n).active = false →
    (s.keyRequest u n).1 = none ∧
    ∃ t, exec (.keyRequest u n none) s = .next t ∧ t.ctr Ctr.KVT_MISS = (s.ctr Ctr.KVT_MISS + 1) % 2 ^ 48 ∧
      t.ctr Ctr.KVT_NOKEY = (s.ctr Ctr.KVT_NOKEY + 1) % 2 ^ 48 ∧
      s.regsBut t (halves Ctr.KVT_LOOKUP ++ halves Ctr.KVT_MISS ++ halves Ctr.KVT_NOKEY) ∧ t = { s with regs := t.regs }) ∧
  (∀ (s : State) (u : KeyUser) (n : Nat), s.domReady 16 = false ∨ s.kvtState ≠ 3 ∨
      s.kvt.cache.contains n = true ∧ ((s.slot n).active = false ∨ u.admits (s.slot n) = false) →
    (s.keyRequest u n).1 = none ∧
    ∃ t, exec (.keyRequest u n none) s = .next t ∧ t.ctr Ctr.KVT_NOKEY = (s.ctr Ctr.KVT_NOKEY + 1) % 2 ^ 48 ∧
      s.regsBut t (halves Ctr.KVT_LOOKUP ++ halves Ctr.KVT_NOKEY) ∧ t = { s with regs := t.regs }) ∧
  (∀ (s : State) (u : KeyUser) (n : Nat) (l : List Octet), s.domReady 16 = true → s.kvtState = 3 → s.kvt.cache.contains n = false →
    s.on F.KVT_STATUS_CACHEONLY = false → s.on F.KVT_SECEVT_VALID = false →
    ∃ t, exec (.keyRequest u n (some l)) s = .next t ∧ t.ctr Ctr.KVT_MISS = (s.ctr Ctr.KVT_MISS + 1) % 2 ^ 48 ∧
      (l = s.wrappedForm n → t = (s.keyRequest u n).2) ∧
      (∀ k, s.unwrapEntry n l = some k → l ≠ s.wrappedForm n → t.slot n = k) ∧
      (l ≠ s.wrappedForm n → s.unwrapEntry n l = none → t.slot n = emptySlot (s.slot n).ctrres ∧
        t.reg Reg.KVT_SECEVT = BitVec.ofNat 32 (45 + 256 * (n % 2 ^ 24)) ∧ (s.sysOn → t.isPend 174 = true) ∧
        t.ctr Ctr.KVT_NOKEY = (s.ctr Ctr.KVT_NOKEY + 1) % 2 ^ 48)) ∧
  (∀ k : KeySlot, (∀ l : Nat, (KeyUser.link l).admits k = true ↔ k.use = 1 ∧ k.any = false ∧ k.bind = l) ∧
    (KeyUser.beacon.admits k = true ↔ k.use = 2) ∧
    (∀ p : Nat, (KeyUser.macsec p).admits k = true ↔ k.use = 3 ∧ (k.any = true ∨ k.bind % 2 = p)) ∧
    (∀ p : Nat, (KeyUser.cascade p).admits k = true ↔ k.use = 4 ∧ (k.any = true ∨ k.bind % 4 = p)) ∧
    (KeyUser.general.admits k = true ↔ k.use = 5)) ∧
  (∀ s : State, s.kvtState = 0 → s.domReady 16 = true → s.kvt.scan = false →
    ∃ u, exec (.kvtSelftestDone true true true) s = .next u ∧
      u.kvtState = (if s.mapLocked = true ∧ (s.upd.run.isSome = true ∨ s.on F.CHIP_START_NOFW = true) then 2 else 1) ∧
      u.regRun (Reg.KVT_ITKPUBk 0) 24 = packWords 24 (p384Point (transportKey s.root s.deviceId)) ∧
      u.regRun (Reg.KVT_IDPUBk 0) 24 = packWords 24 (p384Point (identityKey s.root s.deviceId)) ∧
      u.on F.CRY_STATUS_SELFTESTOK = true ∧ u.on F.CRY_STATUS_DRBGOK = !s.kvt.sick ∧
      s.regsEvt u ([Reg.KVT_STATUS, Reg.CRY_STATUS] ++ (List.range 24).map Reg.KVT_ITKPUBk ++ (List.range 24).map Reg.KVT_IDPUBk) ∧
      u = { s with
        regs := u.regs, evt := u.evt, kvt := { s.kvt with derived := true }, sup := { s.sup with failPin := u.sup.failPin } }) ∧
  (∀ s : State, s.kvt.antifuse.isSome = true → s.rootBurn = s) ∧
  (∀ (s : State) (share root : Nat), s.kvt.antifuse = none → share = s.fresh % 2 ^ 256 → root = s.nextFree.fresh % 2 ^ 256 →
    s.rootBurn = { s with free := s.free + 2, kvt := { s.kvt with antifuse := some (shareStore share, shareStore (share.xor root)) } }) ∧
  (∀ (s : State) (kat itk idk : Bool), kat = false ∨ itk = false ∨ idk = false → s.kvtState = 0 → s.domReady 16 = true →
    s.kvt.scan = false → s.on F.KVT_SECEVT_VALID = false →
    ∃ u, exec (.kvtSelftestDone kat itk idk) s = .next u ∧ u.kvtState = 5 ∧ u.reg Reg.KVT_SECEVT = 29 ∧
      (s.sysOn → u.isPend 171 = true ∧ u.isPend 174 = true) ∧ s.regsEvt u [Reg.KVT_STATUS, Reg.KVT_SECEVT] ∧
      u = { s with
        regs := u.regs, evt := u.evt, kvt := { s.kvt with derived := true }, sup := { s.sup with failPin := u.sup.failPin } }) ∧
  (∀ (s : State) (b c d : Bool), s.kvtState ≠ 0 ∨ s.domReady 16 = false ∨ s.kvt.scan = true → exec (.kvtSelftestDone b c d) s = .next s) ∧
  (∀ (s : State) (o : Option KeyStore), s.kvtState ≠ 2 → exec (.kvtKeystoreLoad o) s = .next s) ∧
  (∀ (s : State) (k : KeyStore), s.kvtState = 2 → k.erased = false → s.on F.KVT_SECEVT_VALID = false →
    ∃ u, exec (.kvtKeystoreLoad (some k)) s = .next u ∧
      (s.newestSeal k = none → s.storeRefused u k 0 0 11) ∧
      (∀ r, s.newestSeal k = some r → r.epoch < s.kvt.fuses → s.storeRefused u k r.kumhw r.sealgen 6) ∧
      (∀ r, s.newestSeal k = some r → s.kvt.fuses ≤ r.epoch → u = State.storeLoad { s with kvt := { s.kvt with store := k } } k r)) ∧
  (∀ (s : State) (k : KeyStore), s.kvtState = 2 → k.erased = true →
    exec (.kvtKeystoreLoad (some k)) s = .next (State.storeLoad { s with kvt := { s.kvt with store := k } } k ⟨0, 0, s.kvt.fuses, 0⟩)) ∧
  (∀ s : State, exec (.kvtKeystoreLoad none) s = exec (.kvtKeystoreLoad (some s.kvt.store)) s) ∧
  (∀ (s u : State) (k : KeyStore) (r : Sealed), s.kvtState = 2 → s.kvt.newGen = none → s.kvt.fuses ≤ r.epoch → r.epoch ≤ 4096 →
    u = s.storeLoad k r →
    u.kvtState = 3 ∧ u.kvt.fuses = r.epoch ∧ u.kumhw = max r.kumhw (s.kvt.aonHw.getD 0) % 2 ^ 64 ∧
      u.reg Reg.KVT_SEALGEN = BitVec.ofNat 32 (max (max r.sealgen (s.kvt.aonGen.getD 0)) (s.reg Reg.KVT_SEALGEN).toNat) ∧
      u.kvt.slots = s.storeSlots k ∧ u.kvt.cache = (loadOrder u.kvt.slots).reverse ∧ u.kvt.jseq = r.jseq ∧ u.kvt.wrapped = [] ∧
      u.ctr Ctr.KVT_NOKEY = (s.ctr Ctr.KVT_NOKEY + (s.storeBad k).length) % 2 ^ 48 ∧ (s.sysOn → u.isPend 170 = true) ∧
      s.regsEvt u ([Reg.KVT_STATUS, Reg.KVT_KUMHW0, Reg.KVT_KUMHW1, Reg.KVT_SEALGEN, Reg.KVT_EPOCH, Reg.KVT_SECEVT] ++
        halves Ctr.KVT_NOKEY) ∧
      u = { s with
        regs := u.regs, evt := u.evt, kvt := u.kvt, msq := { s.msq with out := [] }, sup := { s.sup with failPin := u.sup.failPin } }) ∧
  (∀ s : State, s.on F.MEM_STATUS_TRAINED = true → 3 ≤ s.kvtState →
    ∃ u, exec .kvtWrappedStoreWrite s = .next u ∧ u.on F.KVT_STATUS_CACHEONLY = false ∧ s.regsBut u [Reg.KVT_STATUS] ∧
      u = { s with regs := u.regs }) ∧
  (∀ s : State, s.on F.MEM_STATUS_TRAINED = false ∨ s.kvtState < 3 → exec .kvtWrappedStoreWrite s = .next s) ∧
  (∀ s : State, s.kvtState = 5 → exec .kvtKeystateError s = .next s) ∧
  (∀ s : State, s.kvtState ≠ 5 → s.on F.KVT_SECEVT_VALID = false → s.sup.fs ≠ .restart → s.sup.halted = false →
    ∃ u, exec .kvtKeystateError s = .next u ∧ u.reg Reg.KVT_SECEVT = 37 ∧ (s.sysOn → u.isPend 174 = true) ∧
      (s.kvt.derived = false ∨ s.pairwise = true →
        u.kvtState = s.kvtState ∧
        u.kvt = (if s.kvtState = 3 then { s.kvt with cache := (loadOrder s.kvt.slots).reverse } else s.kvt) ∧
        (s.sysOn → u.isPend 172 = true) ∧ u.ctr Ctr.SUP_FLTCNT = (s.ctr Ctr.SUP_FLTCNT + 1) % 2 ^ 48) ∧
      (s.kvt.derived = true → s.pairwise = false → u.kvtState = 5 ∧ (s.sysOn → u.isPend 171 = true))) ∧
  (∀ (s u : State), u = s.drbgDraw →
    u.ctr Ctr.CRY_DRBGREQ = (s.ctr Ctr.CRY_DRBGREQ + 1) % 2 ^ 48 ∧
    (s.kvt.drbgReqs + 1 ≠ 2 ^ 20 → s.regsBut u (halves Ctr.CRY_DRBGREQ) ∧
      u = { s with regs := u.regs, free := s.free + 1, kvt := { s.kvt with drbgReqs := s.kvt.drbgReqs + 1 } }) ∧
    (s.kvt.drbgReqs + 1 = 2 ^ 20 → u.ctr Ctr.CRY_RESEEDS = (s.ctr Ctr.CRY_RESEEDS + 1) % 2 ^ 48 ∧
      s.regsBut u (halves Ctr.CRY_DRBGREQ ++ halves Ctr.CRY_RESEEDS) ∧
      u = { s with regs := u.regs, free := s.free + 1, kvt := { s.kvt with drbgReqs := 0 } })) ∧
  (∀ (s v : State) (rq : Req), s.barred rq Reg.CRY_RESEED (some 1) = none → v = s.took rq Reg.CRY_RESEED 1 →
    ∃ u, exec (.cryReseed rq) s = .next u ∧
      (v.on F.CRY_STATUS_DRBGOK = true → u.kvt = { v.kvt with drbgReqs := 0 } ∧
        u.ctr Ctr.CRY_RESEEDS = (v.ctr Ctr.CRY_RESEEDS + 1) % 2 ^ 48 ∧ v.regsBut u (halves Ctr.CRY_RESEEDS) ∧
        u = { v with regs := u.regs, kvt := u.kvt }) ∧
      (v.on F.CRY_STATUS_DRBGOK = false → u = v)) ∧
  (∀ (s : State) (rq : Req) (c : AccCause), s.barred rq Reg.CRY_RESEED (some 1) = some c →
    exec (.cryReseed rq) s = .next ((s.recordFault rq c true Reg.CRY_RESEED 15).respond [] false)) ∧
  (∀ (s : State) (rq : Req), s.barred rq Reg.CRY_RNG none = none → s.on F.CRY_STATUS_DRBGOK = true →
    exec (.cryRngRead rq) s = .next (s.drbgDraw.respond (leOctets 4 (s.fresh % 2 ^ 32)) true)) ∧
  (∀ (s : State) (rq : Req), s.barred rq Reg.CRY_RNG none = none → s.on F.CRY_STATUS_DRBGOK = false →
    exec (.cryRngRead rq) s = .next (s.respond [0, 0, 0, 0] true)) ∧
  (∀ (s : State) (rq : Req) (c : AccCause), s.barred rq Reg.CRY_RNG none = some c →
    exec (.cryRngRead rq) s = .next ((s.recordFault rq c false Reg.CRY_RNG 15).respond [0, 0, 0, 0] false)) ∧
  (∀ s : State, s.on F.KVT_SECEVT_VALID = false →
    ∃ u, exec .drbgHealthFail s = .next u ∧ u.on F.CRY_STATUS_DRBGOK = false ∧ u.reg Reg.KVT_SECEVT = 33 ∧
      u.ctr Ctr.CRY_HEALTH = (s.ctr Ctr.CRY_HEALTH + 1) % 2 ^ 48 ∧ (s.sysOn → u.isPend 176 = true ∧ u.isPend 174 = true) ∧
      s.regsEvt u ([Reg.CRY_STATUS, Reg.KVT_SECEVT] ++ halves Ctr.CRY_HEALTH) ∧
      u = { s with regs := u.regs, evt := u.evt, kvt := { s.kvt with sick := true } }) ∧
  (∀ (s : State) (kind : CryKind) (slot : Option Nat) (err : Bool), s.domReady 16 = false → exec (.cryJob kind slot err) s = .next s) ∧
  (∀ (s : State) (j : AesJob) (slot : Option Nat), s.domReady 16 = true → s.on F.KVT_CFG_APPROVED = false →
    slot = none → ∃ u, exec (.cryJob (.aes j) slot false) s = .next u ∧ u.kvt = { s.kvt with answer := j.run j.key } ∧
      u.ctr Ctr.CRY_AESJOB = (s.ctr Ctr.CRY_AESJOB + 1) % 2 ^ 48 ∧ s.regsBut u (halves Ctr.CRY_AESJOB) ∧
      u = { s with regs := u.regs, kvt := u.kvt }) ∧
  (∀ (s v : State) (j : AesJob) (n : Nat), s.domReady 16 = true → s.on F.KVT_CFG_APPROVED = false ∨ j.mode ≠ .ecb →
    v = (s.keyRequest .general n).2 →
    ∃ u, exec (.cryJob (.aes j) (some n) false) s = .next u ∧
      (∀ k, (s.keyRequest .general n).1 = some k → u.kvt = { v.kvt with answer := j.run (aesKey k.key k.alg) } ∧
        u.ctr Ctr.CRY_AESJOB = (v.ctr Ctr.CRY_AESJOB + 1) % 2 ^ 48 ∧ v.regsBut u (halves Ctr.CRY_AESJOB) ∧
        u = { v with regs := u.regs, kvt := u.kvt }) ∧
      ((s.keyRequest .general n).1 = none → u = { v with kvt := { v.kvt with answer := none } })) ∧
  (∀ (s : State) (j : AesJob) (slot : Option Nat) (err : Bool), s.domReady 16 = true → s.on F.KVT_CFG_APPROVED = true →
    slot = none ∨ j.mode = .ecb → exec (.cryJob (.aes j) slot err) s = .next { s with kvt := { s.kvt with answer := none } }) ∧
  (∀ (s : State) (j : PkJob) (msg : List Octet) (d : Nat) (pub : List Octet), s.domReady 16 = true → s.on F.KVT_CFG_APPROVED = true →
    j ∈ [PkJob.sign d msg, .ecdh d pub, .pair d pub] →
    exec (.cryJob (.pk j) none false) s = .next { s with kvt := { s.kvt with answer := none } }) ∧
  (∀ (s : State) (pub msg sig : List Octet), s.domReady 16 = true →
    ∃ u, exec (.cryJob (.pk (.verify pub msg sig)) none false) s = .next u ∧ u.ctr Ctr.CRY_PKJOB = (s.ctr Ctr.CRY_PKJOB + 1) % 2 ^ 48 ∧
      u.kvt = { s.kvt with answer := some [BitVec.ofNat 8 (b2n (ecdsaP384 pub msg sig))] } ∧ s.regsBut u (halves Ctr.CRY_PKJOB) ∧
      u = { s with regs := u.regs, kvt := u.kvt }) ∧
  (∀ (s : State) (d : Nat) (msg : List Octet), s.domReady 16 = true → s.on F.KVT_CFG_APPROVED = false →
    ∃ u, exec (.cryJob (.pk (.sign d msg)) none false) s = .next u ∧
      (s.on F.CRY_STATUS_DRBGOK = true → u = s.drbgDraw.jobDone Ctr.CRY_PKJOB false (some (sigOctets (ecdsaSign d s.fresh (sha384 msg))))) ∧
      (s.on F.CRY_STATUS_DRBGOK = false → u = { s with kvt := { s.kvt with answer := none } })) ∧
  (∀ (s : State) (msg : List Octet) (j : HashJob) (r : List Octet), s.domReady 16 = true →
    (j, r) ∈ [(HashJob.sha256 msg, sha256 msg), (.sha384 msg, sha384 msg)] →
    ∃ u, exec (.cryJob (.hash j) none false) s = .next u ∧ u.ctr Ctr.CRY_HASHJOB = (s.ctr Ctr.CRY_HASHJOB + 1) % 2 ^ 48 ∧
      u.kvt = { s.kvt with answer := some r } ∧ s.regsBut u (halves Ctr.CRY_HASHJOB) ∧ u = { s with regs := u.regs, kvt := u.kvt }) ∧
  (∀ (s : State) (key msg : List Octet) (j : HashJob) (r : List Octet), s.domReady 16 = true →
    (j, r) ∈ [(HashJob.hmac256 key msg, hmac256 key msg), (.hmac384 key msg, hmac384 key msg)] →
    exec (.cryJob (.hash j) none false) s = .next (if s.on F.KVT_CFG_APPROVED = true then { s with kvt := { s.kvt with answer := none } }
      else s.jobDone Ctr.CRY_HASHJOB false (some r))) ∧
  (∀ (s : State) (n : Nat), s.domReady 16 = true →
    ∃ u, exec (.cryJob (.drbg n) none false) s = .next u ∧
      (s.on F.CRY_STATUS_DRBGOK = true → u = { s.drbgDraw with kvt := { s.drbgDraw.kvt with answer := some (leOctets n s.fresh) } }) ∧
      (s.on F.CRY_STATUS_DRBGOK = false → u = { s with kvt := { s.kvt with answer := none } })) ∧
  (∀ (s : State) (j : HashJob) (msg : List Octet), s.domReady 16 = true → s.sysOn → s.sup.fs ≠ .restart → s.sup.halted = false →
    j ∈ [HashJob.sha256 msg, .sha384 msg] →
    ∃ u, exec (.cryJob (.hash j) none true) s = .next u ∧ u.isPend 177 = true ∧ u.kvt.answer = none ∧
      u.ctr Ctr.CRY_HASHJOB = (s.ctr Ctr.CRY_HASHJOB + 1) % 2 ^ 48 ∧ u.ctr Ctr.SUP_FLTCNT = (s.ctr Ctr.SUP_FLTCNT + 1) % 2 ^ 48)

/-! ### CSC (chapter 18) -/

/-- Ports and frames (R364 to R374, R376 to R378, R383). Block lock sends a HELLO, on a protected port under the slot key and only with a
DRBG; a HELLO that verifies brings the port UP with fresh session keys, or FOREIGN; the loss of block lock, the fourth retransmission
and the timeout of a foreign peer. A frame on a port that is not UP does nothing; one the buffer spoiled or whose trailer is wrong is
discarded; others acknowledge, and in order they act by what they carry: packets, acknowledgements, grants, LSAs, homes, learning
messages, time, SLV's frames, STATUS; what is for another chip goes on. What the frames of SLV do, and what UPD shows of a chip.
The model's own choices in it: log entries 79, 80, 145.
Completes: cscBlockLock, cscLockLoss, cscRetxTimeout, cscForeignTimeout, cscHello, cscAck, cscCredit, cscData, cscLsa, cscHome,
cscLearn, cscTime, cscSched, cscStatus. -/
def Obligations.CscFrames : Prop :=
  (∀ (s : State) (n : Nat), s.domReady 19 = true → s.fld (F.CSC_PnSTAT_STATE n) = 1 → n < 4 →
    exec (.cscBlockLock n) s = .next ((s.setCport n { s.cport n with lock := true }).sendHello n)) ∧
  (∀ (s : State) (n : Nat), s.domReady 19 = false ∨ s.fld (F.CSC_PnSTAT_STATE n) ≠ 1 ∨ 4 ≤ n → exec (.cscBlockLock n) s = .next s) ∧
  (∀ (s u : State) (n : Nat) (b : List Octet), s.on (F.CSC_PnCFG_SEC n) = false → u = (if s.on F.CRY_STATUS_DRBGOK then s.drbgDraw else s.nextFree) →
    b = Config.cscOctets (.hello (s.fld F.CSC_CFG_CASCID) s.devNum s.fabric n (s.fresh % 2 ^ 128) 0) →
    s.sendHello n = u.setCport n { s.cport n with
      rand := if s.on F.CRY_STATUS_DRBGOK then some (s.fresh % 2 ^ 128) else none,
      hello := cscLine false [] [] (cscHeader 3 false 0 31 s.fabric b.length (s.cport n).txSeq (s.cport n).rxSeq 0) b }) ∧
  (∀ (s v : State) (n : Nat), s.on (F.CSC_PnCFG_SEC n) = true → s.on F.CRY_STATUS_DRBGOK = true → v = s.drbgDraw →
    (∀ k, (v.keyRequest (.cascade n) (v.fld (F.CSC_PnCFG_KEYSLOT n))).1 = some k →
      ∃ u, u = (v.keyRequest (.cascade n) (v.fld (F.CSC_PnCFG_KEYSLOT n))).2 ∧
      ∃ b, b = Config.cscOctets (.hello (s.fld F.CSC_CFG_CASCID) s.devNum s.fabric n (s.fresh % 2 ^ 128) (u.fresh % 2 ^ 96)) ∧
      ∃ l, l = cscHeader 3 false 0 31 s.fabric b.length (s.cport n).txSeq (s.cport n).rxSeq 0 ++ b ∧
        s.sendHello n = u.drbgDraw.setCport n { s.cport n with
          rand := some (s.fresh % 2 ^ 128), hello := l ++ (gcmSeal (leOctets 32 k.key) (leOctets 12 (u.fresh % 2 ^ 96)) l []).2 }) ∧
    ((v.keyRequest (.cascade n) (v.fld (F.CSC_PnCFG_KEYSLOT n))).1 = none →
      s.sendHello n = (v.keyRequest (.cascade n) (v.fld (F.CSC_PnCFG_KEYSLOT n))).2.setCport n
        { s.cport n with rand := none, hello := [] })) ∧
  (∀ (s : State) (n : Nat), s.on (F.CSC_PnCFG_SEC n) = true → s.on F.CRY_STATUS_DRBGOK = false →
    s.sendHello n = (s.nextFree.keyRequest (.cascade n) (s.fld (F.CSC_PnCFG_KEYSLOT n))).2.setCport n
      { s.cport n with rand := none, hello := [] }) ∧
  (∀ (s : State) (t : Time) (n : Nat), s.domReady 19 = true → n < 4 → s.portUp n = false →
    exec (.cscLockLoss t n) s = .next ((s.at t).setCport n { s.cport n with lock := false })) ∧
  (∀ (s v : State) (t : Time) (n : Nat), s.domReady 19 = true → n < 4 → s.portUp n = true →
    v = (s.at t).setCport n { s.cport n with lock := false } →
    exec (.cscLockLoss t n) s = .next ((v.bump (Ctr.CSC_PnDOWN n)).portDown n 1)) ∧
  (∀ (s : State) (t : Time) (n : Nat), s.domReady 19 = false ∨ 4 ≤ n → exec (.cscLockLoss t n) s = .next (s.at t)) ∧
  (∀ (s : State) (t : Time) (n : Nat), s.domReady 19 = true → n < 4 → s.csc.ports.length = 4 → s.portUp n = true →
    (s.cport n).unacked ≠ [] → (s.cport n).retx < 3 →
    ∃ u, exec (.cscRetxTimeout t n) s = .next u ∧
      u.ctr (Ctr.CSC_PnRETX n) = (s.ctr (Ctr.CSC_PnRETX n) + (s.cport n).unacked.length) % 2 ^ 48 ∧
      (u.cport n).unacked.map (fun f => { f with octets := [] }) = (s.cport n).unacked.map (fun f => { f with octets := [] }) ∧
      u.cport n = { s.cport n with
        retx := (s.cport n).retx + 1, txCount := (s.cport n).txCount + (s.cport n).unacked.length, ackTold := (s.cport n).rxSeq,
        unacked := (u.cport n).unacked } ∧
      s.regsBut u (halves (Ctr.CSC_PnRETX n)) ∧ u = { s.at t with regs := u.regs, csc := ((s.at t).setCport n (u.cport n)).csc }) ∧
  (∀ (s : State) (t : Time) (n : Nat), s.domReady 19 = true → s.portUp n = true → (s.cport n).unacked ≠ [] → 3 ≤ (s.cport n).retx →
    exec (.cscRetxTimeout t n) s = .next (((s.at t).bump (Ctr.CSC_PnDOWN n)).portDown n 1)) ∧
  (∀ (s : State) (t : Time) (n : Nat), s.domReady 19 = false ∨ s.portUp n = false ∨ (s.cport n).unacked = [] →
    exec (.cscRetxTimeout t n) s = .next (s.at t)) ∧
  (∀ (s : State) (t : Time) (n : Nat), s.fld (F.CSC_PnSTAT_STATE n) = 3 → (s.cport n).helloFt + 10000 ≤ t.ft →
    exec (.cscForeignTimeout t n) s = .next ((s.at t).portTrain n)) ∧
  (∀ (s : State) (t : Time) (n : Nat), s.fld (F.CSC_PnSTAT_STATE n) ≠ 3 ∨ t.ft < (s.cport n).helloFt + 10000 →
    exec (.cscForeignTimeout t n) s = .next (s.at t)) ∧
  (∀ (s v : State) (n : Nat), n < 4 → v = s.setFld (F.CSC_PnSTAT_STATE n) 1 →
    v.fld (F.CSC_PnSTAT_STATE n) = 1 ∧ s.regsBut v [(F.CSC_PnSTAT_STATE n).reg] ∧
    s.portTrain n = if (s.cport n).lock then v.sendHello n else v) ∧
  (∀ (s : State) (t : Time) (n : Nat) (h : CscHello),
    s.domReady 19 = false ∨ 4 ≤ n ∨ s.fld (F.CSC_PnSTAT_STATE n) ≠ 1 ∧ s.fld (F.CSC_PnSTAT_STATE n) ≠ 3 →
    exec (.cscHello t n h) s = .next (s.at t)) ∧
  (∀ (s : State) (t : Time) (n : Nat) (h : CscHello), s.domReady 19 = true → n < 4 →
    s.fld (F.CSC_PnSTAT_STATE n) = 1 ∨ s.fld (F.CSC_PnSTAT_STATE n) = 3 → h.bad = true →
    exec (.cscHello t n h) s = .next (s.at t).badFrame) ∧
  (∀ (s : State) (t : Time) (n : Nat) (h : CscHello), s.domReady 19 = true → n < 4 →
    s.fld (F.CSC_PnSTAT_STATE n) = 1 ∨ s.fld (F.CSC_PnSTAT_STATE n) = 3 → h.bad = false → s.on (F.CSC_PnCFG_SEC n) = false →
    exec (.cscHello t n h) s = .next (if h.verifies none then (s.at t).helloIn n h none else (s.at t).authFail n)) ∧
  (∀ (s u : State) (t : Time) (n : Nat) (h : CscHello), s.domReady 19 = true → n < 4 →
    s.fld (F.CSC_PnSTAT_STATE n) = 1 ∨ s.fld (F.CSC_PnSTAT_STATE n) = 3 → h.bad = false → s.on (F.CSC_PnCFG_SEC n) = true →
    u = ((s.at t).keyRequest (.cascade n) (s.fld (F.CSC_PnCFG_KEYSLOT n))).2 →
    (∀ k, ((s.at t).keyRequest (.cascade n) (s.fld (F.CSC_PnCFG_KEYSLOT n))).1 = some k →
      exec (.cscHello t n h) s = .next (if h.verifies (some k) then u.helloIn n h (some k) else u.authFail n)) ∧
    (((s.at t).keyRequest (.cascade n) (s.fld (F.CSC_PnCFG_KEYSLOT n))).1 = none → exec (.cscHello t n h) s = .next u)) ∧
  (∀ (s v : State) (n : Nat) (h : CscHello) (key : Option KeySlot), v = s.setCport n { s.cport n with helloFt := s.gtb.ft } →
    n < 4 → s.csc.ports.length = 4 →
    (s.fld (F.CSC_PnSTAT_STATE n) = 3 ∨ (s.cport n).lock = false → s.helloIn n h key = v) ∧
    (s.fld (F.CSC_PnSTAT_STATE n) ≠ 3 → (s.cport n).lock = true → h.cascid ≠ s.fld F.CSC_CFG_CASCID →
      (s.helloIn n h key).fld (F.CSC_PnSTAT_STATE n) = 3 ∧ (s.sysOn → (s.helloIn n h key).isPend 199 = true) ∧
      v.regsEvt (s.helloIn n h key) [(F.CSC_PnSTAT_STATE n).reg] ∧
      s.helloIn n h key = { v with regs := (s.helloIn n h key).regs, evt := (s.helloIn n h key).evt }) ∧
    (s.fld (F.CSC_PnSTAT_STATE n) ≠ 3 → (s.cport n).lock = true → h.cascid = s.fld F.CSC_CFG_CASCID →
      (key = none → s.helloIn n h key = v.portReady n h ([], [])) ∧
      (key.isSome = true → (s.cport n).rand = none → s.helloIn n h key = v) ∧
      (∀ k ∈ key, ∀ r ∈ (s.cport n).rand, s.helloIn n h key = v.portReady n h (v.sessionKeys r h k)))) ∧
  (∀ (s v : State) (ra rb : Nat) (hs hv : CscHello) (k : KeySlot), s.devNum < v.devNum → hs.dev = v.devNum → hs.rand = rb →
    hv.dev = s.devNum → hv.rand = ra →
    (s.sessionKeys ra hs k).1 = (v.sessionKeys rb hv k).2 ∧ (s.sessionKeys ra hs k).2 = (v.sessionKeys rb hv k).1) ∧
  (∀ (s : State) (n : Nat), n < 4 → (s.authFail n).ctr (Ctr.CSC_PnAUTHFAIL n) = (s.ctr (Ctr.CSC_PnAUTHFAIL n) + 1) % 2 ^ 48 ∧
    (s.sysOn → s.csc.authSeen = false → (s.authFail n).isPend 200 = true) ∧ (s.authFail n).csc = { s.csc with authSeen := true } ∧
    s.regsEvt (s.authFail n) (halves (Ctr.CSC_PnAUTHFAIL n))) ∧
  (∀ s : State, s.sysOn → s.badFrame.isPend 203 = true) ∧
  (∀ (s : State) (t : Time) (n typ cls oseq : Nat) (h : CscHdr) (i : Instr) (body : List Octet),
    cscFrameOf i = some (t, n, h, typ, cls, oseq, body) → typ ≠ 11 ∨ s.on (F.CSC_PnCFG_LOOP n) = false →
    s.domReady 19 = false ∨ s.portUp n = false → exec i s = .next (s.at t)) ∧
  (∀ (s v : State) (t : Time) (n typ cls oseq : Nat) (h : CscHdr) (i : Instr) (body : List Octet),
    cscFrameOf i = some (t, n, h, typ, cls, oseq, body) → typ ≠ 11 ∨ s.on (F.CSC_PnCFG_LOOP n) = false →
    s.domReady 19 = true → s.portUp n = true → h.bad = true →
    v = (s.at t).setCport n { s.cport n with rxCount := (s.cport n).rxCount + 1 } → exec i s = .next v.badFrame) ∧
  (∀ (s v : State) (t : Time) (n typ cls oseq : Nat) (h : CscHdr) (i : Instr) (body : List Octet),
    cscFrameOf i = some (t, n, h, typ, cls, oseq, body) → typ ≠ 11 ∨ s.on (F.CSC_PnCFG_LOOP n) = false →
    s.domReady 19 = true → s.portUp n = true → h.bad = false → s.frameOk n h typ cls oseq body = false →
    v = (s.at t).setCport n { s.cport n with rxCount := (s.cport n).rxCount + 1 } → exec i s = .next (v.authFail n)) ∧
  (∀ (s : State) (t : Time) (n typ cls oseq : Nat) (h : CscHdr) (i : Instr) (body : List Octet),
    cscFrameOf i = some (t, n, h, typ, cls, oseq, body) → typ ≠ 11 ∨ s.on (F.CSC_PnCFG_LOOP n) = false → typ ≠ 1 → typ ≠ 2 →
    (s.at t).cscHears n h typ cls oseq body → h.lseq ≠ (((s.at t).cscCame n h).cport n).rxSeq →
    exec i s = .next ((s.at t).cscCame n h).cscPump) ∧
  (∀ (s : State) (t : Time) (n : Nat) (h : CscHdr), (s.at t).cscHears n h 1 0 0 [] →
    exec (.cscAck t n h) s = .next (((s.at t).cscCame n h).bump (Ctr.CSC_PnRXFRM n)).cscPump) ∧
  (∀ (s v : State) (t : Time) (n : Nat) (h : CscHdr) (g : CscGrant),
    (s.at t).cscHears n h 2 0 0 (Config.cscOctets (.credit g.cells g.ctl)) → v = (s.at t).cscCame n h →
    exec (.cscCredit t n h g) s = .next
      ((v.setCport n { v.cport n with peerGrant := g.cells % 2 ^ 32, ctlGrant := g.ctl % 2 ^ 32 }).bump (Ctr.CSC_PnRXFRM n)).cscPump) ∧
  (∀ (s v : State) (t : Time) (n cls oseq : Nat) (h : CscHdr) (data : List Octet), s.cscTook t n h 0 cls oseq data v →
    exec (.cscData t n h cls oseq data) s = .next (v.cscData n h cls oseq data).cscPump) ∧
  (∀ (s : State) (n cls oseq : Nat) (h : CscHdr) (data : List Octet), (s.csc.seen.getD' h.src []).contains oseq = true →
    (s.cscData n h cls oseq data).ctr Ctr.CSC_DUP = (s.ctr Ctr.CSC_DUP + 1) % 2 ^ 48 ∧
    (s.cscData n h cls oseq data).qmg = s.qmg ∧ s.regsBut (s.cscData n h cls oseq data) (halves Ctr.CSC_DUP)) ∧
  (∀ (s : State) (n cls oseq a : Nat) (l : List Nat) (h : CscHdr) (data : List Octet), s.csc.seen.find h.src = some (a :: l) →
    4095 ≤ l.length → (a :: l).contains oseq = false → oseq < a →
    (s.cscData n h cls oseq data).ctr Ctr.CSC_STALE = (s.ctr Ctr.CSC_STALE + 1) % 2 ^ 48 ∧
    (s.cscData n h cls oseq data).qmg = s.qmg ∧ s.regsBut (s.cscData n h cls oseq data) (halves Ctr.CSC_STALE)) ∧
  (∀ (s v : State) (n cls oseq : Nat) (h : CscHdr) (data : List Octet), (s.csc.seen.getD' h.src []).contains oseq = false →
    (s.csc.seen.getD' h.src []).length < 4096 →
    v = State.setCport { s with csc := { s.csc with seen := s.csc.seen.put h.src (keepHighest (s.csc.seen.getD' h.src []) oseq) } } n
      { s.cport n with arrived := ((s.cport n).arrived + cellsFor data.length) % 2 ^ 32 } →
    (16 ≤ h.dst ∧ h.dst ≠ 31 ∨ 16 ≤ s.fabric → s.cscData n h cls oseq data = v) ∧
    ((h.dst < 16 ∨ h.dst = 31) → s.fabric < 16 →
      ∃ r, r = v.acceptPkt 5 (cellsFor data.length) data (.hw 15 n)
          { kind := 5, port := n, cls := cls % 8, chip := h.dst, flag := h.rerouted, org := some (h.src, oseq) } ∧
      ∃ w, w = r.2.bump Ctr.CSC_RXPKT ∧
        (r.1 = none → s.cscData n h cls oseq data = r.2) ∧
        (∀ st, r.1 = some st → h.dst = w.fabric ∨ h.dst = 31 → s.cscData n h cls oseq data =
          State.updPkt { w with qmg := { w.qmg with intake := w.qmg.intake ++ [st] } } st
            (fun x => { x with info := { x.info with org := none, flag := false } })) ∧
        (∀ st, r.1 = some st → h.dst ≠ w.fabric → h.dst ≠ 31 → ∃ x, x = w.bump Ctr.CSC_TRANSIT ∧
          (∀ m, x.primary h.dst = some m → s.cscData n h cls oseq data = x.toPort m st) ∧
          (x.primary h.dst = none → s.cscData n h cls oseq data =
            if h.rerouted || x.routed h.dst then x.holdPkt st else x.cscNoRoute st)))) ∧
  (∀ (s : State) (n a k : Nat) (f : CscFrame) (l m : List CscFrame), (s.cport n).unacked = f :: (l ++ m) → k = l.length + 1 → k < 65536 →
    a = (f.lseq + k) % 65536 → f.lseq < 65536 → (∀ g ∈ f :: l, g.body.typ ≠ 0) →
    s.ackTo n a = s.setCport n { s.cport n with unacked := m, retx := 0 }) ∧
  (∀ (s : State) (n st oseq cells : Nat) (f : CscFrame) (m : List CscFrame), (s.cport n).unacked = f :: m →
    f.body = .data st oseq cells → f.lseq < 65536 →
    s.ackTo n ((f.lseq + 1) % 65536) =
      if (s.qmg.pkts.find st).any (fun p => p.info.org == some (f.src, oseq)) then
        (s.setCport n { s.cport n with unacked := m, retx := 0 }).endPkt st .tx
      else s.setCport n { s.cport n with unacked := m, retx := 0 }) ∧
  (∀ (s v : State) (t : Time) (n : Nat) (h : CscHdr) (i : Instr) (b : CscBody), cscCtlOf i = some (t, n, h, b) →
    b.typ ≠ 11 ∨ s.on (F.CSC_PnCFG_LOOP n) = false → s.cscTook t n h b.typ 0 0 (Config.cscOctets b) v →
    h.dst ≠ 31 → h.dst ≠ v.fabric → exec i s = .next (v.ctlOn h b).cscPump) ∧
  (∀ (s : State) (h : CscHdr) (b : CscBody) (f : CscFrame), f = { dst := h.dst, src := h.src, rer := h.rerouted, body := b } →
    (∀ m, s.primary h.dst = some m → s.ctlOn h b = s.ctlFrame m f) ∧
    (s.primary h.dst = none → h.rerouted = true ∨ s.routed h.dst = true → s.ctlOn h b = s.holdCtl f) ∧
    (s.primary h.dst = none → h.rerouted = false → s.routed h.dst = false → s.ctlOn h b = s)) ∧
  (∀ (s v : State) (t : Time) (n org : Nat) (h : CscHdr) (l : CscLsa), s.cscMine t n h (.lsa org l) v → org = v.fabric →
    exec (.cscLsa t n h org l) s = .next (if l.dev < v.devNum ∧ v.mapLocked = true ∧ v.on F.CSC_STATUS_ISOLATED = false then
      (((v.setFlag F.CSC_STATUS_ISOLATED true).fire 199).drive).cscPump else v.cscPump)) ∧
  (∀ (s v : State) (t : Time) (n org : Nat) (h : CscHdr) (l : CscLsa) (old : List Nat), s.cscMine t n h (.lsa org l) v → org ≠ v.fabric →
    v.lsaNewer org l = true → old = (if org < 16 then (v.csc.temps.filter (fun e => e.2 == l.dev)).map (fun e => e.1) else []) →
    exec (.cscLsa t n h org l) s = .next (((State.floodLsa { v with csc := { v.csc with
      lsas := (v.csc.lsas.put org l).filter (fun e => !old.contains e.1),
      temps := v.csc.temps.filter (fun e => !old.contains e.1) } } org l n).peerAddr l.dev org).cscRoutes).cscPump) ∧
  (∀ (s v : State) (t : Time) (n org : Nat) (h : CscHdr) (l : CscLsa), s.cscMine t n h (.lsa org l) v → org ≠ v.fabric →
    v.lsaNewer org l = false → exec (.cscLsa t n h org l) s = .next v.cscPump) ∧
  (∀ (s v : State) (t : Time) (n node chip : Nat) (h : CscHdr), s.cscMine t n h (.home node chip) v →
    exec (.cscHome t n h node chip) s = .next (if v.on F.CSC_STATUS_MODE then
      (State.tell { v with csc := { v.csc with homes := v.csc.homes.put node chip } } (.home node chip)).cscPump else v.cscPump)) ∧
  (∀ (s v : State) (t : Time) (n : Nat) (h : CscHdr) (ms : List LxRx), s.cscMine t n h (.learn ((ms.take 30).map LxRx.msg)) v →
    exec (.cscLearn t n h ms) s = .next (v.whenLive 1 ((ms.take 30).foldl (fun (w : State) m => w.lxIn m) v)).cscPump) ∧
  (∀ (s v w : State) (t : Time) (n t1 t2 t3 t4 refcnt : Nat) (h : CscHdr) (valid : Bool) (off : Int), s.cscMine t n h (.time t1 t4 valid) v →
    w = v.setCport n { v.cport n with timeCame := t2 } → off = (gtDiff t2 t1 - gtDiff t4 t3) / 2 →
    exec (.cscTime t n h t1 t2 t3 t4 valid refcnt) s = .next (if w.timeParent = some n then
      (w.setAnchor valid (unsigned 64 ((w.gtb.gt : Int) - off)) off refcnt).cscPump else w.cscPump)) ∧
  (∀ (s v : State) (t : Time) (n : Nat) (h : CscHdr) (x : SchedIn), s.schedTook t n h x.body v →
    exec (.cscSched t n h x) s = .next (v.schedIn h.src x).cscPump) ∧
  (∀ (s v : State) (t : Time) (n : Nat) (h : CscHdr) (cells : List Cell) (found : List Placement), s.cscMine t n h (.sched (.restore cells)) v →
    v.slvJoins = false →
    exec (.cscSched t n h ⟨.restore cells, found⟩) s = .next
      (if v.keel then v.cscPump else State.cscPump { v with csc := { v.csc with later := v.csc.later ++ cells } })) ∧
  (∀ (s v : State) (t : Time) (n : Nat) (h : CscHdr) (x : SchedIn), s.cscMine t n h (.sched x.body) v → v.slvJoins = false →
    (x.body.isRestore = false) → exec (.cscSched t n h x) s = .next v.cscPump) ∧
  (∀ (s : State) (src node : Nat) (plan : LinkPlan) (found : List Placement),
    s.schedIn src ⟨.ask node plan, found⟩ = if s.on F.SLV_STATUS_MASTER then s.answerJoin src node plan found else s) ∧
  (∀ (s : State) (src node : Nat) (plan : LinkPlan) (found : List Placement),
    (found.filter (fun p => p.node == node && s.placeOn (2 ^ 23 + src) plan p s.planned)) = [] →
    s.answerJoin src node plan found = { s with slv := { s.slv with
      master := s.slv.master.put src (s.slv.master.getD' src []), out := s.slv.out ++ [(src, .answer node none)] } }) ∧
  (∀ (s : State) (src node : Nat) (plan : LinkPlan) (p : Placement), p.node = node →
    s.placeOn (2 ^ 23 + src) plan p s.planned = true →
    s.answerJoin src node plan [p] = { s with slv := { s.slv with
      master := s.slv.master.put src (s.slv.master.getD' src [] ++ farPlanCells (src, p, plan)),
      out := s.slv.out ++ [(src, .answer node (some p))] } }) ∧
  (∀ (s : State) (src node ft : Nat) (c : SlvCmd) (place : Option Placement) (found : List Placement), s.slv.asked = some (c, ft) →
    s.schedIn src ⟨.answer node place, found⟩ = if c.node = node then s.joinAnswer 0 place else s) ∧
  (∀ (s : State) (src node : Nat) (place : Option Placement) (found : List Placement), s.slv.asked = none →
    s.schedIn src ⟨.answer node place, found⟩ = s) ∧
  (∀ (s v : State) (src : Nat) (ps found : List Placement) (last : Bool),
    v = { s with slv := { s.slv with border := s.slv.border ++ ps.filterMap s.ownPlace } } →
    s.schedIn src ⟨.border ps last, found⟩ = if last then v.placeInterior src found else v) ∧
  (∀ (s : State) (src : Nat) (ps : List (Placement × LinkPlan)) (found : List Placement) (r : SolveRun), s.slv.solve = some r →
    s.schedIn src ⟨.interior ps, found⟩ = { s with slv := { s.slv with
      solve := some { r with far := r.far ++ ps.map (fun p => (src, p.1, p.2)) } } }) ∧
  (∀ (s : State) (src : Nat) (ps : List (Placement × LinkPlan)) (found : List Placement), s.slv.solve = none →
    s.schedIn src ⟨.interior ps, found⟩ = s) ∧
  (∀ (s : State) (src : Nat) (ps found : List Placement),
    s.schedIn src ⟨.activate ps, found⟩ = (ps.filterMap s.ownPlace).foldl (fun (u : State) p => if u.cellRoom p then u.changeSet p else u)
      { s with slv := { s.slv with border := [] } }) ∧
  (∀ (s v : State) (src chip : Nat) (first done : Bool) (cells : List PlanCell) (found : List Placement),
    v = { s with slv := { s.slv with
      master := s.slv.master.put chip ((if first then [] else s.slv.master.getD' chip []) ++ cells) } } →
    (s.on F.SLV_STATUS_MASTER = true → v.copyTo = none → s.schedIn src ⟨.mirror chip first cells done, found⟩ = v) ∧
    (∀ a, v.copyTo = some a → s.on F.SLV_STATUS_MASTER = true → s.schedIn src ⟨.mirror chip first cells done, found⟩ =
      { v with slv := { v.slv with out := v.slv.out ++ [(a, .mirror chip first cells done)] } }) ∧
    (s.on F.SLV_STATUS_MASTER = false → s.fld F.CSC_STATUS_ACTROLE = 2 →
      s.schedIn src ⟨.mirror chip first cells done, found⟩ = v.setFlag F.CSC_STATUS_MIRROR done) ∧
    (s.on F.SLV_STATUS_MASTER = false → s.fld F.CSC_STATUS_ACTROLE ≠ 2 → s.schedIn src ⟨.mirror chip first cells done, found⟩ = s)) ∧
  (∀ (s v : State) (src chip records : Nat) (first : Bool) (l : List ChipNode) (found : List Placement),
    v = { s with slv := { s.slv with
      known := s.slv.known.put chip (records, (if first then [] else (s.slv.known.getD' chip (0, [])).2) ++ l) } } →
    (s.on F.SLV_STATUS_MASTER = true → v.copyTo = none → s.schedIn src ⟨.nodes chip first records l, found⟩ = v) ∧
    (∀ a, v.copyTo = some a → s.on F.SLV_STATUS_MASTER = true → s.schedIn src ⟨.nodes chip first records l, found⟩ =
      { v with slv := { v.slv with out := v.slv.out ++ [(a, .nodes chip first records l)] } }) ∧
    (s.on F.SLV_STATUS_MASTER = false → s.schedIn src ⟨.nodes chip first records l, found⟩ =
      if s.fld F.CSC_STATUS_ACTROLE = 2 then v else s)) ∧
  (∀ (s : State) (src : Nat) (cells new : List Cell) (found : List Placement),
    new = (cells.filter (fun c => !s.cellsDue.contains c)).take (131072 - s.cellsDue.length) →
    s.schedIn src ⟨.restore cells, found⟩ = if new.isEmpty then s else s.stagePatch { del := [], add := new, links := [] }) ∧
  (∀ (s v w u : State) (t : Time) (n : Nat) (h : CscHdr) (x : CscStat), s.cscMine t n h (.status x) v →
    w = { v with csc := { v.csc with peers := v.csc.peers.put h.src (v.gtb.ft, x) } } →
    u = (if w.fld F.CSC_STATUS_ACTROLE = 1 then w else w.setFld F.CSC_EPOCH_EPOCH (max x.epoch (w.fld F.CSC_EPOCH_EPOCH))) →
    (v.csc.peers.find h.src = none → ∃ r, r = ((((u.updPeer h.src (some x)).fire 202).cscRoles).homesTo h.src).restoreTo h.src ∧
      exec (.cscStatus t n h x) s = .next (if x.act = 2 then (r.mirrorTo h.src).cscPump else r.cscPump)) ∧
    (∀ y, v.csc.peers.find h.src = some y → exec (.cscStatus t n h x) s = .next
      (if x.act = 2 ∧ y.2.act ≠ 2 then ((u.updPeer h.src (some x)).cscRoles.mirrorTo h.src).cscPump
        else (u.updPeer h.src (some x)).cscRoles.cscPump))) ∧
  (∀ (s : State) (chip : Nat) (cells : List Cell), s.fld F.CSC_STATUS_ACTROLE = 1 → s.on F.CSC_STATUS_MODE = true →
    cells = ((s.slv.master.getD' chip []).filter (fun x => x.node.isSome)).map (fun x => x.cell) → cells ≠ [] →
    s.restoreTo chip = { s with slv := { s.slv with
      out := s.slv.out ++ (pieces 126 cells cells.length).map (fun c => (chip, .restore c)) } }) ∧
  (∀ (s : State) (chip : Nat), s.on F.SLV_STATUS_MASTER = true →
    s.mirrorTo chip = { s with slv := { s.slv with out := s.slv.out ++
      (s.slv.known.flatMap (fun e => nodeFrames e.1 e.2.1 e.2.2) ++ s.slv.master.flatMap (fun e => mirrorFrames e.1 e.2 false) ++
        mirrorFrames (s.fld F.CSC_CFG_CHIPID) s.ownPlanned true).map (fun x => (chip, x)) } }) ∧
  (∀ (s : State) (k : Nat) (x : CscStat), k < 16 →
    (s.updPeer k (some x)).fld F.UPD_PEERSTAT_ST / 4 ^ k % 4 = (if x.upd = 6 ∨ x.upd = 7 then 3 else if x.gen.isSome then 2 else 1) ∧
    (s.updPeer k (some x)).reg (Reg.UPD_PEERGENk k) = BitVec.ofNat 32 (x.gen.getD 0) ∧
    s.regsBut (s.updPeer k (some x)) [F.UPD_PEERSTAT_ST.reg, Reg.UPD_PEERGENk k])

/-- Temporary addresses (R370): who assigns them, which are assigned, how they are told and how one lapses. The periodic LSA, TIME and
STATUS frames and the homes sent (R371, R376 to R378); how a control frame is put on a port or waits there (R366 to R368); presence,
role rules, the loss of quorum and the listening after a start (R376, R379, R380); held packets (R372); the commands HANDBACK, ECHO and
FLOOD_LSA with their outcomes (R381, R384).
The model's own choices in it: log entries 81, 82, 142, 145.
Completes: cscAddr, tempAddrLapse, lsaPeriodic, timePeriodic, statusPeriodic, presenceTimeout, quorumLossTimeout, startListenEnd,
rerouteHoldExpire, cscHandback, cscEcho, cscEchoFrame, echoTimeout, cscFloodLsa. -/
def Obligations.CscRolesAndCommands : Prop :=
  (∀ (s v : State) (t : Time) (n dev a : Nat) (h : CscHdr), s.cscMine t n h (.addr (.assign dev a)) v →
    (if dev = v.devNum then v.mapLocked = true else v.csc.temps.find a = some dev) →
    exec (.cscAddr t n h (.assign dev a)) s = .next v.cscPump) ∧
  (∀ (s v : State) (t : Time) (n dev a : Nat) (h : CscHdr), s.cscMine t n h (.addr (.assign dev a)) v → dev ≠ v.devNum →
    v.csc.temps.find a ≠ some dev →
    exec (.cscAddr t n h (.assign dev a)) s = .next (((State.addrOn { v with csc := { v.csc with
      temps := Tab.put (v.csc.temps.filter (fun e => e.2 != dev)) a dev,
      asks := v.csc.asks.filter (fun d => d != dev) } } n (.assign dev a)).peerAddr dev a).cscRoutes).cscPump) ∧
  (∀ (s v : State) (t : Time) (n dev a : Nat) (h : CscHdr), s.cscMine t n h (.addr (.assign dev a)) v → dev = v.devNum →
    v.mapLocked = false →
    exec (.cscAddr t n h (.assign dev a)) s = .next ((((v.setFld F.CSC_STATUS_ADDR a).ownLsa).cscRoutes).cscPump)) ∧
  (∀ (s v : State) (t : Time) (n dev : Nat) (h : CscHdr), s.cscMine t n h (.addr (.request dev)) v →
    dev = v.devNum ∨ v.assigner dev = false ∧ v.csc.asks.contains dev = true →
    exec (.cscAddr t n h (.request dev)) s = .next v.cscPump) ∧
  (∀ (s v : State) (t : Time) (n dev : Nat) (h : CscHdr), s.cscMine t n h (.addr (.request dev)) v → dev ≠ v.devNum →
    v.assigner dev = false → v.csc.asks.contains dev = false →
    exec (.cscAddr t n h (.request dev)) s = .next
      (State.addrOn { v with csc := { v.csc with asks := v.csc.asks ++ [dev] } } n (.request dev)).cscPump) ∧
  (∀ (s v : State) (t : Time) (n dev : Nat) (h : CscHdr), s.cscMine t n h (.addr (.request dev)) v → dev ≠ v.devNum →
    v.assigner dev = true →
    exec (.cscAddr t n h (.request dev)) s = .next ((if v.mapLocked then v.assignFree dev else v.assignRanks dev).cscRoutes).cscPump) ∧
  (∀ (s : State) (dev a : Nat), s.csc.temps = [(a, dev)] → s.assignFree dev = s.assignAddr dev a) ∧
  (∀ (s : State) (dev k : Nat), (∀ e ∈ s.csc.temps, e.2 ≠ dev) → k < 15 → s.csc.temps.find (16 + k) = none →
    bit (s.reg Reg.CSC_REACH).toNat (16 + k) = false →
    (∀ j, j < k → (s.csc.temps.find (16 + j)).isSome = true ∨ bit (s.reg Reg.CSC_REACH).toNat (16 + j) = true) →
    s.assignFree dev = s.assignAddr dev (16 + k)) ∧
  (∀ (s : State) (dev a : Nat), s.assignAddr dev a =
    (State.addrOn { s with csc := { s.csc with temps := Tab.put (s.csc.temps.filter (fun e => e.2 != dev)) a dev } } 4
      (.assign dev a)).peerAddr dev a) ∧
  (∀ (s : State) (dev k d : Nat), k < 15 → (s.askers dev)[k]? = some d →
    (s.assignRanks dev).fabric = 16 ∧ (s.assignRanks dev).csc.temps.find (16 + k) = some d) ∧
  (∀ (s : State) (a : Nat), s.csc.gone.find a = none → exec (.tempAddrLapse a) s = .next s) ∧
  (∀ (s : State) (a since : Nat), s.csc.gone.find a = some since → s.gtb.ft < since + 5000 → exec (.tempAddrLapse a) s = .next s) ∧
  (∀ (s v : State) (a since : Nat), s.csc.gone.find a = some since → since + 5000 ≤ s.gtb.ft →
    v = { s with csc := { s.csc with temps := s.csc.temps.del a, gone := s.csc.gone.del a, lsas := s.csc.lsas.del a } } →
    exec (.tempAddrLapse a) s = .next (if s.fabric = a ∧ s.mapLocked = false then (v.setFld F.CSC_STATUS_ADDR 31).cscRoutes else v)) ∧
  (∀ (s : State) (t : Time), s.domReady 19 = true → exec (.lsaPeriodic t) s = .next (s.at t).ownLsa) ∧
  (∀ s : State, s.upLinks = [] → s.ownLsa = { s with csc := { s.csc with lsaSeq := s.csc.lsaSeq + 1 } }) ∧
  (∀ (s : State) (t : Time), s.domReady 19 = true →
    exec (.timePeriodic t) s = .next ((s.at t).upLinks.foldl (fun (u : State) x =>
      u.ctlSend x.1 31 u.fabric (.time u.gtb.gt (u.cport x.1).timeCame u.anchorIsValid)) (s.at t))) ∧
  (∀ (s u v : State) (t : Time), s.domReady 19 = true →
    u = (List.range 31).foldl (fun (u : State) d => match u.primary d with
      | some n => u.ctlSend n d u.fabric (.status (s.at t).ownStat)
      | none => u) (s.at t).restoreLater →
    v = (if u.domReady 15 then u.tellNodes else u) →
    exec (.statusPeriodic t) s = .next (((v.learnOut 35).schedOut).homesOut).cscPump) ∧
  (∀ s : State, s.fld F.CSC_STATUS_ACTROLE ≠ 1 ∨ s.on F.CSC_STATUS_MODE = false → s.homesOut = s) ∧
  (∀ (s : State) (node : Nat), (s.sendHome node).csc.homes.find node = some (s.homeOf node)) ∧
  (∀ (s : State) (node : Nat) (d : DemRec), s.fld F.CSC_CFG_ROLE ≠ 0 → s.slv.dem.find node = some d → d.auto = false →
    s.homeOf node = d.home) ∧
  (∀ (s : State) (node chip : Nat) (d : DemRec), s.slv.dem.find node = some d → d.auto = true → s.isMember = true →
    s.csc.homes.find node = some chip → s.homeOf node = chip) ∧
  (∀ (s : State) (t : Time) (i : Instr), s.domReady 19 = false → i ∈ [Instr.lsaPeriodic t, .statusPeriodic t, .timePeriodic t, .startListenEnd t] →
    exec i s = .next (s.at t)) ∧
  (∀ (s : State) (n dst src : Nat) (b : CscBody) (g : CscFrame), s.portUp n = true → s.on F.CSC_STATUS_ISOLATED = false →
    src ≠ 31 ∨ b.typ = 10 → n < 4 → s.csc.ports.length = 4 → (s.cport n).ctlQ = [] → (s.cport n).unacked.length < 4096 →
    g = { lseq := (s.cport n).txSeq, dst := dst, src := src, body := b, pay := s.bodyOctets b } →
    (0 < s.ctlAvail n → (s.ctlSend n dst src b).cport n = { s.cport n with
        ctlSent := ((s.cport n).ctlSent + 1) % 2 ^ 32, txSeq := ((s.cport n).txSeq + 1) % 65536,
        txCount := (s.cport n).txCount + 1, ackTold := (s.cport n).rxSeq,
        unacked := (s.cport n).unacked ++ [{ g with octets := s.frameOctets n g }] } ∧
      (s.ctlSend n dst src b).ctr (Ctr.CSC_PnTXFRM n) = (s.ctr (Ctr.CSC_PnTXFRM n) + 1) % 2 ^ 48) ∧
    (s.ctlAvail n = 0 → s.ctlSend n dst src b = s.setCport n { s.cport n with ctlQ := [{ dst := dst, src := src, body := b }] })) ∧
  (∀ (s : State) (n dst src : Nat) (b : CscBody), s.portUp n = false ∨ s.on F.CSC_STATUS_ISOLATED = true ∨ src = 31 ∧ b.typ ≠ 10 →
    s.ctlSend n dst src b = s) ∧
  (∀ (s : State) (t : Time) (k : Nat), s.csc.peers.find k = none → exec (.presenceTimeout t k) s = .next (s.at t)) ∧
  (∀ (s : State) (t : Time) (k last : Nat) (x : CscStat), s.csc.peers.find k = some (last, x) → t.ft < last + 5000 →
    exec (.presenceTimeout t k) s = .next (s.at t)) ∧
  (∀ (s : State) (t : Time) (k last : Nat) (x : CscStat), s.csc.peers.find k = some (last, x) → last + 5000 ≤ t.ft →
    exec (.presenceTimeout t k) s = .next ((((State.updPeer { s.at t with csc := { s.csc with peers := s.csc.peers.del k } } k none).fire
      202).cscRoles))) ∧
  (∀ s : State, s.fld F.CSC_CFG_ROLE = 0 ∨ s.mapLocked = false → s.cscRoles = s) ∧
  (∀ s : State, s.bestAnchor = none →
    s.roleRules = if s.quorum = true ∧ s.csc.listening = false ∧
        (s.fld F.CSC_STATUS_ACTROLE = 2 ∨ s.fld F.CSC_STATUS_ACTROLE ≠ 1 ∧ s.fld F.CSC_CFG_ROLE = 1) then
      s.becomeAnchor (s.fld F.CSC_STATUS_ACTROLE == 2) else s) ∧
  (∀ (s : State) (a e : Nat), s.bestAnchor = some (a, e) → s.fld F.CSC_STATUS_ACTROLE ≠ 1 →
    s.roleRules = (s.setFld F.CSC_EPOCH_EPOCH (max e (s.fld F.CSC_EPOCH_EPOCH))).setRole
      (if s.fld F.CSC_CFG_ROLE = 1 ∨ s.fld F.CSC_CFG_ROLE = 2 then 2 else 3)) ∧
  (∀ (s v : State) (a e : Nat), s.bestAnchor = some (a, e) → s.fld F.CSC_STATUS_ACTROLE = 1 →
    v = s.solveAbort.setFlag F.SLV_STATUS_MASTER false →
    s.roleRules = if s.fld F.CSC_EPOCH_EPOCH < e ∨ s.fld F.CSC_EPOCH_EPOCH = e ∧ a < s.fabric then
      (v.setRole (if v.on F.CSC_STATUS_MIRROR then 2 else 3)).setFld F.CSC_EPOCH_EPOCH e else s) ∧
  (∀ (s : State) (t : Time), s.csc.noQuorum = none → exec (.quorumLossTimeout t) s = .next (s.at t)) ∧
  (∀ (s : State) (t : Time) (since : Nat), s.csc.noQuorum = some since →
    s.fld F.CSC_STATUS_ACTROLE ≠ 1 ∨ t.ft < since + 5000 ∨ s.quorum = true → exec (.quorumLossTimeout t) s = .next (s.at t)) ∧
  (∀ (s u : State) (t : Time) (since : Nat), s.csc.noQuorum = some since → s.fld F.CSC_STATUS_ACTROLE = 1 → since + 5000 ≤ t.ft →
    s.quorum = false → u = (s.at t).solveAbort.setRole 0 →
    exec (.quorumLossTimeout t) s = .next (State.cscRoles { u with csc := { u.csc with noQuorum := none } })) ∧
  (∀ (s : State) (r : Nat), s.fld F.CSC_STATUS_ACTROLE ≠ r → r < 4 → (s.setRole r).fld F.CSC_STATUS_ACTROLE = r ∧
    (s.setRole r).ctr Ctr.CSC_TAKEOVER = (s.ctr Ctr.CSC_TAKEOVER + 1) % 2 ^ 48 ∧ (s.sysOn → (s.setRole r).isPend 197 = true) ∧
    s.regsEvt (s.setRole r) (Reg.CSC_STATUS :: halves Ctr.CSC_TAKEOVER)) ∧
  (∀ (s : State) (t : Time), s.domReady 19 = true →
    exec (.startListenEnd t) s = .next (State.cscRoles { s.at t with csc := { s.csc with listening := false } })) ∧
  (∀ (s v : State) (t : Time) (p : Nat), s.csc.held.any (fun (x : Nat × Nat) => x.1 == p && Nat.ble x.2 t.ft) = true →
    v = { s.at t with csc := { s.csc with
      heldCtl := s.csc.heldCtl.filter (fun x => Nat.blt t.ft x.2), held := s.csc.held.filter (fun (x : Nat × Nat) => x.1 != p) } } →
    (s.qmg.pkts.find p = none → exec (.rerouteHoldExpire t p) s = .next (v.cscNoRoute p)) ∧
    (∀ x, s.qmg.pkts.find p = some x → v.primary x.info.chip = none → exec (.rerouteHoldExpire t p) s = .next (v.cscNoRoute p)) ∧
    (∀ x, s.qmg.pkts.find p = some x → ∀ n, v.primary x.info.chip = some n →
      exec (.rerouteHoldExpire t p) s = .next (v.toPort n p).cscPump)) ∧
  (∀ (s : State) (t : Time) (p : Nat), s.csc.held.any (fun (x : Nat × Nat) => x.1 == p && Nat.ble x.2 t.ft) = false →
    exec (.rerouteHoldExpire t p) s = .next { s.at t with csc := { s.csc with
      heldCtl := s.csc.heldCtl.filter (fun x => Nat.blt t.ft x.2) } }) ∧
  (∀ (s v : State) (rq : Req) (addr tag : Nat), s.cscCmdTook rq 1 addr tag v → v.fld F.CSC_CFG_ROLE = 1 → v.fld F.CSC_STATUS_ACTROLE = 2 →
    v.mirrorOk = true → v.quorum = true →
    exec (.cscHandback rq addr tag) s = .next (((v.becomeAnchor false).cscRoles).cscDone (tag % 256) 0 0)) ∧
  (∀ (s v : State) (rq : Req) (addr tag : Nat), s.cscCmdTook rq 1 addr tag v → v.fld F.CSC_CFG_ROLE ≠ 1 ∨ v.fld F.CSC_STATUS_ACTROLE ≠ 2 ∨
      v.mirrorOk = false ∨ v.quorum = false →
    ∃ u, exec (.cscHandback rq addr tag) s = .next u ∧ u.cscEnded tag 1 0 ∧ v.regsEvt u [Reg.CSC_CMDSTAT] ∧
      u = { v with regs := u.regs, evt := u.evt }) ∧
  (∀ (s u : State) (b : Bool), s.slv.dem = [] → s.fld F.CSC_STATUS_ACTROLE ≠ 1 → u = s.becomeAnchor b →
    u.fld F.CSC_STATUS_ACTROLE = 1 ∧ u.on F.SLV_STATUS_MASTER = true ∧
    u.fld F.CSC_EPOCH_EPOCH = (s.fld F.CSC_EPOCH_EPOCH + 1) % 2 ^ F.CSC_EPOCH_EPOCH.w ∧ (s.sysOn → u.isPend 197 = true) ∧
    u.slv.cmds.length = s.slv.cmds.length + (if b = true ∧ s.domReady 15 = true ∧ s.slv.cmds.length < 16 then 1 else 0)) ∧
  (∀ (s v : State) (rq : Req) (addr tag : Nat), s.cscCmdTook rq 2 addr tag v → v.primary (addr % 32) = none →
    v.fabric ≠ addr % 32 ∨ (∀ n ∈ List.range 4, v.on (F.CSC_PnCFG_LOOP n) = false) →
    ∃ u, exec (.cscEcho rq addr tag) s = .next u ∧ u.cscEnded tag 2 0 ∧ v.regsEvt u [Reg.CSC_CMDSTAT] ∧
      u = { v with regs := u.regs, evt := u.evt }) ∧
  (∀ (s v : State) (rq : Req) (addr tag n : Nat), s.cscCmdTook rq 2 addr tag v → v.primary (addr % 32) = some n →
    exec (.cscEcho rq addr tag) s = .next
      ((State.setFlag { v with csc := { v.csc with echo := some (addr % 32, tag % 256) } } F.CSC_CMDSTAT_BUSY true).ctlSend n (addr % 32)
        v.fabric (.echo false (tag % 256)))) ∧
  (∀ (s v : State) (rq : Req) (addr tag n : Nat), s.cscCmdTook rq 2 addr tag v → v.primary (addr % 32) = none → v.fabric = addr % 32 →
    n < 4 → v.on (F.CSC_PnCFG_LOOP n) = true →
    exec (.cscEcho rq addr tag) s = .next
      (State.setFlag { v with csc := { v.csc with echo := some (addr % 32, tag % 256) } } F.CSC_CMDSTAT_BUSY true)) ∧
  (∀ (s : State) (t : Time) (n tag rtt : Nat) (h : CscHdr) (b : Bool), s.domReady 19 = true → s.on (F.CSC_PnCFG_LOOP n) = true →
    exec (.cscEchoFrame t n h b tag rtt) s = .next ((s.at t).echoReply tag rtt)) ∧
  (∀ (s v : State) (t : Time) (n tag rtt : Nat) (h : CscHdr), s.cscMine t n h (.echo true tag) v → s.on (F.CSC_PnCFG_LOOP n) = false →
    exec (.cscEchoFrame t n h true tag rtt) s = .next (v.echoReply tag rtt).cscPump) ∧
  (∀ (s : State) (tag rtt a : Nat), tag < 256 → s.csc.echo = some (a, tag) →
    ∃ u, u = s.echoReply tag rtt ∧ u.cscEnded tag 0 rtt ∧ s.regsEvt u [Reg.CSC_CMDSTAT] ∧
      u = { s with regs := u.regs, evt := u.evt, csc := { s.csc with echo := none } }) ∧
  (∀ (s : State) (tag rtt : Nat), s.csc.echo.all (fun x => x.2 != tag) = true → s.echoReply tag rtt = s) ∧
  (∀ (s v : State) (t : Time) (n tag rtt : Nat) (h : CscHdr), s.cscMine t n h (.echo false tag) v → s.on (F.CSC_PnCFG_LOOP n) = false →
    (v.primary h.src = none → exec (.cscEchoFrame t n h false tag rtt) s = .next (v.ctlSend n 31 v.fabric (.echo true tag)).cscPump) ∧
    (∀ m, v.primary h.src = some m →
      exec (.cscEchoFrame t n h false tag rtt) s = .next (v.ctlSend m h.src v.fabric (.echo true tag)).cscPump)) ∧
  (∀ (s : State) (a tag : Nat), tag < 256 → s.csc.echo = some (a, tag) →
    ∃ u, exec .echoTimeout s = .next u ∧ u.cscEnded tag 3 0 ∧ s.regsEvt u [Reg.CSC_CMDSTAT] ∧
      u = { s with regs := u.regs, evt := u.evt, csc := { s.csc with echo := none } }) ∧
  (∀ s : State, s.csc.echo = none → exec .echoTimeout s = .next s) ∧
  (∀ (s v : State) (rq : Req) (addr tag : Nat), s.cscCmdTook rq 3 addr tag v →
    exec (.cscFloodLsa rq addr tag) s = .next (v.ownLsa.cscDone (tag % 256) 0 0)) ∧
  (∀ (s v : State) (rq : Req) (op addr tag : Nat) (i : Instr),
    (op, i) ∈ [(1, Instr.cscHandback rq addr tag), (2, .cscEcho rq addr tag), (3, .cscFloodLsa rq addr tag)] →
    s.barred rq Reg.CSC_CMD (some (cscWord op addr tag)) = none → v = s.took rq Reg.CSC_CMD (cscWord op addr tag) →
    v.on F.CSC_CMDSTAT_BUSY = true → exec i s = .next v) ∧
  (∀ (s : State) (rq : Req) (op addr tag : Nat) (i : Instr) (x : AccCause),
    (op, i) ∈ [(1, Instr.cscHandback rq addr tag), (2, .cscEcho rq addr tag), (3, .cscFloodLsa rq addr tag)] →
    s.barred rq Reg.CSC_CMD (some (cscWord op addr tag)) = some x → exec i s = .next ((s.recordFault rq x true Reg.CSC_CMD 15).respond [] false))

/-! ### LGC (chapter 22) -/

/-- The I3 instances (R437 to R450). An SPI error; an instance that is not on does nothing, and every transaction of one that is on answers
INTSTAT first; writes of the emulated file, RUN, the soft reset, INTSTAT, the interrupt line; the receive and transmit FIFOs and the
link commands, which raise TXERR where they are wrong; slot boundaries; a received frame is acknowledged, not matched, out of its link,
without room, or accepted, shown at its moment and acknowledged; the frame in front of the queue goes out over a link of the slot, is
deferred or counts an attempt, and ends at its ACK or after MAXRETRY.
The model's own choices in it: log entries 34, 83, 84, 85, 86, 148.
Completes: lspiError, lspiWrite, i3RunStart, i3RunStop, i3SoftReset, intstatRead, rxfifoRead, txfifoWrite, linkWrite, linkRead,
linkClear, linkClearAll, i3SlotBoundary, i3FrameReceive, i3Rxdone, i3TxSelect, i3AckTimeout. -/
def Obligations.I3Instances : Prop :=
  (∀ (s : State) (p : Nat), s.lgcOn p = true →
    ∃ u, exec (.lspiError p) s = .next u ∧ u.ctr (Ctr.LGC_SPIERR p) = (s.ctr (Ctr.LGC_SPIERR p) + 1) % 2 ^ 48 ∧
      (s.sysOn → u.isPend 236 = true) ∧ s.regsEvt u (halves (Ctr.LGC_SPIERR p)) ∧ u = { s with regs := u.regs, evt := u.evt }) ∧
  (∀ (s : State) (p : Nat), s.lgcOn p = false → exec (.lspiError p) s = .next s) ∧
  (∀ (s : State) (t : Time) (p a : Nat) (data : List Octet) (b c : Bool) (n : Nat) (i : Instr), s.lgcOn p = false →
    i ∈ [Instr.lspiWrite t p a data, .i3RunStart t p b c, .i3RunStop t p b c, .i3SoftReset t p, .intstatRead t p, .rxfifoRead t p n,
      .txfifoWrite t p data, .linkWrite t p, .linkRead t p, .linkClear t p, .linkClearAll t p, .i3SlotBoundary t p, .i3Rxdone t p,
      .i3TxSelect t p, .i3AckTimeout t p] → exec i s = .next (s.at t)) ∧
  (∀ (s : State) (t : Time) (p a : Nat) (v : Octet), s.lgcOn p = true → (5 ≤ a ∧ a ≤ 0x17) ∨ (0x24 ≤ a ∧ a ≤ 0x2E) → a ≠ 0x2C →
    exec (.lspiWrite t p a [v]) s = .next (((s.at t).setI3 p ((s.i3 p).keep a v.toNat)).respond (leOctets 1 (s.i3 p).intstat) true)) ∧
  (∀ (s : State) (t : Time) (p a : Nat) (v : Octet), s.lgcOn p = true → a ≤ 1 ∨ a = 3 ∨ (0x18 ≤ a ∧ a ≤ 0x20) ∨ (0x22 ≤ a ∧ a ≤ 0x23) ∨
      (0x2F ≤ a ∧ a ≤ 0x7F) → exec (.lspiWrite t p a [v]) s = .next ((s.at t).respond (leOctets 1 (s.i3 p).intstat) true)) ∧
  (∀ (s : State) (t : Time) (p : Nat) (v : Octet), s.lgcOn p = true →
    exec (.lspiWrite t p 2 [v]) s = .next ((if bit v.toNat 1 then (s.at t).i3Reset p else (s.at t).ctrlWrite p v.toNat).respond (leOctets 1 (s.i3 p).intstat) true)) ∧
  (∀ (s : State) (t : Time) (p : Nat) (v : Octet), s.lgcOn p = true →
    exec (.lspiWrite t p 4 [v]) s = .next ((((s.at t).setI3 p ((s.i3 p).keep 4 (v.toNat % 64))).i3Line p).respond (leOctets 1 (s.i3 p).intstat) true)) ∧
  (∀ (s : State) (t : Time) (p : Nat) (v : Octet), s.lgcOn p = true →
    exec (.lspiWrite t p 0x2C [v]) s = .next (((s.at t).linkCmd p v.toNat).respond (leOctets 1 (s.i3 p).intstat) true)) ∧
  (∀ (s : State) (t : Time) (p : Nat) (l : List Octet), s.lgcOn p = true → l ≠ [] →
    exec (.lspiWrite t p 0x21 l) s = .next (((s.at t).txEntry p l).respond (leOctets 1 (s.i3 p).intstat) true)) ∧
  (∀ (s : State) (t : Time) (p a : Nat) (v w : Octet) (l : List Octet), s.lgcOn p = true → (5 ≤ a ∧ a ≤ 0x16) →
    exec (.lspiWrite t p a (v :: w :: l)) s = .next
      ((((s.at t).setI3 p ((s.i3 p).keep a v.toNat)).spiWrite p (a + 1) (w :: l)).respond (leOctets 1 (s.i3 p).intstat) true)) ∧
  (∀ (x : I3) (a b v : Nat), (x.keep a v).oct a = v % 256 ∧ (b ≠ a → (x.keep a v).oct b = x.oct b)) ∧
  (∀ (s : State) (t : Time) (p : Nat) (b : Bool), s.lgcOn p = true →
    exec (.i3RunStart t p false b) s = .next (((s.at t).setI3 p { (s.i3 p).keep 2 (1 + 8 * b2n b) with
      next := some (t.ft + 10000), first := t.ft + 10000, asn := 0, low := false }).respond (leOctets 1 (s.i3 p).intstat) true)) ∧
  (∀ (s : State) (t : Time) (p : Nat) (b : Bool), s.lgcOn p = true →
    exec (.i3RunStop t p false b) s = .next
      (((s.at t).setI3 p { (s.i3 p).keep 2 (8 * b2n b) with next := none, low := false }).respond (leOctets 1 (s.i3 p).intstat) true)) ∧
  (∀ (s : State) (t : Time) (p : Nat) (b : Bool), s.lgcOn p = true →
    exec (.i3RunStop t p true b) s = .next
      ((((s.at t).setI3 p { (s.i3 p).keep 2 (4 + 8 * b2n b) with next := none }).i3Line p).respond (leOctets 1 (s.i3 p).intstat) true)) ∧
  (∀ (s : State) (t : Time) (p : Nat) (b : Bool), s.lgcOn p = true →
    exec (.i3RunStart t p true b) s = .next ((((s.at t).setI3 p { (s.i3 p).keep 2 (5 + 8 * b2n b) with
      next := some (t.ft + 10000), first := t.ft + 10000, asn := 0 }).i3Line p).respond (leOctets 1 (s.i3 p).intstat) true)) ∧
  (∀ (s : State) (t : Time) (p : Nat), s.lgcOn p = true →
    exec (.i3SoftReset t p) s = .next (((((s.at t).i3Off p).i3Init p).fire 237).respond (leOctets 1 (s.i3 p).intstat) true)) ∧
  (∀ (s : State) (t : Time) (p : Nat), s.lgcOn p = true → s.lgc.inst.length = 4 → (s.i3 p).rx = [] → (s.i3 p).tx = [] → s.qmg.pkts = [] →
      (s.i3 p).init = [] →
    ∃ u, exec (.i3SoftReset t p) s = .next u ∧ u.i3 p = {} ∧ (∀ q, q ≠ p → u.i3 q = s.i3 q) ∧ (s.sysOn → u.isPend 237 = true)) ∧
  (∀ (s : State) (t : Time) (p : Nat), s.lgcOn p = true →
    ∃ u, exec (.intstatRead t p) s = .next u ∧ u.evt.resp = { data := leOctets 1 (s.i3 p).intstat ++ leOctets 1 (s.i3 p).intstat, ok := true } ∧
      u = { (s.at t).setI3 p { s.i3 p with intstat := 0, low := false } with evt := { s.evt with resp := u.evt.resp } }) ∧
  (∀ (s : State) (p i : Nat), p < 4 → s.lgc.inst.length = 4 → i < 8 → (s.i3 p).intstat < 256 →
    bit ((s.i3Int p i).i3 p).intstat i = true ∧ ((s.i3Int p i).i3 p).asn = (s.i3 p).asn) ∧
  (∀ (s : State) (p i : Nat), p < 4 → s.lgc.inst.length = 4 → i < 8 → s.sysOn → (s.i3 p).ctrl 2 = true → bit ((s.i3 p).oct 4) i = true →
    (s.i3 p).low = false → ((s.i3Int p i).i3 p).low = true ∧ ((s.i3Int p i).i3 p).irqtime = s.gtb.ft % 2 ^ 28 ∧
      (s.i3Int p i).isPend (228 + p) = true) ∧
  (∀ (s : State) (t : Time) (p n : Nat), s.lgcOn p = true → (s.i3 p).rx = [] →
    exec (.rxfifoRead t p n) s = .next ((s.at t).respond (leOctets 1 (s.i3 p).intstat ++ List.replicate n 0) true)) ∧
  (∀ (s : State) (t : Time) (p : Nat), s.lgcOn p = true → exec (.rxfifoRead t p 0) s = .next ((s.at t).respond (leOctets 1 (s.i3 p).intstat) true)) ∧
  (∀ (s : State) (t : Time) (p n st : Nat) (l : List Nat) (x : Pkt), s.lgcOn p = true → (s.i3 p).rx = st :: l → s.qmg.pkts.find st = some x →
    n ≠ 0 →
    ∃ u, exec (.rxfifoRead t p n) s = .next u ∧
      u.evt.resp = { data := leOctets 1 (s.i3 p).intstat ++ x.data.take n ++ List.replicate (n - x.data.length) 0, ok := true } ∧
      u.lgc = ((s.at t).setI3 p { s.i3 p with rx := l }).lgc ∧ u.qmg.pkts = s.qmg.pkts.del st ∧
      u.ctr Ctr.QMG_DELIV = (s.ctr Ctr.QMG_DELIV + 1) % 2 ^ 48) ∧
  (∀ (s : State) (t : Time) (p : Nat) (e : List Octet), s.lgcOn p = true →
    (e.headD 0).toNat < 5 ∨ 127 < (e.headD 0).toNat ∨ e.length ≠ (e.headD 0).toNat ∨ 16 ≤ s.i3Queued p →
    exec (.txfifoWrite t p e) s = .next (((s.at t).i3Int p 5).respond (leOctets 1 (s.i3 p).intstat) true)) ∧
  (∀ (s : State) (t : Time) (p : Nat) (e : List Octet), s.lgcOn p = true → 5 ≤ e.length → e.length ≤ 127 →
    (e.headD 0).toNat = e.length → s.i3Queued p < 16 → ((s.at t).commitAt 10 0).admits 2 1 = true →
    ∃ r, r = (s.at t).acceptPkt 2 1 e (.hw 22 p) { kind := 2, port := p } ∧ ∃ st, r.1 = some st ∧
      exec (.txfifoWrite t p e) s = .next ((r.2.pushPkt (65616 + p) (.hw 22 p) st).respond (leOctets 1 (s.i3 p).intstat) true)) ∧
  (∀ (s : State) (t : Time) (p : Nat) (e : List Octet), s.lgcOn p = true → 5 ≤ e.length → e.length ≤ 127 →
    (e.headD 0).toNat = e.length → s.i3Queued p < 16 → ((s.at t).commitAt 10 0).admits 2 1 = false →
    exec (.txfifoWrite t p e) s = .next ((((s.at t).acceptPkt 2 1 e (.hw 22 p) { kind := 2, port := p }).2.i3Int p 5).respond (leOctets 1 (s.i3 p).intstat) true)) ∧
  (∀ (s : State) (t : Time) (p : Nat), s.lgcOn p = true → (s.i3 p).word 0x24 ≤ 2047 →
    (s.i3 p).linkData.slot < (s.i3 p).word 0x2D → (s.i3 p).linkData.chofs ≤ 15 → (s.i3 p).linkData.typ < 8 →
    exec (.linkWrite t p) s = .next (((s.at t).setI3 p { s.i3 p with
      links := (s.i3 p).links.put ((s.i3 p).word 0x24) (s.i3 p).linkData }).respond (leOctets 1 (s.i3 p).intstat) true)) ∧
  (∀ (s : State) (t : Time) (p : Nat), s.lgcOn p = true → (s.i3 p).word 0x24 ≤ 2047 →
    (s.i3 p).word 0x2D ≤ (s.i3 p).linkData.slot ∨ 15 < (s.i3 p).linkData.chofs ∨ 8 ≤ (s.i3 p).linkData.typ →
    exec (.linkWrite t p) s = .next (((s.at t).i3Int p 5).respond (leOctets 1 (s.i3 p).intstat) true)) ∧
  (∀ (s : State) (t : Time) (p : Nat) (l : I3Link), s.lgcOn p = true → (s.i3 p).word 0x24 ≤ 2047 →
    l = ((s.i3 p).links.find ((s.i3 p).word 0x24)).getD ⟨0, 0, 0, 0⟩ →
    exec (.linkRead t p) s = .next (((s.at t).setI3 p
      ((s.i3 p).keepAll 0x26 [l.slot, l.slot / 256, l.chofs, l.typ, l.node, l.node / 256])).respond (leOctets 1 (s.i3 p).intstat) true)) ∧
  (∀ (s : State) (t : Time) (p : Nat), s.lgcOn p = true → (s.i3 p).word 0x24 ≤ 2047 →
    exec (.linkClear t p) s = .next
      (((s.at t).setI3 p { s.i3 p with links := (s.i3 p).links.del ((s.i3 p).word 0x24) }).respond (leOctets 1 (s.i3 p).intstat) true)) ∧
  (∀ (s : State) (t : Time) (p : Nat) (i : Instr), s.lgcOn p = true → 2047 < (s.i3 p).word 0x24 →
    i ∈ [Instr.linkWrite t p, .linkRead t p, .linkClear t p] → exec i s = .next (((s.at t).i3Int p 5).respond (leOctets 1 (s.i3 p).intstat) true)) ∧
  (∀ (s : State) (t : Time) (p : Nat), s.lgcOn p = true →
    exec (.linkClearAll t p) s = .next (((s.at t).setI3 p { s.i3 p with links := [] }).respond (leOctets 1 (s.i3 p).intstat) true)) ∧
  (∀ (s : State) (p v : Nat), v = 0 ∨ 4 < v → s.linkCmd p v = s) ∧
  (∀ (s : State) (t : Time) (p : Nat), s.lgcOn p = true → (s.i3 p).next = none → exec (.i3SlotBoundary t p) s = .next (s.at t)) ∧
  (∀ (s : State) (t : Time) (p b : Nat), s.lgcOn p = true → (s.i3 p).next = some b → t.ft < b →
    exec (.i3SlotBoundary t p) s = .next (s.at t)) ∧
  (∀ (s : State) (t : Time) (p b : Nat), s.lgcOn p = true → (s.i3 p).next = some b → b ≤ t.ft → (s.i3 p).word 0x11 ≠ 0 →
    exec (.i3SlotBoundary t p) s = .next (((s.at t).setI3 p { s.i3 p with
      asn := ((s.i3 p).asn + 1) % 2 ^ 32, bnd := b, next := some (b + 10000) }).i3Int p 3)) ∧
  (∀ (s : State) (t : Time) (first : Nat), s.i3inbox = [] → exec (.i3FrameReceive t first) s = .next (s.at t)) ∧
  (∀ (s : State) (t : Time) (first : Nat) (f : RxFrame) (l : List RxFrame), s.i3inbox = f :: l → s.domReady 20 = true →
    s.i3Acked (i3Hdr f.payload) first = none → (∀ p < 4, (s.i3 p).wants (i3Hdr f.payload) = false) →
    ∃ u, exec (.i3FrameReceive t first) s = .next u ∧ u.ctr (Ctr.LGC_NOMATCH 0) = (s.ctr (Ctr.LGC_NOMATCH 0) + 1) % 2 ^ 48 ∧
      (s.sysOn → s.lgc.noMatch = false → u.isPend 232 = true) ∧ s.regsEvt u (halves (Ctr.LGC_NOMATCH 0)) ∧
      u = { s.at t with regs := u.regs, evt := u.evt, i3inbox := l, lgc := { s.lgc with noMatch := true } }) ∧
  (∀ (s : State) (t : Time) (first p c : Nat) (f : RxFrame) (l : List RxFrame), s.i3inbox = f :: l →
    s.i3Acked (i3Hdr f.payload) first = some (p, c) → s.lgcOn p = true →
    exec (.i3FrameReceive t first) s = .next (State.i3TxDone { s.at t with i3inbox := l } p c)) ∧
  (∀ (s : State) (t : Time) (first : Nat) (f : RxFrame) (l : List RxFrame), s.i3inbox = f :: l →
    s.domReady 20 = false → exec (.i3FrameReceive t first) s = .next { s.at t with i3inbox := l }) ∧
  (∀ (s : State) (t : Time) (first p c : Nat) (f : RxFrame) (l : List RxFrame), s.i3inbox = f :: l →
    s.i3Acked (i3Hdr f.payload) first = some (p, c) → s.lgcOn p = false →
    exec (.i3FrameReceive t first) s = .next { s.at t with i3inbox := l }) ∧
  (∀ (s : State) (p first : Nat) (f : RxFrame) (h : I3Hdr), p < 4 →
    s.i3Match p true f h first = ((s.bump (Ctr.LGC_CONFLICT p)).fire 238).i3Match p false f h first) ∧
  (∀ (s : State) (t : Time) (first p : Nat) (m : List Nat) (f : RxFrame) (l : List RxFrame), s.i3inbox = f :: l →
    s.i3Acked (i3Hdr f.payload) first = none →
    (List.range 4).filter (fun p => s.lgcOn p && (s.i3 p).wants (i3Hdr f.payload)) = p :: m →
    exec (.i3FrameReceive t first) s = .next (State.i3Match { s.at t with i3inbox := l } p (!m.isEmpty) f (i3Hdr f.payload) first)) ∧
  (∀ (s : State) (p first : Nat) (f : RxFrame) (h : I3Hdr), p < 4 → (s.i3 p).inLink first (s.i3ChannelOf f.qrec.slice) h = false →
    s.i3Match p false f h first = s.bump (Ctr.LGC_OUTLINK p)) ∧
  (∀ (s : State) (p first : Nat) (f : RxFrame) (h : I3Hdr), p < 4 → (s.i3 p).inLink first (s.i3ChannelOf f.qrec.slice) h = true →
    16 ≤ s.rxCount p → s.i3Match p false f h first = (((s.bump (Ctr.LGC_RXFULL p)).i3Int p 4).fire 233)) ∧
  (∀ (s : State) (p first : Nat) (f : RxFrame) (h : I3Hdr), p < 4 → (s.i3 p).inLink first (s.i3ChannelOf f.qrec.slice) h = true →
    s.rxCount p < 16 → (s.commitAt 10 0).admits 2 1 = false →
    s.i3Match p false f h first = (((((s.acceptPkt 2 1 (i3Entry f (s.i3ChannelOf f.qrec.slice)) (.hw 22 p)
      { kind := 2, port := p, gt := f.qrec.sfdGt }).2).bump (Ctr.LGC_RXFULL p)).i3Int p 4).fire 233)) ∧
  (∀ (s : State) (p first : Nat) (f : RxFrame) (h : I3Hdr), p < 4 → (s.i3 p).inLink first (s.i3ChannelOf f.qrec.slice) h = true →
    s.rxCount p < 16 → (s.commitAt 10 0).admits 2 1 = true →
    ∃ r, r = s.acceptPkt 2 1 (i3Entry f (s.i3ChannelOf f.qrec.slice)) (.hw 22 p) { kind := 2, port := p, gt := f.qrec.sfdGt } ∧
    ∃ st, r.1 = some st ∧ ∃ u, u = (r.2.bump (Ctr.LGC_RXOK p)).i3Accept p st ∧
    ∃ v, v = u.setI3 p { u.i3 p with due := (u.i3 p).due ++ [first + (6 + f.payload.length) * 32 + 544] } ∧
      s.i3Match p false f h first =
        (if h.ar = true ∧ ¬(h.mode = 2 ∧ h.dst = 0xFFFF) ∧ (s.i3 p).ctrl 3 = true then
          v.i3Ack p (s.i3ChannelOf f.qrec.slice).toNat h.dsn (first + (6 + f.payload.length) * 32) else v)) ∧
  (∀ (s : State) (p st : Nat), s.i3Routes p = false →
    s.i3Accept p st = s.setI3 p { s.i3 p with rx := (s.i3 p).rx ++ [st] }) ∧
  (∀ (s : State) (p st : Nat), s.i3Routes p = true →
    s.i3Accept p st = s.pushPkt (65584 + s.fld F.LGC_CFG_PRCQ) (.hw 22 p) st) ∧
  (∀ (s : State) (t : Time) (p d : Nat) (l : List Nat), s.lgcOn p = true → (s.i3 p).due = d :: l → t.ft < d →
    exec (.i3Rxdone t p) s = .next (s.at t)) ∧
  (∀ (s : State) (t : Time) (p d : Nat) (l : List Nat), s.lgcOn p = true → (s.i3 p).due = d :: l → d ≤ t.ft →
    exec (.i3Rxdone t p) s = .next (((s.at t).setI3 p { s.i3 p with due := l }).i3Int p 0)) ∧
  (∀ (s : State) (t : Time) (p : Nat), s.lgcOn p = true → (s.i3 p).due = [] → exec (.i3Rxdone t p) s = .next (s.at t)) ∧
  (∀ (s : State) (t : Time) (p : Nat), s.level = 0 ∨ (s.i3 p).running = false ∨ (s.i3 p).await.isSome = true ∨
      ((s.i3 p).tx.any (fun e => e.2.pkt.isSome)) = true ∨ t.ft < (s.i3 p).bnd + 1620 ∨ (s.i3 p).bnd + 2120 ≤ t.ft ∨
      s.headPkt (65616 + p) = none → exec (.i3TxSelect t p) s = .next (s.at t)) ∧
  (∀ (s : State) (t : Time) (p pkt : Nat) (q : Pkt) (h : I3Hdr), s.level ≠ 0 → s.lgcOn p = true → (s.i3 p).running = true →
    (s.i3 p).await = none → ((s.i3 p).tx.any (fun e => e.2.pkt.isSome)) = false → (s.i3 p).bnd + 1620 ≤ t.ft →
    t.ft < (s.i3 p).bnd + 2120 → s.headPkt (65616 + p) = some (pkt, q) → h = i3Hdr (q.data.drop 2) →
    (∀ x, (s.i3 p).txLink (s.i3 p).asn (if h.mode = 2 then some h.dst else none) = some x →
      exec (.i3TxSelect t p) s = .next ((s.at t).i3Send p pkt q.data x.1 x.2)) ∧
    ((s.i3 p).txLink (s.i3 p).asn (if h.mode = 2 then some h.dst else none) = none → exec (.i3TxSelect t p) s = .next (s.at t))) ∧
  (∀ (s : State) (p pkt : Nat) (data : List Octet) (k : I3Link) (sh : Bool),
    ((s.i3 p).channel (s.i3 p).asn k.chofs).bind (fun c => s.i3Slice c) = none →
    s.i3Send p pkt data k sh = if (s.i3 p).word 0x11 = 0 then s else s.bump (Ctr.LGC_DEFER p)) ∧
  (∀ (s : State) (p pkt sl : Nat) (data : List Octet) (k : I3Link) (sh : Bool) (r : Launch × State),
    ((s.i3 p).channel (s.i3 p).asn k.chofs).bind (fun c => s.i3Slice c) = some sl →
    r = s.i3Launch sl (s.gtAtFt ((s.i3 p).bnd + 2120)) data.length .data →
    (r.1 = .noStream → s.i3Send p pkt data k sh = r.2.bump (Ctr.LGC_DEFER p)) ∧
    (∀ c ∈ [BgtReason.budget, .offtime, .txmax, .resv], r.1 = .refused c → s.i3Send p pkt data k sh =
      if c.attempt then (r.2.bump (Ctr.LGC_DEFER p)).i3Attempt p pkt else r.2.bump (Ctr.LGC_DEFER p)) ∧
    (∀ id, r.1 = .sent id → ∃ v, v = r.2.i3Fill id (withFcs (data.drop 2)) ∧
      ∃ w, w = v.setI3 p { v.i3 p with tx := (v.i3 p).tx.put id ⟨some pkt, withFcs (data.drop 2),
          (s.i3 p).bnd + 2120 + (6 + data.length) * 32, bit (data.getD 1 0).toNat 0, ((data.drop 2).getD 2 0).toNat⟩ } ∧
      s.i3Send p pkt data k sh = if sh then
        w.ccaStart id .lgc (w.fld F.LGC_CFG_RFPORT) sl 8 (4 * signed 8 ((s.i3 p).oct 0x14)) true false
          (w.ccaWindow (w.fld F.LGC_CFG_RFPORT) (s.gtAtFt ((s.i3 p).bnd + 2120)) 8) else w)) ∧
  (∀ (s : State) (t : Time) (p : Nat), s.lgcOn p = true → (s.i3 p).await = none → exec (.i3AckTimeout t p) s = .next (s.at t)) ∧
  (∀ (s : State) (t : Time) (p : Nat) (a : I3Tx), s.lgcOn p = true → (s.i3 p).await = some a →
    t.ft ≤ a.fin + 240 ∨ a.pkt = none → exec (.i3AckTimeout t p) s = .next (s.at t)) ∧
  (∀ (s : State) (t : Time) (p c : Nat) (a : I3Tx), s.lgcOn p = true → (s.i3 p).await = some a → a.pkt = some c → a.fin + 240 < t.ft →
    (s.i3 p).tries + 1 ≤ (s.i3 p).oct 0x16 →
    exec (.i3AckTimeout t p) s = .next ((s.at t).setI3 p { s.i3 p with await := none, tries := (s.i3 p).tries + 1 })) ∧
  (∀ (s : State) (t : Time) (p c : Nat) (a : I3Tx), s.lgcOn p = true → (s.i3 p).await = some a → a.pkt = some c → a.fin + 240 < t.ft →
    (s.i3 p).oct 0x16 < (s.i3 p).tries + 1 →
    exec (.i3AckTimeout t p) s = .next
      ((((((s.at t).setI3 p { s.i3 p with await := none, tries := 0 }).endHead (65616 + p) c (.drop 3)).bump
        (Ctr.LGC_TXFAIL p)).i3Int p 2).fire 234))

/-- The channel of a link in a slot (R442).
Completes: i3SlotBoundary. -/
def Obligations.I3Channel : Prop :=
  (∀ (x : I3) (asn chofs : Nat), chofs ≤ 15 → asn < 2 ^ 32 → x.word 0x11 ≠ 0 → x.word 0x11 < 65536 →
    ∃ k, k < 16 ∧ x.channel asn chofs = some (11 + ((7 * asn + chofs + x.oct 0x13) % 16 + k) % 16) ∧
      bit (x.word 0x11) (((7 * asn + chofs + x.oct 0x13) % 16 + k) % 16) = true ∧
      ∀ j < k, bit (x.word 0x11) (((7 * asn + chofs + x.oct 0x13) % 16 + j) % 16) = false) ∧
  (∀ (x : I3) (asn chofs : Nat), x.word 0x11 = 0 → x.channel asn chofs = none) ∧
  (∀ (x : I3) (first : Nat) (ch : Int) (h : I3Hdr), x.word 0x11 = 0 → x.inLink first ch h = false) ∧
  (∀ (s : State) (t : Time) (p : Nat), (s.i3 p).word 0x11 = 0 → exec (.i3TxSelect t p) s = .next (s.at t)) ∧
  (∀ (s : State) (t : Time) (p b : Nat), s.lgcOn p = true → (s.i3 p).next = some b → b ≤ t.ft → (s.i3 p).word 0x11 = 0 →
    ∃ u, exec (.i3SlotBoundary t p) s = .next u ∧ u.ctr (Ctr.LGC_DEFER p) =
      (s.ctr (Ctr.LGC_DEFER p) + ((s.i3 p).slotLinks (((s.i3 p).asn + 1) % 2 ^ 32)).length) % 2 ^ 48)

/-! ### HIF (chapter 25) -/

/-- HIF and the flash (R470 to R483). The PCIe link and the descriptors in flight; writes of TAIL with the world they carry; a descriptor
done, received or transmitted, with its status and what it leaves; a received Ethernet frame: PAUSE, MACsec with its key and replay
window, what a port lets enter and where it goes; the frame that a port starts, its protection, its stamp; link changes, protection
switching and its end; next hops through any view, the PTP step, the timestamp FIFO, GPIO edges; one flash command at a time, refused or
run, with its effect and what waited for it.
The model's own choices in it: log entries 88, 89, 90, 91, 94, 149.
Completes: pcieLinkChange, rxringTailWrite, txringTailWrite, dmaDescriptorDone, ethFrameReceive, ethTxDone, ethLinkChange,
protectionSwitch, protectionRestore, nexthopApply, ptpStep, hifTspop, gpioEdge, xspiRead, xspiErase, xspiProgram, xspiComplete. -/
def Obligations.HostAndBackhaul : Prop :=
  (∀ (s : State) (t : Time) (b : Bool) (w sp : Nat) (l : List DescFlight), s.domReady 18 = false ∨ s.on F.HIF_STATUS_PCIEUP = b ∨ b = true ∧ s.hif.perst = false →
    exec (.pcieLinkChange t b w sp l) s = .next (s.at t)) ∧
  (∀ (s : State) (t : Time) (w sp : Nat) (l : List DescFlight), s.domReady 18 = true → s.on F.HIF_STATUS_PCIEUP = true →
    ∃ u, exec (.pcieLinkChange t false w sp l) s = .next u ∧ u.on F.HIF_STATUS_PCIEUP = false ∧ u.fld F.HIF_STATUS_PCIEW = 0 ∧
      u.fld F.HIF_STATUS_PCIESPD = 0 ∧ (s.sysOn → u.isPend 221 = true) ∧ s.regsEvt u [Reg.HIF_STATUS] ∧
      u = { s.at t with regs := u.regs, evt := u.evt, hif := { s.hif with flight := l } }) ∧
  (∀ (s : State) (t : Time) (w sp : Nat) (l : List DescFlight), s.domReady 18 = true → s.on F.HIF_STATUS_PCIEUP = false → s.hif.perst = true →
    s.hif.flight = [] →
    ∃ u, exec (.pcieLinkChange t true w sp l) s = .next u ∧ u.on F.HIF_STATUS_PCIEUP = true ∧
      u.fld F.HIF_STATUS_PCIEW = w % 2 ^ F.HIF_STATUS_PCIEW.w ∧ u.fld F.HIF_STATUS_PCIESPD = sp % 2 ^ F.HIF_STATUS_PCIESPD.w ∧
      (s.sysOn → u.isPend 221 = true) ∧ s.regsEvt u [Reg.HIF_STATUS] ∧ u = { s.at t with regs := u.regs, evt := u.evt }) ∧
  (∀ (s : State) (t : Time) (w sp : Nat) (l : List DescFlight) (d : DescFlight), s.domReady 18 = true → s.on F.HIF_STATUS_PCIEUP = false →
    s.hif.perst = true → s.hif.flight = [d] → s.hif.tags.getD' (ringKey d.tx d.ring) [] ≠ [] →
    ∃ u, u = (((((s.at t).setFlag F.HIF_STATUS_PCIEUP true).setFld F.HIF_STATUS_PCIEW w).setFld F.HIF_STATUS_PCIESPD sp).descDone d.tx d.ring 0 0 4
        d.irq) ∧
      exec (.pcieLinkChange t true w sp l) s = .next (State.fire { u with hif := { u.hif with flight := [] } } 221)) ∧
  (∀ (s : State) (rq : Req) (r n : Nat) (v : Word) (old : List DmaTag), r < 16 → s.barred rq (tailFld false r).reg (some v) = none →
    n = ((tailFld false r).ext v + 65536 - s.fld (headFld false r)) % 65536 → n ≤ s.ringSize false r → old = s.hif.tags.getD' (ringKey false r) [] →
    exec (.rxringTailWrite rq r v) s = .next ((State.applyWrite { s with hif := { s.hif with
      tags := s.hif.tags.put (ringKey false r) (old.take n ++ List.replicate (n - old.length) ⟨rq.init, s.secureReq rq⟩) } }
        rq (tailFld false r).reg v).respond [] true)) ∧
  (∀ (s : State) (rq : Req) (r n : Nat) (v : Word) (old : List DmaTag), r < 16 → s.barred rq (tailFld true r).reg (some v) = none →
    n = ((tailFld true r).ext v + 65536 - s.fld (headFld true r)) % 65536 → n ≤ s.ringSize true r → old = s.hif.tags.getD' (ringKey true r) [] →
    exec (.txringTailWrite rq r v) s = .next ((State.applyWrite { s with hif := { s.hif with
      tags := s.hif.tags.put (ringKey true r) (old.take n ++ List.replicate (n - old.length) ⟨rq.init, s.secureReq rq⟩) } }
        rq (tailFld true r).reg v).respond [] true)) ∧
  (∀ (s : State) (rq : Req) (tx : Bool) (r : Nat) (v : Word) (i : Instr),
    (tx, i) ∈ [(false, Instr.rxringTailWrite rq r v), (true, .txringTailWrite rq r v)] → r < 16 →
    s.barred rq (tailFld tx r).reg (some v) = none →
    s.ringSize tx r < ((tailFld tx r).ext v + 65536 - s.fld (headFld tx r)) % 65536 →
    exec i s = .next ((s.recordFault rq .busy true (tailFld tx r).reg 15).respond [] false)) ∧
  (∀ (s : State) (rq : Req) (tx : Bool) (r : Nat) (v : Word) (i : Instr),
    (tx, i) ∈ [(false, Instr.rxringTailWrite rq r v), (true, .txringTailWrite rq r v)] →
    (16 ≤ r → exec i s = .next s) ∧
    (∀ c, s.barred rq (tailFld tx r).reg (some v) = some c → r < 16 →
      exec i s = .next ((s.recordFault rq c true (tailFld tx r).reg 15).respond [] false))) ∧
  (∀ (s : State) (t : Time) (tx : Bool) (r len q fl : Nat) (data : List Octet),
    16 ≤ r ∨ s.domReady 18 = false ∨ s.on F.HIF_STATUS_PCIEUP = false ∨ s.hif.tags.getD' (ringKey tx r) [] = [] →
    exec (.dmaDescriptorDone t tx r len q fl data) s = .next (s.at t)) ∧
  (∀ (s : State) (t : Time) (tx : Bool) (r len q fl : Nat) (data : List Octet) (b : DmaTag) (l : List DmaTag), r < 16 → s.domReady 18 = true →
    s.on F.HIF_STATUS_PCIEUP = true → s.hif.tags.find (ringKey tx r) = some (b :: l) →
    exec (.dmaDescriptorDone t tx r len q fl data) s = .next
      (if tx then (s.at t).dmaTx r b len q data (bit fl 0) else (s.at t).dmaRx r b len (bit fl 0))) ∧
  (∀ (s u : State) (tx : Bool) (r len src st : Nat) (irq : Bool), r < 16 → u = s.descDone tx r len src st irq →
    u.fld (headFld tx r) = (s.fld (headFld tx r) + 1) % 65536 ∧
      u.hif = { s.hif with
        wb := some ⟨tx, r, s.fld (headFld tx r) % s.ringSize tx r, len, src, st⟩,
        tags := s.hif.tags.put (ringKey tx r) ((s.hif.tags.getD' (ringKey tx r) []).drop 1) } ∧
      (s.sysOn → irq = true → u.isPend (218 + b2n tx) = true) ∧ (s.sysOn → st ≠ 0 → u.isPend 220 = true) ∧
      s.regsEvt u [(headFld tx r).reg] ∧ u = { s with regs := u.regs, evt := u.evt, hif := u.hif }) ∧
  (∀ (s : State) (r len q : Nat) (data : List Octet) (b : DmaTag) (irq : Bool), len = 0 ∨ 9216 < len →
    s.dmaTx r b len q data irq = s.descDone true r len 0 2 irq) ∧
  (∀ (s : State) (r len q : Nat) (data : List Octet) (b : DmaTag) (irq : Bool), len ≠ 0 → len ≤ 9216 →
    s.forwardRoom q (cellsFor len) = false →
    s.dmaTx r b len q data irq = (if q < 65628 then s.refusePush q else s).descDone true r len 0 1 irq) ∧
  (∀ (s u : State) (r len q : Nat) (data : List Octet) (b : DmaTag) (irq : Bool) (x : Option Nat), len ≠ 0 → len ≤ 9216 →
    s.forwardRoom q (cellsFor len) = true →
    s.acceptPkt 6 (cellsFor len) (data.take len) (.hw 19 r) { kind := 6 } = (x, u) →
    (x = none → s.dmaTx r b len q data irq = u.descDone true r len 0 1 irq) ∧
    (∀ st, x = some st → u.tagFaults b.sec 4 = true → s.dmaTx r b len q data irq =
      ((u.xwFault { init := b.init, prcSecure := false } 4 19 (cellAddr st (u.regionBase 10)) true).endPkt st (.drop 9)).descDone true r len 0 3
        irq) ∧
    (∀ st, x = some st → u.tagFaults b.sec 4 = false → s.dmaTx r b len q data irq =
      ((u.pushPkt q (.hw 19 r) st).bump Ctr.HIF_DMATX).descDone true r len 0 0 irq)) ∧
  (∀ (s u : State) (r len st : Nat) (p : Pkt) (b : DmaTag) (irq : Bool), s.takePkt (65600 + r) (.hw 19 r) = (some st, u) →
    u.qmg.pkts.find st = some p →
    (u.tagFaults b.sec 4 = true → s.dmaRx r b len irq =
      ((u.xwFault { init := b.init, prcSecure := false } 4 19 (cellAddr st (u.regionBase 10)) false).endPkt st (.drop 9)).descDone false r
        p.data.length p.src 3 irq) ∧
    (u.tagFaults b.sec 4 = false → p.data.length ≤ len →
      s.dmaRx r b len irq = ((u.endPkt st .deliv).bump Ctr.HIF_DMARX).descDone false r p.data.length p.src 0 irq) ∧
    (u.tagFaults b.sec 4 = false → len < p.data.length →
      s.dmaRx r b len irq = (u.endPkt st (.drop 7)).descDone false r p.data.length p.src 2 irq)) ∧
  (∀ (s : State) (r len : Nat) (b : DmaTag) (irq : Bool), (s.queue (65600 + r)).cells = [] → s.dmaRx r b len irq = s) ∧
  (∀ (s : State) (t : Time) (n : Nat) (f : EthFrame), 2 ≤ n ∨ s.level = 0 ∨ s.domReady 18 = false ∨ s.ethUp n = false →
    exec (.ethFrameReceive t n f) s = .next (s.at t)) ∧
  (∀ (s : State) (t : Time) (n q : Nat) (f : EthFrame), n < 2 → s.level ≠ 0 → s.domReady 18 = true → s.ethUp n = true → f.sec = none →
    f.kind = .pause q →
    ∃ u, exec (.ethFrameReceive t n f) s = .next u ∧ u = { s.at t with hif := u.hif } ∧
      u.ethPaused n = decide (q % 65536 ≠ 0) ∧
      u.hif = { s.hif with pauseTo := s.hif.pauseTo.put n (t.ft + (512 * (q % 65536) + s.ethRate n - 1) / s.ethRate n) }) ∧
  (∀ (s : State) (t : Time) (n : Nat) (f : EthFrame), n < 2 → s.level ≠ 0 → s.domReady 18 = true → s.ethUp n = true → f.sec = none →
    s.on (F.HIF_PnCFG_MSREQ n) = true → f.kind.isPause = false →
    ∃ u, exec (.ethFrameReceive t n f) s = .next u ∧ u.ctr (Ctr.HIF_P0MSDROP + 8 * n) = (s.ctr (Ctr.HIF_P0MSDROP + 8 * n) + 1) % 2 ^ 48 ∧
      s.regsBut u (halves (Ctr.HIF_P0MSDROP + 8 * n)) ∧ u = { s.at t with regs := u.regs }) ∧
  (∀ (s : State) (t : Time) (n : Nat) (f : EthFrame), n < 2 → s.level ≠ 0 → s.domReady 18 = true → s.ethUp n = true → f.sec = none →
    s.on (F.HIF_PnCFG_MSREQ n) = false → f.kind.isPause = false → exec (.ethFrameReceive t n f) s = .next ((s.at t).ethClassify n f)) ∧
  (∀ (s : State) (t : Time) (n an pn : Nat) (f : EthFrame), n < 2 → s.domReady 18 = true → s.ethUp n = true → f.sec = some (an, pn) →
    s.replayOk n (an % 4) pn = false → exec (.ethFrameReceive t n f) s = .next (s.at t)) ∧
  (∀ (s u : State) (t : Time) (n an pn : Nat) (f : EthFrame) (x : Option KeySlot), n < 2 → s.domReady 18 = true → s.ethUp n = true →
    f.sec = some (an, pn) → s.level ≠ 0 → s.replayOk n (an % 4) pn = true →
    (s.at t).keyRequest (.macsec n) (s.fld (F.HIF_PnSAa_KEYSLOT n (an % 4))) = (x, u) →
    exec (.ethFrameReceive t n f) s = .next (if x.isSome then State.ethClassify { u with hif := { u.hif with
      rxPn := u.hif.rxPn.put (4 * n + an % 4) (max (u.hif.rxPn.getD' (4 * n + an % 4) 1) (pn + 1)) } } n f else u)) ∧
  (∀ (s : State) (n : Nat) (f : EthFrame), n < 2 → ¬ s.ethTakes n f →
    (s.ethClassify n f).ctr (Ctr.HIF_P0RX + 8 * n) = (s.ctr (Ctr.HIF_P0RX + 8 * n) + 1) % 2 ^ 48 ∧
    (s.ethClassify n f).ctr (Ctr.HIF_P0DROP + 8 * n) = (s.ctr (Ctr.HIF_P0DROP + 8 * n) + 1) % 2 ^ 48 ∧
    s.ethClassify n f = { s with regs := (s.ethClassify n f).regs }) ∧
  (∀ (s v : State) (n : Nat) (f : EthFrame), s.ethTakes n f → f.kind = .ipv6 → f.data.length ≤ 9216 → v = s.bump (Ctr.HIF_P0RX + 8 * n) →
    ∃ r, r = v.acceptPkt (3 + n) (cellsFor f.data.length) f.data (.hw 19 n) { kind := 3, port := n } ∧
      (r.1 = none → s.ethClassify n f = r.2) ∧
      (∀ st, r.1 = some st → s.ethClassify n f = { r.2 with qmg := { r.2.qmg with intake := r.2.qmg.intake ++ [st] } })) ∧
  (∀ (s : State) (n q ns : Nat) (f : EthFrame), s.ethTakes n f → f.kind = .event q ns →
    s.ethClassify n f = ((s.bump (Ctr.HIF_P0RX + 8 * n)).tsPush q ns).ethToPrc n (s.fld F.HIF_CFG_PTPQ) f.data) ∧
  (∀ (s : State) (n : Nat) (f : EthFrame), s.ethTakes n f → f.kind = .general →
    s.ethClassify n f = (s.bump (Ctr.HIF_P0RX + 8 * n)).ethToPrc n (s.fld F.HIF_CFG_PTPQ) f.data) ∧
  (∀ (s : State) (n : Nat) (f : EthFrame), s.ethTakes n f → f.kind = .other ∨ f.kind = .ipv6 ∧ 9216 < f.data.length →
    s.ethClassify n f = if s.on F.HIF_CFG_OTHEREN then (s.bump (Ctr.HIF_P0RX + 8 * n)).ethToPrc n (s.fld F.HIF_CFG_OTHERQ) f.data
      else (s.bump (Ctr.HIF_P0RX + 8 * n)).bump (Ctr.HIF_P0DROP + 8 * n)) ∧
  (∀ (s : State) (n q : Nat) (f : EthFrame), s.ethTakes n f → f.kind = .pause q → s.ethClassify n f = s.bump (Ctr.HIF_P0RX + 8 * n)) ∧
  (∀ (s : State) (t : Time) (n : Nat), 2 ≤ n ∨ s.domReady 18 = false → exec (.ethTxDone t n) s = .next (s.at t)) ∧
  (∀ (s : State) (t : Time) (n st : Nat), n < 2 → s.domReady 18 = true → s.hif.cur.find n = some st →
    exec (.ethTxDone t n) s = .next (
      let u := (State.endPkt { s.at t with hif := { s.hif with cur := s.hif.cur.del n, wire := s.hif.wire.del n } } st .tx).bump (Ctr.HIF_P0TX + 8 * n)
      u.ethStart n (u.qmg.pkts.length + 1))) ∧
  (∀ (s : State) (t : Time) (n : Nat), n < 2 → s.domReady 18 = true → s.hif.cur.find n = none →
    exec (.ethTxDone t n) s = .next ((s.at t).ethStart n (s.qmg.pkts.length + 1))) ∧
  (∀ (s : State) (n k : Nat), s.level = 0 ∨ s.ethUp n = false ∨ s.ethPaused n = true ∨
      s.fld (F.HIF_PnCFG_MODE n) = 0 ∨ (s.hif.cur.find n).isSome = true →
    s.ethStart n k = s) ∧
  (∀ (s u v : State) (n k q st c : Nat) (p : Pkt), s.level ≠ 0 → s.ethUp n = true → s.ethPaused n = false →
    s.fld (F.HIF_PnCFG_MODE n) ≠ 0 → s.hif.cur.find n = none →
    (s.ethQueues n).find? (fun q => (s.headPkt q).isSome) = some q → s.headPkt q = some (st, p) →
    (F.HIF_NHk_B_VALID 0).ext (s.nextHop p.info.hop).2 = 1 → s.protect n = some u → u.takePkt q (.hw 19 n) = (some c, v) →
    s.ethStart n (k + 1) = { v with
      hif := { v.hif with cur := v.hif.cur.put n c, wire := v.hif.wire.put n (s.ethFrame n q p) },
      free := if isEvent p.data then v.free + 1 else v.free }) ∧
  (∀ (s : State) (n k q st : Nat) (p : Pkt), s.level ≠ 0 → s.ethUp n = true → s.ethPaused n = false →
    s.fld (F.HIF_PnCFG_MODE n) ≠ 0 → s.hif.cur.find n = none →
    (s.ethQueues n).find? (fun q => (s.headPkt q).isSome) = some q → s.headPkt q = some (st, p) →
    (F.HIF_NHk_B_VALID 0).ext (s.nextHop p.info.hop).2 ≠ 1 →
    s.ethStart n (k + 1) = State.ethStart (State.fireIf { (s.endPkt st (.drop 1)).ageNow q with
      hif := { ((s.endPkt st (.drop 1)).ageNow q).hif with nhDrop := true } } (!s.hif.nhDrop) 225) n k) ∧
  (∀ (s : State) (n k q st : Nat) (p : Pkt), s.headPkt q = some (st, p) → (s.ethQueues n).find? (fun q => (s.headPkt q).isSome) = some q →
    (F.HIF_NHk_B_VALID 0).ext (s.nextHop p.info.hop).2 = 1 → s.protect n = none → s.ethStart n k = s) ∧
  (∀ (s : State) (n k : Nat), (s.ethQueues n).find? (fun q => (s.headPkt q).isSome) = none → s.ethStart n k = s) ∧
  (∀ (l : List Octet) (ns res : Nat), 92 ≤ l.length →
    (stampEvent l ns res).length = l.length ∧ beNat (slice (stampEvent l ns res) 56 8) = (beNat (slice l 56 8) + res) % 2 ^ 64 ∧
    beNat (slice (stampEvent l ns res) 82 6) = ns / 10 ^ 9 % 2 ^ 48 ∧ beNat (slice (stampEvent l ns res) 88 4) = ns % 10 ^ 9 ∧
    (stampEvent l ns res).take 46 = l.take 46 ∧ (stampEvent l ns res).drop 92 = l.drop 92) ∧
  (∀ (s : State) (n : Nat), s.on (F.HIF_PnSAa_EN n (s.fld (F.HIF_PnTXAN_TXAN n))) = false →
    s.protect n = if s.on (F.HIF_PnCFG_MSREQ n) then none else some s) ∧
  (∀ (s u : State) (n an : Nat) (x : Option KeySlot), an = s.fld (F.HIF_PnTXAN_TXAN n) → s.on (F.HIF_PnSAa_EN n an) = true →
    s.keyRequest (.macsec n) (s.fld (F.HIF_PnSAa_KEYSLOT n an)) = (x, u) →
    s.protect n = if 0xFFFFFFFF ≤ s.txPn n ∨ x = none then none
      else some (State.fireIf { u with hif := { u.hif with pn := u.hif.pn.put (4 * n + an) (s.txPn n + 1) } } (s.txPn n + 1 == 0xC0000000) 215)) ∧
  (∀ (s : State) (t : Time) (n : Nat) (lock fault up : Bool), 2 ≤ n ∨ s.domReady 18 = false →
    exec (.ethLinkChange t n lock fault up) s = .next (s.at t)) ∧
  (∀ (s : State) (t : Time) (n : Nat) (lock fault up : Bool), n < 2 → s.domReady 18 = true → s.ethUp n = false ∨ up = true →
    ∃ u, exec (.ethLinkChange t n lock fault up) s = .next u ∧ u.on (F.HIF_PnLSTAT_LOCK n) = lock ∧ u.ethUp n = up ∧
      u.ethUp (1 - n) = s.ethUp (1 - n) ∧ (s.sysOn → s.ethUp n ≠ up → u.isPend (212 + n) = true) ∧
      s.regsEvt u [(F.HIF_PnLSTAT_LOCK n).reg, Reg.HIF_STATUS] ∧ u = { s.at t with regs := u.regs, evt := u.evt, hif := u.hif } ∧
      u.hif = (if n = 0 then { s.hif with
        bad := if lock = true ∧ fault = false then none else some (s.hif.bad.getD t.ft),
        good := if lock = true ∧ fault = false ∧ up = true then some (s.hif.good.getD t.ft) else none } else s.hif)) ∧
  (∀ (s : State) (t : Time) (n : Nat) (lock fault : Bool), n < 2 → s.domReady 18 = true → s.ethUp n = true → s.sup.fs ≠ .restart →
    s.sup.halted = false →
    ∃ u, exec (.ethLinkChange t n lock fault false) s = .next u ∧ u.on (F.HIF_PnLSTAT_LOCK n) = lock ∧ u.ethUp n = false ∧
      u.ethUp (1 - n) = s.ethUp (1 - n) ∧
      u.hif = (if n = 0 then { s.hif with
        bad := if lock = true ∧ fault = false then none else some (s.hif.bad.getD t.ft), good := none } else s.hif) ∧
      u.ctr Ctr.SUP_FLTCNT = (s.ctr Ctr.SUP_FLTCNT + 1) % 2 ^ 48 ∧ (s.sysOn → u.isPend (212 + n) = true)) ∧
  (∀ (s : State) (t : Time) (b : Nat), s.hif.bad = some b → s.domReady 18 = true → s.on F.HIF_CFG_PROT = true →
    s.on F.HIF_STATUS_PROTACT = false → b + 5 ≤ t.ft →
    ∃ u, exec (.protectionSwitch t) s = .next u ∧ u.on F.HIF_STATUS_PROTACT = true ∧ (s.sysOn → u.isPend 214 = true) ∧
      s.regsEvt u [Reg.HIF_STATUS] ∧ u = { s.at t with regs := u.regs, evt := u.evt }) ∧
  (∀ (s : State) (t : Time), s.hif.bad = none ∨ s.domReady 18 = false ∨ s.on F.HIF_CFG_PROT = false ∨ s.on F.HIF_STATUS_PROTACT = true ∨
      (s.hif.bad.all (fun b => decide (t.ft < b + 5))) = true → exec (.protectionSwitch t) s = .next (s.at t)) ∧
  (∀ (s : State) (t : Time) (g : Nat), s.hif.good = some g → s.domReady 18 = true → s.on F.HIF_STATUS_PROTACT = true →
    g + 1000000 * s.fld F.HIF_CFG_WTR ≤ t.ft →
    ∃ u, exec (.protectionRestore t) s = .next u ∧ u.on F.HIF_STATUS_PROTACT = false ∧ (s.sysOn → u.isPend 214 = true) ∧
      s.regsEvt u [Reg.HIF_STATUS] ∧ u = { s.at t with regs := u.regs, evt := u.evt }) ∧
  (∀ (s : State) (t : Time), s.hif.good = none ∨ s.domReady 18 = false ∨ s.on F.HIF_STATUS_PROTACT = false ∨
      (s.hif.good.all (fun g => decide (t.ft < g + 1000000 * s.fld F.HIF_CFG_WTR))) = true →
    exec (.protectionRestore t) s = .next (s.at t)) ∧
  (∀ (s v : State) (rq : Req) (k : Nat) (w : Word), k < 1024 → s.barred rq (Reg.HIF_NHk_B k) (some w) = none →
    v = s.took rq (Reg.HIF_NHk_B k) w →
    exec (.nexthopApply rq k w) s = .next { v with hif := { v.hif with
      nh := v.hif.nh.put k (v.reg (Reg.HIF_NHk_A k), v.reg (Reg.HIF_NHk_B k)) } }) ∧
  (∀ (s v : State) (rq : Req) (k view : Nat) (w : Word), view = 1 ∨ view = 2 ∨ view = 3 → s.barred rq (Reg.HIF_NHk_B k) none = none →
    v = (s.viewWrite rq (Reg.HIF_NHk_B k) view w).respond [] true →
    s.nhWrite rq k view w = { v with hif := { v.hif with
      nh := v.hif.nh.put k (v.reg (Reg.HIF_NHk_A k), v.reg (Reg.HIF_NHk_B k)) } }) ∧
  (∀ (s v : State) (t : Time) (rq : Req) (w : Word), s.barred rq Reg.HIF_PTPSTEP (some w) = none → v = (s.at t).took rq Reg.HIF_PTPSTEP w →
    exec (.ptpStep t rq w) s = .next (State.utcInvalidate { v with hif := { v.hif with
      ptp := (((v.ptpNow : Int) + signed 32 w.toNat) % (2 ^ 48 * 10 ^ 9 : Int)).toNat, ptpFt := t.ft } })) ∧
  (∀ (s v : State) (rq : Req) (w : Word), s.barred rq Reg.HIF_TSPOP (some w) = none → v = s.took rq Reg.HIF_TSPOP w →
    exec (.hifTspop rq w) s = .next (if w.getLsbD 0 then { v with hif := { v.hif with ts := v.hif.ts.drop 1 } } else v)) ∧
  (∀ (s v : State) (t : Time) (rq : Req) (k p : Nat) (w x : Word) (c : AccCause) (i : Instr), k < 1024 →
    (p, x, v, i) ∈ [(Reg.HIF_NHk_B k, w, s, Instr.nexthopApply rq k w), (Reg.HIF_PTPSTEP, w, s.at t, .ptpStep t rq w),
      (Reg.HIF_TSPOP, w, s, .hifTspop rq w), (Reg.HIF_XCMD, 0, s, .xspiRead rq), (Reg.HIF_XCMD, 1, s, .xspiErase rq),
      (Reg.HIF_XCMD, 2, s, .xspiProgram rq)] → v.barred rq p (some x) = some c →
    exec i s = .next ((v.recordFault rq c true p 15).respond [] false)) ∧
  (∀ (s : State) (rq : Req) (k : Nat) (w : Word), 1024 ≤ k → exec (.nexthopApply rq k w) s = .next s) ∧
  (∀ (s : State) (b : Nat) (l : Bool), b < 32 → s.domReady 18 = true → bit (s.reg Reg.HIF_GPIOIN).toNat b = !l →
    ∃ u, exec (.gpioEdge b l) s = .next u ∧ (∀ c < 32, bit (u.reg Reg.HIF_GPIOIN).toNat c =
        if c = b then l else bit (s.reg Reg.HIF_GPIOIN).toNat c) ∧
      (s.sysOn → bit (s.reg Reg.HIF_GPIOIEN).toNat b = true → u.isPend 224 = true) ∧ s.regsEvt u [Reg.HIF_GPIOIN] ∧
      u = { s with regs := u.regs, evt := u.evt }) ∧
  (∀ (s : State) (b : Nat) (l : Bool), 32 ≤ b ∨ s.domReady 18 = false ∨ bit (s.reg Reg.HIF_GPIOIN).toNat b = l →
    exec (.gpioEdge b l) s = .next s) ∧
  (∀ (s v : State) (rq : Req), s.barred rq Reg.HIF_XCMD (some (BitVec.ofNat 32 0)) = none →
    v = s.took rq Reg.HIF_XCMD (BitVec.ofNat 32 0) →
    v.on F.HIF_XSTAT_BUSY = false → v.xspiRefused 0 (v.fld F.HIF_XADDR_ADDR) = false →
    ∃ u, exec (.xspiRead rq) s = .next u ∧ u.on F.HIF_XSTAT_BUSY = true ∧ v.regsBut u [Reg.HIF_XSTAT] ∧
      u = { v with regs := u.regs, hif := { v.hif with xcmd := some (0, v.fld F.HIF_XADDR_ADDR) } }) ∧
  (∀ (s v : State) (rq : Req), s.barred rq Reg.HIF_XCMD (some (BitVec.ofNat 32 1)) = none →
    v = s.took rq Reg.HIF_XCMD (BitVec.ofNat 32 1) →
    v.on F.HIF_XSTAT_BUSY = false → v.xspiRefused 1 (v.fld F.HIF_XADDR_ADDR) = false →
    ∃ u, exec (.xspiErase rq) s = .next u ∧ u.on F.HIF_XSTAT_BUSY = true ∧ v.regsBut u [Reg.HIF_XSTAT] ∧
      u = { v with regs := u.regs, hif := { v.hif with xcmd := some (1, v.fld F.HIF_XADDR_ADDR) } }) ∧
  (∀ (s v : State) (rq : Req), s.barred rq Reg.HIF_XCMD (some (BitVec.ofNat 32 2)) = none →
    v = s.took rq Reg.HIF_XCMD (BitVec.ofNat 32 2) →
    v.on F.HIF_XSTAT_BUSY = false → v.xspiRefused 2 (v.fld F.HIF_XADDR_ADDR) = false →
    ∃ u, exec (.xspiProgram rq) s = .next u ∧ u.on F.HIF_XSTAT_BUSY = true ∧ v.regsBut u [Reg.HIF_XSTAT] ∧
      u = { v with regs := u.regs, hif := { v.hif with xcmd := some (2, v.fld F.HIF_XADDR_ADDR) } }) ∧
  (∀ (s v : State) (rq : Req) (op : Nat) (i : Instr), (op, i) ∈ [(0, Instr.xspiRead rq), (1, .xspiErase rq), (2, .xspiProgram rq)] →
    s.barred rq Reg.HIF_XCMD (some (BitVec.ofNat 32 op)) = none → v = s.took rq Reg.HIF_XCMD (BitVec.ofNat 32 op) →
    v.on F.HIF_XSTAT_BUSY = false → v.xspiRefused op (v.fld F.HIF_XADDR_ADDR) = true →
    ∃ u, exec i s = .next u ∧ u.fld F.HIF_XSTAT_OUTCOME = 1 ∧ (v.sysOn → u.isPend 223 = true) ∧ v.regsEvt u [Reg.HIF_XSTAT] ∧
      u = { v with regs := u.regs, evt := u.evt }) ∧
  (∀ (s v : State) (rq : Req) (op : Nat) (i : Instr), (op, i) ∈ [(0, Instr.xspiRead rq), (1, .xspiErase rq), (2, .xspiProgram rq)] →
    s.barred rq Reg.HIF_XCMD (some (BitVec.ofNat 32 op)) = none → v = s.took rq Reg.HIF_XCMD (BitVec.ofNat 32 op) →
    v.on F.HIF_XSTAT_BUSY = true → exec i s = .next v) ∧
  (∀ (s v w : State) (ok : Bool) (op a : Nat), s.hif.xcmd = some (op, a) →
    v = State.setFlag { s with hif := { s.hif with xcmd := none } } F.HIF_XSTAT_BUSY false →
    w = (if ok then (v.xspiEffect op a).setFld F.HIF_XSTAT_OUTCOME 0 else v.setFld F.HIF_XSTAT_OUTCOME 2) →
    exec (.xspiComplete ok) s = .next (((w.fire 223).journalStart).updResume)) ∧
  (∀ (s : State) (a : Nat), s.hif.xcmd = some (0, a) → (∀ j ∈ s.kvt.journal.head?, j.started = true) → s.upd.waits = none →
    ∃ u, exec (.xspiComplete true) s = .next u ∧ u.regRun (Reg.HIF_XDATAw 0) 64 = packWords 64 (s.flashRead (256 * (a / 256)) 256) ∧
      u.on F.HIF_XSTAT_BUSY = false ∧ u.fld F.HIF_XSTAT_OUTCOME = 0 ∧ (s.sysOn → u.isPend 223 = true) ∧
      s.regsEvt u (Reg.HIF_XSTAT :: (List.range 64).map Reg.HIF_XDATAw) ∧
      u = { s with regs := u.regs, evt := u.evt, hif := { s.hif with xcmd := none } }) ∧
  (∀ (s : State) (a : Nat), s.hif.xcmd = some (1, a) → (∀ j ∈ s.kvt.journal.head?, j.started = true) → s.upd.waits = none →
    ∃ u, exec (.xspiComplete true) s = .next u ∧ (∀ x, x / 65536 = a / 65536 → u.flashRead x 1 = [0xFF]) ∧
      (∀ x, x / 65536 ≠ a / 65536 → u.flashRead x 1 = s.flashRead x 1) ∧ u.on F.HIF_XSTAT_BUSY = false ∧ u.fld F.HIF_XSTAT_OUTCOME = 0 ∧
      s.regsEvt u [Reg.HIF_XSTAT] ∧ u = { s with regs := u.regs, evt := u.evt, flash := u.flash, hif := { s.hif with xcmd := none } }) ∧
  (∀ (s : State) (a : Nat), s.hif.xcmd = some (2, a) → (∀ j ∈ s.kvt.journal.head?, j.started = true) → s.upd.waits = none →
    ∃ u, exec (.xspiComplete true) s = .next u ∧
      u.flash = (s.flashWrite (256 * (a / 256)) (((s.flashRead (256 * (a / 256)) 256).zip (s.octRun (Reg.HIF_XDATAw 0) 64)).map
        (fun x => x.1 &&& x.2))).flash ∧
      u.on F.HIF_XSTAT_BUSY = false ∧ u.fld F.HIF_XSTAT_OUTCOME = 0 ∧ s.regsEvt u [Reg.HIF_XSTAT] ∧
      u = { s with regs := u.regs, evt := u.evt, flash := u.flash, hif := { s.hif with xcmd := none } }) ∧
  (∀ (s : State) (op a : Nat), s.hif.xcmd = some (op, a) → (∀ j ∈ s.kvt.journal.head?, j.started = true) → s.upd.waits = none →
    ∃ u, exec (.xspiComplete false) s = .next u ∧ u.fld F.HIF_XSTAT_OUTCOME = 2 ∧ u.on F.HIF_XSTAT_BUSY = false ∧
      (s.sysOn → u.isPend 223 = true) ∧ s.regsEvt u [Reg.HIF_XSTAT] ∧
      u = { s with regs := u.regs, evt := u.evt, hif := { s.hif with xcmd := none } }) ∧
  (∀ s : State, s.hif.xcmd = none → exec (.xspiComplete true) s = .next s) ∧
  (∀ s : State, s.hif.xcmd = none → exec (.xspiComplete false) s = .next s.journalWriteFails.updResume)

/-! ### SUP, PRC and TST (chapters 17, 21 and 24) -/

/-- The supervisor (R424 to R432, R339, R340). When SUP fails by divergence, by its watchdog or by a wrong kick; what a failure does, the
first, one again and one in keel service; keel service; the resume and the notices held; what recording a notice leaves; a processor
restarted or held; every containment of SUP_NOTICE with its notice; LOGPOP; REFCLK lost and back; debug halts and internal scans.
The model's own choices in it: log entries 102, 103, 104, 105, 156.
Completes: supDivergence, supWatchdogExpiry, supWdogKick, supResume, prcWatchdogExpiry, prcRestartDone, fsReplicaMismatch, supNotice,
supLogpop, refclkLoss, refclkReturn, debugHalt, debugHaltEnd, debugScanStart, debugScanEnd. -/
def Obligations.Supervision : Prop :=
  (∀ (s : State) (t : Time), s.on F.SUP_STATUS_RUN = false → s.sup.fs = .normal → exec (.supDivergence t) s = .next (s.at t)) ∧
  (∀ (s : State) (t : Time), s.on F.SUP_STATUS_RUN = true ∨ s.sup.fs ≠ .normal → exec (.supDivergence t) s = .next ((s.at t).supFail 1)) ∧
  (∀ (s : State) (t : Time), s.sup.fs = .restart ∨ s.on F.SUP_STATUS_RUN = true → s.sup.halted = false → s.pausing = false →
    s.sup.wdFt + s.fld F.SUP_CFG_WDPER ≤ t.ft → exec (.supWatchdogExpiry t) s = .next ((s.at t).supFail 2)) ∧
  (∀ (s : State) (t : Time), s.sup.halted = true ∨ s.pausing = true ∨ t.ft < s.sup.wdFt + s.fld F.SUP_CFG_WDPER ∨
      s.sup.fs ≠ .restart ∧ s.on F.SUP_STATUS_RUN = false →
    exec (.supWatchdogExpiry t) s = .next (s.at t)) ∧
  (∀ (s v : State) (t : Time) (rq : Req) (w : Word), s.barred rq Reg.SUP_WDOG (some w) = none → v = (s.at t).took rq Reg.SUP_WDOG w →
    F.SUP_WDOG_KICK.ext w = 0x5A5A →
    exec (.supWdogKick t rq w) s = .next { v with sup := { v.sup with wdFt := t.ft } }) ∧
  (∀ (s v : State) (t : Time) (rq : Req) (w : Word), s.barred rq Reg.SUP_WDOG (some w) = none → v = (s.at t).took rq Reg.SUP_WDOG w →
    F.SUP_WDOG_KICK.ext w ≠ 0x5A5A →
    exec (.supWdogKick t rq w) s = .next (if v.on F.SUP_STATUS_RUN = true ∨ v.sup.fs ≠ .normal then v.supFail 2 else v)) ∧
  (∀ (s v : State) (t : Time) (rq : Req) (p : Nat) (w : Word) (c : AccCause) (i : Instr),
    (p, w, v, i) ∈ [(Reg.SUP_WDOG, w, s.at t, Instr.supWdogKick t rq w), (Reg.SUP_LOGPOP, 1, s, .supLogpop rq)] →
    v.barred rq p (some w) = some c → exec i s = .next ((v.recordFault rq c true p 15).respond [] false)) ∧
  (∀ (s : State) (c : Nat), s.sup.fs = .keel → s.supFail c = s.recordNotice (s.mkNotice c 17 2 0xFFFF 0 s.gtIfValid)) ∧
  (∀ (s v u : State) (c : Nat), s.sup.fs = .normal → (s.sup.restartAt.all (fun b => decide (b + 10000000 ≤ s.gtb.ft))) = true →
    v = s.recordNotice (s.mkNotice c 17 1 0xFFFF 1 s.gtIfValid) → u = s.supFail c →
    u.on F.SUP_STATUS_RUN = false ∧ u.fld F.SUP_STATUS_FSSTATE = 1 ∧ u.ctr Ctr.SUP_RESTARTS = (v.ctr Ctr.SUP_RESTARTS + 1) % 2 ^ 48 ∧
      (s.sysOn → u.isPend 25 = true) ∧ u.updState = (if s.updState = 6 ∨ s.updState = 7 then 9 else s.updState) ∧
      v.regsEvt u ([Reg.SUP_STATUS, Reg.UPD_STATUS] ++ halves Ctr.SUP_RESTARTS) ∧
      u = { v with regs := u.regs, evt := u.evt, sup := { v.sup with fs := .restart, restartAt := some s.gtb.ft },
                   upd := if s.updState = 6 ∨ s.updState = 7 then { s.upd with cause := 2 } else s.upd }) ∧
  (∀ (s v : State) (c : Nat), s.sup.fs = .restart ∨ s.sup.fs = .normal ∧ (s.sup.restartAt.any (fun b => decide (s.gtb.ft < b + 10000000))) = true →
    v = s.replay → s.supFail c = ((v.recordNotice (v.mkNotice c 17 2 0xFFFF 4 s.gtIfValid)).trialFail 2).enterKeel) ∧
  (∀ (s u : State), u = s.enterKeel → u.sup.fs = .keel ∧ u.sup.restartAt = none ∧ u.keel = true ∧ u.on F.SUP_STATUS_RUN = false ∧
    u.fld F.SUP_STATUS_FSSTATE = 2 ∧ (s.sysOn → u.isPend 26 = true) ∧ (s.pwr.mode ≠ .inMode .aononly → u.sup.failPin = true) ∧
    u.updState = (if s.updState = 6 ∨ s.updState = 7 then 9 else if s.updState = 2 then 1 else if s.updState = 4 then 3 else s.updState) ∧
    u.slv.solve = none ∧ u.slv.held = [] ∧ u.slv.asked = none) ∧
  (∀ (s : State) (t : Time), s.sup.fs = .restart → s.sup.notices = [] →
    ∃ u, exec (.supResume t) s = .next u ∧ u.on F.SUP_STATUS_RUN = true ∧ u.fld F.SUP_STATUS_FSSTATE = 0 ∧ u.fld F.SUP_STATUS_NOTQ = 0 ∧
      s.regsBut u [Reg.SUP_STATUS] ∧ u = { s.at t with regs := u.regs, sup := { s.sup with fs := .normal, wdFt := t.ft } }) ∧
  (∀ (s v : State) (t : Time), s.sup.fs = .restart → v = State.setFlag { s.at t with sup := { s.sup with fs := .normal } } F.SUP_STATUS_RUN true →
    exec (.supResume t) s = .next (State.replay { v with sup := { v.sup with wdFt := t.ft } })) ∧
  (∀ (s : State), s.replay = (s.sup.notices.foldl (fun (u : State) n => u.recordNotice n) { s with sup := { s.sup with notices := [] } }).showFs) ∧
  (∀ (s u : State), u = s.showFs → u.fld F.SUP_STATUS_FSSTATE = (match s.sup.fs with | .normal => 0 | .restart => 1 | .keel => 2) ∧
    u.on F.SUP_STATUS_KEEL = s.keel ∧ u.fld F.SUP_STATUS_NOTQ = s.sup.notices.length % 2 ^ F.SUP_STATUS_NOTQ.w ∧
    s.regsBut u [Reg.SUP_STATUS] ∧ u = { s with regs := u.regs }) ∧
  (∀ (s : State) (t : Time), s.sup.fs ≠ .restart → exec (.supResume t) s = .next (s.at t)) ∧
  (∀ (s : State) (n : Notice), s.sup.fs = .restart ∨ s.sup.halted = true → s.sup.notices.length < 32 →
    s.report n = { s with sup := { s.sup with notices := s.sup.notices ++ [n] } }) ∧
  (∀ (s u : State) (n : Notice), s.sup.fs = .restart ∨ s.sup.halted = true → 32 ≤ s.sup.notices.length → u = s.report n →
    u.ctr Ctr.SUP_NOTDROP = (s.ctr Ctr.SUP_NOTDROP + 1) % 2 ^ 48 ∧ s.regsBut u (halves Ctr.SUP_NOTDROP) ∧
      u = { s with regs := u.regs, sup := { s.sup with notOvf := true } }) ∧
  (∀ (s : State) (n : Notice), s.sup.fs ≠ .restart → s.sup.halted = false → s.report n = s.recordNotice n) ∧
  (∀ (s u : State) (n : Notice), u = s.recordNotice n →
    u.ctr Ctr.SUP_FLTCNT = (s.ctr Ctr.SUP_FLTCNT + 1) % 2 ^ 48 ∧ (s.sysOn → u.isPend 24 = true) ∧
    (s.on F.SUP_FLTREC_VALID = false → u.reg Reg.SUP_FLTREC = BitVec.ofNat 32 (1 + 4 * n.cls + 128 * n.unit + 4096 * n.detail)) ∧
    (s.on F.SUP_FLTREC_VALID = true → u.on F.SUP_FLTREC_OVF = true ∧ u.fld F.SUP_FLTREC_CLASS = s.fld F.SUP_FLTREC_CLASS) ∧
    (s.sup.log.length < 64 → u.sup.log = s.sup.log ++ [s.logEntry n] ∧ (s.sysOn → s.sup.log = [] → u.isPend 28 = true) ∧
      u.sup = { s.sup with log := u.sup.log, logSeq := s.sup.logSeq + 1, notOvf := false }) ∧
    (64 ≤ s.sup.log.length → u.sup = s.sup ∧ u.ctr Ctr.SUP_LOGOVF = (s.ctr Ctr.SUP_LOGOVF + 1) % 2 ^ 48 ∧ (s.sysOn → u.isPend 29 = true)) ∧
    s.regsEvt u (Reg.SUP_FLTREC :: halves Ctr.SUP_FLTCNT ++ halves Ctr.SUP_LOGOVF) ∧ u = { s with regs := u.regs, evt := u.evt, sup := u.sup }) ∧
  (∀ (s : State) (t : Time) (p : Nat) (b : Bool) (l : List Nat), 4 ≤ p ∨ bit (s.fld F.PRC_STATUS_RUN) p = false →
    exec (.prcWatchdogExpiry t p b l) s = .next (s.at t)) ∧
  (∀ (s : State) (t : Time) (p : Nat) (b : Bool) (l : List Nat), p < 4 → bit (s.fld F.PRC_STATUS_RUN) p = true →
    (s.sup.prcRestarts.filter (fun x => x.1 == p && Nat.blt t.ft (x.2 + 10000000))).length < 3 →
    ∃ v, v = State.fireIf ((l.filter (fun c => (s.qmg.pkts.find c).any (fun x => x.holder == Holder.init .prc))).foldl
        (fun (u : State) c => u.endPkt c (.drop 9)) (s.at t)) b 245 ∧
    ∃ w, w = v.report (v.mkNotice (if b then 5 else 3) 23 (if b then 245 else p) (if b then 245 else 0xFFFF) 2 v.gtIfValid) ∧
    ∃ u, exec (.prcWatchdogExpiry t p b l) s = .next u ∧ bit (u.fld F.PRC_STATUS_RUN) p = false ∧
      u.ctr Ctr.SUP_PRCRESTARTS = (w.ctr Ctr.SUP_PRCRESTARTS + 1) % 2 ^ 48 ∧ (w.sysOn → u.isPend 240 = true) ∧
      u.updState = (if b = false ∧ w.updState = 7 then 9 else w.updState) ∧
      w.regsEvt u ([Reg.PRC_STATUS, Reg.UPD_STATUS] ++ halves Ctr.SUP_PRCRESTARTS) ∧
      u = { w with regs := u.regs, evt := u.evt, sup := { w.sup with prcRestarts := w.sup.prcRestarts ++ [(p, t.ft)] },
                   upd := if b = false ∧ w.updState = 7 then { w.upd with cause := 3 } else w.upd }) ∧
  (∀ (s : State) (t : Time) (p : Nat) (b : Bool) (l : List Nat), p < 4 → bit (s.fld F.PRC_STATUS_RUN) p = true →
    3 ≤ (s.sup.prcRestarts.filter (fun x => x.1 == p && Nat.blt t.ft (x.2 + 10000000))).length →
    ∃ v, v = State.fireIf ((l.filter (fun c => (s.qmg.pkts.find c).any (fun x => x.holder == Holder.init .prc))).foldl
        (fun (u : State) c => u.endPkt c (.drop 9)) (s.at t)) b 245 ∧
    ∃ w, w = v.report (v.mkNotice (if b then 5 else 3) 23 (if b then 245 else p) (if b then 245 else 0xFFFF) 3 v.gtIfValid) ∧
    ∃ u, exec (.prcWatchdogExpiry t p b l) s = .next u ∧ bit (u.fld F.PRC_STATUS_RUN) p = false ∧
      bit (u.fld F.PRC_STATUS_HELD) p = true ∧ bit (u.fld F.SUP_STATUS_PRCHELD) p = true ∧ (w.sysOn → u.isPend 27 = true) ∧
      u.updState = (if b = false ∧ w.updState = 7 then 9 else w.updState) ∧
      w.regsEvt u [Reg.PRC_STATUS, Reg.SUP_STATUS, Reg.UPD_STATUS] ∧
      u = { w with regs := u.regs, evt := u.evt, sup := { w.sup with failPin := u.sup.failPin },
                   upd := if b = false ∧ w.updState = 7 then { w.upd with cause := 3 } else w.upd }) ∧
  (∀ (s : State) (p : Nat), p < 4 → s.upd.run.isSome = true → bit (s.fld F.PRC_STATUS_HELD) p = false →
    bit (s.fld F.PRC_STATUS_RUN) p = false → (s.sup.prcRestarts.any (fun x => x.1 == p)) = true →
    ∃ u, exec (.prcRestartDone p) s = .next u ∧ (∀ k < 4, bit (u.fld F.PRC_STATUS_RUN) k = if k = p then true else bit (s.fld F.PRC_STATUS_RUN) k) ∧
      u.fld F.PRC_STATUS_HELD = s.fld F.PRC_STATUS_HELD ∧ s.regsBut u [Reg.PRC_STATUS] ∧ u = { s with regs := u.regs }) ∧
  (∀ (s : State) (p : Nat), 4 ≤ p ∨ s.upd.run = none ∨ bit (s.fld F.PRC_STATUS_HELD) p = true ∨ bit (s.fld F.PRC_STATUS_RUN) p = true ∨
      (s.sup.prcRestarts.any (fun x => x.1 == p)) = false →
    exec (.prcRestartDone p) s = .next s) ∧
  (∀ (s v : State), v = s.bump Ctr.SUP_FSREPL →
    exec .fsReplicaMismatch s = .next (v.report (v.mkNotice 4 17 0xFFFF 0xFFFF 0 v.gtIfValid))) ∧
  (∀ s : State, s.sup.fs ≠ .restart → s.sup.halted = false →
    ∃ u, exec .fsReplicaMismatch s = .next u ∧ u.ctr Ctr.SUP_FSREPL = (s.ctr Ctr.SUP_FSREPL + 1) % 2 ^ 48 ∧
      u.ctr Ctr.SUP_FLTCNT = (s.ctr Ctr.SUP_FLTCNT + 1) % 2 ^ 48 ∧ u = { s with regs := u.regs, evt := u.evt, sup := u.sup }) ∧
  (∀ (s : State) (t : Time) (f : UnitFault), exec (.supNotice t f) s = .next ((s.at t).contain f).showFs) ∧
  (∀ (s : State) (cls unit detail src : Nat), s.contain (.other cls unit detail src) =
    if 1 ≤ cls ∧ cls ≤ 11 then s.report (s.mkNotice cls (unit % 32) (detail % 2 ^ 20) src 0 s.gtIfValid) else s) ∧
  (∀ (s : State) (reader ch region addr : Nat) (b : Bool), s.domReady 17 = false → s.contain (.dram b reader ch region addr) = s) ∧
  (∀ (s u : State) (reader ch region addr : Nat), s.domReady 17 = true → u = s.contain (.dram true reader ch region addr) →
    u.ctr Ctr.MEM_CE = (s.ctr Ctr.MEM_CE + 1) % 2 ^ 48 ∧ u.mem = { s.mem with ceWin := s.mem.ceWin + 1 } ∧
    (s.sysOn → s.mem.ceWin + 1 = s.fld F.MEM_SCRUB_CETHR → u.isPend 206 = true) ∧ s.regsEvt u (halves Ctr.MEM_CE) ∧
    u = { s with regs := u.regs, evt := u.evt, mem := u.mem }) ∧
  (∀ (s : State) (reader ch region addr : Nat), s.domReady 17 = true →
    ∃ v, v = (s.memUncorrectable reader ch region addr false) ∧ s.contain (.dram false reader ch region addr) = v ∧
      v.ctr Ctr.MEM_UE = (s.ctr Ctr.MEM_UE + 1) % 2 ^ 48 ∧ (s.sysOn → v.isPend 207 = true) ∧
      (s.on F.MEM_ECCREC_VALID = false → v.reg Reg.MEM_ECCREC = BitVec.ofNat 32 (1 + 4 * (ch % 2) + 8 * (region % 16) + 128 * (reader % 32)) ∧
        v.reg Reg.MEM_ECCADDR_LO = BitVec.ofNat 32 addr ∧ v.reg Reg.MEM_ECCADDR_HI = BitVec.ofNat 32 (addr / 2 ^ 32)) ∧
      (s.on F.MEM_ECCREC_VALID = true → v.on F.MEM_ECCREC_OVF = true ∧ v.reg Reg.MEM_ECCADDR_LO = s.reg Reg.MEM_ECCADDR_LO)) ∧
  (∀ (s : State) (is : List Nat), ∃ v, v = (if s.on F.MEM_STATUS_TRAINED then s else { s with msq := { s.msq with cells := dropAt s.msq.cells is } }) ∧
    s.contain (.msqCells is) = (v.fire 109).reportNow 5 7 109 109) ∧
  (∀ (s : State) (r : Nat) (n : Nbr), s.on F.MEM_STATUS_TRAINED = false → s.nbr r = some n →
    ∃ v, v = State.flushQueue (State.forgetHead (s.setNbr r { n with st := 3, retries := 0 }) r) r 2 ∧
    s.contain (.msqRecord r) = (State.fire (State.tell ((v.bump Ctr.MSQ_TXLOST (s.queuedPkts r)).bump Ctr.MSQ_LOST) (.lost n.node)) 109).reportNow
      5 7 109 109) ∧
  (∀ (s : State) (r : Nat), s.on F.MEM_STATUS_TRAINED = true ∨ s.nbr r = none →
    s.contain (.msqRecord r) = (s.fire 109).reportNow 5 7 109 109) ∧
  (∀ (s : State), s.contain .msqCounters = ((s.fire 109).strike F.SUP_AUDIT_MSQ).reportNow 5 7 109 109) ∧
  (∀ (s u : State), u = s.strike F.SUP_AUDIT_MSQ → u.on F.SUP_AUDIT_MSQ = true ∧
    (s.sysOn → s.on F.SUP_AUDIT_MSQ = false → u.isPend 30 = true) ∧ s.regsEvt u [Reg.SUP_AUDIT] ∧
    u = { s with regs := u.regs, evt := u.evt, sup := { s.sup with failPin := u.sup.failPin } }) ∧
  (∀ (s : State) (id : Nat) (j : SicJob), s.sic.jobs.find? (fun x => x.id == id) = some j →
    s.contain (.sic id) = (State.fire (s.endJob j .aborted) 85).reportNow 5 5 85 85) ∧
  (∀ (s : State) (id : Nat), s.sic.jobs.find? (fun x => x.id == id) = none → s.contain (.sic id) = (s.fire 85).reportNow 5 5 85 85) ∧
  (∀ (s : State) (l : Nat) (x : Lane), s.dmx.lanes.find l = some x →
    s.contain (.cdcRx l) = (State.fire (s.laneCut { gt := s.gtb.gt, ft := s.gtb.ft } l x 5) 91).reportNow 5 6 91 91) ∧
  (∀ (s : State) (l : Nat), s.dmx.lanes.find l = none → s.contain (.cdcRx l) = s) ∧
  (∀ (s : State) (id chips n : Nat) (x : Stream), s.findStream id = some (n, x) →
    s.contain (.cdcTx id chips) = (State.fire (s.abortStream n x (if x.active then some chips else none)) 91).reportNow 5 6 91 91) ∧
  (∀ (s : State) (id chips : Nat), s.findStream id = none → s.contain (.cdcTx id chips) = s) ∧
  (∀ (s : State), s.contain .slv = (s.slvAbortRun.fire 130).reportNow 5 9 130 130) ∧
  (∀ (s : State) (key : Nat), s.contain (.bgt key) = s.acctError key) ∧
  (∀ (s : State) (c : Nat), (s.qmg.pkts.find c).isSome = true → s.contain (.cell c) = s.pktDataError c) ∧
  (∀ (s : State) (c : Nat), s.qmg.pkts.find c = none → s.contain (.cell c) = s) ∧
  (∀ (s : State) (n c : Nat) (p : Pkt), s.qmg.pkts.find c = some p → p.holder = .hw 19 n →
    s.contain (.hif n (some c)) = (State.fire { (s.endPkt c (.drop 9)) with
      hif := { s.hif with cur := s.hif.cur.del n, wire := s.hif.wire.del n } } 227).reportNow 5 19 227 227) ∧
  (∀ (s : State) (n c : Nat), ((s.qmg.pkts.find c).any (fun p => p.holder == .hw 19 n)) = false →
    s.contain (.hif n (some c)) = (s.fire 227).reportNow 5 19 227 227) ∧
  (∀ (s : State) (n : Nat), s.contain (.hif n none) =
    State.reportNow (State.fire (if n < 2 then s.bump (Ctr.HIF_P0DROP + 8 * n) else s) 227) 5 19 227 227) ∧
  (∀ (s : State) (p : Nat), s.contain (.i3 p) = if p < 4 then s.i3Error p else s) ∧
  (∀ (s v : State) (rq : Req), s.barred rq Reg.SUP_LOGPOP (some 1) = none → v = s.took rq Reg.SUP_LOGPOP 1 →
    exec (.supLogpop rq) s = .next { v with sup := { v.sup with log := v.sup.log.drop 1 } }) ∧
  (∀ (s : State) (t : Time) (n : Nat),
    (if (s.dom 1).mode = .on then s.sup.refclkLost = true else s.pwr.mode ≠ .inMode .aononly ∨
      s.on F.PWR_CLKSEL_AONSRC = false ∧ s.on F.PWR_STATUS_XTALFAIL = false) → exec (.refclkLoss t n) s = .next (s.at t)) ∧
  (∀ (s : State) (t : Time) (n : Nat), (s.dom 1).mode ≠ .on → s.pwr.mode = .inMode .aononly →
    s.on F.PWR_CLKSEL_AONSRC = true ∨ s.on F.PWR_STATUS_XTALFAIL = true →
    ∃ u, exec (.refclkLoss t n) s = .next u ∧ u.gtb = { (s.at t).gtb with holdRec := none } ∧ u.on F.GTB_HOLDREC_RECVALID = false ∧
      s.regsBut u [Reg.GTB_HOLDREC] ∧ u = { s.at t with regs := u.regs, gtb := u.gtb }) ∧
  (∀ (s : State) (t : Time) (n : Nat), s.sup.refclkLost = false → s.sysOn → s.on F.PWR_CLKSEL_AONSRC = true ∨ s.gtValid = false ∨ s.gtbState = 2 →
    ∃ u, exec (.refclkLoss t n) s = .next u ∧ u.sup = { s.sup with refclkLost := true, failPin := u.failLow } ∧ u.gtb = (s.at t).gtb ∧
      (u.failLow = true → s.sup.failPin = false → u.isPend 31 = true) ∧ s.regsEvt u [] ∧
      u = { s.at t with regs := u.regs, evt := u.evt, sup := u.sup }) ∧
  (∀ (s : State) (t : Time) (n : Nat), s.sup.refclkLost = false → s.sysOn → s.on F.PWR_CLKSEL_AONSRC = false → s.gtValid = true → s.gtbState ≠ 2 →
    ∃ u, exec (.refclkLoss t n) s = .next u ∧ u.sup.refclkLost = true ∧ u.gtbState = 2 ∧ u.gtValid = true ∧ u.gtb.gt = t.gt % 2 ^ 64 ∧
      u.ctr Ctr.GTB_HOLDCNT = (s.ctr Ctr.GTB_HOLDCNT + 1) % 2 ^ 48 ∧ u.isPend 33 = true ∧
      (s.gtbState = 4 → u.fld F.GTB_STEP_SLOTS = 0 ∧ u.fld F.GTB_STEPGSN_GSN = 0)) ∧
  (∀ (s : State) (t : Time) (n : Nat), s.sup.refclkLost = false → exec (.refclkReturn t n) s = .next s) ∧
  (∀ (s : State) (t : Time) (n : Nat), s.sup.refclkLost = true → s.on F.PWR_CLKSEL_AONSRC = false ∨ s.gtb.holdRec = none →
    exec (.refclkReturn t n) s = .next (State.drive { s.at t with sup := { s.sup with refclkLost := false } })) ∧
  (∀ (s : State) (t : Time) (n : Nat), s.sup.refclkLost = true → s.on F.PWR_CLKSEL_AONSRC = true → s.gtb.holdRec.isSome = true →
    ∃ u, exec (.refclkReturn t n) s = .next u ∧ u.gtbState = 2 ∧ u.gtValid = true ∧ u.gtb.gt = t.gt % 2 ^ 64 ∧ u.gtb.holdRec.isSome = true ∧
      u.ctr Ctr.GTB_HOLDCNT = (s.ctr Ctr.GTB_HOLDCNT + 1) % 2 ^ 48 ∧ (s.sysOn → u.isPend 33 = true) ∧ u.sup.refclkLost = false) ∧
  (∀ (s : State) (t : Time) (p : Nat), F.CHIP_WMAP1_DBG.ext (s.wmap Reg.CHIP_WMAP1) = 2 → s.on F.SUP_STATUS_RUN = true →
    ∃ u, exec (.debugHalt t true p) s = .next u ∧ (s.sysOn → u.isPend 5 = true) ∧ s.regsEvt u [] ∧
      u = { s.at t with regs := u.regs, evt := u.evt, sup := { s.sup with halted := true } }) ∧
  (∀ (s : State) (t : Time) (p : Nat), F.CHIP_WMAP1_DBG.ext (s.wmap Reg.CHIP_WMAP1) ≠ 2 ∨ s.on F.SUP_STATUS_RUN = false →
    exec (.debugHalt t true p) s = .next (s.at t)) ∧
  (∀ (s : State) (t : Time) (p : Nat), (F.CHIP_WMAP1_DBG.ext (s.wmap Reg.CHIP_WMAP1) ≠ 1 ∧ F.CHIP_WMAP1_DBG.ext (s.wmap Reg.CHIP_WMAP1) ≠ 2) ∨
      4 ≤ p ∨ bit (s.fld F.PRC_STATUS_RUN) p = false →
    exec (.debugHalt t false p) s = .next (s.at t)) ∧
  (∀ (s : State) (t : Time) (p : Nat), F.CHIP_WMAP1_DBG.ext (s.wmap Reg.CHIP_WMAP1) = 2 ∨
      F.CHIP_WMAP1_DBG.ext (s.wmap Reg.CHIP_WMAP1) = 1 ∧ bit (s.fld F.PRC_STATUS_SECCTX) p = false →
    p < 4 → bit (s.fld F.PRC_STATUS_RUN) p = true →
    ∃ u, exec (.debugHalt t false p) s = .next u ∧ u.prcRuns p = false ∧ (s.sysOn → u.isPend 5 = true) ∧ s.regsEvt u [] ∧
      u = { s.at t with regs := u.regs, evt := u.evt, sup := { s.sup with
        prcHalt := p :: s.sup.prcHalt.filter (fun x => x != p), haltWait := s.sup.haltWait.filter (fun x => x != p) } }) ∧
  (∀ (s : State) (t : Time) (p : Nat), F.CHIP_WMAP1_DBG.ext (s.wmap Reg.CHIP_WMAP1) = 1 → p < 4 → bit (s.fld F.PRC_STATUS_RUN) p = true →
    bit (s.fld F.PRC_STATUS_SECCTX) p = true →
    exec (.debugHalt t false p) s = .next { s.at t with sup := { s.sup with haltWait := p :: s.sup.haltWait.filter (fun x => x != p) } }) ∧
  (∀ (s : State) (t : Time) (p : Nat), s.sup.halted = true → s.sup.fs = .restart →
    exec (.debugHaltEnd t true p) s = .next { s.at t with sup := { s.sup with halted := false, wdFt := t.ft } }) ∧
  (∀ (s : State) (t : Time) (p : Nat), s.sup.halted = true → s.sup.fs ≠ .restart →
    exec (.debugHaltEnd t true p) s = .next (State.replay { s.at t with sup := { s.sup with halted := false, wdFt := t.ft } })) ∧
  (∀ (s : State) (t : Time) (p : Nat), s.sup.halted = false → exec (.debugHaltEnd t true p) s = .next (s.at t)) ∧
  (∀ (s : State) (t : Time) (p : Nat),
    exec (.debugHaltEnd t false p) s = .next { s.at t with sup := { s.sup with
      prcHalt := s.sup.prcHalt.filter (fun x => x != p), haltWait := s.sup.haltWait.filter (fun x => x != p) } }) ∧
  (∀ s : State, F.CHIP_WMAP1_DBG.ext (s.wmap Reg.CHIP_WMAP1) = 2 → s.on F.KVT_CFG_APPROVED = false → s.domReady 16 = true →
    ∃ u, exec .debugScanStart s = .next u ∧ u.kvtState = 0 ∧ (∀ k < 4, u.reg (Reg.KVT_DEVIDk 0 + 4 * k) = 0) ∧
      (∀ k < 12, u.reg (Reg.KVT_ANCHORk 0 + 4 * k) = 0) ∧
      s.regsEvt u (Reg.KVT_STATUS :: (List.range 4).map (fun k => Reg.KVT_DEVIDk 0 + 4 * k) ++ (List.range 12).map (fun k => Reg.KVT_ANCHORk 0 + 4 * k)) ∧
      u = { s with regs := u.regs, evt := u.evt, sup := { s.sup with failPin := u.sup.failPin },
                   kvt := { s.kvt with cache := [], slots := [], wrapped := [], scan := true, derived := false, answer := none } }) ∧
  (∀ s : State, F.CHIP_WMAP1_DBG.ext (s.wmap Reg.CHIP_WMAP1) ≠ 2 ∨ s.on F.KVT_CFG_APPROVED = true ∨ s.domReady 16 = false →
    exec .debugScanStart s = .next s) ∧
  (∀ s : State, s.kvt.scan = true → s.upd.waits = none →
    ∃ u, exec .debugScanEnd s = .next u ∧ u.kvtState = 0 ∧ u.on F.KVT_STATUS_CACHEONLY = true ∧ u.on F.CRY_STATUS_SELFTESTOK = false ∧
      u.on F.CRY_STATUS_DRBGOK = false ∧ u.on F.KVT_CMDSTAT_BUSY = false ∧ u.regRun (Reg.KVT_DEVIDk 0) 4 = packWords 4 Config.deviceId ∧
      u.regRun (Reg.KVT_ANCHORk 0) 12 = packWords 12 Config.ownerAnchor ∧
      (∀ k < 24, u.reg (Reg.KVT_ITKPUBk 0 + 4 * k) = 0 ∧ u.reg (Reg.KVT_IDPUBk 0 + 4 * k) = 0) ∧
      u.fld F.KVT_EPOCH_BURNED = s.kvt.fuses % 2 ^ F.KVT_EPOCH_BURNED.w ∧
      (s.kvt.antifuse.isSome = true → u.kvt.antifuse = s.kvt.antifuse ∧ u.free = s.free) ∧
      (s.kvt.antifuse = none → u.kvt.antifuse.isSome = true ∧ u.free = s.free + 2) ∧
      u.kvt = { s.kvt with slots := [], cache := [], wrapped := [], cmd := none, waiting := [], journal := [], burns := 0, burnZero := false,
                           burnStarted := false, drbgReqs := 0, scan := false, derived := false, sick := false, answer := none,
                           antifuse := u.kvt.antifuse } ∧
      u = { s with regs := u.regs, evt := u.evt, sup := { s.sup with failPin := u.sup.failPin }, kvt := u.kvt, free := u.free }) ∧
  (∀ s : State, s.kvt.scan = true → ∃ v, v = { s with upd := { s.upd with waits := none } } ∧
    ∃ w, w = v.secStart ∧ exec .debugScanEnd s = .next (State.updResume { w with upd := s.upd })) ∧
  (∀ s : State, s.kvt.scan = false → exec .debugScanEnd s = .next s)

/-- PRC and TST (R360 to R362, R331, R336, R339, R457, R460 to R466, R500). Which processor takes a packet, in which context; the work of each
kind of queue, what the firmware gives SLV, and the hints it sets; DIOs, their octets and times; the repair; which tests are refused; a test's
phases, its banks, its result and its abort; TAP instructions; the temperature and its maximum.
The model's own choices in it: log entries 69, 76, 77, 78, 116, 146, 155, 156.
Completes: prcPacket, trickleTimer, rplRepair, tstStart, tstPhaseDone, tapInstructionLoad, tapReset, tempSample. -/
def Obligations.ProcessorsAndTests : Prop :=
  (∀ (s : State) (t : Time) (q : Nat) (c : PrcCtx) (w : PrcWork), s.prcRuns c.proc = false → exec (.prcPacket t q c w) s = .next (s.at t)) ∧
  (∀ (s v : State) (t : Time) (q : Nat) (c : PrcCtx) (w : PrcWork), s.prcRuns c.proc = true → v = (s.at t).prcEnter c →
    16 ≤ q ∨ v.prcServes c.proc q = false → exec (.prcPacket t q c w) s = .next v) ∧
  (∀ (s v u : State) (t : Time) (q : Nat) (c : PrcCtx) (w : PrcWork), s.prcRuns c.proc = true → v = (s.at t).prcEnter c →
    q < 16 → v.prcServes c.proc q = true → v.takePkt (65584 + q) (.init .prc) = (none, u) → exec (.prcPacket t q c w) s = .next u) ∧
  (∀ (s v u : State) (t : Time) (q st : Nat) (c : PrcCtx) (w : PrcWork) (x : Pkt), s.prcRuns c.proc = true → v = (s.at t).prcEnter c →
    q < 16 → v.prcServes c.proc q = true →
    v.takePkt (65584 + q) (.init .prc) = (some st, u) → u.qmg.pkts.find st = some x →
    exec (.prcPacket t q c w) s = .next (u.prcWork { init := .prc, prcSecure := c.secure } (u.fld (F.PRC_QCFGq_WORK q)) st x w)) ∧
  (∀ (s : State) (p q : Nat), s.prcServes p q = true ↔ s.prcRuns p = true ∧
    (s.fld (F.PRC_QCFGq_PROC q) = p ∨ s.on (F.PRC_QCFGq_SHARE q) = true ∨
      bit (s.fld F.PRC_STATUS_HELD) (s.fld (F.PRC_QCFGq_PROC q)) = true ∧ (List.range 4).find? (fun i => s.prcRuns i) = some p)) ∧
  (∀ (s : State) (p : Nat), s.prcRuns p = true ↔ bit (s.fld F.PRC_STATUS_RUN) p = true ∧ s.pausing = false ∧ p ∉ s.sup.prcHalt) ∧
  (∀ (s u : State) (p : Nat) (b : Bool), p < 4 → b = true ∨ s.sup.haltWait.contains p = false → u = s.prcEnter ⟨p, b, []⟩ →
    (∀ k < 4, bit (u.fld F.PRC_STATUS_SECCTX) k = if k = p then b else bit (s.fld F.PRC_STATUS_SECCTX) k) ∧
      s.regsBut u [Reg.PRC_STATUS] ∧ u = { s with regs := u.regs }) ∧
  (∀ (s u : State) (p : Nat) (l : List DataAcc), p < 4 → s.sup.haltWait.contains p = true → u = s.prcEnter ⟨p, false, l⟩ →
    bit (u.fld F.PRC_STATUS_SECCTX) p = false ∧ u.sup.prcHalt.contains p = true ∧
      u.sup.haltWait.contains p = false ∧ u.prcRuns p = false ∧ (s.sysOn → u.isPend 5 = true) ∧ s.regsEvt u [Reg.PRC_STATUS]) ∧
  (∀ (s v : State) (p : Nat) (b : Bool) (l : List DataAcc) (a : DataAcc), p < 4 → b = true ∨ s.sup.haltWait.contains p = false →
    s.sup.prcHalt.contains p = false → v = s.prcEnter ⟨p, b, l⟩ →
    s.prcEnter ⟨p, b, l ++ [a]⟩ = if v.tagFaults b a.region then v.xwFault { init := .prc, prcSecure := b } a.region 23 a.addr a.wr else v) ∧
  (∀ (s u : State) (rq : Req) (st : Nat) (p : Pkt), u = s.prcWork rq 0 st p (.uplink none) →
    ∃ v, v = State.endPkt { s.bump Ctr.PRC_DECFAIL with prc := { s.prc with decFails := s.prc.decFails + 1 } } st (.drop 7) ∧
      u = v.fireIf (s.prc.decFails + 1 == s.fld F.PRC_THR_DECTHR) 242) ∧
  (∀ (s : State) (rq : Req) (st : Nat) (p : Pkt) (l : List Octet), hops l ≤ 1 →
    s.prcWork rq 0 st p (.uplink (some l)) = (((s.bump Ctr.PRC_DECOMP).bump Ctr.PRC_HOPLIM).endPkt st (.drop 10)).fire 246) ∧
  (∀ (s : State) (rq : Req) (st : Nat) (p : Pkt) (l : List Octet), 1 < hops l →
    ∃ v, v = ((s.bump Ctr.PRC_DECOMP).updPkt st (fun x => { x with data := lessHop l })).setHint st p (beNat (slice l 8 16)) ∧
      s.prcWork rq 0 st p (.uplink (some l)) = { v with qmg := { v.qmg with intake := v.qmg.intake ++ [st] } }) ∧
  (∀ (l : List Octet), 7 < l.length → 1 < hops l → hops (lessHop l) + 1 = hops l ∧ (lessHop l).length = l.length ∧
    (∀ k < l.length, k ≠ 7 → (lessHop l).getD k 0 = l.getD k 0)) ∧
  (∀ (s : State) (st src : Nat) (p : Pkt), p.src ≠ 0 ∨ p.info.eui = none ∨ src / 2 ^ 118 = 0x3FA → s.setHint st p src = s) ∧
  (∀ (s : State) (st src eui : Nat) (p : Pkt), p.src = 0 → p.info.eui = some eui → src / 2 ^ 118 ≠ 0x3FA → s.hintDirect src eui = true →
    s.setHint st p src = (s.updPkt st (fun x => { x with info := { x.info with hint := some .direct } })).bump Ctr.PRC_HINTD) ∧
  (∀ (s : State) (st src eui : Nat) (p : Pkt), p.src = 0 → p.info.eui = some eui → src / 2 ^ 118 ≠ 0x3FA → s.hintDirect src eui = false →
    s.setHint st p src = match (List.range 16).find? (fun q => s.fld (F.PRC_QCFGq_WORK q) == 2) with
      | some q => (s.updPkt st (fun x => { x with info := { x.info with hint := some (.relayed q) } })).bump Ctr.PRC_HINTR
      | none => s) ∧
  (∀ (s : State) (rq : Req) (st : Nat) (p : Pkt) (f : List Octet), p.src ≠ 0 → p.src ≠ 1 → hops p.data ≤ 1 →
    s.prcWork rq 1 st p (.downlink f) = (State.fire ((s.bump Ctr.PRC_HOPLIM).endPkt st (.drop 10)) 246)) ∧
  (∀ (s : State) (rq : Req) (st : Nat) (p : Pkt) (f : List Octet) (r : List Nat), p.src ≠ 0 → p.src ≠ 1 → hops p.data ≤ 1 →
    s.prcWork rq 2 st p (.relayed r f) = (State.fire ((s.bump Ctr.PRC_HOPLIM).endPkt st (.drop 10)) 246)) ∧
  (∀ (s : State) (rq : Req) (st : Nat) (p : Pkt) (f : List Octet), p.src = 0 ∨ p.src = 1 ∨ 1 < hops p.data →
    s.prcWork rq 1 st p (.downlink f) = (match p.info.node with | some n => s.toNode st p n f | none => s.endPkt st .deliv)) ∧
  (∀ (s : State) (rq : Req) (st : Nat) (p : Pkt) (r : List Nat) (f : List Octet), p.src = 0 ∨ p.src = 1 ∨ 1 < hops p.data →
    s.prcWork rq 2 st p (.relayed r f) = if s.routeOk r then (s.bump Ctr.PRC_SRCRT).toNode st p (r.headD 0) f else s.endPkt st (.drop 7)) ∧
  (∀ (s : State) (l : List Nat), s.routeOk l = true ↔ l ≠ [] ∧ (s.nodeRec (l.headD 0)).isSome = true ∧
    ∀ i < l.length - 1, (s.prc.parents.getD' (l.getD (i + 1) 0) []).contains (l.getD i 0) = true) ∧
  (∀ (s : State) (st n : Nat) (p : Pkt) (f : List Octet), s.nodeRec n = none → s.toNode st p n f = s.endPkt st (.drop 1)) ∧
  (∀ (s : State) (st n : Nat) (p : Pkt) (f : List Octet) (r : Nat × Nbr), s.nodeRec n = some r → cellsFor f.length ≤ p.cells.length →
    s.toNode st p n f = ((s.updPkt st (fun x => { x with data := f })).bump Ctr.PRC_COMP).pushPkt r.1 (.hw 23 0) st) ∧
  (∀ (s : State) (st n : Nat) (p : Pkt) (f : List Octet) (r : Nat × Nbr), s.nodeRec n = some r → p.cells.length < cellsFor f.length →
    9216 < f.length → s.toNode st p n f = s.endPkt st (.drop 7)) ∧
  (∀ (s : State) (st n : Nat) (p : Pkt) (f : List Octet) (r : Nat × Nbr), s.nodeRec n = some r → p.cells.length < cellsFor f.length →
    f.length ≤ 9216 → ∃ x, x = (s.endPkt st .deliv).acceptPkt 7 (cellsFor f.length) f (.init .prc) p.info ∧
      (x.1 = none → s.toNode st p n f = x.2) ∧ (∀ c, x.1 = some c → s.toNode st p n f = (x.2.bump Ctr.PRC_COMP).pushPkt r.1 (.hw 23 0) c)) ∧
  (∀ (s : State) (rq : Req) (w st : Nat) (p : Pkt) (x : PrcWork), w ∈ [3, 5, 6, 7, 8] ∨ w < 9 ∧ x = .consume →
    s.prcWork rq w st p x = s.endPkt st .deliv) ∧
  (∀ (s : State) (rq : Req) (w st : Nat) (p : Pkt) (x : PrcWork) (q : Option (List Octet)) (f : List Octet) (r : List Nat)
      (o : Option (Nat × List Nat)) (l : List LinkCmd),
    (w, x) ∈ [(0, .downlink f), (0, .relayed r f), (0, .rpl o l), (1, .uplink q), (1, .relayed r f), (1, .rpl o l), (2, .uplink q),
      (2, .downlink f), (2, .rpl o l), (4, .uplink q), (4, .downlink f), (4, .relayed r f)] → s.prcWork rq w st p x = s.endPkt st .deliv) ∧
  (∀ (s : State) (rq : Req) (w st : Nat) (p : Pkt) (x : PrcWork), 9 ≤ w → s.prcWork rq w st p x = s.endPkt st (.drop 7)) ∧
  (∀ (s : State) (rq : Req) (st : Nat) (p : Pkt) (dao : Option (Nat × List Nat)), s.prcWork rq 4 st p (.rpl dao []) =
    State.endPkt (match dao with | none => s | some (n, ps) => s.daoIn n ps) st .deliv) ∧
  (∀ (s : State) (rq : Req) (st : Nat) (p : Pkt) (dao : Option (Nat × List Nat)) (l : List LinkCmd),
    ∃ v, v = l.foldl (fun (u : State) x => u.prcLink rq x) (match dao with | none => s | some (n, ps) => s.daoIn n ps) ∧
      s.prcWork rq 4 st p (.rpl dao l) = v.endPkt st .deliv) ∧
  (∀ (s : State) (rq : Req) (l : LinkCmd), s.barred rq Reg.SLV_CMD none = none →
    s.prcLink rq l = (s.setRegs (Reg.SLV_DATAw 0) (packWords 8 l.data)).slvWrite rq 5 l.node l.tag) ∧
  (∀ (s : State) (rq : Req) (l : LinkCmd), (s.barred rq Reg.SLV_CMD none).isSome = true → s.prcLink rq l = s.slvWrite rq 5 l.node l.tag) ∧
  (∀ (s u : State) (n : Nat) (ps : List Nat), s.prc.parents.length < 262144 ∨ (s.prc.parents.find n).isSome = true → u = s.daoIn n ps →
    u.ctr Ctr.PRC_DAO = (s.ctr Ctr.PRC_DAO + 1) % 2 ^ 48 ∧ s.regsBut u (halves Ctr.PRC_DAO) ∧
      u = { s with regs := u.regs, prc := { s.prc with parents := s.prc.parents.put n (ps.take 3) } }) ∧
  (∀ (s : State) (n : Nat) (ps : List Nat), 262144 ≤ s.prc.parents.length → s.prc.parents.find n = none →
    (s.daoIn n ps).prc = s.prc ∧ (s.daoIn n ps).ctr Ctr.PRC_DAOFULL = (s.ctr Ctr.PRC_DAOFULL + 1) % 2 ^ 48 ∧
    (s.daoIn n ps).ctr Ctr.PRC_DAO = (s.ctr Ctr.PRC_DAO + 1) % 2 ^ 48 ∧ (s.sysOn → (s.daoIn n ps).isPend 243 = true)) ∧
  (∀ (s : State) (t : Time) (d : Dio), s.fld F.PRC_STATUS_RUN = 0 ∨ t.ft < s.prc.trickleFt + s.trickleLen / 2 →
    exec (.trickleTimer t d) s = .next (s.at t)) ∧
  (∀ (s : State) (t : Time) (d : Dio), s.fld F.PRC_STATUS_RUN ≠ 0 → s.prc.trickleFt + s.trickleLen / 2 ≤ t.ft →
    ∃ u, u = { s.at t with prc := { s.prc with
        trickle := min (s.prc.trickle + 1) (s.fld F.PRC_RPLCFG_DOUBL), trickleFt := max t.ft (s.prc.trickleFt + s.trickleLen) } } ∧
      exec (.trickleTimer t d) s = .next
        ((u.acceptPkt 7 (cellsFor (s.dioOctets d).length) (s.dioOctets d) (.init .prc) { kind := 7 }).2.bump Ctr.PRC_DIO)) ∧
  (∀ s : State, s.trickleLen = 1000 * 2 ^ (s.fld F.PRC_RPLCFG_IMIN + s.prc.trickle)) ∧
  (∀ (s : State) (d : Dio) (l : List Octet) (h : Nat), l = s.dioOctets d → h = d.head.length →
    l.take h = d.head ∧ beNat (slice l h 1) = s.fld F.PRC_RPLCFG_INSTANCE % 256 ∧ beNat (slice l (h + 1) 1) = s.fld F.PRC_RPLVER_VERSION % 256 ∧
    beNat (slice l (h + 4) 1) / 8 % 8 = 1 ∧ slice l (h + 8) 16 = s.octRun (Reg.PRC_RPLIDk 0) 4 ∧ slice l (h + 24) 2 = [4, 14] ∧
    beNat (slice l (h + 27) 1) = s.fld F.PRC_RPLCFG_DOUBL % 256 ∧ beNat (slice l (h + 28) 1) = s.fld F.PRC_RPLCFG_IMIN % 256 ∧
    beNat (slice l (h + 34) 2) = s.fld F.PRC_RPLCFG_OCP % 65536) ∧
  (∀ (s v : State) (rq : Req), s.barred rq Reg.PRC_RPLCMD (some 1) = none → v = s.took rq Reg.PRC_RPLCMD 1 →
    ∃ u, exec (.rplRepair rq) s = .next u ∧ u.fld F.PRC_RPLVER_VERSION = (v.fld F.PRC_RPLVER_VERSION + 1) % 256 ∧
      (v.sysOn → u.isPend 244 = true) ∧ v.regsEvt u [Reg.PRC_RPLVER] ∧
      u = { v with regs := u.regs, evt := u.evt, prc := { v.prc with trickle := 0, trickleFt := v.gtb.ft } }) ∧
  (∀ (s v : State) (t : Time) (rq : Req) (p : Nat) (w : Word) (c : AccCause) (i : Instr),
    (p, w, v, i) ∈ [(Reg.TST_CMD, w, s.at t, Instr.tstStart t rq w), (Reg.PRC_RPLCMD, 1, s, .rplRepair rq)] →
    v.barred rq p (some w) = some c → exec i s = .next ((v.recordFault rq c true p 15).respond [] false)) ∧
  (∀ (s v : State) (t : Time) (rq : Req) (w : Word), s.barred rq Reg.TST_CMD (some w) = none → v = (s.at t).took rq Reg.TST_CMD w →
    v.on F.TST_STATUS_BUSY = true → exec (.tstStart t rq w) s = .next v) ∧
  (∀ (s v : State) (t : Time) (rq : Req) (w : Word) (o : Nat), s.barred rq Reg.TST_CMD (some w) = none → v = (s.at t).took rq Reg.TST_CMD w →
    v.on F.TST_STATUS_BUSY = false → v.testRefusal w = some o →
    ∃ u, exec (.tstStart t rq w) s = .next u ∧ u.fld F.TST_RESULT_OUTCOME = o ∧ u.fld F.TST_RESULT_TAG = F.TST_CMD_TAG.ext w ∧
      u.ctr Ctr.TST_REFUSED = (v.ctr Ctr.TST_REFUSED + 1) % 2 ^ 48 ∧ (v.sysOn → u.isPend 250 = true) ∧
      v.regsEvt u (Reg.TST_RESULT :: halves Ctr.TST_REFUSED) ∧ u = { v with regs := u.regs, evt := u.evt }) ∧
  (∀ (s v : State) (t : Time) (rq : Req) (w : Word), s.barred rq Reg.TST_CMD (some w) = none → v = (s.at t).took rq Reg.TST_CMD w →
    v.on F.TST_STATUS_BUSY = false → v.testRefusal w = none → exec (.tstStart t rq w) s = .next (v.testStart t w)) ∧
  (∀ (s u : State) (t : Time) (w : Word) (d : Nat), d = F.TST_CMD_DOMAIN.ext w → testable d = true → s.pwr.doms.length = 21 →
    u = s.testStart t w → u.fld F.TST_STATUS_PHASE = 1 ∧ u.fld F.TST_STATUS_DOMAIN = d ∧ u.on F.TST_STATUS_BUSY = true ∧
      u.tst = { s.tst with run := some { dom := d, lbist := F.TST_CMD_LBIST.ext w == 1, mbist := F.TST_CMD_MBIST.ext w == 1,
                                         tag := F.TST_CMD_TAG.ext w, back := (s.dom d).heading } } ∧
      (u.dom d).seq = .testing (s.dom d).heading ∧ (u.dom d).mode = (s.dom d).mode ∧
      u.ctr Ctr.TST_RUNS = (s.ctr Ctr.TST_RUNS + 1) % 2 ^ 48 ∧ u.reg Reg.TST_EXP = BitVec.ofNat 32 (expectedSig d) ∧
      (d = 16 → u.kvtState = 0 ∧ u.kvt.slots = [] ∧ u.kvt.cache = [] ∧ u.kvt.wrapped = [] ∧ u.kvt.derived = false)) ∧
  (∀ (s u : State) (t : Time) (w : Word), F.TST_CMD_DOMAIN.ext w = 11 → (s.dom 11).mode = .off → s.pwr.doms.length = 21 →
    u = s.testStart t w → s.regsBut u ([Reg.TST_EXP, Reg.TST_STATUS] ++ halves Ctr.TST_RUNS)) ∧
  (∀ d : Nat, (testable d = true ↔ 2 ≤ d ∧ d ≤ 16 ∨ d = 19 ∨ d = 20) ∧
    (2 ≤ d → d ≤ 9 → expectedSig d = 0x5C1E92A7) ∧ (10 ≤ d → d ≤ 13 → expectedSig d = 0x0B73D4E1)) ∧
  (∀ d : Nat, (d, expectedSig d) ∈ [(14, 0x9A206F3C), (15, 0x37E81B05), (16, 0xC4D97A62), (19, 0x6F15E8D0), (20, 0x2A8C4B19)] ∨
    d ∉ [14, 15, 16, 19, 20]) ∧
  (∀ (s : State) (w : Word) (d : Nat), d = F.TST_CMD_DOMAIN.ext w →
    s.testRefusal w = (if testable d = false then some 4
      else if F.TST_CMD_LBIST.ext w = 0 ∧ F.TST_CMD_MBIST.ext w = 0 then some 6
      else if s.testBarred d = true then some 2
      else if F.TST_CMD_FORCE.ext w = 0 ∧ s.testInUse d = true then some 3 else none)) ∧
  (∀ (s : State) (d : Nat), s.testBarred d = true ↔ 6 ≤ s.updState ∧ s.updState ≤ 9 ∨ s.pwr.mode ≠ .service ∨
    d = 16 ∧ s.on F.KVT_CFG_APPROVED = true ∨ d = 2 ∧ s.level = 1) ∧
  (∀ (s : State) (n : Nat), n < 4 → s.testInUse (10 + n) = (s.link n == 4)) ∧
  (∀ s : State, (s.testInUse 19 = true ↔ ∃ n < 4, s.portUp n = true) ∧ (s.testInUse 20 = true ↔ ∃ p < 4, (s.i3 p).next.isSome = true) ∧
    s.testInUse 14 = false ∧ s.testInUse 15 = false ∧ s.testInUse 16 = false) ∧
  (∀ (s : State) (g : Nat), g < 8 → (s.testInUse (2 + g) = true ↔ ∃ k < 64, s.hunterOn (64 * g + k) = true ∧
    s.sliceOn (s.hunterSlice (64 * g + k) / 128) (s.hunterSlice (64 * g + k) % 128) = true ∧ s.link (s.hunterSlice (64 * g + k) / 128) = 4)) ∧
  (∀ (s : State) (t : Time) (r : PhaseRes), s.tst.run = none → exec (.tstPhaseDone t r) s = .next (s.at t)) ∧
  (∀ (s : State) (t : Time) (x : PhaseRes) (r : TestRun), s.tst.run = some r → s.fld F.TST_STATUS_PHASE = 1 → s.drained r.dom = false →
    exec (.tstPhaseDone t x) s = .next (s.at t)) ∧
  (∀ (s : State) (t : Time) (x : PhaseRes) (r : TestRun), s.tst.run = some r → s.fld F.TST_STATUS_PHASE = 1 → s.drained r.dom = true →
    0 ∉ s.testBanks r.dom x.bad → exec (.tstPhaseDone t x) s = .next (State.setFld
      ((s.testBanks r.dom x.bad).foldl (fun (u : State) b => (u.bankFail r.dom b).recoverBank b) (s.at t)) F.TST_STATUS_PHASE 2)) ∧
  (∀ (s : State) (t : Time) (x : PhaseRes) (r : TestRun), s.tst.run = some r → s.fld F.TST_STATUS_PHASE = 1 → s.drained r.dom = true →
    0 ∈ s.testBanks r.dom x.bad → exec (.tstPhaseDone t x) s = .next (State.becomeStart
      ((s.testBanks r.dom x.bad).foldl (fun (u : State) b => (u.bankFail r.dom b).recoverBank b) (s.at t)))) ∧
  (∀ (s : State) (d b : Nat) (l : List Nat), b ∈ s.testBanks d l ↔ b ∈ l ∧ bankOf d b = true ∧
    ((s.dom d).mode = .ret ∨ (s.dom d).mode = .off ∧ b = 0)) ∧
  (∀ (s : State) (t : Time) (x : PhaseRes) (r : TestRun), s.tst.run = some r → s.fld F.TST_STATUS_PHASE = 2 →
    exec (.tstPhaseDone t x) s = .next ((s.at t).setFld F.TST_STATUS_PHASE (if r.lbist then 3 else 4))) ∧
  (∀ (s : State) (t : Time) (x : PhaseRes) (r : TestRun), s.tst.run = some r → s.fld F.TST_STATUS_PHASE = 3 →
    ∃ u, exec (.tstPhaseDone t x) s = .next u ∧ u.reg Reg.TST_SIG = BitVec.ofNat 32 x.sig ∧
      u.tst.run = some { r with lfail := x.sig % 2 ^ 32 != expectedSig r.dom } ∧
      u.fld F.TST_STATUS_PHASE = (if r.mbist then 4 else 5) ∧ s.regsBut u [Reg.TST_SIG, Reg.TST_STATUS] ∧
      u = { s.at t with regs := u.regs, tst := u.tst }) ∧
  (∀ (s : State) (t : Time) (x : PhaseRes) (r : TestRun), s.tst.run = some r → s.fld F.TST_STATUS_PHASE = 4 →
    ∃ u, exec (.tstPhaseDone t x) s = .next u ∧ u.tst.run = some { r with bad := x.bad } ∧ u.fld F.TST_STATUS_PHASE = 5 ∧
      s.regsBut u [Reg.TST_STATUS] ∧ u = { s.at t with regs := u.regs, tst := u.tst }) ∧
  (∀ (s : State) (t : Time) (x : PhaseRes) (r : TestRun), s.tst.run = some r → s.fld F.TST_STATUS_PHASE = 5 → 0 ∈ x.bad →
    exec (.tstPhaseDone t x) s = .next (s.at t).becomeStart) ∧
  (∀ (s : State) (t : Time) (x : PhaseRes) (r : TestRun), s.tst.run = some r → s.fld F.TST_STATUS_PHASE = 5 → 0 ∉ x.bad → r.lfail = false →
    r.bad = [] → exec (.tstPhaseDone t x) s = .next
      ((((((s.at t).testReturn t r).testIdle).testResult 0 r.tag false []).bump Ctr.TST_PASS).fire 248)) ∧
  (∀ (s : State) (t : Time) (x : PhaseRes) (r : TestRun), s.tst.run = some r → s.fld F.TST_STATUS_PHASE = 5 → 0 ∉ x.bad →
    r.lfail = true ∨ r.bad ≠ [] → exec (.tstPhaseDone t x) s = .next
      (((((((s.at t).testReturn t r).testIdle).testResult 1 r.tag r.lfail r.bad).bump Ctr.TST_FAIL).fire 248).fire 249)) ∧
  (∀ (s : State) (o tag : Nat) (b : Bool) (l : List Nat), o < 16 → tag < 256 →
    ∃ u, u = s.testResult o tag b l ∧ u.fld F.TST_RESULT_OUTCOME = o ∧ u.fld F.TST_RESULT_TAG = tag ∧ u.on F.TST_RESULT_LFAIL = b ∧
      u.on F.TST_RESULT_MFAIL = !l.isEmpty ∧ s.regsBut u [Reg.TST_RESULT] ∧ u = { s with regs := u.regs }) ∧
  (∀ (s : State) (t : Time) (r : TestRun), testable r.dom = true → s.pwr.doms.length = 21 → (s.dom r.dom).latched = none →
    ∃ u, u = s.testReturn t r ∧ (u.dom r.dom).mode = r.back ∧ (u.dom r.dom).seq = .idle ∧ (s.sysOn → u.isPend 12 = true) ∧
      (r.dom = 16 → u.kvtState = 0)) ∧
  (∀ s : State, s.tst.run = none → s.testAbort = s) ∧
  (∀ (s : State) (r : TestRun), s.tst.run = some r → testable r.dom = true → r.tag < 256 →
    ∃ u, u = s.testAbort ∧ u.tst.run = none ∧ u.reg Reg.TST_STATUS = 0 ∧ u.fld F.TST_RESULT_OUTCOME = 5 ∧ u.fld F.TST_RESULT_TAG = r.tag ∧
      (s.sysOn → u.isPend 250 = true)) ∧
  (∀ (s : State) (i : TapInstr), i ∈ [TapInstr.extest, .clamp, .highz, .extestPulse, .extestTrain] → s.level = 0 →
    ∃ u, exec (.tapInstructionLoad i) s = .next u ∧ (s.sysOn → u.isPend 251 = true) ∧ u.sl1Ready = false ∧ s.regsEvt u [] ∧
      u = { s with regs := u.regs, evt := u.evt, tst := { s.tst with tap := i } }) ∧
  (∀ (s : State) (i : TapInstr), i ∈ [TapInstr.extest, .clamp, .highz, .extestPulse, .extestTrain] → s.level ≠ 0 →
    ∃ u, exec (.tapInstructionLoad i) s = .next u ∧ u.ctr Ctr.TST_BSIGN = (s.ctr Ctr.TST_BSIGN + 1) % 2 ^ 48 ∧
      (s.sysOn → u.isPend 250 = true) ∧ s.regsEvt u (halves Ctr.TST_BSIGN) ∧
      u = { s with regs := u.regs, evt := u.evt, tst := { s.tst with tap := .bypass } }) ∧
  (∀ (s : State) (i : TapInstr), i ∈ [TapInstr.bypass, .idcode, .sample] →
    exec (.tapInstructionLoad i) s = .next { s with tst := { s.tst with tap := i } }) ∧
  (∀ s : State, exec (.tapInstructionLoad .debug) s = .next { s with tst := { s.tst with
    tap := if F.CHIP_WMAP1_DBG.ext (s.wmap Reg.CHIP_WMAP1) = 0 then .bypass else .debug } }) ∧
  (∀ s : State, exec .tapReset s = .next { s with tst := { s.tst with tap := .bypass } }) ∧
  (∀ (s : State) (x : Int), s.domReady 1 = true → -128 ≤ x → x < 128 →
    ∃ u, exec (.tempSample x) s = .next u ∧ signed 8 (u.fld F.CHIP_TEMP_TEMP) = x ∧ u.on F.CHIP_TEMP_VALID = true ∧
      signed 8 (u.fld F.CHIP_TEMP_MAX) = (if s.on F.CHIP_TEMP_VALID then max x (signed 8 (s.fld F.CHIP_TEMP_MAX)) else x) ∧
      s.regsBut u [Reg.CHIP_TEMP] ∧ u = { s with regs := u.regs }) ∧
  (∀ (s : State) (x : Int), s.domReady 1 = false → exec (.tempSample x) s = .next s)

/-- Slots of a mains cycle (R70): the slot index and number, and where each slot begins. -/
def Obligations.GridSlots : Prop :=
  (∀ spc gt : Nat, slotIdx spc gt = gfr gt * spc / 2 ^ 24 ∧ gsnOf spc gt = (gcn gt * spc + slotIdx spc gt) % 2 ^ 32) ∧
  (∀ spc gt k : Nat, 1 ≤ spc → spc ≤ 6 → k < spc →
    (slotIdx spc gt = k ↔ slotStart spc k ≤ gfr gt ∧ gfr gt < slotStart spc (k + 1))) ∧
  (∀ spc k : Nat, 1 ≤ spc → spc ≤ 6 → k * 16777216 ≤ slotStart spc k * spc ∧ slotStart spc k * spc < k * 16777216 + spc) ∧
  (∀ s : State, 1 ≤ s.fld F.GTB_CFG_SPC → s.fld F.GTB_CFG_SPC ≤ 6 → s.gsn = gsnOf (s.fld F.GTB_CFG_SPC) s.gtb.gt)

/-- Which staged set goes with the running set (R347), and what the verification of a package makes of it: one whose set is not
compatible fails as INCOMPAT with the running HLV (R349), one whose set is compatible never does. -/
def Obligations.SetsCompatible : Prop :=
  (∀ a b : FwSet, compatible a b = true ↔ a.hlvmin ≤ b.hlv ∧ b.hlvmin ≤ a.hlv) ∧
  (∀ (s : State) (img : List Octet) (bank : Nat) (r : FwSet), s.upd.run = some r →
    match s.pkgCheck img with
    | .inl e => s.pkgVerify img bank = .inl e
    | .inr (h, l, _) => ((pkgSet bank h l).hlvmin ≤ r.hlv ∧ r.hlvmin ≤ (pkgSet bank h l).hlv ∨ s.pkgVerify img bank = .inl (11, r.hlv)) ∧
        ((pkgSet bank h l).hlvmin ≤ r.hlv ∧ r.hlvmin ≤ (pkgSet bank h l).hlv → ∀ e, s.pkgVerify img bank = .inl e → e.1 = 12))
end

