-- ==== Sys2Proof/Laws/State.lean ====
section
/-! SUPPORT. Laws of the shared operations: what each leaves alone, field by field, and what the register file reads as after a
write. -/

namespace Sys2Proof.Machine

/-- Two states with equal fields are equal. -/
theorem State.ext_fields {s t : State} (h0 : s.pending = t.pending) (h1 : s.regs = t.regs) (h2 : s.active = t.active) (h3 : s.staged = t.staged) (h4 : s.holding = t.holding) (h5 : s.free = t.free) (h6 : s.evt = t.evt) (h7 : s.pwr = t.pwr) (h8 : s.sup = t.sup) (h9 : s.gtb = t.gtb) (h10 : s.rfp = t.rfp) (h11 : s.dmx = t.dmx) (h12 : s.cdc = t.cdc) (h13 : s.sic = t.sic) (h14 : s.qmg = t.qmg) (h15 : s.bgt = t.bgt) (h16 : s.kvt = t.kvt) (h17 : s.msq = t.msq) (h18 : s.slv = t.slv) (h19 : s.fwd = t.fwd) (h20 : s.csc = t.csc) (h21 : s.lgc = t.lgc) (h22 : s.hif = t.hif) (h23 : s.mem = t.mem) (h24 : s.prc = t.prc) (h25 : s.flash = t.flash) (h26 : s.cfg = t.cfg) (h27 : s.upd = t.upd) (h28 : s.tst = t.tst) (h29 : s.told = t.told) (h30 : s.inbox = t.inbox) (h31 : s.i3inbox = t.i3inbox) : s = t := by
  cases s
  cases t
  simp_all

/-! ### setReg -/

/-- `setReg` changes nothing but regs. -/
theorem State.setReg_frame (s : State) (a : Nat) (v : Word) :
    s.setReg a v = { s with regs := (s.setReg a v).regs } := rfl

@[simp] theorem State.setReg_pending (s : State) (a : Nat) (v : Word) : (s.setReg a v).pending = s.pending := rfl
@[simp] theorem State.setReg_active (s : State) (a : Nat) (v : Word) : (s.setReg a v).active = s.active := rfl
@[simp] theorem State.setReg_staged (s : State) (a : Nat) (v : Word) : (s.setReg a v).staged = s.staged := rfl
@[simp] theorem State.setReg_holding (s : State) (a : Nat) (v : Word) : (s.setReg a v).holding = s.holding := rfl
@[simp] theorem State.setReg_free (s : State) (a : Nat) (v : Word) : (s.setReg a v).free = s.free := rfl
@[simp] theorem State.setReg_evt (s : State) (a : Nat) (v : Word) : (s.setReg a v).evt = s.evt := rfl
@[simp] theorem State.setReg_pwr (s : State) (a : Nat) (v : Word) : (s.setReg a v).pwr = s.pwr := rfl
@[simp] theorem State.setReg_sup (s : State) (a : Nat) (v : Word) : (s.setReg a v).sup = s.sup := rfl
@[simp] theorem State.setReg_gtb (s : State) (a : Nat) (v : Word) : (s.setReg a v).gtb = s.gtb := rfl
@[simp] theorem State.setReg_rfp (s : State) (a : Nat) (v : Word) : (s.setReg a v).rfp = s.rfp := rfl
@[simp] theorem State.setReg_dmx (s : State) (a : Nat) (v : Word) : (s.setReg a v).dmx = s.dmx := rfl
@[simp] theorem State.setReg_cdc (s : State) (a : Nat) (v : Word) : (s.setReg a v).cdc = s.cdc := rfl
@[simp] theorem State.setReg_sic (s : State) (a : Nat) (v : Word) : (s.setReg a v).sic = s.sic := rfl
@[simp] theorem State.setReg_qmg (s : State) (a : Nat) (v : Word) : (s.setReg a v).qmg = s.qmg := rfl
@[simp] theorem State.setReg_bgt (s : State) (a : Nat) (v : Word) : (s.setReg a v).bgt = s.bgt := rfl
@[simp] theorem State.setReg_kvt (s : State) (a : Nat) (v : Word) : (s.setReg a v).kvt = s.kvt := rfl
@[simp] theorem State.setReg_msq (s : State) (a : Nat) (v : Word) : (s.setReg a v).msq = s.msq := rfl
@[simp] theorem State.setReg_slv (s : State) (a : Nat) (v : Word) : (s.setReg a v).slv = s.slv := rfl
@[simp] theorem State.setReg_fwd (s : State) (a : Nat) (v : Word) : (s.setReg a v).fwd = s.fwd := rfl
@[simp] theorem State.setReg_csc (s : State) (a : Nat) (v : Word) : (s.setReg a v).csc = s.csc := rfl
@[simp] theorem State.setReg_lgc (s : State) (a : Nat) (v : Word) : (s.setReg a v).lgc = s.lgc := rfl
@[simp] theorem State.setReg_hif (s : State) (a : Nat) (v : Word) : (s.setReg a v).hif = s.hif := rfl
@[simp] theorem State.setReg_mem (s : State) (a : Nat) (v : Word) : (s.setReg a v).mem = s.mem := rfl
@[simp] theorem State.setReg_prc (s : State) (a : Nat) (v : Word) : (s.setReg a v).prc = s.prc := rfl
@[simp] theorem State.setReg_flash (s : State) (a : Nat) (v : Word) : (s.setReg a v).flash = s.flash := rfl
@[simp] theorem State.setReg_cfg (s : State) (a : Nat) (v : Word) : (s.setReg a v).cfg = s.cfg := rfl
@[simp] theorem State.setReg_upd (s : State) (a : Nat) (v : Word) : (s.setReg a v).upd = s.upd := rfl
@[simp] theorem State.setReg_tst (s : State) (a : Nat) (v : Word) : (s.setReg a v).tst = s.tst := rfl
@[simp] theorem State.setReg_told (s : State) (a : Nat) (v : Word) : (s.setReg a v).told = s.told := rfl
@[simp] theorem State.setReg_inbox (s : State) (a : Nat) (v : Word) : (s.setReg a v).inbox = s.inbox := rfl
@[simp] theorem State.setReg_i3inbox (s : State) (a : Nat) (v : Word) : (s.setReg a v).i3inbox = s.i3inbox := rfl

/-! ### setFld -/

/-- `setFld` changes nothing but regs. -/
theorem State.setFld_frame (s : State) (f : Field) (n : Nat) :
    s.setFld f n = { s with regs := (s.setFld f n).regs } := rfl

@[simp] theorem State.setFld_pending (s : State) (f : Field) (n : Nat) : (s.setFld f n).pending = s.pending := rfl
@[simp] theorem State.setFld_active (s : State) (f : Field) (n : Nat) : (s.setFld f n).active = s.active := rfl
@[simp] theorem State.setFld_staged (s : State) (f : Field) (n : Nat) : (s.setFld f n).staged = s.staged := rfl
@[simp] theorem State.setFld_holding (s : State) (f : Field) (n : Nat) : (s.setFld f n).holding = s.holding := rfl
@[simp] theorem State.setFld_free (s : State) (f : Field) (n : Nat) : (s.setFld f n).free = s.free := rfl
@[simp] theorem State.setFld_evt (s : State) (f : Field) (n : Nat) : (s.setFld f n).evt = s.evt := rfl
@[simp] theorem State.setFld_pwr (s : State) (f : Field) (n : Nat) : (s.setFld f n).pwr = s.pwr := rfl
@[simp] theorem State.setFld_sup (s : State) (f : Field) (n : Nat) : (s.setFld f n).sup = s.sup := rfl
@[simp] theorem State.setFld_gtb (s : State) (f : Field) (n : Nat) : (s.setFld f n).gtb = s.gtb := rfl
@[simp] theorem State.setFld_rfp (s : State) (f : Field) (n : Nat) : (s.setFld f n).rfp = s.rfp := rfl
@[simp] theorem State.setFld_dmx (s : State) (f : Field) (n : Nat) : (s.setFld f n).dmx = s.dmx := rfl
@[simp] theorem State.setFld_cdc (s : State) (f : Field) (n : Nat) : (s.setFld f n).cdc = s.cdc := rfl
@[simp] theorem State.setFld_sic (s : State) (f : Field) (n : Nat) : (s.setFld f n).sic = s.sic := rfl
@[simp] theorem State.setFld_qmg (s : State) (f : Field) (n : Nat) : (s.setFld f n).qmg = s.qmg := rfl
@[simp] theorem State.setFld_bgt (s : State) (f : Field) (n : Nat) : (s.setFld f n).bgt = s.bgt := rfl
@[simp] theorem State.setFld_kvt (s : State) (f : Field) (n : Nat) : (s.setFld f n).kvt = s.kvt := rfl
@[simp] theorem State.setFld_msq (s : State) (f : Field) (n : Nat) : (s.setFld f n).msq = s.msq := rfl
@[simp] theorem State.setFld_slv (s : State) (f : Field) (n : Nat) : (s.setFld f n).slv = s.slv := rfl
@[simp] theorem State.setFld_fwd (s : State) (f : Field) (n : Nat) : (s.setFld f n).fwd = s.fwd := rfl
@[simp] theorem State.setFld_csc (s : State) (f : Field) (n : Nat) : (s.setFld f n).csc = s.csc := rfl
@[simp] theorem State.setFld_lgc (s : State) (f : Field) (n : Nat) : (s.setFld f n).lgc = s.lgc := rfl
@[simp] theorem State.setFld_hif (s : State) (f : Field) (n : Nat) : (s.setFld f n).hif = s.hif := rfl
@[simp] theorem State.setFld_mem (s : State) (f : Field) (n : Nat) : (s.setFld f n).mem = s.mem := rfl
@[simp] theorem State.setFld_prc (s : State) (f : Field) (n : Nat) : (s.setFld f n).prc = s.prc := rfl
@[simp] theorem State.setFld_flash (s : State) (f : Field) (n : Nat) : (s.setFld f n).flash = s.flash := rfl
@[simp] theorem State.setFld_cfg (s : State) (f : Field) (n : Nat) : (s.setFld f n).cfg = s.cfg := rfl
@[simp] theorem State.setFld_upd (s : State) (f : Field) (n : Nat) : (s.setFld f n).upd = s.upd := rfl
@[simp] theorem State.setFld_tst (s : State) (f : Field) (n : Nat) : (s.setFld f n).tst = s.tst := rfl
@[simp] theorem State.setFld_told (s : State) (f : Field) (n : Nat) : (s.setFld f n).told = s.told := rfl
@[simp] theorem State.setFld_inbox (s : State) (f : Field) (n : Nat) : (s.setFld f n).inbox = s.inbox := rfl
@[simp] theorem State.setFld_i3inbox (s : State) (f : Field) (n : Nat) : (s.setFld f n).i3inbox = s.i3inbox := rfl

/-! ### setFlag -/

/-- `setFlag` changes nothing but regs. -/
theorem State.setFlag_frame (s : State) (f : Field) (x : Bool) :
    s.setFlag f x = { s with regs := (s.setFlag f x).regs } := rfl

@[simp] theorem State.setFlag_pending (s : State) (f : Field) (x : Bool) : (s.setFlag f x).pending = s.pending := rfl
@[simp] theorem State.setFlag_active (s : State) (f : Field) (x : Bool) : (s.setFlag f x).active = s.active := rfl
@[simp] theorem State.setFlag_staged (s : State) (f : Field) (x : Bool) : (s.setFlag f x).staged = s.staged := rfl
@[simp] theorem State.setFlag_holding (s : State) (f : Field) (x : Bool) : (s.setFlag f x).holding = s.holding := rfl
@[simp] theorem State.setFlag_free (s : State) (f : Field) (x : Bool) : (s.setFlag f x).free = s.free := rfl
@[simp] theorem State.setFlag_evt (s : State) (f : Field) (x : Bool) : (s.setFlag f x).evt = s.evt := rfl
@[simp] theorem State.setFlag_pwr (s : State) (f : Field) (x : Bool) : (s.setFlag f x).pwr = s.pwr := rfl
@[simp] theorem State.setFlag_sup (s : State) (f : Field) (x : Bool) : (s.setFlag f x).sup = s.sup := rfl
@[simp] theorem State.setFlag_gtb (s : State) (f : Field) (x : Bool) : (s.setFlag f x).gtb = s.gtb := rfl
@[simp] theorem State.setFlag_rfp (s : State) (f : Field) (x : Bool) : (s.setFlag f x).rfp = s.rfp := rfl
@[simp] theorem State.setFlag_dmx (s : State) (f : Field) (x : Bool) : (s.setFlag f x).dmx = s.dmx := rfl
@[simp] theorem State.setFlag_cdc (s : State) (f : Field) (x : Bool) : (s.setFlag f x).cdc = s.cdc := rfl
@[simp] theorem State.setFlag_sic (s : State) (f : Field) (x : Bool) : (s.setFlag f x).sic = s.sic := rfl
@[simp] theorem State.setFlag_qmg (s : State) (f : Field) (x : Bool) : (s.setFlag f x).qmg = s.qmg := rfl
@[simp] theorem State.setFlag_bgt (s : State) (f : Field) (x : Bool) : (s.setFlag f x).bgt = s.bgt := rfl
@[simp] theorem State.setFlag_kvt (s : State) (f : Field) (x : Bool) : (s.setFlag f x).kvt = s.kvt := rfl
@[simp] theorem State.setFlag_msq (s : State) (f : Field) (x : Bool) : (s.setFlag f x).msq = s.msq := rfl
@[simp] theorem State.setFlag_slv (s : State) (f : Field) (x : Bool) : (s.setFlag f x).slv = s.slv := rfl
@[simp] theorem State.setFlag_fwd (s : State) (f : Field) (x : Bool) : (s.setFlag f x).fwd = s.fwd := rfl
@[simp] theorem State.setFlag_csc (s : State) (f : Field) (x : Bool) : (s.setFlag f x).csc = s.csc := rfl
@[simp] theorem State.setFlag_lgc (s : State) (f : Field) (x : Bool) : (s.setFlag f x).lgc = s.lgc := rfl
@[simp] theorem State.setFlag_hif (s : State) (f : Field) (x : Bool) : (s.setFlag f x).hif = s.hif := rfl
@[simp] theorem State.setFlag_mem (s : State) (f : Field) (x : Bool) : (s.setFlag f x).mem = s.mem := rfl
@[simp] theorem State.setFlag_prc (s : State) (f : Field) (x : Bool) : (s.setFlag f x).prc = s.prc := rfl
@[simp] theorem State.setFlag_flash (s : State) (f : Field) (x : Bool) : (s.setFlag f x).flash = s.flash := rfl
@[simp] theorem State.setFlag_cfg (s : State) (f : Field) (x : Bool) : (s.setFlag f x).cfg = s.cfg := rfl
@[simp] theorem State.setFlag_upd (s : State) (f : Field) (x : Bool) : (s.setFlag f x).upd = s.upd := rfl
@[simp] theorem State.setFlag_tst (s : State) (f : Field) (x : Bool) : (s.setFlag f x).tst = s.tst := rfl
@[simp] theorem State.setFlag_told (s : State) (f : Field) (x : Bool) : (s.setFlag f x).told = s.told := rfl
@[simp] theorem State.setFlag_inbox (s : State) (f : Field) (x : Bool) : (s.setFlag f x).inbox = s.inbox := rfl
@[simp] theorem State.setFlag_i3inbox (s : State) (f : Field) (x : Bool) : (s.setFlag f x).i3inbox = s.i3inbox := rfl

/-! ### setCtr -/

/-- `setCtr` changes nothing but regs. -/
theorem State.setCtr_frame (s : State) (c n : Nat) :
    s.setCtr c n = { s with regs := (s.setCtr c n).regs } := rfl

@[simp] theorem State.setCtr_pending (s : State) (c n : Nat) : (s.setCtr c n).pending = s.pending := rfl
@[simp] theorem State.setCtr_active (s : State) (c n : Nat) : (s.setCtr c n).active = s.active := rfl
@[simp] theorem State.setCtr_staged (s : State) (c n : Nat) : (s.setCtr c n).staged = s.staged := rfl
@[simp] theorem State.setCtr_holding (s : State) (c n : Nat) : (s.setCtr c n).holding = s.holding := rfl
@[simp] theorem State.setCtr_free (s : State) (c n : Nat) : (s.setCtr c n).free = s.free := rfl
@[simp] theorem State.setCtr_evt (s : State) (c n : Nat) : (s.setCtr c n).evt = s.evt := rfl
@[simp] theorem State.setCtr_pwr (s : State) (c n : Nat) : (s.setCtr c n).pwr = s.pwr := rfl
@[simp] theorem State.setCtr_sup (s : State) (c n : Nat) : (s.setCtr c n).sup = s.sup := rfl
@[simp] theorem State.setCtr_gtb (s : State) (c n : Nat) : (s.setCtr c n).gtb = s.gtb := rfl
@[simp] theorem State.setCtr_rfp (s : State) (c n : Nat) : (s.setCtr c n).rfp = s.rfp := rfl
@[simp] theorem State.setCtr_dmx (s : State) (c n : Nat) : (s.setCtr c n).dmx = s.dmx := rfl
@[simp] theorem State.setCtr_cdc (s : State) (c n : Nat) : (s.setCtr c n).cdc = s.cdc := rfl
@[simp] theorem State.setCtr_sic (s : State) (c n : Nat) : (s.setCtr c n).sic = s.sic := rfl
@[simp] theorem State.setCtr_qmg (s : State) (c n : Nat) : (s.setCtr c n).qmg = s.qmg := rfl
@[simp] theorem State.setCtr_bgt (s : State) (c n : Nat) : (s.setCtr c n).bgt = s.bgt := rfl
@[simp] theorem State.setCtr_kvt (s : State) (c n : Nat) : (s.setCtr c n).kvt = s.kvt := rfl
@[simp] theorem State.setCtr_msq (s : State) (c n : Nat) : (s.setCtr c n).msq = s.msq := rfl
@[simp] theorem State.setCtr_slv (s : State) (c n : Nat) : (s.setCtr c n).slv = s.slv := rfl
@[simp] theorem State.setCtr_fwd (s : State) (c n : Nat) : (s.setCtr c n).fwd = s.fwd := rfl
@[simp] theorem State.setCtr_csc (s : State) (c n : Nat) : (s.setCtr c n).csc = s.csc := rfl
@[simp] theorem State.setCtr_lgc (s : State) (c n : Nat) : (s.setCtr c n).lgc = s.lgc := rfl
@[simp] theorem State.setCtr_hif (s : State) (c n : Nat) : (s.setCtr c n).hif = s.hif := rfl
@[simp] theorem State.setCtr_mem (s : State) (c n : Nat) : (s.setCtr c n).mem = s.mem := rfl
@[simp] theorem State.setCtr_prc (s : State) (c n : Nat) : (s.setCtr c n).prc = s.prc := rfl
@[simp] theorem State.setCtr_flash (s : State) (c n : Nat) : (s.setCtr c n).flash = s.flash := rfl
@[simp] theorem State.setCtr_cfg (s : State) (c n : Nat) : (s.setCtr c n).cfg = s.cfg := rfl
@[simp] theorem State.setCtr_upd (s : State) (c n : Nat) : (s.setCtr c n).upd = s.upd := rfl
@[simp] theorem State.setCtr_tst (s : State) (c n : Nat) : (s.setCtr c n).tst = s.tst := rfl
@[simp] theorem State.setCtr_told (s : State) (c n : Nat) : (s.setCtr c n).told = s.told := rfl
@[simp] theorem State.setCtr_inbox (s : State) (c n : Nat) : (s.setCtr c n).inbox = s.inbox := rfl
@[simp] theorem State.setCtr_i3inbox (s : State) (c n : Nat) : (s.setCtr c n).i3inbox = s.i3inbox := rfl

/-! ### bump -/

/-- `bump` changes nothing but regs. -/
theorem State.bump_frame (s : State) (c n : Nat) :
    s.bump c n = { s with regs := (s.bump c n).regs } := rfl

@[simp] theorem State.bump_pending (s : State) (c n : Nat) : (s.bump c n).pending = s.pending := rfl
@[simp] theorem State.bump_active (s : State) (c n : Nat) : (s.bump c n).active = s.active := rfl
@[simp] theorem State.bump_staged (s : State) (c n : Nat) : (s.bump c n).staged = s.staged := rfl
@[simp] theorem State.bump_holding (s : State) (c n : Nat) : (s.bump c n).holding = s.holding := rfl
@[simp] theorem State.bump_free (s : State) (c n : Nat) : (s.bump c n).free = s.free := rfl
@[simp] theorem State.bump_evt (s : State) (c n : Nat) : (s.bump c n).evt = s.evt := rfl
@[simp] theorem State.bump_pwr (s : State) (c n : Nat) : (s.bump c n).pwr = s.pwr := rfl
@[simp] theorem State.bump_sup (s : State) (c n : Nat) : (s.bump c n).sup = s.sup := rfl
@[simp] theorem State.bump_gtb (s : State) (c n : Nat) : (s.bump c n).gtb = s.gtb := rfl
@[simp] theorem State.bump_rfp (s : State) (c n : Nat) : (s.bump c n).rfp = s.rfp := rfl
@[simp] theorem State.bump_dmx (s : State) (c n : Nat) : (s.bump c n).dmx = s.dmx := rfl
@[simp] theorem State.bump_cdc (s : State) (c n : Nat) : (s.bump c n).cdc = s.cdc := rfl
@[simp] theorem State.bump_sic (s : State) (c n : Nat) : (s.bump c n).sic = s.sic := rfl
@[simp] theorem State.bump_qmg (s : State) (c n : Nat) : (s.bump c n).qmg = s.qmg := rfl
@[simp] theorem State.bump_bgt (s : State) (c n : Nat) : (s.bump c n).bgt = s.bgt := rfl
@[simp] theorem State.bump_kvt (s : State) (c n : Nat) : (s.bump c n).kvt = s.kvt := rfl
@[simp] theorem State.bump_msq (s : State) (c n : Nat) : (s.bump c n).msq = s.msq := rfl
@[simp] theorem State.bump_slv (s : State) (c n : Nat) : (s.bump c n).slv = s.slv := rfl
@[simp] theorem State.bump_fwd (s : State) (c n : Nat) : (s.bump c n).fwd = s.fwd := rfl
@[simp] theorem State.bump_csc (s : State) (c n : Nat) : (s.bump c n).csc = s.csc := rfl
@[simp] theorem State.bump_lgc (s : State) (c n : Nat) : (s.bump c n).lgc = s.lgc := rfl
@[simp] theorem State.bump_hif (s : State) (c n : Nat) : (s.bump c n).hif = s.hif := rfl
@[simp] theorem State.bump_mem (s : State) (c n : Nat) : (s.bump c n).mem = s.mem := rfl
@[simp] theorem State.bump_prc (s : State) (c n : Nat) : (s.bump c n).prc = s.prc := rfl
@[simp] theorem State.bump_flash (s : State) (c n : Nat) : (s.bump c n).flash = s.flash := rfl
@[simp] theorem State.bump_cfg (s : State) (c n : Nat) : (s.bump c n).cfg = s.cfg := rfl
@[simp] theorem State.bump_upd (s : State) (c n : Nat) : (s.bump c n).upd = s.upd := rfl
@[simp] theorem State.bump_tst (s : State) (c n : Nat) : (s.bump c n).tst = s.tst := rfl
@[simp] theorem State.bump_told (s : State) (c n : Nat) : (s.bump c n).told = s.told := rfl
@[simp] theorem State.bump_inbox (s : State) (c n : Nat) : (s.bump c n).inbox = s.inbox := rfl
@[simp] theorem State.bump_i3inbox (s : State) (c n : Nat) : (s.bump c n).i3inbox = s.i3inbox := rfl

/-! ### respond -/

/-- `respond` changes nothing but evt. -/
theorem State.respond_frame (s : State) (l : List Octet) (ok : Bool) :
    s.respond l ok = { s with evt := (s.respond l ok).evt } := rfl

@[simp] theorem State.respond_pending (s : State) (l : List Octet) (ok : Bool) : (s.respond l ok).pending = s.pending := rfl
@[simp] theorem State.respond_regs (s : State) (l : List Octet) (ok : Bool) : (s.respond l ok).regs = s.regs := rfl
@[simp] theorem State.respond_active (s : State) (l : List Octet) (ok : Bool) : (s.respond l ok).active = s.active := rfl
@[simp] theorem State.respond_staged (s : State) (l : List Octet) (ok : Bool) : (s.respond l ok).staged = s.staged := rfl
@[simp] theorem State.respond_holding (s : State) (l : List Octet) (ok : Bool) : (s.respond l ok).holding = s.holding := rfl
@[simp] theorem State.respond_free (s : State) (l : List Octet) (ok : Bool) : (s.respond l ok).free = s.free := rfl
@[simp] theorem State.respond_pwr (s : State) (l : List Octet) (ok : Bool) : (s.respond l ok).pwr = s.pwr := rfl
@[simp] theorem State.respond_sup (s : State) (l : List Octet) (ok : Bool) : (s.respond l ok).sup = s.sup := rfl
@[simp] theorem State.respond_gtb (s : State) (l : List Octet) (ok : Bool) : (s.respond l ok).gtb = s.gtb := rfl
@[simp] theorem State.respond_rfp (s : State) (l : List Octet) (ok : Bool) : (s.respond l ok).rfp = s.rfp := rfl
@[simp] theorem State.respond_dmx (s : State) (l : List Octet) (ok : Bool) : (s.respond l ok).dmx = s.dmx := rfl
@[simp] theorem State.respond_cdc (s : State) (l : List Octet) (ok : Bool) : (s.respond l ok).cdc = s.cdc := rfl
@[simp] theorem State.respond_sic (s : State) (l : List Octet) (ok : Bool) : (s.respond l ok).sic = s.sic := rfl
@[simp] theorem State.respond_qmg (s : State) (l : List Octet) (ok : Bool) : (s.respond l ok).qmg = s.qmg := rfl
@[simp] theorem State.respond_bgt (s : State) (l : List Octet) (ok : Bool) : (s.respond l ok).bgt = s.bgt := rfl
@[simp] theorem State.respond_kvt (s : State) (l : List Octet) (ok : Bool) : (s.respond l ok).kvt = s.kvt := rfl
@[simp] theorem State.respond_msq (s : State) (l : List Octet) (ok : Bool) : (s.respond l ok).msq = s.msq := rfl
@[simp] theorem State.respond_slv (s : State) (l : List Octet) (ok : Bool) : (s.respond l ok).slv = s.slv := rfl
@[simp] theorem State.respond_fwd (s : State) (l : List Octet) (ok : Bool) : (s.respond l ok).fwd = s.fwd := rfl
@[simp] theorem State.respond_csc (s : State) (l : List Octet) (ok : Bool) : (s.respond l ok).csc = s.csc := rfl
@[simp] theorem State.respond_lgc (s : State) (l : List Octet) (ok : Bool) : (s.respond l ok).lgc = s.lgc := rfl
@[simp] theorem State.respond_hif (s : State) (l : List Octet) (ok : Bool) : (s.respond l ok).hif = s.hif := rfl
@[simp] theorem State.respond_mem (s : State) (l : List Octet) (ok : Bool) : (s.respond l ok).mem = s.mem := rfl
@[simp] theorem State.respond_prc (s : State) (l : List Octet) (ok : Bool) : (s.respond l ok).prc = s.prc := rfl
@[simp] theorem State.respond_flash (s : State) (l : List Octet) (ok : Bool) : (s.respond l ok).flash = s.flash := rfl
@[simp] theorem State.respond_cfg (s : State) (l : List Octet) (ok : Bool) : (s.respond l ok).cfg = s.cfg := rfl
@[simp] theorem State.respond_upd (s : State) (l : List Octet) (ok : Bool) : (s.respond l ok).upd = s.upd := rfl
@[simp] theorem State.respond_tst (s : State) (l : List Octet) (ok : Bool) : (s.respond l ok).tst = s.tst := rfl
@[simp] theorem State.respond_told (s : State) (l : List Octet) (ok : Bool) : (s.respond l ok).told = s.told := rfl
@[simp] theorem State.respond_inbox (s : State) (l : List Octet) (ok : Bool) : (s.respond l ok).inbox = s.inbox := rfl
@[simp] theorem State.respond_i3inbox (s : State) (l : List Octet) (ok : Bool) : (s.respond l ok).i3inbox = s.i3inbox := rfl

/-! ### setDom -/

/-- `setDom` changes nothing but pwr. -/
theorem State.setDom_frame (s : State) (d : Nat) (x : Dom) :
    s.setDom d x = { s with pwr := (s.setDom d x).pwr } := rfl

@[simp] theorem State.setDom_pending (s : State) (d : Nat) (x : Dom) : (s.setDom d x).pending = s.pending := rfl
@[simp] theorem State.setDom_regs (s : State) (d : Nat) (x : Dom) : (s.setDom d x).regs = s.regs := rfl
@[simp] theorem State.setDom_active (s : State) (d : Nat) (x : Dom) : (s.setDom d x).active = s.active := rfl
@[simp] theorem State.setDom_staged (s : State) (d : Nat) (x : Dom) : (s.setDom d x).staged = s.staged := rfl
@[simp] theorem State.setDom_holding (s : State) (d : Nat) (x : Dom) : (s.setDom d x).holding = s.holding := rfl
@[simp] theorem State.setDom_free (s : State) (d : Nat) (x : Dom) : (s.setDom d x).free = s.free := rfl
@[simp] theorem State.setDom_evt (s : State) (d : Nat) (x : Dom) : (s.setDom d x).evt = s.evt := rfl
@[simp] theorem State.setDom_sup (s : State) (d : Nat) (x : Dom) : (s.setDom d x).sup = s.sup := rfl
@[simp] theorem State.setDom_gtb (s : State) (d : Nat) (x : Dom) : (s.setDom d x).gtb = s.gtb := rfl
@[simp] theorem State.setDom_rfp (s : State) (d : Nat) (x : Dom) : (s.setDom d x).rfp = s.rfp := rfl
@[simp] theorem State.setDom_dmx (s : State) (d : Nat) (x : Dom) : (s.setDom d x).dmx = s.dmx := rfl
@[simp] theorem State.setDom_cdc (s : State) (d : Nat) (x : Dom) : (s.setDom d x).cdc = s.cdc := rfl
@[simp] theorem State.setDom_sic (s : State) (d : Nat) (x : Dom) : (s.setDom d x).sic = s.sic := rfl
@[simp] theorem State.setDom_qmg (s : State) (d : Nat) (x : Dom) : (s.setDom d x).qmg = s.qmg := rfl
@[simp] theorem State.setDom_bgt (s : State) (d : Nat) (x : Dom) : (s.setDom d x).bgt = s.bgt := rfl
@[simp] theorem State.setDom_kvt (s : State) (d : Nat) (x : Dom) : (s.setDom d x).kvt = s.kvt := rfl
@[simp] theorem State.setDom_msq (s : State) (d : Nat) (x : Dom) : (s.setDom d x).msq = s.msq := rfl
@[simp] theorem State.setDom_slv (s : State) (d : Nat) (x : Dom) : (s.setDom d x).slv = s.slv := rfl
@[simp] theorem State.setDom_fwd (s : State) (d : Nat) (x : Dom) : (s.setDom d x).fwd = s.fwd := rfl
@[simp] theorem State.setDom_csc (s : State) (d : Nat) (x : Dom) : (s.setDom d x).csc = s.csc := rfl
@[simp] theorem State.setDom_lgc (s : State) (d : Nat) (x : Dom) : (s.setDom d x).lgc = s.lgc := rfl
@[simp] theorem State.setDom_hif (s : State) (d : Nat) (x : Dom) : (s.setDom d x).hif = s.hif := rfl
@[simp] theorem State.setDom_mem (s : State) (d : Nat) (x : Dom) : (s.setDom d x).mem = s.mem := rfl
@[simp] theorem State.setDom_prc (s : State) (d : Nat) (x : Dom) : (s.setDom d x).prc = s.prc := rfl
@[simp] theorem State.setDom_flash (s : State) (d : Nat) (x : Dom) : (s.setDom d x).flash = s.flash := rfl
@[simp] theorem State.setDom_cfg (s : State) (d : Nat) (x : Dom) : (s.setDom d x).cfg = s.cfg := rfl
@[simp] theorem State.setDom_upd (s : State) (d : Nat) (x : Dom) : (s.setDom d x).upd = s.upd := rfl
@[simp] theorem State.setDom_tst (s : State) (d : Nat) (x : Dom) : (s.setDom d x).tst = s.tst := rfl
@[simp] theorem State.setDom_told (s : State) (d : Nat) (x : Dom) : (s.setDom d x).told = s.told := rfl
@[simp] theorem State.setDom_inbox (s : State) (d : Nat) (x : Dom) : (s.setDom d x).inbox = s.inbox := rfl
@[simp] theorem State.setDom_i3inbox (s : State) (d : Nat) (x : Dom) : (s.setDom d x).i3inbox = s.i3inbox := rfl

/-! ### nextFree -/

/-- `nextFree` changes nothing but free. -/
theorem State.nextFree_frame (s : State) :
    s.nextFree = { s with free := (s.nextFree).free } := rfl

@[simp] theorem State.nextFree_pending (s : State) : (s.nextFree).pending = s.pending := rfl
@[simp] theorem State.nextFree_regs (s : State) : (s.nextFree).regs = s.regs := rfl
@[simp] theorem State.nextFree_active (s : State) : (s.nextFree).active = s.active := rfl
@[simp] theorem State.nextFree_staged (s : State) : (s.nextFree).staged = s.staged := rfl
@[simp] theorem State.nextFree_holding (s : State) : (s.nextFree).holding = s.holding := rfl
@[simp] theorem State.nextFree_evt (s : State) : (s.nextFree).evt = s.evt := rfl
@[simp] theorem State.nextFree_pwr (s : State) : (s.nextFree).pwr = s.pwr := rfl
@[simp] theorem State.nextFree_sup (s : State) : (s.nextFree).sup = s.sup := rfl
@[simp] theorem State.nextFree_gtb (s : State) : (s.nextFree).gtb = s.gtb := rfl
@[simp] theorem State.nextFree_rfp (s : State) : (s.nextFree).rfp = s.rfp := rfl
@[simp] theorem State.nextFree_dmx (s : State) : (s.nextFree).dmx = s.dmx := rfl
@[simp] theorem State.nextFree_cdc (s : State) : (s.nextFree).cdc = s.cdc := rfl
@[simp] theorem State.nextFree_sic (s : State) : (s.nextFree).sic = s.sic := rfl
@[simp] theorem State.nextFree_qmg (s : State) : (s.nextFree).qmg = s.qmg := rfl
@[simp] theorem State.nextFree_bgt (s : State) : (s.nextFree).bgt = s.bgt := rfl
@[simp] theorem State.nextFree_kvt (s : State) : (s.nextFree).kvt = s.kvt := rfl
@[simp] theorem State.nextFree_msq (s : State) : (s.nextFree).msq = s.msq := rfl
@[simp] theorem State.nextFree_slv (s : State) : (s.nextFree).slv = s.slv := rfl
@[simp] theorem State.nextFree_fwd (s : State) : (s.nextFree).fwd = s.fwd := rfl
@[simp] theorem State.nextFree_csc (s : State) : (s.nextFree).csc = s.csc := rfl
@[simp] theorem State.nextFree_lgc (s : State) : (s.nextFree).lgc = s.lgc := rfl
@[simp] theorem State.nextFree_hif (s : State) : (s.nextFree).hif = s.hif := rfl
@[simp] theorem State.nextFree_mem (s : State) : (s.nextFree).mem = s.mem := rfl
@[simp] theorem State.nextFree_prc (s : State) : (s.nextFree).prc = s.prc := rfl
@[simp] theorem State.nextFree_flash (s : State) : (s.nextFree).flash = s.flash := rfl
@[simp] theorem State.nextFree_cfg (s : State) : (s.nextFree).cfg = s.cfg := rfl
@[simp] theorem State.nextFree_upd (s : State) : (s.nextFree).upd = s.upd := rfl
@[simp] theorem State.nextFree_tst (s : State) : (s.nextFree).tst = s.tst := rfl
@[simp] theorem State.nextFree_told (s : State) : (s.nextFree).told = s.told := rfl
@[simp] theorem State.nextFree_inbox (s : State) : (s.nextFree).inbox = s.inbox := rfl
@[simp] theorem State.nextFree_i3inbox (s : State) : (s.nextFree).i3inbox = s.i3inbox := rfl

/-! ### at -/

/-- `at` changes nothing but gtb. -/
theorem State.at_frame (s : State) (t : Time) :
    s.at t = { s with gtb := (s.at t).gtb } := rfl

@[simp] theorem State.at_pending (s : State) (t : Time) : (s.at t).pending = s.pending := rfl
@[simp] theorem State.at_regs (s : State) (t : Time) : (s.at t).regs = s.regs := rfl
@[simp] theorem State.at_active (s : State) (t : Time) : (s.at t).active = s.active := rfl
@[simp] theorem State.at_staged (s : State) (t : Time) : (s.at t).staged = s.staged := rfl
@[simp] theorem State.at_holding (s : State) (t : Time) : (s.at t).holding = s.holding := rfl
@[simp] theorem State.at_free (s : State) (t : Time) : (s.at t).free = s.free := rfl
@[simp] theorem State.at_evt (s : State) (t : Time) : (s.at t).evt = s.evt := rfl
@[simp] theorem State.at_pwr (s : State) (t : Time) : (s.at t).pwr = s.pwr := rfl
@[simp] theorem State.at_sup (s : State) (t : Time) : (s.at t).sup = s.sup := rfl
@[simp] theorem State.at_rfp (s : State) (t : Time) : (s.at t).rfp = s.rfp := rfl
@[simp] theorem State.at_dmx (s : State) (t : Time) : (s.at t).dmx = s.dmx := rfl
@[simp] theorem State.at_cdc (s : State) (t : Time) : (s.at t).cdc = s.cdc := rfl
@[simp] theorem State.at_sic (s : State) (t : Time) : (s.at t).sic = s.sic := rfl
@[simp] theorem State.at_qmg (s : State) (t : Time) : (s.at t).qmg = s.qmg := rfl
@[simp] theorem State.at_bgt (s : State) (t : Time) : (s.at t).bgt = s.bgt := rfl
@[simp] theorem State.at_kvt (s : State) (t : Time) : (s.at t).kvt = s.kvt := rfl
@[simp] theorem State.at_msq (s : State) (t : Time) : (s.at t).msq = s.msq := rfl
@[simp] theorem State.at_slv (s : State) (t : Time) : (s.at t).slv = s.slv := rfl
@[simp] theorem State.at_fwd (s : State) (t : Time) : (s.at t).fwd = s.fwd := rfl
@[simp] theorem State.at_csc (s : State) (t : Time) : (s.at t).csc = s.csc := rfl
@[simp] theorem State.at_lgc (s : State) (t : Time) : (s.at t).lgc = s.lgc := rfl
@[simp] theorem State.at_hif (s : State) (t : Time) : (s.at t).hif = s.hif := rfl
@[simp] theorem State.at_mem (s : State) (t : Time) : (s.at t).mem = s.mem := rfl
@[simp] theorem State.at_prc (s : State) (t : Time) : (s.at t).prc = s.prc := rfl
@[simp] theorem State.at_flash (s : State) (t : Time) : (s.at t).flash = s.flash := rfl
@[simp] theorem State.at_cfg (s : State) (t : Time) : (s.at t).cfg = s.cfg := rfl
@[simp] theorem State.at_upd (s : State) (t : Time) : (s.at t).upd = s.upd := rfl
@[simp] theorem State.at_tst (s : State) (t : Time) : (s.at t).tst = s.tst := rfl
@[simp] theorem State.at_told (s : State) (t : Time) : (s.at t).told = s.told := rfl
@[simp] theorem State.at_inbox (s : State) (t : Time) : (s.at t).inbox = s.inbox := rfl
@[simp] theorem State.at_i3inbox (s : State) (t : Time) : (s.at t).i3inbox = s.i3inbox := rfl

/-! ### setRegs -/

/-- `setRegs` changes nothing but regs. -/
theorem State.setRegs_frame (s : State) (a : Nat) (l : List Word) :
    s.setRegs a l = { s with regs := (s.setRegs a l).regs } := by
  induction l generalizing s a with
  | nil => rfl
  | cons v l ih => rw [State.setRegs, ih]; rfl

@[simp] theorem State.setRegs_pending (s : State) (a : Nat) (l : List Word) : (s.setRegs a l).pending = s.pending := by rw [State.setRegs_frame]
@[simp] theorem State.setRegs_active (s : State) (a : Nat) (l : List Word) : (s.setRegs a l).active = s.active := by rw [State.setRegs_frame]
@[simp] theorem State.setRegs_staged (s : State) (a : Nat) (l : List Word) : (s.setRegs a l).staged = s.staged := by rw [State.setRegs_frame]
@[simp] theorem State.setRegs_holding (s : State) (a : Nat) (l : List Word) : (s.setRegs a l).holding = s.holding := by rw [State.setRegs_frame]
@[simp] theorem State.setRegs_free (s : State) (a : Nat) (l : List Word) : (s.setRegs a l).free = s.free := by rw [State.setRegs_frame]
@[simp] theorem State.setRegs_evt (s : State) (a : Nat) (l : List Word) : (s.setRegs a l).evt = s.evt := by rw [State.setRegs_frame]
@[simp] theorem State.setRegs_pwr (s : State) (a : Nat) (l : List Word) : (s.setRegs a l).pwr = s.pwr := by rw [State.setRegs_frame]
@[simp] theorem State.setRegs_sup (s : State) (a : Nat) (l : List Word) : (s.setRegs a l).sup = s.sup := by rw [State.setRegs_frame]
@[simp] theorem State.setRegs_gtb (s : State) (a : Nat) (l : List Word) : (s.setRegs a l).gtb = s.gtb := by rw [State.setRegs_frame]
@[simp] theorem State.setRegs_rfp (s : State) (a : Nat) (l : List Word) : (s.setRegs a l).rfp = s.rfp := by rw [State.setRegs_frame]
@[simp] theorem State.setRegs_dmx (s : State) (a : Nat) (l : List Word) : (s.setRegs a l).dmx = s.dmx := by rw [State.setRegs_frame]
@[simp] theorem State.setRegs_cdc (s : State) (a : Nat) (l : List Word) : (s.setRegs a l).cdc = s.cdc := by rw [State.setRegs_frame]
@[simp] theorem State.setRegs_sic (s : State) (a : Nat) (l : List Word) : (s.setRegs a l).sic = s.sic := by rw [State.setRegs_frame]
@[simp] theorem State.setRegs_qmg (s : State) (a : Nat) (l : List Word) : (s.setRegs a l).qmg = s.qmg := by rw [State.setRegs_frame]
@[simp] theorem State.setRegs_bgt (s : State) (a : Nat) (l : List Word) : (s.setRegs a l).bgt = s.bgt := by rw [State.setRegs_frame]
@[simp] theorem State.setRegs_kvt (s : State) (a : Nat) (l : List Word) : (s.setRegs a l).kvt = s.kvt := by rw [State.setRegs_frame]
@[simp] theorem State.setRegs_msq (s : State) (a : Nat) (l : List Word) : (s.setRegs a l).msq = s.msq := by rw [State.setRegs_frame]
@[simp] theorem State.setRegs_slv (s : State) (a : Nat) (l : List Word) : (s.setRegs a l).slv = s.slv := by rw [State.setRegs_frame]
@[simp] theorem State.setRegs_fwd (s : State) (a : Nat) (l : List Word) : (s.setRegs a l).fwd = s.fwd := by rw [State.setRegs_frame]
@[simp] theorem State.setRegs_csc (s : State) (a : Nat) (l : List Word) : (s.setRegs a l).csc = s.csc := by rw [State.setRegs_frame]
@[simp] theorem State.setRegs_lgc (s : State) (a : Nat) (l : List Word) : (s.setRegs a l).lgc = s.lgc := by rw [State.setRegs_frame]
@[simp] theorem State.setRegs_hif (s : State) (a : Nat) (l : List Word) : (s.setRegs a l).hif = s.hif := by rw [State.setRegs_frame]
@[simp] theorem State.setRegs_mem (s : State) (a : Nat) (l : List Word) : (s.setRegs a l).mem = s.mem := by rw [State.setRegs_frame]
@[simp] theorem State.setRegs_prc (s : State) (a : Nat) (l : List Word) : (s.setRegs a l).prc = s.prc := by rw [State.setRegs_frame]
@[simp] theorem State.setRegs_flash (s : State) (a : Nat) (l : List Word) : (s.setRegs a l).flash = s.flash := by rw [State.setRegs_frame]
@[simp] theorem State.setRegs_cfg (s : State) (a : Nat) (l : List Word) : (s.setRegs a l).cfg = s.cfg := by rw [State.setRegs_frame]
@[simp] theorem State.setRegs_upd (s : State) (a : Nat) (l : List Word) : (s.setRegs a l).upd = s.upd := by rw [State.setRegs_frame]
@[simp] theorem State.setRegs_tst (s : State) (a : Nat) (l : List Word) : (s.setRegs a l).tst = s.tst := by rw [State.setRegs_frame]
@[simp] theorem State.setRegs_told (s : State) (a : Nat) (l : List Word) : (s.setRegs a l).told = s.told := by rw [State.setRegs_frame]
@[simp] theorem State.setRegs_inbox (s : State) (a : Nat) (l : List Word) : (s.setRegs a l).inbox = s.inbox := by rw [State.setRegs_frame]
@[simp] theorem State.setRegs_i3inbox (s : State) (a : Nat) (l : List Word) : (s.setRegs a l).i3inbox = s.i3inbox := by rw [State.setRegs_frame]

/-! ### sendMsi -/

/-- `sendMsi` changes nothing but evt. -/
theorem State.sendMsi_frame (s : State) (v : Nat) :
    s.sendMsi v = { s with evt := (s.sendMsi v).evt } := by
  unfold State.sendMsi
  split
  · rfl
  · split <;> rfl

@[simp] theorem State.sendMsi_pending (s : State) (v : Nat) : (s.sendMsi v).pending = s.pending := by rw [State.sendMsi_frame]
@[simp] theorem State.sendMsi_regs (s : State) (v : Nat) : (s.sendMsi v).regs = s.regs := by rw [State.sendMsi_frame]
@[simp] theorem State.sendMsi_active (s : State) (v : Nat) : (s.sendMsi v).active = s.active := by rw [State.sendMsi_frame]
@[simp] theorem State.sendMsi_staged (s : State) (v : Nat) : (s.sendMsi v).staged = s.staged := by rw [State.sendMsi_frame]
@[simp] theorem State.sendMsi_holding (s : State) (v : Nat) : (s.sendMsi v).holding = s.holding := by rw [State.sendMsi_frame]
@[simp] theorem State.sendMsi_free (s : State) (v : Nat) : (s.sendMsi v).free = s.free := by rw [State.sendMsi_frame]
@[simp] theorem State.sendMsi_pwr (s : State) (v : Nat) : (s.sendMsi v).pwr = s.pwr := by rw [State.sendMsi_frame]
@[simp] theorem State.sendMsi_sup (s : State) (v : Nat) : (s.sendMsi v).sup = s.sup := by rw [State.sendMsi_frame]
@[simp] theorem State.sendMsi_gtb (s : State) (v : Nat) : (s.sendMsi v).gtb = s.gtb := by rw [State.sendMsi_frame]
@[simp] theorem State.sendMsi_rfp (s : State) (v : Nat) : (s.sendMsi v).rfp = s.rfp := by rw [State.sendMsi_frame]
@[simp] theorem State.sendMsi_dmx (s : State) (v : Nat) : (s.sendMsi v).dmx = s.dmx := by rw [State.sendMsi_frame]
@[simp] theorem State.sendMsi_cdc (s : State) (v : Nat) : (s.sendMsi v).cdc = s.cdc := by rw [State.sendMsi_frame]
@[simp] theorem State.sendMsi_sic (s : State) (v : Nat) : (s.sendMsi v).sic = s.sic := by rw [State.sendMsi_frame]
@[simp] theorem State.sendMsi_qmg (s : State) (v : Nat) : (s.sendMsi v).qmg = s.qmg := by rw [State.sendMsi_frame]
@[simp] theorem State.sendMsi_bgt (s : State) (v : Nat) : (s.sendMsi v).bgt = s.bgt := by rw [State.sendMsi_frame]
@[simp] theorem State.sendMsi_kvt (s : State) (v : Nat) : (s.sendMsi v).kvt = s.kvt := by rw [State.sendMsi_frame]
@[simp] theorem State.sendMsi_msq (s : State) (v : Nat) : (s.sendMsi v).msq = s.msq := by rw [State.sendMsi_frame]
@[simp] theorem State.sendMsi_slv (s : State) (v : Nat) : (s.sendMsi v).slv = s.slv := by rw [State.sendMsi_frame]
@[simp] theorem State.sendMsi_fwd (s : State) (v : Nat) : (s.sendMsi v).fwd = s.fwd := by rw [State.sendMsi_frame]
@[simp] theorem State.sendMsi_csc (s : State) (v : Nat) : (s.sendMsi v).csc = s.csc := by rw [State.sendMsi_frame]
@[simp] theorem State.sendMsi_lgc (s : State) (v : Nat) : (s.sendMsi v).lgc = s.lgc := by rw [State.sendMsi_frame]
@[simp] theorem State.sendMsi_hif (s : State) (v : Nat) : (s.sendMsi v).hif = s.hif := by rw [State.sendMsi_frame]
@[simp] theorem State.sendMsi_mem (s : State) (v : Nat) : (s.sendMsi v).mem = s.mem := by rw [State.sendMsi_frame]
@[simp] theorem State.sendMsi_prc (s : State) (v : Nat) : (s.sendMsi v).prc = s.prc := by rw [State.sendMsi_frame]
@[simp] theorem State.sendMsi_flash (s : State) (v : Nat) : (s.sendMsi v).flash = s.flash := by rw [State.sendMsi_frame]
@[simp] theorem State.sendMsi_cfg (s : State) (v : Nat) : (s.sendMsi v).cfg = s.cfg := by rw [State.sendMsi_frame]
@[simp] theorem State.sendMsi_upd (s : State) (v : Nat) : (s.sendMsi v).upd = s.upd := by rw [State.sendMsi_frame]
@[simp] theorem State.sendMsi_tst (s : State) (v : Nat) : (s.sendMsi v).tst = s.tst := by rw [State.sendMsi_frame]
@[simp] theorem State.sendMsi_told (s : State) (v : Nat) : (s.sendMsi v).told = s.told := by rw [State.sendMsi_frame]
@[simp] theorem State.sendMsi_inbox (s : State) (v : Nat) : (s.sendMsi v).inbox = s.inbox := by rw [State.sendMsi_frame]
@[simp] theorem State.sendMsi_i3inbox (s : State) (v : Nat) : (s.sendMsi v).i3inbox = s.i3inbox := by rw [State.sendMsi_frame]

/-! ### fire -/

/-- `fire` changes nothing but regs, evt. -/
theorem State.fire_frame (s : State) (k : Nat) :
    s.fire k = { s with regs := (s.fire k).regs, evt := (s.fire k).evt } := by
  unfold State.fire
  split
  · rfl
  · dsimp only
    split
    · rw [State.sendMsi_frame]
      rfl
    · rfl

@[simp] theorem State.fire_pending (s : State) (k : Nat) : (s.fire k).pending = s.pending := by rw [State.fire_frame]
@[simp] theorem State.fire_active (s : State) (k : Nat) : (s.fire k).active = s.active := by rw [State.fire_frame]
@[simp] theorem State.fire_staged (s : State) (k : Nat) : (s.fire k).staged = s.staged := by rw [State.fire_frame]
@[simp] theorem State.fire_holding (s : State) (k : Nat) : (s.fire k).holding = s.holding := by rw [State.fire_frame]
@[simp] theorem State.fire_free (s : State) (k : Nat) : (s.fire k).free = s.free := by rw [State.fire_frame]
@[simp] theorem State.fire_pwr (s : State) (k : Nat) : (s.fire k).pwr = s.pwr := by rw [State.fire_frame]
@[simp] theorem State.fire_sup (s : State) (k : Nat) : (s.fire k).sup = s.sup := by rw [State.fire_frame]
@[simp] theorem State.fire_gtb (s : State) (k : Nat) : (s.fire k).gtb = s.gtb := by rw [State.fire_frame]
@[simp] theorem State.fire_rfp (s : State) (k : Nat) : (s.fire k).rfp = s.rfp := by rw [State.fire_frame]
@[simp] theorem State.fire_dmx (s : State) (k : Nat) : (s.fire k).dmx = s.dmx := by rw [State.fire_frame]
@[simp] theorem State.fire_cdc (s : State) (k : Nat) : (s.fire k).cdc = s.cdc := by rw [State.fire_frame]
@[simp] theorem State.fire_sic (s : State) (k : Nat) : (s.fire k).sic = s.sic := by rw [State.fire_frame]
@[simp] theorem State.fire_qmg (s : State) (k : Nat) : (s.fire k).qmg = s.qmg := by rw [State.fire_frame]
@[simp] theorem State.fire_bgt (s : State) (k : Nat) : (s.fire k).bgt = s.bgt := by rw [State.fire_frame]
@[simp] theorem State.fire_kvt (s : State) (k : Nat) : (s.fire k).kvt = s.kvt := by rw [State.fire_frame]
@[simp] theorem State.fire_msq (s : State) (k : Nat) : (s.fire k).msq = s.msq := by rw [State.fire_frame]
@[simp] theorem State.fire_slv (s : State) (k : Nat) : (s.fire k).slv = s.slv := by rw [State.fire_frame]
@[simp] theorem State.fire_fwd (s : State) (k : Nat) : (s.fire k).fwd = s.fwd := by rw [State.fire_frame]
@[simp] theorem State.fire_csc (s : State) (k : Nat) : (s.fire k).csc = s.csc := by rw [State.fire_frame]
@[simp] theorem State.fire_lgc (s : State) (k : Nat) : (s.fire k).lgc = s.lgc := by rw [State.fire_frame]
@[simp] theorem State.fire_hif (s : State) (k : Nat) : (s.fire k).hif = s.hif := by rw [State.fire_frame]
@[simp] theorem State.fire_mem (s : State) (k : Nat) : (s.fire k).mem = s.mem := by rw [State.fire_frame]
@[simp] theorem State.fire_prc (s : State) (k : Nat) : (s.fire k).prc = s.prc := by rw [State.fire_frame]
@[simp] theorem State.fire_flash (s : State) (k : Nat) : (s.fire k).flash = s.flash := by rw [State.fire_frame]
@[simp] theorem State.fire_cfg (s : State) (k : Nat) : (s.fire k).cfg = s.cfg := by rw [State.fire_frame]
@[simp] theorem State.fire_upd (s : State) (k : Nat) : (s.fire k).upd = s.upd := by rw [State.fire_frame]
@[simp] theorem State.fire_tst (s : State) (k : Nat) : (s.fire k).tst = s.tst := by rw [State.fire_frame]
@[simp] theorem State.fire_told (s : State) (k : Nat) : (s.fire k).told = s.told := by rw [State.fire_frame]
@[simp] theorem State.fire_inbox (s : State) (k : Nat) : (s.fire k).inbox = s.inbox := by rw [State.fire_frame]
@[simp] theorem State.fire_i3inbox (s : State) (k : Nat) : (s.fire k).i3inbox = s.i3inbox := by rw [State.fire_frame]

/-! ### fireIf -/

/-- `fireIf` changes nothing but regs, evt. -/
theorem State.fireIf_frame (s : State) (x : Bool) (k : Nat) :
    s.fireIf x k = { s with regs := (s.fireIf x k).regs, evt := (s.fireIf x k).evt } := by
  cases x
  · rfl
  · exact State.fire_frame s k

@[simp] theorem State.fireIf_pending (s : State) (x : Bool) (k : Nat) : (s.fireIf x k).pending = s.pending := by rw [State.fireIf_frame]
@[simp] theorem State.fireIf_active (s : State) (x : Bool) (k : Nat) : (s.fireIf x k).active = s.active := by rw [State.fireIf_frame]
@[simp] theorem State.fireIf_staged (s : State) (x : Bool) (k : Nat) : (s.fireIf x k).staged = s.staged := by rw [State.fireIf_frame]
@[simp] theorem State.fireIf_holding (s : State) (x : Bool) (k : Nat) : (s.fireIf x k).holding = s.holding := by rw [State.fireIf_frame]
@[simp] theorem State.fireIf_free (s : State) (x : Bool) (k : Nat) : (s.fireIf x k).free = s.free := by rw [State.fireIf_frame]
@[simp] theorem State.fireIf_pwr (s : State) (x : Bool) (k : Nat) : (s.fireIf x k).pwr = s.pwr := by rw [State.fireIf_frame]
@[simp] theorem State.fireIf_sup (s : State) (x : Bool) (k : Nat) : (s.fireIf x k).sup = s.sup := by rw [State.fireIf_frame]
@[simp] theorem State.fireIf_gtb (s : State) (x : Bool) (k : Nat) : (s.fireIf x k).gtb = s.gtb := by rw [State.fireIf_frame]
@[simp] theorem State.fireIf_rfp (s : State) (x : Bool) (k : Nat) : (s.fireIf x k).rfp = s.rfp := by rw [State.fireIf_frame]
@[simp] theorem State.fireIf_dmx (s : State) (x : Bool) (k : Nat) : (s.fireIf x k).dmx = s.dmx := by rw [State.fireIf_frame]
@[simp] theorem State.fireIf_cdc (s : State) (x : Bool) (k : Nat) : (s.fireIf x k).cdc = s.cdc := by rw [State.fireIf_frame]
@[simp] theorem State.fireIf_sic (s : State) (x : Bool) (k : Nat) : (s.fireIf x k).sic = s.sic := by rw [State.fireIf_frame]
@[simp] theorem State.fireIf_qmg (s : State) (x : Bool) (k : Nat) : (s.fireIf x k).qmg = s.qmg := by rw [State.fireIf_frame]
@[simp] theorem State.fireIf_bgt (s : State) (x : Bool) (k : Nat) : (s.fireIf x k).bgt = s.bgt := by rw [State.fireIf_frame]
@[simp] theorem State.fireIf_kvt (s : State) (x : Bool) (k : Nat) : (s.fireIf x k).kvt = s.kvt := by rw [State.fireIf_frame]
@[simp] theorem State.fireIf_msq (s : State) (x : Bool) (k : Nat) : (s.fireIf x k).msq = s.msq := by rw [State.fireIf_frame]
@[simp] theorem State.fireIf_slv (s : State) (x : Bool) (k : Nat) : (s.fireIf x k).slv = s.slv := by rw [State.fireIf_frame]
@[simp] theorem State.fireIf_fwd (s : State) (x : Bool) (k : Nat) : (s.fireIf x k).fwd = s.fwd := by rw [State.fireIf_frame]
@[simp] theorem State.fireIf_csc (s : State) (x : Bool) (k : Nat) : (s.fireIf x k).csc = s.csc := by rw [State.fireIf_frame]
@[simp] theorem State.fireIf_lgc (s : State) (x : Bool) (k : Nat) : (s.fireIf x k).lgc = s.lgc := by rw [State.fireIf_frame]
@[simp] theorem State.fireIf_hif (s : State) (x : Bool) (k : Nat) : (s.fireIf x k).hif = s.hif := by rw [State.fireIf_frame]
@[simp] theorem State.fireIf_mem (s : State) (x : Bool) (k : Nat) : (s.fireIf x k).mem = s.mem := by rw [State.fireIf_frame]
@[simp] theorem State.fireIf_prc (s : State) (x : Bool) (k : Nat) : (s.fireIf x k).prc = s.prc := by rw [State.fireIf_frame]
@[simp] theorem State.fireIf_flash (s : State) (x : Bool) (k : Nat) : (s.fireIf x k).flash = s.flash := by rw [State.fireIf_frame]
@[simp] theorem State.fireIf_cfg (s : State) (x : Bool) (k : Nat) : (s.fireIf x k).cfg = s.cfg := by rw [State.fireIf_frame]
@[simp] theorem State.fireIf_upd (s : State) (x : Bool) (k : Nat) : (s.fireIf x k).upd = s.upd := by rw [State.fireIf_frame]
@[simp] theorem State.fireIf_tst (s : State) (x : Bool) (k : Nat) : (s.fireIf x k).tst = s.tst := by rw [State.fireIf_frame]
@[simp] theorem State.fireIf_told (s : State) (x : Bool) (k : Nat) : (s.fireIf x k).told = s.told := by rw [State.fireIf_frame]
@[simp] theorem State.fireIf_inbox (s : State) (x : Bool) (k : Nat) : (s.fireIf x k).inbox = s.inbox := by rw [State.fireIf_frame]
@[simp] theorem State.fireIf_i3inbox (s : State) (x : Bool) (k : Nat) : (s.fireIf x k).i3inbox = s.i3inbox := by rw [State.fireIf_frame]

/-! ### newVectors -/

/-- `newVectors` changes nothing but evt. -/
theorem State.newVectors_frame (s : State) (old : State) :
    s.newVectors old = { s with evt := (s.newVectors old).evt } := by
  unfold State.newVectors
  generalize List.range 16 = l
  have h : ∀ t : State, List.foldl (fun t v => if s.vecActive v && !old.vecActive v then t.sendMsi v else t) t l =
      { t with evt := (List.foldl (fun t v => if s.vecActive v && !old.vecActive v then t.sendMsi v else t) t l).evt } := by
    induction l with
    | nil => intro t; rfl
    | cons v l ih =>
      intro t
      rw [List.foldl_cons, ih]
      split
      · rw [State.sendMsi_frame]
      · rfl
  exact h s

@[simp] theorem State.newVectors_pending (s : State) (old : State) : (s.newVectors old).pending = s.pending := by rw [State.newVectors_frame]
@[simp] theorem State.newVectors_regs (s : State) (old : State) : (s.newVectors old).regs = s.regs := by rw [State.newVectors_frame]
@[simp] theorem State.newVectors_active (s : State) (old : State) : (s.newVectors old).active = s.active := by rw [State.newVectors_frame]
@[simp] theorem State.newVectors_staged (s : State) (old : State) : (s.newVectors old).staged = s.staged := by rw [State.newVectors_frame]
@[simp] theorem State.newVectors_holding (s : State) (old : State) : (s.newVectors old).holding = s.holding := by rw [State.newVectors_frame]
@[simp] theorem State.newVectors_free (s : State) (old : State) : (s.newVectors old).free = s.free := by rw [State.newVectors_frame]
@[simp] theorem State.newVectors_pwr (s : State) (old : State) : (s.newVectors old).pwr = s.pwr := by rw [State.newVectors_frame]
@[simp] theorem State.newVectors_sup (s : State) (old : State) : (s.newVectors old).sup = s.sup := by rw [State.newVectors_frame]
@[simp] theorem State.newVectors_gtb (s : State) (old : State) : (s.newVectors old).gtb = s.gtb := by rw [State.newVectors_frame]
@[simp] theorem State.newVectors_rfp (s : State) (old : State) : (s.newVectors old).rfp = s.rfp := by rw [State.newVectors_frame]
@[simp] theorem State.newVectors_dmx (s : State) (old : State) : (s.newVectors old).dmx = s.dmx := by rw [State.newVectors_frame]
@[simp] theorem State.newVectors_cdc (s : State) (old : State) : (s.newVectors old).cdc = s.cdc := by rw [State.newVectors_frame]
@[simp] theorem State.newVectors_sic (s : State) (old : State) : (s.newVectors old).sic = s.sic := by rw [State.newVectors_frame]
@[simp] theorem State.newVectors_qmg (s : State) (old : State) : (s.newVectors old).qmg = s.qmg := by rw [State.newVectors_frame]
@[simp] theorem State.newVectors_bgt (s : State) (old : State) : (s.newVectors old).bgt = s.bgt := by rw [State.newVectors_frame]
@[simp] theorem State.newVectors_kvt (s : State) (old : State) : (s.newVectors old).kvt = s.kvt := by rw [State.newVectors_frame]
@[simp] theorem State.newVectors_msq (s : State) (old : State) : (s.newVectors old).msq = s.msq := by rw [State.newVectors_frame]
@[simp] theorem State.newVectors_slv (s : State) (old : State) : (s.newVectors old).slv = s.slv := by rw [State.newVectors_frame]
@[simp] theorem State.newVectors_fwd (s : State) (old : State) : (s.newVectors old).fwd = s.fwd := by rw [State.newVectors_frame]
@[simp] theorem State.newVectors_csc (s : State) (old : State) : (s.newVectors old).csc = s.csc := by rw [State.newVectors_frame]
@[simp] theorem State.newVectors_lgc (s : State) (old : State) : (s.newVectors old).lgc = s.lgc := by rw [State.newVectors_frame]
@[simp] theorem State.newVectors_hif (s : State) (old : State) : (s.newVectors old).hif = s.hif := by rw [State.newVectors_frame]
@[simp] theorem State.newVectors_mem (s : State) (old : State) : (s.newVectors old).mem = s.mem := by rw [State.newVectors_frame]
@[simp] theorem State.newVectors_prc (s : State) (old : State) : (s.newVectors old).prc = s.prc := by rw [State.newVectors_frame]
@[simp] theorem State.newVectors_flash (s : State) (old : State) : (s.newVectors old).flash = s.flash := by rw [State.newVectors_frame]
@[simp] theorem State.newVectors_cfg (s : State) (old : State) : (s.newVectors old).cfg = s.cfg := by rw [State.newVectors_frame]
@[simp] theorem State.newVectors_upd (s : State) (old : State) : (s.newVectors old).upd = s.upd := by rw [State.newVectors_frame]
@[simp] theorem State.newVectors_tst (s : State) (old : State) : (s.newVectors old).tst = s.tst := by rw [State.newVectors_frame]
@[simp] theorem State.newVectors_told (s : State) (old : State) : (s.newVectors old).told = s.told := by rw [State.newVectors_frame]
@[simp] theorem State.newVectors_inbox (s : State) (old : State) : (s.newVectors old).inbox = s.inbox := by rw [State.newVectors_frame]
@[simp] theorem State.newVectors_i3inbox (s : State) (old : State) : (s.newVectors old).i3inbox = s.i3inbox := by rw [State.newVectors_frame]

/-! ### recordFault -/

/-- `recordFault` changes nothing but regs, evt. -/
theorem State.recordFault_frame (s : State) (rq : Req) (c : AccCause) (wr : Bool) (a e : Nat) :
    s.recordFault rq c wr a e = { s with regs := (s.recordFault rq c wr a e).regs, evt := (s.recordFault rq c wr a e).evt } := by
  unfold State.recordFault
  split
  · rfl
  · split
    · dsimp only
      split <;> rfl
    · dsimp only
      split
      · split
        · rfl
        · rw [State.fire_frame]; rfl
      · rw [State.fire_frame]; rfl

@[simp] theorem State.recordFault_pending (s : State) (rq : Req) (c : AccCause) (wr : Bool) (a e : Nat) : (s.recordFault rq c wr a e).pending = s.pending := by rw [State.recordFault_frame]
@[simp] theorem State.recordFault_active (s : State) (rq : Req) (c : AccCause) (wr : Bool) (a e : Nat) : (s.recordFault rq c wr a e).active = s.active := by rw [State.recordFault_frame]
@[simp] theorem State.recordFault_staged (s : State) (rq : Req) (c : AccCause) (wr : Bool) (a e : Nat) : (s.recordFault rq c wr a e).staged = s.staged := by rw [State.recordFault_frame]
@[simp] theorem State.recordFault_holding (s : State) (rq : Req) (c : AccCause) (wr : Bool) (a e : Nat) : (s.recordFault rq c wr a e).holding = s.holding := by rw [State.recordFault_frame]
@[simp] theorem State.recordFault_free (s : State) (rq : Req) (c : AccCause) (wr : Bool) (a e : Nat) : (s.recordFault rq c wr a e).free = s.free := by rw [State.recordFault_frame]
@[simp] theorem State.recordFault_pwr (s : State) (rq : Req) (c : AccCause) (wr : Bool) (a e : Nat) : (s.recordFault rq c wr a e).pwr = s.pwr := by rw [State.recordFault_frame]
@[simp] theorem State.recordFault_sup (s : State) (rq : Req) (c : AccCause) (wr : Bool) (a e : Nat) : (s.recordFault rq c wr a e).sup = s.sup := by rw [State.recordFault_frame]
@[simp] theorem State.recordFault_gtb (s : State) (rq : Req) (c : AccCause) (wr : Bool) (a e : Nat) : (s.recordFault rq c wr a e).gtb = s.gtb := by rw [State.recordFault_frame]
@[simp] theorem State.recordFault_rfp (s : State) (rq : Req) (c : AccCause) (wr : Bool) (a e : Nat) : (s.recordFault rq c wr a e).rfp = s.rfp := by rw [State.recordFault_frame]
@[simp] theorem State.recordFault_dmx (s : State) (rq : Req) (c : AccCause) (wr : Bool) (a e : Nat) : (s.recordFault rq c wr a e).dmx = s.dmx := by rw [State.recordFault_frame]
@[simp] theorem State.recordFault_cdc (s : State) (rq : Req) (c : AccCause) (wr : Bool) (a e : Nat) : (s.recordFault rq c wr a e).cdc = s.cdc := by rw [State.recordFault_frame]
@[simp] theorem State.recordFault_sic (s : State) (rq : Req) (c : AccCause) (wr : Bool) (a e : Nat) : (s.recordFault rq c wr a e).sic = s.sic := by rw [State.recordFault_frame]
@[simp] theorem State.recordFault_qmg (s : State) (rq : Req) (c : AccCause) (wr : Bool) (a e : Nat) : (s.recordFault rq c wr a e).qmg = s.qmg := by rw [State.recordFault_frame]
@[simp] theorem State.recordFault_bgt (s : State) (rq : Req) (c : AccCause) (wr : Bool) (a e : Nat) : (s.recordFault rq c wr a e).bgt = s.bgt := by rw [State.recordFault_frame]
@[simp] theorem State.recordFault_kvt (s : State) (rq : Req) (c : AccCause) (wr : Bool) (a e : Nat) : (s.recordFault rq c wr a e).kvt = s.kvt := by rw [State.recordFault_frame]
@[simp] theorem State.recordFault_msq (s : State) (rq : Req) (c : AccCause) (wr : Bool) (a e : Nat) : (s.recordFault rq c wr a e).msq = s.msq := by rw [State.recordFault_frame]
@[simp] theorem State.recordFault_slv (s : State) (rq : Req) (c : AccCause) (wr : Bool) (a e : Nat) : (s.recordFault rq c wr a e).slv = s.slv := by rw [State.recordFault_frame]
@[simp] theorem State.recordFault_fwd (s : State) (rq : Req) (c : AccCause) (wr : Bool) (a e : Nat) : (s.recordFault rq c wr a e).fwd = s.fwd := by rw [State.recordFault_frame]
@[simp] theorem State.recordFault_csc (s : State) (rq : Req) (c : AccCause) (wr : Bool) (a e : Nat) : (s.recordFault rq c wr a e).csc = s.csc := by rw [State.recordFault_frame]
@[simp] theorem State.recordFault_lgc (s : State) (rq : Req) (c : AccCause) (wr : Bool) (a e : Nat) : (s.recordFault rq c wr a e).lgc = s.lgc := by rw [State.recordFault_frame]
@[simp] theorem State.recordFault_hif (s : State) (rq : Req) (c : AccCause) (wr : Bool) (a e : Nat) : (s.recordFault rq c wr a e).hif = s.hif := by rw [State.recordFault_frame]
@[simp] theorem State.recordFault_mem (s : State) (rq : Req) (c : AccCause) (wr : Bool) (a e : Nat) : (s.recordFault rq c wr a e).mem = s.mem := by rw [State.recordFault_frame]
@[simp] theorem State.recordFault_prc (s : State) (rq : Req) (c : AccCause) (wr : Bool) (a e : Nat) : (s.recordFault rq c wr a e).prc = s.prc := by rw [State.recordFault_frame]
@[simp] theorem State.recordFault_flash (s : State) (rq : Req) (c : AccCause) (wr : Bool) (a e : Nat) : (s.recordFault rq c wr a e).flash = s.flash := by rw [State.recordFault_frame]
@[simp] theorem State.recordFault_cfg (s : State) (rq : Req) (c : AccCause) (wr : Bool) (a e : Nat) : (s.recordFault rq c wr a e).cfg = s.cfg := by rw [State.recordFault_frame]
@[simp] theorem State.recordFault_upd (s : State) (rq : Req) (c : AccCause) (wr : Bool) (a e : Nat) : (s.recordFault rq c wr a e).upd = s.upd := by rw [State.recordFault_frame]
@[simp] theorem State.recordFault_tst (s : State) (rq : Req) (c : AccCause) (wr : Bool) (a e : Nat) : (s.recordFault rq c wr a e).tst = s.tst := by rw [State.recordFault_frame]
@[simp] theorem State.recordFault_told (s : State) (rq : Req) (c : AccCause) (wr : Bool) (a e : Nat) : (s.recordFault rq c wr a e).told = s.told := by rw [State.recordFault_frame]
@[simp] theorem State.recordFault_inbox (s : State) (rq : Req) (c : AccCause) (wr : Bool) (a e : Nat) : (s.recordFault rq c wr a e).inbox = s.inbox := by rw [State.recordFault_frame]
@[simp] theorem State.recordFault_i3inbox (s : State) (rq : Req) (c : AccCause) (wr : Bool) (a e : Nat) : (s.recordFault rq c wr a e).i3inbox = s.i3inbox := by rw [State.recordFault_frame]

/-! ### drive -/

/-- `drive` changes nothing but regs, evt, sup. -/
theorem State.drive_frame (s : State) :
    s.drive = { s with regs := (s.drive).regs, evt := (s.drive).evt, sup := (s.drive).sup } := by
  unfold State.drive
  dsimp only
  rw [State.fireIf_frame]

@[simp] theorem State.drive_pending (s : State) : (s.drive).pending = s.pending := by rw [State.drive_frame]
@[simp] theorem State.drive_active (s : State) : (s.drive).active = s.active := by rw [State.drive_frame]
@[simp] theorem State.drive_staged (s : State) : (s.drive).staged = s.staged := by rw [State.drive_frame]
@[simp] theorem State.drive_holding (s : State) : (s.drive).holding = s.holding := by rw [State.drive_frame]
@[simp] theorem State.drive_free (s : State) : (s.drive).free = s.free := by rw [State.drive_frame]
@[simp] theorem State.drive_pwr (s : State) : (s.drive).pwr = s.pwr := by rw [State.drive_frame]
@[simp] theorem State.drive_gtb (s : State) : (s.drive).gtb = s.gtb := by rw [State.drive_frame]
@[simp] theorem State.drive_rfp (s : State) : (s.drive).rfp = s.rfp := by rw [State.drive_frame]
@[simp] theorem State.drive_dmx (s : State) : (s.drive).dmx = s.dmx := by rw [State.drive_frame]
@[simp] theorem State.drive_cdc (s : State) : (s.drive).cdc = s.cdc := by rw [State.drive_frame]
@[simp] theorem State.drive_sic (s : State) : (s.drive).sic = s.sic := by rw [State.drive_frame]
@[simp] theorem State.drive_qmg (s : State) : (s.drive).qmg = s.qmg := by rw [State.drive_frame]
@[simp] theorem State.drive_bgt (s : State) : (s.drive).bgt = s.bgt := by rw [State.drive_frame]
@[simp] theorem State.drive_kvt (s : State) : (s.drive).kvt = s.kvt := by rw [State.drive_frame]
@[simp] theorem State.drive_msq (s : State) : (s.drive).msq = s.msq := by rw [State.drive_frame]
@[simp] theorem State.drive_slv (s : State) : (s.drive).slv = s.slv := by rw [State.drive_frame]
@[simp] theorem State.drive_fwd (s : State) : (s.drive).fwd = s.fwd := by rw [State.drive_frame]
@[simp] theorem State.drive_csc (s : State) : (s.drive).csc = s.csc := by rw [State.drive_frame]
@[simp] theorem State.drive_lgc (s : State) : (s.drive).lgc = s.lgc := by rw [State.drive_frame]
@[simp] theorem State.drive_hif (s : State) : (s.drive).hif = s.hif := by rw [State.drive_frame]
@[simp] theorem State.drive_mem (s : State) : (s.drive).mem = s.mem := by rw [State.drive_frame]
@[simp] theorem State.drive_prc (s : State) : (s.drive).prc = s.prc := by rw [State.drive_frame]
@[simp] theorem State.drive_flash (s : State) : (s.drive).flash = s.flash := by rw [State.drive_frame]
@[simp] theorem State.drive_cfg (s : State) : (s.drive).cfg = s.cfg := by rw [State.drive_frame]
@[simp] theorem State.drive_upd (s : State) : (s.drive).upd = s.upd := by rw [State.drive_frame]
@[simp] theorem State.drive_tst (s : State) : (s.drive).tst = s.tst := by rw [State.drive_frame]
@[simp] theorem State.drive_told (s : State) : (s.drive).told = s.told := by rw [State.drive_frame]
@[simp] theorem State.drive_inbox (s : State) : (s.drive).inbox = s.inbox := by rw [State.drive_frame]
@[simp] theorem State.drive_i3inbox (s : State) : (s.drive).i3inbox = s.i3inbox := by rw [State.drive_frame]

/-! ### strike -/

/-- `strike` changes nothing but regs, evt, sup. -/
theorem State.strike_frame (s : State) (f : Field) :
    s.strike f = { s with regs := (s.strike f).regs, evt := (s.strike f).evt, sup := (s.strike f).sup } := by
  unfold State.strike
  rw [State.drive_frame]
  split
  · rfl
  · rw [State.fire_frame]; rfl

@[simp] theorem State.strike_pending (s : State) (f : Field) : (s.strike f).pending = s.pending := by rw [State.strike_frame]
@[simp] theorem State.strike_active (s : State) (f : Field) : (s.strike f).active = s.active := by rw [State.strike_frame]
@[simp] theorem State.strike_staged (s : State) (f : Field) : (s.strike f).staged = s.staged := by rw [State.strike_frame]
@[simp] theorem State.strike_holding (s : State) (f : Field) : (s.strike f).holding = s.holding := by rw [State.strike_frame]
@[simp] theorem State.strike_free (s : State) (f : Field) : (s.strike f).free = s.free := by rw [State.strike_frame]
@[simp] theorem State.strike_pwr (s : State) (f : Field) : (s.strike f).pwr = s.pwr := by rw [State.strike_frame]
@[simp] theorem State.strike_gtb (s : State) (f : Field) : (s.strike f).gtb = s.gtb := by rw [State.strike_frame]
@[simp] theorem State.strike_rfp (s : State) (f : Field) : (s.strike f).rfp = s.rfp := by rw [State.strike_frame]
@[simp] theorem State.strike_dmx (s : State) (f : Field) : (s.strike f).dmx = s.dmx := by rw [State.strike_frame]
@[simp] theorem State.strike_cdc (s : State) (f : Field) : (s.strike f).cdc = s.cdc := by rw [State.strike_frame]
@[simp] theorem State.strike_sic (s : State) (f : Field) : (s.strike f).sic = s.sic := by rw [State.strike_frame]
@[simp] theorem State.strike_qmg (s : State) (f : Field) : (s.strike f).qmg = s.qmg := by rw [State.strike_frame]
@[simp] theorem State.strike_bgt (s : State) (f : Field) : (s.strike f).bgt = s.bgt := by rw [State.strike_frame]
@[simp] theorem State.strike_kvt (s : State) (f : Field) : (s.strike f).kvt = s.kvt := by rw [State.strike_frame]
@[simp] theorem State.strike_msq (s : State) (f : Field) : (s.strike f).msq = s.msq := by rw [State.strike_frame]
@[simp] theorem State.strike_slv (s : State) (f : Field) : (s.strike f).slv = s.slv := by rw [State.strike_frame]
@[simp] theorem State.strike_fwd (s : State) (f : Field) : (s.strike f).fwd = s.fwd := by rw [State.strike_frame]
@[simp] theorem State.strike_csc (s : State) (f : Field) : (s.strike f).csc = s.csc := by rw [State.strike_frame]
@[simp] theorem State.strike_lgc (s : State) (f : Field) : (s.strike f).lgc = s.lgc := by rw [State.strike_frame]
@[simp] theorem State.strike_hif (s : State) (f : Field) : (s.strike f).hif = s.hif := by rw [State.strike_frame]
@[simp] theorem State.strike_mem (s : State) (f : Field) : (s.strike f).mem = s.mem := by rw [State.strike_frame]
@[simp] theorem State.strike_prc (s : State) (f : Field) : (s.strike f).prc = s.prc := by rw [State.strike_frame]
@[simp] theorem State.strike_flash (s : State) (f : Field) : (s.strike f).flash = s.flash := by rw [State.strike_frame]
@[simp] theorem State.strike_cfg (s : State) (f : Field) : (s.strike f).cfg = s.cfg := by rw [State.strike_frame]
@[simp] theorem State.strike_upd (s : State) (f : Field) : (s.strike f).upd = s.upd := by rw [State.strike_frame]
@[simp] theorem State.strike_tst (s : State) (f : Field) : (s.strike f).tst = s.tst := by rw [State.strike_frame]
@[simp] theorem State.strike_told (s : State) (f : Field) : (s.strike f).told = s.told := by rw [State.strike_frame]
@[simp] theorem State.strike_inbox (s : State) (f : Field) : (s.strike f).inbox = s.inbox := by rw [State.strike_frame]
@[simp] theorem State.strike_i3inbox (s : State) (f : Field) : (s.strike f).i3inbox = s.i3inbox := by rw [State.strike_frame]

/-! ### countFault -/

/-- `countFault` changes nothing but regs. -/
theorem State.countFault_frame (s : State) (n : Notice) :
    s.countFault n = { s with regs := (s.countFault n).regs } := by
  unfold State.countFault
  dsimp only
  split <;> rfl

@[simp] theorem State.countFault_pending (s : State) (n : Notice) : (s.countFault n).pending = s.pending := by rw [State.countFault_frame]
@[simp] theorem State.countFault_active (s : State) (n : Notice) : (s.countFault n).active = s.active := by rw [State.countFault_frame]
@[simp] theorem State.countFault_staged (s : State) (n : Notice) : (s.countFault n).staged = s.staged := by rw [State.countFault_frame]
@[simp] theorem State.countFault_holding (s : State) (n : Notice) : (s.countFault n).holding = s.holding := by rw [State.countFault_frame]
@[simp] theorem State.countFault_free (s : State) (n : Notice) : (s.countFault n).free = s.free := by rw [State.countFault_frame]
@[simp] theorem State.countFault_evt (s : State) (n : Notice) : (s.countFault n).evt = s.evt := by rw [State.countFault_frame]
@[simp] theorem State.countFault_pwr (s : State) (n : Notice) : (s.countFault n).pwr = s.pwr := by rw [State.countFault_frame]
@[simp] theorem State.countFault_sup (s : State) (n : Notice) : (s.countFault n).sup = s.sup := by rw [State.countFault_frame]
@[simp] theorem State.countFault_gtb (s : State) (n : Notice) : (s.countFault n).gtb = s.gtb := by rw [State.countFault_frame]
@[simp] theorem State.countFault_rfp (s : State) (n : Notice) : (s.countFault n).rfp = s.rfp := by rw [State.countFault_frame]
@[simp] theorem State.countFault_dmx (s : State) (n : Notice) : (s.countFault n).dmx = s.dmx := by rw [State.countFault_frame]
@[simp] theorem State.countFault_cdc (s : State) (n : Notice) : (s.countFault n).cdc = s.cdc := by rw [State.countFault_frame]
@[simp] theorem State.countFault_sic (s : State) (n : Notice) : (s.countFault n).sic = s.sic := by rw [State.countFault_frame]
@[simp] theorem State.countFault_qmg (s : State) (n : Notice) : (s.countFault n).qmg = s.qmg := by rw [State.countFault_frame]
@[simp] theorem State.countFault_bgt (s : State) (n : Notice) : (s.countFault n).bgt = s.bgt := by rw [State.countFault_frame]
@[simp] theorem State.countFault_kvt (s : State) (n : Notice) : (s.countFault n).kvt = s.kvt := by rw [State.countFault_frame]
@[simp] theorem State.countFault_msq (s : State) (n : Notice) : (s.countFault n).msq = s.msq := by rw [State.countFault_frame]
@[simp] theorem State.countFault_slv (s : State) (n : Notice) : (s.countFault n).slv = s.slv := by rw [State.countFault_frame]
@[simp] theorem State.countFault_fwd (s : State) (n : Notice) : (s.countFault n).fwd = s.fwd := by rw [State.countFault_frame]
@[simp] theorem State.countFault_csc (s : State) (n : Notice) : (s.countFault n).csc = s.csc := by rw [State.countFault_frame]
@[simp] theorem State.countFault_lgc (s : State) (n : Notice) : (s.countFault n).lgc = s.lgc := by rw [State.countFault_frame]
@[simp] theorem State.countFault_hif (s : State) (n : Notice) : (s.countFault n).hif = s.hif := by rw [State.countFault_frame]
@[simp] theorem State.countFault_mem (s : State) (n : Notice) : (s.countFault n).mem = s.mem := by rw [State.countFault_frame]
@[simp] theorem State.countFault_prc (s : State) (n : Notice) : (s.countFault n).prc = s.prc := by rw [State.countFault_frame]
@[simp] theorem State.countFault_flash (s : State) (n : Notice) : (s.countFault n).flash = s.flash := by rw [State.countFault_frame]
@[simp] theorem State.countFault_cfg (s : State) (n : Notice) : (s.countFault n).cfg = s.cfg := by rw [State.countFault_frame]
@[simp] theorem State.countFault_upd (s : State) (n : Notice) : (s.countFault n).upd = s.upd := by rw [State.countFault_frame]
@[simp] theorem State.countFault_tst (s : State) (n : Notice) : (s.countFault n).tst = s.tst := by rw [State.countFault_frame]
@[simp] theorem State.countFault_told (s : State) (n : Notice) : (s.countFault n).told = s.told := by rw [State.countFault_frame]
@[simp] theorem State.countFault_inbox (s : State) (n : Notice) : (s.countFault n).inbox = s.inbox := by rw [State.countFault_frame]
@[simp] theorem State.countFault_i3inbox (s : State) (n : Notice) : (s.countFault n).i3inbox = s.i3inbox := by rw [State.countFault_frame]

/-! ### logPush -/

/-- `logPush` changes nothing but regs, evt, sup. -/
theorem State.logPush_frame (s : State) (e : LogEntry) :
    s.logPush e = { s with regs := (s.logPush e).regs, evt := (s.logPush e).evt, sup := (s.logPush e).sup } := by
  unfold State.logPush
  split
  · rw [State.fireIf_frame]
  · rw [State.fire_frame]; rfl

@[simp] theorem State.logPush_pending (s : State) (e : LogEntry) : (s.logPush e).pending = s.pending := by rw [State.logPush_frame]
@[simp] theorem State.logPush_active (s : State) (e : LogEntry) : (s.logPush e).active = s.active := by rw [State.logPush_frame]
@[simp] theorem State.logPush_staged (s : State) (e : LogEntry) : (s.logPush e).staged = s.staged := by rw [State.logPush_frame]
@[simp] theorem State.logPush_holding (s : State) (e : LogEntry) : (s.logPush e).holding = s.holding := by rw [State.logPush_frame]
@[simp] theorem State.logPush_free (s : State) (e : LogEntry) : (s.logPush e).free = s.free := by rw [State.logPush_frame]
@[simp] theorem State.logPush_pwr (s : State) (e : LogEntry) : (s.logPush e).pwr = s.pwr := by rw [State.logPush_frame]
@[simp] theorem State.logPush_gtb (s : State) (e : LogEntry) : (s.logPush e).gtb = s.gtb := by rw [State.logPush_frame]
@[simp] theorem State.logPush_rfp (s : State) (e : LogEntry) : (s.logPush e).rfp = s.rfp := by rw [State.logPush_frame]
@[simp] theorem State.logPush_dmx (s : State) (e : LogEntry) : (s.logPush e).dmx = s.dmx := by rw [State.logPush_frame]
@[simp] theorem State.logPush_cdc (s : State) (e : LogEntry) : (s.logPush e).cdc = s.cdc := by rw [State.logPush_frame]
@[simp] theorem State.logPush_sic (s : State) (e : LogEntry) : (s.logPush e).sic = s.sic := by rw [State.logPush_frame]
@[simp] theorem State.logPush_qmg (s : State) (e : LogEntry) : (s.logPush e).qmg = s.qmg := by rw [State.logPush_frame]
@[simp] theorem State.logPush_bgt (s : State) (e : LogEntry) : (s.logPush e).bgt = s.bgt := by rw [State.logPush_frame]
@[simp] theorem State.logPush_kvt (s : State) (e : LogEntry) : (s.logPush e).kvt = s.kvt := by rw [State.logPush_frame]
@[simp] theorem State.logPush_msq (s : State) (e : LogEntry) : (s.logPush e).msq = s.msq := by rw [State.logPush_frame]
@[simp] theorem State.logPush_slv (s : State) (e : LogEntry) : (s.logPush e).slv = s.slv := by rw [State.logPush_frame]
@[simp] theorem State.logPush_fwd (s : State) (e : LogEntry) : (s.logPush e).fwd = s.fwd := by rw [State.logPush_frame]
@[simp] theorem State.logPush_csc (s : State) (e : LogEntry) : (s.logPush e).csc = s.csc := by rw [State.logPush_frame]
@[simp] theorem State.logPush_lgc (s : State) (e : LogEntry) : (s.logPush e).lgc = s.lgc := by rw [State.logPush_frame]
@[simp] theorem State.logPush_hif (s : State) (e : LogEntry) : (s.logPush e).hif = s.hif := by rw [State.logPush_frame]
@[simp] theorem State.logPush_mem (s : State) (e : LogEntry) : (s.logPush e).mem = s.mem := by rw [State.logPush_frame]
@[simp] theorem State.logPush_prc (s : State) (e : LogEntry) : (s.logPush e).prc = s.prc := by rw [State.logPush_frame]
@[simp] theorem State.logPush_flash (s : State) (e : LogEntry) : (s.logPush e).flash = s.flash := by rw [State.logPush_frame]
@[simp] theorem State.logPush_cfg (s : State) (e : LogEntry) : (s.logPush e).cfg = s.cfg := by rw [State.logPush_frame]
@[simp] theorem State.logPush_upd (s : State) (e : LogEntry) : (s.logPush e).upd = s.upd := by rw [State.logPush_frame]
@[simp] theorem State.logPush_tst (s : State) (e : LogEntry) : (s.logPush e).tst = s.tst := by rw [State.logPush_frame]
@[simp] theorem State.logPush_told (s : State) (e : LogEntry) : (s.logPush e).told = s.told := by rw [State.logPush_frame]
@[simp] theorem State.logPush_inbox (s : State) (e : LogEntry) : (s.logPush e).inbox = s.inbox := by rw [State.logPush_frame]
@[simp] theorem State.logPush_i3inbox (s : State) (e : LogEntry) : (s.logPush e).i3inbox = s.i3inbox := by rw [State.logPush_frame]

/-! ### recordNotice -/

/-- `recordNotice` changes nothing but regs, evt, sup. -/
theorem State.recordNotice_frame (s : State) (n : Notice) :
    s.recordNotice n = { s with regs := (s.recordNotice n).regs, evt := (s.recordNotice n).evt, sup := (s.recordNotice n).sup } := by
  unfold State.recordNotice
  rw [State.fire_frame, State.logPush_frame, State.countFault_frame]

@[simp] theorem State.recordNotice_pending (s : State) (n : Notice) : (s.recordNotice n).pending = s.pending := by rw [State.recordNotice_frame]
@[simp] theorem State.recordNotice_active (s : State) (n : Notice) : (s.recordNotice n).active = s.active := by rw [State.recordNotice_frame]
@[simp] theorem State.recordNotice_staged (s : State) (n : Notice) : (s.recordNotice n).staged = s.staged := by rw [State.recordNotice_frame]
@[simp] theorem State.recordNotice_holding (s : State) (n : Notice) : (s.recordNotice n).holding = s.holding := by rw [State.recordNotice_frame]
@[simp] theorem State.recordNotice_free (s : State) (n : Notice) : (s.recordNotice n).free = s.free := by rw [State.recordNotice_frame]
@[simp] theorem State.recordNotice_pwr (s : State) (n : Notice) : (s.recordNotice n).pwr = s.pwr := by rw [State.recordNotice_frame]
@[simp] theorem State.recordNotice_gtb (s : State) (n : Notice) : (s.recordNotice n).gtb = s.gtb := by rw [State.recordNotice_frame]
@[simp] theorem State.recordNotice_rfp (s : State) (n : Notice) : (s.recordNotice n).rfp = s.rfp := by rw [State.recordNotice_frame]
@[simp] theorem State.recordNotice_dmx (s : State) (n : Notice) : (s.recordNotice n).dmx = s.dmx := by rw [State.recordNotice_frame]
@[simp] theorem State.recordNotice_cdc (s : State) (n : Notice) : (s.recordNotice n).cdc = s.cdc := by rw [State.recordNotice_frame]
@[simp] theorem State.recordNotice_sic (s : State) (n : Notice) : (s.recordNotice n).sic = s.sic := by rw [State.recordNotice_frame]
@[simp] theorem State.recordNotice_qmg (s : State) (n : Notice) : (s.recordNotice n).qmg = s.qmg := by rw [State.recordNotice_frame]
@[simp] theorem State.recordNotice_bgt (s : State) (n : Notice) : (s.recordNotice n).bgt = s.bgt := by rw [State.recordNotice_frame]
@[simp] theorem State.recordNotice_kvt (s : State) (n : Notice) : (s.recordNotice n).kvt = s.kvt := by rw [State.recordNotice_frame]
@[simp] theorem State.recordNotice_msq (s : State) (n : Notice) : (s.recordNotice n).msq = s.msq := by rw [State.recordNotice_frame]
@[simp] theorem State.recordNotice_slv (s : State) (n : Notice) : (s.recordNotice n).slv = s.slv := by rw [State.recordNotice_frame]
@[simp] theorem State.recordNotice_fwd (s : State) (n : Notice) : (s.recordNotice n).fwd = s.fwd := by rw [State.recordNotice_frame]
@[simp] theorem State.recordNotice_csc (s : State) (n : Notice) : (s.recordNotice n).csc = s.csc := by rw [State.recordNotice_frame]
@[simp] theorem State.recordNotice_lgc (s : State) (n : Notice) : (s.recordNotice n).lgc = s.lgc := by rw [State.recordNotice_frame]
@[simp] theorem State.recordNotice_hif (s : State) (n : Notice) : (s.recordNotice n).hif = s.hif := by rw [State.recordNotice_frame]
@[simp] theorem State.recordNotice_mem (s : State) (n : Notice) : (s.recordNotice n).mem = s.mem := by rw [State.recordNotice_frame]
@[simp] theorem State.recordNotice_prc (s : State) (n : Notice) : (s.recordNotice n).prc = s.prc := by rw [State.recordNotice_frame]
@[simp] theorem State.recordNotice_flash (s : State) (n : Notice) : (s.recordNotice n).flash = s.flash := by rw [State.recordNotice_frame]
@[simp] theorem State.recordNotice_cfg (s : State) (n : Notice) : (s.recordNotice n).cfg = s.cfg := by rw [State.recordNotice_frame]
@[simp] theorem State.recordNotice_upd (s : State) (n : Notice) : (s.recordNotice n).upd = s.upd := by rw [State.recordNotice_frame]
@[simp] theorem State.recordNotice_tst (s : State) (n : Notice) : (s.recordNotice n).tst = s.tst := by rw [State.recordNotice_frame]
@[simp] theorem State.recordNotice_told (s : State) (n : Notice) : (s.recordNotice n).told = s.told := by rw [State.recordNotice_frame]
@[simp] theorem State.recordNotice_inbox (s : State) (n : Notice) : (s.recordNotice n).inbox = s.inbox := by rw [State.recordNotice_frame]
@[simp] theorem State.recordNotice_i3inbox (s : State) (n : Notice) : (s.recordNotice n).i3inbox = s.i3inbox := by rw [State.recordNotice_frame]

/-! ### report -/

/-- `report` changes nothing but regs, evt, sup. -/
theorem State.report_frame (s : State) (n : Notice) :
    s.report n = { s with regs := (s.report n).regs, evt := (s.report n).evt, sup := (s.report n).sup } := by
  unfold State.report
  split
  · split <;> rfl
  · exact State.recordNotice_frame s n

@[simp] theorem State.report_pending (s : State) (n : Notice) : (s.report n).pending = s.pending := by rw [State.report_frame]
@[simp] theorem State.report_active (s : State) (n : Notice) : (s.report n).active = s.active := by rw [State.report_frame]
@[simp] theorem State.report_staged (s : State) (n : Notice) : (s.report n).staged = s.staged := by rw [State.report_frame]
@[simp] theorem State.report_holding (s : State) (n : Notice) : (s.report n).holding = s.holding := by rw [State.report_frame]
@[simp] theorem State.report_free (s : State) (n : Notice) : (s.report n).free = s.free := by rw [State.report_frame]
@[simp] theorem State.report_pwr (s : State) (n : Notice) : (s.report n).pwr = s.pwr := by rw [State.report_frame]
@[simp] theorem State.report_gtb (s : State) (n : Notice) : (s.report n).gtb = s.gtb := by rw [State.report_frame]
@[simp] theorem State.report_rfp (s : State) (n : Notice) : (s.report n).rfp = s.rfp := by rw [State.report_frame]
@[simp] theorem State.report_dmx (s : State) (n : Notice) : (s.report n).dmx = s.dmx := by rw [State.report_frame]
@[simp] theorem State.report_cdc (s : State) (n : Notice) : (s.report n).cdc = s.cdc := by rw [State.report_frame]
@[simp] theorem State.report_sic (s : State) (n : Notice) : (s.report n).sic = s.sic := by rw [State.report_frame]
@[simp] theorem State.report_qmg (s : State) (n : Notice) : (s.report n).qmg = s.qmg := by rw [State.report_frame]
@[simp] theorem State.report_bgt (s : State) (n : Notice) : (s.report n).bgt = s.bgt := by rw [State.report_frame]
@[simp] theorem State.report_kvt (s : State) (n : Notice) : (s.report n).kvt = s.kvt := by rw [State.report_frame]
@[simp] theorem State.report_msq (s : State) (n : Notice) : (s.report n).msq = s.msq := by rw [State.report_frame]
@[simp] theorem State.report_slv (s : State) (n : Notice) : (s.report n).slv = s.slv := by rw [State.report_frame]
@[simp] theorem State.report_fwd (s : State) (n : Notice) : (s.report n).fwd = s.fwd := by rw [State.report_frame]
@[simp] theorem State.report_csc (s : State) (n : Notice) : (s.report n).csc = s.csc := by rw [State.report_frame]
@[simp] theorem State.report_lgc (s : State) (n : Notice) : (s.report n).lgc = s.lgc := by rw [State.report_frame]
@[simp] theorem State.report_hif (s : State) (n : Notice) : (s.report n).hif = s.hif := by rw [State.report_frame]
@[simp] theorem State.report_mem (s : State) (n : Notice) : (s.report n).mem = s.mem := by rw [State.report_frame]
@[simp] theorem State.report_prc (s : State) (n : Notice) : (s.report n).prc = s.prc := by rw [State.report_frame]
@[simp] theorem State.report_flash (s : State) (n : Notice) : (s.report n).flash = s.flash := by rw [State.report_frame]
@[simp] theorem State.report_cfg (s : State) (n : Notice) : (s.report n).cfg = s.cfg := by rw [State.report_frame]
@[simp] theorem State.report_upd (s : State) (n : Notice) : (s.report n).upd = s.upd := by rw [State.report_frame]
@[simp] theorem State.report_tst (s : State) (n : Notice) : (s.report n).tst = s.tst := by rw [State.report_frame]
@[simp] theorem State.report_told (s : State) (n : Notice) : (s.report n).told = s.told := by rw [State.report_frame]
@[simp] theorem State.report_inbox (s : State) (n : Notice) : (s.report n).inbox = s.inbox := by rw [State.report_frame]
@[simp] theorem State.report_i3inbox (s : State) (n : Notice) : (s.report n).i3inbox = s.i3inbox := by rw [State.report_frame]

/-! ### xwFault -/

@[simp] theorem State.xwFault_pending (s : State) (rq : Req) (code unit addr : Nat) (wr : Bool) : (s.xwFault rq code unit addr wr).pending = s.pending := by unfold State.xwFault; simp only []; split <;> simp
@[simp] theorem State.xwFault_active (s : State) (rq : Req) (code unit addr : Nat) (wr : Bool) : (s.xwFault rq code unit addr wr).active = s.active := by unfold State.xwFault; simp only []; split <;> simp
@[simp] theorem State.xwFault_staged (s : State) (rq : Req) (code unit addr : Nat) (wr : Bool) : (s.xwFault rq code unit addr wr).staged = s.staged := by unfold State.xwFault; simp only []; split <;> simp
@[simp] theorem State.xwFault_holding (s : State) (rq : Req) (code unit addr : Nat) (wr : Bool) : (s.xwFault rq code unit addr wr).holding = s.holding := by unfold State.xwFault; simp only []; split <;> simp
@[simp] theorem State.xwFault_free (s : State) (rq : Req) (code unit addr : Nat) (wr : Bool) : (s.xwFault rq code unit addr wr).free = s.free := by unfold State.xwFault; simp only []; split <;> simp
@[simp] theorem State.xwFault_pwr (s : State) (rq : Req) (code unit addr : Nat) (wr : Bool) : (s.xwFault rq code unit addr wr).pwr = s.pwr := by unfold State.xwFault; simp only []; split <;> simp
@[simp] theorem State.xwFault_sup (s : State) (rq : Req) (code unit addr : Nat) (wr : Bool) : (s.xwFault rq code unit addr wr).sup = s.sup := by unfold State.xwFault; simp only []; split <;> simp
@[simp] theorem State.xwFault_gtb (s : State) (rq : Req) (code unit addr : Nat) (wr : Bool) : (s.xwFault rq code unit addr wr).gtb = s.gtb := by unfold State.xwFault; simp only []; split <;> simp
@[simp] theorem State.xwFault_rfp (s : State) (rq : Req) (code unit addr : Nat) (wr : Bool) : (s.xwFault rq code unit addr wr).rfp = s.rfp := by unfold State.xwFault; simp only []; split <;> simp
@[simp] theorem State.xwFault_dmx (s : State) (rq : Req) (code unit addr : Nat) (wr : Bool) : (s.xwFault rq code unit addr wr).dmx = s.dmx := by unfold State.xwFault; simp only []; split <;> simp
@[simp] theorem State.xwFault_cdc (s : State) (rq : Req) (code unit addr : Nat) (wr : Bool) : (s.xwFault rq code unit addr wr).cdc = s.cdc := by unfold State.xwFault; simp only []; split <;> simp
@[simp] theorem State.xwFault_sic (s : State) (rq : Req) (code unit addr : Nat) (wr : Bool) : (s.xwFault rq code unit addr wr).sic = s.sic := by unfold State.xwFault; simp only []; split <;> simp
@[simp] theorem State.xwFault_qmg (s : State) (rq : Req) (code unit addr : Nat) (wr : Bool) : (s.xwFault rq code unit addr wr).qmg = s.qmg := by unfold State.xwFault; simp only []; split <;> simp
@[simp] theorem State.xwFault_bgt (s : State) (rq : Req) (code unit addr : Nat) (wr : Bool) : (s.xwFault rq code unit addr wr).bgt = s.bgt := by unfold State.xwFault; simp only []; split <;> simp
@[simp] theorem State.xwFault_kvt (s : State) (rq : Req) (code unit addr : Nat) (wr : Bool) : (s.xwFault rq code unit addr wr).kvt = s.kvt := by unfold State.xwFault; simp only []; split <;> simp
@[simp] theorem State.xwFault_msq (s : State) (rq : Req) (code unit addr : Nat) (wr : Bool) : (s.xwFault rq code unit addr wr).msq = s.msq := by unfold State.xwFault; simp only []; split <;> simp
@[simp] theorem State.xwFault_slv (s : State) (rq : Req) (code unit addr : Nat) (wr : Bool) : (s.xwFault rq code unit addr wr).slv = s.slv := by unfold State.xwFault; simp only []; split <;> simp
@[simp] theorem State.xwFault_fwd (s : State) (rq : Req) (code unit addr : Nat) (wr : Bool) : (s.xwFault rq code unit addr wr).fwd = s.fwd := by unfold State.xwFault; simp only []; split <;> simp
@[simp] theorem State.xwFault_csc (s : State) (rq : Req) (code unit addr : Nat) (wr : Bool) : (s.xwFault rq code unit addr wr).csc = s.csc := by unfold State.xwFault; simp only []; split <;> simp
@[simp] theorem State.xwFault_lgc (s : State) (rq : Req) (code unit addr : Nat) (wr : Bool) : (s.xwFault rq code unit addr wr).lgc = s.lgc := by unfold State.xwFault; simp only []; split <;> simp
@[simp] theorem State.xwFault_hif (s : State) (rq : Req) (code unit addr : Nat) (wr : Bool) : (s.xwFault rq code unit addr wr).hif = s.hif := by unfold State.xwFault; simp only []; split <;> simp
@[simp] theorem State.xwFault_mem (s : State) (rq : Req) (code unit addr : Nat) (wr : Bool) : (s.xwFault rq code unit addr wr).mem = s.mem := by unfold State.xwFault; simp only []; split <;> simp
@[simp] theorem State.xwFault_prc (s : State) (rq : Req) (code unit addr : Nat) (wr : Bool) : (s.xwFault rq code unit addr wr).prc = s.prc := by unfold State.xwFault; simp only []; split <;> simp
@[simp] theorem State.xwFault_flash (s : State) (rq : Req) (code unit addr : Nat) (wr : Bool) : (s.xwFault rq code unit addr wr).flash = s.flash := by unfold State.xwFault; simp only []; split <;> simp
@[simp] theorem State.xwFault_cfg (s : State) (rq : Req) (code unit addr : Nat) (wr : Bool) : (s.xwFault rq code unit addr wr).cfg = s.cfg := by unfold State.xwFault; simp only []; split <;> simp
@[simp] theorem State.xwFault_upd (s : State) (rq : Req) (code unit addr : Nat) (wr : Bool) : (s.xwFault rq code unit addr wr).upd = s.upd := by unfold State.xwFault; simp only []; split <;> simp
@[simp] theorem State.xwFault_tst (s : State) (rq : Req) (code unit addr : Nat) (wr : Bool) : (s.xwFault rq code unit addr wr).tst = s.tst := by unfold State.xwFault; simp only []; split <;> simp
@[simp] theorem State.xwFault_told (s : State) (rq : Req) (code unit addr : Nat) (wr : Bool) : (s.xwFault rq code unit addr wr).told = s.told := by unfold State.xwFault; simp only []; split <;> simp
@[simp] theorem State.xwFault_inbox (s : State) (rq : Req) (code unit addr : Nat) (wr : Bool) : (s.xwFault rq code unit addr wr).inbox = s.inbox := by unfold State.xwFault; simp only []; split <;> simp
@[simp] theorem State.xwFault_i3inbox (s : State) (rq : Req) (code unit addr : Nat) (wr : Bool) : (s.xwFault rq code unit addr wr).i3inbox = s.i3inbox := by unfold State.xwFault; simp only []; split <;> simp
/-- `xwFault` changes nothing but regs, evt. -/
theorem State.xwFault_frame (s : State) (rq : Req) (code unit addr : Nat) (wr : Bool) :
    s.xwFault rq code unit addr wr = { s with regs := (s.xwFault rq code unit addr wr).regs, evt := (s.xwFault rq code unit addr wr).evt } := by
  apply State.ext_fields <;> simp


/-! ### holdOp -/

/-- `holdOp` changes nothing but regs, pwr. -/
theorem State.holdOp_frame (s : State) (o : HeldOp) :
    s.holdOp o = { s with regs := (s.holdOp o).regs, pwr := (s.holdOp o).pwr } := rfl

@[simp] theorem State.holdOp_pending (s : State) (o : HeldOp) : (s.holdOp o).pending = s.pending := rfl
@[simp] theorem State.holdOp_active (s : State) (o : HeldOp) : (s.holdOp o).active = s.active := rfl
@[simp] theorem State.holdOp_staged (s : State) (o : HeldOp) : (s.holdOp o).staged = s.staged := rfl
@[simp] theorem State.holdOp_holding (s : State) (o : HeldOp) : (s.holdOp o).holding = s.holding := rfl
@[simp] theorem State.holdOp_free (s : State) (o : HeldOp) : (s.holdOp o).free = s.free := rfl
@[simp] theorem State.holdOp_evt (s : State) (o : HeldOp) : (s.holdOp o).evt = s.evt := rfl
@[simp] theorem State.holdOp_sup (s : State) (o : HeldOp) : (s.holdOp o).sup = s.sup := rfl
@[simp] theorem State.holdOp_gtb (s : State) (o : HeldOp) : (s.holdOp o).gtb = s.gtb := rfl
@[simp] theorem State.holdOp_rfp (s : State) (o : HeldOp) : (s.holdOp o).rfp = s.rfp := rfl
@[simp] theorem State.holdOp_dmx (s : State) (o : HeldOp) : (s.holdOp o).dmx = s.dmx := rfl
@[simp] theorem State.holdOp_cdc (s : State) (o : HeldOp) : (s.holdOp o).cdc = s.cdc := rfl
@[simp] theorem State.holdOp_sic (s : State) (o : HeldOp) : (s.holdOp o).sic = s.sic := rfl
@[simp] theorem State.holdOp_qmg (s : State) (o : HeldOp) : (s.holdOp o).qmg = s.qmg := rfl
@[simp] theorem State.holdOp_bgt (s : State) (o : HeldOp) : (s.holdOp o).bgt = s.bgt := rfl
@[simp] theorem State.holdOp_kvt (s : State) (o : HeldOp) : (s.holdOp o).kvt = s.kvt := rfl
@[simp] theorem State.holdOp_msq (s : State) (o : HeldOp) : (s.holdOp o).msq = s.msq := rfl
@[simp] theorem State.holdOp_slv (s : State) (o : HeldOp) : (s.holdOp o).slv = s.slv := rfl
@[simp] theorem State.holdOp_fwd (s : State) (o : HeldOp) : (s.holdOp o).fwd = s.fwd := rfl
@[simp] theorem State.holdOp_csc (s : State) (o : HeldOp) : (s.holdOp o).csc = s.csc := rfl
@[simp] theorem State.holdOp_lgc (s : State) (o : HeldOp) : (s.holdOp o).lgc = s.lgc := rfl
@[simp] theorem State.holdOp_hif (s : State) (o : HeldOp) : (s.holdOp o).hif = s.hif := rfl
@[simp] theorem State.holdOp_mem (s : State) (o : HeldOp) : (s.holdOp o).mem = s.mem := rfl
@[simp] theorem State.holdOp_prc (s : State) (o : HeldOp) : (s.holdOp o).prc = s.prc := rfl
@[simp] theorem State.holdOp_flash (s : State) (o : HeldOp) : (s.holdOp o).flash = s.flash := rfl
@[simp] theorem State.holdOp_cfg (s : State) (o : HeldOp) : (s.holdOp o).cfg = s.cfg := rfl
@[simp] theorem State.holdOp_upd (s : State) (o : HeldOp) : (s.holdOp o).upd = s.upd := rfl
@[simp] theorem State.holdOp_tst (s : State) (o : HeldOp) : (s.holdOp o).tst = s.tst := rfl
@[simp] theorem State.holdOp_told (s : State) (o : HeldOp) : (s.holdOp o).told = s.told := rfl
@[simp] theorem State.holdOp_inbox (s : State) (o : HeldOp) : (s.holdOp o).inbox = s.inbox := rfl
@[simp] theorem State.holdOp_i3inbox (s : State) (o : HeldOp) : (s.holdOp o).i3inbox = s.i3inbox := rfl

/-! ### store -/

/-- `store` changes nothing but regs, evt. -/
theorem State.store_frame (s : State) (rq : Req) (p : Nat) (m v : Word) :
    s.store rq p m v = { s with regs := (s.store rq p m v).regs, evt := (s.store rq p m v).evt } := by
  unfold State.store
  dsimp only
  split
  · rw [State.newVectors_frame]; rfl
  · split
    · rw [State.newVectors_frame]; rfl
    · rfl

@[simp] theorem State.store_pending (s : State) (rq : Req) (p : Nat) (m v : Word) : (s.store rq p m v).pending = s.pending := by rw [State.store_frame]
@[simp] theorem State.store_active (s : State) (rq : Req) (p : Nat) (m v : Word) : (s.store rq p m v).active = s.active := by rw [State.store_frame]
@[simp] theorem State.store_staged (s : State) (rq : Req) (p : Nat) (m v : Word) : (s.store rq p m v).staged = s.staged := by rw [State.store_frame]
@[simp] theorem State.store_holding (s : State) (rq : Req) (p : Nat) (m v : Word) : (s.store rq p m v).holding = s.holding := by rw [State.store_frame]
@[simp] theorem State.store_free (s : State) (rq : Req) (p : Nat) (m v : Word) : (s.store rq p m v).free = s.free := by rw [State.store_frame]
@[simp] theorem State.store_pwr (s : State) (rq : Req) (p : Nat) (m v : Word) : (s.store rq p m v).pwr = s.pwr := by rw [State.store_frame]
@[simp] theorem State.store_sup (s : State) (rq : Req) (p : Nat) (m v : Word) : (s.store rq p m v).sup = s.sup := by rw [State.store_frame]
@[simp] theorem State.store_gtb (s : State) (rq : Req) (p : Nat) (m v : Word) : (s.store rq p m v).gtb = s.gtb := by rw [State.store_frame]
@[simp] theorem State.store_rfp (s : State) (rq : Req) (p : Nat) (m v : Word) : (s.store rq p m v).rfp = s.rfp := by rw [State.store_frame]
@[simp] theorem State.store_dmx (s : State) (rq : Req) (p : Nat) (m v : Word) : (s.store rq p m v).dmx = s.dmx := by rw [State.store_frame]
@[simp] theorem State.store_cdc (s : State) (rq : Req) (p : Nat) (m v : Word) : (s.store rq p m v).cdc = s.cdc := by rw [State.store_frame]
@[simp] theorem State.store_sic (s : State) (rq : Req) (p : Nat) (m v : Word) : (s.store rq p m v).sic = s.sic := by rw [State.store_frame]
@[simp] theorem State.store_qmg (s : State) (rq : Req) (p : Nat) (m v : Word) : (s.store rq p m v).qmg = s.qmg := by rw [State.store_frame]
@[simp] theorem State.store_bgt (s : State) (rq : Req) (p : Nat) (m v : Word) : (s.store rq p m v).bgt = s.bgt := by rw [State.store_frame]
@[simp] theorem State.store_kvt (s : State) (rq : Req) (p : Nat) (m v : Word) : (s.store rq p m v).kvt = s.kvt := by rw [State.store_frame]
@[simp] theorem State.store_msq (s : State) (rq : Req) (p : Nat) (m v : Word) : (s.store rq p m v).msq = s.msq := by rw [State.store_frame]
@[simp] theorem State.store_slv (s : State) (rq : Req) (p : Nat) (m v : Word) : (s.store rq p m v).slv = s.slv := by rw [State.store_frame]
@[simp] theorem State.store_fwd (s : State) (rq : Req) (p : Nat) (m v : Word) : (s.store rq p m v).fwd = s.fwd := by rw [State.store_frame]
@[simp] theorem State.store_csc (s : State) (rq : Req) (p : Nat) (m v : Word) : (s.store rq p m v).csc = s.csc := by rw [State.store_frame]
@[simp] theorem State.store_lgc (s : State) (rq : Req) (p : Nat) (m v : Word) : (s.store rq p m v).lgc = s.lgc := by rw [State.store_frame]
@[simp] theorem State.store_hif (s : State) (rq : Req) (p : Nat) (m v : Word) : (s.store rq p m v).hif = s.hif := by rw [State.store_frame]
@[simp] theorem State.store_mem (s : State) (rq : Req) (p : Nat) (m v : Word) : (s.store rq p m v).mem = s.mem := by rw [State.store_frame]
@[simp] theorem State.store_prc (s : State) (rq : Req) (p : Nat) (m v : Word) : (s.store rq p m v).prc = s.prc := by rw [State.store_frame]
@[simp] theorem State.store_flash (s : State) (rq : Req) (p : Nat) (m v : Word) : (s.store rq p m v).flash = s.flash := by rw [State.store_frame]
@[simp] theorem State.store_cfg (s : State) (rq : Req) (p : Nat) (m v : Word) : (s.store rq p m v).cfg = s.cfg := by rw [State.store_frame]
@[simp] theorem State.store_upd (s : State) (rq : Req) (p : Nat) (m v : Word) : (s.store rq p m v).upd = s.upd := by rw [State.store_frame]
@[simp] theorem State.store_tst (s : State) (rq : Req) (p : Nat) (m v : Word) : (s.store rq p m v).tst = s.tst := by rw [State.store_frame]
@[simp] theorem State.store_told (s : State) (rq : Req) (p : Nat) (m v : Word) : (s.store rq p m v).told = s.told := by rw [State.store_frame]
@[simp] theorem State.store_inbox (s : State) (rq : Req) (p : Nat) (m v : Word) : (s.store rq p m v).inbox = s.inbox := by rw [State.store_frame]
@[simp] theorem State.store_i3inbox (s : State) (rq : Req) (p : Nat) (m v : Word) : (s.store rq p m v).i3inbox = s.i3inbox := by rw [State.store_frame]

/-! ### applyWrite -/

/-- `applyWrite` changes nothing but regs, evt. -/
theorem State.applyWrite_frame (s : State) (rq : Req) (p : Nat) (v : Word) :
    s.applyWrite rq p v = { s with regs := (s.applyWrite rq p v).regs, evt := (s.applyWrite rq p v).evt } := by
  unfold State.applyWrite
  split
  · rfl
  · split
    · rw [State.recordFault_frame]
    · split
      · rw [State.recordFault_frame]
      · dsimp only
        split
        · rw [State.recordFault_frame, State.store_frame]
        · rw [State.store_frame]

@[simp] theorem State.applyWrite_pending (s : State) (rq : Req) (p : Nat) (v : Word) : (s.applyWrite rq p v).pending = s.pending := by rw [State.applyWrite_frame]
@[simp] theorem State.applyWrite_active (s : State) (rq : Req) (p : Nat) (v : Word) : (s.applyWrite rq p v).active = s.active := by rw [State.applyWrite_frame]
@[simp] theorem State.applyWrite_staged (s : State) (rq : Req) (p : Nat) (v : Word) : (s.applyWrite rq p v).staged = s.staged := by rw [State.applyWrite_frame]
@[simp] theorem State.applyWrite_holding (s : State) (rq : Req) (p : Nat) (v : Word) : (s.applyWrite rq p v).holding = s.holding := by rw [State.applyWrite_frame]
@[simp] theorem State.applyWrite_free (s : State) (rq : Req) (p : Nat) (v : Word) : (s.applyWrite rq p v).free = s.free := by rw [State.applyWrite_frame]
@[simp] theorem State.applyWrite_pwr (s : State) (rq : Req) (p : Nat) (v : Word) : (s.applyWrite rq p v).pwr = s.pwr := by rw [State.applyWrite_frame]
@[simp] theorem State.applyWrite_sup (s : State) (rq : Req) (p : Nat) (v : Word) : (s.applyWrite rq p v).sup = s.sup := by rw [State.applyWrite_frame]
@[simp] theorem State.applyWrite_gtb (s : State) (rq : Req) (p : Nat) (v : Word) : (s.applyWrite rq p v).gtb = s.gtb := by rw [State.applyWrite_frame]
@[simp] theorem State.applyWrite_rfp (s : State) (rq : Req) (p : Nat) (v : Word) : (s.applyWrite rq p v).rfp = s.rfp := by rw [State.applyWrite_frame]
@[simp] theorem State.applyWrite_dmx (s : State) (rq : Req) (p : Nat) (v : Word) : (s.applyWrite rq p v).dmx = s.dmx := by rw [State.applyWrite_frame]
@[simp] theorem State.applyWrite_cdc (s : State) (rq : Req) (p : Nat) (v : Word) : (s.applyWrite rq p v).cdc = s.cdc := by rw [State.applyWrite_frame]
@[simp] theorem State.applyWrite_sic (s : State) (rq : Req) (p : Nat) (v : Word) : (s.applyWrite rq p v).sic = s.sic := by rw [State.applyWrite_frame]
@[simp] theorem State.applyWrite_qmg (s : State) (rq : Req) (p : Nat) (v : Word) : (s.applyWrite rq p v).qmg = s.qmg := by rw [State.applyWrite_frame]
@[simp] theorem State.applyWrite_bgt (s : State) (rq : Req) (p : Nat) (v : Word) : (s.applyWrite rq p v).bgt = s.bgt := by rw [State.applyWrite_frame]
@[simp] theorem State.applyWrite_kvt (s : State) (rq : Req) (p : Nat) (v : Word) : (s.applyWrite rq p v).kvt = s.kvt := by rw [State.applyWrite_frame]
@[simp] theorem State.applyWrite_msq (s : State) (rq : Req) (p : Nat) (v : Word) : (s.applyWrite rq p v).msq = s.msq := by rw [State.applyWrite_frame]
@[simp] theorem State.applyWrite_slv (s : State) (rq : Req) (p : Nat) (v : Word) : (s.applyWrite rq p v).slv = s.slv := by rw [State.applyWrite_frame]
@[simp] theorem State.applyWrite_fwd (s : State) (rq : Req) (p : Nat) (v : Word) : (s.applyWrite rq p v).fwd = s.fwd := by rw [State.applyWrite_frame]
@[simp] theorem State.applyWrite_csc (s : State) (rq : Req) (p : Nat) (v : Word) : (s.applyWrite rq p v).csc = s.csc := by rw [State.applyWrite_frame]
@[simp] theorem State.applyWrite_lgc (s : State) (rq : Req) (p : Nat) (v : Word) : (s.applyWrite rq p v).lgc = s.lgc := by rw [State.applyWrite_frame]
@[simp] theorem State.applyWrite_hif (s : State) (rq : Req) (p : Nat) (v : Word) : (s.applyWrite rq p v).hif = s.hif := by rw [State.applyWrite_frame]
@[simp] theorem State.applyWrite_mem (s : State) (rq : Req) (p : Nat) (v : Word) : (s.applyWrite rq p v).mem = s.mem := by rw [State.applyWrite_frame]
@[simp] theorem State.applyWrite_prc (s : State) (rq : Req) (p : Nat) (v : Word) : (s.applyWrite rq p v).prc = s.prc := by rw [State.applyWrite_frame]
@[simp] theorem State.applyWrite_flash (s : State) (rq : Req) (p : Nat) (v : Word) : (s.applyWrite rq p v).flash = s.flash := by rw [State.applyWrite_frame]
@[simp] theorem State.applyWrite_cfg (s : State) (rq : Req) (p : Nat) (v : Word) : (s.applyWrite rq p v).cfg = s.cfg := by rw [State.applyWrite_frame]
@[simp] theorem State.applyWrite_upd (s : State) (rq : Req) (p : Nat) (v : Word) : (s.applyWrite rq p v).upd = s.upd := by rw [State.applyWrite_frame]
@[simp] theorem State.applyWrite_tst (s : State) (rq : Req) (p : Nat) (v : Word) : (s.applyWrite rq p v).tst = s.tst := by rw [State.applyWrite_frame]
@[simp] theorem State.applyWrite_told (s : State) (rq : Req) (p : Nat) (v : Word) : (s.applyWrite rq p v).told = s.told := by rw [State.applyWrite_frame]
@[simp] theorem State.applyWrite_inbox (s : State) (rq : Req) (p : Nat) (v : Word) : (s.applyWrite rq p v).inbox = s.inbox := by rw [State.applyWrite_frame]
@[simp] theorem State.applyWrite_i3inbox (s : State) (rq : Req) (p : Nat) (v : Word) : (s.applyWrite rq p v).i3inbox = s.i3inbox := by rw [State.applyWrite_frame]

/-! ### stage -/

@[simp] theorem State.stage_pending (s : State) (u g : Nat) : (s.stage u g).pending = s.pending := by unfold State.stage; generalize groupRegs u g = rs; dsimp only; split; exacts [rfl, State.setFld_pending _ _ _]
@[simp] theorem State.stage_active (s : State) (u g : Nat) : (s.stage u g).active = s.active := by unfold State.stage; generalize groupRegs u g = rs; dsimp only; split; exacts [rfl, State.setFld_active _ _ _]
@[simp] theorem State.stage_holding (s : State) (u g : Nat) : (s.stage u g).holding = s.holding := by unfold State.stage; generalize groupRegs u g = rs; dsimp only; split; exacts [rfl, State.setFld_holding _ _ _]
@[simp] theorem State.stage_free (s : State) (u g : Nat) : (s.stage u g).free = s.free := by unfold State.stage; generalize groupRegs u g = rs; dsimp only; split; exacts [rfl, State.setFld_free _ _ _]
@[simp] theorem State.stage_pwr (s : State) (u g : Nat) : (s.stage u g).pwr = s.pwr := by unfold State.stage; generalize groupRegs u g = rs; dsimp only; split; exacts [rfl, State.setFld_pwr _ _ _]
@[simp] theorem State.stage_sup (s : State) (u g : Nat) : (s.stage u g).sup = s.sup := by unfold State.stage; generalize groupRegs u g = rs; dsimp only; split; exacts [rfl, State.setFld_sup _ _ _]
@[simp] theorem State.stage_gtb (s : State) (u g : Nat) : (s.stage u g).gtb = s.gtb := by unfold State.stage; generalize groupRegs u g = rs; dsimp only; split; exacts [rfl, State.setFld_gtb _ _ _]
@[simp] theorem State.stage_rfp (s : State) (u g : Nat) : (s.stage u g).rfp = s.rfp := by unfold State.stage; generalize groupRegs u g = rs; dsimp only; split; exacts [rfl, State.setFld_rfp _ _ _]
@[simp] theorem State.stage_dmx (s : State) (u g : Nat) : (s.stage u g).dmx = s.dmx := by unfold State.stage; generalize groupRegs u g = rs; dsimp only; split; exacts [rfl, State.setFld_dmx _ _ _]
@[simp] theorem State.stage_cdc (s : State) (u g : Nat) : (s.stage u g).cdc = s.cdc := by unfold State.stage; generalize groupRegs u g = rs; dsimp only; split; exacts [rfl, State.setFld_cdc _ _ _]
@[simp] theorem State.stage_sic (s : State) (u g : Nat) : (s.stage u g).sic = s.sic := by unfold State.stage; generalize groupRegs u g = rs; dsimp only; split; exacts [rfl, State.setFld_sic _ _ _]
@[simp] theorem State.stage_qmg (s : State) (u g : Nat) : (s.stage u g).qmg = s.qmg := by unfold State.stage; generalize groupRegs u g = rs; dsimp only; split; exacts [rfl, State.setFld_qmg _ _ _]
@[simp] theorem State.stage_bgt (s : State) (u g : Nat) : (s.stage u g).bgt = s.bgt := by unfold State.stage; generalize groupRegs u g = rs; dsimp only; split; exacts [rfl, State.setFld_bgt _ _ _]
@[simp] theorem State.stage_kvt (s : State) (u g : Nat) : (s.stage u g).kvt = s.kvt := by unfold State.stage; generalize groupRegs u g = rs; dsimp only; split; exacts [rfl, State.setFld_kvt _ _ _]
@[simp] theorem State.stage_msq (s : State) (u g : Nat) : (s.stage u g).msq = s.msq := by unfold State.stage; generalize groupRegs u g = rs; dsimp only; split; exacts [rfl, State.setFld_msq _ _ _]
@[simp] theorem State.stage_slv (s : State) (u g : Nat) : (s.stage u g).slv = s.slv := by unfold State.stage; generalize groupRegs u g = rs; dsimp only; split; exacts [rfl, State.setFld_slv _ _ _]
@[simp] theorem State.stage_fwd (s : State) (u g : Nat) : (s.stage u g).fwd = s.fwd := by unfold State.stage; generalize groupRegs u g = rs; dsimp only; split; exacts [rfl, State.setFld_fwd _ _ _]
@[simp] theorem State.stage_csc (s : State) (u g : Nat) : (s.stage u g).csc = s.csc := by unfold State.stage; generalize groupRegs u g = rs; dsimp only; split; exacts [rfl, State.setFld_csc _ _ _]
@[simp] theorem State.stage_lgc (s : State) (u g : Nat) : (s.stage u g).lgc = s.lgc := by unfold State.stage; generalize groupRegs u g = rs; dsimp only; split; exacts [rfl, State.setFld_lgc _ _ _]
@[simp] theorem State.stage_hif (s : State) (u g : Nat) : (s.stage u g).hif = s.hif := by unfold State.stage; generalize groupRegs u g = rs; dsimp only; split; exacts [rfl, State.setFld_hif _ _ _]
@[simp] theorem State.stage_mem (s : State) (u g : Nat) : (s.stage u g).mem = s.mem := by unfold State.stage; generalize groupRegs u g = rs; dsimp only; split; exacts [rfl, State.setFld_mem _ _ _]
@[simp] theorem State.stage_prc (s : State) (u g : Nat) : (s.stage u g).prc = s.prc := by unfold State.stage; generalize groupRegs u g = rs; dsimp only; split; exacts [rfl, State.setFld_prc _ _ _]
@[simp] theorem State.stage_flash (s : State) (u g : Nat) : (s.stage u g).flash = s.flash := by unfold State.stage; generalize groupRegs u g = rs; dsimp only; split; exacts [rfl, State.setFld_flash _ _ _]
@[simp] theorem State.stage_cfg (s : State) (u g : Nat) : (s.stage u g).cfg = s.cfg := by unfold State.stage; generalize groupRegs u g = rs; dsimp only; split; exacts [rfl, State.setFld_cfg _ _ _]
@[simp] theorem State.stage_upd (s : State) (u g : Nat) : (s.stage u g).upd = s.upd := by unfold State.stage; generalize groupRegs u g = rs; dsimp only; split; exacts [rfl, State.setFld_upd _ _ _]
@[simp] theorem State.stage_tst (s : State) (u g : Nat) : (s.stage u g).tst = s.tst := by unfold State.stage; generalize groupRegs u g = rs; dsimp only; split; exacts [rfl, State.setFld_tst _ _ _]
@[simp] theorem State.stage_told (s : State) (u g : Nat) : (s.stage u g).told = s.told := by unfold State.stage; generalize groupRegs u g = rs; dsimp only; split; exacts [rfl, State.setFld_told _ _ _]
@[simp] theorem State.stage_inbox (s : State) (u g : Nat) : (s.stage u g).inbox = s.inbox := by unfold State.stage; generalize groupRegs u g = rs; dsimp only; split; exacts [rfl, State.setFld_inbox _ _ _]
@[simp] theorem State.stage_i3inbox (s : State) (u g : Nat) : (s.stage u g).i3inbox = s.i3inbox := by unfold State.stage; generalize groupRegs u g = rs; dsimp only; split; exacts [rfl, State.setFld_i3inbox _ _ _]
@[simp] theorem State.stage_evt (s : State) (u g : Nat) : (s.stage u g).evt = s.evt := by unfold State.stage; generalize groupRegs u g = rs; dsimp only; split; exacts [rfl, State.setFld_evt _ _ _]
/-- `stage` changes nothing but regs and staged. -/
theorem State.stage_frame (s : State) (u g : Nat) :
    s.stage u g = { s with regs := (s.stage u g).regs, staged := (s.stage u g).staged } := by
  apply State.ext_fields <;> simp


/-! ### unstage -/

@[simp] theorem State.unstage_pending (s : State) (u g : Nat) : (s.unstage u g).pending = s.pending := by unfold State.unstage; dsimp only; exact State.setFld_pending _ _ _
@[simp] theorem State.unstage_active (s : State) (u g : Nat) : (s.unstage u g).active = s.active := by unfold State.unstage; dsimp only; exact State.setFld_active _ _ _
@[simp] theorem State.unstage_holding (s : State) (u g : Nat) : (s.unstage u g).holding = s.holding := by unfold State.unstage; dsimp only; exact State.setFld_holding _ _ _
@[simp] theorem State.unstage_free (s : State) (u g : Nat) : (s.unstage u g).free = s.free := by unfold State.unstage; dsimp only; exact State.setFld_free _ _ _
@[simp] theorem State.unstage_evt (s : State) (u g : Nat) : (s.unstage u g).evt = s.evt := by unfold State.unstage; dsimp only; exact State.setFld_evt _ _ _
@[simp] theorem State.unstage_pwr (s : State) (u g : Nat) : (s.unstage u g).pwr = s.pwr := by unfold State.unstage; dsimp only; exact State.setFld_pwr _ _ _
@[simp] theorem State.unstage_sup (s : State) (u g : Nat) : (s.unstage u g).sup = s.sup := by unfold State.unstage; dsimp only; exact State.setFld_sup _ _ _
@[simp] theorem State.unstage_gtb (s : State) (u g : Nat) : (s.unstage u g).gtb = s.gtb := by unfold State.unstage; dsimp only; exact State.setFld_gtb _ _ _
@[simp] theorem State.unstage_rfp (s : State) (u g : Nat) : (s.unstage u g).rfp = s.rfp := by unfold State.unstage; dsimp only; exact State.setFld_rfp _ _ _
@[simp] theorem State.unstage_dmx (s : State) (u g : Nat) : (s.unstage u g).dmx = s.dmx := by unfold State.unstage; dsimp only; exact State.setFld_dmx _ _ _
@[simp] theorem State.unstage_cdc (s : State) (u g : Nat) : (s.unstage u g).cdc = s.cdc := by unfold State.unstage; dsimp only; exact State.setFld_cdc _ _ _
@[simp] theorem State.unstage_sic (s : State) (u g : Nat) : (s.unstage u g).sic = s.sic := by unfold State.unstage; dsimp only; exact State.setFld_sic _ _ _
@[simp] theorem State.unstage_qmg (s : State) (u g : Nat) : (s.unstage u g).qmg = s.qmg := by unfold State.unstage; dsimp only; exact State.setFld_qmg _ _ _
@[simp] theorem State.unstage_bgt (s : State) (u g : Nat) : (s.unstage u g).bgt = s.bgt := by unfold State.unstage; dsimp only; exact State.setFld_bgt _ _ _
@[simp] theorem State.unstage_kvt (s : State) (u g : Nat) : (s.unstage u g).kvt = s.kvt := by unfold State.unstage; dsimp only; exact State.setFld_kvt _ _ _
@[simp] theorem State.unstage_msq (s : State) (u g : Nat) : (s.unstage u g).msq = s.msq := by unfold State.unstage; dsimp only; exact State.setFld_msq _ _ _
@[simp] theorem State.unstage_slv (s : State) (u g : Nat) : (s.unstage u g).slv = s.slv := by unfold State.unstage; dsimp only; exact State.setFld_slv _ _ _
@[simp] theorem State.unstage_fwd (s : State) (u g : Nat) : (s.unstage u g).fwd = s.fwd := by unfold State.unstage; dsimp only; exact State.setFld_fwd _ _ _
@[simp] theorem State.unstage_csc (s : State) (u g : Nat) : (s.unstage u g).csc = s.csc := by unfold State.unstage; dsimp only; exact State.setFld_csc _ _ _
@[simp] theorem State.unstage_lgc (s : State) (u g : Nat) : (s.unstage u g).lgc = s.lgc := by unfold State.unstage; dsimp only; exact State.setFld_lgc _ _ _
@[simp] theorem State.unstage_hif (s : State) (u g : Nat) : (s.unstage u g).hif = s.hif := by unfold State.unstage; dsimp only; exact State.setFld_hif _ _ _
@[simp] theorem State.unstage_mem (s : State) (u g : Nat) : (s.unstage u g).mem = s.mem := by unfold State.unstage; dsimp only; exact State.setFld_mem _ _ _
@[simp] theorem State.unstage_prc (s : State) (u g : Nat) : (s.unstage u g).prc = s.prc := by unfold State.unstage; dsimp only; exact State.setFld_prc _ _ _
@[simp] theorem State.unstage_flash (s : State) (u g : Nat) : (s.unstage u g).flash = s.flash := by unfold State.unstage; dsimp only; exact State.setFld_flash _ _ _
@[simp] theorem State.unstage_cfg (s : State) (u g : Nat) : (s.unstage u g).cfg = s.cfg := by unfold State.unstage; dsimp only; exact State.setFld_cfg _ _ _
@[simp] theorem State.unstage_upd (s : State) (u g : Nat) : (s.unstage u g).upd = s.upd := by unfold State.unstage; dsimp only; exact State.setFld_upd _ _ _
@[simp] theorem State.unstage_tst (s : State) (u g : Nat) : (s.unstage u g).tst = s.tst := by unfold State.unstage; dsimp only; exact State.setFld_tst _ _ _
@[simp] theorem State.unstage_told (s : State) (u g : Nat) : (s.unstage u g).told = s.told := by unfold State.unstage; dsimp only; exact State.setFld_told _ _ _
@[simp] theorem State.unstage_inbox (s : State) (u g : Nat) : (s.unstage u g).inbox = s.inbox := by unfold State.unstage; dsimp only; exact State.setFld_inbox _ _ _
@[simp] theorem State.unstage_i3inbox (s : State) (u g : Nat) : (s.unstage u g).i3inbox = s.i3inbox := by unfold State.unstage; dsimp only; exact State.setFld_i3inbox _ _ _
/-- `unstage` changes nothing but regs, staged. -/
theorem State.unstage_frame (s : State) (u g : Nat) :
    s.unstage u g = { s with regs := (s.unstage u g).regs, staged := (s.unstage u g).staged } := by
  apply State.ext_fields <;> simp


end Sys2Proof.Machine
end

