-- ==== Sys2Proof/Laws/Tab.lean ====
section
/-! SUPPORT. Laws of the sparse tables: read after write, and the canonical form. -/

namespace Sys2Proof.Machine

variable {α : Type}

/-! ### Read after write -/

@[simp] theorem Tab.find_put_same (t : Tab α) (k : Nat) (x : α) : Tab.find (Tab.put t k x) k = some x := by
  induction t with
  | nil => simp [Tab.put, Tab.find]
  | cons e t ih =>
    obtain ⟨a, y⟩ := e
    simp only [Tab.put]
    split
    · simp [Tab.find]
    · split
      · simp [Tab.find]
      · rw [Tab.find, if_neg (by omega), ih]

theorem Tab.find_put_ne (t : Tab α) (k j : Nat) (x : α) (h : j ≠ k) : Tab.find (Tab.put t k x) j = Tab.find t j := by
  induction t with
  | nil => simp [Tab.put, Tab.find, h.symm]
  | cons e t ih =>
    obtain ⟨a, y⟩ := e
    simp only [Tab.put]
    split
    · simp [Tab.find, h.symm]
    · split
      · rename_i h2
        subst h2
        simp [Tab.find, h.symm]
      · simp [Tab.find, ih]

@[simp] theorem Tab.find_del_same (t : Tab α) (k : Nat) : Tab.find (Tab.del t k) k = none := by
  induction t with
  | nil => rfl
  | cons e t ih =>
    obtain ⟨a, y⟩ := e
    simp only [Tab.del]
    split
    · exact ih
    · rename_i h
      simp [Tab.find, h, ih]

theorem Tab.find_del_ne (t : Tab α) (k j : Nat) (h : j ≠ k) : Tab.find (Tab.del t k) j = Tab.find t j := by
  induction t with
  | nil => rfl
  | cons e t ih =>
    obtain ⟨a, y⟩ := e
    simp only [Tab.del]
    split
    · rename_i h2
      subst h2
      simp [Tab.find, h.symm, ih]
    · simp [Tab.find, ih]

/-- Reading key `j` of a table written at `k` (unlisted keys read as `d`). -/
theorem Tab.getD'_putD [DecidableEq α] (t : Tab α) (d : α) (k : Nat) (x : α) :
    (Tab.find (Tab.putD t d k x) k).getD d = x := by
  unfold Tab.putD
  split
  · rename_i h
    simp [h]
  · simp

theorem Tab.find_putD_ne [DecidableEq α] (t : Tab α) (d : α) (k j : Nat) (x : α) (h : j ≠ k) :
    Tab.find (Tab.putD t d k x) j = Tab.find t j := by
  unfold Tab.putD
  split
  · exact Tab.find_del_ne t k j h
  · exact Tab.find_put_ne t k j x h

/-! ### The canonical form -/

theorem Tab.sortedFrom_weaken (t : Tab α) (b c : Option Nat) (h : Tab.sortedFrom b t = true)
    (hb : ∀ x, c = some x → ∃ y, b = some y ∧ x ≤ y) : Tab.sortedFrom c t = true := by
  cases t with
  | nil => rfl
  | cons e t =>
    obtain ⟨a, y⟩ := e
    simp only [Tab.sortedFrom, Bool.and_eq_true] at h ⊢
    refine ⟨?_, h.2⟩
    cases c with
    | none => rfl
    | some x =>
      obtain ⟨z, hz, hxz⟩ := hb x rfl
      subst hz
      simp only [decide_eq_true_eq] at h ⊢
      omega

theorem Tab.sortedFrom_none (t : Tab α) (b : Option Nat) (h : Tab.sortedFrom b t = true) : Tab.sorted t = true :=
  Tab.sortedFrom_weaken t b none h (fun _ hx => by simp at hx)

theorem Tab.above (b : Option Nat) (k : Nat) :
    (∀ y, b = some y → y < k) → (match b with | none => true | some y => decide (y < k)) = true := by
  intro hk
  cases b with
  | none => rfl
  | some y => simpa using hk y rfl

theorem Tab.sortedFrom_put (t : Tab α) (b : Option Nat) (k : Nat) (x : α) (h : Tab.sortedFrom b t = true)
    (hk : ∀ y, b = some y → y < k) : Tab.sortedFrom b (Tab.put t k x) = true := by
  induction t generalizing b with
  | nil =>
    simp only [Tab.put, Tab.sortedFrom, Bool.and_true]
    exact Tab.above b k hk
  | cons e t ih =>
    obtain ⟨a, y⟩ := e
    simp only [Tab.sortedFrom, Bool.and_eq_true] at h
    simp only [Tab.put]
    split
    · rename_i h1
      simp only [Tab.sortedFrom, Bool.and_eq_true]
      exact ⟨Tab.above b k hk, by simpa using h1, h.2⟩
    · split
      · rename_i h2
        subst h2
        simp only [Tab.sortedFrom, Bool.and_eq_true]
        exact ⟨h.1, h.2⟩
      · simp only [Tab.sortedFrom, Bool.and_eq_true]
        refine ⟨h.1, ih (some a) h.2 (fun z hz => ?_)⟩
        simp only [Option.some.injEq] at hz
        omega

theorem Tab.sorted_put (t : Tab α) (k : Nat) (x : α) (h : Tab.sorted t = true) : Tab.sorted (Tab.put t k x) = true :=
  Tab.sortedFrom_put t none k x h (fun _ hy => by simp at hy)

theorem Tab.sortedFrom_filter (t : Tab α) (b : Option Nat) (p : Nat × α → Bool) (h : Tab.sortedFrom b t = true) :
    Tab.sortedFrom b (t.filter p) = true := by
  induction t generalizing b with
  | nil => rfl
  | cons e t ih =>
    obtain ⟨a, y⟩ := e
    simp only [Tab.sortedFrom, Bool.and_eq_true] at h
    rw [List.filter_cons]
    split
    · simp only [Tab.sortedFrom, Bool.and_eq_true]
      exact ⟨h.1, ih (some a) h.2⟩
    · refine ih b (Tab.sortedFrom_weaken t (some a) b h.2 (fun x hx => ⟨a, rfl, ?_⟩))
      subst hx
      have := h.1
      simp only [decide_eq_true_eq] at this
      omega

theorem Tab.del_eq_filter (t : Tab α) (k : Nat) : Tab.del t k = t.filter (fun e => e.1 != k) := by
  induction t with
  | nil => rfl
  | cons e t ih =>
    obtain ⟨a, y⟩ := e
    simp only [Tab.del]
    split
    · rename_i h
      simp [h, ih]
    · rename_i h
      rw [List.filter_cons, if_pos (by simpa using h), ih]

theorem Tab.sorted_only (t : Tab α) (p : Nat → α → Bool) (h : Tab.sorted t = true) : Tab.sorted (Tab.only t p) = true :=
  Tab.sortedFrom_filter t none _ h

theorem Tab.all_put (t : Tab α) (k : Nat) (x : α) (q : Nat × α → Bool) (h : t.all q = true) (hx : q (k, x) = true) :
    (Tab.put t k x).all q = true := by
  induction t with
  | nil => simp [Tab.put, hx]
  | cons e t ih =>
    obtain ⟨a, y⟩ := e
    simp only [List.all_cons, Bool.and_eq_true] at h
    simp only [Tab.put]
    split
    · simp [hx, h]
    · split
      · simp [hx, h]
      · simp [h, ih h.2]

theorem Tab.all_filter (t : Tab α) (p q : Nat × α → Bool) (h : t.all q = true) : (t.filter p).all q = true := by
  rw [List.all_eq_true] at h ⊢
  exact fun e he => h e (List.mem_filter.1 he).1

/-- Writing keeps the canonical form. -/
theorem Tab.canon_putD [DecidableEq α] (d : Nat → α) (t : Tab α) (k : Nat) (x : α) (h : Tab.canon d t = true) :
    Tab.canon d (Tab.putD t (d k) k x) = true := by
  simp only [Tab.canon, Bool.and_eq_true] at h ⊢
  unfold Tab.putD
  split
  · rw [Tab.del_eq_filter]
    exact ⟨Tab.sortedFrom_filter t none _ h.1, Tab.all_filter t _ _ h.2⟩
  · rename_i hx
    exact ⟨Tab.sorted_put t k x h.1, Tab.all_put t k x _ h.2 (by simpa using hx)⟩

/-- Dropping entries keeps the canonical form. -/
theorem Tab.canon_only [DecidableEq α] (d : Nat → α) (t : Tab α) (p : Nat → α → Bool) (h : Tab.canon d t = true) :
    Tab.canon d (Tab.only t p) = true := by
  simp only [Tab.canon, Bool.and_eq_true] at h ⊢
  exact ⟨Tab.sorted_only t p h.1, Tab.all_filter t _ _ h.2⟩

theorem Tab.canon_nil [DecidableEq α] (d : Nat → α) : Tab.canon d ([] : Tab α) = true := rfl

/-! ### Order -/

/-- Insertion adds its element and loses none. -/
theorem insertBy_perm (le : α → α → Bool) (x : α) (l : List α) : (insertBy le x l).Perm (x :: l) := by
  induction l with
  | nil => exact .refl _
  | cons y l ih =>
    unfold insertBy
    split
    · exact .refl _
    · exact (ih.cons y).trans (.swap x y l)

/-- A sorted list has the elements of the list. -/
theorem sortBy_perm (le : α → α → Bool) (l : List α) : (sortBy le l).Perm l := by
  induction l with
  | nil => exact .refl _
  | cons x l ih => exact (insertBy_perm le x (sortBy le l)).trans (ih.cons x)

@[simp] theorem length_sortBy (le : α → α → Bool) (l : List α) : (sortBy le l).length = l.length :=
  (sortBy_perm le l).length_eq

end Sys2Proof.Machine
end

