-- ==== Sys2Proof/Laws/Regs.lean ====
section
/-! SUPPORT. What a register, a field and a counter read as after each shared operation. -/

namespace Sys2Proof.Machine

/-! ### Registers -/

@[simp] theorem State.reg_setReg_same (s : State) (a : Nat) (v : Word) : (s.setReg a v).reg a = v := by
  have h := Tab.getD'_putD s.regs (resetOf a) a v
  exact h

theorem State.reg_setReg_ne (s : State) (a b : Nat) (v : Word) (h : b ≠ a) : (s.setReg a v).reg b = s.reg b := by
  show ((s.regs.putD (resetOf a) a v).find b).getD (resetOf b) = _
  rw [Tab.find_putD_ne s.regs (resetOf a) a b v h]
  rfl

/-- Reading a register needs nothing but the register file. -/
theorem State.reg_congr {s t : State} (h : t.regs = s.regs) (a : Nat) : t.reg a = s.reg a := by
  unfold State.reg
  rw [h]

theorem State.fld_congr {s t : State} (h : t.regs = s.regs) (f : Field) : t.fld f = s.fld f := by
  unfold State.fld
  rw [State.reg_congr h]

theorem State.on_congr {s t : State} (h : t.regs = s.regs) (f : Field) : t.on f = s.on f := by
  unfold State.on
  rw [State.fld_congr h]

theorem State.ctr_congr {s t : State} (h : t.regs = s.regs) (c : Nat) : t.ctr c = s.ctr c := by
  unfold State.ctr
  rw [State.reg_congr h, State.reg_congr h]

/-! ### Updates of other parts of the state -/

section

variable {x0 : List Instr} {x2 : Tab Word} {x3 : List Staged} {x4 : Tab Nat} {x5 : Nat} {x6 : Evt} {x7 : Pwr} {x8 : Sup} {x9 : Gtb} {x10 : Rfp} {x11 : Dmx} {x12 : Cdc} {x13 : Sic} {x14 : Qmg} {x15 : Bgt} {x16 : Kvt} {x17 : Msq} {x18 : Slv} {x19 : Fwd} {x20 : Csc} {x21 : Lgc} {x22 : Hif} {x23 : Mem} {x24 : Prc} {x25 : Tab (List Octet)} {x26 : Cfg} {x27 : Upd} {x28 : Tst} {x29 : List Told} {x30 : List RxFrame} {x31 : List RxFrame}

/-- A register reads the same whatever else of the state changes. -/
theorem State.reg_mk (s : State) (a : Nat) : (State.mk x0 (State.regs s) x2 x3 x4 x5 x6 x7 x8 x9 x10 x11 x12 x13 x14 x15 x16 x17 x18 x19 x20 x21 x22 x23 x24 x25 x26 x27 x28 x29 x30 x31).reg a = s.reg a := State.reg_congr rfl _

theorem State.fld_mk (s : State) (f : Field) : (State.mk x0 (State.regs s) x2 x3 x4 x5 x6 x7 x8 x9 x10 x11 x12 x13 x14 x15 x16 x17 x18 x19 x20 x21 x22 x23 x24 x25 x26 x27 x28 x29 x30 x31).fld f = s.fld f := State.fld_congr rfl _

theorem State.on_mk (s : State) (f : Field) : (State.mk x0 (State.regs s) x2 x3 x4 x5 x6 x7 x8 x9 x10 x11 x12 x13 x14 x15 x16 x17 x18 x19 x20 x21 x22 x23 x24 x25 x26 x27 x28 x29 x30 x31).on f = s.on f := State.on_congr rfl _

theorem State.ctr_mk (s : State) (c : Nat) : (State.mk x0 (State.regs s) x2 x3 x4 x5 x6 x7 x8 x9 x10 x11 x12 x13 x14 x15 x16 x17 x18 x19 x20 x21 x22 x23 x24 x25 x26 x27 x28 x29 x30 x31).ctr c = s.ctr c := State.ctr_congr rfl _

end

@[simp] theorem State.reg_at (s : State) (t : Time) (a : Nat) : (s.at t).reg a = s.reg a := State.reg_congr rfl _
@[simp] theorem State.fld_at (s : State) (t : Time) (f : Field) : (s.at t).fld f = s.fld f := State.fld_congr rfl _
@[simp] theorem State.on_at (s : State) (t : Time) (f : Field) : (s.at t).on f = s.on f := State.on_congr rfl _
@[simp] theorem State.ctr_at (s : State) (t : Time) (c : Nat) : (s.at t).ctr c = s.ctr c := State.ctr_congr rfl _
@[simp] theorem State.gt_at (s : State) (t : Time) : (s.at t).gtb.gt = t.gt % 2 ^ 64 := rfl
@[simp] theorem State.ft_at (s : State) (t : Time) : (s.at t).gtb.ft = t.ft := rfl
@[simp] theorem State.reg_respond (s : State) (l : List Octet) (k : Bool) (a : Nat) : (s.respond l k).reg a = s.reg a := State.reg_congr rfl _
@[simp] theorem State.fld_respond (s : State) (l : List Octet) (k : Bool) (f : Field) : (s.respond l k).fld f = s.fld f := State.fld_congr rfl _
@[simp] theorem State.on_respond (s : State) (l : List Octet) (k : Bool) (f : Field) : (s.respond l k).on f = s.on f := State.on_congr rfl _
@[simp] theorem State.ctr_respond (s : State) (l : List Octet) (k : Bool) (c : Nat) : (s.respond l k).ctr c = s.ctr c := State.ctr_congr rfl _
@[simp] theorem State.resp_respond (s : State) (l : List Octet) (k : Bool) : (s.respond l k).evt.resp = { data := l, ok := k } := rfl
@[simp] theorem State.reg_nextFree (s : State) (a : Nat) : s.nextFree.reg a = s.reg a := State.reg_congr rfl _
@[simp] theorem State.dom_setReg (s : State) (a : Nat) (v : Word) (d : Nat) : (s.setReg a v).dom d = s.dom d := rfl

/-- The state of a domain needs nothing but PWR. -/
theorem State.dom_congr {s t : State} (h : t.pwr = s.pwr) (d : Nat) : t.dom d = s.dom d := by
  unfold State.dom
  rw [h]

theorem State.domReady_congr {s t : State} (h : t.pwr = s.pwr) (hc : t.sup.refclkLost = s.sup.refclkLost) (d : Nat) :
    t.domReady d = s.domReady d := by
  unfold State.domReady State.coreClk
  rw [State.dom_congr h, h, hc]

/-! ### Fields -/

/-- A field just written reads as the value modulo its width. -/
theorem Field.ext_ins (f : Field) (v : Word) (n : Nat) (h : f.lo + f.w ≤ 32) : f.ext (f.ins v n) = n % 2 ^ f.w := by
  unfold Field.ext Field.ins bitMask
  have : ((v &&& ~~~((BitVec.allOnes f.w).setWidth 32 <<< f.lo)) ||| ((BitVec.ofNat f.w n).setWidth 32 <<< f.lo)).extractLsb' f.lo f.w
      = BitVec.ofNat f.w n := by
    apply BitVec.eq_of_getLsbD_eq
    intro i hi
    simp only [BitVec.getLsbD_extractLsb', BitVec.getLsbD_or, BitVec.getLsbD_and, BitVec.getLsbD_not, BitVec.getLsbD_shiftLeft,
      BitVec.getLsbD_setWidth, BitVec.getLsbD_allOnes]
    have h1 : f.lo + i < 32 := by omega
    have h2 : ¬ (f.lo + i < f.lo) := by omega
    have h3 : f.lo + i - f.lo = i := by omega
    have h4 : i < 32 := by omega
    simp [hi, h1, h3, h4]
  rw [this, BitVec.toNat_ofNat]

/-- A field beside the one just written keeps its value. -/
theorem Field.ext_ins_apart (f g : Field) (v : Word) (n : Nat) (h : g.lo + g.w ≤ f.lo ∨ f.lo + f.w ≤ g.lo) :
    g.ext (f.ins v n) = g.ext v := by
  unfold Field.ext Field.ins bitMask
  have : ((v &&& ~~~((BitVec.allOnes f.w).setWidth 32 <<< f.lo)) ||| ((BitVec.ofNat f.w n).setWidth 32 <<< f.lo)).extractLsb' g.lo g.w
      = v.extractLsb' g.lo g.w := by
    apply BitVec.eq_of_getLsbD_eq
    intro i hi
    simp only [BitVec.getLsbD_extractLsb', BitVec.getLsbD_or, BitVec.getLsbD_and, BitVec.getLsbD_not, BitVec.getLsbD_shiftLeft,
      BitVec.getLsbD_setWidth, BitVec.getLsbD_allOnes, BitVec.getLsbD_ofNat]
    by_cases hk : g.lo + i < 32
    · by_cases h1 : g.lo + i < f.lo
      · simp [hk, h1, hi]
      · have h2 : ¬ (g.lo + i - f.lo < f.w) := by omega
        simp [hk, h1, h2, hi]
    · have : v.getLsbD (g.lo + i) = false := BitVec.getLsbD_of_ge v _ (by omega)
      simp [hk, this]
  rw [this]

/-- Is the field one bit of a register? -/
def Field.isFlag (f : Field) : Bool := f.w == 1 && Nat.blt f.lo 32

/-- Do two fields share no bit? -/
def Field.apart (f g : Field) : Bool := f.reg != g.reg || (Nat.ble (g.lo + g.w) f.lo || Nat.ble (f.lo + f.w) g.lo)

@[simp] theorem State.reg_setFld_same (s : State) (f : Field) (n : Nat) : (s.setFld f n).reg f.reg = f.ins (s.reg f.reg) n :=
  State.reg_setReg_same s f.reg _

theorem State.reg_setFld_ne (s : State) (f : Field) (n a : Nat) (h : a ≠ f.reg) : (s.setFld f n).reg a = s.reg a :=
  State.reg_setReg_ne s f.reg a _ h

theorem State.fld_setFld_same (s : State) (f : Field) (n : Nat) (h : f.lo + f.w ≤ 32) : (s.setFld f n).fld f = n % 2 ^ f.w := by
  unfold State.fld
  rw [State.reg_setFld_same, Field.ext_ins f _ n h]

theorem State.fld_setFld_ne (s : State) (f g : Field) (n : Nat) (h : Field.apart f g = true) : (s.setFld f n).fld g = s.fld g := by
  unfold State.fld
  simp only [Field.apart, Bool.or_eq_true, bne_iff_ne, ne_eq, Nat.ble_eq] at h
  by_cases hr : f.reg = g.reg
  · rw [← hr, State.reg_setFld_same]
    refine Field.ext_ins_apart f g _ n ?_
    rcases h with h | h
    · exact absurd hr h
    · exact h
  · rw [State.reg_setFld_ne s f n g.reg (fun e => hr e.symm)]

theorem State.fld_setReg_same (s : State) (f : Field) (v : Word) : (s.setReg f.reg v).fld f = f.ext v := by
  unfold State.fld
  rw [State.reg_setReg_same]

theorem State.fld_setReg_ne (s : State) (a : Nat) (f : Field) (v : Word) (h : f.reg ≠ a) : (s.setReg a v).fld f = s.fld f := by
  unfold State.fld
  rw [State.reg_setReg_ne s a f.reg v h]

theorem State.reg_setFlag_ne (s : State) (f : Field) (x : Bool) (a : Nat) (h : a ≠ f.reg) : (s.setFlag f x).reg a = s.reg a :=
  State.reg_setFld_ne s f _ a h

theorem State.fld_setFlag_ne (s : State) (f g : Field) (x : Bool) (h : Field.apart f g = true) : (s.setFlag f x).fld g = s.fld g :=
  State.fld_setFld_ne s f g _ h

theorem State.fld_setFlag_same (s : State) (f : Field) (x : Bool) (h : f.isFlag = true) : (s.setFlag f x).fld f = b2n x := by
  simp only [Field.isFlag, Bool.and_eq_true, beq_iff_eq, Nat.blt_eq] at h
  unfold State.setFlag
  rw [State.fld_setFld_same s f _ (by omega), h.1]
  cases x <;> rfl

theorem State.on_setFlag_same (s : State) (f : Field) (x : Bool) (h : f.isFlag = true) : (s.setFlag f x).on f = x := by
  unfold State.on
  rw [State.fld_setFlag_same s f x h]
  cases x <;> rfl

theorem State.on_setFld_ne (s : State) (f g : Field) (n : Nat) (h : Field.apart f g = true) : (s.setFld f n).on g = s.on g := by
  unfold State.on
  rw [State.fld_setFld_ne s f g n h]

theorem State.on_setFlag_ne (s : State) (f g : Field) (x : Bool) (h : Field.apart f g = true) : (s.setFlag f x).on g = s.on g :=
  State.on_setFld_ne s f g _ h

theorem State.on_setReg_ne (s : State) (a : Nat) (f : Field) (v : Word) (h : f.reg ≠ a) : (s.setReg a v).on f = s.on f := by
  unfold State.on
  rw [State.fld_setReg_ne s a f v h]

/-! ### Counters -/

theorem State.reg_bump_ne (s : State) (c n a : Nat) (h : a ≠ c) (h2 : a ≠ c + 4) : (s.bump c n).reg a = s.reg a := by
  unfold State.bump State.setCtr
  rw [State.reg_setReg_ne _ _ _ _ h2, State.reg_setReg_ne _ _ _ _ h]

theorem State.fld_bump_ne (s : State) (c n : Nat) (f : Field) (h : f.reg ≠ c) (h2 : f.reg ≠ c + 4) : (s.bump c n).fld f = s.fld f := by
  unfold State.fld
  rw [State.reg_bump_ne s c n _ h h2]

theorem State.on_bump_ne (s : State) (c n : Nat) (f : Field) (h : f.reg ≠ c) (h2 : f.reg ≠ c + 4) : (s.bump c n).on f = s.on f := by
  unfold State.on
  rw [State.fld_bump_ne s c n f h h2]

theorem State.ctr_setReg_ne (s : State) (a c : Nat) (v : Word) (h : c ≠ a) (h2 : c + 4 ≠ a) : (s.setReg a v).ctr c = s.ctr c := by
  unfold State.ctr
  rw [State.reg_setReg_ne _ _ _ _ h, State.reg_setReg_ne _ _ _ _ h2]

theorem State.ctr_setFld_ne (s : State) (f : Field) (n c : Nat) (h : c ≠ f.reg) (h2 : c + 4 ≠ f.reg) : (s.setFld f n).ctr c = s.ctr c :=
  State.ctr_setReg_ne s f.reg c _ h h2

theorem State.ctr_setFlag_ne (s : State) (f : Field) (x : Bool) (c : Nat) (h : c ≠ f.reg) (h2 : c + 4 ≠ f.reg) :
    (s.setFlag f x).ctr c = s.ctr c :=
  State.ctr_setReg_ne s f.reg c _ h h2

/-- A counter set reads as the value modulo 2^48. -/
theorem State.ctr_setCtr (s : State) (c n : Nat) : (s.setCtr c n).ctr c = n % 2 ^ 48 := by
  unfold State.ctr State.setCtr
  rw [State.reg_setReg_same, State.reg_setReg_ne _ _ _ _ (by omega), State.reg_setReg_same, BitVec.toNat_ofNat, BitVec.toNat_ofNat]
  omega

/-- A counter moved on reads `n` higher, modulo 2^48 (R57). -/
theorem State.ctr_bump_same (s : State) (c n : Nat) : (s.bump c n).ctr c = (s.ctr c + n) % 2 ^ 48 := by
  unfold State.bump
  rw [State.ctr_setCtr, Nat.mod_mod]

theorem State.ctr_bump_ne (s : State) (c n d : Nat) (h1 : d ≠ c) (h2 : d + 4 ≠ c) (h3 : d ≠ c + 4) : (s.bump c n).ctr d = s.ctr d := by
  unfold State.ctr
  rw [State.reg_bump_ne _ _ _ _ h1 h3, State.reg_bump_ne _ _ _ _ h2 (by omega)]

/-! ### Events -/

theorem isPendReg_low {a : Nat} (h : a < Reg.EVT_PENDn 0) : isPendReg a = false := by
  unfold isPendReg
  rw [Bool.and_eq_false_iff]
  left
  rw [← Bool.not_eq_true, Nat.ble_eq]
  omega

theorem isPendReg_high {a : Nat} (h : Reg.EVT_PENDn 7 < a) : isPendReg a = false := by
  unfold isPendReg
  rw [Bool.and_eq_false_iff]
  right
  rw [← Bool.not_eq_true, Nat.ble_eq]
  omega

/-- Firing a source below 256 writes EVT_PENDn only. -/
theorem State.reg_fire_ne (s : State) (k a : Nat) (hk : k < 256) (h : isPendReg a = false) : (s.fire k).reg a = s.reg a := by
  have hne : a ≠ Reg.EVT_PENDn (k / 32) := by
    intro e
    subst e
    simp only [isPendReg, Reg.EVT_PENDn, Bool.and_eq_false_iff] at h
    have h8 : k / 32 ≤ 7 := by omega
    rcases h with h | h
    · rw [← Bool.not_eq_true, Nat.ble_eq] at h; omega
    · rw [← Bool.not_eq_true, Nat.ble_eq] at h; omega
  unfold State.fire
  split
  · rfl
  · dsimp only
    split
    · refine (State.reg_congr (State.sendMsi_regs _ _) a).trans ?_
      exact State.reg_setReg_ne s _ a _ hne
    · exact State.reg_setReg_ne s _ a _ hne

theorem State.fld_fire_ne (s : State) (k : Nat) (f : Field) (hk : k < 256) (h : isPendReg f.reg = false) : (s.fire k).fld f = s.fld f := by
  unfold State.fld
  rw [State.reg_fire_ne s k _ hk h]

theorem State.on_fire_ne (s : State) (k : Nat) (f : Field) (hk : k < 256) (h : isPendReg f.reg = false) : (s.fire k).on f = s.on f := by
  unfold State.on
  rw [State.fld_fire_ne s k f hk h]

theorem State.ctr_fire_ne (s : State) (k c : Nat) (hk : k < 256) (h : isPendReg c = false) (h2 : isPendReg (c + 4) = false) :
    (s.fire k).ctr c = s.ctr c := by
  unfold State.ctr
  rw [State.reg_fire_ne s k _ hk h, State.reg_fire_ne s k _ hk h2]

theorem State.reg_fireIf_ne (s : State) (x : Bool) (k a : Nat) (hk : k < 256) (h : isPendReg a = false) :
    (s.fireIf x k).reg a = s.reg a := by
  cases x
  · rfl
  · exact State.reg_fire_ne s k a hk h

theorem State.fld_fireIf_ne (s : State) (x : Bool) (k : Nat) (f : Field) (hk : k < 256) (h : isPendReg f.reg = false) :
    (s.fireIf x k).fld f = s.fld f := by
  unfold State.fld
  rw [State.reg_fireIf_ne s x k _ hk h]

theorem State.on_fireIf_ne (s : State) (x : Bool) (k : Nat) (f : Field) (hk : k < 256) (h : isPendReg f.reg = false) :
    (s.fireIf x k).on f = s.on f := by
  unfold State.on
  rw [State.fld_fireIf_ne s x k f hk h]

theorem State.ctr_fireIf_ne (s : State) (x : Bool) (k c : Nat) (hk : k < 256) (h : isPendReg c = false)
    (h2 : isPendReg (c + 4) = false) : (s.fireIf x k).ctr c = s.ctr c := by
  cases x
  · rfl
  · exact State.ctr_fire_ne s k c hk h h2

/-- A source that fires while PD_SYS is on is pending (R61). -/
theorem State.isPend_fire (s : State) (k : Nat) (h : (s.dom 1).mode = .on) : (s.fire k).isPend k = true := by
  have hr : (s.fire k).reg (Reg.EVT_PENDn (k / 32)) = s.reg (Reg.EVT_PENDn (k / 32)) ||| (1#32 <<< (k % 32)) := by
    unfold State.fire
    rw [h]
    dsimp only
    split
    · contradiction
    · split
      · refine (State.reg_congr (State.sendMsi_regs _ _) _).trans ?_
        exact State.reg_setReg_same s _ _
      · exact State.reg_setReg_same s _ _
  unfold State.isPend
  rw [hr]
  have hk : k % 32 < 32 := Nat.mod_lt _ (by omega)
  have hb : ((s.reg (Reg.EVT_PENDn (k / 32)) ||| 1#32 <<< (k % 32)).toNat.testBit (k % 32)) = true := by
    rw [← BitVec.getLsbD, BitVec.getLsbD_or, BitVec.getLsbD_shiftLeft]
    simp [hk]
  rw [Nat.testBit_eq_decide_div_mod_eq] at hb
  simpa [bit] using hb

end Sys2Proof.Machine
end

