-- ==== Sys2Proof/Laws/Frames.lean ====
section
/-! SUPPORT. Which registers an operation leaves alone: `State.regsBut` and `State.regsEvt` pass through each shared operation. -/

namespace Sys2Proof.Machine

variable {s u : State} {l : List Nat}

theorem State.regsEvt_refl : s.regsEvt s l := fun _ _ _ => rfl

theorem State.regsBut_refl : s.regsBut s l := fun _ _ => rfl

/-- The register file is the same list. -/
theorem State.regsEvt_regs {t : State} (e : t.regs = u.regs) (h : s.regsEvt u l) : s.regsEvt t l :=
  fun a h1 h2 => (State.reg_congr e a).trans (h a h1 h2)

theorem State.regsBut_regs {t : State} (e : t.regs = u.regs) (h : s.regsBut u l) : s.regsBut t l :=
  fun a h1 => (State.reg_congr e a).trans (h a h1)

section

variable {x0 : List Instr} {x2 : Tab Word} {x3 : List Staged} {x4 : Tab Nat} {x5 : Nat} {x6 : Evt} {x7 : Pwr} {x8 : Sup} {x9 : Gtb} {x10 : Rfp} {x11 : Dmx} {x12 : Cdc} {x13 : Sic} {x14 : Qmg} {x15 : Bgt} {x16 : Kvt} {x17 : Msq} {x18 : Slv} {x19 : Fwd} {x20 : Csc} {x21 : Lgc} {x22 : Hif} {x23 : Mem} {x24 : Prc} {x25 : Tab (List Octet)} {x26 : Cfg} {x27 : Upd} {x28 : Tst} {x29 : List Told} {x30 : List RxFrame} {x31 : List RxFrame}

/-- The rest of the state may change. -/
theorem State.regsEvt_mk (h : s.regsEvt u l) : s.regsEvt (State.mk x0 (State.regs u) x2 x3 x4 x5 x6 x7 x8 x9 x10 x11 x12 x13 x14 x15 x16 x17 x18 x19 x20 x21 x22 x23 x24 x25 x26 x27 x28 x29 x30 x31) l := h

theorem State.regsBut_mk (h : s.regsBut u l) : s.regsBut (State.mk x0 (State.regs u) x2 x3 x4 x5 x6 x7 x8 x9 x10 x11 x12 x13 x14 x15 x16 x17 x18 x19 x20 x21 x22 x23 x24 x25 x26 x27 x28 x29 x30 x31) l := h

end

theorem State.regsEvt_at (t : Time) (h : s.regsEvt u l) : s.regsEvt (u.at t) l := h

theorem State.regsBut_at (t : Time) (h : s.regsBut u l) : s.regsBut (u.at t) l := h

theorem State.regsEvt_of_but (h : s.regsBut u l) : s.regsEvt u l := fun a h1 _ => h a h1

theorem State.regsBut_setReg (a : Nat) (v : Word) (h : s.regsBut u l) (m : a ∈ l) : s.regsBut (u.setReg a v) l := by
  intro x hx
  rw [State.reg_setReg_ne u a x v (fun e => hx (e ▸ m))]
  exact h x hx

theorem State.regsEvt_setReg (a : Nat) (v : Word) (h : s.regsEvt u l) (m : a ∈ l) : s.regsEvt (u.setReg a v) l := by
  intro x hx hp
  rw [State.reg_setReg_ne u a x v (fun e => hx (e ▸ m))]
  exact h x hx hp

theorem State.regsBut_setFld (f : Field) (n : Nat) (h : s.regsBut u l) (m : f.reg ∈ l) : s.regsBut (u.setFld f n) l :=
  State.regsBut_setReg f.reg _ h m

theorem State.regsEvt_setFld (f : Field) (n : Nat) (h : s.regsEvt u l) (m : f.reg ∈ l) : s.regsEvt (u.setFld f n) l :=
  State.regsEvt_setReg f.reg _ h m

theorem State.regsBut_setFlag (f : Field) (x : Bool) (h : s.regsBut u l) (m : f.reg ∈ l) : s.regsBut (u.setFlag f x) l :=
  State.regsBut_setReg f.reg _ h m

theorem State.regsEvt_setFlag (f : Field) (x : Bool) (h : s.regsEvt u l) (m : f.reg ∈ l) : s.regsEvt (u.setFlag f x) l :=
  State.regsEvt_setReg f.reg _ h m

theorem State.regsBut_bump (c n : Nat) (h : s.regsBut u l) (m : c ∈ l) (m' : c + 4 ∈ l) : s.regsBut (u.bump c n) l :=
  State.regsBut_setReg (c + 4) _ (State.regsBut_setReg c _ h m) m'

theorem State.regsEvt_bump (c n : Nat) (h : s.regsEvt u l) (m : c ∈ l) (m' : c + 4 ∈ l) : s.regsEvt (u.bump c n) l :=
  State.regsEvt_setReg (c + 4) _ (State.regsEvt_setReg c _ h m) m'

theorem State.regsEvt_fire (k : Nat) (h : s.regsEvt u l) (hk : k < 256) : s.regsEvt (u.fire k) l := by
  intro x hx hp
  rw [State.reg_fire_ne u k x hk hp]
  exact h x hx hp

theorem State.regsEvt_fireIf (b : Bool) (k : Nat) (h : s.regsEvt u l) (hk : k < 256) : s.regsEvt (u.fireIf b k) l := by
  cases b
  · exact h
  · exact State.regsEvt_fire k h hk

theorem State.regsEvt_respond (d : List Octet) (ok : Bool) (h : s.regsEvt u l) : s.regsEvt (u.respond d ok) l :=
  State.regsEvt_regs rfl h

theorem State.regsBut_respond (d : List Octet) (ok : Bool) (h : s.regsBut u l) : s.regsBut (u.respond d ok) l :=
  State.regsBut_regs rfl h

theorem State.regsEvt_if {c : Prop} [Decidable c] {t : State} (h : s.regsEvt u l) (h' : s.regsEvt t l) :
    s.regsEvt (if c then u else t) l := by
  split
  · exact h
  · exact h'

theorem State.regsBut_if {c : Prop} [Decidable c] {t : State} (h : s.regsBut u l) (h' : s.regsBut t l) :
    s.regsBut (if c then u else t) l := by
  split
  · exact h
  · exact h'

/-- FAIL_N brought up to date writes no register but pending bits (R433). -/
theorem State.regsEvt_drive (h : s.regsEvt u l) : s.regsEvt u.drive l := by
  unfold State.drive
  exact State.regsEvt_fireIf _ 31 (State.regsEvt_regs rfl h) (by decide)

theorem State.isPend_congr {t : State} (h : t.regs = s.regs) (k : Nat) : t.isPend k = s.isPend k := by
  unfold State.isPend
  rw [State.reg_congr h]

/-- PD_SYS is on after an operation that leaves PWR alone. -/
theorem State.sysOn_congr (h : u.pwr = s.pwr) (hs : s.sysOn) : u.sysOn := by
  unfold State.sysOn at *
  rw [State.dom_congr h]
  exact hs

end Sys2Proof.Machine
end

