-- ==== Sys2Proof/Laws/Kept.lean ====
section
/-! SUPPORT. What every operation keeps: the queue of waiting commands, the canonical tables of `State.wf`, and fuses that are
burned. The files Laws/Kept*.lean say it once for each operation. -/

namespace Sys2Proof.Machine

/-- What a state is measured against: the queue of commands, and fuses burned so far (R310, R353). -/
structure Base where
  queue : List Instr
  epoch : Nat
  svn : Nat

/-- The queue is as in the base and the tables are canonical. -/
def KeptTabs (b : Base) (pending : List Instr) (regs active : Tab Word) (holding : Tab Nat) (flash : Tab (List Octet)) : Prop :=
  pending = b.queue ∧ (Tab.canon resetOf regs && (Tab.canon resetOf active && (Tab.sorted holding &&
    Tab.canon (fun _ => erasedPage) flash))) = true

/-- The queue is as in the base, the tables are canonical, no fuse of the base is lost. -/
def Kept (b : Base) (s : State) : Prop :=
  KeptTabs b s.pending s.regs s.active s.holding s.flash ∧ b.epoch ≤ s.kvt.fuses ∧ b.svn ≤ s.upd.fuses

/-- An outcome that is a next state, kept. -/
def KeptOut (b : Base) (o : Host.Outcome State Fault Refusal) : Prop := ∃ t, o = .next t ∧ Kept b t

variable {b : Base} {s u : State}

theorem KeptOut_next (k : Kept b s) : KeptOut b (.next s) := ⟨s, rfl, k⟩

theorem Kept.tabs (h : Kept b s) : KeptTabs b s.pending s.regs s.active s.holding s.flash := h.1

theorem Kept.epochs (h : Kept b s) : b.epoch ≤ s.kvt.fuses := h.2.1

theorem Kept.svns (h : Kept b s) : b.svn ≤ s.upd.fuses := h.2.2

theorem Kept_mk {x0 x1 x2 x3 x4 x5 x6 x7 x8 x9 x10 x11 x12 x13 x14 x15 x16 x17 x18 x19 x20 x21 x22 x23 x24 x25 x26 x27 x28 x29 x30 x31} :
    Kept b (State.mk x0 x1 x2 x3 x4 x5 x6 x7 x8 x9 x10 x11 x12 x13 x14 x15 x16 x17 x18 x19 x20 x21 x22 x23 x24 x25 x26 x27 x28 x29 x30 x31)
      ↔ KeptTabs b x0 x1 x2 x4 x25 ∧ b.epoch ≤ x16.fuses ∧ b.svn ≤ x27.fuses := Iff.rfl

/-- A fold keeps what its step keeps. -/
theorem Kept_foldl {α : Type} {f : State → α → State} {l : List α} (hf : ∀ u x, Kept b u → Kept b (f u x)) (h : Kept b s) :
    Kept b (l.foldl f s) := by
  induction l generalizing s with
  | nil => exact h
  | cons a l ih => exact ih (hf s a h)

/-- A fold over a state with a result keeps what its step keeps. -/
theorem Kept_foldl2 {α β : Type} {f : β × State → α → β × State} {l : List α} {r : β × State}
    (hf : ∀ r x, Kept b r.2 → Kept b (f r x).2) (h : Kept b r.2) : Kept b (l.foldl f r).2 := by
  induction l generalizing r with
  | nil => exact h
  | cons a l ih => exact ih (hf r a h)

/-- The same with the state first. -/
theorem Kept_foldl1 {α β : Type} {f : State × β → α → State × β} {l : List α} {r : State × β}
    (hf : ∀ r x, Kept b r.1 → Kept b (f r x).1) (h : Kept b r.1) : Kept b (l.foldl f r).1 := by
  induction l generalizing r with
  | nil => exact h
  | cons a l ih => exact ih (hf r a h)

/-- An optional step keeps what it keeps where there is one. -/
theorem Kept_elim {α : Type} {o : Option α} {f : α → State} (hf : ∀ x, Kept b (f x)) (h : Kept b s) : Kept b (o.elim s f) := by
  cases o with
  | none => exact h
  | some x => exact hf x

/-- Both branches keep. -/
theorem Kept_if {c : Prop} [Decidable c] {t : State} (h1 : c → Kept b s) (h2 : ¬ c → Kept b t) : Kept b (if c then s else t) := by
  split
  · exact h1 ‹_›
  · exact h2 ‹_›

theorem State.setReg_kept (h : Kept b s) (a : Nat) (v : Word) : Kept b (s.setReg a v) := by
  obtain ⟨⟨h1, h2⟩, h3⟩ := h
  refine ⟨⟨h1, ?_⟩, h3⟩
  simp only [Bool.and_eq_true] at h2 ⊢
  exact ⟨Tab.canon_putD resetOf s.regs a v h2.1, h2.2⟩

/-- What `Kept` says of the state itself. -/
theorem Kept.wf (h : Kept b s) : s.wf = true := h.1.2

theorem Kept.queue (h : Kept b s) : s.pending = b.queue := h.1.1

/-- A state with canonical tables is kept against itself. -/
theorem Kept_self (h : s.wf = true) : Kept ⟨s.pending, s.kvt.fuses, s.upd.fuses⟩ s := ⟨⟨rfl, h⟩, Nat.le_refl _, Nat.le_refl _⟩

end Sys2Proof.Machine
end

