-- ==== Sys2Proof/Laws/KeptOps.lean ====
section
/-! SUPPORT. What the operations of Machine/Ops.lean keep: queue, canonical tables, fuses. -/

set_option linter.unusedTactic false
set_option linter.unreachableTactic false
set_option linter.unusedVariables false
set_option linter.tactic.unusedName false

namespace Sys2Proof.Machine

variable {b : Base}

/-! ### Ops -/

theorem State.setFld_kept {s : State} (hs : Kept b s) (f : Field) (n : ℕ) : Kept b (State.setFld s f n) := by
  unfold State.setFld
  repeat' first
    | with_reducible assumption
    | with_reducible apply State.setReg_kept
    | dsimp -zeta only [id]

theorem State.setFlag_kept {s : State} (hs : Kept b s) (f : Field) (bx : Bool) : Kept b (State.setFlag s f bx) := by
  unfold State.setFlag
  repeat' first
    | with_reducible assumption
    | with_reducible apply State.setFld_kept
    | dsimp -zeta only [id]

theorem State.setRegs_kept {s : State} (hs : Kept b s) (a : Nat) (l : List Word) : Kept b (State.setRegs s a l) := by
  induction l generalizing s a with
  | nil => exact hs
  | cons v t ih => exact ih (State.setReg_kept hs a v) (a + 4)

theorem State.setCtr_kept {s : State} (hs : Kept b s) (c : ℕ) (n : ℕ) : Kept b (State.setCtr s c n) := by
  unfold State.setCtr
  repeat' first
    | with_reducible assumption
    | with_reducible apply State.setReg_kept
    | dsimp -zeta only [id]

theorem State.bump_kept {s : State} (hs : Kept b s) (c : ℕ) (n : optParam ℕ 1) : Kept b (State.bump s c n) := by
  unfold State.bump
  repeat' first
    | with_reducible assumption
    | with_reducible apply State.setCtr_kept
    | dsimp -zeta only [id]

theorem State.setDom_kept {s : State} (hs : Kept b s) (d : ℕ) (x : Dom) : Kept b (State.setDom s d x) := by
  unfold State.setDom
  repeat' first
    | with_reducible assumption
    | (extract_lets +onlyGivenNames x; refine (fun (hx : Kept b x) => ?_) ?_; (on_goal 1 => try clear_value x); (on_goal 2 => (dsimp only [x]; clear x)))
    | (extract_lets +onlyGivenNames x; first | clear_value x | (dsimp only [x]; clear x) | skip)
    | (simp -zeta only [Kept_mk]; refine ⟨Kept.tabs ?_, ?_, ?_⟩)
    | with_reducible refine Kept.epochs ?_
    | with_reducible refine Kept.svns ?_
    | dsimp -zeta only [id]

theorem State.whenLive_kept {s act : State} (hs : Kept b s) (d : Nat) (ha : Kept b act) : Kept b (State.whenLive s d act) := by
  unfold State.whenLive
  split <;> assumption

theorem State.sendMsi_kept {s : State} (hs : Kept b s) (v : ℕ) : Kept b (State.sendMsi s v) := by
  unfold State.sendMsi
  repeat' first
    | with_reducible assumption
    | (extract_lets +onlyGivenNames x; refine (fun (hx : Kept b x) => ?_) ?_; (on_goal 1 => try clear_value x); (on_goal 2 => (dsimp only [x]; clear x)))
    | (extract_lets +onlyGivenNames x; first | clear_value x | (dsimp only [x]; clear x) | skip)
    | split
    | (simp -zeta only [Kept_mk]; refine ⟨Kept.tabs ?_, ?_, ?_⟩)
    | with_reducible refine Kept.epochs ?_
    | with_reducible refine Kept.svns ?_
    | dsimp -zeta only [id]

theorem State.fire_kept {s : State} (hs : Kept b s) (k : ℕ) : Kept b (State.fire s k) := by
  unfold State.fire
  repeat' first
    | with_reducible assumption
    | (extract_lets +onlyGivenNames x; refine (fun (hx : Kept b x) => ?_) ?_; (on_goal 1 => try clear_value x); (on_goal 2 => (dsimp only [x]; clear x)))
    | (extract_lets +onlyGivenNames x; first | clear_value x | (dsimp only [x]; clear x) | skip)
    | with_reducible apply State.setReg_kept
    | with_reducible apply State.sendMsi_kept
    | split
    | (simp -zeta only [Kept_mk]; refine ⟨Kept.tabs ?_, ?_, ?_⟩)
    | with_reducible refine Kept.epochs ?_
    | with_reducible refine Kept.svns ?_
    | dsimp -zeta only [id]

theorem State.fireIf_kept {s : State} (hs : Kept b s) (bx : Bool) (k : ℕ) : Kept b (State.fireIf s bx k) := by
  unfold State.fireIf
  repeat' first
    | with_reducible assumption
    | with_reducible apply State.fire_kept
    | split
    | dsimp -zeta only [id]

theorem State.newVectors_kept {s : State} (hs : Kept b s) {old : State} (hold : Kept b old) : Kept b (State.newVectors s old) := by
  unfold State.newVectors
  repeat' first
    | with_reducible assumption
    | intro _
    | with_reducible apply State.sendMsi_kept
    | with_reducible refine Kept_foldl ?_ ?_
    | with_reducible refine Kept_foldl2 ?_ ?_
    | with_reducible refine Kept_foldl1 ?_ ?_
    | split
    | dsimp -zeta only [id]

theorem State.recordFault_kept {s : State} (hs : Kept b s) (rq : Req) (c : AccCause) (wr : Bool) (a : ℕ) (byteen : ℕ) : Kept b (State.recordFault s rq c wr a byteen) := by
  unfold State.recordFault
  repeat' first
    | with_reducible assumption
    | (extract_lets +onlyGivenNames x; refine (fun (hx : Kept b x) => ?_) ?_; (on_goal 1 => try clear_value x); (on_goal 2 => (dsimp only [x]; clear x)))
    | (extract_lets +onlyGivenNames x; first | clear_value x | (dsimp only [x]; clear x) | skip)
    | with_reducible apply State.bump_kept
    | with_reducible apply State.setFlag_kept
    | with_reducible apply State.setReg_kept
    | with_reducible apply State.fire_kept
    | split
    | (simp -zeta only [Kept_mk]; refine ⟨Kept.tabs ?_, ?_, ?_⟩)
    | with_reducible refine Kept.epochs ?_
    | with_reducible refine Kept.svns ?_
    | dsimp -zeta only [id]

theorem State.respond_kept {s : State} (hs : Kept b s) (data : List Sys2Proof.Octet) (ok : Bool) : Kept b (State.respond s data ok) := by
  unfold State.respond
  repeat' first
    | with_reducible assumption
    | (extract_lets +onlyGivenNames x; refine (fun (hx : Kept b x) => ?_) ?_; (on_goal 1 => try clear_value x); (on_goal 2 => (dsimp only [x]; clear x)))
    | (extract_lets +onlyGivenNames x; first | clear_value x | (dsimp only [x]; clear x) | skip)
    | (simp -zeta only [Kept_mk]; refine ⟨Kept.tabs ?_, ?_, ?_⟩)
    | with_reducible refine Kept.epochs ?_
    | with_reducible refine Kept.svns ?_
    | dsimp -zeta only [id]

theorem State.drive_kept {s : State} (hs : Kept b s) : Kept b (State.drive s) := by
  unfold State.drive
  repeat' first
    | with_reducible assumption
    | (extract_lets +onlyGivenNames x; refine (fun (hx : Kept b x) => ?_) ?_; (on_goal 1 => try clear_value x); (on_goal 2 => (dsimp only [x]; clear x)))
    | (extract_lets +onlyGivenNames x; first | clear_value x | (dsimp only [x]; clear x) | skip)
    | with_reducible apply State.fireIf_kept
    | (simp -zeta only [Kept_mk]; refine ⟨Kept.tabs ?_, ?_, ?_⟩)
    | with_reducible refine Kept.epochs ?_
    | with_reducible refine Kept.svns ?_
    | dsimp -zeta only [id]

theorem State.strike_kept {s : State} (hs : Kept b s) (f : Field) : Kept b (State.strike s f) := by
  unfold State.strike
  repeat' first
    | with_reducible assumption
    | with_reducible apply State.drive_kept
    | with_reducible apply State.fire_kept
    | with_reducible apply State.setFlag_kept
    | split
    | dsimp -zeta only [id]

theorem State.countFault_kept {s : State} (hs : Kept b s) (n : Notice) : Kept b (State.countFault s n) := by
  unfold State.countFault
  repeat' first
    | with_reducible assumption
    | (extract_lets +onlyGivenNames x; refine (fun (hx : Kept b x) => ?_) ?_; (on_goal 1 => try clear_value x); (on_goal 2 => (dsimp only [x]; clear x)))
    | (extract_lets +onlyGivenNames x; first | clear_value x | (dsimp only [x]; clear x) | skip)
    | with_reducible apply State.bump_kept
    | with_reducible apply State.setFlag_kept
    | with_reducible apply State.setReg_kept
    | split
    | dsimp -zeta only [id]

theorem State.logPush_kept {s : State} (hs : Kept b s) (e : LogEntry) : Kept b (State.logPush s e) := by
  unfold State.logPush
  repeat' first
    | with_reducible assumption
    | (extract_lets +onlyGivenNames x; refine (fun (hx : Kept b x) => ?_) ?_; (on_goal 1 => try clear_value x); (on_goal 2 => (dsimp only [x]; clear x)))
    | (extract_lets +onlyGivenNames x; first | clear_value x | (dsimp only [x]; clear x) | skip)
    | with_reducible apply State.fireIf_kept
    | with_reducible apply State.fire_kept
    | with_reducible apply State.bump_kept
    | split
    | (simp -zeta only [Kept_mk]; refine ⟨Kept.tabs ?_, ?_, ?_⟩)
    | with_reducible refine Kept.epochs ?_
    | with_reducible refine Kept.svns ?_
    | dsimp -zeta only [id]

theorem State.recordNotice_kept {s : State} (hs : Kept b s) (n : Notice) : Kept b (State.recordNotice s n) := by
  unfold State.recordNotice
  repeat' first
    | with_reducible assumption
    | with_reducible apply State.fire_kept
    | with_reducible apply State.logPush_kept
    | with_reducible apply State.countFault_kept
    | dsimp -zeta only [id]

theorem State.report_kept {s : State} (hs : Kept b s) (n : Notice) : Kept b (State.report s n) := by
  unfold State.report
  repeat' first
    | with_reducible assumption
    | (extract_lets +onlyGivenNames x; refine (fun (hx : Kept b x) => ?_) ?_; (on_goal 1 => try clear_value x); (on_goal 2 => (dsimp only [x]; clear x)))
    | (extract_lets +onlyGivenNames x; first | clear_value x | (dsimp only [x]; clear x) | skip)
    | with_reducible apply State.bump_kept
    | with_reducible apply State.recordNotice_kept
    | split
    | (simp -zeta only [Kept_mk]; refine ⟨Kept.tabs ?_, ?_, ?_⟩)
    | with_reducible refine Kept.epochs ?_
    | with_reducible refine Kept.svns ?_
    | dsimp -zeta only [id]

theorem State.xwFault_kept {s : State} (hs : Kept b s) (rq : Req) (code : ℕ) (unit : ℕ) (addr : ℕ) (wr : Bool) : Kept b (State.xwFault s rq code unit addr wr) := by
  unfold State.xwFault
  repeat' first
    | with_reducible assumption
    | (extract_lets +onlyGivenNames x; refine (fun (hx : Kept b x) => ?_) ?_; (on_goal 1 => try clear_value x); (on_goal 2 => (dsimp only [x]; clear x)))
    | (extract_lets +onlyGivenNames x; first | clear_value x | (dsimp only [x]; clear x) | skip)
    | with_reducible apply State.bump_kept
    | with_reducible apply State.setFld_kept
    | with_reducible apply State.setFlag_kept
    | with_reducible apply State.setReg_kept
    | with_reducible apply State.fire_kept
    | split
    | (simp -zeta only [Kept_mk]; refine ⟨Kept.tabs ?_, ?_, ?_⟩)
    | with_reducible refine Kept.epochs ?_
    | with_reducible refine Kept.svns ?_
    | dsimp -zeta only [id]

theorem State.holdOp_kept {s : State} (hs : Kept b s) (o : HeldOp) : Kept b (State.holdOp s o) := by
  unfold State.holdOp
  repeat' first
    | with_reducible assumption
    | intro _
    | (extract_lets +onlyGivenNames x; refine (fun (hx : Kept b x) => ?_) ?_; (on_goal 1 => try clear_value x); (on_goal 2 => (dsimp only [x]; clear x)))
    | (extract_lets +onlyGivenNames x; first | clear_value x | (dsimp only [x]; clear x) | skip)
    | with_reducible apply State.bump_kept
    | (simp -zeta only [Kept_mk]; refine ⟨Kept.tabs ?_, ?_, ?_⟩)
    | with_reducible refine Kept.epochs ?_
    | with_reducible refine Kept.svns ?_
    | dsimp -zeta only [id]

theorem State.nextFree_kept {s : State} (hs : Kept b s) : Kept b (State.nextFree s) := by
  unfold State.nextFree
  repeat' first
    | with_reducible assumption
    | (extract_lets +onlyGivenNames x; refine (fun (hx : Kept b x) => ?_) ?_; (on_goal 1 => try clear_value x); (on_goal 2 => (dsimp only [x]; clear x)))
    | (extract_lets +onlyGivenNames x; first | clear_value x | (dsimp only [x]; clear x) | skip)
    | (simp -zeta only [Kept_mk]; refine ⟨Kept.tabs ?_, ?_, ?_⟩)
    | with_reducible refine Kept.epochs ?_
    | with_reducible refine Kept.svns ?_
    | dsimp -zeta only [id]

end Sys2Proof.Machine
end

