-- ==== Sys2Proof/Laws/KeptAccess.lean ====
section
/-! SUPPORT. What the operations of Machine/Access.lean keep: queue, canonical tables, fuses. -/

set_option linter.unusedTactic false
set_option linter.unreachableTactic false
set_option linter.unusedVariables false
set_option linter.tactic.unusedName false

namespace Sys2Proof.Machine

variable {b : Base}

/-! ### Access -/

theorem State.store_kept {s : State} (hs : Kept b s) (rq : Req) (p : ℕ) (m : Sys2Proof.Word) (v : Sys2Proof.Word) : Kept b (State.store s rq p m v) := by
  unfold State.store
  repeat' first
    | with_reducible assumption
    | intro _
    | (extract_lets +onlyGivenNames x; refine (fun (hx : Kept b x) => ?_) ?_; (on_goal 1 => try clear_value x); (on_goal 2 => (dsimp only [x]; clear x)))
    | (extract_lets +onlyGivenNames x; first | clear_value x | (dsimp only [x]; clear x) | skip)
    | with_reducible apply State.setReg_kept
    | with_reducible apply State.newVectors_kept
    | with_reducible refine Kept_foldl ?_ ?_
    | with_reducible refine Kept_foldl2 ?_ ?_
    | with_reducible refine Kept_foldl1 ?_ ?_
    | split
    | (simp -zeta only [Kept_mk]; refine ⟨Kept.tabs ?_, ?_, ?_⟩)
    | with_reducible refine Kept.epochs ?_
    | with_reducible refine Kept.svns ?_
    | dsimp -zeta only [id]

theorem State.applyWrite_kept {s : State} (hs : Kept b s) (rq : Req) (p : Nat) (v : Word) : Kept b (State.applyWrite s rq p v) := by
  unfold State.applyWrite
  repeat' first
    | with_reducible assumption
    | intro _
    | (extract_lets +onlyGivenNames x; refine (fun (hx : Kept b x) => ?_) ?_; (on_goal 1 => try clear_value x); (on_goal 2 => (dsimp only [x]; clear x)))
    | (extract_lets +onlyGivenNames x; first | clear_value x | (dsimp only [x]; clear x) | skip)
    | with_reducible apply State.recordFault_kept
    | with_reducible apply State.store_kept
    | split
    | (simp -zeta only [Kept_mk]; refine ⟨Kept.tabs ?_, ?_, ?_⟩)
    | with_reducible refine Kept.epochs ?_
    | with_reducible refine Kept.svns ?_
    | dsimp -zeta only [id]

theorem State.gated_kept {s : State} (hs : Kept b s) (rq : Req) (p : ℕ) (v : Sys2Proof.Word) {act : State → State} (hact : ∀ u, Kept b u → Kept b (act u)) : Kept b (State.gated s rq p v act) := by
  unfold State.gated
  repeat' first
    | with_reducible assumption
    | intro _
    | with_reducible apply State.respond_kept
    | with_reducible apply State.recordFault_kept
    | with_reducible apply State.applyWrite_kept
    | with_reducible apply hact
    | split
    | dsimp -zeta only [id]

theorem State.applyAlias_kept {s : State} (hs : Kept b s) (rq : Req) (a : Nat) (v : Word) : Kept b (State.applyAlias s rq a v) := by
  unfold State.applyAlias
  repeat' first
    | with_reducible assumption
    | intro _
    | (extract_lets +onlyGivenNames x; refine (fun (hx : Kept b x) => ?_) ?_; (on_goal 1 => try clear_value x); (on_goal 2 => (dsimp only [x]; clear x)))
    | (extract_lets +onlyGivenNames x; first | clear_value x | (dsimp only [x]; clear x) | skip)
    | with_reducible apply State.recordFault_kept
    | with_reducible apply State.store_kept
    | split
    | (simp -zeta only [Kept_mk]; refine ⟨Kept.tabs ?_, ?_, ?_⟩)
    | with_reducible refine Kept.epochs ?_
    | with_reducible refine Kept.svns ?_
    | dsimp -zeta only [id]

theorem State.viewWrite_kept {s : State} (hs : Kept b s) (rq : Req) (p : Nat) (view : Nat) (v : Word) : Kept b (State.viewWrite s rq p view v) := by
  unfold State.viewWrite
  repeat' first
    | with_reducible assumption
    | intro _
    | (extract_lets +onlyGivenNames x; refine (fun (hx : Kept b x) => ?_) ?_; (on_goal 1 => try clear_value x); (on_goal 2 => (dsimp only [x]; clear x)))
    | (extract_lets +onlyGivenNames x; first | clear_value x | (dsimp only [x]; clear x) | skip)
    | with_reducible apply State.applyWrite_kept
    | with_reducible apply State.applyAlias_kept
    | split
    | (simp -zeta only [Kept_mk]; refine ⟨Kept.tabs ?_, ?_, ?_⟩)
    | with_reducible refine Kept.epochs ?_
    | with_reducible refine Kept.svns ?_
    | dsimp -zeta only [id]

theorem State.stage_kept {s : State} (hs : Kept b s) (ux : Nat) (g : Nat) : Kept b (State.stage s ux g) := by
  unfold State.stage
  repeat' first
    | with_reducible assumption
    | intro _
    | (extract_lets +onlyGivenNames x; refine (fun (hx : Kept b x) => ?_) ?_; (on_goal 1 => try clear_value x); (on_goal 2 => (dsimp only [x]; clear x)))
    | (extract_lets +onlyGivenNames x; first | clear_value x | (dsimp only [x]; clear x) | skip)
    | with_reducible apply State.setFld_kept
    | split
    | (simp -zeta only [Kept_mk]; refine ⟨Kept.tabs ?_, ?_, ?_⟩)
    | with_reducible refine Kept.epochs ?_
    | with_reducible refine Kept.svns ?_
    | dsimp -zeta only [id]

theorem State.unstage_kept {s : State} (hs : Kept b s) (ux : ℕ) (g : ℕ) : Kept b (State.unstage s ux g) := by
  unfold State.unstage
  repeat' first
    | with_reducible assumption
    | intro _
    | (extract_lets +onlyGivenNames x; refine (fun (hx : Kept b x) => ?_) ?_; (on_goal 1 => try clear_value x); (on_goal 2 => (dsimp only [x]; clear x)))
    | (extract_lets +onlyGivenNames x; first | clear_value x | (dsimp only [x]; clear x) | skip)
    | with_reducible apply State.setFld_kept
    | (simp -zeta only [Kept_mk]; refine ⟨Kept.tabs ?_, ?_, ?_⟩)
    | with_reducible refine Kept.epochs ?_
    | with_reducible refine Kept.svns ?_
    | dsimp -zeta only [id]

theorem State.activate_kept {s : State} (hs : Kept b s) (st : Staged) : Kept b (State.activate s st) := by
  unfold State.activate
  refine State.setFld_kept (State.setFld_kept (State.unstage_kept (Kept_foldl (fun u x h => ?_) hs) _ _) _ _) _ _
  obtain ⟨⟨h1, h2⟩, h3⟩ := h
  refine ⟨⟨h1, ?_⟩, h3⟩
  simp only [Bool.and_eq_true] at h2 ⊢
  exact ⟨h2.1, Tab.canon_putD resetOf u.active _ _ h2.2.1, h2.2.2⟩

theorem execRegAccessTimeout_kept (rq : Req) (addr : ℕ) (write : Bool) (byteen : ℕ) (gt : ℕ) {s : State} (hs : Kept b s) : KeptOut b (execRegAccessTimeout rq addr write byteen gt s) := by
  unfold execRegAccessTimeout
  repeat' first
    | with_reducible assumption
    | with_reducible refine KeptOut_next ?_
    | (extract_lets +onlyGivenNames x; refine (fun (hx : Kept b x) => ?_) ?_; (on_goal 1 => try clear_value x); (on_goal 2 => (dsimp only [x]; clear x)))
    | (extract_lets +onlyGivenNames x; first | clear_value x | (dsimp only [x]; clear x) | skip)
    | with_reducible apply State.recordFault_kept
    | with_reducible apply State.respond_kept
    | with_reducible apply State.report_kept
    | (simp -zeta only [Kept_mk]; refine ⟨Kept.tabs ?_, ?_, ?_⟩)
    | with_reducible refine Kept.epochs ?_
    | with_reducible refine Kept.svns ?_
    | dsimp -zeta only [id]

theorem State.stageGroups_kept {s : State} (hs : Kept b s) (unit : Nat) (groups : Nat) : Kept b (State.stageGroups s unit groups) := by
  unfold State.stageGroups
  repeat' first
    | with_reducible assumption
    | intro _
    | (extract_lets +onlyGivenNames x; refine (fun (hx : Kept b x) => ?_) ?_; (on_goal 1 => try clear_value x); (on_goal 2 => (dsimp only [x]; clear x)))
    | (extract_lets +onlyGivenNames x; refine (fun (hx : Kept b x.2) => ?_) ?_; (on_goal 1 => try clear_value x); (on_goal 2 => (dsimp only [x]; clear x)))
    | (extract_lets +onlyGivenNames x; refine (fun (hx : Kept b x.1) => ?_) ?_; (on_goal 1 => try clear_value x); (on_goal 2 => (dsimp only [x]; clear x)))
    | (extract_lets +onlyGivenNames x; first | clear_value x | (dsimp only [x]; clear x) | skip)
    | with_reducible apply State.stage_kept
    | with_reducible apply State.fireIf_kept
    | with_reducible refine Kept_foldl ?_ ?_
    | with_reducible refine Kept_foldl2 ?_ ?_
    | with_reducible refine Kept_foldl1 ?_ ?_
    | split
    | (simp -zeta only [Kept_mk]; refine ⟨Kept.tabs ?_, ?_, ?_⟩)
    | with_reducible refine Kept.epochs ?_
    | with_reducible refine Kept.svns ?_
    | dsimp -zeta only [id]

theorem execCommitGo_kept (rq : Req) (unit : Nat) (groups : Nat) {s : State} (hs : Kept b s) : KeptOut b (execCommitGo rq unit groups s) := by
  unfold execCommitGo
  repeat' first
    | with_reducible assumption
    | with_reducible refine KeptOut_next ?_
    | intro _
    | (extract_lets +onlyGivenNames x; refine (fun (hx : Kept b x) => ?_) ?_; (on_goal 1 => try clear_value x); (on_goal 2 => (dsimp only [x]; clear x)))
    | (extract_lets +onlyGivenNames x; first | clear_value x | (dsimp only [x]; clear x) | skip)
    | with_reducible apply State.gated_kept
    | with_reducible apply State.stageGroups_kept
    | split
    | (simp -zeta only [Kept_mk]; refine ⟨Kept.tabs ?_, ?_, ?_⟩)
    | with_reducible refine Kept.epochs ?_
    | with_reducible refine Kept.svns ?_
    | dsimp -zeta only [id]

theorem execCommitAbort_kept (rq : Req) (unit : ℕ) (groups : ℕ) (go : Bool) {s : State} (hs : Kept b s) : KeptOut b (execCommitAbort rq unit groups go s) := by
  unfold execCommitAbort
  repeat' first
    | with_reducible assumption
    | with_reducible refine KeptOut_next ?_
    | intro _
    | with_reducible apply State.gated_kept
    | with_reducible apply State.unstage_kept
    | with_reducible refine Kept_foldl ?_ ?_
    | with_reducible refine Kept_foldl2 ?_ ?_
    | with_reducible refine Kept_foldl1 ?_ ?_
    | dsimp -zeta only [id]

theorem execEvtRearm_kept (rq : Req) (vectors : ℕ) {s : State} (hs : Kept b s) : KeptOut b (execEvtRearm rq vectors s) := by
  unfold execEvtRearm
  repeat' first
    | with_reducible assumption
    | with_reducible refine KeptOut_next ?_
    | intro _
    | with_reducible apply State.gated_kept
    | with_reducible apply State.sendMsi_kept
    | with_reducible refine Kept_foldl ?_ ?_
    | with_reducible refine Kept_foldl2 ?_ ?_
    | with_reducible refine Kept_foldl1 ?_ ?_
    | split
    | dsimp -zeta only [id]

theorem State.msiFlush_kept {s : State} (hs : Kept b s) : Kept b (State.msiFlush s) := by
  unfold State.msiFlush
  repeat' first
    | with_reducible assumption
    | intro _
    | (extract_lets +onlyGivenNames x; refine (fun (hx : Kept b x) => ?_) ?_; (on_goal 1 => try clear_value x); (on_goal 2 => (dsimp only [x]; clear x)))
    | (extract_lets +onlyGivenNames x; refine (fun (hx : Kept b x.2) => ?_) ?_; (on_goal 1 => try clear_value x); (on_goal 2 => (dsimp only [x]; clear x)))
    | (extract_lets +onlyGivenNames x; refine (fun (hx : Kept b x.1) => ?_) ?_; (on_goal 1 => try clear_value x); (on_goal 2 => (dsimp only [x]; clear x)))
    | (extract_lets +onlyGivenNames x; first | clear_value x | (dsimp only [x]; clear x) | skip)
    | with_reducible apply State.sendMsi_kept
    | with_reducible refine Kept_foldl ?_ ?_
    | with_reducible refine Kept_foldl2 ?_ ?_
    | with_reducible refine Kept_foldl1 ?_ ?_
    | split
    | (simp -zeta only [Kept_mk]; refine ⟨Kept.tabs ?_, ?_, ?_⟩)
    | with_reducible refine Kept.epochs ?_
    | with_reducible refine Kept.svns ?_
    | dsimp -zeta only [id]

theorem execMsixUnmask_kept (w : MsixWrite) {s : State} (hs : Kept b s) : KeptOut b (execMsixUnmask w s) := by
  unfold execMsixUnmask
  repeat' first
    | with_reducible assumption
    | with_reducible refine KeptOut_next ?_
    | intro _
    | (extract_lets +onlyGivenNames x; refine (fun (hx : Kept b x) => ?_) ?_; (on_goal 1 => try clear_value x); (on_goal 2 => (dsimp only [x]; clear x)))
    | (extract_lets +onlyGivenNames x; first | clear_value x | (dsimp only [x]; clear x) | skip)
    | with_reducible apply State.msiFlush_kept
    | split
    | (simp -zeta only [Kept_mk]; refine ⟨Kept.tabs ?_, ?_, ?_⟩)
    | with_reducible refine Kept.epochs ?_
    | with_reducible refine Kept.svns ?_
    | dsimp -zeta only [id]

end Sys2Proof.Machine
end

