-- ==== Sys2Proof/Laws/KeptGrid.lean ====
section
/-! SUPPORT. What the operations of Machine/Grid.lean keep: queue, canonical tables, fuses. -/

set_option linter.unusedTactic false
set_option linter.unreachableTactic false
set_option linter.unusedVariables false
set_option linter.tactic.unusedName false

namespace Sys2Proof.Machine

variable {b : Base}

/-! ### Grid -/

theorem State.at_kept {s : State} (hs : Kept b s) (t : Time) : Kept b (State.at s t) := by
  unfold State.at
  repeat' first
    | with_reducible assumption
    | (extract_lets +onlyGivenNames x; refine (fun (hx : Kept b x) => ?_) ?_; (on_goal 1 => try clear_value x); (on_goal 2 => (dsimp only [x]; clear x)))
    | (extract_lets +onlyGivenNames x; first | clear_value x | (dsimp only [x]; clear x) | skip)
    | (simp -zeta only [Kept_mk]; refine ⟨Kept.tabs ?_, ?_, ?_⟩)
    | with_reducible refine Kept.epochs ?_
    | with_reducible refine Kept.svns ?_
    | dsimp -zeta only [id]

theorem State.reportNow_kept {s : State} (hs : Kept b s) (cls : ℕ) (unit : ℕ) (detail : ℕ) (src : ℕ) : Kept b (State.reportNow s cls unit detail src) := by
  unfold State.reportNow
  repeat' first
    | with_reducible assumption
    | (extract_lets +onlyGivenNames x; refine (fun (hx : Kept b x) => ?_) ?_; (on_goal 1 => try clear_value x); (on_goal 2 => (dsimp only [x]; clear x)))
    | (extract_lets +onlyGivenNames x; first | clear_value x | (dsimp only [x]; clear x) | skip)
    | with_reducible apply State.report_kept
    | (simp -zeta only [Kept_mk]; refine ⟨Kept.tabs ?_, ?_, ?_⟩)
    | with_reducible refine Kept.epochs ?_
    | with_reducible refine Kept.svns ?_
    | dsimp -zeta only [id]

theorem State.setErr_kept {s : State} (hs : Kept b s) (e : Int) : Kept b (State.setErr s e) := by
  unfold State.setErr
  repeat' first
    | with_reducible assumption
    | intro _
    | (extract_lets +onlyGivenNames x; refine (fun (hx : Kept b x) => ?_) ?_; (on_goal 1 => try clear_value x); (on_goal 2 => (dsimp only [x]; clear x)))
    | (extract_lets +onlyGivenNames x; first | clear_value x | (dsimp only [x]; clear x) | skip)
    | with_reducible apply State.setFld_kept
    | split
    | (simp -zeta only [Kept_mk]; refine ⟨Kept.tabs ?_, ?_, ?_⟩)
    | with_reducible refine Kept.epochs ?_
    | with_reducible refine Kept.svns ?_
    | dsimp -zeta only [id]

theorem State.enterGtb_kept {s : State} (hs : Kept b s) (code : ℕ) : Kept b (State.enterGtb s code) := by
  unfold State.enterGtb
  repeat' first
    | with_reducible assumption
    | with_reducible apply State.setFlag_kept
    | with_reducible apply State.setFld_kept
    | dsimp -zeta only [id]

theorem State.saveHold_kept {s : State} (hs : Kept b s) (refcnt : ℕ) (freq : ℕ) : Kept b (State.saveHold s refcnt freq) := by
  unfold State.saveHold
  repeat' first
    | with_reducible assumption
    | (extract_lets +onlyGivenNames x; refine (fun (hx : Kept b x) => ?_) ?_; (on_goal 1 => try clear_value x); (on_goal 2 => (dsimp only [x]; clear x)))
    | (extract_lets +onlyGivenNames x; first | clear_value x | (dsimp only [x]; clear x) | skip)
    | with_reducible apply State.setFlag_kept
    | (simp -zeta only [Kept_mk]; refine ⟨Kept.tabs ?_, ?_, ?_⟩)
    | with_reducible refine Kept.epochs ?_
    | with_reducible refine Kept.svns ?_
    | dsimp -zeta only [id]

theorem State.dropHold_kept {s : State} (hs : Kept b s) : Kept b (State.dropHold s) := by
  unfold State.dropHold
  repeat' first
    | with_reducible assumption
    | intro _
    | (extract_lets +onlyGivenNames x; refine (fun (hx : Kept b x) => ?_) ?_; (on_goal 1 => try clear_value x); (on_goal 2 => (dsimp only [x]; clear x)))
    | (extract_lets +onlyGivenNames x; first | clear_value x | (dsimp only [x]; clear x) | skip)
    | with_reducible apply State.setFlag_kept
    | split
    | (simp -zeta only [Kept_mk]; refine ⟨Kept.tabs ?_, ?_, ?_⟩)
    | with_reducible refine Kept.epochs ?_
    | with_reducible refine Kept.svns ?_
    | dsimp -zeta only [id]

theorem State.enterHold_kept {s : State} (hs : Kept b s) (refcnt : ℕ) : Kept b (State.enterHold s refcnt) := by
  unfold State.enterHold
  repeat' first
    | with_reducible assumption
    | with_reducible apply State.fire_kept
    | with_reducible apply State.bump_kept
    | with_reducible apply State.setFld_kept
    | with_reducible apply State.saveHold_kept
    | with_reducible apply State.enterGtb_kept
    | dsimp -zeta only [id]

theorem State.slewTo_kept {s : State} (hs : Kept b s) (e : Int) : Kept b (State.slewTo s e) := by
  unfold State.slewTo
  repeat' first
    | with_reducible assumption
    | intro _
    | (extract_lets +onlyGivenNames x; refine (fun (hx : Kept b x) => ?_) ?_; (on_goal 1 => try clear_value x); (on_goal 2 => (dsimp only [x]; clear x)))
    | (extract_lets +onlyGivenNames x; first | clear_value x | (dsimp only [x]; clear x) | skip)
    | with_reducible apply State.setErr_kept
    | split
    | (simp -zeta only [Kept_mk]; refine ⟨Kept.tabs ?_, ?_, ?_⟩)
    | with_reducible refine Kept.epochs ?_
    | with_reducible refine Kept.svns ?_
    | dsimp -zeta only [id]

theorem State.enterSlew_kept {s : State} (hs : Kept b s) (e : Int) : Kept b (State.enterSlew s e) := by
  unfold State.enterSlew
  repeat' first
    | with_reducible assumption
    | intro _
    | (extract_lets +onlyGivenNames x; refine (fun (hx : Kept b x) => ?_) ?_; (on_goal 1 => try clear_value x); (on_goal 2 => (dsimp only [x]; clear x)))
    | (extract_lets +onlyGivenNames x; first | clear_value x | (dsimp only [x]; clear x) | skip)
    | with_reducible apply State.enterGtb_kept
    | with_reducible apply State.slewTo_kept
    | with_reducible apply State.fire_kept
    | split
    | (simp -zeta only [Kept_mk]; refine ⟨Kept.tabs ?_, ?_, ?_⟩)
    | with_reducible refine Kept.epochs ?_
    | with_reducible refine Kept.svns ?_
    | dsimp -zeta only [id]

theorem State.enterLock_kept {s : State} (hs : Kept b s) : Kept b (State.enterLock s) := by
  unfold State.enterLock
  repeat' first
    | with_reducible assumption
    | with_reducible apply State.fire_kept
    | with_reducible apply State.setErr_kept
    | with_reducible apply State.enterGtb_kept
    | dsimp -zeta only [id]

theorem State.slewOrLock_kept {s : State} (hs : Kept b s) (e : ℤ) : Kept b (State.slewOrLock s e) := by
  unfold State.slewOrLock
  repeat' first
    | with_reducible assumption
    | with_reducible apply State.enterLock_kept
    | with_reducible apply State.enterSlew_kept
    | split
    | dsimp -zeta only [id]

theorem State.stepSchedule_kept {s : State} (hs : Kept b s) (e : Int) : Kept b (State.stepSchedule s e) := by
  unfold State.stepSchedule
  repeat' first
    | with_reducible assumption
    | intro _
    | (extract_lets +onlyGivenNames x; refine (fun (hx : Kept b x) => ?_) ?_; (on_goal 1 => try clear_value x); (on_goal 2 => (dsimp only [x]; clear x)))
    | (extract_lets +onlyGivenNames x; first | clear_value x | (dsimp only [x]; clear x) | skip)
    | with_reducible apply State.enterGtb_kept
    | with_reducible apply State.setErr_kept
    | with_reducible apply State.setFld_kept
    | with_reducible apply State.fire_kept
    | split
    | (simp -zeta only [Kept_mk]; refine ⟨Kept.tabs ?_, ?_, ?_⟩)
    | with_reducible refine Kept.epochs ?_
    | with_reducible refine Kept.svns ?_
    | dsimp -zeta only [id]

theorem State.clearStep_kept {s : State} (hs : Kept b s) : Kept b (State.clearStep s) := by
  unfold State.clearStep
  repeat' first
    | with_reducible assumption
    | with_reducible apply State.setFld_kept
    | dsimp -zeta only [id]

theorem State.loseInput_kept {s : State} (hs : Kept b s) (refcnt : ℕ) : Kept b (State.loseInput s refcnt) := by
  unfold State.loseInput
  repeat' first
    | with_reducible assumption
    | (extract_lets +onlyGivenNames x; refine (fun (hx : Kept b x) => ?_) ?_; (on_goal 1 => try clear_value x); (on_goal 2 => (dsimp only [x]; clear x)))
    | (extract_lets +onlyGivenNames x; first | clear_value x | (dsimp only [x]; clear x) | skip)
    | with_reducible apply State.enterGtb_kept
    | with_reducible apply State.enterHold_kept
    | with_reducible apply State.clearStep_kept
    | with_reducible apply State.fire_kept
    | split
    | (simp -zeta only [Kept_mk]; refine ⟨Kept.tabs ?_, ?_, ?_⟩)
    | with_reducible refine Kept.epochs ?_
    | with_reducible refine Kept.svns ?_
    | dsimp -zeta only [id]

theorem State.setAnchor_kept {s : State} (hs : Kept b s) (valid : Bool) (gt : Nat) (off : Int) (refcnt : Nat) : Kept b (State.setAnchor s valid gt off refcnt) := by
  unfold State.setAnchor
  repeat' first
    | with_reducible assumption
    | intro _
    | (extract_lets +onlyGivenNames x; refine (fun (hx : Kept b x) => ?_) ?_; (on_goal 1 => try clear_value x); (on_goal 2 => (dsimp only [x]; clear x)))
    | (extract_lets +onlyGivenNames x; first | clear_value x | (dsimp only [x]; clear x) | skip)
    | with_reducible apply State.setFlag_kept
    | with_reducible apply State.enterGtb_kept
    | with_reducible apply State.enterHold_kept
    | split
    | (simp -zeta only [Kept_mk]; refine ⟨Kept.tabs ?_, ?_, ?_⟩)
    | with_reducible refine Kept.epochs ?_
    | with_reducible refine Kept.svns ?_
    | dsimp -zeta only [id]

theorem State.learnResidual_kept {s : State} (hs : Kept b s) (sfd inserted rank : Nat) :
    Kept b (State.learnResidual s sfd inserted rank) := by
  have h1 : ∀ l, Kept b { s with gtb := { s.gtb with resids := l } } := fun l =>
    Kept_mk.2 ⟨Kept.tabs hs, Kept.epochs hs, Kept.svns hs⟩
  unfold State.learnResidual
  dsimp only
  repeat' first
    | with_reducible assumption
    | with_reducible apply State.stage_kept
    | with_reducible apply State.setFld_kept
    | with_reducible apply State.bump_kept
    | with_reducible exact h1 _
    | split

theorem State.utcCapture_kept {s : State} (hs : Kept b s) (sec : ℕ) : Kept b (State.utcCapture s sec) := by
  unfold State.utcCapture
  repeat' first
    | with_reducible assumption
    | (extract_lets +onlyGivenNames x; refine (fun (hx : Kept b x) => ?_) ?_; (on_goal 1 => try clear_value x); (on_goal 2 => (dsimp only [x]; clear x)))
    | (extract_lets +onlyGivenNames x; first | clear_value x | (dsimp only [x]; clear x) | skip)
    | with_reducible apply State.setReg_kept
    | with_reducible apply State.setFld_kept
    | with_reducible apply State.setFlag_kept
    | with_reducible apply State.fire_kept
    | split
    | (simp -zeta only [Kept_mk]; refine ⟨Kept.tabs ?_, ?_, ?_⟩)
    | with_reducible refine Kept.epochs ?_
    | with_reducible refine Kept.svns ?_
    | dsimp -zeta only [id]

theorem State.utcInvalidate_kept {s : State} (hs : Kept b s) : Kept b (State.utcInvalidate s) := by
  unfold State.utcInvalidate
  repeat' first
    | with_reducible assumption
    | (extract_lets +onlyGivenNames x; refine (fun (hx : Kept b x) => ?_) ?_; (on_goal 1 => try clear_value x); (on_goal 2 => (dsimp only [x]; clear x)))
    | (extract_lets +onlyGivenNames x; first | clear_value x | (dsimp only [x]; clear x) | skip)
    | with_reducible apply State.setFlag_kept
    | (simp -zeta only [Kept_mk]; refine ⟨Kept.tabs ?_, ?_, ?_⟩)
    | with_reducible refine Kept.epochs ?_
    | with_reducible refine Kept.svns ?_
    | dsimp -zeta only [id]

theorem State.cmpFire_kept {s : State} (hs : Kept b s) (n : ℕ) : Kept b (State.cmpFire s n) := by
  unfold State.cmpFire
  repeat' first
    | with_reducible assumption
    | with_reducible apply State.fire_kept
    | with_reducible apply State.setFlag_kept
    | dsimp -zeta only [id]

theorem State.cmpArm_kept {s : State} (hs : Kept b s) (n : ℕ) : Kept b (State.cmpArm s n) := by
  unfold State.cmpArm
  repeat' first
    | with_reducible assumption
    | (extract_lets +onlyGivenNames x; refine (fun (hx : Kept b x) => ?_) ?_; (on_goal 1 => try clear_value x); (on_goal 2 => (dsimp only [x]; clear x)))
    | (extract_lets +onlyGivenNames x; first | clear_value x | (dsimp only [x]; clear x) | skip)
    | with_reducible apply State.setFlag_kept
    | with_reducible apply State.cmpFire_kept
    | split
    | (simp -zeta only [Kept_mk]; refine ⟨Kept.tabs ?_, ?_, ?_⟩)
    | with_reducible refine Kept.epochs ?_
    | with_reducible refine Kept.svns ?_
    | dsimp -zeta only [id]

theorem State.cmpWrite_kept {s : State} (hs : Kept b s) (rq : Req) (n : Nat) (view : Nat) (v : Word) : Kept b (State.cmpWrite s rq n view v) := by
  unfold State.cmpWrite
  repeat' first
    | with_reducible assumption
    | intro _
    | (extract_lets +onlyGivenNames x; refine (fun (hx : Kept b x) => ?_) ?_; (on_goal 1 => try clear_value x); (on_goal 2 => (dsimp only [x]; clear x)))
    | (extract_lets +onlyGivenNames x; first | clear_value x | (dsimp only [x]; clear x) | skip)
    | with_reducible apply State.recordFault_kept
    | with_reducible apply State.respond_kept
    | with_reducible apply State.viewWrite_kept
    | with_reducible apply State.cmpArm_kept
    | with_reducible apply State.setFlag_kept
    | split
    | (simp -zeta only [Kept_mk]; refine ⟨Kept.tabs ?_, ?_, ?_⟩)
    | with_reducible refine Kept.epochs ?_
    | with_reducible refine Kept.svns ?_
    | dsimp -zeta only [id]

theorem State.setPulse_kept {s : State} (hs : Kept b s) (n : ℕ) (p : Pulse) : Kept b (State.setPulse s n p) := by
  unfold State.setPulse
  repeat' first
    | with_reducible assumption
    | (extract_lets +onlyGivenNames x; refine (fun (hx : Kept b x) => ?_) ?_; (on_goal 1 => try clear_value x); (on_goal 2 => (dsimp only [x]; clear x)))
    | (extract_lets +onlyGivenNames x; first | clear_value x | (dsimp only [x]; clear x) | skip)
    | (simp -zeta only [Kept_mk]; refine ⟨Kept.tabs ?_, ?_, ?_⟩)
    | with_reducible refine Kept.epochs ?_
    | with_reducible refine Kept.svns ?_
    | dsimp -zeta only [id]

theorem State.pulseArm_kept {s : State} (hs : Kept b s) (n : Nat) : Kept b (State.pulseArm s n) := by
  unfold State.pulseArm
  repeat' first
    | with_reducible assumption
    | intro _
    | (extract_lets +onlyGivenNames x; refine (fun (hx : Kept b x) => ?_) ?_; (on_goal 1 => try clear_value x); (on_goal 2 => (dsimp only [x]; clear x)))
    | (extract_lets +onlyGivenNames x; first | clear_value x | (dsimp only [x]; clear x) | skip)
    | with_reducible apply State.setPulse_kept
    | with_reducible apply State.setFlag_kept
    | split
    | (simp -zeta only [Kept_mk]; refine ⟨Kept.tabs ?_, ?_, ?_⟩)
    | with_reducible refine Kept.epochs ?_
    | with_reducible refine Kept.svns ?_
    | dsimp -zeta only [id]

theorem State.pulseStep_kept {s : State} (hs : Kept b s) (oldGt : Nat) (n : Nat) : Kept b (State.pulseStep s oldGt n) := by
  unfold State.pulseStep
  repeat' first
    | with_reducible assumption
    | intro _
    | (extract_lets +onlyGivenNames x; refine (fun (hx : Kept b x) => ?_) ?_; (on_goal 1 => try clear_value x); (on_goal 2 => (dsimp only [x]; clear x)))
    | (extract_lets +onlyGivenNames x; first | clear_value x | (dsimp only [x]; clear x) | skip)
    | with_reducible apply State.setPulse_kept
    | with_reducible apply State.setFld_kept
    | split
    | (simp -zeta only [Kept_mk]; refine ⟨Kept.tabs ?_, ?_, ?_⟩)
    | with_reducible refine Kept.epochs ?_
    | with_reducible refine Kept.svns ?_
    | dsimp -zeta only [id]

theorem State.legPush_kept {s : State} (hs : Kept b s) (port : ℕ) (ft : ℕ) : Kept b (State.legPush s port ft) := by
  unfold State.legPush
  repeat' first
    | with_reducible assumption
    | (extract_lets +onlyGivenNames x; refine (fun (hx : Kept b x) => ?_) ?_; (on_goal 1 => try clear_value x); (on_goal 2 => (dsimp only [x]; clear x)))
    | (extract_lets +onlyGivenNames x; first | clear_value x | (dsimp only [x]; clear x) | skip)
    | with_reducible apply State.fire_kept
    | with_reducible apply State.fireIf_kept
    | split
    | (simp -zeta only [Kept_mk]; refine ⟨Kept.tabs ?_, ?_, ?_⟩)
    | with_reducible refine Kept.epochs ?_
    | with_reducible refine Kept.svns ?_
    | dsimp -zeta only [id]

theorem State.setQual_kept {s : State} (hs : Kept b s) (freq : Nat) (thd : Nat) (amp : Nat) : Kept b (State.setQual s freq thd amp) := by
  unfold State.setQual
  repeat' first
    | with_reducible assumption
    | intro _
    | (extract_lets +onlyGivenNames x; refine (fun (hx : Kept b x) => ?_) ?_; (on_goal 1 => try clear_value x); (on_goal 2 => (dsimp only [x]; clear x)))
    | (extract_lets +onlyGivenNames x; first | clear_value x | (dsimp only [x]; clear x) | skip)
    | with_reducible apply State.setFld_kept
    | with_reducible apply State.setFlag_kept
    | with_reducible apply State.fireIf_kept
    | split
    | (simp -zeta only [Kept_mk]; refine ⟨Kept.tabs ?_, ?_, ?_⟩)
    | with_reducible refine Kept.epochs ?_
    | with_reducible refine Kept.svns ?_
    | dsimp -zeta only [id]

theorem State.countCycle_kept {s : State} (hs : Kept b s) (m : Sense) : Kept b (State.countCycle s m) := by
  unfold State.countCycle
  repeat' first
    | with_reducible assumption
    | intro _
    | (extract_lets +onlyGivenNames x; refine (fun (hx : Kept b x) => ?_) ?_; (on_goal 1 => try clear_value x); (on_goal 2 => (dsimp only [x]; clear x)))
    | (extract_lets +onlyGivenNames x; first | clear_value x | (dsimp only [x]; clear x) | skip)
    | with_reducible apply State.setFlag_kept
    | split
    | (simp -zeta only [Kept_mk]; refine ⟨Kept.tabs ?_, ?_, ?_⟩)
    | with_reducible refine Kept.epochs ?_
    | with_reducible refine Kept.svns ?_
    | dsimp -zeta only [id]

theorem execMainsZcEdge_kept (t : Time) (m : Sense) {s : State} (hs : Kept b s) : KeptOut b (execMainsZcEdge t m s) := by
  unfold execMainsZcEdge
  repeat' first
    | with_reducible assumption
    | with_reducible refine KeptOut_next ?_
    | intro _
    | (extract_lets +onlyGivenNames x; refine (fun (hx : Kept b x) => ?_) ?_; (on_goal 1 => try clear_value x); (on_goal 2 => (dsimp only [x]; clear x)))
    | (extract_lets +onlyGivenNames x; first | clear_value x | (dsimp only [x]; clear x) | skip)
    | with_reducible apply State.at_kept
    | with_reducible apply State.whenLive_kept
    | with_reducible apply State.setQual_kept
    | with_reducible apply State.countCycle_kept
    | split
    | (simp -zeta only [Kept_mk]; refine ⟨Kept.tabs ?_, ?_, ?_⟩)
    | with_reducible refine Kept.epochs ?_
    | with_reducible refine Kept.svns ?_
    | dsimp -zeta only [id]

theorem execSenseDisagree_kept {s : State} (hs : Kept b s) : KeptOut b (execSenseDisagree s) := by
  unfold execSenseDisagree
  repeat' first
    | with_reducible assumption
    | with_reducible refine KeptOut_next ?_
    | intro _
    | (extract_lets +onlyGivenNames x; refine (fun (hx : Kept b x) => ?_) ?_; (on_goal 1 => try clear_value x); (on_goal 2 => (dsimp only [x]; clear x)))
    | (extract_lets +onlyGivenNames x; first | clear_value x | (dsimp only [x]; clear x) | skip)
    | with_reducible apply State.whenLive_kept
    | with_reducible apply State.fireIf_kept
    | split
    | (simp -zeta only [Kept_mk]; refine ⟨Kept.tabs ?_, ?_, ?_⟩)
    | with_reducible refine Kept.epochs ?_
    | with_reducible refine Kept.svns ?_
    | dsimp -zeta only [id]

theorem execInputQualified_kept (t : Time) (phase : Nat) (anchor : Nat) (peer : Nat) (freq : Nat) (thd : Nat) (amp : Nat) {s : State} (hs : Kept b s) : KeptOut b (execInputQualified t phase anchor peer freq thd amp s) := by
  unfold execInputQualified
  repeat' first
    | with_reducible assumption
    | with_reducible refine KeptOut_next ?_
    | intro _
    | (extract_lets +onlyGivenNames x; refine (fun (hx : Kept b x) => ?_) ?_; (on_goal 1 => try clear_value x); (on_goal 2 => (dsimp only [x]; clear x)))
    | (extract_lets +onlyGivenNames x; first | clear_value x | (dsimp only [x]; clear x) | skip)
    | with_reducible apply State.at_kept
    | with_reducible apply State.setQual_kept
    | with_reducible apply State.setFlag_kept
    | with_reducible apply State.enterLock_kept
    | with_reducible apply State.enterSlew_kept
    | with_reducible apply State.stepSchedule_kept
    | split
    | (simp -zeta only [Kept_mk]; refine ⟨Kept.tabs ?_, ?_, ?_⟩)
    | with_reducible refine Kept.epochs ?_
    | with_reducible refine Kept.svns ?_
    | dsimp -zeta only [id]

theorem execInputLost_kept (t : Time) (refcnt : Nat) (m : Sense) {s : State} (hs : Kept b s) : KeptOut b (execInputLost t refcnt m s) := by
  unfold execInputLost
  repeat' first
    | with_reducible assumption
    | with_reducible refine KeptOut_next ?_
    | intro _
    | (extract_lets +onlyGivenNames x; refine (fun (hx : Kept b x) => ?_) ?_; (on_goal 1 => try clear_value x); (on_goal 2 => (dsimp only [x]; clear x)))
    | (extract_lets +onlyGivenNames x; first | clear_value x | (dsimp only [x]; clear x) | skip)
    | with_reducible apply State.at_kept
    | with_reducible apply State.whenLive_kept
    | with_reducible apply State.fireIf_kept
    | with_reducible apply State.loseInput_kept
    | with_reducible apply State.setFlag_kept
    | split
    | (simp -zeta only [Kept_mk]; refine ⟨Kept.tabs ?_, ?_, ?_⟩)
    | with_reducible refine Kept.epochs ?_
    | with_reducible refine Kept.svns ?_
    | dsimp -zeta only [id]

theorem execPhaseJumpConfirmed_kept (t : Time) (below2 : Bool) (e : Int) {s : State} (hs : Kept b s) : KeptOut b (execPhaseJumpConfirmed t below2 e s) := by
  unfold execPhaseJumpConfirmed
  repeat' first
    | with_reducible assumption
    | with_reducible refine KeptOut_next ?_
    | intro _
    | (extract_lets +onlyGivenNames x; refine (fun (hx : Kept b x) => ?_) ?_; (on_goal 1 => try clear_value x); (on_goal 2 => (dsimp only [x]; clear x)))
    | (extract_lets +onlyGivenNames x; first | clear_value x | (dsimp only [x]; clear x) | skip)
    | with_reducible apply State.at_kept
    | with_reducible apply State.fireIf_kept
    | with_reducible apply State.whenLive_kept
    | with_reducible apply State.enterSlew_kept
    | with_reducible apply State.slewTo_kept
    | with_reducible apply State.setErr_kept
    | split
    | (simp -zeta only [Kept_mk]; refine ⟨Kept.tabs ?_, ?_, ?_⟩)
    | with_reducible refine Kept.epochs ?_
    | with_reducible refine Kept.svns ?_
    | dsimp -zeta only [id]

theorem execSlewDone_kept (t : Time) {s : State} (hs : Kept b s) : KeptOut b (execSlewDone t s) := by
  unfold execSlewDone
  repeat' first
    | with_reducible assumption
    | with_reducible refine KeptOut_next ?_
    | intro _
    | (extract_lets +onlyGivenNames x; refine (fun (hx : Kept b x) => ?_) ?_; (on_goal 1 => try clear_value x); (on_goal 2 => (dsimp only [x]; clear x)))
    | (extract_lets +onlyGivenNames x; first | clear_value x | (dsimp only [x]; clear x) | skip)
    | with_reducible apply State.at_kept
    | with_reducible apply State.whenLive_kept
    | with_reducible apply State.enterLock_kept
    | with_reducible apply State.slewTo_kept
    | split
    | (simp -zeta only [Kept_mk]; refine ⟨Kept.tabs ?_, ?_, ?_⟩)
    | with_reducible refine Kept.epochs ?_
    | with_reducible refine Kept.svns ?_
    | dsimp -zeta only [id]

theorem State.restepFrames_kept {s : State} (hs : Kept b s) (m : Nat → Nat) : Kept b (State.restepFrames s m) := by
  unfold State.restepFrames
  repeat' first
    | with_reducible assumption
    | intro _
    | (extract_lets +onlyGivenNames x; refine (fun (hx : Kept b x) => ?_) ?_; (on_goal 1 => try clear_value x); (on_goal 2 => (dsimp only [x]; clear x)))
    | (extract_lets +onlyGivenNames x; first | clear_value x | (dsimp only [x]; clear x) | skip)
    | with_reducible apply State.restep_kept
    | split
    | (simp -zeta only [Kept_mk]; refine ⟨Kept.tabs ?_, ?_, ?_⟩)
    | with_reducible refine Kept.epochs ?_
    | with_reducible refine Kept.svns ?_
    | dsimp -zeta only [id]

theorem State.restep_kept {s : State} (hs : Kept b s) (d : Int) : Kept b (State.restep s d) := by
  unfold State.restep
  repeat' first
    | with_reducible assumption
    | intro _
    | (extract_lets +onlyGivenNames x; refine (fun (hx : Kept b x) => ?_) ?_; (on_goal 1 => try clear_value x); (on_goal 2 => (dsimp only [x]; clear x)))
    | (extract_lets +onlyGivenNames x; first | clear_value x | (dsimp only [x]; clear x) | skip)
    | with_reducible apply State.restepFrames_kept
    | split
    | (simp -zeta only [Kept_mk]; refine ⟨Kept.tabs ?_, ?_, ?_⟩)
    | with_reducible refine Kept.epochs ?_
    | with_reducible refine Kept.svns ?_
    | dsimp -zeta only [id]

theorem execStepApply_kept (t : Time) {s : State} (hs : Kept b s) : KeptOut b (execStepApply t s) := by
  unfold execStepApply
  repeat' first
    | with_reducible assumption
    | with_reducible refine KeptOut_next ?_
    | intro _
    | (extract_lets +onlyGivenNames x; refine (fun (hx : Kept b x) => ?_) ?_; (on_goal 1 => try clear_value x); (on_goal 2 => (dsimp only [x]; clear x)))
    | (extract_lets +onlyGivenNames x; refine (fun (hx : Kept b x.2) => ?_) ?_; (on_goal 1 => try clear_value x); (on_goal 2 => (dsimp only [x]; clear x)))
    | (extract_lets +onlyGivenNames x; refine (fun (hx : Kept b x.1) => ?_) ?_; (on_goal 1 => try clear_value x); (on_goal 2 => (dsimp only [x]; clear x)))
    | (extract_lets +onlyGivenNames x; first | clear_value x | (dsimp only [x]; clear x) | skip)
    | with_reducible apply State.at_kept
    | with_reducible apply State.restep_kept
    | with_reducible apply State.clearStep_kept
    | with_reducible apply State.setFlag_kept
    | with_reducible apply State.cmpFire_kept
    | with_reducible apply State.pulseStep_kept
    | with_reducible apply State.fire_kept
    | with_reducible apply State.slewOrLock_kept
    | with_reducible refine Kept_foldl ?_ ?_
    | with_reducible refine Kept_foldl2 ?_ ?_
    | with_reducible refine Kept_foldl1 ?_ ?_
    | split
    | (simp -zeta only [Kept_mk]; refine ⟨Kept.tabs ?_, ?_, ?_⟩)
    | with_reducible refine Kept.epochs ?_
    | with_reducible refine Kept.svns ?_
    | dsimp -zeta only [id]

theorem execHoldoverSave_kept (t : Time) (refcnt : Nat) (freq : Nat) {s : State} (hs : Kept b s) : KeptOut b (execHoldoverSave t refcnt freq s) := by
  unfold execHoldoverSave
  repeat' first
    | with_reducible assumption
    | with_reducible refine KeptOut_next ?_
    | intro _
    | (extract_lets +onlyGivenNames x; refine (fun (hx : Kept b x) => ?_) ?_; (on_goal 1 => try clear_value x); (on_goal 2 => (dsimp only [x]; clear x)))
    | (extract_lets +onlyGivenNames x; first | clear_value x | (dsimp only [x]; clear x) | skip)
    | with_reducible apply State.at_kept
    | with_reducible apply State.whenLive_kept
    | with_reducible apply State.saveHold_kept
    | with_reducible apply State.setFld_kept
    | split
    | (simp -zeta only [Kept_mk]; refine ⟨Kept.tabs ?_, ?_, ?_⟩)
    | with_reducible refine Kept.epochs ?_
    | with_reducible refine Kept.svns ?_
    | dsimp -zeta only [id]

theorem execPtpSecondRollover_kept (t : Time) (sec : Nat) {s : State} (hs : Kept b s) : KeptOut b (execPtpSecondRollover t sec s) := by
  unfold execPtpSecondRollover
  repeat' first
    | with_reducible assumption
    | with_reducible refine KeptOut_next ?_
    | intro _
    | (extract_lets +onlyGivenNames x; refine (fun (hx : Kept b x) => ?_) ?_; (on_goal 1 => try clear_value x); (on_goal 2 => (dsimp only [x]; clear x)))
    | (extract_lets +onlyGivenNames x; first | clear_value x | (dsimp only [x]; clear x) | skip)
    | with_reducible apply State.at_kept
    | with_reducible apply State.whenLive_kept
    | with_reducible apply State.utcCapture_kept
    | split
    | (simp -zeta only [Kept_mk]; refine ⟨Kept.tabs ?_, ?_, ?_⟩)
    | with_reducible refine Kept.epochs ?_
    | with_reducible refine Kept.svns ?_
    | dsimp -zeta only [id]

theorem execPpsEdge_kept (t : Time) {s : State} (hs : Kept b s) : KeptOut b (execPpsEdge t s) := by
  unfold execPpsEdge
  repeat' first
    | with_reducible assumption
    | with_reducible refine KeptOut_next ?_
    | intro _
    | (extract_lets +onlyGivenNames x; refine (fun (hx : Kept b x) => ?_) ?_; (on_goal 1 => try clear_value x); (on_goal 2 => (dsimp only [x]; clear x)))
    | (extract_lets +onlyGivenNames x; first | clear_value x | (dsimp only [x]; clear x) | skip)
    | with_reducible apply State.at_kept
    | with_reducible apply State.whenLive_kept
    | with_reducible apply State.utcCapture_kept
    | split
    | (simp -zeta only [Kept_mk]; refine ⟨Kept.tabs ?_, ?_, ?_⟩)
    | with_reducible refine Kept.epochs ?_
    | with_reducible refine Kept.svns ?_
    | dsimp -zeta only [id]

theorem execUtcLoad_kept (rq : Req) (v : Sys2Proof.Word) {s : State} (hs : Kept b s) : KeptOut b (execUtcLoad rq v s) := by
  unfold execUtcLoad
  repeat' first
    | with_reducible assumption
    | with_reducible refine KeptOut_next ?_
    | intro _
    | (extract_lets +onlyGivenNames x; refine (fun (hx : Kept b x) => ?_) ?_; (on_goal 1 => try clear_value x); (on_goal 2 => (dsimp only [x]; clear x)))
    | (extract_lets +onlyGivenNames x; first | clear_value x | (dsimp only [x]; clear x) | skip)
    | with_reducible apply State.gated_kept
    | split
    | (simp -zeta only [Kept_mk]; refine ⟨Kept.tabs ?_, ?_, ?_⟩)
    | with_reducible refine Kept.epochs ?_
    | with_reducible refine Kept.svns ?_
    | dsimp -zeta only [id]

theorem execUtcStale_kept {s : State} (hs : Kept b s) : KeptOut b (execUtcStale s) := by
  unfold execUtcStale
  repeat' first
    | with_reducible assumption
    | with_reducible refine KeptOut_next ?_
    | intro _
    | (extract_lets +onlyGivenNames x; refine (fun (hx : Kept b x) => ?_) ?_; (on_goal 1 => try clear_value x); (on_goal 2 => (dsimp only [x]; clear x)))
    | (extract_lets +onlyGivenNames x; first | clear_value x | (dsimp only [x]; clear x) | skip)
    | with_reducible apply State.whenLive_kept
    | with_reducible apply State.setFlag_kept
    | with_reducible apply State.fire_kept
    | split
    | (simp -zeta only [Kept_mk]; refine ⟨Kept.tabs ?_, ?_, ?_⟩)
    | with_reducible refine Kept.epochs ?_
    | with_reducible refine Kept.svns ?_
    | dsimp -zeta only [id]

theorem execCmpArm_kept (t : Time) (rq : Req) (n : ℕ) (view : ℕ) (v : Sys2Proof.Word) {s : State} (hs : Kept b s) : KeptOut b (execCmpArm t rq n view v s) := by
  unfold execCmpArm
  repeat' first
    | with_reducible assumption
    | with_reducible refine KeptOut_next ?_
    | with_reducible apply State.cmpWrite_kept
    | with_reducible apply State.at_kept
    | dsimp -zeta only [id]

theorem execCmpDisarm_kept (rq : Req) (n : ℕ) (view : ℕ) (v : Sys2Proof.Word) {s : State} (hs : Kept b s) : KeptOut b (execCmpDisarm rq n view v s) := by
  unfold execCmpDisarm
  repeat' first
    | with_reducible assumption
    | with_reducible refine KeptOut_next ?_
    | with_reducible apply State.cmpWrite_kept
    | dsimp -zeta only [id]

theorem execCmpFire_kept (t : Time) (n : Nat) {s : State} (hs : Kept b s) : KeptOut b (execCmpFire t n s) := by
  unfold execCmpFire
  repeat' first
    | with_reducible assumption
    | with_reducible refine KeptOut_next ?_
    | intro _
    | (extract_lets +onlyGivenNames x; refine (fun (hx : Kept b x) => ?_) ?_; (on_goal 1 => try clear_value x); (on_goal 2 => (dsimp only [x]; clear x)))
    | (extract_lets +onlyGivenNames x; first | clear_value x | (dsimp only [x]; clear x) | skip)
    | with_reducible apply State.at_kept
    | with_reducible apply State.whenLive_kept
    | with_reducible apply State.cmpFire_kept
    | split
    | (simp -zeta only [Kept_mk]; refine ⟨Kept.tabs ?_, ?_, ?_⟩)
    | with_reducible refine Kept.epochs ?_
    | with_reducible refine Kept.svns ?_
    | dsimp -zeta only [id]

theorem execPulseArm_kept (t : Time) (rq : Req) (n : Nat) (view : Nat) (v : Word) {s : State} (hs : Kept b s) : KeptOut b (execPulseArm t rq n view v s) := by
  unfold execPulseArm
  repeat' first
    | with_reducible assumption
    | with_reducible refine KeptOut_next ?_
    | intro _
    | (extract_lets +onlyGivenNames x; refine (fun (hx : Kept b x) => ?_) ?_; (on_goal 1 => try clear_value x); (on_goal 2 => (dsimp only [x]; clear x)))
    | (extract_lets +onlyGivenNames x; first | clear_value x | (dsimp only [x]; clear x) | skip)
    | with_reducible apply State.at_kept
    | with_reducible apply State.recordFault_kept
    | with_reducible apply State.respond_kept
    | with_reducible apply State.viewWrite_kept
    | with_reducible apply State.pulseArm_kept
    | split
    | (simp -zeta only [Kept_mk]; refine ⟨Kept.tabs ?_, ?_, ?_⟩)
    | with_reducible refine Kept.epochs ?_
    | with_reducible refine Kept.svns ?_
    | dsimp -zeta only [id]

theorem execPulseEdge_kept (t : Time) (n : Nat) {s : State} (hs : Kept b s) : KeptOut b (execPulseEdge t n s) := by
  unfold execPulseEdge
  repeat' first
    | with_reducible assumption
    | with_reducible refine KeptOut_next ?_
    | intro _
    | (extract_lets +onlyGivenNames x; refine (fun (hx : Kept b x) => ?_) ?_; (on_goal 1 => try clear_value x); (on_goal 2 => (dsimp only [x]; clear x)))
    | (extract_lets +onlyGivenNames x; first | clear_value x | (dsimp only [x]; clear x) | skip)
    | with_reducible apply State.at_kept
    | with_reducible apply State.whenLive_kept
    | with_reducible apply State.setPulse_kept
    | with_reducible apply State.setFlag_kept
    | split
    | (simp -zeta only [Kept_mk]; refine ⟨Kept.tabs ?_, ?_, ?_⟩)
    | with_reducible refine Kept.epochs ?_
    | with_reducible refine Kept.svns ?_
    | dsimp -zeta only [id]

theorem execPulseWidthEnd_kept (e : PulseEnd) {s : State} (hs : Kept b s) : KeptOut b (execPulseWidthEnd e s) := by
  unfold execPulseWidthEnd
  repeat' first
    | with_reducible assumption
    | with_reducible refine KeptOut_next ?_
    | intro _
    | (extract_lets +onlyGivenNames x; refine (fun (hx : Kept b x) => ?_) ?_; (on_goal 1 => try clear_value x); (on_goal 2 => (dsimp only [x]; clear x)))
    | (extract_lets +onlyGivenNames x; first | clear_value x | (dsimp only [x]; clear x) | skip)
    | with_reducible apply State.at_kept
    | with_reducible apply State.whenLive_kept
    | with_reducible apply State.setPulse_kept
    | split
    | (simp -zeta only [Kept_mk]; refine ⟨Kept.tabs ?_, ?_, ?_⟩)
    | with_reducible refine Kept.epochs ?_
    | with_reducible refine Kept.svns ?_
    | dsimp -zeta only [id]

theorem execLegstampRead_kept (rq : Req) {s : State} (hs : Kept b s) : KeptOut b (execLegstampRead rq s) := by
  unfold execLegstampRead
  repeat' first
    | with_reducible assumption
    | with_reducible refine KeptOut_next ?_
    | (extract_lets +onlyGivenNames x; refine (fun (hx : Kept b x) => ?_) ?_; (on_goal 1 => try clear_value x); (on_goal 2 => (dsimp only [x]; clear x)))
    | (extract_lets +onlyGivenNames x; first | clear_value x | (dsimp only [x]; clear x) | skip)
    | with_reducible apply State.respond_kept
    | with_reducible apply State.recordFault_kept
    | split
    | (simp -zeta only [Kept_mk]; refine ⟨Kept.tabs ?_, ?_, ?_⟩)
    | with_reducible refine Kept.epochs ?_
    | with_reducible refine Kept.svns ?_
    | dsimp -zeta only [id]

theorem execMainsThdHigh_kept (thd : Nat) {s : State} (hs : Kept b s) : KeptOut b (execMainsThdHigh thd s) := by
  unfold execMainsThdHigh
  repeat' first
    | with_reducible assumption
    | with_reducible refine KeptOut_next ?_
    | intro _
    | (extract_lets +onlyGivenNames x; refine (fun (hx : Kept b x) => ?_) ?_; (on_goal 1 => try clear_value x); (on_goal 2 => (dsimp only [x]; clear x)))
    | (extract_lets +onlyGivenNames x; first | clear_value x | (dsimp only [x]; clear x) | skip)
    | with_reducible apply State.whenLive_kept
    | with_reducible apply State.setQual_kept
    | split
    | (simp -zeta only [Kept_mk]; refine ⟨Kept.tabs ?_, ?_, ?_⟩)
    | with_reducible refine Kept.epochs ?_
    | with_reducible refine Kept.svns ?_
    | dsimp -zeta only [id]

end Sys2Proof.Machine
end

