-- ==== Sys2Proof/Laws/KeptRfp.lean ====
section
/-! SUPPORT. What the operations of Machine/Rfp.lean keep: queue, canonical tables, fuses. -/

set_option linter.unusedTactic false
set_option linter.unreachableTactic false
set_option linter.unusedVariables false
set_option linter.tactic.unusedName false

namespace Sys2Proof.Machine

variable {b : Base}

/-! ### Rfp -/

theorem State.setPort_kept {s : State} (hs : Kept b s) (n : ℕ) (p : RfpPort) : Kept b (State.setPort s n p) := by
  unfold State.setPort
  repeat' first
    | with_reducible assumption
    | (extract_lets +onlyGivenNames x; refine (fun (hx : Kept b x) => ?_) ?_; (on_goal 1 => try clear_value x); (on_goal 2 => (dsimp only [x]; clear x)))
    | (extract_lets +onlyGivenNames x; first | clear_value x | (dsimp only [x]; clear x) | skip)
    | (simp -zeta only [Kept_mk]; refine ⟨Kept.tabs ?_, ?_, ?_⟩)
    | with_reducible refine Kept.epochs ?_
    | with_reducible refine Kept.svns ?_
    | dsimp -zeta only [id]

theorem State.histEnd_kept {s : State} (hs : Kept b s) (r : HistRead) (o : HistOutcome) : Kept b (State.histEnd s r o) := by
  unfold State.histEnd
  repeat' first
    | with_reducible assumption
    | intro _
    | (extract_lets +onlyGivenNames x; refine (fun (hx : Kept b x) => ?_) ?_; (on_goal 1 => try clear_value x); (on_goal 2 => (dsimp only [x]; clear x)))
    | (extract_lets +onlyGivenNames x; first | clear_value x | (dsimp only [x]; clear x) | skip)
    | with_reducible apply State.fire_kept
    | with_reducible apply State.bump_kept
    | split
    | (simp -zeta only [Kept_mk]; refine ⟨Kept.tabs ?_, ?_, ?_⟩)
    | with_reducible refine Kept.epochs ?_
    | with_reducible refine Kept.svns ?_
    | dsimp -zeta only [id]

theorem State.histAgain_kept {s : State} (hs : Kept b s) (r : HistRead) : Kept b (State.histAgain s r) := by
  unfold State.histAgain
  repeat' first
    | with_reducible assumption
    | intro _
    | (extract_lets +onlyGivenNames x; refine (fun (hx : Kept b x) => ?_) ?_; (on_goal 1 => try clear_value x); (on_goal 2 => (dsimp only [x]; clear x)))
    | (extract_lets +onlyGivenNames x; first | clear_value x | (dsimp only [x]; clear x) | skip)
    | split
    | (simp -zeta only [Kept_mk]; refine ⟨Kept.tabs ?_, ?_, ?_⟩)
    | with_reducible refine Kept.epochs ?_
    | with_reducible refine Kept.svns ?_
    | dsimp -zeta only [id]

theorem State.histRequest_kept {s : State} (hs : Kept b s) (reader : HistReader) (tag : Nat) (port : Nat) (start : Nat) (count : Nat) : Kept b (State.histRequest s reader tag port start count) := by
  unfold State.histRequest
  repeat' first
    | with_reducible assumption
    | intro _
    | (extract_lets +onlyGivenNames x; refine (fun (hx : Kept b x) => ?_) ?_; (on_goal 1 => try clear_value x); (on_goal 2 => (dsimp only [x]; clear x)))
    | (extract_lets +onlyGivenNames x; first | clear_value x | (dsimp only [x]; clear x) | skip)
    | with_reducible apply State.histEnd_kept
    | with_reducible apply State.histAgain_kept
    | split
    | (simp -zeta only [Kept_mk]; refine ⟨Kept.tabs ?_, ?_, ?_⟩)
    | with_reducible refine Kept.epochs ?_
    | with_reducible refine Kept.svns ?_
    | dsimp -zeta only [id]

theorem State.histDrop_kept {s : State} (hs : Kept b s) (reader : HistReader) (tag : ℕ) : Kept b (State.histDrop s reader tag) := by
  unfold State.histDrop
  repeat' first
    | with_reducible assumption
    | intro _
    | (extract_lets +onlyGivenNames x; refine (fun (hx : Kept b x) => ?_) ?_; (on_goal 1 => try clear_value x); (on_goal 2 => (dsimp only [x]; clear x)))
    | (extract_lets +onlyGivenNames x; first | clear_value x | (dsimp only [x]; clear x) | skip)
    | (simp -zeta only [Kept_mk]; refine ⟨Kept.tabs ?_, ?_, ?_⟩)
    | with_reducible refine Kept.epochs ?_
    | with_reducible refine Kept.svns ?_
    | dsimp -zeta only [id]

theorem State.reserve_kept {s : State} (hs : Kept b s) (user : TxUser) (n : Nat) (k : Nat) (start : Nat) (dur : Nat) : Kept b (State.reserve s user n k start dur).2 := by
  unfold State.reserve
  repeat' first
    | with_reducible assumption
    | intro _
    | (extract_lets +onlyGivenNames x; refine (fun (hx : Kept b x) => ?_) ?_; (on_goal 1 => try clear_value x); (on_goal 2 => (dsimp only [x]; clear x)))
    | (extract_lets +onlyGivenNames x; first | clear_value x | (dsimp only [x]; clear x) | skip)
    | with_reducible apply State.bump_kept
    | with_reducible apply State.setPort_kept
    | split
    | (simp -zeta only [Kept_mk]; refine ⟨Kept.tabs ?_, ?_, ?_⟩)
    | with_reducible refine Kept.epochs ?_
    | with_reducible refine Kept.svns ?_
    | dsimp -zeta only [id]

theorem State.reserve_kept' {s : State} (hs : Kept b s) (user : TxUser) (n : Nat) (k : Nat) (start : Nat) (dur : Nat) {r1 : _} {t1 : State} (e1 : State.reserve s user n k start dur = (r1, t1)) : Kept b t1 := by
  have := State.reserve_kept (b := b) hs user n k start dur
  rw [e1] at this
  exact this

theorem State.notIdle_kept {s : State} (hs : Kept b s) (n : Nat) (ks : List Nat) : Kept b (State.notIdle s n ks) := by
  unfold State.notIdle
  repeat' first
    | with_reducible assumption
    | intro _
    | (extract_lets +onlyGivenNames x; refine (fun (hx : Kept b x) => ?_) ?_; (on_goal 1 => try clear_value x); (on_goal 2 => (dsimp only [x]; clear x)))
    | (extract_lets +onlyGivenNames x; first | clear_value x | (dsimp only [x]; clear x) | skip)
    | with_reducible apply State.setPort_kept
    | split
    | (simp -zeta only [Kept_mk]; refine ⟨Kept.tabs ?_, ?_, ?_⟩)
    | with_reducible refine Kept.epochs ?_
    | with_reducible refine Kept.svns ?_
    | dsimp -zeta only [id]

theorem State.noteBlanked_kept {s : State} (hs : Kept b s) : Kept b (State.noteBlanked s) := by
  unfold State.noteBlanked
  repeat' first
    | with_reducible assumption
    | intro _
    | (extract_lets +onlyGivenNames x; refine (fun (hx : Kept b x) => ?_) ?_; (on_goal 1 => try clear_value x); (on_goal 2 => (dsimp only [x]; clear x)))
    | (extract_lets +onlyGivenNames x; refine (fun (hx : Kept b x.2) => ?_) ?_; (on_goal 1 => try clear_value x); (on_goal 2 => (dsimp only [x]; clear x)))
    | (extract_lets +onlyGivenNames x; refine (fun (hx : Kept b x.1) => ?_) ?_; (on_goal 1 => try clear_value x); (on_goal 2 => (dsimp only [x]; clear x)))
    | (extract_lets +onlyGivenNames x; first | clear_value x | (dsimp only [x]; clear x) | skip)
    | with_reducible apply State.notIdle_kept
    | with_reducible refine Kept_foldl ?_ ?_
    | with_reducible refine Kept_foldl2 ?_ ?_
    | with_reducible refine Kept_foldl1 ?_ ?_
    | split
    | (simp -zeta only [Kept_mk]; refine ⟨Kept.tabs ?_, ?_, ?_⟩)
    | with_reducible refine Kept.epochs ?_
    | with_reducible refine Kept.svns ?_
    | dsimp -zeta only [id]

theorem State.dropStream_kept {s : State} (hs : Kept b s) (n : Nat) (id : Nat) : Kept b (State.dropStream s n id) := by
  unfold State.dropStream
  repeat' first
    | with_reducible assumption
    | intro _
    | (extract_lets +onlyGivenNames x; refine (fun (hx : Kept b x) => ?_) ?_; (on_goal 1 => try clear_value x); (on_goal 2 => (dsimp only [x]; clear x)))
    | (extract_lets +onlyGivenNames x; first | clear_value x | (dsimp only [x]; clear x) | skip)
    | with_reducible apply State.setPort_kept
    | split
    | (simp -zeta only [Kept_mk]; refine ⟨Kept.tabs ?_, ?_, ?_⟩)
    | with_reducible refine Kept.epochs ?_
    | with_reducible refine Kept.svns ?_
    | dsimp -zeta only [id]

theorem State.markOwn_kept {s : State} (hs : Kept b s) : Kept b (State.markOwn s) := by
  unfold State.markOwn
  repeat' first
    | with_reducible assumption
    | intro _
    | (extract_lets +onlyGivenNames x; refine (fun (hx : Kept b x) => ?_) ?_; (on_goal 1 => try clear_value x); (on_goal 2 => (dsimp only [x]; clear x)))
    | (extract_lets +onlyGivenNames x; refine (fun (hx : Kept b x.2) => ?_) ?_; (on_goal 1 => try clear_value x); (on_goal 2 => (dsimp only [x]; clear x)))
    | (extract_lets +onlyGivenNames x; refine (fun (hx : Kept b x.1) => ?_) ?_; (on_goal 1 => try clear_value x); (on_goal 2 => (dsimp only [x]; clear x)))
    | (extract_lets +onlyGivenNames x; first | clear_value x | (dsimp only [x]; clear x) | skip)
    | with_reducible apply State.setPort_kept
    | with_reducible refine Kept_foldl ?_ ?_
    | with_reducible refine Kept_foldl2 ?_ ?_
    | with_reducible refine Kept_foldl1 ?_ ?_
    | split
    | (simp -zeta only [Kept_mk]; refine ⟨Kept.tabs ?_, ?_, ?_⟩)
    | with_reducible refine Kept.epochs ?_
    | with_reducible refine Kept.svns ?_
    | dsimp -zeta only [id]

theorem State.linkStart_kept {s : State} (hs : Kept b s) (n : ℕ) : Kept b (State.linkStart s n) := by
  unfold State.linkStart
  repeat' first
    | with_reducible assumption
    | with_reducible apply State.setFld_kept
    | split
    | dsimp -zeta only [id]

theorem execSysrefEdge_kept (n : ℕ) (aligned : Bool) {s : State} (hs : Kept b s) : KeptOut b (execSysrefEdge n aligned s) := by
  unfold execSysrefEdge
  repeat' first
    | with_reducible assumption
    | with_reducible refine KeptOut_next ?_
    | with_reducible apply State.setFld_kept
    | with_reducible apply State.fireIf_kept
    | split
    | dsimp -zeta only [id]

theorem execLinkLock_kept (t : Time) (n : Nat) (m : LinkLat) (period : Nat) {s : State} (hs : Kept b s) : KeptOut b (execLinkLock t n m period s) := by
  unfold execLinkLock
  repeat' first
    | with_reducible assumption
    | with_reducible refine KeptOut_next ?_
    | intro _
    | (extract_lets +onlyGivenNames x; refine (fun (hx : Kept b x) => ?_) ?_; (on_goal 1 => try clear_value x); (on_goal 2 => (dsimp only [x]; clear x)))
    | (extract_lets +onlyGivenNames x; first | clear_value x | (dsimp only [x]; clear x) | skip)
    | with_reducible apply State.at_kept
    | with_reducible apply State.setFld_kept
    | with_reducible apply State.setFlag_kept
    | with_reducible apply State.setPort_kept
    | with_reducible apply State.fire_kept
    | with_reducible apply State.fireIf_kept
    | split
    | (simp -zeta only [Kept_mk]; refine ⟨Kept.tabs ?_, ?_, ?_⟩)
    | with_reducible refine Kept.epochs ?_
    | with_reducible refine Kept.svns ?_
    | dsimp -zeta only [id]

theorem execLinkLockTimeout_kept (n : ℕ) {s : State} (hs : Kept b s) : KeptOut b (execLinkLockTimeout n s) := by
  unfold execLinkLockTimeout
  repeat' first
    | with_reducible assumption
    | with_reducible refine KeptOut_next ?_
    | with_reducible apply State.bump_kept
    | with_reducible apply State.setFld_kept
    | split
    | dsimp -zeta only [id]

theorem State.proxyPost_kept {s : State} (hs : Kept b s) (v : Word) : Kept b (State.proxyPost s v) := by
  unfold State.proxyPost
  repeat' first
    | with_reducible assumption
    | intro _
    | (extract_lets +onlyGivenNames x; refine (fun (hx : Kept b x) => ?_) ?_; (on_goal 1 => try clear_value x); (on_goal 2 => (dsimp only [x]; clear x)))
    | (extract_lets +onlyGivenNames x; first | clear_value x | (dsimp only [x]; clear x) | skip)
    | with_reducible apply State.setFlag_kept
    | split
    | (simp -zeta only [Kept_mk]; refine ⟨Kept.tabs ?_, ?_, ?_⟩)
    | with_reducible refine Kept.epochs ?_
    | with_reducible refine Kept.svns ?_
    | dsimp -zeta only [id]

theorem State.proxyLand_kept {s : State} (hs : Kept b s) (px : Proxy) : Kept b (State.proxyLand s px) := by
  unfold State.proxyLand
  repeat' first
    | with_reducible assumption
    | intro _
    | (extract_lets +onlyGivenNames x; refine (fun (hx : Kept b x) => ?_) ?_; (on_goal 1 => try clear_value x); (on_goal 2 => (dsimp only [x]; clear x)))
    | (extract_lets +onlyGivenNames x; first | clear_value x | (dsimp only [x]; clear x) | skip)
    | with_reducible apply State.setReg_kept
    | with_reducible apply State.setFlag_kept
    | split
    | (simp -zeta only [Kept_mk]; refine ⟨Kept.tabs ?_, ?_, ?_⟩)
    | with_reducible refine Kept.epochs ?_
    | with_reducible refine Kept.svns ?_
    | dsimp -zeta only [id]

theorem State.proxyEnd_kept {s : State} (hs : Kept b s) (px : Proxy) (data : Nat) : Kept b (State.proxyEnd s px data) := by
  unfold State.proxyEnd
  repeat' first
    | with_reducible assumption
    | intro _
    | (extract_lets +onlyGivenNames x; refine (fun (hx : Kept b x) => ?_) ?_; (on_goal 1 => try clear_value x); (on_goal 2 => (dsimp only [x]; clear x)))
    | (extract_lets +onlyGivenNames x; first | clear_value x | (dsimp only [x]; clear x) | skip)
    | with_reducible apply State.proxyLand_kept
    | with_reducible apply State.setFld_kept
    | with_reducible apply State.setFlag_kept
    | with_reducible apply State.fire_kept
    | split
    | (simp -zeta only [Kept_mk]; refine ⟨Kept.tabs ?_, ?_, ?_⟩)
    | with_reducible refine Kept.epochs ?_
    | with_reducible refine Kept.svns ?_
    | dsimp -zeta only [id]

theorem execProxyCmd_kept (rq : Req) (v : Word) {s : State} (hs : Kept b s) : KeptOut b (execProxyCmd rq v s) := by
  unfold execProxyCmd
  repeat' first
    | with_reducible assumption
    | with_reducible refine KeptOut_next ?_
    | intro _
    | (extract_lets +onlyGivenNames x; refine (fun (hx : Kept b x) => ?_) ?_; (on_goal 1 => try clear_value x); (on_goal 2 => (dsimp only [x]; clear x)))
    | (extract_lets +onlyGivenNames x; first | clear_value x | (dsimp only [x]; clear x) | skip)
    | with_reducible apply State.gated_kept
    | with_reducible apply State.proxyPost_kept
    | split
    | (simp -zeta only [Kept_mk]; refine ⟨Kept.tabs ?_, ?_, ?_⟩)
    | with_reducible refine Kept.epochs ?_
    | with_reducible refine Kept.svns ?_
    | dsimp -zeta only [id]

theorem State.proxyNow_kept {s : State} (hs : Kept b s) (v : Word) : Kept b (State.proxyNow s v) := by
  unfold State.proxyNow
  repeat' first
    | with_reducible assumption
    | intro _
    | (extract_lets +onlyGivenNames x; refine (fun (hx : Kept b x) => ?_) ?_; (on_goal 1 => try clear_value x); (on_goal 2 => (dsimp only [x]; clear x)))
    | (extract_lets +onlyGivenNames x; first | clear_value x | (dsimp only [x]; clear x) | skip)
    | with_reducible apply State.proxyPost_kept
    | with_reducible apply State.proxyEnd_kept
    | with_reducible apply State.nextFree_kept
    | with_reducible apply State.proxyLand_kept
    | split
    | (simp -zeta only [Kept_mk]; refine ⟨Kept.tabs ?_, ?_, ?_⟩)
    | with_reducible refine Kept.epochs ?_
    | with_reducible refine Kept.svns ?_
    | dsimp -zeta only [id]

theorem State.convDrain_kept {s : State} (hs : Kept b s) : Kept b (State.convDrain s) := by
  unfold State.convDrain
  repeat' first
    | with_reducible assumption
    | intro _
    | (extract_lets +onlyGivenNames x; refine (fun (hx : Kept b x) => ?_) ?_; (on_goal 1 => try clear_value x); (on_goal 2 => (dsimp only [x]; clear x)))
    | (extract_lets +onlyGivenNames x; refine (fun (hx : Kept b x.2) => ?_) ?_; (on_goal 1 => try clear_value x); (on_goal 2 => (dsimp only [x]; clear x)))
    | (extract_lets +onlyGivenNames x; refine (fun (hx : Kept b x.1) => ?_) ?_; (on_goal 1 => try clear_value x); (on_goal 2 => (dsimp only [x]; clear x)))
    | (extract_lets +onlyGivenNames x; first | clear_value x | (dsimp only [x]; clear x) | skip)
    | with_reducible apply State.proxyNow_kept
    | with_reducible refine Kept_foldl ?_ ?_
    | with_reducible refine Kept_foldl2 ?_ ?_
    | with_reducible refine Kept_foldl1 ?_ ?_
    | split
    | (simp -zeta only [Kept_mk]; refine ⟨Kept.tabs ?_, ?_, ?_⟩)
    | with_reducible refine Kept.epochs ?_
    | with_reducible refine Kept.svns ?_
    | dsimp -zeta only [id]

theorem State.proxyQueue_kept {s : State} (hs : Kept b s) (v : Word) (step : Bool) : Kept b (State.proxyQueue s v step) := by
  unfold State.proxyQueue
  repeat' first
    | with_reducible assumption
    | intro _
    | (extract_lets +onlyGivenNames x; refine (fun (hx : Kept b x) => ?_) ?_; (on_goal 1 => try clear_value x); (on_goal 2 => (dsimp only [x]; clear x)))
    | (extract_lets +onlyGivenNames x; first | clear_value x | (dsimp only [x]; clear x) | skip)
    | with_reducible apply State.convDrain_kept
    | with_reducible apply step_kept
    | split
    | (simp -zeta only [Kept_mk]; refine ⟨Kept.tabs ?_, ?_, ?_⟩)
    | with_reducible refine Kept.epochs ?_
    | with_reducible refine Kept.svns ?_
    | dsimp -zeta only [id]

theorem State.convStep_kept {s : State} (hs : Kept b s) (port : Nat) (addr : Nat) (data : Nat) : Kept b (State.convStep s port addr data) := by
  unfold State.convStep
  repeat' first
    | with_reducible assumption
    | intro _
    | (extract_lets +onlyGivenNames x; refine (fun (hx : Kept b x) => ?_) ?_; (on_goal 1 => try clear_value x); (on_goal 2 => (dsimp only [x]; clear x)))
    | (extract_lets +onlyGivenNames x; first | clear_value x | (dsimp only [x]; clear x) | skip)
    | with_reducible apply State.proxyQueue_kept
    | split
    | (simp -zeta only [Kept_mk]; refine ⟨Kept.tabs ?_, ?_, ?_⟩)
    | with_reducible refine Kept.epochs ?_
    | with_reducible refine Kept.svns ?_
    | dsimp -zeta only [id]

theorem execProxyComplete_kept (data : Nat) {s : State} (hs : Kept b s) : KeptOut b (execProxyComplete data s) := by
  unfold execProxyComplete
  repeat' first
    | with_reducible assumption
    | with_reducible refine KeptOut_next ?_
    | intro _
    | (extract_lets +onlyGivenNames x; refine (fun (hx : Kept b x) => ?_) ?_; (on_goal 1 => try clear_value x); (on_goal 2 => (dsimp only [x]; clear x)))
    | (extract_lets +onlyGivenNames x; first | clear_value x | (dsimp only [x]; clear x) | skip)
    | with_reducible apply State.proxyEnd_kept
    | with_reducible apply State.convDrain_kept
    | split
    | (simp -zeta only [Kept_mk]; refine ⟨Kept.tabs ?_, ?_, ?_⟩)
    | with_reducible refine Kept.epochs ?_
    | with_reducible refine Kept.svns ?_
    | dsimp -zeta only [id]

theorem execHistoryMarker_kept (t : Time) (n : Nat) (missed : Nat) (valid : Bool) {s : State} (hs : Kept b s) : KeptOut b (execHistoryMarker t n missed valid s) := by
  unfold execHistoryMarker
  repeat' first
    | with_reducible assumption
    | with_reducible refine KeptOut_next ?_
    | intro _
    | (extract_lets +onlyGivenNames x; refine (fun (hx : Kept b x) => ?_) ?_; (on_goal 1 => try clear_value x); (on_goal 2 => (dsimp only [x]; clear x)))
    | (extract_lets +onlyGivenNames x; first | clear_value x | (dsimp only [x]; clear x) | skip)
    | with_reducible apply State.at_kept
    | with_reducible apply State.whenLive_kept
    | with_reducible apply State.setPort_kept
    | split
    | (simp -zeta only [Kept_mk]; refine ⟨Kept.tabs ?_, ?_, ?_⟩)
    | with_reducible refine Kept.epochs ?_
    | with_reducible refine Kept.svns ?_
    | dsimp -zeta only [id]

theorem execHistoryRead_kept (reader : HistReader) (tag : ℕ) (port : ℕ) (start : ℕ) (count : ℕ) {s : State} (hs : Kept b s) : KeptOut b (execHistoryRead reader tag port start count s) := by
  unfold execHistoryRead
  repeat' first
    | with_reducible assumption
    | with_reducible refine KeptOut_next ?_
    | with_reducible apply State.histRequest_kept
    | dsimp -zeta only [id]

theorem execTxReserve_kept (t : Time) (user : TxUser) (n : ℕ) (slice : ℕ) (start : ℕ) (dur : ℕ) {s : State} (hs : Kept b s) : KeptOut b (execTxReserve t user n slice start dur s) := by
  unfold execTxReserve
  repeat' first
    | with_reducible assumption
    | with_reducible refine KeptOut_next ?_
    | with_reducible apply State.reserve_kept
    | with_reducible refine State.reserve_kept' ?_ _ _ _ _ _ ‹_›
    | with_reducible apply State.at_kept
    | dsimp -zeta only [id]

end Sys2Proof.Machine
end

