-- ==== Sys2Proof/Laws/KeptCdc.lean ====
section
/-! SUPPORT. What the operations of Machine/Cdc.lean keep: queue, canonical tables, fuses. -/

set_option linter.unusedTactic false
set_option linter.unreachableTactic false
set_option linter.unusedVariables false
set_option linter.tactic.unusedName false

namespace Sys2Proof.Machine

variable {b : Base}

/-! ### Cdc -/

theorem State.hdrFail_kept {s : State} (hs : Kept b s) (c : ℕ) : Kept b (State.hdrFail s c) := by
  unfold State.hdrFail
  repeat' first
    | with_reducible assumption
    | (extract_lets +onlyGivenNames x; refine (fun (hx : Kept b x) => ?_) ?_; (on_goal 1 => try clear_value x); (on_goal 2 => (dsimp only [x]; clear x)))
    | (extract_lets +onlyGivenNames x; first | clear_value x | (dsimp only [x]; clear x) | skip)
    | with_reducible apply State.bump_kept
    | with_reducible apply State.fireIf_kept
    | (simp -zeta only [Kept_mk]; refine ⟨Kept.tabs ?_, ?_, ?_⟩)
    | with_reducible refine Kept.epochs ?_
    | with_reducible refine Kept.svns ?_
    | dsimp -zeta only [id]

theorem State.cdcHeader_kept {s : State} (hs : Kept b s) (lh : ℕ) (w0 : ℕ) (w1 : ℕ) : Kept b (State.cdcHeader s lh w0 w1).2 := by
  unfold State.cdcHeader
  repeat' first
    | with_reducible assumption
    | (extract_lets +onlyGivenNames x; refine (fun (hx : Kept b x) => ?_) ?_; (on_goal 1 => try clear_value x); (on_goal 2 => (dsimp only [x]; clear x)))
    | (extract_lets +onlyGivenNames x; first | clear_value x | (dsimp only [x]; clear x) | skip)
    | with_reducible apply State.bump_kept
    | with_reducible apply State.hdrFail_kept
    | split
    | dsimp -zeta only [id]

theorem State.cdcHeader_kept' {s : State} (hs : Kept b s) (lh : ℕ) (w0 : ℕ) (w1 : ℕ) {r1 : _} {t1 : State} (e1 : State.cdcHeader s lh w0 w1 = (r1, t1)) : Kept b t1 := by
  have := State.cdcHeader_kept (b := b) hs lh w0 w1
  rw [e1] at this
  exact this

theorem State.cdcPayload_kept {s : State} (hs : Kept b s) (hx : Hdr) (coded : List Sys2Proof.Octet) : Kept b (State.cdcPayload s hx coded).2 := by
  unfold State.cdcPayload
  repeat' first
    | with_reducible assumption
    | (extract_lets +onlyGivenNames x; refine (fun (hx : Kept b x) => ?_) ?_; (on_goal 1 => try clear_value x); (on_goal 2 => (dsimp only [x]; clear x)))
    | (extract_lets +onlyGivenNames x; first | clear_value x | (dsimp only [x]; clear x) | skip)
    | with_reducible apply State.bump_kept
    | with_reducible apply State.fireIf_kept
    | (simp -zeta only [Kept_mk]; refine ⟨Kept.tabs ?_, ?_, ?_⟩)
    | with_reducible refine Kept.epochs ?_
    | with_reducible refine Kept.svns ?_
    | dsimp -zeta only [id]

theorem State.cdcPayload_kept' {s : State} (hs : Kept b s) (hx : Hdr) (coded : List Sys2Proof.Octet) {r1 : _} {t1 : State} (e1 : State.cdcPayload s hx coded = (r1, t1)) : Kept b t1 := by
  have := State.cdcPayload_kept (b := b) hs hx coded
  rw [e1] at this
  exact this

theorem State.cdcRequest_kept {s : State} (hs : Kept b s) (r : EncReq) : Kept b (State.cdcRequest s r) := by
  unfold State.cdcRequest
  repeat' first
    | with_reducible assumption
    | (extract_lets +onlyGivenNames x; refine (fun (hx : Kept b x) => ?_) ?_; (on_goal 1 => try clear_value x); (on_goal 2 => (dsimp only [x]; clear x)))
    | (extract_lets +onlyGivenNames x; first | clear_value x | (dsimp only [x]; clear x) | skip)
    | (simp -zeta only [Kept_mk]; refine ⟨Kept.tabs ?_, ?_, ?_⟩)
    | with_reducible refine Kept.epochs ?_
    | with_reducible refine Kept.svns ?_
    | dsimp -zeta only [id]

theorem State.cdcDrop_kept {s : State} (hs : Kept b s) (id : Nat) : Kept b (State.cdcDrop s id) := by
  unfold State.cdcDrop
  repeat' first
    | with_reducible assumption
    | intro _
    | (extract_lets +onlyGivenNames x; refine (fun (hx : Kept b x) => ?_) ?_; (on_goal 1 => try clear_value x); (on_goal 2 => (dsimp only [x]; clear x)))
    | (extract_lets +onlyGivenNames x; first | clear_value x | (dsimp only [x]; clear x) | skip)
    | split
    | (simp -zeta only [Kept_mk]; refine ⟨Kept.tabs ?_, ?_, ?_⟩)
    | with_reducible refine Kept.epochs ?_
    | with_reducible refine Kept.svns ?_
    | dsimp -zeta only [id]

theorem execCdcEncode_kept {s : State} (hs : Kept b s) : KeptOut b (execCdcEncode s) := by
  unfold execCdcEncode
  repeat' first
    | with_reducible assumption
    | with_reducible refine KeptOut_next ?_
    | intro _
    | (extract_lets +onlyGivenNames x; refine (fun (hx : Kept b x) => ?_) ?_; (on_goal 1 => try clear_value x); (on_goal 2 => (dsimp only [x]; clear x)))
    | (extract_lets +onlyGivenNames x; first | clear_value x | (dsimp only [x]; clear x) | skip)
    | with_reducible apply State.bump_kept
    | split
    | (simp -zeta only [Kept_mk]; refine ⟨Kept.tabs ?_, ?_, ?_⟩)
    | with_reducible refine Kept.epochs ?_
    | with_reducible refine Kept.svns ?_
    | dsimp -zeta only [id]

theorem execCdcEncodeCancel_kept (id : Nat) {s : State} (hs : Kept b s) : KeptOut b (execCdcEncodeCancel id s) := by
  unfold execCdcEncodeCancel
  repeat' first
    | with_reducible assumption
    | with_reducible refine KeptOut_next ?_
    | intro _
    | (extract_lets +onlyGivenNames x; refine (fun (hx : Kept b x) => ?_) ?_; (on_goal 1 => try clear_value x); (on_goal 2 => (dsimp only [x]; clear x)))
    | (extract_lets +onlyGivenNames x; first | clear_value x | (dsimp only [x]; clear x) | skip)
    | split
    | (simp -zeta only [Kept_mk]; refine ⟨Kept.tabs ?_, ?_, ?_⟩)
    | with_reducible refine Kept.epochs ?_
    | with_reducible refine Kept.svns ?_
    | dsimp -zeta only [id]

end Sys2Proof.Machine
end

