-- ==== Sys2Proof/Laws/KeptSic.lean ====
section
/-! SUPPORT. What the operations of Machine/Sic.lean keep: queue, canonical tables, fuses. -/

set_option linter.unusedTactic false
set_option linter.unreachableTactic false
set_option linter.unusedVariables false
set_option linter.tactic.unusedName false

namespace Sys2Proof.Machine

variable {b : Base}

/-! ### Sic -/

theorem State.putJob_kept {s : State} (hs : Kept b s) (j : SicJob) : Kept b (State.putJob s j) := by
  unfold State.putJob
  repeat' first
    | with_reducible assumption
    | intro _
    | (extract_lets +onlyGivenNames x; refine (fun (hx : Kept b x) => ?_) ?_; (on_goal 1 => try clear_value x); (on_goal 2 => (dsimp only [x]; clear x)))
    | (extract_lets +onlyGivenNames x; first | clear_value x | (dsimp only [x]; clear x) | skip)
    | split
    | (simp -zeta only [Kept_mk]; refine ⟨Kept.tabs ?_, ?_, ?_⟩)
    | with_reducible refine Kept.epochs ?_
    | with_reducible refine Kept.svns ?_
    | dsimp -zeta only [id]

theorem State.sicRequest_kept {s : State} (hs : Kept b s) (qx : QRec) (hdr : Option Hdr) (fin : Nat) (ft : Nat) : Kept b (State.sicRequest s qx hdr fin ft) := by
  unfold State.sicRequest
  repeat' first
    | with_reducible assumption
    | intro _
    | (extract_lets +onlyGivenNames x; refine (fun (hx : Kept b x) => ?_) ?_; (on_goal 1 => try clear_value x); (on_goal 2 => (dsimp only [x]; clear x)))
    | (extract_lets +onlyGivenNames x; first | clear_value x | (dsimp only [x]; clear x) | skip)
    | with_reducible apply State.bump_kept
    | with_reducible apply State.putJob_kept
    | with_reducible apply State.fire_kept
    | split
    | (simp -zeta only [Kept_mk]; refine ⟨Kept.tabs ?_, ?_, ?_⟩)
    | with_reducible refine Kept.epochs ?_
    | with_reducible refine Kept.svns ?_
    | dsimp -zeta only [id]

theorem State.sicLaneEnded_kept {s : State} (hs : Kept b s) (qx : QRec) (hdr : Option Hdr) (fin : Nat) : Kept b (State.sicLaneEnded s qx hdr fin) := by
  unfold State.sicLaneEnded
  repeat' first
    | with_reducible assumption
    | intro _
    | (extract_lets +onlyGivenNames x; refine (fun (hx : Kept b x) => ?_) ?_; (on_goal 1 => try clear_value x); (on_goal 2 => (dsimp only [x]; clear x)))
    | (extract_lets +onlyGivenNames x; refine (fun (hx : Kept b x.2) => ?_) ?_; (on_goal 1 => try clear_value x); (on_goal 2 => (dsimp only [x]; clear x)))
    | (extract_lets +onlyGivenNames x; refine (fun (hx : Kept b x.1) => ?_) ?_; (on_goal 1 => try clear_value x); (on_goal 2 => (dsimp only [x]; clear x)))
    | (extract_lets +onlyGivenNames x; first | clear_value x | (dsimp only [x]; clear x) | skip)
    | with_reducible apply State.putJob_kept
    | with_reducible refine Kept_foldl ?_ ?_
    | with_reducible refine Kept_foldl2 ?_ ?_
    | with_reducible refine Kept_foldl1 ?_ ?_
    | split
    | (simp -zeta only [Kept_mk]; refine ⟨Kept.tabs ?_, ?_, ?_⟩)
    | with_reducible refine Kept.epochs ?_
    | with_reducible refine Kept.svns ?_
    | dsimp -zeta only [id]

theorem State.refStore_kept {s : State} (hs : Kept b s) (fr : RxFrame) (ft : Nat) : Kept b (State.refStore s fr ft) := by
  unfold State.refStore
  repeat' first
    | with_reducible assumption
    | intro _
    | (extract_lets +onlyGivenNames x; refine (fun (hx : Kept b x) => ?_) ?_; (on_goal 1 => try clear_value x); (on_goal 2 => (dsimp only [x]; clear x)))
    | (extract_lets +onlyGivenNames x; first | clear_value x | (dsimp only [x]; clear x) | skip)
    | split
    | (simp -zeta only [Kept_mk]; refine ⟨Kept.tabs ?_, ?_, ?_⟩)
    | with_reducible refine Kept.epochs ?_
    | with_reducible refine Kept.svns ?_
    | dsimp -zeta only [id]

theorem State.pushJobRec_kept {s : State} (hs : Kept b s) (r : JobRec) : Kept b (State.pushJobRec s r) := by
  unfold State.pushJobRec
  repeat' first
    | with_reducible assumption
    | (extract_lets +onlyGivenNames x; refine (fun (hx : Kept b x) => ?_) ?_; (on_goal 1 => try clear_value x); (on_goal 2 => (dsimp only [x]; clear x)))
    | (extract_lets +onlyGivenNames x; first | clear_value x | (dsimp only [x]; clear x) | skip)
    | with_reducible apply State.fire_kept
    | with_reducible apply State.bump_kept
    | with_reducible apply State.fireIf_kept
    | split
    | (simp -zeta only [Kept_mk]; refine ⟨Kept.tabs ?_, ?_, ?_⟩)
    | with_reducible refine Kept.epochs ?_
    | with_reducible refine Kept.svns ?_
    | dsimp -zeta only [id]

theorem State.endJob_kept {s : State} (hs : Kept b s) (j : SicJob) (o : SicOutcome) : Kept b (State.endJob s j o) := by
  unfold State.endJob
  repeat' first
    | with_reducible assumption
    | intro _
    | (extract_lets +onlyGivenNames x; refine (fun (hx : Kept b x) => ?_) ?_; (on_goal 1 => try clear_value x); (on_goal 2 => (dsimp only [x]; clear x)))
    | (extract_lets +onlyGivenNames x; first | clear_value x | (dsimp only [x]; clear x) | skip)
    | with_reducible apply State.bump_kept
    | with_reducible apply State.histDrop_kept
    | with_reducible apply State.fire_kept
    | with_reducible apply State.pushJobRec_kept
    | split
    | (simp -zeta only [Kept_mk]; refine ⟨Kept.tabs ?_, ?_, ?_⟩)
    | with_reducible refine Kept.epochs ?_
    | with_reducible refine Kept.svns ?_
    | dsimp -zeta only [id]

theorem State.jobReads_kept {s : State} (hs : Kept b s) (j : SicJob) : Kept b (State.jobReads s j) := by
  unfold State.jobReads
  repeat' first
    | with_reducible assumption
    | intro _
    | (extract_lets +onlyGivenNames x; refine (fun (hx : Kept b x) => ?_) ?_; (on_goal 1 => try clear_value x); (on_goal 2 => (dsimp only [x]; clear x)))
    | (extract_lets +onlyGivenNames x; refine (fun (hx : ∀ u, Kept b u → Kept b (x u)) => ?_) ?_; (on_goal 1 => try clear_value x); (on_goal 2 => (dsimp only [x]; clear x)))
    | (extract_lets +onlyGivenNames x; refine (fun (hx : ∀ u y0, Kept b u → Kept b (x u y0)) => ?_) ?_; (on_goal 1 => try clear_value x); (on_goal 2 => (dsimp only [x]; clear x)))
    | (extract_lets +onlyGivenNames x; refine (fun (hx : ∀ u y0 y1, Kept b u → Kept b (x u y0 y1)) => ?_) ?_; (on_goal 1 => try clear_value x); (on_goal 2 => (dsimp only [x]; clear x)))
    | (extract_lets +onlyGivenNames x; refine (fun (hx : ∀ u y0 y1 y2, Kept b u → Kept b (x u y0 y1 y2)) => ?_) ?_; (on_goal 1 => try clear_value x); (on_goal 2 => (dsimp only [x]; clear x)))
    | (extract_lets +onlyGivenNames x; refine (fun (hx : ∀ u, Kept b u → Kept b (x u).2) => ?_) ?_; (on_goal 1 => try clear_value x); (on_goal 2 => (dsimp only [x]; clear x)))
    | (extract_lets +onlyGivenNames x; refine (fun (hx : ∀ u y0, Kept b u → Kept b (x u y0).2) => ?_) ?_; (on_goal 1 => try clear_value x); (on_goal 2 => (dsimp only [x]; clear x)))
    | (extract_lets +onlyGivenNames x; refine (fun (hx : ∀ u y0 y1, Kept b u → Kept b (x u y0 y1).2) => ?_) ?_; (on_goal 1 => try clear_value x); (on_goal 2 => (dsimp only [x]; clear x)))
    | (extract_lets +onlyGivenNames x; refine (fun (hx : ∀ y, Kept b (x y)) => ?_) ?_; (on_goal 1 => try clear_value x); (on_goal 2 => (dsimp only [x]; clear x)))
    | (extract_lets +onlyGivenNames x; first | clear_value x | (dsimp only [x]; clear x) | skip)
    | with_reducible apply State.histRequest_kept
    | split
    | with_reducible apply_assumption
    | dsimp -zeta only [id]

theorem State.logReads_kept {s : State} (hs : Kept b s) (ft : Nat) (vol : Nat) : Kept b (State.logReads s ft vol) := by
  unfold State.logReads
  repeat' first
    | with_reducible assumption
    | intro _
    | (extract_lets +onlyGivenNames x; refine (fun (hx : Kept b x) => ?_) ?_; (on_goal 1 => try clear_value x); (on_goal 2 => (dsimp only [x]; clear x)))
    | (extract_lets +onlyGivenNames x; first | clear_value x | (dsimp only [x]; clear x) | skip)
    | split
    | (simp -zeta only [Kept_mk]; refine ⟨Kept.tabs ?_, ?_, ?_⟩)
    | with_reducible refine Kept.epochs ?_
    | with_reducible refine Kept.svns ?_
    | dsimp -zeta only [id]

theorem State.formJob_kept {s : State} (hs : Kept b s) (j : SicJob) (t : Time) : Kept b (State.formJob s j t) := by
  unfold State.formJob
  repeat' first
    | with_reducible assumption
    | intro _
    | (extract_lets +onlyGivenNames x; refine (fun (hx : Kept b x) => ?_) ?_; (on_goal 1 => try clear_value x); (on_goal 2 => (dsimp only [x]; clear x)))
    | (extract_lets +onlyGivenNames x; first | clear_value x | (dsimp only [x]; clear x) | skip)
    | with_reducible apply State.bump_kept
    | with_reducible apply State.putJob_kept
    | with_reducible apply State.endJob_kept
    | with_reducible apply State.logReads_kept
    | with_reducible apply State.jobReads_kept
    | split
    | (simp -zeta only [Kept_mk]; refine ⟨Kept.tabs ?_, ?_, ?_⟩)
    | with_reducible refine Kept.epochs ?_
    | with_reducible refine Kept.svns ?_
    | dsimp -zeta only [id]

theorem execSicJobStart_kept (t : Time) {s : State} (hs : Kept b s) : KeptOut b (execSicJobStart t s) := by
  unfold execSicJobStart
  repeat' first
    | with_reducible assumption
    | with_reducible refine KeptOut_next ?_
    | intro _
    | (extract_lets +onlyGivenNames x; refine (fun (hx : Kept b x) => ?_) ?_; (on_goal 1 => try clear_value x); (on_goal 2 => (dsimp only [x]; clear x)))
    | (extract_lets +onlyGivenNames x; first | clear_value x | (dsimp only [x]; clear x) | skip)
    | with_reducible apply State.at_kept
    | with_reducible apply State.bump_kept
    | with_reducible apply State.formJob_kept
    | split
    | (simp -zeta only [Kept_mk]; refine ⟨Kept.tabs ?_, ?_, ?_⟩)
    | with_reducible refine Kept.epochs ?_
    | with_reducible refine Kept.svns ?_
    | dsimp -zeta only [id]

theorem execSicJobResume_kept (t : Time) (id : Nat) {s : State} (hs : Kept b s) : KeptOut b (execSicJobResume t id s) := by
  unfold execSicJobResume
  repeat' first
    | with_reducible assumption
    | with_reducible refine KeptOut_next ?_
    | intro _
    | (extract_lets +onlyGivenNames x; refine (fun (hx : Kept b x) => ?_) ?_; (on_goal 1 => try clear_value x); (on_goal 2 => (dsimp only [x]; clear x)))
    | (extract_lets +onlyGivenNames x; first | clear_value x | (dsimp only [x]; clear x) | skip)
    | with_reducible apply State.at_kept
    | with_reducible apply State.formJob_kept
    | split
    | (simp -zeta only [Kept_mk]; refine ⟨Kept.tabs ?_, ?_, ?_⟩)
    | with_reducible refine Kept.epochs ?_
    | with_reducible refine Kept.svns ?_
    | dsimp -zeta only [id]

theorem State.sicDecode_kept {s : State} (hs : Kept b s) (j : SicJob) (m : Member) (p : Option PassDecode) : Kept b (State.sicDecode s j m p).2 := by
  unfold State.sicDecode
  repeat' first
    | with_reducible assumption
    | intro _
    | (extract_lets +onlyGivenNames x; refine (fun (hx : Kept b x) => ?_) ?_; (on_goal 1 => try clear_value x); (on_goal 2 => (dsimp only [x]; clear x)))
    | (extract_lets +onlyGivenNames x; refine (fun (hx : Kept b x.2) => ?_) ?_; (on_goal 1 => try clear_value x); (on_goal 2 => (dsimp only [x]; clear x)))
    | (extract_lets +onlyGivenNames x; refine (fun (hx : Kept b x.1) => ?_) ?_; (on_goal 1 => try clear_value x); (on_goal 2 => (dsimp only [x]; clear x)))
    | (extract_lets +onlyGivenNames x; first | clear_value x | (dsimp only [x]; clear x) | skip)
    | with_reducible apply State.cdcHeader_kept
    | with_reducible refine State.cdcHeader_kept' ?_ _ _ _ ‹_›
    | with_reducible apply State.cdcPayload_kept
    | with_reducible refine State.cdcPayload_kept' ?_ _ _ ‹_›
    | split
    | (simp -zeta only [Kept_mk]; refine ⟨Kept.tabs ?_, ?_, ?_⟩)
    | with_reducible refine Kept.epochs ?_
    | with_reducible refine Kept.svns ?_
    | dsimp -zeta only [id]

theorem State.sicDecode_kept' {s : State} (hs : Kept b s) (j : SicJob) (m : Member) (p : Option PassDecode) {r1 : _} {t1 : State} (e1 : State.sicDecode s j m p = (r1, t1)) : Kept b t1 := by
  have := State.sicDecode_kept (b := b) hs j m p
  rw [e1] at this
  exact this

theorem State.advanceJob_kept {s : State} (hs : Kept b s) (j : SicJob) : Kept b (State.advanceJob s j) := by
  unfold State.advanceJob
  repeat' first
    | with_reducible assumption
    | with_reducible apply State.putJob_kept
    | with_reducible apply State.endJob_kept
    | split
    | dsimp -zeta only [id]

theorem execSicPassComplete_kept (id : Nat) (dec : Option PassDecode) (hidden : List HiddenDet) {s : State} (hs : Kept b s) : KeptOut b (execSicPassComplete id dec hidden s) := by
  unfold execSicPassComplete
  repeat' first
    | with_reducible assumption
    | with_reducible refine KeptOut_next ?_
    | intro _
    | (extract_lets +onlyGivenNames x; refine (fun (hx : Kept b x) => ?_) ?_; (on_goal 1 => try clear_value x); (on_goal 2 => (dsimp only [x]; clear x)))
    | (extract_lets +onlyGivenNames x; refine (fun (hx : Kept b x.2) => ?_) ?_; (on_goal 1 => try clear_value x); (on_goal 2 => (dsimp only [x]; clear x)))
    | (extract_lets +onlyGivenNames x; refine (fun (hx : Kept b x.1) => ?_) ?_; (on_goal 1 => try clear_value x); (on_goal 2 => (dsimp only [x]; clear x)))
    | (extract_lets +onlyGivenNames x; first | clear_value x | (dsimp only [x]; clear x) | skip)
    | with_reducible apply State.endJob_kept
    | with_reducible apply State.bump_kept
    | with_reducible apply State.putJob_kept
    | with_reducible apply State.advanceJob_kept
    | with_reducible apply State.sicDecode_kept
    | with_reducible refine State.sicDecode_kept' ?_ _ _ _ ‹_›
    | with_reducible refine Kept_foldl ?_ ?_
    | with_reducible refine Kept_foldl2 ?_ ?_
    | with_reducible refine Kept_foldl1 ?_ ?_
    | split
    | (simp -zeta only [Kept_mk]; refine ⟨Kept.tabs ?_, ?_, ?_⟩)
    | with_reducible refine Kept.epochs ?_
    | with_reducible refine Kept.svns ?_
    | dsimp -zeta only [id]

theorem State.sicReadDone_kept {s : State} (hs : Kept b s) (r : HistRead) (o : HistOutcome) : Kept b (State.sicReadDone s r o) := by
  unfold State.sicReadDone
  repeat' first
    | with_reducible assumption
    | intro _
    | (extract_lets +onlyGivenNames x; refine (fun (hx : Kept b x) => ?_) ?_; (on_goal 1 => try clear_value x); (on_goal 2 => (dsimp only [x]; clear x)))
    | (extract_lets +onlyGivenNames x; first | clear_value x | (dsimp only [x]; clear x) | skip)
    | with_reducible apply State.histAgain_kept
    | with_reducible apply State.putJob_kept
    | with_reducible apply State.endJob_kept
    | split
    | (simp -zeta only [Kept_mk]; refine ⟨Kept.tabs ?_, ?_, ?_⟩)
    | with_reducible refine Kept.epochs ?_
    | with_reducible refine Kept.svns ?_
    | dsimp -zeta only [id]

theorem State.sicDrain_kept {s : State} (hs : Kept b s) : Kept b (State.sicDrain s) := by
  unfold State.sicDrain
  repeat' first
    | with_reducible assumption
    | intro _
    | with_reducible apply State.endJob_kept
    | with_reducible refine Kept_foldl ?_ ?_
    | with_reducible refine Kept_foldl2 ?_ ?_
    | with_reducible refine Kept_foldl1 ?_ ?_
    | dsimp -zeta only [id]

theorem State.sicBufferError_kept {s : State} (hs : Kept b s) (id : ℕ) : Kept b (State.sicBufferError s id) := by
  unfold State.sicBufferError
  repeat' first
    | with_reducible assumption
    | intro _
    | with_reducible apply State.reportNow_kept
    | with_reducible apply State.fire_kept
    | with_reducible apply State.endJob_kept
    | split
    | dsimp -zeta only [id]

theorem execRefEntryExpire_kept (t : Time) {s : State} (hs : Kept b s) : KeptOut b (execRefEntryExpire t s) := by
  unfold execRefEntryExpire
  repeat' first
    | with_reducible assumption
    | with_reducible refine KeptOut_next ?_
    | intro _
    | (extract_lets +onlyGivenNames x; refine (fun (hx : Kept b x) => ?_) ?_; (on_goal 1 => try clear_value x); (on_goal 2 => (dsimp only [x]; clear x)))
    | (extract_lets +onlyGivenNames x; first | clear_value x | (dsimp only [x]; clear x) | skip)
    | with_reducible apply State.at_kept
    | (simp -zeta only [Kept_mk]; refine ⟨Kept.tabs ?_, ?_, ?_⟩)
    | with_reducible refine Kept.epochs ?_
    | with_reducible refine Kept.svns ?_
    | dsimp -zeta only [id]

theorem execSicRqpop_kept (rq : Req) {s : State} (hs : Kept b s) : KeptOut b (execSicRqpop rq s) := by
  unfold execSicRqpop
  repeat' first
    | with_reducible assumption
    | with_reducible refine KeptOut_next ?_
    | intro _
    | (extract_lets +onlyGivenNames x; refine (fun (hx : Kept b x) => ?_) ?_; (on_goal 1 => try clear_value x); (on_goal 2 => (dsimp only [x]; clear x)))
    | (extract_lets +onlyGivenNames x; first | clear_value x | (dsimp only [x]; clear x) | skip)
    | with_reducible apply State.gated_kept
    | (simp -zeta only [Kept_mk]; refine ⟨Kept.tabs ?_, ?_, ?_⟩)
    | with_reducible refine Kept.epochs ?_
    | with_reducible refine Kept.svns ?_
    | dsimp -zeta only [id]

end Sys2Proof.Machine
end

