-- ==== Sys2Proof/Laws/KeptQmg.lean ====
section
/-! SUPPORT. What the operations of Machine/Qmg.lean keep: queue, canonical tables, fuses. -/

set_option linter.unusedTactic false
set_option linter.unreachableTactic false
set_option linter.unusedVariables false
set_option linter.tactic.unusedName false

namespace Sys2Proof.Machine

variable {b : Base}

/-! ### Qmg -/

theorem State.setQueue_kept {s : State} (hs : Kept b s) (qx : ℕ) (x : Queue) : Kept b (State.setQueue s qx x) := by
  unfold State.setQueue
  repeat' first
    | with_reducible assumption
    | (extract_lets +onlyGivenNames x; refine (fun (hx : Kept b x) => ?_) ?_; (on_goal 1 => try clear_value x); (on_goal 2 => (dsimp only [x]; clear x)))
    | (extract_lets +onlyGivenNames x; first | clear_value x | (dsimp only [x]; clear x) | skip)
    | (simp -zeta only [Kept_mk]; refine ⟨Kept.tabs ?_, ?_, ?_⟩)
    | with_reducible refine Kept.epochs ?_
    | with_reducible refine Kept.svns ?_
    | dsimp -zeta only [id]

theorem State.qmgSettle_kept {s : State} (hs : Kept b s) : Kept b (State.qmgSettle s) := by
  unfold State.qmgSettle
  repeat' first
    | with_reducible assumption
    | intro _
    | (extract_lets +onlyGivenNames x; refine (fun (hx : Kept b x) => ?_) ?_; (on_goal 1 => try clear_value x); (on_goal 2 => (dsimp only [x]; clear x)))
    | (extract_lets +onlyGivenNames x; first | clear_value x | (dsimp only [x]; clear x) | skip)
    | with_reducible apply State.fireIf_kept
    | with_reducible refine Kept_foldl ?_ ?_
    | with_reducible refine Kept_foldl2 ?_ ?_
    | with_reducible refine Kept_foldl1 ?_ ?_
    | split
    | (simp -zeta only [Kept_mk]; refine ⟨Kept.tabs ?_, ?_, ?_⟩)
    | with_reducible refine Kept.epochs ?_
    | with_reducible refine Kept.svns ?_
    | dsimp -zeta only [id]

theorem State.bankTurn_kept {s : State} (hs : Kept b s) (qx : Nat) : Kept b (State.bankTurn s qx) := by
  unfold State.bankTurn
  repeat' first
    | with_reducible assumption
    | intro _
    | (extract_lets +onlyGivenNames x; refine (fun (hx : Kept b x) => ?_) ?_; (on_goal 1 => try clear_value x); (on_goal 2 => (dsimp only [x]; clear x)))
    | (extract_lets +onlyGivenNames x; first | clear_value x | (dsimp only [x]; clear x) | skip)
    | split
    | (simp -zeta only [Kept_mk]; refine ⟨Kept.tabs ?_, ?_, ?_⟩)
    | with_reducible refine Kept.epochs ?_
    | with_reducible refine Kept.svns ?_
    | dsimp -zeta only [id]

theorem State.wmEval_kept {s : State} (hs : Kept b s) (qx : Nat) : Kept b (State.wmEval s qx) := by
  unfold State.wmEval
  repeat' first
    | with_reducible assumption
    | intro _
    | (extract_lets +onlyGivenNames x; refine (fun (hx : Kept b x) => ?_) ?_; (on_goal 1 => try clear_value x); (on_goal 2 => (dsimp only [x]; clear x)))
    | (extract_lets +onlyGivenNames x; first | clear_value x | (dsimp only [x]; clear x) | skip)
    | with_reducible apply State.setQueue_kept
    | with_reducible apply State.fireIf_kept
    | with_reducible apply State.bankTurn_kept
    | with_reducible apply State.qmgSettle_kept
    | split
    | (simp -zeta only [Kept_mk]; refine ⟨Kept.tabs ?_, ?_, ?_⟩)
    | with_reducible refine Kept.epochs ?_
    | with_reducible refine Kept.svns ?_
    | dsimp -zeta only [id]

theorem State.unqueue_kept {s : State} (hs : Kept b s) (start : ℕ) (p : Pkt) : Kept b (State.unqueue s start p) := by
  unfold State.unqueue
  repeat' first
    | with_reducible assumption
    | intro _
    | (extract_lets +onlyGivenNames x; refine (fun (hx : Kept b x) => ?_) ?_; (on_goal 1 => try clear_value x); (on_goal 2 => (dsimp only [x]; clear x)))
    | (extract_lets +onlyGivenNames x; refine (fun (hx : Kept b x.2) => ?_) ?_; (on_goal 1 => try clear_value x); (on_goal 2 => (dsimp only [x]; clear x)))
    | (extract_lets +onlyGivenNames x; refine (fun (hx : Kept b x.1) => ?_) ?_; (on_goal 1 => try clear_value x); (on_goal 2 => (dsimp only [x]; clear x)))
    | (extract_lets +onlyGivenNames x; first | clear_value x | (dsimp only [x]; clear x) | skip)
    | with_reducible apply State.wmEval_kept
    | with_reducible apply State.setQueue_kept
    | split
    | (simp -zeta only [Kept_mk]; refine ⟨Kept.tabs ?_, ?_, ?_⟩)
    | with_reducible refine Kept.epochs ?_
    | with_reducible refine Kept.svns ?_
    | dsimp -zeta only [id]

theorem State.endPkt_kept {s : State} (hs : Kept b s) (start : ℕ) (e : PktEnd) : Kept b (State.endPkt s start e) := by
  unfold State.endPkt
  repeat' first
    | with_reducible assumption
    | (extract_lets +onlyGivenNames x; refine (fun (hx : Kept b x) => ?_) ?_; (on_goal 1 => try clear_value x); (on_goal 2 => (dsimp only [x]; clear x)))
    | (extract_lets +onlyGivenNames x; first | clear_value x | (dsimp only [x]; clear x) | skip)
    | with_reducible apply State.unqueue_kept
    | with_reducible apply State.bump_kept
    | with_reducible apply State.fireIf_kept
    | with_reducible apply State.qmgSettle_kept
    | split
    | (simp -zeta only [Kept_mk]; refine ⟨Kept.tabs ?_, ?_, ?_⟩)
    | with_reducible refine Kept.epochs ?_
    | with_reducible refine Kept.svns ?_
    | dsimp -zeta only [id]

theorem State.acceptPkt_kept {s : State} (hs : Kept b s) (k : Nat) (n : Nat) (data : List Octet) (hx0 : Holder) (info : PktInfo) : Kept b (State.acceptPkt s k n data hx0 info).2 := by
  unfold State.acceptPkt
  repeat' first
    | with_reducible assumption
    | intro _
    | (extract_lets +onlyGivenNames x; refine (fun (hx : Kept b x) => ?_) ?_; (on_goal 1 => try clear_value x); (on_goal 2 => (dsimp only [x]; clear x)))
    | (extract_lets +onlyGivenNames x; first | clear_value x | (dsimp only [x]; clear x) | skip)
    | with_reducible apply State.commitAt_kept
    | with_reducible apply State.bump_kept
    | with_reducible apply State.qmgSettle_kept
    | with_reducible apply State.fireIf_kept
    | split
    | (simp -zeta only [Kept_mk]; refine ⟨Kept.tabs ?_, ?_, ?_⟩)
    | with_reducible refine Kept.epochs ?_
    | with_reducible refine Kept.svns ?_
    | dsimp -zeta only [id]

theorem State.acceptPkt_kept' {s : State} (hs : Kept b s) (k : Nat) (n : Nat) (data : List Octet) (hx0 : Holder) (info : PktInfo) {r1 : _} {t1 : State} (e1 : State.acceptPkt s k n data hx0 info = (r1, t1)) : Kept b t1 := by
  have := State.acceptPkt_kept (b := b) hs k n data hx0 info
  rw [e1] at this
  exact this

theorem State.updPkt_kept {s : State} (hs : Kept b s) (start : ℕ) (f : Pkt → Pkt) : Kept b (State.updPkt s start f) := by
  unfold State.updPkt
  repeat' first
    | with_reducible assumption
    | intro _
    | (extract_lets +onlyGivenNames x; refine (fun (hx : Kept b x) => ?_) ?_; (on_goal 1 => try clear_value x); (on_goal 2 => (dsimp only [x]; clear x)))
    | (extract_lets +onlyGivenNames x; refine (fun (hx : b.svn ≤ (x : Upd).fuses) => ?_) ?_; (on_goal 1 => try clear_value x); (on_goal 2 => (dsimp only [x]; clear x)))
    | (extract_lets +onlyGivenNames x; first | clear_value x | (dsimp only [x]; clear x) | skip)
    | (simp -zeta only [Kept_mk]; refine ⟨Kept.tabs ?_, ?_, ?_⟩)
    | with_reducible refine Kept.epochs ?_
    | with_reducible refine Kept.svns ?_
    | dsimp -zeta only [id]

theorem State.outOfQueue_kept {s : State} (hs : Kept b s) (start : Nat) : Kept b (State.outOfQueue s start) := by
  unfold State.outOfQueue
  repeat' first
    | with_reducible assumption
    | intro _
    | (extract_lets +onlyGivenNames x; refine (fun (hx : Kept b x) => ?_) ?_; (on_goal 1 => try clear_value x); (on_goal 2 => (dsimp only [x]; clear x)))
    | (extract_lets +onlyGivenNames x; first | clear_value x | (dsimp only [x]; clear x) | skip)
    | with_reducible apply State.unqueue_kept
    | split
    | (simp -zeta only [Kept_mk]; refine ⟨Kept.tabs ?_, ?_, ?_⟩)
    | with_reducible refine Kept.epochs ?_
    | with_reducible refine Kept.svns ?_
    | dsimp -zeta only [id]

theorem State.flagUnderrun_kept {s : State} (hs : Kept b s) (qx : ℕ) : Kept b (State.flagUnderrun s qx) := by
  unfold State.flagUnderrun
  repeat' first
    | with_reducible assumption
    | (extract_lets +onlyGivenNames x; refine (fun (hx : Kept b x) => ?_) ?_; (on_goal 1 => try clear_value x); (on_goal 2 => (dsimp only [x]; clear x)))
    | (extract_lets +onlyGivenNames x; first | clear_value x | (dsimp only [x]; clear x) | skip)
    | with_reducible apply State.setFlag_kept
    | with_reducible apply State.setQueue_kept
    | split
    | (simp -zeta only [Kept_mk]; refine ⟨Kept.tabs ?_, ?_, ?_⟩)
    | with_reducible refine Kept.epochs ?_
    | with_reducible refine Kept.svns ?_
    | dsimp -zeta only [id]

theorem State.flagOvf_kept {s : State} (hs : Kept b s) (qx : ℕ) : Kept b (State.flagOvf s qx) := by
  unfold State.flagOvf
  repeat' first
    | with_reducible assumption
    | (extract_lets +onlyGivenNames x; refine (fun (hx : Kept b x) => ?_) ?_; (on_goal 1 => try clear_value x); (on_goal 2 => (dsimp only [x]; clear x)))
    | (extract_lets +onlyGivenNames x; first | clear_value x | (dsimp only [x]; clear x) | skip)
    | with_reducible apply State.setFlag_kept
    | with_reducible apply State.setQueue_kept
    | split
    | (simp -zeta only [Kept_mk]; refine ⟨Kept.tabs ?_, ?_, ?_⟩)
    | with_reducible refine Kept.epochs ?_
    | with_reducible refine Kept.svns ?_
    | dsimp -zeta only [id]

theorem State.ageHead_kept {s : State} (hs : Kept b s) (qx : ℕ) (x2 : ℕ) : Kept b (State.ageHead s qx x2) := by
  induction x2 generalizing s qx with
  | zero =>
    rw [State.ageHead]
    exact hs
  | succ k ih =>
    rw [State.ageHead]
    repeat' first
      | with_reducible assumption
      | (extract_lets +onlyGivenNames x; refine (fun (hx : Kept b x) => ?_) ?_; (on_goal 1 => try clear_value x); (on_goal 2 => (dsimp only [x]; clear x)))
      | (extract_lets +onlyGivenNames x; refine (fun (hx : Kept b x.2) => ?_) ?_; (on_goal 1 => try clear_value x); (on_goal 2 => (dsimp only [x]; clear x)))
      | (extract_lets +onlyGivenNames x; refine (fun (hx : Kept b x.1) => ?_) ?_; (on_goal 1 => try clear_value x); (on_goal 2 => (dsimp only [x]; clear x)))
      | (extract_lets +onlyGivenNames x; first | clear_value x | (dsimp only [x]; clear x) | skip)
      | with_reducible apply State.fire_kept
      | with_reducible apply State.at_kept
      | with_reducible apply State.endPkt_kept
      | split
      | dsimp -zeta only [id]
      | with_reducible apply ih

theorem State.ageNow_kept {s : State} (hs : Kept b s) (qx : ℕ) : Kept b (State.ageNow s qx) := by
  unfold State.ageNow
  repeat' first
    | with_reducible assumption
    | with_reducible apply State.ageHead_kept
    | dsimp -zeta only [id]

theorem State.refusePush_kept {s : State} (hs : Kept b s) (qx : ℕ) : Kept b (State.refusePush s qx) := by
  unfold State.refusePush
  repeat' first
    | with_reducible assumption
    | with_reducible apply State.fire_kept
    | with_reducible apply State.bump_kept
    | with_reducible apply State.flagOvf_kept
    | dsimp -zeta only [id]

theorem State.placePkt_kept {s : State} (hs : Kept b s) (qx : ℕ) (start : ℕ) : Kept b (State.placePkt s qx start).2 := by
  unfold State.placePkt
  repeat' first
    | with_reducible assumption
    | intro _
    | (extract_lets +onlyGivenNames x; refine (fun (hx : Kept b x) => ?_) ?_; (on_goal 1 => try clear_value x); (on_goal 2 => (dsimp only [x]; clear x)))
    | (extract_lets +onlyGivenNames x; refine (fun (hx : Kept b x.2) => ?_) ?_; (on_goal 1 => try clear_value x); (on_goal 2 => (dsimp only [x]; clear x)))
    | (extract_lets +onlyGivenNames x; refine (fun (hx : Kept b x.1) => ?_) ?_; (on_goal 1 => try clear_value x); (on_goal 2 => (dsimp only [x]; clear x)))
    | (extract_lets +onlyGivenNames x; refine (fun (hx : b.svn ≤ (x : Upd).fuses) => ?_) ?_; (on_goal 1 => try clear_value x); (on_goal 2 => (dsimp only [x]; clear x)))
    | (extract_lets +onlyGivenNames x; first | clear_value x | (dsimp only [x]; clear x) | skip)
    | with_reducible apply State.refusePush_kept
    | with_reducible apply State.setQueue_kept
    | with_reducible apply State.updPkt_kept
    | with_reducible apply State.fireIf_kept
    | with_reducible apply State.wmEval_kept
    | with_reducible apply State.ageNow_kept
    | split
    | (simp -zeta only [Kept_mk]; refine ⟨Kept.tabs ?_, ?_, ?_⟩)
    | with_reducible refine Kept.epochs ?_
    | with_reducible refine Kept.svns ?_
    | dsimp -zeta only [id]

theorem State.placePkt_kept' {s : State} (hs : Kept b s) (qx : ℕ) (start : ℕ) {r1 : _} {t1 : State} (e1 : State.placePkt s qx start = (r1, t1)) : Kept b t1 := by
  have := State.placePkt_kept (b := b) hs qx start
  rw [e1] at this
  exact this

theorem State.serveWaits_kept {s : State} (hs : Kept b s) (qx : ℕ) (x2 : ℕ) : Kept b (State.serveWaits s qx x2) := by
  induction x2 generalizing s qx with
  | zero =>
    rw [State.serveWaits]
    exact hs
  | succ k ih =>
    rw [State.serveWaits]
    repeat' first
      | with_reducible assumption
      | (extract_lets +onlyGivenNames x; refine (fun (hx : Kept b x) => ?_) ?_; (on_goal 1 => try clear_value x); (on_goal 2 => (dsimp only [x]; clear x)))
      | (extract_lets +onlyGivenNames x; refine (fun (hx : Kept b x.2) => ?_) ?_; (on_goal 1 => try clear_value x); (on_goal 2 => (dsimp only [x]; clear x)))
      | (extract_lets +onlyGivenNames x; refine (fun (hx : Kept b x.1) => ?_) ?_; (on_goal 1 => try clear_value x); (on_goal 2 => (dsimp only [x]; clear x)))
      | (extract_lets +onlyGivenNames x; first | clear_value x | (dsimp only [x]; clear x) | skip)
      | with_reducible apply State.at_kept
      | with_reducible apply State.setQueue_kept
      | with_reducible apply State.endPkt_kept
      | with_reducible apply State.placePkt_kept
      | with_reducible refine State.placePkt_kept' ?_ _ _ ‹_›
      | split
      | (simp -zeta only [Kept_mk]; refine ⟨Kept.tabs ?_, ?_, ?_⟩)
      | with_reducible refine Kept.epochs ?_
      | with_reducible refine Kept.svns ?_
      | dsimp -zeta only [id]
      | with_reducible apply ih

theorem State.pushPkt_kept {s : State} (hs : Kept b s) (qx : ℕ) (hx : Holder) (start : ℕ) : Kept b (State.pushPkt s qx hx start) := by
  unfold State.pushPkt
  repeat' first
    | with_reducible assumption
    | (extract_lets +onlyGivenNames x; refine (fun (hx : Kept b x) => ?_) ?_; (on_goal 1 => try clear_value x); (on_goal 2 => (dsimp only [x]; clear x)))
    | (extract_lets +onlyGivenNames x; refine (fun (hx : Kept b x.2) => ?_) ?_; (on_goal 1 => try clear_value x); (on_goal 2 => (dsimp only [x]; clear x)))
    | (extract_lets +onlyGivenNames x; refine (fun (hx : Kept b x.1) => ?_) ?_; (on_goal 1 => try clear_value x); (on_goal 2 => (dsimp only [x]; clear x)))
    | (extract_lets +onlyGivenNames x; first | clear_value x | (dsimp only [x]; clear x) | skip)
    | with_reducible apply State.setQueue_kept
    | with_reducible apply State.placePkt_kept
    | with_reducible refine State.placePkt_kept' ?_ _ _ ‹_›
    | with_reducible apply State.endPkt_kept
    | split
    | (simp -zeta only [Kept_mk]; refine ⟨Kept.tabs ?_, ?_, ?_⟩)
    | with_reducible refine Kept.epochs ?_
    | with_reducible refine Kept.svns ?_
    | dsimp -zeta only [id]

theorem State.placeCell_kept {s : State} (hs : Kept b s) (qx : ℕ) (cell : ℕ) (was : Bool) : Kept b (State.placeCell s qx cell was) := by
  unfold State.placeCell
  repeat' first
    | with_reducible assumption
    | (extract_lets +onlyGivenNames x; refine (fun (hx : Kept b x) => ?_) ?_; (on_goal 1 => try clear_value x); (on_goal 2 => (dsimp only [x]; clear x)))
    | (extract_lets +onlyGivenNames x; first | clear_value x | (dsimp only [x]; clear x) | skip)
    | with_reducible apply State.wmEval_kept
    | with_reducible apply State.setQueue_kept
    | with_reducible apply State.fireIf_kept
    | with_reducible apply State.ageNow_kept
    | split
    | (simp -zeta only [Kept_mk]; refine ⟨Kept.tabs ?_, ?_, ?_⟩)
    | with_reducible refine Kept.epochs ?_
    | with_reducible refine Kept.svns ?_
    | dsimp -zeta only [id]

theorem State.pushCell_kept {s : State} (hs : Kept b s) (qx : Nat) (hx0 : Holder) (cell : Nat) (was : Bool) : Kept b (State.pushCell s qx hx0 cell was).2 := by
  unfold State.pushCell
  repeat' first
    | with_reducible assumption
    | intro _
    | (extract_lets +onlyGivenNames x; refine (fun (hx : Kept b x) => ?_) ?_; (on_goal 1 => try clear_value x); (on_goal 2 => (dsimp only [x]; clear x)))
    | (extract_lets +onlyGivenNames x; first | clear_value x | (dsimp only [x]; clear x) | skip)
    | with_reducible apply State.setQueue_kept
    | with_reducible apply State.serveWaits_kept
    | with_reducible apply State.bump_kept
    | with_reducible apply State.placeCell_kept
    | with_reducible apply State.updPkt_kept
    | with_reducible apply State.refusePush_kept
    | with_reducible refine Kept_elim (fun _ => ?_) ?_
    | split
    | (simp -zeta only [Kept_mk]; refine ⟨Kept.tabs ?_, ?_, ?_⟩)
    | with_reducible refine Kept.epochs ?_
    | with_reducible refine Kept.svns ?_
    | dsimp -zeta only [id]

theorem State.pushCell_kept' {s : State} (hs : Kept b s) (qx : Nat) (hx0 : Holder) (cell : Nat) (was : Bool) {r1 : _} {t1 : State} (e1 : State.pushCell s qx hx0 cell was = (r1, t1)) : Kept b t1 := by
  have := State.pushCell_kept (b := b) hs qx hx0 cell was
  rw [e1] at this
  exact this

theorem State.popCore_kept {s : State} (hs : Kept b s) (qx : ℕ) (hx : Holder) : Kept b (State.popCore s qx hx) := by
  unfold State.popCore
  repeat' first
    | with_reducible assumption
    | intro _
    | (extract_lets +onlyGivenNames x; refine (fun (hx : Kept b x) => ?_) ?_; (on_goal 1 => try clear_value x); (on_goal 2 => (dsimp only [x]; clear x)))
    | (extract_lets +onlyGivenNames x; refine (fun (hx : Kept b x.2) => ?_) ?_; (on_goal 1 => try clear_value x); (on_goal 2 => (dsimp only [x]; clear x)))
    | (extract_lets +onlyGivenNames x; refine (fun (hx : Kept b x.1) => ?_) ?_; (on_goal 1 => try clear_value x); (on_goal 2 => (dsimp only [x]; clear x)))
    | (extract_lets +onlyGivenNames x; refine (fun (hx : b.svn ≤ (x : Upd).fuses) => ?_) ?_; (on_goal 1 => try clear_value x); (on_goal 2 => (dsimp only [x]; clear x)))
    | (extract_lets +onlyGivenNames x; first | clear_value x | (dsimp only [x]; clear x) | skip)
    | with_reducible apply State.fire_kept
    | with_reducible apply State.bump_kept
    | with_reducible apply State.flagUnderrun_kept
    | with_reducible apply State.setQueue_kept
    | with_reducible apply State.updPkt_kept
    | with_reducible apply State.setFlag_kept
    | with_reducible apply State.setFld_kept
    | with_reducible refine Kept_elim (fun _ => ?_) ?_
    | split
    | (simp -zeta only [Kept_mk]; refine ⟨Kept.tabs ?_, ?_, ?_⟩)
    | with_reducible refine Kept.epochs ?_
    | with_reducible refine Kept.svns ?_
    | dsimp -zeta only [id]

theorem State.popCell_kept {s : State} (hs : Kept b s) (qx : ℕ) (hx : Holder) : Kept b (State.popCell s qx hx) := by
  unfold State.popCell
  repeat' first
    | with_reducible assumption
    | with_reducible apply State.ageNow_kept
    | with_reducible apply State.wmEval_kept
    | with_reducible apply State.popCore_kept
    | dsimp -zeta only [id]

theorem State.cyclePush_kept {s : State} (hs : Kept b s) (qx : Nat) (hx0 : Holder) (cell : Nat) (pop : Option Holder) : Kept b (State.cyclePush s qx hx0 cell pop).2 := by
  unfold State.cyclePush
  repeat' first
    | with_reducible assumption
    | intro _
    | (extract_lets +onlyGivenNames x; refine (fun (hx : Kept b x) => ?_) ?_; (on_goal 1 => try clear_value x); (on_goal 2 => (dsimp only [x]; clear x)))
    | (extract_lets +onlyGivenNames x; refine (fun (hx : Kept b x.2) => ?_) ?_; (on_goal 1 => try clear_value x); (on_goal 2 => (dsimp only [x]; clear x)))
    | (extract_lets +onlyGivenNames x; refine (fun (hx : Kept b x.1) => ?_) ?_; (on_goal 1 => try clear_value x); (on_goal 2 => (dsimp only [x]; clear x)))
    | (extract_lets +onlyGivenNames x; first | clear_value x | (dsimp only [x]; clear x) | skip)
    | with_reducible apply State.pushCell_kept
    | with_reducible refine State.pushCell_kept' ?_ _ _ _ _ ‹_›
    | with_reducible apply State.popCore_kept
    | with_reducible apply State.wmEval_kept
    | with_reducible apply State.ageNow_kept
    | split
    | (simp -zeta only [Kept_mk]; refine ⟨Kept.tabs ?_, ?_, ?_⟩)
    | with_reducible refine Kept.epochs ?_
    | with_reducible refine Kept.svns ?_
    | dsimp -zeta only [id]

theorem State.cyclePush_kept' {s : State} (hs : Kept b s) (qx : Nat) (hx0 : Holder) (cell : Nat) (pop : Option Holder) {r1 : _} {t1 : State} (e1 : State.cyclePush s qx hx0 cell pop = (r1, t1)) : Kept b t1 := by
  have := State.cyclePush_kept (b := b) hs qx hx0 cell pop
  rw [e1] at this
  exact this

theorem State.takePkt_kept {s : State} (hs : Kept b s) (qx : ℕ) (hx : Holder) : Kept b (State.takePkt s qx hx).2 := by
  unfold State.takePkt
  repeat' first
    | with_reducible assumption
    | intro _
    | (extract_lets +onlyGivenNames x; refine (fun (hx : Kept b x) => ?_) ?_; (on_goal 1 => try clear_value x); (on_goal 2 => (dsimp only [x]; clear x)))
    | (extract_lets +onlyGivenNames x; refine (fun (hx : b.svn ≤ (x : Upd).fuses) => ?_) ?_; (on_goal 1 => try clear_value x); (on_goal 2 => (dsimp only [x]; clear x)))
    | (extract_lets +onlyGivenNames x; first | clear_value x | (dsimp only [x]; clear x) | skip)
    | with_reducible apply State.setQueue_kept
    | with_reducible apply State.updPkt_kept
    | with_reducible apply State.ageNow_kept
    | with_reducible apply State.wmEval_kept
    | split
    | (simp -zeta only [Kept_mk]; refine ⟨Kept.tabs ?_, ?_, ?_⟩)
    | with_reducible refine Kept.epochs ?_
    | with_reducible refine Kept.svns ?_
    | dsimp -zeta only [id]

theorem State.takePkt_kept' {s : State} (hs : Kept b s) (qx : ℕ) (hx : Holder) {r1 : _} {t1 : State} (e1 : State.takePkt s qx hx = (r1, t1)) : Kept b t1 := by
  have := State.takePkt_kept (b := b) hs qx hx
  rw [e1] at this
  exact this

theorem State.flushQueue_kept {s : State} (hs : Kept b s) (qx : ℕ) (r : ℕ) : Kept b (State.flushQueue s qx r) := by
  unfold State.flushQueue
  repeat' first
    | with_reducible assumption
    | intro _
    | (extract_lets +onlyGivenNames x; refine (fun (hx : Kept b x) => ?_) ?_; (on_goal 1 => try clear_value x); (on_goal 2 => (dsimp only [x]; clear x)))
    | (extract_lets +onlyGivenNames x; first | clear_value x | (dsimp only [x]; clear x) | skip)
    | with_reducible apply State.endPkt_kept
    | with_reducible apply State.wmEval_kept
    | with_reducible apply State.setQueue_kept
    | with_reducible refine Kept_foldl ?_ ?_
    | with_reducible refine Kept_foldl2 ?_ ?_
    | with_reducible refine Kept_foldl1 ?_ ?_
    | with_reducible refine Kept_elim (fun _ => ?_) ?_
    | (simp -zeta only [Kept_mk]; refine ⟨Kept.tabs ?_, ?_, ?_⟩)
    | with_reducible refine Kept.epochs ?_
    | with_reducible refine Kept.svns ?_
    | dsimp -zeta only [id]

theorem State.qcmdDone_kept {s : State} (hs : Kept b s) (e : ℕ) : Kept b (State.qcmdDone s e) := by
  unfold State.qcmdDone
  repeat' first
    | with_reducible assumption
    | (extract_lets +onlyGivenNames x; refine (fun (hx : Kept b x) => ?_) ?_; (on_goal 1 => try clear_value x); (on_goal 2 => (dsimp only [x]; clear x)))
    | (extract_lets +onlyGivenNames x; first | clear_value x | (dsimp only [x]; clear x) | skip)
    | with_reducible apply State.fire_kept
    | with_reducible apply State.setFld_kept
    | (simp -zeta only [Kept_mk]; refine ⟨Kept.tabs ?_, ?_, ?_⟩)
    | with_reducible refine Kept.epochs ?_
    | with_reducible refine Kept.svns ?_
    | dsimp -zeta only [id]

theorem State.qcmd_kept {s : State} (hs : Kept b s) (rq : Req) (qx : ℕ) (op : ℕ) {act : State → State} (hact : ∀ u, Kept b u → Kept b (act u)) : Kept b (State.qcmd s rq qx op act) := by
  unfold State.qcmd
  repeat' first
    | with_reducible assumption
    | intro _
    | with_reducible apply State.gated_kept
    | with_reducible apply State.qcmdDone_kept
    | with_reducible apply hact
    | split
    | dsimp -zeta only [id]

theorem execQcmdRead_kept (rq : Req) (qx : ℕ) {s : State} (hs : Kept b s) : KeptOut b (execQcmdRead rq qx s) := by
  unfold execQcmdRead
  repeat' first
    | with_reducible assumption
    | with_reducible refine KeptOut_next ?_
    | intro _
    | with_reducible apply State.qcmd_kept
    | with_reducible apply State.qcmdDone_kept
    | with_reducible apply State.setRegs_kept
    | with_reducible apply State.setReg_kept
    | dsimp -zeta only [id]

theorem execQcmdWrite_kept (rq : Req) (qx : ℕ) {s : State} (hs : Kept b s) : KeptOut b (execQcmdWrite rq qx s) := by
  unfold execQcmdWrite
  repeat' first
    | with_reducible assumption
    | with_reducible refine KeptOut_next ?_
    | intro _
    | (extract_lets +onlyGivenNames x; refine (fun (hx : Kept b x) => ?_) ?_; (on_goal 1 => try clear_value x); (on_goal 2 => (dsimp only [x]; clear x)))
    | (extract_lets +onlyGivenNames x; first | clear_value x | (dsimp only [x]; clear x) | skip)
    | with_reducible apply State.qcmd_kept
    | with_reducible apply State.qcmdDone_kept
    | with_reducible apply State.setQueue_kept
    | with_reducible apply State.setFlag_kept
    | with_reducible apply State.wmEval_kept
    | split
    | (simp -zeta only [Kept_mk]; refine ⟨Kept.tabs ?_, ?_, ?_⟩)
    | with_reducible refine Kept.epochs ?_
    | with_reducible refine Kept.svns ?_
    | dsimp -zeta only [id]

theorem execQcmdFlush_kept (rq : Req) (qx : ℕ) {s : State} (hs : Kept b s) : KeptOut b (execQcmdFlush rq qx s) := by
  unfold execQcmdFlush
  repeat' first
    | with_reducible assumption
    | with_reducible refine KeptOut_next ?_
    | intro _
    | with_reducible apply State.qcmd_kept
    | with_reducible apply State.qcmdDone_kept
    | with_reducible apply State.flushQueue_kept
    | dsimp -zeta only [id]

theorem execQcmdDroprest_kept (rq : Req) (qx : ℕ) {s : State} (hs : Kept b s) : KeptOut b (execQcmdDroprest rq qx s) := by
  unfold execQcmdDroprest
  repeat' first
    | with_reducible assumption
    | with_reducible refine KeptOut_next ?_
    | intro _
    | (extract_lets +onlyGivenNames x; refine (fun (hx : Kept b x) => ?_) ?_; (on_goal 1 => try clear_value x); (on_goal 2 => (dsimp only [x]; clear x)))
    | (extract_lets +onlyGivenNames x; refine (fun (hx : Kept b x.2) => ?_) ?_; (on_goal 1 => try clear_value x); (on_goal 2 => (dsimp only [x]; clear x)))
    | (extract_lets +onlyGivenNames x; refine (fun (hx : Kept b x.1) => ?_) ?_; (on_goal 1 => try clear_value x); (on_goal 2 => (dsimp only [x]; clear x)))
    | (extract_lets +onlyGivenNames x; first | clear_value x | (dsimp only [x]; clear x) | skip)
    | with_reducible apply State.qcmd_kept
    | with_reducible apply State.qcmdDone_kept
    | with_reducible apply State.ageNow_kept
    | with_reducible apply State.endPkt_kept
    | split
    | dsimp -zeta only [id]

theorem execQcmdClass_kept (rq : Req) (qx : Nat) {s : State} (hs : Kept b s) : KeptOut b (execQcmdClass rq qx s) := by
  unfold execQcmdClass
  repeat' first
    | with_reducible assumption
    | with_reducible refine KeptOut_next ?_
    | intro _
    | (extract_lets +onlyGivenNames x; refine (fun (hx : Kept b x) => ?_) ?_; (on_goal 1 => try clear_value x); (on_goal 2 => (dsimp only [x]; clear x)))
    | (extract_lets +onlyGivenNames x; first | clear_value x | (dsimp only [x]; clear x) | skip)
    | with_reducible apply State.qcmd_kept
    | with_reducible apply State.setQueue_kept
    | with_reducible apply State.qmgSettle_kept
    | with_reducible apply State.qcmdDone_kept
    | split
    | (simp -zeta only [Kept_mk]; refine ⟨Kept.tabs ?_, ?_, ?_⟩)
    | with_reducible refine Kept.epochs ?_
    | with_reducible refine Kept.svns ?_
    | dsimp -zeta only [id]

theorem execQmgAdmit_kept (k : Nat) (n : Nat) (data : List Octet) (unit : Nat) (port : Nat) {s : State} (hs : Kept b s) : KeptOut b (execQmgAdmit k n data unit port s) := by
  unfold execQmgAdmit
  repeat' first
    | with_reducible assumption
    | with_reducible refine KeptOut_next ?_
    | intro _
    | (extract_lets +onlyGivenNames x; refine (fun (hx : Kept b x) => ?_) ?_; (on_goal 1 => try clear_value x); (on_goal 2 => (dsimp only [x]; clear x)))
    | (extract_lets +onlyGivenNames x; refine (fun (hx : Kept b x.2) => ?_) ?_; (on_goal 1 => try clear_value x); (on_goal 2 => (dsimp only [x]; clear x)))
    | (extract_lets +onlyGivenNames x; refine (fun (hx : Kept b x.1) => ?_) ?_; (on_goal 1 => try clear_value x); (on_goal 2 => (dsimp only [x]; clear x)))
    | (extract_lets +onlyGivenNames x; first | clear_value x | (dsimp only [x]; clear x) | skip)
    | with_reducible apply State.acceptPkt_kept
    | with_reducible refine State.acceptPkt_kept' ?_ _ _ _ _ _ ‹_›
    | with_reducible apply State.bump_kept
    | split
    | (simp -zeta only [Kept_mk]; refine ⟨Kept.tabs ?_, ?_, ?_⟩)
    | with_reducible refine Kept.epochs ?_
    | with_reducible refine Kept.svns ?_
    | dsimp -zeta only [id]

theorem State.pushBy_kept {s : State} (hs : Kept b s) (qx : ℕ) (hx : Holder) (cell : ℕ) (pop : Option Holder) : Kept b (State.pushBy s qx hx cell pop) := by
  unfold State.pushBy
  repeat' first
    | with_reducible assumption
    | intro _
    | (extract_lets +onlyGivenNames x; refine (fun (hx : Kept b x) => ?_) ?_; (on_goal 1 => try clear_value x); (on_goal 2 => (dsimp only [x]; clear x)))
    | (extract_lets +onlyGivenNames x; refine (fun (hx : Kept b x.2) => ?_) ?_; (on_goal 1 => try clear_value x); (on_goal 2 => (dsimp only [x]; clear x)))
    | (extract_lets +onlyGivenNames x; refine (fun (hx : Kept b x.1) => ?_) ?_; (on_goal 1 => try clear_value x); (on_goal 2 => (dsimp only [x]; clear x)))
    | (extract_lets +onlyGivenNames x; first | clear_value x | (dsimp only [x]; clear x) | skip)
    | with_reducible apply State.popCell_kept
    | with_reducible apply State.setQueue_kept
    | with_reducible apply State.cyclePush_kept
    | with_reducible refine State.cyclePush_kept' ?_ _ _ _ _ ‹_›
    | with_reducible apply State.endPkt_kept
    | with_reducible apply State.setFlag_kept
    | split
    | (simp -zeta only [Kept_mk]; refine ⟨Kept.tabs ?_, ?_, ?_⟩)
    | with_reducible refine Kept.epochs ?_
    | with_reducible refine Kept.svns ?_
    | dsimp -zeta only [id]

theorem execQueuePush_kept (qx : ℕ) (hx : Holder) (cell : ℕ) (pop : Option Holder) {s : State} (hs : Kept b s) : KeptOut b (execQueuePush qx hx cell pop s) := by
  unfold execQueuePush
  repeat' first
    | with_reducible assumption
    | with_reducible refine KeptOut_next ?_
    | with_reducible apply State.pushBy_kept
    | dsimp -zeta only [id]

theorem execQueuePop_kept (qx : ℕ) (hx : Holder) {s : State} (hs : Kept b s) : KeptOut b (execQueuePop qx hx s) := by
  unfold execQueuePop
  repeat' first
    | with_reducible assumption
    | with_reducible refine KeptOut_next ?_
    | with_reducible apply State.popCell_kept
    | dsimp -zeta only [id]

theorem execSwqPush_kept (rq : Req) (n : ℕ) (cell : ℕ) (pop : Option Initiator) {s : State} (hs : Kept b s) : KeptOut b (execSwqPush rq n cell pop s) := by
  unfold execSwqPush
  repeat' first
    | with_reducible assumption
    | with_reducible refine KeptOut_next ?_
    | intro _
    | (extract_lets +onlyGivenNames x; refine (fun (hx : Kept b x) => ?_) ?_; (on_goal 1 => try clear_value x); (on_goal 2 => (dsimp only [x]; clear x)))
    | (extract_lets +onlyGivenNames x; first | clear_value x | (dsimp only [x]; clear x) | skip)
    | with_reducible apply State.gated_kept
    | with_reducible apply State.pushBy_kept
    | (simp -zeta only [Kept_mk]; refine ⟨Kept.tabs ?_, ?_, ?_⟩)
    | with_reducible refine Kept.epochs ?_
    | with_reducible refine Kept.svns ?_
    | dsimp -zeta only [id]

theorem execSwqPop_kept (rq : Req) (n : ℕ) {s : State} (hs : Kept b s) : KeptOut b (execSwqPop rq n s) := by
  unfold execSwqPop
  repeat' first
    | with_reducible assumption
    | with_reducible refine KeptOut_next ?_
    | intro _
    | with_reducible apply State.gated_kept
    | with_reducible apply State.popCell_kept
    | dsimp -zeta only [id]

theorem execAgeCheckTick_kept (t : Time) (qx : ℕ) {s : State} (hs : Kept b s) : KeptOut b (execAgeCheckTick t qx s) := by
  unfold execAgeCheckTick
  repeat' first
    | with_reducible assumption
    | with_reducible refine KeptOut_next ?_
    | with_reducible apply State.ageNow_kept
    | with_reducible apply State.at_kept
    | dsimp -zeta only [id]

theorem State.pktDone_kept {s : State} (hs : Kept b s) (priv : Bool) (e : ℕ) (cell : ℕ) : Kept b (State.pktDone s priv e cell) := by
  unfold State.pktDone
  repeat' first
    | with_reducible assumption
    | (extract_lets +onlyGivenNames x; refine (fun (hx : Kept b x) => ?_) ?_; (on_goal 1 => try clear_value x); (on_goal 2 => (dsimp only [x]; clear x)))
    | (extract_lets +onlyGivenNames x; first | clear_value x | (dsimp only [x]; clear x) | skip)
    | with_reducible apply State.respond_kept
    | with_reducible apply State.setReg_kept
    | split
    | (simp -zeta only [Kept_mk]; refine ⟨Kept.tabs ?_, ?_, ?_⟩)
    | with_reducible refine Kept.epochs ?_
    | with_reducible refine Kept.svns ?_
    | dsimp -zeta only [id]

theorem State.pktCmd_kept {s : State} (hs : Kept b s) (rq : Req) (priv : Bool) (cell : ℕ) (op : ℕ) (reason : ℕ) {act : State → State} (hact : ∀ u, Kept b u → Kept b (act u)) : Kept b (State.pktCmd s rq priv cell op reason act) := by
  unfold State.pktCmd
  repeat' first
    | with_reducible assumption
    | intro _
    | with_reducible apply State.gated_kept
    | with_reducible apply hact
    | split
    | dsimp -zeta only [id]

theorem State.endAged_kept {s : State} (hs : Kept b s) (start : Nat) (e : PktEnd) : Kept b (State.endAged s start e) := by
  unfold State.endAged
  repeat' first
    | with_reducible assumption
    | intro _
    | (extract_lets +onlyGivenNames x; refine (fun (hx : Kept b x) => ?_) ?_; (on_goal 1 => try clear_value x); (on_goal 2 => (dsimp only [x]; clear x)))
    | (extract_lets +onlyGivenNames x; first | clear_value x | (dsimp only [x]; clear x) | skip)
    | with_reducible apply State.endPkt_kept
    | with_reducible apply State.ageNow_kept
    | split
    | (simp -zeta only [Kept_mk]; refine ⟨Kept.tabs ?_, ?_, ?_⟩)
    | with_reducible refine Kept.epochs ?_
    | with_reducible refine Kept.svns ?_
    | dsimp -zeta only [id]

theorem execPktDeliver_kept (rq : Req) (priv : Bool) (cell : Nat) {s : State} (hs : Kept b s) : KeptOut b (execPktDeliver rq priv cell s) := by
  unfold execPktDeliver
  repeat' first
    | with_reducible assumption
    | with_reducible refine KeptOut_next ?_
    | intro _
    | (extract_lets +onlyGivenNames x; refine (fun (hx : Kept b x) => ?_) ?_; (on_goal 1 => try clear_value x); (on_goal 2 => (dsimp only [x]; clear x)))
    | (extract_lets +onlyGivenNames x; first | clear_value x | (dsimp only [x]; clear x) | skip)
    | with_reducible apply State.pktCmd_kept
    | with_reducible apply State.endAged_kept
    | with_reducible apply State.pktDone_kept
    | split
    | (simp -zeta only [Kept_mk]; refine ⟨Kept.tabs ?_, ?_, ?_⟩)
    | with_reducible refine Kept.epochs ?_
    | with_reducible refine Kept.svns ?_
    | dsimp -zeta only [id]

theorem execPktDrop_kept (rq : Req) (priv : Bool) (cell : Nat) (reason : Nat) {s : State} (hs : Kept b s) : KeptOut b (execPktDrop rq priv cell reason s) := by
  unfold execPktDrop
  repeat' first
    | with_reducible assumption
    | with_reducible refine KeptOut_next ?_
    | intro _
    | (extract_lets +onlyGivenNames x; refine (fun (hx : Kept b x) => ?_) ?_; (on_goal 1 => try clear_value x); (on_goal 2 => (dsimp only [x]; clear x)))
    | (extract_lets +onlyGivenNames x; first | clear_value x | (dsimp only [x]; clear x) | skip)
    | with_reducible apply State.pktCmd_kept
    | with_reducible apply State.endAged_kept
    | with_reducible apply State.pktDone_kept
    | split
    | (simp -zeta only [Kept_mk]; refine ⟨Kept.tabs ?_, ?_, ?_⟩)
    | with_reducible refine Kept.epochs ?_
    | with_reducible refine Kept.svns ?_
    | dsimp -zeta only [id]

theorem execPktForward_kept (rq : Req) (priv : Bool) (cell : Nat) (qx : Nat) {s : State} (hs : Kept b s) : KeptOut b (execPktForward rq priv cell qx s) := by
  unfold execPktForward
  repeat' first
    | with_reducible assumption
    | with_reducible refine KeptOut_next ?_
    | intro _
    | (extract_lets +onlyGivenNames x; refine (fun (hx : Kept b x) => ?_) ?_; (on_goal 1 => try clear_value x); (on_goal 2 => (dsimp only [x]; clear x)))
    | (extract_lets +onlyGivenNames x; refine (fun (hx : Kept b x.2) => ?_) ?_; (on_goal 1 => try clear_value x); (on_goal 2 => (dsimp only [x]; clear x)))
    | (extract_lets +onlyGivenNames x; refine (fun (hx : Kept b x.1) => ?_) ?_; (on_goal 1 => try clear_value x); (on_goal 2 => (dsimp only [x]; clear x)))
    | (extract_lets +onlyGivenNames x; first | clear_value x | (dsimp only [x]; clear x) | skip)
    | with_reducible apply State.pktCmd_kept
    | with_reducible apply State.pktDone_kept
    | with_reducible apply State.bump_kept
    | with_reducible apply State.refusePush_kept
    | with_reducible apply State.outOfQueue_kept
    | with_reducible apply State.placePkt_kept
    | with_reducible refine State.placePkt_kept' ?_ _ _ ‹_›
    | with_reducible refine Kept_elim (fun _ => ?_) ?_
    | split
    | (simp -zeta only [Kept_mk]; refine ⟨Kept.tabs ?_, ?_, ?_⟩)
    | with_reducible refine Kept.epochs ?_
    | with_reducible refine Kept.svns ?_
    | dsimp -zeta only [id]

theorem execPktAlloc_kept (rq : Req) (priv : Bool) (n : Nat) (data : List Octet) {s : State} (hs : Kept b s) : KeptOut b (execPktAlloc rq priv n data s) := by
  unfold execPktAlloc
  repeat' first
    | with_reducible assumption
    | with_reducible refine KeptOut_next ?_
    | intro _
    | (extract_lets +onlyGivenNames x; refine (fun (hx : Kept b x) => ?_) ?_; (on_goal 1 => try clear_value x); (on_goal 2 => (dsimp only [x]; clear x)))
    | (extract_lets +onlyGivenNames x; refine (fun (hx : Kept b x.2) => ?_) ?_; (on_goal 1 => try clear_value x); (on_goal 2 => (dsimp only [x]; clear x)))
    | (extract_lets +onlyGivenNames x; refine (fun (hx : Kept b x.1) => ?_) ?_; (on_goal 1 => try clear_value x); (on_goal 2 => (dsimp only [x]; clear x)))
    | (extract_lets +onlyGivenNames x; first | clear_value x | (dsimp only [x]; clear x) | skip)
    | with_reducible apply State.pktCmd_kept
    | with_reducible apply State.pktDone_kept
    | with_reducible apply State.acceptPkt_kept
    | with_reducible refine State.acceptPkt_kept' ?_ _ _ _ _ _ ‹_›
    | split
    | (simp -zeta only [Kept_mk]; refine ⟨Kept.tabs ?_, ?_, ?_⟩)
    | with_reducible refine Kept.epochs ?_
    | with_reducible refine Kept.svns ?_
    | dsimp -zeta only [id]

theorem State.auditBreak_kept {s : State} (hs : Kept b s) : Kept b (State.auditBreak s) := by
  unfold State.auditBreak
  repeat' first
    | with_reducible assumption
    | with_reducible apply State.strike_kept
    | with_reducible apply State.fire_kept
    | with_reducible apply State.setFlag_kept
    | dsimp -zeta only [id]

theorem State.loseCells_kept {s : State} (hs : Kept b s) (cs : List ℕ) : Kept b (State.loseCells s cs) := by
  unfold State.loseCells
  repeat' first
    | with_reducible assumption
    | (extract_lets +onlyGivenNames x; refine (fun (hx : Kept b x) => ?_) ?_; (on_goal 1 => try clear_value x); (on_goal 2 => (dsimp only [x]; clear x)))
    | (extract_lets +onlyGivenNames x; first | clear_value x | (dsimp only [x]; clear x) | skip)
    | with_reducible apply State.bump_kept
    | (simp -zeta only [Kept_mk]; refine ⟨Kept.tabs ?_, ?_, ?_⟩)
    | with_reducible refine Kept.epochs ?_
    | with_reducible refine Kept.svns ?_
    | dsimp -zeta only [id]

theorem State.forgetPkt_kept {s : State} (hs : Kept b s) (start : Nat) : Kept b (State.forgetPkt s start) := by
  unfold State.forgetPkt
  repeat' first
    | with_reducible assumption
    | intro _
    | (extract_lets +onlyGivenNames x; refine (fun (hx : Kept b x) => ?_) ?_; (on_goal 1 => try clear_value x); (on_goal 2 => (dsimp only [x]; clear x)))
    | (extract_lets +onlyGivenNames x; first | clear_value x | (dsimp only [x]; clear x) | skip)
    | split
    | (simp -zeta only [Kept_mk]; refine ⟨Kept.tabs ?_, ?_, ?_⟩)
    | with_reducible refine Kept.epochs ?_
    | with_reducible refine Kept.svns ?_
    | dsimp -zeta only [id]

theorem execQmgAccountingError_kept (what : AuditHit) {s : State} (hs : Kept b s) : KeptOut b (execQmgAccountingError what s) := by
  unfold execQmgAccountingError
  repeat' first
    | with_reducible assumption
    | with_reducible refine KeptOut_next ?_
    | intro _
    | (extract_lets +onlyGivenNames x; refine (fun (hx : Kept b x) => ?_) ?_; (on_goal 1 => try clear_value x); (on_goal 2 => (dsimp only [x]; clear x)))
    | (extract_lets +onlyGivenNames x; refine (fun (hx : Kept b x.2) => ?_) ?_; (on_goal 1 => try clear_value x); (on_goal 2 => (dsimp only [x]; clear x)))
    | (extract_lets +onlyGivenNames x; refine (fun (hx : Kept b x.1) => ?_) ?_; (on_goal 1 => try clear_value x); (on_goal 2 => (dsimp only [x]; clear x)))
    | (extract_lets +onlyGivenNames x; first | clear_value x | (dsimp only [x]; clear x) | skip)
    | with_reducible apply State.auditBreak_kept
    | with_reducible apply State.reportNow_kept
    | with_reducible apply State.setCtr_kept
    | with_reducible apply State.nextFree_kept
    | with_reducible apply State.loseCells_kept
    | with_reducible apply State.qmgSettle_kept
    | with_reducible apply State.endPkt_kept
    | with_reducible apply State.forgetPkt_kept
    | with_reducible apply State.updPkt_kept
    | with_reducible apply State.setQueue_kept
    | with_reducible apply State.wmEval_kept
    | with_reducible refine Kept_foldl ?_ ?_
    | with_reducible refine Kept_foldl2 ?_ ?_
    | with_reducible refine Kept_foldl1 ?_ ?_
    | with_reducible refine Kept_elim (fun _ => ?_) ?_
    | split
    | (simp -zeta only [Kept_mk]; refine ⟨Kept.tabs ?_, ?_, ?_⟩)
    | with_reducible refine Kept.epochs ?_
    | with_reducible refine Kept.svns ?_
    | dsimp -zeta only [id]

theorem execQmgRecordScanDone_kept (qx : ℕ) {s : State} (hs : Kept b s) : KeptOut b (execQmgRecordScanDone qx s) := by
  unfold execQmgRecordScanDone
  repeat' first
    | with_reducible assumption
    | with_reducible refine KeptOut_next ?_
    | intro _
    | (extract_lets +onlyGivenNames x; refine (fun (hx : Kept b x) => ?_) ?_; (on_goal 1 => try clear_value x); (on_goal 2 => (dsimp only [x]; clear x)))
    | (extract_lets +onlyGivenNames x; refine (fun (hx : Kept b x.2) => ?_) ?_; (on_goal 1 => try clear_value x); (on_goal 2 => (dsimp only [x]; clear x)))
    | (extract_lets +onlyGivenNames x; refine (fun (hx : Kept b x.1) => ?_) ?_; (on_goal 1 => try clear_value x); (on_goal 2 => (dsimp only [x]; clear x)))
    | (extract_lets +onlyGivenNames x; first | clear_value x | (dsimp only [x]; clear x) | skip)
    | with_reducible apply State.qmgSettle_kept
    | with_reducible apply State.loseCells_kept
    | split
    | (simp -zeta only [Kept_mk]; refine ⟨Kept.tabs ?_, ?_, ?_⟩)
    | with_reducible refine Kept.epochs ?_
    | with_reducible refine Kept.svns ?_
    | dsimp -zeta only [id]

theorem State.pktDataError_kept {s : State} (hs : Kept b s) (start : Nat) : Kept b (State.pktDataError s start) := by
  unfold State.pktDataError
  repeat' first
    | with_reducible assumption
    | intro _
    | (extract_lets +onlyGivenNames x; refine (fun (hx : Kept b x) => ?_) ?_; (on_goal 1 => try clear_value x); (on_goal 2 => (dsimp only [x]; clear x)))
    | (extract_lets +onlyGivenNames x; first | clear_value x | (dsimp only [x]; clear x) | skip)
    | with_reducible apply State.endPkt_kept
    | with_reducible apply State.forgetPkt_kept
    | with_reducible apply State.reportNow_kept
    | split
    | (simp -zeta only [Kept_mk]; refine ⟨Kept.tabs ?_, ?_, ?_⟩)
    | with_reducible refine Kept.epochs ?_
    | with_reducible refine Kept.svns ?_
    | dsimp -zeta only [id]

end Sys2Proof.Machine
end

