-- ==== Sys2Proof/Laws/KeptKvt.lean ====
section
/-! SUPPORT. What the operations of Machine/Kvt.lean keep: queue, canonical tables, fuses. -/

set_option linter.unusedTactic false
set_option linter.unreachableTactic false
set_option linter.unusedVariables false
set_option linter.tactic.unusedName false

namespace Sys2Proof.Machine

variable {b : Base}

/-! ### Kvt -/

theorem State.kvtTo_kept {s : State} (hs : Kept b s) (n : Nat) : Kept b (State.kvtTo s n) := by
  unfold State.kvtTo
  repeat' first
    | with_reducible assumption
    | intro _
    | (extract_lets +onlyGivenNames x; refine (fun (hx : Kept b x) => ?_) ?_; (on_goal 1 => try clear_value x); (on_goal 2 => (dsimp only [x]; clear x)))
    | (extract_lets +onlyGivenNames x; first | clear_value x | (dsimp only [x]; clear x) | skip)
    | with_reducible apply State.setFld_kept
    | with_reducible apply State.drive_kept
    | split
    | (simp -zeta only [Kept_mk]; refine ⟨Kept.tabs ?_, ?_, ?_⟩)
    | with_reducible refine Kept.epochs ?_
    | with_reducible refine Kept.svns ?_
    | dsimp -zeta only [id]

theorem State.secEvt_kept {s : State} (hs : Kept b s) (cause : ℕ) (detail : ℕ) : Kept b (State.secEvt s cause detail) := by
  unfold State.secEvt
  repeat' first
    | with_reducible assumption
    | with_reducible apply State.setFlag_kept
    | with_reducible apply State.fire_kept
    | with_reducible apply State.setReg_kept
    | split
    | dsimp -zeta only [id]

theorem State.cachePut_kept {s : State} (hs : Kept b s) (n : Nat) : Kept b (State.cachePut s n) := by
  unfold State.cachePut
  repeat' first
    | with_reducible assumption
    | intro _
    | (extract_lets +onlyGivenNames x; refine (fun (hx : Kept b x) => ?_) ?_; (on_goal 1 => try clear_value x); (on_goal 2 => (dsimp only [x]; clear x)))
    | (extract_lets +onlyGivenNames x; refine (fun (hx : b.epoch ≤ (x : Kvt).fuses) => ?_) ?_; (on_goal 1 => try clear_value x); (on_goal 2 => (dsimp only [x]; clear x)))
    | (extract_lets +onlyGivenNames x; first | clear_value x | (dsimp only [x]; clear x) | skip)
    | split
    | (simp -zeta only [Kept_mk]; refine ⟨Kept.tabs ?_, ?_, ?_⟩)
    | with_reducible refine Kept.epochs ?_
    | with_reducible refine Kept.svns ?_
    | dsimp -zeta only [id]

theorem State.readWrapped_kept {s : State} (hs : Kept b s) (n : Nat) : Kept b (State.readWrapped s n).2 := by
  unfold State.readWrapped
  repeat' first
    | with_reducible assumption
    | intro _
    | (extract_lets +onlyGivenNames x; refine (fun (hx : Kept b x) => ?_) ?_; (on_goal 1 => try clear_value x); (on_goal 2 => (dsimp only [x]; clear x)))
    | (extract_lets +onlyGivenNames x; refine (fun (hx : b.epoch ≤ (x : Kvt).fuses) => ?_) ?_; (on_goal 1 => try clear_value x); (on_goal 2 => (dsimp only [x]; clear x)))
    | (extract_lets +onlyGivenNames x; first | clear_value x | (dsimp only [x]; clear x) | skip)
    | with_reducible apply State.secEvt_kept
    | split
    | (simp -zeta only [Kept_mk]; refine ⟨Kept.tabs ?_, ?_, ?_⟩)
    | with_reducible refine Kept.epochs ?_
    | with_reducible refine Kept.svns ?_
    | dsimp -zeta only [id]

theorem State.readWrapped_kept' {s : State} (hs : Kept b s) (n : Nat) {r1 : _} {t1 : State} (e1 : State.readWrapped s n = (r1, t1)) : Kept b t1 := by
  have := State.readWrapped_kept (b := b) hs n
  rw [e1] at this
  exact this

theorem State.noKey_kept {s : State} (hs : Kept b s) : Kept b (State.noKey s).2 := by
  unfold State.noKey
  repeat' first
    | with_reducible assumption
    | with_reducible apply State.bump_kept
    | dsimp -zeta only [id]

theorem State.noKey_kept' {s : State} (hs : Kept b s) {r1 : _} {t1 : State} (e1 : State.noKey s = (r1, t1)) : Kept b t1 := by
  have := State.noKey_kept (b := b) hs
  rw [e1] at this
  exact this

theorem State.keyRequest_kept {s : State} (hs : Kept b s) (ux : KeyUser) (n : Nat) : Kept b (State.keyRequest s ux n).2 := by
  unfold State.keyRequest
  repeat' first
    | with_reducible assumption
    | intro _
    | (extract_lets +onlyGivenNames x; refine (fun (hx : Kept b x) => ?_) ?_; (on_goal 1 => try clear_value x); (on_goal 2 => (dsimp only [x]; clear x)))
    | (extract_lets +onlyGivenNames x; refine (fun (hx : Kept b x.2) => ?_) ?_; (on_goal 1 => try clear_value x); (on_goal 2 => (dsimp only [x]; clear x)))
    | (extract_lets +onlyGivenNames x; refine (fun (hx : Kept b x.1) => ?_) ?_; (on_goal 1 => try clear_value x); (on_goal 2 => (dsimp only [x]; clear x)))
    | (extract_lets +onlyGivenNames x; first | clear_value x | (dsimp only [x]; clear x) | skip)
    | with_reducible apply State.bump_kept
    | with_reducible apply State.noKey_kept
    | with_reducible refine State.noKey_kept' ?_ ‹_›
    | with_reducible apply State.cachePut_kept
    | with_reducible apply State.readWrapped_kept
    | with_reducible refine State.readWrapped_kept' ?_ _ ‹_›
    | split
    | (simp -zeta only [Kept_mk]; refine ⟨Kept.tabs ?_, ?_, ?_⟩)
    | with_reducible refine Kept.epochs ?_
    | with_reducible refine Kept.svns ?_
    | dsimp -zeta only [id]

theorem State.keyRequest_kept' {s : State} (hs : Kept b s) (ux : KeyUser) (n : Nat) {r1 : _} {t1 : State} (e1 : State.keyRequest s ux n = (r1, t1)) : Kept b t1 := by
  have := State.keyRequest_kept (b := b) hs ux n
  rw [e1] at this
  exact this

theorem State.journalStart_kept {s : State} (hs : Kept b s) : Kept b (State.journalStart s) := by
  unfold State.journalStart
  repeat' first
    | with_reducible assumption
    | intro _
    | (extract_lets +onlyGivenNames x; refine (fun (hx : Kept b x) => ?_) ?_; (on_goal 1 => try clear_value x); (on_goal 2 => (dsimp only [x]; clear x)))
    | (extract_lets +onlyGivenNames x; refine (fun (hx : b.epoch ≤ (x : Kvt).fuses) => ?_) ?_; (on_goal 1 => try clear_value x); (on_goal 2 => (dsimp only [x]; clear x)))
    | (extract_lets +onlyGivenNames x; first | clear_value x | (dsimp only [x]; clear x) | skip)
    | with_reducible apply State.holdOp_kept
    | split
    | (simp -zeta only [Kept_mk]; refine ⟨Kept.tabs ?_, ?_, ?_⟩)
    | with_reducible refine Kept.epochs ?_
    | with_reducible refine Kept.svns ?_
    | dsimp -zeta only [id]

theorem State.journalAdd_kept {s : State} (hs : Kept b s) (j : Journal) : Kept b (State.journalAdd s j) := by
  unfold State.journalAdd
  repeat' first
    | with_reducible assumption
    | (extract_lets +onlyGivenNames x; refine (fun (hx : Kept b x) => ?_) ?_; (on_goal 1 => try clear_value x); (on_goal 2 => (dsimp only [x]; clear x)))
    | (extract_lets +onlyGivenNames x; refine (fun (hx : b.epoch ≤ (x : Kvt).fuses) => ?_) ?_; (on_goal 1 => try clear_value x); (on_goal 2 => (dsimp only [x]; clear x)))
    | (extract_lets +onlyGivenNames x; first | clear_value x | (dsimp only [x]; clear x) | skip)
    | with_reducible apply State.journalStart_kept
    | (simp -zeta only [Kept_mk]; refine ⟨Kept.tabs ?_, ?_, ?_⟩)
    | with_reducible refine Kept.epochs ?_
    | with_reducible refine Kept.svns ?_
    | dsimp -zeta only [id]

theorem State.burnStart_kept {s : State} (hs : Kept b s) : Kept b (State.burnStart s) := by
  unfold State.burnStart
  repeat' first
    | with_reducible assumption
    | (extract_lets +onlyGivenNames x; refine (fun (hx : Kept b x) => ?_) ?_; (on_goal 1 => try clear_value x); (on_goal 2 => (dsimp only [x]; clear x)))
    | (extract_lets +onlyGivenNames x; refine (fun (hx : b.epoch ≤ (x : Kvt).fuses) => ?_) ?_; (on_goal 1 => try clear_value x); (on_goal 2 => (dsimp only [x]; clear x)))
    | (extract_lets +onlyGivenNames x; first | clear_value x | (dsimp only [x]; clear x) | skip)
    | with_reducible apply State.holdOp_kept
    | split
    | (simp -zeta only [Kept_mk]; refine ⟨Kept.tabs ?_, ?_, ?_⟩)
    | with_reducible refine Kept.epochs ?_
    | with_reducible refine Kept.svns ?_
    | dsimp -zeta only [id]

theorem State.setKumhw_kept {s : State} (hs : Kept b s) (n : ℕ) : Kept b (State.setKumhw s n) := by
  unfold State.setKumhw
  repeat' first
    | with_reducible assumption
    | (extract_lets +onlyGivenNames x; refine (fun (hx : Kept b x) => ?_) ?_; (on_goal 1 => try clear_value x); (on_goal 2 => (dsimp only [x]; clear x)))
    | (extract_lets +onlyGivenNames x; refine (fun (hx : b.epoch ≤ (x : Kvt).fuses) => ?_) ?_; (on_goal 1 => try clear_value x); (on_goal 2 => (dsimp only [x]; clear x)))
    | (extract_lets +onlyGivenNames x; first | clear_value x | (dsimp only [x]; clear x) | skip)
    | with_reducible apply State.setReg_kept
    | (simp -zeta only [Kept_mk]; refine ⟨Kept.tabs ?_, ?_, ?_⟩)
    | with_reducible refine Kept.epochs ?_
    | with_reducible refine Kept.svns ?_
    | dsimp -zeta only [id]

theorem State.setSealgen_kept {s : State} (hs : Kept b s) (n : ℕ) : Kept b (State.setSealgen s n) := by
  unfold State.setSealgen
  repeat' first
    | with_reducible assumption
    | (extract_lets +onlyGivenNames x; refine (fun (hx : Kept b x) => ?_) ?_; (on_goal 1 => try clear_value x); (on_goal 2 => (dsimp only [x]; clear x)))
    | (extract_lets +onlyGivenNames x; refine (fun (hx : b.epoch ≤ (x : Kvt).fuses) => ?_) ?_; (on_goal 1 => try clear_value x); (on_goal 2 => (dsimp only [x]; clear x)))
    | (extract_lets +onlyGivenNames x; first | clear_value x | (dsimp only [x]; clear x) | skip)
    | with_reducible apply State.setReg_kept
    | (simp -zeta only [Kept_mk]; refine ⟨Kept.tabs ?_, ?_, ?_⟩)
    | with_reducible refine Kept.epochs ?_
    | with_reducible refine Kept.svns ?_
    | dsimp -zeta only [id]

theorem State.epochShow_kept {s : State} (hs : Kept b s) : Kept b (State.epochShow s) := by
  unfold State.epochShow
  repeat' first
    | with_reducible assumption
    | intro _
    | (extract_lets +onlyGivenNames x; refine (fun (hx : Kept b x) => ?_) ?_; (on_goal 1 => try clear_value x); (on_goal 2 => (dsimp only [x]; clear x)))
    | (extract_lets +onlyGivenNames x; first | clear_value x | (dsimp only [x]; clear x) | skip)
    | with_reducible apply State.setFld_kept
    | with_reducible apply State.setFlag_kept
    | with_reducible apply State.fireIf_kept
    | split
    | (simp -zeta only [Kept_mk]; refine ⟨Kept.tabs ?_, ?_, ?_⟩)
    | with_reducible refine Kept.epochs ?_
    | with_reducible refine Kept.svns ?_
    | dsimp -zeta only [id]

theorem State.burnOne_kept {s : State} (hs : Kept b s) : Kept b (State.burnOne s) := by
  have h1 : Kept b { s with kvt := { s.kvt with fuses := s.kvt.fuses + 1 } } :=
    Kept_mk.2 ⟨Kept.tabs hs, Nat.le_trans (Kept.epochs hs) (Nat.le_succ _), Kept.svns hs⟩
  exact State.epochShow_kept (State.fire_kept h1 _)

theorem State.selfFail_kept {s : State} (hs : Kept b s) : Kept b (State.selfFail s) := by
  unfold State.selfFail
  repeat' first
    | with_reducible assumption
    | intro _
    | (extract_lets +onlyGivenNames x; refine (fun (hx : Kept b x) => ?_) ?_; (on_goal 1 => try clear_value x); (on_goal 2 => (dsimp only [x]; clear x)))
    | (extract_lets +onlyGivenNames x; first | clear_value x | (dsimp only [x]; clear x) | skip)
    | with_reducible apply State.kvtTo_kept
    | with_reducible apply State.secEvt_kept
    | with_reducible apply State.fire_kept
    | split
    | (simp -zeta only [Kept_mk]; refine ⟨Kept.tabs ?_, ?_, ?_⟩)
    | with_reducible refine Kept.epochs ?_
    | with_reducible refine Kept.svns ?_
    | dsimp -zeta only [id]

theorem State.kvtEnd_kept {s : State} (hs : Kept b s) (c : KvtCmd) (outcome : ℕ) (detail : ℕ) (res : List Sys2Proof.Octet) : Kept b (State.kvtEnd s c outcome detail res) := by
  unfold State.kvtEnd
  repeat' first
    | with_reducible assumption
    | (extract_lets +onlyGivenNames x; refine (fun (hx : Kept b x) => ?_) ?_; (on_goal 1 => try clear_value x); (on_goal 2 => (dsimp only [x]; clear x)))
    | (extract_lets +onlyGivenNames x; refine (fun (hx : b.epoch ≤ (x : Kvt).fuses) => ?_) ?_; (on_goal 1 => try clear_value x); (on_goal 2 => (dsimp only [x]; clear x)))
    | (extract_lets +onlyGivenNames x; first | clear_value x | (dsimp only [x]; clear x) | skip)
    | with_reducible apply State.setRegs_kept
    | with_reducible apply State.setFld_kept
    | with_reducible apply State.setFlag_kept
    | with_reducible apply State.fire_kept
    | with_reducible apply State.setReg_kept
    | (simp -zeta only [Kept_mk]; refine ⟨Kept.tabs ?_, ?_, ?_⟩)
    | with_reducible refine Kept.epochs ?_
    | with_reducible refine Kept.svns ?_
    | dsimp -zeta only [id]

theorem State.kvtBusy_kept {s : State} (hs : Kept b s) (c : KvtCmd) : Kept b (State.kvtBusy s c) := by
  unfold State.kvtBusy
  repeat' first
    | with_reducible assumption
    | (extract_lets +onlyGivenNames x; refine (fun (hx : Kept b x) => ?_) ?_; (on_goal 1 => try clear_value x); (on_goal 2 => (dsimp only [x]; clear x)))
    | (extract_lets +onlyGivenNames x; refine (fun (hx : b.epoch ≤ (x : Kvt).fuses) => ?_) ?_; (on_goal 1 => try clear_value x); (on_goal 2 => (dsimp only [x]; clear x)))
    | (extract_lets +onlyGivenNames x; first | clear_value x | (dsimp only [x]; clear x) | skip)
    | with_reducible apply State.setFlag_kept
    | (simp -zeta only [Kept_mk]; refine ⟨Kept.tabs ?_, ?_, ?_⟩)
    | with_reducible refine Kept.epochs ?_
    | with_reducible refine Kept.svns ?_
    | dsimp -zeta only [id]

theorem State.rootBurn_kept {s : State} (hs : Kept b s) : Kept b (State.rootBurn s) := by
  unfold State.rootBurn
  repeat' first
    | with_reducible assumption
    | intro _
    | (extract_lets +onlyGivenNames x; refine (fun (hx : Kept b x) => ?_) ?_; (on_goal 1 => try clear_value x); (on_goal 2 => (dsimp only [x]; clear x)))
    | (extract_lets +onlyGivenNames x; refine (fun (hx : b.epoch ≤ (x : Kvt).fuses) => ?_) ?_; (on_goal 1 => try clear_value x); (on_goal 2 => (dsimp only [x]; clear x)))
    | (extract_lets +onlyGivenNames x; first | clear_value x | (dsimp only [x]; clear x) | skip)
    | with_reducible apply State.nextFree_kept
    | split
    | (simp -zeta only [Kept_mk]; refine ⟨Kept.tabs ?_, ?_, ?_⟩)
    | with_reducible refine Kept.epochs ?_
    | with_reducible refine Kept.svns ?_
    | dsimp -zeta only [id]

theorem State.drbgDraw_kept {s : State} (hs : Kept b s) : Kept b (State.drbgDraw s) := by
  unfold State.drbgDraw
  repeat' first
    | with_reducible assumption
    | (extract_lets +onlyGivenNames x; refine (fun (hx : Kept b x) => ?_) ?_; (on_goal 1 => try clear_value x); (on_goal 2 => (dsimp only [x]; clear x)))
    | (extract_lets +onlyGivenNames x; refine (fun (hx : b.epoch ≤ (x : Kvt).fuses) => ?_) ?_; (on_goal 1 => try clear_value x); (on_goal 2 => (dsimp only [x]; clear x)))
    | (extract_lets +onlyGivenNames x; first | clear_value x | (dsimp only [x]; clear x) | skip)
    | with_reducible apply State.nextFree_kept
    | with_reducible apply State.bump_kept
    | split
    | (simp -zeta only [Kept_mk]; refine ⟨Kept.tabs ?_, ?_, ?_⟩)
    | with_reducible refine Kept.epochs ?_
    | with_reducible refine Kept.svns ?_
    | dsimp -zeta only [id]

theorem State.kvtRun_kept {s : State} (hs : Kept b s) (c : KvtCmd) : Kept b (State.kvtRun s c) := by
  unfold State.kvtRun
  repeat' first
    | with_reducible assumption
    | intro _
    | (extract_lets +onlyGivenNames x; refine (fun (hx : Kept b x) => ?_) ?_; (on_goal 1 => try clear_value x); (on_goal 2 => (dsimp only [x]; clear x)))
    | (extract_lets +onlyGivenNames x; refine (fun (hx : b.epoch ≤ (x : Kvt).fuses) => ?_) ?_; (on_goal 1 => try clear_value x); (on_goal 2 => (dsimp only [x]; clear x)))
    | (extract_lets +onlyGivenNames x; first | clear_value x | (dsimp only [x]; clear x) | skip)
    | with_reducible apply State.kvtEnd_kept
    | with_reducible apply State.xwFault_kept
    | with_reducible apply State.endAged_kept
    | with_reducible apply State.bump_kept
    | with_reducible apply State.fire_kept
    | with_reducible apply State.kvtBusy_kept
    | with_reducible apply State.journalAdd_kept
    | with_reducible apply State.secEvt_kept
    | with_reducible apply State.drbgDraw_kept
    | with_reducible apply State.selfFail_kept
    | with_reducible apply State.store_kept
    | with_reducible apply State.burnStart_kept
    | split
    | (simp -zeta only [Kept_mk]; refine ⟨Kept.tabs ?_, ?_, ?_⟩)
    | with_reducible refine Kept.epochs ?_
    | with_reducible refine Kept.svns ?_
    | dsimp -zeta only [id]

theorem State.kvtNext_kept {s : State} (hs : Kept b s) (x1 : ℕ) : Kept b (State.kvtNext s x1) := by
  induction x1 generalizing s with
  | zero =>
    rw [State.kvtNext]
    exact hs
  | succ k ih =>
    rw [State.kvtNext]
    repeat' first
      | with_reducible assumption
      | (extract_lets +onlyGivenNames x; refine (fun (hx : Kept b x) => ?_) ?_; (on_goal 1 => try clear_value x); (on_goal 2 => (dsimp only [x]; clear x)))
      | (extract_lets +onlyGivenNames x; refine (fun (hx : b.epoch ≤ (x : Kvt).fuses) => ?_) ?_; (on_goal 1 => try clear_value x); (on_goal 2 => (dsimp only [x]; clear x)))
      | (extract_lets +onlyGivenNames x; first | clear_value x | (dsimp only [x]; clear x) | skip)
      | with_reducible apply State.kvtRun_kept
      | split
      | (simp -zeta only [Kept_mk]; refine ⟨Kept.tabs ?_, ?_, ?_⟩)
      | with_reducible refine Kept.epochs ?_
      | with_reducible refine Kept.svns ?_
      | dsimp -zeta only [id]
      | with_reducible apply ih

theorem State.kvtCmd_kept {s : State} (hs : Kept b s) (rq : Req) (priv : Bool) (op : ℕ) (slot : ℕ) (tag : ℕ) (arg : Sys2Proof.Word) : Kept b (State.kvtCmd s rq priv op slot tag arg) := by
  unfold State.kvtCmd
  repeat' first
    | with_reducible assumption
    | intro _
    | (extract_lets +onlyGivenNames x; refine (fun (hx : Kept b x) => ?_) ?_; (on_goal 1 => try clear_value x); (on_goal 2 => (dsimp only [x]; clear x)))
    | (extract_lets +onlyGivenNames x; refine (fun (hx : b.epoch ≤ (x : Kvt).fuses) => ?_) ?_; (on_goal 1 => try clear_value x); (on_goal 2 => (dsimp only [x]; clear x)))
    | (extract_lets +onlyGivenNames x; first | clear_value x | (dsimp only [x]; clear x) | skip)
    | with_reducible apply State.recordFault_kept
    | with_reducible apply State.kvtRun_kept
    | with_reducible apply State.gated_kept
    | split
    | (simp -zeta only [Kept_mk]; refine ⟨Kept.tabs ?_, ?_, ?_⟩)
    | with_reducible refine Kept.epochs ?_
    | with_reducible refine Kept.svns ?_
    | dsimp -zeta only [id]

theorem execKvtKum_kept (rq : Req) (priv : Bool) (tag : ℕ) (arg : Sys2Proof.Word) {s : State} (hs : Kept b s) : KeptOut b (execKvtKum rq priv tag arg s) := by
  unfold execKvtKum
  repeat' first
    | with_reducible assumption
    | with_reducible refine KeptOut_next ?_
    | with_reducible apply State.kvtCmd_kept
    | dsimp -zeta only [id]

theorem execKvtGenerate_kept (rq : Req) (priv : Bool) (slot : ℕ) (tag : ℕ) (arg : Sys2Proof.Word) {s : State} (hs : Kept b s) : KeptOut b (execKvtGenerate rq priv slot tag arg s) := by
  unfold execKvtGenerate
  repeat' first
    | with_reducible assumption
    | with_reducible refine KeptOut_next ?_
    | with_reducible apply State.kvtCmd_kept
    | dsimp -zeta only [id]

theorem execKvtErase_kept (rq : Req) (priv : Bool) (slot : ℕ) (tag : ℕ) {s : State} (hs : Kept b s) : KeptOut b (execKvtErase rq priv slot tag s) := by
  unfold execKvtErase
  repeat' first
    | with_reducible assumption
    | with_reducible refine KeptOut_next ?_
    | with_reducible apply State.kvtCmd_kept
    | dsimp -zeta only [id]

theorem execKvtAttest_kept (rq : Req) (priv : Bool) (slot : ℕ) (tag : ℕ) (arg : Sys2Proof.Word) {s : State} (hs : Kept b s) : KeptOut b (execKvtAttest rq priv slot tag arg s) := by
  unfold execKvtAttest
  repeat' first
    | with_reducible assumption
    | with_reducible refine KeptOut_next ?_
    | with_reducible apply State.kvtCmd_kept
    | dsimp -zeta only [id]

theorem execKvtInfo_kept (rq : Req) (priv : Bool) (slot : ℕ) (tag : ℕ) {s : State} (hs : Kept b s) : KeptOut b (execKvtInfo rq priv slot tag s) := by
  unfold execKvtInfo
  repeat' first
    | with_reducible assumption
    | with_reducible refine KeptOut_next ?_
    | with_reducible apply State.kvtCmd_kept
    | dsimp -zeta only [id]

theorem execKvtZeroise_kept (rq : Req) (priv : Bool) (tag : ℕ) {s : State} (hs : Kept b s) : KeptOut b (execKvtZeroise rq priv tag s) := by
  unfold execKvtZeroise
  repeat' first
    | with_reducible assumption
    | with_reducible refine KeptOut_next ?_
    | with_reducible apply State.kvtCmd_kept
    | dsimp -zeta only [id]

theorem State.zeroiseDone_kept {s : State} (hs : Kept b s) : Kept b (State.zeroiseDone s) := by
  unfold State.zeroiseDone
  repeat' first
    | with_reducible assumption
    | intro _
    | (extract_lets +onlyGivenNames x; refine (fun (hx : Kept b x) => ?_) ?_; (on_goal 1 => try clear_value x); (on_goal 2 => (dsimp only [x]; clear x)))
    | (extract_lets +onlyGivenNames x; refine (fun (hx : b.epoch ≤ (x : Kvt).fuses) => ?_) ?_; (on_goal 1 => try clear_value x); (on_goal 2 => (dsimp only [x]; clear x)))
    | (extract_lets +onlyGivenNames x; first | clear_value x | (dsimp only [x]; clear x) | skip)
    | with_reducible apply State.kvtTo_kept
    | with_reducible apply State.secEvt_kept
    | with_reducible apply State.fire_kept
    | with_reducible apply State.kvtEnd_kept
    | with_reducible apply State.kvtNext_kept
    | split
    | (simp -zeta only [Kept_mk]; refine ⟨Kept.tabs ?_, ?_, ?_⟩)
    | with_reducible refine Kept.epochs ?_
    | with_reducible refine Kept.svns ?_
    | dsimp -zeta only [id]

theorem State.journalApply_kept {s : State} (hs : Kept b s) (j : Journal) : Kept b (State.journalApply s j) := by
  unfold State.journalApply
  repeat' first
    | with_reducible assumption
    | intro _
    | (extract_lets +onlyGivenNames x; refine (fun (hx : Kept b x) => ?_) ?_; (on_goal 1 => try clear_value x); (on_goal 2 => (dsimp only [x]; clear x)))
    | (extract_lets +onlyGivenNames x; refine (fun (hx : Kept b x.2) => ?_) ?_; (on_goal 1 => try clear_value x); (on_goal 2 => (dsimp only [x]; clear x)))
    | (extract_lets +onlyGivenNames x; refine (fun (hx : Kept b x.1) => ?_) ?_; (on_goal 1 => try clear_value x); (on_goal 2 => (dsimp only [x]; clear x)))
    | (extract_lets +onlyGivenNames x; refine (fun (hx : b.epoch ≤ (x : Kvt).fuses) => ?_) ?_; (on_goal 1 => try clear_value x); (on_goal 2 => (dsimp only [x]; clear x)))
    | (extract_lets +onlyGivenNames x; first | clear_value x | (dsimp only [x]; clear x) | skip)
    | with_reducible apply State.store_kept
    | with_reducible apply State.setKumhw_kept
    | with_reducible apply State.bump_kept
    | with_reducible apply State.cachePut_kept
    | with_reducible apply State.kvtTo_kept
    | with_reducible apply State.fire_kept
    | with_reducible apply State.zeroiseDone_kept
    | with_reducible apply State.kvtEnd_kept
    | with_reducible apply State.kvtNext_kept
    | with_reducible apply State.burnStart_kept
    | with_reducible refine Kept_foldl ?_ ?_
    | with_reducible refine Kept_foldl2 ?_ ?_
    | with_reducible refine Kept_foldl1 ?_ ?_
    | with_reducible refine Kept_elim (fun _ => ?_) ?_
    | split
    | (simp -zeta only [Kept_mk]; refine ⟨Kept.tabs ?_, ?_, ?_⟩)
    | with_reducible refine Kept.epochs ?_
    | with_reducible refine Kept.svns ?_
    | dsimp -zeta only [id]

theorem State.journalFail_kept {s : State} (hs : Kept b s) (j : Journal) : Kept b (State.journalFail s j) := by
  unfold State.journalFail
  repeat' first
    | with_reducible assumption
    | intro _
    | (extract_lets +onlyGivenNames x; refine (fun (hx : Kept b x) => ?_) ?_; (on_goal 1 => try clear_value x); (on_goal 2 => (dsimp only [x]; clear x)))
    | (extract_lets +onlyGivenNames x; refine (fun (hx : b.epoch ≤ (x : Kvt).fuses) => ?_) ?_; (on_goal 1 => try clear_value x); (on_goal 2 => (dsimp only [x]; clear x)))
    | (extract_lets +onlyGivenNames x; first | clear_value x | (dsimp only [x]; clear x) | skip)
    | with_reducible apply State.bump_kept
    | with_reducible apply State.fire_kept
    | with_reducible apply State.kvtEnd_kept
    | with_reducible apply State.kvtNext_kept
    | split
    | (simp -zeta only [Kept_mk]; refine ⟨Kept.tabs ?_, ?_, ?_⟩)
    | with_reducible refine Kept.epochs ?_
    | with_reducible refine Kept.svns ?_
    | dsimp -zeta only [id]

theorem State.journalWriteFails_kept {s : State} (hs : Kept b s) : Kept b (State.journalWriteFails s) := by
  unfold State.journalWriteFails
  repeat' first
    | with_reducible assumption
    | intro _
    | (extract_lets +onlyGivenNames x; refine (fun (hx : Kept b x) => ?_) ?_; (on_goal 1 => try clear_value x); (on_goal 2 => (dsimp only [x]; clear x)))
    | (extract_lets +onlyGivenNames x; refine (fun (hx : b.epoch ≤ (x : Kvt).fuses) => ?_) ?_; (on_goal 1 => try clear_value x); (on_goal 2 => (dsimp only [x]; clear x)))
    | (extract_lets +onlyGivenNames x; first | clear_value x | (dsimp only [x]; clear x) | skip)
    | with_reducible apply State.journalFail_kept
    | with_reducible apply State.journalStart_kept
    | split
    | (simp -zeta only [Kept_mk]; refine ⟨Kept.tabs ?_, ?_, ?_⟩)
    | with_reducible refine Kept.epochs ?_
    | with_reducible refine Kept.svns ?_
    | dsimp -zeta only [id]

theorem execEpochFuseBurn_kept {s : State} (hs : Kept b s) : KeptOut b (execEpochFuseBurn s) := by
  unfold execEpochFuseBurn
  repeat' first
    | with_reducible assumption
    | with_reducible refine KeptOut_next ?_
    | (extract_lets +onlyGivenNames x; refine (fun (hx : Kept b x) => ?_) ?_; (on_goal 1 => try clear_value x); (on_goal 2 => (dsimp only [x]; clear x)))
    | (extract_lets +onlyGivenNames x; refine (fun (hx : b.epoch ≤ (x : Kvt).fuses) => ?_) ?_; (on_goal 1 => try clear_value x); (on_goal 2 => (dsimp only [x]; clear x)))
    | (extract_lets +onlyGivenNames x; first | clear_value x | (dsimp only [x]; clear x) | skip)
    | with_reducible apply State.burnStart_kept
    | with_reducible apply State.burnOne_kept
    | with_reducible apply State.zeroiseDone_kept
    | split
    | (simp -zeta only [Kept_mk]; refine ⟨Kept.tabs ?_, ?_, ?_⟩)
    | with_reducible refine Kept.epochs ?_
    | with_reducible refine Kept.svns ?_
    | dsimp -zeta only [id]

theorem State.kvtNewGen_kept {s : State} (hs : Kept b s) (n : Nat) : Kept b (State.kvtNewGen s n) := by
  unfold State.kvtNewGen
  repeat' first
    | with_reducible assumption
    | intro _
    | (extract_lets +onlyGivenNames x; refine (fun (hx : Kept b x) => ?_) ?_; (on_goal 1 => try clear_value x); (on_goal 2 => (dsimp only [x]; clear x)))
    | (extract_lets +onlyGivenNames x; refine (fun (hx : b.epoch ≤ (x : Kvt).fuses) => ?_) ?_; (on_goal 1 => try clear_value x); (on_goal 2 => (dsimp only [x]; clear x)))
    | (extract_lets +onlyGivenNames x; first | clear_value x | (dsimp only [x]; clear x) | skip)
    | with_reducible apply State.setSealgen_kept
    | with_reducible apply State.journalAdd_kept
    | split
    | (simp -zeta only [Kept_mk]; refine ⟨Kept.tabs ?_, ?_, ?_⟩)
    | with_reducible refine Kept.epochs ?_
    | with_reducible refine Kept.svns ?_
    | dsimp -zeta only [id]

theorem State.blockRequest_kept {s : State} (hs : Kept b s) (n : ℕ) : Kept b (State.blockRequest s n) := by
  unfold State.blockRequest
  repeat' first
    | with_reducible assumption
    | intro _
    | (extract_lets +onlyGivenNames x; refine (fun (hx : Kept b x) => ?_) ?_; (on_goal 1 => try clear_value x); (on_goal 2 => (dsimp only [x]; clear x)))
    | (extract_lets +onlyGivenNames x; refine (fun (hx : b.epoch ≤ (x : Kvt).fuses) => ?_) ?_; (on_goal 1 => try clear_value x); (on_goal 2 => (dsimp only [x]; clear x)))
    | (extract_lets +onlyGivenNames x; first | clear_value x | (dsimp only [x]; clear x) | skip)
    | with_reducible apply State.journalAdd_kept
    | split
    | (simp -zeta only [Kept_mk]; refine ⟨Kept.tabs ?_, ?_, ?_⟩)
    | with_reducible refine Kept.epochs ?_
    | with_reducible refine Kept.svns ?_
    | dsimp -zeta only [id]

theorem execCounterBlockAdvance_kept (slot : ℕ) {s : State} (hs : Kept b s) : KeptOut b (execCounterBlockAdvance slot s) := by
  unfold execCounterBlockAdvance
  repeat' first
    | with_reducible assumption
    | with_reducible refine KeptOut_next ?_
    | with_reducible apply State.blockRequest_kept
    | dsimp -zeta only [id]

theorem execKeyRequest_kept (ux : KeyUser) (slot : Nat) (found : Option (List Octet)) {s : State} (hs : Kept b s) : KeptOut b (execKeyRequest ux slot found s) := by
  unfold execKeyRequest
  repeat' first
    | with_reducible assumption
    | with_reducible refine KeptOut_next ?_
    | intro _
    | (extract_lets +onlyGivenNames x; refine (fun (hx : Kept b x) => ?_) ?_; (on_goal 1 => try clear_value x); (on_goal 2 => (dsimp only [x]; clear x)))
    | (extract_lets +onlyGivenNames x; refine (fun (hx : Kept b x.2) => ?_) ?_; (on_goal 1 => try clear_value x); (on_goal 2 => (dsimp only [x]; clear x)))
    | (extract_lets +onlyGivenNames x; refine (fun (hx : Kept b x.1) => ?_) ?_; (on_goal 1 => try clear_value x); (on_goal 2 => (dsimp only [x]; clear x)))
    | (extract_lets +onlyGivenNames x; refine (fun (hx : b.epoch ≤ (x : Kvt).fuses) => ?_) ?_; (on_goal 1 => try clear_value x); (on_goal 2 => (dsimp only [x]; clear x)))
    | (extract_lets +onlyGivenNames x; first | clear_value x | (dsimp only [x]; clear x) | skip)
    | with_reducible apply State.keyRequest_kept
    | with_reducible refine State.keyRequest_kept' ?_ _ _ ‹_›
    | split
    | (simp -zeta only [Kept_mk]; refine ⟨Kept.tabs ?_, ?_, ?_⟩)
    | with_reducible refine Kept.epochs ?_
    | with_reducible refine Kept.svns ?_
    | dsimp -zeta only [id]

theorem State.deriveKeys_kept {s : State} (hs : Kept b s) : Kept b (State.deriveKeys s) := by
  unfold State.deriveKeys
  repeat' first
    | with_reducible assumption
    | intro _
    | (extract_lets +onlyGivenNames x; refine (fun (hx : Kept b x) => ?_) ?_; (on_goal 1 => try clear_value x); (on_goal 2 => (dsimp only [x]; clear x)))
    | (extract_lets +onlyGivenNames x; refine (fun (hx : b.epoch ≤ (x : Kvt).fuses) => ?_) ?_; (on_goal 1 => try clear_value x); (on_goal 2 => (dsimp only [x]; clear x)))
    | (extract_lets +onlyGivenNames x; first | clear_value x | (dsimp only [x]; clear x) | skip)
    | with_reducible apply State.setRegs_kept
    | split
    | (simp -zeta only [Kept_mk]; refine ⟨Kept.tabs ?_, ?_, ?_⟩)
    | with_reducible refine Kept.epochs ?_
    | with_reducible refine Kept.svns ?_
    | dsimp -zeta only [id]

theorem State.keyState_kept {s : State} (hs : Kept b s) : Kept b (State.keyState s) := by
  unfold State.keyState
  repeat' first
    | with_reducible assumption
    | intro _
    | (extract_lets +onlyGivenNames x; refine (fun (hx : Kept b x) => ?_) ?_; (on_goal 1 => try clear_value x); (on_goal 2 => (dsimp only [x]; clear x)))
    | (extract_lets +onlyGivenNames x; refine (fun (hx : b.epoch ≤ (x : Kvt).fuses) => ?_) ?_; (on_goal 1 => try clear_value x); (on_goal 2 => (dsimp only [x]; clear x)))
    | (extract_lets +onlyGivenNames x; first | clear_value x | (dsimp only [x]; clear x) | skip)
    | with_reducible apply State.deriveKeys_kept
    | with_reducible apply State.secEvt_kept
    | with_reducible apply State.selfFail_kept
    | with_reducible apply State.fire_kept
    | with_reducible apply State.reportNow_kept
    | split
    | (simp -zeta only [Kept_mk]; refine ⟨Kept.tabs ?_, ?_, ?_⟩)
    | with_reducible refine Kept.epochs ?_
    | with_reducible refine Kept.svns ?_
    | dsimp -zeta only [id]

theorem State.kvtRead4_kept {s : State} (hs : Kept b s) : Kept b (State.kvtRead4 s) := by
  unfold State.kvtRead4
  repeat' first
    | with_reducible assumption
    | intro _
    | (extract_lets +onlyGivenNames x; refine (fun (hx : Kept b x) => ?_) ?_; (on_goal 1 => try clear_value x); (on_goal 2 => (dsimp only [x]; clear x)))
    | (extract_lets +onlyGivenNames x; first | clear_value x | (dsimp only [x]; clear x) | skip)
    | with_reducible apply State.kvtTo_kept
    | split
    | (simp -zeta only [Kept_mk]; refine ⟨Kept.tabs ?_, ?_, ?_⟩)
    | with_reducible refine Kept.epochs ?_
    | with_reducible refine Kept.svns ?_
    | dsimp -zeta only [id]

theorem execKvtSelftestDone_kept (kat : Bool) (itk : Bool) (idk : Bool) {s : State} (hs : Kept b s) : KeptOut b (execKvtSelftestDone kat itk idk s) := by
  unfold execKvtSelftestDone
  repeat' first
    | with_reducible assumption
    | with_reducible refine KeptOut_next ?_
    | intro _
    | (extract_lets +onlyGivenNames x; refine (fun (hx : Kept b x) => ?_) ?_; (on_goal 1 => try clear_value x); (on_goal 2 => (dsimp only [x]; clear x)))
    | (extract_lets +onlyGivenNames x; refine (fun (hx : b.epoch ≤ (x : Kvt).fuses) => ?_) ?_; (on_goal 1 => try clear_value x); (on_goal 2 => (dsimp only [x]; clear x)))
    | (extract_lets +onlyGivenNames x; first | clear_value x | (dsimp only [x]; clear x) | skip)
    | with_reducible apply State.deriveKeys_kept
    | with_reducible apply State.kvtTo_kept
    | with_reducible apply State.setFlag_kept
    | with_reducible apply State.kvtRead4_kept
    | with_reducible apply State.selfFail_kept
    | split
    | (simp -zeta only [Kept_mk]; refine ⟨Kept.tabs ?_, ?_, ?_⟩)
    | with_reducible refine Kept.epochs ?_
    | with_reducible refine Kept.svns ?_
    | dsimp -zeta only [id]

theorem State.rejected_kept {s : State} (hs : Kept b s) (l : List Nat) : Kept b (State.rejected s l) := by
  unfold State.rejected
  repeat' first
    | with_reducible assumption
    | intro _
    | (extract_lets +onlyGivenNames x; refine (fun (hx : Kept b x) => ?_) ?_; (on_goal 1 => try clear_value x); (on_goal 2 => (dsimp only [x]; clear x)))
    | (extract_lets +onlyGivenNames x; refine (fun (hx : Kept b x.2) => ?_) ?_; (on_goal 1 => try clear_value x); (on_goal 2 => (dsimp only [x]; clear x)))
    | (extract_lets +onlyGivenNames x; refine (fun (hx : Kept b x.1) => ?_) ?_; (on_goal 1 => try clear_value x); (on_goal 2 => (dsimp only [x]; clear x)))
    | (extract_lets +onlyGivenNames x; first | clear_value x | (dsimp only [x]; clear x) | skip)
    | with_reducible apply State.bump_kept
    | with_reducible apply State.secEvt_kept
    | with_reducible refine Kept_foldl ?_ ?_
    | with_reducible refine Kept_foldl2 ?_ ?_
    | with_reducible refine Kept_foldl1 ?_ ?_
    | split
    | (simp -zeta only [Kept_mk]; refine ⟨Kept.tabs ?_, ?_, ?_⟩)
    | with_reducible refine Kept.epochs ?_
    | with_reducible refine Kept.svns ?_
    | dsimp -zeta only [id]

theorem State.storeLoad_kept {s : State} (hs : Kept b s) (k : KeyStore) (r : Sealed) : Kept b (State.storeLoad s k r) := by
  unfold State.storeLoad
  repeat' first
    | with_reducible assumption
    | intro _
    | (extract_lets +onlyGivenNames x; refine (fun (hx : Kept b x) => ?_) ?_; (on_goal 1 => try clear_value x); (on_goal 2 => (dsimp only [x]; clear x)))
    | (extract_lets +onlyGivenNames x; refine (fun (hx : Kept b x.2) => ?_) ?_; (on_goal 1 => try clear_value x); (on_goal 2 => (dsimp only [x]; clear x)))
    | (extract_lets +onlyGivenNames x; refine (fun (hx : Kept b x.1) => ?_) ?_; (on_goal 1 => try clear_value x); (on_goal 2 => (dsimp only [x]; clear x)))
    | (extract_lets +onlyGivenNames x; refine (fun (hx : b.epoch ≤ (x : Kvt).fuses) => ?_) ?_; (on_goal 1 => try clear_value x); (on_goal 2 => (dsimp only [x]; clear x)))
    | (extract_lets +onlyGivenNames x; first | clear_value x | (dsimp only [x]; clear x) | skip)
    | with_reducible apply State.burnOne_kept
    | with_reducible apply State.rejected_kept
    | with_reducible apply State.setKumhw_kept
    | with_reducible apply State.setSealgen_kept
    | with_reducible apply State.kvtTo_kept
    | with_reducible apply State.fire_kept
    | with_reducible apply State.journalAdd_kept
    | with_reducible refine Kept_foldl ?_ ?_
    | with_reducible refine Kept_foldl2 ?_ ?_
    | with_reducible refine Kept_foldl1 ?_ ?_
    | split
    | (simp -zeta only [Kept_mk]; refine ⟨Kept.tabs ?_, ?_, ?_⟩)
    | with_reducible refine Kept.epochs ?_
    | with_reducible refine Kept.svns ?_
    | dsimp -zeta only [id]

theorem State.storeRolled_kept {s : State} (hs : Kept b s) (k : KeyStore) (hw : Nat) (gen : Nat) (cause : Nat) : Kept b (State.storeRolled s k hw gen cause) := by
  unfold State.storeRolled
  repeat' first
    | with_reducible assumption
    | intro _
    | (extract_lets +onlyGivenNames x; refine (fun (hx : Kept b x) => ?_) ?_; (on_goal 1 => try clear_value x); (on_goal 2 => (dsimp only [x]; clear x)))
    | (extract_lets +onlyGivenNames x; refine (fun (hx : b.epoch ≤ (x : Kvt).fuses) => ?_) ?_; (on_goal 1 => try clear_value x); (on_goal 2 => (dsimp only [x]; clear x)))
    | (extract_lets +onlyGivenNames x; first | clear_value x | (dsimp only [x]; clear x) | skip)
    | with_reducible apply State.setKumhw_kept
    | with_reducible apply State.setSealgen_kept
    | with_reducible apply State.kvtTo_kept
    | with_reducible apply State.secEvt_kept
    | with_reducible apply State.fire_kept
    | split
    | (simp -zeta only [Kept_mk]; refine ⟨Kept.tabs ?_, ?_, ?_⟩)
    | with_reducible refine Kept.epochs ?_
    | with_reducible refine Kept.svns ?_
    | dsimp -zeta only [id]

theorem execKvtKeystoreLoad_kept (found : Option KeyStore) {s : State} (hs : Kept b s) : KeptOut b (execKvtKeystoreLoad found s) := by
  unfold execKvtKeystoreLoad
  repeat' first
    | with_reducible assumption
    | with_reducible refine KeptOut_next ?_
    | intro _
    | (extract_lets +onlyGivenNames x; refine (fun (hx : Kept b x) => ?_) ?_; (on_goal 1 => try clear_value x); (on_goal 2 => (dsimp only [x]; clear x)))
    | (extract_lets +onlyGivenNames x; refine (fun (hx : b.epoch ≤ (x : Kvt).fuses) => ?_) ?_; (on_goal 1 => try clear_value x); (on_goal 2 => (dsimp only [x]; clear x)))
    | (extract_lets +onlyGivenNames x; first | clear_value x | (dsimp only [x]; clear x) | skip)
    | with_reducible apply State.store_kept
    | with_reducible apply State.storeLoad_kept
    | with_reducible apply State.storeRolled_kept
    | split
    | (simp -zeta only [Kept_mk]; refine ⟨Kept.tabs ?_, ?_, ?_⟩)
    | with_reducible refine Kept.epochs ?_
    | with_reducible refine Kept.svns ?_
    | dsimp -zeta only [id]

theorem execKvtWrappedStoreWrite_kept {s : State} (hs : Kept b s) : KeptOut b (execKvtWrappedStoreWrite s) := by
  unfold execKvtWrappedStoreWrite
  repeat' first
    | with_reducible assumption
    | with_reducible refine KeptOut_next ?_
    | with_reducible apply State.setFlag_kept
    | split
    | dsimp -zeta only [id]

theorem execKvtKeystateError_kept {s : State} (hs : Kept b s) : KeptOut b (execKvtKeystateError s) := by
  unfold execKvtKeystateError
  repeat' first
    | with_reducible assumption
    | with_reducible refine KeptOut_next ?_
    | intro _
    | (extract_lets +onlyGivenNames x; refine (fun (hx : Kept b x) => ?_) ?_; (on_goal 1 => try clear_value x); (on_goal 2 => (dsimp only [x]; clear x)))
    | (extract_lets +onlyGivenNames x; first | clear_value x | (dsimp only [x]; clear x) | skip)
    | with_reducible apply State.keyState_kept
    | split
    | (simp -zeta only [Kept_mk]; refine ⟨Kept.tabs ?_, ?_, ?_⟩)
    | with_reducible refine Kept.epochs ?_
    | with_reducible refine Kept.svns ?_
    | dsimp -zeta only [id]

theorem execCryReseed_kept (rq : Req) {s : State} (hs : Kept b s) : KeptOut b (execCryReseed rq s) := by
  unfold execCryReseed
  repeat' first
    | with_reducible assumption
    | with_reducible refine KeptOut_next ?_
    | intro _
    | (extract_lets +onlyGivenNames x; refine (fun (hx : Kept b x) => ?_) ?_; (on_goal 1 => try clear_value x); (on_goal 2 => (dsimp only [x]; clear x)))
    | (extract_lets +onlyGivenNames x; refine (fun (hx : b.epoch ≤ (x : Kvt).fuses) => ?_) ?_; (on_goal 1 => try clear_value x); (on_goal 2 => (dsimp only [x]; clear x)))
    | (extract_lets +onlyGivenNames x; first | clear_value x | (dsimp only [x]; clear x) | skip)
    | with_reducible apply State.gated_kept
    | with_reducible apply State.bump_kept
    | split
    | (simp -zeta only [Kept_mk]; refine ⟨Kept.tabs ?_, ?_, ?_⟩)
    | with_reducible refine Kept.epochs ?_
    | with_reducible refine Kept.svns ?_
    | dsimp -zeta only [id]

theorem execCryRngRead_kept (rq : Req) {s : State} (hs : Kept b s) : KeptOut b (execCryRngRead rq s) := by
  unfold execCryRngRead
  repeat' first
    | with_reducible assumption
    | with_reducible refine KeptOut_next ?_
    | with_reducible apply State.respond_kept
    | with_reducible apply State.recordFault_kept
    | with_reducible apply State.drbgDraw_kept
    | split
    | dsimp -zeta only [id]

theorem execDrbgHealthFail_kept {s : State} (hs : Kept b s) : KeptOut b (execDrbgHealthFail s) := by
  unfold execDrbgHealthFail
  repeat' first
    | with_reducible assumption
    | with_reducible refine KeptOut_next ?_
    | intro _
    | (extract_lets +onlyGivenNames x; refine (fun (hx : Kept b x) => ?_) ?_; (on_goal 1 => try clear_value x); (on_goal 2 => (dsimp only [x]; clear x)))
    | (extract_lets +onlyGivenNames x; refine (fun (hx : b.epoch ≤ (x : Kvt).fuses) => ?_) ?_; (on_goal 1 => try clear_value x); (on_goal 2 => (dsimp only [x]; clear x)))
    | (extract_lets +onlyGivenNames x; first | clear_value x | (dsimp only [x]; clear x) | skip)
    | with_reducible apply State.bump_kept
    | with_reducible apply State.setFlag_kept
    | with_reducible apply State.secEvt_kept
    | with_reducible apply State.fire_kept
    | split
    | (simp -zeta only [Kept_mk]; refine ⟨Kept.tabs ?_, ?_, ?_⟩)
    | with_reducible refine Kept.epochs ?_
    | with_reducible refine Kept.svns ?_
    | dsimp -zeta only [id]

theorem State.jobKey_kept {s : State} (hs : Kept b s) (slot : Option Nat) (given : List Octet) : Kept b (State.jobKey s slot given).2 := by
  unfold State.jobKey
  repeat' first
    | with_reducible assumption
    | intro _
    | (extract_lets +onlyGivenNames x; refine (fun (hx : Kept b x) => ?_) ?_; (on_goal 1 => try clear_value x); (on_goal 2 => (dsimp only [x]; clear x)))
    | (extract_lets +onlyGivenNames x; refine (fun (hx : Kept b x.2) => ?_) ?_; (on_goal 1 => try clear_value x); (on_goal 2 => (dsimp only [x]; clear x)))
    | (extract_lets +onlyGivenNames x; refine (fun (hx : Kept b x.1) => ?_) ?_; (on_goal 1 => try clear_value x); (on_goal 2 => (dsimp only [x]; clear x)))
    | (extract_lets +onlyGivenNames x; first | clear_value x | (dsimp only [x]; clear x) | skip)
    | with_reducible apply State.keyRequest_kept
    | with_reducible refine State.keyRequest_kept' ?_ _ _ ‹_›
    | split
    | (simp -zeta only [Kept_mk]; refine ⟨Kept.tabs ?_, ?_, ?_⟩)
    | with_reducible refine Kept.epochs ?_
    | with_reducible refine Kept.svns ?_
    | dsimp -zeta only [id]

theorem State.jobKey_kept' {s : State} (hs : Kept b s) (slot : Option Nat) (given : List Octet) {r1 : _} {t1 : State} (e1 : State.jobKey s slot given = (r1, t1)) : Kept b t1 := by
  have := State.jobKey_kept (b := b) hs slot given
  rw [e1] at this
  exact this

theorem State.jobDone_kept {s : State} (hs : Kept b s) (c : Nat) (err : Bool) (r : Option (List Octet)) : Kept b (State.jobDone s c err r) := by
  unfold State.jobDone
  repeat' first
    | with_reducible assumption
    | intro _
    | (extract_lets +onlyGivenNames x; refine (fun (hx : Kept b x) => ?_) ?_; (on_goal 1 => try clear_value x); (on_goal 2 => (dsimp only [x]; clear x)))
    | (extract_lets +onlyGivenNames x; refine (fun (hx : b.epoch ≤ (x : Kvt).fuses) => ?_) ?_; (on_goal 1 => try clear_value x); (on_goal 2 => (dsimp only [x]; clear x)))
    | (extract_lets +onlyGivenNames x; first | clear_value x | (dsimp only [x]; clear x) | skip)
    | with_reducible apply State.bump_kept
    | with_reducible apply State.fire_kept
    | with_reducible apply State.reportNow_kept
    | split
    | (simp -zeta only [Kept_mk]; refine ⟨Kept.tabs ?_, ?_, ?_⟩)
    | with_reducible refine Kept.epochs ?_
    | with_reducible refine Kept.svns ?_
    | dsimp -zeta only [id]

theorem State.jobRefused_kept {s : State} (hs : Kept b s) : Kept b (State.jobRefused s) := by
  unfold State.jobRefused
  repeat' first
    | with_reducible assumption
    | intro _
    | (extract_lets +onlyGivenNames x; refine (fun (hx : Kept b x) => ?_) ?_; (on_goal 1 => try clear_value x); (on_goal 2 => (dsimp only [x]; clear x)))
    | (extract_lets +onlyGivenNames x; refine (fun (hx : b.epoch ≤ (x : Kvt).fuses) => ?_) ?_; (on_goal 1 => try clear_value x); (on_goal 2 => (dsimp only [x]; clear x)))
    | (extract_lets +onlyGivenNames x; first | clear_value x | (dsimp only [x]; clear x) | skip)
    | split
    | (simp -zeta only [Kept_mk]; refine ⟨Kept.tabs ?_, ?_, ?_⟩)
    | with_reducible refine Kept.epochs ?_
    | with_reducible refine Kept.svns ?_
    | dsimp -zeta only [id]

theorem State.aesJob_kept {s : State} (hs : Kept b s) (j : AesJob) (slot : Option Nat) (err : Bool) : Kept b (State.aesJob s j slot err) := by
  unfold State.aesJob
  repeat' first
    | with_reducible assumption
    | intro _
    | (extract_lets +onlyGivenNames x; refine (fun (hx : Kept b x) => ?_) ?_; (on_goal 1 => try clear_value x); (on_goal 2 => (dsimp only [x]; clear x)))
    | (extract_lets +onlyGivenNames x; refine (fun (hx : Kept b x.2) => ?_) ?_; (on_goal 1 => try clear_value x); (on_goal 2 => (dsimp only [x]; clear x)))
    | (extract_lets +onlyGivenNames x; refine (fun (hx : Kept b x.1) => ?_) ?_; (on_goal 1 => try clear_value x); (on_goal 2 => (dsimp only [x]; clear x)))
    | (extract_lets +onlyGivenNames x; first | clear_value x | (dsimp only [x]; clear x) | skip)
    | with_reducible apply State.jobRefused_kept
    | with_reducible apply State.jobKey_kept
    | with_reducible refine State.jobKey_kept' ?_ _ _ ‹_›
    | with_reducible apply State.jobDone_kept
    | split
    | (simp -zeta only [Kept_mk]; refine ⟨Kept.tabs ?_, ?_, ?_⟩)
    | with_reducible refine Kept.epochs ?_
    | with_reducible refine Kept.svns ?_
    | dsimp -zeta only [id]

theorem State.pkJob_kept {s : State} (hs : Kept b s) (j : PkJob) (err : Bool) : Kept b (State.pkJob s j err) := by
  unfold State.pkJob
  repeat' first
    | with_reducible assumption
    | intro _
    | (extract_lets +onlyGivenNames x; refine (fun (hx : Kept b x) => ?_) ?_; (on_goal 1 => try clear_value x); (on_goal 2 => (dsimp only [x]; clear x)))
    | (extract_lets +onlyGivenNames x; first | clear_value x | (dsimp only [x]; clear x) | skip)
    | with_reducible apply State.jobDone_kept
    | with_reducible apply State.jobRefused_kept
    | with_reducible apply State.drbgDraw_kept
    | split
    | (simp -zeta only [Kept_mk]; refine ⟨Kept.tabs ?_, ?_, ?_⟩)
    | with_reducible refine Kept.epochs ?_
    | with_reducible refine Kept.svns ?_
    | dsimp -zeta only [id]

theorem State.hashJob_kept {s : State} (hs : Kept b s) (j : HashJob) (slot : Option Nat) (err : Bool) : Kept b (State.hashJob s j slot err) := by
  have mac : ∀ (f : List Octet → List Octet → List Octet) (given msg : List Octet), Kept b (match s.jobKey slot given with
      | (none, t) => t.jobRefused
      | (some key, t) => t.jobDone Ctr.CRY_HASHJOB err (some (f key msg))) := by
    intro f given msg
    have k := State.jobKey_kept hs slot given
    revert k
    rcases s.jobKey slot given with ⟨_ | key, t⟩ <;> intro k
    · exact State.jobRefused_kept k
    · exact State.jobDone_kept k _ _ _
  unfold State.hashJob
  split
  · exact State.jobDone_kept hs _ _ _
  · exact State.jobDone_kept hs _ _ _
  · exact mac hmac256 _ _
  · exact mac hmac384 _ _

theorem execCryJob_kept (kind : CryKind) (slot : Option Nat) (err : Bool) {s : State} (hs : Kept b s) : KeptOut b (execCryJob kind slot err s) := by
  unfold execCryJob
  repeat' first
    | with_reducible assumption
    | with_reducible refine KeptOut_next ?_
    | intro _
    | (extract_lets +onlyGivenNames x; refine (fun (hx : Kept b x) => ?_) ?_; (on_goal 1 => try clear_value x); (on_goal 2 => (dsimp only [x]; clear x)))
    | (extract_lets +onlyGivenNames x; refine (fun (hx : b.epoch ≤ (x : Kvt).fuses) => ?_) ?_; (on_goal 1 => try clear_value x); (on_goal 2 => (dsimp only [x]; clear x)))
    | (extract_lets +onlyGivenNames x; first | clear_value x | (dsimp only [x]; clear x) | skip)
    | with_reducible apply State.aesJob_kept
    | with_reducible apply State.pkJob_kept
    | with_reducible apply State.hashJob_kept
    | with_reducible apply State.drbgDraw_kept
    | with_reducible apply State.fire_kept
    | with_reducible apply State.reportNow_kept
    | with_reducible apply State.jobRefused_kept
    | split
    | (simp -zeta only [Kept_mk]; refine ⟨Kept.tabs ?_, ?_, ?_⟩)
    | with_reducible refine Kept.epochs ?_
    | with_reducible refine Kept.svns ?_
    | dsimp -zeta only [id]

end Sys2Proof.Machine
end

