-- ==== Sys2Proof/Laws/KeptBgt.lean ====
section
/-! SUPPORT. What the operations of Machine/Bgt.lean keep: queue, canonical tables, fuses. -/

set_option linter.unusedTactic false
set_option linter.unreachableTactic false
set_option linter.unusedVariables false
set_option linter.tactic.unusedName false

namespace Sys2Proof.Machine

variable {b : Base}

/-! ### Bgt -/

theorem State.putAcct_kept {s : State} (hs : Kept b s) (key : ℕ) (a : Account) : Kept b (State.putAcct s key a) := by
  unfold State.putAcct
  repeat' first
    | with_reducible assumption
    | (extract_lets +onlyGivenNames x; refine (fun (hx : Kept b x) => ?_) ?_; (on_goal 1 => try clear_value x); (on_goal 2 => (dsimp only [x]; clear x)))
    | (extract_lets +onlyGivenNames x; first | clear_value x | (dsimp only [x]; clear x) | skip)
    | (simp -zeta only [Kept_mk]; refine ⟨Kept.tabs ?_, ?_, ?_⟩)
    | with_reducible refine Kept.epochs ?_
    | with_reducible refine Kept.svns ?_
    | dsimp -zeta only [id]

theorem State.setExh_kept {s : State} (hs : Kept b s) (ks : List ℕ) (bx : Bool) : Kept b (State.setExh s ks bx) := by
  unfold State.setExh
  repeat' first
    | with_reducible assumption
    | intro _
    | (extract_lets +onlyGivenNames x; refine (fun (hx : Kept b x) => ?_) ?_; (on_goal 1 => try clear_value x); (on_goal 2 => (dsimp only [x]; clear x)))
    | (extract_lets +onlyGivenNames x; first | clear_value x | (dsimp only [x]; clear x) | skip)
    | with_reducible apply State.fireIf_kept
    | with_reducible apply State.setFld_kept
    | with_reducible refine Kept_foldl ?_ ?_
    | with_reducible refine Kept_foldl2 ?_ ?_
    | with_reducible refine Kept_foldl1 ?_ ?_
    | dsimp -zeta only [id]

theorem State.charge_kept {s : State} (hs : Kept b s) (id : ℕ) (f : ℕ) (sp : ℕ) (start : ℕ) (dur : ℕ) (rate : ℕ) (kind : TxKind) : Kept b (State.charge s id f sp start dur rate kind).2 := by
  unfold State.charge
  repeat' first
    | with_reducible assumption
    | intro _
    | (extract_lets +onlyGivenNames x; refine (fun (hx : Kept b x) => ?_) ?_; (on_goal 1 => try clear_value x); (on_goal 2 => (dsimp only [x]; clear x)))
    | (extract_lets +onlyGivenNames x; first | clear_value x | (dsimp only [x]; clear x) | skip)
    | with_reducible apply State.bump_kept
    | with_reducible apply State.setExh_kept
    | with_reducible apply State.fireIf_kept
    | with_reducible apply State.putAcct_kept
    | with_reducible refine Kept_foldl ?_ ?_
    | with_reducible refine Kept_foldl2 ?_ ?_
    | with_reducible refine Kept_foldl1 ?_ ?_
    | split
    | (simp -zeta only [Kept_mk]; refine ⟨Kept.tabs ?_, ?_, ?_⟩)
    | with_reducible refine Kept.epochs ?_
    | with_reducible refine Kept.svns ?_
    | dsimp -zeta only [id]

theorem State.charge_kept' {s : State} (hs : Kept b s) (id : ℕ) (f : ℕ) (sp : ℕ) (start : ℕ) (dur : ℕ) (rate : ℕ) (kind : TxKind) {r1 : _} {t1 : State} (e1 : State.charge s id f sp start dur rate kind = (r1, t1)) : Kept b t1 := by
  have := State.charge_kept (b := b) hs id f sp start dur rate kind
  rw [e1] at this
  exact this

theorem State.addAir_kept {s : State} (hs : Kept b s) (k : ℕ) (ns : ℕ) : Kept b (State.addAir s k ns) := by
  unfold State.addAir
  repeat' first
    | with_reducible assumption
    | (extract_lets +onlyGivenNames x; refine (fun (hx : Kept b x) => ?_) ?_; (on_goal 1 => try clear_value x); (on_goal 2 => (dsimp only [x]; clear x)))
    | (extract_lets +onlyGivenNames x; first | clear_value x | (dsimp only [x]; clear x) | skip)
    | with_reducible apply State.bump_kept
    | (simp -zeta only [Kept_mk]; refine ⟨Kept.tabs ?_, ?_, ?_⟩)
    | with_reducible refine Kept.epochs ?_
    | with_reducible refine Kept.svns ?_
    | dsimp -zeta only [id]

theorem State.settle_kept {s : State} (hs : Kept b s) (id : ℕ) (chips : Option ℕ) (full : Bool) : Kept b (State.settle s id chips full) := by
  unfold State.settle
  repeat' first
    | with_reducible assumption
    | intro _
    | (extract_lets +onlyGivenNames x; refine (fun (hx : Kept b x) => ?_) ?_; (on_goal 1 => try clear_value x); (on_goal 2 => (dsimp only [x]; clear x)))
    | (extract_lets +onlyGivenNames x; refine (fun (hx : Kept b x.2) => ?_) ?_; (on_goal 1 => try clear_value x); (on_goal 2 => (dsimp only [x]; clear x)))
    | (extract_lets +onlyGivenNames x; refine (fun (hx : Kept b x.1) => ?_) ?_; (on_goal 1 => try clear_value x); (on_goal 2 => (dsimp only [x]; clear x)))
    | (extract_lets +onlyGivenNames x; first | clear_value x | (dsimp only [x]; clear x) | skip)
    | with_reducible apply State.addAir_kept
    | with_reducible apply State.putAcct_kept
    | with_reducible apply State.bump_kept
    | with_reducible refine Kept_foldl ?_ ?_
    | with_reducible refine Kept_foldl2 ?_ ?_
    | with_reducible refine Kept_foldl1 ?_ ?_
    | split
    | (simp -zeta only [Kept_mk]; refine ⟨Kept.tabs ?_, ?_, ?_⟩)
    | with_reducible refine Kept.epochs ?_
    | with_reducible refine Kept.svns ?_
    | dsimp -zeta only [id]

theorem State.ccaStart_kept {s : State} (hs : Kept b s) (id : Nat) (user : TxUser) (n : Nat) (slice : Nat) (win : Nat) (thr : Int) (energy : Bool) (carrier : Bool) (wd : Nat × Nat) : Kept b (State.ccaStart s id user n slice win thr energy carrier wd) := by
  unfold State.ccaStart
  repeat' first
    | with_reducible assumption
    | intro _
    | (extract_lets +onlyGivenNames x; refine (fun (hx : Kept b x) => ?_) ?_; (on_goal 1 => try clear_value x); (on_goal 2 => (dsimp only [x]; clear x)))
    | (extract_lets +onlyGivenNames x; first | clear_value x | (dsimp only [x]; clear x) | skip)
    | with_reducible apply State.setPort_kept
    | split
    | (simp -zeta only [Kept_mk]; refine ⟨Kept.tabs ?_, ?_, ?_⟩)
    | with_reducible refine Kept.epochs ?_
    | with_reducible refine Kept.svns ?_
    | dsimp -zeta only [id]

theorem State.bgtRequest_kept {s : State} (hs : Kept b s) (id : Nat) (kind : TxKind) (chips : Nat) : Kept b (State.bgtRequest s id kind chips).2 := by
  unfold State.bgtRequest
  repeat' first
    | with_reducible assumption
    | intro _
    | (extract_lets +onlyGivenNames x; refine (fun (hx : Kept b x) => ?_) ?_; (on_goal 1 => try clear_value x); (on_goal 2 => (dsimp only [x]; clear x)))
    | (extract_lets +onlyGivenNames x; refine (fun (hx : Kept b x.2) => ?_) ?_; (on_goal 1 => try clear_value x); (on_goal 2 => (dsimp only [x]; clear x)))
    | (extract_lets +onlyGivenNames x; refine (fun (hx : Kept b x.1) => ?_) ?_; (on_goal 1 => try clear_value x); (on_goal 2 => (dsimp only [x]; clear x)))
    | (extract_lets +onlyGivenNames x; first | clear_value x | (dsimp only [x]; clear x) | skip)
    | with_reducible apply State.charge_kept
    | with_reducible refine State.charge_kept' ?_ _ _ _ _ _ _ _ ‹_›
    | with_reducible apply State.ccaStart_kept
    | split
    | (simp -zeta only [Kept_mk]; refine ⟨Kept.tabs ?_, ?_, ?_⟩)
    | with_reducible refine Kept.epochs ?_
    | with_reducible refine Kept.svns ?_
    | dsimp -zeta only [id]

theorem State.bgtRequest_kept' {s : State} (hs : Kept b s) (id : Nat) (kind : TxKind) (chips : Nat) {r1 : _} {t1 : State} (e1 : State.bgtRequest s id kind chips = (r1, t1)) : Kept b t1 := by
  have := State.bgtRequest_kept (b := b) hs id kind chips
  rw [e1] at this
  exact this

theorem execCcaRequest_kept (t : Time) (id : Nat) (user : TxUser) (n : Nat) (slice : Nat) (win : Nat) (thr : Int) (mode : CcaMode) {s : State} (hs : Kept b s) : KeptOut b (execCcaRequest t id user n slice win thr mode s) := by
  unfold execCcaRequest
  repeat' first
    | with_reducible assumption
    | with_reducible refine KeptOut_next ?_
    | intro _
    | (extract_lets +onlyGivenNames x; refine (fun (hx : Kept b x) => ?_) ?_; (on_goal 1 => try clear_value x); (on_goal 2 => (dsimp only [x]; clear x)))
    | (extract_lets +onlyGivenNames x; first | clear_value x | (dsimp only [x]; clear x) | skip)
    | with_reducible apply State.at_kept
    | with_reducible apply State.ccaStart_kept
    | split
    | (simp -zeta only [Kept_mk]; refine ⟨Kept.tabs ?_, ?_, ?_⟩)
    | with_reducible refine Kept.epochs ?_
    | with_reducible refine Kept.svns ?_
    | dsimp -zeta only [id]

theorem execBgtCharge_kept (t : Time) (id : ℕ) (kind : TxKind) (chips : ℕ) {s : State} (hs : Kept b s) : KeptOut b (execBgtCharge t id kind chips s) := by
  unfold execBgtCharge
  repeat' first
    | with_reducible assumption
    | with_reducible refine KeptOut_next ?_
    | with_reducible apply State.bgtRequest_kept
    | with_reducible refine State.bgtRequest_kept' ?_ _ _ _ ‹_›
    | with_reducible apply State.at_kept
    | dsimp -zeta only [id]

theorem execBucketAdvance_kept (t : Time) {s : State} (hs : Kept b s) : KeptOut b (execBucketAdvance t s) := by
  unfold execBucketAdvance
  repeat' first
    | with_reducible assumption
    | with_reducible refine KeptOut_next ?_
    | intro _
    | (extract_lets +onlyGivenNames x; refine (fun (hx : Kept b x) => ?_) ?_; (on_goal 1 => try clear_value x); (on_goal 2 => (dsimp only [x]; clear x)))
    | (extract_lets +onlyGivenNames x; first | clear_value x | (dsimp only [x]; clear x) | skip)
    | with_reducible apply State.at_kept
    | (simp -zeta only [Kept_mk]; refine ⟨Kept.tabs ?_, ?_, ?_⟩)
    | with_reducible refine Kept.epochs ?_
    | with_reducible refine Kept.svns ?_
    | dsimp -zeta only [id]

theorem State.bgtStart_kept {s : State} (hs : Kept b s) : Kept b (State.bgtStart s) := by
  unfold State.bgtStart
  repeat' first
    | with_reducible assumption
    | intro _
    | (extract_lets +onlyGivenNames x; refine (fun (hx : Kept b x) => ?_) ?_; (on_goal 1 => try clear_value x); (on_goal 2 => (dsimp only [x]; clear x)))
    | (extract_lets +onlyGivenNames x; first | clear_value x | (dsimp only [x]; clear x) | skip)
    | with_reducible apply State.fire_kept
    | with_reducible apply State.bump_kept
    | with_reducible apply State.setFlag_kept
    | with_reducible refine Kept_foldl ?_ ?_
    | with_reducible refine Kept_foldl2 ?_ ?_
    | with_reducible refine Kept_foldl1 ?_ ?_
    | split
    | (simp -zeta only [Kept_mk]; refine ⟨Kept.tabs ?_, ?_, ?_⟩)
    | with_reducible refine Kept.epochs ?_
    | with_reducible refine Kept.svns ?_
    | dsimp -zeta only [id]

theorem State.acctError_kept {s : State} (hs : Kept b s) (key : ℕ) : Kept b (State.acctError s key) := by
  unfold State.acctError
  repeat' first
    | with_reducible assumption
    | (extract_lets +onlyGivenNames x; refine (fun (hx : Kept b x) => ?_) ?_; (on_goal 1 => try clear_value x); (on_goal 2 => (dsimp only [x]; clear x)))
    | (extract_lets +onlyGivenNames x; first | clear_value x | (dsimp only [x]; clear x) | skip)
    | with_reducible apply State.putAcct_kept
    | with_reducible apply State.reportNow_kept
    | with_reducible apply State.strike_kept
    | with_reducible apply State.fire_kept
    | with_reducible apply State.bump_kept
    | (simp -zeta only [Kept_mk]; refine ⟨Kept.tabs ?_, ?_, ?_⟩)
    | with_reducible refine Kept.epochs ?_
    | with_reducible refine Kept.svns ?_
    | dsimp -zeta only [id]

end Sys2Proof.Machine
end

