-- ==== Sys2Proof/Laws/KeptMac.lean ====
section
/-! SUPPORT. What the operations of Machine/Mac.lean keep: queue, canonical tables, fuses. -/

set_option linter.unusedTactic false
set_option linter.unreachableTactic false
set_option linter.unusedVariables false
set_option linter.tactic.unusedName false

namespace Sys2Proof.Machine

variable {b : Base}

/-! ### Mac -/

theorem State.exhaust_kept {s : State} (hs : Kept b s) (n : ℕ) : Kept b (State.exhaust s n) := by
  unfold State.exhaust
  repeat' first
    | with_reducible assumption
    | (extract_lets +onlyGivenNames x; refine (fun (hx : Kept b x) => ?_) ?_; (on_goal 1 => try clear_value x); (on_goal 2 => (dsimp only [x]; clear x)))
    | (extract_lets +onlyGivenNames x; first | clear_value x | (dsimp only [x]; clear x) | skip)
    | with_reducible apply State.fire_kept
    | split
    | (simp -zeta only [Kept_mk]; refine ⟨Kept.tabs ?_, ?_, ?_⟩)
    | with_reducible refine Kept.epochs ?_
    | with_reducible refine Kept.svns ?_
    | dsimp -zeta only [id]

theorem State.fcntReady_kept {s : State} (hs : Kept b s) (n : ℕ) : Kept b (State.fcntReady s n).2 := by
  unfold State.fcntReady
  repeat' first
    | with_reducible assumption
    | (extract_lets +onlyGivenNames x; refine (fun (hx : Kept b x) => ?_) ?_; (on_goal 1 => try clear_value x); (on_goal 2 => (dsimp only [x]; clear x)))
    | (extract_lets +onlyGivenNames x; first | clear_value x | (dsimp only [x]; clear x) | skip)
    | with_reducible apply State.exhaust_kept
    | with_reducible apply State.fire_kept
    | with_reducible apply State.blockRequest_kept
    | split
    | (simp -zeta only [Kept_mk]; refine ⟨Kept.tabs ?_, ?_, ?_⟩)
    | with_reducible refine Kept.epochs ?_
    | with_reducible refine Kept.svns ?_
    | dsimp -zeta only [id]

theorem State.fcntReady_kept' {s : State} (hs : Kept b s) (n : ℕ) {r1 : _} {t1 : State} (e1 : State.fcntReady s n = (r1, t1)) : Kept b t1 := by
  have := State.fcntReady_kept (b := b) hs n
  rw [e1] at this
  exact this

theorem State.takeFcnt_kept {s : State} (hs : Kept b s) (n : ℕ) : Kept b (State.takeFcnt s n).2 := by
  unfold State.takeFcnt
  repeat' first
    | with_reducible assumption
    | (extract_lets +onlyGivenNames x; refine (fun (hx : Kept b x) => ?_) ?_; (on_goal 1 => try clear_value x); (on_goal 2 => (dsimp only [x]; clear x)))
    | (extract_lets +onlyGivenNames x; first | clear_value x | (dsimp only [x]; clear x) | skip)
    | with_reducible apply State.fcntReady_kept
    | with_reducible refine State.fcntReady_kept' ?_ _ ‹_›
    | with_reducible apply State.blockRequest_kept
    | with_reducible apply State.exhaust_kept
    | split
    | (simp -zeta only [Kept_mk]; refine ⟨Kept.tabs ?_, ?_, ?_⟩)
    | with_reducible refine Kept.epochs ?_
    | with_reducible refine Kept.svns ?_
    | dsimp -zeta only [id]

theorem State.takeFcnt_kept' {s : State} (hs : Kept b s) (n : ℕ) {r1 : _} {t1 : State} (e1 : State.takeFcnt s n = (r1, t1)) : Kept b t1 := by
  have := State.takeFcnt_kept (b := b) hs n
  rw [e1] at this
  exact this

theorem State.launch_kept {s : State} (hs : Kept b s) (p : ℕ) (k : ℕ) (start : ℕ) (lh : ℕ) (hx : Hdr) (kind : TxKind) : Kept b (State.launch s p k start lh hx kind).2 := by
  unfold State.launch
  repeat' first
    | with_reducible assumption
    | with_reducible apply State.reserve_kept
    | with_reducible refine State.reserve_kept' ?_ _ _ _ _ _ ‹_›
    | with_reducible apply State.bgtRequest_kept
    | with_reducible refine State.bgtRequest_kept' ?_ _ _ _ ‹_›
    | with_reducible apply State.dropStream_kept
    | split
    | dsimp -zeta only [id]

theorem State.launch_kept' {s : State} (hs : Kept b s) (p : ℕ) (k : ℕ) (start : ℕ) (lh : ℕ) (hx : Hdr) (kind : TxKind) {r1 : _} {t1 : State} (e1 : State.launch s p k start lh hx kind = (r1, t1)) : Kept b t1 := by
  have := State.launch_kept (b := b) hs p k start lh hx kind
  rw [e1] at this
  exact this

theorem State.commitTx_kept {s : State} (hs : Kept b s) (id : ℕ) (x : MsqTx) : Kept b (State.commitTx s id x) := by
  unfold State.commitTx
  repeat' first
    | with_reducible assumption
    | (extract_lets +onlyGivenNames x; refine (fun (hx : Kept b x) => ?_) ?_; (on_goal 1 => try clear_value x); (on_goal 2 => (dsimp only [x]; clear x)))
    | (extract_lets +onlyGivenNames x; first | clear_value x | (dsimp only [x]; clear x) | skip)
    | with_reducible apply State.cdcRequest_kept
    | (simp -zeta only [Kept_mk]; refine ⟨Kept.tabs ?_, ?_, ?_⟩)
    | with_reducible refine Kept.epochs ?_
    | with_reducible refine Kept.svns ?_
    | dsimp -zeta only [id]

end Sys2Proof.Machine
end

