-- ==== Sys2Proof/Laws/KeptMsqRx.lean ====
section
/-! SUPPORT. What the operations of Machine/MsqRx.lean keep: queue, canonical tables, fuses. -/

set_option linter.unusedTactic false
set_option linter.unreachableTactic false
set_option linter.unusedVariables false
set_option linter.tactic.unusedName false

namespace Sys2Proof.Machine

variable {b : Base}

/-! ### MsqRx -/

theorem State.toPrc_kept {s : State} (hs : Kept b s) (w : ℕ) (unit : ℕ) (start : ℕ) : Kept b (State.toPrc s w unit start) := by
  unfold State.toPrc
  repeat' first
    | with_reducible assumption
    | with_reducible apply State.pushPkt_kept
    | with_reducible apply State.endPkt_kept
    | split
    | dsimp -zeta only [id]

theorem State.airIn_kept {s : State} (hs : Kept b s) (k : ℕ) (data : List Sys2Proof.Octet) (info : PktInfo) : Kept b (State.airIn s k data info).2 := by
  unfold State.airIn
  repeat' first
    | with_reducible assumption
    | with_reducible apply State.acceptPkt_kept
    | with_reducible refine State.acceptPkt_kept' ?_ _ _ _ _ _ ‹_›
    | with_reducible apply State.toPrc_kept
    | with_reducible apply State.bump_kept
    | split
    | dsimp -zeta only [id]

theorem State.airIn_kept' {s : State} (hs : Kept b s) (k : ℕ) (data : List Sys2Proof.Octet) (info : PktInfo) {r1 : _} {t1 : State} (e1 : State.airIn s k data info = (r1, t1)) : Kept b t1 := by
  have := State.airIn_kept (b := b) hs k data info
  rw [e1] at this
  exact this

theorem State.ackFail_kept {s : State} (hs : Kept b s) : Kept b (State.ackFail s) := by
  unfold State.ackFail
  repeat' first
    | with_reducible assumption
    | with_reducible apply State.fire_kept
    | with_reducible apply State.bump_kept
    | dsimp -zeta only [id]

theorem State.launchAck_kept {s : State} (hs : Kept b s) (g : ℕ) (start : ℕ) (fin : ℕ) (lh : ℕ) (hx : Hdr) (what : TxWhat) (fcnt : ℕ) (frame : List Sys2Proof.Octet) : Kept b (State.launchAck s g start fin lh hx what fcnt frame) := by
  unfold State.launchAck
  repeat' first
    | with_reducible assumption
    | (extract_lets +onlyGivenNames x; refine (fun (hx : Kept b x) => ?_) ?_; (on_goal 1 => try clear_value x); (on_goal 2 => (dsimp only [x]; clear x)))
    | (extract_lets +onlyGivenNames x; first | clear_value x | (dsimp only [x]; clear x) | skip)
    | with_reducible apply State.ackFail_kept
    | with_reducible apply State.launch_kept
    | with_reducible refine State.launch_kept' ?_ _ _ _ _ _ _ ‹_›
    | with_reducible apply State.commitTx_kept
    | split
    | dsimp -zeta only [id]

theorem State.enhAck_kept {s : State} (hs : Kept b s) (r : Nat) (n : Nbr) (key : KeySlot) (f : RxFrame) (hx0 : MacHdr) (inside : Bool) (nack : Bool) (theta : Int) : Kept b (State.enhAck s r n key f hx0 inside nack theta) := by
  unfold State.enhAck
  repeat' first
    | with_reducible assumption
    | intro _
    | (extract_lets +onlyGivenNames x; refine (fun (hx : Kept b x) => ?_) ?_; (on_goal 1 => try clear_value x); (on_goal 2 => (dsimp only [x]; clear x)))
    | (extract_lets +onlyGivenNames x; refine (fun (hx : Kept b x.2) => ?_) ?_; (on_goal 1 => try clear_value x); (on_goal 2 => (dsimp only [x]; clear x)))
    | (extract_lets +onlyGivenNames x; refine (fun (hx : Kept b x.1) => ?_) ?_; (on_goal 1 => try clear_value x); (on_goal 2 => (dsimp only [x]; clear x)))
    | (extract_lets +onlyGivenNames x; first | clear_value x | (dsimp only [x]; clear x) | skip)
    | with_reducible apply State.bump_kept
    | with_reducible apply State.fire_kept
    | with_reducible apply State.ackFail_kept
    | with_reducible apply State.takeFcnt_kept
    | with_reducible refine State.takeFcnt_kept' ?_ _ ‹_›
    | with_reducible apply State.setNbr_kept
    | with_reducible apply State.launchAck_kept
    | split
    | (simp -zeta only [Kept_mk]; refine ⟨Kept.tabs ?_, ?_, ?_⟩)
    | with_reducible refine Kept.epochs ?_
    | with_reducible refine Kept.svns ?_
    | dsimp -zeta only [id]

theorem State.immAck_kept {s : State} (hs : Kept b s) (f : RxFrame) (hx : MacHdr) : Kept b (State.immAck s f hx) := by
  unfold State.immAck
  repeat' first
    | with_reducible assumption
    | (extract_lets +onlyGivenNames x; refine (fun (hx : Kept b x) => ?_) ?_; (on_goal 1 => try clear_value x); (on_goal 2 => (dsimp only [x]; clear x)))
    | (extract_lets +onlyGivenNames x; first | clear_value x | (dsimp only [x]; clear x) | skip)
    | with_reducible apply State.bump_kept
    | with_reducible apply State.launchAck_kept
    | split
    | dsimp -zeta only [id]

theorem State.cHeard_kept {s : State} (hs : Kept b s) (hx : MacHdr) (new : Bool) : Kept b (State.cHeard s hx new) := by
  unfold State.cHeard
  repeat' first
    | with_reducible assumption
    | intro _
    | (extract_lets +onlyGivenNames x; refine (fun (hx : Kept b x) => ?_) ?_; (on_goal 1 => try clear_value x); (on_goal 2 => (dsimp only [x]; clear x)))
    | (extract_lets +onlyGivenNames x; refine (fun (hx : Kept b x.2) => ?_) ?_; (on_goal 1 => try clear_value x); (on_goal 2 => (dsimp only [x]; clear x)))
    | (extract_lets +onlyGivenNames x; refine (fun (hx : Kept b x.1) => ?_) ?_; (on_goal 1 => try clear_value x); (on_goal 2 => (dsimp only [x]; clear x)))
    | (extract_lets +onlyGivenNames x; first | clear_value x | (dsimp only [x]; clear x) | skip)
    | with_reducible apply State.fire_kept
    | with_reducible apply State.bump_kept
    | split
    | (simp -zeta only [Kept_mk]; refine ⟨Kept.tabs ?_, ?_, ?_⟩)
    | with_reducible refine Kept.epochs ?_
    | with_reducible refine Kept.svns ?_
    | dsimp -zeta only [id]

theorem State.classCIn_kept {s : State} (hs : Kept b s) (f : RxFrame) (hx : MacHdr) (node : Option ℕ) : Kept b (State.classCIn s f hx node) := by
  unfold State.classCIn
  repeat' first
    | with_reducible assumption
    | (extract_lets +onlyGivenNames x; refine (fun (hx : Kept b x) => ?_) ?_; (on_goal 1 => try clear_value x); (on_goal 2 => (dsimp only [x]; clear x)))
    | (extract_lets +onlyGivenNames x; refine (fun (hx : Kept b x.2) => ?_) ?_; (on_goal 1 => try clear_value x); (on_goal 2 => (dsimp only [x]; clear x)))
    | (extract_lets +onlyGivenNames x; refine (fun (hx : Kept b x.1) => ?_) ?_; (on_goal 1 => try clear_value x); (on_goal 2 => (dsimp only [x]; clear x)))
    | (extract_lets +onlyGivenNames x; first | clear_value x | (dsimp only [x]; clear x) | skip)
    | with_reducible apply State.immAck_kept
    | with_reducible apply State.bump_kept
    | with_reducible apply State.cHeard_kept
    | with_reducible apply State.airIn_kept
    | with_reducible refine State.airIn_kept' ?_ _ _ _ ‹_›
    | split
    | dsimp -zeta only [id]

theorem State.endHead_kept {s : State} (hs : Kept b s) (r : ℕ) (pkt : ℕ) (e : PktEnd) : Kept b (State.endHead s r pkt e) := by
  unfold State.endHead
  repeat' first
    | with_reducible assumption
    | intro _
    | with_reducible apply State.ageNow_kept
    | with_reducible apply State.endPkt_kept
    | split
    | dsimp -zeta only [id]

theorem State.downDone_kept {s : State} (hs : Kept b s) (r : ℕ) (pkt : ℕ) (acked : Bool) : Kept b (State.downDone s r pkt acked) := by
  unfold State.downDone
  repeat' first
    | with_reducible assumption
    | (extract_lets +onlyGivenNames x; refine (fun (hx : Kept b x) => ?_) ?_; (on_goal 1 => try clear_value x); (on_goal 2 => (dsimp only [x]; clear x)))
    | (extract_lets +onlyGivenNames x; first | clear_value x | (dsimp only [x]; clear x) | skip)
    | with_reducible apply State.forgetHead_kept
    | with_reducible apply State.cellsAcked_kept
    | with_reducible apply State.setNbr_kept
    | with_reducible apply State.bump_kept
    | with_reducible apply State.endHead_kept
    | split
    | (simp -zeta only [Kept_mk]; refine ⟨Kept.tabs ?_, ?_, ?_⟩)
    | with_reducible refine Kept.epochs ?_
    | with_reducible refine Kept.svns ?_
    | dsimp -zeta only [id]

theorem State.attemptFailed_kept {s : State} (hs : Kept b s) (r : Nat) (pkt : Nat) : Kept b (State.attemptFailed s r pkt) := by
  unfold State.attemptFailed
  repeat' first
    | with_reducible assumption
    | intro _
    | (extract_lets +onlyGivenNames x; refine (fun (hx : Kept b x) => ?_) ?_; (on_goal 1 => try clear_value x); (on_goal 2 => (dsimp only [x]; clear x)))
    | (extract_lets +onlyGivenNames x; first | clear_value x | (dsimp only [x]; clear x) | skip)
    | with_reducible apply State.forgetHead_kept
    | with_reducible apply State.setNbr_kept
    | with_reducible apply State.endHead_kept
    | with_reducible apply State.bump_kept
    | with_reducible apply State.fire_kept
    | with_reducible apply State.cellsDropped_kept
    | split
    | (simp -zeta only [Kept_mk]; refine ⟨Kept.tabs ?_, ?_, ?_⟩)
    | with_reducible refine Kept.epochs ?_
    | with_reducible refine Kept.svns ?_
    | dsimp -zeta only [id]

theorem State.tryBeacon_kept {s : State} (hs : Kept b s) (hx : MacHdr) (l : List Sys2Proof.Octet) (n : ℕ) : Kept b (State.tryBeacon s hx l n).2 := by
  unfold State.tryBeacon
  repeat' first
    | with_reducible assumption
    | (extract_lets +onlyGivenNames x; refine (fun (hx : Kept b x) => ?_) ?_; (on_goal 1 => try clear_value x); (on_goal 2 => (dsimp only [x]; clear x)))
    | (extract_lets +onlyGivenNames x; first | clear_value x | (dsimp only [x]; clear x) | skip)
    | with_reducible apply State.keyRequest_kept
    | with_reducible refine State.keyRequest_kept' ?_ _ _ ‹_›
    | split
    | (simp -zeta only [Kept_mk]; refine ⟨Kept.tabs ?_, ?_, ?_⟩)
    | with_reducible refine Kept.epochs ?_
    | with_reducible refine Kept.svns ?_
    | dsimp -zeta only [id]

theorem State.tryBeacon_kept' {s : State} (hs : Kept b s) (hx : MacHdr) (l : List Sys2Proof.Octet) (n : ℕ) {r1 : _} {t1 : State} (e1 : State.tryBeacon s hx l n = (r1, t1)) : Kept b t1 := by
  have := State.tryBeacon_kept (b := b) hs hx l n
  rw [e1] at this
  exact this

theorem State.openBeacon_kept {s : State} (hs : Kept b s) (hx : MacHdr) (l : List Sys2Proof.Octet) : Kept b (State.openBeacon s hx l).2 := by
  unfold State.openBeacon
  repeat' first
    | with_reducible assumption
    | with_reducible apply State.tryBeacon_kept
    | with_reducible refine State.tryBeacon_kept' ?_ _ _ _ ‹_›
    | split
    | dsimp -zeta only [id]

theorem State.openBeacon_kept' {s : State} (hs : Kept b s) (hx : MacHdr) (l : List Sys2Proof.Octet) {r1 : _} {t1 : State} (e1 : State.openBeacon s hx l = (r1, t1)) : Kept b t1 := by
  have := State.openBeacon_kept (b := b) hs hx l
  rw [e1] at this
  exact this

theorem State.micFail_kept {s : State} (hs : Kept b s) : Kept b (State.micFail s) := by
  unfold State.micFail
  repeat' first
    | with_reducible assumption
    | (extract_lets +onlyGivenNames x; refine (fun (hx : Kept b x) => ?_) ?_; (on_goal 1 => try clear_value x); (on_goal 2 => (dsimp only [x]; clear x)))
    | (extract_lets +onlyGivenNames x; first | clear_value x | (dsimp only [x]; clear x) | skip)
    | with_reducible apply State.bump_kept
    | with_reducible apply State.fireIf_kept
    | (simp -zeta only [Kept_mk]; refine ⟨Kept.tabs ?_, ?_, ?_⟩)
    | with_reducible refine Kept.epochs ?_
    | with_reducible refine Kept.svns ?_
    | dsimp -zeta only [id]

theorem State.beaconIn_kept {s : State} (hs : Kept b s) (f : RxFrame) (hx : MacHdr) : Kept b (State.beaconIn s f hx) := by
  unfold State.beaconIn
  repeat' first
    | with_reducible assumption
    | (extract_lets +onlyGivenNames x; refine (fun (hx : Kept b x) => ?_) ?_; (on_goal 1 => try clear_value x); (on_goal 2 => (dsimp only [x]; clear x)))
    | (extract_lets +onlyGivenNames x; first | clear_value x | (dsimp only [x]; clear x) | skip)
    | with_reducible apply State.bump_kept
    | with_reducible apply State.openBeacon_kept
    | with_reducible refine State.openBeacon_kept' ?_ _ _ ‹_›
    | with_reducible apply State.micFail_kept
    | with_reducible apply State.learnResidual_kept
    | with_reducible apply State.setFlag_kept
    | split
    | (simp -zeta only [Kept_mk]; refine ⟨Kept.tabs ?_, ?_, ?_⟩)
    | with_reducible refine Kept.epochs ?_
    | with_reducible refine Kept.svns ?_
    | dsimp -zeta only [id]

theorem State.noteVerified_kept {s : State} (hs : Kept b s) (r : ℕ) (first : ℕ) : Kept b (State.noteVerified s r first) := by
  unfold State.noteVerified
  repeat' first
    | with_reducible assumption
    | intro _
    | (extract_lets +onlyGivenNames x; refine (fun (hx : Kept b x) => ?_) ?_; (on_goal 1 => try clear_value x); (on_goal 2 => (dsimp only [x]; clear x)))
    | (extract_lets +onlyGivenNames x; refine (fun (hx : Kept b x.2) => ?_) ?_; (on_goal 1 => try clear_value x); (on_goal 2 => (dsimp only [x]; clear x)))
    | (extract_lets +onlyGivenNames x; refine (fun (hx : Kept b x.1) => ?_) ?_; (on_goal 1 => try clear_value x); (on_goal 2 => (dsimp only [x]; clear x)))
    | (extract_lets +onlyGivenNames x; first | clear_value x | (dsimp only [x]; clear x) | skip)
    | (simp -zeta only [Kept_mk]; refine ⟨Kept.tabs ?_, ?_, ?_⟩)
    | with_reducible refine Kept.epochs ?_
    | with_reducible refine Kept.svns ?_
    | dsimp -zeta only [id]

theorem State.searchHit_kept {s : State} (hs : Kept b s) (f : RxFrame) : Kept b (State.searchHit s f) := by
  unfold State.searchHit
  repeat' first
    | with_reducible assumption
    | intro _
    | (extract_lets +onlyGivenNames x; refine (fun (hx : Kept b x) => ?_) ?_; (on_goal 1 => try clear_value x); (on_goal 2 => (dsimp only [x]; clear x)))
    | (extract_lets +onlyGivenNames x; first | clear_value x | (dsimp only [x]; clear x) | skip)
    | with_reducible apply State.bump_kept
    | split
    | (simp -zeta only [Kept_mk]; refine ⟨Kept.tabs ?_, ?_, ?_⟩)
    | with_reducible refine Kept.epochs ?_
    | with_reducible refine Kept.svns ?_
    | dsimp -zeta only [id]

theorem State.verifiedIn_kept {s : State} (hs : Kept b s) (r : Nat) (n0 : Nbr) (key : KeySlot) (f : RxFrame) (hx0 : MacHdr) (pt : List Octet) : Kept b (State.verifiedIn s r n0 key f hx0 pt) := by
  unfold State.verifiedIn
  repeat' first
    | with_reducible assumption
    | intro _
    | (extract_lets +onlyGivenNames x; refine (fun (hx : Kept b x) => ?_) ?_; (on_goal 1 => try clear_value x); (on_goal 2 => (dsimp only [x]; clear x)))
    | (extract_lets +onlyGivenNames x; refine (fun (hx : Kept b x.2) => ?_) ?_; (on_goal 1 => try clear_value x); (on_goal 2 => (dsimp only [x]; clear x)))
    | (extract_lets +onlyGivenNames x; refine (fun (hx : Kept b x.1) => ?_) ?_; (on_goal 1 => try clear_value x); (on_goal 2 => (dsimp only [x]; clear x)))
    | (extract_lets +onlyGivenNames x; first | clear_value x | (dsimp only [x]; clear x) | skip)
    | with_reducible apply State.after_kept
    | with_reducible apply State.setNbr_kept
    | with_reducible apply State.noteVerified_kept
    | with_reducible apply State.searchHit_kept
    | with_reducible apply State.fireIf_kept
    | with_reducible apply State.slvVerified_kept
    | with_reducible apply State.bump_kept
    | with_reducible apply State.enhAck_kept
    | with_reducible apply State.airIn_kept
    | with_reducible refine State.airIn_kept' ?_ _ _ _ ‹_›
    | split
    | (simp -zeta only [Kept_mk]; refine ⟨Kept.tabs ?_, ?_, ?_⟩)
    | with_reducible refine Kept.epochs ?_
    | with_reducible refine Kept.svns ?_
    | dsimp -zeta only [id]

theorem State.nodeAck_kept {s : State} (hs : Kept b s) (r : Nat) (n0 : Nbr) (a : Await) (f : RxFrame) (pt : List Octet) : Kept b (State.nodeAck s r n0 a f pt) := by
  unfold State.nodeAck
  repeat' first
    | with_reducible assumption
    | intro _
    | (extract_lets +onlyGivenNames x; refine (fun (hx : Kept b x) => ?_) ?_; (on_goal 1 => try clear_value x); (on_goal 2 => (dsimp only [x]; clear x)))
    | (extract_lets +onlyGivenNames x; first | clear_value x | (dsimp only [x]; clear x) | skip)
    | with_reducible apply State.setNbr_kept
    | with_reducible apply State.noteVerified_kept
    | with_reducible apply State.attemptFailed_kept
    | with_reducible apply State.downDone_kept
    | split
    | (simp -zeta only [Kept_mk]; refine ⟨Kept.tabs ?_, ?_, ?_⟩)
    | with_reducible refine Kept.epochs ?_
    | with_reducible refine Kept.svns ?_
    | dsimp -zeta only [id]

theorem State.classSIn_kept {s : State} (hs : Kept b s) (f : RxFrame) (hx0 : MacHdr) : Kept b (State.classSIn s f hx0) := by
  unfold State.classSIn
  repeat' first
    | with_reducible assumption
    | intro _
    | (extract_lets +onlyGivenNames x; refine (fun (hx : Kept b x) => ?_) ?_; (on_goal 1 => try clear_value x); (on_goal 2 => (dsimp only [x]; clear x)))
    | (extract_lets +onlyGivenNames x; refine (fun (hx : Kept b x.2) => ?_) ?_; (on_goal 1 => try clear_value x); (on_goal 2 => (dsimp only [x]; clear x)))
    | (extract_lets +onlyGivenNames x; refine (fun (hx : Kept b x.1) => ?_) ?_; (on_goal 1 => try clear_value x); (on_goal 2 => (dsimp only [x]; clear x)))
    | (extract_lets +onlyGivenNames x; first | clear_value x | (dsimp only [x]; clear x) | skip)
    | with_reducible apply State.bump_kept
    | with_reducible apply State.tell_kept
    | with_reducible apply State.fireIf_kept
    | with_reducible apply State.keyRequest_kept
    | with_reducible refine State.keyRequest_kept' ?_ _ _ ‹_›
    | with_reducible apply State.micFail_kept
    | with_reducible apply State.nodeAck_kept
    | with_reducible apply State.verifiedIn_kept
    | split
    | (simp -zeta only [Kept_mk]; refine ⟨Kept.tabs ?_, ?_, ?_⟩)
    | with_reducible refine Kept.epochs ?_
    | with_reducible refine Kept.svns ?_
    | dsimp -zeta only [id]

theorem State.nativeIn_kept {s : State} (hs : Kept b s) (f : RxFrame) : Kept b (State.nativeIn s f) := by
  unfold State.nativeIn
  repeat' first
    | with_reducible assumption
    | intro _
    | (extract_lets +onlyGivenNames x; refine (fun (hx : Kept b x) => ?_) ?_; (on_goal 1 => try clear_value x); (on_goal 2 => (dsimp only [x]; clear x)))
    | (extract_lets +onlyGivenNames x; first | clear_value x | (dsimp only [x]; clear x) | skip)
    | with_reducible apply State.bump_kept
    | with_reducible apply State.mirror_kept
    | with_reducible apply State.beaconIn_kept
    | with_reducible apply State.downDone_kept
    | with_reducible apply State.classCIn_kept
    | with_reducible apply State.observe_kept
    | with_reducible apply State.classSIn_kept
    | split
    | (simp -zeta only [Kept_mk]; refine ⟨Kept.tabs ?_, ?_, ?_⟩)
    | with_reducible refine Kept.epochs ?_
    | with_reducible refine Kept.svns ?_
    | dsimp -zeta only [id]

theorem execMsqFrameReceive_kept (gt : Nat) (ft : Nat) {s : State} (hs : Kept b s) : KeptOut b (execMsqFrameReceive gt ft s) := by
  unfold execMsqFrameReceive
  repeat' first
    | with_reducible assumption
    | with_reducible refine KeptOut_next ?_
    | intro _
    | (extract_lets +onlyGivenNames x; refine (fun (hx : Kept b x) => ?_) ?_; (on_goal 1 => try clear_value x); (on_goal 2 => (dsimp only [x]; clear x)))
    | (extract_lets +onlyGivenNames x; first | clear_value x | (dsimp only [x]; clear x) | skip)
    | with_reducible apply State.at_kept
    | with_reducible apply State.nativeIn_kept
    | split
    | (simp -zeta only [Kept_mk]; refine ⟨Kept.tabs ?_, ?_, ?_⟩)
    | with_reducible refine Kept.epochs ?_
    | with_reducible refine Kept.svns ?_
    | dsimp -zeta only [id]

theorem execNodeAckTimeout_kept (t : Time) (record : Nat) {s : State} (hs : Kept b s) : KeptOut b (execNodeAckTimeout t record s) := by
  unfold execNodeAckTimeout
  repeat' first
    | with_reducible assumption
    | with_reducible refine KeptOut_next ?_
    | intro _
    | (extract_lets +onlyGivenNames x; refine (fun (hx : Kept b x) => ?_) ?_; (on_goal 1 => try clear_value x); (on_goal 2 => (dsimp only [x]; clear x)))
    | (extract_lets +onlyGivenNames x; first | clear_value x | (dsimp only [x]; clear x) | skip)
    | with_reducible apply State.at_kept
    | with_reducible apply State.attemptFailed_kept
    | split
    | (simp -zeta only [Kept_mk]; refine ⟨Kept.tabs ?_, ?_, ?_⟩)
    | with_reducible refine Kept.epochs ?_
    | with_reducible refine Kept.svns ?_
    | dsimp -zeta only [id]

end Sys2Proof.Machine
end

