-- ==== Sys2Proof/Laws/KeptFwd.lean ====
section
/-! SUPPORT. What the operations of Machine/Fwd.lean keep: queue, canonical tables, fuses. -/

set_option linter.unusedTactic false
set_option linter.unreachableTactic false
set_option linter.unusedVariables false
set_option linter.tactic.unusedName false

namespace Sys2Proof.Machine

variable {b : Base}

/-! ### Fwd -/

theorem State.setFwdTab_kept {s : State} (hs : Kept b s) (pfx : Bool) (t : Tab FwdEntry) : Kept b (State.setFwdTab s pfx t) := by
  unfold State.setFwdTab
  repeat' first
    | with_reducible assumption
    | (extract_lets +onlyGivenNames x; refine (fun (hx : Kept b x) => ?_) ?_; (on_goal 1 => try clear_value x); (on_goal 2 => (dsimp only [x]; clear x)))
    | (extract_lets +onlyGivenNames x; first | clear_value x | (dsimp only [x]; clear x) | skip)
    | split
    | (simp -zeta only [Kept_mk]; refine ⟨Kept.tabs ?_, ?_, ?_⟩)
    | with_reducible refine Kept.epochs ?_
    | with_reducible refine Kept.svns ?_
    | dsimp -zeta only [id]

theorem State.hotKill_kept {s : State} (hs : Kept b s) (key : ℕ) : Kept b (State.hotKill s key) := by
  unfold State.hotKill
  repeat' first
    | with_reducible assumption
    | intro _
    | (extract_lets +onlyGivenNames x; refine (fun (hx : Kept b x) => ?_) ?_; (on_goal 1 => try clear_value x); (on_goal 2 => (dsimp only [x]; clear x)))
    | (extract_lets +onlyGivenNames x; first | clear_value x | (dsimp only [x]; clear x) | skip)
    | (simp -zeta only [Kept_mk]; refine ⟨Kept.tabs ?_, ?_, ?_⟩)
    | with_reducible refine Kept.epochs ?_
    | with_reducible refine Kept.svns ?_
    | dsimp -zeta only [id]

theorem State.hotFill_kept {s : State} (hs : Kept b s) (x : HotLine) : Kept b (State.hotFill s x) := by
  unfold State.hotFill
  repeat' first
    | with_reducible assumption
    | intro _
    | (extract_lets +onlyGivenNames x; refine (fun (hx : Kept b x) => ?_) ?_; (on_goal 1 => try clear_value x); (on_goal 2 => (dsimp only [x]; clear x)))
    | (extract_lets +onlyGivenNames x; first | clear_value x | (dsimp only [x]; clear x) | skip)
    | (simp -zeta only [Kept_mk]; refine ⟨Kept.tabs ?_, ?_, ?_⟩)
    | with_reducible refine Kept.epochs ?_
    | with_reducible refine Kept.svns ?_
    | dsimp -zeta only [id]

theorem State.fwdErr_kept {s : State} (hs : Kept b s) (r : FwdErrRec) : Kept b (State.fwdErr s r) := by
  unfold State.fwdErr
  repeat' first
    | with_reducible assumption
    | (extract_lets +onlyGivenNames x; refine (fun (hx : Kept b x) => ?_) ?_; (on_goal 1 => try clear_value x); (on_goal 2 => (dsimp only [x]; clear x)))
    | (extract_lets +onlyGivenNames x; first | clear_value x | (dsimp only [x]; clear x) | skip)
    | with_reducible apply State.fireIf_kept
    | with_reducible apply State.fire_kept
    | with_reducible apply State.bump_kept
    | split
    | (simp -zeta only [Kept_mk]; refine ⟨Kept.tabs ?_, ?_, ?_⟩)
    | with_reducible refine Kept.epochs ?_
    | with_reducible refine Kept.svns ?_
    | dsimp -zeta only [id]

theorem State.lxSend_kept {s : State} (hs : Kept b s) (op : ℕ) (addr : ℕ) (gt : ℕ) : Kept b (State.lxSend s op addr gt) := by
  unfold State.lxSend
  repeat' first
    | with_reducible assumption
    | (extract_lets +onlyGivenNames x; refine (fun (hx : Kept b x) => ?_) ?_; (on_goal 1 => try clear_value x); (on_goal 2 => (dsimp only [x]; clear x)))
    | (extract_lets +onlyGivenNames x; first | clear_value x | (dsimp only [x]; clear x) | skip)
    | with_reducible apply State.fire_kept
    | with_reducible apply State.bump_kept
    | split
    | (simp -zeta only [Kept_mk]; refine ⟨Kept.tabs ?_, ?_, ?_⟩)
    | with_reducible refine Kept.epochs ?_
    | with_reducible refine Kept.svns ?_
    | dsimp -zeta only [id]

theorem State.dampFree_kept {s : State} (hs : Kept b s) (addr : ℕ) : Kept b (State.dampFree s addr) := by
  unfold State.dampFree
  repeat' first
    | with_reducible assumption
    | intro _
    | (extract_lets +onlyGivenNames x; refine (fun (hx : Kept b x) => ?_) ?_; (on_goal 1 => try clear_value x); (on_goal 2 => (dsimp only [x]; clear x)))
    | (extract_lets +onlyGivenNames x; first | clear_value x | (dsimp only [x]; clear x) | skip)
    | (simp -zeta only [Kept_mk]; refine ⟨Kept.tabs ?_, ?_, ?_⟩)
    | with_reducible refine Kept.epochs ?_
    | with_reducible refine Kept.svns ?_
    | dsimp -zeta only [id]

theorem State.pfxChange_kept {s : State} (hs : Kept b s) : Kept b (State.pfxChange s) := by
  unfold State.pfxChange
  repeat' first
    | with_reducible assumption
    | with_reducible apply State.setFld_kept
    | dsimp -zeta only [id]

theorem State.takeEntry_kept {s : State} (hs : Kept b s) (pfx : Bool) (i : Nat) (tell : Bool) : Kept b (State.takeEntry s pfx i tell) := by
  unfold State.takeEntry
  repeat' first
    | with_reducible assumption
    | intro _
    | (extract_lets +onlyGivenNames x; refine (fun (hx : Kept b x) => ?_) ?_; (on_goal 1 => try clear_value x); (on_goal 2 => (dsimp only [x]; clear x)))
    | (extract_lets +onlyGivenNames x; first | clear_value x | (dsimp only [x]; clear x) | skip)
    | with_reducible apply State.setFwdTab_kept
    | with_reducible apply State.hotKill_kept
    | with_reducible apply State.dampFree_kept
    | with_reducible apply State.tell_kept
    | with_reducible apply State.lxSend_kept
    | split
    | (simp -zeta only [Kept_mk]; refine ⟨Kept.tabs ?_, ?_, ?_⟩)
    | with_reducible refine Kept.epochs ?_
    | with_reducible refine Kept.svns ?_
    | dsimp -zeta only [id]

theorem State.freeEntry_kept {s : State} (hs : Kept b s) (pfx : Bool) (i : Nat) (tell : Bool) : Kept b (State.freeEntry s pfx i tell) := by
  unfold State.freeEntry
  repeat' first
    | with_reducible assumption
    | intro _
    | (extract_lets +onlyGivenNames x; refine (fun (hx : Kept b x) => ?_) ?_; (on_goal 1 => try clear_value x); (on_goal 2 => (dsimp only [x]; clear x)))
    | (extract_lets +onlyGivenNames x; first | clear_value x | (dsimp only [x]; clear x) | skip)
    | with_reducible apply State.takeEntry_kept
    | with_reducible apply State.tell_kept
    | with_reducible apply State.pfxChange_kept
    | split
    | (simp -zeta only [Kept_mk]; refine ⟨Kept.tabs ?_, ?_, ?_⟩)
    | with_reducible refine Kept.epochs ?_
    | with_reducible refine Kept.svns ?_
    | dsimp -zeta only [id]

theorem State.updEntry_kept {s : State} (hs : Kept b s) (pfx : Bool) (i : ℕ) (f : FwdEntry → FwdEntry) : Kept b (State.updEntry s pfx i f) := by
  unfold State.updEntry
  repeat' first
    | with_reducible assumption
    | intro _
    | with_reducible apply State.setFwdTab_kept
    | dsimp -zeta only [id]

theorem State.putEntry_kept {s : State} (hs : Kept b s) (pfx : Bool) (i : ℕ) (e : FwdEntry) : Kept b (State.putEntry s pfx i e) := by
  unfold State.putEntry
  repeat' first
    | with_reducible assumption
    | (extract_lets +onlyGivenNames x; refine (fun (hx : Kept b x) => ?_) ?_; (on_goal 1 => try clear_value x); (on_goal 2 => (dsimp only [x]; clear x)))
    | (extract_lets +onlyGivenNames x; first | clear_value x | (dsimp only [x]; clear x) | skip)
    | with_reducible apply State.setFwdTab_kept
    | with_reducible apply State.pfxChange_kept
    | with_reducible apply State.hotKill_kept
    | split
    | dsimp -zeta only [id]

theorem State.replaceEntry_kept {s : State} (hs : Kept b s) (pfx : Bool) (i : Nat) (e : FwdEntry) : Kept b (State.replaceEntry s pfx i e) := by
  unfold State.replaceEntry
  repeat' first
    | with_reducible assumption
    | intro _
    | (extract_lets +onlyGivenNames x; refine (fun (hx : Kept b x) => ?_) ?_; (on_goal 1 => try clear_value x); (on_goal 2 => (dsimp only [x]; clear x)))
    | (extract_lets +onlyGivenNames x; first | clear_value x | (dsimp only [x]; clear x) | skip)
    | with_reducible apply State.putEntry_kept
    | with_reducible apply State.dampFree_kept
    | split
    | (simp -zeta only [Kept_mk]; refine ⟨Kept.tabs ?_, ?_, ?_⟩)
    | with_reducible refine Kept.epochs ?_
    | with_reducible refine Kept.svns ?_
    | dsimp -zeta only [id]

theorem State.routeKill_kept {s : State} (hs : Kept b s) (key : Nat) : Kept b (State.routeKill s key) := by
  unfold State.routeKill
  repeat' first
    | with_reducible assumption
    | intro _
    | (extract_lets +onlyGivenNames x; refine (fun (hx : Kept b x) => ?_) ?_; (on_goal 1 => try clear_value x); (on_goal 2 => (dsimp only [x]; clear x)))
    | (extract_lets +onlyGivenNames x; first | clear_value x | (dsimp only [x]; clear x) | skip)
    | split
    | (simp -zeta only [Kept_mk]; refine ⟨Kept.tabs ?_, ?_, ?_⟩)
    | with_reducible refine Kept.epochs ?_
    | with_reducible refine Kept.svns ?_
    | dsimp -zeta only [id]

theorem State.scrub_kept {s : State} (hs : Kept b s) (v : ℕ) : Kept b (State.scrub s v) := by
  unfold State.scrub
  repeat' first
    | with_reducible assumption
    | intro _
    | (extract_lets +onlyGivenNames x; refine (fun (hx : Kept b x) => ?_) ?_; (on_goal 1 => try clear_value x); (on_goal 2 => (dsimp only [x]; clear x)))
    | (extract_lets +onlyGivenNames x; refine (fun (hx : Kept b x.2) => ?_) ?_; (on_goal 1 => try clear_value x); (on_goal 2 => (dsimp only [x]; clear x)))
    | (extract_lets +onlyGivenNames x; refine (fun (hx : Kept b x.1) => ?_) ?_; (on_goal 1 => try clear_value x); (on_goal 2 => (dsimp only [x]; clear x)))
    | (extract_lets +onlyGivenNames x; first | clear_value x | (dsimp only [x]; clear x) | skip)
    | split
    | (simp -zeta only [Kept_mk]; refine ⟨Kept.tabs ?_, ?_, ?_⟩)
    | with_reducible refine Kept.epochs ?_
    | with_reducible refine Kept.svns ?_
    | dsimp -zeta only [id]

theorem State.readFilter_kept {s : State} (hs : Kept b s) (both : Option Bool) (v : Nat) : Kept b (State.readFilter s both v).2 := by
  unfold State.readFilter
  repeat' first
    | with_reducible assumption
    | intro _
    | (extract_lets +onlyGivenNames x; refine (fun (hx : Kept b x) => ?_) ?_; (on_goal 1 => try clear_value x); (on_goal 2 => (dsimp only [x]; clear x)))
    | (extract_lets +onlyGivenNames x; first | clear_value x | (dsimp only [x]; clear x) | skip)
    | with_reducible apply State.bump_kept
    | with_reducible apply State.fwdErr_kept
    | with_reducible apply State.setFlag_kept
    | with_reducible apply State.fire_kept
    | split
    | (simp -zeta only [Kept_mk]; refine ⟨Kept.tabs ?_, ?_, ?_⟩)
    | with_reducible refine Kept.epochs ?_
    | with_reducible refine Kept.svns ?_
    | dsimp -zeta only [id]

theorem State.readFilter_kept' {s : State} (hs : Kept b s) (both : Option Bool) (v : Nat) {r1 : _} {t1 : State} (e1 : State.readFilter s both v = (r1, t1)) : Kept b t1 := by
  have := State.readFilter_kept (b := b) hs both v
  rw [e1] at this
  exact this

theorem State.filterRoom_kept {s : State} (hs : Kept b s) (errs : List FwdErr) (key : Nat) (len : Nat) : Kept b (State.filterRoom s errs key len).2 := by
  unfold State.filterRoom
  repeat' first
    | with_reducible assumption
    | intro _
    | (extract_lets +onlyGivenNames x; refine (fun (hx : Kept b x) => ?_) ?_; (on_goal 1 => try clear_value x); (on_goal 2 => (dsimp only [x]; clear x)))
    | (extract_lets +onlyGivenNames x; refine (fun (hx : Kept b x.2) => ?_) ?_; (on_goal 1 => try clear_value x); (on_goal 2 => (dsimp only [x]; clear x)))
    | (extract_lets +onlyGivenNames x; refine (fun (hx : Kept b x.1) => ?_) ?_; (on_goal 1 => try clear_value x); (on_goal 2 => (dsimp only [x]; clear x)))
    | (extract_lets +onlyGivenNames x; first | clear_value x | (dsimp only [x]; clear x) | skip)
    | with_reducible apply State.readFilter_kept
    | with_reducible refine State.readFilter_kept' ?_ _ _ ‹_›
    | with_reducible apply State.scrub_kept
    | with_reducible refine Kept_foldl ?_ ?_
    | with_reducible refine Kept_foldl2 ?_ ?_
    | with_reducible refine Kept_foldl1 ?_ ?_
    | split
    | (simp -zeta only [Kept_mk]; refine ⟨Kept.tabs ?_, ?_, ?_⟩)
    | with_reducible refine Kept.epochs ?_
    | with_reducible refine Kept.svns ?_
    | dsimp -zeta only [id]

theorem State.filterRoom_kept' {s : State} (hs : Kept b s) (errs : List FwdErr) (key : Nat) (len : Nat) {r1 : _} {t1 : State} (e1 : State.filterRoom s errs key len = (r1, t1)) : Kept b t1 := by
  have := State.filterRoom_kept (b := b) hs errs key len
  rw [e1] at this
  exact this

theorem State.insertEntry_kept {s : State} (hs : Kept b s) (errs : List FwdErr) (pfx : Bool) (e : FwdEntry) : Kept b (State.insertEntry s errs pfx e).2 := by
  unfold State.insertEntry
  repeat' first
    | with_reducible assumption
    | intro _
    | (extract_lets +onlyGivenNames x; refine (fun (hx : Kept b x) => ?_) ?_; (on_goal 1 => try clear_value x); (on_goal 2 => (dsimp only [x]; clear x)))
    | (extract_lets +onlyGivenNames x; refine (fun (hx : Kept b x.2) => ?_) ?_; (on_goal 1 => try clear_value x); (on_goal 2 => (dsimp only [x]; clear x)))
    | (extract_lets +onlyGivenNames x; refine (fun (hx : Kept b x.1) => ?_) ?_; (on_goal 1 => try clear_value x); (on_goal 2 => (dsimp only [x]; clear x)))
    | (extract_lets +onlyGivenNames x; first | clear_value x | (dsimp only [x]; clear x) | skip)
    | with_reducible apply State.filterRoom_kept
    | with_reducible refine State.filterRoom_kept' ?_ _ _ _ ‹_›
    | with_reducible apply State.putEntry_kept
    | split
    | (simp -zeta only [Kept_mk]; refine ⟨Kept.tabs ?_, ?_, ?_⟩)
    | with_reducible refine Kept.epochs ?_
    | with_reducible refine Kept.svns ?_
    | dsimp -zeta only [id]

theorem State.insertEntry_kept' {s : State} (hs : Kept b s) (errs : List FwdErr) (pfx : Bool) (e : FwdEntry) {r1 : _} {t1 : State} (e1 : State.insertEntry s errs pfx e = (r1, t1)) : Kept b t1 := by
  have := State.insertEntry_kept (b := b) hs errs pfx e
  rw [e1] at this
  exact this

theorem State.placeStatic_kept {s : State} (hs : Kept b s) (n : Nat) (e : FwdEntry) : Kept b (State.placeStatic s n e) := by
  unfold State.placeStatic
  repeat' first
    | with_reducible assumption
    | intro _
    | (extract_lets +onlyGivenNames x; refine (fun (hx : Kept b x) => ?_) ?_; (on_goal 1 => try clear_value x); (on_goal 2 => (dsimp only [x]; clear x)))
    | (extract_lets +onlyGivenNames x; refine (fun (hx : Kept b x.2) => ?_) ?_; (on_goal 1 => try clear_value x); (on_goal 2 => (dsimp only [x]; clear x)))
    | (extract_lets +onlyGivenNames x; refine (fun (hx : Kept b x.1) => ?_) ?_; (on_goal 1 => try clear_value x); (on_goal 2 => (dsimp only [x]; clear x)))
    | (extract_lets +onlyGivenNames x; first | clear_value x | (dsimp only [x]; clear x) | skip)
    | with_reducible apply State.replaceEntry_kept
    | with_reducible apply State.insertEntry_kept
    | with_reducible refine State.insertEntry_kept' ?_ _ _ _ ‹_›
    | with_reducible apply State.bump_kept
    | with_reducible apply State.fwdErr_kept
    | split
    | (simp -zeta only [Kept_mk]; refine ⟨Kept.tabs ?_, ?_, ?_⟩)
    | with_reducible refine Kept.epochs ?_
    | with_reducible refine Kept.svns ?_
    | dsimp -zeta only [id]

theorem State.zeroBucket_kept {s : State} (hs : Kept b s) (pfx : Bool) (bx : Nat) : Kept b (State.zeroBucket s pfx bx) := by
  unfold State.zeroBucket
  repeat' first
    | with_reducible assumption
    | intro _
    | (extract_lets +onlyGivenNames x; refine (fun (hx : Kept b x) => ?_) ?_; (on_goal 1 => try clear_value x); (on_goal 2 => (dsimp only [x]; clear x)))
    | (extract_lets +onlyGivenNames x; refine (fun (hx : Kept b x.2) => ?_) ?_; (on_goal 1 => try clear_value x); (on_goal 2 => (dsimp only [x]; clear x)))
    | (extract_lets +onlyGivenNames x; refine (fun (hx : Kept b x.1) => ?_) ?_; (on_goal 1 => try clear_value x); (on_goal 2 => (dsimp only [x]; clear x)))
    | (extract_lets +onlyGivenNames x; first | clear_value x | (dsimp only [x]; clear x) | skip)
    | with_reducible apply State.takeEntry_kept
    | with_reducible apply State.pfxChange_kept
    | with_reducible apply State.bump_kept
    | with_reducible apply State.fwdErr_kept
    | with_reducible refine Kept_foldl ?_ ?_
    | with_reducible refine Kept_foldl2 ?_ ?_
    | with_reducible refine Kept_foldl1 ?_ ?_
    | split
    | (simp -zeta only [Kept_mk]; refine ⟨Kept.tabs ?_, ?_, ?_⟩)
    | with_reducible refine Kept.epochs ?_
    | with_reducible refine Kept.svns ?_
    | dsimp -zeta only [id]

theorem State.readBucket_kept {s : State} (hs : Kept b s) (errs : List FwdErr) (pfx : Bool) (bx : ℕ) : Kept b (State.readBucket s errs pfx bx).2 := by
  unfold State.readBucket
  repeat' first
    | with_reducible assumption
    | intro _
    | (extract_lets +onlyGivenNames x; refine (fun (hx : Kept b x) => ?_) ?_; (on_goal 1 => try clear_value x); (on_goal 2 => (dsimp only [x]; clear x)))
    | (extract_lets +onlyGivenNames x; refine (fun (hx : ∀ u, Kept b u → Kept b (x u)) => ?_) ?_; (on_goal 1 => try clear_value x); (on_goal 2 => (dsimp only [x]; clear x)))
    | (extract_lets +onlyGivenNames x; refine (fun (hx : ∀ u y0, Kept b u → Kept b (x u y0)) => ?_) ?_; (on_goal 1 => try clear_value x); (on_goal 2 => (dsimp only [x]; clear x)))
    | (extract_lets +onlyGivenNames x; refine (fun (hx : ∀ u y0 y1, Kept b u → Kept b (x u y0 y1)) => ?_) ?_; (on_goal 1 => try clear_value x); (on_goal 2 => (dsimp only [x]; clear x)))
    | (extract_lets +onlyGivenNames x; refine (fun (hx : ∀ u y0 y1 y2, Kept b u → Kept b (x u y0 y1 y2)) => ?_) ?_; (on_goal 1 => try clear_value x); (on_goal 2 => (dsimp only [x]; clear x)))
    | (extract_lets +onlyGivenNames x; refine (fun (hx : ∀ u, Kept b u → Kept b (x u).2) => ?_) ?_; (on_goal 1 => try clear_value x); (on_goal 2 => (dsimp only [x]; clear x)))
    | (extract_lets +onlyGivenNames x; refine (fun (hx : ∀ u y0, Kept b u → Kept b (x u y0).2) => ?_) ?_; (on_goal 1 => try clear_value x); (on_goal 2 => (dsimp only [x]; clear x)))
    | (extract_lets +onlyGivenNames x; refine (fun (hx : ∀ u y0 y1, Kept b u → Kept b (x u y0 y1).2) => ?_) ?_; (on_goal 1 => try clear_value x); (on_goal 2 => (dsimp only [x]; clear x)))
    | (extract_lets +onlyGivenNames x; refine (fun (hx : ∀ y, Kept b (x y)) => ?_) ?_; (on_goal 1 => try clear_value x); (on_goal 2 => (dsimp only [x]; clear x)))
    | (extract_lets +onlyGivenNames x; first | clear_value x | (dsimp only [x]; clear x) | skip)
    | with_reducible apply State.zeroBucket_kept
    | with_reducible apply State.fire_kept
    | with_reducible apply State.bump_kept
    | split
    | with_reducible apply_assumption
    | dsimp -zeta only [id]

theorem State.readBucket_kept' {s : State} (hs : Kept b s) (errs : List FwdErr) (pfx : Bool) (bx : ℕ) {r1 : _} {t1 : State} (e1 : State.readBucket s errs pfx bx = (r1, t1)) : Kept b t1 := by
  have := State.readBucket_kept (b := b) hs errs pfx bx
  rw [e1] at this
  exact this

theorem State.readBuckets_kept {s : State} (hs : Kept b s) (errs : List FwdErr) (pfx : Bool) (key : ℕ) (len : ℕ) : Kept b (State.readBuckets s errs pfx key len) := by
  unfold State.readBuckets
  repeat' first
    | with_reducible assumption
    | (extract_lets +onlyGivenNames x; refine (fun (hx : Kept b x) => ?_) ?_; (on_goal 1 => try clear_value x); (on_goal 2 => (dsimp only [x]; clear x)))
    | (extract_lets +onlyGivenNames x; refine (fun (hx : Kept b x.2) => ?_) ?_; (on_goal 1 => try clear_value x); (on_goal 2 => (dsimp only [x]; clear x)))
    | (extract_lets +onlyGivenNames x; refine (fun (hx : Kept b x.1) => ?_) ?_; (on_goal 1 => try clear_value x); (on_goal 2 => (dsimp only [x]; clear x)))
    | (extract_lets +onlyGivenNames x; first | clear_value x | (dsimp only [x]; clear x) | skip)
    | with_reducible apply State.readBucket_kept
    | with_reducible refine State.readBucket_kept' ?_ _ _ _ ‹_›
    | dsimp -zeta only [id]

theorem State.findEntry_kept {s : State} (hs : Kept b s) (errs : List FwdErr) (pfx : Bool) (key : ℕ) (len : ℕ) : Kept b (State.findEntry s errs pfx key len).2 := by
  unfold State.findEntry
  repeat' first
    | with_reducible assumption
    | intro _
    | (extract_lets +onlyGivenNames x; refine (fun (hx : Kept b x) => ?_) ?_; (on_goal 1 => try clear_value x); (on_goal 2 => (dsimp only [x]; clear x)))
    | (extract_lets +onlyGivenNames x; refine (fun (hx : Kept b x.2) => ?_) ?_; (on_goal 1 => try clear_value x); (on_goal 2 => (dsimp only [x]; clear x)))
    | (extract_lets +onlyGivenNames x; refine (fun (hx : Kept b x.1) => ?_) ?_; (on_goal 1 => try clear_value x); (on_goal 2 => (dsimp only [x]; clear x)))
    | (extract_lets +onlyGivenNames x; first | clear_value x | (dsimp only [x]; clear x) | skip)
    | with_reducible apply State.readBucket_kept
    | with_reducible refine State.readBucket_kept' ?_ _ _ _ ‹_›
    | split
    | dsimp -zeta only [id]

theorem State.findEntry_kept' {s : State} (hs : Kept b s) (errs : List FwdErr) (pfx : Bool) (key : ℕ) (len : ℕ) {r1 : _} {t1 : State} (e1 : State.findEntry s errs pfx key len = (r1, t1)) : Kept b t1 := by
  have := State.findEntry_kept (b := b) hs errs pfx key len
  rw [e1] at this
  exact this

theorem State.readHot_kept {s : State} (hs : Kept b s) (errs : List FwdErr) (key : ℕ) : Kept b (State.readHot s errs key).2 := by
  unfold State.readHot
  repeat' first
    | with_reducible assumption
    | intro _
    | (extract_lets +onlyGivenNames x; refine (fun (hx : Kept b x) => ?_) ?_; (on_goal 1 => try clear_value x); (on_goal 2 => (dsimp only [x]; clear x)))
    | (extract_lets +onlyGivenNames x; first | clear_value x | (dsimp only [x]; clear x) | skip)
    | with_reducible apply State.fwdErr_kept
    | with_reducible apply State.fire_kept
    | with_reducible apply State.bump_kept
    | with_reducible refine Kept_foldl ?_ ?_
    | with_reducible refine Kept_foldl2 ?_ ?_
    | with_reducible refine Kept_foldl1 ?_ ?_
    | split
    | (simp -zeta only [Kept_mk]; refine ⟨Kept.tabs ?_, ?_, ?_⟩)
    | with_reducible refine Kept.epochs ?_
    | with_reducible refine Kept.svns ?_
    | dsimp -zeta only [id]

theorem State.readHot_kept' {s : State} (hs : Kept b s) (errs : List FwdErr) (key : ℕ) {r1 : _} {t1 : State} (e1 : State.readHot s errs key = (r1, t1)) : Kept b t1 := by
  have := State.readHot_kept (b := b) hs errs key
  rw [e1] at this
  exact this

theorem State.unpinEntry_kept {s : State} (hs : Kept b s) (addr : ℕ) : Kept b (State.unpinEntry s addr) := by
  unfold State.unpinEntry
  repeat' first
    | with_reducible assumption
    | intro _
    | (extract_lets +onlyGivenNames x; refine (fun (hx : Kept b x) => ?_) ?_; (on_goal 1 => try clear_value x); (on_goal 2 => (dsimp only [x]; clear x)))
    | (extract_lets +onlyGivenNames x; refine (fun (hx : b.svn ≤ (x : Upd).fuses) => ?_) ?_; (on_goal 1 => try clear_value x); (on_goal 2 => (dsimp only [x]; clear x)))
    | (extract_lets +onlyGivenNames x; first | clear_value x | (dsimp only [x]; clear x) | skip)
    | with_reducible apply State.updEntry_kept
    | split
    | (simp -zeta only [Kept_mk]; refine ⟨Kept.tabs ?_, ?_, ?_⟩)
    | with_reducible refine Kept.epochs ?_
    | with_reducible refine Kept.svns ?_
    | dsimp -zeta only [id]

theorem State.dampScan_kept {s : State} (hs : Kept b s) : Kept b (State.dampScan s) := by
  unfold State.dampScan
  repeat' first
    | with_reducible assumption
    | intro _
    | with_reducible apply State.dampFree_kept
    | with_reducible apply State.unpinEntry_kept
    | with_reducible refine Kept_foldl ?_ ?_
    | with_reducible refine Kept_foldl2 ?_ ?_
    | with_reducible refine Kept_foldl1 ?_ ?_
    | dsimp -zeta only [id]

theorem State.dampMove_kept {s : State} (hs : Kept b s) (i : ℕ) (addr : ℕ) (gt : ℕ) : Kept b (State.dampMove s i addr gt) := by
  unfold State.dampMove
  repeat' first
    | with_reducible assumption
    | intro _
    | (extract_lets +onlyGivenNames x; refine (fun (hx : Kept b x) => ?_) ?_; (on_goal 1 => try clear_value x); (on_goal 2 => (dsimp only [x]; clear x)))
    | (extract_lets +onlyGivenNames x; refine (fun (hx : b.svn ≤ (x : Upd).fuses) => ?_) ?_; (on_goal 1 => try clear_value x); (on_goal 2 => (dsimp only [x]; clear x)))
    | (extract_lets +onlyGivenNames x; refine (fun (hx : ∀ u, Kept b u → Kept b (x u)) => ?_) ?_; (on_goal 1 => try clear_value x); (on_goal 2 => (dsimp only [x]; clear x)))
    | (extract_lets +onlyGivenNames x; refine (fun (hx : ∀ u y0, Kept b u → Kept b (x u y0)) => ?_) ?_; (on_goal 1 => try clear_value x); (on_goal 2 => (dsimp only [x]; clear x)))
    | (extract_lets +onlyGivenNames x; refine (fun (hx : ∀ u y0 y1, Kept b u → Kept b (x u y0 y1)) => ?_) ?_; (on_goal 1 => try clear_value x); (on_goal 2 => (dsimp only [x]; clear x)))
    | (extract_lets +onlyGivenNames x; refine (fun (hx : ∀ u y0 y1 y2, Kept b u → Kept b (x u y0 y1 y2)) => ?_) ?_; (on_goal 1 => try clear_value x); (on_goal 2 => (dsimp only [x]; clear x)))
    | (extract_lets +onlyGivenNames x; refine (fun (hx : ∀ u, Kept b u → Kept b (x u).2) => ?_) ?_; (on_goal 1 => try clear_value x); (on_goal 2 => (dsimp only [x]; clear x)))
    | (extract_lets +onlyGivenNames x; refine (fun (hx : ∀ u y0, Kept b u → Kept b (x u y0).2) => ?_) ?_; (on_goal 1 => try clear_value x); (on_goal 2 => (dsimp only [x]; clear x)))
    | (extract_lets +onlyGivenNames x; refine (fun (hx : ∀ u y0 y1, Kept b u → Kept b (x u y0 y1).2) => ?_) ?_; (on_goal 1 => try clear_value x); (on_goal 2 => (dsimp only [x]; clear x)))
    | (extract_lets +onlyGivenNames x; refine (fun (hx : ∀ y, Kept b (x y)) => ?_) ?_; (on_goal 1 => try clear_value x); (on_goal 2 => (dsimp only [x]; clear x)))
    | (extract_lets +onlyGivenNames x; first | clear_value x | (dsimp only [x]; clear x) | skip)
    | with_reducible apply State.updEntry_kept
    | with_reducible apply State.fire_kept
    | with_reducible apply State.bump_kept
    | split
    | (simp -zeta only [Kept_mk]; refine ⟨Kept.tabs ?_, ?_, ?_⟩)
    | with_reducible refine Kept.epochs ?_
    | with_reducible refine Kept.svns ?_
    | with_reducible apply_assumption
    | dsimp -zeta only [id]

theorem execPinReleaseScan_kept (t : Time) {s : State} (hs : Kept b s) : KeptOut b (execPinReleaseScan t s) := by
  unfold execPinReleaseScan
  repeat' first
    | with_reducible assumption
    | with_reducible refine KeptOut_next ?_
    | with_reducible apply State.dampScan_kept
    | with_reducible apply State.at_kept
    | dsimp -zeta only [id]

theorem State.learnIn_kept {s : State} (hs : Kept b s) (e : LearnEv) : Kept b (State.learnIn s e) := by
  unfold State.learnIn
  repeat' first
    | with_reducible assumption
    | intro _
    | (extract_lets +onlyGivenNames x; refine (fun (hx : Kept b x) => ?_) ?_; (on_goal 1 => try clear_value x); (on_goal 2 => (dsimp only [x]; clear x)))
    | (extract_lets +onlyGivenNames x; first | clear_value x | (dsimp only [x]; clear x) | skip)
    | with_reducible apply State.bump_kept
    | with_reducible apply State.fire_kept
    | split
    | (simp -zeta only [Kept_mk]; refine ⟨Kept.tabs ?_, ?_, ?_⟩)
    | with_reducible refine Kept.epochs ?_
    | with_reducible refine Kept.svns ?_
    | dsimp -zeta only [id]

theorem State.tellNew_kept {s : State} (hs : Kept b s) (v : LearnEv) : Kept b (State.tellNew s v) := by
  unfold State.tellNew
  repeat' first
    | with_reducible assumption
    | with_reducible apply State.lxSend_kept
    | split
    | dsimp -zeta only [id]

theorem State.learnNew_kept {s : State} (hs : Kept b s) (v : LearnEv) : Kept b (State.learnNew s v) := by
  unfold State.learnNew
  repeat' first
    | with_reducible assumption
    | intro _
    | (extract_lets +onlyGivenNames x; refine (fun (hx : Kept b x) => ?_) ?_; (on_goal 1 => try clear_value x); (on_goal 2 => (dsimp only [x]; clear x)))
    | (extract_lets +onlyGivenNames x; refine (fun (hx : Kept b x.2) => ?_) ?_; (on_goal 1 => try clear_value x); (on_goal 2 => (dsimp only [x]; clear x)))
    | (extract_lets +onlyGivenNames x; refine (fun (hx : Kept b x.1) => ?_) ?_; (on_goal 1 => try clear_value x); (on_goal 2 => (dsimp only [x]; clear x)))
    | (extract_lets +onlyGivenNames x; first | clear_value x | (dsimp only [x]; clear x) | skip)
    | with_reducible apply State.insertEntry_kept
    | with_reducible refine State.insertEntry_kept' ?_ _ _ _ ‹_›
    | with_reducible apply State.bump_kept
    | with_reducible apply State.tellNew_kept
    | with_reducible apply State.fire_kept
    | split
    | (simp -zeta only [Kept_mk]; refine ⟨Kept.tabs ?_, ?_, ?_⟩)
    | with_reducible refine Kept.epochs ?_
    | with_reducible refine Kept.svns ?_
    | dsimp -zeta only [id]

theorem State.learnMove_kept {s : State} (hs : Kept b s) (i : Nat) (v : LearnEv) : Kept b (State.learnMove s i v) := by
  unfold State.learnMove
  repeat' first
    | with_reducible assumption
    | intro _
    | (extract_lets +onlyGivenNames x; refine (fun (hx : Kept b x) => ?_) ?_; (on_goal 1 => try clear_value x); (on_goal 2 => (dsimp only [x]; clear x)))
    | (extract_lets +onlyGivenNames x; first | clear_value x | (dsimp only [x]; clear x) | skip)
    | with_reducible apply State.routeKill_kept
    | with_reducible apply State.updEntry_kept
    | with_reducible apply State.bump_kept
    | with_reducible apply State.dampMove_kept
    | with_reducible apply State.tellNew_kept
    | split
    | (simp -zeta only [Kept_mk]; refine ⟨Kept.tabs ?_, ?_, ?_⟩)
    | with_reducible refine Kept.epochs ?_
    | with_reducible refine Kept.svns ?_
    | dsimp -zeta only [id]

theorem State.learnAt_kept {s : State} (hs : Kept b s) (i : ℕ) (e : FwdEntry) (v : LearnEv) : Kept b (State.learnAt s i e v) := by
  unfold State.learnAt
  repeat' first
    | with_reducible assumption
    | intro _
    | (extract_lets +onlyGivenNames x; refine (fun (hx : Kept b x) => ?_) ?_; (on_goal 1 => try clear_value x); (on_goal 2 => (dsimp only [x]; clear x)))
    | (extract_lets +onlyGivenNames x; refine (fun (hx : b.svn ≤ (x : Upd).fuses) => ?_) ?_; (on_goal 1 => try clear_value x); (on_goal 2 => (dsimp only [x]; clear x)))
    | (extract_lets +onlyGivenNames x; first | clear_value x | (dsimp only [x]; clear x) | skip)
    | with_reducible apply State.fire_kept
    | with_reducible apply State.bump_kept
    | with_reducible apply State.updEntry_kept
    | with_reducible apply State.learnMove_kept
    | split
    | (simp -zeta only [Kept_mk]; refine ⟨Kept.tabs ?_, ?_, ?_⟩)
    | with_reducible refine Kept.epochs ?_
    | with_reducible refine Kept.svns ?_
    | dsimp -zeta only [id]

theorem State.learn_kept {s0 : State} (hs0 : Kept b s0) (errs : List FwdErr) (v : LearnEv) : Kept b (State.learn s0 errs v) := by
  unfold State.learn
  repeat' first
    | with_reducible assumption
    | (extract_lets +onlyGivenNames x; refine (fun (hx : Kept b x) => ?_) ?_; (on_goal 1 => try clear_value x); (on_goal 2 => (dsimp only [x]; clear x)))
    | (extract_lets +onlyGivenNames x; refine (fun (hx : Kept b x.2) => ?_) ?_; (on_goal 1 => try clear_value x); (on_goal 2 => (dsimp only [x]; clear x)))
    | (extract_lets +onlyGivenNames x; refine (fun (hx : Kept b x.1) => ?_) ?_; (on_goal 1 => try clear_value x); (on_goal 2 => (dsimp only [x]; clear x)))
    | (extract_lets +onlyGivenNames x; first | clear_value x | (dsimp only [x]; clear x) | skip)
    | with_reducible apply State.readBuckets_kept
    | with_reducible apply State.readHot_kept
    | with_reducible refine State.readHot_kept' ?_ _ _ ‹_›
    | with_reducible apply State.learnNew_kept
    | with_reducible apply State.learnAt_kept
    | split
    | dsimp -zeta only [id]

theorem execLearnEventApply_kept (t : Time) (errs : List FwdErr) {s : State} (hs : Kept b s) : KeptOut b (execLearnEventApply t errs s) := by
  unfold execLearnEventApply
  repeat' first
    | with_reducible assumption
    | with_reducible refine KeptOut_next ?_
    | (extract_lets +onlyGivenNames x; refine (fun (hx : Kept b x) => ?_) ?_; (on_goal 1 => try clear_value x); (on_goal 2 => (dsimp only [x]; clear x)))
    | (extract_lets +onlyGivenNames x; first | clear_value x | (dsimp only [x]; clear x) | skip)
    | with_reducible apply State.at_kept
    | with_reducible apply State.bump_kept
    | with_reducible apply State.learn_kept
    | split
    | (simp -zeta only [Kept_mk]; refine ⟨Kept.tabs ?_, ?_, ?_⟩)
    | with_reducible refine Kept.epochs ?_
    | with_reducible refine Kept.svns ?_
    | dsimp -zeta only [id]

theorem State.lxIn_kept {s : State} (hs : Kept b s) (m : LxRx) : Kept b (State.lxIn s m) := by
  unfold State.lxIn
  repeat' first
    | with_reducible assumption
    | intro _
    | (extract_lets +onlyGivenNames x; refine (fun (hx : Kept b x) => ?_) ?_; (on_goal 1 => try clear_value x); (on_goal 2 => (dsimp only [x]; clear x)))
    | (extract_lets +onlyGivenNames x; refine (fun (hx : Kept b x.2) => ?_) ?_; (on_goal 1 => try clear_value x); (on_goal 2 => (dsimp only [x]; clear x)))
    | (extract_lets +onlyGivenNames x; refine (fun (hx : Kept b x.1) => ?_) ?_; (on_goal 1 => try clear_value x); (on_goal 2 => (dsimp only [x]; clear x)))
    | (extract_lets +onlyGivenNames x; first | clear_value x | (dsimp only [x]; clear x) | skip)
    | with_reducible apply State.bump_kept
    | with_reducible apply State.fire_kept
    | with_reducible apply State.learnIn_kept
    | with_reducible apply State.readHot_kept
    | with_reducible refine State.readHot_kept' ?_ _ _ ‹_›
    | with_reducible apply State.readBuckets_kept
    | with_reducible apply State.freeEntry_kept
    | split
    | (simp -zeta only [Kept_mk]; refine ⟨Kept.tabs ?_, ?_, ?_⟩)
    | with_reducible refine Kept.epochs ?_
    | with_reducible refine Kept.svns ?_
    | dsimp -zeta only [id]

theorem execLxMessageReceive_kept (t : Time) (msg : LxRx) {s : State} (hs : Kept b s) : KeptOut b (execLxMessageReceive t msg s) := by
  unfold execLxMessageReceive
  repeat' first
    | with_reducible assumption
    | with_reducible refine KeptOut_next ?_
    | intro _
    | (extract_lets +onlyGivenNames x; refine (fun (hx : Kept b x) => ?_) ?_; (on_goal 1 => try clear_value x); (on_goal 2 => (dsimp only [x]; clear x)))
    | (extract_lets +onlyGivenNames x; first | clear_value x | (dsimp only [x]; clear x) | skip)
    | with_reducible apply State.whenLive_kept
    | with_reducible apply State.at_kept
    | with_reducible apply State.lxIn_kept
    | split
    | (simp -zeta only [Kept_mk]; refine ⟨Kept.tabs ?_, ?_, ?_⟩)
    | with_reducible refine Kept.epochs ?_
    | with_reducible refine Kept.svns ?_
    | dsimp -zeta only [id]

theorem State.sweepEntry_kept {s : State} (hs : Kept b s) (x : ℕ × FwdEntry) : Kept b (State.sweepEntry s x) := by
  unfold State.sweepEntry
  repeat' first
    | with_reducible assumption
    | intro _
    | (extract_lets +onlyGivenNames x; refine (fun (hx : Kept b x) => ?_) ?_; (on_goal 1 => try clear_value x); (on_goal 2 => (dsimp only [x]; clear x)))
    | (extract_lets +onlyGivenNames x; refine (fun (hx : Kept b x.2) => ?_) ?_; (on_goal 1 => try clear_value x); (on_goal 2 => (dsimp only [x]; clear x)))
    | (extract_lets +onlyGivenNames x; refine (fun (hx : Kept b x.1) => ?_) ?_; (on_goal 1 => try clear_value x); (on_goal 2 => (dsimp only [x]; clear x)))
    | (extract_lets +onlyGivenNames x; refine (fun (hx : b.svn ≤ (x : Upd).fuses) => ?_) ?_; (on_goal 1 => try clear_value x); (on_goal 2 => (dsimp only [x]; clear x)))
    | (extract_lets +onlyGivenNames x; first | clear_value x | (dsimp only [x]; clear x) | skip)
    | with_reducible apply State.updEntry_kept
    | with_reducible apply State.lxSend_kept
    | with_reducible apply State.bump_kept
    | with_reducible apply State.freeEntry_kept
    | split
    | (simp -zeta only [Kept_mk]; refine ⟨Kept.tabs ?_, ?_, ?_⟩)
    | with_reducible refine Kept.epochs ?_
    | with_reducible refine Kept.svns ?_
    | dsimp -zeta only [id]

theorem State.eachHot_kept {f : State → Nat × FwdEntry → State} (hf : ∀ u x, Kept b u → Kept b (f u x)) (l : List (Nat × FwdEntry)) :
    ∀ (errs : List FwdErr) {s : State}, Kept b s → Kept b (State.eachHot f errs l s) := by
  induction l with
  | nil => intro errs s hs; exact hs
  | cons x l ih => intro errs s hs; exact ih _ (hf _ _ (State.readHot_kept hs errs x.2.key))

theorem execSweepVisit_kept (t : Time) (bucket : Nat) (errs : List FwdErr) {s : State} (hs : Kept b s) : KeptOut b (execSweepVisit t bucket errs s) := by
  unfold execSweepVisit
  dsimp only
  refine KeptOut_next ?_
  have h0 := State.at_kept hs t
  revert h0
  generalize s.at t = s0
  intro h0
  split
  · exact h0
  · have k := State.readBucket_kept h0 errs false bucket
    revert k
    rcases s0.readBucket errs false bucket with ⟨_ | _, u⟩ <;> intro k
    · exact k
    · exact State.eachHot_kept (fun v x hv => State.sweepEntry_kept hv x) _ _ k

theorem execFilterScrubVisit_kept (v : ℕ) (both : Option Bool) {s : State} (hs : Kept b s) : KeptOut b (execFilterScrubVisit v both s) := by
  unfold execFilterScrubVisit
  repeat' first
    | with_reducible assumption
    | with_reducible refine KeptOut_next ?_
    | with_reducible apply State.readFilter_kept
    | with_reducible refine State.readFilter_kept' ?_ _ _ ‹_›
    | with_reducible apply State.scrub_kept
    | split
    | dsimp -zeta only [id]

theorem execFilterRebuildComplete_kept {s : State} (hs : Kept b s) : KeptOut b (execFilterRebuildComplete s) := by
  unfold execFilterRebuildComplete
  repeat' first
    | with_reducible assumption
    | with_reducible refine KeptOut_next ?_
    | intro _
    | (extract_lets +onlyGivenNames x; refine (fun (hx : Kept b x) => ?_) ?_; (on_goal 1 => try clear_value x); (on_goal 2 => (dsimp only [x]; clear x)))
    | (extract_lets +onlyGivenNames x; first | clear_value x | (dsimp only [x]; clear x) | skip)
    | with_reducible apply State.setFlag_kept
    | with_reducible apply State.fwdErr_kept
    | split
    | (simp -zeta only [Kept_mk]; refine ⟨Kept.tabs ?_, ?_, ?_⟩)
    | with_reducible refine Kept.epochs ?_
    | with_reducible refine Kept.svns ?_
    | dsimp -zeta only [id]

theorem execPolicerRefill_kept {s : State} (hs : Kept b s) : KeptOut b (execPolicerRefill s) := by
  unfold execPolicerRefill
  repeat' first
    | with_reducible assumption
    | with_reducible refine KeptOut_next ?_
    | intro _
    | (extract_lets +onlyGivenNames x; refine (fun (hx : Kept b x) => ?_) ?_; (on_goal 1 => try clear_value x); (on_goal 2 => (dsimp only [x]; clear x)))
    | (extract_lets +onlyGivenNames x; first | clear_value x | (dsimp only [x]; clear x) | skip)
    | with_reducible refine Kept_foldl ?_ ?_
    | with_reducible refine Kept_foldl2 ?_ ?_
    | with_reducible refine Kept_foldl1 ?_ ?_
    | split
    | (simp -zeta only [Kept_mk]; refine ⟨Kept.tabs ?_, ?_, ?_⟩)
    | with_reducible refine Kept.epochs ?_
    | with_reducible refine Kept.svns ?_
    | dsimp -zeta only [id]

theorem State.police_kept {s : State} (hs : Kept b s) (k : ℕ) (start : ℕ) : Kept b (State.police s k start).2 := by
  unfold State.police
  repeat' first
    | with_reducible assumption
    | (extract_lets +onlyGivenNames x; refine (fun (hx : Kept b x) => ?_) ?_; (on_goal 1 => try clear_value x); (on_goal 2 => (dsimp only [x]; clear x)))
    | (extract_lets +onlyGivenNames x; first | clear_value x | (dsimp only [x]; clear x) | skip)
    | with_reducible apply State.bump_kept
    | with_reducible apply State.endPkt_kept
    | with_reducible apply State.fireIf_kept
    | split
    | (simp -zeta only [Kept_mk]; refine ⟨Kept.tabs ?_, ?_, ?_⟩)
    | with_reducible refine Kept.epochs ?_
    | with_reducible refine Kept.svns ?_
    | dsimp -zeta only [id]

theorem State.police_kept' {s : State} (hs : Kept b s) (k : ℕ) (start : ℕ) {r1 : _} {t1 : State} (e1 : State.police s k start = (r1, t1)) : Kept b t1 := by
  have := State.police_kept (b := b) hs k start
  rw [e1] at this
  exact this

theorem State.bootErrs_kept {s : State} (hs : Kept b s) (errs : List FwdErr) : Kept b (State.bootErrs s errs) := by
  unfold State.bootErrs
  repeat' first
    | with_reducible assumption
    | intro _
    | (extract_lets +onlyGivenNames x; refine (fun (hx : Kept b x) => ?_) ?_; (on_goal 1 => try clear_value x); (on_goal 2 => (dsimp only [x]; clear x)))
    | (extract_lets +onlyGivenNames x; refine (fun (hx : Kept b x.2) => ?_) ?_; (on_goal 1 => try clear_value x); (on_goal 2 => (dsimp only [x]; clear x)))
    | (extract_lets +onlyGivenNames x; refine (fun (hx : Kept b x.1) => ?_) ?_; (on_goal 1 => try clear_value x); (on_goal 2 => (dsimp only [x]; clear x)))
    | (extract_lets +onlyGivenNames x; first | clear_value x | (dsimp only [x]; clear x) | skip)
    | with_reducible apply State.bump_kept
    | with_reducible apply State.fire_kept
    | with_reducible apply State.fwdErr_kept
    | with_reducible refine Kept_foldl ?_ ?_
    | with_reducible refine Kept_foldl2 ?_ ?_
    | with_reducible refine Kept_foldl1 ?_ ?_
    | split
    | (simp -zeta only [Kept_mk]; refine ⟨Kept.tabs ?_, ?_, ?_⟩)
    | with_reducible refine Kept.epochs ?_
    | with_reducible refine Kept.svns ?_
    | dsimp -zeta only [id]

theorem State.probe_kept {s : State} (hs : Kept b s) (errs : List FwdErr) (d : ℕ) (ls : List ℕ) :
    Kept b (State.probe s errs d ls).2 := by
  induction ls generalizing s with
  | nil => exact hs
  | cons l ls ih => exact ih (State.findEntry_kept hs _ _ _ _)

theorem State.longest_kept {s : State} (hs : Kept b s) (errs : List FwdErr) (d : ℕ) (ls : List ℕ) (f : ℕ) :
    Kept b (State.longest s errs d ls f).2 := by
  induction f generalizing s ls with
  | zero => exact hs
  | succ f ih =>
    rw [State.longest]
    split
    · exact hs
    · dsimp only
      split
      · exact State.probe_kept hs _ _ _
      · exact ih (State.probe_kept hs _ _ _) _

theorem State.pfxMatch_kept {s : State} (hs : Kept b s) (errs : List FwdErr) (d : Nat) : Kept b (State.pfxMatch s errs d).2 := by
  unfold State.pfxMatch
  repeat' first
    | with_reducible assumption
    | intro _
    | (extract_lets +onlyGivenNames x; refine (fun (hx : Kept b x) => ?_) ?_; (on_goal 1 => try clear_value x); (on_goal 2 => (dsimp only [x]; clear x)))
    | (extract_lets +onlyGivenNames x; refine (fun (hx : Kept b x.2) => ?_) ?_; (on_goal 1 => try clear_value x); (on_goal 2 => (dsimp only [x]; clear x)))
    | (extract_lets +onlyGivenNames x; refine (fun (hx : Kept b x.1) => ?_) ?_; (on_goal 1 => try clear_value x); (on_goal 2 => (dsimp only [x]; clear x)))
    | (extract_lets +onlyGivenNames x; first | clear_value x | (dsimp only [x]; clear x) | skip)
    | with_reducible apply State.readFilter_kept
    | with_reducible refine State.readFilter_kept' ?_ _ _ ‹_›
    | with_reducible apply State.longest_kept
    | with_reducible refine State.longest_kept' ?_ _ _ _ _ ‹_›
    | split
    | (simp -zeta only [Kept_mk]; refine ⟨Kept.tabs ?_, ?_, ?_⟩)
    | with_reducible refine Kept.epochs ?_
    | with_reducible refine Kept.svns ?_
    | dsimp -zeta only [id]

theorem State.pfxMatch_kept' {s : State} (hs : Kept b s) (errs : List FwdErr) (d : Nat) {r1 : _} {t1 : State} (e1 : State.pfxMatch s errs d = (r1, t1)) : Kept b t1 := by
  have := State.pfxMatch_kept (b := b) hs errs d
  rw [e1] at this
  exact this

theorem State.touch_kept {s : State} (hs : Kept b s) (i : ℕ) (e : FwdEntry) : Kept b (State.touch s i e) := by
  unfold State.touch
  repeat' first
    | with_reducible assumption
    | intro _
    | (extract_lets +onlyGivenNames x; refine (fun (hx : Kept b x) => ?_) ?_; (on_goal 1 => try clear_value x); (on_goal 2 => (dsimp only [x]; clear x)))
    | (extract_lets +onlyGivenNames x; refine (fun (hx : b.svn ≤ (x : Upd).fuses) => ?_) ?_; (on_goal 1 => try clear_value x); (on_goal 2 => (dsimp only [x]; clear x)))
    | (extract_lets +onlyGivenNames x; first | clear_value x | (dsimp only [x]; clear x) | skip)
    | with_reducible apply State.bump_kept
    | with_reducible apply State.updEntry_kept
    | (simp -zeta only [Kept_mk]; refine ⟨Kept.tabs ?_, ?_, ?_⟩)
    | with_reducible refine Kept.epochs ?_
    | with_reducible refine Kept.svns ?_
    | dsimp -zeta only [id]

theorem State.routeLookup_kept {s : State} (hs : Kept b s) (errs : List FwdErr) (d : Nat) : Kept b (State.routeLookup s errs d).2 := by
  unfold State.routeLookup
  repeat' first
    | with_reducible assumption
    | intro _
    | (extract_lets +onlyGivenNames x; refine (fun (hx : Kept b x) => ?_) ?_; (on_goal 1 => try clear_value x); (on_goal 2 => (dsimp only [x]; clear x)))
    | (extract_lets +onlyGivenNames x; refine (fun (hx : Kept b x.2) => ?_) ?_; (on_goal 1 => try clear_value x); (on_goal 2 => (dsimp only [x]; clear x)))
    | (extract_lets +onlyGivenNames x; refine (fun (hx : Kept b x.1) => ?_) ?_; (on_goal 1 => try clear_value x); (on_goal 2 => (dsimp only [x]; clear x)))
    | (extract_lets +onlyGivenNames x; first | clear_value x | (dsimp only [x]; clear x) | skip)
    | with_reducible apply State.pfxMatch_kept
    | with_reducible refine State.pfxMatch_kept' ?_ _ _ ‹_›
    | with_reducible apply State.bump_kept
    | with_reducible apply State.hotFill_kept
    | split
    | (simp -zeta only [Kept_mk]; refine ⟨Kept.tabs ?_, ?_, ?_⟩)
    | with_reducible refine Kept.epochs ?_
    | with_reducible refine Kept.svns ?_
    | dsimp -zeta only [id]

theorem State.routeLookup_kept' {s : State} (hs : Kept b s) (errs : List FwdErr) (d : Nat) {r1 : _} {t1 : State} (e1 : State.routeLookup s errs d = (r1, t1)) : Kept b t1 := by
  have := State.routeLookup_kept (b := b) hs errs d
  rw [e1] at this
  exact this

theorem State.lookup_kept {s : State} (hs : Kept b s) (errs : List FwdErr) (d : ℕ) : Kept b (State.lookup s errs d).2 := by
  unfold State.lookup
  repeat' first
    | with_reducible assumption
    | intro _
    | (extract_lets +onlyGivenNames x; refine (fun (hx : Kept b x) => ?_) ?_; (on_goal 1 => try clear_value x); (on_goal 2 => (dsimp only [x]; clear x)))
    | (extract_lets +onlyGivenNames x; refine (fun (hx : Kept b x.2) => ?_) ?_; (on_goal 1 => try clear_value x); (on_goal 2 => (dsimp only [x]; clear x)))
    | (extract_lets +onlyGivenNames x; refine (fun (hx : Kept b x.1) => ?_) ?_; (on_goal 1 => try clear_value x); (on_goal 2 => (dsimp only [x]; clear x)))
    | (extract_lets +onlyGivenNames x; first | clear_value x | (dsimp only [x]; clear x) | skip)
    | with_reducible apply State.bootErrs_kept
    | with_reducible apply State.bump_kept
    | with_reducible apply State.readHot_kept
    | with_reducible refine State.readHot_kept' ?_ _ _ ‹_›
    | with_reducible apply State.touch_kept
    | with_reducible apply State.routeLookup_kept
    | with_reducible refine State.routeLookup_kept' ?_ _ _ ‹_›
    | with_reducible apply State.hotFill_kept
    | with_reducible apply State.findEntry_kept
    | with_reducible refine State.findEntry_kept' ?_ _ _ _ _ ‹_›
    | split
    | dsimp -zeta only [id]

theorem State.lookup_kept' {s : State} (hs : Kept b s) (errs : List FwdErr) (d : ℕ) {r1 : _} {t1 : State} (e1 : State.lookup s errs d = (r1, t1)) : Kept b t1 := by
  have := State.lookup_kept (b := b) hs errs d
  rw [e1] at this
  exact this

theorem State.egress_kept {s : State} (hs : Kept b s) (start : ℕ) (e : FwdEntry) (dscp : ℕ) : Kept b (State.egress s start e dscp) := by
  unfold State.egress
  repeat' first
    | with_reducible assumption
    | intro _
    | (extract_lets +onlyGivenNames x; refine (fun (hx : Kept b x) => ?_) ?_; (on_goal 1 => try clear_value x); (on_goal 2 => (dsimp only [x]; clear x)))
    | (extract_lets +onlyGivenNames x; refine (fun (hx : b.svn ≤ (x : Upd).fuses) => ?_) ?_; (on_goal 1 => try clear_value x); (on_goal 2 => (dsimp only [x]; clear x)))
    | (extract_lets +onlyGivenNames x; first | clear_value x | (dsimp only [x]; clear x) | skip)
    | with_reducible apply State.pushPkt_kept
    | with_reducible apply State.updPkt_kept
    | with_reducible apply State.cscPump_kept
    | with_reducible apply State.toPrc_kept
    | split
    | (simp -zeta only [Kept_mk]; refine ⟨Kept.tabs ?_, ?_, ?_⟩)
    | with_reducible refine Kept.epochs ?_
    | with_reducible refine Kept.svns ?_
    | dsimp -zeta only [id]

theorem State.policeSrc_kept {s : State} (hs : Kept b s) (start : ℕ) (p : Pkt) (mc : Bool) (et : Option ℕ) : Kept b (State.policeSrc s start p mc et).2 := by
  unfold State.policeSrc
  repeat' first
    | with_reducible assumption
    | with_reducible apply State.police_kept
    | with_reducible refine State.police_kept' ?_ _ _ ‹_›
    | split
    | dsimp -zeta only [id]

theorem State.policeSrc_kept' {s : State} (hs : Kept b s) (start : ℕ) (p : Pkt) (mc : Bool) (et : Option ℕ) {r1 : _} {t1 : State} (e1 : State.policeSrc s start p mc et = (r1, t1)) : Kept b t1 := by
  have := State.policeSrc_kept (b := b) hs start p mc et
  rw [e1] at this
  exact this

theorem State.forward_kept {s0 : State} (hs0 : Kept b s0) (errs : List FwdErr) (start : ℕ) (p : Pkt) (dst : ℕ) (dscp : ℕ) : Kept b (State.forward s0 errs start p dst dscp) := by
  unfold State.forward
  repeat' first
    | with_reducible assumption
    | (extract_lets +onlyGivenNames x; refine (fun (hx : Kept b x) => ?_) ?_; (on_goal 1 => try clear_value x); (on_goal 2 => (dsimp only [x]; clear x)))
    | (extract_lets +onlyGivenNames x; first | clear_value x | (dsimp only [x]; clear x) | skip)
    | with_reducible apply State.bump_kept
    | with_reducible apply State.policeSrc_kept
    | with_reducible refine State.policeSrc_kept' ?_ _ _ _ _ ‹_›
    | with_reducible apply State.pushPkt_kept
    | with_reducible apply State.lookup_kept
    | with_reducible refine State.lookup_kept' ?_ _ _ ‹_›
    | with_reducible apply State.endPkt_kept
    | with_reducible apply State.egress_kept
    | split
    | dsimp -zeta only [id]

theorem State.learnFrom_kept {s : State} (hs : Kept b s) (p : Pkt) (src : ℕ) : Kept b (State.learnFrom s p src) := by
  unfold State.learnFrom
  repeat' first
    | with_reducible assumption
    | with_reducible apply State.learnIn_kept
    | split
    | dsimp -zeta only [id]

theorem execFwdLookup_kept (t : Time) (pkt : ℕ) (dst : ℕ) (src : ℕ) (dscp : ℕ) (errs : List FwdErr) {s : State} (hs : Kept b s) : KeptOut b (execFwdLookup t pkt dst src dscp errs s) := by
  unfold execFwdLookup
  repeat' first
    | with_reducible assumption
    | with_reducible refine KeptOut_next ?_
    | intro _
    | (extract_lets +onlyGivenNames x; refine (fun (hx : Kept b x) => ?_) ?_; (on_goal 1 => try clear_value x); (on_goal 2 => (dsimp only [x]; clear x)))
    | (extract_lets +onlyGivenNames x; first | clear_value x | (dsimp only [x]; clear x) | skip)
    | with_reducible apply State.at_kept
    | with_reducible apply State.learnFrom_kept
    | with_reducible apply State.forward_kept
    | split
    | (simp -zeta only [Kept_mk]; refine ⟨Kept.tabs ?_, ?_, ?_⟩)
    | with_reducible refine Kept.epochs ?_
    | with_reducible refine Kept.svns ?_
    | dsimp -zeta only [id]

theorem execFwdPerpop_kept (rq : Req) {s : State} (hs : Kept b s) : KeptOut b (execFwdPerpop rq s) := by
  unfold execFwdPerpop
  repeat' first
    | with_reducible assumption
    | with_reducible refine KeptOut_next ?_
    | intro _
    | (extract_lets +onlyGivenNames x; refine (fun (hx : Kept b x) => ?_) ?_; (on_goal 1 => try clear_value x); (on_goal 2 => (dsimp only [x]; clear x)))
    | (extract_lets +onlyGivenNames x; first | clear_value x | (dsimp only [x]; clear x) | skip)
    | with_reducible apply State.gated_kept
    | (simp -zeta only [Kept_mk]; refine ⟨Kept.tabs ?_, ?_, ?_⟩)
    | with_reducible refine Kept.epochs ?_
    | with_reducible refine Kept.svns ?_
    | dsimp -zeta only [id]

end Sys2Proof.Machine
end

