-- ==== Sys2Proof/Laws/KeptSlv.lean ====
section
/-! SUPPORT. What the operations of Machine/Slv.lean keep: queue, canonical tables, fuses. -/

set_option linter.unusedTactic false
set_option linter.unreachableTactic false
set_option linter.unusedVariables false
set_option linter.tactic.unusedName false

namespace Sys2Proof.Machine

variable {b : Base}

/-! ### Slv -/

theorem State.slvResult_kept {s : State} (hs : Kept b s) (r : SlvRes) : Kept b (State.slvResult s r) := by
  unfold State.slvResult
  repeat' first
    | with_reducible assumption
    | (extract_lets +onlyGivenNames x; refine (fun (hx : Kept b x) => ?_) ?_; (on_goal 1 => try clear_value x); (on_goal 2 => (dsimp only [x]; clear x)))
    | (extract_lets +onlyGivenNames x; first | clear_value x | (dsimp only [x]; clear x) | skip)
    | with_reducible apply State.fireIf_kept
    | with_reducible apply State.fire_kept
    | with_reducible apply State.bump_kept
    | split
    | (simp -zeta only [Kept_mk]; refine ⟨Kept.tabs ?_, ?_, ?_⟩)
    | with_reducible refine Kept.epochs ?_
    | with_reducible refine Kept.svns ?_
    | dsimp -zeta only [id]

theorem State.slvShort_kept {s : State} (hs : Kept b s) (x : Short) : Kept b (State.slvShort s x) := by
  unfold State.slvShort
  repeat' first
    | with_reducible assumption
    | (extract_lets +onlyGivenNames x; refine (fun (hx : Kept b x) => ?_) ?_; (on_goal 1 => try clear_value x); (on_goal 2 => (dsimp only [x]; clear x)))
    | (extract_lets +onlyGivenNames x; first | clear_value x | (dsimp only [x]; clear x) | skip)
    | with_reducible apply State.fireIf_kept
    | with_reducible apply State.bump_kept
    | split
    | (simp -zeta only [Kept_mk]; refine ⟨Kept.tabs ?_, ?_, ?_⟩)
    | with_reducible refine Kept.epochs ?_
    | with_reducible refine Kept.svns ?_
    | dsimp -zeta only [id]

theorem State.slvEnd_kept {s : State} (hs : Kept b s) (c : SlvCmd) (outcome : Nat) (count : Nat) (dur : Nat) (short : Nat) : Kept b (State.slvEnd s c outcome count dur short) := by
  unfold State.slvEnd
  repeat' first
    | with_reducible assumption
    | intro _
    | (extract_lets +onlyGivenNames x; refine (fun (hx : Kept b x) => ?_) ?_; (on_goal 1 => try clear_value x); (on_goal 2 => (dsimp only [x]; clear x)))
    | (extract_lets +onlyGivenNames x; first | clear_value x | (dsimp only [x]; clear x) | skip)
    | with_reducible apply State.slvResult_kept
    | split
    | (simp -zeta only [Kept_mk]; refine ⟨Kept.tabs ?_, ?_, ?_⟩)
    | with_reducible refine Kept.epochs ?_
    | with_reducible refine Kept.svns ?_
    | dsimp -zeta only [id]

theorem State.slvEndAll_kept {s : State} (hs : Kept b s) (cs : List SlvCmd) (outcome : Nat) (count : Nat) (dur : Nat) (short : Nat) : Kept b (State.slvEndAll s cs outcome count dur short) := by
  unfold State.slvEndAll
  repeat' first
    | with_reducible assumption
    | intro _
    | (extract_lets +onlyGivenNames x; refine (fun (hx : Kept b x) => ?_) ?_; (on_goal 1 => try clear_value x); (on_goal 2 => (dsimp only [x]; clear x)))
    | (extract_lets +onlyGivenNames x; refine (fun (hx : Kept b x.2) => ?_) ?_; (on_goal 1 => try clear_value x); (on_goal 2 => (dsimp only [x]; clear x)))
    | (extract_lets +onlyGivenNames x; refine (fun (hx : Kept b x.1) => ?_) ?_; (on_goal 1 => try clear_value x); (on_goal 2 => (dsimp only [x]; clear x)))
    | (extract_lets +onlyGivenNames x; first | clear_value x | (dsimp only [x]; clear x) | skip)
    | with_reducible apply State.slvEnd_kept
    | with_reducible refine Kept_foldl ?_ ?_
    | with_reducible refine Kept_foldl2 ?_ ?_
    | with_reducible refine Kept_foldl1 ?_ ?_
    | split
    | (simp -zeta only [Kept_mk]; refine ⟨Kept.tabs ?_, ?_, ?_⟩)
    | with_reducible refine Kept.epochs ?_
    | with_reducible refine Kept.svns ?_
    | dsimp -zeta only [id]

theorem State.slvQueue_kept {s : State} (hs : Kept b s) (c : SlvCmd) : Kept b (State.slvQueue s c) := by
  unfold State.slvQueue
  repeat' first
    | with_reducible assumption
    | (extract_lets +onlyGivenNames x; refine (fun (hx : Kept b x) => ?_) ?_; (on_goal 1 => try clear_value x); (on_goal 2 => (dsimp only [x]; clear x)))
    | (extract_lets +onlyGivenNames x; first | clear_value x | (dsimp only [x]; clear x) | skip)
    | with_reducible apply State.fire_kept
    | with_reducible apply State.bump_kept
    | split
    | (simp -zeta only [Kept_mk]; refine ⟨Kept.tabs ?_, ?_, ?_⟩)
    | with_reducible refine Kept.epochs ?_
    | with_reducible refine Kept.svns ?_
    | dsimp -zeta only [id]

theorem State.slvWrite_kept {s : State} (hs : Kept b s) (rq : Req) (op : Nat) (node : Nat) (tag : Nat) : Kept b (State.slvWrite s rq op node tag) := by
  unfold State.slvWrite
  repeat' first
    | with_reducible assumption
    | intro _
    | (extract_lets +onlyGivenNames x; refine (fun (hx : Kept b x) => ?_) ?_; (on_goal 1 => try clear_value x); (on_goal 2 => (dsimp only [x]; clear x)))
    | (extract_lets +onlyGivenNames x; first | clear_value x | (dsimp only [x]; clear x) | skip)
    | with_reducible apply State.gated_kept
    | with_reducible apply State.slvQueue_kept
    | split
    | (simp -zeta only [Kept_mk]; refine ⟨Kept.tabs ?_, ?_, ?_⟩)
    | with_reducible refine Kept.epochs ?_
    | with_reducible refine Kept.svns ?_
    | dsimp -zeta only [id]

theorem State.slvOwnSolve_kept {s : State} (hs : Kept b s) : Kept b (State.slvOwnSolve s) := by
  unfold State.slvOwnSolve
  repeat' first
    | with_reducible assumption
    | intro _
    | (extract_lets +onlyGivenNames x; refine (fun (hx : Kept b x) => ?_) ?_; (on_goal 1 => try clear_value x); (on_goal 2 => (dsimp only [x]; clear x)))
    | (extract_lets +onlyGivenNames x; first | clear_value x | (dsimp only [x]; clear x) | skip)
    | split
    | (simp -zeta only [Kept_mk]; refine ⟨Kept.tabs ?_, ?_, ?_⟩)
    | with_reducible refine Kept.epochs ?_
    | with_reducible refine Kept.svns ?_
    | dsimp -zeta only [id]

theorem State.slvSkip_kept {s : State} (hs : Kept b s) (x1 : ℕ) : Kept b (State.slvSkip s x1) := by
  induction x1 generalizing s with
  | zero =>
    rw [State.slvSkip]
    exact hs
  | succ k ih =>
    rw [State.slvSkip]
    repeat' first
      | with_reducible assumption
      | (extract_lets +onlyGivenNames x; refine (fun (hx : Kept b x) => ?_) ?_; (on_goal 1 => try clear_value x); (on_goal 2 => (dsimp only [x]; clear x)))
      | (extract_lets +onlyGivenNames x; first | clear_value x | (dsimp only [x]; clear x) | skip)
      | with_reducible apply State.at_kept
      | with_reducible apply State.slvEnd_kept
      | split
      | (simp -zeta only [Kept_mk]; refine ⟨Kept.tabs ?_, ?_, ?_⟩)
      | with_reducible refine Kept.epochs ?_
      | with_reducible refine Kept.svns ?_
      | dsimp -zeta only [id]
      | with_reducible apply ih

theorem State.slvRun_kept {s : State} (hs : Kept b s) (op : Nat) (dur : Nat) {act : State → SlvCmd → State} (hact : ∀ u x, Kept b u → Kept b (act u x)) : Kept b (State.slvRun s op dur act) := by
  unfold State.slvRun
  repeat' first
    | with_reducible assumption
    | intro _
    | (extract_lets +onlyGivenNames x; refine (fun (hx : Kept b x) => ?_) ?_; (on_goal 1 => try clear_value x); (on_goal 2 => (dsimp only [x]; clear x)))
    | (extract_lets +onlyGivenNames x; first | clear_value x | (dsimp only [x]; clear x) | skip)
    | with_reducible apply hact
    | with_reducible apply State.slvSkip_kept
    | with_reducible apply State.commitAt_kept
    | with_reducible apply State.slvEnd_kept
    | split
    | (simp -zeta only [Kept_mk]; refine ⟨Kept.tabs ?_, ?_, ?_⟩)
    | with_reducible refine Kept.epochs ?_
    | with_reducible refine Kept.svns ?_
    | dsimp -zeta only [id]

theorem State.slvCmd_kept {s : State} (hs : Kept b s) (st : CmdStep) (op : ℕ) (node : ℕ) (tag : ℕ) (dur : ℕ) {act : State → SlvCmd → State} (hact : ∀ u x, Kept b u → Kept b (act u x)) : Kept b (State.slvCmd s st op node tag dur act) := by
  unfold State.slvCmd
  repeat' first
    | with_reducible assumption
    | intro _
    | with_reducible apply State.slvWrite_kept
    | with_reducible apply State.slvRun_kept
    | with_reducible apply State.at_kept
    | with_reducible apply hact
    | split
    | dsimp -zeta only [id]

theorem State.setDemand_kept {s : State} (hs : Kept b s) (d : DemRec) : Kept b (State.setDemand s d) := by
  unfold State.setDemand
  repeat' first
    | with_reducible assumption
    | (extract_lets +onlyGivenNames x; refine (fun (hx : Kept b x) => ?_) ?_; (on_goal 1 => try clear_value x); (on_goal 2 => (dsimp only [x]; clear x)))
    | (extract_lets +onlyGivenNames x; first | clear_value x | (dsimp only [x]; clear x) | skip)
    | (simp -zeta only [Kept_mk]; refine ⟨Kept.tabs ?_, ?_, ?_⟩)
    | with_reducible refine Kept.epochs ?_
    | with_reducible refine Kept.svns ?_
    | dsimp -zeta only [id]

theorem State.slvWorld_kept {s : State} (hs : Kept b s) (c : SlvCmd) (wr : Bool) (dur : Nat) {act : State → State} (hact : ∀ u, Kept b u → Kept b (act u)) : Kept b (State.slvWorld s c wr dur act) := by
  unfold State.slvWorld
  repeat' first
    | with_reducible assumption
    | intro _
    | (extract_lets +onlyGivenNames x; refine (fun (hx : Kept b x) => ?_) ?_; (on_goal 1 => try clear_value x); (on_goal 2 => (dsimp only [x]; clear x)))
    | (extract_lets +onlyGivenNames x; first | clear_value x | (dsimp only [x]; clear x) | skip)
    | with_reducible apply hact
    | with_reducible apply State.xwFault_kept
    | with_reducible apply State.nextFree_kept
    | with_reducible apply State.slvEnd_kept
    | split
    | (simp -zeta only [Kept_mk]; refine ⟨Kept.tabs ?_, ?_, ?_⟩)
    | with_reducible refine Kept.epochs ?_
    | with_reducible refine Kept.svns ?_
    | dsimp -zeta only [id]

theorem execSlvDemand_kept (st : CmdStep) (node : ℕ) (tag : ℕ) (dur : ℕ) {s : State} (hs : Kept b s) : KeptOut b (execSlvDemand st node tag dur s) := by
  unfold execSlvDemand
  repeat' first
    | with_reducible assumption
    | with_reducible refine KeptOut_next ?_
    | intro _
    | with_reducible apply State.slvCmd_kept
    | with_reducible apply State.slvWorld_kept
    | with_reducible apply State.slvEnd_kept
    | with_reducible apply State.setDemand_kept
    | split
    | dsimp -zeta only [id]

theorem execSlvLink_kept (st : CmdStep) (node : ℕ) (tag : ℕ) (dur : ℕ) {s : State} (hs : Kept b s) : KeptOut b (execSlvLink st node tag dur s) := by
  unfold execSlvLink
  repeat' first
    | with_reducible assumption
    | with_reducible refine KeptOut_next ?_
    | intro _
    | (extract_lets +onlyGivenNames x; refine (fun (hx : Kept b x) => ?_) ?_; (on_goal 1 => try clear_value x); (on_goal 2 => (dsimp only [x]; clear x)))
    | (extract_lets +onlyGivenNames x; first | clear_value x | (dsimp only [x]; clear x) | skip)
    | with_reducible apply State.slvCmd_kept
    | with_reducible apply State.slvWorld_kept
    | with_reducible apply State.slvEnd_kept
    | with_reducible apply State.addLink_kept
    | split
    | dsimp -zeta only [id]

theorem State.slvRdata_kept {s : State} (hs : Kept b s) (l : List Sys2Proof.Octet) : Kept b (State.slvRdata s l) := by
  unfold State.slvRdata
  repeat' first
    | with_reducible assumption
    | with_reducible apply State.setRegs_kept
    | with_reducible apply State.setReg_kept
    | dsimp -zeta only [id]

theorem execSlvReaddem_kept (st : CmdStep) (node : ℕ) (tag : ℕ) (dur : ℕ) {s : State} (hs : Kept b s) : KeptOut b (execSlvReaddem st node tag dur s) := by
  unfold execSlvReaddem
  repeat' first
    | with_reducible assumption
    | with_reducible refine KeptOut_next ?_
    | intro _
    | with_reducible apply State.slvCmd_kept
    | with_reducible apply State.slvWorld_kept
    | with_reducible apply State.slvEnd_kept
    | with_reducible apply State.slvRdata_kept
    | split
    | dsimp -zeta only [id]

theorem execSlvReadlink_kept (st : CmdStep) (node : ℕ) (tag : ℕ) (dur : ℕ) {s : State} (hs : Kept b s) : KeptOut b (execSlvReadlink st node tag dur s) := by
  unfold execSlvReadlink
  repeat' first
    | with_reducible assumption
    | with_reducible refine KeptOut_next ?_
    | intro _
    | (extract_lets +onlyGivenNames x; refine (fun (hx : Kept b x) => ?_) ?_; (on_goal 1 => try clear_value x); (on_goal 2 => (dsimp only [x]; clear x)))
    | (extract_lets +onlyGivenNames x; first | clear_value x | (dsimp only [x]; clear x) | skip)
    | with_reducible apply State.slvCmd_kept
    | with_reducible apply State.slvWorld_kept
    | with_reducible apply State.slvEnd_kept
    | with_reducible apply State.slvRdata_kept
    | split
    | dsimp -zeta only [id]

theorem State.schedTo_kept {s : State} (hs : Kept b s) (chip : Nat) (l : List CscSched) : Kept b (State.schedTo s chip l) := by
  unfold State.schedTo
  repeat' first
    | with_reducible assumption
    | intro _
    | (extract_lets +onlyGivenNames x; refine (fun (hx : Kept b x) => ?_) ?_; (on_goal 1 => try clear_value x); (on_goal 2 => (dsimp only [x]; clear x)))
    | (extract_lets +onlyGivenNames x; first | clear_value x | (dsimp only [x]; clear x) | skip)
    | split
    | (simp -zeta only [Kept_mk]; refine ⟨Kept.tabs ?_, ?_, ?_⟩)
    | with_reducible refine Kept.epochs ?_
    | with_reducible refine Kept.svns ?_
    | dsimp -zeta only [id]

theorem State.schedAll_kept {s : State} (hs : Kept b s) (f : Nat → List CscSched) : Kept b (State.schedAll s f) := by
  unfold State.schedAll
  repeat' first
    | with_reducible assumption
    | intro _
    | (extract_lets +onlyGivenNames x; refine (fun (hx : Kept b x) => ?_) ?_; (on_goal 1 => try clear_value x); (on_goal 2 => (dsimp only [x]; clear x)))
    | (extract_lets +onlyGivenNames x; refine (fun (hx : Kept b x.2) => ?_) ?_; (on_goal 1 => try clear_value x); (on_goal 2 => (dsimp only [x]; clear x)))
    | (extract_lets +onlyGivenNames x; refine (fun (hx : Kept b x.1) => ?_) ?_; (on_goal 1 => try clear_value x); (on_goal 2 => (dsimp only [x]; clear x)))
    | (extract_lets +onlyGivenNames x; first | clear_value x | (dsimp only [x]; clear x) | skip)
    | with_reducible apply State.schedTo_kept
    | with_reducible refine Kept_foldl ?_ ?_
    | with_reducible refine Kept_foldl2 ?_ ?_
    | with_reducible refine Kept_foldl1 ?_ ?_
    | split
    | (simp -zeta only [Kept_mk]; refine ⟨Kept.tabs ?_, ?_, ?_⟩)
    | with_reducible refine Kept.epochs ?_
    | with_reducible refine Kept.svns ?_
    | dsimp -zeta only [id]

theorem State.tellNodes_kept {s : State} (hs : Kept b s) : Kept b (State.tellNodes s) := by
  unfold State.tellNodes
  repeat' first
    | with_reducible assumption
    | intro _
    | (extract_lets +onlyGivenNames x; refine (fun (hx : Kept b x) => ?_) ?_; (on_goal 1 => try clear_value x); (on_goal 2 => (dsimp only [x]; clear x)))
    | (extract_lets +onlyGivenNames x; first | clear_value x | (dsimp only [x]; clear x) | skip)
    | with_reducible apply State.schedTo_kept
    | split
    | (simp -zeta only [Kept_mk]; refine ⟨Kept.tabs ?_, ?_, ?_⟩)
    | with_reducible refine Kept.epochs ?_
    | with_reducible refine Kept.svns ?_
    | dsimp -zeta only [id]

theorem State.copyCells_kept {s : State} (hs : Kept b s) : Kept b (State.copyCells s) := by
  unfold State.copyCells
  repeat' first
    | with_reducible assumption
    | intro _
    | (extract_lets +onlyGivenNames x; refine (fun (hx : Kept b x) => ?_) ?_; (on_goal 1 => try clear_value x); (on_goal 2 => (dsimp only [x]; clear x)))
    | (extract_lets +onlyGivenNames x; first | clear_value x | (dsimp only [x]; clear x) | skip)
    | with_reducible apply State.schedTo_kept
    | split
    | (simp -zeta only [Kept_mk]; refine ⟨Kept.tabs ?_, ?_, ?_⟩)
    | with_reducible refine Kept.epochs ?_
    | with_reducible refine Kept.svns ?_
    | dsimp -zeta only [id]

theorem State.slvLog_kept {s : State} (hs : Kept b s) (joined : Bool) (node : ℕ) : Kept b (State.slvLog s joined node) := by
  unfold State.slvLog
  repeat' first
    | with_reducible assumption
    | (extract_lets +onlyGivenNames x; refine (fun (hx : Kept b x) => ?_) ?_; (on_goal 1 => try clear_value x); (on_goal 2 => (dsimp only [x]; clear x)))
    | (extract_lets +onlyGivenNames x; first | clear_value x | (dsimp only [x]; clear x) | skip)
    | split
    | (simp -zeta only [Kept_mk]; refine ⟨Kept.tabs ?_, ?_, ?_⟩)
    | with_reducible refine Kept.epochs ?_
    | with_reducible refine Kept.svns ?_
    | dsimp -zeta only [id]

theorem State.slvShorts_kept {s : State} (hs : Kept b s) (l : List Short) : Kept b (State.slvShorts s l).2 := by
  unfold State.slvShorts
  repeat' first
    | with_reducible assumption
    | intro _
    | (extract_lets +onlyGivenNames x; refine (fun (hx : Kept b x) => ?_) ?_; (on_goal 1 => try clear_value x); (on_goal 2 => (dsimp only [x]; clear x)))
    | (extract_lets +onlyGivenNames x; refine (fun (hx : Kept b x.2) => ?_) ?_; (on_goal 1 => try clear_value x); (on_goal 2 => (dsimp only [x]; clear x)))
    | (extract_lets +onlyGivenNames x; refine (fun (hx : Kept b x.1) => ?_) ?_; (on_goal 1 => try clear_value x); (on_goal 2 => (dsimp only [x]; clear x)))
    | (extract_lets +onlyGivenNames x; first | clear_value x | (dsimp only [x]; clear x) | skip)
    | with_reducible apply State.slvShort_kept
    | with_reducible refine Kept_foldl ?_ ?_
    | with_reducible refine Kept_foldl2 ?_ ?_
    | with_reducible refine Kept_foldl1 ?_ ?_
    | split
    | (simp -zeta only [Kept_mk]; refine ⟨Kept.tabs ?_, ?_, ?_⟩)
    | with_reducible refine Kept.epochs ?_
    | with_reducible refine Kept.svns ?_
    | dsimp -zeta only [id]

theorem State.slvShorts_kept' {s : State} (hs : Kept b s) (l : List Short) {r1 : _} {t1 : State} (e1 : State.slvShorts s l = (r1, t1)) : Kept b t1 := by
  have := State.slvShorts_kept (b := b) hs l
  rw [e1] at this
  exact this

theorem State.noFit_kept {s : State} (hs : Kept b s) (c : SlvCmd) (dur : Nat) : Kept b (State.noFit s c dur) := by
  unfold State.noFit
  repeat' first
    | with_reducible assumption
    | intro _
    | (extract_lets +onlyGivenNames x; refine (fun (hx : Kept b x) => ?_) ?_; (on_goal 1 => try clear_value x); (on_goal 2 => (dsimp only [x]; clear x)))
    | (extract_lets +onlyGivenNames x; refine (fun (hx : Kept b x.2) => ?_) ?_; (on_goal 1 => try clear_value x); (on_goal 2 => (dsimp only [x]; clear x)))
    | (extract_lets +onlyGivenNames x; refine (fun (hx : Kept b x.1) => ?_) ?_; (on_goal 1 => try clear_value x); (on_goal 2 => (dsimp only [x]; clear x)))
    | (extract_lets +onlyGivenNames x; first | clear_value x | (dsimp only [x]; clear x) | skip)
    | with_reducible apply State.dropNode_kept
    | with_reducible apply State.slvShorts_kept
    | with_reducible refine State.slvShorts_kept' ?_ _ ‹_›
    | with_reducible apply State.bump_kept
    | with_reducible apply State.slvEnd_kept
    | with_reducible apply State.fire_kept
    | with_reducible apply State.slvOwnSolve_kept
    | split
    | (simp -zeta only [Kept_mk]; refine ⟨Kept.tabs ?_, ?_, ?_⟩)
    | with_reducible refine Kept.epochs ?_
    | with_reducible refine Kept.svns ?_
    | dsimp -zeta only [id]

theorem State.joinTake_kept {s : State} (hs : Kept b s) (c : SlvCmd) (p : Placement) (dur : Nat) : Kept b (State.joinTake s c p dur) := by
  unfold State.joinTake
  repeat' first
    | with_reducible assumption
    | intro _
    | (extract_lets +onlyGivenNames x; refine (fun (hx : Kept b x) => ?_) ?_; (on_goal 1 => try clear_value x); (on_goal 2 => (dsimp only [x]; clear x)))
    | (extract_lets +onlyGivenNames x; refine (fun (hx : Kept b x.2) => ?_) ?_; (on_goal 1 => try clear_value x); (on_goal 2 => (dsimp only [x]; clear x)))
    | (extract_lets +onlyGivenNames x; refine (fun (hx : Kept b x.1) => ?_) ?_; (on_goal 1 => try clear_value x); (on_goal 2 => (dsimp only [x]; clear x)))
    | (extract_lets +onlyGivenNames x; first | clear_value x | (dsimp only [x]; clear x) | skip)
    | with_reducible apply State.slvEnd_kept
    | with_reducible apply State.slvShorts_kept
    | with_reducible refine State.slvShorts_kept' ?_ _ ‹_›
    | with_reducible apply State.changeSet_kept
    | with_reducible apply State.slvLog_kept
    | with_reducible apply State.bump_kept
    | split
    | (simp -zeta only [Kept_mk]; refine ⟨Kept.tabs ?_, ?_, ?_⟩)
    | with_reducible refine Kept.epochs ?_
    | with_reducible refine Kept.svns ?_
    | dsimp -zeta only [id]

theorem execSlvJoin_kept (st : CmdStep) (node : Nat) (tag : Nat) (dur : Nat) (found : List Placement) {s : State} (hs : Kept b s) : KeptOut b (execSlvJoin st node tag dur found s) := by
  unfold execSlvJoin
  repeat' first
    | with_reducible assumption
    | with_reducible refine KeptOut_next ?_
    | intro _
    | (extract_lets +onlyGivenNames x; refine (fun (hx : Kept b x) => ?_) ?_; (on_goal 1 => try clear_value x); (on_goal 2 => (dsimp only [x]; clear x)))
    | (extract_lets +onlyGivenNames x; first | clear_value x | (dsimp only [x]; clear x) | skip)
    | with_reducible apply State.slvWrite_kept
    | with_reducible apply State.at_kept
    | with_reducible apply State.slvRun_kept
    | with_reducible apply State.slvEnd_kept
    | with_reducible apply State.schedTo_kept
    | with_reducible apply State.joinTake_kept
    | with_reducible apply State.noFit_kept
    | split
    | (simp -zeta only [Kept_mk]; refine ⟨Kept.tabs ?_, ?_, ?_⟩)
    | with_reducible refine Kept.epochs ?_
    | with_reducible refine Kept.svns ?_
    | dsimp -zeta only [id]

theorem State.joinAnswer_kept {s : State} (hs : Kept b s) (outcome : Nat) (place : Option Placement) : Kept b (State.joinAnswer s outcome place) := by
  unfold State.joinAnswer
  repeat' first
    | with_reducible assumption
    | intro _
    | (extract_lets +onlyGivenNames x; refine (fun (hx : Kept b x) => ?_) ?_; (on_goal 1 => try clear_value x); (on_goal 2 => (dsimp only [x]; clear x)))
    | (extract_lets +onlyGivenNames x; first | clear_value x | (dsimp only [x]; clear x) | skip)
    | with_reducible apply State.slvEnd_kept
    | with_reducible apply State.joinTake_kept
    | with_reducible apply State.noFit_kept
    | split
    | (simp -zeta only [Kept_mk]; refine ⟨Kept.tabs ?_, ?_, ?_⟩)
    | with_reducible refine Kept.epochs ?_
    | with_reducible refine Kept.svns ?_
    | dsimp -zeta only [id]

theorem execSlvLeave_kept (st : CmdStep) (node : ℕ) (tag : ℕ) (dur : ℕ) {s : State} (hs : Kept b s) : KeptOut b (execSlvLeave st node tag dur s) := by
  unfold execSlvLeave
  repeat' first
    | with_reducible assumption
    | with_reducible refine KeptOut_next ?_
    | intro _
    | with_reducible apply State.slvCmd_kept
    | with_reducible apply State.slvEnd_kept
    | with_reducible apply State.bump_kept
    | with_reducible apply State.slvLog_kept
    | with_reducible apply State.clearNode_kept
    | dsimp -zeta only [id]

theorem State.solveStart_kept {s : State} (hs : Kept b s) (c : SlvCmd) (also : List SlvCmd) (border : List Placement) : Kept b (State.solveStart s c also border) := by
  unfold State.solveStart
  repeat' first
    | with_reducible assumption
    | intro _
    | (extract_lets +onlyGivenNames x; refine (fun (hx : Kept b x) => ?_) ?_; (on_goal 1 => try clear_value x); (on_goal 2 => (dsimp only [x]; clear x)))
    | (extract_lets +onlyGivenNames x; first | clear_value x | (dsimp only [x]; clear x) | skip)
    | with_reducible apply State.commitAt_kept
    | with_reducible apply State.slvEndAll_kept
    | with_reducible apply State.schedAll_kept
    | split
    | (simp -zeta only [Kept_mk]; refine ⟨Kept.tabs ?_, ?_, ?_⟩)
    | with_reducible refine Kept.epochs ?_
    | with_reducible refine Kept.svns ?_
    | dsimp -zeta only [id]

theorem State.solveOver_kept {s : State} (hs : Kept b s) (far : List FarPlace) : Kept b (State.solveOver s far) := by
  unfold State.solveOver
  repeat' first
    | with_reducible assumption
    | intro _
    | (extract_lets +onlyGivenNames x; refine (fun (hx : Kept b x) => ?_) ?_; (on_goal 1 => try clear_value x); (on_goal 2 => (dsimp only [x]; clear x)))
    | (extract_lets +onlyGivenNames x; first | clear_value x | (dsimp only [x]; clear x) | skip)
    | with_reducible apply State.schedAll_kept
    | with_reducible apply State.solveStart_kept
    | split
    | (simp -zeta only [Kept_mk]; refine ⟨Kept.tabs ?_, ?_, ?_⟩)
    | with_reducible refine Kept.epochs ?_
    | with_reducible refine Kept.svns ?_
    | dsimp -zeta only [id]

theorem State.solveAbort_kept {s : State} (hs : Kept b s) : Kept b (State.solveAbort s) := by
  unfold State.solveAbort
  repeat' first
    | with_reducible assumption
    | intro _
    | (extract_lets +onlyGivenNames x; refine (fun (hx : Kept b x) => ?_) ?_; (on_goal 1 => try clear_value x); (on_goal 2 => (dsimp only [x]; clear x)))
    | (extract_lets +onlyGivenNames x; first | clear_value x | (dsimp only [x]; clear x) | skip)
    | with_reducible apply State.slvEndAll_kept
    | with_reducible apply State.solveOver_kept
    | split
    | (simp -zeta only [Kept_mk]; refine ⟨Kept.tabs ?_, ?_, ?_⟩)
    | with_reducible refine Kept.epochs ?_
    | with_reducible refine Kept.svns ?_
    | dsimp -zeta only [id]

theorem execSlvSolve_kept (st : SolveStep) (node : Nat) (tag : Nat) {s : State} (hs : Kept b s) : KeptOut b (execSlvSolve st node tag s) := by
  unfold execSlvSolve
  repeat' first
    | with_reducible assumption
    | with_reducible refine KeptOut_next ?_
    | intro _
    | (extract_lets +onlyGivenNames x; refine (fun (hx : Kept b x) => ?_) ?_; (on_goal 1 => try clear_value x); (on_goal 2 => (dsimp only [x]; clear x)))
    | (extract_lets +onlyGivenNames x; first | clear_value x | (dsimp only [x]; clear x) | skip)
    | with_reducible apply State.slvWrite_kept
    | with_reducible apply State.at_kept
    | with_reducible apply State.solveStart_kept
    | with_reducible apply State.slvRun_kept
    | split
    | (simp -zeta only [Kept_mk]; refine ⟨Kept.tabs ?_, ?_, ?_⟩)
    | with_reducible refine Kept.epochs ?_
    | with_reducible refine Kept.svns ?_
    | dsimp -zeta only [id]

theorem execSlvAbort_kept (st : CmdStep) (node : ℕ) (tag : ℕ) (dur : ℕ) {s : State} (hs : Kept b s) : KeptOut b (execSlvAbort st node tag dur s) := by
  unfold execSlvAbort
  repeat' first
    | with_reducible assumption
    | with_reducible refine KeptOut_next ?_
    | intro _
    | with_reducible apply State.slvCmd_kept
    | with_reducible apply State.slvEnd_kept
    | with_reducible apply State.solveAbort_kept
    | dsimp -zeta only [id]

theorem execSolvePeriodTimer_kept (t : Time) {s : State} (hs : Kept b s) : KeptOut b (execSolvePeriodTimer t s) := by
  unfold execSolvePeriodTimer
  repeat' first
    | with_reducible assumption
    | with_reducible refine KeptOut_next ?_
    | (extract_lets +onlyGivenNames x; refine (fun (hx : Kept b x) => ?_) ?_; (on_goal 1 => try clear_value x); (on_goal 2 => (dsimp only [x]; clear x)))
    | (extract_lets +onlyGivenNames x; first | clear_value x | (dsimp only [x]; clear x) | skip)
    | with_reducible apply State.at_kept
    | with_reducible apply State.slvOwnSolve_kept
    | split
    | dsimp -zeta only [id]

theorem execSolveComplete_kept (t : Time) (places : List Placement) (again : List Placement) (far : List Placement) {s : State} (hs : Kept b s) : KeptOut b (execSolveComplete t places again far s) := by
  unfold execSolveComplete
  repeat' first
    | with_reducible assumption
    | with_reducible refine KeptOut_next ?_
    | intro _
    | (extract_lets +onlyGivenNames x; refine (fun (hx : Kept b x) => ?_) ?_; (on_goal 1 => try clear_value x); (on_goal 2 => (dsimp only [x]; clear x)))
    | (extract_lets +onlyGivenNames x; refine (fun (hx : Kept b x.2) => ?_) ?_; (on_goal 1 => try clear_value x); (on_goal 2 => (dsimp only [x]; clear x)))
    | (extract_lets +onlyGivenNames x; refine (fun (hx : Kept b x.1) => ?_) ?_; (on_goal 1 => try clear_value x); (on_goal 2 => (dsimp only [x]; clear x)))
    | (extract_lets +onlyGivenNames x; first | clear_value x | (dsimp only [x]; clear x) | skip)
    | with_reducible apply State.at_kept
    | with_reducible apply State.slvEndAll_kept
    | with_reducible apply State.solveOver_kept
    | with_reducible apply State.bump_kept
    | with_reducible apply State.fire_kept
    | with_reducible apply State.dropNode_kept
    | with_reducible apply State.changeSet_kept
    | with_reducible apply State.slvShorts_kept
    | with_reducible refine State.slvShorts_kept' ?_ _ ‹_›
    | with_reducible apply State.fireIf_kept
    | with_reducible refine Kept_foldl ?_ ?_
    | with_reducible refine Kept_foldl2 ?_ ?_
    | with_reducible refine Kept_foldl1 ?_ ?_
    | split
    | (simp -zeta only [Kept_mk]; refine ⟨Kept.tabs ?_, ?_, ?_⟩)
    | with_reducible refine Kept.epochs ?_
    | with_reducible refine Kept.svns ?_
    | dsimp -zeta only [id]

theorem execCellsConfirmTimeout_kept (t : Time) (node : Nat) (setid : Nat) {s : State} (hs : Kept b s) : KeptOut b (execCellsConfirmTimeout t node setid s) := by
  unfold execCellsConfirmTimeout
  repeat' first
    | with_reducible assumption
    | with_reducible refine KeptOut_next ?_
    | intro _
    | (extract_lets +onlyGivenNames x; refine (fun (hx : Kept b x) => ?_) ?_; (on_goal 1 => try clear_value x); (on_goal 2 => (dsimp only [x]; clear x)))
    | (extract_lets +onlyGivenNames x; refine (fun (hx : Kept b x.2) => ?_) ?_; (on_goal 1 => try clear_value x); (on_goal 2 => (dsimp only [x]; clear x)))
    | (extract_lets +onlyGivenNames x; refine (fun (hx : Kept b x.1) => ?_) ?_; (on_goal 1 => try clear_value x); (on_goal 2 => (dsimp only [x]; clear x)))
    | (extract_lets +onlyGivenNames x; first | clear_value x | (dsimp only [x]; clear x) | skip)
    | with_reducible apply State.at_kept
    | with_reducible apply State.cellsAgain_kept
    | with_reducible refine Kept_foldl ?_ ?_
    | with_reducible refine Kept_foldl2 ?_ ?_
    | with_reducible refine Kept_foldl1 ?_ ?_
    | split
    | (simp -zeta only [Kept_mk]; refine ⟨Kept.tabs ?_, ?_, ?_⟩)
    | with_reducible refine Kept.epochs ?_
    | with_reducible refine Kept.svns ?_
    | dsimp -zeta only [id]

theorem execSlvRqpop_kept (rq : Req) {s : State} (hs : Kept b s) : KeptOut b (execSlvRqpop rq s) := by
  unfold execSlvRqpop
  repeat' first
    | with_reducible assumption
    | with_reducible refine KeptOut_next ?_
    | intro _
    | (extract_lets +onlyGivenNames x; refine (fun (hx : Kept b x) => ?_) ?_; (on_goal 1 => try clear_value x); (on_goal 2 => (dsimp only [x]; clear x)))
    | (extract_lets +onlyGivenNames x; first | clear_value x | (dsimp only [x]; clear x) | skip)
    | with_reducible apply State.gated_kept
    | (simp -zeta only [Kept_mk]; refine ⟨Kept.tabs ?_, ?_, ?_⟩)
    | with_reducible refine Kept.epochs ?_
    | with_reducible refine Kept.svns ?_
    | dsimp -zeta only [id]

theorem execSlvShqpop_kept (rq : Req) {s : State} (hs : Kept b s) : KeptOut b (execSlvShqpop rq s) := by
  unfold execSlvShqpop
  repeat' first
    | with_reducible assumption
    | with_reducible refine KeptOut_next ?_
    | intro _
    | (extract_lets +onlyGivenNames x; refine (fun (hx : Kept b x) => ?_) ?_; (on_goal 1 => try clear_value x); (on_goal 2 => (dsimp only [x]; clear x)))
    | (extract_lets +onlyGivenNames x; first | clear_value x | (dsimp only [x]; clear x) | skip)
    | with_reducible apply State.gated_kept
    | (simp -zeta only [Kept_mk]; refine ⟨Kept.tabs ?_, ?_, ?_⟩)
    | with_reducible refine Kept.epochs ?_
    | with_reducible refine Kept.svns ?_
    | dsimp -zeta only [id]

theorem State.slvAbortRun_kept {s : State} (hs : Kept b s) : Kept b (State.slvAbortRun s) := by
  unfold State.slvAbortRun
  repeat' first
    | with_reducible assumption
    | intro _
    | (extract_lets +onlyGivenNames x; refine (fun (hx : Kept b x) => ?_) ?_; (on_goal 1 => try clear_value x); (on_goal 2 => (dsimp only [x]; clear x)))
    | (extract_lets +onlyGivenNames x; first | clear_value x | (dsimp only [x]; clear x) | skip)
    | with_reducible apply State.solveAbort_kept
    | with_reducible apply State.joinAnswer_kept
    | split
    | (simp -zeta only [Kept_mk]; refine ⟨Kept.tabs ?_, ?_, ?_⟩)
    | with_reducible refine Kept.epochs ?_
    | with_reducible refine Kept.svns ?_
    | dsimp -zeta only [id]

theorem State.slvAbortAll_kept {s : State} (hs : Kept b s) : Kept b (State.slvAbortAll s) := by
  unfold State.slvAbortAll
  repeat' first
    | with_reducible assumption
    | intro _
    | (extract_lets +onlyGivenNames x; refine (fun (hx : Kept b x) => ?_) ?_; (on_goal 1 => try clear_value x); (on_goal 2 => (dsimp only [x]; clear x)))
    | (extract_lets +onlyGivenNames x; first | clear_value x | (dsimp only [x]; clear x) | skip)
    | with_reducible apply State.slvAbortRun_kept
    | with_reducible apply State.slvEndAll_kept
    | split
    | (simp -zeta only [Kept_mk]; refine ⟨Kept.tabs ?_, ?_, ?_⟩)
    | with_reducible refine Kept.epochs ?_
    | with_reducible refine Kept.svns ?_
    | dsimp -zeta only [id]

theorem execStatWindowEnd_kept (t : Time) {s : State} (hs : Kept b s) : KeptOut b (execStatWindowEnd t s) := by
  unfold execStatWindowEnd
  repeat' first
    | with_reducible assumption
    | with_reducible refine KeptOut_next ?_
    | intro _
    | (extract_lets +onlyGivenNames x; refine (fun (hx : Kept b x) => ?_) ?_; (on_goal 1 => try clear_value x); (on_goal 2 => (dsimp only [x]; clear x)))
    | (extract_lets +onlyGivenNames x; refine (fun (hx : Kept b x.2) => ?_) ?_; (on_goal 1 => try clear_value x); (on_goal 2 => (dsimp only [x]; clear x)))
    | (extract_lets +onlyGivenNames x; refine (fun (hx : Kept b x.1) => ?_) ?_; (on_goal 1 => try clear_value x); (on_goal 2 => (dsimp only [x]; clear x)))
    | (extract_lets +onlyGivenNames x; first | clear_value x | (dsimp only [x]; clear x) | skip)
    | with_reducible apply State.at_kept
    | with_reducible apply State.fire_kept
    | with_reducible apply State.whenLive_kept
    | with_reducible apply State.setReg_kept
    | with_reducible apply State.fireIf_kept
    | with_reducible refine Kept_foldl ?_ ?_
    | with_reducible refine Kept_foldl2 ?_ ?_
    | with_reducible refine Kept_foldl1 ?_ ?_
    | split
    | (simp -zeta only [Kept_mk]; refine ⟨Kept.tabs ?_, ?_, ?_⟩)
    | with_reducible refine Kept.epochs ?_
    | with_reducible refine Kept.svns ?_
    | dsimp -zeta only [id]

end Sys2Proof.Machine
end

