-- ==== Sys2Proof/Laws/KeptLgc.lean ====
section
/-! SUPPORT. What the operations of Machine/Lgc.lean keep: queue, canonical tables, fuses. -/

set_option linter.unusedTactic false
set_option linter.unreachableTactic false
set_option linter.unusedVariables false
set_option linter.tactic.unusedName false

namespace Sys2Proof.Machine

variable {b : Base}

/-! ### Lgc -/

theorem State.setI3_kept {s : State} (hs : Kept b s) (p : ℕ) (x : I3) : Kept b (State.setI3 s p x) := by
  unfold State.setI3
  repeat' first
    | with_reducible assumption
    | (extract_lets +onlyGivenNames x; refine (fun (hx : Kept b x) => ?_) ?_; (on_goal 1 => try clear_value x); (on_goal 2 => (dsimp only [x]; clear x)))
    | (extract_lets +onlyGivenNames x; first | clear_value x | (dsimp only [x]; clear x) | skip)
    | (simp -zeta only [Kept_mk]; refine ⟨Kept.tabs ?_, ?_, ?_⟩)
    | with_reducible refine Kept.epochs ?_
    | with_reducible refine Kept.svns ?_
    | dsimp -zeta only [id]

theorem State.i3Line_kept {s : State} (hs : Kept b s) (p : ℕ) : Kept b (State.i3Line s p) := by
  unfold State.i3Line
  repeat' first
    | with_reducible assumption
    | intro _
    | (extract_lets +onlyGivenNames x; refine (fun (hx : Kept b x) => ?_) ?_; (on_goal 1 => try clear_value x); (on_goal 2 => (dsimp only [x]; clear x)))
    | (extract_lets +onlyGivenNames x; first | clear_value x | (dsimp only [x]; clear x) | skip)
    | with_reducible apply State.fire_kept
    | with_reducible apply State.legPush_kept
    | with_reducible apply State.setI3_kept
    | split
    | (simp -zeta only [Kept_mk]; refine ⟨Kept.tabs ?_, ?_, ?_⟩)
    | with_reducible refine Kept.epochs ?_
    | with_reducible refine Kept.svns ?_
    | dsimp -zeta only [id]

theorem State.i3Int_kept {s : State} (hs : Kept b s) (p : ℕ) (i : ℕ) : Kept b (State.i3Int s p i) := by
  unfold State.i3Int
  repeat' first
    | with_reducible assumption
    | (extract_lets +onlyGivenNames x; refine (fun (hx : Kept b x) => ?_) ?_; (on_goal 1 => try clear_value x); (on_goal 2 => (dsimp only [x]; clear x)))
    | (extract_lets +onlyGivenNames x; first | clear_value x | (dsimp only [x]; clear x) | skip)
    | with_reducible apply State.i3Line_kept
    | with_reducible apply State.setI3_kept
    | (simp -zeta only [Kept_mk]; refine ⟨Kept.tabs ?_, ?_, ?_⟩)
    | with_reducible refine Kept.epochs ?_
    | with_reducible refine Kept.svns ?_
    | dsimp -zeta only [id]

theorem State.linkCmd_kept {s : State} (hs : Kept b s) (p : ℕ) (op : ℕ) : Kept b (State.linkCmd s p op) := by
  unfold State.linkCmd
  repeat' first
    | with_reducible assumption
    | (extract_lets +onlyGivenNames x; refine (fun (hx : Kept b x) => ?_) ?_; (on_goal 1 => try clear_value x); (on_goal 2 => (dsimp only [x]; clear x)))
    | (extract_lets +onlyGivenNames x; first | clear_value x | (dsimp only [x]; clear x) | skip)
    | with_reducible apply State.setI3_kept
    | with_reducible apply State.i3Int_kept
    | split
    | (simp -zeta only [Kept_mk]; refine ⟨Kept.tabs ?_, ?_, ?_⟩)
    | with_reducible refine Kept.epochs ?_
    | with_reducible refine Kept.svns ?_
    | dsimp -zeta only [id]

theorem State.i3Stop_kept {s : State} (hs : Kept b s) (p : ℕ) : Kept b (State.i3Stop s p) := by
  unfold State.i3Stop
  repeat' first
    | with_reducible assumption
    | intro _
    | (extract_lets +onlyGivenNames x; refine (fun (hx : Kept b x) => ?_) ?_; (on_goal 1 => try clear_value x); (on_goal 2 => (dsimp only [x]; clear x)))
    | (extract_lets +onlyGivenNames x; refine (fun (hx : Kept b x.2) => ?_) ?_; (on_goal 1 => try clear_value x); (on_goal 2 => (dsimp only [x]; clear x)))
    | (extract_lets +onlyGivenNames x; refine (fun (hx : Kept b x.1) => ?_) ?_; (on_goal 1 => try clear_value x); (on_goal 2 => (dsimp only [x]; clear x)))
    | (extract_lets +onlyGivenNames x; first | clear_value x | (dsimp only [x]; clear x) | skip)
    | with_reducible apply State.dropStream_kept
    | with_reducible apply State.settle_kept
    | with_reducible apply State.setPort_kept
    | with_reducible apply State.setI3_kept
    | with_reducible refine Kept_foldl ?_ ?_
    | with_reducible refine Kept_foldl2 ?_ ?_
    | with_reducible refine Kept_foldl1 ?_ ?_
    | split
    | (simp -zeta only [Kept_mk]; refine ⟨Kept.tabs ?_, ?_, ?_⟩)
    | with_reducible refine Kept.epochs ?_
    | with_reducible refine Kept.svns ?_
    | dsimp -zeta only [id]

theorem State.i3Off_kept {s : State} (hs : Kept b s) (p : ℕ) : Kept b (State.i3Off s p) := by
  unfold State.i3Off
  repeat' first
    | with_reducible assumption
    | intro _
    | (extract_lets +onlyGivenNames x; refine (fun (hx : Kept b x) => ?_) ?_; (on_goal 1 => try clear_value x); (on_goal 2 => (dsimp only [x]; clear x)))
    | (extract_lets +onlyGivenNames x; first | clear_value x | (dsimp only [x]; clear x) | skip)
    | with_reducible apply State.endPkt_kept
    | with_reducible apply State.i3Stop_kept
    | with_reducible apply State.setI3_kept
    | with_reducible apply State.flushQueue_kept
    | with_reducible refine Kept_foldl ?_ ?_
    | with_reducible refine Kept_foldl2 ?_ ?_
    | with_reducible refine Kept_foldl1 ?_ ?_
    | dsimp -zeta only [id]

theorem State.ctrlWrite_kept {s : State} (hs : Kept b s) (p : Nat) (v : Nat) : Kept b (State.ctrlWrite s p v) := by
  unfold State.ctrlWrite
  repeat' first
    | with_reducible assumption
    | intro _
    | (extract_lets +onlyGivenNames x; refine (fun (hx : Kept b x) => ?_) ?_; (on_goal 1 => try clear_value x); (on_goal 2 => (dsimp only [x]; clear x)))
    | (extract_lets +onlyGivenNames x; first | clear_value x | (dsimp only [x]; clear x) | skip)
    | with_reducible apply State.setI3_kept
    | with_reducible apply State.i3Line_kept
    | split
    | (simp -zeta only [Kept_mk]; refine ⟨Kept.tabs ?_, ?_, ?_⟩)
    | with_reducible refine Kept.epochs ?_
    | with_reducible refine Kept.svns ?_
    | dsimp -zeta only [id]

theorem State.emuPlain_kept {s : State} (hs : Kept b s) (p : Nat) (a : Nat) (v : Nat) : Kept b (State.emuPlain s p a v) := by
  unfold State.emuPlain
  repeat' first
    | with_reducible assumption
    | intro _
    | (extract_lets +onlyGivenNames x; refine (fun (hx : Kept b x) => ?_) ?_; (on_goal 1 => try clear_value x); (on_goal 2 => (dsimp only [x]; clear x)))
    | (extract_lets +onlyGivenNames x; first | clear_value x | (dsimp only [x]; clear x) | skip)
    | with_reducible apply State.ctrlWrite_kept
    | with_reducible apply State.linkCmd_kept
    | with_reducible apply State.setI3_kept
    | with_reducible apply State.i3Line_kept
    | split
    | (simp -zeta only [Kept_mk]; refine ⟨Kept.tabs ?_, ?_, ?_⟩)
    | with_reducible refine Kept.epochs ?_
    | with_reducible refine Kept.svns ?_
    | dsimp -zeta only [id]

theorem State.i3Init_kept {s : State} (hs : Kept b s) (p : ℕ) : Kept b (State.i3Init s p) := by
  unfold State.i3Init
  repeat' first
    | with_reducible assumption
    | intro _
    | with_reducible apply State.emuPlain_kept
    | with_reducible refine Kept_foldl ?_ ?_
    | with_reducible refine Kept_foldl2 ?_ ?_
    | with_reducible refine Kept_foldl1 ?_ ?_
    | split
    | dsimp -zeta only [id]

theorem State.i3Reset_kept {s : State} (hs : Kept b s) (p : ℕ) : Kept b (State.i3Reset s p) := by
  unfold State.i3Reset
  repeat' first
    | with_reducible assumption
    | with_reducible apply State.fire_kept
    | with_reducible apply State.i3Init_kept
    | with_reducible apply State.i3Off_kept
    | dsimp -zeta only [id]

theorem State.i3Error_kept {s : State} (hs : Kept b s) (p : ℕ) : Kept b (State.i3Error s p) := by
  unfold State.i3Error
  repeat' first
    | with_reducible assumption
    | with_reducible apply State.reportNow_kept
    | with_reducible apply State.fire_kept
    | with_reducible apply State.i3Reset_kept
    | dsimp -zeta only [id]

theorem State.emuWrite_kept {s : State} (hs : Kept b s) (p : ℕ) (a : ℕ) (v : ℕ) : Kept b (State.emuWrite s p a v) := by
  unfold State.emuWrite
  repeat' first
    | with_reducible assumption
    | with_reducible apply State.i3Reset_kept
    | with_reducible apply State.emuPlain_kept
    | split
    | dsimp -zeta only [id]

theorem State.txEntry_kept {s : State} (hs : Kept b s) (p : ℕ) (entry : List Sys2Proof.Octet) : Kept b (State.txEntry s p entry) := by
  unfold State.txEntry
  repeat' first
    | with_reducible assumption
    | (extract_lets +onlyGivenNames x; refine (fun (hx : Kept b x) => ?_) ?_; (on_goal 1 => try clear_value x); (on_goal 2 => (dsimp only [x]; clear x)))
    | (extract_lets +onlyGivenNames x; first | clear_value x | (dsimp only [x]; clear x) | skip)
    | with_reducible apply State.i3Int_kept
    | with_reducible apply State.acceptPkt_kept
    | with_reducible refine State.acceptPkt_kept' ?_ _ _ _ _ _ ‹_›
    | with_reducible apply State.pushPkt_kept
    | split
    | dsimp -zeta only [id]

theorem State.spiWrite_kept {s : State} (hs : Kept b s) (p : ℕ) (a : ℕ) (x3 : List Sys2Proof.Octet) : Kept b (State.spiWrite s p a x3) := by
  induction x3 generalizing s p a with
  | nil =>
    rw [State.spiWrite]
    exact hs
  | cons v l ih =>
    rw [State.spiWrite]
    repeat' first
      | with_reducible assumption
      | with_reducible apply State.at_kept
      | with_reducible apply State.emuWrite_kept
      | with_reducible apply State.txEntry_kept
      | split
      | dsimp -zeta only [id]
      | with_reducible apply ih

theorem State.lspi_kept {s : State} (hs : Kept b s) (p : Nat) (data : List Octet) {act : State → State} (hact : ∀ u, Kept b u → Kept b (act u)) : Kept b (State.lspi s p data act) := by
  unfold State.lspi
  repeat' first
    | with_reducible assumption
    | intro _
    | (extract_lets +onlyGivenNames x; refine (fun (hx : Kept b x) => ?_) ?_; (on_goal 1 => try clear_value x); (on_goal 2 => (dsimp only [x]; clear x)))
    | (extract_lets +onlyGivenNames x; first | clear_value x | (dsimp only [x]; clear x) | skip)
    | with_reducible apply hact
    | with_reducible apply State.respond_kept
    | split
    | (simp -zeta only [Kept_mk]; refine ⟨Kept.tabs ?_, ?_, ?_⟩)
    | with_reducible refine Kept.epochs ?_
    | with_reducible refine Kept.svns ?_
    | dsimp -zeta only [id]

theorem execLspiError_kept (p : ℕ) {s : State} (hs : Kept b s) : KeptOut b (execLspiError p s) := by
  unfold execLspiError
  repeat' first
    | with_reducible assumption
    | with_reducible refine KeptOut_next ?_
    | with_reducible apply State.fire_kept
    | with_reducible apply State.bump_kept
    | split
    | dsimp -zeta only [id]

theorem execLspiWrite_kept (t : Time) (p : Nat) (addr : Nat) (data : List Octet) {s : State} (hs : Kept b s) : KeptOut b (execLspiWrite t p addr data s) := by
  unfold execLspiWrite
  repeat' first
    | with_reducible assumption
    | with_reducible refine KeptOut_next ?_
    | intro _
    | (extract_lets +onlyGivenNames x; refine (fun (hx : Kept b x) => ?_) ?_; (on_goal 1 => try clear_value x); (on_goal 2 => (dsimp only [x]; clear x)))
    | (extract_lets +onlyGivenNames x; first | clear_value x | (dsimp only [x]; clear x) | skip)
    | with_reducible apply State.at_kept
    | with_reducible apply State.lspi_kept
    | with_reducible apply State.spiWrite_kept
    | split
    | (simp -zeta only [Kept_mk]; refine ⟨Kept.tabs ?_, ?_, ?_⟩)
    | with_reducible refine Kept.epochs ?_
    | with_reducible refine Kept.svns ?_
    | dsimp -zeta only [id]

theorem execI3RunStart_kept (t : Time) (p : Nat) (inten : Bool) (autoack : Bool) {s : State} (hs : Kept b s) : KeptOut b (execI3RunStart t p inten autoack s) := by
  unfold execI3RunStart
  repeat' first
    | with_reducible assumption
    | with_reducible refine KeptOut_next ?_
    | intro _
    | (extract_lets +onlyGivenNames x; refine (fun (hx : Kept b x) => ?_) ?_; (on_goal 1 => try clear_value x); (on_goal 2 => (dsimp only [x]; clear x)))
    | (extract_lets +onlyGivenNames x; first | clear_value x | (dsimp only [x]; clear x) | skip)
    | with_reducible apply State.at_kept
    | with_reducible apply State.lspi_kept
    | with_reducible apply State.emuWrite_kept
    | split
    | (simp -zeta only [Kept_mk]; refine ⟨Kept.tabs ?_, ?_, ?_⟩)
    | with_reducible refine Kept.epochs ?_
    | with_reducible refine Kept.svns ?_
    | dsimp -zeta only [id]

theorem execI3RunStop_kept (t : Time) (p : Nat) (inten : Bool) (autoack : Bool) {s : State} (hs : Kept b s) : KeptOut b (execI3RunStop t p inten autoack s) := by
  unfold execI3RunStop
  repeat' first
    | with_reducible assumption
    | with_reducible refine KeptOut_next ?_
    | intro _
    | (extract_lets +onlyGivenNames x; refine (fun (hx : Kept b x) => ?_) ?_; (on_goal 1 => try clear_value x); (on_goal 2 => (dsimp only [x]; clear x)))
    | (extract_lets +onlyGivenNames x; first | clear_value x | (dsimp only [x]; clear x) | skip)
    | with_reducible apply State.at_kept
    | with_reducible apply State.lspi_kept
    | with_reducible apply State.emuWrite_kept
    | split
    | (simp -zeta only [Kept_mk]; refine ⟨Kept.tabs ?_, ?_, ?_⟩)
    | with_reducible refine Kept.epochs ?_
    | with_reducible refine Kept.svns ?_
    | dsimp -zeta only [id]

theorem execI3SoftReset_kept (t : Time) (p : Nat) {s : State} (hs : Kept b s) : KeptOut b (execI3SoftReset t p s) := by
  unfold execI3SoftReset
  repeat' first
    | with_reducible assumption
    | with_reducible refine KeptOut_next ?_
    | intro _
    | (extract_lets +onlyGivenNames x; refine (fun (hx : Kept b x) => ?_) ?_; (on_goal 1 => try clear_value x); (on_goal 2 => (dsimp only [x]; clear x)))
    | (extract_lets +onlyGivenNames x; first | clear_value x | (dsimp only [x]; clear x) | skip)
    | with_reducible apply State.at_kept
    | with_reducible apply State.lspi_kept
    | with_reducible apply State.emuWrite_kept
    | split
    | (simp -zeta only [Kept_mk]; refine ⟨Kept.tabs ?_, ?_, ?_⟩)
    | with_reducible refine Kept.epochs ?_
    | with_reducible refine Kept.svns ?_
    | dsimp -zeta only [id]

theorem execIntstatRead_kept (t : Time) (p : Nat) {s : State} (hs : Kept b s) : KeptOut b (execIntstatRead t p s) := by
  unfold execIntstatRead
  repeat' first
    | with_reducible assumption
    | with_reducible refine KeptOut_next ?_
    | intro _
    | (extract_lets +onlyGivenNames x; refine (fun (hx : Kept b x) => ?_) ?_; (on_goal 1 => try clear_value x); (on_goal 2 => (dsimp only [x]; clear x)))
    | (extract_lets +onlyGivenNames x; first | clear_value x | (dsimp only [x]; clear x) | skip)
    | with_reducible apply State.at_kept
    | with_reducible apply State.lspi_kept
    | with_reducible apply State.setI3_kept
    | with_reducible apply State.i3Line_kept
    | split
    | (simp -zeta only [Kept_mk]; refine ⟨Kept.tabs ?_, ?_, ?_⟩)
    | with_reducible refine Kept.epochs ?_
    | with_reducible refine Kept.svns ?_
    | dsimp -zeta only [id]

theorem execRxfifoRead_kept (t : Time) (p : Nat) (n : Nat) {s : State} (hs : Kept b s) : KeptOut b (execRxfifoRead t p n s) := by
  unfold execRxfifoRead
  repeat' first
    | with_reducible assumption
    | with_reducible refine KeptOut_next ?_
    | intro _
    | (extract_lets +onlyGivenNames x; refine (fun (hx : Kept b x) => ?_) ?_; (on_goal 1 => try clear_value x); (on_goal 2 => (dsimp only [x]; clear x)))
    | (extract_lets +onlyGivenNames x; first | clear_value x | (dsimp only [x]; clear x) | skip)
    | with_reducible apply State.at_kept
    | with_reducible apply State.lspi_kept
    | with_reducible apply State.setI3_kept
    | with_reducible apply State.endPkt_kept
    | split
    | (simp -zeta only [Kept_mk]; refine ⟨Kept.tabs ?_, ?_, ?_⟩)
    | with_reducible refine Kept.epochs ?_
    | with_reducible refine Kept.svns ?_
    | dsimp -zeta only [id]

theorem execTxfifoWrite_kept (t : Time) (p : Nat) (entry : List Octet) {s : State} (hs : Kept b s) : KeptOut b (execTxfifoWrite t p entry s) := by
  unfold execTxfifoWrite
  repeat' first
    | with_reducible assumption
    | with_reducible refine KeptOut_next ?_
    | intro _
    | (extract_lets +onlyGivenNames x; refine (fun (hx : Kept b x) => ?_) ?_; (on_goal 1 => try clear_value x); (on_goal 2 => (dsimp only [x]; clear x)))
    | (extract_lets +onlyGivenNames x; first | clear_value x | (dsimp only [x]; clear x) | skip)
    | with_reducible apply State.at_kept
    | with_reducible apply State.lspi_kept
    | with_reducible apply State.txEntry_kept
    | split
    | (simp -zeta only [Kept_mk]; refine ⟨Kept.tabs ?_, ?_, ?_⟩)
    | with_reducible refine Kept.epochs ?_
    | with_reducible refine Kept.svns ?_
    | dsimp -zeta only [id]

theorem execLinkWrite_kept (t : Time) (p : Nat) {s : State} (hs : Kept b s) : KeptOut b (execLinkWrite t p s) := by
  unfold execLinkWrite
  repeat' first
    | with_reducible assumption
    | with_reducible refine KeptOut_next ?_
    | intro _
    | (extract_lets +onlyGivenNames x; refine (fun (hx : Kept b x) => ?_) ?_; (on_goal 1 => try clear_value x); (on_goal 2 => (dsimp only [x]; clear x)))
    | (extract_lets +onlyGivenNames x; first | clear_value x | (dsimp only [x]; clear x) | skip)
    | with_reducible apply State.at_kept
    | with_reducible apply State.lspi_kept
    | with_reducible apply State.emuWrite_kept
    | split
    | (simp -zeta only [Kept_mk]; refine ⟨Kept.tabs ?_, ?_, ?_⟩)
    | with_reducible refine Kept.epochs ?_
    | with_reducible refine Kept.svns ?_
    | dsimp -zeta only [id]

theorem execLinkRead_kept (t : Time) (p : Nat) {s : State} (hs : Kept b s) : KeptOut b (execLinkRead t p s) := by
  unfold execLinkRead
  repeat' first
    | with_reducible assumption
    | with_reducible refine KeptOut_next ?_
    | intro _
    | (extract_lets +onlyGivenNames x; refine (fun (hx : Kept b x) => ?_) ?_; (on_goal 1 => try clear_value x); (on_goal 2 => (dsimp only [x]; clear x)))
    | (extract_lets +onlyGivenNames x; first | clear_value x | (dsimp only [x]; clear x) | skip)
    | with_reducible apply State.at_kept
    | with_reducible apply State.lspi_kept
    | with_reducible apply State.emuWrite_kept
    | split
    | (simp -zeta only [Kept_mk]; refine ⟨Kept.tabs ?_, ?_, ?_⟩)
    | with_reducible refine Kept.epochs ?_
    | with_reducible refine Kept.svns ?_
    | dsimp -zeta only [id]

theorem execLinkClear_kept (t : Time) (p : Nat) {s : State} (hs : Kept b s) : KeptOut b (execLinkClear t p s) := by
  unfold execLinkClear
  repeat' first
    | with_reducible assumption
    | with_reducible refine KeptOut_next ?_
    | intro _
    | (extract_lets +onlyGivenNames x; refine (fun (hx : Kept b x) => ?_) ?_; (on_goal 1 => try clear_value x); (on_goal 2 => (dsimp only [x]; clear x)))
    | (extract_lets +onlyGivenNames x; first | clear_value x | (dsimp only [x]; clear x) | skip)
    | with_reducible apply State.at_kept
    | with_reducible apply State.lspi_kept
    | with_reducible apply State.emuWrite_kept
    | split
    | (simp -zeta only [Kept_mk]; refine ⟨Kept.tabs ?_, ?_, ?_⟩)
    | with_reducible refine Kept.epochs ?_
    | with_reducible refine Kept.svns ?_
    | dsimp -zeta only [id]

theorem execLinkClearAll_kept (t : Time) (p : Nat) {s : State} (hs : Kept b s) : KeptOut b (execLinkClearAll t p s) := by
  unfold execLinkClearAll
  repeat' first
    | with_reducible assumption
    | with_reducible refine KeptOut_next ?_
    | intro _
    | (extract_lets +onlyGivenNames x; refine (fun (hx : Kept b x) => ?_) ?_; (on_goal 1 => try clear_value x); (on_goal 2 => (dsimp only [x]; clear x)))
    | (extract_lets +onlyGivenNames x; first | clear_value x | (dsimp only [x]; clear x) | skip)
    | with_reducible apply State.at_kept
    | with_reducible apply State.lspi_kept
    | with_reducible apply State.emuWrite_kept
    | split
    | (simp -zeta only [Kept_mk]; refine ⟨Kept.tabs ?_, ?_, ?_⟩)
    | with_reducible refine Kept.epochs ?_
    | with_reducible refine Kept.svns ?_
    | dsimp -zeta only [id]

theorem execI3SlotBoundary_kept (t : Time) (p : ℕ) {s : State} (hs : Kept b s) : KeptOut b (execI3SlotBoundary t p s) := by
  unfold execI3SlotBoundary
  repeat' first
    | with_reducible assumption
    | with_reducible refine KeptOut_next ?_
    | (extract_lets +onlyGivenNames x; refine (fun (hx : Kept b x) => ?_) ?_; (on_goal 1 => try clear_value x); (on_goal 2 => (dsimp only [x]; clear x)))
    | (extract_lets +onlyGivenNames x; first | clear_value x | (dsimp only [x]; clear x) | skip)
    | with_reducible apply State.at_kept
    | with_reducible apply State.setI3_kept
    | with_reducible apply State.bump_kept
    | with_reducible apply State.i3Int_kept
    | split
    | (simp -zeta only [Kept_mk]; refine ⟨Kept.tabs ?_, ?_, ?_⟩)
    | with_reducible refine Kept.epochs ?_
    | with_reducible refine Kept.svns ?_
    | dsimp -zeta only [id]

theorem State.i3Launch_kept {s : State} (hs : Kept b s) (k : ℕ) (start : ℕ) (len : ℕ) (kind : TxKind) : Kept b (State.i3Launch s k start len kind).2 := by
  unfold State.i3Launch
  repeat' first
    | with_reducible assumption
    | (extract_lets +onlyGivenNames x; refine (fun (hx : Kept b x) => ?_) ?_; (on_goal 1 => try clear_value x); (on_goal 2 => (dsimp only [x]; clear x)))
    | (extract_lets +onlyGivenNames x; first | clear_value x | (dsimp only [x]; clear x) | skip)
    | with_reducible apply State.reserve_kept
    | with_reducible refine State.reserve_kept' ?_ _ _ _ _ _ ‹_›
    | with_reducible apply State.bgtRequest_kept
    | with_reducible refine State.bgtRequest_kept' ?_ _ _ _ ‹_›
    | with_reducible apply State.dropStream_kept
    | split
    | (simp -zeta only [Kept_mk]; refine ⟨Kept.tabs ?_, ?_, ?_⟩)
    | with_reducible refine Kept.epochs ?_
    | with_reducible refine Kept.svns ?_
    | dsimp -zeta only [id]

theorem State.i3Launch_kept' {s : State} (hs : Kept b s) (k : ℕ) (start : ℕ) (len : ℕ) (kind : TxKind) {r1 : _} {t1 : State} (e1 : State.i3Launch s k start len kind = (r1, t1)) : Kept b t1 := by
  have := State.i3Launch_kept (b := b) hs k start len kind
  rw [e1] at this
  exact this

theorem State.i3Fill_kept {s : State} (hs : Kept b s) (id : Nat) (psdu : List Octet) : Kept b (State.i3Fill s id psdu) := by
  unfold State.i3Fill
  repeat' first
    | with_reducible assumption
    | intro _
    | (extract_lets +onlyGivenNames x; refine (fun (hx : Kept b x) => ?_) ?_; (on_goal 1 => try clear_value x); (on_goal 2 => (dsimp only [x]; clear x)))
    | (extract_lets +onlyGivenNames x; first | clear_value x | (dsimp only [x]; clear x) | skip)
    | split
    | (simp -zeta only [Kept_mk]; refine ⟨Kept.tabs ?_, ?_, ?_⟩)
    | with_reducible refine Kept.epochs ?_
    | with_reducible refine Kept.svns ?_
    | dsimp -zeta only [id]

theorem State.i3AckFail_kept {s : State} (hs : Kept b s) (p : ℕ) : Kept b (State.i3AckFail s p) := by
  unfold State.i3AckFail
  repeat' first
    | with_reducible assumption
    | with_reducible apply State.fire_kept
    | with_reducible apply State.bump_kept
    | dsimp -zeta only [id]

theorem State.i3Ack_kept {s : State} (hs : Kept b s) (p : Nat) (ch : Nat) (dsn : Nat) (fin : Nat) : Kept b (State.i3Ack s p ch dsn fin) := by
  unfold State.i3Ack
  repeat' first
    | with_reducible assumption
    | intro _
    | (extract_lets +onlyGivenNames x; refine (fun (hx : Kept b x) => ?_) ?_; (on_goal 1 => try clear_value x); (on_goal 2 => (dsimp only [x]; clear x)))
    | (extract_lets +onlyGivenNames x; refine (fun (hx : Kept b x.2) => ?_) ?_; (on_goal 1 => try clear_value x); (on_goal 2 => (dsimp only [x]; clear x)))
    | (extract_lets +onlyGivenNames x; refine (fun (hx : Kept b x.1) => ?_) ?_; (on_goal 1 => try clear_value x); (on_goal 2 => (dsimp only [x]; clear x)))
    | (extract_lets +onlyGivenNames x; first | clear_value x | (dsimp only [x]; clear x) | skip)
    | with_reducible apply State.i3AckFail_kept
    | with_reducible apply State.i3Launch_kept
    | with_reducible refine State.i3Launch_kept' ?_ _ _ _ _ ‹_›
    | with_reducible apply State.i3Fill_kept
    | with_reducible apply State.setI3_kept
    | split
    | (simp -zeta only [Kept_mk]; refine ⟨Kept.tabs ?_, ?_, ?_⟩)
    | with_reducible refine Kept.epochs ?_
    | with_reducible refine Kept.svns ?_
    | dsimp -zeta only [id]

theorem State.i3TxDone_kept {s : State} (hs : Kept b s) (p : ℕ) (pkt : ℕ) : Kept b (State.i3TxDone s p pkt) := by
  unfold State.i3TxDone
  repeat' first
    | with_reducible assumption
    | (extract_lets +onlyGivenNames x; refine (fun (hx : Kept b x) => ?_) ?_; (on_goal 1 => try clear_value x); (on_goal 2 => (dsimp only [x]; clear x)))
    | (extract_lets +onlyGivenNames x; first | clear_value x | (dsimp only [x]; clear x) | skip)
    | with_reducible apply State.setI3_kept
    | with_reducible apply State.i3Int_kept
    | with_reducible apply State.bump_kept
    | with_reducible apply State.endHead_kept
    | (simp -zeta only [Kept_mk]; refine ⟨Kept.tabs ?_, ?_, ?_⟩)
    | with_reducible refine Kept.epochs ?_
    | with_reducible refine Kept.svns ?_
    | dsimp -zeta only [id]

theorem State.i3Attempt_kept {s : State} (hs : Kept b s) (p : ℕ) (pkt : ℕ) : Kept b (State.i3Attempt s p pkt) := by
  unfold State.i3Attempt
  repeat' first
    | with_reducible assumption
    | (extract_lets +onlyGivenNames x; refine (fun (hx : Kept b x) => ?_) ?_; (on_goal 1 => try clear_value x); (on_goal 2 => (dsimp only [x]; clear x)))
    | (extract_lets +onlyGivenNames x; first | clear_value x | (dsimp only [x]; clear x) | skip)
    | with_reducible apply State.setI3_kept
    | with_reducible apply State.fire_kept
    | with_reducible apply State.i3Int_kept
    | with_reducible apply State.bump_kept
    | with_reducible apply State.endHead_kept
    | split
    | (simp -zeta only [Kept_mk]; refine ⟨Kept.tabs ?_, ?_, ?_⟩)
    | with_reducible refine Kept.epochs ?_
    | with_reducible refine Kept.svns ?_
    | dsimp -zeta only [id]

theorem State.i3Accept_kept {s : State} (hs : Kept b s) (p : ℕ) (st : ℕ) : Kept b (State.i3Accept s p st) := by
  unfold State.i3Accept
  repeat' first
    | with_reducible assumption
    | (extract_lets +onlyGivenNames x; refine (fun (hx : Kept b x) => ?_) ?_; (on_goal 1 => try clear_value x); (on_goal 2 => (dsimp only [x]; clear x)))
    | (extract_lets +onlyGivenNames x; first | clear_value x | (dsimp only [x]; clear x) | skip)
    | with_reducible apply State.pushPkt_kept
    | with_reducible apply State.setI3_kept
    | split
    | (simp -zeta only [Kept_mk]; refine ⟨Kept.tabs ?_, ?_, ?_⟩)
    | with_reducible refine Kept.epochs ?_
    | with_reducible refine Kept.svns ?_
    | dsimp -zeta only [id]

theorem State.i3Match_kept {s : State} (hs : Kept b s) (p : Nat) (many : Bool) (f : RxFrame) (hx0 : I3Hdr) (first : Nat) : Kept b (State.i3Match s p many f hx0 first) := by
  unfold State.i3Match
  repeat' first
    | with_reducible assumption
    | intro _
    | (extract_lets +onlyGivenNames x; refine (fun (hx : Kept b x) => ?_) ?_; (on_goal 1 => try clear_value x); (on_goal 2 => (dsimp only [x]; clear x)))
    | (extract_lets +onlyGivenNames x; refine (fun (hx : Kept b x.2) => ?_) ?_; (on_goal 1 => try clear_value x); (on_goal 2 => (dsimp only [x]; clear x)))
    | (extract_lets +onlyGivenNames x; refine (fun (hx : Kept b x.1) => ?_) ?_; (on_goal 1 => try clear_value x); (on_goal 2 => (dsimp only [x]; clear x)))
    | (extract_lets +onlyGivenNames x; refine (fun (hx : ∀ u, Kept b u → Kept b (x u)) => ?_) ?_; (on_goal 1 => try clear_value x); (on_goal 2 => (dsimp only [x]; clear x)))
    | (extract_lets +onlyGivenNames x; refine (fun (hx : ∀ u y0, Kept b u → Kept b (x u y0)) => ?_) ?_; (on_goal 1 => try clear_value x); (on_goal 2 => (dsimp only [x]; clear x)))
    | (extract_lets +onlyGivenNames x; refine (fun (hx : ∀ u y0 y1, Kept b u → Kept b (x u y0 y1)) => ?_) ?_; (on_goal 1 => try clear_value x); (on_goal 2 => (dsimp only [x]; clear x)))
    | (extract_lets +onlyGivenNames x; refine (fun (hx : ∀ u y0 y1 y2, Kept b u → Kept b (x u y0 y1 y2)) => ?_) ?_; (on_goal 1 => try clear_value x); (on_goal 2 => (dsimp only [x]; clear x)))
    | (extract_lets +onlyGivenNames x; refine (fun (hx : ∀ u, Kept b u → Kept b (x u).2) => ?_) ?_; (on_goal 1 => try clear_value x); (on_goal 2 => (dsimp only [x]; clear x)))
    | (extract_lets +onlyGivenNames x; refine (fun (hx : ∀ u y0, Kept b u → Kept b (x u y0).2) => ?_) ?_; (on_goal 1 => try clear_value x); (on_goal 2 => (dsimp only [x]; clear x)))
    | (extract_lets +onlyGivenNames x; refine (fun (hx : ∀ u y0 y1, Kept b u → Kept b (x u y0 y1).2) => ?_) ?_; (on_goal 1 => try clear_value x); (on_goal 2 => (dsimp only [x]; clear x)))
    | (extract_lets +onlyGivenNames x; refine (fun (hx : ∀ y, Kept b (x y)) => ?_) ?_; (on_goal 1 => try clear_value x); (on_goal 2 => (dsimp only [x]; clear x)))
    | (extract_lets +onlyGivenNames x; first | clear_value x | (dsimp only [x]; clear x) | skip)
    | with_reducible apply State.bump_kept
    | with_reducible apply State.fire_kept
    | with_reducible apply State.i3Int_kept
    | with_reducible apply State.acceptPkt_kept
    | with_reducible refine State.acceptPkt_kept' ?_ _ _ _ _ _ ‹_›
    | with_reducible apply State.i3Accept_kept
    | with_reducible apply State.setI3_kept
    | with_reducible apply State.i3Ack_kept
    | split
    | (simp -zeta only [Kept_mk]; refine ⟨Kept.tabs ?_, ?_, ?_⟩)
    | with_reducible refine Kept.epochs ?_
    | with_reducible refine Kept.svns ?_
    | with_reducible apply_assumption
    | dsimp -zeta only [id]

theorem execI3FrameReceive_kept (t : Time) (first : ℕ) {s : State} (hs : Kept b s) : KeptOut b (execI3FrameReceive t first s) := by
  unfold execI3FrameReceive
  repeat' first
    | with_reducible assumption
    | with_reducible refine KeptOut_next ?_
    | intro _
    | (extract_lets +onlyGivenNames x; refine (fun (hx : Kept b x) => ?_) ?_; (on_goal 1 => try clear_value x); (on_goal 2 => (dsimp only [x]; clear x)))
    | (extract_lets +onlyGivenNames x; first | clear_value x | (dsimp only [x]; clear x) | skip)
    | with_reducible apply State.at_kept
    | with_reducible apply State.i3TxDone_kept
    | with_reducible apply State.bump_kept
    | with_reducible apply State.fireIf_kept
    | with_reducible apply State.i3Match_kept
    | split
    | (simp -zeta only [Kept_mk]; refine ⟨Kept.tabs ?_, ?_, ?_⟩)
    | with_reducible refine Kept.epochs ?_
    | with_reducible refine Kept.svns ?_
    | dsimp -zeta only [id]

theorem execI3Rxdone_kept (t : Time) (p : ℕ) {s : State} (hs : Kept b s) : KeptOut b (execI3Rxdone t p s) := by
  unfold execI3Rxdone
  repeat' first
    | with_reducible assumption
    | with_reducible refine KeptOut_next ?_
    | (extract_lets +onlyGivenNames x; refine (fun (hx : Kept b x) => ?_) ?_; (on_goal 1 => try clear_value x); (on_goal 2 => (dsimp only [x]; clear x)))
    | (extract_lets +onlyGivenNames x; first | clear_value x | (dsimp only [x]; clear x) | skip)
    | with_reducible apply State.at_kept
    | with_reducible apply State.i3Int_kept
    | with_reducible apply State.setI3_kept
    | split
    | (simp -zeta only [Kept_mk]; refine ⟨Kept.tabs ?_, ?_, ?_⟩)
    | with_reducible refine Kept.epochs ?_
    | with_reducible refine Kept.svns ?_
    | dsimp -zeta only [id]

theorem State.i3Defer_kept {s : State} (hs : Kept b s) (p : ℕ) : Kept b (State.i3Defer s p) := by
  unfold State.i3Defer
  repeat' first
    | with_reducible assumption
    | with_reducible apply State.bump_kept
    | dsimp -zeta only [id]

theorem State.i3Send_kept {s : State} (hs : Kept b s) (p : Nat) (pkt : Nat) (data : List Octet) (link : I3Link) (shared : Bool) : Kept b (State.i3Send s p pkt data link shared) := by
  unfold State.i3Send
  repeat' first
    | with_reducible assumption
    | intro _
    | (extract_lets +onlyGivenNames x; refine (fun (hx : Kept b x) => ?_) ?_; (on_goal 1 => try clear_value x); (on_goal 2 => (dsimp only [x]; clear x)))
    | (extract_lets +onlyGivenNames x; refine (fun (hx : Kept b x.2) => ?_) ?_; (on_goal 1 => try clear_value x); (on_goal 2 => (dsimp only [x]; clear x)))
    | (extract_lets +onlyGivenNames x; refine (fun (hx : Kept b x.1) => ?_) ?_; (on_goal 1 => try clear_value x); (on_goal 2 => (dsimp only [x]; clear x)))
    | (extract_lets +onlyGivenNames x; first | clear_value x | (dsimp only [x]; clear x) | skip)
    | with_reducible apply State.i3Defer_kept
    | with_reducible apply State.i3Launch_kept
    | with_reducible refine State.i3Launch_kept' ?_ _ _ _ _ ‹_›
    | with_reducible apply State.i3Attempt_kept
    | with_reducible apply State.i3Fill_kept
    | with_reducible apply State.setI3_kept
    | with_reducible apply State.ccaStart_kept
    | split
    | (simp -zeta only [Kept_mk]; refine ⟨Kept.tabs ?_, ?_, ?_⟩)
    | with_reducible refine Kept.epochs ?_
    | with_reducible refine Kept.svns ?_
    | dsimp -zeta only [id]

theorem execI3TxSelect_kept (t : Time) (p : Nat) {s : State} (hs : Kept b s) : KeptOut b (execI3TxSelect t p s) := by
  unfold execI3TxSelect
  repeat' first
    | with_reducible assumption
    | with_reducible refine KeptOut_next ?_
    | intro _
    | (extract_lets +onlyGivenNames x; refine (fun (hx : Kept b x) => ?_) ?_; (on_goal 1 => try clear_value x); (on_goal 2 => (dsimp only [x]; clear x)))
    | (extract_lets +onlyGivenNames x; first | clear_value x | (dsimp only [x]; clear x) | skip)
    | with_reducible apply State.at_kept
    | with_reducible apply State.i3Send_kept
    | split
    | (simp -zeta only [Kept_mk]; refine ⟨Kept.tabs ?_, ?_, ?_⟩)
    | with_reducible refine Kept.epochs ?_
    | with_reducible refine Kept.svns ?_
    | dsimp -zeta only [id]

theorem State.i3Forget_kept {s : State} (hs : Kept b s) (p : ℕ) (id : ℕ) : Kept b (State.i3Forget s p id) := by
  unfold State.i3Forget
  repeat' first
    | with_reducible assumption
    | (extract_lets +onlyGivenNames x; refine (fun (hx : Kept b x) => ?_) ?_; (on_goal 1 => try clear_value x); (on_goal 2 => (dsimp only [x]; clear x)))
    | (extract_lets +onlyGivenNames x; first | clear_value x | (dsimp only [x]; clear x) | skip)
    | with_reducible apply State.setI3_kept
    | (simp -zeta only [Kept_mk]; refine ⟨Kept.tabs ?_, ?_, ?_⟩)
    | with_reducible refine Kept.epochs ?_
    | with_reducible refine Kept.svns ?_
    | dsimp -zeta only [id]

theorem State.i3Sent_kept {s : State} (hs : Kept b s) (id : ℕ) : Kept b (State.i3Sent s id) := by
  unfold State.i3Sent
  repeat' first
    | with_reducible assumption
    | (extract_lets +onlyGivenNames x; refine (fun (hx : Kept b x) => ?_) ?_; (on_goal 1 => try clear_value x); (on_goal 2 => (dsimp only [x]; clear x)))
    | (extract_lets +onlyGivenNames x; first | clear_value x | (dsimp only [x]; clear x) | skip)
    | with_reducible apply State.i3Forget_kept
    | with_reducible apply State.bump_kept
    | with_reducible apply State.setI3_kept
    | with_reducible apply State.i3TxDone_kept
    | split
    | (simp -zeta only [Kept_mk]; refine ⟨Kept.tabs ?_, ?_, ?_⟩)
    | with_reducible refine Kept.epochs ?_
    | with_reducible refine Kept.svns ?_
    | dsimp -zeta only [id]

theorem State.i3Aborted_kept {s : State} (hs : Kept b s) (id : ℕ) : Kept b (State.i3Aborted s id) := by
  unfold State.i3Aborted
  repeat' first
    | with_reducible assumption
    | with_reducible apply State.i3AckFail_kept
    | with_reducible apply State.i3Forget_kept
    | split
    | dsimp -zeta only [id]

theorem State.i3Busy_kept {s : State} (hs : Kept b s) (id : ℕ) : Kept b (State.i3Busy s id) := by
  unfold State.i3Busy
  repeat' first
    | with_reducible assumption
    | with_reducible apply State.i3AckFail_kept
    | with_reducible apply State.i3Forget_kept
    | with_reducible apply State.i3Defer_kept
    | split
    | dsimp -zeta only [id]

theorem execI3AckTimeout_kept (t : Time) (p : ℕ) {s : State} (hs : Kept b s) : KeptOut b (execI3AckTimeout t p s) := by
  unfold execI3AckTimeout
  repeat' first
    | with_reducible assumption
    | with_reducible refine KeptOut_next ?_
    | (extract_lets +onlyGivenNames x; refine (fun (hx : Kept b x) => ?_) ?_; (on_goal 1 => try clear_value x); (on_goal 2 => (dsimp only [x]; clear x)))
    | (extract_lets +onlyGivenNames x; first | clear_value x | (dsimp only [x]; clear x) | skip)
    | with_reducible apply State.at_kept
    | with_reducible apply State.i3Attempt_kept
    | split
    | dsimp -zeta only [id]

end Sys2Proof.Machine
end

