-- ==== Sys2Proof/Laws/KeptStreams.lean ====
section
/-! SUPPORT. What the operations of Machine/Streams.lean keep: queue, canonical tables, fuses. -/

set_option linter.unusedTactic false
set_option linter.unreachableTactic false
set_option linter.unusedVariables false
set_option linter.tactic.unusedName false

namespace Sys2Proof.Machine

variable {b : Base}

/-! ### Streams -/

theorem State.ownerAborted_kept {s : State} (hs : Kept b s) (id : ℕ) (ux : TxUser) : Kept b (State.ownerAborted s id ux) := by
  unfold State.ownerAborted
  repeat' first
    | with_reducible assumption
    | with_reducible apply State.i3Aborted_kept
    | with_reducible apply State.txAborted_kept
    | split
    | dsimp -zeta only [id]

theorem State.ownerBusy_kept {s : State} (hs : Kept b s) (id : ℕ) (ux : TxUser) : Kept b (State.ownerBusy s id ux) := by
  unfold State.ownerBusy
  repeat' first
    | with_reducible assumption
    | with_reducible apply State.i3Busy_kept
    | with_reducible apply State.txBusy_kept
    | split
    | dsimp -zeta only [id]

theorem State.endStream_kept {s : State} (hs : Kept b s) (n : Nat) (id : Nat) : Kept b (State.endStream s n id) := by
  unfold State.endStream
  repeat' first
    | with_reducible assumption
    | intro _
    | (extract_lets +onlyGivenNames x; refine (fun (hx : Kept b x) => ?_) ?_; (on_goal 1 => try clear_value x); (on_goal 2 => (dsimp only [x]; clear x)))
    | (extract_lets +onlyGivenNames x; first | clear_value x | (dsimp only [x]; clear x) | skip)
    | with_reducible apply State.markOwn_kept
    | with_reducible apply State.noteBlanked_kept
    | with_reducible apply State.dropStream_kept
    | with_reducible apply State.cdcDrop_kept
    | with_reducible apply State.setPort_kept
    | split
    | (simp -zeta only [Kept_mk]; refine ⟨Kept.tabs ?_, ?_, ?_⟩)
    | with_reducible refine Kept.epochs ?_
    | with_reducible refine Kept.svns ?_
    | dsimp -zeta only [id]

theorem State.abortStream_kept {s : State} (hs : Kept b s) (n : Nat) (x : Stream) (chips : Option Nat) : Kept b (State.abortStream s n x chips) := by
  unfold State.abortStream
  repeat' first
    | with_reducible assumption
    | intro _
    | (extract_lets +onlyGivenNames x; refine (fun (hx : Kept b x) => ?_) ?_; (on_goal 1 => try clear_value x); (on_goal 2 => (dsimp only [x]; clear x)))
    | (extract_lets +onlyGivenNames x; first | clear_value x | (dsimp only [x]; clear x) | skip)
    | with_reducible apply State.settle_kept
    | with_reducible apply State.endStream_kept
    | with_reducible apply State.bump_kept
    | with_reducible apply State.fire_kept
    | with_reducible apply State.ownerAborted_kept
    | split
    | (simp -zeta only [Kept_mk]; refine ⟨Kept.tabs ?_, ?_, ?_⟩)
    | with_reducible refine Kept.epochs ?_
    | with_reducible refine Kept.svns ?_
    | dsimp -zeta only [id]

theorem execStreamCancel_kept (t : Time) (id : ℕ) {s : State} (hs : Kept b s) : KeptOut b (execStreamCancel t id s) := by
  unfold execStreamCancel
  repeat' first
    | with_reducible assumption
    | with_reducible refine KeptOut_next ?_
    | (extract_lets +onlyGivenNames x; refine (fun (hx : Kept b x) => ?_) ?_; (on_goal 1 => try clear_value x); (on_goal 2 => (dsimp only [x]; clear x)))
    | (extract_lets +onlyGivenNames x; first | clear_value x | (dsimp only [x]; clear x) | skip)
    | with_reducible apply State.at_kept
    | with_reducible apply State.ownerAborted_kept
    | with_reducible apply State.endStream_kept
    | with_reducible apply State.settle_kept
    | split
    | dsimp -zeta only [id]

theorem execStreamRelease_kept (t : Time) (id : Nat) {s : State} (hs : Kept b s) : KeptOut b (execStreamRelease t id s) := by
  unfold execStreamRelease
  repeat' first
    | with_reducible assumption
    | with_reducible refine KeptOut_next ?_
    | intro _
    | (extract_lets +onlyGivenNames x; refine (fun (hx : Kept b x) => ?_) ?_; (on_goal 1 => try clear_value x); (on_goal 2 => (dsimp only [x]; clear x)))
    | (extract_lets +onlyGivenNames x; first | clear_value x | (dsimp only [x]; clear x) | skip)
    | with_reducible apply State.at_kept
    | with_reducible apply State.settle_kept
    | with_reducible apply State.endStream_kept
    | with_reducible apply State.ownerAborted_kept
    | with_reducible apply State.bump_kept
    | with_reducible apply State.fire_kept
    | with_reducible apply State.abortStream_kept
    | with_reducible apply State.setPort_kept
    | with_reducible apply State.blankLanes_kept
    | with_reducible apply State.markOwn_kept
    | split
    | (simp -zeta only [Kept_mk]; refine ⟨Kept.tabs ?_, ?_, ?_⟩)
    | with_reducible refine Kept.epochs ?_
    | with_reducible refine Kept.svns ?_
    | dsimp -zeta only [id]

theorem execStreamAbort_kept (t : Time) (id : ℕ) (chips : ℕ) {s : State} (hs : Kept b s) : KeptOut b (execStreamAbort t id chips s) := by
  unfold execStreamAbort
  repeat' first
    | with_reducible assumption
    | with_reducible refine KeptOut_next ?_
    | (extract_lets +onlyGivenNames x; refine (fun (hx : Kept b x) => ?_) ?_; (on_goal 1 => try clear_value x); (on_goal 2 => (dsimp only [x]; clear x)))
    | (extract_lets +onlyGivenNames x; first | clear_value x | (dsimp only [x]; clear x) | skip)
    | with_reducible apply State.at_kept
    | with_reducible apply State.abortStream_kept
    | split
    | dsimp -zeta only [id]

theorem State.tsMismatch_kept {s : State} (hs : Kept b s) : Kept b (State.tsMismatch s) := by
  unfold State.tsMismatch
  repeat' first
    | with_reducible assumption
    | (extract_lets +onlyGivenNames x; refine (fun (hx : Kept b x) => ?_) ?_; (on_goal 1 => try clear_value x); (on_goal 2 => (dsimp only [x]; clear x)))
    | (extract_lets +onlyGivenNames x; first | clear_value x | (dsimp only [x]; clear x) | skip)
    | with_reducible apply State.reportNow_kept
    | with_reducible apply State.fire_kept
    | with_reducible apply State.bump_kept
    | split
    | (simp -zeta only [Kept_mk]; refine ⟨Kept.tabs ?_, ?_, ?_⟩)
    | with_reducible refine Kept.epochs ?_
    | with_reducible refine Kept.svns ?_
    | dsimp -zeta only [id]

theorem execStreamEnd_kept (t : Time) (id : ℕ) (sfd : ℕ) {s : State} (hs : Kept b s) : KeptOut b (execStreamEnd t id sfd s) := by
  unfold execStreamEnd
  repeat' first
    | with_reducible assumption
    | with_reducible refine KeptOut_next ?_
    | intro _
    | (extract_lets +onlyGivenNames x; refine (fun (hx : Kept b x) => ?_) ?_; (on_goal 1 => try clear_value x); (on_goal 2 => (dsimp only [x]; clear x)))
    | (extract_lets +onlyGivenNames x; first | clear_value x | (dsimp only [x]; clear x) | skip)
    | with_reducible apply State.at_kept
    | with_reducible apply State.endStream_kept
    | with_reducible apply State.settle_kept
    | with_reducible apply State.tsMismatch_kept
    | with_reducible apply State.i3Sent_kept
    | with_reducible apply State.txSent_kept
    | split
    | dsimp -zeta only [id]

theorem State.ccaBusyFor_kept {s : State} (hs : Kept b s) (c : Cca) : Kept b (State.ccaBusyFor s c) := by
  unfold State.ccaBusyFor
  repeat' first
    | with_reducible assumption
    | intro _
    | (extract_lets +onlyGivenNames x; refine (fun (hx : Kept b x) => ?_) ?_; (on_goal 1 => try clear_value x); (on_goal 2 => (dsimp only [x]; clear x)))
    | (extract_lets +onlyGivenNames x; first | clear_value x | (dsimp only [x]; clear x) | skip)
    | with_reducible apply State.bump_kept
    | with_reducible apply State.fireIf_kept
    | with_reducible apply State.ownerBusy_kept
    | with_reducible apply State.endStream_kept
    | with_reducible apply State.settle_kept
    | split
    | (simp -zeta only [Kept_mk]; refine ⟨Kept.tabs ?_, ?_, ?_⟩)
    | with_reducible refine Kept.epochs ?_
    | with_reducible refine Kept.svns ?_
    | dsimp -zeta only [id]

theorem execCcaResult_kept (t : Time) (id : Nat) (n : Nat) (powers : List Nat) {s : State} (hs : Kept b s) : KeptOut b (execCcaResult t id n powers s) := by
  unfold execCcaResult
  repeat' first
    | with_reducible assumption
    | with_reducible refine KeptOut_next ?_
    | intro _
    | (extract_lets +onlyGivenNames x; refine (fun (hx : Kept b x) => ?_) ?_; (on_goal 1 => try clear_value x); (on_goal 2 => (dsimp only [x]; clear x)))
    | (extract_lets +onlyGivenNames x; first | clear_value x | (dsimp only [x]; clear x) | skip)
    | with_reducible apply State.at_kept
    | with_reducible apply State.markOwn_kept
    | with_reducible apply State.setPort_kept
    | with_reducible apply State.ccaBusyFor_kept
    | with_reducible apply State.bump_kept
    | split
    | (simp -zeta only [Kept_mk]; refine ⟨Kept.tabs ?_, ?_, ?_⟩)
    | with_reducible refine Kept.epochs ?_
    | with_reducible refine Kept.svns ?_
    | dsimp -zeta only [id]

theorem State.linkExit_kept {s : State} (hs : Kept b s) (t : Time) (n : Nat) (dest : Nat) : Kept b (State.linkExit s t n dest) := by
  unfold State.linkExit
  repeat' first
    | with_reducible assumption
    | intro _
    | (extract_lets +onlyGivenNames x; refine (fun (hx : Kept b x) => ?_) ?_; (on_goal 1 => try clear_value x); (on_goal 2 => (dsimp only [x]; clear x)))
    | (extract_lets +onlyGivenNames x; refine (fun (hx : Kept b x.2) => ?_) ?_; (on_goal 1 => try clear_value x); (on_goal 2 => (dsimp only [x]; clear x)))
    | (extract_lets +onlyGivenNames x; refine (fun (hx : Kept b x.1) => ?_) ?_; (on_goal 1 => try clear_value x); (on_goal 2 => (dsimp only [x]; clear x)))
    | (extract_lets +onlyGivenNames x; first | clear_value x | (dsimp only [x]; clear x) | skip)
    | with_reducible apply State.setFld_kept
    | with_reducible apply State.setPort_kept
    | with_reducible apply State.abortStream_kept
    | with_reducible apply State.lanesLost_kept
    | with_reducible apply State.bump_kept
    | with_reducible apply State.fire_kept
    | with_reducible apply State.reportNow_kept
    | with_reducible refine Kept_foldl ?_ ?_
    | with_reducible refine Kept_foldl2 ?_ ?_
    | with_reducible refine Kept_foldl1 ?_ ?_
    | split
    | (simp -zeta only [Kept_mk]; refine ⟨Kept.tabs ?_, ?_, ?_⟩)
    | with_reducible refine Kept.epochs ?_
    | with_reducible refine Kept.svns ?_
    | dsimp -zeta only [id]

theorem State.linkTo_kept {s : State} (hs : Kept b s) (t : Time) (n : Nat) (dest : Nat) : Kept b (State.linkTo s t n dest) := by
  unfold State.linkTo
  repeat' first
    | with_reducible assumption
    | intro _
    | (extract_lets +onlyGivenNames x; refine (fun (hx : Kept b x) => ?_) ?_; (on_goal 1 => try clear_value x); (on_goal 2 => (dsimp only [x]; clear x)))
    | (extract_lets +onlyGivenNames x; first | clear_value x | (dsimp only [x]; clear x) | skip)
    | with_reducible apply State.linkExit_kept
    | with_reducible apply State.setFld_kept
    | split
    | (simp -zeta only [Kept_mk]; refine ⟨Kept.tabs ?_, ?_, ?_⟩)
    | with_reducible refine Kept.epochs ?_
    | with_reducible refine Kept.svns ?_
    | dsimp -zeta only [id]

theorem execLinkDown_kept (t : Time) (n : Nat) (e : LinkErrs) {s : State} (hs : Kept b s) : KeptOut b (execLinkDown t n e s) := by
  unfold execLinkDown
  repeat' first
    | with_reducible assumption
    | with_reducible refine KeptOut_next ?_
    | intro _
    | (extract_lets +onlyGivenNames x; refine (fun (hx : Kept b x) => ?_) ?_; (on_goal 1 => try clear_value x); (on_goal 2 => (dsimp only [x]; clear x)))
    | (extract_lets +onlyGivenNames x; first | clear_value x | (dsimp only [x]; clear x) | skip)
    | with_reducible apply State.at_kept
    | with_reducible apply State.bump_kept
    | with_reducible apply State.linkExit_kept
    | split
    | (simp -zeta only [Kept_mk]; refine ⟨Kept.tabs ?_, ?_, ?_⟩)
    | with_reducible refine Kept.epochs ?_
    | with_reducible refine Kept.svns ?_
    | dsimp -zeta only [id]

theorem execDclkCheckWindow_kept (t : Time) (n : Nat) (counted : Nat) (expected : Nat) {s : State} (hs : Kept b s) : KeptOut b (execDclkCheckWindow t n counted expected s) := by
  unfold execDclkCheckWindow
  repeat' first
    | with_reducible assumption
    | with_reducible refine KeptOut_next ?_
    | intro _
    | (extract_lets +onlyGivenNames x; refine (fun (hx : Kept b x) => ?_) ?_; (on_goal 1 => try clear_value x); (on_goal 2 => (dsimp only [x]; clear x)))
    | (extract_lets +onlyGivenNames x; first | clear_value x | (dsimp only [x]; clear x) | skip)
    | with_reducible apply State.at_kept
    | with_reducible apply State.setPort_kept
    | with_reducible apply State.setFlag_kept
    | with_reducible apply State.setFld_kept
    | with_reducible apply State.linkTo_kept
    | with_reducible apply State.fireIf_kept
    | split
    | (simp -zeta only [Kept_mk]; refine ⟨Kept.tabs ?_, ?_, ?_⟩)
    | with_reducible refine Kept.epochs ?_
    | with_reducible refine Kept.svns ?_
    | dsimp -zeta only [id]

theorem execHistoryReadDone_kept (t : Time) (id : Nat) {s : State} (hs : Kept b s) : KeptOut b (execHistoryReadDone t id s) := by
  unfold execHistoryReadDone
  repeat' first
    | with_reducible assumption
    | with_reducible refine KeptOut_next ?_
    | intro _
    | (extract_lets +onlyGivenNames x; refine (fun (hx : Kept b x) => ?_) ?_; (on_goal 1 => try clear_value x); (on_goal 2 => (dsimp only [x]; clear x)))
    | (extract_lets +onlyGivenNames x; first | clear_value x | (dsimp only [x]; clear x) | skip)
    | with_reducible apply State.at_kept
    | with_reducible apply State.histEnd_kept
    | with_reducible apply State.sicReadDone_kept
    | with_reducible apply State.laneReadDone_kept
    | with_reducible apply State.searchReadDone_kept
    | split
    | (simp -zeta only [Kept_mk]; refine ⟨Kept.tabs ?_, ?_, ?_⟩)
    | with_reducible refine Kept.epochs ?_
    | with_reducible refine Kept.svns ?_
    | dsimp -zeta only [id]

theorem execHistoryWindowEnd_kept (octets : Nat) {s : State} (hs : Kept b s) : KeptOut b (execHistoryWindowEnd octets s) := by
  unfold execHistoryWindowEnd
  repeat' first
    | with_reducible assumption
    | with_reducible refine KeptOut_next ?_
    | intro _
    | (extract_lets +onlyGivenNames x; refine (fun (hx : Kept b x) => ?_) ?_; (on_goal 1 => try clear_value x); (on_goal 2 => (dsimp only [x]; clear x)))
    | (extract_lets +onlyGivenNames x; first | clear_value x | (dsimp only [x]; clear x) | skip)
    | with_reducible apply State.whenLive_kept
    | with_reducible apply State.bump_kept
    | with_reducible apply State.fire_kept
    | split
    | (simp -zeta only [Kept_mk]; refine ⟨Kept.tabs ?_, ?_, ?_⟩)
    | with_reducible refine Kept.epochs ?_
    | with_reducible refine Kept.svns ?_
    | dsimp -zeta only [id]

theorem State.memCorrected_kept {s : State} (hs : Kept b s) : Kept b (State.memCorrected s) := by
  unfold State.memCorrected
  repeat' first
    | with_reducible assumption
    | (extract_lets +onlyGivenNames x; refine (fun (hx : Kept b x) => ?_) ?_; (on_goal 1 => try clear_value x); (on_goal 2 => (dsimp only [x]; clear x)))
    | (extract_lets +onlyGivenNames x; first | clear_value x | (dsimp only [x]; clear x) | skip)
    | with_reducible apply State.bump_kept
    | with_reducible apply State.fireIf_kept
    | (simp -zeta only [Kept_mk]; refine ⟨Kept.tabs ?_, ?_, ?_⟩)
    | with_reducible refine Kept.epochs ?_
    | with_reducible refine Kept.svns ?_
    | dsimp -zeta only [id]

theorem State.memUncorrectable_kept {s : State} (hs : Kept b s) (unit : ℕ) (ch : ℕ) (region : ℕ) (addr : ℕ) (scrub : Bool) : Kept b (State.memUncorrectable s unit ch region addr scrub) := by
  unfold State.memUncorrectable
  repeat' first
    | with_reducible assumption
    | (extract_lets +onlyGivenNames x; refine (fun (hx : Kept b x) => ?_) ?_; (on_goal 1 => try clear_value x); (on_goal 2 => (dsimp only [x]; clear x)))
    | (extract_lets +onlyGivenNames x; first | clear_value x | (dsimp only [x]; clear x) | skip)
    | with_reducible apply State.bump_kept
    | with_reducible apply State.setFlag_kept
    | with_reducible apply State.setReg_kept
    | with_reducible apply State.reportNow_kept
    | with_reducible apply State.fire_kept
    | split
    | dsimp -zeta only [id]

theorem execScrubRead_kept (t : Time) (res : ScrubRes) (ch : ℕ) (region : ℕ) (addr : ℕ) (last : Bool) {s : State} (hs : Kept b s) : KeptOut b (execScrubRead t res ch region addr last s) := by
  unfold execScrubRead
  repeat' first
    | with_reducible assumption
    | with_reducible refine KeptOut_next ?_
    | (extract_lets +onlyGivenNames x; refine (fun (hx : Kept b x) => ?_) ?_; (on_goal 1 => try clear_value x); (on_goal 2 => (dsimp only [x]; clear x)))
    | (extract_lets +onlyGivenNames x; first | clear_value x | (dsimp only [x]; clear x) | skip)
    | with_reducible apply State.at_kept
    | with_reducible apply State.memCorrected_kept
    | with_reducible apply State.memUncorrectable_kept
    | with_reducible apply State.fire_kept
    | with_reducible apply State.bump_kept
    | split
    | dsimp -zeta only [id]

end Sys2Proof.Machine
end

