-- ==== Sys2Proof/Laws/KeptFlash.lean ====
section
/-! SUPPORT. What the operations of Machine/Flash.lean keep: queue, canonical tables, fuses. -/

set_option linter.unusedTactic false
set_option linter.unreachableTactic false
set_option linter.unusedVariables false
set_option linter.tactic.unusedName false

namespace Sys2Proof.Machine

variable {b : Base}

/-! ### Flash -/

theorem pagesPut_canon (t : Tab (List Sys2Proof.Octet)) (p k : Nat) (l : List Sys2Proof.Octet)
    (h : Tab.canon (fun _ => erasedPage) t = true) : Tab.canon (fun _ => erasedPage) (pagesPut t 0xFF p k l) = true := by
  induction k generalizing t p l with
  | zero => exact h
  | succ k ih => exact ih _ _ _ (Tab.canon_putD (fun _ => erasedPage) t p (l.take 256) h)

theorem State.flashWrite_kept {s : State} (hs : Kept b s) (off : Nat) (data : List Sys2Proof.Octet) :
    Kept b (State.flashWrite s off data) := by
  obtain ⟨⟨h1, h2⟩, h3⟩ := hs
  refine ⟨⟨h1, ?_⟩, h3⟩
  simp only [Bool.and_eq_true] at h2 ⊢
  exact ⟨h2.1, h2.2.1, h2.2.2.1, pagesPut_canon _ _ _ _ h2.2.2.2⟩

theorem State.flashErase_kept {s : State} (hs : Kept b s) (off : Nat) (n : Nat) : Kept b (State.flashErase s off n) := by
  obtain ⟨⟨h1, h2⟩, h3⟩ := hs
  refine ⟨⟨h1, ?_⟩, h3⟩
  simp only [Bool.and_eq_true] at h2 ⊢
  refine ⟨h2.1, h2.2.1, h2.2.2.1, ?_⟩
  unfold State.flashErase
  exact Tab.canon_only (fun _ => erasedPage) s.flash (fun q _ => Nat.blt q (off / 256) || Nat.ble ((off + n) / 256) q) h2.2.2.2

theorem State.dirShow_kept {s : State} (hs : Kept b s) : Kept b (State.dirShow s) := by
  unfold State.dirShow
  repeat' first
    | with_reducible assumption
    | (extract_lets +onlyGivenNames x; refine (fun (hx : Kept b x) => ?_) ?_; (on_goal 1 => try clear_value x); (on_goal 2 => (dsimp only [x]; clear x)))
    | (extract_lets +onlyGivenNames x; refine (fun (hx : Kept b x.2) => ?_) ?_; (on_goal 1 => try clear_value x); (on_goal 2 => (dsimp only [x]; clear x)))
    | (extract_lets +onlyGivenNames x; refine (fun (hx : Kept b x.1) => ?_) ?_; (on_goal 1 => try clear_value x); (on_goal 2 => (dsimp only [x]; clear x)))
    | (extract_lets +onlyGivenNames x; first | clear_value x | (dsimp only [x]; clear x) | skip)
    | with_reducible apply State.setReg_kept
    | with_reducible apply State.setFld_kept
    | split
    | dsimp -zeta only [id]

theorem State.dirWrite_kept {s : State} (hs : Kept b s) (d : DirRec) : Kept b (State.dirWrite s d) := by
  unfold State.dirWrite
  repeat' first
    | with_reducible assumption
    | (extract_lets +onlyGivenNames x; refine (fun (hx : Kept b x) => ?_) ?_; (on_goal 1 => try clear_value x); (on_goal 2 => (dsimp only [x]; clear x)))
    | (extract_lets +onlyGivenNames x; first | clear_value x | (dsimp only [x]; clear x) | skip)
    | with_reducible apply State.dirShow_kept
    | with_reducible apply State.flashWrite_kept
    | split
    | (simp -zeta only [Kept_mk]; refine ⟨Kept.tabs ?_, ?_, ?_⟩)
    | with_reducible refine Kept.epochs ?_
    | with_reducible refine Kept.svns ?_
    | dsimp -zeta only [id]

end Sys2Proof.Machine
end

