-- ==== Sys2Proof/Laws/KeptImage.lean ====
section
/-! SUPPORT. What the operations of Machine/Image.lean keep: queue, canonical tables, fuses. -/

set_option linter.unusedTactic false
set_option linter.unreachableTactic false
set_option linter.unusedVariables false
set_option linter.tactic.unusedName false

namespace Sys2Proof.Machine

variable {b : Base}

/-! ### Image -/

theorem State.withPairs_kept {s : State} (hs : Kept b s) (ps : List (Nat × Nat × Word)) : Kept b (State.withPairs s ps) := by
  obtain ⟨⟨h1, h2⟩, h3⟩ := hs
  simp only [Bool.and_eq_true] at h2
  have h0 : Kept b { s with regs := [], active := [] } := by
    refine ⟨⟨h1, ?_⟩, h3⟩
    simp only [Bool.and_eq_true]
    exact ⟨rfl, rfl, h2.2.2⟩
  unfold State.withPairs
  have h4 := Kept_foldl (l := ps) (f := fun (t : State) (p : Nat × Nat × Word) => t.setReg p.2.1 (p.2.2 ||| fixedOnes p.2.1))
    (fun u x h => State.setReg_kept h _ _) h0
  revert h4
  generalize List.foldl (fun (t : State) (p : Nat × Nat × Word) => t.setReg p.2.1 (p.2.2 ||| fixedOnes p.2.1))
    { s with regs := [], active := [] } ps = x
  intro h4
  obtain ⟨⟨g1, g2⟩, g3⟩ := h4
  refine ⟨⟨g1, ?_⟩, g3⟩
  simp only [Bool.and_eq_true] at g2 ⊢
  exact ⟨g2.1, g2.1, g2.2.2⟩

theorem State.copyOk_kept {s : State} (hs : Kept b s) (k : ℕ) (bx : Bool) : Kept b (State.copyOk s k bx) := by
  unfold State.copyOk
  repeat' first
    | with_reducible assumption
    | with_reducible apply State.setFlag_kept
    | split
    | dsimp -zeta only [id]

theorem State.runCheck_kept {s : State} (hs : Kept b s) (k : Nat) : Kept b (State.runCheck s k) := by
  unfold State.runCheck
  repeat' first
    | with_reducible assumption
    | intro _
    | (extract_lets +onlyGivenNames x; refine (fun (hx : Kept b x) => ?_) ?_; (on_goal 1 => try clear_value x); (on_goal 2 => (dsimp only [x]; clear x)))
    | (extract_lets +onlyGivenNames x; first | clear_value x | (dsimp only [x]; clear x) | skip)
    | with_reducible apply State.setFlag_kept
    | with_reducible apply State.setReg_kept
    | with_reducible apply State.copyOk_kept
    | split
    | (simp -zeta only [Kept_mk]; refine ⟨Kept.tabs ?_, ?_, ?_⟩)
    | with_reducible refine Kept.epochs ?_
    | with_reducible refine Kept.svns ?_
    | dsimp -zeta only [id]

theorem State.otherCheck_kept {s : State} (hs : Kept b s) : Kept b (State.otherCheck s) := by
  unfold State.otherCheck
  repeat' first
    | with_reducible assumption
    | intro _
    | (extract_lets +onlyGivenNames x; refine (fun (hx : Kept b x) => ?_) ?_; (on_goal 1 => try clear_value x); (on_goal 2 => (dsimp only [x]; clear x)))
    | (extract_lets +onlyGivenNames x; first | clear_value x | (dsimp only [x]; clear x) | skip)
    | with_reducible apply State.setReg_kept
    | with_reducible apply State.copyOk_kept
    | with_reducible apply State.fire_kept
    | split
    | (simp -zeta only [Kept_mk]; refine ⟨Kept.tabs ?_, ?_, ?_⟩)
    | with_reducible refine Kept.epochs ?_
    | with_reducible refine Kept.svns ?_
    | dsimp -zeta only [id]

end Sys2Proof.Machine
end

