-- ==== Sys2Proof/Laws/KeptSup.lean ====
section
/-! SUPPORT. What the operations of Machine/Sup.lean keep: queue, canonical tables, fuses. -/

set_option linter.unusedTactic false
set_option linter.unreachableTactic false
set_option linter.unusedVariables false
set_option linter.tactic.unusedName false

namespace Sys2Proof.Machine

variable {b : Base}

/-! ### Sup -/

theorem State.showFs_kept {s : State} (hs : Kept b s) : Kept b (State.showFs s) := by
  unfold State.showFs
  repeat' first
    | with_reducible assumption
    | with_reducible apply State.setFld_kept
    | with_reducible apply State.setFlag_kept
    | split
    | dsimp -zeta only [id]

theorem State.solveKeel_kept {s : State} (hs : Kept b s) : Kept b (State.solveKeel s) := by
  unfold State.solveKeel
  repeat' first
    | with_reducible assumption
    | intro _
    | (extract_lets +onlyGivenNames x; refine (fun (hx : Kept b x) => ?_) ?_; (on_goal 1 => try clear_value x); (on_goal 2 => (dsimp only [x]; clear x)))
    | (extract_lets +onlyGivenNames x; first | clear_value x | (dsimp only [x]; clear x) | skip)
    | with_reducible apply State.slvEndAll_kept
    | with_reducible apply State.joinAnswer_kept
    | with_reducible refine Kept_elim (fun _ => ?_) ?_
    | split
    | (simp -zeta only [Kept_mk]; refine ⟨Kept.tabs ?_, ?_, ?_⟩)
    | with_reducible refine Kept.epochs ?_
    | with_reducible refine Kept.svns ?_
    | dsimp -zeta only [id]

theorem State.enterKeel_kept {s : State} (hs : Kept b s) : Kept b (State.enterKeel s) := by
  unfold State.enterKeel
  repeat' first
    | with_reducible assumption
    | intro _
    | (extract_lets +onlyGivenNames x; refine (fun (hx : Kept b x) => ?_) ?_; (on_goal 1 => try clear_value x); (on_goal 2 => (dsimp only [x]; clear x)))
    | (extract_lets +onlyGivenNames x; first | clear_value x | (dsimp only [x]; clear x) | skip)
    | with_reducible apply State.setFlag_kept
    | with_reducible apply State.showFs_kept
    | with_reducible apply State.fire_kept
    | with_reducible apply State.drive_kept
    | with_reducible apply State.trialFail_kept
    | with_reducible apply State.updKeel_kept
    | with_reducible apply State.solveKeel_kept
    | split
    | (simp -zeta only [Kept_mk]; refine ⟨Kept.tabs ?_, ?_, ?_⟩)
    | with_reducible refine Kept.epochs ?_
    | with_reducible refine Kept.svns ?_
    | dsimp -zeta only [id]

theorem State.replay_kept {s : State} (hs : Kept b s) : Kept b (State.replay s) := by
  unfold State.replay
  repeat' first
    | with_reducible assumption
    | intro _
    | (extract_lets +onlyGivenNames x; refine (fun (hx : Kept b x) => ?_) ?_; (on_goal 1 => try clear_value x); (on_goal 2 => (dsimp only [x]; clear x)))
    | (extract_lets +onlyGivenNames x; first | clear_value x | (dsimp only [x]; clear x) | skip)
    | with_reducible apply State.showFs_kept
    | with_reducible apply State.recordNotice_kept
    | with_reducible refine Kept_foldl ?_ ?_
    | with_reducible refine Kept_foldl2 ?_ ?_
    | with_reducible refine Kept_foldl1 ?_ ?_
    | (simp -zeta only [Kept_mk]; refine ⟨Kept.tabs ?_, ?_, ?_⟩)
    | with_reducible refine Kept.epochs ?_
    | with_reducible refine Kept.svns ?_
    | dsimp -zeta only [id]

theorem State.supFail_kept {s : State} (hs : Kept b s) (cls : Nat) : Kept b (State.supFail s cls) := by
  unfold State.supFail
  repeat' first
    | with_reducible assumption
    | intro _
    | (extract_lets +onlyGivenNames x; refine (fun (hx : Kept b x) => ?_) ?_; (on_goal 1 => try clear_value x); (on_goal 2 => (dsimp only [x]; clear x)))
    | (extract_lets +onlyGivenNames x; first | clear_value x | (dsimp only [x]; clear x) | skip)
    | with_reducible apply State.recordNotice_kept
    | with_reducible apply State.replay_kept
    | with_reducible apply State.trialFail_kept
    | with_reducible apply State.enterKeel_kept
    | with_reducible apply State.setFlag_kept
    | with_reducible apply State.showFs_kept
    | with_reducible apply State.bump_kept
    | with_reducible apply State.fire_kept
    | split
    | (simp -zeta only [Kept_mk]; refine ⟨Kept.tabs ?_, ?_, ?_⟩)
    | with_reducible refine Kept.epochs ?_
    | with_reducible refine Kept.svns ?_
    | dsimp -zeta only [id]

theorem execSupDivergence_kept (t : Time) {s : State} (hs : Kept b s) : KeptOut b (execSupDivergence t s) := by
  unfold execSupDivergence
  repeat' first
    | with_reducible assumption
    | with_reducible refine KeptOut_next ?_
    | intro _
    | (extract_lets +onlyGivenNames x; refine (fun (hx : Kept b x) => ?_) ?_; (on_goal 1 => try clear_value x); (on_goal 2 => (dsimp only [x]; clear x)))
    | (extract_lets +onlyGivenNames x; first | clear_value x | (dsimp only [x]; clear x) | skip)
    | with_reducible apply State.at_kept
    | with_reducible apply State.supFail_kept
    | split
    | (simp -zeta only [Kept_mk]; refine ⟨Kept.tabs ?_, ?_, ?_⟩)
    | with_reducible refine Kept.epochs ?_
    | with_reducible refine Kept.svns ?_
    | dsimp -zeta only [id]

theorem execSupWatchdogExpiry_kept (t : Time) {s : State} (hs : Kept b s) : KeptOut b (execSupWatchdogExpiry t s) := by
  unfold execSupWatchdogExpiry
  repeat' first
    | with_reducible assumption
    | with_reducible refine KeptOut_next ?_
    | intro _
    | (extract_lets +onlyGivenNames x; refine (fun (hx : Kept b x) => ?_) ?_; (on_goal 1 => try clear_value x); (on_goal 2 => (dsimp only [x]; clear x)))
    | (extract_lets +onlyGivenNames x; first | clear_value x | (dsimp only [x]; clear x) | skip)
    | with_reducible apply State.at_kept
    | with_reducible apply State.supFail_kept
    | split
    | (simp -zeta only [Kept_mk]; refine ⟨Kept.tabs ?_, ?_, ?_⟩)
    | with_reducible refine Kept.epochs ?_
    | with_reducible refine Kept.svns ?_
    | dsimp -zeta only [id]

theorem State.wdRestart_kept {s : State} (hs : Kept b s) : Kept b (State.wdRestart s) := by
  unfold State.wdRestart
  repeat' first
    | with_reducible assumption
    | (extract_lets +onlyGivenNames x; refine (fun (hx : Kept b x) => ?_) ?_; (on_goal 1 => try clear_value x); (on_goal 2 => (dsimp only [x]; clear x)))
    | (extract_lets +onlyGivenNames x; first | clear_value x | (dsimp only [x]; clear x) | skip)
    | (simp -zeta only [Kept_mk]; refine ⟨Kept.tabs ?_, ?_, ?_⟩)
    | with_reducible refine Kept.epochs ?_
    | with_reducible refine Kept.svns ?_
    | dsimp -zeta only [id]

theorem execSupWdogKick_kept (t : Time) (rq : Req) (v : Word) {s : State} (hs : Kept b s) : KeptOut b (execSupWdogKick t rq v s) := by
  unfold execSupWdogKick
  repeat' first
    | with_reducible assumption
    | with_reducible refine KeptOut_next ?_
    | intro _
    | (extract_lets +onlyGivenNames x; refine (fun (hx : Kept b x) => ?_) ?_; (on_goal 1 => try clear_value x); (on_goal 2 => (dsimp only [x]; clear x)))
    | (extract_lets +onlyGivenNames x; first | clear_value x | (dsimp only [x]; clear x) | skip)
    | with_reducible apply State.at_kept
    | with_reducible apply State.gated_kept
    | with_reducible apply State.wdRestart_kept
    | with_reducible apply State.supFail_kept
    | split
    | (simp -zeta only [Kept_mk]; refine ⟨Kept.tabs ?_, ?_, ?_⟩)
    | with_reducible refine Kept.epochs ?_
    | with_reducible refine Kept.svns ?_
    | dsimp -zeta only [id]

theorem execSupResume_kept (t : Time) {s : State} (hs : Kept b s) : KeptOut b (execSupResume t s) := by
  unfold execSupResume
  repeat' first
    | with_reducible assumption
    | with_reducible refine KeptOut_next ?_
    | (extract_lets +onlyGivenNames x; refine (fun (hx : Kept b x) => ?_) ?_; (on_goal 1 => try clear_value x); (on_goal 2 => (dsimp only [x]; clear x)))
    | (extract_lets +onlyGivenNames x; first | clear_value x | (dsimp only [x]; clear x) | skip)
    | with_reducible apply State.at_kept
    | with_reducible apply State.replay_kept
    | with_reducible apply State.wdRestart_kept
    | with_reducible apply State.setFlag_kept
    | split
    | (simp -zeta only [Kept_mk]; refine ⟨Kept.tabs ?_, ?_, ?_⟩)
    | with_reducible refine Kept.epochs ?_
    | with_reducible refine Kept.svns ?_
    | dsimp -zeta only [id]

theorem execPrcWatchdogExpiry_kept (t : Time) (p : ℕ) (memErr : Bool) (held : List ℕ) {s : State} (hs : Kept b s) : KeptOut b (execPrcWatchdogExpiry t p memErr held s) := by
  unfold execPrcWatchdogExpiry
  repeat' first
    | with_reducible assumption
    | with_reducible refine KeptOut_next ?_
    | intro _
    | (extract_lets +onlyGivenNames x; refine (fun (hx : Kept b x) => ?_) ?_; (on_goal 1 => try clear_value x); (on_goal 2 => (dsimp only [x]; clear x)))
    | (extract_lets +onlyGivenNames x; refine (fun (hx : Kept b x.2) => ?_) ?_; (on_goal 1 => try clear_value x); (on_goal 2 => (dsimp only [x]; clear x)))
    | (extract_lets +onlyGivenNames x; refine (fun (hx : Kept b x.1) => ?_) ?_; (on_goal 1 => try clear_value x); (on_goal 2 => (dsimp only [x]; clear x)))
    | (extract_lets +onlyGivenNames x; first | clear_value x | (dsimp only [x]; clear x) | skip)
    | with_reducible apply State.at_kept
    | with_reducible apply State.endPkt_kept
    | with_reducible apply State.report_kept
    | with_reducible apply State.fireIf_kept
    | with_reducible apply State.setFld_kept
    | with_reducible apply State.drive_kept
    | with_reducible apply State.fire_kept
    | with_reducible apply State.bump_kept
    | with_reducible apply State.trialFail_kept
    | with_reducible refine Kept_foldl ?_ ?_
    | with_reducible refine Kept_foldl2 ?_ ?_
    | with_reducible refine Kept_foldl1 ?_ ?_
    | split
    | (simp -zeta only [Kept_mk]; refine ⟨Kept.tabs ?_, ?_, ?_⟩)
    | with_reducible refine Kept.epochs ?_
    | with_reducible refine Kept.svns ?_
    | dsimp -zeta only [id]

theorem execPrcRestartDone_kept (p : ℕ) {s : State} (hs : Kept b s) : KeptOut b (execPrcRestartDone p s) := by
  unfold execPrcRestartDone
  repeat' first
    | with_reducible assumption
    | with_reducible refine KeptOut_next ?_
    | intro _
    | with_reducible apply State.setFld_kept
    | split
    | dsimp -zeta only [id]

theorem execFsReplicaMismatch_kept {s : State} (hs : Kept b s) : KeptOut b (execFsReplicaMismatch s) := by
  unfold execFsReplicaMismatch
  repeat' first
    | with_reducible assumption
    | with_reducible refine KeptOut_next ?_
    | with_reducible apply State.reportNow_kept
    | with_reducible apply State.bump_kept
    | split
    | dsimp -zeta only [id]

theorem State.contain_kept {s : State} (hs : Kept b s) (f : UnitFault) : Kept b (State.contain s f) := by
  unfold State.contain
  repeat' first
    | with_reducible assumption
    | intro _
    | (extract_lets +onlyGivenNames x; refine (fun (hx : Kept b x) => ?_) ?_; (on_goal 1 => try clear_value x); (on_goal 2 => (dsimp only [x]; clear x)))
    | (extract_lets +onlyGivenNames x; first | clear_value x | (dsimp only [x]; clear x) | skip)
    | with_reducible apply State.sicBufferError_kept
    | with_reducible apply State.laneCut_kept
    | with_reducible apply State.fire_kept
    | with_reducible apply State.reportNow_kept
    | with_reducible apply State.abortStream_kept
    | with_reducible apply State.setNbr_kept
    | with_reducible apply State.forgetHead_kept
    | with_reducible apply State.flushQueue_kept
    | with_reducible apply State.bump_kept
    | with_reducible apply State.tell_kept
    | with_reducible apply State.strike_kept
    | with_reducible apply State.slvAbortRun_kept
    | with_reducible apply State.acctError_kept
    | with_reducible apply State.pktDataError_kept
    | with_reducible apply State.endPkt_kept
    | with_reducible apply State.i3Error_kept
    | with_reducible apply State.memCorrected_kept
    | with_reducible apply State.memUncorrectable_kept
    | split
    | (simp -zeta only [Kept_mk]; refine ⟨Kept.tabs ?_, ?_, ?_⟩)
    | with_reducible refine Kept.epochs ?_
    | with_reducible refine Kept.svns ?_
    | dsimp -zeta only [id]

theorem execSupNotice_kept (t : Time) (f : UnitFault) {s : State} (hs : Kept b s) : KeptOut b (execSupNotice t f s) := by
  unfold execSupNotice
  repeat' first
    | with_reducible assumption
    | with_reducible refine KeptOut_next ?_
    | with_reducible apply State.showFs_kept
    | with_reducible apply State.contain_kept
    | with_reducible apply State.at_kept
    | dsimp -zeta only [id]

theorem execSupLogpop_kept (rq : Req) {s : State} (hs : Kept b s) : KeptOut b (execSupLogpop rq s) := by
  unfold execSupLogpop
  repeat' first
    | with_reducible assumption
    | with_reducible refine KeptOut_next ?_
    | intro _
    | (extract_lets +onlyGivenNames x; refine (fun (hx : Kept b x) => ?_) ?_; (on_goal 1 => try clear_value x); (on_goal 2 => (dsimp only [x]; clear x)))
    | (extract_lets +onlyGivenNames x; first | clear_value x | (dsimp only [x]; clear x) | skip)
    | with_reducible apply State.gated_kept
    | (simp -zeta only [Kept_mk]; refine ⟨Kept.tabs ?_, ?_, ?_⟩)
    | with_reducible refine Kept.epochs ?_
    | with_reducible refine Kept.svns ?_
    | dsimp -zeta only [id]

theorem execRefclkLoss_kept (t : Time) (refcnt : Nat) {s : State} (hs : Kept b s) : KeptOut b (execRefclkLoss t refcnt s) := by
  unfold execRefclkLoss
  repeat' first
    | with_reducible assumption
    | with_reducible refine KeptOut_next ?_
    | intro _
    | (extract_lets +onlyGivenNames x; refine (fun (hx : Kept b x) => ?_) ?_; (on_goal 1 => try clear_value x); (on_goal 2 => (dsimp only [x]; clear x)))
    | (extract_lets +onlyGivenNames x; first | clear_value x | (dsimp only [x]; clear x) | skip)
    | with_reducible apply State.at_kept
    | with_reducible apply State.dropHold_kept
    | with_reducible apply State.drive_kept
    | with_reducible apply State.clearStep_kept
    | with_reducible apply State.enterHold_kept
    | split
    | (simp -zeta only [Kept_mk]; refine ⟨Kept.tabs ?_, ?_, ?_⟩)
    | with_reducible refine Kept.epochs ?_
    | with_reducible refine Kept.svns ?_
    | dsimp -zeta only [id]

theorem execRefclkReturn_kept (t : Time) (refcnt : ℕ) {s : State} (hs : Kept b s) : KeptOut b (execRefclkReturn t refcnt s) := by
  unfold execRefclkReturn
  repeat' first
    | with_reducible assumption
    | with_reducible refine KeptOut_next ?_
    | (extract_lets +onlyGivenNames x; refine (fun (hx : Kept b x) => ?_) ?_; (on_goal 1 => try clear_value x); (on_goal 2 => (dsimp only [x]; clear x)))
    | (extract_lets +onlyGivenNames x; first | clear_value x | (dsimp only [x]; clear x) | skip)
    | with_reducible apply State.drive_kept
    | with_reducible apply State.at_kept
    | with_reducible apply State.enterHold_kept
    | split
    | (simp -zeta only [Kept_mk]; refine ⟨Kept.tabs ?_, ?_, ?_⟩)
    | with_reducible refine Kept.epochs ?_
    | with_reducible refine Kept.svns ?_
    | dsimp -zeta only [id]

theorem execDebugHalt_kept (t : Time) (sup : Bool) (p : Nat) {s : State} (hs : Kept b s) : KeptOut b (execDebugHalt t sup p s) := by
  unfold execDebugHalt
  repeat' first
    | with_reducible assumption
    | with_reducible refine KeptOut_next ?_
    | intro _
    | (extract_lets +onlyGivenNames x; refine (fun (hx : Kept b x) => ?_) ?_; (on_goal 1 => try clear_value x); (on_goal 2 => (dsimp only [x]; clear x)))
    | (extract_lets +onlyGivenNames x; first | clear_value x | (dsimp only [x]; clear x) | skip)
    | with_reducible apply State.at_kept
    | with_reducible apply State.fire_kept
    | with_reducible apply State.haltPrc_kept
    | split
    | (simp -zeta only [Kept_mk]; refine ⟨Kept.tabs ?_, ?_, ?_⟩)
    | with_reducible refine Kept.epochs ?_
    | with_reducible refine Kept.svns ?_
    | dsimp -zeta only [id]

theorem execDebugHaltEnd_kept (t : Time) (sup : Bool) (p : Nat) {s : State} (hs : Kept b s) : KeptOut b (execDebugHaltEnd t sup p s) := by
  unfold execDebugHaltEnd
  repeat' first
    | with_reducible assumption
    | with_reducible refine KeptOut_next ?_
    | intro _
    | (extract_lets +onlyGivenNames x; refine (fun (hx : Kept b x) => ?_) ?_; (on_goal 1 => try clear_value x); (on_goal 2 => (dsimp only [x]; clear x)))
    | (extract_lets +onlyGivenNames x; first | clear_value x | (dsimp only [x]; clear x) | skip)
    | with_reducible apply State.at_kept
    | with_reducible apply State.wdRestart_kept
    | with_reducible apply State.replay_kept
    | split
    | (simp -zeta only [Kept_mk]; refine ⟨Kept.tabs ?_, ?_, ?_⟩)
    | with_reducible refine Kept.epochs ?_
    | with_reducible refine Kept.svns ?_
    | dsimp -zeta only [id]

theorem State.secStart_kept {s : State} (hs : Kept b s) : Kept b (State.secStart s) := by
  unfold State.secStart
  repeat' first
    | with_reducible assumption
    | intro _
    | (extract_lets +onlyGivenNames x; refine (fun (hx : Kept b x) => ?_) ?_; (on_goal 1 => try clear_value x); (on_goal 2 => (dsimp only [x]; clear x)))
    | (extract_lets +onlyGivenNames x; refine (fun (hx : b.epoch ≤ (x : Kvt).fuses) => ?_) ?_; (on_goal 1 => try clear_value x); (on_goal 2 => (dsimp only [x]; clear x)))
    | (extract_lets +onlyGivenNames x; first | clear_value x | (dsimp only [x]; clear x) | skip)
    | with_reducible apply State.kvtTo_kept
    | with_reducible apply State.setFlag_kept
    | with_reducible apply State.setRegs_kept
    | with_reducible apply State.rootBurn_kept
    | with_reducible apply State.epochShow_kept
    | with_reducible apply State.updResume_kept
    | split
    | (simp -zeta only [Kept_mk]; refine ⟨Kept.tabs ?_, ?_, ?_⟩)
    | with_reducible refine Kept.epochs ?_
    | with_reducible refine Kept.svns ?_
    | dsimp -zeta only [id]

theorem execDebugScanStart_kept {s : State} (hs : Kept b s) : KeptOut b (execDebugScanStart s) := by
  unfold execDebugScanStart
  repeat' first
    | with_reducible assumption
    | with_reducible refine KeptOut_next ?_
    | intro _
    | (extract_lets +onlyGivenNames x; refine (fun (hx : Kept b x) => ?_) ?_; (on_goal 1 => try clear_value x); (on_goal 2 => (dsimp only [x]; clear x)))
    | (extract_lets +onlyGivenNames x; refine (fun (hx : b.epoch ≤ (x : Kvt).fuses) => ?_) ?_; (on_goal 1 => try clear_value x); (on_goal 2 => (dsimp only [x]; clear x)))
    | (extract_lets +onlyGivenNames x; first | clear_value x | (dsimp only [x]; clear x) | skip)
    | with_reducible apply State.kvtTo_kept
    | with_reducible apply State.setRegs_kept
    | split
    | (simp -zeta only [Kept_mk]; refine ⟨Kept.tabs ?_, ?_, ?_⟩)
    | with_reducible refine Kept.epochs ?_
    | with_reducible refine Kept.svns ?_
    | dsimp -zeta only [id]

theorem execDebugScanEnd_kept {s : State} (hs : Kept b s) : KeptOut b (execDebugScanEnd s) := by
  unfold execDebugScanEnd
  repeat' first
    | with_reducible assumption
    | with_reducible refine KeptOut_next ?_
    | with_reducible apply State.secStart_kept
    | split
    | dsimp -zeta only [id]

end Sys2Proof.Machine
end

