-- ==== Sys2Proof/Laws/KeptPower.lean ====
section
/-! SUPPORT. What the operations of Machine/Power.lean keep: queue, canonical tables, fuses. -/

set_option linter.unusedTactic false
set_option linter.unreachableTactic false
set_option linter.unusedVariables false
set_option linter.tactic.unusedName false

namespace Sys2Proof.Machine

variable {b : Base}

/-! ### Power -/

theorem State.loseDomains_kept {s : State} (hs : Kept b s) (aon keep : Bool) : Kept b (State.loseDomains s aon keep) := by
  obtain ⟨⟨h1, h2⟩, h3⟩ := hs
  simp only [Bool.and_eq_true] at h2
  cases aon
  · refine ⟨⟨h1, ?_⟩, h3⟩
    simp only [Bool.and_eq_true]
    exact ⟨rfl, rfl, rfl, h2.2.2.2⟩
  · refine ⟨⟨h1, ?_⟩, h3⟩
    simp only [Bool.and_eq_true]
    refine ⟨?_, rfl, rfl, h2.2.2.2⟩
    show Tab.canon resetOf s.aonRegs = true
    exact Tab.canon_only resetOf s.regs _ h2.1

theorem State.showDip_kept {s : State} (hs : Kept b s) : Kept b (State.showDip s) := by
  unfold State.showDip
  repeat' first
    | with_reducible assumption
    | intro _
    | (extract_lets +onlyGivenNames x; refine (fun (hx : Kept b x) => ?_) ?_; (on_goal 1 => try clear_value x); (on_goal 2 => (dsimp only [x]; clear x)))
    | (extract_lets +onlyGivenNames x; first | clear_value x | (dsimp only [x]; clear x) | skip)
    | with_reducible apply State.setFlag_kept
    | dsimp -zeta only [id]

theorem State.resetBy_kept {s : State} (hs : Kept b s) (c : ResetCause) : Kept b (State.resetBy s c) := by
  unfold State.resetBy
  repeat' first
    | with_reducible assumption
    | intro _
    | (extract_lets +onlyGivenNames x; refine (fun (hx : Kept b x) => ?_) ?_; (on_goal 1 => try clear_value x); (on_goal 2 => (dsimp only [x]; clear x)))
    | (extract_lets +onlyGivenNames x; first | clear_value x | (dsimp only [x]; clear x) | skip)
    | with_reducible apply State.fireIf_kept
    | with_reducible apply State.loseDomains_kept
    | with_reducible apply State.showDip_kept
    | split
    | (simp -zeta only [Kept_mk]; refine ⟨Kept.tabs ?_, ?_, ?_⟩)
    | with_reducible refine Kept.epochs ?_
    | with_reducible refine Kept.svns ?_
    | dsimp -zeta only [id]

theorem State.becomeStart_kept {s : State} (hs : Kept b s) : Kept b (State.becomeStart s) := by
  unfold State.becomeStart
  repeat' first
    | with_reducible assumption
    | intro _
    | (extract_lets +onlyGivenNames x; refine (fun (hx : Kept b x) => ?_) ?_; (on_goal 1 => try clear_value x); (on_goal 2 => (dsimp only [x]; clear x)))
    | (extract_lets +onlyGivenNames x; first | clear_value x | (dsimp only [x]; clear x) | skip)
    | with_reducible apply State.fireIf_kept
    | with_reducible apply State.loseDomains_kept
    | with_reducible apply State.showDip_kept
    | split
    | (simp -zeta only [Kept_mk]; refine ⟨Kept.tabs ?_, ?_, ?_⟩)
    | with_reducible refine Kept.epochs ?_
    | with_reducible refine Kept.svns ?_
    | dsimp -zeta only [id]

theorem State.captureDip_kept {s : State} (hs : Kept b s) (d : Dip) (durb : ℕ) (vminb : ℕ) (rst : Bool) : Kept b (State.captureDip s d durb vminb rst) := by
  unfold State.captureDip
  repeat' first
    | with_reducible assumption
    | with_reducible apply State.setFlag_kept
    | with_reducible apply State.setReg_kept
    | split
    | dsimp -zeta only [id]

theorem State.dipStart_kept {s : State} (hs : Kept b s) (io : Bool) : Kept b (State.dipStart s io) := by
  unfold State.dipStart
  repeat' first
    | with_reducible assumption
    | (extract_lets +onlyGivenNames x; refine (fun (hx : Kept b x) => ?_) ?_; (on_goal 1 => try clear_value x); (on_goal 2 => (dsimp only [x]; clear x)))
    | (extract_lets +onlyGivenNames x; first | clear_value x | (dsimp only [x]; clear x) | skip)
    | with_reducible apply State.bump_kept
    | with_reducible apply State.fire_kept
    | with_reducible apply State.showDip_kept
    | split
    | (simp -zeta only [Kept_mk]; refine ⟨Kept.tabs ?_, ?_, ?_⟩)
    | with_reducible refine Kept.epochs ?_
    | with_reducible refine Kept.svns ?_
    | dsimp -zeta only [id]

theorem execCoreDipStart_kept {s : State} (hs : Kept b s) : KeptOut b (execCoreDipStart s) := by
  unfold execCoreDipStart
  repeat' first
    | with_reducible assumption
    | with_reducible refine KeptOut_next ?_
    | with_reducible apply State.dipStart_kept
    | dsimp -zeta only [id]

theorem execIoDipStart_kept {s : State} (hs : Kept b s) : KeptOut b (execIoDipStart s) := by
  unfold execIoDipStart
  repeat' first
    | with_reducible assumption
    | with_reducible refine KeptOut_next ?_
    | with_reducible apply State.dipStart_kept
    | dsimp -zeta only [id]

theorem State.releaseHeld_kept {s : State} (hs : Kept b s) : Kept b (State.releaseHeld s) := by
  unfold State.releaseHeld
  repeat' first
    | with_reducible assumption
    | intro _
    | (extract_lets +onlyGivenNames x; refine (fun (hx : Kept b x) => ?_) ?_; (on_goal 1 => try clear_value x); (on_goal 2 => (dsimp only [x]; clear x)))
    | (extract_lets +onlyGivenNames x; refine (fun (hx : b.svn ≤ (x : Upd).fuses) => ?_) ?_; (on_goal 1 => try clear_value x); (on_goal 2 => (dsimp only [x]; clear x)))
    | (extract_lets +onlyGivenNames x; first | clear_value x | (dsimp only [x]; clear x) | skip)
    | with_reducible apply State.journalStart_kept
    | with_reducible apply State.burnStart_kept
    | with_reducible apply State.updResume_kept
    | with_reducible refine Kept_foldl ?_ ?_
    | with_reducible refine Kept_foldl2 ?_ ?_
    | with_reducible refine Kept_foldl1 ?_ ?_
    | split
    | (simp -zeta only [Kept_mk]; refine ⟨Kept.tabs ?_, ?_, ?_⟩)
    | with_reducible refine Kept.epochs ?_
    | with_reducible refine Kept.svns ?_
    | dsimp -zeta only [id]

theorem execDipEnd_kept (durb : ℕ) (vminb : ℕ) {s : State} (hs : Kept b s) : KeptOut b (execDipEnd durb vminb s) := by
  unfold execDipEnd
  repeat' first
    | with_reducible assumption
    | with_reducible refine KeptOut_next ?_
    | (extract_lets +onlyGivenNames x; refine (fun (hx : Kept b x) => ?_) ?_; (on_goal 1 => try clear_value x); (on_goal 2 => (dsimp only [x]; clear x)))
    | (extract_lets +onlyGivenNames x; first | clear_value x | (dsimp only [x]; clear x) | skip)
    | with_reducible apply State.captureDip_kept
    | with_reducible apply State.fire_kept
    | with_reducible apply State.showDip_kept
    | with_reducible apply State.releaseHeld_kept
    | split
    | (simp -zeta only [Kept_mk]; refine ⟨Kept.tabs ?_, ?_, ?_⟩)
    | with_reducible refine Kept.epochs ?_
    | with_reducible refine Kept.svns ?_
    | dsimp -zeta only [id]

theorem execDipLong_kept {s : State} (hs : Kept b s) : KeptOut b (execDipLong s) := by
  unfold execDipLong
  repeat' first
    | with_reducible assumption
    | with_reducible refine KeptOut_next ?_
    | (extract_lets +onlyGivenNames x; refine (fun (hx : Kept b x) => ?_) ?_; (on_goal 1 => try clear_value x); (on_goal 2 => (dsimp only [x]; clear x)))
    | (extract_lets +onlyGivenNames x; first | clear_value x | (dsimp only [x]; clear x) | skip)
    | with_reducible apply State.fire_kept
    | split
    | (simp -zeta only [Kept_mk]; refine ⟨Kept.tabs ?_, ?_, ?_⟩)
    | with_reducible refine Kept.epochs ?_
    | with_reducible refine Kept.svns ?_
    | dsimp -zeta only [id]

theorem execPowerOnReset_kept {s : State} (hs : Kept b s) : KeptOut b (execPowerOnReset s) := by
  unfold execPowerOnReset
  repeat' first
    | with_reducible assumption
    | with_reducible refine KeptOut_next ?_
    | (extract_lets +onlyGivenNames x; refine (fun (hx : Kept b x) => ?_) ?_; (on_goal 1 => try clear_value x); (on_goal 2 => (dsimp only [x]; clear x)))
    | (extract_lets +onlyGivenNames x; first | clear_value x | (dsimp only [x]; clear x) | skip)
    | with_reducible apply State.resetBy_kept
    | (simp -zeta only [Kept_mk]; refine ⟨Kept.tabs ?_, ?_, ?_⟩)
    | with_reducible refine Kept.epochs ?_
    | with_reducible refine Kept.svns ?_
    | dsimp -zeta only [id]

theorem execPinReset_kept {s : State} (hs : Kept b s) : KeptOut b (execPinReset s) := by
  unfold execPinReset
  repeat' first
    | with_reducible assumption
    | with_reducible refine KeptOut_next ?_
    | with_reducible apply State.resetBy_kept
    | dsimp -zeta only [id]

theorem State.supplyReset_kept {s : State} (hs : Kept b s) (c : ResetCause) (m : DipMeas) : Kept b (State.supplyReset s c m) := by
  unfold State.supplyReset
  repeat' first
    | with_reducible assumption
    | intro _
    | (extract_lets +onlyGivenNames x; refine (fun (hx : Kept b x) => ?_) ?_; (on_goal 1 => try clear_value x); (on_goal 2 => (dsimp only [x]; clear x)))
    | (extract_lets +onlyGivenNames x; first | clear_value x | (dsimp only [x]; clear x) | skip)
    | with_reducible apply State.resetBy_kept
    | with_reducible apply State.captureDip_kept
    | with_reducible apply State.showDip_kept
    | split
    | (simp -zeta only [Kept_mk]; refine ⟨Kept.tabs ?_, ?_, ?_⟩)
    | with_reducible refine Kept.epochs ?_
    | with_reducible refine Kept.svns ?_
    | dsimp -zeta only [id]

theorem execCoreSupplyReset_kept (m : DipMeas) {s : State} (hs : Kept b s) : KeptOut b (execCoreSupplyReset m s) := by
  unfold execCoreSupplyReset
  repeat' first
    | with_reducible assumption
    | with_reducible refine KeptOut_next ?_
    | intro _
    | (extract_lets +onlyGivenNames x; refine (fun (hx : Kept b x) => ?_) ?_; (on_goal 1 => try clear_value x); (on_goal 2 => (dsimp only [x]; clear x)))
    | (extract_lets +onlyGivenNames x; first | clear_value x | (dsimp only [x]; clear x) | skip)
    | with_reducible apply State.supplyReset_kept
    | split
    | (simp -zeta only [Kept_mk]; refine ⟨Kept.tabs ?_, ?_, ?_⟩)
    | with_reducible refine Kept.epochs ?_
    | with_reducible refine Kept.svns ?_
    | dsimp -zeta only [id]

theorem execIoSupplyReset_kept (m : DipMeas) {s : State} (hs : Kept b s) : KeptOut b (execIoSupplyReset m s) := by
  unfold execIoSupplyReset
  repeat' first
    | with_reducible assumption
    | with_reducible refine KeptOut_next ?_
    | intro _
    | (extract_lets +onlyGivenNames x; refine (fun (hx : Kept b x) => ?_) ?_; (on_goal 1 => try clear_value x); (on_goal 2 => (dsimp only [x]; clear x)))
    | (extract_lets +onlyGivenNames x; first | clear_value x | (dsimp only [x]; clear x) | skip)
    | with_reducible apply State.supplyReset_kept
    | split
    | (simp -zeta only [Kept_mk]; refine ⟨Kept.tabs ?_, ?_, ?_⟩)
    | with_reducible refine Kept.epochs ?_
    | with_reducible refine Kept.svns ?_
    | dsimp -zeta only [id]

theorem execSoftwareReset_kept (rq : Req) (key : ℕ) {s : State} (hs : Kept b s) : KeptOut b (execSoftwareReset rq key s) := by
  unfold execSoftwareReset
  repeat' first
    | with_reducible assumption
    | with_reducible refine KeptOut_next ?_
    | intro _
    | with_reducible apply State.gated_kept
    | with_reducible apply State.respond_kept
    | with_reducible apply State.resetBy_kept
    | split
    | dsimp -zeta only [id]

theorem State.drainUnit_kept {s : State} (hs : Kept b s) (t : Time) (d : Nat) (m : DomMode) : Kept b (State.drainUnit s t d m) := by
  unfold State.drainUnit
  repeat' first
    | with_reducible assumption
    | intro _
    | (extract_lets +onlyGivenNames x; refine (fun (hx : Kept b x) => ?_) ?_; (on_goal 1 => try clear_value x); (on_goal 2 => (dsimp only [x]; clear x)))
    | (extract_lets +onlyGivenNames x; refine (fun (hx : Kept b x.2) => ?_) ?_; (on_goal 1 => try clear_value x); (on_goal 2 => (dsimp only [x]; clear x)))
    | (extract_lets +onlyGivenNames x; refine (fun (hx : Kept b x.1) => ?_) ?_; (on_goal 1 => try clear_value x); (on_goal 2 => (dsimp only [x]; clear x)))
    | (extract_lets +onlyGivenNames x; first | clear_value x | (dsimp only [x]; clear x) | skip)
    | with_reducible apply State.setFlag_kept
    | with_reducible apply State.fireIf_kept
    | with_reducible apply State.linkTo_kept
    | with_reducible apply State.sicDrain_kept
    | with_reducible apply State.slvAbortAll_kept
    | with_reducible apply State.portTo_kept
    | with_reducible apply State.i3Off_kept
    | with_reducible refine Kept_foldl ?_ ?_
    | with_reducible refine Kept_foldl2 ?_ ?_
    | with_reducible refine Kept_foldl1 ?_ ?_
    | split
    | (simp -zeta only [Kept_mk]; refine ⟨Kept.tabs ?_, ?_, ?_⟩)
    | with_reducible refine Kept.epochs ?_
    | with_reducible refine Kept.svns ?_
    | dsimp -zeta only [id]

theorem State.startDom_kept {s : State} (hs : Kept b s) (t : Time) (d : Nat) (m : DomMode) : Kept b (State.startDom s t d m) := by
  unfold State.startDom
  repeat' first
    | with_reducible assumption
    | intro _
    | (extract_lets +onlyGivenNames x; refine (fun (hx : Kept b x) => ?_) ?_; (on_goal 1 => try clear_value x); (on_goal 2 => (dsimp only [x]; clear x)))
    | (extract_lets +onlyGivenNames x; first | clear_value x | (dsimp only [x]; clear x) | skip)
    | with_reducible apply State.setDom_kept
    | with_reducible apply State.drainUnit_kept
    | split
    | (simp -zeta only [Kept_mk]; refine ⟨Kept.tabs ?_, ?_, ?_⟩)
    | with_reducible refine Kept.epochs ?_
    | with_reducible refine Kept.svns ?_
    | dsimp -zeta only [id]

theorem State.requestDom_kept {s : State} (hs : Kept b s) (t : Time) (d : ℕ) (m : DomMode) : Kept b (State.requestDom s t d m) := by
  unfold State.requestDom
  repeat' first
    | with_reducible assumption
    | (extract_lets +onlyGivenNames x; refine (fun (hx : Kept b x) => ?_) ?_; (on_goal 1 => try clear_value x); (on_goal 2 => (dsimp only [x]; clear x)))
    | (extract_lets +onlyGivenNames x; first | clear_value x | (dsimp only [x]; clear x) | skip)
    | with_reducible apply State.startDom_kept
    | with_reducible apply State.setDom_kept
    | split
    | (simp -zeta only [Kept_mk]; refine ⟨Kept.tabs ?_, ?_, ?_⟩)
    | with_reducible refine Kept.epochs ?_
    | with_reducible refine Kept.svns ?_
    | dsimp -zeta only [id]

theorem State.unlatch_kept {s : State} (hs : Kept b s) (t : Time) (d : Nat) : Kept b (State.unlatch s t d) := by
  unfold State.unlatch
  repeat' first
    | with_reducible assumption
    | intro _
    | (extract_lets +onlyGivenNames x; refine (fun (hx : Kept b x) => ?_) ?_; (on_goal 1 => try clear_value x); (on_goal 2 => (dsimp only [x]; clear x)))
    | (extract_lets +onlyGivenNames x; first | clear_value x | (dsimp only [x]; clear x) | skip)
    | with_reducible apply State.bump_kept
    | with_reducible apply State.startDom_kept
    | split
    | (simp -zeta only [Kept_mk]; refine ⟨Kept.tabs ?_, ?_, ?_⟩)
    | with_reducible refine Kept.epochs ?_
    | with_reducible refine Kept.svns ?_
    | dsimp -zeta only [id]

theorem execDomainDrainDone_kept (d : ℕ) {s : State} (hs : Kept b s) : KeptOut b (execDomainDrainDone d s) := by
  unfold execDomainDrainDone
  repeat' first
    | with_reducible assumption
    | with_reducible refine KeptOut_next ?_
    | (extract_lets +onlyGivenNames x; refine (fun (hx : Kept b x) => ?_) ?_; (on_goal 1 => try clear_value x); (on_goal 2 => (dsimp only [x]; clear x)))
    | (extract_lets +onlyGivenNames x; first | clear_value x | (dsimp only [x]; clear x) | skip)
    | with_reducible apply State.setDom_kept
    | split
    | (simp -zeta only [Kept_mk]; refine ⟨Kept.tabs ?_, ?_, ?_⟩)
    | with_reducible refine Kept.epochs ?_
    | with_reducible refine Kept.svns ?_
    | dsimp -zeta only [id]

theorem State.zeroCounters_kept {s : State} (hs : Kept b s) (d : Nat) : Kept b (State.zeroCounters s d) := by
  obtain ⟨⟨h1, h2⟩, h3⟩ := hs
  simp only [Bool.and_eq_true] at h2
  have h4 : Tab.canon resetOf (s.zeroCounters d).regs = true := by
    unfold State.zeroCounters
    dsimp only
    apply Tab.canon_only
    exact h2.1
  refine ⟨⟨h1, ?_⟩, h3⟩
  rw [h4, Bool.true_and]
  simp only [Bool.and_eq_true]
  exact h2.2

theorem State.unitClear_kept {s : State} (hs : Kept b s) (d : Nat) (all : Bool) : Kept b (State.unitClear s d all) := by
  unfold State.unitClear
  repeat' first
    | with_reducible assumption
    | intro _
    | (extract_lets +onlyGivenNames x; refine (fun (hx : Kept b x) => ?_) ?_; (on_goal 1 => try clear_value x); (on_goal 2 => (dsimp only [x]; clear x)))
    | (extract_lets +onlyGivenNames x; first | clear_value x | (dsimp only [x]; clear x) | skip)
    | with_reducible apply State.setFlag_kept
    | with_reducible apply State.setPort_kept
    | with_reducible apply State.dropPeers_kept
    | split
    | (simp -zeta only [Kept_mk]; refine ⟨Kept.tabs ?_, ?_, ?_⟩)
    | with_reducible refine Kept.epochs ?_
    | with_reducible refine Kept.svns ?_
    | dsimp -zeta only [id]

theorem State.unitOff_kept {s : State} (hs : Kept b s) (d : Nat) (m : DomMode) : Kept b (State.unitOff s d m) := by
  unfold State.unitOff
  repeat' first
    | with_reducible assumption
    | intro _
    | (extract_lets +onlyGivenNames x; refine (fun (hx : Kept b x) => ?_) ?_; (on_goal 1 => try clear_value x); (on_goal 2 => (dsimp only [x]; clear x)))
    | (extract_lets +onlyGivenNames x; first | clear_value x | (dsimp only [x]; clear x) | skip)
    | with_reducible apply State.zeroCounters_kept
    | with_reducible apply State.unitClear_kept
    | split
    | (simp -zeta only [Kept_mk]; refine ⟨Kept.tabs ?_, ?_, ?_⟩)
    | with_reducible refine Kept.epochs ?_
    | with_reducible refine Kept.svns ?_
    | dsimp -zeta only [id]

theorem State.unitOn_kept {s : State} (hs : Kept b s) (d : Nat) : Kept b (State.unitOn s d) := by
  unfold State.unitOn
  repeat' first
    | with_reducible assumption
    | intro _
    | (extract_lets +onlyGivenNames x; refine (fun (hx : Kept b x) => ?_) ?_; (on_goal 1 => try clear_value x); (on_goal 2 => (dsimp only [x]; clear x)))
    | (extract_lets +onlyGivenNames x; refine (fun (hx : Kept b x.2) => ?_) ?_; (on_goal 1 => try clear_value x); (on_goal 2 => (dsimp only [x]; clear x)))
    | (extract_lets +onlyGivenNames x; refine (fun (hx : Kept b x.1) => ?_) ?_; (on_goal 1 => try clear_value x); (on_goal 2 => (dsimp only [x]; clear x)))
    | (extract_lets +onlyGivenNames x; first | clear_value x | (dsimp only [x]; clear x) | skip)
    | with_reducible apply State.linkStart_kept
    | with_reducible apply State.convDrain_kept
    | with_reducible apply State.cscStart_kept
    | with_reducible apply State.i3Init_kept
    | with_reducible refine Kept_foldl ?_ ?_
    | with_reducible refine Kept_foldl2 ?_ ?_
    | with_reducible refine Kept_foldl1 ?_ ?_
    | split
    | (simp -zeta only [Kept_mk]; refine ⟨Kept.tabs ?_, ?_, ?_⟩)
    | with_reducible refine Kept.epochs ?_
    | with_reducible refine Kept.svns ?_
    | dsimp -zeta only [id]

theorem execDomainEntryComplete_kept (t : Time) (d : ℕ) {s : State} (hs : Kept b s) : KeptOut b (execDomainEntryComplete t d s) := by
  unfold execDomainEntryComplete
  repeat' first
    | with_reducible assumption
    | with_reducible refine KeptOut_next ?_
    | (extract_lets +onlyGivenNames x; refine (fun (hx : Kept b x) => ?_) ?_; (on_goal 1 => try clear_value x); (on_goal 2 => (dsimp only [x]; clear x)))
    | (extract_lets +onlyGivenNames x; first | clear_value x | (dsimp only [x]; clear x) | skip)
    | with_reducible apply State.at_kept
    | with_reducible apply State.setDom_kept
    | with_reducible apply State.unlatch_kept
    | with_reducible apply State.fire_kept
    | with_reducible apply State.bump_kept
    | with_reducible apply State.unitOff_kept
    | split
    | (simp -zeta only [Kept_mk]; refine ⟨Kept.tabs ?_, ?_, ?_⟩)
    | with_reducible refine Kept.epochs ?_
    | with_reducible refine Kept.svns ?_
    | dsimp -zeta only [id]

theorem State.recoverBank_kept {s : State} (hs : Kept b s) (bx : Nat) : Kept b (State.recoverBank s bx) := by
  unfold State.recoverBank
  repeat' first
    | with_reducible assumption
    | intro _
    | (extract_lets +onlyGivenNames x; refine (fun (hx : Kept b x) => ?_) ?_; (on_goal 1 => try clear_value x); (on_goal 2 => (dsimp only [x]; clear x)))
    | (extract_lets +onlyGivenNames x; refine (fun (hx : Kept b x.2) => ?_) ?_; (on_goal 1 => try clear_value x); (on_goal 2 => (dsimp only [x]; clear x)))
    | (extract_lets +onlyGivenNames x; refine (fun (hx : Kept b x.1) => ?_) ?_; (on_goal 1 => try clear_value x); (on_goal 2 => (dsimp only [x]; clear x)))
    | (extract_lets +onlyGivenNames x; first | clear_value x | (dsimp only [x]; clear x) | skip)
    | with_reducible apply State.setFlag_kept
    | with_reducible apply State.bump_kept
    | with_reducible apply State.fire_kept
    | with_reducible apply State.utcInvalidate_kept
    | with_reducible apply State.keyState_kept
    | with_reducible refine Kept_foldl ?_ ?_
    | with_reducible refine Kept_foldl2 ?_ ?_
    | with_reducible refine Kept_foldl1 ?_ ?_
    | split
    | (simp -zeta only [Kept_mk]; refine ⟨Kept.tabs ?_, ?_, ?_⟩)
    | with_reducible refine Kept.epochs ?_
    | with_reducible refine Kept.svns ?_
    | dsimp -zeta only [id]

theorem State.bankFail_kept {s : State} (hs : Kept b s) (d : ℕ) (bx : ℕ) : Kept b (State.bankFail s d bx) := by
  unfold State.bankFail
  repeat' first
    | with_reducible assumption
    | (extract_lets +onlyGivenNames x; refine (fun (hx : Kept b x) => ?_) ?_; (on_goal 1 => try clear_value x); (on_goal 2 => (dsimp only [x]; clear x)))
    | (extract_lets +onlyGivenNames x; first | clear_value x | (dsimp only [x]; clear x) | skip)
    | with_reducible apply State.setFlag_kept
    | with_reducible apply State.setFld_kept
    | with_reducible apply State.reportNow_kept
    | with_reducible apply State.fire_kept
    | with_reducible apply State.bump_kept
    | dsimp -zeta only [id]

theorem execDomainExitComplete_kept (t : Time) (d : ℕ) (bad : List ℕ) {s : State} (hs : Kept b s) : KeptOut b (execDomainExitComplete t d bad s) := by
  unfold execDomainExitComplete
  repeat' first
    | with_reducible assumption
    | with_reducible refine KeptOut_next ?_
    | intro _
    | (extract_lets +onlyGivenNames x; refine (fun (hx : Kept b x) => ?_) ?_; (on_goal 1 => try clear_value x); (on_goal 2 => (dsimp only [x]; clear x)))
    | (extract_lets +onlyGivenNames x; first | clear_value x | (dsimp only [x]; clear x) | skip)
    | with_reducible apply State.at_kept
    | with_reducible apply State.recoverBank_kept
    | with_reducible apply State.bankFail_kept
    | with_reducible apply State.becomeStart_kept
    | with_reducible apply State.setDom_kept
    | with_reducible apply State.unlatch_kept
    | with_reducible apply State.fire_kept
    | with_reducible apply State.unitOn_kept
    | with_reducible refine Kept_foldl ?_ ?_
    | with_reducible refine Kept_foldl2 ?_ ?_
    | with_reducible refine Kept_foldl1 ?_ ?_
    | split
    | (simp -zeta only [Kept_mk]; refine ⟨Kept.tabs ?_, ?_, ?_⟩)
    | with_reducible refine Kept.epochs ?_
    | with_reducible refine Kept.svns ?_
    | dsimp -zeta only [id]

theorem State.applyReq_kept {s : State} (hs : Kept b s) (t : Time) (d : ℕ) : Kept b (State.applyReq s t d) := by
  unfold State.applyReq
  repeat' first
    | with_reducible assumption
    | with_reducible apply State.requestDom_kept
    | split
    | dsimp -zeta only [id]

theorem State.setDomReq_kept {s : State} (hs : Kept b s) (d : ℕ) (c : ℕ) : Kept b (State.setDomReq s d c) := by
  unfold State.setDomReq
  repeat' first
    | with_reducible assumption
    | with_reducible apply State.setFld_kept
    | split
    | dsimp -zeta only [id]

theorem State.domReqWrite_kept {s : State} (hs : Kept b s) (t : Time) (hi : Bool) (v : Sys2Proof.Word) : Kept b (State.domReqWrite s t hi v) := by
  unfold State.domReqWrite
  repeat' first
    | with_reducible assumption
    | intro _
    | (extract_lets +onlyGivenNames x; refine (fun (hx : Kept b x) => ?_) ?_; (on_goal 1 => try clear_value x); (on_goal 2 => (dsimp only [x]; clear x)))
    | (extract_lets +onlyGivenNames x; first | clear_value x | (dsimp only [x]; clear x) | skip)
    | with_reducible apply State.fire_kept
    | with_reducible apply State.applyReq_kept
    | with_reducible apply State.setDomReq_kept
    | with_reducible refine Kept_foldl ?_ ?_
    | with_reducible refine Kept_foldl2 ?_ ?_
    | with_reducible refine Kept_foldl1 ?_ ?_
    | split
    | dsimp -zeta only [id]

theorem execPwrDomreqWrite_kept (t : Time) (rq : Req) (hi : Bool) (v : Sys2Proof.Word) {s : State} (hs : Kept b s) : KeptOut b (execPwrDomreqWrite t rq hi v s) := by
  unfold execPwrDomreqWrite
  repeat' first
    | with_reducible assumption
    | with_reducible refine KeptOut_next ?_
    | (extract_lets +onlyGivenNames x; refine (fun (hx : Kept b x) => ?_) ?_; (on_goal 1 => try clear_value x); (on_goal 2 => (dsimp only [x]; clear x)))
    | (extract_lets +onlyGivenNames x; first | clear_value x | (dsimp only [x]; clear x) | skip)
    | with_reducible apply State.at_kept
    | with_reducible apply State.respond_kept
    | with_reducible apply State.recordFault_kept
    | with_reducible apply State.domReqWrite_kept
    | split
    | dsimp -zeta only [id]

end Sys2Proof.Machine
end

