-- ==== Sys2Proof/Laws/KeptFwdCmd.lean ====
section
/-! SUPPORT. What the operations of Machine/FwdCmd.lean keep: queue, canonical tables, fuses. -/

set_option linter.unusedTactic false
set_option linter.unreachableTactic false
set_option linter.unusedVariables false
set_option linter.tactic.unusedName false

namespace Sys2Proof.Machine

variable {b : Base}

/-! ### FwdCmd -/

theorem State.fwdDone_kept (priv : Bool) (c : FwdCmd) {r : FwdEnd} (hr : Kept b r.st) : Kept b (State.fwdDone priv c r) := by
  unfold State.fwdDone
  repeat' first
    | with_reducible assumption
    | intro _
    | (extract_lets +onlyGivenNames x; refine (fun (hx : Kept b x) => ?_) ?_; (on_goal 1 => try clear_value x); (on_goal 2 => (dsimp only [x]; clear x)))
    | (extract_lets +onlyGivenNames x; first | clear_value x | (dsimp only [x]; clear x) | skip)
    | with_reducible apply State.bump_kept
    | with_reducible apply State.setFld_kept
    | with_reducible apply State.setRegs_kept
    | with_reducible apply State.fire_kept
    | with_reducible apply State.setReg_kept
    | split
    | (simp -zeta only [Kept_mk]; refine ⟨Kept.tabs ?_, ?_, ?_⟩)
    | with_reducible refine Kept.epochs ?_
    | with_reducible refine Kept.svns ?_
    | dsimp -zeta only [id]

theorem State.fwdWrite_kept {s : State} (hs : Kept b s) (rq : Req) (op : Nat) (tbl : Nat) (tag : Nat) : Kept b (State.fwdWrite s rq op tbl tag) := by
  unfold State.fwdWrite
  repeat' first
    | with_reducible assumption
    | intro _
    | (extract_lets +onlyGivenNames x; refine (fun (hx : Kept b x) => ?_) ?_; (on_goal 1 => try clear_value x); (on_goal 2 => (dsimp only [x]; clear x)))
    | (extract_lets +onlyGivenNames x; first | clear_value x | (dsimp only [x]; clear x) | skip)
    | with_reducible apply State.gated_kept
    | with_reducible apply State.bump_kept
    | split
    | (simp -zeta only [Kept_mk]; refine ⟨Kept.tabs ?_, ?_, ?_⟩)
    | with_reducible refine Kept.epochs ?_
    | with_reducible refine Kept.svns ?_
    | dsimp -zeta only [id]

theorem State.fwdPriv_kept {s : State} (hs : Kept b s) (secure : Bool) (arg : Word) (data : List Octet) (op : Nat) (tbl : Nat) (tag : Nat) : Kept b (State.fwdPriv s secure arg data op tbl tag) := by
  unfold State.fwdPriv
  repeat' first
    | with_reducible assumption
    | intro _
    | (extract_lets +onlyGivenNames x; refine (fun (hx : Kept b x) => ?_) ?_; (on_goal 1 => try clear_value x); (on_goal 2 => (dsimp only [x]; clear x)))
    | (extract_lets +onlyGivenNames x; first | clear_value x | (dsimp only [x]; clear x) | skip)
    | with_reducible apply State.bump_kept
    | split
    | (simp -zeta only [Kept_mk]; refine ⟨Kept.tabs ?_, ?_, ?_⟩)
    | with_reducible refine Kept.epochs ?_
    | with_reducible refine Kept.svns ?_
    | dsimp -zeta only [id]

theorem State.fwdPrivOther_kept {s : State} (hs : Kept b s) (op : Nat) (secure : Bool) (arg : Word) (data : List Octet) (tbl : Nat) (tag : Nat) : Kept b (State.fwdPrivOther s op secure arg data tbl tag) := by
  unfold State.fwdPrivOther
  repeat' first
    | with_reducible assumption
    | intro _
    | (extract_lets +onlyGivenNames x; refine (fun (hx : Kept b x) => ?_) ?_; (on_goal 1 => try clear_value x); (on_goal 2 => (dsimp only [x]; clear x)))
    | (extract_lets +onlyGivenNames x; refine (fun (hx : Kept b x.2) => ?_) ?_; (on_goal 1 => try clear_value x); (on_goal 2 => (dsimp only [x]; clear x)))
    | (extract_lets +onlyGivenNames x; refine (fun (hx : Kept b x.1) => ?_) ?_; (on_goal 1 => try clear_value x); (on_goal 2 => (dsimp only [x]; clear x)))
    | (extract_lets +onlyGivenNames x; refine (fun (hx : ∀ u, Kept b u → Kept b (x u)) => ?_) ?_; (on_goal 1 => try clear_value x); (on_goal 2 => (dsimp only [x]; clear x)))
    | (extract_lets +onlyGivenNames x; refine (fun (hx : ∀ u y0, Kept b u → Kept b (x u y0)) => ?_) ?_; (on_goal 1 => try clear_value x); (on_goal 2 => (dsimp only [x]; clear x)))
    | (extract_lets +onlyGivenNames x; refine (fun (hx : ∀ u y0 y1, Kept b u → Kept b (x u y0 y1)) => ?_) ?_; (on_goal 1 => try clear_value x); (on_goal 2 => (dsimp only [x]; clear x)))
    | (extract_lets +onlyGivenNames x; refine (fun (hx : ∀ u y0 y1 y2, Kept b u → Kept b (x u y0 y1 y2)) => ?_) ?_; (on_goal 1 => try clear_value x); (on_goal 2 => (dsimp only [x]; clear x)))
    | (extract_lets +onlyGivenNames x; refine (fun (hx : ∀ u, Kept b u → Kept b (x u).2) => ?_) ?_; (on_goal 1 => try clear_value x); (on_goal 2 => (dsimp only [x]; clear x)))
    | (extract_lets +onlyGivenNames x; refine (fun (hx : ∀ u y0, Kept b u → Kept b (x u y0).2) => ?_) ?_; (on_goal 1 => try clear_value x); (on_goal 2 => (dsimp only [x]; clear x)))
    | (extract_lets +onlyGivenNames x; refine (fun (hx : ∀ u y0 y1, Kept b u → Kept b (x u y0 y1).2) => ?_) ?_; (on_goal 1 => try clear_value x); (on_goal 2 => (dsimp only [x]; clear x)))
    | (extract_lets +onlyGivenNames x; refine (fun (hx : ∀ y, Kept b (x y)) => ?_) ?_; (on_goal 1 => try clear_value x); (on_goal 2 => (dsimp only [x]; clear x)))
    | (extract_lets +onlyGivenNames x; first | clear_value x | (dsimp only [x]; clear x) | skip)
    | with_reducible apply State.fwdPriv_kept
    | with_reducible apply State.fwdDone_kept
    | split
    | (simp -zeta only [Kept_mk]; refine ⟨Kept.tabs ?_, ?_, ?_⟩)
    | with_reducible refine Kept.epochs ?_
    | with_reducible refine Kept.svns ?_
    | with_reducible apply_assumption
    | dsimp -zeta only [id]

theorem State.fwdReserved_kept {s : State} (hs : Kept b s) (rq : Req) (op : ℕ) (tbl : ℕ) (tag : ℕ) : Kept b (State.fwdReserved s rq op tbl tag) := by
  unfold State.fwdReserved
  repeat' first
    | with_reducible assumption
    | intro _
    | (extract_lets +onlyGivenNames x; refine (fun (hx : Kept b x) => ?_) ?_; (on_goal 1 => try clear_value x); (on_goal 2 => (dsimp only [x]; clear x)))
    | (extract_lets +onlyGivenNames x; first | clear_value x | (dsimp only [x]; clear x) | skip)
    | with_reducible apply State.fwdWrite_kept
    | with_reducible apply State.fwdDone_kept
    | split
    | dsimp -zeta only [id]

theorem State.fwdRun_kept {s : State} (hs : Kept b s) (t : Time) (priv : Bool) (op : ℕ) (tbls : List ℕ) {act : State → FwdCmd → FwdEnd} (hact : ∀ u x, Kept b u → Kept b (act u x).st) : Kept b (State.fwdRun s t priv op tbls act) := by
  unfold State.fwdRun
  repeat' first
    | with_reducible assumption
    | intro _
    | (extract_lets +onlyGivenNames x; refine (fun (hx : Kept b x) => ?_) ?_; (on_goal 1 => try clear_value x); (on_goal 2 => (dsimp only [x]; clear x)))
    | (extract_lets +onlyGivenNames x; first | clear_value x | (dsimp only [x]; clear x) | skip)
    | with_reducible apply State.at_kept
    | with_reducible apply State.fwdDone_kept
    | with_reducible apply hact
    | split
    | dsimp -zeta only [id]

theorem State.fwdStep_kept {s : State} (hs : Kept b s) (st : FwdStep) (op : Nat) (tbl : Nat) (tag : Nat) (tbls : List Nat) {act : List FwdErr → State → FwdCmd → FwdEnd} (hact : ∀ e u x, Kept b u → Kept b (act e u x).st) : Kept b (State.fwdStep s st op tbl tag tbls act) := by
  unfold State.fwdStep
  repeat' first
    | with_reducible assumption
    | intro _
    | (extract_lets +onlyGivenNames x; refine (fun (hx : Kept b x) => ?_) ?_; (on_goal 1 => try clear_value x); (on_goal 2 => (dsimp only [x]; clear x)))
    | (extract_lets +onlyGivenNames x; refine (fun (hx : Kept b x.2) => ?_) ?_; (on_goal 1 => try clear_value x); (on_goal 2 => (dsimp only [x]; clear x)))
    | (extract_lets +onlyGivenNames x; refine (fun (hx : Kept b x.1) => ?_) ?_; (on_goal 1 => try clear_value x); (on_goal 2 => (dsimp only [x]; clear x)))
    | (extract_lets +onlyGivenNames x; refine (fun (hx : ∀ u, Kept b u → Kept b (x u)) => ?_) ?_; (on_goal 1 => try clear_value x); (on_goal 2 => (dsimp only [x]; clear x)))
    | (extract_lets +onlyGivenNames x; refine (fun (hx : ∀ u y0, Kept b u → Kept b (x u y0)) => ?_) ?_; (on_goal 1 => try clear_value x); (on_goal 2 => (dsimp only [x]; clear x)))
    | (extract_lets +onlyGivenNames x; refine (fun (hx : ∀ u y0 y1, Kept b u → Kept b (x u y0 y1)) => ?_) ?_; (on_goal 1 => try clear_value x); (on_goal 2 => (dsimp only [x]; clear x)))
    | (extract_lets +onlyGivenNames x; refine (fun (hx : ∀ u y0 y1 y2, Kept b u → Kept b (x u y0 y1 y2)) => ?_) ?_; (on_goal 1 => try clear_value x); (on_goal 2 => (dsimp only [x]; clear x)))
    | (extract_lets +onlyGivenNames x; refine (fun (hx : ∀ u, Kept b u → Kept b (x u).2) => ?_) ?_; (on_goal 1 => try clear_value x); (on_goal 2 => (dsimp only [x]; clear x)))
    | (extract_lets +onlyGivenNames x; refine (fun (hx : ∀ u y0, Kept b u → Kept b (x u y0).2) => ?_) ?_; (on_goal 1 => try clear_value x); (on_goal 2 => (dsimp only [x]; clear x)))
    | (extract_lets +onlyGivenNames x; refine (fun (hx : ∀ u y0 y1, Kept b u → Kept b (x u y0 y1).2) => ?_) ?_; (on_goal 1 => try clear_value x); (on_goal 2 => (dsimp only [x]; clear x)))
    | (extract_lets +onlyGivenNames x; refine (fun (hx : ∀ y, Kept b (x y)) => ?_) ?_; (on_goal 1 => try clear_value x); (on_goal 2 => (dsimp only [x]; clear x)))
    | (extract_lets +onlyGivenNames x; first | clear_value x | (dsimp only [x]; clear x) | skip)
    | with_reducible apply State.fwdWrite_kept
    | with_reducible apply State.fwdPriv_kept
    | with_reducible apply State.fwdRun_kept
    | with_reducible apply State.fwdPrivOther_kept
    | with_reducible apply hact
    | split
    | (simp -zeta only [Kept_mk]; refine ⟨Kept.tabs ?_, ?_, ?_⟩)
    | with_reducible refine Kept.epochs ?_
    | with_reducible refine Kept.svns ?_
    | with_reducible apply_assumption
    | dsimp -zeta only [id]

theorem State.fwdWorld_kept {s : State} (hs : Kept b s) (c : FwdCmd) (pfx : Bool) (bx : ℕ) {k : State → FwdEnd} (hk : ∀ u, Kept b u → Kept b (k u).st) : Kept b (State.fwdWorld s c pfx bx k).st := by
  unfold State.fwdWorld
  repeat' first
    | with_reducible assumption
    | intro _
    | with_reducible apply State.xwFault_kept
    | with_reducible apply hk
    | split
    | dsimp -zeta only [id]

theorem found_kept (e : Option FwdEntry) {s : State} (hs : Kept b s) : Kept b (found e s).st := by
  unfold found
  repeat' first
    | with_reducible assumption
    | intro _
    | split
    | dsimp -zeta only [id]

theorem State.cmdRead_kept (errs : List FwdErr) {s : State} (hs : Kept b s) (c : FwdCmd) : Kept b (State.cmdRead errs s c).st := by
  unfold State.cmdRead
  repeat' first
    | with_reducible assumption
    | intro _
    | (extract_lets +onlyGivenNames x; refine (fun (hx : Kept b x) => ?_) ?_; (on_goal 1 => try clear_value x); (on_goal 2 => (dsimp only [x]; clear x)))
    | (extract_lets +onlyGivenNames x; refine (fun (hx : Kept b x.2) => ?_) ?_; (on_goal 1 => try clear_value x); (on_goal 2 => (dsimp only [x]; clear x)))
    | (extract_lets +onlyGivenNames x; refine (fun (hx : Kept b x.1) => ?_) ?_; (on_goal 1 => try clear_value x); (on_goal 2 => (dsimp only [x]; clear x)))
    | (extract_lets +onlyGivenNames x; first | clear_value x | (dsimp only [x]; clear x) | skip)
    | with_reducible apply State.bootErrs_kept
    | with_reducible apply found_kept
    | with_reducible apply State.fwdWorld_kept
    | with_reducible apply State.readBuckets_kept
    | split
    | dsimp -zeta only [id]

theorem execFwdCmdRead_kept (st : FwdStep) (tbl : ℕ) (tag : ℕ) {s : State} (hs : Kept b s) : KeptOut b (execFwdCmdRead st tbl tag s) := by
  unfold execFwdCmdRead
  repeat' first
    | with_reducible assumption
    | with_reducible refine KeptOut_next ?_
    | intro _
    | with_reducible apply State.fwdStep_kept
    | with_reducible apply State.cmdRead_kept
    | dsimp -zeta only [id]

theorem State.cmdWrite_kept (errs : List FwdErr) {s : State} (hs : Kept b s) (c : FwdCmd) : Kept b (State.cmdWrite errs s c).st := by
  unfold State.cmdWrite
  repeat' first
    | with_reducible assumption
    | intro _
    | (extract_lets +onlyGivenNames x; refine (fun (hx : Kept b x) => ?_) ?_; (on_goal 1 => try clear_value x); (on_goal 2 => (dsimp only [x]; clear x)))
    | (extract_lets +onlyGivenNames x; refine (fun (hx : Kept b x.2) => ?_) ?_; (on_goal 1 => try clear_value x); (on_goal 2 => (dsimp only [x]; clear x)))
    | (extract_lets +onlyGivenNames x; refine (fun (hx : Kept b x.1) => ?_) ?_; (on_goal 1 => try clear_value x); (on_goal 2 => (dsimp only [x]; clear x)))
    | (extract_lets +onlyGivenNames x; first | clear_value x | (dsimp only [x]; clear x) | skip)
    | with_reducible apply State.fwdWorld_kept
    | with_reducible apply State.replaceEntry_kept
    | with_reducible apply State.readBuckets_kept
    | with_reducible apply State.readHot_kept
    | with_reducible refine State.readHot_kept' ?_ _ _ ‹_›
    | with_reducible apply State.setFwdTab_kept
    | with_reducible apply State.pfxChange_kept
    | with_reducible apply State.dampFree_kept
    | with_reducible apply State.insertEntry_kept
    | with_reducible refine State.insertEntry_kept' ?_ _ _ ‹_›
    | split
    | (simp -zeta only [Kept_mk]; refine ⟨Kept.tabs ?_, ?_, ?_⟩)
    | with_reducible refine Kept.epochs ?_
    | with_reducible refine Kept.svns ?_
    | dsimp -zeta only [id]

theorem execFwdCmdWrite_kept (st : FwdStep) (tbl : ℕ) (tag : ℕ) {s : State} (hs : Kept b s) : KeptOut b (execFwdCmdWrite st tbl tag s) := by
  unfold execFwdCmdWrite
  repeat' first
    | with_reducible assumption
    | with_reducible refine KeptOut_next ?_
    | intro _
    | with_reducible apply State.fwdStep_kept
    | with_reducible apply State.cmdWrite_kept
    | dsimp -zeta only [id]

theorem State.cmdDelete_kept (errs : List FwdErr) {s : State} (hs : Kept b s) (c : FwdCmd) : Kept b (State.cmdDelete errs s c).st := by
  unfold State.cmdDelete
  repeat' first
    | with_reducible assumption
    | intro _
    | (extract_lets +onlyGivenNames x; refine (fun (hx : Kept b x) => ?_) ?_; (on_goal 1 => try clear_value x); (on_goal 2 => (dsimp only [x]; clear x)))
    | (extract_lets +onlyGivenNames x; refine (fun (hx : Kept b x.2) => ?_) ?_; (on_goal 1 => try clear_value x); (on_goal 2 => (dsimp only [x]; clear x)))
    | (extract_lets +onlyGivenNames x; refine (fun (hx : Kept b x.1) => ?_) ?_; (on_goal 1 => try clear_value x); (on_goal 2 => (dsimp only [x]; clear x)))
    | (extract_lets +onlyGivenNames x; first | clear_value x | (dsimp only [x]; clear x) | skip)
    | with_reducible apply State.fwdWorld_kept
    | with_reducible apply State.readBuckets_kept
    | with_reducible apply State.readHot_kept
    | with_reducible refine State.readHot_kept' ?_ _ _ ‹_›
    | with_reducible apply State.freeEntry_kept
    | split
    | (simp -zeta only [Kept_mk]; refine ⟨Kept.tabs ?_, ?_, ?_⟩)
    | with_reducible refine Kept.epochs ?_
    | with_reducible refine Kept.svns ?_
    | dsimp -zeta only [id]

theorem execFwdCmdDelete_kept (st : FwdStep) (tbl : ℕ) (tag : ℕ) {s : State} (hs : Kept b s) : KeptOut b (execFwdCmdDelete st tbl tag s) := by
  unfold execFwdCmdDelete
  repeat' first
    | with_reducible assumption
    | with_reducible refine KeptOut_next ?_
    | intro _
    | with_reducible apply State.fwdStep_kept
    | with_reducible apply State.cmdDelete_kept
    | dsimp -zeta only [id]

theorem State.cmdPrefix_kept (errs : List FwdErr) {s : State} (hs : Kept b s) (c : FwdCmd) : Kept b (State.cmdPrefix errs s c).st := by
  unfold State.cmdPrefix
  dsimp only
  have k := State.readFilter_kept hs (filterErr errs (c.key / 2 ^ 112)) (c.key / 2 ^ 112)
  revert k
  rcases s.readFilter (filterErr errs (c.key / 2 ^ 112)) (c.key / 2 ^ 112) with ⟨_ | _, t⟩ <;> intro k
  · exact k
  · dsimp only
    split
    · exact k
    · rename_i l ls _
      refine State.fwdWorld_kept k _ _ _ (fun u hu => ?_)
      have m := State.longest_kept hu errs c.key (l :: ls) 17
      revert m
      rcases u.longest errs c.key (l :: ls) 17 with ⟨_ | e, v⟩ <;> intro m
      · exact m
      · dsimp only
        split <;> exact m

theorem State.cmdLookup_kept (errs : List FwdErr) {s : State} (hs : Kept b s) (c : FwdCmd) : Kept b (State.cmdLookup errs s c).st := by
  unfold State.cmdLookup
  repeat' first
    | with_reducible assumption
    | intro _
    | (extract_lets +onlyGivenNames x; refine (fun (hx : Kept b x) => ?_) ?_; (on_goal 1 => try clear_value x); (on_goal 2 => (dsimp only [x]; clear x)))
    | (extract_lets +onlyGivenNames x; refine (fun (hx : Kept b x.2) => ?_) ?_; (on_goal 1 => try clear_value x); (on_goal 2 => (dsimp only [x]; clear x)))
    | (extract_lets +onlyGivenNames x; refine (fun (hx : Kept b x.1) => ?_) ?_; (on_goal 1 => try clear_value x); (on_goal 2 => (dsimp only [x]; clear x)))
    | (extract_lets +onlyGivenNames x; first | clear_value x | (dsimp only [x]; clear x) | skip)
    | with_reducible apply State.bootErrs_kept
    | with_reducible apply State.readHot_kept
    | with_reducible refine State.readHot_kept' ?_ _ _ ‹_›
    | with_reducible apply State.fwdWorld_kept
    | with_reducible apply State.cmdPrefix_kept
    | with_reducible apply State.findEntry_kept
    | with_reducible refine State.findEntry_kept' ?_ _ _ _ _ ‹_›
    | split
    | dsimp -zeta only [id]

theorem execFwdCmdLookup_kept (st : FwdStep) (tbl : Nat) (tag : Nat) {s : State} (hs : Kept b s) : KeptOut b (execFwdCmdLookup st tbl tag s) := by
  unfold execFwdCmdLookup
  repeat' first
    | with_reducible assumption
    | with_reducible refine KeptOut_next ?_
    | intro _
    | (extract_lets +onlyGivenNames x; refine (fun (hx : Kept b x) => ?_) ?_; (on_goal 1 => try clear_value x); (on_goal 2 => (dsimp only [x]; clear x)))
    | (extract_lets +onlyGivenNames x; refine (fun (hx : Kept b x.2) => ?_) ?_; (on_goal 1 => try clear_value x); (on_goal 2 => (dsimp only [x]; clear x)))
    | (extract_lets +onlyGivenNames x; refine (fun (hx : Kept b x.1) => ?_) ?_; (on_goal 1 => try clear_value x); (on_goal 2 => (dsimp only [x]; clear x)))
    | (extract_lets +onlyGivenNames x; refine (fun (hx : ∀ u, Kept b u → Kept b (x u)) => ?_) ?_; (on_goal 1 => try clear_value x); (on_goal 2 => (dsimp only [x]; clear x)))
    | (extract_lets +onlyGivenNames x; refine (fun (hx : ∀ u y0, Kept b u → Kept b (x u y0)) => ?_) ?_; (on_goal 1 => try clear_value x); (on_goal 2 => (dsimp only [x]; clear x)))
    | (extract_lets +onlyGivenNames x; refine (fun (hx : ∀ u y0 y1, Kept b u → Kept b (x u y0 y1)) => ?_) ?_; (on_goal 1 => try clear_value x); (on_goal 2 => (dsimp only [x]; clear x)))
    | (extract_lets +onlyGivenNames x; refine (fun (hx : ∀ u y0 y1 y2, Kept b u → Kept b (x u y0 y1 y2)) => ?_) ?_; (on_goal 1 => try clear_value x); (on_goal 2 => (dsimp only [x]; clear x)))
    | (extract_lets +onlyGivenNames x; refine (fun (hx : ∀ u, Kept b u → Kept b (x u).2) => ?_) ?_; (on_goal 1 => try clear_value x); (on_goal 2 => (dsimp only [x]; clear x)))
    | (extract_lets +onlyGivenNames x; refine (fun (hx : ∀ u y0, Kept b u → Kept b (x u y0).2) => ?_) ?_; (on_goal 1 => try clear_value x); (on_goal 2 => (dsimp only [x]; clear x)))
    | (extract_lets +onlyGivenNames x; refine (fun (hx : ∀ u y0 y1, Kept b u → Kept b (x u y0 y1).2) => ?_) ?_; (on_goal 1 => try clear_value x); (on_goal 2 => (dsimp only [x]; clear x)))
    | (extract_lets +onlyGivenNames x; refine (fun (hx : ∀ y, Kept b (x y)) => ?_) ?_; (on_goal 1 => try clear_value x); (on_goal 2 => (dsimp only [x]; clear x)))
    | (extract_lets +onlyGivenNames x; first | clear_value x | (dsimp only [x]; clear x) | skip)
    | with_reducible apply State.fwdWrite_kept
    | with_reducible apply State.fwdPriv_kept
    | with_reducible apply State.fwdRun_kept
    | with_reducible apply State.fwdPrivOther_kept
    | with_reducible apply State.cmdLookup_kept
    | split
    | (simp -zeta only [Kept_mk]; refine ⟨Kept.tabs ?_, ?_, ?_⟩)
    | with_reducible refine Kept.epochs ?_
    | with_reducible refine Kept.svns ?_
    | with_reducible apply_assumption
    | dsimp -zeta only [id]

theorem State.cmdUnpin_kept (errs : List FwdErr) {s : State} (hs : Kept b s) (c : FwdCmd) : Kept b (State.cmdUnpin errs s c).st := by
  unfold State.cmdUnpin
  repeat' first
    | with_reducible assumption
    | intro _
    | (extract_lets +onlyGivenNames x; refine (fun (hx : Kept b x) => ?_) ?_; (on_goal 1 => try clear_value x); (on_goal 2 => (dsimp only [x]; clear x)))
    | (extract_lets +onlyGivenNames x; refine (fun (hx : Kept b x.2) => ?_) ?_; (on_goal 1 => try clear_value x); (on_goal 2 => (dsimp only [x]; clear x)))
    | (extract_lets +onlyGivenNames x; refine (fun (hx : Kept b x.1) => ?_) ?_; (on_goal 1 => try clear_value x); (on_goal 2 => (dsimp only [x]; clear x)))
    | (extract_lets +onlyGivenNames x; first | clear_value x | (dsimp only [x]; clear x) | skip)
    | with_reducible apply State.fwdWorld_kept
    | with_reducible apply State.readBuckets_kept
    | with_reducible apply State.dampFree_kept
    | with_reducible apply State.unpinEntry_kept
    | split
    | dsimp -zeta only [id]

theorem execFwdCmdUnpin_kept (st : FwdStep) (tbl : ℕ) (tag : ℕ) {s : State} (hs : Kept b s) : KeptOut b (execFwdCmdUnpin st tbl tag s) := by
  unfold execFwdCmdUnpin
  repeat' first
    | with_reducible assumption
    | with_reducible refine KeptOut_next ?_
    | intro _
    | with_reducible apply State.fwdStep_kept
    | with_reducible apply State.cmdUnpin_kept
    | dsimp -zeta only [id]

theorem State.cmdWalk_kept (errs : List FwdErr) {s : State} (hs : Kept b s) (c : FwdCmd) : Kept b (State.cmdWalk errs s c).st := by
  unfold State.cmdWalk
  repeat' first
    | with_reducible assumption
    | intro _
    | (extract_lets +onlyGivenNames x; refine (fun (hx : Kept b x) => ?_) ?_; (on_goal 1 => try clear_value x); (on_goal 2 => (dsimp only [x]; clear x)))
    | (extract_lets +onlyGivenNames x; refine (fun (hx : Kept b (FwdEnd.st x)) => ?_) ?_; (on_goal 1 => try clear_value x); (on_goal 2 => (dsimp only [x]; clear x)))
    | (extract_lets +onlyGivenNames x; refine (fun (hx : Kept b x.2) => ?_) ?_; (on_goal 1 => try clear_value x); (on_goal 2 => (dsimp only [x]; clear x)))
    | (extract_lets +onlyGivenNames x; refine (fun (hx : Kept b x.1) => ?_) ?_; (on_goal 1 => try clear_value x); (on_goal 2 => (dsimp only [x]; clear x)))
    | (extract_lets +onlyGivenNames x; first | clear_value x | (dsimp only [x]; clear x) | skip)
    | with_reducible apply State.fwdWorld_kept
    | with_reducible apply State.readBucket_kept
    | with_reducible refine State.readBucket_kept' ?_ _ _ _ ‹_›
    | with_reducible refine Kept_foldl ?_ ?_
    | with_reducible refine Kept_foldl2 ?_ ?_
    | with_reducible refine Kept_foldl1 ?_ ?_
    | split
    | dsimp -zeta only [id]

theorem execFwdCmdWalk_kept (st : FwdStep) (tbl : ℕ) (tag : ℕ) {s : State} (hs : Kept b s) : KeptOut b (execFwdCmdWalk st tbl tag s) := by
  unfold execFwdCmdWalk
  repeat' first
    | with_reducible assumption
    | with_reducible refine KeptOut_next ?_
    | intro _
    | with_reducible apply State.fwdStep_kept
    | with_reducible apply State.cmdWalk_kept
    | dsimp -zeta only [id]

theorem State.cmdFlush_kept (_errs : List FwdErr) {s : State} (hs : Kept b s) (c : FwdCmd) : Kept b (State.cmdFlush _errs s c).st := by
  unfold State.cmdFlush
  repeat' first
    | with_reducible assumption
    | intro _
    | (extract_lets +onlyGivenNames x; refine (fun (hx : Kept b x) => ?_) ?_; (on_goal 1 => try clear_value x); (on_goal 2 => (dsimp only [x]; clear x)))
    | (extract_lets +onlyGivenNames x; first | clear_value x | (dsimp only [x]; clear x) | skip)
    | with_reducible apply State.fwdWorld_kept
    | split
    | (simp -zeta only [Kept_mk]; refine ⟨Kept.tabs ?_, ?_, ?_⟩)
    | with_reducible refine Kept.epochs ?_
    | with_reducible refine Kept.svns ?_
    | dsimp -zeta only [id]

theorem State.flushVisit_kept {s : State} (hs : Kept b s) (n : Nat) (errs : List FwdErr) : Kept b (State.flushVisit s n errs) := by
  unfold State.flushVisit
  split
  · exact hs
  · rename_i et dest bk _
    dsimp only
    refine Kept_mk.2 (State.eachHot_kept (fun u x hu => State.freeEntry_kept hu _ _ _) _ _ ?_)
    refine Kept_foldl ?_ hs
    intro u x hu
    split
    · split
      · exact State.readBucket_kept hu _ _ _
      · exact hu
    · exact hu

theorem execFlushVisitComplete_kept (t : Time) (errs : List FwdErr) {s : State} (hs : Kept b s) : KeptOut b (execFlushVisitComplete t errs s) := by
  unfold execFlushVisitComplete
  repeat' first
    | with_reducible assumption
    | with_reducible refine KeptOut_next ?_
    | intro _
    | (extract_lets +onlyGivenNames x; refine (fun (hx : Kept b x) => ?_) ?_; (on_goal 1 => try clear_value x); (on_goal 2 => (dsimp only [x]; clear x)))
    | (extract_lets +onlyGivenNames x; first | clear_value x | (dsimp only [x]; clear x) | skip)
    | with_reducible apply State.flushVisit_kept
    | with_reducible apply State.at_kept
    | with_reducible apply State.fire_kept
    | split
    | (simp -zeta only [Kept_mk]; refine ⟨Kept.tabs ?_, ?_, ?_⟩)
    | with_reducible refine Kept.epochs ?_
    | with_reducible refine Kept.svns ?_
    | dsimp -zeta only [id]

theorem execFwdCmdFlush_kept (st : FwdStep) (tbl : ℕ) (tag : ℕ) {s : State} (hs : Kept b s) : KeptOut b (execFwdCmdFlush st tbl tag s) := by
  unfold execFwdCmdFlush
  repeat' first
    | with_reducible assumption
    | with_reducible refine KeptOut_next ?_
    | intro _
    | with_reducible apply State.flushVisit_kept
    | with_reducible apply State.at_kept
    | with_reducible apply State.fwdStep_kept
    | with_reducible apply State.cmdFlush_kept
    | split
    | dsimp -zeta only [id]

end Sys2Proof.Machine
end

