-- ==== Sys2Proof/Laws/KeptTst.lean ====
section
/-! SUPPORT. What the operations of Machine/Tst.lean keep: queue, canonical tables, fuses. -/

set_option linter.unusedTactic false
set_option linter.unreachableTactic false
set_option linter.unusedVariables false
set_option linter.tactic.unusedName false

namespace Sys2Proof.Machine

variable {b : Base}

/-! ### Tst -/

theorem State.testResult_kept {s : State} (hs : Kept b s) (outcome : ℕ) (tag : ℕ) (lfail : Bool) (bad : List ℕ) : Kept b (State.testResult s outcome tag lfail bad) := by
  unfold State.testResult
  repeat' first
    | with_reducible assumption
    | with_reducible apply State.setReg_kept
    | dsimp -zeta only [id]

theorem State.testStart_kept {s : State} (hs : Kept b s) (t : Time) (v : Word) : Kept b (State.testStart s t v) := by
  unfold State.testStart
  repeat' first
    | with_reducible assumption
    | intro _
    | (extract_lets +onlyGivenNames x; refine (fun (hx : Kept b x) => ?_) ?_; (on_goal 1 => try clear_value x); (on_goal 2 => (dsimp only [x]; clear x)))
    | (extract_lets +onlyGivenNames x; refine (fun (hx : b.epoch ≤ (x : Kvt).fuses) => ?_) ?_; (on_goal 1 => try clear_value x); (on_goal 2 => (dsimp only [x]; clear x)))
    | (extract_lets +onlyGivenNames x; first | clear_value x | (dsimp only [x]; clear x) | skip)
    | with_reducible apply State.drainUnit_kept
    | with_reducible apply State.setDom_kept
    | with_reducible apply State.kvtTo_kept
    | with_reducible apply State.bump_kept
    | with_reducible apply State.setReg_kept
    | split
    | (simp -zeta only [Kept_mk]; refine ⟨Kept.tabs ?_, ?_, ?_⟩)
    | with_reducible refine Kept.epochs ?_
    | with_reducible refine Kept.svns ?_
    | dsimp -zeta only [id]

theorem execTstStart_kept (t : Time) (rq : Req) (v : Sys2Proof.Word) {s : State} (hs : Kept b s) : KeptOut b (execTstStart t rq v s) := by
  unfold execTstStart
  repeat' first
    | with_reducible assumption
    | with_reducible refine KeptOut_next ?_
    | intro _
    | with_reducible apply State.gated_kept
    | with_reducible apply State.at_kept
    | with_reducible apply State.fire_kept
    | with_reducible apply State.bump_kept
    | with_reducible apply State.testResult_kept
    | with_reducible apply State.testStart_kept
    | split
    | dsimp -zeta only [id]

theorem State.testReturn_kept {s : State} (hs : Kept b s) (t : Time) (r : TestRun) : Kept b (State.testReturn s t r) := by
  unfold State.testReturn
  repeat' first
    | with_reducible assumption
    | intro _
    | (extract_lets +onlyGivenNames x; refine (fun (hx : Kept b x) => ?_) ?_; (on_goal 1 => try clear_value x); (on_goal 2 => (dsimp only [x]; clear x)))
    | (extract_lets +onlyGivenNames x; refine (fun (hx : Kept b x.2) => ?_) ?_; (on_goal 1 => try clear_value x); (on_goal 2 => (dsimp only [x]; clear x)))
    | (extract_lets +onlyGivenNames x; refine (fun (hx : Kept b x.1) => ?_) ?_; (on_goal 1 => try clear_value x); (on_goal 2 => (dsimp only [x]; clear x)))
    | (extract_lets +onlyGivenNames x; first | clear_value x | (dsimp only [x]; clear x) | skip)
    | with_reducible apply State.recoverBank_kept
    | with_reducible apply State.unitClear_kept
    | with_reducible apply State.setDom_kept
    | with_reducible apply State.secStart_kept
    | with_reducible apply State.unitOn_kept
    | with_reducible apply State.bump_kept
    | with_reducible apply State.fire_kept
    | with_reducible apply State.unlatch_kept
    | with_reducible refine Kept_foldl ?_ ?_
    | with_reducible refine Kept_foldl2 ?_ ?_
    | with_reducible refine Kept_foldl1 ?_ ?_
    | split
    | (simp -zeta only [Kept_mk]; refine ⟨Kept.tabs ?_, ?_, ?_⟩)
    | with_reducible refine Kept.epochs ?_
    | with_reducible refine Kept.svns ?_
    | dsimp -zeta only [id]

theorem State.testIdle_kept {s : State} (hs : Kept b s) : Kept b (State.testIdle s) := by
  unfold State.testIdle
  repeat' first
    | with_reducible assumption
    | (extract_lets +onlyGivenNames x; refine (fun (hx : Kept b x) => ?_) ?_; (on_goal 1 => try clear_value x); (on_goal 2 => (dsimp only [x]; clear x)))
    | (extract_lets +onlyGivenNames x; first | clear_value x | (dsimp only [x]; clear x) | skip)
    | with_reducible apply State.setReg_kept
    | (simp -zeta only [Kept_mk]; refine ⟨Kept.tabs ?_, ?_, ?_⟩)
    | with_reducible refine Kept.epochs ?_
    | with_reducible refine Kept.svns ?_
    | dsimp -zeta only [id]

theorem execTstPhaseDone_kept (t : Time) (res : PhaseRes) {s : State} (hs : Kept b s) : KeptOut b (execTstPhaseDone t res s) := by
  unfold execTstPhaseDone
  dsimp only
  refine KeptOut_next ?_
  have h0 := State.at_kept hs t
  revert h0
  generalize s.at t = s0
  intro h0
  have hb : ∀ (d : Nat) (l : List Nat) (u : State), Kept b u →
      Kept b (l.foldl (fun (u : State) c => (u.bankFail d c).recoverBank c) u) := by
    intro d l
    induction l with
    | nil => intro u hu; exact hu
    | cons c l ih => intro u hu; exact ih _ (State.recoverBank_kept (State.bankFail_kept hu _ _) _)
  split
  · exact h0
  · split
    · split
      · exact h0
      · split
        · exact State.becomeStart_kept (hb _ _ _ h0)
        · exact State.setFld_kept (hb _ _ _ h0) _ _
    · split
      · exact State.setFld_kept h0 _ _
      · split
        · refine State.setFld_kept ?_ _ _
          have k := State.setReg_kept h0 Reg.TST_SIG (BitVec.ofNat 32 (res.sig % 2 ^ 32))
          exact ⟨k.tabs, k.epochs, k.svns⟩
        · split
          · exact State.setFld_kept (s := { s0 with tst := _ }) ⟨h0.tabs, h0.epochs, h0.svns⟩ _ _
          · split
            · exact State.becomeStart_kept h0
            · exact State.fireIf_kept (State.fire_kept (State.bump_kept
                (State.testResult_kept (State.testIdle_kept (State.testReturn_kept h0 _ _)) _ _ _ _) _) _) _ _

theorem State.testAbort_kept {s : State} (hs : Kept b s) : Kept b (State.testAbort s) := by
  unfold State.testAbort
  repeat' first
    | with_reducible assumption
    | intro _
    | (extract_lets +onlyGivenNames x; refine (fun (hx : Kept b x) => ?_) ?_; (on_goal 1 => try clear_value x); (on_goal 2 => (dsimp only [x]; clear x)))
    | (extract_lets +onlyGivenNames x; first | clear_value x | (dsimp only [x]; clear x) | skip)
    | with_reducible apply State.unitClear_kept
    | with_reducible apply State.setDom_kept
    | with_reducible apply State.secStart_kept
    | with_reducible apply State.unitOn_kept
    | with_reducible apply State.testIdle_kept
    | with_reducible apply State.testResult_kept
    | with_reducible apply State.fire_kept
    | split
    | (simp -zeta only [Kept_mk]; refine ⟨Kept.tabs ?_, ?_, ?_⟩)
    | with_reducible refine Kept.epochs ?_
    | with_reducible refine Kept.svns ?_
    | dsimp -zeta only [id]

theorem execTapInstructionLoad_kept (i : TapInstr) {s : State} (hs : Kept b s) : KeptOut b (execTapInstructionLoad i s) := by
  unfold execTapInstructionLoad
  repeat' first
    | with_reducible assumption
    | with_reducible refine KeptOut_next ?_
    | (extract_lets +onlyGivenNames x; refine (fun (hx : Kept b x) => ?_) ?_; (on_goal 1 => try clear_value x); (on_goal 2 => (dsimp only [x]; clear x)))
    | (extract_lets +onlyGivenNames x; first | clear_value x | (dsimp only [x]; clear x) | skip)
    | with_reducible apply State.fire_kept
    | with_reducible apply State.bump_kept
    | split
    | (simp -zeta only [Kept_mk]; refine ⟨Kept.tabs ?_, ?_, ?_⟩)
    | with_reducible refine Kept.epochs ?_
    | with_reducible refine Kept.svns ?_
    | dsimp -zeta only [id]

theorem execTapReset_kept {s : State} (hs : Kept b s) : KeptOut b (execTapReset s) := by
  unfold execTapReset
  repeat' first
    | with_reducible assumption
    | with_reducible refine KeptOut_next ?_
    | (extract_lets +onlyGivenNames x; refine (fun (hx : Kept b x) => ?_) ?_; (on_goal 1 => try clear_value x); (on_goal 2 => (dsimp only [x]; clear x)))
    | (extract_lets +onlyGivenNames x; first | clear_value x | (dsimp only [x]; clear x) | skip)
    | (simp -zeta only [Kept_mk]; refine ⟨Kept.tabs ?_, ?_, ?_⟩)
    | with_reducible refine Kept.epochs ?_
    | with_reducible refine Kept.svns ?_
    | dsimp -zeta only [id]

theorem execTempSample_kept (temp : ℤ) {s : State} (hs : Kept b s) : KeptOut b (execTempSample temp s) := by
  unfold execTempSample
  repeat' first
    | with_reducible assumption
    | with_reducible refine KeptOut_next ?_
    | (extract_lets +onlyGivenNames x; refine (fun (hx : Kept b x) => ?_) ?_; (on_goal 1 => try clear_value x); (on_goal 2 => (dsimp only [x]; clear x)))
    | (extract_lets +onlyGivenNames x; first | clear_value x | (dsimp only [x]; clear x) | skip)
    | with_reducible apply State.setFlag_kept
    | with_reducible apply State.setFld_kept
    | split
    | dsimp -zeta only [id]

end Sys2Proof.Machine
end

