-- ==== Sys2Proof/Laws/KeptXspi.lean ====
section
/-! SUPPORT. What the operations of Machine/Xspi.lean keep: queue, canonical tables, fuses. -/

set_option linter.unusedTactic false
set_option linter.unreachableTactic false
set_option linter.unusedVariables false
set_option linter.tactic.unusedName false

namespace Sys2Proof.Machine

variable {b : Base}

/-! ### Xspi -/

theorem State.xspiCmd_kept {s : State} (hs : Kept b s) (rq : Req) (op : ℕ) : Kept b (State.xspiCmd s rq op) := by
  unfold State.xspiCmd
  repeat' first
    | with_reducible assumption
    | intro _
    | (extract_lets +onlyGivenNames x; refine (fun (hx : Kept b x) => ?_) ?_; (on_goal 1 => try clear_value x); (on_goal 2 => (dsimp only [x]; clear x)))
    | (extract_lets +onlyGivenNames x; first | clear_value x | (dsimp only [x]; clear x) | skip)
    | with_reducible apply State.gated_kept
    | with_reducible apply State.fire_kept
    | with_reducible apply State.setFld_kept
    | with_reducible apply State.setFlag_kept
    | split
    | (simp -zeta only [Kept_mk]; refine ⟨Kept.tabs ?_, ?_, ?_⟩)
    | with_reducible refine Kept.epochs ?_
    | with_reducible refine Kept.svns ?_
    | dsimp -zeta only [id]

theorem execXspiRead_kept (rq : Req) {s : State} (hs : Kept b s) : KeptOut b (execXspiRead rq s) := by
  unfold execXspiRead
  repeat' first
    | with_reducible assumption
    | with_reducible refine KeptOut_next ?_
    | with_reducible apply State.xspiCmd_kept
    | dsimp -zeta only [id]

theorem execXspiErase_kept (rq : Req) {s : State} (hs : Kept b s) : KeptOut b (execXspiErase rq s) := by
  unfold execXspiErase
  repeat' first
    | with_reducible assumption
    | with_reducible refine KeptOut_next ?_
    | with_reducible apply State.xspiCmd_kept
    | dsimp -zeta only [id]

theorem execXspiProgram_kept (rq : Req) {s : State} (hs : Kept b s) : KeptOut b (execXspiProgram rq s) := by
  unfold execXspiProgram
  repeat' first
    | with_reducible assumption
    | with_reducible refine KeptOut_next ?_
    | with_reducible apply State.xspiCmd_kept
    | dsimp -zeta only [id]

theorem State.xspiEffect_kept {s : State} (hs : Kept b s) (op : Nat) (addr : Nat) : Kept b (State.xspiEffect s op addr) := by
  unfold State.xspiEffect
  repeat' first
    | with_reducible assumption
    | intro _
    | (extract_lets +onlyGivenNames x; refine (fun (hx : Kept b x) => ?_) ?_; (on_goal 1 => try clear_value x); (on_goal 2 => (dsimp only [x]; clear x)))
    | (extract_lets +onlyGivenNames x; first | clear_value x | (dsimp only [x]; clear x) | skip)
    | with_reducible apply State.setRegs_kept
    | with_reducible apply State.flashErase_kept
    | with_reducible apply State.flashWrite_kept
    | split
    | (simp -zeta only [Kept_mk]; refine ⟨Kept.tabs ?_, ?_, ?_⟩)
    | with_reducible refine Kept.epochs ?_
    | with_reducible refine Kept.svns ?_
    | dsimp -zeta only [id]

theorem execJournalCommit_kept {s : State} (hs : Kept b s) : KeptOut b (execJournalCommit s) := by
  unfold execJournalCommit
  repeat' first
    | with_reducible assumption
    | with_reducible refine KeptOut_next ?_
    | intro _
    | (extract_lets +onlyGivenNames x; refine (fun (hx : Kept b x) => ?_) ?_; (on_goal 1 => try clear_value x); (on_goal 2 => (dsimp only [x]; clear x)))
    | (extract_lets +onlyGivenNames x; refine (fun (hx : b.epoch ≤ (x : Kvt).fuses) => ?_) ?_; (on_goal 1 => try clear_value x); (on_goal 2 => (dsimp only [x]; clear x)))
    | (extract_lets +onlyGivenNames x; first | clear_value x | (dsimp only [x]; clear x) | skip)
    | with_reducible apply State.journalApply_kept
    | with_reducible apply State.journalStart_kept
    | with_reducible apply State.updResume_kept
    | split
    | (simp -zeta only [Kept_mk]; refine ⟨Kept.tabs ?_, ?_, ?_⟩)
    | with_reducible refine Kept.epochs ?_
    | with_reducible refine Kept.svns ?_
    | dsimp -zeta only [id]

theorem execXspiComplete_kept (ok : Bool) {s : State} (hs : Kept b s) : KeptOut b (execXspiComplete ok s) := by
  unfold execXspiComplete
  repeat' first
    | with_reducible assumption
    | with_reducible refine KeptOut_next ?_
    | intro _
    | (extract_lets +onlyGivenNames x; refine (fun (hx : Kept b x) => ?_) ?_; (on_goal 1 => try clear_value x); (on_goal 2 => (dsimp only [x]; clear x)))
    | (extract_lets +onlyGivenNames x; first | clear_value x | (dsimp only [x]; clear x) | skip)
    | with_reducible apply State.journalWriteFails_kept
    | with_reducible apply State.updResume_kept
    | with_reducible apply State.setFlag_kept
    | with_reducible apply State.xspiEffect_kept
    | with_reducible apply State.setFld_kept
    | with_reducible apply State.fire_kept
    | with_reducible apply State.journalStart_kept
    | split
    | (simp -zeta only [Kept_mk]; refine ⟨Kept.tabs ?_, ?_, ?_⟩)
    | with_reducible refine Kept.epochs ?_
    | with_reducible refine Kept.svns ?_
    | dsimp -zeta only [id]

end Sys2Proof.Machine
end

