-- ==== Sys2Proof/Laws/KeptView.lean ====
section
/-! SUPPORT. What the operations of Machine/View.lean keep: queue, canonical tables, fuses. -/

set_option linter.unusedTactic false
set_option linter.unreachableTactic false
set_option linter.unusedVariables false
set_option linter.tactic.unusedName false

namespace Sys2Proof.Machine

variable {b : Base}

/-! ### View -/


end Sys2Proof.Machine
end

