-- ==== Sys2Proof/Laws/KeptBus.lean ====
section
/-! SUPPORT. What the operations of Machine/Bus.lean keep: queue, canonical tables, fuses. -/

set_option linter.unusedTactic false
set_option linter.unreachableTactic false
set_option linter.unusedVariables false
set_option linter.tactic.unusedName false

namespace Sys2Proof.Machine

variable {b : Base}

/-! ### Bus -/

theorem State.writeWord_kept {s : State} (hs : Kept b s) (rq : Req) (a : Nat) (v : Word) : Kept b (State.writeWord s rq a v) := by
  unfold State.writeWord
  repeat' first
    | with_reducible assumption
    | intro _
    | (extract_lets +onlyGivenNames x; refine (fun (hx : Kept b x) => ?_) ?_; (on_goal 1 => try clear_value x); (on_goal 2 => (dsimp only [x]; clear x)))
    | (extract_lets +onlyGivenNames x; first | clear_value x | (dsimp only [x]; clear x) | skip)
    | with_reducible apply State.recordFault_kept
    | with_reducible apply State.applyWrite_kept
    | with_reducible apply State.applyAlias_kept
    | split
    | (simp -zeta only [Kept_mk]; refine ⟨Kept.tabs ?_, ?_, ?_⟩)
    | with_reducible refine Kept.epochs ?_
    | with_reducible refine Kept.svns ?_
    | dsimp -zeta only [id]

theorem State.after_kept {s : State} {o : Host.Outcome State Fault Refusal} (ho : KeptOut b o) (hs : Kept b s) :
    Kept b (State.after s o) := by
  obtain ⟨t, rfl, h⟩ := ho
  exact h

theorem State.wmAll_kept {s : State} (hs : Kept b s) : Kept b (State.wmAll s) := by
  unfold State.wmAll
  repeat' first
    | with_reducible assumption
    | intro _
    | with_reducible apply State.qmgSettle_kept
    | with_reducible apply State.wmEval_kept
    | with_reducible refine Kept_foldl ?_ ?_
    | with_reducible refine Kept_foldl2 ?_ ?_
    | with_reducible refine Kept_foldl1 ?_ ?_
    | dsimp -zeta only [id]

theorem State.afterNet_kept {s : State} (hs : Kept b s) (old : State) (p : Nat) : Kept b (State.afterNet s old p) := by
  unfold State.afterNet
  repeat' first
    | with_reducible assumption
    | intro _
    | (extract_lets +onlyGivenNames x; refine (fun (hx : Kept b x) => ?_) ?_; (on_goal 1 => try clear_value x); (on_goal 2 => (dsimp only [x]; clear x)))
    | (extract_lets +onlyGivenNames x; first | clear_value x | (dsimp only [x]; clear x) | skip)
    | with_reducible apply State.wmAll_kept
    | with_reducible apply State.fireIf_kept
    | with_reducible apply State.portEnable_kept
    | split
    | (simp -zeta only [Kept_mk]; refine ⟨Kept.tabs ?_, ?_, ?_⟩)
    | with_reducible refine Kept.epochs ?_
    | with_reducible refine Kept.svns ?_
    | dsimp -zeta only [id]

theorem State.afterWrite_kept {s : State} (hs : Kept b s) (old : State) (p : Nat) : Kept b (State.afterWrite s old p) := by
  unfold State.afterWrite
  repeat' first
    | with_reducible assumption
    | intro _
    | (extract_lets +onlyGivenNames x; refine (fun (hx : Kept b x) => ?_) ?_; (on_goal 1 => try clear_value x); (on_goal 2 => (dsimp only [x]; clear x)))
    | (extract_lets +onlyGivenNames x; first | clear_value x | (dsimp only [x]; clear x) | skip)
    | with_reducible apply State.drive_kept
    | with_reducible apply State.setFlag_kept
    | with_reducible apply State.slewTo_kept
    | with_reducible apply State.afterNet_kept
    | split
    | (simp -zeta only [Kept_mk]; refine ⟨Kept.tabs ?_, ?_, ?_⟩)
    | with_reducible refine Kept.epochs ?_
    | with_reducible refine Kept.svns ?_
    | dsimp -zeta only [id]

theorem State.plainWrite_kept {s : State} (hs : Kept b s) (rq : Req) (a : ℕ) (v : Sys2Proof.Word) : Kept b (State.plainWrite s rq a v) := by
  unfold State.plainWrite
  repeat' first
    | with_reducible assumption
    | intro _
    | (extract_lets +onlyGivenNames x; refine (fun (hx : Kept b x) => ?_) ?_; (on_goal 1 => try clear_value x); (on_goal 2 => (dsimp only [x]; clear x)))
    | (extract_lets +onlyGivenNames x; first | clear_value x | (dsimp only [x]; clear x) | skip)
    | with_reducible apply State.writeWord_kept
    | with_reducible apply State.afterWrite_kept
    | split
    | dsimp -zeta only [id]

theorem State.commitWrite_kept {s : State} (hs : Kept b s) (rq : Req) (ux : ℕ) (v : Sys2Proof.Word) : Kept b (State.commitWrite s rq ux v) := by
  unfold State.commitWrite
  repeat' first
    | with_reducible assumption
    | intro _
    | (extract_lets +onlyGivenNames x; refine (fun (hx : Kept b x) => ?_) ?_; (on_goal 1 => try clear_value x); (on_goal 2 => (dsimp only [x]; clear x)))
    | (extract_lets +onlyGivenNames x; first | clear_value x | (dsimp only [x]; clear x) | skip)
    | with_reducible apply State.after_kept
    | with_reducible apply execCommitAbort_kept
    | with_reducible apply execCommitGo_kept
    | with_reducible apply State.plainWrite_kept
    | split
    | dsimp -zeta only [id]

theorem State.pulseWrite_kept {s : State} (hs : Kept b s) (rq : Req) (n : ℕ) (view : ℕ) (v : Sys2Proof.Word) : Kept b (State.pulseWrite s rq n view v) := by
  unfold State.pulseWrite
  repeat' first
    | with_reducible assumption
    | intro _
    | (extract_lets +onlyGivenNames x; refine (fun (hx : Kept b x) => ?_) ?_; (on_goal 1 => try clear_value x); (on_goal 2 => (dsimp only [x]; clear x)))
    | (extract_lets +onlyGivenNames x; first | clear_value x | (dsimp only [x]; clear x) | skip)
    | with_reducible apply State.after_kept
    | with_reducible apply execPulseArm_kept
    | with_reducible apply State.plainWrite_kept
    | with_reducible apply State.setPulse_kept
    | split
    | (simp -zeta only [Kept_mk]; refine ⟨Kept.tabs ?_, ?_, ?_⟩)
    | with_reducible refine Kept.epochs ?_
    | with_reducible refine Kept.svns ?_
    | dsimp -zeta only [id]

theorem State.writeGtb_kept {s : State} (hs : Kept b s) (rq : Req) (p : ℕ) (v : Sys2Proof.Word) : Kept b (State.writeGtb s rq p v) := by
  unfold State.writeGtb
  repeat' first
    | with_reducible assumption
    | intro _
    | with_reducible apply State.after_kept
    | with_reducible apply execUtcLoad_kept
    | with_reducible apply State.cmpWrite_kept
    | with_reducible apply State.pulseWrite_kept
    | with_reducible apply State.plainWrite_kept
    | split
    | dsimp -zeta only [id]

theorem State.writeChip_kept {s : State} (hs : Kept b s) (rq : Req) (p : ℕ) (v : Sys2Proof.Word) {snap : State → State} (hsnap : ∀ u, Kept b u → Kept b (snap u)) : Kept b (State.writeChip s rq p v snap) := by
  unfold State.writeChip
  repeat' first
    | with_reducible assumption
    | intro _
    | with_reducible apply State.after_kept
    | with_reducible apply execSoftwareReset_kept
    | with_reducible apply execRetrain_kept
    | with_reducible apply State.plainWrite_kept
    | with_reducible apply hsnap
    | split
    | dsimp -zeta only [id]

theorem State.writePwr_kept {s : State} (hs : Kept b s) (rq : Req) (p : Nat) (v : Word) : Kept b (State.writePwr s rq p v) := by
  unfold State.writePwr
  repeat' first
    | with_reducible assumption
    | intro _
    | (extract_lets +onlyGivenNames x; refine (fun (hx : Kept b x) => ?_) ?_; (on_goal 1 => try clear_value x); (on_goal 2 => (dsimp only [x]; clear x)))
    | (extract_lets +onlyGivenNames x; first | clear_value x | (dsimp only [x]; clear x) | skip)
    | with_reducible apply State.after_kept
    | with_reducible apply execPwrDomreqWrite_kept
    | with_reducible apply State.modeCmd_kept
    | with_reducible apply State.clkselReq_kept
    | with_reducible apply State.plainWrite_kept
    | split
    | (simp -zeta only [Kept_mk]; refine ⟨Kept.tabs ?_, ?_, ?_⟩)
    | with_reducible refine Kept.epochs ?_
    | with_reducible refine Kept.svns ?_
    | dsimp -zeta only [id]

theorem State.nbWrite_kept {s : State} (hs : Kept b s) (rq : Req) (v : Sys2Proof.Word) : Kept b (State.nbWrite s rq v) := by
  unfold State.nbWrite
  repeat' first
    | with_reducible assumption
    | intro _
    | (extract_lets +onlyGivenNames x; refine (fun (hx : Kept b x) => ?_) ?_; (on_goal 1 => try clear_value x); (on_goal 2 => (dsimp only [x]; clear x)))
    | (extract_lets +onlyGivenNames x; first | clear_value x | (dsimp only [x]; clear x) | skip)
    | with_reducible apply State.after_kept
    | with_reducible apply execNbcmdRead_kept
    | with_reducible apply execNbcmdWrite_kept
    | with_reducible apply execNbcmdFree_kept
    | with_reducible apply State.gated_kept
    | with_reducible apply State.nbDone_kept
    | split
    | dsimp -zeta only [id]

theorem State.qcmdWrite_kept {s : State} (hs : Kept b s) (rq : Req) (v : Sys2Proof.Word) : Kept b (State.qcmdWrite s rq v) := by
  unfold State.qcmdWrite
  repeat' first
    | with_reducible assumption
    | intro _
    | (extract_lets +onlyGivenNames x; refine (fun (hx : Kept b x) => ?_) ?_; (on_goal 1 => try clear_value x); (on_goal 2 => (dsimp only [x]; clear x)))
    | (extract_lets +onlyGivenNames x; first | clear_value x | (dsimp only [x]; clear x) | skip)
    | with_reducible apply State.after_kept
    | with_reducible apply execQcmdRead_kept
    | with_reducible apply execQcmdWrite_kept
    | with_reducible apply execQcmdFlush_kept
    | with_reducible apply execQcmdDroprest_kept
    | with_reducible apply execQcmdClass_kept
    | with_reducible apply State.qcmd_kept
    | with_reducible apply State.qcmdDone_kept
    | split
    | dsimp -zeta only [id]

theorem State.pktWrite_kept {s : State} (hs : Kept b s) (rq : Req) (v : Sys2Proof.Word) : Kept b (State.pktWrite s rq v) := by
  unfold State.pktWrite
  repeat' first
    | with_reducible assumption
    | intro _
    | (extract_lets +onlyGivenNames x; refine (fun (hx : Kept b x) => ?_) ?_; (on_goal 1 => try clear_value x); (on_goal 2 => (dsimp only [x]; clear x)))
    | (extract_lets +onlyGivenNames x; first | clear_value x | (dsimp only [x]; clear x) | skip)
    | with_reducible apply State.after_kept
    | with_reducible apply execPktDeliver_kept
    | with_reducible apply execPktDrop_kept
    | with_reducible apply execPktForward_kept
    | with_reducible apply execPktAlloc_kept
    | with_reducible apply State.nextFree_kept
    | split
    | dsimp -zeta only [id]

theorem State.writeQmg_kept {s : State} (hs : Kept b s) (rq : Req) (p : ℕ) (v : Sys2Proof.Word) : Kept b (State.writeQmg s rq p v) := by
  unfold State.writeQmg
  repeat' first
    | with_reducible assumption
    | intro _
    | with_reducible apply State.qcmdWrite_kept
    | with_reducible apply State.pktWrite_kept
    | with_reducible apply State.after_kept
    | with_reducible apply execSwqPush_kept
    | with_reducible apply execSwqPop_kept
    | with_reducible apply State.plainWrite_kept
    | split
    | dsimp -zeta only [id]

theorem State.fwdCmdWrite_kept {s : State} (hs : Kept b s) (rq : Req) (v : Sys2Proof.Word) : Kept b (State.fwdCmdWrite s rq v) := by
  unfold State.fwdCmdWrite
  repeat' first
    | with_reducible assumption
    | intro _
    | (extract_lets +onlyGivenNames x; refine (fun (hx : Kept b x) => ?_) ?_; (on_goal 1 => try clear_value x); (on_goal 2 => (dsimp only [x]; clear x)))
    | (extract_lets +onlyGivenNames x; first | clear_value x | (dsimp only [x]; clear x) | skip)
    | with_reducible apply State.fwdWrite_kept
    | with_reducible apply State.fwdReserved_kept
    | split
    | dsimp -zeta only [id]

theorem State.updWrite_kept {s : State} (hs : Kept b s) (rq : Req) (v : Word) : Kept b (State.updWrite s rq v) := by
  unfold State.updWrite
  repeat' first
    | with_reducible assumption
    | intro _
    | (extract_lets +onlyGivenNames x; refine (fun (hx : Kept b x) => ?_) ?_; (on_goal 1 => try clear_value x); (on_goal 2 => (dsimp only [x]; clear x)))
    | (extract_lets +onlyGivenNames x; first | clear_value x | (dsimp only [x]; clear x) | skip)
    | with_reducible apply State.after_kept
    | with_reducible apply execUpdLoad_kept
    | with_reducible apply execUpdVerify_kept
    | with_reducible apply execUpdWrite_kept
    | with_reducible apply execUpdActivate_kept
    | with_reducible apply execUpdRollback_kept
    | with_reducible apply execUpdAbort_kept
    | with_reducible apply State.updCmd_kept
    | split
    | (simp -zeta only [Kept_mk]; refine ⟨Kept.tabs ?_, ?_, ?_⟩)
    | with_reducible refine Kept.epochs ?_
    | with_reducible refine Kept.svns ?_
    | dsimp -zeta only [id]

theorem State.cscCmdWrite_kept {s : State} (hs : Kept b s) (rq : Req) (v : Sys2Proof.Word) : Kept b (State.cscCmdWrite s rq v) := by
  unfold State.cscCmdWrite
  repeat' first
    | with_reducible assumption
    | intro _
    | (extract_lets +onlyGivenNames x; refine (fun (hx : Kept b x) => ?_) ?_; (on_goal 1 => try clear_value x); (on_goal 2 => (dsimp only [x]; clear x)))
    | (extract_lets +onlyGivenNames x; first | clear_value x | (dsimp only [x]; clear x) | skip)
    | with_reducible apply State.after_kept
    | with_reducible apply execCscHandback_kept
    | with_reducible apply execCscEcho_kept
    | with_reducible apply execCscFloodLsa_kept
    | with_reducible apply State.cscCmd_kept
    | with_reducible apply State.cscDone_kept
    | split
    | dsimp -zeta only [id]

theorem State.writeCfg_kept {s : State} (hs : Kept b s) (rq : Req) (p : ℕ) (v : Sys2Proof.Word) : Kept b (State.writeCfg s rq p v) := by
  unfold State.writeCfg
  repeat' first
    | with_reducible assumption
    | intro _
    | with_reducible apply State.after_kept
    | with_reducible apply execCfgReload_kept
    | with_reducible apply execCfgCheck_kept
    | with_reducible apply State.plainWrite_kept
    | split
    | dsimp -zeta only [id]

theorem State.xspiWrite_kept {s : State} (hs : Kept b s) (rq : Req) (v : Sys2Proof.Word) : Kept b (State.xspiWrite s rq v) := by
  unfold State.xspiWrite
  repeat' first
    | with_reducible assumption
    | intro _
    | with_reducible apply State.after_kept
    | with_reducible apply execXspiRead_kept
    | with_reducible apply execXspiErase_kept
    | with_reducible apply execXspiProgram_kept
    | with_reducible apply State.plainWrite_kept
    | split
    | dsimp -zeta only [id]

theorem State.writeHif_kept {s : State} (hs : Kept b s) (rq : Req) (p : ℕ) (v : Sys2Proof.Word) : Kept b (State.writeHif s rq p v) := by
  unfold State.writeHif
  repeat' first
    | with_reducible assumption
    | intro _
    | with_reducible apply State.xspiWrite_kept
    | with_reducible apply State.after_kept
    | with_reducible apply execPtpStep_kept
    | with_reducible apply execHifTspop_kept
    | with_reducible apply execRxringTailWrite_kept
    | with_reducible apply execTxringTailWrite_kept
    | with_reducible apply execNexthopApply_kept
    | with_reducible apply State.plainWrite_kept
    | split
    | dsimp -zeta only [id]

theorem State.oneBit_kept {s : State} (hs : Kept b s) (rq : Req) (p : Nat) : ∀ t, State.oneBit s rq p = some t → Kept b t := by
  intro t e
  unfold State.oneBit at e
  by_cases h1 : p = Reg.DMX_QPOP
  · rw [if_pos h1] at e; cases e; exact State.after_kept (execMirrorPop_kept rq hs) hs
  rw [if_neg h1] at e
  by_cases h2 : p = Reg.SIC_RQPOP
  · rw [if_pos h2] at e; cases e; exact State.after_kept (execSicRqpop_kept rq hs) hs
  rw [if_neg h2] at e
  by_cases h3 : p = Reg.SLV_RQPOP
  · rw [if_pos h3] at e; cases e; exact State.after_kept (execSlvRqpop_kept rq hs) hs
  rw [if_neg h3] at e
  by_cases h4 : p = Reg.SLV_SHQPOP
  · rw [if_pos h4] at e; cases e; exact State.after_kept (execSlvShqpop_kept rq hs) hs
  rw [if_neg h4] at e
  by_cases h5 : p = Reg.FWD_PERPOP
  · rw [if_pos h5] at e; cases e; exact State.after_kept (execFwdPerpop_kept rq hs) hs
  rw [if_neg h5] at e
  by_cases h6 : p = Reg.SUP_LOGPOP
  · rw [if_pos h6] at e; cases e; exact State.after_kept (execSupLogpop_kept rq hs) hs
  rw [if_neg h6] at e
  by_cases h7 : p = Reg.CRY_RESEED
  · rw [if_pos h7] at e; cases e; exact State.after_kept (execCryReseed_kept rq hs) hs
  rw [if_neg h7] at e
  by_cases h8 : p = Reg.PRC_RPLCMD
  · rw [if_pos h8] at e; cases e; exact State.after_kept (execRplRepair_kept rq hs) hs
  rw [if_neg h8] at e
  cases e

theorem State.primWrite_kept {s : State} (hs : Kept b s) (rq : Req) (p : ℕ) (v : Sys2Proof.Word) {snap : State → State} (hsnap : ∀ u, Kept b u → Kept b (snap u)) : Kept b (State.primWrite s rq p v snap) := by
  unfold State.primWrite
  have h1 : ∀ t, (if v.getLsbD 0 = true then s.oneBit rq p else none) = some t → Kept b t := by
    intro t e
    split at e
    · exact State.oneBit_kept hs rq p t e
    · cases e
  repeat' first
    | with_reducible assumption
    | intro _
    | (extract_lets +onlyGivenNames x; refine (fun (hx : Kept b x) => ?_) ?_; (on_goal 1 => try clear_value x); (on_goal 2 => (dsimp only [x]; clear x)))
    | (extract_lets +onlyGivenNames x; refine (fun (hx : b.epoch ≤ (x : Kvt).fuses) => ?_) ?_; (on_goal 1 => try clear_value x); (on_goal 2 => (dsimp only [x]; clear x)))
    | (extract_lets +onlyGivenNames x; refine (fun (hx : b.svn ≤ (x : Upd).fuses) => ?_) ?_; (on_goal 1 => try clear_value x); (on_goal 2 => (dsimp only [x]; clear x)))
    | (extract_lets +onlyGivenNames x; first | clear_value x | (dsimp only [x]; clear x) | skip)
    | with_reducible apply State.commitWrite_kept
    | (with_reducible apply h1; assumption)
    | with_reducible apply State.writeChip_kept
    | with_reducible apply State.after_kept
    | with_reducible apply execEvtRearm_kept
    | with_reducible apply State.plainWrite_kept
    | with_reducible apply State.writeGtb_kept
    | with_reducible apply execProxyCmd_kept
    | with_reducible apply State.nbWrite_kept
    | with_reducible apply State.slvWrite_kept
    | with_reducible apply State.writeQmg_kept
    | with_reducible apply State.fwdCmdWrite_kept
    | with_reducible apply State.kvtCmd_kept
    | with_reducible apply State.updWrite_kept
    | with_reducible apply State.cscCmdWrite_kept
    | with_reducible apply State.writePwr_kept
    | with_reducible apply execSupWdogKick_kept
    | with_reducible apply State.writeHif_kept
    | with_reducible apply execTstStart_kept
    | with_reducible apply State.writeCfg_kept
    | with_reducible apply hsnap
    | split
    | (simp -zeta only [Kept_mk]; refine ⟨Kept.tabs ?_, ?_, ?_⟩)
    | with_reducible refine Kept.epochs ?_
    | with_reducible refine Kept.svns ?_
    | dsimp -zeta only [id]

theorem State.aliasWrite_kept {s : State} (hs : Kept b s) (rq : Req) (a : Nat) (v : Word) : Kept b (State.aliasWrite s rq a v) := by
  unfold State.aliasWrite
  repeat' first
    | with_reducible assumption
    | intro _
    | (extract_lets +onlyGivenNames x; refine (fun (hx : Kept b x) => ?_) ?_; (on_goal 1 => try clear_value x); (on_goal 2 => (dsimp only [x]; clear x)))
    | (extract_lets +onlyGivenNames x; first | clear_value x | (dsimp only [x]; clear x) | skip)
    | with_reducible apply State.cmpWrite_kept
    | with_reducible apply State.pulseWrite_kept
    | with_reducible apply State.recordFault_kept
    | with_reducible apply State.after_kept
    | with_reducible apply execPwrDomreqWrite_kept
    | with_reducible apply State.tailWrite_kept
    | with_reducible apply State.nhWrite_kept
    | with_reducible apply State.plainWrite_kept
    | split
    | (simp -zeta only [Kept_mk]; refine ⟨Kept.tabs ?_, ?_, ?_⟩)
    | with_reducible refine Kept.epochs ?_
    | with_reducible refine Kept.svns ?_
    | dsimp -zeta only [id]

theorem Tab.sorted_putD [DecidableEq α] (d : α) (t : Tab α) (k : Nat) (x : α) (h : Tab.sorted t = true) :
    Tab.sorted (Tab.putD t d k x) = true := by
  unfold Tab.putD
  split
  · rw [Tab.del_eq_filter]
    exact Tab.sortedFrom_filter t none _ h
  · exact Tab.sorted_put t k x h

theorem Tab.sorted_foldl (l : List β) (f : Tab α → β → Tab α) (t : Tab α)
    (hf : ∀ u x, Tab.sorted u = true → Tab.sorted (f u x) = true) (h : Tab.sorted t = true) : Tab.sorted (l.foldl f t) = true := by
  induction l generalizing t with
  | nil => exact h
  | cons a l ih => exact ih _ (hf _ _ h)

theorem State.captureCtrs_sorted (s : State) : Tab.sorted s.captureCtrs = true := by
  unfold State.captureCtrs
  refine Tab.sorted_foldl _ _ _ (fun u x h => ?_) rfl
  split
  · split
    · exact Tab.sorted_put u _ _ h
    · exact Tab.sorted_put u _ _ h
  · exact h

theorem State.capture_sorted (s : State) : Tab.sorted s.capture = true := by
  unfold State.capture
  exact Tab.sorted_foldl _ _ _ (fun u x h => Tab.sorted_putD _ _ _ _ h) s.captureCtrs_sorted

theorem State.snap_kept {s : State} (hs : Kept b s) (gt : Nat) : Kept b (State.snap s gt) := by
  have h0 : Kept b { s with holding := s.capture } := by
    obtain ⟨⟨h1, h2⟩, h3⟩ := hs
    refine ⟨⟨h1, ?_⟩, h3⟩
    simp only [Bool.and_eq_true] at h2 ⊢
    exact ⟨h2.1, h2.2.1, s.capture_sorted, h2.2.2.2⟩
  unfold State.snap
  exact State.setFld_kept (State.setReg_kept (State.setReg_kept (State.setReg_kept h0 _ _) _ _) _ _) _ _

theorem execSnapshot_kept (rq : Req) (gt : ℕ) {s : State} (hs : Kept b s) : KeptOut b (execSnapshot rq gt s) := by
  unfold execSnapshot
  repeat' first
    | with_reducible assumption
    | with_reducible refine KeptOut_next ?_
    | intro _
    | with_reducible apply State.gated_kept
    | with_reducible apply State.snap_kept
    | dsimp -zeta only [id]

theorem State.busWrite_kept {s : State} (hs : Kept b s) (rq : Req) (a : Nat) (v : Word) : Kept b (State.busWrite s rq a v) := by
  unfold State.busWrite
  repeat' first
    | with_reducible assumption
    | intro _
    | (extract_lets +onlyGivenNames x; refine (fun (hx : Kept b x) => ?_) ?_; (on_goal 1 => try clear_value x); (on_goal 2 => (dsimp only [x]; clear x)))
    | (extract_lets +onlyGivenNames x; first | clear_value x | (dsimp only [x]; clear x) | skip)
    | with_reducible apply State.primWrite_kept
    | with_reducible apply State.after_kept
    | with_reducible apply execSnapshot_kept
    | with_reducible apply State.aliasWrite_kept
    | with_reducible apply State.writeWord_kept
    | split
    | (simp -zeta only [Kept_mk]; refine ⟨Kept.tabs ?_, ?_, ?_⟩)
    | with_reducible refine Kept.epochs ?_
    | with_reducible refine Kept.svns ?_
    | dsimp -zeta only [id]

theorem State.busWrites_kept {s : State} (hs : Kept b s) (rq : Req) (a : Nat) (l : List Word) : Kept b (State.busWrites s rq a l) := by
  induction l generalizing s a with
  | nil => exact hs
  | cons v l ih => exact ih (State.busWrite_kept hs rq a v) (a + 4)

theorem State.writeAny_kept {s : State} (hs : Kept b s) (rq : Req) (a : Nat) (data : List Octet) : Kept b (State.writeAny s rq a data) := by
  unfold State.writeAny
  repeat' first
    | with_reducible assumption
    | intro _
    | (extract_lets +onlyGivenNames x; refine (fun (hx : Kept b x) => ?_) ?_; (on_goal 1 => try clear_value x); (on_goal 2 => (dsimp only [x]; clear x)))
    | (extract_lets +onlyGivenNames x; first | clear_value x | (dsimp only [x]; clear x) | skip)
    | with_reducible apply State.busWrites_kept
    | with_reducible apply State.recordFault_kept
    | split
    | (simp -zeta only [Kept_mk]; refine ⟨Kept.tabs ?_, ?_, ?_⟩)
    | with_reducible refine Kept.epochs ?_
    | with_reducible refine Kept.svns ?_
    | dsimp -zeta only [id]

theorem State.readWord_kept {s : State} (hs : Kept b s) (rq : Req) (a : ℕ) : Kept b (State.readWord s rq a).2 := by
  unfold State.readWord
  repeat' first
    | with_reducible assumption
    | intro _
    | (extract_lets +onlyGivenNames x; refine (fun (hx : Kept b x) => ?_) ?_; (on_goal 1 => try clear_value x); (on_goal 2 => (dsimp only [x]; clear x)))
    | (extract_lets +onlyGivenNames x; first | clear_value x | (dsimp only [x]; clear x) | skip)
    | with_reducible apply State.recordFault_kept
    | with_reducible apply State.after_kept
    | with_reducible apply execLegstampRead_kept
    | with_reducible apply execCryRngRead_kept
    | with_reducible apply State.setReg_kept
    | split
    | dsimp -zeta only [id]

theorem State.readWord_kept' {s : State} (hs : Kept b s) (rq : Req) (a : ℕ) {r1 : _} {t1 : State} (e1 : State.readWord s rq a = (r1, t1)) : Kept b t1 := by
  have := State.readWord_kept (b := b) hs rq a
  rw [e1] at this
  exact this

theorem execRegWrite_kept (rq : Req) (addr : ℕ) (data : List Sys2Proof.Octet) {s : State} (hs : Kept b s) : KeptOut b (execRegWrite rq addr data s) := by
  unfold execRegWrite
  repeat' first
    | with_reducible assumption
    | with_reducible refine KeptOut_next ?_
    | intro _
    | (extract_lets +onlyGivenNames x; refine (fun (hx : Kept b x) => ?_) ?_; (on_goal 1 => try clear_value x); (on_goal 2 => (dsimp only [x]; clear x)))
    | (extract_lets +onlyGivenNames x; first | clear_value x | (dsimp only [x]; clear x) | skip)
    | with_reducible apply State.writeAny_kept
    | with_reducible apply State.respond_kept
    | dsimp -zeta only [id]

theorem execSetAliasWrite_kept (rq : Req) (addr : ℕ) (v : Sys2Proof.Word) {s : State} (hs : Kept b s) : KeptOut b (execSetAliasWrite rq addr v s) := by
  unfold execSetAliasWrite
  repeat' first
    | with_reducible assumption
    | with_reducible refine KeptOut_next ?_
    | intro _
    | with_reducible apply State.busWrite_kept
    | dsimp -zeta only [id]

theorem execClearAliasWrite_kept (rq : Req) (addr : ℕ) (v : Sys2Proof.Word) {s : State} (hs : Kept b s) : KeptOut b (execClearAliasWrite rq addr v s) := by
  unfold execClearAliasWrite
  repeat' first
    | with_reducible assumption
    | with_reducible refine KeptOut_next ?_
    | intro _
    | with_reducible apply State.busWrite_kept
    | dsimp -zeta only [id]

theorem execToggleAliasWrite_kept (rq : Req) (addr : ℕ) (v : Sys2Proof.Word) {s : State} (hs : Kept b s) : KeptOut b (execToggleAliasWrite rq addr v s) := by
  unfold execToggleAliasWrite
  repeat' first
    | with_reducible assumption
    | with_reducible refine KeptOut_next ?_
    | intro _
    | with_reducible apply State.busWrite_kept
    | dsimp -zeta only [id]

theorem State.readWords_kept {s : State} (hs : Kept b s) (rq : Req) (n a : Nat) : Kept b (State.readWords rq n a s).2 := by
  induction n generalizing s a with
  | zero => exact hs
  | succ n ih => exact ih (State.readWord_kept hs rq a) (a + 4)

theorem State.readWords_kept' {s : State} (rq : Req) (n a : Nat) (hs : Kept b s) {r1 : _} {t1 : State}
    (e1 : State.readWords rq n a s = (r1, t1)) : Kept b t1 := by
  have := State.readWords_kept (b := b) hs rq n a
  rw [e1] at this
  exact this

theorem State.readAny_kept {s : State} (hs : Kept b s) (rq : Req) (a : ℕ) (n : ℕ) : Kept b (State.readAny s rq a n).2 := by
  unfold State.readAny
  repeat' first
    | with_reducible assumption
    | intro _
    | (extract_lets +onlyGivenNames x; refine (fun (hx : Kept b x) => ?_) ?_; (on_goal 1 => try clear_value x); (on_goal 2 => (dsimp only [x]; clear x)))
    | (extract_lets +onlyGivenNames x; first | clear_value x | (dsimp only [x]; clear x) | skip)
    | with_reducible apply State.readWords_kept
    | with_reducible refine State.readWords_kept' _ _ _ ?_ ‹_›
    | with_reducible apply State.recordFault_kept
    | split
    | dsimp -zeta only [id]

theorem State.readAny_kept' {s : State} (hs : Kept b s) (rq : Req) (a : ℕ) (n : ℕ) {r1 : _} {t1 : State} (e1 : State.readAny s rq a n = (r1, t1)) : Kept b t1 := by
  have := State.readAny_kept (b := b) hs rq a n
  rw [e1] at this
  exact this

theorem execRcRead_kept (rq : Req) (addr : ℕ) (n : ℕ) {s : State} (hs : Kept b s) : KeptOut b (execRcRead rq addr n s) := by
  unfold execRcRead
  repeat' first
    | with_reducible assumption
    | with_reducible refine KeptOut_next ?_
    | intro _
    | (extract_lets +onlyGivenNames x; refine (fun (hx : Kept b x) => ?_) ?_; (on_goal 1 => try clear_value x); (on_goal 2 => (dsimp only [x]; clear x)))
    | (extract_lets +onlyGivenNames x; refine (fun (hx : Kept b x.2) => ?_) ?_; (on_goal 1 => try clear_value x); (on_goal 2 => (dsimp only [x]; clear x)))
    | (extract_lets +onlyGivenNames x; refine (fun (hx : Kept b x.1) => ?_) ?_; (on_goal 1 => try clear_value x); (on_goal 2 => (dsimp only [x]; clear x)))
    | (extract_lets +onlyGivenNames x; first | clear_value x | (dsimp only [x]; clear x) | skip)
    | with_reducible apply State.readAny_kept
    | with_reducible refine State.readAny_kept' ?_ _ _ _ ‹_›
    | with_reducible apply State.respond_kept
    | dsimp -zeta only [id]

theorem execPwLand_kept (unit : Nat) {s : State} (hs : Kept b s) : KeptOut b (execPwLand unit s) := by
  unfold execPwLand
  repeat' first
    | with_reducible assumption
    | with_reducible refine KeptOut_next ?_
    | intro _
    | (extract_lets +onlyGivenNames x; refine (fun (hx : Kept b x) => ?_) ?_; (on_goal 1 => try clear_value x); (on_goal 2 => (dsimp only [x]; clear x)))
    | (extract_lets +onlyGivenNames x; first | clear_value x | (dsimp only [x]; clear x) | skip)
    | with_reducible apply State.setFlag_kept
    | with_reducible apply State.convDrain_kept
    | with_reducible apply State.proxyLand_kept
    | split
    | (simp -zeta only [Kept_mk]; refine ⟨Kept.tabs ?_, ?_, ?_⟩)
    | with_reducible refine Kept.epochs ?_
    | with_reducible refine Kept.svns ?_
    | dsimp -zeta only [id]

theorem State.smbNext_kept {s : State} (hs : Kept b s) : Kept b (State.smbNext s) := by
  unfold State.smbNext
  repeat' first
    | with_reducible assumption
    | intro _
    | (extract_lets +onlyGivenNames x; refine (fun (hx : Kept b x) => ?_) ?_; (on_goal 1 => try clear_value x); (on_goal 2 => (dsimp only [x]; clear x)))
    | (extract_lets +onlyGivenNames x; first | clear_value x | (dsimp only [x]; clear x) | skip)
    | split
    | (simp -zeta only [Kept_mk]; refine ⟨Kept.tabs ?_, ?_, ?_⟩)
    | with_reducible refine Kept.epochs ?_
    | with_reducible refine Kept.svns ?_
    | dsimp -zeta only [id]

theorem execSmbSetaddr_kept (pec : Option Bool) (addr : ℕ) {s : State} (hs : Kept b s) : KeptOut b (execSmbSetaddr pec addr s) := by
  unfold execSmbSetaddr
  repeat' first
    | with_reducible assumption
    | with_reducible refine KeptOut_next ?_
    | intro _
    | (extract_lets +onlyGivenNames x; refine (fun (hx : Kept b x) => ?_) ?_; (on_goal 1 => try clear_value x); (on_goal 2 => (dsimp only [x]; clear x)))
    | (extract_lets +onlyGivenNames x; first | clear_value x | (dsimp only [x]; clear x) | skip)
    | with_reducible apply State.respond_kept
    | with_reducible apply State.fire_kept
    | split
    | (simp -zeta only [Kept_mk]; refine ⟨Kept.tabs ?_, ?_, ?_⟩)
    | with_reducible refine Kept.epochs ?_
    | with_reducible refine Kept.svns ?_
    | dsimp -zeta only [id]

theorem execSmbWrite32_kept (pec : Option Bool) (v : Sys2Proof.Word) {s : State} (hs : Kept b s) : KeptOut b (execSmbWrite32 pec v s) := by
  unfold execSmbWrite32
  repeat' first
    | with_reducible assumption
    | with_reducible refine KeptOut_next ?_
    | intro _
    | (extract_lets +onlyGivenNames x; refine (fun (hx : Kept b x) => ?_) ?_; (on_goal 1 => try clear_value x); (on_goal 2 => (dsimp only [x]; clear x)))
    | (extract_lets +onlyGivenNames x; first | clear_value x | (dsimp only [x]; clear x) | skip)
    | with_reducible apply State.respond_kept
    | with_reducible apply State.smbNext_kept
    | with_reducible apply State.writeAny_kept
    | with_reducible apply State.fire_kept
    | split
    | dsimp -zeta only [id]

theorem execSmbRead32_kept (pec : Option Bool) {s : State} (hs : Kept b s) : KeptOut b (execSmbRead32 pec s) := by
  unfold execSmbRead32
  repeat' first
    | with_reducible assumption
    | with_reducible refine KeptOut_next ?_
    | intro _
    | (extract_lets +onlyGivenNames x; refine (fun (hx : Kept b x) => ?_) ?_; (on_goal 1 => try clear_value x); (on_goal 2 => (dsimp only [x]; clear x)))
    | (extract_lets +onlyGivenNames x; refine (fun (hx : Kept b x.2) => ?_) ?_; (on_goal 1 => try clear_value x); (on_goal 2 => (dsimp only [x]; clear x)))
    | (extract_lets +onlyGivenNames x; refine (fun (hx : Kept b x.1) => ?_) ?_; (on_goal 1 => try clear_value x); (on_goal 2 => (dsimp only [x]; clear x)))
    | (extract_lets +onlyGivenNames x; first | clear_value x | (dsimp only [x]; clear x) | skip)
    | with_reducible apply State.readWord_kept
    | with_reducible refine State.readWord_kept' ?_ _ _ ‹_›
    | with_reducible apply State.recordFault_kept
    | with_reducible apply State.respond_kept
    | with_reducible apply State.smbNext_kept
    | with_reducible apply State.fire_kept
    | split
    | dsimp -zeta only [id]

end Sys2Proof.Machine
end

