-- ==== Sys2Proof/Laws/Writes.lean ====
section
/-! SUPPORT. Command registers: a write of a register whose fields all are write-only or read-only stores nothing (R43, R46), and a
write that nothing bars (R52) goes on to the command's own effect. -/

namespace Sys2Proof.Machine

/-- A register with something to write, but with no bit that keeps what is written. -/
def RegD.quiet (d : RegD) : Bool :=
  d.writable && (!d.has .pw && (d.mask [.rw, .sc] == 0 && d.mask [.wl] == 0))

/-- The register at `p` is a command register that the event hub has no part in. -/
def quietReg (p : Nat) : Bool :=
  match regDesc p with
  | some d => d.quiet && (fixedOnes p == 0 &&
      !((Nat.ble (Reg.EVT_PENDn 0) p && Nat.ble p (Reg.EVT_PENDn 7)) || (Nat.ble (Reg.EVT_ROUTEn 0) p && Nat.ble p (Reg.EVT_ROUTEn 63))))
  | none => false

/-- What a full-width write of a quiet register leaves: the register as it was. -/
theorem State.applyWrite_quiet (s : State) (rq : Req) (p : Nat) (v : Word) (h : quietReg p = true) :
    s.applyWrite rq p v = s.setReg p (s.reg p) := by
  unfold quietReg at h
  unfold State.applyWrite
  cases hd : regDesc p with
  | none => rw [hd] at h; exact absurd h Bool.false_ne_true
  | some d =>
    rw [hd] at h
    simp only [RegD.quiet, Bool.and_eq_true, Bool.not_eq_true', Bool.or_eq_false_iff, beq_iff_eq] at h
    obtain ⟨⟨hw, hpw, hm, hwl⟩, hf, hp, hr⟩ := h
    have hp' : ¬ (Reg.EVT_PENDn 0 ≤ p ∧ p ≤ Reg.EVT_PENDn 7) := by
      rw [← Nat.ble_eq, ← Nat.ble_eq]; rw [Bool.and_eq_false_iff] at hp; rintro ⟨a, b⟩; rcases hp with hp | hp <;> simp_all
    have hr' : ¬ (Reg.EVT_ROUTEn 0 ≤ p ∧ p ≤ Reg.EVT_ROUTEn 63) := by
      rw [← Nat.ble_eq, ← Nat.ble_eq]; rw [Bool.and_eq_false_iff] at hr; rintro ⟨a, b⟩; rcases hr with hr | hr <;> simp_all
    dsimp only
    rw [hw, hpw, hm, hwl]
    simp only [State.store, if_neg hp', if_neg hr', hf]
    have hx : ∀ w : Word, w &&& 4294967295#32 = w := fun w => BitVec.and_allOnes
    simp [hx]

theorem State.reg_applyWrite_quiet (s : State) (rq : Req) (p : Nat) (v : Word) (a : Nat) (h : quietReg p = true) :
    (s.applyWrite rq p v).reg a = s.reg a := by
  rw [State.applyWrite_quiet s rq p v h]
  by_cases e : a = p
  · subst e; exact State.reg_setReg_same s a _
  · exact State.reg_setReg_ne s p a _ e

/-- A command that nothing bars: the state that its own effect starts from, which reads as before. -/
theorem State.gated_next (s : State) (rq : Req) (p : Nat) (v : Word) (act : State → State) (h : quietReg p = true)
    (hb : s.barred rq p (some v) = none) :
    s.gated rq p v act = act ((s.setReg p (s.reg p)).respond [] true) := by
  unfold State.gated
  rw [hb, State.applyWrite_quiet s rq p v h]

/-- A barred command is recorded and answered with a fault. -/
theorem State.gated_barred (s : State) (rq : Req) (p : Nat) (v : Word) (act : State → State) (c : AccCause)
    (hb : s.barred rq p (some v) = some c) : s.gated rq p v act = (s.recordFault rq c true p 15).respond [] false := by
  unfold State.gated
  rw [hb]

theorem State.reg_setReg_self (s : State) (p a : Nat) : (s.setReg p (s.reg p)).reg a = s.reg a := by
  by_cases e : a = p
  · subst e; exact State.reg_setReg_same s a _
  · exact State.reg_setReg_ne s p a _ e

end Sys2Proof.Machine
end

