-- ==== Sys2Proof/Laws/Pending.lean ====
section
/-! SUPPORT. Pending bits (R61): which operations leave them alone, and that no firing source clears one. -/

namespace Sys2Proof.Machine

theorem isPendReg_bits {k : Nat} (hk : k < 256) : isPendReg (Reg.EVT_PENDn (k / 32)) = true := by
  have h8 : k / 32 ≤ 7 := by omega
  simp only [isPendReg, Reg.EVT_PENDn, Bool.and_eq_true, Nat.ble_eq]
  omega

theorem State.isPend_setReg_ne (s : State) (a : Nat) (v : Word) (k : Nat) (hk : k < 256) (h : isPendReg a = false) :
    (s.setReg a v).isPend k = s.isPend k := by
  unfold State.isPend
  rw [State.reg_setReg_ne]
  intro e
  rw [← e, isPendReg_bits hk] at h
  exact absurd h (by decide)

theorem State.isPend_setFld_ne (s : State) (f : Field) (n k : Nat) (hk : k < 256) (h : isPendReg f.reg = false) :
    (s.setFld f n).isPend k = s.isPend k := State.isPend_setReg_ne _ _ _ _ hk h

theorem State.isPend_setFlag_ne (s : State) (f : Field) (x : Bool) (k : Nat) (hk : k < 256) (h : isPendReg f.reg = false) :
    (s.setFlag f x).isPend k = s.isPend k := State.isPend_setReg_ne _ _ _ _ hk h

theorem State.isPend_bump_ne (s : State) (c n k : Nat) (hk : k < 256) (h : isPendReg c = false) (h' : isPendReg (c + 4) = false) :
    (s.bump c n).isPend k = s.isPend k := by
  unfold State.bump State.setCtr
  rw [State.isPend_setReg_ne _ _ _ _ hk h', State.isPend_setReg_ne _ _ _ _ hk h]

/-- A bit that is set stays set when others are added. -/
theorem bit_or (a b : Word) (i : Nat) (h : bit a.toNat i = true) : bit (a ||| b).toNat i = true := by
  unfold bit at *
  simp only [beq_iff_eq] at *
  have h2 : (a ||| b).toNat.testBit i = true := by
    have h1 : a.toNat.testBit i = true := by rw [Nat.testBit_eq_decide_div_mod_eq]; simpa using h
    rw [BitVec.toNat_or, Nat.testBit_or, h1, Bool.true_or]
  rw [Nat.testBit_eq_decide_div_mod_eq] at h2
  simpa using h2

/-- A pending source stays pending when another fires. -/
theorem State.isPend_fire_mono (s : State) (j k : Nat) (h : s.isPend k = true) : (s.fire j).isPend k = true := by
  have key : (s.setReg (Reg.EVT_PENDn (j / 32)) (s.reg (Reg.EVT_PENDn (j / 32)) ||| (1#32 <<< (j % 32)))).isPend k = true := by
    unfold State.isPend at *
    by_cases e : Reg.EVT_PENDn (k / 32) = Reg.EVT_PENDn (j / 32)
    · rw [e, State.reg_setReg_same]
      rw [e] at h
      exact bit_or _ _ _ h
    · rw [State.reg_setReg_ne _ _ _ _ e]
      exact h
  unfold State.fire
  split
  · exact h
  · dsimp only
    split
    · have e := State.isPend_congr (State.sendMsi_regs (State.mk s.pending (s.setReg (Reg.EVT_PENDn (j / 32)) (s.reg (Reg.EVT_PENDn (j / 32)) ||| (1#32 <<< (j % 32)))).regs s.active s.staged s.holding s.free { s.evt with fwPend := s.evt.fwPend ||| (1#256 <<< j) } s.pwr s.sup s.gtb s.rfp s.dmx s.cdc s.sic s.qmg s.bgt s.kvt s.msq s.slv s.fwd s.csc s.lgc s.hif s.mem s.prc s.flash s.cfg s.upd s.tst s.told s.inbox s.i3inbox) (s.route j % 16)) k
      exact e.trans key
    · exact key

theorem State.isPend_fireIf_mono (s : State) (x : Bool) (j k : Nat) (h : s.isPend k = true) : (s.fireIf x j).isPend k = true := by
  cases x
  · exact h
  · exact State.isPend_fire_mono s j k h

/-- FAIL_N brought up to date clears no pending bit. -/
theorem State.isPend_drive_mono (s : State) (k : Nat) (h : s.isPend k = true) : s.drive.isPend k = true := by
  unfold State.drive
  exact State.isPend_fireIf_mono _ _ _ _ h

end Sys2Proof.Machine
end

