-- ==== Sys2Proof/WellFormed.lean ====
section
/-! DEFINITION. The operand ranges of the commands: each operand within what the spec lets it be. The table gives the operands no
fields (log entry 1); the ranges are those of the registers, tables and ports that the operands name. -/

namespace Sys2Proof

namespace Machine

/-- A grid time is a 64-bit number (R69). -/
def Time.ok (t : Time) : Bool := Nat.blt t.gt (2 ^ 64)

/-- Only PRC accesses carry a secure context of a processor (R331). -/
def Req.ok (r : Req) : Bool := r.init == .prc || !r.prcSecure

/-- The fields of GTB_QUAL hold what the estimator measures (R67). -/
def Sense.ok (m : Sense) : Bool := Nat.blt m.freq 131072 && (Nat.blt m.thd 1024 && Nat.blt m.amp 16)

/-- An MSI-X table has 16 entries (R64). -/
def MsixWrite.wf : MsixWrite → Bool
  | .unmask v => Nat.blt v 16
  | .mask v => Nat.blt v 16
  | .enable _ => true

/-- A step of a queued command. -/
def CmdStep.ok : CmdStep → Bool
  | .write rq => rq.ok
  | .run t => t.ok

/-- A step of a table command. -/
def FwdStep.ok : FwdStep → Bool
  | .write rq => rq.ok
  | .priv _ _ data => Nat.ble data.length 32
  | .run t _ _ => t.ok
  | .visit t n _ => t.ok && Nat.ble n 4194304
  | .privOther op _ _ data => Nat.ble 7 op && (Nat.blt op 16 && Nat.ble data.length 32)

/-- The ranges of R222. -/
def Cell.ok (c : Cell) : Bool :=
  Nat.blt c.slot 65536 && (Nat.blt c.sf 8 && (Nat.blt c.dir 3 && (Nat.blt c.chofs 64 && (Nat.blt c.tpl 16 &&
    Nat.blt c.record 65536))))

/-- The ranges of a placement (R183, R222, R224). -/
def Placement.ok (p : Placement) : Bool :=
  Nat.blt p.node (2 ^ 18) && (Nat.blt p.record 65536 && (p.cells.all Cell.ok && (Nat.blt p.sw 4 && (Nat.blt p.par 4 &&
    Nat.ble p.dep 4))))

/-- A step of a SOLVE. -/
def SolveStep.ok : SolveStep → Bool
  | .write rq => rq.ok
  | .run t border => t.ok && border.all Placement.ok

/-- The ranges of a LINK command and the 32 octets of its record (R225, R226). -/
def LinkCmd.ok (l : LinkCmd) : Bool := Nat.blt l.node (2 ^ 18) && (Nat.blt l.tag 256 && l.data.length == 32)

/-- The ranges of what a processor makes of a packet: only LINK commands have any. -/
def PrcWork.ok : PrcWork → Bool
  | .uplink _ => true
  | .downlink _ => true
  | .relayed _ _ => true
  | .rpl _ links => links.all LinkCmd.ok
  | .consume => true

/-- The ranges of a frame header on a cascade link (R365). -/
def CscHdr.inRange (h : CscHdr) : Bool :=
  Nat.blt h.dst 32 && (Nat.blt h.src 32 && (Nat.blt h.lseq 65536 && Nat.blt h.ackseq 65536))

end Machine

open Machine

/-- Are the command's operands in their ranges? -/
def Instr.wellFormed : Instr → Bool
  | .regWrite rq addr data => rq.ok && (Nat.blt addr (2 ^ 25) && !data.isEmpty)
  | .setAliasWrite rq addr _ => rq.ok && Nat.blt addr (2 ^ 25)
  | .clearAliasWrite rq addr _ => rq.ok && Nat.blt addr (2 ^ 25)
  | .toggleAliasWrite rq addr _ => rq.ok && Nat.blt addr (2 ^ 25)
  | .rcRead rq addr n => rq.ok && (Nat.blt addr (2 ^ 25) && Nat.blt n 4)
  | .pwLand unit => Nat.blt unit 24
  | .regAccessTimeout rq addr _ byteen gt => rq.ok && (Nat.blt addr (2 ^ 25) && (Nat.blt byteen 16 && Nat.blt gt (2 ^ 64)))
  | .commitGo rq unit groups => rq.ok && (Nat.blt unit 24 && Nat.blt groups 256)
  | .commitAbort rq unit groups _ => rq.ok && (Nat.blt unit 24 && Nat.blt groups 256)
  | .snapshot rq gt => rq.ok && Nat.blt gt (2 ^ 64)
  | .evtRearm rq vectors => rq.ok && Nat.blt vectors 65536
  | .msixUnmask w => w.wf
  | .mainsZcEdge t m => t.ok && m.ok
  | .senseDisagree => true
  | .inputQualified t phase _ _ _ _ amp => t.ok && (Nat.blt phase 16777216 && Nat.blt amp 16)
  | .inputLost t refcnt m => t.ok && (Nat.blt refcnt (2 ^ 64) && m.ok)
  | .phaseJumpConfirmed t _ _ => t.ok
  | .slewDone t => t.ok
  | .stepApply t => t.ok
  | .holdoverSave t refcnt _ => t.ok && Nat.blt refcnt (2 ^ 64)
  | .ptpSecondRollover t sec => t.ok && Nat.blt sec (2 ^ 48)
  | .ppsEdge t => t.ok
  | .utcLoad rq _ => rq.ok
  | .utcStale => true
  | .cmpArm t rq n view _ => t.ok && (rq.ok && (Nat.blt n 8 && Nat.blt view 4))
  | .cmpDisarm rq n view _ => rq.ok && (Nat.blt n 8 && Nat.blt view 4)
  | .cmpFire t n => t.ok && Nat.blt n 8
  | .pulseArm t rq n view _ => t.ok && (rq.ok && (Nat.blt n 8 && Nat.blt view 4))
  | .pulseEdge t n => t.ok && Nat.blt n 8
  | .pulseWidthEnd e => e.t.ok && Nat.blt e.n 8
  | .legstampRead rq => rq.ok
  | .mainsThdHigh _ => true
  | .sysrefEdge n _ => Nat.blt n 4
  | .linkLock t n _ _ => t.ok && Nat.blt n 4
  | .linkLockTimeout n => Nat.blt n 4
  | .proxyCmd rq _ => rq.ok
  | .proxyComplete data => Nat.blt data 256
  | .historyMarker t n missed _ => t.ok && (Nat.blt n 4 && Nat.ble missed 4096)
  | .historyRead _ _ port start _ => Nat.blt port 4 && Nat.blt start (2 ^ 64)
  | .noiseFloorUpdate n _ _ => Nat.blt n 4
  | .ccaRequest t _ _ n slice win _ _ => t.ok && (Nat.blt n 4 && (Nat.blt slice 128 && (Nat.ble 1 win && Nat.ble win 625)))
  | .txReserve t _ n slice start _ => t.ok && (Nat.blt n 4 && (Nat.blt slice 128 && Nat.blt start (2 ^ 64)))
  | .cdcEncode => true
  | .cdcEncodeCancel _ => true
  | .sicJobStart t => t.ok
  | .sicJobResume t _ => t.ok
  | .sicPassComplete _ _ _ => true
  | .refEntryExpire t => t.ok
  | .sicRqpop rq => rq.ok
  | .preambleDetect t h lh _ _ _ _ => t.ok && (Nat.blt h 512 && Nat.blt lh 6)
  | .i3ShrDetect t h _ _ _ _ => t.ok && Nat.blt h 512
  | .sfdFound l sfd _ => Nat.blt l 256 && Nat.blt sfd (2 ^ 64)
  | .sfdTimeout t l => t.ok && Nat.blt l 256
  | .cdcHeaderDecode t l w0 w1 _ _ => t.ok && (Nat.blt l 256 && (Nat.blt w0 (2 ^ 24) && Nat.blt w1 (2 ^ 24)))
  | .lastPayloadSymbol l => Nat.blt l 256
  | .cdcPayloadDecode t l _ _ _ => t.ok && Nat.blt l 256
  | .i3FrameEnd t l len _ _ _ => t.ok && (Nat.blt l 256 && Nat.blt len 128)
  | .laneFade t l _ _ _ _ => t.ok && Nat.blt l 256
  | .laneBufferError t l => t.ok && Nat.blt l 256
  | .retroEntryTaken t _ => t.ok
  | .retroCatchup l => Nat.blt l 256
  | .mirrorPop rq => rq.ok
  | .qmgAdmit k _ _ unit _ => Nat.blt k 8 && Nat.blt unit 24
  | .queuePush q _ cell _ => Nat.blt q 65628 && Nat.blt cell (2 ^ 26)
  | .queuePop q _ => Nat.blt q 65628
  | .qcmdRead rq q => rq.ok && Nat.blt q (2 ^ 17)
  | .qcmdWrite rq q => rq.ok && Nat.blt q (2 ^ 17)
  | .qcmdFlush rq q => rq.ok && Nat.blt q (2 ^ 17)
  | .qcmdDroprest rq q => rq.ok && Nat.blt q (2 ^ 17)
  | .qcmdClass rq q => rq.ok && Nat.blt q (2 ^ 17)
  | .swqPush rq n cell _ => rq.ok && (Nat.blt n 8 && Nat.blt cell (2 ^ 26))
  | .swqPop rq n => rq.ok && Nat.blt n 8
  | .ageCheckTick t q => t.ok && Nat.blt q 65628
  | .pktDeliver rq _ cell => rq.ok && Nat.blt cell (2 ^ 26)
  | .pktDrop rq _ cell reason => rq.ok && (Nat.blt cell (2 ^ 26) && Nat.blt reason 16)
  | .pktForward rq _ cell q => rq.ok && (Nat.blt cell (2 ^ 26) && Nat.blt q (2 ^ 17))
  | .pktAlloc rq _ n _ => rq.ok && Nat.blt n 64
  | .qmgAccountingError _ => true
  | .qmgRecordScanDone q => Nat.blt q 65628
  | .kvtKum rq _ tag _ => rq.ok && Nat.blt tag 256
  | .kvtGenerate rq _ slot tag _ => rq.ok && (Nat.blt slot (2 ^ 20) && Nat.blt tag 256)
  | .kvtErase rq _ slot tag => rq.ok && (Nat.blt slot (2 ^ 20) && Nat.blt tag 256)
  | .kvtAttest rq _ slot tag _ => rq.ok && (Nat.blt slot (2 ^ 20) && Nat.blt tag 256)
  | .kvtInfo rq _ slot tag => rq.ok && (Nat.blt slot (2 ^ 20) && Nat.blt tag 256)
  | .kvtZeroise rq _ tag => rq.ok && Nat.blt tag 256
  | .journalCommit => true
  | .epochFuseBurn => true
  | .counterBlockAdvance slot => Nat.blt slot (2 ^ 20)
  | .keyRequest _ slot found => Nat.blt slot (2 ^ 20) && found.all (fun l => l.length == 64)
  | .kvtSelftestDone _ _ _ => true
  | .kvtKeystoreLoad _ => true
  | .kvtWrappedStoreWrite => true
  | .kvtKeystateError => true
  | .cryReseed rq => rq.ok
  | .cryRngRead rq => rq.ok
  | .drbgHealthFail => true
  | .cryJob _ slot _ => slot.all (fun n => Nat.blt n (2 ^ 20))
  | .bgtCharge t _ _ _ => t.ok
  | .bucketAdvance t => t.ok
  | .msqFrameReceive gt _ => Nat.blt gt (2 ^ 64)
  | .nodeAckTimeout t record => t.ok && Nat.blt record 65536
  | .nbcmdRead rq slot => rq.ok && Nat.blt slot 65536
  | .nbcmdWrite rq slot => rq.ok && Nat.blt slot 65536
  | .nbcmdFree rq slot => rq.ok && Nat.blt slot 65536
  | .supervisionTimeout t record => t.ok && Nat.blt record 65536
  | .msqTxSelect t cell _ record => t.ok && (cell.ok && Nat.blt record 65536)
  | .expCellEnd t cell _ => t.ok && cell.ok
  | .searchStart => true
  | .searchSegment t _ _ => t.ok
  | .ccaBackoffExpire t _ => t.ok
  | .slvObservation => true
  | .linkRecordAge t _ => t.ok
  | .statWindowEnd t => t.ok
  | .slvSolve st node tag => st.ok && (Nat.blt node (2 ^ 18) && Nat.blt tag 256)
  | .solveComplete t places again far => t.ok && (places.all Placement.ok && (again.all Placement.ok && far.all Placement.ok))
  | .slvJoin st node tag _ found => st.ok && (Nat.blt node (2 ^ 18) && (Nat.blt tag 256 && found.all Placement.ok))
  | .slvLeave st node tag _ => st.ok && (Nat.blt node (2 ^ 18) && Nat.blt tag 256)
  | .slvDemand st node tag _ => st.ok && (Nat.blt node (2 ^ 18) && Nat.blt tag 256)
  | .slvLink st node tag _ => st.ok && (Nat.blt node (2 ^ 18) && Nat.blt tag 256)
  | .slvReaddem st node tag _ => st.ok && (Nat.blt node (2 ^ 18) && Nat.blt tag 256)
  | .slvReadlink st node tag _ => st.ok && (Nat.blt node (2 ^ 18) && Nat.blt tag 256)
  | .slvAbort st node tag _ => st.ok && (Nat.blt node (2 ^ 18) && Nat.blt tag 256)
  | .solvePeriodTimer t => t.ok
  | .cellsConfirmTimeout t node setid => t.ok && (Nat.blt node (2 ^ 18) && Nat.blt setid 256)
  | .slvRqpop rq => rq.ok
  | .slvShqpop rq => rq.ok
  | .fwdLookup t pkt dst src dscp _ =>
    t.ok && (Nat.blt pkt (2 ^ 26) && (Nat.blt dst (2 ^ 128) && (Nat.blt src (2 ^ 128) && Nat.blt dscp 64)))
  | .learnEventApply t _ => t.ok
  | .sweepVisit t bucket _ => t.ok && Nat.blt bucket 4194304
  | .filterScrubVisit v _ => Nat.blt v 65536
  | .filterRebuildComplete => true
  | .policerRefill => true
  | .fwdPerpop rq => rq.ok
  | .fwdCmdRead st tbl tag => st.ok && (Nat.blt tbl 4 && Nat.blt tag 256)
  | .fwdCmdWrite st tbl tag => st.ok && (Nat.blt tbl 4 && Nat.blt tag 256)
  | .fwdCmdDelete st tbl tag => st.ok && (Nat.blt tbl 4 && Nat.blt tag 256)
  | .fwdCmdLookup st tbl tag => st.ok && (Nat.blt tbl 4 && Nat.blt tag 256)
  | .fwdCmdUnpin st tbl tag => st.ok && (Nat.blt tbl 4 && Nat.blt tag 256)
  | .fwdCmdWalk st tbl tag => st.ok && (Nat.blt tbl 4 && Nat.blt tag 256)
  | .fwdCmdFlush st tbl tag => st.ok && (Nat.blt tbl 4 && Nat.blt tag 256)
  | .lxMessageReceive t _ => t.ok
  | .pinReleaseScan t => t.ok
  | .flushVisitComplete t _ => t.ok
  | .prcPacket t q ctx work =>
    t.ok && (Nat.blt q 16 && (Nat.blt ctx.proc 4 && (ctx.accs.all (fun a => Nat.blt a.region 8) && work.ok)))
  | .trickleTimer t _ => t.ok
  | .rplRepair rq => rq.ok
  | .cscBlockLock n => Nat.blt n 4
  | .cscLockLoss t n => t.ok && Nat.blt n 4
  | .cscRetxTimeout t n => t.ok && Nat.blt n 4
  | .cscForeignTimeout t n => t.ok && Nat.blt n 4
  | .cscHello t n _ => t.ok && Nat.blt n 4
  | .cscData t n h cls oseq _ => t.ok && (Nat.blt n 4 && (h.inRange && (Nat.blt cls 8 && Nat.blt oseq (2 ^ 48))))
  | .cscAck t n h => t.ok && (Nat.blt n 4 && h.inRange)
  | .cscCredit t n h g => t.ok && (Nat.blt n 4 && (h.inRange && Nat.blt g.cells (2 ^ 32)))
  | .cscLsa t n h org _ => t.ok && (Nat.blt n 4 && (h.inRange && Nat.blt org 32))
  | .cscStatus t n h _ => t.ok && (Nat.blt n 4 && h.inRange)
  | .cscTime t n h t1 t2 t3 t4 _ refcnt =>
    t.ok && (Nat.blt n 4 && (h.inRange && (Nat.blt t1 (2 ^ 64) && (Nat.blt t2 (2 ^ 64) && (Nat.blt t3 (2 ^ 64)
    && (Nat.blt t4 (2 ^ 64) && Nat.blt refcnt (2 ^ 64)))))))
  | .cscLearn t n h _ => t.ok && (Nat.blt n 4 && h.inRange)
  | .cscSched t n h x => t.ok && (Nat.blt n 4 && (h.inRange && x.found.all Placement.ok))
  | .cscHome t n h node chip => t.ok && (Nat.blt n 4 && (h.inRange && (Nat.blt node (2 ^ 18) && Nat.blt chip 16)))
  | .cscAddr t n h _ => t.ok && (Nat.blt n 4 && h.inRange)
  | .cscEchoFrame t n h _ tag _ => t.ok && (Nat.blt n 4 && (h.inRange && Nat.blt tag 256))
  | .lsaPeriodic t => t.ok
  | .statusPeriodic t => t.ok
  | .timePeriodic t => t.ok
  | .presenceTimeout t chip => t.ok && Nat.blt chip 32
  | .quorumLossTimeout t => t.ok
  | .startListenEnd t => t.ok
  | .tempAddrLapse addr => Nat.blt addr 32
  | .rerouteHoldExpire t pkt => t.ok && Nat.blt pkt (2 ^ 26)
  | .cscHandback rq addr tag => rq.ok && (Nat.blt addr 32 && Nat.blt tag 256)
  | .cscEcho rq addr tag => rq.ok && (Nat.blt addr 32 && Nat.blt tag 256)
  | .echoTimeout => true
  | .cscFloodLsa rq addr tag => rq.ok && (Nat.blt addr 32 && Nat.blt tag 256)
  | .lspiError p => Nat.blt p 4
  | .lspiWrite t p addr _ => t.ok && (Nat.blt p 4 && Nat.blt addr 128)
  | .i3RunStart t p _ _ => t.ok && Nat.blt p 4
  | .i3RunStop t p _ _ => t.ok && Nat.blt p 4
  | .i3SoftReset t p => t.ok && Nat.blt p 4
  | .intstatRead t p => t.ok && Nat.blt p 4
  | .rxfifoRead t p _ => t.ok && Nat.blt p 4
  | .txfifoWrite t p _ => t.ok && Nat.blt p 4
  | .linkWrite t p => t.ok && Nat.blt p 4
  | .linkRead t p => t.ok && Nat.blt p 4
  | .linkClear t p => t.ok && Nat.blt p 4
  | .linkClearAll t p => t.ok && Nat.blt p 4
  | .i3SlotBoundary t p => t.ok && Nat.blt p 4
  | .i3FrameReceive t _ => t.ok
  | .i3Rxdone t p => t.ok && Nat.blt p 4
  | .i3TxSelect t p => t.ok && Nat.blt p 4
  | .i3AckTimeout t p => t.ok && Nat.blt p 4
  | .pcieLinkChange t _ width speed _ => t.ok && (Nat.blt width 8 && Nat.blt speed 4)
  | .rxringTailWrite rq r _ => rq.ok && Nat.blt r 16
  | .txringTailWrite rq r _ => rq.ok && Nat.blt r 16
  | .dmaDescriptorDone t _ r len queue flags _ =>
    t.ok && (Nat.blt r 16 && (Nat.blt len 2048 && (Nat.blt queue 65536 && Nat.blt flags 65536)))
  | .ethFrameReceive t n _ => t.ok && Nat.blt n 2
  | .ethTxDone t n => t.ok && Nat.blt n 2
  | .ethLinkChange t n _ _ _ => t.ok && Nat.blt n 2
  | .protectionSwitch t => t.ok
  | .protectionRestore t => t.ok
  | .nexthopApply rq k _ => rq.ok && Nat.blt k 1024
  | .ptpStep t rq _ => t.ok && rq.ok
  | .hifTspop rq _ => rq.ok
  | .gpioEdge b _ => Nat.blt b 32
  | .linkDown t n _ => t.ok && Nat.blt n 4
  | .dclkCheckWindow t n _ _ => t.ok && Nat.blt n 4
  | .historyReadDone t _ => t.ok
  | .ccaResult t _ n powers => t.ok && (Nat.blt n 4 && powers.all (fun p => Nat.ble p (2 ^ 32)))
  | .streamCancel t _ => t.ok
  | .streamRelease t _ => t.ok
  | .streamAbort t _ _ => t.ok
  | .streamEnd t _ sfd => t.ok && Nat.blt sfd (2 ^ 64)
  | .historyWindowEnd _ => true
  | .scrubRead t _ ch region _ _ => t.ok && (Nat.blt ch 2 && Nat.blt region 16)
  | .updLoad rq tag => rq.ok && Nat.blt tag 256
  | .updVerify st tag => st.ok && Nat.blt tag 256
  | .updWrite rq tag => rq.ok && Nat.blt tag 256
  | .updWriteDone left => left.all (fun l => Nat.ble l.length 16777216)
  | .updActivate rq tag => rq.ok && Nat.blt tag 256
  | .quiesceComplete t _ => t.ok
  | .quiesceTimeout _ => true
  | .trialWindowEnd t => t.ok
  | .updRollback _ _ => true
  | .updAbort rq tag => rq.ok && Nat.blt tag 256
  | .updCommitDone _ _ => true
  | .supDivergence t => t.ok
  | .supWatchdogExpiry t => t.ok
  | .supWdogKick t rq _ => t.ok && rq.ok
  | .supResume t => t.ok
  | .prcWatchdogExpiry t p _ _ => t.ok && Nat.blt p 4
  | .prcRestartDone p => Nat.blt p 4
  | .fsReplicaMismatch => true
  | .supNotice t _ => t.ok
  | .supLogpop rq => rq.ok
  | .refclkLoss t refcnt => t.ok && Nat.blt refcnt (2 ^ 64)
  | .refclkReturn t refcnt => t.ok && Nat.blt refcnt (2 ^ 64)
  | .debugHalt t _ p => t.ok && Nat.blt p 4
  | .debugHaltEnd t _ p => t.ok && Nat.blt p 4
  | .debugScanStart => true
  | .debugScanEnd => true
  | .cfgCheckCopy t => t.ok
  | .cfgSealgenResume t => t.ok
  | .cfgApply t => t.ok
  | .cfgDramRecords t => t.ok
  | .cfgOtherCopyCheck => true
  | .cfgReload t rq => t.ok && rq.ok
  | .cfgCheck rq copy => rq.ok && Nat.blt copy 2
  | .firmwareBankRead t => t.ok
  | .clkselReq rq => rq.ok
  | .clockSwitch => true
  | .memTrainingComplete t => t.ok
  | .memTrainingFail t _ _ => t.ok
  | .retrain rq => rq.ok
  | .qmgDramPoolAdd => true
  | .enterSl1 t => t.ok
  | .enterSl2 t => t.ok
  | .fwdBootmodeExit => true
  | .deviceStart t => t.ok
  | .powerOnReset => true
  | .pinReset => true
  | .coreSupplyReset m => Nat.blt m.durb 8 && Nat.blt m.vminb 4
  | .ioSupplyReset m => Nat.blt m.durb 8 && Nat.blt m.vminb 4
  | .softwareReset rq key => rq.ok && Nat.blt key 65536
  | .pllLock => true
  | .pllLockTimeout => true
  | .perstRise => true
  | .pwrDomreqWrite t rq _ _ => t.ok && rq.ok
  | .domainDrainDone d => Nat.blt d 21
  | .domainEntryComplete t d => t.ok && Nat.blt d 21
  | .domainExitComplete t d _ => t.ok && Nat.blt d 21
  | .modeDeepret t rq key => t.ok && (rq.ok && Nat.blt key 65536)
  | .modeAononly t rq key => t.ok && (rq.ok && Nat.blt key 65536)
  | .modeEntryComplete t refcnt => t.ok && Nat.blt refcnt (2 ^ 64)
  | .wakeGpio ball _ => Nat.blt ball 32
  | .wakeSmbus => true
  | .wakeAlarm => true
  | .deepretExitComplete t _ => t.ok
  | .aononlyRailsReady t => t.ok
  | .xtalFail _ => true
  | .coreDipStart => true
  | .ioDipStart => true
  | .dipEnd durb vminb => Nat.blt durb 8 && Nat.blt vminb 4
  | .dipLong => true
  | .xspiRead rq => rq.ok
  | .xspiErase rq => rq.ok
  | .xspiProgram rq => rq.ok
  | .xspiComplete _ => true
  | .tstStart t rq _ => t.ok && rq.ok
  | .tstPhaseDone t _ => t.ok
  | .tapInstructionLoad _ => true
  | .tapReset => true
  | .tempSample _ => true
  | .commitActivate unit groups => Nat.blt unit 24 && Nat.blt groups 256
  | .oneSecondWindow t => t.ok
  | .slotBoundary t => t.ok
  | .smbSetaddr _ addr => Nat.blt addr (2 ^ 32)
  | .smbWrite32 _ _ => true
  | .smbRead32 _ => true

end Sys2Proof
end

