-- ==== Sys2Proof/Tests/Slice0.lean ====
section
/-! SUPPORT. Tests: well-formedness, and for each clause of each statement that has hypotheses a state and operands that meet all of
them together. The states are built from `tOn`; the numbers are small ones of the ranges that the clause names, with the boundary
values of its ranges among them. -/

set_option maxRecDepth 20000

namespace Sys2Proof.Machine

/-- A state for the witnesses: every domain on, CORE_CLK locked, out of reset. -/
def tOn : State :=
  { State.reset with pwr := { doms := List.replicate 21 { mode := .on }, inReset := false, pll := true } }
/-- The secure initiator of the witnesses: SUP (R329). -/
def tSup : Req := { init := .sup, prcSecure := false }
/-- The moment of the witnesses. -/
def tT : Time := { gt := 5 * 16777216 + 7, ft := 70000 }

/-! ### Well-formedness -/

/-- An address beyond BAR0 is no well-formed write. -/
theorem test_wf_regWrite : (Instr.regWrite { init := .pcie, prcSecure := false } 0x2000000 [0]).wellFormed = false := by decide

/-- A cell in its ranges, and one without. -/
def okCell : Cell := ⟨0, 0, 0, false, false, 0, 0, 0, false⟩
def badCell : Cell := { okCell with slot := 65536 }
/-- A placement in its ranges, and one without. -/
def okPlace : Placement := ⟨0, 0, [okCell], 0, 0, 0, 0⟩
def badPlace : Placement := { okPlace with node := 2 ^ 18 }
/-- Measurements of a mains cycle in their ranges, and with a frequency that GTB_QUAL cannot hold. -/
def okSense : Sense := ⟨0, 0, 0, 0, 0, 0, false, 0, 0⟩
def badSense : Sense := { okSense with freq := 131072 }
/-- A frame header in its ranges, and one without. -/
def okHdr : CscHdr := ⟨0, 0, 0, 0, false, [], false⟩
def badHdr : CscHdr := { okHdr with dst := 32 }
/-- A LINK command in its ranges, and one without. -/
def okLink : LinkCmd := ⟨0, 0, List.replicate 32 0⟩
def badLink : LinkCmd := { okLink with data := [] }
/-- A moment that no 64-bit grid time holds, and an access that claims a processor's secure context for PCIe. -/
def badT : Time := { gt := 2 ^ 64, ft := 0 }
def badRq : Req := { init := .pcie, prcSecure := true }

/-- The ranges of an operand's parts: one term outside each, and the ones within. -/
theorem test_wf_parts :
    badT.ok = false ∧ badRq.ok = false ∧ tT.ok = true ∧ tSup.ok = true ∧
    (CmdStep.write badRq).ok = false ∧ (CmdStep.run badT).ok = false ∧
    (SolveStep.write badRq).ok = false ∧ (SolveStep.run badT []).ok = false ∧ (SolveStep.run tT [badPlace]).ok = false ∧
    (FwdStep.write badRq).ok = false ∧ (FwdStep.priv true 0 (List.replicate 33 0)).ok = false ∧
    (FwdStep.run badT true []).ok = false ∧ (FwdStep.visit badT 0 []).ok = false ∧ (FwdStep.visit tT 4194305 []).ok = false ∧
    okCell.ok = true ∧ badCell.ok = false ∧ { okCell with sf := 8 }.ok = false ∧ { okCell with dir := 3 }.ok = false ∧
    { okCell with chofs := 64 }.ok = false ∧ { okCell with tpl := 16 }.ok = false ∧ { okCell with record := 65536 }.ok = false ∧
    okPlace.ok = true ∧ badPlace.ok = false ∧ { okPlace with record := 65536 }.ok = false ∧ { okPlace with cells := [badCell] }.ok = false ∧
    { okPlace with sw := 4 }.ok = false ∧ { okPlace with par := 4 }.ok = false ∧ { okPlace with dep := 5 }.ok = false ∧
    okSense.ok = true ∧ badSense.ok = false ∧ { okSense with thd := 1024 }.ok = false ∧ { okSense with amp := 16 }.ok = false ∧
    okLink.ok = true ∧ badLink.ok = false ∧ { okLink with node := 2 ^ 18 }.ok = false ∧ { okLink with tag := 256 }.ok = false ∧
    PrcWork.ok (.rpl none [okLink]) = true ∧ okHdr.inRange = true ∧ badHdr.inRange = false ∧ { okHdr with src := 32 }.inRange = false ∧
    { okHdr with lseq := 65536 }.inRange = false ∧ { okHdr with ackseq := 65536 }.inRange = false := by decide

/-! One ill-formed term for each check of `Instr.wellFormed`, in its order: each is refused. -/

theorem test_wf_refused_1 :
    ([.regWrite badRq 0 [0], .regWrite tSup (2 ^ 25) [0], .regWrite tSup 0 [], .setAliasWrite badRq 0 0,
     .setAliasWrite tSup (2 ^ 25) 0, .clearAliasWrite badRq 0 0, .clearAliasWrite tSup (2 ^ 25) 0, .toggleAliasWrite badRq 0 0,
     .toggleAliasWrite tSup (2 ^ 25) 0, .rcRead badRq 0 0, .rcRead tSup (2 ^ 25) 0, .rcRead tSup 0 4, .pwLand 24,
     .regAccessTimeout badRq 0 false 0 0, .regAccessTimeout tSup (2 ^ 25) false 0 0, .regAccessTimeout tSup 0 false 16 0,
     .regAccessTimeout tSup 0 false 0 (2 ^ 64), .commitGo badRq 0 0, .commitGo tSup 24 0, .commitGo tSup 0 256,
     .commitAbort badRq 0 0 false, .commitAbort tSup 24 0 false, .commitAbort tSup 0 256 false, .snapshot badRq 0,
     .snapshot tSup (2 ^ 64), .evtRearm badRq 0, .evtRearm tSup 65536, .msixUnmask (.unmask 16), .msixUnmask (.mask 16),
     .mainsZcEdge badT okSense, .mainsZcEdge tT badSense, .inputQualified badT 0 0 0 0 0 0, .inputQualified tT 16777216 0 0 0 0 0,
     .inputQualified tT 0 0 0 0 0 16, .inputLost badT 0 okSense, .inputLost tT (2 ^ 64) okSense, .inputLost tT 0 badSense,
     .phaseJumpConfirmed badT false 0, .slewDone badT, .stepApply badT, .holdoverSave badT 0 0, .holdoverSave tT (2 ^ 64) 0,
     .ptpSecondRollover badT 0, .ptpSecondRollover tT (2 ^ 48), .ppsEdge badT, .utcLoad badRq 0, .cmpArm badT tSup 0 0 0,
     .cmpArm tT badRq 0 0 0] : List Instr).all (fun i => !i.wellFormed) = true := by decide

theorem test_wf_refused_2 :
    ([.cmpArm tT tSup 8 0 0, .cmpArm tT tSup 0 4 0, .cmpDisarm badRq 0 0 0, .cmpDisarm tSup 8 0 0, .cmpDisarm tSup 0 4 0,
     .cmpFire badT 0, .cmpFire tT 8, .pulseArm badT tSup 0 0 0, .pulseArm tT badRq 0 0 0, .pulseArm tT tSup 8 0 0,
     .pulseArm tT tSup 0 4 0, .pulseEdge badT 0, .pulseEdge tT 8, .pulseWidthEnd ⟨badT, 0⟩, .pulseWidthEnd ⟨tT, 8⟩,
     .legstampRead badRq, .sysrefEdge 4 false, .linkLock badT 0 ⟨0, 0⟩ 0, .linkLock tT 4 ⟨0, 0⟩ 0, .linkLockTimeout 4,
     .proxyCmd badRq 0, .proxyComplete 256, .historyMarker badT 0 0 false, .historyMarker tT 4 0 false,
     .historyMarker tT 0 4097 false, .historyRead .sic 0 4 0 0, .historyRead .sic 0 0 (2 ^ 64) 0, .noiseFloorUpdate 4 [] false,
     .ccaRequest badT 0 .msq 0 0 1 0 ⟨false, false⟩, .ccaRequest tT 0 .msq 4 0 1 0 ⟨false, false⟩,
     .ccaRequest tT 0 .msq 0 128 1 0 ⟨false, false⟩, .ccaRequest tT 0 .msq 0 0 0 0 ⟨false, false⟩,
     .ccaRequest tT 0 .msq 0 0 626 0 ⟨false, false⟩, .txReserve badT .msq 0 0 0 0, .txReserve tT .msq 4 0 0 0,
     .txReserve tT .msq 0 128 0 0, .txReserve tT .msq 0 0 (2 ^ 64) 0, .sicJobStart badT, .sicJobResume badT 0, .refEntryExpire badT,
     .sicRqpop badRq, .preambleDetect badT 0 0 0 0 ⟨0, 0, 0, 0⟩ 0, .preambleDetect tT 512 0 0 0 ⟨0, 0, 0, 0⟩ 0,
     .preambleDetect tT 0 6 0 0 ⟨0, 0, 0, 0⟩ 0, .i3ShrDetect badT 0 0 0 ⟨0, 0, 0, 0⟩ 0, .i3ShrDetect tT 512 0 0 ⟨0, 0, 0, 0⟩ 0,
     .sfdFound 256 0 ⟨0, 0, 0, 0⟩, .sfdFound 0 (2 ^ 64) ⟨0, 0, 0, 0⟩] : List Instr).all (fun i => !i.wellFormed) = true := by decide

theorem test_wf_refused_3 :
    ([.sfdTimeout badT 0, .sfdTimeout tT 256, .cdcHeaderDecode badT 0 0 0 0 ⟨0, [], none, []⟩,
     .cdcHeaderDecode tT 256 0 0 0 ⟨0, [], none, []⟩, .cdcHeaderDecode tT 0 (2 ^ 24) 0 0 ⟨0, [], none, []⟩,
     .cdcHeaderDecode tT 0 0 (2 ^ 24) 0 ⟨0, [], none, []⟩, .lastPayloadSymbol 256, .cdcPayloadDecode badT 0 [] 0 ⟨0, [], none, []⟩,
     .cdcPayloadDecode tT 256 [] 0 ⟨0, [], none, []⟩, .i3FrameEnd badT 0 0 [] 0 ⟨0, [], none, []⟩,
     .i3FrameEnd tT 256 0 [] 0 ⟨0, [], none, []⟩, .i3FrameEnd tT 0 128 [] 0 ⟨0, [], none, []⟩,
     .laneFade badT 0 0 0 0 ⟨0, [], none, []⟩, .laneFade tT 256 0 0 0 ⟨0, [], none, []⟩, .laneBufferError badT 0,
     .laneBufferError tT 256, .retroEntryTaken badT 0, .retroCatchup 256, .mirrorPop badRq, .qmgAdmit 8 0 [] 0 0,
     .qmgAdmit 0 0 [] 24 0, .queuePush 65628 .none 0 none, .queuePush 0 .none (2 ^ 26) none, .queuePop 65628 .none, .qcmdRead badRq 0,
     .qcmdRead tSup (2 ^ 17), .qcmdWrite badRq 0, .qcmdWrite tSup (2 ^ 17), .qcmdFlush badRq 0, .qcmdFlush tSup (2 ^ 17),
     .qcmdDroprest badRq 0, .qcmdDroprest tSup (2 ^ 17), .qcmdClass badRq 0, .qcmdClass tSup (2 ^ 17), .swqPush badRq 0 0 none,
     .swqPush tSup 8 0 none, .swqPush tSup 0 (2 ^ 26) none, .swqPop badRq 0, .swqPop tSup 8, .ageCheckTick badT 0,
     .ageCheckTick tT 65628, .pktDeliver badRq false 0, .pktDeliver tSup false (2 ^ 26), .pktDrop badRq false 0 0,
     .pktDrop tSup false (2 ^ 26) 0, .pktDrop tSup false 0 16, .pktForward badRq false 0 0, .pktForward tSup false (2 ^ 26) 0] : List Instr).all (fun i => !i.wellFormed) = true := by decide

theorem test_wf_refused_4 :
    ([.pktForward tSup false 0 (2 ^ 17), .pktAlloc badRq false 0 [], .pktAlloc tSup false 64 [], .qmgRecordScanDone 65628,
     .kvtKum badRq false 0 0, .kvtKum tSup false 256 0, .kvtGenerate badRq false 0 0 0, .kvtGenerate tSup false (2 ^ 20) 0 0,
     .kvtGenerate tSup false 0 256 0, .kvtErase badRq false 0 0, .kvtErase tSup false (2 ^ 20) 0, .kvtErase tSup false 0 256,
     .kvtAttest badRq false 0 0 0, .kvtAttest tSup false (2 ^ 20) 0 0, .kvtAttest tSup false 0 256 0, .kvtInfo badRq false 0 0,
     .kvtInfo tSup false (2 ^ 20) 0, .kvtInfo tSup false 0 256, .kvtZeroise badRq false 0, .kvtZeroise tSup false 256,
     .counterBlockAdvance (2 ^ 20), .keyRequest .general (2 ^ 20) none, .keyRequest .general 0 (some []), .cryReseed badRq,
     .cryRngRead badRq, .cryJob (.drbg 0) (some (2 ^ 20)) false, .bgtCharge badT 0 .data 0, .bucketAdvance badT,
     .msqFrameReceive (2 ^ 64) 0, .nodeAckTimeout badT 0, .nodeAckTimeout tT 65536, .nbcmdRead badRq 0, .nbcmdRead tSup 65536,
     .nbcmdWrite badRq 0, .nbcmdWrite tSup 65536, .nbcmdFree badRq 0, .nbcmdFree tSup 65536, .supervisionTimeout badT 0,
     .supervisionTimeout tT 65536, .msqTxSelect badT okCell 0 0, .msqTxSelect tT badCell 0 0, .msqTxSelect tT okCell 0 65536,
     .expCellEnd badT okCell 0, .expCellEnd tT badCell 0, .searchSegment badT 0 [], .ccaBackoffExpire badT 0, .linkRecordAge badT 0,
     .statWindowEnd badT] : List Instr).all (fun i => !i.wellFormed) = true := by decide

theorem test_wf_refused_5 :
    ([.slvSolve (.run badT []) 0 0, .slvSolve (.run tT []) (2 ^ 18) 0, .slvSolve (.run tT []) 0 256, .solveComplete badT [] [] [],
     .solveComplete tT [badPlace] [] [], .solveComplete tT [] [badPlace] [], .solveComplete tT [] [] [badPlace],
     .slvJoin (.run badT) 0 0 0 [], .slvJoin (.run tT) (2 ^ 18) 0 0 [], .slvJoin (.run tT) 0 256 0 [],
     .slvJoin (.run tT) 0 0 0 [badPlace], .slvLeave (.run badT) 0 0 0, .slvLeave (.run tT) (2 ^ 18) 0 0, .slvLeave (.run tT) 0 256 0,
     .slvDemand (.run badT) 0 0 0, .slvDemand (.run tT) (2 ^ 18) 0 0, .slvDemand (.run tT) 0 256 0, .slvLink (.run badT) 0 0 0,
     .slvLink (.run tT) (2 ^ 18) 0 0, .slvLink (.run tT) 0 256 0, .slvReaddem (.run badT) 0 0 0, .slvReaddem (.run tT) (2 ^ 18) 0 0,
     .slvReaddem (.run tT) 0 256 0, .slvReadlink (.run badT) 0 0 0, .slvReadlink (.run tT) (2 ^ 18) 0 0,
     .slvReadlink (.run tT) 0 256 0, .slvAbort (.run badT) 0 0 0, .slvAbort (.run tT) (2 ^ 18) 0 0, .slvAbort (.run tT) 0 256 0,
     .solvePeriodTimer badT, .cellsConfirmTimeout badT 0 0, .cellsConfirmTimeout tT (2 ^ 18) 0, .cellsConfirmTimeout tT 0 256,
     .slvRqpop badRq, .slvShqpop badRq, .fwdLookup badT 0 0 0 0 [], .fwdLookup tT (2 ^ 26) 0 0 0 [], .fwdLookup tT 0 (2 ^ 128) 0 0 [],
     .fwdLookup tT 0 0 (2 ^ 128) 0 [], .fwdLookup tT 0 0 0 64 [], .learnEventApply badT [], .sweepVisit badT 0 [],
     .sweepVisit tT 4194304 [], .filterScrubVisit 65536 none, .fwdPerpop badRq, .fwdCmdRead (.run badT false []) 0 0,
     .fwdCmdRead (.run tT false []) 4 0, .fwdCmdRead (.run tT false []) 0 256] : List Instr).all (fun i => !i.wellFormed) = true := by decide

theorem test_wf_refused_6 :
    ([.fwdCmdWrite (.run badT false []) 0 0, .fwdCmdWrite (.run tT false []) 4 0, .fwdCmdWrite (.run tT false []) 0 256,
     .fwdCmdDelete (.run badT false []) 0 0, .fwdCmdDelete (.run tT false []) 4 0, .fwdCmdDelete (.run tT false []) 0 256,
     .fwdCmdLookup (.run badT false []) 0 0, .fwdCmdLookup (.run tT false []) 4 0, .fwdCmdLookup (.run tT false []) 0 256,
     .fwdCmdUnpin (.run badT false []) 0 0, .fwdCmdUnpin (.run tT false []) 4 0, .fwdCmdUnpin (.run tT false []) 0 256,
     .fwdCmdWalk (.run badT false []) 0 0, .fwdCmdWalk (.run tT false []) 4 0, .fwdCmdWalk (.run tT false []) 0 256,
     .fwdCmdFlush (.run badT false []) 0 0, .fwdCmdFlush (.run tT false []) 4 0, .fwdCmdFlush (.run tT false []) 0 256,
     .lxMessageReceive badT ⟨[], []⟩, .pinReleaseScan badT, .flushVisitComplete badT [], .prcPacket badT 0 ⟨0, false, []⟩ .consume,
     .prcPacket tT 16 ⟨0, false, []⟩ .consume, .prcPacket tT 0 ⟨4, false, []⟩ .consume,
     .prcPacket tT 0 ⟨0, false, [⟨8, 0, false⟩]⟩ .consume, .prcPacket tT 0 ⟨0, false, []⟩ (.rpl none [badLink]),
     .trickleTimer badT ⟨[], 0, false, 0, 0, 0, 0, 0, 0, 0, []⟩, .rplRepair badRq, .cscBlockLock 4, .cscLockLoss badT 0,
     .cscLockLoss tT 4, .cscRetxTimeout badT 0, .cscRetxTimeout tT 4, .cscForeignTimeout badT 0, .cscForeignTimeout tT 4,
     .cscHello badT 0 ⟨0, 0, 0, 0, 0, 0, 0, 0, [], false, 0⟩, .cscHello tT 4 ⟨0, 0, 0, 0, 0, 0, 0, 0, [], false, 0⟩,
     .cscData badT 0 okHdr 0 0 [], .cscData tT 4 okHdr 0 0 [], .cscData tT 0 badHdr 0 0 [], .cscData tT 0 okHdr 8 0 [],
     .cscData tT 0 okHdr 0 (2 ^ 48) [], .cscAck badT 0 okHdr, .cscAck tT 4 okHdr, .cscAck tT 0 badHdr, .cscCredit badT 0 okHdr ⟨0, 0⟩,
     .cscCredit tT 4 okHdr ⟨0, 0⟩, .cscCredit tT 0 badHdr ⟨0, 0⟩] : List Instr).all (fun i => !i.wellFormed) = true := by decide

theorem test_wf_refused_7 :
    ([.cscCredit tT 0 okHdr ⟨2 ^ 32, 0⟩, .cscLsa badT 0 okHdr 0 ⟨0, 0, []⟩, .cscLsa tT 4 okHdr 0 ⟨0, 0, []⟩,
     .cscLsa tT 0 badHdr 0 ⟨0, 0, []⟩, .cscLsa tT 0 okHdr 32 ⟨0, 0, []⟩,
     .cscStatus badT 0 okHdr ⟨0, 0, 0, 0, 0, false, none, 0, 0, false⟩,
     .cscStatus tT 4 okHdr ⟨0, 0, 0, 0, 0, false, none, 0, 0, false⟩,
     .cscStatus tT 0 badHdr ⟨0, 0, 0, 0, 0, false, none, 0, 0, false⟩, .cscTime badT 0 okHdr 0 0 0 0 false 0,
     .cscTime tT 4 okHdr 0 0 0 0 false 0, .cscTime tT 0 badHdr 0 0 0 0 false 0, .cscTime tT 0 okHdr (2 ^ 64) 0 0 0 false 0,
     .cscTime tT 0 okHdr 0 (2 ^ 64) 0 0 false 0, .cscTime tT 0 okHdr 0 0 (2 ^ 64) 0 false 0,
     .cscTime tT 0 okHdr 0 0 0 (2 ^ 64) false 0, .cscTime tT 0 okHdr 0 0 0 0 false (2 ^ 64), .cscLearn badT 0 okHdr [],
     .cscLearn tT 4 okHdr [], .cscLearn tT 0 badHdr [], .cscSched badT 0 okHdr ⟨.mirror 0 true [] false, []⟩,
     .cscSched tT 4 okHdr ⟨.mirror 0 true [] false, []⟩, .cscSched tT 0 badHdr ⟨.mirror 0 true [] false, []⟩,
     .cscSched tT 0 okHdr ⟨.mirror 0 true [] false, [badPlace]⟩, .cscHome badT 0 okHdr 0 0, .cscHome tT 4 okHdr 0 0,
     .cscHome tT 0 badHdr 0 0, .cscHome tT 0 okHdr (2 ^ 18) 0, .cscHome tT 0 okHdr 0 16, .cscAddr badT 0 okHdr (.request 0),
     .cscAddr tT 4 okHdr (.request 0), .cscAddr tT 0 badHdr (.request 0), .cscEchoFrame badT 0 okHdr false 0 0,
     .cscEchoFrame tT 4 okHdr false 0 0, .cscEchoFrame tT 0 badHdr false 0 0, .cscEchoFrame tT 0 okHdr false 256 0, .lsaPeriodic badT,
     .statusPeriodic badT, .timePeriodic badT, .presenceTimeout badT 0, .presenceTimeout tT 32, .quorumLossTimeout badT,
     .startListenEnd badT, .tempAddrLapse 32, .rerouteHoldExpire badT 0, .rerouteHoldExpire tT (2 ^ 26), .cscHandback badRq 0 0,
     .cscHandback tSup 32 0, .cscHandback tSup 0 256] : List Instr).all (fun i => !i.wellFormed) = true := by decide

theorem test_wf_refused_8 :
    ([.cscEcho badRq 0 0, .cscEcho tSup 32 0, .cscEcho tSup 0 256, .cscFloodLsa badRq 0 0, .cscFloodLsa tSup 32 0,
     .cscFloodLsa tSup 0 256, .lspiError 4, .lspiWrite badT 0 0 [], .lspiWrite tT 4 0 [], .lspiWrite tT 0 128 [],
     .i3RunStart badT 0 false false, .i3RunStart tT 4 false false, .i3RunStop badT 0 false false, .i3RunStop tT 4 false false,
     .i3SoftReset badT 0, .i3SoftReset tT 4, .intstatRead badT 0, .intstatRead tT 4, .rxfifoRead badT 0 0, .rxfifoRead tT 4 0,
     .txfifoWrite badT 0 [], .txfifoWrite tT 4 [], .linkWrite badT 0, .linkWrite tT 4, .linkRead badT 0, .linkRead tT 4,
     .linkClear badT 0, .linkClear tT 4, .linkClearAll badT 0, .linkClearAll tT 4, .i3SlotBoundary badT 0, .i3SlotBoundary tT 4,
     .i3FrameReceive badT 0, .i3Rxdone badT 0, .i3Rxdone tT 4, .i3TxSelect badT 0, .i3TxSelect tT 4, .i3AckTimeout badT 0,
     .i3AckTimeout tT 4, .pcieLinkChange badT false 0 0 [], .pcieLinkChange tT false 8 0 [], .pcieLinkChange tT false 0 4 [],
     .rxringTailWrite badRq 0 0, .rxringTailWrite tSup 16 0, .txringTailWrite badRq 0 0, .txringTailWrite tSup 16 0,
     .dmaDescriptorDone badT false 0 0 0 0 [], .dmaDescriptorDone tT false 16 0 0 0 []] : List Instr).all (fun i => !i.wellFormed) = true := by decide

theorem test_wf_refused_9 :
    ([.dmaDescriptorDone tT false 0 2048 0 0 [], .dmaDescriptorDone tT false 0 0 65536 0 [],
     .dmaDescriptorDone tT false 0 0 0 65536 [], .ethFrameReceive badT 0 ⟨0, none, none, .ipv6, []⟩,
     .ethFrameReceive tT 2 ⟨0, none, none, .ipv6, []⟩, .ethTxDone badT 0, .ethTxDone tT 2, .ethLinkChange badT 0 false false false,
     .ethLinkChange tT 2 false false false, .protectionSwitch badT, .protectionRestore badT, .nexthopApply badRq 0 0,
     .nexthopApply tSup 1024 0, .ptpStep badT tSup 0, .ptpStep tT badRq 0, .hifTspop badRq 0, .gpioEdge 32 false,
     .linkDown badT 0 ⟨0, false⟩, .linkDown tT 4 ⟨0, false⟩, .dclkCheckWindow badT 0 0 0, .dclkCheckWindow tT 4 0 0,
     .historyReadDone badT 0, .ccaResult badT 0 0 [], .ccaResult tT 0 4 [], .ccaResult tT 0 0 [2 ^ 32 + 1], .streamCancel badT 0,
     .streamRelease badT 0, .streamAbort badT 0 0, .streamEnd badT 0 0, .streamEnd tT 0 (2 ^ 64), .scrubRead badT .clean 0 0 0 false,
     .scrubRead tT .clean 2 0 0 false, .scrubRead tT .clean 0 16 0 false, .updLoad badRq 0, .updLoad tSup 256,
     .updVerify (.run badT) 0, .updVerify (.run tT) 256, .updWrite badRq 0, .updWrite tSup 256, .updActivate badRq 0,
     .updActivate tSup 256, .quiesceComplete badT 0, .trialWindowEnd badT, .updAbort badRq 0, .updAbort tSup 256, .supDivergence badT,
     .supWatchdogExpiry badT, .supWdogKick badT tSup 0] : List Instr).all (fun i => !i.wellFormed) = true := by decide

theorem test_wf_refused_10 :
    ([.supWdogKick tT badRq 0, .supResume badT, .prcWatchdogExpiry badT 0 false [], .prcWatchdogExpiry tT 4 false [],
     .prcRestartDone 4, .supNotice badT .slv, .supLogpop badRq, .refclkLoss badT 0, .refclkLoss tT (2 ^ 64), .refclkReturn badT 0,
     .refclkReturn tT (2 ^ 64), .debugHalt badT false 0, .debugHalt tT false 4, .debugHaltEnd badT false 0, .debugHaltEnd tT false 4,
     .cfgCheckCopy badT, .cfgSealgenResume badT, .cfgApply badT, .cfgDramRecords badT, .cfgReload badT tSup, .cfgReload tT badRq,
     .cfgCheck badRq 0, .cfgCheck tSup 2, .firmwareBankRead badT, .clkselReq badRq, .memTrainingComplete badT,
     .memTrainingFail badT false false, .retrain badRq, .enterSl1 badT, .enterSl2 badT, .deviceStart badT, .coreSupplyReset ⟨8, 0⟩,
     .coreSupplyReset ⟨0, 4⟩, .ioSupplyReset ⟨8, 0⟩, .ioSupplyReset ⟨0, 4⟩, .softwareReset badRq 0, .softwareReset tSup 65536,
     .pwrDomreqWrite badT tSup false 0, .pwrDomreqWrite tT badRq false 0, .domainDrainDone 21, .domainEntryComplete badT 0,
     .domainEntryComplete tT 21, .domainExitComplete badT 0 [], .domainExitComplete tT 21 [], .modeDeepret badT tSup 0,
     .modeDeepret tT badRq 0, .modeDeepret tT tSup 65536, .modeAononly badT tSup 0] : List Instr).all (fun i => !i.wellFormed) = true := by decide

theorem test_wf_refused_11 :
    ([.modeAononly tT badRq 0, .modeAononly tT tSup 65536, .modeEntryComplete badT 0, .modeEntryComplete tT (2 ^ 64),
     .wakeGpio 32 false, .deepretExitComplete badT [], .aononlyRailsReady badT, .dipEnd 8 0, .dipEnd 0 4, .xspiRead badRq,
     .xspiErase badRq, .xspiProgram badRq, .tstStart badT tSup 0, .tstStart tT badRq 0, .tstPhaseDone badT ⟨0, []⟩,
     .commitActivate 24 0, .commitActivate 0 256, .oneSecondWindow badT, .slotBoundary badT, .smbSetaddr none (2 ^ 32)] : List Instr).all (fun i => !i.wellFormed) = true := by decide

theorem test_wf_refused_left (n : Nat) (h : 16777216 < n) :
    (Instr.updWriteDone (some (List.replicate n 0))).wellFormed = false := by
  simp only [Instr.wellFormed, Option.all_some, List.length_replicate]
  exact Bool.eq_false_iff.mpr (fun hb => absurd (Nat.le_of_ble_eq_true hb) (Nat.not_le_of_lt h))

/-! ### Lemmas of the witnesses -/

/-- A table of many entries under key 0 holds nothing under key 5. -/
theorem find_replicate (k n : Nat) (h : k ≠ 0 := by decide) : Tab.find (List.replicate n ((0, []) : Nat × List Nat)) k = none := by
  induction n with
  | zero => rfl
  | succ n ih => simp [List.replicate_succ, Tab.find, h.symm, ih]

/-- A placement of 131,073 new cells exceeds the store. -/
theorem many_cells (s : State) (c : Cell) (p : Placement) (h : s.cellsDue.contains c = false) :
    ∃ (v : State) (p : Placement), v.cellRoom p = false :=
  ⟨s, { p with cells := List.replicate 131073 c }, by
    have hn : s.newCells { p with cells := List.replicate 131073 c } = 131073 := by
      simp only [State.newCells, List.filter_replicate, h, Bool.not_false, if_pos, List.length_replicate]
    rw [State.cellRoom, hn]
    exact Bool.eq_false_iff.mpr (fun hb => absurd (Nat.le_of_ble_eq_true hb) (by omega))⟩

/-- Codewords `lo` to `lo + n - 1` all lie more than three bits from 0x00F00F. -/
def farFrom (lo n : Nat) : Bool := (List.range' lo n).all (fun m => Nat.blt 3 (popc 24 (golay24 m ^^^ 0x00F00F)))

theorem far_0 : farFrom 0 1024 = true := by decide +kernel
theorem far_1 : farFrom 1024 1024 = true := by decide +kernel
theorem far_2 : farFrom 2048 1024 = true := by decide +kernel
theorem far_3 : farFrom 3072 1024 = true := by decide +kernel

/-- No codeword lies within three bits of 0x00F00F. -/
theorem golayDecode_far : golayDecode 0x00F00F = none := by
  have h : ∀ m ∈ List.range 4096, 3 < popc 24 (golay24 m ^^^ 0x00F00F) := by
    intro m hm
    have hm : m < 4096 := by simpa using hm
    have key : ∀ lo, farFrom lo 1024 = true → lo ≤ m → m < lo + 1024 → 3 < popc 24 (golay24 m ^^^ 0x00F00F) := by
      intro lo hf h1 h2
      have := (List.all_eq_true.mp hf) m (by simp [List.mem_range'_1, h1, h2])
      simpa using this
    by_cases h1 : m < 1024
    · exact key 0 far_0 (by omega) (by omega)
    by_cases h2 : m < 2048
    · exact key 1024 far_1 (by omega) (by omega)
    by_cases h3 : m < 3072
    · exact key 2048 far_2 (by omega) (by omega)
    · exact key 3072 far_3 (by omega) (by omega)
  unfold golayDecode
  rw [List.findSome?_eq_none_iff]
  intro m hm
  simp only [Nat.not_le.mpr (h m hm), if_false]

/-- A header whose first word is no codeword's neighbour fails the Golay check. -/
theorem hdrCheck_far : hdrCheck 3 0x00F00F (golay24 0) = .golayFail := by
  unfold hdrCheck
  rw [golayDecode_far]


/-! ### Witnesses: the step, the register model, GTB and RFP -/

def oRd (p : Nat) : RegD := (regDesc p).getD ⟨0, [], 0, 0, []⟩
def oSt : Staged := ⟨4, 3, [], 9⟩
def oGtb (n : Nat) : State := tOn.setFld F.GTB_STATUS_STATE n
def oGood (s : State) : State := { s with gtb := { s.gtb with good := 50 } }
def oBad : Sense := ⟨1001, 0, 50000, 0, 100, 100, false, 1000, 20000⟩
def oCmp : State := { tOn.setFlag (F.GTB_CMPn_ARM 7) true with gtb := { tOn.gtb with cmpT := List.replicate 8 5 } }
def oPls : State :=
  { (tOn.setFlag (F.GTB_PLSn_ARM 3) true).setReg (Reg.GTB_PLSnPER 3) 100 with
    gtb := { tOn.gtb with pulses := listSet tOn.gtb.pulses 3 { (tOn.gtb.pulses.getD 3 {}) with next := some 7 } } }
def oLk (n : Nat) : State := tOn.setFld (F.RFPn_LSTAT_STATE 3) n
def oPt (p : RfpPort) (s : State) : State := { s with rfp := { s.rfp with ports := [{}, {}, {}, p] } }
def oPx (b : Bool) : Proxy := ⟨1, b, 5, 6, 0xFFFFFFFF, true⟩
def oPp (b : Bool) : State := { tOn with rfp := { tOn.rfp with proxy := some (oPx b) } }
def oRead : HistRead := ⟨4, .dmx, 1, 3, 0, 100, 0⟩
def oNf : State := oPt { nf := [(127, List.replicate 16 100)] } ((oLk 4).setFlag (F.RFPn_SLk_EN 3 127) true)
def oCca : Cca := ⟨9, .bgt, 5, 8, -80, -70, true, true, false, false, false, false, 5, 9⟩
def oSl : State :=
  (((((oLk 4).setFlag (F.RFPn_SLk_EN 3 5) true).setFld (F.RFPn_RXCTR_KHZ 3) 863100).setReg (Reg.RFPn_TXPROFj 3 0) 863100).setFld
    (F.RFPn_TXFS_FS 3) 4000).setFld (F.RFPn_TX_MAXTX 3) 4
def oStr (b : Bool) (us : TxUser) : Stream := ⟨6, us, 5, 5 * 16777216 - 90000, 100, 0, b, 0, 0⟩
def oUp : State := oSl.setFld F.CHIP_START_LEVEL 2
def oUpL : State := tOn.setFld F.CHIP_START_LEVEL 1
def oS (b : Bool) (us : TxUser) : State := oPt { streams := [oStr b us] } oSl
def oTx (i : Option Nat) : MsqTx := ⟨.beacon, 3, 5, 5, 9, 10, ⟨10, 0, 0, 0⟩, [], false, 0, 0, i⟩
def oST (i : Option Nat) : State := { oS true .msq with msq := { (oS true .msq).msq with tx := [(6, oTx i)] } }
def oSTe (i : Option Nat) : State := (((oST i).at tT).settle 6 none true).endStream 3 6

theorem test_met_StepRunsFront :
    ∃ (s : State), s.pending = [] :=
  ⟨tOn, by decide⟩

theorem test_met_StepKeepsForm :
    ∃ (s : State), s.wf = true :=
  ⟨{ tOn with pending := [.utcStale] }, by decide⟩

theorem test_met_ExecKeepsQueue :
    ∃ (s : State), s.wf = true :=
  ⟨{ tOn with pending := [.utcStale] }, by decide⟩

theorem test_met_FusesNeverUnburned :
    ∃ (s : State) (t : State), s.wf = true ∧ step s = .next t :=
  ⟨tOn, tOn, by decide, rfl⟩

theorem test_met_RegWriteReplaces :
    ∃ (s : State) (rq : Req) (p : Nat) (v : Word) (d : RegD), ((unitOf p = 6 ∨ unitOf p = 8)) ∧ viewOf p = 0 ∧ p % 4 = 0 ∧ p % 0x10000 ≠
      0xFFF0 ∧ regDesc p = some d ∧ d.writable = true ∧ d.has .pw = false ∧ rq.init ≠ .cfg ∧ (v ^^^ s.reg p) &&& d.mask [.wl] = 0 ∧
      s.barred rq p (some v) = none :=
  ⟨tOn, tSup, Reg.CDC_THR, 5, oRd Reg.CDC_THR, by decide⟩

theorem test_met_AliasWrites :
    (∃ (s : State) (rq : Req) (p : Nat) (d : RegD), (unitOf p = 6 ∨ unitOf p = 8) ∧ viewOf p = 0 ∧ p % 4 = 0 ∧ regDesc p = some d ∧
      d.writable = true ∧ s.barred rq (p + 0x10000) none = none) ∧
    (∃ (s : State) (rq : Req) (p : Nat) (d : RegD), (unitOf p = 6 ∨ unitOf p = 8) ∧ viewOf p = 0 ∧ p % 4 = 0 ∧ regDesc p = some d ∧
      d.writable = true ∧ s.barred rq (p + 0x20000) none = none) ∧
    (∃ (s : State) (rq : Req) (p : Nat) (d : RegD), (unitOf p = 6 ∨ unitOf p = 8) ∧ viewOf p = 0 ∧ p % 4 = 0 ∧ regDesc p = some d ∧
      d.writable = true ∧ s.barred rq (p + 0x30000) none = none) :=
  ⟨⟨tOn, tSup, Reg.CDC_THR, oRd Reg.CDC_THR, by decide⟩,
   ⟨tOn, tSup, Reg.CDC_THR, oRd Reg.CDC_THR, by decide⟩,
   ⟨tOn, tSup, Reg.CDC_THR, oRd Reg.CDC_THR, by decide⟩⟩

theorem test_met_RecordsReadAndTimeout :
    (∃ (s : State) (rq : Req), s.barred rq Reg.EVT_ACCFLT none = none) ∧
    (∃ (s : State), s.rfp.proxy = none ∧ s.rfp.convWait = []) ∧
    (∃ (s : State) (rq : Req) (a : Nat), s.sysOn ∧ (s.secureReq rq && s.unitSecure (unitOf a)) = false ∧ s.on F.EVT_ACCFLT_VALID = false
      ∧ s.sup.fs ≠ .restart ∧ s.sup.halted = false) :=
  ⟨⟨tOn, tSup, by decide⟩,
   ⟨tOn, by decide⟩,
   ⟨tOn, { init := .pcie, prcSecure := false }, 0x300010, by decide⟩⟩

theorem test_met_CommitGroups :
    (∃ (s : State) (rq : Req) (u : Nat) (g : Nat), s.barred rq (commitReg u) (some (BitVec.ofNat 32 (g % 256 + 256))) = none) ∧
    (∃ (s : State) (rq : Req) (u : Nat) (g : Nat) (go : Bool), s.barred rq (commitReg u) (some (BitVec.ofNat 32 (g % 256 + 256 * b2n go +
      512))) = none) ∧
    (∃ (s : State) (u : Nat) (g : Nat), u = 7 ∧ bit g 2 = true ∧ ((∀ x ∈ s.staged, ¬(x.unit = 7 ∧ x.grp = 2)))) ∧
    (∃ (s : State) (u : Nat) (g : Nat), (u ≠ 7 ∨ bit g 2 = false ∨ (∃ x ∈ s.staged, x.unit = 7 ∧ x.grp = 2))) ∧
    (∃ (u : Nat) (g : Nat), groupRegs u g ≠ []) ∧
    (∃ (s : State) (u : Nat) (g : Nat), s.staged.find? (fun x => x.unit == u && x.grp == g) = none) ∧
    (∃ (s : State) (u : Nat) (g : Nat) (st : Staged), s.staged.find? (fun x => x.unit == u && x.grp == g) = some st ∧ s.commitOk st =
      true) ∧
    (∃ (s : State) (u : Nat) (g : Nat) (st : Staged), s.staged.find? (fun x => x.unit == u && x.grp == g) = some st ∧ s.commitOk st =
      false) :=
  ⟨⟨tOn, tSup, 4, 3, by decide⟩,
   ⟨tOn, tSup, 4, 3, true, by decide⟩,
   ⟨tOn, 7, 4, by decide⟩,
   ⟨tOn, 4, 3, by decide⟩,
   ⟨2, 0, by decide⟩,
   ⟨tOn, 2, 0, by decide⟩,
   ⟨{ tOn with staged := [⟨2, 0, [], 9⟩] }, 2, 0, ⟨2, 0, [], 9⟩, by decide⟩,
   ⟨{ tOn with staged := [⟨4, 3, [(Reg.DMX_GgTHR 3, 0)], 9⟩] }, 4, 3, ⟨4, 3, [(Reg.DMX_GgTHR 3, 0)], 9⟩, by decide⟩⟩

theorem test_met_SnapshotAndMessages :
    (∃ (s : State) (rq : Req), s.barred rq Reg.CHIP_SNAP (some 1) = none) ∧
    (∃ (s : State) (rq : Req) (v : Nat), s.barred rq Reg.EVT_REARM (some (BitVec.ofNat 32 (v % 65536))) = none) ∧
    (∃ (v : Nat), v < 16) :=
  ⟨⟨tOn, tSup, by decide⟩,
   ⟨{ tOn with evt := { tOn.evt with msixEnabled := true, msixMask := 2 } }, tSup, 3, by decide⟩,
   ⟨15, by decide⟩⟩

theorem test_met_SmbusCommands :
    (∃ (s : State) (pec : Option Bool), s.smbOk pec = true) ∧
    (∃ (s : State) (pec : Option Bool), s.smbOk pec = true) ∧
    (∃ (s : State) (pec : Option Bool), s.smbOk pec = true ∧ s.hif.smbAddr % 4 = 0) ∧
    (∃ (s : State), s.sysOn) :=
  ⟨⟨tOn, some true, by decide⟩,
   ⟨tOn, some true, by decide⟩,
   ⟨tOn, some true, by decide⟩,
   ⟨tOn, by decide⟩⟩

theorem test_met_GtbTimeStates :
    (∃ (s : State), s.live 1 = true ∧ s.fld F.GTB_CFG_SRC ≠ 3 ∧ s.gtbState = 0 ∧ 50 ≤ s.gtb.good) ∧
    (∃ (s : State) (t : Time) (anchor : Nat) (peer : Nat) (freq : Nat) (n : Nat) (phase : Nat), s.live 1 = true ∧ s.fld F.GTB_CFG_SRC ≠ 3
      ∧ s.gtbState = 2 ∧ 50 ≤ s.gtb.good ∧ (s.at t).refCycles anchor peer = some n ∧ cycleUnits < (gtDiff (n * cycleUnits + s.l1Phase
      (phase + nsToGt (s.fld F.GTB_SENSEDLY_NS) freq)) t.gt).natAbs * s.spc ∧ within50ns (gtDiff (n * cycleUnits + s.l1Phase (phase +
      nsToGt (s.fld F.GTB_SENSEDLY_NS) freq)) t.gt) freq = false) ∧
    (∃ (s : State) (m : Sense), s.live 1 = true ∧ s.fld F.GTB_CFG_SRC ≠ 3 ∧ s.badSense m = true ∧ 20000 ≤ m.held ∧ s.gtbState = 1 ∧
      s.gtb.anchorValid = false) ∧
    (∃ (s : State), s.live 1 = true ∧ s.gtbState = 1) ∧
    (∃ (s : State) (t : Time), s.live 1 = true ∧ s.gtbState = 3 ∧ within50ns (s.at t).slewLeft s.mainsFreq = false) ∧
    (∃ (s : State) (t : Time), s.live 1 = true ∧ s.gtbState = 3 ∧ within50ns (s.at t).slewLeft s.mainsFreq = true) :=
  ⟨⟨oGood tOn, by decide⟩,
   ⟨{ oGood (oGtb 2) with gtb := { (oGood (oGtb 2)).gtb with anchorValid := true } }, tT, 9, 9, 50000, 9, 5, by decide⟩,
   ⟨oGtb 1, oBad, by decide⟩,
   ⟨oGtb 1, by decide⟩,
   ⟨{ oGtb 3 with gtb := { (oGtb 3).gtb with e := 16777216, slewFt := 69999 } }, tT, by decide⟩,
   ⟨oGtb 3, tT, by decide⟩⟩

theorem test_met_GtbMainsAndUtc :
    (∃ (s : State) (t : Time) (m : Sense) (refcnt : Nat) (n : Nat) (k : Nat) (d : Nat) (b : Bool) (e : Int) (p : PulseEnd) (x : LxRx) (l
      : List (Nat × List Nat)) (i : Instr), (d, i) ∈ [(1, Instr.mainsZcEdge t m), (1, .senseDisagree), (1, .inputLost t refcnt m), (1,
      .phaseJumpConfirmed t b e), (1, .slewDone t), (1, .holdoverSave t refcnt k), (1, .ptpSecondRollover t k), (1, .ppsEdge t), (1,
      .utcStale), (1, .cmpFire t n), (1, .pulseEdge t n), (1, .pulseWidthEnd p), (1, .mainsThdHigh k), (1, .oneSecondWindow t), (1,
      .slotBoundary t), (1, .statWindowEnd t), (1, .lxMessageReceive t x), (10 + n, .historyMarker t n k b), (10 + n, .noiseFloorUpdate n
      l b), (17, .historyWindowEnd k)] ∧ s.live d = false) ∧
    (∃ (s : State), s.live 1 = false) ∧
    (∃ (s : State), s.live 1 = true ∧ s.fld F.GTB_CFG_SRC ≠ 3 ∧ s.gtb.lastZc = none) ∧
    (∃ (s : State) (m : Sense), s.live 1 = true ∧ (s.fld F.GTB_CFG_SRC = 1 ∨ s.fld F.GTB_CFG_SRC = 2) ∧ s.gtb.lastZc.isSome = true ∧
      m.since * 4 * s.nomFreq < 10 ^ 12) ∧
    (∃ (s : State), s.live 1 = true ∧ s.fld F.GTB_CFG_SRC = 2 ∧ s.sysOn) ∧
    (∃ (s : State) (thd : Nat), s.live 1 = true ∧ (s.fld F.GTB_CFG_SRC = 0 ∨ s.fld F.GTB_CFG_SRC = 2) ∧ thd ≤ 80) ∧
    (∃ (s : State) (thd : Nat), s.live 1 = true ∧ (s.fld F.GTB_CFG_SRC = 0 ∨ s.fld F.GTB_CFG_SRC = 2) ∧ 80 < thd ∧ s.on F.GTB_QUAL_DIST =
      false) ∧
    (∃ (s : State), s.live 1 = true ∧ s.gtValid = true) ∧
    (∃ (s : State) (t : Time) (sec : Nat), s.live 1 = true ∧ s.fld F.GTB_UTCCFG_SRC = 1 ∧ sec = ((s.at t).ptpNow + 500000000) /
      1000000000) ∧
    (∃ (s : State), s.live 1 = true ∧ s.fld F.GTB_UTCCFG_SRC = 2 ∧ s.gtb.utcLoad = true) ∧
    (∃ (s : State) (rq : Req) (v : Word), s.barred rq Reg.GTB_UTCCFG (some v) = none ∧ F.GTB_UTCCFG_LOAD.ext v = 1) ∧
    (∃ (s : State), s.live 1 = true ∧ s.on F.GTB_UTCSTAT_STALE = false) :=
  ⟨⟨{ tOn with pwr := {} }, tT, oBad, 5, 2, 3, 1, true, 7, ⟨tT, 0⟩, ⟨[], []⟩, [], .ppsEdge tT, by decide⟩,
   ⟨{ tOn with pwr := {} }, by decide⟩,
   ⟨oGood (tOn.setFld F.GTB_CFG_SRC 2), by decide⟩,
   ⟨{ tOn.setFld F.GTB_CFG_SRC 2 with gtb := { tOn.gtb with lastZc := some 5 } }, oBad, by decide⟩,
   ⟨tOn.setFld F.GTB_CFG_SRC 2, by decide⟩,
   ⟨tOn.setFlag F.GTB_QUAL_DIST true, 80, by decide⟩,
   ⟨tOn, 2000, by decide⟩,
   ⟨(oGtb 2).setFlag F.GTB_STATUS_VALID true, by decide⟩,
   ⟨tOn.setFld F.GTB_UTCCFG_SRC 1, tT, ((tOn.at tT).ptpNow + 500000000) / 1000000000, by decide⟩,
   ⟨{ tOn.setFld F.GTB_UTCCFG_SRC 2 with gtb := { tOn.gtb with utcLoad := true } }, by decide⟩,
   ⟨tOn, tSup, F.GTB_UTCCFG_LOAD.ins 0 1, by decide⟩,
   ⟨tOn, by decide⟩⟩

theorem test_met_GtbComparesAndPulses :
    (∃ (s : State) (t : Time) (rq : Req) (n : Nat) (view : Nat) (v : Word), n < 8 ∧ view < 4 ∧ (s.at t).barred rq (Reg.GTB_CMPn n) (some
      v) = none ∧ writesArm view v (s.on (F.GTB_CMPn_ARM n)) = some true) ∧
    (∃ (n : Nat), n < 8) ∧
    (∃ (s : State) (rq : Req) (n : Nat) (view : Nat) (v : Word), n < 8 ∧ view < 4 ∧ s.barred rq (Reg.GTB_CMPn n) (some v) = none ∧
      writesArm view v (s.on (F.GTB_CMPn_ARM n)) = some false) ∧
    (∃ (s : State) (t : Time) (n : Nat), s.live 1 = true ∧ n < 8 ∧ s.on (F.GTB_CMPn_ARM n) = true ∧ (s.at t).cmpReached n = true) ∧
    (∃ (s : State) (t : Time) (rq : Req) (n : Nat) (view : Nat) (v : Word), n < 8 ∧ view < 4 ∧ (s.at t).barred rq (Reg.GTB_PLSn n) (some
      v) = none ∧ writesArm view v (s.on (F.GTB_PLSn_ARM n)) = some true) ∧
    (∃ (n : Nat), n < 8) ∧
    (∃ (s : State) (t : Time) (n : Nat) (nx : Nat), s.live 1 = true ∧ n < 8 ∧ (s.gtb.pulses.getD n {}).next = some nx ∧ s.on
      (F.GTB_PLSn_ARM n) = true ∧ 0 ≤ gtDiff t.gt nx) ∧
    (∃ (s : State) (t : Time) (n : Nat), s.live 1 = true ∧ (s.gtb.pulses.getD n {}).busy = true ∧ 0 ≤ gtDiff t.gt (s.gtb.pulses.getD n
      {}).fin) ∧
    (∃ (s : State) (rq : Req) (p : Nat × Nat) (rest : List (Nat × Nat)), s.barred rq Reg.GTB_LEGSTAMP none = none ∧ s.gtb.stamps = p ::
      rest) :=
  ⟨⟨tOn, tT, tSup, 7, 3, 1, by decide⟩,
   ⟨7, by decide⟩,
   ⟨tOn.setFlag (F.GTB_CMPn_ARM 7) true, tSup, 7, 2, 1, by decide⟩,
   ⟨oCmp, tT, 7, by decide⟩,
   ⟨tOn, tT, tSup, 3, 1, 1, by decide⟩,
   ⟨3, by decide⟩,
   ⟨oPls, tT, 3, 7, by decide⟩,
   ⟨{ tOn with gtb := { tOn.gtb with pulses := listSet tOn.gtb.pulses 3 { busy := true, fin := 9 } } }, tT, 3, by decide⟩,
   ⟨{ tOn with gtb := { tOn.gtb with stamps := [(1, 5), (2, 6)] } }, tSup, (1, 5), [(2, 6)], by decide⟩⟩

theorem test_met_GtbStepApplies :
    ∃ (s : State) (t : Time), s.live 1 = true ∧ s.gtbState = 4 ∧ 0 ≤ gsnDiff (gsnOf s.spc t.gt) (s.fld F.GTB_STEPGSN_GSN) :=
  ⟨(oGtb 4).setFld F.GTB_STEP_SLOTS 3, tT, by decide⟩

theorem test_met_RfpLinkStates :
    (∃ (s : State) (n : Nat), n < 4 ∧ s.link n = 2) ∧
    (∃ (s : State) (n : Nat), n < 4 ∧ s.link n = 4 ∧ s.sysOn) ∧
    (∃ (s : State) (n : Nat), n < 4 ∧ s.link n = 3) ∧
    (∃ (s : State) (n : Nat), n < 4 ∧ s.link n = 3) ∧
    (∃ (s : State) (n : Nat) (c : Nat) (e : Nat), n < 4 ∧ s.link n = 1 ∧ within10ppm c e = true) ∧
    (∃ (s : State) (n : Nat) (c : Nat) (e : Nat), n < 4 ∧ s.link n = 1 ∧ within10ppm c e = false) :=
  ⟨⟨oLk 2, 3, by decide⟩,
   ⟨oLk 4, 3, by decide⟩,
   ⟨oLk 3, 3, by decide⟩,
   ⟨oLk 3, 3, by decide⟩,
   ⟨oLk 1, 3, 100001, 100000, by decide⟩,
   ⟨oLk 1, 3, 99998, 100000, by decide⟩⟩

theorem test_met_RfpLinkExit :
    (∃ (s : State) (n : Nat) (e : LinkErrs), n < 4 ∧ s.link n = 4 ∧ (e.lost = true ∨ 16 ≤ e.errs)) ∧
    (∃ (s : State) (n : Nat) (errs : Nat), n < 4 ∧ s.link n = 4 ∧ 0 < errs ∧ errs < 16) ∧
    (∃ (s : State) (n : Nat) (c : Nat) (e : Nat), n < 4 ∧ s.link n = 4 ∧ within10ppm c e = false) ∧
    (∃ (s : State) (n : Nat) (dest : Nat), n < 4 ∧ dest < 8 ∧ n < s.rfp.ports.length ∧ (s.port n).streams = [] ∧ s.dmx.lanes = [] ∧
      s.sysOn ∧ s.sup.fs ≠ .restart ∧ s.sup.halted = false) :=
  ⟨⟨oLk 4, 3, ⟨16, false⟩, by decide⟩,
   ⟨oLk 4, 3, 15, by decide⟩,
   ⟨oLk 4, 3, 100002, 100000, by decide⟩,
   ⟨oPt { ccas := [oCca] } (oLk 4), 3, 2, by decide⟩⟩

theorem test_met_RfpProxy :
    (∃ (s : State) (rq : Req) (v : Word), s.on F.RFP_STATUS_BUSY = false ∧ s.barred rq Reg.RFP_PXCMD (some v) = none ∧ s.domReady (10 +
      F.RFP_PXCMD_PORT.ext v) = true ∧ s.link (F.RFP_PXCMD_PORT.ext v) ≠ 0) ∧
    (∃ (s : State) (rq : Req) (v : Word), s.on F.RFP_STATUS_BUSY = false ∧ s.barred rq Reg.RFP_PXCMD (some v) = none ∧ s.link
      (F.RFP_PXCMD_PORT.ext v) = 0) ∧
    (∃ (s : State) (rq : Req) (v : Word), s.on F.RFP_STATUS_BUSY = true ∧ s.barred rq Reg.RFP_PXCMD (some v) = none) ∧
    (∃ (s : State) (px : Proxy), s.rfp.proxy = some px ∧ px.sent = false) ∧
    (∃ (s : State) (px : Proxy), s.rfp.proxy = some px ∧ px.sent = true) ∧
    (∃ (px : Proxy), px.rd = true) ∧
    (∃ (px : Proxy), px.rd = false) ∧
    (∃ (s : State), s.rfp.convWait = []) ∧
    (∃ (s : State), s.on F.RFP_STATUS_BUSY = true) :=
  ⟨⟨tOn.setFld (F.RFPn_LSTAT_STATE 0) 4, tSup, 0, by decide⟩,
   ⟨tOn, tSup, 0, by decide⟩,
   ⟨tOn.setFlag F.RFP_STATUS_BUSY true, tSup, 5, by decide⟩,
   ⟨{ tOn with rfp := { tOn.rfp with proxy := some ⟨1, true, 5, 6, 0xFFFFFFFF, false⟩ } }, ⟨1, true, 5, 6, 0xFFFFFFFF, false⟩,
     by decide⟩,
   ⟨oPp true, oPx true, by decide⟩,
   ⟨oPx true, by decide⟩,
   ⟨oPx false, by decide⟩,
   ⟨tOn, by decide⟩,
   ⟨tOn.setFlag F.RFP_STATUS_BUSY true, by decide⟩⟩

theorem test_met_RfpHistory :
    (∃ (s : State) (n : Nat), s.live (10 + n) = true ∧ n < s.rfp.ports.length) ∧
    (∃ (s : State) (rd : HistReader) (tag : Nat) (p : Nat) (start : Nat) (count : Nat) (r : HistRead), r =
      { id := s.rfp.nextRead, reader := rd, tag := tag, port := p, start := s.countAt p start, count := count, addr := s.histAddr p (s.countAt p start) }
      ∧ s.histOutcome r ≠ some .future) ∧
    (∃ (s : State) (tag : Nat) (p : Nat) (start : Nat) (count : Nat) (r : HistRead), r =
      { id := s.rfp.nextRead, reader := .sic, tag := tag, port := p, start := s.countAt p start, count := count, addr := s.histAddr p (s.countAt p start) }
      ∧ s.histOutcome r = some .future) ∧
    (∃ (s : State) (rd : HistReader) (tag : Nat) (p : Nat) (start : Nat) (count : Nat) (r : HistRead), rd ≠ .sic ∧ r =
      { id := s.rfp.nextRead, reader := rd, tag := tag, port := p, start := s.countAt p start, count := count, addr := s.histAddr p (s.countAt p start) }
      ∧ s.histOutcome r = some .future) ∧
    (∃ (s : State) (r : HistRead) (new : Nat) (last : Nat), new = s.newest r.port ∧ last = r.start + r.count - 1) ∧
    (∃ (s : State), s.sysOn) ∧
    (∃ (s : State) (t : Time) (id : Nat) (r : HistRead) (o : HistOutcome), s.rfp.reads.find? (fun x => x.id == id) = some r ∧ (s.at
      t).histOutcome r = some o ∧ r.reader = .sic) ∧
    (∃ (s : State) (t : Time) (id : Nat) (r : HistRead) (o : HistOutcome), s.rfp.reads.find? (fun x => x.id == id) = some r ∧ (s.at
      t).histOutcome r = some o ∧ r.reader = .dmx) ∧
    (∃ (s : State) (t : Time) (id : Nat) (r : HistRead) (o : HistOutcome), s.rfp.reads.find? (fun x => x.id == id) = some r ∧ (s.at
      t).histOutcome r = some o ∧ r.reader = .msq) ∧
    (∃ (s : State) (oct : Nat), s.sysOn ∧ s.live 17 = true ∧ 8000000 < oct) :=
  ⟨⟨tOn, 3, by decide⟩,
   ⟨tOn, .dmx, 1, 3, 0, 0, ⟨0, .dmx, 1, 3, 0, 0, 0⟩, by decide⟩,
   ⟨tOn, 1, 3, 0, 1000000000, ⟨0, .sic, 1, 3, 0, 1000000000, 0⟩, by decide⟩,
   ⟨tOn, .dmx, 1, 3, 0, 1000000000, ⟨0, .dmx, 1, 3, 0, 1000000000, 0⟩, by decide⟩,
   ⟨tOn, oRead, 0, 99, by decide⟩,
   ⟨tOn, by decide⟩,
   ⟨{ oPt { count := 5000 } (oLk 4) with rfp := { (oPt { count := 5000 } (oLk 4)).rfp with reads := [{ oRead with reader := .sic }] } },
     tT, 4, { oRead with reader := .sic }, .overwritten, by decide⟩,
   ⟨{ oPt { count := 5000 } (oLk 4) with rfp := { (oPt { count := 5000 } (oLk 4)).rfp with reads := [{ oRead with reader := .dmx }] } },
     tT, 4, { oRead with reader := .dmx }, .overwritten, by decide⟩,
   ⟨{ oPt { count := 5000 } (oLk 4) with rfp := { (oPt { count := 5000 } (oLk 4)).rfp with reads := [{ oRead with reader := .msq }] } },
     tT, 4, { oRead with reader := .msq }, .overwritten, by decide⟩,
   ⟨tOn, 8000001, by decide⟩⟩

theorem test_met_RfpAssessments :
    (∃ (s : State) (n : Nat) (k : Nat) (l : List Nat), s.live (10 + n) = true ∧ n < 4 ∧ k < 128 ∧ n < s.rfp.ports.length ∧ s.staged.find?
      (fun x => x.unit == 3 && x.grp == n) = none ∧ s.sliceOn n k = true ∧ (s.port n).msBusy.contains k = false ∧ s.blanked n k = false ∧
      s.laneOn n k = false ∧ (s.port n).nf.find k = some l ∧ l.length = 16) ∧
    (∃ (s : State) (n : Nat), s.live (10 + n) = true ∧ s.sysOn ∧ s.staged.find? (fun x => x.unit == 3 && x.grp == n) = none) ∧
    (∃ (s : State) (n : Nat), n < s.rfp.ports.length) ∧
    (∃ (s : State) (t : Time) (id : Nat) (n : Nat) (c : Cca) (powers : List Nat), ((s.at t).markOwn.port n).ccas.find? (fun (c : Cca) =>
      c.id == id) = some c ∧ n < s.rfp.ports.length ∧ 0 ≤ gtDiff t.gt c.fin ∧ c.answer powers = .clear ∧ c.user = .bgt) ∧
    (∃ (s : State) (t : Time) (id : Nat) (n : Nat) (c : Cca) (powers : List Nat), ((s.at t).markOwn.port n).ccas.find? (fun (c : Cca) =>
      c.id == id) = some c ∧ 0 ≤ gtDiff t.gt c.fin ∧ c.answer powers ≠ .clear) :=
  ⟨⟨oNf, 3, 127, List.replicate 16 100, by decide⟩,
   ⟨tOn, 3, by decide⟩,
   ⟨tOn, 3, by decide⟩,
   ⟨oPt { ccas := [oCca] } (oLk 4), tT, 9, 3, oCca, List.replicate 8 1, by decide⟩,
   ⟨oPt { ccas := [oCca] } (oLk 4), tT, 9, 3, oCca, List.replicate 8 4294967295, by decide⟩⟩

theorem test_met_RfpReserve :
    (∃ (s : State), s.level = 0) ∧
    (∃ (s : State) (t : Time) (n : Nat) (k : Nat) (st : Nat) (dur : Nat) (j : Nat), n < s.rfp.ports.length ∧ s.level ≠ 0 ∧ (s.at
      t).reserveCheck n k st dur = .inr j) ∧
    (∃ (s : State) (t : Time) (n : Nat) (k : Nat) (st : Nat) (dur : Nat) (r : ResRefusal), s.level ≠ 0 ∧ (s.at t).reserveCheck n k st dur
      = .inl r) ∧
    (∃ (s : State) (n : Nat), s.link n ≠ 4) ∧
    (∃ (s : State) (n : Nat) (k : Nat), s.link n = 4 ∧ s.sliceOn n k = false) ∧
    (∃ (s : State) (n : Nat) (k : Nat) (st : Nat) (dur : Nat) (j : Nat), s.reserveCheck n k st dur = .inr j) :=
  ⟨⟨tOn, by decide⟩,
   ⟨oUp, tT, 3, 5, 6 * 16777216, 1000, 0, by decide⟩,
   ⟨oUpL, tT, 3, 5, 6 * 16777216, 1000, .link, by decide⟩,
   ⟨tOn, 3, by decide⟩,
   ⟨oLk 4, 3, 5, by decide⟩,
   ⟨oSl, 3, 5, 6 * 16777216, 1000, 0, by decide⟩⟩

theorem test_met_RfpStreams :
    (∃ (s : State) (id : Nat) (n : Nat) (x : Stream), s.findStream id = some (n, x) ∧ x.active = false) ∧
    (∃ (s : State) (id : Nat) (n : Nat) (x : Stream), s.findStream id = some (n, x) ∧ x.active = true) ∧
    (∃ (s : State) (id : Nat) (n : Nat) (x : Stream), s.findStream id = some (n, x) ∧ x.active = true ∧ s.msq.tx.find id = none ∧ x.user
      = .lgc) ∧
    (∃ (s : State) (id : Nat) (n : Nat) (x : Stream), s.findStream id = some (n, x) ∧ x.active = true ∧ s.msq.tx.find id = none ∧ x.user
      ≠ .lgc) ∧
    (∃ (s : State) (e : State) (t : Time) (id : Nat) (n : Nat) (g : Nat) (x : Stream) (m : MsqTx), s.findStream id = some (n, x) ∧
      x.active = true ∧ x.user ≠ .lgc ∧ e = ((s.at t).settle id none true).endStream n id ∧ e.msq.tx.find id = some m ∧ m.inserted = some
      g) ∧
    (∃ (s : State) (e : State) (t : Time) (id : Nat) (n : Nat) (x : Stream) (m : MsqTx), s.findStream id = some (n, x) ∧ x.active = true
      ∧ x.user ≠ .lgc ∧ e = ((s.at t).settle id none true).endStream n id ∧ e.msq.tx.find id = some m ∧ m.inserted = none) ∧
    (∃ (s : State) (t : Time) (id : Nat) (n : Nat) (x : Stream), s.findStream id = some (n, x) ∧ x.active = false ∧ (s.port n).ccas.any
      (fun (c : Cca) => c.id == id) = false ∧ 0 ≤ gtDiff t.gt (gtSub x.start (nsToGt (s.fld (F.RFPn_LAT_TXLAT n)) s.mainsFreq)) ∧
      s.cdc.cancelled.contains id = true) ∧
    (∃ (s : State) (t : Time) (id : Nat) (n : Nat) (x : Stream), s.findStream id = some (n, x) ∧ x.active = false ∧ (s.port n).ccas.any
      (fun (c : Cca) => c.id == id) = false ∧ 0 ≤ gtDiff t.gt (gtSub x.start (nsToGt (s.fld (F.RFPn_LAT_TXLAT n)) s.mainsFreq)) ∧ x.user
      = .msq ∧ s.cdc.chips.find id = none ∧ s.cdc.cancelled.contains id = false) ∧
    (∃ (s : State) (t : Time) (id : Nat) (n : Nat) (x : Stream), s.findStream id = some (n, x) ∧ x.active = false ∧ (s.port n).ccas.any
      (fun (c : Cca) => c.id == id) = false ∧ 0 ≤ gtDiff t.gt (gtSub x.start (nsToGt (s.fld (F.RFPn_LAT_TXLAT n)) s.mainsFreq)) ∧
      s.cdc.cancelled.contains id = false ∧ (x.user ≠ .msq ∨ (s.cdc.chips.find id).isSome = true)) ∧
    (∃ (s : State) (n : Nat), n < s.rfp.ports.length) :=
  ⟨⟨oS false .msq, 6, 3, oStr false .msq, by decide⟩,
   ⟨oS true .msq, 6, 3, oStr true .msq, by decide⟩,
   ⟨oS true .lgc, 6, 3, oStr true .lgc, by decide⟩,
   ⟨oS true .msq, 6, 3, oStr true .msq, by decide⟩,
   ⟨oST (some 5), oSTe (some 5), tT, 6, 3, 5, oStr true .msq, oTx (some 5), by decide⟩,
   ⟨oST none, oSTe none, tT, 6, 3, oStr true .msq, oTx none, by decide⟩,
   ⟨{ oS false .msq with cdc := { (oS false .msq).cdc with cancelled := [6] } }, tT, 6, 3, oStr false .msq, by decide⟩,
   ⟨oS false .msq, tT, 6, 3, oStr false .msq, by decide⟩,
   ⟨oS false .lgc, tT, 6, 3, oStr false .lgc, by decide⟩,
   ⟨oS false .lgc, 3, by decide⟩⟩

/-! ### Witnesses: UPD -/

def uS (n : Nat) : State := (tOn.setFld F.UPD_STATUS_STATE n).setFld F.CFG_STATUS_STATE 5
def uPk : Pkt := { cells := [3], data := [0x41, 0x42], arr := 0, src := 6, holder := .init .sup, queue := none, pushed := 0, info := {} }
def uLd : State := { (uS 0).setFld F.UPD_ARG_CELL 3 with qmg := { (uS 0).qmg with pkts := [(3, uPk)] } }
def uF : FwSet := ⟨1, 5, 2, 1, 1⟩
def uRdy (n : Nat) : State := { uS n with upd := { (uS n).upd with ready := some uF, idle := some { uF with gen := 8 } } }
def uCm (n o : Nat) : State := { (uRdy n).setFlag F.UPD_CMDSTAT_BUSY true with upd := { (uRdy n).upd with cmd := some (o, 7) } }
def uDip (s : State) : State := { s with pwr := { s.pwr with dip := some ⟨true, false, false, false, false⟩ } }
def uRun (s : State) : State := { s with upd := { s.upd with run := some { uF with bank := s.otherBank } } }
def uCas : State :=
  let s := ((uRdy 5).setFld F.CHIP_START_LEVEL 2).setFld F.CSC_CFG_ROLE 1
  { s with csc := { s.csc with peers := [(1, 0, ⟨1, 1, 0, 0, 2, false, some 5, 7, 3, true⟩)] } }
def uVer : State := { (uS 2).setFlag F.UPD_CMDSTAT_BUSY true with upd := { (uS 2).upd with cmd := some (2, 7) } }

theorem test_met_UpdLoadVerify :
    (∃ (s : State) (rq : Req) (tag : Nat) (t : State) (p : Pkt), s.updTakes rq 1 tag ∧ t = s.updTaken rq 1 tag ∧ t.heldPkt rq (t.fld
      F.UPD_ARG_CELL) = some p ∧ t.regionFaults rq 4 = false ∧ t.fld F.UPD_OFS_OFS % 4096 = 0 ∧ t.fld F.UPD_OFS_OFS + p.data.length ≤
      16777216) ∧
    (∃ (s : State) (rq : Req) (tag : Nat) (t : State), s.updTakes rq 1 tag ∧ t = s.updTaken rq 1 tag ∧ t.heldPkt rq (t.fld
      F.UPD_ARG_CELL) = none) ∧
    (∃ (s : State) (rq : Req) (tag : Nat) (t : State), s.updTakes rq 2 tag ∧ t = s.updTaken rq 2 tag) ∧
    (∃ (s : State) (tag : Nat), s.updState = 2 ∧ s.upd.cmd = some (2, tag % 256)) ∧
    (∃ (s : State) (rq : Req) (tag : Nat) (t : State), s.updTakes rq 6 tag ∧ t = s.updTaken rq 6 tag) ∧
    (∃ (s : State) (rq : Req) (tag : Nat) (op : Nat) (o : Nat) (c : Instr), (op, c) ∈ [(1, Instr.updLoad rq tag), (2, .updVerify (.write
      rq) tag), (3, .updWrite rq tag), (4, .updActivate rq tag), (5, .updRollback (.written rq tag) 0), (6, .updAbort rq tag)] ∧ s.barred
      rq Reg.UPD_CMD (some (updWord op tag)) = none ∧ s.on F.UPD_CMDSTAT_BUSY = false ∧ s.upd.waits ≠ some .svn ∧ (s.updTaken rq op
      tag).updBar op = some o ∧ ((op = 1 → (s.updTaken rq op tag).heldPkt rq ((s.updTaken rq op tag).fld F.UPD_ARG_CELL) = none))) ∧
    (∃ (s : State) (rq : Req) (tag : Nat) (o : Nat) (t : State) (p : Pkt), s.barred rq Reg.UPD_CMD (some (updWord 1 tag)) = none ∧ s.on
      F.UPD_CMDSTAT_BUSY = false ∧ s.upd.waits ≠ some .svn ∧ t = s.updTaken rq 1 tag ∧ t.updBar 1 = some o ∧ t.heldPkt rq (t.fld
      F.UPD_ARG_CELL) = some p) :=
  ⟨⟨uLd, tSup, 7, uLd.updTaken tSup 1 7, uPk, by decide⟩,
   ⟨uS 1, tSup, 7, (uS 1).updTaken tSup 1 7, by decide⟩,
   ⟨uS 1, tSup, 7, (uS 1).updTaken tSup 2 7, by decide⟩,
   ⟨uVer, 7, by decide⟩,
   ⟨uS 3, tSup, 7, (uS 3).updTaken tSup 6 7, by decide⟩,
   ⟨uS 2, tSup, 7, 1, 13, .updLoad tSup 7, by decide⟩,
   ⟨uLd.setFld F.UPD_STATUS_STATE 2, tSup, 7, 13, (uLd.setFld F.UPD_STATUS_STATE 2).updTaken tSup 1 7, uPk, by decide⟩⟩

theorem test_met_UpdWriteActivate :
    (∃ (s : State) (rq : Req) (tag : Nat) (t : State), s.updTakes rq 3 tag ∧ t = s.updTaken rq 3 tag ∧ t.updFree = true) ∧
    (∃ (s : State) (rq : Req) (tag : Nat) (t : State), s.updTakes rq 3 tag ∧ t = s.updTaken rq 3 tag ∧ t.dipNow = true ∧
      t.pwr.held.contains .directory = false) ∧
    (∃ (s : State) (tag : Nat) (f : FwSet), s.updState = 4 ∧ s.upd.waits = none ∧ s.updFree = true ∧ s.upd.ready = some f ∧ s.upd.cmd =
      some (3, tag % 256)) ∧
    (∃ (s : State) (tag : Nat), s.updState = 4 ∧ s.upd.waits = none ∧ s.updFree = true ∧ s.upd.cmd = some (3, tag % 256)) ∧
    (∃ (s : State) (rq : Req) (tag : Nat) (t : State) (f : FwSet), s.updTakes rq 4 tag ∧ t = s.updTaken rq 4 tag ∧ t.upd.ready = some f ∧
      t.updFree = true ∧ t.cascadeOk f.gen = true) ∧
    (∃ (s : State) (rq : Req) (tag : Nat) (t : State) (f : FwSet), s.updTakes rq 4 tag ∧ t = s.updTaken rq 4 tag ∧ t.upd.ready = some f ∧
      t.cascadeOk f.gen = false) ∧
    (∃ (s : State) (tag : Nat), s.updState = 6 ∧ s.upd.waits = none ∧ s.upd.level ≤ s.level ∧ s.upd.cmd = some (4, tag % 256)) ∧
    (∃ (s : State) (tag : Nat), s.updState = 6 ∧ s.upd.waits = none ∧ s.updFree = true ∧ s.upd.cmd = some (4, tag % 256)) :=
  ⟨⟨uRdy 3, tSup, 7, (uRdy 3).updTaken tSup 3 7, by decide⟩,
   ⟨uDip (uRdy 3), tSup, 7, (uDip (uRdy 3)).updTaken tSup 3 7, by decide⟩,
   ⟨uCm 4 3, 7, uF, by decide⟩,
   ⟨uCm 4 3, 7, by decide⟩,
   ⟨(uRdy 5).setFld F.CHIP_START_LEVEL 2, tSup, 7, ((uRdy 5).setFld F.CHIP_START_LEVEL 2).updTaken tSup 4 7, uF, by decide⟩,
   ⟨uCas, tSup, 7, uCas.updTaken tSup 4 7, uF, by decide⟩,
   ⟨uCm 6 4, 7, by decide⟩,
   ⟨uCm 6 4, 7, by decide⟩⟩

theorem test_met_UpdTrial :
    (∃ (s : State) (t : Time), s.updState = 7 ∧ s.upd.trialFt + 59999000 ≤ t.ft ∧ s.reg Reg.UPD_HEALTH = 0x1F) ∧
    (∃ (s : State) (t : Time), s.updState = 7 ∧ s.upd.trialFt + 59999000 ≤ t.ft ∧ s.reg Reg.UPD_HEALTH ≠ 0x1F) ∧
    (∃ (s : State) (rq : Req) (tag : Nat) (t : State), s.updTakes rq 5 tag ∧ t = s.updTaken rq 5 tag ∧ t.updFree = true ∧ t.upd.run.any
      (fun f => f.bank == t.otherBank) = true) ∧
    (∃ (s : State), s.updState = 9 ∧ s.upd.waits = none ∧ s.updFree = true ∧ s.upd.cmd = none ∧ s.upd.run.any (fun f => f.bank ==
      s.otherBank) = true) ∧
    (∃ (s : State), s.updState = 8 ∧ s.updFree = true ∧ s.cfg.check = none) :=
  ⟨⟨(uRdy 7).setReg Reg.UPD_HEALTH 0x1F, ⟨7, 60000000⟩, by decide⟩,
   ⟨(uRdy 7).setReg Reg.UPD_HEALTH 0xF, ⟨7, 60000000⟩, by decide⟩,
   ⟨uRun (uRdy 7), tSup, 7, (uRun (uRdy 7)).updTaken tSup 5 7, by decide⟩,
   ⟨uRun (uRdy 9), by decide⟩,
   ⟨uRdy 8, by decide⟩⟩

/-! ### Witnesses: resets, domains, dips and modes -/

def pDom (d : Nat) (x : Dom) : State := tOn.setDom d x
def pDip : State := { tOn with pwr := { tOn.pwr with dip := some { core := true, io := false, firstIo := false, held := true, long := false } } }
def pDipL : State := { tOn with pwr := { tOn.pwr with dip := some { core := true, io := false, firstIo := false, held := true, long := true } } }
def pJob : SicJob := ⟨0, 0, false, false, 0, .queued, [], 0, 0, 0, 0, 0, 0, 0, false, 0⟩
def pMode (m : ModeState) : State := { tOn with pwr := { tOn.pwr with mode := m } }
def pWake (m : ModeState) : State := (pMode m).setReg Reg.PWR_WAKECFG 0xFFFFFFE7
def pWork : State := ((pDip.setReg Reg.CSC_CFG 0xffff).bump Ctr.PWR_DIPCNT 5).setReg Reg.SUP_STATUS 5
def pReq (d c : Nat) (x : Dom) : State := (tOn.setDomReq d c).setDom d x
def pFlash : State := { tOn with hif := { tOn.hif with xcmd := some (1, 0) } }

theorem test_met_Resets :
    (∃ (s : State) (rq : Req) (key : Nat), s.barred rq Reg.CHIP_RESET (some (BitVec.ofNat 32 (key % 65536))) = none ∧ key % 65536 =
      0xC3A5) ∧
    (∃ (s : State) (rq : Req) (key : Nat), s.barred rq Reg.CHIP_RESET (some (BitVec.ofNat 32 (key % 65536))) = none ∧ key % 65536 ≠
      0xC3A5) ∧
    (∃ (s : State), s.pwr.mode ≠ .inMode .aononly ∧ s.pwr.mode ≠ .exiting .aononly ∧ s.pwr.dip = none) ∧
    (∃ (s : State) (d : Dip), s.pwr.mode ≠ .inMode .aononly ∧ s.pwr.mode ≠ .exiting .aononly ∧ s.pwr.dip = some d) ∧
    (∃ (s : State), (s.pwr.mode = .inMode .aononly ∨ s.pwr.mode = .exiting .aononly)) :=
  ⟨⟨pWork, tSup, 0xC3A5, by decide⟩,
   ⟨pWork, tSup, 7, by decide⟩,
   ⟨tOn, by decide⟩,
   ⟨pWork, { core := true, io := false, firstIo := false, held := true, long := false }, by decide⟩,
   ⟨pMode (.inMode .aononly), by decide⟩⟩

theorem test_met_DomainSequences :
    (∃ (s : State) (d : Nat) (m : DomMode), (s.dom d).seq = .draining m ∧ s.drained d = true) ∧
    (∃ (s : State) (d : Nat), s.drained d = false) ∧
    (∃ (s : State) (d : Nat) (m : DomMode), (s.dom d).seq = .entering m ∧ (s.dom d).latched = none) ∧
    (∃ (s : State) (d : Nat), (s.dom d).seq = .entering .ret ∧ (s.dom d).latched = some .on) ∧
    (∃ (s : State) (d : Nat) (m : DomMode) (bad : List Nat), (s.dom d).seq = .exiting (some m) ∧ ((∀ b ∈ bad, bankOf d b = false ∨
      ((s.dom d).mode ≠ .ret ∧ b ≠ 0)))) ∧
    (∃ (s : State) (d : Nat) (bad : List Nat), (s.dom d).seq = .exiting none ∧ (s.dom d).latched = none ∧ ((∀ b ∈ bad, bankOf d b = false
      ∨ ((s.dom d).mode ≠ .ret ∧ b ≠ 0)))) ∧
    (∃ (s : State) (d : Nat) (b : Nat) (m : DomMode), (s.dom d).seq = .exiting (some m) ∧ (s.dom d).mode = .ret ∧ bankOf d b = true ∧ b ≠
      0) ∧
    (∃ (s : State) (d : Nat) (m : Option DomMode), (s.dom d).seq = .exiting m) ∧
    (∃ (s : State) (d : Nat) (b : Nat), d < 32 ∧ b < 32 ∧ s.sysOn) :=
  ⟨⟨pDom 10 { mode := .on, seq := .draining .off }, 10, .off, by decide⟩,
   ⟨{ (pDom 14 { mode := .on, seq := .draining .ret }) with sic := { tOn.sic with jobs := [pJob] } }, 14, by decide⟩,
   ⟨pDom 19 { mode := .on, seq := .entering .off }, 19, .off, by decide⟩,
   ⟨pDom 14 { mode := .on, seq := .entering .ret, latched := some .on }, 14, by decide⟩,
   ⟨pDom 14 { mode := .off, seq := .exiting (some .ret) }, 14, .ret, [3], by decide⟩,
   ⟨pDom 10 { mode := .off, seq := .exiting none }, 10, [1], by decide⟩,
   ⟨pDom 15 { mode := .ret, seq := .exiting (some .off) }, 15, 25, .off, by decide⟩,
   ⟨pDom 15 { mode := .ret, seq := .exiting (some .off) }, 15, some .off, by decide⟩,
   ⟨tOn, 16, 9, by decide⟩⟩

theorem test_met_DomainRequests :
    (∃ (s : State) (t : Time) (rq : Req) (hi : Bool) (v : Word), (s.at t).barred rq (if hi then Reg.PWR_DOMREQ1 else Reg.PWR_DOMREQ0)
      (some v) = none) ∧
    (∃ (s : State) (v : Word), ((∀ i < 5, alwaysOn (16 + i) = true ∨ v.toNat / 4 ^ i % 4 = s.domReq (16 + i)))) ∧
    (∃ (s : State) (v : Word), ((∀ i < 4, alwaysOn (16 + i) = true ∨ v.toNat / 4 ^ i % 4 = s.domReq (16 + i))) ∧ v.toNat / 256 % 4 ≠
      s.domReq 20) ∧
    (∃ (s : State) (d : Nat) (m : DomMode), d < s.pwr.doms.length ∧ s.pwr.mode = .service ∧ s.sl1Holds d = false ∧ domCode (s.domReq d) =
      some m) ∧
    (∃ (s : State) (d : Nat), (s.pwr.mode ≠ .service ∨ s.sl1Holds d = true)) :=
  ⟨⟨tOn, tT, tSup, true, 5, by decide⟩,
   ⟨tOn, tOn.reg Reg.PWR_DOMREQ1, by decide⟩,
   ⟨tOn, (tOn.reg Reg.PWR_DOMREQ1 ^^^ 0x100), by decide⟩,
   ⟨pReq 20 0 { mode := .on }, 20, .off, by decide⟩,
   ⟨pMode (.inMode .deepret), 14, by decide⟩⟩

theorem test_met_DipsAndLowPower :
    (∃ (s : State), s.pwr.mode ≠ .inMode .aononly ∧ s.pwr.mode ≠ .exiting .aononly ∧ s.pwr.dip = none) ∧
    (∃ (s : State) (d : Dip), s.pwr.mode ≠ .inMode .aononly ∧ s.pwr.mode ≠ .exiting .aononly ∧ s.pwr.dip = some d) ∧
    (∃ (s : State) (d : Dip), s.pwr.dip = some d ∧ s.pwr.held = []) ∧
    (∃ (s : State) (d : Dip), s.pwr.dip = some d) ∧
    (∃ (s : State) (d : Dip), s.pwr.dip = some d ∧ d.long = false) ∧
    (∃ (s : State) (d : Dip), s.pwr.dip = some d ∧ d.long = true) ∧
    (∃ (s : State) (t : Time) (rq : Req) (key : Nat), s.modeTakes t rq key .deepret) ∧
    (∃ (s : State) (t : Time) (rq : Req) (key : Nat), s.modeTakes t rq key .aononly) ∧
    (∃ (s : State) (t : Time) (rq : Req) (key : Nat), (s.at t).barred rq Reg.PWR_MODECMD (some (modeWord .deepret key)) = none ∧ (s.at
      t).barred rq Reg.PWR_MODECMD (some (modeWord .aononly key)) = none) ∧
    (∃ (s : State) (m : LpMode), s.modeDue = some m ∧ s.live 1 = true) ∧
    (∃ (s : State) (m : LpMode), s.pwr.mode = .entering m ∧ ((∀ d < 21, s.drained d = true))) ∧
    (∃ (s : State), s.pwr.mode ≠ .entering .deepret ∧ s.pwr.mode ≠ .entering .aononly) ∧
    (∃ (s : State) (ball : Nat) (falling : Bool), s.on F.PWR_WAKECFG_GPIOEN = true ∧ s.fld F.PWR_WAKECFG_GPIO = ball ∧ ball < 8 ∧ s.on
      F.PWR_WAKECFG_GPIOPOL = falling) ∧
    (∃ (s : State), s.on F.PWR_WAKECFG_SMBEN = true) ∧
    (∃ (s : State), s.on F.PWR_WAKECFG_ALARMEN = true ∧ s.pwr.mode ≠ .entering .deepret ∧ s.pwr.mode ≠ .entering .aononly ∧ s.modeDue =
      none) ∧
    (∃ (s : State), (s.on F.PWR_WAKECFG_ALARMEN = false ∨ s.pwr.mode = .service ∨ s.pwr.mode = .entering .deepret ∨ s.pwr.mode =
      .entering .aononly)) ∧
    (∃ (s : State) (ball : Nat) (falling : Bool), (s.on F.PWR_WAKECFG_GPIOEN = false ∨ s.fld F.PWR_WAKECFG_GPIO ≠ ball ∨ 8 ≤ ball ∨ s.on
      F.PWR_WAKECFG_GPIOPOL ≠ falling)) ∧
    (∃ (s : State), s.on F.PWR_WAKECFG_SMBEN = false) ∧
    (∃ (s : State) (bad : List (Nat × Nat)), s.pwr.mode = .exiting .deepret ∧ ((∃ x ∈ bad, bankOf x.1 x.2 = true ∧ (s.dom x.1).mode =
      .ret ∧ (x.2 = 0 ∨ x.2 = 1)))) ∧
    (∃ (s : State) (bad : List (Nat × Nat)), s.pwr.mode = .exiting .deepret ∧ s.pwr.doms.length = 21 ∧ ((∀ x ∈ bad, bankOf x.1 x.2 =
      false ∨ (s.dom x.1).mode ≠ .ret ∨ (x.2 ≠ 0 ∧ x.2 ≠ 1)))) ∧
    (∃ (s : State), s.pwr.mode = .exiting .aononly) ∧
    (∃ (s : State), s.pwr.mode ≠ .exiting .aononly) ∧
    (∃ (s : State) (refclk : Bool), s.on F.PWR_CLKSEL_AONSRC = false ∧ s.on F.PWR_STATUS_XTALFAIL = false ∧ (refclk = true ∨ s.pwr.mode ≠
      .inMode .aononly)) ∧
    (∃ (s : State), s.on F.PWR_CLKSEL_AONSRC = false ∧ s.on F.PWR_STATUS_XTALFAIL = false ∧ s.pwr.mode = .inMode .aononly) ∧
    (∃ (s : State), (s.on F.PWR_CLKSEL_AONSRC = true ∨ s.on F.PWR_STATUS_XTALFAIL = true)) :=
  ⟨⟨tOn, by decide⟩,
   ⟨pDip, { core := true, io := false, firstIo := false, held := true, long := false }, by decide⟩,
   ⟨pDip, { core := true, io := false, firstIo := false, held := true, long := false }, by decide⟩,
   ⟨{ pDip with pwr := { pDip.pwr with held := [.journal, .directory] } },
     { core := true, io := false, firstIo := false, held := true, long := false }, by decide⟩,
   ⟨pDip, { core := true, io := false, firstIo := false, held := true, long := false }, by decide⟩,
   ⟨pDipL, { core := true, io := false, firstIo := false, held := true, long := true }, by decide⟩,
   ⟨tOn, tT, tSup, 0x9E37, by decide⟩,
   ⟨pFlash, tT, tSup, 0x9E37, by decide⟩,
   ⟨tOn, tT, tSup, 0x9E37, by decide⟩,
   ⟨{ tOn with pwr := { tOn.pwr with modeWait := some .deepret } }, .deepret, by decide⟩,
   ⟨pMode (.entering .deepret), .deepret, by decide⟩,
   ⟨tOn, by decide⟩,
   ⟨pWake (.inMode .aononly), 7, true, by decide⟩,
   ⟨pWake (.entering .aononly), by decide⟩,
   ⟨pWake (.exiting .aononly), by decide⟩,
   ⟨pWake (.entering .aononly), by decide⟩,
   ⟨tOn, 9, true, by decide⟩,
   ⟨(pMode .service).setReg Reg.PWR_WAKECFG 0, by decide⟩,
   ⟨(pMode (.exiting .deepret)).setDom 1 { mode := .ret }, [(1, 1)], by decide⟩,
   ⟨((pMode (.exiting .deepret)).setDom 1 { mode := .ret }).setFlag F.MEM_STATUS_SELFREF true, [], by decide⟩,
   ⟨pMode (.exiting .aononly), by decide⟩,
   ⟨tOn, by decide⟩,
   ⟨(tOn.setFlag F.PWR_CLKSEL_AONSRC false), true, by decide⟩,
   ⟨(pMode (.inMode .aononly)).setFlag F.PWR_CLKSEL_AONSRC false, by decide⟩,
   ⟨tOn.setFlag F.PWR_STATUS_XTALFAIL true, by decide⟩⟩

/-! ### Witnesses: the start of the device -/

def bR (c : ResetCause) (h : Option HoldRec) : State := { State.reset with pwr := { ({} : Pwr) with cause := c, resets := 3, aonKept := true, dramKept := true }, gtb := { ({} : Gtb) with holdRec := h } }
def bC (n : Nat) : State := tOn.setFld F.CFG_STATUS_STATE n
def bTr : State := tOn.setFlag F.MEM_STATUS_TRAINED true
def bAt (n : Nat) : State := tOn.setFld F.MEM_STATUS_ATTEMPT n
def bF (n : Nat) : FwSet := ⟨0, n, 3, 1, 1⟩
def bRun : State := (({ bC 4 with upd := { tOn.upd with run := some (bF 1) } }).setFld F.KVT_STATUS_STATE 3)
def bSl1 : State := ((({ tOn with upd := { tOn.upd with run := some (bF 1) } }).setFld F.KVT_STATUS_STATE 3).setFlag F.SUP_STATUS_RUN true).setFlag F.CHIP_WMAP1_LOCKED true
def bSl2 : State := ({ (((((bTr.setFlag F.QMG_STATUS_DRAMPOOL true).setFlag F.KVT_STATUS_CACHEONLY false).setFlag F.FWD_STATUS_BOOTMODE false).setFld F.CHIP_START_LEVEL 1).setReg Reg.PWR_DOMREQ0 0x55555555).setReg Reg.PWR_DOMREQ1 0x555 with cfg := { tOn.cfg with dram := true }, pwr := { tOn.pwr with sl2 := true } })
def bScr : State := bTr.setFld F.MEM_SCRUB_HOURS 3
def bLock (n : Nat) : State := (bC n).setFlag F.CHIP_WMAP1_LOCKED true
def bHdr : List Octet := [0x50, 0x4A, 0x43, 0x49, 1, 0, 0, 1, 7, 0, 0, 0] ++ List.replicate 16 0 ++ [0x60, 1, 0, 0] ++ List.replicate 220 0 ++ leOctets 4 2902337220
def bSeal : State := ((((bC 5).setFld F.KVT_STATUS_STATE 0).setReg (Reg.KVT_ANCHORk 0) 5).flashWrite (copyOffset 0) bHdr).flashWrite (copyOffset 1) bHdr

theorem test_met_DeviceStarts :
    (∃ (s : State), s.pwr.inReset = true ∧ s.pwr.doms.length = 21) ∧
    (∃ (s : State), s.pwr.inReset = true) ∧
    (∃ (s : State), s.pwr.inReset = false) ∧
    (∃ (s : State), s.pwr.inReset = false ∧ s.pwr.pll = false) ∧
    (∃ (s : State), (s.pwr.inReset = true ∨ s.pwr.pll = true)) ∧
    (∃ (s : State), s.on F.CHIP_START_NOREF = true) ∧
    (∃ (s : State), s.pwr.inReset = false ∧ s.pwr.pll = false ∧ s.on F.CHIP_START_NOREF = false) ∧
    (∃ (s : State) (rq : Req), s.barred rq Reg.PWR_CLKSEL (some (F.PWR_CLKSEL_REQ.ins (s.reg Reg.PWR_CLKSEL) 1)) = none ∧ s.on
      F.PWR_CLKSEL_SEL = false) ∧
    (∃ (s : State) (rq : Req), s.barred rq Reg.PWR_CLKSEL (some (F.PWR_CLKSEL_REQ.ins (s.reg Reg.PWR_CLKSEL) 1)) = none ∧ s.on
      F.PWR_CLKSEL_SEL = true) ∧
    (∃ (s : State), (s.pwr.clkReq = false ∨ s.pwr.pll = false)) ∧
    (∃ (s : State), s.pwr.clkReq = true ∧ s.pwr.pll = true) :=
  ⟨⟨bR .soft none, by decide⟩,
   ⟨bR .soft none, by decide⟩,
   ⟨tOn, by decide⟩,
   ⟨{ tOn with pwr := { tOn.pwr with pll := false } }, by decide⟩,
   ⟨tOn, by decide⟩,
   ⟨tOn.setFlag F.CHIP_START_NOREF true, by decide⟩,
   ⟨{ tOn with pwr := { tOn.pwr with pll := false } }, by decide⟩,
   ⟨tOn, tSup, by decide⟩,
   ⟨tOn.setFlag F.PWR_CLKSEL_SEL true, tSup, by decide⟩,
   ⟨tOn, by decide⟩,
   ⟨{ tOn with pwr := { tOn.pwr with clkReq := true } }, by decide⟩⟩

theorem test_met_ConfigCheck :
    (∃ (s : State) (k : Nat) (l : List Nat), s.fld F.CFG_STATUS_STATE = 1 ∧ s.cfg.waits = none ∧ s.cfg.order = k :: l ∧ s.kvtState = 0) ∧
    (∃ (s : State) (k : Nat) (l : List Nat), s.fld F.CFG_STATUS_STATE = 1 ∧ s.cfg.waits = none ∧ s.cfg.order = k :: l ∧ s.kvtState ≠ 0) ∧
    (∃ (s : State), (s.fld F.CFG_STATUS_STATE ≠ 1 ∨ s.cfg.waits.isSome = true ∨ s.cfg.order = [])) ∧
    (∃ (s : State) (k : Nat), s.cfg.waits = some k ∧ s.kvtState ≠ 0) ∧
    (∃ (s : State), s.kvtState = 0) ∧
    (∃ (s : State), s.kvtState ≠ 0 ∧ s.cfg.waits = none) ∧
    (∃ (s : State) (n : Nat), s.cfg.order = [n] ∧ s.upd.waits = none) ∧
    (∃ (s : State) (m : Nat) (n : Nat), s.cfg.order = [m, n]) ∧
    (∃ (s : State) (rq : Req) (t : Time), (s.at t).barred rq Reg.CFG_CMD (some 1) = none ∧ s.fld F.CFG_STATUS_STATE = 6) ∧
    (∃ (s : State) (rq : Req) (t : Time), (s.at t).barred rq Reg.CFG_CMD (some 1) = none ∧ s.fld F.CFG_STATUS_STATE ≠ 6) ∧
    (∃ (s : State), 67108864 ≤ s.kvt.flash) ∧
    (∃ (s : State) (rq : Req) (copy : Nat), s.barred rq Reg.CFG_CMD (some (BitVec.ofNat 32 (2 + 4 * (copy % 2)))) = none ∧ s.on
      F.CFG_STATUS_BUSY = true) ∧
    (∃ (s : State) (rq : Req) (copy : Nat), s.barred rq Reg.CFG_CMD (some (BitVec.ofNat 32 (2 + 4 * (copy % 2)))) = none ∧ s.on
      F.CFG_STATUS_BUSY = false ∧ s.updState = 8) ∧
    (∃ (s : State) (rq : Req) (copy : Nat), s.barred rq Reg.CFG_CMD (some (BitVec.ofNat 32 (2 + 4 * (copy % 2)))) = none ∧ s.on
      F.CFG_STATUS_BUSY = false ∧ s.updState ≠ 8 ∧ s.sealWait (copy % 2) = true) ∧
    (∃ (s : State) (rq : Req) (copy : Nat), s.barred rq Reg.CFG_CMD (some (BitVec.ofNat 32 (2 + 4 * (copy % 2)))) = none ∧ s.on
      F.CFG_STATUS_BUSY = false ∧ s.updState ≠ 8 ∧ s.sealWait (copy % 2) = false) ∧
    (∃ (s : State), s.fld F.CFG_STATUS_STATE ≠ 5) ∧
    (∃ (s : State), s.fld F.CFG_STATUS_STATE = 5 ∧ s.sealWait (1 - s.cfg.copy) = true) ∧
    (∃ (s : State), s.fld F.CFG_STATUS_STATE = 5 ∧ s.sealWait (1 - s.cfg.copy) = false) :=
  ⟨⟨{ bC 1 with cfg := { tOn.cfg with order := [0, 1] } }, 0, [1], by decide⟩,
   ⟨{ (bC 1).setFld F.KVT_STATUS_STATE 2 with cfg := { tOn.cfg with order := [0, 1] } }, 0, [1], by decide⟩,
   ⟨bC 5, by decide⟩,
   ⟨{ (bC 1).setFld F.KVT_STATUS_STATE 2 with cfg := { tOn.cfg with order := [0, 1], waits := some 0 } }, 0, by decide⟩,
   ⟨(bC 1).setFld F.KVT_STATUS_STATE 0, by decide⟩,
   ⟨(bC 5).setFld F.KVT_STATUS_STATE 2, by decide⟩,
   ⟨{ bC 1 with cfg := { tOn.cfg with order := [1] } }, 1, by decide⟩,
   ⟨{ bC 1 with cfg := { tOn.cfg with order := [1, 0] } }, 1, 0, by decide⟩,
   ⟨bC 6, tSup, tT, by decide⟩,
   ⟨bC 5, tSup, tT, by decide⟩,
   ⟨bC 5, by decide⟩,
   ⟨(bC 5).setFlag F.CFG_STATUS_BUSY true, tSup, 1, by decide⟩,
   ⟨(bC 5).setFld F.UPD_STATUS_STATE 8, tSup, 1, by decide⟩,
   ⟨bSeal, tSup, 1, by decide +kernel⟩,
   ⟨(bC 5).setFld F.KVT_STATUS_STATE 2, tSup, 1, by decide⟩,
   ⟨bC 4, by decide⟩,
   ⟨bSeal, by decide +kernel⟩,
   ⟨(bC 5).setFld F.KVT_STATUS_STATE 2, by decide⟩⟩

theorem test_met_ConfigApply :
    (∃ (s : State), s.fld F.CFG_STATUS_STATE = 3 ∧ s.cfg.pwrDone = false) ∧
    (∃ (s : State), s.fld F.CFG_STATUS_STATE = 3 ∧ s.cfg.pwrDone = true ∧ s.pwr.pll = true ∧ (List.range 21).any (fun d => s.domReq d ==
      1 && !s.domReady d) = false) ∧
    (∃ (s : State), s.fld F.CFG_STATUS_STATE = 3 ∧ s.cfg.pwrDone = true ∧ s.pwr.pll = true ∧ (List.range 21).any (fun d => s.domReq d ==
      1 && !s.domReady d) = false ∧ s.cfg.payload = []) ∧
    (∃ (s : State), s.fld F.CFG_STATUS_STATE = 3 ∧ s.cfg.pwrDone = true ∧ (s.pwr.pll = false ∨ (List.range 21).any (fun d => s.domReq d
      == 1 && !s.domReady d) = true)) ∧
    (∃ (s : State), s.fld F.CFG_STATUS_STATE ≠ 3) ∧
    (∃ (s : State), (s.fld F.CFG_STATUS_STATE ≠ 4 ∨ s.readsDone = false ∨ (s.on F.MEM_STATUS_TRAINED = false ∧ s.on F.CHIP_START_DRAMFAIL
      = false))) ∧
    (∃ (s : State), (s.mapLocked = false ∨ s.upd.run.isSome = true ∨ s.on F.CHIP_START_NOFW = true ∨ s.fld F.CFG_STATUS_STATE ≠ 4)) ∧
    (∃ (s : State), s.fld F.CFG_STATUS_STATE = 4 ∧ s.readsDone = true ∧ s.on F.MEM_STATUS_TRAINED = true ∧ s.cfg.payload = [] ∧
      s.upd.waits = none) ∧
    (∃ (s : State), s.fld F.CFG_STATUS_STATE = 4 ∧ s.readsDone = true ∧ s.on F.MEM_STATUS_TRAINED = true) ∧
    (∃ (s : State), s.fld F.CFG_STATUS_STATE = 4 ∧ s.readsDone = true ∧ s.on F.MEM_STATUS_TRAINED = false ∧ s.on F.CHIP_START_DRAMFAIL =
      true ∧ s.upd.waits = none) ∧
    (∃ (s : State), s.mapLocked = true ∧ s.upd.run = none ∧ s.on F.CHIP_START_NOFW = false ∧ s.fld F.CFG_STATUS_STATE = 4 ∧ s.dirNow =
      none ∧ (s.dir.bank (1 - s.dir.com)).1 ≠ 1 ∧ (s.dir.bank (1 - s.dir.com)).1 ≠ 2 ∧ s.kvtState ≠ 1) ∧
    (∃ (s : State), s.mapLocked = true ∧ s.upd.run = none ∧ s.on F.CHIP_START_NOFW = false ∧ s.fld F.CFG_STATUS_STATE = 4) ∧
    (∃ (s : State), s.upd.waits = none ∧ (s.dir.bank s.dir.com).2.2 ≤ s.upd.fuses ∧ s.sup.notices = []) :=
  ⟨⟨bC 3, by decide⟩,
   ⟨{ bC 3 with cfg := { tOn.cfg with pwrDone := true, gen := 7 } }, by decide⟩,
   ⟨{ bC 3 with cfg := { tOn.cfg with pwrDone := true, gen := 7 } }, by decide⟩,
   ⟨{ bC 3 with cfg := { tOn.cfg with pwrDone := true, gen := 7 }, pwr := { tOn.pwr with pll := false } }, by decide⟩,
   ⟨bC 4, by decide⟩,
   ⟨bC 3, by decide⟩,
   ⟨bC 4, by decide⟩,
   ⟨bRun.setFlag F.MEM_STATUS_TRAINED true, by decide⟩,
   ⟨bRun.setFlag F.MEM_STATUS_TRAINED true, by decide⟩,
   ⟨bRun.setFlag F.CHIP_START_DRAMFAIL true, by decide⟩,
   ⟨bLock 4, by decide⟩,
   ⟨(bLock 4), by decide⟩,
   ⟨bLock 4, by decide⟩⟩

theorem test_met_DramAndLevels :
    (∃ (s : State), (s.mem.retrain = false ∨ s.updWriting = true) ∧ s.fld F.MEM_STATUS_ATTEMPT ≠ 0 ∧ (s.fld F.CFG_STATUS_STATE ≠ 5 ∨
      s.cfg.dram = true)) ∧
    (∃ (s : State), s.mem.retrain = true ∧ s.updWriting = false) ∧
    (∃ (s : State), (s.mem.retrain = false ∨ s.updWriting = true) ∧ s.fld F.MEM_STATUS_ATTEMPT = 0) ∧
    (∃ (s : State), (s.mem.retrain = false ∨ s.updWriting = true)) ∧
    (∃ (s : State), (s.mem.retrain = false ∨ s.updWriting = true) ∧ s.fld F.MEM_STATUS_ATTEMPT ≠ 0 ∧ s.fld F.CFG_STATUS_STATE = 5 ∧
      s.cfg.dram = false) ∧
    (∃ (s : State) (ch0 : Bool) (ch1 : Bool), (s.mem.retrain = false ∨ s.updWriting = true) ∧ s.fld F.MEM_STATUS_ATTEMPT ≠ 0 ∧ (ch0 =
      true ∨ ch1 = true) ∧ s.mem.fails.1 + b2n ch0 < 3 ∧ s.mem.fails.2 + b2n ch1 < 3) ∧
    (∃ (s : State) (ch0 : Bool) (ch1 : Bool), (s.mem.retrain = false ∨ s.updWriting = true) ∧ s.fld F.MEM_STATUS_ATTEMPT ≠ 0 ∧ (ch0 =
      true ∨ ch1 = true) ∧ (3 ≤ s.mem.fails.1 + b2n ch0 ∨ 3 ≤ s.mem.fails.2 + b2n ch1) ∧ (s.fld F.CFG_STATUS_STATE ≠ 4 ∨ s.readsDone =
      false)) ∧
    (∃ (s : State) (ch0 : Bool) (ch1 : Bool), (s.mem.retrain = false ∨ s.updWriting = true) ∧ s.fld F.MEM_STATUS_ATTEMPT ≠ 0 ∧ (ch0 =
      true ∨ ch1 = true) ∧ (3 ≤ s.mem.fails.1 + b2n ch0 ∨ 3 ≤ s.mem.fails.2 + b2n ch1) ∧ s.fld F.CFG_STATUS_STATE = 4 ∧ s.readsDone =
      true ∧ s.upd.waits = none) ∧
    (∃ (s : State) (rq : Req), s.barred rq Reg.CHIP_STARTCMD (some 1) = none ∧ s.on F.CHIP_START_DRAMFAIL = false) ∧
    (∃ (s : State) (rq : Req), s.barred rq Reg.CHIP_STARTCMD (some 1) = none ∧ s.on F.CHIP_START_DRAMFAIL = true ∧ s.updWriting = false)
      ∧
    (∃ (s : State) (rq : Req), s.barred rq Reg.CHIP_STARTCMD (some 1) = none ∧ s.on F.CHIP_START_DRAMFAIL = true ∧ s.updWriting = true) ∧
    (∃ (s : State), s.on F.MEM_STATUS_TRAINED = true ∧ s.on F.QMG_STATUS_DRAMPOOL = false) ∧
    (∃ (s : State), (s.on F.MEM_STATUS_TRAINED = false ∨ s.on F.QMG_STATUS_DRAMPOOL = true)) ∧
    (∃ (s : State), (s.level ≠ 0 ∨ s.sl1Ready = false)) ∧
    (∃ (s : State), (s.level ≠ 1 ∨ s.sl2Ready = false)) ∧
    (∃ (s : State), s.level = 1 ∧ s.sl2Ready = true ∧ s.pwr.sl2 = false) ∧
    (∃ (s : State), s.level = 0 ∧ s.sl1Ready = true ∧ s.upd.level ≤ 1 ∧ s.pwr.doms.length = 21) ∧
    (∃ (s : State), s.level = 1 ∧ s.sl2Ready = true ∧ s.upd.level ≤ 2 ∧ s.pwr.sl2 = true ∧ s.sl2Settled = true) ∧
    (∃ (s : State), s.level = 1 ∧ s.sl2Ready = true ∧ s.pwr.sl2 = true ∧ s.sl2Settled = false) ∧
    (∃ (s : State), s.on F.MEM_STATUS_TRAINED = true ∧ s.cfg.dram = true) ∧
    (∃ (s : State), (s.on F.MEM_STATUS_TRAINED = false ∨ s.cfg.dram = false)) ∧
    (∃ (s : State), (s.domReady 17 = false ∨ s.on F.MEM_STATUS_TRAINED = false ∨ s.fld F.MEM_SCRUB_HOURS = 0)) ∧
    (∃ (s : State) (res : ScrubRes) (region : Nat), s.domReady 17 = true ∧ s.on F.MEM_STATUS_TRAINED = true ∧ s.fld F.MEM_SCRUB_HOURS ≠ 0
      ∧ (res = .clean ∨ region < 4)) ∧
    (∃ (s : State) (res : ScrubRes) (region : Nat), s.domReady 17 = true ∧ s.on F.MEM_STATUS_TRAINED = true ∧ s.fld F.MEM_SCRUB_HOURS ≠ 0
      ∧ (res = .clean ∨ region < 4)) ∧
    (∃ (s : State) (res : ScrubRes) (region : Nat), s.domReady 17 = true ∧ s.on F.MEM_STATUS_TRAINED = true ∧ s.fld F.MEM_SCRUB_HOURS ≠ 0
      ∧ res ≠ .clean ∧ 4 ≤ region) ∧
    (∃ (s : State) (region : Nat), s.domReady 17 = true ∧ s.on F.MEM_STATUS_TRAINED = true ∧ s.fld F.MEM_SCRUB_HOURS ≠ 0 ∧ 4 ≤ region) ∧
    (∃ (s : State) (region : Nat), s.domReady 17 = true ∧ s.on F.MEM_STATUS_TRAINED = true ∧ s.fld F.MEM_SCRUB_HOURS ≠ 0 ∧ 4 ≤ region ∧
      s.on F.MEM_ECCREC_VALID = true) ∧
    (∃ (s : State) (region : Nat), s.domReady 17 = true ∧ s.on F.MEM_STATUS_TRAINED = true ∧ s.fld F.MEM_SCRUB_HOURS ≠ 0 ∧ 4 ≤ region ∧
      s.on F.MEM_ECCREC_VALID = false) :=
  ⟨⟨bAt 1, by decide⟩,
   ⟨{ bAt 0 with mem := { tOn.mem with retrain := true } }, by decide⟩,
   ⟨tOn, by decide⟩,
   ⟨bAt 1, by decide⟩,
   ⟨(bAt 1).setFld F.CFG_STATUS_STATE 5, by decide⟩,
   ⟨bAt 1, true, false, by decide⟩,
   ⟨{ bAt 3 with mem := { tOn.mem with fails := (2, 1) } }, true, true, by decide⟩,
   ⟨{ bRun.setFld F.MEM_STATUS_ATTEMPT 3 with mem := { tOn.mem with fails := (2, 1) } }, true, true, by decide⟩,
   ⟨tOn, tSup, by decide⟩,
   ⟨tOn.setFlag F.CHIP_START_DRAMFAIL true, tSup, by decide⟩,
   ⟨(tOn.setFlag F.CHIP_START_DRAMFAIL true).setFld F.UPD_STATUS_STATE 4, tSup, by decide⟩,
   ⟨bTr, by decide⟩,
   ⟨tOn, by decide⟩,
   ⟨bSl2, by decide⟩,
   ⟨tOn, by decide⟩,
   ⟨{ bSl2 with pwr := { bSl2.pwr with sl2 := false } }, by decide⟩,
   ⟨bSl1, by decide⟩,
   ⟨bSl2, by decide⟩,
   ⟨bSl2.setDom 14 { mode := .off }, by decide⟩,
   ⟨bSl2, by decide⟩,
   ⟨tOn, by decide⟩,
   ⟨tOn, by decide⟩,
   ⟨bScr, .corrected, 2, by decide⟩,
   ⟨bScr, .clean, 5, by decide⟩,
   ⟨bScr, .corrected, 5, by decide⟩,
   ⟨bScr, 5, by decide⟩,
   ⟨bScr.setFlag F.MEM_ECCREC_VALID true, 5, by decide⟩,
   ⟨bScr, 5, by decide⟩⟩

/-! ### Witnesses: CDC, DMX and SIC -/

def rM : Meas := ⟨-400, -32768, 40, 100⟩
def rH : Hdr := { len := 1, par := 0, dep := 0, sw := 0 }
def rLane (st : Nat) : Lane :=
  { state := st, hunter := 0, slice := 0, phy := false, lh := 3, timing := 0, detGt := 100, detFt := 5, sfdGt := 200, meas := rM,
    hdr := some rH, hdrWord := 0, retro := false, catchup := true, delay := 0, ovl := 0, div := false, lostLow := false,
    lostHigh := false, thr := 0x01010101, search := none, waiting := true }
def rL (x : Lane) : State := { tOn with dmx := { tOn.dmx with lanes := [(4, x)] } }
def rS : SymMeas := ⟨5, [(4, 5)], none, []⟩
def rI (st : Nat) : Lane := { rLane st with phy := true }
def rOkI : List Octet := [1, 2, 3] ++ leOctets 2 (fcs16 [1, 2, 3])
def rP : Hdr := { rH with par := 1 }
def rBad : List Octet := [1, 2, 3, 4, 5, 6, 7, 8, 9, 10, 11, 12, 13, 14, 15, 16, 17]
def rW0 : Nat := golay24 (hdrWord rH % 4096)
def rW1 : Nat := golay24 (hdrWord rH / 4096)
def rHunt : State :=
  ((((tOn.setFld F.CHIP_START_LEVEL 2).setFlag (F.DMX_GgHk_EN 0 0) true).setFld (F.DMX_GgHk_LHMASK 0 0) 0x18).setFlag (F.RFPn_SLk_EN 0 0) true).setFld (F.RFPn_LSTAT_STATE 0) 4
def rHuntI : State := rHunt.setFlag (F.RFPn_SLk_PHY 0 0) true
def rDet : Retro := { hunter := 0, slice := 0, phy := false, lh := 3, timing := 0, detGt := 300000000, detFt := 60000, meas := rM, search := none }
def rFull : State := { (rHunt.setFlag F.DMX_CFG_RETRO true).setFlag F.MEM_STATUS_TRAINED true with
  pwr := { tOn.pwr with doms := (List.range 21).map (fun d => if 2 ≤ d ∧ d ≤ 9 then {} else { mode := .on }) } }
def rHOff : State := { rHunt with pwr := { tOn.pwr with doms := (List.range 21).map (fun d => if 2 ≤ d ∧ d ≤ 9 then {} else { mode := .on }) } }
def rMem (ref : Option Nat) (k : Bool) : Member :=
  { ref := ref, qrec := none, known := k, knownAtStart := k, lh := 3, start := 100, fin := 200, power := -10, hidden := false, subtracted := false, tried := false, decoded := false }
def rJob (ph : JobPhase) (ps : Nat) (ms : List Member) : SicJob := ⟨0, 0, false, false, 0, ph, ms, 100, 200, 5, 5, 150, 0, ps, false, 0⟩
def rSic (j : SicJob) : State := { tOn with sic := { tOn.sic with jobs := [j] } }
def rRef : RefEntry := { id := 3, slice := 0, lh := 3, start := 100, fin := 200, hdr := rH, payload := [0x41], power := -10, size := 5, ft := 5 }
def rQ : SicJob := rJob .queued 0 [rMem none false]
def rBig : List Member := List.replicate 4 (rMem none false)
def rFul : State := { (rSic rQ) with sic := { (rSic rQ).sic with reads := [(69990, 5800001)] } }
def rPd : PassDecode := ⟨rW0, rW1, encodePayload rH [0x41], 150, rM⟩

theorem test_met_CdcCodec :
    (∃ (s : State) (l : Nat) (w0 : Nat) (w1 : Nat) (w : Nat) (c : Nat) (m : SymMeas) (x : Lane) (h : Hdr), s.laneIn l 2 = some x ∧ x.phy
      = false ∧ hdrCheck x.lh (x.words m w0 w1).1 (x.words m w0 w1).2 = .ok h w c) ∧
    (∃ (s : State) (l : Nat) (w0 : Nat) (w1 : Nat) (m : SymMeas) (x : Lane), s.laneIn l 2 = some x ∧ x.phy = false ∧ hdrCheck x.lh
      (x.words m w0 w1).1 (x.words m w0 w1).2 = .golayFail) ∧
    (∃ (s : State) (l : Nat) (w0 : Nat) (w1 : Nat) (m : SymMeas) (x : Lane), s.laneIn l 2 = some x ∧ x.phy = false ∧ hdrCheck x.lh
      (x.words m w0 w1).1 (x.words m w0 w1).2 = .hchkFail) ∧
    (∃ (s : State) (l : Nat) (w0 : Nat) (w1 : Nat) (m : SymMeas) (x : Lane), s.laneIn l 2 = some x ∧ x.phy = false ∧ hdrCheck x.lh
      (x.words m w0 w1).1 (x.words m w0 w1).2 = .inv) ∧
    (∃ (c : Nat), c ∈ [Ctr.CDC_HDRGOL, Ctr.CDC_HDRCHK, Ctr.CDC_HDRINV]) ∧
    (∃ (s : State) (l : Nat) (coded : List Octet) (m : SymMeas) (x : Lane) (h : Hdr), s.laneIn l 3 = some x ∧ x.waiting = true ∧ x.hdr =
      some h ∧ (decodePayload h (x.octets m coded)).payload = none) ∧
    (∃ (s : State) (l : Nat) (coded : List Octet) (pl : List Octet) (m : SymMeas) (x : Lane) (h : Hdr), s.laneIn l 3 = some x ∧ x.waiting
      = true ∧ x.hdr = some h ∧ (decodePayload h (x.octets m coded)).payload = some pl) ∧
    (∃ (s : State) (l : Nat), s.laneIn l 2 = none) ∧
    (∃ (s : State) (l : Nat) (x : Lane), s.laneIn l 2 = some x ∧ x.phy = true) ∧
    (∃ (s : State) (l : Nat), s.laneIn l 3 = none) ∧
    (∃ (s : State) (l : Nat) (x : Lane), s.laneIn l 3 = some x ∧ (x.waiting = false ∨ x.hdr = none)) ∧
    (∃ (s : State), s.cdc.queue = []) ∧
    (∃ (s : State) (r : EncReq) (l : List EncReq), s.cdc.queue = r :: l) ∧
    (∃ (s : State) (id : Nat), s.cdc.queue.any (fun (x : EncReq) => x.id == id) = true) ∧
    (∃ (s : State) (id : Nat), s.cdc.queue.any (fun (x : EncReq) => x.id == id) = false) :=
  ⟨⟨rL (rLane 2), 4, golay24 12, golay24 1, 4108, 0, rS, rLane 2, ⟨12, 2, 0, 0⟩, by decide⟩,
   ⟨rL (rLane 2), 4, 0x00F00F, golay24 0, rS, rLane 2, rfl, rfl, hdrCheck_far⟩,
   ⟨rL (rLane 2), 4, golay24 0, golay24 1, rS, rLane 2, by decide⟩,
   ⟨rL (rLane 2), 4, golay24 0, golay24 5, rS, rLane 2, by decide⟩,
   ⟨Ctr.CDC_HDRGOL, by decide⟩,
   ⟨rL { rLane 3 with hdr := some rP }, 4, rBad, rS, { rLane 3 with hdr := some rP }, rP, by decide⟩,
   ⟨rL (rLane 3), 4, encodePayload rH [0x41], [0x41], rS, rLane 3, rH, by decide⟩,
   ⟨rL (rLane 3), 4, by decide⟩,
   ⟨rL (rI 2), 4, rI 2, by decide⟩,
   ⟨rL (rLane 2), 4, by decide⟩,
   ⟨rL { rLane 3 with waiting := false }, 4, { rLane 3 with waiting := false }, by decide⟩,
   ⟨tOn, by decide⟩,
   ⟨{ tOn with cdc := { tOn.cdc with queue := [⟨7, 100, 3, rH, [0x41]⟩] } }, ⟨7, 100, 3, rH, [0x41]⟩, [], by decide⟩,
   ⟨{ tOn with cdc := { tOn.cdc with queue := [⟨7, 100, 3, rH, [0x41]⟩] } }, 7, by decide⟩,
   ⟨tOn, 7, by decide⟩⟩

theorem test_met_DmxDetections :
    (∃ (s : State) (h : Nat) (lh : Nat) (timing : Nat) (excess : Int) (meas : Meas), s.hunting h = true ∧ s.on (F.RFPn_SLk_PHY
      (s.hunterSlice h / 128) (s.hunterSlice h % 128)) = false ∧ bit (s.fld (F.DMX_GgHk_LHMASK (h / 64) (h % 64))) lh = true ∧ (s.actFld
      (F.DMX_GgTHR_THR (h / 64)) : Int) < excess ∧ meas.fofs.natAbs ≤ 2500 ∧ (s.level ≠ 1 ∨ 4 ≤ lh) ∧ s.ownPreamble (s.hunterSlice h)
      timing lh = false) ∧
    (∃ (s : State) (h : Nat) (lh : Nat) (excess : Int) (meas : Meas), s.hearsNative h lh excess meas = false) ∧
    (∃ (s : State) (h : Nat) (lh : Nat) (excess : Int) (meas : Meas), (s.hunting h = false ∨ s.on (F.RFPn_SLk_PHY (s.hunterSlice h / 128)
      (s.hunterSlice h % 128)) = true ∨ bit (s.fld (F.DMX_GgHk_LHMASK (h / 64) (h % 64))) lh = false ∨ excess ≤ (s.actFld
      (F.DMX_GgTHR_THR (h / 64)) : Int) ∨ 2500 < meas.fofs.natAbs ∨ (s.level = 1 ∧ lh < 4))) ∧
    (∃ (s : State) (h : Nat) (lh : Nat) (timing : Nat) (excess : Int) (meas : Meas), s.hearsNative h lh excess meas = true ∧
      s.ownPreamble (s.hunterSlice h) timing lh = true) ∧
    (∃ (s : State) (h : Nat) (excess : Int) (meas : Meas), s.hearsI3 h excess meas = false) ∧
    (∃ (s : State) (h : Nat) (timing : Nat) (excess : Int) (meas : Meas), s.hearsI3 h excess meas = true ∧ s.ownPreamble (s.hunterSlice
      h) timing 1 = true) ∧
    (∃ (s : State) (h : Nat) (timing : Nat) (excess : Int) (meas : Meas), s.hunting h = true ∧ s.on (F.RFPn_SLk_PHY (s.hunterSlice h /
      128) (s.hunterSlice h % 128)) = true ∧ (s.actFld (F.DMX_GgTHR_THR (h / 64)) : Int) < excess ∧ meas.fofs.natAbs * (s.sliceCentre
      (s.hunterSlice h / 128) (s.hunterSlice h % 128)).natAbs ≤ 100 * 10 ^ 8 ∧ s.ownPreamble (s.hunterSlice h) timing 1 = false) ∧
    (∃ (s : State) (h : Nat) (pref : Nat) (l : Nat) (b : Bool) (r : Retro), s.pickLane (s.rivalLanes { gt := r.detGt, ft := r.detFt }
      (some r.slice)) (h / 64) pref false = some (l, b)) ∧
    (∃ (s : State) (h : Nat) (pref : Nat) (r : Retro), s.pickLane (s.rivalLanes { gt := r.detGt, ft := r.detFt } (some r.slice)) (h / 64)
      pref false = none ∧ (s.on F.DMX_CFG_RETRO = false ∨ s.on F.MEM_STATUS_TRAINED = false)) ∧
    (∃ (s : State) (h : Nat) (pref : Nat) (r : Retro), s.pickLane (s.rivalLanes { gt := r.detGt, ft := r.detFt } (some r.slice)) (h / 64)
      pref false = none ∧ s.on F.DMX_CFG_RETRO = true ∧ s.on F.MEM_STATUS_TRAINED = true ∧ s.dmx.retro.length < 64) ∧
    (∃ (s : State) (h : Nat) (pref : Nat) (r : Retro), s.pickLane (s.rivalLanes { gt := r.detGt, ft := r.detFt } (some r.slice)) (h / 64)
      pref false = none ∧ s.on F.DMX_CFG_RETRO = true ∧ s.on F.MEM_STATUS_TRAINED = true ∧ 64 ≤ s.dmx.retro.length) ∧
    (∃ (s : State) (t : Time) (pref : Nat), s.nextRetro t pref = none) ∧
    (∃ (s : State) (t : Time) (pref : Nat) (l : Nat) (b : Bool) (r : Retro), s.nextRetro t pref = some (r, l, b) ∧ 0 < gtDiff t.gt (gtSub
      r.detGt (s.symGt r.slice r.lh 4)) ∧ 60000000 < gtToNs (gtDiff t.gt (gtSub r.detGt (s.symGt r.slice r.lh 4))).toNat s.mainsFreq) ∧
    (∃ (s : State) (t : Time) (pref : Nat) (l : Nat) (b : Bool) (r : Retro), s.nextRetro t pref = some (r, l, b) ∧ (gtDiff t.gt (gtSub
      r.detGt (s.symGt r.slice r.lh 4)) ≤ 0 ∨ gtToNs (gtDiff t.gt (gtSub r.detGt (s.symGt r.slice r.lh 4))).toNat s.mainsFreq ≤
      60000000)) ∧
    (∃ (s : State) (l : Nat), s.dmx.lanes.find l = none) ∧
    (∃ (s : State) (l : Nat) (x : Lane), s.dmx.lanes.find l = some x ∧ x.catchup = false) ∧
    (∃ (s : State) (l : Nat) (x : Lane), s.dmx.lanes.find l = some x ∧ x.catchup = true) :=
  ⟨⟨rHunt, 0, 4, 0, 100, rM, by decide⟩,
   ⟨rHunt, 0, 5, 100, rM, by decide⟩,
   ⟨rHunt, 0, 5, 100, rM, by decide⟩,
   ⟨{ rHunt with dmx := { rHunt.dmx with lanes := [(4, { rLane 1 with lh := 4 })] } }, 0, 4, 0, 100, rM, by decide⟩,
   ⟨rHunt, 0, 100, { rM with fofs := 0 }, by decide⟩,
   ⟨{ rHuntI with dmx := { rHuntI.dmx with lanes := [(4, { rI 1 with lh := 1 })] } }, 0, 0, 100, { rM with fofs := 0 }, by decide⟩,
   ⟨rHuntI, 0, 0, 100, { rM with fofs := 0 }, by decide⟩,
   ⟨rHunt, 0, 3, 3, false, rDet, by decide⟩,
   ⟨rHOff, 0, 3, rDet, by decide⟩,
   ⟨rFull, 0, 3, rDet, by decide⟩,
   ⟨{ rFull with dmx := { rFull.dmx with retro := List.replicate 64 rDet } }, 0, 3, rDet, by decide⟩,
   ⟨rHunt, tT, 2, by decide⟩,
   ⟨{ rHunt with dmx := { rHunt.dmx with retro := [{ rDet with detGt := 0 }] }, gtb := { rHunt.gtb with freq := 50000 } },
     { gt := 90 * 16777216, ft := 70000 }, 2, 2, false, { rDet with detGt := 0 }, by decide⟩,
   ⟨{ rHunt with dmx := { rHunt.dmx with retro := [rDet] } }, tT, 2, 2, false, rDet, by decide⟩,
   ⟨tOn, 4, by decide⟩,
   ⟨rL { rLane 2 with catchup := false }, 4, { rLane 2 with catchup := false }, by decide⟩,
   ⟨rL (rLane 2), 4, rLane 2, by decide⟩⟩

theorem test_met_DmxLanes :
    (∃ (s : State) (l : Nat) (x : Lane), s.laneIn l 1 = some x) ∧
    (∃ (s : State) (l : Nat) (x : Lane), s.laneIn l 1 = some x) ∧
    (∃ (s : State) (l : Nat) (x : Lane), s.laneIn l 3 = some x) ∧
    (∃ (s : State) (l : Nat) (len : Nat) (x : Lane), s.laneIn l 2 = some x ∧ x.phy = true ∧ len % 128 ≤ 4) ∧
    (∃ (s : State) (l : Nat) (len : Nat) (psdu : List Octet) (m : SymMeas) (x : Lane), s.laneIn l 2 = some x ∧ x.phy = true ∧ 4 < len %
      128 ∧ fcs16 ((x.octets m psdu).take ((x.octets m psdu).length - 2)) = leNat ((x.octets m psdu).drop ((x.octets m psdu).length -
      2))) ∧
    (∃ (s : State) (l : Nat) (len : Nat) (psdu : List Octet) (m : SymMeas) (x : Lane), s.laneIn l 2 = some x ∧ x.phy = true ∧ 4 < len %
      128 ∧ fcs16 ((x.octets m psdu).take ((x.octets m psdu).length - 2)) ≠ leNat ((x.octets m psdu).drop ((x.octets m psdu).length -
      2))) ∧
    (∃ (s : State) (l : Nat) (n : Nat) (esn0 : Int) (x : Lane), s.dmx.lanes.find l = some x ∧ 2 ≤ x.state ∧ (if F.DMX_THR_FADESYM.ext
      x.thr = 0 then 16 else F.DMX_THR_FADESYM.ext x.thr) ≤ n ∧ esn0 < (F.DMX_THR_FADETHR.ext x.thr : Int)) ∧
    (∃ (s : State) (l : Nat) (n : Nat) (esn0 : Int) (x : Lane), s.dmx.lanes.find l = some x ∧ (x.state < 2 ∨ n < (if
      F.DMX_THR_FADESYM.ext x.thr = 0 then 16 else F.DMX_THR_FADESYM.ext x.thr) ∨ (F.DMX_THR_FADETHR.ext x.thr : Int) ≤ esn0)) ∧
    (∃ (s : State) (l : Nat), s.dmx.lanes.find l = none) ∧
    (∃ (s : State) (l : Nat) (x : Lane), s.dmx.lanes.find l = some x ∧ x.state ≠ 1) ∧
    (∃ (s : State) (l : Nat) (x : Lane), s.dmx.lanes.find l = some x ∧ x.state ≠ 3) ∧
    (∃ (s : State) (l : Nat) (x : Lane), s.dmx.lanes.find l = some x ∧ (x.state ≠ 2 ∨ x.phy = false)) ∧
    (∃ (s : State) (l : Nat) (x : Lane), s.dmx.lanes.find l = some x) ∧
    (∃ (x : Lane), x.phy = false) ∧
    (∃ (s : State) (x : Lane), x.phy = true ∧ s.fld F.DMX_QCFG_MIRROR = 1 ∧ s.dmx.mirror.length < 512) ∧
    (∃ (x : Lane), x.phy = true) ∧
    (∃ (s : State) (rq : Req), s.barred rq Reg.DMX_QPOP (some 1) = none) :=
  ⟨⟨rL (rLane 1), 4, rLane 1, by decide⟩,
   ⟨rL (rLane 1), 4, rLane 1, by decide⟩,
   ⟨rL (rLane 3), 4, rLane 3, by decide⟩,
   ⟨rL (rI 2), 4, 4, rI 2, by decide⟩,
   ⟨rL (rI 2), 4, 5, rOkI, rS, rI 2, by decide⟩,
   ⟨rL (rI 2), 4, 5, [1,2,3,4,5], rS, rI 2, by decide⟩,
   ⟨rL (rLane 2), 4, 60, -5, rLane 2, by decide⟩,
   ⟨rL (rLane 1), 4, 60, -5, rLane 1, by decide⟩,
   ⟨tOn, 4, by decide⟩,
   ⟨rL (rLane 2), 4, rLane 2, by decide⟩,
   ⟨rL (rLane 2), 4, rLane 2, by decide⟩,
   ⟨rL (rLane 2), 4, rLane 2, by decide⟩,
   ⟨rL (rLane 2), 4, rLane 2, by decide⟩,
   ⟨rLane 3, by decide⟩,
   ⟨(rL (rI 3)).setFld F.DMX_QCFG_MIRROR 1, rI 3, by decide⟩,
   ⟨rI 1, by decide⟩,
   ⟨tOn, tSup, by decide⟩⟩

theorem test_met_SicJobs :
    (∃ (s : State) (t : Time) (j : SicJob), s.engFree = true ∧ earliestJob s.sic.jobs = some j ∧ (s.at t).windowWritten j = true ∧ (s.at
      t).readHeld ((s.at t).taken j) = false) ∧
    (∃ (s : State) (t : Time) (j : SicJob), s.engFree = true ∧ earliestJob s.sic.jobs = some j ∧ (s.at t).windowWritten j = true ∧ (s.at
      t).readHeld ((s.at t).taken j) = true) ∧
    (∃ (s : State) (t : Time), (s.engFree = false ∨ earliestJob s.sic.jobs = none ∨ (earliestJob s.sic.jobs).any (fun j => !(s.at
      t).windowWritten j) = true)) ∧
    (∃ (s : State) (id : Nat), s.sic.jobs.find? (fun (j : SicJob) => j.id == id && j.phase == .waiting) = none) ∧
    (∃ (s : State) (id : Nat) (j : SicJob), s.sic.jobs.find? (fun (j : SicJob) => j.id == id && j.phase == .waiting) = some j) ∧
    (∃ (s : State) (j : SicJob) (d : SicJob) (n : Nat), s.formSet j = (d, n) ∧ s.laneOverlaps j.slice d.start d.fin = true) ∧
    (∃ (s : State) (j : SicJob) (d : SicJob) (n : Nat) (o : SicOutcome), s.formSet j = (d, n) ∧ s.laneOverlaps j.slice d.start d.fin =
      false ∧ s.verdict d = some o ∧ s.on F.SIC_RCFG_RECORD = false) ∧
    (∃ (s : State) (t : Time) (j : SicJob) (d : SicJob) (n : Nat), s.formSet j = (d, n) ∧ s.laneOverlaps j.slice d.start d.fin = false ∧
      s.verdict d = none ∧ s.readsFull d t.ft = false) ∧
    (∃ (s : State) (t : Time) (j : SicJob) (d : SicJob) (n : Nat), s.formSet j = (d, n) ∧ s.laneOverlaps j.slice d.start d.fin = false ∧
      s.verdict d = none ∧ s.readsFull d t.ft = true) ∧
    (∃ (s : State) (id : Nat), s.sic.jobs.find? (fun (j : SicJob) => j.id == id && j.phase == .running) = none) ∧
    (∃ (s : State) (id : Nat) (j : SicJob), s.sic.jobs.find? (fun (j : SicJob) => j.id == id && j.phase == .running) = some j ∧
      s.jobReading id = true) ∧
    (∃ (s : State) (id : Nat) (j : SicJob), s.sic.jobs.find? (fun (j : SicJob) => j.id == id && j.phase == .running) = some j ∧
      s.jobReading id = false ∧ j.nextMember = none) ∧
    (∃ (s : State) (id : Nat) (dec : Option PassDecode) (hidden : List HiddenDet) (j : SicJob) (k : SicJob) (m : Member),
      s.sic.jobs.find? (fun (j : SicJob) => j.id == id && j.phase == .running) = some j ∧ s.jobReading id = false ∧ j.nextMember = some m
      ∧ m.known = false ∧ (s.sicDecode j m dec).1 = none ∧ k = (if j.passes = 0 ∧ F.SIC_CFG_HIDDEN.ext j.cfg = 1 then hidden.filter (fun
      d => bit (s.hunterMask j.slice) d.lh) else []).foldl (addHidden j.cfg j.div (fun lh => s.symGt j.slice lh 1))
      { j with passes := j.passes + 1, members := updMember (fun (x : Member) => x == m) (fun x => { x with tried := true }) j.members })
      ∧
    (∃ (s : State) (id : Nat) (hidden : List HiddenDet) (j : SicJob) (k : SicJob) (m : Member), s.sic.jobs.find? (fun (j : SicJob) =>
      j.id == id && j.phase == .running) = some j ∧ s.jobReading id = false ∧ j.nextMember = some m ∧ m.known = true ∧ m.ref.all (fun r
      => s.sic.refs.any (fun (e : RefEntry) => e.id == r)) = true ∧ k = (if j.passes = 0 ∧ F.SIC_CFG_HIDDEN.ext j.cfg = 1 then
      hidden.filter (fun d => bit (s.hunterMask j.slice) d.lh) else []).foldl (addHidden j.cfg j.div (fun lh => s.symGt j.slice lh 1))
      { j with passes := j.passes + 1, members := updMember (fun (x : Member) => x == m) (fun x => { x with subtracted := true }) j.members })
      ∧
    (∃ (s : State) (id : Nat) (j : SicJob) (m : Member) (r : Nat), s.sic.jobs.find? (fun (j : SicJob) => j.id == id && j.phase ==
      .running) = some j ∧ s.jobReading id = false ∧ j.nextMember = some m ∧ m.known = true ∧ m.ref = some r ∧ s.sic.refs.any (fun (e :
      RefEntry) => e.id == r) = false) ∧
    (∃ (s : State) (id : Nat) (d : PassDecode) (j : SicJob) (m : Member) (h : Hdr) (w : Nat) (c : Nat) (pl : List Octet),
      s.sic.jobs.find? (fun (j : SicJob) => j.id == id && j.phase == .running) = some j ∧ s.jobReading id = false ∧ j.nextMember = some m
      ∧ m.known = false ∧ hdrCheck m.lh d.w0 d.w1 = .ok h w c ∧ (decodePayload h d.coded).payload = some pl) ∧
    (∃ (s : State), s.on F.SIC_RCFG_RECORD = false) ∧
    (∃ (s : State) (rq : Req), s.barred rq Reg.SIC_RQPOP (some 1) = none) :=
  ⟨⟨rSic rQ, tT, rQ, by decide⟩,
   ⟨rFul, ⟨300, 70000⟩, rQ, by decide⟩,
   ⟨tOn, tT, by decide⟩,
   ⟨tOn, 3, by decide⟩,
   ⟨rSic (rJob .waiting 0 [rMem none false]), 0, rJob .waiting 0 [rMem none false], by decide⟩,
   ⟨{ rSic (rJob .waiting 0 [rMem none false]) with dmx := (rL (rLane 2)).dmx }, rJob .waiting 0 [rMem none false], rJob .waiting 0 [rMem
     none false], 0, by decide⟩,
   ⟨rSic (rJob .waiting 0 rBig), rJob .waiting 0 rBig, rJob .waiting 0 rBig, 0, .tooMany, by decide +kernel⟩,
   ⟨rSic (rJob .waiting 0 [rMem none false]), tT, rJob .waiting 0 [rMem none false], rJob .waiting 0 [rMem none false], 0, by decide⟩,
   ⟨{ rFul with sic := { rFul.sic with jobs := [rJob .waiting 0 [rMem none false]] } }, ⟨300, 70000⟩, rJob .waiting 0 [rMem none false],
     rJob .waiting 0 [rMem none false], 0, by decide⟩,
   ⟨tOn, 0, by decide⟩,
   ⟨{ rSic (rJob .running 1 []) with rfp := { tOn.rfp with reads := [⟨1, .sic, 0, 0, 0, 0, 0⟩] } }, 0, rJob .running 1 [], by decide⟩,
   ⟨rSic (rJob .running 1 []), 0, rJob .running 1 [], by decide⟩,
   ⟨rSic (rJob .running 1 [rMem none false]), 0, none, [], rJob .running 1 [rMem none false],
     { rJob .running 2 [rMem none false] with members := [{ rMem none false with tried := true }] }, rMem none false, by decide⟩,
   ⟨{ rSic (rJob .running 1 [rMem (some 3) true]) with sic := { (rSic (rJob .running 1 [rMem (some 3) true])).sic with refs := [rRef] } },
     0, [], rJob .running 1 [rMem (some 3) true],
     { rJob .running 2 [rMem (some 3) true] with members := [{ rMem (some 3) true with subtracted := true }] }, rMem (some 3) true,
     by decide⟩,
   ⟨rSic (rJob .running 1 [rMem (some 3) true]), 0, rJob .running 1 [rMem (some 3) true], rMem (some 3) true, 3, by decide⟩,
   ⟨rSic (rJob .running 1 [rMem none false]), 0, rPd, rJob .running 1 [rMem none false], rMem none false, rH, hdrWord rH, 0, [0x41],
     by decide⟩,
   ⟨rSic (rJob .running 1 [rMem none false]), by decide⟩,
   ⟨tOn, tSup, by decide⟩⟩

/-! ### Witnesses: MSQ and BGT -/

def actSet (s : State) (f : Field) (n : Nat) : State :=
  { s with active := s.active.putD (resetOf f.reg) f.reg (f.ins (s.act f.reg) n) }
def mNbr : Nbr :=
  { eui := 0, node := 0, st := 1, key := 0, sw := 0, par := 0, dep := 0, rxHigh := 0, rxWin := 0, supto := 1, lastGt := 0, drift := 0,
    unc := 0, theta := 0, guard := (4 * tOn.actFld F.MSQ_GUARD_GDEF + 15) / 16, wide := 0, retries := 0, heard := false }
def mN : State := tOn.setReg (Reg.MSQ_NBDATAw 7) 1
def mWith (l : Tab Nbr) (s : State) : State := { s with msq := { s.msq with nbrs := l } }
def mQ : QRec :=
  { sfdGt := 5 * 16777216, slice := 0, phy := false, retro := false, div := false, divLost := false, lh := 3, lp := 3, outcome := 0,
    sicReq := false, ovl := 0, meas := ⟨-400, -32768, 40, 100⟩, hdr := 0, corr := 0, lane := 0, retroDly := 0, node := none }
def mF (l : List Octet) : RxFrame := { search := none, qrec := mQ, hdr := { len := 1, par := 0, dep := 0, sw := 0 }, payload := l, fin := 300 }
def mIn (l : List Octet) : State := { tOn with inbox := [mF l] }
def mH (f : Nat) : MacHdr :=
  { typ := 0, sec := true, dir := false, ar := false, ie := false, long := false, seq := 0, addr := 7, eui := 0, fcnt := f, len := 9 }
def mAw : State := { mWith [(9, mNbr)] tOn with msq := { (mWith [(9, mNbr)] tOn).msq with awaits := [⟨9, false, 3, 100⟩] } }
def mC (d : Nat) (x b : Bool) : Cell := ⟨0, 0, d, x, b, 0, 0, 9, false⟩
def mPk (k : Nat) : Pkt :=
  { cells := [3], data := [0x41, 0x42], arr := 0, src := 6, holder := .none, queue := some 9, pushed := 1, info := { kind := k } }
def mTx : State :=
  let s := actSet (actSet ((((((tOn.setFld (F.MSQ_HOPcLEN_LEN 0) 1).setFld F.CHIP_START_LEVEL 2).setFlag (F.RFPn_SLk_EN 0 0) true).setFld (F.RFPn_RXCTR_KHZ 0) 863100).setFld
    (F.RFPn_LSTAT_STATE 0) 4).setFlag F.GTB_STATUS_VALID true) (F.MSQ_TPLt_B_EN 0) 1)
    (F.MSQ_TPLt_A_CHCLASS 0) 0
  { s with msq := { s.msq with sfs := [1, 0, 0, 0, 0, 0, 0, 0], cells := [mC 1 false false, mC 2 false false, mC 0 true false, mC 1 false true] },
           qmg := { s.qmg with pkts := [(3, mPk 3)], queues := [(9, { cells := [3] })] } }
def mTxN : State := mWith [(9, mNbr)] mTx
def mX : MsqTx := ⟨.raw 9 3, 0, 0, 100, 2 ^ 40, 3, { len := 1, par := 1, dep := 0, sw := 0 }, [1], false, 0, 1, none⟩
def mBk (s : State) (x : MsqTx) : State := { s with msq := { s.msq with backoffs := [(4, (70, x))] } }
def mSr (b : Bool) (o : List Nat) (n : Nat) : Search := ⟨5, 9, mC 0 true false, 100, b, n, o⟩
def mSs (x : Search) : State := { mTxN with msq := { mTxN.msq with searches := [x] } }
def mDet : SearchDet := ⟨0, 0, 100, ⟨-400, -32768, 40, 100⟩⟩
def mSt : Stream := { id := 6, user := .msq, slice := 0, start := 5 * 16777216 + 9, dur := 100, prof := 0, active := false }
def mBg : State := { mTx with rfp := { mTx.rfp with ports := [{ streams := [mSt] }, {}, {}, {}] } }
def mBl : State :=
  (((((mBg.setFld (F.BGT_SBkPOL_MODE 0) 1).setFld (F.BGT_SBkF0_KHZ 0) 863000).setFld (F.BGT_SBkF1_KHZ 0) 864000).setFld
    (F.BGT_SBkALLOW_ALLOW 0) 5000).setFld (F.BGT_SBkPOL_WIN 0) 60).setFld (F.BGT_SBkLBT_LISTEN 0) 2
def mLk (src : Nat) : LinkRec := ⟨5, 2 ^ 23, src, 0, 3, true, 0, 0, 0, 0, 0, 0, 0, []⟩
def mKey : Nat := linkKey 5 tOn.ownEp 0
def mOb : Obs := ⟨5, 0, 3, 40, -400, 7⟩
def mLs (src : Nat) : State := { tOn with slv := { tOn.slv with obs := [mOb], links := [(mKey, mLk src)] } }
def mMany : State :=
  let s := (mTxN.setFlag F.MSQ_CFG_SEARCH true).setFlag F.MEM_STATUS_TRAINED true
  { s with msq := { s.msq with searches := List.replicate 256 (mSr false [] 8) } }
def mFullR : State := { mSs (mSr true [0] 1) with dmx := { tOn.dmx with retro := List.replicate 64 { hunter := 0, slice := 0, phy := false, lh := 3, timing := 0, detGt := 300000000, detFt := 60000, meas := ⟨-400, -32768, 40, 100⟩, search := none } } }
def mDetX : SearchDet := ⟨0, 0, 100 + mFullR.symGt 0 (mFullR.tplLh 0) 4, ⟨-400, -32768, 40, 100⟩⟩

theorem test_met_Neighbours :
    (∃ (s : State) (rq : Req) (slot : Nat), s.barred rq Reg.MSQ_NBCMD (some (nbWord slot 0)) = none) ∧
    (∃ (s : State) (rq : Req) (slot : Nat) (n : Nbr), s.barred rq Reg.MSQ_NBCMD (some (nbWord slot 1)) = none ∧ s.nbData = some n ∧
      (s.nodeRec n.node).any (fun e => e.1 != slot % 65536) = false ∧ s.nbr (slot % 65536) = none) ∧
    (∃ (s : State) (rq : Req) (slot : Nat) (n : Nbr) (o : Nbr), s.barred rq Reg.MSQ_NBCMD (some (nbWord slot 1)) = none ∧ s.nbData = some
      n ∧ (s.nodeRec n.node).any (fun e => e.1 != slot % 65536) = false ∧ s.nbr (slot % 65536) = some o) ∧
    (∃ (s : State) (rq : Req) (slot : Nat), s.barred rq Reg.MSQ_NBCMD (some (nbWord slot 1)) = none ∧ s.nbData = none) ∧
    (∃ (s : State) (rq : Req) (slot : Nat) (n : Nbr) (e : Nat × Nbr), s.barred rq Reg.MSQ_NBCMD (some (nbWord slot 1)) = none ∧ s.nbData
      = some n ∧ s.nodeRec n.node = some e ∧ e.1 ≠ slot % 65536) ∧
    (∃ (s : State) (rq : Req) (slot : Nat), s.barred rq Reg.MSQ_NBCMD (some (nbWord slot 2)) = none) ∧
    (∃ (s : State) (t : Time) (r : Nat) (n : Nbr), s.nbr r = some n ∧ (n.st = 1 ∨ n.st = 2) ∧ (s.at t).supOver n = true) ∧
    (∃ (s : State) (t : Time) (r : Nat), (s.nbr r).any (fun n => (n.st == 1 || n.st == 2) && (s.at t).supOver n) = false) :=
  ⟨⟨tOn, tSup, 5, by decide⟩,
   ⟨mN, tSup, 5, mNbr, by decide⟩,
   ⟨mWith [(5, { mNbr with node := 77 })] mN, tSup, 5, mNbr, { mNbr with node := 77 }, by decide⟩,
   ⟨tOn, tSup, 5, by decide⟩,
   ⟨mWith [(9, mNbr)] mN, tSup, 5, mNbr, (9, mNbr), by decide⟩,
   ⟨mWith [(5, mNbr)] tOn, tSup, 5, by decide⟩,
   ⟨mWith [(5, mNbr)] tOn, { gt := 100 * 16777216, ft := 9 }, 5, mNbr, by decide⟩,
   ⟨mWith [(5, mNbr)] tOn, tT, 5, by decide⟩⟩

theorem test_met_MsqReceives :
    (∃ (s : State) (f : RxFrame) (l : List RxFrame), s.inbox = f :: l) ∧
    (∃ (s : State), s.inbox = []) ∧
    (∃ (s : State) (f : RxFrame) (l : List RxFrame), s.inbox = f :: l ∧ macHdr f.payload = none ∧ s.fld F.DMX_QCFG_MIRROR = 0) ∧
    (∃ (s : State) (f : RxFrame) (l : List RxFrame) (h : MacHdr), s.inbox = f :: l ∧ macHdr f.payload = some h ∧ h.typ ≠ 2 ∧ h.typ ≠ 4 ∧
      h.long = false ∧ h.addr / 2 ^ 18 ≠ s.fld F.MSQ_CFG_PANTAG ∧ s.fld F.DMX_QCFG_MIRROR = 0) ∧
    (∃ (s : State) (h : MacHdr), s.nodeRec (h.addr % 2 ^ 18) = none) ∧
    (∃ (s : State) (h : MacHdr) (r : Nat) (n : Nbr), s.nodeRec (h.addr % 2 ^ 18) = some (r, n) ∧ n.st ≠ 1 ∧ n.st ≠ 2) ∧
    (∃ (s : State) (f : RxFrame) (h : MacHdr) (r : Nat) (n : Nbr), s.nodeRec (h.addr % 2 ^ 18) = some (r, n) ∧ (n.st = 1 ∨ n.st = 2) ∧
      h.typ = 1 ∧ s.awaited r (gtSub f.qrec.sfdGt (s.symGt f.qrec.slice f.qrec.lh 10)) = none) ∧
    (∃ (s : State) (f : RxFrame) (h : MacHdr) (r : Nat) (n : Nbr), s.nodeRec (h.addr % 2 ^ 18) = some (r, n) ∧ (n.st = 1 ∨ n.st = 2) ∧
      (h.typ ≠ 1 ∨ (s.awaited r (gtSub f.qrec.sfdGt (s.symGt f.qrec.slice f.qrec.lh 10))).isSome = true) ∧ h.fcnt + 63 < n.rxHigh) ∧
    (∃ (s : State) (h : MacHdr) (r : Nat) (n : Nbr), s.nodeRec (h.addr % 2 ^ 18) = some (r, n) ∧ (n.st = 1 ∨ n.st = 2) ∧ h.typ ≠ 1 ∧
      n.rxHigh ≤ h.fcnt + 63) ∧
    (∃ (s : State) (f : RxFrame) (h : MacHdr) (r : Nat) (n : Nbr) (a : Await), s.nodeRec (h.addr % 2 ^ 18) = some (r, n) ∧ (n.st = 1 ∨
      n.st = 2) ∧ h.typ = 1 ∧ s.awaited r (gtSub f.qrec.sfdGt (s.symGt f.qrec.slice f.qrec.lh 10)) = some a ∧ n.rxHigh ≤ h.fcnt + 63) ∧
    (∃ (n : Nbr) (f : Nat), n.rxHigh < f) ∧
    (∃ (s : State) (t : Time) (r : Nat) (a : Await), s.msq.awaits.find? (fun (a : Await) => a.record == r) = some a ∧ 0 < gtDiff t.gt
      ((s.at t).ackDue a)) ∧
    (∃ (s : State) (t : Time) (r : Nat) (a : Await), s.msq.awaits.find? (fun (a : Await) => a.record == r) = some a ∧ gtDiff t.gt ((s.at
      t).ackDue a) ≤ 0) ∧
    (∃ (s : State) (r : Nat), s.msq.awaits.find? (fun (a : Await) => a.record == r) = none) ∧
    (∃ (s : State) (r : Nat) (n : Nbr), s.nbr r = some n ∧ n.retries + 1 ≤ s.fld F.MSQ_TXCFG_MAXRETRY) ∧
    (∃ (s : State) (r : Nat) (pkt : Nat) (n : Nbr), s.nbr r = some n ∧ s.fld F.MSQ_TXCFG_MAXRETRY < n.retries + 1 ∧ s.qmg.pkts.find pkt =
      none) :=
  ⟨⟨mIn [], mF [], [], by decide⟩,
   ⟨tOn, by decide⟩,
   ⟨mIn [], mF [], [], by decide⟩,
   ⟨mIn [0,0,0,0,4], mF [0,0,0,0,4], [], ⟨0, false, false, false, false, false, 0, 262144, 0, 0, 5⟩, by decide⟩,
   ⟨tOn, mH 0, by decide⟩,
   ⟨mWith [(9, { mNbr with node := 7, st := 3 })] tOn, mH 0, 9, { mNbr with node := 7, st := 3 }, by decide⟩,
   ⟨mWith [(9, { mNbr with node := 7 })] tOn, mF [1], { mH 0 with typ := 1 }, 9, { mNbr with node := 7 }, by decide⟩,
   ⟨mWith [(9, { mNbr with node := 7, rxHigh := 200 })] tOn, mF [1], mH 0, 9, { mNbr with node := 7, rxHigh := 200 }, by decide⟩,
   ⟨mWith [(9, { mNbr with node := 7 })] tOn, mH 0, 9, { mNbr with node := 7 }, by decide⟩,
   ⟨{ mWith [(9, { mNbr with node := 7 })] tOn with msq := { (mWith [(9, { mNbr with node := 7 })] tOn).msq with awaits := [⟨9, false, 3, gtSub (gtSub mQ.sfdGt (tOn.symGt 0 3 10)) (usToGt 1000 tOn.mainsFreq)⟩] } },
     mF [1], { mH 0 with typ := 1 }, 9, { mNbr with node := 7 }, ⟨9, false, 3, gtSub (gtSub mQ.sfdGt (tOn.symGt 0 3 10)) (usToGt 1000
     tOn.mainsFreq)⟩, by decide⟩,
   ⟨mNbr, 5, by decide⟩,
   ⟨mAw, tT, 9, ⟨9, false, 3, 100⟩, by decide⟩,
   ⟨mAw, ⟨100, 5⟩, 9, ⟨9, false, 3, 100⟩, by decide⟩,
   ⟨tOn, 9, by decide⟩,
   ⟨mAw.setFld F.MSQ_TXCFG_MAXRETRY 3, 9, mNbr, by decide⟩,
   ⟨mAw.setFld F.MSQ_TXCFG_MAXRETRY 0, 9, 3, mNbr, by decide⟩⟩

theorem test_met_MsqTransmits :
    (∃ (s : State) (c : Cell) (ec : Nat), (s.level = 0 ∨ s.allCells.contains c = false ∨ s.cellAt c ec = false ∨ c.dir = 0)) ∧
    (∃ (s : State) (c : Cell) (ec : Nat), s.level ≠ 0 ∧ s.allCells.contains c = true ∧ s.cellAt c ec = true ∧ c.dir ≠ 0 ∧ (s.tplOn c.tpl
      = false ∨ c.dir = 1 ∧ c.beacon = false ∧ s.nbr c.record = none)) ∧
    (∃ (s : State) (c : Cell) (ec : Nat), s.level ≠ 0 ∧ s.allCells.contains c = true ∧ s.cellAt c ec = true ∧ c.dir ≠ 0 ∧ (c.dir ≠ 1 ∨
      c.beacon = true ∨ s.nbr c.record ≠ none) ∧ s.tplOn c.tpl = true ∧ (s.tplCarries c.tpl = false ∨ (s.cellChannel (s.tplClass c.tpl)
      ec c.chofs).all (fun ch => (s.txSlice (s.tplClass c.tpl) ch).isNone) = true)) ∧
    (∃ (s : State) (c : Cell) (ec : Nat) (ch : Nat) (p : Nat) (k : Nat), s.level ≠ 0 ∧ s.allCells.contains c = true ∧ s.cellAt c ec =
      true ∧ c.dir ≠ 0 ∧ c.beacon = true ∧ s.tplOn c.tpl = true ∧ s.tplCarries c.tpl = true ∧ s.cellChannel (s.tplClass c.tpl) ec c.chofs
      = some ch ∧ s.txSlice (s.tplClass c.tpl) ch = some (p, k)) ∧
    (∃ (s : State) (c : Cell) (r : Nat), c.beacon = false ∧ s.tplOn c.tpl = true ∧ c.dir = 2 ∧ (s.gtValid = false ∨ s.busyWith r = true ∨
      s.headPkt r = none ∨ (s.nbr r).any (fun n => n.st != 1) = true ∨ ((s.nbr r).isSome = true ∧ (s.headPkt r).all (fun e =>
      e.2.info.kind != 9 || e.2.info.flag) = true))) ∧
    (∃ (s : State) (c : Cell) (n : Nbr), c.beacon = false ∧ s.tplOn c.tpl = true ∧ c.dir = 1 ∧ s.nbr c.record = some n ∧ (s.gtValid =
      false ∨ s.busyWith c.record = true ∨ n.st ≠ 1 ∨ (s.headPkt c.record).all (fun e => e.2.info.kind == 9 && !e.2.info.flag) = true)) ∧
    (∃ (s : State), (s.actFld F.MSQ_BCN_EN ≠ 1 ∨ s.gtValid = false)) ∧
    (∃ (s : State) (c : Cell) (ec : Nat) (ch : Nat) (p : Nat) (k : Nat) (pkt : Nat) (x : Pkt) (n : Nbr), s.level ≠ 0 ∧
      s.allCells.contains c = true ∧ s.cellAt c ec = true ∧ c.dir = 1 ∧ c.beacon = false ∧ s.tplOn c.tpl = true ∧ s.tplCarries c.tpl =
      true ∧ s.cellChannel (s.tplClass c.tpl) ec c.chofs = some ch ∧ s.txSlice (s.tplClass c.tpl) ch = some (p, k) ∧ s.gtValid = true ∧
      s.busyWith c.record = false ∧ s.headPkt c.record = some (pkt, x) ∧ s.nbr c.record = some n ∧ n.st = 1 ∧ (x.info.kind ≠ 9 ∨
      x.info.flag = true)) ∧
    (∃ (s : State) (c : Cell) (ec : Nat) (r : Nat) (ch : Nat) (p : Nat) (k : Nat) (pkt : Nat) (x : Pkt) (n : Nbr), s.level ≠ 0 ∧
      s.allCells.contains c = true ∧ s.cellAt c ec = true ∧ c.dir = 2 ∧ c.beacon = false ∧ s.tplOn c.tpl = true ∧ s.tplCarries c.tpl =
      true ∧ s.cellChannel (s.tplClass c.tpl) ec c.chofs = some ch ∧ s.txSlice (s.tplClass c.tpl) ch = some (p, k) ∧ s.gtValid = true ∧
      s.busyWith r = false ∧ s.headPkt r = some (pkt, x) ∧ s.nbr r = some n ∧ n.st = 1 ∧ x.info.kind = 9 ∧ x.info.flag = false) ∧
    (∃ (s : State) (c : Cell) (ec : Nat) (r : Nat) (ch : Nat) (p : Nat) (k : Nat) (pkt : Nat) (x : Pkt), s.level ≠ 0 ∧
      s.allCells.contains c = true ∧ s.cellAt c ec = true ∧ c.dir = 2 ∧ c.beacon = false ∧ s.tplOn c.tpl = true ∧ s.tplCarries c.tpl =
      true ∧ s.cellChannel (s.tplClass c.tpl) ec c.chofs = some ch ∧ s.txSlice (s.tplClass c.tpl) ch = some (p, k) ∧ s.gtValid = true ∧
      s.busyWith r = false ∧ s.headPkt r = some (pkt, x) ∧ s.nbr r = none) ∧
    (∃ (s : State) (c : Cell) (p : Nat) (k : Nat) (n : Nbr) (x : Pkt), (s.tplMaxDur c.tpl * 16000 < frameNs (s.tplLh c.tpl)
      { len := downLen x, par := n.par, dep := fitDepth (downLen x) n.dep, sw := min n.sw (s.tplLh c.tpl) } (chipRate (s.sliceClass p k))
      ∨ 2047 < downLen x)) ∧
    (∃ (x : Pkt), (x.data = [] ∨ 2047 < x.data.length)) ∧
    (∃ (s : State) (t : Time) (c : Cell) (ec : Nat), (s.allCells.contains c = false ∨ s.cellAt c ec = false ∨ c.exp = false ∨ c.dir ≠ 0 ∨
      s.tplCarries c.tpl = false ∨ gtDiff t.gt ((s.at t).cellFin c ec) < 0 ∨ s.nbr c.record = none)) ∧
    (∃ (s : State) (t : Time) (c : Cell) (ec : Nat) (n : Nbr) (b : Bool), s.allCells.contains c = true ∧ s.cellAt c ec = true ∧ c.exp =
      true ∧ c.dir = 0 ∧ s.tplCarries c.tpl = true ∧ 0 ≤ gtDiff t.gt ((s.at t).cellFin c ec) ∧ s.nbr c.record = some n ∧ b =
      s.msq.verified.any (fun (v : Nat × Nat) => v.1 == c.record && Nat.ble (gtDiff v.2 ((s.at t).cellE c ec)).natAbs (usToGt 32000 (s.at
      t).mainsFreq)) ∧ (b = true ∨ s.searchOk = false)) ∧
    (∃ (s : State) (t : Time) (c : Cell) (ec : Nat) (n : Nbr) (b : Bool), s.allCells.contains c = true ∧ s.cellAt c ec = true ∧ c.exp =
      true ∧ c.dir = 0 ∧ s.tplCarries c.tpl = true ∧ 0 ≤ gtDiff t.gt ((s.at t).cellFin c ec) ∧ s.nbr c.record = some n ∧ b =
      s.msq.verified.any (fun (v : Nat × Nat) => v.1 == c.record && Nat.ble (gtDiff v.2 ((s.at t).cellE c ec)).natAbs (usToGt 32000 (s.at
      t).mainsFreq)) ∧ b = false ∧ s.searchOk = true ∧ (s.msq.searches.filter (fun (x : Search) => !x.started)).length < 256) ∧
    (∃ (s : State) (t : Time) (c : Cell) (ec : Nat) (n : Nbr) (b : Bool), s.allCells.contains c = true ∧ s.cellAt c ec = true ∧ c.exp =
      true ∧ c.dir = 0 ∧ s.tplCarries c.tpl = true ∧ 0 ≤ gtDiff t.gt ((s.at t).cellFin c ec) ∧ s.nbr c.record = some n ∧ b =
      s.msq.verified.any (fun (v : Nat × Nat) => v.1 == c.record && Nat.ble (gtDiff v.2 ((s.at t).cellE c ec)).natAbs (usToGt 32000 (s.at
      t).mainsFreq)) ∧ b = false ∧ s.searchOk = true ∧ 256 ≤ (s.msq.searches.filter (fun (x : Search) => !x.started)).length) ∧
    (∃ (s : State), (8 ≤ (s.msq.searches.filter (fun (x : Search) => x.started)).length ∨ s.msq.searches.find? (fun (x : Search) =>
      !x.started) = none)) ∧
    (∃ (s : State) (x : Search), (s.msq.searches.filter (fun (x : Search) => x.started)).length < 8 ∧ s.msq.searches.find? (fun (x :
      Search) => !x.started) = some x) ∧
    (∃ (s : State) (id : Nat) (x : Search), s.msq.searches.find? (fun (x : Search) => x.id == id && x.started) = some x ∧ x.ok = [] ∧
      x.left ≤ 1 ∧ s.rfp.reads.any (fun (r : HistRead) => r.reader == .msq && r.tag == id) = false) ∧
    (∃ (s : State) (id : Nat) (dets : List SearchDet) (x : Search), s.msq.searches.find? (fun (x : Search) => x.id == id && x.started) =
      some x ∧ x.left ≤ 1 ∧ s.rfp.reads.any (fun (r : HistRead) => r.reader == .msq && r.tag == id) = false ∧ s.dmx.retro.length +
      dets.length ≤ 64) ∧
    (∃ (s : State) (id : Nat), (s.msq.searches.find? (fun (x : Search) => x.id == id && x.started) = none ∨ s.rfp.reads.any (fun (r :
      HistRead) => r.reader == .msq && r.tag == id) = true)) ∧
    (∃ (s : State) (t : Time) (id : Nat) (d : SearchDet) (x : Search), s.msq.searches.find? (fun (x : Search) => x.id == id && x.started)
      = some x ∧ x.left ≤ 1 ∧ s.rfp.reads.any (fun (r : HistRead) => r.reader == .msq && r.tag == id) = false ∧ 64 ≤ s.dmx.retro.length ∧
      (s.at t).searchLooks x d = true) ∧
    (∃ (s : State) (id : Nat) (x : Search), s.msq.searches.find? (fun (x : Search) => x.id == id && x.started) = some x ∧ 1 < x.left ∧
      s.rfp.reads.any (fun (r : HistRead) => r.reader == .msq && r.tag == id) = false) ∧
    (∃ (s : State) (id : Nat), s.msq.backoffs.find id = none) ∧
    (∃ (s : State) (t : Time) (id : Nat) (due : Nat) (x : MsqTx), s.msq.backoffs.find id = some (due, x) ∧ due ≤ t.ft ∧ (match x.what
      with | .raw _ _ => true | _ => false) = false) ∧
    (∃ (s : State) (t : Time) (id : Nat) (due : Nat) (x : MsqTx), s.msq.backoffs.find id = some (due, x) ∧ t.ft < due) ∧
    (∃ (s : State) (t : Time) (id : Nat) (due : Nat) (r : Nat) (pkt : Nat) (x : MsqTx), s.msq.backoffs.find id = some (due, x) ∧ due ≤
      t.ft ∧ x.what = .raw r pkt ∧ (s.headPkt r).all (fun e => e.1 != pkt || decide (0 < gtDiff (gtAdd ((s.at t).backoffStart x) ((s.at
      t).airGt x.lh x.hdr (chipRate (s.sliceClass x.port x.slice)))) x.cellEnd)) = true) ∧
    (∃ (s : State) (t : Time) (id : Nat) (due : Nat) (r : Nat) (pkt : Nat) (x : MsqTx) (y : Pkt), s.msq.backoffs.find id = some (due, x)
      ∧ due ≤ t.ft ∧ x.what = .raw r pkt ∧ s.headPkt r = some (pkt, y) ∧ gtDiff (gtAdd ((s.at t).backoffStart x) ((s.at t).airGt x.lh
      x.hdr (chipRate (s.sliceClass x.port x.slice)))) x.cellEnd ≤ 0) :=
  ⟨⟨mTx, mC 3 true false, 0, by decide⟩,
   ⟨actSet mTx (F.MSQ_TPLt_B_EN 0) 0, mC 1 false false, 0, by decide⟩,
   ⟨actSet (mTx.setFld F.CHIP_START_LEVEL 1) (F.MSQ_TPLt_B_SL1LH 0) 0, mC 1 false true, 0, by decide⟩,
   ⟨mTx, mC 1 false true, 0, 0, 0, 0, by decide⟩,
   ⟨mTx, mC 2 false false, 4, by decide⟩,
   ⟨mTxN.setFlag F.GTB_STATUS_VALID false, mC 1 false false, mNbr, by decide⟩,
   ⟨mTx, by decide⟩,
   ⟨mTxN, mC 1 false false, 0, 0, 0, 0, 3, mPk 3, mNbr, by decide⟩,
   ⟨{ mTxN with qmg := { mTxN.qmg with pkts := [(3, mPk 9)] } }, mC 2 false false, 0, 9, 0, 0, 0, 3, mPk 9, mNbr, by decide⟩,
   ⟨mTx, mC 2 false false, 0, 9, 0, 0, 0, 3, mPk 3, by decide⟩,
   ⟨mTxN, mC 2 false false, 0, 0, mNbr, { mPk 3 with data := List.replicate 2040 0 }, by decide⟩,
   ⟨{ mPk 3 with data := [] }, by decide⟩,
   ⟨mTx, tT, mC 1 true false, 0, by decide⟩,
   ⟨mTxN, tT, mC 0 true false, 0, mNbr, false, by decide⟩,
   ⟨(mTxN.setFlag F.MSQ_CFG_SEARCH true).setFlag F.MEM_STATUS_TRAINED true, tT, mC 0 true false, 0, mNbr, false, by decide⟩,
   ⟨mMany, tT, mC 0 true false, 0, mNbr, false, by decide⟩,
   ⟨tOn, by decide⟩,
   ⟨mSs (mSr false [] 8), mSr false [] 8, by decide⟩,
   ⟨mSs (mSr true [] 1), 5, mSr true [] 1, by decide⟩,
   ⟨mSs (mSr true [0] 1), 5, [mDet], mSr true [0] 1, by decide⟩,
   ⟨tOn, 5, by decide⟩,
   ⟨mFullR, tT, 5, mDetX, mSr true [0] 1, by decide⟩,
   ⟨mSs (mSr true [0] 2), 5, mSr true [0] 2, by decide⟩,
   ⟨tOn, 4, by decide⟩,
   ⟨mBk mTx { mX with what := .beacon }, tT, 4, 70, { mX with what := .beacon }, by decide⟩,
   ⟨mBk mTx mX, ⟨5 * 16777216, 20⟩, 4, 70, mX, by decide⟩,
   ⟨mBk tOn mX, tT, 4, 70, 9, 3, mX, by decide⟩,
   ⟨mBk mTx mX, tT, 4, 70, 9, 3, mX, mPk 3, by decide⟩⟩

theorem test_met_BudgetsWindowsAndLinks :
    (∃ (s : State) (id : Nat), s.findStream id = none) ∧
    (∃ (s : State) (t : Time) (id : Nat) (chips : Nat) (n : Nat) (kind : TxKind) (x : Stream), s.findStream id = some (n, x) ∧ (((s.at
      t).chargeOf n x id kind chips).1 ≠ none ∨ s.lbt (s.sliceCentre n x.slice).toNat (spacing (s.sliceClass n x.slice)) kind = none)) ∧
    (∃ (s : State) (t : Time) (id : Nat) (chips : Nat) (n : Nat) (w : Nat) (th : Int) (kind : TxKind) (x : Stream), s.findStream id =
      some (n, x) ∧ ((s.at t).chargeOf n x id kind chips).1 = none ∧ s.lbt (s.sliceCentre n x.slice).toNat (spacing (s.sliceClass n
      x.slice)) kind = some (w, th)) ∧
    (∃ (s : State) (f : Nat) (sp : Nat) (start : Nat) (dur : Nat) (kind : TxKind) (r : BgtReason), s.bgtRefusal f sp start dur kind =
      some r) ∧
    (∃ (s : State) (f : Nat) (sp : Nat) (start : Nat) (dur : Nat) (kind : TxKind), s.bgtRefusal f sp start dur kind = none) ∧
    (∃ (s : State), s.live 1 = false) ∧
    (∃ (s : State) (t : Time), s.live 1 = true ∧ gcn t.gt / (s.nomFreq / 1000) = s.gtb.second) ∧
    (∃ (s : State) (t : Time), s.live 1 = true ∧ gcn t.gt / (s.nomFreq / 1000) ≠ s.gtb.second) ∧
    (∃ (s : State), s.live 1 = true ∧ s.staged = [] ∧ s.msq.patches = [] ∧ s.slv.nodes = [] ∧ s.level = 0 ∧ s.modeDue = none) ∧
    (∃ (s : State), s.live 1 = true ∧ s.modeDue = none) ∧
    (∃ (s : State) (p : Patch), s.msq.patches = [p] ∧ p.links = [] ∧ p.send = []) ∧
    (∃ (s : State) (o : Obs) (l : List Obs) (r : LinkRec), s.slv.obs = o :: l ∧ s.domReady 15 = true ∧ s.slv.links.find (linkKey o.node
      s.ownEp o.cls) = some r ∧ r.src = 0) ∧
    (∃ (s : State) (o : Obs) (l : List Obs) (r : LinkRec), s.slv.obs = o :: l ∧ s.domReady 15 = true ∧ s.slv.links.find (linkKey o.node
      s.ownEp o.cls) = some r ∧ r.src ≠ 0) ∧
    (∃ (s : State) (o : Obs) (l : List Obs), s.slv.obs = o :: l ∧ s.domReady 15 = true ∧ s.slv.links.find (linkKey o.node s.ownEp o.cls)
      = none ∧ s.slv.links.length < 1048576) ∧
    (∃ (s : State) (t : Time) (key : Nat) (r : LinkRec), s.slv.links.find key = some r ∧ r.src ≠ 2 ∧ s.actFld F.SLV_POL2_LINKAGE * 3600 *
      (s.nomFreq / 1000) ≤ (gcn t.gt % 2 ^ 32 + 2 ^ 32 - r.lastgcn) % 2 ^ 32) ∧
    (∃ (s : State), s.slv.obs = []) ∧
    (∃ (s : State) (o : Obs) (l : List Obs), s.slv.obs = o :: l ∧ s.domReady 15 = false) ∧
    (∃ (s : State) (o : Obs) (l : List Obs), s.slv.obs = o :: l ∧ s.domReady 15 = true) ∧
    (∃ (s : State) (t : Time) (key : Nat), (s.slv.links.find key).all (fun r => r.src == 2 || Nat.blt ((gcn t.gt % 2 ^ 32 + 2 ^ 32 -
      r.lastgcn) % 2 ^ 32) (s.actFld F.SLV_POL2_LINKAGE * 3600 * (s.nomFreq / 1000))) = true) :=
  ⟨⟨tOn, 6, by decide⟩,
   ⟨mBg, tT, 6, 100, 0, .data, mSt, by decide⟩,
   ⟨mBl, tT, 6, 100, 0, 2, 0, .data, mSt, by decide⟩,
   ⟨tOn, 863100, 200, 5000, 700, .data, .resv, by decide⟩,
   ⟨((((mBg.setFld (F.BGT_SBkPOL_MODE 0) 1).setFld (F.BGT_SBkF0_KHZ 0) 863000).setFld (F.BGT_SBkF1_KHZ 0) 864000).setFld
     (F.BGT_SBkALLOW_ALLOW 0) 5000).setFld (F.BGT_SBkPOL_WIN 0) 60, 863100, 200, 5000, 700, .data, by decide⟩,
   ⟨{ tOn with pwr := { tOn.pwr with pll := false } }, by decide⟩,
   ⟨tOn, { gt := 0, ft := 1 }, by decide⟩,
   ⟨{ tOn with cdc := { tOn.cdc with hdrFails := 9 } }, { gt := 60 * 16777216, ft := 9 }, by decide⟩,
   ⟨tOn, by decide⟩,
   ⟨mTxN, by decide⟩,
   ⟨{ mTx with msq := { mTx.msq with patches := [⟨[mC 1 false false], [mC 3 false false], [], []⟩] } }, ⟨[mC 1 false false], [mC 3 false
     false], [], []⟩, by decide⟩,
   ⟨mLs 0, mOb, [], mLk 0, by decide⟩,
   ⟨mLs 2, mOb, [], mLk 2, by decide⟩,
   ⟨{ mLs 0 with slv := { (mLs 0).slv with links := [] } }, mOb, [], by decide⟩,
   ⟨mLs 0, ⟨2 ^ 24 * (200 * 3600 * 50 + 2 ^ 31), 9⟩, mKey, mLk 0, by decide⟩,
   ⟨tOn, by decide⟩,
   ⟨{ mLs 0 with pwr := { tOn.pwr with doms := [] } }, mOb, [], by decide⟩,
   ⟨mLs 0, mOb, [], by decide⟩,
   ⟨mLs 2, tT, mKey, by decide⟩⟩

/-! ### Witnesses: SLV -/

def vOn : State := (tOn.setFlag F.SLV_CFG_EN true).setFld F.CHIP_START_LEVEL 2
def vCmd (op : Nat) (d : List Octet) : SlvCmd := { op := op, node := 7, tag := 9, data := d, rq := tSup, sec := true, own := false }
def vQ (s : State) (c : SlvCmd) : State := { s with slv := { s.slv with cmds := [c] } }
def vT (s : State) (t : Time) : State := State.commitAt { s.slvFront t with slv := { (s.slvFront t).slv with cmds := (s.slvFront t).slv.cmds.tail } } 9 0
def vDem : DemRec := { node := 7, auto := false, prio := 3, pin := false, home := 0, uph := 5, dnh := 6, upoct := 20, dnoct := 30, uplat := 0, dnlat := 0 }
def vLk (src : Nat) : LinkRec := ⟨7, 2 ^ 23, src, 0, 3, true, 40, 0, 0, 65535, 0, 0, 0, []⟩
def vKey : Nat := linkKey 7 (2 ^ 23) 0
def vD : State := { vOn with slv := { vOn.slv with dem := [(7, vDem)] } }
def vL (src : Nat) : State := { vOn with slv := { vOn.slv with links := [(vKey, vLk src)] } }
def vPrc : Req := { init := .prc, prcSecure := false }
def vW (op : Nat) : SlvCmd := { vCmd op [] with rq := vPrc, sec := false }
def vCell : Cell := ⟨0, 0, 0, true, false, 0, 0, 9, false⟩
def vNbr : Nbr :=
  { eui := 0, node := 7, st := 1, key := 0, sw := 0, par := 0, dep := 0, rxHigh := 0, rxWin := 0, supto := 80000, lastGt := 0, drift := 0,
    unc := 0, theta := 0, guard := 0, wide := 0, retries := 0, heard := false }
def vPl : Placement := ⟨7, 9, [vCell], 3, 1, 0, 50⟩
def vJ : State :=
  let s := vL 1
  let s := actSet (actSet (actSet (actSet (actSet (s.setFld (F.MSQ_HOPcLEN_LEN 0) 1) (F.MSQ_TPLt_B_EN 0) 1) (F.MSQ_TPLt_A_CHCLASS 0) 0)
    (F.MSQ_TPLt_A_MAXDUR 0) 8191) (F.MSQ_TPLt_B_LH 0) 3) (F.SLV_POL2_MAXRXSLOT) 9
  let s := actSet (actSet s F.SLV_POL0_SNRREQ 0) F.SLV_POL0_SNRMARG 0
  let s := (((s.setFlag (F.RFPn_SLk_EN 0 0) true).setFlag (F.RFPn_SLk_EN 1 0) true).setFlag (F.RFPn_SLk_EN 2 0) true).setFlag (F.RFPn_SLk_EN 3 0) true
  { s with msq := { s.msq with sfs := [100, 0, 0, 0, 0, 0, 0, 0], nbrs := [(9, vNbr)] } }
def vRun : SolveRun := { cmd := vCmd 1 [], startFt := 9, inp := vJ.inputs }
def vS (s : State) : State := { s with slv := { s.slv with solve := some vRun } }
def vSet (ar : Bool) (n : Nat) : CellSet := ⟨4, 0, [vCell], false, n, none, ar, false⟩
def vN (x : CellSet) : State := { vJ with slv := { vJ.slv with nodes := [(7, ⟨9, 4, [x]⟩)] } }
def vFull : State := { vOn with slv := { vOn.slv with results := List.replicate 64 ((vCmd 1 []).result 0 0 0), cmds := List.replicate 16 (vCmd 4 []) } }
def vWq (op : Nat) : State := vQ ((vOn.setReg Reg.CHIP_WMAP1 0x7C).setFlag F.CHIP_WMAP1_LOCKED true) (vW op)
def vB : State := { vJ with slv := { vJ.slv with links := [(vKey, { vLk 1 with rxep := 2 ^ 23 + 5 })] } }
def vFab (r : Nat) (m : Bool) : State := ((vB.setFld F.CSC_CFG_ROLE r).setFlag F.CSC_STATUS_MODE m)
def vMem : State :=
  let s := (vFab 1 true).setFld F.CSC_STATUS_ANCHOR 3
  { s with csc := { s.csc with peers := [(3, (9, ⟨1, 1, 0, 0, 2, false, none, 0, 1, true⟩))] } }
def vAnc : State :=
  let s := (vMem.setFlag F.SLV_STATUS_MASTER true)
  s
def vD1 : DemRec := { vDem with uph := 0, dnh := 0 }
def vJd : State := { vJ with slv := { vJ.slv with dem := [(7, vD1)] } }
def vRunD : SolveRun := { vRun with inp := vJd.inputs }
def vSd : State := { vJd with slv := { vJd.slv with solve := some vRunD } }
def vRes : SolveResult := { sets := [vPl], clear := [], shorts := [], far := [] }

theorem test_met_SlvQueueAndRecords :
    (∃ (s : State) (rq : Req) (op : Nat) (node : Nat) (tag : Nat) (dur : Nat) (place : List Placement) (i : Instr), (op, i) ∈ [(1,
      Instr.slvSolve (.write rq) node tag), (2, .slvJoin (.write rq) node tag dur place), (3, .slvLeave (.write rq) node tag dur), (4,
      .slvDemand (.write rq) node tag dur), (5, .slvLink (.write rq) node tag dur), (6, .slvReaddem (.write rq) node tag dur), (7,
      .slvReadlink (.write rq) node tag dur), (8, .slvAbort (.write rq) node tag dur)] ∧ s.barred rq Reg.SLV_CMD (some (slvWord op node
      tag)) = none ∧ s.slv.cmds.length < 16) ∧
    (∃ (s : State) (rq : Req) (op : Nat) (node : Nat) (tag : Nat) (dur : Nat) (place : List Placement) (i : Instr), (op, i) ∈ [(1,
      Instr.slvSolve (.write rq) node tag), (2, .slvJoin (.write rq) node tag dur place), (3, .slvLeave (.write rq) node tag dur), (4,
      .slvDemand (.write rq) node tag dur), (5, .slvLink (.write rq) node tag dur), (6, .slvReaddem (.write rq) node tag dur), (7,
      .slvReadlink (.write rq) node tag dur), (8, .slvAbort (.write rq) node tag dur)] ∧ s.barred rq Reg.SLV_CMD (some (slvWord op node
      tag)) = none ∧ 16 ≤ s.slv.cmds.length) ∧
    (∃ (s : State) (t : Time) (op : Nat) (node : Nat) (tag : Nat) (dur : Nat) (o : Nat) (c : SlvCmd) (v : State) (i : Instr), s.slvTakes
      t op c v ∧ (op, i) ∈ [(3, Instr.slvLeave (.run t) node tag dur), (4, .slvDemand (.run t) node tag dur), (5, .slvLink (.run t) node
      tag dur), (6, .slvReaddem (.run t) node tag dur), (7, .slvReadlink (.run t) node tag dur), (8, .slvAbort (.run t) node tag dur)] ∧
      (v.on F.SLV_CFG_EN = false ∧ o = 7 ∨ v.on F.SLV_CFG_EN = true ∧ v.keel = true ∧ o = 5)) ∧
    (∃ (t : Time) (op : Nat) (node : Nat) (tag : Nat) (dur : Nat) (i : Instr), (op, i) ∈ [(3, Instr.slvLeave (.run t) node tag dur), (4,
      .slvDemand (.run t) node tag dur), (5, .slvLink (.run t) node tag dur), (6, .slvReaddem (.run t) node tag dur), (7, .slvReadlink
      (.run t) node tag dur), (8, .slvAbort (.run t) node tag dur)]) ∧
    (∃ (s : State) (c : SlvCmd) (rest : List SlvCmd), s.slv.cmds = c :: rest) ∧
    (∃ (s : State), s.slv.shorts.length < 1024) ∧
    (∃ (s : State), 1024 ≤ s.slv.shorts.length) ∧
    (∃ (s : State) (rq : Req), s.barred rq Reg.SLV_RQPOP (some 1) = none) ∧
    (∃ (s : State) (rq : Req), s.barred rq Reg.SLV_SHQPOP (some 1) = none) ∧
    (∃ (s : State) (t : Time) (c : SlvCmd) (v : State) (d : DemRec), s.slvTakes t 4 c v ∧ v.slvBar = none ∧ v.tagFaults c.sec 3 = false ∧
      demRecOf c.data = some d) ∧
    (∃ (s : State) (t : Time) (c : SlvCmd) (v : State), s.slvTakes t 4 c v ∧ v.slvBar = none ∧ v.tagFaults c.sec 3 = false ∧ demRecOf
      c.data = none) ∧
    (∃ (s : State) (t : Time) (c : SlvCmd) (v : State) (r : LinkRec), s.slvTakes t 5 c v ∧ v.slvBar = none ∧ v.tagFaults c.sec 3 = false
      ∧ linkRecOf c.data = some r ∧ r.src ≠ 0 ∧ (v.slv.links.find (linkKey r.txep r.rxep r.cls)).any (fun x => x.src == 0) = false) ∧
    (∃ (s : State) (t : Time) (c : SlvCmd) (v : State), s.slvTakes t 5 c v ∧ v.slvBar = none ∧ v.tagFaults c.sec 3 = false ∧ (linkRecOf
      c.data).elim true (fun r => r.src == 0 || (v.slv.links.find (linkKey r.txep r.rxep r.cls)).any (fun x => x.src == 0)) = true) ∧
    (∃ (s : State) (k : Nat) (x : LinkRec), s.slv.links.find k = some x) ∧
    (∃ (s : State) (k : Nat), s.slv.links.find k = none) ∧
    (∃ (s : State) (t : Time) (c : SlvCmd) (v : State) (d : DemRec), s.slvTakes t 6 c v ∧ v.slvBar = none ∧ v.tagFaults c.sec 3 = false ∧
      v.slv.dem.find c.node = some d) ∧
    (∃ (s : State) (t : Time) (c : SlvCmd) (v : State), s.slvTakes t 6 c v ∧ v.slvBar = none ∧ v.tagFaults c.sec 3 = false ∧
      v.slv.dem.find c.node = none) ∧
    (∃ (s : State) (t : Time) (c : SlvCmd) (v : State) (r : LinkRec), s.slvTakes t 7 c v ∧ v.slvBar = none ∧ v.tagFaults c.sec 3 = false
      ∧ v.slv.links.find (linkKey (leNat (slice c.data 0 3)) (leNat (slice c.data 3 3)) (leNat (slice c.data 6 1) / 4)) = some r) ∧
    (∃ (s : State) (t : Time) (c : SlvCmd) (v : State), s.slvTakes t 7 c v ∧ v.slvBar = none ∧ v.tagFaults c.sec 3 = false ∧
      v.slv.links.find (linkKey (leNat (slice c.data 0 3)) (leNat (slice c.data 3 3)) (leNat (slice c.data 6 1) / 4)) = none) ∧
    (∃ (s : State) (t : Time) (op : Nat) (node : Nat) (tag : Nat) (dur : Nat) (c : SlvCmd) (v : State) (i : Instr) (wr : Bool),
      s.slvTakes t op c v ∧ (op, wr, i) ∈ [(4, true, Instr.slvDemand (.run t) node tag dur), (5, true, .slvLink (.run t) node tag dur),
      (6, false, .slvReaddem (.run t) node tag dur), (7, false, .slvReadlink (.run t) node tag dur)] ∧ v.slvBar = none ∧ v.tagFaults
      c.sec 3 = true) ∧
    (∃ (s : State) (t : Time) (c : SlvCmd) (v : State), s.slvTakes t 8 c v ∧ v.slvBar = none) ∧
    (∃ (s : State) (r : SolveRun), s.slv.solve = some r) ∧
    (∃ (s : State), s.slv.solve = none) :=
  ⟨⟨vOn, tSup, 1, 7, 9, 3, [], .slvSolve (.write tSup) 7 9, by decide⟩,
   ⟨vFull, tSup, 1, 7, 9, 3, [], .slvSolve (.write tSup) 7 9, by decide⟩,
   ⟨vQ (tOn.setFld F.CHIP_START_LEVEL 2) (vCmd 3 []), tT, 3, 7, 9, 5, 7, vCmd 3 [], vT (vQ (tOn.setFld F.CHIP_START_LEVEL 2) (vCmd 3 []))
     tT, .slvLeave (.run tT) 7 9 5, by decide⟩,
   ⟨tT, 3, 7, 9, 5, .slvLeave (.run tT) 7 9 5, by decide⟩,
   ⟨{ vOn with slv := { vOn.slv with cmds := [vCmd 12 [], vCmd 4 []] } }, vCmd 12 [], [vCmd 4 []], by decide⟩,
   ⟨vOn, by decide⟩,
   ⟨{ vOn with slv := { vOn.slv with shorts := List.replicate 1024 ⟨7, 3, true, false, true, 9, 4⟩ } }, by decide⟩,
   ⟨vFull, tSup, by decide⟩,
   ⟨vOn, tSup, by decide⟩,
   ⟨vQ vOn (vCmd 4 vDem.octets), tT, vCmd 4 vDem.octets, vT (vQ vOn (vCmd 4 vDem.octets)) tT, vDem, by decide⟩,
   ⟨vQ vOn (vCmd 4 []), tT, vCmd 4 [], vT (vQ vOn (vCmd 4 [])) tT, by decide⟩,
   ⟨vQ vOn (vCmd 5 (vLk 1).octets), tT, vCmd 5 (vLk 1).octets, vT (vQ vOn (vCmd 5 (vLk 1).octets)) tT, vLk 1, by decide⟩,
   ⟨vQ vOn (vCmd 5 (vLk 0).octets), tT, vCmd 5 (vLk 0).octets, vT (vQ vOn (vCmd 5 (vLk 0).octets)) tT, by decide⟩,
   ⟨vL 1, vKey, vLk 1, by decide⟩,
   ⟨vOn, vKey, by decide⟩,
   ⟨vQ vD (vCmd 6 []), tT, vCmd 6 [], vT (vQ vD (vCmd 6 [])) tT, vDem, by decide⟩,
   ⟨vQ vOn (vCmd 6 []), tT, vCmd 6 [], vT (vQ vOn (vCmd 6 [])) tT, by decide⟩,
   ⟨vQ (vL 1) (vCmd 7 (vLk 1).octets), tT, vCmd 7 (vLk 1).octets, vT (vQ (vL 1) (vCmd 7 (vLk 1).octets)) tT, vLk 1, by decide⟩,
   ⟨vQ vOn (vCmd 7 []), tT, vCmd 7 [], vT (vQ vOn (vCmd 7 [])) tT, by decide⟩,
   ⟨vWq 6, tT, 6, 7, 9, 5, vW 6, vT (vWq 6) tT, .slvReaddem (.run tT) 7 9 5, false, by decide⟩,
   ⟨vQ vOn (vCmd 8 []), tT, vCmd 8 [], vT (vQ vOn (vCmd 8 [])) tT, by decide⟩,
   ⟨vS vOn, vRun, by decide⟩,
   ⟨vOn, by decide⟩⟩

theorem test_met_SlvSchedule :
    (∃ (s : State) (t : Time) (c : SlvCmd) (v : State), s.slvTakes t 2 c v ∧ (s.at t).unconfirmed c.node < 2 ∧ v.slvBar = none ∧
      ((v.borderNode c.node = true → v.noAnchor = false ∧ v.isMember = false))) ∧
    (∃ (v : State) (c : SlvCmd) (p : Placement) (w : State) (l : List Short), w = v.changeSet p ∧ l = v.shortNow c.node (v.planOf p)
      p.cells ∧ v.cellRoom p = true ∧ v.slv.shorts.length + l.length ≤ 1024) ∧
    (∃ (v : State) (p : Placement), v.cellRoom p = false) ∧
    (∃ (v : State) (p : Placement), v.unconfirmed p.node < 2 ∧ p.cells.length ≤ 64) ∧
    (∃ (v : State) (p : Placement), 2 ≤ v.unconfirmed p.node) ∧
    (∃ (v : State) (c : SlvCmd) (w : State) (l : List Short), w = v.dropNode c.node ∧ l = v.shortNow c.node {} [] ∧ v.slv.shorts.length +
      l.length ≤ 1024) ∧
    (∃ (v : State) (w : State) (node : Nat), w =
      { v with slv := { v.slv with waiting := v.slv.waiting.filter (fun q => q.node != node) } }) ∧
    (∃ (s : State) (t : Time) (c : SlvCmd) (v : State), s.slvTakes t 2 c v ∧ (s.at t).unconfirmed c.node < 2 ∧ v.slvBar = none ∧
      v.borderNode c.node = true ∧ v.noAnchor = true) ∧
    (∃ (s : State) (t : Time) (c : SlvCmd) (v : State), s.slvTakes t 2 c v ∧ (s.at t).unconfirmed c.node < 2 ∧ v.slvBar = none ∧
      v.borderNode c.node = true ∧ v.noAnchor = false ∧ v.isMember = true) ∧
    (∃ (s : State) (t : Time) (o : Nat) (c : SlvCmd) (v : State), s.slvTakes t 2 c v ∧ (s.at t).unconfirmed c.node < 2 ∧ (v.on
      F.SLV_CFG_EN = false ∧ o = 7 ∨ v.on F.SLV_CFG_EN = true ∧ v.keel = true ∧ o = 5)) ∧
    (∃ (s : State) (t : Time) (c : SlvCmd), s.slv.cmds.find? (fun c => c.op != 0 && Nat.ble c.op 8) = some c ∧ c.op = 2 ∧ 2 ≤ (s.at
      t).unconfirmed c.node) ∧
    (∃ (s : State), (s.domReady 15 = false ∨ s.level ≠ 2 ∨ s.slv.asked ≠ none)) ∧
    (∃ (s : State), s.domReady 15 = true ∧ s.level = 2 ∧ s.slv.asked = none ∧ ((∀ c, s.slv.cmds.find? (fun c => c.op != 0 && Nat.ble c.op
      8) = some c → c.op ≠ 2))) ∧
    (∃ (s : State) (t : Time) (c : SlvCmd) (v : State) (g : List Cell), s.slvTakes t 3 c v ∧ v.slvBar = none ∧ g = ((v.nodeSets
      c.node).sets.flatMap (fun x => x.cells)).eraseDups ∧ g ≠ [] ∧ g.length ≤ 64) ∧
    (∃ (s : State) (t : Time) (c : SlvCmd) (v : State), s.slvTakes t 3 c v ∧ v.slvBar = none ∧ (v.nodeSets c.node).sets.flatMap (fun x =>
      x.cells) = []) ∧
    (∃ (s : State) (t : Time) (c : SlvCmd) (v : State), s.slvTakes t 1 c v ∧ v.slvBar = none ∧ s.slv.solve = none ∧ s.slv.held = []) ∧
    (∃ (s : State) (t : Time) (c : SlvCmd) (v : State) (o : Nat), s.slvTakes t 1 c v ∧ (v.on F.SLV_CFG_EN = false ∧ o = 7 ∨ v.on
      F.SLV_CFG_EN = true ∧ v.keel = true ∧ o = 5) ∧ (s.slv.solve.isSome = true ∨ s.slv.held = [])) ∧
    (∃ (s : State) (t : Time) (c : SlvCmd) (v : State) (r : SolveRun), s.slvTakes t 1 c v ∧ v.slvBar = none ∧ s.slv.solve = some r) ∧
    (∃ (s : State) (c : SlvCmd) (l : List SlvCmd), s.slv.solve = none ∧ s.slv.held = c :: l ∧ s.domReady 15 = true ∧ s.level = 2) ∧
    (∃ (s : State), (s.domReady 15 = false ∨ s.level ≠ 2)) ∧
    (∃ (s : State) (t : Time), s.domReady 15 = true ∧ s.level = 2 ∧ (s.slv.solve.isSome = true ∨ s.slv.held = []) ∧ ((∀ c, (s.slvFront
      t).slv.cmds.head? = some c → c.op ≠ 1))) ∧
    (∃ (v : State) (w : State), w = v.commitAt 9 0 ∧ w.slvBar = none ∧ w.noAnchor = true) ∧
    (∃ (v : State) (w : State), w = v.commitAt 9 0 ∧ w.slvBar = none ∧ w.noAnchor = false) ∧
    (∃ (s : State), s.slv.solve = none) ∧
    (∃ (s : State) (r : SolveRun) (o : Nat), s.slv.solve = some r ∧ (s.on F.SLV_CFG_EN = false ∧ o = 7 ∨ s.on F.SLV_CFG_EN = true ∧
      s.keel = true ∧ o = 5)) ∧
    (∃ (s : State) (t : Time) (places : List Placement) (again : List Placement) (far : List Placement) (r : SolveRun), s.slv.solve =
      some r ∧ s.slvBar = none ∧ ((s.at t).withInputs r.inp).solveResult (s.at t) r places again far = none) ∧
    (∃ (s : State) (t : Time) (places : List Placement) (again : List Placement) (far : List Placement) (r : SolveRun) (x : SolveResult)
      (w : State), s.slv.solve = some r ∧ s.slvBar = none ∧ ((s.at t).withInputs r.inp).solveResult (s.at t) r places again far = some x
      ∧ w = (s.at t).solveStaged x ∧ s.slv.shorts.length + x.shorts.length ≤ 1024) ∧
    (∃ (s : State), s.isAnchor = true) ∧
    (∃ (s : State), s.isAnchor = false ∧ s.slv.held = []) ∧
    (∃ (s : State) (c : SlvCmd) (l : List SlvCmd), s.isAnchor = false ∧ s.slv.held = c :: l) ∧
    (∃ (v : State) (s : State) (r : SolveRun) (places : List Placement) (again : List Placement) (far : List Placement), v.solveResult s
      r places again far = none) ∧
    (∃ (v : State) (s : State) (r : SolveRun) (places : List Placement) (again : List Placement) (far : List Placement) (x : SolveResult)
      (p : Placement), v.solveResult s r places again far = some x ∧ p ∈ x.sets) ∧
    (∃ (a : Score) (b : Score), a.sup = b.sup ∧ a.met = b.met) ∧
    (∃ (a : Score) (b : Score) (l : List Nat) (m : Nat) (n : Nat) (k : List Nat) (k' : List Nat), a.sup = l ++ m :: k ∧ b.sup = l ++ n ::
      k' ∧ m ≠ n) ∧
    (∃ (s : State), s.fld F.SLV_CFG_PERIOD ≠ 0 ∧ s.domReady 15 = true ∧ s.slv.cmds.length < 16) ∧
    (∃ (s : State), (s.fld F.SLV_CFG_PERIOD = 0 ∨ s.domReady 15 = false ∨ 16 ≤ s.slv.cmds.length)) ∧
    (∃ (s : State) (t : Time) (node : Nat) (setid : Nat) (f : Nat) (v : State) (x : CellSet), v = s.at t ∧ (s.nodeSets node).sets.find?
      (fun y => y.setid == setid) = some x ∧ f = x.cells.foldl (fun n c => max n (v.sfLen c.sf)) 0) ∧
    (∃ (s : State) (node : Nat) (setid : Nat), (s.nodeSets node).sets.find? (fun y => y.setid == setid) = none) ∧
    (∃ (v : State) (node : Nat) (setid : Nat) (ns : NodeSets) (x : CellSet), v.slv.nodes.find node = some ns ∧ ns.sets.find? (fun y =>
      y.setid == setid) = some x ∧ x.confirmed = false ∧ x.gone = false) ∧
    (∃ (v : State) (node : Nat) (setid : Nat) (ns : NodeSets) (x : CellSet), v.slv.nodes.find node = some ns ∧ ns.sets.find? (fun y =>
      y.setid == setid) = some x ∧ (x.confirmed = true ∨ x.gone = true)) ∧
    (∃ (s : State) (t : Time) (v : State), v = s.at t ∧ s.live 1 = true ∧ s.domReady 15 = true ∧ v.statWindow ≠ s.dmx.win) ∧
    (∃ (s : State) (t : Time), s.live 1 = true ∧ s.domReady 15 = false ∧ (s.at t).statWindow ≠ s.dmx.win) ∧
    (∃ (s : State) (t : Time), s.live 1 = true ∧ (s.at t).statWindow = s.dmx.win) :=
  ⟨⟨vQ (vJ) (vCmd 2 []), tT, vCmd 2 [], vT (vQ (vJ) (vCmd 2 [])) tT, by decide⟩,
   ⟨vJ, vCmd 2 [], vPl, vJ.changeSet vPl, [], by decide⟩,
   many_cells vJ vCell vPl (by decide),
   ⟨vJ, vPl, by decide⟩,
   ⟨{ vJ with slv := { vJ.slv with nodes := [(7, ⟨9, 4, [vSet true 1, vSet true 1]⟩)] } }, vPl, by decide⟩,
   ⟨vJ, vCmd 2 [], vJ.dropNode 7, [], by decide⟩,
   ⟨vJ, vJ, 7, by decide⟩,
   ⟨vQ (vFab 1 false) (vCmd 2 []), tT, vCmd 2 [], vT (vQ (vFab 1 false) (vCmd 2 [])) tT, by decide⟩,
   ⟨vQ (vMem) (vCmd 2 []), tT, vCmd 2 [], vT (vQ (vMem) (vCmd 2 [])) tT, by decide⟩,
   ⟨vQ (tOn.setFld F.CHIP_START_LEVEL 2) (vCmd 2 []), tT, 7, vCmd 2 [], vT (vQ (tOn.setFld F.CHIP_START_LEVEL 2) (vCmd 2 [])) tT,
     by decide⟩,
   ⟨vQ { vJ with slv := { vJ.slv with nodes := [(7, ⟨9, 4, [vSet true 1, vSet true 1]⟩)] } } (vCmd 2 []), tT, vCmd 2 [], by decide⟩,
   ⟨tOn, by decide⟩,
   ⟨{ vOn with slv := { vOn.slv with cmds := [vCmd 12 [], vCmd 4 []] } }, by decide⟩,
   ⟨vQ (vN (vSet true 1)) (vCmd 3 []), tT, vCmd 3 [], vT (vQ (vN (vSet true 1)) (vCmd 3 [])) tT, [vCell], by decide⟩,
   ⟨vQ vOn (vCmd 3 []), tT, vCmd 3 [], vT (vQ vOn (vCmd 3 [])) tT, by decide⟩,
   ⟨vQ (vOn) (vCmd 1 []), tT, vCmd 1 [], vT (vQ (vOn) (vCmd 1 [])) tT, by decide⟩,
   ⟨vQ (tOn.setFld F.CHIP_START_LEVEL 2) (vCmd 1 []), tT, vCmd 1 [], vT (vQ (tOn.setFld F.CHIP_START_LEVEL 2) (vCmd 1 [])) tT, 7,
     by decide⟩,
   ⟨vQ (vS vOn) (vCmd 1 []), tT, vCmd 1 [], vT (vQ (vS vOn) (vCmd 1 [])) tT, vRun, by decide⟩,
   ⟨{ vOn with slv := { vOn.slv with held := [vCmd 1 []] } }, vCmd 1 [], [], by decide⟩,
   ⟨tOn, by decide⟩,
   ⟨{ vOn with slv := { vOn.slv with cmds := [vCmd 12 [], vCmd 4 []] } }, tT, by decide⟩,
   ⟨vFab 1 false, (vFab 1 false).commitAt 9 0, by decide⟩,
   ⟨vOn, vOn.commitAt 9 0, by decide⟩,
   ⟨vOn, by decide⟩,
   ⟨vS (tOn.setFld F.CHIP_START_LEVEL 2), vRun, 7, by decide⟩,
   ⟨vS vJ, tT, [], [], [], vRun, by decide⟩,
   ⟨vSd, tT, [vPl], [], [], vRunD, vRes, (vSd.at tT).solveStaged vRes, by decide⟩,
   ⟨vAnc, by decide⟩,
   ⟨vOn, by decide⟩,
   ⟨{ vOn with slv := { vOn.slv with held := [vCmd 1 []] } }, vCmd 1 [], [], by decide⟩,
   ⟨vJ, vJ, vRun, [], [], [], by decide⟩,
   ⟨(vSd.at tT).withInputs vRunD.inp, vSd.at tT, vRunD, [vPl], [], [], vRes, vPl, by decide⟩,
   ⟨⟨[1], [0], (1, 1), (1, 1)⟩, ⟨[1], [0], (2, 1), (1, 1)⟩, by decide⟩,
   ⟨⟨[1, 2, 0], [0], (1, 1), (1, 1)⟩, ⟨[1, 1, 7], [0], (2, 1), (1, 1)⟩, [1], 2, 1, [0], [7], by decide⟩,
   ⟨vOn.setFld F.SLV_CFG_PERIOD 9, by decide⟩,
   ⟨vOn.setFld F.SLV_CFG_PERIOD 0, by decide⟩,
   ⟨vN (vSet false 200), ⟨2 ^ 24 * 1000, 9⟩, 7, 4, 100, (vN (vSet false 200)).at ⟨2 ^ 24 * 1000, 9⟩, vSet false 200, by decide⟩,
   ⟨vN (vSet true 0), 7, 5, by decide⟩,
   ⟨vN (vSet false 200), 7, 4, ⟨9, 4, [vSet false 200]⟩, vSet false 200, by decide⟩,
   ⟨vN { vSet false 0 with gone := true }, 7, 4, ⟨9, 4, [{ vSet false 0 with gone := true }]⟩, { vSet false 0 with gone := true },
     by decide⟩,
   ⟨vJ, ⟨1000 * 2 ^ 24, 9⟩, vJ.at ⟨1000 * 2 ^ 24, 9⟩, by decide⟩,
   ⟨{ vJ with pwr := { vJ.pwr with doms := vJ.pwr.doms.set 15 {} } }, ⟨1000 * 2 ^ 24, 9⟩, by decide⟩,
   ⟨vJ, tT, by decide⟩⟩

/-! ### Witnesses: QMG -/

def qT : State := actSet (actSet (tOn.setFld F.QMG_TOTAL_CELLS 1000) (F.QMG_ADMk_MAX 6) 1000) (F.QMG_ADMk_MIN 6) 100
def qNo : State := tOn.setFld F.QMG_TOTAL_CELLS 0
def qPk (h : Holder) (q : Option Nat) (n : Nat) : Pkt := { cells := [30, 31], data := [], arr := 0, src := 6, holder := h, queue := q, pushed := n, info := {} }
def qT5 : State := actSet (actSet (tOn.setFld F.QMG_TOTAL_CELLS 1000) (F.QMG_ADMk_MAX 0) 1000) (F.QMG_ADMk_MIN 0) 100
def qArg (s : State) (k q : Nat) : State := (s.setFld F.QMG_PKTARG_CELLS k).setFld F.QMG_PKTARG_Q q
def qLate (s : State) : State := { s with gtb := { s.gtb with gt := 2 ^ 24 * 100000 } }
def qHold (s : State) (h : Holder) : State := { s with qmg := { s.qmg with pkts := [(30, qPk h none 0)] } }
def qWith (s : State) (k : Nat) (x : Queue) : State := { s with qmg := { s.qmg with queues := [(k, x)] } }
def qLim : Queue := { limit := 9, ovr := true }
def qH : State := qWith (qHold qT (.init .sup)) 7 qLim
def qHw : Holder := .hw 3 1
def qPu (x : Queue) (p : Pkt) : State := { qWith qT 7 x with qmg := { (qWith qT 7 x).qmg with pkts := [(30, p)] } }
def qWd (s : State) (a b c : Nat) : State := ((s.setReg (Reg.QMG_QDATAw 0) (BitVec.ofNat 32 a)).setReg (Reg.QMG_QDATAw 1) (BitVec.ofNat 32 b)).setReg (Reg.QMG_QDATAw 2) (BitVec.ofNat 32 c)
def qErr : State := (qPu { qLim with cells := [30, 31] } (qPk .none (some 7) 2)).auditBreak.reportNow 5 10 143 143
def qErS : State := qPu { qLim with cells := [30, 31] } (qPk .none (some 7) 2)

theorem test_met_Packets :
    (∃ (s : State) (k : Nat) (n : Nat) (data : List Octet) (v : State), v = s.commitAt 10 0 ∧ k < 8 ∧ askable n data = true ∧ v.admits k
      n = true) ∧
    (∃ (s : State) (k : Nat) (n : Nat) (data : List Octet) (v : State), v = s.commitAt 10 0 ∧ k < 8 ∧ askable n data = true ∧ v.admits k
      n = false) ∧
    (∃ (n : Nat) (data : List Octet), (n < 1 ∨ 36 < n ∨ 256 * n < data.length)) ∧
    (∃ (t : Nat) (n : Nat) (used : List Nat), used.length + n ≤ t) ∧
    (∃ (s : State) (rq : Req) (priv : Bool) (n : Nat) (k : Nat) (t : State) (v : State), s.pktTook rq priv (pktWord 0 3 0) t ∧ v =
      t.commitAt 10 0 ∧ k = (if priv = true then n else t.fld F.QMG_PKTARG_CELLS) ∧ 1 ≤ k ∧ k ≤ 36 ∧ v.admits (if rq.init = .prc then 7
      else 6) k = true) ∧
    (∃ (s : State) (rq : Req) (priv : Bool) (n : Nat) (k : Nat) (t : State) (v : State), s.pktTook rq priv (pktWord 0 3 0) t ∧ v =
      t.commitAt 10 0 ∧ k = (if priv = true then n else t.fld F.QMG_PKTARG_CELLS) ∧ 1 ≤ k ∧ k ≤ 36 ∧ v.admits (if rq.init = .prc then 7
      else 6) k = false) ∧
    (∃ (s : State) (rq : Req) (priv : Bool) (n : Nat) (k : Nat) (t : State), s.pktTook rq priv (pktWord 0 3 0) t ∧ k = (if priv = true
      then n else t.fld F.QMG_PKTARG_CELLS) ∧ (k < 1 ∨ 36 < k)) ∧
    (∃ (s : State) (rq : Req) (priv : Bool) (cell : Nat) (t : State) (p : Pkt), s.pktTook rq priv (pktWord cell 0 0) t ∧ t.holds rq cell
      = true ∧ t.qmg.pkts.find cell = some p) ∧
    (∃ (s : State) (rq : Req) (priv : Bool) (cell : Nat) (reason : Nat) (t : State) (p : Pkt), s.pktTook rq priv (pktWord cell 1 (reason
      % 16)) t ∧ t.holds rq cell = true ∧ t.qmg.pkts.find cell = some p) ∧
    (∃ (s : State) (start : Nat) (p : Pkt), s.qmg.pkts.find start = some p) ∧
    (∃ (s : State) (rq : Req) (priv : Bool) (cell : Nat) (reason : Nat) (q : Nat) (op : Nat) (why : Nat) (i : Instr) (t : State), (op,
      why, i) ∈ [(0, 0, Instr.pktDeliver rq priv cell), (1, reason % 16, .pktDrop rq priv cell reason), (2, 0, .pktForward rq priv cell
      q)] ∧ s.pktTook rq priv (pktWord cell op why) t ∧ t.holds rq cell = false) ∧
    (∃ (s : State) (rq : Req) (priv : Bool) (cell : Nat) (n : Nat) (q : Nat) (t : State) (p : Pkt), s.pktTook rq priv (pktWord cell 2 0)
      t ∧ q = (if priv = true then n else t.fld F.QMG_PKTARG_Q) ∧ t.qmg.pkts.find cell = some p ∧ p.holder = .init rq.init ∧ p.queue =
      none ∧ q ≤ 65627 ∧ (t.queue q).owner.any (fun o => o.1 != .init rq.init) = false ∧ (t.queue q).cells.length + p.cells.length ≤
      (t.queueLimits q).1 ∧ t.noAge q cell ∧ p.cells.head? = some cell) ∧
    (∃ (s : State) (rq : Req) (priv : Bool) (cell : Nat) (n : Nat) (q : Nat) (t : State) (p : Pkt), s.pktTook rq priv (pktWord cell 2 0)
      t ∧ q = (if priv = true then n else t.fld F.QMG_PKTARG_Q) ∧ t.qmg.pkts.find cell = some p ∧ p.holder = .init rq.init ∧ p.queue =
      none ∧ q ≤ 65627 ∧ (t.queue q).owner.any (fun o => o.1 != .init rq.init) = false ∧ p.cells.length ≤ (t.queueLimits q).1 ∧ (t.queue
      q).cells = [] ∧ t.young q cell = false ∧ p.cells.head? = some cell) ∧
    (∃ (s : State) (rq : Req) (priv : Bool) (cell : Nat) (n : Nat) (q : Nat) (t : State) (p : Pkt), s.pktTook rq priv (pktWord cell 2 0)
      t ∧ q = (if priv = true then n else t.fld F.QMG_PKTARG_Q) ∧ t.qmg.pkts.find cell = some p ∧ t.holds rq cell = true ∧ q ≤ 65627 ∧
      (t.queue q).owner.any (fun o => o.1 != .init rq.init) = false ∧ (t.queue q).cells.length + p.cells.length ≤ (t.queueLimits q).1) ∧
    (∃ (s : State) (rq : Req) (priv : Bool) (cell : Nat) (n : Nat) (q : Nat) (t : State) (p : Pkt), s.pktTook rq priv (pktWord cell 2 0)
      t ∧ q = (if priv = true then n else t.fld F.QMG_PKTARG_Q) ∧ t.qmg.pkts.find cell = some p ∧ t.holds rq cell = true ∧ q ≤ 65627 ∧
      (t.queue q).owner.any (fun o => o.1 != .init rq.init) = false ∧ (t.queueLimits q).1 < (t.queue q).cells.length + p.cells.length) ∧
    (∃ (s : State) (rq : Req) (priv : Bool) (cell : Nat) (n : Nat) (q : Nat) (t : State), s.pktTook rq priv (pktWord cell 2 0) t ∧ q =
      (if priv = true then n else t.fld F.QMG_PKTARG_Q) ∧ t.holds rq cell = true ∧ q ≤ 65627 ∧ (t.queue q).owner.any (fun o => o.1 !=
      .init rq.init) = true) ∧
    (∃ (s : State) (rq : Req) (priv : Bool) (cell : Nat) (n : Nat) (q : Nat) (t : State), s.pktTook rq priv (pktWord cell 2 0) t ∧ q =
      (if priv = true then n else t.fld F.QMG_PKTARG_Q) ∧ t.holds rq cell = true ∧ 65627 < q) :=
  ⟨⟨qT, 6, 2, [1], qT, by decide⟩,
   ⟨qNo, 6, 2, [1], qNo, by decide⟩,
   ⟨37, [1], by decide⟩,
   ⟨10, 3, [1, 2], by decide⟩,
   ⟨qArg qT 2 0, tSup, false, 9, 2, (qArg qT 2 0).took tSup Reg.QMG_PKTCMD (pktWord 0 3 0), (qArg qT 2 0).took tSup Reg.QMG_PKTCMD
     (pktWord 0 3 0), by decide⟩,
   ⟨qNo, tSup, true, 2, 2, qNo, qNo, by decide⟩,
   ⟨qT, tSup, true, 37, 37, qT, by decide⟩,
   ⟨qH, tSup, true, 30, qH, qPk (.init .sup) none 0, by decide⟩,
   ⟨qH, tSup, true, 30, 7, qH, qPk (.init .sup) none 0, by decide⟩,
   ⟨qH, 30, qPk (.init .sup) none 0, by decide⟩,
   ⟨qT, tSup, true, 30, 7, 7, 0, 0, .pktDeliver tSup true 30, qT, by decide⟩,
   ⟨qH, tSup, true, 30, 7, 7, qH, qPk (.init .sup) none 0, by decide⟩,
   ⟨qLate (qWith qH 7 { qLim with age := 1 }), tSup, true, 30, 7, 7, qLate (qWith qH 7 { qLim with age := 1 }), qPk (.init .sup) none 0,
     by decide⟩,
   ⟨qH, tSup, true, 30, 7, 7, qH, qPk (.init .sup) none 0, by decide⟩,
   ⟨qWith qH 7 { qLim with limit := 1 }, tSup, true, 30, 7, 7, qWith qH 7 { qLim with limit := 1 }, qPk (.init .sup) none 0, by decide⟩,
   ⟨qWith qH 7 { qLim with owner := some (qHw, 4) }, tSup, true, 30, 7, 7, qWith qH 7 { qLim with owner := some (qHw, 4) }, by decide⟩,
   ⟨qH, tSup, true, 30, 65628, 65628, qH, by decide⟩⟩

theorem test_met_QueuePushPop :
    (∃ (s : State) (q : Nat) (cell : Nat) (h : Holder) (p : Pkt), (s.queue q).owner = none ∧ (s.queue q).discard = none ∧ s.qmg.pkts.find
      cell = some p ∧ p.holder = h ∧ p.queue = none ∧ s.noAge q cell ∧ (s.queue q).cells.length + p.cells.length ≤ (s.queueLimits q).1) ∧
    (∃ (s : State) (q : Nat) (cell : Nat) (h : Holder) (p : Pkt), (s.queue q).owner = none ∧ (s.queue q).discard = none ∧ s.qmg.pkts.find
      cell = some p ∧ p.holder = h ∧ p.queue = none ∧ p.cells.head? = some cell ∧ (s.queue q).cells = [] ∧ s.young q cell = false ∧
      p.cells.length ≤ (s.queueLimits q).1) ∧
    (∃ (s : State) (q : Nat) (cell : Nat) (st : Nat) (h : Holder) (p : Pkt), (s.queue q).owner = some (h, st) ∧ (s.queue q).discard =
      none ∧ s.qmg.pkts.find st = some p ∧ p.cells[p.pushed]? = some cell ∧ p.pushed + 1 ≠ p.cells.length ∧ s.noAge q cell) ∧
    (∃ (s : State) (q : Nat) (cell : Nat) (st : Nat) (h : Holder) (p : Pkt), (s.queue q).owner = some (h, st) ∧ (s.queue q).discard =
      none ∧ s.qmg.pkts.find st = some p ∧ p.cells[p.pushed]? = some cell ∧ p.pushed + 1 = p.cells.length ∧ (s.queue q).waits = [] ∧
      s.noAge q cell) ∧
    (∃ (s : State) (q : Nat) (cell : Nat) (st : Nat) (st' : Nat) (h : Holder) (h' : Holder) (p : Pkt) (p' : Pkt), (s.queue q).owner =
      some (h, st) ∧ (s.queue q).discard = none ∧ s.qmg.pkts.find st = some p ∧ p.cells[p.pushed]? = some cell ∧ p.pushed + 1 =
      p.cells.length ∧ (s.queue q).waits = [(h', st')] ∧ s.noAge q cell ∧ st' ≠ st ∧ s.qmg.pkts.find st' = some p' ∧ (s.queue
      q).cells.length + 1 + p'.cells.length ≤ (s.queueLimits q).1) ∧
    (∃ (s : State) (q : Nat) (cell : Nat) (d : Nat) (r : List Nat) (h : Holder) (p : Pkt) (e : Nat × Pkt), (s.queue q).owner = none ∧
      (s.queue q).discard = none ∧ s.qmg.pkts.find cell = some p ∧ p.holder = h ∧ p.queue = none ∧ (s.queue q).cells = d :: r ∧ s.pktOf d
      = some e ∧ e.1 ≠ cell ∧ q < 65620 ∧ (s.queueLimits q).2.2.2.2 = 0 ∧ r.length + p.cells.length ≤ (s.queueLimits q).1) ∧
    (∃ (s : State) (q : Nat) (e : Nat) (st : Nat) (h : Holder), (s.queue q).owner = some (h, st) ∧ (s.queue q).discard = some (h, e)) ∧
    (∃ (s : State) (q : Nat) (cell : Nat), (s.queue q).owner = none ∧ (s.queue q).discard = none ∧ s.qmg.pkts.find cell = none ∧ (s.queue
      q).cells.length < (s.queueLimits q).1) ∧
    (∃ (s : State) (q : Nat) (cell : Nat) (unit : Nat) (port : Nat) (o : Holder × Nat) (p : Pkt), (s.queue q).owner = some o ∧ o.1 ≠ .hw
      unit port ∧ s.qmg.pkts.find cell = some p) ∧
    (∃ (s : State) (q : Nat) (cell : Nat) (unit : Nat) (port : Nat) (p : Pkt), q ≤ 65627 ∧ (s.queue q).owner = none ∧ (s.queue q).discard
      = none ∧ s.qmg.pkts.find cell = some p ∧ p.holder = .hw unit port ∧ p.queue = none ∧ (s.queueLimits q).1 < (s.queue q).cells.length
      + p.cells.length) ∧
    (∃ (s : State) (q : Nat) (cell : Nat) (i : Initiator) (p : Pkt), q ≤ 65627 ∧ (s.queue q).owner = none ∧ (s.queue q).discard = none ∧
      s.qmg.pkts.find cell = some p ∧ p.holder = .init i ∧ p.queue = none ∧ (s.queueLimits q).1 < (s.queue q).cells.length +
      p.cells.length) ∧
    (∃ (s : State) (q : Nat), q ≤ 65627 ∧ (s.queue q).cells = []) ∧
    (∃ (s : State) (q : Nat) (c : Nat) (r : List Nat) (e : Nat × Pkt), q < 65620 ∧ (s.queue q).cells = c :: r ∧ s.pktOf c = some e ∧
      s.qmg.pkts.find e.1 = some e.2 ∧ r.head?.all (s.young q) = true) ∧
    (∃ (s : State) (q : Nat) (c : Nat) (r : List Nat), (s.queue q).cells = c :: r) ∧
    (∃ (s : State) (q : Nat) (k : Nat) (l : List Nat), consumerOf q = some k ∧ s.qmg.banks.getD' k ([], []) = ([], []) ∧ l = (servedNext
      q).flatMap (fun j => (s.queue j).cells)) ∧
    (∃ (s : State) (q : Nat) (k : Nat), consumerOf q = some k ∧ (s.qmg.banks.getD' k ([], [])).1.length ≤ 16 ∧ (s.qmg.banks.getD' k ([],
      [])).2.length ≤ 16) ∧
    (∃ (s : State) (rq : Req) (n : Nat) (cell : Nat), n < 8 ∧ s.barred rq (Reg.QMG_SWQnIN n) (some (BitVec.ofNat 32 (cell % 2 ^ 26))) =
      none) ∧
    (∃ (s : State) (q : Nat) (i : Initiator) (o : Holder × Nat), q ≤ 65627 ∧ (s.queue q).owner = some o ∧ o.1 ≠ .init i ∧ (s.queue
      q).discard = none) ∧
    (∃ (s : State) (rq : Req) (n : Nat) (c : Nat) (r : List Nat) (e : Nat × Pkt), n < 8 ∧ s.barred rq (Reg.QMG_SWQnCMD n) (some 1) = none
      ∧ (s.queue (65620 + n)).cells = c :: r ∧ s.pktOf c = some e ∧ r.head?.all (s.young (65620 + n)) = true ∧ c < 2 ^ 26) ∧
    (∃ (s : State) (rq : Req) (n : Nat), n < 8 ∧ s.barred rq (Reg.QMG_SWQnCMD n) (some 1) = none) :=
  ⟨⟨qPu qLim (qPk qHw none 0), 7, 30, qHw, qPk qHw none 0, by decide⟩,
   ⟨qLate (qPu { qLim with age := 1 } (qPk qHw none 0)), 7, 30, qHw, qPk qHw none 0, by decide⟩,
   ⟨qPu { qLim with owner := some (qHw, 30), cells := [5] } { qPk qHw (some 7) 1 with cells := [30, 31, 32] }, 7, 31, 30, qHw,
     { qPk qHw (some 7) 1 with cells := [30, 31, 32] }, by decide⟩,
   ⟨qPu { qLim with owner := some (qHw, 30), cells := [30] } (qPk qHw (some 7) 1), 7, 31, 30, qHw, qPk qHw (some 7) 1, by decide⟩,
   ⟨{ qPu { qLim with owner := some (qHw, 30), cells := [30], waits := [(.hw 4 0, 40)] } (qPk qHw (some 7) 1) with qmg := { (qPu { qLim with owner := some (qHw, 30), cells := [30], waits := [(.hw 4 0, 40)] } (qPk qHw (some 7) 1)).qmg with pkts := [(30, qPk qHw (some 7) 1), (40, { qPk (.hw 4 0) none 0 with cells := [40, 41] })] } },
     7, 31, 30, 40, qHw, .hw 4 0, qPk qHw (some 7) 1, { qPk (.hw 4 0) none 0 with cells := [40, 41] }, by decide⟩,
   ⟨{ qPu { qLim with cells := [40, 41] } (qPk qHw none 0) with qmg := { (qPu { qLim with cells := [40, 41] } (qPk qHw none 0)).qmg with pkts := [(30, qPk qHw none 0), (40, { qPk .none (some 7) 2 with cells := [40, 41] })] } },
     7, 30, 40, [41], qHw, qPk qHw none 0, (40, { qPk .none (some 7) 2 with cells := [40, 41] }), by decide⟩,
   ⟨qWith qT 7 { qLim with owner := some (qHw, 30), discard := some (qHw, 31) }, 7, 31, 30, qHw, by decide⟩,
   ⟨qWith qT 7 qLim, 7, 99, by decide⟩,
   ⟨qPu { qLim with owner := some (.init .prc, 9) } (qPk qHw none 0), 7, 30, 3, 1, (.init .prc, 9), qPk qHw none 0, by decide⟩,
   ⟨qPu { qLim with limit := 1 } (qPk qHw none 0), 7, 30, 3, 1, qPk qHw none 0, by decide⟩,
   ⟨qPu { qLim with limit := 1 } (qPk (.init .sup) none 0), 7, 30, .sup, qPk (.init .sup) none 0, by decide⟩,
   ⟨qT, 7, by decide⟩,
   ⟨qPu { qLim with cells := [30, 31] } (qPk .none (some 7) 2), 7, 30, [31], (30, qPk .none (some 7) 2), by decide⟩,
   ⟨qPu { qLim with cells := [30, 31] } (qPk .none (some 7) 2), 7, 30, [31], by decide⟩,
   ⟨qPu { qLim with cells := [30, 31] } (qPk .none (some 7) 2), 7, 0, [30, 31], by decide⟩,
   ⟨qPu { qLim with cells := [30, 31] } (qPk .none (some 7) 2), 7, 0, by decide⟩,
   ⟨qT, tSup, 3, 30, by decide⟩,
   ⟨qWith qT 65620 { qLim with owner := some (qHw, 9) }, 65620, .sup, (qHw, 9), by decide⟩,
   ⟨qWith (qPu qLim (qPk .none (some 65621) 2)) 65621 { qLim with cells := [30, 31] }, tSup, 1, 30, [31], (30, qPk .none (some 65621) 2),
     by decide⟩,
   ⟨qT, tSup, 3, by decide⟩⟩

theorem test_met_QueueCommandsAndErrors :
    (∃ (s : State) (rq : Req) (q : Nat), q ≤ 65627 ∧ s.barred rq Reg.QMG_QCMD (some (qcmdWord q 0)) = none) ∧
    (∃ (s : State) (rq : Req) (q : Nat) (hi : Nat) (lo : Nat) (lim : Nat) (d : List Octet), q ≤ 65627 ∧ s.barred rq Reg.QMG_QCMD (some
      (qcmdWord q 1)) = none ∧ d = s.octRun (Reg.QMG_QDATAw 0) 8 ∧ lim = leNat (slice d 0 4) % 2 ^ 26 ∧ hi = leNat (slice d 4 4) % 2 ^ 26
      ∧ lo = leNat (slice d 8 4) % 2 ^ 26 ∧ (hi = 0 ∨ lo < hi)) ∧
    (∃ (s : State) (rq : Req) (q : Nat) (d : List Octet), q ≤ 65627 ∧ s.barred rq Reg.QMG_QCMD (some (qcmdWord q 1)) = none ∧ d =
      s.octRun (Reg.QMG_QDATAw 0) 8 ∧ leNat (slice d 4 4) % 2 ^ 26 ≠ 0 ∧ leNat (slice d 4 4) % 2 ^ 26 ≤ leNat (slice d 8 4) % 2 ^ 26) ∧
    (∃ (s : State) (rq : Req) (q : Nat), q ≤ 65627 ∧ s.barred rq Reg.QMG_QCMD (some (qcmdWord q 2)) = none) ∧
    (∃ (s : State) (rq : Req) (q : Nat) (st : Nat) (t : State), q ≤ 65627 ∧ s.barred rq Reg.QMG_QCMD (some (qcmdWord q 3)) = none ∧ t =
      s.took rq Reg.QMG_QCMD (qcmdWord q 3) ∧ (s.queue q).inprog = some st) ∧
    (∃ (s : State) (rq : Req) (q : Nat) (c : Nat) (r : List Nat) (e : Nat × Pkt) (t : State), q ≤ 65627 ∧ s.barred rq Reg.QMG_QCMD (some
      (qcmdWord q 3)) = none ∧ t = s.took rq Reg.QMG_QCMD (qcmdWord q 3) ∧ (s.queue q).inprog = none ∧ (s.queue q).cells = c :: r ∧
      s.pktOf c = some e) ∧
    (∃ (s : State) (rq : Req) (q : Nat), q ≤ 65627 ∧ s.barred rq Reg.QMG_QCMD (some (qcmdWord q 3)) = none ∧ (s.queue q).inprog = none ∧
      (s.queue q).cells.head?.bind (fun c => s.pktOf c) = none) ∧
    (∃ (s : State) (rq : Req) (q : Nat), q ≤ 65627 ∧ s.barred rq Reg.QMG_QCMD (some (qcmdWord q 4)) = none) ∧
    (∃ (s : State) (rq : Req) (q : Nat) (op : Nat) (i : Instr), (op, i) ∈ [(0, Instr.qcmdRead rq q), (1, .qcmdWrite rq q), (2, .qcmdFlush
      rq q), (3, .qcmdDroprest rq q), (4, .qcmdClass rq q)] ∧ 65627 < q ∧ q < 2 ^ 17 ∧ s.barred rq Reg.QMG_QCMD (some (qcmdWord q op)) =
      none) ∧
    (∃ (s : State) (t : Time) (q : Nat) (c : Nat) (p : Pkt), (s.queue q).cells = c :: p.cells.tail ∧ s.qmg.pkts.find c = some p ∧
      p.cells.head? = some c ∧ p.queue = some q ∧ p.pushed = p.cells.length ∧ (s.queueLimits q).2.2.2.2 ≠ 0 ∧ ((s.queueLimits q).2.2.2.2
      * (s.nomFreq / 1000) * s.spc : Nat) < gsnDiff (s.at t).gsn p.arr) ∧
    (∃ (s : State) (t : Time) (q : Nat) (c : Nat) (r : List Nat) (p : Pkt), (s.queue q).cells = c :: r ∧ s.qmg.pkts.find c = some p ∧
      ((s.queueLimits q).2.2.2.2 = 0 ∨ gsnDiff (s.at t).gsn p.arr ≤ ((s.queueLimits q).2.2.2.2 * (s.nomFreq / 1000) * s.spc : Nat))) ∧
    (∃ (s : State) (q : Nat), (s.queue q).cells = []) ∧
    (∃ (s : State) (v : State) (k : Nat), v = s.auditBreak.reportNow 5 10 143 143 ∧ k < 38) ∧
    (∃ (k : Nat), 38 ≤ k) ∧
    (∃ (s : State) (v : State) (c : Nat), v = s.auditBreak.reportNow 5 10 143 143 ∧ s.takenCells.contains c = false ∧ c < s.totalCells) ∧
    (∃ (s : State) (c : Nat), (s.takenCells.contains c = true ∨ s.totalCells ≤ c)) ∧
    (∃ (s : State) (c : Nat), s.pktOf c = none) ∧
    (∃ (s : State) (v : State) (c : Nat) (st : Nat) (p : Pkt), v = s.auditBreak.reportNow 5 10 143 143 ∧ s.pktOf c = some (st, p) ∧
      s.qmg.pkts.find st = some p) ∧
    (∃ (s : State) (v : State), v = s.auditBreak.reportNow 5 10 143 143) ∧
    (∃ (s : State) (q : Nat) (cs : List Nat), s.qmg.struck.find? (fun e => e.1 == q) = some (q, cs)) ∧
    (∃ (s : State) (q : Nat), s.qmg.struck.find? (fun e => e.1 == q) = none) :=
  ⟨⟨qT, tSup, 7, by decide⟩,
   ⟨qWd qT 9 5 3, tSup, 7, 5, 3, 9, (qWd qT 9 5 3).octRun (Reg.QMG_QDATAw 0) 8, by decide⟩,
   ⟨qWd qT 9 5 5, tSup, 7, (qWd qT 9 5 5).octRun (Reg.QMG_QDATAw 0) 8, by decide⟩,
   ⟨qPu { qLim with cells := [30, 31] } (qPk .none (some 7) 2), tSup, 7, by decide⟩,
   ⟨qPu { qLim with cells := [31], inprog := some 30 } (qPk qHw (some 7) 2), tSup, 7, 30, (qPu
     { qLim with cells := [31], inprog := some 30 } (qPk qHw (some 7) 2)).took tSup Reg.QMG_QCMD (qcmdWord 7 3), by decide⟩,
   ⟨qPu { qLim with cells := [30, 31] } (qPk .none (some 7) 2), tSup, 7, 30, [31], (30, qPk .none (some 7) 2), (qPu
     { qLim with cells := [30, 31] } (qPk .none (some 7) 2)).took tSup Reg.QMG_QCMD (qcmdWord 7 3), by decide⟩,
   ⟨qT, tSup, 7, by decide⟩,
   ⟨qWith qT 7 qLim, tSup, 7, by decide⟩,
   ⟨qT, tSup, 65628, 0, .qcmdRead tSup 65628, by decide⟩,
   ⟨qPu { qLim with cells := [30, 31], age := 1 } (qPk .none (some 7) 2), ⟨2 ^ 24 * 1000, 7⟩, 7, 30, qPk .none (some 7) 2, by decide⟩,
   ⟨qPu { qLim with cells := [30, 31], age := 0 } (qPk .none (some 7) 2), ⟨2 ^ 24 * 1000, 7⟩, 7, 30, [31], qPk .none (some 7) 2,
     by decide⟩,
   ⟨qT, 7, by decide⟩,
   ⟨qT, qT.auditBreak.reportNow 5 10 143 143, 3, by decide⟩,
   ⟨38, by decide⟩,
   ⟨qErS, qErr, 44, by decide⟩,
   ⟨qErS, 30, by decide⟩,
   ⟨qErS, 77, by decide⟩,
   ⟨qErS, qErr, 31, 30, qPk .none (some 7) 2, by decide⟩,
   ⟨qErS, qErr, by decide⟩,
   ⟨{ qErS with qmg := { qErS.qmg with struck := [(7, [30, 31])] } }, 7, [30, 31], by decide⟩,
   ⟨qT, 7, by decide⟩⟩

/-! ### Witnesses: FWD -/

def fOn : State := tOn.setFlag F.FWD_STATUS_BOOTMODE false
def fAt : State := fOn
def fEv (own : Bool) : LearnEv := ⟨77, 2, 9, 500, own⟩
def fEn : FwdEntry := { key := 77, len := 128, updgt := 100, stat := false, learned := true, hit := false, pend := false, pin := false, etype := 2, dscppri := false, pri := 0, moves := 0, dest := 9 }
def fSt : FwdEntry := { fEn with stat := true, learned := false, updgt := 0, etype := 3, dest := 4 }
def fB : Nat := (fOn.buckets false 77 128).1
def fIn (e : FwdEntry) : State := { fOn with fwd := { fOn.fwd with addr := [(8 * fB, e)] } }
def fFull : State :=
  let b := fOn.buckets false 77 128
  let l := (List.range 8).map (fun k => (8 * min b.1 b.2 + k, { fEn with key := k })) ++ (List.range 8).map (fun k => (8 * max b.1 b.2 + k, { fEn with key := k }))
  { fOn with fwd := { fOn.fwd with addr := l } }
def fNoA : State := { fOn with msq := { fOn.msq with nbrs := [(1, { eui := 0, node := 9, st := 1, key := 0, sw := 0, par := 0, dep := 0, rxHigh := 0, rxWin := 0, supto := 80000, lastGt := 0, drift := 0, unc := 0, theta := 0, guard := 0, wide := 0, retries := 0, heard := false })] } }
def fWithN (s : State) : State := { s with msq := fNoA.msq }
def fC (op tbl : Nat) (data : List Octet) : FwdCmd := ⟨op, tbl, 7, 0, data, tSup, true⟩
def fP (s : State) (c : FwdCmd) : State := { s with fwd := { s.fwd with priv := some c } }
def fH (s : State) (c : FwdCmd) : State := { s with fwd := { s.fwd with cmd := some c } }
def fKey : List Octet := beOctets 16 77 ++ List.replicate 8 0 ++ [128] ++ List.replicate 7 0
def fWr (l : Nat) : List Octet := beOctets 16 (if l = 128 then 77 else 0) ++ List.replicate 8 0 ++ [BitVec.ofNat 8 l, 3, 3, 0] ++ leOctets 4 4
def fBoot (s : State) : State := s.setFlag F.FWD_STATUS_BOOTMODE true
def fTz (s : State) : State := { s with fwd := { s.fwd with boot := [(0, { fSt with key := 0, len := 0, etype := 0 })] } }
def fTb (s : State) : State := { s with fwd := { s.fwd with boot := [(0, { fSt with key := 0, len := 0 })] } }
def fPf : State := { fOn with fwd := { fOn.fwd with pfx := [(4 * (fOn.buckets true 0 0).1, { fSt with key := 0, len := 0 })] } }
def fHot (r : Bool) (s : State) : State := { s with fwd := { s.fwd with hot := [(s.hotSet 77, [⟨77, r, 0, fSt⟩])] } }
def fFl (s : State) : State := { s with fwd := { s.fwd with flush := some (2, 9, 0) } }
def fPk (src : Nat) : Pkt := { cells := [30], data := [], arr := 0, src := src, holder := .hw 11 0, queue := none, pushed := 0, info := {} }
def fPq (s : State) : State := { s with qmg := { s.qmg with pkts := [(30, fPk 6)], intake := [30] } }
def fLq (s : State) (v : LearnEv) : State := { s with fwd := { s.fwd with learnQ := [v] } }
def fMsg (op org : Nat) : List Octet := beOctets 16 77 ++ leOctets 8 500 ++ leOctets 1 op ++ leOctets 1 org ++ [0, 0] ++ leOctets 4 6
def fRx (s : State) : State := s.setFlag F.FWD_LXCFG_RXEN true
def fMc : Nat := 255 * 2 ^ 120
def fPol (s : State) : State := (((s.setFlag (F.FWD_POLk_B_EN 2) true).setFld (F.FWD_POLk_B_BURST 2) 4).setFld (F.FWD_POLk_A_RATE 2) 700)
def fSw (e : FwdEntry) : State := (fIn e).setFlag F.FWD_AGE_EN true
def fNs : Req := { init := .prc, prcSecure := false }
def fCn (op tbl : Nat) (data : List Octet) : FwdCmd := ⟨op, tbl, 7, 0, data, fNs, false⟩
def fWm (s : State) : State := (s.setReg Reg.CHIP_WMAP1 0x7C).setFlag F.CHIP_WMAP1_LOCKED true
def fMn (s : State) (t : Time) : State := (State.readHot { s.at t with fwd := { s.fwd with learnQ := s.fwd.learnQ.tail } } [] 77).2.readBuckets [] false 77 128
def fTx (s : State) : State := ((s.setFlag F.FWD_LXCFG_TXEN true).setFld F.CSC_CFG_ROLE 1)
def fDm : Damp := ⟨77, 0, 5, some 100⟩

theorem test_met_FwdCommands :
    (∃ (s : State) (rq : Req) (op : Nat) (tbl : Nat) (tag : Nat) (i : Instr), (op, i) ∈ [(0, Instr.fwdCmdRead (.write rq) tbl tag), (1,
      .fwdCmdWrite (.write rq) tbl tag), (2, .fwdCmdDelete (.write rq) tbl tag), (3, .fwdCmdLookup (.write rq) tbl tag), (4, .fwdCmdUnpin
      (.write rq) tbl tag), (5, .fwdCmdWalk (.write rq) tbl tag), (6, .fwdCmdFlush (.write rq) tbl tag)] ∧ s.barred rq Reg.FWD_CMD (some
      (fwdWord op tbl tag)) = none ∧ s.fwd.cmd = none) ∧
    (∃ (s : State) (rq : Req) (op : Nat) (tbl : Nat) (tag : Nat) (i : Instr) (c : FwdCmd), (op, i) ∈ [(0, Instr.fwdCmdRead (.write rq)
      tbl tag), (1, .fwdCmdWrite (.write rq) tbl tag), (2, .fwdCmdDelete (.write rq) tbl tag), (3, .fwdCmdLookup (.write rq) tbl tag),
      (4, .fwdCmdUnpin (.write rq) tbl tag), (5, .fwdCmdWalk (.write rq) tbl tag), (6, .fwdCmdFlush (.write rq) tbl tag)] ∧ s.barred rq
      Reg.FWD_CMD (some (fwdWord op tbl tag)) = none ∧ s.fwd.cmd = some c) ∧
    (∃ (s : State) (sec : Bool) (arg : Word) (data : List Octet) (op : Nat) (tbl : Nat) (tag : Nat) (i : Instr), (op, i) ∈ [(0,
      Instr.fwdCmdRead (.priv sec arg data) tbl tag), (1, .fwdCmdWrite (.priv sec arg data) tbl tag), (2, .fwdCmdDelete (.priv sec arg
      data) tbl tag), (3, .fwdCmdLookup (.priv sec arg data) tbl tag), (4, .fwdCmdUnpin (.priv sec arg data) tbl tag), (5, .fwdCmdWalk
      (.priv sec arg data) tbl tag), (6, .fwdCmdFlush (.priv sec arg data) tbl tag)] ∧ s.domReady 1 = true) ∧
    (∃ (s : State) (o : Nat) (sec : Bool) (arg : Word) (data : List Octet) (tbl : Nat) (tag : Nat) (c : FwdCmd) (i : Instr), i ∈
      [Instr.fwdCmdRead (.privOther o sec arg data) tbl tag, .fwdCmdWrite (.privOther o sec arg data) tbl tag, .fwdCmdDelete (.privOther
      o sec arg data) tbl tag, .fwdCmdLookup (.privOther o sec arg data) tbl tag, .fwdCmdUnpin (.privOther o sec arg data) tbl tag,
      .fwdCmdWalk (.privOther o sec arg data) tbl tag, .fwdCmdFlush (.privOther o sec arg data) tbl tag] ∧ s.domReady 1 = true ∧ c = ⟨o %
      16, tbl % 4, tag % 256, arg, data, ⟨.prc, sec⟩, sec⟩) ∧
    (∃ (s : State) (o : Nat) (sec : Bool) (arg : Word) (data : List Octet) (tbl : Nat) (tag : Nat) (i : Instr), i ∈ [Instr.fwdCmdRead
      (.priv sec arg data) tbl tag, .fwdCmdWrite (.priv sec arg data) tbl tag, .fwdCmdDelete (.priv sec arg data) tbl tag, .fwdCmdLookup
      (.priv sec arg data) tbl tag, .fwdCmdUnpin (.priv sec arg data) tbl tag, .fwdCmdWalk (.priv sec arg data) tbl tag, .fwdCmdFlush
      (.priv sec arg data) tbl tag] ++ [Instr.fwdCmdRead (.privOther o sec arg data) tbl tag, .fwdCmdWrite (.privOther o sec arg data)
      tbl tag, .fwdCmdDelete (.privOther o sec arg data) tbl tag, .fwdCmdLookup (.privOther o sec arg data) tbl tag, .fwdCmdUnpin
      (.privOther o sec arg data) tbl tag, .fwdCmdWalk (.privOther o sec arg data) tbl tag, .fwdCmdFlush (.privOther o sec arg data) tbl
      tag] ∧ s.domReady 1 = false) ∧
    (∃ (c : FwdCmd) (o : Nat) (step : Nat) (e : Option FwdEntry) (arg : Option Word) (v : State) (u : State), u = State.fwdDone false c
      { outcome := o, step := step, entry := e, arg := arg, st := v } ∧ o < 16 ∧ step < 8 ∧ c.tag < 256) ∧
    (∃ (c : FwdCmd) (o : Nat) (step : Nat) (e : Option FwdEntry) (arg : Option Word) (v : State) (u : State), u = State.fwdDone true c
      { outcome := o, step := step, entry := e, arg := arg, st := v }) ∧
    (∃ (s : State) (t : Time) (priv : Bool) (errs : List FwdErr) (op : Nat) (tbl : Nat) (tag : Nat) (o : Nat) (tbls : List Nat) (i :
      Instr) (c : FwdCmd), (op, tbls, i) ∈ [(0, [0, 1, 2], Instr.fwdCmdRead (.run t priv errs) tbl tag), (1, [0, 1, 2], .fwdCmdWrite
      (.run t priv errs) tbl tag), (2, [0, 1, 2], .fwdCmdDelete (.run t priv errs) tbl tag), (4, [0], .fwdCmdUnpin (.run t priv errs) tbl
      tag), (5, [0, 1], .fwdCmdWalk (.run t priv errs) tbl tag), (6, [0], .fwdCmdFlush (.run t priv errs) tbl tag)] ∧ (if priv then
      s.fwd.priv else s.fwd.cmd) = some c ∧ c.op = op ∧ ((o = 4 ∧ (c.tbl ∉ tbls ∨ c.tbl = 2 ∧ 16384 ≤ c.index)) ∨ (o = 5 ∧ c.tbl ∈ tbls ∧
      c.tbl < 2 ∧ s.on F.FWD_STATUS_BOOTMODE = true))) ∧
    (∃ (s : State) (t : Time) (priv : Bool) (errs : List FwdErr) (op : Nat) (tbl : Nat) (tag : Nat) (i : Instr), (op, i) ∈ [(0,
      Instr.fwdCmdRead (.run t priv errs) tbl tag), (1, .fwdCmdWrite (.run t priv errs) tbl tag), (2, .fwdCmdDelete (.run t priv errs)
      tbl tag), (3, .fwdCmdLookup (.run t priv errs) tbl tag), (4, .fwdCmdUnpin (.run t priv errs) tbl tag), (5, .fwdCmdWalk (.run t priv
      errs) tbl tag), (6, .fwdCmdFlush (.run t priv errs) tbl tag)] ∧ (if priv then s.fwd.priv else s.fwd.cmd).all (fun c => c.op != op)
      = true) ∧
    (∃ (t : Time) (n : Nat) (errs : List FwdErr) (tbl : Nat) (tag : Nat) (i : Instr), i ∈ [Instr.fwdCmdRead (.visit t n errs) tbl tag,
      .fwdCmdWrite (.visit t n errs) tbl tag, .fwdCmdDelete (.visit t n errs) tbl tag, .fwdCmdLookup (.visit t n errs) tbl tag,
      .fwdCmdUnpin (.visit t n errs) tbl tag, .fwdCmdWalk (.visit t n errs) tbl tag]) ∧
    (∃ (s : State) (t : Time) (priv : Bool) (errs : List FwdErr) (op : Nat) (tbl : Nat) (tag : Nat) (b : Nat) (tbls : List Nat) (pfx :
      Bool) (i : Instr) (c : FwdCmd) (v : State), s.fwdAt t priv op tbls c v ∧ (op, tbls, pfx, b, i) ∈ [(0, [0, 1, 2], c.pfx, (v.buckets
      c.pfx c.key c.len).1, Instr.fwdCmdRead (.run t priv errs) tbl tag), (2, [0, 1, 2], c.pfx, (v.buckets c.pfx c.key c.len).1,
      .fwdCmdDelete (.run t priv errs) tbl tag), (4, [0], false, (v.buckets false c.key 128).1, .fwdCmdUnpin (.run t priv errs) tbl tag)]
      ∧ c.tbl ≠ 2 ∧ s.tagFaults c.sec 1 = true) ∧
    (∃ (s : State) (t : Time) (priv : Bool) (c : FwdCmd) (v : State), s.fwdAt t priv 0 [0, 1, 2] c v ∧ c.tbl = 2) ∧
    (∃ (s : State) (t : Time) (priv : Bool) (errs : List FwdErr) (c : FwdCmd) (v : State) (u : State), s.fwdAt t priv 0 [0, 1, 2] c v ∧
      c.tbl ≠ 2 ∧ s.tagFaults c.sec 1 = false ∧ u = v.readBuckets errs c.pfx c.key c.len) ∧
    (∃ (s : State) (t : Time) (priv : Bool) (c : FwdCmd) (v : State), s.fwdAt t priv 1 [0, 1, 2] c v ∧ (staticEntry c.data = none ∨
      (c.tbl ≠ 2 ∧ (staticEntry c.data).any (fun e => (e.len == 128) == c.pfx) = true))) ∧
    (∃ (s : State) (t : Time) (priv : Bool) (c : FwdCmd) (v : State) (e : FwdEntry), s.fwdAt t priv 1 [0, 1, 2] c v ∧ staticEntry c.data
      = some e ∧ c.tbl = 2) ∧
    (∃ (s : State) (t : Time) (priv : Bool) (c : FwdCmd) (v : State) (e : FwdEntry), s.fwdAt t priv 1 [0, 1, 2] c v ∧ staticEntry c.data
      = some e ∧ c.tbl < 2 ∧ (e.len == 128) = !c.pfx ∧ s.tagFaults c.sec 1 = true) ∧
    (∃ (s : State) (t : Time) (priv : Bool) (errs : List FwdErr) (c : FwdCmd) (v : State) (w : State) (e : FwdEntry), s.fwdAt t priv 1
      [0, 1, 2] c v ∧ staticEntry c.data = some e ∧ c.tbl < 2 ∧ (e.len == 128) = !c.pfx ∧ s.tagFaults c.sec 1 = false ∧ w = (v.readHot
      errs e.key).2.readBuckets errs c.pfx e.key e.len) ∧
    (∃ (s : State) (e : FwdEntry) (k : Nat), s.freeSlot false e.key e.len = some k) ∧
    (∃ (s : State) (e : FwdEntry) (k : Nat), s.freeSlot true e.key e.len = some k) ∧
    (∃ (s : State) (pfx : Bool) (e : FwdEntry), s.freeSlot pfx e.key e.len = none) ∧
    (∃ (s : State) (t : Time) (priv : Bool) (c : FwdCmd) (v : State), s.fwdAt t priv 2 [0, 1, 2] c v ∧ c.tbl = 2) ∧
    (∃ (s : State) (t : Time) (priv : Bool) (errs : List FwdErr) (c : FwdCmd) (v : State) (w : State), s.fwdAt t priv 2 [0, 1, 2] c v ∧
      c.tbl ≠ 2 ∧ s.tagFaults c.sec 1 = false ∧ w = (v.readHot errs c.key).2.readBuckets errs c.pfx c.key c.len) ∧
    (∃ (s : State) (k : Nat) (e : FwdEntry) (u : State), s.fwd.addr.find k = some e ∧ u = s.freeEntry false k true) ∧
    (∃ (s : State) (k : Nat) (e : FwdEntry) (u : State), s.fwd.pfx.find k = some e ∧ u = s.freeEntry true k true) ∧
    (∃ (s : State) (t : Time) (priv : Bool) (errs : List FwdErr) (c : FwdCmd) (v : State) (w : State), s.fwdAt t priv 3 [0, 1, 2, 3] c v
      ∧ v.on F.FWD_STATUS_BOOTMODE = true ∧ w = v.bootErrs errs) ∧
    (∃ (s : State) (t : Time) (priv : Bool) (b : Bool) (errs : List FwdErr) (c : FwdCmd) (v : State) (w : State) (k : Option Nat) (e :
      FwdEntry), s.fwdAt t priv 3 [0, 1, 2, 3] c v ∧ v.on F.FWD_STATUS_BOOTMODE = false ∧ v.readHot errs c.key = (b, w) ∧ (if b then
      w.hotFind c.key else none) = some (k, e)) ∧
    (∃ (s : State) (t : Time) (priv : Bool) (b : Bool) (errs : List FwdErr) (c : FwdCmd) (v : State) (w : State), s.fwdAt t priv 3 [0, 1,
      2, 3] c v ∧ v.on F.FWD_STATUS_BOOTMODE = false ∧ v.readHot errs c.key = (b, w) ∧ (if b then w.hotFind c.key else none) = none ∧
      w.tagFaults c.sec 1 = true) ∧
    (∃ (s : State) (t : Time) (priv : Bool) (b : Bool) (errs : List FwdErr) (c : FwdCmd) (v : State) (w : State) (u : State) (x : Option
      (Nat × FwdEntry)), s.fwdAt t priv 3 [0, 1, 2, 3] c v ∧ v.on F.FWD_STATUS_BOOTMODE = false ∧ v.readHot errs c.key = (b, w) ∧ (if b
      then w.hotFind c.key else none) = none ∧ w.tagFaults c.sec 1 = false ∧ w.findEntry errs false c.key 128 = (x, u)) ∧
    (∃ (s : State) (w : State) (u : State) (errs : List FwdErr) (c : FwdCmd) (l : Nat) (ls : List Nat) (x : Option FwdEntry),
      s.readFilter (filterErr errs (c.key / 2 ^ 112)) (c.key / 2 ^ 112) = (true, w) ∧ w.probeLens c.key = l :: ls ∧ w.tagFaults c.sec 1 =
      false ∧ w.longest errs c.key (l :: ls) 17 = (x, u)) ∧
    (∃ (s : State) (w : State) (errs : List FwdErr) (c : FwdCmd) (l : Nat) (ls : List Nat), s.readFilter (filterErr errs (c.key / 2 ^
      112)) (c.key / 2 ^ 112) = (true, w) ∧ w.probeLens c.key = l :: ls ∧ w.tagFaults c.sec 1 = true) ∧
    (∃ (s : State) (w : State) (errs : List FwdErr) (c : FwdCmd) (b : Bool), s.readFilter (filterErr errs (c.key / 2 ^ 112)) (c.key / 2 ^
      112) = (b, w) ∧ (b = false ∨ w.probeLens c.key = [])) ∧
    (∃ (s : State) (t : Time) (priv : Bool) (errs : List FwdErr) (k : Nat) (c : FwdCmd) (v : State) (w : State) (e : FwdEntry), s.fwdAt t
      priv 4 [0] c v ∧ s.tagFaults c.sec 1 = false ∧ w = v.readBuckets errs false c.key 128 ∧ w.slotFor false c.key 128 = some (k, e) ∧
      e.learned = true) ∧
    (∃ (s : State) (t : Time) (priv : Bool) (errs : List FwdErr) (c : FwdCmd) (v : State) (w : State), s.fwdAt t priv 4 [0] c v ∧
      s.tagFaults c.sec 1 = false ∧ w = v.readBuckets errs false c.key 128 ∧ (w.slotFor false c.key 128).all (fun x => !x.2.learned) =
      true) ∧
    (∃ (s : State) (t : Time) (priv : Bool) (c : FwdCmd) (v : State), s.fwdAt t priv 5 [0, 1] c v ∧ bucketsOf c.pfx ≤ c.walkPos / slotsOf
      c.pfx) ∧
    (∃ (s : State) (t : Time) (priv : Bool) (b : Nat) (c : FwdCmd) (v : State), s.fwdAt t priv 5 [0, 1] c v ∧ b = c.walkPos / slotsOf
      c.pfx ∧ b < bucketsOf c.pfx ∧ s.tagFaults c.sec 1 = true) ∧
    (∃ (s : State) (t : Time) (priv : Bool) (errs : List FwdErr) (b : Nat) (c : FwdCmd) (v : State) (w : State) (x : Option (Nat ×
      FwdEntry)), s.fwdAt t priv 5 [0, 1] c v ∧ b = c.walkPos / slotsOf c.pfx ∧ b < bucketsOf c.pfx ∧ s.tagFaults c.sec 1 = false ∧ w =
      v.readWindow errs c.pfx b (b + 4096) ∧ x = (w.fwdTab c.pfx).find? (fun y => Nat.ble c.walkPos y.1)) ∧
    (∃ (s : State) (t : Time) (priv : Bool) (c : FwdCmd) (v : State), s.fwdAt t priv 6 [0] c v ∧ s.tagFaults c.sec 1 = false ∧
      s.fwd.flush = none) ∧
    (∃ (s : State) (t : Time) (priv : Bool) (c : FwdCmd) (v : State), s.fwdAt t priv 6 [0] c v ∧ s.tagFaults c.sec 1 = true ∧ s.fwd.flush
      = none) ∧
    (∃ (s : State) (t : Time) (priv : Bool) (c : FwdCmd) (v : State) (f : Nat × Nat × Nat), s.fwdAt t priv 6 [0] c v ∧ s.fwd.flush = some
      f) ∧
    (∃ (s : State) (et : Nat) (dest : Nat) (b : Nat), s.fwd.flush = some (et, dest, b)) ∧
    (∃ (s : State) (et : Nat) (dest : Nat) (b : Nat), s.fwd.flush = some (et, dest, b)) ∧
    (∃ (s : State), s.fwd.flush = none) :=
  ⟨⟨fOn, tSup, 0, 1, 7, .fwdCmdRead (.write tSup) 1 7, by decide⟩,
   ⟨fH fOn (fC 0 1 []), tSup, 0, 1, 7, .fwdCmdRead (.write tSup) 1 7, fC 0 1 [], by decide⟩,
   ⟨fOn, true, 5, [1], 0, 1, 7, .fwdCmdRead (.priv true 5 [1]) 1 7, by decide⟩,
   ⟨fOn, 9, true, 5, [1], 1, 7, ⟨9, 1, 7, 5, [1], ⟨.prc, true⟩, true⟩, .fwdCmdWalk (.privOther 9 true 5 [1]) 1 7, by decide⟩,
   ⟨State.reset, 9, true, 5, [1], 1, 7, .fwdCmdRead (.priv true 5 [1]) 1 7, by decide⟩,
   ⟨fC 0 1 [], 0, 3, some fEn, some 9, fOn, State.fwdDone false (fC 0 1 [])
     { outcome := 0, step := 3, entry := some fEn, arg := some 9, st := fOn }, by decide⟩,
   ⟨fC 0 1 [], 0, 3, some fEn, some 9, fOn, State.fwdDone true (fC 0 1 [])
     { outcome := 0, step := 3, entry := some fEn, arg := some 9, st := fOn }, by decide⟩,
   ⟨fP fOn (fC 0 3 []), tT, true, [], 0, 3, 7, 4, [0, 1, 2], .fwdCmdRead (.run tT true []) 3 7, fC 0 3 [], by decide⟩,
   ⟨fOn, tT, false, [], 0, 0, 7, .fwdCmdRead (.run tT false []) 0 7, by decide⟩,
   ⟨tT, 3, [], 0, 7, .fwdCmdWalk (.visit tT 3 []) 0 7, by decide⟩,
   ⟨fP (fWm fOn) (fCn 0 0 fKey), tT, true, [], 0, 0, 7, ((fWm fOn).buckets false 77 128).1, [0, 1, 2], false, .fwdCmdRead (.run tT true
     []) 0 7, fCn 0 0 fKey, (fP (fWm fOn) (fCn 0 0 fKey)).at tT, by decide⟩,
   ⟨fP (fTb fOn) (fC 0 2 []), tT, true, fC 0 2 [], (fP (fTb fOn) (fC 0 2 [])).at tT, by decide⟩,
   ⟨fP (fIn fEn) (fC 0 0 fKey), tT, true, [], fC 0 0 fKey, (fP (fIn fEn) (fC 0 0 fKey)).at tT, (fP (fIn fEn) (fC 0 0 fKey)).at tT,
     by decide⟩,
   ⟨fP fOn (fC 1 0 []), tT, true, fC 1 0 [], (fP fOn (fC 1 0 [])).at tT, by decide⟩,
   ⟨fP fOn (fC 1 2 (fWr 0)), tT, true, fC 1 2 (fWr 0), (fP fOn (fC 1 2 (fWr 0))).at tT, { fSt with key := 0, len := 0 }, by decide⟩,
   ⟨fP (fWm fOn) (fCn 1 0 (fWr 128)), tT, true, fCn 1 0 (fWr 128), (fP (fWm fOn) (fCn 1 0 (fWr 128))).at tT, fSt, by decide⟩,
   ⟨fP (fIn fEn) (fC 1 0 (fWr 128)), tT, true, [], fC 1 0 (fWr 128), (fP (fIn fEn) (fC 1 0 (fWr 128))).at tT, (((fP (fIn fEn) (fC 1 0
     (fWr 128))).at tT).readHot [] 77).2.readBuckets [] false 77 128, fSt, by decide⟩,
   ⟨fOn, fSt, 8 * fB, by decide⟩,
   ⟨fOn, { fSt with key := 0, len := 0 }, 4 * (fOn.buckets true 0 0).1, by decide⟩,
   ⟨fFull, false, fSt, by decide⟩,
   ⟨fP (fTb fOn) (fC 2 2 []), tT, true, fC 2 2 [], (fP (fTb fOn) (fC 2 2 [])).at tT, by decide⟩,
   ⟨fP (fIn fEn) (fC 2 0 fKey), tT, true, [], fC 2 0 fKey, (fP (fIn fEn) (fC 2 0 fKey)).at tT, (((fP (fIn fEn) (fC 2 0 fKey)).at
     tT).readHot [] 77).2.readBuckets [] false 77 128, by decide⟩,
   ⟨fIn fEn, 8 * fB, fEn, (fIn fEn).freeEntry false (8 * fB) true, by decide⟩,
   ⟨fPf, 4 * (fOn.buckets true 0 0).1, { fSt with key := 0, len := 0 }, fPf.freeEntry true (4 * (fOn.buckets true 0 0).1) true,
     by decide⟩,
   ⟨fP (fBoot (fTb fOn)) (fC 3 3 fKey), tT, true, [], fC 3 3 fKey, (fP (fBoot (fTb fOn)) (fC 3 3 fKey)).at tT, ((fP (fBoot (fTb fOn)) (fC
     3 3 fKey)).at tT).bootErrs [], by decide⟩,
   ⟨fP (fHot true fOn) (fC 3 3 fKey), tT, true, true, [], fC 3 3 fKey, (fP (fHot true fOn) (fC 3 3 fKey)).at tT, (fP (fHot true fOn) (fC
     3 3 fKey)).at tT, none, fSt, by decide⟩,
   ⟨fP (fWm fOn) (fCn 3 3 fKey), tT, true, true, [], fCn 3 3 fKey, (fP (fWm fOn) (fCn 3 3 fKey)).at tT, (fP (fWm fOn) (fCn 3 3 fKey)).at
     tT, by decide⟩,
   ⟨fP (fIn fSt) (fC 3 3 fKey), tT, true, true, [], fC 3 3 fKey, (fP (fIn fSt) (fC 3 3 fKey)).at tT, (fP (fIn fSt) (fC 3 3 fKey)).at tT,
     (fP (fIn fSt) (fC 3 3 fKey)).at tT, some (8 * fB, fSt), by decide⟩,
   ⟨fPf, fPf, fPf, [], fC 3 3 fKey, 0, [], some { fSt with key := 0, len := 0 }, by decide⟩,
   ⟨fWm fPf, fWm fPf, [], fCn 3 3 fKey, 0, [], by decide⟩,
   ⟨fOn, fOn, [], fC 3 3 fKey, true, by decide⟩,
   ⟨fP (fIn fEn) (fC 4 0 fKey), tT, true, [], 8 * fB, fC 4 0 fKey, (fP (fIn fEn) (fC 4 0 fKey)).at tT, (fP (fIn fEn) (fC 4 0 fKey)).at
     tT, fEn, by decide⟩,
   ⟨fP (fIn fSt) (fC 4 0 fKey), tT, true, [], fC 4 0 fKey, (fP (fIn fSt) (fC 4 0 fKey)).at tT, (fP (fIn fSt) (fC 4 0 fKey)).at tT,
     by decide⟩,
   ⟨fP fOn { fC 5 0 [] with arg := 0x2000000 }, tT, true, { fC 5 0 [] with arg := 0x2000000 }, (fP fOn
     { fC 5 0 [] with arg := 0x2000000 }).at tT, by decide⟩,
   ⟨fP (fWm fOn) (fCn 5 1 fKey), tT, true, 0, fCn 5 1 fKey, (fP (fWm fOn) (fCn 5 1 fKey)).at tT, by decide⟩,
   ⟨fP fPf { fC 5 1 [] with arg := BitVec.ofNat 32 (fOn.buckets true 0 0).1 }, tT, true, [], (fOn.buckets true 0 0).1,
     { fC 5 1 [] with arg := BitVec.ofNat 32 (fOn.buckets true 0 0).1 }, (fP fPf
     { fC 5 1 [] with arg := BitVec.ofNat 32 (fOn.buckets true 0 0).1 }).at tT, (fP fPf
     { fC 5 1 [] with arg := BitVec.ofNat 32 (fOn.buckets true 0 0).1 }).at tT, some (4 * (fOn.buckets true 0 0).1,
     { fSt with key := 0, len := 0 }), by decide⟩,
   ⟨fP fOn (fC 6 0 fKey), tT, true, fC 6 0 fKey, (fP fOn (fC 6 0 fKey)).at tT, by decide⟩,
   ⟨fP (fWm fOn) (fCn 6 0 fKey), tT, true, fCn 6 0 fKey, (fP (fWm fOn) (fCn 6 0 fKey)).at tT, by decide⟩,
   ⟨fP (fFl fOn) (fC 6 0 fKey), tT, true, fC 6 0 fKey, (fP (fFl fOn) (fC 6 0 fKey)).at tT, (2, 9, 0), by decide⟩,
   ⟨fFl (fIn fEn), 2, 9, 0, by decide⟩,
   ⟨fFl (fIn fEn), 2, 9, 0, by decide⟩,
   ⟨fOn, by decide⟩⟩

theorem test_met_FwdLookups :
    (∃ (s : State) (pkt : Nat) (p : Pkt), s.qmg.pkts.find pkt = some p ∧ s.qmg.intake.contains pkt = true) ∧
    (∃ (s : State) (pkt : Nat), (s.qmg.pkts.find pkt = none ∨ s.qmg.intake.contains pkt = false)) ∧
    (∃ (s : State) (v : State) (pkt : Nat) (dst : Nat) (p : Pkt), v = (s.bump Ctr.FWD_LOOKUP).bump Ctr.FWD_MCAST ∧ dst / 2 ^ 120 = 255 ∧
      (v.policeSrc pkt p true none).1 = true) ∧
    (∃ (s : State) (v : State) (errs : List FwdErr) (dst : Nat) (p : Pkt) (e : FwdEntry), dst / 2 ^ 120 ≠ 255 ∧ (s.bump
      Ctr.FWD_LOOKUP).lookup errs dst = (some e, v) ∧ v.noRoute p.src e = true) ∧
    (∃ (s : State) (v : State) (u : State) (errs : List FwdErr) (pkt : Nat) (dst : Nat) (p : Pkt) (e : FwdEntry), dst / 2 ^ 120 ≠ 255 ∧
      (s.bump Ctr.FWD_LOOKUP).lookup errs dst = (some e, v) ∧ v.noRoute p.src e = false ∧ v.policeSrc pkt p false (some e.etype) = (true,
      u)) ∧
    (∃ (s : State) (v : State) (u : State) (errs : List FwdErr) (pkt : Nat) (dst : Nat) (p : Pkt), dst / 2 ^ 120 ≠ 255 ∧ (s.bump
      Ctr.FWD_LOOKUP).lookup errs dst = (none, v) ∧ (v.bump Ctr.FWD_MISS).policeSrc pkt p false none = (true, u) ∧ u.on F.FWD_CFG_MISSACT
      = false) ∧
    (∃ (s : State) (v : State) (u : State) (errs : List FwdErr) (pkt : Nat) (dst : Nat) (p : Pkt), dst / 2 ^ 120 ≠ 255 ∧ (s.bump
      Ctr.FWD_LOOKUP).lookup errs dst = (none, v) ∧ (v.bump Ctr.FWD_MISS).policeSrc pkt p false none = (true, u) ∧ u.on F.FWD_CFG_MISSACT
      = true) ∧
    (∃ (dscp : Nat) (c : Nat) (e : FwdEntry), c = (if e.dscppri = true then dscp / 8 % 8 else e.pri)) ∧
    (∃ (s : State) (w : State) (d : Nat) (errs : List FwdErr) (e : FwdEntry) (l : List FwdEntry) (r : List FwdEntry), s.on
      F.FWD_STATUS_BOOTMODE = true ∧ w = s.bootErrs errs ∧ w.bootMatches d = l ++ e :: r ∧ l.all w.staleAir = true ∧ w.staleAir e =
      false) ∧
    (∃ (s : State) (w : State) (d : Nat) (errs : List FwdErr), s.on F.FWD_STATUS_BOOTMODE = true ∧ w = s.bootErrs errs ∧ (w.bootMatches
      d).all w.staleAir = true) ∧
    (∃ (s : State) (i : Nat), i < 16384 ∧ s.fwd.badBoot.contains i = false) ∧
    (∃ (s : State) (w : State) (d : Nat) (errs : List FwdErr) (b : Bool) (i : Option Nat) (e : FwdEntry), s.on F.FWD_STATUS_BOOTMODE =
      false ∧ s.readHot errs d = (b, w) ∧ (if b then w.hotFind d else none) = some (i, e)) ∧
    (∃ (s : State) (w : State) (v : State) (d : Nat) (errs : List FwdErr) (b : Bool) (x : Option (Nat × FwdEntry)), s.on
      F.FWD_STATUS_BOOTMODE = false ∧ s.readHot errs d = (b, w) ∧ (if b then w.hotFind d else none) = none ∧ w.findEntry errs false d 128
      = (x, v)) ∧
    (∃ (s : State) (v : State) (d : Nat) (errs : List FwdErr) (x : Option FwdEntry), s.pfxMatch errs d = (x, v)) ∧
    (∃ (s : State) (v : State) (d : Nat) (x : Option FwdEntry), s.vecBad (d / 2 ^ 112) = false ∧ s.pfxMatch [] d = (x, v)) ∧
    (∃ (s : State) (d : Nat), s.vecBad (d / 2 ^ 112) = true) ∧
    (∃ (s : State) (u : State) (pfx : Bool) (b : Nat) (l : List (Nat × FwdEntry)), l = s.inBucket pfx b ∧ u = s.zeroBucket pfx b) ∧
    (∃ (line : Nat), line < 4) ∧
    (∃ (s : State) (k : Nat), s.on (F.FWD_POLk_B_EN k) = true ∧ 1000 ≤ s.polTokens k) ∧
    (∃ (s : State) (k : Nat) (pkt : Nat) (p : Pkt), k < 8 ∧ s.on (F.FWD_POLk_B_EN k) = true ∧ s.polTokens k < 1000 ∧ s.qmg.pkts.find pkt
      = some p) ∧
    (∃ (s : State) (k : Nat), s.on (F.FWD_POLk_B_EN k) = false) ∧
    (∃ (s : State) (v : Nat), s.vecBad v = false) ∧
    (∃ (s : State) (v : Nat), s.vecBad v = true) ∧
    (∃ (s : State) (v : Nat), s.vecBad v = false) ∧
    (∃ (s : State) (v : Nat), s.vecBad v = false) ∧
    (∃ (s : State) (v : Nat) (x : StaleBit), x ∈ (s.scrub v).fwd.stale) ∧
    (∃ (s : State), (s.fwd.allBad = true ∨ s.fwd.bad ≠ [])) ∧
    (∃ (s : State), s.fwd.allBad = false ∧ s.fwd.bad = []) ∧
    (∃ (s : State) (rq : Req), s.barred rq Reg.FWD_PERPOP (some 1) = none) :=
  ⟨⟨fPq fOn, 30, fPk 6, by decide⟩,
   ⟨fOn, 30, by decide⟩,
   ⟨fPq fOn, ((fPq fOn).bump Ctr.FWD_LOOKUP).bump Ctr.FWD_MCAST, 30, fMc, fPk 6, by decide⟩,
   ⟨fBoot (fTz (fPq fOn)), (((fBoot (fTz (fPq fOn))).bump Ctr.FWD_LOOKUP).lookup [] 77).2, [], 77, fPk 3,
     { fSt with key := 0, len := 0, etype := 0 }, by decide⟩,
   ⟨fHot true (fPq fOn), (((fHot true (fPq fOn)).bump Ctr.FWD_LOOKUP).lookup [] 77).2, (((fHot true (fPq fOn)).bump
     Ctr.FWD_LOOKUP).lookup [] 77).2, [], 30, 77, fPk 6, fSt, by decide⟩,
   ⟨(fPq fOn).setFlag F.FWD_CFG_MISSACT false, ((fPq fOn).setFlag F.FWD_CFG_MISSACT false).bump Ctr.FWD_LOOKUP, (((fPq fOn).setFlag
     F.FWD_CFG_MISSACT false).bump Ctr.FWD_LOOKUP).bump Ctr.FWD_MISS, [], 30, 77, fPk 6, by decide⟩,
   ⟨(fPq fOn).setFlag F.FWD_CFG_MISSACT true, ((fPq fOn).setFlag F.FWD_CFG_MISSACT true).bump Ctr.FWD_LOOKUP, (((fPq fOn).setFlag
     F.FWD_CFG_MISSACT true).bump Ctr.FWD_LOOKUP).bump Ctr.FWD_MISS, [], 30, 77, fPk 6, by decide⟩,
   ⟨9, 0, { fSt with etype := 0 }, by decide⟩,
   ⟨fBoot (fTb fOn), (fBoot (fTb fOn)).bootErrs [], 77, [], { fSt with key := 0, len := 0 }, [], [], by decide⟩,
   ⟨fBoot fOn, (fBoot fOn).bootErrs [], 77, [], by decide⟩,
   ⟨fOn, 7, by decide⟩,
   ⟨fHot true fOn, fHot true fOn, 77, [], true, none, fSt, by decide⟩,
   ⟨fWithN (fIn { fEn with pend := true }), fWithN (fIn { fEn with pend := true }), fWithN (fIn { fEn with pend := true }), 77, [], true,
     some (8 * fB, { fEn with pend := true }), by decide⟩,
   ⟨fPf, fPf, 77, [], some { fSt with key := 0, len := 0 }, by decide⟩,
   ⟨fPf, fPf, 77, some { fSt with key := 0, len := 0 }, by decide⟩,
   ⟨{ fPf with fwd := { fPf.fwd with allBad := true } }, 77, by decide⟩,
   ⟨fIn fEn, (fIn fEn).zeroBucket false fB, false, fB, [(8 * fB, fEn)], by decide⟩,
   ⟨0, by decide⟩,
   ⟨fPol fOn, 2, by decide⟩,
   ⟨{ fPol (fPq fOn) with fwd := { fOn.fwd with tokens := [(2, 999)] } }, 2, 30, fPk 6, by decide⟩,
   ⟨fOn, 7, by decide⟩,
   ⟨fOn, 7, by decide⟩,
   ⟨{ fOn with fwd := { fOn.fwd with bad := [7] } }, 7, by decide⟩,
   ⟨fOn, 7, by decide⟩,
   ⟨fOn, 7, by decide⟩,
   ⟨{ fOn with fwd := { fOn.fwd with stale := [{ len := 12, base := 0, done := [] }] } }, 7, { len := 12, base := 0, done := [7] },
     by decide⟩,
   ⟨{ fOn with fwd := { fOn.fwd with bad := [7] } }, by decide⟩,
   ⟨fOn, by decide⟩,
   ⟨fOn, tSup, by decide⟩⟩

theorem test_met_FwdLearning :
    (∃ (s : State), s.fwd.learnQ = []) ∧
    (∃ (s : State) (v : LearnEv) (l : List LearnEv), s.fwd.learnQ = v :: l ∧ (s.keel = true ∨ s.on F.FWD_STATUS_BOOTMODE = true)) ∧
    (∃ (s : State) (w : State) (t : Time) (errs : List FwdErr) (v : LearnEv) (k : Nat), s.learns t errs v w ∧ w.slotFor false v.addr 128
      = none ∧ w.freeSlot false v.addr 128 = some k ∧ w.fwd.lxOut.length < 1024) ∧
    (∃ (s : State) (w : State) (t : Time) (errs : List FwdErr) (v : LearnEv), s.learns t errs v w ∧ w.slotFor false v.addr 128 = none ∧
      w.freeSlot false v.addr 128 = none) ∧
    (∃ (s : State) (w : State) (t : Time) (errs : List FwdErr) (v : LearnEv) (k : Nat) (e : FwdEntry), s.learns t errs v w ∧ w.slotFor
      false v.addr 128 = some (k, e) ∧ e.stat = true) ∧
    (∃ (s : State) (w : State) (t : Time) (errs : List FwdErr) (v : LearnEv) (k : Nat) (e : FwdEntry), s.learns t errs v w ∧ w.slotFor
      false v.addr 128 = some (k, e) ∧ e.stat = false ∧ w.rank v e = .stale) ∧
    (∃ (s : State) (w : State) (t : Time) (errs : List FwdErr) (v : LearnEv) (k : Nat) (e : FwdEntry), s.learns t errs v w ∧ w.slotFor
      false v.addr 128 = some (k, e) ∧ e.stat = false ∧ w.rank v e ≠ .stale ∧ e.etype = v.etype ∧ e.dest = v.dest) ∧
    (∃ (s : State) (w : State) (t : Time) (errs : List FwdErr) (v : LearnEv) (k : Nat) (e : FwdEntry), s.learns t errs v w ∧ w.slotFor
      false v.addr 128 = some (k, e) ∧ e.stat = false ∧ w.rank v e ≠ .stale ∧ (e.etype ≠ v.etype ∨ e.dest ≠ v.dest) ∧ e.pin = true) ∧
    (∃ (s : State) (w : State) (t : Time) (errs : List FwdErr) (v : LearnEv) (k : Nat) (e : FwdEntry), s.learns t errs v w ∧ w.slotFor
      false v.addr 128 = some (k, e) ∧ e.stat = false ∧ w.rank v e ≠ .stale ∧ (e.etype ≠ v.etype ∨ e.dest ≠ v.dest) ∧ e.pin = false) ∧
    (∃ (s : State) (addr : Nat) (d : Damp), s.fwd.damp.find? (fun (x : Damp) => x.addr == addr) = some d) ∧
    (∃ (s : State) (addr : Nat), s.fwd.damp.find? (fun (x : Damp) => x.addr == addr) = none ∧ s.fwd.damp.length < 1024) ∧
    (∃ (s : State) (addr : Nat), s.fwd.damp.find? (fun (x : Damp) => x.addr == addr) = none ∧ 1024 ≤ s.fwd.damp.length) ∧
    (∃ (s : State), s.sweeping = false) ∧
    (∃ (s : State) (u : State) (t : Time) (b : Nat) (errs : List FwdErr) (ok : Bool), s.sweeping = true ∧ (s.at t).readBucket errs false
      b = (ok, u)) ∧
    (∃ (s : State), s.sweeping = true) ∧
    (∃ (s : State) (k : Nat) (e : FwdEntry), s.fwd.addr.find k = some e ∧ (e.learned = false ∨ e.stat = true)) ∧
    (∃ (s : State) (k : Nat) (e : FwdEntry), s.fwd.addr.find k = some e ∧ e.learned = true ∧ e.stat = false ∧ e.hit = false ∧ e.pend =
      false) ∧
    (∃ (s : State) (k : Nat) (e : FwdEntry), s.fwd.addr.find k = some e ∧ e.learned = true ∧ e.stat = false ∧ e.hit = false ∧ e.pend =
      true) ∧
    (∃ (s : State) (k : Nat) (e : FwdEntry), s.fwd.addr.find k = some e ∧ e.learned = true ∧ e.stat = false ∧ e.hit = true) ∧
    (∃ (s : State), s.live 1 = true ∧ s.on F.FWD_LXCFG_RXEN = false) ∧
    (∃ (s : State), s.live 1 = true ∧ s.on F.FWD_LXCFG_RXEN = true ∧ (s.keel = true ∨ s.on F.FWD_STATUS_BOOTMODE = true)) ∧
    (∃ (s : State) (m : LxRx), s.live 1 = true ∧ s.on F.FWD_LXCFG_RXEN = true ∧ s.keel = false ∧ s.on F.FWD_STATUS_BOOTMODE = false ∧
      ((lxFields m.msg).2.2.2.1 = s.fld F.CSC_CFG_CHIPID ∨ (lxFields m.msg).2.2.1 = 3)) ∧
    (∃ (s : State) (m : LxRx) (addr : Nat) (gt : Nat) (op : Nat) (org : Nat) (seq : Nat), s.live 1 = true ∧ lxFields m.msg = (addr, gt,
      op, org, seq) ∧ s.on F.FWD_LXCFG_RXEN = true ∧ s.keel = false ∧ s.on F.FWD_STATUS_BOOTMODE = false ∧ org ≠ s.fld F.CSC_CFG_CHIPID ∧
      op < 2 ∧ s.fwd.learnQ.length < 4096) ∧
    (∃ (s : State) (t : Time) (m : LxRx) (addr : Nat) (gt : Nat) (org : Nat) (seq : Nat) (w : State), s.live 1 = true ∧ lxFields m.msg =
      (addr, gt, 2, org, seq) ∧ s.on F.FWD_LXCFG_RXEN = true ∧ s.keel = false ∧ s.on F.FWD_STATUS_BOOTMODE = false ∧ org ≠ s.fld
      F.CSC_CFG_CHIPID ∧ (s.fwd.lxLast.find org).all (fun n => (n + 1) % 2 ^ 32 == seq) = true ∧ w = (State.readHot
      { (s.at t).bump Ctr.FWD_LXRX with fwd := { s.fwd with lxLast := s.fwd.lxLast.put org seq } } m.errs addr).2.readBuckets m.errs
      false addr 128) ∧
    (∃ (s : State) (t : Time), s.fwd.damp.all (fun x => !(x.pin.any (fun p => decide (0 ≤ gtDiff (t.gt % 2 ^ 64) p)))) = true) ∧
    (∃ (s : State) (t : Time) (d : Damp) (p : Nat) (k : Nat) (e : FwdEntry), s.fwd.damp = [d] ∧ d.pin = some p ∧ 0 ≤ gtDiff (t.gt % 2 ^
      64) p ∧ s.slotFor false d.addr 128 = some (k, e) ∧ e.learned = true) :=
  ⟨⟨fOn, by decide⟩,
   ⟨fBoot (fLq fOn (fEv false)), fEv false, [], by decide⟩,
   ⟨fLq fOn (fEv false), fMn (fLq fOn (fEv false)) tT, tT, [], fEv false, 8 * fB, by decide⟩,
   ⟨fLq fFull (fEv false), fMn (fLq fFull (fEv false)) tT, tT, [], fEv false, by decide⟩,
   ⟨fLq (fIn fSt) (fEv false), fMn (fLq (fIn fSt) (fEv false)) tT, tT, [], fEv false, 8 * fB, fSt, by decide⟩,
   ⟨fLq (fIn { fEn with updgt := 900 }) (fEv false), fMn (fLq (fIn { fEn with updgt := 900 }) (fEv false)) tT, tT, [], fEv false, 8 * fB,
     { fEn with updgt := 900 }, by decide⟩,
   ⟨fLq (fIn fEn) (fEv false), fMn (fLq (fIn fEn) (fEv false)) tT, tT, [], fEv false, 8 * fB, fEn, by decide⟩,
   ⟨fLq (fIn { fEn with dest := 3, pin := true }) (fEv false), fMn (fLq (fIn { fEn with dest := 3, pin := true }) (fEv false)) tT, tT,
     [], fEv false, 8 * fB, { fEn with dest := 3, pin := true }, by decide⟩,
   ⟨fLq (fIn { fEn with dest := 3 }) (fEv false), fMn (fLq (fIn { fEn with dest := 3 }) (fEv false)) tT, tT, [], fEv false, 8 * fB,
     { fEn with dest := 3 }, by decide⟩,
   ⟨{ fIn fEn with fwd := { (fIn fEn).fwd with damp := [⟨77, 0, 2, none⟩] } }, 77, ⟨77, 0, 2, none⟩, by decide⟩,
   ⟨fIn fEn, 77, by decide⟩,
   ⟨{ fIn fEn with fwd := { (fIn fEn).fwd with damp := List.replicate 1024 ⟨5, 0, 2, none⟩ } }, 77, by decide⟩,
   ⟨(fIn fEn).setFlag F.FWD_AGE_EN false, by decide⟩,
   ⟨fSw fEn, (fSw fEn).at tT, tT, fB, [], true, by decide⟩,
   ⟨fSw fEn, by decide⟩,
   ⟨fSw fSt, 8 * fB, fSt, by decide⟩,
   ⟨fSw fEn, 8 * fB, fEn, by decide⟩,
   ⟨fSw { fEn with pend := true }, 8 * fB, { fEn with pend := true }, by decide⟩,
   ⟨fSw { fEn with hit := true }, 8 * fB, { fEn with hit := true }, by decide⟩,
   ⟨fOn.setFlag F.FWD_LXCFG_RXEN false, by decide⟩,
   ⟨fRx (fBoot fOn), by decide⟩,
   ⟨fRx fOn, ⟨fMsg 3 3, []⟩, by decide⟩,
   ⟨fRx fOn, ⟨fMsg 0 3, []⟩, 77, 500, 0, 3, 6, by decide⟩,
   ⟨fRx (fIn { fEn with etype := 1, dest := 3 }), tT, ⟨fMsg 2 3, []⟩, 77, 500, 3, 6, ((State.readHot
     { ((fRx (fIn { fEn with etype := 1, dest := 3 })).at tT).bump Ctr.FWD_LXRX with fwd := { (fRx (fIn { fEn with etype := 1, dest := 3 })).fwd with lxLast := (fRx (fIn { fEn with etype := 1, dest := 3 })).fwd.lxLast.put 3 6 } }
     [] 77).2.readBuckets [] false 77 128), by decide⟩,
   ⟨fOn, tT, by decide⟩,
   ⟨{ fIn { fEn with pin := true } with fwd := { (fIn { fEn with pin := true }).fwd with damp := [fDm] } }, tT, fDm, 100, 8 * fB,
     { fEn with pin := true }, by decide⟩⟩

/-! ### Witnesses: KVT and CRY -/

def kSl (u : Nat) : KeySlot := ⟨77, u, 1, 0, 0, true, true, 4096, 0, 0⟩
def kS (st : Nat) : State := { tOn.setFld F.KVT_STATUS_STATE st with kvt := { tOn.kvt with slots := [(7, kSl 5)] } }
def kD (st : Nat) : State := (kS st).setFlag F.CRY_STATUS_DRBGOK true
def kNoRoom : State := { kD 3 with kvt := { (kD 3).kvt with flash := 0 } }
def kUm (s : State) : List Octet := [0x50, 0x4B, 0x55, 0x4D] ++ leOctets 2 1 ++ leOctets 2 1 ++ s.deviceId ++ List.replicate 336 0
def kA5 : Word := F.KVT_ARG_USE.ins 0 5
def kGen : KeySlot := ⟨(kD 3).fresh % 2 ^ 128, 5, 0, 0, 0, true, true, 0, 0, (kD 3).gtIfValid⟩
def kPr : Req := { init := .prc, prcSecure := true }
def kC (op slot tag : Nat) (arg : Word) (priv : Bool) : KvtCmd := ⟨op, slot, tag, arg, (if priv then kPr else tSup), priv⟩
def kW (s : State) (op slot tag : Nat) : State := s.took tSup Reg.KVT_CMD (kvtWord op slot tag)
def kPk : Pkt := { cells := [3], data := [0x41, 0x42], arr := 0, src := 6, holder := .init .prc, queue := none, pushed := 0, info := {} }
def kPp : Pkt := { cells := [3], data := [0x41, 0x42], arr := 0, src := 6, holder := .init .pcie, queue := none, pushed := 0, info := {} }
def kP (st : Nat) (p : Pkt) : State := { kS st with qmg := { tOn.qmg with pkts := [(3, p)] } }
def kNs : Req := { init := .pcie, prcSecure := false }
def kX : State := (((kP 3 kPp).setFlag F.CHIP_WMAP1_LOCKED true).setReg Reg.CHIP_WMAP1 0x80000040).setReg Reg.KVT_ARG 3
def kJ (j : List Journal) (s : State) : State := { s with kvt := { s.kvt with journal := j } }
def kB (n : Nat) (b : Bool) : State := { kS 3 with kvt := { (kS 3).kvt with burns := n, burnStarted := b, fuses := 4031 } }
def kCa (l : List Nat) : State := { kS 3 with kvt := { (kS 3).kvt with cache := l } }
def kNc (s : State) : State := s.setFlag F.KVT_STATUS_CACHEONLY false
def kAp : State := (kS 3).setFlag F.KVT_CFG_APPROVED true
def tOff : State := { tOn with pwr := { tOn.pwr with doms := [{ mode := .on }, { mode := .on }] } }
def kLd : State :=
  { ((kS 2).setFlag F.CHIP_WMAP1_LOCKED true) with upd := { tOn.upd with run := some ⟨0, 1, 1, 1, 1⟩ }, kvt := { (kS 2).kvt with fuses := 3, newGen := none } }
def kSe (e : Nat) : Sealed := ⟨9, 2, e, 5⟩
def kKs : KeyStore := ⟨false, [], [], [], 0, 0⟩

theorem test_met_KvtCommands :
    (∃ (s : State) (v : State) (w : State) (rq : Req) (priv : Bool) (slot : Nat) (tag : Nat) (arg : Word) (c : KvtCmd), s.kvtTook rq priv
      4 slot tag arg c v ∧ (v.kvtState = 3 ∨ v.kvtState = 4) ∧ v.on F.CRY_STATUS_DRBGOK = true ∧ (F.KVT_ARG_KIND.ext c.arg ≠ 0 ∨ (v.slot
      (slot % 2 ^ 20)).active = true) ∧ w = v.drbgDraw) ∧
    (∃ (s : State) (v : State) (rq : Req) (priv : Bool) (slot : Nat) (tag : Nat) (c : KvtCmd), s.kvtTook rq priv 5 slot tag 0 c v ∧
      (v.kvtState = 3 ∨ v.kvtState = 4)) ∧
    (∃ (s : State) (v : State) (rq : Req) (priv : Bool) (slot : Nat) (tag : Nat) (arg : Word) (c : KvtCmd) (op : Nat) (i : Instr), (op,
      i) ∈ [(2, Instr.kvtGenerate rq priv slot tag arg), (3, .kvtErase rq priv slot tag), (4, .kvtAttest rq priv slot tag arg), (5,
      .kvtInfo rq priv slot tag)] ∧ (s.kvtTook rq priv op slot tag (if op = 2 ∨ op = 4 then arg else 0) c v) ∧ ((op = 2 ∨ op = 3 →
      v.kvtState ≠ 3 ∨ op = 2 ∧ v.on F.CRY_STATUS_DRBGOK = false)) ∧ ((op = 4 ∨ op = 5 → v.kvtState ≠ 3 ∧ v.kvtState ≠ 4 ∨ op = 4 ∧ v.on
      F.CRY_STATUS_DRBGOK = false))) ∧
    (∃ (s : State) (v : State) (rq : Req) (priv : Bool) (slot : Nat) (tag : Nat) (arg : Word) (c : KvtCmd) (op : Nat) (i : Instr), (op,
      i) ∈ [(2, Instr.kvtGenerate rq priv slot tag arg), (3, .kvtErase rq priv slot tag), (4, .kvtAttest rq priv slot tag arg)] ∧
      s.kvtTook rq priv op slot tag (if op = 3 then 0 else arg) c v ∧ (v.kvtState = 3 ∨ op = 4 ∧ v.kvtState = 4) ∧ op ≠ 3 ∧ v.on
      F.CRY_STATUS_DRBGOK = true ∧ ((op = 2 → F.KVT_ARG_USE.ext c.arg ≠ 5 ∨ (v.slot (slot % 2 ^ 20)).active = true)) ∧ ((op = 4 →
      F.KVT_ARG_KIND.ext c.arg = 0 ∧ (v.slot (slot % 2 ^ 20)).active = false))) ∧
    (∃ (s : State) (v : State) (rq : Req) (priv : Bool) (slot : Nat) (tag : Nat) (c : KvtCmd), s.kvtTook rq priv 3 slot tag 0 c v ∧
      v.kvtState = 3 ∧ (v.slot (slot % 2 ^ 20)).active = false) ∧
    (∃ (s : State) (v : State) (rq : Req) (priv : Bool) (slot : Nat) (tag : Nat) (arg : Word) (c : KvtCmd) (n : KeySlot), s.kvtTook rq
      priv 2 slot tag arg c v ∧ F.KVT_ARG_USE.ext c.arg = 5 ∧ (v.slot (slot % 2 ^ 20)).active = false ∧ v.kvtState = 3 ∧ v.on
      F.CRY_STATUS_DRBGOK = true ∧ n = ⟨v.fresh % 2 ^ (if F.KVT_ARG_ALG.ext c.arg = 1 then 256 else 128), 5, F.KVT_ARG_ALG.ext c.arg, 0,
      0, true, true, (v.slot (slot % 2 ^ 20)).ctrres, 0, v.gtIfValid⟩) ∧
    (∃ (s : State) (v : State) (rq : Req) (priv : Bool) (slot : Nat) (tag : Nat) (c : KvtCmd), s.kvtTook rq priv 3 slot tag 0 c v ∧
      (v.slot (slot % 2 ^ 20)).active = true ∧ v.kvtState = 3) ∧
    (∃ (s : State) (v : State) (rq : Req) (priv : Bool) (tag : Nat) (c : KvtCmd), s.kvtTook rq priv 6 0 tag 0 c v ∧ v.kvtState ≠ 5) ∧
    (∃ (s : State) (v : State) (rq : Req) (priv : Bool) (tag : Nat) (c : KvtCmd), s.kvtTook rq priv 6 0 tag 0 c v ∧ v.kvtState = 5) ∧
    (∃ (s : State) (v : State) (rq : Req) (priv : Bool) (tag : Nat) (arg : Word) (c : KvtCmd), s.kvtTook rq priv 1 0 tag arg c v ∧
      v.heldPkt rq (c.arg.toNat % 2 ^ 26) = none) ∧
    (∃ (s : State) (v : State) (rq : Req) (priv : Bool) (tag : Nat) (arg : Word) (c : KvtCmd) (p : Pkt), s.kvtTook rq priv 1 0 tag arg c
      v ∧ v.heldPkt rq (c.arg.toNat % 2 ^ 26) = some p ∧ v.regionFaults rq 4 = true) ∧
    (∃ (s : State) (v : State) (rq : Req) (priv : Bool) (tag : Nat) (arg : Word) (c : KvtCmd) (p : Pkt), s.kvtTook rq priv 1 0 tag arg c
      v ∧ v.heldPkt rq (c.arg.toNat % 2 ^ 26) = some p ∧ v.regionFaults rq 4 = false) ∧
    (∃ (s : State), s.kvtState ≠ 3 ∧ s.kvtState ≠ 4) ∧
    (∃ (s : State) (d : List Octet), (s.kvtState = 3 ∨ s.kvtState = 4) ∧ ¬ kumForm d) ∧
    (∃ (s : State) (d : List Octet), (s.kvtState = 3 ∨ s.kvtState = 4) ∧ kumForm d ∧ slice d 8 16 ≠ s.deviceId) ∧
    (∃ (s : State) (d : List Octet), (s.kvtState = 3 ∨ s.kvtState = 4) ∧ kumForm d ∧ slice d 8 16 = s.deviceId) ∧
    (∃ (s : State) (rq : Req) (slot : Nat) (tag : Nat) (op : Nat) (sl : Nat) (arg : Word) (a : Word) (i : Instr), s.on F.KVT_CMDSTAT_BUSY
      = true ∧ rq.prcSecure = true ∧ (op, sl, a, i) ∈ [(1, 0, arg, Instr.kvtKum rq true tag arg), (2, slot, arg, .kvtGenerate rq true
      slot tag arg), (3, slot, 0, .kvtErase rq true slot tag), (4, slot, arg, .kvtAttest rq true slot tag arg), (5, slot, 0, .kvtInfo rq
      true slot tag), (6, 0, 0, .kvtZeroise rq true tag)]) ∧
    (∃ (rq : Req) (slot : Nat) (tag : Nat) (op : Nat) (sl : Nat) (arg : Word) (i : Instr), (op, sl, i) ∈ [(1, 0, Instr.kvtKum rq false
      tag arg), (2, slot, .kvtGenerate rq false slot tag arg), (3, slot, .kvtErase rq false slot tag), (4, slot, .kvtAttest rq false slot
      tag arg), (5, slot, .kvtInfo rq false slot tag), (6, 0, .kvtZeroise rq false tag)]) ∧
    (∃ (rq : Req) (slot : Nat) (tag : Nat) (arg : Word) (i : Instr), rq.prcSecure = false ∧ i ∈ [Instr.kvtKum rq true tag arg,
      .kvtGenerate rq true slot tag arg, .kvtErase rq true slot tag, .kvtAttest rq true slot tag arg, .kvtInfo rq true slot tag,
      .kvtZeroise rq true tag]) :=
  ⟨⟨kD 3, kD 3, (kD 3).drbgDraw, kPr, true, 7, 300, 0, kC 4 7 44 0 true, by decide⟩,
   ⟨kS 3, kS 3, kPr, true, 7, 3, kC 5 7 3 0 true, by decide⟩,
   ⟨kS 2, kS 2, kPr, true, 7, 3, 0, kC 3 7 3 0 true, 3, .kvtErase kPr true 7 3, by decide⟩,
   ⟨kD 3, kD 3, kPr, true, 9, 3, 0, kC 4 9 3 0 true, 4, .kvtAttest kPr true 9 3 0, by decide⟩,
   ⟨kS 3, kS 3, kPr, true, 9, 3, kC 3 9 3 0 true, by decide⟩,
   ⟨kD 3, kD 3, kPr, true, 9, 3, kA5, kC 2 9 3 kA5 true, kGen, by decide, by decide, by decide, by decide, by decide, rfl⟩,
   ⟨kS 3, kS 3, kPr, true, 7, 3, kC 3 7 3 0 true, by decide⟩,
   ⟨kS 3, kS 3, kPr, true, 3, kC 6 0 3 0 true, by decide⟩,
   ⟨kS 5, kS 5, kPr, true, 3, kC 6 0 3 0 true, by decide⟩,
   ⟨kP 3 kPp, kP 3 kPp, kPr, true, 3, 3, kC 1 0 3 3 true, by decide⟩,
   ⟨kX, kX.took kNs Reg.KVT_CMD (kvtWord 1 0 3), kNs, false, 3, 3, ⟨1, 0, 3, 3, kNs, false⟩, kPp, by decide⟩,
   ⟨kP 3 kPk, kP 3 kPk, kPr, true, 3, 3, kC 1 0 3 3 true, kPk, by decide⟩,
   ⟨kS 1, by decide⟩,
   ⟨kS 3, [0x50], by decide⟩,
   ⟨(kS 3).setReg (Reg.KVT_DEVIDk 0) 5, kUm (kS 3), by decide⟩,
   ⟨kS 3, kUm (kS 3), by decide⟩,
   ⟨(kS 3).setFlag F.KVT_CMDSTAT_BUSY true, kPr, 7, 300, 2, 7, 5, 5, .kvtGenerate kPr true 7 300 5, by decide⟩,
   ⟨tSup, 7, 300, 3, 7, 5, .kvtErase tSup false 7 300, by decide⟩,
   ⟨{ init := .pcie, prcSecure := false }, 7, 3, 0, .kvtErase { init := .pcie, prcSecure := false } true 7 3, by decide⟩⟩

theorem test_met_KeysAndStore :
    (∃ (s : State), s.kvt.journal = []) ∧
    (∃ (s : State) (j : Journal) (l : List Journal), s.kvt.journal = j :: l ∧ j.started = false) ∧
    (∃ (s : State) (j : Journal) (l : List Journal), s.kvt.journal = j :: l ∧ j.started = true) ∧
    (∃ (s : State) (ok : Bool) (j : Journal) (c : KvtCmd), ok = false ∧ s.hif.xcmd = none ∧ s.kvt.journal = [j] ∧ j.started = true ∧
      j.kind = .slot ∧ j.cmd = some c ∧ s.kvt.waiting = [] ∧ s.upd.waits = none) ∧
    (∃ (s : State) (j : Journal) (l : List Journal), s.kvt.journal = j :: l) ∧
    (∃ (s : State) (u : State) (c : KvtCmd) (slot : Nat) (k : KeySlot) (n : KeySlot), s.kvt.newGen = none ∧ s.kvt.burns = 0 ∧
      s.kvt.waiting = [] ∧ s.kvtState = 3 ∧ n = { k with ctrres := (s.slot slot).ctrres } ∧ u = s.journalApply ⟨.slot, [(slot, k)], some
      c, true⟩) ∧
    (∃ (s : State) (u : State) (n : Nat) (cp : Bool) (slot : Nat) (k : KeySlot), s.kvt.newGen = none ∧ s.kvt.burns = 0 ∧ (s.kvtState = 3
      ∨ s.kvtState = 4) ∧ u = s.journalApply ⟨.kum n cp, [(slot, k)], none, true⟩) ∧
    (∃ (s : State), s.kvt.burns = 0) ∧
    (∃ (s : State), s.kvt.burns ≠ 0 ∧ s.kvt.burnStarted = false) ∧
    (∃ (s : State), s.kvt.burns ≠ 0 ∧ s.kvt.burnStarted = false) ∧
    (∃ (s : State), s.kvt.burns = 1 ∧ s.kvt.burnStarted = true ∧ s.kvt.burnZero = false ∧ s.kvt.fuses < 4096) ∧
    (∃ (s : State), s.kvt.burns ≠ 0 ∧ s.kvt.burnStarted = true ∧ (s.kvt.burns ≠ 1 ∨ s.kvt.burnZero = true ∨ 4096 ≤ s.kvt.fuses)) ∧
    (∃ (s : State) (n : Nat), ((s.slot n).active = false ∨ (s.kvt.journal.any (fun (j : Journal) => j.asksBlock n)) = true)) ∧
    (∃ (s : State) (n : Nat), (s.slot n).active = true ∧ (s.kvt.journal.any (fun (j : Journal) => j.openBatch)) = false ∧
      (s.kvt.journal.any (fun (j : Journal) => j.asksBlock n)) = false) ∧
    (∃ (s : State) (n : Nat) (l : List Nat), (s.slot n).active = true ∧ s.kvt.journal = [⟨.blocks l, [], none, false⟩] ∧ n ∉ l ∧ l.length
      < 512) ∧
    (∃ (s : State) (u : KeyUser) (n : Nat), s.domReady 16 = true ∧ s.kvtState = 3 ∧ (s.slot n).active = true ∧ u.admits (s.slot n) = true
      ∧ s.kvt.cache.contains n = true) ∧
    (∃ (s : State) (n : Nat), s.domReady 16 = true ∧ s.kvtState = 3 ∧ (s.slot n).active = true ∧ s.kvt.cache.contains n = false ∧ s.on
      F.KVT_STATUS_CACHEONLY = false ∧ s.kvt.wrapped.find n = none) ∧
    (∃ (s : State) (n : Nat) (l : List Nat), l = s.kvt.cache.filter (fun x => x != n)) ∧
    (∃ (s : State) (n : Nat), s.domReady 16 = true ∧ s.kvtState = 3 ∧ s.kvt.cache.contains n = false ∧ (s.on F.KVT_STATUS_CACHEONLY =
      true ∨ s.kvt.wrapped.find n = none ∧ (s.slot n).active = false)) ∧
    (∃ (s : State) (u : KeyUser) (n : Nat), (s.domReady 16 = false ∨ s.kvtState ≠ 3 ∨ s.kvt.cache.contains n = true ∧ ((s.slot n).active
      = false ∨ u.admits (s.slot n) = false))) ∧
    (∃ (s : State) (n : Nat), s.domReady 16 = true ∧ s.kvtState = 3 ∧ s.kvt.cache.contains n = false ∧ s.on F.KVT_STATUS_CACHEONLY =
      false ∧ s.on F.KVT_SECEVT_VALID = false) ∧
    (∃ (s : State), s.kvtState = 0 ∧ s.domReady 16 = true ∧ s.kvt.scan = false) ∧
    (∃ (s : State), s.kvt.antifuse.isSome = true) ∧
    (∃ (s : State) (share : Nat) (root : Nat), s.kvt.antifuse = none ∧ share = s.fresh % 2 ^ 256 ∧ root = s.nextFree.fresh % 2 ^ 256) ∧
    (∃ (s : State) (kat : Bool) (itk : Bool) (idk : Bool), (kat = false ∨ itk = false ∨ idk = false) ∧ s.kvtState = 0 ∧ s.domReady 16 =
      true ∧ s.kvt.scan = false ∧ s.on F.KVT_SECEVT_VALID = false) ∧
    (∃ (s : State), (s.kvtState ≠ 0 ∨ s.domReady 16 = false ∨ s.kvt.scan = true)) ∧
    (∃ (s : State), s.kvtState ≠ 2) ∧
    (∃ (s : State) (k : KeyStore), s.kvtState = 2 ∧ k.erased = false ∧ s.on F.KVT_SECEVT_VALID = false) ∧
    (∃ (s : State) (k : KeyStore), s.kvtState = 2 ∧ k.erased = true) ∧
    (∃ (s : State) (u : State) (k : KeyStore) (r : Sealed), s.kvtState = 2 ∧ s.kvt.newGen = none ∧ s.kvt.fuses ≤ r.epoch ∧ r.epoch ≤ 4096
      ∧ u = s.storeLoad k r) ∧
    (∃ (s : State), s.on F.MEM_STATUS_TRAINED = true ∧ 3 ≤ s.kvtState) ∧
    (∃ (s : State), (s.on F.MEM_STATUS_TRAINED = false ∨ s.kvtState < 3)) ∧
    (∃ (s : State), s.kvtState = 5) ∧
    (∃ (s : State), s.kvtState ≠ 5 ∧ s.on F.KVT_SECEVT_VALID = false ∧ s.sup.fs ≠ .restart ∧ s.sup.halted = false) ∧
    (∃ (s : State) (u : State), u = s.drbgDraw) ∧
    (∃ (s : State) (v : State) (rq : Req), s.barred rq Reg.CRY_RESEED (some 1) = none ∧ v = s.took rq Reg.CRY_RESEED 1) ∧
    (∃ (s : State) (rq : Req) (c : AccCause), s.barred rq Reg.CRY_RESEED (some 1) = some c) ∧
    (∃ (s : State) (rq : Req), s.barred rq Reg.CRY_RNG none = none ∧ s.on F.CRY_STATUS_DRBGOK = true) ∧
    (∃ (s : State) (rq : Req), s.barred rq Reg.CRY_RNG none = none ∧ s.on F.CRY_STATUS_DRBGOK = false) ∧
    (∃ (s : State) (rq : Req) (c : AccCause), s.barred rq Reg.CRY_RNG none = some c) ∧
    (∃ (s : State), s.on F.KVT_SECEVT_VALID = false) ∧
    (∃ (s : State), s.domReady 16 = false) ∧
    (∃ (s : State) (slot : Option Nat), s.domReady 16 = true ∧ s.on F.KVT_CFG_APPROVED = false ∧ slot = none) ∧
    (∃ (s : State) (v : State) (j : AesJob) (n : Nat), s.domReady 16 = true ∧ (s.on F.KVT_CFG_APPROVED = false ∨ j.mode ≠ .ecb) ∧ v =
      (s.keyRequest .general n).2) ∧
    (∃ (s : State) (j : AesJob) (slot : Option Nat), s.domReady 16 = true ∧ s.on F.KVT_CFG_APPROVED = true ∧ (slot = none ∨ j.mode =
      .ecb)) ∧
    (∃ (s : State) (j : PkJob) (msg : List Octet) (d : Nat) (pub : List Octet), s.domReady 16 = true ∧ s.on F.KVT_CFG_APPROVED = true ∧ j
      ∈ [PkJob.sign d msg, .ecdh d pub, .pair d pub]) ∧
    (∃ (s : State), s.domReady 16 = true) ∧
    (∃ (s : State), s.domReady 16 = true ∧ s.on F.KVT_CFG_APPROVED = false) ∧
    (∃ (s : State) (msg : List Octet) (j : HashJob) (r : List Octet), s.domReady 16 = true ∧ (j, r) ∈ [(HashJob.sha256 msg, sha256 msg),
      (.sha384 msg, sha384 msg)]) ∧
    (∃ (s : State) (key : List Octet) (msg : List Octet) (j : HashJob) (r : List Octet), s.domReady 16 = true ∧ (j, r) ∈
      [(HashJob.hmac256 key msg, hmac256 key msg), (.hmac384 key msg, hmac384 key msg)]) ∧
    (∃ (s : State), s.domReady 16 = true) ∧
    (∃ (s : State) (j : HashJob) (msg : List Octet), s.domReady 16 = true ∧ s.sysOn ∧ s.sup.fs ≠ .restart ∧ s.sup.halted = false ∧ j ∈
      [HashJob.sha256 msg, .sha384 msg]) :=
  ⟨⟨kS 3, by decide⟩,
   ⟨kJ [⟨.slot, [], none, false⟩] (kS 3), ⟨.slot, [], none, false⟩, [], by decide⟩,
   ⟨kJ [⟨.slot, [], none, true⟩] (kS 3), ⟨.slot, [], none, true⟩, [], by decide⟩,
   ⟨kJ [⟨.slot, [], some (kC 2 8 3 0 true), true⟩] (kS 3), false, ⟨.slot, [], some (kC 2 8 3 0 true), true⟩, kC 2 8 3 0 true, by decide⟩,
   ⟨kJ [⟨.slot, [], none, false⟩] (kS 3), ⟨.slot, [], none, false⟩, [], by decide⟩,
   ⟨kS 3, (kS 3).journalApply ⟨.slot, [(7, emptySlot 5)], some (kC 3 7 3 0 true), true⟩, kC 3 7 3 0 true, 7, emptySlot 5,
     { emptySlot 5 with ctrres := ((kS 3).slot 7).ctrres }, by decide, by decide, by decide, by decide, rfl, rfl⟩,
   ⟨kS 3, (kS 3).journalApply ⟨.kum 77 true, [(8, kSl 5)], none, true⟩, 77, true, 8, kSl 5, by decide, by decide, by decide, rfl⟩,
   ⟨kS 3, by decide⟩,
   ⟨kB 1 false, by decide⟩,
   ⟨kB 1 false, by decide⟩,
   ⟨kB 1 true, by decide⟩,
   ⟨kB 2 true, by decide⟩,
   ⟨kS 3, 9, by decide⟩,
   ⟨kS 3, 7, by decide⟩,
   ⟨kJ [⟨.blocks [5], [], none, false⟩] (kS 3), 7, [5], by decide⟩,
   ⟨kCa [7, 8], .general, 7, by decide⟩,
   ⟨kNc (kCa [8]), 7, by decide⟩,
   ⟨kCa [7, 8], 7, [8], by decide⟩,
   ⟨(kS 3).setFlag F.KVT_STATUS_CACHEONLY true, 7, by decide⟩,
   ⟨kS 2, .general, 7, by decide⟩,
   ⟨kNc (kS 3), 7, by decide⟩,
   ⟨kS 0, by decide⟩,
   ⟨{ kS 1 with kvt := { (kS 1).kvt with antifuse := some (3, 5) } }, by decide⟩,
   ⟨{ kS 1 with kvt := { (kS 1).kvt with antifuse := none } }, (kS 1).fresh % 2 ^ 256, (kS 1).nextFree.fresh % 2 ^ 256, by decide, rfl,
     rfl⟩,
   ⟨kS 0, true, true, false, by decide⟩,
   ⟨kS 3, by decide⟩,
   ⟨kS 3, by decide⟩,
   ⟨kLd, kKs, by decide⟩,
   ⟨kLd, { kKs with erased := true }, by decide⟩,
   ⟨kLd, kLd.storeLoad kKs (kSe 3), kKs, kSe 3, by decide⟩,
   ⟨(kS 3).setFlag F.MEM_STATUS_TRAINED true, by decide⟩,
   ⟨kS 3, by decide⟩,
   ⟨kS 5, by decide⟩,
   ⟨kS 3, by decide⟩,
   ⟨kD 3, (kD 3).drbgDraw, by decide⟩,
   ⟨kD 3, (kD 3).took tSup Reg.CRY_RESEED 1, tSup, by decide⟩,
   ⟨tOff, tSup, .nodomain, by decide⟩,
   ⟨kD 3, tSup, by decide⟩,
   ⟨kS 3, tSup, by decide⟩,
   ⟨tOff, tSup, .nodomain, by decide⟩,
   ⟨kS 3, by decide⟩,
   ⟨State.reset, by decide⟩,
   ⟨kS 3, none, by decide⟩,
   ⟨kS 3, (State.keyRequest (kS 3) .general 7).2, ⟨.ctr, true, [], List.replicate 16 0, [], [1]⟩, 7, by decide⟩,
   ⟨kAp, ⟨.ecb, true, List.replicate 16 0, [], [], List.replicate 16 0⟩, none, by decide⟩,
   ⟨kAp, .sign 5 [1], [1], 5, [], by decide⟩,
   ⟨kS 3, by decide⟩,
   ⟨kS 3, by decide⟩,
   ⟨kS 3, [1], .sha256 [1], sha256 [1], by decide⟩,
   ⟨kS 3, [1], [2], .hmac384 [1] [2], hmac384 [1] [2], by decide⟩,
   ⟨kS 3, by decide⟩,
   ⟨kS 3, .sha384 [1], [1], by decide⟩⟩

/-! ### Witnesses: CSC -/

def cSt (x : Nat) : State := tOn.setFld (F.CSC_PnSTAT_STATE 1) x
def cUp : State := (cSt 2).setFlag (F.CSC_PnCFG_SEC 1) false
def cP (p : CscPort) (s : State) : State := s.setCport 1 p
def cTi : CscBody := .time 0 0 true
def cFr (b : CscBody) (k : Nat) : CscFrame := { lseq := k, dst := 31, src := 2, body := b }
def cHl (id : Nat) : CscHello := ⟨id, 5, 3, 2, 9, 0, 0, 0, [], false, 40⟩
def cHd (d typ cls oseq : Nat) (body : List Octet) : CscHdr :=
  { dst := d, src := 4, lseq := 0, ackseq := 0, rerouted := false, bad := false
    trailer := cscTrailer false [] (cscNonce 0) (cscHeader typ false cls d 4 body.length 0 0 oseq) body }
def cH (d : Nat) (b : CscBody) : CscHdr := cHd d b.typ 0 0 (Config.cscOctets b)
def cHx (bad : Bool) : CscHdr := { dst := 31, src := 4, lseq := 0, ackseq := 0, rerouted := false, bad := bad, trailer := [] }
def cHq : CscHdr :=
  { dst := 31, src := 4, lseq := 9, ackseq := 0, rerouted := false, bad := false
    trailer := cscTrailer false [] (cscNonce 0) (cscHeader 0 false 2 31 4 1 9 0 5) [7] }
def cV (s : State) (h : CscHdr) (typ : Nat) : State :=
  (((s.at tT).cscCame 1 h).setCport 1 { ((s.at tT).cscCame 1 h).cport 1 with
      rxSeq := ((((s.at tT).cscCame 1 h).cport 1).rxSeq + 1) % 65536,
      ctlCame := if typ = 0 then (((s.at tT).cscCame 1 h).cport 1).ctlCame
        else ((((s.at tT).cscCame 1 h).cport 1).ctlCame + 1) % 2 ^ 32 }).bump (Ctr.CSC_PnRXFRM 1)
def cVm (s : State) (d : Nat) (b : CscBody) : State := cV s (cH d b) b.typ
def cLs : CscLsa := ⟨7, 5, [(0, 1, 2)]⟩
def cSs : CscStat := ⟨1, 1, 3, 5, 2, false, some 7, 0, 1, true⟩
def cMode (s : State) : State := (s.setFlag F.CSC_STATUS_MODE true).setFld F.CSC_STATUS_ANCHOR 4
def cRt (s : State) (d n : Nat) : State := (s.setFld (F.CSC_RTa_PRI d) n).setFlag (F.CSC_RTa_PRIV d) true
def cMr : State := ((cMode cUp).setFld F.CSC_STATUS_ACTROLE 2).setFld F.CHIP_START_LEVEL 2
def cLk (s : State) : State := s.setFlag F.CHIP_WMAP1_LOCKED true
def cDv (s : State) : State := s.setReg (Reg.KVT_DEVIDk 0) 9
def cTm (l : List (Nat × Nat)) (s : State) : State := { s with csc := { s.csc with temps := l } }
def cAd (a : Nat) (s : State) : State := s.setFld F.CSC_STATUS_ADDR a
def cPe (s : State) : State := { s with csc := { s.csc with peers := [(4, (100, cSs))] } }
def cNq : State := { tOn.setFld F.CSC_STATUS_ACTROLE 1 with csc := { tOn.csc with noQuorum := some 10 } }
def cHe (s : State) : State := { s with csc := { s.csc with held := [(3, 50)] } }
def cPk : Pkt := { cells := [3], data := [1], arr := 0, src := 5, holder := .none, queue := none, pushed := 0, info := { chip := 4 } }
def cC (s : State) (op addr tag : Nat) : State := s.took tSup Reg.CSC_CMD (cscWord op addr tag)
def cHk : State :=
  cLk (((((tOn.setFld F.CHIP_START_LEVEL 2).setFld F.CSC_CFG_ROLE 1).setFld F.CSC_STATUS_ACTROLE 2).setFlag F.CSC_STATUS_MIRROR true).setReg Reg.CSC_REACH 1)
def cEc (s : State) : State := { s with csc := { s.csc with echo := some (4, 9) } }
def cSeen (l : List Nat) : State := { tOn with csc := { tOn.csc with seen := [(4, l)] } }
def cRg (s : State) : State := s.setFlag F.CRY_STATUS_DRBGOK true
def cKs : KeySlot := ⟨77, 4, 2, 0, 0, true, true, 0, 0, 0⟩
def cKy (l : List Nat) : State :=
  let s := (((cP { lock := true, rand := some 3 } (cSt 1)).setFlag (F.CSC_PnCFG_SEC 1) true).setFld (F.CSC_PnCFG_KEYSLOT 1) 7).setFld F.KVT_STATUS_STATE 3
  { s with kvt := { s.kvt with slots := [(7, cKs)], cache := l } }
def cKv (s : State) : State := (s.at tT).setCport 1 { s.cport 1 with helloFt := (s.at tT).gtb.ft }
def cCell : Cell := ⟨0, 0, 0, true, false, 0, 0, 9, false⟩
def cPc : PlanCell := { cell := cCell, chip := 2 ^ 23 + 3 }
def cPl : Placement := ⟨7, 9, [cCell], 3, 1, 0, 50⟩
def cMa : State :=
  let s := ((cMr.setFld F.CSC_CFG_ROLE 1).setFlag F.SLV_STATUS_MASTER true).setFld F.CSC_STATUS_ACTROLE 1
  { s with csc := { s.csc with peers := [(6, (100, { cSs with act := 2 }))] } }
def cCm : SlvCmd := { op := 2, node := 7, tag := 9, data := [], rq := tSup, sec := true, own := false }
def cAq : State := { cMr with slv := { cMr.slv with asked := some (cCm, 9) } }
def cRu : SolveRun := { cmd := { cCm with op := 1 }, startFt := 9, inp := cMr.inputs }
def cRn : State := { cMr with slv := { cMr.slv with solve := some cRu } }
def cAk : State := { cUp.setReg Reg.CSC_REACH 1 with csc := { cUp.csc with asks := [5] } }
def cStW (s : State) : State :=
  let v := cVm s 31 (.status cSs)
  { v with csc := { v.csc with peers := v.csc.peers.put 4 (v.gtb.ft, cSs) } }
def cStU (s : State) : State :=
  let w := cStW s
  if w.fld F.CSC_STATUS_ACTROLE = 1 then w else w.setFld F.CSC_EPOCH_EPOCH (max cSs.epoch (w.fld F.CSC_EPOCH_EPOCH))
def cMn : State := { cMa with csc := { cMa.csc with peers := [] } }
def cMl : State := cMa
def cCn : ChipNode := ⟨7, none, true⟩
def cNa : State := { cUp.setReg Reg.CSC_REACH 1 with csc := { cUp.csc with lsas := [] } }
def cGo (n : Nat) (s : State) : State := { cTm [(17, 5)] s with gtb := { s.gtb with ft := 70000 }, csc := { (cTm [(17, 5)] s).csc with gone := [(17, n)] } }
def cLi : State :=
  let s := ((tOn.setFld F.CSC_STATUS_ACTROLE 2).setFlag F.CHIP_WMAP1_LOCKED true).setReg Reg.CSC_REACH 1
  { s with csc := { s.csc with listening := false } }
def cOff : State := { tOn with pwr := { tOn.pwr with doms := [{ mode := .on }, { mode := .on }] } }
def cDe (a : Bool) : DemRec := { node := 7, auto := a, prio := 3, pin := false, home := 2, uph := 5, dnh := 6, upoct := 20, dnoct := 30, uplat := 0, dnlat := 0 }
def cDm (a : Bool) (s : State) : State := { s with slv := { s.slv with dem := [(7, cDe a)] } }
def cHm : State :=
  let s := cDm true (tOn.setFld F.CSC_CFG_ROLE 3)
  { s with csc := { s.csc with homes := [(7, 4)] } }
def cAct (s : State) (f : Field) (n : Nat) : State := { s with active := s.active.putD (resetOf f.reg) f.reg (f.ins (s.act f.reg) n) }
def cPn : LinkPlan := { sw := 3, par := 1, dep := 0, guard := 0, supto := 80000, dem := none }
def cJn : State :=
  let s := cMa
  let s := cAct (cAct (cAct (cAct (cAct (s.setFld (F.MSQ_HOPcLEN_LEN 0) 1) (F.MSQ_TPLt_B_EN 0) 1) (F.MSQ_TPLt_A_CHCLASS 0) 0)
    (F.MSQ_TPLt_A_MAXDUR 0) 8191) (F.MSQ_TPLt_B_LH 0) 3) (F.SLV_POL2_MAXRXSLOT) 9
  let s := cAct (cAct s F.SLV_POL0_SNRREQ 0) F.SLV_POL0_SNRMARG 0
  let s := (((s.setFlag (F.RFPn_SLk_EN 0 0) true).setFlag (F.RFPn_SLk_EN 1 0) true).setFlag (F.RFPn_SLk_EN 2 0) true).setFlag (F.RFPn_SLk_EN 3 0) true
  { s with
    msq := { s.msq with sfs := [100, 0, 0, 0, 0, 0, 0, 0] }
    slv := { s.slv with links := [(linkKey 7 (2 ^ 23 + 4) 0, ⟨7, 2 ^ 23 + 4, 1, 0, 3, true, 40, 0, 0, 65535, 0, 0, 0, []⟩)] } }
/-- A control frame on port 1 of a link without a session is whole. -/
theorem cHearsAt (s : State) (d : Nat) (b : CscBody)
    (hc : s.domReady 19 = true ∧ s.portUp 1 = true ∧ s.on (F.CSC_PnCFG_SEC 1) = false ∧ (s.cport 1).keys.2 = [] ∧
      (s.cport 1).rxCount = 0) : s.cscHears 1 (cH d b) b.typ 0 0 (Config.cscOctets b) := by
  obtain ⟨h1, h2, h3, h4, h5⟩ := hc
  refine ⟨h1, h2, rfl, ?_⟩
  unfold State.frameOk
  simp [cH, cHd, h3, h4, h5]
/-- ... and taken, where it is the next in order. -/
theorem cMineAt (s : State) (d : Nat) (b : CscBody)
    (hc : (s.at tT).domReady 19 = true ∧ (s.at tT).portUp 1 = true ∧ (s.at tT).on (F.CSC_PnCFG_SEC 1) = false ∧
      ((s.at tT).cport 1).keys.2 = [] ∧ ((s.at tT).cport 1).rxCount = 0)
    (hl : 0 = (((s.at tT).cscCame 1 (cH d b)).cport 1).rxSeq) :
    s.cscTook tT 1 (cH d b) b.typ 0 0 (Config.cscOctets b) (cVm s d b) := ⟨cHearsAt _ d b hc, hl, rfl⟩

theorem test_met_CscFrames :
    (∃ (s : State) (n : Nat), s.domReady 19 = true ∧ s.fld (F.CSC_PnSTAT_STATE n) = 1 ∧ n < 4) ∧
    (∃ (s : State) (n : Nat), (s.domReady 19 = false ∨ s.fld (F.CSC_PnSTAT_STATE n) ≠ 1 ∨ 4 ≤ n)) ∧
    (∃ (s : State) (u : State) (n : Nat) (b : List Octet), s.on (F.CSC_PnCFG_SEC n) = false ∧ u = (if s.on F.CRY_STATUS_DRBGOK then
      s.drbgDraw else s.nextFree) ∧ b = Config.cscOctets (.hello (s.fld F.CSC_CFG_CASCID) s.devNum s.fabric n (s.fresh % 2 ^ 128) 0)) ∧
    (∃ (s : State) (v : State) (n : Nat), s.on (F.CSC_PnCFG_SEC n) = true ∧ s.on F.CRY_STATUS_DRBGOK = true ∧ v = s.drbgDraw) ∧
    (∃ (s : State) (n : Nat), s.on (F.CSC_PnCFG_SEC n) = true ∧ s.on F.CRY_STATUS_DRBGOK = false) ∧
    (∃ (s : State) (n : Nat), s.domReady 19 = true ∧ n < 4 ∧ s.portUp n = false) ∧
    (∃ (s : State) (v : State) (t : Time) (n : Nat), s.domReady 19 = true ∧ n < 4 ∧ s.portUp n = true ∧ v = (s.at t).setCport n
      { s.cport n with lock := false }) ∧
    (∃ (s : State) (n : Nat), (s.domReady 19 = false ∨ 4 ≤ n)) ∧
    (∃ (s : State) (n : Nat), s.domReady 19 = true ∧ n < 4 ∧ s.csc.ports.length = 4 ∧ s.portUp n = true ∧ (s.cport n).unacked ≠ [] ∧
      (s.cport n).retx < 3) ∧
    (∃ (s : State) (n : Nat), s.domReady 19 = true ∧ s.portUp n = true ∧ (s.cport n).unacked ≠ [] ∧ 3 ≤ (s.cport n).retx) ∧
    (∃ (s : State) (n : Nat), (s.domReady 19 = false ∨ s.portUp n = false ∨ (s.cport n).unacked = [])) ∧
    (∃ (s : State) (t : Time) (n : Nat), s.fld (F.CSC_PnSTAT_STATE n) = 3 ∧ (s.cport n).helloFt + 10000 ≤ t.ft) ∧
    (∃ (s : State) (t : Time) (n : Nat), (s.fld (F.CSC_PnSTAT_STATE n) ≠ 3 ∨ t.ft < (s.cport n).helloFt + 10000)) ∧
    (∃ (s : State) (v : State) (n : Nat), n < 4 ∧ v = s.setFld (F.CSC_PnSTAT_STATE n) 1) ∧
    (∃ (s : State) (n : Nat), (s.domReady 19 = false ∨ 4 ≤ n ∨ s.fld (F.CSC_PnSTAT_STATE n) ≠ 1 ∧ s.fld (F.CSC_PnSTAT_STATE n) ≠ 3)) ∧
    (∃ (s : State) (n : Nat) (h : CscHello), s.domReady 19 = true ∧ n < 4 ∧ (s.fld (F.CSC_PnSTAT_STATE n) = 1 ∨ s.fld (F.CSC_PnSTAT_STATE
      n) = 3) ∧ h.bad = true) ∧
    (∃ (s : State) (n : Nat) (h : CscHello), s.domReady 19 = true ∧ n < 4 ∧ (s.fld (F.CSC_PnSTAT_STATE n) = 1 ∨ s.fld (F.CSC_PnSTAT_STATE
      n) = 3) ∧ h.bad = false ∧ s.on (F.CSC_PnCFG_SEC n) = false) ∧
    (∃ (s : State) (u : State) (t : Time) (n : Nat) (h : CscHello), s.domReady 19 = true ∧ n < 4 ∧ (s.fld (F.CSC_PnSTAT_STATE n) = 1 ∨
      s.fld (F.CSC_PnSTAT_STATE n) = 3) ∧ h.bad = false ∧ s.on (F.CSC_PnCFG_SEC n) = true ∧ u = ((s.at t).keyRequest (.cascade n) (s.fld
      (F.CSC_PnCFG_KEYSLOT n))).2) ∧
    (∃ (s : State) (v : State) (n : Nat), v = s.setCport n { s.cport n with helloFt := s.gtb.ft } ∧ n < 4 ∧ s.csc.ports.length = 4) ∧
    (∃ (s : State) (v : State) (ra : Nat) (rb : Nat) (hs : CscHello) (hv : CscHello), s.devNum < v.devNum ∧ hs.dev = v.devNum ∧ hs.rand =
      rb ∧ hv.dev = s.devNum ∧ hv.rand = ra) ∧
    (∃ (n : Nat), n < 4) ∧
    (∃ (s : State), s.sysOn) ∧
    (∃ (s : State) (t : Time) (n : Nat) (typ : Nat) (cls : Nat) (oseq : Nat) (h : CscHdr) (i : Instr) (body : List Octet), cscFrameOf i =
      some (t, n, h, typ, cls, oseq, body) ∧ (typ ≠ 11 ∨ s.on (F.CSC_PnCFG_LOOP n) = false) ∧ (s.domReady 19 = false ∨ s.portUp n =
      false)) ∧
    (∃ (s : State) (v : State) (t : Time) (n : Nat) (typ : Nat) (cls : Nat) (oseq : Nat) (h : CscHdr) (i : Instr) (body : List Octet),
      cscFrameOf i = some (t, n, h, typ, cls, oseq, body) ∧ (typ ≠ 11 ∨ s.on (F.CSC_PnCFG_LOOP n) = false) ∧ s.domReady 19 = true ∧
      s.portUp n = true ∧ h.bad = true ∧ v = (s.at t).setCport n { s.cport n with rxCount := (s.cport n).rxCount + 1 }) ∧
    (∃ (s : State) (v : State) (t : Time) (n : Nat) (typ : Nat) (cls : Nat) (oseq : Nat) (h : CscHdr) (i : Instr) (body : List Octet),
      cscFrameOf i = some (t, n, h, typ, cls, oseq, body) ∧ (typ ≠ 11 ∨ s.on (F.CSC_PnCFG_LOOP n) = false) ∧ s.domReady 19 = true ∧
      s.portUp n = true ∧ h.bad = false ∧ s.frameOk n h typ cls oseq body = false ∧ v = (s.at t).setCport n
      { s.cport n with rxCount := (s.cport n).rxCount + 1 }) ∧
    (∃ (s : State) (t : Time) (n : Nat) (typ : Nat) (cls : Nat) (oseq : Nat) (h : CscHdr) (i : Instr) (body : List Octet), cscFrameOf i =
      some (t, n, h, typ, cls, oseq, body) ∧ (typ ≠ 11 ∨ s.on (F.CSC_PnCFG_LOOP n) = false) ∧ typ ≠ 1 ∧ typ ≠ 2 ∧ (s.at t).cscHears n h
      typ cls oseq body ∧ h.lseq ≠ (((s.at t).cscCame n h).cport n).rxSeq) ∧
    (∃ (s : State) (t : Time) (n : Nat) (h : CscHdr), (s.at t).cscHears n h 1 0 0 []) ∧
    (∃ (s : State) (v : State) (t : Time) (n : Nat) (h : CscHdr) (g : CscGrant), (s.at t).cscHears n h 2 0 0 (Config.cscOctets (.credit
      g.cells g.ctl)) ∧ v = (s.at t).cscCame n h) ∧
    (∃ (s : State) (v : State) (t : Time) (n : Nat) (cls : Nat) (oseq : Nat) (h : CscHdr) (data : List Octet), s.cscTook t n h 0 cls oseq
      data v) ∧
    (∃ (s : State) (oseq : Nat) (h : CscHdr), (s.csc.seen.getD' h.src []).contains oseq = true) ∧
    (∃ (s : State) (oseq : Nat) (a : Nat) (l : List Nat) (h : CscHdr), s.csc.seen.find h.src = some (a :: l) ∧ 4095 ≤ l.length ∧ (a ::
      l).contains oseq = false ∧ oseq < a) ∧
    (∃ (s : State) (v : State) (n : Nat) (oseq : Nat) (h : CscHdr) (data : List Octet), (s.csc.seen.getD' h.src []).contains oseq = false
      ∧ (s.csc.seen.getD' h.src []).length < 4096 ∧ v = State.setCport
      { s with csc := { s.csc with seen := s.csc.seen.put h.src (keepHighest (s.csc.seen.getD' h.src []) oseq) } } n
      { s.cport n with arrived := ((s.cport n).arrived + cellsFor data.length) % 2 ^ 32 }) ∧
    (∃ (s : State) (n : Nat) (a : Nat) (k : Nat) (f : CscFrame) (l : List CscFrame) (m : List CscFrame), (s.cport n).unacked = f :: (l ++
      m) ∧ k = l.length + 1 ∧ k < 65536 ∧ a = (f.lseq + k) % 65536 ∧ f.lseq < 65536 ∧ ((∀ g ∈ f :: l, g.body.typ ≠ 0))) ∧
    (∃ (s : State) (n : Nat) (st : Nat) (oseq : Nat) (cells : Nat) (f : CscFrame) (m : List CscFrame), (s.cport n).unacked = f :: m ∧
      f.body = .data st oseq cells ∧ f.lseq < 65536) ∧
    (∃ (s : State) (v : State) (t : Time) (n : Nat) (h : CscHdr) (i : Instr) (b : CscBody), cscCtlOf i = some (t, n, h, b) ∧ (b.typ ≠ 11
      ∨ s.on (F.CSC_PnCFG_LOOP n) = false) ∧ s.cscTook t n h b.typ 0 0 (Config.cscOctets b) v ∧ h.dst ≠ 31 ∧ h.dst ≠ v.fabric) ∧
    (∃ (h : CscHdr) (b : CscBody) (f : CscFrame), f = { dst := h.dst, src := h.src, rer := h.rerouted, body := b }) ∧
    (∃ (s : State) (v : State) (t : Time) (n : Nat) (org : Nat) (h : CscHdr) (l : CscLsa), s.cscMine t n h (.lsa org l) v ∧ org =
      v.fabric) ∧
    (∃ (s : State) (v : State) (t : Time) (n : Nat) (org : Nat) (h : CscHdr) (l : CscLsa) (old : List Nat), s.cscMine t n h (.lsa org l)
      v ∧ org ≠ v.fabric ∧ v.lsaNewer org l = true ∧ old = (if org < 16 then (v.csc.temps.filter (fun e => e.2 == l.dev)).map (fun e =>
      e.1) else [])) ∧
    (∃ (s : State) (v : State) (t : Time) (n : Nat) (org : Nat) (h : CscHdr) (l : CscLsa), s.cscMine t n h (.lsa org l) v ∧ org ≠
      v.fabric ∧ v.lsaNewer org l = false) ∧
    (∃ (s : State) (v : State) (t : Time) (n : Nat) (node : Nat) (chip : Nat) (h : CscHdr), s.cscMine t n h (.home node chip) v) ∧
    (∃ (s : State) (v : State) (t : Time) (n : Nat) (h : CscHdr) (ms : List LxRx), s.cscMine t n h (.learn ((ms.take 30).map LxRx.msg))
      v) ∧
    (∃ (s : State) (v : State) (w : State) (t : Time) (n : Nat) (t1 : Nat) (t2 : Nat) (t3 : Nat) (t4 : Nat) (h : CscHdr) (valid : Bool)
      (off : Int), s.cscMine t n h (.time t1 t4 valid) v ∧ w = v.setCport n { v.cport n with timeCame := t2 } ∧ off = (gtDiff t2 t1 -
      gtDiff t4 t3) / 2) ∧
    (∃ (s : State) (v : State) (t : Time) (n : Nat) (h : CscHdr) (x : SchedIn), s.schedTook t n h x.body v) ∧
    (∃ (s : State) (v : State) (t : Time) (n : Nat) (h : CscHdr) (cells : List Cell), s.cscMine t n h (.sched (.restore cells)) v ∧
      v.slvJoins = false) ∧
    (∃ (s : State) (v : State) (t : Time) (n : Nat) (h : CscHdr) (x : SchedIn), s.cscMine t n h (.sched x.body) v ∧ v.slvJoins = false ∧
      (x.body.isRestore = false)) ∧
    (∃ (s : State) (src : Nat) (node : Nat) (plan : LinkPlan) (found : List Placement), (found.filter (fun p => p.node == node &&
      s.placeOn (2 ^ 23 + src) plan p s.planned)) = []) ∧
    (∃ (s : State) (src : Nat) (node : Nat) (plan : LinkPlan) (p : Placement), p.node = node ∧ s.placeOn (2 ^ 23 + src) plan p s.planned
      = true) ∧
    (∃ (s : State) (ft : Nat) (c : SlvCmd), s.slv.asked = some (c, ft)) ∧
    (∃ (s : State), s.slv.asked = none) ∧
    (∃ (s : State) (v : State) (ps : List Placement), v =
      { s with slv := { s.slv with border := s.slv.border ++ ps.filterMap s.ownPlace } }) ∧
    (∃ (s : State) (r : SolveRun), s.slv.solve = some r) ∧
    (∃ (s : State), s.slv.solve = none) ∧
    (∃ (s : State) (v : State) (chip : Nat) (first : Bool) (cells : List PlanCell), v =
      { s with slv := { s.slv with master := s.slv.master.put chip ((if first then [] else s.slv.master.getD' chip []) ++ cells) } }) ∧
    (∃ (s : State) (v : State) (chip : Nat) (records : Nat) (first : Bool) (l : List ChipNode), v =
      { s with slv := { s.slv with known := s.slv.known.put chip (records, (if first then [] else (s.slv.known.getD' chip (0, [])).2) ++ l) } })
      ∧
    (∃ (s : State) (cells : List Cell) (new : List Cell), new = (cells.filter (fun c => !s.cellsDue.contains c)).take (131072 -
      s.cellsDue.length)) ∧
    (∃ (s : State) (v : State) (w : State) (u : State) (t : Time) (n : Nat) (h : CscHdr) (x : CscStat), s.cscMine t n h (.status x) v ∧ w
      = { v with csc := { v.csc with peers := v.csc.peers.put h.src (v.gtb.ft, x) } } ∧ u = (if w.fld F.CSC_STATUS_ACTROLE = 1 then w
      else w.setFld F.CSC_EPOCH_EPOCH (max x.epoch (w.fld F.CSC_EPOCH_EPOCH)))) ∧
    (∃ (s : State) (chip : Nat) (cells : List Cell), s.fld F.CSC_STATUS_ACTROLE = 1 ∧ s.on F.CSC_STATUS_MODE = true ∧ cells =
      ((s.slv.master.getD' chip []).filter (fun x => x.node.isSome)).map (fun x => x.cell) ∧ cells ≠ []) ∧
    (∃ (s : State), s.on F.SLV_STATUS_MASTER = true) ∧
    (∃ (k : Nat), k < 16) :=
  ⟨⟨cSt 1, 1, by decide⟩,
   ⟨cSt 1, 7, by decide⟩,
   ⟨(cSt 1).setFlag (F.CSC_PnCFG_SEC 1) false, ((cSt 1).setFlag (F.CSC_PnCFG_SEC 1) false).nextFree, 1, Config.cscOctets (.hello (((cSt
     1).setFlag (F.CSC_PnCFG_SEC 1) false).fld F.CSC_CFG_CASCID) ((cSt 1).setFlag (F.CSC_PnCFG_SEC 1) false).devNum ((cSt 1).setFlag
     (F.CSC_PnCFG_SEC 1) false).fabric 1 (((cSt 1).setFlag (F.CSC_PnCFG_SEC 1) false).fresh % 2 ^ 128) 0), by decide, rfl, rfl⟩,
   ⟨cRg (cKy [7]), (cRg (cKy [7])).drbgDraw, 1, by decide⟩,
   ⟨(cSt 1).setFlag (F.CSC_PnCFG_SEC 1) true, 1, by decide⟩,
   ⟨cSt 1, 1, by decide⟩,
   ⟨cUp, (cUp.at tT).setCport 1 { cUp.cport 1 with lock := false }, tT, 1, by decide⟩,
   ⟨cUp, 4, by decide⟩,
   ⟨cP { unacked := [cFr cTi 0] } cUp, 1, by decide⟩,
   ⟨cP { unacked := [cFr cTi 0], retx := 3 } cUp, 1, by decide⟩,
   ⟨cUp, 1, by decide⟩,
   ⟨cSt 3, tT, 1, by decide⟩,
   ⟨cUp, tT, 1, by decide⟩,
   ⟨cP { lock := true } (cSt 3), (cP { lock := true } (cSt 3)).setFld (F.CSC_PnSTAT_STATE 1) 1, 1, by decide⟩,
   ⟨cUp, 1, by decide⟩,
   ⟨(cSt 1).setFlag (F.CSC_PnCFG_SEC 1) false, 1, { cHl 0 with bad := true }, by decide⟩,
   ⟨(cSt 1).setFlag (F.CSC_PnCFG_SEC 1) false, 1, cHl 0, by decide⟩,
   ⟨cKy [7], ((cKy [7]).at tT).keyRequest (.cascade 1) ((cKy [7]).fld (F.CSC_PnCFG_KEYSLOT 1)) |>.2, tT, 1, cHl 0, by decide⟩,
   ⟨cP { lock := true } ((cSt 1).setFlag (F.CSC_PnCFG_SEC 1) false), (cP { lock := true } ((cSt 1).setFlag (F.CSC_PnCFG_SEC 1)
     false)).setCport 1
     { (cP { lock := true } ((cSt 1).setFlag (F.CSC_PnCFG_SEC 1) false)).cport 1 with helloFt := (cP { lock := true } ((cSt 1).setFlag (F.CSC_PnCFG_SEC 1) false)).gtb.ft },
     1, by decide⟩,
   ⟨tOn, cDv tOn, 3, 4, { cHl 0 with dev := 9, rand := 4 }, { cHl 0 with dev := 0, rand := 3 }, by decide⟩,
   ⟨1, by decide⟩,
   ⟨tOn, by decide⟩,
   ⟨cSt 1, tT, 1, 9, 0, 0, cHx false, .cscHome tT 1 (cHx false) 1 1, Config.cscOctets (.home 1 1), rfl, by decide, by decide⟩,
   ⟨cUp, (cUp.at tT).setCport 1 { cUp.cport 1 with rxCount := (cUp.cport 1).rxCount + 1 }, tT, 1, 4, 0, 0, cHx true, .cscLsa tT 1 (cHx
     true) 0 cLs, Config.cscOctets (.lsa 0 cLs), rfl, by decide, by decide, by decide, by decide, rfl⟩,
   ⟨cUp, (cUp.at tT).setCport 1 { cUp.cport 1 with rxCount := (cUp.cport 1).rxCount + 1 }, tT, 1, 0, 2, 5, cHx false, .cscData tT 1 (cHx
     false) 2 5 [7], [7], rfl, by decide, by decide, by decide, by decide, by decide, rfl⟩,
   ⟨cUp, tT, 1, 0, 2, 5, cHq, .cscData tT 1 cHq 2 5 [7], [7], rfl, by decide, by decide, by decide, by decide, by decide⟩,
   ⟨cUp, tT, 1, cHd 31 1 0 0 [], by decide⟩,
   ⟨cUp, (cUp.at tT).cscCame 1 (cH 31 (.credit 5 70)), tT, 1, cH 31 (.credit 5 70), ⟨5, 70⟩, cHearsAt _ _ _ (by decide), rfl⟩,
   ⟨cUp, cV cUp (cHd 31 0 2 9 [1, 2, 3]) 0, tT, 1, 2, 9, cHd 31 0 2 9 [1, 2, 3], [1, 2, 3], by decide⟩,
   ⟨cSeen [9], 9, cHx false, by decide⟩,
   ⟨cSeen (List.replicate 4096 9), 8, 9, List.replicate 4095 9, cHx false, by decide⟩,
   ⟨cUp, State.setCport { cUp with csc := { (cUp).csc with seen := (cUp).csc.seen.put 4 (keepHighest ((cUp).csc.seen.getD' 4 []) 9) } } 1
     { (cUp).cport 1 with arrived := (((cUp).cport 1).arrived + cellsFor 1) % 2 ^ 32 }, 1, 9, { cHx false with dst := 17 }, [1],
     by decide⟩,
   ⟨cP { unacked := [cFr cTi 65535, cFr cTi 0, cFr cTi 1] } cUp, 1, 1, 2, cFr cTi 65535, [cFr cTi 0], [cFr cTi 1], by decide⟩,
   ⟨cP { unacked := [cFr (.data 3 5 1) 8] } cUp, 1, 3, 5, 1, cFr (.data 3 5 1) 8, [], by decide⟩,
   ⟨cRt cUp 4 1, cVm (cRt cUp 4 1) 4 (.home 4 5), tT, 1, cH 4 (.home 4 5), .cscHome tT 1 (cH 4 (.home 4 5)) 4 5, .home 4 5, rfl,
     by decide, cMineAt _ _ _ (by decide) (by decide), by decide, by decide⟩,
   ⟨{ cHx false with dst := 4 }, .home 1 1, { dst := 4, src := 4, rer := false, body := .home 1 1 }, by decide⟩,
   ⟨cUp, cVm (cUp) 31 (.lsa cUp.fabric cLs), tT, 1, cUp.fabric, cH 31 (.lsa cUp.fabric cLs), cLs, ⟨cMineAt _ _ _ (by decide) (by decide),
     .inl rfl⟩, rfl⟩,
   ⟨cUp, cVm (cUp) 31 (.lsa 4 cLs), tT, 1, 4, cH 31 (.lsa 4 cLs), cLs, [], ⟨cMineAt _ _ _ (by decide) (by decide), .inl rfl⟩, by decide,
     by decide, rfl⟩,
   ⟨{ cUp with csc := { cUp.csc with lsas := [(4, cLs)] } }, cVm ({ cUp with csc := { cUp.csc with lsas := [(4, cLs)] } }) 31 (.lsa 4
     cLs), tT, 1, 4, cH 31 (.lsa 4 cLs), cLs, ⟨cMineAt _ _ _ (by decide) (by decide), .inl rfl⟩, by decide, by decide⟩,
   ⟨cMode cUp, cVm (cMode cUp) 31 (.home 4 5), tT, 1, 4, 5, cH 31 (.home 4 5), ⟨cMineAt _ _ _ (by decide) (by decide), .inl rfl⟩⟩,
   ⟨cUp, cVm (cUp) 31 (.learn []), tT, 1, cH 31 (.learn []), [], ⟨cMineAt _ _ _ (by decide) (by decide), .inl rfl⟩⟩,
   ⟨cRt (cMode cUp) 4 1, cVm (cRt (cMode cUp) 4 1) 31 (.time 5 14 true), (cVm (cRt (cMode cUp) 4 1) 31 (.time 5 14 true)).setCport 1
     { (cVm (cRt (cMode cUp) 4 1) 31 (.time 5 14 true)).cport 1 with timeCame := 9 }, tT, 1, 5, 9, 12, 14, cH 31 (.time 5 14 true), true,
     (gtDiff 9 5 - gtDiff 14 12) / 2, ⟨cMineAt _ _ _ (by decide) (by decide), .inl rfl⟩, rfl, rfl⟩,
   ⟨cMr, cVm (cMr) 31 (.sched (.interior [])), tT, 1, cH 31 (.sched (.interior [])), ⟨.interior [], []⟩, ⟨⟨cMineAt _ _ _ (by decide) (by
     decide), .inl rfl⟩, by decide⟩⟩,
   ⟨cUp, cVm (cUp) 31 (.sched (.restore [])), tT, 1, cH 31 (.sched (.restore [])), [], ⟨cMineAt _ _ _ (by decide) (by decide), .inl rfl⟩,
     by decide⟩,
   ⟨cUp, cVm (cUp) 31 (.sched (.interior [])), tT, 1, cH 31 (.sched (.interior [])), ⟨.interior [], []⟩, ⟨cMineAt _ _ _ (by decide) (by
     decide), .inl rfl⟩, by decide, by decide⟩,
   ⟨cMa, 4, 7, cPn, [{ cPl with node := 8 }], by decide⟩,
   ⟨cJn, 4, 7, cPn, cPl, by decide⟩,
   ⟨cAq, 9, cCm, by decide⟩,
   ⟨cMr, by decide⟩,
   ⟨cMr, { cMr with slv := { cMr.slv with border := cMr.slv.border ++ [cPl].filterMap cMr.ownPlace } }, [cPl], by decide⟩,
   ⟨cRn, cRu, by decide⟩,
   ⟨cMr, by decide⟩,
   ⟨cMr, { cMr with slv := { cMr.slv with master := cMr.slv.master.put 3 ([] ++ [cPc]) } }, 3, true, [cPc], by decide⟩,
   ⟨cMr, { cMr with slv := { cMr.slv with known := cMr.slv.known.put 3 (5, [] ++ [cCn]) } }, 3, 5, true, [cCn], by decide⟩,
   ⟨cMr, [cCell], [cCell], by decide⟩,
   ⟨cUp, cVm (cUp) 31 (.status cSs), cStW (cUp), cStU (cUp), tT, 1, cH 31 (.status cSs), cSs, ⟨cMineAt _ _ _ (by decide) (by decide),
     .inl rfl⟩, rfl, rfl⟩,
   ⟨{ cMl with slv := { cMl.slv with master := [(4, [{ cPc with node := some 7 }])] } }, 4, [cCell], by decide⟩,
   ⟨{ cMa with slv := { cMa.slv with master := [(4, [cPc])], known := [(4, 5, [cCn])] } }, by decide⟩,
   ⟨15, by decide⟩⟩

theorem test_met_CscRolesAndCommands :
    (∃ (s : State) (v : State) (t : Time) (n : Nat) (dev : Nat) (a : Nat) (h : CscHdr), s.cscMine t n h (.addr (.assign dev a)) v ∧ (if
      dev = v.devNum then v.mapLocked = true else v.csc.temps.find a = some dev)) ∧
    (∃ (s : State) (v : State) (t : Time) (n : Nat) (dev : Nat) (a : Nat) (h : CscHdr), s.cscMine t n h (.addr (.assign dev a)) v ∧ dev ≠
      v.devNum ∧ v.csc.temps.find a ≠ some dev) ∧
    (∃ (s : State) (v : State) (t : Time) (n : Nat) (dev : Nat) (a : Nat) (h : CscHdr), s.cscMine t n h (.addr (.assign dev a)) v ∧ dev =
      v.devNum ∧ v.mapLocked = false) ∧
    (∃ (s : State) (v : State) (t : Time) (n : Nat) (dev : Nat) (h : CscHdr), s.cscMine t n h (.addr (.request dev)) v ∧ (dev = v.devNum
      ∨ v.assigner dev = false ∧ v.csc.asks.contains dev = true)) ∧
    (∃ (s : State) (v : State) (t : Time) (n : Nat) (dev : Nat) (h : CscHdr), s.cscMine t n h (.addr (.request dev)) v ∧ dev ≠ v.devNum ∧
      v.assigner dev = false ∧ v.csc.asks.contains dev = false) ∧
    (∃ (s : State) (v : State) (t : Time) (n : Nat) (dev : Nat) (h : CscHdr), s.cscMine t n h (.addr (.request dev)) v ∧ dev ≠ v.devNum ∧
      v.assigner dev = true) ∧
    (∃ (s : State) (dev : Nat) (a : Nat), s.csc.temps = [(a, dev)]) ∧
    (∃ (s : State) (dev : Nat) (k : Nat), ((∀ e ∈ s.csc.temps, e.2 ≠ dev)) ∧ k < 15 ∧ s.csc.temps.find (16 + k) = none ∧ bit (s.reg
      Reg.CSC_REACH).toNat (16 + k) = false ∧ ((∀ j, j < k → (s.csc.temps.find (16 + j)).isSome = true ∨ bit (s.reg Reg.CSC_REACH).toNat
      (16 + j) = true))) ∧
    (∃ (s : State) (dev : Nat) (k : Nat) (d : Nat), k < 15 ∧ (s.askers dev)[k]? = some d) ∧
    (∃ (s : State) (a : Nat), s.csc.gone.find a = none) ∧
    (∃ (s : State) (a : Nat) (since : Nat), s.csc.gone.find a = some since ∧ s.gtb.ft < since + 5000) ∧
    (∃ (s : State) (v : State) (a : Nat) (since : Nat), s.csc.gone.find a = some since ∧ since + 5000 ≤ s.gtb.ft ∧ v =
      { s with csc := { s.csc with temps := s.csc.temps.del a, gone := s.csc.gone.del a, lsas := s.csc.lsas.del a } }) ∧
    (∃ (s : State), s.domReady 19 = true) ∧
    (∃ (s : State), s.upLinks = []) ∧
    (∃ (s : State), s.domReady 19 = true) ∧
    (∃ (s : State) (u : State) (v : State) (t : Time), s.domReady 19 = true ∧ u = (List.range 31).foldl (fun (u : State) d => match
      u.primary d with | some n => u.ctlSend n d u.fabric (.status (s.at t).ownStat) | none => u) (s.at t).restoreLater ∧ v = (if
      u.domReady 15 then u.tellNodes else u)) ∧
    (∃ (s : State), (s.fld F.CSC_STATUS_ACTROLE ≠ 1 ∨ s.on F.CSC_STATUS_MODE = false)) ∧
    (∃ (s : State) (node : Nat) (d : DemRec), s.fld F.CSC_CFG_ROLE ≠ 0 ∧ s.slv.dem.find node = some d ∧ d.auto = false) ∧
    (∃ (s : State) (node : Nat) (chip : Nat) (d : DemRec), s.slv.dem.find node = some d ∧ d.auto = true ∧ s.isMember = true ∧
      s.csc.homes.find node = some chip) ∧
    (∃ (s : State) (t : Time) (i : Instr), s.domReady 19 = false ∧ i ∈ [Instr.lsaPeriodic t, .statusPeriodic t, .timePeriodic t,
      .startListenEnd t]) ∧
    (∃ (s : State) (n : Nat) (dst : Nat) (src : Nat) (b : CscBody) (g : CscFrame), s.portUp n = true ∧ s.on F.CSC_STATUS_ISOLATED = false
      ∧ (src ≠ 31 ∨ b.typ = 10) ∧ n < 4 ∧ s.csc.ports.length = 4 ∧ (s.cport n).ctlQ = [] ∧ (s.cport n).unacked.length < 4096 ∧ g =
      { lseq := (s.cport n).txSeq, dst := dst, src := src, body := b, pay := s.bodyOctets b }) ∧
    (∃ (s : State) (n : Nat) (src : Nat) (b : CscBody), (s.portUp n = false ∨ s.on F.CSC_STATUS_ISOLATED = true ∨ src = 31 ∧ b.typ ≠ 10))
      ∧
    (∃ (s : State) (k : Nat), s.csc.peers.find k = none) ∧
    (∃ (s : State) (t : Time) (k : Nat) (last : Nat) (x : CscStat), s.csc.peers.find k = some (last, x) ∧ t.ft < last + 5000) ∧
    (∃ (s : State) (t : Time) (k : Nat) (last : Nat) (x : CscStat), s.csc.peers.find k = some (last, x) ∧ last + 5000 ≤ t.ft) ∧
    (∃ (s : State), (s.fld F.CSC_CFG_ROLE = 0 ∨ s.mapLocked = false)) ∧
    (∃ (s : State), s.bestAnchor = none) ∧
    (∃ (s : State) (a : Nat) (e : Nat), s.bestAnchor = some (a, e) ∧ s.fld F.CSC_STATUS_ACTROLE ≠ 1) ∧
    (∃ (s : State) (v : State) (a : Nat) (e : Nat), s.bestAnchor = some (a, e) ∧ s.fld F.CSC_STATUS_ACTROLE = 1 ∧ v =
      s.solveAbort.setFlag F.SLV_STATUS_MASTER false) ∧
    (∃ (s : State), s.csc.noQuorum = none) ∧
    (∃ (s : State) (t : Time) (since : Nat), s.csc.noQuorum = some since ∧ (s.fld F.CSC_STATUS_ACTROLE ≠ 1 ∨ t.ft < since + 5000 ∨
      s.quorum = true)) ∧
    (∃ (s : State) (u : State) (t : Time) (since : Nat), s.csc.noQuorum = some since ∧ s.fld F.CSC_STATUS_ACTROLE = 1 ∧ since + 5000 ≤
      t.ft ∧ s.quorum = false ∧ u = (s.at t).solveAbort.setRole 0) ∧
    (∃ (s : State) (r : Nat), s.fld F.CSC_STATUS_ACTROLE ≠ r ∧ r < 4) ∧
    (∃ (s : State), s.domReady 19 = true) ∧
    (∃ (s : State) (v : State) (t : Time) (p : Nat), s.csc.held.any (fun (x : Nat × Nat) => x.1 == p && Nat.ble x.2 t.ft) = true ∧ v =
      { s.at t with csc := { s.csc with heldCtl := s.csc.heldCtl.filter (fun x => Nat.blt t.ft x.2), held := s.csc.held.filter (fun (x : Nat × Nat) => x.1 != p) } })
      ∧
    (∃ (s : State) (t : Time) (p : Nat), s.csc.held.any (fun (x : Nat × Nat) => x.1 == p && Nat.ble x.2 t.ft) = false) ∧
    (∃ (s : State) (v : State) (rq : Req) (addr : Nat) (tag : Nat), s.cscCmdTook rq 1 addr tag v ∧ v.fld F.CSC_CFG_ROLE = 1 ∧ v.fld
      F.CSC_STATUS_ACTROLE = 2 ∧ v.mirrorOk = true ∧ v.quorum = true) ∧
    (∃ (s : State) (v : State) (rq : Req) (addr : Nat) (tag : Nat), s.cscCmdTook rq 1 addr tag v ∧ (v.fld F.CSC_CFG_ROLE ≠ 1 ∨ v.fld
      F.CSC_STATUS_ACTROLE ≠ 2 ∨ v.mirrorOk = false ∨ v.quorum = false)) ∧
    (∃ (s : State) (u : State) (b : Bool), s.slv.dem = [] ∧ s.fld F.CSC_STATUS_ACTROLE ≠ 1 ∧ u = s.becomeAnchor b) ∧
    (∃ (s : State) (v : State) (rq : Req) (addr : Nat) (tag : Nat), s.cscCmdTook rq 2 addr tag v ∧ v.primary (addr % 32) = none ∧
      (v.fabric ≠ addr % 32 ∨ (∀ n ∈ List.range 4, v.on (F.CSC_PnCFG_LOOP n) = false))) ∧
    (∃ (s : State) (v : State) (rq : Req) (addr : Nat) (tag : Nat) (n : Nat), s.cscCmdTook rq 2 addr tag v ∧ v.primary (addr % 32) = some
      n) ∧
    (∃ (s : State) (v : State) (rq : Req) (addr : Nat) (tag : Nat) (n : Nat), s.cscCmdTook rq 2 addr tag v ∧ v.primary (addr % 32) = none
      ∧ v.fabric = addr % 32 ∧ n < 4 ∧ v.on (F.CSC_PnCFG_LOOP n) = true) ∧
    (∃ (s : State) (n : Nat), s.domReady 19 = true ∧ s.on (F.CSC_PnCFG_LOOP n) = true) ∧
    (∃ (s : State) (v : State) (t : Time) (n : Nat) (tag : Nat) (h : CscHdr), s.cscMine t n h (.echo true tag) v ∧ s.on (F.CSC_PnCFG_LOOP
      n) = false) ∧
    (∃ (s : State) (tag : Nat) (a : Nat), tag < 256 ∧ s.csc.echo = some (a, tag)) ∧
    (∃ (s : State) (tag : Nat), s.csc.echo.all (fun x => x.2 != tag) = true) ∧
    (∃ (s : State) (v : State) (t : Time) (n : Nat) (tag : Nat) (h : CscHdr), s.cscMine t n h (.echo false tag) v ∧ s.on
      (F.CSC_PnCFG_LOOP n) = false) ∧
    (∃ (s : State) (a : Nat) (tag : Nat), tag < 256 ∧ s.csc.echo = some (a, tag)) ∧
    (∃ (s : State), s.csc.echo = none) ∧
    (∃ (s : State) (v : State) (rq : Req) (addr : Nat) (tag : Nat), s.cscCmdTook rq 3 addr tag v) ∧
    (∃ (s : State) (v : State) (rq : Req) (op : Nat) (addr : Nat) (tag : Nat) (i : Instr), (op, i) ∈ [(1, Instr.cscHandback rq addr tag),
      (2, .cscEcho rq addr tag), (3, .cscFloodLsa rq addr tag)] ∧ s.barred rq Reg.CSC_CMD (some (cscWord op addr tag)) = none ∧ v =
      s.took rq Reg.CSC_CMD (cscWord op addr tag) ∧ v.on F.CSC_CMDSTAT_BUSY = true) ∧
    (∃ (s : State) (rq : Req) (op : Nat) (addr : Nat) (tag : Nat) (i : Instr) (x : AccCause), (op, i) ∈ [(1, Instr.cscHandback rq addr
      tag), (2, .cscEcho rq addr tag), (3, .cscFloodLsa rq addr tag)] ∧ s.barred rq Reg.CSC_CMD (some (cscWord op addr tag)) = some x) :=
  ⟨⟨cLk (cDv cUp), cVm (cLk (cDv cUp)) 31 (.addr (.assign 9 16)), tT, 1, 9, 16, cH 31 (.addr (.assign 9 16)), ⟨cMineAt _ _ _ (by decide)
    (by decide), .inl rfl⟩, by decide⟩,
   ⟨cUp, cVm (cUp) 31 (.addr (.assign 5 16)), tT, 1, 5, 16, cH 31 (.addr (.assign 5 16)), ⟨cMineAt _ _ _ (by decide) (by decide), .inl
     rfl⟩, by decide, by decide⟩,
   ⟨cUp, cVm (cUp) 31 (.addr (.assign 0 16)), tT, 1, 0, 16, cH 31 (.addr (.assign 0 16)), ⟨cMineAt _ _ _ (by decide) (by decide), .inl
     rfl⟩, rfl, by decide⟩,
   ⟨cNa, cVm (cNa) 31 (.addr (.request 0)), tT, 1, 0, cH 31 (.addr (.request 0)), ⟨cMineAt _ _ _ (by decide) (by decide), .inl rfl⟩,
     by decide⟩,
   ⟨cNa, cVm (cNa) 31 (.addr (.request 5)), tT, 1, 5, cH 31 (.addr (.request 5)), ⟨cMineAt _ _ _ (by decide) (by decide), .inl rfl⟩,
     by decide, by decide, by decide⟩,
   ⟨cLk (cAd 3 cUp), cVm (cLk (cAd 3 cUp)) 31 (.addr (.request 5)), tT, 1, 5, cH 31 (.addr (.request 5)), ⟨cMineAt _ _ _ (by decide) (by
     decide), .inl rfl⟩, by decide, by decide⟩,
   ⟨cTm [(17, 5)] cUp, 5, 17, by decide⟩,
   ⟨cTm [(16, 6)] cUp, 5, 1, by decide⟩,
   ⟨cUp, 5, 1, 5, by decide⟩,
   ⟨cUp, 17, by decide⟩,
   ⟨cGo (tT.ft - 9) tOn, 17, tT.ft - 9, by decide⟩,
   ⟨cGo 0 tOn,
     { cGo 0 tOn with csc := { (cGo 0 tOn).csc with temps := (cGo 0 tOn).csc.temps.del 17, gone := (cGo 0 tOn).csc.gone.del 17, lsas := (cGo 0 tOn).csc.lsas.del 17 } },
     17, 0, by decide⟩,
   ⟨cUp, by decide⟩,
   ⟨tOn, by decide⟩,
   ⟨cUp, by decide⟩,
   ⟨cUp, (List.range 31).foldl (fun (u : State) d => (u.primary d).elim u (fun n => u.ctlSend n d u.fabric (.status (cUp.at
     tT).ownStat))) (cUp.at tT).restoreLater, (let u := (List.range 31).foldl (fun (u : State) d => (u.primary d).elim u (fun n =>
     u.ctlSend n d u.fabric (.status (cUp.at tT).ownStat))) (cUp.at tT).restoreLater; if u.domReady 15 then u.tellNodes else u), tT,
     by decide⟩,
   ⟨tOn, by decide⟩,
   ⟨cDm false (tOn.setFld F.CSC_CFG_ROLE 1), 7, cDe false, by decide⟩,
   ⟨cHm, 7, 4, cDe true, by decide⟩,
   ⟨State.reset, tT, .startListenEnd tT, by decide⟩,
   ⟨cP { ctlGrant := 3 } cUp, 1, 31, 0, cTi, { lseq := 0, dst := 31, src := 0, body := cTi, pay := Config.cscOctets cTi }, by decide,
     by decide, by decide, by decide, by decide, by decide, by decide, rfl⟩,
   ⟨cSt 1, 1, 0, cTi, by decide⟩,
   ⟨tOn, 4, by decide⟩,
   ⟨cPe tOn, { gt := 5, ft := 90 }, 4, 100, cSs, by decide⟩,
   ⟨cPe tOn, tT, 4, 100, cSs, by decide⟩,
   ⟨tOn, by decide⟩,
   ⟨cUp, by decide⟩,
   ⟨cPe tOn, 4, 3, by decide⟩,
   ⟨cPe (tOn.setFld F.CSC_STATUS_ACTROLE 1), ((cPe (tOn.setFld F.CSC_STATUS_ACTROLE 1)).solveAbort).setFlag F.SLV_STATUS_MASTER false, 4,
     3, by decide⟩,
   ⟨tOn, by decide⟩,
   ⟨cNq, { gt := 5, ft := 90 }, 10, by decide⟩,
   ⟨cNq.setFld F.CSC_CFG_NCHIP 5, ((cNq.setFld F.CSC_CFG_NCHIP 5).at tT).solveAbort.setRole 0, tT, 10, by decide⟩,
   ⟨tOn, 3, by decide⟩,
   ⟨tOn, by decide⟩,
   ⟨cHe tOn,
     { (cHe tOn).at tT with csc := { (cHe tOn).csc with heldCtl := (cHe tOn).csc.heldCtl.filter (fun x => Nat.blt tT.ft x.2), held := (cHe tOn).csc.held.filter (fun (x : Nat × Nat) => x.1 != 3) } },
     tT, 3, by decide⟩,
   ⟨cHe tOn, { gt := 5, ft := 40 }, 3, by decide⟩,
   ⟨cHk, cC cHk 1 0 7, tSup, 0, 7, by decide⟩,
   ⟨tOn, cC tOn 1 0 7, tSup, 0, 7, by decide⟩,
   ⟨tOn, tOn.becomeAnchor false, false, by decide⟩,
   ⟨tOn, cC tOn 2 4 300, tSup, 4, 300, by decide⟩,
   ⟨cRt cUp 4 1, cC (cRt cUp 4 1) 2 4 300, tSup, 4, 300, 1, by decide⟩,
   ⟨(cAd 4 tOn).setFlag (F.CSC_PnCFG_LOOP 2) true, cC ((cAd 4 tOn).setFlag (F.CSC_PnCFG_LOOP 2) true) 2 4 300, tSup, 4, 300, 2,
     by decide⟩,
   ⟨cEc (tOn.setFlag (F.CSC_PnCFG_LOOP 2) true), 2, by decide⟩,
   ⟨cUp, cVm (cUp) 31 (.echo true 9), tT, 1, 9, cH 31 (.echo true 9), ⟨cMineAt _ _ _ (by decide) (by decide), .inl rfl⟩, by decide⟩,
   ⟨cEc tOn, 9, 4, by decide⟩,
   ⟨cEc tOn, 8, by decide⟩,
   ⟨cUp, cVm (cUp) 31 (.echo false 9), tT, 1, 9, cH 31 (.echo false 9), ⟨cMineAt _ _ _ (by decide) (by decide), .inl rfl⟩, by decide⟩,
   ⟨cEc tOn, 4, 9, by decide⟩,
   ⟨tOn, by decide⟩,
   ⟨tOn, cC tOn 3 4 300, tSup, 4, 300, by decide⟩,
   ⟨tOn.setFlag F.CSC_CMDSTAT_BUSY true, cC (tOn.setFlag F.CSC_CMDSTAT_BUSY true) 3 4 300, tSup, 3, 4, 300, .cscFloodLsa tSup 4 300,
     by decide⟩,
   ⟨cOff, tSup, 3, 4, 300, .cscFloodLsa tSup 4 300, .nodomain, by decide⟩⟩

/-! ### Witnesses: the I3 instances -/

def iOn : State := { tOn.setFld F.LGC_CFG_EN 15 with lgc := { inst := List.replicate 4 {}, noMatch := false } }
def iX (x : I3) : State := iOn.setI3 1 x
def iLd (slot chofs : Nat) : I3 := ((({} : I3).keepAll 0x24 [5, 0]).keepAll 0x26 [slot, 0, chofs, 3, 9, 0])
def iBig : I3 := ({} : I3).keepAll 0x24 [0, 8]
def iPk : Pkt := { cells := [3], data := [5, 0, 0x61, 0x88, 9], arr := 0, src := 2, holder := .hw 22 1, queue := none, pushed := 0, info := { kind := 2 } }
def iRx : State := { iX { rx := [3] } with qmg := { iOn.qmg with pkts := [(3, iPk)] } }
def mF0 : RxFrame := { search := none, qrec := { sfdGt := 5 * 16777216, slice := 0, phy := true, retro := false, div := false, divLost := false, lh := 3, lp := 3, outcome := 0, sicReq := false, ovl := 0, meas := ⟨-400, -32768, 40, 100⟩, hdr := 0, corr := 0, lane := 0, retroDly := 0, node := none }, hdr := { len := 1, par := 0, dep := 0, sw := 0 }, payload := [], fin := 300 }
def iAck : RxFrame := { mF0 with payload := [2, 0, 7, 1, 2] }
def iFr (l : List Octet) : RxFrame := { mF0 with payload := l }
def iAw (b : Bool) : I3Tx := ⟨some 3, [1], 100, b, 7⟩
def iDat : List Octet := [0x41, 0x88, 9, 0xFF, 0xFF, 0xFE, 0xFF, 5, 0, 1, 2]
def iH : I3Hdr := i3Hdr iDat
def iIn (f : RxFrame) (s : State) : State := { s with i3inbox := [f] }
def iLnk (rxn : Nat) : I3 := { bnd := 10000, next := some 20000, first := 10000, links := [(0, ⟨0, 0, 1, 0xFFFF⟩)], rx := List.replicate rxn 3 }
def iTp : Pkt :=
  { cells := [3], data := 13 :: 0 :: iDat, arr := 0, src := 2, holder := .none, queue := some 65617, pushed := 1, info := { kind := 2 } }
def iTx : State :=
  { iX { bnd := 70000 - 1700, first := 70000 - 1700, next := some 80000, links := [(0, ⟨0, 0, 4, 9⟩)] } with
    qmg := { iOn.qmg with pkts := [(3, iTp)], queues := [(65617, { cells := [3] })] } }
def iNl : State := { iTx with lgc := { iTx.lgc with inst := listSet iTx.lgc.inst 1 { iTx.i3 1 with links := [] } } }
def iSl : State := ((iTx.setFlag (F.RFPn_SLk_EN 0 0) true).setFlag (F.RFPn_SLk_PHY 0 0) true).setFld (F.RFPn_RXCTR_KHZ 0) 2405000
def iAdd (s : State) : State := actSet (actSet (s.setFld F.QMG_TOTAL_CELLS 1000) (F.QMG_ADMk_MAX 2) 1000) (F.QMG_ADMk_MIN 2) 100
def iNo (s : State) : State := actSet (actSet s (F.QMG_ADMk_MAX 2) 0) (F.QMG_ADMk_MIN 2) 0
def iAd : State := iAdd iOn
def iAm : State := iAdd ((iX (iLnk 0)).setFld (F.RFPn_RXCTR_KHZ 0) 2405000)

theorem test_met_I3Instances :
    (∃ (s : State) (p : Nat), s.lgcOn p = true) ∧
    (∃ (s : State) (p : Nat), s.lgcOn p = false) ∧
    (∃ (s : State) (t : Time) (p : Nat) (a : Nat) (data : List Octet) (b : Bool) (c : Bool) (n : Nat) (i : Instr), s.lgcOn p = false ∧ i
      ∈ [Instr.lspiWrite t p a data, .i3RunStart t p b c, .i3RunStop t p b c, .i3SoftReset t p, .intstatRead t p, .rxfifoRead t p n,
      .txfifoWrite t p data, .linkWrite t p, .linkRead t p, .linkClear t p, .linkClearAll t p, .i3SlotBoundary t p, .i3Rxdone t p,
      .i3TxSelect t p, .i3AckTimeout t p]) ∧
    (∃ (s : State) (p : Nat) (a : Nat), s.lgcOn p = true ∧ ((5 ≤ a ∧ a ≤ 0x17) ∨ (0x24 ≤ a ∧ a ≤ 0x2E)) ∧ a ≠ 0x2C) ∧
    (∃ (s : State) (p : Nat) (a : Nat), s.lgcOn p = true ∧ (a ≤ 1 ∨ a = 3 ∨ (0x18 ≤ a ∧ a ≤ 0x20) ∨ (0x22 ≤ a ∧ a ≤ 0x23) ∨ (0x2F ≤ a ∧ a
      ≤ 0x7F))) ∧
    (∃ (s : State) (p : Nat), s.lgcOn p = true) ∧
    (∃ (s : State) (p : Nat), s.lgcOn p = true) ∧
    (∃ (s : State) (p : Nat), s.lgcOn p = true) ∧
    (∃ (s : State) (p : Nat) (l : List Octet), s.lgcOn p = true ∧ l ≠ []) ∧
    (∃ (s : State) (p : Nat) (a : Nat), s.lgcOn p = true ∧ (5 ≤ a ∧ a ≤ 0x16)) ∧
    (∃ (s : State) (p : Nat), s.lgcOn p = true) ∧
    (∃ (s : State) (p : Nat), s.lgcOn p = true) ∧
    (∃ (s : State) (p : Nat), s.lgcOn p = true) ∧
    (∃ (s : State) (p : Nat), s.lgcOn p = true) ∧
    (∃ (s : State) (p : Nat), s.lgcOn p = true) ∧
    (∃ (s : State) (p : Nat), s.lgcOn p = true ∧ s.lgc.inst.length = 4 ∧ (s.i3 p).rx = [] ∧ (s.i3 p).tx = [] ∧ s.qmg.pkts = [] ∧ (s.i3
      p).init = []) ∧
    (∃ (s : State) (p : Nat), s.lgcOn p = true) ∧
    (∃ (s : State) (p : Nat) (i : Nat), p < 4 ∧ s.lgc.inst.length = 4 ∧ i < 8 ∧ (s.i3 p).intstat < 256) ∧
    (∃ (s : State) (p : Nat) (i : Nat), p < 4 ∧ s.lgc.inst.length = 4 ∧ i < 8 ∧ s.sysOn ∧ (s.i3 p).ctrl 2 = true ∧ bit ((s.i3 p).oct 4) i
      = true ∧ (s.i3 p).low = false) ∧
    (∃ (s : State) (p : Nat), s.lgcOn p = true ∧ (s.i3 p).rx = []) ∧
    (∃ (s : State) (p : Nat), s.lgcOn p = true) ∧
    (∃ (s : State) (p : Nat) (n : Nat) (st : Nat) (l : List Nat) (x : Pkt), s.lgcOn p = true ∧ (s.i3 p).rx = st :: l ∧ s.qmg.pkts.find st
      = some x ∧ n ≠ 0) ∧
    (∃ (s : State) (p : Nat) (e : List Octet), s.lgcOn p = true ∧ ((e.headD 0).toNat < 5 ∨ 127 < (e.headD 0).toNat ∨ e.length ≠ (e.headD
      0).toNat ∨ 16 ≤ s.i3Queued p)) ∧
    (∃ (s : State) (t : Time) (p : Nat) (e : List Octet), s.lgcOn p = true ∧ 5 ≤ e.length ∧ e.length ≤ 127 ∧ (e.headD 0).toNat = e.length
      ∧ s.i3Queued p < 16 ∧ ((s.at t).commitAt 10 0).admits 2 1 = true) ∧
    (∃ (s : State) (t : Time) (p : Nat) (e : List Octet), s.lgcOn p = true ∧ 5 ≤ e.length ∧ e.length ≤ 127 ∧ (e.headD 0).toNat = e.length
      ∧ s.i3Queued p < 16 ∧ ((s.at t).commitAt 10 0).admits 2 1 = false) ∧
    (∃ (s : State) (p : Nat), s.lgcOn p = true ∧ (s.i3 p).word 0x24 ≤ 2047 ∧ (s.i3 p).linkData.slot < (s.i3 p).word 0x2D ∧ (s.i3
      p).linkData.chofs ≤ 15 ∧ (s.i3 p).linkData.typ < 8) ∧
    (∃ (s : State) (p : Nat), s.lgcOn p = true ∧ (s.i3 p).word 0x24 ≤ 2047 ∧ ((s.i3 p).word 0x2D ≤ (s.i3 p).linkData.slot ∨ 15 < (s.i3
      p).linkData.chofs ∨ 8 ≤ (s.i3 p).linkData.typ)) ∧
    (∃ (s : State) (p : Nat) (l : I3Link), s.lgcOn p = true ∧ (s.i3 p).word 0x24 ≤ 2047 ∧ l = ((s.i3 p).links.find ((s.i3 p).word
      0x24)).getD ⟨0, 0, 0, 0⟩) ∧
    (∃ (s : State) (p : Nat), s.lgcOn p = true ∧ (s.i3 p).word 0x24 ≤ 2047) ∧
    (∃ (s : State) (t : Time) (p : Nat) (i : Instr), s.lgcOn p = true ∧ 2047 < (s.i3 p).word 0x24 ∧ i ∈ [Instr.linkWrite t p, .linkRead t
      p, .linkClear t p]) ∧
    (∃ (s : State) (p : Nat), s.lgcOn p = true) ∧
    (∃ (v : Nat), (v = 0 ∨ 4 < v)) ∧
    (∃ (s : State) (p : Nat), s.lgcOn p = true ∧ (s.i3 p).next = none) ∧
    (∃ (s : State) (t : Time) (p : Nat) (b : Nat), s.lgcOn p = true ∧ (s.i3 p).next = some b ∧ t.ft < b) ∧
    (∃ (s : State) (t : Time) (p : Nat) (b : Nat), s.lgcOn p = true ∧ (s.i3 p).next = some b ∧ b ≤ t.ft ∧ (s.i3 p).word 0x11 ≠ 0) ∧
    (∃ (s : State), s.i3inbox = []) ∧
    (∃ (s : State) (first : Nat) (f : RxFrame) (l : List RxFrame), s.i3inbox = f :: l ∧ s.domReady 20 = true ∧ s.i3Acked (i3Hdr
      f.payload) first = none ∧ ((∀ p < 4, (s.i3 p).wants (i3Hdr f.payload) = false))) ∧
    (∃ (s : State) (first : Nat) (p : Nat) (c : Nat) (f : RxFrame) (l : List RxFrame), s.i3inbox = f :: l ∧ s.i3Acked (i3Hdr f.payload)
      first = some (p, c) ∧ s.lgcOn p = true) ∧
    (∃ (s : State) (f : RxFrame) (l : List RxFrame), s.i3inbox = f :: l ∧ s.domReady 20 = false) ∧
    (∃ (s : State) (first : Nat) (p : Nat) (c : Nat) (f : RxFrame) (l : List RxFrame), s.i3inbox = f :: l ∧ s.i3Acked (i3Hdr f.payload)
      first = some (p, c) ∧ s.lgcOn p = false) ∧
    (∃ (p : Nat), p < 4) ∧
    (∃ (s : State) (first : Nat) (p : Nat) (m : List Nat) (f : RxFrame) (l : List RxFrame), s.i3inbox = f :: l ∧ s.i3Acked (i3Hdr
      f.payload) first = none ∧ (List.range 4).filter (fun p => s.lgcOn p && (s.i3 p).wants (i3Hdr f.payload)) = p :: m) ∧
    (∃ (s : State) (p : Nat) (first : Nat) (f : RxFrame) (h : I3Hdr), p < 4 ∧ (s.i3 p).inLink first (s.i3ChannelOf f.qrec.slice) h =
      false) ∧
    (∃ (s : State) (p : Nat) (first : Nat) (f : RxFrame) (h : I3Hdr), p < 4 ∧ (s.i3 p).inLink first (s.i3ChannelOf f.qrec.slice) h = true
      ∧ 16 ≤ s.rxCount p) ∧
    (∃ (s : State) (p : Nat) (first : Nat) (f : RxFrame) (h : I3Hdr), p < 4 ∧ (s.i3 p).inLink first (s.i3ChannelOf f.qrec.slice) h = true
      ∧ s.rxCount p < 16 ∧ (s.commitAt 10 0).admits 2 1 = false) ∧
    (∃ (s : State) (p : Nat) (first : Nat) (f : RxFrame) (h : I3Hdr), p < 4 ∧ (s.i3 p).inLink first (s.i3ChannelOf f.qrec.slice) h = true
      ∧ s.rxCount p < 16 ∧ (s.commitAt 10 0).admits 2 1 = true) ∧
    (∃ (s : State) (p : Nat), s.i3Routes p = false) ∧
    (∃ (s : State) (p : Nat), s.i3Routes p = true) ∧
    (∃ (s : State) (t : Time) (p : Nat) (d : Nat) (l : List Nat), s.lgcOn p = true ∧ (s.i3 p).due = d :: l ∧ t.ft < d) ∧
    (∃ (s : State) (t : Time) (p : Nat) (d : Nat) (l : List Nat), s.lgcOn p = true ∧ (s.i3 p).due = d :: l ∧ d ≤ t.ft) ∧
    (∃ (s : State) (p : Nat), s.lgcOn p = true ∧ (s.i3 p).due = []) ∧
    (∃ (s : State) (t : Time) (p : Nat), (s.level = 0 ∨ (s.i3 p).running = false ∨ (s.i3 p).await.isSome = true ∨ ((s.i3 p).tx.any (fun e
      => e.2.pkt.isSome)) = true ∨ t.ft < (s.i3 p).bnd + 1620 ∨ (s.i3 p).bnd + 2120 ≤ t.ft ∨ s.headPkt (65616 + p) = none)) ∧
    (∃ (s : State) (t : Time) (p : Nat) (pkt : Nat) (q : Pkt) (h : I3Hdr), s.level ≠ 0 ∧ s.lgcOn p = true ∧ (s.i3 p).running = true ∧
      (s.i3 p).await = none ∧ ((s.i3 p).tx.any (fun e => e.2.pkt.isSome)) = false ∧ (s.i3 p).bnd + 1620 ≤ t.ft ∧ t.ft < (s.i3 p).bnd +
      2120 ∧ s.headPkt (65616 + p) = some (pkt, q) ∧ h = i3Hdr (q.data.drop 2)) ∧
    (∃ (s : State) (p : Nat) (k : I3Link), ((s.i3 p).channel (s.i3 p).asn k.chofs).bind (fun c => s.i3Slice c) = none) ∧
    (∃ (s : State) (p : Nat) (sl : Nat) (data : List Octet) (k : I3Link) (r : Launch × State), ((s.i3 p).channel (s.i3 p).asn
      k.chofs).bind (fun c => s.i3Slice c) = some sl ∧ r = s.i3Launch sl (s.gtAtFt ((s.i3 p).bnd + 2120)) data.length .data) ∧
    (∃ (s : State) (p : Nat), s.lgcOn p = true ∧ (s.i3 p).await = none) ∧
    (∃ (s : State) (t : Time) (p : Nat) (a : I3Tx), s.lgcOn p = true ∧ (s.i3 p).await = some a ∧ (t.ft ≤ a.fin + 240 ∨ a.pkt = none)) ∧
    (∃ (s : State) (t : Time) (p : Nat) (c : Nat) (a : I3Tx), s.lgcOn p = true ∧ (s.i3 p).await = some a ∧ a.pkt = some c ∧ a.fin + 240 <
      t.ft ∧ (s.i3 p).tries + 1 ≤ (s.i3 p).oct 0x16) ∧
    (∃ (s : State) (t : Time) (p : Nat) (c : Nat) (a : I3Tx), s.lgcOn p = true ∧ (s.i3 p).await = some a ∧ a.pkt = some c ∧ a.fin + 240 <
      t.ft ∧ (s.i3 p).oct 0x16 < (s.i3 p).tries + 1) :=
  ⟨⟨iOn, 1, by decide⟩,
   ⟨iOn, 4, by decide⟩,
   ⟨iOn, tT, 4, 5, [1], true, false, 3, .linkRead tT 4, by decide⟩,
   ⟨iOn, 1, 0x17, by decide⟩,
   ⟨iOn, 1, 0x7F, by decide⟩,
   ⟨iOn, 1, by decide⟩,
   ⟨iX (({} : I3).keepAll 2 [4]), 1, by decide⟩,
   ⟨iX (iLd 3 15), 1, by decide⟩,
   ⟨iAd, 1, [5, 0, 1, 2, 3], by decide⟩,
   ⟨iOn, 1, 5, by decide⟩,
   ⟨iOn, 1, by decide⟩,
   ⟨iOn, 1, by decide⟩,
   ⟨iOn, 1, by decide⟩,
   ⟨iOn, 1, by decide⟩,
   ⟨iRx, 1, by decide⟩,
   ⟨iX { asn := 9, low := true, next := some 5 }, 1, by decide⟩,
   ⟨iX { intstat := 5, low := true }, 1, by decide⟩,
   ⟨iX { intstat := 5, asn := 4 }, 1, 3, by decide⟩,
   ⟨iX (({} : I3).keepAll 2 [4, 0, 8]), 1, 3, by decide⟩,
   ⟨iOn, 1, by decide⟩,
   ⟨iRx, 1, by decide⟩,
   ⟨iRx, 1, 7, 3, [], iPk, by decide⟩,
   ⟨iOn, 1, [5, 0], by decide⟩,
   ⟨iAd, tT, 1, [5, 0, 1, 2, 3], by decide⟩,
   ⟨iNo iOn, tT, 1, [5, 0, 1, 2, 3], by decide⟩,
   ⟨iX (iLd 3 15), 1, by decide⟩,
   ⟨iX (iLd 3 16), 1, by decide⟩,
   ⟨iX { iLd 3 15 with links := [(5, ⟨1, 2, 3, 4⟩)] }, 1, ⟨1, 2, 3, 4⟩, by decide⟩,
   ⟨iX { iLd 3 15 with links := [(5, ⟨1, 2, 3, 4⟩)] }, 1, by decide⟩,
   ⟨iX iBig, tT, 1, .linkClear tT 1, by decide⟩,
   ⟨iX { iLd 3 15 with links := [(5, ⟨1, 2, 3, 4⟩)] }, 1, by decide⟩,
   ⟨5, by decide⟩,
   ⟨iOn, 1, by decide⟩,
   ⟨iX { next := some 80000 }, tT, 1, 80000, by decide⟩,
   ⟨iX { next := some 70000 }, tT, 1, 70000, by decide⟩,
   ⟨iOn, by decide⟩,
   ⟨iIn (iFr [1, 2, 3]) iOn, 5, iFr [1, 2, 3], [], by decide⟩,
   ⟨iIn iAck (iX { await := some (iAw true) }), 276, 1, 3, iAck, [], by decide⟩,
   ⟨iIn (iFr [1, 2, 3]) State.reset, iFr [1, 2, 3], [], by decide⟩,
   ⟨iIn iAck ((iX { await := some (iAw true) }).setFld F.LGC_CFG_EN 13), 276, 1, 3, iAck, [], by decide⟩,
   ⟨1, by decide⟩,
   ⟨iIn (iFr iDat) iOn, 5, 0, [1, 2, 3], iFr iDat, [], by decide⟩,
   ⟨iX (iLnk 0), 1, 5, iFr iDat, iH, by decide⟩,
   ⟨(iX (iLnk 16)).setFld (F.RFPn_RXCTR_KHZ 0) 2405000, 1, 12120, iFr iDat, iH, by decide⟩,
   ⟨iNo ((iX (iLnk 0)).setFld (F.RFPn_RXCTR_KHZ 0) 2405000), 1, 12120, iFr iDat, iH, by decide⟩,
   ⟨iAm, 1, 12120, iFr iDat, iH, by decide⟩,
   ⟨iOn, 1, by decide⟩,
   ⟨iOn.setFld F.LGC_CFG_ROUTE 2, 1, by decide⟩,
   ⟨iX { due := [80000] }, tT, 1, 80000, [], by decide⟩,
   ⟨iX { due := [70000] }, tT, 1, 70000, [], by decide⟩,
   ⟨iOn, 1, by decide⟩,
   ⟨iOn, tT, 1, by decide⟩,
   ⟨(iTx.setFld F.CHIP_START_LEVEL 1), tT, 1, 3, iTp, iH, by decide⟩,
   ⟨iTx, 1, ⟨0, 0, 4, 9⟩, by decide⟩,
   ⟨iSl, 1, 0, [5, 0], ⟨0, 0, 4, 9⟩, iSl.i3Launch 0 (iSl.gtAtFt ((iSl.i3 1).bnd + 2120)) 2 .data, by decide⟩,
   ⟨iOn, 1, by decide⟩,
   ⟨iX { await := some { iAw true with fin := 69760 } }, tT, 1, { iAw true with fin := 69760 }, by decide⟩,
   ⟨iX { await := some (iAw true) }, tT, 1, 3, iAw true, by decide⟩,
   ⟨iX { await := some (iAw true), tries := 3 }, tT, 1, 3, iAw true, by decide⟩⟩

theorem test_met_I3Channel :
    (∃ (x : I3) (asn : Nat) (chofs : Nat), chofs ≤ 15 ∧ asn < 2 ^ 32 ∧ x.word 0x11 ≠ 0 ∧ x.word 0x11 < 65536) ∧
    (∃ (x : I3), x.word 0x11 = 0) ∧
    (∃ (x : I3), x.word 0x11 = 0) ∧
    (∃ (s : State) (p : Nat), (s.i3 p).word 0x11 = 0) ∧
    (∃ (s : State) (t : Time) (p : Nat) (b : Nat), s.lgcOn p = true ∧ (s.i3 p).next = some b ∧ b ≤ t.ft ∧ (s.i3 p).word 0x11 = 0) :=
  ⟨⟨({} : I3).keepAll 0x11 [4, 0], 77, 15, by decide⟩,
   ⟨({} : I3).keepAll 0x11 [0, 0], by decide⟩,
   ⟨({} : I3).keepAll 0x11 [0, 0], by decide⟩,
   ⟨iX (({} : I3).keepAll 0x11 [0, 0]), 1, by decide⟩,
   ⟨iX ((iLnk 0).keepAll 0x11 [0, 0]), tT, 1, 20000, by decide⟩⟩

/-! ### Witnesses: HIF and the flash -/

def hUp : State := tOn.setFlag F.HIF_STATUS_PCIEUP true
def hTag : DmaTag := ⟨.pcie, true⟩
def hPe : State := { tOn with hif := { tOn.hif with perst := true } }
def hIf (f : Hif → Hif) (s : State) : State := { s with hif := f s.hif }
def hTg (tx : Bool) (s : State) : State := { s with hif := { s.hif with tags := [(ringKey tx 3, [hTag])] } }
def hPk : Pkt := { cells := [3], data := [1, 2, 3], arr := 0, src := 3, holder := .none, queue := some 65603, pushed := 1, info := {} }
def hRx : State := { hTg false hUp with qmg := { hUp.qmg with pkts := [(3, hPk)], queues := [(65603, { cells := [3] })] } }
def hEu (n : Nat) : State := tOn.setFld F.HIF_STATUS_ETHUP n
def hF (d : Nat) (k : EthKind) : EthFrame := ⟨d, none, none, k, [1, 2, 3]⟩
def hFs (an pn : Nat) : EthFrame := ⟨2 ^ 48 - 1, none, some (an, pn), .ipv6, [1, 2, 3]⟩
def hSa : State := (hEu 3).setFlag (F.HIF_PnSAa_EN 1 2) true
def hCur : State := { hEu 3 with hif := { tOn.hif with cur := [(1, 3)] } }
def hTx : State :=
  { (hEu 3).setFld (F.HIF_PnCFG_MODE 1) 1 with
    qmg := { tOn.qmg with pkts := [(3, { hPk with queue := some 65544 })], queues := [(65544, { cells := [3] })] },
    hif := { tOn.hif with nh := [(0, (0, (F.HIF_NHk_B_VALID 0).ins 0 1))] } }
def hBad (b : Bool) : State := { (tOn.setFlag F.HIF_CFG_PROT true).setFlag F.HIF_STATUS_PROTACT b with hif := { tOn.hif with bad := some 60000, good := some 60000 } }
def hX (op a : Nat) : State := { tOn.setReg (Reg.HIF_XDATAw 0) 0x0F with hif := { tOn.hif with xcmd := some (op, a) } }
def hDone : State := tOn.setFld F.CFG_STATUS_STATE 6
def hTl : State := hTx.setFld F.CHIP_START_LEVEL 1
def hAd : State := (tOn.setFld F.QMG_TOTAL_CELLS 1000).setFlag (F.HIF_PnCFG_VTAG 1) false
def hNo : State := actSet (actSet hAd (F.QMG_ADMk_MAX 4) 0) (F.QMG_ADMk_MIN 4) 0
def hFull : State := hAd.setFld (F.QMG_CLSc_A_LIMIT (queueClass 65544)) 0
def hEr : State := hDone
def hL1 : State := hSa.setFld F.CHIP_START_LEVEL 1
def hHed : State := hX 0 512
def hEv : List Octet := [0x60, 0, 0, 0, 0, 52, 17, 1] ++ List.replicate 34 1 ++ [1, 63, 0, 52, 0, 0, 0] ++ List.replicate 45 0

theorem test_met_HostAndBackhaul :
    (∃ (s : State) (b : Bool), (s.domReady 18 = false ∨ s.on F.HIF_STATUS_PCIEUP = b ∨ b = true ∧ s.hif.perst = false)) ∧
    (∃ (s : State), s.domReady 18 = true ∧ s.on F.HIF_STATUS_PCIEUP = true) ∧
    (∃ (s : State), s.domReady 18 = true ∧ s.on F.HIF_STATUS_PCIEUP = false ∧ s.hif.perst = true ∧ s.hif.flight = []) ∧
    (∃ (s : State) (d : DescFlight), s.domReady 18 = true ∧ s.on F.HIF_STATUS_PCIEUP = false ∧ s.hif.perst = true ∧ s.hif.flight = [d] ∧
      s.hif.tags.getD' (ringKey d.tx d.ring) [] ≠ []) ∧
    (∃ (s : State) (rq : Req) (r : Nat) (n : Nat) (v : Word) (old : List DmaTag), r < 16 ∧ s.barred rq (tailFld false r).reg (some v) =
      none ∧ n = ((tailFld false r).ext v + 65536 - s.fld (headFld false r)) % 65536 ∧ n ≤ s.ringSize false r ∧ old = s.hif.tags.getD'
      (ringKey false r) []) ∧
    (∃ (s : State) (rq : Req) (r : Nat) (n : Nat) (v : Word) (old : List DmaTag), r < 16 ∧ s.barred rq (tailFld true r).reg (some v) =
      none ∧ n = ((tailFld true r).ext v + 65536 - s.fld (headFld true r)) % 65536 ∧ n ≤ s.ringSize true r ∧ old = s.hif.tags.getD'
      (ringKey true r) []) ∧
    (∃ (s : State) (rq : Req) (tx : Bool) (r : Nat) (v : Word) (i : Instr), (tx, i) ∈ [(false, Instr.rxringTailWrite rq r v), (true,
      .txringTailWrite rq r v)] ∧ r < 16 ∧ s.barred rq (tailFld tx r).reg (some v) = none ∧ s.ringSize tx r < ((tailFld tx r).ext v +
      65536 - s.fld (headFld tx r)) % 65536) ∧
    (∃ (rq : Req) (tx : Bool) (r : Nat) (v : Word) (i : Instr), (tx, i) ∈ [(false, Instr.rxringTailWrite rq r v), (true, .txringTailWrite
      rq r v)]) ∧
    (∃ (s : State) (tx : Bool) (r : Nat), (16 ≤ r ∨ s.domReady 18 = false ∨ s.on F.HIF_STATUS_PCIEUP = false ∨ s.hif.tags.getD' (ringKey
      tx r) [] = [])) ∧
    (∃ (s : State) (tx : Bool) (r : Nat) (b : DmaTag) (l : List DmaTag), r < 16 ∧ s.domReady 18 = true ∧ s.on F.HIF_STATUS_PCIEUP = true
      ∧ s.hif.tags.find (ringKey tx r) = some (b :: l)) ∧
    (∃ (s : State) (u : State) (tx : Bool) (r : Nat) (len : Nat) (src : Nat) (st : Nat) (irq : Bool), r < 16 ∧ u = s.descDone tx r len
      src st irq) ∧
    (∃ (len : Nat), (len = 0 ∨ 9216 < len)) ∧
    (∃ (s : State) (len : Nat) (q : Nat), len ≠ 0 ∧ len ≤ 9216 ∧ s.forwardRoom q (cellsFor len) = false) ∧
    (∃ (s : State) (u : State) (r : Nat) (len : Nat) (q : Nat) (data : List Octet) (x : Option Nat), len ≠ 0 ∧ len ≤ 9216 ∧ s.forwardRoom
      q (cellsFor len) = true ∧ s.acceptPkt 6 (cellsFor len) (data.take len) (.hw 19 r) { kind := 6 } = (x, u)) ∧
    (∃ (s : State) (u : State) (r : Nat) (st : Nat) (p : Pkt), s.takePkt (65600 + r) (.hw 19 r) = (some st, u) ∧ u.qmg.pkts.find st =
      some p) ∧
    (∃ (s : State) (r : Nat), (s.queue (65600 + r)).cells = []) ∧
    (∃ (s : State) (n : Nat), (2 ≤ n ∨ s.level = 0 ∨ s.domReady 18 = false ∨ s.ethUp n = false)) ∧
    (∃ (s : State) (n : Nat) (q : Nat) (f : EthFrame), n < 2 ∧ s.level ≠ 0 ∧ s.domReady 18 = true ∧ s.ethUp n = true ∧ f.sec = none ∧
      f.kind = .pause q) ∧
    (∃ (s : State) (n : Nat) (f : EthFrame), n < 2 ∧ s.level ≠ 0 ∧ s.domReady 18 = true ∧ s.ethUp n = true ∧ f.sec = none ∧ s.on
      (F.HIF_PnCFG_MSREQ n) = true ∧ f.kind.isPause = false) ∧
    (∃ (s : State) (n : Nat) (f : EthFrame), n < 2 ∧ s.level ≠ 0 ∧ s.domReady 18 = true ∧ s.ethUp n = true ∧ f.sec = none ∧ s.on
      (F.HIF_PnCFG_MSREQ n) = false ∧ f.kind.isPause = false) ∧
    (∃ (s : State) (n : Nat) (an : Nat) (pn : Nat) (f : EthFrame), n < 2 ∧ s.domReady 18 = true ∧ s.ethUp n = true ∧ f.sec = some (an,
      pn) ∧ s.replayOk n (an % 4) pn = false) ∧
    (∃ (s : State) (u : State) (t : Time) (n : Nat) (an : Nat) (pn : Nat) (f : EthFrame) (x : Option KeySlot), n < 2 ∧ s.domReady 18 =
      true ∧ s.ethUp n = true ∧ f.sec = some (an, pn) ∧ s.level ≠ 0 ∧ s.replayOk n (an % 4) pn = true ∧ (s.at t).keyRequest (.macsec n)
      (s.fld (F.HIF_PnSAa_KEYSLOT n (an % 4))) = (x, u)) ∧
    (∃ (s : State) (n : Nat) (f : EthFrame), n < 2 ∧ ¬ s.ethTakes n f) ∧
    (∃ (s : State) (v : State) (n : Nat) (f : EthFrame), s.ethTakes n f ∧ f.kind = .ipv6 ∧ f.data.length ≤ 9216 ∧ v = s.bump
      (Ctr.HIF_P0RX + 8 * n)) ∧
    (∃ (s : State) (n : Nat) (q : Nat) (ns : Nat) (f : EthFrame), s.ethTakes n f ∧ f.kind = .event q ns) ∧
    (∃ (s : State) (n : Nat) (f : EthFrame), s.ethTakes n f ∧ f.kind = .general) ∧
    (∃ (s : State) (n : Nat) (f : EthFrame), s.ethTakes n f ∧ (f.kind = .other ∨ f.kind = .ipv6 ∧ 9216 < f.data.length)) ∧
    (∃ (s : State) (n : Nat) (q : Nat) (f : EthFrame), s.ethTakes n f ∧ f.kind = .pause q) ∧
    (∃ (s : State) (n : Nat), (2 ≤ n ∨ s.domReady 18 = false)) ∧
    (∃ (s : State) (n : Nat) (st : Nat), n < 2 ∧ s.domReady 18 = true ∧ s.hif.cur.find n = some st) ∧
    (∃ (s : State) (n : Nat), n < 2 ∧ s.domReady 18 = true ∧ s.hif.cur.find n = none) ∧
    (∃ (s : State) (n : Nat), (s.level = 0 ∨ s.ethUp n = false ∨ s.ethPaused n = true ∨ s.fld (F.HIF_PnCFG_MODE n) = 0 ∨ (s.hif.cur.find
      n).isSome = true)) ∧
    (∃ (s : State) (u : State) (v : State) (n : Nat) (q : Nat) (st : Nat) (c : Nat) (p : Pkt), s.level ≠ 0 ∧ s.ethUp n = true ∧
      s.ethPaused n = false ∧ s.fld (F.HIF_PnCFG_MODE n) ≠ 0 ∧ s.hif.cur.find n = none ∧ (s.ethQueues n).find? (fun q => (s.headPkt
      q).isSome) = some q ∧ s.headPkt q = some (st, p) ∧ (F.HIF_NHk_B_VALID 0).ext (s.nextHop p.info.hop).2 = 1 ∧ s.protect n = some u ∧
      u.takePkt q (.hw 19 n) = (some c, v)) ∧
    (∃ (s : State) (n : Nat) (q : Nat) (st : Nat) (p : Pkt), s.level ≠ 0 ∧ s.ethUp n = true ∧ s.ethPaused n = false ∧ s.fld
      (F.HIF_PnCFG_MODE n) ≠ 0 ∧ s.hif.cur.find n = none ∧ (s.ethQueues n).find? (fun q => (s.headPkt q).isSome) = some q ∧ s.headPkt q =
      some (st, p) ∧ (F.HIF_NHk_B_VALID 0).ext (s.nextHop p.info.hop).2 ≠ 1) ∧
    (∃ (s : State) (n : Nat) (q : Nat) (st : Nat) (p : Pkt), s.headPkt q = some (st, p) ∧ (s.ethQueues n).find? (fun q => (s.headPkt
      q).isSome) = some q ∧ (F.HIF_NHk_B_VALID 0).ext (s.nextHop p.info.hop).2 = 1 ∧ s.protect n = none) ∧
    (∃ (s : State) (n : Nat), (s.ethQueues n).find? (fun q => (s.headPkt q).isSome) = none) ∧
    (∃ (l : List Octet), 92 ≤ l.length) ∧
    (∃ (s : State) (n : Nat), s.on (F.HIF_PnSAa_EN n (s.fld (F.HIF_PnTXAN_TXAN n))) = false) ∧
    (∃ (s : State) (u : State) (n : Nat) (an : Nat) (x : Option KeySlot), an = s.fld (F.HIF_PnTXAN_TXAN n) ∧ s.on (F.HIF_PnSAa_EN n an) =
      true ∧ s.keyRequest (.macsec n) (s.fld (F.HIF_PnSAa_KEYSLOT n an)) = (x, u)) ∧
    (∃ (s : State) (n : Nat), (2 ≤ n ∨ s.domReady 18 = false)) ∧
    (∃ (s : State) (n : Nat) (up : Bool), n < 2 ∧ s.domReady 18 = true ∧ (s.ethUp n = false ∨ up = true)) ∧
    (∃ (s : State) (n : Nat), n < 2 ∧ s.domReady 18 = true ∧ s.ethUp n = true ∧ s.sup.fs ≠ .restart ∧ s.sup.halted = false) ∧
    (∃ (s : State) (t : Time) (b : Nat), s.hif.bad = some b ∧ s.domReady 18 = true ∧ s.on F.HIF_CFG_PROT = true ∧ s.on
      F.HIF_STATUS_PROTACT = false ∧ b + 5 ≤ t.ft) ∧
    (∃ (s : State) (t : Time), (s.hif.bad = none ∨ s.domReady 18 = false ∨ s.on F.HIF_CFG_PROT = false ∨ s.on F.HIF_STATUS_PROTACT = true
      ∨ (s.hif.bad.all (fun b => decide (t.ft < b + 5))) = true)) ∧
    (∃ (s : State) (t : Time) (g : Nat), s.hif.good = some g ∧ s.domReady 18 = true ∧ s.on F.HIF_STATUS_PROTACT = true ∧ g + 1000000 *
      s.fld F.HIF_CFG_WTR ≤ t.ft) ∧
    (∃ (s : State) (t : Time), (s.hif.good = none ∨ s.domReady 18 = false ∨ s.on F.HIF_STATUS_PROTACT = false ∨ (s.hif.good.all (fun g =>
      decide (t.ft < g + 1000000 * s.fld F.HIF_CFG_WTR))) = true)) ∧
    (∃ (s : State) (v : State) (rq : Req) (k : Nat) (w : Word), k < 1024 ∧ s.barred rq (Reg.HIF_NHk_B k) (some w) = none ∧ v = s.took rq
      (Reg.HIF_NHk_B k) w) ∧
    (∃ (s : State) (v : State) (rq : Req) (k : Nat) (view : Nat) (w : Word), (view = 1 ∨ view = 2 ∨ view = 3) ∧ s.barred rq
      (Reg.HIF_NHk_B k) none = none ∧ v = (s.viewWrite rq (Reg.HIF_NHk_B k) view w).respond [] true) ∧
    (∃ (s : State) (v : State) (t : Time) (rq : Req) (w : Word), s.barred rq Reg.HIF_PTPSTEP (some w) = none ∧ v = (s.at t).took rq
      Reg.HIF_PTPSTEP w) ∧
    (∃ (s : State) (v : State) (rq : Req) (w : Word), s.barred rq Reg.HIF_TSPOP (some w) = none ∧ v = s.took rq Reg.HIF_TSPOP w) ∧
    (∃ (s : State) (v : State) (t : Time) (rq : Req) (k : Nat) (p : Nat) (w : Word) (x : Word) (c : AccCause) (i : Instr), k < 1024 ∧ (p,
      x, v, i) ∈ [(Reg.HIF_NHk_B k, w, s, Instr.nexthopApply rq k w), (Reg.HIF_PTPSTEP, w, s.at t, .ptpStep t rq w), (Reg.HIF_TSPOP, w,
      s, .hifTspop rq w), (Reg.HIF_XCMD, 0, s, .xspiRead rq), (Reg.HIF_XCMD, 1, s, .xspiErase rq), (Reg.HIF_XCMD, 2, s, .xspiProgram rq)]
      ∧ v.barred rq p (some x) = some c) ∧
    (∃ (k : Nat), 1024 ≤ k) ∧
    (∃ (s : State) (b : Nat) (l : Bool), b < 32 ∧ s.domReady 18 = true ∧ bit (s.reg Reg.HIF_GPIOIN).toNat b = !l) ∧
    (∃ (s : State) (b : Nat) (l : Bool), (32 ≤ b ∨ s.domReady 18 = false ∨ bit (s.reg Reg.HIF_GPIOIN).toNat b = l)) ∧
    (∃ (s : State) (v : State) (rq : Req), s.barred rq Reg.HIF_XCMD (some (BitVec.ofNat 32 0)) = none ∧ v = s.took rq Reg.HIF_XCMD
      (BitVec.ofNat 32 0) ∧ v.on F.HIF_XSTAT_BUSY = false ∧ v.xspiRefused 0 (v.fld F.HIF_XADDR_ADDR) = false) ∧
    (∃ (s : State) (v : State) (rq : Req), s.barred rq Reg.HIF_XCMD (some (BitVec.ofNat 32 1)) = none ∧ v = s.took rq Reg.HIF_XCMD
      (BitVec.ofNat 32 1) ∧ v.on F.HIF_XSTAT_BUSY = false ∧ v.xspiRefused 1 (v.fld F.HIF_XADDR_ADDR) = false) ∧
    (∃ (s : State) (v : State) (rq : Req), s.barred rq Reg.HIF_XCMD (some (BitVec.ofNat 32 2)) = none ∧ v = s.took rq Reg.HIF_XCMD
      (BitVec.ofNat 32 2) ∧ v.on F.HIF_XSTAT_BUSY = false ∧ v.xspiRefused 2 (v.fld F.HIF_XADDR_ADDR) = false) ∧
    (∃ (s : State) (v : State) (rq : Req) (op : Nat) (i : Instr), (op, i) ∈ [(0, Instr.xspiRead rq), (1, .xspiErase rq), (2, .xspiProgram
      rq)] ∧ s.barred rq Reg.HIF_XCMD (some (BitVec.ofNat 32 op)) = none ∧ v = s.took rq Reg.HIF_XCMD (BitVec.ofNat 32 op) ∧ v.on
      F.HIF_XSTAT_BUSY = false ∧ v.xspiRefused op (v.fld F.HIF_XADDR_ADDR) = true) ∧
    (∃ (s : State) (v : State) (rq : Req) (op : Nat) (i : Instr), (op, i) ∈ [(0, Instr.xspiRead rq), (1, .xspiErase rq), (2, .xspiProgram
      rq)] ∧ s.barred rq Reg.HIF_XCMD (some (BitVec.ofNat 32 op)) = none ∧ v = s.took rq Reg.HIF_XCMD (BitVec.ofNat 32 op) ∧ v.on
      F.HIF_XSTAT_BUSY = true) ∧
    (∃ (s : State) (v : State) (w : State) (ok : Bool) (op : Nat) (a : Nat), s.hif.xcmd = some (op, a) ∧ v = State.setFlag
      { s with hif := { s.hif with xcmd := none } } F.HIF_XSTAT_BUSY false ∧ w = (if ok then (v.xspiEffect op a).setFld
      F.HIF_XSTAT_OUTCOME 0 else v.setFld F.HIF_XSTAT_OUTCOME 2)) ∧
    (∃ (s : State) (a : Nat), s.hif.xcmd = some (0, a) ∧ ((∀ j ∈ s.kvt.journal.head?, j.started = true)) ∧ s.upd.waits = none) ∧
    (∃ (s : State) (a : Nat), s.hif.xcmd = some (1, a) ∧ ((∀ j ∈ s.kvt.journal.head?, j.started = true)) ∧ s.upd.waits = none) ∧
    (∃ (s : State) (a : Nat), s.hif.xcmd = some (2, a) ∧ ((∀ j ∈ s.kvt.journal.head?, j.started = true)) ∧ s.upd.waits = none) ∧
    (∃ (s : State) (op : Nat) (a : Nat), s.hif.xcmd = some (op, a) ∧ ((∀ j ∈ s.kvt.journal.head?, j.started = true)) ∧ s.upd.waits =
      none) ∧
    (∃ (s : State), s.hif.xcmd = none) ∧
    (∃ (s : State), s.hif.xcmd = none) :=
  ⟨⟨hUp, true, by decide⟩,
   ⟨hUp, by decide⟩,
   ⟨hPe, by decide⟩,
   ⟨hIf (fun h => { h with perst := true, flight := [⟨true, 3, true⟩] }) (hTg true tOn), ⟨true, 3, true⟩, by decide⟩,
   ⟨hTg false tOn, tSup, 3, 1, 1, [hTag], by decide⟩,
   ⟨tOn.setFld (F.HIF_TXRINGr_LEN_LOG2 3) 15, tSup, 3, 3, 3, [], by decide⟩,
   ⟨tOn, tSup, false, 3, 60000, .rxringTailWrite tSup 3 60000, by decide⟩,
   ⟨tSup, false, 16, 60000, .rxringTailWrite tSup 16 60000, by decide⟩,
   ⟨tOn, true, 3, by decide⟩,
   ⟨hTg true hUp, true, 3, hTag, [], by decide⟩,
   ⟨(hTg true hUp).setFld (headFld true 3) 65535, ((hTg true hUp).setFld (headFld true 3) 65535).descDone true 3 5 0 2 true, true, 3, 5,
     0, 2, true, by decide⟩,
   ⟨9217, by decide⟩,
   ⟨hFull, 5, 65544, by decide⟩,
   ⟨hAd, (hAd.acceptPkt 6 1 [1, 2, 3, 4, 5] (.hw 19 3) { kind := 6 }).2, 3, 5, 65544, [1, 2, 3, 4, 5], (hAd.acceptPkt 6 1 [1, 2, 3, 4, 5]
     (.hw 19 3) { kind := 6 }).1, by decide, by decide, by decide, rfl⟩,
   ⟨hRx, (hRx.takePkt 65603 (.hw 19 3)).2, 3, 3, { hPk with queue := none, holder := .hw 19 3 }, by decide⟩,
   ⟨tOn, 3, by decide⟩,
   ⟨tOn, 1, by decide⟩,
   ⟨(hEu 2).setFld F.CHIP_START_LEVEL 1, 1, 7, hF 0 (.pause 7), by decide⟩,
   ⟨((hEu 2).setFlag (F.HIF_PnCFG_MSREQ 1) true).setFld F.CHIP_START_LEVEL 1, 1, hF 0 .ipv6, by decide⟩,
   ⟨((hEu 2).setFlag (F.HIF_PnCFG_MSREQ 1) false).setFld F.CHIP_START_LEVEL 1, 1, hF 0 .ipv6, by decide⟩,
   ⟨hEu 2, 1, 6, 7, hFs 6 7, by decide⟩,
   ⟨hL1, (((hL1).at tT).keyRequest (.macsec 1) (hL1.fld (F.HIF_PnSAa_KEYSLOT 1 2))).2, tT, 1, 6, 7, hFs 6 7, (((hL1).at tT).keyRequest
     (.macsec 1) (hL1.fld (F.HIF_PnSAa_KEYSLOT 1 2))).1, by decide⟩,
   ⟨tOn, 1, hF 4 .ipv6, by decide⟩,
   ⟨hAd, hAd.bump (Ctr.HIF_P0RX + 8), 1, hF (2 ^ 48 - 1) .ipv6, by decide⟩,
   ⟨hAd, 1, 9, 1000, hF (2 ^ 48 - 1) (.event 9 1000), by decide⟩,
   ⟨hAd, 1, hF (2 ^ 48 - 1) .general, by decide⟩,
   ⟨hAd, 1, hF (2 ^ 48 - 1) .other, by decide⟩,
   ⟨hAd, 1, 9, hF (2 ^ 48 - 1) (.pause 9), by decide⟩,
   ⟨tOn, 2, by decide⟩,
   ⟨hCur, 1, 3, by decide⟩,
   ⟨hTx, 1, by decide⟩,
   ⟨tOn, 1, by decide⟩,
   ⟨hTl, hTl, (hTl.takePkt 65544 (.hw 19 1)).2, 1, 65544, 3, 3, { hPk with queue := some 65544 }, by decide⟩,
   ⟨{ hTl with hif := { hTl.hif with nh := [] } }, 1, 65544, 3, { hPk with queue := some 65544 }, by decide⟩,
   ⟨(hTl.setFlag (F.HIF_PnCFG_MSREQ 1) true), 1, 65544, 3, { hPk with queue := some 65544 }, by decide⟩,
   ⟨tOn, 1, by decide⟩,
   ⟨hEv, by decide⟩,
   ⟨tOn, 1, by decide⟩,
   ⟨hSa.setFld (F.HIF_PnTXAN_TXAN 1) 2, ((hSa.setFld (F.HIF_PnTXAN_TXAN 1) 2).keyRequest (.macsec 1) (hSa.fld (F.HIF_PnSAa_KEYSLOT 1
     2))).2, 1, 2, ((hSa.setFld (F.HIF_PnTXAN_TXAN 1) 2).keyRequest (.macsec 1) (hSa.fld (F.HIF_PnSAa_KEYSLOT 1 2))).1, by decide⟩,
   ⟨tOn, 2, by decide⟩,
   ⟨tOn, 1, true, by decide⟩,
   ⟨hEu 3, 0, by decide⟩,
   ⟨hBad false, tT, 60000, by decide⟩,
   ⟨tOn, tT, by decide⟩,
   ⟨(hBad true).setFld F.HIF_CFG_WTR 0, tT, 60000, by decide⟩,
   ⟨(hBad true).setFld F.HIF_CFG_WTR 1, tT, by decide⟩,
   ⟨tOn, tOn.took tSup (Reg.HIF_NHk_B 1023) 5, tSup, 1023, 5, by decide⟩,
   ⟨tOn, ((tOn.viewWrite tSup (Reg.HIF_NHk_B 1023) 1 5).respond [] true), tSup, 1023, 1, 5, by decide⟩,
   ⟨tOn, (tOn.at tT).took tSup Reg.HIF_PTPSTEP 5, tT, tSup, 5, by decide⟩,
   ⟨tOn, tOn.took tSup Reg.HIF_TSPOP 1, tSup, 1, by decide⟩,
   ⟨State.reset, State.reset, tT, tSup, 3, Reg.HIF_NHk_B 3, 5, 5, .nodomain, .nexthopApply tSup 3 5, by decide⟩,
   ⟨1024, by decide⟩,
   ⟨tOn.setReg Reg.HIF_GPIOIEN 0xFFFFFFFF, 31, true, by decide⟩,
   ⟨tOn, 31, false, by decide⟩,
   ⟨hDone, hDone.took tSup Reg.HIF_XCMD (BitVec.ofNat 32 0), tSup, by decide⟩,
   ⟨hEr, hEr.took tSup Reg.HIF_XCMD (BitVec.ofNat 32 1), tSup, by decide⟩,
   ⟨hDone, hDone.took tSup Reg.HIF_XCMD (BitVec.ofNat 32 2), tSup, by decide⟩,
   ⟨tOn, tOn.took tSup Reg.HIF_XCMD (BitVec.ofNat 32 1), tSup, 1, .xspiErase tSup, by decide⟩,
   ⟨hHed.setFlag F.HIF_XSTAT_BUSY true, (hHed.setFlag F.HIF_XSTAT_BUSY true).took tSup Reg.HIF_XCMD (BitVec.ofNat 32 1), tSup, 1,
     .xspiErase tSup, by decide⟩,
   ⟨hX 2 512, State.setFlag { hX 2 512 with hif := { (hX 2 512).hif with xcmd := none } } F.HIF_XSTAT_BUSY false, (State.setFlag
     { hX 2 512 with hif := { (hX 2 512).hif with xcmd := none } } F.HIF_XSTAT_BUSY false).setFld F.HIF_XSTAT_OUTCOME 2, false, 2, 512,
     by decide⟩,
   ⟨hX 0 512, 512, by decide⟩,
   ⟨hX 1 512, 512, by decide⟩,
   ⟨hX 2 512, 512, by decide⟩,
   ⟨hX 2 512, 2, 512, by decide⟩,
   ⟨tOn, by decide⟩,
   ⟨tOn, by decide⟩⟩

/-! ### Witnesses: SUP, PRC and TST -/

def sRun : State := tOn.setFlag F.SUP_STATUS_RUN true
def sUp (x : Sup) (s : State) : State := { s with sup := x }
def sNt : Notice := ⟨3, 23, 1, 0xFFFF, 2, 0, false, 2⟩
def sPr (l : List (Nat × Nat)) : State := sUp { prcRestarts := l } (tOn.setFld F.PRC_STATUS_RUN 15)
def sW (n : Word) (s : State) : State := (s.at tT).took tSup Reg.SUP_WDOG n
def sDbg (n : Nat) : State := ((sRun.setFlag F.CHIP_WMAP1_LOCKED true).setFld F.CHIP_WMAP1_DBG n).setFld F.PRC_STATUS_RUN 15
def sLe : LogEntry := ⟨0, 3, false, 1, 2, 0, 2, false, 0⟩
def sGt : State := (tOn.setFlag F.GTB_STATUS_VALID true).setFld F.GTB_STATUS_STATE 1
def sPk (d : List Octet) (src : Nat) : Pkt := { cells := [3], data := d, arr := 0, src := src, holder := .none, queue := some 65587, pushed := 1, info := {} }
def sQ : State :=
  { tOn.setFld F.PRC_STATUS_RUN 15 with qmg := { tOn.qmg with pkts := [(3, sPk [1] 6)], queues := [(65587, { cells := [3] })] } }
def sIp (h : Octet) : List Octet := [0x60, 0, 0, 0, 0, 0, 59, h] ++ List.replicate 32 1
def sTw (d l m f : Nat) : Word := BitVec.ofNat 32 (d + 32 * l + 64 * m + 128 * f + 256 * 9)
def sTk (w : Word) (s : State) : State := (s.at tT).took tSup Reg.TST_CMD w
def sT (p : Nat) (r : TestRun) : State := { tOn.setFld F.TST_STATUS_PHASE p with tst := { tOn.tst with run := some r } }
def sR (f : Bool) (b : List Nat) : TestRun := { dom := 14, lbist := true, mbist := false, tag := 9, back := .on, lfail := f, bad := b }
def sOff : State := { tOn with pwr := { tOn.pwr with doms := listSet tOn.pwr.doms 11 {} } }
def sDw (s : State) : State := { s with upd := { s.upd with run := some ⟨0, 1, 1, 1, 1⟩ } }
def sPk2 : State := { (sPr []) with qmg := { tOn.qmg with pkts := [(3, { sPk [1] 6 with holder := .init .prc, queue := none })] } }
def sAon : State := { tOn.setFlag F.PWR_CLKSEL_AONSRC true with sup := { refclkLost := true }, gtb := { tOn.gtb with holdRec := some ⟨5, 6, 7, 1, 2, 3, 1⟩ } }
def sNb : Nbr :=
  { eui := 9, node := 77, st := 1, key := 0, sw := 0, par := 0, dep := 0, rxHigh := 0, rxWin := 0, supto := 1, lastGt := 0, drift := 0,
    unc := 0, theta := 0, guard := 7, wide := 0, retries := 0, heard := false }
def sNbr : State := tOn.setNbr 5 sNb
def sLane : Lane :=
  { state := 2, hunter := 0, slice := 0, phy := false, lh := 3, timing := 0, detGt := 100, detFt := 5, sfdGt := 200, meas := ⟨-400, -32768, 40, 100⟩,
    hdr := none, hdrWord := 0, retro := false, catchup := true, delay := 0, ovl := 0, div := false, lostLow := false,
    lostHigh := false, thr := 0x01010101, search := none, waiting := true }
def sStr : Stream := ⟨6, .msq, 5, 5 * 16777216 - 90000, 100, 0, true, 0, 0⟩
def sJob : SicJob := ⟨0, 0, false, false, 0, .queued, [], 100, 200, 5, 5, 150, 0, 0, false, 0⟩
def sRt : State := { sQ.setNbr 5 sNb with prc := { sQ.prc with parents := [(78, [77])] } }
def sDio : Dio := ⟨[155, 1, 0, 0], 256, true, 0, 1, 0, 2048, 256, 255, 60, []⟩
def sTf : State := tOn.setFld F.PRC_STATUS_RUN 15
def sRet : State := { sT 1 { dom := 15, lbist := true, mbist := false, tag := 9, back := .ret } with pwr := { tOn.pwr with doms := listSet tOn.pwr.doms 15 { mode := .ret } } }
def sCx : State := ((sQ.setFlag (F.PRC_CTXcLEN_VALID 0) true).setFld (F.PRC_CTXcLEN_LEN 0) 64).setRegs (Reg.PRC_CTXc_w 0 0) [0x20]
def sDr : State := { sT 1 (sR false []) with sic := { tOn.sic with jobs := [sJob] } }
def sFull : State := { tOn with prc := { tOn.prc with parents := List.replicate 262144 (0, []) } }
theorem sLong : 9216 < (List.replicate 9217 (1 : Octet)).length := by
  rw [List.length_replicate]
  decide
theorem sLongCells : (0 : Nat) < cellsFor (List.replicate 9217 (1 : Octet)).length := by
  rw [List.length_replicate]
  decide

theorem test_met_Supervision :
    (∃ (s : State), s.on F.SUP_STATUS_RUN = false ∧ s.sup.fs = .normal) ∧
    (∃ (s : State), (s.on F.SUP_STATUS_RUN = true ∨ s.sup.fs ≠ .normal)) ∧
    (∃ (s : State) (t : Time), (s.sup.fs = .restart ∨ s.on F.SUP_STATUS_RUN = true) ∧ s.sup.halted = false ∧ s.pausing = false ∧
      s.sup.wdFt + s.fld F.SUP_CFG_WDPER ≤ t.ft) ∧
    (∃ (s : State) (t : Time), (s.sup.halted = true ∨ s.pausing = true ∨ t.ft < s.sup.wdFt + s.fld F.SUP_CFG_WDPER ∨ s.sup.fs ≠ .restart
      ∧ s.on F.SUP_STATUS_RUN = false)) ∧
    (∃ (s : State) (v : State) (t : Time) (rq : Req) (w : Word), s.barred rq Reg.SUP_WDOG (some w) = none ∧ v = (s.at t).took rq
      Reg.SUP_WDOG w ∧ F.SUP_WDOG_KICK.ext w = 0x5A5A) ∧
    (∃ (s : State) (v : State) (t : Time) (rq : Req) (w : Word), s.barred rq Reg.SUP_WDOG (some w) = none ∧ v = (s.at t).took rq
      Reg.SUP_WDOG w ∧ F.SUP_WDOG_KICK.ext w ≠ 0x5A5A) ∧
    (∃ (s : State) (v : State) (t : Time) (rq : Req) (p : Nat) (w : Word) (c : AccCause) (i : Instr), (p, w, v, i) ∈ [(Reg.SUP_WDOG, w,
      s.at t, Instr.supWdogKick t rq w), (Reg.SUP_LOGPOP, 1, s, .supLogpop rq)] ∧ v.barred rq p (some w) = some c) ∧
    (∃ (s : State), s.sup.fs = .keel) ∧
    (∃ (s : State) (v : State) (u : State) (c : Nat), s.sup.fs = .normal ∧ (s.sup.restartAt.all (fun b => decide (b + 10000000 ≤
      s.gtb.ft))) = true ∧ v = s.recordNotice (s.mkNotice c 17 1 0xFFFF 1 s.gtIfValid) ∧ u = s.supFail c) ∧
    (∃ (s : State) (v : State), (s.sup.fs = .restart ∨ s.sup.fs = .normal ∧ (s.sup.restartAt.any (fun b => decide (s.gtb.ft < b +
      10000000))) = true) ∧ v = s.replay) ∧
    (∃ (s : State) (u : State), u = s.enterKeel) ∧
    (∃ (s : State), s.sup.fs = .restart ∧ s.sup.notices = []) ∧
    (∃ (s : State) (v : State) (t : Time), s.sup.fs = .restart ∧ v = State.setFlag { s.at t with sup := { s.sup with fs := .normal } }
      F.SUP_STATUS_RUN true) ∧
    (∃ (s : State) (u : State), u = s.showFs) ∧
    (∃ (s : State), s.sup.fs ≠ .restart) ∧
    (∃ (s : State), (s.sup.fs = .restart ∨ s.sup.halted = true) ∧ s.sup.notices.length < 32) ∧
    (∃ (s : State) (u : State) (n : Notice), (s.sup.fs = .restart ∨ s.sup.halted = true) ∧ 32 ≤ s.sup.notices.length ∧ u = s.report n) ∧
    (∃ (s : State), s.sup.fs ≠ .restart ∧ s.sup.halted = false) ∧
    (∃ (s : State) (u : State) (n : Notice), u = s.recordNotice n) ∧
    (∃ (s : State) (p : Nat), (4 ≤ p ∨ bit (s.fld F.PRC_STATUS_RUN) p = false)) ∧
    (∃ (s : State) (t : Time) (p : Nat), p < 4 ∧ bit (s.fld F.PRC_STATUS_RUN) p = true ∧ (s.sup.prcRestarts.filter (fun x => x.1 == p &&
      Nat.blt t.ft (x.2 + 10000000))).length < 3) ∧
    (∃ (s : State) (t : Time) (p : Nat), p < 4 ∧ bit (s.fld F.PRC_STATUS_RUN) p = true ∧ 3 ≤ (s.sup.prcRestarts.filter (fun x => x.1 == p
      && Nat.blt t.ft (x.2 + 10000000))).length) ∧
    (∃ (s : State) (p : Nat), p < 4 ∧ s.upd.run.isSome = true ∧ bit (s.fld F.PRC_STATUS_HELD) p = false ∧ bit (s.fld F.PRC_STATUS_RUN) p
      = false ∧ (s.sup.prcRestarts.any (fun x => x.1 == p)) = true) ∧
    (∃ (s : State) (p : Nat), (4 ≤ p ∨ s.upd.run = none ∨ bit (s.fld F.PRC_STATUS_HELD) p = true ∨ bit (s.fld F.PRC_STATUS_RUN) p = true
      ∨ (s.sup.prcRestarts.any (fun x => x.1 == p)) = false)) ∧
    (∃ (s : State) (v : State), v = s.bump Ctr.SUP_FSREPL) ∧
    (∃ (s : State), s.sup.fs ≠ .restart ∧ s.sup.halted = false) ∧
    (∃ (s : State), s.domReady 17 = false) ∧
    (∃ (s : State) (u : State) (reader : Nat) (ch : Nat) (region : Nat) (addr : Nat), s.domReady 17 = true ∧ u = s.contain (.dram true
      reader ch region addr)) ∧
    (∃ (s : State), s.domReady 17 = true) ∧
    (∃ (s : State) (r : Nat) (n : Nbr), s.on F.MEM_STATUS_TRAINED = false ∧ s.nbr r = some n) ∧
    (∃ (s : State) (r : Nat), (s.on F.MEM_STATUS_TRAINED = true ∨ s.nbr r = none)) ∧
    (∃ (s : State) (u : State), u = s.strike F.SUP_AUDIT_MSQ) ∧
    (∃ (s : State) (id : Nat) (j : SicJob), s.sic.jobs.find? (fun x => x.id == id) = some j) ∧
    (∃ (s : State) (id : Nat), s.sic.jobs.find? (fun x => x.id == id) = none) ∧
    (∃ (s : State) (l : Nat) (x : Lane), s.dmx.lanes.find l = some x) ∧
    (∃ (s : State) (l : Nat), s.dmx.lanes.find l = none) ∧
    (∃ (s : State) (id : Nat) (n : Nat) (x : Stream), s.findStream id = some (n, x)) ∧
    (∃ (s : State) (id : Nat), s.findStream id = none) ∧
    (∃ (s : State) (c : Nat), (s.qmg.pkts.find c).isSome = true) ∧
    (∃ (s : State) (c : Nat), s.qmg.pkts.find c = none) ∧
    (∃ (s : State) (n : Nat) (c : Nat) (p : Pkt), s.qmg.pkts.find c = some p ∧ p.holder = .hw 19 n) ∧
    (∃ (s : State) (n : Nat) (c : Nat), ((s.qmg.pkts.find c).any (fun p => p.holder == .hw 19 n)) = false) ∧
    (∃ (s : State) (v : State) (rq : Req), s.barred rq Reg.SUP_LOGPOP (some 1) = none ∧ v = s.took rq Reg.SUP_LOGPOP 1) ∧
    (∃ (s : State), ((if (s.dom 1).mode = .on then s.sup.refclkLost = true else s.pwr.mode ≠ .inMode .aononly ∨ s.on F.PWR_CLKSEL_AONSRC
      = false ∧ s.on F.PWR_STATUS_XTALFAIL = false))) ∧
    (∃ (s : State), (s.dom 1).mode ≠ .on ∧ s.pwr.mode = .inMode .aononly ∧ (s.on F.PWR_CLKSEL_AONSRC = true ∨ s.on F.PWR_STATUS_XTALFAIL
      = true)) ∧
    (∃ (s : State), s.sup.refclkLost = false ∧ s.sysOn ∧ (s.on F.PWR_CLKSEL_AONSRC = true ∨ s.gtValid = false ∨ s.gtbState = 2)) ∧
    (∃ (s : State), s.sup.refclkLost = false ∧ s.sysOn ∧ s.on F.PWR_CLKSEL_AONSRC = false ∧ s.gtValid = true ∧ s.gtbState ≠ 2) ∧
    (∃ (s : State), s.sup.refclkLost = false) ∧
    (∃ (s : State), s.sup.refclkLost = true ∧ (s.on F.PWR_CLKSEL_AONSRC = false ∨ s.gtb.holdRec = none)) ∧
    (∃ (s : State), s.sup.refclkLost = true ∧ s.on F.PWR_CLKSEL_AONSRC = true ∧ s.gtb.holdRec.isSome = true) ∧
    (∃ (s : State), F.CHIP_WMAP1_DBG.ext (s.wmap Reg.CHIP_WMAP1) = 2 ∧ s.on F.SUP_STATUS_RUN = true) ∧
    (∃ (s : State), (F.CHIP_WMAP1_DBG.ext (s.wmap Reg.CHIP_WMAP1) ≠ 2 ∨ s.on F.SUP_STATUS_RUN = false)) ∧
    (∃ (s : State) (p : Nat), ((F.CHIP_WMAP1_DBG.ext (s.wmap Reg.CHIP_WMAP1) ≠ 1 ∧ F.CHIP_WMAP1_DBG.ext (s.wmap Reg.CHIP_WMAP1) ≠ 2) ∨ 4
      ≤ p ∨ bit (s.fld F.PRC_STATUS_RUN) p = false)) ∧
    (∃ (s : State) (p : Nat), (F.CHIP_WMAP1_DBG.ext (s.wmap Reg.CHIP_WMAP1) = 2 ∨ F.CHIP_WMAP1_DBG.ext (s.wmap Reg.CHIP_WMAP1) = 1 ∧ bit
      (s.fld F.PRC_STATUS_SECCTX) p = false) ∧ p < 4 ∧ bit (s.fld F.PRC_STATUS_RUN) p = true) ∧
    (∃ (s : State) (p : Nat), F.CHIP_WMAP1_DBG.ext (s.wmap Reg.CHIP_WMAP1) = 1 ∧ p < 4 ∧ bit (s.fld F.PRC_STATUS_RUN) p = true ∧ bit
      (s.fld F.PRC_STATUS_SECCTX) p = true) ∧
    (∃ (s : State), s.sup.halted = true ∧ s.sup.fs = .restart) ∧
    (∃ (s : State), s.sup.halted = true ∧ s.sup.fs ≠ .restart) ∧
    (∃ (s : State), s.sup.halted = false) ∧
    (∃ (s : State), F.CHIP_WMAP1_DBG.ext (s.wmap Reg.CHIP_WMAP1) = 2 ∧ s.on F.KVT_CFG_APPROVED = false ∧ s.domReady 16 = true) ∧
    (∃ (s : State), (F.CHIP_WMAP1_DBG.ext (s.wmap Reg.CHIP_WMAP1) ≠ 2 ∨ s.on F.KVT_CFG_APPROVED = true ∨ s.domReady 16 = false)) ∧
    (∃ (s : State), s.kvt.scan = true ∧ s.upd.waits = none) ∧
    (∃ (s : State), s.kvt.scan = true) ∧
    (∃ (s : State), s.kvt.scan = false) :=
  ⟨⟨tOn, by decide⟩,
   ⟨sRun, by decide⟩,
   ⟨sRun, tT, by decide⟩,
   ⟨sUp { wdFt := 70000 } (sRun.setFld F.SUP_CFG_WDPER 100), tT, by decide⟩,
   ⟨sRun, sW 0x5A5A sRun, tT, tSup, 0x5A5A, by decide⟩,
   ⟨sRun, sW 1 sRun, tT, tSup, 1, by decide⟩,
   ⟨State.reset, State.reset.at tT, tT, tSup, Reg.SUP_WDOG, 5, .nodomain, .supWdogKick tT tSup 5, by decide⟩,
   ⟨sUp { fs := .keel } tOn, by decide⟩,
   ⟨sRun, sRun.recordNotice (sRun.mkNotice 2 17 1 0xFFFF 1 sRun.gtIfValid), sRun.supFail 2, 2, by decide⟩,
   ⟨sUp { restartAt := some 60000 } sRun, (sUp { restartAt := some 60000 } sRun).replay, by decide⟩,
   ⟨sRun, sRun.enterKeel, by decide⟩,
   ⟨sUp { fs := .restart } tOn, by decide⟩,
   ⟨sUp { fs := .restart, notices := [sNt] } tOn, State.setFlag
     { (sUp { fs := .restart, notices := [sNt] } tOn).at tT with sup := { (sUp { fs := .restart, notices := [sNt] } tOn).sup with fs := .normal } }
     F.SUP_STATUS_RUN true, tT, by decide⟩,
   ⟨sUp { fs := .keel, notices := [sNt] } tOn, (sUp { fs := .keel, notices := [sNt] } tOn).showFs, by decide⟩,
   ⟨tOn, by decide⟩,
   ⟨sUp { fs := .restart } tOn, by decide⟩,
   ⟨sUp { halted := true, notices := List.replicate 32 sNt } tOn, (sUp { halted := true, notices := List.replicate 32 sNt } tOn).report
     sNt, sNt, by decide⟩,
   ⟨tOn, by decide⟩,
   ⟨tOn, tOn.recordNotice sNt, sNt, by decide⟩,
   ⟨tOn, 4, by decide⟩,
   ⟨sPr [], tT, 3, by decide⟩,
   ⟨sPr [(3, 5), (3, 6), (3, 7)], tT, 3, by decide⟩,
   ⟨sDw (sUp { prcRestarts := [(2, 5)] } tOn), 2, by decide⟩,
   ⟨tOn, 4, by decide⟩,
   ⟨sUp { halted := true } tOn, (sUp { halted := true } tOn).bump Ctr.SUP_FSREPL, by decide⟩,
   ⟨tOn, by decide⟩,
   ⟨State.reset, by decide⟩,
   ⟨tOn, tOn.contain (.dram true 1 2 3 4), 1, 2, 3, 4, by decide⟩,
   ⟨tOn, by decide⟩,
   ⟨sNbr, 5, sNb, by decide⟩,
   ⟨tOn, 5, by decide⟩,
   ⟨tOn, tOn.strike F.SUP_AUDIT_MSQ, by decide⟩,
   ⟨{ tOn with sic := { tOn.sic with jobs := [sJob] } }, 0, sJob, by decide⟩,
   ⟨tOn, 3, by decide⟩,
   ⟨{ tOn with dmx := { tOn.dmx with lanes := [(4, sLane)] } }, 4, sLane, by decide⟩,
   ⟨tOn, 3, by decide⟩,
   ⟨tOn.setPort 3 { streams := [sStr] }, 6, 3, sStr, by decide⟩,
   ⟨tOn, 3, by decide⟩,
   ⟨sQ, 3, by decide⟩,
   ⟨tOn, 3, by decide⟩,
   ⟨{ tOn with qmg := { tOn.qmg with pkts := [(3, { sPk [1] 6 with holder := .hw 19 1, queue := none })] } }, 1, 3,
     { sPk [1] 6 with holder := .hw 19 1, queue := none }, by decide⟩,
   ⟨tOn, 1, 3, by decide⟩,
   ⟨sUp { log := [sLe] } tOn, (sUp { log := [sLe] } tOn).took tSup Reg.SUP_LOGPOP 1, tSup, by decide⟩,
   ⟨State.reset, by decide⟩,
   ⟨{ State.reset.setFlag F.PWR_STATUS_XTALFAIL true with pwr := { State.reset.pwr with mode := .inMode .aononly } }, by decide⟩,
   ⟨tOn, by decide⟩,
   ⟨sGt.setFlag F.PWR_CLKSEL_AONSRC false, by decide⟩,
   ⟨tOn, by decide⟩,
   ⟨sUp { refclkLost := true } tOn, by decide⟩,
   ⟨sAon, by decide⟩,
   ⟨sDbg 2, by decide⟩,
   ⟨sDbg 1, by decide⟩,
   ⟨sDbg 0, 0, by decide⟩,
   ⟨sDbg 1, 3, by decide⟩,
   ⟨(sDbg 1).setFld F.PRC_STATUS_SECCTX 8, 3, by decide⟩,
   ⟨sUp { halted := true, fs := .restart } tOn, by decide⟩,
   ⟨sUp { halted := true, notices := [sNt] } tOn, by decide⟩,
   ⟨tOn, by decide⟩,
   ⟨sDbg 2, by decide⟩,
   ⟨sDbg 1, by decide⟩,
   ⟨{ tOn with kvt := { tOn.kvt with scan := true } }, by decide⟩,
   ⟨{ tOn with kvt := { tOn.kvt with scan := true } }, by decide⟩,
   ⟨tOn, by decide⟩⟩

theorem test_met_ProcessorsAndTests :
    (∃ (s : State) (c : PrcCtx), s.prcRuns c.proc = false) ∧
    (∃ (s : State) (v : State) (t : Time) (q : Nat) (c : PrcCtx), s.prcRuns c.proc = true ∧ v = (s.at t).prcEnter c ∧ (16 ≤ q ∨
      v.prcServes c.proc q = false)) ∧
    (∃ (s : State) (v : State) (u : State) (t : Time) (q : Nat) (c : PrcCtx), s.prcRuns c.proc = true ∧ v = (s.at t).prcEnter c ∧ q < 16
      ∧ v.prcServes c.proc q = true ∧ v.takePkt (65584 + q) (.init .prc) = (none, u)) ∧
    (∃ (s : State) (v : State) (u : State) (t : Time) (q : Nat) (st : Nat) (c : PrcCtx) (x : Pkt), s.prcRuns c.proc = true ∧ v = (s.at
      t).prcEnter c ∧ q < 16 ∧ v.prcServes c.proc q = true ∧ v.takePkt (65584 + q) (.init .prc) = (some st, u) ∧ u.qmg.pkts.find st =
      some x) ∧
    (∃ (s : State) (u : State) (p : Nat) (b : Bool), p < 4 ∧ (b = true ∨ s.sup.haltWait.contains p = false) ∧ u = s.prcEnter ⟨p, b, []⟩)
      ∧
    (∃ (s : State) (u : State) (p : Nat) (l : List DataAcc), p < 4 ∧ s.sup.haltWait.contains p = true ∧ u = s.prcEnter ⟨p, false, l⟩) ∧
    (∃ (s : State) (v : State) (p : Nat) (b : Bool) (l : List DataAcc), p < 4 ∧ (b = true ∨ s.sup.haltWait.contains p = false) ∧
      s.sup.prcHalt.contains p = false ∧ v = s.prcEnter ⟨p, b, l⟩) ∧
    (∃ (s : State) (u : State) (rq : Req) (st : Nat) (p : Pkt), u = s.prcWork rq 0 st p (.uplink none)) ∧
    (∃ (l : List Octet), hops l ≤ 1) ∧
    (∃ (l : List Octet), 1 < hops l) ∧
    (∃ (l : List Octet), 7 < l.length ∧ 1 < hops l) ∧
    (∃ (src : Nat) (p : Pkt), (p.src ≠ 0 ∨ p.info.eui = none ∨ src / 2 ^ 118 = 0x3FA)) ∧
    (∃ (s : State) (src : Nat) (eui : Nat) (p : Pkt), p.src = 0 ∧ p.info.eui = some eui ∧ src / 2 ^ 118 ≠ 0x3FA ∧ s.hintDirect src eui =
      true) ∧
    (∃ (s : State) (src : Nat) (eui : Nat) (p : Pkt), p.src = 0 ∧ p.info.eui = some eui ∧ src / 2 ^ 118 ≠ 0x3FA ∧ s.hintDirect src eui =
      false) ∧
    (∃ (p : Pkt), p.src ≠ 0 ∧ p.src ≠ 1 ∧ hops p.data ≤ 1) ∧
    (∃ (p : Pkt), p.src ≠ 0 ∧ p.src ≠ 1 ∧ hops p.data ≤ 1) ∧
    (∃ (p : Pkt), (p.src = 0 ∨ p.src = 1 ∨ 1 < hops p.data)) ∧
    (∃ (p : Pkt), (p.src = 0 ∨ p.src = 1 ∨ 1 < hops p.data)) ∧
    (∃ (s : State) (n : Nat), s.nodeRec n = none) ∧
    (∃ (s : State) (n : Nat) (p : Pkt) (f : List Octet) (r : Nat × Nbr), s.nodeRec n = some r ∧ cellsFor f.length ≤ p.cells.length) ∧
    (∃ (s : State) (n : Nat) (p : Pkt) (f : List Octet) (r : Nat × Nbr), s.nodeRec n = some r ∧ p.cells.length < cellsFor f.length ∧ 9216
      < f.length) ∧
    (∃ (s : State) (n : Nat) (p : Pkt) (f : List Octet) (r : Nat × Nbr), s.nodeRec n = some r ∧ p.cells.length < cellsFor f.length ∧
      f.length ≤ 9216) ∧
    (∃ (w : Nat) (x : PrcWork), (w ∈ [3, 5, 6, 7, 8] ∨ w < 9 ∧ x = .consume)) ∧
    (∃ (w : Nat) (x : PrcWork) (q : Option (List Octet)) (f : List Octet) (r : List Nat) (o : Option (Nat × List Nat)) (l : List
      LinkCmd), (w, x) ∈ [(0, .downlink f), (0, .relayed r f), (0, .rpl o l), (1, .uplink q), (1, .relayed r f), (1, .rpl o l), (2,
      .uplink q), (2, .downlink f), (2, .rpl o l), (4, .uplink q), (4, .downlink f), (4, .relayed r f)]) ∧
    (∃ (w : Nat), 9 ≤ w) ∧
    (∃ (s : State) (rq : Req), s.barred rq Reg.SLV_CMD none = none) ∧
    (∃ (s : State) (rq : Req), (s.barred rq Reg.SLV_CMD none).isSome = true) ∧
    (∃ (s : State) (u : State) (n : Nat) (ps : List Nat), (s.prc.parents.length < 262144 ∨ (s.prc.parents.find n).isSome = true) ∧ u =
      s.daoIn n ps) ∧
    (∃ (s : State) (n : Nat), 262144 ≤ s.prc.parents.length ∧ s.prc.parents.find n = none) ∧
    (∃ (s : State) (t : Time), (s.fld F.PRC_STATUS_RUN = 0 ∨ t.ft < s.prc.trickleFt + s.trickleLen / 2)) ∧
    (∃ (s : State) (t : Time), s.fld F.PRC_STATUS_RUN ≠ 0 ∧ s.prc.trickleFt + s.trickleLen / 2 ≤ t.ft) ∧
    (∃ (s : State) (d : Dio) (l : List Octet) (h : Nat), l = s.dioOctets d ∧ h = d.head.length) ∧
    (∃ (s : State) (v : State) (rq : Req), s.barred rq Reg.PRC_RPLCMD (some 1) = none ∧ v = s.took rq Reg.PRC_RPLCMD 1) ∧
    (∃ (s : State) (v : State) (t : Time) (rq : Req) (p : Nat) (w : Word) (c : AccCause) (i : Instr), (p, w, v, i) ∈ [(Reg.TST_CMD, w,
      s.at t, Instr.tstStart t rq w), (Reg.PRC_RPLCMD, 1, s, .rplRepair rq)] ∧ v.barred rq p (some w) = some c) ∧
    (∃ (s : State) (v : State) (t : Time) (rq : Req) (w : Word), s.barred rq Reg.TST_CMD (some w) = none ∧ v = (s.at t).took rq
      Reg.TST_CMD w ∧ v.on F.TST_STATUS_BUSY = true) ∧
    (∃ (s : State) (v : State) (t : Time) (rq : Req) (w : Word) (o : Nat), s.barred rq Reg.TST_CMD (some w) = none ∧ v = (s.at t).took rq
      Reg.TST_CMD w ∧ v.on F.TST_STATUS_BUSY = false ∧ v.testRefusal w = some o) ∧
    (∃ (s : State) (v : State) (t : Time) (rq : Req) (w : Word), s.barred rq Reg.TST_CMD (some w) = none ∧ v = (s.at t).took rq
      Reg.TST_CMD w ∧ v.on F.TST_STATUS_BUSY = false ∧ v.testRefusal w = none) ∧
    (∃ (s : State) (u : State) (t : Time) (w : Word) (d : Nat), d = F.TST_CMD_DOMAIN.ext w ∧ testable d = true ∧ s.pwr.doms.length = 21 ∧
      u = s.testStart t w) ∧
    (∃ (s : State) (u : State) (t : Time) (w : Word), F.TST_CMD_DOMAIN.ext w = 11 ∧ (s.dom 11).mode = .off ∧ s.pwr.doms.length = 21 ∧ u =
      s.testStart t w) ∧
    (∃ (w : Word) (d : Nat), d = F.TST_CMD_DOMAIN.ext w) ∧
    (∃ (n : Nat), n < 4) ∧
    (∃ (g : Nat), g < 8) ∧
    (∃ (s : State), s.tst.run = none) ∧
    (∃ (s : State) (r : TestRun), s.tst.run = some r ∧ s.fld F.TST_STATUS_PHASE = 1 ∧ s.drained r.dom = false) ∧
    (∃ (s : State) (x : PhaseRes) (r : TestRun), s.tst.run = some r ∧ s.fld F.TST_STATUS_PHASE = 1 ∧ s.drained r.dom = true ∧ 0 ∉
      s.testBanks r.dom x.bad) ∧
    (∃ (s : State) (x : PhaseRes) (r : TestRun), s.tst.run = some r ∧ s.fld F.TST_STATUS_PHASE = 1 ∧ s.drained r.dom = true ∧ 0 ∈
      s.testBanks r.dom x.bad) ∧
    (∃ (s : State) (r : TestRun), s.tst.run = some r ∧ s.fld F.TST_STATUS_PHASE = 2) ∧
    (∃ (s : State) (r : TestRun), s.tst.run = some r ∧ s.fld F.TST_STATUS_PHASE = 3) ∧
    (∃ (s : State) (r : TestRun), s.tst.run = some r ∧ s.fld F.TST_STATUS_PHASE = 4) ∧
    (∃ (s : State) (x : PhaseRes) (r : TestRun), s.tst.run = some r ∧ s.fld F.TST_STATUS_PHASE = 5 ∧ 0 ∈ x.bad) ∧
    (∃ (s : State) (x : PhaseRes) (r : TestRun), s.tst.run = some r ∧ s.fld F.TST_STATUS_PHASE = 5 ∧ 0 ∉ x.bad ∧ r.lfail = false ∧ r.bad
      = []) ∧
    (∃ (s : State) (x : PhaseRes) (r : TestRun), s.tst.run = some r ∧ s.fld F.TST_STATUS_PHASE = 5 ∧ 0 ∉ x.bad ∧ (r.lfail = true ∨ r.bad
      ≠ [])) ∧
    (∃ (o : Nat) (tag : Nat), o < 16 ∧ tag < 256) ∧
    (∃ (s : State) (r : TestRun), testable r.dom = true ∧ s.pwr.doms.length = 21 ∧ (s.dom r.dom).latched = none) ∧
    (∃ (s : State), s.tst.run = none) ∧
    (∃ (s : State) (r : TestRun), s.tst.run = some r ∧ testable r.dom = true ∧ r.tag < 256) ∧
    (∃ (s : State) (i : TapInstr), i ∈ [TapInstr.extest, .clamp, .highz, .extestPulse, .extestTrain] ∧ s.level = 0) ∧
    (∃ (s : State) (i : TapInstr), i ∈ [TapInstr.extest, .clamp, .highz, .extestPulse, .extestTrain] ∧ s.level ≠ 0) ∧
    (∃ (i : TapInstr), i ∈ [TapInstr.bypass, .idcode, .sample]) ∧
    (∃ (s : State) (x : Int), s.domReady 1 = true ∧ -128 ≤ x ∧ x < 128) ∧
    (∃ (s : State), s.domReady 1 = false) :=
  ⟨⟨tOn, ⟨0, true, []⟩, by decide⟩,
   ⟨tOn.setFld F.PRC_STATUS_RUN 15, ((tOn.setFld F.PRC_STATUS_RUN 15).at tT).prcEnter ⟨3, false, []⟩, tT, 16, ⟨3, false, []⟩, by decide⟩,
   ⟨sTf, (sTf.at tT).prcEnter ⟨0, true, []⟩, (((sTf.at tT).prcEnter ⟨0, true, []⟩).takePkt 65587 (.init .prc)).2, tT, 3, ⟨0, true, []⟩,
     by decide⟩,
   ⟨sQ, (sQ.at tT).prcEnter ⟨0, false, []⟩, (((sQ.at tT).prcEnter ⟨0, false, []⟩).takePkt 65587 (.init .prc)).2, tT, 3, 3, ⟨0, false,
     []⟩, { sPk [1] 6 with queue := none, holder := .init .prc }, by decide⟩,
   ⟨tOn, tOn.prcEnter ⟨3, true, []⟩, 3, true, by decide⟩,
   ⟨sUp { haltWait := [3] } tOn, (sUp { haltWait := [3] } tOn).prcEnter ⟨3, false, [⟨4, 5, true⟩]⟩, 3, [⟨4, 5, true⟩], by decide⟩,
   ⟨tOn, tOn.prcEnter ⟨3, false, [⟨4, 5, true⟩]⟩, 3, false, [⟨4, 5, true⟩], by decide⟩,
   ⟨sQ, sQ.prcWork tSup 0 3 (sPk [1] 6) (.uplink none), tSup, 3, sPk [1] 6, by decide⟩,
   ⟨sIp 1, by decide⟩,
   ⟨sIp 2, by decide⟩,
   ⟨sIp 2, by decide⟩,
   ⟨5, sPk [1] 6, by decide⟩,
   ⟨sCx, 2 ^ 125 + 2 ^ 57, 0, { sPk [1] 0 with info := { eui := some 0 } }, by decide⟩,
   ⟨sQ, 5, 9, { sPk [1] 0 with info := { eui := some 9 } }, by decide⟩,
   ⟨sPk (sIp 1) 6, by decide⟩,
   ⟨sPk (sIp 1) 6, by decide⟩,
   ⟨sPk [1] 1, by decide⟩,
   ⟨sPk (sIp 2) 6, by decide⟩,
   ⟨sRt, 78, by decide⟩,
   ⟨sRt, 77, sPk [1] 6, [1], (5, sNb), by decide⟩,
   ⟨sRt, 77, { sPk [1] 6 with cells := [] }, List.replicate 9217 1, (5, sNb), by decide, sLongCells, sLong⟩,
   ⟨sRt, 77, { sPk [1] 6 with cells := [] }, [1], (5, sNb), by decide⟩,
   ⟨8, .uplink none, by decide⟩,
   ⟨4, .downlink [1], none, [1], [], none, [], by decide⟩,
   ⟨9, by decide⟩,
   ⟨tOn, tSup, by decide⟩,
   ⟨State.reset, tSup, by decide⟩,
   ⟨tOn, tOn.daoIn 5 [1, 2, 3, 4], 5, [1, 2, 3, 4], by decide⟩,
   ⟨sFull, 5, Nat.le_of_eq (List.length_replicate (n := 262144) (a := ((0 : Nat), ([] : List Nat)))).symm, find_replicate 5 262144⟩,
   ⟨tOn, tT, by decide⟩,
   ⟨sTf.setFld F.PRC_RPLCFG_IMIN 0, tT, by decide⟩,
   ⟨sTf, sDio, sTf.dioOctets sDio, 4, by decide⟩,
   ⟨tOn.setFld F.PRC_RPLVER_VERSION 255, (tOn.setFld F.PRC_RPLVER_VERSION 255).took tSup Reg.PRC_RPLCMD 1, tSup, by decide⟩,
   ⟨State.reset, State.reset.at tT, tT, tSup, Reg.TST_CMD, 5, .nodomain, .tstStart tT tSup 5, by decide⟩,
   ⟨tOn.setFlag F.TST_STATUS_BUSY true, sTk 5 (tOn.setFlag F.TST_STATUS_BUSY true), tT, tSup, 5, by decide⟩,
   ⟨tOn, sTk (sTw 1 1 1 0) tOn, tT, tSup, sTw 1 1 1 0, 4, by decide⟩,
   ⟨tOn, sTk (sTw 11 1 0 1) tOn, tT, tSup, sTw 11 1 0 1, by decide⟩,
   ⟨sOff, sOff.testStart tT (sTw 11 1 0 1), tT, sTw 11 1 0 1, 11, by decide⟩,
   ⟨sOff, sOff.testStart tT (sTw 11 1 0 1), tT, sTw 11 1 0 1, by decide⟩,
   ⟨sTw 0 1 1 0, 0, by decide⟩,
   ⟨3, by decide⟩,
   ⟨7, by decide⟩,
   ⟨tOn, by decide⟩,
   ⟨sDr, sR false [], by decide⟩,
   ⟨sT 1 (sR false []), ⟨1, []⟩, sR false [], by decide⟩,
   ⟨sRet, ⟨1, [0]⟩, { dom := 15, lbist := true, mbist := false, tag := 9, back := .ret }, by decide⟩,
   ⟨sT 2 (sR false []), sR false [], by decide⟩,
   ⟨sT 3 (sR false []), sR false [], by decide⟩,
   ⟨sT 4 (sR false []), sR false [], by decide⟩,
   ⟨sT 5 (sR false []), ⟨1, [0]⟩, sR false [], by decide⟩,
   ⟨sT 5 (sR false []), ⟨1, []⟩, sR false [], by decide⟩,
   ⟨sT 5 (sR true [7]), ⟨1, []⟩, sR true [7], by decide⟩,
   ⟨1, 9, by decide⟩,
   ⟨sT 5 (sR false []), sR false [], by decide⟩,
   ⟨tOn, by decide⟩,
   ⟨sT 5 (sR false []), sR false [], by decide⟩,
   ⟨tOn, .clamp, by decide⟩,
   ⟨tOn.setFld F.CHIP_START_LEVEL 1, .extestTrain, by decide⟩,
   ⟨.idcode, by decide⟩,
   ⟨tOn, -128, by decide⟩,
   ⟨State.reset, by decide⟩⟩

theorem test_met_GridSlots :
    (∃ (spc : Nat) (k : Nat), 1 ≤ spc ∧ spc ≤ 6 ∧ k < spc) ∧
    (∃ (spc : Nat), 1 ≤ spc ∧ spc ≤ 6) ∧
    (∃ (s : State), 1 ≤ s.fld F.GTB_CFG_SPC ∧ s.fld F.GTB_CFG_SPC ≤ 6) :=
  ⟨⟨6, 5, by decide⟩,
   ⟨5, by decide⟩,
   ⟨tOn.setFld F.GTB_CFG_SPC 6, by decide⟩⟩

theorem test_met_SetsCompatible :
    ∃ (s : State) (r : FwSet), s.upd.run = some r :=
  ⟨{ tOn with upd := { tOn.upd with run := some ⟨0, 1, 1, 1, 1⟩ } }, ⟨0, 1, 1, 1, 1⟩, by decide⟩

/-! ### The worked example of spec/11 (R229 to R231, R236): meter N at VM-A -/

/-- N's demand and its link records with VM-A. -/
def exDem : DemRec := ⟨0x3A07, false, 0, false, 0, 64, 16, 61, 61, 900, 3600⟩
def exLink (a b : Nat) : LinkRec := ⟨a, b, 0, 2, 1, true, 64, 4, -100, 64225, 100, 100, 0, []⟩
/-- N's neighbour record at its re-join. -/
def exNbr : Nbr :=
  { eui := 1, node := 0x3A07, st := 1, key := 0, sw := 1, par := 1, dep := 0, rxHigh := 0, rxWin := 0, supto := 3600, lastGt := 0,
    drift := 0, unc := 0, theta := 0, guard := 69, wide := 0, retries := 0, heard := false }
/-- VM-A: SPC 2, slotframes 0 to 3, template 0 with L_H = 32 on channels of class 2. -/
def exA : State :=
  actSet (actSet (State.setFld { tOn with
      msq := { tOn.msq with sfs := [1024, 4096, 16384, 65536, 0, 0, 0, 0], nbrs := [(5, exNbr)] },
      slv := { tOn.slv with
        dem := [(0x3A07, exDem)],
        links := [(linkKey 0x3A07 (2 ^ 23) 2, exLink 0x3A07 (2 ^ 23)), (linkKey (2 ^ 23) 0x3A07 2, exLink (2 ^ 23) 0x3A07)] } }
    F.GTB_CFG_SPC 2) (F.MSQ_TPLt_A_CHCLASS 0) 2) (F.MSQ_TPLt_B_LH 0) 1
def exUp : Cell := ⟨41290, 3, 0, true, false, 7, 0, 5, true⟩
def exDn : Cell := ⟨41292, 3, 1, false, false, 2, 0, 5, true⟩
def exPlan (c : Cell) : PlanCell := { cell := c, plan := exA.recPlan 5, chip := 2 ^ 23, node := some 0x3A07 }
/-- A cost in whole µs an hour, rounded down. -/
def exCost (cs : List Cell) : Int := let x := (exA.cost (2 ^ 23) (exA.recPlan 5) exDem cs).1; x.1 / x.2

theorem test_worked_example :
    exA.switchFor 0x3A07 (2 ^ 23) 2 1 = some 1 ∧ exA.frameUs (exPlan exUp) 61 = 2784 ∧ exA.frameUs (exPlan exUp) 13 = 1248 ∧
    exA.cellAck (exPlan exUp) = 1504 ∧ exCost [exUp] = 24133 ∧ exCost [{ exUp with sf := 2, slot := 10 }] = 77724 ∧
    exCost [exUp, exDn] = 36770 ∧ exA.supervised (exA.recPlan 5) [exUp] = true ∧
    exA.cellsElement ⟨1, 0x932C0680, [exUp, exDn], false, 0, none, false, false⟩ =
      [0x10, 0x16, 0x01, 0x80, 0x06, 0x2C, 0x93, 0x00, 0x00, 0x01, 0x03, 0x00, 0x00, 0x02, 0x4A, 0xA1, 0x23, 0x07, 0x00, 0x4C, 0xA1,
       0x0B, 0x02, 0x00] := by decide +kernel


/-- R147, by hand: with the weights 1 and 3 the sums are 5, 6 and 0. -/
theorem test_pair_symbol : pairSymbol (1, 3) ([5, 0, 0], [0, 2, 0]) = 1 := by decide

end Sys2Proof.Machine
end

section
/-! Laws of CFG (chapter 02): how the results of the checks of an image copy are recorded, what a write of CFG_CMD that nothing
bars leaves, and FAIL_N brought up to date. -/

namespace Sys2Proof.Machine

/-! ### The record of a check -/

theorem copyErr_ne_status (k : Nat) : copyErr k ≠ Reg.CFG_STATUS := by
  unfold copyErr
  split <;> decide

theorem copyErr_not_pend (k : Nat) : isPendReg (copyErr k) = false := by
  unfold copyErr
  split <;> decide

/-- COPYn_OK of copy `k`. -/
def copyOkFld (k : Nat) : Field := if k = 0 then F.CFG_STATUS_COPY0_OK else F.CFG_STATUS_COPY1_OK

theorem State.copyOk_eq (s : State) (k : Nat) (b : Bool) : s.copyOk k b = s.setFlag (copyOkFld k) b := rfl

theorem copyOkFld_reg (k : Nat) : (copyOkFld k).reg = Reg.CFG_STATUS := by
  unfold copyOkFld
  split <;> rfl

theorem copyOkFld_apart_state (k : Nat) : Field.apart (copyOkFld k) F.CFG_STATUS_STATE = true := by
  unfold copyOkFld
  split <;> decide

theorem copyOkFld_apart_busy (k : Nat) : Field.apart (copyOkFld k) F.CFG_STATUS_BUSY = true := by
  unfold copyOkFld
  split <;> decide

theorem State.on_copyOk (s : State) (k : Nat) (b : Bool) : (s.copyOk k b).on (copyOkFld k) = b := by
  rw [State.copyOk_eq, State.on_setFlag_same]
  unfold copyOkFld
  split <;> decide

/-- The word in CFG_CnERR and COPYn_OK of copy `k` (R33, R37): `w` is the error word, 0 where there is none. -/
def State.noteCheck (s : State) (k : Nat) (w : Word) (ok : Bool) : State := (s.setReg (copyErr k) w).copyOk k ok

theorem State.noteCheck_frame (s : State) (k : Nat) (w : Word) (ok : Bool) :
    s.noteCheck k w ok = { s with regs := (s.noteCheck k w ok).regs } := rfl

theorem State.reg_noteCheck (s : State) (k : Nat) (w : Word) (ok : Bool) : (s.noteCheck k w ok).reg (copyErr k) = w := by
  unfold State.noteCheck
  rw [State.copyOk_eq, State.reg_setFlag_ne, State.reg_setReg_same]
  rw [copyOkFld_reg]
  exact copyErr_ne_status k

theorem State.on_noteCheck (s : State) (k : Nat) (w : Word) (ok : Bool) : (s.noteCheck k w ok).on (copyOkFld k) = ok :=
  State.on_copyOk _ k ok

theorem State.busy_noteCheck (s : State) (k : Nat) (w : Word) (ok : Bool) :
    (s.noteCheck k w ok).on F.CFG_STATUS_BUSY = s.on F.CFG_STATUS_BUSY := by
  unfold State.noteCheck
  rw [State.copyOk_eq, State.on_setFlag_ne _ _ _ _ (copyOkFld_apart_busy k), State.on_setReg_ne _ _ _ _ (copyErr_ne_status k).symm]

theorem State.regsBut_noteCheck {s u : State} {l : List Nat} (k : Nat) (w : Word) (ok : Bool) (h : s.regsBut u l)
    (he : copyErr k ∈ l) (hs : Reg.CFG_STATUS ∈ l) : s.regsBut (u.noteCheck k w ok) l :=
  State.regsBut_setFlag (copyOkFld k) ok (State.regsBut_setReg (copyErr k) w h he) (by rw [copyOkFld_reg]; exact hs)

/-! ### Writes of CFG_CMD -/

theorem quietReg_CFG_CMD : quietReg Reg.CFG_CMD = true := by decide

section

variable {p : Nat} (hp : quietReg p = true)
include hp

theorem State.took_quiet (s : State) (rq : Req) (v : Word) : s.took rq p v = (s.setReg p (s.reg p)).respond [] true := by
  unfold State.took
  rw [State.applyWrite_quiet s rq p v hp]

theorem State.reg_took_quiet (s : State) (rq : Req) (v : Word) (a : Nat) : (s.took rq p v).reg a = s.reg a := by
  rw [State.took_quiet hp, State.reg_respond, State.reg_setReg_self]

theorem State.fld_took_quiet (s : State) (rq : Req) (v : Word) (f : Field) : (s.took rq p v).fld f = s.fld f :=
  congrArg f.ext (State.reg_took_quiet hp s rq v f.reg)

theorem State.on_took_quiet (s : State) (rq : Req) (v : Word) (f : Field) : (s.took rq p v).on f = s.on f := by
  unfold State.on
  rw [State.fld_took_quiet hp]

theorem State.regsBut_took_quiet (s : State) (rq : Req) (v : Word) (l : List Nat) : s.regsBut (s.took rq p v) l :=
  fun a _ => State.reg_took_quiet hp s rq v a

end

/-- A write that nothing bars changes the register file and what the event hub holds. -/
theorem State.took_frame (s : State) (rq : Req) (p : Nat) (v : Word) :
    s.took rq p v = { s with regs := (s.took rq p v).regs, evt := (s.took rq p v).evt } := by
  unfold State.took
  rw [State.respond_frame, State.applyWrite_frame]

theorem State.took_cfg (s : State) (rq : Req) (p : Nat) (v : Word) : (s.took rq p v).cfg = s.cfg := by
  unfold State.took
  simp

/-- A command that nothing bars acts on the state that its write leaves (R43, R52). -/
theorem State.gated_took (s : State) (rq : Req) (p : Nat) (v : Word) (act : State → State)
    (hb : s.barred rq p (some v) = none) : s.gated rq p v act = act (s.took rq p v) := by
  unfold State.gated
  rw [hb]
  rfl

/-! ### The wait for the seal pages (R509) -/

/-- What step 8 waits for needs the registers, the flash and nothing else. -/
theorem State.sealWait_congr {s t : State} (hr : ∀ a, t.reg a = s.reg a) (hf : t.flash = s.flash) (k : Nat) :
    t.sealWait k = s.sealWait k := by
  have hrun : ∀ a n, t.octRun a n = s.octRun a n := fun a n => by
    unfold State.octRun State.regRun
    simp only [hr]
  have hread : ∀ o n, t.flashRead o n = s.flashRead o n := fun o n => by
    unfold State.flashRead
    rw [hf]
  have hchecks : ∀ h img, t.blockChecks h img = s.blockChecks h img := fun h img => by
    unfold State.blockChecks State.deviceId State.ownerAnchor
    simp only [hrun]
  have hblocks : ∀ img, t.imgBlocks1 img = s.imgBlocks1 img := fun img => by
    unfold State.imgBlocks1
    simp only [hchecks]
  have hcopy : t.imgCopy k = s.imgCopy k := by
    unfold State.imgCopy
    simp only [hread]
  have hkvt : t.kvtState = s.kvtState := congrArg F.KVT_STATUS_STATE.ext (hr _)
  unfold State.sealWait
  rw [hkvt, hcopy, hblocks]

/-! ### FAIL_N and UPD's writes -/

theorem State.reg_drive_ne (s : State) (a : Nat) (h : isPendReg a = false) : s.drive.reg a = s.reg a := by
  unfold State.drive
  exact State.reg_fireIf_ne _ _ 31 a (by decide) h

theorem State.fld_drive_ne (s : State) (f : Field) (h : isPendReg f.reg = false) : s.drive.fld f = s.fld f :=
  congrArg f.ext (State.reg_drive_ne s f.reg h)

theorem State.on_drive_ne (s : State) (f : Field) (h : isPendReg f.reg = false) : s.drive.on f = s.on f := by
  unfold State.on
  rw [State.fld_drive_ne s f h]

/-- With nothing that waits, UPD writes nothing. -/
theorem State.updResume_none (s : State) (h : s.upd.waits = none) : s.updResume = s := by
  unfold State.updResume
  rw [h]

end Sys2Proof.Machine
end

section
/-! The checks of a configuration load (R32, R33, R36, R509), for `Obligations.ConfigCheck`. -/

namespace Sys2Proof.Machine

/-! ### A copy that fails, and pass 2 -/

/-- What a copy that fails leaves of CFG and of CFG_CnERR before CFG_STATUS follows (R33). -/
def State.failNoted (s : State) (k : Nat) (e : Nat × Nat) : State :=
  let s1 := s.setReg (copyErr k) (BitVec.ofNat 32 (e.1 + 256 * e.2))
  { s1 with cfg := { s.cfg with order := s.cfg.order.drop 1, waits := none } }

theorem State.reg_failNoted (s : State) (k : Nat) (e : Nat × Nat) :
    (s.failNoted k e).reg (copyErr k) = BitVec.ofNat 32 (e.1 + 256 * e.2) :=
  State.reg_setReg_same s _ _

theorem State.copyFails_last (s : State) (k n : Nat) (e : Nat × Nat) (ho : s.cfg.order = [n]) :
    s.copyFails k e = (s.failNoted k e).cfgAwait := by
  unfold State.copyFails
  simp only [State.setReg_cfg, ho]
  rw [State.failNoted, ho]
  rfl

theorem State.copyFails_other (s : State) (k m n : Nat) (e : Nat × Nat) (ho : s.cfg.order = [m, n]) :
    s.copyFails k e = (s.failNoted k e).setFld F.CFG_STATUS_STATE 1 := by
  unfold State.copyFails
  simp only [State.setReg_cfg, ho]
  rw [State.failNoted, ho]
  rfl

/-- AWAIT (R36), where UPD has nothing to write: CFG_STATUS in it, source 11, every register but CFG_STATUS and the pending bits kept. -/
theorem State.cfgAwait_entered (s : State) (h : s.upd.waits = none) :
    s.cfgAwait.fld F.CFG_STATUS_STATE = 6 ∧ s.cfgAwait.on F.CFG_STATUS_BUSY = false ∧ (s.sysOn → s.cfgAwait.isPend 11 = true) ∧
      s.regsEvt s.cfgAwait [Reg.CFG_STATUS] ∧ s.cfgAwait.cfg = s.cfg := by
  unfold State.cfgAwait
  dsimp only
  rw [State.updResume_none _ (by simpa using h)]
  refine ⟨?_, ?_, fun hs => ?_, ?_, by simp⟩
  · rw [State.fld_drive_ne _ _ (by decide), State.fld_fire_ne _ _ _ (by decide) (by decide), State.fld_setFlag_ne _ _ _ _ (by decide),
      State.fld_setFld_same _ _ _ (by decide)]
    rfl
  · rw [State.on_drive_ne _ _ (by decide), State.on_fire_ne _ _ _ (by decide) (by decide), State.on_setFlag_same _ _ _ (by decide)]
  · exact State.isPend_drive_mono _ _ (State.isPend_fire _ _ hs)
  · refine State.regsEvt_drive (State.regsEvt_fire 11 (State.regsEvt_setFlag _ _ (State.regsEvt_setFld _ _ ?_ ?_) ?_) (by decide))
    · exact State.regsEvt_refl
    · decide
    · decide

theorem State.copyFails_awaits (s : State) (k n : Nat) (e : Nat × Nat) (ho : s.cfg.order = [n]) (hw : s.upd.waits = none) :
    (s.copyFails k e).fld F.CFG_STATUS_STATE = 6 ∧ (s.copyFails k e).on F.CFG_STATUS_BUSY = false ∧
      (s.sysOn → (s.copyFails k e).isPend 11 = true) ∧ (s.copyFails k e).reg (copyErr k) = BitVec.ofNat 32 (e.1 + 256 * e.2) ∧
      (s.copyFails k e).cfg = { s.cfg with order := [], waits := none } := by
  obtain ⟨hstate, hbusy, hsrc, hregs, hcfg⟩ := State.cfgAwait_entered (s.failNoted k e) hw
  rw [State.copyFails_last s k n e ho]
  refine ⟨hstate, hbusy, hsrc, ?_, ?_⟩
  · rw [hregs _ (by simpa using copyErr_ne_status k) (copyErr_not_pend k), State.reg_failNoted]
  · rw [hcfg, State.failNoted, ho]
    rfl

theorem State.copyFails_retries (s : State) (k m n : Nat) (e : Nat × Nat) (ho : s.cfg.order = [m, n]) :
    (s.copyFails k e).fld F.CFG_STATUS_STATE = 1 ∧ (s.copyFails k e).cfg = { s.cfg with order := [n], waits := none } ∧
      (s.copyFails k e).reg (copyErr k) = BitVec.ofNat 32 (e.1 + 256 * e.2) ∧
      s.regsBut (s.copyFails k e) [copyErr k, Reg.CFG_STATUS] := by
  rw [State.copyFails_other s k m n e ho]
  refine ⟨State.fld_setFld_same _ _ _ (by decide), ?_, ?_, ?_⟩
  · rw [State.setFld_cfg, State.failNoted, ho]
    rfl
  · rw [State.reg_setFld_ne _ _ _ _ (copyErr_ne_status k), State.reg_failNoted]
  · refine State.regsBut_setFld _ _ ?_ (by simp [F.CFG_STATUS_STATE])
    exact State.regsBut_mk (State.regsBut_setReg _ _ State.regsBut_refl (by simp))

theorem State.copyPass2_cases (s : State) (k : Nat) (h : ImgHdr) (img : List Octet) :
    (∀ e, s.imgPass2 img h = .inl e → s.copyPass2 k h img = s.copyFails k e) ∧
    (∀ r e, s.imgPass2 img h = .inr r → s.imgStep13 h = some e → s.copyPass2 k h img = s.copyFails k e) ∧
    (∀ r e, s.imgPass2 img h = .inr r → s.imgStep13 h = none → s.imgStep14 r.1 = some e → s.copyPass2 k h img = s.copyFails k e) ∧
    (∀ r, s.imgPass2 img h = .inr r → s.imgStep13 h = none → s.imgStep14 r.1 = none →
      (s.copyPass2 k h img).fld F.CFG_STATUS_STATE = 3 ∧ (s.copyPass2 k h img).cfg.payload = r.2 ∧
      (s.copyPass2 k h img).cfg.copy = k ∧ (s.copyPass2 k h img).cfg.gen = h.gen ∧ (s.copyPass2 k h img).cfg.order = []) := by
  unfold State.copyPass2
  refine ⟨fun e h2 => ?_, fun r e h2 h13 => ?_, fun r e h2 h13 h14 => ?_, fun r h2 h13 h14 => ?_⟩
  · rw [h2]
  · rw [h2, h13]
  · simp only [h2, h13, h14]
  · simp only [h2, h13, h14]
    exact ⟨State.fld_setFld_same _ _ _ (by decide), rfl, rfl, rfl, rfl⟩

/-! ### CFG_CHECK_COPY and CFG_SEALGEN_RESUME -/

theorem cfgCheckCopy_in_start (s : State) (t : Time) (k : Nat) (l : List Nat) (hst : s.fld F.CFG_STATUS_STATE = 1)
    (hw : s.cfg.waits = none) (ho : s.cfg.order = k :: l) (hk : s.kvtState = 0) :
    ∃ u, exec (.cfgCheckCopy t) s = .next u ∧
      (∀ e, (s.at t).imgBlocks1 ((s.at t).imgCopy k) = .inl e → u = (s.at t).copyFails k e) ∧
      (∀ h, (s.at t).imgBlocks1 ((s.at t).imgCopy k) = .inr h → u = { s.at t with cfg := { s.cfg with waits := some k } }) := by
  have hk' : (s.at t).kvtState = 0 := hk
  refine ⟨_, rfl, fun e he => ?_, fun h hh => ?_⟩
  · simp [hst, hw, ho, hk', he]
  · simp [hst, hw, ho, hk', hh]

theorem cfgCheckCopy_after_start (s : State) (t : Time) (k : Nat) (l : List Nat) (hst : s.fld F.CFG_STATUS_STATE = 1)
    (hw : s.cfg.waits = none) (ho : s.cfg.order = k :: l) (hk : s.kvtState ≠ 0) :
    ∃ u, exec (.cfgCheckCopy t) s = .next u ∧
      (∀ e, (s.at t).imgPass1 ((s.at t).imgCopy k) = .inl e → u = (s.at t).copyFails k e) ∧
      (∀ h, (s.at t).imgPass1 ((s.at t).imgCopy k) = .inr h →
        u = ((s.at t).setFld F.CFG_STATUS_STATE 2).copyPass2 k h ((s.at t).imgCopy k)) := by
  have hk' : (s.at t).kvtState ≠ 0 := hk
  refine ⟨_, rfl, fun e he => ?_, fun h hh => ?_⟩
  · simp [hst, hw, ho, hk', he]
  · simp [hst, hw, ho, hk', hh]

theorem cfgCheckCopy_idle (s : State) (t : Time)
    (h : s.fld F.CFG_STATUS_STATE ≠ 1 ∨ s.cfg.waits.isSome = true ∨ s.cfg.order = []) :
    exec (.cfgCheckCopy t) s = .next (s.at t) := by
  change execCfgCheckCopy t s = _
  unfold execCfgCheckCopy
  rcases h with h | h | h
  · simp [h]
  · simp [h]
  · simp [h]

theorem cfgSealgenResume_load (s : State) (t : Time) (k : Nat) (hw : s.cfg.waits = some k) (hk : s.kvtState ≠ 0) :
    ∃ u, exec (.cfgSealgenResume t) s = .next u ∧
      (∀ e, (s.at t).imgPass1 ((s.at t).imgCopy k) = .inl e → u = (s.at t).copyFails k e) ∧
      (∀ h, (s.at t).imgPass1 ((s.at t).imgCopy k) = .inr h →
        u = ((s.at t).setFld F.CFG_STATUS_STATE 2).copyPass2 k h ((s.at t).imgCopy k)) := by
  have hk' : (s.at t).kvtState ≠ 0 := hk
  refine ⟨_, rfl, fun e he => ?_, fun h hh => ?_⟩
  · simp [hw, hk', he]
  · simp [hw, hk', hh]

theorem cfgSealgenResume_in_start (s : State) (t : Time) (hk : s.kvtState = 0) : exec (.cfgSealgenResume t) s = .next (s.at t) := by
  have hk' : (s.at t).kvtState = 0 := hk
  change execCfgSealgenResume t s = _
  simp [execCfgSealgenResume, hk']

theorem cfgSealgenResume_checks (s : State) (t : Time) (hk : s.kvtState ≠ 0) (hw : s.cfg.waits = none) :
    exec (.cfgSealgenResume t) s = .next (s.at t).checksResume := by
  have hk' : (s.at t).kvtState ≠ 0 := hk
  change execCfgSealgenResume t s = _
  simp [execCfgSealgenResume, hk', hw]

/-! ### CFG_RELOAD -/

theorem cfgReload_await (s : State) (rq : Req) (t : Time) (hb : (s.at t).barred rq Reg.CFG_CMD (some 1) = none)
    (hst : s.fld F.CFG_STATUS_STATE = 6) : exec (.cfgReload t rq) s = .next ((s.at t).took rq Reg.CFG_CMD 1).cfgStart.drive := by
  have h6 : ((s.at t).took rq Reg.CFG_CMD 1).fld F.CFG_STATUS_STATE = 6 := by
    rw [State.fld_took_quiet quietReg_CFG_CMD, State.fld_at, hst]
  change execCfgReload t rq s = _
  rw [execCfgReload, State.gated_took _ _ _ _ _ hb, if_pos h6]

theorem cfgReload_elsewhere (s : State) (rq : Req) (t : Time) (hb : (s.at t).barred rq Reg.CFG_CMD (some 1) = none)
    (hst : s.fld F.CFG_STATUS_STATE ≠ 6) : exec (.cfgReload t rq) s = .next ((s.at t).took rq Reg.CFG_CMD 1) := by
  have h6 : ((s.at t).took rq Reg.CFG_CMD 1).fld F.CFG_STATUS_STATE ≠ 6 := by
    rwa [State.fld_took_quiet quietReg_CFG_CMD, State.fld_at]
  change execCfgReload t rq s = _
  rw [execCfgReload, State.gated_took _ _ _ _ _ hb, if_neg h6]

/-- CFG tries both copies (R32). -/
theorem State.copyOrder_both (s : State) : s.copyOrder = [0, 1] ∨ s.copyOrder = [1, 0] := by
  unfold State.copyOrder
  dsimp only
  split
  · exact .inr rfl
  · exact .inl rfl

/-- A load that starts with a flash of 64 MiB or more (R19, R32): PASS1 and BUSY, no error recorded, both copies to try. -/
theorem State.cfgStart_pass1 (s : State) (h : 67108864 ≤ s.kvt.flash) :
    s.cfgStart.fld F.CFG_STATUS_STATE = 1 ∧ s.cfgStart.on F.CFG_STATUS_BUSY = true ∧
      s.cfgStart.reg Reg.CFG_C0ERR = 0 ∧ s.cfgStart.reg Reg.CFG_C1ERR = 0 ∧ s.cfgStart.cfg.waits = none ∧
      (s.cfgStart.cfg.order = [0, 1] ∨ s.cfgStart.cfg.order = [1, 0]) := by
  unfold State.cfgStart
  rw [if_neg (by simpa using h)]
  refine ⟨?_, State.on_setFlag_same _ _ _ (by decide), ?_, ?_, rfl, s.copyOrder_both⟩
  · rw [State.fld_setFlag_ne _ _ _ _ (by decide), State.fld_setFld_same _ _ _ (by decide)]
    rfl
  · rw [State.reg_setFlag_ne _ _ _ _ (by decide), State.reg_setFld_ne _ _ _ _ (by decide), State.reg_mk,
      State.reg_setReg_ne _ _ _ _ (by decide), State.reg_setReg_ne _ _ _ _ (by decide), State.reg_setReg_same]
  · rw [State.reg_setFlag_ne _ _ _ _ (by decide), State.reg_setFld_ne _ _ _ _ (by decide), State.reg_mk,
      State.reg_setReg_ne _ _ _ _ (by decide), State.reg_setReg_same]

/-! ### CFG_CHECK -/

/-- A check that goes past step 8 ends BUSY and records its result (R33, R38). -/
theorem State.runCheck_ready (s : State) (k : Nat) (h : s.sealWait k = false) :
    (s.runCheck k).cfg = { s.cfg with check := none } ∧ (s.runCheck k).on F.CFG_STATUS_BUSY = false ∧
      s.regsBut (s.runCheck k) [Reg.CFG_STATUS, copyErr k] ∧
      s.runCheck k = { s with regs := (s.runCheck k).regs, cfg := (s.runCheck k).cfg } := by
  have hnoted : ∃ w ok, s.runCheck k =
      (({ s with cfg := { s.cfg with check := none } }).setFlag F.CFG_STATUS_BUSY false).noteCheck k w ok := by
    unfold State.runCheck
    rw [if_neg (by simp [h])]
    dsimp only
    split
    · exact ⟨_, _, rfl⟩
    · exact ⟨_, _, rfl⟩
  obtain ⟨w, ok, hrun⟩ := hnoted
  rw [hrun]
  refine ⟨rfl, ?_, ?_, rfl⟩
  · rw [State.busy_noteCheck, State.on_setFlag_same _ _ _ (by decide)]
  · refine State.regsBut_noteCheck _ _ _ (State.regsBut_setFlag _ _ (State.regsBut_mk State.regsBut_refl) ?_) ?_ ?_
    · simp [F.CFG_STATUS_BUSY]
    · simp
    · simp

/-- A check that may not go on yet: CFG keeps the copy to check and is BUSY. -/
def State.checkKept (s : State) (k : Nat) : State :=
  ({ s with cfg := { s.cfg with check := some k } } : State).setFlag F.CFG_STATUS_BUSY true

theorem State.checkKept_result (s : State) (k : Nat) :
    (s.checkKept k).cfg = { s.cfg with check := some k } ∧ (s.checkKept k).on F.CFG_STATUS_BUSY = true ∧
      s.regsBut (s.checkKept k) [Reg.CFG_STATUS] ∧ s.checkKept k = { s with regs := (s.checkKept k).regs, cfg := (s.checkKept k).cfg } :=
  ⟨rfl, State.on_setFlag_same _ _ _ (by decide),
    State.regsBut_setFlag _ _ (State.regsBut_mk State.regsBut_refl) (by decide), rfl⟩

theorem State.runCheck_waits (s : State) (k : Nat) (h : s.sealWait k = true) : s.runCheck k = s.checkKept k := by
  unfold State.runCheck
  rw [if_pos h]
  rfl

section

variable {s : State} {rq : Req} {copy : Nat}
  (hb : s.barred rq Reg.CFG_CMD (some (BitVec.ofNat 32 (2 + 4 * (copy % 2)))) = none)

/-- The state that a CHECK taken acts on (R33). -/
abbrev State.checkTook (s : State) (rq : Req) (copy : Nat) : State :=
  s.took rq Reg.CFG_CMD (BitVec.ofNat 32 (2 + 4 * (copy % 2)))

include hb

theorem cfgCheck_busy (hbusy : s.on F.CFG_STATUS_BUSY = true) : exec (.cfgCheck rq copy) s = .next (s.checkTook rq copy) := by
  change execCfgCheck rq copy s = _
  rw [execCfgCheck, State.gated_took _ _ _ _ _ hb, State.on_took_quiet quietReg_CFG_CMD, if_pos hbusy]

theorem cfgCheck_while_upd_commits (hbusy : s.on F.CFG_STATUS_BUSY = false) (hu : s.updState = 8) :
    exec (.cfgCheck rq copy) s = .next ((s.checkTook rq copy).checkKept (copy % 2)) := by
  have hu' : (s.checkTook rq copy).updState = 8 := (State.fld_took_quiet quietReg_CFG_CMD s rq _ _).trans hu
  change execCfgCheck rq copy s = _
  rw [execCfgCheck, State.gated_took _ _ _ _ _ hb, State.on_took_quiet quietReg_CFG_CMD, if_neg (by simp [hbusy]), if_pos hu']
  rfl

theorem cfgCheck_runs (hbusy : s.on F.CFG_STATUS_BUSY = false) (hu : s.updState ≠ 8) :
    exec (.cfgCheck rq copy) s = .next ((s.checkTook rq copy).runCheck (copy % 2)) := by
  have hu' : (s.checkTook rq copy).updState ≠ 8 := fun e => hu ((State.fld_took_quiet quietReg_CFG_CMD s rq _ _).symm.trans e)
  change execCfgCheck rq copy s = _
  rw [execCfgCheck, State.gated_took _ _ _ _ _ hb, State.on_took_quiet quietReg_CFG_CMD, if_neg (by simp [hbusy]), if_neg hu']

omit hb in
theorem State.checkTook_sealWait (s : State) (rq : Req) (copy k : Nat) : (s.checkTook rq copy).sealWait k = s.sealWait k := by
  refine State.sealWait_congr (State.reg_took_quiet quietReg_CFG_CMD s rq _) ?_ k
  rw [State.took_frame]

omit hb in
theorem State.checkTook_cfg (s : State) (rq : Req) (copy : Nat) : (s.checkTook rq copy).cfg = s.cfg :=
  State.took_cfg _ _ _ _

omit hb in
/-- What a CHECK leaves that acts on the written state and changes registers and CFG alone. -/
theorem State.of_checkTook {u : State} {l : List Nat} (hregs : (s.checkTook rq copy).regsBut u l)
    (hframe : u = { s.checkTook rq copy with regs := u.regs, cfg := u.cfg }) :
    s.regsBut u l ∧ u = { s with regs := u.regs, evt := u.evt, cfg := u.cfg } := by
  constructor
  · intro a ha
    rw [hregs a ha, State.reg_took_quiet quietReg_CFG_CMD]
  · have htook : s.checkTook rq copy = { s with regs := (s.checkTook rq copy).regs, evt := (s.checkTook rq copy).evt } :=
      State.took_frame _ _ _ _
    have hevt : u.evt = (s.checkTook rq copy).evt := by rw [hframe]
    rw [htook] at hframe
    rw [hevt]
    exact hframe

omit hb in
theorem State.checkTook_checkKept (s : State) (rq : Req) (copy : Nat) :
    ((s.checkTook rq copy).checkKept (copy % 2)).cfg = { s.cfg with check := some (copy % 2) } ∧
      ((s.checkTook rq copy).checkKept (copy % 2)).on F.CFG_STATUS_BUSY = true ∧
      s.regsBut ((s.checkTook rq copy).checkKept (copy % 2)) [Reg.CFG_STATUS] ∧
      (s.checkTook rq copy).checkKept (copy % 2) =
        { s with
          regs := ((s.checkTook rq copy).checkKept (copy % 2)).regs, evt := ((s.checkTook rq copy).checkKept (copy % 2)).evt,
          cfg := ((s.checkTook rq copy).checkKept (copy % 2)).cfg } := by
  obtain ⟨hcfg, hbusy, hregs, hframe⟩ := (s.checkTook rq copy).checkKept_result (copy % 2)
  refine ⟨?_, hbusy, State.of_checkTook hregs hframe⟩
  rw [hcfg, State.checkTook_cfg]

theorem cfgCheck_waits_for_upd (hbusy : s.on F.CFG_STATUS_BUSY = false) (hu : s.updState = 8) :
    ∃ u, exec (.cfgCheck rq copy) s = .next u ∧ u.cfg = { s.cfg with check := some (copy % 2) } ∧ u.on F.CFG_STATUS_BUSY = true ∧
      s.regsBut u [Reg.CFG_STATUS] ∧ u = { s with regs := u.regs, evt := u.evt, cfg := u.cfg } :=
  ⟨_, cfgCheck_while_upd_commits hb hbusy hu, State.checkTook_checkKept s rq copy⟩

theorem cfgCheck_waits_for_seal (hbusy : s.on F.CFG_STATUS_BUSY = false) (hu : s.updState ≠ 8)
    (hs : s.sealWait (copy % 2) = true) :
    ∃ u, exec (.cfgCheck rq copy) s = .next u ∧ u.cfg = { s.cfg with check := some (copy % 2) } ∧ u.on F.CFG_STATUS_BUSY = true ∧
      s.regsBut u [Reg.CFG_STATUS] ∧ u = { s with regs := u.regs, evt := u.evt, cfg := u.cfg } := by
  refine ⟨_, ?_, State.checkTook_checkKept s rq copy⟩
  rw [cfgCheck_runs hb hbusy hu, State.runCheck_waits]
  rw [State.checkTook_sealWait, hs]

theorem cfgCheck_checks (hbusy : s.on F.CFG_STATUS_BUSY = false) (hu : s.updState ≠ 8) (hs : s.sealWait (copy % 2) = false) :
    ∃ u, exec (.cfgCheck rq copy) s = .next u ∧ u.cfg = { s.cfg with check := none } ∧ u.on F.CFG_STATUS_BUSY = false ∧
      u = (s.checkTook rq copy).runCheck (copy % 2) ∧
      s.regsBut u [Reg.CFG_STATUS, copyErr (copy % 2)] ∧ u = { s with regs := u.regs, evt := u.evt, cfg := u.cfg } := by
  obtain ⟨hcfg, hdone, hregs, hframe⟩ :=
    (s.checkTook rq copy).runCheck_ready (copy % 2) ((State.checkTook_sealWait s rq copy _).trans hs)
  refine ⟨_, cfgCheck_runs hb hbusy hu, ?_, hdone, rfl, State.of_checkTook hregs hframe⟩
  rw [hcfg, State.checkTook_cfg]

end

/-! ### CFG_OTHER_COPY_CHECK -/

theorem cfgOtherCopyCheck_idle (s : State) (h : s.fld F.CFG_STATUS_STATE ≠ 5) : exec .cfgOtherCopyCheck s = .next s := by
  change execCfgOtherCopyCheck s = _
  rw [execCfgOtherCopyCheck, if_pos h]

theorem cfgOtherCopyCheck_done (s : State) (h : s.fld F.CFG_STATUS_STATE = 5) :
    exec .cfgOtherCopyCheck s = .next s.otherCheck := by
  change execCfgOtherCopyCheck s = _
  rw [execCfgOtherCopyCheck, if_neg (by simp [h])]

/-- COPYn_OK of the copy that was not loaded. -/
theorem copyOkFld_other (k : Nat) : copyOkFld (1 - k) = if k = 0 then F.CFG_STATUS_COPY1_OK else F.CFG_STATUS_COPY0_OK := by
  unfold copyOkFld
  by_cases h : k = 0
  · subst h
    rfl
  · rw [if_pos (by omega), if_neg h]

theorem State.otherCheck_waits (s : State) (h : s.sealWait (1 - s.cfg.copy) = true) :
    s.otherCheck = { s with cfg := { s.cfg with otherWait := true } } := by
  unfold State.otherCheck
  exact if_pos h

/-! No check of an image reads what CFG holds of its own. -/

section

variable (s : State) (c : Cfg)

theorem State.hunterRules_cfg (seen hs : List Nat) :
    ({ s with cfg := c } : State).hunterRules seen hs = s.hunterRules seen hs := by
  induction hs generalizing seen with
  | nil => rfl
  | cons h t ih =>
    unfold State.hunterRules
    exact congrArg₂ (· ++ ·) rfl (ih _)

theorem State.imageRules_cfg : ({ s with cfg := c } : State).imageRules = s.imageRules := by
  have hports : ({ s with cfg := c } : State).rfpRules = s.rfpRules := rfl
  have hbudget : ∀ k, ({ s with cfg := c } : State).budgetOk k = s.budgetOk k := fun _ => rfl
  have hmask : ({ s with cfg := c } : State).maskRules = s.maskRules := rfl
  have hcover : ∀ n, ({ s with cfg := c } : State).i3Covered n = s.i3Covered n := fun _ => rfl
  have hhunter : ∀ h, ({ s with cfg := c } : State).hunterOn h = s.hunterOn h := fun _ => rfl
  unfold State.imageRules
  simp only [hports, hbudget, hmask, hcover, hhunter, State.hunterRules_cfg, State.fld_mk, State.on_mk, State.reg_mk]

theorem State.withPairs_cfg (ps : List (Nat × Nat × Word)) :
    ({ s with cfg := c } : State).withPairs ps = { s.withPairs ps with cfg := c } := by
  have hfold : ∀ u : State, ps.foldl (fun (t : State) p => t.setReg p.2.1 (p.2.2 ||| fixedOnes p.2.1)) { u with cfg := c } =
      { ps.foldl (fun (t : State) p => t.setReg p.2.1 (p.2.2 ||| fixedOnes p.2.1)) u with cfg := c } := by
    induction ps with
    | nil => exact fun _ => rfl
    | cons p ps ih => exact fun u => ih (u.setReg p.2.1 (p.2.2 ||| fixedOnes p.2.1))
  unfold State.withPairs
  dsimp only
  rw [hfold { s with regs := [], active := [] }]

theorem State.badVal_cfg (rs : List ImgRec) (fin : Nat) : ({ s with cfg := c } : State).badVal rs fin = s.badVal rs fin := by
  unfold State.badVal
  simp only [State.withPairs_cfg, State.imageRules_cfg]

theorem State.imgPass2_cfg (img : List Octet) (h : ImgHdr) : ({ s with cfg := c } : State).imgPass2 img h = s.imgPass2 img h := by
  have hopen : ∀ l, ({ s with cfg := c } : State).imgOpen l h img = s.imgOpen l h img := fun _ => rfl
  have hgen : ({ s with cfg := c } : State).sealedGen = s.sealedGen := rfl
  unfold State.imgPass2
  simp only [State.badVal_cfg, hopen, hgen]

theorem State.imgCheck_cfg (img : List Octet) : ({ s with cfg := c } : State).imgCheck img = s.imgCheck img := by
  have hpass1 : ({ s with cfg := c } : State).imgPass1 img = s.imgPass1 img := rfl
  have hstep13 : ∀ h, ({ s with cfg := c } : State).imgStep13 h = s.imgStep13 h := fun _ => rfl
  unfold State.imgCheck
  simp only [State.imgPass2_cfg, hpass1, hstep13]

end

/-- The check of the other copy, its wait over. -/
abbrev State.otherFree (s : State) : State := { s with cfg := { s.cfg with otherWait := false } }

theorem State.otherCheck_fails (s : State) (e : Nat × Nat) (hs : s.sealWait (1 - s.cfg.copy) = false)
    (he : s.imgCheck (s.imgCopy (1 - s.cfg.copy)) = some e) :
    s.otherCheck = (s.otherFree.noteCheck (1 - s.cfg.copy) (BitVec.ofNat 32 (e.1 + 256 * e.2)) false).fire 10 := by
  have he' : s.otherFree.imgCheck (s.otherFree.imgCopy (1 - s.cfg.copy)) = some e := (State.imgCheck_cfg s _ _).trans he
  unfold State.otherCheck
  rw [if_neg (by simp [hs])]
  dsimp only
  rw [he']
  rfl

theorem State.otherCheck_passes (s : State) (hs : s.sealWait (1 - s.cfg.copy) = false)
    (he : s.imgCheck (s.imgCopy (1 - s.cfg.copy)) = none) : s.otherCheck = s.otherFree.noteCheck (1 - s.cfg.copy) 0 true := by
  have he' : s.otherFree.imgCheck (s.otherFree.imgCopy (1 - s.cfg.copy)) = none := (State.imgCheck_cfg s _ _).trans he
  unfold State.otherCheck
  rw [if_neg (by simp [hs])]
  dsimp only
  rw [he']
  rfl

theorem State.regsBut_otherNoted (s : State) (w : Word) (ok : Bool) :
    s.regsBut (s.otherFree.noteCheck (1 - s.cfg.copy) w ok) [Reg.CFG_STATUS, copyErr (1 - s.cfg.copy)] :=
  State.regsBut_noteCheck _ _ _ (State.regsBut_mk State.regsBut_refl) (by simp) (by simp)

theorem cfgOtherCopyCheck_records (s : State) (h : s.fld F.CFG_STATUS_STATE = 5) (hs : s.sealWait (1 - s.cfg.copy) = false) :
    ∃ u, exec .cfgOtherCopyCheck s = .next u ∧ u.cfg = { s.cfg with otherWait := false } ∧
      (∀ e, s.imgCheck (s.imgCopy (1 - s.cfg.copy)) = some e →
        u.reg (copyErr (1 - s.cfg.copy)) = BitVec.ofNat 32 (e.1 + 256 * e.2) ∧ (s.sysOn → u.isPend 10 = true) ∧
        u.on (if s.cfg.copy = 0 then F.CFG_STATUS_COPY1_OK else F.CFG_STATUS_COPY0_OK) = false) ∧
      (s.imgCheck (s.imgCopy (1 - s.cfg.copy)) = none → u.reg (copyErr (1 - s.cfg.copy)) = 0 ∧
        u.on (if s.cfg.copy = 0 then F.CFG_STATUS_COPY1_OK else F.CFG_STATUS_COPY0_OK) = true) ∧
      s.regsEvt u [Reg.CFG_STATUS, copyErr (1 - s.cfg.copy)] ∧ u = { s with regs := u.regs, evt := u.evt, cfg := u.cfg } := by
  refine ⟨_, cfgOtherCopyCheck_done s h, ?_⟩
  rw [← copyOkFld_other]
  cases he : s.imgCheck (s.imgCopy (1 - s.cfg.copy)) with
  | none =>
    rw [State.otherCheck_passes s hs he]
    refine ⟨rfl, fun e hn => by simp at hn, fun _ => ⟨State.reg_noteCheck _ _ _ _, State.on_noteCheck _ _ _ _⟩, ?_, rfl⟩
    exact State.regsEvt_of_but (s.regsBut_otherNoted _ _)
  | some e =>
    rw [State.otherCheck_fails s e hs he]
    refine ⟨by rw [State.fire_cfg]; rfl, fun e' heq => ?_, fun hn => by simp at hn, ?_, ?_⟩
    · obtain rfl := Option.some.inj heq
      refine ⟨?_, fun hon => State.isPend_fire _ _ hon, ?_⟩
      · rw [State.reg_fire_ne _ _ _ (by decide) (copyErr_not_pend _), State.reg_noteCheck]
      · rw [State.on_fire_ne _ _ _ (by decide) (by rw [copyOkFld_reg]; decide), State.on_noteCheck]
    · exact State.regsEvt_fire _ (State.regsEvt_of_but (s.regsBut_otherNoted _ _)) (by decide)
    · rw [State.fire_frame]
      rfl

/-- Settles O31: each clause is the lemma of its command, or of the pass that the command starts. -/
theorem configCheck : Obligations.ConfigCheck :=
  ⟨cfgCheckCopy_in_start, cfgCheckCopy_after_start, cfgCheckCopy_idle, cfgSealgenResume_load, cfgSealgenResume_in_start,
    cfgSealgenResume_checks, State.copyPass2_cases, State.copyFails_awaits, State.copyFails_retries, cfgReload_await,
    cfgReload_elsewhere, State.cfgStart_pass1, fun _ _ _ => cfgCheck_busy, fun _ _ _ => cfgCheck_waits_for_upd,
    fun _ _ _ => cfgCheck_waits_for_seal, fun _ _ _ => cfgCheck_checks, cfgOtherCopyCheck_idle,
    fun s h hs => (cfgOtherCopyCheck_done s h).trans (congrArg _ (State.otherCheck_waits s hs)), cfgOtherCopyCheck_records⟩

end Sys2Proof.Machine
end

section
/-! What the lock of R30 must survive: CFG's own data and CHIP_WMAP1, which holds LOCKED. Every operation that the commit and the lock of
a load start keeps both; the lemmas below say it once for each, in the order in which the operations call each other. -/

namespace Sys2Proof.Machine

/-- CFG's own data and the word of CHIP_WMAP1 are as in `b`. -/
def LoadKept (b s : State) : Prop := s.cfg = b.cfg ∧ s.reg Reg.CHIP_WMAP1 = b.reg Reg.CHIP_WMAP1

namespace LoadKept

variable {b s t : State}

theorem refl (s : State) : LoadKept s s := ⟨rfl, rfl⟩

/-- The rest of the state may change. -/
theorem rest (h : LoadKept b s) (ht : (t.cfg, t.regs) = (s.cfg, s.regs)) : LoadKept b t :=
  ⟨(congrArg Prod.fst ht).trans h.1, (State.reg_congr (congrArg Prod.snd ht) _).trans h.2⟩

theorem cfg_eq (h : LoadKept b s) : s.cfg = b.cfg := h.1

theorem mapLocked_eq (h : LoadKept b s) : s.mapLocked = b.mapLocked := by
  unfold State.mapLocked State.on State.fld
  rw [show s.reg F.CHIP_WMAP1_LOCKED.reg = b.reg F.CHIP_WMAP1_LOCKED.reg from h.2]

/-! ### Branches and folds -/

theorem ite {c : Prop} [Decidable c] (h : LoadKept b s) (h' : LoadKept b t) : LoadKept b (if c then s else t) := by
  split
  · exact h
  · exact h'

theorem foldl {α : Type} {f : State → α → State} {l : List α} (hf : ∀ u x, LoadKept b u → LoadKept b (f u x)) (h : LoadKept b s) :
    LoadKept b (l.foldl f s) := by
  induction l generalizing s with
  | nil => exact h
  | cons a l ih => exact ih (hf s a h)

theorem foldl_snd {α β : Type} {f : β × State → α → β × State} {l : List α} {r : β × State}
    (hf : ∀ r x, LoadKept b r.2 → LoadKept b (f r x).2) (h : LoadKept b r.2) : LoadKept b (l.foldl f r).2 := by
  induction l generalizing r with
  | nil => exact h
  | cons a l ih => exact ih (hf r a h)

/-! ### Registers, events and notices -/

theorem setReg (h : LoadKept b s) (a : Nat) (v : Word) (ha : Reg.CHIP_WMAP1 < a) : LoadKept b (s.setReg a v) :=
  ⟨h.1, (State.reg_setReg_ne s a _ v (Nat.ne_of_lt ha)).trans h.2⟩

theorem setFld (h : LoadKept b s) (f : Field) (n : Nat) (hf : Reg.CHIP_WMAP1 < f.reg) : LoadKept b (s.setFld f n) :=
  setReg h _ _ hf

theorem setFlag (h : LoadKept b s) (f : Field) (x : Bool) (hf : Reg.CHIP_WMAP1 < f.reg) : LoadKept b (s.setFlag f x) :=
  setFld h _ _ hf

theorem bump (h : LoadKept b s) (c n : Nat) (hc : Reg.CHIP_WMAP1 < c) : LoadKept b (s.bump c n) :=
  setReg (setReg h _ _ hc) _ _ (Nat.lt_add_right 4 hc)

theorem setRegs (h : LoadKept b s) (a : Nat) (l : List Word) (ha : Reg.CHIP_WMAP1 < a) : LoadKept b (s.setRegs a l) := by
  induction l generalizing s a with
  | nil => exact h
  | cons v l ih => exact ih (setReg h a v ha) (a + 4) (Nat.lt_add_right 4 ha)

theorem sendMsi (h : LoadKept b s) (v : Nat) : LoadKept b (s.sendMsi v) := by
  unfold State.sendMsi
  exact ite h (ite h h)

theorem fire (h : LoadKept b s) (k : Nat) : LoadKept b (s.fire k) := by
  have hp : LoadKept b (s.setReg (Reg.EVT_PENDn (k / 32)) (s.reg (Reg.EVT_PENDn (k / 32)) ||| (1#32 <<< (k % 32)))) :=
    setReg h _ _ (Nat.lt_add_right _ (by decide))
  unfold State.fire
  exact ite h (ite (sendMsi (rest hp (by rfl)) _) hp)

theorem fireIf (h : LoadKept b s) (x : Bool) (k : Nat) : LoadKept b (s.fireIf x k) := ite (fire h k) h

theorem nextFree (h : LoadKept b s) : LoadKept b s.nextFree := h

theorem countFault (h : LoadKept b s) (n : Notice) : LoadKept b (s.countFault n) :=
  ite (setFlag (bump h _ _ (by decide)) _ _ (by decide)) (setReg (bump h _ _ (by decide)) _ _ (by decide))

theorem logPush (h : LoadKept b s) (e : LogEntry) : LoadKept b (s.logPush e) :=
  ite (fireIf (rest h (by rfl)) _ _) (fire (bump h _ _ (by decide)) 29)

theorem recordNotice (h : LoadKept b s) (n : Notice) : LoadKept b (s.recordNotice n) := fire (logPush (countFault h n) _) 24

theorem report (h : LoadKept b s) (n : Notice) : LoadKept b (s.report n) :=
  ite (ite h (bump h Ctr.SUP_NOTDROP 1 (by decide))) (recordNotice h n)

theorem reportNow (h : LoadKept b s) (cls unit detail src : Nat) : LoadKept b (s.reportNow cls unit detail src) := report h _

theorem drive (h : LoadKept b s) : LoadKept b s.drive := by
  unfold State.drive
  exact fireIf (rest h (by rfl)) _ 31

/-! ### Commit groups (R50) -/

theorem wmap1_lt_cmtstat (u : Nat) : Reg.CHIP_WMAP1 < commitReg u + 4 := by
  unfold commitReg Reg.CHIP_WMAP1
  omega

theorem stage (h : LoadKept b s) (u g : Nat) : LoadKept b (s.stage u g) := ite h (setFld h _ _ (wmap1_lt_cmtstat u))

theorem unstage (h : LoadKept b s) (u g : Nat) : LoadKept b (s.unstage u g) := setFld h _ _ (wmap1_lt_cmtstat u)

theorem activate (h : LoadKept b s) (st : Staged) : LoadKept b (s.activate st) := by
  unfold State.activate
  extract_lets m s1 s2 s3
  have h1 : LoadKept b s1 := foldl (fun _ _ h => h) h
  exact setFld (setFld (unstage h1 _ _) _ _ (wmap1_lt_cmtstat _)) _ _ (wmap1_lt_cmtstat _)

theorem commitAll (h : LoadKept b s) : LoadKept b s.commitAll :=
  foldl (fun _ _ h => fire (setFld (unstage h _ _) _ _ (wmap1_lt_cmtstat _)) _)
    (foldl (fun _ x h => setFld (activate h x) _ _ (wmap1_lt_cmtstat _)) (foldl (fun _ g h => stage h g.1 g.2) h))

theorem setErr (h : LoadKept b s) (e : Int) : LoadKept b (s.setErr e) := setFld h _ _ (by decide)

theorem slewTo (h : LoadKept b s) (e : Int) : LoadKept b (s.slewTo e) := setErr h e

theorem enterGtb (h : LoadKept b s) (code : Nat) : LoadKept b (s.enterGtb code) :=
  setFlag (setFld h _ _ (by decide)) _ _ (by decide)

theorem enterSlew (h : LoadKept b s) (e : Int) : LoadKept b (s.enterSlew e) := fire (slewTo (enterGtb h 3) e) 34

theorem regain (h : LoadKept b s) (n : Nat) : LoadKept b (s.regain n) := ite h h

theorem afterCommit (h : LoadKept b s) (old : State) (st : Staged) : LoadKept b (s.afterCommit old st) := by
  have hmask : ∀ (u : State) (c : Nat), LoadKept b u →
      LoadKept b (u.setFld (F.MSQ_HOPcLEN_VER c) (u.fld (F.MSQ_HOPcLEN_VER c) + 1)) :=
    fun _ _ h => setFld h _ _ (Nat.lt_add_right _ (by decide))
  unfold State.afterCommit
  refine ite ?_ (ite (regain h _) (ite (foldl (fun u c h => ite (hmask u c h) h) h) h))
  exact ite h (ite (ite (setErr h _) (enterSlew h _)) (ite (slewTo h _) (ite (setErr h _) h)))

theorem commitAt (h : LoadKept b s) (u g : Nat) : LoadKept b (s.commitAt u g) := by
  unfold State.commitAt
  split
  · exact h
  · exact ite (afterCommit (activate h _) _ _) (fire (setFld (unstage h _ _) _ _ (wmap1_lt_cmtstat u)) _)

/-! ### Packets and queues (chapter 12) -/

theorem setQueue (h : LoadKept b s) (q : Nat) (x : Queue) : LoadKept b (s.setQueue q x) := h

theorem updPkt (h : LoadKept b s) (start : Nat) (f : Pkt → Pkt) : LoadKept b (s.updPkt start f) := h

theorem qmgSettle (h : LoadKept b s) : LoadKept b s.qmgSettle := by
  unfold State.qmgSettle
  extract_lets f low _ s1 pins
  have h1 : LoadKept b s1 := fireIf (rest h (by rfl)) _ 132
  exact fireIf (rest h1 (by rfl)) _ 135

theorem bankTurn (h : LoadKept b s) (q : Nat) : LoadKept b (s.bankTurn q) := by
  unfold State.bankTurn
  split
  · exact h
  · exact h

theorem wmEval (h : LoadKept b s) (q : Nat) : LoadKept b (s.wmEval q) :=
  qmgSettle (bankTurn (fireIf (setQueue h q _) _ 134) q)

theorem unqueue (h : LoadKept b s) (start : Nat) (p : Pkt) : LoadKept b (s.unqueue start p) := by
  unfold State.unqueue
  split
  · exact h
  · exact wmEval (setQueue h _ _) _

theorem endPkt (h : LoadKept b s) (start : Nat) (e : PktEnd) : LoadKept b (s.endPkt start e) := by
  unfold State.endPkt
  split
  · exact h
  · rename_i p _
    have h1 : LoadKept b (s.unqueue start p) := unqueue h start p
    cases e with
    | deliv => exact qmgSettle (bump (rest h1 (by rfl)) _ _ (by decide))
    | tx => exact qmgSettle (bump (rest h1 (by rfl)) _ _ (by decide))
    | drop r =>
      have h2 : LoadKept b (State.bump { s.unqueue start p with
          qmg := { (s.unqueue start p).qmg with pkts := (s.unqueue start p).qmg.pkts.del start } } (Ctr.QMG_DROP0 + 8 * r)) :=
        bump (rest h1 (by rfl)) _ _ (Nat.lt_add_right _ (by decide))
      exact qmgSettle (fireIf (fireIf (rest h2 (by rfl)) _ 142) _ 144)

theorem ageHead (h : LoadKept b s) (q n : Nat) : LoadKept b (s.ageHead q n) := by
  induction n generalizing s with
  | zero => exact h
  | succ n ih =>
    unfold State.ageHead
    split
    · exact h
    · split
      · exact h
      · exact ite (ih (fire (endPkt h _ _) 138)) h

theorem ageNow (h : LoadKept b s) (q : Nat) : LoadKept b (s.ageNow q) := ageHead h q _

theorem endAged (h : LoadKept b s) (start : Nat) (e : PktEnd) : LoadKept b (s.endAged start e) := by
  unfold State.endAged
  split
  · exact ageNow (endPkt h start e) _
  · exact endPkt h start e

theorem takePkt (h : LoadKept b s) (q : Nat) (x : Holder) : LoadKept b (s.takePkt q x).2 := by
  unfold State.takePkt
  split
  · exact h
  · split
    · exact h
    · split
      · exact h
      · exact ageNow (wmEval (updPkt (setQueue h q _) _ _) q) q

theorem flagOvf (h : LoadKept b s) (q : Nat) : LoadKept b (s.flagOvf q) :=
  ite (setFlag h _ _ (Nat.lt_add_right _ (by decide))) (setQueue h q _)

theorem refusePush (h : LoadKept b s) (q : Nat) : LoadKept b (s.refusePush q) := fire (bump (flagOvf h q) _ _ (by decide)) 137

theorem placePkt (h : LoadKept b s) (q start : Nat) : LoadKept b (s.placePkt q start).2 := by
  unfold State.placePkt
  split
  · exact h
  · dsimp only
    split
    · exact refusePush h q
    · exact ite (ageNow (fireIf (wmEval (updPkt (setQueue h q _) _ _) q) _ 141) q)
        (fireIf (wmEval (updPkt (setQueue h q _) _ _) q) _ 141)

theorem pushPkt (h : LoadKept b s) (q : Nat) (x : Holder) (start : Nat) : LoadKept b (s.pushPkt q x start) :=
  ite (setQueue h q _) (ite (placePkt h q start) (endPkt (placePkt h q start) start _))

/-! ### Frames and rerouting of the cascade (chapter 18) -/

theorem withCsc (h : LoadKept b s) (c : Csc) : LoadKept b { s with csc := c } := h

theorem setCport (h : LoadKept b s) (n : Nat) (p : CscPort) : LoadKept b (s.setCport n p) := h

theorem stripPort (h : LoadKept b s) (n : Nat) : LoadKept b (s.stripPort n).2 := by
  unfold State.stripPort
  refine foldl_snd (fun r c hr => foldl_snd (fun a _ ha => ?_) hr) h
  have hp : LoadKept b (a.2.takePkt (cscQueue n c) (.hw 15 n)).2 := takePkt ha _ _
  split
  · rename_i heq
    rw [heq] at hp
    exact hp
  · rename_i heq
    rw [heq] at hp
    exact hp

theorem toPort (h : LoadKept b s) (n start : Nat) : LoadKept b (s.toPort n start) := by
  unfold State.toPort
  split
  · exact h
  · exact pushPkt h _ _ _

theorem holdPkt (h : LoadKept b s) (start : Nat) : LoadKept b (s.holdPkt start) := h

theorem holdCtl (h : LoadKept b s) (f : CscFrame) : LoadKept b (s.holdCtl f) := h

theorem reroute (h : LoadKept b s) (n start : Nat) : LoadKept b (s.reroute n start).2 := by
  unfold State.reroute
  split
  · exact h
  · split
    · exact holdPkt h start
    · split
      · exact toPort (bump (updPkt h _ _) _ _ (by decide)) _ _
      · exact h

theorem reroutePkts (h : LoadKept b s) (n : Nat) (pkts : List Nat) : LoadKept b (s.reroutePkts n pkts).2 :=
  foldl_snd (fun _ st hr => reroute hr n st) h

theorem putFrame (h : LoadKept b s) (n : Nat) (f : CscFrame) : LoadKept b (s.putFrame n f) :=
  bump (setCport (s := s.lineSent n) h n _) _ _ (Nat.lt_add_right _ (by decide))

theorem ctlPump (h : LoadKept b s) (n k : Nat) : LoadKept b (s.ctlPump n k) := by
  induction k generalizing s with
  | zero => exact h
  | succ k ih =>
    unfold State.ctlPump
    dsimp only
    split
    · exact h
    · exact ite (ih (putFrame (setCport h n _) n _)) h

theorem ctlFrame (h : LoadKept b s) (n : Nat) (f : CscFrame) : LoadKept b (s.ctlFrame n f) := ite h (ctlPump (setCport h n _) n _)

theorem ctlSend (h : LoadKept b s) (n dst src : Nat) (x : CscBody) : LoadKept b (s.ctlSend n dst src x) := ctlFrame h n _

theorem rerouteCtl (h : LoadKept b s) (n : Nat) (f : CscFrame) : LoadKept b (s.rerouteCtl n f).2 := by
  unfold State.rerouteCtl
  split
  · exact h
  · split
    · exact holdCtl h f
    · split
      · exact bump (ctlFrame h _ _) _ _ (by decide)
      · exact h

theorem rerouteCtls (h : LoadKept b s) (n : Nat) (fs : List CscFrame) : LoadKept b (s.rerouteCtls n fs).2 :=
  foldl_snd (fun _ f hr => rerouteCtl hr n f) h

theorem cscNoRoute (h : LoadKept b s) (start : Nat) : LoadKept b (s.cscNoRoute start) := bump (endAged h _ _) _ _ (by decide)

theorem replace (h : LoadKept b s) (start : Nat) : LoadKept b (s.replace start) := by
  unfold State.replace
  split
  · exact h
  · split
    · exact toPort h _ _
    · exact ite (holdPkt h _) (cscNoRoute h _)

theorem replaceCtl (h : LoadKept b s) (f : CscFrame) : LoadKept b (s.replaceCtl f) := by
  unfold State.replaceCtl
  split
  · exact ctlFrame h _ _
  · exact ite (holdCtl h _) h

theorem classPump (h : LoadKept b s) (n c k : Nat) : LoadKept b (s.classPump n c k).2 := by
  induction k generalizing s with
  | zero => exact h
  | succ k ih =>
    have hp : LoadKept b (s.takePkt (cscQueue n c) (.hw 15 n)).2 := takePkt h _ _
    unfold State.classPump
    split
    · exact h
    · split
      · exact h
      · split
        · exact h
        · split
          · exact ih (cscNoRoute h _)
          · split
            · exact h
            · split
              · rename_i heq
                rw [heq] at hp
                exact hp
              · rename_i heq
                rw [heq] at hp
                extract_lets own _ t1
                have h1 : LoadKept b t1 := ite hp (rest hp (by rfl))
                split
                extract_lets t2 p2 t3
                have h3 : LoadKept b t3 := setCport (updPkt h1 _ _) n _
                exact ih (bump (putFrame h3 n _) _ _ (by decide))

theorem portPump (h : LoadKept b s) (n : Nat) : LoadKept b (s.portPump n) := by
  unfold State.portPump
  refine ite h (foldl_snd (fun r c hr => ?_) (ctlPump h n _))
  split
  · exact hr
  · exact classPump hr n c _

theorem grantPort (h : LoadKept b s) (n : Nat) : LoadKept b (s.grantPort n) := ite h (setCport h n _)

theorem cscGrant (h : LoadKept b s) : LoadKept b s.cscGrant := foldl (fun _ n h => grantPort h n) h

theorem putTell (h : LoadKept b s) (n : Nat) (x : CscBody) : LoadKept b (s.putTell n x) :=
  bump (setCport (s := s.lineSent n) h n _) _ _ (Nat.lt_add_right _ (by decide))

theorem tellPort (h : LoadKept b s) (n : Nat) : LoadKept b (s.tellPort n) := by
  unfold State.tellPort
  split
  · exact h
  · extract_lets p now s1
    have h1 : LoadKept b s1 := ite h (putTell (setCport h n _) n _)
    exact ite h1 (putTell h1 n _)

theorem cscPump (h : LoadKept b s) : LoadKept b s.cscPump :=
  ite (foldl (fun _ n h => tellPort h n) (cscGrant (foldl (fun _ n h => portPump h n) h))) h

theorem floodLsa (h : LoadKept b s) (org : Nat) (l : CscLsa) (x : Nat) : LoadKept b (s.floodLsa org l x) :=
  foldl (fun _ _ h => ite h (ctlSend h _ _ _ _)) h

theorem ownLsa (h : LoadKept b s) : LoadKept b s.ownLsa :=
  floodLsa (withCsc h _) _ _ _

/-! ### What SLV does when the acting anchor changes (chapter 11) -/

theorem slvResult (h : LoadKept b s) (r : SlvRes) : LoadKept b (s.slvResult r) :=
  ite (fireIf (rest h (by rfl)) _ 120) (fire (bump h _ _ (by decide)) 121)

theorem slvEnd (h : LoadKept b s) (c : SlvCmd) (outcome count dur short : Nat) :
    LoadKept b (s.slvEnd c outcome count dur short) := slvResult h _

theorem slvEndAll (h : LoadKept b s) (cs : List SlvCmd) (outcome count dur short : Nat) :
    LoadKept b (s.slvEndAll cs outcome count dur short) := foldl (fun _ _ h => slvEnd h _ _ _ _ _) h

theorem schedTo (h : LoadKept b s) (chip : Nat) (l : List CscSched) : LoadKept b (s.schedTo chip l) := h

theorem schedAll (h : LoadKept b s) (f : Nat → List CscSched) : LoadKept b (s.schedAll f) := foldl (fun _ _ h => schedTo h _ _) h

theorem solveStart (h : LoadKept b s) (c : SlvCmd) (also : List SlvCmd) (border : List Placement) :
    LoadKept b (s.solveStart c also border) := by
  have h1 : LoadKept b (s.commitAt 9 0) := commitAt h 9 0
  unfold State.solveStart
  dsimp only
  split
  · exact slvEndAll h1 _ _ _ _ _
  · exact ite (slvEndAll h1 _ _ _ _ _) (ite (schedAll (rest h1 (by rfl)) _) h1)

theorem solveOver (h : LoadKept b s) (far : List FarPlace) : LoadKept b (s.solveOver far) := by
  unfold State.solveOver
  dsimp only
  split
  · exact schedAll (rest h (by rfl)) _
  · split
    · exact solveStart (rest h (by rfl)) _ _ _
    · exact h

theorem solveAbort (h : LoadKept b s) : LoadKept b s.solveAbort := by
  unfold State.solveAbort
  split
  · exact h
  · exact solveOver (slvEndAll h _ _ _ _ _) _

theorem slvOwnSolve (h : LoadKept b s) : LoadKept b s.slvOwnSolve := ite h h

theorem slvShort (h : LoadKept b s) (x : Short) : LoadKept b (s.slvShort x) := ite (fireIf (rest h (by rfl)) _ 122) (bump h _ _ (by decide))

theorem slvShorts (h : LoadKept b s) (l : List Short) : LoadKept b (s.slvShorts l).2 := foldl (fun _ x h => slvShort h x) h

theorem slvLog (h : LoadKept b s) (joined : Bool) (node : Nat) : LoadKept b (s.slvLog joined node) := by
  unfold State.slvLog
  split
  · exact h
  · exact h

theorem stagePatch (h : LoadKept b s) (p : Patch) : LoadKept b (s.stagePatch p) := bump h Ctr.SLV_PATCHES _ (by decide)

theorem newSet (h : LoadKept b s) (p : Placement) : LoadKept b (s.newSet p) := stagePatch h _

theorem changeSet (h : LoadKept b s) (p : Placement) : LoadKept b (s.changeSet p) := ite (newSet h p) h

theorem dropNode (h : LoadKept b s) (node : Nat) : LoadKept b (s.dropNode node) := ite h (changeSet (rest h (by rfl)) _)

theorem joinTake (h : LoadKept b s) (c : SlvCmd) (p : Placement) (dur : Nat) : LoadKept b (s.joinTake c p dur) :=
  ite (slvEnd h _ _ _ _ _) (slvEnd (bump (slvLog (changeSet (slvShorts h _) p) _ _) _ _ (by decide)) _ _ _ _ _)

theorem noFit (h : LoadKept b s) (c : SlvCmd) (dur : Nat) : LoadKept b (s.noFit c dur) := by
  have h1 : LoadKept b ((s.dropNode c.node).slvShorts (s.shortNow c.node {} [])).2 := slvShorts (dropNode h _) _
  unfold State.noFit
  exact ite (slvOwnSolve (fire (slvEnd (bump h1 _ _ (by decide)) _ _ _ _ _) 124))
    (fire (slvEnd (bump h1 _ _ (by decide)) _ _ _ _ _) 124)

theorem joinAnswer (h : LoadKept b s) (outcome : Nat) (place : Option Placement) : LoadKept b (s.joinAnswer outcome place) := by
  unfold State.joinAnswer
  split
  · exact h
  · refine ite (slvEnd (rest h (by rfl)) _ _ _ _ _) ?_
    split
    · exact joinTake (rest h (by rfl)) _ _ _
    · exact noFit (rest h (by rfl)) _ _

/-! ### Roles and routes (R371, R376 to R380) -/

theorem setRole (h : LoadKept b s) (r : Nat) : LoadKept b (s.setRole r) :=
  ite h (fire (bump (setFld h _ _ (by decide)) _ _ (by decide)) 197)

theorem sendHome (h : LoadKept b s) (node : Nat) : LoadKept b (s.sendHome node) := by
  unfold State.sendHome
  extract_lets x s1
  have h1 : LoadKept b s1 := by
    refine foldl (fun u p hu => ?_) h
    split
    · exact ctlSend hu _ _ _ _
    · exact hu
  exact h1

theorem becomeAnchor (h : LoadKept b s) (solve : Bool) : LoadKept b (s.becomeAnchor solve) := by
  unfold State.becomeAnchor
  extract_lets s1 s2 s3
  have h3 : LoadKept b s3 :=
    foldl (fun _ _ h => sendHome h _) (setFlag (setRole (setFld h _ _ (by decide)) 1) _ _ (by decide))
  exact ite (slvOwnSolve h3) h3

theorem roleRules (h : LoadKept b s) : LoadKept b s.roleRules := by
  unfold State.roleRules
  dsimp only
  split
  · refine ite (ite ?_ h) (setRole (setFld h _ _ (by decide)) _)
    exact setFld (setRole (setFlag (solveAbort h) _ _ (by decide)) _) _ _ (by decide)
  · exact ite (becomeAnchor h _) h

theorem restoreTo (h : LoadKept b s) (chip : Nat) : LoadKept b (s.restoreTo chip) := ite (schedTo h _ _) h

theorem mirrorTo (h : LoadKept b s) (chip : Nat) : LoadKept b (s.mirrorTo chip) :=
  ite (schedTo (foldl (fun _ _ h => schedTo h _ _) (foldl (fun _ _ h => schedTo h _ _) h)) _ _) h

theorem copyCells (h : LoadKept b s) : LoadKept b s.copyCells := by
  unfold State.copyCells
  split
  · exact h
  · exact schedTo h _ _

theorem modeBegins (h : LoadKept b s) : LoadKept b s.modeBegins :=
  ite (foldl (fun _ _ h => restoreTo (ite (mirrorTo h _) h) _) h) (ite (copyCells h) h)

theorem saveHold (h : LoadKept b s) (refcnt freq : Nat) : LoadKept b (s.saveHold refcnt freq) := setFlag h _ _ (by decide)

theorem enterHold (h : LoadKept b s) (refcnt : Nat) : LoadKept b (s.enterHold refcnt) :=
  fire (bump (setFld (saveHold (enterGtb h 2) _ _) _ _ (by decide)) _ _ (by decide)) 33

theorem setAnchor (h : LoadKept b s) (valid : Bool) (gt : Nat) (off : Int) (refcnt : Nat) :
    LoadKept b (s.setAnchor valid gt off refcnt) := by
  unfold State.setAnchor
  extract_lets _ s0 s1
  have h1 : LoadKept b s1 := setFlag (s := s0) h _ _ (by decide)
  exact ite (ite (enterGtb h1 5) (ite (enterGtb h1 5) h1)) (ite (enterHold h1 _) h1)

theorem cscRoles (h : LoadKept b s) : LoadKept b s.cscRoles := by
  unfold State.cscRoles
  split
  · exact h
  · extract_lets s1 best own mode was anchor _ s1' s2 lost _ s3 s4 s5 valid
    have h1 : LoadKept b s1' := ite (roleRules h) (roleRules h)
    have h2 : LoadKept b s2 := setFld (setFlag h1 _ _ (by decide)) _ _ (by decide)
    have h3 : LoadKept b s3 := fireIf (withCsc h2 _) _ _
    have h4 : LoadKept b s4 := ite (joinAnswer h3 _ _) h3
    have h5 : LoadKept b s5 := ite (modeBegins h4) h4
    exact ite h5 (ite (nextFree (setAnchor h5 _ _ _ _)) h5)

theorem tempsGone (h : LoadKept b s) (reach : Nat) : LoadKept b (s.tempsGone reach) := h

theorem cscRoutes (h : LoadKept b s) : LoadKept b s.cscRoutes := by
  unfold State.cscRoutes
  extract_lets ws changed s1 reach s2 go goCtl _ s3
  have h1 : LoadKept b s1 := foldl (fun _ _ h => setReg h _ _ (Nat.lt_add_right _ (by decide))) h
  have h2 : LoadKept b s2 := tempsGone (fireIf (setReg h1 Reg.CSC_REACH _ (by decide)) changed 196) reach
  have h3 : LoadKept b s3 := withCsc h2 _
  exact cscRoles (foldl (fun _ _ h => replaceCtl h _) (foldl (fun _ _ h => replace h _) h3))

/-! ### Keys and the DRBG (chapter 15) -/

theorem withKvt (h : LoadKept b s) (k : Kvt) : LoadKept b { s with kvt := k } := h

theorem drbgDraw (h : LoadKept b s) : LoadKept b s.drbgDraw := by
  unfold State.drbgDraw
  extract_lets n s1
  have h1 : LoadKept b s1 := nextFree (bump h _ _ (by decide))
  exact ite (withKvt (bump h1 _ _ (by decide)) _) (withKvt h1 _)

theorem noKey (h : LoadKept b s) : LoadKept b s.noKey.2 := bump h Ctr.KVT_NOKEY 1 (by decide)

theorem cachePut (h : LoadKept b s) (n : Nat) : LoadKept b (s.cachePut n) := by
  unfold State.cachePut
  refine ite h ?_
  split
  · exact h
  · exact h

theorem secEvt (h : LoadKept b s) (cause detail : Nat) : LoadKept b (s.secEvt cause detail) :=
  ite (setFlag h _ _ (by decide)) (fire (setReg h _ _ (by decide)) 174)

theorem readWrapped (h : LoadKept b s) (n : Nat) : LoadKept b (s.readWrapped n).2 := by
  unfold State.readWrapped
  split
  · exact h
  · exact ite h (secEvt (rest h (by rfl)) _ _)

theorem keyRequest (h : LoadKept b s) (u : KeyUser) (n : Nat) : LoadKept b (s.keyRequest u n).2 := by
  unfold State.keyRequest
  extract_lets s0 k s1 r s2
  have h0 : LoadKept b s0 := bump h _ _ (by decide)
  have h1 : LoadKept b s1 := bump h0 _ _ (by decide)
  have h2 : LoadKept b s2 := ite (cachePut (readWrapped h1 n) n) (readWrapped h1 n)
  split
  · exact noKey h0
  · split
    · split
      · exact cachePut h0 n
      · exact noKey h0
    · split
      · exact noKey h1
      · split
        · exact h2
        · exact noKey h2

/-! ### Ports of the cascade and the lock (R30, R364, R383) -/

theorem sendHello (h : LoadKept b s) (n : Nat) : LoadKept b (s.sendHello n) := by
  unfold State.sendHello
  extract_lets body head ok rand s1
  have h1 : LoadKept b s1 := ite (drbgDraw h) (nextFree h)
  have h2 := keyRequest h1 (.cascade n) (s1.fld (F.CSC_PnCFG_KEYSLOT n))
  split
  · split
    · rename_i heq _
      rw [heq] at h2
      exact setCport (drbgDraw h2) n _
    · rename_i heq _
      rw [heq] at h2
      exact setCport h2 n _
  · exact setCport h1 n _

theorem portTrain (h : LoadKept b s) (n : Nat) : LoadKept b (s.portTrain n) :=
  ite (sendHello (setFld h _ _ (Nat.lt_add_right _ (by decide))) n) (setFld h _ _ (Nat.lt_add_right _ (by decide)))

theorem portDown (h : LoadKept b s) (n dest : Nat) : LoadKept b (s.portDown n dest) := by
  unfold State.portDown
  extract_lets p s1 s2 s3 r pkts x y s6 s7
  have h2 : LoadKept b s2 := setFld (setFld (setFld (setCport h n _) _ _ (Nat.lt_add_right _ (by decide))) _ _
    (Nat.lt_add_right _ (by decide))) _ _ (Nat.lt_add_right _ (by decide))
  have h3 : LoadKept b s3 := reportNow (fire h2 _) _ _ _ _
  have hx : LoadKept b x.2 := reroutePkts (stripPort h3 n) n pkts
  have hy : LoadKept b y.2 := rerouteCtls hx n _
  have h6 : LoadKept b s6 := cscRoutes (ownLsa hy)
  have h7 : LoadKept b s7 := cscPump (foldl (fun _ f h => replaceCtl h f) (foldl (fun _ st h => replace h st) h6))
  exact ite (portTrain h7 n) h7

theorem portTo (h : LoadKept b s) (n dest : Nat) : LoadKept b (s.portTo n dest) :=
  ite (portDown h n dest) (ite (portTrain h n) (setFld h _ _ (Nat.lt_add_right _ (by decide))))

theorem updPeer (h : LoadKept b s) (k : Nat) (x : Option CscStat) : LoadKept b (s.updPeer k x) :=
  ite h (setReg (setFld h _ _ (by decide)) _ _ (Nat.lt_add_right _ (by decide)))

theorem dropPeers (h : LoadKept b s) : LoadKept b s.dropPeers := foldl (l := s.csc.peers) (fun _ e h => updPeer h e.1 none) h

theorem portEnable (h : LoadKept b s) (n : Nat) : LoadKept b (s.portEnable n) :=
  ite (portTo h n 0) (ite (setCport (setFld h _ _ (Nat.lt_add_right _ (by decide))) n _) h)

theorem cscLock (h : LoadKept b s) : LoadKept b s.cscLock := by
  unfold State.cscLock
  extract_lets s1 s2 _ s3
  have h1 : LoadKept b s1 := foldl (fun _ n h => ite h (portTo h n 1)) h
  have h2 : LoadKept b s2 := dropPeers (setFld h1 F.CSC_STATUS_ADDR _ (by decide))
  have h3 : LoadKept b s3 := withCsc h2 _
  exact cscRoutes (foldl (fun _ n h => portEnable h n) h3)

theorem seedOne (h : LoadKept b s) (r : Nat) (hr : Reg.CHIP_WMAP1 < r) : LoadKept b (s.seedOne r) :=
  ite h (ite (drbgDraw (setReg h _ _ hr)) (setFlag h _ _ (by decide)))

theorem seedFwd (h : LoadKept b s) : LoadKept b s.seedFwd := seedOne (seedOne h _ (by decide)) _ (by decide)

theorem fixedCells (h : LoadKept b s) : LoadKept b s.fixedCells := h

theorem placeRegions (h : LoadKept b s) : LoadKept b s.placeRegions := by
  unfold State.placeRegions
  split
  · exact h
  · refine foldl (fun _ _ h => ?_) (foldl (fun u k h => ite h (nextFree ?_)) h)
    · exact setFld (setReg (setReg h _ _ (Nat.lt_add_right _ (by decide))) _ _ (Nat.lt_add_right _ (by decide))) _ _
        (Nat.lt_add_right _ (by decide))
    · exact setFld (setReg (setReg h _ _ (Nat.lt_add_right _ (by decide))) _ _ (Nat.lt_add_right _ (by decide))) _ _
        (Nat.lt_add_right _ (by decide))

theorem bgtStart (h : LoadKept b s) : LoadKept b s.bgtStart :=
  ite (fire (bump (setFlag (rest h (by rfl)) _ _ (by decide)) _ _ (by decide)) 116) h

theorem setSealgen (h : LoadKept b s) (n : Nat) : LoadKept b (s.setSealgen n) := setReg h Reg.KVT_SEALGEN _ (by decide)

theorem holdOp (h : LoadKept b s) (o : HeldOp) : LoadKept b (s.holdOp o) := bump h Ctr.PWR_HOLDCNT 1 (by decide)

theorem journalStart (h : LoadKept b s) : LoadKept b s.journalStart := by
  unfold State.journalStart
  split
  · exact h
  · exact ite h (ite (ite h (holdOp h _)) h)

theorem journalAdd (h : LoadKept b s) (j : Journal) : LoadKept b (s.journalAdd j) := journalStart h

theorem kvtNewGen (h : LoadKept b s) (n : Nat) : LoadKept b (s.kvtNewGen n) :=
  ite h (ite (journalAdd (rest (setSealgen h n) (by rfl)) _) (setSealgen h n))

end LoadKept

end Sys2Proof.Machine
end

section
/-! Pass 3 of a configuration load, its records, and the boot ROM (R34, R358, R390), for `Obligations.ConfigApply`. -/

namespace Sys2Proof.Machine

/-! ### The lock (R30) -/

theorem State.startWindows_loadKept {b s : State} (h : LoadKept b s) : LoadKept b s.startWindows := h

/-- The lock sets LOCKED and keeps CFG's own data; CHIP_WMAP1 stays as LOCKED was set in it. -/
theorem State.lockImage_kept_load (s : State) : LoadKept ((s.setFlag F.CHIP_WMAP1_LOCKED true).fire 6) s.lockImage := by
  unfold State.lockImage
  extract_lets s1 s2 c s3 s4
  have h2 : LoadKept s1 s2 :=
    LoadKept.bgtStart (LoadKept.cscLock (LoadKept.placeRegions (LoadKept.fixedCells (LoadKept.seedFwd (LoadKept.refl s1)))))
  have h3 : LoadKept s1 s3 := LoadKept.setReg (LoadKept.setReg (LoadKept.setFlag h2 _ _ (by decide)) _ _ (by decide)) _ _ (by decide)
  have h4 : LoadKept s1 s4 := LoadKept.setRegs h3 _ _ (by decide)
  exact LoadKept.setReg (LoadKept.kvtNewGen h4 _) _ _ (by decide)

theorem State.lockImage_cfg (s : State) : s.lockImage.cfg = s.cfg := by
  rw [s.lockImage_kept_load.cfg_eq, State.fire_cfg, State.setFlag_cfg]

theorem State.lockImage_mapLocked (s : State) : s.lockImage.mapLocked = true := by
  rw [s.lockImage_kept_load.mapLocked_eq]
  unfold State.mapLocked
  rw [State.on_fire_ne _ _ _ (by decide) (by decide), State.on_setFlag_same _ _ _ (by decide)]

theorem State.reg_setRegs_below (s : State) (a x : Nat) (l : List Word) (h : x < a) : (s.setRegs a l).reg x = s.reg x := by
  induction l generalizing s a with
  | nil => rfl
  | cons v l ih =>
    refine (ih (s.setReg a v) (a + 4) (by omega)).trans ?_
    exact State.reg_setReg_ne s a x v (by omega)

/-- A new sealed generation is journalled; of the registers it writes KVT_SEALGEN, and the count of held operations in a dip. -/
theorem State.reg_kvtNewGen_ne (s : State) (n x : Nat) (hs : x ≠ Reg.KVT_SEALGEN) (hc : x ≠ Ctr.PWR_HOLDCNT)
    (hc' : x ≠ Ctr.PWR_HOLDCNT + 4) : (s.kvtNewGen n).reg x = s.reg x := by
  have hstart : ∀ u : State, u.journalStart.reg x = u.reg x := fun u => by
    unfold State.journalStart
    split
    · rfl
    · split
      · rfl
      · split
        · split
          · rfl
          · exact State.reg_bump_ne u _ _ x hc hc'
        · rfl
  have hset : (s.setSealgen n).reg x = s.reg x := State.reg_setReg_ne s _ x _ hs
  unfold State.kvtNewGen
  split
  · rfl
  · dsimp only
    split
    · exact (hstart _).trans hset
    · exact hset

/-- CFG_GEN shows the generation of the image loaded (R30). -/
theorem State.lockImage_gen (s : State) : s.lockImage.reg Reg.CFG_GEN = BitVec.ofNat 32 s.cfg.gen := by
  have hcfg : ∀ u, LoadKept ((s.setFlag F.CHIP_WMAP1_LOCKED true).fire 6) u → u.cfg = s.cfg := fun u h => by
    rw [h.cfg_eq, State.fire_cfg, State.setFlag_cfg]
  unfold State.lockImage
  extract_lets s1 s2 c s3 s4
  have hc : c = s.cfg := hcfg s2
    (LoadKept.bgtStart (LoadKept.cscLock (LoadKept.placeRegions (LoadKept.fixedCells (LoadKept.seedFwd (LoadKept.refl s1))))))
  rw [State.reg_setReg_ne _ _ _ _ (by decide), State.reg_kvtNewGen_ne _ _ _ (by decide) (by decide) (by decide),
    State.reg_setRegs_below _ _ _ _ (by decide), State.reg_setReg_ne _ _ _ _ (by decide), State.reg_setReg_same, hc]

theorem State.reg_qmgSettle_ne (s : State) (a : Nat) (h : isPendReg a = false) : s.qmgSettle.reg a = s.reg a := by
  unfold State.qmgSettle
  extract_lets f low _ s1 pins
  have h1 : s1.reg a = s.reg a := State.reg_fireIf_ne _ _ 132 a (by decide) h
  exact (State.reg_fireIf_ne _ _ 135 a (by decide) h).trans h1

theorem State.loadedRecs_nil (s : State) (h : s.cfg.payload = []) : s.loadedRecs = [] := by
  unfold State.loadedRecs
  rw [h]
  rfl

/-! ### CFG_APPLY -/

theorem State.trainStart_attempt (s : State) : s.trainStart.fld F.MEM_STATUS_ATTEMPT = 1 := by
  unfold State.trainStart
  rw [State.fld_bump_ne _ _ _ _ (by decide) (by decide), State.fld_setFld_same _ _ _ (by decide)]
  rfl

theorem State.trainStart_selfref (s : State) : s.trainStart.on F.MEM_STATUS_SELFREF = false := by
  unfold State.trainStart
  rw [State.on_bump_ne _ _ _ _ (by decide) (by decide), State.on_setFld_ne _ _ _ _ (by decide), State.on_mk,
    State.on_fireIf_ne _ _ _ _ (by decide) (by decide), State.on_setFlag_ne _ _ _ _ (by decide), State.on_setFlag_same _ _ _ (by decide)]

/-- A domain that PWR_DOMREQ asks for is not ready yet, for which pass 3 waits (R34). -/
abbrev State.domsAwaited (s : State) : Bool := (List.range 21).any (fun d => s.domReq d == 1 && !s.domReady d)

theorem State.domsAwaited_at (s : State) (t : Time) : (s.at t).domsAwaited = s.domsAwaited := rfl

section

variable {s : State} {t : Time}

theorem cfgApply_powers (hst : s.fld F.CFG_STATUS_STATE = 3) (hp : s.cfg.pwrDone = false) :
    ∃ u, exec (.cfgApply t) s = .next u ∧ u = State.trainStart
      { ((imgPairs s.loadedRecs).filter (fun p => unitOf p.2.1 == 16)).foldl (fun (v : State) p => v.applyPair t p) (s.at t) with
        cfg := { (((imgPairs s.loadedRecs).filter (fun p => unitOf p.2.1 == 16)).foldl (fun (v : State) p => v.applyPair t p)
          (s.at t)).cfg with pwrDone := true } } ∧
      u.fld F.MEM_STATUS_ATTEMPT = 1 ∧ u.on F.MEM_STATUS_SELFREF = false := by
  refine ⟨_, ?_, rfl, State.trainStart_attempt _, State.trainStart_selfref _⟩
  change execCfgApply t s = _
  unfold execCfgApply
  dsimp only
  rw [if_neg (by simp [hst]), if_pos (by simp [hp])]
  rfl

theorem cfgApply_waits (hp : s.cfg.pwrDone = true) (hw : s.pwr.pll = false ∨ s.domsAwaited = true) :
    exec (.cfgApply t) s = .next (s.at t) := by
  have hw' : (!(s.at t).pwr.pll || (s.at t).domsAwaited) = true := by
    rw [State.domsAwaited_at, State.at_pwr]
    rcases hw with h | h
    · simp [h]
    · simp [h]
  change execCfgApply t s = _
  unfold execCfgApply
  dsimp only
  rw [if_neg (c := (!(s.at t).cfg.pwrDone) = true) (by simp [hp]), if_pos hw', ite_self]

theorem cfgApply_elsewhere (hst : s.fld F.CFG_STATUS_STATE ≠ 3) : exec (.cfgApply t) s = .next (s.at t) := by
  change execCfgApply t s = _
  unfold execCfgApply
  dsimp only
  rw [if_pos (by simpa using hst)]

theorem cfgApply_locks (hst : s.fld F.CFG_STATUS_STATE = 3) (hp : s.cfg.pwrDone = true) (hpll : s.pwr.pll = true)
    (hd : s.domsAwaited = false) :
    exec (.cfgApply t) s = .next (s.loadedRecs.foldl (fun (v : State) (r : ImgRec) => v.applyEarly r)
        ((((imgPairs s.loadedRecs).filter (fun p => unitOf p.2.1 != 16)).foldl (fun (v : State) p => v.applyPair t p)
          (s.at t)).commitAll.lockImage.startWindows.setFld F.CFG_STATUS_STATE 4)).qmgSettle.drive := by
  have hd' : (!(s.at t).pwr.pll || (s.at t).domsAwaited) = false := by
    rw [State.domsAwaited_at, State.at_pwr, hpll, hd]
    rfl
  change execCfgApply t s = _
  unfold execCfgApply
  dsimp only
  rw [if_neg (by simp [hst]), if_neg (by simp [hp]), if_neg (by simpa using hd')]
  rfl

theorem cfgApply_locks_empty (hst : s.fld F.CFG_STATUS_STATE = 3) (hp : s.cfg.pwrDone = true) (hpll : s.pwr.pll = true)
    (hd : s.domsAwaited = false) (he : s.cfg.payload = []) :
    ∃ u, exec (.cfgApply t) s = .next u ∧ u = ((s.at t).commitAll.lockImage.startWindows.setFld F.CFG_STATUS_STATE 4).qmgSettle.drive ∧
      u.mapLocked = true ∧ u.fld F.CFG_STATUS_STATE = 4 ∧ u.reg Reg.CFG_GEN = BitVec.ofNat 32 s.cfg.gen := by
  have hrecs : s.loadedRecs = [] := s.loadedRecs_nil he
  have hcommit : (s.at t).commitAll.cfg = s.cfg := (LoadKept.commitAll (LoadKept.refl (s.at t))).cfg_eq
  refine ⟨_, ?_, rfl, ?_, ?_, ?_⟩
  · rw [cfgApply_locks hst hp hpll hd, hrecs]
    rfl
  · rw [(LoadKept.drive (LoadKept.qmgSettle (LoadKept.setFld (State.startWindows_loadKept (LoadKept.refl _)) _ _ (by decide)))).mapLocked_eq]
    exact State.lockImage_mapLocked _
  · unfold State.fld
    rw [State.reg_drive_ne _ _ (by decide), State.reg_qmgSettle_ne _ _ (by decide)]
    exact State.fld_setFld_same _ F.CFG_STATUS_STATE 4 (by decide)
  · rw [State.reg_drive_ne _ _ (by decide), State.reg_qmgSettle_ne _ _ (by decide), State.reg_setFld_ne _ _ _ _ (by decide)]
    refine (State.reg_congr rfl _).trans ((State.lockImage_gen _).trans ?_)
    rw [hcommit]

end

/-! ### CFG_DRAM_RECORDS -/

theorem State.cfgDone_result (s : State) (h : s.upd.waits = none) :
    s.cfgDone.fld F.CFG_STATUS_STATE = 5 ∧ s.cfgDone.on F.CFG_STATUS_BUSY = false ∧ s.regsBut s.cfgDone [Reg.CFG_STATUS] ∧
      s.cfgDone = { s with regs := s.cfgDone.regs } := by
  unfold State.cfgDone
  rw [State.updResume_none _ (by simpa using h)]
  refine ⟨?_, State.on_setFlag_same _ _ _ (by decide), ?_, rfl⟩
  · rw [State.fld_setFlag_ne _ _ _ _ (by decide), State.fld_setFld_same _ _ _ (by decide)]
    rfl
  · exact State.regsBut_setFlag _ _ (State.regsBut_setFld _ _ State.regsBut_refl (by decide)) (by decide)

/-- A frame that names CFG's data by their value, said of the result's own. -/
theorem State.frame_cfg {s u : State} {g c} (hc : u.cfg = c) (h : u = { s with regs := u.regs, gtb := g, cfg := c }) :
    u = { s with regs := u.regs, gtb := g, cfg := u.cfg } := by
  subst hc
  exact h

section

variable {s : State} {t : Time}

theorem cfgDramRecords_idle (h : s.fld F.CFG_STATUS_STATE ≠ 4 ∨ s.readsDone = false ∨
    (s.on F.MEM_STATUS_TRAINED = false ∧ s.on F.CHIP_START_DRAMFAIL = false)) : exec (.cfgDramRecords t) s = .next (s.at t) := by
  have hr : (s.at t).readsDone = s.readsDone := rfl
  change execCfgDramRecords t s = _
  unfold execCfgDramRecords
  rcases h with h | h | ⟨ht, hf⟩
  · simp [h]
  · simp [hr, h]
  · simp [ht, hf]

theorem cfgDramRecords_applies (hst : s.fld F.CFG_STATUS_STATE = 4) (hr : s.readsDone = true) (ht : s.on F.MEM_STATUS_TRAINED = true) :
    ∃ u, exec (.cfgDramRecords t) s = .next u ∧ u = (State.cfgDone (
      let r := s.loadedRecs.foldl (fun (a : Nat × State) (r : ImgRec) =>
        (if r.typ = 0x8102 then a.1 + r.entries.length else a.1, a.2.applyLate r a.1)) (0, s.at t)
      { r.2 with cfg := { r.2.cfg with dram := true } })) := by
  have hr' : (s.at t).readsDone = true := hr
  refine ⟨_, ?_, rfl⟩
  change execCfgDramRecords t s = _
  unfold execCfgDramRecords
  dsimp only
  rw [if_neg (by simp [hst, hr']), if_pos (by simpa using ht)]
  rfl

theorem cfgDramRecords_empty (hst : s.fld F.CFG_STATUS_STATE = 4) (hr : s.readsDone = true) (ht : s.on F.MEM_STATUS_TRAINED = true)
    (he : s.cfg.payload = []) (hw : s.upd.waits = none) :
    ∃ u, exec (.cfgDramRecords t) s = .next u ∧ u.fld F.CFG_STATUS_STATE = 5 ∧ u.on F.CFG_STATUS_BUSY = false ∧
      u.cfg = { s.cfg with dram := true } ∧ s.regsBut u [Reg.CFG_STATUS] ∧
      u = { s with regs := u.regs, gtb := (s.at t).gtb, cfg := u.cfg } := by
  obtain ⟨u, hu, rfl⟩ := cfgDramRecords_applies (t := t) hst hr ht
  refine ⟨_, hu, ?_⟩
  rw [s.loadedRecs_nil he]
  obtain ⟨hstate, hbusy, hregs, hframe⟩ :=
    State.cfgDone_result { s.at t with cfg := { s.cfg with dram := true } } hw
  have hcfg := congrArg State.cfg hframe
  exact ⟨hstate, hbusy, hcfg, hregs, State.frame_cfg hcfg hframe⟩

theorem cfgDramRecords_failed (hst : s.fld F.CFG_STATUS_STATE = 4) (hr : s.readsDone = true) (ht : s.on F.MEM_STATUS_TRAINED = false)
    (hf : s.on F.CHIP_START_DRAMFAIL = true) (hw : s.upd.waits = none) :
    ∃ u, exec (.cfgDramRecords t) s = .next u ∧ u.fld F.CFG_STATUS_STATE = 5 ∧ u.on F.CFG_STATUS_BUSY = false ∧
      s.regsBut u [Reg.CFG_STATUS] ∧ u = { s with regs := u.regs, gtb := (s.at t).gtb } := by
  have hr' : (s.at t).readsDone = true := hr
  obtain ⟨hstate, hbusy, hregs, hframe⟩ := State.cfgDone_result (s.at t) hw
  refine ⟨(s.at t).cfgDone, ?_, hstate, hbusy, hregs, hframe⟩
  change execCfgDramRecords t s = _
  unfold execCfgDramRecords
  dsimp only
  rw [if_neg (by simp [hst, hr']), if_neg (by simp [ht]), if_pos (by simpa using hf)]

end

/-! ### FIRMWARE_BANK_READ -/

theorem State.dirShow_frame (s : State) : s.dirShow = { s with regs := s.dirShow.regs } := rfl

theorem State.regsBut_dirShow {s u : State} {l : List Nat} (h : s.regsBut u l) (hs : Reg.UPD_STATUS ∈ l) (ho : Reg.UPD_OTHGEN ∈ l) :
    s.regsBut u.dirShow l :=
  State.regsBut_setReg _ _ (State.regsBut_setFld _ _ (State.regsBut_setFld _ _ h hs) hs) ho

theorem State.kvtRead4_elsewhere (s : State) (h : s.kvtState ≠ 1) : s.kvtRead4 = s := by
  unfold State.kvtRead4
  exact if_neg (fun c => h c.1)

/-- The boot ROM may read a bank: after the lock, with no firmware running, none refused before, in the state after the lock (R358). -/
abbrev State.bootReads (s : State) : Prop :=
  s.mapLocked = true ∧ s.upd.run = none ∧ s.on F.CHIP_START_NOFW = false ∧ s.fld F.CFG_STATUS_STATE = 4

section

variable {s : State} {t : Time}

theorem firmwareBankRead_idle (h : s.mapLocked = false ∨ s.upd.run.isSome = true ∨ s.on F.CHIP_START_NOFW = true ∨
    s.fld F.CFG_STATUS_STATE ≠ 4) : exec (.firmwareBankRead t) s = .next (s.at t) := by
  have hl : (s.at t).mapLocked = s.mapLocked := rfl
  change execFirmwareBankRead t s = _
  unfold execFirmwareBankRead
  dsimp only
  refine congrArg _ (if_pos ?_)
  rw [hl, State.on_at, State.fld_at, State.at_upd]
  rcases h with h | h | h | h
  · simp [h]
  · simp [h]
  · simp [h]
  · simp [h]

/-- What the command acts on once it may read: the guard is off. -/
theorem State.bootReads_guard (h : s.bootReads) :
    ¬ (!(s.at t).mapLocked || ((s.at t).upd.run.isSome || ((s.at t).on F.CHIP_START_NOFW ||
      (s.at t).fld F.CFG_STATUS_STATE != 4))) = true := by
  obtain ⟨hlock, hrun, hfw, hst⟩ := h
  have hl : (s.at t).mapLocked = true := hlock
  simp [hl, hrun, hfw, hst]

theorem firmwareBankRead_committed {f : FwSet} (h : s.bootReads)
    (hf : (s.at t).bootDir.bankRuns (s.at t).bootDir.dir.com = some f) (hd : (s.at t).bootDir.dirNow.isSome = true) :
    exec (.firmwareBankRead t) s = .next ((s.at t).bootDir.runFirmware f).kvtRead4 := by
  change execFirmwareBankRead t s = _
  unfold execFirmwareBankRead
  dsimp only
  rw [if_neg (State.bootReads_guard h), if_pos hd, hf]

theorem State.committed_none (h : s.dirNow = none ∨ s.bankRuns s.dir.com = none) :
    (if s.dirNow.isSome then s.bankRuns s.dir.com else none) = none := by
  rcases h with h | h
  · simp [h]
  · simp [h]

theorem State.validBank_none {o : Nat} (h : (s.dir.bank o).1 ≠ 1 ∨ s.bankRuns o = none) :
    (if (s.dir.bank o).1 = 1 then s.bankRuns o else none) = none := by
  rcases h with h | h
  · exact if_neg h
  · rw [h, ite_self]

theorem State.validBank_some {o : Nat} {f : FwSet} (hv : (s.dir.bank o).1 = 1) (hf : s.bankRuns o = some f) :
    (if (s.dir.bank o).1 = 1 then s.bankRuns o else none) = some f :=
  (if_pos hv).trans hf

theorem firmwareBankRead_other {f : FwSet} (h : s.bootReads)
    (hf : (s.at t).bootDir.bankRuns (1 - s.dir.com) = some f) (hv : ((s.at t).bootDir.dir.bank (1 - s.dir.com)).1 = 1)
    (hc : (s.at t).bootDir.dirNow = none ∨ (s.at t).bootDir.bankRuns (s.at t).bootDir.dir.com = none) :
    exec (.firmwareBankRead t) s = .next ((((((s.at t).bootDir.dirWrite
      { (s.at t).bootDir.dir with com := 1 - s.dir.com }).dirShow).flashErr).runFirmware f).svnDue).kvtRead4 := by
  change execFirmwareBankRead t s = _
  unfold execFirmwareBankRead
  extract_lets s0 o x _ s1 _
  rw [if_neg (State.bootReads_guard h)]
  rw [State.committed_none (s := s1) hc]
  dsimp only
  rw [State.validBank_some (s := s1) (o := o) hv hf]
  rfl

theorem firmwareBankRead_none (h : s.bootReads)
    (hc : (s.at t).bootDir.dirNow = none ∨ (s.at t).bootDir.bankRuns (s.at t).bootDir.dir.com = none)
    (hv : ((s.at t).bootDir.dir.bank (1 - s.dir.com)).1 ≠ 1 ∨ (s.at t).bootDir.bankRuns (1 - s.dir.com) = none) :
    exec (.firmwareBankRead t) s = .next ((((s.at t).bootDir.setFlag F.CHIP_START_NOFW true).fire 11).drive).kvtRead4 := by
  change execFirmwareBankRead t s = _
  unfold execFirmwareBankRead
  extract_lets s0 o x _ s1 _
  rw [if_neg (State.bootReads_guard h)]
  rw [State.committed_none (s := s1) hc]
  dsimp only
  rw [State.validBank_none (s := s1) (o := o) hv]

theorem firmwareBankRead_cases (h : s.bootReads) :
    ∃ u, exec (.firmwareBankRead t) s = .next u ∧
      (∀ f, (s.at t).bootDir.bankRuns (s.at t).bootDir.dir.com = some f → (s.at t).bootDir.dirNow.isSome = true →
        u = ((s.at t).bootDir.runFirmware f).kvtRead4) ∧
      (∀ f, (s.at t).bootDir.bankRuns (1 - s.dir.com) = some f → ((s.at t).bootDir.dir.bank (1 - s.dir.com)).1 = 1 →
        ((s.at t).bootDir.dirNow = none ∨ (s.at t).bootDir.bankRuns (s.at t).bootDir.dir.com = none) →
        u = ((((((s.at t).bootDir.dirWrite { (s.at t).bootDir.dir with com := 1 - s.dir.com }).dirShow).flashErr).runFirmware
          f).svnDue).kvtRead4) ∧
      (((s.at t).bootDir.dirNow = none ∨ (s.at t).bootDir.bankRuns (s.at t).bootDir.dir.com = none) →
        (((s.at t).bootDir.dir.bank (1 - s.dir.com)).1 ≠ 1 ∨ (s.at t).bootDir.bankRuns (1 - s.dir.com) = none) →
        u = ((((s.at t).bootDir.setFlag F.CHIP_START_NOFW true).fire 11).drive).kvtRead4) := by
  obtain ⟨u, hu⟩ : ∃ u, exec (.firmwareBankRead t) s = .next u := ⟨_, rfl⟩
  refine ⟨u, hu, fun f hf hd => ?_, fun f hf hv hc => ?_, fun hc hv => ?_⟩
  · exact Host.Outcome.next.inj (hu.symm.trans (firmwareBankRead_committed h hf hd))
  · exact Host.Outcome.next.inj (hu.symm.trans (firmwareBankRead_other h hf hv hc))
  · exact Host.Outcome.next.inj (hu.symm.trans (firmwareBankRead_none h hc hv))

/-- What a refused start leaves: NOFW with source 11, and UPD_STATUS and UPD_OTHGEN as the directory has them. -/
theorem State.noFirmware_result (s : State) :
    ((s.dirShow.setFlag F.CHIP_START_NOFW true).fire 11).drive.on F.CHIP_START_NOFW = true ∧
      (s.sysOn → ((s.dirShow.setFlag F.CHIP_START_NOFW true).fire 11).drive.isPend 11 = true) ∧
      s.regsEvt ((s.dirShow.setFlag F.CHIP_START_NOFW true).fire 11).drive [Reg.CHIP_START, Reg.UPD_STATUS, Reg.UPD_OTHGEN] := by
  refine ⟨?_, fun hs => State.isPend_drive_mono _ _ (State.isPend_fire _ _ hs), ?_⟩
  · rw [State.on_drive_ne _ _ (by decide), State.on_fire_ne _ _ _ (by decide) (by decide), State.on_setFlag_same _ _ _ (by decide)]
  · refine State.regsEvt_drive (State.regsEvt_fire 11 (State.regsEvt_of_but (State.regsBut_setFlag _ _ ?_ ?_)) (by decide))
    · exact State.regsBut_dirShow State.regsBut_refl (by decide) (by decide)
    · decide

theorem firmwareBankRead_no_directory (h : s.bootReads) (hd : s.dirNow = none) (h1 : (s.dir.bank (1 - s.dir.com)).1 ≠ 1)
    (h2 : (s.dir.bank (1 - s.dir.com)).1 ≠ 2) (hk : s.kvtState ≠ 1) :
    ∃ u, exec (.firmwareBankRead t) s = .next u ∧ u.on F.CHIP_START_NOFW = true ∧ (s.sysOn → u.isPend 11 = true) ∧
      s.regsEvt u [Reg.CHIP_START, Reg.UPD_STATUS, Reg.UPD_OTHGEN] ∧
      u = { s with regs := u.regs, evt := u.evt, sup := u.sup, gtb := (s.at t).gtb } := by
  have hboot : (s.at t).bootDir = (s.at t).dirShow := if_neg h2
  obtain ⟨hnofw, hsrc, hregs⟩ := (s.at t).noFirmware_result
  have hk' : (((s.at t).dirShow.setFlag F.CHIP_START_NOFW true).fire 11).drive.kvtState ≠ 1 := by
    unfold State.kvtState State.fld
    rw [hregs _ (by decide) (by decide)]
    exact hk
  refine ⟨_, ?_, hnofw, hsrc, hregs, ?_⟩
  · rw [firmwareBankRead_none h (by rw [hboot]; exact .inl hd) (by rw [hboot]; exact .inl h1), hboot, State.kvtRead4_elsewhere _ hk']
  · rw [State.drive_frame, State.fire_frame, State.setFlag_frame, State.dirShow_frame]
    rfl

end

/-! ### Firmware that starts -/

/-- With no notice held nothing is replayed. -/
theorem State.replay_nil (s : State) (h : s.sup.notices = []) : s.replay = s.showFs := by
  unfold State.replay
  rw [h]
  have hs : ({ s with sup := { s.sup with notices := [] } } : State) = s := by
    rw [← h]
  rw [List.foldl_nil, hs]

theorem State.showFs_frame (s : State) : s.showFs = { s with regs := s.showFs.regs } := rfl

theorem State.regsBut_showFs (s : State) : s.regsBut s.showFs [Reg.SUP_STATUS] :=
  State.regsBut_setFld _ _ (State.regsBut_setFlag _ _ (State.regsBut_setFld _ _ State.regsBut_refl (by decide)) (by decide)) (by decide)

theorem State.showFs_run (s : State) : s.showFs.on F.SUP_STATUS_RUN = s.on F.SUP_STATUS_RUN := by
  unfold State.showFs
  rw [State.on_setFld_ne _ _ _ _ (by decide), State.on_setFlag_ne _ _ _ _ (by decide), State.on_setFld_ne _ _ _ _ (by decide)]

theorem State.runFirmware_result (s : State) (f : FwSet) (hn : s.sup.notices = []) :
    (s.runFirmware f).upd = { s.upd with run := some f } ∧ (s.runFirmware f).fld F.PRC_STATUS_RUN = 15 ∧
      (s.runFirmware f).on F.SUP_STATUS_RUN = true ∧ (s.runFirmware f).reg Reg.UPD_RUNGEN = BitVec.ofNat 32 f.gen := by
  unfold State.runFirmware
  rw [State.replay_nil _ (by simpa [State.trickleStart, State.wdRestart, State.showRun] using hn)]
  refine ⟨rfl, ?_, ?_, ?_⟩
  · unfold State.fld
    rw [State.regsBut_showFs _ _ (by decide)]
    refine (State.fld_setFlag_ne _ F.SUP_STATUS_RUN F.PRC_STATUS_RUN true (by decide)).trans ?_
    rw [State.fld_setFld_same _ _ _ (by decide)]
    rfl
  · rw [State.showFs_run]
    exact State.on_setFlag_same _ F.SUP_STATUS_RUN true (by decide)
  · rw [State.regsBut_showFs _ _ (by decide)]
    refine (State.reg_setFlag_ne _ F.SUP_STATUS_RUN true _ (by decide)).trans ?_
    rw [State.reg_setFld_ne _ _ _ _ (by decide)]
    exact State.reg_setReg_same _ _ _

/-- Settles O32: each clause is the lemma of its command; the lock is found to survive all that takes effect with it by `LoadKept`. -/
theorem configApply : Obligations.ConfigApply :=
  ⟨fun _ _ => cfgApply_powers, fun _ _ hst hp hpll hd => ⟨_, cfgApply_locks hst hp hpll hd, rfl⟩,
    fun _ _ => cfgApply_locks_empty, fun _ _ _ => cfgApply_waits, fun _ _ => cfgApply_elsewhere,
    fun _ _ => cfgDramRecords_idle, fun _ _ => firmwareBankRead_idle, fun _ _ => cfgDramRecords_empty,
    fun _ _ => cfgDramRecords_applies, fun _ _ => cfgDramRecords_failed,
    fun _ _ hl hr hf hst => firmwareBankRead_no_directory ⟨hl, hr, hf, hst⟩,
    fun _ _ hl hr hf hst => firmwareBankRead_cases ⟨hl, hr, hf, hst⟩,
    fun s f _ _ hn => s.runFirmware_result f hn⟩

end Sys2Proof.Machine
end

section
/-! Laws of register accesses (chapter 03): the address of a register through its views (R41), what a write of a register of CDC or
BGT leaves (R43, R44), and what such a write does not start. -/

namespace Sys2Proof.Machine

/-! ### Addresses and views (R40, R41) -/

section

variable {p : Nat} (hv : viewOf p = 0) (ha : p % 4 = 0)

include hv ha in
theorem primOf_view {k : Nat} (hk : k < 16) : primOf (p + 0x10000 * k) = p := by
  unfold primOf
  unfold viewOf at hv
  omega

include hv ha in
theorem primOf_primary : primOf p = p := primOf_view (k := 0) hv ha (by decide)

include hv in
theorem viewOf_view {k : Nat} (hk : k < 16) : viewOf (p + 0x10000 * k) = k := by
  unfold viewOf at *
  omega

include hv in
theorem unitOf_view {k : Nat} (hk : k < 16) : unitOf (p + 0x10000 * k) = unitOf p := by
  unfold viewOf at hv
  unfold unitOf
  omega

end

/-- An address of another unit than `a` is not `a`. -/
theorem ne_of_unit {p a : Nat} (h : unitOf a ≠ unitOf p) : p ≠ a := fun e => h (e ▸ rfl)

/-- A family of `n` registers lies in unit `u`. -/
def famInUnit (r : Nat → Nat) (n u : Nat) : Bool :=
  Nat.blt (r 0) (r 1) && (Nat.ble (u * 0x100000) (r 0) && Nat.ble (r 0 + n * (r 1 - r 0)) ((u + 1) * 0x100000))

/-- An address of another unit is in no family of unit `u`. -/
theorem famIdx_other_unit {r : Nat → Nat} {n u p : Nat} (hf : famInUnit r n u = true) (hp : unitOf p ≠ u) : famIdx r n p = none := by
  simp only [famInUnit, Bool.and_eq_true, Nat.blt_eq, Nat.ble_eq] at hf
  obtain ⟨hr, hlo, hhi⟩ := hf
  unfold unitOf at hp
  unfold famIdx
  dsimp only
  refine if_neg fun h => hp ?_
  simp only [Bool.and_eq_true, Nat.ble_eq, Nat.blt_eq] at h
  obtain ⟨hb, _, hn⟩ := h
  have hlt : p - r 0 < n * (r 1 - r 0) := (Nat.div_lt_iff_lt_mul (by omega)).mp hn
  omega

/-! ### What bars an access (R52) -/

/-- The word of a write matters only in KVT (R326). -/
theorem State.barred_word (s : State) (rq : Req) (a : Nat) (w w' : Option Word) (h : unitOf a ≠ 12) :
    s.barred rq a w = s.barred rq a w' := by
  have hs : s.secureOnly a w = s.secureOnly a w' := by
    unfold State.secureOnly
    simp only [if_neg h]
  unfold State.barred
  rw [hs]

/-! ### Registers whose writes start nothing: CDC and BGT -/

section

variable {p : Nat} (hu : unitOf p = 6 ∨ unitOf p = 8)

include hu

theorem famIdx_cdc_bgt {r : Nat → Nat} {n u : Nat} (hf : famInUnit r n u = true) (h6 : u ≠ 6) (h8 : u ≠ 8) :
    famIdx r n p = none :=
  famIdx_other_unit hf (by omega)

theorem ne_reg_cdc_bgt {a : Nat} (h6 : unitOf a ≠ 6) (h8 : unitOf a ≠ 8) : p ≠ a :=
  ne_of_unit (by omega)

theorem within_units_cdc_bgt {a : Nat} (ha : unitOf a = unitOf p) : ¬ Nat.ble 24 (unitOf a) = true := by
  rw [Nat.ble_eq]
  omega

/-- The event hub has no part in a write of CDC or BGT. -/
theorem not_evt_cdc_bgt :
    ¬ (Reg.EVT_PENDn 0 ≤ p ∧ p ≤ Reg.EVT_PENDn 7) ∧ ¬ (Reg.EVT_ROUTEn 0 ≤ p ∧ p ≤ Reg.EVT_ROUTEn 63) := by
  unfold unitOf at hu
  unfold Reg.EVT_PENDn Reg.EVT_ROUTEn
  omega

/-- Nothing of a register of CDC or BGT is hidden (R337). -/
theorem State.hidden_cdc_bgt (s : State) (rq : Req) : s.hidden rq p = 0 := by
  unfold State.hidden
  rw [if_neg (not_evt_cdc_bgt hu).1, if_neg (not_evt_cdc_bgt hu).2, if_neg (ne_reg_cdc_bgt hu (by decide) (by decide))]
  exact ite_self 0

theorem fixedOnes_cdc_bgt : fixedOnes p = 0 := by
  unfold fixedOnes
  rw [if_neg (ne_reg_cdc_bgt hu (by decide) (by decide)), if_neg (ne_reg_cdc_bgt hu (by decide) (by decide))]

/-- A store into CDC or BGT replaces the bits of the mask. -/
theorem State.store_cdc_bgt (s : State) (rq : Req) (m v : Word) :
    s.store rq p m v = s.setReg p ((s.reg p &&& ~~~m) ||| (v &&& m)) := by
  unfold State.store
  rw [State.hidden_cdc_bgt hu, fixedOnes_cdc_bgt hu]
  dsimp only
  rw [if_neg (not_evt_cdc_bgt hu).1, if_neg (not_evt_cdc_bgt hu).2, show ~~~(0 : Word) = BitVec.allOnes 32 from rfl,
    BitVec.and_allOnes]
  exact congrArg _ BitVec.or_zero

/-- No command hangs on a changed register of CDC or BGT. -/
theorem State.afterWrite_cdc_bgt (s old : State) : s.afterWrite old p = s := by
  have hne : ∀ {a : Nat}, unitOf a ≠ 6 → unitOf a ≠ 8 → p ≠ a := ne_reg_cdc_bgt hu
  have hfam : ∀ {r : Nat → Nat} {n u : Nat}, famInUnit r n u = true → u ≠ 6 → u ≠ 8 → famIdx r n p = none := famIdx_cdc_bgt hu
  have hnet : s.afterNet old p = s := by
    unfold State.afterNet
    rw [hfam (r := Reg.QMG_CLSc_A) (u := 10) (by decide) (by decide) (by decide),
      hfam (r := Reg.QMG_CLSc_B) (u := 10) (by decide) (by decide) (by decide),
      hfam (r := Reg.FWD_POLk_B) (u := 11) (by decide) (by decide) (by decide),
      hfam (r := Reg.CSC_PnCFG) (u := 15) (by decide) (by decide) (by decide),
      if_neg (hne (by decide) (by decide)), beq_false_of_ne (hne (by decide) (by decide))]
    rfl
  have hsa : (List.range 2).findSome? (fun n => (famIdx (Reg.HIF_PnSAa n) 4 p).map (fun a => 4 * n + a)) = none := by
    rw [List.findSome?_eq_none_iff]
    intro n hn
    have hin : famInUnit (Reg.HIF_PnSAa n) 4 19 = true :=
      (by decide : ∀ n ∈ List.range 2, famInUnit (Reg.HIF_PnSAa n) 4 19 = true) n hn
    rw [hfam hin (by decide) (by decide)]
    rfl
  unfold State.afterWrite
  rw [hsa, hnet, if_neg (not_or.mpr ⟨hne (by decide) (by decide), hne (by decide) (by decide)⟩), if_neg (hne (by decide) (by decide)),
    if_neg (hne (by decide) (by decide)), if_neg (hne (by decide) (by decide)), if_neg (hne (by decide) (by decide))]

theorem State.plainWrite_cdc_bgt (s : State) (rq : Req) (a : Nat) (v : Word) (hp : primOf a = p) :
    s.plainWrite rq a v = s.writeWord rq a v := by
  unfold State.plainWrite
  dsimp only
  rw [hp, State.afterWrite_cdc_bgt hu]
  exact ite_self _

/-- A write of a register of CDC or BGT at its primary address is plain, but for UNIT_COMMIT. -/
theorem State.primWrite_cdc_bgt (s : State) (rq : Req) (v : Word) (snap : State → State) (hc : p % 0x10000 ≠ 0xFFF0) :
    s.primWrite rq p v snap = s.plainWrite rq p v := by
  have hne : ∀ {a : Nat}, unitOf a ≠ 6 → unitOf a ≠ 8 → p ≠ a := ne_reg_cdc_bgt hu
  have hone : s.oneBit rq p = none := by
    unfold State.oneBit
    rw [if_neg (hne (by decide) (by decide)), if_neg (hne (by decide) (by decide)), if_neg (hne (by decide) (by decide)),
      if_neg (hne (by decide) (by decide)), if_neg (hne (by decide) (by decide)), if_neg (hne (by decide) (by decide)),
      if_neg (hne (by decide) (by decide)), if_neg (hne (by decide) (by decide))]
  unfold State.primWrite
  rw [if_neg (fun h => hc h.1), hone, ite_self]
  rcases hu with h | h
  · rw [h]
    rfl
  · rw [h]
    rfl

/-- A write of a register of CDC or BGT through an alias is plain. -/
theorem State.aliasWrite_cdc_bgt (s : State) (rq : Req) (a : Nat) (v : Word) (hp : primOf a = p) :
    s.aliasWrite rq a v = s.plainWrite rq a v := by
  have hne : ∀ {a : Nat}, unitOf a ≠ 6 → unitOf a ≠ 8 → p ≠ a := ne_reg_cdc_bgt hu
  have hfam : ∀ {r : Nat → Nat} {n u : Nat}, famInUnit r n u = true → u ≠ 6 → u ≠ 8 → famIdx r n p = none := famIdx_cdc_bgt hu
  unfold State.aliasWrite
  dsimp only
  rw [hp, hfam (r := Reg.GTB_CMPn) (u := 2) (by decide) (by decide) (by decide),
    hfam (r := Reg.GTB_PLSn) (u := 2) (by decide) (by decide) (by decide),
    hfam (r := Reg.HIF_RXRINGr_TAIL) (u := 19) (by decide) (by decide) (by decide),
    hfam (r := Reg.HIF_TXRINGr_TAIL) (u := 19) (by decide) (by decide) (by decide),
    hfam (r := Reg.HIF_NHk_B) (u := 19) (by decide) (by decide) (by decide)]
  exact if_neg (not_or.mpr ⟨hne (by decide) (by decide), hne (by decide) (by decide)⟩)

/-- No write of CDC or BGT moves the cursor of FWD's walk, and none lies beyond the units (R40, R292). -/
theorem State.busWrite_cdc_bgt (s : State) (rq : Req) (a : Nat) (v : Word) (hp : primOf a = p) (ha : unitOf a = unitOf p) :
    s.busWrite rq a v =
      if viewOf a = 0 then s.primWrite rq a v (fun t => t.after (execSnapshot rq t.gtb.gt t))
      else if viewOf a ≤ 3 then s.aliasWrite rq a v else s.writeWord rq a v := by
  have hf : ¬ (p = Reg.FWD_CMDARG ∧ viewOf a ≤ 3 ∧ s.barred rq a (some v) = none) :=
    fun h => ne_reg_cdc_bgt hu (by decide) (by decide) h.1
  unfold State.busWrite
  rw [hp, if_neg hf]
  dsimp only
  rw [if_neg (within_units_cdc_bgt hu ha)]

section

variable {d : RegD} (hv : viewOf p = 0) (ha : p % 4 = 0) (hd : regDesc p = some d) (hw : d.writable = true)

include hv ha hd

/-- The location of a register of CDC or BGT is not reserved, at its primary address or through an alias (R42). -/
theorem reservedLoc_cdc_bgt {k : Nat} (hk : k < 4) : reservedLoc (p + 0x10000 * k) = false := by
  unfold reservedLoc
  rw [primOf_view hv ha (by omega), viewOf_view hv (by omega), unitOf_view hv (by omega), hd]
  dsimp only
  rw [Bool.or_eq_false_iff, Bool.or_eq_false_iff, ← Bool.not_eq_true, ← Bool.not_eq_true, Nat.ble_eq, Nat.ble_eq,
    beq_false_of_ne (by omega)]
  exact ⟨⟨by omega, by omega⟩, rfl⟩

include hw

/-- A write through alias `k` makes the word of R44 the RW and SC bits. -/
theorem State.busWrite_alias_cdc_bgt (s : State) (rq : Req) (v : Word) {k : Nat} (h1 : 1 ≤ k) (h3 : k ≤ 3)
    (hb : s.barred rq (p + 0x10000 * k) none = none) :
    s.busWrite rq (p + 0x10000 * k) v =
      s.setReg p ((s.reg p &&& ~~~(d.mask [.rw, .sc])) ||| (viewWord k (s.reg p) v &&& d.mask [.rw, .sc])) := by
  have hp := primOf_view hv ha (k := k) (by omega)
  have hvw := viewOf_view hv (k := k) (by omega)
  have hua := unitOf_view hv (k := k) (by omega)
  have hbar : s.barred rq (p + 0x10000 * k) (some v) = none := by
    rw [State.barred_word _ _ _ _ none (by omega), hb]
  rw [State.busWrite_cdc_bgt hu s rq _ v hp hua, hvw, if_neg (by omega), if_pos h3, State.aliasWrite_cdc_bgt hu s rq _ v hp,
    State.plainWrite_cdc_bgt hu s rq _ v hp]
  unfold State.writeWord
  rw [if_neg (within_units_cdc_bgt hu hua), hbar]
  dsimp only
  rw [reservedLoc_cdc_bgt hu hv ha hd (by omega), hvw, if_neg Bool.false_ne_true, if_neg (by omega), if_neg (by omega)]
  unfold State.applyAlias
  dsimp only
  rw [hp, hd, hvw]
  dsimp only
  rw [hw, State.store_cdc_bgt hu]
  rfl

omit hv ha in
/-- A full-width write by another initiator than CFG makes the value the RW and SC bits, where WL bits keep theirs (R43, R47). -/
theorem State.applyWrite_cdc_bgt (s : State) (rq : Req) (v : Word) (hpw : d.has .pw = false) (hi : rq.init ≠ .cfg)
    (hwl : (v ^^^ s.reg p) &&& d.mask [.wl] = 0) :
    s.applyWrite rq p v = s.setReg p ((s.reg p &&& ~~~(d.mask [.rw, .sc])) ||| (v &&& d.mask [.rw, .sc])) := by
  have hcan : s.canWL rq = false := by
    unfold State.canWL
    rw [beq_false_of_ne hi, Bool.false_and]
  have hor : d.mask [.rw, .sc] ||| 0 = d.mask [.rw, .sc] := BitVec.or_zero
  unfold State.applyWrite
  rw [hd]
  dsimp only
  rw [hw, hpw, hcan, hwl]
  simp only [Bool.not_true, Bool.false_and, Bool.false_eq_true, if_false, bne_self_eq_false, Bool.and_false, hor]
  exact State.store_cdc_bgt hu s rq _ v

theorem State.busWrite_primary_cdc_bgt (s : State) (rq : Req) (v : Word) (hc : p % 0x10000 ≠ 0xFFF0) (hpw : d.has .pw = false)
    (hi : rq.init ≠ .cfg) (hwl : (v ^^^ s.reg p) &&& d.mask [.wl] = 0) (hb : s.barred rq p (some v) = none) :
    s.busWrite rq p v = s.setReg p ((s.reg p &&& ~~~(d.mask [.rw, .sc])) ||| (v &&& d.mask [.rw, .sc])) := by
  have hp := primOf_primary hv ha
  rw [State.busWrite_cdc_bgt hu s rq p v hp rfl, if_pos hv, State.primWrite_cdc_bgt hu s rq v _ hc, State.plainWrite_cdc_bgt hu s rq p v hp]
  unfold State.writeWord
  rw [if_neg (within_units_cdc_bgt hu rfl), hb]
  dsimp only
  rw [show reservedLoc p = false from reservedLoc_cdc_bgt hu hv ha hd (k := 0) (by decide), hv, if_neg Bool.false_ne_true,
    if_neg (by decide), if_pos rfl]
  exact State.applyWrite_cdc_bgt hu hd hw s rq v hpw hi hwl

end

end

/-! ### Words as octets (R51) -/

theorem leNat_leOctets (k n : Nat) : leNat (leOctets k n) = n % 256 ^ k := by
  induction k generalizing n with
  | zero => exact (Nat.mod_one n).symm
  | succ k ih =>
    rw [leOctets, leNat, ih, BitVec.toNat_ofNat]
    exact Nat.mod_mul.symm.trans (congrArg (n % ·) Nat.pow_succ'.symm)

theorem packWords_one_word (v : Word) : packWords 1 (leOctets 4 v.toNat) = [v] := by
  have hn : leNat ((leOctets 4 v.toNat).take 4) = v.toNat := (leNat_leOctets 4 v.toNat).trans (Nat.mod_eq_of_lt v.isLt)
  rw [packWords, packWords, hn, BitVec.ofNat_toNat, BitVec.setWidth_eq]

/-- Four octets at an aligned address are one full-width write. -/
theorem State.writeAny_word (s : State) (rq : Req) (a : Nat) (v : Word) (ha : a % 4 = 0) :
    s.writeAny rq a (leOctets 4 v.toNat) = s.busWrite rq a v := by
  have hlen : (leOctets 4 v.toNat).length = 4 := rfl
  unfold State.writeAny
  rw [hlen]
  dsimp only
  rw [if_neg (by decide), if_pos ⟨ha, by decide⟩, packWords_one_word]
  rfl

/-! ### The statements of writes -/

/-- The words of R44 under a mask: OR, AND-NOT and XOR on its bits. -/
theorem merge_viewWord (o m v : Word) :
    (o &&& ~~~m) ||| (viewWord 1 o v &&& m) = o ||| (v &&& m) ∧
    (o &&& ~~~m) ||| (viewWord 2 o v &&& m) = o &&& ~~~(v &&& m) ∧
    (o &&& ~~~m) ||| (viewWord 3 o v &&& m) = o ^^^ (v &&& m) := by
  have h1 : viewWord 1 o v = o ||| v := rfl
  have h2 : viewWord 2 o v = o &&& ~~~v := rfl
  have h3 : viewWord 3 o v = o ^^^ v := rfl
  rw [h1, h2, h3]
  refine ⟨?_, ?_, ?_⟩ <;>
    (refine BitVec.eq_of_getLsbD_eq fun i hi => ?_
     simp only [BitVec.getLsbD_or, BitVec.getLsbD_and, BitVec.getLsbD_not, BitVec.getLsbD_xor, hi]
     cases o.getLsbD i <;> cases v.getLsbD i <;> cases m.getLsbD i <;> rfl)

/-- Settles O6: the four octets are one plain write, which stores the merged word. -/
theorem regWriteReplaces : Obligations.RegWriteReplaces := by
  intro s rq p v d hu hv ha hc hd hw hpw hi hwl hb
  have hwrite : s.writeAny rq p (leOctets 4 v.toNat) =
      s.setReg p ((s.reg p &&& ~~~(d.mask [.rw, .sc])) ||| (v &&& d.mask [.rw, .sc])) := by
    rw [State.writeAny_word s rq p v ha, State.busWrite_primary_cdc_bgt hu hv ha hd hw s rq v hc hpw hi hwl hb]
  refine ⟨_, congrArg (fun t => Host.Outcome.next (State.respond t [] _)) hwrite, ?_, ?_, ?_, rfl⟩
  · rw [State.reg_respond, State.reg_setReg_same]
  · have hcnt : ∀ c : Nat, unitOf c ≠ 6 → unitOf c ≠ 8 → unitOf (c + 4) ≠ 6 → unitOf (c + 4) ≠ 8 →
        ∀ w, (s.setReg p w).ctr c = s.ctr c := fun c h6 h8 h6' h8' w =>
      State.ctr_setReg_ne s p c w (ne_reg_cdc_bgt hu h6 h8).symm (ne_reg_cdc_bgt hu h6' h8').symm
    rw [State.resp_respond, hwrite, hcnt Ctr.EVT_ACCCNT (by decide) (by decide) (by decide) (by decide),
      hcnt Ctr.SUP_ACCCNT (by decide) (by decide) (by decide) (by decide)]
    simp
  · exact State.regsBut_respond _ _ (State.regsBut_setReg p _ State.regsBut_refl (List.mem_singleton_self p))

/-- What a write of a register of CDC or BGT through alias `k` leaves (R44). -/
theorem aliasWrite_cdc_bgt {s : State} {rq : Req} {p : Nat} {v : Word} {d : RegD} (hu : unitOf p = 6 ∨ unitOf p = 8)
    (hv : viewOf p = 0) (ha : p % 4 = 0) (hd : regDesc p = some d) (hw : d.writable = true) {k : Nat} (h1 : 1 ≤ k) (h3 : k ≤ 3)
    (hb : s.barred rq (p + 0x10000 * k) none = none) :
    ∃ u, Host.Outcome.next (s.busWrite rq (primOf p + 0x10000 * k) v) = (Host.Outcome.next u : Host.Outcome State Fault Refusal) ∧
      u.reg p = (s.reg p &&& ~~~(d.mask [.rw, .sc])) ||| (viewWord k (s.reg p) v &&& d.mask [.rw, .sc]) ∧
      s.regsBut u [p] ∧ u = { s with regs := u.regs } := by
  rw [primOf_primary hv ha, State.busWrite_alias_cdc_bgt hu hv ha hd hw s rq v h1 h3 hb]
  exact ⟨_, rfl, State.reg_setReg_same _ _ _, State.regsBut_setReg p _ State.regsBut_refl (List.mem_singleton_self p), rfl⟩

/-- Settles O7: the three aliases differ in the word that they ask for (`viewWord`). -/
theorem aliasWrites : Obligations.AliasWrites := by
  refine ⟨?_, ?_, ?_⟩
  · intro s rq p v d hu hv ha hd hw hb
    obtain ⟨hset, -, -⟩ := merge_viewWord (s.reg p) (d.mask [.rw, .sc]) v
    rw [← hset]
    exact aliasWrite_cdc_bgt hu hv ha hd hw (k := 1) (by decide) (by decide) hb
  · intro s rq p v d hu hv ha hd hw hb
    obtain ⟨-, hclear, -⟩ := merge_viewWord (s.reg p) (d.mask [.rw, .sc]) v
    rw [← hclear]
    exact aliasWrite_cdc_bgt hu hv ha hd hw (k := 2) (by decide) (by decide) hb
  · intro s rq p v d hu hv ha hd hw hb
    obtain ⟨-, -, htoggle⟩ := merge_viewWord (s.reg p) (d.mask [.rw, .sc]) v
    rw [← htoggle]
    exact aliasWrite_cdc_bgt hu hv ha hd hw (k := 3) (by decide) (by decide) hb

end Sys2Proof.Machine
end

section
/-! Laws of fault records: which registers a recorded access (R55) and a recorded notice (R431) write, what a first record captures,
and that firing sources and notices count no captures. -/

namespace Sys2Proof.Machine

/-! ### The registers that a recorded access writes (R55) -/

/-- The registers of EVT's and SUP's access records and counts. -/
def accRegs : List Nat :=
  halves Ctr.EVT_ACCCNT ++ halves Ctr.SUP_ACCCNT ++ [Reg.EVT_ACCFLT, Reg.EVT_ACCINFO, Reg.SUP_ACCREC]

theorem State.regsEvt_recordFault (s : State) (rq : Req) (c : AccCause) (wr : Bool) (a e : Nat) :
    s.regsEvt (s.recordFault rq c wr a e) accRegs := by
  have hevt : s.regsEvt (s.bump Ctr.EVT_ACCCNT) accRegs :=
    State.regsEvt_bump _ _ State.regsEvt_refl (by decide) (by decide)
  have hsup : s.regsEvt (s.bump Ctr.SUP_ACCCNT) accRegs :=
    State.regsEvt_bump _ _ State.regsEvt_refl (by decide) (by decide)
  unfold State.recordFault
  refine State.regsEvt_if State.regsEvt_refl (State.regsEvt_if ?_ ?_)
  · exact State.regsEvt_if (State.regsEvt_setFlag _ _ hsup (by decide)) (State.regsEvt_mk (State.regsEvt_setReg _ _ hsup (by decide)))
  · refine State.regsEvt_if (State.regsEvt_if hevt ?_) ?_
    · exact State.regsEvt_fire 1 (State.regsEvt_setFlag _ _ hevt (by decide)) (by decide)
    · exact State.regsEvt_fire 0
        (State.regsEvt_mk (State.regsEvt_setReg _ _ (State.regsEvt_setReg _ _ hevt (by decide)) (by decide))) (by decide)

/-- The registers of EVT with the access counted and captured (R55). -/
def State.accWritten (s : State) (rq : Req) (c : AccCause) (wr : Bool) (a e : Nat) : State :=
  ((s.bump Ctr.EVT_ACCCNT).setReg Reg.EVT_ACCFLT (accWord c wr a s.evt.captures)).setReg Reg.EVT_ACCINFO
    (BitVec.ofNat 32 (s.evt.captures % 4 + 4 * initCode rq.init + 32 * domOf (primOf a) + 1024 * (e % 16)))

/-- EVT with the access captured where no record is held (R55), before source 0 fires. -/
def State.accCaptured (s : State) (rq : Req) (c : AccCause) (wr : Bool) (a e : Nat) : State :=
  { s.accWritten rq c wr a e with evt := { s.evt with captures := s.evt.captures + 1 } }

/-- An access that is not SUP's to record is captured by EVT where it holds no record. -/
theorem State.recordFault_captured {s : State} {rq : Req} {c : AccCause} {wr : Bool} {a e : Nat} (hsys : s.sysOn)
    (hown : (s.secureReq rq && s.unitSecure (unitOf a)) = false) (hv : s.on F.EVT_ACCFLT_VALID = false) :
    s.recordFault rq c wr a e = (s.accCaptured rq c wr a e).fire 0 := by
  have hon : ¬ ((s.dom 1).mode != .on) = true := by rw [hsys]; decide
  unfold State.recordFault
  rw [if_neg hon, hown, Bool.false_and, if_neg Bool.false_ne_true]
  dsimp only
  rw [hv, if_neg Bool.false_ne_true]
  rfl

theorem State.reg_accCaptured (s : State) (rq : Req) (c : AccCause) (wr : Bool) (a e : Nat) :
    (s.accCaptured rq c wr a e).reg Reg.EVT_ACCFLT = accWord c wr a s.evt.captures := by
  unfold State.accCaptured
  rw [State.reg_mk, State.accWritten, State.reg_setReg_ne _ _ _ _ (by decide), State.reg_setReg_same]

theorem State.ctr_accCaptured (s : State) (rq : Req) (c : AccCause) (wr : Bool) (a e : Nat) :
    (s.accCaptured rq c wr a e).ctr Ctr.EVT_ACCCNT = (s.ctr Ctr.EVT_ACCCNT + 1) % 2 ^ 48 := by
  unfold State.accCaptured
  rw [State.ctr_mk, State.accWritten, State.ctr_setReg_ne _ _ _ _ (by decide) (by decide), State.ctr_setReg_ne _ _ _ _ (by decide) (by decide),
    State.ctr_bump_same]

/-! ### Captures (R55) -/

@[simp] theorem State.captures_respond (s : State) (l : List Octet) (ok : Bool) :
    (s.respond l ok).evt.captures = s.evt.captures := rfl

@[simp] theorem State.captures_sendMsi (s : State) (v : Nat) : (s.sendMsi v).evt.captures = s.evt.captures := by
  unfold State.sendMsi
  split
  · rfl
  · split <;> rfl

@[simp] theorem State.captures_fire (s : State) (k : Nat) : (s.fire k).evt.captures = s.evt.captures := by
  unfold State.fire
  split
  · rfl
  · dsimp only
    split
    · rw [State.captures_sendMsi]
      rfl
    · rfl

@[simp] theorem State.captures_fireIf (s : State) (x : Bool) (k : Nat) : (s.fireIf x k).evt.captures = s.evt.captures := by
  cases x
  · rfl
  · exact State.captures_fire s k

@[simp] theorem State.captures_logPush (s : State) (e : LogEntry) : (s.logPush e).evt.captures = s.evt.captures := by
  unfold State.logPush
  split
  · rw [State.captures_fireIf]
  · rw [State.captures_fire, State.bump_evt]

@[simp] theorem State.captures_recordNotice (s : State) (n : Notice) : (s.recordNotice n).evt.captures = s.evt.captures := by
  unfold State.recordNotice
  rw [State.captures_fire, State.captures_logPush, State.countFault_evt]

/-! ### Notices (R426, R431) -/

/-- The registers of SUP's count and record of faults, and of the log's overflow. -/
def noticeRegs : List Nat := halves Ctr.SUP_FLTCNT ++ Reg.SUP_FLTREC :: halves Ctr.SUP_LOGOVF

theorem State.regsEvt_recordNotice (s : State) (n : Notice) : s.regsEvt (s.recordNotice n) noticeRegs := by
  have hcnt : s.regsEvt (s.bump Ctr.SUP_FLTCNT) noticeRegs := State.regsEvt_bump _ _ State.regsEvt_refl (by decide) (by decide)
  have hfault : s.regsEvt (s.countFault n) noticeRegs :=
    State.regsEvt_if (State.regsEvt_setFlag _ _ hcnt (by decide)) (State.regsEvt_setReg _ _ hcnt (by decide))
  have hlog : s.regsEvt ((s.countFault n).logPush (s.logEntry n)) noticeRegs :=
    State.regsEvt_if (State.regsEvt_fireIf _ 28 (State.regsEvt_mk hfault) (by decide))
      (State.regsEvt_fire 29 (State.regsEvt_bump _ _ hfault (by decide) (by decide)) (by decide))
  exact State.regsEvt_fire 24 hlog (by decide)

theorem State.ctr_countFault (s : State) (n : Notice) : (s.countFault n).ctr Ctr.SUP_FLTCNT = (s.ctr Ctr.SUP_FLTCNT + 1) % 2 ^ 48 := by
  unfold State.countFault
  dsimp only
  split
  · rw [State.ctr_setFlag_ne _ _ _ _ (by decide) (by decide), State.ctr_bump_same]
  · rw [State.ctr_setReg_ne _ _ _ _ (by decide) (by decide), State.ctr_bump_same]

theorem State.ctr_logPush_ne (s : State) (e : LogEntry) : (s.logPush e).ctr Ctr.SUP_FLTCNT = s.ctr Ctr.SUP_FLTCNT := by
  unfold State.logPush
  split
  · rw [State.ctr_fireIf_ne _ _ _ _ (by decide) (by decide) (by decide)]
    exact State.ctr_mk s _
  · rw [State.ctr_fire_ne _ _ _ (by decide) (by decide) (by decide), State.ctr_bump_ne _ _ _ _ (by decide) (by decide) (by decide)]

/-- A recorded notice is counted once (R431). -/
theorem State.ctr_recordNotice (s : State) (n : Notice) :
    (s.recordNotice n).ctr Ctr.SUP_FLTCNT = (s.ctr Ctr.SUP_FLTCNT + 1) % 2 ^ 48 := by
  unfold State.recordNotice
  rw [State.ctr_fire_ne _ _ _ (by decide) (by decide) (by decide), State.ctr_logPush_ne, State.ctr_countFault]

/-- A fault is recorded at once while SUP runs (R426). -/
theorem State.report_running (s : State) (n : Notice) (hfs : s.sup.fs ≠ .restart) (hh : s.sup.halted = false) :
    s.report n = s.recordNotice n := by
  unfold State.report
  rw [beq_false_of_ne hfs, hh, Bool.or_self, if_neg Bool.false_ne_true]

/-- A counter keeps its count where its two halves keep theirs. -/
theorem State.ctr_of_regsEvt {s u : State} {l : List Nat} (h : s.regsEvt u l) {c : Nat} (hlo : c ∉ l) (hhi : c + 4 ∉ l)
    (plo : isPendReg c = false) (phi : isPendReg (c + 4) = false) : u.ctr c = s.ctr c := by
  unfold State.ctr
  rw [h c hlo plo, h (c + 4) hhi phi]

end Sys2Proof.Machine
end

section
/-! Laws of the converter proxy (R49, R101, R102), for `Obligations.RfpProxy`. -/

namespace Sys2Proof.Machine

/-! ### A write of RFP_PXCMD -/

theorem regDesc_RFP_PXCMD :
    ∃ d, regDesc Reg.RFP_PXCMD = some d ∧ d.writable = true ∧ d.has .pw = true ∧ d.mask [.rw, .sc] = 0 ∧ d.mask [.wl] = 0 := by
  have h : (regDesc Reg.RFP_PXCMD).any
      (fun d => d.writable && (d.has .pw && (d.mask [.rw, .sc] == 0 && d.mask [.wl] == 0))) = true := by decide
  obtain ⟨d, hd, hp⟩ := Option.any_eq_true _ _ |>.mp h
  simp only [Bool.and_eq_true, beq_iff_eq] at hp
  exact ⟨d, hd, hp⟩

/-- A posted write stores nothing at once (R49). -/
theorem State.applyWrite_pxcmd (s : State) (rq : Req) (v : Word) (h : s.on F.RFP_STATUS_BUSY = false) :
    s.applyWrite rq Reg.RFP_PXCMD v = s.setReg Reg.RFP_PXCMD (s.reg Reg.RFP_PXCMD) := by
  obtain ⟨d, hd, hw, hpw, hm, hwl⟩ := regDesc_RFP_PXCMD
  have hpend : ¬ (Reg.EVT_PENDn 0 ≤ Reg.RFP_PXCMD ∧ Reg.RFP_PXCMD ≤ Reg.EVT_PENDn 7) := by decide
  have hroute : ¬ (Reg.EVT_ROUTEn 0 ≤ Reg.RFP_PXCMD ∧ Reg.RFP_PXCMD ≤ Reg.EVT_ROUTEn 63) := by decide
  have hones : fixedOnes Reg.RFP_PXCMD = 0 := by decide
  have hx : ∀ w : Word, w &&& 4294967295#32 = w := fun w => BitVec.and_allOnes
  unfold State.applyWrite
  rw [hd]
  dsimp only
  rw [hw, hpw, h, hm, hwl]
  simp [State.store, hpend, hroute, hones, hx]

/-- While BUSY is 1 the write is dropped and recorded (R49). -/
theorem State.applyWrite_pxcmd_busy (s : State) (rq : Req) (v : Word) (h : s.on F.RFP_STATUS_BUSY = true) :
    s.applyWrite rq Reg.RFP_PXCMD v = s.recordFault rq .busy true Reg.RFP_PXCMD 15 := by
  obtain ⟨d, hd, hw, hpw, -⟩ := regDesc_RFP_PXCMD
  unfold State.applyWrite
  rw [hd]
  dsimp only
  rw [hw, hpw, h, Bool.not_true, Bool.and_self, if_neg Bool.false_ne_true, if_pos rfl]

/-- A posted write leaves every register, power and clocks as they were, and is answered. -/
theorem State.took_pxcmd (s : State) (rq : Req) (v : Word) (h : s.on F.RFP_STATUS_BUSY = false) :
    (∀ a, (s.took rq Reg.RFP_PXCMD v).reg a = s.reg a) ∧ (∀ d, (s.took rq Reg.RFP_PXCMD v).domReady d = s.domReady d) ∧
      (s.took rq Reg.RFP_PXCMD v).evt.resp.ok = true := by
  unfold State.took
  rw [State.applyWrite_pxcmd s rq v h]
  exact ⟨fun a => State.reg_setReg_self s _ a, fun d => State.domReady_congr rfl rfl d, rfl⟩

/-! ### A value posted, landed and ended -/

/-- The transaction of a value posted to RFP_PXCMD (R101). -/
def pxOf (v : Word) (sent : Bool) : Proxy :=
  { port := F.RFP_PXCMD_PORT.ext v, rd := F.RFP_PXCMD_RD.ext v == 1, addr := F.RFP_PXCMD_ADDR.ext v,
    data := F.RFP_PXCMD_DATA.ext v, word := v, sent := sent }

/-- What a posted value leaves, where `sent` says whether the transaction goes out (R102). -/
theorem State.proxyPost_result (s : State) (v : Word) (sent : Bool)
    (h : (s.domReady (10 + F.RFP_PXCMD_PORT.ext v) && s.link (F.RFP_PXCMD_PORT.ext v) != 0) = sent) :
    (s.proxyPost v).rfp.proxy = some (pxOf v sent) ∧ (s.proxyPost v).on F.RFP_STATUS_BUSY = true ∧
      (s.proxyPost v).reg Reg.RFP_PXCMD = s.reg Reg.RFP_PXCMD ∧ (s.proxyPost v).on F.RFP_PXRD_VALID = false ∧
      (s.proxyPost v).on F.RFP_PXRD_ERR = !sent ∧ (s.proxyPost v).evt = s.evt := by
  have hpost : s.proxyPost v = ((({ s with rfp := { s.rfp with proxy := some (pxOf v sent) } } : State).setFlag F.RFP_STATUS_BUSY
      true).setFlag F.RFP_PXRD_VALID false).setFlag F.RFP_PXRD_ERR (!sent) := by
    subst h
    rfl
  rw [hpost]
  refine ⟨rfl, ?_, ?_, ?_, State.on_setFlag_same _ _ _ (by decide), rfl⟩
  · rw [State.on_setFlag_ne _ _ _ _ (by decide), State.on_setFlag_ne _ _ _ _ (by decide), State.on_setFlag_same _ _ _ (by decide)]
  · rw [State.reg_setFlag_ne _ _ _ _ (by decide), State.reg_setFlag_ne _ _ _ _ (by decide), State.reg_setFlag_ne _ _ _ _ (by decide)]
    exact State.reg_mk s _
  · rw [State.on_setFlag_ne _ _ _ _ (by decide), State.on_setFlag_same _ _ _ (by decide)]

/-- PROXY_CMD that nothing bars while BUSY is 0 posts its value (R49, R102). -/
theorem proxyCmd_posts {s : State} {rq : Req} {v : Word} {sent : Bool} (hbusy : s.on F.RFP_STATUS_BUSY = false)
    (hb : s.barred rq Reg.RFP_PXCMD (some v) = none)
    (h : (s.domReady (10 + F.RFP_PXCMD_PORT.ext v) && s.link (F.RFP_PXCMD_PORT.ext v) != 0) = sent) :
    ∃ u, exec (.proxyCmd rq v) s = .next u ∧ u.rfp.proxy = some (pxOf v sent) ∧ u.on F.RFP_STATUS_BUSY = true ∧
      u.reg Reg.RFP_PXCMD = s.reg Reg.RFP_PXCMD ∧ u.on F.RFP_PXRD_VALID = false ∧ u.on F.RFP_PXRD_ERR = !sent ∧
      u.evt.resp.ok = true := by
  obtain ⟨hreg, hdom, hresp⟩ := s.took_pxcmd rq v hbusy
  have hlink : ∀ n, (s.took rq Reg.RFP_PXCMD v).link n = s.link n := fun n => by
    unfold State.link State.fld
    rw [hreg]
  obtain ⟨hpx, hbusy', hcmd, hvalid, herr, hevt⟩ := State.proxyPost_result (s.took rq Reg.RFP_PXCMD v) v sent (by rw [hdom, hlink, h])
  have hok : ((s.took rq Reg.RFP_PXCMD v).proxyPost v).evt.resp.ok = true := by rw [hevt, hresp]
  refine ⟨(s.took rq Reg.RFP_PXCMD v).proxyPost v, ?_, hpx, hbusy', hcmd.trans (hreg _), hvalid, herr, hok⟩
  change execProxyCmd rq v s = _
  unfold execProxyCmd
  rw [hbusy, if_neg Bool.false_ne_true, State.gated_took s rq _ v _ hb]

theorem proxyCmd_busy {s : State} {rq : Req} {v : Word} (hbusy : s.on F.RFP_STATUS_BUSY = true)
    (hb : s.barred rq Reg.RFP_PXCMD (some v) = none) :
    exec (.proxyCmd rq v) s = .next ((s.applyWrite rq Reg.RFP_PXCMD v).respond [] true) ∧
      (s.applyWrite rq Reg.RFP_PXCMD v).rfp = s.rfp ∧ (s.applyWrite rq Reg.RFP_PXCMD v).reg Reg.RFP_PXCMD = s.reg Reg.RFP_PXCMD := by
  refine ⟨?_, State.applyWrite_rfp s rq _ v, ?_⟩
  · change execProxyCmd rq v s = _
    unfold execProxyCmd
    rw [hbusy, if_pos rfl, State.gated_took s rq _ v _ hb]
    rfl
  · rw [State.applyWrite_pxcmd_busy s rq v hbusy]
    exact State.regsEvt_recordFault s rq _ _ _ _ _ (by decide) (by decide)

theorem pwLand_unsent {s : State} {px : Proxy} (hpx : s.rfp.proxy = some px) (hs : px.sent = false) :
    exec (.pwLand 3) s = .next (s.proxyLand px).convDrain := by
  change execPwLand 3 s = _
  unfold execPwLand
  rw [hpx]
  exact congrArg _ (if_pos ⟨rfl, hs⟩)

theorem proxyComplete_sent {s : State} {px : Proxy} (d : Nat) (hpx : s.rfp.proxy = some px) (hs : px.sent = true) :
    exec (.proxyComplete d) s = .next (s.proxyEnd px d).convDrain := by
  change execProxyComplete d s = _
  unfold execProxyComplete
  rw [hpx]
  exact congrArg _ (if_pos hs)

/-- What a value that lands leaves (R43, R49). -/
theorem State.proxyLand_result (s : State) (px : Proxy) :
    (s.proxyLand px).rfp = { s.rfp with proxy := none } ∧ (s.proxyLand px).on F.RFP_STATUS_BUSY = false ∧
      (s.proxyLand px).reg Reg.RFP_PXCMD = px.word &&& 0x07FFFFFF ∧
      s.regsBut (s.proxyLand px) [Reg.RFP_STATUS, Reg.RFP_PXCMD] ∧
      s.proxyLand px = { s with regs := (s.proxyLand px).regs, rfp := (s.proxyLand px).rfp } := by
  refine ⟨rfl, State.on_setFlag_same _ _ _ (by decide), ?_, ?_, rfl⟩
  · unfold State.proxyLand
    rw [State.reg_setFlag_ne _ _ _ _ (by decide), State.reg_setReg_same]
    rfl
  · exact State.regsBut_setFlag _ _ (State.regsBut_setReg _ _ (State.regsBut_mk State.regsBut_refl) (by decide)) (by decide)

theorem State.proxyEnd_write (s : State) (px : Proxy) (d : Nat) (h : px.rd = false) : s.proxyEnd px d = s.proxyLand px := by
  unfold State.proxyEnd
  exact if_neg (ne_true_of_eq_false h)

/-- A read that ends leaves its data in RFP_PXRD and fires source 62 (R101). -/
theorem State.proxyEnd_read (s : State) (px : Proxy) (d : Nat) (h : px.rd = true) :
    s.proxyEnd px d = (((s.proxyLand px).setFld F.RFP_PXRD_DATA d).setFlag F.RFP_PXRD_VALID true).fire 62 := by
  unfold State.proxyEnd
  exact if_pos h

theorem State.proxyEnd_read_result (s : State) (px : Proxy) (d : Nat) (h : px.rd = true) :
    (s.proxyEnd px d).rfp = { s.rfp with proxy := none } ∧ (s.proxyEnd px d).on F.RFP_STATUS_BUSY = false ∧
      (s.proxyEnd px d).fld F.RFP_PXRD_DATA = d % 2 ^ 8 ∧ (s.proxyEnd px d).on F.RFP_PXRD_VALID = true ∧
      (s.sysOn → (s.proxyEnd px d).isPend 62 = true) ∧ (s.proxyEnd px d).reg Reg.RFP_PXCMD = px.word &&& 0x07FFFFFF ∧
      s.regsEvt (s.proxyEnd px d) [Reg.RFP_STATUS, Reg.RFP_PXRD, Reg.RFP_PXCMD] ∧
      s.proxyEnd px d = { s with regs := (s.proxyEnd px d).regs, evt := (s.proxyEnd px d).evt, rfp := (s.proxyEnd px d).rfp } := by
  obtain ⟨hrfp, hbusy, hcmd, hregs, -⟩ := s.proxyLand_result px
  rw [State.proxyEnd_read s px d h]
  refine ⟨?_, ?_, ?_, ?_, fun hs => State.isPend_fire _ 62 hs, ?_, ?_, ?_⟩
  · rw [State.fire_rfp]
    exact hrfp
  · rw [State.on_fire_ne _ _ _ (by decide) (by decide), State.on_setFlag_ne _ _ _ _ (by decide), State.on_setFld_ne _ _ _ _ (by decide),
      hbusy]
  · rw [State.fld_fire_ne _ _ _ (by decide) (by decide), State.fld_setFlag_ne _ _ _ _ (by decide), State.fld_setFld_same _ _ _ (by decide)]
    rfl
  · rw [State.on_fire_ne _ _ _ (by decide) (by decide), State.on_setFlag_same _ _ _ (by decide)]
  · rw [State.reg_fire_ne _ _ _ (by decide) (by decide), State.reg_setFlag_ne _ _ _ _ (by decide), State.reg_setFld_ne _ _ _ _ (by decide),
      hcmd]
  · have hland : s.regsEvt (s.proxyLand px) [Reg.RFP_STATUS, Reg.RFP_PXRD, Reg.RFP_PXCMD] := fun a ha _ =>
      hregs a (by simp only [List.mem_cons, List.not_mem_nil, or_false] at ha ⊢; tauto)
    exact State.regsEvt_fire 62 (State.regsEvt_setFlag _ _ (State.regsEvt_setFld _ _ hland (by decide)) (by decide)) (by decide)
  · rw [State.fire_frame]
    rfl

/-! ### Words of CFG that wait -/

theorem State.convDrain_busy (s : State) (h : s.on F.RFP_STATUS_BUSY = true) : s.convDrain = s := if_pos h

theorem State.convDrain_nil (s : State) (h : s.rfp.convWait = []) : s.convDrain = s := by
  have hs : ({ s with rfp := { s.rfp with convWait := [] } } : State) = s := by rw [← h]
  unfold State.convDrain
  rw [h]
  exact (if_congr Iff.rfl rfl hs).trans (ite_self s)

/-- Settles O18: each clause is the lemma of its command, or of what a value posted, landed or ended leaves. -/
theorem rfpProxy : Obligations.RfpProxy := by
  refine ⟨?_, ?_, fun s rq v => proxyCmd_busy, fun s px => pwLand_unsent, fun s px d => proxyComplete_sent d,
    fun s px => ⟨_, rfl, s.proxyLand_result px⟩, fun s px d h => ⟨_, rfl, s.proxyEnd_read_result px d h⟩,
    State.proxyEnd_write, State.convDrain_nil, State.convDrain_busy⟩
  · intro s rq v hbusy hb hd hl
    obtain ⟨u, hu, hpx, hbusy', hcmd, hvalid, herr, hresp⟩ := proxyCmd_posts (sent := true) hbusy hb (by rw [hd, bne_iff_ne.mpr hl]; rfl)
    exact ⟨u, hu, hpx, hbusy', hcmd, hvalid, herr, hresp⟩
  · intro s rq v hbusy hb hl
    obtain ⟨u, hu, hpx, hbusy', -, hvalid, herr, -⟩ := proxyCmd_posts (sent := false) hbusy hb (by rw [hl]; exact Bool.and_false _)
    exact ⟨u, hu, hpx, hbusy', hvalid, herr⟩

end Sys2Proof.Machine
end

section
/-! Reads that clear a record (R48), posted writes that land (R49) and accesses that nobody answers (R54), for
`Obligations.RecordsReadAndTimeout`. -/

namespace Sys2Proof.Machine

/-! ### Reading EVT_ACCFLT -/

/-- A field whose bits are all cleared reads 0. -/
theorem Field.ext_cleared (f : Field) (v m : Word) (h : bitMask f.lo f.w &&& ~~~m = 0) : f.ext (v &&& ~~~m) = 0 := by
  have hbits : (v &&& ~~~m).extractLsb' f.lo f.w = 0#f.w := by
    refine BitVec.eq_of_getLsbD_eq fun i hi => ?_
    have hb := congrArg (fun w : Word => w.getLsbD (f.lo + i)) h
    simp only [bitMask, BitVec.getLsbD_and, BitVec.getLsbD_shiftLeft, BitVec.getLsbD_setWidth, BitVec.getLsbD_allOnes,
      BitVec.ofNat_eq_ofNat, BitVec.getLsbD_zero, Nat.add_sub_cancel_left, hi] at hb
    simp only [BitVec.getLsbD_extractLsb', BitVec.getLsbD_and, BitVec.getLsbD_zero, hi]
    by_cases h32 : f.lo + i < 32
    · have hi32 : i < 32 := by omega
      simp_all
    · rw [BitVec.getLsbD_of_ge v _ (by omega)]
      rfl
  unfold Field.ext
  rw [hbits]
  rfl

/-- EVT_ACCFLT: an RC register without write-only bits; the RC bits hold VALID, OVF and CAUSE. -/
theorem regDesc_EVT_ACCFLT :
    ∃ d, regDesc Reg.EVT_ACCFLT = some d ∧ d.has .rc = true ∧ woMask d = 0 ∧ bitMask 0 1 &&& ~~~(d.mask [.rc]) = 0 ∧
      bitMask 1 1 &&& ~~~(d.mask [.rc]) = 0 ∧ bitMask 2 3 &&& ~~~(d.mask [.rc]) = 0 := by
  have h : (regDesc Reg.EVT_ACCFLT).any (fun d => d.has .rc && (woMask d == 0 && (bitMask 0 1 &&& ~~~(d.mask [.rc]) == 0 &&
      (bitMask 1 1 &&& ~~~(d.mask [.rc]) == 0 && bitMask 2 3 &&& ~~~(d.mask [.rc]) == 0)))) = true := by decide
  obtain ⟨d, hd, hp⟩ := (Option.any_eq_true _ _).mp h
  simp only [Bool.and_eq_true, beq_iff_eq] at hp
  exact ⟨d, hd, hp⟩

theorem State.readVal_ACCFLT (s : State) (rq : Req) : s.readVal rq Reg.EVT_ACCFLT = s.reg Reg.EVT_ACCFLT := by
  obtain ⟨d, hd, -, hwo, -⟩ := regDesc_EVT_ACCFLT
  have hprim : primOf Reg.EVT_ACCFLT = Reg.EVT_ACCFLT := by decide
  have hres : reservedLoc Reg.EVT_ACCFLT = false := by decide
  have hview : s.view Reg.EVT_ACCFLT = s.reg Reg.EVT_ACCFLT := by
    change s.viewEvt Reg.EVT_ACCFLT _ = _
    exact if_neg (by decide)
  have hpend : ¬ (Reg.EVT_PENDn 0 ≤ Reg.EVT_ACCFLT ∧ Reg.EVT_ACCFLT ≤ Reg.EVT_PENDn 7) := by decide
  have hroute : ¬ (Reg.EVT_ROUTEn 0 ≤ Reg.EVT_ACCFLT ∧ Reg.EVT_ACCFLT ≤ Reg.EVT_ROUTEn 63) := by decide
  have hsnap : Reg.EVT_ACCFLT ≠ Reg.CHIP_SNAPMASK := by decide
  have hhid : s.hidden rq Reg.EVT_ACCFLT = 0 := by
    unfold State.hidden
    rw [if_neg hpend, if_neg hroute, if_neg hsnap, ite_self]
  unfold State.readVal
  dsimp only
  rw [hres, hprim, hd, hview, hhid, if_neg Bool.false_ne_true]
  dsimp only
  rw [if_neg (by decide), hwo]
  exact BitVec.and_allOnes.trans BitVec.and_allOnes

/-- A full-width read of EVT_ACCFLT gives the word and clears its RC bits (R48). -/
theorem State.readWord_ACCFLT (s : State) (rq : Req) (hb : s.barred rq Reg.EVT_ACCFLT none = none) {d : RegD}
    (hd : regDesc Reg.EVT_ACCFLT = some d) (hrc : d.has .rc = true) :
    s.readWord rq Reg.EVT_ACCFLT =
      (s.reg Reg.EVT_ACCFLT, s.setReg Reg.EVT_ACCFLT (s.reg Reg.EVT_ACCFLT &&& ~~~(d.mask [.rc]))) := by
  have hprim : primOf Reg.EVT_ACCFLT = Reg.EVT_ACCFLT := by decide
  unfold State.readWord
  rw [hb, if_neg (by decide)]
  dsimp only
  rw [State.readVal_ACCFLT, hprim, hd, if_neg (by decide), if_neg (fun h => absurd h.1 (by decide))]
  exact if_pos ⟨by decide, hrc⟩

theorem rcRead_accflt (s : State) (rq : Req) (hb : s.barred rq Reg.EVT_ACCFLT none = none) :
    ∃ u, exec (.rcRead rq Reg.EVT_ACCFLT 4) s = .next u ∧
      u.evt.resp = { data := leOctets 4 (s.reg Reg.EVT_ACCFLT).toNat, ok := true } ∧
      u.on F.EVT_ACCFLT_VALID = false ∧ u.on F.EVT_ACCFLT_OVF = false ∧ u.fld F.EVT_ACCFLT_CAUSE = 0 ∧
      s.regsBut u [Reg.EVT_ACCFLT] ∧ u = { s with regs := u.regs, evt := u.evt } := by
  obtain ⟨d, hd, hrc, -, hvalid, hovf, hcause⟩ := regDesc_EVT_ACCFLT
  have hacc : s.accCause rq Reg.EVT_ACCFLT none = none := by
    unfold State.accCause
    rw [if_neg (by decide), if_neg (by decide), hb]
  have hread : s.readAny rq Reg.EVT_ACCFLT 4 = ((leOctets 4 (s.reg Reg.EVT_ACCFLT).toNat, true),
      s.setReg Reg.EVT_ACCFLT (s.reg Reg.EVT_ACCFLT &&& ~~~(d.mask [.rc]))) := by
    unfold State.readAny
    rw [if_neg (by decide), if_pos (by decide)]
    simp only [State.readWords, State.readWord_ACCFLT s rq hb hd hrc, hacc, List.append_nil, Option.isNone_none, Bool.and_true]
  have hf : ∀ f : Field, f.reg = Reg.EVT_ACCFLT → bitMask f.lo f.w &&& ~~~(d.mask [.rc]) = 0 →
      (s.setReg Reg.EVT_ACCFLT (s.reg Reg.EVT_ACCFLT &&& ~~~(d.mask [.rc]))).fld f = 0 := fun f hr hm => by
    rw [← hr, State.fld_setReg_same, Field.ext_cleared f _ _ hm]
  refine ⟨_, congrArg (fun r : (List Octet × Bool) × State => Host.Outcome.next (r.2.respond r.1.1 r.1.2)) hread, rfl, ?_, ?_, ?_, ?_, rfl⟩
  · rw [State.on_respond]
    exact beq_false_of_ne (ne_of_eq_of_ne (hf F.EVT_ACCFLT_VALID rfl hvalid) (by decide))
  · rw [State.on_respond]
    exact beq_false_of_ne (ne_of_eq_of_ne (hf F.EVT_ACCFLT_OVF rfl hovf) (by decide))
  · rw [State.fld_respond]
    exact hf F.EVT_ACCFLT_CAUSE rfl hcause
  · exact State.regsBut_respond _ _ (State.regsBut_setReg _ _ State.regsBut_refl (by decide))

/-! ### A posted write that lands, and an access that nobody answers -/

/-- With nothing in flight and no word of CFG waiting, a landing only clears BUSY (R49). -/
theorem pwLand_idle (s : State) (hpx : s.rfp.proxy = none) (hw : s.rfp.convWait = []) :
    exec (.pwLand 3) s = .next (s.setFlag F.RFP_STATUS_BUSY false) := by
  change execPwLand 3 s = _
  unfold execPwLand
  rw [hpx]
  exact congrArg _ ((if_pos rfl).trans (State.convDrain_nil (s.setFlag F.RFP_STATUS_BUSY false) hw))

theorem regAccessTimeout_captured (s : State) (rq : Req) (a be gt : Nat) (wr : Bool) (hsys : s.sysOn)
    (hown : (s.secureReq rq && s.unitSecure (unitOf a)) = false) (hv : s.on F.EVT_ACCFLT_VALID = false)
    (hfs : s.sup.fs ≠ .restart) (hh : s.sup.halted = false) :
    ∃ u, exec (.regAccessTimeout rq a wr be gt) s = .next u ∧
      u.evt.resp = { data := [0, 0, 0, 0], ok := false } ∧
      u.ctr Ctr.EVT_ACCCNT = (s.ctr Ctr.EVT_ACCCNT + 1) % 2 ^ 48 ∧
      u.reg Reg.EVT_ACCFLT = accWord .timeout wr a s.evt.captures ∧ u.evt.captures = s.evt.captures + 1 ∧
      u.ctr Ctr.SUP_FLTCNT = (s.ctr Ctr.SUP_FLTCNT + 1) % 2 ^ 48 ∧
      u = { s with regs := u.regs, evt := u.evt, sup := u.sup } := by
  obtain ⟨t, ht⟩ : ∃ t, t = s.recordFault rq .timeout wr a be := ⟨_, rfl⟩
  obtain ⟨n, hn⟩ : ∃ n, n = t.mkNotice 6 (unitOf a % 32) 0xFFFF 0xFFFF 0 gt := ⟨_, rfl⟩
  have hsup : t.sup = s.sup := by rw [ht, State.recordFault_sup]
  have hcap : t = (s.accCaptured rq .timeout wr a be).fire 0 := ht.trans (State.recordFault_captured hsys hown hv)
  have hrep : t.report n = t.recordNotice n := State.report_running t n (hsup ▸ hfs) (hsup ▸ hh)
  have hnote : t.regsEvt (t.recordNotice n) noticeRegs := t.regsEvt_recordNotice n
  have hexec : exec (.regAccessTimeout rq a wr be gt) s = .next ((t.recordNotice n).respond (leOctets 4 0) false) := by
    rw [← hrep, hn, ht]
    rfl
  refine ⟨_, hexec, rfl, ?_, ?_, ?_, ?_, ?_⟩
  · rw [State.ctr_respond, State.ctr_of_regsEvt hnote (by decide) (by decide) (by decide) (by decide), hcap,
      State.ctr_fire_ne _ _ _ (by decide) (by decide) (by decide), State.ctr_accCaptured]
  · rw [State.reg_respond, hnote _ (by decide) (by decide), hcap, State.reg_fire_ne _ _ _ (by decide) (by decide), State.reg_accCaptured]
  · rw [State.captures_respond, State.captures_recordNotice, hcap, State.captures_fire]
    rfl
  · have hcnt : t.ctr Ctr.SUP_FLTCNT = s.ctr Ctr.SUP_FLTCNT :=
      State.ctr_of_regsEvt (ht ▸ s.regsEvt_recordFault rq _ wr a be) (by decide) (by decide) (by decide) (by decide)
    rw [State.ctr_respond, State.ctr_recordNotice, hcnt]
  · rw [State.respond_frame, State.recordNotice_frame, ht, State.recordFault_frame]

/-- Settles O8: each clause is the lemma of its command. -/
theorem recordsReadAndTimeout : Obligations.RecordsReadAndTimeout :=
  ⟨rcRead_accflt,
    fun s hpx hw => ⟨_, pwLand_idle s hpx hw, State.on_setFlag_same _ _ _ (by decide),
      State.regsBut_setFlag _ _ State.regsBut_refl (by decide), rfl⟩,
    regAccessTimeout_captured⟩

end Sys2Proof.Machine
end

section
/-! Commit groups (R50, R182, R203), for `Obligations.CommitGroups`: staged, discarded, taken to their safe boundary. -/

namespace Sys2Proof.Machine

/-! ### A staged set -/

theorem State.fld_setFld_pending (s : State) (u n : Nat) : (s.setFld (pendingFld u) n).fld (pendingFld u) = n % 256 :=
  State.fld_setFld_same s (pendingFld u) n (show 0 + 8 ≤ 32 by decide)

/-- Staging a group that has registers: their present values become its set, and its PENDING bit is set. -/
theorem State.stage_result (s : State) (u g : Nat) (h : groupRegs u g ≠ []) :
    (s.stage u g).staged = s.staged.filter (fun x => !(x.unit == u && x.grp == g)) ++
      [{ unit := u, grp := g, vals := (groupRegs u g).map (fun r => (r.1, s.reg r.1 &&& r.2)), gsn := s.gsn }] ∧
    (s.stage u g).fld (pendingFld u) = setBit (s.fld (pendingFld u)) g true % 256 := by
  have he : ¬ (groupRegs u g).isEmpty = true := by rwa [List.isEmpty_iff]
  unfold State.stage
  dsimp only
  rw [if_neg he]
  refine ⟨State.setFld_staged _ _ _, ?_⟩
  rw [State.fld_setFld_pending, State.fld_mk]

/-- Discarding removes the set and clears the group's PENDING bit. -/
theorem State.unstage_result (s : State) (u g : Nat) :
    (s.unstage u g).staged = s.staged.filter (fun x => !(x.unit == u && x.grp == g)) ∧
    (s.unstage u g).fld (pendingFld u) = setBit (s.fld (pendingFld u)) g false % 256 := by
  unfold State.unstage
  dsimp only
  refine ⟨State.setFld_staged _ _ _, ?_⟩
  rw [State.fld_setFld_pending, State.fld_mk]

/-! ### The announcement of a mask change (R182, R203) -/

/-- MSQ's channel masks have a staged set. -/
def State.masksStaged (s : State) : Bool := s.staged.any (fun (x : Staged) => x.unit == 7 && x.grp == 2)

theorem State.masksStaged_iff (s : State) : s.masksStaged = true ↔ ∃ x ∈ s.staged, x.unit = 7 ∧ x.grp = 2 := by
  simp only [State.masksStaged, List.any_eq_true, Bool.and_eq_true, beq_iff_eq]

theorem State.stageGroups_eq (s : State) (u g : Nat) :
    s.stageGroups u g = ((groupsOf g).foldl (fun t k => t.stage u k) s).fireIf (u == 7 && (bit g 2 && !s.masksStaged)) 102 := rfl

theorem State.stageGroups_announces (s : State) (u g : Nat) (hu : u = 7) (hg : bit g 2 = true)
    (h : ∀ x ∈ s.staged, ¬(x.unit = 7 ∧ x.grp = 2)) :
    s.stageGroups u g = ((groupsOf g).foldl (fun t k => t.stage u k) s).fire 102 := by
  have hm : s.masksStaged = false := by
    rw [← Bool.not_eq_true, State.masksStaged_iff]
    exact fun ⟨x, hx, hxm⟩ => h x hx hxm
  rw [State.stageGroups_eq, hu, hg, hm]
  rfl

theorem State.stageGroups_quiet (s : State) (u g : Nat)
    (h : u ≠ 7 ∨ bit g 2 = false ∨ ∃ x ∈ s.staged, x.unit = 7 ∧ x.grp = 2) :
    s.stageGroups u g = (groupsOf g).foldl (fun t k => t.stage u k) s := by
  have hc : (u == 7 && (bit g 2 && !s.masksStaged)) = false := by
    rcases h with h | h | h
    · rw [beq_false_of_ne h, Bool.false_and]
    · rw [h, Bool.false_and, Bool.and_false]
    · rw [s.masksStaged_iff.mpr h, Bool.not_true, Bool.and_false, Bool.and_false]
  rw [State.stageGroups_eq, hc]
  rfl

/-! ### The safe boundary -/

/-- Only MSQ's channel masks wait until they are due (R182). -/
theorem State.boundaryNow_eq_false (s : State) (u g : Nat) : s.boundaryNow u g = false ↔ u = 7 ∧ g = 2 ∧ s.maskDue = false := by
  unfold State.boundaryNow
  rw [Bool.or_eq_false_iff, Bool.not_eq_false', Bool.and_eq_true, beq_iff_eq, beq_iff_eq, and_assoc]

section

variable {s : State} {u g : Nat} {st : Staged}

theorem State.commitAt_none (h : s.staged.find? (fun x => x.unit == u && x.grp == g) = none) : s.commitAt u g = s := by
  unfold State.commitAt
  rw [h]

theorem State.commitAt_activates (h : s.staged.find? (fun x => x.unit == u && x.grp == g) = some st) (hok : s.commitOk st = true) :
    s.commitAt u g = (s.activate st).afterCommit s st := by
  unfold State.commitAt
  rw [h]
  exact if_pos hok

/-- A set that fails its check is discarded with the unit's rejection source, and no active value changes. -/
theorem State.commitAt_rejects (h : s.staged.find? (fun x => x.unit == u && x.grp == g) = some st) (hok : s.commitOk st = false) :
    ∃ v : State, v = (s.unstage u g).setFld (lastRejFld u) (setBit ((s.unstage u g).fld (lastRejFld u)) g true) ∧
      s.commitAt u g = v.fire (rejectSrc u) ∧ v.active = s.active ∧
      v.staged = s.staged.filter (fun x => !(x.unit == u && x.grp == g)) := by
  refine ⟨_, rfl, ?_, ?_, ?_⟩
  · unfold State.commitAt
    rw [h]
    exact if_neg (ne_true_of_eq_false hok)
  · rw [State.setFld_active, State.unstage_active]
  · rw [State.setFld_staged, (s.unstage_result u g).1]

end

/-! ### The commands -/

theorem commitGo_unbarred (s : State) (rq : Req) (u g : Nat)
    (hb : s.barred rq (commitReg u) (some (BitVec.ofNat 32 (g % 256 + 256))) = none) :
    exec (.commitGo rq u g) s = .next ((s.took rq (commitReg u) (BitVec.ofNat 32 (g % 256 + 256))).stageGroups u g) := by
  change execCommitGo rq u g s = _
  unfold execCommitGo
  rw [State.gated_took s rq _ _ _ hb]

theorem commitAbort_unbarred (s : State) (rq : Req) (u g : Nat) (go : Bool)
    (hb : s.barred rq (commitReg u) (some (BitVec.ofNat 32 (g % 256 + 256 * b2n go + 512))) = none) :
    exec (.commitAbort rq u g go) s = .next ((groupsOf g).foldl (fun t k => t.unstage u k)
      (s.took rq (commitReg u) (BitVec.ofNat 32 (g % 256 + 256 * b2n go + 512)))) := by
  change execCommitAbort rq u g go s = _
  unfold execCommitAbort
  rw [State.gated_took s rq _ _ _ hb]

/-- Settles O9: each clause is the lemma of its command, of a staged set, or of the safe boundary. -/
theorem commitGroups : Obligations.CommitGroups :=
  ⟨commitGo_unbarred, commitAbort_unbarred, fun _ _ _ => rfl, State.stageGroups_announces, State.stageGroups_quiet,
    State.boundaryNow_eq_false, State.stage_result, State.unstage_result, fun _ _ _ => State.commitAt_none,
    fun _ _ _ _ => State.commitAt_activates, fun _ _ _ _ => State.commitAt_rejects⟩

end Sys2Proof.Machine
end

section
/-! Laws of RFP's ports (chapter 05): what a port reads as after a change of a port, and what the link state and the counters of a port
read as after each shared operation. -/

namespace Sys2Proof.Machine

/-- A test whose own answer is another leaves `z` to the rest. -/
theorem ite_eq_iff_of_left_ne {α : Type} {c : Prop} [Decidable c] {x y z : α} (h : x ≠ z) :
    (if c then x else y) = z ↔ ¬ c ∧ y = z := by
  rw [ite_eq_iff, or_iff_right fun hx => h hx.2]

/-! ### Ports -/

theorem listSet_eq_set {α : Type} (l : List α) (i : Nat) (x : α) : listSet l i x = l.set i x := by
  induction l generalizing i with
  | nil => rfl
  | cons a l ih =>
    cases i with
    | zero => rfl
    | succ i => exact congrArg (a :: ·) (ih i)

theorem State.setPort_frame (s : State) (n : Nat) (p : RfpPort) : s.setPort n p = { s with rfp := (s.setPort n p).rfp } := rfl

/-- Ports need nothing but RFP. -/
theorem State.port_congr {s t : State} (h : t.rfp = s.rfp) (n : Nat) : t.port n = s.port n := by
  unfold State.port
  rw [h]

theorem State.port_setPort_same (s : State) (n : Nat) (p : RfpPort) (h : n < s.rfp.ports.length) : (s.setPort n p).port n = p := by
  change (listSet s.rfp.ports n p).getD n {} = p
  rw [listSet_eq_set, List.getD_eq_getElem _ _ (by rwa [List.length_set]), List.getElem_set_self]

theorem State.port_setPort_ne (s : State) (n m : Nat) (p : RfpPort) (h : m ≠ n) : (s.setPort n p).port m = s.port m := by
  change (listSet s.rfp.ports n p).getD m {} = s.rfp.ports.getD m {}
  rw [listSet_eq_set, List.getD_eq_getElem?_getD, List.getElem?_set_ne h.symm, List.getD_eq_getElem?_getD]

@[simp] theorem State.ports_length_setPort (s : State) (n : Nat) (p : RfpPort) :
    (s.setPort n p).rfp.ports.length = s.rfp.ports.length := by
  change (listSet s.rfp.ports n p).length = _
  rw [listSet_eq_set, List.length_set]

/-! ### Registers of a port -/

theorem Field.apart_of_bits {f g : Field} (h : g.lo + g.w ≤ f.lo ∨ f.lo + f.w ≤ g.lo) : Field.apart f g = true := by
  unfold Field.apart
  rw [Bool.or_eq_true, Bool.or_eq_true, Nat.ble_eq, Nat.ble_eq]
  exact Or.inr h

theorem Field.apart_of_reg {f g : Field} (h : f.reg ≠ g.reg) : Field.apart f g = true := by
  unfold Field.apart
  rw [Bool.or_eq_true, bne_iff_ne]
  exact Or.inl h

/-- No register of RFP's ports is one of EVT_PENDn. -/
theorem isPendReg_port {a : Nat} (h : 0x302000 ≤ a) : isPendReg a = false :=
  isPendReg_high (Nat.lt_of_lt_of_le (by decide) h)

section

variable (n : Nat)

theorem isPendReg_LSTAT : isPendReg (Reg.RFPn_LSTAT n) = false :=
  isPendReg_port (Nat.le_add_right_of_le (by decide))

theorem isPendReg_LAT : isPendReg (Reg.RFPn_LAT n) = false :=
  isPendReg_port (Nat.le_add_right_of_le (by decide))

theorem lstat_ne_lat : Reg.RFPn_LSTAT n ≠ Reg.RFPn_LAT n := by
  unfold Reg.RFPn_LSTAT Reg.RFPn_LAT
  omega

theorem lstat_ne_linkdn : Reg.RFPn_LSTAT n ≠ Ctr.RFPn_LINKDN n ∧ Reg.RFPn_LSTAT n ≠ Ctr.RFPn_LINKDN n + 4 := by
  unfold Reg.RFPn_LSTAT Ctr.RFPn_LINKDN
  omega

theorem lstat_ne_crcerr : Reg.RFPn_LSTAT n ≠ Ctr.RFPn_CRCERR n ∧ Reg.RFPn_LSTAT n ≠ Ctr.RFPn_CRCERR n + 4 := by
  unfold Reg.RFPn_LSTAT Ctr.RFPn_CRCERR
  omega

end

/-- Nothing of the register file depends on the moment. -/
theorem State.regsBut_of_at {s u : State} {t : Time} {l : List Nat} (h : (s.at t).regsBut u l) : s.regsBut u l := fun a ha =>
  (h a ha).trans (State.reg_at s t a)

/-! ### The link state -/

@[simp] theorem State.link_at (s : State) (t : Time) (n : Nat) : (s.at t).link n = s.link n := State.fld_at s t _

@[simp] theorem State.link_setPort (s : State) (m : Nat) (p : RfpPort) (n : Nat) : (s.setPort m p).link n = s.link n :=
  State.fld_mk s _

theorem State.link_setState (s : State) (n dest : Nat) (h : dest < 8) : (s.setFld (F.RFPn_LSTAT_STATE n) dest).link n = dest :=
  (State.fld_setFld_same s _ dest (show 0 + 3 ≤ 32 by decide)).trans (Nat.mod_eq_of_lt h)

theorem State.link_setClkok (s : State) (n : Nat) (x : Bool) : (s.setFlag (F.RFPn_LSTAT_CLKOK n) x).link n = s.link n :=
  State.fld_setFlag_ne s _ _ x (Field.apart_of_bits (.inl (show 0 + 3 ≤ 5 by decide)))

theorem State.link_fireIf (s : State) (x : Bool) (k n : Nat) (hk : k < 256) : (s.fireIf x k).link n = s.link n :=
  State.fld_fireIf_ne s x k _ hk (isPendReg_LSTAT n)

theorem State.clkok_setClkok (s : State) (n : Nat) (x : Bool) :
    (s.setFlag (F.RFPn_LSTAT_CLKOK n) x).on (F.RFPn_LSTAT_CLKOK n) = x :=
  State.on_setFlag_same s _ x rfl

theorem State.clkok_setState (s : State) (n dest : Nat) :
    (s.setFld (F.RFPn_LSTAT_STATE n) dest).on (F.RFPn_LSTAT_CLKOK n) = s.on (F.RFPn_LSTAT_CLKOK n) :=
  State.on_setFld_ne s _ _ dest (Field.apart_of_bits (.inr (show 0 + 3 ≤ 5 by decide)))

end Sys2Proof.Machine
end

section
/-! The link states of a port (R98 to R100), for `Obligations.RfpLinkStates`. -/

namespace Sys2Proof.Machine

/-! ### SYSREF_EDGE and LINK_LOCK_TIMEOUT -/

theorem sysrefEdge_locking {s : State} {n : Nat} (al : Bool) (h : s.link n = 2) :
    exec (.sysrefEdge n al) s = .next (s.setFld (F.RFPn_LSTAT_STATE n) 3) := by
  change execSysrefEdge n al s = _
  unfold execSysrefEdge
  rw [if_pos h]

theorem sysrefEdge_misaligned {s : State} {n : Nat} (h : s.link n = 4) : exec (.sysrefEdge n false) s = .next (s.fire 57) := by
  change execSysrefEdge n false s = _
  unfold execSysrefEdge
  rw [if_neg (by omega), if_pos (.inr h)]
  rfl

theorem linkLockTimeout_waits {s : State} {n : Nat} (h : s.link n = 3) :
    exec (.linkLockTimeout n) s = .next ((s.setFld (F.RFPn_LSTAT_STATE n) 2).bump (Ctr.RFPn_LINKDN n)) := by
  change execLinkLockTimeout n s = _
  unfold execLinkLockTimeout
  rw [if_pos h]

/-- What an exit of LOCKING without lock leaves (R99). -/
theorem State.lockTimedOut_result (s : State) (n : Nat) :
    ∃ u, u = (s.setFld (F.RFPn_LSTAT_STATE n) 2).bump (Ctr.RFPn_LINKDN n) ∧ u.link n = 2 ∧
      u.ctr (Ctr.RFPn_LINKDN n) = (s.ctr (Ctr.RFPn_LINKDN n) + 1) % 2 ^ 48 ∧
      s.regsBut u (Reg.RFPn_LSTAT n :: halves (Ctr.RFPn_LINKDN n)) ∧ u = { s with regs := u.regs } := by
  obtain ⟨hlo, hhi⟩ := lstat_ne_linkdn n
  refine ⟨_, rfl, ?_, ?_, ?_, rfl⟩
  · exact (State.fld_bump_ne _ _ _ _ hlo hhi).trans (State.link_setState s n 2 (by decide))
  · rw [State.ctr_bump_same, State.ctr_setFld_ne _ _ _ _ hlo.symm hhi.symm]
  · exact State.regsBut_bump _ _ (State.regsBut_setFld _ _ State.regsBut_refl List.mem_cons_self) (by simp [halves]) (by simp [halves])

/-! ### LINK_LOCK -/

/-- The registers of a port whose lanes all have lock (R99, R100): the state, the lanes, the clock and the latencies. -/
def State.linkLocked (s : State) (n : Nat) (m : LinkLat) : State :=
  ((((s.setFld (F.RFPn_LSTAT_STATE n) 4).setFld (F.RFPn_LSTAT_LOCK n) (if s.on (F.RFPn_LINK_LANES n) then 3 else 1)).setFlag
    (F.RFPn_LSTAT_CLKOK n) true).setFld (F.RFPn_LAT_RXLAT n) (s.fld (F.RFPn_TIMING_CONVLAT n) + m.lat)).setFld
    (F.RFPn_LAT_TXLAT n) (s.fld (F.RFPn_TIMING_TXCONVLAT n) + m.txlat)

theorem State.linkLocked_frame (s : State) (n : Nat) (m : LinkLat) : s.linkLocked n m = { s with regs := (s.linkLocked n m).regs } := rfl

theorem State.linkLocked_lstat (s : State) (n : Nat) (m : LinkLat) :
    (s.linkLocked n m).link n = 4 ∧ (s.linkLocked n m).on (F.RFPn_LSTAT_CLKOK n) = true ∧
      (s.linkLocked n m).fld (F.RFPn_LSTAT_LOCK n) = (if s.on (F.RFPn_LINK_LANES n) then 3 else 1) := by
  have hlat : ∀ f g : Field, f.reg = Reg.RFPn_LAT n → g.reg = Reg.RFPn_LSTAT n → Field.apart f g = true := fun f g hf hg =>
    Field.apart_of_reg (by rw [hf, hg]; exact (lstat_ne_lat n).symm)
  unfold State.linkLocked
  refine ⟨?_, ?_, ?_⟩
  · unfold State.link
    rw [State.fld_setFld_ne _ _ _ _ (hlat _ _ rfl rfl), State.fld_setFld_ne _ _ _ _ (hlat _ _ rfl rfl)]
    refine (State.link_setClkok _ n true).trans ?_
    exact (State.fld_setFld_ne _ _ _ _ (Field.apart_of_bits (.inl (show 0 + 3 ≤ 3 by decide)))).trans
      (State.link_setState s n 4 (by decide))
  · rw [State.on_setFld_ne _ _ _ _ (hlat _ _ rfl rfl), State.on_setFld_ne _ _ _ _ (hlat _ _ rfl rfl), State.clkok_setClkok]
  · rw [State.fld_setFld_ne _ _ _ _ (hlat _ _ rfl rfl), State.fld_setFld_ne _ _ _ _ (hlat _ _ rfl rfl),
      State.fld_setFlag_ne _ _ _ _ (Field.apart_of_bits (.inl (show 3 + 2 ≤ 5 by decide))),
      State.fld_setFld_same _ _ _ (show 3 + 2 ≤ 32 by decide)]
    split <;> rfl

theorem State.linkLocked_lat (s : State) (n : Nat) (m : LinkLat) :
    (s.linkLocked n m).fld (F.RFPn_LAT_RXLAT n) = (s.fld (F.RFPn_TIMING_CONVLAT n) + m.lat) % 2 ^ 16 ∧
      (s.linkLocked n m).fld (F.RFPn_LAT_TXLAT n) = (s.fld (F.RFPn_TIMING_TXCONVLAT n) + m.txlat) % 2 ^ 16 := by
  unfold State.linkLocked
  refine ⟨?_, State.fld_setFld_same _ _ _ (show 16 + 16 ≤ 32 by decide)⟩
  rw [State.fld_setFld_ne _ _ _ _ (Field.apart_of_bits (.inl (show 0 + 16 ≤ 16 by decide)))]
  exact State.fld_setFld_same _ _ _ (show 0 + 16 ≤ 32 by decide)

theorem State.regsBut_linkLocked (s : State) (n : Nat) (m : LinkLat) :
    s.regsBut (s.linkLocked n m) [Reg.RFPn_LSTAT n, Reg.RFPn_LAT n] := by
  have hlat : Reg.RFPn_LAT n ∈ [Reg.RFPn_LSTAT n, Reg.RFPn_LAT n] := List.mem_cons_of_mem _ List.mem_cons_self
  exact State.regsBut_setFld _ _ (State.regsBut_setFld _ _ (State.regsBut_setFlag _ _ (State.regsBut_setFld _ _ (State.regsBut_setFld _ _
    State.regsBut_refl List.mem_cons_self) List.mem_cons_self) List.mem_cons_self) hlat) hlat

/-- LINK_LOCK in LOCKING latches the registers, brings the port's own data up to date, and fires source 52 + n, and 58 where the latency
has moved (R99, R100). -/
theorem linkLock_locks {s : State} {t : Time} {n : Nat} (m : LinkLat) (period : Nat) (h : s.link n = 3) :
    ∃ p moved, exec (.linkLock t n m period) s = .next (((((s.at t).linkLocked n m).setPort n p).fire (52 + n)).fireIf moved 58) :=
  ⟨_, _, congrArg Host.Outcome.next (if_pos ((State.link_at s t n).trans h))⟩

theorem linkLock_result {s : State} {t : Time} {n : Nat} (m : LinkLat) (period : Nat) (hn : n < 4) (h : s.link n = 3) :
    ∃ u, exec (.linkLock t n m period) s = .next u ∧
      u.link n = 4 ∧ u.on (F.RFPn_LSTAT_CLKOK n) = true ∧
      u.fld (F.RFPn_LSTAT_LOCK n) = (if s.on (F.RFPn_LINK_LANES n) then 3 else 1) ∧
      u.fld (F.RFPn_LAT_RXLAT n) = (s.fld (F.RFPn_TIMING_CONVLAT n) + m.lat) % 2 ^ 16 ∧
      u.fld (F.RFPn_LAT_TXLAT n) = (s.fld (F.RFPn_TIMING_TXCONVLAT n) + m.txlat) % 2 ^ 16 ∧
      (s.sysOn → u.isPend (52 + n) = true) ∧
      s.regsEvt u [Reg.RFPn_LSTAT n, Reg.RFPn_LAT n] ∧
      u = { s with regs := u.regs, evt := u.evt, gtb := (s.at t).gtb, rfp := u.rfp } := by
  obtain ⟨p, moved, hexec⟩ := linkLock_locks (t := t) m period h
  obtain ⟨hlink, hclk, hlock⟩ := (s.at t).linkLocked_lstat n m
  obtain ⟨hrx, htx⟩ := (s.at t).linkLocked_lat n m
  have hregs := State.regsBut_of_at ((s.at t).regsBut_linkLocked n m)
  have hframe := (s.at t).linkLocked_frame n m
  generalize (s.at t).linkLocked n m = v at hexec hlink hclk hlock hrx htx hregs hframe
  have hk : 52 + n < 256 := by omega
  have hread : ∀ f : Field, isPendReg f.reg = false →
      (((v.setPort n p).fire (52 + n)).fireIf moved 58).fld f = v.fld f := fun f hf => by
    rw [State.fld_fireIf_ne _ _ _ _ (by decide) hf, State.fld_fire_ne _ _ _ hk hf]
    exact State.fld_mk v f
  have hlstat := isPendReg_LSTAT n
  have hlat := isPendReg_LAT n
  refine ⟨_, hexec, (hread _ hlstat).trans hlink, ?_, ?_, ?_, ?_, fun hs => ?_, ?_, ?_⟩
  · exact (congrArg (· == 1) (hread _ hlstat)).trans hclk
  · rw [hread _ hlstat, hlock, State.on_at]
  · rw [hread _ hlat, hrx, State.fld_at]
  · rw [hread _ hlat, htx, State.fld_at]
  · refine State.isPend_fireIf_mono _ _ _ _ (State.isPend_fire _ _ ?_)
    rw [hframe]
    exact hs
  · exact State.regsEvt_fireIf _ _ (State.regsEvt_fire _ (State.regsEvt_mk (State.regsEvt_of_but hregs)) hk) (by decide)
  · rw [State.fireIf_frame, State.fire_frame, State.setPort_frame, hframe]
    rfl

/-! ### DCLK_CHECK_WINDOW -/

/-- The rule of R98 without a subtraction: the count lies within 10 ppm of what is expected on either side. -/
theorem within10ppm_iff (c e : Nat) : within10ppm c e = true ↔ 100000 * c ≤ 100001 * e ∧ 99999 * e ≤ 100000 * c := by
  unfold within10ppm
  rw [Nat.ble_eq]
  omega

/-- The port after a window of the clock check: CLKOK and what RFP remembers of the window (R98). -/
def State.clkChecked (s : State) (n : Nat) (ok : Bool) : State :=
  (s.setPort n { s.port n with clkBad := !ok }).setFlag (F.RFPn_LSTAT_CLKOK n) ok

theorem State.clkChecked_frame (s : State) (n : Nat) (ok : Bool) :
    s.clkChecked n ok = { s with regs := (s.clkChecked n ok).regs, rfp := (s.clkChecked n ok).rfp } := rfl

theorem State.link_clkChecked (s : State) (n : Nat) (ok : Bool) : (s.clkChecked n ok).link n = s.link n :=
  (State.link_setClkok _ n ok).trans (State.link_setPort s n _ n)

theorem State.clkok_clkChecked (s : State) (n : Nat) (ok : Bool) : (s.clkChecked n ok).on (F.RFPn_LSTAT_CLKOK n) = ok :=
  State.clkok_setClkok _ n ok

theorem State.regsBut_clkChecked (s : State) (n : Nat) (ok : Bool) : s.regsBut (s.clkChecked n ok) [Reg.RFPn_LSTAT n] :=
  State.regsBut_setFlag _ _ (State.regsBut_mk State.regsBut_refl) List.mem_cons_self

/-- DCLK_CHECK_WINDOW of a port that is not OFF: CLKOK, then the link state by the result (R98, R99). -/
theorem dclkCheckWindow_on {s : State} {t : Time} {n c e : Nat} (hn : n < 4) (h : s.link n ≠ 0) :
    exec (.dclkCheckWindow t n c e) s = .next (if within10ppm c e then
      (if s.link n = 1 then ((s.at t).clkChecked n true).setFld (F.RFPn_LSTAT_STATE n) 2 else (s.at t).clkChecked n true)
      else (((s.at t).clkChecked n false).linkTo t n 1).fireIf (!(s.port n).clkBad) 56) := by
  change execDclkCheckWindow t n c e s = _
  unfold execDclkCheckWindow
  refine congrArg Host.Outcome.next ((if_neg ?_).trans ?_)
  · rw [State.link_at]
    omega
  · rw [State.link_at]
    cases within10ppm c e
    · rfl
    · rfl

theorem dclkCheckWindow_good {s : State} {t : Time} {n c e : Nat} (hn : n < 4) (h : s.link n = 1) (hok : within10ppm c e = true) :
    exec (.dclkCheckWindow t n c e) s = .next (((s.at t).clkChecked n true).setFld (F.RFPn_LSTAT_STATE n) 2) := by
  rw [dclkCheckWindow_on hn (by omega), if_pos hok, if_pos h]

theorem dclkCheckWindow_bad {s : State} {t : Time} {n c e : Nat} (hn : n < 4) (h : s.link n = 1) (hok : within10ppm c e = false) :
    exec (.dclkCheckWindow t n c e) s =
      .next ((((s.at t).clkChecked n false).setFld (F.RFPn_LSTAT_STATE n) 1).fireIf (!(s.port n).clkBad) 56) := by
  have hdown : ((s.at t).clkChecked n false).link n ≠ 4 := by
    rw [State.link_clkChecked, State.link_at, h]
    decide
  rw [dclkCheckWindow_on hn (by omega), if_neg (ne_true_of_eq_false hok)]
  unfold State.linkTo
  rw [if_neg hdown]

/-- Settles O16: each clause is the lemma of its command. -/
theorem rfpLinkStates : Obligations.RfpLinkStates := by
  refine ⟨?_, ?_, fun s t n period m hn h => linkLock_result m period hn h, ?_, ?_, ?_, within10ppm_iff⟩
  · intro s n al _ h
    exact ⟨_, sysrefEdge_locking al h, State.link_setState s n 3 (by decide),
      State.regsBut_setFld _ _ State.regsBut_refl List.mem_cons_self, rfl⟩
  · intro s n _ h hs
    exact ⟨_, sysrefEdge_misaligned h, State.isPend_fire s 57 hs, State.regsEvt_fire 57 State.regsEvt_refl (by decide),
      State.fire_frame s 57⟩
  · intro s n _ h
    obtain ⟨u, hu, hresult⟩ := s.lockTimedOut_result n
    exact ⟨u, hu ▸ linkLockTimeout_waits h, hresult⟩
  · intro s t n c e hn h hok
    refine ⟨_, dclkCheckWindow_good hn h hok, State.link_setState _ n 2 (by decide), ?_,
      State.regsBut_setFld _ _ (State.regsBut_of_at (State.regsBut_clkChecked _ n true)) List.mem_cons_self, ?_⟩
    · rw [State.clkok_setState, State.clkok_clkChecked]
    · rw [State.setFld_frame, State.clkChecked_frame]
      rfl
  · intro s t n c e hn h hok
    refine ⟨_, dclkCheckWindow_bad hn h hok, ?_, ?_, ?_, ?_⟩
    · rw [State.link_fireIf _ _ _ _ (by decide), State.link_setState _ n 1 (by decide)]
    · rw [State.on_fireIf_ne _ _ _ _ (by decide) (isPendReg_LSTAT n), State.clkok_setState, State.clkok_clkChecked]
    · have hchecked := State.regsBut_of_at ((s.at t).regsBut_clkChecked n false)
      exact State.regsEvt_fireIf _ _ (State.regsEvt_setFld _ _ (State.regsEvt_of_but hchecked) List.mem_cons_self) (by decide)
    · rw [State.fireIf_frame]
      rfl

end Sys2Proof.Machine
end

section
/-! A link that leaves UP (R98, R99, R146), for `Obligations.RfpLinkExit`. -/

namespace Sys2Proof.Machine

/-! ### A recorded notice -/

/-- A notice clears no pending bit (R61, R431). -/
theorem State.isPend_recordNotice_mono (s : State) (n : Notice) (k : Nat) (hk : k < 256) (h : s.isPend k = true) :
    (s.recordNotice n).isPend k = true := by
  have hcount : (s.countFault n).isPend k = true := by
    have hbump : (s.bump Ctr.SUP_FLTCNT).isPend k = true := by
      rw [State.isPend_bump_ne _ _ _ _ hk (by decide) (by decide), h]
    unfold State.countFault
    dsimp only
    split
    · rw [State.isPend_setFlag_ne _ _ _ _ hk (by decide), hbump]
    · rw [State.isPend_setReg_ne _ _ _ _ hk (by decide), hbump]
  have hlog : ∀ e, ((s.countFault n).logPush e).isPend k = true := fun e => by
    unfold State.logPush
    split
    · exact State.isPend_fireIf_mono _ _ 28 k hcount
    · refine State.isPend_fire_mono _ 29 k ?_
      rw [State.isPend_bump_ne _ _ _ _ hk (by decide) (by decide), hcount]
  exact State.isPend_fire_mono _ 24 k (hlog _)

theorem State.reportNow_running (s : State) (cls unit detail src : Nat) (hfs : s.sup.fs ≠ .restart) (hh : s.sup.halted = false) :
    ∃ x, s.reportNow cls unit detail src = s.recordNotice x := ⟨_, State.report_running s _ hfs hh⟩

/-! ### `linkExit` -/

/-- The port as it leaves UP (R99, R107, R111): the state and the locks, a gap in the history, assessments that lose their window. -/
def State.leftUp (s : State) (n dest : Nat) : State :=
  ((s.setFld (F.RFPn_LSTAT_STATE n) dest).setFld (F.RFPn_LSTAT_LOCK n) 0).setPort n
    { s.port n with gap := true, ccas := (s.port n).ccas.map (Cca.linkDown s.gtb.gt) }

theorem State.link_leftUp (s : State) (n dest : Nat) (h : dest < 8) : (s.leftUp n dest).link n = dest :=
  (State.link_setPort _ n _ n).trans ((State.fld_setFld_ne _ _ _ _ (Field.apart_of_bits (.inl (show 0 + 3 ≤ 3 by decide)))).trans
    (State.link_setState s n dest h))

theorem State.lock_leftUp (s : State) (n dest : Nat) : (s.leftUp n dest).fld (F.RFPn_LSTAT_LOCK n) = 0 :=
  (State.fld_mk _ _).trans (State.fld_setFld_same _ _ 0 (show 3 + 2 ≤ 32 by decide))

theorem State.linkdn_leftUp (s : State) (n dest : Nat) : (s.leftUp n dest).ctr (Ctr.RFPn_LINKDN n) = s.ctr (Ctr.RFPn_LINKDN n) := by
  obtain ⟨hlo, hhi⟩ := lstat_ne_linkdn n
  refine (State.ctr_mk _ _).trans ?_
  rw [State.ctr_setFld_ne _ _ _ _ hlo.symm hhi.symm, State.ctr_setFld_ne _ _ _ _ hlo.symm hhi.symm]

theorem State.port_leftUp (s : State) (n dest : Nat) (h : n < s.rfp.ports.length) :
    (s.leftUp n dest).port n = { s.port n with gap := true, ccas := (s.port n).ccas.map (Cca.linkDown s.gtb.gt) } :=
  State.port_setPort_same _ n _ h

theorem State.lanesLost_nil (s : State) (t : Time) (n : Nat) (h : s.dmx.lanes = []) : s.lanesLost t n = s := by
  unfold State.lanesLost
  rw [h]
  rfl

/-- With no stream to abort and no lane to end, an exit is counted, fires its source and is reported (R99). -/
theorem State.linkExit_quiet (s : State) (t : Time) (n dest : Nat) (hst : (s.port n).streams = []) (hl : s.dmx.lanes = []) :
    s.linkExit t n dest = (((s.leftUp n dest).bump (Ctr.RFPn_LINKDN n)).fire (48 + n)).reportNow 8 3 (48 + n) (48 + n) := by
  have hport : ((s.setFld (F.RFPn_LSTAT_STATE n) dest).setFld (F.RFPn_LSTAT_LOCK n) 0).port n = s.port n := State.port_congr rfl n
  have hnone : ∀ (f : State → Stream → State) u, (s.port n).streams.foldl f u = u := fun f u => by rw [hst, List.foldl_nil]
  have hlanes : (s.leftUp n dest).lanesLost t n = s.leftUp n dest := State.lanesLost_nil _ t n hl
  unfold State.linkExit
  dsimp only
  rw [hport, hnone]
  exact congrArg (fun u : State => ((u.bump (Ctr.RFPn_LINKDN n)).fire (48 + n)).reportNow 8 3 (48 + n) (48 + n)) hlanes

/-- No register of a port is written by a notice. -/
theorem port_not_mem_noticeRegs {a : Nat} (hlo : 0x302000 ≤ a) (hhi : a < 0x400000) : a ∉ noticeRegs := by
  have hout : ∀ x ∈ noticeRegs, ¬ (0x302000 ≤ x ∧ x < 0x400000) := by decide
  exact fun h => hout a h ⟨hlo, hhi⟩

theorem State.linkExit_result (s : State) (t : Time) (n dest : Nat) (hn : n < 4) (hd : dest < 8) (hp : n < s.rfp.ports.length)
    (hst : (s.port n).streams = []) (hl : s.dmx.lanes = []) (hsys : s.sysOn) (hfs : s.sup.fs ≠ .restart) (hh : s.sup.halted = false) :
    (s.linkExit t n dest).link n = dest ∧ (s.linkExit t n dest).fld (F.RFPn_LSTAT_LOCK n) = 0 ∧
    (s.linkExit t n dest).ctr (Ctr.RFPn_LINKDN n) = (s.ctr (Ctr.RFPn_LINKDN n) + 1) % 2 ^ 48 ∧
    ((s.linkExit t n dest).port n).gap = true ∧
    ((s.linkExit t n dest).port n).ccas = (s.port n).ccas.map (Cca.linkDown s.gtb.gt) ∧
    (s.linkExit t n dest).isPend (48 + n) = true := by
  have hk : 48 + n < 256 := by omega
  obtain ⟨v, hv⟩ : ∃ v, v = (s.leftUp n dest).bump (Ctr.RFPn_LINKDN n) := ⟨_, rfl⟩
  obtain ⟨x, hx⟩ : ∃ x, s.linkExit t n dest = (v.fire (48 + n)).recordNotice x := by
    have hsup : (v.fire (48 + n)).sup = s.sup := by
      rw [State.fire_sup, hv]
      rfl
    rw [State.linkExit_quiet s t n dest hst hl, ← hv]
    exact State.reportNow_running _ _ _ _ _ (hsup ▸ hfs) (hsup ▸ hh)
  have hreg : ∀ a, 0x302000 ≤ a → a < 0x400000 → (s.linkExit t n dest).reg a = v.reg a := fun a hlo hhi => by
    rw [hx, State.regsEvt_recordNotice _ x a (port_not_mem_noticeRegs hlo hhi) (isPendReg_port hlo),
      State.reg_fire_ne _ _ _ hk (isPendReg_port hlo)]
  have hlstat : (s.linkExit t n dest).reg (Reg.RFPn_LSTAT n) = (s.leftUp n dest).reg (Reg.RFPn_LSTAT n) := by
    obtain ⟨hlo, hhi⟩ := lstat_ne_linkdn n
    rw [hreg _ (by unfold Reg.RFPn_LSTAT; omega) (by unfold Reg.RFPn_LSTAT; omega), hv, State.reg_bump_ne _ _ _ _ hlo hhi]
  have hport : (s.linkExit t n dest).port n = (s.leftUp n dest).port n := by
    rw [hx]
    refine State.port_congr ?_ n
    rw [State.recordNotice_rfp, State.fire_rfp, hv, State.bump_rfp]
  refine ⟨?_, ?_, ?_, ?_, ?_, ?_⟩
  · exact (congrArg (F.RFPn_LSTAT_STATE n).ext hlstat).trans (s.link_leftUp n dest hd)
  · exact (congrArg (F.RFPn_LSTAT_LOCK n).ext hlstat).trans (s.lock_leftUp n dest)
  · have hctr : (s.linkExit t n dest).ctr (Ctr.RFPn_LINKDN n) = v.ctr (Ctr.RFPn_LINKDN n) := by
      unfold State.ctr
      rw [hreg _ (by unfold Ctr.RFPn_LINKDN; omega) (by unfold Ctr.RFPn_LINKDN; omega),
        hreg _ (by unfold Ctr.RFPn_LINKDN; omega) (by unfold Ctr.RFPn_LINKDN; omega)]
    rw [hctr, hv, State.ctr_bump_same, State.linkdn_leftUp]
  · rw [hport, State.port_leftUp s n dest hp]
  · rw [hport, State.port_leftUp s n dest hp]
  · rw [hx]
    refine State.isPend_recordNotice_mono _ x _ hk (State.isPend_fire _ _ ?_)
    rw [hv]
    exact hsys

/-! ### LINK_DOWN -/

theorem linkDown_up {s : State} {t : Time} {n : Nat} (e : LinkErrs) (hn : n < 4) (h : s.link n = 4) :
    exec (.linkDown t n e) s = .next (if e.lost = true ∨ 16 ≤ e.errs then
        (if e.errs = 0 then s.at t else (s.at t).bump (Ctr.RFPn_CRCERR n) e.errs).linkExit t n 2
      else if e.errs = 0 then s.at t else (s.at t).bump (Ctr.RFPn_CRCERR n) e.errs) :=
  congrArg Host.Outcome.next (if_pos ⟨hn, (State.link_at s t n).trans h⟩)

theorem linkDown_exits {s : State} {t : Time} {n : Nat} {e : LinkErrs} (hn : n < 4) (h : s.link n = 4)
    (he : e.lost = true ∨ 16 ≤ e.errs) :
    exec (.linkDown t n e) s = .next ((if e.errs = 0 then s.at t else (s.at t).bump (Ctr.RFPn_CRCERR n) e.errs).linkExit t n 2) := by
  rw [linkDown_up e hn h, if_pos he]

theorem linkDown_counts {s : State} {t : Time} {n errs : Nat} (hn : n < 4) (h : s.link n = 4) (h0 : 0 < errs) (h16 : errs < 16) :
    exec (.linkDown t n ⟨errs, false⟩) s = .next ((s.at t).bump (Ctr.RFPn_CRCERR n) errs) := by
  rw [linkDown_up _ hn h, if_neg (by simp; omega), if_neg (by dsimp only; omega)]

/-- A clock window outside 10 ppm takes an UP link to CLKCHK (R98, R99). -/
theorem dclkCheckWindow_exits {s : State} {t : Time} {n c e : Nat} (hn : n < 4) (h : s.link n = 4) (hok : within10ppm c e = false) :
    exec (.dclkCheckWindow t n c e) s =
      .next ((((s.at t).clkChecked n false).linkExit t n 1).fireIf (!(s.port n).clkBad) 56) := by
  have hup : ((s.at t).clkChecked n false).link n = 4 := by rw [State.link_clkChecked, State.link_at, h]
  rw [dclkCheckWindow_on hn (by omega), if_neg (ne_true_of_eq_false hok)]
  unfold State.linkTo
  rw [if_pos hup]

/-- Settles O17: each clause is the lemma of its command, or of `linkExit`. -/
theorem rfpLinkExit : Obligations.RfpLinkExit := by
  refine ⟨fun s t n e => linkDown_exits, ?_, fun s t n c e => dclkCheckWindow_exits, State.linkExit_result⟩
  intro s t n errs hn h h0 h16
  obtain ⟨hlo, hhi⟩ := lstat_ne_crcerr n
  refine ⟨_, linkDown_counts hn h h0 h16, ?_, ?_, ?_, ?_⟩
  · exact (State.fld_bump_ne _ _ _ _ hlo hhi).trans ((State.link_at s t n).trans h)
  · rw [State.ctr_bump_same, State.ctr_at]
  · exact State.regsBut_bump _ _ (State.regsBut_at t State.regsBut_refl) (by simp [halves]) (by simp [halves])
  · rw [State.bump_frame]
    rfl

end Sys2Proof.Machine
end

section
/-! Reservations of transmit streams (R112, R113), for `Obligations.RfpReserve`. -/

namespace Sys2Proof.Machine

/-! ### The checks of R113 -/

theorem State.reserveCheck_link (s : State) (n k st dur : Nat) (h : s.link n ≠ 4) : s.reserveCheck n k st dur = .inl .link := by
  unfold State.reserveCheck
  rw [if_pos h]

theorem State.reserveCheck_noSlice (s : State) (n k st dur : Nat) (h : s.link n = 4) (hk : s.sliceOn n k = false) :
    s.reserveCheck n k st dur = .inl .noSlice := by
  unfold State.reserveCheck
  rw [if_neg (not_not_intro h), hk]
  rfl

/-- What the checks have found where they pass: each of them, in their order. -/
theorem State.reserveCheck_passed {s : State} {n k st dur j : Nat} (h : s.reserveCheck n k st dur = .inr j) :
    s.link n = 4 ∧ s.sliceOn n k = true ∧ s.pickProfile n k st dur = some j ∧ s.streamsFull n st dur = false := by
  unfold State.reserveCheck at h
  obtain ⟨hlink, h⟩ := (ite_eq_iff_of_left_ne Sum.inl_ne_inr).mp h
  obtain ⟨hslice, h⟩ := (ite_eq_iff_of_left_ne Sum.inl_ne_inr).mp h
  cases hpick : s.pickProfile n k st dur with
  | none =>
    rw [hpick] at h
    cases h
  | some i =>
    rw [hpick] at h
    obtain ⟨-, h⟩ := (ite_eq_iff_of_left_ne Sum.inl_ne_inr).mp h
    obtain ⟨hfull, h⟩ := (ite_eq_iff_of_left_ne Sum.inl_ne_inr).mp h
    cases h
    exact ⟨not_not.mp hlink, by simpa using hslice, rfl, Bool.eq_false_iff.mpr hfull⟩

theorem State.pickProfile_fits {s : State} {n k st dur j : Nat} (h : s.pickProfile n k st dur = some j) :
    s.profileHolds n k j = true ∧ ∀ x ∈ s.overlapping n st dur, x.prof = j := by
  have hj := List.find?_some h
  rw [Bool.and_eq_true, List.all_eq_true] at hj
  exact ⟨hj.1, fun x hx => beq_iff_eq.mp (hj.2 x hx)⟩

theorem State.streamsFull_false {s : State} {n st dur : Nat} (h : s.streamsFull n st dur = false) :
    s.streamsAt n st < s.fld (F.RFPn_TX_MAXTX n) ∧
      ∀ x ∈ s.overlapping n st dur, 0 ≤ gtDiff x.start st → s.streamsAt n x.start < s.fld (F.RFPn_TX_MAXTX n) := by
  have hfree : ∀ g ∈ st :: ((s.overlapping n st dur).map (fun x => x.start)).filter (fun g => decide (0 ≤ gtDiff g st)),
      s.streamsAt n g < s.fld (F.RFPn_TX_MAXTX n) := fun g hg => by
    have hg' := List.any_eq_false.mp h g hg
    rwa [Nat.ble_eq, Nat.not_le] at hg'
  refine ⟨hfree st List.mem_cons_self, fun x hx hgt => hfree _ (List.mem_cons_of_mem _ (List.mem_filter.mpr ⟨?_, ?_⟩))⟩
  · exact List.mem_map_of_mem hx
  · exact decide_eq_true hgt

/-! ### TX_RESERVE -/

/-- Port `n` with the stream `x` appended, whose number is taken (R112). -/
def State.withStream (s : State) (n : Nat) (x : Stream) : State :=
  let u := s.setPort n { s.port n with streams := (s.port n).streams ++ [x] }
  { u with rfp := { u.rfp with nextTx := x.id + 1 } }

section

variable {s : State} {t : Time} {us : TxUser} {n k st dur : Nat}

theorem txReserve_silent (h : s.level = 0) : exec (.txReserve t us n k st dur) s = .next (s.at t) := by
  have hlevel : (s.at t).level = 0 := (State.fld_at s t _).trans h
  change execTxReserve t us n k st dur s = _
  unfold execTxReserve State.reserve
  rw [if_pos hlevel]

theorem txReserve_passes {j : Nat} (h : s.level ≠ 0) (hj : (s.at t).reserveCheck n k st dur = .inr j) :
    exec (.txReserve t us n k st dur) s = .next ((s.at t).withStream n
      { id := s.rfp.nextTx, user := us, slice := k, start := st, dur := dur, prof := j, active := false }) := by
  have hlevel : (s.at t).level ≠ 0 := fun h0 => h ((State.fld_at s t _).symm.trans h0)
  change execTxReserve t us n k st dur s = _
  unfold execTxReserve State.reserve
  rw [if_neg hlevel, hj]
  rfl

theorem txReserve_fails {r : ResRefusal} (h : s.level ≠ 0) (hr : (s.at t).reserveCheck n k st dur = .inl r) :
    exec (.txReserve t us n k st dur) s =
      .next { (s.at t).bump (Ctr.RFPn_PROFREF n) with rfp := { s.rfp with lastRefusal := r.code } } := by
  have hlevel : (s.at t).level ≠ 0 := fun h0 => h ((State.fld_at s t _).symm.trans h0)
  change execTxReserve t us n k st dur s = _
  unfold execTxReserve State.reserve
  rw [if_neg hlevel, hr]
  rfl

/-- A reservation that passes appends its stream (R112). -/
theorem txReserve_reserves {j : Nat} (hn : n < s.rfp.ports.length) (h : s.level ≠ 0) (hj : (s.at t).reserveCheck n k st dur = .inr j) :
    ∃ u, exec (.txReserve t us n k st dur) s = .next u ∧
      (u.port n).streams = (s.port n).streams ++ [
        { id := s.rfp.nextTx, user := us, slice := k, start := st, dur := dur, prof := j, active := false }] ∧
      u.rfp.nextTx = s.rfp.nextTx + 1 ∧ (∀ m, m ≠ n → u.port m = s.port m) ∧ u = { s with gtb := u.gtb, rfp := u.rfp } := by
  refine ⟨_, txReserve_passes h hj, ?_, rfl, fun m hm => ?_, rfl⟩
  · exact congrArg RfpPort.streams (State.port_setPort_same (s.at t) n _ hn)
  · exact State.port_setPort_ne (s.at t) n m _ hm

/-- A reservation that is refused is counted (R113). -/
theorem txReserve_refused {r : ResRefusal} (h : s.level ≠ 0) (hr : (s.at t).reserveCheck n k st dur = .inl r) :
    ∃ u, exec (.txReserve t us n k st dur) s = .next u ∧ u.rfp = { s.rfp with lastRefusal := r.code } ∧
      u.ctr (Ctr.RFPn_PROFREF n) = (s.ctr (Ctr.RFPn_PROFREF n) + 1) % 2 ^ 48 ∧
      s.regsBut u (halves (Ctr.RFPn_PROFREF n)) ∧ u = { s with regs := u.regs, gtb := u.gtb, rfp := u.rfp } := by
  refine ⟨_, txReserve_fails h hr, rfl, ?_, ?_, rfl⟩
  · rw [State.ctr_mk, State.ctr_bump_same, State.ctr_at]
  · exact State.regsBut_mk (State.regsBut_bump _ _ (State.regsBut_at t State.regsBut_refl) (by simp [halves]) (by simp [halves]))

end

/-- Settles O21: each clause is the lemma of the command, or of the checks. -/
theorem rfpReserve : Obligations.RfpReserve := by
  refine ⟨fun s t us n k st dur => txReserve_silent, fun s t us n k st dur j => txReserve_reserves,
    fun s t us n k st dur r => txReserve_refused, State.reserveCheck_link, State.reserveCheck_noSlice, ?_⟩
  intro s n k st dur j h
  obtain ⟨hlink, hslice, hpick, hfull⟩ := State.reserveCheck_passed h
  obtain ⟨hholds, hprof⟩ := State.pickProfile_fits hpick
  obtain ⟨hstart, hwithin⟩ := State.streamsFull_false hfull
  exact ⟨hlink, hslice, hholds, hprof, hstart, hwithin⟩

end Sys2Proof.Machine
end

section
/-! The noise floor and the clear-channel assessment (R109 to R111, R216, R217), for `Obligations.RfpAssessments`. -/

namespace Sys2Proof.Machine

/-! ### NOISE_FLOOR_UPDATE -/

/-- Every slice of port `n` is idle again (R109). -/
def State.idleAgain (s : State) (n : Nat) : State := s.setPort n { s.port n with msBusy := [] }

/-- The floor of slice `k` of port `n` from the idle milliseconds `l`, shown (R109). -/
def State.floorShown (s : State) (n k : Nat) (l : List Nat) : State :=
  ((s.setPort n { s.port n with nf := (s.port n).nf.put k l }).setFld (F.RFPn_SLkNF_NF n k) (meanFloor l)).setFlag
    (F.RFPn_SLkNF_VALID n k) true

theorem State.floorShown_result (s : State) (n k : Nat) (l : List Nat) :
    (s.floorShown n k l).fld (F.RFPn_SLkNF_NF n k) = meanFloor l % 2 ^ 11 ∧ (s.floorShown n k l).on (F.RFPn_SLkNF_VALID n k) = true ∧
      s.regsBut (s.floorShown n k l) [Reg.RFPn_SLkNF n k] ∧
      s.floorShown n k l = { s with regs := (s.floorShown n k l).regs, rfp := (s.floorShown n k l).rfp } := by
  unfold State.floorShown
  refine ⟨?_, State.on_setFlag_same _ _ _ rfl, ?_, ?_⟩
  · exact (State.fld_setFlag_ne _ _ _ _ (Field.apart_of_bits (.inl (show 0 + 11 ≤ 11 by decide)))).trans
      (State.fld_setFld_same _ _ _ (show 0 + 11 ≤ 32 by decide))
  · exact State.regsBut_setFlag _ _ (State.regsBut_setFld _ _ (State.regsBut_mk State.regsBut_refl) List.mem_cons_self)
      List.mem_cons_self
  · rw [State.setFlag_frame, State.setFld_frame, State.setPort_frame]

section

variable {s : State} {n : Nat} (hl : s.live (10 + n) = true) (hst : s.staged.find? (fun x => x.unit == 3 && x.grp == n) = none)
include hl hst

/-- The sixteenth idle millisecond of an enabled slice shows its floor (R109). -/
theorem noiseFloorUpdate_sixteenth {k a : Nat} {l w : List Nat} (hon : s.sliceOn n k = true)
    (hbusy : (s.port n).msBusy.contains k = false) (hblank : s.blanked n k = false) (hlane : s.laneOn n k = false)
    (hnf : (s.port n).nf.find k = some l) (h16 : l.length = 16) :
    exec (.noiseFloorUpdate n [(k, a :: w)] false) s =
      .next ((s.floorShown n k (l.drop 1 ++ [w.foldl min a])).idleAgain n) := by
  have hcond : (s.sliceOn n k && (!((s.port n).msBusy.contains k || (s.blanked n k || s.laneOn n k)) && !(a :: w).isEmpty)) = true := by
    rw [hon, hbusy, hblank, hlane]
    rfl
  have hkept : ((s.port n).nf.getD' k [] ++ [(a :: w).foldl min a]).drop (((s.port n).nf.getD' k [] ++ [(a :: w).foldl min a]).length - 16)
      = l.drop 1 ++ [w.foldl min a] := by
    rw [Tab.getD', hnf, Option.getD_some, List.length_append, h16, List.length_singleton, List.foldl_cons, min_self]
    exact List.drop_append_of_le_length (by omega)
  have hlen : (l.drop 1 ++ [w.foldl min a]).length = 16 := by
    rw [List.length_append, List.length_drop, h16, List.length_singleton]
  rw [← hkept] at hlen ⊢
  change execNoiseFloorUpdate n [(k, a :: w)] false s = _
  unfold execNoiseFloorUpdate State.whenLive
  rw [State.commitAt_none hst]
  exact congrArg Host.Outcome.next ((if_pos hl).trans (congrArg (fun v : State => v.idleAgain n) ((if_pos hcond).trans (if_pos hlen))))

/-- A millisecond that clipped and measured no slice fires source 63. -/
theorem noiseFloorUpdate_clipped : exec (.noiseFloorUpdate n [] true) s = .next ((s.idleAgain n).fire 63) := by
  change execNoiseFloorUpdate n [] true s = _
  unfold execNoiseFloorUpdate State.whenLive
  rw [State.commitAt_none hst]
  exact congrArg Host.Outcome.next (if_pos hl)

end

/-! ### CCA_REQUEST -/

/-- A moment is no later than itself, as GT keeps it. -/
theorem gtDiff_mod_self (g : Nat) : gtDiff g (g % 2 ^ 64) = 0 := by
  have h : (g + 2 ^ 64 - g % 2 ^ 64 % 2 ^ 64) % 2 ^ 64 = 0 := by omega
  unfold gtDiff
  rw [h]
  rfl

theorem ccaRequest_queued (s : State) (t : Time) (id : Nat) (us : TxUser) (n k win : Nat) (thr : Int) (e c : Bool)
    (hn : n < s.rfp.ports.length) :
    ∃ u, exec (.ccaRequest t id us n k win thr ⟨e, c⟩) s = .next u ∧
      (u.port n).ccas = (s.port n).ccas ++ [
        { id := id, user := us, slice := k, win := win, thr := thr,
          dbfs := thr - signed 12 (s.actFld (F.RFPn_GAIN_GAINOFS n)), energy := e, carrier := c,
          noMeas := decide (32 ≤ (s.port n).ccas.length), own := false, hit := false, down := s.link n != 4, opn := t.gt,
          fin := gtAdd t.gt (nsToGt (win * 16000) s.mainsFreq) }] ∧
      (∀ m, m ≠ n → u.port m = s.port m) ∧ u = { s with gtb := (s.at t).gtb, rfp := u.rfp } := by
  have hnow : decide (gtDiff t.gt (s.at t).gtb.gt < 0) = false := by
    rw [State.gt_at, gtDiff_mod_self]
    rfl
  refine ⟨(s.at t).ccaStart id us n k win thr e c (t.gt, gtAdd t.gt (nsToGt (win * 16000) (s.at t).mainsFreq)), rfl, ?_,
    fun m hm => State.port_setPort_ne (s.at t) n m _ hm, rfl⟩
  unfold State.ccaStart
  dsimp only
  rw [State.port_setPort_same (s.at t) n _ hn, hnow, Bool.or_false, State.link_at]
  rfl

/-! ### CCA_RESULT -/

theorem State.setPort_keeps_frame {s u : State} (h : u = { s with rfp := u.rfp }) (n : Nat) (p : RfpPort) :
    u.setPort n p = { s with rfp := (u.setPort n p).rfp } :=
  congrArg (fun v : State => { v with rfp := (u.setPort n p).rfp }) h

/-- What `markOwn` marks is RFP's (R111). -/
theorem State.markOwn_frame (s : State) : s.markOwn = { s with rfp := s.markOwn.rfp } := by
  unfold State.markOwn
  refine List.foldlRecOn (motive := fun u : State => u = { s with rfp := u.rfp }) _ _ rfl fun u hu n _ => ?_
  dsimp only
  split
  · exact hu
  · exact State.setPort_keeps_frame hu n _

theorem State.ports_length_markOwn (s : State) : s.markOwn.rfp.ports.length = s.rfp.ports.length := by
  unfold State.markOwn
  refine List.foldlRecOn (motive := fun u : State => u.rfp.ports.length = s.rfp.ports.length) _ _ rfl fun u hu n _ => ?_
  dsimp only
  split
  · exact hu
  · rw [State.ports_length_setPort, hu]

theorem State.reg_markOwn (s : State) (a : Nat) : s.markOwn.reg a = s.reg a := by
  rw [State.markOwn_frame]
  exact State.reg_mk s a

theorem State.answered_frame (s : State) (n id : Nat) (c : Cca) (a : CcaAnswer) :
    s.answered n id c a = { s with rfp := (s.answered n id c a).rfp } := rfl

theorem State.ccas_answered (s : State) (n id : Nat) (c : Cca) (a : CcaAnswer) (h : n < s.rfp.ports.length) :
    ((s.answered n id c a).port n).ccas = (s.port n).ccas.erase c :=
  congrArg RfpPort.ccas (State.port_setPort_same s n _ h)

/-- An assessment is CLEAR exactly where none of the reasons of R111 holds. -/
theorem Cca.answer_clear_iff (c : Cca) (powers : List Nat) : c.answer powers = .clear ↔
    c.noMeas = false ∧ c.down = false ∧ c.win ≤ powers.length ∧ c.own = false ∧
      (c.energy = true → ∀ x ∈ powers, reached x c.dbfs = false) ∧ (c.carrier = true → c.hit = false) := by
  have hmeas : ¬ (c.noMeas || (c.down || Nat.blt powers.length c.win)) = true ↔
      c.noMeas = false ∧ c.down = false ∧ c.win ≤ powers.length := by
    simp [Nat.blt_eq]
  have henergy : ¬ (c.energy && powers.any (fun p => reached p c.dbfs)) = true ↔
      (c.energy = true → ∀ x ∈ powers, reached x c.dbfs = false) := by
    simp
  have hcarrier : ¬ (c.carrier && c.hit) = true ↔ (c.carrier = true → c.hit = false) := by
    simp
  unfold Cca.answer
  rw [ite_eq_iff_of_left_ne (by decide), ite_eq_iff_of_left_ne (by decide), ite_eq_iff_of_left_ne (by decide),
    ite_eq_iff_of_left_ne (by decide), hmeas, henergy, hcarrier, Bool.not_eq_true]
  tauto

section

variable {s : State} {t : Time} {id n : Nat} {c : Cca} {powers : List Nat}

/-- The end of a window hands its answer over, or counts a CLEAR one of BGT (R111, R217). -/
theorem ccaResult_ended (hf : ((s.at t).markOwn.port n).ccas.find? (fun (c : Cca) => c.id == id) = some c) (he : 0 ≤ gtDiff t.gt c.fin) :
    exec (.ccaResult t id n powers) s = .next (
      if c.answer powers ≠ .clear then ((s.at t).markOwn.answered n id c (c.answer powers)).ccaBusyFor c
      else if c.user = .bgt then ((s.at t).markOwn.answered n id c (c.answer powers)).bump Ctr.BGT_CCACLR
      else (s.at t).markOwn.answered n id c (c.answer powers)) := by
  change execCcaResult t id n powers s = _
  unfold execCcaResult
  dsimp only
  rw [hf]
  exact congrArg Host.Outcome.next (if_neg (Int.not_lt.mpr he))

theorem ccaResult_clear (hf : ((s.at t).markOwn.port n).ccas.find? (fun (c : Cca) => c.id == id) = some c)
    (hn : n < s.rfp.ports.length) (he : 0 ≤ gtDiff t.gt c.fin) (hc : c.answer powers = .clear) (hu : c.user = .bgt) :
    ∃ u, exec (.ccaResult t id n powers) s = .next u ∧ (u.port n).ccas = ((s.at t).markOwn.port n).ccas.erase c ∧
      u.rfp.lastCca = some (id, .clear) ∧
      u.ctr Ctr.BGT_CCACLR = (s.ctr Ctr.BGT_CCACLR + 1) % 2 ^ 48 ∧ s.regsBut u (halves Ctr.BGT_CCACLR) ∧
      u = { s with regs := u.regs, gtb := u.gtb, rfp := u.rfp } := by
  have hexec := ccaResult_ended (powers := powers) hf he
  rw [if_neg (not_not_intro hc), if_pos hu, hc] at hexec
  have hlen : n < (s.at t).markOwn.rfp.ports.length := by rwa [State.ports_length_markOwn]
  have hframe := (s.at t).markOwn_frame
  have hreg := (s.at t).reg_markOwn
  generalize (s.at t).markOwn = v at hexec hlen hframe hreg ⊢
  have hregs : ∀ a, (v.answered n id c .clear).reg a = s.reg a := fun a => (hreg a).trans (State.reg_at s t a)
  refine ⟨_, hexec, State.ccas_answered v n id c .clear hlen, rfl, ?_, ?_, ?_⟩
  · rw [State.ctr_bump_same]
    unfold State.ctr
    rw [hregs, hregs]
  · exact State.regsBut_bump _ _ (fun a _ => hregs a) (by simp [halves]) (by simp [halves])
  · rw [State.bump_frame, State.answered_frame, hframe]
    rfl

theorem ccaResult_busy (hf : ((s.at t).markOwn.port n).ccas.find? (fun (c : Cca) => c.id == id) = some c)
    (he : 0 ≤ gtDiff t.gt c.fin) (hc : c.answer powers ≠ .clear) :
    exec (.ccaResult t id n powers) s = .next (((s.at t).markOwn.answered n id c (c.answer powers)).ccaBusyFor c) := by
  rw [ccaResult_ended hf he, if_pos hc]

end

/-- Settles O20: each clause is the lemma of its command, or of the answer. -/
theorem rfpAssessments : Obligations.RfpAssessments := by
  refine ⟨?_, ?_, ccaRequest_queued, fun s t id n c powers => ccaResult_clear, fun s t id n c powers => ccaResult_busy,
    Cca.answer_clear_iff⟩
  · intro s n k l a w hl _ _ hn hst hon hbusy hblank hlane hnf h16
    obtain ⟨hfloor, hvalid, hregs, hframe⟩ := s.floorShown_result n k (l.drop 1 ++ [w.foldl min a])
    refine ⟨_, noiseFloorUpdate_sixteenth hl hst hon hbusy hblank hlane hnf h16, ?_, ?_, ?_, State.regsBut_mk hregs, ?_⟩
    · exact (State.fld_mk _ _).trans hfloor
    · exact (State.on_mk _ _).trans hvalid
    · refine congrArg RfpPort.msBusy (State.port_setPort_same _ n _ ?_)
      exact (State.ports_length_setPort s n _).symm ▸ hn
    · rw [State.idleAgain, State.setPort_frame, hframe]
  · intro s n hl hs hst
    refine ⟨_, noiseFloorUpdate_clipped hl hst, State.isPend_fire _ 63 hs, ?_⟩
    rw [State.fire_frame]
    rfl

end Sys2Proof.Machine
end

section
/-! The sample history (R106 to R108, R404), for `Obligations.RfpHistory`. -/

namespace Sys2Proof.Machine

/-! ### HISTORY_MARKER -/

/-- The marker of the 4,096 samples that end now (R107). -/
def State.newMarker (s : State) (t : Time) (n missed : Nat) (valid : Bool) : Marker :=
  { count := (s.port n).count + 4096, gt := gtSub t.gt (nsToGt (s.fld (F.RFPn_LAT_RXLAT n)) s.mainsFreq),
    valid := valid && (s.link n == 4 && !(s.port n).gap && missed == 0) }

/-- A marker that the ring still holds once the port count is `c` (R106). -/
def State.ringHolds (s : State) (n c : Nat) (m : Marker) : Bool := decide (c ≤ m.count + s.ringLen n + 8192)

/-- The port once the marker `m` has come (R107). -/
def State.markedPort (s : State) (n : Nat) (m : Marker) : RfpPort :=
  { s.port n with count := m.count, markers := ((s.port n).markers ++ [m]).filter (s.ringHolds n m.count), gap := s.link n != 4 }

theorem State.ringHolds_newest (s : State) (n : Nat) (m : Marker) : s.ringHolds n m.count m = true :=
  decide_eq_true (Nat.le_trans (Nat.le_add_right _ _) (Nat.le_add_right _ _))

theorem State.markedPort_last (s : State) (n : Nat) (m : Marker) : (s.markedPort n m).markers.getLast? = some m := by
  unfold State.markedPort
  rw [List.filter_append, List.filter_cons_of_pos (s.ringHolds_newest n m), List.filter_nil, List.getLast?_concat]

theorem State.markedPort_held (s : State) (n : Nat) (m : Marker) :
    ∀ x ∈ (s.markedPort n m).markers, (s.markedPort n m).count ≤ x.count + s.ringLen n + 8192 := fun _ hx =>
  of_decide_eq_true (List.mem_filter.mp hx).2

theorem State.markedPort_keeps (s : State) (n : Nat) (m : Marker) :
    ∀ x ∈ (s.port n).markers, (s.markedPort n m).count ≤ x.count + s.ringLen n + 8192 → x ∈ (s.markedPort n m).markers :=
  fun _ hx hc => List.mem_filter.mpr ⟨List.mem_append_left _ hx, decide_eq_true hc⟩

theorem historyMarker_marks (s : State) (t : Time) (n missed : Nat) (valid : Bool) (hl : s.live (10 + n) = true) :
    exec (.historyMarker t n missed valid) s = .next ((s.at t).setPort n (s.markedPort n (s.newMarker t n missed valid))) :=
  congrArg Host.Outcome.next (if_pos hl)

/-! ### HISTORY_READ -/

/-- The read that a request makes, by port counts (R107, R108). -/
def State.readAsked (s : State) (rd : HistReader) (tag p start count : Nat) : HistRead :=
  { id := s.rfp.nextRead, reader := rd, tag := tag, port := p, start := s.countAt p start, count := count,
    addr := s.histAddr p (s.countAt p start) }

/-- The list of reads with `r` on it, whose number is taken. -/
def State.withRead (s : State) (r : HistRead) : State :=
  { s with rfp := { s.rfp with reads := s.rfp.reads ++ [r], nextRead := s.rfp.nextRead + 1 } }

/-- The outcome of a read does not depend on the other reads. -/
theorem State.histOutcome_withRead (s : State) (r x : HistRead) : (s.withRead r).histOutcome x = s.histOutcome x := rfl

section

variable {s : State} {rd : HistReader} {tag p start count : Nat}

/-- A read that does not end FUTURE is put on the list (R108). -/
theorem historyRead_listed (h : s.histOutcome (s.readAsked rd tag p start count) ≠ some .future) :
    exec (.historyRead rd tag p start count) s = .next (s.withRead (s.readAsked rd tag p start count)) := by
  refine congrArg Host.Outcome.next ?_
  unfold State.histRequest
  dsimp only
  split
  next hfuture => exact absurd ((s.histOutcome_withRead (s.readAsked rd tag p start count) _).symm.trans hfuture) h
  next => rfl

/-- A read that ends too far ahead ends FUTURE at once, and SIC's is made again (R108, R163). -/
theorem historyRead_future (h : s.histOutcome (s.readAsked rd tag p start count) = some .future) :
    exec (.historyRead rd tag p start count) s = .next (if rd = .sic then
        ((s.withRead (s.readAsked rd tag p start count)).histEnd (s.readAsked rd tag p start count) .future).histAgain
          (s.readAsked rd tag p start count)
      else (s.withRead (s.readAsked rd tag p start count)).histEnd (s.readAsked rd tag p start count) .future) := by
  refine congrArg Host.Outcome.next ?_
  unfold State.histRequest
  dsimp only
  split
  next => rfl
  next hother => exact (hother ((s.histOutcome_withRead (s.readAsked rd tag p start count) _).trans h)).elim

end

/-- A read just made that ends is off the list, and the others are as they were. -/
theorem State.reads_withRead_ended (s : State) (r : HistRead) :
    ((s.withRead r).histEnd r .future).rfp.reads = s.rfp.reads.filter (fun x => x.id != r.id) := by
  have hself : [r].filter (fun x => x.id != r.id) = [] := by simp
  change (s.rfp.reads ++ [r]).filter (fun x => x.id != r.id) = _
  rw [List.filter_append, hself, List.append_nil]

/-! ### The outcomes of a read -/

/-- A marker of the range that is not VALID (R107, R108). -/
def State.gapIn (s : State) (r : HistRead) (last : Nat) : Prop :=
  ∃ m ∈ (s.port r.port).markers, m.valid = false ∧ r.start ≤ m.count ∧ m.count < last + 4096

theorem State.gapIn_iff (s : State) (r : HistRead) (last : Nat) :
    (s.port r.port).markers.any (fun m => !m.valid && (Nat.ble r.start m.count && Nat.blt m.count (last + 4096))) = true ↔
      s.gapIn r last := by
  simp only [State.gapIn, List.any_eq_true, Bool.and_eq_true, Bool.not_eq_true', Nat.ble_eq, Nat.blt_eq]

/-- The regions of R108: where the range ends against the newest sample, what the ring still holds, what the markers say. -/
theorem State.histOutcome_cases (s : State) (r : HistRead) {new last : Nat} (hnew : new = s.newest r.port)
    (hlast : last = r.start + r.count - 1) :
    (s.histOutcome r = some .future ∧ new + 4 * s.fld (F.RFPn_RXFS_FS r.port) < last) ∨
    (s.histOutcome r = none ∧ new < last ∧ last ≤ new + 4 * s.fld (F.RFPn_RXFS_FS r.port)) ∨
    (s.histOutcome r = some .overwritten ∧ last ≤ new ∧ r.start + s.ringLen r.port ≤ new) ∨
    (s.histOutcome r = some .gap ∧ last ≤ new ∧ new < r.start + s.ringLen r.port ∧ s.gapIn r last) ∨
    (s.histOutcome r = some .ok ∧ last ≤ new ∧ new < r.start + s.ringLen r.port ∧ ¬ s.gapIn r last) := by
  unfold State.histOutcome
  dsimp only
  rw [← hnew, ← hlast]
  by_cases hfuture : new + 4 * s.fld (F.RFPn_RXFS_FS r.port) < last
  · exact .inl ⟨if_pos hfuture, hfuture⟩
  rw [if_neg hfuture]
  by_cases hwait : new < last
  · exact .inr (.inl ⟨if_pos hwait, hwait, Nat.not_lt.mp hfuture⟩)
  rw [if_neg hwait]
  by_cases hover : r.start + s.ringLen r.port ≤ new
  · exact .inr (.inr (.inl ⟨if_pos hover, Nat.not_lt.mp hwait, hover⟩))
  rw [if_neg hover]
  by_cases hgap : s.gapIn r last
  · exact .inr (.inr (.inr (.inl ⟨if_pos ((s.gapIn_iff r last).mpr hgap), Nat.not_lt.mp hwait, Nat.not_le.mp hover, hgap⟩)))
  · exact .inr (.inr (.inr (.inr ⟨if_neg (hgap ∘ (s.gapIn_iff r last).mp), Nat.not_lt.mp hwait, Nat.not_le.mp hover, hgap⟩)))

/-- The regions of R108 exclude each other, so that each outcome says which one holds. -/
theorem State.histOutcome_iff (s : State) (r : HistRead) (new last : Nat) (hnew : new = s.newest r.port)
    (hlast : last = r.start + r.count - 1) :
    (s.histOutcome r = some .future ↔ new + 4 * s.fld (F.RFPn_RXFS_FS r.port) < last) ∧
    (s.histOutcome r = none ↔ new < last ∧ last ≤ new + 4 * s.fld (F.RFPn_RXFS_FS r.port)) ∧
    (s.histOutcome r = some .overwritten ↔ last ≤ new ∧ r.start + s.ringLen r.port ≤ new) ∧
    (s.histOutcome r = some .gap ↔ last ≤ new ∧ new < r.start + s.ringLen r.port ∧ s.gapIn r last) := by
  rcases s.histOutcome_cases r hnew hlast with
    ⟨ho, hfuture⟩ | ⟨ho, hwait, hsoon⟩ | ⟨ho, hdone, hover⟩ | ⟨ho, hdone, hheld, hgap⟩ | ⟨ho, hdone, hheld, hwhole⟩
  all_goals
    rw [ho]
    simp only [reduceCtorEq, Option.some.injEq, true_iff, false_iff]
  · omega
  · omega
  · omega
  · refine ⟨?_, ?_, ?_, hdone, hheld, hgap⟩ <;> omega
  · refine ⟨?_, ?_, ?_, fun h => hwhole h.2.2⟩ <;> omega

/-! ### The end of a read -/

theorem State.rfp_histEnd (s : State) (r : HistRead) (o : HistOutcome) :
    (s.histEnd r o).rfp = { s.rfp with reads := s.rfp.reads.filter (fun x => x.id != r.id), lastRead := some (r.id, o) } := by
  cases o with
  | ok => rfl
  | overwritten => exact State.fire_rfp _ 59
  | gap => exact State.fire_rfp _ 59
  | future => rfl

theorem State.histEnd_counts (s : State) (r : HistRead) :
    (s.histEnd r .overwritten).ctr (Ctr.RFPn_OVWR r.port) = (s.ctr (Ctr.RFPn_OVWR r.port) + 1) % 2 ^ 48 := by
  have hlo : isPendReg (Ctr.RFPn_OVWR r.port) = false := isPendReg_port (Nat.le_add_right_of_le (by decide))
  have hhi : isPendReg (Ctr.RFPn_OVWR r.port + 4) = false :=
    isPendReg_port (Nat.le_add_right_of_le (Nat.le_add_right_of_le (by decide)))
  unfold State.histEnd
  dsimp only
  rw [State.ctr_fire_ne _ _ _ (by decide) hlo hhi, State.ctr_bump_same, State.ctr_mk]

/-! ### HISTORY_READ_DONE -/

/-- The outcome of a read goes to its reader (R108). -/
def State.handRead (s : State) (t : Time) (r : HistRead) (o : HistOutcome) : State :=
  match r.reader with
  | .sic => s.sicReadDone r o
  | .dmx => s.laneReadDone t r o
  | .msq => s.searchReadDone r o

section

variable {s : State} {t : Time} {id : Nat} {r : HistRead} {o : HistOutcome}

theorem historyReadDone_ended (hf : s.rfp.reads.find? (fun x => x.id == id) = some r) (ho : (s.at t).histOutcome r = some o) :
    exec (.historyReadDone t id) s = .next (((s.at t).histEnd r o).handRead t r o) := by
  have hf' : (s.at t).rfp.reads.find? (fun x => x.id == id) = some r := hf
  change execHistoryReadDone t id s = _
  unfold execHistoryReadDone
  dsimp only
  rw [hf']
  dsimp only
  rw [ho]
  rfl

end

/-! ### HISTORY_WINDOW_END -/

theorem historyWindowEnd_over {s : State} {oct : Nat} (hl : s.live 17 = true) (h : 8000000 < oct) :
    exec (.historyWindowEnd oct) s = .next ((s.bump Ctr.MEM_HISTOVR).fire 209) :=
  congrArg Host.Outcome.next ((if_pos hl).trans (if_pos ((Nat.blt_eq).mpr h)))

/-- Settles O19: each clause is the lemma of its command, of the outcomes of a read, or of its end. -/
theorem rfpHistory : Obligations.RfpHistory := by
  refine ⟨?_, ?_, ?_, ?_, State.histOutcome_iff, ?_, ?_, ?_, ?_, ?_⟩
  · intro s t n missed valid hl hn
    have hport := (s.at t).port_setPort_same n (s.markedPort n (s.newMarker t n missed valid)) hn
    refine ⟨_, historyMarker_marks s t n missed valid hl, ?_, ?_, ?_, ?_, ?_, rfl⟩
    · rw [hport]
      rfl
    · rw [hport]
      rfl
    · rw [hport]
      exact s.markedPort_last n _
    · rw [hport]
      exact s.markedPort_held n _
    · rw [hport]
      exact s.markedPort_keeps n _
  · rintro s rd tag p start count r rfl h
    exact historyRead_listed h
  · rintro s tag p start count r rfl h
    refine ⟨_, (historyRead_future h).trans (congrArg Host.Outcome.next (if_pos rfl)), rfl, rfl, ?_, rfl⟩
    exact congrArg (· ++ _) (s.reads_withRead_ended _)
  · rintro s rd tag p start count r hrd rfl h
    exact ⟨_, (historyRead_future h).trans (congrArg Host.Outcome.next (if_neg hrd)), rfl, rfl, s.reads_withRead_ended _, rfl⟩
  · intro s r hs
    refine ⟨s.histEnd_counts r, State.isPend_fire _ 59 hs, State.isPend_fire _ 59 hs, ?_, fun o x hx => ?_⟩
    · rw [State.rfp_histEnd]
    · rw [State.rfp_histEnd] at hx
      exact bne_iff_ne.mp (List.mem_filter.mp hx).2
  · intro s t id r o hf ho hreader
    rw [historyReadDone_ended hf ho, State.handRead, hreader]
  · intro s t id r o hf ho hreader
    rw [historyReadDone_ended hf ho, State.handRead, hreader]
  · intro s t id r o hf ho hreader
    rw [historyReadDone_ended hf ho, State.handRead, hreader]
  · intro s oct hs hl h
    refine ⟨_, historyWindowEnd_over hl h, ?_, State.isPend_fire _ 209 hs, ?_, ?_⟩
    · rw [State.ctr_fire_ne _ _ _ (by decide) (by decide) (by decide), State.ctr_bump_same]
    · exact State.regsEvt_fire 209 (State.regsEvt_bump _ _ State.regsEvt_refl (by decide) (by decide)) (by decide)
    · rw [State.fire_frame]
      rfl

end Sys2Proof.Machine
end

section
/-! CDC (chapter 06): headers, payloads and encodes (R128, R134 to R136), for `Obligations.CdcCodec`. -/

namespace Sys2Proof.Machine

/-! ### What a header decode counts (R128, R136) -/

/-- A counter moved on changes the register file of a state in which nothing else has changed. -/
theorem State.bump_keeps_frame {s u : State} (h : u = { s with regs := u.regs }) (c n : Nat) :
    u.bump c n = { s with regs := (u.bump c n).regs } :=
  (u.bump_frame c n).trans (congrArg (fun v : State => { v with regs := (u.bump c n).regs }) h)

/-- A header that passed every check is counted, and as corrected where a word was, `c` bits in all (R128). -/
def State.hdrPassed (s : State) (c : Nat) : State :=
  if c = 0 then s.bump Ctr.CDC_HDROK else (s.bump Ctr.CDC_HDROK).bump Ctr.CDC_HDRCOR

theorem State.hdrPassed_frame (s : State) (c : Nat) : s.hdrPassed c = { s with regs := (s.hdrPassed c).regs } := by
  unfold State.hdrPassed
  split
  · exact State.bump_frame s _ 1
  · exact State.bump_keeps_frame (State.bump_frame s _ 1) _ 1

theorem State.ctr_hdrPassed_ok (s : State) (c : Nat) :
    (s.hdrPassed c).ctr Ctr.CDC_HDROK = (s.ctr Ctr.CDC_HDROK + 1) % 2 ^ 48 := by
  unfold State.hdrPassed
  split
  · exact State.ctr_bump_same s _ 1
  · rw [State.ctr_bump_ne _ _ _ _ (by decide) (by decide) (by decide), State.ctr_bump_same]

theorem State.ctr_hdrPassed_corrected (s : State) {c : Nat} (h : c ≠ 0) :
    (s.hdrPassed c).ctr Ctr.CDC_HDRCOR = (s.ctr Ctr.CDC_HDRCOR + 1) % 2 ^ 48 := by
  unfold State.hdrPassed
  rw [if_neg h, State.ctr_bump_same, State.ctr_bump_ne _ _ _ _ (by decide) (by decide) (by decide)]

theorem State.regsBut_hdrPassed (s : State) (c : Nat) :
    s.regsBut (s.hdrPassed c) (halves Ctr.CDC_HDROK ++ halves Ctr.CDC_HDRCOR) := by
  have hok : s.regsBut (s.bump Ctr.CDC_HDROK) (halves Ctr.CDC_HDROK ++ halves Ctr.CDC_HDRCOR) :=
    State.regsBut_bump _ _ State.regsBut_refl (by decide) (by decide)
  exact State.regsBut_if hok (State.regsBut_bump _ _ hok (by decide) (by decide))

/-- A failed header is counted by its reason and against HDRTHR, source 88 (R136). -/
theorem State.hdrFail_result (s : State) {c : Nat} (hc : Reg.CDC_THR < c) :
    (s.hdrFail c).ctr c = (s.ctr c + 1) % 2 ^ 48 ∧ (s.hdrFail c).cdc = { s.cdc with hdrFails := s.cdc.hdrFails + 1 } ∧
    (s.sysOn → s.cdc.hdrFails + 1 = s.fld F.CDC_THR_HDRTHR → (s.hdrFail c).isPend 88 = true) ∧
    s.regsEvt (s.hdrFail c) (halves c) := by
  have hpend : ∀ a, c ≤ a → isPendReg a = false := fun a ha =>
    isPendReg_high (Nat.lt_of_lt_of_le (Nat.lt_trans (by decide) hc) ha)
  unfold State.hdrFail
  dsimp only
  refine ⟨?_, State.fireIf_cdc _ _ 88, fun hs hthr => ?_, ?_⟩
  · rw [State.ctr_fireIf_ne _ _ _ _ (by decide) (hpend c (Nat.le_refl c)) (hpend _ (Nat.le_add_right c 4)), State.ctr_mk,
      State.ctr_bump_same]
  · rw [hthr, beq_self_eq_true]
    exact State.isPend_fire _ 88 hs
  · exact State.regsEvt_fireIf _ 88 (State.regsEvt_mk (State.regsEvt_bump _ _ State.regsEvt_refl (by simp [halves])
      (by simp [halves]))) (by decide)

/-! ### CDC_HEADER_DECODE -/

section

variable {s : State} {t : Time} {l w0 w1 : Nat} {rise : Int} {m : SymMeas} {x : Lane}

theorem cdcHeaderDecode_elsewhere (hl : s.laneIn l 2 = none) : exec (.cdcHeaderDecode t l w0 w1 rise m) s = .next (s.at t) := by
  change execCdcHeaderDecode t l w0 w1 rise m s = _
  unfold execCdcHeaderDecode
  rw [hl]

theorem cdcHeaderDecode_i3 (hl : s.laneIn l 2 = some x) (hp : x.phy = true) :
    exec (.cdcHeaderDecode t l w0 w1 rise m) s = .next (s.at t) := by
  change execCdcHeaderDecode t l w0 w1 rise m s = _
  unfold execCdcHeaderDecode
  rw [hl]
  exact congrArg Host.Outcome.next (if_pos hp)

/-- A native frame in HEADER goes on by what CDC answers; the words are read under the weights before the report. -/
theorem cdcHeaderDecode_native {r : (Nat × Option (Hdr × Nat)) × State} (hl : s.laneIn l 2 = some x) (hp : x.phy = false)
    (hc : (s.at t).cdcHeader x.lh (x.words m w0 w1).1 (x.words m w0 w1).2 = r) :
    exec (.cdcHeaderDecode t l w0 w1 rise m) s = .next (match r.1.2 with
      | some (h, w) => r.2.setLane l { x.overlap rise m with state := 3, hdr := some h, hdrWord := w }
      | none => r.2.laneEnd t l (x.overlap rise m) r.1.1 0 []) := by
  have hlh : (x.overlap rise m).lh = x.lh := rfl
  change execCdcHeaderDecode t l w0 w1 rise m s = _
  unfold execCdcHeaderDecode
  rw [hl]
  dsimp only
  rw [if_neg (ne_true_of_eq_false hp), hlh, hc]
  obtain ⟨⟨o, _ | ⟨h, w⟩⟩, u⟩ := r
  · rfl
  · rfl

end

theorem State.cdcHeader_golayFail (s : State) {lh w0 w1 : Nat} (h : hdrCheck lh w0 w1 = .golayFail) :
    s.cdcHeader lh w0 w1 = ((2, none), s.hdrFail Ctr.CDC_HDRGOL) := by
  unfold State.cdcHeader
  rw [h]

theorem State.cdcHeader_hchkFail (s : State) {lh w0 w1 : Nat} (h : hdrCheck lh w0 w1 = .hchkFail) :
    s.cdcHeader lh w0 w1 = ((3, none), s.hdrFail Ctr.CDC_HDRCHK) := by
  unfold State.cdcHeader
  rw [h]

theorem State.cdcHeader_inv (s : State) {lh w0 w1 : Nat} (h : hdrCheck lh w0 w1 = .inv) :
    s.cdcHeader lh w0 w1 = ((4, none), s.hdrFail Ctr.CDC_HDRINV) := by
  unfold State.cdcHeader
  rw [h]

theorem State.cdcHeader_ok (s : State) {lh w0 w1 w c : Nat} {h : Hdr} (hc : hdrCheck lh w0 w1 = .ok h w c) :
    s.cdcHeader lh w0 w1 = ((0, some (h, w)), s.hdrPassed c) := by
  unfold State.cdcHeader
  rw [hc]
  rfl

/-- A header that fails ends the frame with the outcome `o`, counted in `c` (R142, R143). -/
theorem cdcHeaderDecode_fails {s : State} {t : Time} {l w0 w1 o c : Nat} {rise : Int} {m : SymMeas} {x : Lane}
    (hl : s.laneIn l 2 = some x) (hp : x.phy = false)
    (hc : (s.at t).cdcHeader x.lh (x.words m w0 w1).1 (x.words m w0 w1).2 = ((o, none), (s.at t).hdrFail c)) :
    exec (.cdcHeaderDecode t l w0 w1 rise m) s = .next (((s.at t).hdrFail c).laneEnd t l (x.overlap rise m) o 0 []) :=
  cdcHeaderDecode_native hl hp hc

/-- A header that passes takes the lane to PAYLOAD with it (R142). -/
theorem cdcHeaderDecode_passes {s : State} {l w0 w1 w c : Nat} {m : SymMeas} {x : Lane} {h : Hdr} (t : Time) (rise : Int)
    (hl : s.laneIn l 2 = some x) (hp : x.phy = false) (hc : hdrCheck x.lh (x.words m w0 w1).1 (x.words m w0 w1).2 = .ok h w c) :
    exec (.cdcHeaderDecode t l w0 w1 rise m) s =
      .next (((s.at t).hdrPassed c).setLane l { x.overlap rise m with state := 3, hdr := some h, hdrWord := w }) :=
  cdcHeaderDecode_native hl hp ((s.at t).cdcHeader_ok hc)

/-! ### CDC_PAYLOAD_DECODE -/

/-- The codewords of a payload, good, corrected symbols and bad, counted (R134). -/
def State.codewords (s : State) (o : PayloadOut) : State :=
  ((s.bump Ctr.CDC_CWOK o.good).bump Ctr.CDC_CWSYM o.corr).bump Ctr.CDC_CWFAIL o.bad

theorem State.codewords_frame (s : State) (o : PayloadOut) : s.codewords o = { s with regs := (s.codewords o).regs } :=
  State.bump_keeps_frame (State.bump_keeps_frame (State.bump_frame s _ _) _ _) _ _

theorem State.codewords_counts (s : State) (o : PayloadOut) :
    (s.codewords o).ctr Ctr.CDC_CWOK = (s.ctr Ctr.CDC_CWOK + o.good) % 2 ^ 48 ∧
      (s.codewords o).ctr Ctr.CDC_CWFAIL = (s.ctr Ctr.CDC_CWFAIL + o.bad) % 2 ^ 48 := by
  unfold State.codewords
  constructor
  · rw [State.ctr_bump_ne _ _ _ _ (by decide) (by decide) (by decide), State.ctr_bump_ne _ _ _ _ (by decide) (by decide) (by decide),
      State.ctr_bump_same]
  · rw [State.ctr_bump_same, State.ctr_bump_ne _ _ _ _ (by decide) (by decide) (by decide),
      State.ctr_bump_ne _ _ _ _ (by decide) (by decide) (by decide)]

/-- A payload decode counts its codewords, and the bad ones against RSTHR. -/
theorem State.cdcPayload_eq (s : State) (h : Hdr) (coded : List Octet) :
    ∃ hit, (s.cdcPayload h coded).2 = State.fireIf { s.codewords (decodePayload h coded) with
      cdc := { s.cdc with rsFails := s.cdc.rsFails + (decodePayload h coded).bad } } hit 89 := ⟨_, rfl⟩

theorem State.cdcPayload_result (s : State) (h : Hdr) (coded : List Octet) :
    (s.cdcPayload h coded).2.ctr Ctr.CDC_CWOK = (s.ctr Ctr.CDC_CWOK + (decodePayload h coded).good) % 2 ^ 48 ∧
    (s.cdcPayload h coded).2.ctr Ctr.CDC_CWFAIL = (s.ctr Ctr.CDC_CWFAIL + (decodePayload h coded).bad) % 2 ^ 48 ∧
    (s.cdcPayload h coded).2.cdc = { s.cdc with rsFails := s.cdc.rsFails + (decodePayload h coded).bad } ∧
    (s.cdcPayload h coded).2 = { s with
      regs := (s.cdcPayload h coded).2.regs, evt := (s.cdcPayload h coded).2.evt, cdc := (s.cdcPayload h coded).2.cdc } := by
  obtain ⟨hit, heq⟩ := s.cdcPayload_eq h coded
  generalize (s.cdcPayload h coded).2 = u at heq ⊢
  generalize decodePayload h coded = o at heq ⊢
  subst heq
  obtain ⟨hgood, hbad⟩ := s.codewords_counts o
  refine ⟨?_, ?_, State.fireIf_cdc _ _ 89, ?_⟩
  · rw [State.ctr_fireIf_ne _ _ _ _ (by decide) (by decide) (by decide), State.ctr_mk, hgood]
  · rw [State.ctr_fireIf_ne _ _ _ _ (by decide) (by decide) (by decide), State.ctr_mk, hbad]
  · obtain ⟨r, hr⟩ : ∃ r, s.codewords o = { s with regs := r } := ⟨_, s.codewords_frame o⟩
    rw [State.fireIf_frame, hr]

section

variable {s : State} {t : Time} {l : Nat} {coded pl : List Octet} {rise : Int} {m : SymMeas} {x : Lane} {h : Hdr}

theorem cdcPayloadDecode_elsewhere (hl : s.laneIn l 3 = none) : exec (.cdcPayloadDecode t l coded rise m) s = .next (s.at t) := by
  change execCdcPayloadDecode t l coded rise m s = _
  unfold execCdcPayloadDecode
  rw [hl]

theorem cdcPayloadDecode_early (hl : s.laneIn l 3 = some x) (hx : x.waiting = false ∨ x.hdr = none) :
    exec (.cdcPayloadDecode t l coded rise m) s = .next (s.at t) := by
  change execCdcPayloadDecode t l coded rise m s = _
  unfold execCdcPayloadDecode
  rw [hl]
  dsimp only
  split
  next hw hh =>
    rcases hx with hx | hx
    · exact absurd (hw.symm.trans hx) (by decide)
    · exact absurd (hh.symm.trans hx) (Option.some_ne_none _)
  next => rfl

theorem cdcPayloadDecode_waiting (hl : s.laneIn l 3 = some x) (hw : x.waiting = true) (hh : x.hdr = some h) :
    exec (.cdcPayloadDecode t l coded rise m) s = .next (
      match (decodePayload h (x.octets m coded)).payload with
      | some pl => ((s.at t).cdcPayload h (x.octets m coded)).2.laneEnd t l (x.overlap rise m) 0
          (decodePayload h (x.octets m coded)).corr pl
      | none => ((s.at t).cdcPayload h (x.octets m coded)).2.laneEnd t l (x.overlap rise m) 5
          (decodePayload h (x.octets m coded)).corr []) := by
  change execCdcPayloadDecode t l coded rise m s = _
  unfold execCdcPayloadDecode
  rw [hl]
  dsimp only
  rw [hw, hh]
  rfl

theorem cdcPayloadDecode_fails (hl : s.laneIn l 3 = some x) (hw : x.waiting = true) (hh : x.hdr = some h)
    (hd : (decodePayload h (x.octets m coded)).payload = none) :
    exec (.cdcPayloadDecode t l coded rise m) s = .next (((s.at t).cdcPayload h (x.octets m coded)).2.laneEnd t l (x.overlap rise m) 5
      (decodePayload h (x.octets m coded)).corr []) := by
  rw [cdcPayloadDecode_waiting hl hw hh, hd]

theorem cdcPayloadDecode_decodes (hl : s.laneIn l 3 = some x) (hw : x.waiting = true) (hh : x.hdr = some h)
    (hd : (decodePayload h (x.octets m coded)).payload = some pl) :
    exec (.cdcPayloadDecode t l coded rise m) s = .next (((s.at t).cdcPayload h (x.octets m coded)).2.laneEnd t l (x.overlap rise m) 0
      (decodePayload h (x.octets m coded)).corr pl) := by
  rw [cdcPayloadDecode_waiting hl hw hh, hd]

end

/-! ### CDC_ENCODE and CDC_ENCODE_CANCEL -/

/-- The request at the head of the queue gives way to its chips (R135). -/
def State.encodedHead (s : State) (r : EncReq) (l : List EncReq) : State :=
  { s with cdc := { s.cdc with queue := l, chips := s.cdc.chips.put r.id (rails (frameChips r.lh r.hdr r.payload)) } }

theorem cdcEncode_idle {s : State} (h : s.cdc.queue = []) : exec .cdcEncode s = .next s := by
  change execCdcEncode s = _
  unfold execCdcEncode
  rw [h]

theorem cdcEncode_head {s : State} {r : EncReq} {l : List EncReq} (h : s.cdc.queue = r :: l) :
    exec .cdcEncode s = .next ((s.encodedHead r l).bump Ctr.CDC_TXFRM) := by
  change execCdcEncode s = _
  unfold execCdcEncode
  rw [h]
  rfl

theorem cdcEncodeCancel_queued {s : State} {id : Nat} (h : s.cdc.queue.any (fun (x : EncReq) => x.id == id) = true) :
    exec (.cdcEncodeCancel id) s = .next { s with cdc := { s.cdc with
      queue := s.cdc.queue.filter (fun (x : EncReq) => x.id != id), cancelled := s.cdc.cancelled ++ [id] } } :=
  congrArg Host.Outcome.next (if_pos h)

theorem cdcEncodeCancel_absent {s : State} {id : Nat} (h : s.cdc.queue.any (fun (x : EncReq) => x.id == id) = false) :
    exec (.cdcEncodeCancel id) s = .next s :=
  congrArg Host.Outcome.next (if_neg (ne_true_of_eq_false h))

/-- Settles O34: each clause is the lemma of its command, or of what a decode counts. -/
theorem cdcCodec : Obligations.CdcCodec := by
  refine ⟨?_, fun s t l w0 w1 rise m x hl hp hc => cdcHeaderDecode_fails hl hp ((s.at t).cdcHeader_golayFail hc),
    fun s t l w0 w1 rise m x hl hp hc => cdcHeaderDecode_fails hl hp ((s.at t).cdcHeader_hchkFail hc),
    fun s t l w0 w1 rise m x hl hp hc => cdcHeaderDecode_fails hl hp ((s.at t).cdcHeader_inv hc), ?_,
    fun s t l coded rise m x h => cdcPayloadDecode_fails, fun s t l coded pl rise m x h => cdcPayloadDecode_decodes,
    State.cdcPayload_result, fun s t l w0 w1 rise m => cdcHeaderDecode_elsewhere, fun s t l w0 w1 rise m x => cdcHeaderDecode_i3,
    fun s t l coded rise m => cdcPayloadDecode_elsewhere, fun s t l coded rise m x => cdcPayloadDecode_early,
    fun s => cdcEncode_idle, ?_, fun s id h => ⟨_, cdcEncodeCancel_queued h, rfl⟩, fun s id => cdcEncodeCancel_absent⟩
  · intro s t l w0 w1 w c rise m x h hl hp hc
    obtain ⟨r, hr⟩ : ∃ r, (s.at t).hdrPassed c = { s.at t with regs := r } := ⟨_, (s.at t).hdrPassed_frame c⟩
    refine ⟨_, cdcHeaderDecode_passes t rise hl hp hc, ?_, ?_, fun h0 => ?_, ?_, ?_⟩
    · rw [hr]
      rfl
    · exact (State.ctr_mk _ _).trans ((s.at t).ctr_hdrPassed_ok c)
    · exact (State.ctr_mk _ _).trans ((s.at t).ctr_hdrPassed_corrected h0)
    · exact State.regsBut_of_at (State.regsBut_mk ((s.at t).regsBut_hdrPassed c))
    · rw [hr]
      rfl
  · intro s c hc
    refine s.hdrFail_result (Nat.lt_of_lt_of_le (m := Ctr.CDC_HDRGOL) (by decide) ?_)
    fin_cases hc <;> decide
  · intro s r l h
    have hkept : s.regsBut (s.encodedHead r l) (halves Ctr.CDC_TXFRM) := fun _ _ => State.reg_congr rfl _
    refine ⟨_, cdcEncode_head h, State.bump_cdc _ _ 1, ?_, State.regsBut_bump _ _ hkept (by decide) (by decide), ?_⟩
    · rw [State.ctr_bump_same]
      exact congrArg (fun n => (n + 1) % 2 ^ 48) (State.ctr_mk s _)
    · rw [State.bump_frame]
      rfl

end Sys2Proof.Machine
end

section
/-! BGT's charges and buckets (R209 to R216), for `Obligations.BudgetsWindowsAndLinks`. -/

namespace Sys2Proof.Machine

/-! ### What a charge may write -/

/-- Of `s` only the register file, the events and the accounts differ in `u`. -/
def State.acctsOnly (s u : State) : Prop :=
  ∃ r e a, u = { s with regs := r, evt := e, bgt := { s.bgt with accts := a } }

theorem State.acctsOnly_refl (s : State) : s.acctsOnly s := ⟨_, _, _, rfl⟩

theorem State.acctsOnly_putAcct {s u : State} (h : s.acctsOnly u) (key : Nat) (a : Account) : s.acctsOnly (u.putAcct key a) := by
  obtain ⟨r, e, l, rfl⟩ := h
  exact ⟨r, e, _, rfl⟩

theorem State.acctsOnly_fireIf {s u : State} (h : s.acctsOnly u) (x : Bool) (k : Nat) : s.acctsOnly (u.fireIf x k) := by
  obtain ⟨r, e, l, rfl⟩ := h
  rw [State.fireIf_frame]
  exact ⟨_, _, l, rfl⟩

/-! ### EXH (R216) -/

/-- EXH of the budgets `ks` becomes `b` where `c` holds. -/
def State.exhIf (s : State) (c : Prop) [Decidable c] (ks : List Nat) (b : Bool) : State := if c then s.setExh ks b else s

section

variable (s : State) (c : Prop) [Decidable c] (ks : List Nat) (b : Bool)

theorem State.setExh_frame : s.setExh ks b = { s with regs := (s.setExh ks b).regs, evt := (s.setExh ks b).evt } := by
  unfold State.setExh
  rw [State.fireIf_frame]
  rfl

theorem State.exhIf_frame : s.exhIf c ks b = { s with regs := (s.exhIf c ks b).regs, evt := (s.exhIf c ks b).evt } := by
  unfold State.exhIf
  split
  · exact s.setExh_frame ks b
  · rfl

theorem State.exhIf_pwr : (s.exhIf c ks b).pwr = s.pwr := (congrArg State.pwr (s.exhIf_frame c ks b) :)

theorem State.exhIf_bgt : (s.exhIf c ks b).bgt = s.bgt := (congrArg State.bgt (s.exhIf_frame c ks b) :)

variable {s} {l : List Nat} {u : State}

theorem State.regsEvt_exhIf (h : s.regsEvt u l) (hl : Reg.BGT_STATUS ∈ l) : s.regsEvt (u.exhIf c ks b) l :=
  State.regsEvt_if (State.regsEvt_fireIf _ 113 (State.regsEvt_setFld _ _ h hl) (by decide)) h

theorem State.ctr_exhIf {n : Nat} (h : Reg.BGT_STATUS < n) : (u.exhIf c ks b).ctr n = u.ctr n := by
  have hreg : ∀ a, n ≤ a → (u.exhIf c ks b).reg a = u.reg a := fun a ha =>
    State.regsEvt_exhIf (l := [Reg.BGT_STATUS]) c ks b State.regsEvt_refl (by simp) a
      (fun hm => absurd (List.mem_singleton.mp hm) (Nat.ne_of_gt (Nat.lt_of_lt_of_le h ha)))
      (isPendReg_high (Nat.lt_of_lt_of_le (Nat.lt_trans (by decide) h) ha))
  unfold State.ctr
  rw [hreg n (Nat.le_refl n), hreg (n + 4) (Nat.le_add_right n 4)]

end

/-! ### A charge that a rule refuses (R210, R216) -/

theorem BgtReason.status_lt_ctr (r : BgtReason) : Reg.BGT_STATUS < r.ctr := by
  cases r <;> decide

section

variable {s : State} {id f sp start dur rate : Nat} {kind : TxKind}

theorem State.charge_refused {r : BgtReason} (h : s.bgtRefusal f sp start dur kind = some r) :
    s.charge id f sp start dur rate kind = (some r, ((s.bump r.ctr).exhIf (r = .budget ∧ kind = .data)
      (s.overBudget (s.budgetsOf f sp) f start dur kind) true).fireIf (r == .txmax || r == .resv) 114) := by
  unfold State.charge
  rw [h]
  rfl

theorem State.charge_refused_result {r : BgtReason} (h : s.bgtRefusal f sp start dur kind = some r) :
    (s.charge id f sp start dur rate kind).1 = some r ∧
    (s.charge id f sp start dur rate kind).2.ctr r.ctr = (s.ctr r.ctr + 1) % 2 ^ 48 ∧
    (s.sysOn → r = .txmax ∨ r = .resv → (s.charge id f sp start dur rate kind).2.isPend 114 = true) ∧
    s.regsEvt (s.charge id f sp start dur rate kind).2 (Reg.BGT_STATUS :: halves r.ctr) ∧
    (s.charge id f sp start dur rate kind).2 = { s with
      regs := (s.charge id f sp start dur rate kind).2.regs, evt := (s.charge id f sp start dur rate kind).2.evt } := by
  have hpend : ∀ a, r.ctr ≤ a → isPendReg a = false := fun a ha =>
    isPendReg_high (Nat.lt_of_lt_of_le (Nat.lt_trans (by decide) r.status_lt_ctr) ha)
  have hregs : s.regsEvt (s.bump r.ctr) (Reg.BGT_STATUS :: halves r.ctr) :=
    State.regsEvt_bump _ _ State.regsEvt_refl (by simp [halves]) (by simp [halves])
  rw [State.charge_refused h]
  dsimp only
  refine ⟨rfl, ?_, fun hs hr => ?_, ?_, ?_⟩
  · rw [State.ctr_fireIf_ne _ _ _ _ (by decide) (hpend _ (Nat.le_refl _)) (hpend _ (Nat.le_add_right _ 4)),
      State.ctr_exhIf _ _ _ r.status_lt_ctr, State.ctr_bump_same]
  · have hhit : (r == .txmax || r == .resv) = true := by
      rcases hr with rfl | rfl
      · rfl
      · rfl
    rw [hhit]
    exact State.isPend_fire _ 114 (State.sysOn_congr (State.exhIf_pwr _ _ _ _) hs)
  · exact State.regsEvt_fireIf _ 114 (State.regsEvt_exhIf _ _ _ hregs List.mem_cons_self) (by decide)
  · obtain ⟨w, hw⟩ : ∃ w, s.bump r.ctr = { s with regs := w } := ⟨_, s.bump_frame r.ctr 1⟩
    rw [State.fireIf_frame, State.exhIf_frame, hw]

/-! ### A charge that is granted (R210 to R213) -/

/-- Transmission `id` is charged to budget `k`, source 112 where the account reaches USETHR (R209, R216). -/
def State.chargeAcct (id f start dur : Nat) (t : State) (k : Nat) : State :=
  let key := t.acctKey k f
  let a := t.account k key
  let b := t.bucketOf k start
  let was := a.used b
  let a' := { a with buckets := a.buckets.put b (a.buckets.getD' b 0 + dur), ends := a.ends ++ [(id, start, start + dur)] }
  let thr := t.fld F.BGT_THR_USETHR
  let lim := t.fld (F.BGT_SBkALLOW_ALLOW k) * 1000 * thr
  let hit := thr != 0 && ((t.budMode k == 1 || t.budMode k == 2) && (Nat.blt (was * 100) lim && Nat.ble lim (a'.used b * 100)))
  (t.putAcct key a').fireIf hit 112

theorem State.chargeAccts_keeps (ks : List Nat) {u : State} (ho : s.acctsOnly u) (hr : s.regsEvt u []) :
    s.acctsOnly (ks.foldl (State.chargeAcct id f start dur) u) ∧ s.regsEvt (ks.foldl (State.chargeAcct id f start dur) u) [] := by
  induction ks generalizing u with
  | nil => exact ⟨ho, hr⟩
  | cons k ks ih =>
    exact ih (State.acctsOnly_fireIf (State.acctsOnly_putAcct ho _ _) _ 112)
      (State.regsEvt_fireIf _ 112 (State.regsEvt_mk hr) (by decide))

/-- What is kept of a granted charge for its settlement (R213). -/
def State.grantOf (s : State) (f sp start dur rate : Nat) (kind : TxKind) : Grant :=
  { kind := kind, dur := dur, start := start, rate := rate,
    accts := (s.budgetsOf f sp).map (fun k => (s.acctKey k f, s.bucketOf k start)) }

/-- A charge is granted to `u`, the state with the accounts charged: counted and kept. -/
def State.granted (u : State) (id : Nat) (g : Grant) : State :=
  { u.bump Ctr.BGT_GRANT with bgt := { u.bgt with grants := u.bgt.grants.put id g } }

theorem State.granted_frame (u : State) (id : Nat) (g : Grant) :
    u.granted id g = { u with regs := (u.granted id g).regs, bgt := (u.granted id g).bgt } := by
  unfold State.granted
  rw [State.bump_frame]

theorem State.charge_granted (h : s.bgtRefusal f sp start dur kind = none) :
    s.charge id f sp start dur rate kind = (none, (((s.budgetsOf f sp).foldl (State.chargeAcct id f start dur) s).granted id
      (s.grantOf f sp start dur rate kind)).exhIf (kind = .data) (s.budgetsOf f sp) false) := by
  unfold State.charge
  rw [h]
  rfl

theorem State.charge_granted_result (h : s.bgtRefusal f sp start dur kind = none) :
    (s.charge id f sp start dur rate kind).1 = none ∧
    (s.charge id f sp start dur rate kind).2.bgt.grants = s.bgt.grants.put id (s.grantOf f sp start dur rate kind) ∧
    (s.charge id f sp start dur rate kind).2.ctr Ctr.BGT_GRANT = (s.ctr Ctr.BGT_GRANT + 1) % 2 ^ 48 ∧
    s.regsEvt (s.charge id f sp start dur rate kind).2 (Reg.BGT_STATUS :: halves Ctr.BGT_GRANT) ∧
    (s.charge id f sp start dur rate kind).2 = { s with
      regs := (s.charge id f sp start dur rate kind).2.regs, evt := (s.charge id f sp start dur rate kind).2.evt,
      bgt := (s.charge id f sp start dur rate kind).2.bgt } := by
  obtain ⟨⟨r, e, a, hu⟩, hregs⟩ := State.chargeAccts_keeps (id := id) (f := f) (start := start) (dur := dur) (s.budgetsOf f sp)
    s.acctsOnly_refl State.regsEvt_refl
  rw [State.charge_granted h]
  dsimp only
  generalize (s.budgetsOf f sp).foldl (State.chargeAcct id f start dur) s = u at hu hregs ⊢
  have hctr : u.ctr Ctr.BGT_GRANT = s.ctr Ctr.BGT_GRANT := by
    unfold State.ctr
    rw [hregs _ (by simp) (by decide), hregs _ (by simp) (by decide)]
  have hregs' : s.regsEvt u (Reg.BGT_STATUS :: halves Ctr.BGT_GRANT) := fun x _ => hregs x (by simp)
  refine ⟨rfl, ?_, ?_, ?_, ?_⟩
  · rw [State.exhIf_bgt, hu]
    rfl
  · rw [State.ctr_exhIf _ _ _ (by decide)]
    refine (State.ctr_mk _ _).trans ?_
    rw [State.ctr_bump_same, hctr]
  · exact State.regsEvt_exhIf _ _ _ (State.regsEvt_mk (State.regsEvt_bump _ _ hregs' (by decide) (by decide))) List.mem_cons_self
  · obtain ⟨w, b, hw⟩ : ∃ w b, u.granted id (s.grantOf f sp start dur rate kind) = { u with regs := w, bgt := b } :=
      ⟨_, _, u.granted_frame id _⟩
    rw [State.exhIf_frame, hw, hu]

end

/-! ### The assessment that a granted charge may need (R217) -/

section

variable {s u : State}

/-- Which assessment a channel needs is read from the registers of the budgets. -/
theorem State.lbt_congr (h : ∀ a, Reg.BGT_SBkF0 0 ≤ a → u.reg a = s.reg a) (f sp : Nat) (kind : TxKind) :
    u.lbt f sp kind = s.lbt f sp kind := by
  have hfld : ∀ g : Field, Reg.BGT_SBkF0 0 ≤ g.reg → u.fld g = s.fld g := fun g hg => congrArg g.ext (h g.reg hg)
  have hmode : ∀ k, u.fld (F.BGT_SBkPOL_MODE k) = s.fld (F.BGT_SBkPOL_MODE k) := fun k =>
    hfld _ (Nat.le_add_right_of_le (by decide))
  have hlo : ∀ k, u.fld (F.BGT_SBkF0_KHZ k) = s.fld (F.BGT_SBkF0_KHZ k) := fun k => hfld _ (Nat.le_add_right_of_le (by decide))
  have hhi : ∀ k, u.fld (F.BGT_SBkF1_KHZ k) = s.fld (F.BGT_SBkF1_KHZ k) := fun k => hfld _ (Nat.le_add_right_of_le (by decide))
  have hack : ∀ k, u.fld (F.BGT_SBkPOL_ACKEX k) = s.fld (F.BGT_SBkPOL_ACKEX k) := fun k =>
    hfld _ (Nat.le_add_right_of_le (by decide))
  have hlisten : ∀ k, u.fld (F.BGT_SBkLBT_LISTEN k) = s.fld (F.BGT_SBkLBT_LISTEN k) := fun k =>
    hfld _ (Nat.le_add_right_of_le (by decide))
  have hthresh : ∀ k, u.fld (F.BGT_SBkLBT_THRESH k) = s.fld (F.BGT_SBkLBT_THRESH k) := fun k =>
    hfld _ (Nat.le_add_right_of_le (by decide))
  unfold State.lbt State.listenBudgets State.budgetsOf State.inBudget State.budMode State.on
  simp only [hmode, hlo, hhi, hack, hlisten, hthresh]

/-- The window of an assessment is read from TXLAT of its port and the rate of GT. -/
theorem State.ccaWindow_congr {p : Nat} (hlat : u.reg (Reg.RFPn_LAT p) = s.reg (Reg.RFPn_LAT p))
    (hcfg : u.reg Reg.GTB_CFG = s.reg Reg.GTB_CFG) (hg : u.gtb = s.gtb) (start w : Nat) :
    u.ccaWindow p start w = s.ccaWindow p start w := by
  have htx : u.fld (F.RFPn_LAT_TXLAT p) = s.fld (F.RFPn_LAT_TXLAT p) := congrArg (F.RFPn_LAT_TXLAT p).ext hlat
  have hnom : u.on F.GTB_CFG_NOMF = s.on F.GTB_CFG_NOMF := congrArg (fun v => F.GTB_CFG_NOMF.ext v == 1) hcfg
  unfold State.ccaWindow State.mainsFreq State.nomFreq
  rw [htx, hnom, hg]

variable {n id chips : Nat} {x : Stream} {kind : TxKind}

/-- A granted charge leaves what its assessment is read from. -/
theorem State.chargeOf_granted_reads (hg : (s.chargeOf n x id kind chips).1 = none) (f sp start w : Nat) :
    (s.chargeOf n x id kind chips).2.lbt f sp kind = s.lbt f sp kind ∧
      (s.chargeOf n x id kind chips).2.ccaWindow n start w = s.ccaWindow n start w := by
  have hnone : s.bgtRefusal (s.sliceCentre n x.slice).toNat (spacing (s.sliceClass n x.slice)) (s.ftOf x.start)
      (chargeNs chips (chipRate (s.sliceClass n x.slice))) kind = none := by
    cases hr : s.bgtRefusal (s.sliceCentre n x.slice).toNat (spacing (s.sliceClass n x.slice)) (s.ftOf x.start)
        (chargeNs chips (chipRate (s.sliceClass n x.slice))) kind with
    | none => rfl
    | some r => exact absurd ((State.charge_refused_result hr).1.symm.trans hg) (Option.some_ne_none r)
  obtain ⟨-, -, -, hregs, hframe⟩ := State.charge_granted_result (id := id)
    (rate := chipRate (s.sliceClass n x.slice)) hnone
  unfold State.chargeOf
  dsimp only
  generalize (s.charge id (s.sliceCentre n x.slice).toNat (spacing (s.sliceClass n x.slice)) (s.ftOf x.start)
    (chargeNs chips (chipRate (s.sliceClass n x.slice))) (chipRate (s.sliceClass n x.slice)) kind).2 = u at hregs hframe ⊢
  refine ⟨State.lbt_congr (fun a ha => ?_) f sp kind, State.ccaWindow_congr ?_ ?_ ?_ start w⟩
  · refine hregs a (fun hm => ?_) (isPendReg_high (Nat.lt_of_lt_of_le (by decide) ha))
    have hle : a ≤ Ctr.BGT_GRANT + 4 := by
      simp only [halves, List.mem_cons, List.not_mem_nil, or_false] at hm
      unfold Reg.BGT_STATUS Ctr.BGT_GRANT at *
      omega
    exact absurd (Nat.le_trans ha hle) (by decide)
  · refine hregs _ ?_ (isPendReg_LAT n)
    simp only [halves, List.mem_cons, List.not_mem_nil, or_false, Reg.RFPn_LAT, Reg.BGT_STATUS, Ctr.BGT_GRANT]
    omega
  · exact hregs _ (by decide) (by decide)
  · exact (congrArg State.gtb hframe :)

/-! ### BGT_CHARGE -/

/-- A request for a reserved stream is its charge, with the assessment of its channel after a charge that is granted. -/
theorem State.bgtRequest_of_stream (hf : s.findStream id = some (n, x)) :
    (s.bgtRequest id kind chips).2 = (let u := (s.chargeOf n x id kind chips).2
      if (s.chargeOf n x id kind chips).1 = none then
        (u.lbt (s.sliceCentre n x.slice).toNat (spacing (s.sliceClass n x.slice)) kind).elim u
          (fun e => u.ccaStart id .bgt n x.slice e.1 e.2 true true (u.ccaWindow n x.start e.1))
      else u) := by
  unfold State.chargeOf State.bgtRequest
  rw [hf]
  dsimp only
  generalize s.charge id _ _ _ _ _ kind = c
  obtain ⟨_ | r, u⟩ := c
  · dsimp only
    rw [if_pos rfl]
    cases u.lbt (s.sliceCentre n x.slice).toNat (spacing (s.sliceClass n x.slice)) kind with
    | none => rfl
    | some e => rfl
  · rfl

theorem State.bgtRequest_granted (hf : s.findStream id = some (n, x)) (hg : (s.chargeOf n x id kind chips).1 = none) :
    (s.bgtRequest id kind chips).2 =
      (s.lbt (s.sliceCentre n x.slice).toNat (spacing (s.sliceClass n x.slice)) kind).elim (s.chargeOf n x id kind chips).2
        (fun e => (s.chargeOf n x id kind chips).2.ccaStart id .bgt n x.slice e.1 e.2 true true (s.ccaWindow n x.start e.1)) := by
  have hlbt := fun f sp => (State.chargeOf_granted_reads hg f sp 0 0).1
  have hwin := fun w => (State.chargeOf_granted_reads hg 0 0 x.start w).2
  rw [State.bgtRequest_of_stream hf]
  dsimp only
  rw [if_pos hg, hlbt]
  simp only [hwin]

variable {t : Time}

theorem bgtCharge_no_stream (hf : s.findStream id = none) : exec (.bgtCharge t id kind chips) s = .next (s.at t) := by
  have hf' : (s.at t).findStream id = none := hf
  change execBgtCharge t id kind chips s = _
  unfold execBgtCharge State.bgtRequest
  rw [hf']

theorem bgtCharge_unassessed (hf : s.findStream id = some (n, x)) (h : ((s.at t).chargeOf n x id kind chips).1 ≠ none ∨
    s.lbt (s.sliceCentre n x.slice).toNat (spacing (s.sliceClass n x.slice)) kind = none) :
    exec (.bgtCharge t id kind chips) s = .next ((s.at t).chargeOf n x id kind chips).2 := by
  have hf' : (s.at t).findStream id = some (n, x) := hf
  refine congrArg Host.Outcome.next (a₁ := ((s.at t).bgtRequest id kind chips).2) ?_
  cases hc : ((s.at t).chargeOf n x id kind chips).1 with
  | some r => rw [State.bgtRequest_of_stream hf', if_neg (by rw [hc]; exact Option.some_ne_none r)]
  | none =>
    have hn : (s.at t).lbt ((s.at t).sliceCentre n x.slice).toNat (spacing ((s.at t).sliceClass n x.slice)) kind = none :=
      h.resolve_left (not_not_intro hc)
    rw [State.bgtRequest_granted hf' hc, hn]
    rfl

theorem bgtCharge_assessed {w : Nat} {th : Int} (hf : s.findStream id = some (n, x))
    (hc : ((s.at t).chargeOf n x id kind chips).1 = none)
    (hl : s.lbt (s.sliceCentre n x.slice).toNat (spacing (s.sliceClass n x.slice)) kind = some (w, th)) :
    exec (.bgtCharge t id kind chips) s = .next (((s.at t).chargeOf n x id kind chips).2.ccaStart id .bgt n x.slice w th true true
      (s.ccaWindow n x.start w)) := by
  have hl' : (s.at t).lbt ((s.at t).sliceCentre n x.slice).toNat (spacing ((s.at t).sliceClass n x.slice)) kind = some (w, th) := hl
  refine congrArg Host.Outcome.next (a₁ := ((s.at t).bgtRequest id kind chips).2) ?_
  rw [State.bgtRequest_granted (s := s.at t) hf hc, hl']
  rfl

end

/-! ### BUCKET_ADVANCE -/

theorem Tab.keys_mapv {α β : Type} (t : Tab α) (f : Nat → α → β) : (t.mapv f).keys = t.keys := by
  unfold Tab.keys Tab.mapv
  rw [List.map_map]
  rfl

/-- The account without the buckets that are more than 64 before bucket `now` (R209). -/
def Account.recent (now : Nat) (a : Account) : Account := { a with buckets := a.buckets.only (fun b _ => Nat.ble now (b + 64)) }

theorem Account.recent_within {now : Nat} {a : Account} {b : Nat × Nat} (h : b ∈ (a.recent now).buckets) : now ≤ b.1 + 64 :=
  Nat.ble_eq.mp (List.mem_filter.mp h).2

/-- The accounts once the buckets that have left the 64 are dropped. -/
def State.advancedAccts (s : State) (t : Time) : Tab Account :=
  s.bgt.accts.mapv (fun key a => a.recent (s.bucketOf (key / 2 ^ 24) (t.ft * 1000)))

theorem bucketAdvance_drops (s : State) (t : Time) :
    exec (.bucketAdvance t) s = .next { s.at t with bgt := { s.bgt with accts := s.advancedAccts t } } := rfl

theorem State.advancedAccts_keys (s : State) (t : Time) : (s.advancedAccts t).keys = s.bgt.accts.keys := Tab.keys_mapv _ _

theorem State.advancedAccts_within (s : State) (t : Time) :
    ∀ e ∈ s.advancedAccts t, ∀ b ∈ e.2.buckets, s.bucketOf (e.1 / 2 ^ 24) (t.ft * 1000) ≤ b.1 + 64 := by
  intro e he b hb
  obtain ⟨e0, -, rfl⟩ := List.mem_map.mp he
  exact Account.recent_within hb

end Sys2Proof.Machine
end

section
/-! One-second windows, slot boundaries and the link store (R136, R203, R223, R226), for `Obligations.BudgetsWindowsAndLinks`. -/

namespace Sys2Proof.Machine

/-! ### ONE_SECOND_WINDOW -/

/-- GCN reads the 64 bits of GT. -/
theorem gcn_mod (g : Nat) : gcn (g % 2 ^ 64) = gcn g := by
  unfold gcn cycleUnits
  omega

theorem State.secondNow_at (s : State) (t : Time) : (s.at t).secondNow = gcn t.gt / (s.nomFreq / 1000) :=
  congrArg (· / (s.nomFreq / 1000)) (gcn_mod t.gt)

theorem State.whenLive_on {s act : State} {d : Nat} (h : s.live d = true) : s.whenLive d act = act := if_pos h

theorem State.whenLive_off {s act : State} {d : Nat} (h : s.live d = false) : s.whenLive d act = s := if_neg (ne_true_of_eq_false h)

section

variable {s : State} {t : Time}

theorem oneSecondWindow_off (hl : s.live 1 = false) : exec (.oneSecondWindow t) s = .next s :=
  congrArg Host.Outcome.next (State.whenLive_off hl)

theorem oneSecondWindow_live (hl : s.live 1 = true) :
    exec (.oneSecondWindow t) s = .next (if gcn t.gt / (s.nomFreq / 1000) = s.gtb.second then s.at t
      else { s.at t with gtb := { (s.at t).gtb with second := gcn t.gt / (s.nomFreq / 1000) } }.windowRx.windowMac.windowNet) := by
  change execOneSecondWindow t s = _
  unfold execOneSecondWindow
  dsimp only
  rw [State.whenLive_on hl, State.secondNow_at]
  rfl

theorem oneSecondWindow_same (hl : s.live 1 = true) (h : gcn t.gt / (s.nomFreq / 1000) = s.gtb.second) :
    exec (.oneSecondWindow t) s = .next (s.at t) :=
  (oneSecondWindow_live hl).trans (congrArg Host.Outcome.next (if_pos h))

theorem oneSecondWindow_restarts (hl : s.live 1 = true) (h : gcn t.gt / (s.nomFreq / 1000) ≠ s.gtb.second) :
    exec (.oneSecondWindow t) s = .next
      { s.at t with gtb := { (s.at t).gtb with second := gcn t.gt / (s.nomFreq / 1000) } }.windowRx.windowMac.windowNet :=
  (oneSecondWindow_live hl).trans (congrArg Host.Outcome.next (if_neg h))

end

/-! ### QMG leaves MSQ alone (chapter 12) -/

theorem State.activate_msq (s : State) (st : Staged) : (s.activate st).msq = s.msq := by
  unfold State.activate
  dsimp only
  rw [State.setFld_msq, State.setFld_msq, State.unstage_msq]
  exact List.foldlRecOn (motive := fun u : State => u.msq = s.msq) _ _ rfl fun u hu r _ => hu

/-- QMG's shares take effect with nothing that follows (R247). -/
theorem State.afterCommit_qmg (s old : State) {st : Staged} (h : st.unit = 10) : s.afterCommit old st = s := by
  unfold State.afterCommit
  simp [h]

theorem State.commitAt_qmg_msq (s : State) (g : Nat) : (s.commitAt 10 g).msq = s.msq := by
  cases hf : s.staged.find? (fun x => x.unit == 10 && x.grp == g) with
  | none => rw [State.commitAt_none hf]
  | some st =>
    have hunit : st.unit = 10 := by
      have := List.find?_some hf
      simp only [Bool.and_eq_true, beq_iff_eq] at this
      exact this.1
    cases hok : s.commitOk st with
    | true => rw [State.commitAt_activates hf hok, State.afterCommit_qmg _ _ hunit, State.activate_msq]
    | false =>
      obtain ⟨v, hv, hcommit, -, -⟩ := State.commitAt_rejects hf hok
      rw [hcommit, State.fire_msq, hv, State.setFld_msq, State.unstage_msq]

theorem State.qmgSettle_msq (s : State) : s.qmgSettle.msq = s.msq := by
  unfold State.qmgSettle
  dsimp only
  rw [State.fireIf_msq, State.fireIf_msq]

theorem State.bankTurn_msq (s : State) (q : Nat) : (s.bankTurn q).msq = s.msq := by
  unfold State.bankTurn
  split
  · rfl
  · rfl

theorem State.wmEval_msq (s : State) (q : Nat) : (s.wmEval q).msq = s.msq := by
  unfold State.wmEval
  dsimp only
  rw [State.qmgSettle_msq, State.bankTurn_msq, State.fireIf_msq]
  rfl

theorem State.unqueue_msq (s : State) (start : Nat) (p : Pkt) : (s.unqueue start p).msq = s.msq := by
  unfold State.unqueue
  split
  · rfl
  · exact State.wmEval_msq _ _

theorem State.endPkt_msq (s : State) (start : Nat) (e : PktEnd) : (s.endPkt start e).msq = s.msq := by
  unfold State.endPkt
  split
  · rfl
  · rename_i p _
    dsimp only
    rw [State.qmgSettle_msq]
    cases e with
    | deliv => exact s.unqueue_msq start p
    | tx => exact s.unqueue_msq start p
    | drop r =>
      dsimp only
      rw [State.fireIf_msq, State.fireIf_msq]
      exact s.unqueue_msq start p

theorem State.ageHead_msq (s : State) (q n : Nat) : (s.ageHead q n).msq = s.msq := by
  induction n generalizing s with
  | zero => rfl
  | succ n ih =>
    unfold State.ageHead
    split
    · rfl
    · split
      · rfl
      · dsimp only
        split
        · rw [ih, State.fire_msq, State.endPkt_msq]
        · rfl

theorem State.refusePush_msq (s : State) (q : Nat) : (s.refusePush q).msq = s.msq := by
  have hovf : (s.flagOvf q).msq = s.msq := by
    unfold State.flagOvf
    split
    · exact State.setFlag_msq _ _ _
    · rfl
  unfold State.refusePush
  rw [State.fire_msq, State.bump_msq, hovf]

theorem State.ageNow_msq (s : State) (q : Nat) : (s.ageNow q).msq = s.msq := s.ageHead_msq q _

theorem State.placePkt_msq (s : State) (q start : Nat) : (s.placePkt q start).2.msq = s.msq := by
  unfold State.placePkt
  split
  · rfl
  · dsimp only
    split
    · exact s.refusePush_msq q
    · have hage : ∀ (c : Prop) [Decidable c] (u : State), (if c then u.ageNow q else u).msq = u.msq := fun c _ u => by
        split
        · exact u.ageNow_msq q
        · rfl
      have hwm : ∀ (u : State) (x : Bool), u.msq = s.msq → ((u.wmEval q).fireIf x 141).msq = s.msq := fun u x hu => by
        rw [State.fireIf_msq, State.wmEval_msq, hu]
      exact (hage _ _).trans (hwm _ _ rfl)

theorem State.pushPkt_msq (s : State) (q : Nat) (h : Holder) (start : Nat) : (s.pushPkt q h start).msq = s.msq := by
  unfold State.pushPkt
  dsimp only
  split
  · rfl
  · split
    · exact s.placePkt_msq q start
    · rw [State.endPkt_msq, State.placePkt_msq]

theorem State.acceptPkt_msq (s : State) (k n : Nat) (data : List Octet) (h : Holder) (info : PktInfo) :
    (s.acceptPkt k n data h info).2.msq = s.msq := by
  unfold State.acceptPkt
  dsimp only
  split
  · rfl
  · split
    · dsimp only
      rw [State.qmgSettle_msq]
      exact s.commitAt_qmg_msq 0
    · dsimp only
      rw [State.fireIf_msq]
      exact s.commitAt_qmg_msq 0

theorem State.sendCells_msq (s : State) (node id : Nat) : (s.sendCells node id).msq = s.msq := by
  have hput : ∀ {k n : Nat} {d : List Octet} {h : Holder} {i : PktInfo} {r : Option Nat × State},
      s.acceptPkt k n d h i = r → r.2.msq = s.msq := by
    rintro k n d h i r rfl
    exact s.acceptPkt_msq k n d h i
  unfold State.sendCells
  split
  · rfl
  · split
    · rfl
    · dsimp only
      split
      next heq =>
        rw [State.bump_msq, State.pushPkt_msq]
        exact hput heq
      next heq => exact hput heq

/-! ### Patches (R223, R241) -/

theorem State.copyCells_frame (s : State) : s.copyCells = { s with slv := { s.slv with out := s.copyCells.slv.out } } := by
  unfold State.copyCells
  split
  · rfl
  · rfl

theorem State.copyCells_msq (s : State) : s.copyCells.msq = s.msq := by
  rw [State.copyCells_frame]

theorem State.putLink_patches (s : State) (x : Nat × Nat × Nat × Nat) : (s.putLink x).msq.patches = s.msq.patches := by
  unfold State.putLink
  split
  · rfl
  · rfl

/-- A patch that becomes active stages no other. -/
theorem State.applyPatch_patches (s : State) (p : Patch) : (s.applyPatch p).msq.patches = s.msq.patches := by
  unfold State.applyPatch
  dsimp only
  refine List.foldlRecOn (motive := fun u : State => u.msq.patches = s.msq.patches) _ _ ?_
    fun u hu x _ => (congrArg Msq.patches (u.sendCells_msq x.1 x.2)).trans hu
  exact List.foldlRecOn (motive := fun u : State => u.msq.patches = s.msq.patches) _ _ rfl
    fun u hu x _ => (u.putLink_patches x).trans hu

theorem State.applyPatches_none (s : State) (h : s.msq.patches = []) : s.applyPatches = s := by
  have hs : ({ s with msq := { s.msq with patches := [] } } : State) = s := by
    rw [← h]
  unfold State.applyPatches
  rw [h]
  exact hs

theorem State.applyPatches_patches (s : State) : s.applyPatches.msq.patches = s.msq.patches.drop 16 := by
  have hfold : ((s.msq.patches.take 16).foldl (fun (u : State) p => u.applyPatch p)
      { s with msq := { s.msq with patches := s.msq.patches.drop 16 } }).msq.patches = s.msq.patches.drop 16 :=
    List.foldlRecOn (motive := fun u : State => u.msq.patches = s.msq.patches.drop 16) _ _ rfl
      fun u hu p _ => (u.applyPatch_patches p).trans hu
  unfold State.applyPatches
  dsimp only
  split
  · exact hfold
  · rw [State.fire_msq, State.copyCells_msq]
    exact hfold

/-- The store under a lone patch that changes no link and sends no CELLS frame. -/
def State.patched (s : State) (p : Patch) : State := { s with msq := { s.msq with patches := [], cells := p.cells s.msq.cells } }

theorem State.applyPatches_one {s : State} {p : Patch} (h : s.msq.patches = [p]) (hl : p.links = []) (hs : p.send = []) :
    s.applyPatches = (s.patched p).copyCells.fire 108 := by
  unfold State.applyPatches State.patched
  rw [h]
  change (State.applyPatch _ p).copyCells.fire 108 = _
  unfold State.applyPatch
  rw [hl, hs]
  rfl

theorem State.applyPatches_one_result {s : State} {p : Patch} (h : s.msq.patches = [p]) (hl : p.links = []) (hs : p.send = []) :
    s.applyPatches.msq = { s.msq with
      patches := [], cells := s.msq.cells.filter (fun c => !p.del.contains c) ++ p.add } ∧
    (s.sysOn → s.applyPatches.isPend 108 = true) ∧ s.regsEvt s.applyPatches [] ∧
    s.applyPatches = { s with
      regs := s.applyPatches.regs, evt := s.applyPatches.evt, msq := s.applyPatches.msq,
      slv := { s.slv with out := s.applyPatches.slv.out } } := by
  rw [State.applyPatches_one h hl hs]
  refine ⟨?_, fun hsys => State.isPend_fire _ 108 ?_, State.regsEvt_fire 108 ?_ (by decide), ?_⟩
  · rw [State.fire_msq, State.copyCells_msq]
    rfl
  · rw [State.copyCells_frame]
    exact hsys
  · rw [State.copyCells_frame]
    exact State.regsEvt_mk State.regsEvt_refl
  · rw [State.fire_frame, State.copyCells_frame]
    rfl

/-! ### SLOT_BOUNDARY -/

theorem State.announce_frame (s : State) : s.announce = { s with
    regs := s.announce.regs, evt := s.announce.evt, msq := { s.msq with annStep := s.stepAnnounced } } := by
  unfold State.announce
  dsimp only
  rw [State.fireIf_frame]

theorem State.regsEvt_announce (s : State) : s.regsEvt s.announce [] :=
  State.regsEvt_mk (State.regsEvt_fireIf _ 101 State.regsEvt_refl (by decide))

/-- A step that is first announced fires source 101 (R203). -/
theorem State.isPend_announce {s : State} (hs : s.sysOn) (hstep : s.stepAnnounced = true) (hnew : s.msq.annStep = false) :
    s.announce.isPend 101 = true := by
  refine (State.isPend_congr (s := s.fireIf (s.stepAnnounced && !s.msq.annStep) 101) rfl 101).trans ?_
  rw [hstep, hnew]
  exact State.isPend_fire s 101 hs

theorem State.commitAt_unstaged {s : State} (h : s.staged = []) (u g : Nat) : s.commitAt u g = s :=
  State.commitAt_none (by rw [h]; rfl)

theorem State.slotCommits_unstaged {s : State} (h : s.staged = []) : s.slotCommits = s := by
  have hall : (List.range 8).foldl (fun u g => State.commitAt u 4 g) s = s :=
    List.foldlRecOn (motive := fun u : State => u = s) _ _ rfl fun u hu g _ => hu ▸ State.commitAt_unstaged (hu ▸ h) 4 g
  unfold State.slotCommits
  simp only [State.commitAt_unstaged h, hall, ite_self]

section

variable {s : State} {t : Time}

theorem slotBoundary_off (hl : s.live 1 = false) : exec (.slotBoundary t) s = .next s :=
  congrArg Host.Outcome.next (State.whenLive_off hl)

/-- The occurrences of cells in the slot that begins are checked (R203), source 107 for those that are skipped. -/
def State.skipCells (s : State) : State :=
  s.fireIf (s.level != 0 && s.allCells.any (fun c => s.cellAt c s.ec && s.badCell c)) 107

theorem slotBoundary_live (hl : s.live 1 = true) (hm : s.modeDue = none) :
    exec (.slotBoundary t) s = .next (let u := ((s.at t).slotCommits.announce).applyPatches
      (u.pruneSets u.ec).skipCells) := by
  have hm' : (s.at t).modeDue = none := hm
  change execSlotBoundary t s = _
  unfold execSlotBoundary
  dsimp only
  rw [State.whenLive_on hl, hm']
  rfl

/-- With nothing staged, no patch, no node and no service, a boundary notes an announced step only. -/
theorem slotBoundary_quiet (hl : s.live 1 = true) (hst : s.staged = []) (hp : s.msq.patches = []) (hn : s.slv.nodes = [])
    (hlev : s.level = 0) (hm : s.modeDue = none) : exec (.slotBoundary t) s = .next (s.at t).announce := by
  have hframe := (s.at t).announce_frame
  have hregs := (s.at t).regsEvt_announce
  rw [slotBoundary_live hl hm, State.slotCommits_unstaged (s := s.at t) hst]
  generalize (s.at t).announce = v at hframe hregs ⊢
  have hpatches : v.msq.patches = [] := (congrArg (fun u : State => u.msq.patches) hframe).trans hp
  have hnodes : v.slv.nodes = [] := (congrArg (fun u : State => u.slv.nodes) hframe).trans hn
  have hlevel : v.level = 0 := (congrArg F.CHIP_START_LEVEL.ext (hregs _ (by simp) (by decide))).trans hlev
  dsimp only
  rw [State.applyPatches_none v hpatches]
  unfold State.pruneSets State.skipCells
  rw [hnodes]
  dsimp only [List.foldl_nil]
  rw [hlevel]
  rfl

end

/-! ### The link store (R225, R226) -/

section

variable {s : State} {o : Obs} {l : List Obs} {r : LinkRec}

theorem slvObservation_none (h : s.slv.obs = []) : exec .slvObservation s = .next s := by
  change execSlvObservation s = _
  unfold execSlvObservation
  rw [h]

/-- The oldest observation leaves the queue, and is folded where PD_SLV is ready (R226). -/
theorem slvObservation_oldest (h : s.slv.obs = o :: l) :
    exec .slvObservation s = .next (if s.domReady 15 = true then { s with slv := { s.slv with obs := l } }.foldObs o
      else { s with slv := { s.slv with obs := l } }) := by
  change execSlvObservation s = _
  unfold execSlvObservation
  rw [h]

theorem slvObservation_dropped (h : s.slv.obs = o :: l) (hd : s.domReady 15 = false) :
    exec .slvObservation s = .next { s with slv := { s.slv with obs := l } } :=
  (slvObservation_oldest h).trans (congrArg Host.Outcome.next (if_neg (ne_true_of_eq_false hd)))

theorem slvObservation_folded (h : s.slv.obs = o :: l) (hd : s.domReady 15 = true) :
    exec .slvObservation s = .next ({ s with slv := { s.slv with obs := l } }.foldObs o) :=
  (slvObservation_oldest h).trans (congrArg Host.Outcome.next (if_pos hd))

/-- An observation of a link that has a record is folded into it, unless firmware owns it (R225). -/
theorem State.foldObs_found (hf : s.slv.links.find (linkKey o.node s.ownEp o.cls) = some r) :
    s.foldObs o = if r.src = 0 then s.setLink (linkKey o.node s.ownEp o.cls) (r.observe o) else s := by
  unfold State.foldObs
  dsimp only
  rw [hf]

theorem State.foldObs_own (hf : s.slv.links.find (linkKey o.node s.ownEp o.cls) = some r) (hr : r.src = 0) :
    s.foldObs o = s.setLink (linkKey o.node s.ownEp o.cls) (r.observe o) :=
  (State.foldObs_found hf).trans (if_pos hr)

theorem State.foldObs_firmware (hf : s.slv.links.find (linkKey o.node s.ownEp o.cls) = some r) (hr : r.src ≠ 0) : s.foldObs o = s :=
  (State.foldObs_found hf).trans (if_neg hr)

theorem State.foldObs_new (hf : s.slv.links.find (linkKey o.node s.ownEp o.cls) = none) (hroom : s.slv.links.length < 1048576) :
    s.foldObs o = (s.setLink (linkKey o.node s.ownEp o.cls) (s.newLink o)).nextFree := by
  have hadd : s.addLink (linkKey o.node s.ownEp o.cls) (s.newLink o) = s.setLink (linkKey o.node s.ownEp o.cls) (s.newLink o) := by
    unfold State.addLink
    exact if_pos (by rw [hf, Nat.blt_eq.mpr hroom, Bool.or_true])
  unfold State.foldObs
  dsimp only
  rw [hf]
  exact congrArg State.nextFree hadd

variable {t : Time} {key : Nat}

/-- A record that is not static and was not heard for LINKAGE hours loses VALID (R226). -/
theorem linkRecordAge_found (hf : s.slv.links.find key = some r) :
    exec (.linkRecordAge t key) s = .next
      (if r.src ≠ 2 ∧ s.actFld F.SLV_POL2_LINKAGE * 3600 * (s.nomFreq / 1000) ≤ r.age (gcn t.gt) then
        (s.at t).setLink key { r with valid := false } else s.at t) := by
  change execLinkRecordAge t key s = _
  unfold execLinkRecordAge
  rw [hf]

theorem linkRecordAge_aged (hf : s.slv.links.find key = some r) (hsrc : r.src ≠ 2)
    (hage : s.actFld F.SLV_POL2_LINKAGE * 3600 * (s.nomFreq / 1000) ≤ r.age (gcn t.gt)) :
    exec (.linkRecordAge t key) s = .next ((s.at t).setLink key { r with valid := false }) :=
  (linkRecordAge_found hf).trans (congrArg Host.Outcome.next (if_pos ⟨hsrc, hage⟩))

theorem linkRecordAge_keeps (h : (s.slv.links.find key).all (fun r => r.src == 2 ||
    Nat.blt (r.age (gcn t.gt)) (s.actFld F.SLV_POL2_LINKAGE * 3600 * (s.nomFreq / 1000))) = true) :
    exec (.linkRecordAge t key) s = .next (s.at t) := by
  cases hf : s.slv.links.find key with
  | none =>
    change execLinkRecordAge t key s = _
    unfold execLinkRecordAge
    rw [hf]
  | some r =>
    rw [hf, Option.all_some, Bool.or_eq_true, beq_iff_eq, Nat.blt_eq] at h
    rw [linkRecordAge_found hf, if_neg]
    rintro ⟨hsrc, hage⟩
    rcases h with h | h
    · exact hsrc h
    · exact absurd hage (Nat.not_le.mpr h)

end

/-- Settles O41: each clause is the lemma of its command, of a charge, of the patches that become active, or of a fold into the link
store. -/
theorem budgetsWindowsAndLinks : Obligations.BudgetsWindowsAndLinks := by
  refine ⟨fun s t id chips kind => bgtCharge_no_stream, fun s t id chips n kind x => bgtCharge_unassessed,
    fun s t id chips n w th kind x => bgtCharge_assessed, fun s id f sp start dur rate kind r => State.charge_refused_result,
    fun s id f sp start dur rate kind => State.charge_granted_result, ?_,
    fun s t hl => ⟨oneSecondWindow_off hl, slotBoundary_off hl⟩, fun s t => oneSecondWindow_same,
    fun s t hl h => ⟨_, oneSecondWindow_restarts hl h, rfl⟩, ?_, fun s t => slotBoundary_live,
    fun s p => State.applyPatches_one_result, State.applyPatches_patches, ?_, ?_, ?_,
    fun s t key r hf hsrc hage => ⟨_, linkRecordAge_aged hf hsrc hage, rfl⟩, fun s => slvObservation_none,
    fun s o l => slvObservation_dropped, fun s o l => slvObservation_folded, fun s t key => linkRecordAge_keeps⟩
  · intro s t
    exact ⟨_, bucketAdvance_drops s t, s.advancedAccts_keys t, s.advancedAccts_within t, rfl⟩
  · intro s t hl hst hp hn hlev hm
    refine ⟨_, slotBoundary_quiet hl hst hp hn hlev hm, ?_, fun hs hstep hnew => State.isPend_announce hs hstep hnew,
      (s.at t).regsEvt_announce, ?_⟩
    · rw [State.announce_frame]
      rfl
    · rw [State.announce_frame]
  · intro s o l r h hd hf hr
    exact ⟨_, (slvObservation_folded h hd).trans (congrArg Host.Outcome.next (State.foldObs_own hf hr)), rfl⟩
  · intro s o l r h hd hf hr
    exact ⟨_, (slvObservation_folded h hd).trans (congrArg Host.Outcome.next (State.foldObs_firmware hf hr)), rfl⟩
  · intro s o l h hd hf hroom
    exact ⟨_, (slvObservation_folded h hd).trans (congrArg Host.Outcome.next (State.foldObs_new hf hroom)), rfl⟩

end Sys2Proof.Machine
end
section
/-! What the register file reads as where `State.regsEvt` says which registers may have changed, and where a state changes in
regs alone. -/

namespace Sys2Proof.Machine

/-- A counter has 48 bits (R57). -/
theorem State.ctr_lt (s : State) (c : Nat) : s.ctr c < 2 ^ 48 := by
  have hlo : (s.reg c).toNat < 2 ^ 32 := (s.reg c).isLt
  have hhi : (s.reg (c + 4)).toNat % 2 ^ 16 < 2 ^ 16 := Nat.mod_lt _ (by decide)
  unfold State.ctr
  omega

section

variable {s u v : State} {l l' : List Nat}

theorem State.fld_of_regsEvt (h : s.regsEvt u l) {f : Field} (hf : f.reg ∉ l) (hp : isPendReg f.reg = false) : u.fld f = s.fld f :=
  congrArg f.ext (h f.reg hf hp)

theorem State.on_of_regsEvt (h : s.regsEvt u l) {f : Field} (hf : f.reg ∉ l) (hp : isPendReg f.reg = false) : u.on f = s.on f := by
  unfold State.on
  rw [State.fld_of_regsEvt h hf hp]

theorem State.regsEvt_trans (h : s.regsEvt u l) (h' : u.regsEvt v l) : s.regsEvt v l := fun a ha hp =>
  (h' a ha hp).trans (h a ha hp)

theorem State.regsEvt_mono (h : s.regsEvt u l) (hl : l ⊆ l') : s.regsEvt u l' := fun a ha hp => h a (fun m => ha (hl m)) hp

end

end Sys2Proof.Machine
end

section
/-! Detections of DMX (R138 to R141, R148 to R151), for `Obligations.DmxDetections`. -/

namespace Sys2Proof.Machine

/-! ### What a hunter reports -/

section

variable {s : State} {t : Time} {h lh timing pref : Nat} {excess : Int} {meas : Meas}

/-- A hunter reports a native detection exactly where all of R138 and R152 holds. -/
theorem State.hearsNative_iff : s.hearsNative h lh excess meas = true ↔ s.hunting h = true ∧
    s.on (F.RFPn_SLk_PHY (s.hunterSlice h / 128) (s.hunterSlice h % 128)) = false ∧
    bit (s.fld (F.DMX_GgHk_LHMASK (h / 64) (h % 64))) lh = true ∧ (s.actFld (F.DMX_GgTHR_THR (h / 64)) : Int) < excess ∧
    meas.fofs.natAbs ≤ 2500 ∧ (s.level ≠ 1 ∨ 4 ≤ lh) := by
  simp only [State.hearsNative, Bool.and_eq_true, Bool.or_eq_true, Bool.not_eq_true', decide_eq_true_eq, bne_iff_ne, Nat.ble_eq]

/-- A hunter reports a detection of 802.15.4 exactly where all of R139 holds. -/
theorem State.hearsI3_iff : s.hearsI3 h excess meas = true ↔ s.hunting h = true ∧
    s.on (F.RFPn_SLk_PHY (s.hunterSlice h / 128) (s.hunterSlice h % 128)) = true ∧
    (s.actFld (F.DMX_GgTHR_THR (h / 64)) : Int) < excess ∧
    meas.fofs.natAbs * (s.sliceCentre (s.hunterSlice h / 128) (s.hunterSlice h % 128)).natAbs ≤ 100 * 10 ^ 8 := by
  simp only [State.hearsI3, Bool.and_eq_true, decide_eq_true_eq]

theorem State.hearsNative_eq_false (hno : s.hunting h = false ∨
    s.on (F.RFPn_SLk_PHY (s.hunterSlice h / 128) (s.hunterSlice h % 128)) = true ∨
    bit (s.fld (F.DMX_GgHk_LHMASK (h / 64) (h % 64))) lh = false ∨ excess ≤ (s.actFld (F.DMX_GgTHR_THR (h / 64)) : Int) ∨
    2500 < meas.fofs.natAbs ∨ (s.level = 1 ∧ lh < 4)) : s.hearsNative h lh excess meas = false := by
  rw [← Bool.not_eq_true, State.hearsNative_iff]
  rintro ⟨hhunt, hphy, hmask, hthr, hofs, hlev⟩
  rcases hno with h0 | h0 | h0 | h0 | h0 | ⟨h1, h4⟩
  · exact absurd hhunt (ne_true_of_eq_false h0)
  · exact absurd h0 (ne_true_of_eq_false hphy)
  · exact absurd hmask (ne_true_of_eq_false h0)
  · omega
  · omega
  · rcases hlev with hlev | hlev
    · exact hlev h1
    · omega

/-- What PREAMBLE_DETECT brings to `State.detect`. -/
def State.nativeRetro (s : State) (t : Time) (h lh timing : Nat) (meas : Meas) : Retro :=
  { hunter := h, slice := s.hunterSlice h, phy := false, lh := lh, timing := timing, detGt := t.gt, detFt := t.ft, meas := meas,
    search := none }

/-- What I3_SHR_DETECT brings to `State.detect`. -/
def State.i3Retro (s : State) (t : Time) (h timing : Nat) (meas : Meas) : Retro :=
  { hunter := h, slice := s.hunterSlice h, phy := true, lh := 1, timing := timing, detGt := t.gt, detFt := t.ft, meas := meas,
    search := none }

theorem preambleDetect_unheard (hh : s.hearsNative h lh excess meas = false) :
    exec (.preambleDetect t h lh timing excess meas pref) s = .next (s.at t) := by
  have hcond : (!s.hearsNative h lh excess meas) = true := by rw [hh]; rfl
  exact congrArg Host.Outcome.next (if_pos hcond)

theorem preambleDetect_heard (hh : s.hearsNative h lh excess meas = true) :
    exec (.preambleDetect t h lh timing excess meas pref) s = .next (
      if s.ownPreamble (s.hunterSlice h) timing lh then (s.at t).markCarrier (s.hunterSlice h)
      else ((s.at t).markCarrier (s.hunterSlice h)).detect h (s.nativeRetro t h lh timing meas) pref) := by
  have hcond : ¬ (!s.hearsNative h lh excess meas) = true := by rw [hh]; decide
  exact congrArg Host.Outcome.next (if_neg hcond)

theorem i3ShrDetect_unheard (hh : s.hearsI3 h excess meas = false) :
    exec (.i3ShrDetect t h timing excess meas pref) s = .next (s.at t) := by
  have hcond : (!s.hearsI3 h excess meas) = true := by rw [hh]; rfl
  exact congrArg Host.Outcome.next (if_pos hcond)

theorem i3ShrDetect_heard (hh : s.hearsI3 h excess meas = true) :
    exec (.i3ShrDetect t h timing excess meas pref) s = .next (
      if s.ownPreamble (s.hunterSlice h) timing 1 then (s.at t).markCarrier (s.hunterSlice h)
      else ((s.at t).markCarrier (s.hunterSlice h)).detect h (s.i3Retro t h timing meas) pref) := by
  have hcond : ¬ (!s.hearsI3 h excess meas) = true := by rw [hh]; decide
  exact congrArg Host.Outcome.next (if_neg hcond)

end

/-! ### A lane takes a frame -/

/-- What a lane that takes a frame reads of the registers: the links of its slice's ports, the pairing, the thresholds. -/
theorem State.newLane_congr {s u : State} (hlink : ∀ n, u.link n = s.link n) (hpair : ∀ n, u.partner n = s.partner n)
    (hthr : u.reg Reg.DMX_THR = s.reg Reg.DMX_THR) (h : Nat) (r : Retro) (retro : Bool) (delay : Nat) :
    u.newLane h r retro delay = s.newLane h r retro delay := by
  unfold State.newLane
  rw [hpair, hlink, hthr]
  cases s.partner (r.slice / 128) with
  | none => rfl
  | some m => simp only [hlink]

/-- What holds of the lanes while lane `l` takes the frame `x` (R109, R150). -/
def State.laneTaken (s : State) (l : Nat) (x : Lane) (b : Bool) : State :=
  let u := ({ s with dmx := { s.dmx with lanes := s.dmx.lanes.put l x } } : State).slStat x.slice
    (fun z => if z.since.isSome then z else { z with since := some s.gtb.ft })
  if b then u.bump Ctr.DMX_BORROW else u

theorem State.holdLane_eq (s : State) (l : Nat) (x : Lane) (b : Bool) :
    s.holdLane l x b = (s.laneTaken l x b).fireIf ((s.laneTaken l x b).freeCount == 0) 64 := rfl

theorem State.laneTaken_result (s : State) (l : Nat) (x : Lane) (b : Bool) :
    (s.laneTaken l x b).dmx.lanes = s.dmx.lanes.put l x ∧ (s.laneTaken l x b).dmx.retro = s.dmx.retro ∧
      (s.laneTaken l x b).ctr Ctr.DMX_BORROW = (s.ctr Ctr.DMX_BORROW + b2n b) % 2 ^ 48 ∧
      s.regsBut (s.laneTaken l x b) (halves Ctr.DMX_BORROW) ∧
      s.laneTaken l x b = { s with regs := (s.laneTaken l x b).regs, dmx := (s.laneTaken l x b).dmx } := by
  cases b with
  | false => exact ⟨rfl, rfl, (Nat.mod_eq_of_lt (s.ctr_lt _)).symm, State.regsBut_refl, rfl⟩
  | true => exact ⟨rfl, rfl, State.ctr_bump_same _ _ 1, State.regsBut_bump _ _ State.regsBut_refl (by decide) (by decide), rfl⟩

theorem State.holdLane_result (s : State) (l : Nat) (x : Lane) (b : Bool) :
    (s.holdLane l x b).dmx.lanes = s.dmx.lanes.put l x ∧ (s.holdLane l x b).dmx.retro = s.dmx.retro ∧
      (s.holdLane l x b).ctr Ctr.DMX_BORROW = (s.ctr Ctr.DMX_BORROW + b2n b) % 2 ^ 48 ∧
      s.regsEvt (s.holdLane l x b) (halves Ctr.DMX_BORROW) ∧
      s.holdLane l x b = { s with
        regs := (s.holdLane l x b).regs, evt := (s.holdLane l x b).evt, dmx := (s.holdLane l x b).dmx } := by
  obtain ⟨hlanes, hretro, hborrow, hregs, hframe⟩ := s.laneTaken_result l x b
  rw [State.holdLane_eq]
  generalize ((s.laneTaken l x b).freeCount == 0) = full
  refine ⟨?_, ?_, ?_, State.regsEvt_fireIf _ 64 (State.regsEvt_of_but hregs) (by decide), ?_⟩
  · rw [State.fireIf_dmx, hlanes]
  · rw [State.fireIf_dmx, hretro]
  · rw [State.ctr_fireIf_ne _ _ _ _ (by decide) (by decide) (by decide), hborrow]
  · rw [State.fireIf_frame, hframe]

/-! ### An accepted detection -/

/-- A detection on slice `g` is counted, and in the slice's statistics (R157). -/
def State.detected (s : State) (g : Nat) : State := (s.bump Ctr.DMX_DET).slStat g (fun z => { z with dets := z.dets + 1 })

theorem State.regsBut_detected (s : State) (g : Nat) : s.regsBut (s.detected g) (halves Ctr.DMX_DET) :=
  State.regsBut_mk (State.regsBut_bump _ _ State.regsBut_refl (by decide) (by decide))

theorem State.ctr_detected (s : State) (g : Nat) : (s.detected g).ctr Ctr.DMX_DET = (s.ctr Ctr.DMX_DET + 1) % 2 ^ 48 :=
  State.ctr_bump_same s _ 1

/-- A lane holds a frame on slice `g` (R140). -/
def State.held (s : State) (g : Nat) : Bool := s.dmx.lanes.any (fun e => e.2.slice == g)

/-- The held frames of slice `g` and a new one overlap, where there are any (R140). -/
def State.secondIfHeld (s : State) (g : Nat) : State := if s.held g then s.markSecond g else s

theorem State.secondIfHeld_frame (s : State) (g : Nat) :
    s.secondIfHeld g = { s with dmx := { s.dmx with lanes := (s.secondIfHeld g).dmx.lanes } } := by
  unfold State.secondIfHeld
  split
  · rfl
  · rfl

theorem State.ctr_secondIfHeld (s : State) (g c : Nat) : (s.secondIfHeld g).ctr c = s.ctr c := by
  rw [State.secondIfHeld_frame]
  exact State.ctr_mk _ c

theorem State.lanes_secondIfHeld (s : State) (g : Nat) : (s.secondIfHeld g).dmx.lanes =
    if s.held g then s.dmx.lanes.mapv (fun _ x => if x.slice = g then { x with ovl := x.ovl / 2 * 2 + 1 } else x) else s.dmx.lanes := by
  unfold State.secondIfHeld
  split
  · rfl
  · rfl

theorem State.newLane_detected (s : State) (g h : Nat) (r : Retro) : (s.detected g).newLane h r false 0 = s.newLane h r false 0 := by
  have hregs := s.regsBut_detected g
  refine State.newLane_congr (fun n => ?_) (fun n => ?_) (hregs _ (by decide)) h r false 0
  · refine State.fld_of_regsEvt (State.regsEvt_of_but hregs) ?_ (isPendReg_LSTAT n)
    simp only [F.RFPn_LSTAT_STATE, Reg.RFPn_LSTAT, halves, Ctr.DMX_DET, List.mem_cons, List.not_mem_nil, or_false, not_or]
    omega
  · have hpair : ∀ f : Field, f.reg = Reg.RFP_PAIR → (s.detected g).on f = s.on f := fun f hf =>
      State.on_of_regsEvt (State.regsEvt_of_but hregs) (by rw [hf]; decide) (by rw [hf]; decide)
    unfold State.partner
    rw [hpair _ rfl, hpair _ rfl]

section

variable {s : State} {h pref : Nat} {r : Retro}

/-- A detection that has a lane claims it (R140, R141). -/
theorem State.detect_claims {l : Nat} {b : Bool}
    (hp : s.pickLane (s.rivalLanes { gt := r.detGt, ft := r.detFt } (some r.slice)) (h / 64) pref false = some (l, b)) :
    s.detect h r pref =
      ((s.detected r.slice).secondIfHeld r.slice).holdLane l { s.newLane h r false 0 with ovl := b2n (s.held r.slice) } b := by
  rw [← s.newLane_detected r.slice]
  unfold State.detect State.secondIfHeld
  rw [hp]
  dsimp only
  change (if s.held r.slice = true then _ else _) = State.holdLane (if s.held r.slice = true then _ else _) _ _ _
  cases s.held r.slice with
  | false => rfl
  | true => rfl

/-- A detection that finds no lane is counted in NOLANE too (R148). -/
theorem State.detect_unclaimed
    (hp : s.pickLane (s.rivalLanes { gt := r.detGt, ft := r.detFt } (some r.slice)) (h / 64) pref false = none) :
    s.detect h r pref =
      if s.on F.DMX_CFG_RETRO && s.on F.MEM_STATUS_TRAINED then
        if s.dmx.retro.length < 64 then
          { ((s.detected r.slice).bump Ctr.DMX_NOLANE).secondIfHeld r.slice with
            dmx := { (((s.detected r.slice).bump Ctr.DMX_NOLANE).secondIfHeld r.slice).dmx with
              retro := s.dmx.retro ++ [{ r with second := s.held r.slice }] } }
        else (((s.detected r.slice).bump Ctr.DMX_NOLANE).bump Ctr.DMX_RETROOVF).fire 65
      else (s.detected r.slice).bump Ctr.DMX_NOLANE := by
  unfold State.detect
  rw [hp]
  dsimp only
  have hretro : (((s.detected r.slice).bump Ctr.DMX_NOLANE).secondIfHeld r.slice).dmx.retro = s.dmx.retro := by
    rw [State.secondIfHeld_frame]
    rfl
  rw [← hretro]
  rfl

theorem State.nolane_counts (s : State) (g : Nat) :
    ((s.detected g).bump Ctr.DMX_NOLANE).ctr Ctr.DMX_DET = (s.ctr Ctr.DMX_DET + 1) % 2 ^ 48 ∧
      ((s.detected g).bump Ctr.DMX_NOLANE).ctr Ctr.DMX_NOLANE = (s.ctr Ctr.DMX_NOLANE + 1) % 2 ^ 48 := by
  constructor
  · rw [State.ctr_bump_ne _ _ _ _ (by decide) (by decide) (by decide), State.ctr_detected]
  · rw [State.ctr_bump_same]
    exact congrArg (fun n => (n + 1) % 2 ^ 48) (State.ctr_bump_ne s Ctr.DMX_DET 1 Ctr.DMX_NOLANE (by decide) (by decide) (by decide))

theorem State.detect_claims_result {l : Nat} {b : Bool}
    (hp : s.pickLane (s.rivalLanes { gt := r.detGt, ft := r.detFt } (some r.slice)) (h / 64) pref false = some (l, b)) :
    (s.detect h r pref).dmx.lanes = Tab.put
      (if s.dmx.lanes.any (fun e => e.2.slice == r.slice) then
        s.dmx.lanes.mapv (fun _ x => if x.slice = r.slice then { x with ovl := x.ovl / 2 * 2 + 1 } else x) else s.dmx.lanes) l
      { s.newLane h r false 0 with ovl := b2n (s.dmx.lanes.any (fun e => e.2.slice == r.slice)) } ∧
    (s.detect h r pref).dmx.retro = s.dmx.retro ∧ (s.detect h r pref).ctr Ctr.DMX_DET = (s.ctr Ctr.DMX_DET + 1) % 2 ^ 48 ∧
    (s.detect h r pref).ctr Ctr.DMX_BORROW = (s.ctr Ctr.DMX_BORROW + b2n b) % 2 ^ 48 ∧
    s.regsEvt (s.detect h r pref) (halves Ctr.DMX_DET ++ halves Ctr.DMX_BORROW) ∧
    s.detect h r pref = { s with
      regs := (s.detect h r pref).regs, evt := (s.detect h r pref).evt, dmx := (s.detect h r pref).dmx } := by
  rw [State.detect_claims hp]
  have hsecond := (s.detected r.slice).secondIfHeld_frame r.slice
  have hlanes := (s.detected r.slice).lanes_secondIfHeld r.slice
  have hregs : s.regsBut ((s.detected r.slice).secondIfHeld r.slice) (halves Ctr.DMX_DET) := by
    rw [hsecond]
    exact State.regsBut_mk (s.regsBut_detected r.slice)
  have hctr : ∀ c, ((s.detected r.slice).secondIfHeld r.slice).ctr c = (s.detected r.slice).ctr c :=
    (s.detected r.slice).ctr_secondIfHeld r.slice
  generalize (s.detected r.slice).secondIfHeld r.slice = u at *
  obtain ⟨htaken, hretro, hborrow, htregs, hframe⟩ :=
    u.holdLane_result l { s.newLane h r false 0 with ovl := b2n (s.held r.slice) } b
  refine ⟨?_, ?_, ?_, ?_, ?_, ?_⟩
  · rw [htaken, hlanes]
    rfl
  · rw [hretro, hsecond]
    rfl
  · rw [State.ctr_of_regsEvt htregs (by decide) (by decide) (by decide) (by decide), hctr, State.ctr_detected]
  · rw [hborrow, hctr]
    exact congrArg (fun n => (n + b2n b) % 2 ^ 48) (State.ctr_bump_ne s _ _ _ (by decide) (by decide) (by decide))
  · exact State.regsEvt_trans (State.regsEvt_mono (State.regsEvt_of_but hregs) (List.subset_append_left _ _))
      (State.regsEvt_mono htregs (List.subset_append_right _ _))
  · rw [hframe, hsecond]
    rfl

theorem State.detect_dropped_result
    (hp : s.pickLane (s.rivalLanes { gt := r.detGt, ft := r.detFt } (some r.slice)) (h / 64) pref false = none)
    (hno : s.on F.DMX_CFG_RETRO = false ∨ s.on F.MEM_STATUS_TRAINED = false) :
    (s.detect h r pref).dmx.lanes = s.dmx.lanes ∧ (s.detect h r pref).dmx.retro = s.dmx.retro ∧
      (s.detect h r pref).ctr Ctr.DMX_DET = (s.ctr Ctr.DMX_DET + 1) % 2 ^ 48 ∧
      (s.detect h r pref).ctr Ctr.DMX_NOLANE = (s.ctr Ctr.DMX_NOLANE + 1) % 2 ^ 48 := by
  have hcond : ¬ (s.on F.DMX_CFG_RETRO && s.on F.MEM_STATUS_TRAINED) = true := by
    rcases hno with h0 | h0
    · simp [h0]
    · simp [h0]
  rw [State.detect_unclaimed hp, if_neg hcond]
  exact ⟨rfl, rfl, s.nolane_counts r.slice⟩

theorem State.detect_queued_result
    (hp : s.pickLane (s.rivalLanes { gt := r.detGt, ft := r.detFt } (some r.slice)) (h / 64) pref false = none)
    (hr : s.on F.DMX_CFG_RETRO = true) (ht : s.on F.MEM_STATUS_TRAINED = true) (hroom : s.dmx.retro.length < 64) :
    (s.detect h r pref).dmx.retro = s.dmx.retro ++ [{ r with second := s.held r.slice }] ∧
      (s.detect h r pref).dmx.lanes = (s.secondIfHeld r.slice).dmx.lanes ∧
      (s.detect h r pref).ctr Ctr.DMX_DET = (s.ctr Ctr.DMX_DET + 1) % 2 ^ 48 ∧
      (s.detect h r pref).ctr Ctr.DMX_NOLANE = (s.ctr Ctr.DMX_NOLANE + 1) % 2 ^ 48 := by
  obtain ⟨hdet, hnolane⟩ := s.nolane_counts r.slice
  rw [State.detect_unclaimed hp, if_pos (by rw [hr, ht]; rfl), if_pos hroom]
  refine ⟨rfl, ?_, ?_, ?_⟩
  · exact (State.lanes_secondIfHeld _ _).trans (s.lanes_secondIfHeld r.slice).symm
  · exact (State.ctr_mk _ _).trans ((State.ctr_secondIfHeld _ _ _).trans hdet)
  · exact (State.ctr_mk _ _).trans ((State.ctr_secondIfHeld _ _ _).trans hnolane)

theorem State.detect_lost_result
    (hp : s.pickLane (s.rivalLanes { gt := r.detGt, ft := r.detFt } (some r.slice)) (h / 64) pref false = none)
    (hr : s.on F.DMX_CFG_RETRO = true) (ht : s.on F.MEM_STATUS_TRAINED = true) (hfull : 64 ≤ s.dmx.retro.length) :
    (s.detect h r pref).dmx.lanes = s.dmx.lanes ∧ (s.detect h r pref).dmx.retro = s.dmx.retro ∧
      (s.detect h r pref).ctr Ctr.DMX_RETROOVF = (s.ctr Ctr.DMX_RETROOVF + 1) % 2 ^ 48 ∧
      (s.sysOn → (s.detect h r pref).isPend 65 = true) := by
  rw [State.detect_unclaimed hp, if_pos (by rw [hr, ht]; rfl), if_neg (Nat.not_lt.mpr hfull)]
  refine ⟨?_, ?_, ?_, fun hs => State.isPend_fire _ 65 hs⟩
  · rw [State.fire_dmx]
    rfl
  · rw [State.fire_dmx]
    rfl
  · rw [State.ctr_fire_ne _ _ _ (by decide) (by decide) (by decide), State.ctr_bump_same,
      State.ctr_bump_ne _ _ _ _ (by decide) (by decide) (by decide)]
    exact congrArg (fun n => (n + 1) % 2 ^ 48) (State.ctr_bump_ne s _ _ _ (by decide) (by decide) (by decide))

end

/-! ### Retro entries -/

/-- A request for a history read changes RFP alone (R108). -/
theorem State.histRequest_frame (s : State) (rd : HistReader) (tag p start count : Nat) :
    s.histRequest rd tag p start count = { s with rfp := (s.histRequest rd tag p start count).rfp } := by
  unfold State.histRequest
  dsimp only
  split
  · split
    · rfl
    · rfl
  · rfl

/-- Two states that are equal but for RFP. -/
theorem State.histRequest_keeps_frame {s u : State} (h : u = { s with rfp := u.rfp }) (rd : HistReader) (tag p start count : Nat) :
    u.histRequest rd tag p start count = { s with rfp := (u.histRequest rd tag p start count).rfp } :=
  (u.histRequest_frame rd tag p start count).trans
    (congrArg (fun v : State => { v with rfp := (u.histRequest rd tag p start count).rfp }) h)

/-- Where the read of a retro entry begins: 4 symbol periods before its detection (R148). -/
def State.retroStart (s : State) (r : Retro) : Nat := gtSub r.detGt (s.symGt r.slice r.lh 4)

/-- A retro entry is older than 60 ms (R149). -/
def State.retroOld (s : State) (t : Time) (r : Retro) : Prop :=
  60000000 < gtToNs (gtDiff t.gt (s.retroStart r)).toNat s.mainsFreq ∧ 0 < gtDiff t.gt (s.retroStart r)

/-- The entry `r` has left the retro queue. -/
def State.retroGone (s : State) (t : Time) (r : Retro) : State :=
  { s.at t with dmx := { s.dmx with retro := s.dmx.retro.erase r } }

/-- Lane `l` holds the frame of the entry `r` in catch-up (R148). -/
def State.retroHeld (s : State) (t : Time) (r : Retro) (l : Nat) (b : Bool) : State :=
  ((s.retroGone t r).holdLane l
    { (s.retroGone t r).newLane r.hunter r true (t.ft - r.detFt) with ovl := b2n r.second } b).bump Ctr.DMX_RETRO

section

variable {s : State} {t : Time} {pref l : Nat} {b : Bool} {r : Retro}

theorem retroEntryTaken_none (hn : s.nextRetro t pref = none) : exec (.retroEntryTaken t pref) s = .next (s.at t) := by
  change execRetroEntryTaken t pref s = _
  unfold execRetroEntryTaken
  rw [hn]

theorem retroEntryTaken_expires (hn : s.nextRetro t pref = some (r, l, b)) (hold : s.retroOld t r) :
    exec (.retroEntryTaken t pref) s = .next (((((s.retroGone t r).slStat r.slice
      (fun z => { z with ovls := z.ovls + b2n r.second })).countOutcome 11)).mirror
        (expiredRecord r l (t.ft - r.detFt) (s.partner (r.slice / 128)).isSome)) := by
  change execRetroEntryTaken t pref s = _
  unfold execRetroEntryTaken
  rw [hn]
  exact congrArg Host.Outcome.next (if_pos hold)

/-- A lane that takes an entry asks for the history of its slice's ports, which changes RFP alone (R148). -/
theorem retroEntryTaken_runs (hn : s.nextRetro t pref = some (r, l, b)) (hnew : ¬ s.retroOld t r) :
    ∃ u, exec (.retroEntryTaken t pref) s = .next u ∧ u = { s.retroHeld t r l b with rfp := u.rfp } := by
  change ∃ u, execRetroEntryTaken t pref s = .next u ∧ _
  unfold execRetroEntryTaken
  rw [hn]
  refine ⟨_, congrArg Host.Outcome.next (if_neg hnew), ?_⟩
  dsimp only
  cases s.partner (r.slice / 128) with
  | none => exact State.histRequest_frame _ _ _ _ _ _
  | some m => exact State.histRequest_keeps_frame (State.histRequest_frame _ _ _ _ _ _) _ _ _ _ _

theorem State.retroHeld_result (s : State) (t : Time) (r : Retro) (l : Nat) (b : Bool) :
    (s.retroHeld t r l b).dmx.retro = s.dmx.retro.erase r ∧
      (s.retroHeld t r l b).ctr Ctr.DMX_RETRO = (s.ctr Ctr.DMX_RETRO + 1) % 2 ^ 48 ∧
      (s.retroHeld t r l b).dmx.lanes.find l = some
        { (s.retroGone t r).newLane r.hunter r true (t.ft - r.detFt) with ovl := b2n r.second } ∧
      s.retroHeld t r l b = { s with
        regs := (s.retroHeld t r l b).regs, evt := (s.retroHeld t r l b).evt, gtb := (s.at t).gtb,
        dmx := (s.retroHeld t r l b).dmx } := by
  obtain ⟨hlanes, hretro, -, hregs, hframe⟩ := (s.retroGone t r).holdLane_result l
    { (s.retroGone t r).newLane r.hunter r true (t.ft - r.detFt) with ovl := b2n r.second } b
  unfold State.retroHeld
  refine ⟨?_, ?_, ?_, ?_⟩
  · rw [State.bump_dmx, hretro]
    rfl
  · rw [State.ctr_bump_same, State.ctr_of_regsEvt hregs (by decide) (by decide) (by decide) (by decide)]
    rfl
  · rw [State.bump_dmx, hlanes, Tab.find_put_same]
  · rw [State.bump_frame, hframe]
    rfl

theorem retroEntryTaken_catches_up (hn : s.nextRetro t pref = some (r, l, b)) (hnew : ¬ s.retroOld t r) :
    ∃ u, exec (.retroEntryTaken t pref) s = .next u ∧ u.dmx.retro = s.dmx.retro.erase r ∧
      u.ctr Ctr.DMX_RETRO = (s.ctr Ctr.DMX_RETRO + 1) % 2 ^ 48 ∧
      (∃ x, u.dmx.lanes.find l = some x ∧ x.retro = true ∧ x.catchup = true ∧ x.state = 1 ∧ x.slice = r.slice ∧
        x.delay = t.ft - r.detFt) ∧
      u = { s with regs := u.regs, evt := u.evt, gtb := (s.at t).gtb, rfp := u.rfp, dmx := u.dmx } := by
  obtain ⟨u, hexec, hu⟩ := retroEntryTaken_runs hn hnew
  obtain ⟨hretro, hctr, hlane, hframe⟩ := s.retroHeld_result t r l b
  have hlanes : u.dmx.lanes = (s.retroHeld t r l b).dmx.lanes := by rw [hu]
  refine ⟨u, hexec, ?_, ?_, ⟨_, (congrArg (fun ls => Tab.find ls l) hlanes).trans hlane, rfl, rfl, rfl, rfl, rfl⟩, ?_⟩
  · rw [hu, ← hretro]
  · rw [hu, State.ctr_mk, hctr]
  · rw [hu]
    exact congrArg (fun v : State => { v with rfp := u.rfp }) hframe

end

/-! ### RETRO_CATCHUP -/

section

variable {s : State} {l : Nat} {x : Lane}

theorem retroCatchup_idle (hf : s.dmx.lanes.find l = none) : exec (.retroCatchup l) s = .next s := by
  change execRetroCatchup l s = _
  unfold execRetroCatchup
  rw [hf]

theorem retroCatchup_found (hf : s.dmx.lanes.find l = some x) : exec (.retroCatchup l) s =
    .next (if x.catchup then (s.histDrop .dmx l).setLane l { x with catchup := false } else s) := by
  change execRetroCatchup l s = _
  unfold execRetroCatchup
  rw [hf]

end

/-- Settles O35: each clause is the lemma of its command, or of what a detection does. -/
theorem dmxDetections : Obligations.DmxDetections := by
  refine ⟨?_, fun s t h lh timing pref excess meas => preambleDetect_unheard, fun s h lh excess meas => State.hearsNative_eq_false,
    ?_, fun s t h timing pref excess meas => i3ShrDetect_unheard, ?_, ?_, fun s h pref l b r => State.detect_claims_result,
    fun s h pref r => State.detect_dropped_result, ?_, fun s h pref r => State.detect_lost_result,
    fun s t pref => retroEntryTaken_none, ?_, ?_, fun s l => retroCatchup_idle, ?_, ?_⟩
  · intro s t h lh timing pref excess meas hhunt hphy hmask hthr hofs hlev hown
    rw [preambleDetect_heard (State.hearsNative_iff.mpr ⟨hhunt, hphy, hmask, hthr, hofs, hlev⟩),
      if_neg (ne_true_of_eq_false hown)]
    rfl
  · intro s t h lh timing pref excess meas hh hown
    rw [preambleDetect_heard hh, if_pos hown]
  · intro s t h timing pref excess meas hh hown
    rw [i3ShrDetect_heard hh, if_pos hown]
  · intro s t h timing pref excess meas hhunt hphy hthr hofs hown
    rw [i3ShrDetect_heard (State.hearsI3_iff.mpr ⟨hhunt, hphy, hthr, hofs⟩), if_neg (ne_true_of_eq_false hown)]
    rfl
  · intro s h pref r hp hr ht hroom
    obtain ⟨hretro, hlanes, hcounts⟩ := State.detect_queued_result hp hr ht hroom
    rw [State.lanes_secondIfHeld] at hlanes
    exact ⟨hretro, fun hheld => hlanes.trans (if_neg (ne_true_of_eq_false hheld)), fun hheld => hlanes.trans (if_pos hheld), hcounts⟩
  · intro s t pref l b r hn hpos hold
    exact retroEntryTaken_expires hn ⟨hold, hpos⟩
  · intro s t pref l b r hn hnew
    refine retroEntryTaken_catches_up hn ?_
    rintro ⟨hold, hpos⟩
    rcases hnew with hle | hle
    · exact absurd hpos (Int.not_lt.mpr hle)
    · exact absurd hold (Nat.not_lt.mpr hle)
  · intro s l x hf hc
    rw [retroCatchup_found hf, if_neg (ne_true_of_eq_false hc)]
  · intro s l x hf hc
    exact ⟨_, (retroCatchup_found hf).trans (congrArg Host.Outcome.next (if_pos hc)), rfl, rfl⟩

end Sys2Proof.Machine
end
section
/-! The lanes of DMX to the end of a frame (R142 to R146, R155), for `Obligations.DmxLanes`. -/

namespace Sys2Proof.Machine

/-! ### A lane by its phase -/

section

variable {s : State} {l st : Nat} {x : Lane}

theorem State.laneIn_of_none (hf : s.dmx.lanes.find l = none) : s.laneIn l st = none := by
  unfold State.laneIn
  rw [hf]

theorem State.laneIn_of_other (hf : s.dmx.lanes.find l = some x) (hx : x.state ≠ st) : s.laneIn l st = none := by
  unfold State.laneIn
  rw [hf]
  exact if_neg hx

theorem State.laneIn_of_state (hf : s.dmx.lanes.find l = some x) (hx : x.state = st) : s.laneIn l st = some x := by
  unfold State.laneIn
  rw [hf]
  exact if_pos hx

end

/-! ### Ends of a phase -/

section

variable {s : State} {t : Time} {l : Nat} {x : Lane}

theorem sfdFound_elsewhere {stamp : Nat} {meas : Meas} (hl : s.laneIn l 1 = none) : exec (.sfdFound l stamp meas) s = .next s := by
  change execSfdFound l stamp meas s = _
  unfold execSfdFound
  rw [hl]

theorem sfdFound_preamble {stamp : Nat} {meas : Meas} (hl : s.laneIn l 1 = some x) : exec (.sfdFound l stamp meas) s =
    .next (s.setLane l { x with state := 2, sfdGt := s.sfdTime x stamp, meas := meas }) := by
  change execSfdFound l stamp meas s = _
  unfold execSfdFound
  rw [hl]

theorem sfdTimeout_elsewhere (hl : s.laneIn l 1 = none) : exec (.sfdTimeout t l) s = .next (s.at t) := by
  change execSfdTimeout t l s = _
  unfold execSfdTimeout
  rw [hl]

theorem sfdTimeout_preamble (hl : s.laneIn l 1 = some x) : exec (.sfdTimeout t l) s = .next ((State.fireIf { s.at t with
      dmx := { s.dmx with noSfd := s.dmx.noSfd.put x.hunter (s.dmx.noSfd.getD' x.hunter 0 + 1) } }
    (s.dmx.noSfd.getD' x.hunter 0 + 1 == 4 * s.fld F.DMX_THR_FATHR) 72).laneCut t l x 1) := by
  change execSfdTimeout t l s = _
  unfold execSfdTimeout
  rw [hl]
  rfl

theorem lastPayloadSymbol_elsewhere (hl : s.laneIn l 3 = none) : exec (.lastPayloadSymbol l) s = .next s := by
  change execLastPayloadSymbol l s = _
  unfold execLastPayloadSymbol
  rw [hl]

theorem lastPayloadSymbol_payload (hl : s.laneIn l 3 = some x) :
    exec (.lastPayloadSymbol l) s = .next (s.setLane l { x with waiting := true }) := by
  change execLastPayloadSymbol l s = _
  unfold execLastPayloadSymbol
  rw [hl]

theorem State.sfdTime_catchup (stamp : Nat) (hc : x.catchup = true) : s.sfdTime x stamp = s.gtOfCount (x.slice / 128) stamp :=
  if_pos hc

theorem State.sfdTime_live (stamp : Nat) (hc : x.catchup = false) (hup : s.link (x.slice / 128) = 4) :
    s.sfdTime x stamp = gtSub stamp (nsToGt (s.rxLatency (x.slice / 128) (x.slice % 128)) s.mainsFreq) := by
  unfold State.sfdTime
  dsimp only
  rw [if_neg (ne_true_of_eq_false hc), if_pos hup]

end

section

variable {s : State} {t : Time} {l len n : Nat} {psdu : List Octet} {esn0 rise : Int} {m : SymMeas} {x : Lane}

/-- The FCS of a PSDU is right (R142). -/
def fcsRight (d : List Octet) : Prop := fcs16 (d.take (d.length - 2)) = leNat (d.drop (d.length - 2))

theorem i3FrameEnd_elsewhere (hl : s.laneIn l 2 = none) : exec (.i3FrameEnd t l len psdu rise m) s = .next (s.at t) := by
  change execI3FrameEnd t l len psdu rise m s = _
  unfold execI3FrameEnd
  rw [hl]

theorem i3FrameEnd_native (hl : s.laneIn l 2 = some x) (hp : x.phy = false) :
    exec (.i3FrameEnd t l len psdu rise m) s = .next (s.at t) := by
  have hcond : (!x.phy) = true := by rw [hp]; rfl
  change execI3FrameEnd t l len psdu rise m s = _
  unfold execI3FrameEnd
  rw [hl]
  exact congrArg Host.Outcome.next (if_pos hcond)

theorem i3FrameEnd_i3 (hl : s.laneIn l 2 = some x) (hp : x.phy = true) :
    (len % 128 ≤ 4 → exec (.i3FrameEnd t l len psdu rise m) s =
      .next ((s.at t).laneEnd t l { x.overlap rise m with hdrWord := 0 } 4 0 [])) ∧
    (4 < len % 128 → fcsRight (x.octets m psdu) → exec (.i3FrameEnd t l len psdu rise m) s =
      .next ((s.at t).laneEnd t l { x.overlap rise m with hdrWord := len % 128 } 0 0 (x.octets m psdu))) ∧
    (4 < len % 128 → ¬ fcsRight (x.octets m psdu) → exec (.i3FrameEnd t l len psdu rise m) s =
      .next ((s.at t).laneEnd t l { x.overlap rise m with hdrWord := len % 128 } 6 0 [])) := by
  have hcond : ¬ (!x.phy) = true := by rw [hp]; decide
  change (_ → execI3FrameEnd t l len psdu rise m s = _) ∧ (_ → _ → execI3FrameEnd t l len psdu rise m s = _) ∧
    (_ → _ → execI3FrameEnd t l len psdu rise m s = _)
  unfold execI3FrameEnd
  rw [hl]
  dsimp only
  rw [if_neg hcond]
  refine ⟨fun hlen => ?_, fun hlen hfcs => ?_, fun hlen hfcs => ?_⟩
  · rw [if_pos hlen]
  · rw [if_neg (Nat.not_le.mpr hlen)]
    exact congrArg Host.Outcome.next (if_pos hfcs)
  · rw [if_neg (Nat.not_le.mpr hlen)]
    exact congrArg Host.Outcome.next (if_neg hfcs)

/-- How many symbols in a row a frame may fade (R144). -/
def Lane.fadeSyms (x : Lane) : Nat := if F.DMX_THR_FADESYM.ext x.thr = 0 then 16 else F.DMX_THR_FADESYM.ext x.thr

theorem laneFade_idle (hf : s.dmx.lanes.find l = none) : exec (.laneFade t l n esn0 rise m) s = .next (s.at t) := by
  change execLaneFade t l n esn0 rise m s = _
  unfold execLaneFade
  rw [hf]

theorem laneFade_found (hf : s.dmx.lanes.find l = some x) : exec (.laneFade t l n esn0 rise m) s =
    .next (if 2 ≤ x.state ∧ x.fadeSyms ≤ n ∧ esn0 < (F.DMX_THR_FADETHR.ext x.thr : Int) then
      (s.at t).laneEnd t l (x.overlap rise m) 7 0 [] else s.at t) := by
  change execLaneFade t l n esn0 rise m s = _
  unfold execLaneFade
  rw [hf]
  rfl

theorem laneBufferError_idle (hf : s.dmx.lanes.find l = none) : exec (.laneBufferError t l) s = .next (s.at t) := by
  change execLaneBufferError t l s = _
  unfold execLaneBufferError
  rw [hf]

theorem laneBufferError_found (hf : s.dmx.lanes.find l = some x) :
    exec (.laneBufferError t l) s = .next (((s.at t).laneCut t l x 12).reportNow 5 4 73 73) := by
  change execLaneBufferError t l s = _
  unfold execLaneBufferError
  rw [hf]

end

/-! ### The lane that a frame leaves -/

/-- The slice of a frame and its partner's are marked in RFP alone (R109). -/
theorem State.notIdlePair_frame (s : State) (g : Nat) : s.notIdlePair g = { s with rfp := (s.notIdlePair g).rfp } := by
  unfold State.notIdlePair
  dsimp only
  cases s.partner (g / 128) with
  | none => rfl
  | some m => rfl

theorem State.freeLane_result (s : State) (l g : Nat) :
    (s.freeLane l g).dmx.lanes = s.dmx.lanes.del l ∧ (s.freeLane l g).dmx.mirror = s.dmx.mirror ∧
      s.freeLane l g = { s with rfp := (s.freeLane l g).rfp, dmx := (s.freeLane l g).dmx } := by
  have hpair := s.notIdlePair_frame g
  unfold State.freeLane
  dsimp only
  generalize s.notIdlePair g = u at *
  split
  · exact ⟨by rw [hpair], by rw [hpair], by rw [hpair]⟩
  · refine ⟨?_, ?_, ?_⟩
    · rw [hpair]
      rfl
    · rw [hpair]
      rfl
    · rw [hpair]
      rfl

/-- Lane `l` is free again, its frame in the statistics of its slice (R157). -/
def State.laneFreed (s : State) (l : Nat) (x : Lane) (o : Nat) : State :=
  ((s.histDrop .dmx l).freeLane l x.slice).slStat x.slice (fun z => { z with oks := z.oks + b2n (o == 0), ovls := z.ovls + b2n (x.ovl != 0) })

theorem State.laneFreed_result (s : State) (l : Nat) (x : Lane) (o : Nat) :
    (s.laneFreed l x o).dmx.lanes = s.dmx.lanes.del l ∧ (s.laneFreed l x o).dmx.mirror = s.dmx.mirror ∧
      s.laneFreed l x o = { s with rfp := (s.laneFreed l x o).rfp, dmx := (s.laneFreed l x o).dmx } := by
  obtain ⟨hlanes, hmirror, hframe⟩ := (s.histDrop .dmx l).freeLane_result l x.slice
  unfold State.laneFreed
  generalize (s.histDrop .dmx l).freeLane l x.slice = u at *
  refine ⟨hlanes, hmirror, ?_⟩
  rw [hframe]
  rfl

theorem State.countOutcome_frame (s : State) (o : Nat) :
    s.countOutcome o = { s with regs := (s.countOutcome o).regs, evt := (s.countOutcome o).evt } := by
  unfold State.countOutcome
  cases outcomeCtr o with
  | none =>
    cases outcomeSrc o with
    | none => rfl
    | some k => exact State.fire_frame s k
  | some c =>
    cases outcomeSrc o with
    | none => rfl
    | some k =>
      dsimp only
      rw [State.fire_frame]
      rfl

/-- The frame of lane `l` is over with outcome `o`: the lane free, the outcome counted (R142, R143). -/
def State.laneOver (s : State) (l : Nat) (x : Lane) (o : Nat) : State := (s.laneFreed l x o).countOutcome o

theorem State.laneOver_result (s : State) (l : Nat) (x : Lane) (o : Nat) :
    (s.laneOver l x o).dmx.lanes = s.dmx.lanes.del l ∧ (s.laneOver l x o).dmx.mirror = s.dmx.mirror ∧
      s.laneOver l x o = { s with
        regs := (s.laneOver l x o).regs, evt := (s.laneOver l x o).evt, rfp := (s.laneOver l x o).rfp,
        dmx := (s.laneOver l x o).dmx } := by
  obtain ⟨hlanes, hmirror, hframe⟩ := s.laneFreed_result l x o
  have hcount := (s.laneFreed l x o).countOutcome_frame o
  unfold State.laneOver
  generalize (s.laneFreed l x o).countOutcome o = u at *
  refine ⟨?_, ?_, ?_⟩
  · rw [hcount]
    exact hlanes
  · rw [hcount]
    exact hmirror
  · rw [hcount, hframe]

/-- A counted outcome that fires no source. -/
theorem State.laneOver_counted (s : State) (l : Nat) (x : Lane) {o c : Nat} (hc : outcomeCtr o = some c) (hs : outcomeSrc o = none) :
    (s.laneOver l x o).ctr c = (s.ctr c + 1) % 2 ^ 48 ∧ s.regsBut (s.laneOver l x o) (halves c) := by
  obtain ⟨-, -, hframe⟩ := s.laneFreed_result l x o
  have hover : s.laneOver l x o = (s.laneFreed l x o).bump c := by
    unfold State.laneOver State.countOutcome
    rw [hc, hs]
  rw [hover, hframe]
  exact ⟨State.ctr_bump_same _ _ 1, State.regsBut_bump _ _ State.regsBut_refl (by simp [halves]) (by simp [halves])⟩

/-! ### What becomes of the frame -/

/-- The mirror FIFO takes a record, or loses it, counted (R155). -/
theorem State.mirror_frame (s : State) (q : QRec) : s.mirror q = { s with
    regs := (s.mirror q).regs, evt := (s.mirror q).evt, dmx := { s.dmx with mirror := (s.mirror q).dmx.mirror } } := by
  unfold State.mirror
  split
  · rfl
  · split
    · rw [State.fire_frame]
      rfl
    · rw [State.fireIf_frame]

theorem State.regsEvt_mirror (s : State) (q : QRec) : s.regsEvt (s.mirror q) (halves Ctr.DMX_QOVF) := by
  unfold State.mirror
  refine State.regsEvt_if State.regsEvt_refl (State.regsEvt_if ?_ ?_)
  · exact State.regsEvt_fire 70 (State.regsEvt_bump _ _ State.regsEvt_refl (by decide) (by decide)) (by decide)
  · exact State.regsEvt_fireIf _ 69 (State.regsEvt_mk State.regsEvt_refl) (by decide)

/-- A FIFO with room takes every record where the filter selects all (R155). -/
theorem State.mirror_all (s : State) (q : QRec) (hall : s.fld F.DMX_QCFG_MIRROR = 1) (hroom : s.dmx.mirror.length < 512) :
    (s.mirror q).dmx.mirror = s.dmx.mirror ++ [q] := by
  have hwants : ¬ (!s.mirrorWants q) = true := by
    unfold State.mirrorWants
    rw [hall]
    exact Bool.false_ne_true
  unfold State.mirror
  rw [if_neg hwants, if_neg (Nat.not_le.mpr hroom), State.fireIf_dmx]

theorem State.refStore_frame (s : State) (fr : RxFrame) (ft : Nat) :
    s.refStore fr ft = { s with sic := (s.refStore fr ft).sic } := by
  unfold State.refStore
  split
  · rfl
  · rfl

theorem State.sicLaneEnded_frame (s : State) (q : QRec) (hdr : Option Hdr) (fin : Nat) :
    s.sicLaneEnded q hdr fin = { s with sic := (s.sicLaneEnded q hdr fin).sic } := by
  unfold State.sicLaneEnded
  refine List.foldlRecOn (motive := fun u : State => u = { s with sic := u.sic }) _ _ rfl fun u hu j _ => ?_
  split
  · exact congrArg (fun v : State => { v with sic := (u.putJob (j.withSet (j.members ++
      [requestMember q (s.requestSpan q hdr fin).1 (s.requestSpan q hdr fin).2]))).sic }) hu
  · exact hu

/-- Nothing but SIC's jobs, registers and pending bits changes. -/
def State.onlySic (s u : State) : Prop := u = { s with regs := u.regs, evt := u.evt, sic := u.sic }

theorem State.onlySic_refl (s : State) : s.onlySic s := rfl

theorem State.onlySic_of {s u v : State} (h : s.onlySic u) (hv : v = { u with regs := v.regs, evt := v.evt }) : s.onlySic v := by
  unfold State.onlySic at h ⊢
  rw [hv, h]

theorem State.onlySic_bump {s u : State} (h : s.onlySic u) (c n : Nat) : s.onlySic (u.bump c n) :=
  State.onlySic_of h (u.bump_frame c n)

theorem State.onlySic_fire {s u : State} (h : s.onlySic u) (k : Nat) : s.onlySic (u.fire k) := State.onlySic_of h (u.fire_frame k)

theorem State.onlySic_mk {s u : State} (h : s.onlySic u) (x : Sic) : s.onlySic { u with sic := x } := by
  unfold State.onlySic at h ⊢
  rw [h]

theorem State.onlySic_sicRequest (s : State) (q : QRec) (hdr : Option Hdr) (fin ft : Nat) :
    s.onlySic (s.sicRequest q hdr fin ft) := by
  have hreq : s.onlySic (s.bump Ctr.SIC_REQ) := State.onlySic_bump s.onlySic_refl _ _
  have hmerged : s.onlySic ((s.bump Ctr.SIC_REQ).bump Ctr.SIC_MERGED) := State.onlySic_bump hreq _ _
  unfold State.sicRequest
  dsimp only
  split
  next =>
    split
    · exact State.onlySic_mk hmerged _
    · exact hmerged
  next =>
    split
    next => exact State.onlySic_mk hmerged _
    next =>
      split
      · exact State.onlySic_mk hreq _
      · exact State.onlySic_fire (State.onlySic_bump hreq _ _) _

/-- The frame that lane `l` hands on (R143, R156). -/
def State.endedFrame (s : State) (t : Time) (l : Nat) (x : Lane) (corr : Nat) (pl : List Octet) : RxFrame :=
  { search := x.search, qrec := laneRecord l x 0 corr false, hdr := x.hdr.getD { len := pl.length, par := 0, dep := 0, sw := 0 },
    payload := pl,
    fin := if x.phy then t.gt else s.frameFin x.slice x.lh (s.frameStart x.slice x.lh x.sfdGt)
      (x.hdr.getD { len := pl.length, par := 0, dep := 0, sw := 0 }) }

section

variable (s : State) (t : Time) (l : Nat) (x : Lane) (o corr : Nat) (pl : List Octet)

/-- A frame that ended OK is not offered to SIC (R145). -/
theorem State.offers_ok : s.offers x 0 = false := Bool.and_false _

theorem State.laneEnd_ok_i3 (hp : x.phy = true) : s.laneEnd t l x 0 corr pl =
    { (s.laneOver l x 0).mirror (laneRecord l x 0 corr false) with
      i3inbox := (s.laneOver l x 0).i3inbox ++ [s.endedFrame t l x corr pl] } := by
  rw [← s.offers_ok x]
  unfold State.laneEnd
  dsimp only
  rw [if_pos rfl, if_pos hp, s.offers_ok x]
  rfl

/-- The state of `State.laneOver` with the frame in MSQ's inbox. -/
def State.inboxed : State := { s.laneOver l x 0 with inbox := (s.laneOver l x 0).inbox ++ [s.endedFrame t l x corr pl] }

theorem State.laneEnd_ok_native (hp : x.phy = false) : s.laneEnd t l x 0 corr pl =
    if s.hunterOn x.hunter then (s.inboxed t l x corr pl).refStore (s.endedFrame t l x corr pl) t.ft
    else s.inboxed t l x corr pl := by
  unfold State.laneEnd
  dsimp only
  rw [if_pos rfl, if_neg (ne_true_of_eq_false hp), s.offers_ok x]
  rfl

theorem State.laneEnd_failed (ho : o ≠ 0) : s.laneEnd t l x o corr pl =
    if s.offers x o then (((s.laneOver l x o).mirror (laneRecord l x o corr (s.offers x o))).bump Ctr.DMX_SICREQ).sicRequest
      (laneRecord l x o corr (s.offers x o)) x.hdr t.gt t.ft
    else if x.phy then (s.laneOver l x o).mirror (laneRecord l x o corr (s.offers x o))
    else ((s.laneOver l x o).mirror (laneRecord l x o corr (s.offers x o))).sicLaneEnded
      (laneRecord l x o corr (s.offers x o)) x.hdr t.gt := by
  unfold State.laneEnd
  dsimp only
  rw [if_neg ho]
  rfl

/-- The end of a frame: its lane is free, and but for DMX, RFP, SIC, the inboxes and registers nothing changes. -/
def State.laneGone (u : State) : Prop :=
  u.dmx.lanes = s.dmx.lanes.del l ∧ u = { s with
    regs := u.regs, evt := u.evt, dmx := u.dmx, rfp := u.rfp, sic := u.sic, inbox := u.inbox, i3inbox := u.i3inbox }

theorem State.laneGone_laneEnd : s.laneGone l (s.laneEnd t l x o corr pl) := by
  obtain ⟨hlanes, -, hframe⟩ := s.laneOver_result l x o
  have hmirror : ∀ q, s.laneGone l ((s.laneOver l x o).mirror q) := fun q => by
    have hm := (s.laneOver l x o).mirror_frame q
    generalize (s.laneOver l x o).mirror q = v at *
    constructor
    · rw [hm]
      exact hlanes
    · rw [hm, hframe]
  by_cases ho : o = 0
  · subst ho
    by_cases hp : x.phy = true
    · rw [State.laneEnd_ok_i3 s t l x corr pl hp]
      obtain ⟨hdel, hrest⟩ := hmirror (laneRecord l x 0 corr false)
      refine ⟨hdel, ?_⟩
      exact congrArg (fun v : State => { v with i3inbox := (s.laneOver l x 0).i3inbox ++ [s.endedFrame t l x corr pl] }) hrest
    · rw [State.laneEnd_ok_native s t l x corr pl (Bool.not_eq_true _ ▸ hp)]
      have hin : s.laneGone l (s.inboxed t l x corr pl) := by
        refine ⟨hlanes, ?_⟩
        unfold State.inboxed
        rw [hframe]
      split
      · have href := (s.inboxed t l x corr pl).refStore_frame (s.endedFrame t l x corr pl) t.ft
        generalize (s.inboxed t l x corr pl).refStore (s.endedFrame t l x corr pl) t.ft = v at *
        obtain ⟨hdel, hrest⟩ := hin
        exact ⟨by rw [href]; exact hdel, by rw [href, hrest]⟩
      · exact hin
  · rw [State.laneEnd_failed s t l x o corr pl ho]
    obtain ⟨hdel, hrest⟩ := hmirror (laneRecord l x o corr (s.offers x o))
    generalize (s.laneOver l x o).mirror (laneRecord l x o corr (s.offers x o)) = v at *
    split
    · have hreq := (v.bump Ctr.DMX_SICREQ).onlySic_sicRequest (laneRecord l x o corr (s.offers x o)) x.hdr t.gt t.ft
      generalize (v.bump Ctr.DMX_SICREQ).sicRequest (laneRecord l x o corr (s.offers x o)) x.hdr t.gt t.ft = w at *
      exact ⟨by rw [hreq]; exact hdel, by rw [hreq, State.bump_frame, hrest]⟩
    · split
      · exact ⟨hdel, hrest⟩
      · have hend := v.sicLaneEnded_frame (laneRecord l x o corr (s.offers x o)) x.hdr t.gt
        generalize v.sicLaneEnded (laneRecord l x o corr (s.offers x o)) x.hdr t.gt = w at *
        exact ⟨by rw [hend]; exact hdel, by rw [hend, hrest]⟩

theorem State.laneEnd_ok_native_result (hp : x.phy = false) :
    (s.laneEnd t l x 0 corr pl).ctr Ctr.DMX_OUTOK = (s.ctr Ctr.DMX_OUTOK + 1) % 2 ^ 48 ∧
      (s.laneEnd t l x 0 corr pl).inbox = s.inbox ++ [s.endedFrame t l x corr pl] ∧
      (s.laneEnd t l x 0 corr pl).i3inbox = s.i3inbox ∧ s.regsBut (s.laneEnd t l x 0 corr pl) (halves Ctr.DMX_OUTOK) := by
  obtain ⟨hctr, hregs⟩ := s.laneOver_counted l x (o := 0) (c := Ctr.DMX_OUTOK) rfl rfl
  obtain ⟨-, -, hframe⟩ := s.laneOver_result l x 0
  have hin : (s.inboxed t l x corr pl).inbox = s.inbox ++ [s.endedFrame t l x corr pl] ∧
      (s.inboxed t l x corr pl).i3inbox = s.i3inbox := by
    unfold State.inboxed
    rw [hframe]
    exact ⟨rfl, rfl⟩
  have hsic : s.laneEnd t l x 0 corr pl = { s.inboxed t l x corr pl with sic := (s.laneEnd t l x 0 corr pl).sic } := by
    rw [State.laneEnd_ok_native s t l x corr pl hp]
    split
    · exact State.refStore_frame _ _ _
    · rfl
  rw [hsic]
  exact ⟨(State.ctr_mk _ _).trans hctr, hin.1, hin.2, State.regsBut_mk hregs⟩

theorem State.laneEnd_ok_i3_result (hp : x.phy = true) :
    (s.laneEnd t l x 0 corr pl).i3inbox = s.i3inbox ++ [s.endedFrame t l x corr pl] ∧
      (s.laneEnd t l x 0 corr pl).inbox = s.inbox ∧
      (s.laneEnd t l x 0 corr pl).dmx.mirror = ((s.laneOver l x 0).mirror (laneRecord l x 0 corr false)).dmx.mirror := by
  obtain ⟨-, -, hframe⟩ := s.laneOver_result l x 0
  rw [State.laneEnd_ok_i3 s t l x corr pl hp]
  refine ⟨?_, ?_, rfl⟩
  · rw [hframe]
  · rw [State.mirror_frame, hframe]

theorem State.laneEnd_nosfd_i3_result (hp : x.phy = true) :
    (s.laneEnd t l x 1 0 []).ctr Ctr.DMX_NOSFD = (s.ctr Ctr.DMX_NOSFD + 1) % 2 ^ 48 ∧
      (s.laneEnd t l x 1 0 []).inbox = s.inbox ∧ (s.laneEnd t l x 1 0 []).sic = s.sic := by
  obtain ⟨hctr, -⟩ := s.laneOver_counted l x (o := 1) (c := Ctr.DMX_NOSFD) rfl rfl
  obtain ⟨-, -, hframe⟩ := s.laneOver_result l x 1
  have hoffer : s.offers x 1 = false := Bool.and_false _
  rw [State.laneEnd_failed s t l x 1 0 [] (by decide), hoffer, if_neg Bool.false_ne_true, if_pos hp]
  refine ⟨?_, ?_, ?_⟩
  · rw [State.ctr_of_regsEvt (State.regsEvt_mirror _ _) (by decide) (by decide) (by decide) (by decide), hctr]
  · rw [State.mirror_frame, hframe]
  · rw [State.mirror_frame, hframe]

/-- With every record selected and room in the FIFO, the record of an I3 frame that ended OK joins the mirror (R155). -/
theorem State.mirror_laneOver (q : QRec) (hall : s.fld F.DMX_QCFG_MIRROR = 1) (hroom : s.dmx.mirror.length < 512) :
    ((s.laneOver l x 0).mirror q).dmx.mirror = s.dmx.mirror ++ [q] := by
  obtain ⟨-, hregs⟩ := s.laneOver_counted l x (o := 0) (c := Ctr.DMX_OUTOK) rfl rfl
  obtain ⟨-, hmirror, -⟩ := s.laneOver_result l x 0
  have hcfg : (s.laneOver l x 0).fld F.DMX_QCFG_MIRROR = s.fld F.DMX_QCFG_MIRROR := congrArg _ (hregs _ (by decide))
  rw [State.mirror_all _ q (hcfg.trans hall) (by rwa [hmirror]), hmirror]

end

/-! ### MIRROR_POP -/

theorem mirrorPop_unbarred {s : State} {rq : Req} (hb : s.barred rq Reg.DMX_QPOP (some 1) = none) :
    exec (.mirrorPop rq) s = .next { (s.setReg Reg.DMX_QPOP (s.reg Reg.DMX_QPOP)).respond [] true with
      dmx := { s.dmx with mirror := s.dmx.mirror.drop 1 } } := by
  change execMirrorPop rq s = _
  unfold execMirrorPop
  rw [State.gated_next s rq Reg.DMX_QPOP 1 _ (by decide) hb]
  rfl

/-- Settles O36: each clause is the lemma of its command, or of the end of a frame. -/
theorem dmxLanes : Obligations.DmxLanes := by
  refine ⟨?_, fun s x stamp => ⟨State.sfdTime_catchup stamp, State.sfdTime_live stamp⟩, fun s t l x => sfdTimeout_preamble, ?_,
    fun s t l len psdu rise m x hl hp => (i3FrameEnd_i3 hl hp).1, fun s t l len psdu rise m x hl hp => (i3FrameEnd_i3 hl hp).2.1,
    fun s t l len psdu rise m x hl hp => (i3FrameEnd_i3 hl hp).2.2, ?_, ?_, ?_, ?_, ?_, ?_, fun s t l x => laneBufferError_found,
    fun s t l o corr x pl => s.laneGone_laneEnd t l x o corr pl, ?_, ?_, fun s t l x => s.laneEnd_nosfd_i3_result t l x, ?_⟩
  · intro s l stamp meas x hl
    exact ⟨_, sfdFound_preamble hl, rfl⟩
  · intro s l x hl
    exact ⟨_, lastPayloadSymbol_payload hl, rfl⟩
  · intro s t l n esn0 rise m x hf hst hn hes
    rw [laneFade_found hf, if_pos ⟨hst, hn, hes⟩]
  · intro s t l n esn0 rise m x hf hno
    rw [laneFade_found hf, if_neg]
    rintro ⟨hst, hn, hes⟩
    rcases hno with h0 | h0 | h0
    · exact absurd hst (Nat.not_le.mpr h0)
    · exact absurd hn (Nat.not_le.mpr h0)
    · exact absurd hes (Int.not_lt.mpr h0)
  · intro s t l n stamp len psdu esn0 rise m meas hf
    exact ⟨sfdFound_elsewhere (State.laneIn_of_none hf), sfdTimeout_elsewhere (State.laneIn_of_none hf),
      lastPayloadSymbol_elsewhere (State.laneIn_of_none hf), i3FrameEnd_elsewhere (State.laneIn_of_none hf), laneFade_idle hf,
      laneBufferError_idle hf⟩
  · intro s t l stamp meas x hf hst
    exact ⟨sfdFound_elsewhere (State.laneIn_of_other hf hst), sfdTimeout_elsewhere (State.laneIn_of_other hf hst)⟩
  · intro s l x hf hst
    exact lastPayloadSymbol_elsewhere (State.laneIn_of_other hf hst)
  · intro s t l len psdu rise m x hf hx
    by_cases hst : x.state = 2
    · exact i3FrameEnd_native (State.laneIn_of_state hf hst) (hx.resolve_left (not_not_intro hst))
    · exact i3FrameEnd_elsewhere (State.laneIn_of_other hf hst)
  · intro s t l corr x pl hp
    obtain ⟨hctr, hin, hi3, hregs⟩ := s.laneEnd_ok_native_result t l x corr pl hp
    refine ⟨hctr, ?_, ?_, hi3, hregs⟩
    · rw [hin, List.length_append, List.length_singleton]
    · rw [hin, List.getLast?_concat]
      rfl
  · intro s t l corr x pl hp hall hroom
    obtain ⟨hi3, hin, hmirror⟩ := s.laneEnd_ok_i3_result t l x corr pl hp
    refine ⟨?_, ?_, hin, ?_⟩
    · rw [hi3, List.length_append, List.length_singleton]
    · rw [hi3, List.getLast?_concat]
      rfl
    · rw [hmirror, s.mirror_laneOver l x _ hall hroom]
  · intro s rq hb
    exact ⟨_, mirrorPop_unbarred hb, rfl, fun a _ => State.reg_setReg_self s Reg.DMX_QPOP a, rfl⟩

end Sys2Proof.Machine
end
section
/-! SLV's result and shortfall FIFOs (R242, R243): what the end of a command and a shortfall leave. -/

namespace Sys2Proof.Machine

/-! ### Result records -/

/-- Nothing but the result FIFO, its counter and the pending bits changes. -/
def State.onlyResults (s u : State) : Prop := s.regsEvt u (halves Ctr.SLV_RQOVF) ∧
  u = { s with regs := u.regs, evt := u.evt, slv := { s.slv with results := u.slv.results } }

theorem State.onlyResults_refl (s : State) : s.onlyResults s := ⟨State.regsEvt_refl, rfl⟩

theorem State.onlyResults_trans {s u v : State} (h : s.onlyResults u) (h' : u.onlyResults v) : s.onlyResults v := by
  obtain ⟨hregs, hframe⟩ := h
  obtain ⟨hregs', hframe'⟩ := h'
  refine ⟨State.regsEvt_trans hregs hregs', ?_⟩
  rw [hframe] at hframe'
  exact hframe'

theorem State.onlyResults_slvResult (s : State) (r : SlvRes) : s.onlyResults (s.slvResult r) := by
  unfold State.slvResult
  split
  · exact ⟨State.regsEvt_fireIf _ 120 (State.regsEvt_mk State.regsEvt_refl) (by decide), by rw [State.fireIf_frame]⟩
  · refine ⟨State.regsEvt_fire 121 (State.regsEvt_bump _ _ State.regsEvt_refl (by decide) (by decide)) (by decide), ?_⟩
    rw [State.fire_frame, State.bump_frame]

/-- The record joins the FIFO, or is lost and counted (R242). -/
theorem State.slvResulted_slvResult (s : State) (r : SlvRes) : s.slvResulted (s.slvResult r) r := by
  unfold State.slvResult
  refine ⟨fun hroom => ?_, fun hfull => ?_⟩
  · rw [if_pos hroom]
    refine ⟨by rw [State.fireIf_slv], ?_, fun hs he => ?_⟩
    · exact State.ctr_fireIf_ne _ _ _ _ (by decide) (by decide) (by decide)
    · rw [he]
      exact State.isPend_fire _ 120 hs
  · rw [if_neg (Nat.not_lt.mpr hfull)]
    refine ⟨by rw [State.fire_slv, State.bump_slv], ?_, fun hs => State.isPend_fire _ 121 hs⟩
    rw [State.ctr_fire_ne _ _ _ (by decide) (by decide) (by decide), State.ctr_bump_same]

/-- What comes before the end of a command: nothing that the FIFO, its counter or PWR show. -/
theorem State.slvResulted_of {s v u : State} {r : SlvRes} (h : v.slvResulted u r) (hres : v.slv.results = s.slv.results)
    (hctr : v.ctr Ctr.SLV_RQOVF = s.ctr Ctr.SLV_RQOVF) (hpwr : v.pwr = s.pwr) : s.slvResulted u r := by
  have hon : s.sysOn → v.sysOn := State.sysOn_congr hpwr
  obtain ⟨hroom, hfull⟩ := h
  rw [hres, hctr] at hroom hfull
  refine ⟨fun hlen => ?_, fun hlen => ?_⟩
  · obtain ⟨hr, hc, hp⟩ := hroom hlen
    exact ⟨hr, hc, fun hs => hp (hon hs)⟩
  · obtain ⟨hr, hc, hp⟩ := hfull hlen
    exact ⟨hr, hc, fun hs => hp (hon hs)⟩

/-- What comes after the end of a command: nothing that the FIFO or its counter shows, and no pending bit clears. -/
theorem State.slvResulted_then {s u v : State} {r : SlvRes} (h : s.slvResulted u r) (hres : v.slv.results = u.slv.results)
    (hctr : v.ctr Ctr.SLV_RQOVF = u.ctr Ctr.SLV_RQOVF) (hpend : ∀ k, u.isPend k = true → v.isPend k = true) :
    s.slvResulted v r := by
  obtain ⟨hroom, hfull⟩ := h
  rw [← hres, ← hctr] at hroom hfull
  refine ⟨fun hlen => ?_, fun hlen => ?_⟩
  · obtain ⟨hr, hc, hp⟩ := hroom hlen
    exact ⟨hr, hc, fun hs he => hpend 120 (hp hs he)⟩
  · obtain ⟨hr, hc, hp⟩ := hfull hlen
    exact ⟨hr, hc, fun hs => hpend 121 (hp hs)⟩

theorem State.onlyResults_slvEnd (s : State) (c : SlvCmd) (o n dur short : Nat) : s.onlyResults (s.slvEnd c o n dur short) :=
  s.onlyResults_slvResult _

theorem State.slvResulted_slvEnd (s : State) (c : SlvCmd) (o n dur short : Nat) :
    s.slvResulted (s.slvEnd c o n dur short) { c.result o n dur with short := short } :=
  s.slvResulted_slvResult _

theorem State.onlyResults_slvEndAll (s : State) (cs : List SlvCmd) (o n dur short : Nat) :
    s.onlyResults (s.slvEndAll cs o n dur short) :=
  List.foldlRecOn (motive := fun u : State => s.onlyResults u) cs _ s.onlyResults_refl fun u hu c _ =>
    State.onlyResults_trans hu (u.onlyResults_slvEnd c o n dur short)

/-- A FIFO with room for them takes the records of several commands in their order. -/
theorem State.results_slvEndAll (s : State) (cs : List SlvCmd) (o n dur short : Nat) (hroom : s.slv.results.length + cs.length ≤ 64) :
    (s.slvEndAll cs o n dur short).slv.results = s.slv.results ++ cs.map (fun c => { c.result o n dur with short := short }) := by
  induction cs generalizing s with
  | nil => exact (List.append_nil _).symm
  | cons c cs ih =>
    rw [List.length_cons] at hroom
    obtain ⟨hres, -, -⟩ := (s.slvResulted_slvEnd c o n dur short).1 (by omega)
    refine (ih (s.slvEnd c o n dur short) ?_).trans ?_
    · rw [hres, List.length_append, List.length_singleton]
      omega
    · rw [hres, List.append_assoc]
      rfl

/-! ### Shortfall records -/

/-- The shortfalls `l` join the FIFO, and nothing else but pending bits changes. -/
def State.tookShorts (s u : State) (l : List Short) : Prop := s.regsEvt u [] ∧
  u = { s with regs := u.regs, evt := u.evt, slv := { s.slv with shorts := s.slv.shorts ++ l } }

theorem State.tookShorts_slvShort (s : State) (x : Short) (hroom : s.slv.shorts.length < 1024) :
    s.tookShorts (s.slvShort x) [x] := by
  unfold State.slvShort
  rw [if_pos hroom]
  exact ⟨State.regsEvt_fireIf _ 122 (State.regsEvt_mk State.regsEvt_refl) (by decide), by rw [State.fireIf_frame]⟩

theorem State.tookShorts_foldl (s : State) (l : List Short) (hroom : s.slv.shorts.length + l.length ≤ 1024) :
    s.tookShorts (l.foldl (fun u x => u.slvShort x) s) l := by
  induction l generalizing s with
  | nil => exact ⟨State.regsEvt_refl, by rw [List.append_nil]; rfl⟩
  | cons x l ih =>
    rw [List.length_cons] at hroom
    obtain ⟨hregs, hframe⟩ := s.tookShorts_slvShort x (by omega)
    have hshorts : (s.slvShort x).slv.shorts = s.slv.shorts ++ [x] := by rw [hframe]
    obtain ⟨hregs', hframe'⟩ := ih (s.slvShort x) (by rw [hshorts, List.length_append, List.length_singleton]; omega)
    rw [List.foldl_cons]
    refine ⟨State.regsEvt_trans hregs hregs', ?_⟩
    generalize l.foldl (fun u x => u.slvShort x) (s.slvShort x) = v at hframe' ⊢
    rw [hframe', hshorts, List.append_assoc]
    generalize s.slvShort x = u at hframe ⊢
    rw [hframe]
    rfl

theorem State.slvShorts_room (s : State) (l : List Short) (hroom : s.slv.shorts.length + l.length ≤ 1024) :
    (s.slvShorts l).1 = l.length ∧ s.tookShorts (s.slvShorts l).2 l := by
  have htook := s.tookShorts_foldl l hroom
  refine ⟨?_, htook⟩
  have hshorts : (l.foldl (fun u x => u.slvShort x) s).slv.shorts = s.slv.shorts ++ l := by rw [htook.2]
  change (l.foldl (fun u x => u.slvShort x) s).slv.shorts.length - s.slv.shorts.length = l.length
  rw [hshorts, List.length_append, Nat.add_sub_cancel_left]

end Sys2Proof.Machine
end

section
/-! The cells of nodes (R222, R223, R232, R238): what a change of a node's set, and its end, leave. -/

namespace Sys2Proof.Machine

/-- Nothing but the sets of nodes, what waits for one, the staged patches and their counter changes. -/
def State.onlySets (s u : State) : Prop := s.regsBut u (halves Ctr.SLV_PATCHES) ∧
  u = { s with regs := u.regs, msq := u.msq, slv := { s.slv with nodes := u.slv.nodes, waiting := u.slv.waiting } }

theorem State.onlySets_refl (s : State) : s.onlySets s := ⟨State.regsBut_refl, rfl⟩

theorem State.onlySets_trans {s u v : State} (h : s.onlySets u) (h' : u.onlySets v) : s.onlySets v := by
  obtain ⟨hregs, hframe⟩ := h
  obtain ⟨hregs', hframe'⟩ := h'
  refine ⟨fun a ha => (hregs' a ha).trans (hregs a ha), ?_⟩
  rw [hframe] at hframe'
  exact hframe'

theorem State.onlySets_putSets (s : State) (n : Nat) (x : NodeSets) : s.onlySets (s.putSets n x) := ⟨State.regsBut_refl, rfl⟩

/-- The changes `w` that wait for a confirmation. -/
def State.withWaiting (s : State) (w : List Placement) : State := { s with slv := { s.slv with waiting := w } }

theorem State.onlySets_withWaiting (s : State) (w : List Placement) : s.onlySets (s.withWaiting w) := ⟨State.regsBut_refl, rfl⟩

theorem State.onlySets_stagePatch (s : State) (p : Patch) : s.onlySets (s.stagePatch p) :=
  ⟨State.regsBut_mk (State.regsBut_bump _ _ State.regsBut_refl (by decide) (by decide)), rfl⟩

theorem State.onlySets_newSet (s : State) (p : Placement) : s.onlySets (s.newSet p) :=
  State.onlySets_trans (s.onlySets_putSets _ _) (State.onlySets_stagePatch _ _)

theorem State.changeSet_waits (s : State) (p : Placement) (h : 2 ≤ s.unconfirmed p.node) :
    s.changeSet p = s.withWaiting (s.slv.waiting.filter (fun q => q.node != p.node) ++ [p]) :=
  if_neg (Nat.not_lt.mpr h)

theorem State.changeSet_now (s : State) (p : Placement) (h : s.unconfirmed p.node < 2) : s.changeSet p = s.newSet p := if_pos h

theorem State.onlySets_changeSet (s : State) (p : Placement) : s.onlySets (s.changeSet p) := by
  rcases Nat.lt_or_ge (s.unconfirmed p.node) 2 with h | h
  · rw [State.changeSet_now s p h]
    exact s.onlySets_newSet p
  · rw [State.changeSet_waits s p h]
    exact s.onlySets_withWaiting _

/-- What empties the set of a node (R237). -/
def State.emptySet (s : State) (node : Nat) : Placement :=
  { node := node, record := (s.nodeSets node).record, cells := [], sw := 0, par := 0, dep := 0, ec := 0 }

/-- A node is left with shared cells: what waits of it goes, and where it has cells its next set has none (R237, R239). -/
theorem State.dropNode_eq (s : State) (node : Nat) : s.dropNode node =
    if s.cellsNow node = [] then s.withWaiting (s.slv.waiting.filter (fun q => q.node != node))
    else (s.withWaiting (s.slv.waiting.filter (fun q => q.node != node))).changeSet (s.emptySet node) := by
  unfold State.dropNode
  exact if_congr List.isEmpty_iff rfl rfl

theorem State.onlySets_dropNode (s : State) (node : Nat) : s.onlySets (s.dropNode node) := by
  rw [State.dropNode_eq]
  split
  · exact s.onlySets_withWaiting _
  · exact State.onlySets_trans (s.onlySets_withWaiting _) (State.onlySets_changeSet _ _)

/-- What a solve's result changes in the schedule changes nothing else (R234). -/
theorem State.onlySets_solveStaged (s : State) (x : SolveResult) : s.onlySets (s.solveStaged x) := by
  unfold State.solveStaged
  have hsets : s.onlySets (x.sets.foldl (fun u p => u.changeSet p) s) :=
    List.foldlRecOn (motive := fun u : State => s.onlySets u) x.sets _ s.onlySets_refl fun u hu p _ =>
      State.onlySets_trans hu (u.onlySets_changeSet p)
  exact List.foldlRecOn (motive := fun u : State => s.onlySets u) x.clear _ hsets fun u hu n _ =>
    State.onlySets_trans hu (u.onlySets_dropNode n)

/-- Changes of sets leave the counters of SLV's commands alone. -/
theorem State.ctr_onlySets {s u : State} (h : s.onlySets u) {c : Nat} (hlo : c ∉ halves Ctr.SLV_PATCHES)
    (hhi : c + 4 ∉ halves Ctr.SLV_PATCHES) : u.ctr c = s.ctr c := by
  unfold State.ctr
  rw [h.1 c hlo, h.1 (c + 4) hhi]

/-! ### Patches -/

/-- A change of up to 64 cells is one patch (R223). -/
theorem State.stagePatch_small (s : State) (p : Patch) (h : p.del.length + p.add.length ≤ 64) :
    s.stagePatch p = { s.bump Ctr.SLV_PATCHES with msq := { s.msq with patches := s.msq.patches ++ [p] } } := by
  have hone : patchParts p = [p] := if_pos h
  unfold State.stagePatch
  rw [hone]
  rfl

/-- What a placement makes the node's newest set (R230, R236). -/
def State.setOf (s : State) (p : Placement) : CellSet :=
  { setid := ((s.nodeSets p.node).setid + 1) % 256, ec := max p.ec (s.ec + 1), cells := p.cells, confirmed := false, tries := 0,
    pkt := none, ar := false }

/-- The patch of a placement (R223, R236). -/
def State.patchOf (s : State) (p : Placement) : Patch :=
  { del := [], add := p.cells.filter (fun c => !s.cellsAhead.contains c),
    links := if p.cells.isEmpty then [] else [(p.record, p.sw, p.par, p.dep)],
    send := [(p.node, ((s.nodeSets p.node).setid + 1) % 256)] }

/-- The sets of a node with that of a placement. -/
def State.setsWith (s : State) (p : Placement) : NodeSets :=
  { record := p.record, setid := ((s.nodeSets p.node).setid + 1) % 256, sets := (s.nodeSets p.node).sets ++ [s.setOf p] }

theorem State.newSet_eq (s : State) (p : Placement) :
    s.newSet p = (s.putSets p.node (s.setsWith p)).stagePatch (s.patchOf p) := rfl

theorem State.newSet_small (s : State) (p : Placement) (h : p.cells.length ≤ 64) :
    (s.newSet p).msq = { s.msq with patches := s.msq.patches ++ [s.patchOf p] } ∧
      (s.newSet p).slv = { s.slv with nodes := s.slv.nodes.put p.node (s.setsWith p) } ∧
      (s.newSet p).ctr Ctr.SLV_PATCHES = (s.ctr Ctr.SLV_PATCHES + 1) % 2 ^ 48 := by
  have hlen : (s.patchOf p).del.length + (s.patchOf p).add.length ≤ 64 := by
    refine Nat.le_trans (Nat.le_of_eq (Nat.zero_add _)) (Nat.le_trans (List.length_filter_le _ _) h)
  rw [State.newSet_eq, State.stagePatch_small _ _ hlen]
  exact ⟨rfl, rfl, (State.ctr_mk _ _).trans (State.ctr_bump_same _ _ 1)⟩

/-- The cells of all sets of a node (R232). -/
def State.goneCells (s : State) (node : Nat) : List Cell := ((s.nodeSets node).sets.flatMap (fun x => x.cells)).eraseDups

theorem State.clearNode_empty (s : State) (node : Nat) (h : (s.nodeSets node).sets.flatMap (fun x => x.cells) = []) :
    s.clearNode node = (s.withWaiting (s.slv.waiting.filter (fun q => q.node != node))).putSets node
      { s.nodeSets node with sets := [] } := by
  unfold State.clearNode
  dsimp only
  rw [h]
  rfl

/-- The sets of a node whose cells go at once: one that is empty and that no confirmation is awaited for (R232, R237). -/
def State.emptiedSets (s : State) (node : Nat) : NodeSets :=
  { s.nodeSets node with
    setid := ((s.nodeSets node).setid + 1) % 256, sets := [{
      setid := ((s.nodeSets node).setid + 1) % 256, ec := s.ec + 1, cells := [], confirmed := true, tries := 0, pkt := none,
      ar := false }] }

/-- The patch that takes every cell of a node away (R232, R236). -/
def State.gonePatch (s : State) (node : Nat) : Patch :=
  { del := s.goneCells node, add := [], links := [], send := [(node, ((s.nodeSets node).setid + 1) % 256)] }

theorem State.clearNode_some (s : State) (node : Nat) (hsome : s.goneCells node ≠ []) :
    s.clearNode node = ((s.withWaiting (s.slv.waiting.filter (fun q => q.node != node))).putSets node (s.emptiedSets node)).stagePatch
      (s.gonePatch node) :=
  if_neg fun hempty => hsome (List.isEmpty_iff.mp hempty)

theorem State.clearNode_small (s : State) (node : Nat) (hsome : s.goneCells node ≠ []) (hlen : (s.goneCells node).length ≤ 64) :
    (s.clearNode node).msq = { s.msq with patches := s.msq.patches ++ [s.gonePatch node] } ∧
      (s.clearNode node).slv = { s.slv with
        waiting := s.slv.waiting.filter (fun q => q.node != node), nodes := s.slv.nodes.put node (s.emptiedSets node) } ∧
      (s.clearNode node).ctr Ctr.SLV_PATCHES = (s.ctr Ctr.SLV_PATCHES + 1) % 2 ^ 48 := by
  rw [State.clearNode_some s node hsome, State.stagePatch_small _ (s.gonePatch node) hlen]
  exact ⟨rfl, rfl, (State.ctr_mk _ _).trans (State.ctr_bump_same _ _ 1)⟩

theorem State.onlySets_clearNode (s : State) (node : Nat) : s.onlySets (s.clearNode node) := by
  have hwait := s.onlySets_withWaiting (s.slv.waiting.filter (fun q => q.node != node))
  unfold State.clearNode
  dsimp only
  split
  · exact State.onlySets_trans hwait (State.onlySets_putSets _ _ _)
  · exact State.onlySets_trans hwait (State.onlySets_trans (State.onlySets_putSets _ _ _) (State.onlySets_stagePatch _ _))

end Sys2Proof.Machine
end

section
/-! SLV's command queue (R232): which command it takes, and what it then acts on. -/

namespace Sys2Proof.Machine

/-- A command's OP is one of the table of R232. -/
def SlvCmd.known (c : SlvCmd) : Bool := c.op != 0 && Nat.ble c.op 8

theorem SlvCmd.known_eq_false {c : SlvCmd} : c.known = false ↔ c.op = 0 ∨ 8 < c.op := by
  rw [SlvCmd.known, Bool.and_eq_false_iff, bne_eq_false_iff_eq, ← Bool.not_eq_true (Nat.ble c.op 8), Nat.ble_eq, Nat.not_le]

theorem State.slvEnd_cmds (s : State) (c : SlvCmd) (o n dur short : Nat) : (s.slvEnd c o n dur short).slv.cmds = s.slv.cmds :=
  (congrArg (fun u : State => u.slv.cmds) (s.onlyResults_slvEnd c o n dur short).2).trans rfl

theorem State.slvEnd_solve (s : State) (c : SlvCmd) (o n dur short : Nat) : (s.slvEnd c o n dur short).slv.solve = s.slv.solve :=
  (congrArg (fun u : State => u.slv.solve) (s.onlyResults_slvEnd c o n dur short).2).trans rfl

/-- The front of the queue is its first command of a known OP. -/
theorem State.head_slvSkip (s : State) (f : Nat) (hlen : s.slv.cmds.length ≤ f) :
    (s.slvSkip f).slv.cmds.head? = s.slv.cmds.find? SlvCmd.known := by
  induction f generalizing s with
  | zero =>
    rw [List.eq_nil_of_length_eq_zero (Nat.le_zero.mp hlen)]
    exact congrArg List.head? (List.eq_nil_of_length_eq_zero (Nat.le_zero.mp hlen))
  | succ f ih =>
    unfold State.slvSkip
    cases hc : s.slv.cmds with
    | nil => exact congrArg List.head? hc
    | cons c rest =>
      rw [hc, List.length_cons] at hlen
      dsimp only
      cases hk : c.known with
      | false =>
        rw [if_pos (SlvCmd.known_eq_false.mp hk), List.find?_cons_of_neg (by rw [hk]; exact Bool.false_ne_true), ih, State.slvEnd_cmds]
        rw [State.slvEnd_cmds]
        exact Nat.le_of_succ_le_succ hlen
      | true =>
        rw [if_neg (fun h => absurd (SlvCmd.known_eq_false.mpr h) (by rw [hk]; decide)), List.find?_cons_of_pos hk, hc]
        rfl

theorem State.slvSkip_solve (s : State) (f : Nat) : (s.slvSkip f).slv.solve = s.slv.solve := by
  induction f generalizing s with
  | zero => rfl
  | succ f ih =>
    unfold State.slvSkip
    cases hc : s.slv.cmds with
    | nil => rfl
    | cons c rest =>
      dsimp only
      split
      · rw [ih, State.slvEnd_solve]
      · rfl

theorem State.head_slvFront (s : State) (t : Time) :
    (s.slvFront t).slv.cmds.head? = s.slv.cmds.find? (fun c => c.op != 0 && Nat.ble c.op 8) :=
  State.head_slvSkip (s.at t) _ (Nat.le_refl _)

/-! ### The staged set of group 0 -/

theorem State.activate_slv (s : State) (st : Staged) : (s.activate st).slv = s.slv := by
  unfold State.activate
  dsimp only
  rw [State.setFld_slv, State.setFld_slv, State.unstage_slv]
  exact List.foldlRecOn (motive := fun u : State => u.slv = s.slv) _ _ rfl fun u hu r _ => hu

/-- SLV's parameters take effect with nothing that follows. -/
theorem State.afterCommit_slv (s old : State) {st : Staged} (h : st.unit = 9) : s.afterCommit old st = s := by
  unfold State.afterCommit
  simp [h]

theorem State.commitAt_slv_slv (s : State) (g : Nat) : (s.commitAt 9 g).slv = s.slv := by
  cases hf : s.staged.find? (fun x => x.unit == 9 && x.grp == g) with
  | none => rw [State.commitAt_none hf]
  | some st =>
    have hunit : st.unit = 9 := by
      have hfound := List.find?_some hf
      simp only [Bool.and_eq_true, beq_iff_eq] at hfound
      exact hfound.1
    cases hok : s.commitOk st with
    | true => rw [State.commitAt_activates hf hok, State.afterCommit_slv _ _ hunit, State.activate_slv]
    | false =>
      obtain ⟨v, hv, hcommit, -, -⟩ := State.commitAt_rejects hf hok
      rw [hcommit, State.fire_slv, hv, State.setFld_slv, State.unstage_slv]

/-! ### The command that SLV takes -/

section
variable {s v : State} {t : Time} {op dur : Nat} {act : State → SlvCmd → State} {c : SlvCmd} {o : Nat}

/-- What ends every command before it runs (R232). -/
theorem State.slvBar_barred (h : v.on F.SLV_CFG_EN = false ∧ o = 7 ∨ v.on F.SLV_CFG_EN = true ∧ v.keel = true ∧ o = 5) :
    v.slvBar = some o := by
  unfold State.slvBar
  rcases h with ⟨hen, rfl⟩ | ⟨hen, hkeel, rfl⟩
  · rw [hen]
    rfl
  · rw [hen, hkeel]
    rfl

theorem State.slvRun_off (h : s.domReady 15 = false ∨ s.level ≠ 2 ∨ op ≠ 1 ∧ s.slv.asked ≠ none) : s.slvRun op dur act = s := by
  refine if_pos ?_
  rcases h with h | h | ⟨hop, hasked⟩
  · rw [h]
    rfl
  · rw [bne_iff_ne.mpr h, Bool.true_or, Bool.or_true]
  · rw [bne_iff_ne.mpr hop, Option.isSome_iff_ne_none.mpr hasked, Bool.and_self, Bool.or_true, Bool.or_true]

/-- SLV's engine is free for the command (R5, R407). -/
theorem State.slvRun_guard (hdom : s.domReady 15 = true) (hlevel : s.level = 2) (hasked : op = 1 ∨ s.slv.asked = none) :
    ¬ (!s.domReady 15 || (s.level != 2 || (op != 1 && s.slv.asked.isSome))) = true := by
  rw [hdom, hlevel]
  rcases hasked with h | h <;> simp [h]

theorem State.slvRun_front (hdom : s.domReady 15 = true) (hlevel : s.level = 2) (hasked : op = 1 ∨ s.slv.asked = none)
    (hop : ∀ c, (s.slvFront t).slv.cmds.head? = some c → c.op ≠ op) : (s.at t).slvRun op dur act = s.slvFront t := by
  refine (if_neg (State.slvRun_guard (s := s.at t) hdom hlevel hasked)).trans ?_
  change (match (s.slvFront t).slv.cmds with | [] => _ | c :: rest => _) = _
  cases hc : (s.slvFront t).slv.cmds with
  | nil => rfl
  | cons c rest => exact if_pos (hop c (congrArg List.head? hc))

theorem State.slvBar_elim (v : State) (c : SlvCmd) :
    (match v.slvBar with
      | some o => v.slvEnd c o 0 dur
      | none => act v c) = v.slvBar.elim (act v c) (fun o => v.slvEnd c o 0 dur) := by
  cases v.slvBar with
  | none => rfl
  | some o => rfl

/-- A command that SLV takes ends as it is barred, or acts. -/
theorem State.slvRun_takes (h : s.slvTakes t op c v) :
    (s.at t).slvRun op dur act = v.slvBar.elim (act v c) (fun o => v.slvEnd c o 0 dur) := by
  obtain ⟨hdom, hlevel, hasked, hhead, hop, hv⟩ := h
  refine (if_neg (State.slvRun_guard (s := s.at t) hdom hlevel hasked)).trans ?_
  obtain ⟨rest, hc⟩ := List.head?_eq_some_iff.mp hhead
  change (match (s.slvFront t).slv.cmds with | [] => _ | c :: rest => _) = _
  subst hv
  rw [hc]
  exact (if_neg (not_not.mpr hop)).trans (State.slvBar_elim _ c)

theorem State.slvRun_acts (h : s.slvTakes t op c v) (hbar : v.slvBar = none) : (s.at t).slvRun op dur act = act v c := by
  rw [State.slvRun_takes h, hbar]
  rfl

theorem State.slvRun_barred (h : s.slvTakes t op c v)
    (ho : v.on F.SLV_CFG_EN = false ∧ o = 7 ∨ v.on F.SLV_CFG_EN = true ∧ v.keel = true ∧ o = 5) :
    (s.at t).slvRun op dur act = v.slvEnd c o 0 dur := by
  rw [State.slvRun_takes h, State.slvBar_barred ho]
  rfl

/-- What runs on the full engine is not what the queue decides. -/
theorem State.slvTakes_solve (h : s.slvTakes t op c v) : v.slv.solve = s.slv.solve := by
  obtain ⟨-, -, -, -, -, rfl⟩ := h
  rw [State.commitAt_slv_slv]
  exact (s.at t).slvSkip_solve _

/-- The end of a command changes the result FIFO alone. -/
theorem State.slvEnd_result (c : SlvCmd) (o dur : Nat) : v.slvResulted (v.slvEnd c o 0 dur) (c.result o 0 dur) ∧
    v.regsEvt (v.slvEnd c o 0 dur) (halves Ctr.SLV_RQOVF) ∧
    v.slvEnd c o 0 dur = { v with
      regs := (v.slvEnd c o 0 dur).regs, evt := (v.slvEnd c o 0 dur).evt,
      slv := { v.slv with results := (v.slvEnd c o 0 dur).slv.results } } :=
  ⟨v.slvResulted_slvEnd c o 0 dur 0, v.onlyResults_slvEnd c o 0 dur 0⟩

end

end Sys2Proof.Machine
end

section
/-! SLV's JOIN and LEAVE (R231, R232, R239), for `Obligations.SlvSchedule`. -/

namespace Sys2Proof.Machine

/-! ### A state beside another with other shortfall records -/

/-- `u` is `s` but for shortfall records and pending bits. -/
def State.shortsAside (s u : State) : Prop := s.regsEvt u [] ∧
  u = { s with regs := u.regs, evt := u.evt, slv := { s.slv with shorts := u.slv.shorts } }

theorem State.regsEvt_setReg_both {s u : State} {l : List Nat} (h : s.regsEvt u l) (a : Nat) (v : Word) :
    (s.setReg a v).regsEvt (u.setReg a v) l := fun x hx hp => by
  by_cases hxa : x = a
  · rw [hxa, State.reg_setReg_same, State.reg_setReg_same]
  · rw [State.reg_setReg_ne _ _ _ _ hxa, State.reg_setReg_ne _ _ _ _ hxa, h x hx hp]

theorem State.regsEvt_bump_both {s u : State} {l : List Nat} (h : s.regsEvt u l) {c : Nat} (hc : u.ctr c = s.ctr c) (n : Nat) :
    (s.bump c n).regsEvt (u.bump c n) l := by
  unfold State.bump State.setCtr
  rw [hc]
  exact State.regsEvt_setReg_both (State.regsEvt_setReg_both h _ _) _ _

section
variable {s u : State}

theorem State.shortsAside_putSets (h : s.shortsAside u) (n : Nat) (x : NodeSets) : (s.putSets n x).shortsAside (u.putSets n x) := by
  obtain ⟨hregs, hframe⟩ := h
  refine ⟨hregs, ?_⟩
  unfold State.putSets
  rw [hframe]

theorem State.shortsAside_withWaiting (h : s.shortsAside u) (w : List Placement) :
    (s.withWaiting w).shortsAside (u.withWaiting w) := by
  obtain ⟨hregs, hframe⟩ := h
  refine ⟨hregs, ?_⟩
  unfold State.withWaiting
  rw [hframe]

theorem State.shortsAside_stagePatch (h : s.shortsAside u) (p : Patch) : (s.stagePatch p).shortsAside (u.stagePatch p) := by
  obtain ⟨hregs, hframe⟩ := h
  refine ⟨State.regsEvt_bump_both hregs (State.ctr_of_regsEvt hregs (by decide) (by decide) (by decide) (by decide)) _, ?_⟩
  have hs := s.bump_frame Ctr.SLV_PATCHES (patchParts p).length
  have hu := u.bump_frame Ctr.SLV_PATCHES (patchParts p).length
  unfold State.stagePatch
  generalize s.bump Ctr.SLV_PATCHES (patchParts p).length = s' at *
  generalize u.bump Ctr.SLV_PATCHES (patchParts p).length = u' at *
  rw [hs, hu, hframe]

theorem State.shortsAside_ec (h : s.shortsAside u) : u.ec = s.ec := by
  obtain ⟨hregs, hframe⟩ := h
  have hspc : u.spc = s.spc := by
    unfold State.spc
    rw [State.fld_of_regsEvt hregs (List.not_mem_nil) (by decide)]
  unfold State.ec
  rw [hspc, hframe]

theorem State.shortsAside_newSet (h : s.shortsAside u) (p : Placement) : (s.newSet p).shortsAside (u.newSet p) := by
  have hec := State.shortsAside_ec h
  have hsets : u.nodeSets p.node = s.nodeSets p.node := by
    rw [h.2]
    rfl
  have hpatch : u.patchOf p = s.patchOf p := by
    unfold State.patchOf
    rw [hsets, h.2]
    rfl
  have hwith : u.setsWith p = s.setsWith p := by
    unfold State.setsWith State.setOf
    rw [hsets, hec]
  rw [State.newSet_eq, State.newSet_eq, hpatch, hwith]
  exact State.shortsAside_stagePatch (State.shortsAside_putSets h _ _) _

/-- A change of a node does not look at the shortfall records. -/
theorem State.shortsAside_changeSet (h : s.shortsAside u) (p : Placement) : (s.changeSet p).shortsAside (u.changeSet p) := by
  have hun : u.unconfirmed p.node = s.unconfirmed p.node := by
    rw [h.2]
    rfl
  rcases Nat.lt_or_ge (s.unconfirmed p.node) 2 with hlt | hge
  · rw [State.changeSet_now s p hlt, State.changeSet_now u p (by rw [hun]; exact hlt)]
    exact State.shortsAside_newSet h p
  · rw [State.changeSet_waits s p hge, State.changeSet_waits u p (by rw [hun]; exact hge), h.2]
    exact State.shortsAside_withWaiting (h.2 ▸ h) _

end

/-! ### JOIN's outcomes -/

/-- A change during a full solve joins its log (R234). -/
theorem State.slvLog_eq (s : State) (j : Bool) (n : Nat) : s.slvLog j n =
    { s with slv := { s.slv with solve := s.slv.solve.map (fun x => { x with log := x.log ++ [⟨j, n⟩] }) } } := by
  unfold State.slvLog
  cases hs : s.slv.solve with
  | none =>
    change s = { s with slv := { s.slv with solve := none } }
    rw [← hs]
  | some r => rfl

/-- A JOIN that took the placement `p`, before its end (R232, R239). -/
def State.joined (v : State) (node : Nat) (p : Placement) (l : List Short) : State :=
  (((v.slvShorts l).2.changeSet p).slvLog true node).bump Ctr.SLV_JOINS

theorem State.joinTake_full (v : State) (c : SlvCmd) (dur : Nat) (p : Placement) (h : v.cellRoom p = false) :
    v.joinTake c p dur = v.slvEnd c 8 0 dur := if_pos (by rw [h]; rfl)

theorem State.joinTake_room (v : State) (c : SlvCmd) (dur : Nat) (p : Placement) (h : v.cellRoom p = true)
    (hroom : v.slv.shorts.length + (v.shortNow c.node (v.planOf p) p.cells).length ≤ 1024) :
    v.joinTake c p dur = (v.joined c.node p (v.shortNow c.node (v.planOf p) p.cells)).slvEnd c 0 p.cells.length dur
      (v.shortNow c.node (v.planOf p) p.cells).length := by
  refine (if_neg (by rw [h]; exact Bool.false_ne_true)).trans ?_
  exact congrArg (fun n => (v.joined c.node p (v.shortNow c.node (v.planOf p) p.cells)).slvEnd c 0 p.cells.length dur n)
    (v.slvShorts_room _ hroom).1

/-- The set or the change that waits, the log, the shortfalls and the count: what a JOIN leaves beside its result. -/
theorem State.joined_result (v : State) (node : Nat) (p : Placement) (l : List Short) (hroom : v.slv.shorts.length + l.length ≤ 1024) :
    (v.joined node p l).slv.shorts = v.slv.shorts ++ l ∧
      (v.joined node p l).slv.solve = v.slv.solve.map (fun x => { x with log := x.log ++ [⟨true, node⟩] }) ∧
      (v.joined node p l).slv.results = v.slv.results ∧ (v.joined node p l).pwr = v.pwr ∧
      (v.joined node p l).ctr Ctr.SLV_JOINS = (v.ctr Ctr.SLV_JOINS + 1) % 2 ^ 48 ∧
      (v.joined node p l).ctr Ctr.SLV_RQOVF = v.ctr Ctr.SLV_RQOVF ∧
      (v.changeSet p).regsEvt (v.joined node p l) (halves Ctr.SLV_JOINS) ∧
      v.joined node p l = { v.changeSet p with
        regs := (v.joined node p l).regs, evt := (v.joined node p l).evt,
        slv := { (v.changeSet p).slv with solve := (v.joined node p l).slv.solve, shorts := (v.joined node p l).slv.shorts } } := by
  obtain ⟨-, htregs, htook⟩ := v.slvShorts_room l hroom
  have haside : v.shortsAside (v.slvShorts l).2 := ⟨htregs, by rw [htook]⟩
  have hshorts : (v.slvShorts l).2.slv.shorts = v.slv.shorts ++ l := by rw [htook]
  obtain ⟨hregs, hframe⟩ := State.shortsAside_changeSet haside p
  have hsets := v.onlySets_changeSet p
  have hsets' := (v.slvShorts l).2.onlySets_changeSet p
  have hctr : ∀ c, c ∉ halves Ctr.SLV_PATCHES → c + 4 ∉ halves Ctr.SLV_PATCHES → isPendReg c = false → isPendReg (c + 4) = false →
      ((v.slvShorts l).2.changeSet p).ctr c = v.ctr c := fun c hlo hhi hp hp' =>
    (State.ctr_of_regsEvt hregs List.not_mem_nil List.not_mem_nil hp hp').trans (State.ctr_onlySets hsets hlo hhi)
  have hjoins := hctr Ctr.SLV_JOINS (by decide) (by decide) (by decide) (by decide)
  have hovf := hctr Ctr.SLV_RQOVF (by decide) (by decide) (by decide) (by decide)
  obtain ⟨-, hsetsframe⟩ := hsets
  obtain ⟨-, hsetsframe'⟩ := hsets'
  unfold State.joined
  generalize (v.slvShorts l).2 = x at *
  generalize x.changeSet p = b at *
  generalize v.changeSet p = w at *
  rw [State.slvLog_eq]
  have hsolve : b.slv.solve = v.slv.solve := by rw [hframe, hsetsframe]
  refine ⟨?_, ?_, ?_, ?_, ?_, ?_, ?_, ?_⟩
  · rw [State.bump_slv, ← hshorts, hsetsframe']
  · rw [State.bump_slv, ← hsolve]
  · rw [State.bump_slv, hframe, hsetsframe]
  · rw [State.bump_pwr, hframe, hsetsframe]
  · rw [State.ctr_bump_same, State.ctr_mk, hjoins]
  · rw [State.ctr_bump_ne _ _ _ _ (by decide) (by decide) (by decide), State.ctr_mk, hovf]
  · exact State.regsEvt_bump _ _ (State.regsEvt_mk (State.regsEvt_mono hregs (List.nil_subset _))) (by decide) (by decide)
  · have hbump := State.bump_frame { b with slv := { b.slv with
      solve := b.slv.solve.map (fun x => { x with log := x.log ++ [⟨true, node⟩] }) } } Ctr.SLV_JOINS 1
    generalize State.bump _ Ctr.SLV_JOINS 1 = y at *
    rw [hbump, hframe]

/-- What a JOIN that takes a placement leaves (R232, R239, R242). -/
theorem State.joinTake_result (v : State) (c : SlvCmd) (dur : Nat) (p : Placement) (l : List Short)
    (hl : l = v.shortNow c.node (v.planOf p) p.cells) (h : v.cellRoom p = true) (hroom : v.slv.shorts.length + l.length ≤ 1024) :
    v.slvResulted (v.joinTake c p dur) { c.result 0 p.cells.length dur with short := l.length } ∧
      (v.joinTake c p dur).slv.shorts = v.slv.shorts ++ l ∧
      (v.joinTake c p dur).slv.solve = v.slv.solve.map (fun x => { x with log := x.log ++ [⟨true, c.node⟩] }) ∧
      (v.joinTake c p dur).ctr Ctr.SLV_JOINS = (v.ctr Ctr.SLV_JOINS + 1) % 2 ^ 48 ∧
      (v.changeSet p).regsEvt (v.joinTake c p dur) (halves Ctr.SLV_JOINS ++ halves Ctr.SLV_RQOVF) ∧
      v.joinTake c p dur = { v.changeSet p with
        regs := (v.joinTake c p dur).regs, evt := (v.joinTake c p dur).evt,
        slv := { (v.changeSet p).slv with
          solve := (v.joinTake c p dur).slv.solve, results := (v.joinTake c p dur).slv.results,
          shorts := (v.joinTake c p dur).slv.shorts } } := by
  subst hl
  rw [State.joinTake_room v c dur p h hroom]
  obtain ⟨hshorts, hsolve, hres, hpwr, hjoins, hovf, hregs, hframe⟩ := v.joined_result c.node p _ hroom
  generalize v.joined c.node p (v.shortNow c.node (v.planOf p) p.cells) = d at *
  have hended := d.slvResulted_slvEnd c 0 p.cells.length dur (v.shortNow c.node (v.planOf p) p.cells).length
  obtain ⟨heregs, heframe⟩ := d.onlyResults_slvEnd c 0 p.cells.length dur (v.shortNow c.node (v.planOf p) p.cells).length
  generalize d.slvEnd c 0 p.cells.length dur (v.shortNow c.node (v.planOf p) p.cells).length = u at *
  refine ⟨State.slvResulted_of hended hres hovf hpwr, ?_, ?_, ?_, ?_, ?_⟩
  · rw [heframe]
    exact hshorts
  · rw [heframe]
    exact hsolve
  · exact (State.ctr_of_regsEvt heregs (by decide) (by decide) (by decide) (by decide)).trans hjoins
  · exact State.regsEvt_trans (State.regsEvt_mono hregs (List.subset_append_left _ _))
      (State.regsEvt_mono heregs (List.subset_append_right _ _))
  · rw [heframe, hframe]

/-! ### A JOIN that finds nothing -/

/-- The SOLVE that SLV queues itself (R233, R239). -/
def ownSolve : SlvCmd := { op := 1, node := 0, tag := 0, data := [], rq := ⟨.sup, true⟩, sec := true, own := true }

theorem State.slvOwnSolve_room (s : State) (h : s.slv.cmds.length < 16) :
    s.slvOwnSolve = { s with slv := { s.slv with cmds := s.slv.cmds ++ [ownSolve] } } := if_pos h

theorem State.slvOwnSolve_full (s : State) (h : 16 ≤ s.slv.cmds.length) : s.slvOwnSolve = s := if_neg (Nat.not_lt.mpr h)

/-- AUTOSOLVE queues a SOLVE where the queue has room. -/
theorem State.slvOwnSolve_if (s : State) (b : Bool) : (if b = true then s.slvOwnSolve else s) =
    { s with slv := { s.slv with cmds := s.slv.cmds ++ (if b = true ∧ s.slv.cmds.length < 16 then [ownSolve] else []) } } := by
  rcases Nat.lt_or_ge s.slv.cmds.length 16 with hroom | hfull
  · cases b with
    | true => rw [if_pos rfl, if_pos ⟨rfl, hroom⟩, State.slvOwnSolve_room s hroom]
    | false => rw [if_neg Bool.false_ne_true, if_neg (fun h => Bool.false_ne_true h.1), List.append_nil]
  · rw [State.slvOwnSolve_full s hfull, ite_self, if_neg (fun h => absurd h.2 (Nat.not_lt.mpr hfull)), List.append_nil]

/-- A JOIN without a placement, before AUTOSOLVE is asked (R239). -/
def State.unfit (v : State) (c : SlvCmd) (dur : Nat) (l : List Short) : State :=
  ((((v.dropNode c.node).slvShorts l).2.bump Ctr.SLV_NOFIT).slvEnd c 2 0 dur l.length).fire 124

theorem State.noFit_eq (v : State) (c : SlvCmd) (dur : Nat) (l : List Short) (hl : l = v.shortNow c.node {} [])
    (hroom : v.slv.shorts.length + l.length ≤ 1024) : v.noFit c dur =
      { v.unfit c dur l with slv := { (v.unfit c dur l).slv with
        cmds := (v.unfit c dur l).slv.cmds ++
          (if v.on F.SLV_CFG_AUTOSOLVE = true ∧ (v.unfit c dur l).slv.cmds.length < 16 then [ownSolve] else []) } } := by
  subst hl
  have hdrop : (v.dropNode c.node).slv.shorts = v.slv.shorts := by
    rw [(v.onlySets_dropNode c.node).2]
  have hn := ((v.dropNode c.node).slvShorts_room (v.shortNow c.node {} []) (by rw [hdrop]; exact hroom)).1
  rw [← State.slvOwnSolve_if]
  unfold State.noFit State.unfit
  dsimp only
  rw [hn]

theorem State.unfit_result (v : State) (c : SlvCmd) (dur : Nat) (l : List Short) (w : State) (hw : w = v.dropNode c.node)
    (hroom : v.slv.shorts.length + l.length ≤ 1024) :
    w.slvResulted (v.unfit c dur l) { c.result 2 0 dur with short := l.length } ∧
      (v.unfit c dur l).slv.shorts = w.slv.shorts ++ l ∧
      (v.unfit c dur l).ctr Ctr.SLV_NOFIT = (v.ctr Ctr.SLV_NOFIT + 1) % 2 ^ 48 ∧
      (v.sysOn → (v.unfit c dur l).isPend 124 = true) ∧
      w.regsEvt (v.unfit c dur l) (halves Ctr.SLV_NOFIT ++ halves Ctr.SLV_RQOVF) ∧
      v.unfit c dur l = { w with
        regs := (v.unfit c dur l).regs, evt := (v.unfit c dur l).evt,
        slv := { w.slv with results := (v.unfit c dur l).slv.results, shorts := (v.unfit c dur l).slv.shorts } } := by
  have hsets := v.onlySets_dropNode c.node
  rw [← hw] at hsets
  have hnofit := State.ctr_onlySets hsets (c := Ctr.SLV_NOFIT) (by decide) (by decide)
  obtain ⟨-, hsetsframe⟩ := hsets
  obtain ⟨-, hxregs, hxframe⟩ := w.slvShorts_room l (by rw [hsetsframe]; exact hroom)
  unfold State.unfit
  rw [← hw]
  generalize (w.slvShorts l).2 = x at *
  have hbregs : w.regsEvt (x.bump Ctr.SLV_NOFIT) (halves Ctr.SLV_NOFIT) :=
    State.regsEvt_bump _ _ (State.regsEvt_mono hxregs (List.nil_subset _)) (by decide) (by decide)
  have hbctr : (x.bump Ctr.SLV_NOFIT).ctr Ctr.SLV_NOFIT = (v.ctr Ctr.SLV_NOFIT + 1) % 2 ^ 48 := by
    rw [State.ctr_bump_same, State.ctr_of_regsEvt hxregs (List.not_mem_nil) (List.not_mem_nil) (by decide) (by decide), hnofit]
  have hbframe := x.bump_frame Ctr.SLV_NOFIT 1
  generalize x.bump Ctr.SLV_NOFIT = b at *
  have hended := b.slvResulted_slvEnd c 2 0 dur l.length
  obtain ⟨heregs, heframe⟩ := b.onlyResults_slvEnd c 2 0 dur l.length
  generalize b.slvEnd c 2 0 dur l.length = e at *
  have hon : v.sysOn → e.sysOn := State.sysOn_congr (by rw [heframe, hbframe, hxframe, hsetsframe])
  have hffire := e.isPend_fire 124
  have hfmono : ∀ k, e.isPend k = true → (e.fire 124).isPend k = true := fun k => e.isPend_fire_mono 124 k
  have hfctr : ∀ d, isPendReg d = false → isPendReg (d + 4) = false → (e.fire 124).ctr d = e.ctr d := fun d =>
    State.ctr_fire_ne e 124 d (by decide)
  have hfregs : w.regsEvt (e.fire 124) (halves Ctr.SLV_NOFIT ++ halves Ctr.SLV_RQOVF) :=
    State.regsEvt_fire 124 (State.regsEvt_trans (State.regsEvt_mono hbregs (List.subset_append_left _ _))
      (State.regsEvt_mono heregs (List.subset_append_right _ _))) (by decide)
  have hfframe := e.fire_frame 124
  generalize e.fire 124 = f at *
  refine ⟨State.slvResulted_of (State.slvResulted_then hended ?_ ?_ hfmono) ?_ ?_ ?_, ?_, ?_, fun hs => hffire (hon hs), hfregs, ?_⟩
  · rw [hfframe]
  · exact hfctr _ (by decide) (by decide)
  · rw [hbframe, hxframe]
  · exact State.ctr_of_regsEvt hbregs (by decide) (by decide) (by decide) (by decide)
  · rw [hbframe, hxframe]
  · rw [hfframe, heframe, hbframe, hxframe]
  · rw [hfctr _ (by decide) (by decide), State.ctr_of_regsEvt heregs (by decide) (by decide) (by decide) (by decide), hbctr]
  · rw [hfframe, heframe, hbframe, hxframe]

/-- A JOIN without a placement (R239). -/
theorem State.noFit_result (v : State) (c : SlvCmd) (dur : Nat) (w : State) (l : List Short) (hw : w = v.dropNode c.node)
    (hl : l = v.shortNow c.node {} []) (hroom : v.slv.shorts.length + l.length ≤ 1024) :
    ∃ u, u = v.noFit c dur ∧ w.slvResulted u { c.result 2 0 dur with short := l.length } ∧ u.slv.shorts = w.slv.shorts ++ l ∧
      u.slv.cmds = w.slv.cmds ++ (if v.on F.SLV_CFG_AUTOSOLVE = true ∧ w.slv.cmds.length < 16 then
        [{ op := 1, node := 0, tag := 0, data := [], rq := ⟨.sup, true⟩, sec := true, own := true }] else []) ∧
      u.ctr Ctr.SLV_NOFIT = (v.ctr Ctr.SLV_NOFIT + 1) % 2 ^ 48 ∧ (v.sysOn → u.isPend 124 = true) ∧
      w.regsEvt u (halves Ctr.SLV_NOFIT ++ halves Ctr.SLV_RQOVF) ∧
      u = { w with
        regs := u.regs, evt := u.evt,
        slv := { w.slv with cmds := u.slv.cmds, results := u.slv.results, shorts := u.slv.shorts } } := by
  obtain ⟨hres, hshorts, hctr, hpend, hregs, hframe⟩ := v.unfit_result c dur l w hw hroom
  have hcmds : (v.unfit c dur l).slv.cmds = w.slv.cmds := by rw [hframe]
  refine ⟨_, (State.noFit_eq v c dur l hl hroom).symm, ?_⟩
  rw [hcmds]
  generalize v.unfit c dur l = f at *
  refine ⟨State.slvResulted_then hres rfl (State.ctr_mk _ _) (fun k h => ?_), hshorts, rfl, (State.ctr_mk _ _).trans hctr,
    fun hs => ?_, State.regsEvt_mk hregs, ?_⟩
  · rw [← h]
    exact State.isPend_congr rfl k
  · rw [← hpend hs]
    exact State.isPend_congr rfl 124
  · rw [hframe]

/-! ### The placement that a JOIN takes (R228, R231) -/

/-- One candidate more: it is taken where it beats the one taken so far. -/
theorem bestOf_append_singleton (score : Placement → Score) (l : List Placement) (q : Placement) :
    bestOf score (l ++ [q]) = if ∀ p, bestOf score l = some p → (score q).beats (score p) = true then some q else bestOf score l := by
  have hstep : bestOf score (l ++ [q]) = match bestOf score l with
      | none => some q
      | some p => if (score q).beats (score p) then some q else some p := List.foldl_append
  rw [hstep]
  cases bestOf score l with
  | none => exact (if_pos (fun p hp => nomatch hp)).symm
  | some p =>
    refine if_congr ⟨fun h p' hp' => ?_, fun h => h p rfl⟩ rfl rfl
    rw [← Option.some.inj hp']
    exact h

theorem State.joinPick_nil (v : State) (node : Nat) : v.joinPick node [] = none := rfl

theorem State.joinPick_append (v : State) (node : Nat) (found : List Placement) (q : Placement) :
    v.joinPick node (found ++ [q]) =
      if q.node = node ∧ v.ofRecord q = true ∧ v.placeOk q v.planned = true ∧ (∀ p, v.joinPick node found = some p →
        (v.score (v.schedule [q])).beats (v.score (v.schedule [p])) = true) then some q else v.joinPick node found := by
  unfold State.joinPick
  rw [List.filter_append, List.filter_singleton]
  cases hfit : (q.node == node && (v.ofRecord q && v.placeOk q v.planned)) with
  | false =>
    rw [cond_false, List.append_nil, if_neg]
    rintro ⟨hnode, hrec, hok, -⟩
    rw [hrec, hok, beq_iff_eq.mpr hnode] at hfit
    exact Bool.noConfusion hfit
  | true =>
    rw [Bool.and_eq_true, Bool.and_eq_true, beq_iff_eq] at hfit
    obtain ⟨hnode, hrec, hok⟩ := hfit
    rw [cond_true, bestOf_append_singleton]
    exact if_congr ⟨fun h => ⟨hnode, hrec, hok, h⟩, fun h => h.2.2.2⟩ rfl rfl

/-! ### SLV_JOIN -/

/-- What a JOIN does where nothing bars it (R232, R239, R241). -/
def State.joinAct (u : State) (found : List Placement) (dur : Nat) (c : SlvCmd) : State :=
  if u.noAnchor && u.borderNode c.node then u.slvEnd c 4 0 dur
  else if u.isMember && u.borderNode c.node then
    ({ u with slv := { u.slv with asked := some (c, u.gtb.ft) } }).schedTo (u.fld F.CSC_STATUS_ANCHOR)
      [.ask c.node { u.nodePlan c.node with dem := u.demand c.node }]
  else match u.joinPick c.node found with
    | some p => u.joinTake c p dur
    | none => u.noFit c dur

section
variable {s v : State} {t : Time} {node tag dur : Nat} {found : List Placement} {c : SlvCmd}

theorem slvJoin_run (h : (s.slv.cmds.find? (fun c => c.op != 0 && Nat.ble c.op 8)).any
      (fun c => c.op == 2 && Nat.ble 2 ((s.at t).unconfirmed c.node)) = false) :
    exec (.slvJoin (.run t) node tag dur found) s = .next ((s.at t).slvRun 2 dur (fun u => u.joinAct found dur)) :=
  congrArg Host.Outcome.next (if_neg (ne_true_of_eq_false h))

/-- A JOIN waits while its node has two unconfirmed sets (R238). -/
theorem slvJoin_waits (hfront : s.slv.cmds.find? (fun c => c.op != 0 && Nat.ble c.op 8) = some c) (hop : c.op = 2)
    (hun : 2 ≤ (s.at t).unconfirmed c.node) : exec (.slvJoin (.run t) node tag dur found) s = .next (s.at t) := by
  refine congrArg Host.Outcome.next (if_pos ?_)
  rw [State.at_slv, hfront, Option.any_some, hop, Nat.ble_eq_true_of_le hun]
  rfl

theorem slvJoin_other (h : ∀ c, s.slv.cmds.find? (fun c => c.op != 0 && Nat.ble c.op 8) = some c → c.op ≠ 2) :
    exec (.slvJoin (.run t) node tag dur found) s = .next ((s.at t).slvRun 2 dur (fun u => u.joinAct found dur)) := by
  refine slvJoin_run ?_
  cases hfront : s.slv.cmds.find? (fun c => c.op != 0 && Nat.ble c.op 8) with
  | none => rfl
  | some c => rw [Option.any_some, beq_eq_false_iff_ne.mpr (h c hfront), Bool.false_and]

theorem slvJoin_takes (h : s.slvTakes t 2 c v) (hun : (s.at t).unconfirmed c.node < 2) :
    exec (.slvJoin (.run t) node tag dur found) s = .next ((s.at t).slvRun 2 dur (fun u => u.joinAct found dur)) := by
  refine slvJoin_run ?_
  obtain ⟨-, -, -, hhead, -, -⟩ := h
  rw [State.head_slvFront] at hhead
  rw [hhead, Option.any_some, Bool.and_eq_false_iff]
  exact Or.inr (by rw [← Bool.not_eq_true, Nat.ble_eq]; exact Nat.not_le.mpr hun)

/-- SLV off, below SL2, or asking the anchor takes no JOIN (R5, R241). -/
theorem slvJoin_off (h : s.domReady 15 = false ∨ s.level ≠ 2 ∨ s.slv.asked ≠ none) :
    exec (.slvJoin (.run t) node tag dur found) s = .next (s.at t) := by
  have hoff : (s.at t).slvRun 2 dur (fun u => u.joinAct found dur) = s.at t :=
    State.slvRun_off (s := s.at t) (h.imp id (Or.imp id fun hasked => ⟨by decide, hasked⟩))
  refine congrArg Host.Outcome.next ((congrArg (ite _ (s.at t)) hoff).trans (ite_self _))

theorem State.joinAct_noAnchor (hb : v.borderNode c.node = true) (ha : v.noAnchor = true) :
    v.joinAct found dur c = v.slvEnd c 4 0 dur := if_pos (by rw [hb, ha]; rfl)

theorem State.joinAct_asks (hb : v.borderNode c.node = true) (ha : v.noAnchor = false) (hm : v.isMember = true) :
    v.joinAct found dur c = { v with slv := { v.slv with
      asked := some (c, v.gtb.ft), out := v.slv.out ++ [(v.fld F.CSC_STATUS_ANCHOR,
        .ask c.node { v.nodePlan c.node with dem := v.demand c.node })] } } := by
  refine (if_neg (by rw [ha]; exact Bool.false_ne_true)).trans ((if_pos (by rw [hb, hm]; rfl)).trans rfl)

theorem State.joinAct_places (h : v.borderNode c.node = true → v.noAnchor = false ∧ v.isMember = false) :
    v.joinAct found dur c = (v.joinPick c.node found).elim (v.noFit c dur) (fun p => v.joinTake c p dur) := by
  have hno : ¬ (v.noAnchor && v.borderNode c.node) = true := fun hand => by
    obtain ⟨hna, hb⟩ := Bool.and_eq_true_iff.mp hand
    exact Bool.false_ne_true ((h hb).1.symm.trans hna)
  have hmem : ¬ (v.isMember && v.borderNode c.node) = true := fun hand => by
    obtain ⟨hm, hb⟩ := Bool.and_eq_true_iff.mp hand
    exact Bool.false_ne_true ((h hb).2.symm.trans hm)
  refine (if_neg hno).trans ((if_neg hmem).trans ?_)
  cases v.joinPick c.node found with
  | none => rfl
  | some p => rfl

end

/-! ### SLV_LEAVE -/

/-- What a LEAVE changes before its end (R232, R234). -/
def State.departed (v : State) (node : Nat) : State := ((v.clearNode node).slvLog false node).bump Ctr.SLV_LEAVES

theorem slvLeave_takes {s v : State} {t : Time} {node tag dur : Nat} {c : SlvCmd} (h : s.slvTakes t 3 c v) (hbar : v.slvBar = none) :
    exec (.slvLeave (.run t) node tag dur) s = .next ((v.departed c.node).slvEnd c 0 0 dur) := by
  change execSlvLeave (.run t) node tag dur s = _
  unfold execSlvLeave State.slvCmd
  dsimp only
  rw [State.slvRun_acts h hbar]
  rfl

theorem State.departed_result (v : State) (node : Nat) :
    (v.departed node).slv.solve = v.slv.solve.map (fun x => { x with log := x.log ++ [⟨false, node⟩] }) ∧
      (v.departed node).slv.results = v.slv.results ∧ (v.departed node).pwr = v.pwr ∧
      (v.departed node).ctr Ctr.SLV_LEAVES = (v.ctr Ctr.SLV_LEAVES + 1) % 2 ^ 48 ∧
      (v.departed node).ctr Ctr.SLV_RQOVF = v.ctr Ctr.SLV_RQOVF ∧
      (v.clearNode node).regsEvt (v.departed node) (halves Ctr.SLV_LEAVES) ∧
      v.departed node = { v.clearNode node with
        regs := (v.departed node).regs, slv := { (v.clearNode node).slv with solve := (v.departed node).slv.solve } } := by
  have hsets := v.onlySets_clearNode node
  have hleaves := State.ctr_onlySets hsets (c := Ctr.SLV_LEAVES) (by decide) (by decide)
  have hovf := State.ctr_onlySets hsets (c := Ctr.SLV_RQOVF) (by decide) (by decide)
  obtain ⟨-, hsetsframe⟩ := hsets
  unfold State.departed
  generalize v.clearNode node = w at *
  rw [State.slvLog_eq]
  have hbump := State.bump_frame { w with slv := { w.slv with
      solve := w.slv.solve.map (fun x => { x with log := x.log ++ [⟨false, node⟩] }) } } Ctr.SLV_LEAVES 1
  refine ⟨?_, ?_, ?_, ?_, ?_, ?_, ?_⟩
  · rw [State.bump_slv, hsetsframe]
  · rw [State.bump_slv, hsetsframe]
  · rw [State.bump_pwr, hsetsframe]
  · rw [State.ctr_bump_same, State.ctr_mk, hleaves]
  · rw [State.ctr_bump_ne _ _ _ _ (by decide) (by decide) (by decide), State.ctr_mk, hovf]
  · exact State.regsEvt_bump _ _ (State.regsEvt_mk State.regsEvt_refl) (by decide) (by decide)
  · generalize State.bump _ Ctr.SLV_LEAVES 1 = y at *
    rw [hbump]

/-- A LEAVE and its result record, whatever the node had. -/
theorem State.left_result (v : State) (c : SlvCmd) (dur : Nat) (u : State) (hu : u = (v.departed c.node).slvEnd c 0 0 dur) :
    v.slvResulted u (c.result 0 0 dur) ∧
      u.msq = (v.clearNode c.node).msq ∧ u.slv.nodes = (v.clearNode c.node).slv.nodes ∧
      u.slv.waiting = (v.clearNode c.node).slv.waiting ∧
      u.slv.solve = v.slv.solve.map (fun x => { x with log := x.log ++ [⟨false, c.node⟩] }) ∧
      u.ctr Ctr.SLV_LEAVES = (v.ctr Ctr.SLV_LEAVES + 1) % 2 ^ 48 ∧
      u.ctr Ctr.SLV_PATCHES = (v.clearNode c.node).ctr Ctr.SLV_PATCHES ∧
      (v.clearNode c.node).regsEvt u (halves Ctr.SLV_LEAVES ++ halves Ctr.SLV_RQOVF) ∧
      u = { v with
        regs := u.regs, evt := u.evt, msq := u.msq,
        slv := { v.slv with nodes := u.slv.nodes, waiting := u.slv.waiting, solve := u.slv.solve, results := u.slv.results } } := by
  obtain ⟨hsolve, hres, hpwr, hleaves, hovf, hregs, hframe⟩ := v.departed_result c.node
  obtain ⟨-, hsetsframe⟩ := v.onlySets_clearNode c.node
  generalize v.departed c.node = d at *
  generalize v.clearNode c.node = w at *
  have hended := d.slvResulted_slvEnd c 0 0 dur 0
  obtain ⟨heregs, heframe⟩ := d.onlyResults_slvEnd c 0 0 dur 0
  rw [← hu] at hended heregs heframe
  refine ⟨State.slvResulted_of hended hres hovf hpwr, ?_, ?_, ?_, ?_, ?_, ?_, ?_, ?_⟩
  · rw [heframe, hframe]
  · rw [heframe, hframe]
  · rw [heframe, hframe]
  · rw [heframe]
    exact hsolve
  · rw [State.ctr_of_regsEvt heregs (by decide) (by decide) (by decide) (by decide), hleaves]
  · rw [State.ctr_of_regsEvt heregs (by decide) (by decide) (by decide) (by decide),
      State.ctr_of_regsEvt hregs (by decide) (by decide) (by decide) (by decide)]
  · exact State.regsEvt_trans (State.regsEvt_mono hregs (List.subset_append_left _ _))
      (State.regsEvt_mono heregs (List.subset_append_right _ _))
  · rw [heframe, hframe, hsetsframe]

/-- A node with cells leaves (R232, R236): one patch, and an empty set in their place. -/
theorem State.left_cells (v : State) (c : SlvCmd) (dur : Nat) (g : List Cell)
    (hg : g = ((v.nodeSets c.node).sets.flatMap (fun x => x.cells)).eraseDups) (hsome : g ≠ []) (hlen : g.length ≤ 64) :
    ∃ u, u = (v.departed c.node).slvEnd c 0 0 dur ∧ v.slvResulted u (c.result 0 0 dur) ∧
      u.msq = { v.msq with patches := v.msq.patches ++ [{
        del := g, add := [], links := [], send := [(c.node, ((v.nodeSets c.node).setid + 1) % 256)] }] } ∧
      u.slv.nodes = v.slv.nodes.put c.node { v.nodeSets c.node with
        setid := ((v.nodeSets c.node).setid + 1) % 256, sets := [{
          setid := ((v.nodeSets c.node).setid + 1) % 256, ec := v.ec + 1, cells := [], confirmed := true, tries := 0,
          pkt := none, ar := false }] } ∧
      u.slv.waiting = v.slv.waiting.filter (fun q => q.node != c.node) ∧
      u.slv.solve = v.slv.solve.map (fun x => { x with log := x.log ++ [⟨false, c.node⟩] }) ∧
      u.ctr Ctr.SLV_LEAVES = (v.ctr Ctr.SLV_LEAVES + 1) % 2 ^ 48 ∧ u.ctr Ctr.SLV_PATCHES = (v.ctr Ctr.SLV_PATCHES + 1) % 2 ^ 48 ∧
      v.regsEvt u (halves Ctr.SLV_LEAVES ++ halves Ctr.SLV_PATCHES ++ halves Ctr.SLV_RQOVF) ∧
      u = { v with
        regs := u.regs, evt := u.evt, msq := u.msq,
        slv := { v.slv with nodes := u.slv.nodes, waiting := u.slv.waiting, solve := u.slv.solve, results := u.slv.results } } := by
  subst hg
  obtain ⟨hmsq, hslv, hpatches⟩ := v.clearNode_small c.node hsome hlen
  obtain ⟨hcregs, -⟩ := v.onlySets_clearNode c.node
  obtain ⟨hres, humsq, hunodes, huwaiting, husolve, hleaves, hupatches, huregs, hframe⟩ := v.left_result c dur _ rfl
  refine ⟨_, rfl, hres, humsq.trans hmsq, hunodes.trans (congrArg _ hslv), huwaiting.trans (congrArg _ hslv), husolve, hleaves,
    hupatches.trans hpatches, ?_, hframe⟩
  refine State.regsEvt_trans (State.regsEvt_mono (State.regsEvt_of_but hcregs) ?_) (State.regsEvt_mono huregs ?_)
  · decide
  · decide

/-- A node without cells leaves (R232). -/
theorem State.left_empty (v : State) (c : SlvCmd) (dur : Nat) (hnone : (v.nodeSets c.node).sets.flatMap (fun x => x.cells) = []) :
    ∃ u, u = (v.departed c.node).slvEnd c 0 0 dur ∧ v.slvResulted u (c.result 0 0 dur) ∧
      u.slv.nodes = v.slv.nodes.put c.node { v.nodeSets c.node with sets := [] } ∧
      u.slv.waiting = v.slv.waiting.filter (fun q => q.node != c.node) ∧
      u.slv.solve = v.slv.solve.map (fun x => { x with log := x.log ++ [⟨false, c.node⟩] }) ∧
      u.ctr Ctr.SLV_LEAVES = (v.ctr Ctr.SLV_LEAVES + 1) % 2 ^ 48 ∧ v.regsEvt u (halves Ctr.SLV_LEAVES ++ halves Ctr.SLV_RQOVF) ∧
      u = { v with
        regs := u.regs, evt := u.evt,
        slv := { v.slv with nodes := u.slv.nodes, waiting := u.slv.waiting, solve := u.slv.solve, results := u.slv.results } } := by
  obtain ⟨hres, humsq, hunodes, huwaiting, husolve, hleaves, -, huregs, hframe⟩ := v.left_result c dur _ rfl
  rw [State.clearNode_empty v c.node hnone] at humsq hunodes huwaiting huregs
  have hmsq : ((v.departed c.node).slvEnd c 0 0 dur).msq = v.msq := humsq
  rw [hmsq] at hframe
  exact ⟨_, rfl, hres, hunodes, huwaiting, husolve, hleaves, huregs, hframe⟩

end Sys2Proof.Machine
end

section
/-! SLV's full solves (R233, R234, R241), for `Obligations.SlvSchedule`: the start of a SOLVE, its end, and what it activates. -/

namespace Sys2Proof.Machine

/-! ### What the anchor sends to every chip -/

theorem State.foldl_schedTo (s : State) (f : Nat → List CscSched) (l : Tab PeerCsc) :
    l.foldl (fun u e => u.schedTo e.1 (f e.1)) s =
      { s with slv := { s.slv with out := s.slv.out ++ l.flatMap (fun e => (f e.1).map (fun y => (e.1, y))) } } := by
  induction l generalizing s with
  | nil => rw [List.flatMap_nil, List.append_nil, List.foldl_nil]
  | cons e l ih =>
    rw [List.foldl_cons, ih, List.flatMap_cons, ← List.append_assoc]
    rfl

theorem State.schedAll_eq (s : State) (f : Nat → List CscSched) : s.schedAll f =
    { s with slv := { s.slv with out := s.slv.out ++ s.csc.peers.flatMap (fun e => (f e.1).map (fun y => (e.1, y))) } } :=
  s.foldl_schedTo f s.csc.peers

/-! ### The start of a SOLVE -/

/-- The other chips' border nodes whose placements an anchor keeps for a solve (R241). -/
def State.farFound (w : State) (border : List Placement) : List FarPlace :=
  if !w.isAnchor then [] else border.filterMap (fun p =>
    if w.borderNode p.node && (!w.homedHere p.node && !w.pinned p.node) then
      (w.farPlan p.node).map (fun plan => (w.homeOf p.node, p, plan))
    else none)

theorem State.farFound_member {w : State} (h : w.isAnchor = false) (border : List Placement) : w.farFound border = [] :=
  if_pos (by rw [h]; rfl)

theorem State.mem_farFound {w : State} {border : List Placement} {x : FarPlace} (h : x ∈ w.farFound border) :
    w.isAnchor = true ∧ x.2.1 ∈ border ∧ w.borderNode x.2.1.node = true ∧ w.homedHere x.2.1.node = false ∧
      w.pinned x.2.1.node = false ∧ x.1 = w.homeOf x.2.1.node ∧ w.farPlan x.2.1.node = some x.2.2 := by
  cases hanchor : w.isAnchor with
  | false =>
    rw [State.farFound_member hanchor] at h
    exact absurd h List.not_mem_nil
  | true =>
    unfold State.farFound at h
    rw [hanchor, if_neg (by decide)] at h
    obtain ⟨p, hp, hx⟩ := List.mem_filterMap.mp h
    obtain ⟨hcond, hx⟩ := Option.ite_none_right_eq_some.mp hx
    obtain ⟨plan, hplan, rfl⟩ := Option.map_eq_some_iff.mp hx
    simp only [Bool.and_eq_true, Bool.not_eq_true'] at hcond
    obtain ⟨hborder, hhome, hpin⟩ := hcond
    exact ⟨rfl, hp, hborder, hhome, hpin, rfl, hplan⟩

/-- A solve that starts at `w` (R233). -/
def State.startedRun (w : State) (c : SlvCmd) (l : List SlvCmd) (border : List Placement) : SolveRun :=
  { cmd := c, also := l, startFt := w.gtb.ft, inp := w.inputs, far := w.farFound border }

/-- The solve `r` runs on the full engine. -/
def State.withSolve (w : State) (r : SolveRun) : State := { w with slv := { w.slv with solve := some r } }

section
variable {v w : State} {c : SlvCmd} {l : List SlvCmd} {border : List Placement}

theorem State.solveStart_noAnchor (hw : w = v.commitAt 9 0) (hbar : w.slvBar = none) (ha : w.noAnchor = true) :
    v.solveStart c l border = w.slvEndAll (c :: l) 4 0 0 := by
  unfold State.solveStart
  rw [← hw]
  dsimp only
  rw [hbar]
  exact if_pos ha

theorem State.solveStart_runs (hw : w = v.commitAt 9 0) (hbar : w.slvBar = none) (ha : w.noAnchor = false) :
    v.solveStart c l border = if w.isAnchor then (w.withSolve (w.startedRun c l border)).schedAll (fun k =>
        borderFrames (((w.farFound border).filter (fun x => x.1 == k)).map (fun x => x.2.1)))
      else w.withSolve (w.startedRun c l border) := by
  unfold State.solveStart
  rw [← hw]
  dsimp only
  rw [hbar]
  exact if_neg (ne_true_of_eq_false ha)

/-- A solve runs, from a snapshot; an anchor tells the other chips of its border placements (R233, R241). -/
theorem State.solveStart_result (hw : w = v.commitAt 9 0) (hbar : w.slvBar = none) (ha : w.noAnchor = false) :
    ∃ u, u = v.solveStart c l border ∧ (∃ r, u.slv.solve = some r ∧
      r = { cmd := c, also := l, startFt := w.gtb.ft, inp := w.inputs, far := r.far } ∧
      (w.isAnchor = false → r.far = [] ∧ u.slv.out = w.slv.out) ∧
      (∀ x ∈ r.far, w.isAnchor = true ∧ x.2.1 ∈ border ∧ w.borderNode x.2.1.node = true ∧ w.homedHere x.2.1.node = false ∧
        w.pinned x.2.1.node = false ∧ x.1 = w.homeOf x.2.1.node ∧ w.farPlan x.2.1.node = some x.2.2) ∧
      (w.isAnchor = true → u.slv.out = w.slv.out ++ w.csc.peers.flatMap (fun e =>
        (borderFrames ((r.far.filter (fun x => x.1 == e.1)).map (fun x => x.2.1))).map (fun y => (e.1, y))))) ∧
      u = { w with slv := { w.slv with solve := u.slv.solve, out := u.slv.out } } := by
  refine ⟨_, (State.solveStart_runs hw hbar ha).symm, ?_⟩
  cases hanchor : w.isAnchor with
  | false =>
    rw [if_neg Bool.false_ne_true]
    exact ⟨⟨w.startedRun c l border, rfl, rfl, fun _ => ⟨State.farFound_member hanchor border, rfl⟩,
      fun x hx => hanchor ▸ State.mem_farFound hx, fun h => Bool.noConfusion h⟩, rfl⟩
  | true =>
    rw [if_pos rfl, State.schedAll_eq]
    exact ⟨⟨w.startedRun c l border, rfl, rfl, fun h => Bool.noConfusion h, fun x hx => hanchor ▸ State.mem_farFound hx,
      fun _ => rfl⟩, rfl⟩

end

/-! ### SLV_SOLVE -/

/-- What a SOLVE at the front of the queue does where nothing bars it (R233). -/
def State.solveAct (u : State) (border : List Placement) (c : SlvCmd) : State :=
  if u.slv.solve.isNone then u.solveStart c [] border else { u with slv := { u.slv with held := u.slv.held ++ [c] } }

section
variable {s v : State} {t : Time} {node tag : Nat} {border : List Placement} {c : SlvCmd} {l : List SlvCmd}

theorem slvSolve_queue (h : s.slv.solve.isSome = true ∨ s.slv.held = []) :
    exec (.slvSolve (.run t border) node tag) s = .next ((s.at t).slvRun 1 0 (fun u => u.solveAct border)) := by
  change execSlvSolve (.run t border) node tag s = _
  unfold execSlvSolve
  dsimp only
  rw [State.at_slv]
  rcases h with h | h
  · obtain ⟨r, hr⟩ := Option.isSome_iff_exists.mp h
    rw [hr]
    rfl
  · rw [h]
    cases s.slv.solve with
    | none => rfl
    | some r => rfl

theorem slvSolve_held (hs : s.slv.solve = none) (hh : s.slv.held = c :: l) :
    exec (.slvSolve (.run t border) node tag) s = .next (if (s.at t).domReady 15 && (s.at t).level == 2 then
      State.solveStart { s.at t with slv := { s.slv with held := [] } } c l border else s.at t) := by
  change execSlvSolve (.run t border) node tag s = _
  unfold execSlvSolve
  dsimp only
  rw [State.at_slv, hs, hh]

theorem slvSolve_starts (h : s.slvTakes t 1 c v) (hbar : v.slvBar = none) (hs : s.slv.solve = none) (hh : s.slv.held = []) :
    exec (.slvSolve (.run t border) node tag) s = .next (v.solveStart c [] border) := by
  rw [slvSolve_queue (Or.inr hh), State.slvRun_acts h hbar]
  exact congrArg Host.Outcome.next (if_pos (by rw [State.slvTakes_solve h, hs]; rfl))

theorem slvSolve_waits {r : SolveRun} (h : s.slvTakes t 1 c v) (hbar : v.slvBar = none) (hs : s.slv.solve = some r) :
    exec (.slvSolve (.run t border) node tag) s = .next { v with slv := { v.slv with held := v.slv.held ++ [c] } } := by
  rw [slvSolve_queue (Or.inl (by rw [hs]; rfl)), State.slvRun_acts h hbar]
  exact congrArg Host.Outcome.next (if_neg (by rw [State.slvTakes_solve h, hs]; exact Bool.false_ne_true))

theorem slvSolve_off (h : s.domReady 15 = false ∨ s.level ≠ 2) :
    exec (.slvSolve (.run t border) node tag) s = .next (s.at t) := by
  have hqueue : s.slv.solve.isSome = true ∨ s.slv.held = [] → exec (.slvSolve (.run t border) node tag) s = .next (s.at t) :=
    fun hq => (slvSolve_queue hq).trans (congrArg Host.Outcome.next (State.slvRun_off (s := s.at t) (h.imp id Or.inl)))
  cases hs : s.slv.solve with
  | some r => exact hqueue (Or.inl (by rw [hs]; rfl))
  | none =>
    cases hh : s.slv.held with
    | nil => exact hqueue (Or.inr hh)
    | cons c l =>
      rw [slvSolve_held hs hh]
      refine congrArg Host.Outcome.next (if_neg fun hand => ?_)
      obtain ⟨hdom, hlevel⟩ := Bool.and_eq_true_iff.mp hand
      rcases h with hno | hno
      · exact Bool.false_ne_true (hno.symm.trans hdom)
      · exact hno (beq_iff_eq.mp hlevel)

end

/-! ### The end of a solve -/

theorem State.slvBar_at (s : State) (t : Time) : (s.at t).slvBar = s.slvBar := by
  unfold State.slvBar State.keel
  rw [State.on_at, State.on_at]

/-- Records of commands that end alike, after counters that the FIFO does not show. -/
theorem State.results_endAll {s v : State} (r : SolveRun) (o n dur short : Nat) (hv : v.slv.results = s.slv.results)
    (hroom : s.slv.results.length + r.also.length < 64) :
    (v.slvEndAll (r.cmd :: r.also) o n dur short).slv.results =
      s.slv.results ++ (r.cmd :: r.also).map (fun c => { c.result o n dur with short := short }) := by
  rw [State.results_slvEndAll, hv]
  rw [hv, List.length_cons]
  omega

/-- A solve ends NOGAIN (R233). -/
def State.noGain (s : State) (t : Time) (r : SolveRun) : State :=
  (((s.at t).bump Ctr.SLV_NOGAIN).slvEndAll (r.cmd :: r.also) 3 0 (t.ft - r.startFt)).fire 125

theorem State.noGain_result (s : State) (t : Time) (r : SolveRun) :
    (s.slv.results.length + r.also.length < 64 →
      (s.noGain t r).slv.results = s.slv.results ++ (r.cmd :: r.also).map (fun c => c.result 3 0 (t.ft - r.startFt))) ∧
      (s.noGain t r).ctr Ctr.SLV_NOGAIN = (s.ctr Ctr.SLV_NOGAIN + 1) % 2 ^ 48 ∧ (s.sysOn → (s.noGain t r).isPend 125 = true) ∧
      s.regsEvt (s.noGain t r) (halves Ctr.SLV_NOGAIN ++ halves Ctr.SLV_RQOVF) ∧
      s.noGain t r = { s with
        regs := (s.noGain t r).regs, evt := (s.noGain t r).evt, gtb := (s.at t).gtb,
        slv := { s.slv with results := (s.noGain t r).slv.results } } := by
  unfold State.noGain
  have hbregs : s.regsEvt ((s.at t).bump Ctr.SLV_NOGAIN) (halves Ctr.SLV_NOGAIN) :=
    State.regsEvt_bump _ _ (State.regsEvt_at t State.regsEvt_refl) (by decide) (by decide)
  have hbctr : ((s.at t).bump Ctr.SLV_NOGAIN).ctr Ctr.SLV_NOGAIN = (s.ctr Ctr.SLV_NOGAIN + 1) % 2 ^ 48 := by
    rw [State.ctr_bump_same, State.ctr_at]
  have hbframe : (s.at t).bump Ctr.SLV_NOGAIN =
      { s with regs := ((s.at t).bump Ctr.SLV_NOGAIN).regs, gtb := (s.at t).gtb } := (s.at t).bump_frame Ctr.SLV_NOGAIN 1
  generalize (s.at t).bump Ctr.SLV_NOGAIN = b at *
  have hres := State.results_endAll (s := s) (v := b) r 3 0 (t.ft - r.startFt) 0 (by rw [hbframe])
  obtain ⟨heregs, heframe⟩ := b.onlyResults_slvEndAll (r.cmd :: r.also) 3 0 (t.ft - r.startFt) 0
  generalize b.slvEndAll (r.cmd :: r.also) 3 0 (t.ft - r.startFt) = e at *
  have hffire := e.isPend_fire 125
  have hfctr := State.ctr_fire_ne e 125 Ctr.SLV_NOGAIN (by decide) (by decide) (by decide)
  have hfregs : s.regsEvt (e.fire 125) (halves Ctr.SLV_NOGAIN ++ halves Ctr.SLV_RQOVF) :=
    State.regsEvt_fire 125 (State.regsEvt_trans (State.regsEvt_mono hbregs (List.subset_append_left _ _))
      (State.regsEvt_mono heregs (List.subset_append_right _ _))) (by decide)
  have hfframe := e.fire_frame 125
  generalize e.fire 125 = f at *
  refine ⟨fun hroom => ?_, ?_, fun hs => hffire (State.sysOn_congr ?_ hs), hfregs, ?_⟩
  · rw [hfframe]
    exact hres hroom
  · rw [hfctr, State.ctr_of_regsEvt heregs (by decide) (by decide) (by decide) (by decide), hbctr]
  · rw [heframe, hbframe]
  · rw [hfframe, heframe, hbframe]

/-- A solve activates the result `x` (R233, R234). -/
def State.solved (w : State) (t : Time) (r : SolveRun) (x : SolveResult) : State :=
  (((w.slvShorts x.shorts).2.bump Ctr.SLV_SOLVES).slvEndAll (r.cmd :: r.also) (b2n (!x.shorts.isEmpty))
    (x.sets.length + x.clear.length + x.far.length) (t.ft - r.startFt) x.shorts.length).fireIf (!x.shorts.isEmpty) 123

theorem State.solved_result (s : State) (t : Time) (r : SolveRun) (x : SolveResult) (w : State) (hw : w = (s.at t).solveStaged x)
    (hroom : s.slv.shorts.length + x.shorts.length ≤ 1024) :
    (w.solved t r x).slv.shorts = s.slv.shorts ++ x.shorts ∧
      (s.slv.results.length + r.also.length < 64 →
        (w.solved t r x).slv.results = s.slv.results ++ (r.cmd :: r.also).map (fun c => { c.result (b2n (!x.shorts.isEmpty))
          (x.sets.length + x.clear.length + x.far.length) (t.ft - r.startFt) with short := x.shorts.length })) ∧
      (w.solved t r x).ctr Ctr.SLV_SOLVES = (s.ctr Ctr.SLV_SOLVES + 1) % 2 ^ 48 ∧
      (s.sysOn → x.shorts ≠ [] → (w.solved t r x).isPend 123 = true) ∧
      w.regsEvt (w.solved t r x) (halves Ctr.SLV_SOLVES ++ halves Ctr.SLV_RQOVF) ∧
      w.solved t r x = { w with
        regs := (w.solved t r x).regs, evt := (w.solved t r x).evt,
        slv := { w.slv with results := (w.solved t r x).slv.results, shorts := (w.solved t r x).slv.shorts } } := by
  have hsets := (s.at t).onlySets_solveStaged x
  rw [← hw] at hsets
  have hsolves := State.ctr_onlySets hsets (c := Ctr.SLV_SOLVES) (by decide) (by decide)
  rw [State.ctr_at] at hsolves
  obtain ⟨-, hwframe⟩ := hsets
  have hshorts : w.slv.shorts = s.slv.shorts := by rw [hwframe]; rfl
  have hresults : w.slv.results = s.slv.results := by rw [hwframe]; rfl
  have hpwr : w.pwr = s.pwr := by rw [hwframe]; rfl
  obtain ⟨-, hyregs, hyframe⟩ := w.slvShorts_room x.shorts (by rw [hshorts]; exact hroom)
  unfold State.solved
  generalize (w.slvShorts x.shorts).2 = y at *
  have hbregs : w.regsEvt (y.bump Ctr.SLV_SOLVES) (halves Ctr.SLV_SOLVES) :=
    State.regsEvt_bump _ _ (State.regsEvt_mono hyregs (List.nil_subset _)) (by decide) (by decide)
  have hbctr : (y.bump Ctr.SLV_SOLVES).ctr Ctr.SLV_SOLVES = (s.ctr Ctr.SLV_SOLVES + 1) % 2 ^ 48 := by
    rw [State.ctr_bump_same, State.ctr_of_regsEvt hyregs List.not_mem_nil List.not_mem_nil (by decide) (by decide), hsolves]
  have hbframe := y.bump_frame Ctr.SLV_SOLVES 1
  generalize y.bump Ctr.SLV_SOLVES = b at *
  generalize x.sets.length + x.clear.length + x.far.length = n at *
  have hres := State.results_endAll (s := s) (v := b) r (b2n (!x.shorts.isEmpty)) n (t.ft - r.startFt) x.shorts.length
    (by rw [hbframe, hyframe]; exact hresults)
  obtain ⟨heregs, heframe⟩ := b.onlyResults_slvEndAll (r.cmd :: r.also) (b2n (!x.shorts.isEmpty)) n (t.ft - r.startFt) x.shorts.length
  generalize b.slvEndAll (r.cmd :: r.also) (b2n (!x.shorts.isEmpty)) n (t.ft - r.startFt) x.shorts.length = e at *
  have hon : s.sysOn → e.sysOn := State.sysOn_congr (by rw [heframe, hbframe, hyframe]; exact hpwr)
  have hffire : s.sysOn → x.shorts ≠ [] → (e.fireIf (!x.shorts.isEmpty) 123).isPend 123 = true := fun hs hne => by
    rw [List.isEmpty_eq_false_iff.mpr hne]
    exact State.isPend_fire e 123 (hon hs)
  have hfctr := State.ctr_fireIf_ne e (!x.shorts.isEmpty) 123 Ctr.SLV_SOLVES (by decide) (by decide) (by decide)
  have hfregs : w.regsEvt (e.fireIf (!x.shorts.isEmpty) 123) (halves Ctr.SLV_SOLVES ++ halves Ctr.SLV_RQOVF) :=
    State.regsEvt_fireIf _ 123 (State.regsEvt_trans (State.regsEvt_mono hbregs (List.subset_append_left _ _))
      (State.regsEvt_mono heregs (List.subset_append_right _ _))) (by decide)
  have hfframe := e.fireIf_frame (!x.shorts.isEmpty) 123
  generalize e.fireIf (!x.shorts.isEmpty) 123 = f at *
  refine ⟨?_, fun hroom' => ?_, ?_, hffire, hfregs, ?_⟩
  · rw [hfframe, heframe, hbframe, hyframe, hshorts]
  · rw [hfframe]
    exact hres hroom'
  · rw [hfctr, State.ctr_of_regsEvt heregs (by decide) (by decide) (by decide) (by decide), hbctr]
  · rw [hfframe, heframe, hbframe, hyframe]

section
variable {s : State} {t : Time} {places again far : List Placement} {r : SolveRun} {o : Nat}

theorem solveComplete_idle (hs : s.slv.solve = none) : exec (.solveComplete t places again far) s = .next (s.at t) := by
  change execSolveComplete t places again far s = _
  unfold execSolveComplete
  dsimp only
  rw [State.at_slv, hs]

theorem solveComplete_barred (hs : s.slv.solve = some r)
    (ho : s.on F.SLV_CFG_EN = false ∧ o = 7 ∨ s.on F.SLV_CFG_EN = true ∧ s.keel = true ∧ o = 5) :
    exec (.solveComplete t places again far) s = .next
      (((s.at t).slvEndAll (r.cmd :: r.also) o 0 (t.ft - r.startFt)).solveOver []) := by
  change execSolveComplete t places again far s = _
  unfold execSolveComplete
  dsimp only
  rw [State.at_slv, hs]
  dsimp only
  rw [State.slvBar_at, State.slvBar_barred ho]

theorem solveComplete_noGain (hs : s.slv.solve = some r) (hbar : s.slvBar = none)
    (hx : ((s.at t).withInputs r.inp).solveResult (s.at t) r places again far = none) :
    exec (.solveComplete t places again far) s = .next ((s.noGain t r).solveOver []) := by
  change execSolveComplete t places again far s = _
  unfold execSolveComplete
  dsimp only
  rw [State.at_slv, hs]
  dsimp only
  rw [State.slvBar_at, hbar]
  dsimp only
  rw [hx]
  rfl

theorem solveComplete_solves {x : SolveResult} {w : State} (hs : s.slv.solve = some r) (hbar : s.slvBar = none)
    (hx : ((s.at t).withInputs r.inp).solveResult (s.at t) r places again far = some x) (hw : w = (s.at t).solveStaged x)
    (hroom : s.slv.shorts.length + x.shorts.length ≤ 1024) :
    exec (.solveComplete t places again far) s = .next ((w.solved t r x).solveOver x.far) := by
  have hshorts : w.slv.shorts = s.slv.shorts := by
    rw [hw, ((s.at t).onlySets_solveStaged x).2]
    rfl
  have hn := (w.slvShorts_room x.shorts (by rw [hshorts]; exact hroom)).1
  change execSolveComplete t places again far s = _
  unfold execSolveComplete
  dsimp only
  rw [State.at_slv, hs]
  dsimp only
  rw [State.slvBar_at, hbar]
  dsimp only
  rw [hx]
  unfold State.solved
  rw [← hn, hw]
  rfl

end

/-! ### What follows a solve -/

theorem State.solveOver_anchor (s : State) (far : List FarPlace) (h : s.isAnchor = true) : s.solveOver far =
    { s with slv := { s.slv with solve := none, out := s.slv.out ++ s.csc.peers.flatMap (fun e =>
      (activateFrames ((far.filter (fun x => x.1 == e.1)).map (fun x => x.2.1))).map (fun y => (e.1, y))) } } := by
  refine (if_pos h).trans ?_
  rw [State.schedAll_eq]

theorem State.solveOver_alone (s : State) (far : List FarPlace) (h : s.isAnchor = false) (hh : s.slv.held = []) :
    s.solveOver far = { s with slv := { s.slv with solve := none } } := by
  refine (if_neg (ne_true_of_eq_false h)).trans ?_
  rw [hh]

/-- The held SOLVE starts where the running one is over, but on an anchor (R233, R241). -/
theorem State.solveOver_held (s : State) (far : List FarPlace) (c : SlvCmd) (l : List SlvCmd) (h : s.isAnchor = false)
    (hh : s.slv.held = c :: l) :
    s.solveOver far = State.solveStart { s with slv := { s.slv with solve := none, held := [] } } c l [] := by
  refine (if_neg (ne_true_of_eq_false h)).trans ?_
  rw [hh]

end Sys2Proof.Machine
end

section
/-! How schedules compare, and what a solve's result may hold (R231, R233, R234), for `Obligations.SlvSchedule`. -/

namespace Sys2Proof.Machine

/-! ### Scores -/

theorem firstMore_self (l : List Nat) : firstMore l l = none := by
  induction l with
  | nil => rfl
  | cons a l ih => exact (if_pos rfl).trans ih

/-- The first count that differs decides. -/
theorem firstMore_append_cons (l : List Nat) {m n : Nat} (h : m ≠ n) (k k' : List Nat) :
    firstMore (l ++ m :: k) (l ++ n :: k') = some (Nat.blt n m) := by
  induction l with
  | nil => exact if_neg h
  | cons a l ih => exact (if_pos rfl).trans ih

/-- Equal counts leave the radio-on times per report to decide. -/
theorem Score.beats_cost (a b : Score) (hs : a.sup = b.sup) (hm : a.met = b.met) :
    a.beats b = !fracLe (fracMul b.cost a.reports) (fracMul a.cost b.reports) := by
  unfold Score.beats
  rw [hs, hm, firstMore_self, firstMore_self]

theorem Score.beats_supervised (a b : Score) (l : List Nat) (m n : Nat) (k k' : List Nat) (ha : a.sup = l ++ m :: k)
    (hb : b.sup = l ++ n :: k') (h : m ≠ n) : a.beats b = Nat.blt n m := by
  unfold Score.beats
  rw [ha, hb, firstMore_append_cons l h]

/-! ### The log of a solve (R234) -/

/-- A node is where its last entry in the log puts it. -/
theorem mem_logged {l : List SlvLog} {j : Bool} {n : Nat} :
    n ∈ logged l j ↔ ∃ x, l.reverse.find? (fun x => x.node == n) = some x ∧ x.joined = j := by
  unfold logged
  rw [List.mem_reverse, List.mem_filter, List.mem_eraseDups, Option.any_eq_true]
  simp only [beq_iff_eq]
  refine ⟨fun h => h.2, fun h => ⟨?_, h⟩⟩
  obtain ⟨x, hx, -⟩ := h
  have hnode := List.find?_some hx
  rw [beq_iff_eq] at hnode
  exact List.mem_map.mpr ⟨x, List.mem_of_find?_eq_some hx, hnode⟩

theorem logged_disjoint {l : List SlvLog} {n : Nat} (h : n ∈ logged l true) : (logged l false).contains n = false := by
  obtain ⟨x, hx, hjoined⟩ := mem_logged.mp h
  rw [← Bool.not_eq_true, List.contains_iff_mem, mem_logged]
  rintro ⟨y, hy, hleft⟩
  rw [← Option.some.inj (hx.symm.trans hy), hjoined] at hleft
  exact Bool.noConfusion hleft

/-- The last entry of a node decides. -/
theorem logged_append_singleton (l : List SlvLog) (n : Nat) (j : Bool) :
    (logged (l ++ [⟨j, n⟩]) j).contains n = true ∧ (logged (l ++ [⟨j, n⟩]) (!j)).contains n = false := by
  have hlast : (l ++ [(⟨j, n⟩ : SlvLog)]).reverse.find? (fun x => x.node == n) = some ⟨j, n⟩ := by
    rw [List.reverse_append, List.reverse_singleton, List.singleton_append]
    exact List.find?_cons_of_pos (beq_self_eq_true n)
  rw [← Bool.not_eq_true, List.contains_iff_mem, List.contains_iff_mem, mem_logged, mem_logged, hlast]
  refine ⟨⟨_, rfl, rfl⟩, ?_⟩
  rintro ⟨x, hx, hj⟩
  rw [← Option.some.inj hx] at hj
  exact Bool.not_ne_self j hj.symm

/-! ### What a result places (R233, R234) -/

theorem State.mem_of_mem_placeAll {s : State} {quota : Nat} {others : List PlanCell} {places : List Placement} {p : Placement}
    (h : p ∈ s.placeAll quota others places) : p ∈ places := by
  refine List.foldlRecOn (motive := fun acc : List Placement => p ∈ acc → p ∈ places) places _
    (fun h => absurd h List.not_mem_nil) (fun acc hacc q hq => ?_) h
  dsimp only
  split
  · intro hmem
    rcases List.mem_append.mp hmem with hmem | hmem
    · exact hacc hmem
    · exact List.mem_singleton.mp hmem ▸ hq
  · exact hacc

theorem State.mem_of_mem_byGain {s : State} {places : List Placement} {p : Placement} (h : p ∈ s.byGain places) : p ∈ places := by
  unfold State.byGain at h
  induction places with
  | nil => exact h
  | cons q places ih =>
    rw [List.foldr_cons] at h
    rcases List.mem_append.mp h with hmem | hmem
    · exact List.mem_cons_of_mem _ (ih ((List.takeWhile_sublist _).mem hmem))
    · rcases List.mem_cons.mp hmem with rfl | hmem
      · exact List.mem_cons_self
      · exact List.mem_cons_of_mem _ (ih ((List.dropWhile_sublist _).mem hmem))

/-- A node that is placed again keeps its name. -/
theorem State.rejoin_again {s : State} {node : Nat} {found : List Placement} {others : List PlanCell} {p : Placement}
    (h : s.rejoin node found others = .again p) : p.node = node := by
  unfold State.rejoin at h
  dsimp only at h
  split at h
  · exact Rejoin.noConfusion h
  · split at h
    next q hq =>
      have hnode := List.find?_some hq
      rw [Bool.and_eq_true, beq_iff_eq] at hnode
      exact Rejoin.again.inj h ▸ hnode.1
    next => exact Rejoin.noConfusion h

/-- Nodes that joined are the only ones that are placed again. -/
theorem State.mem_rejoinAll {s : State} {joined : List Nat} {found : List Placement} {others : List PlanCell} {n : Nat} {p : Placement}
    (h : (n, Rejoin.again p) ∈ s.rejoinAll joined found others) : p.node ∈ joined := by
  refine List.foldlRecOn (motive := fun acc : List (Nat × Rejoin) × List PlanCell => (n, Rejoin.again p) ∈ acc.1 → p.node ∈ joined)
    joined _ (fun h => absurd h List.not_mem_nil) (fun acc hacc m hm hmem => ?_) h
  rcases List.mem_append.mp hmem with hmem | hmem
  · exact hacc hmem
  · obtain ⟨rfl, hagain⟩ := Prod.mk.inj (List.mem_singleton.mp hmem)
    exact State.rejoin_again hagain.symm ▸ hm

section
variable {v s : State} {r : SolveRun} {places again far : List Placement}

/-- A solve ends NOGAIN only while the active schedule meets R228 (R233). -/
theorem State.solveResult_none (h : v.solveResult s r places again far = none) : v.activeOk = true := by
  unfold State.solveResult at h
  dsimp only at h
  split at h
  next hcond => exact (Bool.and_eq_true_iff.mp hcond).2
  next => exact nomatch h

/-- No node that left during the solve is placed (R234). -/
theorem State.solveResult_left {x : SolveResult} {p : Placement} (h : v.solveResult s r places again far = some x) (hp : p ∈ x.sets) :
    (logged r.log false).contains p.node = false := by
  unfold State.solveResult at h
  dsimp only at h
  split at h
  next => exact nomatch h
  next =>
    rw [← Option.some.inj h] at hp
    rcases List.mem_append.mp hp with hmem | hmem
    · have hfree := (List.mem_filter.mp (State.mem_of_mem_byGain (State.mem_of_mem_placeAll hmem))).2
      simp only [Bool.and_eq_true, Bool.not_eq_true'] at hfree
      exact hfree.2.1
    · obtain ⟨⟨n, y⟩, hy, hagain⟩ := List.mem_filterMap.mp hmem
      cases y with
      | again q =>
        rw [← Option.some.inj hagain]
        exact logged_disjoint (State.mem_rejoinAll hy)
      | keep => exact nomatch hagain
      | lost => exact nomatch hagain

end

end Sys2Proof.Machine
end

section
/-! SLV's timers and the statistics windows (R157, R233, R238, R240), for `Obligations.SlvSchedule`. -/

namespace Sys2Proof.Machine

/-! ### SOLVE_PERIOD_TIMER -/

section
variable {s : State} {t : Time}

/-- The timer queues a SOLVE where the queue has room (R233). -/
theorem solvePeriodTimer_queues (hper : s.fld F.SLV_CFG_PERIOD ≠ 0) (hdom : s.domReady 15 = true) (hroom : s.slv.cmds.length < 16) :
    exec (.solvePeriodTimer t) s = .next { s.at t with slv := { s.slv with cmds := s.slv.cmds ++ [ownSolve] } } :=
  congrArg Host.Outcome.next ((if_pos ⟨hper, hdom⟩).trans (State.slvOwnSolve_room (s.at t) hroom))

theorem solvePeriodTimer_quiet (h : s.fld F.SLV_CFG_PERIOD = 0 ∨ s.domReady 15 = false ∨ 16 ≤ s.slv.cmds.length) :
    exec (.solvePeriodTimer t) s = .next (s.at t) := by
  rcases h with hper | hdom | hfull
  · exact congrArg Host.Outcome.next (if_neg (fun h => h.1 hper))
  · exact congrArg Host.Outcome.next (if_neg (fun h => Bool.false_ne_true (hdom.symm.trans h.2)))
  · exact congrArg Host.Outcome.next ((congrArg (fun u => ite _ u (s.at t)) (State.slvOwnSolve_full (s.at t) hfull)).trans (ite_self _))

/-! ### CELLS_CONFIRM_TIMEOUT (R238) -/

theorem cellsConfirmTimeout_none {node setid : Nat} (h : (s.nodeSets node).sets.find? (fun y => y.setid == setid) = none) :
    exec (.cellsConfirmTimeout t node setid) s = .next (s.at t) := by
  have hat : ((s.at t).nodeSets node).sets.find? (fun y => y.setid == setid) = none := h
  change execCellsConfirmTimeout t node setid s = _
  unfold execCellsConfirmTimeout
  dsimp only
  rw [hat]

/-- A set is to be sent again once its last sending counts as dropped. -/
theorem cellsConfirmTimeout_some {node setid f : Nat} {v : State} {x : CellSet} (hv : v = s.at t)
    (hx : (s.nodeSets node).sets.find? (fun y => y.setid == setid) = some x)
    (hf : f = x.cells.foldl (fun n c => max n (v.sfLen c.sf)) 0) :
    exec (.cellsConfirmTimeout t node setid) s = .next (if (x.ar = false ∨ x.pkt = none) ∧ x.confirmed = false ∧
      (x.ec + f - 1) / max 1 f * f + f ≤ v.ec then v.cellsAgain node setid else v) := by
  have hat : ((s.at t).nodeSets node).sets.find? (fun y => y.setid == setid) = some x := hx
  subst hv hf
  change execCellsConfirmTimeout t node setid s = _
  unfold execCellsConfirmTimeout
  dsimp only
  rw [hat]
  refine congrArg Host.Outcome.next (if_congr ?_ rfl rfl)
  simp only [Bool.and_eq_true, Bool.or_eq_true, Bool.not_eq_true', Option.isNone_iff_eq_none, Nat.ble_eq]

end

section
variable {v : State} {node setid : Nat} {ns : NodeSets} {x : CellSet}

theorem State.cellsAgain_found (hns : v.slv.nodes.find node = some ns) (hx : ns.sets.find? (fun y => y.setid == setid) = some x) :
    v.cellsAgain node setid = if x.confirmed || x.gone then v else
      if x.tries < v.actFld F.SLV_POL2_ANNTRY then v.sendCells node setid
      else ((v.putSets node { ns with sets := ns.sets.map (fun y => if y.setid = setid then { y with gone := true } else y) }).bump
        Ctr.SLV_UNCONF).fire 126 := by
  unfold State.cellsAgain
  rw [hns]
  dsimp only
  rw [hx]

/-- A set that is confirmed, or counted as unconfirmed, is not sent again. -/
theorem State.cellsAgain_done (hns : v.slv.nodes.find node = some ns) (hx : ns.sets.find? (fun y => y.setid == setid) = some x)
    (h : x.confirmed = true ∨ x.gone = true) : v.cellsAgain node setid = v := by
  rw [State.cellsAgain_found hns hx, if_pos (Bool.or_eq_true_iff.mpr h)]

theorem State.cellsAgain_open (hns : v.slv.nodes.find node = some ns) (hx : ns.sets.find? (fun y => y.setid == setid) = some x)
    (hc : x.confirmed = false) (hg : x.gone = false) : v.cellsAgain node setid =
      if x.tries < v.actFld F.SLV_POL2_ANNTRY then v.sendCells node setid
      else ((v.putSets node { ns with sets := ns.sets.map (fun y => if y.setid = setid then { y with gone := true } else y) }).bump
        Ctr.SLV_UNCONF).fire 126 := by
  rw [State.cellsAgain_found hns hx, hc, hg]
  rfl

/-- After the last sending the set counts once as unconfirmed (R238). -/
theorem State.cellsAgain_last (hns : v.slv.nodes.find node = some ns) (hx : ns.sets.find? (fun y => y.setid == setid) = some x)
    (hc : x.confirmed = false) (hg : x.gone = false) (htries : v.actFld F.SLV_POL2_ANNTRY ≤ x.tries) :
    (v.cellsAgain node setid).slv = { v.slv with nodes := v.slv.nodes.put node { ns with
        sets := ns.sets.map (fun y => if y.setid = setid then { y with gone := true } else y) } } ∧
      (v.cellsAgain node setid).ctr Ctr.SLV_UNCONF = (v.ctr Ctr.SLV_UNCONF + 1) % 2 ^ 48 ∧
      (v.sysOn → (v.cellsAgain node setid).isPend 126 = true) ∧ v.regsEvt (v.cellsAgain node setid) (halves Ctr.SLV_UNCONF) ∧
      v.cellsAgain node setid = { v with
        regs := (v.cellsAgain node setid).regs, evt := (v.cellsAgain node setid).evt, slv := (v.cellsAgain node setid).slv } := by
  rw [State.cellsAgain_open hns hx hc hg, if_neg (Nat.not_lt.mpr htries)]
  generalize hy : ({ ns with sets := ns.sets.map (fun y => if y.setid = setid then { y with gone := true } else y) } : NodeSets) = y
  have hbctr : ((v.putSets node y).bump Ctr.SLV_UNCONF).ctr Ctr.SLV_UNCONF = (v.ctr Ctr.SLV_UNCONF + 1) % 2 ^ 48 := by
    rw [State.ctr_bump_same]
    exact congrArg (fun n => (n + 1) % 2 ^ 48) (State.ctr_congr rfl _)
  have hbregs : v.regsEvt ((v.putSets node y).bump Ctr.SLV_UNCONF) (halves Ctr.SLV_UNCONF) :=
    State.regsEvt_bump _ _ State.regsEvt_refl (by decide) (by decide)
  have hbframe : (v.putSets node y).bump Ctr.SLV_UNCONF = { v with
      regs := ((v.putSets node y).bump Ctr.SLV_UNCONF).regs, slv := { v.slv with nodes := v.slv.nodes.put node y } } :=
    (v.putSets node y).bump_frame Ctr.SLV_UNCONF 1
  generalize (v.putSets node y).bump Ctr.SLV_UNCONF = b at *
  have hfire : v.sysOn → (b.fire 126).isPend 126 = true := fun hs => b.isPend_fire 126 (State.sysOn_congr (by rw [hbframe]) hs)
  have hfctr := State.ctr_fire_ne b 126 Ctr.SLV_UNCONF (by decide) (by decide) (by decide)
  have hfregs := State.regsEvt_fire 126 hbregs (by decide)
  have hfframe := b.fire_frame 126
  generalize b.fire 126 = f at *
  refine ⟨?_, hfctr.trans hbctr, hfire, hfregs, ?_⟩
  · rw [hfframe, hbframe]
  · rw [hfframe, hbframe]

end

/-! ### The recommended masks (R240) -/

/-- The words of SLV's recommended masks. -/
def maskRegs : List Nat := (List.range 16).map (fun k => Reg.SLV_MRECcj (k / 4) (k % 4))

theorem mem_maskRegs {c j : Nat} (hc : c < 4) (hj : j < 4) : Reg.SLV_MRECcj c j ∈ maskRegs :=
  List.mem_map.mpr ⟨4 * c + j, List.mem_range.mpr (by omega), by
    rw [show (4 * c + j) / 4 = c by omega, show (4 * c + j) % 4 = j by omega]⟩

theorem maskRegs_bounds {a : Nat} (h : a ∈ maskRegs) : 0x900300 ≤ a ∧ a < 0x900340 := by
  obtain ⟨k, hk, rfl⟩ := List.mem_map.mp h
  rw [List.mem_range] at hk
  unfold Reg.SLV_MRECcj
  omega

theorem maskReg_inj {c j c' j' : Nat} (hj : j < 4) (hj' : j' < 4) (h : Reg.SLV_MRECcj c j = Reg.SLV_MRECcj c' j') : c = c' ∧ j = j' := by
  unfold Reg.SLV_MRECcj at h
  omega

theorem State.hopLen_of_regsEvt {s u : State} {l : List Nat} (h : s.regsEvt u l) {c : Nat} (hc : Reg.MSQ_HOPcLEN c ∉ l) :
    u.hopLen c = s.hopLen c :=
  congrArg (min 128) (State.fld_of_regsEvt (f := F.MSQ_HOPcLEN_LEN c) h hc (isPendReg_port (a := Reg.MSQ_HOPcLEN c)
    (by unfold Reg.MSQ_HOPcLEN; omega)))

/-- A mask is recomputed from the statistics, the hopping list and the slices alone. -/
theorem State.recMask_congr {s u : State} (hregs : s.regsEvt u maskRegs) (hstats : u.slv.stats = s.slv.stats) {c : Nat} (hc : c < 4)
    (j : Nat) : u.recMask c j = s.recMask c j := by
  have hport : ∀ a, 0x302000 ≤ a → (a % 0x2000 < 0x300 ∨ 0x340 ≤ a % 0x2000) → u.reg a = s.reg a := fun a hlow hmod =>
    hregs a (fun h => by have := maskRegs_bounds h; omega) (isPendReg_port hlow)
  have hlen : u.hopLen c = s.hopLen c := by
    have hne : Reg.MSQ_HOPcLEN c ∉ maskRegs := fun h => by
      have := maskRegs_bounds h
      unfold Reg.MSQ_HOPcLEN at this
      omega
    exact State.hopLen_of_regsEvt hregs hne
  have hseq : ∀ i, i < s.hopLen c → u.hopSeq c i = s.hopSeq c i := fun i hi => by
    have hi' : i < 128 := Nat.lt_of_lt_of_le hi (Nat.min_le_left _ _)
    unfold State.hopSeq
    rw [hregs _ (fun h => ?_) (isPendReg_port (by unfold Reg.MSQ_HOPcEj; omega))]
    have := maskRegs_bounds h
    unfold Reg.MSQ_HOPcEj at this
    omega
  have hclass : ∀ g, u.sliceClass (g / 128) (g % 128) = s.sliceClass (g / 128) (g % 128) := fun g =>
    congrArg (Field.ext (F.RFPn_SLk_CLASS (g / 128) (g % 128)))
      (hport (Reg.RFPn_SLk (g / 128) (g % 128)) (by unfold Reg.RFPn_SLk; omega) (by unfold Reg.RFPn_SLk; omega))
  have hcentre : ∀ g, u.sliceCentre (g / 128) (g % 128) = s.sliceCentre (g / 128) (g % 128) := fun g => by
    unfold State.sliceCentre State.fld
    rw [hport (F.RFPn_RXCTR_KHZ (g / 128)).reg (by simp only [F.RFPn_RXCTR_KHZ, Reg.RFPn_RXCTR]; omega)
        (by simp only [F.RFPn_RXCTR_KHZ, Reg.RFPn_RXCTR]; omega),
      hport (F.RFPn_SLk_OFS (g / 128) (g % 128)).reg (by simp only [F.RFPn_SLk_OFS, Reg.RFPn_SLk]; omega)
        (by simp only [F.RFPn_SLk_OFS, Reg.RFPn_SLk]; omega)]
  have hband : ∀ n, u.fld (F.RFPn_LINK_BAND n) = s.fld (F.RFPn_LINK_BAND n) := fun n =>
    congrArg (Field.ext (F.RFPn_LINK_BAND n))
      (hport (Reg.RFPn_LINK n) (by unfold Reg.RFPn_LINK; omega) (by unfold Reg.RFPn_LINK; omega))
  unfold State.recMask
  refine congrArg (fun f => (List.range 32).foldl f (0 : Word)) (funext fun m => funext fun k => ?_)
  dsimp only
  rw [hlen, hstats]
  by_cases hk : s.hopLen c ≤ 32 * j + k
  · rw [if_pos hk, if_pos hk]
  · rw [if_neg hk, if_neg hk, hseq _ (Nat.lt_of_not_le hk)]
    simp only [hclass, hcentre, hband]

/-- What one step of a fold reaches stays, where every step keeps it. -/
theorem foldl_of_mem {α β : Type} {P : β → Prop} {f : β → α → β} {l : List α} {a : α} (ha : a ∈ l) (hit : ∀ b, P (f b a))
    (keep : ∀ b, ∀ x ∈ l, P b → P (f b x)) (b : β) : P (l.foldl f b) := by
  induction l generalizing b with
  | nil => exact absurd ha List.not_mem_nil
  | cons x l ih =>
    have keep' : ∀ b, ∀ y ∈ l, P b → P (f b y) := fun b y hy => keep b y (List.mem_cons_of_mem x hy)
    rcases List.mem_cons.mp ha with rfl | hmem
    · exact List.foldlRecOn (motive := P) l f (hit b) fun b hb y hy => keep' b y hy hb
    · exact ih hmem keep' (f b x)

/-- The classes that have a hopping list. -/
def State.hopClasses (s : State) : List Nat := (List.range 4).filter (fun c => s.hopLen c != 0)

theorem State.mem_hopClasses {s : State} {c : Nat} : c ∈ s.hopClasses ↔ c < 4 ∧ s.hopLen c ≠ 0 := by
  unfold State.hopClasses
  rw [List.mem_filter, List.mem_range, bne_iff_ne]

/-- Every mask of a class that has a hopping list is recomputed (R240). -/
def State.remasked (s : State) : State :=
  s.hopClasses.foldl (fun u c => (List.range 4).foldl (fun w j => w.setReg (Reg.SLV_MRECcj c j) (s.recMask c j)) u) s

/-- What every write of a mask keeps holds of the recomputed masks. -/
theorem State.remasked_induction (s : State) {P : State → Prop} (h : P s)
    (step : ∀ u : State, ∀ c < 4, ∀ j < 4, P u → P (u.setReg (Reg.SLV_MRECcj c j) (s.recMask c j))) : P s.remasked :=
  List.foldlRecOn (motive := P) _ _ h fun _ hu c hc =>
    List.foldlRecOn (motive := P) _ _ hu fun w hw j hj => step w c (State.mem_hopClasses.mp hc).1 j (List.mem_range.mp hj) hw

theorem State.remasked_frame (s : State) : s.remasked = { s with regs := s.remasked.regs } :=
  s.remasked_induction (P := fun u : State => u = { s with regs := u.regs }) rfl fun u c _ j _ hu =>
    congrArg (fun v : State => { v with regs := (u.setReg (Reg.SLV_MRECcj c j) (s.recMask c j)).regs }) hu

theorem State.regsEvt_remasked (s : State) : s.regsEvt s.remasked maskRegs :=
  s.remasked_induction (P := fun u : State => s.regsEvt u maskRegs) State.regsEvt_refl fun _ _ hc _ hj hu =>
    State.regsEvt_setReg _ _ hu (mem_maskRegs hc hj)

theorem State.isPend_remasked (s : State) (k : Nat) (hk : k < 256) : s.remasked.isPend k = s.isPend k := by
  refine s.remasked_induction (P := fun u : State => u.isPend k = s.isPend k) rfl fun u c _ j _ hu => ?_
  rw [← hu]
  unfold State.isPend
  rw [State.reg_setReg_ne]
  unfold Reg.SLV_MRECcj Reg.EVT_PENDn
  omega

theorem State.reg_remasked (s : State) {c j : Nat} (hc : c ∈ s.hopClasses) (hj : j < 4) :
    s.remasked.reg (Reg.SLV_MRECcj c j) = s.recMask c j := by
  have keep : ∀ (w : State), ∀ c', ∀ j' ∈ List.range 4, w.reg (Reg.SLV_MRECcj c j) = s.recMask c j →
      (w.setReg (Reg.SLV_MRECcj c' j') (s.recMask c' j')).reg (Reg.SLV_MRECcj c j) = s.recMask c j := fun w c' j' hj' hw => by
    by_cases he : Reg.SLV_MRECcj c j = Reg.SLV_MRECcj c' j'
    · obtain ⟨rfl, rfl⟩ := maskReg_inj hj (List.mem_range.mp hj') he
      rw [State.reg_setReg_same]
    · rw [State.reg_setReg_ne _ _ _ _ he, hw]
  unfold State.remasked
  refine foldl_of_mem (P := fun u : State => u.reg (Reg.SLV_MRECcj c j) = s.recMask c j) hc (fun u => ?_) (fun u c' _ hu => ?_) s
  · exact foldl_of_mem (P := fun u : State => u.reg (Reg.SLV_MRECcj c j) = s.recMask c j) (List.mem_range.mpr hj)
      (fun w => State.reg_setReg_same w _ _) (fun w j' hj' hw => keep w c j' hj' hw) u
  · exact List.foldlRecOn (motive := fun u : State => u.reg (Reg.SLV_MRECcj c j) = s.recMask c j) _ _ hu
      fun w hw j' hj' => keep w c' j' hj' hw

/-! ### STAT_WINDOW_END (R157, R240) -/

/-- A statistics window has ended: another one runs from `t` (R157). -/
def State.nextWindow (s : State) (t : Time) : State :=
  { s.at t with dmx := { s.dmx with
    winFt := t.ft, win := (s.at t).statWindow, stats := s.dmx.stats.mapv (fun _ z => { since := z.since.map (fun _ => t.ft) }) } }

/-- The window's records are SLV's (R157). -/
def State.recorded (s : State) (t : Time) : State :=
  { (s.nextWindow t).fire 71 with slv := { ((s.nextWindow t).fire 71).slv with stats := (s.at t).statSlices.map (s.at t).statRec } }

/-- A recomputed mask differs from the one before (R240). -/
def State.maskMoves (s : State) : Bool := s.hopClasses.any (fun c => (List.range 4).any (fun j =>
  s.remasked.reg (Reg.SLV_MRECcj c j) != s.reg (Reg.SLV_MRECcj c j)))

theorem State.maskMoves_of {s : State} {c j : Nat} (hc : c ∈ s.hopClasses) (hj : j < 4)
    (h : s.remasked.reg (Reg.SLV_MRECcj c j) ≠ s.reg (Reg.SLV_MRECcj c j)) : s.maskMoves = true :=
  List.any_eq_true.mpr ⟨c, hc, List.any_eq_true.mpr ⟨j, List.mem_range.mpr hj, bne_iff_ne.mpr h⟩⟩

section
variable {s : State} {t : Time}

theorem State.domReady_nextWindow (s : State) (t : Time) (d : Nat) : ((s.nextWindow t).fire 71).domReady d = s.domReady d :=
  State.domReady_congr (by rw [State.fire_pwr]; rfl) (by rw [State.fire_sup]; rfl) d

theorem statWindowEnd_running (hlive : s.live 1 = true) (hwin : (s.at t).statWindow = s.dmx.win) :
    exec (.statWindowEnd t) s = .next (s.at t) :=
  congrArg Host.Outcome.next ((State.whenLive_on hlive).trans (if_pos hwin))

theorem statWindowEnd_off (hlive : s.live 1 = true) (hdom : s.domReady 15 = false) (hwin : (s.at t).statWindow ≠ s.dmx.win) :
    exec (.statWindowEnd t) s = .next ((s.nextWindow t).fire 71) := by
  refine congrArg Host.Outcome.next ((State.whenLive_on hlive).trans ((if_neg hwin).trans (if_neg ?_)))
  exact ne_true_of_eq_false ((State.domReady_nextWindow s t 15).trans hdom)

theorem statWindowEnd_on (hlive : s.live 1 = true) (hdom : s.domReady 15 = true) (hwin : (s.at t).statWindow ≠ s.dmx.win) :
    exec (.statWindowEnd t) s = .next ((s.recorded t).remasked.fireIf (s.recorded t).maskMoves 128) :=
  congrArg Host.Outcome.next ((State.whenLive_on hlive).trans ((if_neg hwin).trans
    (if_pos ((State.domReady_nextWindow s t 15).trans hdom))))

theorem State.nextWindow_result (s : State) (t : Time) : (s.sysOn → ((s.nextWindow t).fire 71).isPend 71 = true) ∧
    s.regsEvt ((s.nextWindow t).fire 71) [] ∧
    (s.nextWindow t).fire 71 = { s.at t with
      regs := ((s.nextWindow t).fire 71).regs, evt := ((s.nextWindow t).fire 71).evt, dmx := (s.nextWindow t).dmx } :=
  ⟨fun hs => (s.nextWindow t).isPend_fire 71 hs, State.regsEvt_fire 71 (State.regsEvt_mk State.regsEvt_refl) (by decide),
    (s.nextWindow t).fire_frame 71⟩

theorem State.recorded_result (s : State) (t : Time) :
    (s.sysOn → (s.recorded t).isPend 71 = true) ∧ s.regsEvt (s.recorded t) [] ∧
      s.recorded t = { s.at t with
        regs := (s.recorded t).regs, evt := (s.recorded t).evt, dmx := (s.nextWindow t).dmx,
        slv := { s.slv with stats := (s.at t).statSlices.map (s.at t).statRec } } := by
  obtain ⟨hpend, hregs, hframe⟩ := s.nextWindow_result t
  unfold State.recorded
  generalize (s.nextWindow t).fire 71 = v at *
  have hsame : ∀ x : Slv, State.isPend { v with slv := x } 71 = v.isPend 71 := fun x => State.isPend_congr rfl 71
  exact ⟨fun hs => (hsame _).trans (hpend hs), State.regsEvt_mk hregs, by rw [hframe]; rfl⟩

/-- The records, the source 71, the masks and the source 128 (R157, R240). -/
theorem statWindowEnd_result (v : State) (hv : v = s.at t) (hlive : s.live 1 = true) (hdom : s.domReady 15 = true)
    (hwin : v.statWindow ≠ s.dmx.win) :
    ∃ u, exec (.statWindowEnd t) s = .next u ∧ u.slv = { s.slv with stats := v.statSlices.map v.statRec } ∧
      u.dmx = { s.dmx with
        winFt := t.ft, win := v.statWindow, stats := s.dmx.stats.mapv (fun _ z => { since := z.since.map (fun _ => t.ft) }) } ∧
      (s.sysOn → u.isPend 71 = true) ∧
      (∀ c < 4, ∀ j < 4, s.hopLen c ≠ 0 → u.reg (Reg.SLV_MRECcj c j) = u.recMask c j) ∧
      (s.sysOn → (∃ c < 4, ∃ j < 4, s.hopLen c ≠ 0 ∧ u.recMask c j ≠ s.reg (Reg.SLV_MRECcj c j)) → u.isPend 128 = true) ∧
      s.regsEvt u ((List.range 16).map (fun k => Reg.SLV_MRECcj (k / 4) (k % 4))) ∧
      u = { v with regs := u.regs, evt := u.evt, dmx := u.dmx, slv := u.slv } := by
  subst hv
  obtain ⟨hpend, hregs, hframe⟩ := s.recorded_result t
  have hnopend : ∀ c j, isPendReg (Reg.SLV_MRECcj c j) = false := fun c j => isPendReg_port (by unfold Reg.SLV_MRECcj; omega)
  have hlen : ∀ c < 4, s.hopLen c ≠ 0 → c ∈ (s.recorded t).hopClasses := fun c hc hne => by
    refine State.mem_hopClasses.mpr ⟨hc, ?_⟩
    rw [State.hopLen_of_regsEvt hregs List.not_mem_nil]
    exact hne
  refine ⟨_, statWindowEnd_on hlive hdom hwin, ?_⟩
  generalize s.recorded t = r at *
  have hmregs := r.regsEvt_remasked
  have hmpend := r.isPend_remasked 71 (by decide)
  have hmframe := r.remasked_frame
  have hmask : ∀ c ∈ r.hopClasses, ∀ j < 4, r.remasked.reg (Reg.SLV_MRECcj c j) = r.recMask c j := fun c hc j hj => r.reg_remasked hc hj
  have hmoves : ∀ c ∈ r.hopClasses, ∀ j < 4, r.recMask c j ≠ r.reg (Reg.SLV_MRECcj c j) → r.maskMoves = true := fun c hc j hj h =>
    State.maskMoves_of hc hj (by rw [r.reg_remasked hc hj]; exact h)
  generalize r.remasked = m at *
  have hfregs : r.regsEvt (m.fireIf r.maskMoves 128) maskRegs := State.regsEvt_fireIf _ 128 hmregs (by decide)
  have hfpend : m.isPend 71 = true → (m.fireIf r.maskMoves 128).isPend 71 = true := m.isPend_fireIf_mono r.maskMoves 128 71
  have hfire : m.sysOn → r.maskMoves = true → (m.fireIf r.maskMoves 128).isPend 128 = true := fun hs h => by
    rw [h]
    exact m.isPend_fire 128 hs
  have hfreg : ∀ c j, (m.fireIf r.maskMoves 128).reg (Reg.SLV_MRECcj c j) = m.reg (Reg.SLV_MRECcj c j) := fun c j =>
    (State.regsEvt_fireIf r.maskMoves 128 (State.regsEvt_refl (s := m) (l := [])) (by decide)) _ List.not_mem_nil (hnopend c j)
  have hfframe := m.fireIf_frame r.maskMoves 128
  generalize m.fireIf r.maskMoves 128 = u at *
  have hstats : u.slv = r.slv := by rw [hfframe, hmframe]
  have hrec : ∀ c < 4, ∀ j, u.recMask c j = r.recMask c j := fun c hc j => State.recMask_congr hfregs (by rw [hstats]) hc j
  have hon : s.sysOn → m.sysOn := State.sysOn_congr (by rw [hmframe, hframe]; rfl)
  refine ⟨?_, ?_, fun hs => hfpend (hmpend.trans (hpend hs)), fun c hc j hj hne => ?_, fun hs hex => ?_, ?_, ?_⟩
  · rw [hstats, hframe]
  · rw [hfframe, hmframe, hframe]
    rfl
  · rw [hfreg, hrec c hc, hmask c (hlen c hc hne) j hj]
  · obtain ⟨c, hc, j, hj, hne, hdiff⟩ := hex
    refine hfire (hon hs) (hmoves c (hlen c hc hne) j hj ?_)
    rw [hregs _ List.not_mem_nil (hnopend c j), ← hrec c hc]
    exact hdiff
  · exact State.regsEvt_trans (State.regsEvt_mono hregs (List.nil_subset _)) hfregs
  · rw [hfframe, hmframe, hframe]

end

end Sys2Proof.Machine
end

section
/-! `Obligations.SlvSchedule` (R157, R231 to R234, R237 to R241). -/

namespace Sys2Proof.Machine

section
variable {s v : State} {t : Time} {node tag dur : Nat} {c : SlvCmd} {l : List SlvCmd} {border : List Placement}

/-- A change of a node with fewer than two unconfirmed sets: its new set and its patch (R223, R230, R236). -/
theorem State.changeSet_small (p : Placement) (hun : v.unconfirmed p.node < 2) (hlen : p.cells.length ≤ 64) :
    (v.changeSet p).msq = { v.msq with patches := v.msq.patches ++ [{
        del := [], add := p.cells.filter (fun x => !v.cellsAhead.contains x),
        links := if p.cells = [] then [] else [(p.record, p.sw, p.par, p.dep)], send := [(p.node, ((v.nodeSets p.node).setid + 1) % 256)] }] } ∧
      (v.changeSet p).slv = { v.slv with nodes := v.slv.nodes.put p.node (v.setsWith p) } ∧
      (v.changeSet p).ctr Ctr.SLV_PATCHES = (v.ctr Ctr.SLV_PATCHES + 1) % 2 ^ 48 ∧ v.regsBut (v.changeSet p) (halves Ctr.SLV_PATCHES) ∧
      v.changeSet p = { v with regs := (v.changeSet p).regs, msq := (v.changeSet p).msq, slv := (v.changeSet p).slv } := by
  have hlinks : (if p.cells = [] then [] else [(p.record, p.sw, p.par, p.dep)]) =
      if p.cells.isEmpty then [] else [(p.record, p.sw, p.par, p.dep)] := if_congr List.isEmpty_iff.symm rfl rfl
  obtain ⟨hregs, hframe⟩ := v.onlySets_changeSet p
  rw [hlinks]
  rw [State.changeSet_now v p hun] at hregs hframe ⊢
  obtain ⟨hmsq, hslv, hctr⟩ := v.newSet_small p hlen
  refine ⟨hmsq, hslv, hctr, hregs, ?_⟩
  generalize v.newSet p = u at *
  rw [hframe]

/-- A JOIN that a bar, or a missing anchor, ends (R232, R241). -/
theorem slvJoin_ends {found : List Placement} {o : Nat} (h : s.slvTakes t 2 c v) (hun : (s.at t).unconfirmed c.node < 2)
    (hrun : (s.at t).slvRun 2 dur (fun u => u.joinAct found dur) = v.slvEnd c o 0 dur) :
    ∃ u, exec (.slvJoin (.run t) node tag dur found) s = .next u ∧ v.slvResulted u (c.result o 0 dur) ∧
      v.regsEvt u (halves Ctr.SLV_RQOVF) ∧
      u = { v with regs := u.regs, evt := u.evt, slv := { v.slv with results := u.slv.results } } :=
  ⟨_, (slvJoin_takes h hun).trans (congrArg Host.Outcome.next hrun), State.slvEnd_result c o dur⟩

theorem slvJoin_acts {found : List Placement} {u : State} (h : s.slvTakes t 2 c v) (hun : (s.at t).unconfirmed c.node < 2)
    (hbar : v.slvBar = none) (hu : v.joinAct found dur c = u) : exec (.slvJoin (.run t) node tag dur found) s = .next u :=
  (slvJoin_takes h hun).trans (congrArg Host.Outcome.next ((State.slvRun_acts h hbar).trans hu))

theorem slvSolve_restarts (hs : s.slv.solve = none) (hh : s.slv.held = c :: l) (hdom : s.domReady 15 = true) (hlevel : s.level = 2) :
    exec (.slvSolve (.run t border) node tag) s =
      .next (State.solveStart { s.at t with slv := { s.slv with held := [] } } c l border) :=
  (slvSolve_held hs hh).trans (congrArg Host.Outcome.next (if_pos (Bool.and_eq_true_iff.mpr ⟨hdom, beq_iff_eq.mpr hlevel⟩)))

theorem statWindowEnd_off_result (hlive : s.live 1 = true) (hdom : s.domReady 15 = false) (hwin : (s.at t).statWindow ≠ s.dmx.win) :
    ∃ u, exec (.statWindowEnd t) s = .next u ∧ u.slv = s.slv ∧ (s.sysOn → u.isPend 71 = true) ∧ s.regsEvt u [] ∧
      u = { s.at t with regs := u.regs, evt := u.evt, dmx := u.dmx } := by
  obtain ⟨hpend, hregs, hframe⟩ := s.nextWindow_result t
  refine ⟨_, statWindowEnd_off hlive hdom hwin, (State.fire_slv _ 71).trans rfl, hpend, hregs, ?_⟩
  generalize (s.nextWindow t).fire 71 = u at *
  rw [hframe]

end

/-- Settles O43: SLV's queue hands each command to its rule (`State.slvRun_takes`); what a JOIN, a LEAVE and a solve leave is read off the
frames of their steps, and the congruence of a node's change with the shortfall FIFO lets the JOIN's records come first. -/
theorem slvSchedule : Obligations.SlvSchedule := by
  unfold Obligations.SlvSchedule
  refine ⟨?_, fun v node found q => ⟨v.joinPick_nil node, v.joinPick_append node found q⟩, ?_, fun v c dur p => v.joinTake_full c dur p,
    fun v p => State.changeSet_small p, fun v p => v.changeSet_waits p, fun v c dur => v.noFit_result c dur, ?_, ?_, ?_, ?_,
    fun s t node tag dur found c => slvJoin_waits, fun s t node tag dur found => slvJoin_off, ?_, ?_, ?_,
    fun s t node tag border c v => slvSolve_starts, ?_, fun s t node tag border c v r => slvSolve_waits,
    fun s t node tag border c l => slvSolve_restarts, fun s t node tag border => slvSolve_off, ?_,
    fun v c l border w => State.solveStart_noAnchor, fun v c l border w => State.solveStart_result,
    fun s t places again far => solveComplete_idle, fun s t places again far r o => solveComplete_barred, ?_, ?_,
    State.solveOver_anchor, State.solveOver_alone, State.solveOver_held,
    fun v s r places again far => State.solveResult_none, fun v s r places again far x p => State.solveResult_left,
    logged_append_singleton, Score.beats_cost, Score.beats_supervised, fun s t => solvePeriodTimer_queues,
    fun s t => solvePeriodTimer_quiet, fun s t node setid f v x => cellsConfirmTimeout_some,
    fun s t node setid => cellsConfirmTimeout_none, ?_, fun v node setid ns x => State.cellsAgain_done,
    fun s t => statWindowEnd_result, fun s t => statWindowEnd_off_result, fun s t => statWindowEnd_running⟩
  · intro s t node tag dur found c v h hun hbar hborder
    exact slvJoin_acts h hun hbar (State.joinAct_places hborder)
  · intro v c dur p w l hw hl hcell hroom
    subst hw
    exact ⟨_, rfl, v.joinTake_result c dur p l hl hcell hroom⟩
  · intro v w node hw
    subst hw
    exact v.dropNode_eq node
  · intro s t node tag dur found c v h hun hbar hborder hanchor
    exact slvJoin_ends h hun ((State.slvRun_acts h hbar).trans (State.joinAct_noAnchor hborder hanchor))
  · intro s t node tag dur found c v h hun hbar hborder hanchor hmember
    exact slvJoin_acts h hun hbar (State.joinAct_asks hborder hanchor hmember)
  · intro s t node tag dur o found c v h hun ho
    exact slvJoin_ends h hun (State.slvRun_barred h ho)
  · intro s t node tag dur found hdom hlevel hasked hop
    rw [slvJoin_other hop]
    refine congrArg Host.Outcome.next (State.slvRun_front hdom hlevel (Or.inr hasked) fun c hc => hop c ?_)
    rw [← State.head_slvFront s t, hc]
  · intro s t node tag dur c v g h hbar hg hsome hlen
    obtain ⟨u, hu, hresult⟩ := v.left_cells c dur g hg hsome hlen
    exact ⟨u, (slvLeave_takes h hbar).trans (congrArg Host.Outcome.next hu.symm), hresult⟩
  · intro s t node tag dur c v h hbar hnone
    obtain ⟨u, hu, hresult⟩ := v.left_empty c dur hnone
    exact ⟨u, (slvLeave_takes h hbar).trans (congrArg Host.Outcome.next hu.symm), hresult⟩
  · intro s t node tag border c v o h ho hqueue
    exact (slvSolve_queue hqueue).trans (congrArg Host.Outcome.next (State.slvRun_barred h ho))
  · intro s t node tag border hdom hlevel hqueue hop
    exact (slvSolve_queue hqueue).trans (congrArg Host.Outcome.next (State.slvRun_front hdom hlevel (Or.inl rfl) hop))
  · intro s t places again far r hs hbar hx
    exact ⟨s.noGain t r, rfl, solveComplete_noGain hs hbar hx, s.noGain_result t r⟩
  · intro s t places again far r x w hs hbar hx hw hroom
    exact ⟨w.solved t r x, rfl, solveComplete_solves hs hbar hx hw hroom, s.solved_result t r x w hw hroom⟩
  · intro v node setid ns x hns hx hc hg
    exact ⟨fun htries => (State.cellsAgain_open hns hx hc hg).trans (if_pos htries), State.cellsAgain_last hns hx hc hg⟩

end Sys2Proof.Machine
end

section
/-! SIC's jobs (R160 to R166): how a job is taken, formed and ended, for `Obligations.SicJobs`. -/

namespace Sys2Proof.Machine

/-! ### The end of a job (R164, R170, R171) -/

/-- Job `j` is off the list, its history reads are dropped and its outcome `o` is counted (R164, R170). -/
def State.jobCounted (s : State) (j : SicJob) (o : SicOutcome) : State :=
  (State.histDrop { s with sic := { s.sic with jobs := s.sic.jobs.filter (fun (x : SicJob) => x.id != j.id) } } .sic j.id).bump
    (Ctr.SIC_RESOLVED + 8 * o.code)

/-- The job is gone, and the source of its outcome, if it has one, has fired. -/
def State.jobReported (s : State) (j : SicJob) (o : SicOutcome) : State :=
  match o.src with
  | some k => (s.jobCounted j o).fire k
  | none => s.jobCounted j o

/-- A job that ends is reported, and a record of it is offered to the result FIFO. -/
theorem State.endJob_eq (s : State) (j : SicJob) (o : SicOutcome) : ∃ r, s.endJob j o = (s.jobReported j o).pushJobRec r := ⟨_, rfl⟩

/-- The sources of outcomes, 81 to 84, lie within EVT_PENDn. -/
theorem SicOutcome.src_lt {o : SicOutcome} {k : Nat} (h : o.src = some k) : k < 256 := by
  cases o <;> cases h <;> decide

/-- The counter of an outcome is none of EVT_PENDn. -/
theorem isPendReg_outcome (o : SicOutcome) :
    isPendReg (Ctr.SIC_RESOLVED + 8 * o.code) = false ∧ isPendReg (Ctr.SIC_RESOLVED + 8 * o.code + 4) = false := by
  cases o <;> decide

/-- Only registers, pending bits, the history reads and SIC's own data have changed. -/
def State.onlyJobs (s u : State) : Prop := u = { s with regs := u.regs, evt := u.evt, rfp := u.rfp, sic := u.sic }

section

variable {s u v : State}

theorem State.onlyJobs_refl : s.onlyJobs s := rfl

theorem State.onlyJobs_sic {x : Sic} : s.onlyJobs { s with sic := x } := rfl

theorem State.onlyJobs_of (h : s.onlyJobs u) (hv : u.onlyJobs v) : s.onlyJobs v := by
  unfold State.onlyJobs at *
  rw [hv, h]

theorem State.inbox_of_onlyJobs (h : s.onlyJobs u) : u.inbox = s.inbox := by
  unfold State.onlyJobs at h
  rw [h]

theorem State.onlyJobs_bump (h : s.onlyJobs u) (c n : Nat) : s.onlyJobs (u.bump c n) :=
  State.onlyJobs_of h (u.bump_frame c n)

theorem State.onlyJobs_fire (h : s.onlyJobs u) (k : Nat) : s.onlyJobs (u.fire k) := by
  refine State.onlyJobs_of h ?_
  unfold State.onlyJobs
  rw [State.fire_frame]

theorem State.onlyJobs_fireIf (h : s.onlyJobs u) (b : Bool) (k : Nat) : s.onlyJobs (u.fireIf b k) := by
  cases b
  · exact h
  · exact State.onlyJobs_fire h k

end

section

variable (s : State) (j : SicJob) (o : SicOutcome)

theorem State.sic_jobReported : (s.jobReported j o).sic =
    { s.sic with jobs := s.sic.jobs.filter (fun (x : SicJob) => x.id != j.id) } := by
  unfold State.jobReported
  split
  · exact State.fire_sic _ _
  · rfl

theorem State.onlyJobs_jobReported : s.onlyJobs (s.jobReported j o) := by
  have hcounted : s.onlyJobs (s.jobCounted j o) := rfl
  unfold State.jobReported
  split
  · exact State.onlyJobs_fire hcounted _
  · exact hcounted

theorem State.ctr_jobReported :
    (s.jobReported j o).ctr (Ctr.SIC_RESOLVED + 8 * o.code) = (s.ctr (Ctr.SIC_RESOLVED + 8 * o.code) + 1) % 2 ^ 48 := by
  obtain ⟨hlo, hhi⟩ := isPendReg_outcome o
  have hcounted : (s.jobCounted j o).ctr (Ctr.SIC_RESOLVED + 8 * o.code) = (s.ctr (Ctr.SIC_RESOLVED + 8 * o.code) + 1) % 2 ^ 48 :=
    State.ctr_bump_same _ _ _
  unfold State.jobReported
  split
  next k hk => exact (State.ctr_fire_ne _ _ _ (SicOutcome.src_lt hk) hlo hhi).trans hcounted
  next => exact hcounted

theorem State.regsEvt_jobReported : s.regsEvt (s.jobReported j o) (halves (Ctr.SIC_RESOLVED + 8 * o.code)) := by
  have hcounted : s.regsEvt (s.jobCounted j o) (halves (Ctr.SIC_RESOLVED + 8 * o.code)) :=
    State.regsEvt_bump _ _ (State.regsEvt_regs rfl State.regsEvt_refl) (by simp [halves]) (by simp [halves])
  unfold State.jobReported
  split
  next k hk => exact State.regsEvt_fire k hcounted (SicOutcome.src_lt hk)
  next => exact hcounted

theorem State.isPend_jobReported {k : Nat} (hk : o.src = some k) (hs : s.sysOn) : (s.jobReported j o).isPend k = true := by
  unfold State.jobReported
  rw [hk]
  exact State.isPend_fire _ k hs

theorem State.onlyJobs_pushJobRec (r : JobRec) : s.onlyJobs (s.pushJobRec r) := by
  unfold State.pushJobRec
  split
  · exact State.onlyJobs_refl
  · split
    · exact State.onlyJobs_fire (State.onlyJobs_bump State.onlyJobs_refl _ _) 87
    · exact State.onlyJobs_fireIf State.onlyJobs_sic _ 86

theorem State.regsEvt_pushJobRec (r : JobRec) : s.regsEvt (s.pushJobRec r) (halves Ctr.SIC_RQOVF) := by
  unfold State.pushJobRec
  refine State.regsEvt_if State.regsEvt_refl (State.regsEvt_if ?_ ?_)
  · exact State.regsEvt_fire 87 (State.regsEvt_bump _ _ State.regsEvt_refl (by decide) (by decide)) (by decide)
  · exact State.regsEvt_fireIf _ 86 (State.regsEvt_mk State.regsEvt_refl) (by decide)

theorem State.onlyJobs_endJob : s.onlyJobs (s.endJob j o) := by
  obtain ⟨r, heq⟩ := s.endJob_eq j o
  rw [heq]
  exact State.onlyJobs_of (s.onlyJobs_jobReported j o) (State.onlyJobs_pushJobRec _ r)

/-- A job that ends writes the counter of its outcome, and SIC_RQOVF where its record is lost. -/
theorem State.regsEvt_endJob : s.regsEvt (s.endJob j o) (halves (Ctr.SIC_RESOLVED + 8 * o.code) ++ halves Ctr.SIC_RQOVF) := by
  obtain ⟨r, heq⟩ := s.endJob_eq j o
  rw [heq]
  exact State.regsEvt_trans (State.regsEvt_mono (s.regsEvt_jobReported j o) (List.subset_append_left _ _))
    (State.regsEvt_mono (State.regsEvt_pushJobRec _ r) (List.subset_append_right _ _))

variable {s}

/-- With RECORD 0 no record is kept (R171). -/
theorem State.endJob_unrecorded (h : s.on F.SIC_RCFG_RECORD = false) : s.endJob j o = s.jobReported j o := by
  obtain ⟨r, heq⟩ := s.endJob_eq j o
  have hoff : (s.jobReported j o).on F.SIC_RCFG_RECORD = false := by
    rw [State.on_of_regsEvt (s.regsEvt_jobReported j o) (by cases o <;> decide) (by decide), h]
  rw [heq]
  unfold State.pushJobRec
  rw [hoff]
  rfl

theorem State.endJob_unrecorded_result (h : s.on F.SIC_RCFG_RECORD = false) :
    (s.endJob j o).ctr (Ctr.SIC_RESOLVED + 8 * o.code) = (s.ctr (Ctr.SIC_RESOLVED + 8 * o.code) + 1) % 2 ^ 48 ∧
    (∀ k, o.src = some k → s.sysOn → (s.endJob j o).isPend k = true) ∧
    (s.endJob j o).sic = { s.sic with jobs := s.sic.jobs.filter (fun (x : SicJob) => x.id != j.id) } ∧
    s.regsEvt (s.endJob j o) (halves (Ctr.SIC_RESOLVED + 8 * o.code)) := by
  rw [State.endJob_unrecorded j o h]
  exact ⟨s.ctr_jobReported j o, fun k hk hs => s.isPend_jobReported j o hk hs, s.sic_jobReported j o, s.regsEvt_jobReported j o⟩

end

/-! ### Taking a job (R160, R161, R166) -/

section

variable {s : State} {t : Time} {j : SicJob}

/-- SIC_JOB_START with a job that an engine could take: the read limit alone decides (R166). -/
theorem sicJobStart_written (hfree : s.engFree = true) (hj : earliestJob s.sic.jobs = some j) (hw : (s.at t).windowWritten j = true) :
    exec (.sicJobStart t) s = .next (if (s.at t).readHeld ((s.at t).taken j) then s.at t
      else ((s.at t).bump Ctr.SIC_JOBS).formJob ((s.at t).taken j) t) := by
  have hfree' : (s.at t).engFree = true := hfree
  change execSicJobStart t s = _
  unfold execSicJobStart
  dsimp only
  rw [hfree', hj]
  dsimp only
  rw [hw, Bool.not_true, Bool.false_or, if_neg Bool.false_ne_true]

theorem sicJobStart_idle (h : s.engFree = false ∨ earliestJob s.sic.jobs = none ∨
    (earliestJob s.sic.jobs).any (fun j => !(s.at t).windowWritten j) = true) : exec (.sicJobStart t) s = .next (s.at t) := by
  change execSicJobStart t s = _
  unfold execSicJobStart
  refine congrArg Host.Outcome.next ?_
  split
  next => rfl
  next hfree =>
    have hbusy : s.engFree ≠ false := fun hf => hfree (Bool.not_eq_true' _ |>.mpr hf)
    split
    next => rfl
    next x hx =>
      refine if_pos ?_
      rcases h with h | h | h
      · exact absurd h hbusy
      · exact absurd (hx.symm.trans h) (Option.some_ne_none x)
      · rw [hx] at h
        exact Bool.or_eq_true _ _ |>.mpr (Or.inl h)

theorem State.rdHold_of_earliest (hfree : s.engFree = true) (hj : earliestJob s.sic.jobs = some j) (hw : s.windowWritten j = true)
    (hheld : s.readHeld (s.taken j) = true) : s.rdHold = true := by
  unfold State.rdHold
  rw [hfree, hj]
  dsimp only
  rw [hw, hheld]
  rfl

theorem sicJobResume_none {id : Nat} (hf : s.sic.jobs.find? (fun (j : SicJob) => j.id == id && j.phase == .waiting) = none) :
    exec (.sicJobResume t id) s = .next (s.at t) := by
  change execSicJobResume t id s = _
  unfold execSicJobResume
  rw [hf]

theorem sicJobResume_waiting {id : Nat} (hf : s.sic.jobs.find? (fun (j : SicJob) => j.id == id && j.phase == .waiting) = some j) :
    exec (.sicJobResume t id) s = .next ((s.at t).formJob j t) := by
  change execSicJobResume t id s = _
  unfold execSicJobResume
  rw [hf]

end

/-! ### Forming a job's set (R160, R161, R166) -/

/-- A job's set formed, it is the same job. -/
theorem State.id_of_formSet {s : State} {j d : SicJob} {n : Nat} (h : s.formSet j = (d, n)) : d.id = j.id :=
  (congrArg (fun e => e.1.id) h).symm

/-- The state in which a formed job `d` runs, `n` references of its members gone: counted if it has three members. -/
def State.jobFormed (s : State) (d : SicJob) (n : Nat) : State :=
  if d.members.length = 3 then ((s.bump Ctr.SIC_REFMISS n).putJob { d with phase := .running }).bump Ctr.SIC_THREE
  else (s.bump Ctr.SIC_REFMISS n).putJob { d with phase := .running }

theorem State.sic_jobFormed (s : State) (d : SicJob) (n : Nat) :
    (s.jobFormed d n).sic = (s.putJob { d with phase := .running }).sic := by
  unfold State.jobFormed
  split
  · rfl
  · rfl

theorem State.rfp_jobFormed (s : State) (d : SicJob) (n : Nat) : (s.jobFormed d n).rfp = s.rfp := by
  unfold State.jobFormed
  split
  · rfl
  · rfl

theorem State.regsEvt_jobFormed (s : State) (d : SicJob) (n : Nat) :
    s.regsEvt (s.jobFormed d n) (halves Ctr.SIC_REFMISS ++ halves Ctr.SIC_THREE) := by
  have hput : s.regsEvt ((s.bump Ctr.SIC_REFMISS n).putJob { d with phase := .running })
      (halves Ctr.SIC_REFMISS ++ halves Ctr.SIC_THREE) :=
    State.regsEvt_mk (State.regsEvt_bump _ _ State.regsEvt_refl (by decide) (by decide))
  exact State.regsEvt_if (State.regsEvt_bump _ _ hput (by decide) (by decide)) hput

/-- A job put in its place and then taken off the list is off the list. -/
theorem filter_id_map_put (l : List SicJob) (k : SicJob) :
    (l.map (fun x => if x.id = k.id then k else x)).filter (fun (x : SicJob) => x.id != k.id) =
      l.filter (fun (x : SicJob) => x.id != k.id) := by
  induction l with
  | nil => rfl
  | cons x xs ih =>
    by_cases hx : x.id = k.id
    · simp [hx, ih]
    · simp [hx, ih]

section

variable {s : State} {t : Time} {j d : SicJob} {n : Nat}

theorem State.formJob_overlaps (h : s.formSet j = (d, n)) (hl : s.laneOverlaps j.slice d.start d.fin = true) :
    s.formJob j t = (s.bump Ctr.SIC_REFMISS n).putJob { d with phase := .waiting } := by
  unfold State.formJob
  rw [h]
  exact if_pos hl

theorem State.formJob_over {o : SicOutcome} (h : s.formSet j = (d, n)) (hl : s.laneOverlaps j.slice d.start d.fin = false)
    (hv : s.verdict d = some o) : s.formJob j t = (s.jobFormed d n).endJob d o := by
  unfold State.formJob State.jobFormed
  simp only [h, hl, hv, Bool.false_eq_true, if_false]

/-- A formed job that no lane keeps waiting and no verdict ends: the read limit decides (R166). -/
theorem State.formJob_clear (h : s.formSet j = (d, n)) (hl : s.laneOverlaps j.slice d.start d.fin = false)
    (hv : s.verdict d = none) : s.formJob j t =
      if s.readsFull d t.ft then (s.bump Ctr.SIC_REFMISS n).putJob { d with phase := .waiting }
      else ((s.jobFormed d n).logReads t.ft (s.jobVolume d)).jobReads { d with phase := .running } := by
  unfold State.formJob State.jobFormed
  simp only [h, hl, hv, Bool.false_eq_true, if_false]

theorem State.formJob_ends {o : SicOutcome} (h : s.formSet j = (d, n)) (hl : s.laneOverlaps j.slice d.start d.fin = false)
    (hv : s.verdict d = some o) (hrec : s.on F.SIC_RCFG_RECORD = false) :
    (s.formJob j t).sic.jobs = s.sic.jobs.filter (fun (x : SicJob) => x.id != j.id) ∧
      (s.formJob j t).ctr (Ctr.SIC_RESOLVED + 8 * o.code) = (s.ctr (Ctr.SIC_RESOLVED + 8 * o.code) + 1) % 2 ^ 48 := by
  have hregs := s.regsEvt_jobFormed d n
  have hoff : (s.jobFormed d n).on F.SIC_RCFG_RECORD = false := (State.on_of_regsEvt hregs (by decide) (by decide)).trans hrec
  obtain ⟨hlo, hhi⟩ := isPendReg_outcome o
  have hctr : (s.jobFormed d n).ctr (Ctr.SIC_RESOLVED + 8 * o.code) = s.ctr (Ctr.SIC_RESOLVED + 8 * o.code) :=
    State.ctr_of_regsEvt hregs (by cases o <;> decide) (by cases o <;> decide) hlo hhi
  obtain ⟨hcount, -, hsic, -⟩ := State.endJob_unrecorded_result d o hoff
  rw [State.formJob_over h hl hv]
  refine ⟨?_, hcount.trans (by rw [hctr])⟩
  rw [hsic, State.sic_jobFormed, ← State.id_of_formSet h]
  exact filter_id_map_put s.sic.jobs { d with phase := .running }

theorem State.formJob_full (h : s.formSet j = (d, n)) (hl : s.laneOverlaps j.slice d.start d.fin = false) (hv : s.verdict d = none)
    (hfull : s.readsFull d t.ft = true) : s.formJob j t = (s.bump Ctr.SIC_REFMISS n).putJob { d with phase := .waiting } := by
  rw [State.formJob_clear h hl hv, if_pos hfull]

theorem State.nextRead_histRequest (s : State) (rd : HistReader) (tag p start count : Nat) :
    s.rfp.nextRead < (s.histRequest rd tag p start count).rfp.nextRead := by
  unfold State.histRequest
  dsimp only
  split
  · split
    · exact Nat.lt_of_lt_of_le (Nat.lt_succ_self _) (Nat.le_succ _)
    · exact Nat.lt_succ_self _
  · exact Nat.lt_succ_self _

/-- A job requests a read of each port that it reads, and changes RFP alone (R162). -/
theorem State.jobReads_result (s : State) (j : SicJob) :
    (s.jobReads j).sic = s.sic ∧ s.rfp.nextRead < (s.jobReads j).rfp.nextRead := by
  unfold State.jobReads
  dsimp only
  have hfirst := s.nextRead_histRequest .sic j.id (j.slice / 128) j.start
    (gtToNs (gtDiff j.fin j.start).toNat s.mainsFreq * s.fld (F.RFPn_RXFS_FS (j.slice / 128)) / 1000000)
  split
  · refine ⟨?_, hfirst.trans (State.nextRead_histRequest _ _ _ _ _ _)⟩
    rw [State.histRequest_frame, State.histRequest_frame]
  · refine ⟨?_, hfirst⟩
    rw [State.histRequest_frame]

theorem State.formJob_runs (h : s.formSet j = (d, n)) (hl : s.laneOverlaps j.slice d.start d.fin = false) (hv : s.verdict d = none)
    (hroom : s.readsFull d t.ft = false) :
    (s.formJob j t).sic.jobs = s.sic.jobs.map (fun x => if x.id = j.id then { d with phase := .running } else x) ∧
      s.rfp.nextRead < (s.formJob j t).rfp.nextRead := by
  obtain ⟨hsic, hnext⟩ := ((s.jobFormed d n).logReads t.ft (s.jobVolume d)).jobReads_result { d with phase := .running }
  have hjobs : (s.jobFormed d n).sic.jobs = s.sic.jobs.map (fun x => if x.id = d.id then { d with phase := .running } else x) :=
    congrArg Sic.jobs (s.sic_jobFormed d n)
  rw [State.formJob_clear h hl hv, if_neg (ne_true_of_eq_false hroom), ← State.id_of_formSet h]
  exact ⟨(congrArg Sic.jobs hsic).trans hjobs, (congrArg Rfp.nextRead (s.rfp_jobFormed d n)).symm ▸ hnext⟩

end

end Sys2Proof.Machine
end

section
/-! SIC's passes (R162, R165), for `Obligations.SicJobs`. -/

namespace Sys2Proof.Machine

/-! ### SIC_PASS_COMPLETE -/

/-- The reference entry of a known member is gone (R160). -/
def State.refGone (s : State) (m : Member) : Bool :=
  match m.ref with
  | some r => m.known && !s.sic.refs.any (fun e => e.id == r)
  | none => false

/-- Job `j` after a pass that changed its member `m` by `f`: the first pass may have found hidden members (R162). -/
def State.passed (s : State) (j : SicJob) (m : Member) (hidden : List HiddenDet) (f : Member → Member) : SicJob :=
  (if j.passes = 0 ∧ F.SIC_CFG_HIDDEN.ext j.cfg = 1 then hidden.filter (fun d => bit (s.hunterMask j.slice) d.lh) else []).foldl
    (addHidden j.cfg j.div (fun lh => s.symGt j.slice lh 1))
    { j with passes := j.passes + 1, members := updMember (fun (x : Member) => x == m) f j.members }

/-- Job `k`, that `j` has become by a pass, goes on, its new hidden members counted. -/
def State.goesOn (s : State) (j k : SicJob) : State := (s.bump Ctr.SIC_HIDDEN (k.members.length - j.members.length)).advanceJob k

/-- The frame `fr` that SIC decoded is passed on and counted (R165). -/
def State.passedOn (s : State) (fr : RxFrame) : State := State.bump { s with inbox := s.inbox ++ [fr] } Ctr.SIC_FRMOK

/-- The pass of member `m` of job `j` (R162). -/
def State.pass (s : State) (j : SicJob) (m : Member) (dec : Option PassDecode) (hidden : List HiddenDet) : State :=
  if s.refGone m then (s.bump Ctr.SIC_REFMISS).putJob
    { j with members := updMember (fun (x : Member) => x == m) (fun x => { x with ref := none, known := false }) j.members }
  else if m.known then s.goesOn j (s.passed j m hidden (fun x => { x with subtracted := true }))
  else match (s.sicDecode j m dec).1 with
    | some fr => ((s.sicDecode j m dec).2.passedOn fr).goesOn j
        (s.passed j m hidden (fun x => { x with known := true, subtracted := true, tried := true, decoded := true }))
    | none => (s.sicDecode j m dec).2.goesOn j (s.passed j m hidden (fun x => { x with tried := true }))

section

variable {s : State} {id : Nat} {dec : Option PassDecode} {hidden : List HiddenDet} {j : SicJob} {m : Member}

theorem sicPassComplete_none (hf : s.sic.jobs.find? (fun (j : SicJob) => j.id == id && j.phase == .running) = none) :
    exec (.sicPassComplete id dec hidden) s = .next s := by
  change execSicPassComplete id dec hidden s = _
  unfold execSicPassComplete
  rw [hf]

theorem sicPassComplete_reading (hf : s.sic.jobs.find? (fun (j : SicJob) => j.id == id && j.phase == .running) = some j)
    (hr : s.jobReading id = true) : exec (.sicPassComplete id dec hidden) s = .next s := by
  change execSicPassComplete id dec hidden s = _
  unfold execSicPassComplete
  rw [hf]
  exact congrArg Host.Outcome.next (if_pos hr)

theorem sicPassComplete_over (hf : s.sic.jobs.find? (fun (j : SicJob) => j.id == id && j.phase == .running) = some j)
    (hr : s.jobReading id = false) (hn : j.nextMember = none) :
    exec (.sicPassComplete id dec hidden) s = .next (s.endJob j j.result) := by
  change execSicPassComplete id dec hidden s = _
  unfold execSicPassComplete
  rw [hf]
  dsimp only
  rw [if_neg (ne_true_of_eq_false hr), hn]

theorem sicPassComplete_pass (hf : s.sic.jobs.find? (fun (j : SicJob) => j.id == id && j.phase == .running) = some j)
    (hr : s.jobReading id = false) (hn : j.nextMember = some m) :
    exec (.sicPassComplete id dec hidden) s = .next (s.pass j m dec hidden) := by
  have hsearch : ((j.passes == 0 && F.SIC_CFG_HIDDEN.ext j.cfg == 1) = true) = (j.passes = 0 ∧ F.SIC_CFG_HIDDEN.ext j.cfg = 1) := by simp
  change execSicPassComplete id dec hidden s = _
  unfold execSicPassComplete State.pass
  rw [hf]
  dsimp only
  rw [if_neg (ne_true_of_eq_false hr), hn]
  dsimp only
  simp only [hsearch]
  obtain ⟨fr, u⟩ := s.sicDecode j m dec
  cases fr with
  | none => rfl
  | some fr => rfl

end

/-! ### What a pass does -/

section

variable {s : State} {dec : Option PassDecode} {hidden : List HiddenDet} {j : SicJob} {m : Member}

theorem State.refGone_unknown (h : m.known = false) : s.refGone m = false := by
  unfold State.refGone
  rw [h]
  cases m.ref with
  | none => rfl
  | some r => rfl

theorem State.refGone_held (h : m.ref.all (fun r => s.sic.refs.any (fun (e : RefEntry) => e.id == r)) = true) :
    s.refGone m = false := by
  unfold State.refGone
  cases hr : m.ref with
  | none => rfl
  | some r =>
    rw [hr] at h
    have hany : s.sic.refs.any (fun (e : RefEntry) => e.id == r) = true := h
    dsimp only
    rw [hany, Bool.not_true, Bool.and_false]

theorem State.refGone_evicted {r : Nat} (hk : m.known = true) (hm : m.ref = some r)
    (hr : s.sic.refs.any (fun (e : RefEntry) => e.id == r) = false) : s.refGone m = true := by
  unfold State.refGone
  rw [hm]
  dsimp only
  rw [hk, hr]
  rfl

theorem State.pass_evicted {r : Nat} (hk : m.known = true) (hm : m.ref = some r)
    (hr : s.sic.refs.any (fun (e : RefEntry) => e.id == r) = false) :
    s.pass j m dec hidden = (s.bump Ctr.SIC_REFMISS).putJob
      { j with members := updMember (fun (x : Member) => x == m) (fun x => { x with ref := none, known := false }) j.members } :=
  if_pos (State.refGone_evicted hk hm hr)

theorem State.pass_known (hk : m.known = true)
    (hm : m.ref.all (fun r => s.sic.refs.any (fun (e : RefEntry) => e.id == r)) = true) :
    s.pass j m dec hidden = s.goesOn j (s.passed j m hidden (fun x => { x with subtracted := true })) := by
  unfold State.pass
  rw [State.refGone_held hm, if_neg Bool.false_ne_true, if_pos hk]

theorem State.pass_undecoded (hk : m.known = false) (hd : (s.sicDecode j m dec).1 = none) :
    s.pass j m dec hidden = (s.sicDecode j m dec).2.goesOn j (s.passed j m hidden (fun x => { x with tried := true })) := by
  unfold State.pass
  rw [State.refGone_unknown hk, if_neg Bool.false_ne_true, if_neg (ne_true_of_eq_false hk), hd]

theorem State.pass_decoded {fr : RxFrame} {v : State} (hk : m.known = false) (hd : s.sicDecode j m dec = (some fr, v)) :
    s.pass j m dec hidden = (v.passedOn fr).goesOn j
      (s.passed j m hidden (fun x => { x with known := true, subtracted := true, tried := true, decoded := true })) := by
  unfold State.pass
  rw [State.refGone_unknown hk, if_neg Bool.false_ne_true, if_neg (ne_true_of_eq_false hk), hd]

end

/-! ### A member that decodes (R162, R165) -/

/-- A payload decode counts its codewords, and may fire source 89 (R134, R136). -/
theorem State.regsEvt_cdcPayload (s : State) (h : Hdr) (coded : List Octet) : s.regsEvt (s.cdcPayload h coded).2
    (halves Ctr.CDC_CWOK ++ halves Ctr.CDC_CWSYM ++ halves Ctr.CDC_CWFAIL) := by
  have hwords : s.regsEvt (s.codewords (decodePayload h coded))
      (halves Ctr.CDC_CWOK ++ halves Ctr.CDC_CWSYM ++ halves Ctr.CDC_CWFAIL) :=
    State.regsEvt_bump _ _ (State.regsEvt_bump _ _ (State.regsEvt_bump _ _ State.regsEvt_refl (by decide) (by decide))
      (by decide) (by decide)) (by decide) (by decide)
  obtain ⟨hit, heq⟩ := s.cdcPayload_eq h coded
  rw [heq]
  exact State.regsEvt_fireIf _ 89 (State.regsEvt_mk hwords) (by decide)

section

variable (s : State) {j : SicJob} {m : Member} {d : PassDecode} {h : Hdr} {w c : Nat} {pl : List Octet}

/-- A member whose header and payload pass every check: its frame carries that payload. -/
theorem State.sicDecode_ok (hh : hdrCheck m.lh d.w0 d.w1 = .ok h w c) (hp : (decodePayload h d.coded).payload = some pl) :
    ∃ fr : RxFrame, fr.payload = pl ∧
      s.sicDecode j m (some d) = (some fr, ((s.hdrPassed c).cdcPayload h d.coded).2) := by
  obtain ⟨v, hv⟩ : ∃ v, (s.hdrPassed c).cdcPayload h d.coded = (decodePayload h d.coded, v) := ⟨_, rfl⟩
  unfold State.sicDecode
  dsimp only
  rw [State.cdcHeader_ok s hh]
  dsimp only
  rw [hv]
  dsimp only
  rw [hp]
  exact ⟨_, rfl, rfl⟩

/-- What CDC leaves of a header and a payload that decode: the header is counted, and no frame is passed on by CDC itself. -/
theorem State.cdcDecoded_result (h : Hdr) (c : Nat) (coded : List Octet) :
    ((s.hdrPassed c).cdcPayload h coded).2.ctr Ctr.CDC_HDROK = (s.ctr Ctr.CDC_HDROK + 1) % 2 ^ 48 ∧
    ((s.hdrPassed c).cdcPayload h coded).2.ctr Ctr.SIC_FRMOK = s.ctr Ctr.SIC_FRMOK ∧
    ((s.hdrPassed c).cdcPayload h coded).2.inbox = s.inbox := by
  have hpay := (s.hdrPassed c).regsEvt_cdcPayload h coded
  have hhdr : s.regsEvt (s.hdrPassed c) (halves Ctr.CDC_HDROK ++ halves Ctr.CDC_HDRCOR) := State.regsEvt_of_but (s.regsBut_hdrPassed c)
  obtain ⟨-, -, -, hframe⟩ := (s.hdrPassed c).cdcPayload_result h coded
  refine ⟨?_, ?_, ?_⟩
  · rw [State.ctr_of_regsEvt hpay (by decide) (by decide) (by decide) (by decide), State.ctr_hdrPassed_ok]
  · rw [State.ctr_of_regsEvt hpay (by decide) (by decide) (by decide) (by decide),
      State.ctr_of_regsEvt hhdr (by decide) (by decide) (by decide) (by decide)]
  · rw [hframe, State.hdrPassed_frame]

theorem State.onlyJobs_advanceJob (j : SicJob) : s.onlyJobs (s.advanceJob j) := by
  unfold State.advanceJob
  split
  · exact State.onlyJobs_sic
  · exact s.onlyJobs_endJob j j.result

/-- A job that goes on writes no register; one that ends writes those of its end. -/
theorem State.regsEvt_advanceJob (j : SicJob) :
    s.regsEvt (s.advanceJob j) (halves (Ctr.SIC_RESOLVED + 8 * j.result.code) ++ halves Ctr.SIC_RQOVF) := by
  unfold State.advanceJob
  split
  · exact State.regsEvt_regs rfl State.regsEvt_refl
  · exact s.regsEvt_endJob j j.result

theorem State.inbox_goesOn (j k : SicJob) : (s.goesOn j k).inbox = s.inbox :=
  State.inbox_of_onlyJobs (State.onlyJobs_advanceJob (s.bump Ctr.SIC_HIDDEN (k.members.length - j.members.length)) k)

/-- A counter apart from those of hidden members, of outcomes and of lost records keeps its count when a job goes on. -/
theorem State.ctr_goesOn (j k : SicJob) {c : Nat} (hh : c ∉ halves Ctr.SIC_HIDDEN ∧ c + 4 ∉ halves Ctr.SIC_HIDDEN)
    (he : ∀ o : SicOutcome, c ∉ halves (Ctr.SIC_RESOLVED + 8 * o.code) ++ halves Ctr.SIC_RQOVF ∧
      c + 4 ∉ halves (Ctr.SIC_RESOLVED + 8 * o.code) ++ halves Ctr.SIC_RQOVF)
    (hp : isPendReg c = false ∧ isPendReg (c + 4) = false) : (s.goesOn j k).ctr c = s.ctr c := by
  have hhid : s.regsEvt (s.bump Ctr.SIC_HIDDEN (k.members.length - j.members.length)) (halves Ctr.SIC_HIDDEN) :=
    State.regsEvt_bump _ _ State.regsEvt_refl (by decide) (by decide)
  exact (State.ctr_of_regsEvt (State.regsEvt_advanceJob _ k) (he k.result).1 (he k.result).2 hp.1 hp.2).trans
    (State.ctr_of_regsEvt hhid hh.1 hh.2 hp.1 hp.2)

end

section

variable {s : State} {id : Nat} {d : PassDecode} {hidden : List HiddenDet} {j : SicJob} {m : Member} {h : Hdr} {w c : Nat}
  {pl : List Octet}

/-- A member that decodes joins the inbox, counted by SIC and by CDC (R165). -/
theorem sicPassComplete_decodes (hf : s.sic.jobs.find? (fun (j : SicJob) => j.id == id && j.phase == .running) = some j)
    (hr : s.jobReading id = false) (hn : j.nextMember = some m) (hk : m.known = false)
    (hh : hdrCheck m.lh d.w0 d.w1 = .ok h w c) (hp : (decodePayload h d.coded).payload = some pl) :
    ∃ u, exec (.sicPassComplete id (some d) hidden) s = .next u ∧ u.inbox.length = s.inbox.length + 1 ∧
      (u.inbox.getLast?.map (fun f => f.payload)) = some pl ∧ u.ctr Ctr.SIC_FRMOK = (s.ctr Ctr.SIC_FRMOK + 1) % 2 ^ 48 ∧
      u.ctr Ctr.CDC_HDROK = (s.ctr Ctr.CDC_HDROK + 1) % 2 ^ 48 := by
  obtain ⟨fr, hfr, hdec⟩ := s.sicDecode_ok (j := j) hh hp
  obtain ⟨hhdr, hfrm, hin⟩ := s.cdcDecoded_result h c d.coded
  generalize ((s.hdrPassed c).cdcPayload h d.coded).2 = v at hdec hhdr hfrm hin
  have hinbox : (v.passedOn fr).inbox = s.inbox ++ [fr] := congrArg (fun l => l ++ [fr]) hin
  have hcount : (v.passedOn fr).ctr Ctr.SIC_FRMOK = (v.ctr Ctr.SIC_FRMOK + 1) % 2 ^ 48 := State.ctr_bump_same _ _ 1
  have hkept : (v.passedOn fr).ctr Ctr.CDC_HDROK = v.ctr Ctr.CDC_HDROK := State.ctr_bump_ne _ _ _ _ (by decide) (by decide) (by decide)
  refine ⟨_, (sicPassComplete_pass hf hr hn).trans (congrArg Host.Outcome.next (State.pass_decoded hk hdec)), ?_, ?_, ?_, ?_⟩
  · rw [State.inbox_goesOn, hinbox, List.length_append, List.length_singleton]
  · rw [State.inbox_goesOn, hinbox, List.getLast?_concat]
    exact congrArg some hfr
  · rw [State.ctr_goesOn _ _ _ (by decide) (fun o => by cases o <;> decide) (by decide), hcount, hfrm]
  · rw [State.ctr_goesOn _ _ _ (by decide) (fun o => by cases o <;> decide) (by decide), hkept, hhdr]

end

/-! ### SIC_RQPOP (R171) -/

theorem sicRqpop_unbarred {s : State} {rq : Req} (hb : s.barred rq Reg.SIC_RQPOP (some 1) = none) :
    exec (.sicRqpop rq) s = .next { (s.setReg Reg.SIC_RQPOP (s.reg Reg.SIC_RQPOP)).respond [] true with
      sic := { s.sic with fifo := s.sic.fifo.drop 1 } } := by
  change execSicRqpop rq s = _
  unfold execSicRqpop
  rw [State.gated_next s rq Reg.SIC_RQPOP 1 _ (by decide) hb]
  rfl

/-- Settles O37: each clause is the lemma of its command, of a job's formation, of a pass, or of a job's end. -/
theorem sicJobs : Obligations.SicJobs := by
  unfold Obligations.SicJobs
  refine ⟨fun s t => ⟨_, rfl, rfl⟩, ?_, ?_, fun s t => sicJobStart_idle, fun s t id => sicJobResume_none,
    fun s t id j => sicJobResume_waiting, fun s t j d n => State.formJob_overlaps, fun s t j d n o => State.formJob_ends,
    fun s t j d n => State.formJob_runs, fun s t j d n => State.formJob_full, fun s id dec hidden => sicPassComplete_none,
    fun s id dec hidden j => sicPassComplete_reading, fun s id dec hidden j => sicPassComplete_over, ?_, ?_, ?_,
    fun s id d hidden j m h w c pl => sicPassComplete_decodes, fun s j o => State.endJob_unrecorded_result j o, ?_⟩
  · intro s t j hfree hj hw hheld
    rw [sicJobStart_written hfree hj hw, if_neg (ne_true_of_eq_false hheld)]
  · intro s t j hfree hj hw hheld
    refine ⟨?_, State.rdHold_of_earliest (s := s.at t) hfree hj hw hheld⟩
    rw [sicJobStart_written hfree hj hw, if_pos hheld]
  · intro s id dec hidden j k m hf hr hn hk hd hpassed
    rw [sicPassComplete_pass hf hr hn, State.pass_undecoded hk hd, hpassed]
    rfl
  · intro s id dec hidden j k m hf hr hn hk hm hpassed
    rw [sicPassComplete_pass hf hr hn, State.pass_known hk hm, hpassed]
    rfl
  · intro s id dec hidden j m r hf hr hn hk hm hgone
    rw [sicPassComplete_pass hf hr hn, State.pass_evicted hk hm hgone]
  · intro s rq hb
    exact ⟨_, sicRqpop_unbarred hb, rfl, fun a _ => State.reg_setReg_self s Reg.SIC_RQPOP a, rfl⟩

end Sys2Proof.Machine
end

section
/-! What the end of packets and the flush of a queue leave (R254, R256, R260): QMG's own data, its counters of drops, and pending bits. -/

namespace Sys2Proof.Machine

/-- Of `s` only QMG, the event hub and the registers at `l` differ in `u`. -/
def State.qmgOnly (s u : State) (l : List Nat) : Prop := u = { s with regs := u.regs, evt := u.evt, qmg := u.qmg } ∧ s.regsEvt u l

section

variable {s u v : State} {l : List Nat}

theorem State.qmgOnly.frame (h : s.qmgOnly u l) : u = { s with regs := u.regs, evt := u.evt, qmg := u.qmg } := h.1

theorem State.qmgOnly.regs (h : s.qmgOnly u l) : s.regsEvt u l := h.2

theorem State.qmgOnly_refl : s.qmgOnly s l := ⟨rfl, State.regsEvt_refl⟩

theorem State.qmgOnly.trans (h : s.qmgOnly u l) (h' : u.qmgOnly v l) : s.qmgOnly v l := by
  refine ⟨?_, State.regsEvt_trans h.regs h'.regs⟩
  have hv := h'.frame
  rw [h.frame] at hv
  exact hv

theorem State.qmgOnly_qmg (s : State) (q : Qmg) (l : List Nat) : s.qmgOnly { s with qmg := q } l :=
  ⟨rfl, State.regsEvt_mk State.regsEvt_refl⟩

theorem State.qmgOnly_fireIf (s : State) (x : Bool) {k : Nat} (hk : k < 256) (l : List Nat) : s.qmgOnly (s.fireIf x k) l := by
  refine ⟨?_, State.regsEvt_fireIf x k State.regsEvt_refl hk⟩
  rw [State.fireIf_frame]

theorem State.qmgOnly_bump (s : State) (c n : Nat) (h : halves c ⊆ l) : s.qmgOnly (s.bump c n) l :=
  ⟨rfl, State.regsEvt_bump c n State.regsEvt_refl (h (by simp [halves])) (h (by simp [halves]))⟩

theorem State.qmgOnly_qmgSettle (s : State) (l : List Nat) : s.qmgOnly s.qmgSettle l := by
  unfold State.qmgSettle
  extract_lets f low _ s1 pins
  have h1 : s.qmgOnly s1 l := (s.qmgOnly_qmg _ l).trans (State.qmgOnly_fireIf _ _ (by decide) l)
  exact (h1.trans (s1.qmgOnly_qmg _ l)).trans (State.qmgOnly_fireIf _ _ (by decide) l)

theorem State.qmgOnly_bankTurn (s : State) (q : Nat) (l : List Nat) : s.qmgOnly (s.bankTurn q) l := by
  unfold State.bankTurn
  split
  · exact State.qmgOnly_refl
  · exact s.qmgOnly_qmg _ l

theorem State.qmgOnly_wmEval (s : State) (q : Nat) (l : List Nat) : s.qmgOnly (s.wmEval q) l := by
  unfold State.wmEval
  extract_lets x lim d high
  exact (((s.qmgOnly_qmg _ l).trans (State.qmgOnly_fireIf _ _ (by decide) l)).trans (State.qmgOnly_bankTurn _ q l)).trans
    (State.qmgOnly_qmgSettle _ l)

theorem State.qmgOnly_unqueue (s : State) (start : Nat) (p : Pkt) (l : List Nat) : s.qmgOnly (s.unqueue start p) l := by
  unfold State.unqueue
  split
  · exact State.qmgOnly_refl
  · exact (s.qmgOnly_qmg _ l).trans (State.qmgOnly_wmEval _ _ l)

/-- A packet that is dropped counts in the counter of its reason (R260). -/
theorem State.qmgOnly_endPkt_drop (s : State) (start r : Nat) :
    s.qmgOnly (s.endPkt start (.drop r)) (halves (Ctr.QMG_DROP0 + 8 * r)) := by
  unfold State.endPkt
  split
  · exact State.qmgOnly_refl
  · rename_i p _
    extract_lets s1 _ s2 n _ s3
    have h2 : s.qmgOnly s2 (halves (Ctr.QMG_DROP0 + 8 * r)) := (s.qmgOnly_unqueue start p _).trans (s1.qmgOnly_qmg _ _)
    have h3 : s2.qmgOnly s3 (halves (Ctr.QMG_DROP0 + 8 * r)) :=
      (((s2.qmgOnly_bump _ 1 (List.Subset.refl _)).trans (State.qmgOnly_qmg (s2.bump _) _ _)).trans
        (State.qmgOnly_fireIf _ _ (k := 142) (by decide) _)).trans (State.qmgOnly_fireIf _ _ (k := 144) (by decide) _)
    exact (h2.trans h3).trans (s3.qmgOnly_qmgSettle _)

/-- A queue that is flushed (R256): QMG, and the counter of the drops' reason. -/
theorem State.qmgOnly_flushQueue (s : State) (q r : Nat) : s.qmgOnly (s.flushQueue q r) (halves (Ctr.QMG_DROP0 + 8 * r)) := by
  unfold State.flushQueue
  extract_lets ps s1
  have h1 : s.qmgOnly s1 (halves (Ctr.QMG_DROP0 + 8 * r)) :=
    List.foldlRecOn (motive := fun u : State => s.qmgOnly u _) _ _ State.qmgOnly_refl
      fun u hu start _ => hu.trans (u.qmgOnly_endPkt_drop start r)
  exact (h1.trans (s1.qmgOnly_qmg _ _)).trans (State.qmgOnly_wmEval _ q _)

end

end Sys2Proof.Machine
end

section
/-! The commands of a neighbour record and its supervision (R184, R185), for `Obligations.Neighbours`. -/

namespace Sys2Proof.Machine

/-! ### Runs of registers -/

theorem length_packWords (n : Nat) (l : List Octet) : (packWords n l).length = n := by
  induction n generalizing l with
  | zero => rfl
  | succ n ih => exact congrArg (· + 1) (ih (l.drop 4))

theorem State.regRun_succ (s : State) (a n : Nat) : s.regRun a (n + 1) = s.reg a :: s.regRun (a + 4) n := by
  unfold State.regRun
  rw [List.range_succ_eq_map, List.map_cons, List.map_map]
  refine congrArg (s.reg a :: ·) (List.map_congr_left fun k _ => ?_)
  rw [Function.comp_apply, show a + 4 * k.succ = a + 4 + 4 * k by omega]

theorem State.regRun_setRegs (s : State) (a : Nat) (l : List Word) : (s.setRegs a l).regRun a l.length = l := by
  induction l generalizing s a with
  | nil => rfl
  | cons v l ih =>
    change ((s.setReg a v).setRegs (a + 4) l).regRun a (l.length + 1) = v :: l
    rw [State.regRun_succ, State.reg_setRegs_below _ _ _ _ (by omega), State.reg_setReg_same, ih]

theorem State.regRun_congr {s u : State} {a n : Nat} (h : ∀ k < n, u.reg (a + 4 * k) = s.reg (a + 4 * k)) :
    u.regRun a n = s.regRun a n :=
  List.map_congr_left fun k hk => h k (List.mem_range.mp hk)

theorem State.regsEvt_setRegs {s u : State} {l : List Nat} (a : Nat) (ws : List Word) (h : s.regsEvt u l)
    (hm : ∀ k < ws.length, a + 4 * k ∈ l) : s.regsEvt (u.setRegs a ws) l := by
  induction ws generalizing u a with
  | nil => exact h
  | cons v ws ih =>
    refine ih (a + 4) (State.regsEvt_setReg a v h (hm 0 (Nat.succ_pos _))) fun k hk => ?_
    have hk' := hm (k + 1) (Nat.succ_lt_succ hk)
    rwa [show a + 4 * (k + 1) = a + 4 + 4 * k by omega] at hk'

/-! ### What a neighbour command acts on, and its end -/

theorem quietReg_MSQ_NBCMD : quietReg Reg.MSQ_NBCMD = true := by decide

section

variable (s : State) (rq : Req) (v : Word)

/-- The state that a write of MSQ_NBCMD that nothing bars leaves to the command. -/
def State.nbTook : State := s.took rq Reg.MSQ_NBCMD v

theorem State.nbTook_frame : s.nbTook rq v = { s with regs := (s.nbTook rq v).regs, evt := (s.nbTook rq v).evt } :=
  s.took_frame rq Reg.MSQ_NBCMD v

theorem State.reg_nbTook (a : Nat) : (s.nbTook rq v).reg a = s.reg a := State.reg_took_quiet quietReg_MSQ_NBCMD s rq v a

theorem State.regsEvt_nbTook (l : List Nat) : s.regsEvt (s.nbTook rq v) l := fun a _ _ => s.reg_nbTook rq v a

theorem State.msq_nbTook : (s.nbTook rq v).msq = s.msq := by
  rw [State.nbTook_frame]

theorem State.nbr_nbTook (r : Nat) : (s.nbTook rq v).nbr r = s.nbr r := by
  unfold State.nbr
  rw [State.msq_nbTook]

theorem State.nodeRec_nbTook (node : Nat) : (s.nbTook rq v).nodeRec node = s.nodeRec node := by
  unfold State.nodeRec
  rw [State.msq_nbTook]

theorem State.nbData_nbTook : (s.nbTook rq v).nbData = s.nbData := by
  have hoct : (s.nbTook rq v).octRun (Reg.MSQ_NBDATAw 0) 16 = s.octRun (Reg.MSQ_NBDATAw 0) 16 := by
    unfold State.octRun
    rw [State.regRun_congr fun k _ => s.reg_nbTook rq v _]
  have hact : (s.nbTook rq v).active = s.active := by
    rw [State.nbTook_frame]
  have hgtb : (s.nbTook rq v).gtb = s.gtb := by
    rw [State.nbTook_frame]
  unfold State.nbData State.actFld State.act
  rw [hoct, hact, hgtb]

end

theorem State.nbDone_frame (s : State) (e : Nat) :
    s.nbDone e = { s with regs := (s.nbDone e).regs, evt := (s.nbDone e).evt } := by
  unfold State.nbDone
  rw [State.fire_frame]
  rfl

theorem State.regsEvt_nbDone {s u : State} {l : List Nat} (e : Nat) (h : s.regsEvt u l) (hl : Reg.MSQ_NBSTAT ∈ l) :
    s.regsEvt (u.nbDone e) l :=
  State.regsEvt_fire 105 (State.regsEvt_setFld F.MSQ_NBSTAT_ERR e h hl) (by decide)

theorem State.fld_nbDone (s : State) {e : Nat} (he : e < 4) : (s.nbDone e).fld F.MSQ_NBSTAT_ERR = e := by
  unfold State.nbDone
  rw [State.fld_fire_ne _ _ _ (by decide) (by decide), State.fld_setFld_same _ _ _ (by decide)]
  exact Nat.mod_eq_of_lt he

/-- A neighbour command that ends shows its ERR and fires source 105 (R184). -/
theorem State.nbDone_result {s v : State} {l : List Nat} {e : Nat} (he : e < 4) (h : s.regsEvt v l) (hl : Reg.MSQ_NBSTAT ∈ l)
    (hp : v.pwr = s.pwr) : (v.nbDone e).fld F.MSQ_NBSTAT_ERR = e ∧ (s.sysOn → (v.nbDone e).isPend 105 = true) ∧
      s.regsEvt (v.nbDone e) l :=
  ⟨v.fld_nbDone he, fun hs => State.isPend_fire _ 105 (State.sysOn_congr hp hs), State.regsEvt_nbDone e h hl⟩

/-! ### The commands -/

theorem State.gated_nbTook {s : State} {rq : Req} {v : Word} (act : State → State)
    (hb : s.barred rq Reg.MSQ_NBCMD (some v) = none) : s.gated rq Reg.MSQ_NBCMD v act = act (s.nbTook rq v) :=
  s.gated_took rq Reg.MSQ_NBCMD v act hb

section

variable {s : State} {rq : Req} {slot : Nat}

/-- The words that NBCMD_READ shows: the 64 octets of a record, zeros of a FREE one (R184). -/
def State.nbWords (s : State) (r : Nat) : List Word := packWords 16 ((s.nbr r).elim (List.replicate 64 0) Nbr.octets)

/-- The state in which NBCMD_READ ends: MSQ_NBDATA shows the record (R184). -/
def State.nbShown (s : State) (rq : Req) (slot : Nat) : State :=
  (s.nbTook rq (nbWord slot 0)).setRegs (Reg.MSQ_NBDATAw 0) (s.nbWords (slot % 65536))

theorem State.nbShown_frame (s : State) (rq : Req) (slot : Nat) :
    s.nbShown rq slot = { s with regs := (s.nbShown rq slot).regs, evt := (s.nbShown rq slot).evt } := by
  unfold State.nbShown
  rw [State.setRegs_frame, State.nbTook_frame]

theorem State.regRun_nbShown (s : State) (rq : Req) (slot : Nat) :
    (s.nbShown rq slot).regRun (Reg.MSQ_NBDATAw 0) 16 = s.nbWords (slot % 65536) := by
  have h := State.regRun_setRegs (s.nbTook rq (nbWord slot 0)) (Reg.MSQ_NBDATAw 0) (s.nbWords (slot % 65536))
  rwa [State.nbWords, length_packWords] at h

theorem State.regsEvt_nbShown (s : State) (rq : Req) (slot : Nat) :
    s.regsEvt (s.nbShown rq slot) (Reg.MSQ_NBSTAT :: (List.range 16).map Reg.MSQ_NBDATAw) := by
  refine State.regsEvt_setRegs _ _ (s.regsEvt_nbTook rq _ _) fun k hk => List.mem_cons_of_mem _ (List.mem_map.mpr ⟨k, ?_, ?_⟩)
  · rw [State.nbWords, length_packWords] at hk
    exact List.mem_range.mpr hk
  · unfold Reg.MSQ_NBDATAw
    omega

theorem State.regRun_nbDone (s : State) (e : Nat) :
    (s.nbDone e).regRun (Reg.MSQ_NBDATAw 0) 16 = s.regRun (Reg.MSQ_NBDATAw 0) 16 := by
  refine State.regRun_congr fun k _ => ?_
  refine State.regsEvt_nbDone (l := [Reg.MSQ_NBSTAT]) e State.regsEvt_refl List.mem_cons_self _ ?_ (isPendReg_high ?_)
  · simp only [Reg.MSQ_NBDATAw, Reg.MSQ_NBSTAT, List.mem_singleton]
    omega
  · simp only [Reg.MSQ_NBDATAw, Reg.EVT_PENDn]
    omega

theorem nbcmdRead_unbarred (hb : s.barred rq Reg.MSQ_NBCMD (some (nbWord slot 0)) = none) :
    exec (.nbcmdRead rq slot) s = .next ((s.nbShown rq slot).nbDone 0) := by
  change execNbcmdRead rq slot s = _
  unfold execNbcmdRead
  rw [State.gated_nbTook _ hb, State.nbr_nbTook]
  unfold State.nbShown State.nbWords
  cases s.nbr (slot % 65536) with
  | none => rfl
  | some n => rfl

theorem nbcmdRead_result (hb : s.barred rq Reg.MSQ_NBCMD (some (nbWord slot 0)) = none) :
    ∃ u, exec (.nbcmdRead rq slot) s = .next u ∧ u.regRun (Reg.MSQ_NBDATAw 0) 16 = s.nbWords (slot % 65536) ∧
      u.fld F.MSQ_NBSTAT_ERR = 0 ∧ (s.sysOn → u.isPend 105 = true) ∧
      s.regsEvt u (Reg.MSQ_NBSTAT :: (List.range 16).map Reg.MSQ_NBDATAw) ∧ u = { s with regs := u.regs, evt := u.evt } := by
  obtain ⟨herr, hpend, hregs⟩ := State.nbDone_result (e := 0) (by decide) (s.regsEvt_nbShown rq slot) List.mem_cons_self
    (by rw [State.nbShown_frame])
  refine ⟨_, nbcmdRead_unbarred hb, ?_, herr, hpend, hregs, ?_⟩
  · rw [State.regRun_nbDone, State.regRun_nbShown]
  · rw [State.nbDone_frame, State.nbShown_frame]

/-- Record `o` with the fields that firmware owns as in `n`; a LOST one is CONFIRMED, from the time of the data (R184, R185). -/
def Nbr.rewritten (o n : Nbr) : Nbr :=
  { o with eui := n.eui, node := n.node, key := n.key, sw := n.sw, par := n.par, dep := n.dep, supto := n.supto,
           st := if o.st = 3 then 1 else o.st, lastGt := if o.st = 3 then n.lastGt else o.lastGt }

variable {n o : Nbr}

theorem nbcmdWrite_invalid (hb : s.barred rq Reg.MSQ_NBCMD (some (nbWord slot 1)) = none) (hn : s.nbData = none) :
    exec (.nbcmdWrite rq slot) s = .next ((s.nbTook rq (nbWord slot 1)).nbDone 3) := by
  change execNbcmdWrite rq slot s = _
  unfold execNbcmdWrite
  rw [State.gated_nbTook _ hb, State.nbData_nbTook, hn]

theorem nbcmdWrite_valid (hb : s.barred rq Reg.MSQ_NBCMD (some (nbWord slot 1)) = none) (hn : s.nbData = some n) :
    exec (.nbcmdWrite rq slot) s = .next (if (s.nodeRec n.node).any (fun e => e.1 != slot % 65536) then
        (s.nbTook rq (nbWord slot 1)).nbDone 1
      else ((s.nbTook rq (nbWord slot 1)).setNbr (slot % 65536)
        ((s.nbr (slot % 65536)).elim n fun o => o.rewritten n)).nbDone 0) := by
  change execNbcmdWrite rq slot s = _
  unfold execNbcmdWrite
  rw [State.gated_nbTook _ hb, State.nbData_nbTook, hn]
  dsimp only
  rw [State.nodeRec_nbTook, State.nbr_nbTook]
  cases s.nbr (slot % 65536) with
  | none => rfl
  | some o =>
    simp only [beq_iff_eq]
    rfl

/-- A write whose data are refused ends with its ERR and changes no record (R184). -/
theorem State.nbRefused_result (s : State) (rq : Req) (v : Word) {e : Nat} (he : e < 4) :
    ((s.nbTook rq v).nbDone e).fld F.MSQ_NBSTAT_ERR = e ∧ s.regsEvt ((s.nbTook rq v).nbDone e) [Reg.MSQ_NBSTAT] ∧
      (s.nbTook rq v).nbDone e =
        { s with regs := ((s.nbTook rq v).nbDone e).regs, evt := ((s.nbTook rq v).nbDone e).evt } := by
  refine ⟨State.fld_nbDone _ he, State.regsEvt_nbDone e (s.regsEvt_nbTook rq v _) List.mem_cons_self, ?_⟩
  rw [State.nbDone_frame, State.nbTook_frame]

/-- A write that is taken puts the record, and ends with ERR 0 (R184). -/
theorem State.nbStored_result (s : State) (rq : Req) (v : Word) (r : Nat) (n : Nbr) :
    (((s.nbTook rq v).setNbr r n).nbDone 0).fld F.MSQ_NBSTAT_ERR = 0 ∧
      (s.sysOn → (((s.nbTook rq v).setNbr r n).nbDone 0).isPend 105 = true) ∧
      s.regsEvt (((s.nbTook rq v).setNbr r n).nbDone 0) [Reg.MSQ_NBSTAT] ∧
      ((s.nbTook rq v).setNbr r n).nbDone 0 = { s with
        regs := (((s.nbTook rq v).setNbr r n).nbDone 0).regs, evt := (((s.nbTook rq v).setNbr r n).nbDone 0).evt,
        msq := { s.msq with nbrs := s.msq.nbrs.put r n } } := by
  have hframe : (s.nbTook rq v).setNbr r n = { s with
      regs := (s.nbTook rq v).regs, evt := (s.nbTook rq v).evt, msq := { s.msq with nbrs := s.msq.nbrs.put r n } } := by
    unfold State.setNbr
    rw [State.nbTook_frame]
  have hregs : s.regsEvt ((s.nbTook rq v).setNbr r n) [Reg.MSQ_NBSTAT] := State.regsEvt_mk (s.regsEvt_nbTook rq v _)
  generalize (s.nbTook rq v).setNbr r n = u at hframe hregs
  obtain ⟨herr, hpend, hdone⟩ := State.nbDone_result (e := 0) (by decide) hregs List.mem_cons_self (by rw [hframe])
  refine ⟨herr, hpend, hdone, ?_⟩
  rw [State.nbDone_frame, hframe]

/-- The state in which NBCMD_FREE flushes the record's queue: the record and what MSQ keeps for its head are gone (R184, R256). -/
def State.nbFreed (s : State) (r : Nat) : State := State.forgetHead { s with msq := { s.msq with nbrs := s.msq.nbrs.del r } } r

theorem nbcmdFree_unbarred (hb : s.barred rq Reg.MSQ_NBCMD (some (nbWord slot 2)) = none) :
    exec (.nbcmdFree rq slot) s =
      .next ((((s.nbTook rq (nbWord slot 2)).nbFreed (slot % 65536)).flushQueue (slot % 65536) 6).nbDone 0) := by
  change execNbcmdFree rq slot s = _
  unfold execNbcmdFree
  rw [State.gated_nbTook _ hb]
  rfl

theorem nbcmdFree_result (hb : s.barred rq Reg.MSQ_NBCMD (some (nbWord slot 2)) = none) :
    ∃ u, exec (.nbcmdFree rq slot) s = .next u ∧ u.msq.nbrs = s.msq.nbrs.del (slot % 65536) ∧
      u.msq = { (s.forgetHead (slot % 65536)).msq with nbrs := u.msq.nbrs } ∧ u.fld F.MSQ_NBSTAT_ERR = 0 ∧
      (s.sysOn → u.isPend 105 = true) ∧ u = { s with regs := u.regs, evt := u.evt, qmg := u.qmg, msq := u.msq } := by
  have hfreed : (s.nbTook rq (nbWord slot 2)).nbFreed (slot % 65536) = { s with
      regs := (s.nbTook rq (nbWord slot 2)).regs, evt := (s.nbTook rq (nbWord slot 2)).evt,
      msq := (s.nbFreed (slot % 65536)).msq } := by
    unfold State.nbFreed State.forgetHead
    rw [State.nbTook_frame]
  have hflush := State.qmgOnly_flushQueue ((s.nbTook rq (nbWord slot 2)).nbFreed (slot % 65536)) (slot % 65536) 6
  rw [nbcmdFree_unbarred hb]
  generalize ((s.nbTook rq (nbWord slot 2)).nbFreed (slot % 65536)).flushQueue (slot % 65536) 6 = v at hflush
  have hframe : v = { s with regs := v.regs, evt := v.evt, qmg := v.qmg, msq := (s.nbFreed (slot % 65536)).msq } := by
    have h := hflush.frame
    rw [hfreed] at h
    exact h
  have hmsq : (v.nbDone 0).msq = (s.nbFreed (slot % 65536)).msq := by
    rw [State.nbDone_frame, hframe]
  refine ⟨_, rfl, ?_, ?_, v.fld_nbDone (by decide), fun hs => State.isPend_fire _ 105 (State.sysOn_congr (s := s) ?_ hs), ?_⟩
  · rw [hmsq]
    rfl
  · rw [hmsq]
    rfl
  · rw [hframe]
    rfl
  · rw [State.nbDone_frame, hframe]

/-! ### SUPERVISION_TIMEOUT (R185) -/

variable {t : Time} {r : Nat}

/-- The record `r`, held by `n`, as LOST, with nothing kept for its head. -/
def State.nbLost (s : State) (r : Nat) (n : Nbr) : State := (s.setNbr r { n with st := 3, retries := 0 }).forgetHead r

/-- What becomes of a node whose record is LOST, its queue flushed: counted, and SLV and firmware told (R185). -/
def State.lostCounted (v : State) (k node : Nat) : State := (((v.bump Ctr.MSQ_TXLOST k).bump Ctr.MSQ_LOST).nodeLost node).fire 93

theorem supervisionTimeout_over (hn : s.nbr r = some n) (hst : n.st = 1 ∨ n.st = 2) (hover : (s.at t).supOver n = true) :
    exec (.supervisionTimeout t r) s = .next ((((s.at t).nbLost r n).flushQueue r 2).lostCounted (s.queuedPkts r) n.node) := by
  have hn' : (s.at t).nbr r = some n := hn
  change execSupervisionTimeout t r s = _
  unfold execSupervisionTimeout
  dsimp only
  rw [hn']
  dsimp only
  rw [if_pos ⟨hst, hover⟩]
  rfl

theorem State.bump_bump_frame (v : State) (c k d m : Nat) :
    (v.bump c k).bump d m = { v with regs := ((v.bump c k).bump d m).regs } := by
  have h := v.bump_frame c k
  generalize v.bump c k = w at h ⊢
  exact (w.bump_frame d m).trans (congrArg (fun x : State => { x with regs := (w.bump d m).regs }) h)

theorem State.fire_nodeLost_frame (w : State) (node : Nat) : (w.nodeLost node).fire 93 = { w with
    regs := ((w.nodeLost node).fire 93).regs, evt := ((w.nodeLost node).fire 93).evt,
    told := w.told ++ [Told.lost node], slv := { w.slv with lost := w.slv.lost ++ [node] } } :=
  State.fire_frame _ 93

theorem State.ctr_fire_nodeLost (w : State) (node c : Nat) (hc : isPendReg c = false) (hc' : isPendReg (c + 4) = false) :
    ((w.nodeLost node).fire 93).ctr c = w.ctr c :=
  (State.ctr_fire_ne _ 93 c (by decide) hc hc').trans (State.ctr_congr rfl c)

theorem State.lostCounted_result (v : State) (k node : Nat) :
    (v.lostCounted k node).ctr Ctr.MSQ_LOST = (v.ctr Ctr.MSQ_LOST + 1) % 2 ^ 48 ∧
      (v.lostCounted k node).ctr Ctr.MSQ_TXLOST = (v.ctr Ctr.MSQ_TXLOST + k) % 2 ^ 48 ∧
      (v.sysOn → (v.lostCounted k node).isPend 93 = true) ∧
      v.lostCounted k node = { v with
        regs := (v.lostCounted k node).regs, evt := (v.lostCounted k node).evt, told := v.told ++ [Told.lost node],
        slv := { v.slv with lost := v.slv.lost ++ [node] } } := by
  unfold State.lostCounted
  refine ⟨?_, ?_, fun hs => State.isPend_fire _ 93 hs, ?_⟩
  · rw [State.ctr_fire_nodeLost _ _ _ (by decide) (by decide), State.ctr_bump_same,
      State.ctr_bump_ne _ _ _ _ (by decide) (by decide) (by decide)]
  · rw [State.ctr_fire_nodeLost _ _ _ (by decide) (by decide), State.ctr_bump_ne _ _ _ _ (by decide) (by decide) (by decide),
      State.ctr_bump_same]
  · have hframe := v.bump_bump_frame Ctr.MSQ_TXLOST k Ctr.MSQ_LOST 1
    generalize (v.bump Ctr.MSQ_TXLOST k).bump Ctr.MSQ_LOST = w at hframe
    rw [State.fire_nodeLost_frame, hframe]

theorem supervisionTimeout_result (hn : s.nbr r = some n) (hst : n.st = 1 ∨ n.st = 2) (hover : (s.at t).supOver n = true) :
    ∃ u, exec (.supervisionTimeout t r) s = .next u ∧ u.nbr r = some { n with st := 3, retries := 0 } ∧
      u.told = s.told ++ [Told.lost n.node] ∧ u.ctr Ctr.MSQ_LOST = (s.ctr Ctr.MSQ_LOST + 1) % 2 ^ 48 ∧
      u.ctr Ctr.MSQ_TXLOST = (s.ctr Ctr.MSQ_TXLOST + s.queuedPkts r) % 2 ^ 48 ∧ (s.sysOn → u.isPend 93 = true) ∧
      u = { s with
        regs := u.regs, evt := u.evt, gtb := (s.at t).gtb, qmg := u.qmg, msq := u.msq, told := u.told,
        slv := { s.slv with lost := s.slv.lost ++ [n.node] } } := by
  have hflush := State.qmgOnly_flushQueue ((s.at t).nbLost r n) r 2
  rw [supervisionTimeout_over hn hst hover]
  generalize ((s.at t).nbLost r n).flushQueue r 2 = v at hflush
  have hframe : v = { s with
      regs := v.regs, evt := v.evt, gtb := (s.at t).gtb, qmg := v.qmg, msq := ((s.at t).nbLost r n).msq } := hflush.frame
  have hctr : ∀ c, isPendReg c = false → isPendReg (c + 4) = false → c ∉ halves (Ctr.QMG_DROP0 + 8 * 2) →
      c + 4 ∉ halves (Ctr.QMG_DROP0 + 8 * 2) → v.ctr c = s.ctr c := fun c hp hp' hc hc' => by
    unfold State.ctr
    rw [hflush.regs _ hc hp, hflush.regs _ hc' hp']
    rfl
  obtain ⟨hlost, htx, hpend, hrest⟩ := v.lostCounted_result (s.queuedPkts r) n.node
  generalize v.lostCounted (s.queuedPkts r) n.node = u at hlost htx hpend hrest
  refine ⟨u, rfl, ?_, ?_, ?_, ?_, fun hs => hpend (State.sysOn_congr (s := s) ?_ hs), ?_⟩
  · unfold State.nbr
    rw [hrest, hframe]
    exact Tab.find_put_same _ r _
  · rw [hrest, hframe]
  · rw [hlost, hctr _ (by decide) (by decide) (by decide) (by decide)]
  · rw [htx, hctr _ (by decide) (by decide) (by decide) (by decide)]
  · rw [hframe]
  · rw [hrest, hframe]

theorem supervisionTimeout_idle (h : (s.nbr r).any (fun n => (n.st == 1 || n.st == 2) && (s.at t).supOver n) = false) :
    exec (.supervisionTimeout t r) s = .next (s.at t) := by
  change execSupervisionTimeout t r s = _
  unfold execSupervisionTimeout
  dsimp only
  change Host.Outcome.next (match s.nbr r with | none => _ | some n => _) = _
  cases hn : s.nbr r with
  | none => rfl
  | some n =>
    rw [hn, Option.any_some, Bool.and_eq_false_iff] at h
    refine congrArg Host.Outcome.next (if_neg ?_)
    rintro ⟨hst, hover⟩
    rcases h with h | h
    · rcases hst with hst | hst <;> simp [hst] at h
    · exact absurd hover (ne_true_of_eq_false h)

end

/-- Settles O38: each clause is the lemma of its command, or of its end. -/
theorem neighbours : Obligations.Neighbours := by
  refine ⟨fun s rq slot => nbcmdRead_result, ?_, ?_, ?_, ?_, fun s rq slot => nbcmdFree_result,
    fun s t r n hn hst => supervisionTimeout_result hn hst, fun s t r => supervisionTimeout_idle⟩
  · intro s rq slot n hb hn hother hfree
    refine ⟨_, ?_, s.nbStored_result rq (nbWord slot 1) (slot % 65536) n⟩
    rw [nbcmdWrite_valid hb hn, hother, hfree, if_neg Bool.false_ne_true, Option.elim_none]
  · intro s rq slot n o hb hn hother hheld
    refine ⟨_, ?_, s.nbStored_result rq (nbWord slot 1) (slot % 65536) (o.rewritten n)⟩
    rw [nbcmdWrite_valid hb hn, hother, hheld, if_neg Bool.false_ne_true, Option.elim_some]
  · intro s rq slot hb hn
    exact ⟨_, nbcmdWrite_invalid hb hn, s.nbRefused_result rq (nbWord slot 1) (by decide)⟩
  · intro s rq slot n e hb hn he hne
    refine ⟨_, ?_, s.nbRefused_result rq (nbWord slot 1) (e := 1) (by decide)⟩
    rw [nbcmdWrite_valid hb hn, he, Option.any_some, if_pos (bne_iff_ne.mpr hne)]

end Sys2Proof.Machine
end

section
/-! What MSQ does with a frame it receives, and an attempt that fails (R186, R188, R199, R200), for `Obligations.MsqReceives`. -/

namespace Sys2Proof.Machine

/-! ### MSQ_FRAME_RECEIVE (R186) -/

theorem State.mirror_off {s : State} (q : QRec) (h : s.fld F.DMX_QCFG_MIRROR = 0) : s.mirror q = s := by
  unfold State.mirror State.mirrorWants
  rw [h]
  rfl

section

variable {s : State} {t : Time} {f : RxFrame} {l : List RxFrame} {h : MacHdr}

theorem msqFrameReceive_none (hi : s.inbox = []) : exec (.msqFrameReceive t.gt t.ft) s = .next (s.at t) := by
  change execMsqFrameReceive t.gt t.ft s = _
  unfold execMsqFrameReceive
  rw [hi]

theorem msqFrameReceive_head (hi : s.inbox = f :: l) :
    exec (.msqFrameReceive t.gt t.ft) s = .next (State.nativeIn { s.at t with inbox := l } f) := by
  change execMsqFrameReceive t.gt t.ft s = _
  unfold execMsqFrameReceive
  rw [hi]

/-- A frame that only a counter takes note of, the mirror being off (R155, R186). -/
theorem State.bump_mirror_off (s : State) (q : QRec) {c : Nat} (hc : F.DMX_QCFG_MIRROR.reg ∉ halves c)
    (h : s.fld F.DMX_QCFG_MIRROR = 0) : (s.bump c).mirror q = s.bump c := by
  simp only [halves, List.mem_cons, List.not_mem_nil, or_false, not_or] at hc
  exact State.mirror_off q ((State.fld_bump_ne s c 1 _ hc.1 hc.2).trans h)

theorem State.nativeIn_malformed (hm : macHdr f.payload = none) (hoff : s.fld F.DMX_QCFG_MIRROR = 0) :
    s.nativeIn f = s.bump Ctr.MSQ_BADFRM := by
  unfold State.nativeIn
  rw [hm]
  exact s.bump_mirror_off f.qrec (by decide) hoff

theorem State.nativeIn_foreign (hm : macHdr f.payload = some h) (h2 : h.typ ≠ 2) (h4 : h.typ ≠ 4) (hl : h.long = false)
    (hp : h.addr / 2 ^ 18 ≠ s.fld F.MSQ_CFG_PANTAG) (hoff : s.fld F.DMX_QCFG_MIRROR = 0) :
    s.nativeIn f = s.bump Ctr.MSQ_FOREIGN := by
  unfold State.nativeIn
  rw [hm]
  dsimp only
  rw [if_neg h2, if_neg h4, hl, if_neg Bool.false_ne_true, if_pos hp]
  exact s.bump_mirror_off f.qrec (by decide) hoff

/-- A frame that is only counted leaves the input (R186). -/
theorem State.bump_taken_result (s : State) (t : Time) (l : List RxFrame) (c : Nat) :
    (State.bump { s.at t with inbox := l } c).ctr c = (s.ctr c + 1) % 2 ^ 48 ∧
      s.regsBut (State.bump { s.at t with inbox := l } c) (halves c) ∧
      State.bump { s.at t with inbox := l } c =
        { s with regs := (State.bump { s.at t with inbox := l } c).regs, gtb := (s.at t).gtb, inbox := l } :=
  ⟨State.ctr_bump_same _ c 1, State.regsBut_bump c 1 (State.regsBut_mk State.regsBut_refl) (by simp [halves]) (by simp [halves]),
    State.bump_frame _ c 1⟩

/-! ### Class S frames (R186, R188, R199) -/

variable {r : Nat} {n : Nbr} {a : Await}

/-- The frame of record `r` whose ACK the frame `f` may be (R199). -/
def State.awaitedBy (s : State) (r : Nat) (f : RxFrame) : Option Await :=
  s.awaited r (gtSub f.qrec.sfdGt (s.symGt f.qrec.slice f.qrec.lh 10))

theorem State.classSIn_unknown (hn : s.nodeRec (h.addr % 2 ^ 18) = none) : s.classSIn f h = s.bump Ctr.MSQ_NOTHOME := by
  unfold State.classSIn
  rw [hn]

theorem State.classSIn_unserved (hn : s.nodeRec (h.addr % 2 ^ 18) = some (r, n)) (h1 : n.st ≠ 1) (h2 : n.st ≠ 2) :
    s.classSIn f h = (s.bump Ctr.MSQ_NOTACT).tell (.notAct n.node) := by
  unfold State.classSIn
  rw [hn]
  exact if_pos ⟨h1, h2⟩

theorem State.classSIn_unawaited (hn : s.nodeRec (h.addr % 2 ^ 18) = some (r, n)) (hst : n.st = 1 ∨ n.st = 2) (ht : h.typ = 1)
    (ha : s.awaitedBy r f = none) : s.classSIn f h = s := by
  unfold State.classSIn
  rw [hn]
  dsimp only
  rw [if_neg (fun hno => hst.elim hno.1 hno.2), if_pos ⟨ht, ha⟩]

/-- A frame below its record's window (R188). -/
def State.stale (s : State) : State :=
  State.fireIf { s.bump Ctr.MSQ_STALE with msq := { s.msq with stales := s.msq.stales + 1 } }
    (s.fld F.MSQ_THR_STALETHR != 0 && s.msq.stales + 1 == s.fld F.MSQ_THR_STALETHR) 97

theorem State.classSIn_stale (hn : s.nodeRec (h.addr % 2 ^ 18) = some (r, n)) (hst : n.st = 1 ∨ n.st = 2)
    (ht : h.typ ≠ 1 ∨ (s.awaitedBy r f).isSome = true) (hf : h.fcnt + 63 < n.rxHigh) : s.classSIn f h = s.stale := by
  have hno : ¬ (h.typ = 1 ∧ s.awaitedBy r f = none) := fun hno => ht.elim (fun h1 => h1 hno.1) fun hs => by
    rw [hno.2] at hs
    exact Bool.false_ne_true hs
  unfold State.classSIn
  rw [hn]
  dsimp only
  rw [if_neg (fun hno => hst.elim hno.1 hno.2)]
  exact (if_neg hno).trans (if_pos hf)

/-- A counted failure whose threshold may fire a source. -/
theorem State.counted_result (s : State) (c : Nat) (m : Msq) (x : Bool) {k : Nat} (hk : k < 256) (hc : isPendReg c = false)
    (hc' : isPendReg (c + 4) = false) :
    let u := State.fireIf { s.bump c with msq := m } x k
    u.ctr c = (s.ctr c + 1) % 2 ^ 48 ∧ u.msq = m ∧ (s.sysOn → x = true → u.isPend k = true) ∧ s.regsEvt u (halves c) := by
  refine ⟨?_, State.fireIf_msq _ x k, fun hs hx => ?_, ?_⟩
  · exact (State.ctr_fireIf_ne _ x k c hk hc hc').trans (State.ctr_bump_same s c 1)
  · rw [hx]
    exact State.isPend_fire _ k hs
  · exact State.regsEvt_fireIf x k (State.regsEvt_mk (State.regsEvt_bump c 1 State.regsEvt_refl (by simp [halves]) (by simp [halves]))) hk

theorem State.stale_result (s : State) : s.stale.ctr Ctr.MSQ_STALE = (s.ctr Ctr.MSQ_STALE + 1) % 2 ^ 48 ∧
    s.stale.msq = { s.msq with stales := s.msq.stales + 1 } ∧
    (s.sysOn → s.fld F.MSQ_THR_STALETHR ≠ 0 → s.msq.stales + 1 = s.fld F.MSQ_THR_STALETHR → s.stale.isPend 97 = true) ∧
    s.regsEvt s.stale (halves Ctr.MSQ_STALE) := by
  obtain ⟨hctr, hmsq, hpend, hregs⟩ := s.counted_result Ctr.MSQ_STALE { s.msq with stales := s.msq.stales + 1 }
    (s.fld F.MSQ_THR_STALETHR != 0 && s.msq.stales + 1 == s.fld F.MSQ_THR_STALETHR) (k := 97) (by decide) (by decide) (by decide)
  exact ⟨hctr, hmsq, fun hs h0 he => hpend hs (by rw [bne_iff_ne.mpr h0, beq_iff_eq.mpr he]; rfl), hregs⟩

theorem State.micFail_result (s : State) : s.micFail.ctr Ctr.MSQ_MICFAIL = (s.ctr Ctr.MSQ_MICFAIL + 1) % 2 ^ 48 ∧
    s.micFail.msq = { s.msq with micFails := s.msq.micFails + 1 } ∧
    (s.sysOn → s.fld F.MSQ_THR_MICTHR ≠ 0 → s.msq.micFails + 1 = s.fld F.MSQ_THR_MICTHR → s.micFail.isPend 96 = true) ∧
    s.regsEvt s.micFail (halves Ctr.MSQ_MICFAIL) := by
  obtain ⟨hctr, hmsq, hpend, hregs⟩ := s.counted_result Ctr.MSQ_MICFAIL { s.msq with micFails := s.msq.micFails + 1 }
    (s.fld F.MSQ_THR_MICTHR != 0 && s.msq.micFails + 1 == s.fld F.MSQ_THR_MICTHR) (k := 96) (by decide) (by decide) (by decide)
  exact ⟨hctr, hmsq, fun hs h0 he => hpend hs (by rw [bne_iff_ne.mpr h0, beq_iff_eq.mpr he]; rfl), hregs⟩

/-- A frame within its record's window is opened with the record's key (R174, R186): `use` is what becomes of what it holds. -/
def State.opened (s : State) (n : Nbr) (h : MacHdr) (l : List Octet) (use : State → KeySlot → List Octet → State) : State :=
  match s.keyRequest (.link n.node) n.key with
  | (none, u) => u.bump Ctr.MSQ_NOKEY
  | (some key, u) => match openFrame key n.eui h l with
    | none => u.micFail
    | some pt => use u key pt

/-- A class S frame of a served record that is neither an ACK out of turn nor stale (R186, R199). -/
theorem State.classSIn_opened (hn : s.nodeRec (h.addr % 2 ^ 18) = some (r, n)) (hst : n.st = 1 ∨ n.st = 2)
    (ht : ¬ (h.typ = 1 ∧ s.awaitedBy r f = none)) (hf : n.rxHigh ≤ h.fcnt + 63) :
    s.classSIn f h = s.opened n h f.payload fun u key pt => match h.typ, s.awaitedBy r f with
      | 1, some a => u.nodeAck r n a f pt
      | _, _ => u.verifiedIn r n key f h pt := by
  unfold State.classSIn State.opened
  rw [hn]
  dsimp only
  rw [if_neg (fun hno => hst.elim hno.1 hno.2)]
  refine (if_neg ht).trans ((if_neg (Nat.not_lt.mpr hf)).trans ?_)
  rcases s.keyRequest (.link n.node) n.key with ⟨_ | key, u⟩
  · rfl
  · dsimp only
    cases openFrame key n.eui h f.payload with
    | none => rfl
    | some pt => rfl

theorem State.classSIn_data (hn : s.nodeRec (h.addr % 2 ^ 18) = some (r, n)) (hst : n.st = 1 ∨ n.st = 2) (ht : h.typ ≠ 1)
    (hf : n.rxHigh ≤ h.fcnt + 63) :
    s.classSIn f h = s.opened n h f.payload fun u key pt => u.verifiedIn r n key f h pt := by
  rw [State.classSIn_opened hn hst (fun hno => ht hno.1) hf]
  refine congrArg (s.opened n h f.payload) (funext fun u => funext fun key => funext fun pt => ?_)
  split
  · rename_i ht1 _
    exact absurd ht1 ht
  · rfl

theorem State.classSIn_ack (hn : s.nodeRec (h.addr % 2 ^ 18) = some (r, n)) (hst : n.st = 1 ∨ n.st = 2) (ht : h.typ = 1)
    (ha : s.awaitedBy r f = some a) (hf : n.rxHigh ≤ h.fcnt + 63) :
    s.classSIn f h = s.opened n h f.payload fun u _ pt => u.nodeAck r n a f pt := by
  rw [State.classSIn_opened hn hst (fun hno => by rw [ha] at hno; exact Option.some_ne_none a hno.2) hf, ht, ha]
  rfl

end

/-- The receive counter moves up to a frame beyond it (R188), which is then marked (R183). -/
theorem Nbr.mark_above {n : Nbr} {f : Nat} (h : n.rxHigh < f) : (n.mark f).rxHigh = f ∧ (n.mark f).marked f = true := by
  have hodd : ∀ x : Nat, bit (x / 2 * 2 + 1) 0 = true := fun x => by
    unfold bit
    rw [beq_iff_eq]
    omega
  have hmark : n.mark f = { n with
      rxHigh := f, rxWin := (if f - n.rxHigh < 64 then n.rxWin * 2 ^ (f - n.rxHigh) else 0) % 2 ^ 64 / 2 * 2 + 1 } := if_pos h
  rw [hmark]
  refine ⟨rfl, ?_⟩
  unfold Nbr.marked
  dsimp only
  rw [Nat.sub_self, hodd, Nat.ble_eq_true_of_le (Nat.le_refl f)]
  rfl

/-! ### Attempts (R199, R200) -/

section

variable {s : State} {t : Time} {r pkt : Nat} {n : Nbr} {a : Await}

theorem nodeAckTimeout_awaited (ha : s.msq.awaits.find? (fun (a : Await) => a.record == r) = some a) :
    exec (.nodeAckTimeout t r) s =
      .next (if 0 < gtDiff t.gt ((s.at t).ackDue a) then (s.at t).attemptFailed r a.pkt else s.at t) := by
  have ha' : (s.at t).msq.awaits.find? (fun (a : Await) => a.record == r) = some a := ha
  change execNodeAckTimeout t r s = _
  unfold execNodeAckTimeout
  dsimp only
  rw [ha']

theorem nodeAckTimeout_unawaited (ha : s.msq.awaits.find? (fun (a : Await) => a.record == r) = none) :
    exec (.nodeAckTimeout t r) s = .next (s.at t) := by
  have ha' : (s.at t).msq.awaits.find? (fun (a : Await) => a.record == r) = none := ha
  change execNodeAckTimeout t r s = _
  unfold execNodeAckTimeout
  dsimp only
  rw [ha']

theorem State.attemptFailed_again (hn : s.nbr r = some n) (h : n.retries + 1 ≤ s.fld F.MSQ_TXCFG_MAXRETRY) :
    s.attemptFailed r pkt = { s with msq := { s.msq with
      awaits := s.msq.awaits.filter (fun (a : Await) => a.record != r),
      nbrs := s.msq.nbrs.put r { n with retries := n.retries + 1 } } } := by
  unfold State.attemptFailed
  dsimp only
  rw [hn]
  dsimp only
  rw [if_neg (Nat.not_lt.mpr h)]
  have hn' : State.nbr { s with msq := { s.msq with
    awaits := s.msq.awaits.filter (fun (a : Await) => a.record != r) } } r = some n := hn
  rw [hn']
  rfl

theorem State.endHead_gone (e : PktEnd) (h : s.qmg.pkts.find pkt = none) : s.endHead r pkt e = s := by
  unfold State.endHead
  rw [h]
  rfl

theorem State.setOfPkt_gone (h : s.qmg.pkts.find pkt = none) : s.setOfPkt pkt = none := by
  unfold State.setOfPkt
  rw [h]

/-- The state of MSQ once a frame is given up: nothing is kept for it, and the record counts anew (R200). -/
def State.givenUp (s : State) (r : Nat) (n : Nbr) : State :=
  (State.forgetHead { s with msq := { s.msq with awaits := s.msq.awaits.filter (fun (a : Await) => a.record != r) } } r).setNbr r
    { n with retries := 0 }

/-- The attempt past MAXRETRY drops the frame (R200); here its packet is gone already. -/
theorem State.attemptFailed_last (hn : s.nbr r = some n) (h : s.fld F.MSQ_TXCFG_MAXRETRY < n.retries + 1)
    (hp : s.qmg.pkts.find pkt = none) : s.attemptFailed r pkt = ((s.givenUp r n).bump Ctr.MSQ_TXDROP).fire 100 := by
  have hgone : (s.givenUp r n).qmg.pkts.find pkt = none := hp
  have hn' : State.nbr (State.forgetHead { s with msq := { s.msq with
    awaits := s.msq.awaits.filter (fun (a : Await) => a.record != r) } } r) r = some n := hn
  unfold State.attemptFailed
  dsimp only
  rw [hn]
  dsimp only
  rw [if_pos h, hn', State.setOfPkt_gone hp]
  change (((s.givenUp r n).endHead r pkt (.drop 3)).bump Ctr.MSQ_TXDROP).fire 100 = _
  rw [State.endHead_gone _ hgone]

theorem State.attemptFailed_last_result (hn : s.nbr r = some n) (h : s.fld F.MSQ_TXCFG_MAXRETRY < n.retries + 1)
    (hp : s.qmg.pkts.find pkt = none) : (s.attemptFailed r pkt).nbr r = some { n with retries := 0 } ∧
      (s.attemptFailed r pkt).ctr Ctr.MSQ_TXDROP = (s.ctr Ctr.MSQ_TXDROP + 1) % 2 ^ 48 ∧
      (s.sysOn → (s.attemptFailed r pkt).isPend 100 = true) := by
  rw [State.attemptFailed_last hn h hp]
  refine ⟨?_, ?_, fun hs => State.isPend_fire _ 100 hs⟩
  · unfold State.nbr
    rw [State.fire_msq, State.bump_msq]
    exact Tab.find_put_same _ r _
  · rw [State.ctr_fire_ne _ _ _ (by decide) (by decide) (by decide), State.ctr_bump_same]
    rfl

end

/-- Settles O39: each clause is the lemma of its command, of a frame that fails a check, or of an attempt. -/
theorem msqReceives : Obligations.MsqReceives := by
  refine ⟨fun s t f l => msqFrameReceive_head, fun s t => msqFrameReceive_none, ?_, ?_, fun s f h => State.classSIn_unknown,
    fun s f h r n => State.classSIn_unserved, fun s f h r n => State.classSIn_unawaited, ?_,
    fun s f h r n hn hst => State.classSIn_data hn hst, fun s f h r n a hn hst => State.classSIn_ack hn hst,
    State.micFail_result, fun n f => Nbr.mark_above, ?_, ?_, fun s t r => nodeAckTimeout_unawaited,
    fun s r pkt n => State.attemptFailed_again, fun s r pkt n => State.attemptFailed_last_result⟩
  · intro s t f l hi hm hoff
    refine ⟨_, (msqFrameReceive_head hi).trans (congrArg Host.Outcome.next (State.nativeIn_malformed hm hoff)), ?_⟩
    exact s.bump_taken_result t l Ctr.MSQ_BADFRM
  · intro s t f l h hi hm h2 h4 hl hp hoff
    refine ⟨_, (msqFrameReceive_head hi).trans (congrArg Host.Outcome.next (State.nativeIn_foreign hm h2 h4 hl hp hoff)), ?_⟩
    exact s.bump_taken_result t l Ctr.MSQ_FOREIGN
  · intro s f h r n hn hst ht hf
    rw [State.classSIn_stale hn hst ht hf]
    exact s.stale_result
  · intro s t r a ha hdue
    rw [nodeAckTimeout_awaited ha, if_pos hdue]
  · intro s t r a ha hdue
    rw [nodeAckTimeout_awaited ha, if_neg (Int.not_lt.mpr hdue)]

end Sys2Proof.Machine
end

section
/-! How MSQ uses its transmit and shared cells (R199 to R201), for `Obligations.MsqTransmits`. -/

namespace Sys2Proof.Machine

/-! ### Frames that do not fit (R124, R177) -/

theorem fitsCell_eq_false {lh rc maxdur : Nat} {h : Hdr} (hno : h.len = 0 ∨ 2047 < h.len ∨ maxdur * 16000 < frameNs lh h rc) :
    fitsCell lh h rc maxdur = false := by
  rw [← Bool.not_eq_true]
  simp only [fitsCell, Bool.and_eq_true, Nat.ble_eq]
  omega

theorem State.sendDown_too_long (s : State) {c : Cell} {n : Nbr} {x : Pkt} {p k : Nat} (e r pkt : Nat) (ar : Bool) (w : TxWhat)
    (h : s.tplMaxDur c.tpl * 16000 < frameNs (s.tplLh c.tpl)
      { len := downLen x, par := n.par, dep := fitDepth (downLen x) n.dep, sw := min n.sw (s.tplLh c.tpl) }
      (chipRate (s.sliceClass p k)) ∨ 2047 < downLen x) : s.sendDown c e p k r n pkt x ar w = s := by
  unfold State.sendDown
  exact if_pos (fitsCell_eq_false (.inr h.symm))

theorem State.sendRaw_misfit (s : State) {x : Pkt} (lh p k start e maxdur r pkt tries : Nat)
    (h : x.data = [] ∨ 2047 < x.data.length) : s.sendRaw lh p k start e maxdur r pkt x tries = s := by
  unfold State.sendRaw
  exact if_pos (fitsCell_eq_false (h.elim (fun h0 => .inl (congrArg List.length h0)) fun h1 => .inr (.inl h1)))

theorem State.sendBeacon_off {s : State} (c : Cell) (e p k : Nat) (h : s.actFld F.MSQ_BCN_EN ≠ 1 ∨ s.gtValid = false) :
    s.sendBeacon c e p k = s.fire 103 := by
  unfold State.sendBeacon
  exact if_pos (h.elim .inl fun hv => .inr (.inl hv))

/-! ### The occurrence of a cell -/

/-- The slot of event counter `ec` holds an occurrence, in service, of the transmit or shared cell `c` (R176). -/
def State.txOccurs (s : State) (c : Cell) (ec : Nat) : Prop :=
  s.level ≠ 0 ∧ s.allCells.contains c = true ∧ s.cellAt c ec = true ∧ c.dir ≠ 0

/-- The queue that a cell serves (R199, R200). -/
def Cell.serves (c : Cell) (r : Nat) : Nat := if c.dir = 1 then c.record else r

/-- The port and slice on which a cell's occurrence sends: none where its template carries nothing now (R179), or no slice its channel. -/
def State.cellSlice (s : State) (c : Cell) (ec : Nat) : Option (Nat × Nat) :=
  if s.tplCarries c.tpl = true then (s.cellChannel (s.tplClass c.tpl) ec c.chofs).bind (s.txSlice (s.tplClass c.tpl)) else none

/-- What MSQ sends in an occurrence whose slice is there (R199 to R201). -/
def State.useCell (s : State) (c : Cell) (ec r p k : Nat) : State :=
  if c.beacon then s.sendBeacon c ec p k
  else if s.gtValid = false ∨ s.busyWith r = true then s
  else match s.headPkt r, s.nbr r with
    | none, _ => s
    | some (pkt, x), some n =>
      if n.st ≠ 1 then s
      else if c.dir = 1 then
        if x.info.kind = 9 ∧ x.info.flag = false then s else s.sendDown c ec p k r n pkt x true (.down r pkt)
      else if x.info.kind = 9 ∧ x.info.flag = false then s.sendDown c ec p k r n pkt x false (.cells r pkt)
      else s
    | some (pkt, x), none =>
      if c.dir = 2 then s.sendRaw (s.tplLh c.tpl) p k (s.cellE c ec) (s.cellFin c ec) (s.tplMaxDur c.tpl) r pkt x 1 else s

section

variable {s : State} {t : Time} {c : Cell} {ec r p k ch : Nat}

theorem State.txOccurs_iff : (s.level != 0 && (s.allCells.contains c && (s.cellAt c ec && c.dir != 0))) = true ↔
    s.txOccurs c ec := by
  simp only [State.txOccurs, Bool.and_eq_true, bne_iff_ne]

theorem State.cellSlice_some (hc : s.tplCarries c.tpl = true) (hch : s.cellChannel (s.tplClass c.tpl) ec c.chofs = some ch)
    (hs : s.txSlice (s.tplClass c.tpl) ch = some (p, k)) : s.cellSlice c ec = some (p, k) := by
  unfold State.cellSlice
  rw [if_pos hc, hch, Option.bind_some, hs]

theorem State.cellSlice_none (h : s.tplCarries c.tpl = false ∨ (s.cellChannel (s.tplClass c.tpl) ec c.chofs).all
    (fun ch => (s.txSlice (s.tplClass c.tpl) ch).isNone) = true) : s.cellSlice c ec = none := by
  unfold State.cellSlice
  rcases h with h | h
  · rw [if_neg (ne_true_of_eq_false h)]
  · cases hch : s.cellChannel (s.tplClass c.tpl) ec c.chofs with
    | none => exact ite_self none
    | some ch =>
      rw [hch, Option.all_some, Option.isNone_iff_eq_none] at h
      rw [Option.bind_some, h, ite_self]

theorem msqTxSelect_elsewhere (h : ¬ s.txOccurs c ec) : exec (.msqTxSelect t c ec r) s = .next (s.at t) := by
  change execMsqTxSelect t c ec r s = _
  unfold execMsqTxSelect
  exact congrArg Host.Outcome.next (if_neg fun hc => h (State.txOccurs_iff.mp hc))

theorem msqTxSelect_unusable (h : s.txOccurs c ec)
    (hoff : s.tplOn c.tpl = false ∨ (c.dir = 1 ∧ c.beacon = false ∧ s.nbr c.record = none)) :
    exec (.msqTxSelect t c ec r) s = .next ((s.at t).fire 107) := by
  change execMsqTxSelect t c ec r s = _
  unfold execMsqTxSelect
  dsimp only
  refine congrArg Host.Outcome.next ((if_pos (State.txOccurs_iff.mpr h)).trans (if_pos ?_))
  refine hoff.imp_right fun ⟨hd, hb, hn⟩ => ⟨hd, hb, ?_⟩
  rw [if_pos hd]
  exact hn

theorem msqTxSelect_usable (h : s.txOccurs c ec) (hon : s.tplOn c.tpl = true)
    (hr : c.dir ≠ 1 ∨ c.beacon = true ∨ s.nbr c.record ≠ none) :
    exec (.msqTxSelect t c ec r) s = .next ((s.cellSlice c ec).elim ((s.at t).fireIf c.beacon 103)
      fun x => (s.at t).useCell c ec (c.serves r) x.1 x.2) := by
  have hoff : ¬ (s.tplOn c.tpl = false ∨ (c.dir = 1 ∧ c.beacon = false ∧ s.nbr (c.serves r) = none)) := by
    rintro (h0 | ⟨hd, hb, hn⟩)
    · exact absurd hon (ne_true_of_eq_false h0)
    · rw [Cell.serves, if_pos hd] at hn
      rcases hr with hr | hr | hr
      · exact hr hd
      · exact absurd hr (ne_true_of_eq_false hb)
      · exact hr hn
  change execMsqTxSelect t c ec r s = _
  unfold execMsqTxSelect
  dsimp only
  refine congrArg Host.Outcome.next ((if_pos (State.txOccurs_iff.mpr h)).trans ((if_neg hoff).trans ?_))
  unfold State.cellSlice
  change (if s.tplCarries c.tpl = false then _ else (match s.cellChannel (s.tplClass c.tpl) ec c.chofs with
    | none => _ | some ch => match s.txSlice (s.tplClass c.tpl) ch with | none => _ | some (p, k) => _)) = _
  cases s.tplCarries c.tpl with
  | false => rfl
  | true =>
    cases s.cellChannel (s.tplClass c.tpl) ec c.chofs with
    | none => rfl
    | some ch =>
      rw [if_neg (fun h0 => Bool.false_ne_true h0.symm)]
      dsimp only [Option.bind_some]
      cases s.txSlice (s.tplClass c.tpl) ch with
      | none => rfl
      | some x => rfl

/-! ### What a cell sends -/

section

variable {pkt : Nat} {x : Pkt} {n : Nbr}

theorem State.useCell_beacon (hb : c.beacon = true) : s.useCell c ec r p k = s.sendBeacon c ec p k := by
  unfold State.useCell
  rw [if_pos hb]

theorem State.useCell_waits (hb : c.beacon = false) (h : s.gtValid = false ∨ s.busyWith r = true) : s.useCell c ec r p k = s := by
  unfold State.useCell
  rw [if_neg (ne_true_of_eq_false hb), if_pos h]

theorem State.useCell_empty (hb : c.beacon = false) (hx : s.headPkt r = none) : s.useCell c ec r p k = s := by
  unfold State.useCell
  rw [if_neg (ne_true_of_eq_false hb), hx]
  exact ite_self s

theorem State.useCell_unserved (hb : c.beacon = false) (hn : s.nbr r = some n) (hst : n.st ≠ 1) : s.useCell c ec r p k = s := by
  cases hx : s.headPkt r with
  | none => exact State.useCell_empty hb hx
  | some e =>
    unfold State.useCell
    rw [if_neg (ne_true_of_eq_false hb), hx, hn]
    dsimp only
    rw [if_pos hst, ite_self]

section

variable (hb : c.beacon = false) (hv : s.gtValid = true) (hbusy : s.busyWith r = false) (hx : s.headPkt r = some (pkt, x))
include hb hv hbusy hx

/-- A cell that may send to a served neighbour: a dedicated one any frame but CELLS that wait for a shared one, a shared one those (R199,
R200, R236). -/
theorem State.useCell_served (hn : s.nbr r = some n) (hst : n.st = 1) :
    s.useCell c ec r p k = if c.dir = 1 then
        if x.info.kind = 9 ∧ x.info.flag = false then s else s.sendDown c ec p k r n pkt x true (.down r pkt)
      else if x.info.kind = 9 ∧ x.info.flag = false then s.sendDown c ec p k r n pkt x false (.cells r pkt) else s := by
  have hgo : ¬ (s.gtValid = false ∨ s.busyWith r = true) :=
    fun hno => hno.elim (fun h0 => absurd hv (ne_true_of_eq_false h0)) (ne_true_of_eq_false hbusy)
  unfold State.useCell
  rw [if_neg (ne_true_of_eq_false hb), if_neg hgo, hx, hn]
  exact if_neg (not_not_intro hst)

theorem State.useCell_free (hn : s.nbr r = none) (hd : c.dir = 2) : s.useCell c ec r p k =
    s.sendRaw (s.tplLh c.tpl) p k (s.cellE c ec) (s.cellFin c ec) (s.tplMaxDur c.tpl) r pkt x 1 := by
  have hgo : ¬ (s.gtValid = false ∨ s.busyWith r = true) :=
    fun hno => hno.elim (fun h0 => absurd hv (ne_true_of_eq_false h0)) (ne_true_of_eq_false hbusy)
  unfold State.useCell
  rw [if_neg (ne_true_of_eq_false hb), if_neg hgo, hx, hn]
  exact if_pos hd

end

/-- A shared cell whose queue has nothing that may go there (R200, R236). -/
theorem State.useCell_shared_idle (hb : c.beacon = false) (hd : c.dir = 2)
    (h : s.gtValid = false ∨ s.busyWith r = true ∨ s.headPkt r = none ∨ (s.nbr r).any (fun n => n.st != 1) = true ∨
      ((s.nbr r).isSome = true ∧ (s.headPkt r).all (fun e => e.2.info.kind != 9 || e.2.info.flag) = true)) :
    s.useCell c ec r p k = s := by
  by_cases hgo : s.gtValid = false ∨ s.busyWith r = true
  · exact State.useCell_waits hb hgo
  · obtain ⟨hv, hbusy⟩ := not_or.mp hgo
    cases hx : s.headPkt r with
    | none => exact State.useCell_empty hb hx
    | some e =>
      rcases h with h | h | h | h | ⟨hsome, hall⟩
      · exact absurd h hv
      · exact absurd h hbusy
      · exact absurd (hx.symm.trans h) (Option.some_ne_none e)
      · cases hn : s.nbr r with
        | none =>
          rw [hn] at h
          exact absurd h Bool.false_ne_true
        | some n =>
          rw [hn, Option.any_some] at h
          exact State.useCell_unserved hb hn (bne_iff_ne.mp h)
      · obtain ⟨n, hn⟩ := Option.isSome_iff_exists.mp hsome
        by_cases hst : n.st = 1
        · rw [State.useCell_served hb (eq_true_of_ne_false hv) (eq_false_of_ne_true hbusy) hx hn hst, if_neg (by omega), if_neg]
          rintro ⟨hk, hflag⟩
          rw [hx, Option.all_some, hk, hflag] at hall
          exact Bool.false_ne_true hall
        · exact State.useCell_unserved hb hn hst

/-- A dedicated cell whose record has nothing that may go there (R199, R236). -/
theorem State.useCell_dedicated_idle (hb : c.beacon = false) (hd : c.dir = 1) (hn : s.nbr r = some n)
    (h : s.gtValid = false ∨ s.busyWith r = true ∨ n.st ≠ 1 ∨
      (s.headPkt r).all (fun e => e.2.info.kind == 9 && !e.2.info.flag) = true) : s.useCell c ec r p k = s := by
  by_cases hgo : s.gtValid = false ∨ s.busyWith r = true
  · exact State.useCell_waits hb hgo
  · obtain ⟨hv, hbusy⟩ := not_or.mp hgo
    rcases h with h | h | h | hall
    · exact absurd h hv
    · exact absurd h hbusy
    · exact State.useCell_unserved hb hn h
    · cases hx : s.headPkt r with
      | none => exact State.useCell_empty hb hx
      | some e =>
        by_cases hst : n.st = 1
        · rw [hx, Option.all_some, Bool.and_eq_true, beq_iff_eq, Bool.not_eq_true'] at hall
          rw [State.useCell_served hb (eq_true_of_ne_false hv) (eq_false_of_ne_true hbusy) hx hn hst, if_pos hd, if_pos hall]
        · exact State.useCell_unserved hb hn hst

end

/-! ### MSQ_TX_SELECT -/

theorem msqTxSelect_slice (h : s.txOccurs c ec) (hon : s.tplOn c.tpl = true)
    (hr : c.dir ≠ 1 ∨ c.beacon = true ∨ s.nbr c.record ≠ none) (hs : s.cellSlice c ec = some (p, k)) :
    exec (.msqTxSelect t c ec r) s = .next ((s.at t).useCell c ec (c.serves r) p k) := by
  rw [msqTxSelect_usable h hon hr, hs, Option.elim_some]

/-- A cell with nothing to send leaves all but the time, whether it occurs or not. -/
theorem msqTxSelect_idle (hb : c.beacon = false) (hon : s.tplOn c.tpl = true) (hr : c.dir ≠ 1 ∨ s.nbr c.record ≠ none)
    (hu : ∀ p k, (s.at t).useCell c ec (c.serves r) p k = s.at t) : exec (.msqTxSelect t c ec r) s = .next (s.at t) := by
  by_cases h : s.txOccurs c ec
  · rw [msqTxSelect_usable h hon (hr.imp_right .inr)]
    cases s.cellSlice c ec with
    | none => rw [Option.elim_none, hb]; rfl
    | some x => rw [Option.elim_some, hu]
  · exact msqTxSelect_elsewhere h

end

end Sys2Proof.Machine
end

section
/-! EXP cells, directed searches and backoffs (R197, R218), for `Obligations.MsqTransmits`. -/

namespace Sys2Proof.Machine

section

variable {s : State} {t : Time} {c : Cell} {ec : Nat} {n : Nbr}

/-! ### EXP_CELL_END (R197, R226) -/

/-- A verified frame of the cell's record started within 32 ms of `e` (R197). -/
def State.heardAt (s : State) (c : Cell) (e : Nat) : Bool :=
  s.msq.verified.any (fun (v : Nat × Nat) => v.1 == c.record && Nat.ble (gtDiff v.2 e).natAbs (usToGt 32000 s.mainsFreq))

/-- The searches that wait for their start. -/
def State.searchesQueued (s : State) : Nat := (s.msq.searches.filter (fun (x : Search) => !x.started)).length

/-- A search for the frame that the cell `c` missed at `e` joins the queue (R197). -/
def State.queueSearch (s : State) (c : Cell) (e : Nat) : State := { s with msq := { s.msq with
  searches := s.msq.searches ++ [⟨s.msq.nextSearch, c.record, c, e, false, 8, []⟩], nextSearch := s.msq.nextSearch + 1 } }

/-- The occurrence `ec` of the expected cell `c` is over at `t`, in a template that carries frames now (R179, R197). -/
def State.expOver (s : State) (t : Time) (c : Cell) (ec : Nat) : Prop :=
  s.allCells.contains c = true ∧ s.cellAt c ec = true ∧ c.exp = true ∧ c.dir = 0 ∧ s.tplCarries c.tpl = true ∧
    0 ≤ gtDiff t.gt ((s.at t).cellFin c ec)

theorem State.expOver_iff : (s.allCells.contains c && (s.cellAt c ec && (c.exp && (c.dir == 0 &&
    (s.tplCarries c.tpl && decide (0 ≤ gtDiff t.gt ((s.at t).cellFin c ec))))))) = true ↔ s.expOver t c ec := by
  simp only [State.expOver, Bool.and_eq_true, beq_iff_eq, decide_eq_true_eq]

theorem expCellEnd_idle (h : ¬ (s.expOver t c ec ∧ s.nbr c.record ≠ none)) :
    exec (.expCellEnd t c ec) s = .next (s.at t) := by
  change execExpCellEnd t c ec s = _
  unfold execExpCellEnd
  refine congrArg Host.Outcome.next ?_
  by_cases hover : s.expOver t c ec
  · have hn : (s.at t).nbr c.record = none := not_not.mp fun hn => h ⟨hover, hn⟩
    refine (if_pos (State.expOver_iff.mpr hover)).trans ?_
    rw [hn]
  · exact if_neg fun hc => hover (State.expOver_iff.mp hc)

theorem expCellEnd_over (hover : s.expOver t c ec) (hn : s.nbr c.record = some n) :
    exec (.expCellEnd t c ec) s = .next (
      let heard := (s.at t).heardAt c ((s.at t).cellE c ec)
      let u := (s.at t).expOutcome n.node (s.tplClass c.tpl) heard
      if (heard || !s.searchOk) = true then u
      else if u.searchesQueued < 256 then u.queueSearch c ((s.at t).cellE c ec)
      else (u.bump Ctr.MSQ_SRCHDROP).fire 110) := by
  have hn' : (s.at t).nbr c.record = some n := hn
  change execExpCellEnd t c ec s = _
  unfold execExpCellEnd
  refine congrArg Host.Outcome.next ((if_pos (State.expOver_iff.mpr hover)).trans ?_)
  rw [hn']
  rfl

/-- The outcome of an expected cell is SLV's (R226). -/
theorem State.expOutcome_msq (s : State) (node cls : Nat) (ok : Bool) : (s.expOutcome node cls ok).msq = s.msq := by
  unfold State.expOutcome
  dsimp only
  split
  · split
    · rfl
    · rfl
  · rfl

variable {b : Bool} (hover : s.expOver t c ec) (hn : s.nbr c.record = some n)
  (hb : b = (s.at t).heardAt c ((s.at t).cellE c ec))
include hover hn hb

theorem expCellEnd_outcome (h : b = true ∨ s.searchOk = false) :
    exec (.expCellEnd t c ec) s = .next ((s.at t).expOutcome n.node (s.tplClass c.tpl) b) := by
  rw [expCellEnd_over hover hn, ← hb]
  refine congrArg Host.Outcome.next (if_pos ?_)
  rcases h with h | h
  · rw [h, Bool.true_or]
  · rw [h, Bool.not_false, Bool.or_true]

theorem expCellEnd_unheard (hno : b = false) (hok : s.searchOk = true) :
    exec (.expCellEnd t c ec) s = .next (
      let u := (s.at t).expOutcome n.node (s.tplClass c.tpl) false
      if s.searchesQueued < 256 then u.queueSearch c ((s.at t).cellE c ec) else (u.bump Ctr.MSQ_SRCHDROP).fire 110) := by
  have hqueued : ((s.at t).expOutcome n.node (s.tplClass c.tpl) false).searchesQueued = s.searchesQueued := by
    unfold State.searchesQueued
    rw [State.expOutcome_msq]
    rfl
  rw [expCellEnd_over hover hn, ← hb, hno, hok]
  dsimp only
  rw [hqueued]
  rfl

theorem expCellEnd_searches (hno : b = false) (hok : s.searchOk = true) (hroom : s.searchesQueued < 256) :
    exec (.expCellEnd t c ec) s = .next { (s.at t).expOutcome n.node (s.tplClass c.tpl) false with msq := { s.msq with
      searches := s.msq.searches ++ [⟨s.msq.nextSearch, c.record, c, (s.at t).cellE c ec, false, 8, []⟩],
      nextSearch := s.msq.nextSearch + 1 } } := by
  rw [expCellEnd_unheard hover hn hb hno hok]
  dsimp only
  rw [if_pos hroom, State.queueSearch, State.expOutcome_msq]
  rfl

theorem expCellEnd_full (hno : b = false) (hok : s.searchOk = true) (hfull : 256 ≤ s.searchesQueued) :
    exec (.expCellEnd t c ec) s =
      .next ((((s.at t).expOutcome n.node (s.tplClass c.tpl) false).bump Ctr.MSQ_SRCHDROP).fire 110) := by
  rw [expCellEnd_unheard hover hn hb hno hok]
  exact congrArg Host.Outcome.next (if_neg (Nat.not_lt.mpr hfull))

end

/-! ### SEARCH_START (R197) -/

/-- The reads of a segment change RFP alone. -/
theorem State.searchRead_frame (s : State) (x : Search) : s.searchRead x = { s with rfp := (s.searchRead x).rfp } := by
  unfold State.searchRead
  exact List.foldlRecOn (motive := fun u : State => u = { s with rfp := u.rfp }) _ _ rfl
    fun u hu p _ => State.histRequest_keeps_frame hu _ _ _ _ _

theorem State.searchRead_regs (s : State) (x : Search) : (s.searchRead x).regs = s.regs := by
  rw [State.searchRead_frame]

theorem State.searchRead_msq (s : State) (x : Search) : (s.searchRead x).msq = s.msq := by
  rw [State.searchRead_frame]

/-- The search `y` in the place of those with its number. -/
def State.putSearch (s : State) (id : Nat) (y : Search) : State :=
  { s with msq := { s.msq with searches := s.msq.searches.map (fun (z : Search) => if z.id = id then y else z) } }

section

variable {s : State} {x : Search}

theorem searchStart_idle (h : 8 ≤ (s.msq.searches.filter (fun (x : Search) => x.started)).length ∨
    s.msq.searches.find? (fun (x : Search) => !x.started) = none) : exec .searchStart s = .next s := by
  change execSearchStart s = _
  unfold execSearchStart
  refine congrArg Host.Outcome.next ?_
  by_cases h8 : 8 ≤ (s.msq.searches.filter (fun (x : Search) => x.started)).length
  · exact if_pos h8
  · rw [if_neg h8, h.resolve_left h8]

theorem searchStart_starts (h8 : (s.msq.searches.filter (fun (x : Search) => x.started)).length < 8)
    (hx : s.msq.searches.find? (fun (x : Search) => !x.started) = some x) :
    exec .searchStart s =
      .next (((s.putSearch x.id { x with started := true }).bump Ctr.MSQ_SRCH).searchRead { x with started := true }) := by
  change execSearchStart s = _
  unfold execSearchStart
  rw [if_neg (Nat.not_le.mpr h8), hx]
  rfl

theorem State.searchStarted_result (s : State) (x y : Search) :
    let u := ((s.putSearch x.id y).bump Ctr.MSQ_SRCH).searchRead y
    u.msq = { s.msq with searches := s.msq.searches.map (fun (z : Search) => if z.id = x.id then y else z) } ∧
      u.ctr Ctr.MSQ_SRCH = (s.ctr Ctr.MSQ_SRCH + 1) % 2 ^ 48 ∧ s.regsBut u (halves Ctr.MSQ_SRCH) ∧
      u = { s with regs := u.regs, rfp := u.rfp, msq := u.msq } := by
  intro u
  have hregs : u.regs = (s.bump Ctr.MSQ_SRCH).regs := State.searchRead_regs _ y
  have hmsq : u.msq = (s.putSearch x.id y).msq := State.searchRead_msq _ y
  refine ⟨hmsq, ?_, ?_, ?_⟩
  · rw [State.ctr_congr hregs, State.ctr_bump_same]
  · exact State.regsBut_regs hregs (State.regsBut_bump _ 1 State.regsBut_refl (by decide) (by decide))
  · rw [hregs, hmsq]
    exact (State.searchRead_frame _ y).trans (congrArg (fun v : State => { v with rfp := u.rfp }) (State.bump_frame _ _ 1))

/-! ### SEARCH_SEGMENT (R197) -/

variable {t : Time} {id : Nat} {dets : List SearchDet} {d : SearchDet}

/-- A read of the search `id` is still to end. -/
def State.searchReading (s : State) (id : Nat) : Bool := s.rfp.reads.any (fun (r : HistRead) => r.reader == .msq && r.tag == id)

/-- The search `id`, where it has started. -/
def State.searchRun (s : State) (id : Nat) : Option Search := s.msq.searches.find? (fun (x : Search) => x.id == id && x.started)

/-- The detections of a segment, taken one after the other. -/
def State.searchDetects (s : State) (x : Search) (dets : List SearchDet) : State := dets.foldl (fun u d => u.searchDetect x d) s

/-- The search `id` has ended. -/
def State.dropSearch (s : State) (id : Nat) : State :=
  { s with msq := { s.msq with searches := s.msq.searches.filter (fun (z : Search) => z.id != id) } }

@[simp] theorem State.dropSearch_regs (s : State) (id : Nat) : (s.dropSearch id).regs = s.regs := rfl
@[simp] theorem State.dropSearch_dmx (s : State) (id : Nat) : (s.dropSearch id).dmx = s.dmx := rfl

theorem searchSegment_idle (h : s.searchRun id = none ∨ s.searchReading id = true) :
    exec (.searchSegment t id dets) s = .next (s.at t) := by
  change execSearchSegment t id dets s = _
  unfold execSearchSegment
  change Host.Outcome.next (match s.searchRun id with | none => _ | some x => _) = _
  cases hx : s.searchRun id with
  | none => rfl
  | some x => exact congrArg Host.Outcome.next (if_pos (h.resolve_left (hx ▸ Option.some_ne_none x)))

theorem searchSegment_read (hx : s.searchRun id = some x) (hr : s.searchReading id = false) :
    exec (.searchSegment t id dets) s = .next (let u := (s.at t).searchDetects x dets
      if x.left ≤ 1 then u.dropSearch id
      else (u.putSearch id { x with left := x.left - 1, ok := [] }).searchRead { x with left := x.left - 1, ok := [] }) := by
  change execSearchSegment t id dets s = _
  unfold execSearchSegment
  change Host.Outcome.next (match s.searchRun id with | none => _ | some x => _) = _
  rw [hx]
  exact congrArg Host.Outcome.next (if_neg (ne_true_of_eq_false hr))

theorem searchSegment_last (hx : s.searchRun id = some x) (hr : s.searchReading id = false) (hl : x.left ≤ 1) :
    exec (.searchSegment t id dets) s = .next (((s.at t).searchDetects x dets).dropSearch id) :=
  (searchSegment_read hx hr).trans (congrArg Host.Outcome.next (if_pos hl))

theorem searchSegment_next (hx : s.searchRun id = some x) (hr : s.searchReading id = false) (hl : 1 < x.left) :
    exec (.searchSegment t id dets) s = .next ((((s.at t).searchDetects x dets).putSearch id
      { x with left := x.left - 1, ok := [] }).searchRead { x with left := x.left - 1, ok := [] }) :=
  (searchSegment_read hx hr).trans (congrArg Host.Outcome.next (if_neg (Nat.not_le.mpr hl)))

/-- Without a port whose samples could be used a search looks for nothing (R108, R197). -/
theorem State.searchLooks_blind (s : State) (d : SearchDet) (hok : x.ok = []) : s.searchLooks x d = false := by
  unfold State.searchLooks
  rw [hok]
  rfl

theorem State.searchDetect_ignored (h : s.searchLooks x d = false) : s.searchDetect x d = s := by
  unfold State.searchDetect
  exact if_pos h

theorem State.searchDetects_blind (s : State) (dets : List SearchDet) (hok : x.ok = []) : s.searchDetects x dets = s :=
  List.foldlRecOn (motive := fun u : State => u = s) _ _ rfl
    fun u hu d _ => (State.searchDetect_ignored (u.searchLooks_blind d hok)).trans hu

/-- A detection that a search looks for joins the retro queue, where that has room (R148, R197). -/
theorem State.searchDetect_joins (h : s.searchLooks x d = true) (hroom : s.dmx.retro.length < 64) :
    ∃ r, s.searchDetect x d = { s with dmx := { s.dmx with retro := s.dmx.retro ++ [r] } } := by
  unfold State.searchDetect
  dsimp only
  rw [if_neg (by rw [h]; exact fun h0 => Bool.false_ne_true h0.symm), if_pos hroom]
  exact ⟨_, rfl⟩

theorem State.searchDetect_lost (h : s.searchLooks x d = true) (hfull : 64 ≤ s.dmx.retro.length) :
    s.searchDetect x d = (s.bump Ctr.DMX_RETROOVF).fire 65 := by
  unfold State.searchDetect
  dsimp only
  rw [if_neg (by rw [h]; exact fun h0 => Bool.false_ne_true h0.symm), if_neg (Nat.not_lt.mpr hfull)]

/-- What a search looks for does not depend on DMX. -/
theorem State.searchLooks_dmx (s : State) (m : Dmx) : State.searchLooks { s with dmx := m } x = s.searchLooks x := rfl

theorem State.searchDetects_join (s : State) (dets : List SearchDet) (hroom : s.dmx.retro.length + dets.length ≤ 64) :
    ∃ l, s.searchDetects x dets = { s with dmx := { s.dmx with retro := s.dmx.retro ++ l } } ∧
      l.length = (dets.filter (fun d => s.searchLooks x d)).length := by
  induction dets generalizing s with
  | nil => exact ⟨[], by rw [List.append_nil]; rfl, rfl⟩
  | cons d dets ih =>
    rw [List.length_cons] at hroom
    cases h : s.searchLooks x d with
    | false =>
      obtain ⟨l, hl, hlen⟩ := ih s (by omega)
      refine ⟨l, ?_, ?_⟩
      · exact (congrArg (fun u : State => u.searchDetects x dets) (State.searchDetect_ignored h)).trans hl
      · rw [List.filter_cons, h]
        exact hlen
    | true =>
      obtain ⟨r, hr⟩ := State.searchDetect_joins h (by omega)
      obtain ⟨l, hl, hlen⟩ := ih { s with dmx := { s.dmx with retro := s.dmx.retro ++ [r] } } (by
        change (s.dmx.retro ++ [r]).length + dets.length ≤ 64
        rw [List.length_append, List.length_singleton]
        omega)
      refine ⟨r :: l, ?_, ?_⟩
      · refine (congrArg (fun u : State => u.searchDetects x dets) hr).trans (hl.trans ?_)
        rw [List.append_assoc, List.singleton_append]
      · rw [List.filter_cons, h, if_pos rfl, List.length_cons, List.length_cons, hlen, State.searchLooks_dmx]

end

/-! ### CCA_BACKOFF_EXPIRE (R218) -/

section

variable {s : State} {t : Time} {id due r pkt : Nat} {x : MsqTx} {y : Pkt}

/-- The backoff `id` is over. -/
def State.backoffOver (s : State) (id : Nat) : State := { s with msq := { s.msq with backoffs := s.msq.backoffs.del id } }

theorem ccaBackoffExpire_none (hf : s.msq.backoffs.find id = none) : exec (.ccaBackoffExpire t id) s = .next (s.at t) := by
  change execCcaBackoffExpire t id s = _
  unfold execCcaBackoffExpire
  change Host.Outcome.next (match s.msq.backoffs.find id with | none => _ | some (due, x) => _) = _
  rw [hf]

/-- What becomes of a class C frame whose backoff is over, where it would start at `start` (R218): another attempt, if it is the head
and still ends in its cell. -/
def State.retryAt (s : State) (x : MsqTx) (start : Nat) : State :=
  match x.what with
  | .raw r pkt => match s.headPkt r with
    | some (c, y) =>
      if c = pkt ∧ gtDiff (gtAdd start (s.airGt x.lh x.hdr (chipRate (s.sliceClass x.port x.slice)))) x.cellEnd ≤ 0 then
        s.sendRaw x.lh x.port x.slice start x.cellEnd (2 ^ 13) r pkt y (x.tries + 1)
      else s
    | none => s
  | _ => s

theorem ccaBackoffExpire_found (hf : s.msq.backoffs.find id = some (due, x)) :
    exec (.ccaBackoffExpire t id) s =
      .next (if t.ft < due then s.at t else ((s.at t).backoffOver id).retryAt x ((s.at t).backoffStart x)) := by
  change execCcaBackoffExpire t id s = _
  unfold execCcaBackoffExpire
  change Host.Outcome.next (match s.msq.backoffs.find id with | none => _ | some (due, x) => _) = _
  rw [hf]
  refine congrArg Host.Outcome.next (ite_congr rfl (fun _ => rfl) fun _ => ?_)
  extract_lets _ s1 win start fin
  have hwin : win = (s1.lbt (s1.sliceCentre x.port x.slice).toNat (spacing (s1.sliceClass x.port x.slice)) .data).elim 0
      fun w => w.1 * 16000 := by
    unfold win
    cases s1.lbt (s1.sliceCentre x.port x.slice).toNat (spacing (s1.sliceClass x.port x.slice)) .data with
    | none => rfl
    | some w => rfl
  have hstart : start = s1.backoffStart x := by
    unfold start State.backoffStart
    rw [hwin]
  exact congrArg (s1.retryAt x) hstart

variable {start : Nat}

theorem State.retryAt_other (h : (match x.what with | .raw _ _ => true | _ => false) = false) : s.retryAt x start = s := by
  unfold State.retryAt
  split
  · rename_i hw
    rw [hw] at h
    exact absurd h Bool.false_ne_true.symm
  · rfl

theorem State.retryAt_drops (hw : x.what = .raw r pkt)
    (h : (s.headPkt r).all (fun e => e.1 != pkt || decide (0 <
      gtDiff (gtAdd start (s.airGt x.lh x.hdr (chipRate (s.sliceClass x.port x.slice)))) x.cellEnd)) = true) :
    s.retryAt x start = s := by
  unfold State.retryAt
  rw [hw]
  dsimp only
  cases hx : s.headPkt r with
  | none => rfl
  | some e =>
    rw [hx, Option.all_some, Bool.or_eq_true, bne_iff_ne, decide_eq_true_eq] at h
    refine if_neg ?_
    rintro ⟨hp, hfin⟩
    exact h.elim (fun h0 => h0 hp) (Int.not_lt.mpr hfin)

theorem State.retryAt_sends (hw : x.what = .raw r pkt) (hx : s.headPkt r = some (pkt, y))
    (hfin : gtDiff (gtAdd start (s.airGt x.lh x.hdr (chipRate (s.sliceClass x.port x.slice)))) x.cellEnd ≤ 0) :
    s.retryAt x start = s.sendRaw x.lh x.port x.slice start x.cellEnd (2 ^ 13) r pkt y (x.tries + 1) := by
  unfold State.retryAt
  rw [hw]
  dsimp only
  rw [hx]
  exact if_pos ⟨rfl, hfin⟩

end

end Sys2Proof.Machine
end

section
/-! `Obligations.MsqTransmits` (R197, R199 to R201, R216, R218). -/

namespace Sys2Proof.Machine

section

variable {s : State} {t : Time} {id : Nat} {dets : List SearchDet} {d : SearchDet} {x : Search}

theorem searchSegment_ends (hx : s.searchRun id = some x) (hl : x.left ≤ 1) (hr : s.searchReading id = false)
    (hroom : s.dmx.retro.length + dets.length ≤ 64) :
    ∃ u, exec (.searchSegment t id dets) s = .next u ∧
      u.dmx.retro.length = s.dmx.retro.length + (dets.filter (fun d => (s.at t).searchLooks x d)).length ∧
      u.msq = (s.dropSearch id).msq ∧ s.regsBut u [] := by
  obtain ⟨l, hl', hlen⟩ := (s.at t).searchDetects_join (x := x) dets hroom
  refine ⟨_, searchSegment_last hx hr hl, ?_, ?_, ?_⟩
  · rw [hl', ← hlen]
    exact List.length_append
  · rw [hl']
    rfl
  · rw [hl']
    exact State.regsBut_mk State.regsBut_refl

theorem searchSegment_overflows (hx : s.searchRun id = some x) (hl : x.left ≤ 1) (hr : s.searchReading id = false)
    (hfull : 64 ≤ s.dmx.retro.length) (hlook : (s.at t).searchLooks x d = true) :
    ∃ u, exec (.searchSegment t id [d]) s = .next u ∧ u.dmx = s.dmx ∧
      u.ctr Ctr.DMX_RETROOVF = (s.ctr Ctr.DMX_RETROOVF + 1) % 2 ^ 48 ∧ (s.sysOn → u.isPend 65 = true) ∧
      s.regsEvt u (halves Ctr.DMX_RETROOVF) := by
  have hlost : (s.at t).searchDetects x [d] = ((s.at t).bump Ctr.DMX_RETROOVF).fire 65 := State.searchDetect_lost hlook hfull
  have hregs : (((s.at t).searchDetects x [d]).dropSearch id).regs = (((s.at t).bump Ctr.DMX_RETROOVF).fire 65).regs := by
    rw [State.dropSearch_regs, hlost]
  refine ⟨_, searchSegment_last hx hr hl, ?_, ?_, fun hs => ?_, State.regsEvt_regs hregs ?_⟩
  · rw [State.dropSearch_dmx, hlost, State.fire_dmx, State.bump_dmx]
    rfl
  · rw [State.ctr_congr hregs, State.ctr_fire_ne _ _ _ (by decide) (by decide) (by decide), State.ctr_bump_same, State.ctr_at]
  · rw [State.isPend_congr hregs]
    exact State.isPend_fire _ 65 hs
  · exact State.regsEvt_fire 65 (State.regsEvt_bump _ 1 (State.regsEvt_at t State.regsEvt_refl) (by decide) (by decide)) (by decide)

theorem searchSegment_continues (hx : s.searchRun id = some x) (hl : 1 < x.left) (hr : s.searchReading id = false) :
    ∃ u, exec (.searchSegment t id []) s = .next u ∧ u.msq = (s.putSearch id { x with left := x.left - 1, ok := [] }).msq ∧
      u = { s.at t with regs := u.regs, rfp := u.rfp, msq := u.msq } := by
  refine ⟨_, searchSegment_next hx hr hl, State.searchRead_msq _ _, ?_⟩
  rw [State.searchRead_regs, State.searchRead_msq]
  exact State.searchRead_frame _ _

end

/-- Settles O40: each clause is the lemma of its command, of what a cell sends, or of what a search finds. -/
theorem msqTransmits : Obligations.MsqTransmits := by
  refine ⟨?_, ?_, ?_, ?_, ?_, ?_, fun s c e p k => State.sendBeacon_off c e p k, ?_, ?_, ?_,
    fun s c e p k r pkt n x ar w => State.sendDown_too_long s e r pkt ar w,
    fun s lh p k start e maxdur r pkt tries x => State.sendRaw_misfit s lh p k start e maxdur r pkt tries, ?_, ?_, ?_, ?_,
    fun s => searchStart_idle, ?_, ?_, fun s t id dets x hx hl hr => searchSegment_ends hx hl hr,
    fun s t id dets => searchSegment_idle, fun s t id d x hx hl hr => searchSegment_overflows hx hl hr,
    fun s t id x hx hl hr => searchSegment_continues hx hl hr,
    fun s t id => ccaBackoffExpire_none, ?_, ?_, ?_, ?_⟩
  · intro s t c ec r h
    refine msqTxSelect_elsewhere fun ⟨hlev, hcell, hat, hd⟩ => ?_
    rcases h with h | h | h | h
    · exact hlev h
    · exact absurd hcell (ne_true_of_eq_false h)
    · exact absurd hat (ne_true_of_eq_false h)
    · exact hd h
  · intro s t c ec r hlev hcell hat hd hoff
    refine ⟨_, msqTxSelect_unusable ⟨hlev, hcell, hat, hd⟩ hoff, State.isPend_fire (s.at t) 107,
      State.regsEvt_fire 107 (State.regsEvt_at t State.regsEvt_refl) (by decide), State.fire_frame _ 107⟩
  · intro s t c ec r hlev hcell hat hd hr hon hno
    rw [msqTxSelect_usable ⟨hlev, hcell, hat, hd⟩ hon hr, State.cellSlice_none hno, Option.elim_none]
  · intro s t c ec r ch p k hlev hcell hat hd hb hon hc hch hs
    rw [msqTxSelect_slice ⟨hlev, hcell, hat, hd⟩ hon (.inr (.inl hb)) (State.cellSlice_some hc hch hs), State.useCell_beacon hb]
  · intro s t c ec r hb hon hd h
    refine msqTxSelect_idle hb hon (.inl (by omega)) fun p k => ?_
    rw [Cell.serves, if_neg (by omega)]
    exact State.useCell_shared_idle (s := s.at t) hb hd h
  · intro s t c ec r n hb hon hd hn h
    refine msqTxSelect_idle hb hon (.inr (hn ▸ Option.some_ne_none n)) fun p k => ?_
    rw [Cell.serves, if_pos hd]
    exact State.useCell_dedicated_idle (s := s.at t) hb hd hn h
  · intro s t c ec r ch p k pkt x n hlev hcell hat hd hb hon hc hch hs hv hbusy hx hn hst hgo
    rw [msqTxSelect_slice ⟨hlev, hcell, hat, by omega⟩ hon (.inr (.inr (hn ▸ Option.some_ne_none n)))
      (State.cellSlice_some hc hch hs), Cell.serves, if_pos hd,
      State.useCell_served (s := s.at t) hb hv hbusy hx hn hst, if_pos hd, if_neg]
    rintro ⟨hk, hflag⟩
    exact hgo.elim (fun h0 => h0 hk) (ne_true_of_eq_false hflag)
  · intro s t c ec r ch p k pkt x n hlev hcell hat hd hb hon hc hch hs hv hbusy hx hn hst hk hflag
    rw [msqTxSelect_slice ⟨hlev, hcell, hat, by omega⟩ hon (.inl (by omega)) (State.cellSlice_some hc hch hs), Cell.serves,
      if_neg (by omega), State.useCell_served (s := s.at t) hb hv hbusy hx hn hst, if_neg (by omega), if_pos ⟨hk, hflag⟩]
  · intro s t c ec r ch p k pkt x hlev hcell hat hd hb hon hc hch hs hv hbusy hx hn
    rw [msqTxSelect_slice ⟨hlev, hcell, hat, by omega⟩ hon (.inl (by omega)) (State.cellSlice_some hc hch hs), Cell.serves,
      if_neg (by omega), State.useCell_free (s := s.at t) hb hv hbusy hx hn hd]
    rfl
  · intro s t c ec h
    refine expCellEnd_idle fun ⟨⟨hcell, hat, hexp, hd, hc, hfin⟩, hn⟩ => ?_
    rcases h with h | h | h | h | h | h | h
    · exact absurd hcell (ne_true_of_eq_false h)
    · exact absurd hat (ne_true_of_eq_false h)
    · exact absurd hexp (ne_true_of_eq_false h)
    · exact h hd
    · exact absurd hc (ne_true_of_eq_false h)
    · exact absurd hfin (Int.not_le.mpr h)
    · exact hn h
  · intro s t c ec n b hcell hat hexp hd hc hfin hn hb
    exact expCellEnd_outcome ⟨hcell, hat, hexp, hd, hc, hfin⟩ hn hb
  · intro s t c ec n b hcell hat hexp hd hc hfin hn hb
    exact expCellEnd_searches ⟨hcell, hat, hexp, hd, hc, hfin⟩ hn hb
  · intro s t c ec n b hcell hat hexp hd hc hfin hn hb
    exact expCellEnd_full ⟨hcell, hat, hexp, hd, hc, hfin⟩ hn hb
  · intro s x h8 hx
    exact ⟨_, searchStart_starts h8 hx, s.searchStarted_result x { x with started := true }⟩
  · intro s t id dets x hx hok hl hr
    refine ⟨_, searchSegment_last hx hr hl, ?_⟩
    rw [State.searchDetects_blind _ _ hok]
    rfl
  · intro s t id due x hf hdue hw
    rw [ccaBackoffExpire_found hf, if_neg (Nat.not_lt.mpr hdue), State.retryAt_other hw]
    rfl
  · intro s t id due x hf hdue
    rw [ccaBackoffExpire_found hf, if_pos hdue]
  · intro s t id due r pkt x hf hdue hw h
    refine ⟨_, ?_, rfl⟩
    rw [ccaBackoffExpire_found hf, if_neg (Nat.not_lt.mpr hdue), State.retryAt_drops (s := (s.at t).backoffOver id) hw h]
    rfl
  · intro s t id due r pkt x y hf hdue hw hx hfin
    rw [ccaBackoffExpire_found hf, if_neg (Nat.not_lt.mpr hdue), State.retryAt_sends (s := (s.at t).backoffOver id) hw hx hfin]
    rfl

end Sys2Proof.Machine
end
